-- ==== Sys2Proof/Word.lean ====
section
/-!
DEFINITION. Word.lean: the word types of the module and the plain shapes of its register map: the access codes of R10,
a register field (physical address, lowest bit, width), and a register as a bus write sees it.
-/
namespace Sys2Proof

/-- A register of the module: 64 bits, little-endian (R8, R9). -/
abbrev Word := BitVec 64

/-- One byte of a memory. -/
abbrev Byte := BitVec 8

/-- The access codes of R10. -/
inductive Acc where
  | ro | rw | w1c | w1s | wo | rws | rwi
deriving DecidableEq, Repr

/-- A register field: the register's physical address, the field's lowest bit and its width. -/
structure Fld where
  addr : Nat
  lo : Nat
  w : Nat
deriving DecidableEq, Repr

/-- A field of a register definition: lowest bit, width, access code. -/
structure FDef where
  lo : Nat
  w : Nat
  acc : Acc
deriving DecidableEq, Repr

/-- A register family as a bus access sees it: the address of its first register, stride and count of its two
indices, whether it is atomic-64 (R9), and its fields that are not RO. -/
structure RDef where
  base : Nat
  s1 : Nat
  c1 : Nat
  s2 : Nat
  c2 : Nat
  atomic : Bool
  fields : List FDef
deriving DecidableEq, Repr

end Sys2Proof
end

