-- ==== Sys2Proof/Syntax.lean ====
section
/-!
DEFINITION. Syntax.lean: the commands of the module, one constructor per row of spec/opcode_table.json, with the
operands the row's rule needs: the instance it names, and what its environment measures, sends or writes. A command
that stands for an event (a timer that expires, a level that changes, a frame that arrives) carries what the event
brings.
-/
namespace Sys2Proof

/-- Who makes an access or sends a request (R10, R287, R440): a pair in lockstep (0 A, 1 B), a core of a split pair,
a host on SPIH, the debug module. -/
inductive Origin where
  | pair (p : Fin 2)
  | core (c : Fin 4)
  | host
  | debug
deriving DecidableEq, Repr

/-- The width of an access in bits (R9). -/
inductive Width where
  | w8 | w16 | w32 | w64
deriving DecidableEq, Repr

/-- A width as a number of bytes. -/
def Width.bytes : Width → Nat
  | .w8 => 1 | .w16 => 2 | .w32 => 4 | .w64 => 8

/-- What a pipeline converter converts in one aperture: the signal of its input and the reference (R80), or the decisions of its
stages, two bits each (0, 1, 2 for 0, +1, −1), with the final decision (R94). The signal is the voltage at the lands in µV; on
diagnostic input 13 AVDD or REFIN in µV before the divider, on input 14 the die temperature in m°C, and inputs 12 and 15 take none
(R79). -/
inductive Conv where
  | volts (uv : Int) (vref : Nat)
  | stages (k : BitVec 28) (f : BitVec 2)
deriving DecidableEq, Repr

/-- What a squash reaches (R229): the newest read, the `j`th of the outstanding computes and behind them the returned ones, newest
first, the `j`th entry of the commit buffer, or the youngest instruction that waits at issue. -/
inductive Squash where
  | read
  | compute (j : Fin 2)
  | write (j : Fin 8)
  | waiting
deriving DecidableEq, Repr

/-- A CAN frame (R355): `fmt` 0 Classic, 1 FD, 2 XL; `rtr` is the RRS bit of an XL frame; a base or XL priority identifier
stands in [28:18] of `id`. -/
structure CanFrame where
  fmt : Fin 3 := 0
  ide : Bool := false
  rtr : Bool := false
  brs : Bool := false
  esi : Bool := false
  id : BitVec 29 := 0
  data : List (BitVec 8) := []
  af : BitVec 32 := 0
  vcid : BitVec 8 := 0
  sdt : BitVec 8 := 0
  sec : Bool := false
deriving DecidableEq, Repr

/-- How an attempt to transmit ends (R357): sent, with the ns since its start of frame and the measured loop delay in
clocks; arbitration lost; an error, with the loop delay where the attempt came to its data phase (R353). -/
inductive TxEnd where
  | sent (age : BitVec 32) (loop : BitVec 8)
  | lost
  | error (loop : Option (BitVec 8))
deriving DecidableEq, Repr

/-- What a detected bus error adds to the error counters under ISO 11898-1 (R362, log entry 18): a receiver 1, a receiver that
finds a dominant bit after its error flag 8, a transmitter 8, a transmitter in one of the standard's exceptions 0; and a receiver's
error in the data phase of an XL frame. -/
inductive CanErr where
  | rx | rxDominant | tx | txExempt | rxXl
deriving DecidableEq, Repr

/-- The content of an Announce that best-master selection compares (R371): the grandmaster's priority1, clockClass,
priority2 and clockIdentity, the steps removed, and the sender's identity. -/
structure Announce where
  prio1 : BitVec 8 := 255
  cls : BitVec 8 := 248
  prio2 : BitVec 8 := 255
  gm : BitVec 64 := 0
  steps : BitVec 16 := 0
  src : BitVec 64 := 0
deriving DecidableEq, Repr

/-- A SEG_REG (R390): leader and gateway identities, the version range, the members, and the number the leader reports. -/
structure SegReg where
  leader : BitVec 64 := 0
  gw : BitVec 64 := 0
  vmin : BitVec 4 := 1
  vmax : BitVec 4 := 1
  members : List (BitVec 64) := []
  num : Option (BitVec 9) := none
deriving DecidableEq, Repr

/-- How an operation of SPIM0 ends (R406): done, with the bytes the flash returned and the flash bytes its opcode changed, or
timed out. -/
inductive M0End where
  | done (rd : List (BitVec 8)) (chg : List (BitVec 32 × BitVec 8))
  | timeout
deriving DecidableEq, Repr

/-- What the service tag's engine does (R416): the swap of a page's pointer begins, the host's operation is done, or it ends after
6 ms of waiting on the field. -/
inductive TagEnd where
  | swap
  | done
  | timeout
deriving DecidableEq, Repr

/-- How a LIN frame ends (R412): complete, with the data and the checksum on the bus, or with a transmitted bit that read back
wrong. -/
inductive LinEnd where
  | done (data : List (BitVec 8)) (sum : BitVec 8)
  | bitError
deriving DecidableEq, Repr

/-- The two supply voltages of a gate channel's high-voltage half that training reads back, in 0.1 V (R73). -/
structure Rails where
  vpos : BitVec 8
  vneg : BitVec 8
deriving DecidableEq, Repr

/-- Which tags a reader's command addresses (ISO/IEC 15693). -/
inductive TagTo where
  | all
  | uid (u : BitVec 64)
  | selected
deriving DecidableEq, Repr

/-- What the sections 3 to 7 of an image set, as staging reads them from the formats that Marop defines (R62, R71, log entry
24): register words, the channels marked unused, the collector pair of each current-loop unit's set-points, the word of each
position port's speed command, each pair's private region as base and size, and whether the content matches the hardware. -/
structure ImgContent where
  regs : List (BitVec 40 × BitVec 64) := []
  unused : BitVec 14 := 0
  pair : List (Fin 2 × BitVec 16) := []
  speed : List (Fin 4 × BitVec 16) := []
  priv : List (Fin 2 × BitVec 40 × BitVec 32) := []
  ok : Bool := true
deriving DecidableEq, Repr

/-- A debug command (R300): the three that act without an unlock, run control, abstract access to a register of a core by its
abstract register number (a CSR's own number, 0x1000 + k for x0 to x31 and f0 to f31), a system-bus access, and the write of one
of the four hardware triggers of a core. -/
inductive DbgCmd where
  | idcode | bypass | readStat
  | halt (c : Fin 4)
  | resume (c : Fin 4)
  | step (c : Fin 4)
  | readReg (c : Fin 4) (r : BitVec 16)
  | writeReg (c : Fin 4) (r : BitVec 16) (v : BitVec 64)
  | busRead (a : BitVec 40) (w : Width)
  | busWrite (a : BitVec 40) (w : Width) (v : BitVec 64)
  | trigger (c : Fin 4) (k : Fin 4) (v : BitVec 64)
deriving DecidableEq, Repr

/-- The commands of the module. -/
inductive Instr where
  /-- REGISTER_WRITE (R10): A core, host or debug write to a register field that has no row of its own stores the value as the
  field's access code allows. -/
  | registerWrite (o : Origin) (a : BitVec 40) (w : Width) (v : BitVec 64)
  /-- BUS_ERROR_ACCESS (R25): An access to an unmapped address, a write to a range that is read only to the cores, or an access of
  bad width or alignment completes with a bus error, is counted in SYS_BUSERR and raises source 749. -/
  | busErrorAccess (o : Origin) (a : BitVec 40) (w : Width) (wr : Bool)
  /-- VSUP_GOOD (R33): VSUP becoming good in OFF causes a power-on reset, sets POWER_ON and begins the local start. -/
  | vsupGood
  /-- VSUP_DIP_START (R47): VSUP falling below 6.5 V hands the supply to VHOLD and starts the 20 µs supply-loss timer. -/
  | vsupDipStart
  /-- VSUP_SAG_END (R444): A dip below 6.5 V that ends within 20 µs is counted in SAGS, and VSUP takes over again. -/
  | vsupSagEnd
  /-- SUPPLY_LOSS_EVENT (R444): VSUP stays below 6.5 V for 20 µs, so the module enters SUPPLY_LOSS, raises source 750 and runs the
  hold, safe-state, PLL-stop and journal-flush sequence. -/
  | supplyLossEvent (vholdMv : BitVec 16)
  /-- VSUP_RECOVERY (R33): VSUP staying above 7.5 V for 10 ms in SUPPLY_LOSS gives a main-domain reset or a power-on reset,
  depending on VHOLD history. -/
  | vsupRecovery
  /-- VHOLD_BELOW_MINIMUM (R445): VHOLD falling below 12 V closes the journal port and forces a power-on reset at a later
  recovery. -/
  | vholdBelowMinimum
  /-- VHOLD_EXHAUSTED (R47): VHOLD falling below 5 V stops Thimble, the always-on domain and the GCH13 link, and the module goes
  OFF. -/
  | vholdExhausted
  /-- VHOLD_GOOD (R74): VHOLD reaching 30 V clears VHOLD_LOW so that drive enables may be granted. -/
  | vholdGood
  /-- SLEEP_REQ (R33): A write of SYS_PWRCTL.SLEEP_REQ enters SLEEP_PREP if all conditions hold, or is refused and counted with
  REFUSE_WHY. -/
  | sleepReq
  /-- SLEEP_PREP_COMPLETE (R33): When the journal flush and clock stop complete with no wake source pending, main-domain power is
  removed and the module is in SLEEP. -/
  | sleepPrepComplete
  /-- CAN_WAKE_PATTERN (R364): A standby transceiver detects the wake-up pattern, which wakes or aborts sleep if enabled, or
  raises WAKE while running. -/
  | canWakePattern (n : Fin 4)
  /-- WAKE_PIN_ACCEPTED (R32): A WAKE level or edge accepted after four always-on samples wakes the module from sleep or aborts
  SLEEP_PREP. -/
  | wakePinAccepted (level : Bool)
  /-- NFC_FIELD_DETECTED (R417): A reader field is detected, which marks the field present and wakes the module if NFC_EN is set. -/
  | nfcFieldDetected
  /-- NFC_FIELD_GONE (R417): A field absent for GONE_MS is taken as gone and FIELD_GONE is raised. -/
  | nfcFieldGone
  /-- SLEEP_TIMER_EXPIRY (R32): The sleep timer reaches its TICKS count with TMR_EN set and wakes the module. -/
  | sleepTimerExpiry
  /-- PLL_REQUEST (R28): A hardware or firmware clock request starts an OFF PLL, or returns a PLL in HOLDOFF to LOCKED. -/
  | pllRequest (p : Fin 3) (fw : Bool)
  /-- PLL_LOCK (R28): A starting PLL locks and its clock is granted to every requester. -/
  | pllLock (p : Fin 3)
  /-- PLL_LOCK_TIMEOUT (R28): A PLL without lock 100 µs after starting enters FAULT and notifies Thimble. -/
  | pllLockTimeout (p : Fin 3)
  /-- PLL_LAST_REQUEST_RELEASED (R28): The last request of a locked PLL is released and the hold-off timer starts. -/
  | pllLastRequestReleased (p : Fin 3) (fw : Bool)
  /-- PLL_HOLDOFF_EXPIRE (R28): The hold-off timer expires and the PLL stops, unless a request arrives in the same cycle. -/
  | pllHoldoffExpire (p : Fin 3) (req : Bool)
  /-- PLL_LOCK_LOST (R28): A locked PLL loses lock, enters FAULT, gates its outputs off and notifies Thimble. -/
  | pllLockLost (p : Fin 3)
  /-- REFERENCE_FAILURE (R29): Thimble finds the 25 MHz reference outside ±2 % for 10 µs and puts every power group, bridge and
  field output off. -/
  | referenceFailure
  /-- THIMBLE_BOOT_DONE (R69): Thimble completes its ROM boot, self-test and validation of the safety set and calibration area,
  then releases the application side. -/
  | thimbleBootDone (ok : Bool) (safe1 : Bool) (safe2 : Bool) (cal1 : Bool) (cal2 : Bool) (torn : Bool)
  /-- HEADER_CHECK_DONE (R67): The boot ROM finishes reading SFDP and checking a slot's header and directory, then starts
  streaming or refuses the slot. -/
  | headerCheckDone (ok : Bool) (map : BitVec 64) (prot : BitVec 64)
  /-- IMAGE_STREAM_DONE (R69): The image has streamed through SHA-256 with sections staged, and the ECDSA check begins. -/
  | imageStreamDone (ok : Bool) (c : ImgContent)
  /-- SIGNATURE_CHECK_DONE (R69): The ECDSA check ends, so the image goes to activation or the slot is refused and the other slot
  is tried. -/
  | signatureCheckDone
  /-- ACTIVATION (R71): Thimble compares the section digests with the committed set, and the staged configuration takes effect in
  every block. -/
  | activation
  /-- GATE_LINK_TRAINING_DONE (R73): Gate-link training of a channel completes, synchronising its counter, reloading tables,
  arming GCH13 and reporting latched faults; `n` is the channel, with the supplies it reads back. -/
  | gateLinkTrainingDone (n : Fin 14 × Rails)
  /-- GATE_LINK_TRAINING_FAIL (R73): A channel not trained within the 1 ms window is marked in SYS_GLINK.FAIL and holds its group.
  -/
  | gateLinkTrainingFail (n : Fin 14)
  /-- GATE_LINK_RETRY (R73): Every 10 ms the module retries training of a failed or lost channel; `ok` is the supplies that a
  training that succeeds reads back. -/
  | gateLinkRetry (n : Fin 14) (ok : Option Rails)
  /-- READY_SET (R69): The local start ends with READY, STATE = RUN, firmware entered, FAULT_N released, and a wake-complete event
  if the start began at a wake. -/
  | readySet
  /-- APP_RST (R35): A write of SYS_RSTCTL with the right key from a lockstep pair resets the application side, otherwise it is
  refused and counted. -/
  | appRst (o : Origin) (key : BitVec 16) (rst : Bool)
  /-- WATCHDOG_EXPIRY (R286): The owner pair misses a watchdog interval and Thimble resets the application side. -/
  | watchdogExpiry
  /-- THIMBLE_RESET (R285): Thimble resets the application side after a PLL failure, or 1 s after both pairs were retired. -/
  | thimbleReset
  /-- DEBUG_RESET (R301): ndmreset under development unlock resets the application side. -/
  | debugReset
  /-- VERIFY (R68): A write of SYS_IMGCTL.VERIFY starts a check of the idle slot. -/
  | verify
  /-- VERIFY_DONE (R68): The idle-slot check ends, writing its CAUSE and clearing VERIFY_BUSY. -/
  | verifyDone (ok : Bool) (c : ImgContent)
  /-- FO_MODE_WRITE (R299): A MODE write to FIO_OUTCFGn is rejected by Hem's FO_ALLOW mask, or applied through the field-output
  state table. -/
  | foModeWrite (n : Fin 16) (mode : BitVec 3)
  /-- FO_CURRENT_LIMIT_REACHED (R51): A driving output reaches its current limit, enters LIMIT and starts the 100 µs limit timer. -/
  | foCurrentLimitReached (n : Fin 16) (ma : BitVec 16)
  /-- FO_CURRENT_BELOW_LIMIT (R51): Current falls below the limit before the timer expires, so the output returns to DRIVE and
  counts a limit episode. -/
  | foCurrentBelowLimit (n : Fin 16) (ma : BitVec 16)
  /-- FO_LIMIT_TIMER_EXPIRE (R51): The limit time runs out and the output latches to WAIT or LATCHED with a cause, or latches as a
  drive fight. -/
  | foLimitTimerExpire (n : Fin 16)
  /-- FO_OVERTEMPERATURE (R51): A switch over-temperature latches the output to WAIT or LATCHED with CAUSE 4; `n` is the output,
  with its signed current in mA. -/
  | foOvertemperature (n : Fin 16 × BitVec 16)
  /-- FO_RETRY_TIMER_EXPIRE (R51): The 100 ms retry timer expires, so the output drives again with RETRIES + 1, or goes OFF. -/
  | foRetryTimerExpire (n : Fin 14)
  /-- FO_RETRY_RESET (R51): 100 ms in DRIVE since the last latch resets RETRIES to 0. -/
  | foRetryReset (n : Fin 14)
  /-- FO_LATCH_CLEAR (R51): Writing 1 to FIO_FLT.LATCH clears the record and restarts a WAIT or LATCHED output. -/
  | foLatchClear (mask : BitVec 14)
  /-- BANK_SUPPLY_FAULT (R54): A bank supply below 16 V for 1 ms or above 34 V for 10 µs sets VF_UV or VF_OV and moves the bank's
  outputs to HOLD. -/
  | bankSupplyFault (b : Fin 4) (high : Bool) (v : BitVec 16)
  /-- BANK_SUPPLY_RECOVERED (R54): A bank supply within 17 V to 33 V for 10 ms releases the bank's outputs from HOLD. -/
  | bankSupplyRecovered (b : Fin 4) (v : BitVec 16)
  /-- AGG_OVER (R50): A bank or total field-output current limit exceeded for 100 ms sets FIO_FLT.AGG_OVER and raises event 720. -/
  | aggOver
  /-- DI_RAW_EDGE (R56): A raw level change on a DI input restarts its filter, counts a suppressed glitch and feeds axis switch
  functions. -/
  | diRawEdge (n : Fin 32) (level : Bool)
  /-- DI_FILTERED_EDGE (R56): A DI level stable for the filter time changes the filtered level and raises its edge event if
  enabled. -/
  | diFilteredEdge (n : Fin 32)
  /-- ADC_RUN_START (R87): RUN written 1 starts a valid sequence, defers it until the reference is READY, or is refused as
  invalid. -/
  | adcRunStart (n : Fin 8)
  /-- ADC_RUN_STOP (R87): RUN written 0 stops the sequencer and clears the urgent queue, or is refused while the converter feeds
  an enabled group. -/
  | adcRunStop (n : Fin 8)
  /-- SAMPLE_RECORD (R81): A converter emits a stamped sample record to the fabric, where the current loops, chopper trips and
  Spool consume it. -/
  | sampleRecord (n : Fin 8) (v : Conv)
  /-- SLOT_TRIGGER (R86): A carrier or excitation mark is registered for a waiting slot. -/
  | slotTrigger (n : Fin 8) (k : Fin 4)
  /-- SLOT_FIRST_APERTURE (R86): A waiting slot takes its first counted aperture after DELAY and the settling blank, counting
  TRIG_LATE if it is late. -/
  | slotFirstAperture (n : Fin 8) (clocks : BitVec 32) (v : Conv)
  /-- SLOT_COMPLETE (R87): The Nth counted aperture completes a slot and makes the next entry current, raising SEQ_WRAP at wrap. -/
  | slotComplete (n : Fin 8)
  /-- SLOT_RESULT_PUBLISH (R87): 14 clocks after completion the slot result is written to ADC_RESn_k and SLOT_DONE is raised. -/
  | slotResultPublish (n : Fin 8)
  /-- URGENT_REQUEST (R89): A write of ADC_URGn requests an urgent slot, which aborts the running slot, queues behind others or is
  dropped as lost. -/
  | urgentRequest (n : Fin 8) (count : BitVec 8) (i : BitVec 4)
  /-- URGENT_SLOT_COMPLETE (R89): An urgent slot completes, writes ADC_URGRESn and raises URG_DONE, then starts the next queued
  request or restores the interrupted slot. -/
  | urgentSlotComplete (n : Fin 8)
  /-- REF_SELECT (R92): A write of ADC_REFCFG.SEL restarts reference settling for the new source and clears CAL_VALID, when all
  sequencers are idle. -/
  | refSelect (sel : BitVec 2)
  /-- REFERENCE_SETTLED (R92): The settling timer expires, so the reference starts calibrating all converters or enters FAULT. -/
  | referenceSettled (mv : BitVec 16)
  /-- REFERENCE_OUT_OF_WINDOW (R91): Two consecutive monitor compares out of window move a READY reference to FAULT, invalidating
  records and notifying Hem. -/
  | referenceOutOfWindow (mv : BitVec 16)
  /-- ADC_CAL_START (R93): ADC_CALCTL.START starts self-calibration of each named STOPPED converter, or refuses and counts the
  rest. -/
  | adcCalStart (mask : BitVec 8)
  /-- CALIBRATION_END (R94): A 2.5 ms calibration ends, passing or failing against its limits, and deferred sequences start. -/
  | calibrationEnd (n : Fin 8) (w : List (BitVec 32)) (off : BitVec 32) (gain : BitVec 32)
  /-- ADC_TRIM_START (R96): ADC_CALCTL.TRIM under safety unlock starts a reference trim by measuring REFIN, or the trim is
  refused. -/
  | adcTrimStart (o : Origin)
  /-- ADC_TRIM_DONE (R96): After 1 ms of measurement the trim is stored and applied as a two-copy commit, or refused for
  deviation. -/
  | adcTrimDone (code : BitVec 16)
  /-- AUX_SCAN_START (R98): A scan of an AUX converter becomes due every PERIOD_US and starts, or is delayed and counted as an
  overrun. -/
  | auxScanStart (m : Fin 2)
  /-- AUX_ENTRY_DONE (R98): An AUX scan entry publishes its averaged result, marking open or shorted TMP inputs invalid. -/
  | auxEntryDone (m : Fin 2) (x : List (BitVec 32))
  /-- EXCITATION_MARK (R107): The resolver front end raises a polarity-tagged excitation mark at each positive and negative peak. -/
  | excitationMark (pos : Bool)
  /-- RESOLVER_PAIR_TIMEOUT (R108): Resolver slots not complete within 2 µs of their mark drop the pair and count DROP_PAIR. -/
  | resolverPairTimeout (p : Fin 2)
  /-- ENCODER_EDGE (R110): A filtered A or B edge changes the ABZ count, or is counted as an illegal transition. -/
  | encoderEdge (p : Fin 4) (a : Bool) (b : Bool)
  /-- ENCODER_MEASUREMENT (R110): Every 1 µs the ABZ count is taken as a measurement for the observer. -/
  | encoderMeasurement (p : Fin 4)
  /-- INDEX (R111): A rising Z edge with A = B = 1 maps the count on first index or checks it, raising INDEX or the INDEX fault. -/
  | index (p : Fin 4)
  /-- SERIAL_FRAME_START (R112): An SSI or SSC frame starts after FRAME_US, or at the carrier mark with FRAME_SYNC. -/
  | serialFrameStart (p : Fin 4)
  /-- SERIAL_FRAME_COMPLETE (R112): A serial encoder frame ends, and its reading is accepted or fails with CRC, EFLAG, TIMEOUT or
  JUMP. -/
  | serialFrameComplete (p : Fin 4) (idle : Bool) (ef : Bool) (wf : Bool) (data : BitVec 40) (crc : BitVec 8)
  /-- SSC_START_BIT_TIMEOUT (R112): No SSC start bit within 20 µs fails the frame with cause TIMEOUT. -/
  | sscStartBitTimeout (p : Fin 4)
  /-- VENC_OVERCURRENT (R105): VENC above 300 mA switches off and sets VENC_OC as an immediate sensor fault. -/
  | vencOvercurrent (p : Fin 4)
  /-- POS_FAULT_CLEAR (R115): Writing 1 to POS_FLTn bits clears them if their cause has gone, otherwise they set again. -/
  | posFaultClear (p : Fin 4) (mask : BitVec 13)
  /-- OPEN_TO_SLS (R116): A speed command at SLS_MIN or more for 10 ms in OPEN switches the angle source to SLS. -/
  | openToSls (p : Fin 4)
  /-- OPEN_TIMEOUT (R116): OPEN_MS elapsed in OPEN moves the source to LOST with Hem safe state. -/
  | openTimeout (p : Fin 4)
  /-- SLS_LOW_SPEED (R116): Estimated speed below 0.75 × SLS_MIN for 1 ms moves the source to LOST. -/
  | slsLowSpeed (p : Fin 4)
  /-- DISAGREE (R118): Sensor and estimate angles differ by more than AGREE_TOL for 1 ms, setting DISAGREE and barring fallback
  for 100 ms. -/
  | disagree (p : Fin 4)
  /-- STANDSTILL_CHECK_END (R119): The 50 µs standstill check of ALIGN ends, starting the pulses or failing with RES = 2. -/
  | standstillCheckEnd (p : Fin 4) (lo : BitVec 32) (hi : BitVec 32)
  /-- SAT_PULSE_END (R120): A saturation or polarity pulse ends at its length or at IP_MAX, and its reading is stored. -/
  | satPulseEnd (p : Fin 4) (iu : BitVec 32) (iv : BitVec 32) (iw : BitVec 32) (tEnd : BitVec 32)
  /-- PULSE_DECAY_END (R119): The zero-vector decay after a pulse ends, and the next pulse or the evaluation starts. -/
  | pulseDecayEnd (p : Fin 4)
  /-- CLU_ENABLE (R144): EN written 1 starts the 200 µs offset measurement, or is refused with REFUSE_WHY. -/
  | cluEnable (g : Fin 2)
  /-- CLU_DISABLE (R144): EN written 0 returns the unit to DISABLED with pulse-off, or keeps an active safe state. -/
  | cluDisable (g : Fin 2)
  /-- OFFSET_MEASUREMENT_END (R144): After 200 µs the offsets are checked and stored, and the unit enters TEST or RUN, or is
  disabled with OFFSET set. -/
  | offsetMeasurementEnd (g : Fin 2)
  /-- CURRENT_LOOP_UPDATE (R128): After the window's last aperture, the datapath computes and commits six compare values through
  transforms, PI, limits and modulation. -/
  | currentLoopUpdate (g : Fin 2) (tm : BitVec 64) (bad : BitVec 2)
  /-- VECTOR_MEASUREMENT_REQUEST (R138): At its chosen converter clock, the unit issues an urgent request on ADC6 for a return-leg
  vector. -/
  | vectorMeasurementRequest (g : Fin 2) (second : Bool)
  /-- STARVED (R142): No valid comparison for 100 ms in RUN sets STARVED. -/
  | starved (g : Fin 2)
  /-- CARRIER_MARK (R153): A valley or peak transfers the last committed compare set or counts a late load, applies the
  minimum-pulse guard and raises marks to consumers. -/
  | carrierMark (c : Fin 3) (slack : BitVec 16)
  /-- SWITCH_EDGE (R155): At a compare instant the PWM unit turns one switch of a leg off and schedules the other after the dead
  time, with a blanking window. -/
  | switchEdge (c : Fin 2) (x : Fin 3)
  /-- DEAD_TIME_END (R155): The dead time ends and the complementary switch is commanded on. -/
  | deadTimeEnd (c : Fin 2) (x : Fin 3)
  /-- ON_TIME_LIMIT (R160): A switch reaching ONTMAX_US is forced off, with ONTIME set, counted and journalled. -/
  | onTimeLimit (c : Fin 3) (k : Fin 6)
  /-- BRAKE_REQUEST_SET (R191): Two consecutive TUDC samples at or above BRK_ON set the brake request. -/
  | brakeRequestSet (v1 : BitVec 16) (v2 : BitVec 16)
  /-- BRAKE_REQUEST_CLEAR (R191): Two consecutive TUDC samples at or below BRK_OFF clear the brake request. -/
  | brakeRequestClear (v1 : BitVec 16) (v2 : BitVec 16)
  /-- BRAKE_ON_TIME_END (R158): A CAR2 pulse ends after TON and the off-phase starts. -/
  | brakeOnTimeEnd
  /-- BRAKE_OFF_TIME_END (R158): TOFF ends and a new brake pulse starts if the request is present. -/
  | brakeOffTimeEnd
  /-- BRAKE_PULSE_MISSING (R192): A permitted pulse not started within TOFF + 5 µs, or PLL C unlocked under a request, moves GCH12
  to Thimble's direct path. -/
  | brakePulseMissing
  /-- WINDING_DISCHARGE_ENGAGE (R159): Thimble's winding-discharge command puts a group carrier into constant off-time mode. -/
  | windingDischargeEngage (g : Fin 2)
  /-- COFF_ON_PHASE_END (R159): A constant off-time on-phase ends at TON and the off-time starts. -/
  | coffOnPhaseEnd (c : Fin 2)
  /-- COFF_OFF_TIME_END (R159): TOFF ends and the chopped switches start the next on-phase. -/
  | coffOffTimeEnd (c : Fin 2)
  /-- WINDING_DISCHARGE_END (R159): Thimble ends the command, and the carrier returns to centre-aligned mode with outputs off. -/
  | windingDischargeEnd
  /-- DEBUG_HALT (R163): A core halts under debug, freezing the carriers if permitted and firing a Spool trigger of KIND 3. -/
  | debugHalt (c : Fin 4)
  /-- DEBUG_RESUME (R163): No core remains halted, so the carriers resume and running units move to SAFE. -/
  | debugResume (c : Fin 4)
  /-- DEBUG_COMMAND (R300): A debug command acts under development unlock, or is refused and counted. -/
  | debugCommand (cmd : DbgCmd)
  /-- GATE_EDGE (R168): The high-voltage half executes an edge command with S segments, then holds with all 24. -/
  | gateEdge (n : Fin 14)
  /-- EDGE_LEARN (R173): The measured switching time and bin of an edge step the segment table or skip learning. -/
  | edgeLearn (n : Fin 14) (on : Bool) (ts : Option (BitVec 10)) (code : BitVec 10) (vdsOff : BitVec 16)
  /-- SHORT_CIRCUIT (R178): The sense current at SC_TH for 40 ns enters SOFTOFF, latches, stamps and puts the group into its safe
  state. -/
  | shortCircuit (n : Fin 14)
  /-- DESAT (R177): VDS above VDS_TH for 40 ns while on is handled as a short circuit. -/
  | desat (n : Fin 14)
  /-- SOFTOFF_END (R178): SOFT_NS elapses, all 24 sink segments turn on and the channel enters FAULT. -/
  | softoffEnd (n : Fin 14)
  /-- OVERCURRENT (R179): The sense current at OC_TH outside blanking turns the switch off and enters FAULT. -/
  | overcurrent (n : Fin 14)
  /-- GATE_SUPPLY_FAULT (R180): VPOS or VNEG out of window for 10 µs takes the gate to VNEG and latches a supply fault. -/
  | gateSupplyFault (n : Fin 14) (which : Fin 3) (vpos : BitVec 8) (vneg : BitVec 8)
  /-- GATE_SUPPLY_RECOVERED (R180): Both supplies within window for 1 ms clear the cause of a supply fault. -/
  | gateSupplyRecovered (n : Fin 14) (vpos : BitVec 8) (vneg : BitVec 8)
  /-- VPOS_LOST (R185): VPOS below 6 V unpowers the high-voltage half, and the channel becomes UNTRAINED with the gate held
  passively. -/
  | vposLost (n : Fin 14)
  /-- MISMATCH (R181): The gate voltage disagrees with the command for 100 ns, latching MIS_LOW or MIS_HIGH and entering FAULT. -/
  | mismatch (n : Fin 14) (high : Bool)
  /-- NTC_READING (R182): Every 100 µs the channel converts its NTC land to °C, or counts an invalid reading. -/
  | ntcReading (n : Fin 14) (code : BitVec 8)
  /-- NTC_TRIP (R182): A temperature above NTC_TRIP for 1 ms turns the switch off and latches NTC. -/
  | ntcTrip (n : Fin 14)
  /-- ONT_HV (R183): An on-state of 1.25 × ONTMAX_US on the high-voltage oscillator is ended and ONT_HV latched. -/
  | ontHv (n : Fin 14)
  /-- LINK_LOSS (R184): The high-voltage half receives no frame for 1 µs and acts by state and role, latching LINK. -/
  | linkLoss (n : Fin 14)
  /-- LINK_STATUS_MISSING (R184): The low-voltage side misses channel status for 1 µs, clears TRAINED and puts the group into its
  safe state. -/
  | linkStatusMissing (n : Fin 14)
  /-- ASC_COMMAND (R187): A safe-state command applies the side rule and turns one side on and the other off, or takes pulse-off. -/
  | ascCommand (g : Fin 2)
  /-- ASC_RELEASE (R313): Thimble releases active short circuit and the switches turn off with learned strength. -/
  | ascRelease (g : Fin 2)
  /-- GATE_EN_FALL (R189): A falling GATE_EN edge starts Thimble's measurement of the low pulse. -/
  | gateEnFall
  /-- GATE_EN_DISABLE (R189): GATE_EN low for 40.25 µs disables all fourteen channels and ends ASC, brake and discharge runs. -/
  | gateEnDisable
  /-- GATE_EN_RISE (R189): At the rising edge a pulse is ignored or clears latches whose cause has gone, and releases DISABLED
  channels. -/
  | gateEnRise (lowNs : BitVec 32) (stuck : BitVec 14)
  /-- AUTONOMOUS_DISCHARGE (R193): An armed GCH13 whose link has been silent for 1 ms fires by itself and disarms. -/
  | autonomousDischarge
  /-- DIS_TMAX_ELAPSED (R193): A discharge run reaches DIS_TMAX and ends with DIS_DONE and LAST_END. -/
  | disTmaxElapsed
  /-- GROUP_TRIGGER (R204): A registered trigger is accepted, opening an epoch, applying tunes and starting due slices, or is
  dropped and counted. -/
  | groupTrigger (g : Fin 8)
  /-- TRIGGER_TIMEOUT (R205): No trigger for TMO_US counts TRIG_MISS and ages the group's words. -/
  | triggerTimeout (g : Fin 8)
  /-- NOP (R201): The engine operation NOP has no effect. -/
  | opNop (n : Fin 64)
  /-- MOV (R201): The engine operation MOV copies a word. -/
  | opMov (n : Fin 64)
  /-- ADD (R201): The engine operation ADD adds two words with saturation. -/
  | opAdd (n : Fin 64)
  /-- SUB (R201): The engine operation SUB subtracts two words with saturation. -/
  | opSub (n : Fin 64)
  /-- NEG (R201): The engine operation NEG negates a word. -/
  | opNeg (n : Fin 64)
  /-- ABS (R201): The engine operation ABS takes a magnitude. -/
  | opAbs (n : Fin 64)
  /-- MIN (R201): The engine operation MIN takes the smaller of two words. -/
  | opMin (n : Fin 64)
  /-- MAX (R201): The engine operation MAX takes the larger of two words. -/
  | opMax (n : Fin 64)
  /-- CLAMP (R201): The engine operation CLAMP limits a word between two bounds. -/
  | opClamp (n : Fin 64)
  /-- SEL (R201): The engine operation SEL selects a word by the sign of another. -/
  | opSel (n : Fin 64)
  /-- WRAP (R201): The engine operation WRAP wraps an angle into [−0.5, 0.5). -/
  | opWrap (n : Fin 64)
  /-- MUL (R201): The engine operation MUL multiplies two words on the MAC unit. -/
  | opMul (n : Fin 64)
  /-- MAC (R201): The engine operation MAC adds an exact product to the accumulator. -/
  | opMac (n : Fin 64)
  /-- MSU (R201): The engine operation MSU subtracts an exact product from the accumulator. -/
  | opMsu (n : Fin 64)
  /-- ACCLD (R201): The engine operation ACCLD loads the accumulator. -/
  | opAccld (n : Fin 64)
  /-- ACCRD (R202): The engine operation ACCRD reads the accumulator rounded to Q32.32. -/
  | opAccrd (n : Fin 64)
  /-- TAB (R201): The engine operation TAB interpolates linearly in a table of state words. -/
  | opTab (n : Fin 64)
  /-- DIV (R202): The engine operation DIV divides, with defined results for division by zero. -/
  | opDiv (n : Fin 64)
  /-- SQRT (R202): The engine operation SQRT takes a square root, returning 0 for negative input. -/
  | opSqrt (n : Fin 64)
  /-- SINCOS (R202): The engine operation SINCOS writes sine and cosine of an angle by CORDIC. -/
  | opSincos (n : Fin 64)
  /-- ATAN2 (R202): The engine operation ATAN2 computes an angle in turns by CORDIC. -/
  | opAtan2 (n : Fin 64)
  /-- MAG (R202): The engine operation MAG computes a vector magnitude by CORDIC. -/
  | opMag (n : Fin 64)
  /-- BIQ (R216): The engine operation BIQ runs one biquad section, initialising to steady state on START. -/
  | opBiq (n : Fin 64)
  /-- RAMP (R217): The engine operation RAMP moves a set-point towards its target by at most one step. -/
  | opRamp (n : Fin 64)
  /-- PI (R218): The engine operation PI runs a PI controller with manual mode and conditional integration. -/
  | opPi (n : Fin 64)
  /-- IN (R203): The engine operation IN reads an input of a class and index into a state word. -/
  | opIn (n : Fin 64)
  /-- OUT (R201): The engine operation OUT writes an output slot of the slice's block. -/
  | opOut (n : Fin 64)
  /-- JGE (R201): The engine operation JGE skips forward when a word is non-negative. -/
  | opJge (n : Fin 64)
  /-- END (R210): The engine operation END ends the run, presents the block and clears START. -/
  | opEnd (n : Fin 64) (cyc : BitVec 16)
  /-- OPERATION_RESULT (R200): A pipelined operation reaches its result cycle, writes its destination and frees its scoreboard
  entries. -/
  | operationResult (n : Fin 64) (k : Fin 64)
  /-- BLOCK_ACCEPT (R210): The collector accepts a presented block into the pending copies, at most eight per cycle in slice
  order. -/
  | blockAccept
  /-- EPOCH_DEADLINE (R211): DL_NS after registration the epoch closes, and running slices go LATE. -/
  | epochDeadline (g : Fin 8)
  /-- COLLECTOR_SWAP (R211): The group publishes its pending words, ages unwritten words, counts overruns and stamps the epoch. -/
  | collectorSwap (g : Fin 8)
  /-- SLICE_RUN (R215): A write of CEN_SCFGn.RUN starts or stops a slice, refused from a split core for slices with guarded words.
  -/
  | sliceRun (o : Origin) (n : Fin 64) (run : Bool)
  /-- SLICE_ECC_ERROR (R215): An uncorrectable ECC error halts the slice and is journalled; `n` is the slice, and whether the
  error is correctable (R220). -/
  | sliceEccError (n : Fin 64 × Bool)
  /-- TUNE_COMMIT (R219): CEN_TCTL.COMMIT stages a tune commit for the group's next trigger, or refuses it with RESULT. -/
  | tuneCommit (count : BitVec 4) (restart : Bool)
  /-- LA_RDW (R224): LA.RDW reads a slice state word. -/
  | laRdw (c : Fin 4) (rd : BitVec 5) (v1 : BitVec 64)
  /-- LA_RDOUT (R224): LA.RDOUT reads a published collector word. -/
  | laRdout (c : Fin 4) (rd : BitVec 5) (v1 : BitVec 64)
  /-- LA_RDAGE (R224): LA.RDAGE reads the AGE of a collector word. -/
  | laRdage (c : Fin 4) (rd : BitVec 5) (v1 : BitVec 64)
  /-- LA_RDSEQ (R224): LA.RDSEQ reads a group's epoch SEQ. -/
  | laRdseq (c : Fin 4) (rd : BitVec 5) (v1 : BitVec 64)
  /-- LA_RDSST (R224): LA.RDSST reads a slice's status register. -/
  | laRdsst (c : Fin 4) (rd : BitVec 5) (v1 : BitVec 64)
  /-- LA_TSTAT (R224): LA.TSTAT reads the issuing port's tune status. -/
  | laTstat (c : Fin 4) (rd : BitVec 5)
  /-- LA_DIV (R224): LA.DIV divides on the pair's assist slice. -/
  | laDiv (c : Fin 4) (rd : BitVec 5) (v1 : BitVec 64) (v2 : BitVec 64)
  /-- LA_SQRT (R224): LA.SQRT takes a square root on the assist slice. -/
  | laSqrt (c : Fin 4) (rd : BitVec 5) (v1 : BitVec 64)
  /-- LA_SIN (R224): LA.SIN computes a sine on the assist slice. -/
  | laSin (c : Fin 4) (rd : BitVec 5) (v1 : BitVec 64)
  /-- LA_COS (R224): LA.COS computes a cosine on the assist slice. -/
  | laCos (c : Fin 4) (rd : BitVec 5) (v1 : BitVec 64)
  /-- LA_ATAN2 (R224): LA.ATAN2 computes an angle on the assist slice. -/
  | laAtan2 (c : Fin 4) (rd : BitVec 5) (v1 : BitVec 64) (v2 : BitVec 64)
  /-- LA_MAG (R224): LA.MAG computes a magnitude on the assist slice. -/
  | laMag (c : Fin 4) (rd : BitVec 5) (v1 : BitVec 64) (v2 : BitVec 64)
  /-- LA_TSET (R224): LA.TSET stages a tune entry of the port. -/
  | laTset (c : Fin 4) (v1 : BitVec 64) (v2 : BitVec 64)
  /-- LA_TCOMMIT (R224): LA.TCOMMIT commits the port's staged entries under the tune-commit rules. -/
  | laTcommit (c : Fin 4) (v1 : BitVec 64)
  /-- LA_RUN (R231): LA.RUN writes a slice's RUN bit, refused from a split core for slices with guarded words. -/
  | laRun (c : Fin 4) (v1 : BitVec 64)
  /-- ILLEGAL_INSTRUCTION (R223): A custom-0 encoding that is not listed raises an illegal-instruction exception at retirement. -/
  | illegalInstruction (c : Fin 4) (w : BitVec 32)
  /-- COMMIT_BUFFER_SEND (R227): A retired write instruction leaves the commit buffer for the engine in program order. -/
  | commitBufferSend (c : Fin 4)
  /-- SQUASH (R229): A squash drops a loop-assist read, withdraws or discards a compute, or removes a buffered write, and is
  counted. -/
  | squash (c : Fin 4) (what : Squash)
  /-- ASSIST_RESULT_RETURN (R233): An assist result crosses back to the core into rd, or is 0 for a halted assist slice. -/
  | assistResultReturn (c : Fin 4) (j : Fin 2)
  /-- ARM (R237): SPL_CTL.ARM starts Spool recording or is refused with ARM_ERR. -/
  | arm
  /-- STOP (R239): SPL_CTL.STOP stops all Spool channels, keeping their contents. -/
  | stop
  /-- FORCE (R238): SPL_CTL.FORCE fires the Spool trigger in FILL or ARMED. -/
  | force
  /-- SPOOL_RECORD_WRITE (R236): A queued Spool record is written to its region, advancing WPTR and moving Spool through FILL,
  ARMED, POST and DONE. -/
  | spoolRecordWrite
  /-- SPOOL_MEMORY_WRITE (R240): A core write to Spool is stored, or ignored and counted when it targets a recording region. -/
  | spoolMemoryWrite (a : BitVec 40) (w : Width) (v : BitVec 64)
  /-- AXIS_ENABLE (R266): EN written 1 enables an axis to STANDSTILL in band 0, or is refused and counted. -/
  | axisEnable (n : Fin 12)
  /-- AXIS_DISABLE (R266): EN written 0 turns the axis bridges off at once and makes it OFF. -/
  | axisDisable (n : Fin 12)
  /-- AXIS_STOP (R256): STP_CTLn.STOP decelerates the axis to standstill and discards its target. -/
  | axisStop (n : Fin 12)
  /-- HOME_GO (R265): HOME_GO in mode 3 at standstill starts homing, clearing HOMED. -/
  | homeGo (n : Fin 12)
  /-- POSITION_TARGET_WRITE (R253): A write of STP_TGTn plans a move to the new position target. -/
  | positionTargetWrite (n : Fin 12) (v : BitVec 64)
  /-- VELOCITY_TARGET_WRITE (R253): A write of STP_VTGTn sets a new target velocity. -/
  | velocityTargetWrite (n : Fin 12) (v : BitVec 64)
  /-- POSITION_WRITE (R252): A write of STP_POSn changes only the reported-position shift. -/
  | positionWrite (n : Fin 12) (v : BitVec 64)
  /-- MOTION_TICK (R252): Every 100 ns the profile generator updates velocity and count, emits the table address and handles
  bands, targets, homing travel and stall windows. -/
  | motionTick (n : Fin 12) (low : BitVec 2)
  /-- HOLD_CURRENT_TIMER (R248): HOLD_MS in STANDSTILL switches the coil current to I_HOLD. -/
  | holdCurrentTimer (n : Fin 12)
  /-- STEP_EDGE (R254): A filtered rising STEP edge in mode 2 moves the follow target, or latches LAG when the distance exceeds
  LAG_MAX. -/
  | stepEdge (n : Fin 12) (dir : Bool)
  /-- CHOPPER_UPPER_REACHED (R249): The shunt magnitude reaches U after blanking, ending the on-phase and starting fast decay;
  `code` is that magnitude, and whether the bootstrap of the opposite high side is low (R245). -/
  | chopperUpperReached (n : Fin 12) (b : Bool) (ns : BitVec 32) (code : BitVec 10 × Bool)
  /-- CHOPPER_LOWER_REACHED (R249): Fast decay reaches L, ending the off-phase or starting a slow-decay tail. -/
  | chopperLowerReached (n : Fin 12) (b : Bool) (ns : BitVec 32) (code : BitVec 10) (low : Bool)
  /-- CHOPPER_TAIL_END (R249): The tail reaches TOFF_MIN and the next on-phase begins, with a bootstrap check. -/
  | chopperTailEnd (n : Fin 12) (b : Bool) (low : Bool)
  /-- ON_PHASE_LIMIT (R250): An on-phase lasting 1/FCH_MIN − TOFF_MIN without reaching U is ended and counted in NOT_REACHED; `ns`
  is how long, and whether the bootstrap of the opposite high side is low (R245). -/
  | onPhaseLimit (n : Fin 12) (b : Bool) (ns : BitVec 32 × Bool)
  /-- LIMIT_SWITCH_EDGE (R263): A raw edge of an enabled limit input to its active level stops motion towards it and latches LIMP
  or LIMN. -/
  | limitSwitchEdge (n : Fin 12) (pos : Bool)
  /-- HOME_SWITCH_EDGE (R264): A raw edge of the home switch latches the position or restarts the debounce timer. -/
  | homeSwitchEdge (n : Fin 12)
  /-- HOME_DEBOUNCE_EXPIRE (R265): The homing debounce expires and confirms the latch or discards it as a glitch. -/
  | homeDebounceExpire (n : Fin 12)
  /-- COIL_SHORT (R267): A drain-source voltage above DS_TH for 250 ns turns off both bridges, latches SHORT and faults the axis;
  `b` is the coil, the ns since its on-edge and the voltage in mV. -/
  | coilShort (n : Fin 12) (b : Bool × BitVec 32 × BitVec 32)
  /-- VSTP_FAULT (R246): VSTP outside UV or OV for 10 µs moves active axes to HOLD. -/
  | vstpFault (v : BitVec 16)
  /-- VSTP_RECOVERED (R246): VSTP within window for 10 ms releases the axes from HOLD. -/
  | vstpRecovered (v : BitVec 16)
  /-- MISMATCH_DETECTED (R275): A lockstep compare mismatch blocks the pair's outputs, stamps it and starts a Darn restart or
  retirement. -/
  | mismatchDetected (p : Fin 2)
  /-- DARN_RESTART_COMPLETE (R280): The restart timeline ends with both cores released from the checkpoint, or the pair is retired
  on a self-test failure. -/
  | darnRestartComplete (p : Fin 2) (ok : Bool) (us : BitVec 12)
  /-- CHECKPOINT (R276): Every EPOCH_US a lockstep pair writes a checkpoint and clears its undo log. -/
  | checkpoint (p : Fin 2)
  /-- FORCED (R277): An undo log at 3,968 entries forces a checkpoint at the next instruction boundary. -/
  | forced (p : Fin 2)
  /-- PRIVATE_STORE (R277): A store of a lockstep pair to its private region first logs the old word in the undo log. -/
  | privateStore (p : Fin 2) (a : BitVec 40) (w : Width) (v : BitVec 64)
  /-- WATCHDOG_SERVICE (R286): The owner pair writes 0x6D0F to HEM_WDOG, restarting the watchdog interval. -/
  | watchdogService (o : Origin) (key : BitVec 16)
  /-- SPLIT (R288): HEM_PAIRCTL.SPLIT splits a non-owner pair, starts hand-over for the owner, or is refused with a cause. -/
  | split (o : Origin)
  /-- SPLIT_COMPLETE (R288): Comparison ends at an instruction boundary and the pair runs as two cores. -/
  | splitComplete (p : Fin 2)
  /-- OWNER_REQ (R288): HEM_PAIRCTL.OWNER_REQ from the owner starts handing the safety role to the other pair. -/
  | ownerReq (o : Origin)
  /-- SAFE_ACK (R288): HEM_PAIRCTL.SAFE_ACK accepts a pending hand-over, so SAFE_OWNER changes. -/
  | safeAck (o : Origin)
  /-- HANDOVER_TIMEOUT (R288): 1 ms without SAFE_ACK refuses the split with cause 3. -/
  | handoverTimeout
  /-- REJOIN (R289): HEM_PAIRCTL.REJOIN halts the first writer, or with the second write begins the rejoin. -/
  | rejoin (c : Fin 4)
  /-- REJOIN_TIMEOUT (R289): No second REJOIN within 100 µs refuses the rejoin with cause 5. -/
  | rejoinTimeout (p : Fin 2)
  /-- REJOIN_COMPLETE (R289): State copy, cache invalidation and release complete, and the pair is in LOCKSTEP with a checkpoint. -/
  | rejoinComplete (p : Fin 2)
  /-- SPLIT_CORE_PARITY (R288): A parity error in a split core resets that core alone, which restarts at the split entry. -/
  | splitCoreParity (c : Fin 4)
  /-- DERATING_UPDATE (R295): Every 1 ms Hem recomputes IMAX_EFF from temperatures and flow. -/
  | deratingUpdate
  /-- HEM_SPEED_TRIP (R292): Speed above SPD_MAX plus margin for 1 ms sends the safe-state command. -/
  | hemSpeedTrip (g : Fin 2)
  /-- HEM_UDC_TRIP (R293): UDC above UDC_MAX for 10 µs or below UDC_MIN for 1 ms sends the safe-state command. -/
  | hemUdcTrip (g : Fin 2)
  /-- HOLD (R298): Hem hold starts or ends, moving field outputs, axes and groups to or from their hold states. -/
  | hold
  /-- THIMBLE_CORE_FAULT (R308): A Thimble core fault removes all shut-off paths, turns the brake outputs off, asserts FAULT_N and
  restarts Thimble. -/
  | thimbleCoreFault
  /-- THIMBLE_RESTART_DONE (R308): Thimble completes its restart with every group in STO, or stops after the third restart. -/
  | thimbleRestartDone
  /-- PATH_TEST (R310): Once per second in STO Thimble tests each shut-off path alone, latching PATH if permit is reported. -/
  | pathTest (n : Fin 14) (p1 : Bool) (p2 : Bool)
  /-- SPEED_CHECK (R311): Every 100 µs Thimble reads each group's speed and validity and updates SEL towards ASC. -/
  | speedCheck
  /-- SEL_RELEASE_TIMER (R312): Valid speed below ASC_OFF for 10 ms sets SEL to pulse-off. -/
  | selReleaseTimer (g : Fin 2)
  /-- SS1_CHECK (R318): Every 1 ms in SS1 Thimble checks speed against the envelope, completing SS1 or demanding STO. -/
  | ss1Check (g : Fin 2) (ms : BitVec 16)
  /-- SS1_DEADLINE (R318): SS1_TMAX elapsed raises the STO demand without a latch. -/
  | ss1Deadline (g : Fin 2)
  /-- SBC_ENGAGE_TIMER (R318): SBC_TB after the brake was applied at SS1 completion raises the STO demand. -/
  | sbcEngageTimer (g : Fin 2)
  /-- STO_ASC_TIMEOUT (R315): STO_ASC_MAX elapsed in STO_ASC releases ASC and removes all paths. -/
  | stoAscTimeout (g : Fin 2)
  /-- SAFE_TO_STO (R315): A group in SAFE moves to STO once its unit is DISABLED and SEL is pulse-off. -/
  | safeToSto (g : Fin 2)
  /-- SAFETY_INPUT_CHANGE (R324): A filtered safety-input level change moves its pair between PENDING, DEMAND, CLOSED and DISC. -/
  | safetyInputChange (k : Fin 4) (a : Bool) (b : Bool)
  /-- SI_DISC (R324): Channels differing for longer than DISC latch SI_DISC. -/
  | siDisc (k : Fin 4)
  /-- SBC_TEST_PULSE (R321): A released brake has FO15 or FO14 turned off for 500 µs, and an SBC fault is latched if the output
  does not follow. -/
  | sbcTestPulse (ok : Bool)
  /-- SBC_APPLY_CHECK (R321): 10 ms after application the brake current must be below 50 mA, otherwise SBC latches. -/
  | sbcApplyCheck (ma : BitVec 16)
  /-- SBC_CURRENT_LOW (R321): Released brake current below I_MIN is an SBC fault. -/
  | sbcCurrentLow (ma : BitVec 16)
  /-- TM_WINDOW_END (R325): A torque-monitor window is judged or counted blind, and TM_N failures latch TM and put running groups
  in SAFE. -/
  | tmWindowEnd (l : List (BitVec 12 × BitVec 12)) (iq0 : BitVec 64) (iq1 : BitVec 64)
  /-- UDC_DIV (R327): TUDC and UDC disagreeing, or TUDC open or at full scale, for 10 ms latches UDC_DIV. -/
  | udcDiv (v : BitVec 16) (bad : Bool)
  /-- DIS_SLOW (R328): A commanded run with TUDC not below 60 V after 2.0 s is ended and DIS_SLOW latched. -/
  | disSlow (v : BitVec 16)
  /-- WINDING_DISCHARGE_STOP (R329): Thimble ends a winding discharge when TUDC is below 60 V for 10 ms, the rotor moves, or a
  demand arises. -/
  | windingDischargeStop (v : BitVec 16)
  /-- LOCKOUT_EXPIRY (R332): The 600 s password lockout ends. -/
  | lockoutExpiry
  /-- LOCKOUT_SAVE (R332): Every 10 s Thimble saves the remaining lockout time to the safety-parameter area. -/
  | lockoutSave
  /-- UNLOCK_TIMEOUT (R333): A safety unlock without a lockstep request for 600 s closes with a change-log entry. -/
  | unlockTimeout
  /-- STO (R330): The Thimble request STO raises a firmware STO demand on the named groups. -/
  | sto (o : Origin) (tag : BitVec 16)
  /-- SS1 (R330): The Thimble request SS1 raises a firmware SS1 demand on the named groups. -/
  | ss1 (o : Origin) (tag : BitVec 16)
  /-- STO_RELEASE (R315): The Thimble request STO_RELEASE ends the firmware demand and moves groups to PERMIT if release
  conditions hold. -/
  | stoRelease (o : Origin) (tag : BitVec 16)
  /-- BRAKE_RELEASE (R320): The Thimble request BRAKE_RELEASE turns FO14 and FO15 on if every brake group is running. -/
  | brakeRelease (o : Origin) (tag : BitVec 16)
  /-- BRAKE_APPLY (R320): The Thimble request BRAKE_APPLY turns the brake outputs off. -/
  | brakeApply (o : Origin) (tag : BitVec 16)
  /-- DIS_START (R328): The Thimble request DIS_START commands a discharge run of GCH13 unless a group is in PERMIT or SS1. -/
  | disStart (o : Origin) (tag : BitVec 16)
  /-- DIS_STOP (R328): The Thimble request DIS_STOP ends a commanded discharge run. -/
  | disStop (o : Origin) (tag : BitVec 16)
  /-- WIND_DIS (R329): The Thimble request WIND_DIS engages the winding discharge on a group at rest in STO. -/
  | windDis (o : Origin) (tag : BitVec 16)
  /-- CLEAR (R330): The Thimble request CLEAR clears latches whose cause has gone. -/
  | clear (o : Origin) (tag : BitVec 16)
  /-- UNLOCK_SAFETY (R333): The Thimble request UNLOCK_SAFETY checks the password and opens the safety unlock. -/
  | unlockSafety (o : Origin) (tag : BitVec 16) (len1 : BitVec 8)
  /-- UNLOCK_DEV (R333): The Thimble request UNLOCK_DEV checks the password and opens the development unlock. -/
  | unlockDev (o : Origin) (tag : BitVec 16) (len1 : BitVec 8)
  /-- CLOSE (R333): The Thimble request CLOSE ends an open unlock with a change-log entry. -/
  | close (o : Origin) (tag : BitVec 16)
  /-- INSTALL (R334): The Thimble request INSTALL checks and commits the image's safety and Hem sections as the new committed set.
  -/
  | install (o : Origin) (tag : BitVec 16)
  /-- SET_PASSWORD (R331): The Thimble request SET_PASSWORD replaces the salted password hash and clears PWD_INIT. -/
  | setPassword (o : Origin) (tag : BitVec 16) (len1 : BitVec 8) (len2 : BitVec 8)
  /-- ACK_LOG (R337): The Thimble request ACK_LOG erases a change log whose digest matches and writes entry 0. -/
  | ackLog (o : Origin) (tag : BitVec 16) (len1 : BitVec 8)
  /-- CAN_RUN_SET (R363): RUN written 1 moves a CAN controller to INTEGRATING, or keeps it in CONFIG with CFG_ERR. -/
  | canRunSet (n : Fin 4)
  /-- CAN_RUN_CLEAR (R363): RUN written 0 returns the controller to CONFIG after the current frame and fails pending requests. -/
  | canRunClear (n : Fin 4)
  /-- BUS_IDLE_DETECTED (R363): 11 consecutive recessive bits move an integrating controller to ACTIVE. -/
  | busIdleDetected (n : Fin 4)
  /-- CAN_FRAME_RECEIVED (R359): An error-free received frame is filtered to the FIFO, a high-priority slot, rejection or drop. -/
  | canFrameReceived (n : Fin 4) (f : CanFrame) (age : BitVec 32)
  /-- REF_FOLLOW_TIMEOUT (R367): A REF without FOLLOW within 5 ms is dropped and counted. -/
  | refFollowTimeout (n : Fin 4)
  /-- CAN_PROTOCOL_EXCEPTION (R347): A frame of a disabled format is counted and the controller returns to INTEGRATING. -/
  | canProtocolException (n : Fin 4)
  /-- CAN_BUS_ERROR (R362): A detected bus error changes the error counters, with WARN, PASSIVE or BUS_OFF as they cross limits. -/
  | canBusError (n : Fin 4) (e : CanErr) (lec : BitVec 3)
  /-- TXREQ (R356): Writing 1 to TXREQ makes a buffer pending for transmission. -/
  | txreq (n : Fin 4) (mask : BitVec 3)
  /-- TXABORT (R357): Writing 1 to TXABORT requests abort of a pending buffer. -/
  | txabort (n : Fin 4) (mask : BitVec 3)
  /-- CAN_TX_COMPLETE (R357): A transmit attempt succeeds with TXDONE, retries after loss or error, or fails with FAIL_WHY. -/
  | canTxComplete (n : Fin 4) (e : TxEnd)
  /-- FIFO_POP (R361): CAN_RXFn.POP frees the FIFO entry at HEAD. -/
  | fifoPop (n : Fin 4)
  /-- HP_SLOT_FREE (R360): Writing 1 to a FULL bit frees a high-priority slot. -/
  | hpSlotFree (n : Fin 4) (mask : BitVec 4)
  /-- RECOVER (R363): CAN_CTLn.RECOVER starts bus-off recovery. -/
  | recover (n : Fin 4)
  /-- BUS_ON (R363): 128 occurrences of 11 recessive bits complete recovery to ACTIVE with counters at 0. -/
  | busOn (n : Fin 4)
  /-- DOMINANT_TIMEOUT (R349): A transmit input dominant for 2.5 ms releases the bus and counts DOM_TO. -/
  | dominantTimeout (n : Fin 4)
  /-- REF_PERIOD (R366): A time master requests REF every PERIOD_MS, then queues FOLLOW when REF has been sent. -/
  | refPeriod (n : Fin 4)
  /-- ETH_LINK_CHANGE (R369): A trunk port's link goes up or down, setting LINK and counting losses. -/
  | ethLinkChange (p : Fin 2) (up : Bool) (sqi : BitVec 3)
  /-- SWITCH_FRAME_RECEIVED (R370): A frame received by the three-port switch is forwarded store-and-forward, queued, or dropped. -/
  | switchFrameReceived (p : Fin 2) (l : List (BitVec 8)) (ok : Bool) (age : BitVec 32)
  /-- SYNC_RECEIVED (R371): An 802.1AS Sync on the slave port gives a DTM offset measurement and is relayed. -/
  | syncReceived (p : Fin 2) (t : BitVec 64) (age : BitVec 32)
  /-- PDELAY_EXCHANGE (R371): A peer-delay exchange every 2^LOG_PDELAY s measures link delay, or fails and is counted. -/
  | pdelayExchange (p : Fin 2) (delay : Option (BitVec 32))
  /-- ANNOUNCE_RECEIVED (R371): An Announce runs best-master selection and may change the grandmaster and port roles. -/
  | announceReceived (p : Fin 2) (a : Announce)
  /-- SYNC_LOST (R371): No Sync for three intervals on a slave port counts and raises SYNC_LOST. -/
  | syncLost (p : Fin 2)
  /-- TXKICK (R372): ETH_DMA.TXKICK starts processing of transmit descriptors with OWN set. -/
  | txkick
  /-- DTM_HOLDOVER (R438): No measurement for three expected intervals holds RATE and enters HOLDOVER. -/
  | dtmHoldover
  /-- SUBMIT (R383): SFL_RXCTL.SUBMIT makes SFL judge a frame through the receive checks and the connection state table. -/
  | submit (len : BitVec 16)
  /-- TX_POP (R382): SFL_TXCTL.TX_POP removes the head frame of the safety transmit queue. -/
  | txPop
  /-- APPSEND (R381): SFL_APPSEND builds a DATA frame of an open APP producer connection. -/
  | appsend (k : Fin 256) (len : BitVec 8)
  /-- CONNECTION_ENABLE (R385): A write of SFL_CCFGk.EN opens a connection to OPENING, or closes it with a CLOSE if OPEN. -/
  | connectionEnable (o : Origin) (k : Fin 256) (en : Bool)
  /-- CONNECTION_CYCLE (R381): Each CYCLE a producer sends OPEN while opening or builds THM DATA while open. -/
  | connectionCycle (k : Fin 256)
  /-- CONNECTION_WATCHDOG (R385): TEXP without accepted DATA returns a consumer connection to OPENING and counts TIMEOUT. -/
  | connectionWatchdog (k : Fin 256)
  /-- DOMAIN_EN (R391): SFL_DOMCFG.EN at READY moves the domain state to WAIT, or to OFF when cleared. -/
  | domainEn (en : Bool)
  /-- FORM_DELAY_REACHED (R391): Module time reaching FORM_DELAY_MS with no domain frame heard sends OPEN and starts forming. -/
  | formDelayReached
  /-- DOMAIN_OPEN (R387): A domain OPEN frame starts claim contention. -/
  | domainOpen
  /-- DOMAIN_CLAIM (R387): A CLAIM frame advances or eliminates contenders round by round. -/
  | domainClaim (r : Fin 4) (arg : BitVec 16)
  /-- DOMAIN_REGISTER (R387): A REGISTER frame adds a member to the segment and starts the next claim slot. -/
  | domainRegister (arg : BitVec 16) (uid : BitVec 64)
  /-- DOMAIN_TRUNK (R388): A TRUNK frame updates a member's trunk status and recomputes the gateway. -/
  | domainTrunk (trunk : Bool) (uid : BitVec 64)
  /-- DOMAIN_LEADER (R394): A LEADER frame names the new segment leader and sets time roles. -/
  | domainLeader (uid : BitVec 64)
  /-- DOMOFF (R389): A DOMOFF frame gives the leader the gateway's offset to steer out. -/
  | domoff (off : BitVec 64)
  /-- SEGNUM (R391): A SEGNUM frame stores the segment number and moves the module to CONNECT. -/
  | segnum (num : BitVec 16) (gm : BitVec 64)
  /-- CLAIM_SILENCE (R387): A contender hearing no domain frame for 1 ms sends CLAIM 0. -/
  | claimSilence
  /-- SEGMENT_CLOSE (R388): 4 ms without a domain frame or the 32nd REGISTER closes the segment, electing leader and gateway. -/
  | segmentClose
  /-- SEG_REG (R390): A SEG_REG on the trunk registers a segment with the grandmaster. -/
  | segReg (r : SegReg)
  /-- DIRECTORY_CLOSE (R390): EXP_SEGS registered or 100 ms without a new one makes the grandmaster number segments and send
  DIR_ACK and DIR_DONE. -/
  | directoryClose
  /-- DIR_ACK (R390): A DIR_ACK gives a leader its segment number and version, or refuses it. -/
  | dirAck (leader : BitVec 64) (num : BitVec 9) (ver : BitVec 4)
  /-- DIR_DONE (R390): A DIR_DONE is relayed by a gateway as SEGNUM on its segment. -/
  | dirDone
  /-- DIR_QUERY (R390): A DIR_QUERY is answered by the grandmaster with a module's segment and gateway, or unknown. -/
  | dirQuery (uid : BitVec 64)
  /-- GATEWAY_SERVO_LOCKED (R391): The gateway servo within ±2 µs lets the leader send SEG_REG and enter DIRECTORY. -/
  | gatewayServoLocked
  /-- CONNECT_COMPLETE (R391): All enabled connections OPEN, or 150 ms elapsed, makes the domain state FORMED. -/
  | connectComplete
  /-- LEADER_REF_MISSING (R394): REF missing for 3 periods makes the lowest remaining member send LEADER and take the time role. -/
  | leaderRefMissing
  /-- GM_CHANGE (R390): A grandmaster change makes every leader register again within 1 s. -/
  | gmChange
  /-- CRC_INIT (R395): CRC_CTLu.INIT loads the algorithm's preset into VAL. -/
  | crcInit (u : Fin 8)
  /-- CRC_GO (R396): CRC_CTLu.GO starts memory mode over ADDR and LEN. -/
  | crcGo (u : Fin 8)
  /-- CRC_STOP (R396): CRC_CTLu.STOP halts memory mode at a cycle boundary with a consistent context. -/
  | crcStop (u : Fin 8) (cyc : BitVec 40)
  /-- CRC_DATA (R395): A write of CRC_DATAu feeds its bytes to the unit in direct mode. -/
  | crcData (u : Fin 8) (half : Bool) (v : BitVec 64)
  /-- CRC_MEMORY_DONE (R396): Memory mode ends with LEN at 0 and DONE, or on a bus error with ERR. -/
  | crcMemoryDone (u : Fin 8)
  /-- SPIH_FRAME_START (R403): CS_N falling latches the status byte and the waiting reply, or VALID = 0 while a frame executes. -/
  | spihFrameStart
  /-- NOP_CMD (R404): The SPIH command NOP returns status only and collects the last reply. -/
  | nopCmd
  /-- RD (R404): The SPIH command RD reads memory with split-core rights. -/
  | rd
  /-- WR (R404): The SPIH command WR writes memory in 8-byte accesses with split-core rights. -/
  | wr
  /-- FL_RD (R404): The SPIH command FL_RD reads image flash. -/
  | flRd (ok : Bool)
  /-- FL_PROG (R404): The SPIH command FL_PROG programs flash in the idle slot. -/
  | flProg (ok : Bool)
  /-- FL_ERASE (R404): The SPIH command FL_ERASE erases a 64 KiB sector in the idle slot. -/
  | flErase (ok : Bool)
  /-- KEY_PROG (R65): The SPIH recovery command KEY_PROG programs a key-store slot once. -/
  | keyProg
  /-- KEY_REVOKE (R65): The SPIH recovery command KEY_REVOKE revokes a slot on a valid signature from another slot of the same
  role. -/
  | keyRevoke
  /-- APP_RESET (R404): The SPIH command APP_RESET resets the application side after the reply is collected. -/
  | appReset
  /-- SPIH_FRAME_END (R403): CS_N rising ends a frame, so its request is checked and executed. -/
  | spihFrameEnd (l : List (BitVec 8))
  /-- M0_GO (R406): SPI_M0CTL.GO starts an xSPI operation, or refuses it as protected. -/
  | m0Go
  /-- M0_DONE (R406): An xSPI operation completes, or times out after 1 ms with RESULT 4. -/
  | m0Done (e : M0End)
  /-- FLASH_WINDOW_READ (R406): A read through the image flash window runs the mapped phases, or waits 10 µs and ends with a bus
  error. -/
  | flashWindowRead (free : Bool)
  /-- M1_TX_QUEUE (R408): A write of SPI_M1TX queues an SPIM1 entry, or is counted in Q_FULL. -/
  | m1TxQueue (v : BitVec 64)
  /-- M1_ENTRY_DONE (R408): An SPIM1 entry completes, storing the received word or LONG data and handling the held select. -/
  | m1EntryDone (w : BitVec 32) (l : List (BitVec 8))
  /-- M1_RX_POP (R408): SPI_M1RX.POP removes the head received word. -/
  | m1RxPop
  /-- LU_TX_BYTE (R410): A write of LUA_DATAn.TX queues a byte, or drops and counts it. -/
  | luTxByte (n : Fin 4) (b : BitVec 8)
  /-- LU_RX_POP (R410): LUA_DATAn.POP removes the head received byte. -/
  | luRxPop (n : Fin 4)
  /-- UART_BYTE_RECEIVED (R411): A UART or LIN byte framed from an accepted start edge enters the FIFO with FE or PE flags, or is
  dropped. -/
  | uartByteReceived (n : Fin 4) (b : BitVec 8 × BitVec 8 × BitVec 8) (par : Bool × Bool × Bool) (stop : Bool × List Bool)
  /-- LIN_GO (R412): LUA_LINn.GO sends a commander header and the response of the selected direction. -/
  | linGo (n : Fin 4)
  /-- LIN_FRAME_END (R412): A LIN frame completes or ends with a bit, checksum or sync error. -/
  | linFrameEnd (n : Fin 4) (e : LinEnd)
  /-- LIN_RESPONSE_TIMEOUT (R412): A response not complete within the time bound ends the frame with RESULT 4. -/
  | linResponseTimeout (n : Fin 4)
  /-- LIN_BREAK (R412): A responder detects a break and times the sync field for its bit time. -/
  | linBreak (n : Fin 4) (span : BitVec 32)
  /-- LIN_HEADER (R413): A received protected identifier is served by a matching response slot, or raises HEADER. -/
  | linHeader (n : Fin 4) (pid : BitVec 8)
  /-- INVENTORY (R414): The tag command Inventory is answered with the UID. -/
  | tagInventory (len : BitVec 7) (mask : BitVec 64)
  /-- STAY_QUIET (R414): The tag command Stay quiet puts the tag into the quiet state. -/
  | tagStayQuiet (uid : BitVec 64)
  /-- SELECT (R414): The tag command Select selects the tag. -/
  | tagSelect (uid : BitVec 64)
  /-- RESET_TO_READY (R414): The tag command Reset to ready returns the tag to ready. -/
  | tagResetToReady (adr : TagTo)
  /-- READ_SINGLE_BLOCK (R414): The tag command Read single block reads one block. -/
  | tagReadSingleBlock (adr : TagTo) (b : BitVec 8)
  /-- WRITE_SINGLE_BLOCK (R416): The tag command Write single block writes a proposal block and sets DIRTY, or is answered with an
  error. -/
  | tagWriteSingleBlock (adr : TagTo) (b : BitVec 8) (v : BitVec 32)
  /-- READ_MULTIPLE_BLOCKS (R414): The tag command Read multiple blocks reads several blocks. -/
  | tagReadMultipleBlocks (adr : TagTo) (b : BitVec 8) (n : BitVec 8)
  /-- EXTENDED_READ_SINGLE_BLOCK (R414): The extended command 0x30 reads any block. -/
  | tagExtendedReadSingleBlock (adr : TagTo) (b : BitVec 16)
  /-- EXTENDED_WRITE_SINGLE_BLOCK (R416): The extended command 0x31 writes any proposal block. -/
  | tagExtendedWriteSingleBlock (adr : TagTo) (b : BitVec 16) (v : BitVec 32)
  /-- EXTENDED_READ_MULTIPLE_BLOCKS (R414): The extended command 0x33 reads several blocks anywhere. -/
  | tagExtendedReadMultipleBlocks (adr : TagTo) (b : BitVec 16) (n : BitVec 16)
  /-- GET_SYSTEM_INFORMATION (R414): The tag command Get system information reports the tag's parameters. -/
  | tagGetSystemInformation (adr : TagTo)
  /-- EXTENDED_GET_SYSTEM_INFORMATION (R414): The tag command Extended get system information reports the extended parameters. -/
  | tagExtendedGetSystemInformation (adr : TagTo)
  /-- UNSUPPORTED_TAG_COMMAND (R414): Any other tag command is answered with error 0x01. -/
  | unsupportedTagCommand (adr : TagTo)
  /-- NFC_COMMIT (R416): NFC_CTL.OP = 1 commits NFC_PAGEBUF to a page by spare-page swap, or is refused. -/
  | nfcCommit (page : BitVec 6)
  /-- NFC_READ (R417): NFC_CTL.OP = 2 reads a page into NFC_PAGEBUF, or is refused while a field is present. -/
  | nfcRead (page : BitVec 6)
  /-- NFC_COMMIT_DONE (R416): A page commit completes with its pointer swapped, or ends at 6 ms with RESULT 4. -/
  | nfcCommitDone (e : TagEnd)
  /-- FAULT_PAGE_MIRROR (R418): Fault entries committed to the journal are gathered into commits of the tag's fault pages. -/
  | faultPageMirror
  /-- FLOW_MEASUREMENT_START (R419): Every PERIOD_MS the flow front end sends the downstream burst and then the upstream burst. -/
  | flowMeasurementStart
  /-- FLOW_PAIR_EVALUATED (R421): A burst pair is judged valid and computes v, Q and c, or is dropped with LAST_DROP. -/
  | flowPairEvaluated (peak : Bool) (ad : BitVec 16) (au : BitVec 16) (qd : BitVec 16) (qu : BitVec 16) (td : BitVec 32) (tu : BitVec 32) (dt : BitVec 32)
  /-- FLOW_STALE (R422): AGE exceeding STALE_MS sets STALE, and Hem derates to FLOW_FMIN. -/
  | flowStale
  /-- EVR_ACK (R431): A write of EVR_ACKt clears the named source's pending bit at that target. -/
  | evrAck (t : Fin 6) (k : BitVec 10)
  /-- EVR_PEND_CLEAR (R431): Writing 1 to bits of EVR_PENDt_j clears those pending bits. -/
  | evrPendClear (t : Fin 6) (j : Fin 12) (mask : BitVec 64)
  /-- JOURNAL_ENTRY_WRITE (R441): The journal writes the first eligible queued entry in event order, setting CONC, LATE and the
  supply-loss flag. -/
  | journalEntryWrite
  /-- JNL_FWCMD (R443): A write of JNL_FWCMD queues a firmware journal entry, or refuses a KIND below 0x80. -/
  | jnlFwcmd (o : Origin) (k : BitVec 8)
  /-- VSUP_RETURN (R47): In SUPPLY_LOSS, VSUP rising above 7.5 V makes VSUP supply the module again, starts VHOLD charging and
  starts the 10 ms recovery timer; a fall below 7.5 V restarts that timer. -/
  | vsupReturn
  /-- VHOLD_LOW (R74): VHOLD falling below 30 V, for example during a sag, sets SYS_IMGSTAT.VHOLD_LOW so that Thimble refuses
  every drive enable. -/
  | vholdLow
  /-- HIGH_VOLTAGE_HALF_POWER_UP (R180): VPOS rising above 6 V powers a channel's high-voltage half, which actively holds the gate
  at VNEG and starts its supply, NTC and comparator protection while UNTRAINED. -/
  | highVoltageHalfPowerUp (n : Fin 14)
  /-- UNKNOWN_COMMAND (R404): An SPIH request whose CMD is not listed is not executed and is answered with RESULT 2. -/
  | unknownCommand
  /-- UNKNOWN_REQUEST (R330): A HEM_THMREQ write with a CODE not in the request table is refused with result 8 and counted in
  REQ_REF. -/
  | unknownRequest (o : Origin) (code : BitVec 8) (tag : BitVec 16)
  /-- LU_BYTE_SENT (R410): A UART byte finishes transmission, the next queued byte starts, and TX_EMPTY is raised when the
  transmit FIFO runs empty. -/
  | luByteSent (n : Fin 4)
  /-- HOST_FRAME_SENT (R372): The DMA finishes sending a host-port frame, clears OWN, writes STAMP or ERR, raises TX_DONE and
  moves to the next descriptor. -/
  | hostFrameSent (ok : Bool) (age : BitVec 32)
  /-- SYNC_TRANSMIT (R371): Every 2^LOG_SYNC s a grandmaster or master port sends Sync with its stamp. -/
  | syncTransmit (p : Fin 2)
  /-- ANNOUNCE_TRANSMIT (R389): Every 2^LOG_ANNOUNCE s, and within 1 ms of adopting better information, the relay sends Announce
  on its master ports. -/
  | announceTransmit (p : Fin 2)
  /-- MAC_ENTRY_AGEING (R370): A learning-table entry not refreshed for 300 s ages out of the switch's table. -/
  | macEntryAgeing (mac : BitVec 48)
  /-- SPLIT_CORE_SELF_TEST_DONE (R288): A split core reset by a parity error completes its 260 µs self-test and restarts at the
  image's split entry. -/
  | splitCoreSelfTestDone (c : Fin 4)
deriving DecidableEq, Repr

end Sys2Proof
end

