-- ==== Sys2Proof/Config.lean ====
section
/-!
DEFINITION. Config.lean: what the part fixes and what the spec leaves open. Every constant here is opaque: nothing in
Lean can evaluate it, so a statement that holds, holds for every value of it.
-/
namespace Sys2Proof

/-- The free value number `n`: a value the spec leaves open (log entry 1). State.free counts the values drawn. -/
opaque Config.freeValue : Nat → BitVec 64

/-- The raw factory identity; `Config.uid` maps it away from the two values SYS_UID never has (log entry 3). -/
opaque Config.uidRaw : BitVec 64

/-- SYS_UID: never 0 and never all ones (register table of R36). -/
def Config.uid : Nat :=
  if Config.uidRaw.toNat = 0 ∨ Config.uidRaw.toNat = 2 ^ 64 - 1 then 1 else Config.uidRaw.toNat

/-- ETH_MACADDR.MAC of the part (log entry 3). -/
opaque Config.macRaw : BitVec 48

/-- The factory MAC address as a number. -/
def Config.macAddr : Nat := Config.macRaw.toNat

/-- The manufacturer code in byte 6 of the tag's UID, which the spec does not give (R414, log entry 23). -/
opaque Config.tagMaker : BitVec 8

/-- IDCODE of the TAP, which the spec does not give (R300, log entry 126). -/
opaque Config.idcode : BitVec 32

/-- The value of quantity `n` of the current loops that the running image names no source for (log entry 12). -/
opaque Config.unnamed : Nat → BitVec 64

/-- The quotient of a number by 0 where the spec states none (log entry 13). -/
opaque Config.quotZero : Int → BitVec 64

/-- Whether the quotient `a / b` takes the upper of its two neighbours where the spec does not call it rounded, truncated
or floored (log entry 15). -/
opaque Config.roundUp : Int → Int → Bool

/-- Whether `√(n / m)` takes the upper of its two neighbours where the spec does not call it rounded (log entry 15). -/
opaque Config.rootUp : Nat → Nat → Bool

/-- The deviation of a CORDIC result of the control engine from the exact value, in units of 2^-32: a fixed function of
the operands (R202, log entry 5). The operation's code says which of SINCOS' two results, ATAN2 or MAG it belongs to.
`Machine.cordicErr` clamps it to the bound the rule gives. -/
opaque Config.cordicErr : Nat → BitVec 64 → BitVec 64 → Int

/-- The temperature in m°C that a TMP result stands for: of 1 mA excitation or of 200 µA, and of its mean code × 16. The
spec names no characteristic of the sensor (log entry 17). -/
opaque Config.tmpMilli : Bool → Nat → Int

end Sys2Proof
end

