-- ==== Sys2Proof/Machine/RegMap.lean ====
section
/-!
DEFINITION. Machine/RegMap.lean: the register map of the module, one field definition for every named field of the
register tables of spec/ (addresses from R23 and from the register tables of each chapter), the values the registers
reset to, and the register definitions a bus write consults (the access codes of R10).
A field is its physical address, its lowest bit and its width; a register family takes its indices as arguments.
-/
namespace Sys2Proof.Machine

/-! ## 01_levels_map_clocks.md -/

/-- SYS_ID — offset 0x0000 (01_levels_map_clocks.md, R36). -/
abbrev A_SYS_ID : Nat := 0x40000000
abbrev SYS_ID_ORDNUM : Fld := ⟨0x40000000, 32, 32⟩
abbrev SYS_ID_REV : Fld := ⟨0x40000000, 24, 8⟩
abbrev SYS_ID_GRADE : Fld := ⟨0x40000000, 16, 8⟩

/-- SYS_UID — offset 0x0008 (01_levels_map_clocks.md, R36). -/
abbrev A_SYS_UID : Nat := 0x40000008
abbrev SYS_UID_UID : Fld := ⟨0x40000008, 0, 64⟩

/-- SYS_PWRSTATE — offset 0x0010 (01_levels_map_clocks.md, R36). -/
abbrev A_SYS_PWRSTATE : Nat := 0x40000010
abbrev SYS_PWRSTATE_READY : Fld := ⟨0x40000010, 7, 1⟩
abbrev SYS_PWRSTATE_STATE : Fld := ⟨0x40000010, 0, 3⟩

/-- SYS_PWRCTL — offset 0x0018 (01_levels_map_clocks.md, R36). -/
abbrev A_SYS_PWRCTL : Nat := 0x40000018
abbrev SYS_PWRCTL_SLP_REFUSED : Fld := ⟨0x40000018, 48, 16⟩
abbrev SYS_PWRCTL_REFUSE_WHY : Fld := ⟨0x40000018, 4, 4⟩
abbrev SYS_PWRCTL_SLEEP_REQ : Fld := ⟨0x40000018, 0, 1⟩

/-- SYS_WAKECFG — offset 0x0020 (01_levels_map_clocks.md, R36). -/
abbrev A_SYS_WAKECFG : Nat := 0x40000020
abbrev SYS_WAKECFG_CAN_EN : Fld := ⟨0x40000020, 12, 4⟩
abbrev SYS_WAKECFG_WAKE_MODE : Fld := ⟨0x40000020, 10, 2⟩
abbrev SYS_WAKECFG_NFC_EN : Fld := ⟨0x40000020, 9, 1⟩
abbrev SYS_WAKECFG_TMR_EN : Fld := ⟨0x40000020, 8, 1⟩

/-- SYS_WAKECAUSE — offset 0x0028 (01_levels_map_clocks.md, R36). -/
abbrev A_SYS_WAKECAUSE : Nat := 0x40000028
abbrev SYS_WAKECAUSE_CAN : Fld := ⟨0x40000028, 12, 4⟩
abbrev SYS_WAKECAUSE_WAKE : Fld := ⟨0x40000028, 11, 1⟩
abbrev SYS_WAKECAUSE_NFC : Fld := ⟨0x40000028, 10, 1⟩
abbrev SYS_WAKECAUSE_TMR : Fld := ⟨0x40000028, 9, 1⟩
abbrev SYS_WAKECAUSE_SLEEP_ABORT : Fld := ⟨0x40000028, 8, 1⟩

/-- SYS_SLPTMR — offset 0x0030 (01_levels_map_clocks.md, R36). -/
abbrev A_SYS_SLPTMR : Nat := 0x40000030
abbrev SYS_SLPTMR_TICKS : Fld := ⟨0x40000030, 0, 32⟩

/-- SYS_CLKREQ — offset 0x0040 (01_levels_map_clocks.md, R36). -/
abbrev A_SYS_CLKREQ : Nat := 0x40000040
abbrev SYS_CLKREQ_PLLC : Fld := ⟨0x40000040, 2, 1⟩
abbrev SYS_CLKREQ_PLLB : Fld := ⟨0x40000040, 1, 1⟩
abbrev SYS_CLKREQ_PLLA : Fld := ⟨0x40000040, 0, 1⟩

/-- SYS_CLKSTAT — offset 0x0048 (01_levels_map_clocks.md, R36). -/
abbrev A_SYS_CLKSTAT : Nat := 0x40000048
abbrev SYS_CLKSTAT_REFFAIL : Fld := ⟨0x40000048, 12, 1⟩
abbrev SYS_CLKSTAT_PLLC_ST : Fld := ⟨0x40000048, 8, 4⟩
abbrev SYS_CLKSTAT_PLLB_ST : Fld := ⟨0x40000048, 4, 4⟩
abbrev SYS_CLKSTAT_PLLA_ST : Fld := ⟨0x40000048, 0, 4⟩

/-- SYS_CLKHOLD — offset 0x0050 (01_levels_map_clocks.md, R36). -/
abbrev A_SYS_CLKHOLD : Nat := 0x40000050
abbrev SYS_CLKHOLD_HOLD_US : Fld := ⟨0x40000050, 0, 16⟩

/-- SYS_RSTCTL — offset 0x0060 (01_levels_map_clocks.md, R36). -/
abbrev A_SYS_RSTCTL : Nat := 0x40000060
abbrev SYS_RSTCTL_KEY : Fld := ⟨0x40000060, 48, 16⟩
abbrev SYS_RSTCTL_APP_RST : Fld := ⟨0x40000060, 0, 1⟩

/-- SYS_RSTCAUSE — offset 0x0068 (01_levels_map_clocks.md, R36). -/
abbrev A_SYS_RSTCAUSE : Nat := 0x40000068
abbrev SYS_RSTCAUSE_DEBUG : Fld := ⟨0x40000068, 7, 1⟩
abbrev SYS_RSTCAUSE_SOFTWARE : Fld := ⟨0x40000068, 6, 1⟩
abbrev SYS_RSTCAUSE_WATCHDOG : Fld := ⟨0x40000068, 5, 1⟩
abbrev SYS_RSTCAUSE_THIMBLE : Fld := ⟨0x40000068, 4, 1⟩
abbrev SYS_RSTCAUSE_SUPPLY_LOSS : Fld := ⟨0x40000068, 3, 1⟩
abbrev SYS_RSTCAUSE_WAKE : Fld := ⟨0x40000068, 2, 1⟩
abbrev SYS_RSTCAUSE_POWER_ON : Fld := ⟨0x40000068, 1, 1⟩

/-- SYS_BUSERR — offset 0x0070 (01_levels_map_clocks.md, R36). -/
abbrev A_SYS_BUSERR : Nat := 0x40000070
abbrev SYS_BUSERR_UNMAPPED : Fld := ⟨0x40000070, 48, 16⟩
abbrev SYS_BUSERR_RO_WRITE : Fld := ⟨0x40000070, 32, 16⟩
abbrev SYS_BUSERR_WIDTH : Fld := ⟨0x40000070, 16, 16⟩
abbrev SYS_BUSERR_KEY : Fld := ⟨0x40000070, 0, 16⟩

/-! ## 02_module_contacts_supplies.md -/

/-- FIO_IN — offset 0x0000 (02_module_contacts_supplies.md, R59). -/
abbrev A_FIO_IN : Nat := 0x40F00000
abbrev FIO_IN_RAW : Fld := ⟨0x40F00000, 32, 32⟩
abbrev FIO_IN_LEVEL : Fld := ⟨0x40F00000, 0, 32⟩

/-- FIO_DIFILT — offset 0x0008 (02_module_contacts_supplies.md, R59). -/
abbrev A_FIO_DIFILT : Nat := 0x40F00008
abbrev FIO_DIFILT_FILT : Fld := ⟨0x40F00008, 0, 32⟩

/-- FIO_DIEDGE — offset 0x0010 (02_module_contacts_supplies.md, R59). -/
abbrev A_FIO_DIEDGE : Nat := 0x40F00010
abbrev FIO_DIEDGE_FALL_EN : Fld := ⟨0x40F00010, 32, 32⟩
abbrev FIO_DIEDGE_RISE_EN : Fld := ⟨0x40F00010, 0, 32⟩

/-- FIO_FLT — offset 0x0018 (02_module_contacts_supplies.md, R59). -/
abbrev A_FIO_FLT : Nat := 0x40F00018
abbrev FIO_FLT_AGG_OVER : Fld := ⟨0x40F00018, 40, 1⟩
abbrev FIO_FLT_VF_OV : Fld := ⟨0x40F00018, 36, 4⟩
abbrev FIO_FLT_VF_UV : Fld := ⟨0x40F00018, 32, 4⟩
abbrev FIO_FLT_FIGHT : Fld := ⟨0x40F00018, 24, 4⟩
abbrev FIO_FLT_LATCH_SB : Fld := ⟨0x40F00018, 14, 2⟩
abbrev FIO_FLT_LATCH : Fld := ⟨0x40F00018, 0, 14⟩

/-- FIO_CNT — offset 0x0020 (02_module_contacts_supplies.md, R59). -/
abbrev A_FIO_CNT : Nat := 0x40F00020
abbrev FIO_CNT_LIMIT_EVT : Fld := ⟨0x40F00020, 48, 16⟩
abbrev FIO_CNT_RETRY : Fld := ⟨0x40F00020, 32, 16⟩
abbrev FIO_CNT_DI_GLITCH : Fld := ⟨0x40F00020, 16, 16⟩
abbrev FIO_CNT_RWI_REF : Fld := ⟨0x40F00020, 0, 16⟩

/-- FIO_BANKCFGb — offset 0x0040 + b × 8, b = 0 to 3 (02_module_contacts_supplies.md, R59). -/
abbrev A_FIO_BANKCFG (b : Nat) : Nat := 0x40F00040 + b * 0x8
abbrev FIO_BANKCFG_PERIOD (b : Nat) : Fld := ⟨0x40F00040 + b * 0x8, 0, 16⟩

/-- FIO_VFIELD — offset 0x0060 (02_module_contacts_supplies.md, R59). -/
abbrev A_FIO_VFIELD : Nat := 0x40F00060
abbrev FIO_VFIELD_VF3 : Fld := ⟨0x40F00060, 48, 16⟩
abbrev FIO_VFIELD_VF2 : Fld := ⟨0x40F00060, 32, 16⟩
abbrev FIO_VFIELD_VF1 : Fld := ⟨0x40F00060, 16, 16⟩
abbrev FIO_VFIELD_VF0 : Fld := ⟨0x40F00060, 0, 16⟩

/-- FIO_OUTCFGn — offset 0x0100 + n × 8, n = 0 to 15 (02_module_contacts_supplies.md, R59). -/
abbrev A_FIO_OUTCFG (n : Nat) : Nat := 0x40F00100 + n * 0x8
abbrev FIO_OUTCFG_DUTY (n : Nat) : Fld := ⟨0x40F00100 + n * 0x8, 16, 16⟩
abbrev FIO_OUTCFG_MODE (n : Nat) : Fld := ⟨0x40F00100 + n * 0x8, 0, 3⟩

/-- FIO_OSTATn — offset 0x0200 + n × 8, n = 0 to 15 (02_module_contacts_supplies.md, R59). -/
abbrev A_FIO_OSTAT (n : Nat) : Nat := 0x40F00200 + n * 0x8
abbrev FIO_OSTAT_CURRENT (n : Nat) : Fld := ⟨0x40F00200 + n * 0x8, 48, 16⟩
abbrev FIO_OSTAT_RETRIES (n : Nat) : Fld := ⟨0x40F00200 + n * 0x8, 12, 4⟩
abbrev FIO_OSTAT_CAUSE (n : Nat) : Fld := ⟨0x40F00200 + n * 0x8, 4, 4⟩
abbrev FIO_OSTAT_LIMIT (n : Nat) : Fld := ⟨0x40F00200 + n * 0x8, 3, 1⟩
abbrev FIO_OSTAT_STATE (n : Nat) : Fld := ⟨0x40F00200 + n * 0x8, 0, 3⟩

/-! ## 03_baste_image_startup.md -/

/-- SYS_IMGSTAT — offset 0x0080 (03_baste_image_startup.md, R77). -/
abbrev A_SYS_IMGSTAT : Nat := 0x40000080
abbrev SYS_IMGSTAT_RUNSLOT_WR : Fld := ⟨0x40000080, 48, 16⟩
abbrev SYS_IMGSTAT_B_CAUSE : Fld := ⟨0x40000080, 36, 4⟩
abbrev SYS_IMGSTAT_A_CAUSE : Fld := ⟨0x40000080, 32, 4⟩
abbrev SYS_IMGSTAT_ADC_CALFAIL : Fld := ⟨0x40000080, 16, 8⟩
abbrev SYS_IMGSTAT_VHOLD_LOW : Fld := ⟨0x40000080, 7, 1⟩
abbrev SYS_IMGSTAT_CAL_BAD : Fld := ⟨0x40000080, 6, 1⟩
abbrev SYS_IMGSTAT_SAFE_ABSENT : Fld := ⟨0x40000080, 5, 1⟩
abbrev SYS_IMGSTAT_SAFE_MISMATCH : Fld := ⟨0x40000080, 4, 1⟩
abbrev SYS_IMGSTAT_DBG_ALLOW : Fld := ⟨0x40000080, 3, 1⟩
abbrev SYS_IMGSTAT_SLOT : Fld := ⟨0x40000080, 1, 1⟩
abbrev SYS_IMGSTAT_IMG_OK : Fld := ⟨0x40000080, 0, 1⟩

/-- SYS_IMGVER — offset 0x0088 (03_baste_image_startup.md, R77). -/
abbrev A_SYS_IMGVER : Nat := 0x40000088
abbrev SYS_IMGVER_IMG_VERSION : Fld := ⟨0x40000088, 0, 64⟩

/-- SYS_BOOTTIME — offset 0x0090 (03_baste_image_startup.md, R77). -/
abbrev A_SYS_BOOTTIME : Nat := 0x40000090
abbrev SYS_BOOTTIME_READY_US : Fld := ⟨0x40000090, 0, 32⟩

/-- SYS_IMGCTL — offset 0x0098 (03_baste_image_startup.md, R77). -/
abbrev A_SYS_IMGCTL : Nat := 0x40000098
abbrev SYS_IMGCTL_VERIFY_BUSY : Fld := ⟨0x40000098, 8, 1⟩
abbrev SYS_IMGCTL_VERIFY : Fld := ⟨0x40000098, 4, 1⟩
abbrev SYS_IMGCTL_NEXT_SLOT : Fld := ⟨0x40000098, 0, 2⟩

/-- SYS_GLINK — offset 0x00A0 (03_baste_image_startup.md, R77). -/
abbrev A_SYS_GLINK : Nat := 0x400000A0
abbrev SYS_GLINK_RETRAIN : Fld := ⟨0x400000A0, 48, 16⟩
abbrev SYS_GLINK_UNUSED : Fld := ⟨0x400000A0, 32, 14⟩
abbrev SYS_GLINK_FAIL : Fld := ⟨0x400000A0, 16, 14⟩
abbrev SYS_GLINK_TRAINED : Fld := ⟨0x400000A0, 0, 14⟩

/-! ## 04_sampling_converters.md -/

/-- ADC_CTLn — offset n × 0x1000 + 0x000 (04_sampling_converters.md, R102). -/
abbrev A_ADC_CTL (n : Nat) : Nat := 0x40100000 + n * 0x1000
abbrev ADC_CTL_RUN (n : Nat) : Fld := ⟨0x40100000 + n * 0x1000, 0, 1⟩

/-- ADC_STATn — offset n × 0x1000 + 0x008 (04_sampling_converters.md, R102). -/
abbrev A_ADC_STAT (n : Nat) : Nat := 0x40100008 + n * 0x1000
abbrev ADC_STAT_SAMPLE (n : Nat) : Fld := ⟨0x40100008 + n * 0x1000, 16, 16⟩
abbrev ADC_STAT_ENTRY (n : Nat) : Fld := ⟨0x40100008 + n * 0x1000, 10, 6⟩
abbrev ADC_STAT_URGQ (n : Nat) : Fld := ⟨0x40100008 + n * 0x1000, 8, 2⟩
abbrev ADC_STAT_CAL_VALID (n : Nat) : Fld := ⟨0x40100008 + n * 0x1000, 7, 1⟩
abbrev ADC_STAT_STATE (n : Nat) : Fld := ⟨0x40100008 + n * 0x1000, 0, 3⟩

/-- ADC_URGn — offset n × 0x1000 + 0x010 (04_sampling_converters.md, R102). -/
abbrev A_ADC_URG (n : Nat) : Nat := 0x40100010 + n * 0x1000
abbrev ADC_URG_COUNT (n : Nat) : Fld := ⟨0x40100010 + n * 0x1000, 8, 8⟩
abbrev ADC_URG_INPUT (n : Nat) : Fld := ⟨0x40100010 + n * 0x1000, 0, 4⟩

/-- ADC_CNTn — offset n × 0x1000 + 0x018 (04_sampling_converters.md, R102). -/
abbrev A_ADC_CNT (n : Nat) : Nat := 0x40100018 + n * 0x1000
abbrev ADC_CNT_CLIP (n : Nat) : Fld := ⟨0x40100018 + n * 0x1000, 48, 16⟩
abbrev ADC_CNT_URG_ABORT (n : Nat) : Fld := ⟨0x40100018 + n * 0x1000, 32, 16⟩
abbrev ADC_CNT_URG_LOST (n : Nat) : Fld := ⟨0x40100018 + n * 0x1000, 16, 16⟩
abbrev ADC_CNT_TRIG_LATE (n : Nat) : Fld := ⟨0x40100018 + n * 0x1000, 0, 16⟩

/-- ADC_CNT2n — offset n × 0x1000 + 0x020 (04_sampling_converters.md, R102). -/
abbrev A_ADC_CNT2 (n : Nat) : Nat := 0x40100020 + n * 0x1000
abbrev ADC_CNT2_BLANKED (n : Nat) : Fld := ⟨0x40100020 + n * 0x1000, 32, 32⟩
abbrev ADC_CNT2_STOP_REF (n : Nat) : Fld := ⟨0x40100020 + n * 0x1000, 16, 16⟩
abbrev ADC_CNT2_RWI_REF (n : Nat) : Fld := ⟨0x40100020 + n * 0x1000, 0, 16⟩

/-- ADC_LASTn — offset n × 0x1000 + 0x028 (04_sampling_converters.md, R102). -/
abbrev A_ADC_LAST (n : Nat) : Nat := 0x40100028 + n * 0x1000
abbrev ADC_LAST_RECORD (n : Nat) : Fld := ⟨0x40100028 + n * 0x1000, 0, 64⟩

/-- ADC_URGRESn — offset n × 0x1000 + 0x030 (04_sampling_converters.md, R102). -/
abbrev A_ADC_URGRES (n : Nat) : Nat := 0x40100030 + n * 0x1000
abbrev ADC_URGRES_RESULT (n : Nat) : Fld := ⟨0x40100030 + n * 0x1000, 0, 64⟩

/-- ADC_SEQn_k — offset n × 0x1000 + 0x400 + k × 8, k = 0 to 63 (04_sampling_converters.md, R102). -/
abbrev A_ADC_SEQ (n k : Nat) : Nat := 0x40100400 + n * 0x1000 + k * 0x8
abbrev ADC_SEQ_LAST (n k : Nat) : Fld := ⟨0x40100400 + n * 0x1000 + k * 0x8, 63, 1⟩
abbrev ADC_SEQ_EVT (n k : Nat) : Fld := ⟨0x40100400 + n * 0x1000 + k * 0x8, 62, 1⟩
abbrev ADC_SEQ_TRIG (n k : Nat) : Fld := ⟨0x40100400 + n * 0x1000 + k * 0x8, 60, 2⟩
abbrev ADC_SEQ_COUNT (n k : Nat) : Fld := ⟨0x40100400 + n * 0x1000 + k * 0x8, 40, 16⟩
abbrev ADC_SEQ_INPUT (n k : Nat) : Fld := ⟨0x40100400 + n * 0x1000 + k * 0x8, 36, 4⟩
abbrev ADC_SEQ_DELAY (n k : Nat) : Fld := ⟨0x40100400 + n * 0x1000 + k * 0x8, 16, 16⟩

/-- ADC_RESn_k — offset n × 0x1000 + 0x600 + k × 8, k = 0 to 63 (04_sampling_converters.md, R102). -/
abbrev A_ADC_RES (n k : Nat) : Nat := 0x40100600 + n * 0x1000 + k * 0x8
abbrev ADC_RES_RESULT (n k : Nat) : Fld := ⟨0x40100600 + n * 0x1000 + k * 0x8, 0, 64⟩

/-- ADC_CALWn_k — offset n × 0x1000 + 0xA00 + k × 8, k = 0 to 13 (04_sampling_converters.md, R102). -/
abbrev A_ADC_CALW (n k : Nat) : Nat := 0x40100A00 + n * 0x1000 + k * 0x8
abbrev ADC_CALW_W (n k : Nat) : Fld := ⟨0x40100A00 + n * 0x1000 + k * 0x8, 0, 32⟩

/-- ADC_CALOFFn — offset n × 0x1000 + 0xA70 (04_sampling_converters.md, R102). -/
abbrev A_ADC_CALOFF (n : Nat) : Nat := 0x40100A70 + n * 0x1000
abbrev ADC_CALOFF_OFFSET (n : Nat) : Fld := ⟨0x40100A70 + n * 0x1000, 0, 32⟩

/-- ADC_CALGAINn — offset n × 0x1000 + 0xA78 (04_sampling_converters.md, R102). -/
abbrev A_ADC_CALGAIN (n : Nat) : Nat := 0x40100A78 + n * 0x1000
abbrev ADC_CALGAIN_GAIN (n : Nat) : Fld := ⟨0x40100A78 + n * 0x1000, 0, 32⟩

/-- ADC_REFCFG — offset 0x8000 (04_sampling_converters.md, R102). -/
abbrev A_ADC_REFCFG : Nat := 0x40108000
abbrev ADC_REFCFG_SEL : Fld := ⟨0x40108000, 0, 2⟩

/-- ADC_REFSTAT — offset 0x8008 (04_sampling_converters.md, R102). -/
abbrev A_ADC_REFSTAT : Nat := 0x40108008
abbrev ADC_REFSTAT_FAULTS : Fld := ⟨0x40108008, 48, 16⟩
abbrev ADC_REFSTAT_REF_MV : Fld := ⟨0x40108008, 16, 16⟩
abbrev ADC_REFSTAT_REF_SETTLED : Fld := ⟨0x40108008, 3, 1⟩
abbrev ADC_REFSTAT_STATE : Fld := ⟨0x40108008, 0, 3⟩

/-- ADC_CALCTL — offset 0x8010 (04_sampling_converters.md, R102). -/
abbrev A_ADC_CALCTL : Nat := 0x40108010
abbrev ADC_CALCTL_TRIM : Fld := ⟨0x40108010, 8, 1⟩
abbrev ADC_CALCTL_START : Fld := ⟨0x40108010, 0, 8⟩

/-- ADC_CALSTAT — offset 0x8018 (04_sampling_converters.md, R102). -/
abbrev A_ADC_CALSTAT : Nat := 0x40108018
abbrev ADC_CALSTAT_TRIM_RES : Fld := ⟨0x40108018, 24, 3⟩
abbrev ADC_CALSTAT_FAIL : Fld := ⟨0x40108018, 16, 8⟩
abbrev ADC_CALSTAT_VALID : Fld := ⟨0x40108018, 8, 8⟩
abbrev ADC_CALSTAT_BUSY : Fld := ⟨0x40108018, 0, 8⟩

/-- ADC_TRIMV — offset 0x8020 (04_sampling_converters.md, R102). -/
abbrev A_ADC_TRIMV : Nat := 0x40108020
abbrev ADC_TRIMV_UV : Fld := ⟨0x40108020, 0, 32⟩

/-- ADC_CNT — offset 0x8028 (04_sampling_converters.md, R102). -/
abbrev A_ADC_CCNT : Nat := 0x40108028
abbrev ADC_CCNT_CAL_REF : Fld := ⟨0x40108028, 16, 16⟩
abbrev ADC_CCNT_RWI_REF : Fld := ⟨0x40108028, 0, 16⟩

/-- AUX_CTLm — offset m × 0x1000 + 0x000 (04_sampling_converters.md, R103). -/
abbrev A_AUX_CTL (m : Nat) : Nat := 0x40110000 + m * 0x1000
abbrev AUX_CTL_PERIOD_US (m : Nat) : Fld := ⟨0x40110000 + m * 0x1000, 16, 16⟩
abbrev AUX_CTL_RUN (m : Nat) : Fld := ⟨0x40110000 + m * 0x1000, 0, 1⟩

/-- AUX_SCANm_k — offset m × 0x1000 + 0x100 + k × 8, k = 0 to 31 (04_sampling_converters.md, R103). -/
abbrev A_AUX_SCAN (m k : Nat) : Nat := 0x40110100 + m * 0x1000 + k * 0x8
abbrev AUX_SCAN_LAST (m k : Nat) : Fld := ⟨0x40110100 + m * 0x1000 + k * 0x8, 15, 1⟩
abbrev AUX_SCAN_AVG (m k : Nat) : Fld := ⟨0x40110100 + m * 0x1000 + k * 0x8, 12, 3⟩
abbrev AUX_SCAN_SETTLE (m k : Nat) : Fld := ⟨0x40110100 + m * 0x1000 + k * 0x8, 9, 3⟩
abbrev AUX_SCAN_INPUT (m k : Nat) : Fld := ⟨0x40110100 + m * 0x1000 + k * 0x8, 0, 6⟩

/-- AUX_RESm_k — offset m × 0x1000 + 0x200 + k × 8, k = 0 to 31 (04_sampling_converters.md, R103). -/
abbrev A_AUX_RES (m k : Nat) : Nat := 0x40110200 + m * 0x1000 + k * 0x8
abbrev AUX_RES_STAMP (m k : Nat) : Fld := ⟨0x40110200 + m * 0x1000 + k * 0x8, 24, 40⟩
abbrev AUX_RES_VALID (m k : Nat) : Fld := ⟨0x40110200 + m * 0x1000 + k * 0x8, 23, 1⟩
abbrev AUX_RES_CLIP (m k : Nat) : Fld := ⟨0x40110200 + m * 0x1000 + k * 0x8, 22, 1⟩
abbrev AUX_RES_INPUT (m k : Nat) : Fld := ⟨0x40110200 + m * 0x1000 + k * 0x8, 16, 6⟩
abbrev AUX_RES_MEAN (m k : Nat) : Fld := ⟨0x40110200 + m * 0x1000 + k * 0x8, 0, 16⟩

/-- AUX_CFG — offset 0x8000 (04_sampling_converters.md, R103). -/
abbrev A_AUX_CFG : Nat := 0x40118000
abbrev AUX_CFG_EXC : Fld := ⟨0x40118000, 0, 8⟩

/-- AUX_CNT — offset 0x8008 (04_sampling_converters.md, R103). -/
abbrev A_AUX_CNT : Nat := 0x40118008
abbrev AUX_CNT_OPEN : Fld := ⟨0x40118008, 48, 16⟩
abbrev AUX_CNT_SHORT : Fld := ⟨0x40118008, 32, 16⟩
abbrev AUX_CNT_OVERRUN : Fld := ⟨0x40118008, 16, 16⟩
abbrev AUX_CNT_RWI_REF : Fld := ⟨0x40118008, 0, 16⟩

/-! ## 05_rotor_position.md -/

/-- POS_CFGn — offset n × 0x1000 + 0x000 (05_rotor_position.md, R123). -/
abbrev A_POS_CFG (n : Nat) : Nat := 0x40200000 + n * 0x1000
abbrev POS_CFG_PP (n : Nat) : Fld := ⟨0x40200000 + n * 0x1000, 24, 8⟩
abbrev POS_CFG_RSLV_PP (n : Nat) : Fld := ⟨0x40200000 + n * 0x1000, 20, 4⟩
abbrev POS_CFG_FB_EN (n : Nat) : Fld := ⟨0x40200000 + n * 0x1000, 19, 1⟩
abbrev POS_CFG_VENC_EN (n : Nat) : Fld := ⟨0x40200000 + n * 0x1000, 18, 1⟩
abbrev POS_CFG_DIR (n : Nat) : Fld := ⟨0x40200000 + n * 0x1000, 17, 1⟩
abbrev POS_CFG_ERR_CONSEC (n : Nat) : Fld := ⟨0x40200000 + n * 0x1000, 8, 4⟩
abbrev POS_CFG_GROUP (n : Nat) : Fld := ⟨0x40200000 + n * 0x1000, 4, 2⟩
abbrev POS_CFG_MODE (n : Nat) : Fld := ⟨0x40200000 + n * 0x1000, 0, 3⟩

/-- POS_ENCn — offset n × 0x1000 + 0x008 (05_rotor_position.md, R123). -/
abbrev A_POS_ENC (n : Nat) : Nat := 0x40200008 + n * 0x1000
abbrev POS_ENC_FILT (n : Nat) : Fld := ⟨0x40200008 + n * 0x1000, 58, 6⟩
abbrev POS_ENC_ST_BITS (n : Nat) : Fld := ⟨0x40200008 + n * 0x1000, 52, 6⟩
abbrev POS_ENC_BITS (n : Nat) : Fld := ⟨0x40200008 + n * 0x1000, 46, 6⟩
abbrev POS_ENC_GRAY (n : Nat) : Fld := ⟨0x40200008 + n * 0x1000, 45, 1⟩
abbrev POS_ENC_FRAME_SYNC (n : Nat) : Fld := ⟨0x40200008 + n * 0x1000, 44, 1⟩
abbrev POS_ENC_FRAME_US (n : Nat) : Fld := ⟨0x40200008 + n * 0x1000, 32, 12⟩
abbrev POS_ENC_CLKDIV (n : Nat) : Fld := ⟨0x40200008 + n * 0x1000, 24, 8⟩
abbrev POS_ENC_CPR (n : Nat) : Fld := ⟨0x40200008 + n * 0x1000, 0, 24⟩

/-- POS_KPn, POS_KIn — offsets n × 0x1000 + 0x010 and + 0x018 (05_rotor_position.md, R123). -/
abbrev A_POS_KP (n : Nat) : Nat := 0x40200010 + n * 0x1000
abbrev POS_KP (n : Nat) : Fld := ⟨0x40200010 + n * 0x1000, 0, 64⟩

/-- POS_KPn, POS_KIn — offsets n × 0x1000 + 0x010 and + 0x018 (05_rotor_position.md, R123). -/
abbrev A_POS_KI (n : Nat) : Nat := 0x40200018 + n * 0x1000
abbrev POS_KI (n : Nat) : Fld := ⟨0x40200018 + n * 0x1000, 0, 64⟩

/-- POS_OFFn — offset n × 0x1000 + 0x020 (05_rotor_position.md, R123). -/
abbrev A_POS_OFF (n : Nat) : Nat := 0x40200020 + n * 0x1000
abbrev POS_OFF_OFFSET (n : Nat) : Fld := ⟨0x40200020 + n * 0x1000, 0, 64⟩

/-- POS_POSn, POS_SPDn, POS_ELECn, POS_TSTn — offsets n × 0x1000 + 0x028, 0x030, 0x038, 0x040 (05_rotor_position.md, R123). -/
abbrev A_POS_POS (n : Nat) : Nat := 0x40200028 + n * 0x1000
abbrev POS_POS (n : Nat) : Fld := ⟨0x40200028 + n * 0x1000, 0, 64⟩

/-- POS_POSn, POS_SPDn, POS_ELECn, POS_TSTn — offsets n × 0x1000 + 0x028, 0x030, 0x038, 0x040 (05_rotor_position.md, R123). -/
abbrev A_POS_SPD (n : Nat) : Nat := 0x40200030 + n * 0x1000
abbrev POS_SPD (n : Nat) : Fld := ⟨0x40200030 + n * 0x1000, 0, 64⟩

/-- POS_POSn, POS_SPDn, POS_ELECn, POS_TSTn — offsets n × 0x1000 + 0x028, 0x030, 0x038, 0x040 (05_rotor_position.md, R123). -/
abbrev A_POS_ELEC (n : Nat) : Nat := 0x40200038 + n * 0x1000
abbrev POS_ELEC (n : Nat) : Fld := ⟨0x40200038 + n * 0x1000, 0, 64⟩

/-- POS_POSn, POS_SPDn, POS_ELECn, POS_TSTn — offsets n × 0x1000 + 0x028, 0x030, 0x038, 0x040 (05_rotor_position.md, R123). -/
abbrev A_POS_TST (n : Nat) : Nat := 0x40200040 + n * 0x1000
abbrev POS_TST (n : Nat) : Fld := ⟨0x40200040 + n * 0x1000, 0, 64⟩

/-- POS_STATn — offset n × 0x1000 + 0x048 (05_rotor_position.md, R123). -/
abbrev A_POS_STAT (n : Nat) : Nat := 0x40200048 + n * 0x1000
abbrev POS_STAT_AMP (n : Nat) : Fld := ⟨0x40200048 + n * 0x1000, 48, 16⟩
abbrev POS_STAT_SRC (n : Nat) : Fld := ⟨0x40200048 + n * 0x1000, 8, 4⟩
abbrev POS_STAT_WARN (n : Nat) : Fld := ⟨0x40200048 + n * 0x1000, 3, 1⟩
abbrev POS_STAT_INDEXED (n : Nat) : Fld := ⟨0x40200048 + n * 0x1000, 2, 1⟩
abbrev POS_STAT_EST_VALID (n : Nat) : Fld := ⟨0x40200048 + n * 0x1000, 1, 1⟩
abbrev POS_STAT_SENSOR_VALID (n : Nat) : Fld := ⟨0x40200048 + n * 0x1000, 0, 1⟩

/-- POS_FLTn — offset n × 0x1000 + 0x050 (05_rotor_position.md, R123). -/
abbrev A_POS_FLT (n : Nat) : Nat := 0x40200050 + n * 0x1000
abbrev POS_FLT_DISAGREE (n : Nat) : Fld := ⟨0x40200050 + n * 0x1000, 12, 1⟩
abbrev POS_FLT_CAUSE (n : Nat) : Fld := ⟨0x40200050 + n * 0x1000, 0, 12⟩

/-- POS_LIMn — offset n × 0x1000 + 0x058 (05_rotor_position.md, R123). -/
abbrev A_POS_LIM (n : Nat) : Nat := 0x40200058 + n * 0x1000
abbrev POS_LIM_LOS_MIN (n : Nat) : Fld := ⟨0x40200058 + n * 0x1000, 48, 16⟩
abbrev POS_LIM_DOS_MAX (n : Nat) : Fld := ⟨0x40200058 + n * 0x1000, 32, 16⟩
abbrev POS_LIM_LOT_MAX (n : Nat) : Fld := ⟨0x40200058 + n * 0x1000, 16, 16⟩
abbrev POS_LIM_SPEED_MAX (n : Nat) : Fld := ⟨0x40200058 + n * 0x1000, 0, 16⟩

/-- POS_SLSn — offset n × 0x1000 + 0x060 (05_rotor_position.md, R123). -/
abbrev A_POS_SLS (n : Nat) : Nat := 0x40200060 + n * 0x1000
abbrev POS_SLS_EST_IDX (n : Nat) : Fld := ⟨0x40200060 + n * 0x1000, 48, 8⟩
abbrev POS_SLS_AGREE_TOL (n : Nat) : Fld := ⟨0x40200060 + n * 0x1000, 32, 16⟩
abbrev POS_SLS_SLS_MIN (n : Nat) : Fld := ⟨0x40200060 + n * 0x1000, 16, 16⟩
abbrev POS_SLS_OPEN_MS (n : Nat) : Fld := ⟨0x40200060 + n * 0x1000, 0, 16⟩

/-- POS_STARTn — offset n × 0x1000 + 0x068 (05_rotor_position.md, R123). -/
abbrev A_POS_START (n : Nat) : Nat := 0x40200068 + n * 0x1000
abbrev POS_START_POL_MIN (n : Nat) : Fld := ⟨0x40200068 + n * 0x1000, 56, 8⟩
abbrev POS_START_SAL_MIN (n : Nat) : Fld := ⟨0x40200068 + n * 0x1000, 48, 8⟩
abbrev POS_START_POL_TP (n : Nat) : Fld := ⟨0x40200068 + n * 0x1000, 40, 8⟩
abbrev POS_START_TP (n : Nat) : Fld := ⟨0x40200068 + n * 0x1000, 32, 8⟩
abbrev POS_START_VP (n : Nat) : Fld := ⟨0x40200068 + n * 0x1000, 24, 8⟩
abbrev POS_START_IP_MAX (n : Nat) : Fld := ⟨0x40200068 + n * 0x1000, 0, 16⟩

/-- POS_STRESn — offset n × 0x1000 + 0x070 (05_rotor_position.md, R123). -/
abbrev A_POS_STRES (n : Nat) : Nat := 0x40200070 + n * 0x1000
abbrev POS_STRES_THETA0 (n : Nat) : Fld := ⟨0x40200070 + n * 0x1000, 32, 32⟩
abbrev POS_STRES_CONTRAST (n : Nat) : Fld := ⟨0x40200070 + n * 0x1000, 20, 12⟩
abbrev POS_STRES_POLDIFF (n : Nat) : Fld := ⟨0x40200070 + n * 0x1000, 8, 12⟩
abbrev POS_STRES_RES (n : Nat) : Fld := ⟨0x40200070 + n * 0x1000, 0, 3⟩

/-- POS_PEAKn_k — offset n × 0x1000 + 0x080 + k × 8, k = 0 to 13 (05_rotor_position.md, R123). -/
abbrev A_POS_PEAK (n k : Nat) : Nat := 0x40200080 + n * 0x1000 + k * 0x8
abbrev POS_PEAK_PEAK (n k : Nat) : Fld := ⟨0x40200080 + n * 0x1000 + k * 0x8, 0, 16⟩

/-- POS_CNTn — offset n × 0x1000 + 0x0F0 (05_rotor_position.md, R123). -/
abbrev A_POS_CNT (n : Nat) : Nat := 0x402000F0 + n * 0x1000
abbrev POS_CNT_BAD_READ (n : Nat) : Fld := ⟨0x402000F0 + n * 0x1000, 48, 16⟩
abbrev POS_CNT_ILLEGAL (n : Nat) : Fld := ⟨0x402000F0 + n * 0x1000, 32, 16⟩
abbrev POS_CNT_DROP_PAIR (n : Nat) : Fld := ⟨0x402000F0 + n * 0x1000, 16, 16⟩
abbrev POS_CNT_RWI_REF (n : Nat) : Fld := ⟨0x402000F0 + n * 0x1000, 0, 16⟩

/-- POS_RSLV — offset 0x8000 (05_rotor_position.md, R123). -/
abbrev A_POS_RSLV : Nat := 0x40208000
abbrev POS_RSLV_PHASE : Fld := ⟨0x40208000, 32, 8⟩
abbrev POS_RSLV_AMP1 : Fld := ⟨0x40208000, 24, 8⟩
abbrev POS_RSLV_AMP0 : Fld := ⟨0x40208000, 16, 8⟩
abbrev POS_RSLV_FEXC : Fld := ⟨0x40208000, 0, 2⟩

/-- POS_RENT — offset 0x8008 (05_rotor_position.md, R123). -/
abbrev A_POS_RENT : Nat := 0x40208008
abbrev POS_RENT_EXC_EN : Fld := ⟨0x40208008, 48, 1⟩
abbrev POS_RENT_EXC1 : Fld := ⟨0x40208008, 40, 6⟩
abbrev POS_RENT_EXC0 : Fld := ⟨0x40208008, 32, 6⟩
abbrev POS_RENT_COS1 : Fld := ⟨0x40208008, 24, 6⟩
abbrev POS_RENT_SIN1 : Fld := ⟨0x40208008, 16, 6⟩
abbrev POS_RENT_COS0 : Fld := ⟨0x40208008, 8, 6⟩
abbrev POS_RENT_SIN0 : Fld := ⟨0x40208008, 0, 6⟩

/-! ## 06_current_loop.md -/

/-- CLU_CTL — offset 0x000 (06_current_loop.md, R146). -/
abbrev A_CLU_CTL (g : Nat) : Nat := 0x40300000 + g * 0x8000
abbrev CLU_CTL_OFFCAP (g : Nat) : Fld := ⟨0x40300000 + g * 0x8000, 7, 1⟩
abbrev CLU_CTL_SIX (g : Nat) : Fld := ⟨0x40300000 + g * 0x8000, 6, 1⟩
abbrev CLU_CTL_DTC_EN (g : Nat) : Fld := ⟨0x40300000 + g * 0x8000, 5, 1⟩
abbrev CLU_CTL_FW_EN (g : Nat) : Fld := ⟨0x40300000 + g * 0x8000, 4, 1⟩
abbrev CLU_CTL_FAILOVER_EN (g : Nat) : Fld := ⟨0x40300000 + g * 0x8000, 3, 1⟩
abbrev CLU_CTL_REC_EN (g : Nat) : Fld := ⟨0x40300000 + g * 0x8000, 2, 1⟩
abbrev CLU_CTL_EN (g : Nat) : Fld := ⟨0x40300000 + g * 0x8000, 0, 1⟩

/-- CLU_STAT — offset 0x008 (06_current_loop.md, R146). -/
abbrev A_CLU_STAT (g : Nat) : Nat := 0x40300008 + g * 0x8000
abbrev CLU_STAT_REFUSE_WHY (g : Nat) : Fld := ⟨0x40300008 + g * 0x8000, 20, 4⟩
abbrev CLU_STAT_FAILED_PHASE (g : Nat) : Fld := ⟨0x40300008 + g * 0x8000, 18, 2⟩
abbrev CLU_STAT_REC_VALID (g : Nat) : Fld := ⟨0x40300008 + g * 0x8000, 17, 1⟩
abbrev CLU_STAT_PRIMARY (g : Nat) : Fld := ⟨0x40300008 + g * 0x8000, 16, 1⟩
abbrev CLU_STAT_SECTOR (g : Nat) : Fld := ⟨0x40300008 + g * 0x8000, 12, 4⟩
abbrev CLU_STAT_VLIM (g : Nat) : Fld := ⟨0x40300008 + g * 0x8000, 11, 1⟩
abbrev CLU_STAT_FW_ACT (g : Nat) : Fld := ⟨0x40300008 + g * 0x8000, 10, 1⟩
abbrev CLU_STAT_STATE (g : Nat) : Fld := ⟨0x40300008 + g * 0x8000, 0, 3⟩

/-- CLU_WIN — offset 0x010 (06_current_loop.md, R146). -/
abbrev A_CLU_WIN (g : Nat) : Nat := 0x40300010 + g * 0x8000
abbrev CLU_WIN_SUM_TOL (g : Nat) : Fld := ⟨0x40300010 + g * 0x8000, 48, 16⟩
abbrev CLU_WIN_WMIN_PCT (g : Nat) : Fld := ⟨0x40300010 + g * 0x8000, 32, 8⟩
abbrev CLU_WIN_WFRAC (g : Nat) : Fld := ⟨0x40300010 + g * 0x8000, 0, 9⟩

/-- CLU_SGAINk — offset 0x018 + k × 8, k = 0 to 4 (06_current_loop.md, R146). -/
abbrev A_CLU_SGAIN (g k : Nat) : Nat := 0x40300018 + g * 0x8000 + k * 0x8
abbrev CLU_SGAIN_GAIN (g k : Nat) : Fld := ⟨0x40300018 + g * 0x8000 + k * 0x8, 0, 64⟩

/-- CLU_SOFFk — offset 0x040 + k × 8, k = 0 to 4 (06_current_loop.md, R146). -/
abbrev A_CLU_SOFF (g k : Nat) : Nat := 0x40300040 + g * 0x8000 + k * 0x8
abbrev CLU_SOFF_OFF_MAX (g k : Nat) : Fld := ⟨0x40300040 + g * 0x8000 + k * 0x8, 32, 16⟩
abbrev CLU_SOFF_OFFSET (g k : Nat) : Fld := ⟨0x40300040 + g * 0x8000 + k * 0x8, 0, 32⟩

/-- CLU_KPD, CLU_KID, CLU_KPQ, CLU_KIQ, CLU_KPR, CLU_KIR — offsets 0x068, 0x070, 0x078, 0x080, 0x088, 0x090 (06_current_loop.md, R146). -/
abbrev A_CLU_KPD (g : Nat) : Nat := 0x40300068 + g * 0x8000
abbrev CLU_KPD (g : Nat) : Fld := ⟨0x40300068 + g * 0x8000, 0, 64⟩

/-- CLU_KPD, CLU_KID, CLU_KPQ, CLU_KIQ, CLU_KPR, CLU_KIR — offsets 0x068, 0x070, 0x078, 0x080, 0x088, 0x090 (06_current_loop.md, R146). -/
abbrev A_CLU_KID (g : Nat) : Nat := 0x40300070 + g * 0x8000
abbrev CLU_KID (g : Nat) : Fld := ⟨0x40300070 + g * 0x8000, 0, 64⟩

/-- CLU_KPD, CLU_KID, CLU_KPQ, CLU_KIQ, CLU_KPR, CLU_KIR — offsets 0x068, 0x070, 0x078, 0x080, 0x088, 0x090 (06_current_loop.md, R146). -/
abbrev A_CLU_KPQ (g : Nat) : Nat := 0x40300078 + g * 0x8000
abbrev CLU_KPQ (g : Nat) : Fld := ⟨0x40300078 + g * 0x8000, 0, 64⟩

/-- CLU_KPD, CLU_KID, CLU_KPQ, CLU_KIQ, CLU_KPR, CLU_KIR — offsets 0x068, 0x070, 0x078, 0x080, 0x088, 0x090 (06_current_loop.md, R146). -/
abbrev A_CLU_KIQ (g : Nat) : Nat := 0x40300080 + g * 0x8000
abbrev CLU_KIQ (g : Nat) : Fld := ⟨0x40300080 + g * 0x8000, 0, 64⟩

/-- CLU_KPD, CLU_KID, CLU_KPQ, CLU_KIQ, CLU_KPR, CLU_KIR — offsets 0x068, 0x070, 0x078, 0x080, 0x088, 0x090 (06_current_loop.md, R146). -/
abbrev A_CLU_KPR (g : Nat) : Nat := 0x40300088 + g * 0x8000
abbrev CLU_KPR (g : Nat) : Fld := ⟨0x40300088 + g * 0x8000, 0, 64⟩

/-- CLU_KPD, CLU_KID, CLU_KPQ, CLU_KIQ, CLU_KPR, CLU_KIR — offsets 0x068, 0x070, 0x078, 0x080, 0x088, 0x090 (06_current_loop.md, R146). -/
abbrev A_CLU_KIR (g : Nat) : Nat := 0x40300090 + g * 0x8000
abbrev CLU_KIR (g : Nat) : Fld := ⟨0x40300090 + g * 0x8000, 0, 64⟩

/-- CLU_LD, CLU_LQ, CLU_PSI, CLU_MUT, CLU_KFW, CLU_IDFWMIN — offsets 0x098, 0x0A0, 0x0A8, 0x0B0, 0x0B8, 0x0C0 (06_current_loop.md, R146). -/
abbrev A_CLU_LD (g : Nat) : Nat := 0x40300098 + g * 0x8000
abbrev CLU_LD (g : Nat) : Fld := ⟨0x40300098 + g * 0x8000, 0, 64⟩

/-- CLU_LD, CLU_LQ, CLU_PSI, CLU_MUT, CLU_KFW, CLU_IDFWMIN — offsets 0x098, 0x0A0, 0x0A8, 0x0B0, 0x0B8, 0x0C0 (06_current_loop.md, R146). -/
abbrev A_CLU_LQ (g : Nat) : Nat := 0x403000A0 + g * 0x8000
abbrev CLU_LQ (g : Nat) : Fld := ⟨0x403000A0 + g * 0x8000, 0, 64⟩

/-- CLU_LD, CLU_LQ, CLU_PSI, CLU_MUT, CLU_KFW, CLU_IDFWMIN — offsets 0x098, 0x0A0, 0x0A8, 0x0B0, 0x0B8, 0x0C0 (06_current_loop.md, R146). -/
abbrev A_CLU_PSI (g : Nat) : Nat := 0x403000A8 + g * 0x8000
abbrev CLU_PSI (g : Nat) : Fld := ⟨0x403000A8 + g * 0x8000, 0, 64⟩

/-- CLU_LD, CLU_LQ, CLU_PSI, CLU_MUT, CLU_KFW, CLU_IDFWMIN — offsets 0x098, 0x0A0, 0x0A8, 0x0B0, 0x0B8, 0x0C0 (06_current_loop.md, R146). -/
abbrev A_CLU_MUT (g : Nat) : Nat := 0x403000B0 + g * 0x8000
abbrev CLU_MUT (g : Nat) : Fld := ⟨0x403000B0 + g * 0x8000, 0, 64⟩

/-- CLU_LD, CLU_LQ, CLU_PSI, CLU_MUT, CLU_KFW, CLU_IDFWMIN — offsets 0x098, 0x0A0, 0x0A8, 0x0B0, 0x0B8, 0x0C0 (06_current_loop.md, R146). -/
abbrev A_CLU_KFW (g : Nat) : Nat := 0x403000B8 + g * 0x8000
abbrev CLU_KFW (g : Nat) : Fld := ⟨0x403000B8 + g * 0x8000, 0, 64⟩

/-- CLU_LD, CLU_LQ, CLU_PSI, CLU_MUT, CLU_KFW, CLU_IDFWMIN — offsets 0x098, 0x0A0, 0x0A8, 0x0B0, 0x0B8, 0x0C0 (06_current_loop.md, R146). -/
abbrev A_CLU_IDFWMIN (g : Nat) : Nat := 0x403000C0 + g * 0x8000
abbrev CLU_IDFWMIN (g : Nat) : Fld := ⟨0x403000C0 + g * 0x8000, 0, 64⟩

/-- CLU_VLIM — offset 0x0C8 (06_current_loop.md, R146). -/
abbrev A_CLU_VLIM (g : Nat) : Nat := 0x403000C8 + g * 0x8000
abbrev CLU_VLIM_FW_THR (g : Nat) : Fld := ⟨0x403000C8 + g * 0x8000, 16, 16⟩
abbrev CLU_VLIM_KV (g : Nat) : Fld := ⟨0x403000C8 + g * 0x8000, 0, 16⟩

/-- CLU_DTC — offset 0x0D0 (06_current_loop.md, R146). -/
abbrev A_CLU_DTC (g : Nat) : Nat := 0x403000D0 + g * 0x8000
abbrev CLU_DTC_BAND (g : Nat) : Fld := ⟨0x403000D0 + g * 0x8000, 32, 16⟩
abbrev CLU_DTC_DTC_NS (g : Nat) : Fld := ⟨0x403000D0 + g * 0x8000, 0, 16⟩

/-- CLU_REC — offset 0x0D8 (06_current_loop.md, R146). -/
abbrev A_CLU_REC (g : Nat) : Nat := 0x403000D8 + g * 0x8000
abbrev CLU_REC_DIS_CNT (g : Nat) : Fld := ⟨0x403000D8 + g * 0x8000, 56, 8⟩
abbrev CLU_REC_TOL_PCT (g : Nat) : Fld := ⟨0x403000D8 + g * 0x8000, 48, 8⟩
abbrev CLU_REC_TOL_A (g : Nat) : Fld := ⟨0x403000D8 + g * 0x8000, 32, 16⟩
abbrev CLU_REC_N_R (g : Nat) : Fld := ⟨0x403000D8 + g * 0x8000, 16, 4⟩
abbrev CLU_REC_IDC_SETTLE (g : Nat) : Fld := ⟨0x403000D8 + g * 0x8000, 0, 16⟩

/-- CLU_IDREF, CLU_IQREF, CLU_ID, CLU_IQ, CLU_VD, CLU_VQ, CLU_IDFW, CLU_UDC — offsets 0x0E0 to 0x118 in steps of 8 (06_current_loop.md, R146). -/
abbrev A_CLU_IDREF (g : Nat) : Nat := 0x403000E0 + g * 0x8000
abbrev CLU_IDREF (g : Nat) : Fld := ⟨0x403000E0 + g * 0x8000, 0, 64⟩

/-- CLU_IDREF, CLU_IQREF, CLU_ID, CLU_IQ, CLU_VD, CLU_VQ, CLU_IDFW, CLU_UDC — offsets 0x0E0 to 0x118 in steps of 8 (06_current_loop.md, R146). -/
abbrev A_CLU_IQREF (g : Nat) : Nat := 0x403000E8 + g * 0x8000
abbrev CLU_IQREF (g : Nat) : Fld := ⟨0x403000E8 + g * 0x8000, 0, 64⟩

/-- CLU_IDREF, CLU_IQREF, CLU_ID, CLU_IQ, CLU_VD, CLU_VQ, CLU_IDFW, CLU_UDC — offsets 0x0E0 to 0x118 in steps of 8 (06_current_loop.md, R146). -/
abbrev A_CLU_ID (g : Nat) : Nat := 0x403000F0 + g * 0x8000
abbrev CLU_ID (g : Nat) : Fld := ⟨0x403000F0 + g * 0x8000, 0, 64⟩

/-- CLU_IDREF, CLU_IQREF, CLU_ID, CLU_IQ, CLU_VD, CLU_VQ, CLU_IDFW, CLU_UDC — offsets 0x0E0 to 0x118 in steps of 8 (06_current_loop.md, R146). -/
abbrev A_CLU_IQ (g : Nat) : Nat := 0x403000F8 + g * 0x8000
abbrev CLU_IQ (g : Nat) : Fld := ⟨0x403000F8 + g * 0x8000, 0, 64⟩

/-- CLU_IDREF, CLU_IQREF, CLU_ID, CLU_IQ, CLU_VD, CLU_VQ, CLU_IDFW, CLU_UDC — offsets 0x0E0 to 0x118 in steps of 8 (06_current_loop.md, R146). -/
abbrev A_CLU_VD (g : Nat) : Nat := 0x40300100 + g * 0x8000
abbrev CLU_VD (g : Nat) : Fld := ⟨0x40300100 + g * 0x8000, 0, 64⟩

/-- CLU_IDREF, CLU_IQREF, CLU_ID, CLU_IQ, CLU_VD, CLU_VQ, CLU_IDFW, CLU_UDC — offsets 0x0E0 to 0x118 in steps of 8 (06_current_loop.md, R146). -/
abbrev A_CLU_VQ (g : Nat) : Nat := 0x40300108 + g * 0x8000
abbrev CLU_VQ (g : Nat) : Fld := ⟨0x40300108 + g * 0x8000, 0, 64⟩

/-- CLU_IDREF, CLU_IQREF, CLU_ID, CLU_IQ, CLU_VD, CLU_VQ, CLU_IDFW, CLU_UDC — offsets 0x0E0 to 0x118 in steps of 8 (06_current_loop.md, R146). -/
abbrev A_CLU_IDFW (g : Nat) : Nat := 0x40300110 + g * 0x8000
abbrev CLU_IDFW (g : Nat) : Fld := ⟨0x40300110 + g * 0x8000, 0, 64⟩

/-- CLU_IDREF, CLU_IQREF, CLU_ID, CLU_IQ, CLU_VD, CLU_VQ, CLU_IDFW, CLU_UDC — offsets 0x0E0 to 0x118 in steps of 8 (06_current_loop.md, R146). -/
abbrev A_CLU_UDC (g : Nat) : Nat := 0x40300118 + g * 0x8000
abbrev CLU_UDC (g : Nat) : Fld := ⟨0x40300118 + g * 0x8000, 0, 64⟩

/-- CLU_IPHk, CLU_IRECk — offsets 0x120 + k × 8 and 0x138 + k × 8, k = 0 to 2 for U, V, W (06_current_loop.md, R146). -/
abbrev A_CLU_IPH (g k : Nat) : Nat := 0x40300120 + g * 0x8000 + k * 0x8
abbrev CLU_IPH (g k : Nat) : Fld := ⟨0x40300120 + g * 0x8000 + k * 0x8, 0, 64⟩

/-- CLU_IPHk, CLU_IRECk — offsets 0x120 + k × 8 and 0x138 + k × 8, k = 0 to 2 for U, V, W (06_current_loop.md, R146). -/
abbrev A_CLU_IREC (g k : Nat) : Nat := 0x40300138 + g * 0x8000 + k * 0x8
abbrev CLU_IREC (g k : Nat) : Fld := ⟨0x40300138 + g * 0x8000 + k * 0x8, 0, 64⟩

/-- CLU_CNT — offset 0x150 (06_current_loop.md, R146). -/
abbrev A_CLU_CNT (g : Nat) : Nat := 0x40300150 + g * 0x8000
abbrev CLU_CNT_SHORT_WIN (g : Nat) : Fld := ⟨0x40300150 + g * 0x8000, 48, 16⟩
abbrev CLU_CNT_REC_MISS (g : Nat) : Fld := ⟨0x40300150 + g * 0x8000, 32, 16⟩
abbrev CLU_CNT_SAT (g : Nat) : Fld := ⟨0x40300150 + g * 0x8000, 16, 16⟩
abbrev CLU_CNT_RWI_REF (g : Nat) : Fld := ⟨0x40300150 + g * 0x8000, 0, 16⟩

/-- CLU_CNT2 — offset 0x158 (06_current_loop.md, R146). -/
abbrev A_CLU_CNT2 (g : Nat) : Nat := 0x40300158 + g * 0x8000
abbrev CLU_CNT2_REC_REJECT (g : Nat) : Fld := ⟨0x40300158 + g * 0x8000, 48, 16⟩
abbrev CLU_CNT2_SHIFTS (g : Nat) : Fld := ⟨0x40300158 + g * 0x8000, 32, 16⟩
abbrev CLU_CNT2_EN_REF (g : Nat) : Fld := ⟨0x40300158 + g * 0x8000, 16, 16⟩

/-- CLU_FLT — offset 0x160 (06_current_loop.md, R146). -/
abbrev A_CLU_FLT (g : Nat) : Nat := 0x40300160 + g * 0x8000
abbrev CLU_FLT_UDC_STALE (g : Nat) : Fld := ⟨0x40300160 + g * 0x8000, 7, 1⟩
abbrev CLU_FLT_CHECK (g : Nat) : Fld := ⟨0x40300160 + g * 0x8000, 6, 1⟩
abbrev CLU_FLT_STARVED (g : Nat) : Fld := ⟨0x40300160 + g * 0x8000, 5, 1⟩
abbrev CLU_FLT_FAILOVER (g : Nat) : Fld := ⟨0x40300160 + g * 0x8000, 4, 1⟩
abbrev CLU_FLT_DISAGREE (g : Nat) : Fld := ⟨0x40300160 + g * 0x8000, 3, 1⟩
abbrev CLU_FLT_SUM (g : Nat) : Fld := ⟨0x40300160 + g * 0x8000, 2, 1⟩
abbrev CLU_FLT_SHORT_WIN (g : Nat) : Fld := ⟨0x40300160 + g * 0x8000, 1, 1⟩
abbrev CLU_FLT_OFFSET (g : Nat) : Fld := ⟨0x40300160 + g * 0x8000, 0, 1⟩

/-! ## 07_pwm_carrier.md -/

/-- PWM_CTLc — offset c × 0x1000 + 0x000 (07_pwm_carrier.md, R167). -/
abbrev A_PWM_CTL (c : Nat) : Nat := 0x40400000 + c * 0x1000
abbrev PWM_CTL_TRIGSEL (c : Nat) : Fld := ⟨0x40400000 + c * 0x1000, 14, 2⟩
abbrev PWM_CTL_MARK_EVT (c : Nat) : Fld := ⟨0x40400000 + c * 0x1000, 12, 2⟩
abbrev PWM_CTL_INV (c : Nat) : Fld := ⟨0x40400000 + c * 0x1000, 8, 1⟩
abbrev PWM_CTL_RUN (c : Nat) : Fld := ⟨0x40400000 + c * 0x1000, 4, 1⟩

/-- PWM_STATc — offset c × 0x1000 + 0x008 (07_pwm_carrier.md, R167). -/
abbrev A_PWM_STAT (c : Nat) : Nat := 0x40400008 + c * 0x1000
abbrev PWM_STAT_COUNT (c : Nat) : Fld := ⟨0x40400008 + c * 0x1000, 24, 24⟩
abbrev PWM_STAT_DIR (c : Nat) : Fld := ⟨0x40400008 + c * 0x1000, 5, 1⟩
abbrev PWM_STAT_OUT_EN (c : Nat) : Fld := ⟨0x40400008 + c * 0x1000, 4, 1⟩
abbrev PWM_STAT_FROZEN (c : Nat) : Fld := ⟨0x40400008 + c * 0x1000, 3, 1⟩
abbrev PWM_STAT_MODE (c : Nat) : Fld := ⟨0x40400008 + c * 0x1000, 0, 3⟩

/-- PWM_HALFc — offset c × 0x1000 + 0x010 (07_pwm_carrier.md, R167). -/
abbrev A_PWM_HALF (c : Nat) : Nat := 0x40400010 + c * 0x1000
abbrev PWM_HALF_PHASE (c : Nat) : Fld := ⟨0x40400010 + c * 0x1000, 32, 24⟩
abbrev PWM_HALF_HALF (c : Nat) : Fld := ⟨0x40400010 + c * 0x1000, 0, 24⟩

/-- PWM_DTc — offset c × 0x1000 + 0x018 (07_pwm_carrier.md, R167). -/
abbrev A_PWM_DT (c : Nat) : Nat := 0x40400018 + c * 0x1000
abbrev PWM_DT_MINP (c : Nat) : Fld := ⟨0x40400018 + c * 0x1000, 32, 16⟩
abbrev PWM_DT_DT_LH (c : Nat) : Fld := ⟨0x40400018 + c * 0x1000, 16, 16⟩
abbrev PWM_DT_DT_HL (c : Nat) : Fld := ⟨0x40400018 + c * 0x1000, 0, 16⟩

/-- PWM_BLANKc — offset c × 0x1000 + 0x020 (07_pwm_carrier.md, R167). -/
abbrev A_PWM_BLANK (c : Nat) : Nat := 0x40400020 + c * 0x1000
abbrev PWM_BLANK_BLANK_NS (c : Nat) : Fld := ⟨0x40400020 + c * 0x1000, 0, 10⟩

/-- PWM_TONc — offset c × 0x1000 + 0x028 (07_pwm_carrier.md, R167). -/
abbrev A_PWM_TON (c : Nat) : Nat := 0x40400028 + c * 0x1000
abbrev PWM_TON_TOFF (c : Nat) : Fld := ⟨0x40400028 + c * 0x1000, 32, 24⟩
abbrev PWM_TON_TON (c : Nat) : Fld := ⟨0x40400028 + c * 0x1000, 0, 24⟩

/-- PWM_COFFc — offset c × 0x1000 + 0x030 (07_pwm_carrier.md, R167). -/
abbrev A_PWM_COFF (c : Nat) : Nat := 0x40400030 + c * 0x1000
abbrev PWM_COFF_PAT (c : Nat) : Fld := ⟨0x40400030 + c * 0x1000, 16, 6⟩
abbrev PWM_COFF_ILIM (c : Nat) : Fld := ⟨0x40400030 + c * 0x1000, 0, 16⟩

/-- PWM_CMPc_k — offset c × 0x1000 + 0x040 + k × 8, k = 0 to 2 for U, V, W (07_pwm_carrier.md, R167). -/
abbrev A_PWM_CMP (c k : Nat) : Nat := 0x40400040 + c * 0x1000 + k * 0x8
abbrev PWM_CMP_RISE (c k : Nat) : Fld := ⟨0x40400040 + c * 0x1000 + k * 0x8, 32, 24⟩
abbrev PWM_CMP_FALL (c k : Nat) : Fld := ⟨0x40400040 + c * 0x1000 + k * 0x8, 0, 24⟩

/-- PWM_FLTc — offset c × 0x1000 + 0x058 (07_pwm_carrier.md, R167). -/
abbrev A_PWM_FLT (c : Nat) : Nat := 0x40400058 + c * 0x1000
abbrev PWM_FLT_ONTIME (c : Nat) : Fld := ⟨0x40400058 + c * 0x1000, 0, 6⟩

/-- PWM_CNTc — offset c × 0x1000 + 0x060 (07_pwm_carrier.md, R167). -/
abbrev A_PWM_CNT (c : Nat) : Nat := 0x40400060 + c * 0x1000
abbrev PWM_CNT_MINP (c : Nat) : Fld := ⟨0x40400060 + c * 0x1000, 48, 16⟩
abbrev PWM_CNT_LATE_LOAD (c : Nat) : Fld := ⟨0x40400060 + c * 0x1000, 32, 16⟩
abbrev PWM_CNT_ONTIME (c : Nat) : Fld := ⟨0x40400060 + c * 0x1000, 16, 16⟩
abbrev PWM_CNT_TRIP (c : Nat) : Fld := ⟨0x40400060 + c * 0x1000, 0, 16⟩

/-- PWM_CNT2c — offset c × 0x1000 + 0x068 (07_pwm_carrier.md, R167). -/
abbrev A_PWM_CNT2 (c : Nat) : Nat := 0x40400068 + c * 0x1000
abbrev PWM_CNT2_DT_CLAMP (c : Nat) : Fld := ⟨0x40400068 + c * 0x1000, 48, 16⟩
abbrev PWM_CNT2_FREQ_CLAMP (c : Nat) : Fld := ⟨0x40400068 + c * 0x1000, 32, 16⟩
abbrev PWM_CNT2_RWI_REF (c : Nat) : Fld := ⟨0x40400068 + c * 0x1000, 16, 16⟩

/-- PWM_HEMLIM — offset 0x8000 (07_pwm_carrier.md, R167). -/
abbrev A_PWM_HEMLIM : Nat := 0x40408000
abbrev PWM_HEMLIM_HALF_MIN : Fld := ⟨0x40408000, 40, 24⟩
abbrev PWM_HEMLIM_DT_MIN : Fld := ⟨0x40408000, 24, 16⟩
abbrev PWM_HEMLIM_ONTMAX_US : Fld := ⟨0x40408000, 0, 24⟩

/-- PWM_FRZ — offset 0x8008 (07_pwm_carrier.md, R167). -/
abbrev A_PWM_FRZ : Nat := 0x40408008
abbrev PWM_FRZ_FREEZES : Fld := ⟨0x40408008, 48, 16⟩
abbrev PWM_FRZ_PERMIT : Fld := ⟨0x40408008, 2, 1⟩
abbrev PWM_FRZ_FROZEN : Fld := ⟨0x40408008, 1, 1⟩
abbrev PWM_FRZ_FRZ_EN : Fld := ⟨0x40408008, 0, 1⟩

/-! ## 08_gate_channels.md -/

/-- GCH_CFGn — offset n × 0x1000 + 0x000 (08_gate_channels.md, R198). -/
abbrev A_GCH_CFG (n : Nat) : Nat := 0x40500000 + n * 0x1000
abbrev GCH_CFG_TGT_OFF (n : Nat) : Fld := ⟨0x40500000 + n * 0x1000, 56, 8⟩
abbrev GCH_CFG_TGT_ON (n : Nat) : Fld := ⟨0x40500000 + n * 0x1000, 48, 8⟩
abbrev GCH_CFG_BAND (n : Nat) : Fld := ⟨0x40500000 + n * 0x1000, 40, 8⟩
abbrev GCH_CFG_LEARN_BINS (n : Nat) : Fld := ⟨0x40500000 + n * 0x1000, 32, 8⟩
abbrev GCH_CFG_SEG_MAX (n : Nat) : Fld := ⟨0x40500000 + n * 0x1000, 24, 5⟩
abbrev GCH_CFG_SEG_MIN (n : Nat) : Fld := ⟨0x40500000 + n * 0x1000, 16, 5⟩
abbrev GCH_CFG_SOFT_SEG (n : Nat) : Fld := ⟨0x40500000 + n * 0x1000, 8, 4⟩
abbrev GCH_CFG_LEARN (n : Nat) : Fld := ⟨0x40500000 + n * 0x1000, 3, 1⟩
abbrev GCH_CFG_ROLE (n : Nat) : Fld := ⟨0x40500000 + n * 0x1000, 0, 2⟩

/-- GCH_SNSn — offset n × 0x1000 + 0x008 (08_gate_channels.md, R198). -/
abbrev A_GCH_SNS (n : Nat) : Nat := 0x40500008 + n * 0x1000
abbrev GCH_SNS_SNS_SCALE (n : Nat) : Fld := ⟨0x40500008 + n * 0x1000, 48, 16⟩
abbrev GCH_SNS_SC_TH (n : Nat) : Fld := ⟨0x40500008 + n * 0x1000, 32, 10⟩
abbrev GCH_SNS_OC_TH (n : Nat) : Fld := ⟨0x40500008 + n * 0x1000, 16, 10⟩
abbrev GCH_SNS_SOFT_NS (n : Nat) : Fld := ⟨0x40500008 + n * 0x1000, 0, 11⟩

/-- GCH_BINn — offset n × 0x1000 + 0x010 (08_gate_channels.md, R198). -/
abbrev A_GCH_BIN (n : Nat) : Nat := 0x40500010 + n * 0x1000
abbrev GCH_BIN_B (n : Nat) : Fld := ⟨0x40500010 + n * 0x1000, 0, 56⟩

/-- GCH_DSn — offset n × 0x1000 + 0x018 (08_gate_channels.md, R198). -/
abbrev A_GCH_DS (n : Nat) : Nat := 0x40500018 + n * 0x1000
abbrev GCH_DS_VDS_MIN (n : Nat) : Fld := ⟨0x40500018 + n * 0x1000, 48, 16⟩
abbrev GCH_DS_VDS_TH (n : Nat) : Fld := ⟨0x40500018 + n * 0x1000, 32, 8⟩
abbrev GCH_DS_DS_BLANK (n : Nat) : Fld := ⟨0x40500018 + n * 0x1000, 16, 11⟩
abbrev GCH_DS_NTC_INV (n : Nat) : Fld := ⟨0x40500018 + n * 0x1000, 0, 16⟩

/-- GCH_SUPn — offset n × 0x1000 + 0x020 (08_gate_channels.md, R198). -/
abbrev A_GCH_SUP (n : Nat) : Nat := 0x40500020 + n * 0x1000
abbrev GCH_SUP_VPOS_UV (n : Nat) : Fld := ⟨0x40500020 + n * 0x1000, 56, 8⟩
abbrev GCH_SUP_VPOS_OV (n : Nat) : Fld := ⟨0x40500020 + n * 0x1000, 48, 8⟩
abbrev GCH_SUP_VNEG_LO (n : Nat) : Fld := ⟨0x40500020 + n * 0x1000, 40, 8⟩
abbrev GCH_SUP_VNEG_HI (n : Nat) : Fld := ⟨0x40500020 + n * 0x1000, 32, 8⟩
abbrev GCH_SUP_MIS_NS (n : Nat) : Fld := ⟨0x40500020 + n * 0x1000, 16, 13⟩
abbrev GCH_SUP_NTC_TRIP (n : Nat) : Fld := ⟨0x40500020 + n * 0x1000, 8, 8⟩

/-- GCH_SEGONn, GCH_SEGOFFn — offsets n × 0x1000 + 0x028 and + 0x030 (08_gate_channels.md, R198). -/
abbrev A_GCH_SEGON (n : Nat) : Nat := 0x40500028 + n * 0x1000
abbrev GCH_SEGON_SEG (n i : Nat) : Fld := ⟨0x40500028 + n * 0x1000, 8 * i + 0, 5⟩

/-- GCH_SEGONn, GCH_SEGOFFn — offsets n × 0x1000 + 0x028 and + 0x030 (08_gate_channels.md, R198). -/
abbrev A_GCH_SEGOFF (n : Nat) : Nat := 0x40500030 + n * 0x1000
abbrev GCH_SEGOFF_SEG (n i : Nat) : Fld := ⟨0x40500030 + n * 0x1000, 8 * i + 0, 5⟩

/-- GCH_STATn — offset n × 0x1000 + 0x038 (08_gate_channels.md, R198). -/
abbrev A_GCH_STAT (n : Nat) : Nat := 0x40500038 + n * 0x1000
abbrev GCH_STAT_TS_ON (n : Nat) : Fld := ⟨0x40500038 + n * 0x1000, 48, 16⟩
abbrev GCH_STAT_TS_OFF (n : Nat) : Fld := ⟨0x40500038 + n * 0x1000, 32, 16⟩
abbrev GCH_STAT_VPOS (n : Nat) : Fld := ⟨0x40500038 + n * 0x1000, 24, 8⟩
abbrev GCH_STAT_VNEG (n : Nat) : Fld := ⟨0x40500038 + n * 0x1000, 16, 8⟩
abbrev GCH_STAT_NTC (n : Nat) : Fld := ⟨0x40500038 + n * 0x1000, 8, 8⟩
abbrev GCH_STAT_SUSPECT (n : Nat) : Fld := ⟨0x40500038 + n * 0x1000, 5, 1⟩
abbrev GCH_STAT_GATE (n : Nat) : Fld := ⟨0x40500038 + n * 0x1000, 4, 1⟩
abbrev GCH_STAT_STATE (n : Nat) : Fld := ⟨0x40500038 + n * 0x1000, 0, 3⟩

/-- GCH_MEASn — offset n × 0x1000 + 0x040 (08_gate_channels.md, R198). -/
abbrev A_GCH_MEAS (n : Nat) : Nat := 0x40500040 + n * 0x1000
abbrev GCH_MEAS_VDS_OFF (n : Nat) : Fld := ⟨0x40500040 + n * 0x1000, 48, 16⟩
abbrev GCH_MEAS_SNS_ON (n : Nat) : Fld := ⟨0x40500040 + n * 0x1000, 32, 10⟩
abbrev GCH_MEAS_SNS_OFF (n : Nat) : Fld := ⟨0x40500040 + n * 0x1000, 16, 10⟩
abbrev GCH_MEAS_BIN_ON (n : Nat) : Fld := ⟨0x40500040 + n * 0x1000, 8, 3⟩
abbrev GCH_MEAS_BIN_OFF (n : Nat) : Fld := ⟨0x40500040 + n * 0x1000, 0, 3⟩

/-- GCH_FLTn — offset n × 0x1000 + 0x048 (08_gate_channels.md, R198). -/
abbrev A_GCH_FLT (n : Nat) : Nat := 0x40500048 + n * 0x1000
abbrev GCH_FLT_CAUSE (n : Nat) : Fld := ⟨0x40500048 + n * 0x1000, 16, 11⟩
abbrev GCH_FLT_NTC (n : Nat) : Fld := ⟨0x40500048 + n * 0x1000, 10, 1⟩
abbrev GCH_FLT_LINK (n : Nat) : Fld := ⟨0x40500048 + n * 0x1000, 9, 1⟩
abbrev GCH_FLT_ONT_HV (n : Nat) : Fld := ⟨0x40500048 + n * 0x1000, 8, 1⟩
abbrev GCH_FLT_MIS_LOW (n : Nat) : Fld := ⟨0x40500048 + n * 0x1000, 7, 1⟩
abbrev GCH_FLT_MIS_HIGH (n : Nat) : Fld := ⟨0x40500048 + n * 0x1000, 6, 1⟩
abbrev GCH_FLT_VNEG (n : Nat) : Fld := ⟨0x40500048 + n * 0x1000, 5, 1⟩
abbrev GCH_FLT_VPOS_OV (n : Nat) : Fld := ⟨0x40500048 + n * 0x1000, 4, 1⟩
abbrev GCH_FLT_VPOS_UV (n : Nat) : Fld := ⟨0x40500048 + n * 0x1000, 3, 1⟩
abbrev GCH_FLT_DESAT (n : Nat) : Fld := ⟨0x40500048 + n * 0x1000, 2, 1⟩
abbrev GCH_FLT_OC (n : Nat) : Fld := ⟨0x40500048 + n * 0x1000, 1, 1⟩
abbrev GCH_FLT_SC (n : Nat) : Fld := ⟨0x40500048 + n * 0x1000, 0, 1⟩

/-- GCH_FSTAMPn — offset n × 0x1000 + 0x050 (08_gate_channels.md, R198). -/
abbrev A_GCH_FSTAMP (n : Nat) : Nat := 0x40500050 + n * 0x1000
abbrev GCH_FSTAMP_STAMP (n : Nat) : Fld := ⟨0x40500050 + n * 0x1000, 0, 64⟩

/-- GCH_CNTn — offset n × 0x1000 + 0x058 (08_gate_channels.md, R198). -/
abbrev A_GCH_CNT (n : Nat) : Nat := 0x40500058 + n * 0x1000
abbrev GCH_CNT_LEARN_STEP (n : Nat) : Fld := ⟨0x40500058 + n * 0x1000, 48, 16⟩
abbrev GCH_CNT_LEARN_SKIP (n : Nat) : Fld := ⟨0x40500058 + n * 0x1000, 32, 16⟩
abbrev GCH_CNT_MEAS_MISS (n : Nat) : Fld := ⟨0x40500058 + n * 0x1000, 16, 16⟩
abbrev GCH_CNT_RWI_REF (n : Nat) : Fld := ⟨0x40500058 + n * 0x1000, 0, 16⟩

/-- GCH_DIS — offset 13 × 0x1000 + 0x060 (08_gate_channels.md, R198). -/
abbrev A_GCH_DIS : Nat := 0x4050D060
abbrev GCH_DIS_RUNS : Fld := ⟨0x4050D060, 48, 16⟩
abbrev GCH_DIS_LAST_END : Fld := ⟨0x4050D060, 32, 2⟩
abbrev GCH_DIS_DIS_TMAX : Fld := ⟨0x4050D060, 8, 8⟩
abbrev GCH_DIS_AUTO_ARMED : Fld := ⟨0x4050D060, 1, 1⟩
abbrev GCH_DIS_DIS_DONE : Fld := ⟨0x4050D060, 0, 1⟩

/-- GCH_COM — offset 0xE000 (08_gate_channels.md, R198). -/
abbrev A_GCH_COM : Nat := 0x4050E000
abbrev GCH_COM_ASC_SIDE : Fld := ⟨0x4050E000, 1, 1⟩
abbrev GCH_COM_PAIR : Fld := ⟨0x4050E000, 0, 1⟩

/-- GCH_ASC — offset 0xE008 (08_gate_channels.md, R198). -/
abbrev A_GCH_ASC : Nat := 0x4050E008
abbrev GCH_ASC_MODE1 : Fld := ⟨0x4050E008, 56, 2⟩
abbrev GCH_ASC_SEL1 : Fld := ⟨0x4050E008, 55, 1⟩
abbrev GCH_ASC_NOON1 : Fld := ⟨0x4050E008, 48, 6⟩
abbrev GCH_ASC_SUSP1 : Fld := ⟨0x4050E008, 32, 6⟩
abbrev GCH_ASC_MODE0 : Fld := ⟨0x4050E008, 24, 2⟩
abbrev GCH_ASC_SEL0 : Fld := ⟨0x4050E008, 23, 1⟩
abbrev GCH_ASC_NOON0 : Fld := ⟨0x4050E008, 16, 6⟩
abbrev GCH_ASC_SUSP0 : Fld := ⟨0x4050E008, 0, 6⟩

/-- GCH_GEN — offset 0xE010 (08_gate_channels.md, R198). -/
abbrev A_GCH_GEN : Nat := 0x4050E010
abbrev GCH_GEN_IGNORED : Fld := ⟨0x4050E010, 48, 16⟩
abbrev GCH_GEN_CLEARS : Fld := ⟨0x4050E010, 32, 16⟩
abbrev GCH_GEN_DISABLES : Fld := ⟨0x4050E010, 16, 16⟩
abbrev GCH_GEN_LAST_US : Fld := ⟨0x4050E010, 2, 14⟩
abbrev GCH_GEN_DISABLED : Fld := ⟨0x4050E010, 1, 1⟩
abbrev GCH_GEN_LEVEL : Fld := ⟨0x4050E010, 0, 1⟩

/-- GCH_BRK — offset 0xE018 (08_gate_channels.md, R198). -/
abbrev A_GCH_BRK : Nat := 0x4050E018
abbrev GCH_BRK_BRK_ON : Fld := ⟨0x4050E018, 48, 16⟩
abbrev GCH_BRK_BRK_OFF : Fld := ⟨0x4050E018, 32, 16⟩
abbrev GCH_BRK_RUNS : Fld := ⟨0x4050E018, 16, 16⟩
abbrev GCH_BRK_PATH : Fld := ⟨0x4050E018, 2, 1⟩
abbrev GCH_BRK_REQ : Fld := ⟨0x4050E018, 1, 1⟩

/-! ## 09_control_engine.md -/

/-- CEN_SCFGn — offset 0x0000 (09_control_engine.md, R222). -/
abbrev A_CEN_SCFG (n : Nat) : Nat := 0x41000000 + n * 0x10000
abbrev CEN_SCFG_ENTRY (n : Nat) : Fld := ⟨0x41000000 + n * 0x10000, 32, 10⟩
abbrev CEN_SCFG_PHASE (n : Nat) : Fld := ⟨0x41000000 + n * 0x10000, 24, 8⟩
abbrev CEN_SCFG_DIVM1 (n : Nat) : Fld := ⟨0x41000000 + n * 0x10000, 16, 8⟩
abbrev CEN_SCFG_GROUP (n : Nat) : Fld := ⟨0x41000000 + n * 0x10000, 8, 3⟩
abbrev CEN_SCFG_EVT_FLT (n : Nat) : Fld := ⟨0x41000000 + n * 0x10000, 2, 1⟩
abbrev CEN_SCFG_EVT_PUB (n : Nat) : Fld := ⟨0x41000000 + n * 0x10000, 1, 1⟩
abbrev CEN_SCFG_RUN (n : Nat) : Fld := ⟨0x41000000 + n * 0x10000, 0, 1⟩

/-- CEN_SSTATn — offset 0x0008 (09_control_engine.md, R222). -/
abbrev A_CEN_SSTAT (n : Nat) : Nat := 0x41000008 + n * 0x10000
abbrev CEN_SSTAT_LAST_CYC (n : Nat) : Fld := ⟨0x41000008 + n * 0x10000, 48, 16⟩
abbrev CEN_SSTAT_MAX_CYC (n : Nat) : Fld := ⟨0x41000008 + n * 0x10000, 32, 16⟩
abbrev CEN_SSTAT_PC (n : Nat) : Fld := ⟨0x41000008 + n * 0x10000, 16, 10⟩
abbrev CEN_SSTAT_SB (n : Nat) : Fld := ⟨0x41000008 + n * 0x10000, 8, 7⟩
abbrev CEN_SSTAT_START (n : Nat) : Fld := ⟨0x41000008 + n * 0x10000, 3, 1⟩
abbrev CEN_SSTAT_STATE (n : Nat) : Fld := ⟨0x41000008 + n * 0x10000, 0, 3⟩

/-- CEN_SCNTn — offset 0x0010 (09_control_engine.md, R222). -/
abbrev A_CEN_SCNT (n : Nat) : Nat := 0x41000010 + n * 0x10000
abbrev CEN_SCNT_OVERRUN (n : Nat) : Fld := ⟨0x41000010 + n * 0x10000, 48, 16⟩
abbrev CEN_SCNT_SKIP (n : Nat) : Fld := ⟨0x41000010 + n * 0x10000, 32, 16⟩
abbrev CEN_SCNT_SAT (n : Nat) : Fld := ⟨0x41000010 + n * 0x10000, 16, 16⟩
abbrev CEN_SCNT_LATE (n : Nat) : Fld := ⟨0x41000010 + n * 0x10000, 0, 16⟩

/-- CEN_SCNT2n — offset 0x0018 (09_control_engine.md, R222). -/
abbrev A_CEN_SCNT2 (n : Nat) : Nat := 0x41000018 + n * 0x10000
abbrev CEN_SCNT2_DIV0 (n : Nat) : Fld := ⟨0x41000018 + n * 0x10000, 48, 16⟩
abbrev CEN_SCNT2_DOMAIN (n : Nat) : Fld := ⟨0x41000018 + n * 0x10000, 32, 16⟩
abbrev CEN_SCNT2_ECC_CORR (n : Nat) : Fld := ⟨0x41000018 + n * 0x10000, 16, 16⟩

/-- CEN_SCNT3n — offset 0x0020 (09_control_engine.md, R222). -/
abbrev A_CEN_SCNT3 (n : Nat) : Nat := 0x41000020 + n * 0x10000
abbrev CEN_SCNT3_SQUASH (n : Nat) : Fld := ⟨0x41000020 + n * 0x10000, 16, 16⟩
abbrev CEN_SCNT3_RWI_REF (n : Nat) : Fld := ⟨0x41000020 + n * 0x10000, 0, 16⟩

/-- CEN_TMASKn_m — offset 0x0040 + m × 8, m = 0 to 3 (09_control_engine.md, R222). -/
abbrev A_CEN_TMASK (n m : Nat) : Nat := 0x41000040 + n * 0x10000 + m * 0x8
abbrev CEN_TMASK_MASK (n m : Nat) : Fld := ⟨0x41000040 + n * 0x10000 + m * 0x8, 0, 64⟩

/-- CEN_STn_w — offset 0x0800 + w × 8, w = 0 to 255 (09_control_engine.md, R222). -/
abbrev A_CEN_ST (n w : Nat) : Nat := 0x41000800 + n * 0x10000 + w * 0x8
abbrev CEN_ST_VALUE (n w : Nat) : Fld := ⟨0x41000800 + n * 0x10000 + w * 0x8, 0, 64⟩

/-- CEN_PROGn_a — offset 0x2000 + a × 8, a = 0 to 1,023 (09_control_engine.md, R222). -/
abbrev A_CEN_PROG (n a : Nat) : Nat := 0x41002000 + n * 0x10000 + a * 0x8
abbrev CEN_PROG_OP (n a : Nat) : Fld := ⟨0x41002000 + n * 0x10000 + a * 0x8, 0, 64⟩

/-- CEN_GCFGg — common offset 0x000 + g × 8, g = 0 to 7 (09_control_engine.md, R222). -/
abbrev A_CEN_GCFG (g : Nat) : Nat := 0x41400000 + g * 0x8
abbrev CEN_GCFG_TMO_US (g : Nat) : Fld := ⟨0x41400000 + g * 0x8, 48, 16⟩
abbrev CEN_GCFG_GUARD_AGE (g : Nat) : Fld := ⟨0x41400000 + g * 0x8, 40, 8⟩
abbrev CEN_GCFG_PRESC (g : Nat) : Fld := ⟨0x41400000 + g * 0x8, 32, 8⟩
abbrev CEN_GCFG_DL_NS (g : Nat) : Fld := ⟨0x41400000 + g * 0x8, 12, 20⟩
abbrev CEN_GCFG_TRIG_SRC (g : Nat) : Fld := ⟨0x41400000 + g * 0x8, 0, 10⟩

/-- CEN_GSTATg — common offset 0x040 + g × 8 (09_control_engine.md, R222). -/
abbrev A_CEN_GSTAT (g : Nat) : Nat := 0x41400040 + g * 0x8
abbrev CEN_GSTAT_SEQ (g : Nat) : Fld := ⟨0x41400040 + g * 0x8, 32, 32⟩
abbrev CEN_GSTAT_PUB_NS (g : Nat) : Fld := ⟨0x41400040 + g * 0x8, 0, 32⟩

/-- CEN_GCNTg — common offset 0x080 + g × 8 (09_control_engine.md, R222). -/
abbrev A_CEN_GCNT (g : Nat) : Nat := 0x41400080 + g * 0x8
abbrev CEN_GCNT_TRIG_LOST (g : Nat) : Fld := ⟨0x41400080 + g * 0x8, 48, 16⟩
abbrev CEN_GCNT_TRIG_MISS (g : Nat) : Fld := ⟨0x41400080 + g * 0x8, 32, 16⟩
abbrev CEN_GCNT_DL_CLOSE (g : Nat) : Fld := ⟨0x41400080 + g * 0x8, 16, 16⟩
abbrev CEN_GCNT_GUARD (g : Nat) : Fld := ⟨0x41400080 + g * 0x8, 0, 16⟩

/-- CEN_GSTAMPg — common offset 0x0C0 + g × 8 (09_control_engine.md, R222). -/
abbrev A_CEN_GSTAMP (g : Nat) : Nat := 0x414000C0 + g * 0x8
abbrev CEN_GSTAMP_STAMP (g : Nat) : Fld := ⟨0x414000C0 + g * 0x8, 0, 64⟩

/-- CEN_TADRk — common offset 0x100 + k × 8, k = 0 to 7 (09_control_engine.md, R222). -/
abbrev A_CEN_TADR (k : Nat) : Nat := 0x41400100 + k * 0x8
abbrev CEN_TADR_SLICE (k : Nat) : Fld := ⟨0x41400100 + k * 0x8, 8, 6⟩
abbrev CEN_TADR_WORD (k : Nat) : Fld := ⟨0x41400100 + k * 0x8, 0, 8⟩

/-- CEN_TDATk — common offset 0x140 + k × 8 (09_control_engine.md, R222). -/
abbrev A_CEN_TDAT (k : Nat) : Nat := 0x41400140 + k * 0x8
abbrev CEN_TDAT_VALUE (k : Nat) : Fld := ⟨0x41400140 + k * 0x8, 0, 64⟩

/-- CEN_TCTL — common offset 0x180 (09_control_engine.md, R222). -/
abbrev A_CEN_TCTL : Nat := 0x41400180
abbrev CEN_TCTL_RESULT : Fld := ⟨0x41400180, 8, 3⟩
abbrev CEN_TCTL_BUSY : Fld := ⟨0x41400180, 7, 1⟩
abbrev CEN_TCTL_COMMIT : Fld := ⟨0x41400180, 5, 1⟩
abbrev CEN_TCTL_RESTART : Fld := ⟨0x41400180, 4, 1⟩
abbrev CEN_TCTL_COUNT : Fld := ⟨0x41400180, 0, 4⟩

/-- CEN_CCNT — common offset 0x188 (09_control_engine.md, R222). -/
abbrev A_CEN_CCNT : Nat := 0x41400188
abbrev CEN_CCNT_TREF : Fld := ⟨0x41400188, 48, 16⟩
abbrev CEN_CCNT_RWI_REF : Fld := ⟨0x41400188, 0, 16⟩

/-- CEN_OUTw — common offset 0x1000 + w × 8, w = 0 to 511 (09_control_engine.md, R222). -/
abbrev A_CEN_OUT (w : Nat) : Nat := 0x41401000 + w * 0x8
abbrev CEN_OUT_VALUE (w : Nat) : Fld := ⟨0x41401000 + w * 0x8, 0, 64⟩

/-- CEN_AGEj — common offset 0x2000 + j × 8, j = 0 to 63 (09_control_engine.md, R222). -/
abbrev A_CEN_AGE (j : Nat) : Nat := 0x41402000 + j * 0x8
abbrev CEN_AGE_AGE (j i : Nat) : Fld := ⟨0x41402000 + j * 0x8, 8 * i + 0, 8⟩

/-- CEN_GUARDm — common offset 0x2200 + m × 8, m = 0 to 7 (09_control_engine.md, R222). -/
abbrev A_CEN_GUARD (m : Nat) : Nat := 0x41402200 + m * 0x8
abbrev CEN_GUARD_MASK (m : Nat) : Fld := ⟨0x41402200 + m * 0x8, 0, 64⟩

/-! ## 10_engine_issue_spool.md -/

/-- CEN_LACFG — common offset 0x190 (10_engine_issue_spool.md, R242). -/
abbrev A_CEN_LACFG : Nat := 0x41400190
abbrev CEN_LACFG_ASSIST_B : Fld := ⟨0x41400190, 8, 6⟩
abbrev CEN_LACFG_ASSIST_A : Fld := ⟨0x41400190, 0, 6⟩

/-- CEN_LASTATc — common offset 0x1A0 + c × 8 (10_engine_issue_spool.md, R242). -/
abbrev A_CEN_LASTAT (c : Nat) : Nat := 0x414001A0 + c * 0x8
abbrev CEN_LASTAT_CB (c : Nat) : Fld := ⟨0x414001A0 + c * 0x8, 12, 4⟩
abbrev CEN_LASTAT_OUTST (c : Nat) : Fld := ⟨0x414001A0 + c * 0x8, 10, 2⟩
abbrev CEN_LASTAT_PORT_ACT (c : Nat) : Fld := ⟨0x414001A0 + c * 0x8, 9, 1⟩
abbrev CEN_LASTAT_BUSY (c : Nat) : Fld := ⟨0x414001A0 + c * 0x8, 7, 1⟩
abbrev CEN_LASTAT_RESULT (c : Nat) : Fld := ⟨0x414001A0 + c * 0x8, 0, 4⟩

/-- CEN_LACNTc — common offset 0x1C0 + c × 8 (10_engine_issue_spool.md, R242). -/
abbrev A_CEN_LACNT (c : Nat) : Nat := 0x414001C0 + c * 0x8
abbrev CEN_LACNT_SQUASH (c : Nat) : Fld := ⟨0x414001C0 + c * 0x8, 48, 16⟩
abbrev CEN_LACNT_STALL_CB (c : Nat) : Fld := ⟨0x414001C0 + c * 0x8, 36, 12⟩
abbrev CEN_LACNT_REFUSED (c : Nat) : Fld := ⟨0x414001C0 + c * 0x8, 24, 12⟩
abbrev CEN_LACNT_COLLIDE (c : Nat) : Fld := ⟨0x414001C0 + c * 0x8, 12, 12⟩
abbrev CEN_LACNT_HALTED (c : Nat) : Fld := ⟨0x414001C0 + c * 0x8, 0, 12⟩

/-- SPL_CTL — offset 0x000 (10_engine_issue_spool.md, R243). -/
abbrev A_SPL_CTL : Nat := 0x41408000
abbrev SPL_CTL_FORCE : Fld := ⟨0x41408000, 2, 1⟩
abbrev SPL_CTL_STOP : Fld := ⟨0x41408000, 1, 1⟩
abbrev SPL_CTL_ARM : Fld := ⟨0x41408000, 0, 1⟩

/-- SPL_STAT — offset 0x008 (10_engine_issue_spool.md, R243). -/
abbrev A_SPL_STAT : Nat := 0x41408008
abbrev SPL_STAT_ARM_ERR : Fld := ⟨0x41408008, 32, 3⟩
abbrev SPL_STAT_DONE : Fld := ⟨0x41408008, 16, 16⟩
abbrev SPL_STAT_TRIGGED : Fld := ⟨0x41408008, 3, 1⟩
abbrev SPL_STAT_STATE : Fld := ⟨0x41408008, 0, 3⟩

/-- SPL_TRIG — offset 0x010 (10_engine_issue_spool.md, R243). -/
abbrev A_SPL_TRIG : Nat := 0x41408010
abbrev SPL_TRIG_SRC : Fld := ⟨0x41408010, 16, 10⟩
abbrev SPL_TRIG_CHAN : Fld := ⟨0x41408010, 8, 4⟩
abbrev SPL_TRIG_EDGE : Fld := ⟨0x41408010, 4, 2⟩
abbrev SPL_TRIG_KIND : Fld := ⟨0x41408010, 0, 2⟩

/-- SPL_TLEVEL — offset 0x018 (10_engine_issue_spool.md, R243). -/
abbrev A_SPL_TLEVEL : Nat := 0x41408018
abbrev SPL_TLEVEL_LEVEL : Fld := ⟨0x41408018, 0, 64⟩

/-- SPL_TSTAMP — offset 0x020 (10_engine_issue_spool.md, R243). -/
abbrev A_SPL_TSTAMP : Nat := 0x41408020
abbrev SPL_TSTAMP_STAMP : Fld := ⟨0x41408020, 0, 64⟩

/-- SPL_CNT — offset 0x028 (10_engine_issue_spool.md, R243). -/
abbrev A_SPL_CNT : Nat := 0x41408028
abbrev SPL_CNT_TRIG_EARLY : Fld := ⟨0x41408028, 48, 16⟩
abbrev SPL_CNT_WR_REF : Fld := ⟨0x41408028, 32, 16⟩
abbrev SPL_CNT_ARM_REF : Fld := ⟨0x41408028, 16, 16⟩
abbrev SPL_CNT_RWI_REF : Fld := ⟨0x41408028, 0, 16⟩

/-- SPL_CHCFGc — offset 0x100 + c × 0x40 (10_engine_issue_spool.md, R243). -/
abbrev A_SPL_CHCFG (c : Nat) : Nat := 0x41408100 + c * 0x40
abbrev SPL_CHCFG_HI (c : Nat) : Fld := ⟨0x41408100 + c * 0x40, 48, 10⟩
abbrev SPL_CHCFG_SEL (c : Nat) : Fld := ⟨0x41408100 + c * 0x40, 32, 16⟩
abbrev SPL_CHCFG_DEC (c : Nat) : Fld := ⟨0x41408100 + c * 0x40, 16, 12⟩
abbrev SPL_CHCFG_DMODE (c : Nat) : Fld := ⟨0x41408100 + c * 0x40, 4, 1⟩
abbrev SPL_CHCFG_TYPE (c : Nat) : Fld := ⟨0x41408100 + c * 0x40, 0, 3⟩

/-- SPL_CHBUFc — offset 0x108 + c × 0x40 (10_engine_issue_spool.md, R243). -/
abbrev A_SPL_CHBUF (c : Nat) : Nat := 0x41408108 + c * 0x40
abbrev SPL_CHBUF_SIZE (c : Nat) : Fld := ⟨0x41408108 + c * 0x40, 16, 11⟩
abbrev SPL_CHBUF_BASE (c : Nat) : Fld := ⟨0x41408108 + c * 0x40, 0, 10⟩

/-- SPL_CHPPc — offset 0x110 + c × 0x40 (10_engine_issue_spool.md, R243). -/
abbrev A_SPL_CHPP (c : Nat) : Nat := 0x41408110 + c * 0x40
abbrev SPL_CHPP_PRE (c : Nat) : Fld := ⟨0x41408110 + c * 0x40, 32, 32⟩
abbrev SPL_CHPP_POST (c : Nat) : Fld := ⟨0x41408110 + c * 0x40, 0, 32⟩

/-- SPL_CHSTc — offset 0x118 + c × 0x40 (10_engine_issue_spool.md, R243). -/
abbrev A_SPL_CHST (c : Nat) : Nat := 0x41408118 + c * 0x40
abbrev SPL_CHST_WPTR (c : Nat) : Fld := ⟨0x41408118 + c * 0x40, 40, 24⟩
abbrev SPL_CHST_WRAP (c : Nat) : Fld := ⟨0x41408118 + c * 0x40, 32, 1⟩
abbrev SPL_CHST_TIDX (c : Nat) : Fld := ⟨0x41408118 + c * 0x40, 0, 24⟩

/-- SPL_CHCNTc — offset 0x120 + c × 0x40 (10_engine_issue_spool.md, R243). -/
abbrev A_SPL_CHCNT (c : Nat) : Nat := 0x41408120 + c * 0x40
abbrev SPL_CHCNT_DROPS (c : Nat) : Fld := ⟨0x41408120 + c * 0x40, 32, 32⟩
abbrev SPL_CHCNT_RECORDS (c : Nat) : Fld := ⟨0x41408120 + c * 0x40, 0, 32⟩

/-! ## 11_stepper_axes.md -/

/-- STP_CTLn — offset n × 0x1000 + 0x000 (11_stepper_axes.md, R272). -/
abbrev A_STP_CTL (n : Nat) : Nat := 0x40700000 + n * 0x1000
abbrev STP_CTL_TW (n : Nat) : Fld := ⟨0x40700000 + n * 0x1000, 16, 9⟩
abbrev STP_CTL_TGT_SRC (n : Nat) : Fld := ⟨0x40700000 + n * 0x1000, 12, 1⟩
abbrev STP_CTL_PROFILE (n : Nat) : Fld := ⟨0x40700000 + n * 0x1000, 11, 1⟩
abbrev STP_CTL_MODE (n : Nat) : Fld := ⟨0x40700000 + n * 0x1000, 8, 3⟩
abbrev STP_CTL_HOME_GO (n : Nat) : Fld := ⟨0x40700000 + n * 0x1000, 3, 1⟩
abbrev STP_CTL_STOP (n : Nat) : Fld := ⟨0x40700000 + n * 0x1000, 2, 1⟩
abbrev STP_CTL_EN (n : Nat) : Fld := ⟨0x40700000 + n * 0x1000, 0, 1⟩

/-- STP_STATn — offset n × 0x1000 + 0x008 (11_stepper_axes.md, R272). -/
abbrev A_STP_STAT (n : Nat) : Nat := 0x40700008 + n * 0x1000
abbrev STP_STAT_ADDR (n : Nat) : Fld := ⟨0x40700008 + n * 0x1000, 48, 10⟩
abbrev STP_STAT_HSTATE (n : Nat) : Fld := ⟨0x40700008 + n * 0x1000, 28, 4⟩
abbrev STP_STAT_PEND (n : Nat) : Fld := ⟨0x40700008 + n * 0x1000, 24, 3⟩
abbrev STP_STAT_PENDING (n : Nat) : Fld := ⟨0x40700008 + n * 0x1000, 23, 1⟩
abbrev STP_STAT_BAND (n : Nat) : Fld := ⟨0x40700008 + n * 0x1000, 20, 3⟩
abbrev STP_STAT_HOMED (n : Nat) : Fld := ⟨0x40700008 + n * 0x1000, 7, 1⟩
abbrev STP_STAT_BLIND (n : Nat) : Fld := ⟨0x40700008 + n * 0x1000, 6, 1⟩
abbrev STP_STAT_DIR (n : Nat) : Fld := ⟨0x40700008 + n * 0x1000, 5, 1⟩
abbrev STP_STAT_HOLDI (n : Nat) : Fld := ⟨0x40700008 + n * 0x1000, 4, 1⟩
abbrev STP_STAT_STATE (n : Nat) : Fld := ⟨0x40700008 + n * 0x1000, 0, 3⟩

/-- STP_POSn, STP_VELn, STP_TGTn, STP_VTGTn — offsets n × 0x1000 + 0x010, 0x018, 0x020, 0x028 (11_stepper_axes.md, R272). -/
abbrev A_STP_POS (n : Nat) : Nat := 0x40700010 + n * 0x1000
abbrev STP_POS (n : Nat) : Fld := ⟨0x40700010 + n * 0x1000, 0, 64⟩

/-- STP_POSn, STP_VELn, STP_TGTn, STP_VTGTn — offsets n × 0x1000 + 0x010, 0x018, 0x020, 0x028 (11_stepper_axes.md, R272). -/
abbrev A_STP_VEL (n : Nat) : Nat := 0x40700018 + n * 0x1000
abbrev STP_VEL (n : Nat) : Fld := ⟨0x40700018 + n * 0x1000, 0, 64⟩

/-- STP_POSn, STP_VELn, STP_TGTn, STP_VTGTn — offsets n × 0x1000 + 0x010, 0x018, 0x020, 0x028 (11_stepper_axes.md, R272). -/
abbrev A_STP_TGT (n : Nat) : Nat := 0x40700020 + n * 0x1000
abbrev STP_TGT (n : Nat) : Fld := ⟨0x40700020 + n * 0x1000, 0, 64⟩

/-- STP_POSn, STP_VELn, STP_TGTn, STP_VTGTn — offsets n × 0x1000 + 0x010, 0x018, 0x020, 0x028 (11_stepper_axes.md, R272). -/
abbrev A_STP_VTGT (n : Nat) : Nat := 0x40700028 + n * 0x1000
abbrev STP_VTGT (n : Nat) : Fld := ⟨0x40700028 + n * 0x1000, 0, 64⟩

/-- STP_VMAXn, STP_AMAXn, STP_DMAXn, STP_JMAXn, STP_EDECn, STP_VHOMEn — offsets n × 0x1000 + 0x030 to 0x058 in steps of 8 (11_stepper_axes.md, R272). -/
abbrev A_STP_VMAX (n : Nat) : Nat := 0x40700030 + n * 0x1000
abbrev STP_VMAX (n : Nat) : Fld := ⟨0x40700030 + n * 0x1000, 0, 64⟩

/-- STP_VMAXn, STP_AMAXn, STP_DMAXn, STP_JMAXn, STP_EDECn, STP_VHOMEn — offsets n × 0x1000 + 0x030 to 0x058 in steps of 8 (11_stepper_axes.md, R272). -/
abbrev A_STP_AMAX (n : Nat) : Nat := 0x40700038 + n * 0x1000
abbrev STP_AMAX (n : Nat) : Fld := ⟨0x40700038 + n * 0x1000, 0, 64⟩

/-- STP_VMAXn, STP_AMAXn, STP_DMAXn, STP_JMAXn, STP_EDECn, STP_VHOMEn — offsets n × 0x1000 + 0x030 to 0x058 in steps of 8 (11_stepper_axes.md, R272). -/
abbrev A_STP_DMAX (n : Nat) : Nat := 0x40700040 + n * 0x1000
abbrev STP_DMAX (n : Nat) : Fld := ⟨0x40700040 + n * 0x1000, 0, 64⟩

/-- STP_VMAXn, STP_AMAXn, STP_DMAXn, STP_JMAXn, STP_EDECn, STP_VHOMEn — offsets n × 0x1000 + 0x030 to 0x058 in steps of 8 (11_stepper_axes.md, R272). -/
abbrev A_STP_JMAX (n : Nat) : Nat := 0x40700048 + n * 0x1000
abbrev STP_JMAX (n : Nat) : Fld := ⟨0x40700048 + n * 0x1000, 0, 64⟩

/-- STP_VMAXn, STP_AMAXn, STP_DMAXn, STP_JMAXn, STP_EDECn, STP_VHOMEn — offsets n × 0x1000 + 0x030 to 0x058 in steps of 8 (11_stepper_axes.md, R272). -/
abbrev A_STP_EDEC (n : Nat) : Nat := 0x40700050 + n * 0x1000
abbrev STP_EDEC (n : Nat) : Fld := ⟨0x40700050 + n * 0x1000, 0, 64⟩

/-- STP_VMAXn, STP_AMAXn, STP_DMAXn, STP_JMAXn, STP_EDECn, STP_VHOMEn — offsets n × 0x1000 + 0x030 to 0x058 in steps of 8 (11_stepper_axes.md, R272). -/
abbrev A_STP_VHOME (n : Nat) : Nat := 0x40700058 + n * 0x1000
abbrev STP_VHOME (n : Nat) : Fld := ⟨0x40700058 + n * 0x1000, 0, 64⟩

/-- STP_CURn — offset n × 0x1000 + 0x060 (11_stepper_axes.md, R272). -/
abbrev A_STP_CUR (n : Nat) : Nat := 0x40700060 + n * 0x1000
abbrev STP_CUR_I_RUN (n : Nat) : Fld := ⟨0x40700060 + n * 0x1000, 48, 16⟩
abbrev STP_CUR_I_HOLD (n : Nat) : Fld := ⟨0x40700060 + n * 0x1000, 32, 16⟩
abbrev STP_CUR_HOLD_MS (n : Nat) : Fld := ⟨0x40700060 + n * 0x1000, 16, 16⟩

/-- STP_CHOPn — offset n × 0x1000 + 0x068 (11_stepper_axes.md, R272). -/
abbrev A_STP_CHOP (n : Nat) : Nat := 0x40700068 + n * 0x1000
abbrev STP_CHOP_HYST (n : Nat) : Fld := ⟨0x40700068 + n * 0x1000, 48, 16⟩
abbrev STP_CHOP_FCH_MIN (n : Nat) : Fld := ⟨0x40700068 + n * 0x1000, 40, 8⟩
abbrev STP_CHOP_FCH_MAX (n : Nat) : Fld := ⟨0x40700068 + n * 0x1000, 32, 8⟩
abbrev STP_CHOP_TBLANK (n : Nat) : Fld := ⟨0x40700068 + n * 0x1000, 24, 8⟩
abbrev STP_CHOP_TOFF_MIN (n : Nat) : Fld := ⟨0x40700068 + n * 0x1000, 16, 8⟩
abbrev STP_CHOP_DT (n : Nat) : Fld := ⟨0x40700068 + n * 0x1000, 8, 8⟩
abbrev STP_CHOP_DS_TH (n : Nat) : Fld := ⟨0x40700068 + n * 0x1000, 0, 8⟩

/-- STP_COILn — offset n × 0x1000 + 0x070 (11_stepper_axes.md, R272). -/
abbrev A_STP_COIL (n : Nat) : Nat := 0x40700070 + n * 0x1000
abbrev STP_COIL_RSHUNT (n : Nat) : Fld := ⟨0x40700070 + n * 0x1000, 48, 16⟩
abbrev STP_COIL_RCOIL (n : Nat) : Fld := ⟨0x40700070 + n * 0x1000, 32, 16⟩
abbrev STP_COIL_KE (n : Nat) : Fld := ⟨0x40700070 + n * 0x1000, 16, 16⟩
abbrev STP_COIL_STEPS_REV (n : Nat) : Fld := ⟨0x40700070 + n * 0x1000, 0, 16⟩

/-- STP_OFSn — offset n × 0x1000 + 0x078 (11_stepper_axes.md, R272). -/
abbrev A_STP_OFS (n : Nat) : Nat := 0x40700078 + n * 0x1000
abbrev STP_OFS_ENT_B (n : Nat) : Fld := ⟨0x40700078 + n * 0x1000, 48, 5⟩
abbrev STP_OFS_ENT_A (n : Nat) : Fld := ⟨0x40700078 + n * 0x1000, 40, 5⟩
abbrev STP_OFS_KOFF (n : Nat) : Fld := ⟨0x40700078 + n * 0x1000, 36, 4⟩
abbrev STP_OFS_OFS_EN (n : Nat) : Fld := ⟨0x40700078 + n * 0x1000, 32, 1⟩
abbrev STP_OFS_OFF_MAX (n : Nat) : Fld := ⟨0x40700078 + n * 0x1000, 24, 8⟩
abbrev STP_OFS_OFFSET_B (n : Nat) : Fld := ⟨0x40700078 + n * 0x1000, 8, 8⟩
abbrev STP_OFS_OFFSET_A (n : Nat) : Fld := ⟨0x40700078 + n * 0x1000, 0, 8⟩

/-- STP_STALLn — offset n × 0x1000 + 0x080 (11_stepper_axes.md, R272). -/
abbrev A_STP_STALL (n : Nat) : Nat := 0x40700080 + n * 0x1000
abbrev STP_STALL_STALL_TH (n : Nat) : Fld := ⟨0x40700080 + n * 0x1000, 48, 16⟩
abbrev STP_STALL_STALL_N (n : Nat) : Fld := ⟨0x40700080 + n * 0x1000, 40, 8⟩
abbrev STP_STALL_ZW (n : Nat) : Fld := ⟨0x40700080 + n * 0x1000, 32, 8⟩
abbrev STP_STALL_BLIND_RPS (n : Nat) : Fld := ⟨0x40700080 + n * 0x1000, 16, 16⟩
abbrev STP_STALL_STALL_EN (n : Nat) : Fld := ⟨0x40700080 + n * 0x1000, 2, 1⟩
abbrev STP_STALL_STALL_ACT (n : Nat) : Fld := ⟨0x40700080 + n * 0x1000, 0, 2⟩

/-- STP_LOADn — offset n × 0x1000 + 0x088 (11_stepper_axes.md, R272). -/
abbrev A_STP_LOAD (n : Nat) : Nat := 0x40700088 + n * 0x1000
abbrev STP_LOAD_LM (n : Nat) : Fld := ⟨0x40700088 + n * 0x1000, 48, 16⟩
abbrev STP_LOAD_E_EST (n : Nat) : Fld := ⟨0x40700088 + n * 0x1000, 32, 16⟩
abbrev STP_LOAD_DUTY (n : Nat) : Fld := ⟨0x40700088 + n * 0x1000, 16, 16⟩
abbrev STP_LOAD_CYCLES (n : Nat) : Fld := ⟨0x40700088 + n * 0x1000, 0, 16⟩

/-- STP_SWn — offset n × 0x1000 + 0x090 (11_stepper_axes.md, R272). -/
abbrev A_STP_SW (n : Nat) : Nat := 0x40700090 + n * 0x1000
abbrev STP_SW_DEB_US (n : Nat) : Fld := ⟨0x40700090 + n * 0x1000, 32, 14⟩
abbrev STP_SW_RETURN (n : Nat) : Fld := ⟨0x40700090 + n * 0x1000, 23, 1⟩
abbrev STP_SW_POL (n : Nat) : Fld := ⟨0x40700090 + n * 0x1000, 20, 3⟩
abbrev STP_SW_LIMN_EN (n : Nat) : Fld := ⟨0x40700090 + n * 0x1000, 19, 1⟩
abbrev STP_SW_LIMP_EN (n : Nat) : Fld := ⟨0x40700090 + n * 0x1000, 18, 1⟩
abbrev STP_SW_HOME_DIR (n : Nat) : Fld := ⟨0x40700090 + n * 0x1000, 17, 1⟩
abbrev STP_SW_LIMN_DI (n : Nat) : Fld := ⟨0x40700090 + n * 0x1000, 10, 5⟩
abbrev STP_SW_LIMP_DI (n : Nat) : Fld := ⟨0x40700090 + n * 0x1000, 5, 5⟩
abbrev STP_SW_HOME_DI (n : Nat) : Fld := ⟨0x40700090 + n * 0x1000, 0, 5⟩

/-- STP_HDISTn — offset n × 0x1000 + 0x098 (11_stepper_axes.md, R272). -/
abbrev A_STP_HDIST (n : Nat) : Nat := 0x40700098 + n * 0x1000
abbrev STP_HDIST_HOME_DIST (n : Nat) : Fld := ⟨0x40700098 + n * 0x1000, 32, 32⟩
abbrev STP_HDIST_BACKOFF (n : Nat) : Fld := ⟨0x40700098 + n * 0x1000, 0, 32⟩

/-- STP_HPOSn, STP_LATCHn — offsets n × 0x1000 + 0x0A0 and + 0x0A8 (11_stepper_axes.md, R272). -/
abbrev A_STP_HPOS (n : Nat) : Nat := 0x407000A0 + n * 0x1000
abbrev STP_HPOS (n : Nat) : Fld := ⟨0x407000A0 + n * 0x1000, 0, 64⟩

/-- STP_HPOSn, STP_LATCHn — offsets n × 0x1000 + 0x0A0 and + 0x0A8 (11_stepper_axes.md, R272). -/
abbrev A_STP_LATCH (n : Nat) : Nat := 0x407000A8 + n * 0x1000
abbrev STP_LATCH (n : Nat) : Fld := ⟨0x407000A8 + n * 0x1000, 0, 64⟩

/-- STP_FOLLOWn — offset n × 0x1000 + 0x0B0 (11_stepper_axes.md, R272). -/
abbrev A_STP_FOLLOW (n : Nat) : Nat := 0x407000B0 + n * 0x1000
abbrev STP_FOLLOW_LAG_MAX (n : Nat) : Fld := ⟨0x407000B0 + n * 0x1000, 32, 32⟩
abbrev STP_FOLLOW_FILT (n : Nat) : Fld := ⟨0x407000B0 + n * 0x1000, 16, 8⟩
abbrev STP_FOLLOW_DIR_INV (n : Nat) : Fld := ⟨0x407000B0 + n * 0x1000, 9, 1⟩
abbrev STP_FOLLOW_STEP_SCALE (n : Nat) : Fld := ⟨0x407000B0 + n * 0x1000, 0, 9⟩

/-- STP_FLTn — offset n × 0x1000 + 0x0B8 (11_stepper_axes.md, R272). -/
abbrev A_STP_FLT (n : Nat) : Nat := 0x407000B8 + n * 0x1000
abbrev STP_FLT_HFAIL (n : Nat) : Fld := ⟨0x407000B8 + n * 0x1000, 16, 4⟩
abbrev STP_FLT_LAG (n : Nat) : Fld := ⟨0x407000B8 + n * 0x1000, 8, 1⟩
abbrev STP_FLT_HOME_FAIL (n : Nat) : Fld := ⟨0x407000B8 + n * 0x1000, 7, 1⟩
abbrev STP_FLT_LIMN (n : Nat) : Fld := ⟨0x407000B8 + n * 0x1000, 6, 1⟩
abbrev STP_FLT_LIMP (n : Nat) : Fld := ⟨0x407000B8 + n * 0x1000, 5, 1⟩
abbrev STP_FLT_STALL (n : Nat) : Fld := ⟨0x407000B8 + n * 0x1000, 4, 1⟩
abbrev STP_FLT_OPEN_B (n : Nat) : Fld := ⟨0x407000B8 + n * 0x1000, 3, 1⟩
abbrev STP_FLT_OPEN_A (n : Nat) : Fld := ⟨0x407000B8 + n * 0x1000, 2, 1⟩
abbrev STP_FLT_SHORT_B (n : Nat) : Fld := ⟨0x407000B8 + n * 0x1000, 1, 1⟩
abbrev STP_FLT_SHORT_A (n : Nat) : Fld := ⟨0x407000B8 + n * 0x1000, 0, 1⟩

/-- STP_CNTn — offset n × 0x1000 + 0x0C0 (11_stepper_axes.md, R272). -/
abbrev A_STP_CNT (n : Nat) : Nat := 0x407000C0 + n * 0x1000
abbrev STP_CNT_NOT_REACHED (n : Nat) : Fld := ⟨0x407000C0 + n * 0x1000, 48, 16⟩
abbrev STP_CNT_UNDERSHOOT (n : Nat) : Fld := ⟨0x407000C0 + n * 0x1000, 32, 16⟩
abbrev STP_CNT_HOME_GLITCH (n : Nat) : Fld := ⟨0x407000C0 + n * 0x1000, 16, 16⟩
abbrev STP_CNT_RWI_REF (n : Nat) : Fld := ⟨0x407000C0 + n * 0x1000, 0, 16⟩

/-- STP_CNT2n — offset n × 0x1000 + 0x0C8 (11_stepper_axes.md, R272). -/
abbrev A_STP_CNT2 (n : Nat) : Nat := 0x407000C8 + n * 0x1000
abbrev STP_CNT2_BST_UV (n : Nat) : Fld := ⟨0x407000C8 + n * 0x1000, 48, 16⟩
abbrev STP_CNT2_CUR_CLAMP (n : Nat) : Fld := ⟨0x407000C8 + n * 0x1000, 32, 16⟩
abbrev STP_CNT2_THR_CLAMP (n : Nat) : Fld := ⟨0x407000C8 + n * 0x1000, 16, 16⟩
abbrev STP_CNT2_BAND_REST (n : Nat) : Fld := ⟨0x407000C8 + n * 0x1000, 8, 8⟩
abbrev STP_CNT2_EN_REF (n : Nat) : Fld := ⟨0x407000C8 + n * 0x1000, 0, 8⟩

/-- STP_BAND — offset 0xC000 (11_stepper_axes.md, R272). -/
abbrev A_STP_BAND : Nat := 0x4070C000
abbrev STP_BAND_BT4 : Fld := ⟨0x4070C000, 48, 16⟩
abbrev STP_BAND_BT3 : Fld := ⟨0x4070C000, 32, 16⟩
abbrev STP_BAND_BT2 : Fld := ⟨0x4070C000, 16, 16⟩
abbrev STP_BAND_BT1 : Fld := ⟨0x4070C000, 0, 16⟩

/-- STP_VSTP — offset 0xC008 (11_stepper_axes.md, R272). -/
abbrev A_STP_VSTP : Nat := 0x4070C008
abbrev STP_VSTP_VSTP : Fld := ⟨0x4070C008, 48, 16⟩
abbrev STP_VSTP_UV : Fld := ⟨0x4070C008, 40, 8⟩
abbrev STP_VSTP_OV : Fld := ⟨0x4070C008, 32, 8⟩
abbrev STP_VSTP_FAULTS : Fld := ⟨0x4070C008, 16, 16⟩
abbrev STP_VSTP_OV_SEEN : Fld := ⟨0x4070C008, 3, 1⟩
abbrev STP_VSTP_UV_SEEN : Fld := ⟨0x4070C008, 2, 1⟩
abbrev STP_VSTP_OV_NOW : Fld := ⟨0x4070C008, 1, 1⟩
abbrev STP_VSTP_UV_NOW : Fld := ⟨0x4070C008, 0, 1⟩

/-- STP_HEMLIM — offset 0xC010 (11_stepper_axes.md, R272). -/
abbrev A_STP_HEMLIM : Nat := 0x4070C010
abbrev STP_HEMLIM_I_COIL_MAX : Fld := ⟨0x4070C010, 0, 16⟩

/-- STP_CCNT — offset 0xC018 (11_stepper_axes.md, R272). -/
abbrev A_STP_CCNT : Nat := 0x4070C018
abbrev STP_CCNT_RWI_REF : Fld := ⟨0x4070C018, 0, 16⟩

/-- STP_TABj — offset 0xD000 + j × 8, j = 0 to 255 (11_stepper_axes.md, R272). -/
abbrev A_STP_TAB (j : Nat) : Nat := 0x4070D000 + j * 0x8
abbrev STP_TAB_T (j i : Nat) : Fld := ⟨0x4070D000 + j * 0x8, 16 * i + 0, 12⟩

/-! ## 12_cores_darn_hem.md -/

/-- HEM_STAT — offset 0x000 (12_cores_darn_hem.md, R304). -/
abbrev A_HEM_STAT : Nat := 0x40800000
abbrev HEM_STAT_REFUSE_WHY : Fld := ⟨0x40800000, 40, 4⟩
abbrev HEM_STAT_HOLD : Fld := ⟨0x40800000, 32, 1⟩
abbrev HEM_STAT_PAIRB : Fld := ⟨0x40800000, 8, 4⟩
abbrev HEM_STAT_PAIRA : Fld := ⟨0x40800000, 4, 4⟩
abbrev HEM_STAT_SAFE_OWNER : Fld := ⟨0x40800000, 0, 1⟩

/-- HEM_PAIRCTL — offset 0x008 (12_cores_darn_hem.md, R304). -/
abbrev A_HEM_PAIRCTL : Nat := 0x40800008
abbrev HEM_PAIRCTL_SAFE_ACK : Fld := ⟨0x40800008, 4, 1⟩
abbrev HEM_PAIRCTL_OWNER_REQ : Fld := ⟨0x40800008, 3, 1⟩
abbrev HEM_PAIRCTL_REJOIN : Fld := ⟨0x40800008, 2, 1⟩
abbrev HEM_PAIRCTL_SPLIT : Fld := ⟨0x40800008, 1, 1⟩

/-- HEM_DARNCFG — offset 0x010 (12_cores_darn_hem.md, R304). -/
abbrev A_HEM_DARNCFG : Nat := 0x40800010
abbrev HEM_DARNCFG_MM_MAX : Fld := ⟨0x40800010, 40, 8⟩
abbrev HEM_DARNCFG_MM_WIN_MS : Fld := ⟨0x40800010, 24, 16⟩
abbrev HEM_DARNCFG_EPOCH_US : Fld := ⟨0x40800010, 0, 7⟩

/-- HEM_DARNp — offset 0x018 + p × 8 (12_cores_darn_hem.md, R304). -/
abbrev A_HEM_DARN (p : Nat) : Nat := 0x40800018 + p * 0x8
abbrev HEM_DARN_MISMATCH (p : Nat) : Fld := ⟨0x40800018 + p * 0x8, 48, 16⟩
abbrev HEM_DARN_RESTARTS (p : Nat) : Fld := ⟨0x40800018 + p * 0x8, 32, 16⟩
abbrev HEM_DARN_FORCED (p : Nat) : Fld := ⟨0x40800018 + p * 0x8, 20, 12⟩
abbrev HEM_DARN_SPLIT_RST (p : Nat) : Fld := ⟨0x40800018 + p * 0x8, 12, 8⟩
abbrev HEM_DARN_LAST_US (p : Nat) : Fld := ⟨0x40800018 + p * 0x8, 0, 12⟩

/-- HEM_MMSTAMPp — offset 0x028 + p × 8 (12_cores_darn_hem.md, R304). -/
abbrev A_HEM_MMSTAMP (p : Nat) : Nat := 0x40800028 + p * 0x8
abbrev HEM_MMSTAMP_STAMP (p : Nat) : Fld := ⟨0x40800028 + p * 0x8, 0, 64⟩

/-- HEM_WDOG — offset 0x038 (12_cores_darn_hem.md, R304). -/
abbrev A_HEM_WDOG : Nat := 0x40800038
abbrev HEM_WDOG_KEY : Fld := ⟨0x40800038, 48, 16⟩
abbrev HEM_WDOG_WDT_MS : Fld := ⟨0x40800038, 16, 8⟩

/-- HEM_GLIMg — offset 0x040 + g × 8 (12_cores_darn_hem.md, R304). -/
abbrev A_HEM_GLIM (g : Nat) : Nat := 0x40800040 + g * 0x8
abbrev HEM_GLIM_IMAX (g : Nat) : Fld := ⟨0x40800040 + g * 0x8, 48, 16⟩
abbrev HEM_GLIM_TMAX (g : Nat) : Fld := ⟨0x40800040 + g * 0x8, 32, 16⟩
abbrev HEM_GLIM_SPD_MAX (g : Nat) : Fld := ⟨0x40800040 + g * 0x8, 16, 16⟩
abbrev HEM_GLIM_SPD_MARGIN (g : Nat) : Fld := ⟨0x40800040 + g * 0x8, 8, 8⟩

/-- HEM_GLIM2g — offset 0x050 + g × 8 (12_cores_darn_hem.md, R304). -/
abbrev A_HEM_GLIM2 (g : Nat) : Nat := 0x40800050 + g * 0x8
abbrev HEM_GLIM2_KT (g : Nat) : Fld := ⟨0x40800050 + g * 0x8, 48, 16⟩
abbrev HEM_GLIM2_UDC_MAX (g : Nat) : Fld := ⟨0x40800050 + g * 0x8, 32, 16⟩
abbrev HEM_GLIM2_UDC_MIN (g : Nat) : Fld := ⟨0x40800050 + g * 0x8, 16, 16⟩
abbrev HEM_GLIM2_TMP_MASK (g : Nat) : Fld := ⟨0x40800050 + g * 0x8, 8, 8⟩

/-- HEM_DERCFG — offset 0x060 (12_cores_darn_hem.md, R304). -/
abbrev A_HEM_DERCFG : Nat := 0x40800060
abbrev HEM_DERCFG_DER_T0 : Fld := ⟨0x40800060, 56, 8⟩
abbrev HEM_DERCFG_DER_T1 : Fld := ⟨0x40800060, 48, 8⟩
abbrev HEM_DERCFG_FLOW_NOM : Fld := ⟨0x40800060, 32, 16⟩
abbrev HEM_DERCFG_FLOW_FMIN : Fld := ⟨0x40800060, 24, 8⟩

/-- HEM_DERg — offset 0x068 + g × 8 (12_cores_darn_hem.md, R304). -/
abbrev A_HEM_DER (g : Nat) : Nat := 0x40800068 + g * 0x8
abbrev HEM_DER_IMAX_EFF (g : Nat) : Fld := ⟨0x40800068 + g * 0x8, 48, 16⟩
abbrev HEM_DER_F_TEMP (g : Nat) : Fld := ⟨0x40800068 + g * 0x8, 40, 8⟩
abbrev HEM_DER_F_FLOW (g : Nat) : Fld := ⟨0x40800068 + g * 0x8, 32, 8⟩
abbrev HEM_DER_T_HOT (g : Nat) : Fld := ⟨0x40800068 + g * 0x8, 24, 8⟩
abbrev HEM_DER_FLOW_STALE (g : Nat) : Fld := ⟨0x40800068 + g * 0x8, 15, 1⟩
abbrev HEM_DER_INVALID (g : Nat) : Fld := ⟨0x40800068 + g * 0x8, 0, 8⟩

/-- HEM_FOALLOW — offset 0x078 (12_cores_darn_hem.md, R304). -/
abbrev A_HEM_FOALLOW : Nat := 0x40800078
abbrev HEM_FOALLOW_ALLOW (i : Nat) : Fld := ⟨0x40800078, 4 * i + 0, 4⟩

/-- HEM_FOHOLD — offset 0x080 (12_cores_darn_hem.md, R304). -/
abbrev A_HEM_FOHOLD : Nat := 0x40800080
abbrev HEM_FOHOLD_HOLD (i : Nat) : Fld := ⟨0x40800080, 2 * i + 0, 2⟩

/-- HEM_VIOLg — offset 0x088 + g × 8 (12_cores_darn_hem.md, R304). -/
abbrev A_HEM_VIOL (g : Nat) : Nat := 0x40800088 + g * 0x8
abbrev HEM_VIOL_I (g : Nat) : Fld := ⟨0x40800088 + g * 0x8, 48, 16⟩
abbrev HEM_VIOL_TQ (g : Nat) : Fld := ⟨0x40800088 + g * 0x8, 32, 16⟩
abbrev HEM_VIOL_SPD (g : Nat) : Fld := ⟨0x40800088 + g * 0x8, 16, 16⟩
abbrev HEM_VIOL_UDC (g : Nat) : Fld := ⟨0x40800088 + g * 0x8, 0, 16⟩

/-- HEM_CNT — offset 0x098 (12_cores_darn_hem.md, R304). -/
abbrev A_HEM_CNT : Nat := 0x40800098
abbrev HEM_CNT_RWS_REF : Fld := ⟨0x40800098, 48, 16⟩
abbrev HEM_CNT_CLASS_REF : Fld := ⟨0x40800098, 32, 16⟩
abbrev HEM_CNT_FO_REJ : Fld := ⟨0x40800098, 16, 16⟩
abbrev HEM_CNT_GUARD : Fld := ⟨0x40800098, 0, 16⟩

/-- HEM_GUARD — offset 0x0A0 (12_cores_darn_hem.md, R304). -/
abbrev A_HEM_GUARD : Nat := 0x408000A0
abbrev HEM_GUARD_LAST_WORD : Fld := ⟨0x408000A0, 0, 9⟩

/-- DBG_STAT — offset 0x000 (12_cores_darn_hem.md, R305). -/
abbrev A_DBG_STAT : Nat := 0x40040000
abbrev DBG_STAT_HALTED : Fld := ⟨0x40040000, 8, 4⟩
abbrev DBG_STAT_DEV_UNLOCK : Fld := ⟨0x40040000, 2, 1⟩
abbrev DBG_STAT_DBG_ALLOW : Fld := ⟨0x40040000, 1, 1⟩
abbrev DBG_STAT_ACCESS : Fld := ⟨0x40040000, 0, 1⟩

/-- DBG_CNT — offset 0x008 (12_cores_darn_hem.md, R305). -/
abbrev A_DBG_CNT : Nat := 0x40040008
abbrev DBG_CNT_REFUSED : Fld := ⟨0x40040008, 48, 16⟩
abbrev DBG_CNT_RESETS : Fld := ⟨0x40040008, 32, 16⟩

/-! ## 13_thimble_safety.md -/

/-- THM_STAT — offset 0x000 (13_thimble_safety.md, R345). -/
abbrev A_THM_STAT : Nat := 0x48000000
abbrev THM_STAT_RESTARTS : Fld := ⟨0x48000000, 56, 8⟩
abbrev THM_STAT_PWD_INIT : Fld := ⟨0x48000000, 15, 1⟩
abbrev THM_STAT_LOCKOUT : Fld := ⟨0x48000000, 14, 1⟩
abbrev THM_STAT_LOG_FULL : Fld := ⟨0x48000000, 13, 1⟩
abbrev THM_STAT_DEV_UNLOCK : Fld := ⟨0x48000000, 12, 1⟩
abbrev THM_STAT_SAFE_UNLOCK : Fld := ⟨0x48000000, 11, 1⟩
abbrev THM_STAT_FAULT_N : Fld := ⟨0x48000000, 10, 1⟩
abbrev THM_STAT_HOLD_REQ : Fld := ⟨0x48000000, 9, 1⟩
abbrev THM_STAT_SLEEP_OK : Fld := ⟨0x48000000, 8, 1⟩
abbrev THM_STAT_STATE : Fld := ⟨0x48000000, 0, 2⟩

/-- THM_RESP — offset 0x008 (13_thimble_safety.md, R345). -/
abbrev A_THM_RESP : Nat := 0x48000008
abbrev THM_RESP_TAG : Fld := ⟨0x48000008, 48, 16⟩
abbrev THM_RESP_CODE : Fld := ⟨0x48000008, 8, 8⟩
abbrev THM_RESP_BUSY : Fld := ⟨0x48000008, 7, 1⟩
abbrev THM_RESP_RESULT : Fld := ⟨0x48000008, 0, 4⟩

/-- THM_GRPg — offset 0x010 + g × 8, g = 0, 1 (13_thimble_safety.md, R345). -/
abbrev A_THM_GRP (g : Nat) : Nat := 0x48000010 + g * 0x8
abbrev THM_GRP_SPEED (g : Nat) : Fld := ⟨0x48000010 + g * 0x8, 48, 16⟩
abbrev THM_GRP_SS1_LEFT (g : Nat) : Fld := ⟨0x48000010 + g * 0x8, 32, 16⟩
abbrev THM_GRP_DEMAND (g : Nat) : Fld := ⟨0x48000010 + g * 0x8, 24, 6⟩
abbrev THM_GRP_SPD_VALID (g : Nat) : Fld := ⟨0x48000010 + g * 0x8, 13, 1⟩
abbrev THM_GRP_SEL (g : Nat) : Fld := ⟨0x48000010 + g * 0x8, 12, 1⟩
abbrev THM_GRP_REL_OK (g : Nat) : Fld := ⟨0x48000010 + g * 0x8, 11, 1⟩
abbrev THM_GRP_STATE (g : Nat) : Fld := ⟨0x48000010 + g * 0x8, 0, 3⟩

/-- THM_SI — offset 0x020 (13_thimble_safety.md, R345). -/
abbrev A_THM_SI : Nat := 0x48000020
abbrev THM_SI_LVL (i : Nat) : Fld := ⟨0x48000020, 8 * i + 6, 2⟩
abbrev THM_SI_TESTED (i : Nat) : Fld := ⟨0x48000020, 8 * i + 5, 1⟩
abbrev THM_SI_STATE (i : Nat) : Fld := ⟨0x48000020, 8 * i + 0, 3⟩

/-- THM_TM — offset 0x028 (13_thimble_safety.md, R345). -/
abbrev A_THM_TM : Nat := 0x48000028
abbrev THM_TM_PDC : Fld := ⟨0x48000028, 32, 32⟩
abbrev THM_TM_PEXP : Fld := ⟨0x48000028, 0, 32⟩

/-- THM_DC — offset 0x030 (13_thimble_safety.md, R345). -/
abbrev A_THM_DC : Nat := 0x48000030
abbrev THM_DC_TUDC : Fld := ⟨0x48000030, 48, 16⟩
abbrev THM_DC_TIDC : Fld := ⟨0x48000030, 32, 16⟩
abbrev THM_DC_UDC_DIFF : Fld := ⟨0x48000030, 16, 16⟩
abbrev THM_DC_DISCHARGED : Fld := ⟨0x48000030, 9, 1⟩
abbrev THM_DC_TM_BLIND : Fld := ⟨0x48000030, 8, 1⟩
abbrev THM_DC_TM_FAILS : Fld := ⟨0x48000030, 0, 8⟩

/-- THM_SBCST — offset 0x038 (13_thimble_safety.md, R345). -/
abbrev A_THM_SBCST : Nat := 0x48000038
abbrev THM_SBCST_I_BRAKE : Fld := ⟨0x48000038, 48, 16⟩
abbrev THM_SBCST_TESTING : Fld := ⟨0x48000038, 2, 1⟩
abbrev THM_SBCST_RELEASED : Fld := ⟨0x48000038, 1, 1⟩
abbrev THM_SBCST_REL_REQ : Fld := ⟨0x48000038, 0, 1⟩

/-- THM_FLT — offset 0x040 (13_thimble_safety.md, R345). -/
abbrev A_THM_FLT : Nat := 0x48000040
abbrev THM_FLT_CAUSE : Fld := ⟨0x48000040, 16, 8⟩
abbrev THM_FLT_LATCH : Fld := ⟨0x48000040, 0, 8⟩

/-- THM_PWD — offset 0x048 (13_thimble_safety.md, R345). -/
abbrev A_THM_PWD : Nat := 0x48000048
abbrev THM_PWD_LOCK_S : Fld := ⟨0x48000048, 48, 16⟩
abbrev THM_PWD_WRONG : Fld := ⟨0x48000048, 40, 8⟩

/-- THM_CLOG — offset 0x050 (13_thimble_safety.md, R345). -/
abbrev A_THM_CLOG : Nat := 0x48000050
abbrev THM_CLOG_FILL : Fld := ⟨0x48000050, 48, 16⟩
abbrev THM_CLOG_FREE : Fld := ⟨0x48000050, 32, 16⟩
abbrev THM_CLOG_ACKS : Fld := ⟨0x48000050, 16, 16⟩

/-- THM_CNT — offset 0x058 (13_thimble_safety.md, R345). -/
abbrev A_THM_CNT : Nat := 0x48000058
abbrev THM_CNT_REQ_REF : Fld := ⟨0x48000058, 48, 16⟩
abbrev THM_CNT_PWD_FAIL : Fld := ⟨0x48000058, 32, 16⟩
abbrev THM_CNT_SBC_TEST : Fld := ⟨0x48000058, 16, 16⟩
abbrev THM_CNT_TM_BLIND : Fld := ⟨0x48000058, 0, 16⟩

/-- THM_ASCg — offset 0x100 + g × 8 (13_thimble_safety.md, R345). -/
abbrev A_THM_ASC (g : Nat) : Nat := 0x48000100 + g * 0x8
abbrev THM_ASC_ASC_ON (g : Nat) : Fld := ⟨0x48000100 + g * 0x8, 48, 16⟩
abbrev THM_ASC_ASC_OFF (g : Nat) : Fld := ⟨0x48000100 + g * 0x8, 32, 16⟩
abbrev THM_ASC_REST_SPD (g : Nat) : Fld := ⟨0x48000100 + g * 0x8, 24, 8⟩
abbrev THM_ASC_STO_ASC_MAX (g : Nat) : Fld := ⟨0x48000100 + g * 0x8, 16, 8⟩
abbrev THM_ASC_STO_ASC (g : Nat) : Fld := ⟨0x48000100 + g * 0x8, 1, 1⟩
abbrev THM_ASC_ASC_EN (g : Nat) : Fld := ⟨0x48000100 + g * 0x8, 0, 1⟩

/-- THM_SS1g — offset 0x110 + g × 8 (13_thimble_safety.md, R345). -/
abbrev A_THM_SS1 (g : Nat) : Nat := 0x48000110 + g * 0x8
abbrev THM_SS1_SS1_TMAX (g : Nat) : Fld := ⟨0x48000110 + g * 0x8, 48, 16⟩
abbrev THM_SS1_SS1_DEC (g : Nat) : Fld := ⟨0x48000110 + g * 0x8, 32, 16⟩
abbrev THM_SS1_SS1_T1 (g : Nat) : Fld := ⟨0x48000110 + g * 0x8, 24, 8⟩
abbrev THM_SS1_SS1_TOLN (g : Nat) : Fld := ⟨0x48000110 + g * 0x8, 16, 8⟩
abbrev THM_SS1_SS1_NSTOP (g : Nat) : Fld := ⟨0x48000110 + g * 0x8, 0, 16⟩

/-- THM_SBC — offset 0x120 (13_thimble_safety.md, R345). -/
abbrev A_THM_SBC : Nat := 0x48000120
abbrev THM_SBC_SBC_TB : Fld := ⟨0x48000120, 48, 16⟩
abbrev THM_SBC_SBC_TEST : Fld := ⟨0x48000120, 32, 16⟩
abbrev THM_SBC_I_MIN : Fld := ⟨0x48000120, 16, 16⟩
abbrev THM_SBC_SBC_ORDER : Fld := ⟨0x48000120, 8, 1⟩
abbrev THM_SBC_SBC_GRP : Fld := ⟨0x48000120, 4, 2⟩
abbrev THM_SBC_SBC_EN : Fld := ⟨0x48000120, 0, 1⟩

/-- THM_TMCFG — offset 0x128 (13_thimble_safety.md, R345). -/
abbrev A_THM_TMCFG : Nat := 0x48000128
abbrev THM_TMCFG_TOL_W : Fld := ⟨0x48000128, 48, 16⟩
abbrev THM_TMCFG_TOL_PCT : Fld := ⟨0x48000128, 40, 8⟩
abbrev THM_TMCFG_TM_N : Fld := ⟨0x48000128, 32, 8⟩
abbrev THM_TMCFG_TM_WIN_MS : Fld := ⟨0x48000128, 24, 8⟩
abbrev THM_TMCFG_TM_NMIN : Fld := ⟨0x48000128, 8, 16⟩
abbrev THM_TMCFG_TM_EN : Fld := ⟨0x48000128, 0, 1⟩

/-- THM_SICFG — offset 0x130 (13_thimble_safety.md, R345). -/
abbrev A_THM_SICFG : Nat := 0x48000130
abbrev THM_SICFG_DISC (i : Nat) : Fld := ⟨0x48000130, 16 * i + 8, 8⟩
abbrev THM_SICFG_TEST (i : Nat) : Fld := ⟨0x48000130, 16 * i + 7, 1⟩
abbrev THM_SICFG_ANTI (i : Nat) : Fld := ⟨0x48000130, 16 * i + 6, 1⟩
abbrev THM_SICFG_HOLD (i : Nat) : Fld := ⟨0x48000130, 16 * i + 5, 1⟩
abbrev THM_SICFG_GRP (i : Nat) : Fld := ⟨0x48000130, 16 * i + 3, 2⟩
abbrev THM_SICFG_FUNC (i : Nat) : Fld := ⟨0x48000130, 16 * i + 0, 2⟩

/-- THM_MISC — offset 0x138 (13_thimble_safety.md, R345). -/
abbrev A_THM_MISC : Nat := 0x48000138
abbrev THM_MISC_TUDC_GAIN : Fld := ⟨0x48000138, 48, 16⟩
abbrev THM_MISC_TIDC_GAIN : Fld := ⟨0x48000138, 32, 16⟩
abbrev THM_MISC_TIDC_ZERO : Fld := ⟨0x48000138, 20, 12⟩
abbrev THM_MISC_SI_FILT : Fld := ⟨0x48000138, 8, 8⟩
abbrev THM_MISC_AUTO_DIS : Fld := ⟨0x48000138, 2, 1⟩
abbrev THM_MISC_FN_SAFE : Fld := ⟨0x48000138, 1, 1⟩
abbrev THM_MISC_DIS_ON_LOSS : Fld := ⟨0x48000138, 0, 1⟩

/-- HEM_THMREQ — offset 0x0A8 (13_thimble_safety.md, R346). -/
abbrev A_HEM_THMREQ : Nat := 0x408000A8
abbrev HEM_THMREQ_TAG : Fld := ⟨0x408000A8, 48, 16⟩
abbrev HEM_THMREQ_LEN2 : Fld := ⟨0x408000A8, 40, 8⟩
abbrev HEM_THMREQ_LEN1 : Fld := ⟨0x408000A8, 32, 8⟩
abbrev HEM_THMREQ_CODE : Fld := ⟨0x408000A8, 0, 8⟩

/-- HEM_THMARGk — offset 0x0B0 + k × 8, k = 0 to 7 (13_thimble_safety.md, R346). -/
abbrev A_HEM_THMARG (k : Nat) : Nat := 0x408000B0 + k * 0x8
abbrev HEM_THMARG_ARG (k : Nat) : Fld := ⟨0x408000B0 + k * 0x8, 0, 64⟩

/-! ## 14_can_time.md -/

/-- CAN_CTLn — offset 0x000 (14_can_time.md, R375). -/
abbrev A_CAN_CTL (n : Nat) : Nat := 0x40900000 + n * 0x10000
abbrev CAN_CTL_TRX_MODE (n : Nat) : Fld := ⟨0x40900000 + n * 0x10000, 14, 2⟩
abbrev CAN_CTL_ACCEPT_ALL (n : Nat) : Fld := ⟨0x40900000 + n * 0x10000, 13, 1⟩
abbrev CAN_CTL_AUTO_REC (n : Nat) : Fld := ⟨0x40900000 + n * 0x10000, 12, 1⟩
abbrev CAN_CTL_RECOVER (n : Nat) : Fld := ⟨0x40900000 + n * 0x10000, 11, 1⟩
abbrev CAN_CTL_ONESHOT (n : Nat) : Fld := ⟨0x40900000 + n * 0x10000, 10, 1⟩
abbrev CAN_CTL_TXMODE (n : Nat) : Fld := ⟨0x40900000 + n * 0x10000, 9, 1⟩
abbrev CAN_CTL_LISTEN (n : Nat) : Fld := ⟨0x40900000 + n * 0x10000, 8, 1⟩
abbrev CAN_CTL_XL_EN (n : Nat) : Fld := ⟨0x40900000 + n * 0x10000, 5, 1⟩
abbrev CAN_CTL_FD_EN (n : Nat) : Fld := ⟨0x40900000 + n * 0x10000, 4, 1⟩
abbrev CAN_CTL_RUN (n : Nat) : Fld := ⟨0x40900000 + n * 0x10000, 0, 1⟩

/-- CAN_STATn — offset 0x008 (14_can_time.md, R375). -/
abbrev A_CAN_STAT (n : Nat) : Nat := 0x40900008 + n * 0x10000
abbrev CAN_STAT_TEC (n : Nat) : Fld := ⟨0x40900008 + n * 0x10000, 48, 9⟩
abbrev CAN_STAT_REC (n : Nat) : Fld := ⟨0x40900008 + n * 0x10000, 40, 8⟩
abbrev CAN_STAT_CFG_ERR (n : Nat) : Fld := ⟨0x40900008 + n * 0x10000, 32, 3⟩
abbrev CAN_STAT_TDCV (n : Nat) : Fld := ⟨0x40900008 + n * 0x10000, 24, 8⟩
abbrev CAN_STAT_LEC (n : Nat) : Fld := ⟨0x40900008 + n * 0x10000, 16, 3⟩
abbrev CAN_STAT_WARN (n : Nat) : Fld := ⟨0x40900008 + n * 0x10000, 3, 1⟩
abbrev CAN_STAT_STATE (n : Nat) : Fld := ⟨0x40900008 + n * 0x10000, 0, 3⟩

/-- CAN_NBTn — offset 0x010 (14_can_time.md, R375). -/
abbrev A_CAN_NBT (n : Nat) : Nat := 0x40900010 + n * 0x10000
abbrev CAN_NBT_TRIPLE (n : Nat) : Fld := ⟨0x40900010 + n * 0x10000, 56, 1⟩
abbrev CAN_NBT_NSJW (n : Nat) : Fld := ⟨0x40900010 + n * 0x10000, 48, 8⟩
abbrev CAN_NBT_NTSEG2 (n : Nat) : Fld := ⟨0x40900010 + n * 0x10000, 40, 8⟩
abbrev CAN_NBT_NTSEG1 (n : Nat) : Fld := ⟨0x40900010 + n * 0x10000, 16, 9⟩
abbrev CAN_NBT_NBRP (n : Nat) : Fld := ⟨0x40900010 + n * 0x10000, 0, 9⟩

/-- CAN_DBTn, CAN_XBTn — offsets 0x018 and 0x020 (14_can_time.md, R375). -/
abbrev A_CAN_DBT (n : Nat) : Nat := 0x40900018 + n * 0x10000
abbrev CAN_DBT_TDC_EN (n : Nat) : Fld := ⟨0x40900018 + n * 0x10000, 56, 1⟩
abbrev CAN_DBT_TDCO (n : Nat) : Fld := ⟨0x40900018 + n * 0x10000, 48, 8⟩
abbrev CAN_DBT_SJW (n : Nat) : Fld := ⟨0x40900018 + n * 0x10000, 40, 5⟩
abbrev CAN_DBT_TSEG2 (n : Nat) : Fld := ⟨0x40900018 + n * 0x10000, 32, 5⟩
abbrev CAN_DBT_TSEG1 (n : Nat) : Fld := ⟨0x40900018 + n * 0x10000, 16, 6⟩
abbrev CAN_DBT_BRP (n : Nat) : Fld := ⟨0x40900018 + n * 0x10000, 0, 6⟩

/-- CAN_DBTn, CAN_XBTn — offsets 0x018 and 0x020 (14_can_time.md, R375). -/
abbrev A_CAN_XBT (n : Nat) : Nat := 0x40900020 + n * 0x10000
abbrev CAN_XBT_ESO (n : Nat) : Fld := ⟨0x40900020 + n * 0x10000, 57, 1⟩
abbrev CAN_XBT_TDC_EN (n : Nat) : Fld := ⟨0x40900020 + n * 0x10000, 56, 1⟩
abbrev CAN_XBT_TDCO (n : Nat) : Fld := ⟨0x40900020 + n * 0x10000, 48, 8⟩
abbrev CAN_XBT_SJW (n : Nat) : Fld := ⟨0x40900020 + n * 0x10000, 40, 5⟩
abbrev CAN_XBT_TSEG2 (n : Nat) : Fld := ⟨0x40900020 + n * 0x10000, 32, 5⟩
abbrev CAN_XBT_TSEG1 (n : Nat) : Fld := ⟨0x40900020 + n * 0x10000, 16, 6⟩
abbrev CAN_XBT_BRP (n : Nat) : Fld := ⟨0x40900020 + n * 0x10000, 0, 6⟩

/-- CAN_TXCTLn — offset 0x028 (14_can_time.md, R375). -/
abbrev A_CAN_TXCTL (n : Nat) : Nat := 0x40900028 + n * 0x10000
abbrev CAN_TXCTL_FAIL_WHY (n : Nat) : Fld := ⟨0x40900028 + n * 0x10000, 20, 4⟩
abbrev CAN_TXCTL_TXFAIL (n : Nat) : Fld := ⟨0x40900028 + n * 0x10000, 16, 3⟩
abbrev CAN_TXCTL_TXDONE (n : Nat) : Fld := ⟨0x40900028 + n * 0x10000, 8, 3⟩
abbrev CAN_TXCTL_TXABORT (n : Nat) : Fld := ⟨0x40900028 + n * 0x10000, 4, 3⟩
abbrev CAN_TXCTL_TXREQ (n : Nat) : Fld := ⟨0x40900028 + n * 0x10000, 0, 3⟩

/-- CAN_RXFn — offset 0x030 (14_can_time.md, R375). -/
abbrev A_CAN_RXF (n : Nat) : Nat := 0x40900030 + n * 0x10000
abbrev CAN_RXF_LEVEL (n : Nat) : Fld := ⟨0x40900030 + n * 0x10000, 56, 8⟩
abbrev CAN_RXF_WM (n : Nat) : Fld := ⟨0x40900030 + n * 0x10000, 48, 8⟩
abbrev CAN_RXF_HEAD (n : Nat) : Fld := ⟨0x40900030 + n * 0x10000, 16, 16⟩
abbrev CAN_RXF_POP (n : Nat) : Fld := ⟨0x40900030 + n * 0x10000, 0, 1⟩

/-- CAN_HPn — offset 0x038 (14_can_time.md, R375). -/
abbrev A_CAN_HP (n : Nat) : Nat := 0x40900038 + n * 0x10000
abbrev CAN_HP_FULL (n : Nat) : Fld := ⟨0x40900038 + n * 0x10000, 0, 4⟩

/-- CAN_TIMEn — offset 0x040 (14_can_time.md, R375). -/
abbrev A_CAN_TIME (n : Nat) : Nat := 0x40900040 + n * 0x10000
abbrev CAN_TIME_DELAY_NS (n : Nat) : Fld := ⟨0x40900040 + n * 0x10000, 48, 16⟩
abbrev CAN_TIME_PERIOD_MS (n : Nat) : Fld := ⟨0x40900040 + n * 0x10000, 32, 16⟩
abbrev CAN_TIME_REF_IDE (n : Nat) : Fld := ⟨0x40900040 + n * 0x10000, 31, 1⟩
abbrev CAN_TIME_ROLE (n : Nat) : Fld := ⟨0x40900040 + n * 0x10000, 29, 2⟩
abbrev CAN_TIME_REF_ID (n : Nat) : Fld := ⟨0x40900040 + n * 0x10000, 0, 29⟩

/-- CAN_TOFFn, CAN_TREFn — offsets 0x048 and 0x050 (14_can_time.md, R375). -/
abbrev A_CAN_TOFF (n : Nat) : Nat := 0x40900048 + n * 0x10000
abbrev CAN_TOFF (n : Nat) : Fld := ⟨0x40900048 + n * 0x10000, 0, 64⟩

/-- CAN_TOFFn, CAN_TREFn — offsets 0x048 and 0x050 (14_can_time.md, R375). -/
abbrev A_CAN_TREF (n : Nat) : Nat := 0x40900050 + n * 0x10000
abbrev CAN_TREF (n : Nat) : Fld := ⟨0x40900050 + n * 0x10000, 0, 64⟩

/-- CAN_CNTn, CAN_CNT2n, CAN_CNT3n — offsets 0x058, 0x060 and 0x068 (14_can_time.md, R375). -/
abbrev A_CAN_CNT (n : Nat) : Nat := 0x40900058 + n * 0x10000
abbrev CAN_CNT_RX_OVF (n : Nat) : Fld := ⟨0x40900058 + n * 0x10000, 48, 16⟩
abbrev CAN_CNT_HP_OVF (n : Nat) : Fld := ⟨0x40900058 + n * 0x10000, 32, 16⟩
abbrev CAN_CNT_NOMATCH (n : Nat) : Fld := ⟨0x40900058 + n * 0x10000, 16, 16⟩
abbrev CAN_CNT_PROT_EXC (n : Nat) : Fld := ⟨0x40900058 + n * 0x10000, 0, 16⟩

/-- CAN_CNTn, CAN_CNT2n, CAN_CNT3n — offsets 0x058, 0x060 and 0x068 (14_can_time.md, R375). -/
abbrev A_CAN_CNT2 (n : Nat) : Nat := 0x40900060 + n * 0x10000
abbrev CAN_CNT2_BUS_OFF (n : Nat) : Fld := ⟨0x40900060 + n * 0x10000, 48, 16⟩
abbrev CAN_CNT2_DOM_TO (n : Nat) : Fld := ⟨0x40900060 + n * 0x10000, 32, 16⟩
abbrev CAN_CNT2_TXWR_REF (n : Nat) : Fld := ⟨0x40900060 + n * 0x10000, 16, 16⟩
abbrev CAN_CNT2_RWI_REF (n : Nat) : Fld := ⟨0x40900060 + n * 0x10000, 0, 16⟩

/-- CAN_CNTn, CAN_CNT2n, CAN_CNT3n — offsets 0x058, 0x060 and 0x068 (14_can_time.md, R375). -/
abbrev A_CAN_CNT3 (n : Nat) : Nat := 0x40900068 + n * 0x10000
abbrev CAN_CNT3_REF_SENT (n : Nat) : Fld := ⟨0x40900068 + n * 0x10000, 48, 16⟩
abbrev CAN_CNT3_REF_PAIRS (n : Nat) : Fld := ⟨0x40900068 + n * 0x10000, 32, 16⟩
abbrev CAN_CNT3_REF_DROP (n : Nat) : Fld := ⟨0x40900068 + n * 0x10000, 16, 16⟩
abbrev CAN_CNT3_CONFLICT (n : Nat) : Fld := ⟨0x40900068 + n * 0x10000, 0, 16⟩

/-- CAN_FLTn_k — offset 0x800 + k × 8, k = 0 to 127 (14_can_time.md, R375). -/
abbrev A_CAN_FLT (n k : Nat) : Nat := 0x40900800 + n * 0x10000 + k * 0x8
abbrev CAN_FLT_EN (n k : Nat) : Fld := ⟨0x40900800 + n * 0x10000 + k * 0x8, 63, 1⟩
abbrev CAN_FLT_ACT (n k : Nat) : Fld := ⟨0x40900800 + n * 0x10000 + k * 0x8, 61, 2⟩
abbrev CAN_FLT_FMT (n k : Nat) : Fld := ⟨0x40900800 + n * 0x10000 + k * 0x8, 59, 2⟩
abbrev CAN_FLT_IDE (n k : Nat) : Fld := ⟨0x40900800 + n * 0x10000 + k * 0x8, 58, 1⟩
abbrev CAN_FLT_MASK (n k : Nat) : Fld := ⟨0x40900800 + n * 0x10000 + k * 0x8, 29, 29⟩
abbrev CAN_FLT_ID (n k : Nat) : Fld := ⟨0x40900800 + n * 0x10000 + k * 0x8, 0, 29⟩

/-- ETH_CTL — offset 0x000 (14_can_time.md, R376). -/
abbrev A_ETH_CTL : Nat := 0x40A00000
abbrev ETH_CTL_AS_EN : Fld := ⟨0x40A00000, 7, 1⟩
abbrev ETH_CTL_HOST_EN : Fld := ⟨0x40A00000, 4, 1⟩
abbrev ETH_CTL_P1_EN : Fld := ⟨0x40A00000, 1, 1⟩
abbrev ETH_CTL_P0_EN : Fld := ⟨0x40A00000, 0, 1⟩

/-- ETH_PHYp — offset 0x008 + p × 8 (14_can_time.md, R376). -/
abbrev A_ETH_PHY (p : Nat) : Nat := 0x40A00008 + p * 0x8
abbrev ETH_PHY_SQI (p : Nat) : Fld := ⟨0x40A00008 + p * 0x8, 13, 3⟩
abbrev ETH_PHY_LINK (p : Nat) : Fld := ⟨0x40A00008 + p * 0x8, 12, 1⟩
abbrev ETH_PHY_ROLE (p : Nat) : Fld := ⟨0x40A00008 + p * 0x8, 0, 1⟩

/-- ETH_MACADDR — offset 0x018 (14_can_time.md, R376). -/
abbrev A_ETH_MACADDR : Nat := 0x40A00018
abbrev ETH_MACADDR_MAC : Fld := ⟨0x40A00018, 0, 48⟩

/-- ETH_TXRING, ETH_RXRING — offsets 0x020 and 0x028 (14_can_time.md, R376). -/
abbrev A_ETH_TXRING : Nat := 0x40A00020
abbrev ETH_TXRING_SIZE : Fld := ⟨0x40A00020, 48, 16⟩
abbrev ETH_TXRING_BASE : Fld := ⟨0x40A00020, 0, 40⟩

/-- ETH_TXRING, ETH_RXRING — offsets 0x020 and 0x028 (14_can_time.md, R376). -/
abbrev A_ETH_RXRING : Nat := 0x40A00028
abbrev ETH_RXRING_SIZE : Fld := ⟨0x40A00028, 48, 16⟩
abbrev ETH_RXRING_BASE : Fld := ⟨0x40A00028, 0, 40⟩

/-- ETH_DMA — offset 0x030 (14_can_time.md, R376). -/
abbrev A_ETH_DMA : Nat := 0x40A00030
abbrev ETH_DMA_TXIDX : Fld := ⟨0x40A00030, 48, 16⟩
abbrev ETH_DMA_RXIDX : Fld := ⟨0x40A00030, 32, 16⟩
abbrev ETH_DMA_TXKICK : Fld := ⟨0x40A00030, 0, 1⟩

/-- ETH_ASCFG — offset 0x038 (14_can_time.md, R376). -/
abbrev A_ETH_ASCFG : Nat := 0x40A00038
abbrev ETH_ASCFG_PRIO1 : Fld := ⟨0x40A00038, 56, 8⟩
abbrev ETH_ASCFG_PRIO2 : Fld := ⟨0x40A00038, 48, 8⟩
abbrev ETH_ASCFG_CLASS : Fld := ⟨0x40A00038, 40, 8⟩
abbrev ETH_ASCFG_LOG_SYNC : Fld := ⟨0x40A00038, 24, 8⟩
abbrev ETH_ASCFG_LOG_PDELAY : Fld := ⟨0x40A00038, 16, 8⟩
abbrev ETH_ASCFG_LOG_ANNOUNCE : Fld := ⟨0x40A00038, 8, 8⟩

/-- ETH_ASPORTp — offset 0x040 + p × 8 (14_can_time.md, R376). -/
abbrev A_ETH_ASPORT (p : Nat) : Nat := 0x40A00040 + p * 0x8
abbrev ETH_ASPORT_PDELAY_NS (p : Nat) : Fld := ⟨0x40A00040 + p * 0x8, 32, 32⟩
abbrev ETH_ASPORT_AS_CAPABLE (p : Nat) : Fld := ⟨0x40A00040 + p * 0x8, 7, 1⟩
abbrev ETH_ASPORT_AS_ROLE (p : Nat) : Fld := ⟨0x40A00040 + p * 0x8, 0, 2⟩

/-- ETH_GMID — offset 0x050 (14_can_time.md, R376). -/
abbrev A_ETH_GMID : Nat := 0x40A00050
abbrev ETH_GMID_GMID : Fld := ⟨0x40A00050, 0, 64⟩

/-- ETH_CNTp, ETH_CNT — offsets 0x058 + p × 8 and 0x068 (14_can_time.md, R376). -/
abbrev A_ETH_CNT (p : Nat) : Nat := 0x40A00058 + p * 0x8
abbrev ETH_CNT_RX_DROP (p : Nat) : Fld := ⟨0x40A00058 + p * 0x8, 48, 16⟩
abbrev ETH_CNT_TX_DROP (p : Nat) : Fld := ⟨0x40A00058 + p * 0x8, 32, 16⟩
abbrev ETH_CNT_CRC_ERR (p : Nat) : Fld := ⟨0x40A00058 + p * 0x8, 16, 16⟩
abbrev ETH_CNT_LINK_DOWN (p : Nat) : Fld := ⟨0x40A00058 + p * 0x8, 0, 16⟩

/-- ETH_CNTp, ETH_CNT — offsets 0x058 + p × 8 and 0x068 (14_can_time.md, R376). -/
abbrev A_ETH_CCNT : Nat := 0x40A00068
abbrev ETH_CCNT_RX_OVF : Fld := ⟨0x40A00068, 48, 16⟩
abbrev ETH_CCNT_SYNC_LOST : Fld := ⟨0x40A00068, 32, 16⟩
abbrev ETH_CCNT_PDELAY_FAIL : Fld := ⟨0x40A00068, 16, 16⟩
abbrev ETH_CCNT_RWI_REF : Fld := ⟨0x40A00068, 0, 16⟩

/-! ## 15_safety_frames_domain.md -/

/-- SFL_DOMCFG — offset 0x000 (15_safety_frames_domain.md, R399). -/
abbrev A_SFL_DOMCFG : Nat := 0x40B00000
abbrev SFL_DOMCFG_FORM_DELAY_MS : Fld := ⟨0x40B00000, 48, 16⟩
abbrev SFL_DOMCFG_GM_PRIO1 : Fld := ⟨0x40B00000, 40, 8⟩
abbrev SFL_DOMCFG_CRC_MAX : Fld := ⟨0x40B00000, 32, 8⟩
abbrev SFL_DOMCFG_DPP : Fld := ⟨0x40B00000, 24, 5⟩
abbrev SFL_DOMCFG_SEG_CAN : Fld := ⟨0x40B00000, 18, 2⟩
abbrev SFL_DOMCFG_GW_CAND : Fld := ⟨0x40B00000, 17, 1⟩
abbrev SFL_DOMCFG_EN : Fld := ⟨0x40B00000, 16, 1⟩
abbrev SFL_DOMCFG_EXP_SEGS : Fld := ⟨0x40B00000, 0, 10⟩

/-- SFL_DOMSTAT — offset 0x008 (15_safety_frames_domain.md, R399). -/
abbrev A_SFL_DOMSTAT : Nat := 0x40B00008
abbrev SFL_DOMSTAT_SEG_NUM : Fld := ⟨0x40B00008, 48, 16⟩
abbrev SFL_DOMSTAT_MEMBERS : Fld := ⟨0x40B00008, 40, 8⟩
abbrev SFL_DOMSTAT_DPV : Fld := ⟨0x40B00008, 36, 4⟩
abbrev SFL_DOMSTAT_SLOT : Fld := ⟨0x40B00008, 27, 5⟩
abbrev SFL_DOMSTAT_GW : Fld := ⟨0x40B00008, 18, 1⟩
abbrev SFL_DOMSTAT_LEADER : Fld := ⟨0x40B00008, 17, 1⟩
abbrev SFL_DOMSTAT_GM : Fld := ⟨0x40B00008, 16, 1⟩
abbrev SFL_DOMSTAT_STATE : Fld := ⟨0x40B00008, 0, 4⟩

/-- SFL_LEADERID, SFL_GWID — offsets 0x010 and 0x018 (15_safety_frames_domain.md, R399). -/
abbrev A_SFL_LEADERID : Nat := 0x40B00010
abbrev SFL_LEADERID_UID : Fld := ⟨0x40B00010, 0, 64⟩

/-- SFL_LEADERID, SFL_GWID — offsets 0x010 and 0x018 (15_safety_frames_domain.md, R399). -/
abbrev A_SFL_GWID : Nat := 0x40B00018
abbrev SFL_GWID_UID : Fld := ⟨0x40B00018, 0, 64⟩

/-- SFL_FORMT — offset 0x020 (15_safety_frames_domain.md, R399). -/
abbrev A_SFL_FORMT : Nat := 0x40B00020
abbrev SFL_FORMT_SEG_MS : Fld := ⟨0x40B00020, 48, 16⟩
abbrev SFL_FORMT_TRUNK_MS : Fld := ⟨0x40B00020, 32, 16⟩
abbrev SFL_FORMT_DIR_MS : Fld := ⟨0x40B00020, 16, 16⟩
abbrev SFL_FORMT_FORMED_MS : Fld := ⟨0x40B00020, 0, 16⟩

/-- SFL_DOMCNT — offset 0x028 (15_safety_frames_domain.md, R399). -/
abbrev A_SFL_DOMCNT : Nat := 0x40B00028
abbrev SFL_DOMCNT_LATE_JOIN : Fld := ⟨0x40B00028, 48, 16⟩
abbrev SFL_DOMCNT_HANDOVER : Fld := ⟨0x40B00028, 32, 16⟩
abbrev SFL_DOMCNT_VER_REF : Fld := ⟨0x40B00028, 16, 16⟩
abbrev SFL_DOMCNT_RWI_REF : Fld := ⟨0x40B00028, 0, 16⟩

/-- SFL_TXCTL — offset 0x040 (15_safety_frames_domain.md, R399). -/
abbrev A_SFL_TXCTL : Nat := 0x40B00040
abbrev SFL_TXCTL_LEN : Fld := ⟨0x40B00040, 16, 16⟩
abbrev SFL_TXCTL_CONN : Fld := ⟨0x40B00040, 8, 8⟩
abbrev SFL_TXCTL_LEVEL : Fld := ⟨0x40B00040, 1, 5⟩
abbrev SFL_TXCTL_TX_POP : Fld := ⟨0x40B00040, 0, 1⟩

/-- SFL_RXCTL — offset 0x048 (15_safety_frames_domain.md, R399). -/
abbrev A_SFL_RXCTL : Nat := 0x40B00048
abbrev SFL_RXCTL_RESULT : Fld := ⟨0x40B00048, 40, 8⟩
abbrev SFL_RXCTL_CONN : Fld := ⟨0x40B00048, 32, 8⟩
abbrev SFL_RXCTL_SUBMIT : Fld := ⟨0x40B00048, 0, 16⟩

/-- SFL_APPSEND — offset 0x050 (15_safety_frames_domain.md, R399). -/
abbrev A_SFL_APPSEND : Nat := 0x40B00050
abbrev SFL_APPSEND_LEN : Fld := ⟨0x40B00050, 8, 8⟩
abbrev SFL_APPSEND_CONN : Fld := ⟨0x40B00050, 0, 8⟩

/-- SFL_CNT — offset 0x058 (15_safety_frames_domain.md, R399). -/
abbrev A_SFL_CNT : Nat := 0x40B00058
abbrev SFL_CNT_REJECTED : Fld := ⟨0x40B00058, 48, 16⟩
abbrev SFL_CNT_CRC_ERR : Fld := ⟨0x40B00058, 32, 16⟩
abbrev SFL_CNT_TIMEOUT : Fld := ⟨0x40B00058, 16, 16⟩
abbrev SFL_CNT_TX_DROP : Fld := ⟨0x40B00058, 0, 16⟩

/-- SFL_CCFGk — offset 0x1000 + k × 0x20 (15_safety_frames_domain.md, R399). -/
abbrev A_SFL_CCFG (k : Nat) : Nat := 0x40B01000 + k * 0x20
abbrev SFL_CCFG_EN (k : Nat) : Fld := ⟨0x40B01000 + k * 0x20, 63, 1⟩
abbrev SFL_CCFG_DIR (k : Nat) : Fld := ⟨0x40B01000 + k * 0x20, 62, 1⟩
abbrev SFL_CCFG_CLASS (k : Nat) : Fld := ⟨0x40B01000 + k * 0x20, 61, 1⟩
abbrev SFL_CCFG_FUNC (k : Nat) : Fld := ⟨0x40B01000 + k * 0x20, 56, 2⟩
abbrev SFL_CCFG_GRP (k : Nat) : Fld := ⟨0x40B01000 + k * 0x20, 54, 2⟩
abbrev SFL_CCFG_PAIRS (k : Nat) : Fld := ⟨0x40B01000 + k * 0x20, 48, 4⟩
abbrev SFL_CCFG_TEXP (k : Nat) : Fld := ⟨0x40B01000 + k * 0x20, 32, 16⟩
abbrev SFL_CCFG_CONN_ID (k : Nat) : Fld := ⟨0x40B01000 + k * 0x20, 0, 32⟩

/-- SFL_CPEERk — offset 0x1008 + k × 0x20 (15_safety_frames_domain.md, R399). -/
abbrev A_SFL_CPEER (k : Nat) : Nat := 0x40B01008 + k * 0x20
abbrev SFL_CPEER_UID (k : Nat) : Fld := ⟨0x40B01008 + k * 0x20, 0, 64⟩

/-- SFL_CSTATk — offset 0x1010 + k × 0x20 (15_safety_frames_domain.md, R399). -/
abbrev A_SFL_CSTAT (k : Nat) : Nat := 0x40B01010 + k * 0x20
abbrev SFL_CSTAT_SEQ (k : Nat) : Fld := ⟨0x40B01010 + k * 0x20, 48, 16⟩
abbrev SFL_CSTAT_VER (k : Nat) : Fld := ⟨0x40B01010 + k * 0x20, 44, 4⟩
abbrev SFL_CSTAT_LAST_REJ (k : Nat) : Fld := ⟨0x40B01010 + k * 0x20, 40, 4⟩
abbrev SFL_CSTAT_CRC_1S (k : Nat) : Fld := ⟨0x40B01010 + k * 0x20, 32, 8⟩
abbrev SFL_CSTAT_LOST (k : Nat) : Fld := ⟨0x40B01010 + k * 0x20, 16, 16⟩
abbrev SFL_CSTAT_STATE (k : Nat) : Fld := ⟨0x40B01010 + k * 0x20, 0, 2⟩

/-- CRC_CFGu — offset 0x000 (15_safety_frames_domain.md, R400). -/
abbrev A_CRC_CFG (u : Nat) : Nat := 0x40C00000 + u * 0x1000
abbrev CRC_CFG_ALG (u : Nat) : Fld := ⟨0x40C00000 + u * 0x1000, 0, 3⟩

/-- CRC_CTLu — offset 0x008 (15_safety_frames_domain.md, R400). -/
abbrev A_CRC_CTL (u : Nat) : Nat := 0x40C00008 + u * 0x1000
abbrev CRC_CTL_ERRS (u : Nat) : Fld := ⟨0x40C00008 + u * 0x1000, 48, 16⟩
abbrev CRC_CTL_REF (u : Nat) : Fld := ⟨0x40C00008 + u * 0x1000, 32, 16⟩
abbrev CRC_CTL_ERR (u : Nat) : Fld := ⟨0x40C00008 + u * 0x1000, 5, 1⟩
abbrev CRC_CTL_BUSY (u : Nat) : Fld := ⟨0x40C00008 + u * 0x1000, 4, 1⟩
abbrev CRC_CTL_STOP (u : Nat) : Fld := ⟨0x40C00008 + u * 0x1000, 2, 1⟩
abbrev CRC_CTL_GO (u : Nat) : Fld := ⟨0x40C00008 + u * 0x1000, 1, 1⟩
abbrev CRC_CTL_INIT (u : Nat) : Fld := ⟨0x40C00008 + u * 0x1000, 0, 1⟩

/-- CRC_VALu, CRC_RESu — offsets 0x010 and 0x018 (15_safety_frames_domain.md, R400). -/
abbrev A_CRC_VAL (u : Nat) : Nat := 0x40C00010 + u * 0x1000
abbrev CRC_VAL (u : Nat) : Fld := ⟨0x40C00010 + u * 0x1000, 0, 64⟩

/-- CRC_VALu, CRC_RESu — offsets 0x010 and 0x018 (15_safety_frames_domain.md, R400). -/
abbrev A_CRC_RES (u : Nat) : Nat := 0x40C00018 + u * 0x1000
abbrev CRC_RES (u : Nat) : Fld := ⟨0x40C00018 + u * 0x1000, 0, 64⟩

/-- CRC_DATAu — offset 0x020 (15_safety_frames_domain.md, R400). -/
abbrev A_CRC_DATA (u : Nat) : Nat := 0x40C00020 + u * 0x1000
abbrev CRC_DATA_DATA (u : Nat) : Fld := ⟨0x40C00020 + u * 0x1000, 0, 64⟩

/-- CRC_ADDRu, CRC_LENu — offsets 0x028 and 0x030 (15_safety_frames_domain.md, R400). -/
abbrev A_CRC_ADDR (u : Nat) : Nat := 0x40C00028 + u * 0x1000
abbrev CRC_ADDR (u : Nat) : Fld := ⟨0x40C00028 + u * 0x1000, 0, 40⟩

/-- CRC_ADDRu, CRC_LENu — offsets 0x028 and 0x030 (15_safety_frames_domain.md, R400). -/
abbrev A_CRC_LEN (u : Nat) : Nat := 0x40C00030 + u * 0x1000
abbrev CRC_LEN (u : Nat) : Fld := ⟨0x40C00030 + u * 0x1000, 0, 40⟩

/-! ## 16_local_links.md -/

/-- SPI_HCNT — offset 0x000 (16_local_links.md, R425). -/
abbrev A_SPI_HCNT : Nat := 0x40D00000
abbrev SPI_HCNT_FRAMES : Fld := ⟨0x40D00000, 48, 16⟩
abbrev SPI_HCNT_CRC_ERR : Fld := ⟨0x40D00000, 32, 16⟩
abbrev SPI_HCNT_BUSY_DISC : Fld := ⟨0x40D00000, 16, 16⟩
abbrev SPI_HCNT_TRUNC : Fld := ⟨0x40D00000, 0, 16⟩

/-- SPI_M0CFG — offset 0x100 (16_local_links.md, R425). -/
abbrev A_SPI_M0CFG : Nat := 0x40D00100
abbrev SPI_M0CFG_RX_DLY : Fld := ⟨0x40D00100, 24, 8⟩
abbrev SPI_M0CFG_CSH : Fld := ⟨0x40D00100, 16, 8⟩
abbrev SPI_M0CFG_DIV : Fld := ⟨0x40D00100, 0, 8⟩

/-- SPI_M0CMD — offset 0x108 (16_local_links.md, R425). -/
abbrev A_SPI_M0CMD : Nat := 0x40D00108
abbrev SPI_M0CMD_LEN : Fld := ⟨0x40D00108, 48, 16⟩
abbrev SPI_M0CMD_DIR : Fld := ⟨0x40D00108, 47, 1⟩
abbrev SPI_M0CMD_DQS : Fld := ⟨0x40D00108, 46, 1⟩
abbrev SPI_M0CMD_DUMMY : Fld := ⟨0x40D00108, 41, 5⟩
abbrev SPI_M0CMD_ADDR_BYTES : Fld := ⟨0x40D00108, 39, 2⟩
abbrev SPI_M0CMD_ADDR_LN : Fld := ⟨0x40D00108, 37, 2⟩
abbrev SPI_M0CMD_ADDR_DDR : Fld := ⟨0x40D00108, 36, 1⟩
abbrev SPI_M0CMD_DATA_LN : Fld := ⟨0x40D00108, 34, 2⟩
abbrev SPI_M0CMD_DATA_DDR : Fld := ⟨0x40D00108, 33, 1⟩
abbrev SPI_M0CMD_CMD_LN : Fld := ⟨0x40D00108, 31, 2⟩
abbrev SPI_M0CMD_CMD_DDR : Fld := ⟨0x40D00108, 30, 1⟩
abbrev SPI_M0CMD_CMD_2B : Fld := ⟨0x40D00108, 29, 1⟩
abbrev SPI_M0CMD_OPC2 : Fld := ⟨0x40D00108, 8, 8⟩
abbrev SPI_M0CMD_OPC : Fld := ⟨0x40D00108, 0, 8⟩

/-- SPI_M0ADDR, SPI_M0BUF — offsets 0x110 and 0x118 (16_local_links.md, R425). -/
abbrev A_SPI_M0ADDR : Nat := 0x40D00110
abbrev SPI_M0ADDR : Fld := ⟨0x40D00110, 0, 40⟩

/-- SPI_M0ADDR, SPI_M0BUF — offsets 0x110 and 0x118 (16_local_links.md, R425). -/
abbrev A_SPI_M0BUF : Nat := 0x40D00118
abbrev SPI_M0BUF : Fld := ⟨0x40D00118, 0, 40⟩

/-- SPI_M0CTL — offset 0x120 (16_local_links.md, R425). -/
abbrev A_SPI_M0CTL : Nat := 0x40D00120
abbrev SPI_M0CTL_RESULT : Fld := ⟨0x40D00120, 4, 4⟩
abbrev SPI_M0CTL_BUSY : Fld := ⟨0x40D00120, 1, 1⟩
abbrev SPI_M0CTL_GO : Fld := ⟨0x40D00120, 0, 1⟩

/-- SPI_M0MAP, SPI_M0PROT — offsets 0x128 and 0x130 (16_local_links.md, R425). -/
abbrev A_SPI_M0MAP : Nat := 0x40D00128
abbrev SPI_M0MAP : Fld := ⟨0x40D00128, 0, 64⟩

/-- SPI_M0MAP, SPI_M0PROT — offsets 0x128 and 0x130 (16_local_links.md, R425). -/
abbrev A_SPI_M0PROT : Nat := 0x40D00130
abbrev SPI_M0PROT : Fld := ⟨0x40D00130, 0, 64⟩

/-- SPI_M0CNT — offset 0x138 (16_local_links.md, R425). -/
abbrev A_SPI_M0CNT : Nat := 0x40D00138
abbrev SPI_M0CNT_OPS : Fld := ⟨0x40D00138, 48, 16⟩
abbrev SPI_M0CNT_TIMEOUTS : Fld := ⟨0x40D00138, 32, 16⟩
abbrev SPI_M0CNT_WIN_BUSY : Fld := ⟨0x40D00138, 16, 16⟩
abbrev SPI_M0CNT_RWI_REF : Fld := ⟨0x40D00138, 0, 16⟩

/-- SPI_M1CFGs — offset 0x200 + s × 8, s = 0 to 3 (16_local_links.md, R425). -/
abbrev A_SPI_M1CFG (s : Nat) : Nat := 0x40D00200 + s * 0x8
abbrev SPI_M1CFG_DIV (s : Nat) : Fld := ⟨0x40D00200 + s * 0x8, 24, 8⟩
abbrev SPI_M1CFG_CSS (s : Nat) : Fld := ⟨0x40D00200 + s * 0x8, 16, 8⟩
abbrev SPI_M1CFG_CSH (s : Nat) : Fld := ⟨0x40D00200 + s * 0x8, 8, 8⟩
abbrev SPI_M1CFG_LSB (s : Nat) : Fld := ⟨0x40D00200 + s * 0x8, 2, 1⟩
abbrev SPI_M1CFG_CPOL (s : Nat) : Fld := ⟨0x40D00200 + s * 0x8, 1, 1⟩
abbrev SPI_M1CFG_CPHA (s : Nat) : Fld := ⟨0x40D00200 + s * 0x8, 0, 1⟩

/-- SPI_M1TX — offset 0x220 (16_local_links.md, R425). -/
abbrev A_SPI_M1TX : Nat := 0x40D00220
abbrev SPI_M1TX_CONT : Fld := ⟨0x40D00220, 63, 1⟩
abbrev SPI_M1TX_LONG : Fld := ⟨0x40D00220, 62, 1⟩
abbrev SPI_M1TX_CS : Fld := ⟨0x40D00220, 60, 2⟩
abbrev SPI_M1TX_BITS : Fld := ⟨0x40D00220, 48, 5⟩
abbrev SPI_M1TX_DATA : Fld := ⟨0x40D00220, 0, 32⟩

/-- SPI_M1RX — offset 0x228 (16_local_links.md, R425). -/
abbrev A_SPI_M1RX : Nat := 0x40D00228
abbrev SPI_M1RX_LEVEL : Fld := ⟨0x40D00228, 56, 8⟩
abbrev SPI_M1RX_POP : Fld := ⟨0x40D00228, 32, 1⟩
abbrev SPI_M1RX_DATA : Fld := ⟨0x40D00228, 0, 32⟩

/-- SPI_M1LONG — offset 0x230 (16_local_links.md, R425). -/
abbrev A_SPI_M1LONG : Nat := 0x40D00230
abbrev SPI_M1LONG_BITS : Fld := ⟨0x40D00230, 48, 16⟩
abbrev SPI_M1LONG_ADDR : Fld := ⟨0x40D00230, 0, 40⟩

/-- SPI_M1STAT — offset 0x238 (16_local_links.md, R425). -/
abbrev A_SPI_M1STAT : Nat := 0x40D00238
abbrev SPI_M1STAT_Q_FULL : Fld := ⟨0x40D00238, 48, 16⟩
abbrev SPI_M1STAT_RX_OVF : Fld := ⟨0x40D00238, 32, 16⟩
abbrev SPI_M1STAT_CONT_BREAK : Fld := ⟨0x40D00238, 16, 16⟩
abbrev SPI_M1STAT_QLEVEL : Fld := ⟨0x40D00238, 4, 5⟩
abbrev SPI_M1STAT_HELD : Fld := ⟨0x40D00238, 2, 1⟩
abbrev SPI_M1STAT_BUSY : Fld := ⟨0x40D00238, 0, 1⟩

/-- LUA_CFGn — offset 0x000 (16_local_links.md, R426). -/
abbrev A_LUA_CFG (n : Nat) : Nat := 0x40D10000 + n * 0x100
abbrev LUA_CFG_DIV (n : Nat) : Fld := ⟨0x40D10000 + n * 0x100, 48, 16⟩
abbrev LUA_CFG_FRAC (n : Nat) : Fld := ⟨0x40D10000 + n * 0x100, 44, 4⟩
abbrev LUA_CFG_BRK (n : Nat) : Fld := ⟨0x40D10000 + n * 0x100, 32, 8⟩
abbrev LUA_CFG_PAR (n : Nat) : Fld := ⟨0x40D10000 + n * 0x100, 6, 2⟩
abbrev LUA_CFG_STOP2 (n : Nat) : Fld := ⟨0x40D10000 + n * 0x100, 5, 1⟩
abbrev LUA_CFG_CMDR (n : Nat) : Fld := ⟨0x40D10000 + n * 0x100, 4, 1⟩
abbrev LUA_CFG_MODE (n : Nat) : Fld := ⟨0x40D10000 + n * 0x100, 2, 2⟩
abbrev LUA_CFG_EN (n : Nat) : Fld := ⟨0x40D10000 + n * 0x100, 0, 1⟩

/-- LUA_DATAn — offset 0x008 (16_local_links.md, R426). -/
abbrev A_LUA_DATA (n : Nat) : Nat := 0x40D10008 + n * 0x100
abbrev LUA_DATA_RX_LEVEL (n : Nat) : Fld := ⟨0x40D10008 + n * 0x100, 56, 8⟩
abbrev LUA_DATA_TX_LEVEL (n : Nat) : Fld := ⟨0x40D10008 + n * 0x100, 48, 8⟩
abbrev LUA_DATA_PE (n : Nat) : Fld := ⟨0x40D10008 + n * 0x100, 18, 1⟩
abbrev LUA_DATA_FE (n : Nat) : Fld := ⟨0x40D10008 + n * 0x100, 17, 1⟩
abbrev LUA_DATA_POP (n : Nat) : Fld := ⟨0x40D10008 + n * 0x100, 16, 1⟩
abbrev LUA_DATA_RX (n : Nat) : Fld := ⟨0x40D10008 + n * 0x100, 8, 8⟩
abbrev LUA_DATA_TX (n : Nat) : Fld := ⟨0x40D10008 + n * 0x100, 0, 8⟩

/-- LUA_LINn — offset 0x010 (16_local_links.md, R426). -/
abbrev A_LUA_LIN (n : Nat) : Nat := 0x40D10010 + n * 0x100
abbrev LUA_LIN_GO (n : Nat) : Fld := ⟨0x40D10010 + n * 0x100, 56, 1⟩
abbrev LUA_LIN_DIR (n : Nat) : Fld := ⟨0x40D10010 + n * 0x100, 54, 2⟩
abbrev LUA_LIN_ENH (n : Nat) : Fld := ⟨0x40D10010 + n * 0x100, 53, 1⟩
abbrev LUA_LIN_LEN (n : Nat) : Fld := ⟨0x40D10010 + n * 0x100, 48, 4⟩
abbrev LUA_LIN_ID (n : Nat) : Fld := ⟨0x40D10010 + n * 0x100, 32, 6⟩
abbrev LUA_LIN_RESULT (n : Nat) : Fld := ⟨0x40D10010 + n * 0x100, 4, 4⟩
abbrev LUA_LIN_BUSY (n : Nat) : Fld := ⟨0x40D10010 + n * 0x100, 0, 1⟩

/-- LUA_LDATAn — offset 0x018; LUA_RSPDn_k — offset 0x028 + k × 16, k = 0 to 3; 64 bits, atomic-64 (16_local_links.md, R426). -/
abbrev A_LUA_LDATA (n : Nat) : Nat := 0x40D10018 + n * 0x100
abbrev LUA_LDATA_DATA (n : Nat) : Fld := ⟨0x40D10018 + n * 0x100, 0, 64⟩

/-- LUA_LDATAn — offset 0x018; LUA_RSPDn_k — offset 0x028 + k × 16, k = 0 to 3; 64 bits, atomic-64 (16_local_links.md, R426). -/
abbrev A_LUA_RSPD (n k : Nat) : Nat := 0x40D10028 + n * 0x100 + k * 0x10
abbrev LUA_RSPD_DATA (n k : Nat) : Fld := ⟨0x40D10028 + n * 0x100 + k * 0x10, 0, 64⟩

/-- LUA_RSPn_k — offset 0x020 + k × 16, k = 0 to 3 (16_local_links.md, R426). -/
abbrev A_LUA_RSP (n k : Nat) : Nat := 0x40D10020 + n * 0x100 + k * 0x10
abbrev LUA_RSP_EN (n k : Nat) : Fld := ⟨0x40D10020 + n * 0x100 + k * 0x10, 63, 1⟩
abbrev LUA_RSP_SEND (n k : Nat) : Fld := ⟨0x40D10020 + n * 0x100 + k * 0x10, 62, 1⟩
abbrev LUA_RSP_ENH (n k : Nat) : Fld := ⟨0x40D10020 + n * 0x100 + k * 0x10, 61, 1⟩
abbrev LUA_RSP_DONE (n k : Nat) : Fld := ⟨0x40D10020 + n * 0x100 + k * 0x10, 60, 1⟩
abbrev LUA_RSP_LEN (n k : Nat) : Fld := ⟨0x40D10020 + n * 0x100 + k * 0x10, 56, 4⟩
abbrev LUA_RSP_ID (n k : Nat) : Fld := ⟨0x40D10020 + n * 0x100 + k * 0x10, 48, 6⟩

/-- LUA_CNTn — offset 0x060; LUA_CNT2n — offset 0x068; 64 bits (16_local_links.md, R426). -/
abbrev A_LUA_CNT (n : Nat) : Nat := 0x40D10060 + n * 0x100
abbrev LUA_CNT_FRAMING (n : Nat) : Fld := ⟨0x40D10060 + n * 0x100, 48, 16⟩
abbrev LUA_CNT_PARITY (n : Nat) : Fld := ⟨0x40D10060 + n * 0x100, 32, 16⟩
abbrev LUA_CNT_OVF (n : Nat) : Fld := ⟨0x40D10060 + n * 0x100, 16, 16⟩
abbrev LUA_CNT_LIN_ERR (n : Nat) : Fld := ⟨0x40D10060 + n * 0x100, 0, 16⟩

/-- LUA_CNTn — offset 0x060; LUA_CNT2n — offset 0x068; 64 bits (16_local_links.md, R426). -/
abbrev A_LUA_CNT2 (n : Nat) : Nat := 0x40D10068 + n * 0x100
abbrev LUA_CNT2_EARLY_START (n : Nat) : Fld := ⟨0x40D10068 + n * 0x100, 48, 16⟩
abbrev LUA_CNT2_BREAK (n : Nat) : Fld := ⟨0x40D10068 + n * 0x100, 32, 16⟩
abbrev LUA_CNT2_HEADERS (n : Nat) : Fld := ⟨0x40D10068 + n * 0x100, 16, 16⟩
abbrev LUA_CNT2_RWI_REF (n : Nat) : Fld := ⟨0x40D10068 + n * 0x100, 0, 16⟩

/-- NFC_CTL — offset 0x000 (16_local_links.md, R427). -/
abbrev A_NFC_CTL : Nat := 0x40E00000
abbrev NFC_CTL_PAGE : Fld := ⟨0x40E00000, 8, 6⟩
abbrev NFC_CTL_OP : Fld := ⟨0x40E00000, 0, 2⟩

/-- NFC_STAT — offset 0x008 (16_local_links.md, R427). -/
abbrev A_NFC_STAT : Nat := 0x40E00008
abbrev NFC_STAT_DIRTY : Fld := ⟨0x40E00008, 56, 8⟩
abbrev NFC_STAT_RESULT : Fld := ⟨0x40E00008, 16, 4⟩
abbrev NFC_STAT_FIELD : Fld := ⟨0x40E00008, 2, 1⟩
abbrev NFC_STAT_BUSY : Fld := ⟨0x40E00008, 0, 1⟩

/-- NFC_CFG — offset 0x010 (16_local_links.md, R427). -/
abbrev A_NFC_CFG : Nat := 0x40E00010
abbrev NFC_CFG_LAYOUT : Fld := ⟨0x40E00010, 16, 8⟩
abbrev NFC_CFG_GONE_MS : Fld := ⟨0x40E00010, 0, 16⟩

/-- NFC_CNT — offset 0x018 (16_local_links.md, R427). -/
abbrev A_NFC_CNT : Nat := 0x40E00018
abbrev NFC_CNT_COMMITS : Fld := ⟨0x40E00018, 48, 16⟩
abbrev NFC_CNT_BUSY_RESP : Fld := ⟨0x40E00018, 32, 16⟩
abbrev NFC_CNT_FIELD_CMDS : Fld := ⟨0x40E00018, 16, 16⟩
abbrev NFC_CNT_WAIT_OVR : Fld := ⟨0x40E00018, 0, 16⟩

/-- FLW_CFG — offset 0x000 (16_local_links.md, R428). -/
abbrev A_FLW_CFG : Nat := 0x40E10000
abbrev FLW_CFG_STALE_MS : Fld := ⟨0x40E10000, 48, 16⟩
abbrev FLW_CFG_PERIOD_MS : Fld := ⟨0x40E10000, 40, 8⟩
abbrev FLW_CFG_NCYC : Fld := ⟨0x40E10000, 32, 8⟩
abbrev FLW_CFG_FBURST : Fld := ⟨0x40E10000, 24, 8⟩
abbrev FLW_CFG_RX_START : Fld := ⟨0x40E10000, 16, 8⟩
abbrev FLW_CFG_RX_END : Fld := ⟨0x40E10000, 8, 8⟩
abbrev FLW_CFG_AVG : Fld := ⟨0x40E10000, 4, 4⟩
abbrev FLW_CFG_EVT : Fld := ⟨0x40E10000, 1, 1⟩
abbrev FLW_CFG_EN : Fld := ⟨0x40E10000, 0, 1⟩

/-- FLW_GEOM — offset 0x008 (16_local_links.md, R428). -/
abbrev A_FLW_GEOM : Nat := 0x40E10008
abbrev FLW_GEOM_L : Fld := ⟨0x40E10008, 48, 16⟩
abbrev FLW_GEOM_COS : Fld := ⟨0x40E10008, 32, 16⟩
abbrev FLW_GEOM_AREA : Fld := ⟨0x40E10008, 16, 16⟩
abbrev FLW_GEOM_K : Fld := ⟨0x40E10008, 0, 16⟩

/-- FLW_LIM — offset 0x010 (16_local_links.md, R428). -/
abbrev A_FLW_LIM : Nat := 0x40E10010
abbrev FLW_LIM_T_OFF : Fld := ⟨0x40E10010, 48, 16⟩
abbrev FLW_LIM_AMP_MIN : Fld := ⟨0x40E10010, 32, 16⟩
abbrev FLW_LIM_AMP_MAX : Fld := ⟨0x40E10010, 16, 16⟩
abbrev FLW_LIM_Q_MIN : Fld := ⟨0x40E10010, 0, 16⟩

/-- FLW_RES — offset 0x018 (16_local_links.md, R428). -/
abbrev A_FLW_RES : Nat := 0x40E10018
abbrev FLW_RES_FLOW : Fld := ⟨0x40E10018, 32, 32⟩
abbrev FLW_RES_C : Fld := ⟨0x40E10018, 16, 16⟩
abbrev FLW_RES_AGE_MS : Fld := ⟨0x40E10018, 0, 16⟩

/-- FLW_DIAG — offset 0x020 (16_local_links.md, R428). -/
abbrev A_FLW_DIAG : Nat := 0x40E10020
abbrev FLW_DIAG_AMP_D : Fld := ⟨0x40E10020, 48, 16⟩
abbrev FLW_DIAG_AMP_U : Fld := ⟨0x40E10020, 32, 16⟩
abbrev FLW_DIAG_Q_D : Fld := ⟨0x40E10020, 16, 16⟩
abbrev FLW_DIAG_Q_U : Fld := ⟨0x40E10020, 0, 16⟩

/-- FLW_DT — offset 0x028 (16_local_links.md, R428). -/
abbrev A_FLW_DT : Nat := 0x40E10028
abbrev FLW_DT_DT : Fld := ⟨0x40E10028, 32, 32⟩
abbrev FLW_DT_TD : Fld := ⟨0x40E10028, 0, 32⟩

/-- FLW_STAT — offset 0x030 (16_local_links.md, R428). -/
abbrev A_FLW_STAT : Nat := 0x40E10030
abbrev FLW_STAT_DROPS : Fld := ⟨0x40E10030, 48, 16⟩
abbrev FLW_STAT_PAIRS : Fld := ⟨0x40E10030, 32, 16⟩
abbrev FLW_STAT_RWI_REF : Fld := ⟨0x40E10030, 16, 16⟩
abbrev FLW_STAT_LAST_DROP : Fld := ⟨0x40E10030, 4, 4⟩
abbrev FLW_STAT_STALE : Fld := ⟨0x40E10030, 1, 1⟩
abbrev FLW_STAT_RUN : Fld := ⟨0x40E10030, 0, 1⟩

/-! ## 17_events_journal_power_loss.md -/

/-- EVR_SRCk — offset k × 8, k = 0 to 767 (17_events_journal_power_loss.md, R450). -/
abbrev A_EVR_SRC (k : Nat) : Nat := 0x40010000 + k * 0x8
abbrev EVR_SRC_PRIO (k : Nat) : Fld := ⟨0x40010000 + k * 0x8, 9, 3⟩
abbrev EVR_SRC_TGT (k : Nat) : Fld := ⟨0x40010000 + k * 0x8, 0, 6⟩

/-- EVR_STAMPk — offset 0x2000 + k × 8 (17_events_journal_power_loss.md, R450). -/
abbrev A_EVR_STAMP (k : Nat) : Nat := 0x40012000 + k * 0x8
abbrev EVR_STAMP_STAMP (k : Nat) : Fld := ⟨0x40012000 + k * 0x8, 0, 64⟩

/-- EVR_PENDt_j — offset 0x4000 + t × 0x80 + j × 8, t = 0 to 5, j = 0 to 11 (17_events_journal_power_loss.md, R450). -/
abbrev A_EVR_PEND (t j : Nat) : Nat := 0x40014000 + t * 0x80 + j * 0x8
abbrev EVR_PEND_PEND (t j : Nat) : Fld := ⟨0x40014000 + t * 0x80 + j * 0x8, 0, 64⟩

/-- EVR_CLAIMt — offset 0x4400 + t × 0x20 (17_events_journal_power_loss.md, R450). -/
abbrev A_EVR_CLAIM (t : Nat) : Nat := 0x40014400 + t * 0x20
abbrev EVR_CLAIM_STAMP (t : Nat) : Fld := ⟨0x40014400 + t * 0x20, 24, 40⟩
abbrev EVR_CLAIM_VALID (t : Nat) : Fld := ⟨0x40014400 + t * 0x20, 23, 1⟩
abbrev EVR_CLAIM_PRIO (t : Nat) : Fld := ⟨0x40014400 + t * 0x20, 20, 3⟩
abbrev EVR_CLAIM_SOURCE (t : Nat) : Fld := ⟨0x40014400 + t * 0x20, 0, 10⟩

/-- EVR_ACKt — offset 0x4408 + t × 0x20 (17_events_journal_power_loss.md, R450). -/
abbrev A_EVR_ACK (t : Nat) : Nat := 0x40014408 + t * 0x20
abbrev EVR_ACK_SOURCE (t : Nat) : Fld := ⟨0x40014408 + t * 0x20, 0, 10⟩

/-- EVR_THRt — offset 0x4410 + t × 0x20 (17_events_journal_power_loss.md, R450). -/
abbrev A_EVR_THR (t : Nat) : Nat := 0x40014410 + t * 0x20
abbrev EVR_THR_THR (t : Nat) : Fld := ⟨0x40014410 + t * 0x20, 0, 3⟩

/-- EVR_CNTt — offset 0x4418 + t × 0x20 (17_events_journal_power_loss.md, R450). -/
abbrev A_EVR_CNT (t : Nat) : Nat := 0x40014418 + t * 0x20
abbrev EVR_CNT_COALESCED (t : Nat) : Fld := ⟨0x40014418 + t * 0x20, 32, 32⟩
abbrev EVR_CNT_DELIVERED (t : Nat) : Fld := ⟨0x40014418 + t * 0x20, 0, 32⟩

/-- DTM_TIME — offset 0x000 (17_events_journal_power_loss.md, R451). -/
abbrev A_DTM_TIME : Nat := 0x40020000
abbrev DTM_TIME_TIME : Fld := ⟨0x40020000, 0, 64⟩

/-- DTM_CFG — offset 0x008 (17_events_journal_power_loss.md, R451). -/
abbrev A_DTM_CFG : Nat := 0x40020008
abbrev DTM_CFG_STEP_US : Fld := ⟨0x40020008, 48, 16⟩
abbrev DTM_CFG_KP_PCT : Fld := ⟨0x40020008, 40, 8⟩
abbrev DTM_CFG_KI_PCT : Fld := ⟨0x40020008, 32, 8⟩
abbrev DTM_CFG_LOCK_NS : Fld := ⟨0x40020008, 16, 16⟩
abbrev DTM_CFG_MAX_PPM : Fld := ⟨0x40020008, 0, 16⟩

/-- DTM_TRIM — offset 0x010 (17_events_journal_power_loss.md, R451). -/
abbrev A_DTM_TRIM : Nat := 0x40020010
abbrev DTM_TRIM_TRIM : Fld := ⟨0x40020010, 0, 32⟩

/-- DTM_STAT — offset 0x018 (17_events_journal_power_loss.md, R451). -/
abbrev A_DTM_STAT : Nat := 0x40020018
abbrev DTM_STAT_STEPS : Fld := ⟨0x40020018, 48, 16⟩
abbrev DTM_STAT_TEPOCH : Fld := ⟨0x40020018, 40, 8⟩
abbrev DTM_STAT_SRC : Fld := ⟨0x40020018, 4, 2⟩
abbrev DTM_STAT_STATE : Fld := ⟨0x40020018, 0, 3⟩

/-- DTM_OFS — offset 0x020 (17_events_journal_power_loss.md, R451). -/
abbrev A_DTM_OFS : Nat := 0x40020020
abbrev DTM_OFS_THETA : Fld := ⟨0x40020020, 32, 32⟩
abbrev DTM_OFS_RATE : Fld := ⟨0x40020020, 0, 32⟩

/-- DTM_CNT — offset 0x028 (17_events_journal_power_loss.md, R451). -/
abbrev A_DTM_CNT : Nat := 0x40020028
abbrev DTM_CNT_MEAS : Fld := ⟨0x40020028, 48, 16⟩
abbrev DTM_CNT_HOLDOVERS : Fld := ⟨0x40020028, 32, 16⟩
abbrev DTM_CNT_UNLOCKS : Fld := ⟨0x40020028, 16, 16⟩

/-- JNL_STAT — offset 0x000 (17_events_journal_power_loss.md, R452). -/
abbrev A_JNL_STAT : Nat := 0x40030000
abbrev JNL_STAT_NEWEST : Fld := ⟨0x40030000, 32, 32⟩
abbrev JNL_STAT_QLEVEL : Fld := ⟨0x40030000, 8, 8⟩
abbrev JNL_STAT_FLUSHING : Fld := ⟨0x40030000, 0, 1⟩

/-- JNL_FWDATAk — offset 0x008 + k × 8, k = 0 to 4 (17_events_journal_power_loss.md, R452). -/
abbrev A_JNL_FWDATA (k : Nat) : Nat := 0x40030008 + k * 0x8
abbrev JNL_FWDATA_DATA (k : Nat) : Fld := ⟨0x40030008 + k * 0x8, 0, 64⟩

/-- JNL_FWCMD — offset 0x030 (17_events_journal_power_loss.md, R452). -/
abbrev A_JNL_FWCMD : Nat := 0x40030030
abbrev JNL_FWCMD_KIND : Fld := ⟨0x40030030, 0, 8⟩

/-- JNL_CNT — offset 0x038 (17_events_journal_power_loss.md, R452). -/
abbrev A_JNL_CNT : Nat := 0x40030038
abbrev JNL_CNT_LOST : Fld := ⟨0x40030038, 48, 16⟩
abbrev JNL_CNT_FW_REF : Fld := ⟨0x40030038, 32, 16⟩
abbrev JNL_CNT_TORN : Fld := ⟨0x40030038, 16, 16⟩
abbrev JNL_CNT_LATE : Fld := ⟨0x40030038, 0, 16⟩

/-- JNL_PLOSS — offset 0x040 (17_events_journal_power_loss.md, R452). -/
abbrev A_JNL_PLOSS : Nat := 0x40030040
abbrev JNL_PLOSS_SAGS : Fld := ⟨0x40030040, 48, 16⟩
abbrev JNL_PLOSS_EVENTS : Fld := ⟨0x40030040, 32, 16⟩
abbrev JNL_PLOSS_FLUSH_US : Fld := ⟨0x40030040, 0, 16⟩

/-! ## Reset values (register tables of spec/) -/

/-- The first quarter of the sine table of R247, entries 0 to 256 (the rest by symmetry). -/
def sineQuarter0 : List Nat := [0, 13, 25, 38, 50, 63, 75, 88, 100, 113, 126, 138, 151, 163, 176, 188, 201, 213, 226, 238, 251, 263, 275, 288, 300, 313, 325, 338, 350, 362, 375, 387, 399, 412, 424, 436, 449, 461, 473, 485, 497, 510, 522, 534, 546, 558, 570, 582, 594, 606, 618, 630, 642, 654, 666, 678, 690, 701, 713, 725, 737, 748, 760, 772]
def sineQuarter1 : List Nat := [783, 795, 807, 818, 830, 841, 852, 864, 875, 887, 898, 909, 920, 932, 943, 954, 965, 976, 987, 998, 1009, 1020, 1031, 1042, 1052, 1063, 1074, 1085, 1095, 1106, 1116, 1127, 1137, 1148, 1158, 1168, 1179, 1189, 1199, 1209, 1219, 1229, 1239, 1249, 1259, 1269, 1279, 1289, 1299, 1308, 1318, 1328, 1337, 1347, 1356, 1365, 1375, 1384, 1393, 1402, 1411, 1421, 1430, 1439]
def sineQuarter2 : List Nat := [1447, 1456, 1465, 1474, 1483, 1491, 1500, 1508, 1517, 1525, 1533, 1542, 1550, 1558, 1566, 1574, 1582, 1590, 1598, 1606, 1614, 1621, 1629, 1637, 1644, 1652, 1659, 1666, 1674, 1681, 1688, 1695, 1702, 1709, 1716, 1723, 1729, 1736, 1743, 1749, 1756, 1762, 1769, 1775, 1781, 1787, 1793, 1799, 1805, 1811, 1817, 1823, 1828, 1834, 1840, 1845, 1850, 1856, 1861, 1866, 1871, 1876, 1881, 1886]
def sineQuarter3 : List Nat := [1891, 1896, 1901, 1905, 1910, 1914, 1919, 1923, 1927, 1932, 1936, 1940, 1944, 1948, 1951, 1955, 1959, 1962, 1966, 1969, 1973, 1976, 1979, 1983, 1986, 1989, 1992, 1994, 1997, 2000, 2003, 2005, 2008, 2010, 2012, 2015, 2017, 2019, 2021, 2023, 2025, 2027, 2028, 2030, 2032, 2033, 2035, 2036, 2037, 2038, 2039, 2040, 2041, 2042, 2043, 2044, 2045, 2045, 2046, 2046, 2046, 2047, 2047, 2047]
def sineQuarter4 : List Nat := [2047]

/-- Entry `k` of the quarter. -/
def sineQuarter (k : Nat) : Nat :=
  (if k < 64 then sineQuarter0[k]? else if k < 128 then sineQuarter1[k - 64]?
   else if k < 192 then sineQuarter2[k - 128]? else if k < 256 then sineQuarter3[k - 192]?
   else sineQuarter4[k - 256]?).getD 0

/-- Entry `k` of the coil table at reset as a signed number (R247). -/
def sineEntry (k : Nat) : Int :=
  if k ≤ 256 then sineQuarter k
  else if k ≤ 512 then sineQuarter (512 - k)
  else if k ≤ 768 then -(sineQuarter (k - 512) : Int)
  else -(sineQuarter (1024 - k) : Int)

/-- Register `j` of the coil table at reset: entries 4j to 4j + 3, twelve bits each in two's complement (R247). -/
def sineReg (j : Nat) : Nat :=
  let e := fun k => ((sineEntry (4 * j + k)) % 4096).toNat
  e 0 + e 1 * 2 ^ 16 + e 2 * 2 ^ 32 + e 3 * 2 ^ 48

/-- ROLE of channel n (R169): even channels below 12 are high sides, odd ones low sides, GCH12 the brake, GCH13 discharge. -/
def gchRole (n : Nat) : Nat := if n = 12 then 2 else if n = 13 then 3 else n % 2

/-- One row of a reset table: `v i j` where `a` is the register's address at indices `i` and `j`, else `rest`. -/
def resetRow (base s1 c1 s2 c2 : Nat) (v : Nat → Nat → Nat) (a rest : Nat) : Nat :=
  if a < base then rest
  else
    let o := a - base
    if o / s1 < c1 ∧ (o % s1) / s2 < c2 ∧ (o % s1) % s2 = 0 then v (o / s1) ((o % s1) / s2) else rest

/-- Registers of SYS that do not reset to 0. -/
def resetOfSYS (a : Nat) : Nat :=
    resetRow 0x40000000 0x8 1 0x8 1 (fun _ _ => 0x661241540000) a <|
    resetRow 0x40000008 0x8 1 0x8 1 (fun _ _ => Config.uid) a <|
    resetRow 0x40000010 0x8 1 0x8 1 (fun _ _ => 0x1) a <|
    resetRow 0x40000020 0x8 1 0x8 1 (fun _ _ => 0xF400) a <|
    resetRow 0x40000040 0x8 1 0x8 1 (fun _ _ => 0x1) a <|
    resetRow 0x40000050 0x8 1 0x8 1 (fun _ _ => 0x3E8) a <|
    resetRow 0x40000068 0x8 1 0x8 1 (fun _ _ => 0x2) a <|
    resetRow 0x40000080 0x8 1 0x8 1 (fun _ _ => 0x80) a <|
    0

/-- Registers of FIO that do not reset to 0. -/
def resetOfFIO (a : Nat) : Nat :=
    resetRow 0x40F00008 0x8 1 0x8 1 (fun _ _ => 0xA0A0A0A) a <|
    resetRow 0x40F00040 0x8 4 0x8 1 (fun _ _ => 0x3E8) a <|
    0

/-- Registers of ADC that do not reset to 0. -/
def resetOfADC (a : Nat) : Nat :=
    resetRow 0x40100A00 0x1000 8 0x8 14 (fun _ j => 2 ^ (22 - j)) a <|
    resetRow 0x40100A78 0x1000 8 0x8 1 (fun _ _ => 0x40000000) a <|
    0

/-- Registers of AUX that do not reset to 0. -/
def resetOfAUX (a : Nat) : Nat :=
    resetRow 0x40110000 0x1000 2 0x8 1 (fun _ _ => 0x640000) a <|
    0

/-- Registers of POS that do not reset to 0. -/
def resetOfPOS (a : Nat) : Nat :=
    resetRow 0x40200000 0x1000 4 0x8 1 (fun _ _ => 0x1100300) a <|
    resetRow 0x40200008 0x1000 4 0x8 1 (fun _ _ => 0x1106003213001000) a <|
    resetRow 0x40200048 0x1000 4 0x8 1 (fun _ _ => 0x500) a <|
    resetRow 0x40200058 0x1000 4 0x8 1 (fun _ _ => 0xFA05DC004007530) a <|
    resetRow 0x40200060 0x1000 4 0x8 1 (fun _ _ => 0x71C01F407D0) a <|
    resetRow 0x40200068 0x1000 4 0x8 1 (fun _ _ => 0x2042814400003E8) a <|
    resetRow 0x40208000 0x8 1 0x8 1 (fun _ _ => 0x8C8C0001) a <|
    0

/-- Registers of CLU that do not reset to 0. -/
def resetOfCLU (a : Nat) : Nat :=
    resetRow 0x40300000 0x8000 2 0x8 1 (fun _ _ => 0xB4) a <|
    resetRow 0x40300010 0x8000 2 0x8 1 (fun _ _ => 0x1F4005A00000100) a <|
    resetRow 0x40300040 0x8000 2 0x8 5 (fun _ _ => 0xC800000000) a <|
    resetRow 0x403000C8 0x8000 2 0x8 1 (fun _ _ => 0xF333F5C3) a <|
    resetRow 0x403000D0 0x8000 2 0x8 1 (fun _ _ => 0xC800000000) a <|
    resetRow 0x403000D8 0x8000 2 0x8 1 (fun _ _ => 0x405012C00040258) a <|
    0

/-- Registers of PWM that do not reset to 0. -/
def resetOfPWM (a : Nat) : Nat :=
    resetRow 0x40400000 0x1000 3 0x8 1 (fun _ _ => 0xC000) a <|
    resetRow 0x40400010 0x1000 3 0x8 1 (fun _ _ => 0x2710) a <|
    resetRow 0x40400018 0x1000 3 0x8 1 (fun _ _ => 0x28005000500) a <|
    resetRow 0x40400020 0x1000 3 0x8 1 (fun _ _ => 0xC8) a <|
    resetRow 0x40400028 0x1000 3 0x8 1 (fun _ _ => 0xFA000000FA0) a <|
    resetRow 0x40400030 0x1000 2 0x8 1 (fun _ _ => 0x7FFF) a <|
    resetRow 0x40408000 0x8 1 0x8 1 (fun _ _ => 0x7D000400003E8) a <|
    0

/-- Registers of GCH that do not reset to 0. -/
def resetOfGCH (a : Nat) : Nat :=
    resetRow 0x40500000 0x1000 14 0x8 1 (fun i _ => 0x505008FC18010200 + gchRole i) a <|
    resetRow 0x40500008 0x1000 14 0x8 1 (fun _ _ => 0x6403E8032001F4) a <|
    resetRow 0x40500010 0x1000 14 0x8 1 (fun _ _ => 0xC0806040302010) a <|
    resetRow 0x40500018 0x1000 14 0x8 1 (fun _ _ => 0x64004603E80000) a <|
    resetRow 0x40500020 0x1000 14 0x8 1 (fun _ _ => 0x6ED25A0503E89600) a <|
    resetRow 0x40500028 0x1000 14 0x8 1 (fun _ _ => 0xC0C0C0C0C0C0C0C) a <|
    resetRow 0x40500030 0x1000 14 0x8 1 (fun _ _ => 0xC0C0C0C0C0C0C0C) a <|
    resetRow 0x40500038 0x1000 14 0x8 1 (fun _ _ => 0xFFFFFFFF0000FF00) a <|
    resetRow 0x4050D060 0x8 1 0x8 1 (fun _ _ => 0x2800) a <|
    0

/-- Registers of CENC that do not reset to 0. -/
def resetOfCENC (a : Nat) : Nat :=
    resetRow 0x41400000 0x8 8 0x8 1 (fun _ _ => 0x44C040000FA0000) a <|
    resetRow 0x41400180 0x8 1 0x8 1 (fun _ _ => 0x1) a <|
    resetRow 0x41402000 0x8 64 0x8 1 (fun _ _ => 0xFFFFFFFFFFFFFFFF) a <|
    0

/-- Registers of SPL that do not reset to 0. -/
def resetOfSPL (a : Nat) : Nat :=
    resetRow 0x41408010 0x8 1 0x8 1 (fun _ _ => 0x10) a <|
    resetRow 0x41408108 0x40 16 0x8 1 (fun i _ => 0x400000 + 64 * i) a <|
    0

/-- Registers of STP that do not reset to 0. -/
def resetOfSTP (a : Nat) : Nat :=
    resetRow 0x40700008 0x1000 12 0x8 1 (fun _ _ => 0x40) a <|
    resetRow 0x40700060 0x1000 12 0x8 1 (fun _ _ => 0xC80000) a <|
    resetRow 0x40700068 0x1000 12 0x8 1 (fun _ _ => 0xC80A322814140A) a <|
    resetRow 0x40700070 0x1000 12 0x8 1 (fun _ _ => 0x19003E803E800C8) a <|
    resetRow 0x40700078 0x1000 12 0x8 1 (fun _ _ => 0x4040000000) a <|
    resetRow 0x40700080 0x1000 12 0x8 1 (fun _ _ => 0x333031900320000) a <|
    resetRow 0x40700090 0x1000 12 0x8 1 (fun _ _ => 0x3E800700000) a <|
    resetRow 0x40700098 0x1000 12 0x8 1 (fun _ _ => 0x4E2000000A00) a <|
    resetRow 0x407000B0 0x1000 12 0x8 1 (fun _ _ => 0x640000080010) a <|
    resetRow 0x4070C000 0x8 1 0x8 1 (fun _ _ => 0x1F400FA007D003E8) a <|
    resetRow 0x4070C008 0x8 1 0x8 1 (fun _ _ => 0x1EF800000000) a <|
    resetRow 0x4070D000 0x8 256 0x8 1 (fun i _ => sineReg i) a <|
    0

/-- Registers of HEM that do not reset to 0. -/
def resetOfHEM (a : Nat) : Nat :=
    resetRow 0x40800000 0x8 1 0x8 1 (fun _ _ => 0x100000000) a <|
    resetRow 0x40800010 0x8 1 0x8 1 (fun _ _ => 0x303E8000064) a <|
    resetRow 0x40800038 0x8 1 0x8 1 (fun _ _ => 0xA0000) a <|
    resetRow 0x40800068 0x8 2 0x8 1 (fun _ _ => 0xFF000000) a <|
    0

/-- Registers of THM that do not reset to 0. -/
def resetOfTHM (a : Nat) : Nat :=
    resetRow 0x48000000 0x8 1 0x8 1 (fun _ _ => 0x8400) a <|
    resetRow 0x48000010 0x8 2 0x8 1 (fun _ _ => 0x1000) a <|
    resetRow 0x48000050 0x8 1 0x8 1 (fun _ _ => 0x100000000000) a <|
    0

/-- Registers of CAN that do not reset to 0. -/
def resetOfCAN (a : Nat) : Nat :=
    resetRow 0x40900000 0x10000 4 0x8 1 (fun _ _ => 0x1000) a <|
    resetRow 0x40900010 0x10000 4 0x8 1 (fun _ _ => 0x1020200000D0014) a <|
    resetRow 0x40900018 0x10000 4 0x8 1 (fun _ _ => 0x108020200070001) a <|
    resetRow 0x40900020 0x10000 4 0x8 1 (fun _ _ => 0x103010100020001) a <|
    resetRow 0x40900030 0x10000 4 0x8 1 (fun _ _ => 0x20000080000000) a <|
    resetRow 0x40900040 0x10000 4 0x8 1 (fun _ _ => 0x3200000000) a <|
    0

/-- Registers of ETH that do not reset to 0. -/
def resetOfETH (a : Nat) : Nat :=
    resetRow 0x40A00000 0x8 1 0x8 1 (fun _ _ => 0x80) a <|
    resetRow 0x40A00018 0x8 1 0x8 1 (fun _ _ => Config.macAddr) a <|
    resetRow 0x40A00038 0x8 1 0x8 1 (fun _ _ => 0xFFFFF800FD000000) a <|
    resetRow 0x40A00040 0x8 2 0x8 1 (fun _ _ => 0x3) a <|
    0

/-- Registers of SFL that do not reset to 0. -/
def resetOfSFL (a : Nat) : Nat :=
    resetRow 0x40B00000 0x8 1 0x8 1 (fun _ _ => 0x64800A1B020000) a <|
    resetRow 0x40B00008 0x8 1 0x8 1 (fun _ _ => 0xFFFF000000000000) a <|
    resetRow 0x40B01000 0x20 256 0x8 1 (fun _ _ => 0xA000000000) a <|
    0

/-- Registers of CRC that do not reset to 0. -/
def resetOfCRC (a : Nat) : Nat :=
    resetRow 0x40C00000 0x1000 8 0x8 1 (fun _ _ => 0x4) a <|
    0

/-- Registers of SPI that do not reset to 0. -/
def resetOfSPI (a : Nat) : Nat :=
    resetRow 0x40D00100 0x8 1 0x8 1 (fun _ _ => 0x20007) a <|
    resetRow 0x40D00200 0x8 4 0x8 1 (fun _ _ => 0x13040400) a <|
    0

/-- Registers of LUA that do not reset to 0. -/
def resetOfLUA (a : Nat) : Nat :=
    resetRow 0x40D10000 0x100 4 0x8 1 (fun _ _ => 0x2B600D00000000) a <|
    resetRow 0x40D10010 0x100 4 0x8 1 (fun _ _ => 0x28000000000000) a <|
    resetRow 0x40D10020 0x100 4 0x10 4 (fun _ _ => 0x2800000000000000) a <|
    0

/-- Registers of NFC that do not reset to 0. -/
def resetOfNFC (a : Nat) : Nat :=
    resetRow 0x40E00010 0x8 1 0x8 1 (fun _ _ => 0x10064) a <|
    0

/-- Registers of FLW that do not reset to 0. -/
def resetOfFLW (a : Nat) : Nat :=
    resetRow 0x40E10000 0x8 1 0x8 1 (fun _ _ => 0x1F40A081428F020) a <|
    resetRow 0x40E10008 0x8 1 0x8 1 (fun _ _ => 0x5DC0B5054E8A8000) a <|
    resetRow 0x40E10010 0x8 1 0x8 1 (fun _ _ => 0xC8076CCCCD) a <|
    resetRow 0x40E10018 0x8 1 0x8 1 (fun _ _ => 0xFFFF) a <|
    resetRow 0x40E10030 0x8 1 0x8 1 (fun _ _ => 0x2) a <|
    0

/-- Registers of DTM that do not reset to 0. -/
def resetOfDTM (a : Nat) : Nat :=
    resetRow 0x40020008 0x8 1 0x8 1 (fun _ _ => 0xA320A01F400C8) a <|
    0

/-- Registers of JNL that do not reset to 0. -/
def resetOfJNL (a : Nat) : Nat :=
    resetRow 0x40030000 0x8 1 0x8 1 (fun _ _ => 0xFFFFFFFF00000000) a <|
    0

/-- The value the register at physical address `a` holds after reset (0 where no register table gives another). -/
def resetOf (a : Nat) : BitVec 64 := BitVec.ofNat 64 (
    if a < 0x40000000 then 0 else
    if a < 0x40010000 then resetOfSYS a else
    if a < 0x40020000 then 0 else
    if a < 0x40030000 then resetOfDTM a else
    if a < 0x40040000 then resetOfJNL a else
    if a < 0x40100000 then 0 else
    if a < 0x40110000 then resetOfADC a else
    if a < 0x40200000 then resetOfAUX a else
    if a < 0x40300000 then resetOfPOS a else
    if a < 0x40400000 then resetOfCLU a else
    if a < 0x40500000 then resetOfPWM a else
    if a < 0x40700000 then resetOfGCH a else
    if a < 0x40800000 then resetOfSTP a else
    if a < 0x40900000 then resetOfHEM a else
    if a < 0x40A00000 then resetOfCAN a else
    if a < 0x40B00000 then resetOfETH a else
    if a < 0x40C00000 then resetOfSFL a else
    if a < 0x40D00000 then resetOfCRC a else
    if a < 0x40D10000 then resetOfSPI a else
    if a < 0x40E00000 then resetOfLUA a else
    if a < 0x40E10000 then resetOfNFC a else
    if a < 0x40F00000 then resetOfFLW a else
    if a < 0x41000000 then resetOfFIO a else
    if a < 0x41400000 then 0 else
    if a < 0x41408000 then resetOfCENC a else
    if a < 0x48000000 then resetOfSPL a else
    if a < 0x48010000 then resetOfTHM a else
    0)

/-! ## What a write may change: the access code of every field that is not RO (R10) -/

/-- The registers of SYS. -/
def regDefsSYS : List RDef := [
  ⟨0x40000000, 0x8, 1, 0x8, 1, true, []⟩,
  ⟨0x40000008, 0x8, 1, 0x8, 1, true, []⟩,
  ⟨0x40000010, 0x8, 1, 0x8, 1, false, []⟩,
  ⟨0x40000018, 0x8, 1, 0x8, 1, false, [⟨0, 1, .wo⟩]⟩,
  ⟨0x40000020, 0x8, 1, 0x8, 1, false, [⟨12, 4, .rw⟩, ⟨10, 2, .rw⟩, ⟨9, 1, .rw⟩, ⟨8, 1, .rw⟩]⟩,
  ⟨0x40000028, 0x8, 1, 0x8, 1, false, [⟨12, 4, .w1c⟩, ⟨11, 1, .w1c⟩, ⟨10, 1, .w1c⟩, ⟨9, 1, .w1c⟩, ⟨8, 1, .w1c⟩]⟩,
  ⟨0x40000030, 0x8, 1, 0x8, 1, false, [⟨0, 32, .rw⟩]⟩,
  ⟨0x40000040, 0x8, 1, 0x8, 1, false, [⟨2, 1, .rw⟩, ⟨1, 1, .rw⟩, ⟨0, 1, .rw⟩]⟩,
  ⟨0x40000048, 0x8, 1, 0x8, 1, false, []⟩,
  ⟨0x40000050, 0x8, 1, 0x8, 1, false, [⟨0, 16, .rw⟩]⟩,
  ⟨0x40000060, 0x8, 1, 0x8, 1, true, [⟨48, 16, .wo⟩, ⟨0, 1, .wo⟩]⟩,
  ⟨0x40000068, 0x8, 1, 0x8, 1, false, [⟨7, 1, .w1c⟩, ⟨6, 1, .w1c⟩, ⟨5, 1, .w1c⟩, ⟨4, 1, .w1c⟩, ⟨3, 1, .w1c⟩, ⟨2, 1, .w1c⟩, ⟨1, 1, .w1c⟩]⟩,
  ⟨0x40000070, 0x8, 1, 0x8, 1, false, []⟩,
  ⟨0x40000080, 0x8, 1, 0x8, 1, false, []⟩,
  ⟨0x40000088, 0x8, 1, 0x8, 1, true, []⟩,
  ⟨0x40000090, 0x8, 1, 0x8, 1, false, []⟩,
  ⟨0x40000098, 0x8, 1, 0x8, 1, false, [⟨4, 1, .wo⟩, ⟨0, 2, .rw⟩]⟩,
  ⟨0x400000A0, 0x8, 1, 0x8, 1, true, []⟩]

/-- The registers of FIO. -/
def regDefsFIO : List RDef := [
  ⟨0x40F00000, 0x8, 1, 0x8, 1, true, []⟩,
  ⟨0x40F00008, 0x8, 1, 0x8, 1, false, [⟨0, 32, .rw⟩]⟩,
  ⟨0x40F00010, 0x8, 1, 0x8, 1, false, [⟨32, 32, .rw⟩, ⟨0, 32, .rw⟩]⟩,
  ⟨0x40F00018, 0x8, 1, 0x8, 1, false, [⟨40, 1, .w1c⟩, ⟨36, 4, .w1c⟩, ⟨32, 4, .w1c⟩, ⟨24, 4, .w1c⟩, ⟨0, 14, .w1c⟩]⟩,
  ⟨0x40F00020, 0x8, 1, 0x8, 1, false, []⟩,
  ⟨0x40F00040, 0x8, 4, 0x8, 1, false, [⟨0, 16, .rwi⟩]⟩,
  ⟨0x40F00060, 0x8, 1, 0x8, 1, true, []⟩,
  ⟨0x40F00100, 0x8, 16, 0x8, 1, false, [⟨16, 16, .rw⟩, ⟨0, 3, .rw⟩]⟩,
  ⟨0x40F00200, 0x8, 16, 0x8, 1, true, []⟩]

/-- The registers of ADC. -/
def regDefsADC : List RDef := [
  ⟨0x40100000, 0x1000, 8, 0x8, 1, false, [⟨0, 1, .rw⟩]⟩,
  ⟨0x40100008, 0x1000, 8, 0x8, 1, false, []⟩,
  ⟨0x40100010, 0x1000, 8, 0x8, 1, false, [⟨8, 8, .wo⟩, ⟨0, 4, .wo⟩]⟩,
  ⟨0x40100018, 0x1000, 8, 0x8, 1, false, []⟩,
  ⟨0x40100020, 0x1000, 8, 0x8, 1, false, []⟩,
  ⟨0x40100028, 0x1000, 8, 0x8, 1, true, []⟩,
  ⟨0x40100030, 0x1000, 8, 0x8, 1, true, []⟩,
  ⟨0x40100400, 0x1000, 8, 0x8, 64, false, [⟨63, 1, .rwi⟩, ⟨62, 1, .rwi⟩, ⟨60, 2, .rwi⟩, ⟨40, 16, .rwi⟩, ⟨36, 4, .rwi⟩, ⟨16, 16, .rwi⟩]⟩,
  ⟨0x40100600, 0x1000, 8, 0x8, 64, true, []⟩,
  ⟨0x40100A00, 0x1000, 8, 0x8, 14, false, []⟩,
  ⟨0x40100A70, 0x1000, 8, 0x8, 1, false, []⟩,
  ⟨0x40100A78, 0x1000, 8, 0x8, 1, false, []⟩,
  ⟨0x40108000, 0x8, 1, 0x8, 1, false, [⟨0, 2, .rwi⟩]⟩,
  ⟨0x40108008, 0x8, 1, 0x8, 1, false, []⟩,
  ⟨0x40108010, 0x8, 1, 0x8, 1, false, [⟨8, 1, .rws⟩, ⟨0, 8, .wo⟩]⟩,
  ⟨0x40108018, 0x8, 1, 0x8, 1, false, []⟩,
  ⟨0x40108020, 0x8, 1, 0x8, 1, false, [⟨0, 32, .rws⟩]⟩,
  ⟨0x40108028, 0x8, 1, 0x8, 1, false, []⟩]

/-- The registers of AUX. -/
def regDefsAUX : List RDef := [
  ⟨0x40110000, 0x1000, 2, 0x8, 1, false, [⟨16, 16, .rw⟩, ⟨0, 1, .rw⟩]⟩,
  ⟨0x40110100, 0x1000, 2, 0x8, 32, false, [⟨15, 1, .rwi⟩, ⟨12, 3, .rwi⟩, ⟨9, 3, .rwi⟩, ⟨0, 6, .rwi⟩]⟩,
  ⟨0x40110200, 0x1000, 2, 0x8, 32, true, []⟩,
  ⟨0x40118000, 0x8, 1, 0x8, 1, false, [⟨0, 8, .rwi⟩]⟩,
  ⟨0x40118008, 0x8, 1, 0x8, 1, false, []⟩]

/-- The registers of POS. -/
def regDefsPOS : List RDef := [
  ⟨0x40200000, 0x1000, 4, 0x8, 1, false, [⟨24, 8, .rwi⟩, ⟨20, 4, .rwi⟩, ⟨19, 1, .rwi⟩, ⟨18, 1, .rw⟩, ⟨17, 1, .rwi⟩, ⟨8, 4, .rwi⟩, ⟨4, 2, .rwi⟩, ⟨0, 3, .rwi⟩]⟩,
  ⟨0x40200008, 0x1000, 4, 0x8, 1, false, [⟨58, 6, .rwi⟩, ⟨52, 6, .rwi⟩, ⟨46, 6, .rwi⟩, ⟨45, 1, .rwi⟩, ⟨44, 1, .rwi⟩, ⟨32, 12, .rwi⟩, ⟨24, 8, .rwi⟩, ⟨0, 24, .rwi⟩]⟩,
  ⟨0x40200010, 0x1000, 4, 0x8, 1, true, [⟨0, 64, .rw⟩]⟩,
  ⟨0x40200018, 0x1000, 4, 0x8, 1, true, [⟨0, 64, .rw⟩]⟩,
  ⟨0x40200020, 0x1000, 4, 0x8, 1, true, [⟨0, 64, .rwi⟩]⟩,
  ⟨0x40200028, 0x1000, 4, 0x8, 1, true, []⟩,
  ⟨0x40200030, 0x1000, 4, 0x8, 1, true, []⟩,
  ⟨0x40200038, 0x1000, 4, 0x8, 1, true, []⟩,
  ⟨0x40200040, 0x1000, 4, 0x8, 1, true, []⟩,
  ⟨0x40200048, 0x1000, 4, 0x8, 1, false, []⟩,
  ⟨0x40200050, 0x1000, 4, 0x8, 1, false, [⟨12, 1, .w1c⟩, ⟨0, 12, .w1c⟩]⟩,
  ⟨0x40200058, 0x1000, 4, 0x8, 1, false, [⟨48, 16, .rw⟩, ⟨32, 16, .rw⟩, ⟨16, 16, .rw⟩, ⟨0, 16, .rw⟩]⟩,
  ⟨0x40200060, 0x1000, 4, 0x8, 1, false, [⟨48, 8, .rwi⟩, ⟨32, 16, .rwi⟩, ⟨16, 16, .rwi⟩, ⟨0, 16, .rwi⟩]⟩,
  ⟨0x40200068, 0x1000, 4, 0x8, 1, false, [⟨56, 8, .rwi⟩, ⟨48, 8, .rwi⟩, ⟨40, 8, .rwi⟩, ⟨32, 8, .rwi⟩, ⟨24, 8, .rwi⟩, ⟨0, 16, .rwi⟩]⟩,
  ⟨0x40200070, 0x1000, 4, 0x8, 1, true, []⟩,
  ⟨0x40200080, 0x1000, 4, 0x8, 14, false, []⟩,
  ⟨0x402000F0, 0x1000, 4, 0x8, 1, false, []⟩,
  ⟨0x40208000, 0x8, 1, 0x8, 1, false, [⟨32, 8, .rwi⟩, ⟨24, 8, .rwi⟩, ⟨16, 8, .rwi⟩, ⟨0, 2, .rwi⟩]⟩,
  ⟨0x40208008, 0x8, 1, 0x8, 1, false, [⟨48, 1, .rwi⟩, ⟨40, 6, .rwi⟩, ⟨32, 6, .rwi⟩, ⟨24, 6, .rwi⟩, ⟨16, 6, .rwi⟩, ⟨8, 6, .rwi⟩, ⟨0, 6, .rwi⟩]⟩]

/-- The registers of CLU. -/
def regDefsCLU : List RDef := [
  ⟨0x40300000, 0x8000, 2, 0x8, 1, false, [⟨7, 1, .rwi⟩, ⟨6, 1, .rwi⟩, ⟨5, 1, .rwi⟩, ⟨4, 1, .rwi⟩, ⟨3, 1, .rwi⟩, ⟨2, 1, .rwi⟩, ⟨0, 1, .rw⟩]⟩,
  ⟨0x40300008, 0x8000, 2, 0x8, 1, false, []⟩,
  ⟨0x40300010, 0x8000, 2, 0x8, 1, false, [⟨48, 16, .rw⟩, ⟨32, 8, .rwi⟩, ⟨0, 9, .rwi⟩]⟩,
  ⟨0x40300018, 0x8000, 2, 0x8, 5, true, [⟨0, 64, .rwi⟩]⟩,
  ⟨0x40300040, 0x8000, 2, 0x8, 5, false, [⟨32, 16, .rwi⟩, ⟨0, 32, .rwi⟩]⟩,
  ⟨0x40300068, 0x8000, 2, 0x8, 1, true, [⟨0, 64, .rw⟩]⟩,
  ⟨0x40300070, 0x8000, 2, 0x8, 1, true, [⟨0, 64, .rw⟩]⟩,
  ⟨0x40300078, 0x8000, 2, 0x8, 1, true, [⟨0, 64, .rw⟩]⟩,
  ⟨0x40300080, 0x8000, 2, 0x8, 1, true, [⟨0, 64, .rw⟩]⟩,
  ⟨0x40300088, 0x8000, 2, 0x8, 1, true, [⟨0, 64, .rw⟩]⟩,
  ⟨0x40300090, 0x8000, 2, 0x8, 1, true, [⟨0, 64, .rw⟩]⟩,
  ⟨0x40300098, 0x8000, 2, 0x8, 1, true, [⟨0, 64, .rw⟩]⟩,
  ⟨0x403000A0, 0x8000, 2, 0x8, 1, true, [⟨0, 64, .rw⟩]⟩,
  ⟨0x403000A8, 0x8000, 2, 0x8, 1, true, [⟨0, 64, .rw⟩]⟩,
  ⟨0x403000B0, 0x8000, 2, 0x8, 1, true, [⟨0, 64, .rw⟩]⟩,
  ⟨0x403000B8, 0x8000, 2, 0x8, 1, true, [⟨0, 64, .rw⟩]⟩,
  ⟨0x403000C0, 0x8000, 2, 0x8, 1, true, [⟨0, 64, .rw⟩]⟩,
  ⟨0x403000C8, 0x8000, 2, 0x8, 1, false, [⟨16, 16, .rw⟩, ⟨0, 16, .rw⟩]⟩,
  ⟨0x403000D0, 0x8000, 2, 0x8, 1, false, [⟨32, 16, .rw⟩, ⟨0, 16, .rw⟩]⟩,
  ⟨0x403000D8, 0x8000, 2, 0x8, 1, false, [⟨56, 8, .rwi⟩, ⟨48, 8, .rw⟩, ⟨32, 16, .rw⟩, ⟨16, 4, .rwi⟩, ⟨0, 16, .rwi⟩]⟩,
  ⟨0x403000E0, 0x8000, 2, 0x8, 1, true, []⟩,
  ⟨0x403000E8, 0x8000, 2, 0x8, 1, true, []⟩,
  ⟨0x403000F0, 0x8000, 2, 0x8, 1, true, []⟩,
  ⟨0x403000F8, 0x8000, 2, 0x8, 1, true, []⟩,
  ⟨0x40300100, 0x8000, 2, 0x8, 1, true, []⟩,
  ⟨0x40300108, 0x8000, 2, 0x8, 1, true, []⟩,
  ⟨0x40300110, 0x8000, 2, 0x8, 1, true, []⟩,
  ⟨0x40300118, 0x8000, 2, 0x8, 1, true, []⟩,
  ⟨0x40300120, 0x8000, 2, 0x8, 3, true, []⟩,
  ⟨0x40300138, 0x8000, 2, 0x8, 3, true, []⟩,
  ⟨0x40300150, 0x8000, 2, 0x8, 1, false, []⟩,
  ⟨0x40300158, 0x8000, 2, 0x8, 1, false, []⟩,
  ⟨0x40300160, 0x8000, 2, 0x8, 1, false, [⟨7, 1, .w1c⟩, ⟨6, 1, .w1c⟩, ⟨5, 1, .w1c⟩, ⟨4, 1, .w1c⟩, ⟨3, 1, .w1c⟩, ⟨2, 1, .w1c⟩, ⟨1, 1, .w1c⟩, ⟨0, 1, .w1c⟩]⟩]

/-- The registers of PWM. -/
def regDefsPWM : List RDef := [
  ⟨0x40400000, 0x1000, 3, 0x8, 1, false, [⟨14, 2, .rwi⟩, ⟨12, 2, .rw⟩, ⟨8, 1, .rwi⟩, ⟨4, 1, .rwi⟩]⟩,
  ⟨0x40400008, 0x1000, 3, 0x8, 1, false, []⟩,
  ⟨0x40400010, 0x1000, 3, 0x8, 1, false, [⟨32, 24, .rwi⟩, ⟨0, 24, .rwi⟩]⟩,
  ⟨0x40400018, 0x1000, 3, 0x8, 1, false, [⟨32, 16, .rwi⟩, ⟨16, 16, .rwi⟩, ⟨0, 16, .rwi⟩]⟩,
  ⟨0x40400020, 0x1000, 3, 0x8, 1, false, [⟨0, 10, .rwi⟩]⟩,
  ⟨0x40400028, 0x1000, 3, 0x8, 1, false, [⟨32, 24, .rwi⟩, ⟨0, 24, .rwi⟩]⟩,
  ⟨0x40400030, 0x1000, 3, 0x8, 1, false, [⟨16, 6, .rwi⟩, ⟨0, 16, .rwi⟩]⟩,
  ⟨0x40400040, 0x1000, 3, 0x8, 3, true, []⟩,
  ⟨0x40400058, 0x1000, 3, 0x8, 1, false, [⟨0, 6, .w1c⟩]⟩,
  ⟨0x40400060, 0x1000, 3, 0x8, 1, false, []⟩,
  ⟨0x40400068, 0x1000, 3, 0x8, 1, false, []⟩,
  ⟨0x40408000, 0x8, 1, 0x8, 1, true, []⟩,
  ⟨0x40408008, 0x8, 1, 0x8, 1, false, [⟨0, 1, .rw⟩]⟩]

/-- The registers of GCH. -/
def regDefsGCH : List RDef := [
  ⟨0x40500000, 0x1000, 14, 0x8, 1, false, [⟨56, 8, .rwi⟩, ⟨48, 8, .rwi⟩, ⟨40, 8, .rwi⟩, ⟨32, 8, .rwi⟩, ⟨24, 5, .rwi⟩, ⟨16, 5, .rwi⟩, ⟨8, 4, .rws⟩, ⟨3, 1, .rw⟩]⟩,
  ⟨0x40500008, 0x1000, 14, 0x8, 1, false, [⟨48, 16, .rws⟩, ⟨32, 10, .rws⟩, ⟨16, 10, .rws⟩, ⟨0, 11, .rws⟩]⟩,
  ⟨0x40500010, 0x1000, 14, 0x8, 1, false, [⟨0, 56, .rwi⟩]⟩,
  ⟨0x40500018, 0x1000, 14, 0x8, 1, false, [⟨48, 16, .rwi⟩, ⟨32, 8, .rws⟩, ⟨16, 11, .rws⟩]⟩,
  ⟨0x40500020, 0x1000, 14, 0x8, 1, false, [⟨56, 8, .rws⟩, ⟨48, 8, .rws⟩, ⟨40, 8, .rws⟩, ⟨32, 8, .rws⟩, ⟨16, 13, .rws⟩, ⟨8, 8, .rws⟩]⟩,
  ⟨0x40500028, 0x1000, 14, 0x8, 1, false, [⟨0, 5, .rwi⟩, ⟨8, 5, .rwi⟩, ⟨16, 5, .rwi⟩, ⟨24, 5, .rwi⟩, ⟨32, 5, .rwi⟩, ⟨40, 5, .rwi⟩, ⟨48, 5, .rwi⟩, ⟨56, 5, .rwi⟩]⟩,
  ⟨0x40500030, 0x1000, 14, 0x8, 1, false, [⟨0, 5, .rwi⟩, ⟨8, 5, .rwi⟩, ⟨16, 5, .rwi⟩, ⟨24, 5, .rwi⟩, ⟨32, 5, .rwi⟩, ⟨40, 5, .rwi⟩, ⟨48, 5, .rwi⟩, ⟨56, 5, .rwi⟩]⟩,
  ⟨0x40500038, 0x1000, 14, 0x8, 1, true, []⟩,
  ⟨0x40500040, 0x1000, 14, 0x8, 1, true, []⟩,
  ⟨0x40500048, 0x1000, 14, 0x8, 1, false, []⟩,
  ⟨0x40500050, 0x1000, 14, 0x8, 1, true, []⟩,
  ⟨0x40500058, 0x1000, 14, 0x8, 1, false, []⟩,
  ⟨0x4050D060, 0x8, 1, 0x8, 1, false, [⟨8, 8, .rws⟩]⟩,
  ⟨0x4050E000, 0x8, 1, 0x8, 1, false, [⟨0, 1, .rwi⟩]⟩,
  ⟨0x4050E008, 0x8, 1, 0x8, 1, true, []⟩,
  ⟨0x4050E010, 0x8, 1, 0x8, 1, false, []⟩,
  ⟨0x4050E018, 0x8, 1, 0x8, 1, true, []⟩]

/-- The registers of CEN. -/
def regDefsCEN : List RDef := [
  ⟨0x41000000, 0x10000, 64, 0x8, 1, false, [⟨24, 8, .rwi⟩, ⟨16, 8, .rwi⟩, ⟨8, 3, .rwi⟩, ⟨2, 1, .rw⟩, ⟨1, 1, .rw⟩, ⟨0, 1, .rw⟩]⟩,
  ⟨0x41000008, 0x10000, 64, 0x8, 1, false, []⟩,
  ⟨0x41000010, 0x10000, 64, 0x8, 1, false, []⟩,
  ⟨0x41000018, 0x10000, 64, 0x8, 1, false, []⟩,
  ⟨0x41000020, 0x10000, 64, 0x8, 1, false, []⟩,
  ⟨0x41000040, 0x10000, 64, 0x8, 4, true, []⟩,
  ⟨0x41000800, 0x10000, 64, 0x8, 256, true, []⟩,
  ⟨0x41002000, 0x10000, 64, 0x8, 1024, true, []⟩]

/-- The registers of CENC. -/
def regDefsCENC : List RDef := [
  ⟨0x41400000, 0x8, 8, 0x8, 1, false, [⟨48, 16, .rwi⟩, ⟨40, 8, .rwi⟩, ⟨32, 8, .rwi⟩, ⟨12, 20, .rwi⟩, ⟨0, 10, .rwi⟩]⟩,
  ⟨0x41400040, 0x8, 8, 0x8, 1, false, []⟩,
  ⟨0x41400080, 0x8, 8, 0x8, 1, false, []⟩,
  ⟨0x414000C0, 0x8, 8, 0x8, 1, true, []⟩,
  ⟨0x41400100, 0x8, 8, 0x8, 1, false, [⟨8, 6, .rw⟩, ⟨0, 8, .rw⟩]⟩,
  ⟨0x41400140, 0x8, 8, 0x8, 1, true, [⟨0, 64, .rw⟩]⟩,
  ⟨0x41400180, 0x8, 1, 0x8, 1, false, [⟨5, 1, .wo⟩, ⟨4, 1, .rw⟩, ⟨0, 4, .rw⟩]⟩,
  ⟨0x41400188, 0x8, 1, 0x8, 1, false, []⟩,
  ⟨0x41401000, 0x8, 512, 0x8, 1, true, []⟩,
  ⟨0x41402000, 0x8, 64, 0x8, 1, true, []⟩,
  ⟨0x41402200, 0x8, 8, 0x8, 1, true, []⟩,
  ⟨0x41400190, 0x8, 1, 0x8, 1, false, []⟩,
  ⟨0x414001A0, 0x8, 4, 0x8, 1, false, []⟩,
  ⟨0x414001C0, 0x8, 4, 0x8, 1, false, []⟩]

/-- The registers of SPL. -/
def regDefsSPL : List RDef := [
  ⟨0x41408000, 0x8, 1, 0x8, 1, false, [⟨2, 1, .wo⟩, ⟨1, 1, .wo⟩, ⟨0, 1, .wo⟩]⟩,
  ⟨0x41408008, 0x8, 1, 0x8, 1, false, []⟩,
  ⟨0x41408010, 0x8, 1, 0x8, 1, false, [⟨16, 10, .rwi⟩, ⟨8, 4, .rwi⟩, ⟨4, 2, .rwi⟩, ⟨0, 2, .rwi⟩]⟩,
  ⟨0x41408018, 0x8, 1, 0x8, 1, true, [⟨0, 64, .rwi⟩]⟩,
  ⟨0x41408020, 0x8, 1, 0x8, 1, true, []⟩,
  ⟨0x41408028, 0x8, 1, 0x8, 1, false, []⟩,
  ⟨0x41408100, 0x40, 16, 0x8, 1, false, [⟨48, 10, .rwi⟩, ⟨32, 16, .rwi⟩, ⟨16, 12, .rwi⟩, ⟨4, 1, .rwi⟩, ⟨0, 3, .rwi⟩]⟩,
  ⟨0x41408108, 0x40, 16, 0x8, 1, false, [⟨16, 11, .rwi⟩, ⟨0, 10, .rwi⟩]⟩,
  ⟨0x41408110, 0x40, 16, 0x8, 1, false, [⟨32, 32, .rwi⟩, ⟨0, 32, .rwi⟩]⟩,
  ⟨0x41408118, 0x40, 16, 0x8, 1, true, []⟩,
  ⟨0x41408120, 0x40, 16, 0x8, 1, false, []⟩]

/-- The registers of STP. -/
def regDefsSTP : List RDef := [
  ⟨0x40700000, 0x1000, 12, 0x8, 1, false, [⟨16, 9, .rwi⟩, ⟨12, 1, .rwi⟩, ⟨11, 1, .rwi⟩, ⟨8, 3, .rwi⟩, ⟨3, 1, .wo⟩, ⟨2, 1, .wo⟩, ⟨0, 1, .rw⟩]⟩,
  ⟨0x40700008, 0x1000, 12, 0x8, 1, false, []⟩,
  ⟨0x40700010, 0x1000, 12, 0x8, 1, true, [⟨0, 64, .rwi⟩]⟩,
  ⟨0x40700018, 0x1000, 12, 0x8, 1, true, []⟩,
  ⟨0x40700020, 0x1000, 12, 0x8, 1, true, [⟨0, 64, .rw⟩]⟩,
  ⟨0x40700028, 0x1000, 12, 0x8, 1, true, [⟨0, 64, .rw⟩]⟩,
  ⟨0x40700030, 0x1000, 12, 0x8, 1, true, [⟨0, 64, .rw⟩]⟩,
  ⟨0x40700038, 0x1000, 12, 0x8, 1, true, [⟨0, 64, .rw⟩]⟩,
  ⟨0x40700040, 0x1000, 12, 0x8, 1, true, [⟨0, 64, .rw⟩]⟩,
  ⟨0x40700048, 0x1000, 12, 0x8, 1, true, [⟨0, 64, .rw⟩]⟩,
  ⟨0x40700050, 0x1000, 12, 0x8, 1, true, [⟨0, 64, .rw⟩]⟩,
  ⟨0x40700058, 0x1000, 12, 0x8, 1, true, [⟨0, 64, .rw⟩]⟩,
  ⟨0x40700060, 0x1000, 12, 0x8, 1, false, [⟨48, 16, .rw⟩, ⟨32, 16, .rw⟩, ⟨16, 16, .rw⟩]⟩,
  ⟨0x40700068, 0x1000, 12, 0x8, 1, false, [⟨48, 16, .rwi⟩, ⟨40, 8, .rwi⟩, ⟨32, 8, .rwi⟩, ⟨24, 8, .rwi⟩, ⟨16, 8, .rwi⟩, ⟨8, 8, .rwi⟩, ⟨0, 8, .rwi⟩]⟩,
  ⟨0x40700070, 0x1000, 12, 0x8, 1, false, [⟨48, 16, .rwi⟩, ⟨32, 16, .rwi⟩, ⟨16, 16, .rwi⟩, ⟨0, 16, .rwi⟩]⟩,
  ⟨0x40700078, 0x1000, 12, 0x8, 1, false, [⟨48, 5, .rwi⟩, ⟨40, 5, .rwi⟩, ⟨36, 4, .rwi⟩, ⟨32, 1, .rwi⟩, ⟨24, 8, .rwi⟩, ⟨8, 8, .rwi⟩, ⟨0, 8, .rwi⟩]⟩,
  ⟨0x40700080, 0x1000, 12, 0x8, 1, false, [⟨48, 16, .rwi⟩, ⟨40, 8, .rwi⟩, ⟨32, 8, .rwi⟩, ⟨16, 16, .rwi⟩, ⟨2, 1, .rwi⟩, ⟨0, 2, .rwi⟩]⟩,
  ⟨0x40700088, 0x1000, 12, 0x8, 1, true, []⟩,
  ⟨0x40700090, 0x1000, 12, 0x8, 1, false, [⟨32, 14, .rwi⟩, ⟨23, 1, .rwi⟩, ⟨20, 3, .rwi⟩, ⟨19, 1, .rwi⟩, ⟨18, 1, .rwi⟩, ⟨17, 1, .rwi⟩, ⟨10, 5, .rwi⟩, ⟨5, 5, .rwi⟩, ⟨0, 5, .rwi⟩]⟩,
  ⟨0x40700098, 0x1000, 12, 0x8, 1, false, [⟨32, 32, .rwi⟩, ⟨0, 32, .rwi⟩]⟩,
  ⟨0x407000A0, 0x1000, 12, 0x8, 1, true, [⟨0, 64, .rwi⟩]⟩,
  ⟨0x407000A8, 0x1000, 12, 0x8, 1, true, []⟩,
  ⟨0x407000B0, 0x1000, 12, 0x8, 1, false, [⟨32, 32, .rwi⟩, ⟨16, 8, .rwi⟩, ⟨9, 1, .rwi⟩, ⟨0, 9, .rwi⟩]⟩,
  ⟨0x407000B8, 0x1000, 12, 0x8, 1, false, [⟨8, 1, .w1c⟩, ⟨7, 1, .w1c⟩, ⟨6, 1, .w1c⟩, ⟨5, 1, .w1c⟩, ⟨4, 1, .w1c⟩, ⟨3, 1, .w1c⟩, ⟨2, 1, .w1c⟩, ⟨1, 1, .w1c⟩, ⟨0, 1, .w1c⟩]⟩,
  ⟨0x407000C0, 0x1000, 12, 0x8, 1, false, []⟩,
  ⟨0x407000C8, 0x1000, 12, 0x8, 1, false, []⟩,
  ⟨0x4070C000, 0x8, 1, 0x8, 1, false, [⟨48, 16, .rwi⟩, ⟨32, 16, .rwi⟩, ⟨16, 16, .rwi⟩, ⟨0, 16, .rwi⟩]⟩,
  ⟨0x4070C008, 0x8, 1, 0x8, 1, false, [⟨40, 8, .rwi⟩, ⟨32, 8, .rwi⟩, ⟨3, 1, .w1c⟩, ⟨2, 1, .w1c⟩]⟩,
  ⟨0x4070C010, 0x8, 1, 0x8, 1, false, []⟩,
  ⟨0x4070C018, 0x8, 1, 0x8, 1, false, []⟩,
  ⟨0x4070D000, 0x8, 256, 0x8, 1, false, [⟨0, 12, .rwi⟩, ⟨16, 12, .rwi⟩, ⟨32, 12, .rwi⟩, ⟨48, 12, .rwi⟩]⟩]

/-- The registers of HEM. -/
def regDefsHEM : List RDef := [
  ⟨0x40800000, 0x8, 1, 0x8, 1, false, []⟩,
  ⟨0x40800008, 0x8, 1, 0x8, 1, false, [⟨4, 1, .wo⟩, ⟨3, 1, .wo⟩, ⟨2, 1, .wo⟩, ⟨1, 1, .wo⟩]⟩,
  ⟨0x40800010, 0x8, 1, 0x8, 1, false, [⟨40, 8, .rws⟩, ⟨24, 16, .rws⟩, ⟨0, 7, .rw⟩]⟩,
  ⟨0x40800018, 0x8, 2, 0x8, 1, false, []⟩,
  ⟨0x40800028, 0x8, 2, 0x8, 1, true, []⟩,
  ⟨0x40800038, 0x8, 1, 0x8, 1, false, [⟨48, 16, .wo⟩]⟩,
  ⟨0x40800040, 0x8, 2, 0x8, 1, true, []⟩,
  ⟨0x40800050, 0x8, 2, 0x8, 1, true, []⟩,
  ⟨0x40800060, 0x8, 1, 0x8, 1, true, []⟩,
  ⟨0x40800068, 0x8, 2, 0x8, 1, true, []⟩,
  ⟨0x40800078, 0x8, 1, 0x8, 1, true, []⟩,
  ⟨0x40800080, 0x8, 1, 0x8, 1, false, []⟩,
  ⟨0x40800088, 0x8, 2, 0x8, 1, false, []⟩,
  ⟨0x40800098, 0x8, 1, 0x8, 1, false, []⟩,
  ⟨0x408000A0, 0x8, 1, 0x8, 1, false, []⟩,
  ⟨0x408000A8, 0x8, 1, 0x8, 1, true, [⟨48, 16, .wo⟩, ⟨40, 8, .wo⟩, ⟨32, 8, .wo⟩, ⟨0, 8, .wo⟩]⟩,
  ⟨0x408000B0, 0x8, 8, 0x8, 1, true, [⟨0, 64, .rw⟩]⟩]

/-- The registers of DBG. -/
def regDefsDBG : List RDef := [
  ⟨0x40040000, 0x8, 1, 0x8, 1, false, []⟩,
  ⟨0x40040008, 0x8, 1, 0x8, 1, false, []⟩]

/-- The registers of THM. -/
def regDefsTHM : List RDef := [
  ⟨0x48000000, 0x8, 1, 0x8, 1, false, []⟩,
  ⟨0x48000008, 0x8, 1, 0x8, 1, true, []⟩,
  ⟨0x48000010, 0x8, 2, 0x8, 1, true, []⟩,
  ⟨0x48000020, 0x8, 1, 0x8, 1, false, []⟩,
  ⟨0x48000028, 0x8, 1, 0x8, 1, true, []⟩,
  ⟨0x48000030, 0x8, 1, 0x8, 1, true, []⟩,
  ⟨0x48000038, 0x8, 1, 0x8, 1, false, []⟩,
  ⟨0x48000040, 0x8, 1, 0x8, 1, false, []⟩,
  ⟨0x48000048, 0x8, 1, 0x8, 1, false, []⟩,
  ⟨0x48000050, 0x8, 1, 0x8, 1, false, []⟩,
  ⟨0x48000058, 0x8, 1, 0x8, 1, false, []⟩,
  ⟨0x48000100, 0x8, 2, 0x8, 1, false, []⟩,
  ⟨0x48000110, 0x8, 2, 0x8, 1, false, []⟩,
  ⟨0x48000120, 0x8, 1, 0x8, 1, false, []⟩,
  ⟨0x48000128, 0x8, 1, 0x8, 1, false, []⟩,
  ⟨0x48000130, 0x8, 1, 0x8, 1, false, []⟩,
  ⟨0x48000138, 0x8, 1, 0x8, 1, false, []⟩]

/-- The registers of CAN. -/
def regDefsCAN : List RDef := [
  ⟨0x40900000, 0x10000, 4, 0x8, 1, false, [⟨14, 2, .rwi⟩, ⟨13, 1, .rwi⟩, ⟨12, 1, .rw⟩, ⟨11, 1, .wo⟩, ⟨10, 1, .rwi⟩, ⟨9, 1, .rwi⟩, ⟨8, 1, .rwi⟩, ⟨5, 1, .rwi⟩, ⟨4, 1, .rwi⟩, ⟨0, 1, .rw⟩]⟩,
  ⟨0x40900008, 0x10000, 4, 0x8, 1, false, []⟩,
  ⟨0x40900010, 0x10000, 4, 0x8, 1, false, [⟨56, 1, .rwi⟩, ⟨48, 8, .rwi⟩, ⟨40, 8, .rwi⟩, ⟨16, 9, .rwi⟩, ⟨0, 9, .rwi⟩]⟩,
  ⟨0x40900018, 0x10000, 4, 0x8, 1, false, [⟨56, 1, .rwi⟩, ⟨48, 8, .rwi⟩, ⟨40, 5, .rwi⟩, ⟨32, 5, .rwi⟩, ⟨16, 6, .rwi⟩, ⟨0, 6, .rwi⟩]⟩,
  ⟨0x40900020, 0x10000, 4, 0x8, 1, false, [⟨57, 1, .rwi⟩, ⟨56, 1, .rwi⟩, ⟨48, 8, .rwi⟩, ⟨40, 5, .rwi⟩, ⟨32, 5, .rwi⟩, ⟨16, 6, .rwi⟩, ⟨0, 6, .rwi⟩]⟩,
  ⟨0x40900028, 0x10000, 4, 0x8, 1, false, [⟨16, 3, .w1c⟩, ⟨8, 3, .w1c⟩, ⟨4, 3, .w1s⟩, ⟨0, 3, .w1s⟩]⟩,
  ⟨0x40900030, 0x10000, 4, 0x8, 1, false, [⟨48, 8, .rw⟩, ⟨0, 1, .wo⟩]⟩,
  ⟨0x40900038, 0x10000, 4, 0x8, 1, false, [⟨0, 4, .w1c⟩]⟩,
  ⟨0x40900040, 0x10000, 4, 0x8, 1, false, [⟨48, 16, .rw⟩, ⟨32, 16, .rwi⟩, ⟨31, 1, .rwi⟩, ⟨29, 2, .rw⟩, ⟨0, 29, .rwi⟩]⟩,
  ⟨0x40900048, 0x10000, 4, 0x8, 1, true, []⟩,
  ⟨0x40900050, 0x10000, 4, 0x8, 1, true, []⟩,
  ⟨0x40900058, 0x10000, 4, 0x8, 1, false, []⟩,
  ⟨0x40900060, 0x10000, 4, 0x8, 1, false, []⟩,
  ⟨0x40900068, 0x10000, 4, 0x8, 1, false, []⟩,
  ⟨0x40900800, 0x10000, 4, 0x8, 128, false, [⟨63, 1, .rw⟩, ⟨61, 2, .rw⟩, ⟨59, 2, .rw⟩, ⟨58, 1, .rw⟩, ⟨29, 29, .rw⟩, ⟨0, 29, .rw⟩]⟩]

/-- The registers of ETH. -/
def regDefsETH : List RDef := [
  ⟨0x40A00000, 0x8, 1, 0x8, 1, false, [⟨7, 1, .rwi⟩, ⟨4, 1, .rw⟩, ⟨1, 1, .rw⟩, ⟨0, 1, .rw⟩]⟩,
  ⟨0x40A00008, 0x8, 2, 0x8, 1, false, [⟨0, 1, .rwi⟩]⟩,
  ⟨0x40A00018, 0x8, 1, 0x8, 1, true, [⟨0, 48, .rwi⟩]⟩,
  ⟨0x40A00020, 0x8, 1, 0x8, 1, true, [⟨48, 16, .rwi⟩, ⟨0, 40, .rwi⟩]⟩,
  ⟨0x40A00028, 0x8, 1, 0x8, 1, true, [⟨48, 16, .rwi⟩, ⟨0, 40, .rwi⟩]⟩,
  ⟨0x40A00030, 0x8, 1, 0x8, 1, false, [⟨0, 1, .wo⟩]⟩,
  ⟨0x40A00038, 0x8, 1, 0x8, 1, false, [⟨56, 8, .rwi⟩, ⟨48, 8, .rwi⟩, ⟨40, 8, .rwi⟩, ⟨24, 8, .rwi⟩, ⟨16, 8, .rwi⟩, ⟨8, 8, .rwi⟩]⟩,
  ⟨0x40A00040, 0x8, 2, 0x8, 1, true, []⟩,
  ⟨0x40A00050, 0x8, 1, 0x8, 1, true, []⟩,
  ⟨0x40A00058, 0x8, 2, 0x8, 1, false, []⟩,
  ⟨0x40A00068, 0x8, 1, 0x8, 1, false, []⟩]

/-- The registers of SFL. -/
def regDefsSFL : List RDef := [
  ⟨0x40B00000, 0x8, 1, 0x8, 1, false, [⟨48, 16, .rwi⟩, ⟨40, 8, .rwi⟩, ⟨32, 8, .rws⟩, ⟨24, 5, .rwi⟩, ⟨18, 2, .rwi⟩, ⟨17, 1, .rwi⟩, ⟨16, 1, .rw⟩, ⟨0, 10, .rwi⟩]⟩,
  ⟨0x40B00008, 0x8, 1, 0x8, 1, false, []⟩,
  ⟨0x40B00010, 0x8, 1, 0x8, 1, true, []⟩,
  ⟨0x40B00018, 0x8, 1, 0x8, 1, true, []⟩,
  ⟨0x40B00020, 0x8, 1, 0x8, 1, true, []⟩,
  ⟨0x40B00028, 0x8, 1, 0x8, 1, false, []⟩,
  ⟨0x40B00040, 0x8, 1, 0x8, 1, false, [⟨0, 1, .wo⟩]⟩,
  ⟨0x40B00048, 0x8, 1, 0x8, 1, false, [⟨0, 16, .wo⟩]⟩,
  ⟨0x40B00050, 0x8, 1, 0x8, 1, false, [⟨8, 8, .wo⟩, ⟨0, 8, .wo⟩]⟩,
  ⟨0x40B00058, 0x8, 1, 0x8, 1, false, []⟩,
  ⟨0x40B01000, 0x20, 256, 0x8, 1, false, [⟨63, 1, .rws⟩, ⟨62, 1, .rws⟩, ⟨61, 1, .rws⟩, ⟨56, 2, .rws⟩, ⟨54, 2, .rws⟩, ⟨48, 4, .rws⟩, ⟨32, 16, .rws⟩, ⟨0, 32, .rws⟩]⟩,
  ⟨0x40B01008, 0x20, 256, 0x8, 1, true, [⟨0, 64, .rws⟩]⟩,
  ⟨0x40B01010, 0x20, 256, 0x8, 1, true, []⟩]

/-- The registers of CRC. -/
def regDefsCRC : List RDef := [
  ⟨0x40C00000, 0x1000, 8, 0x8, 1, false, [⟨0, 3, .rwi⟩]⟩,
  ⟨0x40C00008, 0x1000, 8, 0x8, 1, false, [⟨5, 1, .w1c⟩, ⟨2, 1, .wo⟩, ⟨1, 1, .wo⟩, ⟨0, 1, .wo⟩]⟩,
  ⟨0x40C00010, 0x1000, 8, 0x8, 1, true, [⟨0, 64, .rwi⟩]⟩,
  ⟨0x40C00018, 0x1000, 8, 0x8, 1, true, []⟩,
  ⟨0x40C00020, 0x1000, 8, 0x8, 1, false, [⟨0, 64, .wo⟩]⟩,
  ⟨0x40C00028, 0x1000, 8, 0x8, 1, true, [⟨0, 40, .rwi⟩]⟩,
  ⟨0x40C00030, 0x1000, 8, 0x8, 1, true, [⟨0, 40, .rwi⟩]⟩]

/-- The registers of SPI. -/
def regDefsSPI : List RDef := [
  ⟨0x40D00000, 0x8, 1, 0x8, 1, false, []⟩,
  ⟨0x40D00100, 0x8, 1, 0x8, 1, false, [⟨24, 8, .rwi⟩, ⟨16, 8, .rwi⟩, ⟨0, 8, .rwi⟩]⟩,
  ⟨0x40D00108, 0x8, 1, 0x8, 1, false, [⟨48, 16, .rwi⟩, ⟨47, 1, .rwi⟩, ⟨46, 1, .rwi⟩, ⟨41, 5, .rwi⟩, ⟨39, 2, .rwi⟩, ⟨37, 2, .rwi⟩, ⟨36, 1, .rwi⟩, ⟨34, 2, .rwi⟩, ⟨33, 1, .rwi⟩, ⟨31, 2, .rwi⟩, ⟨30, 1, .rwi⟩, ⟨29, 1, .rwi⟩, ⟨8, 8, .rwi⟩, ⟨0, 8, .rwi⟩]⟩,
  ⟨0x40D00110, 0x8, 1, 0x8, 1, true, [⟨0, 40, .rwi⟩]⟩,
  ⟨0x40D00118, 0x8, 1, 0x8, 1, true, [⟨0, 40, .rwi⟩]⟩,
  ⟨0x40D00120, 0x8, 1, 0x8, 1, false, [⟨0, 1, .wo⟩]⟩,
  ⟨0x40D00128, 0x8, 1, 0x8, 1, true, [⟨0, 64, .rwi⟩]⟩,
  ⟨0x40D00130, 0x8, 1, 0x8, 1, true, [⟨0, 64, .rwi⟩]⟩,
  ⟨0x40D00138, 0x8, 1, 0x8, 1, false, []⟩,
  ⟨0x40D00200, 0x8, 4, 0x8, 1, false, [⟨24, 8, .rwi⟩, ⟨16, 8, .rwi⟩, ⟨8, 8, .rwi⟩, ⟨2, 1, .rwi⟩, ⟨1, 1, .rwi⟩, ⟨0, 1, .rwi⟩]⟩,
  ⟨0x40D00220, 0x8, 1, 0x8, 1, false, [⟨63, 1, .wo⟩, ⟨62, 1, .wo⟩, ⟨60, 2, .wo⟩, ⟨48, 5, .wo⟩, ⟨0, 32, .wo⟩]⟩,
  ⟨0x40D00228, 0x8, 1, 0x8, 1, false, [⟨32, 1, .wo⟩]⟩,
  ⟨0x40D00230, 0x8, 1, 0x8, 1, true, [⟨48, 16, .rw⟩, ⟨0, 40, .rw⟩]⟩,
  ⟨0x40D00238, 0x8, 1, 0x8, 1, false, []⟩]

/-- The registers of LUA. -/
def regDefsLUA : List RDef := [
  ⟨0x40D10000, 0x100, 4, 0x8, 1, false, [⟨48, 16, .rwi⟩, ⟨44, 4, .rwi⟩, ⟨32, 8, .rwi⟩, ⟨6, 2, .rwi⟩, ⟨5, 1, .rwi⟩, ⟨4, 1, .rwi⟩, ⟨2, 2, .rwi⟩, ⟨0, 1, .rw⟩]⟩,
  ⟨0x40D10008, 0x100, 4, 0x8, 1, false, [⟨16, 1, .wo⟩, ⟨0, 8, .wo⟩]⟩,
  ⟨0x40D10010, 0x100, 4, 0x8, 1, false, [⟨56, 1, .wo⟩, ⟨54, 2, .rw⟩, ⟨53, 1, .rw⟩, ⟨48, 4, .rw⟩, ⟨32, 6, .rw⟩]⟩,
  ⟨0x40D10018, 0x100, 4, 0x8, 1, true, [⟨0, 64, .rw⟩]⟩,
  ⟨0x40D10028, 0x100, 4, 0x10, 4, true, [⟨0, 64, .rw⟩]⟩,
  ⟨0x40D10020, 0x100, 4, 0x10, 4, false, [⟨63, 1, .rw⟩, ⟨62, 1, .rw⟩, ⟨61, 1, .rw⟩, ⟨60, 1, .w1c⟩, ⟨56, 4, .rw⟩, ⟨48, 6, .rw⟩]⟩,
  ⟨0x40D10060, 0x100, 4, 0x8, 1, false, []⟩,
  ⟨0x40D10068, 0x100, 4, 0x8, 1, false, []⟩]

/-- The registers of NFC. -/
def regDefsNFC : List RDef := [
  ⟨0x40E00000, 0x8, 1, 0x8, 1, false, [⟨8, 6, .rw⟩, ⟨0, 2, .wo⟩]⟩,
  ⟨0x40E00008, 0x8, 1, 0x8, 1, false, []⟩,
  ⟨0x40E00010, 0x8, 1, 0x8, 1, false, [⟨0, 16, .rw⟩]⟩,
  ⟨0x40E00018, 0x8, 1, 0x8, 1, false, []⟩]

/-- The registers of FLW. -/
def regDefsFLW : List RDef := [
  ⟨0x40E10000, 0x8, 1, 0x8, 1, false, [⟨48, 16, .rw⟩, ⟨40, 8, .rwi⟩, ⟨32, 8, .rwi⟩, ⟨24, 8, .rwi⟩, ⟨16, 8, .rwi⟩, ⟨8, 8, .rwi⟩, ⟨4, 4, .rwi⟩, ⟨1, 1, .rw⟩, ⟨0, 1, .rw⟩]⟩,
  ⟨0x40E10008, 0x8, 1, 0x8, 1, true, [⟨48, 16, .rwi⟩, ⟨32, 16, .rwi⟩, ⟨16, 16, .rwi⟩, ⟨0, 16, .rwi⟩]⟩,
  ⟨0x40E10010, 0x8, 1, 0x8, 1, false, [⟨48, 16, .rw⟩, ⟨32, 16, .rw⟩, ⟨16, 16, .rw⟩, ⟨0, 16, .rw⟩]⟩,
  ⟨0x40E10018, 0x8, 1, 0x8, 1, true, []⟩,
  ⟨0x40E10020, 0x8, 1, 0x8, 1, true, []⟩,
  ⟨0x40E10028, 0x8, 1, 0x8, 1, true, []⟩,
  ⟨0x40E10030, 0x8, 1, 0x8, 1, false, []⟩]

/-- The registers of EVR. -/
def regDefsEVR : List RDef := [
  ⟨0x40010000, 0x8, 768, 0x8, 1, false, [⟨9, 3, .rw⟩, ⟨0, 6, .rw⟩]⟩,
  ⟨0x40012000, 0x8, 768, 0x8, 1, true, []⟩,
  ⟨0x40014000, 0x80, 6, 0x8, 12, false, [⟨0, 64, .w1c⟩]⟩,
  ⟨0x40014400, 0x20, 6, 0x8, 1, true, []⟩,
  ⟨0x40014408, 0x20, 6, 0x8, 1, false, [⟨0, 10, .wo⟩]⟩,
  ⟨0x40014410, 0x20, 6, 0x8, 1, false, [⟨0, 3, .rw⟩]⟩,
  ⟨0x40014418, 0x20, 6, 0x8, 1, false, []⟩]

/-- The registers of DTM. -/
def regDefsDTM : List RDef := [
  ⟨0x40020000, 0x8, 1, 0x8, 1, true, []⟩,
  ⟨0x40020008, 0x8, 1, 0x8, 1, false, [⟨48, 16, .rw⟩, ⟨40, 8, .rw⟩, ⟨32, 8, .rw⟩, ⟨16, 16, .rw⟩, ⟨0, 16, .rw⟩]⟩,
  ⟨0x40020010, 0x8, 1, 0x8, 1, false, [⟨0, 32, .rws⟩]⟩,
  ⟨0x40020018, 0x8, 1, 0x8, 1, false, []⟩,
  ⟨0x40020020, 0x8, 1, 0x8, 1, true, []⟩,
  ⟨0x40020028, 0x8, 1, 0x8, 1, false, []⟩]

/-- The registers of JNL. -/
def regDefsJNL : List RDef := [
  ⟨0x40030000, 0x8, 1, 0x8, 1, false, []⟩,
  ⟨0x40030008, 0x8, 5, 0x8, 1, true, [⟨0, 64, .rw⟩]⟩,
  ⟨0x40030030, 0x8, 1, 0x8, 1, false, [⟨0, 8, .wo⟩]⟩,
  ⟨0x40030038, 0x8, 1, 0x8, 1, false, []⟩,
  ⟨0x40030040, 0x8, 1, 0x8, 1, false, []⟩]

/-- The definition in `l` whose address `a` is, with its indices. -/
def findReg (a : Nat) : List RDef → Option (RDef × Nat × Nat)
  | [] => none
  | r :: t =>
    if r.base ≤ a ∧ (a - r.base) / r.s1 < r.c1 ∧ ((a - r.base) % r.s1) / r.s2 < r.c2
        ∧ ((a - r.base) % r.s1) % r.s2 = 0 then
      some (r, (a - r.base) / r.s1, ((a - r.base) % r.s1) / r.s2)
    else findReg a t

/-- The register defined at physical address `a`, if one is (R11: elsewhere in a register range the space is reserved). -/
def regDefAt (a : Nat) : Option (RDef × Nat × Nat) :=
    if a < 0x40000000 then none else
    if a < 0x40010000 then findReg a regDefsSYS else
    if a < 0x40020000 then findReg a regDefsEVR else
    if a < 0x40030000 then findReg a regDefsDTM else
    if a < 0x40040000 then findReg a regDefsJNL else
    if a < 0x40100000 then findReg a regDefsDBG else
    if a < 0x40110000 then findReg a regDefsADC else
    if a < 0x40200000 then findReg a regDefsAUX else
    if a < 0x40300000 then findReg a regDefsPOS else
    if a < 0x40400000 then findReg a regDefsCLU else
    if a < 0x40500000 then findReg a regDefsPWM else
    if a < 0x40700000 then findReg a regDefsGCH else
    if a < 0x40800000 then findReg a regDefsSTP else
    if a < 0x40900000 then findReg a regDefsHEM else
    if a < 0x40A00000 then findReg a regDefsCAN else
    if a < 0x40B00000 then findReg a regDefsETH else
    if a < 0x40C00000 then findReg a regDefsSFL else
    if a < 0x40D00000 then findReg a regDefsCRC else
    if a < 0x40D10000 then findReg a regDefsSPI else
    if a < 0x40E00000 then findReg a regDefsLUA else
    if a < 0x40E10000 then findReg a regDefsNFC else
    if a < 0x40F00000 then findReg a regDefsFLW else
    if a < 0x41000000 then findReg a regDefsFIO else
    if a < 0x41400000 then findReg a regDefsCEN else
    if a < 0x41408000 then findReg a regDefsCENC else
    if a < 0x48000000 then findReg a regDefsSPL else
    if a < 0x48010000 then findReg a regDefsTHM else
    none

end Sys2Proof.Machine
end

