-- ==== Sys2Proof/Machine/State.lean ====
section
/-!
DEFINITION. Machine/State.lean: the state of the module as plain data. `Dev.regs` holds every register of the register
tables of spec/ (a sparse canonical table; an unlisted register holds its reset value, Machine/RegMap.lean); the other
records hold what the rules give the module beside its registers. `State` adds the memories and the queue of waiting
commands. Faults and refusals are closed lists.
-/
namespace Sys2Proof.Machine

/-! ## Spool, events and journal -/

/-- A Spool channel beside its registers: the queue of kept records (R236), the group of records being decimated or
averaged (R235), the previous kept value (R238) and the records written since the trigger (R239). -/
structure SpoolCh where
  queue : List (List (BitVec 64)) := []
  seen : Nat := 0
  first : Nat := 0
  sum : Int := 0
  allValid : Bool := false
  anyClip : Bool := false
  prev : Option Int := none
  post : Nat := 0
deriving DecidableEq, Repr

/-- A journal entry waiting in the queue (R440, R441); `born` is the model's elapsed time when it was queued. -/
structure JEntry where
  stamp : Nat := 0
  tepoch : Nat := 0
  source : Nat := 0
  kind : Nat := 0
  origin : Nat := 0
  data : List (BitVec 64) := []
  born : Nat := 0
deriving DecidableEq, Repr

/-- The journal beside its registers: the queue, the stamp of the last entry written, the entries lost since the last
gap entry, and, from a supply-loss event on, how many of the 64 entries after it are still admitted (R441, R445);
`mirror` holds the numbers of the fault entries not yet mirrored to the service tag (R418). -/
structure Jnl where
  queue : List JEntry := []
  last : Option Nat := none
  lost : Nat := 0
  budget : Option Nat := none
  portClosed : Bool := false
  flushT0 : Nat := 0
  mirror : List Nat := []
deriving DecidableEq, Repr

/-! ## Power, clocks and start-up -/

/-- Power and clock state beside the SYS registers (R28, R33, R47); `wakeTick` is the always-on tick in which a wake source last
woke the module or aborted a sleep (R36). -/
structure Pwr where
  off : Bool := false
  asleep : Bool := false
  lossInSleep : Bool := false
  vsupLow : Bool := false
  belowMin : Bool := false
  recovering : Bool := false
  fromWake : Bool := false
  wakeTick : Option Nat := none
  wakeHigh : Bool := false
  pllHw : Nat := 0
  charging : Bool := true
  closedMem : Bool := false
deriving DecidableEq, Repr

/-- One directory entry of an image (R62). -/
structure Sect where
  typ : Nat := 0
  flags : Nat := 0
  off : Nat := 0
  len : Nat := 0
  crc : Nat := 0
deriving DecidableEq, Repr

/-- The local start (R67, R69, R71): the stage reached, the slot in trial, the slots tried, the header and directory
read, the digest of the stream, the staged configuration words and whether the staged content is valid. -/
structure Boot where
  stage : Nat := 1
  slot : Nat := 0
  tried : Nat := 0
  verify : Bool := false
  imgLen : Nat := 0
  version : Nat := 0
  seq : Nat := 0
  keySlot : Nat := 0
  flags : Nat := 0
  sects : List Sect := []
  digest : Nat := 0
  staged : ImgContent := {}
  recovery : Bool := false
  heldReset : Bool := false
  pllTries : Nat := 0
  calStart : Bool := false
  fnFault : Bool := false
  runSects : List Sect := []
  lastReset : Option Nat := none
deriving DecidableEq, Repr

/-- A slot of the one-time key store (R65). -/
structure KeySlot where
  programmed : Bool := false
  safety : Bool := false
  revoked : Bool := false
  digest : Nat := 0
deriving DecidableEq, Repr

/-- A record kept as a two-copy commit (R446): two copies, each with a generation number and whether its CRC holds. -/
structure Twin (α : Type) where
  v1 : α
  v2 : α
  g1 : Nat := 0
  g2 : Nat := 0
  ok1 : Bool := true
  ok2 : Bool := true
deriving DecidableEq, Repr

/-- The committed safety parameter set (R66, R338): the records of the type 2 and type 8 sections it was installed
from, and the two section digests. -/
structure SafeSet where
  present : Bool := false
  recs : List (Nat × BitVec 64) := []
  safeDig : Nat := 0
  hemDig : Nat := 0
deriving DecidableEq, Repr

/-- The calibration area (R96, R436): the crystal correction in ppb, the reference trim in µV, and whether the copy is
bound to this ordering number. -/
structure Cal where
  bound : Bool := true
  trimPpb : Int := 0
  refTrim : Int := 0
deriving DecidableEq, Repr

/-- The password record (R331): the salt, the digest, and whether the initial password is in force. -/
structure Pwd where
  init : Bool := true
  salt : BitVec 128 := 0
  hash : Nat := 0
deriving DecidableEq, Repr

/-- The persistent records beside `mem`: key store, committed set, calibration, change-log fill count and
acknowledgements, remaining lockout in seconds, password (R446). -/
structure Persist where
  keys : List (Nat × KeySlot) := []
  safe : Twin SafeSet := { v1 := {}, v2 := {} }
  cal : Twin Cal := { v1 := {}, v2 := {} }
  fill : Twin Nat := { v1 := 0, v2 := 0 }
  acks : Nat := 0
  lock : Twin Nat := { v1 := 0, v2 := 0 }
  pwd : Twin Pwd := { v1 := {}, v2 := {} }
  jnlNum : Nat := 0
deriving DecidableEq, Repr

/-- A field output beside its registers (R51): the MODE its switches apply now (0 high impedance), whether it sourced
at its last latch, and the model time of that latch. -/
structure Fo where
  drive : Nat := 0
  sourcing : Bool := false
  latchAt : Option Nat := none
deriving DecidableEq, Repr

/-- Digital inputs and bank supplies beside the FIO registers: the inputs whose filter runs, the banks under a supply
fault, and the outputs held at high impedance by a supply loss (R54, R56). -/
structure Fio where
  running : Nat := 0
  bankFault : Nat := 0
  lossHiz : Bool := false
deriving DecidableEq, Repr

/-! ## Gate channels -/

/-- The high-voltage half of a gate channel (R168 to R185, R474) and its two shut-off paths (R309). `latch` and `cause` have the
layout of GCH_FLT; `scOff` records that the leg's partner was commanded off when this channel latched a short circuit or
desaturation (R187); `armed` and `running` are GCH13's autonomous firing and its discharge run (R193); `edge` is an edge command
on its way across the isolation (R147) and `blankNs` its blanking window, `blankEnd` the end of the running one (R157); `segOn`
and `segOff` are the working tables, `strength` the segments that drive the last edge, `edgeT` and `tsT` the domain times of the
last executed edge and measured switching time (R168, R169, R174); `ascDt` is taken over at training (R185), `trainFailed` says
that a training has failed since the last one (R73), and `vpos` and `vneg` are the supplies in 0.1 V as the half last found them.
-/
structure Gch where
  powered : Bool := false
  link : Bool := false
  sync : Bool := false
  trainedOnce : Bool := false
  latch : Nat := 0
  cause : Nat := 0
  reported : Nat := 0
  gate : Bool := false
  onAt : Nat := 0
  offAt : Nat := 0
  lastOn : Nat := 0
  lastOff : Nat := 0
  strength : Nat := 0
  scOff : Bool := false
  permit1 : Bool := false
  permit2 : Bool := false
  armed : Bool := false
  running : Bool := false
  edge : Option Bool := none
  blankNs : Nat := 0
  blankEnd : Nat := 0
  segOn : BitVec 64 := 0x0C0C0C0C0C0C0C0C
  segOff : BitVec 64 := 0x0C0C0C0C0C0C0C0C
  edgeT : Nat := 0
  tsT : Nat := 0
  ascDt : Nat := 0
  trainFailed : Bool := false
  vpos : Nat := 0
  vneg : Nat := 0
deriving DecidableEq, Repr

/-! ## PWM -/

/-- A carrier beside its registers: the newest committed compare set and a late one that a newer set follows (R153), the set
transferred last as (rise, fall) per leg, the legs commanded high, the legs whose edge is still due in this half period or falls
on the next mark, the legs in a dead time, the commanded and the driven switches, the switches forced off with their instants and
those not on again since (R160), the constant on-time or off-time phase (R158, R159), the half period in effect, the requested
values with Hem's minima as they were last counted (R149, R155), whether the next mark is a peak, the instants of the last mark,
of the start and of the last freeze (R151, R162), and, on CAR2, the earliest instant at which the next brake pulse can start
(R192). -/
structure Car where
  shadow : Option (List (Nat × Nat)) := none
  held : Option (List (Nat × Nat)) := none
  cur : List (Nat × Nat) := []
  leg : Nat := 0
  todo : Nat := 0
  onMark : Nat := 0
  dead : Nat := 0
  cmd : Nat := 0
  sw : Nat := 0
  forced : Nat := 0
  forcedAt : List (Nat × Nat) := []
  stuck : Nat := 0
  onPhase : Bool := false
  offPhase : Bool := false
  half : Nat := 10000
  halfKey : Nat × Nat := (0, 0)
  lhKey : Nat × Nat := (0, 0)
  hlKey : Nat × Nat := (0, 0)
  peakNext : Bool := false
  lastMark : Nat := 0
  startAt : Nat := 0
  frozenAt : Nat := 0
  earliest : Nat := 0
deriving DecidableEq, Repr

/-! ## Converters -/

/-- A pipeline converter beside its registers (R84 to R90): a start deferred until the reference is READY, the input of
the previous aperture, the apertures still blanked, whether the current slot restarts after an abort and whether its
trigger is registered, the running slot's sum and flags with the word of its first stamp, the queued urgent requests
(0 from firmware, 1 or 2 for that vector of a current-loop unit; input; count), the running one, and the completed slots
whose results are in the pipeline. -/
structure Adc where
  deferred : Bool := false
  mux : Option Nat := none
  blank : Nat := 0
  restart : Bool := false
  trig : Bool := false
  sum : Int := 0
  first : Nat := 0
  allValid : Bool := true
  anyClip : Bool := false
  queue : List (Nat × Nat × Nat) := []
  urg : Option (Nat × Nat × Nat) := none
  pub : List (Nat × BitVec 64) := []
deriving DecidableEq, Repr

/-- An auxiliary converter beside its registers (R98): the entry of the running scan, and whether a scan is due. -/
structure Aux where
  entry : Option Nat := none
  due : Bool := false
deriving DecidableEq, Repr

/-- What the running image names beside registers: the collector pair of each current-loop unit's set-points (R132), the
word of each position port's speed command (R116), and each pair's private region as base and size (R277). -/
structure Names where
  priv : List (Nat × Nat × Nat) := []
  pair : List (Nat × Nat) := []
  speed : List (Nat × Nat) := []
deriving DecidableEq, Repr

/-! ## The current loop -/

/-- A return-leg vector of the running period (R138, R139): 1 or 2, the leg whose current it shows, its start in 1/32 ns of
domain time, its length in ticks, whether it is measurable, whether its request was issued, and the current measured. -/
structure Vect where
  vec : Nat := 0
  leg : Nat := 0
  start : Nat := 0
  len : Nat := 0
  ok : Bool := false
  asked : Bool := false
  got : Option Int := none
deriving DecidableEq, Repr

/-- A current-loop unit beside its registers (R125 to R142): the sample records of each phase and of the return leg since the last
update, the newest valid UDC result in Q32.32 V with its stamp, the set-point pair in force (R132), the integrators (R133), the
last compare set, the domain time at which TEST went over to RUN (R144), the runs of short updates and of periods without
reconstruction (R126, R141), the phase currents of this update and of the update at the peak, with whether this update has any,
the disagreement streak with the phases it held, whether each period held that one phase alone and failed the sum check (R140),
whether this period failed the sum check (R127), whether no valid comparison was made since STARVED (R142, R146), the vectors of
the period, and the shifts owed to the falling half in ticks (R139). -/
structure Clu where
  winU : List (BitVec 64) := []
  winV : List (BitVec 64) := []
  winW : List (BitVec 64) := []
  ret : List (BitVec 64) := []
  udc : Int := 0
  udcAt : Option Nat := none
  refD : Int := 0
  refQ : Int := 0
  intD : Int := 0
  intQ : Int := 0
  cmp : List (Nat × Nat) := []
  runAt : Nat := 0
  shorts : Nat := 0
  missed : Nat := 0
  iNow : List Int := []
  iPeak : List Int := []
  fresh : Bool := false
  streak : Nat := 0
  streakSet : Nat := 0
  streakOne : Bool := true
  streakSum : Bool := true
  sumBad : Bool := false
  starved : Bool := false
  plan : List Vect := []
  owed : List Int := []
deriving DecidableEq, Repr

/-! ## Rotor position -/

/-- A position port beside its registers (R108 to R121): the observer with the instant of its last good measurement, the
bad readings in a row, the sensor fault and the causes still present (R113, R115); the excitation mark whose resolver
pair is open, its results, the values of the previous half period, the excitation value of this one and whether the excitation
check fails (R108, R109);
the filtered A and B levels, the count, its shift and the count at
the last index (R110, R111); the running serial frame, the start of the last one, the last accepted reading and their instants
(R112); the domain time of the last good measurement; the entry into OPEN (R116); the swap that last published the estimate, the
estimate SLS extrapolates and where its position goes on from (R116); the last DISAGREE (R118); the epochs the estimate has been
stale; and the saturation-pulse start: the running pulse, whether it decays, the direction found (R119 to R121). -/
structure Pos where
  init : Bool := false
  theta : Int := 0
  omega : Int := 0
  tk : Nat := 0
  bad : Nat := 0
  fault : Bool := false
  live : Nat := 0
  markPol : Int := 1
  pairOpen : Bool := false
  gotS : Option (BitVec 64) := none
  gotC : Option (BitVec 64) := none
  sinHalf : Option Int := none
  cosHalf : Option Int := none
  excHalf : Option Int := none
  excNow : Option Int := none
  excBad : Bool := false
  abz : Nat := 0
  count : Int := 0
  shift : Int := 0
  lastIndex : Int := 0
  frameAt : Option Nat := none
  frameLast : Option Nat := none
  lastRead : Option Int := none
  lastReadAt : Nat := 0
  openAngle : Int := 0
  openAt : Nat := 0
  goodAt : Nat := 0
  estAt : Nat := 0
  estStamp : Nat := 0
  slsAngle : Int := 0
  slsSpeed : Int := 0
  slsAt : Nat := 0
  slsPos : Int := 0
  slsPosAt : Nat := 0
  disAt : Option Nat := none
  staleEpochs : Nat := 0
  alignOn : Bool := false
  pulse : Nat := 0
  inDecay : Bool := false
  thetaD : Int := 0
deriving DecidableEq, Repr

/-! ## Cores, Darn and Hem -/

/-- One of the two checkpoint buffers of a pair (R276): the integer registers; f0 to f31, fcsr, pc, privilege mode and the
machine and supervisor CSRs under their abstract register numbers; and the words of the pair's event-acknowledgement state. -/
structure Chk where
  x : List (Nat × BitVec 64) := []
  sys : List (Nat × BitVec 64) := []
  ack : List (BitVec 64) := []
deriving DecidableEq, Repr

/-- A core pair beside the HEM registers (R276 to R289): undo-log entries of the private region, newest first, the
checkpoint's number and instant, the two checkpoint buffers, of which the one with the number's parity is valid, the instants of
recent mismatches, the start of the restart, a pending split, the core of the pair that waits in REJOIN, the cores of the pair in
a parity self-test, and the events delivered since the last checkpoint. -/
structure Pair where
  undo : List (Nat × BitVec 64) := []
  checkpoint : Nat := 0
  checkAt : Nat := 0
  chk0 : Chk := {}
  chk1 : Chk := {}
  mismatches : List Nat := []
  restartAt : Nat := 0
  splitWanted : Bool := false
  rejoiner : Option Nat := none
  selfTest : Nat := 0
  events : List Nat := []
deriving DecidableEq, Repr

/-- Hem beside its registers (R286, R291 to R298): why hold is in force, one bit per cause; the last watchdog service;
when both pairs were retired, and the application-side reset that followed; the groups under derating; the last valid
temperature of each source in m°C with its instant, the present readings of the TMP inputs; and the derated limit of each
group in 2^-16 of 0.1 A. -/
structure Hem where
  why : Nat := 2
  dogAt : Nat := 0
  bothRetiredAt : Option Nat := none
  retiredReset : Option Nat := none
  derated : Nat := 0
  temp : List (Nat × Int × Nat) := []
  tmp : List (Nat × Option Int) := []
  eff : List (Nat × Int) := []
deriving DecidableEq, Repr

/-! ## Thimble -/

/-- A group's Thimble record beside THM_GRP (R311 to R318, R329, R343): the firmware demands, the speed read last and the
instant from which it has been below REST_SPD, |n| at the entry into SS1 (both speeds in Q32.32 rev/s), the wait for the
brake, and whether a PATH or SS1 latch acts on this group. -/
structure ThmGrp where
  fwSto : Bool := false
  fwSs1 : Bool := false
  n : Int := 0
  restSince : Option Nat := none
  n0 : Nat := 0
  waitBrake : Bool := false
  pathFlt : Bool := false
  ss1Flt : Bool := false
deriving DecidableEq, Repr

/-- Thimble beside the mailbox (R306 to R343): the brake outputs, a commanded discharge run, the group of a winding
discharge, the instants at which the channels a and b of each safety-input pair last closed, the RWS writes stored in the
open safety unlock, the start of the GATE_EN low pulse being measured, whether a start-up fault holds FAULT_N, and the pairs
that latched SI_DISC. -/
structure Thm where
  fo14 : Bool := false
  fo15 : Bool := false
  disRun : Bool := false
  windGrp : Option Nat := none
  closedAt : List (Nat × Nat × Nat) := []
  rwsStored : Nat := 0
  gateFall : Nat := 0
  fnHold : Bool := false
  discPairs : Nat := 0
deriving DecidableEq, Repr

/-! ## Stepper axes -/

/-- One coil of an axis: the chopper phase (0 off, 1 on, 2 fast decay, 3 tail), the polarity in force, the length of the
last on-phase in ns and whether R250 ended it, on-phases in a row ended so and whether the next AUX1 result decides OPEN
(R268), the stall window with its sums (R260), the offset batch (R251), and the coil target in mA × 2,047 with the domain
time of its last change. -/
structure Coil where
  phase : Nat := 0
  pol : Bool := false
  lastOn : Nat := 0
  limited : Bool := false
  missRun : Nat := 0
  openDue : Bool := false
  window : Bool := false
  sumOn : Nat := 0
  sumOff : Nat := 0
  cycles : Nat := 0
  iSum : Nat := 0
  iN : Nat := 0
  errSum : Int := 0
  errN : Nat := 0
  tgt : Int := 0
  tgtAt : Nat := 0
deriving DecidableEq, Repr

/-- A stepper axis beside its registers (R248 to R266): the internal count with its fraction in 10^-7 × 2^-32 microstep, the
shift, the acceleration in 10^-7 of its register's unit, the position target in force (internal) and the velocity target in force,
the follow target with the direction and the instants of the last two step edges, whether a stop has discarded the target (R256),
the stop with E_DEC, why HOLD is in force, whether the bridges run, the homing travel, latch and release, the stall run, whether
the last stall window was void, and the coils. -/
structure Axis where
  count : Int := 0
  frac : Int := 0
  shift : Int := 0
  acc : Int := 0
  hasTgt : Bool := false
  tgt : Int := 0
  hasV : Bool := false
  vt : Int := 0
  follow : Int := 0
  stepNeg : Bool := false
  edgeAt : Option Nat := none
  edgeGap : Nat := 0
  stopped : Bool := false
  eStop : Bool := false
  holdWhy : Nat := 0
  bridges : Bool := false
  homeFrom : Int := 0
  homeLatch : Int := 0
  homeRel : Option Int := none
  stallRun : Nat := 0
  voided : Bool := false
  coilA : Coil := {}
  coilB : Coil := {}
deriving DecidableEq, Repr

/-! ## The control engine -/

/-- An operation in flight in a slice (R200): its destination words with their values, whether it is a MAC or MSU, the
port and request an assist operation serves (R232), and whether its result is discarded (R229). -/
structure Flight where
  dsts : List (Nat × BitVec 64) := []
  mac : Bool := false
  assist : Option (Nat × Nat) := none
  squashed : Bool := false
deriving DecidableEq, Repr

/-- A slice beside its registers (R199 to R215): the accumulator in 2^-64, the operations in flight, the output slots
written in this run, whether the run began with START set, the epoch count `k`, whether the slice is due in the current
epoch, a presented block not yet accepted, and whether this epoch's block is on time. -/
structure Slice where
  acc : Int := 0
  flight : List Flight := []
  outs : List (Nat × BitVec 64) := []
  began : Bool := false
  k : Nat := 0
  due : Bool := false
  block : Option (List (Nat × BitVec 64)) := none
  onTime : Bool := false
deriving DecidableEq, Repr

/-- An epoch group beside its registers (R204 to R211): whether its epoch is not published yet and whether it has closed,
the registration instant, the prescaler count, the last accepted trigger with the time since the one before and its
domain time, the pending copies accepted in this epoch, and the triggers raised but not registered yet. -/
structure EGrp where
  live : Bool := false
  closed : Bool := false
  regAt : Nat := 0
  cnt : Nat := 0
  last : Option Nat := none
  gap : Nat := 0
  trigT : Nat := 0
  pend : List (Nat × BitVec 64) := []
  trigs : Nat := 0
deriving DecidableEq, Repr

/-- A tune commit that waits for its group's trigger (R219): the group, the entries (slice, word, value), RESTART. -/
structure Commit where
  grp : Nat := 0
  entries : List (Nat × Nat × BitVec 64) := []
  restart : Bool := false
deriving DecidableEq, Repr

/-- A loop-assist write instruction in a commit buffer, with its register operands (R224, R227). -/
inductive LaWrite where
  | tset (a v : BitVec 64)
  | tcommit (a : BitVec 64)
  | run (a : BitVec 64)
deriving DecidableEq, Repr

/-- A loop-assist compute instruction of a port that is outstanding (R232): its number, rd, operation (funct7), operands,
whether it has issued in the assist slice, and its result. -/
structure LaReq where
  id : Nat := 0
  rd : Nat := 0
  op : Nat := 0
  a : BitVec 64 := 0
  b : BitVec 64 := 0
  issued : Bool := false
  value : Option (BitVec 64) := none
deriving DecidableEq, Repr

/-- A loop-assist instruction at issue (R224): a read or a compute by rd, its funct7 and its register operands, or a write. -/
inductive LaOp where
  | read (rd k : Nat) (v : BitVec 64)
  | compute (rd k : Nat) (a b : BitVec 64)
  | write (w : LaWrite)
deriving DecidableEq, Repr

/-- A tune port (R225): 0 to 3 the instruction ports of the cores, 4 the register port. The staged entries (index, slice,
word, value), the waiting commit, the commit buffer, the outstanding computes with the next number, the core's integer
registers as loop-assist instructions left them, the last custom-0 word that raised an illegal-instruction exception
(R223), the instructions that wait at issue, oldest first (R227, R228, R232), the reads that a squash can still reach, newest
first, as rd with the value it had, the computes that have returned and that a squash can still reach, newest first, as rd with the
value it had and the slice that worked (R229), and the core's other registers under their abstract register numbers of the RISC-V
debug specification: CSRs by number, pc as dpc, the privilege mode in dcsr, f0 to f31 from 0x1020 on (R276, R300). -/
structure Port where
  staged : List (Nat × Nat × Nat × BitVec 64) := []
  wait : Option Commit := none
  buf : List LaWrite := []
  out : List LaReq := []
  next : Nat := 0
  x : List (Nat × BitVec 64) := []
  illegal : Option (BitVec 32) := none
  issue : List LaOp := []
  reads : List (Nat × BitVec 64) := []
  rets : List (Nat × BitVec 64 × Option Nat) := []
  sys : List (Nat × BitVec 64) := []
deriving DecidableEq, Repr


/-! ## CAN controllers and the domain -/

/-- What the reference frames of a controller go by: its role in the segment time, and the identifier of REF (R365). -/
structure RefCfg where
  role : Nat := 0
  id : Nat := 0
  ide : Bool := false
deriving DecidableEq, Repr

/-- A CAN controller beside its registers (R356 to R367): the receive FIFO's entries as (window offset, size) in arrival
order and the offset after the newest; the frames of the time slot, first to be sent first; the frame of the running
attempt (0 to 2 a transmit buffer, 3 the head of the time slot); whether RUN was written 0 with that frame on the bus; 
the REF held for its FOLLOW as (stamp, instant); whether it waits for the bus to go idle after an error in an XL data phase
(R362); whether the transceiver has released the bus after a dominant timeout (R349); and the role and REF identifier in force
since the last reference period, none before the first (R386). -/
structure Can where
  entries : List (Nat × Nat) := []
  tail : Nat := 0x8000
  slot : List CanFrame := []
  arb : Option Nat := none
  stopping : Bool := false
  held : Option (Nat × Nat) := none
  idleWait : Bool := false
  domOff : Bool := false
  ref : Option RefCfg := none
deriving DecidableEq, Repr

/-- A member of the segment: its identity, its TRUNK bit and its version range (R386, R388). -/
structure Member where
  uid : Nat := 0
  trunk : Bool := false
  vmin : Nat := 0
  vmax : Nat := 0
deriving DecidableEq, Repr

/-- A directory message of R390. -/
inductive DirMsg where
  | segReg (r : SegReg)
  | dirAck (leader num ver : Nat)
  | dirDone
  | answer (uid : Nat) (found : Option (Nat × Nat))
deriving DecidableEq, Repr

/-- The formation engine beside the SFL registers (R386 to R394): the members heard, the REGISTER frames seen, whether this
module is registered, contends and waits for the next REGISTER, joins late, and is a member of a closed segment; the
reference pairs accepted as a late joiner; the configured LOG_SYNC and LOG_ANNOUNCE while forming; the segments registered
with this grandmaster, whether its directory is closed and the numbers it gave as (leader, number, version); the number
DIR_ACK gave this segment; the directory messages sent last; whether a domain frame was heard; whether the directory refused the
segment, which runs alone (R390); and the SLOT after the last one heard (R394). -/
structure Dom where
  members : List Member := []
  seen : Nat := 0
  registered : Bool := false
  contending : Bool := false
  out : Bool := false
  late : Bool := false
  joined : Bool := false
  latePairs : Nat := 0
  saved : Option (Nat × Nat) := none
  segs : List SegReg := []
  closed : Bool := false
  nums : List (Nat × Nat × Nat) := []
  ack : Nat := 0
  dirOut : List DirMsg := []
  heard : Bool := false
  alone : Bool := false
  slotNext : Option Nat := none
deriving DecidableEq, Repr

/-! ## Trunk ports -/

/-- A message of IEEE 802.1AS that a port sent last: Sync with its reference time in ns, Announce with its content (R371). -/
inductive AsMsg where
  | sync (t : Nat)
  | announce (a : Announce)
deriving DecidableEq, Repr

/-- The trunk beside the ETH registers (R370 to R372): the learning table as (MAC, port), 0 and 1 the trunk ports and 2 the host;
the high and low output queues of the trunk ports; those of the host port as (port of arrival, stamp, frame); whether the DMA
processes transmit descriptors; the Announce held for each port, and the last Sync and Announce each port sent. -/
structure Eth where
  macs : List (Nat × Nat) := []
  high : List (Nat × List (BitVec 8)) := []
  low : List (Nat × List (BitVec 8)) := []
  hostHigh : List (Nat × Nat × List (BitVec 8)) := []
  hostLow : List (Nat × Nat × List (BitVec 8)) := []
  txRun : Bool := false
  ann : List (Nat × Announce) := []
  sentSync : List (Nat × AsMsg) := []
  sentAnn : List (Nat × AsMsg) := []
deriving DecidableEq, Repr

/-! ## Safety connections -/

/-- A safety connection beside its registers (R381 to R385): the PERMIT bit of the last accepted THM frame, and the instants
of the CRC failures of the last 1,000 ms. -/
structure Conn where
  permit : Bool := false
  crcAt : List Nat := []
deriving DecidableEq, Repr

/-- The transmit queue of the safety frame layer: connection and bytes, head first (R382). -/
structure Sfl where
  txq : List (Nat × List (BitVec 8)) := []
deriving DecidableEq, Repr

/-! ## Local links -/

/-- A request of SPIH that was checked and waits for its execution (R402, R404). -/
structure SpiReq where
  cmd : Nat := 0
  tag : Nat := 0
  len8 : Nat := 0
  addr : Nat := 0
  data : List (BitVec 8) := []
deriving DecidableEq, Repr

/-- SPIH beside its counters (R402 to R404): whether CS_N is low, the latched status byte with the reply given in this frame,
whether the frame is discarded, the waiting reply from its byte 1 on, the request in execution, and an application-side reset
due once the reply to APP_RESET is collected. -/
structure Spih where
  low : Bool := false
  status : BitVec 8 := 0
  given : Option (List (BitVec 8)) := none
  discard : Bool := false
  reply : Option (List (BitVec 8)) := none
  req : Option SpiReq := none
  resetDue : Bool := false
deriving DecidableEq, Repr

/-- The waiting request of the host is a flash command, which goes through SPIM0 (R404). -/
def Spih.flash (r : Spih) : Bool :=
  match r.req with
  | some q => q.cmd = 0x10 || q.cmd = 0x11 || q.cmd = 0x12
  | none => false

/-- SPIM0 beside its registers (R406): whether the firmware's operation waits behind a host flash command that came first, and the
data it sent to the flash last. -/
structure M0 where
  behind : Bool := false
  sent : List (BitVec 8) := []
deriving DecidableEq, Repr

/-- SPIM1 beside its registers (R408): the queued entries, the running one first, the select held, and the receive FIFO. -/
structure M1 where
  queue : List (BitVec 64) := []
  held : Option Nat := none
  rx : List (BitVec 32) := []
deriving DecidableEq, Repr

/-- A LIN frame in progress (R412, R413): the bits of its break and the bytes this port sends, the checksum last; whether this
port is its commander, the response slot that serves it, whether the port sends the response, whether it is a header only, the
length, the checksum type and the identifier. -/
structure LinFrame where
  brk : Nat := 0
  out : List (BitVec 8) := []
  cmdr : Bool := false
  slot : Option Nat := none
  send : Bool := false
  head : Bool := false
  len : Nat := 1
  enh : Bool := true
  id : Nat := 0
deriving DecidableEq, Repr

/-- A LUA port beside its registers (R410 to R413): the transmit FIFO, the byte on the line first; the receive FIFO with the
FE and PE flags; the LIN frame in progress; a responder's break seen, whose header is due, and its bit time in eighths of the
measured span of the sync field, in 80 MHz clocks. -/
structure Lu where
  tx : List (BitVec 8) := []
  rx : List (BitVec 8 × Bool × Bool) := []
  lin : Option LinFrame := none
  synced : Bool := false
  span : Nat := 0
deriving DecidableEq, Repr

/-- The service tag beside its registers (R414 to R416): its protocol state (0 ready, 1 quiet, 2 selected), the page and
content of a commit in progress, the answer given last, from its flags byte on; and, as the tag holds them without the module's
power, whether a field is present and which proposal pages a field has written (log entry 98); whether the commit is swapping its
page's pointer; the instant until which a block write of the field holds the engine; and the page of a host read that waits. -/
structure Nfc where
  field : Bool := false
  dirty : Nat := 0
  proto : Nat := 0
  commit : Option (Nat × List (BitVec 8)) := none
  answer : List (BitVec 8) := []
  swap : Bool := false
  writeEnd : Nat := 0
  readPage : Option Nat := none
deriving DecidableEq, Repr

/-- Coolant flow beside its registers (R421, R422): the instant of the last valid pair, and the last valid values of Q in
0.01 L/min as numerators and denominators, oldest first. -/
structure Flw where
  validAt : Option Nat := none
  q : List (Int × Int) := []
deriving DecidableEq, Repr

/-! ## Domain time -/

/-- DTM beside its registers (R433, R436 to R438): the integral share in 10^-9 ppb, the servo term of RATE in ppb, the instant of
the last measurement, the run of measurements inside LOCK_NS or beyond 4 × LOCK_NS, the rate in ppb at which the counter runs
now, and a step in ns that waits for the next 1 µs boundary. -/
structure Dtm where
  integ : Int := 0
  servo : Int := 0
  last : Option Nat := none
  run : Nat := 0
  rate : Int := 0
  stepDue : Option Int := none
deriving DecidableEq, Repr

/-! ## The device and the machine -/

/-- What the debug port holds (R300): the value the TAP last captured (IDCODE, 0 of BYPASS, or DBG_STAT), data0 of the abstract
commands, sbdata0 of the system bus, and whether its last access ended in a bus error. -/
structure Dbg where
  tap : BitVec 64 := 0
  data0 : BitVec 64 := 0
  sbdata0 : BitVec 64 := 0
  sberr : Bool := false
deriving DecidableEq, Repr

/-- Everything of the module but its memories and the queue of commands. `regs` is the register file by physical address; `time`
is module or domain time in ns (R16, R30), `frac` its fraction in 10^-9 ns (R436), `mono` the time elapsed since reset in ns as
the model counts it; `free` counts the free values drawn; `lims` holds the last raise of every rate-limited cause, plus one
(R472), `refOut` whether the reference monitor's last compare was out of window (R91); `dbgTrig` the hardware triggers of the
cores by 4 × core + number, `dbg` what the debug port holds (R300). -/
structure Dev where
  regs : List (Nat × BitVec 64) := []
  time : Nat := 0
  frac : Nat := 0
  mono : Nat := 0
  free : Nat := 0
  lims : List (Nat × Nat) := []
  spool : List (Nat × SpoolCh) := []
  splTurn : Nat := 0
  jnl : Jnl := {}
  pwr : Pwr := {}
  boot : Boot := {}
  per : Persist := {}
  fo : List (Nat × Fo) := []
  fio : Fio := {}
  gch : List (Nat × Gch) := []
  car : List (Nat × Car) := []
  clu : List (Nat × Clu) := []
  pos : List (Nat × Pos) := []
  pair : List (Nat × Pair) := []
  hem : Hem := {}
  tgrp : List (Nat × ThmGrp) := []
  thm : Thm := {}
  axis : List (Nat × Axis) := []
  conn : List (Nat × Conn) := []
  dtm : Dtm := {}
  adc : List (Nat × Adc) := []
  aux : List (Nat × Aux) := []
  refOut : Bool := false
  img : Names := {}
  slc : List (Nat × Slice) := []
  egr : List (Nat × EGrp) := []
  port : List (Nat × Port) := []
  can : List (Nat × Can) := []
  dom : Dom := {}
  eth : Eth := {}
  sfl : Sfl := {}
  spih : Spih := {}
  m0 : M0 := {}
  m1 : M1 := {}
  lu : List (Nat × Lu) := []
  nfc : Nfc := {}
  flw : Flw := {}
  dbgTrig : List (Nat × BitVec 64) := []
  dbg : Dbg := {}
deriving DecidableEq, Repr

/-- The machine: the device; the bytes of SRAM, persistent memory, Spool and the buffer windows by physical address;
the image flash by flash offset; the pages of the service tag by byte; and the commands that wait, first in, first
out. -/
structure State where
  dev : Dev := {}
  mem : List Host.Cell := []
  flash : List Host.Cell := []
  tag : List Host.Cell := []
  pending : List Instr := []
deriving DecidableEq, Repr

/-- Why the machine stops. The spec gives every command an effect, so no meaning answers a fault; the one constructor
stands because the type needs a name for a stop that this model never makes. Safe: nothing raises it. -/
inductive Fault where
  /-- Raised by no meaning. Safe. -/
  | none
deriving DecidableEq, Repr

/-- Why a command has no meaning. -/
inductive Refusal where
  /-- The command's meaning is not written yet; raised by its arm of exec only. Safe: the machine stops. -/
  | notModelled (mnemonic : String)
deriving DecidableEq, Repr

/-- The module right after a power-on reset: every register at its reset value, the queue empty (R33, R34). -/
def State.reset : State := {}

end Sys2Proof.Machine
end

