-- ==== Sys2Proof/Machine/Ops.lean ====
section
/-!
DEFINITION. Machine/Ops.lean: the named operations every meaning is built from: reading and writing registers, fields
and memories, counters, free values, raising an event (R430, R472), queueing a journal entry (R441), feeding a Spool
channel (R234 to R239), and the two ways a command's meaning ends.
-/
namespace Sys2Proof.Machine

/-! ## Bit fields of a 64-bit word -/

/-- The mask of `w` bits from bit `lo`. -/
def fieldMask (lo w : Nat) : BitVec 64 := (BitVec.ofNat 64 (2 ^ w - 1)) <<< lo

/-- The field of `w` bits from bit `lo` of `x`, as a number. -/
def fieldGet (x : BitVec 64) (lo w : Nat) : Nat := (x.toNat / 2 ^ lo) % 2 ^ w

/-- `x` with the field of `w` bits from bit `lo` replaced by the low bits of `v`. -/
def fieldSet (x : BitVec 64) (lo w v : Nat) : BitVec 64 :=
  (x &&& ~~~ fieldMask lo w) ||| (BitVec.ofNat 64 (v % 2 ^ w) <<< lo)

/-- The two's-complement reading of the low `w` bits of `n`. -/
def signed (w n : Nat) : Int :=
  let m := n % 2 ^ w
  if m < 2 ^ (w - 1) then m else (m : Int) - 2 ^ w

/-- The low `w` bits of the integer `x` in two's complement. -/
def unsigned (w : Nat) (x : Int) : Nat := (x % (2 ^ w : Nat)).toNat

/-- `x` held between `lo` and `hi` ("acts as the nearer end"). -/
def clampN (lo hi x : Nat) : Nat := max lo (min hi x)

/-- `x` held between `lo` and `hi`. -/
def clampI (lo hi x : Int) : Int := max lo (min hi x)

/-- `a / b` rounded to nearest, half away from zero (R471); 0 for `b = 0`. -/
def divRound (a b : Int) : Int :=
  if b = 0 then 0
  else
    let n := a.natAbs
    let m := b.natAbs
    let q : Int := ((2 * n + m) / (2 * m) : Nat)
    if (a < 0) = (b < 0) then q else -q

/-- `a / b` rounded towards minus infinity; 0 for `b = 0`. -/
def divFloor (a b : Int) : Int := if b = 0 then 0 else Int.fdiv a b

/-! ## Registers -/

/-- The register at physical address `a`. -/
def Dev.reg (d : Dev) (a : Nat) : BitVec 64 := Tab.find resetOf d.regs a

/-- Write the register at physical address `a`. -/
def Dev.setReg (d : Dev) (a : Nat) (v : BitVec 64) : Dev := { d with regs := Tab.put resetOf d.regs a v }

/-- The value of a register field. -/
def Dev.get (d : Dev) (f : Fld) : Nat := fieldGet (d.reg f.addr) f.lo f.w

/-- The value of a register field read in two's complement. -/
def Dev.getI (d : Dev) (f : Fld) : Int := signed f.w (d.get f)

/-- Whether a register field is not 0. -/
def Dev.bit (d : Dev) (f : Fld) : Bool := d.get f ≠ 0

/-- Write a register field. -/
def Dev.set (d : Dev) (f : Fld) (v : Nat) : Dev := d.setReg f.addr (fieldSet (d.reg f.addr) f.lo f.w v)

/-- Write a register field in two's complement. -/
def Dev.setI (d : Dev) (f : Fld) (v : Int) : Dev := d.set f (unsigned f.w v)

/-- Write a one-bit field. -/
def Dev.setB (d : Dev) (f : Fld) (b : Bool) : Dev := d.set f (if b then 1 else 0)

/-- Set the bits of a field that `v` has set. -/
def Dev.setBits (d : Dev) (f : Fld) (v : Nat) : Dev := d.set f (d.get f ||| v)

/-- Clear the bits of a field that `v` has set. -/
def Dev.clrBits (d : Dev) (f : Fld) (v : Nat) : Dev := d.set f (d.get f - (d.get f &&& v))

/-- Bit `i` of a field. -/
def Dev.tb (d : Dev) (f : Fld) (i : Nat) : Bool := (d.get f).testBit i

/-- Add `n` to a counter, which sticks at its maximum (R19). -/
def Dev.add (d : Dev) (f : Fld) (n : Nat) : Dev := d.set f (min (d.get f + n) (2 ^ f.w - 1))

/-- Count one event in a counter, which sticks at its maximum (R19). -/
def Dev.count (d : Dev) (f : Fld) : Dev := d.add f 1

/-- Apply `f` when `c` holds. -/
def Dev.when (d : Dev) (c : Bool) (f : Dev → Dev) : Dev := if c then f d else d

/-- Apply `f i` for `i` from 0 to `n − 1` in ascending order. -/
def Dev.each (d : Dev) (n : Nat) (f : Nat → Dev → Dev) : Dev := (List.range n).foldl (fun e i => f i e) d

/-- Draw the next free value: a value the spec leaves open (log entry 1). -/
def Dev.freeVal (d : Dev) : BitVec 64 := Config.freeValue d.free

/-- Advance the counter of free values. -/
def Dev.drawn (d : Dev) : Dev := { d with free := d.free + 1 }

/-! ## Memories -/

/-- What a byte of `mem` that nothing has written reads as (log entry 4). -/
def memDefault : Nat → BitVec 8 := fun _ => 0

/-- What a byte of the image flash that nothing has programmed reads as: the erased byte (log entry 4). -/
def flashDefault : Nat → BitVec 8 := fun _ => 0xFF

/-- The byte of a memory at address `a`. -/
def rd8 (m : List Host.Cell) (a : Nat) : BitVec 8 := Tab.find memDefault m a

/-- Write one byte. -/
def wr8 (m : List Host.Cell) (a : Nat) (v : BitVec 8) : List Host.Cell := Tab.put memDefault m a v

/-- `n` bytes from address `a`, little-endian, as a number. -/
def rdLE (m : List Host.Cell) (a : Nat) : Nat → Nat
  | 0 => 0
  | n + 1 => (rd8 m a).toNat + 256 * rdLE m (a + 1) n

/-- Write `v` as `n` little-endian bytes from address `a`. -/
def wrLE (m : List Host.Cell) (a : Nat) : Nat → Nat → List Host.Cell
  | 0, _ => m
  | n + 1, v => wrLE (wr8 m a (BitVec.ofNat 8 v)) (a + 1) n (v / 256)

/-- Write a list of bytes from address `a`. -/
def wrBytes (m : List Host.Cell) (a : Nat) : List (BitVec 8) → List Host.Cell
  | [] => m
  | b :: t => wrBytes (wr8 m a b) (a + 1) t

/-- `n` bytes from address `a`. -/
def rdBytes (m : List Host.Cell) (a : Nat) : Nat → List (BitVec 8)
  | 0 => []
  | n + 1 => rd8 m a :: rdBytes m (a + 1) n

/-- The flash byte at flash offset `a`. -/
def flash8 (m : List Host.Cell) (a : Nat) : BitVec 8 := Tab.find flashDefault m a

/-- `n` flash bytes from offset `a`. -/
def flashBytes (m : List Host.Cell) (a : Nat) : Nat → List (BitVec 8)
  | 0 => []
  | n + 1 => flash8 m a :: flashBytes m (a + 1) n

/-- `n` flash bytes from offset `a`, little-endian, as a number. -/
def flashLE (m : List Host.Cell) (a : Nat) : Nat → Nat
  | 0 => 0
  | n + 1 => (flash8 m a).toNat + 256 * flashLE m (a + 1) n

/-- The number a list of bytes spells, first byte least significant. -/
def ofBytesLE : List (BitVec 8) → Nat
  | [] => 0
  | b :: t => b.toNat + 256 * ofBytesLE t

/-- The number a list of bytes spells, first byte most significant. -/
def ofBytesBE (l : List (BitVec 8)) : Nat := l.foldl (fun n b => 256 * n + b.toNat) 0

/-- The `n` little-endian bytes of `v`. -/
def bytesLE : Nat → Nat → List (BitVec 8)
  | 0, _ => []
  | n + 1, v => BitVec.ofNat 8 v :: bytesLE n (v / 256)

/-- The `n` big-endian bytes of `v`. -/
def bytesBE (n v : Nat) : List (BitVec 8) := (bytesLE n v).reverse

/-! ## CRC -/

/-- One step of a reflected CRC: shift right by one bit. -/
def crcStepR (poly x : Nat) : Nat := if x % 2 = 1 then (x / 2) ^^^ poly else x / 2

/-- `n` steps of a reflected CRC. -/
def crcStepsR (poly : Nat) : Nat → Nat → Nat
  | 0, x => x
  | n + 1, x => crcStepsR poly n (crcStepR poly x)

/-- Feed one byte to a reflected CRC register. -/
def crcByteR (poly x : Nat) (b : BitVec 8) : Nat := crcStepsR poly 8 (x ^^^ b.toNat)

/-- CRC-32C of a list of bytes: reflected polynomial 0x82F63B78, preset and final exclusive-or all ones. -/
def crc32c (l : List (BitVec 8)) : Nat := (l.foldl (crcByteR 0x82F63B78) 0xFFFFFFFF) ^^^ 0xFFFFFFFF

/-! ## Pair and core state -/

/-- Whether pair `p` runs in lockstep: LOCKSTEP, or HANDOVER, in which comparison still runs (R273, R288). -/
def Dev.lockstep (d : Dev) (p : Nat) : Bool :=
  let st := if p = 0 then d.get HEM_STAT_PAIRA else d.get HEM_STAT_PAIRB
  st = 0 || st = 4

/-- Pair `p` has one instruction stream: it is in LOCKSTEP or HANDOVER, or restarts from its checkpoint (R273, R280). -/
def Dev.joint (d : Dev) (p : Nat) : Bool :=
  let st := if p = 0 then d.get HEM_STAT_PAIRA else d.get HEM_STAT_PAIRB
  st ≤ 1 || st = 4

/-! ## Spool channels -/

/-- Channel `c`'s TYPE, with 6 and 7 acting as 0 (register table of R243). -/
def Dev.splType (d : Dev) (c : Nat) : Nat :=
  let t := d.get (SPL_CHCFG_TYPE c)
  if t ≥ 6 then 0 else t

/-- Spool channel record `c`. -/
def Dev.sch (d : Dev) (c : Nat) : SpoolCh := Tab.find (fun _ => {}) d.spool c

/-- Replace Spool channel record `c`. -/
def Dev.setSch (d : Dev) (c : Nat) (v : SpoolCh) : Dev := { d with spool := Tab.put (fun _ => {}) d.spool c v }

/-- Channel `c` records: Spool is in FILL, ARMED or POST, the channel is on and has not stopped (R239). -/
def Dev.splRecording (d : Dev) (c : Nat) : Bool :=
  let st := d.get SPL_STAT_STATE
  (st = 1 || st = 2 || st = 3) && d.splType c ≠ 0 && !d.tb SPL_STAT_DONE c

/-- Put a kept record in channel `c`'s queue of 32, or drop and count it (R236). -/
def Dev.splQueue (d : Dev) (c : Nat) (rec : List (BitVec 64)) : Dev :=
  let ch := d.sch c
  if ch.queue.length ≥ 32 then d.count (SPL_CHCNT_DROPS c)
  else d.setSch c { ch with queue := ch.queue ++ [rec] }

/-- The mean record of a group of DEC + 1 records: the stamp of the first, the mean rounded to nearest; for sample
records VALID only if all were valid and CLIP if any was clipped (R235, R87). -/
def spoolMean (typ n : Nat) (ch : SpoolCh) : List (BitVec 64) :=
  if typ = 1 then
    [BitVec.ofNat 64 (ch.first / 2 ^ 24 * 2 ^ 24 + (if ch.allValid then 2 ^ 23 else 0)
      + (if ch.anyClip then 2 ^ 20 else 0) + (ch.first / 2 ^ 16 % 16) * 2 ^ 16
      + unsigned 16 (divRound ch.sum n))]
  else [BitVec.ofNat 64 ch.first, BitVec.ofNat 64 (unsigned 64 (divRound ch.sum n))]

/-- A record made for channel `c` while it records: decimation by DEC, picking or averaging (R235), then the queue. -/
def Dev.splMade (d : Dev) (c : Nat) (rec : List (BitVec 64)) : Dev :=
  if !d.splRecording c then d
  else
    let typ := d.splType c
    let n := d.get (SPL_CHCFG_DEC c) + 1
    let ch := d.sch c
    let w0 := (rec.headD 0).toNat
    let v : Int := if typ = 1 then signed 16 w0 else (rec.getD 1 0).toInt
    if d.bit (SPL_CHCFG_DMODE c) && typ ≠ 5 then
      let ch : SpoolCh :=
        if ch.seen = 0 then
          { ch with seen := 1, first := w0, sum := v, allValid := w0.testBit 23, anyClip := w0.testBit 20 }
        else
          { ch with seen := ch.seen + 1, sum := ch.sum + v, allValid := ch.allValid && w0.testBit 23,
                    anyClip := ch.anyClip || w0.testBit 20 }
      if ch.seen ≥ n then (d.setSch c { ch with seen := 0 }).splQueue c (spoolMean typ n ch)
      else d.setSch c ch
    else
      let ch' : SpoolCh := { ch with seen := if ch.seen + 1 ≥ n then 0 else ch.seen + 1 }
      if ch.seen + 1 ≥ n then (d.setSch c ch').splQueue c rec else d.setSch c ch'

/-- The channels of TYPE `typ` that `sel` picks make record `rec` (R234). -/
def Dev.splFeed (d : Dev) (typ : Nat) (sel : Nat → Nat → Bool) (rec : List (BitVec 64)) : Dev :=
  if d.get SPL_STAT_STATE = 0 || d.get SPL_STAT_STATE = 4 then d
  else d.each 16 fun c d =>
    d.when (d.splType c = typ && sel c (d.get (SPL_CHCFG_SEL c))) (·.splMade c rec)

/-- Channels that have written POST records since the trigger stop, and the last one ends the recording (R239). -/
def Dev.splStopDone (d : Dev) : Dev :=
  if d.get SPL_STAT_STATE ≠ 3 then d
  else
    let d := d.each 16 fun c d =>
      d.when (d.splType c ≠ 0 && !d.tb SPL_STAT_DONE c && d.get (SPL_CHPP_POST c) ≤ (d.sch c).post)
        (·.setBits SPL_STAT_DONE (2 ^ c))
    d.when ((List.range 16).all fun c => d.splType c = 0 || d.tb SPL_STAT_DONE c) (·.set SPL_STAT_STATE 4)

/-- The trigger fires: POST, with TSTAMP, every channel's TIDX, and TRIGGED (R239). -/
def Dev.splFire (d : Dev) : Dev :=
  let d := (((d.set SPL_STAT_STATE 3).set SPL_STAT_TRIGGED 1).set SPL_STAT_DONE 0).setReg A_SPL_TSTAMP (BitVec.ofNat 64 d.time)
  let d := d.each 16 fun c d =>
    d.when (d.splType c ≠ 0) fun d =>
      (d.set (SPL_CHST_TIDX c) (d.get (SPL_CHST_WPTR c))).setSch c { d.sch c with post := 0 }
  d.splStopDone

/-- A trigger condition other than FORCE: it fires in ARMED and is counted in FILL (R239). -/
def Dev.splTrigger (d : Dev) : Dev :=
  if d.get SPL_STAT_STATE = 2 then d.splFire
  else if d.get SPL_STAT_STATE = 1 then d.count SPL_CNT_TRIG_EARLY
  else d

/-- Spool's view of a raise: channels of TYPE 5 record it (R234), and it is the trigger condition of KIND 1 (R238). -/
def Dev.splEvent (d : Dev) (k : Nat) : Dev :=
  let d := d.splFeed 5
    (fun c sel => sel % 1024 ≤ k && k ≤ max (sel % 1024) (d.get (SPL_CHCFG_HI c)))
    [BitVec.ofNat 64 d.time, BitVec.ofNat 64 k]
  d.when (d.get SPL_TRIG_KIND = 1 && d.get SPL_TRIG_SRC = k) Dev.splTrigger

/-! ## Events -/

/-- The bit that event source `k` has in the pending register of target `t`. -/
def evrBit (t k : Nat) : Fld := ⟨A_EVR_PEND t (k / 64), k % 64, 1⟩

/-- Whether a raise with targets `tgt` is delivered to target `t`: while a pair is in lockstep, a restart from its checkpoint
included, the bit of its trailing core acts as the bit of its leading core (R430). -/
def Dev.evrTarget (d : Dev) (tgt t : Nat) : Bool :=
  if t < 4 ∧ d.joint (t / 2) then t % 2 = 0 && (tgt.testBit t || tgt.testBit (t + 1))
  else tgt.testBit t

/-- The router keeps the event for the pair of core target `t`, in lockstep or restarting, until its next checkpoint (R279). -/
def Dev.evrKeep (d : Dev) (t k : Nat) : Dev :=
  if t < 4 ∧ d.joint (t / 2) then
    let p := Tab.find (fun _ => {}) d.pair (t / 2)
    { d with pair := Tab.put (fun _ => {}) d.pair (t / 2) { p with events := p.events ++ [k] } }
  else d

/-- Set source `k` pending at target `t`, or count the raise as coalesced (R430). -/
def Dev.evrPend (d : Dev) (t k : Nat) : Dev :=
  let d := d.evrKeep t k
  if d.bit (evrBit t k) then d.count (EVR_CNT_COALESCED t) else d.set (evrBit t k) 1

/-- The condition of source `k` reaches the epoch groups that it triggers over their dedicated path, each time to be registered 4 ns
later; not with the engine clock stopped, nor before activation enables the triggers (R71, R204). A TRIG_SRC above 767 acts as 767
(R222). -/
def Dev.trigCause (d : Dev) (k : Nat) : Dev :=
  if (d.get SYS_CLKSTAT_PLLB_ST = 2 ∨ d.get SYS_CLKSTAT_PLLB_ST = 3) ∧ 6 ≤ d.boot.stage ∧ d.boot.stage ≤ 7 then
    d.each 8 fun g d =>
      if min 767 (d.get (CEN_GCFG_TRIG_SRC g)) = k then
        let e := Tab.find (fun _ => {}) d.egr g
        { d with egr := Tab.put (fun _ => {}) d.egr g { e with trigs := e.trigs + 1 } }
      else d
  else d

/-- Raise event source `k` at this instant (R429, R430), with Spool's view of it and the engine's (R204). -/
def Dev.raise (d : Dev) (k : Nat) : Dev :=
  let d := d.setReg (A_EVR_STAMP k) (BitVec.ofNat 64 d.time)
  let tgt := d.get (EVR_SRC_TGT k)
  let d := d.each 6 fun t d => d.when (d.evrTarget tgt t) (·.evrPend t k)
  (d.splEvent k).trigCause k

/-- The condition of source `k` occurs: it is raised while its own enable `on` is set, and triggers its epoch groups in any case
(R204). -/
def Dev.raiseIf (d : Dev) (on : Bool) (k : Nat) : Dev := if on then d.raise k else d.trigCause k

/-- Raise source `k` at most once per `T` ns of module time, for the cause numbered `c` (R472). -/
def Dev.raiseLim (d : Dev) (k c T : Nat) : Dev :=
  let key := k * 16 + c
  let last := Tab.find (fun _ => 0) d.lims key
  if last ≠ 0 ∧ d.time + 1 - last < T then d
  else Dev.raise { d with lims := Tab.put (fun _ => 0) d.lims key (d.time + 1) } k

/-- Clear source `k` at target `t` if it is pending, and count the delivery (R431). -/
def Dev.evrClear (d : Dev) (t k : Nat) : Dev :=
  if d.bit (evrBit t k) then (d.set (evrBit t k) 0).count (EVR_CNT_DELIVERED t) else d

/-- One millisecond in ns. -/
def ms1 : Nat := 1000000

/-! ## Journal -/

/-- Put an entry in the journal queue, or drop and count it (R441, R445). `fw` marks a firmware entry; after a supply-loss event
the 65th entry and any later one is dropped into LOST, whoever queues it. -/
def Dev.jnlPut (d : Dev) (fw : Bool) (e : JEntry) : Dev :=
  let j := d.jnl
  let full : Bool :=
    match j.budget with
    | some n => n = 0
    | none => if fw then j.queue.length ≥ 24 else j.queue.length ≥ 36
  if full then
    let d := { d with jnl := { j with lost := j.lost + 1 } }
    let d := if fw && j.budget.isNone then d.count JNL_CNT_FW_REF else d.count JNL_CNT_LOST
    d.raiseLim 753 0 ms1
  else
    let j := { j with queue := j.queue ++ [e], budget := j.budget.map (· - 1) }
    Dev.set { d with jnl := j } JNL_STAT_QLEVEL j.queue.length

/-- Queue an entry stamped now (R440). -/
def Dev.journal (d : Dev) (kind src origin : Nat) (data : List (BitVec 64)) : Dev :=
  d.jnlPut false
    { stamp := d.time, tepoch := d.get DTM_STAT_TEPOCH, source := src, kind := kind, origin := origin,
      data := data, born := d.mono }

/-- The flush that is under way ends, and its duration is recorded (R445). -/
def Dev.flushStop (d : Dev) : Dev :=
  if d.bit JNL_STAT_FLUSHING then
    (d.set JNL_STAT_FLUSHING 0).set JNL_PLOSS_FLUSH_US (min 65535 ((d.mono - d.jnl.flushT0) / 1000))
  else d

/-- A hardware fault entry, KIND 0x01: the fault register and the state register of the instance (R440). -/
def Dev.jnlFault (d : Dev) (src fltAddr statAddr : Nat) : Dev :=
  d.journal 0x01 src 0 [d.reg fltAddr, d.reg statAddr]

/-- A Thimble entry, KIND 0x02 (R440). -/
def Dev.jnlThimble (d : Dev) (src : Nat) : Dev :=
  d.journal 0x02 src 1 [d.reg A_THM_FLT, d.reg (A_THM_GRP 0), d.reg (A_THM_GRP 1)]

/-- A Hem entry, KIND 0x03 (R440). -/
def Dev.jnlHem (d : Dev) (src : Nat) : Dev := d.journal 0x03 src 0 [d.reg A_HEM_STAT, d.reg A_HEM_GUARD]

/-! ## Ending a meaning -/

/-- The outcome of a step of this machine. -/
abbrev Out := Host.Outcome State Fault Refusal

/-- The main domain has no power: the module is OFF, or in SLEEP, or in a supply loss that began in SLEEP (R31, R33). -/
def Dev.unpowered (d : Dev) : Bool := d.pwr.off || d.pwr.asleep

/-- A command that acts on the device whatever its power state. -/
def State.always (s : State) (f : Dev → Dev) : Out := .next { s with dev := f s.dev }

/-- A command of the main domain: with the main domain unpowered nothing takes place (log entry 6). -/
def State.main (s : State) (f : Dev → Dev) : Out :=
  .next { s with dev := if s.dev.unpowered then s.dev else f s.dev }

/-- A command of the main domain that also changes the memories. -/
def State.mainMem (s : State) (f : State → State) : Out := .next (if s.dev.unpowered then s else f s)

end Sys2Proof.Machine
end

