-- ==== Sys2Proof/Machine/Fixed.lean ====
section
/-!
DEFINITION. Machine/Fixed.lean: Q32.32 arithmetic (R14, R471), exact square roots, and sines, arctangents and magnitudes
computed well beyond Q32.32 so that the nearest Q32.32 value can be taken. Angles are in turns.
-/
namespace Sys2Proof.Machine

/-- 1.0 in Q32.32. -/
def q1 : Int := 2 ^ 32

/-- The nearer end of the Q32.32 range (R14). -/
def satQ (x : Int) : Int := clampI (-(2 ^ 63)) (2 ^ 63 - 1) x

/-- `x` leaves the Q32.32 range. -/
def overQ (x : Int) : Bool := x < -(2 ^ 63) || 2 ^ 63 ≤ x

/-- `x`, a value in units of 2^−32 / `m`, in whole units of 2^−32; it leaves the Q32.32 range as `overQ` says of this. -/
def unitsQ (m x : Int) : Int := Int.fdiv x m

/-- The nearer end of the Q32.32 range for a value in units of 2^−32 / `m` (R14). -/
def satAt (m x : Int) : Int := if overQ (unitsQ m x) then m * satQ (unitsQ m x) else x

/-- A Q32.32 value as a register holds it. -/
def qBits (x : Int) : BitVec 64 := BitVec.ofInt 64 (satQ x)

/-- `a / b` where the spec states no rounding: exact if it is an integer, else one of its two neighbours (log entry 15);
for `b = 0` a free value (log entry 13). -/
def near (a b : Int) : Int :=
  if b = 0 then (Config.quotZero a).toInt
  else if a % b = 0 then a / b
  else Int.fdiv a b + (if Config.roundUp a b then 1 else 0)

/-- The product of two Q32.32 values. -/
def mulQ (a b : Int) : Int := near (a * b) (2 ^ 32)

/-- The quotient of two Q32.32 values rounded to nearest (R202); 0 for a divisor of 0. -/
def divQ (a b : Int) : Int := divRound (a * 2 ^ 32) b

/-- `n / m` in Q32.32. -/
def ratioQ (n m : Int) : Int := near (n * 2 ^ 32) m

/-- `x` in [−0.5, 0.5) turn: the nearest whole number of turns taken off. -/
def wrapQ (x : Int) : Int := (x + 2 ^ 31) % 2 ^ 32 - 2 ^ 31

/-- The fractional part of an angle in [0, 1) turn. -/
def fracQ (x : Int) : Int := x % 2 ^ 32

/-! ## Square roots -/

/-- The bits below `k` of the integer square root of `n` above the bits found in `acc`. -/
def isqrtGo (n : Nat) : Nat → Nat → Nat
  | 0, acc => acc
  | k + 1, acc => isqrtGo n k (if (acc + 2 ^ k) * (acc + 2 ^ k) ≤ n then acc + 2 ^ k else acc)

/-- The integer square root of `n < 2^256`, rounded down. -/
def isqrt (n : Nat) : Nat := isqrtGo n 128 0

/-- The integer nearest to the square root of `n`. -/
def sqrtNear (n : Nat) : Nat :=
  let r := isqrt n
  if r < n - r * r then r + 1 else r

/-- The square root of a Q32.32 value rounded to nearest; 0 for a negative one. -/
def sqrtQ (a : Int) : Int := if a ≤ 0 then 0 else (sqrtNear (a.toNat * 2 ^ 32) : Nat)

/-- `√(n / m)` where the spec states no rounding: exact if it is an integer, else one of its two neighbours (log entry
15). -/
def ratSqrt (n m : Nat) : Nat :=
  let r := isqrt (n / m)
  if m * (r * r) = n then r else r + (if Config.rootUp n m then 1 else 0)

/-- √(a² + b²) of two Q32.32 values, rounded to nearest. -/
def magQ (a b : Int) : Int := (sqrtNear (a.natAbs * a.natAbs + b.natAbs * b.natAbs) : Nat)

/-! ## Trigonometry -/

/-- 2π × 2^96. -/
def twoPi96 : Int := 497805226624462170461043889244

/-- The Taylor series of the sine from term `k` on, `x` and the sum in 2^-96. -/
def sinSeries (x2 : Int) : Nat → Nat → Int → Int → Int
  | 0, _, _, s => s
  | n + 1, k, t, s =>
    let t := divRound (-(t * x2)) (2 ^ 96 * ((2 * k + 2) * (2 * k + 3) : Nat))
    sinSeries x2 n (k + 1) t (s + t)

/-- The sine of `x` radians in [0, π/2], in 2^-96. -/
def sin96 (x : Int) : Int := sinSeries (divRound (x * x) (2 ^ 96)) 30 0 x x

/-- The sine of `a` / 2^32 turns, in 2^-96. -/
def sinTurn (a : Int) : Int :=
  let f := a % 2 ^ 32
  let q := f / 2 ^ 30
  let r := f % 2 ^ 30
  let x (r : Int) : Int := divRound (twoPi96 * r) (2 ^ 32)
  if q = 0 then sin96 (x r)
  else if q = 1 then sin96 (x (2 ^ 30 - r))
  else if q = 2 then -sin96 (x r)
  else -sin96 (x (2 ^ 30 - r))

/-- The nearest Q32.32 value to the sine of a Q32.32 angle in turns. -/
def sinQ (a : Int) : Int := divRound (sinTurn a) (2 ^ 64)

/-- The nearest Q32.32 value to the cosine of a Q32.32 angle in turns. -/
def cosQ (a : Int) : Int := sinQ (a + 2 ^ 30)

/-- Entry `k` of the sine table of the current loop: sin(2πk / 4,096) to nearest Q32.32 (R131). -/
def sinEntry (k : Nat) : Int := sinQ ((k % 4096 : Nat) * 2 ^ 20)

/-- The sine of the current loop: the top 12 bits of the fraction index the table, the next 20 interpolate (R131). -/
def sinTab (a : Int) : Int :=
  let f := (a % 2 ^ 32).toNat
  let k := f / 2 ^ 20
  let r : Int := (f % 2 ^ 20 : Nat)
  divRound (sinEntry k * (2 ^ 20 - r) + sinEntry (k + 1) * r) (2 ^ 20)

/-- The cosine of the current loop: the sine of the angle plus 0.25 turn (R131). -/
def cosTab (a : Int) : Int := sinTab (a + 2 ^ 30)

/-- The arctangent series, `t` and the sum in 2^-96. -/
def atanSeries (t2 : Int) : Nat → Nat → Int → Int → Int
  | 0, _, _, s => s
  | n + 1, k, p, s =>
    let p := divRound (-(p * t2)) (2 ^ 96)
    atanSeries t2 n (k + 1) p (s + divRound p ((2 * k + 3 : Nat)))

/-- tan(x / 2) from tan x, in 2^-96. -/
def tanHalf (t : Int) : Int :=
  divRound (t * 2 ^ 96) (2 ^ 96 + (isqrt (2 ^ 192 + t.natAbs * t.natAbs) : Nat))

/-- The arctangent of `t` in [0, 1], in radians, both in 2^-96. -/
def atan96 (t : Int) : Int :=
  let u := tanHalf (tanHalf (tanHalf t))
  8 * atanSeries (divRound (u * u) (2 ^ 96)) 24 0 u u

/-- The angle of the vector (x, y) in turns, in 2^-64, in (−0.5, 0.5]; 0 for the zero vector. -/
def atan2Turn (y x : Int) : Int :=
  let ax : Int := x.natAbs
  let ay : Int := y.natAbs
  if ax = 0 ∧ ay = 0 then 0
  else
    let t := divRound (min ax ay * 2 ^ 96) (max ax ay)
    let a := divRound (atan96 t * 2 ^ 64) twoPi96
    let a := if ax < ay then 2 ^ 62 - a else a
    let a := if x < 0 then 2 ^ 63 - a else a
    if y < 0 then -a else a

/-- The angle of the vector (x, y) to nearest Q32.32, in [−0.5, 0.5) turn. -/
def atan2Q (y x : Int) : Int := wrapQ (divRound (atan2Turn y x) (2 ^ 32))

end Sys2Proof.Machine
end

