-- ==== Sys2Proof/Machine/Crypto.lean ====
section
/-!
DEFINITION. Machine/Crypto.lean: SHA-256 (FIPS 180-4) and ECDSA verification on curve P-256 (FIPS 186-4), which R64, R65
and R331 name and do not define (log entry 7, PRESUMED).
-/
namespace Sys2Proof.Machine

/-! ## SHA-256 -/

/-- Word `i` of a number of `n` words of 32 bits, word 0 its most significant. -/
def beWord (n x i : Nat) : Nat := x / 2 ^ (32 * (n - 1 - i)) % 2 ^ 32

/-- The 64 round constants, eight to a number, the first of the eight most significant. -/
def roundRows : List Nat :=
  [0x428a2f9871374491b5c0fbcfe9b5dba53956c25b59f111f1923f82a4ab1c5ed5,
   0xd807aa9812835b01243185be550c7dc372be5d7480deb1fe9bdc06a7c19bf174,
   0xe49b69c1efbe47860fc19dc6240ca1cc2de92c6f4a7484aa5cb0a9dc76f988da,
   0x983e5152a831c66db00327c8bf597fc7c6e00bf3d5a7914706ca635114292967,
   0x27b70a852e1b21384d2c6dfc53380d13650a7354766a0abb81c2c92e92722c85,
   0xa2bfe8a1a81a664bc24b8b70c76c51a3d192e819d6990624f40e3585106aa070,
   0x19a4c1161e376c082748774c34b0bcb5391c0cb34ed8aa4a5b9cca4f682e6ff3,
   0x748f82ee78a5636f84c878148cc7020890befffaa4506cebbef9a3f7c67178f2]

/-- The chaining value before the first block: a to h in one number. -/
def chainStart : Nat := 0x6a09e667bb67ae853c6ef372a54ff53a510e527f9b05688c1f83d9ab5be0cd19

/-- The exclusive-or of `x` turned right by each of `turns` within 32 bits. -/
def turned (turns : List Nat) (x : Nat) : Nat :=
  turns.foldl (fun acc k => acc ^^^ ((x + x * 2 ^ 32) / 2 ^ k % 2 ^ 32)) 0

/-- The window of sixteen schedule words moves on by one word: its first word goes, the word the schedule gives next comes
last. -/
def windowNext (m : Nat) : Nat :=
  let near := beWord 16 m 1
  let far := beWord 16 m 14
  let next := beWord 16 m 0 + (turned [7, 18] near ^^^ near / 8) + beWord 16 m 9 + (turned [17, 19] far ^^^ far / 1024)
  m % 2 ^ 480 * 2 ^ 32 + next % 2 ^ 32

/-- One round on the eight working words, held as one number: every word moves one place down, the first is new and the fifth
gains what both have in common. -/
def roundOn (v k : Nat) : Nat :=
  let at_ := beWord 8 v
  let pick := (at_ 4 &&& at_ 5) + ((2 ^ 32 - 1 - at_ 4) &&& at_ 6)
  let most := (at_ 0 &&& (at_ 1 ||| at_ 2)) ||| (at_ 1 &&& at_ 2)
  let common := at_ 7 + turned [6, 11, 25] (at_ 4) + pick + k
  (common + turned [2, 13, 22] (at_ 0) + most) % 2 ^ 32 * 2 ^ 224 + v / 2 ^ 160 * 2 ^ 128
    + (at_ 3 + common) % 2 ^ 32 * 2 ^ 96 + v / 2 ^ 32 % 2 ^ 96

/-- `n` rounds, the next one number `t`, over the working words `v` and the schedule window `m`. -/
def rounds : Nat → Nat → Nat → Nat → Nat
  | 0, _, v, _ => v
  | n + 1, t, v, m =>
    rounds n (t + 1) (roundOn v (beWord 8 (roundRows.getD (t / 8) 0) (t % 8) + beWord 16 m 0)) (windowNext m)

/-- The chaining value after the block `m` of 512 bits: each word added to the one the rounds leave. -/
def chainBlock (h m : Nat) : Nat :=
  let v := rounds 64 0 h m
  (List.range 8).foldl (fun acc i => acc * 2 ^ 32 + (beWord 8 h i + beWord 8 v i) % 2 ^ 32) 0

/-- The chaining value after `n` blocks of 64 bytes. -/
def chainBlocks : Nat → Nat → List (BitVec 8) → Nat
  | 0, h, _ => h
  | n + 1, h, m => chainBlocks n (chainBlock h (ofBytesBE (m.take 64))) (m.drop 64)

/-- SHA-256 of a list of bytes, as the number its 32 bytes spell, first byte most significant: the message, a set bit, zeros up
to 8 bytes short of a whole block, and the length in bits. -/
def sha256 (m : List (BitVec 8)) : Nat :=
  let blocks := (m.length + 9 + 63) / 64
  let fill := 64 * blocks - 9 - m.length
  chainBlocks blocks chainStart (m ++ 0x80 :: (List.replicate fill 0 ++ bytesBE 8 (8 * m.length)))

/-! ## ECDSA on P-256 -/

/-- The field prime. -/
def p256 : Nat := 2 ^ 256 - 2 ^ 224 + 2 ^ 192 + 2 ^ 96 - 1

/-- The order of the base point. -/
def n256 : Nat := 0xffffffff00000000ffffffffffffffffbce6faada7179e84f3b9cac2fc632551

/-- The coefficient b. -/
def b256 : Nat := 0x5ac635d8aa3a93e7b3ebbd55769886bc651d06b0cc53b0f63bce3c3e27d2604b

/-- The base point. -/
def g256 : Nat × Nat :=
  (0x6b17d1f2e12c4247f8bce6e563a440f277037d812deb33a0f4a13945d898c296,
   0x4fe342e2fe1a7f9b8ee7eb4a7c0f9e162bce33576b315ececbb6406837bf51f5)

/-- `b ^ e mod m` over the low `k` bits of `e`. -/
def powMod (m : Nat) : Nat → Nat → Nat → Nat
  | 0, _, _ => 1 % m
  | k + 1, b, e =>
    let r := powMod m k (b * b % m) (e / 2)
    if e % 2 = 1 then b * r % m else r

/-- The inverse modulo a prime of at most 256 bits. -/
def invMod (m x : Nat) : Nat := powMod m 256 (x % m) (m - 2)

/-- Addition on the curve; `none` is the point at infinity. -/
def ecAdd (p q : Option (Nat × Nat)) : Option (Nat × Nat) :=
  match p, q with
  | none, q => q
  | p, none => p
  | some (x1, y1), some (x2, y2) =>
    if x1 = x2 ∧ (y1 + y2) % p256 = 0 then none
    else
      let l :=
        if x1 = x2 then (3 * x1 * x1 + p256 - 3) * invMod p256 (2 * y1) % p256
        else (y2 + p256 - y1) * invMod p256 (x2 + p256 - x1) % p256
      let x3 := (l * l + 2 * p256 - x1 - x2) % p256
      some (x3, (l * (x1 + p256 - x3) + p256 - y1) % p256)

/-- The multiple `e` of a point, over the low `k` bits of `e`. -/
def ecMul : Nat → Option (Nat × Nat) → Nat → Option (Nat × Nat)
  | 0, _, _ => none
  | k + 1, p, e =>
    let r := ecMul k (ecAdd p p) (e / 2)
    if e % 2 = 1 then ecAdd p r else r

/-- ECDSA verification of signature (r, s) over digest `z` by public key (x, y). -/
def ecdsaOk (x y r s z : Nat) : Bool :=
  if x ≥ p256 ∨ y ≥ p256 ∨ (x = 0 ∧ y = 0) ∨ (y * y) % p256 ≠ (x * x * x + (p256 - 3) * x + b256) % p256 then false
  else if r = 0 ∨ r ≥ n256 ∨ s = 0 ∨ s ≥ n256 then false
  else
    let w := invMod n256 s
    match ecAdd (ecMul 256 (some g256) (z * w % n256)) (ecMul 256 (some (x, y)) (r * w % n256)) with
    | none => false
    | some (x1, _) => x1 % n256 = r

/-- Verification of a signature block of 128 bytes (R64): X, Y, r, s, 32 bytes each, big-endian. -/
def sigBlockOk (blk : List (BitVec 8)) (z : Nat) : Bool :=
  let n (i : Nat) := ofBytesBE ((blk.drop (32 * i)).take 32)
  ecdsaOk (n 0) (n 1) (n 2) (n 3) z

end Sys2Proof.Machine
end

