-- ==== Sys2Proof/Machine/Recs.lean ====
section
/-!
DEFINITION. Machine/Recs.lean: reading, replacing and changing the numbered records of the device that stand beside its
registers. An unlisted record is the record at reset.
-/
namespace Sys2Proof.Machine

/-- Record `n` of `Dev.fo`. -/
def Dev.foAt (d : Dev) (n : Nat) : Fo := Tab.find (fun _ => {}) d.fo n

/-- Change record `n` of `Dev.fo`. -/
def Dev.foUpd (d : Dev) (n : Nat) (f : Fo → Fo) : Dev :=
  { d with fo := Tab.put (fun _ => {}) d.fo n (f (d.foAt n)) }

/-- Record `n` of `Dev.gch`. -/
def Dev.gchAt (d : Dev) (n : Nat) : Gch := Tab.find (fun _ => {}) d.gch n

/-- Change record `n` of `Dev.gch`. -/
def Dev.gchUpd (d : Dev) (n : Nat) (f : Gch → Gch) : Dev :=
  { d with gch := Tab.put (fun _ => {}) d.gch n (f (d.gchAt n)) }

/-- Record `n` of `Dev.car`. -/
def Dev.carAt (d : Dev) (n : Nat) : Car := Tab.find (fun _ => {}) d.car n

/-- Change record `n` of `Dev.car`. -/
def Dev.carUpd (d : Dev) (n : Nat) (f : Car → Car) : Dev :=
  { d with car := Tab.put (fun _ => {}) d.car n (f (d.carAt n)) }

/-- Record `n` of `Dev.clu`. -/
def Dev.cluAt (d : Dev) (n : Nat) : Clu := Tab.find (fun _ => {}) d.clu n

/-- Change record `n` of `Dev.clu`. -/
def Dev.cluUpd (d : Dev) (n : Nat) (f : Clu → Clu) : Dev :=
  { d with clu := Tab.put (fun _ => {}) d.clu n (f (d.cluAt n)) }

/-- Record `n` of `Dev.pos`. -/
def Dev.posAt (d : Dev) (n : Nat) : Pos := Tab.find (fun _ => {}) d.pos n

/-- Change record `n` of `Dev.pos`. -/
def Dev.posUpd (d : Dev) (n : Nat) (f : Pos → Pos) : Dev :=
  { d with pos := Tab.put (fun _ => {}) d.pos n (f (d.posAt n)) }

/-- Record `n` of `Dev.pair`. -/
def Dev.pairAt (d : Dev) (n : Nat) : Pair := Tab.find (fun _ => {}) d.pair n

/-- Change record `n` of `Dev.pair`. -/
def Dev.pairUpd (d : Dev) (n : Nat) (f : Pair → Pair) : Dev :=
  { d with pair := Tab.put (fun _ => {}) d.pair n (f (d.pairAt n)) }

/-- Record `n` of `Dev.tgrp`. -/
def Dev.tgrpAt (d : Dev) (n : Nat) : ThmGrp := Tab.find (fun _ => {}) d.tgrp n

/-- Change record `n` of `Dev.tgrp`. -/
def Dev.tgrpUpd (d : Dev) (n : Nat) (f : ThmGrp → ThmGrp) : Dev :=
  { d with tgrp := Tab.put (fun _ => {}) d.tgrp n (f (d.tgrpAt n)) }

/-- Record `n` of `Dev.axis`. -/
def Dev.axisAt (d : Dev) (n : Nat) : Axis := Tab.find (fun _ => {}) d.axis n

/-- Change record `n` of `Dev.axis`. -/
def Dev.axisUpd (d : Dev) (n : Nat) (f : Axis → Axis) : Dev :=
  { d with axis := Tab.put (fun _ => {}) d.axis n (f (d.axisAt n)) }

/-- Record `n` of `Dev.conn`. -/
def Dev.connAt (d : Dev) (n : Nat) : Conn := Tab.find (fun _ => {}) d.conn n

/-- Change record `n` of `Dev.conn`. -/
def Dev.connUpd (d : Dev) (n : Nat) (f : Conn → Conn) : Dev :=
  { d with conn := Tab.put (fun _ => {}) d.conn n (f (d.connAt n)) }

/-- Record `n` of `Dev.adc`. -/
def Dev.adcAt (d : Dev) (n : Nat) : Adc := Tab.find (fun _ => {}) d.adc n

/-- Change record `n` of `Dev.adc`. -/
def Dev.adcUpd (d : Dev) (n : Nat) (f : Adc → Adc) : Dev :=
  { d with adc := Tab.put (fun _ => {}) d.adc n (f (d.adcAt n)) }

/-- Record `n` of `Dev.aux`. -/
def Dev.auxAt (d : Dev) (n : Nat) : Aux := Tab.find (fun _ => {}) d.aux n

/-- Change record `n` of `Dev.aux`. -/
def Dev.auxUpd (d : Dev) (n : Nat) (f : Aux → Aux) : Dev :=
  { d with aux := Tab.put (fun _ => {}) d.aux n (f (d.auxAt n)) }

/-- Record `n` of `Dev.slc`. -/
def Dev.slcAt (d : Dev) (n : Nat) : Slice := Tab.find (fun _ => {}) d.slc n

/-- Change record `n` of `Dev.slc`. -/
def Dev.slcUpd (d : Dev) (n : Nat) (f : Slice → Slice) : Dev :=
  { d with slc := Tab.put (fun _ => {}) d.slc n (f (d.slcAt n)) }

/-- Record `n` of `Dev.egr`. -/
def Dev.egrAt (d : Dev) (n : Nat) : EGrp := Tab.find (fun _ => {}) d.egr n

/-- Change record `n` of `Dev.egr`. -/
def Dev.egrUpd (d : Dev) (n : Nat) (f : EGrp → EGrp) : Dev :=
  { d with egr := Tab.put (fun _ => {}) d.egr n (f (d.egrAt n)) }

/-- Record `n` of `Dev.port`. -/
def Dev.portAt (d : Dev) (n : Nat) : Port := Tab.find (fun _ => {}) d.port n

/-- Change record `n` of `Dev.port`. -/
def Dev.portUpd (d : Dev) (n : Nat) (f : Port → Port) : Dev :=
  { d with port := Tab.put (fun _ => {}) d.port n (f (d.portAt n)) }

/-- Record `n` of `Dev.can`. -/
def Dev.canAt (d : Dev) (n : Nat) : Can := Tab.find (fun _ => {}) d.can n

/-- Change record `n` of `Dev.can`. -/
def Dev.canUpd (d : Dev) (n : Nat) (f : Can → Can) : Dev :=
  { d with can := Tab.put (fun _ => {}) d.can n (f (d.canAt n)) }

/-- Record `n` of `Dev.lu`. -/
def Dev.luAt (d : Dev) (n : Nat) : Lu := Tab.find (fun _ => {}) d.lu n

/-- Change record `n` of `Dev.lu`. -/
def Dev.luUpd (d : Dev) (n : Nat) (f : Lu → Lu) : Dev :=
  { d with lu := Tab.put (fun _ => {}) d.lu n (f (d.luAt n)) }

end Sys2Proof.Machine
end

