-- ==== Sys2Proof/Machine/Map.lean ====
section
/-!
DEFINITION. Machine/Map.lean: the physical address map (R23, R24), the byte windows inside the register ranges (R9), and
which accesses end in a bus error of which kind (R9, R25).
-/
namespace Sys2Proof.Machine

/-- What an address of the map names. `roMem` is a memory that is read only to the cores. -/
inductive Region where
  | unmapped | roMem | sram | fwArea | spool | reg | win | thm | flash
deriving DecidableEq, Repr

/-- Offset `o` of a CAN controller's window lies in its message memory (R354). -/
def canWin (o : Nat) : Bool :=
  (0x1000 ≤ o && o < 0x1000 + 3 * 0x900) || (0x4000 ≤ o && o < 0x4000 + 4 * 0x900) || 0x8000 ≤ o

/-- The bases of the 64 KiB register ranges between 0x4000_0000 and 0x40FF_FFFF (R23). -/
def regBases : List Nat :=
  [0x4000, 0x4001, 0x4002, 0x4003, 0x4004, 0x4010, 0x4011, 0x4020, 0x4030, 0x4040, 0x4050, 0x4070, 0x4080,
   0x40A0, 0x40B0, 0x40C0, 0x40D0, 0x40D1, 0x40E0, 0x40E1, 0x40F0, 0x4140]

/-- The region of physical address `a` (R23, R24). -/
def regionOf (a : Nat) : Region :=
  if a < 0x40000 then .roMem
  else if 0x10000000 ≤ a ∧ a < 0x11000000 then .sram
  else if 0x20000000 ≤ a ∧ a < 0x20290000 then .roMem
  else if 0x20290000 ≤ a ∧ a < 0x20800000 then .fwArea
  else if 0x30000000 ≤ a ∧ a < 0x30400000 then .spool
  else if 0x40900000 ≤ a ∧ a < 0x40940000 then (if canWin (a % 0x10000) then .win else .reg)
  else if 0x40B00100 ≤ a ∧ a < 0x40B00400 then .win
  else if 0x40E00100 ≤ a ∧ a < 0x40E00200 then .win
  else if 0x41000000 ≤ a ∧ a < 0x41400000 then .reg
  else if 0x48000000 ≤ a ∧ a < 0x48010000 then .thm
  else if 0x100000000 ≤ a ∧ a < 0x110000000 then .flash
  else if regBases.contains (a / 0x10000) then .reg
  else .unmapped

/-- The register at `a` is marked atomic-64 (R9). -/
def isAtomic (a : Nat) : Bool :=
  match regDefAt (a / 8 * 8) with
  | some (r, _, _) => r.atomic
  | none => false

/-- The kinds of bus error that SYS_BUSERR counts. -/
inductive BusErr where
  | unmapped | roWrite | width
deriving DecidableEq, Repr

/-- The bus error, if any, of an access of `n` bytes that starts at `a` (R9, R25). A write to the read-only mailbox of Thimble
counts in RO_WRITE whatever its width and alignment (log entry 75). -/
def busErrOf (a n : Nat) (write : Bool) : Option BusErr :=
  match regionOf a with
  | .unmapped => some .unmapped
  | .roMem | .flash => if write then some .roWrite else none
  | .sram | .fwArea | .spool => none
  | .win => if a % n ≠ 0 then some .width else none
  | .thm =>
    if write then some .roWrite
    else if (n ≠ 4 ∧ n ≠ 8) ∨ a % n ≠ 0 ∨ (n = 4 ∧ isAtomic a) then some .width else none
  | .reg => if (n ≠ 4 ∧ n ≠ 8) ∨ a % n ≠ 0 ∨ (n = 4 ∧ isAtomic a) then some .width else none

/-- The bus error of an access, if any (R9, R25): an access to memory ends within the map as well. -/
def accessErr (a n : Nat) (wr : Bool) : Option BusErr :=
  match busErrOf a n wr with
  | some e => some e
  | none =>
    match regionOf a with
    | .reg | .win | .thm => none
    | _ => busErrOf (a + n - 1) 1 wr

/-- Count a bus error in SYS_BUSERR and raise source 749 (R9, R25). -/
def Dev.busErr (d : Dev) (e : BusErr) : Dev :=
  (match e with
    | .unmapped => d.count SYS_BUSERR_UNMAPPED
    | .roWrite => d.count SYS_BUSERR_RO_WRITE
    | .width => d.count SYS_BUSERR_WIDTH).raise 749

/-- Pair `p` is in HANDOVER. -/
def Dev.pairHanding (d : Dev) (p : Nat) : Bool := (if p = 0 then d.get HEM_STAT_PAIRA else d.get HEM_STAT_PAIRB) = 4

/-- Whether origin `o` has the rights of a pair in lockstep (R287, R301, R404). A pair that has handed the safety role over
for its split has them no more (R288). -/
def Dev.lockOrigin (d : Dev) (o : Origin) : Bool :=
  match o with
  | .pair p => d.lockstep p && !((d.pairAt p).splitWanted && d.pairHanding p && d.get HEM_STAT_SAFE_OWNER ≠ p.val)
  | _ => false

/-- The ORIGIN code of a journal entry (R440): 2 and 3 the pairs, 4 + c a split core, 8 the host, 9 the debug module. -/
def originCode (o : Origin) : Nat :=
  match o with
  | .pair p => 2 + p
  | .core c => 4 + c
  | .host => 8
  | .debug => 9

/-- The pair of the writing core. -/
def originPair (o : Origin) : Option Nat :=
  match o with
  | .pair p => some p
  | .core c => some (c / 2)
  | _ => none

end Sys2Proof.Machine
end

