-- ==== Sys2Proof/Machine/Clock.lean ====
section
/-!
DEFINITION. Machine/Clock.lean: the three PLLs as their consumers see them (R26 to R28): which clock runs, which blocks request
it, how a request or its release moves a PLL, and the commands that need a clock; when an image is active and when firmware of
a core runs (R69, R71, R275).
-/
namespace Sys2Proof.Machine

/-! ## States of the PLLs (R28) -/

/-- The three PLL state fields. -/
def pllFld (p : Nat) : Fld := if p = 0 then SYS_CLKSTAT_PLLA_ST else if p = 1 then SYS_CLKSTAT_PLLB_ST else SYS_CLKSTAT_PLLC_ST

/-- The three firmware request bits. -/
def pllReqFld (p : Nat) : Fld := if p = 0 then SYS_CLKREQ_PLLA else if p = 1 then SYS_CLKREQ_PLLB else SYS_CLKREQ_PLLC

/-- The clocks of PLL `p` run: it is LOCKED or in HOLDOFF (R26, R28). -/
def Dev.clk (d : Dev) (p : Nat) : Bool := d.get (pllFld p) = 2 || d.get (pllFld p) = 3

/-- Every PLL runs. -/
def Dev.clks (d : Dev) : Bool := d.clk 0 && d.clk 1 && d.clk 2

/-! ## Requests (R27, R29) -/

/-- A power group or an axis is active: its unit is in OFFSET, TEST, RUN or RUN_REC, or the axis is not OFF. -/
def Dev.driving (d : Dev) : Bool :=
  ((List.range 2).any fun g => 1 ≤ d.get (CLU_STAT_STATE g) && d.get (CLU_STAT_STATE g) ≤ 4)
    || ((List.range 12).any fun n => d.get (STP_STAT_STATE n) ≠ 0)

/-- A block on the clocks of PLL B is at work: an engine slice has RUN set or goes on with its run (RUNNING or LATE, R215), an
epoch is not published yet, or loop-assist instructions wait or are outstanding. -/
def Dev.engBusy (d : Dev) : Bool :=
  ((List.range 64).any fun n => d.bit (CEN_SCFG_RUN n) || d.get (CEN_SSTAT_STATE n) = 2 || d.get (CEN_SSTAT_STATE n) = 3)
    || ((List.range 8).any fun g => (d.egrAt g).live) || ((List.range 4).any fun c => !((d.portAt c).out.isEmpty && (d.portAt c).buf.isEmpty && (d.portAt c).issue.isEmpty))

/-- A block on the clocks of PLL C is at work: a converter runs or calibrates, a reference trim runs, a carrier runs, a position
port measures, a CAN controller is on its bus, a LUA port or the flow measurement is enabled, or SPIM0 (for firmware or the host),
SPIM1 or the service tag's engine has an operation, or SPIH has a frame or fault entries wait for the tag. -/
def Dev.cvtBusy (d : Dev) : Bool :=
  ((List.range 8).any fun n => d.bit (ADC_CTL_RUN n) || d.get (ADC_STAT_STATE n) ≠ 0)
    || d.bit ADC_CALCTL_TRIM
    || ((List.range 3).any fun c => d.get (PWM_STAT_MODE c) ≠ 0)
    || ((List.range 4).any fun n => d.get (POS_CFG_MODE n) ≠ 0 || d.get (CAN_STAT_STATE n) ≠ 0 || d.bit (LUA_CFG_EN n))
    || d.bit FLW_CFG_EN || d.bit SPI_M0CTL_BUSY || d.spih.low || d.spih.flash || !d.m1.queue.isEmpty || d.bit NFC_STAT_BUSY
    || !d.jnl.mirror.isEmpty

/-- Hardware requests PLL `p` (R27, R29): the whole local start from the release of the application side on, then PLL A for
the cores, and PLL B and PLL C while a block that they clock is at work (log entry 73). -/
def Dev.hwWants (d : Dev) (p : Nat) : Bool :=
  2 ≤ d.boot.stage &&
    (d.boot.stage ≤ 6 || p = 0 || d.driving || (p = 1 && d.engBusy) || (p = 2 && d.cvtBusy))

/-- A request is present on PLL `p` (R27): of a block, of hardware by command, or of firmware. In SLEEP_PREP and SUPPLY_LOSS
every request is released (R33, R444). -/
def Dev.pllWanted (d : Dev) (p : Nat) : Bool :=
  d.get SYS_PWRSTATE_STATE ≠ 3 && d.get SYS_PWRSTATE_STATE ≠ 4
    && (d.hwWants p || d.pwr.pllHw.testBit p || d.bit (pllReqFld p))

/-- A request reaches PLL `p`: OFF starts it, HOLDOFF returns to LOCKED (R28). -/
def Dev.pllReq (d : Dev) (p : Nat) : Dev :=
  if d.get (pllFld p) = 0 then d.set (pllFld p) 1 else if d.get (pllFld p) = 3 then d.set (pllFld p) 2 else d

/-- The last request of PLL `p` may have gone: LOCKED enters HOLDOFF (R28). -/
def Dev.pllRelease (d : Dev) (p : Nat) : Dev :=
  if !d.pllWanted p ∧ d.get (pllFld p) = 2 then d.set (pllFld p) 3 else d

/-- The clock controller follows the requests of PLL `p`. -/
def Dev.pllEval (d : Dev) (p : Nat) : Dev := if d.pllWanted p then d.pllReq p else d.pllRelease p

/-- The clock controller follows every block that starts or stops. -/
def Dev.clkEval (d : Dev) : Dev := d.each 3 fun p d => d.pllEval p

/-! ## Commands that need a clock (R26) -/

/-- A command of a block that PLL `p` clocks: with that clock stopped, as with the main domain unpowered, nothing takes place. -/
def State.onClk (s : State) (p : Nat) (f : Dev → Dev) : Out :=
  .next { s with dev := if s.dev.unpowered || !s.dev.clk p then s.dev else f s.dev }

/-- A command of a block that PLL `p` clocks and that also changes the memories. -/
def State.onClkMem (s : State) (p : Nat) (f : State → State) : Out :=
  .next (if s.dev.unpowered || !s.dev.clk p then s else f s)

/-! ## The image and its firmware (R69, R71, R275) -/

/-- An image is active: from ACTIVATION until the application side is reset. -/
def Dev.active (d : Dev) : Bool := d.boot.stage = 6 || d.boot.stage = 7

/-- Firmware was entered: READY was set in this local start (R69). -/
def Dev.fwRuns (d : Dev) : Bool := d.boot.stage = 7

/-- The state of pair `p` (R288). -/
def Dev.pairState (d : Dev) (p : Nat) : Nat := if p = 0 then d.get HEM_STAT_PAIRA else d.get HEM_STAT_PAIRB

/-- Origin `o` makes accesses now: a pair while it runs in lockstep, a core while its pair is split and it has neither asked to
rejoin nor is in a self-test, neither before firmware was entered nor while the debugger halts it (R69, R275, R288, R289, R301).
The host and the debug module may while an image is active (R71, R75, R300). -/
def Dev.originRuns (d : Dev) (o : Origin) : Bool :=
  match o with
  | .pair p => d.fwRuns && d.lockstep p && !d.tb DBG_STAT_HALTED (2 * p)
  | .core c =>
    let q := d.pairAt (c / 2)
    d.fwRuns && !d.tb DBG_STAT_HALTED c && d.pairState (c / 2) = 2 && decide (q.rejoiner ≠ some (c.val % 2))
      && !q.selfTest.testBit (c % 2)
  | .host | .debug => d.active

/-- A command that is a write of a register, which travels over the fabric, a clock of PLL A; no image being active, nobody makes
one (R26, R71, R75). -/
def State.byReg (s : State) (f : Dev → Dev) : Out := s.onClk 0 fun d => d.when d.active f

/-- A command that is a write of a register by origin `o`, while that origin makes accesses. -/
def State.byOrigin (s : State) (o : Origin) (f : Dev → Dev) : Out := s.onClk 0 fun d => d.when (d.originRuns o) f

/-- A register write that also changes the memories. -/
def State.byRegMem (s : State) (f : State → State) : Out := s.onClkMem 0 fun s => if s.dev.active then f s else s

/-- A register write by origin `o` that also changes the memories. -/
def State.byOriginMem (s : State) (o : Origin) (f : State → State) : Out :=
  s.onClkMem 0 fun s => if s.dev.originRuns o then f s else s

end Sys2Proof.Machine
end

