-- ==== Sys2Proof/Machine/Safe.lean ====
section
/-!
DEFINITION. Machine/Safe.lean: the operations by which safety acts across blocks, each written once and called by every
command that needs it: the hold states of field outputs and axes (R51, R246, R266), the gate channels' on and off, the
side rule and the safe-state command (R185 to R187), the states of a current-loop unit (R144), the brake (R320), the
group safety states and their demands (R314 to R317), and Hem hold (R298).
-/
namespace Sys2Proof.Machine

/-- Apply `f` for every element of a list, in order. -/
def Dev.eachOf {α : Type} (d : Dev) (l : List α) (f : α → Dev → Dev) : Dev := l.foldl (fun e x => f x e) d

/-! ## Groups, their channels and what holds them after the local start (R72 to R74) -/

/-- The six-phase group is configured (R143). -/
def Dev.six (d : Dev) : Bool := d.bit (CLU_CTL_SIX 0)

/-- Channels are paired (R175). -/
def Dev.paired (d : Dev) : Bool := d.bit GCH_COM_PAIR

/-- The groups that act together with group `g`: both in a six-phase group. -/
def Dev.groups (d : Dev) (g : Nat) : List Nat := if d.six then [0, 1] else [g]

/-- The power group that power channel `n` belongs to; a pair's secondary belongs to PG0. -/
def Dev.groupOf (d : Dev) (n : Nat) : Nat := if n < 6 || d.paired then 0 else 1

/-- The power channels of group `g`. -/
def Dev.chans (d : Dev) (g : Nat) : List Nat := (List.range 12).filter fun n => d.groupOf n = g

/-- The image uses channel `n`. -/
def Dev.used (d : Dev) (n : Nat) : Bool := !d.tb SYS_GLINK_UNUSED n

/-- Channel `n` is trained. -/
def Dev.trained (d : Dev) (n : Nat) : Bool := d.tb SYS_GLINK_TRAINED n

/-- The position port that feeds group `g` (R106): GROUP 1 feeds PG0, 2 PG1, 3 the six-phase group. -/
def Dev.portOf (d : Dev) (g : Nat) : Option Nat :=
  (List.range 4).find? fun p => let q := d.get (POS_CFG_GROUP p); q = g + 1 || q = 3

/-- The position of group `g` comes from a resolver (R88). -/
def Dev.grpResolver (d : Dev) (g : Nat) : Bool :=
  match d.portOf g with
  | some p => d.get (POS_CFG_MODE p) = 1
  | none => false

/-- Converter `n` would feed group `g` (R88). -/
def Dev.adcFor (d : Dev) (n g : Nat) : Bool := (n < 6 && n / 3 = g) || n = 6 || (n = 7 && d.grpResolver g)

/-- The image uses a channel of group `g`. -/
def Dev.grpUsed (d : Dev) (g : Nat) : Bool := (d.chans g).any d.used

/-- Group `g` is held because a converter that feeds it failed its calibration (R72). -/
def Dev.calHeld (d : Dev) (g : Nat) : Bool :=
  (d.groups g).any fun h => d.grpUsed h && (List.range 8).any fun n => d.adcFor n h && d.tb SYS_IMGSTAT_ADC_CALFAIL n

/-- Group `g` is held because a used channel of it is not trained (R73). -/
def Dev.linkHeld (d : Dev) (g : Nat) : Bool := (d.groups g).any fun h => (d.chans h).any fun n => d.used n && !d.trained n

/-- A start-up fault of R74 holds one group and not all: the axes stay disabled and the field outputs go to HOLD, and Hem hold
is not in force (log entry 9). -/
def Dev.partHeld (d : Dev) : Bool := d.active && [0, 1].any fun g => d.calHeld g || d.linkHeld g

/-! ## Field outputs (R51, R54, R298) -/

/-- What output `n` applies in HOLD: high impedance under a bank supply fault or after a supply loss, else its FO_HOLD
state as a MODE (0 off, 1 low, 2 high; FO_HOLD 3 acts as 0). -/
def Dev.foHoldDrive (d : Dev) (n : Nat) : Nat :=
  if d.fio.bankFault.testBit (n / 4) || d.fio.lossHiz then 0
  else match d.get (HEM_FOHOLD_HOLD n) with
    | 1 => 1
    | 2 => 2
    | _ => 0

/-- The MODE of output `n` in force; values above 4 act as OFF. -/
def Dev.foMode (d : Dev) (n : Nat) : Nat :=
  let m := d.get (FIO_OUTCFG_MODE n)
  if m > 4 then 0 else m

/-- Put output `n` in state `st`, its switches applying MODE `drive`; with both switches off no current flows. -/
def Dev.foPut (d : Dev) (n st drive : Nat) : Dev :=
  let d := d.when (drive = 0) (·.set (FIO_OSTAT_CURRENT n) 0)
  ((d.set (FIO_OSTAT_STATE n) st).setB (FIO_OSTAT_LIMIT n) (st = 2)).foUpd n fun f => { f with drive := drive }

/-- The output drives its MODE again, or is OFF (R51). -/
def Dev.foResume (d : Dev) (n : Nat) : Dev :=
  if d.foMode n = 0 then (d.foPut n 0 0).set (FIO_OSTAT_RETRIES n) 0 else d.foPut n 1 (d.foMode n)

/-- Whether a hold keeps output `n`: Hem hold, a start-up fault that holds a group, a bank supply fault or the supply loss. -/
def Dev.foHeld (d : Dev) (n : Nat) : Bool :=
  d.bit HEM_STAT_HOLD || d.partHeld || d.fio.bankFault.testBit (n / 4) || d.fio.lossHiz

/-- Move output `n` into or out of HOLD as its causes ask; a LATCHED output stays latched, and until activation an output stays
OFF (R71). -/
def Dev.foHold (d : Dev) (n : Nat) : Dev :=
  let st := d.get (FIO_OSTAT_STATE n)
  if !d.active then d
  else if d.foHeld n then (if st = 4 then d else d.foPut n 5 (d.foHoldDrive n))
  else if st = 5 then (if d.foMode n = 0 then d.foPut n 0 0 else d.foPut n 1 (d.foMode n))
  else d

/-- Move FO0 to FO13 into or out of HOLD. -/
def Dev.foHoldAll (d : Dev) : Dev := d.each 14 fun n d => d.foHold n

/-! ## Axes (R246, R266) -/

/-- Event source `off` of axis `n` (R271). -/
def stpSrc (n off : Nat) : Nat := 400 + 10 * n + off

/-- Put axis `n` in state `st` and raise STATE if that changes it. -/
def Dev.axPut (d : Dev) (n st : Nat) : Dev :=
  if d.get (STP_STAT_STATE n) = st then d else ((d.set (STP_STAT_STATE n) st).raise (stpSrc n 9)).clkEval

/-- The bridges of axis `n` go off: both coils leave their chopper cycle and their stall window. -/
def Dev.axBridgesOff (d : Dev) (n : Nat) : Dev :=
  let off (c : Coil) : Coil := { c with phase := 0, window := false }
  d.axisUpd n fun a => { a with bridges := false, coilA := off a.coilA, coilB := off a.coilB }

/-- The axis turns below the blind speed (R261). -/
def Dev.slow (d : Dev) (n : Nat) : Bool :=
  let v := (d.getI (STP_VEL n)).natAbs
  v * 100 < max 50 (d.get (STP_STALL_BLIND_RPS n)) * 256 * max 1 (d.get (STP_COIL_STEPS_REV n)) * 2 ^ 32

/-- Show whether the detector is blind; BLIND is raised on entering and leaving, and the stall run starts anew. -/
def Dev.blindShow (d : Dev) (n : Nat) : Dev :=
  let blind := d.slow n || (d.axisAt n).voided
  let d := d.when blind (·.axisUpd n fun a => { a with stallRun := 0 })
  if blind = d.bit (STP_STAT_BLIND n) then d else (d.setB (STP_STAT_BLIND n) blind).raise (stpSrc n 2)

/-- Velocity and acceleration of axis `n` are 0 at once, and its stall detector is blind, being slow (R261). -/
def Dev.axHalt (d : Dev) (n : Nat) : Dev :=
  ((d.set (STP_VEL n) 0).axisUpd n fun a => { a with acc := 0, frac := 0, eStop := false }).blindShow n

/-- Axis `n` enters HOLD for cause bit `why` (1 Hem, 2 VSTP, 4 guard): bridges off, target and count kept; HOMED is
cleared if the axis was moving (R246, R266). -/
def Dev.axHold (d : Dev) (n why : Nat) : Dev :=
  let st := d.get (STP_STAT_STATE n)
  let d := d.axisUpd n fun a => { a with holdWhy := a.holdWhy ||| why }
  if 1 ≤ st ∧ st ≤ 4 then
    let d := if 2 ≤ st then d.set (STP_STAT_HOMED n) 0 else d
    let d := d.set (STP_STAT_HSTATE n) 0
    ((d.axHalt n).axBridgesOff n).axPut n 6
  else d

/-- Cause `why` of axis `n`'s HOLD ends; the axis leaves HOLD to STANDSTILL once no cause is left. -/
def Dev.axUnhold (d : Dev) (n why : Nat) : Dev :=
  let d := d.axisUpd n fun a => { a with holdWhy := a.holdWhy - (a.holdWhy &&& why) }
  if d.get (STP_STAT_STATE n) = 6 ∧ (d.axisAt n).holdWhy = 0 then
    (d.axisUpd n fun a => { a with bridges := true }).axPut n 1
  else d

/-! ## Gate channels -/

/-- Both shut-off paths permit channel `n`: the permit flag in the frames of its link, and the permit carrier (R170, R309). -/
def Dev.permits (d : Dev) (n : Nat) : Bool :=
  let h := d.gchAt n
  h.link && h.permit1 && h.permit2

/-- The other switch of channel `n`'s leg. -/
def partner (n : Nat) : Nat := if n % 2 = 0 then n + 1 else n - 1

/-- The channels that act as one switch with channel `n` (R175). -/
def Dev.switchOf (d : Dev) (n : Nat) : List Nat :=
  if d.paired && n < 12 then [n % 6, n % 6 + 6] else [n]

/-- The channel whose tables drive channel `n`: the primary of a pair (R175). -/
def Dev.tableOf (d : Dev) (n : Nat) : Nat := if d.paired && 6 ≤ n && n < 12 then n - 6 else n

/-- The segments that drive an edge of channel `n`: the entry, in the working tables of the high-voltage half, of the bin last
measured in that direction; GCH12 and GCH13 use entry 0 (R173, R174, R175). -/
def Dev.segOf (d : Dev) (n : Nat) (on : Bool) : Nat :=
  let h := d.gchAt (d.tableOf n)
  let b := if n ≥ 12 then 0 else if on then h.lastOn else h.lastOff
  clampN 1 24 (fieldGet (if on then h.segOn else h.segOff) (8 * b) 5)

/-- The gate of channel `n` is commanded off, driven by `s` sink segments, and the edge stamped (R168, R169). -/
def Dev.gateOffBy (d : Dev) (n s : Nat) : Dev :=
  if (d.gchAt n).gate then
    (d.gchUpd n fun h => { h with gate := false, offAt := d.mono, strength := s, edgeT := d.time }).set (GCH_STAT_GATE n) 0
  else d

/-- The gate of channel `n` is commanded off with its learned strength. -/
def Dev.gateOff (d : Dev) (n : Nat) : Dev := d.gateOffBy n (d.segOf n false)

/-- The gate of channel `n` is commanded on at instant `t` of the model, driven by `s` source segments (R168, R169). -/
def Dev.gateOnBy (d : Dev) (n t s : Nat) : Dev :=
  if (d.gchAt n).gate then d
  else
    (d.gchUpd n fun h =>
      { h with gate := true, onAt := t, strength := s, edgeT := d.time + (t - d.mono) }).set (GCH_STAT_GATE n) 1

/-- The gate of channel `n` is commanded on at instant `t` with its learned strength. -/
def Dev.gateOnAt (d : Dev) (n t : Nat) : Dev := d.gateOnBy n t (d.segOf n true)

/-- The segments of channel `n` that conduct now: those that drive its last edge until its transition is measured, or for 250 ns,
then all 24 (R168); in SOFTOFF those of the soft turn-off (R178). -/
def Dev.segments (d : Dev) (n : Nat) : Nat :=
  let h := d.gchAt n
  if d.get (GCH_STAT_STATE n) = 3 ∨ d.mono < (if h.gate then h.onAt else h.offAt) + 250 then h.strength else 24

/-- Put channel `n` in state `st`. -/
def Dev.gchPut (d : Dev) (n st : Nat) : Dev := d.set (GCH_STAT_STATE n) st

/-- Channel `n` is off in state OFF. -/
def Dev.gchOff (d : Dev) (n : Nat) : Dev := (d.gateOff n).gchPut n 1

/-- Channel `n` may be driven: both paths permit, and its group is in TEST, RUN or RUN_REC, or the constant off-time
mode is engaged on its carrier, or for GCH12 a brake request or a pulse is present (R185). -/
def Dev.driveOk (d : Dev) (n : Nat) : Bool :=
  d.permits n &&
  (if n < 12 then
     let st := d.get (CLU_STAT_STATE (d.groupOf n))
     (2 ≤ st && st ≤ 4) || d.get (PWM_STAT_MODE (d.groupOf n)) = 3
   else if n = 12 then d.bit GCH_BRK_REQ || (d.carAt 2).onPhase
   else false)

/-- The rows OFF to ACTIVE and ACTIVE to OFF of R185 for channel `n`. -/
def Dev.driveEval (d : Dev) (n : Nat) : Dev :=
  let st := d.get (GCH_STAT_STATE n)
  if st = 1 ∧ d.driveOk n ∧ d.trained n then d.gchPut n 2
  else if st = 2 ∧ !d.driveOk n then d.gchOff n
  else d

/-- The latches of channel `n` as the low-voltage side shows them. -/
def Dev.gchFlt (d : Dev) (n : Nat) : Nat := fieldGet (d.reg (A_GCH_FLT n)) 0 11

/-- Channel `n` alone is suspected conducting: it latched MIS_HIGH, or its partner latched a short circuit or
desaturation while it was commanded off (R187). -/
def Dev.suspect1 (d : Dev) (n : Nat) : Bool :=
  let f := d.gchFlt (partner n)
  (d.gchFlt n).testBit 6 || ((f.testBit 0 || f.testBit 2) && (d.gchAt (partner n)).scOff)

/-- The switch of channel `n` is suspected conducting (R187 rule 1). -/
def Dev.suspected (d : Dev) (n : Nat) : Bool := (d.switchOf n).any d.suspect1

/-- The switch of channel `n` cannot turn on (R187 rule 2). -/
def Dev.cannotOn (d : Dev) (n : Nat) : Bool := (d.switchOf n).any fun m => d.gchFlt m ≠ 0 || !d.trained m

/-- Side `hi` of set `g` is usable (R187 rule 3). -/
def Dev.sideUsable (d : Dev) (g : Nat) (hi : Bool) : Bool :=
  (List.range 3).all fun k =>
    let a := 6 * g + 2 * k + (if hi then 0 else 1)
    (!d.cannotOn a || d.suspected a) && !d.suspected (partner a)

/-- Thimble's selection for group `g` is active short circuit. -/
def Dev.selAsc (d : Dev) (g : Nat) : Bool := d.bit (if g = 0 then GCH_ASC_SEL0 else GCH_ASC_SEL1)

/-- The side rule for set `g`: 1 pulse-off, 2 short on the low side, 3 on the high side (R187 rules 4 and 5). -/
def Dev.sideRule (d : Dev) (g : Nat) : Nat :=
  if !d.selAsc g then 1
  else
    let hi := d.bit GCH_COM_ASC_SIDE
    if d.sideUsable g hi then (if hi then 3 else 2)
    else if d.sideUsable g (!hi) then (if hi then 2 else 3)
    else 1

/-- The field MODEg of GCH_ASC. -/
def ascMode (g : Nat) : Fld := if g = 0 then GCH_ASC_MODE0 else GCH_ASC_MODE1

/-- Show the fault state of both sets in GCH_ASC and in SUSPECT of every channel. -/
def Dev.showAsc (d : Dev) : Dev :=
  d.each 12 fun n d =>
    let b := 2 ^ (n % 6)
    let fs := if n < 6 then GCH_ASC_SUSP0 else GCH_ASC_SUSP1
    let fn := if n < 6 then GCH_ASC_NOON0 else GCH_ASC_NOON1
    let d := d.setB (GCH_STAT_SUSPECT n) (d.suspected n)
    let d := if d.suspected n then d.setBits fs b else d.clrBits fs b
    if d.cannotOn n then d.setBits fn b else d.clrBits fn b

/-- Whether channel `n` lies on the side that mode `m` shorts. -/
def onSide (m n : Nat) : Bool := (m = 3 && n % 2 = 0) || (m = 2 && n % 2 = 1)

/-- The dead time of carrier `c` in ticks: the field clamped to 64 to 64,000 and raised to DT_MIN (R155). -/
def Dev.deadTicks (d : Dev) (f : Fld) : Nat := max (clampN 64 64000 (d.get f)) (d.get PWM_HEMLIM_DT_MIN)

/-- ASC_DT of group `g` in ns as training takes it over: the larger dead time of its carrier (R185). -/
def Dev.ascDt (d : Dev) (g : Nat) : Nat :=
  (max (d.deadTicks (PWM_DT_DT_LH g)) (d.deadTicks (PWM_DT_DT_HL g)) * 5 + 31) / 32

/-- A switch of set `g` takes its safe-state command under mode `m`. A switch of the shorted side turns on at the later
of now and ASC_DT after its partner turned off, and not while its partner is on; a channel with a latch of its own or without
both paths turns off. Every other switch turns off. Without its link no command reaches a channel, and one in ASC holds it (R184,
R185, R186). -/
def Dev.ascSwitch (d : Dev) (m n : Nat) : Dev :=
  let st := d.get (GCH_STAT_STATE n)
  let q := d.gchAt (partner n)
  if !(d.gchAt n).link then d
  else if onSide m n && d.permits n && d.gchFlt n = 0 && d.trained n && !q.gate then
    if st = 1 ∨ st = 2 then (d.gateOnAt n (max d.mono (q.offAt + (d.gchAt n).ascDt))).gchPut n 5 else d
  else if st = 1 ∨ st = 2 ∨ st = 5 then d.gchOff n
  else d

/-- The safe-state command of set `g` reaches its gates: the side rule decides, the switches off go off first, then the
shorted side turns on, and GCH_ASC shows the result. Without any permitted switch on the chosen side the set is in
pulse-off (R186, R187, R317). -/
def Dev.applySet (d : Dev) (g : Nat) : Dev :=
  let d := d.showAsc
  let m0 := d.sideRule g
  let cs := d.chans g
  let m := if cs.any (fun n => onSide m0 n && d.permits n) then m0 else 1
  let d := d.eachOf (cs.filter fun n => !onSide m n) fun n d => d.ascSwitch m n
  let d := d.eachOf (cs.filter fun n => onSide m n) fun n d => d.ascSwitch m n
  d.set (ascMode g) m

/-- The safe-state command of the group of `g`: every set applies the side rule on its own (R186). -/
def Dev.applySafe (d : Dev) (g : Nat) : Dev := d.eachOf (d.groups g) fun g d => d.applySet g

/-! ## The current-loop unit's state (R144) -/

/-- The outputs of carrier `c` are inactive: every switch it drives is off (R151). -/
def Dev.carIdle (d : Dev) (c : Nat) : Dev :=
  if d.get (PWM_STAT_MODE c) = 3 then d
  else
    let d := (d.carUpd c fun r => { r with sw := 0 }).set (PWM_STAT_OUT_EN c) 0
    d.each 6 fun k d => d.gchUpd (6 * c + k) fun h => { h with edge := none }

/-- A unit's state lets its carrier drive: TEST, RUN or RUN_REC. -/
def cluDrives (st : Nat) : Bool := 2 ≤ st && st ≤ 4

/-- The outputs of carrier `c` may be active: its unit is in RUN or RUN_REC, or in TEST past the standstill check, which is made
with pulse-off (R119, R151). -/
def Dev.carDrives (d : Dev) (c : Nat) : Bool :=
  let st := d.get (CLU_STAT_STATE c)
  st = 3 || st = 4 || (st = 2 && match d.portOf c with | some p => (d.posAt p).alignOn | none => false)

/-- Unit `g` enters state `st`, with STATE raised on a change. Entering a driving state ends the set's safe state and
leaves every switch off until the next mark (R151); leaving it makes the outputs inactive. A unit that leaves TEST for RUN keeps the
instant, after which its windows start; outside RUN and RUN_REC no voltage limit acts (R134, R144). -/
def Dev.cluPut1 (d : Dev) (g st : Nat) : Dev :=
  let old := d.get (CLU_STAT_STATE g)
  if old = st then d
  else
    let d := (d.set (CLU_STAT_STATE g) st).raise (224 + 8 * g)
    let d :=
      if cluDrives st then
        if cluDrives old then d else d.set (ascMode g) 0
      else (d.carIdle g).set (CLU_STAT_SECTOR g) 0
    let d :=
      if st = 3 ∨ st = 4 then (if old = 2 then d.cluUpd g fun c => { c with runAt := d.time } else d)
      else (d.cluUpd g fun c => { c with starved := false }).set (CLU_STAT_VLIM g) 0
    (d.eachOf (d.chans g) fun n d => d.driveEval n).clkEval

/-- Unit `g`, with its mirror in a six-phase group, enters state `st`. -/
def Dev.cluPut (d : Dev) (g st : Nat) : Dev := d.eachOf (d.groups g) fun g d => d.cluPut1 g st

/-- Show the domain time of the last good measurement of the source of port `p`: in SLS the swap that last published the estimate,
else the last good measurement of the sensor (register table of R123). -/
def Dev.posStamp (d : Dev) (p : Nat) : Dev :=
  let r := d.posAt p
  d.setReg (A_POS_TST p) (BitVec.ofNat 64 (if d.get (POS_STAT_SRC p) = 3 then r.estStamp else r.goodAt))

/-- Put the angle source of port `p` at `src`, raising event `off` of the port. -/
def Dev.posSrc (d : Dev) (p src off : Nat) : Dev :=
  ((d.set (POS_STAT_SRC p) src).posStamp p).raise (192 + 8 * p + off)

/-- The saturation-pulse start of group `g`'s port is aborted: RES = 5, START_FAIL and LOST (R116, R121). -/
def Dev.alignAbort (d : Dev) (g : Nat) : Dev :=
  match d.portOf g with
  | none => d
  | some p =>
    if d.get (POS_STAT_SRC p) = 1 then
      let d := (d.posUpd p fun r => { r with alignOn := false, pulse := 0, inDecay := false }).set (POS_STRES_RES p) 5
      (d.posSrc p 4 5).raise (192 + 8 * p + 3)
    else d

/-- The current-loop unit of group `g` moves to SAFE from OFFSET, TEST, RUN or RUN_REC (R144). -/
def Dev.cluSafe (d : Dev) (g : Nat) : Dev :=
  let st := d.get (CLU_STAT_STATE g)
  if 1 ≤ st ∧ st ≤ 4 then (d.alignAbort g).cluPut g 5 else d

/-! ## Thimble: the brake (R320) -/

/-- Show brake output `n`, commanded on or off: MODE is Thimble's command (R59). STATE is HOLD under a fault of bank 3 and after
a supply loss (R54), LIMIT stays while the output is on, and an output off is LATCHED while its LATCH bit is set (log entry 74). -/
def Dev.brakeShow1 (d : Dev) (n : Nat) (on : Bool) : Dev :=
  let drive := if !on then 0 else if n = 14 then 2 else 1
  let st :=
    if d.fio.bankFault.testBit 3 || d.fio.lossHiz then 5
    else if !on then (if d.tb FIO_FLT_LATCH_SB (n - 14) then 4 else 0)
    else if d.get (FIO_OSTAT_STATE n) = 2 then 2
    else 1
  (d.set (FIO_OUTCFG_MODE n) drive).foPut n st (if st = 5 then 0 else drive)

/-- Both brake outputs are on: commanded on and not at high impedance (R54, R345). -/
def Dev.brakeOn (d : Dev) : Bool := d.thm.fo14 && d.thm.fo15 && !d.fio.bankFault.testBit 3 && !d.fio.lossHiz

/-- Show the brake outputs in the FIO registers and in THM_SBCST. -/
def Dev.brakeShow (d : Dev) : Dev :=
  ((d.brakeShow1 14 d.thm.fo14).brakeShow1 15 d.thm.fo15).setB THM_SBCST_RELEASED d.brakeOn

/-- The brake is applied: both outputs off; SBC is raised if it was released (R320, R344). -/
def Dev.brakeApply (d : Dev) : Dev :=
  let was := d.thm.fo14 || d.thm.fo15 || d.bit THM_SBCST_REL_REQ
  let d := { d with thm := { d.thm with fo14 := false, fo15 := false } }
  let d := ((d.brakeShow).set THM_SBCST_REL_REQ 0).set THM_SBCST_TESTING 0
  d.when was (·.raise 765)

/-- Group `g` is a brake group (R320). -/
def Dev.brakeGroup (d : Dev) (g : Nat) : Bool :=
  d.bit THM_SBC_SBC_EN && (d.groups g).any fun h => d.tb THM_SBC_SBC_GRP h

/-- The brake is applied if it belongs to group `g`. -/
def Dev.brakeFor (d : Dev) (g : Nat) : Dev := d.when (d.brakeGroup g) Dev.brakeApply

/-! ## Thimble: shut-off paths and group states -/

/-- A discharge run of GCH13 ends with cause `why` and the channel in state `st` (R185, R197). -/
def Dev.disEnd (d : Dev) (why st : Nat) : Dev :=
  let d := (((d.gateOff 13).gchPut 13 st).set GCH_DIS_DIS_DONE 1).set GCH_DIS_LAST_END why
  let d := d.gchUpd 13 fun h => { h with running := false }
  Dev.raise { d with thm := { d.thm with disRun := false } } 111

/-- A discharge run of GCH13 starts: the gate turns on, the run is counted and NOTICE raised (R193, R197). -/
def Dev.disBegin (d : Dev) : Dev :=
  let d := ((d.gateOnAt 13 d.mono).gchPut 13 7).set GCH_DIS_DIS_DONE 0
  ((d.gchUpd 13 fun h => { h with running := true }).count GCH_DIS_RUNS).raise 111

/-- Thimble commands a discharge run; GCH13 takes it in OFF while both paths permit (R185, R193, R328). -/
def Dev.disCommand (d : Dev) : Dev :=
  if d.get (GCH_STAT_STATE 13) = 1 ∧ d.permits 13 then
    let d := d.disBegin
    { d with thm := { d.thm with disRun := true } }
  else d

/-- Set both shut-off paths of channel `n` (R309). -/
def Dev.setPaths (d : Dev) (n : Nat) (p1 p2 : Bool) : Dev := d.gchUpd n fun h => { h with permit1 := p1, permit2 := p2 }

/-- Both shut-off paths of channel `n` are removed: its gate is at VNEG (R170, R317). An autonomous run of GCH13 goes
on (R170). -/
def Dev.cutPaths (d : Dev) (n : Nat) : Dev :=
  let d := d.setPaths n false false
  let st := d.get (GCH_STAT_STATE n)
  if st = 2 ∨ st = 5 then d.gchOff n
  else if st = 7 ∧ d.thm.disRun then d.disEnd 2 1
  else d

/-- Both paths of every channel of the group are removed. -/
def Dev.cutGroup (d : Dev) (g : Nat) : Dev :=
  d.eachOf (d.groups g) fun g d => d.eachOf (d.chans g) fun n d => d.cutPaths n

/-- With SIX, CAR1 follows CAR0: the same half period and mark, rising while CAR0 rises, or while it falls under INV (R152). -/
def Dev.carFollow (d : Dev) : Dev :=
  if d.six ∧ d.get (PWM_STAT_MODE 0) = 1 ∧ d.get (PWM_STAT_MODE 1) = 1 then
    let r := d.carAt 0
    let inv := d.bit (PWM_CTL_INV 1)
    let d := d.setB (PWM_STAT_DIR 1) (d.bit (PWM_STAT_DIR 0) != inv)
    d.carUpd 1 fun q => { q with half := r.half, lastMark := r.lastMark, peakNext := r.peakNext != inv }
  else d

/-- The instant at which CAR1 starts: the first one, from now on, PHASE counter clocks after a valley of CAR0 since CAR0 started,
on the time that a frozen CAR0 will have missed; at once while CAR0 does not run (R151). Instants are in half ns. -/
def Dev.phaseStart (d : Dev) : Nat :=
  if d.get (PWM_STAT_MODE 0) ≠ 1 then 2 * d.mono
  else
    let r := d.carAt 0
    let lost := if d.bit (PWM_STAT_FROZEN 0) then d.mono - r.frozenAt else 0
    let phase := 5 * d.get (PWM_HALF_PHASE 1)
    let period := 10 * max 1 r.half
    let valley := 2 * (r.lastMark + lost) - (if d.bit (PWM_STAT_DIR 0) then 5 * r.half else 0)
    let first := max (2 * d.mono) (2 * (r.startAt + lost) + phase)
    first + (valley + phase + period * (first / period + 1) - first) % period

/-- A carrier begins to count: at a valley, CAR1 at the instant its PHASE gives, or with CAR0 under SIX (R151, R152). -/
def Dev.carBegin (d : Dev) (c : Nat) : Dev :=
  let at1 := (if c = 1 ∧ !d.six then d.phaseStart else 2 * d.mono) / 2
  (d.set (PWM_STAT_DIR c) 0).carUpd c fun r => { r with startAt := at1, lastMark := at1, frozenAt := d.mono, peakNext := true }

/-- A winding discharge in progress is ended: the carrier returns to centre-aligned mode with its outputs off, counting as one that
starts (log entry 123), and the paths of its group are removed (R159, R329). -/
def Dev.windStop (d : Dev) : Dev :=
  match d.thm.windGrp with
  | none => d
  | some g =>
    let d := { d with thm := { d.thm with windGrp := none } }
    d.eachOf (d.groups g) fun g d =>
      let d := d.when (d.get (PWM_STAT_MODE g) = 3) fun d =>
        ((d.set (PWM_STAT_MODE g) (if d.bit (PWM_CTL_RUN g) then 1 else 0)).carBegin g).carFollow
      let d := d.carUpd g fun r => { r with onPhase := false, offPhase := false, cmd := 0x2A }
      (d.carIdle g).eachOf (d.chans g) fun n d => d.cutPaths n

/-- Both paths permit every used, trained channel of the group (R315). -/
def Dev.permitGroup (d : Dev) (g : Nat) : Dev :=
  d.eachOf (d.groups g) fun g d => d.eachOf (d.chans g) fun n d =>
    if d.used n && d.trained n then (d.setPaths n true true).driveEval n else d

/-- The safety state of group `g`: 0 STO, 1 PERMIT, 2 SS1, 3 SAFE, 4 STO_ASC. -/
def Dev.thmState (d : Dev) (g : Nat) : Nat := d.get (THM_GRP_STATE g)

/-- The group enters safety state `st`: GRP_STATE is raised and the entry journalled (R344, R440). -/
def Dev.thmPut (d : Dev) (g st : Nat) : Dev :=
  if d.thmState g = st then d
  else
    let d := d.eachOf (d.groups g) fun h d =>
      let d := d.set (THM_GRP_STATE h) st
      if st = 2 then d
      else (d.set (THM_GRP_SS1_LEFT h) 0).tgrpUpd h fun t => { t with waitBrake := false }
    (d.raise 760).jnlThimble 760

/-- A group in PERMIT or SS1 moves to SAFE, with the brake applied (R315). -/
def Dev.thmSafe (d : Dev) (g : Nat) : Dev :=
  let st := d.thmState g
  if st = 1 ∨ st = 2 then (d.thmPut g 3).brakeFor g else d

/-- The group takes its safe state: the unit moves to SAFE, a group in PERMIT or SS1 moves to SAFE when the unit did or
when Hem or Thimble commands it (`cmd`), and the gates take the safe-state command (R144, R186, R315). -/
def Dev.groupSafe (d : Dev) (g : Nat) (cmd : Bool) : Dev :=
  let st := d.get (CLU_STAT_STATE g)
  let ran : Bool := 1 ≤ st && st ≤ 4
  let d := d.cluSafe g
  let d := d.when (ran || cmd) (·.thmSafe g)
  d.applySafe g

/-- The group enters STO: both paths of every channel removed, safe-state command, brake; the demands that last until
the group is in STO end (R314, R315). -/
def Dev.thmToSto (d : Dev) (g : Nat) : Dev :=
  let d := (d.cutGroup g).cluSafe g
  let d := (d.applySafe g).thmPut g 0
  let d := d.brakeFor g
  d.eachOf (d.groups g) fun h d => d.clrBits (THM_GRP_DEMAND h) 0x28

/-- The decision of R315 and R317 on an STO demand in PERMIT, SS1 or SAFE: STO, or STO_ASC with the paths removed from
every switch outside the shorted side. -/
def Dev.thmStoDemand (d : Dev) (g : Nat) : Dev :=
  let st := d.thmState g
  if 1 ≤ st ∧ st ≤ 3 then
    if d.selAsc g && d.bit (THM_ASC_STO_ASC g) then
      let d := (d.cluSafe g).applySafe g
      let d := d.eachOf (d.groups g) fun h d => d.eachOf (d.chans h) fun n d =>
        if onSide (d.get (ascMode h)) n then d else d.cutPaths n
      (d.thmPut g 4).brakeFor g
    else d.thmToSto g
  else d

/-! ## Thimble: demands and release conditions (R314, R316) -/

/-- The group mask `m` names group `g`, or any set of a six-phase group. -/
def Dev.names (d : Dev) (m g : Nat) : Bool := (d.groups g).any fun h => m.testBit h

/-- Safety-input pair `k` demands: it is used and not CLOSED (R314, R324). -/
def Dev.siDemand (d : Dev) (k : Nat) : Bool := d.get (THM_SICFG_FUNC k) ≠ 0 && d.get (THM_SI_STATE k) ≠ 3

/-- Some safety-input pair of group `g` demands STO (`ss1` false) or SS1. -/
def Dev.siDemands (d : Dev) (g : Nat) (ss1 : Bool) : Bool :=
  (List.range 4).any fun k =>
    d.siDemand k && d.names (d.get (THM_SICFG_GRP k)) g && ((d.get (THM_SICFG_FUNC k) = 2) == ss1)

/-- Connection `k` is a THM consumer that demands: not OPEN, or its last PERMIT bit is 0 (R381). -/
def Dev.connDemand (d : Dev) (k : Nat) : Bool :=
  d.bit (SFL_CCFG_EN k) && d.get (SFL_CCFG_CONN_ID k) ≠ 0 && !d.bit (SFL_CCFG_DIR k) && d.bit (SFL_CCFG_CLASS k)
    && d.get (SFL_CCFG_FUNC k) ≠ 0 && (d.get (SFL_CSTAT_STATE k) ≠ 2 || !(d.connAt k).permit)

/-- The connections whose configuration register is listed; an unlisted one is disabled. -/
def Dev.connList (d : Dev) : List Nat :=
  (d.regs.filter fun e => A_SFL_CCFG 0 ≤ e.1 && e.1 < A_SFL_CCFG 256 && (e.1 - A_SFL_CCFG 0) % 0x20 = 0).map
    fun e => (e.1 - A_SFL_CCFG 0) / 0x20

/-- Some safety connection of group `g` demands STO (`ss1` false) or SS1. -/
def Dev.connDemands (d : Dev) (g : Nat) (ss1 : Bool) : Bool :=
  d.connList.any fun k =>
    d.connDemand k && d.names (d.get (SFL_CCFG_GRP k)) g && ((d.get (SFL_CCFG_FUNC k) = 2) == ss1)

/-- The brake fault demands STO of the brake groups while it is latched (R314). -/
def Dev.sbcDemand (d : Dev) (g : Nat) : Bool := d.tb THM_FLT_LATCH 5 && d.brakeGroup g

/-- Show the demands of group `g` (DEMAND bits 0 safety input, 1 connection, 2 firmware, 4 SBC; bits 3 and 5 are set and
cleared by their events). -/
def Dev.showDemand (d : Dev) (g : Nat) : Dev :=
  d.eachOf (d.groups g) fun h d =>
    let t := d.tgrpAt g
    let b (x : Bool) (n : Nat) : Nat := if x then n else 0
    let keep := d.get (THM_GRP_DEMAND h) &&& 0x28
    d.set (THM_GRP_DEMAND h)
      (keep ||| b (d.siDemands g false || d.siDemands g true) 1 ||| b (d.connDemands g false || d.connDemands g true) 2
        ||| b (t.fwSto || t.fwSs1) 4 ||| b (d.sbcDemand g) 16)

/-- Group `g` has an STO demand. -/
def Dev.stoDemanded (d : Dev) (g : Nat) : Bool :=
  d.siDemands g false || d.connDemands g false || (d.tgrpAt g).fwSto || d.sbcDemand g
    || d.get (THM_GRP_DEMAND g) &&& 0x28 ≠ 0

/-- Group `g` has an SS1 demand. -/
def Dev.ss1Demanded (d : Dev) (g : Nat) : Bool := d.siDemands g true || d.connDemands g true || (d.tgrpAt g).fwSs1

/-- A THM_FLT latch acts on group `g` (R316 condition 4, R343). -/
def Dev.latchActs (d : Dev) (g : Nat) : Bool :=
  let l := d.get THM_FLT_LATCH
  l.testBit 0 || l.testBit 3 || l.testBit 4 || (l.testBit 5 && d.brakeGroup g)
    || (l.testBit 1 && (d.groups g).any fun h => (d.tgrpAt h).pathFlt)
    || (l.testBit 2 && (d.groups g).any fun h => (d.tgrpAt h).ss1Flt)
    || (l.testBit 6 && (List.range 4).any fun k => d.thm.discPairs.testBit k && d.names (d.get (THM_SICFG_GRP k)) g)

/-- Release conditions 1, 2, 4, 5 and 6 of R316: those beside the demands. -/
def Dev.relBase (d : Dev) (g : Nat) : Bool :=
  d.bit SYS_PWRSTATE_READY && !d.bit HEM_STAT_HOLD
    && !d.bit SYS_IMGSTAT_SAFE_ABSENT && !d.bit SYS_IMGSTAT_SAFE_MISMATCH && !d.bit SYS_IMGSTAT_CAL_BAD
    && !d.bit SYS_IMGSTAT_VHOLD_LOW
    && !d.latchActs g
    && d.get (GCH_STAT_STATE 13) ≠ 7 && d.thm.windGrp.isNone
    && !d.bit GCH_GEN_DISABLED
    && (d.groups g).all fun h => (d.chans h).all fun n => !d.used n || d.trained n

/-- All release conditions of R316. -/
def Dev.relOk (d : Dev) (g : Nat) : Bool :=
  d.relBase g && !d.stoDemanded g && !d.ss1Demanded g
    && (List.range 4).all fun k => !(d.siDemand k && d.names (d.get (THM_SICFG_GRP k)) g)

/-! ## Hem: the safe-state command and Hem hold (R294, R298) -/

/-- Hem's safe-state command to group `g`: SAFE_CMD is raised, the action journalled, the group takes its safe state. -/
def Dev.hemSafe (d : Dev) (g : Nat) : Dev := ((d.raise 738).jnlHem 738).groupSafe g true

/-- The groups that receive their own commands: PG0 alone in a six-phase group. -/
def Dev.allGroups (d : Dev) : List Nat := if d.six then [0] else [0, 1]

/-- Cause bit `why` of Hem hold (1 both pairs retired, 2 until READY, 4 start-up fault, 8 Thimble, 16 supply loss)
starts or ends. As hold starts, the outputs and the enabled axes take their hold states and every group receives the
safe-state command; as it ends they leave them. HOLD is raised at each change (R298). -/
def Dev.hemHold (d : Dev) (why : Nat) (on : Bool) : Dev :=
  let w := d.hem.why
  let d := { d with hem := { d.hem with why := if on then w ||| why else w - (w &&& why) } }
  let now := d.hem.why ≠ 0
  if now = d.bit HEM_STAT_HOLD then d.foHoldAll
  else if now then
    let d := ((d.set HEM_STAT_HOLD 1).raise 741).foHoldAll
    let d := d.each 12 fun n d => d.axHold n 1
    d.eachOf d.allGroups fun g d => d.hemSafe g
  else
    let d := ((d.set HEM_STAT_HOLD 0).raise 741).foHoldAll
    d.each 12 fun n d => d.axUnhold n 1

/-! ## Thimble: the evaluation of demands -/

/-- Some pair with HOLD set demands: Thimble requests Hem hold (R323). -/
def Dev.holdReq (d : Dev) : Bool := (List.range 4).any fun k => d.bit (THM_SICFG_HOLD k) && d.siDemand k

/-- A THM_FLT latch is set, and journalled when it is set (R343). -/
def Dev.thmLatch (d : Dev) (bit src : Nat) : Dev :=
  if d.tb THM_FLT_LATCH bit then d else (d.setBits THM_FLT_LATCH (2 ^ bit)).jnlThimble src

/-- Group `g` enters SS1: n0 is recorded and SS1 raised; with an invalid speed SS1 latches and
the STO demand follows at once (R318). -/
def Dev.ss1Enter (d : Dev) (g : Nat) : Dev :=
  let d := (d.thmPut g 2).raise 761
  let d := d.eachOf (d.groups g) fun h d =>
    (d.tgrpUpd h fun t => { t with n0 := t.n.natAbs, waitBrake := false }).set
      (THM_GRP_SS1_LEFT h) (d.get (THM_SS1_SS1_TMAX g))
  if d.bit (THM_GRP_SPD_VALID g) then d
  else
    let d := d.eachOf (d.groups g) fun h d => d.tgrpUpd h fun t => { t with ss1Flt := true }
    let d := (d.thmLatch 2 761).raise 761
    (d.eachOf (d.groups g) fun h d => d.setBits (THM_GRP_DEMAND h) 8).thmStoDemand g

/-- Thimble acts on the demands of group `g` (R314, R315): a release condition lost in PERMIT or SS1 is an STO demand;
an STO demand takes precedence over an SS1 demand, which acts from PERMIT. A demand that arises ends a winding discharge
of the group (R329). -/
def Dev.thmEval (d : Dev) (g : Nat) : Dev :=
  let old := d.get (THM_GRP_DEMAND g)
  let d := d.showDemand g
  let st := d.thmState g
  let now := d.get (THM_GRP_DEMAND g)
  let d := d.when (d.thm.windGrp = some g && now &&& old ≠ now) Dev.windStop
  let lost : Bool := (st = 1 || st = 2) && !d.relBase g
  let d := d.when lost fun d => d.eachOf (d.groups g) fun h d => d.setBits (THM_GRP_DEMAND h) 0x20
  if 1 ≤ st ∧ st ≤ 3 ∧ d.stoDemanded g then d.thmStoDemand g
  else if st = 1 ∧ d.ss1Demanded g then d.ss1Enter g
  else d

/-- Thimble evaluates its hold request and every group. -/
def Dev.thmEvalAll (d : Dev) : Dev :=
  let d := d.hemHold 8 d.holdReq
  d.eachOf d.allGroups fun g d => d.thmEval g

/-- A brake fault: the output still on goes off, SBC latches and is raised, and the brake groups carry the STO demand
(R321). -/
def Dev.sbcFault (d : Dev) : Dev := (((d.brakeApply).thmLatch 5 765).raise 765).thmEvalAll

/-- An STO demand of group `g` that lasts until the group is in STO: bit 8 SS1, bit 32 release condition lost. -/
def Dev.demandSto (d : Dev) (g bits : Nat) : Dev :=
  (d.eachOf (d.groups g) fun h d => d.setBits (THM_GRP_DEMAND h) bits).thmEval g

/-! ## What is shown on a read -/

/-- FAULT_N is asserted (R340): until READY, on a start-up fault that reports on it (`thm.fnHold`), on any latch, while
Thimble restarts or is stopped, while both pairs are retired, and with FN_SAFE in SAFE or STO_ASC. -/
def Dev.faultN (d : Dev) : Bool :=
  !d.bit SYS_PWRSTATE_READY || d.thm.fnHold || d.get THM_FLT_LATCH ≠ 0 || d.get THM_STAT_STATE ≥ 2
    || (d.get HEM_STAT_PAIRA = 3 && d.get HEM_STAT_PAIRB = 3)
    || (d.bit THM_MISC_FN_SAFE && (List.range 2).any fun g => d.thmState g = 3 || d.thmState g = 4)

/-- Thimble agrees to sleep (R341). -/
def Dev.sleepOk (d : Dev) : Bool :=
  ((List.range 2).all fun g => d.thmState g = 0) && d.get (GCH_STAT_STATE 13) ≠ 7 && d.thm.windGrp.isNone
    && !(d.thm.fo14 || d.thm.fo15) && !d.bit THM_STAT_SAFE_UNLOCK && !d.bit THM_STAT_DEV_UNLOCK && !d.bit THM_RESP_BUSY

end Sys2Proof.Machine
end

