-- ==== Sys2Proof/Machine/Switch.lean ====
section
/-!
DEFINITION. Machine/Switch.lean: the switches that the PWM carriers command, the brake chopper's pulses and its direct path, and
the freeze of the carriers (R147, R157, R158, R160 to R164, R191, R192).
-/
namespace Sys2Proof.Machine

/-! ## Switches and edges (R147, R157, R160) -/

/-- Event source `off` of carrier `c` (R166). -/
def pwmSrc (c off : Nat) : Nat := 240 + 8 * c + off

/-- The gate channel that switch `k` of carrier `c` drives (R147). -/
def carChan (c k : Nat) : Nat := if c < 2 then 6 * c + k else 12

/-- Switch `k` of carrier `c` follows its command while the outputs are active and it is not forced off; a change is
sent to its gate channel as an edge with its blanking window of BLANK_NS, 50 to 1,000 ns (R147, R151, R157, R160). The
secondaries of a pair follow PG0's edges (R175). -/
def Dev.carApply (d : Dev) (c k : Nat) : Dev :=
  let r := d.carAt c
  let want := r.cmd.testBit k && d.bit (PWM_STAT_OUT_EN c) && !r.forced.testBit k
  if want = r.sw.testBit k then d
  else
    let b := 2 ^ k
    let d := d.carUpd c fun r =>
      if want then { r with sw := r.sw ||| b, stuck := r.stuck - (r.stuck &&& b) }
      else { r with sw := r.sw - (r.sw &&& b) }
    if d.paired && c = 1 then d else d.gchUpd (carChan c k) fun h =>
      { h with edge := some want, blankNs := clampN 50 1000 (d.get (PWM_BLANK_BLANK_NS c)) }

/-- Switch `k` of carrier `c` is commanded on or off. -/
def Dev.carCmd (d : Dev) (c k : Nat) (on : Bool) : Dev :=
  let b := 2 ^ k
  (d.carUpd c fun r => { r with cmd := if on then r.cmd ||| b else r.cmd - (r.cmd &&& b) }).carApply c k

/-- The number of switches of carrier `c`. -/
def carSwitches (c : Nat) : Nat := if c < 2 then 6 else 1

/-- At a mark a switch forced off at least MINP + DT_LH + DT_HL ticks ago, which its leg commands on, turns on again
(R160). -/
def Dev.carRelease (d : Dev) (c : Nat) : Dev :=
  let wait := d.get (PWM_DT_MINP c) + d.deadTicks (PWM_DT_DT_LH c) + d.deadTicks (PWM_DT_DT_HL c)
  d.each (carSwitches c) fun k d =>
    let r := d.carAt c
    let at1 := Tab.find (fun _ => 0) r.forcedAt k
    if r.forced.testBit k && wait * 5 ≤ (d.mono + 1 - at1) * 32 && (c = 2 || r.cmd.testBit k) then
      (d.carUpd c fun r =>
        { r with forced := r.forced - (r.forced &&& 2 ^ k), forcedAt := Tab.erase r.forcedAt k }).carApply c k
    else d

/-! ## The brake chopper's pulses (R158, R191, R192) -/

/-- The brake path works: CAR2 with its counter clock, or Thimble's direct path (R192). -/
def Dev.brakeLive (d : Dev) : Bool := d.bit GCH_BRK_PATH || (d.get (PWM_STAT_MODE 2) = 2 && !d.bit (PWM_STAT_FROZEN 2))

/-- A brake pulse starts if the request is present and no on-time or off-time runs: the switch is commanded on, and the start is a
mark of CAR2 (R158). Whether GCH12 follows is its state's and its paths' matter (R170, R185). -/
def Dev.brakePulse (d : Dev) : Dev :=
  let r := d.carAt 2
  if d.bit GCH_BRK_REQ && !r.onPhase && !r.offPhase && d.brakeLive then
    let d := (d.carUpd 2 fun r => { r with onPhase := true, lastMark := d.mono }).driveEval 12
    let d := (d.set (PWM_STAT_OUT_EN 2) 1).carRelease 2
    (d.carCmd 2 0 true).raiseIf (d.tb (PWM_CTL_MARK_EVT 2) 0) (pwmSrc 2 0)
  else d

/-- TOFF of CAR2 in ns (R158). -/
def Dev.brakeOffNs (d : Dev) : Nat := (clampN 400 400000 (d.get (PWM_TON_TOFF 2)) * 5 + 1) / 2

/-- GCH12 moves to Thimble's direct path: PATH is set, NOTICE raised and the failure journalled, and Thimble sends the edges itself
(R192). -/
def Dev.brakeDirect (d : Dev) : Dev :=
  if !d.bit GCH_BRK_REQ || d.bit GCH_BRK_PATH then d
  else
    let d := (d.set GCH_BRK_PATH 1).raise 103
    let d := d.jnlFault 103 A_GCH_BRK (A_GCH_STAT 12)
    (d.carUpd 2 fun r => { r with offPhase := false }).brakePulse

/-- PLL C is not LOCKED while a brake request is present: GCH12 moves to the direct path (R192). -/
def Dev.brakeClock (d : Dev) : Dev := d.when (d.get SYS_CLKSTAT_PLLC_ST ≠ 2) Dev.brakeDirect

/-! ## Counter clock and freeze (R148, R162, R163) -/

/-- The counter clock of the carriers runs, a clock of PLL C (R26, R28). -/
def Dev.pwmClock (d : Dev) : Bool := d.clk 2

/-- The position of carrier `c` in its half period in counter clocks of 2.5 ns, counted up from a valley and down from a
peak (R148); a frozen carrier holds it (R162). CAR2 counts up from its pulse start. -/
def Dev.carCount (d : Dev) (c : Nat) : Nat :=
  let r := d.carAt c
  if d.bit (PWM_STAT_FROZEN c) ∨ d.get (PWM_STAT_MODE c) = 0 then d.get (PWM_STAT_COUNT c)
  else
    let n := (d.mono - r.lastMark) * 2 / 5
    if c = 2 then min n (2 ^ 24 - 1)
    else if d.bit (PWM_STAT_DIR c) then r.half - min n r.half else min n r.half

/-- FROZEN of every carrier: its counter clock is stopped, or a debug freeze is in effect; its counter holds meanwhile, and a
brake request that is present as CAR2 goes on starts its pulse; the time frozen counts neither towards a half period nor towards
the wait for PHASE, and CAR1 follows CAR0 under SIX (R151, R152, R158, R162); one that is present as PLL C leaves LOCKED moves to
the direct path (R192). -/
def Dev.showFrozen (d : Dev) : Dev :=
  Dev.brakeClock <| Dev.carFollow <| d.each 3 fun c d =>
    let now := d.bit PWM_FRZ_FROZEN || !d.pwmClock
    if now = d.bit (PWM_STAT_FROZEN c) then d
    else if now then
      ((d.set (PWM_STAT_COUNT c) (d.carCount c)).set (PWM_STAT_FROZEN c) 1).carUpd c fun r => { r with frozenAt := d.mono }
    else
      let d := (d.set (PWM_STAT_FROZEN c) 0).carUpd c fun r =>
        { r with lastMark := r.lastMark + (d.mono - r.frozenAt), startAt := r.startAt + (d.mono - r.frozenAt) }
      d.when (c = 2) Dev.brakePulse

/-- A debug freeze ends: the carriers resume, FREEZE_EXIT is raised, and every unit in TEST, RUN or RUN_REC moves to
SAFE on Hem's safe-state command (R163). -/
def Dev.freezeEnd (d : Dev) : Dev :=
  if d.bit PWM_FRZ_FROZEN then
    let d := ((d.set PWM_FRZ_FROZEN 0).showFrozen).raise 265
    d.eachOf d.allGroups fun g d => d.when (cluDrives (d.get (CLU_STAT_STATE g))) (·.hemSafe g)
  else d

/-- The epoch timer of pair `p` restarts as it resumes (R301). -/
def Dev.epochRestart (d : Dev) (p : Nat) : Dev := d.pairUpd p fun r => { r with checkAt := d.mono }

/-- No core is halted any more: the carriers and the epoch timers of the pairs that were halted go on (R163, R301). -/
def Dev.resumeAll (d : Dev) : Dev :=
  let was := d.get DBG_STAT_HALTED
  let d := d.each 2 fun p d => d.when (was / 4 ^ p % 4 ≠ 0) (·.epochRestart p)
  (d.set DBG_STAT_HALTED 0).freezeEnd

end Sys2Proof.Machine
end

