-- ==== Sys2Proof/Machine/Persist.lean ====
section
/-!
DEFINITION. Machine/Persist.lean: the records kept in persistent memory: two-copy commits (R446), the committed set and
its fields (R338), the change log (R335, R336), and the end of an unlock (R333), with what the end of a development
unlock ends in turn (R163, R301).
-/
namespace Sys2Proof.Machine

/-! ## Two-copy commits -/

/-- The copy a read takes: the valid one of the higher generation. -/
def Twin.cur {α : Type} (t : Twin α) : Option α :=
  match t.ok1, t.ok2 with
  | true, true => some (if t.g1 ≥ t.g2 then t.v1 else t.v2)
  | true, false => some t.v1
  | false, true => some t.v2
  | false, false => none

/-- A whole two-copy commit of `v`: copy 1 then copy 2, each with the next generation number. -/
def Twin.commit {α : Type} (t : Twin α) (v : α) : Twin α :=
  let g := max t.g1 t.g2 + 1
  { v1 := v, v2 := v, g1 := g, g2 := g, ok1 := true, ok2 := true }

/-- The validity of the two copies as Thimble finds it at boot. -/
def Twin.marked {α : Type} (t : Twin α) (bad1 bad2 : Bool) : Twin α :=
  { t with ok1 := t.ok1 && !bad1, ok2 := t.ok2 && !bad2 }

/-- A bad copy repaired from the valid one (R74); no copy valid leaves both bad. -/
def Twin.repair {α : Type} (t : Twin α) : Twin α :=
  match t.ok1, t.ok2 with
  | true, false => { t with v2 := t.v1, g2 := t.g1, ok2 := true }
  | false, true => { t with v1 := t.v2, g1 := t.g2, ok1 := true }
  | _, _ => t

/-- Exactly one copy is valid. -/
def Twin.oneBad {α : Type} (t : Twin α) : Bool := t.ok1 != t.ok2

/-! ## The committed set -/

/-- The registers a type 2 section must name, with the mask of their committed fields (R338). -/
def safeRegs : List (Nat × Nat) :=
  [(A_THM_ASC 0, 0xFFFFFFFFFFFF0003), (A_THM_ASC 1, 0xFFFFFFFFFFFF0003),
   (A_THM_SS1 0, 0xFFFFFFFFFFFFFFFF), (A_THM_SS1 1, 0xFFFFFFFFFFFFFFFF),
   (A_THM_SBC, 0xFFFFFFFFFFFF0131), (A_THM_TMCFG, 0xFFFFFFFFFFFFFF01), (A_THM_SICFG, 0xFFFBFFFBFFFBFFFB),
   (A_THM_MISC, 0xFFFFFFFFFFF0FF07), (A_HEM_WDOG, 0xFF0000), (A_GCH_COM, 0x2),
   (A_GCH_BRK, 0xFFFFFFFF00000000), (A_PWM_TON 2, 0x00FFFFFF00FFFFFF)]

/-- The registers a type 8 section must name, with the mask of their committed fields (R338). -/
def hemRegs : List (Nat × Nat) :=
  [(A_HEM_GLIM 0, 0xFFFFFFFFFFFFFF00), (A_HEM_GLIM 1, 0xFFFFFFFFFFFFFF00),
   (A_HEM_GLIM2 0, 0xFFFFFFFFFFFFFF00), (A_HEM_GLIM2 1, 0xFFFFFFFFFFFFFF00),
   (A_HEM_DERCFG, 0xFFFFFFFFFF000000), (A_HEM_FOALLOW, 0x00FFFFFFFFFFFFFF), (A_HEM_FOHOLD, 0x0FFFFFFF),
   (A_PWM_HEMLIM, 0xFFFFFFFFFFFFFFFF), (A_STP_HEMLIM, 0xFFFF)]

/-- The mask of the committed fields of the register at `a`; 0 where it has none. -/
def setMask (a : Nat) : Nat :=
  match (safeRegs ++ hemRegs).find? fun e => e.1 = a with
  | some e => e.2
  | none => 0

/-- The value of a record as its register takes it: WDT_MS within 2 to 100 ms (R286, log entry 125). -/
def recValue (e : Nat × BitVec 64) : BitVec 64 :=
  if e.1 = A_HEM_WDOG then fieldSet e.2 16 8 (clampN 2 100 (fieldGet e.2 16 8)) else e.2

/-- Show a record of the committed set in its register: only the committed fields are taken (R338). -/
def Dev.showRec (d : Dev) (e : Nat × BitVec 64) : Dev :=
  let m := BitVec.ofNat 64 (setMask e.1)
  d.setReg e.1 ((d.reg e.1 &&& ~~~m) ||| (recValue e &&& m))

/-- The committed set in force, if one is valid. -/
def Dev.safeSet (d : Dev) : Option SafeSet :=
  match d.per.safe.cur with
  | some s => if s.present then some s else none
  | none => none

/-- Every committed field shows the value of the committed set in force (R338). -/
def Dev.showSet (d : Dev) : Dev :=
  match d.safeSet with
  | some s => d.eachOf s.recs fun e d => d.showRec e
  | none => d

/-- The 16-byte records of a section: address, then value, little-endian (R338); `n` bounds their number. -/
def setRecs : Nat → List (BitVec 8) → List (Nat × BitVec 64)
  | 0, _ => []
  | n + 1, l =>
    if l.length < 16 then []
    else (ofBytesLE (l.take 8), BitVec.ofNat 64 (ofBytesLE ((l.drop 8).take 8))) :: setRecs n (l.drop 16)

/-- The records name each required register once and nothing else (R338). -/
def setLayoutOk (req : List (Nat × Nat)) (l : List (BitVec 8)) : Bool :=
  let r := setRecs (l.length / 16) l
  l.length % 16 = 0 && r.length = req.length && req.all fun e => (r.filter fun x => x.1 = e.1).length = 1

/-! ## The rate of domain time -/

/-- The rate bound in ppb: MAX_PPM, 1 to 500, × 1,000 (R436). -/
def Dev.dtmMax (d : Dev) : Int := clampN 1 500 (d.get DTM_CFG_MAX_PPM) * 1000

/-- RATE is TRIM plus the servo term, limited (R436). -/
def Dev.dtmRate (d : Dev) : Dev :=
  d.setI DTM_OFS_RATE (clampI (-d.dtmMax) d.dtmMax (d.getI DTM_TRIM_TRIM + d.dtm.servo))

/-- TRIM of the calibration area is loaded at a local start and applies from the first cycle after lock (R30, R436); 0 without a
valid calibration of this module. -/
def Dev.trimLoad (d : Dev) : Dev :=
  let d := (d.setI DTM_TRIM_TRIM (match d.per.cal.cur with | some c => if c.bound then c.trimPpb else 0 | none => 0)).dtmRate
  { d with dtm := { d.dtm with rate := d.getI DTM_OFS_RATE } }

/-! ## The change log -/

/-- Show FILL, FREE and LOG_FULL (R335, R345). -/
def Dev.showLog (d : Dev) : Dev :=
  let n := d.per.fill.cur.getD 0
  ((d.set THM_CLOG_FILL n).set THM_CLOG_FREE (4096 - n)).setB THM_STAT_LOG_FULL (4096 - n < 2)

/-- The first 60 bytes of a change-log entry (R336). -/
def logBody (stamp num kind origin count digest reason : Nat) : List (BitVec 8) :=
  bytesLE 8 stamp ++ bytesLE 2 num ++ [BitVec.ofNat 8 kind, BitVec.ofNat 8 origin] ++ bytesLE 4 count ++
    bytesBE 32 digest ++ [BitVec.ofNat 8 reason] ++ List.replicate 11 0

/-- From the supply-loss event on, no write of persistent memory begins but the journal's (R446). -/
def Dev.persistShut (d : Dev) : Bool := d.get SYS_PWRSTATE_STATE = 4

/-- Write a change-log entry and commit the fill count that includes it (R335, R336); a full log takes none, nor does one in a
supply loss (R446). -/
def State.logEntry (s : State) (kind origin count digest reason : Nat) : State :=
  let n := s.dev.per.fill.cur.getD 0
  if n ≥ 4096 ∨ s.dev.persistShut then s
  else
    let b := logBody s.dev.time n kind origin count digest reason
    let d := { s.dev with per := { s.dev.per with fill := s.dev.per.fill.commit (n + 1) } }
    { s with mem := wrBytes s.mem (0x20200000 + 64 * n) (b ++ bytesLE 4 (crc32c b)), dev := d.showLog }

/-! ## The end of an unlock -/

/-- Show the development unlock and full debug access (R163, R305). -/
def Dev.showUnlock (d : Dev) : Dev :=
  let a : Bool := d.bit THM_STAT_DEV_UNLOCK && d.bit SYS_IMGSTAT_DBG_ALLOW
  (((d.setB DBG_STAT_DEV_UNLOCK (d.bit THM_STAT_DEV_UNLOCK)).setB DBG_STAT_DBG_ALLOW (d.bit SYS_IMGSTAT_DBG_ALLOW)).setB
    DBG_STAT_ACCESS a).setB PWM_FRZ_PERMIT a

/-- An open safety unlock ends, with its change-log entry counting the RWS writes stored (R333). -/
def State.endSafety (s : State) (origin reason : Nat) : State :=
  if s.dev.bit THM_STAT_SAFE_UNLOCK then
    let s := { s with dev := s.dev.set THM_STAT_SAFE_UNLOCK 0 }
    let s := s.logEntry 3 origin s.dev.thm.rwsStored 0 reason
    { s with dev := Dev.raise { s.dev with thm := { s.dev.thm with rwsStored := 0 } } 766 }
  else s

/-- An open development unlock ends, with its change-log entry; a halted core resumes (R301, R333). -/
def State.endDev (s : State) (origin reason : Nat) : State :=
  if s.dev.bit THM_STAT_DEV_UNLOCK then
    let s := { s with dev := (s.dev.set THM_STAT_DEV_UNLOCK 0).resumeAll.showUnlock }
    let s := s.logEntry 7 origin 0 0 reason
    { s with dev := s.dev.raise 766 }
  else s

end Sys2Proof.Machine
end

