-- ==== Sys2Proof/Machine/Reset.lean ====
section
/-!
DEFINITION. Machine/Reset.lean: the resets of R34 and what each leaves intact, the wake and its abort of SLEEP_PREP (R32,
R33), and the safe reaction of Thimble to a clock failure (R29).
-/
namespace Sys2Proof.Machine

/-! ## What a reset keeps -/

/-- The always-on registers (R31) and the journal's counters, which only a power-on clears (R452), and Thimble's
history (R345). -/
def keepMain (a : Nat) : Bool :=
  [A_SYS_WAKECFG, A_SYS_WAKECAUSE, A_SYS_SLPTMR, A_SYS_RSTCAUSE, A_JNL_CNT, A_JNL_PLOSS,
   A_THM_PWD, A_THM_CLOG, A_THM_CNT].contains a

/-- The registers an application-side reset keeps whole: the always-on ones, Thimble's, the journal's state and counters, the
clock state with REFFAIL, which a main-domain reset clears (log entry 81), and the state, latches, stamps and segment mirrors of
the gate channels (R34). -/
def keepApp (a : Nat) : Bool :=
  keepMain a || (0x48000000 ≤ a && a < 0x48010000) || a = A_SYS_CLKSTAT || a = A_JNL_STAT || a = A_GCH_ASC
    || (List.range 14).any fun n =>
      a = A_GCH_STAT n || a = A_GCH_FLT n || a = A_GCH_FSTAMP n || a = A_GCH_SEGON n || a = A_GCH_SEGOFF n

/-- Fields of otherwise reset registers that an application-side reset keeps: NEXT_SLOT, the link training, what Thimble
found at its boot, the level of VHOLD, GATE_EN as Thimble sees it, the brake request, GCH13's run record, the supply
state of the axes and the latches of the brake outputs. -/
def keepFields : List Fld :=
  [SYS_IMGCTL_NEXT_SLOT, SYS_GLINK_TRAINED, SYS_IMGSTAT_SAFE_ABSENT, SYS_IMGSTAT_CAL_BAD, SYS_IMGSTAT_VHOLD_LOW,
   GCH_GEN_LEVEL, GCH_GEN_DISABLED, GCH_BRK_REQ, GCH_DIS_AUTO_ARMED, GCH_DIS_DIS_DONE, GCH_DIS_LAST_END,
   STP_VSTP_VSTP, STP_VSTP_UV_NOW, STP_VSTP_OV_NOW,
   FIO_FLT_LATCH_SB, FIO_OSTAT_CAUSE 14, FIO_OSTAT_CAUSE 15]

/-- Copy a field from another device. -/
def Dev.copyFld (d e : Dev) (f : Fld) : Dev := d.set f (e.get f)

/-- The high-voltage half of a channel as the main domain loses power: link and synchronisation gone, no permit, a
power switch off, driven by `k` segments; a running discharge goes on (R184, R185). -/
def Gch.unlinked (h : Gch) (now k : Nat) : Gch :=
  { h with link := false, sync := false, permit1 := false, permit2 := false, reported := 0,
           gate := h.gate && h.running, offAt := if h.gate && !h.running then now else h.offAt,
           strength := if h.gate && !h.running then k else h.strength }

/-- The service tag as the module is reset or loses power: the reader's side goes on, a commit leaves the old page (R416). -/
def Nfc.unpowered (t : Nfc) : Nfc := { t with commit := none, swap := false, readPage := none }

/-- NFC_STAT shows the reader's field and the proposal pages it has written, which the tag holds without the module's power (R414,
R417; log entry 98). -/
def Dev.tagShow (d : Dev) : Dev := (d.setB NFC_STAT_FIELD d.nfc.field).set NFC_STAT_DIRTY d.nfc.dirty

/-- The application side is held in reset until the next power-on: after a start-up fault that asks for it, or with Thimble
STOPPED (R74, R308). -/
def Dev.heldUntilPower (d : Dev) : Bool := d.boot.heldReset || d.get THM_STAT_STATE = 3

/-- Main-domain reset: everything but the always-on registers, persistent memory, the journal and Thimble counters that
only a power-on clears, and the high-voltage halves (R34). Module time restarts at 0 (R30). What only a power-on ends goes on:
Thimble STOPPED, which shows the committed set as before (R308, R338), and an application side held in reset (R74). -/
def Dev.mainReset (d : Dev) : Dev :=
  let held := d.heldUntilPower
  let e : Dev :=
    { regs := Tab.keep keepMain d.regs, mono := d.mono, free := d.free, per := d.per, gch := d.gch, nfc := d.nfc.unpowered,
      thm := { fnHold := d.thm.fnHold }, boot := { stage := if held then 0 else 1, heldReset := held },
      pwr := { wakeHigh := d.pwr.wakeHigh, vsupLow := d.pwr.vsupLow, charging := !d.pwr.vsupLow } }
  let e := e.eachOf [SYS_IMGCTL_NEXT_SLOT, THM_STAT_RESTARTS] fun f e => e.copyFld d f
  let e := if d.get THM_STAT_STATE = 3 then (e.set THM_STAT_STATE 3).showSet.showLog else e
  e.tagShow.each 14 fun n e => e.gchUpd n fun h => h.unlinked d.mono (d.segOf n false)

/-- Power-on reset: everything but persistent memory and the separately supplied high-voltage halves (R34, R180). -/
def Dev.powerOn (d : Dev) : Dev :=
  let e : Dev := { mono := d.mono, free := d.free, per := d.per, gch := d.gch, nfc := d.nfc.unpowered,
                   pwr := { wakeHigh := d.pwr.wakeHigh } }
  e.tagShow.each 14 fun n e => e.gchUpd n fun h => h.unlinked d.mono (d.segOf n false)

/-- The bytes that keep their content without power: persistent memory (R31, R447). -/
def isPersistent (a : Nat) : Bool := 0x20000000 ≤ a && a < 0x20800000

/-- The memories lose their content but for persistent memory. -/
def State.volatileLost (s : State) : State := { s with mem := Tab.keep isPersistent s.mem }

/-! ## Application-side reset -/

/-- Every PLL is LOCKED. -/
def Dev.pllsLocked (d : Dev) : Bool :=
  d.get SYS_CLKSTAT_PLLA_ST = 2 && d.get SYS_CLKSTAT_PLLB_ST = 2 && d.get SYS_CLKSTAT_PLLC_ST = 2

/-- The start-up calibration of a local start begins once every PLL is LOCKED: the reference goes from OFF to SETTLING, and
REF_EVT is raised on every converter (R69, R92). -/
def Dev.refAtStart (d : Dev) : Dev :=
  if d.pllsLocked && d.boot.stage = 2 && d.get ADC_REFSTAT_STATE = 0 then
    (d.set ADC_REFSTAT_STATE 1).each 8 fun n d => d.raise (112 + 10 * n + 8)
  else d

/-- The start-up fault that holds every power group (R74, R298): no valid set, a set the image does not match, or no
valid calibration (log entry 9). -/
def Dev.startFault (d : Dev) : Bool :=
  d.bit SYS_IMGSTAT_SAFE_ABSENT || d.bit SYS_IMGSTAT_SAFE_MISMATCH || d.bit SYS_IMGSTAT_CAL_BAD

/-- Application-side reset of the device (R34): the groups take their safe state, then every block but Thimble is
reset; the links, the committed set and Thimble's state stay; a PLL in FAULT goes OFF, and the local start requests every PLL
and loads TRIM (R28, R70, R436). With `held` the application side is kept in reset and no local start begins (R74). -/
def Dev.appReset (d : Dev) (held : Bool) : Dev :=
  let d := (d.hemHold 2 true).windStop
  let d := d.eachOf d.allGroups fun g d => d.groupSafe g true
  let e : Dev :=
    { regs := Tab.keep keepApp d.regs, time := d.time, frac := d.frac, mono := d.mono, free := d.free, jnl := d.jnl, lims := d.lims, dbg := d.dbg,
      pwr := { d.pwr with pllHw := 0 }, per := d.per, gch := d.gch, thm := d.thm, tgrp := d.tgrp,
      fio := { bankFault := d.fio.bankFault }, nfc := d.nfc.unpowered,
      hem := { why := d.hem.why, retiredReset := d.hem.retiredReset },
      boot := { stage := if held then 0 else 2, heldReset := held, pllTries := d.boot.pllTries, lastReset := some d.mono } }
  let e := e.eachOf keepFields fun f e => e.copyFld d f
  let e := if d.get SYS_CLKSTAT_PLLC_ST = 2 then e else e.copyFld d GCH_BRK_PATH
  let e := (e.gateOff 12).brakeShow.tagShow
  let e := e.each 3 fun p e => if e.get (pllFld p) = 4 then e.set (pllFld p) 0 else e
  e.clkEval.showSet.trimLoad.refAtStart

/-- No application-side reset is made now: in SUPPLY_LOSS, or with the application side held in reset (R34, R74, R308). -/
def Dev.noReset (d : Dev) : Bool := d.get SYS_PWRSTATE_STATE = 4 || d.boot.heldReset

/-- Application-side reset of the machine with its cause bit in SYS_RSTCAUSE: open unlocks end with reason 3 (R333), then
the device is reset, and with `held` kept in reset. Shared SRAM and Spool's memory keep their content (R239, log entry 82). -/
def State.appResetTo (s : State) (cause : Fld) (held : Bool) : State :=
  if s.dev.noReset then s
  else
    let s := (s.endSafety 3 3).endDev 3 3
    { s with dev := (s.dev.appReset held).set cause 1 }

/-- Application-side reset of the machine, from which a local start follows. -/
def State.appReset (s : State) (cause : Fld) : State := s.appResetTo cause false

/-! ## Wake -/

/-- The main domain has lost power in SLEEP, and no supply loss runs. -/
def Dev.sleeping (d : Dev) : Bool := d.pwr.asleep && !d.pwr.lossInSleep && !d.pwr.off

/-- The number of the always-on tick that runs, of 32,768 Hz (R26). -/
def Dev.aonTick (d : Dev) : Nat := d.mono * 32768 / 1000000000

/-- A wake source has fired in the always-on tick that runs. -/
def Dev.wokeNow (d : Dev) : Bool := d.pwr.wakeTick = some d.aonTick

/-- An enabled wake source fires with bit `v` of cause field `f`: in SLEEP it begins a local start, in SLEEP_PREP it
aborts the sleep; within the always-on tick in which another source did either it sets its bit as well; in any other state it does
nothing (R32, R33, R36). -/
def Dev.wake (d : Dev) (f : Fld) (v : Nat) : Dev :=
  if d.sleeping then
    let e := (d.mainReset.setBits f v).set SYS_RSTCAUSE_WAKE 1
    { e with pwr := { e.pwr with fromWake := true, wakeTick := some d.aonTick } }
  else if !d.unpowered && d.get SYS_PWRSTATE_STATE = 3 then
    let e := ((d.set SYS_PWRSTATE_STATE 2).setBits f v).set SYS_WAKECAUSE_SLEEP_ABORT 1
    Dev.clkEval { e with pwr := { e.pwr with wakeTick := some d.aonTick } }
  else if !d.unpowered && d.wokeNow then d.setBits f v
  else d

/-! ## Clock failures -/

/-- Thimble's reaction to a clock failure: every power group in its safe state, the stepper bridges and the field outputs off,
FO14 and FO15 with the brake applied (R29). An axis so put off is OFF with EN at 0, an output OFF with MODE OFF (log entry 10). -/
def Dev.clockSafe (d : Dev) : Dev :=
  let d := d.eachOf d.allGroups fun g d => d.groupSafe g true
  let d := d.each 12 fun n d =>
    if d.get (STP_STAT_STATE n) = 0 then d
    else (((d.set (STP_CTL_EN n) 0).axHalt n).axBridgesOff n).axPut n 0
  let d := d.each 14 fun n d =>
    if d.get (FIO_OSTAT_STATE n) = 4 then d
    else (d.set (FIO_OUTCFG_MODE n) 0).foPut n (if d.active && d.foHeld n then 5 else 0) 0
  d.brakeApply

/-- PLL `p` enters FAULT: its outputs are gated off, its event is raised and Thimble acts (R28, R29). -/
def Dev.pllFault (d : Dev) (p : Nat) : Dev := (((d.set (pllFld p) 4).showFrozen).raise (745 + p)).clockSafe

end Sys2Proof.Machine
end

