-- ==== Sys2Proof/Machine/Sequencer.lean ====
section
/-!
DEFINITION. Machine/Sequencer.lean: the pipeline converters' inputs, codes and records (R78 to R83, R94), the sequencers'
slots and triggers (R84 to R88), and the urgent requests (R89, R90).
-/
namespace Sys2Proof.Machine

/-! ## Inputs and codes -/

/-- Multiplexer input `i` of converter `n` is connected (R78). -/
def adcConn (n i : Nat) : Bool := 12 ≤ i || i = 0 || (n = 6 && i ≤ 2) || n = 7

/-- Input `i` of converter `n` is single-ended (R80). -/
def adcSingle (n i : Nat) : Bool := (12 ≤ i && i ≤ 14) || (n = 7 && 4 ≤ i && i ≤ 9)

/-- Input `i` of converter `n` passes the 1/4 attenuator of the resolver front end (R78). -/
def adcQuarter (n i : Nat) : Bool := n = 7 && (i ≤ 3 || i = 10 || i = 11)

/-- The signal of a converter input (R78, R79): its lands, the bandgap, AVDD, REFIN, the die temperature sensor or zero. -/
inductive AdcSig where
  | lands | bandgap | avdd | refin | die | zero
deriving DecidableEq, Repr

/-- The signal that input `i` of converter `n` carries; input 13 of ADC7 carries REFIN while a reference trim runs (R79, R96). -/
def Dev.adcSig (d : Dev) (n i : Nat) : AdcSig :=
  match i with
  | 12 => .bandgap
  | 13 => if n = 7 && d.bit ADC_CALCTL_TRIM then .refin else .avdd
  | 14 => .die
  | 15 => .zero
  | _ => .lands

/-- Twice the voltage in µV at the converter of a diagnostic signal: 1.200 V of the bandgap, AVDD and REFIN through the 1/2
divider, 0.750 V at 25 °C rising by 2.5 mV/°C of the die sensor (R79). `x` is what the signal carries. -/
def adcTwice (g : AdcSig) (x : Int) : Int :=
  match g with
  | .lands => 2 * x
  | .bandgap => 2400000
  | .avdd | .refin => x
  | .die => 1500000 + 5 * (x - 25000)
  | .zero => 0

/-- The code of signal `g` at `x` on input `i` of converter `n` against `vref` µV, before saturation (R80). -/
def adcIdeal (n i : Nat) (g : AdcSig) (x : Int) (vref : Nat) : Int :=
  if adcSingle n i then divRound (32768 * (adcTwice g x - vref)) vref
  else if adcQuarter n i then divRound (32768 * x) (4 * vref)
  else divRound (16384 * adcTwice g x) vref

/-- A stage decision: 0, +1 or −1. -/
def stageDec (k : BitVec 28) (j : Nat) : Int :=
  match k.toNat / 4 ^ j % 4 with
  | 0 => 0
  | 1 => 1
  | _ => -1

/-- The code of the stage decisions under the factors of converter `n` before saturation (R94). -/
def Dev.adcStages (d : Dev) (n : Nat) (k : BitVec 28) (f : BitVec 2) : Int :=
  let x := 256 * f.toInt - d.getI (ADC_CALOFF_OFFSET n)
  let x := (List.range 14).foldl (fun (x : Int) j => x + stageDec k j * d.get (ADC_CALW_W n j)) x
  divRound (x * d.get (ADC_CALGAIN_GAIN n)) (2 ^ 38)

/-- The code of one conversion on input `i` of converter `n`, before saturation. -/
def Dev.adcCode (d : Dev) (n i : Nat) (v : Conv) : Int :=
  match v with
  | .volts x vref => adcIdeal n i (d.adcSig n i) x vref
  | .stages k f => d.adcStages n k f

/-- A sample record (R81). -/
def adcRec (stamp : Nat) (valid blank urgent clip : Bool) (input : Nat) (code : Int) : BitVec 64 :=
  let b (x : Bool) (k : Nat) : Nat := if x then 2 ^ k else 0
  BitVec.ofNat 64
    (stamp % 2 ^ 40 * 2 ^ 24 + b valid 23 + b blank 22 + b urgent 21 + b clip 20 + input % 16 * 2 ^ 16 + unsigned 16 code)

/-- The sample code of a record. -/
def recCode (r : BitVec 64) : Int := signed 16 r.toNat

/-- The full domain time of a record's stamp: the time with its 40 bits that is nearest to now (R17). -/
def Dev.recTime (d : Dev) (r : BitVec 64) : Nat :=
  let ahead := (r.toNat / 2 ^ 24 + 2 ^ 40 - d.time % 2 ^ 40) % 2 ^ 40
  if ahead < 2 ^ 39 ∨ d.time + ahead < 2 ^ 40 then d.time + ahead else d.time + ahead - 2 ^ 40

/-! ## Sequences -/

/-- Event source `off` of converter `n` (R101). -/
def adcSrc (n off : Nat) : Nat := 112 + 10 * n + off

/-- The state of converter `n`: 0 STOPPED, 1 WAIT, 2 SAMPLING, 3 URGENT, 4 CAL. -/
def Dev.adcState (d : Dev) (n : Nat) : Nat := d.get (ADC_STAT_STATE n)

/-- Every sequencer is STOPPED: the idle condition of ADC_REFCFG (R91). -/
def Dev.adcAllStopped (d : Dev) : Bool := (List.range 8).all fun n => d.adcState n = 0

/-- From entry `k` on, the sequence of converter `n` is valid (R84); `fuel` is the number of entries left. -/
def Dev.adcSeqFrom (d : Dev) (n : Nat) : Nat → Nat → Bool
  | 0, _ => false
  | fuel + 1, k =>
    d.get (ADC_SEQ_COUNT n k) ≠ 0 && adcConn n (d.get (ADC_SEQ_INPUT n k))
      && (d.bit (ADC_SEQ_LAST n k) || d.adcSeqFrom n fuel (k + 1))

/-- The sequence of converter `n` is valid (R84). -/
def Dev.adcSeqOk (d : Dev) (n : Nat) : Bool := d.adcSeqFrom n 64 0

/-- The reference is READY (R92). -/
def Dev.refReady (d : Dev) : Bool := d.get ADC_REFSTAT_STATE = 3

/-- Power group `g` is enabled: its unit is not DISABLED (R144). -/
def Dev.grpOn (d : Dev) (g : Nat) : Bool := d.get (CLU_STAT_STATE g) ≠ 0

/-- Converter `n` feeds an enabled power group (R88). -/
def Dev.adcFeeds (d : Dev) (n : Nat) : Bool := (List.range 2).any fun g => d.grpOn g && d.adcFor n g

/-- The multiplexer of converter `n` switches to input `i` unless the previous aperture used it; a switch blanks the
next three apertures (R85). -/
def Dev.adcMux (d : Dev) (n i : Nat) : Dev :=
  d.adcUpd n fun a => if a.mux = some i then a else { a with mux := some i, blank := 3 }

/-- Entry `k` of converter `n` is the one to run next, and waits (R87). -/
def Dev.adcEntry (d : Dev) (n k : Nat) : Dev :=
  let d := ((d.set (ADC_STAT_STATE n) 1).set (ADC_STAT_ENTRY n) k).set (ADC_STAT_SAMPLE n) 0
  d.adcUpd n fun a => { a with restart := false, trig := false }

/-- Entry `k` of converter `n` becomes current: the multiplexer goes to its input (R84 to R87). -/
def Dev.adcCurrent (d : Dev) (n k : Nat) : Dev := (d.adcEntry n k).adcMux n (d.get (ADC_SEQ_INPUT n k))

/-- The sequence starts from STOPPED: its first slot always switches (R85, R87). -/
def Dev.adcStart (d : Dev) (n : Nat) : Dev :=
  (d.adcUpd n fun a => { a with deferred := false, mux := none, blank := 0 }).adcCurrent n 0

/-- A write of RUN = 1 (R84, R87); until activation a converter calibrates and idles (R71). -/
def Dev.adcRun (d : Dev) (n : Nat) : Dev :=
  if d.bit (ADC_CTL_RUN n) || !d.active then d
  else if !d.adcSeqOk n then d.count (ADC_CNT2_RWI_REF n)
  else
    let d := (d.set (ADC_CTL_RUN n) 1).clkEval
    if d.adcState n = 0 ∧ d.refReady then d.adcStart n else d.adcUpd n fun a => { a with deferred := true }

/-- An urgent request is dropped as lost (R90). -/
def Dev.adcLost (d : Dev) (n : Nat) : Dev := (d.count (ADC_CNT_URG_LOST n)).raise (adcSrc n 4)

/-- A write of RUN = 0 (R87, R88): refused while the converter feeds an enabled group. -/
def Dev.adcStop (d : Dev) (n : Nat) : Dev :=
  let st := d.adcState n
  if !d.bit (ADC_CTL_RUN n) then d
  else if st = 0 ∨ st = 4 then ((d.set (ADC_CTL_RUN n) 0).adcUpd n fun a => { a with deferred := false }).clkEval
  else if d.adcFeeds n then d.count (ADC_CNT2_STOP_REF n)
  else
    let d := d.each (d.adcAt n).queue.length fun _ d => d.adcLost n
    let d := ((d.set (ADC_CTL_RUN n) 0).set (ADC_STAT_STATE n) 0).set (ADC_STAT_URGQ n) 0
    ((d.set (ADC_STAT_SAMPLE n) 0).adcUpd n fun a => { pub := a.pub }).clkEval

/-- A mark of kind `k` (1 PG0's carrier, 2 PG1's, 3 the excitation) is registered for the current slot of converter `n`
if it waits for that kind: in WAIT, or interrupted in it by urgent slots. Later marks are ignored (R86). During an urgent slot that
runs between a completed slot and the next entry, the next entry is the slot that a mark serves (R90; DESIGN CHOICE, log entry
112). -/
def Dev.adcTrig1 (d : Dev) (k n : Nat) : Dev :=
  let st := d.adcState n
  if (st = 1 ∨ st = 3) ∧ d.get (ADC_SEQ_TRIG n (d.get (ADC_STAT_ENTRY n))) = k ∧ !(d.adcAt n).restart then
    d.adcUpd n fun a => { a with trig := true }
  else d

/-- A mark of kind `k` reaches every converter (R86). -/
def Dev.adcTrig (d : Dev) (k : Nat) : Dev := d.each 8 fun n d => d.adcTrig1 k n

/-! ## Serial frames of the position ports (R112) -/

/-- A frame of an SSI or SSC port starts if none runs and FRAME_US (10 to 4,000 µs) have passed since the last one started (R112).
-/
def Dev.frameStart (d : Dev) (p : Nat) : Dev :=
  let m := d.get (POS_CFG_MODE p)
  let r := d.posAt p
  let due : Bool := match r.frameLast with
    | some t => decide (t + 1000 * clampN 10 4000 (d.get (POS_ENC_FRAME_US p)) ≤ d.mono)
    | none => true
  if (m = 3 ∨ m = 4) ∧ r.frameAt.isNone ∧ due then
    d.posUpd p fun r => { r with frameAt := some d.mono, frameLast := some d.mono }
  else d

/-- A mark of group `g`'s carrier reaches its position port, which starts a frame with FRAME_SYNC set (R112). -/
def Dev.posMark (d : Dev) (g : Nat) : Dev :=
  match d.portOf g with
  | some p => d.when (d.bit (POS_ENC_FRAME_SYNC p)) (·.frameStart p)
  | none => d

/-! ## Urgent requests -/

/-- An urgent slot of `count` samples of input `i` begins for `who` (R89). -/
def Dev.urgBegin (d : Dev) (n who i count : Nat) : Dev :=
  let d := (d.set (ADC_STAT_STATE n) 3).set (ADC_STAT_SAMPLE n) 0
  (d.adcUpd n fun a => { a with urg := some (who, i, count) }).adcMux n i

/-- Show the length of the urgent queue. -/
def Dev.urgShow (d : Dev) (n : Nat) : Dev := d.set (ADC_STAT_URGQ n) (d.adcAt n).queue.length

/-- A queue with request `r` in it: a current-loop request stands behind the others of its kind and ahead of firmware's. -/
def urgInsert (q : List (Nat × Nat × Nat)) (r : Nat × Nat × Nat) : List (Nat × Nat × Nat) :=
  if r.1 = 0 then q ++ [r] else (q.filter fun x => x.1 ≠ 0) ++ [r] ++ (q.filter fun x => x.1 = 0)

/-- The arbitration of the urgent queue of two entries (R90): a current-loop request displaces the newest firmware
request of a full queue. -/
def Dev.urgQueue (d : Dev) (n who i count : Nat) : Dev :=
  let q := (d.adcAt n).queue
  let put (d : Dev) (q : List (Nat × Nat × Nat)) : Dev :=
    (d.adcUpd n fun a => { a with queue := urgInsert q (who, i, count) }).urgShow n
  if q.length < 2 then put d q
  else if who = 0 || q.all (fun x => x.1 ≠ 0) then d.adcLost n
  else put (d.adcLost n) (q.take 1)

/-- An urgent request for `count` samples of input `i` by `who` (0 firmware, else a vector of a current-loop unit or, 3, its
offset) (R78, R89, R90). One registered with the last counted aperture of the running slot aborts nothing and runs before the next
entry. -/
def Dev.urgRequest (d : Dev) (n who i count : Nat) : Dev :=
  let st := d.adcState n
  if st = 0 ∨ st = 4 ∨ count = 0 ∨ !adcConn n i ∨ (who = 0 ∧ n < 6 ∧ d.adcFeeds n) then d.adcLost n
  else if st = 3 ∨ (d.adcAt n).queue ≠ [] then d.urgQueue n who i count
  else if st = 2 ∧ d.get (ADC_SEQ_COUNT n (d.get (ADC_STAT_ENTRY n))) ≤ d.get (ADC_STAT_SAMPLE n) then
    d.urgQueue n who i count
  else
    let d := d.when (st = 2) fun d =>
      ((d.adcUpd n fun a => { a with restart := true }).count (ADC_CNT_URG_ABORT n)).raise (adcSrc n 3)
    d.urgBegin n who i count

/-- A write of ADC_URGn for `count` samples of input `i`: a converter that is not STOPPED takes it on its clock (R26, R90). -/
def Dev.urgWrite (d : Dev) (n i count : Nat) : Dev :=
  if d.adcState n ≠ 0 && !d.clk 2 then d else d.urgRequest n 0 i count

end Sys2Proof.Machine
end

