-- ==== Sys2Proof/Machine/Pos.lean ====
section
/-!
DEFINITION. Machine/Pos.lean: the position ports: measurements, the tracking observer and its faults, the source of the
angle (chapter 05; R105 to R118).
-/
namespace Sys2Proof.Machine

/-! ## What a port shows -/

/-- Event source `off` of port `p` (R122). -/
def posEv (p off : Nat) : Nat := 192 + 8 * p + off

/-- The group that port `p` feeds (R106). -/
def Dev.posGroup (d : Dev) (p : Nat) : Option Nat :=
  match d.get (POS_CFG_GROUP p) with
  | 0 => none
  | 2 => some 1
  | _ => some 0

/-- The group of port `p` is enabled. -/
def Dev.posOn (d : Dev) (p : Nat) : Bool :=
  match d.posGroup p with
  | some g => d.grpOn g
  | none => false

/-- Motor pole pairs of port `p`, 1 to 64. Here and in the other fields of a port a value outside the stated range is stored and
acts as the nearest one inside it (DESIGN CHOICE, log entry 114). -/
def Dev.posPP (d : Dev) (p : Nat) : Int := clampN 1 64 (d.get (POS_CFG_PP p))

/-- Turns of the sensor per mechanical turn: RSLV_PP, 1 to 8, for a resolver, else 1 (R113). -/
def Dev.posRpp (d : Dev) (p : Nat) : Int :=
  if d.get (POS_CFG_MODE p) = 1 then clampN 1 8 (d.get (POS_CFG_RSLV_PP p)) else 1

/-- The published Q32.32 value of collector word `w`. -/
def Dev.outQ (d : Dev) (w : Nat) : Int := (d.reg (A_CEN_OUT w)).toInt

/-- The AGE of collector word `w`. -/
def Dev.outAge (d : Dev) (w : Nat) : Nat := d.get (CEN_AGE_AGE (w / 8) (w % 8))

/-- The estimate pair of port `p` is valid: neither word is stale (R116). -/
def Dev.estValid (d : Dev) (p : Nat) : Bool :=
  let w := 2 * d.get (POS_SLS_EST_IDX p)
  d.outAge w = 0 && d.outAge (w + 1) = 0

/-- The speed command the image names for port `p` (R116). -/
def Dev.speedCmd (d : Dev) (p : Nat) : Int :=
  match d.img.speed.find? fun e => e.1 = p with
  | some e => d.outQ e.2
  | none => (Config.unnamed (8 + p)).toInt

/-- SLS_MIN or SPEED_MAX in 0.01 rev/s as a Q32.32 value × 100. -/
def centi (x : Nat) : Int := x * 2 ^ 32

/-- The observer's angle of port `p` at model instant `t`, in sensor turns (R114). -/
def Dev.obsAt (d : Dev) (p : Nat) (t : Int) : Int :=
  let r := d.posAt p
  r.theta + near (r.omega * (t - r.tk)) 1000000000

/-- The mechanical speed of the source in force, in rev/s (R113, R116). -/
def Dev.posSpeed (d : Dev) (p : Nat) : Int :=
  let r := d.posAt p
  match d.get (POS_STAT_SRC p) with
  | 2 => d.speedCmd p
  | 3 => r.slsSpeed
  | _ => near r.omega (d.posRpp p)

/-- The electrical angle of port `p` at model instant `t` (R113, R114, R116). -/
def Dev.posAngle (d : Dev) (p : Nat) (t : Int) : Int :=
  let r := d.posAt p
  let run (a w t0 : Int) : Int := fracQ (a + near (d.posPP p * w * (t - t0)) 1000000000)
  match d.get (POS_STAT_SRC p) with
  | 2 => run r.openAngle (d.speedCmd p) r.openAt
  | 3 => run r.slsAngle r.slsSpeed r.slsAt
  | _ => fracQ (near (d.posPP p * d.obsAt p t) (d.posRpp p) + (d.reg (A_POS_OFF p)).toInt)

/-- The mechanical position of port `p` now; in SLS it goes on from its value at the change of source by the estimated speed. -/
def Dev.posMech (d : Dev) (p : Nat) : Int :=
  let r := d.posAt p
  if d.get (POS_STAT_SRC p) = 3 then r.slsPos + near (r.slsSpeed * ((d.mono : Int) - r.slsPosAt)) 1000000000
  else near r.theta (d.posRpp p)

/-- Show position, speed and electrical angle. -/
def Dev.posShow (d : Dev) (p : Nat) : Dev :=
  let t : Int := if d.get (POS_STAT_SRC p) = 2 ∨ d.get (POS_STAT_SRC p) = 3 then d.mono else (d.posAt p).tk
  let a := d.posAngle p t
  let d := d.setReg (A_POS_POS p) (qBits (d.posMech p))
  let d := d.setReg (A_POS_SPD p) (qBits (d.posSpeed p))
  d.setReg (A_POS_ELEC p) (qBits a)

/-- What a consumer reads of port `p` now: 0 position, 1 speed, else electrical angle; OPEN and SLS go on between the swaps
(R114, R116). -/
def Dev.posNow (d : Dev) (p k : Nat) : Int :=
  let src := d.get (POS_STAT_SRC p)
  let live : Bool := src = 2 || src = 3
  match k with
  | 0 => if live then d.posMech p else (d.reg (A_POS_POS p)).toInt
  | 1 => if live then d.posSpeed p else (d.reg (A_POS_SPD p)).toInt
  | _ => if live then d.posAngle p d.mono else (d.reg (A_POS_ELEC p)).toInt

/-- Show whether a sensor fault lasts and whether the estimate is valid. -/
def Dev.posShowValid (d : Dev) (p : Nat) : Dev :=
  (d.setB (POS_STAT_SENSOR_VALID p) (!(d.posAt p).fault)).setB (POS_STAT_EST_VALID p) (d.estValid p)

/-! ## Faults (R115) -/

/-- The port goes LOST: Hem puts its group into its safe state (R116). -/
def Dev.posLost (d : Dev) (p : Nat) : Dev :=
  let d := d.posSrc p 4 3
  match d.posGroup p with
  | some g => d.hemSafe g
  | none => d

/-- The estimate published last for port `p`: angle and speed, of the swap that published them (R116). -/
def Dev.slsTake (d : Dev) (p : Nat) : Dev :=
  let w := 2 * d.get (POS_SLS_EST_IDX p)
  d.posUpd p fun r =>
    { r with slsAngle := fracQ (d.outQ w), slsSpeed := d.outQ (w + 1), slsAt := r.estAt, staleEpochs := 0 }

/-- Port `p` goes to SLS, raising event `off`: the angle is extrapolated from the swap that published the estimate, and the position
goes on from its value now (R116). -/
def Dev.slsEnter (d : Dev) (p off : Nat) : Dev :=
  let pos := d.posMech p
  let d := (d.slsTake p).posUpd p fun r => { r with slsPos := pos, slsPosAt := d.mono }
  (d.posSrc p 3 off).posShow p

/-- The sensor fault of port `p` meets source SENSOR of an enabled group: fallback to SLS or LOST (R116, R118). -/
def Dev.posFall (d : Dev) (p : Nat) : Dev :=
  if d.get (POS_STAT_SRC p) ≠ 0 ∨ !d.posOn p then d
  else
    let r := d.posAt p
    let fast := centi (d.get (POS_SLS_SLS_MIN p)) ≤ 100 * ((near r.omega (d.posRpp p)).natAbs : Int)
    let barred := match r.disAt with | some t => decide (d.mono < t + 100000000) | none => false
    if d.bit (POS_CFG_FB_EN p) && fast && d.estValid p && !barred then d.slsEnter p 2 else d.posLost p

/-- INDEXED is cleared, and with it the cause INDEX is gone (R111, R115). -/
def Dev.posUnindex (d : Dev) (p : Nat) : Dev :=
  (d.set (POS_STAT_INDEXED p) 0).posUpd p fun r => { r with live := r.live - (r.live &&& 0x200) }

/-- A sensor fault is raised: the observer and the index start afresh, and the source reacts (R111, R113, R115). While one lasts
already none is raised anew (DESIGN CHOICE, log entry 115). -/
def Dev.posSensorFault (d : Dev) (p : Nat) : Dev :=
  if (d.posAt p).fault then d
  else
    let d := d.posUpd p fun r => { r with fault := true, init := false }
    ((d.posUnindex p).posShowValid p).posFall p

/-- Set cause bits of POS_FLTp; FAULT is raised when a bit goes from 0 to 1 (R115). -/
def Dev.posCause (d : Dev) (p bits : Nat) : Dev :=
  let new := bits - (bits &&& d.get (POS_FLT_CAUSE p))
  let d := (d.setBits (POS_FLT_CAUSE p) bits).posUpd p fun r => { r with live := r.live ||| bits }
  d.when (new ≠ 0) (·.raise (posEv p 1))

/-- A bad reading with cause bits `bits` (0 for a missing measurement): discarded and counted; ERR_CONSEC in a row raise
the sensor fault (R114, R115). -/
def Dev.posBad (d : Dev) (p bits : Nat) : Dev :=
  let d := (d.count (POS_CNT_BAD_READ p)).posCause p bits
  let d := d.posUpd p fun r => { r with bad := r.bad + 1 }
  d.when (max 1 (d.get (POS_CFG_ERR_CONSEC p)) ≤ (d.posAt p).bad) (·.posSensorFault p)

/-- An immediate sensor fault (R115). -/
def Dev.posImmediate (d : Dev) (p bits : Nat) : Dev := (d.posCause p bits).posSensorFault p

/-- A sensor fault ends once every cause bit is clear (R115). -/
def Dev.posFaultEnd (d : Dev) (p : Nat) : Dev :=
  let d := d.when (d.get (POS_FLT_CAUSE p) = 0) (·.posUpd p fun r => { r with fault := false })
  d.posShowValid p

/-- |ω̂| / RSLV_PP exceeds SPEED_MAX (R115). -/
def Dev.posOverspeed (d : Dev) (p : Nat) : Bool :=
  centi (d.get (POS_LIM_SPEED_MAX p)) * d.posRpp p < 100 * ((d.posAt p).omega.natAbs : Int)

/-- The causes of port `p` still present: those of the readings since the last good one, INDEX until INDEXED is cleared,
VENC_OC until VENC_EN is written 0, OVERSPEED while the speed exceeds its limit (R115). -/
def Dev.posLive (d : Dev) (p : Nat) : Nat := ((d.posAt p).live &&& 0x7FF) + (if d.posOverspeed p then 0x800 else 0)

/-- POS_FAULT_CLEAR (R115): 1s written clear the bits whose cause has gone. -/
def Dev.posClear (d : Dev) (p mask : Nat) : Dev :=
  let m := mask % 4096
  let d := d.clrBits (POS_FLT_CAUSE p) (m - (m &&& d.posLive p))
  let d := d.when (mask.testBit 12) (·.set (POS_FLT_DISAGREE p) 0)
  d.posFaultEnd p

/-- POS_FAULT_CLEAR (R115). -/
def execPosFaultClear (p : Fin 4) (mask : BitVec 13) (s : State) : Out := s.byReg fun d => d.posClear p mask.toNat

/-! ## The observer (R113) -/

/-- An update of the observer by error `e`, `tau` ns after the last good measurement. -/
def Dev.obsStep (d : Dev) (p : Nat) (e : Int) (tau : Nat) : Dev :=
  let kp := (d.reg (A_POS_KP p)).toInt
  let ki := (d.reg (A_POS_KI p)).toInt
  d.posUpd p fun r =>
    let w := r.omega + near (ki * e * tau) (2 ^ 32 * 1000000000)
    { r with omega := w, theta := r.theta + near ((w + mulQ kp e) * tau) 1000000000, tk := d.mono }

/-- A good reading has been taken: the count of bad ones restarts and its causes are gone (R115). -/
def Dev.posTaken (d : Dev) (p : Nat) : Dev :=
  let d := d.posUpd p fun r => { r with bad := 0, live := r.live - (r.live &&& 0x1FF), tk := d.mono, goodAt := d.time }
  let d := d.posStamp p
  let d := d.when (d.posOverspeed p) (·.posImmediate p 0x800)
  (d.posFaultEnd p).posShow p

/-- The error of a reading of angle `a`, before DIR, against the observer (R113). -/
def Dev.posErr (d : Dev) (p : Nat) (a : Int) : Int :=
  wrapQ ((if d.bit (POS_CFG_DIR p) then -a else a) - (d.posAt p).theta)

/-- A reading of angle `a` fails with LOT: its error exceeds LOT_MAX, and it does not initialise the observer (R115). -/
def Dev.posLot (d : Dev) (p : Nat) (a : Int) : Bool :=
  (d.posAt p).init && decide ((d.get (POS_LIM_LOT_MAX p) : Int) * 2 ^ 16 < (d.posErr p a).natAbs)

/-- A reading of angle `a`, before DIR, of a running port: the first initialises the observer; a later one is bad beyond
LOT_MAX, and otherwise updates it (R113, R115). -/
def Dev.posReading (d : Dev) (p : Nat) (a : Int) : Dev :=
  let r := d.posAt p
  if !r.init then
    (d.posUpd p fun r =>
      { r with init := true, theta := if d.bit (POS_CFG_DIR p) then -a else a, omega := 0 }).posTaken p
  else if d.posLot p a then d.posBad p 8
  else (d.obsStep p (d.posErr p a) (d.mono - r.tk)).posTaken p

/-! ## Resolver (R107 to R109) -/

/-- The ADC7 entry that POS_RENT names: 0 SIN, 1 COS, 2 EXC of port `p`. -/
def Dev.rentEntry (d : Dev) (p what : Nat) : Nat :=
  d.get (match what with
    | 0 => if p = 0 then POS_RENT_SIN0 else POS_RENT_SIN1
    | 1 => if p = 0 then POS_RENT_COS0 else POS_RENT_COS1
    | _ => if p = 0 then POS_RENT_EXC0 else POS_RENT_EXC1)

/-- The excitation value of the half period that ends is the previous one from now on; a half period without a value leaves none to
average with, and no check stands (R109). -/
def Pos.excTurn (r : Pos) : Pos :=
  { r with excHalf := r.excNow, excNow := none, excBad := r.excBad && r.excNow.isSome }

/-- EXCITATION_MARK (R107): a mark with its polarity, `pos` for +1, opens a pair at every resolver port and triggers the
converters. -/
def execExcitationMark (pos : Bool) (s : State) : Out :=
  s.onClk 2 fun d =>
    let d := d.each 2 fun p d =>
      if d.get (POS_CFG_MODE p) = 1 then
        d.posUpd p fun r =>
          { r.excTurn with markPol := if pos then 1 else -1, pairOpen := true, gotS := none, gotC := none }
      else d
    d.adcTrig 3

/-- A resolver pair is dropped: counted, and a missing measurement (R108, R114). -/
def Dev.pairDrop (d : Dev) (p : Nat) : Dev :=
  let d := d.posUpd p fun r =>
    { r with pairOpen := false, gotS := none, gotC := none, sinHalf := none, cosHalf := none }
  (d.count (POS_CNT_DROP_PAIR p)).posBad p 0

/-- RESOLVER_PAIR_TIMEOUT (R108). -/
def execResolverPairTimeout (p : Fin 2) (s : State) : Out :=
  s.onClk 2 fun d => if (d.posAt p).pairOpen then d.pairDrop p else d

/-- Both slots of port `p` have completed: the demodulation of R108 and the checks of R109 and R115. The first half period
has no previous value to average with. -/
def Dev.demod (d : Dev) (p : Nat) (rs rc : BitVec 64) : Dev :=
  if !(rs.getLsbD 23 && rc.getLsbD 23) then d.pairDrop p
  else
    let r := d.posAt p
    let s := r.markPol * recCode rs
    let c := r.markPol * recCode rc
    let d := d.posUpd p fun r =>
      { r with pairOpen := false, gotS := none, gotC := none, sinHalf := some s, cosHalf := some c }
    match r.sinHalf, r.cosHalf with
    | some s0, some c0 =>
      let s := s + s0
      let c := c + c0
      let a2 := s.natAbs * s.natAbs + c.natAbs * c.natAbs
      let d := d.set (POS_STAT_AMP p) (min 65535 (ratSqrt a2 4))
      let lo := d.get (POS_LIM_LOS_MIN p)
      let hi := d.get (POS_LIM_DOS_MAX p)
      let bits := (if a2 < 4 * lo * lo then 1 else 0) + (if 4 * hi * hi < a2 then 2 else 0) + (if r.excBad && d.bit POS_RENT_EXC_EN then 4 else 0)
      if bits ≠ 0 then d.posBad p bits else d.posReading p (atan2Q s c)
    | _, _ => d

/-- The excitation amplitude of port `p` lies outside AMPp ± 20 % (R109); `v` is twice the averaged result, below 0 for an
inverted excitation. -/
def Dev.excOff (d : Dev) (p : Nat) (v : Int) : Bool :=
  let amp : Int := 50 * clampN 40 200 (d.get (if p = 0 then POS_RSLV_AMP0 else POS_RSLV_AMP1))
  let u : Int := 4 * v * d.get ADC_REFSTAT_REF_MV
  amp * 65536 < 5 * (u - amp * 65536).natAbs

/-- The excitation value `v` of this half period: averaged with the previous one it is checked; without one there is no check
(R109). -/
def Dev.posExc (d : Dev) (p : Nat) (v : Int) : Dev :=
  let bad := match (d.posAt p).excHalf with
    | some v0 => d.excOff p (v + v0)
    | none => false
  d.posUpd p fun r => { r with excNow := some v, excBad := bad }

/-- With EXC_EN written 0 no excitation value and no check stand (R109). -/
def Dev.excDrop (d : Dev) : Dev :=
  if d.bit POS_RENT_EXC_EN then d
  else d.each 2 fun p d => d.posUpd p fun r => { r with excHalf := none, excNow := none, excBad := false }

/-- The result of ADC7 entry `k` reaches the resolver ports (R108, R109). An excitation result is used whatever its VALID says,
and one that comes after both slots acts on the next pair (DESIGN CHOICE, log entry 116). -/
def Dev.posSlot (d : Dev) (k : Nat) (rec : BitVec 64) : Dev :=
  if d.get (ADC_SEQ_TRIG 7 k) ≠ 3 then d
  else d.each 2 fun p d =>
    if d.get (POS_CFG_MODE p) ≠ 1 then d
    else
      let d :=
        if d.bit POS_RENT_EXC_EN ∧ d.rentEntry p 2 = k then d.posExc p ((d.posAt p).markPol * recCode rec) else d
      if !(d.posAt p).pairOpen then d
      else
        let d := if d.rentEntry p 0 = k then d.posUpd p fun r => { r with gotS := some rec } else d
        let d := if d.rentEntry p 1 = k then d.posUpd p fun r => { r with gotC := some rec } else d
        match (d.posAt p).gotS, (d.posAt p).gotC with
        | some a, some b => d.demod p a b
        | _, _ => d

/-! ## Encoders (R105, R110 to R112) -/

/-- The step of the count from quadrature levels `old` to `new` (bit 0 A, bit 1 B), A leading B counting up. -/
def quadStep (old new : Nat) : Int :=
  if (old, new) ∈ [(0, 1), (1, 3), (3, 2), (2, 0)] then 1 else -1

/-- ENCODER_EDGE (R110): the filtered levels of A and B of an ABZ port. -/
def execEncoderEdge (p : Fin 4) (a b : Bool) (s : State) : Out :=
  s.onClk 2 fun d =>
    let old := (d.posAt p).abz
    let new := (if a then 1 else 0) + (if b then 2 else 0)
    if d.get (POS_CFG_MODE p) ≠ 2 ∨ old = new then d
    else
      let d := d.posUpd p fun r => { r with abz := new }
      if old + new = 3 then (d.count (POS_CNT_ILLEGAL p)).posBad p 16
      else d.posUpd p fun r => { r with count := r.count + quadStep old new }

/-- Counts per revolution of port `p`, a multiple of 4 and at least 4. -/
def Dev.posCpr (d : Dev) (p : Nat) : Int := (max 4 (d.get (POS_ENC_CPR p) / 4 * 4) : Nat)

/-- ENCODER_MEASUREMENT (R110, R113). -/
def execEncoderMeasurement (p : Fin 4) (s : State) : Out :=
  s.onClk 2 fun d =>
    let r := d.posAt p
    if d.get (POS_CFG_MODE p) = 2 then d.posReading p (ratioQ (r.count + r.shift) (d.posCpr p)) else d

/-- INDEX (R111): a rising Z edge with A = B = 1. -/
def execIndex (p : Fin 4) (s : State) : Out :=
  s.onClk 2 fun d =>
    let r := d.posAt p
    if d.get (POS_CFG_MODE p) ≠ 2 ∨ r.abz ≠ 3 then d
    else
      let d := d.raise (posEv p 0)
      let cpr := d.posCpr p
      if d.bit (POS_STAT_INDEXED p) then
        let m := (r.count - r.lastIndex) % cpr
        let d := d.posUpd p fun r => { r with lastIndex := r.count }
        d.when (2 < m ∧ 2 < cpr - m) fun d => (d.posImmediate p 0x200).posUnindex p
      else
        let m := (r.count + r.shift) % cpr
        let d := d.posUpd p fun r =>
          { r with shift := r.shift - (if 2 * m ≤ cpr then m else m - cpr), lastIndex := r.count }
        d.set (POS_STAT_INDEXED p) 1

/-- SERIAL_FRAME_START (R112): FRAME_US after the last one, a frame of an SSI or SSC port starts. With FRAME_SYNC set it starts on
the group's carrier mark and not by this command. -/
def execSerialFrameStart (p : Fin 4) (s : State) : Out :=
  s.onClk 2 fun d => if d.bit (POS_ENC_FRAME_SYNC p) then d else d.frameStart p

/-- The binary value of `n` Gray-coded bits. -/
def grayDecode : Nat → Nat → Nat
  | 0, _ => 0
  | n + 1, x => x ^^^ grayDecode n (x / 2)

/-- One bit of the CRC-8 with polynomial 0x1D, most significant bit first (R112, R395). -/
def crc8Bit (c : Nat) (b : Bool) : Nat :=
  let x := (c * 2) % 256
  if (128 ≤ c) != b then x ^^^ 0x1D else x

/-- The bits of `x` from bit `n − 1` down. -/
def bitsDown : Nat → Nat → List Bool
  | 0, _ => []
  | n + 1, x => x.testBit n :: bitsDown n x

/-- CRC-8/SAE-J1850 over a list of bits: preset and final exclusive-or 0xFF. -/
def crc8Bits (l : List Bool) : Nat := (l.foldl crc8Bit 0xFF) ^^^ 0xFF

/-- The data bits of a frame, 8 to 40. -/
def Dev.encBits (d : Dev) (p : Nat) : Nat := clampN 8 40 (d.get (POS_ENC_BITS p))

/-- The single-turn bits of a frame, 8 to 32. -/
def Dev.encSt (d : Dev) (p : Nat) : Nat := clampN 8 32 (d.get (POS_ENC_ST_BITS p))

/-- The reading `a` jumps from the last accepted one by more than SPEED_MAX × Δt + 1/64 turn (R112); positions wrap at the
range of the frame's bits. -/
def Dev.posJump (d : Dev) (p : Nat) (a : Int) (at_ : Nat) : Bool :=
  let r := d.posAt p
  match r.init, r.lastRead with
  | true, some a0 =>
    let span : Int := 2 ^ (32 + (d.encBits p - d.encSt p))
    let x := (a - a0) % span
    let step := min x (span - x)
    let lim := near (centi (d.get (POS_LIM_SPEED_MAX p)) * (at_ - r.lastReadAt : Nat)) 100000000000 + 2 ^ 26
    lim < step
  | _, _ => false

/-- A frame's reading is accepted, or fails with JUMP or LOT (R112, R115). -/
def Dev.posFrame (d : Dev) (p data at_ : Nat) : Dev :=
  let a := ratioQ data (2 ^ d.encSt p)
  if d.posJump p a at_ then d.posBad p 0x100
  else if d.posLot p a then d.posBad p 8
  else (d.posUpd p fun r => { r with lastRead := some a, lastReadAt := at_ }).posReading p a

/-- SERIAL_FRAME_COMPLETE (R112): the running frame ends with `idle` (DATA high at the first falling edge, SSI), the status bits,
the data bits and the check received. An SSC frame with a check mismatch has the cause CRC alone, whatever its status bits, and
leaves WARN as it was (DESIGN CHOICE, log entry 117). -/
def execSerialFrameComplete (p : Fin 4) (idle ef wf : Bool) (data : BitVec 40) (crc : BitVec 8) (s : State) : Out :=
  s.onClk 2 fun d =>
    match (d.posAt p).frameAt with
    | none => d
    | some at_ =>
      let d := d.posUpd p fun r => { r with frameAt := none }
      let n := d.encBits p
      let x := data.toNat % 2 ^ n
      if d.get (POS_CFG_MODE p) = 3 then
        if !idle then d.posBad p 0x80
        else d.posFrame p (if d.bit (POS_ENC_GRAY p) then grayDecode n x else x) at_
      else if crc8Bits (ef :: wf :: bitsDown n x) ≠ crc.toNat then d.posBad p 0x20
      else
        let d := d.setB (POS_STAT_WARN p) wf
        if ef then d.posBad p 0x40 else d.posFrame p x at_

/-- SSC_START_BIT_TIMEOUT (R112). -/
def execSscStartBitTimeout (p : Fin 4) (s : State) : Out :=
  s.onClk 2 fun d =>
    if d.get (POS_CFG_MODE p) = 4 ∧ (d.posAt p).frameAt.isSome then
      (d.posUpd p fun r => { r with frameAt := none }).posBad p 0x80
    else d

/-- VENC of port `p` is on: VENC_EN is set, and no overcurrent switched it off since VENC_EN was last 0 (R105, log entry 83). -/
def Dev.vencOn (d : Dev) (p : Nat) : Bool := d.bit (POS_CFG_VENC_EN p) && !(d.posAt p).live.testBit 10

/-- VENC_OVERCURRENT (R105, R115): VENC switches off and VENC_OC is set. -/
def execVencOvercurrent (p : Fin 4) (s : State) : Out := s.main fun d => if d.vencOn p then d.posImmediate p 0x400 else d

/-- A write to POS_CFGp or POS_ENCp: the index is cleared and the observer initialised afresh (R111, R113). -/
def Dev.posRewrite (d : Dev) (p : Nat) : Dev :=
  let d := d.posUpd p fun r =>
    { r with init := false, lastRead := none, sinHalf := none, cosHalf := none, excHalf := none, excNow := none,
             excBad := false, pairOpen := false, frameAt := none, frameLast := none,
             live := if d.bit (POS_CFG_VENC_EN p) then r.live else r.live - (r.live &&& 0x400) }
  ((d.posUnindex p).posShowValid p).clkEval

/-! ## Source of the angle (R116 to R118) -/

/-- The source at group enable (R116); a sensor fault that lasts meets SENSOR at once. -/
def Dev.posStart (d : Dev) (g : Nat) : Dev :=
  match d.portOf g with
  | none => d
  | some p =>
    let m := d.get (POS_CFG_MODE p)
    let align := m = 0 || (m = 2 && !d.bit (POS_STAT_INDEXED p)) || m > 4
    let d := d.posSrc p (if align then 1 else 0) 7
    if !align ∧ (d.posAt p).fault then d.posFall p else d.posShow p

/-- The source as the group is disabled: NONE, a saturation-pulse start aborted (R116, R121). Of the two rows that a disable in
ALIGN meets, "Any" wins: START_FAIL and SRC_CHANGE are raised, and no LOST (DESIGN CHOICE, log entry 118). -/
def Dev.posEnd (d : Dev) (g : Nat) : Dev :=
  match d.portOf g with
  | none => d
  | some p =>
    let src := d.get (POS_STAT_SRC p)
    let d := d.when (src = 1) fun d =>
      ((d.posUpd p fun r => { r with alignOn := false, pulse := 0, inDecay := false }).set (POS_STRES_RES p) 5).raise
        (posEv p 5)
    d.when (src ≠ 5) fun d => (d.posSrc p 5 7).posShow p

/-- OPEN_TO_SLS (R116): the speed command has been at SLS_MIN or more for 10 ms. -/
def execOpenToSls (p : Fin 4) (s : State) : Out :=
  s.main fun d =>
    if d.get (POS_STAT_SRC p) = 2 ∧ d.estValid p ∧ centi (d.get (POS_SLS_SLS_MIN p)) ≤ 100 * ((d.speedCmd p).natAbs : Int) then
      d.slsEnter p 7
    else d

/-- OPEN_TIMEOUT (R116): OPEN_MS has elapsed in OPEN. -/
def execOpenTimeout (p : Fin 4) (s : State) : Out :=
  s.main fun d => if d.get (POS_STAT_SRC p) = 2 then d.posLost p else d

/-- SLS_LOW_SPEED (R116): the estimated speed has been below 0.75 × SLS_MIN for 1 ms. -/
def execSlsLowSpeed (p : Fin 4) (s : State) : Out :=
  s.main fun d =>
    if d.get (POS_STAT_SRC p) = 3 ∧ 400 * ((d.posAt p).slsSpeed.natAbs : Int) < 3 * centi (d.get (POS_SLS_SLS_MIN p)) then
      d.posLost p
    else d

/-- A swap that published the estimate of port `p` (`pub`), or passed it over, or published its speed command (R115, R116). -/
def Dev.posSwap (d : Dev) (p : Nat) (pub : Bool) (cmd0 : Int) : Dev :=
  let d := d.when pub (·.posUpd p fun r => { r with estAt := d.mono, estStamp := d.time })
  let d := d.posShowValid p
  let src := d.get (POS_STAT_SRC p)
  if src = 2 then
    (d.posUpd p fun r =>
      { r with openAngle := fracQ (r.openAngle + near (d.posPP p * cmd0 * ((d.mono : Int) - r.openAt)) 1000000000),
               openAt := d.mono }).posShow p
  else if src = 3 then
    if pub then
      let pos := d.posMech p
      let d := (d.slsTake p).posUpd p fun r => { r with slsPos := pos, slsPosAt := d.mono }
      (d.posStamp p).posShow p
    else if d.estValid p then d
    else
      let d := d.posUpd p fun r => { r with staleEpochs := r.staleEpochs + 1 }
      if 3 ≤ (d.posAt p).staleEpochs then d.posLost p else d
  else d

/-- DISAGREE (R118): sensor and estimate have differed by more than AGREE_TOL for 1 ms, both valid, at SLS_MIN or more. -/
def execDisagree (p : Fin 4) (s : State) : Out :=
  s.main fun d =>
    let r := d.posAt p
    let sens := fracQ (near (d.posPP p * d.obsAt p d.mono) (d.posRpp p) + (d.reg (A_POS_OFF p)).toInt)
    let w := 2 * d.get (POS_SLS_EST_IDX p)
    let est := fracQ (d.outQ w + near (d.posPP p * d.outQ (w + 1) * ((d.mono : Int) - r.estAt)) 1000000000)
    let fast := centi (d.get (POS_SLS_SLS_MIN p)) * d.posRpp p ≤ 100 * (r.omega.natAbs : Int)
    if r.init && !r.fault && d.estValid p && fast
        && decide ((d.get (POS_SLS_AGREE_TOL p) : Int) * 2 ^ 16 < (wrapQ (sens - est)).natAbs) then
      ((d.posUpd p fun r => { r with disAt := some d.mono }).set (POS_FLT_DISAGREE p) 1).raise (posEv p 6)
    else d

end Sys2Proof.Machine
end

