-- ==== Sys2Proof/Machine/Pwm.lean ====
section
/-!
DEFINITION. Machine/Pwm.lean: the PWM carriers: marks and shadow loading, edges and dead time, the on-time limit, the
brake chopper's constant on-time mode, the constant off-time mode of the winding discharge, and the debug freeze
(chapter 07; R147 to R165, R191, R192).
-/
namespace Sys2Proof.Machine

/-! ## Clamps (R149, R155) -/

/-- HALF of carrier `c` within 2,000 to 200,000 (R148). -/
def Dev.halfRaw (d : Dev) (c : Nat) : Nat := clampN 2000 200000 (d.get (PWM_HALF_HALF c))

/-- A new half period takes effect at a valley, raised to Hem's minimum; a raised value is counted once and is an entry into
clamping (R149, R291; log entry 100). -/
def Dev.carHalf (d : Dev) (c : Nat) : Dev :=
  let raw := d.halfRaw c
  let m := d.get PWM_HEMLIM_HALF_MIN
  let was := (d.carAt c).halfKey
  let d := d.carUpd c fun r => { r with half := max raw m, halfKey := (raw, m) }
  d.when (raw < m && was ≠ (raw, m)) fun d => ((d.count (PWM_CNT2_FREQ_CLAMP c)).raise (pwmSrc c 7)).raiseLim 736 0 ms1

/-- The dead times of carrier `c` as they take effect: a value raised to DT_MIN is counted once and is an entry into clamping (R155,
R291; log entry 100). -/
def Dev.carDead (d : Dev) (c : Nat) : Dev :=
  let m := d.get PWM_HEMLIM_DT_MIN
  let lh := clampN 64 64000 (d.get (PWM_DT_DT_LH c))
  let hl := clampN 64 64000 (d.get (PWM_DT_DT_HL c))
  let r := d.carAt c
  let n : Nat := (if lh < m ∧ r.lhKey ≠ (lh, m) then 1 else 0) + (if hl < m ∧ r.hlKey ≠ (hl, m) then 1 else 0)
  let d := d.carUpd c fun r => { r with lhKey := (lh, m), hlKey := (hl, m) }
  d.each n fun _ d => ((d.count (PWM_CNT2_DT_CLAMP c)).raise (pwmSrc c 6)).raiseLim 736 0 ms1

/-- Hem's minima changed or a dead time was written: the clamps of CAR0 and CAR1 are taken again (R149, R155). -/
def Dev.carClamps (d : Dev) : Dev := d.each 2 fun c d => d.carDead c

/-- The edge guard G of carrier `c` in ticks (R156). -/
def Dev.carGuard (d : Dev) (c : Nat) : Nat :=
  d.get (PWM_DT_MINP c) + max (d.deadTicks (PWM_DT_DT_LH c)) (d.deadTicks (PWM_DT_DT_HL c))

/-! ## Legs (R155, R160) -/

/-- An edge of leg `x` of carrier `c`: the switch that conducts is turned off and the leg enters its dead time; the
other switch follows when that ends (R155). -/
def Dev.legEdge (d : Dev) (c x : Nat) (high : Bool) : Dev :=
  let b := 2 ^ x
  if (d.carAt c).leg.testBit x = high then d
  else
    let d := d.carUpd c fun r =>
      { r with leg := if high then r.leg ||| b else r.leg - (r.leg &&& b), dead := r.dead ||| b }
    d.carCmd c (if high then 2 * x + 1 else 2 * x) false

/-- SWITCH_EDGE (R148, R155, R157): the compare instant of leg `x` in the running half period: an on-edge in a rising
half, an off-edge in a falling half. Each leg has at most one edge per half period; a frozen carrier makes none
(R162). -/
def execSwitchEdge (c : Fin 2) (x : Fin 3) (s : State) : Out :=
  s.main fun d =>
    if d.get (PWM_STAT_MODE c) ≠ 1 ∨ d.bit (PWM_STAT_FROZEN c) ∨ !(d.carAt c).todo.testBit x then d
    else
      (d.carUpd c fun r => { r with todo := r.todo - (r.todo &&& 2 ^ x.val) }).legEdge c x (!d.bit (PWM_STAT_DIR c))

/-- DEAD_TIME_END (R155): the complementary switch of leg `x` is commanded on; not while the carrier is frozen (R162). -/
def execDeadTimeEnd (c : Fin 2) (x : Fin 3) (s : State) : Out :=
  s.main fun d =>
    if d.bit (PWM_STAT_FROZEN c) ∨ !(d.carAt c).dead.testBit x then d
    else
      let high := (d.carAt c).leg.testBit x
      let d := d.carUpd c fun r => { r with dead := r.dead - (r.dead &&& 2 ^ x.val) }
      d.carCmd c (if high then 2 * x.val else 2 * x.val + 1) true

/-- ON_TIME_LIMIT (R160, R164): a switch that has been on for ONTMAX_US is turned off until a later mark; the bit is set,
counted, raised and journalled. The timer stops with the counter clock. -/
def execOnTimeLimit (c : Fin 3) (k : Fin 6) (s : State) : Out :=
  s.main fun d =>
    if k.val ≥ carSwitches c ∨ !d.pwmClock ∨ !(d.carAt c).sw.testBit k then d
    else
      let b := 2 ^ k.val
      let d := d.carUpd c fun r =>
        { r with forced := r.forced ||| b, stuck := r.stuck ||| b,
                 forcedAt := Tab.put (fun _ => 0) r.forcedAt k (d.mono + 1) }
      let d := (d.carApply c k).setBits (PWM_FLT_ONTIME c) b
      ((d.count (PWM_CNT_ONTIME c)).raise (pwmSrc c 4)).jnlFault (pwmSrc c 4) (A_PWM_FLT c) (A_PWM_STAT c)

/-- 1s written to PWM_FLTc.ONTIME clear the bits of switches that have turned on again (R167). -/
def Dev.fltClear (d : Dev) (c mask : Nat) : Dev :=
  d.clrBits (PWM_FLT_ONTIME c) (mask - (mask &&& (d.carAt c).stuck))

/-! ## Marks and shadow loading (R150 to R156) -/

/-- Commit a set of compare values to carrier `c` (R153). -/
def Dev.carCommit (d : Dev) (c : Nat) (set : List (Nat × Nat)) : Dev :=
  d.carUpd c fun r => { r with held := r.shadow.or r.held, shadow := some set }

/-- The transfer at a mark: the newest set if its commit was registered `slack` ≥ 11 counter clocks before, else the set
that was late before it; a set that misses its mark is counted and transfers at the next (R153). -/
def Dev.carTransfer (d : Dev) (c slack : Nat) : Dev :=
  let r := d.carAt c
  match r.shadow with
  | none => d.carUpd c fun r => { r with cur := r.held.getD r.cur, held := none }
  | some set =>
    if 11 ≤ slack then d.carUpd c fun r => { r with cur := set, shadow := none, held := none }
    else
      let d := d.carUpd c fun r => { r with cur := r.held.getD r.cur, held := some set, shadow := none }
      (d.count (PWM_CNT_LATE_LOAD c)).raise (pwmSrc c 3)

/-- A compare value after the edge guard: below G the start, above 16 × HALF − G the end of the half period (R156). -/
def guarded (g full v : Nat) : Nat := if v < g then 0 else if full - g < v then full else v

/-- Leg `x` at a mark of carrier `c`: the values in effect after the guard are shown, a replacement of the one this half
period uses is counted, and the edges that fall on this mark are made or cancel (R154, R156). -/
def Dev.carLeg (d : Dev) (c : Nat) (peak : Bool) (x : Nat) : Dev :=
  let r := d.carAt c
  let full := 16 * r.half
  let g := d.carGuard c
  let raw := r.cur.getD x (0, 0)
  let rise := guarded g full raw.1
  let fall := guarded g full raw.2
  let d := (d.set (PWM_CMP_RISE c x) rise).set (PWM_CMP_FALL c x) fall
  let v := if peak then fall else rise
  let d := d.when (v ≠ if peak then raw.2 else raw.1) fun d =>
    (d.count (PWM_CNT_MINP c)).raiseLim (pwmSrc c 2) 0 ms1
  let due := r.onMark.testBit x
  let b := 2 ^ x
  let d := d.carUpd c fun r => { r with onMark := r.onMark - (r.onMark &&& b), todo := r.todo - (r.todo &&& b) }
  if due && v = 0 then d
  else
    let d := if due then d.legEdge c x peak else d
    if v = full then d.carUpd c fun r => { r with onMark := r.onMark ||| b }
    else if v = 0 then d.legEdge c x (!peak)
    else d.carUpd c fun r => { r with todo := r.todo ||| b }

/-- A mark of a group carrier reaches the converters if TRIGSEL selects it, the serial frames of the group's port, the engine's
trigger path, and the event router if MARK_EVT enables it (R86, R112, R150). -/
def Dev.carMarkEvent (d : Dev) (c : Nat) (peak : Bool) : Dev :=
  let b := if peak then 1 else 0
  let d := d.when (d.tb (PWM_CTL_TRIGSEL c) b) (·.adcTrig (c + 1))
  let d := if c = 1 ∧ d.six then d else d.posMark c
  d.raiseIf (d.tb (PWM_CTL_MARK_EVT c) b) (pwmSrc c b)

/-- A mark of carrier `c`, a peak or a valley (R148 to R156, R160); with SIX, CAR1 has CAR0's half period (R152). -/
def Dev.carMark (d : Dev) (c : Nat) (peak : Bool) (slack : Nat) : Dev :=
  let d :=
    if c = 1 ∧ d.six then d.carUpd 1 fun r => { r with half := (d.carAt 0).half }
    else if peak then d else d.carHalf c
  let d := d.carUpd c fun r => { r with lastMark := d.mono, peakNext := !peak }
  let d := d.setB (PWM_STAT_DIR c) peak
  let on := d.carDrives c
  let d := d.carTransfer c slack
  let fresh := on && !d.bit (PWM_STAT_OUT_EN c)
  let d := d.setB (PWM_STAT_OUT_EN c) on
  let d := d.each 3 fun x d => d.carLeg c peak x
  let d := d.when fresh fun d => d.each 6 fun k d => d.carApply c k
  (d.carRelease c).carMarkEvent c peak

/-- CARRIER_MARK (R148 to R156): the next mark of carrier `c`; `slack` is how many counter clocks before it the newest set was
committed. Valleys and peaks alternate, from the instant at which the carrier starts. With SIX, CAR1's marks are CAR0's, inverted
under INV (R152). A frozen or stopped carrier raises none; CAR2's marks are its pulse starts (R158). -/
def execCarrierMark (c : Fin 3) (slack : BitVec 16) (s : State) : Out :=
  s.main fun d =>
    let live (c : Nat) : Bool :=
      d.get (PWM_STAT_MODE c) = 1 && !d.bit (PWM_STAT_FROZEN c) && decide ((d.carAt c).lastMark ≤ d.mono)
    if c.val = 2 ∨ !live c ∨ (c.val = 1 ∧ d.six) then d
    else
      let peak := (d.carAt c).peakNext
      let d := d.carMark c peak slack.toNat
      if c.val = 0 ∧ d.six ∧ live 1 then d.carMark 1 (peak != d.bit (PWM_CTL_INV 1)) slack.toNat else d

/-- What a carrier keeps through a start, a stop and a change of mode: the half period in effect, what was counted, and the switches
forced off that have not turned on again (R149, R155, R160, R165). -/
def Car.kept (r : Car) : Car :=
  { half := r.half, halfKey := r.halfKey, lhKey := r.lhKey, hlKey := r.hlKey, forced := r.forced, forcedAt := r.forcedAt,
    stuck := r.stuck }

/-- A group carrier starts at a valley with its legs low; CAR2 runs in constant on-time mode, and a brake request that is present
starts a pulse (R151, R158). A carrier that waits for its phase shows its mode with its counter at 0 (log entry 89). -/
def Dev.carStart (d : Dev) (c : Nat) : Dev :=
  if d.get (PWM_STAT_MODE c) ≠ 0 then d
  else
    let d := (d.carUpd c fun r => { r.kept with cmd := if c < 2 then 0x2A else 0 }).carBegin c
    let d := if c < 2 then (if c = 1 ∧ d.six then d else d.carHalf c).carDead c else d
    let d := ((d.set (PWM_STAT_MODE c) (if c = 2 then 2 else 1)).showFrozen).carFollow.clkEval
    d.when (c = 2) Dev.brakePulse

/-- RUN is written 0: the carrier stops with its outputs off. -/
def Dev.carStop (d : Dev) (c : Nat) : Dev :=
  let d := (d.carIdle c).carUpd c Car.kept
  (d.setReg (A_PWM_STAT c) 0).showFrozen.clkEval

/-! ## Constant on-time mode: the brake chopper (R158, R191, R192) -/

/-- A brake pulse ends: the switch is commanded off and the off-phase starts (R158). -/
def Dev.brakeEnd (d : Dev) : Dev :=
  let d := d.carUpd 2 fun r => { r with onPhase := false, offPhase := true, earliest := d.mono + d.brakeOffNs }
  (d.carCmd 2 0 false).driveEval 12

/-- BRAKE_REQUEST_SET (R191): two consecutive samples `v1`, `v2` of TUDC in 0.1 V at or above BRK_ON; no request forms
without a valid committed set. With PLL C not LOCKED the direct path takes it (R192). -/
def execBrakeRequestSet (v1 v2 : BitVec 16) (s : State) : Out :=
  s.main fun d =>
    let on := 10 * d.get GCH_BRK_BRK_ON
    if d.bit GCH_BRK_REQ || d.safeSet.isNone || v1.toNat < on || v2.toNat < on then d
    else
      let d := d.carUpd 2 fun r => { r with earliest := max r.earliest d.mono }
      (((d.set GCH_BRK_REQ 1).count GCH_BRK_RUNS).driveEval 12).brakeClock.brakePulse

/-- BRAKE_REQUEST_CLEAR (R191): two consecutive samples at or below BRK_OFF; a pulse that has begun runs on (R158). -/
def execBrakeRequestClear (v1 v2 : BitVec 16) (s : State) : Out :=
  s.main fun d =>
    let off := 10 * d.get GCH_BRK_BRK_OFF
    if !d.bit GCH_BRK_REQ || off < v1.toNat || off < v2.toNat then d
    else (d.set GCH_BRK_REQ 0).driveEval 12

/-- BRAKE_ON_TIME_END (R158): TON has passed since the pulse start. -/
def execBrakeOnTimeEnd (s : State) : Out :=
  s.main fun d => if (d.carAt 2).onPhase && d.brakeLive then d.brakeEnd else d

/-- BRAKE_OFF_TIME_END (R158): TOFF has passed; the next pulse starts if the request is present. A request that found no carrier to
pulse it waits for this command as well. -/
def execBrakeOffTimeEnd (s : State) : Out :=
  s.main fun d =>
    if !(d.carAt 2).onPhase && d.brakeLive then
      (d.carUpd 2 fun r => { r with offPhase := false }).brakePulse
    else d

/-- BRAKE_PULSE_MISSING (R192): with a request present, PLL C not LOCKED, or a pulse not started within TOFF + 5 µs of the earliest
instant at which it could have, moves GCH12 to Thimble's direct path. -/
def execBrakePulseMissing (s : State) : Out :=
  s.main fun d =>
    let r := d.carAt 2
    let late : Bool := !r.onPhase && decide (r.earliest + d.brakeOffNs + 5000 ≤ d.mono)
    if late then d.brakeDirect else d.brakeClock

/-! ## Constant off-time mode: the winding discharge (R159) -/

/-- The switches of a group carrier that PAT chops: 1 the high side, 2 the low side. -/
def Dev.chopped (d : Dev) (c : Nat) : List Nat :=
  (List.range 6).filter fun k => d.get (PWM_COFF_PAT c) / 2 ^ (2 * (k / 2)) % 4 = k % 2 + 1

/-- An on-phase starts: all chopped switches turn on together. -/
def Dev.coffOn (d : Dev) (c : Nat) : Dev :=
  let d := d.carUpd c fun r => { r with onPhase := true, offPhase := false, lastMark := d.mono }
  d.eachOf (d.chopped c) fun k d => d.carCmd c k true

/-- An on-phase ends: all chopped switches turn off together, for TOFF. -/
def Dev.coffOff (d : Dev) (c : Nat) : Dev :=
  let d := d.carUpd c fun r => { r with onPhase := false, offPhase := true }
  d.eachOf (d.chopped c) fun k d => d.carCmd c k false

/-- Thimble's winding discharge covers group `g`. -/
def Dev.windOf (d : Dev) (g : Nat) : Bool :=
  match d.thm.windGrp with
  | some w => (d.groups w).contains g
  | none => false

/-- WINDING_DISCHARGE_ENGAGE (R159): Thimble's command for group `g`, accepted by WIND_DIS, reaches the carrier while
the unit is DISABLED or SAFE; it chops the switches of PAT, and Thimble permits only those (R329). A frozen carrier takes
the command once it goes on (R162). -/
def execWindingDischargeEngage (g : Fin 2) (s : State) : Out :=
  s.main fun d =>
    let st := d.get (CLU_STAT_STATE g)
    if !d.windOf g ∨ d.get (PWM_STAT_MODE g) = 3 ∨ d.bit (PWM_STAT_FROZEN g) ∨ (st ≠ 0 ∧ st ≠ 5) then d
    else
      let d := d.carUpd g fun r => { r.kept with lastMark := d.mono }
      let d := ((d.set (PWM_STAT_MODE g) 3).set (PWM_STAT_OUT_EN g) 1).clkEval
      let d := d.eachOf ((d.chopped g).flatMap fun k => d.switchOf (carChan g k)) fun n d =>
        if d.used n && d.trained n then (d.setPaths n true true).driveEval n else d
      d.coffOn g

/-- Record `r` of the phase-current converter of leg `x` is a trip: valid, at least ILIM in magnitude, of a chopped leg,
its aperture at least the blanking time after the on-phase began (R159). -/
def Dev.coffIsTrip (d : Dev) (c x : Nat) (r : BitVec 64) : Bool :=
  let pat := d.get (PWM_COFF_PAT c) / 2 ^ (2 * x) % 4
  d.get (PWM_STAT_MODE c) = 3 && (d.carAt c).onPhase && !d.bit (PWM_STAT_FROZEN c) && (pat = 1 || pat = 2)
    && r.getLsbD 23 && d.get (PWM_COFF_ILIM c) ≤ (recCode r).natAbs
    && decide (((d.carAt c).lastMark + clampN 50 1000 (d.get (PWM_BLANK_BLANK_NS c)) : Int)
      ≤ (d.recTime r : Int) - d.time + d.mono)

/-- The constant off-time mode's view of a record: a trip ends the on-phase and is counted (R159). -/
def Dev.coffRecord (d : Dev) (c x : Nat) (r : BitVec 64) : Dev :=
  if d.coffIsTrip c x r then ((d.coffOff c).count (PWM_CNT_TRIP c)).raiseLim (pwmSrc c 5) 0 ms1 else d

/-- COFF_ON_PHASE_END (R159): the on-phase ends at TON. -/
def execCoffOnPhaseEnd (c : Fin 2) (s : State) : Out :=
  s.main fun d =>
    if d.get (PWM_STAT_MODE c) ≠ 3 ∨ !(d.carAt c).onPhase ∨ d.bit (PWM_STAT_FROZEN c) then d else d.coffOff c

/-- COFF_OFF_TIME_END (R159): TOFF has passed, and the next on-phase starts. -/
def execCoffOffTimeEnd (c : Fin 2) (s : State) : Out :=
  s.main fun d =>
    if d.get (PWM_STAT_MODE c) ≠ 3 ∨ !(d.carAt c).offPhase ∨ d.bit (PWM_STAT_FROZEN c) then d else d.coffOn c

/-- WINDING_DISCHARGE_END (R159, R329). -/
def execWindingDischargeEnd (s : State) : Out := s.main Dev.windStop

/-! ## Debug freeze (R162 to R164) -/

/-- A debug freeze begins: PERMIT and FRZ_EN are both set (R163). -/
def Dev.freezeBegin (d : Dev) : Dev :=
  if d.bit PWM_FRZ_PERMIT && d.bit PWM_FRZ_FRZ_EN && !d.bit PWM_FRZ_FROZEN then
    (((d.set PWM_FRZ_FROZEN 1).count PWM_FRZ_FREEZES).showFrozen).raise 264
  else d

/-- The cores that halt together with core `c`: both of a lockstep pair (R301). -/
def Dev.haltMask (d : Dev) (c : Nat) : Nat := if d.lockstep (c / 2) then 3 * 2 ^ (2 * (c / 2)) else 2 ^ c

/-- Core `c` halts under debug: the carriers freeze if permitted, and the Spool trigger of KIND 3 fires (R163, R238). -/
def Dev.debugHalt (d : Dev) (c : Nat) : Dev :=
  if !d.bit DBG_STAT_ACCESS then d
  else
    let d := (d.setBits DBG_STAT_HALTED (d.haltMask c)).freezeBegin
    d.when (d.get SPL_TRIG_KIND = 3) Dev.splTrigger

/-- DEBUG_HALT (R163). -/
def execDebugHalt (c : Fin 4) (s : State) : Out := s.main fun d => d.debugHalt c

/-- Core `c` resumes, and the epoch timer of its pair if it was halted; with no core left halted a debug freeze ends (R163, R301).
-/
def Dev.debugResume (d : Dev) (c : Nat) : Dev :=
  let d := d.when (d.tb DBG_STAT_HALTED c) (·.epochRestart (c / 2))
  let d := d.clrBits DBG_STAT_HALTED (d.haltMask c)
  if d.get DBG_STAT_HALTED = 0 then d.freezeEnd else d

/-- DEBUG_RESUME (R163). -/
def execDebugResume (c : Fin 4) (s : State) : Out := s.main fun d => d.debugResume c

end Sys2Proof.Machine
end

