-- ==== Sys2Proof/Machine/Adc.lean ====
section
/-!
DEFINITION. Machine/Adc.lean: the pipeline converters' apertures, slots and results, the reference, self-calibration and
the reference trim (chapter 04; R78 to R96).
-/
namespace Sys2Proof.Machine

/-! ## Records -/

/-- The record of an aperture of converter `n` on its current input, taken now (R80 to R83). -/
def Dev.adcRecord (d : Dev) (n : Nat) (v : Conv) : BitVec 64 :=
  let a := d.adcAt n
  let i := a.mux.getD 0
  let code := d.adcCode n i v
  let blank : Bool := a.blank ≠ 0
  let valid := !blank && d.bit (ADC_STAT_CAL_VALID n) && d.refReady
  adcRec d.time valid blank (d.adcState n = 3) (code < -32768 || 32767 < code) i (clampI (-32768) 32767 code)

/-- The current-loop units keep the records of their phases, and of their return leg on ADC6 (R125, R138). -/
def Dev.cluRecord (d : Dev) (n : Nat) (r : BitVec 64) : Dev :=
  let inp := r.toNat / 2 ^ 16 % 16
  let live (g : Nat) : Bool := 1 ≤ d.get (CLU_STAT_STATE g) && d.get (CLU_STAT_STATE g) ≤ 4
  if n < 6 ∧ inp = 0 ∧ live (n / 3) then
    d.cluUpd (n / 3) fun c =>
      match n % 3 with
      | 0 => { c with winU := c.winU ++ [r] }
      | 1 => { c with winV := c.winV ++ [r] }
      | _ => { c with winW := c.winW ++ [r] }
  else if n = 6 ∧ inp < 2 ∧ live inp then d.cluUpd inp fun c => { c with ret := c.ret ++ [r] }
  else d

/-- Saturations among the raw values `l` are counted (R14, R137). -/
def Dev.cluSats (d : Dev) (g : Nat) (l : List Int) : Dev := d.add (CLU_CNT_SAT g) (l.countP overQ)

/-- The phase or return-leg current of unit `g` from `n` codes that sum to `sum`, on sensor `k`, before saturation: the
mean, then offset and gain (R125, R140). -/
def Dev.cluAmps (d : Dev) (g k : Nat) (sum : Int) (n : Nat) : Int :=
  mulQ (ratioQ sum n - 2 ^ 24 * d.getI (CLU_SOFF_OFFSET g k)) (d.reg (A_CLU_SGAIN g k)).toInt

/-- The counted samples of an urgent slot are all valid and inside vector `v` after IDC_SETTLE (R138). -/
def Dev.vectorFits (d : Dev) (g : Nat) (v : Vect) (rs : List (BitVec 64)) : Bool :=
  rs.all fun r =>
    let t := 32 * d.recTime r
    r.getLsbD 23 && v.start + 32 * d.get (CLU_REC_IDC_SETTLE g) ≤ t && t + 200 ≤ v.start + 5 * v.len

/-- The urgent slot of `c` samples for vector `vec` of unit `g` has ended: the measurement is taken, or discarded and
counted (R138); 3 is the unit's offset measurement, which no vector awaits (R144). -/
def Dev.cluVector (d : Dev) (g vec c : Nat) : Dev :=
  let all := (d.cluAt g).ret.filter fun r => !r.getLsbD 22
  let rs := all.drop (all.length - c)
  if (d.cluAt g).plan.any fun v => v.vec = vec && v.asked && d.vectorFits g v rs then
    let raw := d.cluAmps g 3 ((rs.map recCode).foldl (· + ·) 0) rs.length
    let i := satQ raw
    (d.cluSats g [raw]).cluUpd g fun u => { u with plan := u.plan.map fun v => if v.vec = vec then { v with got := some i } else v }
  else d.when (vec < 3) (·.count (CLU_CNT2_REC_REJECT g))

/-- A record reaches the fabric: shown, counted if clipped or blanked, and taken by its consumers (R80, R81, R85). -/
def Dev.adcEmit (d : Dev) (n : Nat) (r : BitVec 64) : Dev :=
  let d := d.setReg (A_ADC_LAST n) r
  let d := d.when (r.getLsbD 20) (·.count (ADC_CNT_CLIP n))
  let d := d.when (r.getLsbD 22) (·.count (ADC_CNT2_BLANKED n))
  let d := d.cluRecord n r
  let d := if n < 6 then d.coffRecord (n / 3) (n % 3) r else d
  d.splFeed 1 (fun _ sel => sel % 8 = n && (sel.testBit 8 || sel / 16 % 16 = r.toNat / 2 ^ 16 % 16)) [r]

/-- A counted aperture joins the running slot (R87). -/
def Dev.adcCount (d : Dev) (n : Nat) (r : BitVec 64) : Dev :=
  let k := d.get (ADC_STAT_SAMPLE n)
  let d := d.set (ADC_STAT_SAMPLE n) (k + 1)
  d.adcUpd n fun a =>
    if k = 0 then
      { a with sum := recCode r, first := r.toNat / 2 ^ 24, allValid := r.getLsbD 23, anyClip := r.getLsbD 20 }
    else
      { a with sum := a.sum + recCode r, allValid := a.allValid && r.getLsbD 23, anyClip := a.anyClip || r.getLsbD 20 }

/-- The counted samples the running slot or urgent slot of converter `n` asks for. -/
def Dev.adcWant (d : Dev) (n : Nat) : Nat :=
  if d.adcState n = 3 then ((d.adcAt n).urg.getD (0, 0, 0)).2.2
  else d.get (ADC_SEQ_COUNT n (d.get (ADC_STAT_ENTRY n)))

/-- An aperture of converter `n` (R81, R85): a blanked one is emitted in an urgent slot and before a slot that restarts,
and not while a slot waits; a counted one joins the running slot. -/
def Dev.adcAperture (d : Dev) (n : Nat) (v : Conv) : Dev :=
  let st := d.adcState n
  if st = 0 ∨ st = 4 then d
  else
    let a := d.adcAt n
    let r := d.adcRecord n v
    if a.blank ≠ 0 then
      let d := if st = 3 ∨ a.restart then d.adcEmit n r else d
      d.adcUpd n fun a => { a with blank := a.blank - 1 }
    else
      let d := d.adcEmit n r
      if (st = 2 ∨ st = 3) ∧ d.get (ADC_STAT_SAMPLE n) < d.adcWant n then d.adcCount n r else d

/-- SAMPLE_RECORD (R81). -/
def execSampleRecord (n : Fin 8) (v : Conv) (s : State) : Out := s.onClk 2 fun d => d.adcAperture n v

/-- SLOT_TRIGGER (R86): a mark of kind 1, 2 or 3 is registered for the waiting slot of converter `n`. -/
def execSlotTrigger (n : Fin 8) (k : Fin 4) (s : State) : Out :=
  s.onClk 2 fun d => if k.val = 0 then d else d.adcTrig1 k n

/-- SLOT_FIRST_APERTURE (R86, R89): the waiting slot's first counted aperture, `clocks` after its trigger was registered
(or after it became current). It comes 1 + DELAY clocks after it or once the blank has ended; a triggered slot that comes
later is late. A slot that was aborted ignores trigger and delay. -/
def execSlotFirstAperture (n : Fin 8) (clocks : BitVec 32) (v : Conv) (s : State) : Out :=
  s.onClk 2 fun d =>
    let a := d.adcAt n
    let k := d.get (ADC_STAT_ENTRY n)
    let trig := d.get (ADC_SEQ_TRIG n k)
    let due := d.get (ADC_SEQ_DELAY n k) + 1
    if d.adcState n ≠ 1 ∨ a.blank ≠ 0 then d
    else if !a.restart ∧ ((trig ≠ 0 ∧ !a.trig) ∨ clocks.toNat < due) then d
    else
      let d := d.when (!a.restart && trig ≠ 0 && due < clocks.toNat) fun d =>
        (d.count (ADC_CNT_TRIG_LATE n)).raise (adcSrc n 9)
      let d := (d.set (ADC_STAT_STATE n) 2).set (ADC_STAT_SAMPLE n) 0
      let d := d.adcUpd n fun a => { a with restart := false }
      d.adcAperture n v

/-- The result of the running slot: the stamp of its first counted sample and the mean (R87). -/
def Dev.adcResult (d : Dev) (n input : Nat) (urgent : Bool) : BitVec 64 :=
  let a := d.adcAt n
  let k := d.get (ADC_STAT_SAMPLE n)
  adcRec a.first a.allValid false urgent a.anyClip input (divRound a.sum k)

/-- What runs after a completed slot: the next queued urgent request, else what `next` makes current (R89, R90). -/
def Dev.adcNext (d : Dev) (n : Nat) (next : Dev → Dev) : Dev :=
  match (d.adcAt n).queue with
  | (who, i, c) :: q => ((d.adcUpd n fun a => { a with queue := q }).urgShow n).urgBegin n who i c
  | [] => next d

/-- SLOT_COMPLETE (R87): the Nth counted aperture has occurred; the result enters the pipeline and the next entry becomes
current, entry 0 with SEQ_WRAP after LAST. An urgent slot queued meanwhile runs before it. -/
def execSlotComplete (n : Fin 8) (s : State) : Out :=
  s.onClk 2 fun d =>
    if d.adcState n ≠ 2 ∨ d.get (ADC_STAT_SAMPLE n) < d.adcWant n then d
    else
      let k := d.get (ADC_STAT_ENTRY n)
      let r := d.adcResult n (d.get (ADC_SEQ_INPUT n k)) false
      let d := d.adcUpd n fun a => { a with pub := a.pub ++ [(k, r)] }
      let last := d.bit (ADC_SEQ_LAST n k)
      let d := d.when last (·.raise (adcSrc n 1))
      let d := d.adcEntry n (if last then 0 else k + 1)
      d.adcNext n fun d => d.adcMux n (d.get (ADC_SEQ_INPUT n (d.get (ADC_STAT_ENTRY n))))

/-- UDC: the newest valid ADC6 slot result on input 2, scaled by each unit's SGAIN_4 and SOFF_4 (R134). -/
def Dev.udcTake (d : Dev) (r : BitVec 64) : Dev :=
  if r.getLsbD 23 then
    d.each 2 fun g d =>
      let v := near ((d.reg (A_CLU_SGAIN g 4)).toInt * (256 * recCode r - d.getI (CLU_SOFF_OFFSET g 4))) 256
      (d.cluSats g [v]).cluUpd g fun c => { c with udc := satQ v, udcAt := some (d.recTime r) }
  else d

/-- SLOT_RESULT_PUBLISH (R87): 14 clocks after completion the result is written and SLOT_DONE raised; UDC and the
resolver ports take theirs. CLIP is raised with the result; a slot that was aborted or discarded raises none (R101; DESIGN CHOICE,
log entry 111). -/
def execSlotResultPublish (n : Fin 8) (s : State) : Out :=
  s.onClk 2 fun d =>
    match (d.adcAt n).pub with
    | [] => d
    | (k, r) :: q =>
      let d := (d.adcUpd n fun a => { a with pub := q }).setReg (A_ADC_RES n k) r
      let d := d.when (r.getLsbD 20) (·.raise (adcSrc n 5))
      let d := d.raiseIf (d.bit (ADC_SEQ_EVT n k)) (adcSrc n 0)
      let d := if n.val = 6 ∧ r.toNat / 2 ^ 16 % 16 = 2 then d.udcTake r else d
      if n.val = 7 then d.posSlot k r else d

/-- URGENT_REQUEST (R89, R90): a write of ADC_URGn. A STOPPED converter loses the request with or without its clock. -/
def execUrgentRequest (n : Fin 8) (count : BitVec 8) (i : BitVec 4) (s : State) : Out :=
  s.byReg fun d => d.urgWrite n i.toNat count.toNat

/-- URGENT_SLOT_COMPLETE (R89): the result is written and URG_DONE raised; the next queued request runs, or the
interrupted slot becomes current again as it was. CLIP is raised with the result (R101; log entry 111). -/
def execUrgentSlotComplete (n : Fin 8) (s : State) : Out :=
  s.onClk 2 fun d =>
    match (d.adcAt n).urg with
    | none => d
    | some (who, i, c) =>
      if d.adcState n ≠ 3 ∨ d.get (ADC_STAT_SAMPLE n) < c then d
      else
        let r := d.adcResult n i true
        let d := (d.setReg (A_ADC_URGRES n) r).raise (adcSrc n 2)
        let d := d.when (r.getLsbD 20) (·.raise (adcSrc n 5))
        let d := d.adcUpd n fun a => { a with urg := none }
        let d := if n.val = 6 ∧ who ≠ 0 then d.cluVector i who c else d
        d.adcNext n fun d =>
          let d := (d.set (ADC_STAT_STATE n) 1).set (ADC_STAT_SAMPLE n) 0
          d.adcMux n (d.get (ADC_SEQ_INPUT n (d.get (ADC_STAT_ENTRY n))))

/-- ADC_RUN_START (R84, R87). -/
def execAdcRunStart (n : Fin 8) (s : State) : Out := s.byReg fun d => d.adcRun n

/-- ADC_RUN_STOP (R87, R88). -/
def execAdcRunStop (n : Fin 8) (s : State) : Out := s.byReg fun d => d.adcStop n

/-! ## Reference (R91, R92, R95) -/

/-- REF_EVT is raised on every converter (R92). -/
def Dev.refEvt (d : Dev) : Dev := d.each 8 fun n d => d.raise (adcSrc n 8)

/-- The window of the selected reference in mV (R91). -/
def Dev.refInside (d : Dev) (mv : Nat) : Bool :=
  match d.get ADC_REFCFG_SEL with
  | 1 => 1950 ≤ mv && mv ≤ 3050
  | 2 => 3200 ≤ mv && mv ≤ 3400
  | _ => 2450 ≤ mv && mv ≤ 2550

/-- Every CAL_VALID is cleared. -/
def Dev.calInvalid (d : Dev) : Dev := (d.each 8 fun n d => d.set (ADC_STAT_CAL_VALID n) 0).set ADC_CALSTAT_VALID 0

/-- The start-up calibration begins: OFF goes to SETTLING (R92). -/
def Dev.refBegin (d : Dev) : Dev := if d.get ADC_REFSTAT_STATE = 0 then (d.set ADC_REFSTAT_STATE 1).refEvt else d

/-- A write of SEL (R91, R92): refused while a sequencer is not STOPPED. -/
def Dev.refSelect (d : Dev) (sel : Nat) : Dev :=
  if !d.adcAllStopped then (if d.get ADC_REFCFG_SEL = sel then d else d.count ADC_CCNT_RWI_REF)
  else
    let d := Dev.set { d with refOut := false } ADC_REFCFG_SEL sel
    let st := d.get ADC_REFSTAT_STATE
    if st = 0 then d.refBegin
    else if st = 3 ∨ st = 4 then
      (((d.set ADC_REFSTAT_REF_SETTLED 0).calInvalid).set ADC_REFSTAT_STATE 1).refEvt
    else d

/-- REF_SELECT (R92): a write of SEL, which nobody makes before activation, so that the start-up calibration has the internal
reference (R71, R72). -/
def execRefSelect (sel : BitVec 2) (s : State) : Out := s.byReg fun d => d.refSelect sel.toNat

/-- Converter `n` starts a self-calibration (R93). -/
def Dev.calBegin (d : Dev) (n : Nat) : Dev := ((d.set (ADC_STAT_STATE n) 4).setBits ADC_CALSTAT_BUSY (2 ^ n)).clkEval

/-- REFERENCE_SETTLED (R92): the settling timer expires with the selected reference at `mv` mV. -/
def execReferenceSettled (mv : BitVec 16) (s : State) : Out :=
  s.main fun d =>
    if d.get ADC_REFSTAT_STATE ≠ 1 then d
    else
      let d := Dev.set { d with refOut := !d.refInside mv.toNat } ADC_REFSTAT_REF_MV mv.toNat
      if d.refInside mv.toNat then
        (((d.set ADC_REFSTAT_STATE 2).set ADC_REFSTAT_REF_SETTLED 1).each 8 fun n d => d.calBegin n).refEvt
      else ((d.set ADC_REFSTAT_STATE 4).count ADC_REFSTAT_FAULTS).refEvt

/-- REFERENCE_OUT_OF_WINDOW (R91, R92, R95): a compare of the monitor found `mv` mV, which REF_MV shows in every state. Outside the
window in two compares in a row, a READY reference faults: Hem puts every enabled group into its safe state, and the fault is
journalled. A single compare outside only shows (log entry 110). -/
def execReferenceOutOfWindow (mv : BitVec 16) (s : State) : Out :=
  s.main fun d =>
    let twice := d.refOut && !d.refInside mv.toNat
    let d := Dev.set { d with refOut := !d.refInside mv.toNat } ADC_REFSTAT_REF_MV mv.toNat
    if d.get ADC_REFSTAT_STATE ≠ 3 ∨ !twice then d
    else
      let d := d.set ADC_REFSTAT_REF_SETTLED 0
      let d := ((d.set ADC_REFSTAT_STATE 4).count ADC_REFSTAT_FAULTS).refEvt
      let d := d.jnlFault (adcSrc 0 8) A_ADC_REFSTAT A_ADC_CALSTAT
      d.eachOf d.allGroups fun g d => d.when (d.grpOn g) (·.hemSafe g)

/-! ## Self-calibration and trim (R93, R94, R96) -/

/-- 1s written to ADC_CALCTL.START (R93): a STOPPED converter with its reference READY calibrates; each other bit is
counted. -/
def Dev.calStart (d : Dev) (mask : Nat) : Dev :=
  d.each 8 fun n d =>
    if !mask.testBit n then d
    else if d.adcState n = 0 ∧ d.refReady then d.calBegin n
    else d.count ADC_CCNT_CAL_REF

/-- ADC_CAL_START (R93). -/
def execAdcCalStart (mask : BitVec 8) (s : State) : Out := s.byReg fun d => d.calStart mask.toNat

/-- The limits of R94: weights within ±2 % of nominal, offset within ±256 LSB, gain between 0.97 and 1.03. -/
def calPasses (w : List (BitVec 32)) (off gain : BitVec 32) : Bool :=
  ((List.range 14).all fun k => ((w.getD k 0).toNat - (2 ^ (22 - k) : Nat) : Int).natAbs * 50 ≤ 2 ^ (22 - k))
    && off.toInt.natAbs ≤ 65536 && 97 * 2 ^ 30 ≤ 100 * gain.toNat && 100 * gain.toNat ≤ 103 * 2 ^ 30

/-- Every deferred sequence starts once the reference is READY (R87). -/
def Dev.startDeferred (d : Dev) : Dev :=
  d.each 8 fun n d => if (d.adcAt n).deferred ∧ d.adcState n = 0 ∧ d.refReady then d.adcStart n else d

/-- A failed calibration of converter `n` holds the groups that it feeds: Hem puts each in its safe state (R72, R74, R94). Until
activation every group is in it. -/
def Dev.calFailHold (d : Dev) (n : Nat) : Dev :=
  d.eachOf d.allGroups fun g d =>
    d.when (d.active && (d.groups g).any fun h => d.grpUsed h && d.adcFor n h) (·.hemSafe g)

/-- CALIBRATION_END (R93, R94): the calibration of converter `n` ends with the factors it measured; the last one of a
reference in CALIBRATING makes it READY. -/
def execCalibrationEnd (n : Fin 8) (w : List (BitVec 32)) (off gain : BitVec 32) (s : State) : Out :=
  s.onClk 2 fun d =>
    if !d.tb ADC_CALSTAT_BUSY n then d
    else
      let b := 2 ^ n.val
      let ok := calPasses w off gain
      let d := d.each 14 fun k d => d.set (ADC_CALW_W n k) (w.getD k 0).toNat
      let d := (d.set (ADC_CALOFF_OFFSET n) off.toNat).set (ADC_CALGAIN_GAIN n) gain.toNat
      let d := ((d.clrBits ADC_CALSTAT_BUSY b).set (ADC_STAT_STATE n) 0).setB (ADC_STAT_CAL_VALID n) ok
      let d := d.adcUpd n fun a => { a with mux := none, blank := 0 }
      let d :=
        if ok then ((d.setBits ADC_CALSTAT_VALID b).clrBits ADC_CALSTAT_FAIL b).clrBits SYS_IMGSTAT_ADC_CALFAIL b
        else ((d.clrBits ADC_CALSTAT_VALID b).setBits ADC_CALSTAT_FAIL b).setBits SYS_IMGSTAT_ADC_CALFAIL b
      let d := d.raise (adcSrc n (if ok then 6 else 7))
      let d := (d.when (!ok) (·.calFailHold n)).foHoldAll
      let d := if d.get ADC_REFSTAT_STATE = 2 ∧ d.get ADC_CALSTAT_BUSY = 0 then (d.set ADC_REFSTAT_STATE 3).refEvt else d
      d.startDeferred.clkEval

/-- A write of 1 to ADC_CALCTL.TRIM that RWS and R287 admit (R96): the trim starts, or is refused with TRIM_RES = 2 while a
sequencer runs or with a voltage out of range. A running trim asks for the clock of ADC7 (R27). -/
def Dev.trimStart (d : Dev) : Dev :=
  let uv := d.get ADC_TRIMV_UV
  if d.bit ADC_CALCTL_TRIM then d
  else if uv < 2000000 ∨ 3000000 < uv ∨ (List.range 8).any (fun n => d.adcState n ≠ 0 && d.adcState n ≠ 4) then d.set ADC_CALSTAT_TRIM_RES 2
  else (d.set ADC_CALCTL_TRIM 1).clkEval

/-- An RWS write is admitted: Thimble has granted a safety unlock, and the writer is a pair in lockstep (R10, R287). -/
def Dev.rwsOk (d : Dev) (o : Origin) : Bool := d.lockOrigin o && d.bit THM_STAT_SAFE_UNLOCK

/-- A refused RWS write is counted by Hem: without rights as safety-classed, without the unlock as RWS (R12, R287). -/
def Dev.rwsRefuse (d : Dev) (o : Origin) : Dev :=
  if d.lockOrigin o then d.count HEM_CNT_RWS_REF else d.count HEM_CNT_CLASS_REF

/-- A stored RWS write is counted for the change log (R333, R336). -/
def Dev.rwsStored (d : Dev) : Dev := { d with thm := { d.thm with rwsStored := d.thm.rwsStored + 1 } }

/-- 1 written to TRIM by `o` (R10, R12, R96): while a trim runs TRIM holds 1 already, and the write neither starts nor is
refused. -/
def Dev.trimWrite (d : Dev) (o : Origin) : Dev :=
  if d.bit ADC_CALCTL_TRIM then d else if d.rwsOk o then d.rwsStored.trimStart else d.rwsRefuse o

/-- ADC_TRIM_START (R96). -/
def execAdcTrimStart (o : Origin) (s : State) : Out := s.onClk 0 fun d => d.when (d.originRuns o) (·.trimWrite o)

/-- ADC_TRIM_DONE (R96): the measurement of REFIN against the internal reference gave `code`. A deviation of the
reference above ±1 % is refused; else the trim is stored as a two-copy commit, which makes the calibration area valid again
(R74). -/
def execAdcTrimDone (code : BitVec 16) (s : State) : Out :=
  s.onClk 2 fun d =>
    if !d.bit ADC_CALCTL_TRIM then d
    else
      let d := (d.set ADC_CALCTL_TRIM 0).clkEval
      let vref := near (d.get ADC_TRIMV_UV * 32768) (32768 + code.toInt)
      let dev := vref - 2500000
      if 25000 < dev.natAbs then d.set ADC_CALSTAT_TRIM_RES 3
      else
        let c := match d.per.cal.cur with
          | some c => if c.bound then c else {}
          | none => {}
        let c := { c with refTrim := c.refTrim - dev }
        let d := Dev.set { d with per := { d.per with cal := d.per.cal.commit c } } ADC_CALSTAT_TRIM_RES 1
        let d := d.set SYS_IMGSTAT_CAL_BAD 0
        (d.hemHold 4 d.startFault).thmEvalAll

end Sys2Proof.Machine
end

