-- ==== Sys2Proof/Machine/Gch.lean ====
section
/-!
DEFINITION. Machine/Gch.lean: the gate channels: edges and their learning, the faults of the high-voltage half and how
they are reported, link training and loss, GATE_EN, and the discharge channel (chapter 08; R168 to R197, R474).
-/
namespace Sys2Proof.Machine

/-! ## Latching and reporting faults -/

/-- The event offset of latch bit `b` of GCH_FLT (R197). -/
def gchEvent (b : Nat) : Nat :=
  match b with
  | 0 => 0
  | 1 => 1
  | 2 => 2
  | 6 | 7 => 4
  | 8 => 5
  | 9 => 6
  | _ => 3

/-- The low-voltage side reports latch bits `bits` of channel `n` now: GCH_FLT, the stamp of the first since the last
clear, each fault's event and journal entry (R196, R474). -/
def Dev.gchReport (d : Dev) (n bits : Nat) : Dev :=
  let d := if d.gchFlt n = 0 then d.setReg (A_GCH_FSTAMP n) (BitVec.ofNat 64 d.time) else d
  let d := d.setReg (A_GCH_FLT n) (fieldSet (d.reg (A_GCH_FLT n)) 0 11 (d.gchFlt n ||| bits))
  let d := d.gchUpd n fun h => { h with reported := h.reported ||| bits }
  d.each 11 fun b d => d.when (bits.testBit b) fun d =>
    let src := 8 * n + gchEvent b
    (d.raise src).jnlFault src (A_GCH_FLT n) (A_GCH_STAT n)

/-- Show the causes present at channel `n`. -/
def Dev.gchShowCause (d : Dev) (n : Nat) : Dev := d.set (GCH_FLT_CAUSE n) (d.gchAt n).cause

/-- The high-voltage half of channel `n` latches `bits`, with the causes `cause` that stay present; a linked,
synchronised channel reports at once (R196, R474). -/
def Dev.gchLatch (d : Dev) (n bits cause : Nat) : Dev :=
  let d := d.gchUpd n fun h => { h with latch := h.latch ||| bits, cause := h.cause ||| cause }
  if d.unpowered || !((d.gchAt n).link && (d.gchAt n).sync) then d else (d.gchReport n bits).gchShowCause n

/-- Channel `n` leaves the gate for state `st`, ending a discharge run of GCH13 with LAST_END 3 (R185). Into SOFTOFF the gate is
discharged by SOFT_SEG segments, 1 to 8, else with the learned strength (R178, R179). -/
def Dev.gchTrip (d : Dev) (n st : Nat) : Dev :=
  let d := d.when (st = 3) (·.gateOffBy n (clampN 1 8 (d.get (GCH_CFG_SOFT_SEG n))))
  if n = 13 ∧ d.get (GCH_STAT_STATE 13) = 7 then d.disEnd 3 st else (d.gateOff n).gchPut n st

/-- A fault at channel `n` alone. Soft faults (short circuit, desaturation) take ACTIVE, ASC and DIS_RUN to SOFTOFF; the
others take the states of `from_` to FAULT (R185). `scOff` records that the partner was commanded off (R187). -/
def Dev.gchFault1 (d : Dev) (n bits cause : Nat) (soft : Bool) (from_ : List Nat) : Dev :=
  if !(d.gchAt n).powered then d
  else
    let pOff := !(d.gchAt (partner n)).gate
    let d := d.gchLatch n bits cause
    let d := if soft then d.gchUpd n fun h => { h with scOff := h.scOff || pOff } else d
    if d.unpowered then
      if (d.gchAt n).gate && from_.contains 7 then
        let k := if soft then clampN 1 8 (d.get (GCH_CFG_SOFT_SEG n)) else d.segOf n false
        d.gchUpd n fun h => { h with gate := false, running := false, offAt := d.mono, strength := k }
      else d
    else if from_.contains (d.get (GCH_STAT_STATE n)) then d.gchTrip n (if soft then 3 else 4)
    else d

/-- The low-voltage side puts the group of power channel `n` into its safe state after a fault it has learned of. -/
def Dev.gchGroupSafe (d : Dev) (n : Nat) : Dev :=
  if n ≥ 12 || d.unpowered then d
  else if (d.gchAt n).link then d.groupSafe (d.groupOf n) false else d

/-- A fault of channel `n`, latched in both channels of a pair (R175), then the safe state of the group. -/
def Dev.gchFault (d : Dev) (n bits cause : Nat) (soft : Bool) (from_ : List Nat) : Dev :=
  let d := d.eachOf (d.switchOf n) fun m d => d.gchFault1 m bits (if m = n then cause else 0) soft from_
  d.gchGroupSafe n

/-- The short-circuit comparator of channel `n` acts: in every state in which the gate is not held at VNEG, and in UNTRAINED
or with the main domain unpowered as the half's own protection (R176, R474). -/
def Dev.scActs (d : Dev) (n : Nat) : Bool := d.unpowered || [0, 2, 3, 5, 7].contains (d.get (GCH_STAT_STATE n))

/-- SHORT_CIRCUIT (R176, R178). -/
def execShortCircuit (n : Fin 14) (s : State) : Out :=
  s.always fun d => if d.scActs n then d.gchFault n 1 0 true [2, 5, 7] else d

/-- The drain-source monitor of channel `n` acts: while the gate is on, from DS_BLANK (100 to 2,000 ns) after the on-edge (R177). -/
def Dev.dsActs (d : Dev) (n : Nat) : Bool :=
  let h := d.gchAt n
  h.gate && decide (h.onAt + clampN 100 2000 (d.get (GCH_DS_DS_BLANK n)) ≤ d.mono)

/-- DESAT (R177): the same reaction as a short circuit. -/
def execDesat (n : Fin 14) (s : State) : Out :=
  s.always fun d => if d.dsActs n then d.gchFault n 4 0 true [2, 5, 7] else d

/-- SOFTOFF_END (R178): SOFT_NS have passed, all 24 sink segments conduct and the channel is in FAULT. -/
def execSoftoffEnd (n : Fin 14) (s : State) : Out :=
  s.main fun d =>
    if d.get (GCH_STAT_STATE n) = 3 then (d.gchUpd n fun h => { h with strength := 24 }).gchPut n 4 else d

/-- OVERCURRENT (R157, R176, R179): not evaluated in the blanking window of an edge, in ASC and in DIS_RUN. -/
def execOvercurrent (n : Fin 14) (s : State) : Out :=
  s.always fun d =>
    let st := d.get (GCH_STAT_STATE n)
    let h := d.gchAt n
    if !d.unpowered && (st = 5 || st = 7) || h.running || d.mono < h.blankEnd then d else d.gchFault n 2 0 false [1, 2]

/-- A supply of channel `n` lies outside its window: 0 VPOS below VPOS_UV, 1 VPOS above VPOS_OV, else VNEG outside −VNEG_LO to
VNEG_HI (R180); in 0.1 V. -/
def Dev.supplyOut (d : Dev) (n which : Nat) (vpos vneg : BitVec 8) : Bool :=
  match which with
  | 0 => vpos.toNat < d.get (GCH_SUP_VPOS_UV n)
  | 1 => d.get (GCH_SUP_VPOS_OV n) < vpos.toNat
  | _ => vneg.toInt < -(d.get (GCH_SUP_VNEG_LO n) : Int) || d.getI (GCH_SUP_VNEG_HI n) < vneg.toInt

/-- The half of channel `n` finds its supplies, which a linked channel shows. -/
def Dev.supplyPut (d : Dev) (n : Nat) (vpos vneg : BitVec 8) : Dev :=
  let d := d.gchUpd n fun h => { h with vpos := vpos.toNat, vneg := vneg.toNat }
  if d.unpowered || !(d.gchAt n).link then d
  else (d.set (GCH_STAT_VPOS n) vpos.toNat).set (GCH_STAT_VNEG n) vneg.toNat

/-- GATE_SUPPLY_FAULT (R180): `which` is 0 VPOS_UV, 1 VPOS_OV, 2 VNEG; `vpos` and `vneg` are in 0.1 V, the named one outside its
window for 10 µs. The cause stays until both supplies have been in their windows for 1 ms. -/
def execGateSupplyFault (n : Fin 14) (which : Fin 3) (vpos vneg : BitVec 8) (s : State) : Out :=
  s.always fun d =>
    if !(d.gchAt n).powered then d
    else
      let d := d.supplyPut n vpos vneg
      let b := 2 ^ (3 + which.val)
      if d.supplyOut n which vpos vneg then d.gchFault n b b false [1, 2, 5, 7] else d

/-- GATE_SUPPLY_RECOVERED (R180): 1 ms at `vpos` and `vneg`; with both in their windows the cause has gone. -/
def execGateSupplyRecovered (n : Fin 14) (vpos vneg : BitVec 8) (s : State) : Out :=
  s.always fun d =>
    if !(d.gchAt n).powered then d
    else
      let d := d.supplyPut n vpos vneg
      if (List.range 3).any fun k => d.supplyOut n k vpos vneg then d
      else
        let d := d.gchUpd n fun h => { h with cause := h.cause - (h.cause &&& 0x38) }
        if d.unpowered then d else d.gchShowCause n

/-- VPOS_LOST (R180, R185): the high-voltage half has no power; the gate is held at COM passively and the channel is
UNTRAINED. Its latches are cleared only by GATE_EN (R185). -/
def execVposLost (n : Fin 14) (s : State) : Out :=
  s.always fun d =>
    let d := if !d.unpowered ∧ n.val = 13 ∧ d.get (GCH_STAT_STATE 13) = 7 then d.disEnd 3 0 else d
    let d := d.gateOff n
    let d := d.gchUpd n fun h =>
      { h with powered := false, link := false, sync := false, trainedOnce := false, armed := false, running := false,
               gate := false, vpos := 0, vneg := 0 }
    if d.unpowered then d
    else
      let d := (d.gchPut n 0).set (GCH_STAT_VPOS n) 0
      d.when (n.val = 13) (·.set GCH_DIS_AUTO_ARMED 0)

/-- HIGH_VOLTAGE_HALF_POWER_UP (R180, R474): the half holds the gate at VNEG and protects its switch while UNTRAINED. -/
def execHighVoltageHalfPowerUp (n : Fin 14) (s : State) : Out :=
  s.always fun d => d.gchUpd n fun h => { h with powered := true }

/-- The gate-voltage monitor of channel `n` acts: from MIS_NS (200 to 5,000 ns) after each edge (R181). -/
def Dev.misActs (d : Dev) (n : Nat) : Bool :=
  let h := d.gchAt n
  decide ((if h.gate then h.onAt else h.offAt) + clampN 200 5000 (d.get (GCH_SUP_MIS_NS n)) ≤ d.mono)

/-- MISMATCH (R181): `high` is MIS_HIGH, of a gate commanded off; MIS_LOW is of one commanded on; not evaluated in DIS_RUN. The
cause stays until the gate follows, as GATE_EN finds it (R189). -/
def execMismatch (n : Fin 14) (high : Bool) (s : State) : Out :=
  s.always fun d =>
    if (d.gchAt n).running || (d.gchAt n).gate = high || !d.misActs n then d
    else
      let b := if high then 0x40 else 0x80
      d.gchFault n b b false [1, 2, 5]

/-- NTC_READING (R182): `code` is the temperature + 64 °C, 0 to 254, or 255 for a reading that is open or shorted. The
cause of a trip goes only at a valid reading below NTC_TRIP − 10 °C. -/
def execNtcReading (n : Fin 14) (code : BitVec 8) (s : State) : Out :=
  s.always fun d =>
    if !(d.gchAt n).powered then d
    else
      let trip := clampN 60 190 (d.get (GCH_SUP_NTC_TRIP n))
      let d :=
        if code.toNat ≠ 255 ∧ code.toNat + 10 < trip + 64 then
          d.gchUpd n fun h => { h with cause := h.cause - (h.cause &&& 0x400) }
        else d
      if d.unpowered || !(d.gchAt n).link then d
      else
        let d := (d.set (GCH_STAT_NTC n) code.toNat).gchShowCause n
        d.when (code.toNat = 255) (·.count (GCH_DS_NTC_INV n))

/-- NTC_TRIP (R182): not evaluated in DIS_RUN. -/
def execNtcTrip (n : Fin 14) (s : State) : Out :=
  s.always fun d => if (d.gchAt n).running then d else d.gchFault n 0x400 0x400 false [1, 2, 5]

/-- ONT_HV (R183): the limit does not act in ASC or in DIS_RUN. -/
def execOntHv (n : Fin 14) (s : State) : Out :=
  s.always fun d =>
    if (d.gchAt n).running || (!d.unpowered && d.get (GCH_STAT_STATE n) = 5) || !(d.gchAt n).gate then d
    else d.gchFault n 0x100 0 false [1, 2]

/-! ## Edges and learning -/

/-- GATE_EDGE (R147, R157, R168, R170, R173, R175): the edge command on its way to channel `n` arrives over its link; an ACTIVE
channel whose both paths permit executes it, and any ACTIVE channel an off-edge, with the edge's blanking window. A pair's
secondary executes the primary's edge on the primary's table. -/
def execGateEdge (n : Fin 14) (s : State) : Out :=
  s.main fun d =>
    let h := d.gchAt n
    match h.edge with
    | none => d
    | some on =>
      let d := d.gchUpd n fun h => { h with edge := none }
      let k := d.segOf n on
      d.eachOf (d.switchOf n) fun m d =>
        if d.get (GCH_STAT_STATE m) = 2 ∧ (d.gchAt m).link ∧ (d.permits m ∨ !on) then
          let d := d.gchUpd m fun q => { q with blankEnd := d.mono + h.blankNs }
          if on then d.gateOnBy m d.mono k else d.gateOffBy m k
        else d

/-- The high-voltage half of channel `n` takes its tables over from the mirror, GCH_SEGON and GCH_SEGOFF (R174). -/
def Dev.tableLoad (d : Dev) (n : Nat) : Dev :=
  d.gchUpd n fun h => { h with segOn := d.reg (A_GCH_SEGON n), segOff := d.reg (A_GCH_SEGOFF n) }

/-- The tables of every linked channel are taken over from the mirrors. -/
def Dev.tableLoadAll (d : Dev) : Dev := d.each 14 fun n d => d.when (d.gchAt n).link (·.tableLoad n)

/-- The bin of sense code `c`: the last boundary it reaches, with B0 = 0 (R172). -/
def Dev.binOf (d : Dev) (n c : Nat) : Nat :=
  (List.range 7).foldl (fun b k => if 4 * ((d.get (GCH_BIN_B n)) / 2 ^ (8 * k) % 256) ≤ c then k + 1 else b) 0

/-- EDGE_LEARN (R168, R169, R171 to R173): the measured switching time `ts` in 0.25 ns (none if a crossing is missing), the sense
code and VDS_OFF in V of an edge: after it all 24 segments hold the gate. Power channels learn. -/
def Dev.edgeLearn (d : Dev) (n : Nat) (on : Bool) (ts : Option Nat) (code vdsOff : Nat) : Dev :=
  let h := d.gchAt n
  let bUse := if on then h.lastOn else h.lastOff
  let seg (b : Nat) : Fld := if on then GCH_SEGON_SEG n b else GCH_SEGOFF_SEG n b
  let s := d.segOf n on
  let b := d.binOf n code
  let d := d.gchUpd n fun h => { h with strength := 24 }
  let d := d.set (GCH_MEAS_VDS_OFF n) vdsOff
  let d := d.set (if on then GCH_MEAS_SNS_ON n else GCH_MEAS_SNS_OFF n) code
  let d := d.set (if on then GCH_MEAS_BIN_ON n else GCH_MEAS_BIN_OFF n) b
  let d := d.gchUpd n fun h => if on then { h with lastOn := b } else { h with lastOff := b }
  let d := match ts with
    | some t => (d.gchUpd n fun h => { h with tsT := d.time }).set (if on then GCH_STAT_TS_ON n else GCH_STAT_TS_OFF n) t
    | none => d.count (GCH_CNT_MEAS_MISS n)
  let g := d.groupOf n
  let cst := d.get (CLU_STAT_STATE g)
  let run := d.get (GCH_STAT_STATE n) = 2 && (cst = 3 || cst = 4)
  let learn := d.bit (GCH_CFG_LEARN n) && !(d.paired && 6 ≤ n)
  if 12 ≤ n then d else
  match ts with
  | none => d.count (GCH_CNT_LEARN_SKIP n)
  | some t =>
    if !learn || !d.tb (GCH_CFG_LEARN_BINS n) b || !run || vdsOff < d.get (GCH_DS_VDS_MIN n) || b ≠ bUse then
      d.count (GCH_CNT_LEARN_SKIP n)
    else
      let hi := clampN 1 24 (d.get (GCH_CFG_SEG_MAX n))
      let lo := clampN 1 hi (d.get (GCH_CFG_SEG_MIN n))
      let tgt := 2 * max 2 (d.get (if on then GCH_CFG_TGT_ON n else GCH_CFG_TGT_OFF n))
      let band := d.get (GCH_CFG_BAND n)
      let s' := if tgt + band < t then min (s + 1) hi else if t + band < tgt then max (s - 1) lo else s
      if s' = s then d
      else
        let d := ((d.set (seg b) s').tableLoad n).count (GCH_CNT_LEARN_STEP n)
        d.when (s' = lo || s' = hi) (·.raise (8 * n + 7))

/-- EDGE_LEARN (R173). -/
def execEdgeLearn (n : Fin 14) (on : Bool) (ts : Option (BitVec 10)) (code : BitVec 10) (vdsOff : BitVec 16)
    (s : State) : Out :=
  s.main fun d => d.edgeLearn n on (ts.map fun t => t.toNat) code.toNat vdsOff.toNat

/-! ## Link training and loss -/

/-- The fault state of the sets has changed: the side rule is applied again to a set in its safe state (R187). -/
def Dev.sidesAgain (d : Dev) : Dev :=
  let d := d.showAsc
  d.each 2 fun g d => if d.get (ascMode g) ≥ 1 then d.applySet g else d

/-- Channel `n` completes training (R73, R174, R185, R187, R193, R474): link and counter synchronised, tables and ASC_DT taken over,
the supply status read back, latches reported, the state taken, FAULT with the gate off under any latch, and the side rule applied
again; GCH13 is armed if the committed set allows it; Thimble's paths of GCH12 and GCH13 permit while it runs. -/
def Dev.trainDone (d : Dev) (n : Nat) : Dev :=
  let d := d.gchUpd n fun h =>
    { h with link := true, sync := true, trainedOnce := true, trainFailed := false, cause := h.cause - (h.cause &&& 0x200),
             armed := n = 13 && d.bit THM_MISC_AUTO_DIS, ascDt := d.ascDt (d.groupOf n) }
  let d := d.tableLoad n
  let d := (d.set (GCH_STAT_VPOS n) (d.gchAt n).vpos).set (GCH_STAT_VNEG n) (d.gchAt n).vneg
  let d := (d.setBits SYS_GLINK_TRAINED (2 ^ n)).clrBits SYS_GLINK_FAIL (2 ^ n)
  let d := d.when (n = 13) (·.setB GCH_DIS_AUTO_ARMED (d.bit THM_MISC_AUTO_DIS))
  let h := d.gchAt n
  let new := h.latch - (h.latch &&& h.reported)
  let d := d.when (new ≠ 0) (·.gchReport n new)
  let d := d.gchShowCause n
  let d := if n ≥ 12 ∧ d.get THM_STAT_STATE = 1 then d.setPaths n true true else d
  let st := d.get (GCH_STAT_STATE n)
  let st' :=
    if (d.gchAt n).running then 7
    else if d.bit GCH_GEN_DISABLED then 6
    else if (d.gchAt n).latch ≠ 0 then 4
    else if st = 2 ∨ st = 5 then st else 1
  let d := d.when (st' = 4) (·.gateOff n)
  (((d.gchPut n st').driveEval n).sidesAgain).foHoldAll

/-- Training of channel `n` may take place: the image, which is active, uses it, its half has power and it is not trained (R73). -/
def Dev.canTrain (d : Dev) (n : Nat) : Bool := d.active && d.used n && (d.gchAt n).powered && !d.trained n

/-- The supply status that training reads back. -/
def Dev.supplyRead (d : Dev) (n : Nat) (r : Rails) : Dev :=
  d.gchUpd n fun h => { h with vpos := r.vpos.toNat, vneg := r.vneg.toNat }

/-- GATE_LINK_TRAINING_DONE (R73): it reads back the supplies, in 0.1 V. -/
def execGateLinkTrainingDone (e : Fin 14 × Rails) (s : State) : Out :=
  s.main fun d => if d.canTrain e.1 && !d.tb SYS_GLINK_FAIL e.1 then (d.supplyRead e.1 e.2).trainDone e.1 else d

/-- A training of channel `n` fails: it is marked in SYS_GLINK.FAIL (R73). -/
def Dev.trainFail (d : Dev) (n : Nat) : Dev :=
  (d.gchUpd n fun h => { h with trainFailed := true }).setBits SYS_GLINK_FAIL (2 ^ n)

/-- GATE_LINK_TRAINING_FAIL (R73): the channel is marked in SYS_GLINK.FAIL; its group cannot be released (R316). -/
def execGateLinkTrainingFail (n : Fin 14) (s : State) : Out :=
  s.main fun d => if d.active && d.used n && !d.trained n then d.trainFail n else d

/-- GATE_LINK_RETRY (R73, R77, R184): the retry of a failed or lost channel; one that succeeds after a failed training is counted in
RETRAIN. -/
def execGateLinkRetry (n : Fin 14) (ok : Option Rails) (s : State) : Out :=
  s.main fun d =>
    if !d.canTrain n || !d.tb SYS_GLINK_FAIL n then d
    else
      match ok with
      | none => d.trainFail n
      | some r =>
        let failed := (d.gchAt n).trainFailed
        ((d.supplyRead n r).trainDone n).when failed (·.count SYS_GLINK_RETRAIN)

/-- LINK_LOSS (R184, R185): the high-voltage half has received no frame for 1 µs. An ACTIVE or OFF channel but GCH13
goes to FAULT; ASC, GCH13 and every other state keep theirs; LINK is latched without a valid stamp, and in the other channel
of a pair as well, which reports it: the side rule is applied again (R175, R187). -/
def execLinkLoss (n : Fin 14) (s : State) : Out :=
  s.always fun d =>
    if !(d.gchAt n).powered || !(d.gchAt n).trainedOnce then d
    else
      let d := d.gchUpd n fun h =>
        { h with link := false, sync := false, latch := h.latch ||| 0x200, cause := h.cause ||| 0x200 }
      let st := d.get (GCH_STAT_STATE n)
      if d.unpowered then d
      else
        let d := if n.val ≠ 13 ∧ (st = 1 ∨ st = 2) then (d.gateOff n).gchPut n 4 else d
        d.eachOf ((d.switchOf n).filter fun m => m ≠ n.val) fun m d => (d.gchFault1 m 0x200 0 false [1, 2]).sidesAgain

/-- LINK_STATUS_MISSING (R77, R184): the low-voltage side clears TRAINED, shows FAIL of a used channel and puts the group into its
safe state; a group in PERMIT or SS1 loses a release condition (R316). -/
def execLinkStatusMissing (n : Fin 14) (s : State) : Out :=
  s.main fun d =>
    if d.trained n then
      let d := (d.clrBits SYS_GLINK_TRAINED (2 ^ n.val)).gchUpd n fun h => { h with link := false, sync := false }
      let d := d.when (d.used n) (·.setBits SYS_GLINK_FAIL (2 ^ n.val))
      let d := if n.val < 12 then d.groupSafe (d.groupOf n) false else d
      d.sidesAgain.foHoldAll.thmEvalAll
    else d

/-! ## Active short circuit -/

/-- ASC_COMMAND (R186, R187): a safe-state command of Thimble to group `g`. -/
def execAscCommand (g : Fin 2) (s : State) : Out := s.main fun d => d.groupSafe g true

/-- Thimble releases active short circuit in group `g`: the switches turn off and the set is in pulse-off; a switch without its link
holds its short (R184, R185, R313). -/
def Dev.ascRelease (d : Dev) (g : Nat) : Dev :=
  d.eachOf (d.groups g) fun g d =>
    if d.get (ascMode g) ≥ 2 then
      let d := d.eachOf (d.chans g) fun n d => if (d.gchAt n).link ∧ d.get (GCH_STAT_STATE n) = 5 then d.gchOff n else d
      d.set (ascMode g) 1
    else d

/-- ASC_RELEASE (R313): while SEL is pulse-off. -/
def execAscRelease (g : Fin 2) (s : State) : Out := s.main fun d => if d.selAsc g then d else d.ascRelease g

/-! ## GATE_EN (R189, R190) -/

/-- GATE_EN_FALL (R189). -/
def execGateEnFall (s : State) : Out :=
  s.main fun d =>
    if d.bit GCH_GEN_LEVEL then { d with thm := { d.thm with gateFall := d.mono } }.set GCH_GEN_LEVEL 0 else d

/-- Every channel but an UNTRAINED one becomes DISABLED; ASC, a brake pulse at the gate and a discharge run end (R185,
R190). -/
def Dev.gateDisable (d : Dev) : Dev :=
  let d := d.set GCH_GEN_DISABLED 1
  d.each 14 fun n d => if d.get (GCH_STAT_STATE n) = 0 then d.gateOff n else d.gchTrip n 6

/-- GATE_EN_DISABLE (R189): GATE_EN has been low for 40.25 µs. A group in PERMIT or SS1 loses a release condition. -/
def execGateEnDisable (s : State) : Out :=
  s.main fun d => if d.bit GCH_GEN_LEVEL then d else (d.gateDisable).thmEvalAll

/-- Channel `n`'s latches whose cause has gone are cleared; `stuck` says that a gate-voltage mismatch of this channel
persists. FAULT and DISABLED take the state this leaves (R185, R189). -/
def Dev.gateClear (d : Dev) (n : Nat) (stuck rising : Bool) : Dev :=
  let d := d.gchUpd n fun h =>
    let c := if stuck then h.cause else h.cause - (h.cause &&& 0xC0)
    { h with cause := c, latch := h.latch &&& c, reported := h.reported &&& c,
             scOff := h.scOff && (h.latch &&& c &&& 5) ≠ 0 }
  let d := d.setReg (A_GCH_FLT n) (fieldSet (d.reg (A_GCH_FLT n)) 0 11 (d.gchFlt n &&& (d.gchAt n).cause))
  let d := d.gchShowCause n
  let st := d.get (GCH_STAT_STATE n)
  if (rising && st = 6) || st = 4 then d.gchPut n (if (d.gchAt n).latch = 0 then 1 else 4) else d

/-- The rising edge's clear on all fourteen channels; the side rule is applied again to a set in its safe state (R187). -/
def Dev.gateClearAll (d : Dev) (stuck : Nat) (rising : Bool) : Dev :=
  let d := d.each 14 fun n d => d.gateClear n (stuck.testBit n) rising
  d.sidesAgain.each 14 fun n d => d.driveEval n

/-- GATE_EN_RISE (R189): `lowNs` is the low time in ns, `stuck` the channels whose gate-voltage mismatch persists. In
the two windows of tolerance either neighbouring effect takes place: a free value decides (log entry 1). -/
def Dev.gateRise (d : Dev) (lowNs stuck : Nat) : Dev :=
  let d := (d.set GCH_GEN_LEVEL 1).set GCH_GEN_LAST_US (min 16383 (lowNs / 1000))
  let free := d.freeVal.getLsbD 0
  let unsure := (4750 ≤ lowNs ∧ lowNs < 5250) ∨ (39750 < lowNs ∧ lowNs < 40250)
  let d := if unsure then d.drawn else d
  let off := d.bit GCH_GEN_DISABLED || 40250 ≤ lowNs || (39750 < lowNs && free)
  if off then
    let d := if d.bit GCH_GEN_DISABLED then d else (d.gateDisable).thmEvalAll
    ((d.set GCH_GEN_DISABLED 0).gateClearAll stuck true).count GCH_GEN_DISABLES
  else if 5250 ≤ lowNs ∨ (4750 ≤ lowNs ∧ free = true) then (d.gateClearAll stuck false).count GCH_GEN_CLEARS
  else d.count GCH_GEN_IGNORED

/-- GATE_EN_RISE (R189). The first rise after a start, with no falling edge before it, has no low pulse to judge. -/
def execGateEnRise (lowNs : BitVec 32) (stuck : BitVec 14) (s : State) : Out :=
  s.main fun d => if d.bit GCH_GEN_LEVEL then d else d.gateRise lowNs.toNat stuck.toNat

/-! ## Discharge -/

/-- AUTONOMOUS_DISCHARGE (R193, R448): the armed GCH13 whose link has been silent for 1 ms fires by itself, from OFF or DISABLED,
with entry 0 of its table, and disarms. Without main-domain power only the high-voltage half changes. There, and before the
training after that power returned, OFF or DISABLED is a half without a latch but LINK. A group in PERMIT or SS1 loses a release
condition (R316). -/
def execAutonomousDischarge (s : State) : Out :=
  s.always fun d =>
    let h := d.gchAt 13
    let st := d.get (GCH_STAT_STATE 13)
    if !h.powered || !h.armed || h.running || h.link then d
    else if (if d.unpowered ∨ st = 0 then h.latch ≠ h.latch &&& 0x200 else st ≠ 1 && st ≠ 6) then d
    else
      let k := d.segOf 13 true
      let d := d.gchUpd 13 fun h => { h with armed := false, running := true, gate := true, onAt := d.mono, strength := k }
      if d.unpowered then d
      else ((((d.gchPut 13 7).set (GCH_STAT_GATE 13) 1).set GCH_DIS_DIS_DONE 0).set GCH_DIS_AUTO_ARMED 0).count
        GCH_DIS_RUNS |>.raise 111 |>.thmEvalAll

/-- DIS_TMAX_ELAPSED (R185, R193). -/
def execDisTmaxElapsed (s : State) : Out :=
  s.always fun d =>
    if !(d.gchAt 13).running then d
    else if d.unpowered then
      let k := d.segOf 13 false
      d.gchUpd 13 fun h => { h with running := false, gate := false, offAt := d.mono, strength := k }
    else d.disEnd 1 1

end Sys2Proof.Machine
end

