-- ==== Sys2Proof/Machine/Clu.lean ====
section
/-!
DEFINITION. Machine/Clu.lean: the current-loop units: enable and offsets, the update from window to compare set, Hem's
limits on the set-points, the return-leg vectors and the comparison with the phase sensors (chapter 06; R124 to R145,
R291, R292).
-/
namespace Sys2Proof.Machine

/-- Event source `off` of unit `g` (R145). -/
def cluSrc (g off : Nat) : Nat := 224 + 8 * g + off

/-- A register read as a Q32.32 value. -/
def Dev.q (d : Dev) (a : Nat) : Int := (d.reg a).toInt

/-! ## Angle, speed and set-points -/

/-- The instant of domain time `t` on the model's elapsed time. -/
def Dev.monoOf (d : Dev) (t : Int) : Int := t - d.time + d.mono

/-- The electrical angle of set `g` at domain time `t`; PG1 of a six-phase group lies 1/12 turn behind (R130, R143). -/
def Dev.cluAngle (d : Dev) (g : Nat) (t : Int) : Int :=
  let a := match d.portOf g with
    | some p => d.posAngle p (d.monoOf t)
    | none => (Config.unnamed (4 + g)).toInt
  if d.six ∧ g = 1 then a - near q1 12 else a

/-- The mechanical speed of group `g` in rev/s. -/
def Dev.cluSpeed (d : Dev) (g : Nat) : Int :=
  match d.portOf g with
  | some p => d.posSpeed p
  | none => (Config.unnamed (6 + g)).toInt

/-- Pole pairs of group `g`'s port. -/
def Dev.cluPP (d : Dev) (g : Nat) : Int :=
  match d.portOf g with
  | some p => d.posPP p
  | none => 1

/-- 2π in Q32.32. -/
def twoPiQ : Int := 26986075409

/-- The group whose Hem limits apply to set `g` (R291). -/
def Dev.limGrp (d : Dev) (g : Nat) : Nat := if d.six then 0 else g

/-- A clamp of group `g` acts now: an entry, after 1 ms without action, is counted and raises CLAMP (R291, R303). -/
def Dev.clampActs (d : Dev) (g kind : Nat) (f : Fld) (acts : Bool) : Dev :=
  if !acts then d
  else
    let key := 20000 + 4 * g + kind
    let last := Tab.find (fun _ => 0) d.lims key
    let d := { d with lims := Tab.put (fun _ => 0) d.lims key (d.mono + 1) }
    if last = 0 ∨ ms1 ≤ d.mono + 1 - last then (d.count f).raiseLim 736 0 ms1 else d

/-- The set-point pair named by the image; a stale one leaves the last pair in force (R132). -/
def Dev.takePair (d : Dev) (g : Nat) : Dev :=
  match d.img.pair.find? fun e => e.1 = d.limGrp g with
  | none => d.cluUpd g fun c =>
      { c with refD := (Config.unnamed (2 * g)).toInt, refQ := (Config.unnamed (2 * g + 1)).toInt }
  | some e =>
    let w := 2 * e.2
    if d.outAge w = 0 ∧ d.outAge (w + 1) = 0 then d.cluUpd g fun c => { c with refD := d.outQ w, refQ := d.outQ (w + 1) }
    else d

/-- `x` held within ±`l`. -/
def clampAbs (l x : Int) : Int := clampI (-l) l x

/-- Hem's limit on the phase current of set `g` in Q32.32 A (R291). -/
def Dev.iMax (d : Dev) (g : Nat) : Int := near ((d.get (HEM_DER_IMAX_EFF (d.limGrp g)) : Int) * 2 ^ 32) 10

/-- The d-axis set-point with the field-weakening term before saturation (R132, R135). -/
def Dev.idRaw (d : Dev) (g : Nat) : Int :=
  d.q (A_CLU_IDREF g) + (if d.bit (CLU_CTL_FW_EN g) then d.q (A_CLU_IDFW g) else 0)

/-- The d-axis set-point in force (R132, R135). -/
def Dev.idEff (d : Dev) (g : Nat) : Int := satQ (d.idRaw g)

/-- The torque limit on iq: |iq| ≤ TMAX / KT (R291). -/
def Dev.torqueClamp (d : Dev) (g : Nat) (iq : Int) : Int :=
  let l := d.limGrp g
  let kt : Int := d.get (HEM_GLIM2_KT l)
  let top : Int := (d.get (HEM_GLIM_TMAX l) : Int) * 1000 * 2 ^ 32
  if iq.natAbs * kt ≤ top then iq else clampAbs (divFloor top kt) iq

/-- The speed limit on iq: above SPD_MAX torque cannot act in the direction of rotation (R292). -/
def Dev.speedClamp (d : Dev) (g : Nat) (iq : Int) : Int :=
  let w := d.cluSpeed g
  if centi (d.get (HEM_GLIM_SPD_MAX (d.limGrp g))) < 100 * (w.natAbs : Int) ∧ 0 < iq * w then 0 else iq

/-- The set-points of set `g` after Hem's limits: the circle with d-axis priority, torque and speed (R132, R291, R292). -/
def Dev.cluRefs (d : Dev) (g : Nat) : Dev :=
  let d := d.takePair g
  let l := d.limGrp g
  let c := d.cluAt g
  let m := d.iMax g
  let id := clampAbs m c.refD
  let d := d.setReg (A_CLU_IDREF g) (qBits id)
  let d := d.cluSats g [d.idRaw g]
  let e := d.idEff g
  let circle : Int := ratSqrt (m * m - e * e).toNat 1
  let q0 := clampAbs circle c.refQ
  let q1 := d.torqueClamp g q0
  let q2 := d.speedClamp g q1
  let d := d.clampActs l 0 (HEM_VIOL_I l) (id ≠ c.refD || q0 ≠ c.refQ)
  let d := d.clampActs l 1 (HEM_VIOL_TQ l) (q1 ≠ q0)
  let d := d.clampActs l 2 (HEM_VIOL_SPD l) (q2 ≠ q1)
  d.setReg (A_CLU_IQREF g) (qBits q2)

/-! ## Windows, Clarke and Park (R125 to R127, R130) -/

/-- WFRAC within 1 to 256. -/
def Dev.wfrac (d : Dev) (g : Nat) : Nat := clampN 1 256 (d.get (CLU_WIN_WFRAC g))

/-- The sum and the count of the valid codes whose apertures lie in the window of the update at mark `tm` (R125). -/
def Dev.window (d : Dev) (g tm : Nat) (rs : List (BitVec 64)) : Int × Nat :=
  let w := 5 * d.wfrac g * (d.carAt g).half
  let v := rs.filter fun r =>
    let s := d.recTime r
    r.getLsbD 23 && s + 200 < tm && 512 * tm ≤ 512 * (s + 200) + w
  ((v.map recCode).foldl (· + ·) 0, v.length)

/-- A window of `n` valid codes is short: below WMIN_PCT % of the apertures it spans (R126). -/
def Dev.isShort (d : Dev) (g n : Nat) : Bool :=
  n * 64000 < clampN 1 100 (d.get (CLU_WIN_WMIN_PCT g)) * (d.wfrac g * (d.carAt g).half)

/-- Clarke and Park: the d and q currents of the three phase currents at the middle of the window (R130, R131). -/
def Dev.cluPark (d : Dev) (g tm : Nat) : Dev :=
  let i := (d.cluAt g).iNow
  let u := i.getD 0 0
  let v := i.getD 1 0
  let w := i.getD 2 0
  let mid := near ((5 * d.wfrac g * (d.carAt g).half : Nat) : Int) 1024
  let a := d.cluAngle g ((tm : Int) - 200 - mid)
  let ia := near (2 * u - v - w) 3
  let y := v - w
  let b : Int := (ratSqrt (y.natAbs * y.natAbs) 3 : Nat)
  let ib := if y < 0 then -b else b
  let xa := satQ ia
  let xb := satQ ib
  let rawD := mulQ xa (cosTab a) + mulQ xb (sinTab a)
  let rawQ := mulQ xb (cosTab a) - mulQ xa (sinTab a)
  let d := d.cluSats g [ia, ib, rawD, rawQ]
  (d.setReg (A_CLU_ID g) (qBits rawD)).setReg (A_CLU_IQ g) (qBits rawQ)

/-- The group of `g` goes to SAFE for a fault of its current loop (R144). -/
def Dev.cluTrip (d : Dev) (g : Nat) : Dev := d.groupSafe (d.limGrp g) false

/-- The windows of set `g` give its phase currents, one short window replaced by the negative sum of the others; two or
more short leave the set without currents, four such updates in a row make the group safe (R125 to R127). The sum check of
a period fails with that of either of its updates (log entry 121). -/
def Dev.cluMeasure (d : Dev) (g tm : Nat) : Dev :=
  let c := d.cluAt g
  let ws := [c.winU, c.winV, c.winW].map (d.window g tm)
  let short (k : Nat) : Bool := d.isShort g (ws.getD k (0, 0)).2
  let ns := (List.range 3).countP short
  let raw := (List.range 3).map fun k =>
    let w := ws.getD k (0, 0)
    if short k then 0 else d.cluAmps g k w.1 w.2
  let keep (l : List (BitVec 64)) := l.filter fun r => tm ≤ d.recTime r + 200
  let d := (d.cluSats g raw).cluUpd g fun c =>
    { c with winU := keep c.winU, winV := keep c.winV, winW := keep c.winW, iNow := [], fresh := false }
  let d := d.when (ns ≠ 0) fun d => ((d.set (CLU_FLT_SHORT_WIN g) 1).add (CLU_CNT_SHORT_WIN g) ns).raise (cluSrc g 1)
  if 2 ≤ ns then
    let d := d.cluUpd g fun c => { c with shorts := c.shorts + 1 }
    d.when (4 ≤ (d.cluAt g).shorts) (·.cluTrip g)
  else
    let i := raw.map satQ
    let sum := i.foldl (· + ·) 0
    let d := d.cluSats g [if ns = 1 then -sum else sum]
    let i := (List.range 3).map fun k => if short k then satQ (-sum) else i.getD k 0
    let bad : Bool := ns = 0 && decide ((d.get (CLU_WIN_SUM_TOL g) : Int) * 2 ^ 32 < 100 * ((satQ sum).natAbs : Int))
    let d := d.cluUpd g fun c =>
      { c with shorts := 0, iNow := i, fresh := true, sumBad := c.sumBad || bad }
    let d := d.when bad fun d => (d.set (CLU_FLT_SUM g) 1).raise (cluSrc g 2)
    (d.each 3 fun k d => d.setReg (A_CLU_IPH g k) (qBits (i.getD k 0))).cluPark g tm

/-! ## Reconstruction (R138 to R141) -/

/-- The reconstruction of the period that ends before saturation: both vectors measured give i_max and i_min, the third
from the sum. -/
def Dev.reconRaw (d : Dev) (g : Nat) : Option (List Int) :=
  match (d.cluAt g).plan with
  | [a, b] =>
    match a.got, b.got with
    | some x, some y => some ((List.range 3).map fun k => if k = a.leg then x else if k = b.leg then -y else y - x)
    | _, _ => none
  | _ => none

/-- The reconstruction of the period that ends (R14, R140). -/
def Dev.cluRecon (d : Dev) (g : Nat) : Option (List Int) := (d.reconRaw g).map fun l => l.map satQ

/-- Show the reconstruction of the period that ends; currents it saturates are counted (R14, R140). -/
def Dev.showRecon (d : Dev) (g : Nat) : Dev :=
  match d.reconRaw g with
  | none => d.set (CLU_STAT_REC_VALID g) 0
  | some i =>
    ((d.cluSats g i).set (CLU_STAT_REC_VALID g) 1).each 3 fun k d => d.setReg (A_CLU_IREC g k) (qBits (i.getD k 0))

/-- Twice the difference of phase `k`'s mean of the two windows from the reconstruction, and 100 times its tolerance,
before saturation (R140). -/
def Dev.disagreeTerms (d : Dev) (g : Nat) (rec : List Int) (k : Nat) : Int × Int :=
  let c := d.cluAt g
  let r := rec.getD k 0
  (c.iPeak.getD k 0 + c.iNow.getD k 0 - 2 * r,
    (d.get (CLU_REC_TOL_A g) : Int) * 2 ^ 32 + d.get (CLU_REC_TOL_PCT g) * (r.natAbs : Int))

/-- The saturations of the comparison are counted (R14, R137). -/
def Dev.disagreeSats (d : Dev) (g : Nat) (rec : List Int) : Dev :=
  let t := (List.range 3).map (d.disagreeTerms g rec)
  d.cluSats g (t.map (fun x => unitsQ 2 x.1) ++ t.map fun x => unitsQ 100 x.2)

/-- The disagreement set: the phases whose mean of the two windows differs from the reconstruction by more than the
tolerance, as a mask (R140). -/
def Dev.disagreeSet (d : Dev) (g : Nat) (rec : List Int) : Nat :=
  (List.range 3).foldl (fun (m : Nat) k =>
    let t := d.disagreeTerms g rec k
    if 2 * satAt 100 t.2 < 100 * ((satAt 2 t.1).natAbs : Int) then m + 2 ^ k else m) 0

/-- The phase a one-phase mask names: 1 U, 2 V, 3 W; 0 for any other mask. -/
def onePhase (m : Nat) : Nat := match m with | 1 => 1 | 2 => 2 | 4 => 3 | _ => 0

/-- The streak has reached DIS_CNT: failover to RUN_REC on an attributed phase, else the safe state (R140, R144). -/
def Dev.cluDecide (d : Dev) (g : Nat) : Dev :=
  let c := d.cluAt g
  if c.streakOne && c.streakSum && d.bit (CLU_CTL_FAILOVER_EN g) then
    let d := ((d.set (CLU_FLT_FAILOVER g) 1).set (CLU_STAT_FAILED_PHASE g) (onePhase c.streakSet)).raise (cluSrc g 4)
    let d := d.eachOf (d.groups g) fun h d => d.set (CLU_STAT_PRIMARY h) 1
    (d.cluPut g 4).jnlFault (cluSrc g 4) (A_CLU_FLT g) (A_CLU_STAT g)
  else (d.cluTrip g).jnlFault (cluSrc g 3) (A_CLU_FLT g) (A_CLU_STAT g)

/-- The comparison at the end of a period in RUN (R140); a period that lacks the currents of one of its updates makes none and
leaves the streak (log entry 122). -/
def Dev.cluCompare (d : Dev) (g : Nat) : Dev :=
  let c := d.cluAt g
  match d.cluRecon g with
  | none => d
  | some rec =>
    if c.iPeak = [] ∨ c.iNow = [] then d
    else
      let d := (d.disagreeSats g rec).cluUpd g fun c => { c with starved := false }
      let m := d.disagreeSet g rec
      if m = 0 then d.cluUpd g fun c => { c with streak := 0 }
      else
        let first : Bool := c.streak = 0
        let one : Bool := onePhase m ≠ 0 && (first || (c.streakOne && m = c.streakSet))
        let d := d.cluUpd g fun c =>
          { c with streak := c.streak + 1, streakSet := m, streakOne := one,
                   streakSum := c.sumBad && (first || c.streakSum) }
        let d := (d.set (CLU_FLT_DISAGREE g) 1).raise (cluSrc g 3)
        d.when (max 1 (d.get (CLU_REC_DIS_CNT g)) ≤ c.streak + 1) (·.cluDecide g)

/-- In RUN_REC the reconstruction takes the place of the windows; the fourth period in a row without one makes the group
safe (R141). -/
def Dev.cluFromRecon (d : Dev) (g tm : Nat) : Dev :=
  match d.cluRecon g with
  | some i => (d.cluUpd g fun c => { c with iNow := i, fresh := true, missed := 0 }).cluPark g tm
  | none =>
    let d := d.cluUpd g fun c => { c with fresh := false, missed := c.missed + 1 }
    if 4 ≤ (d.cluAt g).missed then (d.cluTrip g).jnlFault (cluSrc g 0) (A_CLU_FLT g) (A_CLU_STAT g) else d

/-! ## Control (R133 to R135) -/

/-- The electrical speed of set `g` in rad/s before saturation (R133). -/
def Dev.cluOmega (d : Dev) (g : Nat) : Int := mulQ twoPiQ (d.cluPP g * d.cluSpeed g)

/-- The error of axis `d` (`q` false) or `q` before saturation (R133). -/
def Dev.axisErr (d : Dev) (g : Nat) (q : Bool) : Int :=
  if q then d.q (A_CLU_IQREF g) - d.q (A_CLU_IQ g) else d.idEff g - d.q (A_CLU_ID g)

/-- The flux that turns with the rotor and feeds axis `d` (`q` false) or `q` forward, in units of 2^−64, before saturation
(R133, R143). -/
def Dev.axisFlux (d : Dev) (g : Nat) (q : Bool) : Int :=
  let mut_ := if d.six then d.q (A_CLU_MUT g) else 0
  if q then d.q (A_CLU_LD g) * d.q (A_CLU_ID g) + q1 * d.q (A_CLU_PSI g) + mut_ * d.q (A_CLU_ID (1 - g))
  else d.q (A_CLU_LQ g) * d.q (A_CLU_IQ g) + mut_ * d.q (A_CLU_IQ (1 - g))

/-- kp e of axis `d` (`q` false) or `q` before saturation (R133). -/
def Dev.axisProp (d : Dev) (g : Nat) (rec q : Bool) : Int :=
  mulQ (d.q (if rec then A_CLU_KPR g else if q then A_CLU_KPQ g else A_CLU_KPD g)) (satQ (d.axisErr g q))

/-- The feed-forward of axis `d` (`q` false) or `q` before saturation (R133). -/
def Dev.axisFeed (d : Dev) (g : Nat) (q : Bool) : Int :=
  let x := satQ (d.cluOmega g) * satAt q1 (d.axisFlux g q)
  near (if q then x else -x) (2 ^ 64)

/-- The voltage of axis `d` (`q` false) or `q` before the limit and saturation (R133, R143). -/
def Dev.axisVolt (d : Dev) (g : Nat) (rec q : Bool) : Int :=
  let c := d.cluAt g
  satQ (d.axisProp g rec q) + (if q then c.intQ else c.intD) + satQ (d.axisFeed g q)

/-- The quantities of axis `d` (`q` false) or `q` that can saturate on the way to its voltage (R14, R137). -/
def Dev.axisRaws (d : Dev) (g : Nat) (rec q : Bool) : List Int :=
  [d.axisErr g q, unitsQ q1 (d.axisFlux g q), d.axisProp g rec q, d.axisFeed g q, d.axisVolt g rec q]

/-- `k` × `e` × T in Q32.32, T = `half` × 2.5 ns (R133). -/
def overTime (k e : Int) (half : Nat) : Int := near (satAt q1 (k * e) * (25 * half : Nat)) (2 ^ 32 * 10000000000)

/-- Vlim = KV / 65,536 × UDC / √3 (R134). -/
def Dev.vLim (d : Dev) (g : Nat) : Int :=
  let a := clampN 32768 65535 (d.get (CLU_VLIM_KV g)) * (d.cluAt g).udc.toNat
  (ratSqrt (a * a) (3 * 2 ^ 32) : Nat)

/-- An integrator's next value: frozen while its axis is limited and its step would drive the output further beyond. -/
def integrate (int step raw lim : Int) : Int := if 0 < step * (raw - lim) then int else int + step

/-- The set-points, the PI with its limits and the field-weakening term of set `g`, over `half` counter clocks (R132 to
R135). -/
def Dev.cluControl (d : Dev) (g : Nat) (rec : Bool) (half : Nat) : Dev :=
  let d := d.cluRefs g
  let vd0 := satQ (d.axisVolt g rec false)
  let vq0 := satQ (d.axisVolt g rec true)
  let lim := d.vLim g
  let vd := clampAbs lim vd0
  let vq := clampAbs (ratSqrt (lim * lim - vd * vd).toNat 1 : Nat) vq0
  let ki (q : Bool) : Int := d.q (if rec then A_CLU_KIR g else if q then A_CLU_KIQ g else A_CLU_KID g)
  let c := d.cluAt g
  let e (q : Bool) : Int := satQ (d.axisErr g q)
  let nd := integrate c.intD (overTime (ki false) (e false) half) vd0 vd
  let nq := integrate c.intQ (overTime (ki true) (e true) half) vq0 vq
  let thr := near ((d.get (CLU_VLIM_FW_THR g) : Int) * lim) 65536
  let fw := d.bit (CLU_CTL_FW_EN g)
  let dem : Int := ratSqrt (vd0.natAbs * vd0.natAbs + vq0.natAbs * vq0.natAbs) 1
  let rf := d.q (A_CLU_IDFW g) + overTime (d.q (A_CLU_KFW g)) (thr - satQ dem) half
  let did := if fw then clampI (min 0 (d.q (A_CLU_IDFWMIN g))) 0 (satQ rf) else 0
  let acts : Bool := vd ≠ vd0 || vq ≠ vq0
  let steps := [unitsQ q1 (ki false * e false), unitsQ q1 (ki true * e true), nd, nq]
  let weak := if fw then [dem, unitsQ q1 (d.q (A_CLU_KFW g) * (thr - satQ dem)), rf] else []
  let d := d.cluSats g (d.cluOmega g :: d.axisRaws g rec false ++ d.axisRaws g rec true ++ steps ++ weak)
  let d := d.cluUpd g fun c => { c with intD := satQ nd, intQ := satQ nq }
  let d := d.when (acts && !d.bit (CLU_STAT_VLIM g)) (·.raiseLim (cluSrc g 7) 0 ms1)
  let d := (d.setB (CLU_STAT_VLIM g) acts).setB (CLU_STAT_FW_ACT g) (did < 0)
  let d := (d.setReg (A_CLU_VD g) (qBits vd)).setReg (A_CLU_VQ g) (qBits vq)
  (d.setReg (A_CLU_IDFW g) (qBits did)).setReg (A_CLU_UDC g) (qBits c.udc)

/-! ## Modulation (R130, R136, R137) -/

/-- The voltage vector of set `g` at the middle of the half period from mark `tm`: vα and vβ (R130). -/
def Dev.voltVector (d : Dev) (g tm : Nat) : Int × Int :=
  let a := d.cluAngle g ((tm : Int) + near (5 * (d.carAt g).half : Nat) 4)
  let vd := d.q (A_CLU_VD g)
  let vq := d.q (A_CLU_VQ g)
  (mulQ vd (cosTab a) - mulQ vq (sinTab a), mulQ vd (sinTab a) + mulQ vq (cosTab a))

/-- The sector 1 to 6 of a voltage vector, 0 for none. -/
def sectorOf (va vb : Int) : Nat :=
  if va = 0 ∧ vb = 0 then 0 else ((atan2Turn vb va % 2 ^ 64 * 6) / 2 ^ 64).toNat + 1

/-- A voltage as a share of UDC (R136). -/
def Dev.shareOf (d : Dev) (g : Nat) (v : Int) : Int :=
  let u := (d.cluAt g).udc
  if 0 < u then near (v * q1) u else (Config.quotZero v).toInt

/-- The duties of the legs before their limit: inverse Clarke, space-vector modulation and dead-time compensation. -/
def Dev.rawDuties (d : Dev) (g : Nat) (va vb : Int) : List Int :=
  let h0 : Int := (ratSqrt (3 * (vb.natAbs * vb.natAbs)) 4 : Nat)
  let h := if vb < 0 then -h0 else h0
  let v := [va, near (-va) 2 + h, near (-va) 2 - h]
  let hi := v.foldl max va
  let lo := v.foldl min va
  let v0 := near (-(hi + lo)) 2
  let band : Int := max 1 (d.get (CLU_DTC_BAND g))
  let dtc : Int := if d.bit (CLU_CTL_DTC_EN g) then d.get (CLU_DTC_DTC_NS g) else 0
  (List.range 3).map fun k =>
    let i := clampAbs q1 (near (100 * (d.cluAt g).iNow.getD k 0) band)
    2 ^ 31 + d.shareOf g (v.getD k 0 + v0) + near (i * dtc) (20 * (d.carAt g).half : Nat)

/-- The legs of the largest, the middle and the smallest duty, equal duties ordered U, V, W. -/
def legOrder (l : List Int) : Nat × Nat × Nat :=
  let v (k : Nat) := l.getD k 0
  let mx := (List.range 3).foldl (fun b k => if v b < v k then k else b) 0
  let mn := (List.range 3).foldl (fun b k => if v k ≤ v b then k else b) 0
  if mx = mn then (0, 1, 2) else (mx, 3 - mx - mn, mn)

/-- N_R within 1 to 8. -/
def Dev.nR (d : Dev) (g : Nat) : Nat := clampN 1 8 (d.get (CLU_REC_N_R g))

/-- Tmin in ticks, rounded up (R138). -/
def Dev.tMin (d : Dev) (g : Nat) : Nat := (32 * d.get (CLU_REC_IDC_SETTLE g) + 4) / 5 + 40 * d.nR g + 80

/-- The vectors and shifts of the period that begins at valley `tm` with on-edges `rise` and off-edges `fall` in ticks
(R138, R139): each shift made or refused by the edge guard; none is made for a `fixed` compare set. -/
def Dev.cluPlan (d : Dev) (g tm : Nat) (fixed : Bool) (order : Nat × Nat × Nat) (rise fall : List Int) : Dev :=
  if !d.bit (CLU_CTL_REC_EN g) then d.cluUpd g fun c => { c with plan := [], owed := [], ret := [] }
  else
    let (mx, md, mn) := order
    let r (k : Nat) := rise.getD k 0
    let f (k : Nat) := fall.getD k 0
    let need : Int := d.tMin g
    let lo : Int := d.carGuard g
    let hi : Int := 16 * (d.carAt g).half - lo
    let inside (x : Int) : Bool := lo ≤ x && x ≤ hi
    let s1 := max 0 (need - (r md - r mx))
    let s2 := max 0 (need - (r mn - r md))
    let ok1 : Bool := s1 = 0 || (!fixed && inside (r mx - s1) && inside (f mx - s1))
    let ok2 : Bool := s2 = 0 || (!fixed && inside (r mn + s2) && inside (f mn + s2))
    let s1 := if ok1 then s1 else 0
    let s2 := if ok2 then s2 else 0
    let start (x : Int) : Nat := (32 * (tm : Int) + 5 * x).toNat
    let v1 : Vect := { vec := 1, leg := mx, start := start (r mx - s1), len := (r md - r mx + s1).toNat, ok := ok1 }
    let v2 : Vect := { vec := 2, leg := mn, start := start (r md), len := (r mn - r md + s2).toNat, ok := ok2 }
    let d := d.cluUpd g fun c =>
      { c with plan := [v1, v2], ret := [],
               owed := (List.range 3).map fun k => if k = mx then -s1 else if k = mn then s2 else 0 }
    let d := d.add (CLU_CNT2_SHIFTS g) ((if s1 = 0 then 0 else 1) + (if s2 = 0 then 0 else 1))
    d.when (!(ok1 && ok2)) (·.count (CLU_CNT_REC_MISS g))

/-- The compare set of edges `rise` and `fall` moved by `o1` and `o2`, inside the half period. -/
def Dev.compareSet (d : Dev) (g : Nat) (o1 o2 rise fall : List Int) : List (Nat × Nat) :=
  let put (x : Int) : Nat := (clampI 0 (16 * (d.carAt g).half : Nat) x).toNat
  (List.range 3).map fun k => (put (rise.getD k 0 + o1.getD k 0), put (fall.getD k 0 + o2.getD k 0))

/-- An update at valley `tm` without currents: RUN repeats the previous compare values and measures the vectors they leave
(R126, R138); RUN_REC repeats the previous duties with the shifts they need (R139, R141). -/
def Dev.cluRepeat (d : Dev) (g tm : Nat) : Dev :=
  let c := d.cluAt g
  let recon : Bool := d.get (CLU_STAT_STATE g) = 4
  let o (k : Nat) : Int := if recon then c.owed.getD k 0 else 0
  let rise := (List.range 3).map fun k => ((c.cmp.getD k (0, 0)).1 : Int) - o k
  let fall := (List.range 3).map fun k => ((c.cmp.getD k (0, 0)).2 : Int) - o k
  if c.cmp = [] then d.cluUpd g fun c => { c with plan := [], owed := [], ret := [] }
  else
    let d := d.cluPlan g tm (!recon) (legOrder (rise.map fun x => -x)) rise fall
    let owed := (d.cluAt g).owed
    if recon then d.cluUpd g fun c => { c with cmp := d.compareSet g owed owed rise fall } else d

/-- The duties of set `g` for the voltage (`va`, `vb`), held within 0 to 1 (R136). -/
def Dev.duties (d : Dev) (g : Nat) (va vb : Int) : List Int := (d.rawDuties g va vb).map (clampI 0 q1)

/-- The duties of set `g` beyond 0 or 1 are counted (R136). -/
def Dev.dutySats (d : Dev) (g : Nat) (va vb : Int) : Dev :=
  d.add (CLU_CNT_SAT g) ((d.rawDuties g va vb).countP fun x => x < 0 || q1 < x)

/-- The on-edges after the valley of legs with duties `l`, in ticks (R137). -/
def Dev.riseOf (d : Dev) (g : Nat) (l : List Int) : List Int := l.map fun x => mulQ (16 * (d.carAt g).half) (q1 - x)

/-- The off-edges after the peak of legs with duties `l`, in ticks (R137). -/
def Dev.fallOf (d : Dev) (g : Nat) (l : List Int) : List Int := l.map fun x => mulQ (16 * (d.carAt g).half) x

/-- The duties of set `g` become a compare set, with the shifts of the period, committed unless the checker blocks it
(R136 to R139, R153). -/
def Dev.cluModulate (d : Dev) (g tm : Nat) (peak : Bool) : Dev :=
  let (va, vb) := d.voltVector g tm
  let duty := d.duties g va vb
  let rise := d.riseOf g duty
  let fall := d.fallOf g duty
  let d := (d.dutySats g va vb).set (CLU_STAT_SECTOR g) (sectorOf va vb)
  let d := if peak then d else d.cluPlan g tm false (legOrder duty) rise fall
  let owed := (d.cluAt g).owed
  let set := d.compareSet g (if peak then [] else owed) owed rise fall
  d.cluUpd g fun c => { c with cmp := set, owed := if peak then [] else owed }

/-! ## The update -/

/-- Item `k` of unit `g`, numbered as IN class 3 (R203); none beyond 11. -/
def Dev.cluItem (d : Dev) (g k : Nat) : Option (BitVec 64) :=
  if k < 8 then some (d.reg (A_CLU_IDREF g + 8 * k))
  else if k < 11 then some (d.reg (A_CLU_IPH g (k - 8)))
  else if k = 11 then some (BitVec.ofNat 64 (d.get (CLU_STAT_STATE g) * 2 ^ 32))
  else none

/-- Spool channels of TYPE 4 record an update at mark `tm` (R234). -/
def Dev.cluSpool (d : Dev) (g tm : Nat) : Dev :=
  d.each 12 fun k d =>
    match d.cluItem g k with
    | some v => d.splFeed 4 (fun _ sel => sel % 32 = 16 * g + k) [BitVec.ofNat 64 tm, v]
    | none => d

/-- What set `g` takes in at mark `tm`: in RUN its windows and, at a valley, the comparison of the period that ends; in
RUN_REC, at a valley, the reconstruction (R125 to R127, R140, R141). -/
def Dev.cluInput (d : Dev) (g tm : Nat) : Dev :=
  let peak := (d.carAt g).peakNext
  let d := if d.get (CLU_STAT_STATE g) = 3 then d.cluMeasure g tm else d
  if peak then d.cluUpd g fun c => { c with iPeak := c.iNow }
  else
    let d := d.showRecon g
    let d := if d.get (CLU_STAT_STATE g) = 3 then d.cluCompare g else d
    let d := if d.get (CLU_STAT_STATE g) = 4 then d.cluFromRecon g tm else d
    d.cluUpd g fun c => { c with iPeak := [], sumBad := false }

/-- What set `g` gives out: the new compare set, or the previous one where the update has no currents; RUN_REC updates at
valleys only, over a whole period (R126, R128, R141). -/
def Dev.cluOutput (d : Dev) (g tm : Nat) : Dev :=
  let peak := (d.carAt g).peakNext
  let recon := d.get (CLU_STAT_STATE g) = 4
  if recon ∧ peak then d
  else
    let h := (d.carAt g).half
    if (d.cluAt g).fresh then ((d.cluControl g recon (if recon then 2 * h else h)).cluModulate g tm peak).cluSpool g tm
    else (if peak then d else d.cluRepeat g tm).cluSpool g tm

/-- The unit runs an update: its group is in RUN_REC, or in RUN with a window that starts at the first mark after TEST ended or
later (R144). -/
def Dev.cluBegun (d : Dev) (g tm : Nat) : Bool :=
  let st := d.get (CLU_STAT_STATE g)
  st = 4 || (st = 3 && 2 * (d.cluAt g).runAt + 5 * (d.carAt g).half < 2 * tm)

/-- UDC of set `g` is stale: no valid result in the last 50 µs (R134). -/
def Dev.udcStale (d : Dev) (g : Nat) : Bool :=
  match (d.cluAt g).udcAt with
  | some t => t + 50000 < d.time
  | none => true

/-- The result of set `g` is transferred: its compare set is committed unless the checker disagreed, which sets CHECK and
makes the group safe (R129, R153). -/
def Dev.cluTransfer (d : Dev) (g : Nat) (bad : Bool) : Dev :=
  if bad then ((d.set (CLU_FLT_CHECK g) 1).raise (cluSrc g 6)).cluTrip g
  else
    let set := (d.cluAt g).cmp
    if set = [] ∨ (d.get (CLU_STAT_STATE g) = 4 ∧ (d.carAt g).peakNext) then d else d.carCommit g set

/-- FLT bits cleared while their cause lasts are set again in the update (R146): STARVED until the next valid comparison, and
FAILOVER in RUN_REC (log entry 87). -/
def Dev.cluLasting (d : Dev) (g : Nat) : Dev :=
  let d := d.when (d.cluAt g).starved (·.set (CLU_FLT_STARVED g) 1)
  d.when (d.get (CLU_STAT_FAILED_PHASE g) ≠ 0 && d.get (CLU_STAT_STATE g) = 4) (·.set (CLU_FLT_FAILOVER g) 1)

/-- CURRENT_LOOP_UPDATE (R125 to R143): the update of unit `g` for the mark at domain time `tm`, with its mirror in a
six-phase group; bit k of `bad` is a checker mismatch of set k. A stale UDC makes an enabled group safe; a frozen carrier has
no updates (R162). -/
def execCurrentLoopUpdate (g : Fin 2) (tm : BitVec 64) (bad : BitVec 2) (s : State) : Out :=
  s.onClk 1 fun d =>
    let st := d.get (CLU_STAT_STATE g)
    let gs := d.groups g
    if (g.val = 1 ∧ d.six) ∨ st = 0 ∨ st > 4 ∨ d.bit (PWM_STAT_FROZEN g) then d
    else if gs.any d.udcStale then
      (d.eachOf (gs.filter d.udcStale) fun h d => d.set (CLU_FLT_UDC_STALE h) 1).cluTrip g
    else if !d.cluBegun g tm.toNat then d
    else
      let run (d : Dev) : Bool := 3 ≤ d.get (CLU_STAT_STATE g) && d.get (CLU_STAT_STATE g) ≤ 4
      let d := d.eachOf gs fun h d => (d.cluInput h tm.toNat).cluLasting h
      if !run d then d
      else
        let d := d.eachOf gs fun h d => d.cluOutput h tm.toNat
        d.eachOf gs fun h d => if run d then d.cluTransfer h (bad.getLsbD h) else d

/-- VECTOR_MEASUREMENT_REQUEST (R138): the unit issues its urgent request for vector 1 (`second` false) or 2 of the
running period, once, on its return-leg input of ADC6. -/
def execVectorMeasurementRequest (g : Fin 2) (second : Bool) (s : State) : Out :=
  s.onClk 1 fun d =>
    let vec := if second then 2 else 1
    let st := d.get (CLU_STAT_STATE g)
    let due (v : Vect) : Bool := v.vec = vec && v.ok && !v.asked
    if !d.bit (CLU_CTL_REC_EN g) ∨ st < 3 ∨ 4 < st ∨ !(d.cluAt g).plan.any due then d
    else
      let d := d.cluUpd g fun c => { c with plan := c.plan.map fun v => if v.vec = vec then { v with asked := true } else v }
      d.urgRequest 6 vec g (d.nR g)

/-- STARVED (R142): 100 ms in RUN without a valid comparison. -/
def execStarved (g : Fin 2) (s : State) : Out :=
  s.onClk 1 fun d =>
    if d.get (CLU_STAT_STATE g) = 3 then
      ((d.cluUpd g fun c => { c with starved := true }).set (CLU_FLT_STARVED g) 1).raise (cluSrc g 5)
    else d

/-! ## Enable and disable (R144) -/

/-- UDC of group `g` lies inside Hem's range (R293). -/
def Dev.udcInRange (d : Dev) (g : Nat) : Bool :=
  let l := d.limGrp g
  (d.groups g).all fun h =>
    let u := (d.cluAt h).udc
    (d.get (HEM_GLIM2_UDC_MIN l) : Int) * 2 ^ 32 ≤ u && u ≤ (d.get (HEM_GLIM2_UDC_MAX l) : Int) * 2 ^ 32

/-- Why an enable of group `g` is refused; 0 for an enable that is taken (R95, R144, R293, R316). -/
def Dev.enableWhy (d : Dev) (g : Nat) : Nat :=
  let gs := d.groups g
  if (g = 1 && d.paired) || d.thmState g ≠ 1 || d.bit HEM_STAT_HOLD || (gs.all (fun h => (d.cluAt h).udcAt.isSome) && !d.udcInRange g) then 1
  else if !d.refReady || !(gs.all fun h => (List.range 8).all fun n => !d.adcFor n h || d.bit (ADC_STAT_CAL_VALID n)) then 2
  else if !(gs.all fun h => (d.chans h).all fun n => !d.used n || d.trained n) then 3
  else if gs.any d.udcStale then 4
  else 0

/-- A refused enable (R144); one refused for the DC-link range is counted by Hem and raises REJECT (R291, R293). -/
def Dev.enableRefuse (d : Dev) (g why : Nat) : Dev :=
  let l := d.limGrp g
  let range : Bool := why = 1 && (d.groups g).all (fun h => (d.cluAt h).udcAt.isSome) && !d.udcInRange g
  let d := d.when range fun d => (d.count (HEM_VIOL_UDC l)).raiseLim 737 0 ms1
  let d := d.eachOf (d.groups g) fun h d => d.set (CLU_CTL_EN h) 0
  (d.count (CLU_CNT2_EN_REF g)).set (CLU_STAT_REFUSE_WHY g) why

/-- An enable that is taken: OFFSET with pulse-off, records and integrators of the last run gone, the port's source
chosen. The return-leg input is sampled by an urgent request for N_R samples (R116, R144, log entry 86). -/
def Dev.enableTake (d : Dev) (g : Nat) : Dev :=
  let d := d.eachOf (d.groups g) fun h d =>
    let d := d.cluUpd h fun c => { udc := c.udc, udcAt := c.udcAt, refD := c.refD, refQ := c.refQ }
    let d := ((d.set (CLU_CTL_EN h) 1).set (CLU_STAT_PRIMARY h) 0).set (CLU_STAT_FAILED_PHASE h) 0
    ((d.setReg (A_CLU_IDFW h) 0).set (CLU_STAT_FW_ACT h) 0).set (CLU_STAT_REC_VALID h) 0
  let d := d.ascRelease g
  let d := d.eachOf (d.groups g) fun h d => d.set (ascMode h) 1
  let d := d.cluPut g 1
  (d.eachOf (d.groups g) fun h d => d.urgRequest 6 3 h (d.nR h)).posStart g

/-- EN of unit `g` is written 1; CLU1's EN mirrors CLU0's in a six-phase group (R143, R144). -/
def Dev.cluEnable (d : Dev) (g : Nat) : Dev :=
  if (g = 1 ∧ d.six) ∨ d.get (CLU_STAT_STATE g) ≠ 0 then d
  else
    let why := d.enableWhy g
    if why = 0 then d.enableTake g else d.enableRefuse g why

/-- CLU_ENABLE (R144). -/
def execCluEnable (g : Fin 2) (s : State) : Out := s.byReg fun d => d.cluEnable g

/-- The unit returns to DISABLED: pulse-off, or an active safe state kept (R144). -/
def Dev.cluOff (d : Dev) (g : Nat) : Dev :=
  let d := d.posEnd g
  let d := d.eachOf (d.groups g) fun h d => d.set (CLU_CTL_EN h) 0
  d.cluPut g 0

/-- EN of unit `g` is written 0. -/
def Dev.cluDisable (d : Dev) (g : Nat) : Dev :=
  if (g = 1 ∧ d.six) ∨ d.get (CLU_STAT_STATE g) = 0 then d else d.cluOff g

/-- SIX was set: EN and STATE of CLU1 mirror CLU0's, which is DISABLED (R143, R146), and a unit 1 that ran stops with pulse-off. -/
def Dev.sixSet (d : Dev) : Dev :=
  let d := if d.get (CLU_STAT_STATE 1) = 0 then d else d.posEnd 1
  (d.set (CLU_CTL_EN 1) 0).cluPut1 1 0

/-- CLU_DISABLE (R144). -/
def execCluDisable (g : Fin 2) (s : State) : Out := s.byReg fun d => d.cluDisable g

/-- The valid codes of offset input `k` of unit `g`: U, V, W, return leg (R144). -/
def Dev.offsetCodes (d : Dev) (g k : Nat) : List Int :=
  let c := d.cluAt g
  let l := match k with | 0 => c.winU | 1 => c.winV | 2 => c.winW | _ => c.ret
  (l.filter fun r => r.getLsbD 23).map recCode

/-- Offset `k` of unit `g` is within OFF_MAX; one without a valid sample is not (log entry 86). -/
def Dev.offsetOk (d : Dev) (g k : Nat) : Bool :=
  let l := d.offsetCodes g k
  l ≠ [] && decide ((l.foldl (· + ·) 0).natAbs ≤ d.get (CLU_SOFF_OFF_MAX g k) * l.length)

/-- Store the offsets of unit `g` in SOFF, in 1/256 code. -/
def Dev.offsetStore (d : Dev) (g : Nat) : Dev :=
  d.each 4 fun k d =>
    let l := d.offsetCodes g k
    if l = [] then d else d.setI (CLU_SOFF_OFFSET g k) (near (256 * l.foldl (· + ·) 0) l.length)

/-- OFFSET_MEASUREMENT_END (R144): the offsets are checked and stored, and the unit enters TEST while its port aligns,
else RUN; an offset out of limit disables the unit. -/
def execOffsetMeasurementEnd (g : Fin 2) (s : State) : Out :=
  s.onClk 1 fun d =>
    if d.get (CLU_STAT_STATE g) ≠ 1 ∨ (g.val = 1 ∧ d.six) then d
    else
      let bad := (d.groups g).filter fun h => !(List.range 4).all (d.offsetOk h)
      if bad ≠ [] then (d.eachOf bad fun h d => d.set (CLU_FLT_OFFSET h) 1).cluOff g
      else
        let d := d.eachOf (d.groups g) fun h d => d.when (d.bit (CLU_CTL_OFFCAP h)) (·.offsetStore h)
        let align : Bool := match d.portOf g with | some p => d.get (POS_STAT_SRC p) = 1 | none => false
        d.cluPut g (if align then 2 else 3)

end Sys2Proof.Machine
end

