-- ==== Sys2Proof/Machine/Align.lean ====
section
/-!
DEFINITION. Machine/Align.lean: the saturation-pulse start of a position port: the standstill check, the pulses as the PWM drives
them, their readings and the evaluation (chapter 05; R119 to R121).
-/
namespace Sys2Proof.Machine

/-! ## The pulses (R119, R120) -/

/-- Port `p` runs ALIGN on a unit in TEST. -/
def Dev.aligning (d : Dev) (p : Nat) : Bool :=
  d.get (POS_STAT_SRC p) = 1 &&
    match d.posGroup p with
    | some g => d.get (CLU_STAT_STATE g) = 2
    | none => false

/-- The sequence fails with result `res`: START_FAIL, then LOST (R116). -/
def Dev.alignFail (d : Dev) (p res : Nat) : Dev :=
  let d := (d.posUpd p fun r => { r with alignOn := false, pulse := 0, inDecay := false }).set (POS_STRES_RES p) res
  (d.raise (posEv p 5)).posLost p

/-- The direction of pulse `k`: 30k° for the first twelve, then θd and θd + 0.5 turn (R119). -/
def Dev.pulseDir (d : Dev) (p k : Nat) : Int :=
  if k < 12 then near ((k : Int) * 2 ^ 32) 12 else (d.posAt p).thetaD + (if k = 13 then 2 ^ 31 else 0)

/-- The units of port `p`'s group apply a voltage of magnitude `v` at electrical angle `a`: its duties are committed to their
carriers as a compare set (R119, R130, R136, log entry 84). -/
def Dev.alignDrive (d : Dev) (p : Nat) (v a : Int) : Dev :=
  match d.posGroup p with
  | none => d
  | some g =>
    d.eachOf (d.groups g) fun h d =>
      let x := if d.six ∧ h = 1 then a - near q1 12 else a
      let va := mulQ v (cosTab x)
      let vb := mulQ v (sinTab x)
      let duty := d.duties h va vb
      (d.dutySats h va vb).carCommit h (d.compareSet h [] [] (d.riseOf h duty) (d.fallOf h duty))

/-- Pulse `k` of port `p` starts: VP/256 of UDC in its direction (R119). -/
def Dev.alignPulse (d : Dev) (p k : Nat) : Dev :=
  let d := d.posUpd p fun r => { r with alignOn := true, pulse := k, inDecay := false }
  let udc := (d.cluAt ((d.posGroup p).getD 0)).udc
  d.alignDrive p (near (d.get (POS_START_VP p) * udc) 256) (d.pulseDir p k)

/-- STANDSTILL_CHECK_END (R119): `lo` and `hi` are the least and greatest UPH readings of the 50 µs in mV; all must lie
within UDC/2 ± 2 % of UDC. -/
def execStandstillCheckEnd (p : Fin 4) (lo hi : BitVec 32) (s : State) : Out :=
  s.onClk 1 fun d =>
    match d.posGroup p with
    | none => d
    | some g =>
      if !d.aligning p ∨ (d.posAt p).alignOn then d
      else
        let udc := (d.cluAt g).udc
        let inside (mv : Nat) : Bool := (50 * ((mv : Int) * 2 ^ 32 * 2 - udc * 1000)).natAbs ≤ (2 * udc * 1000).natAbs
        if inside lo.toNat && inside hi.toNat then
          d.alignPulse p 0
        else d.alignFail p 2

/-- 1/√3 in Q32.32. -/
def invSqrt3 : Int := 2479700525

/-- The phase currents projected on direction `a`, in the unit of the currents (R120, R130). -/
def project (iu iv iw a : Int) : Int :=
  let ia := near ((2 * iu - iv - iw) * 2 ^ 32) 3
  let ib := (iv - iw) * invSqrt3
  near (ia * cosQ a + ib * sinQ a) (2 ^ 64)

/-- IP_MAX of port `p` in 0.01 A, at most Hem's phase limit (register table of R123). -/
def Dev.ipMax (d : Dev) (p : Nat) : Nat :=
  let g := (d.posGroup p).getD 0
  10 * min (d.get (POS_START_IP_MAX p)) (d.get (HEM_DER_IMAX_EFF (if d.six then 0 else g)))

/-- SAT_PULSE_END (R119, R120): the pulse that runs ends `tEnd` ns after its start with the window averages of the three
phase currents in 0.01 A; one that reached IP_MAX before its length is scaled to it. The zero vector follows. A polarity pulse is
scaled to POL_TP, its own length, and a reading beyond 16 bits is held at the nearer end (DESIGN CHOICE, log entry 120). -/
def execSatPulseEnd (p : Fin 4) (iu iv iw : BitVec 32) (tEnd : BitVec 32) (s : State) : Out :=
  s.onClk 1 fun d =>
    let r := d.posAt p
    if !d.aligning p ∨ !r.alignOn ∨ r.inDecay then d
    else
      let k := r.pulse
      let tp := 1000 * (if k < 12 then clampN 1 40 (d.get (POS_START_TP p)) else clampN 1 80 (d.get (POS_START_POL_TP p)))
      let v : Int :=
        if tEnd.toNat < tp then near ((d.ipMax p : Int) * tp) tEnd.toNat
        else project iu.toInt iv.toInt iw.toInt (d.pulseDir p k)
      let d := (d.posUpd p fun r => { r with inDecay := true }).alignDrive p 0 0
      d.setI (POS_PEAK_PEAK p k) (clampI (-32768) 32767 v)

/-! ## The evaluation (R121) -/

/-- A share `num` of `mean` in 0.1 %, 0 to 4,095: a negative one shows 0, and one of a mean of 0 has no stated value (R121, log
entry 85). -/
def permille (num mean : Int) : Nat := (clampI 0 4095 (near (num * 1000) mean)).toNat

/-- The share `num` of `mean`, `num` not negative, is below `pct` %: also one of a negative mean; of a mean of 0 it has no stated
value (R121, log entry 85). -/
def belowPct (num mean pct : Int) : Bool :=
  if 0 < mean then num * 100 < pct * mean else if mean < 0 then true else near (num * 100) mean < pct

/-- S_j of the evaluation, j modulo 6 (R121). -/
def Dev.alignS (d : Dev) (p j : Nat) : Int :=
  d.getI (POS_PEAK_PEAK p (j % 6)) + d.getI (POS_PEAK_PEAK p (j % 6 + 6))

/-- The index of the largest S (R121), of equal ones the lowest (DESIGN CHOICE, log entry 119). -/
def Dev.alignB (d : Dev) (p : Nat) : Nat :=
  (List.range 6).foldl (fun b j => if d.alignS p b < d.alignS p j then j else b) 0

/-- The evaluation after the twelve pulses: θd and the contrast, or a failure with RES = 3 (R121). -/
def Dev.alignEval (d : Dev) (p : Nat) : Dev :=
  let b := d.alignB p
  let sa := d.alignS p (b + 5)
  let sb := d.alignS p b
  let sc := d.alignS p (b + 1)
  let den := sa - 2 * sb + sc
  let off : Int := near ((sa - sc) * 2 ^ 32) (2 * den)
  let td := near ((b : Int) * 2 ^ 32 + off) 12
  let sum := (List.range 6).foldl (fun (x : Int) j => x + d.alignS p j) 0
  let least := (List.range 6).foldl (fun (x : Int) j => min x (d.alignS p j)) sb
  let num := 6 * (sb - least)
  let d := d.set (POS_STRES_CONTRAST p) (permille num sum)
  if belowPct num sum (clampN 1 50 (d.get (POS_START_SAL_MIN p))) then d.alignFail p 3
  else (d.posUpd p fun r => { r with thetaD := fracQ td }).alignPulse p 12

/-- ALIGN of an ABZ port ends at SENSOR, the count mapped by the least shift so that the angle equals θ0, and the observer
with it (R116, log entry 68). -/
def Dev.alignMap (d : Dev) (p : Nat) (t0 : Int) : Dev :=
  let r := d.posAt p
  let m0 := ratioQ (r.count + r.shift) (d.posCpr p)
  let m0 := if d.bit (POS_CFG_DIR p) then -m0 else m0
  let mech := m0 + near (wrapQ (t0 - (d.reg (A_POS_OFF p)).toInt - d.posPP p * m0)) (d.posPP p)
  let a := if d.bit (POS_CFG_DIR p) then -mech else mech
  let n := near (a * d.posCpr p) (2 ^ 32)
  let d := d.posUpd p fun r => { r with shift := n - r.count, theta := mech, tk := d.mono }
  d.posSrc p 0 4

/-- ALIGN of a port without a sensor ends at OPEN, which starts at θ0 (R116). -/
def Dev.alignOpen (d : Dev) (p : Nat) (t0 : Int) : Dev :=
  let d := d.posUpd p fun r => { r with openAngle := fracQ t0, openAt := d.mono }
  d.posSrc p 2 4

/-- A unit in TEST enters RUN (R144). -/
def Dev.testRun (d : Dev) (p : Nat) : Dev :=
  match d.posGroup p with
  | some g => if d.get (CLU_STAT_STATE g) = 2 then d.cluPut g 3 else d
  | none => d

/-- The sequence passes with θ0 = `t0`: START_DONE, the source moves on and the unit enters RUN; a sensor fault that lasts takes a
port that goes to SENSOR directly to LOST (R116, R121, R144). -/
def Dev.alignPass (d : Dev) (p : Nat) (t0 : Int) : Dev :=
  let d := (d.set (POS_STRES_THETA0 p) (fracQ t0).toNat).set (POS_STRES_RES p) 1
  let d := d.posUpd p fun r => { r with alignOn := false, pulse := 0, inDecay := false }
  let d := if d.get (POS_CFG_MODE p) = 2 then d.alignMap p t0 else d.alignOpen p t0
  let d := d.testRun p
  if d.get (POS_STAT_SRC p) = 0 ∧ (d.posAt p).fault then d.posLost p else d.posShow p

/-- The evaluation after the polarity pulses: θ0, or a failure with RES = 4 (R121). -/
def Dev.alignPolarity (d : Dev) (p : Nat) : Dev :=
  let a := d.getI (POS_PEAK_PEAK p 12)
  let b := d.getI (POS_PEAK_PEAK p 13)
  let num : Int := 2 * (a - b).natAbs
  let sum := a + b
  let d := d.set (POS_STRES_POLDIFF p) (permille num sum)
  if belowPct num sum (clampN 1 50 (d.get (POS_START_POL_MIN p))) then d.alignFail p 4
  else d.alignPass p (if b ≤ a then (d.posAt p).thetaD else (d.posAt p).thetaD + 2 ^ 31)

/-- PULSE_DECAY_END (R119, R121): the decay after a pulse ends; the next pulse starts, or the evaluation follows. -/
def execPulseDecayEnd (p : Fin 4) (s : State) : Out :=
  s.onClk 1 fun d =>
    let r := d.posAt p
    if !d.aligning p ∨ !r.alignOn ∨ !r.inDecay then d
    else if r.pulse = 11 then d.alignEval p
    else if r.pulse = 13 then d.alignPolarity p
    else d.alignPulse p (r.pulse + 1)

end Sys2Proof.Machine
end

