-- ==== Sys2Proof/Machine/Fio.lean ====
section
/-!
DEFINITION. Machine/Fio.lean: the field outputs, their banks and the digital inputs' filters (R50 to R58, R299).
-/
namespace Sys2Proof.Machine

/-! ## Field outputs -/

/-- A MODE write to output `n` (R51, R71, R299): until activation the output stays OFF; a MODE outside FO_ALLOW has no effect and
is counted; FO14 and FO15 are read only; values above 4 act as OFF. A MODE other than OFF written in DRIVE or LIMIT acts at once,
and LIMIT and its timer go on (DESIGN CHOICE, log entry 109). -/
def Dev.foWrite (d : Dev) (n mode : Nat) : Dev :=
  let m := if mode > 4 then 0 else mode
  if n ≥ 14 then d
  else if m ≠ 0 && !d.tb (HEM_FOALLOW_ALLOW n) (m - 1) then (d.count HEM_CNT_FO_REJ).raiseLim 737 0 ms1
  else
    let d := d.set (FIO_OUTCFG_MODE n) mode
    let st := d.get (FIO_OSTAT_STATE n)
    if st = 0 then (if m ≠ 0 && d.active && !d.foHeld n then d.foPut n 1 m else d)
    else if st = 1 then (if m = 0 then d.foResume n else d.foPut n 1 m)
    else if st = 2 then (if m = 0 then d.foResume n else d.foPut n 2 m)
    else d

/-- FO_MODE_WRITE (R51, R299). -/
def execFoModeWrite (n : Fin 16) (mode : BitVec 3) (s : State) : Out := s.byReg fun d => d.foWrite n mode.toNat

/-- A signed current of 6 A or more in either direction: the limit of a field output (R50). -/
def atLimit (ma : BitVec 16) : Bool := 6000 ≤ ma.toInt.natAbs

/-- CURRENT shows the signed current in mA that output `n` carries, positive when sourcing; with both switches off none flows, and
what is measured is 0 (R59). -/
def Dev.foCurrent (d : Dev) (n : Nat) (ma : BitVec 16) : Dev :=
  d.when ((d.foAt n).drive ≠ 0 || d.get (FIO_OSTAT_STATE n) = 1 || d.get (FIO_OSTAT_STATE n) = 2)
    (·.set (FIO_OSTAT_CURRENT n) ma.toNat)

/-- FO_CURRENT_LIMIT_REACHED (R50, R51, R59): a reading of `ma` mA. It shows whatever it is (log entry 108), and in DRIVE one at the
limit starts LIMIT. -/
def execFoCurrentLimitReached (n : Fin 16) (ma : BitVec 16) (s : State) : Out :=
  s.main fun d =>
    let d := d.foCurrent n ma
    if d.get (FIO_OSTAT_STATE n) = 1 && atLimit ma then (d.set (FIO_OSTAT_STATE n) 2).set (FIO_OSTAT_LIMIT n) 1 else d

/-- FO_CURRENT_BELOW_LIMIT (R51, R59): a reading of `ma` mA. It shows whatever it is (log entry 108), and in LIMIT one below the
limit before the timer expires goes back to DRIVE; the episode is counted. -/
def execFoCurrentBelowLimit (n : Fin 16) (ma : BitVec 16) (s : State) : Out :=
  s.main fun d =>
    let d := d.foCurrent n ma
    if d.get (FIO_OSTAT_STATE n) = 2 && !atLimit ma then
      ((d.set (FIO_OSTAT_STATE n) 1).set (FIO_OSTAT_LIMIT n) 0).count FIO_CNT_LIMIT_EVT
    else d

/-- Output `n` is sourcing: a HIGH or high-side output always, a LOW one never, a push-pull output by the sign of its current,
where 0 counts as sourcing (log entry 79). -/
def Dev.foSources (d : Dev) (n : Nat) : Bool :=
  let f := (d.foAt n).drive
  f = 2 || f = 4 || (f = 3 && 0 ≤ d.getI (FIO_OSTAT_CURRENT n))

/-- Output `m` of `n`'s bank latched within the last 10 µs with opposite drive (R51). -/
def Dev.foOpposes (d : Dev) (n m : Nat) (sourcing : Bool) : Bool :=
  m ≠ n && m / 4 = n / 4 &&
  match (d.foAt m).latchAt with
  | some t => d.mono ≤ t + 10000 && (d.foAt m).sourcing != sourcing
  | none => false

/-- The outputs in WAIT among `l` become LATCHED as a drive fight of bank `b`, and retry no more (R51). -/
def Dev.foFights (d : Dev) (b : Nat) (l : List Nat) : Dev :=
  d.eachOf (l.filter fun m => d.get (FIO_OSTAT_STATE m) = 3) fun m d =>
    ((d.foPut m 4 0).set (FIO_OSTAT_CAUSE m) 3).setBits FIO_FLT_FIGHT (2 ^ b)

/-- Output `n` latches with cause `cause` (R51). With `fight` a latch of the opposite drive in its bank makes it a drive
fight; outputs of its bank in WAIT that it opposes become LATCHED as a fight. -/
def Dev.foLatch (d : Dev) (n cause : Nat) (fight : Bool) : Dev :=
  let b := n / 4
  let src := d.foSources n
  let opp := (List.range 16).filter fun m => d.foOpposes n m src
  let isFight := fight && !opp.isEmpty
  let retry := !isFight && d.get (FIO_OSTAT_RETRIES n) < 3
  let d := d.foPut n (if retry then 3 else 4) 0
  let d := (d.set (FIO_OSTAT_CAUSE n) (if isFight then 3 else cause)).setBits FIO_FLT_LATCH (2 ^ n)
  let d := d.foUpd n fun f => { f with sourcing := src, latchAt := some d.mono }
  let d := d.when isFight (·.setBits FIO_FLT_FIGHT (2 ^ b))
  (d.foFights b opp).raise (712 + b)

/-- FO14 or FO15 latches (R53, R322): no retry, high impedance, LATCH_SB, and the brake fault of Thimble. FO12 or FO13 in WAIT
that it opposes becomes LATCHED as a fight (R51). -/
def Dev.foBrakeLatch (d : Dev) (n cause : Nat) : Dev :=
  let src := d.foSources n
  let opp := (List.range 14).filter fun m => d.foOpposes n m src
  let d := (d.set (FIO_OSTAT_CAUSE n) cause).setBits FIO_FLT_LATCH_SB (2 ^ (n - 14))
  let d := d.foUpd n fun f => { f with sourcing := src, latchAt := some d.mono }
  (d.sbcFault.foFights 3 opp).raise 715

/-- The cause of a latch by current: 2 short to ground while sourcing, 1 short to supply while sinking (R51). -/
def Dev.foShort (d : Dev) (n : Nat) : Nat := if d.foSources n then 2 else 1

/-- FO_LIMIT_TIMER_EXPIRE (R51, R53). -/
def execFoLimitTimerExpire (n : Fin 16) (s : State) : Out :=
  s.main fun d =>
    if d.get (FIO_OSTAT_STATE n) ≠ 2 then d
    else if n.val ≥ 14 then d.foBrakeLatch n (d.foShort n)
    else d.foLatch n (d.foShort n) true

/-- FO_OVERTEMPERATURE (R51, R53) of an output at a signed current: from DRIVE without a fight check, from LIMIT as the timer's
expiry, in which an opposite latch makes it a drive fight (log entry 80). -/
def execFoOvertemperature (e : Fin 16 × BitVec 16) (s : State) : Out :=
  s.main fun d =>
    let n := e.1
    let st := d.get (FIO_OSTAT_STATE n)
    if st ≠ 1 ∧ st ≠ 2 then d
    else
      let d := d.set (FIO_OSTAT_CURRENT n) e.2.toNat
      if n.val ≥ 14 then d.foBrakeLatch n 4 else d.foLatch n 4 (st = 2)

/-- FO_RETRY_TIMER_EXPIRE (R51). -/
def execFoRetryTimerExpire (n : Fin 14) (s : State) : Out :=
  s.main fun d =>
    if d.get (FIO_OSTAT_STATE n) ≠ 3 then d
    else if d.foMode n = 0 then d.foResume n
    else (((d.foPut n 1 (d.foMode n)).set (FIO_OSTAT_RETRIES n) (d.get (FIO_OSTAT_RETRIES n) + 1))).count FIO_CNT_RETRY

/-- FO_RETRY_RESET (R51). -/
def execFoRetryReset (n : Fin 14) (s : State) : Out :=
  s.main fun d => if d.get (FIO_OSTAT_STATE n) = 1 then d.set (FIO_OSTAT_RETRIES n) 0 else d

/-- 1 written to LATCH of output `n`: the record clears; WAIT and LATCHED drive again or go OFF, into HOLD while a hold
is in force (R51). -/
def Dev.foClear (d : Dev) (n : Nat) : Dev :=
  let st := d.get (FIO_OSTAT_STATE n)
  let d := d.clrBits FIO_FLT_LATCH (2 ^ n)
  if st = 3 ∨ st = 4 then ((d.foResume n).set (FIO_OSTAT_RETRIES n) 0).foHold n else d

/-- 1s written to FIO_FLT.LATCH. -/
def Dev.foClearMask (d : Dev) (mask : Nat) : Dev := d.each 14 fun n d => d.when (mask.testBit n) (·.foClear n)

/-- FO_LATCH_CLEAR (R51). -/
def execFoLatchClear (mask : BitVec 14) (s : State) : Out := s.byReg fun d => d.foClearMask mask.toNat

/-! ## Bank supplies -/

/-- The field VFb of FIO_VFIELD. -/
def vfFld (b : Nat) : Fld := ⟨A_FIO_VFIELD, 16 * b, 16⟩

/-- BANK_SUPPLY_FAULT (R54): overvoltage above 34 V or undervoltage below 16 V of bank `b`, measured at `v` × 10 mV, moves its
outputs, FO14 and FO15 among them, to HOLD at high impedance. A supply within these limits only shows. -/
def execBankSupplyFault (b : Fin 4) (high : Bool) (v : BitVec 16) (s : State) : Out :=
  s.main fun d =>
    let d := d.set (vfFld b) v.toNat
    if (if high then v.toNat ≤ 3400 else 1600 ≤ v.toNat) then d
    else
      let d := d.setBits (if high then FIO_FLT_VF_OV else FIO_FLT_VF_UV) (2 ^ b.val)
      let d := { d with fio := { d.fio with bankFault := d.fio.bankFault ||| 2 ^ b.val } }
      ((d.raise (716 + b)).foHoldAll).brakeShow

/-- BANK_SUPPLY_RECOVERED (R54): the supply of bank `b` has been between 17 V and 33 V. -/
def execBankSupplyRecovered (b : Fin 4) (v : BitVec 16) (s : State) : Out :=
  s.main fun d =>
    let d := d.set (vfFld b) v.toNat
    if v.toNat < 1700 ∨ 3300 < v.toNat then d
    else
      let d := { d with fio := { d.fio with bankFault := d.fio.bankFault - (d.fio.bankFault &&& 2 ^ b.val) } }
      d.foHoldAll.brakeShow

/-- AGG_OVER (R50): a report only. -/
def execAggOver (s : State) : Out := s.main fun d => (d.set FIO_FLT_AGG_OVER 1).raise 720

/-! ## Digital inputs -/

/-- The filtered level of input `n` follows its raw level; an enabled edge raises its event (R56, R58), and either edge reaches the
groups that it triggers (R204). -/
def Dev.diFiltered (d : Dev) (n : Nat) : Dev :=
  let raw := d.tb FIO_IN_RAW n
  let d := { d with fio := { d.fio with running := d.fio.running - (d.fio.running &&& 2 ^ n) } }
  if d.tb FIO_IN_LEVEL n = raw then d
  else
    let d := if raw then d.setBits FIO_IN_LEVEL (2 ^ n) else d.clrBits FIO_IN_LEVEL (2 ^ n)
    d.raiseIf (if raw then d.tb FIO_DIEDGE_RISE_EN n else d.tb FIO_DIEDGE_FALL_EN n) (680 + n)

/-- DI_FILTERED_EDGE (R56): the raw level of input `n` has been stable for the filter time. -/
def execDiFilteredEdge (n : Fin 32) (s : State) : Out := s.main fun d => d.diFiltered n

/-- The filter's part of a raw level change of input `n` (R56): a return to the filtered level before the filter time is
a suppressed pulse. A filter of 0 passes the edge at once. -/
def Dev.diRaw (d : Dev) (n : Nat) (level : Bool) : Dev :=
  if d.tb FIO_IN_RAW n = level then d
  else
    let d := if level then d.setBits FIO_IN_RAW (2 ^ n) else d.clrBits FIO_IN_RAW (2 ^ n)
    if d.tb FIO_IN_LEVEL n = level then
      let was := d.fio.running.testBit n
      let d := { d with fio := { d.fio with running := d.fio.running - (d.fio.running &&& 2 ^ n) } }
      d.when was (·.count FIO_CNT_DI_GLITCH)
    else if d.get FIO_DIFILT_FILT / 2 ^ (8 * (n / 8)) % 256 = 0 then d.diFiltered n
    else { d with fio := { d.fio with running := d.fio.running ||| 2 ^ n } }

end Sys2Proof.Machine
end

