-- ==== Sys2Proof/Machine/Stepper.lean ====
section
/-!
DEFINITION. Machine/Stepper.lean: the stepper axes: coil currents and choppers, motion modes and profiles, bands, stall
detection, limit switches and homing, and the coil faults (chapter 11; R244 to R271).
-/
namespace Sys2Proof.Machine

/-! ## Coil table, currents and thresholds (R247 to R249) -/

/-- The axis is not in OFF, FAULT or HOLD: its bridges run. -/
def axLive (st : Nat) : Bool := 1 ≤ st && st ≤ 4

/-- Entry `a` of the coil table; −2,048 acts as −2,047 (R247). -/
def Dev.coilTab (d : Dev) (a : Nat) : Int := max (-2047) (d.getI (STP_TAB_T (a % 1024 / 4) (a % 4)))

/-- The coil current in force in mA: I_HOLD or I_RUN, at most Hem's limit (R248). -/
def Dev.coilI (d : Dev) (n : Nat) : Nat :=
  min (if d.bit (STP_STAT_HOLDI n) then d.get (STP_CUR_I_HOLD n) else d.get (STP_CUR_I_RUN n)) (d.get STP_HEMLIM_I_COIL_MAX)

/-- A current of axis `n` comes into force: one above Hem's limit is counted and is an entry into clamping (R248, R291; log entry
100). -/
def Dev.coilClamp (d : Dev) (n : Nat) : Dev :=
  let i := if d.bit (STP_STAT_HOLDI n) then d.get (STP_CUR_I_HOLD n) else d.get (STP_CUR_I_RUN n)
  d.when (d.get STP_HEMLIM_I_COIL_MAX < i) fun d => (d.count (STP_CNT2_CUR_CLAMP n)).raiseLim 736 0 ms1

/-- A coil of axis `n`: 0 A, 1 B. -/
def Dev.coil (d : Dev) (n : Nat) (b : Bool) : Coil := if b then (d.axisAt n).coilB else (d.axisAt n).coilA

/-- Change a coil of axis `n`. -/
def Dev.coilUpd (d : Dev) (n : Nat) (b : Bool) (f : Coil → Coil) : Dev :=
  d.axisUpd n fun a => if b then { a with coilB := f a.coilB } else { a with coilA := f a.coilA }

/-- RSHUNT in 0.1 mΩ, 0 acting as 1. -/
def Dev.rShunt (d : Dev) (n : Nat) : Nat := max 1 (d.get (STP_COIL_RSHUNT n))

/-- The learned OFFSET of a coil in codes. -/
def offsetFld (n : Nat) (b : Bool) : Fld := if b then STP_OFS_OFFSET_B n else STP_OFS_OFFSET_A n

/-- A chopper threshold before its limit: |i_tgt| plus (`up`) or minus half the hysteresis, in DAC codes (R249). -/
def Dev.chopRaw (d : Dev) (n : Nat) (b up : Bool) : Int :=
  let i : Int := 2 * (d.coil n b).tgt.natAbs
  let h : Int := 2047 * d.get (STP_CHOP_HYST n)
  divRound ((if up then i + h else i - h) * (d.rShunt n * 1024 : Nat)) (2 * 2047 * 1000000) + d.getI (offsetFld n b)

/-- The threshold, limited to 1 to 1,023. -/
def Dev.chopThr (d : Dev) (n : Nat) (b up : Bool) : Int := clampI 1 1023 (d.chopRaw n b up)

/-- A threshold that starts to act is counted if it was limited. -/
def Dev.thrCount (d : Dev) (n : Nat) (b up : Bool) : Dev :=
  d.when (d.chopThr n b up ≠ d.chopRaw n b up) (·.count (STP_CNT2_THR_CLAMP n))

/-- The coil's target is below half the hysteresis: its four switches stay off (R248). -/
def Dev.coilIdle (d : Dev) (n : Nat) (b : Bool) : Bool := 2 * (d.coil n b).tgt.natAbs < 2047 * d.get (STP_CHOP_HYST n)

/-! ## The chopper (R245, R249, R250) -/

/-- The high side that the next phase of the coil turns on has its bootstrap below 7 V (`low`): it stays off, and the low side of
its half-bridge is on for TOFF_MIN instead, in a tail (R245, log entry 92). -/
def Dev.chopLow (d : Dev) (n : Nat) (b : Bool) : Dev :=
  (d.coilUpd n b fun c => { c with phase := 3 }).count (STP_CNT2_BST_UV n)

/-- An on-phase begins with the polarity of the target, unless the bootstrap is low (R245, R249). -/
def Dev.chopOn (d : Dev) (n : Nat) (b low : Bool) : Dev :=
  if d.coilIdle n b then d.coilUpd n b fun c => { c with phase := 0 }
  else if low then d.chopLow n b
  else (d.coilUpd n b fun c => { c with phase := 1, limited := false, pol := c.tgt < 0 }).thrCount n b true

/-- The coil's fast decay begins: the opposite diagonal turns on, unless its bootstrap is low (R245, R249). -/
def Dev.chopOff (d : Dev) (n : Nat) (b low : Bool) : Dev :=
  if low then d.chopLow n b else (d.coilUpd n b fun c => { c with phase := 2 }).thrCount n b false

/-- DT in ns: between the switches of the last phase turning off and those of this one turning on (R245). -/
def Dev.deadNs (d : Dev) (n : Nat) : Nat := 10 * clampN 5 200 (d.get (STP_CHOP_DT n))

/-- TBLANK in ns, from the instant at which the switches of a phase turn on. -/
def Dev.tBlank (d : Dev) (n : Nat) : Nat := 25 * clampN 10 160 (d.get (STP_CHOP_TBLANK n))

/-- TOFF_MIN in ns. -/
def Dev.tOffMin (d : Dev) (n : Nat) : Nat := 100 * clampN 5 200 (d.get (STP_CHOP_TOFF_MIN n))

/-- FCH_MIN within 5 to 100 kHz. -/
def Dev.fchMin (d : Dev) (n : Nat) : Nat := clampN 5 100 (d.get (STP_CHOP_FCH_MIN n))

/-- FCH_MAX within FCH_MIN to 100 kHz. -/
def Dev.fchMax (d : Dev) (n : Nat) : Nat := clampN (d.fchMin n) 100 (d.get (STP_CHOP_FCH_MAX n))

/-- The comparator of a phase that has lasted `ns` acts: the dead time and the blanking have passed (R245, R249, log entry 93). -/
def Dev.chopSees (d : Dev) (n ns : Nat) : Bool := d.deadNs n + d.tBlank n ≤ ns

/-- CHOPPER_UPPER_REACHED (R249): `ns` into the on-phase, past the blanking, the shunt magnitude `m.1` is at U or more; `m.2` as the
bootstrap of the opposite high side is below 7 V. -/
def execChopperUpperReached (n : Fin 12) (b : Bool) (ns : BitVec 32) (m : BitVec 10 × Bool) (s : State) : Out :=
  s.onClk 2 fun d =>
    if (d.coil n b).phase ≠ 1 ∨ !d.chopSees n ns.toNat ∨ (m.1.toNat : Int) < d.chopThr n b true then d
    else (d.coilUpd n b fun c => { c with lastOn := ns.toNat, missRun := 0 }).chopOff n b m.2

/-- ON_PHASE_LIMIT (R250, R268): the on-phase has lasted 1/FCH_MIN − TOFF_MIN, `e.1` ns, without reaching U; `e.2` as the
bootstrap of the opposite high side is below 7 V. -/
def execOnPhaseLimit (n : Fin 12) (b : Bool) (e : BitVec 32 × Bool) (s : State) : Out :=
  s.onClk 2 fun d =>
    let c := d.coil n b
    if c.phase ≠ 1 ∨ e.1.toNat < 1000000 / d.fchMin n - d.tOffMin n then d
    else
      let run := if 4 * c.tgt.natAbs < 2047 * d.coilI n then 0 else c.missRun + 1
      let d := d.coilUpd n b fun c =>
        { c with lastOn := e.1.toNat, limited := true, missRun := run % 8, openDue := c.openDue || run = 8 }
      (d.count (STP_CNT_NOT_REACHED n)).chopOff n b e.2

/-- A chopper cycle without a tail that R250 did not end joins the open stall window (R260). -/
def Dev.chopSum (d : Dev) (n : Nat) (b : Bool) (off : Nat) : Dev :=
  d.coilUpd n b fun c =>
    if c.window && !c.limited then
      { c with sumOn := c.sumOn + c.lastOn, sumOff := c.sumOff + off, cycles := c.cycles + 1 }
    else c

/-- CHOPPER_LOWER_REACHED (R249): `ns` into the off-phase, past the blanking, the magnitude `code` is at L or less. The
next on-phase begins, or a tail while TOFF_MIN or 1/FCH_MAX has not passed. -/
def execChopperLowerReached (n : Fin 12) (b : Bool) (ns : BitVec 32) (code : BitVec 10) (low : Bool) (s : State) : Out :=
  s.onClk 2 fun d =>
    let c := d.coil n b
    if c.phase ≠ 2 ∨ !d.chopSees n ns.toNat ∨ d.chopThr n b false < (code.toNat : Int) then d
    else if ns.toNat < d.tOffMin n ∨ (c.lastOn + ns.toNat) * d.fchMax n < 1000000 then
      (d.coilUpd n b fun c => { c with phase := 3 }).count (STP_CNT_UNDERSHOOT n)
    else (d.chopSum n b ns.toNat).chopOn n b low

/-- CHOPPER_TAIL_END (R249): the slow decay is over and the next on-phase begins. -/
def execChopperTailEnd (n : Fin 12) (b low : Bool) (s : State) : Out :=
  s.onClk 2 fun d => if (d.coil n b).phase = 3 then d.chopOn n b low else d

/-! ## Bands and addresses (R257 to R259) -/

/-- Δ of band `r` in table entries. -/
def bandStep (r : Nat) : Nat := 4 ^ min r 4

/-- The table address of count `c` in band `r` (R257). -/
def bandAddr (r : Nat) (c : Int) : Nat :=
  let s : Int := bandStep r
  (s * ((2 * c + s) / (2 * s)) % 1024).toNat

/-- BTk of STP_BAND, k = 1 to 4, as |v| in Q32.32 microsteps/s. -/
def Dev.bandThr (d : Dev) (k : Nat) : Nat :=
  d.get (match k with | 1 => STP_BAND_BT1 | 2 => STP_BAND_BT2 | 3 => STP_BAND_BT3 | _ => STP_BAND_BT4) * 256 * 2 ^ 32

/-- The band a speed of magnitude `v` falls back to from band `r`: below 7/8 of a threshold it is left (R258). -/
def Dev.bandDown (d : Dev) (v : Nat) : Nat → Nat
  | 0 => 0
  | r + 1 => if 8 * v < 7 * d.bandThr (r + 1) then d.bandDown v r else r + 1

/-- The target band of speed magnitude `v`, from target band `r` (R258). -/
def Dev.bandFor (d : Dev) (v r : Nat) : Nat :=
  let up := (List.range 4).foldl (fun (m k : Nat) => if d.bandThr (k + 1) ≤ v then k + 1 else m) 0
  if r < up then up else d.bandDown v r

/-- A band of axis `n` takes effect. -/
def Dev.bandTake (d : Dev) (n r : Nat) : Dev :=
  (((d.set (STP_STAT_BAND n) r).set (STP_STAT_PENDING n) 0).set (STP_STAT_PEND n) 0).raise (stpSrc n 7)

/-- The band change of a tick (R259): pending until both addresses agree; at rest it takes effect at once. -/
def Dev.bandTick (d : Dev) (n : Nat) (rest : Bool) : Dev :=
  let c := (d.axisAt n).count
  let cur := d.get (STP_STAT_BAND n)
  let was := if d.bit (STP_STAT_PENDING n) then d.get (STP_STAT_PEND n) else cur
  let t := d.bandFor (d.getI (STP_VEL n)).natAbs was
  if t = cur then (d.set (STP_STAT_PENDING n) 0).set (STP_STAT_PEND n) 0
  else if bandAddr t c = bandAddr cur c then d.bandTake n t
  else if rest then (d.bandTake n t).count (STP_CNT2_BAND_REST n)
  else (d.set (STP_STAT_PENDING n) 1).set (STP_STAT_PEND n) t

/-! ## Faults and stops -/

/-- Homing of axis `n` fails with cause `why`: HOME_FAIL latches and is raised (R265). -/
def Dev.homeFail (d : Dev) (n why : Nat) : Dev :=
  (((d.set (STP_STAT_HSTATE n) 0).set (STP_FLT_HFAIL n) why).set (STP_FLT_HOME_FAIL n) 1).raise (stpSrc n 4)

/-- Homing, if it runs, fails with cause `why`. -/
def Dev.homeAbort (d : Dev) (n why : Nat) : Dev := if d.get (STP_STAT_STATE n) = 3 then d.homeFail n why else d

/-- The axis stops (R256): its targets are discarded; `e` stops it with E_DEC. -/
def Dev.axStop (d : Dev) (n : Nat) (e : Bool) : Dev :=
  (d.axisUpd n fun a => { a with hasTgt := false, hasV := false, stopped := true, eStop := e || a.eStop }).axPut n 4

/-- The axis goes to FAULT: bridges off, and a journal entry with the event that took it there, 1 STALL or 6 COIL (R266, R440). -/
def Dev.axFault (d : Dev) (n off : Nat) : Dev :=
  (((d.axHalt n).axBridgesOff n).axPut n 5).jnlFault (stpSrc n off) (A_STP_FLT n) (A_STP_STAT n)

/-- DS_TH in mV. -/
def Dev.dsTh (d : Dev) (n : Nat) : Nat := 100 * clampN 2 20 (d.get (STP_CHOP_DS_TH n))

/-- COIL_SHORT (R267): a switch of coil `e.1`, `e.2.1` ns into a phase in which it is on, has shown `e.2.2` mV for 250 ns: above
DS_TH, with the whole 250 ns from TBLANK after its on-edge on, it is a short. A coil with its switches off has no monitor. -/
def execCoilShort (n : Fin 12) (e : Bool × BitVec 32 × BitVec 32) (s : State) : Out :=
  s.main fun d =>
    let b := e.1
    if axLive (d.get (STP_STAT_STATE n)) && (d.coil n b).phase ≠ 0 && d.chopSees n (e.2.1.toNat - 250) && d.dsTh n < e.2.2.toNat then
      let d := (d.homeAbort n 5).set (if b then STP_FLT_SHORT_B n else STP_FLT_SHORT_A n) 1
      (d.raise (stpSrc n 6)).axFault n 6
    else d

/-- A stall of axis `n` (R262). -/
def Dev.axStall (d : Dev) (n : Nat) : Dev :=
  let act := d.get (STP_STALL_STALL_ACT n)
  let d := ((d.set (STP_FLT_STALL n) 1).set (STP_STAT_HOMED n) 0).raise (stpSrc n 1)
  let d := d.axisUpd n fun a => { a with stallRun := 0 }
  let homing : Bool := d.get (STP_STAT_STATE n) = 3
  let d := d.homeAbort n 4
  if act = 2 then d.axFault n 1
  else if act = 1 then d.axStop n true
  else if homing then d.axStop n false
  else d

/-! ## Stall detection (R260, R261) -/

/-- A valid window of coil `c` is published: duty, estimated back-EMF and LM; STALL_N in a row below STALL_TH are a stall
(R260, R262). With KE or the speed 0 the spec states no LM: a free value. -/
def Dev.loadPublish (d : Dev) (n : Nat) (c : Coil) : Dev :=
  let tot : Int := c.sumOn + c.sumOff
  let i := near (c.iSum * d.get (STP_COIL_RCOIL n) : Nat) (2047 * c.iN : Nat)
  let e := near ((2 * (c.sumOn : Int) - tot) * (d.get STP_VSTP_VSTP * 10000 : Nat)) tot - i
  let den : Int := d.get (STP_COIL_KE n) * 1000 * (d.getI (STP_VEL n)).natAbs
  let lm := if den = 0 then d.freeVal.toInt
    else near (e * 4096 * (2 ^ 32 * 256 * max 1 (d.get (STP_COIL_STEPS_REV n)) : Nat)) den
  let d := if den = 0 then d.drawn else d
  let lm := clampI (-32768) 32767 lm
  let d := (d.setI (STP_LOAD_LM n) lm).setI (STP_LOAD_E_EST n) (clampI (-32768) 32767 (near e 10000))
  let d := d.set (STP_LOAD_DUTY n) (min 65535 (near (c.sumOn * 65536 : Nat) tot).toNat)
  let d := d.set (STP_LOAD_CYCLES n) (min 65535 c.cycles)
  let low : Bool := d.bit (STP_STALL_STALL_EN n) && lm < d.get (STP_STALL_STALL_TH n)
  let d := d.axisUpd n fun a => { a with stallRun := if low then a.stallRun + 1 else 0 }
  d.when (low && clampN 1 255 (d.get (STP_STALL_STALL_N n)) ≤ (d.axisAt n).stallRun) (·.axStall n)

/-- A stall window of coil `c` closes: void with fewer than 4 cycles (R260). -/
def Dev.windowEnd (d : Dev) (n : Nat) (c : Coil) : Dev :=
  let d := d.axisUpd n fun a => { a with voided := c.cycles < 4 }
  let d := d.blindShow n
  if d.bit (STP_STAT_BLIND n) then d else d.loadPublish n c

/-- The coil target of axis `n` at the emitted address, × 2,047 (R247). -/
def Dev.coilTarget (d : Dev) (n : Nat) (b : Bool) : Int :=
  (d.coilI n : Int) * d.coilTab (d.get (STP_STAT_ADDR n) + if b then 256 else 0)

/-- The coil's target at the emitted address, with its chopper and the stall window: opened by a target from HYST / 2 to ZW % of the
current, kept through the sign change, closed beyond ZW % (R247, R248, R260). -/
def Dev.coilTick (d : Dev) (n : Nat) (b low : Bool) : Dev :=
  let i := d.coilI n
  let t := d.coilTarget n b
  let c := d.coil n b
  let d := if t = c.tgt then d else d.coilUpd n b fun c => { c with tgt := t, tgtAt := d.time }
  let near : Bool := 100 * t.natAbs ≤ clampN 5 50 (d.get (STP_STALL_ZW n)) * i * 2047
  let d :=
    if near && !c.window && !d.coilIdle n b then
      d.coilUpd n b fun c => { c with window := true, sumOn := 0, sumOff := 0, cycles := 0, iSum := 0, iN := 0 }
    else if !near && c.window then (d.coilUpd n b fun c => { c with window := false }).windowEnd n c
    else d
  let d := d.coilUpd n b fun c => if c.window && !d.coilIdle n b then { c with iSum := c.iSum + t.natAbs, iN := c.iN + 1 } else c
  if !(d.axisAt n).bridges then d
  else if d.coilIdle n b then d.coilUpd n b fun c => { c with phase := 0 }
  else if (d.coil n b).phase = 0 then d.chopOn n b low
  else d

/-! ## Profiles (R252, R253) -/

/-- `x` per second over one tick of 100 ns. -/
def perTick (x : Int) : Int := near x 10000000

/-- V_MAX in force: at most 8,000,000 microsteps/s. -/
def Dev.axVmax (d : Dev) (n : Nat) : Int := clampI 0 (8000000 * 2 ^ 32) (d.reg (A_STP_VMAX n)).toInt

/-- A limit register, 0 or more. -/
def Dev.axLim (d : Dev) (a : Nat) : Int := max 0 (d.reg a).toInt

/-- One tick of a trapezoidal change of velocity from `v` towards `vt`: by `a` away from 0 and by `e` towards it. -/
def trapStep (v vt a e : Int) : Int :=
  if v = vt then v
  else if 0 < v ∧ vt < v then max (max vt 0) (v - e)
  else if v < 0 ∧ v < vt then min (min vt 0) (v + e)
  else if v < vt then min vt (v + a)
  else max vt (v - a)

/-- The distance, in units of the fraction, in which speed `v` without acceleration comes to 0 under jerk `j` and deceleration `e`,
both above 0 (R253). -/
def jerkStop0 (v e j : Nat) : Nat :=
  if v * j ≤ e * e then v * isqrt (v * j) * 10000000 / j else v * 10000000 * (v * j + e * e) / (2 * e * j)

/-- The distance in which speed `v` with acceleration `a` comes to 0 under jerk `j` and deceleration `e` (R253): first the
acceleration falls to 0, or what is already behind of a deceleration is taken off. -/
def jerkStop (v : Nat) (a : Int) (e j : Nat) : Nat :=
  let b := a.natAbs
  let v1 := v + b * b / (2 * j)
  if v = 0 ∧ b = 0 then 0
  else if e = 0 ∨ j = 0 then 2 ^ 256
  else if 0 ≤ a then jerkStop0 v1 e j + (v * b * 10000000 / j + b * b * b * 10000000 / (3 * j * j))
  else jerkStop0 v1 e j - (v1 * b * 10000000 / j - b * b * b * 10000000 / (6 * j * j))

/-- From speed `v` with acceleration `x`, in 10^-7 of its register's unit, the speed can settle at `vt` without passing it and,
with a distance `left` given, come to rest within it (R253). -/
def jerkOk (v x e j vt : Int) (left : Option Int) : Bool :=
  let a := x / 10000000
  let w := v + x / 100000000000000
  decide (w + (if j = 0 then 0 else a * a.natAbs / (2 * j)) ≤ vt)
    && match left with
      | none => true
      | some l => decide (w + jerkStop w.toNat a e.toNat j.toNat ≤ l)

/-- The acceleration of the next tick along the motion: of one step of the jerk limit up, none and one down, the first that
`jerkOk` allows, within the limits `a` away from 0 and `e` towards it (R253). -/
def jerkPick (v acc a e j vt : Int) (left : Option Int) : Int :=
  let lo := max (acc - j) (-(10000000 * e))
  let hi := min (acc + j) (10000000 * a)
  let mid := max lo (min hi acc)
  if jerkOk v hi e j vt left then hi else if jerkOk v mid e j vt left then mid else lo

/-- From speed `v` away from the target, below 0, with acceleration `x` the axis can pass through rest with an acceleration within
A_MAX and come to rest within the distance `left` to the target: the acceleration either falls to 0 before the speed does, or what
is left of it, less the ground gained until then, allows it (R253). -/
def turnOk (v x a e j left : Int) : Bool :=
  let b := x / 10000000
  let m := max 0 (-(v + x / 100000000000000))
  if b ≤ 0 ∨ b * b ≤ 2 * j * m then true
  else
    let b0 : Int := isqrt (b * b - 2 * j * m).toNat
    decide (b0 * 10000000 + 2 * j ≤ 10000000 * a)
      && decide ((jerkStop 0 b0 e.toNat j.toNat : Int) ≤ left + m * (b - b0) * 10000000 / (3 * j))

/-- The acceleration of the next tick of a motion away from the target, towards which it turns without a halt (R253). -/
def turnPick (v acc a e j left : Int) : Int :=
  let lo := max (acc - j) (-(10000000 * a))
  let hi := min (acc + j) (10000000 * e)
  let mid := max lo (min hi acc)
  if turnOk v hi a e j left then hi else if turnOk v mid a e j left then mid else lo

/-- Axis `n` takes acceleration `x` along direction `s` (1 or −1); the speed `goal`, if one is given, is met when speed and
acceleration come within the last steps of it. -/
def Dev.jerkTake (d : Dev) (n : Nat) (s x : Int) (goal : Option Int) : Dev :=
  let j := d.axLim (A_STP_JMAX n)
  let w := s * d.getI (STP_VEL n) + x / 100000000000000
  let met : Bool := match goal with
    | some g => decide (x.natAbs ≤ 2 * j.natAbs) && decide ((w - g).natAbs ≤ 4 * j.natAbs / 100000000000000 + 4)
    | none => false
  let w' := if met then goal.getD 0 else clampI 0 (8000000 * 2 ^ 32) w
  (d.setI (STP_VEL n) (s * w')).axisUpd n fun r => { r with acc := if met ∨ w < 0 then 0 else s * x }

/-- The velocity of the next tick towards `vt` under PROFILE, with deceleration `e` per second; under the jerk limit it comes to 0
first where `vt` lies in the other direction (R253). -/
def Dev.axToward (d : Dev) (n : Nat) (vt e : Int) (jerk : Bool) : Dev :=
  let v := d.getI (STP_VEL n)
  let a := d.axLim (A_STP_AMAX n)
  if !jerk then (d.setI (STP_VEL n) (trapStep v vt (perTick a) (perTick e))).axisUpd n fun r => { r with acc := 0 }
  else
    let s : Int := if v < 0 ∨ (v = 0 ∧ vt < 0) then -1 else 1
    let g := max 0 (s * vt)
    d.jerkTake n s (jerkPick (s * v) (s * (d.axisAt n).acc) a e (d.axLim (A_STP_JMAX n)) g none) (some g)

/-- One whole microstep in the unit of the fraction. -/
def microstep : Int := 10000000 * 2 ^ 32

/-- What is left to `tgt` in the unit of the fraction. -/
def Dev.axLeft (d : Dev) (n : Nat) (tgt : Int) : Int :=
  let r := d.axisAt n
  (tgt - r.count) * microstep - r.frac

/-- A free choice between `lo` and `hi`. -/
def Dev.freeIn (d : Dev) (lo hi : Int) : Int := if hi ≤ lo then hi else lo + d.freeVal.toNat % (hi - lo + 1)

/-- The speed of the next tick towards a position `left` away, trapezoidal: at most what A_MAX, V_MAX and stopping with D_MAX allow,
and at least 127/128 of the acceleration and 199/200 of the speed, which keeps the motion within 1 % of the time-optimal one; the
choice between is free (R253, log entry 14). A speed that the limits do not allow comes down with D_MAX. -/
def Dev.trapSeek (d : Dev) (m left vmax a e : Int) : Int :=
  let top := min vmax ((isqrt (e * e + 8 * e * left).toNat - e) / 2)
  if top < m - e then m - e
  else
    let hi := min top (m + a)
    d.freeIn (max (m - e) (min (top - top / 200) (m + a - a / 128))) hi

/-- The velocity of the next tick of a motion away from the target, `left` away in direction `s`, under PROFILE; with the jerk
limit the acceleration is carried through rest (R253). -/
def Dev.axTurn (d : Dev) (n : Nat) (s left : Int) : Dev :=
  let dm := d.axLim (A_STP_DMAX n)
  if !d.bit (STP_CTL_PROFILE n) then d.axToward n 0 dm false
  else
    let v := s * d.getI (STP_VEL n)
    let x := turnPick v (s * (d.axisAt n).acc) (d.axLim (A_STP_AMAX n)) dm (d.axLim (A_STP_JMAX n)) left
    (d.setI (STP_VEL n) (s * (v + x / 100000000000000))).axisUpd n fun r => { r with acc := s * x }

/-- The velocity of the next tick towards position `tgt` (R253): a motion away from it turns; else trapezoidal, or with the jerk
limit, where each rise of the acceleration away from rest is between 255/256 and the whole of what the limits allow (log entry
14). -/
def Dev.axSeek (d : Dev) (n : Nat) (tgt : Int) (vmax : Int) : Dev :=
  let v := d.getI (STP_VEL n)
  let left := d.axLeft n tgt
  let dm := d.axLim (A_STP_DMAX n)
  let s : Int := if left < 0 then -1 else 1
  if v * left < 0 then d.axTurn n s left.natAbs
  else if d.bit (STP_CTL_PROFILE n) then
    let acc := s * (d.axisAt n).acc
    let x := jerkPick (s * v) acc (d.axLim (A_STP_AMAX n)) dm (d.axLim (A_STP_JMAX n)) vmax (some left.natAbs)
    let x := if 0 ≤ acc ∧ acc < x then d.freeIn (x - (x - acc) / 256) x else x
    d.drawn.jerkTake n s x none
  else
    let w := d.trapSeek (s * v) left.natAbs vmax (perTick (d.axLim (A_STP_AMAX n))) (perTick dm)
    (d.drawn.setI (STP_VEL n) (s * w)).axisUpd n fun r => { r with acc := 0 }

/-- The count moves by `w` units of the fraction. -/
def Dev.axMove (d : Dev) (n : Nat) (w : Int) : Dev :=
  d.axisUpd n fun r =>
    let p := r.frac + w
    { r with count := r.count + p / microstep, frac := p % microstep }

/-- Show position and direction. -/
def Dev.axShow (d : Dev) (n : Nat) : Dev :=
  let r := d.axisAt n
  let v := d.getI (STP_VEL n)
  let d := d.setReg (A_STP_POS n) (BitVec.ofInt 64 (r.count + r.shift))
  if v = 0 then d else d.setB (STP_STAT_DIR n) (v < 0)

/-! ## Limits and targets (R253, R255, R263) -/

/-- Input `k` has its active level under polarity bit `p` of POL. -/
def Dev.swActive (d : Dev) (n k p : Nat) : Bool := d.tb FIO_IN_RAW k = (d.get (STP_SW_POL n)).testBit p

/-- The home switch is active. -/
def Dev.homeActive (d : Dev) (n : Nat) : Bool := d.swActive n (d.get (STP_SW_HOME_DI n)) 0

/-- The enabled limit input on the positive or negative side is active. -/
def Dev.limActive (d : Dev) (n : Nat) (pos : Bool) : Bool :=
  if pos then d.bit (STP_SW_LIMP_EN n) && d.swActive n (d.get (STP_SW_LIMP_DI n)) 1
  else d.bit (STP_SW_LIMN_EN n) && d.swActive n (d.get (STP_SW_LIMN_DI n)) 2

/-- Motion in the direction of `x` is barred by an active limit. -/
def Dev.limBars (d : Dev) (n : Nat) (x : Int) : Bool := (0 < x && d.limActive n true) || (x < 0 && d.limActive n false)

/-- The velocity target in force in mode 1. -/
def Dev.axVt (d : Dev) (n : Nat) : Int :=
  let r := d.axisAt n
  let vt := if r.hasV then clampI (-(d.axVmax n)) (d.axVmax n) r.vt else 0
  if d.limBars n vt then 0 else vt

/-- A target in force asks axis `n` to move (R266). -/
def Dev.axWants (d : Dev) (n : Nat) : Bool :=
  let r := d.axisAt n
  match d.get (STP_CTL_MODE n) with
  | 0 => r.hasTgt && d.axLeft n r.tgt ≠ 0 && !d.limBars n (d.axLeft n r.tgt)
  | 1 => d.axVt n ≠ 0
  | 2 => r.follow ≠ r.count && !d.limBars n (r.follow - r.count)
  | _ => false

/-- A move starts from STANDSTILL with I_RUN (R248, R266). -/
def Dev.axGo (d : Dev) (n : Nat) : Dev :=
  if d.get (STP_STAT_STATE n) = 1 ∧ d.axWants n then
    let held := d.bit (STP_STAT_HOLDI n)
    let d := d.set (STP_STAT_HOLDI n) 0
    (d.when held (·.coilClamp n)).axPut n 2
  else d

/-- A position target in reported microsteps comes into force; one beyond an active limit is held at the count. -/
def Dev.axTarget (d : Dev) (n : Nat) (x : Int) : Dev :=
  let r := d.axisAt n
  let t := x - r.shift
  let t := if d.limBars n (t - r.count) then r.count else t
  (d.axisUpd n fun r => { r with hasTgt := true, tgt := t, stopped := false }).axGo n

/-- A velocity target comes into force. -/
def Dev.axSpeed (d : Dev) (n : Nat) (x : Int) : Dev :=
  (d.axisUpd n fun r => { r with hasV := true, vt := x, stopped := false }).axGo n

/-- POSITION_TARGET_WRITE (R253): in force while TGT_SRC is 0. -/
def Dev.axTgtWrite (d : Dev) (n : Nat) (v : BitVec 64) : Dev :=
  let d := d.setReg (A_STP_TGT n) v
  if d.bit (STP_CTL_TGT_SRC n) then d else d.axTarget n v.toInt

/-- POSITION_TARGET_WRITE (R253). -/
def execPositionTargetWrite (n : Fin 12) (v : BitVec 64) (s : State) : Out := s.byReg fun d => d.axTgtWrite n v

/-- A write of STP_VTGTn. -/
def Dev.axVtgtWrite (d : Dev) (n : Nat) (v : BitVec 64) : Dev :=
  let d := d.setReg (A_STP_VTGT n) v
  if d.bit (STP_CTL_TGT_SRC n) then d else d.axSpeed n v.toInt

/-- VELOCITY_TARGET_WRITE (R253). -/
def execVelocityTargetWrite (n : Fin 12) (v : BitVec 64) (s : State) : Out := s.byReg fun d => d.axVtgtWrite n v

/-- A write of STP_POSn changes the shift only; refused outside OFF and STANDSTILL (R12, R252, R272). -/
def Dev.axPosWrite (d : Dev) (n : Nat) (v : BitVec 64) : Dev :=
  if d.get (STP_STAT_STATE n) ≤ 1 then (d.axisUpd n fun r => { r with shift := v.toInt - r.count }).axShow n
  else if d.reg (A_STP_POS n) = v then d
  else d.count (STP_CNT_RWI_REF n)

/-- POSITION_WRITE (R252). -/
def execPositionWrite (n : Fin 12) (v : BitVec 64) (s : State) : Out := s.byReg fun d => d.axPosWrite n v

/-- Axis `n` at a swap of the group of its collector word TW, which the swap published if `new`: with TGT_SRC = 1 it reads a word
of AGE 0 as its target, after a stop only one that a new epoch publishes, and an axis in HOLD for that guarded word leaves it when
it is published (R255, R256, R297). -/
def Dev.axSwap1 (d : Dev) (n : Nat) (new : Bool) : Dev :=
  let w := d.get (STP_CTL_TW n)
  let d := if new ∧ (d.axisAt n).holdWhy.testBit 2 then d.axUnhold n 4 else d
  if d.outAge w ≠ 0 ∨ !d.bit (STP_CTL_TGT_SRC n) ∨ ((d.axisAt n).stopped ∧ !new) then d
  else if d.get (STP_CTL_MODE n) = 0 then d.axTarget n (divRound (d.outQ w) (2 ^ 32))
  else d.axSpeed n (d.outQ w)

/-- The axes whose collector word lies in the group that swaps, `own`, take the swap, which published the words `pub`. -/
def Dev.axSwap (d : Dev) (own : Nat → Bool) (pub : List Nat) : Dev :=
  d.each 12 fun n d => d.when (own (d.get (STP_CTL_TW n))) (·.axSwap1 n (pub.contains (d.get (STP_CTL_TW n))))

/-! ## Enable, disable and stop (R266) -/

/-- EN of axis `n` is written 1 (R266); a start-up fault that holds a group keeps the axes disabled (R74). -/
def Dev.axEnable (d : Dev) (n : Nat) : Dev :=
  if d.get (STP_STAT_STATE n) ≠ 0 then d
  else if d.bit STP_VSTP_UV_NOW || d.bit STP_VSTP_OV_NOW || d.bit HEM_STAT_HOLD || d.partHeld || d.get STP_HEMLIM_I_COIL_MAX = 0
      || fieldGet (d.reg (A_STP_FLT n)) 0 5 ≠ 0 then
    (d.set (STP_CTL_EN n) 0).count (STP_CNT2_EN_REF n)
  else
    let d := (((d.set (STP_CTL_EN n) 1).set (STP_STAT_BAND n) 0).set (STP_STAT_PENDING n) 0).set (STP_STAT_PEND n) 0
    let d := (d.set (STP_STAT_HOLDI n) 0).axisUpd n fun r => { r with holdWhy := 0, bridges := true, follow := r.count }
    let d := d.set (STP_STAT_ADDR n) (bandAddr 0 (d.axisAt n).count)
    (d.coilClamp n).axPut n 1

/-- AXIS_ENABLE (R266). -/
def execAxisEnable (n : Fin 12) (s : State) : Out := s.byReg fun d => d.axEnable n

/-- EN of axis `n` is written 0: bridges off at once. -/
def Dev.axDisable (d : Dev) (n : Nat) : Dev :=
  if d.get (STP_STAT_STATE n) = 0 then d.set (STP_CTL_EN n) 0
  else
    let d := ((d.homeAbort n 5).axHalt n).axBridgesOff n
    (d.set (STP_CTL_EN n) 0).axPut n 0

/-- AXIS_DISABLE (R266). -/
def execAxisDisable (n : Fin 12) (s : State) : Out := s.byReg fun d => d.axDisable n

/-- STOP of axis `n` is written 1: targets discarded, a moving axis decelerates under its profile (R256). -/
def Dev.axStopWrite (d : Dev) (n : Nat) : Dev :=
  let st := d.get (STP_STAT_STATE n)
  if st = 2 ∨ st = 3 then (d.homeAbort n 5).axStop n false
  else d.axisUpd n fun r => { r with hasTgt := false, hasV := false, stopped := true }

/-- AXIS_STOP (R256). -/
def execAxisStop (n : Fin 12) (s : State) : Out := s.byReg fun d => d.axStopWrite n

/-- HOME_GO of axis `n` is written 1 (R265). -/
def Dev.homeStart (d : Dev) (n : Nat) : Dev :=
  if d.get (STP_STAT_STATE n) = 1 ∧ d.get (STP_CTL_MODE n) = 3 then
    let held := d.bit (STP_STAT_HOLDI n)
    let d := ((d.set (STP_STAT_HOMED n) 0).set (STP_STAT_HSTATE n) 1).set (STP_STAT_HOLDI n) 0
    (d.when held (·.coilClamp n)).axPut n 3
  else d

/-- HOME_GO (R265). -/
def execHomeGo (n : Fin 12) (s : State) : Out := s.byReg fun d => d.homeStart n

/-- HOLD_CURRENT_TIMER (R248): HOLD_MS in STANDSTILL. -/
def execHoldCurrentTimer (n : Fin 12) (s : State) : Out :=
  s.onClk 2 fun d =>
    if d.get (STP_STAT_STATE n) = 1 ∧ !d.bit (STP_STAT_HOLDI n) then (d.set (STP_STAT_HOLDI n) 1).coilClamp n else d

/-! ## Switches (R263 to R265) -/

/-- DI_RAW_EDGE (R56): a raw level change of input `n` restarts its filter. -/
def execDiRawEdge (n : Fin 32) (level : Bool) (s : State) : Out := s.main fun d => d.diRaw n level

/-- Where axis `n` moves, by its sign: in mode 2 the way the count closes on the follow target, else that of v (R253, R254). -/
def Dev.axWay (d : Dev) (n : Nat) : Int :=
  if d.get (STP_CTL_MODE n) = 2 ∧ d.get (STP_STAT_STATE n) = 2 then d.axLeft n (d.axisAt n).follow else d.getI (STP_VEL n)

/-- Axis `n` moves towards an active limit: LIMP or LIMN latches, LIMIT is raised, and the axis stops with E_DEC, from the speed it
shows along its motion (log entry 124); a stop under way for that latch goes on (R263). -/
def Dev.limTrip (d : Dev) (n : Nat) : Dev :=
  let st := d.get (STP_STAT_STATE n)
  let x := d.axWay n
  let f := if 0 < x then STP_FLT_LIMP n else STP_FLT_LIMN n
  if (st ≠ 2 ∧ st ≠ 4) ∨ !d.limBars n x ∨ (st = 4 ∧ d.bit f ∧ (d.axisAt n).eStop) then d
  else
    let v : Int := (d.getI (STP_VEL n)).natAbs
    (((d.setI (STP_VEL n) (if x < 0 then -v else v)).set f 1).raise (stpSrc n 5)).axStop n true

/-- A limit of axis `n` other than its home input is active: homing fails with cause 3 and stops with E_DEC; a move towards the
limit latches it (R263 to R265). -/
def Dev.homeLimit (d : Dev) (n : Nat) : Dev :=
  let other (pos : Bool) : Bool :=
    d.limActive n pos && d.get (if pos then STP_SW_LIMP_DI n else STP_SW_LIMN_DI n) ≠ d.get (STP_SW_HOME_DI n)
  let v := d.getI (STP_VEL n)
  if d.get (STP_STAT_STATE n) ≠ 3 ∨ !(other true || other false) then d
  else
    let d := d.when (decide (0 < v) && other true) fun d => (d.set (STP_FLT_LIMP n) 1).raise (stpSrc n 5)
    let d := d.when (decide (v < 0) && other false) fun d => (d.set (STP_FLT_LIMN n) 1).raise (stpSrc n 5)
    (d.homeFail n 3).axStop n true

/-- LIMIT_SWITCH_EDGE (R263, R264): the raw edge of a limit input of axis `n` to its active level is acted on at once. -/
def execLimitSwitchEdge (n : Fin 12) (pos : Bool) (s : State) : Out :=
  s.onClk 2 fun d => if d.limActive n pos then (d.homeLimit n).limTrip n else d

/-- The latch of a homing is confirmed: the axis stops with D_MAX (R264). -/
def Dev.homeConfirm (d : Dev) (n : Nat) : Dev := d.set (STP_STAT_HSTATE n) 5

/-- HOME_SWITCH_EDGE (R264, R265): a raw edge of the home switch; the first to its active level in SEARCH, met in HOME_DIR,
latches the position, and every edge of the debounce restarts its timer. With DEB_US = 0 the latch is confirmed at once. -/
def execHomeSwitchEdge (n : Fin 12) (s : State) : Out :=
  s.onClk 2 fun d =>
    let v := d.getI (STP_VEL n)
    let back : Bool := if d.bit (STP_SW_HOME_DIR n) then 0 < v else v < 0
    if d.get (STP_STAT_STATE n) = 3 ∧ d.get (STP_STAT_HSTATE n) = 3 ∧ d.homeActive n ∧ !back then
      let r := d.axisAt n
      let d := (d.axisUpd n fun r => { r with homeLatch := r.count }).set (STP_STAT_HSTATE n) 4
      let d := d.setReg (A_STP_LATCH n) (BitVec.ofInt 64 (r.count + r.shift))
      if d.get (STP_SW_DEB_US n) = 0 then d.homeConfirm n else d
    else d

/-- HOME_DEBOUNCE_EXPIRE (R265): the switch has held its level for DEB_US: in DEBOUNCE the latch is confirmed or discarded,
in BACKOFF an inactive switch starts the travel after release. -/
def execHomeDebounceExpire (n : Fin 12) (s : State) : Out :=
  s.onClk 2 fun d =>
    let h := d.get (STP_STAT_HSTATE n)
    if d.get (STP_STAT_STATE n) ≠ 3 then d
    else if h = 4 then
      if d.homeActive n then d.homeConfirm n else (d.set (STP_STAT_HSTATE n) 3).count (STP_CNT_HOME_GLITCH n)
    else if h = 2 ∧ !d.homeActive n ∧ (d.axisAt n).homeRel.isNone then
      d.axisUpd n fun r => { r with homeRel := some r.count }
    else d

/-! ## Step and direction (R254) -/

/-- STEP_SCALE within 1 to 256. -/
def Dev.stepScale (d : Dev) (n : Nat) : Int := clampN 1 256 (d.get (STP_FOLLOW_STEP_SCALE n))

/-- STEP_EDGE (R254): a filtered rising edge of STEPn with the level of DIRn; a follow target towards an active limit is held at
the count (R263). -/
def execStepEdge (n : Fin 12) (dir : Bool) (s : State) : Out :=
  s.onClk 2 fun d =>
    let st := d.get (STP_STAT_STATE n)
    if d.get (STP_CTL_MODE n) ≠ 2 ∨ (st ≠ 1 ∧ st ≠ 2) ∨ d.bit (STP_FLT_LAG n) then d
    else
      let neg : Bool := dir != d.bit (STP_FOLLOW_DIR_INV n)
      let k := d.stepScale n
      let f := (d.axisAt n).follow + (if neg then -k else k)
      let f := if d.limBars n (f - (d.axisAt n).count) then (d.axisAt n).count else f
      let d := d.axisUpd n fun r =>
        { r with follow := f, stepNeg := neg,
                 edgeGap := match r.edgeAt with | some t => d.mono - t | none => 0, edgeAt := some d.mono }
      let r := d.axisAt n
      if d.get (STP_FOLLOW_LAG_MAX n) < (r.follow - r.count).natAbs then
        let d := ((d.set (STP_FLT_LAG n) 1).raise (stpSrc n 8)).axisUpd n fun r => { r with follow := r.count }
        d.axStop n true
      else d.axGo n

/-- v in mode 2: STEP_SCALE over the interval of the last two edges, or over the longer time since the last edge (R254), at most
8,000,000 microsteps/s (R252). -/
def Dev.stepSpeed (d : Dev) (n : Nat) : Int :=
  let r := d.axisAt n
  match r.edgeAt with
  | none => 0
  | some t =>
    let gap := max r.edgeGap (d.mono - t)
    let v := if gap = 0 ∨ r.edgeGap = 0 then 0 else min (8000000 * 2 ^ 32) (near (d.stepScale n * 2 ^ 32 * 1000000000) gap)
    if r.stepNeg then -v else v

/-! ## The motion tick (R252 to R265) -/

/-- The axis comes to rest in STANDSTILL. -/
def Dev.axRest (d : Dev) (n : Nat) : Dev :=
  ((d.set (STP_VEL n) 0).axisUpd n fun r => { r with acc := 0, eStop := false }).axPut n 1

/-- The velocity is taken and the count follows it; a target `tgt` is met when the step reaches it, or comes within 2^-16
microstep of it, slowly enough to stop within the tick. -/
def Dev.axStep (d : Dev) (n : Nat) (tgt : Option Int) : Dev :=
  let v := d.getI (STP_VEL n)
  match tgt with
  | none => d.axMove n v
  | some t =>
    let left := d.axLeft n t
    if ((left.natAbs ≤ v.natAbs ∧ 0 ≤ left * v) ∨ 65536 * left.natAbs ≤ microstep)
        ∧ v.natAbs ≤ 2 * (perTick (d.axLim (A_STP_DMAX n))).natAbs then
      (d.set (STP_VEL n) 0).axisUpd n fun r => { r with count := t, frac := 0, acc := 0 }
    else d.axMove n v

/-- The axis stands on `t`. -/
def Dev.axOn (d : Dev) (n : Nat) (t : Int) : Bool := d.axLeft n t = 0 && d.getI (STP_VEL n) = 0

/-- A tick in MOVING (R253, R254). -/
def Dev.moveTick (d : Dev) (n : Nat) : Dev :=
  let r := d.axisAt n
  let jerk := d.bit (STP_CTL_PROFILE n)
  match d.get (STP_CTL_MODE n) with
  | 0 =>
    let d := (d.axSeek n r.tgt (d.axVmax n)).axStep n (some r.tgt)
    if d.axOn n r.tgt then (d.axRest n).raise (stpSrc n 0) else d
  | 1 =>
    let vt := d.axVt n
    let d := (d.axToward n vt (d.axLim (A_STP_DMAX n)) jerk).axStep n none
    if vt = 0 ∧ d.getI (STP_VEL n) = 0 then d.axRest n else d
  | 2 =>
    let left := d.axLeft n r.follow
    let d := d.axMove n (clampI (-(d.axVmax n)) (d.axVmax n) left)
    let d := d.setI (STP_VEL n) (d.stepSpeed n)
    if d.axLeft n r.follow = 0 then d.axPut n 1 else d
  | _ => d.axRest n

/-- Homing moves at ±V_HOME; `back` moves opposite HOME_DIR. -/
def Dev.homeMove (d : Dev) (n : Nat) (back : Bool) : Dev :=
  let v := min (d.axVmax n) (d.axLim (A_STP_VHOME n))
  let vt := if d.bit (STP_SW_HOME_DIR n) != back then -v else v
  (d.axToward n vt (d.axLim (A_STP_DMAX n)) (d.bit (STP_CTL_PROFILE n))).axStep n none

/-- Microsteps travelled since the phase began, in its direction. -/
def Dev.homeGone (d : Dev) (n : Nat) (back : Bool) : Int :=
  let x := (d.axisAt n).count - (d.axisAt n).homeFrom
  if d.bit (STP_SW_HOME_DIR n) != back then -x else x

/-- HOME_DIST in microsteps. -/
def Dev.homeDist (d : Dev) (n : Nat) : Int := d.get (STP_HDIST_HOME_DIST n) * 256

/-- Homing phase `h` begins at the present count. -/
def Dev.homePhase (d : Dev) (n h : Nat) : Dev :=
  (d.set (STP_STAT_HSTATE n) h).axisUpd n fun r => { r with homeFrom := r.count, homeRel := none }

/-- Homing is done: HOMED, HOME_DONE, STANDSTILL (R265). -/
def Dev.homeDone (d : Dev) (n : Nat) : Dev :=
  (((d.set (STP_STAT_HSTATE n) 0).set (STP_STAT_HOMED n) 1).raise (stpSrc n 3)).axRest n

/-- A tick in HOMING (R264, R265). -/
def Dev.homeTick (d : Dev) (n : Nat) : Dev :=
  match d.get (STP_STAT_HSTATE n) with
  | 1 => d.homePhase n (if d.homeActive n then 2 else 3)
  | 2 =>
    let d := d.homeMove n true
    match (d.axisAt n).homeRel with
    | some c => if (d.get (STP_HDIST_BACKOFF n) : Int) ≤ ((d.axisAt n).count - c).natAbs then d.homePhase n 3 else d
    | none => if d.homeDist n ≤ d.homeGone n true ∧ d.homeActive n then (d.homeFail n 1).axStop n false else d
  | 3 =>
    let d := d.homeMove n false
    if d.homeDist n ≤ d.homeGone n false then (d.homeFail n 2).axStop n false else d
  | 4 => d.homeMove n false
  | 5 =>
    let d := (d.axToward n 0 (d.axLim (A_STP_DMAX n)) (d.bit (STP_CTL_PROFILE n))).axStep n none
    if d.getI (STP_VEL n) ≠ 0 then d
    else
      let d := d.axisUpd n fun r => { r with shift := (d.reg (A_STP_HPOS n)).toInt - r.homeLatch }
      if d.bit (STP_SW_RETURN n) then d.set (STP_STAT_HSTATE n) 6 else d.homeDone n
  | 6 =>
    let t := (d.axisAt n).homeLatch
    let d := (d.axSeek n t (d.axVmax n)).axStep n (some t)
    if d.axOn n t then d.homeDone n else d
  | _ => d

/-- A tick in STOPPING: E_DEC as a trapezoid, else D_MAX under the profile; a follow target is discarded (R256). -/
def Dev.stopTick (d : Dev) (n : Nat) : Dev :=
  let e := (d.axisAt n).eStop
  let dec := d.axLim (if e then A_STP_EDEC n else A_STP_DMAX n)
  let d := (d.axToward n 0 dec (!e && d.bit (STP_CTL_PROFILE n))).axStep n none
  if d.getI (STP_VEL n) = 0 then (d.axisUpd n fun r => { r with follow := r.count }).axRest n else d

/-- A tick at rest: v follows the step edges in mode 2 and is 0 in the others (R254). -/
def Dev.restTick (d : Dev) (n : Nat) : Dev := d.setI (STP_VEL n) (if d.get (STP_CTL_MODE n) = 2 then d.stepSpeed n else 0)

/-- MOTION_TICK (R252 to R265): 100 ns of axis `n`: velocity, count, band, address, coil targets and stall windows; bit b of
`low` says that the bootstrap of coil b is below 7 V. -/
def execMotionTick (n : Fin 12) (low : BitVec 2) (s : State) : Out :=
  s.onClk 2 fun d =>
    let d := if d.get (STP_CTL_MODE n) = 2 then d else d.axisUpd n fun r => { r with follow := r.count }
    let d := ((d.axGo n).homeLimit n).limTrip n
    let d := match d.get (STP_STAT_STATE n) with
      | 1 => d.restTick n
      | 2 => d.moveTick n
      | 3 => d.homeTick n
      | 4 => d.stopTick n
      | _ => d
    let d := d.limTrip n
    if !axLive (d.get (STP_STAT_STATE n)) then d
    else
      let d := (d.axShow n).bandTick n (d.get (STP_STAT_STATE n) = 1)
      let d := d.set (STP_STAT_ADDR n) (bandAddr (d.get (STP_STAT_BAND n)) (d.axisAt n).count)
      let d := d.blindShow n
      (d.coilTick n false (low.getLsbD 0)).coilTick n true (low.getLsbD 1)

/-! ## Results of AUX1 (R251, R268) -/

/-- A result of AUX1 in the scan entry of a coil: `stamp` its domain time, `mean` its MEAN. An accepted one decides OPEN and
joins the offset batch (R251, R268). -/
def Dev.coilResult (d : Dev) (n : Nat) (b : Bool) (stamp mean : Nat) : Dev :=
  let c := d.coil n b
  if stamp < c.tgtAt ∨ 2 * c.tgt.natAbs < 2047 * d.coilI n then d
  else
    let want : Int := 64 * c.tgt.natAbs * d.rShunt n * 1024
    let got : Int := mean * 2047 * 1000000
    if c.openDue ∧ 10 * got < want ∧ axLive (d.get (STP_STAT_STATE n)) then
      let d := d.coilUpd n b fun c => { c with openDue := false }
      let d := (d.homeAbort n 5).set (if b then STP_FLT_OPEN_B n else STP_FLT_OPEN_A n) 1
      (d.raise (stpSrc n 6)).axFault n 6
    else
      let d := d.coilUpd n b fun c => { c with openDue := false }
      if !d.bit (STP_OFS_OFS_EN n) then d
      else if c.errN < 15 then d.coilUpd n b fun c => { c with errSum := c.errSum + (want - got), errN := c.errN + 1 }
      else
        let k : Int := clampN 0 8 (d.get (STP_OFS_KOFF n))
        let stp := divRound (k * (c.errSum + (want - got))) (8 * 16 * 64 * 2047 * 1000000)
        let m : Int := clampN 0 127 (d.get (STP_OFS_OFF_MAX n))
        let d := d.setI (offsetFld n b) (clampAbs m (d.getI (offsetFld n b) + stp))
        d.coilUpd n b fun c => { c with errSum := 0, errN := 0 }

/-! ## VSTP (R246) -/

/-- VSTP_FAULT (R246): VSTP, `v` in 10 mV, has stayed below UV or above OV for 10 µs; each axis that enters HOLD counts (R272). -/
def execVstpFault (v : BitVec 16) (s : State) : Out :=
  s.main fun d =>
    let d := d.set STP_VSTP_VSTP v.toNat
    let under : Bool := v.toNat < 25 * d.get STP_VSTP_UV
    let high : Bool := 25 * d.get STP_VSTP_OV < v.toNat
    if !under && !high then d
    else
      let d := (d.setB STP_VSTP_UV_NOW under).setB STP_VSTP_OV_NOW high
      let d := (d.when under (·.set STP_VSTP_UV_SEEN 1)).when high (·.set STP_VSTP_OV_SEEN 1)
      d.each 12 fun n d => (d.when (axLive (d.get (STP_STAT_STATE n))) (·.count STP_VSTP_FAULTS)).axHold n 2

/-- VSTP_RECOVERED (R246): VSTP has stayed between UV + 0.5 V and OV − 0.5 V for 10 ms. -/
def execVstpRecovered (v : BitVec 16) (s : State) : Out :=
  s.main fun d =>
    let d := d.set STP_VSTP_VSTP v.toNat
    if v.toNat < 25 * d.get STP_VSTP_UV + 50 ∨ 25 * d.get STP_VSTP_OV < v.toNat + 50 then d
    else
      let d := (d.set STP_VSTP_UV_NOW 0).set STP_VSTP_OV_NOW 0
      d.each 12 fun n d => d.axUnhold n 2

/-! ## Registers and engine inputs -/

/-- 1s written to STP_FLTn clear the bits whose cause has gone: a limit once inactive (R269). -/
def Dev.axFltClear (d : Dev) (n mask : Nat) : Dev :=
  let live := (if d.limActive n true then 32 else 0) + (if d.limActive n false then 64 else 0)
  let m := mask % 512
  let d := d.setReg (A_STP_FLT n) (d.reg (A_STP_FLT n) &&& ~~~BitVec.ofNat 64 (m - (m &&& live)))
  d

/-- Item `k` of IN class 5 for axis `n`, before saturation (R270). -/
def Dev.axItem (d : Dev) (n k : Nat) : Int :=
  match k with
  | 0 => (d.reg (A_STP_POS n)).toInt * 2 ^ 32
  | 1 => d.getI (STP_VEL n)
  | 2 => if d.bit (STP_STAT_BLIND n) then 0 else d.getI (STP_LOAD_LM n) * 2 ^ 20
  | _ => d.get (STP_STAT_STATE n) * 2 ^ 32

end Sys2Proof.Machine
end

