-- ==== Sys2Proof/Machine/Engine.lean ====
section
/-!
DEFINITION. Machine/Engine.lean: the control engine: the operations of a slice, groups and epochs, the set-point collector
and tuning (chapter 09; R199 to R221).
-/
namespace Sys2Proof.Machine

/-! ## Slices -/

/-- The state of slice `n`: 0 IDLE, 1 WAIT, 2 RUNNING, 3 LATE, 4 HALTED. -/
def Dev.slState (d : Dev) (n : Nat) : Nat := d.get (CEN_SSTAT_STATE n)

/-- The epoch group of slice `n`. -/
def Dev.slGroup (d : Dev) (n : Nat) : Nat := d.get (CEN_SCFG_GROUP n)

/-- The slices of group `g`. -/
def Dev.members (d : Dev) (g : Nat) : List Nat := (List.range 64).filter fun n => d.slGroup n = g

/-- State word `w` of slice `n`. -/
def Dev.stw (d : Dev) (n w : Nat) : Int := (d.reg (A_CEN_ST n (w % 256))).toInt

/-- Write a state word. -/
def Dev.stwPut (d : Dev) (n w : Nat) (v : BitVec 64) : Dev := d.setReg (A_CEN_ST n (w % 256)) v

/-- The START flag of slice `n` (R208). -/
def Dev.slStart (d : Dev) (n : Nat) : Bool := d.bit (CEN_SSTAT_START n)

/-- FLT of slice `n` for a counted fault of kind `kind`, at most once per 1 ms, while EVT_FLT is set; the groups that it triggers
see each fault in any case (R204, R221). -/
def Dev.slFlt (d : Dev) (n kind : Nat) : Dev :=
  if d.bit (CEN_SCFG_EVT_FLT n) then d.raiseLim (273 + 2 * n) kind ms1 else d.trigCause (273 + 2 * n)

/-- Scoreboard entries an operation in flight holds: one per destination word, one for a MAC, MSU or assist operation. -/
def Flight.holds (f : Flight) : Nat := max 1 f.dsts.length

/-- Scoreboard entries in use in slice `n` (R200). -/
def Dev.sbUsed (d : Dev) (n : Nat) : Nat := (d.slcAt n).flight.foldl (fun k f => k + f.holds) 0

/-- Replace the operations in flight and show the scoreboard. -/
def Dev.flightPut (d : Dev) (n : Nat) (l : List Flight) : Dev :=
  let d := d.slcUpd n fun s => { s with flight := l }
  d.set (CEN_SSTAT_SB n) (min 127 (d.sbUsed n))

/-- Saturations among the raw results `l` are counted (R202). -/
def Dev.slSats (d : Dev) (n : Nat) (l : List Int) : Dev := d.add (CEN_SCNT_SAT n) (l.countP overQ)

/-! ## Issue (R200, R201) -/

/-- The fields of an operation word. -/
structure Oper where
  d : Nat
  a : Nat
  b : Nat
  c : Nat
  aux : Nat
deriving DecidableEq, Repr

/-- The fields of the operation word `w`. -/
def operOf (w : BitVec 64) : Oper :=
  { d := fieldGet w 48 8, a := fieldGet w 40 8, b := fieldGet w 32 8, c := fieldGet w 24 8, aux := fieldGet w 0 24 }

/-- The operation slice `n` would issue next, if a run is under way and its code is `opc`. -/
def Dev.operNow (d : Dev) (n opc : Nat) : Option Oper :=
  let w := d.reg (A_CEN_PROG n (d.get (CEN_SSTAT_PC n)))
  if (d.slState n = 2 ∨ d.slState n = 3) ∧ fieldGet w 58 6 = opc then some (operOf w) else none

/-- No word of `l` is pending in slice `n`. -/
def Dev.noPending (d : Dev) (n : Nat) (l : List Nat) : Bool :=
  (d.slcAt n).flight.all fun f => f.dsts.all fun e => !(l.map (· % 256)).contains e.1

/-- The PC moves on by `k` operations. -/
def Dev.pcBy (d : Dev) (n k : Nat) : Dev := d.set (CEN_SSTAT_PC n) (d.get (CEN_SSTAT_PC n) + k)

/-- Issue operation `opc` of slice `n` if it is next and its words and scoreboard entries allow it (R200): `reads` and
`writes` its words, `need` the entries it takes, `f` its effect. -/
def Dev.issueBy (d : Dev) (n opc : Nat) (reads writes : Oper → List Nat) (need : Nat) (f : Oper → Dev → Dev) : Dev :=
  match d.operNow n opc with
  | none => d
  | some o =>
    if d.noPending n (reads o ++ writes o) && (need = 0 || d.sbUsed n + need ≤ 64) then (f o d).pcBy n 1 else d

/-- Issue an operation without a destination word, which takes no scoreboard entry (R200). -/
def Dev.issue0 (d : Dev) (n opc : Nat) (reads : Oper → List Nat) (f : Oper → Dev → Dev) : Dev :=
  d.issueBy n opc reads (fun _ => []) 0 f

/-- Issue a MAC or MSU, which takes one entry (R200). -/
def Dev.issueMac (d : Dev) (n opc : Nat) (f : Oper → Dev → Dev) : Dev :=
  d.issueBy n opc (fun o => [o.a, o.b]) (fun _ => []) 1 f

/-- Issue an operation that writes one word. -/
def Dev.issue1 (d : Dev) (n opc : Nat) (reads : Oper → List Nat) (f : Oper → Dev → Dev) : Dev :=
  d.issueBy n opc reads (fun o => [o.d]) 1 f

/-- A result of latency 1: saturated, counted, written. -/
def Dev.now1 (d : Dev) (n w : Nat) (raw : Int) : Dev := (d.slSats n [raw]).stwPut n w (qBits raw)

/-- Results that come later: saturated, counted, and put in flight (R200). -/
def Dev.later (d : Dev) (n : Nat) (l : List (Nat × Int)) : Dev :=
  let d := d.slSats n (l.map (·.2))
  d.flightPut n ((d.slcAt n).flight ++ [{ dsts := l.map fun e => (e.1 % 256, qBits e.2) }])

/-- An ALU operation on words a, b and c with latency 1. -/
def Dev.alu (d : Dev) (n opc : Nat) (reads : Oper → List Nat) (f : Int → Int → Int → Int) : Dev :=
  d.issue1 n opc reads fun o d => d.now1 n o.d (f (d.stw n o.a) (d.stw n o.b) (d.stw n o.c))

/-- Words a, and b, and c. -/
def rdA (o : Oper) : List Nat := [o.a]
/-- Words a and b. -/
def rdAB (o : Oper) : List Nat := [o.a, o.b]
/-- Words a, b and c. -/
def rdABC (o : Oper) : List Nat := [o.a, o.b, o.c]

/-- NOP (R201). -/
def execOpNop (n : Fin 64) (s : State) : Out :=
  s.onClk 1 fun d => d.issue0 n 0x00 (fun _ => []) fun _ d => d

/-- MOV (R201): d ← a. -/
def execOpMov (n : Fin 64) (s : State) : Out := s.onClk 1 fun d => d.alu n 0x01 rdA fun a _ _ => a

/-- ADD (R201): d ← a + b. -/
def execOpAdd (n : Fin 64) (s : State) : Out := s.onClk 1 fun d => d.alu n 0x02 rdAB fun a b _ => a + b

/-- SUB (R201): d ← a − b. -/
def execOpSub (n : Fin 64) (s : State) : Out := s.onClk 1 fun d => d.alu n 0x03 rdAB fun a b _ => a - b

/-- NEG (R201): d ← −a. -/
def execOpNeg (n : Fin 64) (s : State) : Out := s.onClk 1 fun d => d.alu n 0x04 rdA fun a _ _ => -a

/-- ABS (R201): d ← |a|. -/
def execOpAbs (n : Fin 64) (s : State) : Out := s.onClk 1 fun d => d.alu n 0x05 rdA fun a _ _ => a.natAbs

/-- MIN (R201): d ← min(a, b). -/
def execOpMin (n : Fin 64) (s : State) : Out := s.onClk 1 fun d => d.alu n 0x06 rdAB fun a b _ => min a b

/-- MAX (R201): d ← max(a, b). -/
def execOpMax (n : Fin 64) (s : State) : Out := s.onClk 1 fun d => d.alu n 0x07 rdAB fun a b _ => max a b

/-- CLAMP (R201): d ← min(max(a, b), c). -/
def execOpClamp (n : Fin 64) (s : State) : Out := s.onClk 1 fun d => d.alu n 0x08 rdABC fun a b c => min (max a b) c

/-- SEL (R201): d ← b if a ≥ 0, otherwise c. -/
def execOpSel (n : Fin 64) (s : State) : Out := s.onClk 1 fun d => d.alu n 0x09 rdABC fun a b c => if 0 ≤ a then b else c

/-- WRAP (R201): d ← a − round(a), in [−0.5, 0.5). -/
def execOpWrap (n : Fin 64) (s : State) : Out := s.onClk 1 fun d => d.alu n 0x0A rdA fun a _ _ => wrapQ a

/-! ## MAC unit, table, divide and CORDIC (R201, R202) -/

/-- MUL (R201): d ← a × b. -/
def execOpMul (n : Fin 64) (s : State) : Out :=
  s.onClk 1 fun d => d.issue1 n 0x10 rdAB fun o d => d.later n [(o.d, mulQ (d.stw n o.a) (d.stw n o.b))]

/-- `x` held in Q64.64. -/
def satAcc (x : Int) : Int := clampI (-(2 ^ 127)) (2 ^ 127 - 1) x

/-- The accumulator takes `x`, saturating at Q64.64, and a MAC operation is in flight. -/
def Dev.macPut (d : Dev) (n : Nat) (x : Int) : Dev :=
  let d := d.when (satAcc x ≠ x) (·.count (CEN_SCNT_SAT n))
  let d := d.slcUpd n fun s => { s with acc := satAcc x }
  d.flightPut n ((d.slcAt n).flight ++ [{ mac := true }])

/-- MAC (R201): acc ← acc + a × b, exact. -/
def execOpMac (n : Fin 64) (s : State) : Out :=
  s.onClk 1 fun d =>
    d.issueMac n 0x11 fun o d => d.macPut n ((d.slcAt n).acc + d.stw n o.a * d.stw n o.b)

/-- MSU (R201): acc ← acc − a × b, exact. -/
def execOpMsu (n : Fin 64) (s : State) : Out :=
  s.onClk 1 fun d =>
    d.issueMac n 0x12 fun o d => d.macPut n ((d.slcAt n).acc - d.stw n o.a * d.stw n o.b)

/-- No MAC or MSU of slice `n` is in flight: what ACCLD and ACCRD wait for (R200). -/
def Dev.macDone (d : Dev) (n : Nat) : Bool := (d.slcAt n).flight.all fun f => !f.mac

/-- ACCLD (R201): acc ← a. -/
def execOpAccld (n : Fin 64) (s : State) : Out :=
  s.onClk 1 fun d =>
    if !d.macDone n then d
    else d.issue0 n 0x13 rdA fun o d => d.slcUpd n fun s => { s with acc := d.stw n o.a * 2 ^ 32 }

/-- ACCRD (R201, R202): d ← acc, rounded to nearest Q32.32. -/
def execOpAccrd (n : Fin 64) (s : State) : Out :=
  s.onClk 1 fun d =>
    if !d.macDone n then d
    else d.issue1 n 0x14 (fun _ => []) fun o d => d.now1 n o.d (divRound (d.slcAt n).acc (2 ^ 32))

/-- Entries of the table of a TAB operation less one: AUX[9:0]. -/
def tabLast (o : Oper) : Nat := o.aux % 1024

/-- The words of the table of a TAB operation. -/
def rdTab (o : Oper) : List Nat := o.a :: (List.range (tabLast o + 1)).map (o.b + ·)

/-- Linear interpolation in the table `f` of `last` + 1 entries at index `x` clamped to [0, 1] over the whole table. -/
def tabAt (f : Nat → Int) (last : Nat) (x : Int) : Int :=
  let p := (clampI 0 q1 x).toNat * last
  let i := p / 2 ^ 32
  let r : Int := (p % 2 ^ 32 : Nat)
  if r = 0 then f i else near (f i * (2 ^ 32 - r) + f (i + 1) * r) (2 ^ 32)

/-- TAB (R201). -/
def execOpTab (n : Fin 64) (s : State) : Out :=
  s.onClk 1 fun d =>
    d.issue1 n 0x18 rdTab fun o d => d.later n [(o.d, tabAt (fun i => d.stw n (o.b + i)) (tabLast o) (d.stw n o.a))]

/-- The result of DIV (R202). -/
def divResult (a b : Int) : Int :=
  if b = 0 then (if a = 0 then 0 else if 0 < a then 2 ^ 63 - 1 else -(2 ^ 63)) else divQ a b

/-- A division by zero in slice `n` is counted (R202). -/
def Dev.divCount (d : Dev) (n : Nat) (b : Int) : Dev := d.when (b = 0) fun d => (d.count (CEN_SCNT2_DIV0 n)).slFlt n 3

/-- A square root of a negative value in slice `n` is counted (R202). -/
def Dev.rootCount (d : Dev) (n : Nat) (a : Int) : Dev := d.when (a < 0) fun d => (d.count (CEN_SCNT2_DOMAIN n)).slFlt n 4

/-- DIV (R201, R202): d ← a / b. -/
def execOpDiv (n : Fin 64) (s : State) : Out :=
  s.onClk 1 fun d =>
    d.issue1 n 0x20 rdAB fun o d =>
      let b := d.stw n o.b
      (d.divCount n b).later n [(o.d, divResult (d.stw n o.a) b)]

/-- SQRT (R201, R202): d ← √a. -/
def execOpSqrt (n : Fin 64) (s : State) : Out :=
  s.onClk 1 fun d =>
    d.issue1 n 0x21 rdA fun o d =>
      let a := d.stw n o.a
      (d.rootCount n a).later n [(o.d, sqrtQ a)]

/-- A CORDIC result: within 2^-30 of the exact value `x` (in 2^-`k` of a Q32.32 step), its bits inside that bound a fixed
function of the operation and its operands (R202, log entry 5). -/
def cordic (code : Nat) (a b : Int) (x : Int) (k : Nat) : Int :=
  let m : Int := 2 ^ k
  let lo := -((-(x - 4 * m)) / m)
  let hi := (x + 4 * m) / m
  clampI lo hi (divRound x m + Config.cordicErr code (BitVec.ofInt 64 a) (BitVec.ofInt 64 b))

/-- sin 2πa by CORDIC. -/
def cordicSin (a : Int) : Int := cordic 0 a 0 (sinTurn a) 64

/-- cos 2πa by CORDIC. -/
def cordicCos (a : Int) : Int := cordic 1 a 0 (sinTurn (a + 2 ^ 30)) 64

/-- atan2(a, b) / 2π by CORDIC, in [−0.5, 0.5) turn; 0 for (0, 0). -/
def cordicAtan (a b : Int) : Int := if a = 0 ∧ b = 0 then 0 else wrapQ (cordic 2 a b (atan2Turn a b) 32)

/-- √(a² + b²) by CORDIC; 0 for (0, 0). -/
def cordicMag (a b : Int) : Int :=
  if a = 0 ∧ b = 0 then 0
  else
    let n := a.natAbs * a.natAbs + b.natAbs * b.natAbs
    let r : Int := (isqrt n : Nat)
    let up : Int := if r * r = n then r else r + 1
    clampI (up - 4) (r + 4) ((sqrtNear n : Nat) + Config.cordicErr 3 (BitVec.ofInt 64 a) (BitVec.ofInt 64 b))

/-- SINCOS (R201, R202): d ← sin 2πa; d + 1 ← cos 2πa. -/
def execOpSincos (n : Fin 64) (s : State) : Out :=
  s.onClk 1 fun d =>
    d.issueBy n 0x24 rdA (fun o => [o.d, o.d + 1]) 2 fun o d =>
      let a := d.stw n o.a
      d.later n [(o.d, cordicSin a), (o.d + 1, cordicCos a)]

/-- ATAN2 (R201, R202). -/
def execOpAtan2 (n : Fin 64) (s : State) : Out :=
  s.onClk 1 fun d => d.issue1 n 0x25 rdAB fun o d => d.later n [(o.d, cordicAtan (d.stw n o.a) (d.stw n o.b))]

/-- MAG (R201, R202). -/
def execOpMag (n : Fin 64) (s : State) : Out :=
  s.onClk 1 fun d => d.issue1 n 0x26 rdAB fun o d => d.later n [(o.d, cordicMag (d.stw n o.a) (d.stw n o.b))]

/-! ## Loop features (R216 to R218) -/

/-- The words of a BIQ. -/
def rdBiq (o : Oper) : List Nat := [o.a, o.b, o.b + 1, o.b + 2, o.b + 3, o.b + 4, o.c, o.c + 1]

/-- BIQ: y, s1 and s2 before saturation (R216). The rounding inside is not stated (log entry 15). -/
def biq (start : Bool) (x b0 b1 b2 a1 a2 s1 s2 : Int) : Int × Int × Int :=
  if start then
    let den := q1 + a1 + a2
    let g := if den = 0 then q1 else ratioQ (b0 + b1 + b2) den
    let y := mulQ g x
    (y, y - mulQ b0 x, mulQ b2 x - mulQ a2 y)
  else
    let y := mulQ b0 x + s1
    (y, mulQ b1 x - mulQ a1 y + s2, mulQ b2 x - mulQ a2 y)

/-- BIQ (R216). -/
def execOpBiq (n : Fin 64) (s : State) : Out :=
  s.onClk 1 fun d =>
    d.issueBy n 0x28 rdBiq (fun o => [o.c, o.c + 1, o.d]) 3 fun o d =>
      let w := d.stw n
      let (y, s1, s2) := biq (d.slStart n) (w o.a) (w o.b) (w (o.b + 1)) (w (o.b + 2)) (w (o.b + 3)) (w (o.b + 4))
        (w o.c) (w (o.c + 1))
      d.later n [(o.c, s1), (o.c + 1, s2), (o.d, y)]

/-- RAMP (R217): the set-point starts at the measured value and moves towards its target by at most one step. -/
def execOpRamp (n : Fin 64) (s : State) : Out :=
  s.onClk 1 fun d =>
    d.issue1 n 0x29 (fun o => [o.a, o.b, o.c, o.d]) fun o d =>
      let w := d.stw n
      let y := if d.slStart n then w o.c else w o.d + clampI (-(w o.b)) (w o.b) (w o.a - w o.d)
      d.later n [(o.d, y)]

/-- PI: the output and the new integrator before saturation (R218). -/
def piLaw (e ff kp kit int lo hi man mv : Int) : Int × Int :=
  let p := mulQ kp e
  if man ≠ 0 then
    let y := clampI lo hi mv
    (y, y - p - ff)
  else
    let i := int + mulQ kit e
    let u := p + i + ff
    let i := if (hi < u ∧ 0 < e) ∨ (u < lo ∧ e < 0) then int else i
    (clampI lo hi (p + i + ff), i)

/-- PI (R218): the parameter block KP, KIT, INT, LO, HI, MAN, MV from word c. -/
def execOpPi (n : Fin 64) (s : State) : Out :=
  s.onClk 1 fun d =>
    d.issueBy n 0x2A (fun o => o.a :: o.b :: (List.range 7).map (o.c + ·)) (fun o => [o.c + 2, o.d]) 2 fun o d =>
      let w := d.stw n
      let (y, i) := piLaw (w o.a) (w o.b) (w o.c) (w (o.c + 1)) (w (o.c + 2)) (w (o.c + 3)) (w (o.c + 4)) (w (o.c + 5))
        (w (o.c + 6))
      d.later n [(o.c + 2, i), (o.d, y)]

/-! ## Inputs and outputs (R203) -/

/-- Item `k` of IN class 2 for port `p`. -/
def Dev.posItem (d : Dev) (p k : Nat) : Int :=
  if k = 3 then d.get (POS_STAT_SRC p) * 2 ^ 32 else d.posNow p k

/-- Item `k` of IN class 6 for group `g`. -/
def Dev.grpItem (d : Dev) (g k : Nat) : Int :=
  match k with
  | 0 => near ((d.egrAt g).gap * 2 ^ 32 : Nat) 1000000000
  | 1 => d.get (CEN_GSTAT_SEQ g) * 2 ^ 32
  | _ => ((d.egrAt g).trigT % 2 ^ 32 : Nat) * 2 ^ 32

/-- The value of input class `cls`, index `i`, for slice `n`, before saturation (R203). An index not listed is invalid
section content (R201) and reads a free value. -/
def Dev.inValue (d : Dev) (n cls i : Nat) : Int :=
  let j := i % 2 ^ 15
  match cls with
  | 0 => if i.testBit 15 then d.outAge (j % 512) * 2 ^ 32 else d.outQ (j % 512)
  | 1 =>
    let r := d.reg (A_ADC_RES (j / 64 % 8) (j % 64))
    if i.testBit 15 then (if r.getLsbD 23 then q1 else 0) else recCode r * 2 ^ 32
  | 2 => d.posItem (i / 4 % 4) (i % 4)
  | 3 => match d.cluItem (i / 16 % 2) (i % 16) with | some v => v.toInt | none => d.freeVal.toInt
  | 4 => d.get (AUX_RES_MEAN (i / 32 % 2) (i % 32)) * 2 ^ 28
  | 5 => d.axItem (i / 4 % 12) (i % 4)
  | 6 => d.grpItem (d.slGroup n) i
  | 7 => if d.tb FIO_IN_LEVEL (i % 32) then q1 else 0
  | _ => d.freeVal.toInt

/-- IN (R201, R203): d ← the input its AUX names, as it is in the cycle of issue. -/
def execOpIn (n : Fin 64) (s : State) : Out :=
  s.onClk 1 fun d =>
    d.issue1 n 0x30 (fun _ => []) fun o d => d.drawn.later n [(o.d, d.inValue n (o.aux / 2 ^ 16) (o.aux % 2 ^ 16))]

/-- OUT (R201): output slot AUX[2:0] ← a. -/
def execOpOut (n : Fin 64) (s : State) : Out :=
  s.onClk 1 fun d =>
    d.issue0 n 0x31 rdA fun o d =>
      d.slcUpd n fun s => { s with outs := Tab.insert (o.aux % 8) (d.reg (A_CEN_ST n o.a)) s.outs }

/-- JGE (R201): if a ≥ 0, skip the next AUX[9:0] operations. -/
def execOpJge (n : Fin 64) (s : State) : Out :=
  s.onClk 1 fun d =>
    d.issue0 n 0x38 rdA fun o d => if 0 ≤ d.stw n o.a then d.pcBy n (o.aux % 1024) else d

/-- Every due member of group `g` has presented its block in this epoch (R211); one that does not run, is halted or is late has
not, although it is due (R212). -/
def Dev.allPresented (d : Dev) (g : Nat) : Bool := (d.members g).all fun n => !(d.slcAt n).due || (d.slcAt n).onTime

/-- The epoch of group `g` closes once every due member has presented (R211). -/
def Dev.closeIf (d : Dev) (g : Nat) : Dev :=
  d.when ((d.egrAt g).live && d.allPresented g) (·.egrUpd g fun e => { e with closed := true })

/-- Slice `n` returns from a run: WAIT, or IDLE with RUN = 0 (R215), where it no longer asks for the engine clock (R27). -/
def Dev.slReturn (d : Dev) (n : Nat) : Dev := (d.set (CEN_SSTAT_STATE n) (if d.bit (CEN_SCFG_RUN n) then 1 else 0)).clkEval

/-- Spool channels of TYPE 2 record their state word at each END of slice `n` (R234). -/
def Dev.splEnd (d : Dev) (n : Nat) : Dev :=
  d.each 16 fun c d =>
    let sel := d.get (SPL_CHCFG_SEL c)
    d.when (d.splType c = 2 && sel / 256 % 64 = n)
      (·.splMade c [BitVec.ofNat 64 d.time, d.reg (A_CEN_ST n (sel % 256))])

/-- END (R210 to R215): with the scoreboard empty the run ends, `cyc` cycles after its first issue. An on-time block is
presented, a late one discarded; START of a run that began with it is cleared. -/
def execOpEnd (n : Fin 64) (cyc : BitVec 16) (s : State) : Out :=
  s.onClk 1 fun d =>
    match d.operNow n 0x3F with
    | none => d
    | some _ =>
      if (d.slcAt n).flight ≠ [] then d
      else
        let late : Bool := d.slState n = 3
        let d := (d.set (CEN_SSTAT_LAST_CYC n) cyc.toNat).set (CEN_SSTAT_MAX_CYC n) (max (d.get (CEN_SSTAT_MAX_CYC n)) cyc.toNat)
        let d := d.when (d.slcAt n).began (·.set (CEN_SSTAT_START n) 0)
        let d := (d.pcBy n 1).slReturn n
        let d := d.splEnd n
        if late then
          ((d.count (CEN_SCNT_LATE n)).slFlt n 1).slcUpd n fun s => { s with outs := [] }
        else
          let d := d.slcUpd n fun s => { s with block := some s.outs, outs := [], onTime := true }
          d.closeIf (d.slGroup n)

/-! ## Results of pipelined operations (R200) -/

/-- OPERATION_RESULT (R200): the `k`th operation in flight in slice `n` reaches its result cycle: its destination words
take their values and its scoreboard entries are free. The result of an assist operation goes to its request; one that
was squashed is discarded and counted (R229, R232). -/
def Dev.opResult (d : Dev) (n k : Nat) : Dev :=
  match (d.slcAt n).flight[k]? with
  | none => d
  | some f =>
    let d := d.flightPut n ((d.slcAt n).flight.eraseIdx k)
    match f.assist with
    | none => d.eachOf f.dsts fun e d => d.stwPut n e.1 e.2
    | some (p, id) =>
      if f.squashed then d.count (CEN_SCNT3_SQUASH n)
      else
        d.portUpd p fun q =>
          { q with out := q.out.map fun r => if r.id = id then { r with value := (f.dsts.head?.map (·.2)) } else r }

/-! ## Groups and epochs (R204 to R206, R215, R219, R226) -/

/-- The tune port whose commit field is shown in `CEN_TCTL` (port 4) or CEN_LASTAT. -/
def portBusy (p : Nat) : Fld := if p = 4 then CEN_TCTL_BUSY else CEN_LASTAT_BUSY p

/-- The RESULT field of port `p`. -/
def portResult (p : Nat) : Fld := if p = 4 then CEN_TCTL_RESULT else CEN_LASTAT_RESULT p

/-- The entries of a commit are written together; with RESTART the named slices' START flags are set (R219). -/
def Dev.tuneWrite (d : Dev) (c : Commit) : Dev :=
  d.eachOf c.entries fun e d =>
    let d := d.stwPut e.1 e.2.1 e.2.2
    d.when c.restart (·.set (CEN_SSTAT_START e.1) 1)

/-- The words that commits `l` write. -/
def commitWords (l : List Commit) : List (Nat × Nat) := l.flatMap fun c => c.entries.map fun e => (e.1, e.2.1)

/-- The waiting commits of group `g` are applied in port order, register port first; a word that an earlier port wrote at
this trigger is a collision of the later port (R219, R226). -/
def Dev.tuneApply (d : Dev) (g : Nat) : Dev :=
  let r := [4, 0, 1, 2, 3].foldl
    (fun (acc : Dev × List Commit) p =>
      match (acc.1.portAt p).wait with
      | none => acc
      | some c =>
        if c.grp ≠ g then acc
        else
          let hit := ((commitWords [c]).eraseDups.filter (commitWords acc.2).contains).length
          let d := acc.1.when (p < 4) (·.add (CEN_LACNT_COLLIDE p) hit)
          let d := (d.tuneWrite c).portUpd p fun q => { q with wait := none }
          ((d.set (portBusy p) 0).set (portResult p) 1, acc.2 ++ [c]))
    (d, [])
  r.1

/-- N of slice `n` (R206). -/
def Dev.slN (d : Dev) (n : Nat) : Nat := d.get (CEN_SCFG_DIVM1 n) + 1

/-- Slice `n` is due in the epoch whose count is `k`; one that does not run counts as due in every epoch (R206, R212). -/
def Dev.slDue (d : Dev) (n k : Nat) : Bool :=
  !d.bit (CEN_SCFG_RUN n) || k % d.slN n = d.get (CEN_SCFG_PHASE n) % d.slN n

/-- Slice `n` as an epoch of its group opens (R215). -/
def Dev.slOpen (d : Dev) (n : Nat) : Dev :=
  let k := (d.slcAt n).k
  let run := d.bit (CEN_SCFG_RUN n)
  let due := d.slDue n k
  let d := d.slcUpd n fun s => { s with due := due, onTime := false, k := k + 1 }
  match d.slState n with
  | 1 =>
    if !run then d.set (CEN_SSTAT_STATE n) 0
    else if due then
      let start := d.slStart n
      ((d.set (CEN_SSTAT_STATE n) 2).set (CEN_SSTAT_PC n) (d.get (CEN_SCFG_ENTRY n))).slcUpd n fun s =>
        { s with outs := [], began := start }
    else d
  | 3 => if due then (d.count (CEN_SCNT_SKIP n)).slFlt n 2 else d
  | _ => d

/-- A registered trigger of group `g` (R204). -/
def Dev.grpTrigger (d : Dev) (g : Nat) : Dev :=
  let e := d.egrAt g
  if e.cnt < d.get (CEN_GCFG_PRESC g) then d.egrUpd g fun e => { e with cnt := e.cnt + 1 }
  else
    let d := d.egrUpd g fun e => { e with cnt := 0 }
    let soon : Bool := match e.last with | some t => d.mono < t + 4990 | none => false
    if e.live || soon then d.count (CEN_GCNT_TRIG_LOST g)
    else
      let gap := match e.last with | some t => d.mono - t | none => 0
      let d := d.egrUpd g fun e =>
        { e with live := true, closed := false, regAt := d.mono, last := some d.mono, gap := gap, trigT := d.time,
                 pend := [] }
      let d := (d.set (CEN_GSTAT_SEQ g) ((d.get (CEN_GSTAT_SEQ g) + 1) % 2 ^ 32)).tuneApply g
      ((d.eachOf (d.members g) fun n d => d.slOpen n).closeIf g).clkEval

/-- GROUP_TRIGGER (R204): a trigger that the group's source has raised over the dedicated path is registered. -/
def execGroupTrigger (g : Fin 8) (s : State) : Out :=
  s.onClk 1 fun d =>
    if (d.egrAt g).trigs = 0 then d else (d.egrUpd g fun e => { e with trigs := e.trigs - 1 }).grpTrigger g

/-! ## Collector (R209 to R214) -/

/-- BLOCK_ACCEPT (R210): in one cycle the collector writes up to eight presented blocks, lowest slices first, to the pending
copies. -/
def Dev.accept (d : Dev) : Dev :=
  let l := ((List.range 64).filter fun n => (d.slcAt n).block.isSome).take 8
  d.eachOf l fun n d =>
    match (d.slcAt n).block with
    | none => d
    | some b =>
      let d := d.egrUpd (d.slGroup n) fun e =>
        { e with pend := b.foldl (fun p o => Tab.insert (8 * n + o.1) o.2 p) e.pend }
      d.slcUpd n fun s => { s with block := none }

/-- BLOCK_ACCEPT (R210). -/
def execBlockAccept (s : State) : Out := s.onClk 1 Dev.accept

/-- EPOCH_DEADLINE (R211): the epoch of group `g` closes, and running slices are late. -/
def execEpochDeadline (g : Fin 8) (s : State) : Out :=
  s.onClk 1 fun d =>
    let e := d.egrAt g
    if !e.live || e.closed then d
    else
      let d := (d.egrUpd g fun e => { e with closed := true }).count (CEN_GCNT_DL_CLOSE g)
      d.eachOf (d.members g) fun n d => d.when (d.slState n = 2) (·.set (CEN_SSTAT_STATE n) 3)

/-- Collector word `w` is guarded. -/
def Dev.guardedWord (d : Dev) (w : Nat) : Bool := d.tb (CEN_GUARD_MASK (w / 64)) (w % 64)

/-- Slice `n` owns a guarded word (R231, R287). -/
def Dev.guardedSlice (d : Dev) (n : Nat) : Bool := (List.range 8).any fun k => d.guardedWord (8 * n + k)

/-- The groups that consume word `w`: by a set-point pair of the image, or by a sensorless estimate (R297). -/
def Dev.wordGroups (d : Dev) (w : Nat) : List Nat :=
  d.allGroups.filter fun g =>
    (d.img.pair.any fun e => e.1 = g && e.2 = w / 2)
      || (match d.portOf g with | some p => d.get (POS_SLS_EST_IDX p) = w / 2 | none => false)

/-- Hem acts on a guard trip of word `w` (R297). -/
def Dev.hemGuard (d : Dev) (w : Nat) : Dev :=
  let d := ((d.count HEM_CNT_GUARD).set HEM_GUARD_LAST_WORD w).raise 740
  let d := d.jnlHem 740
  let d := d.eachOf (d.wordGroups w) fun g d => d.hemSafe g
  d.each 12 fun n d => d.when (d.get (STP_CTL_TW n) = w) (·.axHold n 4)

/-- Word `w` ages by one; a guarded word that reaches GUARD_AGE trips (R212, R214). -/
def Dev.ageWord (d : Dev) (w : Nat) : Dev :=
  let f := CEN_AGE_AGE (w / 8) (w % 8)
  let a := d.get f
  if a = 255 then d
  else
    let d := d.set f (a + 1)
    let n := w / 8
    let g := d.slGroup n
    if d.guardedWord w && a + 1 = max 1 (d.get (CEN_GCFG_GUARD_AGE g)) then
      ((d.count (CEN_GCNT_GUARD g)).raise (273 + 2 * n)).hemGuard w
    else d

/-- The speed commands of the position ports before a swap. -/
def Dev.speedCmds (d : Dev) : List Int := (List.range 4).map d.speedCmd

/-- The position ports that consume a word of group `g` take its swap, which published the words `pub` (R115, R116). -/
def Dev.posSwaps (d : Dev) (g : Nat) (pub : List Nat) (cmds : List Int) : Dev :=
  d.each 4 fun p d =>
    let own (w : Nat) : Bool := d.slGroup (w / 8) = g
    let w := 2 * d.get (POS_SLS_EST_IDX p)
    let est := own w
    let new := est && pub.contains w && pub.contains (w + 1)
    let cmd := d.img.speed.any fun e => e.1 = p && own e.2
    if est || (cmd && d.get (POS_STAT_SRC p) = 2) then d.posSwap p new (cmds.getD p 0) else d

/-- The swap of group `g` (R211, R212): the pending words are published with AGE 0, the other words of due members age,
due members without a block on time count OVERRUN, and the epoch is stamped. -/
def Dev.swap (d : Dev) (g : Nat) : Dev :=
  let e := d.egrAt g
  let cmds := d.speedCmds
  let ms := d.members g
  let d := d.setReg (A_CEN_GSTAMP g) (BitVec.ofNat 64 d.time)
  let d := d.set (CEN_GSTAT_PUB_NS g) (min (2 ^ 32 - 1) (d.mono - e.regAt))
  let d := d.eachOf e.pend fun p d => (d.setReg (A_CEN_OUT p.1) p.2).set (CEN_AGE_AGE (p.1 / 8) (p.1 % 8)) 0
  let d := d.egrUpd g fun e => { e with live := false, closed := false, pend := [] }
  let d := d.eachOf ms fun n d =>
    if !(d.slcAt n).due then d
    else
      let d := d.eachOf ((List.range 8).filter fun k => !e.pend.any fun p => p.1 = 8 * n + k) fun k d => d.ageWord (8 * n + k)
      if (d.slcAt n).onTime then d.raiseIf (d.bit (CEN_SCFG_EVT_PUB n)) (272 + 2 * n)
      else (d.count (CEN_SCNT_OVERRUN n)).slFlt n 0
  let d := d.each 16 fun c d =>
    let w := d.get (SPL_CHCFG_SEL c) % 512
    d.when (d.splType c = 3 && d.slGroup (w / 8) = g) (·.splMade c [d.reg (A_CEN_GSTAMP g), d.reg (A_CEN_OUT w)])
  let d := d.axSwap (fun w => d.slGroup (w / 8) = g) (e.pend.map (·.1))
  (d.posSwaps g (e.pend.map (·.1)) cmds).clkEval

/-- COLLECTOR_SWAP (R211): the group swaps once its epoch has closed and every on-time block is accepted. -/
def execCollectorSwap (g : Fin 8) (s : State) : Out :=
  s.onClk 1 fun d =>
    let e := d.egrAt g
    if e.live && e.closed && (d.members g).all fun n => (d.slcAt n).block.isNone then d.swap g else d

/-- TRIGGER_TIMEOUT (R205): TMO_US after an accepted trigger, or after the last timeout, the group counts TRIG_MISS and its words
age. -/
def execTriggerTimeout (g : Fin 8) (s : State) : Out :=
  s.onClk 1 fun d =>
    if d.get (CEN_GCFG_TMO_US g) = 0 ∨ (d.egrAt g).last.isNone then d
    else
      let cmds := d.speedCmds
      let d := d.count (CEN_GCNT_TRIG_MISS g)
      let d := d.eachOf (d.members g) fun n d => d.each 8 fun k d => d.ageWord (8 * n + k)
      d.posSwaps g [] cmds

/-! ## Control of slices and tuning (R208, R215, R219, R231, R287) -/

/-- RUN of slice `n` is written: from 0 to 1 it sets START and the epoch count, and IDLE goes to WAIT (R208, R215); the slice asks
for the engine clock, or no longer does (R27). -/
def Dev.slRunPut (d : Dev) (n : Nat) (run : Bool) : Dev :=
  let was := d.bit (CEN_SCFG_RUN n)
  let d := (d.setB (CEN_SCFG_RUN n) run).clkEval
  if run && !was then
    let d := (d.set (CEN_SSTAT_START n) 1).slcUpd n fun s => { s with k := 0 }
    d.when (d.slState n = 0) (·.set (CEN_SSTAT_STATE n) 1)
  else d

/-- A register write of RUN by origin `o`: RUN of a guarded slice is safety-classed, and a refused write is counted whatever it
writes (R287). -/
def Dev.slRun (d : Dev) (o : Origin) (n : Nat) (run : Bool) : Dev :=
  if d.guardedSlice n && !d.lockOrigin o then d.count HEM_CNT_CLASS_REF
  else d.slRunPut n run

/-- SLICE_RUN (R215, R287). -/
def execSliceRun (o : Origin) (n : Fin 64) (run : Bool) (s : State) : Out := s.byOrigin o fun d => d.slRun o n run

/-- SLICE_ECC_ERROR (R215, R220, R221): an uncorrectable error halts the slice; a correctable one is corrected and counted
(log entry 90). -/
def execSliceEccError (e : Fin 64 × Bool) (s : State) : Out :=
  s.onClk 1 fun d =>
    let n := e.1
    if e.2 then d.count (CEN_SCNT2_ECC_CORR n)
    else if d.slState n = 4 then d
    else
      let d := (d.set (CEN_SSTAT_STATE n) 4).slcUpd n fun s => { s with outs := [] }
      let d := (d.flightPut n []).clkEval
      (d.raise (273 + 2 * n)).jnlFault (273 + 2 * n) (A_CEN_SCNT2 n) (A_CEN_SSTAT n)

/-- The staged entries 0 to `count` − 1 of port `p` (R219, R225). -/
def Dev.tuneEntries (d : Dev) (p count : Nat) : List (Nat × Nat × BitVec 64) :=
  (List.range count).map fun k =>
    if p = 4 then (d.get (CEN_TADR_SLICE k), d.get (CEN_TADR_WORD k), d.reg (A_CEN_TDAT k))
    else
      match (d.portAt p).staged.find? fun e => e.1 = k with
      | some e => e.2
      | none => (0, 0, 0)

/-- State word `w` of slice `n` is tunable. -/
def Dev.tunable (d : Dev) (n w : Nat) : Bool := d.tb (CEN_TMASK_MASK n (w / 64)) (w % 64)

/-- The refusal code of a commit, 0 when it is taken (R219). -/
def Dev.tuneWhy (d : Dev) (p count : Nat) (es : List (Nat × Nat × BitVec 64)) : Nat :=
  if count = 0 ∨ 8 < count then 5
  else if d.bit (portBusy p) then 3
  else if es.any fun e => !d.tunable e.1 e.2.1 then 2
  else
    match es with
    | [] => 0
    | e :: t => if t.any fun f => d.slGroup f.1 ≠ d.slGroup e.1 then 4 else 0

/-- A tune commit of port `p` (R219, R225): refused whole with its code and a count, or waiting for the next accepted
trigger of the group; with no member running it is applied at once. -/
def Dev.tune (d : Dev) (p count : Nat) (restart : Bool) : Dev :=
  let es := d.tuneEntries p count
  let why := d.tuneWhy p count es
  if why ≠ 0 then (d.set (portResult p) why).count (if p = 4 then CEN_CCNT_TREF else CEN_LACNT_REFUSED p)
  else
    let g := match es with | e :: _ => d.slGroup e.1 | [] => 0
    let c : Commit := { grp := g, entries := es, restart := restart }
    if (d.members g).all fun n => !d.bit (CEN_SCFG_RUN n) then (d.tuneWrite c).set (portResult p) 1
    else (d.portUpd p fun q => { q with wait := some c }).set (portBusy p) 1

/-- TUNE_COMMIT (R219): COMMIT is written with COUNT and RESTART. -/
def execTuneCommit (count : BitVec 4) (restart : Bool) (s : State) : Out :=
  s.byReg fun d => ((d.set CEN_TCTL_COUNT count.toNat).setB CEN_TCTL_RESTART restart).tune 4 count.toNat restart

end Sys2Proof.Machine
end

