-- ==== Sys2Proof/Machine/Assist.lean ====
section
/-!
DEFINITION. Machine/Assist.lean: the loop-assist instructions of the application cores (R223 to R233) and the Spool trace
store (R234 to R241).
-/
namespace Sys2Proof.Machine

/-! ## Ports and core registers (R225, R230) -/

/-- The pair of core `c` is split. -/
def Dev.splitCore (d : Dev) (c : Nat) : Bool := d.pairState (c / 2) = 2

/-- The port of core `c` is in use: firmware runs, and it is the leading core of a lockstep pair or a split core (R69, R225,
R242). -/
def Dev.portAct (d : Dev) (c : Nat) : Bool := d.fwRuns && ((d.lockstep (c / 2) && c % 2 = 0) || d.splitCore c)

/-- Core `c` executes loop-assist instructions: firmware runs, its port is in use, and it is neither halted by the debugger, nor
waiting for a rejoin, nor in a self-test. -/
def Dev.coreRuns (d : Dev) (c : Nat) : Bool :=
  let p := d.pairAt (c / 2)
  d.portAct c && !d.tb DBG_STAT_HALTED c && p.rejoiner ≠ some (c % 2) && !p.selfTest.testBit (c % 2)

/-- Register `rd` of core `c`, or of both cores of its pair in lockstep, takes `v`; x0 stays 0 (R224, R230). -/
def Dev.xPut (d : Dev) (c rd : Nat) (v : BitVec 64) : Dev :=
  if rd = 0 then d
  else
    let one (c : Nat) (d : Dev) : Dev := d.portUpd c fun q => { q with x := Tab.put (fun _ => 0) q.x rd v }
    if d.lockstep (c / 2) then one (c / 2 * 2 + 1) (one (c / 2 * 2) d) else one c d

/-- Register `r` of core `c`, by its abstract register number, is written in both cores of a lockstep pair alike (R300, R301):
0x1000 to 0x101F are x0 to x31. -/
def Dev.coreRegPut (d : Dev) (c r : Nat) (v : BitVec 64) : Dev :=
  if 0x1000 ≤ r ∧ r < 0x1020 then d.xPut c (r - 0x1000) v
  else
    let one (c : Nat) (d : Dev) : Dev := d.portUpd c fun q => { q with sys := Tab.put (fun _ => 0) q.sys r v }
    if d.lockstep (c / 2) then one (c / 2 * 2 + 1) (one (c / 2 * 2) d) else one c d

/-- The value of register `r` of core `c` by its abstract register number (R300); x0 is 0. -/
def Dev.coreReg (d : Dev) (c r : Nat) : BitVec 64 :=
  if 0x1000 ≤ r ∧ r < 0x1020 then Tab.find (fun _ => 0) (d.portAt c).x (r - 0x1000) else Tab.find (fun _ => 0) (d.portAt c).sys r

/-- What CEN_LASTATc shows: the buffer, the outstanding computes and PORT_ACT beside BUSY and RESULT (R242). -/
def Dev.lastat (d : Dev) (c : Nat) : BitVec 64 :=
  let q := d.portAt c
  let w := fieldSet (d.reg (A_CEN_LASTAT c)) 12 4 q.buf.length
  let w := fieldSet w 10 2 q.out.length
  fieldSet w 9 1 (if d.portAct c then 1 else 0)

/-- What read instruction `k` (its funct7) of core `c` reads with rs1 = `v` (R224). -/
def Dev.laValue (d : Dev) (c k : Nat) (v : BitVec 64) : BitVec 64 :=
  match k with
  | 0 => d.reg (A_CEN_ST (fieldGet v 8 6) (fieldGet v 0 8))
  | 1 => d.reg (A_CEN_OUT (fieldGet v 0 9))
  | 2 => BitVec.ofNat 64 (d.outAge (fieldGet v 0 9))
  | 3 => BitVec.ofNat 64 (d.get (CEN_GSTAT_SEQ (fieldGet v 0 3)))
  | 4 => d.reg (A_CEN_SSTAT (fieldGet v 0 6))
  | _ => d.lastat c

/-! ## Compute instructions (R224, R232) -/

/-- The assist slice of core `c`. -/
def Dev.assistSlice (d : Dev) (c : Nat) : Nat := if c < 2 then d.get CEN_LACFG_ASSIST_A else d.get CEN_LACFG_ASSIST_B

/-- The result of compute instruction `op` on operands `a` and `b`, counted in slice `n` (R202, R224). -/
def Dev.assistResult (d : Dev) (n op : Nat) (a b : Int) : Dev × BitVec 64 :=
  let (d, raw) : Dev × Int :=
    match op with
    | 0 => (d.divCount n b, divResult a b)
    | 1 => (d.rootCount n a, sqrtQ a)
    | 2 => (d, cordicSin a)
    | 3 => (d, cordicCos a)
    | 4 => (d, cordicAtan a b)
    | _ => (d, cordicMag a b)
  (d.slSats n [raw], qBits raw)

/-- Assist operations in flight in slice `n`. -/
def Dev.assistBusy (d : Dev) (n : Nat) : Nat := ((d.slcAt n).flight.filter fun f => f.assist.isSome).length

/-- Request `r` of port `c` issues in its assist slice if the engine clock runs, the slice is not halted, has a free entry and fewer
than four assist operations in flight (R26, R232). -/
def Dev.assistIssue (d : Dev) (c : Nat) (r : LaReq) : Dev :=
  let n := d.assistSlice c
  if !d.clk 1 || r.issued || r.value.isSome || d.slState n = 4 || 64 ≤ d.sbUsed n || 4 ≤ d.assistBusy n then d
  else
    let (d, v) := d.assistResult n r.op r.a.toInt r.b.toInt
    let d := d.flightPut n ((d.slcAt n).flight ++ [{ dsts := [(256, v)], assist := some (c, r.id) }])
    d.portUpd c fun q => { q with out := q.out.map fun x => if x.id = r.id then { x with issued := true } else x }

/-- Waiting assist requests issue where they can, ports and requests in order. -/
def Dev.assistPump (d : Dev) : Dev :=
  d.each 4 fun c d => d.eachOf (d.portAt c).out fun r d => d.assistIssue c r

/-! ## Issue (R227, R228, R232) -/

/-- Instruction `i` of core `c` can issue: a read or compute with the commit buffer empty, a read with the engine clock running, a
compute with at most one outstanding, a write with room in the buffer (R227, R228, R232). -/
def Dev.laCan (d : Dev) (c : Nat) (i : LaOp) : Bool :=
  let q := d.portAt c
  match i with
  | .read .. => q.buf.isEmpty && d.clk 1
  | .compute .. => q.buf.isEmpty && q.out.length < 2
  | .write _ => q.buf.length < 8

/-- Instruction `i` of core `c` issues: a read takes its value into rd, a compute becomes outstanding, a write enters the commit
buffer (R224, R227, R232). -/
def Dev.laDo (d : Dev) (c : Nat) (i : LaOp) : Dev :=
  match i with
  | .read rd k v =>
    (d.portUpd c fun q => { q with reads := (rd, Tab.find (fun _ => 0) q.x rd) :: q.reads }).xPut c rd (d.laValue c k v)
  | .compute rd k a b =>
    d.portUpd c fun q =>
      { q with out := q.out ++ [{ id := q.next, rd := rd, op := k, a := a, b := b }], next := q.next + 1 }
  | .write w => d.portUpd c fun q => { q with buf := q.buf ++ [w] }

/-- The instructions of core `c` that wait at issue go in program order, at most `n` of them; a write that comes to the head, `new`,
and finds the buffer full is counted in STALL_CB (R227, log entry 48). -/
def Dev.laServe : Nat → Bool → Dev → Nat → Dev
  | 0, _, d, _ => d
  | n + 1, new, d, c =>
    match (d.portAt c).issue with
    | [] => d
    | i :: t =>
      if d.laCan c i then Dev.laServe n true ((d.portUpd c fun q => { q with issue := t }).laDo c i) c
      else
        match i with
        | .write _ => d.when new (·.count (CEN_LACNT_STALL_CB c))
        | _ => d

/-- Core `c`'s port goes on as far as it can, and the engine clock is requested while it has work (R27, R227, R228, R232). -/
def Dev.laPump (d : Dev) (c : Nat) : Dev :=
  (Dev.laServe (d.portAt c).issue.length false d c).assistPump.clkEval

/-- Core `c` issues instruction `i`, behind those that wait already (R227, R228, R232, log entry 91). -/
def Dev.laGo (d : Dev) (c : Nat) (i : LaOp) : Dev :=
  if !d.coreRuns c then d
  else
    let l := (d.portAt c).issue
    let d := d.portUpd c fun q => { q with issue := l ++ [i] }
    (Dev.laServe (l.length + 1) l.isEmpty d c).assistPump.clkEval

/-! ## Read and compute instructions (R224) -/

/-- LA.RDW (R224). -/
def execLaRdw (c : Fin 4) (rd : BitVec 5) (v1 : BitVec 64) (s : State) : Out :=
  s.onClk 0 fun d => d.laGo c (.read rd.toNat 0 v1)

/-- LA.RDOUT (R224). -/
def execLaRdout (c : Fin 4) (rd : BitVec 5) (v1 : BitVec 64) (s : State) : Out :=
  s.onClk 0 fun d => d.laGo c (.read rd.toNat 1 v1)

/-- LA.RDAGE (R224). -/
def execLaRdage (c : Fin 4) (rd : BitVec 5) (v1 : BitVec 64) (s : State) : Out :=
  s.onClk 0 fun d => d.laGo c (.read rd.toNat 2 v1)

/-- LA.RDSEQ (R224). -/
def execLaRdseq (c : Fin 4) (rd : BitVec 5) (v1 : BitVec 64) (s : State) : Out :=
  s.onClk 0 fun d => d.laGo c (.read rd.toNat 3 v1)

/-- LA.RDSST (R224). -/
def execLaRdsst (c : Fin 4) (rd : BitVec 5) (v1 : BitVec 64) (s : State) : Out :=
  s.onClk 0 fun d => d.laGo c (.read rd.toNat 4 v1)

/-- LA.TSTAT (R224). -/
def execLaTstat (c : Fin 4) (rd : BitVec 5) (s : State) : Out :=
  s.onClk 0 fun d => d.laGo c (.read rd.toNat 5 0)

/-- LA.DIV (R224). -/
def execLaDiv (c : Fin 4) (rd : BitVec 5) (v1 v2 : BitVec 64) (s : State) : Out :=
  s.onClk 0 fun d => d.laGo c (.compute rd.toNat 0 v1 v2)

/-- LA.SQRT (R224). -/
def execLaSqrt (c : Fin 4) (rd : BitVec 5) (v1 : BitVec 64) (s : State) : Out :=
  s.onClk 0 fun d => d.laGo c (.compute rd.toNat 1 v1 0)

/-- LA.SIN (R224). -/
def execLaSin (c : Fin 4) (rd : BitVec 5) (v1 : BitVec 64) (s : State) : Out :=
  s.onClk 0 fun d => d.laGo c (.compute rd.toNat 2 v1 0)

/-- LA.COS (R224). -/
def execLaCos (c : Fin 4) (rd : BitVec 5) (v1 : BitVec 64) (s : State) : Out :=
  s.onClk 0 fun d => d.laGo c (.compute rd.toNat 3 v1 0)

/-- LA.ATAN2 (R224). -/
def execLaAtan2 (c : Fin 4) (rd : BitVec 5) (v1 v2 : BitVec 64) (s : State) : Out :=
  s.onClk 0 fun d => d.laGo c (.compute rd.toNat 4 v1 v2)

/-- LA.MAG (R224). -/
def execLaMag (c : Fin 4) (rd : BitVec 5) (v1 v2 : BitVec 64) (s : State) : Out :=
  s.onClk 0 fun d => d.laGo c (.compute rd.toNat 5 v1 v2)

/-- OPERATION_RESULT (R200, R232): the `k`th operation in flight in slice `n` completes, and the entry it frees lets a
waiting assist request issue. -/
def execOperationResult (n : Fin 64) (k : Fin 64) (s : State) : Out := s.onClk 1 fun d => (d.opResult n k).assistPump

/-- ASSIST_RESULT_RETURN (R232, R233): the `j`th outstanding compute of core `c` returns: rd takes its result, or 0 with
HALTED counted when the assist slice is halted; a compute that waits at issue goes. Until it retires a squash reaches it (R229). -/
def execAssistResultReturn (c : Fin 4) (j : Fin 2) (s : State) : Out :=
  s.onClk 1 fun d =>
    match (d.portAt c).out[j.val]? with
    | none => d
    | some r =>
      let ret := (r.rd, Tab.find (fun _ => 0) (d.portAt c).x r.rd, if r.issued then some (d.assistSlice c) else none)
      let gone (d : Dev) : Dev := d.portUpd c fun q => { q with out := q.out.eraseIdx j, rets := ret :: q.rets }
      match r.value with
      | some v => ((gone d).xPut c r.rd v).laPump c
      | none =>
        if d.slState (d.assistSlice c) = 4 then (((gone d).xPut c r.rd 0).count (CEN_LACNT_HALTED c)).laPump c else d

/-! ## Write instructions and the commit buffer (R227, R231) -/

/-- LA.TSET (R224, R227). -/
def execLaTset (c : Fin 4) (v1 v2 : BitVec 64) (s : State) : Out := s.onClk 0 fun d => d.laGo c (.write (.tset v1 v2))

/-- LA.TCOMMIT (R224, R227). -/
def execLaTcommit (c : Fin 4) (v1 : BitVec 64) (s : State) : Out := s.onClk 0 fun d => d.laGo c (.write (.tcommit v1))

/-- LA.RUN (R224, R227). -/
def execLaRun (c : Fin 4) (v1 : BitVec 64) (s : State) : Out := s.onClk 0 fun d => d.laGo c (.write (.run v1))

/-- A write instruction of core `c` acts in the engine; RUN of a guarded slice only for a pair with the rights of lockstep (R224,
R231, R287). -/
def Dev.laAct (d : Dev) (c : Nat) (w : LaWrite) : Dev :=
  match w with
  | .tset a v =>
    let k := fieldGet a 16 3
    d.portUpd c fun q =>
      { q with staged := (k, fieldGet a 8 6, fieldGet a 0 8, v) :: q.staged.filter fun e => e.1 ≠ k }
  | .tcommit a => d.tune c (fieldGet a 0 4) (fieldGet a 4 1 = 1)
  | .run a =>
    let n := fieldGet a 0 6
    if d.guardedSlice n && !d.lockOrigin (.pair ⟨c / 2 % 2, Nat.mod_lt _ (by decide)⟩) then d.count (CEN_LACNT_REFUSED c) else d.slRunPut n (fieldGet a 8 1 = 1)

/-- COMMIT_BUFFER_SEND (R227): the oldest write of core `c`, retired, leaves for the engine, over its clock; no squash reaches the
reads and computes before it any more, and what waits at issue goes on. -/
def execCommitBufferSend (c : Fin 4) (s : State) : Out :=
  s.onClk 1 fun d =>
    match (d.portAt c).buf with
    | [] => d
    | w :: t => ((d.portUpd c fun q => { q with buf := t, reads := [], rets := [] }).laAct c w).laPump c

/-- A squash of a compute request (R229): withdrawn before issue, else its result is discarded. -/
def Dev.squashReq (d : Dev) (c j : Nat) : Dev :=
  match (d.portAt c).out[j]? with
  | none => d
  | some r =>
    let d := d.portUpd c fun q => { q with out := q.out.eraseIdx j }
    let n := d.assistSlice c
    if r.value.isSome then d.count (CEN_SCNT3_SQUASH n)
    else
      d.slcUpd n fun s =>
        { s with flight := s.flight.map fun f => if f.assist = some (c, r.id) then { f with squashed := true } else f }

/-- A squash of the `j`th returned compute: rd keeps the value it had, and the slice that worked counts the discarded result
(R229). -/
def Dev.squashRet (d : Dev) (c j : Nat) : Dev :=
  match (d.portAt c).rets[j]? with
  | none => d
  | some (rd, v, sl) =>
    let d := (d.portUpd c fun q => { q with rets := q.rets.eraseIdx j }).xPut c rd v
    let d := match sl with
      | some n => d.count (CEN_SCNT3_SQUASH n)
      | none => d
    d.count (CEN_LACNT_SQUASH c)

/-- SQUASH (R229): what core `c` had issued speculatively is dropped, withdrawn, discarded or removed, and counted: rd of the newest
read keeps the value it had. Of the instructions that wait at issue the youngest goes; a write among them never entered the buffer
and is not counted (log entry 91). -/
def execSquash (c : Fin 4) (what : Squash) (s : State) : Out :=
  s.onClk 0 fun d =>
    if !d.portAct c then d
    else
      let q := d.portAt c
      match what with
      | .read =>
        match q.reads with
        | [] => d
        | (rd, v) :: t => ((d.portUpd c fun q => { q with reads := t }).xPut c rd v).count (CEN_LACNT_SQUASH c)
      | .compute j => if j.val < q.out.length then ((d.squashReq c j).count (CEN_LACNT_SQUASH c)).laPump c
        else d.squashRet c (j - q.out.length)
      | .write j =>
        if j.val < q.buf.length then
          ((d.portUpd c fun q => { q with buf := q.buf.eraseIdx j }).count (CEN_LACNT_SQUASH c)).laPump c
        else d
      | .waiting =>
        let e := d.portUpd c fun q => { q with issue := q.issue.dropLast }
        match q.issue.getLast? with
        | none => d
        | some (.write _) => e
        | some _ => e.count (CEN_LACNT_SQUASH c)

/-! ## Encodings (R223, R224) -/

/-- The word of a loop-assist instruction: custom-0 in the R-type layout (R223). -/
def laWord (f7 rs2 rs1 f3 rd : Nat) : BitVec 32 :=
  BitVec.ofNat 32 (f7 * 2 ^ 25 + rs2 * 2 ^ 20 + rs1 * 2 ^ 15 + f3 * 2 ^ 12 + rd * 2 ^ 7 + 0x0B)

/-- The command that word `w` of core `c` spells, `v1` and `v2` the values of its registers rs1 and rs2: none for a word of another
opcode and for a custom-0 word that is not listed (R223, R224). -/
def laDecode (c : Fin 4) (w : BitVec 32) (v1 v2 : BitVec 64) : Option Instr :=
  let x := w.toNat
  let rd : BitVec 5 := BitVec.ofNat 5 (x / 2 ^ 7)
  if x % 128 ≠ 0x0B then none
  else
    match x / 2 ^ 12 % 8, x / 2 ^ 25 with
    | 0, 0 => some (.laRdw c rd v1)
    | 0, 1 => some (.laRdout c rd v1)
    | 0, 2 => some (.laRdage c rd v1)
    | 0, 3 => some (.laRdseq c rd v1)
    | 0, 4 => some (.laRdsst c rd v1)
    | 0, 5 => some (.laTstat c rd)
    | 1, 0 => some (.laDiv c rd v1 v2)
    | 1, 1 => some (.laSqrt c rd v1)
    | 1, 2 => some (.laSin c rd v1)
    | 1, 3 => some (.laCos c rd v1)
    | 1, 4 => some (.laAtan2 c rd v1 v2)
    | 1, 5 => some (.laMag c rd v1 v2)
    | 2, 0 => if rd = 0 then some (.laTset c v1 v2) else none
    | 2, 1 => if rd = 0 then some (.laTcommit c v1) else none
    | 2, 2 => if rd = 0 then some (.laRun c v1) else none
    | _, _ => none

/-- A custom-0 word is a loop-assist instruction (R223, R224). -/
def laListed (w : BitVec 32) : Bool := (laDecode 0 w 0 0).isSome

/-- What a loop-assist instruction asks of its core's port: the meaning of a decoded word (R224). -/
def laOp (i : Instr) : Option LaOp :=
  match i with
  | .laRdw _ rd v => some (.read rd.toNat 0 v)
  | .laRdout _ rd v => some (.read rd.toNat 1 v)
  | .laRdage _ rd v => some (.read rd.toNat 2 v)
  | .laRdseq _ rd v => some (.read rd.toNat 3 v)
  | .laRdsst _ rd v => some (.read rd.toNat 4 v)
  | .laTstat _ rd => some (.read rd.toNat 5 0)
  | .laDiv _ rd v u => some (.compute rd.toNat 0 v u)
  | .laSqrt _ rd v => some (.compute rd.toNat 1 v 0)
  | .laSin _ rd v => some (.compute rd.toNat 2 v 0)
  | .laCos _ rd v => some (.compute rd.toNat 3 v 0)
  | .laAtan2 _ rd v u => some (.compute rd.toNat 4 v u)
  | .laMag _ rd v u => some (.compute rd.toNat 5 v u)
  | .laTset _ v u => some (.write (.tset v u))
  | .laTcommit _ v => some (.write (.tcommit v))
  | .laRun _ v => some (.write (.run v))
  | _ => none

/-- The value of register `r` of core `c` as loop-assist instructions see it; x0 is 0. -/
def Dev.xGet (d : Dev) (c r : Nat) : BitVec 64 := Tab.find (fun _ => 0) (d.portAt c).x r

/-- Core `c` executes the custom-0 word `w`: a listed one is the instruction its funct3 and funct7 select, on the registers it
names; any other raises the illegal-instruction exception, which the model records (R223, R224, log entry 16). -/
def Dev.laExec (d : Dev) (c : Fin 4) (w : BitVec 32) : Dev :=
  let i := laDecode c w (d.xGet c (w.toNat / 2 ^ 15 % 32)) (d.xGet c (w.toNat / 2 ^ 20 % 32))
  match i.bind laOp with
  | some o => d.laGo c o
  | none => d.portUpd c fun q => { q with illegal := some w }

/-- ILLEGAL_INSTRUCTION (R223): core `c` comes to a custom-0 word; one that is not listed raises the exception when it would
retire. -/
def execIllegalInstruction (c : Fin 4) (w : BitVec 32) (s : State) : Out :=
  s.onClk 0 fun d => if w.toNat % 128 = 11 && d.coreRuns c then d.laExec c w else d

/-! ## Spool (R234 to R241) -/

/-- Bytes of a record of channel `c`. -/
def Dev.splSize (d : Dev) (c : Nat) : Nat := if d.splType c = 1 then 8 else 16

/-- Pages of the region of channel `c`. -/
def Dev.splPages (d : Dev) (c : Nat) : Nat := clampN 1 1024 (d.get (SPL_CHBUF_SIZE c))

/-- Records that the region of channel `c` holds. -/
def Dev.splCap (d : Dev) (c : Nat) : Nat := d.splPages c * 4096 / d.splSize c

/-- The enabled channels. -/
def Dev.splOn (d : Dev) : List Nat := (List.range 16).filter fun c => d.splType c ≠ 0

/-- The regions of channels `a` and `b` overlap. -/
def Dev.splOverlap (d : Dev) (a b : Nat) : Bool :=
  a ≠ b && d.get (SPL_CHBUF_BASE a) < d.get (SPL_CHBUF_BASE b) + d.splPages b
    && d.get (SPL_CHBUF_BASE b) < d.get (SPL_CHBUF_BASE a) + d.splPages a

/-- Why an ARM is refused; 0 when it is accepted (R237). -/
def Dev.armWhy (d : Dev) : Nat :=
  let on := d.splOn
  if on.isEmpty then 1
  else if on.any fun c => 1024 < d.get (SPL_CHBUF_BASE c) + d.splPages c then 2
  else if on.any fun a => on.any fun b => d.splOverlap a b then 3
  else if on.any fun c => d.splCap c < d.get (SPL_CHPP_PRE c) + d.get (SPL_CHPP_POST c) then 4
  else 0

/-- SPL_CTL.ARM is written 1 (R237, R239). -/
def Dev.splArm (d : Dev) : Dev :=
  let st := d.get SPL_STAT_STATE
  if st ≠ 0 ∧ st ≠ 4 then d
  else if d.armWhy ≠ 0 then (d.set SPL_STAT_ARM_ERR d.armWhy).count SPL_CNT_ARM_REF
  else
    let d := ((d.set SPL_STAT_STATE 1).set SPL_STAT_TRIGGED 0).set SPL_STAT_DONE 0
    let d := { d with splTurn := 0 }
    d.eachOf d.splOn fun c d =>
      (((d.set (SPL_CHST_WPTR c) 0).set (SPL_CHST_WRAP c) 0).set (SPL_CHCNT_RECORDS c) 0).setSch c {}

/-- ARM (R237). -/
def execArm (s : State) : Out := s.byReg Dev.splArm

/-- SPL_CTL.STOP is written 1 (R239). -/
def Dev.splStop (d : Dev) : Dev :=
  let st := d.get SPL_STAT_STATE
  if 1 ≤ st ∧ st ≤ 3 then d.set SPL_STAT_STATE 0 else d

/-- STOP (R239). -/
def execStop (s : State) : Out := s.byReg Dev.splStop

/-- SPL_CTL.FORCE is written 1 (R238, R239). -/
def Dev.splForce (d : Dev) : Dev :=
  let st := d.get SPL_STAT_STATE
  if st = 1 ∨ st = 2 then d.splFire else d

/-- FORCE (R238). -/
def execForce (s : State) : Out := s.byReg Dev.splForce

/-- The value of a record that the trigger level compares; event records have none (R238). -/
def Dev.splValue (d : Dev) (c : Nat) (rec : List (BitVec 64)) : Option Int :=
  match d.splType c with
  | 1 => some (signed 16 (rec.headD 0).toNat)
  | 5 => none
  | _ => some (rec.getD 1 0).toInt

/-- From `a` to `b` the records cross LEVEL in the direction of EDGE (R238). -/
def Dev.splCross (d : Dev) (a b : Int) : Bool :=
  let l := (d.reg A_SPL_TLEVEL).toInt
  let e := d.get SPL_TRIG_EDGE
  let up := a < l && l ≤ b
  let down := l ≤ a && b < l
  (e ≠ 2 && up) || (e ≥ 2 && down)

/-- A kept record of the trigger channel is compared with the one before it (R238). -/
def Dev.splLevel (d : Dev) (c : Nat) (rec : List (BitVec 64)) : Dev :=
  if d.get SPL_TRIG_KIND ≠ 2 ∨ d.get SPL_TRIG_CHAN ≠ c then d
  else
    match d.splValue c rec with
    | none => d
    | some v =>
      let hit := match (d.sch c).prev with | some a => d.splCross a v | none => false
      let d := d.setSch c { d.sch c with prev := some v }
      d.when hit Dev.splTrigger

/-- The address of the record at WPTR of channel `c` (R236). -/
def Dev.splAddr (d : Dev) (c : Nat) : Nat :=
  0x30000000 + d.get (SPL_CHBUF_BASE c) * 4096 + d.get (SPL_CHST_WPTR c) * d.splSize c

/-- The record `rec` is written at WPTR of channel `c`, and Spool moves on (R236, R239). -/
def State.splWrite (s : State) (c : Nat) (rec : List (BitVec 64)) : State :=
  let d := s.dev
  if !d.splRecording c then s
  else
    let i := d.get (SPL_CHST_WPTR c)
    let a := d.splAddr c
    let last := d.splCap c ≤ i + 1
    let d := (d.set (SPL_CHST_WPTR c) (if last then 0 else i + 1)).when last (·.set (SPL_CHST_WRAP c) 1)
    let d := d.count (SPL_CHCNT_RECORDS c)
    let d :=
      if d.get SPL_STAT_STATE = 1 ∧ d.splOn.all fun c => d.get (SPL_CHPP_PRE c) ≤ d.get (SPL_CHCNT_RECORDS c) then
        d.set SPL_STAT_STATE 2
      else if d.get SPL_STAT_STATE = 3 then
        (d.setSch c { d.sch c with post := (d.sch c).post + 1 }).splStopDone
      else d
    { s with mem := wrBytes s.mem a (rec.flatMap fun w => bytesLE 8 w.toNat), dev := d }

/-- The channel whose record is written next: the next in turn that has one (R236). -/
def Dev.splNext (d : Dev) : Option Nat :=
  ((List.range 16).map fun k => (d.splTurn + k) % 16).find? fun c => d.splRecording c && !(d.sch c).queue.isEmpty

/-- SPOOL_RECORD_WRITE (R236): the write port takes the oldest record of the next channel, in turn, that has one. -/
def State.splServe (s : State) : State :=
  let d := s.dev
  match d.splNext with
  | none => s
  | some c =>
    match (d.sch c).queue with
    | [] => s
    | rec :: t =>
      let d := Dev.setSch { d with splTurn := (c + 1) % 16 } c { d.sch c with queue := t }
      State.splWrite { s with dev := d.splLevel c rec } c rec

/-- SPOOL_RECORD_WRITE (R236). -/
def execSpoolRecordWrite (s : State) : Out := s.onClkMem 0 State.splServe

/-- A write of `n` bytes at `a` meets the region of a channel that records (R240). -/
def Dev.splMeets (d : Dev) (a n : Nat) : Bool :=
  (List.range 16).any fun c =>
    let lo := 0x30000000 + d.get (SPL_CHBUF_BASE c) * 4096
    d.splRecording c && a < lo + d.splPages c * 4096 && lo < a + n

/-- A core's write to Spool (R240). -/
def State.splStore (s : State) (a n v : Nat) : State :=
  if s.dev.splMeets a n then { s with dev := s.dev.count SPL_CNT_WR_REF } else { s with mem := wrLE s.mem a n v }

/-- SPOOL_MEMORY_WRITE (R240). -/
def execSpoolMemoryWrite (a : BitVec 40) (w : Width) (v : BitVec 64) (s : State) : Out :=
  s.byRegMem fun s =>
    if 0x30000000 ≤ a.toNat ∧ a.toNat + w.bytes ≤ 0x30400000 then s.splStore a.toNat w.bytes v.toNat else s

end Sys2Proof.Machine
end

