-- ==== Sys2Proof/Machine/Sys.lean ====
section
/-!
DEFINITION. Machine/Sys.lean: bus errors, the supplies, sleep and wake, the PLLs, the reference, and the resets of the
application side (chapters 01, 02 and 17; R25 to R35, R47, R74, R285, R286, R301, R444, R445, R473).
-/
namespace Sys2Proof.Machine

/-- BUS_ERROR_ACCESS (R9, R25): the access of origin `o` is counted by its kind and raises 749, whoever makes it. An
access that ends in no bus error changes nothing here, and one of an origin that makes no access takes no place. -/
def execBusErrorAccess (o : Origin) (a : BitVec 40) (w : Width) (wr : Bool) (s : State) : Out :=
  s.onClk 0 fun d =>
    match accessErr a.toNat w.bytes wr with
    | some e => d.when (d.originRuns o) (·.busErr e)
    | none => d

/-! ## Supplies -/

/-- VSUP_GOOD (R33): in OFF, a power-on reset. -/
def execVsupGood (s : State) : Out :=
  .next (if s.dev.pwr.off then { s.volatileLost with dev := s.dev.powerOn } else s)

/-- VSUP_DIP_START (R47): VHOLD supplies the module and is no longer charged. -/
def execVsupDipStart (s : State) : Out :=
  s.always fun d =>
    if d.pwr.off then d else { d with pwr := { d.pwr with vsupLow := true, charging := false, recovering := false } }

/-- The module is in SUPPLY_LOSS. -/
def Dev.inLoss (d : Dev) : Bool := d.pwr.lossInSleep || (!d.unpowered && d.get SYS_PWRSTATE_STATE = 4)

/-- VSUP_SAG_END (R444, R47): a dip that ended within 20 µs is counted, and VSUP takes over again at once. In SLEEP the
counter has no power and nothing charges. -/
def execVsupSagEnd (s : State) : Out :=
  s.always fun d =>
    if d.pwr.off || d.inLoss || !d.pwr.vsupLow then d
    else
      let d := { d with pwr := { d.pwr with vsupLow := false, charging := !d.pwr.asleep } }
      d.when (!d.pwr.asleep) (·.count JNL_PLOSS_SAGS)

/-- PLL A, B and C stop. -/
def Dev.pllStop (d : Dev) : Dev :=
  let d := d.each 3 fun p d => d.set (pllFld p) 0
  Dev.showFrozen { d with pwr := { d.pwr with pllHw := 0 } }

/-- The supply-loss sequence of R444: event, entry 0x41, Hem hold with the field outputs at high impedance, safe states,
bridges off, brake applied, PLLs stopped, the flush begun; and the discharge command of R448. -/
def Dev.lossSequence (d : Dev) (vhold : Nat) : Dev :=
  let d := ((d.set SYS_PWRSTATE_STATE 4).raise 750).count JNL_PLOSS_EVENTS
  let d := d.journal 0x41 750 0 [BitVec.ofNat 64 vhold, d.reg A_SYS_PWRSTATE]
  let d := { d with jnl := { d.jnl with budget := some 64, flushT0 := d.mono }, fio := { d.fio with lossHiz := true } }
  let held := d.bit HEM_STAT_HOLD
  let d := (d.set JNL_STAT_FLUSHING 1).hemHold 16 true
  let d := d.when held fun d => d.eachOf d.allGroups fun g d => d.hemSafe g
  let d := d.each 12 fun n d => d.axHold n 1
  let d := (d.brakeApply.brakeShow).pllStop
  d.when (d.bit THM_MISC_DIS_ON_LOSS) Dev.disCommand

/-- SUPPLY_LOSS_EVENT (R444, R33). A supply loss in SLEEP runs no sequence and writes no entry. -/
def execSupplyLossEvent (vholdMv : BitVec 16) (s : State) : Out :=
  s.always fun d =>
    if d.pwr.off || d.inLoss then d
    else
      let d := { d with pwr := { d.pwr with vsupLow := true, charging := false, belowMin := false, recovering := false } }
      if d.pwr.asleep then { d with pwr := { d.pwr with lossInSleep := true } }
      else d.lossSequence vholdMv.toNat

/-- VSUP_RETURN (R47): in SUPPLY_LOSS VSUP supplies the module again, charges VHOLD, and the 10 ms recovery runs. -/
def execVsupReturn (s : State) : Out :=
  s.always fun d =>
    if d.inLoss then { d with pwr := { d.pwr with vsupLow := false, charging := true, recovering := true } } else d

/-- VSUP_RECOVERY (R33), 10 ms after VSUP returned: a power-on reset if VHOLD fell below its minimum, else a main-domain reset. -/
def execVsupRecovery (s : State) : Out :=
  .next
    (if s.dev.inLoss && s.dev.pwr.recovering then
       let s := s.volatileLost
       if s.dev.pwr.belowMin then { s with dev := s.dev.powerOn }
       else { s with dev := s.dev.mainReset.set SYS_RSTCAUSE_SUPPLY_LOSS 1 }
     else s)

/-- VHOLD_BELOW_MINIMUM (R445, R33): in SUPPLY_LOSS, while VHOLD supplies the module (R47), the journal path closes its port,
which ends the flush, and a recovery is a power-on. -/
def execVholdBelowMinimum (s : State) : Out :=
  s.always fun d =>
    if d.inLoss && d.pwr.vsupLow then
      Dev.flushStop { d with pwr := { d.pwr with belowMin := true }, jnl := { d.jnl with portClosed := true } }
    else d

/-- VHOLD_EXHAUSTED (R47, R33): from SUPPLY_LOSS, while VHOLD supplies it, the module goes OFF; the always-on domain, Thimble and
the links stop. -/
def execVholdExhausted (s : State) : Out :=
  .next
    (if s.dev.inLoss && s.dev.pwr.vsupLow then
       let d := s.dev.powerOn
       { s.volatileLost with dev := { d with pwr := { d.pwr with off := true, charging := false } } }
     else s)

/-- VHOLD_GOOD (R74, R47): VHOLD has reached 30 V. -/
def execVholdGood (s : State) : Out := s.main fun d => d.set SYS_IMGSTAT_VHOLD_LOW 0

/-- VHOLD_LOW (R74): Thimble refuses every drive enable; a group that may make torque loses a release condition
(R314, R316). -/
def execVholdLow (s : State) : Out := s.main fun d => (d.set SYS_IMGSTAT_VHOLD_LOW 1).thmEvalAll

/-! ## Sleep and wake -/

/-- A gate channel is on: driven, turning off softly, in ASC or in a discharge run (condition 1 of SLEEP_REQ). -/
def Dev.anyGate (d : Dev) : Bool :=
  (List.range 14).any fun n =>
    let st := d.get (GCH_STAT_STATE n)
    (d.gchAt n).gate || st = 2 || st = 3 || st = 5 || st = 7

/-- An axis or a field output is on (condition 2). -/
def Dev.anyOutput (d : Dev) : Bool :=
  ((List.range 12).any fun n => d.get (STP_STAT_STATE n) ≠ 0)
    || ((List.range 14).any fun n =>
          (d.foAt n).drive ≠ 0 || (1 ≤ d.get (FIO_OSTAT_STATE n) && d.get (FIO_OSTAT_STATE n) ≤ 3))
    || d.thm.fo14 || d.thm.fo15

/-- A wake source is pending (R473). -/
def Dev.wakePending (d : Dev) : Bool :=
  (d.get SYS_WAKECFG_WAKE_MODE = 3 && d.pwr.wakeHigh) || (d.bit SYS_WAKECFG_NFC_EN && d.bit NFC_STAT_FIELD)
    || (d.bit SYS_WAKECFG_TMR_EN && d.get SYS_SLPTMR_TICKS = 0)

/-- The lowest code among the failed conditions of a sleep request; 0 when all hold (R33). -/
def Dev.sleepWhy (d : Dev) : Nat :=
  if d.anyGate then 1 else if d.anyOutput then 2 else if d.wakePending then 3 else if !d.sleepOk then 4 else 0

/-- A write of 1 to SYS_PWRCTL.SLEEP_REQ (R33): SLEEP_PREP flushes the journal, which goes on writing its queue, and releases
every clock request; SYS_CLKREQ keeps its bits, which ask for nothing meanwhile (log entry 76). -/
def Dev.sleepReq (d : Dev) : Dev :=
  if d.get SYS_PWRSTATE_STATE = 2 then
    if d.sleepWhy = 0 then (d.set SYS_PWRSTATE_STATE 3).clkEval
    else (d.count SYS_PWRCTL_SLP_REFUSED).set SYS_PWRCTL_REFUSE_WHY d.sleepWhy
  else d

/-- SLEEP_REQ (R33). -/
def execSleepReq (s : State) : Out := s.byReg Dev.sleepReq

/-- The flush and the clock stop of SLEEP_PREP are complete: the journal's queue is empty and no PLL runs. -/
def Dev.sleepPrepDone (d : Dev) : Bool :=
  d.jnl.queue.isEmpty && (List.range 3).all fun p => d.get (pllFld p) = 0 || d.get (pllFld p) = 4

/-- SLEEP_PREP_COMPLETE (R33): main-domain power is removed; a wake source pending at that instant aborts instead. Before the
flush and the clock stop are complete nothing takes place. -/
def execSleepPrepComplete (s : State) : Out :=
  .next
    (if s.dev.unpowered || s.dev.get SYS_PWRSTATE_STATE ≠ 3 then s
     else if s.dev.wakePending then
       let d := s.dev
       let d := if d.get SYS_WAKECFG_WAKE_MODE = 3 && d.pwr.wakeHigh then d.setBits SYS_WAKECAUSE_WAKE 1 else d
       let d := if d.bit SYS_WAKECFG_NFC_EN && d.bit NFC_STAT_FIELD then d.setBits SYS_WAKECAUSE_NFC 1 else d
       let tmr := d.bit SYS_WAKECFG_TMR_EN && d.get SYS_SLPTMR_TICKS = 0
       { s with dev := d.wake SYS_WAKECAUSE_TMR (if tmr then 1 else 0) }
     else if !s.dev.sleepPrepDone then s
     else
       let d := s.dev.mainReset
       { s.volatileLost with dev := { d with pwr := { d.pwr with asleep := true, charging := false } } })

/-- CAN_WAKE_PATTERN on transceiver `n` (R32, R364): an enabled one wakes the module or aborts SLEEP_PREP; while the
module runs with the transceiver in standby, WAKE of the controller is raised. -/
def execCanWakePattern (n : Fin 4) (s : State) : Out :=
  s.always fun d =>
    if d.tb SYS_WAKECFG_CAN_EN n && !d.unpowered && d.wokeNow then d.wake SYS_WAKECAUSE_CAN (2 ^ n.val)
    else if d.sleeping || (!d.unpowered && d.get SYS_PWRSTATE_STATE = 3) then
      if d.tb SYS_WAKECFG_CAN_EN n then d.wake SYS_WAKECAUSE_CAN (2 ^ n.val) else d
    else if !d.unpowered && d.get (CAN_CTL_TRX_MODE n) = 0 then d.raise (520 + 16 * n + 15)
    else d

/-- WAKE_PIN_ACCEPTED (R32): the WAKE pin is accepted at `level`. -/
def execWakePinAccepted (level : Bool) (s : State) : Out :=
  s.always fun d =>
    if d.pwr.off then d
    else
      let m := d.get SYS_WAKECFG_WAKE_MODE
      let rose := level && !d.pwr.wakeHigh
      let fell := !level && d.pwr.wakeHigh
      let d := { d with pwr := { d.pwr with wakeHigh := level } }
      if (m = 1 && rose) || (m = 2 && fell) || (m = 3 && level) then d.wake SYS_WAKECAUSE_WAKE 1 else d

/-- SLEEP_TIMER_EXPIRY (R32). -/
def execSleepTimerExpiry (s : State) : Out :=
  s.always fun d => if d.bit SYS_WAKECFG_TMR_EN && !d.pwr.off then d.wake SYS_WAKECAUSE_TMR 1 else d

/-! ## PLLs and reference -/

/-- Set or clear the request of hardware or firmware on PLL `p`. -/
def Dev.pllMark (d : Dev) (p : Nat) (fw on : Bool) : Dev :=
  if fw then d.setB (pllReqFld p) on
  else
    { d with pwr := { d.pwr with
      pllHw := if on then d.pwr.pllHw ||| 2 ^ p else d.pwr.pllHw - (d.pwr.pllHw &&& 2 ^ p) } }

/-- A PLL request is made or released: one of firmware is a write of SYS_CLKREQ (R27, R71). -/
def Dev.pllAsk (d : Dev) (fw : Bool) : Bool := !fw || (d.active && d.clk 0)

/-- PLL_REQUEST (R28) by firmware or by a hardware block; in SLEEP_PREP and SUPPLY_LOSS none is granted. -/
def execPllRequest (p : Fin 3) (fw : Bool) (s : State) : Out :=
  s.main fun d => d.when (d.pllAsk fw) fun d => (d.pllMark p fw true).pllEval p

/-- PLL_LOCK_TIMEOUT (R28): FAULT, a start-up fault that reports on FAULT_N until a power cycle, even when a retry
succeeds (R74, R76; log entry 69). -/
def execPllLockTimeout (p : Fin 3) (s : State) : Out :=
  s.main fun d => if d.get (pllFld p) = 1 then Dev.pllFault { d with thm := { d.thm with fnHold := true } } p else d

/-- PLL_LAST_REQUEST_RELEASED (R28): the request of firmware or hardware goes; with none left, not even one that an active
group or axis or another busy block holds (R29), a LOCKED PLL enters HOLDOFF. -/
def execPllLastRequestReleased (p : Fin 3) (fw : Bool) (s : State) : Out :=
  s.main fun d => d.when (d.pllAsk fw) fun d => (d.pllMark p fw false).pllRelease p

/-- PLL_HOLDOFF_EXPIRE (R28): with a request in the same cycle the request wins. -/
def execPllHoldoffExpire (p : Fin 3) (req : Bool) (s : State) : Out :=
  s.main fun d =>
    if d.get (pllFld p) = 3 then
      let d := d.when req (·.pllMark p false true)
      if d.pllWanted p then d.set (pllFld p) 2 else (d.set (pllFld p) 0).showFrozen
    else d

/-- PLL_LOCK_LOST (R28). -/
def execPllLockLost (p : Fin 3) (s : State) : Out :=
  s.main fun d => if d.get (pllFld p) = 2 ∨ d.get (pllFld p) = 3 then d.pllFault p else d

/-- REFERENCE_FAILURE (R29). -/
def execReferenceFailure (s : State) : Out := s.main fun d => ((d.set SYS_CLKSTAT_REFFAIL 1).raise 748).clockSafe

/-! ## Resets of the application side -/

/-- A write of SYS_RSTCTL (R35): it acts with the right key from a pair in lockstep, else it is counted. -/
def State.rstctl (s : State) (o : Origin) (key : Nat) (rst : Bool) : State :=
  if !s.dev.lockOrigin o || key ≠ 0xD2A6 then { s with dev := s.dev.count SYS_BUSERR_KEY }
  else if rst then s.appReset SYS_RSTCAUSE_SOFTWARE
  else s

/-- APP_RST (R35). -/
def execAppRst (o : Origin) (key : BitVec 16) (rst : Bool) (s : State) : Out :=
  s.byOriginMem o fun s => s.rstctl o key.toNat rst

/-- The owner pair is halted by the debugger, which pauses the watchdog (R301). -/
def Dev.ownerHalted (d : Dev) : Bool :=
  let p := d.get HEM_STAT_SAFE_OWNER
  d.tb DBG_STAT_HALTED (2 * p) || d.tb DBG_STAT_HALTED (2 * p + 1)

/-- WATCHDOG_EXPIRY (R286, R301): the watchdog runs from READY, and not while the owner pair is halted. -/
def execWatchdogExpiry (s : State) : Out :=
  s.mainMem fun s =>
    if s.dev.ownerHalted || !s.dev.bit SYS_PWRSTATE_READY then s else s.appReset SYS_RSTCAUSE_WATCHDOG

/-- Both pairs are retired. -/
def Dev.bothRetired (d : Dev) : Bool := d.get HEM_STAT_PAIRA = 3 && d.get HEM_STAT_PAIRB = 3

/-- The application side is reset and kept in reset until the next power-on: no local start begins, no block requests a clock,
READY stays 0 with Hem hold, and FAULT_N is asserted (R74, R285, R298, R308). -/
def State.keepReset (s : State) : State :=
  if s.dev.noReset then s
  else
    let s := s.appResetTo SYS_RSTCAUSE_THIMBLE true
    { s with dev := { s.dev with thm := { s.dev.thm with fnHold := true } } }

/-- THIMBLE_RESET (R74, R285): after a PLL failure up to three times, then the application side stays in reset; with
both pairs retired once, unless the retirement came within 10 s of such a reset. From the supply-loss event on Thimble commands
none, and none is remembered (R34). -/
def execThimbleReset (s : State) : Out :=
  s.mainMem fun s =>
    let d := s.dev
    if d.noReset then s
    else if (List.range 3).any fun p => d.get (pllFld p) = 4 then
      if d.boot.pllTries ≥ 3 then s.keepReset
      else
        let s := s.appReset SYS_RSTCAUSE_THIMBLE
        { s with dev := { s.dev with boot := { s.dev.boot with pllTries := d.boot.pllTries + 1 } } }
    else if d.bothRetired then
      match d.hem.retiredReset, d.hem.bothRetiredAt with
      | some r, some t =>
        if t ≤ r + 10000000000 then s.keepReset
        else
          let s := { s with dev := { d with hem := { d.hem with retiredReset := some d.mono } } }
          s.appReset SYS_RSTCAUSE_THIMBLE
      | _, _ =>
        let s := { s with dev := { d with hem := { d.hem with retiredReset := some d.mono } } }
        s.appReset SYS_RSTCAUSE_THIMBLE
    else s

/-- DEBUG_RESET (R300, R301, R34): with full debug access an application-side reset, counted in RESETS after it;
otherwise refused and counted. Where no reset is made none is counted (R34). -/
def execDebugReset (s : State) : Out :=
  s.mainMem fun s =>
    if s.dev.bit DBG_STAT_ACCESS then
      if s.dev.noReset then s
      else
      let s := s.appReset SYS_RSTCAUSE_DEBUG
      { s with dev := s.dev.count DBG_CNT_RESETS }
    else { s with dev := s.dev.count DBG_CNT_REFUSED }

end Sys2Proof.Machine
end

