-- ==== Sys2Proof/Machine/Hem.lean ====
section
/-!
DEFINITION. Machine/Hem.lean: the core pairs with Darn's checkpoints and restarts, splitting and rejoining, the safety role
and its watchdog, and Hem's derating, trips and hold (chapter 12; R273 to R298).
-/
namespace Sys2Proof.Machine

/-! ## Pairs -/

/-- The state field of pair `p`. -/
def pairFld (p : Nat) : Fld := if p = 0 then HEM_STAT_PAIRA else HEM_STAT_PAIRB

/-- The other pair. -/
def otherPair (p : Nat) : Nat := 1 - p

/-- The pair that holds the safety role. -/
def Dev.owner (d : Dev) : Nat := d.get HEM_STAT_SAFE_OWNER

/-- A request is refused with cause `why`; REFUSE is raised (R288, R289, R303). -/
def Dev.pairRefuse (d : Dev) (why : Nat) : Dev := (d.set HEM_STAT_REFUSE_WHY why).raise 742

/-- The safety role moves to pair `p`; HANDOVER is raised as a notice (R285). -/
def Dev.roleTo (d : Dev) (p : Nat) : Dev := (d.set HEM_STAT_SAFE_OWNER p).raise 733

/-- The role of a retired owner moves to pair `p` (R285). -/
def Dev.roleFromRetired (d : Dev) (p : Nat) : Dev :=
  if d.owner ≠ p ∧ d.pairState (otherPair p) = 3 then d.roleTo p else d

/-- Port `c` drops what waits at issue, its buffered writes and its outstanding computes; results in flight are discarded (R230). -/
def Dev.portDrop (d : Dev) (c : Nat) : Dev :=
  let n := d.assistSlice c
  let d := d.slcUpd n fun s =>
    { s with flight := s.flight.map fun f => match f.assist with
        | some (p, _) => if p = c then { f with squashed := true } else f
        | none => f }
  d.portUpd c fun q => { q with buf := [], out := [], issue := [], reads := [], rets := [] }

/-! ## Checkpoints and the undo log (R276, R277) -/

/-- The valid checkpoint: the buffer that the pointer names (R276). -/
def Pair.chk (r : Pair) : Chk := if r.checkpoint % 2 = 0 then r.chk0 else r.chk1

/-- Checkpoint `k` is written into the buffer that is not valid, and the pointer swap makes it the valid one (R276). -/
def Pair.chkPut (r : Pair) (k : Chk) : Pair :=
  if r.checkpoint % 2 = 0 then { r with chk1 := k, checkpoint := r.checkpoint + 1 }
  else { r with chk0 := k, checkpoint := r.checkpoint + 1 }

/-- What a checkpoint of pair `p` holds: the registers of its leading core, which the trailing core's equal, and as the
event-acknowledgement state the pending words of its target (R276; DEDUCED, log entry 94). -/
def Dev.chkNow (d : Dev) (p : Nat) : Chk :=
  let q := d.portAt (2 * p)
  ⟨q.x, q.sys, (List.range 12).map fun j => d.reg (A_EVR_PEND (2 * p) j)⟩

/-- Pair `p` takes a checkpoint: it becomes valid and the undo log is cleared; events before it are no longer kept (R276,
R279). -/
def Dev.checkpoint (d : Dev) (p : Nat) : Dev :=
  let k := d.chkNow p
  d.pairUpd p fun r => { r.chkPut k with undo := [], checkAt := d.mono, events := [] }

/-- Pair `p` runs its firmware in lockstep, not halted by the debugger (R69, R276, R301). -/
def Dev.pairRuns (d : Dev) (p : Nat) : Bool := d.fwRuns && d.lockstep p && !d.tb DBG_STAT_HALTED (2 * p)

/-- CHECKPOINT (R276). -/
def execCheckpoint (p : Fin 2) (s : State) : Out := s.onClk 0 fun d => if d.pairRuns p then d.checkpoint p else d

/-- FORCED (R277): with 3,968 entries in use a forced checkpoint is taken and counted. -/
def execForced (p : Fin 2) (s : State) : Out :=
  s.onClk 0 fun d =>
    if d.pairRuns p && 3968 ≤ (d.pairAt p).undo.length then
      ((d.checkpoint p).count (HEM_DARN_FORCED p)).raiseLim 735 0 ms1
    else d

/-- Address `a` lies in the private region the image names for pair `p`. -/
def Dev.isPrivate (d : Dev) (p a : Nat) : Bool :=
  d.img.priv.any fun e => e.1 = p && e.2.1 ≤ a && a < e.2.1 + e.2.2

/-- A store of pair `p` in lockstep: the old contents of each aligned 8-byte word of its private region go to the undo
log first; a full log of 4,096 entries holds the store back (R277). -/
def State.pairStore (s : State) (p a n v : Nat) : State :=
  let ws := (List.range ((a + n - 1) / 8 + 1 - a / 8)).map fun k => (a / 8 + k) * 8
  let ws := if s.dev.lockstep p then ws.filter (s.dev.isPrivate p) else []
  if 4096 < (s.dev.pairAt p).undo.length + ws.length then s
  else
    let es := ws.map fun w => (w, BitVec.ofNat 64 (rdLE s.mem w 8))
    { s with mem := wrLE s.mem a n v,
             dev := if es.isEmpty then s.dev else s.dev.pairUpd p fun r => { r with undo := es.reverse ++ r.undo } }

/-- PRIVATE_STORE (R277): a store of pair `p` to SRAM. -/
def execPrivateStore (p : Fin 2) (a : BitVec 40) (w : Width) (v : BitVec 64) (s : State) : Out :=
  s.onClkMem 0 fun s =>
    if s.dev.pairRuns p && 0x10000000 ≤ a.toNat && a.toNat + w.bytes ≤ 0x11000000 then
      s.pairStore p a.toNat w.bytes v.toNat
    else s

/-! ## Mismatch, restart and retirement (R275, R280 to R285) -/

/-- Both pairs are retired: Hem hold, the safe-state command for every group, and the instant from which Thimble's 1 s
runs (R285). -/
def Dev.bothGone (d : Dev) : Dev :=
  let held := d.bit HEM_STAT_HOLD
  let d := { d with hem := { d.hem with bothRetiredAt := some d.mono } }
  let d := d.hemHold 1 true
  d.when held fun d => d.eachOf d.allGroups fun g d => d.hemSafe g

/-- A split of pair `p` that was about to end its comparison is refused: the other pair is not in LOCKSTEP any more, and
one pair stays in lockstep (R288). -/
def Dev.splitCancel (d : Dev) (p : Nat) : Dev :=
  if (d.pairAt p).splitWanted then (d.pairUpd p fun r => { r with splitWanted := false }).pairRefuse 1 else d

/-- Pair `p` is retired (R284), and the safety role moves if it held it (R285). -/
def Dev.retire (d : Dev) (p : Nat) : Dev :=
  let d := (d.set (pairFld p) 3).portDrop (2 * p)
  let d := (d.raise 732).jnlHem 732
  let q := otherPair p
  match d.pairState q with
  | 3 => d.bothGone
  | 0 => if d.owner = p then (d.splitCancel q).roleTo q else d
  | 2 =>
    if d.owner = p then (d.set (pairFld q) 5).pairUpd q fun r => { r with rejoiner := none } else d
  | _ => d

/-- A hand-over of pair `p` is refused with cause `why`: the pair is in LOCKSTEP again (R288). -/
def Dev.handRefuse (d : Dev) (p why : Nat) : Dev :=
  if d.pairState p = 4 then
    ((d.set (pairFld p) 0).pairUpd p fun r => { r with splitWanted := false }).pairRefuse why
  else d

/-- Mismatches of pair `p` within MM_WIN_MS, this one included. -/
def Dev.mmRecent (d : Dev) (p : Nat) : List Nat :=
  d.mono :: (d.pairAt p).mismatches.filter fun t => d.mono < t + d.get HEM_DARNCFG_MM_WIN_MS * ms1

/-- MISMATCH_DETECTED (R275, R281, R284, R288): the cores compare from their release by the local start on (R69). -/
def execMismatchDetected (p : Fin 2) (s : State) : Out :=
  s.onClk 0 fun d =>
    let st := d.pairState p
    if d.boot.stage < 2 ∨ (st ≠ 0 ∧ st ≠ 1 ∧ st ≠ 4) then d
    else
      let d := ((d.setReg (A_HEM_MMSTAMP p) (BitVec.ofNat 64 d.time)).count (HEM_DARN_MISMATCH p)).raise (728 + p)
      let d := (d.handRefuse 0 4).handRefuse 1 4
      let recent := d.mmRecent p
      let d := d.pairUpd p fun r => { r with mismatches := recent, restartAt := d.mono, splitWanted := false }
      if clampN 1 15 (d.get HEM_DARNCFG_MM_MAX) ≤ recent.length then d.retire p
      else if st = 1 then d
      else (d.set (pairFld p) 1).portDrop (2 * p)

/-- The undo log is replayed, newest entry first (R280). -/
def undoReplay (m : List Host.Cell) (l : List (Nat × BitVec 64)) : List Host.Cell :=
  l.foldl (fun m e => wrLE m e.1 8 e.2.toNat) m

/-- The valid checkpoint of pair `p` is loaded into both cores, its event-acknowledgement state included (R276, R280). -/
def Dev.chkLoad (d : Dev) (p : Nat) : Dev :=
  let k := (d.pairAt p).chk
  let d := d.each 2 fun i d => d.portUpd (2 * p + i) fun q => { q with x := k.x, sys := k.sys }
  d.each 12 fun j d => d.setReg (A_EVR_PEND (2 * p) j) (k.ack.getD j 0)

/-- Both cores of pair `p` are released from the checkpoint: registers as saved, the kept events raised again in their
order (R279, R280). -/
def Dev.released (d : Dev) (p us : Nat) : Dev :=
  let r := d.pairAt p
  let d := (d.pairUpd p fun r => { r with undo := [] }).chkLoad p
  let d := d.eachOf r.events fun k d => d.set (evrBit (2 * p) k) 1
  let d := ((d.set (pairFld p) 0).count (HEM_DARN_RESTARTS p)).set (HEM_DARN_LAST_US p) us
  (d.raise (730 + p)).roleFromRetired p

/-- DARN_RESTART_COMPLETE (R280, R281): after `us` µs the pair runs from its checkpoint, or its self-test fails and it is
retired. -/
def execDarnRestartComplete (p : Fin 2) (ok : Bool) (us : BitVec 12) (s : State) : Out :=
  s.onClkMem 0 fun s =>
    if s.dev.pairState p ≠ 1 then s
    else if ok then
      { s with mem := undoReplay s.mem (s.dev.pairAt p).undo, dev := s.dev.released p us.toNat }
    else { s with dev := s.dev.retire p }

/-! ## Watchdog (R286, R287) -/

/-- Origin `o` is the pair that holds the safety role, in lockstep. -/
def Dev.isOwner (d : Dev) (o : Origin) : Bool := d.lockOrigin o && originPair o = some d.owner

/-- A refused safety-classed write is counted (R287). -/
def Dev.classRef (d : Dev) : Dev := d.count HEM_CNT_CLASS_REF

/-- KEY of HEM_WDOG is written (R286, R287). -/
def Dev.dogWrite (d : Dev) (o : Origin) (key : Nat) : Dev :=
  if !d.isOwner o then d.classRef
  else if key = 0x6D0F then { d with hem := { d.hem with dogAt := d.mono } }
  else d

/-- WATCHDOG_SERVICE (R286). -/
def execWatchdogService (o : Origin) (key : BitVec 16) (s : State) : Out := s.byOrigin o fun d => d.dogWrite o key.toNat

/-! ## Splitting and rejoining (R288, R289) -/

/-- The owner pair's hand-over starts, with a split to follow or not (R288). -/
def Dev.handStart (d : Dev) (p : Nat) (split : Bool) : Dev :=
  ((d.set (pairFld p) 4).pairUpd p fun r => { r with splitWanted := split }).raise 733

/-- SPLIT is written by origin `o` (R287, R288): refused with cause 2 when a pair is already split and with cause 1 when
the other pair is not in LOCKSTEP for another reason. -/
def Dev.splitWrite (d : Dev) (o : Origin) : Dev :=
  if !d.lockOrigin o then d.classRef
  else
    match originPair o with
    | none => d.classRef
    | some p =>
      let q := d.pairState (otherPair p)
      if d.pairState p ≠ 0 ∨ (d.pairAt p).splitWanted then d
      else if q = 2 then d.pairRefuse 2
      else if q ≠ 0 ∨ (d.pairAt (otherPair p)).splitWanted then d.pairRefuse 1
      else if d.owner = p then d.handStart p true
      else d.pairUpd p fun r => { r with splitWanted := true }

/-- SPLIT (R288). -/
def execSplit (o : Origin) (s : State) : Out := s.byOrigin o fun d => d.splitWrite o

/-- SPLIT_COMPLETE (R288): comparison ends and the pair, which does not hold the role any more, runs as two cores. -/
def execSplitComplete (p : Fin 2) (s : State) : Out :=
  s.onClk 0 fun d =>
    let st := d.pairState p
    if (d.pairAt p).splitWanted && d.owner ≠ p.val && (st = 0 || st = 4) then
      let d := d.pairUpd p fun r => { r with splitWanted := false, undo := [], events := [] }
      let d := d.portUpd (2 * p + 1) fun q => { q with x := (d.portAt (2 * p)).x, sys := (d.portAt (2 * p)).sys }
      (d.set (pairFld p) 2).raise 734
    else d

/-- OWNER_REQ is written (R287, R288): the owner hands the role over without a split. -/
def Dev.ownerReq (d : Dev) (o : Origin) : Dev :=
  if !d.isOwner o then d.classRef
  else
    let p := d.owner
    if d.pairState p ≠ 0 then d
    else if d.pairState (otherPair p) ≠ 0 ∨ (d.pairAt (otherPair p)).splitWanted then d.pairRefuse 1
    else d.handStart p false

/-- OWNER_REQ (R288). -/
def execOwnerReq (o : Origin) (s : State) : Out := s.byOrigin o fun d => d.ownerReq o

/-- SAFE_ACK is written (R288): the pair that does not hold the role accepts a pending hand-over. -/
def Dev.safeAck (d : Dev) (o : Origin) : Dev :=
  match o with
  | .pair q =>
    let p := d.owner
    if q.val = p ∨ d.pairState p ≠ 4 ∨ !d.lockstep q then d
    else
      let d := d.set HEM_STAT_SAFE_OWNER q
      if (d.pairAt p).splitWanted then d else d.set (pairFld p) 0
  | _ => d

/-- SAFE_ACK (R288). -/
def execSafeAck (o : Origin) (s : State) : Out := s.byOrigin o fun d => d.safeAck o

/-- HANDOVER_TIMEOUT (R288): 1 ms without SAFE_ACK. -/
def execHandoverTimeout (s : State) : Out := s.main fun d => d.handRefuse d.owner 3

/-- REJOIN is written by core `c` (R289): the first writer of a split pair halts, the second begins the rejoin. -/
def Dev.rejoin (d : Dev) (c : Nat) : Dev :=
  let p := c / 2
  if d.pairState p ≠ 2 then d
  else
    match (d.pairAt p).rejoiner with
    | none => d.pairUpd p fun r => { r with rejoiner := some (c % 2) }
    | some w => if w = c % 2 then d else (d.set (pairFld p) 5).pairUpd p fun r => { r with rejoiner := none }

/-- REJOIN (R289). -/
def execRejoin (c : Fin 4) (s : State) : Out := s.byOrigin (.core c) fun d => d.rejoin c

/-- REJOIN_TIMEOUT (R289): no second REJOIN within 100 µs. -/
def execRejoinTimeout (p : Fin 2) (s : State) : Out :=
  s.onClk 0 fun d =>
    if d.pairState p = 2 ∧ (d.pairAt p).rejoiner ≠ none then
      (d.pairUpd p fun r => { r with rejoiner := none }).pairRefuse 5
    else d

/-- REJOIN_COMPLETE (R289): the leading core's state is copied, comparison resumes, a checkpoint is taken; the role of a
retired owner moves (R285). -/
def execRejoinComplete (p : Fin 2) (s : State) : Out :=
  s.onClk 0 fun d =>
    if d.pairState p ≠ 5 then d
    else
      let d := (d.portDrop (2 * p + 1)).portUpd (2 * p + 1) fun q =>
        { q with x := (d.portAt (2 * p)).x, sys := (d.portAt (2 * p)).sys }
      let d := (d.pairUpd p fun r => { r with selfTest := 0 }).set (pairFld p) 0
      ((d.checkpoint p).raise 734).roleFromRetired p

/-- SPLIT_CORE_PARITY (R288): a parity error resets core `c` of a split pair alone. -/
def execSplitCoreParity (c : Fin 4) (s : State) : Out :=
  s.onClk 0 fun d =>
    let p := c.val / 2
    if d.pairState p ≠ 2 then d
    else
      let d := (d.portDrop c).portUpd c fun q => { q with x := [], sys := [] }
      let d := d.pairUpd p fun r =>
        { r with selfTest := r.selfTest ||| 2 ^ (c.val % 2),
                 rejoiner := if r.rejoiner = some (c.val % 2) then none else r.rejoiner }
      d.count (HEM_DARN_SPLIT_RST p)

/-- SPLIT_CORE_SELF_TEST_DONE (R288): core `c` restarts at the image's split entry. -/
def execSplitCoreSelfTestDone (c : Fin 4) (s : State) : Out :=
  s.onClk 0 fun d =>
    d.pairUpd (c.val / 2) fun r => { r with selfTest := r.selfTest - (r.selfTest &&& 2 ^ (c.val % 2)) }

/-! ## Derating (R295, R296) -/

/-- The temperature sources of group `g`: 0 to 7 the TMP inputs of its mask, 16 + n the NTC of its used channels. -/
def Dev.tempSources (d : Dev) (g : Nat) : List Nat :=
  ((List.range 8).filter fun n => d.tb (HEM_GLIM2_TMP_MASK (d.limGrp g)) n)
    ++ ((d.groups g).flatMap d.chans |>.filter d.used).map (16 + ·)

/-- The present valid reading of source `k` in m°C. -/
def Dev.tempNow (d : Dev) (k : Nat) : Option Int :=
  if k < 16 then Tab.find (fun _ => none) d.hem.tmp k
  else
    let c := d.get (GCH_STAT_NTC (k - 16))
    if c = 255 then none else some (((c : Int) - 64) * 1000)

/-- The last valid reading of every source is kept with its instant. -/
def Dev.tempKeep (d : Dev) : Dev :=
  d.eachOf (List.range 8 ++ (List.range 12).map (16 + ·)) fun k d =>
    match d.tempNow k with
    | some t => { d with hem := { d.hem with temp := Tab.insert k (t, d.mono) d.hem.temp } }
    | none => d

/-- What source `k` counts as: its reading, its last valid one for 1 s, then the middle of the derating range (R296). -/
def Dev.tempAs (d : Dev) (k : Nat) : Int :=
  match d.tempNow k with
  | some t => t
  | none =>
    let mid : Int := near (((d.get HEM_DERCFG_DER_T0 + d.get HEM_DERCFG_DER_T1 : Nat) : Int) * 1000) 2
    match d.hem.temp.find? fun e => e.1 = k with
    | some (_, t, at_) => if d.mono < at_ + 1000000000 then t else mid
    | none => mid

/-- F_TEMP as numerator and denominator (R295). -/
def Dev.fTemp (d : Dev) (ks : List Nat) : Int × Int :=
  let t0 : Int := d.get HEM_DERCFG_DER_T0 * 1000
  let t1 : Int := d.get HEM_DERCFG_DER_T1 * 1000
  match ks.map d.tempAs with
  | [] => (1, 1)
  | x :: l =>
    let t := l.foldl max x
    if t ≤ t0 then (1, 1) else if t1 ≤ t then (0, 1) else (t1 - t, t1 - t0)

/-- F_FLOW as numerator and denominator (R295, R296). -/
def Dev.fFlow (d : Dev) : Int × Int :=
  let fmin : Int := clampN 10 100 (d.get HEM_DERCFG_FLOW_FMIN)
  let nom : Int := d.get HEM_DERCFG_FLOW_NOM * 10
  let q := d.getI FLW_RES_FLOW
  if d.bit FLW_STAT_STALE then (fmin, 100)
  else if 100 * q ≤ fmin * nom then (fmin, 100)
  else if nom ≤ q then (1, 1)
  else (q, nom)

/-- The smaller of two fractions with positive denominators. -/
def minFrac (a b : Int × Int) : Int × Int := if a.1 * b.2 ≤ b.1 * a.2 then a else b

/-- T_HOT as its register encodes it: 255 without a valid source (R304). -/
def Dev.tHot (d : Dev) (ks : List Nat) : Nat :=
  if ks.all fun k => (d.tempNow k).isNone then 255
  else
    match ks.map d.tempAs with
    | [] => 255
    | x :: l => (clampI 0 254 (near (l.foldl max x) 1000 + 64)).toNat

/-- DERATE is raised as group `g` enters or leaves IMAX_EFF < IMAX (R295). -/
def Dev.derateShow (d : Dev) (g : Nat) (below : Bool) : Dev :=
  let w := d.hem.derated
  if below = w.testBit g then d
  else Dev.raise { d with hem := { d.hem with derated := if below then w ||| 2 ^ g else w - (w &&& 2 ^ g) } } 739

/-- The limit of group `g` in 2^-16 of 0.1 A for target `target`: a decrease acts at once, an increase by at most 1 % of
IMAX (R295). -/
def Dev.derateEff (d : Dev) (g : Nat) (imax target : Int) : Int :=
  let prev := Tab.find (fun _ => (0 : Int)) d.hem.eff g
  if target < prev then target else min target (prev + near (imax * 65536) 100)

/-- HEM_DERg shows factors and sources (R304). -/
def Dev.derateFactors (d : Dev) (g : Nat) (ks : List Nat) : Dev :=
  let ft := d.fTemp ks
  let ff := d.fFlow
  let d := (d.set (HEM_DER_F_TEMP g) (near (100 * ft.1) ft.2).toNat).set (HEM_DER_F_FLOW g) (near (100 * ff.1) ff.2).toNat
  let d := (d.set (HEM_DER_T_HOT g) (d.tHot ks)).setB (HEM_DER_FLOW_STALE g) (d.bit FLW_STAT_STALE)
  d.set (HEM_DER_INVALID g) (ks.filter fun k => (d.tempNow k).isNone).length

/-- Derating of group `g` (R295, R296). -/
def Dev.derate (d : Dev) (g : Nat) : Dev :=
  let ks := d.tempSources g
  let m := minFrac (d.fTemp ks) d.fFlow
  let imax : Int := d.get (HEM_GLIM_IMAX (d.limGrp g))
  let e := d.derateEff g imax (near (imax * 65536 * m.1) m.2)
  let d := (d.derateFactors g ks).set (HEM_DER_IMAX_EFF g) (clampI 0 65535 (near e 65536)).toNat
  let d := { d with hem := { d.hem with eff := Tab.put (fun _ => 0) d.hem.eff g e } }
  d.derateShow g (decide (e < imax * 65536))

/-- DERATING_UPDATE (R295, R296). -/
def execDeratingUpdate (s : State) : Out := s.main fun d => d.tempKeep.each 2 fun g d => d.derate g

/-! ## Trips and hold (R292, R293, R298) -/

/-- HEM_SPEED_TRIP (R292): the speed of group `g` is above SPD_MAX × (1 + SPD_MARGIN / 100) and has been for 1 ms. -/
def execHemSpeedTrip (g : Fin 2) (s : State) : Out :=
  s.main fun d =>
    let g := d.limGrp g
    let lim : Int := d.get (HEM_GLIM_SPD_MAX g) * (100 + d.get (HEM_GLIM_SPD_MARGIN g))
    if lim * 2 ^ 32 < (d.cluSpeed g).natAbs * 10000 then (d.count (HEM_VIOL_SPD g)).hemSafe g else d

/-- HEM_UDC_TRIP (R293): while the group is enabled UDC is above UDC_MAX, and has been for 10 µs, or below UDC_MIN, and
has been for 1 ms. -/
def execHemUdcTrip (g : Fin 2) (s : State) : Out :=
  s.main fun d =>
    let g := d.limGrp g
    if d.grpOn g && !d.udcInRange g then (d.count (HEM_VIOL_UDC g)).hemSafe g else d

/-- Hem hold follows its causes (R298). -/
def Dev.holdEval (d : Dev) : Dev :=
  let d := d.hemHold 1 d.bothRetired
  let d := d.hemHold 2 (!d.bit SYS_PWRSTATE_READY)
  let d := d.hemHold 4 d.startFault
  let d := d.hemHold 8 d.holdReq
  d.hemHold 16 d.inLoss

/-- HOLD (R298). -/
def execHold (s : State) : Out := s.main Dev.holdEval

end Sys2Proof.Machine
end

