-- ==== Sys2Proof/Machine/AuxAdc.lean ====
section
/-!
DEFINITION. Machine/AuxAdc.lean: the auxiliary converters' scans (R97 to R99).
-/
namespace Sys2Proof.Machine

/-- AUX_SCAN_START (R98): a scan of converter `m` is due; one still running delays it, which is counted. -/
def execAuxScanStart (m : Fin 2) (s : State) : Out :=
  s.main fun d =>
    if !d.bit (AUX_CTL_RUN m) then d
    else
      match (d.auxAt m).entry with
      | none => d.auxUpd m fun r => { r with entry := some 0, due := false }
      | some _ => (d.auxUpd m fun r => { r with due := true }).count AUX_CNT_OVERRUN

/-- Converter `m` has an input of number `i` (R97). -/
def auxListed (m i : Nat) : Bool := if m = 0 then i < 20 else i < 28

/-- The voltage at converter `m` from the signal `x` of its input `i` through the front end of R97, as a fraction in µV. `x` is a
resistance in mΩ on a TMP input, the die temperature in m°C on the die sensor, a voltage at the lands in µV elsewhere; the
bandgap is 1.200 V and the zero input 0 (R79). -/
def Dev.auxVolts (d : Dev) (m i : Nat) (x : Int) : Int × Int :=
  let own := if m = 0 then 17 else 25
  if i = own then (1200000, 1)
  else if i = own + 1 then (1500000 + 5 * (x - 25000), 2)
  else if i = own + 2 then (0, 1)
  else if m = 1 then (if i < 24 then (25 * x, 1) else (x, 30))
  else if i < 8 then (if d.tb AUX_CFG_EXC i then (x, 1) else (x, 5))
  else if i < 16 then (x, 2)
  else (x, 16)

/-- The code of a voltage at the converter, limited at both ends (R97). -/
def auxCode (v : Int × Int) : Nat := min 4095 (4096 * v.1 / (2500000 * v.2)).toNat

/-- The scan of converter `m` moves on from entry `k`: to the next entry, or to its end, from which a delayed scan or, with
PERIOD_US 0, the next scan starts at once (R98). -/
def Dev.auxNext (d : Dev) (m k : Nat) : Dev :=
  if d.bit (AUX_SCAN_LAST m k) ∨ k = 31 then
    let again := d.bit (AUX_CTL_RUN m) && ((d.auxAt m).due || d.get (AUX_CTL_PERIOD_US m) = 0)
    d.auxUpd m fun r => { r with entry := if again then some 0 else none, due := false }
  else d.auxUpd m fun r => { r with entry := some (k + 1) }

/-- The coil whose diagnostic entry is `k` of AUX1, and whose input AXnA at 2n or AXnB at 2n + 1 that entry holds, takes its result
(R97, R251, R268). -/
def Dev.auxCoils (d : Dev) (k stamp mean : Nat) : Dev :=
  d.each 12 fun n d =>
    let i := d.get (AUX_SCAN_INPUT 1 k)
    let d := d.when (d.get (STP_OFS_ENT_A n) = k && i = 2 * n) (·.coilResult n false stamp mean)
    d.when (d.get (STP_OFS_ENT_B n) = k && i = 2 * n + 1) (·.coilResult n true stamp mean)

/-- Entry `k` of converter `m` publishes the mean of the codes `l`; an open or shorted TMP input is invalid and counted
(R98, R99). -/
def Dev.auxPublish (d : Dev) (m k : Nat) (l : List Nat) : Dev :=
  let i := d.get (AUX_SCAN_INPUT m k)
  let n := l.length
  let sum := l.foldl (fun (a b : Nat) => a + b) 0
  let mean := (divRound (16 * (sum : Int)) (n : Int)).toNat
  let tmp : Bool := m == 0 && decide (i < 8)
  let opn := tmp && decide (4000 * n < sum)
  let sht := tmp && decide (sum < 16 * n)
  let stamp := d.time - 200 * n
  let w := BitVec.ofNat 64 (stamp % 2 ^ 40 * 2 ^ 24 + (if opn || sht then 0 else 2 ^ 23)
    + (if l.contains 4095 then 2 ^ 22 else 0) + i * 2 ^ 16 + mean)
  let d := d.setReg (A_AUX_RES m k) w
  let d := (d.when opn (·.count AUX_CNT_OPEN)).when sht (·.count AUX_CNT_SHORT)
  if m = 1 then d.auxCoils k stamp mean
  else if i < 8 then
    let t := if opn || sht then none else some (Config.tmpMilli (d.tb AUX_CFG_EXC i) mean)
    { d with hem := { d.hem with tmp := Tab.put (fun _ => none) d.hem.tmp i t } }
  else d

/-- AUX_ENTRY_DONE (R97, R98): the running entry of converter `m` has averaged conversions of the signals `x`; an unlisted input
reads the zero input. -/
def execAuxEntryDone (m : Fin 2) (x : List (BitVec 32)) (s : State) : Out :=
  s.main fun d =>
    match (d.auxAt m).entry with
    | none => d
    | some k =>
      let n := 2 ^ min 6 (d.get (AUX_SCAN_AVG m k))
      let i := d.get (AUX_SCAN_INPUT m k)
      let l := (List.range n).map fun j => if auxListed m i then auxCode (d.auxVolts m i (x.getD j 0).toInt) else 0
      (d.auxPublish m k l).auxNext m k

end Sys2Proof.Machine
end

