-- ==== Sys2Proof/Machine/Content.lean ====
section
/-!
DEFINITION. Machine/Content.lean: which registers the sections of an image configure, and when their content matches the
hardware (R62, R63, R66, R84, R106, R175, R201, R203).
-/
namespace Sys2Proof.Machine

/-! ## Destinations (R62) -/

/-- The section type whose destination holds the register at `a`: 3 the engine, 4 the converters, 5 the carriers and gate
channels with the current loop and the position ports they serve, 6 the stepper axes, 7 CAN, ETH and SFL (log entry 24). -/
def sectOf (a : Nat) : Option Nat :=
  if 0x41000000 ≤ a ∧ a < 0x41408000 then some 3
  else if 0x40100000 ≤ a ∧ a < 0x40110000 then some 4
  else if 0x40200000 ≤ a ∧ a < 0x40510000 then some 5
  else if 0x40700000 ≤ a ∧ a < 0x40710000 then some 6
  else if 0x40900000 ≤ a ∧ a < 0x40B10000 then some 7
  else none

/-- The read-only fields whose reset value the register tables give as "Image": the register family with the mask of
those fields. -/
def imageFields : List (Nat × Nat) :=
  [(A_CEN_SCFG 0, 0x3FF00000000), (A_CEN_TMASK 0 0, 2 ^ 64 - 1), (A_CEN_ST 0 0, 2 ^ 64 - 1), (A_CEN_PROG 0 0, 2 ^ 64 - 1),
   (A_CEN_GUARD 0, 2 ^ 64 - 1), (A_CEN_LACFG, 0x3F3F)]

/-- A field that configures its block. -/
def configures (f : FDef) : Bool := f.acc = .rw || f.acc = .rwi || f.acc = .rws

/-- A field of the family at `base` that instance `i` does not have: INV of CAR0 and CAR2, PWM_COFF of CAR2, SIX of CLU1 (R146,
R167). -/
def absent (base i lo : Nat) : Bool :=
  (base = A_PWM_CTL 0 && i ≠ 1 && lo = 8) || (base = A_PWM_COFF 0 && i = 2) || (base = A_CLU_CTL 0 && i = 1 && lo = 6)

/-- The bits of the register at `a` that an image sets: the fields that configure the block and the image's own, without the
committed set (R66). -/
def stageMask (a : Nat) : BitVec 64 :=
  match regDefAt a with
  | none => 0
  | some (r, i, _) =>
    let own := (imageFields.find? fun e => e.1 = r.base).elim 0 (·.2)
    let m := r.fields.foldl (fun m f => if configures f && !absent r.base i f.lo then m ||| fieldMask f.lo f.w else m) (BitVec.ofNat 64 own)
    m &&& ~~~ BitVec.ofNat 64 (setMask a)

/-- A staged register word takes effect on the bits an image sets (R66). -/
def Dev.stagePut (d : Dev) (e : BitVec 40 × BitVec 64) : Dev :=
  let a := e.1.toNat
  d.setReg a ((d.reg a &&& ~~~ stageMask a) ||| (e.2 &&& stageMask a))

/-! ## Loop programs (R201, R203) -/

/-- Every index that R203 lists for input class `cls`. -/
def inListed (cls i : Nat) : Bool :=
  let j := i % 2 ^ 15
  match cls with
  | 0 => j < 512
  | 1 => j < 512
  | 2 => i < 16
  | 3 => i < 32 && (i % 16 < 12)
  | 4 => i < 64
  | 5 => i < 48
  | 6 => i < 3
  | 7 => i < 32
  | _ => false

/-- The codes of R201. -/
def opcs : List Nat :=
  List.range 0x0B ++ [0x10, 0x11, 0x12, 0x13, 0x14, 0x18, 0x20, 0x21, 0x24, 0x25, 0x26, 0x28, 0x29, 0x2A, 0x30, 0x31, 0x38, 0x3F]

/-- An operation word is valid (R201, R203): a listed code with its reserved bits 0, blocks of words that end at w255, a listed
input, and a JGE that skips at least one operation. -/
def opOk (w : BitVec 64) : Bool :=
  let opc := fieldGet w 58 6
  let aux := fieldGet w 0 24
  opcs.contains opc && fieldGet w 56 2 = 0 &&
    match opc with
    | 0x18 => fieldGet w 32 8 + aux % 1024 ≤ 255
    | 0x24 => fieldGet w 48 8 + 1 ≤ 255
    | 0x28 => fieldGet w 32 8 + 4 ≤ 255 && fieldGet w 24 8 + 1 ≤ 255
    | 0x2A => fieldGet w 24 8 + 6 ≤ 255
    | 0x30 => inListed (aux / 2 ^ 16) (aux % 2 ^ 16)
    | 0x38 => aux % 1024 ≠ 0
    | _ => true

/-- The register at `a` is a word of a program store. -/
def isProg (a : Nat) : Bool := 0x41000000 ≤ a && a < 0x41400000 && 0x2000 ≤ a % 0x10000 && a % 0x10000 < 0x4000

/-! ## The content as a whole (R63) -/

/-- A register word goes to a register of its section's destination, and that section is in the directory. -/
def wordFits (sects : List Sect) (e : BitVec 40 × BitVec 64) : Bool :=
  match sectOf e.1.toNat with
  | some t => e.1.toNat % 8 = 0 && stageMask e.1.toNat ≠ 0 && sects.any (fun s => s.typ = t) && (!isProg e.1.toNat || opOk e.2)
  | none => false

/-- The words of the content as the blocks would hold them, in a device that holds nothing else. -/
def stagedDev (c : ImgContent) : Dev := Dev.eachOf {} c.regs fun e d => d.stagePut e

/-- The converters the content gives a sequence have a valid one (R84). -/
def seqsFit (c : ImgContent) : Bool :=
  (List.range 8).all fun n =>
    !(c.regs.any fun e => A_ADC_SEQ n 0 ≤ e.1.toNat && e.1.toNat < A_ADC_SEQ n 64) || (stagedDev c).adcSeqOk n

/-- No group has two position ports, and a resolver is on POS0 or POS1 (R106). -/
def portsFit (d : Dev) : Bool :=
  ([0, 1] : List Nat).all (fun g =>
    ((List.range 4).filter fun p => d.get (POS_CFG_GROUP p) = g + 1 || d.get (POS_CFG_GROUP p) = 3).length ≤ 1)
    && (List.range 4).all fun p => d.get (POS_CFG_MODE p) ≤ 4 && (d.get (POS_CFG_MODE p) ≠ 1 || p < 2)

/-- A coil table is given whole: 256 registers of four entries (R63). -/
def coilTableFits (c : ImgContent) : Bool :=
  let n := ((List.range 256).filter fun j => c.regs.any fun e => e.1.toNat = A_STP_TAB j).length
  n = 0 || n = 256

/-- The content of an image matches the hardware (R63): every word fits its section, PAIR and SIX exclude each other (R175), and
the sequences, the ports and the coil table fit; `ok` stands for what the words do not carry (log entry 24). -/
def contentFits (sects : List Sect) (c : ImgContent) : Bool :=
  c.ok && c.regs.all (wordFits sects) && !((stagedDev c).paired && (stagedDev c).six) && seqsFit c && portsFit (stagedDev c)
    && coilTableFits c

end Sys2Proof.Machine
end

