-- ==== Sys2Proof/Machine/Thimble.lean ====
section
/-!
DEFINITION. Machine/Thimble.lean: the safety island: boot checks and core faults, speed and SEL, SS1, brake, safety inputs,
torque monitor, DC link, and the requests of the mailbox (chapter 13; R306 to R345).
-/
namespace Sys2Proof.Machine

/-- Thimble runs. -/
def Dev.thmRuns (d : Dev) : Bool := d.get THM_STAT_STATE = 1

/-- A command that is Thimble's own act: nothing happens while Thimble does not run. -/
def State.thimble (s : State) (f : Dev → Dev) : Out := s.main fun d => if d.thmRuns then f d else d

/-! ## SEL (R312, R313) -/

/-- SEL of group `g` becomes `asc`: it is posted at each change; a change to pulse-off releases an active short circuit and
moves a group in STO_ASC to STO (R312, R313, R315). -/
def Dev.selPut (d : Dev) (g : Nat) (asc : Bool) : Dev :=
  if d.bit (THM_GRP_SEL g) = asc && d.selAsc g = asc then d
  else
    let d := d.eachOf (d.groups g) fun h d =>
      (d.setB (THM_GRP_SEL h) asc).setB (if h = 0 then GCH_ASC_SEL0 else GCH_ASC_SEL1) asc
    let d := d.raise 762
    if asc then d
    else
      let d := d.ascRelease g
      if d.thmState g = 4 then d.thmToSto g else d

/-! ## Boot checks (R69, R74, R308, R324, R332) -/

/-- The two copies of every record are repaired from each other, each bad copy journalled; then the validity of the committed
set and of the calibration is reported (R74). In a supply loss no repair begins (R446). -/
def Dev.thmChecks (d : Dev) : Dev :=
  let p := d.per
  let d := d.when p.safe.oneBad (·.jnlThimble 0xFFFF)
  let d := d.when p.cal.oneBad (·.jnlThimble 0xFFFF)
  let d :=
    if d.persistShut then d
    else
      { d with per := { p with safe := p.safe.repair, cal := p.cal.repair, fill := p.fill.repair,
                               lock := p.lock.repair, pwd := p.pwd.repair } }
  let d := d.setB SYS_IMGSTAT_SAFE_ABSENT d.safeSet.isNone
  let d := d.when d.safeSet.isNone (·.jnlThimble 0xFFFF)
  let bad := match d.per.cal.cur with | some c => !c.bound | none => true
  let d := d.setB SYS_IMGSTAT_CAL_BAD bad
  d.when bad (·.jnlThimble 0xFFFF)

/-- What the safety-parameter area holds is shown: the committed set, the change log, the password state and the lockout,
which resumes (R332, R338, R345). -/
def Dev.thmShow (d : Dev) : Dev :=
  let d := d.showSet.showLog
  let d := d.set THM_CLOG_ACKS (min d.per.acks 65535)
  let d := d.setB THM_STAT_PWD_INIT (match d.per.pwd.cur with | some p => p.init | none => true)
  let left := d.per.lock.cur.getD 0
  (d.setB THM_STAT_LOCKOUT (left ≠ 0)).set THM_PWD_LOCK_S left

/-- The level field of pair `k`: 1 channel a high, 2 channel b high. -/
def Dev.siLvl (d : Dev) (k : Nat) : Nat := d.get (THM_SI_LVL k)

/-- Channel a, then b, of pair `k` is at its closed level (R323). -/
def Dev.siClosed (d : Dev) (k : Nat) (b : Bool) : Bool :=
  let high := (d.siLvl k).testBit (if b then 1 else 0)
  if b && d.bit (THM_SICFG_ANTI k) then !high else high

/-- The discrepancy time of pair `k` in ns. -/
def Dev.siDisc (d : Dev) (k : Nat) : Nat := clampN 5 250 (d.get (THM_SICFG_DISC k)) * 2 * ms1

/-- The channels of pair `k` last closed within the discrepancy time of each other. -/
def Dev.siInTime (d : Dev) (k : Nat) : Bool :=
  let (a, b) := Tab.find (fun _ => (0, 0)) d.thm.closedAt k
  max a b - min a b ≤ d.siDisc k

/-- Pair `k` enters state `st`; SI is raised on a change (R344). -/
def Dev.siPut (d : Dev) (k st : Nat) : Dev :=
  if d.get (THM_SI_STATE k) = st then d else (d.set (THM_SI_STATE k) st).raise 764

/-- The cause of SI_DISC is present while a pair is in DISC. -/
def Dev.siCause (d : Dev) : Dev :=
  if (List.range 4).any fun k => d.get (THM_SI_STATE k) = 4 then d.setBits THM_FLT_CAUSE 0x40 else d.clrBits THM_FLT_CAUSE 0x40

/-- Pair `k` moves as its levels ask (R324). -/
def Dev.siStep (d : Dev) (k : Nat) : Dev :=
  let a := d.siClosed k false
  let b := d.siClosed k true
  let d :=
    match d.get (THM_SI_STATE k) with
    | 1 => if !a && !b then (d.set (THM_SI_TESTED k) 1).siPut k 2 else d
    | 2 => if a && b && d.siInTime k then d.siPut k 3 else d
    | 3 => if a && b then d else d.siPut k 2
    | 4 => if !a && !b then d.siPut k 2 else d
    | _ => d
  d.siCause

/-- Pair `k` as Thimble starts: UNUSED, PENDING with TEST, else DEMAND (R324). -/
def Dev.siStart (d : Dev) (k : Nat) : Dev :=
  let st := if d.get (THM_SICFG_FUNC k) = 0 then 0 else if d.bit (THM_SICFG_TEST k) then 1 else 2
  ((d.set (THM_SI_TESTED k) 0).siPut k st).siStep k

/-- Thimble reaches its safe state in RUN: safety inputs, SEL, and the paths of GCH12 and GCH13 (R309, R312, R324). -/
def Dev.thmStart (d : Dev) : Dev :=
  let d := (d.set THM_STAT_STATE 1).each 4 fun k d => d.siStart k
  let d := d.eachOf d.allGroups fun g d => d.selPut g (d.bit (THM_ASC_ASC_EN g))
  let d := (d.setPaths 12 true true).setPaths 13 true true
  (d.driveEval 12).thmEvalAll

/-! ## Core fault (R308) -/

/-- THIMBLE_CORE_FAULT (R308): every path removed, brake outputs off, every group in STO; Thimble restarts. -/
def execThimbleCoreFault (s : State) : Out :=
  s.main fun d =>
    if d.get THM_STAT_STATE ≥ 2 then d
    else
      let d := (d.set THM_STAT_STATE 2).windStop
      let d := d.each 14 fun n d => d.cutPaths n
      let d := d.brakeApply
      d.eachOf d.allGroups fun g d => if d.thmState g = 0 then d.cluSafe g |>.applySafe g else d.thmToSto g

/-- Thimble's registers as it restarts: history, committed set and input levels stay (R345). -/
def Dev.thmForget (d : Dev) : Dev :=
  let lvl := (List.range 4).map d.siLvl
  let keep := [A_THM_STAT, A_THM_PWD, A_THM_CLOG, A_THM_CNT]
  let gone (a : Nat) : Bool := 0x48000000 ≤ a && a < 0x48010000 && !keep.contains a
  let d := { d with regs := Tab.keep (fun a => !gone a) d.regs, tgrp := [],
                    thm := { closedAt := d.thm.closedAt, fnHold := d.thm.fnHold, gateFall := d.thm.gateFall } }
  let d := d.each 4 fun k d => d.set (THM_SI_LVL k) (lvl.getD k 0)
  (((d.set THM_STAT_SAFE_UNLOCK 0).set THM_STAT_DEV_UNLOCK 0).brakeShow).showUnlock

/-- THIMBLE_RESTART_DONE (R308): open unlocks end, the boot checks are repeated and CORE latches; the third restart since
power-on stops Thimble and keeps the application side in reset. -/
def execThimbleRestartDone (s : State) : Out :=
  s.mainMem fun s =>
    if s.dev.get THM_STAT_STATE ≠ 2 then s
    else
      let s := (s.endSafety 3 3).endDev 3 3
      let d := (s.dev.count THM_STAT_RESTARTS).thmForget.thmLatch 0 0xFFFF
      let d := d.thmChecks.thmShow
      let d := d.hemHold 4 d.startFault
      if 3 ≤ d.get THM_STAT_RESTARTS then
        let d := d.set THM_STAT_STATE 3
        State.keepReset { s with dev := { d with thm := { d.thm with fnHold := true } } }
      else { s with dev := d.thmStart }

/-! ## Shut-off path test (R310) -/

/-- PATH_TEST (R310): channel `n` reported its permit under path 1 alone (`p1`) or path 2 alone (`p2`). Power channels are
tested while their group is in STO, GCH12 and GCH13 while idle; the report comes in the status frames of a trained link. -/
def execPathTest (n : Fin 14) (p1 p2 : Bool) (s : State) : Out :=
  s.thimble fun d =>
    let g := d.groupOf n
    let idle : Bool := if n.val < 12 then d.thmState g = 0 else d.get (GCH_STAT_STATE n) = 1
    if !idle || !(p1 || p2) || !d.trained n then d
    else
      let d := if n.val < 12 then d.tgrpUpd g fun t => { t with pathFlt := true } else d
      (d.thmLatch 1 0xFFFF).thmEvalAll

/-! ## Speed (R311, R312) -/

/-- The speed of group `g` and whether it is valid: SRC is SENSOR or SLS and POS_TST is at most 1 ms old (R311). -/
def Dev.thmSpeed (d : Dev) (g : Nat) : Int × Bool :=
  match d.portOf g with
  | none => (0, false)
  | some p =>
    let src := d.get (POS_STAT_SRC p)
    (d.q (A_POS_SPD p), (src = 0 || src = 3) && d.time ≤ (d.reg (A_POS_TST p)).toNat + ms1)

/-- |n| of a Q32.32 speed is at least `x` in 0.01 rev/s. -/
def speedAtLeast (n : Int) (x : Nat) : Bool := x * 2 ^ 32 ≤ 100 * n.natAbs

/-- Thimble reads the speed of group `g`: shown, kept for the rest check, and SEL follows (R311, R312, R329). -/
def Dev.speedRead (d : Dev) (g : Nat) : Dev :=
  let (n, ok) := d.thmSpeed g
  let rest := ok && !speedAtLeast n (d.get (THM_ASC_REST_SPD g))
  let d := d.eachOf (d.groups g) fun h d =>
    let d := (d.setI (THM_GRP_SPEED h) (clampI (-32768) 32767 (near (n * 100) (2 ^ 32)))).setB (THM_GRP_SPD_VALID h) ok
    d.tgrpUpd h fun t =>
      { t with n := n, restSince := if rest then (match t.restSince with | some x => some x | none => some d.mono) else none }
  if !d.bit (THM_ASC_ASC_EN g) then d.selPut g false
  else if !ok || speedAtLeast n (d.get (THM_ASC_ASC_ON g)) then d.selPut g true
  else d

/-- SPEED_CHECK (R311, R312). -/
def execSpeedCheck (s : State) : Out := s.thimble fun d => d.eachOf d.allGroups fun g d => d.speedRead g

/-- SEL_RELEASE_TIMER (R312): the speed of group `g` has been valid and below ASC_OFF for 10 ms. -/
def execSelReleaseTimer (g : Fin 2) (s : State) : Out :=
  s.thimble fun d =>
    if d.bit (THM_GRP_SPD_VALID g) && !speedAtLeast (d.tgrpAt g).n (d.get (THM_ASC_ASC_OFF g)) then
      d.selPut g false
    else d

/-! ## Safe stop 1 (R318) -/

/-- The envelope of SS1 exceeds |n|: times in ms, speeds in Q32.32 rev/s × 10,000. -/
def Dev.ss1Inside (d : Dev) (g ms : Nat) : Bool :=
  let t := d.tgrpAt g
  let n0 := 10000 * t.n0
  let tol := 1000 * 2 ^ 32 * d.get (THM_SS1_SS1_TOLN g)
  let t1 := d.get (THM_SS1_SS1_T1 g)
  let fall := 10 * 2 ^ 32 * d.get (THM_SS1_SS1_DEC g) * (ms - t1)
  10000 * t.n.natAbs ≤ (if ms ≤ t1 then n0 else n0 - fall) + tol

/-- The STO demand of SS1: completion, violation or deadline. -/
def Dev.ss1Demand (d : Dev) (g : Nat) : Dev := d.demandSto g 8

/-- SS1 of group `g` is violated: the SS1 latch and the STO demand (R318). -/
def Dev.ss1Violate (d : Dev) (g : Nat) : Dev :=
  let d := d.eachOf (d.groups g) fun h d => d.tgrpUpd h fun t => { t with ss1Flt := true }
  ((d.thmLatch 2 761).raise 761).ss1Demand g

/-- SS1 of group `g` is complete: the STO demand at once, or after the brake has had SBC_TB to engage (R318). -/
def Dev.ss1Complete (d : Dev) (g : Nat) : Dev :=
  let d := d.raise 761
  if d.bit THM_SBC_SBC_ORDER && d.brakeGroup g && d.bit THM_SBCST_RELEASED then
    d.brakeApply.eachOf (d.groups g) fun h d => d.tgrpUpd h fun t => { t with waitBrake := true }
  else d.ss1Demand g

/-- SS1_CHECK (R318): `ms` after the entry into SS1. -/
def execSs1Check (g : Fin 2) (ms : BitVec 16) (s : State) : Out :=
  s.thimble fun d =>
    if d.thmState g ≠ 2 then d
    else
      let d := d.eachOf (d.groups g) fun h d => d.set (THM_GRP_SS1_LEFT h) (d.get (THM_SS1_SS1_TMAX g) - ms.toNat)
      if (d.tgrpAt g).waitBrake then d
      else if !d.bit (THM_GRP_SPD_VALID g) || !d.ss1Inside g ms.toNat then d.ss1Violate g
      else if !speedAtLeast (d.tgrpAt g).n (d.get (THM_SS1_SS1_NSTOP g)) then d.ss1Complete g
      else d

/-- SS1_DEADLINE (R318): SS1_TMAX has elapsed; no latch. -/
def execSs1Deadline (g : Fin 2) (s : State) : Out :=
  s.thimble fun d => if d.thmState g = 2 then d.ss1Demand g else d

/-- SBC_ENGAGE_TIMER (R318): SBC_TB after the brake was applied. -/
def execSbcEngageTimer (g : Fin 2) (s : State) : Out :=
  s.thimble fun d => if d.thmState g = 2 ∧ (d.tgrpAt g).waitBrake then d.ss1Demand g else d

/-- STO_ASC_TIMEOUT (R315): the active short circuit is released and all paths are removed. -/
def execStoAscTimeout (g : Fin 2) (s : State) : Out :=
  s.thimble fun d => if d.thmState g = 4 then d.thmToSto g else d

/-- SAFE_TO_STO (R315): the unit is DISABLED and SEL is pulse-off. -/
def execSafeToSto (g : Fin 2) (s : State) : Out :=
  s.thimble fun d =>
    if d.thmState g = 3 ∧ d.get (CLU_STAT_STATE g) = 0 ∧ !d.selAsc g then d.thmToSto g else d

/-! ## Safety inputs (R323, R324) -/

/-- SAFETY_INPUT_CHANGE (R324): the filtered levels of channels a and b of pair `k`. Levels that change while Thimble does not run
are the ones it starts with. -/
def execSafetyInputChange (k : Fin 4) (a b : Bool) (s : State) : Out :=
  s.main fun d =>
    let a0 := d.siClosed k false
    let b0 := d.siClosed k true
    let d := d.set (THM_SI_LVL k) ((if a then 1 else 0) + (if b then 2 else 0))
    let (ta, tb) := Tab.find (fun _ => (0, 0)) d.thm.closedAt k
    let ta := if !a0 && d.siClosed k false then d.mono else ta
    let tb := if !b0 && d.siClosed k true then d.mono else tb
    let d := { d with thm := { d.thm with closedAt := Tab.put (fun _ => (0, 0)) d.thm.closedAt k (ta, tb) } }
    d.when d.thmRuns fun d => (d.siStep k).thmEvalAll

/-- SI_DISC (R324): the channels of pair `k` have differed for longer than DISC. -/
def execSiDisc (k : Fin 4) (s : State) : Out :=
  s.thimble fun d =>
    let st := d.get (THM_SI_STATE k)
    if (st = 1 ∨ st = 2) ∧ d.siClosed k false ≠ d.siClosed k true then
      let d := ({ d with thm := { d.thm with discPairs := d.thm.discPairs ||| 2 ^ k.val } }.siPut k 4).siCause
      (d.thmLatch 6 764).thmEvalAll
    else d

/-! ## Brake tests (R321) -/

/-- SBC_TEST_PULSE (R321): the output under test followed within 50 µs, or not. The command is the pulse from its start to its
end, so THM_SBCST.TESTING reads 0 before and after it (DESIGN CHOICE, log entry 95). -/
def execSbcTestPulse (ok : Bool) (s : State) : Out :=
  s.thimble fun d =>
    if !d.brakeOn then d
    else
      let d := d.count THM_CNT_SBC_TEST
      if ok then d else d.sbcFault

/-- SBC_APPLY_CHECK (R321): the coil current 10 ms after the brake was applied. -/
def execSbcApplyCheck (ma : BitVec 16) (s : State) : Out :=
  s.thimble fun d =>
    if !d.bit THM_SBC_SBC_EN || d.thm.fo14 || d.thm.fo15 then d
    else
      let d := d.set THM_SBCST_I_BRAKE ma.toNat
      if ma.toNat < 50 then d.clrBits THM_FLT_CAUSE 0x20 else (d.setBits THM_FLT_CAUSE 0x20).sbcFault

/-- SBC_CURRENT_LOW (R321): the coil current of a released brake is below I_MIN. -/
def execSbcCurrentLow (ma : BitVec 16) (s : State) : Out :=
  s.thimble fun d =>
    if !d.brakeOn then d
    else
      let d := d.set THM_SBCST_I_BRAKE ma.toNat
      if ma.toNat < d.get THM_SBC_I_MIN then d.sbcFault else d

/-! ## Torque monitor (R325, R326) -/

/-- Group `g` is running: its unit is in RUN or RUN_REC. -/
def Dev.tmRunning (d : Dev) (g : Nat) : Bool := d.get (CLU_STAT_STATE g) = 3 || d.get (CLU_STAT_STATE g) = 4

/-- P_dc in µW: the mean of TUDC × TIDC over the window's samples (codes of the two converters). -/
def Dev.tmPdc (d : Dev) (l : List (BitVec 12 × BitVec 12)) : Int :=
  let gu : Int := d.get THM_MISC_TUDC_GAIN
  let gi : Int := d.get THM_MISC_TIDC_GAIN
  let z : Int := d.get THM_MISC_TIDC_ZERO
  near (l.foldl (fun (a : Int) e => a + (e.1.toNat * gu) * ((e.2.toNat - z) * gi)) 0) (max 1 l.length)

/-- P_exp in µW: 2π × n × KT × iq_ref of the running groups, iq_ref the means of the window (R325). -/
def Dev.tmPexp (d : Dev) (iq0 iq1 : Int) : Int :=
  let one (g : Nat) : Int :=
    let iq := if d.six then iq0 + iq1 else if g = 0 then iq0 else iq1
    near (1000 * twoPi96 * (d.tgrpAt g).n * d.get (HEM_GLIM2_KT g) * iq) (2 ^ 160)
  ((d.allGroups.filter d.tmRunning).map one).foldl (· + ·) 0

/-- The monitor is blind (R326). -/
def Dev.tmBlind (d : Dev) : Bool :=
  let run := d.allGroups.filter d.tmRunning
  d.allGroups.any (fun g => d.get (CLU_STAT_STATE g) = 1 || d.get (CLU_STAT_STATE g) = 2)
    || d.thm.windGrp.isSome
    || run.any (fun g => !d.bit (THM_GRP_SPD_VALID g))
    || run.all fun g => !speedAtLeast (d.tgrpAt g).n (d.get THM_TMCFG_TM_NMIN)

/-- A window that the monitor judges: it fails, or the run of failing windows ends; TM_N in a row latch TM (R325). -/
def Dev.tmJudge (d : Dev) (pdc pexp : Int) (wasBlind : Bool) : Dev :=
  let bound : Int := d.get THM_TMCFG_TOL_W * 100000000 * 100 + d.get THM_TMCFG_TOL_PCT * pexp.natAbs
  let fails := if wasBlind then 0 else d.get THM_DC_TM_FAILS
  if 100 * ((pdc - pexp).natAbs : Int) ≤ bound then d.set THM_DC_TM_FAILS 0
  else
    let d := d.set THM_DC_TM_FAILS (min 255 (fails + 1))
    if fails + 1 < clampN 1 15 (d.get THM_TMCFG_TM_N) then d
    else
      let d := (d.thmLatch 3 763).raise 763
      (d.eachOf (d.allGroups.filter d.tmRunning) fun g d => d.groupSafe g true).thmEvalAll

/-- TUDC is shown in 0.1 V, with DISCHARGED below 60 V (R328). -/
def Dev.tudcShow (d : Dev) (v : Nat) : Dev := (d.set THM_DC_TUDC v).setB THM_DC_DISCHARGED (v < 600)

/-- The last samples of a window are shown in THM_DC (R345): TUDC in 0.1 V and TIDC in 0.1 A. -/
def Dev.dcShow (d : Dev) (l : List (BitVec 12 × BitVec 12)) : Dev :=
  match l.getLast? with
  | none => d
  | some (u, i) =>
    let v := near (u.toNat * d.get THM_MISC_TUDC_GAIN) 100
    let a := near (((i.toNat : Int) - d.get THM_MISC_TIDC_ZERO) * d.get THM_MISC_TIDC_GAIN) 100
    (d.tudcShow (min 65535 v.toNat)).setI THM_DC_TIDC (clampI (-32768) 32767 a)

/-- TM_WINDOW_END (R325, R326): the samples of the window and the means of CLU_IQREF over it. -/
def execTmWindowEnd (l : List (BitVec 12 × BitVec 12)) (iq0 iq1 : BitVec 64) (s : State) : Out :=
  s.thimble fun d =>
    let d := d.dcShow l
    if !d.bit THM_TMCFG_TM_EN then d
    else
      let pdc := d.tmPdc l
      let pexp := d.tmPexp iq0.toInt iq1.toInt
      let w (x : Int) : Int := clampI (-(2 ^ 31)) (2 ^ 31 - 1) (near x 1000000)
      let d := (d.setI THM_TM_PDC (w pdc)).setI THM_TM_PEXP (w pexp)
      let was := d.bit THM_DC_TM_BLIND
      let blind := d.tmBlind
      let d := d.setB THM_DC_TM_BLIND blind
      let d := if was = blind then d else d.raiseLim 763 1 1000000000
      if blind then d.count THM_CNT_TM_BLIND else d.tmJudge pdc pexp was

/-! ## DC link (R327 to R329) -/

/-- The enabled groups. -/
def Dev.enabledGroups (d : Dev) : List Nat := d.allGroups.filter d.grpOn

/-- |TUDC − UDC| of group `g` in Q32.32 V × 10. -/
def Dev.udcDiff (d : Dev) (g v : Nat) : Nat := ((v : Int) * 2 ^ 32 - 10 * d.q (A_CLU_UDC g)).natAbs

/-- UDC_DIV (R327): TUDC, in 0.1 V, and the UDC of an enabled group differ by more than 10 V + 3 % of TUDC, or TUDC is open
or at full scale (`bad`), and it has been so for 10 ms. A comparison within the bound ends the cause. -/
def execUdcDiv (v : BitVec 16) (bad : Bool) (s : State) : Out :=
  s.thimble fun d =>
    let v := v.toNat
    let d := d.tudcShow v
    let gs := d.enabledGroups.flatMap d.groups
    let diff := (gs.map fun g => d.udcDiff g v).foldl max 0
    let d := d.set THM_DC_UDC_DIFF (min 65535 (near diff (2 ^ 32)).toNat)
    if bad || (100 * 2 ^ 32 + 3 * v * 2 ^ 32 / 100 < diff) then
      let d := (d.setBits THM_FLT_CAUSE 0x10).thmLatch 4 0xFFFF
      (d.eachOf d.enabledGroups fun g d => d.groupSafe g true).thmEvalAll
    else d.clrBits THM_FLT_CAUSE 0x10

/-- DIS_SLOW (R328): a commanded run has lasted 2.0 s and TUDC, in 0.1 V, is not below 60 V. -/
def execDisSlow (v : BitVec 16) (s : State) : Out :=
  s.thimble fun d =>
    let d := d.tudcShow v.toNat
    if !d.thm.disRun || v.toNat < 600 then d
    else ((d.disEnd 2 1).thmLatch 7 0xFFFF).thmEvalAll

/-- WINDING_DISCHARGE_STOP (R329): TUDC, in 0.1 V, has been below 60 V for 10 ms, or the rotor is no longer at rest, or the group
has a demand. -/
def execWindingDischargeStop (v : BitVec 16) (s : State) : Out :=
  s.thimble fun d =>
    match d.thm.windGrp with
    | none => d
    | some g =>
      let d := d.tudcShow v.toNat
      if v.toNat < 600 ∨ (d.tgrpAt g).restSince = none ∨ d.stoDemanded g ∨ d.ss1Demanded g then d.windStop else d

/-! ## Lockout and unlock timers (R332, R333) -/

/-- The remaining lockout is kept as a two-copy commit and shown (R332, R446). -/
def Dev.lockPut (d : Dev) (sec : Nat) : Dev :=
  let d := if d.persistShut then d else { d with per := { d.per with lock := d.per.lock.commit sec } }
  (d.set THM_PWD_LOCK_S sec).setB THM_STAT_LOCKOUT (sec ≠ 0)

/-- LOCKOUT_EXPIRY (R332): the count of wrong passwords restarts. -/
def execLockoutExpiry (s : State) : Out :=
  s.thimble fun d => if d.bit THM_STAT_LOCKOUT then (d.lockPut 0).set THM_PWD_WRONG 0 else d

/-- LOCKOUT_SAVE (R332): 10 s of the lockout have passed. -/
def execLockoutSave (s : State) : Out :=
  s.thimble fun d => if d.bit THM_STAT_LOCKOUT then d.lockPut (max 1 (d.get THM_PWD_LOCK_S - 10)) else d

/-- UNLOCK_TIMEOUT (R333): 600 s without a lockstep request. -/
def execUnlockTimeout (s : State) : Out := s.mainMem fun s => if s.dev.thmRuns then s.endSafety 3 2 else s

/-! ## Requests (R330) -/

/-- The requests marked lockstep. -/
def lockReq (code : Nat) : Bool := [0x03, 0x04, 0x07, 0x08, 0x09, 0x10, 0x11, 0x12, 0x13, 0x14, 0x15].contains code

/-- The answer to a request appears in THM_RESP and RESP is raised; a refusal is counted (R330). -/
def Dev.thmAnswer (d : Dev) (tag code r : Nat) : Dev :=
  let d := ((d.set THM_RESP_TAG tag).set THM_RESP_CODE code).set THM_RESP_RESULT r
  (d.when (r ≠ 1) (·.count THM_CNT_REQ_REF)).raise 767

/-- The argument registers. -/
def Dev.thmArgs (d : Dev) : List (BitVec 64) := (List.range 8).map fun k => d.reg (A_HEM_THMARG k)

/-- A request written to HEM_THMREQ by origin `o` (R287, R330): refused as a safety-classed write, or as busy, else taken
with its arguments, which are cleared; `f` answers the result. -/
def State.thmReq (s : State) (o : Origin) (code tag : Nat) (f : State → List (BitVec 64) → State × Nat) : State :=
  if lockReq code && !s.dev.lockOrigin o then { s with dev := s.dev.classRef }
  else if s.dev.bit THM_RESP_BUSY then { s with dev := s.dev.thmAnswer tag code 9 }
  else if !s.dev.thmRuns then s
  else
    let args := s.dev.thmArgs
    let s := { s with dev := s.dev.each 8 fun k d => d.setReg (A_HEM_THMARG k) 0 }
    let (s, r) := f s args
    { s with dev := s.dev.thmAnswer tag code r }

/-- A request that acts on the device alone. -/
def onDev (f : Dev → List (BitVec 64) → Dev × Nat) (s : State) (a : List (BitVec 64)) : State × Nat :=
  let (d, r) := f s.dev a
  ({ s with dev := d }, r)

/-- ARG0. -/
def arg0 (a : List (BitVec 64)) : Nat := (a.headD 0).toNat

/-- STO and SS1 (R314): a firmware demand on the named groups. -/
def Dev.reqDemand (ss1 : Bool) (d : Dev) (a : List (BitVec 64)) : Dev × Nat :=
  let d := d.eachOf (d.allGroups.filter (d.names (arg0 a % 4))) fun g d =>
    let d := d.eachOf (d.groups g) fun h d =>
      d.tgrpUpd h fun t => if ss1 then { t with fwSs1 := true } else { t with fwSto := true }
    d.thmEval g
  (d, 1)

/-- STO_RELEASE of group `g`: the firmware demand ends, and with the release conditions met STO becomes PERMIT (R315). -/
def Dev.release (d : Dev) (g : Nat) : Dev :=
  let d := d.eachOf (d.groups g) fun h d => d.tgrpUpd h fun t => { t with fwSto := false, fwSs1 := false }
  let d := d.showDemand g
  if d.thmState g = 0 && d.relOk g then (d.thmPut g 1).permitGroup g else d

/-- STO_RELEASE (R315): refused with 5 unless every named group is in PERMIT then. -/
def Dev.reqRelease (d : Dev) (a : List (BitVec 64)) : Dev × Nat :=
  let gs := d.allGroups.filter (d.names (arg0 a % 4))
  let d := d.eachOf gs fun g d => d.release g
  (d, if gs.all fun g => d.thmState g = 1 then 1 else 5)

/-- BRAKE_RELEASE (R320). -/
def Dev.reqBrakeRelease (d : Dev) (_a : List (BitVec 64)) : Dev × Nat :=
  if d.bit THM_SBC_SBC_EN && (d.allGroups.filter d.brakeGroup).all (fun g => d.thmState g = 1 && d.tmRunning g) then
    let d := { d with thm := { d.thm with fo14 := true, fo15 := true } }
    (((d.set THM_SBCST_REL_REQ 1).brakeShow).raise 765, 1)
  else (d, 5)

/-- BRAKE_APPLY (R320). -/
def Dev.reqBrakeApply (d : Dev) (_a : List (BitVec 64)) : Dev × Nat := (d.brakeApply, 1)

/-- DIS_START (R328). -/
def Dev.reqDisStart (d : Dev) (_a : List (BitVec 64)) : Dev × Nat :=
  if d.allGroups.any fun g => d.thmState g = 1 || d.thmState g = 2 then (d, 5) else (d.disCommand, 1)

/-- DIS_STOP (R328). -/
def Dev.reqDisStop (d : Dev) (_a : List (BitVec 64)) : Dev × Nat :=
  if d.thm.disRun then (d.disEnd 2 1, 1) else (d, 5)

/-- The conditions of a winding discharge of group `g` (R329). -/
def Dev.windOk (d : Dev) (g : Nat) : Bool :=
  let st := d.get (CLU_STAT_STATE g)
  let still := match (d.tgrpAt g).restSince with | some t => t + 100 * ms1 ≤ d.mono | none => false
  d.thmState g = 0 && (st = 0 || st = 5) && !d.selAsc g
    && !(d.siDemands g false || d.siDemands g true || d.connDemands g false || d.connDemands g true) && still
    && d.thm.windGrp.isNone

/-- WIND_DIS (R329). Another group in PERMIT or SS1 loses a release condition (R316). -/
def Dev.reqWind (d : Dev) (a : List (BitVec 64)) : Dev × Nat :=
  let g := d.limGrp (arg0 a % 2)
  if d.windOk g then
    (Dev.eachOf { d with thm := { d.thm with windGrp := some g } } (d.allGroups.filter (· ≠ g)) fun h d => d.thmEval h, 1)
  else (d, 5)

/-- The latches of FO14 and FO15 are cleared (R322). -/
def Dev.clearBrakeLatches (d : Dev) : Dev :=
  let d := d.clrBits FIO_FLT_LATCH_SB 3
  d.eachOf [14, 15] fun n d => d.when (d.get (FIO_OSTAT_STATE n) = 4) (·.foPut n 0 0)

/-- CLEAR (R330, R343): latches whose cause has gone are cleared, those of FO14 and FO15 with THM_FLT.SBC or after a Thimble restart
has dropped it (R322); PATH is tested again afterwards. -/
def Dev.reqClear (d : Dev) (_a : List (BitVec 64)) : Dev × Nat :=
  let cause := d.get THM_FLT_CAUSE &&& 0x70
  let d := d.when (!cause.testBit 5) Dev.clearBrakeLatches
  let d := d.set THM_FLT_LATCH (d.get THM_FLT_LATCH &&& cause)
  let d := d.each 2 fun g d => d.tgrpUpd g fun t => { t with pathFlt := false, ss1Flt := false }
  let pairs := (List.range 4).filter fun k => d.thm.discPairs.testBit k && d.get (THM_SI_STATE k) = 4
  let d := { d with thm := { d.thm with discPairs := (pairs.map (2 ^ ·)).foldl (· + ·) 0 } }
  (d.brakeShow.thmEvalAll, 1)

/-! ## Password, unlocks and the change log (R331 to R337) -/

/-- `n` password bytes from argument `k` on (R330). -/
def pwdBytes (a : List (BitVec 64)) (k n : Nat) : List (BitVec 8) :=
  (((a.drop k).take 4).flatMap fun w => bytesLE 8 w.toNat).take n

/-- An upper-case hexadecimal digit. -/
def hexDigit (n : Nat) : BitVec 8 := BitVec.ofNat 8 (if n < 10 then 48 + n else 55 + n)

/-- The initial password: the 16 hexadecimal digits of SYS_UID (R331). -/
def initialPassword : List (BitVec 8) :=
  ((List.range 16).map fun i => hexDigit (Config.uid / 16 ^ (15 - i) % 16))

/-- SHA-256 of salt and password (R331). -/
def pwdHash (salt : BitVec 128) (p : List (BitVec 8)) : Nat := sha256 (bytesBE 16 salt.toNat ++ p)

/-- The password record in force. -/
def Dev.pwd (d : Dev) : Pwd := d.per.pwd.cur.getD {}

/-- Bytes `p` are the password. -/
def Dev.pwdIs (d : Dev) (p : List (BitVec 8)) : Bool :=
  if d.pwd.init then p = initialPassword else pwdHash d.pwd.salt p = d.pwd.hash

/-- A wrong password: counted; the fifth in a row starts the lockout, which is journalled (R332). -/
def Dev.pwdWrong (d : Dev) : Dev :=
  let d := (d.add THM_PWD_WRONG 1).count THM_CNT_PWD_FAIL
  if d.get THM_PWD_WRONG < 5 then d else ((d.lockPut 600).jnlThimble 766).raise 766

/-- A request that checks its password of `n` bytes (R331, R332): the refusal, or the device with the count reset. -/
def Dev.pwdCheck (d : Dev) (a : List (BitVec 64)) (n : Nat) (lens : Bool) (setsIt : Bool) : Dev × Option Nat :=
  if d.bit THM_STAT_LOCKOUT then (d, some 3)
  else if d.pwd.init && !setsIt then (d, some 10)
  else if !lens then (d, some 8)
  else if d.pwdIs (pwdBytes a 0 n) then (d.set THM_PWD_WRONG 0, none)
  else (d.pwdWrong, some 2)

/-- A length between 8 and 32. -/
def lenOk (n : Nat) : Bool := 8 ≤ n && n ≤ 32

/-- Unlocks open now. -/
def Dev.unlocks (d : Dev) : Nat := (d.get THM_STAT_SAFE_UNLOCK) + d.get THM_STAT_DEV_UNLOCK

/-- After one more entry, an entry stays free for each of `open_` unlocks (R335). -/
def Dev.logRoom (d : Dev) (open_ : Nat) : Bool := d.per.fill.cur.getD 0 + 1 + open_ ≤ 4096

/-- The ORIGIN code of a change-log entry (R336). -/
def logOrigin (o : Origin) : Nat := match originPair o with | some p => p | none => 3

/-- UNLOCK_SAFETY and UNLOCK_DEV (R333). An unlock that is open already stays so without a second entry. -/
def State.reqUnlock (dev : Bool) (o : Origin) (len1 : Nat) (s : State) (a : List (BitVec 64)) : State × Nat :=
  let f := if dev then THM_STAT_DEV_UNLOCK else THM_STAT_SAFE_UNLOCK
  match s.dev.pwdCheck a len1 (lenOk len1) false with
  | (d, some r) => ({ s with dev := d }, r)
  | (d, none) =>
    let s := { s with dev := d }
    if dev && !(d.bit SYS_IMGSTAT_DBG_ALLOW && d.thmState 0 = 0 && d.thmState 1 = 0) then (s, 5)
    else if d.bit f then (s, 1)
    else if !d.logRoom (d.unlocks + 1) then (s, 6)
    else
      let s := s.logEntry (if dev then 6 else 2) (logOrigin o) 0 0 0
      let d := s.dev.set f 1
      let d := if dev then d.showUnlock else { d with thm := { d.thm with rwsStored := 0 } }
      ({ s with dev := d.raise 766 }, 1)

/-- CLOSE (R333). -/
def State.reqClose (o : Origin) (s : State) (_a : List (BitVec 64)) : State × Nat :=
  if s.dev.unlocks = 0 then (s, 4) else ((s.endSafety (logOrigin o) 1).endDev (logOrigin o) 1, 1)

/-- The bytes of the section of type `typ` of the running image. -/
def State.section_ (s : State) (typ : Nat) : Option (List (BitVec 8)) :=
  match s.dev.boot.runSects.find? fun e => e.typ = typ with
  | some e => some (flashBytes s.flash (s.dev.get SYS_IMGSTAT_SLOT * 0x2000000 + e.off) e.len)
  | none => none

/-- The public key of block `b` is in a programmed, unrevoked slot of the role (R65). -/
def Dev.keyKnown (d : Dev) (safety : Bool) (b : List (BitVec 8)) : Bool :=
  let h := sha256 (b.take 64)
  d.per.keys.any fun e => e.2.programmed && !e.2.revoked && e.2.safety = safety && e.2.digest = h

/-- The safety section carries an accepted signature over its preceding bytes (R64, R65). -/
def Dev.safetySigned (d : Dev) (l : List (BitVec 8)) : Bool :=
  let body := l.take (l.length - 128)
  let blk := l.drop (l.length - 128)
  128 ≤ l.length && d.keyKnown true blk && sigBlockOk blk (sha256 body)

/-- The value a list of records gives the register at `a`. -/
def recOf (r : List (Nat × BitVec 64)) (a : Nat) : BitVec 64 := ((r.find? fun e => e.1 = a).map (·.2)).getD 0

/-- What INSTALL refuses in a well laid out set: FLOW_FMIN below 10 % (R296), BRK_OFF above BRK_ON − 10 V (R191) and ASC_OFF not
below ASC_ON (R312). -/
def setBounds (r : List (Nat × BitVec 64)) : Bool :=
  10 ≤ fieldGet (recOf r A_HEM_DERCFG) 24 8
    && decide (fieldGet (recOf r A_GCH_BRK) 32 16 + 10 ≤ fieldGet (recOf r A_GCH_BRK) 48 16)
    && [0, 1].all fun g => fieldGet (recOf r (A_THM_ASC g)) 32 16 < fieldGet (recOf r (A_THM_ASC g)) 48 16

/-- The limits of a set take effect at once: what follows them is evaluated again (R291, R334). A half period follows a new
HALF_MIN from its next valley on (R149, log entry 88). -/
def Dev.setActs (d : Dev) : Dev :=
  let d := d.showSet.carClamps
  let d := d.each 12 fun n d => d.coilClamp n
  let d := d.each 4 fun k d =>
    let used := d.get (THM_SICFG_FUNC k) ≠ 0
    if used = (d.get (THM_SI_STATE k) ≠ 0) then d else d.siStart k
  let d := d.eachOf d.allGroups fun g d => if d.bit (THM_ASC_ASC_EN g) then d else d.selPut g false
  let d := (d.set SYS_IMGSTAT_SAFE_ABSENT 0).set SYS_IMGSTAT_SAFE_MISMATCH 0
  (d.hemHold 4 d.startFault).thmEvalAll

/-- INSTALL (R334, R338): the type 2 and type 8 sections of the running image become the committed set. -/
def State.reqInstall (o : Origin) (s : State) (_a : List (BitVec 64)) : State × Nat :=
  let d := s.dev
  if !d.bit THM_STAT_SAFE_UNLOCK then (s, 4)
  else if d.thmState 0 ≠ 0 ∨ d.thmState 1 ≠ 0 ∨ (List.range 12).any fun n => d.get (STP_STAT_STATE n) ≠ 0 then (s, 5)
  else
    match s.section_ 2, s.section_ 8 with
    | some l2, some l8 =>
      let body := l2.take (l2.length - 128)
      let r := setRecs (body.length / 16) body ++ setRecs (l8.length / 16) l8
      if !d.safetySigned l2 then (s, 7)
      else if !(setLayoutOk safeRegs body && setLayoutOk hemRegs l8 && setBounds r) then (s, 8)
      else if !d.logRoom d.unlocks then (s, 6)
      else
        let set : SafeSet := { present := true, recs := r, safeDig := sha256 l2, hemDig := sha256 l8 }
        let d := { d with per := { d.per with safe := d.per.safe.commit set } }
        let dig := sha256 (bytesBE 32 set.safeDig ++ bytesBE 32 set.hemDig)
        let s := State.logEntry { s with dev := d.setActs } 4 (logOrigin o) 0 dig 0
        ({ s with dev := s.dev.raise 766 }, 1)
    | _, _ => (s, 8)

/-- SET_PASSWORD (R331): a new salt, free bits of Thimble's entropy source, and the hash of the new password. -/
def State.reqPassword (o : Origin) (len1 len2 : Nat) (s : State) (a : List (BitVec 64)) : State × Nat :=
  match s.dev.pwdCheck a len1 (lenOk len1 && lenOk len2) true with
  | (d, some r) => ({ s with dev := d }, r)
  | (d, none) =>
    if !d.logRoom d.unlocks then ({ s with dev := d }, 6)
    else
      let hi := d.freeVal
      let d := d.drawn
      let salt : BitVec 128 := hi ++ d.freeVal
      let d := d.drawn
      let p : Pwd := { init := false, salt := salt, hash := pwdHash salt (pwdBytes a 4 len2) }
      let d := { d with per := { d.per with pwd := d.per.pwd.commit p } }
      let s := State.logEntry { s with dev := d.set THM_STAT_PWD_INIT 0 } 1 (logOrigin o) 0 0 0
      ({ s with dev := s.dev.raise 766 }, 1)

/-- The change log is erased (R337). -/
def eraseLog (m : List Host.Cell) (n : Nat) : List Host.Cell :=
  Tab.keep (fun a => !(0x20200000 ≤ a && a < 0x20200000 + 64 * n)) m

/-- ACK_LOG (R337): the digest of entries 0 to FILL − 1 as stored acknowledges the log, which is erased. -/
def State.reqAckLog (o : Origin) (len1 : Nat) (s : State) (a : List (BitVec 64)) : State × Nat :=
  match s.dev.pwdCheck a len1 (lenOk len1) false with
  | (d, some r) => ({ s with dev := d }, r)
  | (d, none) =>
    let n := d.per.fill.cur.getD 0
    let want := ofBytesBE (pwdBytes a 4 32)
    if sha256 (rdBytes s.mem 0x20200000 (64 * n)) ≠ want then ({ s with dev := d }, 7)
    else
      let d := { d with per := { d.per with fill := d.per.fill.commit 0, acks := d.per.acks + 1 } }
      let d := d.set THM_CLOG_ACKS (min d.per.acks 65535)
      let s := State.logEntry { s with dev := d, mem := eraseLog s.mem n } 5 (logOrigin o) n want 0
      ({ s with dev := s.dev.raise 766 }, 1)

/-- A request of HEM_THMREQ by its code (R330); a code not listed is refused with 8. -/
def State.reqByCode (o : Origin) (code len1 len2 : Nat) (s : State) (a : List (BitVec 64)) : State × Nat :=
  match code with
  | 0x01 => onDev (Dev.reqDemand false) s a
  | 0x02 => onDev (Dev.reqDemand true) s a
  | 0x03 => onDev Dev.reqRelease s a
  | 0x04 => onDev Dev.reqBrakeRelease s a
  | 0x05 => onDev Dev.reqBrakeApply s a
  | 0x06 => onDev Dev.reqDisStart s a
  | 0x07 => onDev Dev.reqDisStop s a
  | 0x08 => onDev Dev.reqWind s a
  | 0x09 => onDev Dev.reqClear s a
  | 0x10 => s.reqUnlock false o len1 a
  | 0x11 => s.reqUnlock true o len1 a
  | 0x12 => s.reqClose o a
  | 0x13 => s.reqInstall o a
  | 0x14 => s.reqPassword o len1 len2 a
  | 0x15 => s.reqAckLog o len1 a
  | _ => (s, 8)

/-- A write of HEM_THMREQ. -/
def State.thmreqWrite (s : State) (o : Origin) (code tag len1 len2 : Nat) : State :=
  s.thmReq o code tag (State.reqByCode o code len1 len2)

/-- STO (R314, R330): groups in ARG0. -/
def execSto (o : Origin) (tag : BitVec 16) (s : State) : Out :=
  s.byOriginMem o fun s => s.thmreqWrite o 0x01 tag.toNat 0 0

/-- SS1 (R314, R330): groups in ARG0. -/
def execSs1 (o : Origin) (tag : BitVec 16) (s : State) : Out :=
  s.byOriginMem o fun s => s.thmreqWrite o 0x02 tag.toNat 0 0

/-- STO_RELEASE (R315, R330): groups in ARG0. -/
def execStoRelease (o : Origin) (tag : BitVec 16) (s : State) : Out :=
  s.byOriginMem o fun s => s.thmreqWrite o 0x03 tag.toNat 0 0

/-- BRAKE_RELEASE (R320). -/
def execBrakeRelease (o : Origin) (tag : BitVec 16) (s : State) : Out :=
  s.byOriginMem o fun s => s.thmreqWrite o 0x04 tag.toNat 0 0

/-- BRAKE_APPLY (R320). -/
def execBrakeApply (o : Origin) (tag : BitVec 16) (s : State) : Out :=
  s.byOriginMem o fun s => s.thmreqWrite o 0x05 tag.toNat 0 0

/-- DIS_START (R328). -/
def execDisStart (o : Origin) (tag : BitVec 16) (s : State) : Out :=
  s.byOriginMem o fun s => s.thmreqWrite o 0x06 tag.toNat 0 0

/-- DIS_STOP (R328). -/
def execDisStop (o : Origin) (tag : BitVec 16) (s : State) : Out :=
  s.byOriginMem o fun s => s.thmreqWrite o 0x07 tag.toNat 0 0

/-- WIND_DIS (R329): the group in ARG0[0]. -/
def execWindDis (o : Origin) (tag : BitVec 16) (s : State) : Out :=
  s.byOriginMem o fun s => s.thmreqWrite o 0x08 tag.toNat 0 0

/-- CLEAR (R330). -/
def execClear (o : Origin) (tag : BitVec 16) (s : State) : Out :=
  s.byOriginMem o fun s => s.thmreqWrite o 0x09 tag.toNat 0 0

/-- UNLOCK_SAFETY (R333): the password in ARG0 to ARG3. -/
def execUnlockSafety (o : Origin) (tag : BitVec 16) (len1 : BitVec 8) (s : State) : Out :=
  s.byOriginMem o fun s => s.thmreqWrite o 0x10 tag.toNat len1.toNat 0

/-- UNLOCK_DEV (R333): the password in ARG0 to ARG3. -/
def execUnlockDev (o : Origin) (tag : BitVec 16) (len1 : BitVec 8) (s : State) : Out :=
  s.byOriginMem o fun s => s.thmreqWrite o 0x11 tag.toNat len1.toNat 0

/-- CLOSE (R333). -/
def execClose (o : Origin) (tag : BitVec 16) (s : State) : Out :=
  s.byOriginMem o fun s => s.thmreqWrite o 0x12 tag.toNat 0 0

/-- INSTALL (R334). -/
def execInstall (o : Origin) (tag : BitVec 16) (s : State) : Out :=
  s.byOriginMem o fun s => s.thmreqWrite o 0x13 tag.toNat 0 0

/-- SET_PASSWORD (R331): the old password in ARG0 to ARG3, the new one in ARG4 to ARG7. -/
def execSetPassword (o : Origin) (tag : BitVec 16) (len1 len2 : BitVec 8) (s : State) : Out :=
  s.byOriginMem o fun s => s.thmreqWrite o 0x14 tag.toNat len1.toNat len2.toNat

/-- ACK_LOG (R337): the password in ARG0 to ARG3, the digest in ARG4 to ARG7. -/
def execAckLog (o : Origin) (tag : BitVec 16) (len1 : BitVec 8) (s : State) : Out :=
  s.byOriginMem o fun s => s.thmreqWrite o 0x15 tag.toNat len1.toNat 0

/-- The codes of the request table (R330). -/
def reqCodes : List Nat := [1, 2, 3, 4, 5, 6, 7, 8, 9, 0x10, 0x11, 0x12, 0x13, 0x14, 0x15]

/-- UNKNOWN_REQUEST (R330): a CODE not in the request table. -/
def execUnknownRequest (o : Origin) (code : BitVec 8) (tag : BitVec 16) (s : State) : Out :=
  s.byOriginMem o fun s =>
    if reqCodes.contains code.toNat then s else s.thmreqWrite o code.toNat tag.toNat 0 0

end Sys2Proof.Machine
end

