-- ==== Sys2Proof/Machine/Sfl.lean ====
section
/-!
DEFINITION. Machine/Sfl.lean: safety frames and connections (R377 to R385).
-/
namespace Sys2Proof.Machine

/-! ## Frames (R377 to R379) -/

/-- CRC-32/AUTOSAR of a list of bytes: reflected polynomial 0xC8DF352F, preset and final exclusive-or all ones (R395). -/
def crcAutosar (l : List (BitVec 8)) : Nat := (l.foldl (crcByteR 0xC8DF352F) 0xFFFFFFFF) ^^^ 0xFFFFFFFF

/-- A safety frame of a connection whose producer is `uid` (R377, R378). -/
def sflFrame (uid ver kind id seq texp : Nat) (pay : List (BitVec 8)) : List (BitVec 8) :=
  let body := [BitVec.ofNat 8 (ver * 16 + kind), BitVec.ofNat 8 pay.length] ++ bytesLE 4 id ++ bytesLE 2 seq
    ++ bytesLE 2 texp ++ pay
  body ++ bytesLE 4 (crcAutosar (bytesLE 8 uid ++ body))

/-- Connection `k` is enabled: EN acts as 0 while CONN_ID is 0. -/
def Dev.sflOn (d : Dev) (k : Nat) : Bool := d.bit (SFL_CCFG_EN k) && d.get (SFL_CCFG_CONN_ID k) ≠ 0

/-- The identity of the connection's producer: the virtual header (R378). -/
def Dev.sflProducer (d : Dev) (k : Nat) : Nat := if d.bit (SFL_CCFG_DIR k) then Config.uid else d.get (SFL_CPEER_UID k)

/-- TEXP of connection `k`: 0 acts as 1. -/
def Dev.sflTexp (d : Dev) (k : Nat) : Nat := max 1 (d.get (SFL_CCFG_TEXP k))

/-! ## The transmit queue (R382) -/

/-- TXCTL shows the head frame and the level. -/
def Dev.sflShow (d : Dev) : Dev :=
  let (k, n) := match d.sfl.txq with | [] => (0, 0) | e :: _ => (e.1, e.2.length)
  ((d.set SFL_TXCTL_LEVEL d.sfl.txq.length).set SFL_TXCTL_CONN k).set SFL_TXCTL_LEN n

/-- Queue a frame of connection `k` with the connection's SEQ, or drop and count it; TX as the queue becomes non-empty. -/
def Dev.sflSend (d : Dev) (k ver kind : Nat) (pay : List (BitVec 8)) : Dev :=
  if 16 ≤ d.sfl.txq.length then d.count SFL_CNT_TX_DROP
  else
    let f := sflFrame (d.sflProducer k) ver kind (d.get (SFL_CCFG_CONN_ID k)) (d.get (SFL_CSTAT_SEQ k)) (d.sflTexp k) pay
    let was := d.sfl.txq.isEmpty
    let d := Dev.sflShow { d with sfl := { txq := d.sfl.txq ++ [(k, f)] } }
    d.when was (·.raise 600)

/-- TX_POP (R382). -/
def Dev.sflPop (d : Dev) : Dev := Dev.sflShow { d with sfl := { txq := d.sfl.txq.tail } }

/-- TX_POP (R382). -/
def execTxPop (s : State) : Out := s.byReg Dev.sflPop

/-! ## Connection states (R385) -/

/-- Thimble acts on a change of connection `k`, if it is of class THM; a write that takes the class away has Thimble evaluate too
(`Dev.actNet`, R381). -/
def Dev.sflThm (d : Dev) (k : Nat) : Dev := d.when (d.bit (SFL_CCFG_CLASS k)) Dev.thmEvalAll

/-- The state of connection `k` becomes `st`; one that leaves OPEN has no PERMIT. -/
def Dev.sflPut (d : Dev) (k st : Nat) : Dev :=
  (d.connUpd k fun c => { c with permit := c.permit && st = 2 }).set (SFL_CSTAT_STATE k) st

/-- A connection that was OPEN goes down to `st`: CONN_DOWN. -/
def Dev.sflDown (d : Dev) (k st : Nat) : Dev := (d.sflPut k st).raise 603

/-- Module time for the window of R384: the failures of the last 1,000 ms. -/
def Dev.crcRecent (d : Dev) (k : Nat) : List Nat := (d.connAt k).crcAt.filter fun t => d.mono < t + 1000 * ms1

/-- A CRC failure on connection `k` (R384): at CRC_MAX in 1,000 ms it becomes FAILED, with a journal entry. -/
def Dev.sflCrcFail (d : Dev) (k : Nat) : Dev :=
  let l := d.crcRecent k ++ [d.mono]
  let d := (d.connUpd k fun c => { c with crcAt := l }).count SFL_CNT_CRC_ERR
  let d := d.set (SFL_CSTAT_CRC_1S k) (min 255 l.length)
  let st := d.get (SFL_CSTAT_STATE k)
  if (st = 1 ∨ st = 2) ∧ clampN 1 255 (d.get SFL_DOMCFG_CRC_MAX) ≤ l.length then
    ((d.sflDown k 3).jnlFault 603 (A_SFL_CSTAT k) (A_SFL_CCFG k)).sflThm k
  else d

/-- EN of connection `k` becomes `en` (R385): a new connection is OPENING; an OPEN one that ends sends CLOSE with reason 1. -/
def Dev.sflEnable (d : Dev) (k : Nat) (en : Bool) : Dev :=
  let was := d.get (SFL_CSTAT_STATE k)
  let d := d.when (was = 2 && !en) (·.sflSend k (d.get (SFL_CSTAT_VER k)) 3 [1])
  let d := d.setB (SFL_CCFG_EN k) en
  let d :=
    if d.sflOn k then d.when (was = 0) (·.sflPut k 1)
    else if was = 0 then d
    else (d.sflPut k 0).connUpd k fun _ => {}
  d.sflThm k

/-- CONNECTION_ENABLE (R385), with the conditions of an RWS field (R12). -/
def execConnectionEnable (o : Origin) (k : Fin 256) (en : Bool) (s : State) : Out :=
  s.byOrigin o fun d =>
    if d.bit (SFL_CCFG_EN k) = en then d
    else if d.rwsOk o then (d.rwsStored).sflEnable k en
    else d.rwsRefuse o

/-- The THM payload (R381). -/
def Dev.thmPayload (d : Dev) (k : Nat) : List (BitVec 8) :=
  let closed := (List.range 4).filter fun j => d.get (THM_SI_STATE j) = 3
  let all := (List.range 4).all fun j => !d.tb (SFL_CCFG_PAIRS k) j || closed.contains j
  let permit := d.get THM_STAT_STATE = 1 && all
  [if permit then 1 else 0, BitVec.ofNat 8 (closed.foldl (fun a j => a + 2 ^ j) 0),
   BitVec.ofNat 8 (d.get (THM_GRP_STATE 0)), BitVec.ofNat 8 (d.get (THM_GRP_STATE 1)), 0, 0, 0, 0]

/-- Send DATA with the next SEQ. -/
def Dev.sflData (d : Dev) (k : Nat) (pay : List (BitVec 8)) : Dev :=
  (d.set (SFL_CSTAT_SEQ k) (d.get (SFL_CSTAT_SEQ k) + 1)).sflSend k (d.get (SFL_CSTAT_VER k)) 0 pay

/-- CONNECTION_CYCLE (R381, R385): a producer sends OPEN while OPENING, its SEQ the low bits of module time, and a THM
producer DATA while OPEN. -/
def execConnectionCycle (k : Fin 256) (s : State) : Out :=
  s.onClk 0 fun d =>
    if !d.sflOn k ∨ !d.bit (SFL_CCFG_DIR k) then d
    else
      match d.get (SFL_CSTAT_STATE k) with
      | 1 => (d.set (SFL_CSTAT_SEQ k) d.time).sflSend k 0 1 [1, 1]
      | 2 => d.when (d.bit (SFL_CCFG_CLASS k)) fun d => d.sflData k (d.thmPayload k)
      | _ => d

/-- CONNECTION_WATCHDOG (R385). -/
def execConnectionWatchdog (k : Fin 256) (s : State) : Out :=
  s.main fun d =>
    if d.sflOn k ∧ !d.bit (SFL_CCFG_DIR k) ∧ d.get (SFL_CSTAT_STATE k) = 2 then
      ((d.sflDown k 1).count SFL_CNT_TIMEOUT).sflThm k
    else d

/-- APPSEND (R381, R382): an OPEN APP producer sends the first `len` bytes of SFL_APPBUF, 1 to 240. -/
def State.appSend (s : State) (k len : Nat) : State :=
  let d := s.dev
  if d.sflOn k ∧ d.bit (SFL_CCFG_DIR k) ∧ !d.bit (SFL_CCFG_CLASS k) ∧ d.get (SFL_CSTAT_STATE k) = 2 then
    { s with dev := d.sflData k (rdBytes s.mem 0x40B00300 (clampN 1 240 len)) }
  else s

/-- APPSEND (R382). -/
def execAppsend (k : Fin 256) (len : BitVec 8) (s : State) : Out := s.byRegMem fun s => s.appSend k len.toNat

/-! ## Receive checks (R383) -/

/-- The result of judging a frame: shown with the connection, REJECTED and REJECT on a failure, RX_RESULT always. -/
def Dev.sflResult (d : Dev) (k : Option Nat) (r : Nat) : Dev :=
  let d := d.set SFL_RXCTL_RESULT r
  let d := match k with
    | some k => (d.set SFL_RXCTL_CONN k).when (r ≠ 1) (·.set (SFL_CSTAT_LAST_REJ k) r)
    | none => d
  let d := d.when (r ≠ 1) fun d => (d.count SFL_CNT_REJECTED).raiseLim 604 0 ms1
  d.raise 601

/-- The enabled connection that `id` names and towards this module of which a frame of this kind travels: DATA and OPEN to a
consumer, OPEN_ACK to a producer, CLOSE to both. -/
def Dev.sflFind (d : Dev) (id kind : Nat) : Option Nat :=
  d.connList.find? fun k =>
    d.sflOn k && d.get (SFL_CCFG_CONN_ID k) = id &&
      (kind = 3 || (d.bit (SFL_CCFG_DIR k) && kind = 2) || (!d.bit (SFL_CCFG_DIR k) && kind < 2))

/-- An OPEN is accepted in OPENING: with version 1 in its range the connection is OPEN (R385). -/
def Dev.sflOpened (d : Dev) (k seq : Nat) (pay : List (BitVec 8)) : Dev :=
  let d := d.set (SFL_CSTAT_SEQ k) seq
  if (pay.getD 0 0).toNat ≤ 1 ∧ 1 ≤ (pay.getD 1 0).toNat then
    (((d.set (SFL_CSTAT_VER k) 1).sflPut k 2).sflSend k 0 2 [1]).raise 602
  else ((d.sflSend k 0 2 [0]).count SFL_DOMCNT_VER_REF).raise 609

/-- An accepted frame of connection `k` acts (R385). -/
def Dev.sflAccept (d : Dev) (k kind seq : Nat) (pay : List (BitVec 8)) : Dev :=
  let st := d.get (SFL_CSTAT_STATE k)
  let d := match kind with
    | 0 =>
      let lost := (seq + 65536 - d.get (SFL_CSTAT_SEQ k)) % 65536 - 1
      let d := (d.add (SFL_CSTAT_LOST k) lost).set (SFL_CSTAT_SEQ k) seq
      d.connUpd k fun c => { c with permit := d.bit (SFL_CCFG_CLASS k) && (pay.getD 0 0).toNat.testBit 0 }
    | 1 => (d.when (st = 2) (·.sflDown k 1)).sflOpened k seq pay
    | 2 =>
      if pay.getD 0 0 = 0 then (d.count SFL_DOMCNT_VER_REF).raise 609
      else ((d.set (SFL_CSTAT_VER k) (pay.getD 0 0).toNat).sflPut k 2).raise 602
    | _ => d.sflDown k 1
  d.sflThm k

/-- The checks 4 to 7 on an identified frame whose CRC holds; 1 where it is accepted. -/
def Dev.sflChecks (d : Dev) (k kind ver seq texp : Nat) : Nat :=
  let st := d.get (SFL_CSTAT_STATE k)
  let delta := (seq + 65536 - d.get (SFL_CSTAT_SEQ k)) % 65536
  if ver ≠ (if kind = 1 ∨ kind = 2 then 0 else d.get (SFL_CSTAT_VER k)) then 5
  else if kind < 2 ∧ texp ≠ d.sflTexp k then 6
  else if kind = 0 ∧ ¬(1 ≤ delta ∧ delta ≤ 8) then 7
  else if (kind = 1 ∧ (st = 1 ∨ st = 2)) ∨ (kind = 2 ∧ st = 1) ∨ ((kind = 0 ∨ kind = 3) ∧ st = 2) then 1
  else 8

/-- SFL judges a submitted frame (R383). -/
def Dev.sflJudge (d : Dev) (f : List (BitVec 8)) : Dev :=
  let len := (f.getD 1 0).toNat
  if f.length ≠ len + 14 ∨ len = 0 ∨ 240 < len then d.sflResult none 2
  else
    let ver := (f.getD 0 0).toNat / 16
    let kind := (f.getD 0 0).toNat % 16
    let id := ofBytesLE ((f.drop 2).take 4)
    let seq := ofBytesLE ((f.drop 6).take 2)
    let texp := ofBytesLE ((f.drop 8).take 2)
    match d.sflFind id kind with
    | none => d.sflResult none 3
    | some k =>
      if crcAutosar (bytesLE 8 (d.sflProducer k) ++ f.take (len + 10)) ≠ ofBytesLE (f.drop (len + 10)) then
        (d.sflResult (some k) 4).sflCrcFail k
      else if kind = 0 ∧ d.get (SFL_CSTAT_STATE k) = 1 then (d.sflResult (some k) 8).sflSend k ver 3 [2]
      else
        let r := d.sflChecks k kind ver seq texp
        let d := d.sflResult (some k) r
        if r = 1 then d.sflAccept k kind seq ((f.drop 10).take len) else d

/-- SUBMIT (R382, R383): SFL judges the first `len` bytes of SFL_RXBUF. -/
def State.sflSubmit (s : State) (len : Nat) : State :=
  { s with dev := s.dev.sflJudge (rdBytes s.mem 0x40B00200 (min len 257)) }

/-- SUBMIT (R383). -/
def execSubmit (len : BitVec 16) (s : State) : Out := s.byRegMem fun s => s.sflSubmit len.toNat

end Sys2Proof.Machine
end

