-- ==== Sys2Proof/Machine/CanCore.lean ====
section
/-!
DEFINITION. Machine/CanCore.lean: what the CAN controllers do with transmit requests: the frame in memory (R355), the
arbitration among the pending frames (R356), the ends of a request (R357), the error counters and states (R362, R363).
-/
namespace Sys2Proof.Machine

/-- Event source `off` of CAN controller `n` (R373). -/
def canSrc (n off : Nat) : Nat := 520 + 16 * n + off

/-- The controller takes part in the bus: ACTIVE or PASSIVE (R363). -/
def Dev.canOn (d : Dev) (n : Nat) : Bool := d.get (CAN_STAT_STATE n) = 2 || d.get (CAN_STAT_STATE n) = 3

/-- The transceiver of controller `n` is in a mode that takes part in the bus: in standby its transmitter is off and its receiver
only looks for the wake-up pattern (R348). In SLEEP_PREP every transceiver is in standby or off (R364). -/
def Dev.canXcvr (d : Dev) (n : Nat) : Bool := d.get (CAN_CTL_TRX_MODE n) ≠ 0 && d.get SYS_PWRSTATE_STATE ≠ 3

/-! ## Frames in memory (R354, R355) -/

/-- The address of transmit buffer `b` of controller `n` (R354). -/
def canBuf (n b : Nat) : Nat := A_CAN_CTL n + 0x1000 + b * 0x900

/-- The address of high-priority slot `k` of controller `n` (R354). -/
def canHp (n k : Nat) : Nat := A_CAN_CTL n + 0x4000 + k * 0x900

/-- The room a frame of `len` data bytes takes: 24 header bytes and the data, up to a multiple of 8 (R355). -/
def canSize (len : Nat) : Nat := 24 + (len + 7) / 8 * 8

/-- A frame in memory with its stamp and the filter that placed it (R355). -/
def canBytes (f : CanFrame) (stamp filter : Nat) : List (BitVec 8) :=
  let b (x : Bool) (k : Nat) : Nat := if x then 2 ^ k else 0
  let w1 := f.fmt.val * 2 ^ 62 + b f.ide 61 + b f.rtr 60 + b f.brs 59 + b f.esi 58 + filter * 2 ^ 48
    + f.data.length % 4096 * 2 ^ 36 + f.id.toNat
  let w2 := if f.fmt = 2 then f.af.toNat * 2 ^ 32 + f.vcid.toNat * 2 ^ 24 + f.sdt.toNat * 2 ^ 16 + b f.sec 15 else 0
  bytesLE 8 stamp ++ bytesLE 8 w1 ++ bytesLE 8 w2 ++ f.data

/-- The lengths an FD frame may have (R347). -/
def fdLens : List Nat := [0, 1, 2, 3, 4, 5, 6, 7, 8, 12, 16, 20, 24, 32, 48, 64]

/-- The frame in the transmit buffer at `a`, an FD length raised to the next permitted one and padded with 0x00 (R355);
none where the buffer names format 3. -/
def canRead (m : List Host.Cell) (a : Nat) : Option CanFrame :=
  let w1 := rdLE m (a + 8) 8
  let w2 := rdLE m (a + 16) 8
  let len := w1 / 2 ^ 36 % 4096
  let fmt := w1 / 2 ^ 62
  let data := rdBytes m (a + 24) len
  let pad := (fdLens.filter fun n => len ≤ n).headD len - len
  if h : fmt < 3 then
    some { fmt := ⟨fmt, h⟩, ide := w1.testBit 61, rtr := w1.testBit 60, brs := w1.testBit 59, esi := false,
           id := BitVec.ofNat 29 w1, data := if fmt = 1 then data ++ List.replicate pad 0 else data,
           af := BitVec.ofNat 32 (w2 / 2 ^ 32), vcid := BitVec.ofNat 8 (w2 / 2 ^ 24), sdt := BitVec.ofNat 8 (w2 / 2 ^ 16),
           sec := w2.testBit 15 }
  else none

/-- Controller `n` sends and receives frames of this format (R347). -/
def Dev.canEnabled (d : Dev) (n : Nat) (f : CanFrame) : Bool :=
  f.fmt = 0 || (f.fmt = 1 && d.bit (CAN_CTL_FD_EN n)) || (f.fmt = 2 && d.bit (CAN_CTL_XL_EN n))

/-- A frame's data length is one of its format (R347, R355). -/
def canLenOk (f : CanFrame) : Bool :=
  if f.fmt = 0 then f.data.length ≤ 8
  else if f.fmt = 1 then fdLens.contains f.data.length
  else 1 ≤ f.data.length && f.data.length ≤ 2048

/-- Buffer `b` names a frame that controller `n` may send (R357). -/
def State.canValid (s : State) (n b : Nat) : Bool :=
  match canRead s.mem (canBuf n b) with
  | none => false
  | some f => s.dev.canEnabled n f && canLenOk f

/-- The arbitration field as a number: of two frames that start together the lower one wins. -/
def canKey (f : CanFrame) : Nat :=
  let b (x : Bool) (k : Nat) : Nat := if x then 2 ^ k else 0
  let base := f.id.toNat / 2 ^ 18 * 2 ^ 21
  if f.ide ∧ f.fmt ≠ 2 then base + 2 ^ 20 + 2 ^ 19 + f.id.toNat % 2 ^ 18 * 2 + b (f.rtr && f.fmt = 0) 0
  else base + b (f.rtr && f.fmt ≠ 1) 20

/-! ## Requests and their ends (R357) -/

/-- The request of buffer `b` ends: TXREQ and TXABORT clear. -/
def Dev.canEnd (d : Dev) (n b : Nat) : Dev := (d.clrBits (CAN_TXCTL_TXREQ n) (2 ^ b)).clrBits (CAN_TXCTL_TXABORT n) (2 ^ b)

/-- The request of buffer `b` fails with cause `why` (R357). -/
def Dev.canFail (d : Dev) (n b why : Nat) : Dev :=
  ((((d.canEnd n b).setBits (CAN_TXCTL_TXFAIL n) (2 ^ b)).set (CAN_TXCTL_FAIL_WHY n) why).raise (canSrc n 6))

/-- Every pending request of controller `n` but that of the frame `keep` fails with cause `why`; so do the frames of the
time slot, which are dropped. -/
def Dev.canFailAll (d : Dev) (n why : Nat) (keep : Option Nat) : Dev :=
  let d := d.each 3 fun b d => d.when (d.tb (CAN_TXCTL_TXREQ n) b && keep ≠ some b) (·.canFail n b why)
  d.canUpd n fun r =>
    { r with slot := if keep = some 3 then r.slot.take 1 else [], arb := keep }

/-- The buffer among `l` that R356 selects. -/
def State.canPick (s : State) (n : Nat) (l : List Nat) : Option Nat :=
  let key (b : Nat) : Nat := match canRead s.mem (canBuf n b) with | some f => canKey f | none => 0
  l.foldl (fun best b =>
    match best with
    | none => some b
    | some c => if s.dev.get (CAN_CTL_TXMODE n) = 0 ∧ key b < key c then some b else some c) none

/-- The frame that takes part in the next arbitration: the selected buffer, or the head of the time slot where its identifier
has the same or a higher priority (R356). A listening controller sends none (R348). -/
def State.canSelect (s : State) (n : Nat) : Option Nat :=
  let d := s.dev
  if d.bit (CAN_CTL_LISTEN n) then none
  else
    let buf := s.canPick n ((List.range 3).filter fun b => d.tb (CAN_TXCTL_TXREQ n) b)
    match buf, (d.canAt n).slot.head? with
    | b, none => b
    | none, some _ => some 3
    | some b, some f =>
      match canRead s.mem (canBuf n b) with
      | some g => if canKey f ≤ canKey g then some 3 else some b
      | none => some 3

/-- Controller `n` comes to an arbitration (R356, R357): requested aborts take effect, a buffer that names a disabled format
or a bad length fails, and a frame is selected. The bus counts as idle but for the frames the commands report, so an
arbitration begins at once (log entry 19). -/
def State.canArb (s : State) (n : Nat) : State :=
  if !s.dev.canOn n ∨ (s.dev.canAt n).stopping ∨ (s.dev.canAt n).idleWait then s
  else
    let d := s.dev.each 3 fun b d =>
      if !d.tb (CAN_TXCTL_TXREQ n) b then d
      else if d.tb (CAN_TXCTL_TXABORT n) b then d.canFail n b 1
      else if !s.canValid n b then d.canFail n b 5
      else d
    let s := { s with dev := d }
    { s with dev := s.dev.canUpd n fun r => { r with arb := s.canSelect n, domOff := false } }

/-- A new request: an arbitration begins unless a frame is on the bus. -/
def State.canWant (s : State) (n : Nat) : State := if (s.dev.canAt n).arb.isNone then s.canArb n else s

/-- Put a frame in the time slot of controller `n` (R365). -/
def Dev.canQueue (d : Dev) (n : Nat) (f : CanFrame) : Dev := d.canUpd n fun r => { r with slot := r.slot ++ [f] }

/-! ## Error counters and states (R362, R363) -/

/-- The controller returns to CONFIG after RUN was written 0: the frame on the bus is over (R363). -/
def Dev.canStopped (d : Dev) (n : Nat) : Dev :=
  if (d.canAt n).stopping then
    let d := d.canFailAll n 4 none
    Dev.clkEval ((d.canUpd n fun r => { r with stopping := false, arb := none, idleWait := false, domOff := false }).set (CAN_STAT_STATE n) 0)
  else d

/-- Show the new error counters, and take the transitions they bring (R362, R363): the bus-off of a controller whose RUN was
written 0 ends the frame on the bus, and so its way to CONFIG. -/
def Dev.canCount (d : Dev) (n tec rec : Nat) : Dev :=
  let before := d.bit (CAN_STAT_WARN n)
  let warn := decide (96 ≤ tec ∨ 96 ≤ rec)
  let d := ((d.set (CAN_STAT_TEC n) (min 511 tec)).set (CAN_STAT_REC n) (min 255 rec)).setB (CAN_STAT_WARN n) warn
  let d := d.when (warn && !before) (·.raise (canSrc n 7))
  let st := d.get (CAN_STAT_STATE n)
  if (st = 2 ∨ st = 3) ∧ 255 < tec then
    let d := (((d.canFailAll n 3 none).set (CAN_STAT_STATE n) 4).count (CAN_CNT2_BUS_OFF n)).raise (canSrc n 9)
    (d.when (d.bit (CAN_CTL_AUTO_REC n)) (·.set (CAN_STAT_STATE n) 5)).canStopped n
  else if st = 2 ∧ (128 ≤ tec ∨ 128 ≤ rec) then (d.set (CAN_STAT_STATE n) 3).raise (canSrc n 8)
  else if st = 3 ∧ tec < 128 ∧ rec < 128 then (d.set (CAN_STAT_STATE n) 2).raise (canSrc n 8)
  else d

end Sys2Proof.Machine
end

