-- ==== Sys2Proof/Machine/Events.lean ====
section
/-!
DEFINITION. Machine/Events.lean: the event router's clears, the journal's writes, the firmware entry and domain time
(chapter 17; R429 to R445).
-/
namespace Sys2Proof.Machine

/-! ## Event router -/

/-- EVR_ACK (R431): the write of source number `k` to EVR_ACKt clears its pending bit. -/
def execEvrAck (t : Fin 6) (k : BitVec 10) (s : State) : Out :=
  s.byReg fun d => if k.toNat < 768 then d.evrClear t k.toNat else d

/-- 1s written to EVR_PENDt_j clear those pending bits (R431). -/
def Dev.evrClearMask (d : Dev) (t j mask : Nat) : Dev :=
  d.each 64 fun b d => d.when (mask.testBit b) (·.evrClear t (64 * j + b))

/-- EVR_PEND_CLEAR (R431). -/
def execEvrPendClear (t : Fin 6) (j : Fin 12) (mask : BitVec 64) (s : State) : Out :=
  s.byReg fun d => d.evrClearMask t j mask.toNat

/-- What EVR_CLAIMt shows (R431): the pending source of the highest PRIO at or above THR, the lowest number among equals. -/
def Dev.evrClaim (d : Dev) (t : Nat) : Nat :=
  let thr := d.get (EVR_THR_THR t)
  let best := (List.range 768).foldl
    (fun (b : Option Nat) k =>
      if d.bit (evrBit t k) && thr ≤ d.get (EVR_SRC_PRIO k) then
        match b with
        | none => some k
        | some m => if d.get (EVR_SRC_PRIO m) < d.get (EVR_SRC_PRIO k) then some k else some m
      else b) none
  match best with
  | none => 0
  | some k => k + 2 ^ 20 * d.get (EVR_SRC_PRIO k) + 2 ^ 23 + 2 ^ 24 * ((d.reg (A_EVR_STAMP k)).toNat % 2 ^ 40)

/-! ## The journal -/

/-- The order of events (R434): step count, stamp, source number. -/
def JEntry.before (a b : JEntry) : Bool :=
  a.tepoch < b.tepoch || (a.tepoch = b.tepoch &&
    (a.stamp < b.stamp || (a.stamp = b.stamp && a.source < b.source)))

/-- The first entry in event order among those that satisfy `p`; the earlier queued among equals. -/
def firstEntry (p : JEntry → Bool) : List JEntry → Option JEntry
  | [] => none
  | e :: t =>
    match p e, firstEntry p t with
    | true, some f => if f.before e then some f else some e
    | true, none => some e
    | false, r => r

/-- Two stamps lie within 8 ns of each other (R435). -/
def concurrent (a b : Nat) : Bool := a ≤ b + 8 && b ≤ a + 8

/-- Bytes 0 to 59 of a journal entry (R440). -/
def journalBody (e : JEntry) (num flags : Nat) : List (BitVec 8) :=
  let dat := (e.data.flatMap fun x => bytesLE 8 x.toNat).take 40
  bytesLE 8 e.stamp ++ bytesLE 4 num ++ bytesLE 2 e.source ++
    [BitVec.ofNat 8 e.kind, BitVec.ofNat 8 flags, BitVec.ofNat 8 e.tepoch, BitVec.ofNat 8 e.origin, 0, 0] ++
    dat ++ List.replicate (40 - dat.length) 0

/-- The flags of entry `e` as it is written (R440, R441): CONC, LATE, after supply loss. -/
def Dev.jnlFlags (d : Dev) (e : JEntry) : Nat :=
  let others := d.jnl.queue.erase e
  let conc := (others.any fun f => concurrent f.stamp e.stamp) ||
    (match d.jnl.last with | some t => concurrent t e.stamp | none => false)
  let late := match d.jnl.last with | some t => decide (e.stamp < t) | none => false
  (if conc then 1 else 0) + (if late then 2 else 0) + (if d.jnl.budget.isSome then 4 else 0)

/-- The entry that the next write takes (R441): outside the flush one queued for 2 µs at least. -/
def Dev.jnlNext (d : Dev) : Option JEntry :=
  if d.jnl.portClosed then none
  else firstEntry (fun e => d.jnl.budget.isSome || e.born + 2000 ≤ d.mono) d.jnl.queue

/-- After a drop, a gap entry is queued once fewer than 12 entries wait (R441); not once a supply loss admits no further entry
(R445). -/
def Dev.jnlGap (d : Dev) : Dev :=
  if d.jnl.lost ≠ 0 ∧ d.jnl.queue.length < 12 ∧ d.jnl.budget ≠ some 0 then
    let n := d.jnl.lost
    Dev.journal { d with jnl := { d.jnl with lost := 0 } } 0x43 0xFFFF 0 [BitVec.ofNat 64 n]
  else d

/-- The end of the flush, and the close of the port once no further entry is admitted (R445). -/
def Dev.jnlFlushEnd (d : Dev) : Dev :=
  if d.jnl.queue.isEmpty ∧ d.jnl.budget.isSome then
    let d := d.flushStop
    if d.jnl.budget = some 0 then { d with jnl := { d.jnl with portClosed := true } } else d
  else d

/-- The device's part of writing entry `e` as number `num` with flags `fl`. -/
def Dev.jnlWritten (d : Dev) (e : JEntry) (num fl : Nat) : Dev :=
  let isFault := 1 ≤ e.kind && e.kind ≤ 0x3F
  let j := d.jnl
  let j := { j with queue := j.queue.erase e, last := some e.stamp,
                    mirror := if isFault then j.mirror ++ [num] else j.mirror }
  let d := { d with jnl := j, per := { d.per with jnlNum := num + 1 } }
  let d := (d.set JNL_STAT_QLEVEL j.queue.length).set JNL_STAT_NEWEST num
  let d := d.when (fl.testBit 1) (·.count JNL_CNT_LATE)
  let d := d.when isFault (·.raiseLim 754 0 ms1)
  d.jnlGap.jnlFlushEnd

/-- After a start the last entry written is the newest one that the search found; its stamp is kept (R441, R442). -/
def State.jnlFound (s : State) : State :=
  let n := s.dev.per.jnlNum
  if s.dev.jnl.last.isSome ∨ n = 0 then s
  else
    let t := rdLE s.mem (0x20000000 + 64 * ((n - 1) % 32768)) 8
    { s with dev := { s.dev with jnl := { s.dev.jnl with last := some t } } }

/-- The journal writes the first eligible entry, its CRC last (R440, R441, R442). -/
def State.jnlWrite (s : State) : State :=
  let s := s.jnlFound
  match s.dev.jnlNext with
  | none => { s with dev := s.dev.jnlFlushEnd }
  | some e =>
    let num := s.dev.per.jnlNum % 2 ^ 32
    let fl := s.dev.jnlFlags e
    let b := journalBody e num fl
    { s with mem := wrBytes s.mem (0x20000000 + 64 * (num % 32768)) (b ++ bytesLE 4 (crc32c b)),
             dev := s.dev.jnlWritten e num fl }

/-- JOURNAL_ENTRY_WRITE (R441). -/
def execJournalEntryWrite (s : State) : Out := s.mainMem State.jnlWrite

/-- A write of KIND `k` to JNL_FWCMD by `o` (R443): below 0x80 it is refused and counted. -/
def Dev.fwEntry (d : Dev) (o : Origin) (k : Nat) : Dev :=
  if k < 0x80 then d.count JNL_CNT_FW_REF
  else
    d.jnlPut true
      { stamp := d.time, tepoch := d.get DTM_STAT_TEPOCH, source := 0xFFFF, kind := k, origin := originCode o,
        data := (List.range 5).map fun i => d.reg (A_JNL_FWDATA i), born := d.mono }

/-- JNL_FWCMD (R443). -/
def execJnlFwcmd (o : Origin) (k : BitVec 8) (s : State) : Out := s.byOrigin o fun d => d.fwEntry o k.toNat

/-! ## Domain time -/

/-- The integral share rounded to ppb. -/
def Dev.dtmInteg (d : Dev) : Int := near d.dtm.integ 1000000000

/-- The servo term becomes `x` ppb, and RATE follows (R436). -/
def Dev.dtmTerm (d : Dev) (x : Int) : Dev := Dev.dtmRate { d with dtm := { d.dtm with servo := x } }

/-- The servo of R437 on a measurement `th` ns, `tau` ns after the previous one. -/
def Dev.dtmServo (d : Dev) (th : Int) (tau : Nat) : Dev :=
  let m := d.dtmMax * 1000000000
  let share (pct : Nat) : Int := if tau = 0 then 0 else near (min 100 pct * th * 10 ^ 16) tau
  let i := clampI (-m) m (d.dtm.integ + share (d.get DTM_CFG_KI_PCT))
  let d := { d with dtm := { d.dtm with integ := i } }
  d.dtmTerm (near (i + share (d.get DTM_CFG_KP_PCT)) 1000000000)

/-- A step of domain time by `th` ns takes place: journalled, counted, TIME_STEP (R437). -/
def Dev.dtmStep (d : Dev) (th : Int) : Dev :=
  let before := d.time
  let d := { d with time := (d.time + th).toNat, dtm := { d.dtm with integ := 0, stepDue := none } }
  let d := (d.set DTM_STAT_TEPOCH (d.get DTM_STAT_TEPOCH + 1)).count DTM_STAT_STEPS
  (d.journal 0x40 752 0 [BitVec.ofNat 64 before, BitVec.ofInt 64 th]).raise 752

/-- The state rows of R438 on a measurement `th`. -/
def Dev.dtmLock (d : Dev) (th : Int) : Dev :=
  let st := d.get DTM_STAT_STATE
  let w := d.get DTM_CFG_LOCK_NS
  let hit : Bool := if st = 1 then th.natAbs ≤ w else 4 * w < th.natAbs
  let run := if hit then d.dtm.run + 1 else 0
  let d := { d with dtm := { d.dtm with run := if run ≥ 3 then 0 else run } }
  if run ≥ 3 then
    if st = 1 then (d.set DTM_STAT_STATE 2).raise 751
    else ((d.set DTM_STAT_STATE 1).count DTM_CNT_UNLOCKS).raise 751
  else d

/-- An offset measurement `th` ns of the selected source (R437, R438); SRC 0 takes none. The first measurement of a
source has no interval, so the servo shares are 0 (log entry 11). A step waits for the next 1 µs boundary (R433). -/
def Dev.dtmMeasure (d : Dev) (th : Int) : Dev :=
  if d.get DTM_STAT_SRC = 0 then d
  else
    let d := if d.get DTM_STAT_STATE = 3 then Dev.set { d with dtm := { d.dtm with run := 0 } } DTM_STAT_STATE 1 else d
    let tau := match d.dtm.last with | some t => d.mono - t | none => 0
    let d := ({ d with dtm := { d.dtm with last := some d.mono } }.setI DTM_OFS_THETA th).count DTM_CNT_MEAS
    let stepNs := max 1 (d.get DTM_CFG_STEP_US) * 1000
    let d :=
      if d.get DTM_STAT_STATE = 1 ∧ stepNs < th.natAbs then { d with dtm := { d.dtm with stepDue := some th } }
      else d.dtmServo th tau
    d.dtmLock th

/-- The source of measurements becomes `src` (R437, R438). -/
def Dev.dtmSource (d : Dev) (src : Nat) : Dev :=
  let old := d.get DTM_STAT_SRC
  if old = src then d
  else
    let d := d.set DTM_STAT_SRC src
    let d := { d with dtm := { d.dtm with last := none, run := 0 } }
    if src = 0 then (d.dtmTerm d.dtmInteg).set DTM_STAT_STATE 0
    else
      let d := if d.get DTM_STAT_STATE = 0 then { d with dtm := { d.dtm with integ := 0 } } else d
      d.set DTM_STAT_STATE 1

/-- DTM_HOLDOVER (R438): no measurement for three expected intervals. -/
def execDtmHoldover (s : State) : Out :=
  s.main fun d =>
    let st := d.get DTM_STAT_STATE
    if st = 1 ∨ st = 2 then ((d.set DTM_STAT_STATE 3).count DTM_CNT_HOLDOVERS).raise 751 else d

/-- The counter passes a 1 µs boundary: a change of RATE reaches it, and a step that waits takes place (R433). -/
def Dev.dtmBoundary (d : Dev) : Dev :=
  let d := { d with dtm := { d.dtm with rate := d.getI DTM_OFS_RATE } }
  match d.dtm.stepDue with
  | some th => d.dtmStep th
  | none => d

/-- The counter advances by `dt` ns; where that takes it past a multiple of 1,000 ns, it passes a boundary (R433, log entry
107). -/
def Dev.advance (d : Dev) (dt : Nat) : Dev :=
  let t := d.time + dt
  let e := { d with time := t }
  if d.time / 1000 = t / 1000 then e else e.dtmBoundary

/-- One time tick (R30, R436): 40 ns of the 25 MHz reference before PLL B locks; after lock one 1 GHz cycle of 1 ns at the rate in
force, fractions carried forward. While PLL B has stopped again the counter takes the reference's 40 ns (log entry 77). The
model's elapsed time advances by the nominal length. -/
def Dev.tick (d : Dev) : Dev :=
  if d.unpowered then { d with mono := d.mono + 1000 }
  else if d.clk 1 then
    let f : Int := d.frac + 1000000000 + d.dtm.rate
    Dev.advance { d with mono := d.mono + 1, frac := (f % 1000000000).toNat } (f / 1000000000).toNat
  else Dev.advance { d with mono := d.mono + 40 } 40

end Sys2Proof.Machine
end

