-- ==== Sys2Proof/Machine/Domain.lean ====
section
/-!
DEFINITION. Machine/Domain.lean: the formation engine: segment, gateway and grandmaster, directory, late joiners (R386 to
R394), with the source of domain time it selects (R437).
-/
namespace Sys2Proof.Machine

/-- The domain state (R391): 0 OFF, 1 WAIT, 2 FORMING, 3 TRUNK, 4 DIRECTORY, 5 CONNECT, 6 FORMED, 7 STANDALONE. -/
def Dev.domState (d : Dev) : Nat := d.get SFL_DOMSTAT_STATE

/-- The controller that carries the segment. -/
def Dev.segCan (d : Dev) : Nat := d.get SFL_DOMCFG_SEG_CAN

/-- Module time in ms. -/
def Dev.timeMs (d : Dev) : Nat := min 65535 (d.time / 1000000)

/-- While forming the domain service runs LOG_SYNC −5 and LOG_ANNOUNCE −3; the configured intervals return at FORMED, and
where the formation ends without it (R389). -/
def Dev.domIntervals (d : Dev) : Dev :=
  let st := d.domState
  let forming := 1 ≤ st && st ≤ 5
  match d.dom.saved with
  | none =>
    if forming then
      let d := { d with dom := { d.dom with saved := some (d.get ETH_ASCFG_LOG_SYNC, d.get ETH_ASCFG_LOG_ANNOUNCE) } }
      (d.setI ETH_ASCFG_LOG_SYNC (-5)).setI ETH_ASCFG_LOG_ANNOUNCE (-3)
    else d
  | some (a, b) =>
    if forming then d
    else Dev.set (Dev.set { d with dom := { d.dom with saved := none } } ETH_ASCFG_LOG_SYNC a) ETH_ASCFG_LOG_ANNOUNCE b

/-- The domain state becomes `st`: DOM_STATE is raised, and TRUNK_MS records the leaving of TRUNK (R391, R399). -/
def Dev.domPut (d : Dev) (st : Nat) : Dev :=
  let d := d.when (d.domState = 3 && st ≠ 3) fun d => d.set SFL_FORMT_TRUNK_MS d.timeMs
  (d.set SFL_DOMSTAT_STATE st).domIntervals.raise 605

/-! ## Frames of the segment (R386) -/

/-- A domain frame of type `typ` with argument `arg`. -/
def Dev.domFrame (d : Dev) (typ arg : Nat) (data : List (BitVec 8)) : CanFrame :=
  { ide := true, id := BitVec.ofNat 29 (d.get SFL_DOMCFG_DPP * 2 ^ 24 + typ * 2 ^ 16 + arg % 2 ^ 16), data := data }

/-- Send a domain frame from the time slot of the segment controller. -/
def Dev.domSend (d : Dev) (typ arg : Nat) (data : List (BitVec 8)) : Dev := d.canQueue d.segCan (d.domFrame typ arg data)

/-- The type of a frame of this module's time slot. -/
def frameTyp (f : CanFrame) : Nat := f.id.toNat / 2 ^ 16 % 256

/-- Take the OPEN, CLAIM and REGISTER frames that have not been sent out of the time slot. -/
def Dev.domDropClaims (d : Dev) : Dev :=
  d.canUpd d.segCan fun r =>
    { r with slot := r.slot.filter fun f => let t := frameTyp f; f.id.toNat / 2 ^ 24 ≠ d.get SFL_DOMCFG_DPP || 0x20 < t }

/-- Identity bits [63 − 16r : 48 − 16r] of this module (R386). -/
def claimArg (r : Nat) : Nat := Config.uid / 2 ^ (48 - 16 * r) % 2 ^ 16

/-- A trunk link of this module is up. -/
def Dev.trunkUp (d : Dev) : Bool := d.bit (ETH_PHY_LINK 0) || d.bit (ETH_PHY_LINK 1)

/-- An unregistered contender sends CLAIM 0 (R387). -/
def Dev.domClaim0 (d : Dev) : Dev :=
  if d.dom.contending && !d.dom.registered then
    let d := d.domDropClaims
    Dev.domSend { d with dom := { d.dom with out := false } } 0x10 (claimArg 0) []
  else d

/-- The module begins to contend (R391); a late joiner came after the segment closed. -/
def Dev.domContend (d : Dev) (late : Bool) : Dev :=
  if d.domState = 1 then
    Dev.domPut { d with dom := { d.dom with contending := true, out := true, late := late } } 2
  else d

/-! ## Roles -/

/-- ROLE of the segment controller and the source of domain time follow the module's part in the closed segment (R388, R394,
R437). -/
def Dev.domRoles (d : Dev) : Dev :=
  let lead := d.bit SFL_DOMSTAT_LEADER
  let gw := d.bit SFL_DOMSTAT_GW
  let role := if !d.dom.joined then 0 else if lead then 1 else 2
  let src :=
    if !d.dom.joined then 0
    else if gw then (if d.bit SFL_DOMSTAT_GM then 0 else 2)
    else if lead then (if d.get SFL_GWID_UID = 0 then 0 else 3)
    else 1
  (d.set (CAN_TIME_ROLE d.segCan) role).dtmSource src

/-- The member list is shown. -/
def Dev.domMembers (d : Dev) (l : List Member) : Dev :=
  Dev.set { d with dom := { d.dom with members := l } } SFL_DOMSTAT_MEMBERS l.length

/-- The lowest identity of a list, 0 where it is empty. -/
def lowestUid (l : List Member) : Nat :=
  match l with
  | [] => 0
  | m :: t => t.foldl (fun a b => min a b.uid) m.uid

/-- The gateway is recomputed: the lowest identity whose latest frame shows TRUNK = 1; GATEWAY is raised at a change, and
the priority of a gateway candidate is GM_PRIO1, of every other module 255 (R388, R389). -/
def Dev.domGateway (d : Dev) : Dev :=
  let gw := lowestUid (d.dom.members.filter (·.trunk))
  let me : Bool := gw = Config.uid
  let changed : Bool := gw ≠ d.get SFL_GWID_UID
  let d := (d.set SFL_GWID_UID gw).setB SFL_DOMSTAT_GW me
  let d := d.when changed (·.raise 607)
  (d.set ETH_ASCFG_PRIO1 (if me && d.bit SFL_DOMCFG_GW_CAND then min 254 (d.get SFL_DOMCFG_GM_PRIO1) else 255)).domRoles

/-- The segment leader is `uid`: LEADER is raised at a change; a change from another leader is a handover (R394, R398). -/
def Dev.domLeader (d : Dev) (uid : Nat) : Dev :=
  let old := d.get SFL_LEADERID_UID
  let d := (d.set SFL_LEADERID_UID uid).setB SFL_DOMSTAT_LEADER (d.dom.joined && uid = Config.uid)
  let d := d.when (old ≠ uid) (·.raise 606)
  let d := d.when (old ≠ 0 && old ≠ uid && uid ≠ 0) (·.count SFL_DOMCNT_HANDOVER)
  d.domRoles

/-- This module takes the time role: it sends LEADER and becomes time master (R388, R394). -/
def Dev.domTakeLead (d : Dev) : Dev := (d.domLeader Config.uid).domSend 0x30 0 (bytesLE 8 Config.uid)

/-! ## The directory (R390) -/

/-- The SEG_REG of this module's segment. -/
def Dev.domSegReg (d : Dev) : SegReg :=
  let n := d.get SFL_DOMSTAT_SEG_NUM
  { leader := BitVec.ofNat 64 (d.get SFL_LEADERID_UID), gw := BitVec.ofNat 64 (d.get SFL_GWID_UID), vmin := 1, vmax := 1,
    members := d.dom.members.map fun m => BitVec.ofNat 64 m.uid,
    num := if n < 512 ∧ !d.dom.alone then some (BitVec.ofNat 9 n) else none }

/-- Directory messages sent. -/
def Dev.domSay (d : Dev) (l : List DirMsg) : Dev := { d with dom := { d.dom with dirOut := l } }

/-- A segment refused by the directory runs alone as a domain of its own, with segment number 0 like a domain of one segment (R390,
R391; log entry 43). -/
def Dev.domAlone (d : Dev) : Dev :=
  let d := { d with dom := { d.dom with alone := true } }
  let d := (((d.count SFL_DOMCNT_VER_REF).raise 609).set SFL_DOMSTAT_SEG_NUM 0)
  d.when (d.domState = 3 || d.domState = 4) (·.domPut 5)

/-- DIR_ACK reaches the leader of segment `leader`, and its gateway (R390). -/
def Dev.domDirAck (d : Dev) (leader num ver : Nat) : Dev :=
  if leader = d.get SFL_LEADERID_UID ∧ (d.bit SFL_DOMSTAT_LEADER ∨ d.bit SFL_DOMSTAT_GW) then
    if ver = 0 then d.domAlone else { d with dom := { d.dom with ack := num, alone := false } }
  else d

/-- DIR_DONE: a gateway relays it as SEGNUM on its segment, with number 0 to a segment that runs alone (R390). -/
def Dev.domDirDone (d : Dev) : Dev :=
  d.when (d.dom.joined && d.bit SFL_DOMSTAT_GW) fun d => d.domSend 0x50 (if d.dom.alone then 0 else d.dom.ack) (bytesLE 8 (d.get ETH_GMID_GMID))

/-- The segment number `num` arrives (R391); a member of a formed domain stores a number that changed at GM_CHANGE. -/
def Dev.domSegnum (d : Dev) (num : Nat) : Dev :=
  let st := d.domState
  let store (d : Dev) : Dev := d.set SFL_DOMSTAT_SEG_NUM num
  if st = 3 ∨ st = 4 then
    (store (d.set SFL_FORMT_DIR_MS d.timeMs)).domPut 5
  else if st = 5 ∨ st = 6 then store d
  else d

/-- Ascending insertion by leader identity. -/
def insertSeg (r : SegReg) : List SegReg → List SegReg
  | [] => [r]
  | x :: t => if r.leader.toNat < x.leader.toNat then r :: x :: t else x :: insertSeg r t

/-- The lowest number at or above `n` that `used` does not hold; `fuel` bounds the search. -/
def freeNum (used : List Nat) : Nat → Nat → Nat
  | 0, n => n
  | fuel + 1, n => if used.contains n then freeNum used fuel (n + 1) else n

/-- The numbers of the registered segments in ascending leader identity: the one a leader reports where it is unique, else the
lowest free one; with the highest common version, 0 to refuse (R390). -/
def segNumbers (l : List SegReg) : List (Nat × Nat × Nat) :=
  let l := l.foldl (fun a r => insertSeg r a) []
  let reported := l.filterMap (·.num)
  let kept (r : SegReg) : Option Nat := match r.num with
    | some n => if (reported.filter (· = n)).length = 1 then some n.toNat else none
    | none => none
  let used := l.filterMap kept
  let step (a : List (Nat × Nat × Nat)) (r : SegReg) : List (Nat × Nat × Nat) :=
    let n := match kept r with
      | some n => n
      | none => freeNum (used ++ a.map (·.2.1)) 512 0
    a ++ [(r.leader.toNat, n, if r.vmin ≤ 1 ∧ 1 ≤ r.vmax then 1 else 0)]
  (l.take 512).foldl step []

/-- The grandmaster closes the directory: numbers, DIR_ACK to each leader, DIR_DONE (R390). -/
def Dev.domDirClose (d : Dev) : Dev :=
  if !d.bit SFL_DOMSTAT_GM ∨ d.dom.closed then d
  else
    let nums := segNumbers d.dom.segs
    let d := { d with dom := { d.dom with nums := nums, closed := true } }
    let d := d.domSay ((nums.map fun x => DirMsg.dirAck x.1 x.2.1 x.2.2) ++ [.dirDone])
    let d := d.eachOf nums fun x d => d.domDirAck x.1 x.2.1 x.2.2
    d.domDirDone

/-- A segment registers with this grandmaster: before the close it is listed, and EXP_SEGS segments close the directory;
afterwards only the entry of a listed segment changes (R390, R394). -/
def Dev.domRegSeg (d : Dev) (r : SegReg) : Dev :=
  if !d.bit SFL_DOMSTAT_GM then d
  else
    let same (x : SegReg) : Bool := x.leader = r.leader
    let known := d.dom.segs.any same
    let put (l : List SegReg) : Dev := { d with dom := { d.dom with segs := l } }
    if known then put (d.dom.segs.map fun x => if same x then r else x)
    else if d.dom.closed then d
    else
      let d := put (d.dom.segs ++ [r])
      d.when (d.get SFL_DOMCFG_EXP_SEGS ≠ 0 && min 512 (d.get SFL_DOMCFG_EXP_SEGS) ≤ d.dom.segs.length) Dev.domDirClose

/-- The leader reports its segment through its gateway; the grandmaster's own segment registers at once (R390). -/
def Dev.domReport (d : Dev) : Dev := (d.domSay [.segReg d.domSegReg]).domRegSeg d.domSegReg

/-! ## Segment formation (R387, R388) -/

/-- Back to OFF or to a stand-alone module: the module's part in the segment ends. -/
def Dev.domLeave (d : Dev) (st : Nat) : Dev :=
  let d := d.domDropClaims
  let d := { d with dom := { saved := d.dom.saved } }
  let d := d.eachOf [SFL_DOMSTAT_MEMBERS, SFL_DOMSTAT_DPV, SFL_DOMSTAT_SLOT, SFL_DOMSTAT_GW, SFL_DOMSTAT_LEADER,
    SFL_LEADERID_UID, SFL_GWID_UID] fun f d => d.set f 0
  let d := (d.set SFL_DOMSTAT_SEG_NUM 0xFFFF).set ETH_ASCFG_PRIO1 255
  d.domRoles.domPut st

/-- No common version with the leader: refused, the module stays STANDALONE (R388). -/
def Dev.domRefused (d : Dev) : Dev := ((d.domLeave 7).count SFL_DOMCNT_VER_REF).raise 609

/-- The segment closes (R388, R391). A late joiner keeps the leader it found. -/
def Dev.domClose (d : Dev) : Dev :=
  if d.domState ≠ 2 then d
  else if !d.dom.registered then
    if 32 ≤ d.dom.seen then (d.domLeave 7).raise 610 else d
  else
    let late := d.dom.late && d.get SFL_LEADERID_UID ≠ 0
    let leader := if d.dom.late then d.get SFL_LEADERID_UID else lowestUid d.dom.members
    let common := match d.dom.members.find? fun m => m.uid = leader with
      | some m => m.vmin ≤ 1 && 1 ≤ m.vmax
      | none => true
    if !common then d.domRefused
    else
      let d := { d with dom := { d.dom with joined := true, contending := false } }
      let d := (d.set SFL_FORMT_SEG_MS d.timeMs).set SFL_DOMSTAT_DPV 1
      let d := if leader = Config.uid && !late then d.domTakeLead else d.domLeader leader
      let d := d.domGateway
      if d.dom.members.any (·.trunk) then d.domPut 3
      else (d.set SFL_DOMSTAT_SEG_NUM 0).domPut 5

/-- A REGISTER of module `uid` with argument `arg`, heard or sent (R387, R388, R394). -/
def Dev.domRegister (d : Dev) (arg uid : Nat) : Dev :=
  if d.domState = 0 ∨ d.domState = 7 then d
  else
    let m : Member := { uid := uid, trunk := arg.testBit 7, vmin := arg / 4096 % 16, vmax := arg / 256 % 16 }
    let l := (d.dom.members.filter fun x => x.uid ≠ uid) ++ [m]
    let d := { d with dom := { d.dom with seen := d.dom.seen + 1, slotNext := some ((arg + 1) % 32) } }
    let d := d.domMembers (l.take 32)
    let d := d.when (uid = Config.uid) fun d =>
      Dev.set { d with dom := { d.dom with registered := true, contending := false } } SFL_DOMSTAT_SLOT (arg % 32)
    if d.dom.joined then
      let d := ((d.count SFL_DOMCNT_LATE_JOIN).raise 608).domGateway
      d.when (d.bit SFL_DOMSTAT_LEADER && d.get SFL_GWID_UID ≠ 0) Dev.domReport
    else if 32 ≤ d.dom.seen then d.domClose
    else d.domClaim0

/-- A TRUNK frame of module `uid` (R386, R388). -/
def Dev.domTrunk (d : Dev) (trunk : Bool) (uid : Nat) : Dev :=
  let l := d.dom.members.map fun m => if m.uid = uid then { m with trunk := trunk } else m
  let d := { d with dom := { d.dom with members := l } }
  d.when d.dom.joined Dev.domGateway

/-- The module's trunk status may have changed: a registered member says so, before the segment closes too (R386). -/
def Dev.domTrunkChanged (d : Dev) (before : Bool) : Dev :=
  d.when (d.dom.registered && before != d.trunkUp) fun d =>
    d.domSend 0x21 (if d.trunkUp then 128 else 0) (bytesLE 8 Config.uid)

/-- A frame of this module's time slot has been sent: a CLAIM is followed by the next round or by REGISTER, an OPEN starts a
claim slot, and the module counts its own REGISTER, TRUNK and SEGNUM like any other (R387); a link that changed while REGISTER
waited is told by TRUNK. For a late joiner the next free SLOT is the one after the last it heard; where it heard none, the number of
slots taken before it came is nowhere in the module: a free value of 1 or more (R394, log entry 97). -/
def Dev.domSent (d : Dev) (f : CanFrame) : Dev :=
  let t := frameTyp f
  let arg := f.id.toNat % 2 ^ 16
  let uid := ofBytesLE f.data
  if d.domState = 0 ∨ f.id.toNat / 2 ^ 24 ≠ d.get SFL_DOMCFG_DPP ∨ !f.ide then d
  else if t = 0x01 then d.domClaim0
  else if 0x10 ≤ t ∧ t ≤ 0x12 then d.domSend (t + 1) (claimArg (t - 0x0F)) []
  else if t = 0x13 then
    let slot := if d.dom.late then d.dom.slotNext.getD (1 + d.freeVal.toNat % 31) else d.dom.seen % 32
    (d.when (d.dom.late && d.dom.slotNext.isNone) Dev.drawn).domSend 0x20 (0x1100 + (if d.trunkUp then 128 else 0) + slot) (bytesLE 8 Config.uid)
  else if t = 0x20 then (d.domRegister arg uid).domTrunkChanged (arg.testBit 7)
  else if t = 0x21 then d.domTrunk (arg.testBit 7) uid
  else if t = 0x50 then d.domSegnum arg
  else d

/-! ## Late joiners and time (R394, R437) -/

/-- A REF or LEADER makes a waiting module contend as a late joiner (R391). -/
def Dev.domHeardRef (d : Dev) : Dev := d.domContend true

/-- A reference pair of the segment controller with offset `th` (R389, R394, R437): a slave measures it, a gateway that is not the
leader sends it as DOMOFF, and a late joiner below the leader takes the role after three. One that has heard no LEADER does not
know the leader's identity: whether its own is below it is a free value (log entry 43). -/
def Dev.domPair (d : Dev) (th : Int) : Dev :=
  let d := d.when (d.get DTM_STAT_SRC = 1) (·.dtmMeasure th)
  let d := d.when (d.dom.joined && d.bit SFL_DOMSTAT_GW && !d.bit SFL_DOMSTAT_LEADER) fun d =>
    d.domSend 0x38 0 (bytesLE 8 (unsigned 64 th))
  if d.dom.joined ∧ d.dom.late ∧ !d.bit SFL_DOMSTAT_LEADER then
    let n := d.dom.latePairs + 1
    let d := { d with dom := { d.dom with latePairs := n } }
    if n < 3 then d
    else
      let known : Bool := d.get SFL_LEADERID_UID ≠ 0
      let below := if known then decide (Config.uid < d.get SFL_LEADERID_UID) else d.freeVal.toNat.testBit 0
      let d := { d with dom := { d.dom with late := false } }
      (d.when (!known) Dev.drawn).when below Dev.domTakeLead
  else d

/-- The domain protocol starts: OFF, EN set and READY (R391); the engine sets the reference identifier (R386). -/
def Dev.domReady (d : Dev) : Dev :=
  if d.domState = 0 ∧ d.bit SFL_DOMCFG_EN ∧ d.bit SYS_PWRSTATE_READY then
    let n := d.segCan
    let d := (d.set (CAN_TIME_REF_ID n) (d.get SFL_DOMCFG_DPP * 2 ^ 24 + 0x400000)).set (CAN_TIME_REF_IDE n) 1
    d.domPut 1
  else d

/-- SFL_DOMCFG.EN is written (R391). -/
def Dev.domEnable (d : Dev) (en : Bool) : Dev :=
  let d := d.setB SFL_DOMCFG_EN en
  if en then d.domReady else if d.domState = 0 then d else d.domLeave 0

/-! ## The commands -/

/-- A command of the formation engine, after which the segment controller may come to an arbitration. -/
def State.domain (s : State) (f : Dev → Dev) : Out :=
  s.mainMem fun s => let s := { s with dev := f s.dev }; s.canWant s.dev.segCan

/-- The segment's controller takes part in its bus (R363, R365). -/
def Dev.segOn (d : Dev) : Bool := d.canOn d.segCan && d.canXcvr d.segCan && !(d.canAt d.segCan).idleWait

/-- A domain frame of another node is over, so an arbitration follows it. Only a controller that takes part in the bus hears one. -/
def State.domHeard (s : State) (f : Dev → Dev) : Out :=
  s.onClkMem 2 fun s =>
    if s.dev.domState = 0 ∨ !s.dev.segOn then s
    else
      let d := f s.dev
      ({ s with dev := { d with dom := { d.dom with heard := d.domState ≠ 0 } } } : State).canArb s.dev.segCan

/-- DOMAIN_EN (R391). -/
def execDomainEn (en : Bool) (s : State) : Out :=
  s.byRegMem fun s => let s := { s with dev := s.dev.domEnable en }; s.canWant s.dev.segCan

/-- FORM_DELAY_REACHED (R391): in WAIT, with module time at FORM_DELAY_MS and no domain frame heard, the module sends OPEN. -/
def execFormDelayReached (s : State) : Out :=
  s.domain fun d =>
    if d.domState = 1 ∧ !d.dom.heard ∧ d.get SFL_DOMCFG_FORM_DELAY_MS ≤ d.timeMs then (d.domContend false).domSend 0x01 0 [] else d

/-- DOMAIN_OPEN (R387). -/
def execDomainOpen (s : State) : Out :=
  s.domHeard fun d => let d := d.domContend false; d.when (d.domState = 2) Dev.domClaim0

/-- DOMAIN_CLAIM (R387): a contender whose CLAIM of the same round has the higher argument drops out. -/
def execDomainClaim (r : Fin 4) (arg : BitVec 16) (s : State) : Out :=
  s.domHeard fun d =>
    if d.domState = 1 then d.domContend false
    else
      let mine := (d.canAt d.segCan).slot.any fun f => frameTyp f = 0x10 + r && f.ide
      if d.dom.contending ∧ mine ∧ arg.toNat < claimArg r then
        let d := d.domDropClaims
        { d with dom := { d.dom with out := true } }
      else d

/-- DOMAIN_REGISTER (R387, R388). -/
def execDomainRegister (arg : BitVec 16) (uid : BitVec 64) (s : State) : Out :=
  s.domHeard fun d => d.domRegister arg.toNat uid.toNat

/-- DOMAIN_TRUNK (R388). -/
def execDomainTrunk (trunk : Bool) (uid : BitVec 64) (s : State) : Out := s.domHeard fun d => d.domTrunk trunk uid.toNat

/-- DOMAIN_LEADER (R388, R394): a waiting module contends as a late joiner; the previous leader becomes a slave. -/
def execDomainLeader (uid : BitVec 64) (s : State) : Out :=
  s.domHeard fun d => if d.domState = 7 then d else d.domHeardRef.domLeader uid.toNat

/-- DOMOFF (R389, R437): a leader that is not the gateway steers the offset out. -/
def execDomoff (off : BitVec 64) (s : State) : Out :=
  s.domHeard fun d => d.when (d.get DTM_STAT_SRC = 3) (·.dtmMeasure (-off.toInt))

/-- SEGNUM (R391): the number is stored; the rules give the grandmaster identity it carries no use. -/
def execSegnum (num : BitVec 16) (_gm : BitVec 64) (s : State) : Out := s.domHeard fun d => d.domSegnum num.toNat

/-- CLAIM_SILENCE (R387). -/
def execClaimSilence (s : State) : Out := s.domain fun d => d.when (d.domState = 2) Dev.domClaim0

/-- SEGMENT_CLOSE (R388). -/
def execSegmentClose (s : State) : Out := s.domain Dev.domClose

/-- SEG_REG (R390). -/
def execSegReg (r : SegReg) (s : State) : Out := s.domain fun d => d.domRegSeg r

/-- DIRECTORY_CLOSE (R390). -/
def execDirectoryClose (s : State) : Out := s.domain Dev.domDirClose

/-- DIR_ACK (R390). -/
def execDirAck (leader : BitVec 64) (num : BitVec 9) (ver : BitVec 4) (s : State) : Out :=
  s.domain fun d => d.domDirAck leader.toNat num.toNat ver.toNat

/-- DIR_DONE (R390). -/
def execDirDone (s : State) : Out := s.domain Dev.domDirDone

/-- DIR_QUERY (R390): the grandmaster answers with the segment number and gateway of module `uid`, or with "unknown". -/
def execDirQuery (uid : BitVec 64) (s : State) : Out :=
  s.domain fun d =>
    if !d.bit SFL_DOMSTAT_GM then d
    else
      let found := match d.dom.segs.find? fun r => r.members.contains uid with
        | none => none
        | some r =>
          match d.dom.nums.find? fun x => x.1 = r.leader.toNat with
          | none => none
          | some x => some (x.2.1, r.gw.toNat)
      d.domSay [.answer uid.toNat found]

/-- GATEWAY_SERVO_LOCKED (R391). -/
def execGatewayServoLocked (s : State) : Out :=
  s.domain fun d =>
    if d.domState = 3 ∧ d.bit SFL_DOMSTAT_LEADER then
      (d.domPut 4).domReport
    else d

/-- CONNECT_COMPLETE (R391). -/
def execConnectComplete (s : State) : Out :=
  s.domain fun d => if d.domState = 5 then (d.set SFL_FORMT_FORMED_MS d.timeMs).domPut 6 else d

/-- LEADER_REF_MISSING (R394): the leader is gone, and the lowest remaining member takes the role. -/
def execLeaderRefMissing (s : State) : Out :=
  s.domain fun d =>
    if !d.dom.joined ∨ d.bit SFL_DOMSTAT_LEADER then d
    else
      let d := (d.domMembers (d.dom.members.filter fun m => m.uid ≠ d.get SFL_LEADERID_UID)).domGateway
      if lowestUid d.dom.members = Config.uid then d.domTakeLead else d

/-- GM_CHANGE (R390): a new grandmaster opens its directory, and every leader registers again. -/
def execGmChange (s : State) : Out :=
  s.domain fun d =>
    let d := { d with dom := { d.dom with segs := [], nums := [], closed := false } }
    d.when (d.dom.joined && d.bit SFL_DOMSTAT_LEADER && d.get SFL_GWID_UID ≠ 0 && d.domState ≠ 3) Dev.domReport

end Sys2Proof.Machine
end

