-- ==== Sys2Proof/Machine/Can.lean ====
section
/-!
DEFINITION. Machine/Can.lean: the CAN controllers' commands: RUN and the bit timing (R351, R352), transmission (R356 to R358),
reception (R359 to R361), errors (R362, R363) and reference messages (R365 to R367).
-/
namespace Sys2Proof.Machine

/-! ## Bit timing and RUN -/

/-- SJW ≤ TSEG2 ≤ TSEG1 (R351). -/
def segOk (sjw t2 t1 : Nat) : Bool := sjw ≤ t2 && t2 ≤ t1

/-- The clocks of an arbitration bit. -/
def Dev.canNomBit (d : Dev) (n : Nat) : Nat :=
  clampN 1 256 (d.get (CAN_NBT_NBRP n)) *
    (1 + clampN 2 256 (d.get (CAN_NBT_NTSEG1 n)) + clampN 1 128 (d.get (CAN_NBT_NTSEG2 n)))

/-- The clocks of a data-phase bit, of FD or of XL. -/
def Dev.canDatBit (d : Dev) (n : Nat) (xl : Bool) : Nat :=
  let (b, t1, t2) := if xl then (CAN_XBT_BRP n, CAN_XBT_TSEG1 n, CAN_XBT_TSEG2 n)
    else (CAN_DBT_BRP n, CAN_DBT_TSEG1 n, CAN_DBT_TSEG2 n)
  clampN 1 32 (d.get b) * (1 + clampN 1 32 (d.get t1) + clampN 1 16 (d.get t2))

/-- Why RUN would be refused, as CFG_ERR codes it; 0 where it would not (R351). -/
def Dev.canCfgErr (d : Dev) (n : Nat) : Nat :=
  let nom := d.canNomBit n
  let g (f : Fld) (lo hi : Nat) : Nat := clampN lo hi (d.get f)
  if nom < 80 ∨ 8000 < nom then 1
  else if d.bit (CAN_CTL_FD_EN n) ∧ d.canDatBit n false < 10 then 2
  else if d.bit (CAN_CTL_XL_EN n) ∧ d.canDatBit n true < 4 then 3
  else if segOk (g (CAN_NBT_NSJW n) 1 128) (g (CAN_NBT_NTSEG2 n) 1 128) (g (CAN_NBT_NTSEG1 n) 2 256)
      && segOk (g (CAN_DBT_SJW n) 1 16) (g (CAN_DBT_TSEG2 n) 1 16) (g (CAN_DBT_TSEG1 n) 1 32)
      && segOk (g (CAN_XBT_SJW n) 1 16) (g (CAN_XBT_TSEG2 n) 1 16) (g (CAN_XBT_TSEG1 n) 1 32) then 0
  else 4

/-- TRIPLE is set and does not act: more than 250 kbit/s, or NTSEG1 below 3 (R352). -/
def Dev.canTripleOff (d : Dev) (n : Nat) : Bool :=
  d.bit (CAN_NBT_TRIPLE n) && (d.canNomBit n < 320 || d.get (CAN_NBT_NTSEG1 n) < 3)

/-- RUN written 1 (R351, R352, R363). -/
def Dev.canRunSet (d : Dev) (n : Nat) : Dev :=
  if d.get (CAN_STAT_STATE n) ≠ 0 then d
  else
    let e := d.canCfgErr n
    if e ≠ 0 then d.set (CAN_STAT_CFG_ERR n) e
    else
      let d := d.set (CAN_STAT_CFG_ERR n) (if d.canTripleOff n then 5 else 0)
      Dev.clkEval ((d.set (CAN_CTL_RUN n) 1).set (CAN_STAT_STATE n) 1)

/-- RUN written 0 (R357, R363): pending requests fail; a frame on the bus is completed first. -/
def Dev.canRunClear (d : Dev) (n : Nat) : Dev :=
  if d.get (CAN_STAT_STATE n) = 0 then d
  else
    let d := d.set (CAN_CTL_RUN n) 0
    let arb := if d.canOn n then (d.canAt n).arb else none
    let d := (d.canFailAll n 4 arb).canUpd n fun r => { r with stopping := true }
    if arb.isSome then d else d.canStopped n

/-- CAN_RUN_SET (R351). -/
def execCanRunSet (n : Fin 4) (s : State) : Out := s.byReg fun d => d.canRunSet n

/-- CAN_RUN_CLEAR (R363). -/
def execCanRunClear (n : Fin 4) (s : State) : Out := s.byReg fun d => d.canRunClear n

/-- BUS_IDLE_DETECTED (R362, R363): 11 recessive bits. -/
def execBusIdleDetected (n : Fin 4) (s : State) : Out :=
  s.onClkMem 2 fun s =>
    if s.dev.get (CAN_STAT_STATE n) = 1 then ({ s with dev := s.dev.set (CAN_STAT_STATE n) 2 } : State).canArb n
    else if (s.dev.canAt n).idleWait then
      ({ s with dev := s.dev.canUpd n fun r => { r with idleWait := false } } : State).canArb n
    else { s with dev := s.dev.canUpd n fun r => { r with domOff := false } }

/-- BUS_OFF with recovery allowed: RECOVERING (R363). -/
def Dev.canRecover (d : Dev) (n : Nat) : Dev := d.when (d.get (CAN_STAT_STATE n) = 4) (·.set (CAN_STAT_STATE n) 5)

/-- RECOVER (R363). -/
def execRecover (n : Fin 4) (s : State) : Out := s.byReg fun d => d.canRecover n

/-- BUS_ON (R363). -/
def execBusOn (n : Fin 4) (s : State) : Out :=
  s.onClkMem 2 fun s =>
    if s.dev.get (CAN_STAT_STATE n) = 5 then
      let d := (s.dev.set (CAN_STAT_STATE n) 2).canCount n 0 0
      ({ s with dev := d.raise (canSrc n 10) } : State).canArb n
    else s

/-! ## Transmission -/

/-- TXREQ (R356, R358): a 1 for a pending buffer makes no new request. -/
def State.canTxreq (s : State) (n mask : Nat) : State :=
  ({ s with dev := s.dev.setBits (CAN_TXCTL_TXREQ n) (mask % 8) } : State).canWant n

/-- TXABORT (R357): it waits for the next arbitration, which comes at once on an idle bus, or for the end of the attempt on the
bus. A 1 sets the bit of a buffer without a request too (R10): it stays until that buffer's next request ends. -/
def State.canTxabort (s : State) (n mask : Nat) : State :=
  ({ s with dev := s.dev.setBits (CAN_TXCTL_TXABORT n) (mask % 8) } : State).canWant n

/-- TXREQ (R356). -/
def execTxreq (n : Fin 4) (mask : BitVec 3) (s : State) : Out := s.byRegMem fun s => s.canTxreq n mask.toNat

/-- TXABORT (R357). -/
def execTxabort (n : Fin 4) (mask : BitVec 3) (s : State) : Out := s.byRegMem fun s => s.canTxabort n mask.toNat

/-- The role and the REF identifier of controller `n` as CAN_TIME holds them. -/
def Dev.refCfg (d : Dev) (n : Nat) : RefCfg :=
  { role := d.get (CAN_TIME_ROLE n), id := d.get (CAN_TIME_REF_ID n), ide := d.bit (CAN_TIME_REF_IDE n) }

/-- The role and the REF identifier in force: a change takes effect at the next reference period (R386). -/
def Dev.refNow (d : Dev) (n : Nat) : RefCfg := (d.canAt n).ref.getD { d.refCfg n with role := 0 }

/-- A reference period begins: what CAN_TIME holds takes effect. -/
def Dev.refPeriodBegin (d : Dev) (n : Nat) : Dev := d.canUpd n fun r => { r with ref := some (d.refCfg n) }

/-- The part of controller `n` in the segment time: a role other than off acts on the segment's controller only (R365; DEDUCED,
log entry 96). -/
def Dev.refRole (d : Dev) (n : Nat) : Nat := if n = d.segCan then (d.refNow n).role else 0

/-- The frame is the REF of this configuration: Classic, without data (R365). -/
def RefCfg.isRef (c : RefCfg) (f : CanFrame) : Bool :=
  f.fmt = 0 && f.ide = c.ide && !f.rtr && f.id.toNat = c.id && f.data.isEmpty

/-- The REF of this configuration. -/
def RefCfg.frame (c : RefCfg) : CanFrame := { ide := c.ide, id := BitVec.ofNat 29 c.id }

/-- The identifier REF_ID + 1 of FOLLOW in the layout of the header: a base identifier stands in bits [28:18] (R355, R365; log
entry 101). -/
def RefCfg.followId (c : RefCfg) : BitVec 29 := BitVec.ofNat 29 (c.id + (if c.ide then 1 else 2 ^ 18))

/-- The frame is the FOLLOW of this configuration: Classic, with 8 data bytes (R365). -/
def RefCfg.isFollow (c : RefCfg) (f : CanFrame) : Bool :=
  f.fmt = 0 && f.ide = c.ide && !f.rtr && f.id = c.followId && f.data.length = 8

/-- A REF has been sent at `stamp` (R366): FOLLOW is queued at once. -/
def Dev.refSent (d : Dev) (n stamp : Nat) : Dev :=
  let c := d.refNow n
  let f : CanFrame := { ide := c.ide, id := c.followId, data := bytesLE 8 stamp }
  let d := d.canUpd n fun r => { r with slot := f :: r.slot }
  (((d.set (CAN_TREF n) stamp).count (CAN_CNT3_REF_SENT n)).raise (canSrc n 11))

/-- The transmit error counter after a frame sent without error: one less (R362). -/
def Dev.canTxGood (d : Dev) (n : Nat) : Dev := d.canCount n (d.get (CAN_STAT_TEC n) - 1) (d.get (CAN_STAT_REC n))

/-- The measured loop delay is shown where compensation acts on this frame (R353). -/
def Dev.canLoop (d : Dev) (n : Nat) (f : CanFrame) (loop : Nat) : Dev :=
  d.when ((f.fmt = 1 && f.brs && d.bit (CAN_DBT_TDC_EN n)) || (f.fmt = 2 && d.bit (CAN_XBT_TDC_EN n)))
    (·.set (CAN_STAT_TDCV n) loop)

/-- The attempt of frame `x` succeeded: a buffer's stamp is written and TX_DONE raised; a frame of the time slot leaves it
(R357, R366). -/
def State.canSent (s : State) (n x stamp loop : Nat) : State :=
  let s := { s with dev := s.dev.canTxGood n }
  if x = 3 then
    match (s.dev.canAt n).slot with
    | [] => s
    | f :: rest =>
      let d := s.dev.canUpd n fun r => { r with slot := rest }
      let d := d.when ((d.refNow n).isRef f && d.refRole n = 1) (·.refSent n stamp)
      { s with dev := d.when (n = d.segCan) (·.domSent f) }
  else
    let d := match canRead s.mem (canBuf n x) with
      | some f => s.dev.canLoop n f loop
      | none => s.dev
    let d := ((d.canEnd n x).setBits (CAN_TXCTL_TXDONE n) (2 ^ x)).raise (canSrc n 5)
    { s with mem := wrLE s.mem (canBuf n x) 8 stamp, dev := d }

/-- The attempt of frame `x` was lost: a new attempt follows, unless an abort is requested or ONESHOT is set; domain frames
are always sent again (R357, R387). -/
def Dev.canLost (d : Dev) (n x : Nat) : Dev :=
  if x = 3 then
    match (d.canAt n).slot with
    | [] => d
    | f :: rest =>
      d.when (d.bit (CAN_CTL_ONESHOT n) && ((d.refNow n).isRef f || (d.refNow n).isFollow f))
        (·.canUpd n fun r => { r with slot := rest })
  else if d.tb (CAN_TXCTL_TXABORT n) x then d.canFail n x 1
  else if d.bit (CAN_CTL_ONESHOT n) then d.canFail n x 2
  else d

/-- The attempt of frame `x` was lost; a buffer's frame that came to its data phase has measured the loop delay (R353). -/
def State.canLostAt (s : State) (n x : Nat) (loop : Option (BitVec 8)) : State :=
  let d := match loop, (if x = 3 then none else canRead s.mem (canBuf n x)) with
    | some l, some f => s.dev.canLoop n f l.toNat
    | _, _ => s.dev
  { s with dev := d.canLost n x }

/-- CAN_TX_COMPLETE (R357): the attempt on the bus ends, and the next arbitration follows. A transceiver in standby sends no frame
(R348), and one that released the bus after a dominant timeout does not bring its frame to an end (R349). -/
def execCanTxComplete (n : Fin 4) (e : TxEnd) (s : State) : Out :=
  s.onClkMem 2 fun s =>
    match (s.dev.canAt n).arb with
    | none => s
    | some x =>
      let cut := (s.dev.canAt n).domOff
      let s := { s with dev := s.dev.canUpd n fun r => { r with arb := none, domOff := false } }
      let s :=
        if !s.dev.canXcvr n then s.canLostAt n x none
        else match e with
          | .sent age loop =>
            if cut then s.canLostAt n x (some loop) else s.canSent n x (s.dev.time - age.toNat) loop.toNat
          | .lost => s.canLostAt n x none
          | .error loop => s.canLostAt n x loop
      ({ s with dev := s.dev.canStopped n } : State).canArb n

/-- REF_PERIOD (R366, R386): ROLE and REF_ID as written take effect, and a master that takes part in the bus requests REF. -/
def execRefPeriod (n : Fin 4) (s : State) : Out :=
  s.onClkMem 2 fun s =>
    let d := s.dev.refPeriodBegin n
    let c := d.refNow n
    if d.refRole n = 1 ∧ d.canOn n ∧ !((d.canAt n).slot.any fun f => c.isRef f) then
      ({ s with dev := d.canQueue n c.frame } : State).canWant n
    else { s with dev := d }

/-! ## Reception -/

/-- The filter `k` of controller `n` matches the frame (R359). -/
def Dev.canMatch (d : Dev) (n k : Nat) (f : CanFrame) : Bool :=
  let fmt := d.get (CAN_FLT_FMT n k)
  d.bit (CAN_FLT_EN n k) && (fmt = 0 || fmt = f.fmt + 1) && (d.bit (CAN_FLT_IDE n k) = f.ide)
    && (f.id.toNat ^^^ d.get (CAN_FLT_ID n k)) &&& d.get (CAN_FLT_MASK n k) = 0

/-- Where an entry of `size` bytes goes in the ring: after the newest, or at 0x8000 where it would not fit before the end; none
where the ring lacks room or the FIFO holds 64 entries (R361). -/
def Can.place (r : Can) (size : Nat) : Option Nat :=
  let p := if 0x10000 < r.tail + size then 0x8000 else r.tail
  if 64 ≤ r.entries.length then none
  else if r.entries.any fun e => p < e.1 + e.2 && e.1 < p + size then none
  else some p

/-- HEAD and LEVEL show the FIFO (R361). -/
def Dev.canFifoShow (d : Dev) (n : Nat) : Dev :=
  let r := d.canAt n
  let head := match r.entries with | [] => r.tail % 0x10000 | e :: _ => e.1
  (d.set (CAN_RXF_LEVEL n) r.entries.length).set (CAN_RXF_HEAD n) (if head = 0 then 0x8000 else head)

/-- A frame for the receive FIFO (R361, R373). -/
def State.canFifo (s : State) (n : Nat) (f : CanFrame) (stamp filter : Nat) : State :=
  let size := canSize f.data.length
  match (s.dev.canAt n).place size with
  | none => { s with dev := (s.dev.count (CAN_CNT_RX_OVF n)).raiseLim (canSrc n 2) 0 ms1 }
  | some p =>
    let d := s.dev.canUpd n fun r => { r with entries := r.entries ++ [(p, size)], tail := p + size }
    let d := (d.canFifoShow n).raise (canSrc n 0)
    let d := d.when (d.get (CAN_RXF_LEVEL n) = clampN 1 64 (d.get (CAN_RXF_WM n))) (·.raise (canSrc n 1))
    { s with mem := wrBytes s.mem (A_CAN_CTL n + p) (canBytes f stamp filter), dev := d }

/-- A frame for a high-priority slot (R360, R373). -/
def State.canSlot (s : State) (n : Nat) (f : CanFrame) (stamp filter : Nat) : State :=
  match (List.range 4).find? fun k => !s.dev.tb (CAN_HP_FULL n) k with
  | none => { s with dev := (s.dev.count (CAN_CNT_HP_OVF n)).raiseLim (canSrc n 4) 0 ms1 }
  | some k =>
    { s with mem := wrBytes s.mem (canHp n k) (canBytes f stamp filter),
             dev := (s.dev.setBits (CAN_HP_FULL n) (2 ^ k)).raise (canSrc n 3) }

/-- The first enabled filter that matches decides (R359). -/
def State.canFilter (s : State) (n : Nat) (f : CanFrame) (stamp : Nat) : State :=
  match (List.range 128).find? fun k => s.dev.canMatch n k f with
  | some k =>
    match s.dev.get (CAN_FLT_ACT n k) with
    | 0 => s
    | 2 => s.canSlot n f stamp k
    | _ => s.canFifo n f stamp k
  | none =>
    if s.dev.bit (CAN_CTL_ACCEPT_ALL n) then s.canFifo n f stamp 255
    else { s with dev := s.dev.count (CAN_CNT_NOMATCH n) }

/-- A REF or FOLLOW of the segment under the identifier as written is a domain frame heard (R391). A REF begins the reference
period of a controller that is not written to be the master (R386; log entry 43), and makes a waiting module contend. -/
def Dev.refSeen (d : Dev) (n : Nat) (f : CanFrame) : Dev :=
  let c := d.refCfg n
  let here : Bool := n = d.segCan && d.domState ≠ 0
  let d := d.when (here && (c.isRef f || c.isFollow f)) fun d => { d with dom := { d.dom with heard := true } }
  d.when (c.isRef f) fun d => (d.when (c.role ≠ 1) (·.refPeriodBegin n)).when here Dev.domHeardRef

/-- A REF of another node (R366, R367). -/
def Dev.refHeard (d : Dev) (n stamp : Nat) : Dev :=
  let role := d.refRole n
  if role = 1 then (d.count (CAN_CNT3_CONFLICT n)).raise (canSrc n 13)
  else if role = 2 then
    let d := d.when (d.canAt n).held.isSome (·.count (CAN_CNT3_REF_DROP n))
    d.canUpd n fun r => { r with held := some (stamp, d.mono) }
  else d

/-- A FOLLOW carrying `master` (R367): within 5 ms of the held REF it forms a pair; after that the REF is dropped, and so is the
FOLLOW. -/
def Dev.followHeard (d : Dev) (n master : Nat) : Dev :=
  if d.refRole n ≠ 2 then d
  else
    match (d.canAt n).held with
    | none => d.count (CAN_CNT3_REF_DROP n)
    | some (stamp, at0) =>
      let d := d.canUpd n fun r => { r with held := none }
      if at0 + 5 * ms1 < d.mono then (d.count (CAN_CNT3_REF_DROP n)).count (CAN_CNT3_REF_DROP n)
      else
        let th : Int := (master : Int) - ((stamp : Int) - min 1000 (d.get (CAN_TIME_DELAY_NS n)))
        let d := (d.setI (CAN_TOFF n) th).set (CAN_TREF n) stamp
        let d := (d.count (CAN_CNT3_REF_PAIRS n)).raise (canSrc n 12)
        d.when (n = d.segCan) (·.domPair th)

/-- The receive error counter after a frame received without error: one less; above 127 a value between 119 and 127, which
ISO 11898-1 leaves open (R362, log entries 1 and 18). -/
def Dev.canRxGood (d : Dev) (n : Nat) : Dev :=
  let r := d.get (CAN_STAT_REC n)
  let tec := d.get (CAN_STAT_TEC n)
  if 127 < r then d.drawn.canCount n tec (119 + d.freeVal.toNat % 9) else d.canCount n tec (r - 1)

/-- A protocol exception (R347, R363). -/
def Dev.canException (d : Dev) (n : Nat) : Dev :=
  if d.canOn n then
    let d := (d.canUpd n fun r => { r with arb := none, domOff := false }).canStopped n
    let d := d.when (d.get (CAN_STAT_STATE n) ≠ 0) (·.set (CAN_STAT_STATE n) 1)
    ((d.count (CAN_CNT_PROT_EXC n)).set (CAN_STAT_LEC n) 7).raiseLim (canSrc n 14) 0 ms1
  else d

/-- CAN_FRAME_RECEIVED (R359 to R361, R366, R367): `age` is the time since its start of frame in ns. -/
def execCanFrameReceived (n : Fin 4) (f : CanFrame) (age : BitVec 32) (s : State) : Out :=
  s.onClkMem 2 fun s =>
    if !s.dev.canOn n || !s.dev.canXcvr n || (s.dev.canAt n).idleWait then s
    else if !s.dev.canEnabled n f then { s with dev := s.dev.canException n }
    else
      let stamp := s.dev.time - age.toNat
      let d := s.dev.canRxGood n
      let s := ({ s with dev := d } : State).canFilter n f stamp
      let d := s.dev.refSeen n f
      let d := d.when ((d.refNow n).isRef f) (·.refHeard n stamp)
      let d := d.when ((d.refNow n).isFollow f) (·.followHeard n (ofBytesLE f.data))
      ({ s with dev := d.canStopped n } : State).canArb n

/-- REF_FOLLOW_TIMEOUT (R367). -/
def execRefFollowTimeout (n : Fin 4) (s : State) : Out :=
  s.onClk 2 fun d =>
    d.when (d.canAt n).held.isSome fun d =>
      (d.canUpd n fun r => { r with held := none }).count (CAN_CNT3_REF_DROP n)

/-- CAN_PROTOCOL_EXCEPTION (R347). -/
def execCanProtocolException (n : Fin 4) (s : State) : Out := s.onClk 2 fun d => d.canException n

/-- CAN_BUS_ERROR (R362): the counters change as ISO 11898-1 prescribes for `e`; `lec` names the error. After an error in the data
phase of an XL frame a receiver with ESO set sends no error flag and waits for the bus to go idle. -/
def execCanBusError (n : Fin 4) (e : CanErr) (lec : BitVec 3) (s : State) : Out :=
  s.onClk 2 fun d =>
    if !d.canOn n then d
    else
      let t := d.get (CAN_STAT_TEC n)
      let r := d.get (CAN_STAT_REC n)
      let d := d.set (CAN_STAT_LEC n) lec.toNat
      match e with
      | .rx => d.canCount n t (r + 1)
      | .rxDominant => d.canCount n t (r + 8)
      | .tx => d.canCount n (t + 8) r
      | .txExempt => d
      | .rxXl => (d.canUpd n fun q => { q with idleWait := q.idleWait || d.bit (CAN_XBT_ESO n) }).canCount n t (r + 1)

/-- The entry at HEAD is freed; without one nothing happens (R361). -/
def Dev.canPop (d : Dev) (n : Nat) : Dev :=
  if (d.canAt n).entries.isEmpty then d
  else (d.canUpd n fun r => { r with entries := r.entries.tail }).canFifoShow n

/-- FIFO_POP (R361). -/
def execFifoPop (n : Fin 4) (s : State) : Out := s.byReg fun d => d.canPop n

/-- HP_SLOT_FREE (R360). -/
def execHpSlotFree (n : Fin 4) (mask : BitVec 4) (s : State) : Out :=
  s.byReg fun d => d.clrBits (CAN_HP_FULL n) mask.toNat

/-- DOMINANT_TIMEOUT (R349): the transmitter of a transceiver that is not in standby releases the bus until its input goes
recessive, which it does at the latest when the attempt on the bus is over. -/
def execDominantTimeout (n : Fin 4) (s : State) : Out :=
  s.onClk 2 fun d => d.when (d.canXcvr n) fun d =>
    ((d.canUpd n fun r => { r with domOff := true }).count (CAN_CNT2_DOM_TO n)).raiseLim (canSrc n 14) 0 ms1

end Sys2Proof.Machine
end

