-- ==== Sys2Proof/Machine/Eth.lean ====
section
/-!
DEFINITION. Machine/Eth.lean: the trunk ports (R369), the three-port switch (R370), IEEE 802.1AS (R371) and the host port's
descriptor rings (R372).
-/
namespace Sys2Proof.Machine

/-- Trunk port `p` is enabled. -/
def Dev.ethEn (d : Dev) (p : Nat) : Bool := d.bit (if p = 0 then ETH_CTL_P0_EN else ETH_CTL_P1_EN)

/-- Trunk port `p` is enabled and its link is up. -/
def Dev.ethUp (d : Dev) (p : Nat) : Bool := d.ethEn p && d.bit (ETH_PHY_LINK p)

/-! ## Best-master selection (R371) -/

/-- The order of best-master selection: the lower key is the better grandmaster, over fewer steps. -/
def annKey (a : Announce) : Nat :=
  ((((a.prio1.toNat * 256 + a.cls.toNat) * 256 + a.prio2.toNat) * 2 ^ 64 + a.gm.toNat) * 2 ^ 16 + a.steps.toNat) * 2 ^ 64
    + a.src.toNat

/-- This module as a grandmaster candidate: none with PRIO1 255 (R371). -/
def Dev.asOwn (d : Dev) : Option Announce :=
  if d.get ETH_ASCFG_PRIO1 = 255 then none
  else
    let u := BitVec.ofNat 64 Config.uid
    some { prio1 := BitVec.ofNat 8 (d.get ETH_ASCFG_PRIO1), cls := BitVec.ofNat 8 (d.get ETH_ASCFG_CLASS),
           prio2 := BitVec.ofNat 8 (d.get ETH_ASCFG_PRIO2), gm := u, steps := 0, src := u }

/-- Port `p` takes part in 802.1AS: its link is up, and its neighbour has answered as capable (R371; log entry 20). -/
def Dev.asUp (d : Dev) (p : Nat) : Bool := d.bit ETH_CTL_AS_EN && d.ethUp p && d.bit (ETH_ASPORT_AS_CAPABLE p)

/-- The Announce held for port `p`. -/
def Dev.asHeld (d : Dev) (p : Nat) : Option Announce :=
  if d.asUp p then (d.eth.ann.find? fun e => e.1 = p).map (·.2) else none

/-- The better of two candidates. -/
def annBest (a b : Option Announce) : Option Announce :=
  match a, b with
  | none, b => b
  | a, none => a
  | some a, some b => if annKey b < annKey a then some b else some a

/-- The grandmaster in force. -/
def Dev.asBest (d : Dev) : Option Announce := annBest d.asOwn (annBest (d.asHeld 0) (d.asHeld 1))

/-- What the module's master ports announce. -/
def Dev.asSent (d : Dev) : Option Announce :=
  d.asBest.map fun a =>
    if a.gm.toNat = Config.uid then a else { a with steps := a.steps + 1, src := BitVec.ofNat 64 Config.uid }

/-- The role of port `p`: 0 master, 1 slave, 2 passive, 3 disabled. A port without a capable neighbour is disabled; without any
grandmaster candidate, this module being incapable of the role, no port is master (log entry 20). -/
def Dev.asRole (d : Dev) (p : Nat) : Nat :=
  if !d.asUp p then 3
  else
    match d.asHeld p, d.asBest with
    | some a, some b =>
      if annKey a = annKey b then 1
      else match d.asSent with
        | some m => if annKey a < annKey m then 2 else 0
        | none => 0
    | _, none => 2
    | none, _ => 0

/-- Best-master selection runs: roles, grandmaster, and their events (R371, R374). -/
def Dev.asSelect (d : Dev) : Dev :=
  let gm := if d.bit ETH_CTL_AS_EN then (d.asBest.map (·.gm.toNat)).getD 0 else 0
  let roles := [d.asRole 0, d.asRole 1]
  let moved : Bool := roles ≠ [d.get (ETH_ASPORT_AS_ROLE 0), d.get (ETH_ASPORT_AS_ROLE 1)]
  let newGm : Bool := gm ≠ d.get ETH_GMID_GMID
  let d := (d.set (ETH_ASPORT_AS_ROLE 0) (d.asRole 0)).set (ETH_ASPORT_AS_ROLE 1) (roles.getD 1 3)
  let d := (d.set ETH_GMID_GMID gm).setB SFL_DOMSTAT_GM (gm = Config.uid)
  let d := (d.when moved (·.raise 589)).when newGm (·.raise 591)
  d.when d.dom.joined Dev.domRoles

/-- Port `p` has no capable neighbour any more: what it announced is forgotten. -/
def Dev.asForget (d : Dev) (p : Nat) : Dev :=
  { d with eth := { d.eth with ann := d.eth.ann.filter fun e => e.1 ≠ p } }.set (ETH_ASPORT_AS_CAPABLE p) 0

/-- The link of port `p` is up or down (R369, R388): a disabled port has none; the loss of a link is counted and raised, and
ends what its port held. -/
def Dev.ethLink (d : Dev) (p : Nat) (up : Bool) (sqi : Nat) : Dev :=
  let was := d.bit (ETH_PHY_LINK p)
  let before := d.trunkUp
  let up := up && d.ethEn p
  let d := (d.setB (ETH_PHY_LINK p) up).set (ETH_PHY_SQI p) (if up then sqi else 0)
  let d := d.when (was && !up) fun d =>
    ((d.asForget p).count (ETH_CNT_LINK_DOWN p)).raise (584 + p)
  (d.domTrunkChanged before).asSelect

/-- ETH_LINK_CHANGE (R369, R388). -/
def execEthLinkChange (p : Fin 2) (up : Bool) (sqi : BitVec 3) (s : State) : Out :=
  s.domain fun d => d.ethLink p up sqi.toNat

/-- ANNOUNCE_RECEIVED (R371): information of another grandmaster candidate; one that names this module itself, or a candidate
incapable of the role, is not held. -/
def execAnnounceReceived (p : Fin 2) (a : Announce) (s : State) : Out :=
  s.main fun d =>
    if !d.asUp p ∨ a.gm.toNat = Config.uid ∨ a.prio1 = 255 then d
    else
      let l := (d.eth.ann.filter fun e => e.1 ≠ p.val) ++ [(p.val, a)]
      Dev.asSelect { d with eth := { d.eth with ann := l } }

/-- ANNOUNCE_TRANSMIT (R371, R389): a master port announces the grandmaster in force. -/
def execAnnounceTransmit (p : Fin 2) (s : State) : Out :=
  s.main fun d =>
    let d := d.asSelect
    match d.asSent with
    | some a =>
      if d.get (ETH_ASPORT_AS_ROLE p) = 0 then
        { d with eth := { d.eth with sentAnn := (d.eth.sentAnn.filter fun e => e.1 ≠ p.val) ++ [(p.val, .announce a)] } }
      else d
    | none => d

/-- Port `p` sends Sync with reference time `t`. -/
def Dev.syncSend (d : Dev) (p t : Nat) : Dev :=
  { d with eth := { d.eth with sentSync := (d.eth.sentSync.filter fun e => e.1 ≠ p) ++ [(p, .sync t)] } }

/-- SYNC_TRANSMIT (R371). -/
def execSyncTransmit (p : Fin 2) (s : State) : Out :=
  s.main fun d => if d.get (ETH_ASPORT_AS_ROLE p) = 0 then d.syncSend p d.time else d

/-- SYNC_RECEIVED (R371, R437): reference time `t` at the sender's port, received `age` ns ago; a slave port measures
θ = t + link delay − own stamp, and the other port relays it when it is a master. -/
def execSyncReceived (p : Fin 2) (t : BitVec 64) (age : BitVec 32) (s : State) : Out :=
  s.main fun d =>
    if d.get (ETH_ASPORT_AS_ROLE p) ≠ 1 then d
    else
      let ref := t.toNat + d.get (ETH_ASPORT_PDELAY_NS p)
      let th : Int := (ref : Int) - ((d.time - age.toNat : Nat) : Int)
      let q := 1 - p.val
      let d := d.when (d.get (ETH_ASPORT_AS_ROLE q) = 0) (·.syncSend q (ref + age.toNat))
      d.when (d.get DTM_STAT_SRC = 2) (·.dtmMeasure th)

/-- PDELAY_EXCHANGE (R371): the mean link delay, or a failed exchange; best-master selection follows, since a port without a capable
neighbour takes no part in it (log entry 20). -/
def execPdelayExchange (p : Fin 2) (delay : Option (BitVec 32)) (s : State) : Out :=
  s.main fun d =>
    if !d.ethUp p ∨ !d.bit ETH_CTL_AS_EN then d
    else
      match delay with
      | some ns => ((d.set (ETH_ASPORT_PDELAY_NS p) ns.toNat).set (ETH_ASPORT_AS_CAPABLE p) 1).asSelect
      | none => (((d.asForget p).count ETH_CCNT_PDELAY_FAIL).raise 592).asSelect

/-- SYNC_LOST (R371). -/
def execSyncLost (p : Fin 2) (s : State) : Out :=
  s.main fun d => if d.get (ETH_ASPORT_AS_ROLE p) = 1 then (d.count ETH_CCNT_SYNC_LOST).raise 590 else d

/-! ## The switch (R370) -/

/-- The destination and source address of a frame. -/
def macDst (l : List (BitVec 8)) : Nat := ofBytesBE (l.take 6)

/-- The source address of a frame. -/
def macSrc (l : List (BitVec 8)) : Nat := ofBytesBE ((l.drop 6).take 6)

/-- A group address. -/
def macGroup (a : Nat) : Bool := (a / 2 ^ 40).testBit 0

/-- The frame's priority is 4 to 7 by its VLAN tag; an untagged frame has priority 0. -/
def pcpHigh (l : List (BitVec 8)) : Bool :=
  ofBytesBE ((l.drop 12).take 2) = 0x8100 && (l.getD 14 0).toNat / 32 ≥ 4

/-- The source address of a frame from port `p` is learned or refreshed; a full table of 256 learns no further address. -/
def Dev.macLearn (d : Dev) (a p : Nat) : Dev :=
  let l := d.eth.macs.filter fun e => e.1 ≠ a
  if macGroup a ∨ 256 ≤ l.length then d else { d with eth := { d.eth with macs := l ++ [(a, p)] } }

/-- The ports a frame from port `p` goes to by the table: that of its address, else all others (R370). Port 2 is the host. -/
def Dev.macPorts (d : Dev) (p : Nat) (l : List (BitVec 8)) : List Nat :=
  let a := macDst l
  let others := [0, 1, 2].filter (· ≠ p)
  if macGroup a then others
  else if a = d.get ETH_MACADDR_MAC then [2].filter (· ≠ p)
  else match d.eth.macs.find? fun e => e.1 = a with
    | some e => [e.2].filter (· ≠ p)
    | none => others

/-- The high or the low queue of trunk port `q` is full (R370). -/
def Dev.ethFull (d : Dev) (q : Nat) (hi : Bool) : Bool :=
  32 ≤ ((if hi then d.eth.high else d.eth.low).filter fun e => e.1 = q).length

/-- Queue a frame at trunk port `q`, or drop and count it (R370). -/
def Dev.ethQueue (d : Dev) (q : Nat) (hi : Bool) (l : List (BitVec 8)) : Dev :=
  if !d.ethUp q then d
  else
    let old := if hi then d.eth.high else d.eth.low
    if d.ethFull q hi then d.count (ETH_CNT_TX_DROP q)
    else if hi then { d with eth := { d.eth with high := old ++ [(q, l)] } }
    else { d with eth := { d.eth with low := old ++ [(q, l)] } }

/-- The entries of a queue without the first one of port `q`. -/
def dropFirst (q : Nat) : List (Nat × List (BitVec 8)) → List (Nat × List (BitVec 8))
  | [] => []
  | e :: t => if e.1 = q then t else e :: dropFirst q t

/-- A frame leaves port `q`: the high queue first (R370). -/
def Dev.ethLeave (d : Dev) (q : Nat) : Dev :=
  if !d.ethUp q then d
  else if d.eth.high.any fun e => e.1 = q then { d with eth := { d.eth with high := dropFirst q d.eth.high } }
  else { d with eth := { d.eth with low := dropFirst q d.eth.low } }

/-- Queue a frame from trunk port `p` at the host port, where it is active; a full queue drops it, counted at the port it came from
(R370; log entry 127). -/
def Dev.hostQueue (d : Dev) (p stamp : Nat) (l : List (BitVec 8)) : Dev :=
  let old := if pcpHigh l then d.eth.hostHigh else d.eth.hostLow
  if !d.bit ETH_CTL_HOST_EN then d
  else if 32 ≤ old.length then d.count (ETH_CNT_TX_DROP p)
  else if pcpHigh l then { d with eth := { d.eth with hostHigh := old ++ [(p, stamp, l)] } }
  else { d with eth := { d.eth with hostLow := old ++ [(p, stamp, l)] } }

/-- One tick of time of the registers and ports: the reference tick, and one frame leaves each trunk port (R30, R370, R436). -/
def Dev.idle (d : Dev) : Dev := ((d.tick).ethLeave 0).ethLeave 1

/-! ## The host port (R372) -/

/-- The number of descriptors of a ring. -/
def Dev.ringSize (d : Dev) (f : Fld) : Nat := clampN 1 1024 (d.get f)

/-- The bytes from `a` lie in SRAM. -/
def inSram (a n : Nat) : Bool := 0x10000000 ≤ a && a + n ≤ 0x11000000

/-- The address of the next receive descriptor. -/
def Dev.rxDesc (d : Dev) : Nat := d.get ETH_RXRING_BASE / 32 * 32 + 32 * d.get ETH_DMA_RXIDX

/-- A frame for the host takes the next receive descriptor; one with OWN = 0 drops it (R372). A buffer that is too small or
not in SRAM takes no data and shows ERR (log entry 20). -/
def State.hostReceive (s : State) (p stamp : Nat) (l : List (BitVec 8)) : State :=
  let d := s.dev
  if !d.bit ETH_CTL_HOST_EN then s
  else
    let i := d.get ETH_DMA_RXIDX
    let a := d.rxDesc
    let w := rdLE s.mem (a + 8) 8
    if !inSram a 32 ∨ !w.testBit 63 then { s with dev := (d.count ETH_CCNT_RX_OVF).raise 588 }
    else
      let buf := rdLE s.mem a 8 % 2 ^ 40 / 8 * 8
      let ok := inSram buf l.length && l.length ≤ w / 2 ^ 16 % 2 ^ 16
      let m := if ok then wrBytes s.mem buf l else s.mem
      let w := w / 2 ^ 16 % 2 ^ 16 * 2 ^ 16 + l.length % 2 ^ 16 * 2 ^ 32 + (p + 1) * 2 ^ 59 + (if ok then 0 else 2 ^ 58)
      let m := wrLE (wrLE m (a + 8) 8 w) (a + 16) 8 stamp
      let i := if i + 1 < d.ringSize ETH_RXRING_SIZE then i + 1 else 0
      { s with mem := m, dev := (d.set ETH_DMA_RXIDX i).raise 586 }

/-- The DMA takes the frames of the host port, the high queue first, while PLL A clocks the crossbar to the SRAM (R26, R370). -/
def State.hostDrain (s : State) : State :=
  if !s.dev.clk 0 then s
  else
    let e := s.dev.eth
    (e.hostHigh ++ e.hostLow).foldl (fun s x => s.hostReceive x.1 x.2.1 x.2.2)
      { s with dev := { s.dev with eth := { e with hostHigh := [], hostLow := [] } } }

/-- One tick of time on an empty queue: the frames that wait for PLL A go to the SRAM once it runs again. -/
def State.idle (s : State) : State := ({ s with dev := s.dev.idle } : State).hostDrain

/-- The switch takes a frame that arrived at trunk port `p` with its start-frame delimiter `age` ns ago (R370): a bad FCS drops
it; a frame to the 802.1AS address goes no further with AS_EN. A length outside 60 to 1,518 is dropped at the port (log entry 20).
-/
def Dev.switched (d : Dev) (p : Nat) (l : List (BitVec 8)) (ok : Bool) (age : Nat) : Dev :=
  if !d.ethUp p then d
  else if !ok then d.count (ETH_CNT_CRC_ERR p)
  else if l.length < 60 ∨ 1518 < l.length then d.count (ETH_CNT_RX_DROP p)
  else if d.bit ETH_CTL_AS_EN && macDst l = 0x0180C200000E then d
  else
    let d := d.macLearn (macSrc l) p
    let ports := d.macPorts p l
    let d := d.eachOf (ports.filter (· < 2)) fun q d => d.ethQueue q (pcpHigh l) l
    d.when (ports.contains 2) (·.hostQueue p (d.time - age) l)

/-- SWITCH_FRAME_RECEIVED (R370): a frame without its FCS arrives at trunk port `p`; the host port's DMA follows. -/
def execSwitchFrameReceived (p : Fin 2) (l : List (BitVec 8)) (ok : Bool) (age : BitVec 32) (s : State) : Out :=
  s.mainMem fun s => ({ s with dev := s.dev.switched p l ok age.toNat } : State).hostDrain

/-- The address of the next transmit descriptor. -/
def Dev.txDesc (d : Dev) : Nat := d.get ETH_TXRING_BASE / 32 * 32 + 32 * d.get ETH_DMA_TXIDX

/-- The next transmit descriptor is owned by the DMA. -/
def State.txOwned (s : State) : Bool := inSram s.dev.txDesc 32 && (rdLE s.mem (s.dev.txDesc + 8) 8).testBit 63

/-- TXKICK (R372). -/
def State.txKick (s : State) : State :=
  { s with dev := { s.dev with eth := { s.dev.eth with txRun := s.dev.bit ETH_CTL_HOST_EN && s.txOwned } } }

/-- TXKICK (R372). -/
def execTxkick (s : State) : Out := s.byRegMem State.txKick

/-- The ports a frame goes to, but none for the 802.1AS address with AS_EN: such frames are not forwarded (R371). -/
def Dev.forwarded (d : Dev) (l : List (BitVec 8)) (ports : List Nat) : List Nat :=
  if d.bit ETH_CTL_AS_EN && macDst l = 0x0180C200000E then [] else ports

/-- HOST_FRAME_SENT (R372): the DMA is done with the descriptor; a frame outside SRAM or of a bad length, or one that no port's
queue takes, is not sent. -/
def execHostFrameSent (ok : Bool) (age : BitVec 32) (s : State) : Out :=
  s.onClkMem 0 fun s =>
    let d := s.dev
    if !d.eth.txRun ∨ !s.txOwned ∨ !d.bit ETH_CTL_HOST_EN then s
    else
      let a := d.txDesc
      let w := rdLE s.mem (a + 8) 8
      let buf := rdLE s.mem a 8 % 2 ^ 40 / 8 * 8
      let len := w / 2 ^ 32 % 2 ^ 16
      let ok := ok && decide (60 ≤ len ∧ len ≤ 1518) && inSram buf len
      let l := rdBytes s.mem buf (if ok then len else 0)
      let port := w / 2 ^ 59 % 4
      let ports := if port = 0 then (d.macPorts 2 l).filter (· < 2)
        else if port = 3 then [0, 1] else [port - 1]
      let hi := w.testBit 62
      let ports := d.forwarded l ports
      let sent := ok && ports.any fun q => d.ethUp q && !d.ethFull q hi
      let d := if ok then (d.macLearn (macSrc l) 2).eachOf ports fun q d => d.ethQueue q hi l else d
      let w := w % 2 ^ 58 + w / 2 ^ 59 % 16 * 2 ^ 59 + (if sent then 0 else 2 ^ 58)
      let m := wrLE s.mem (a + 8) 8 w
      let m := if sent && w.testBit 61 then wrLE m (a + 16) 8 (d.time - age.toNat) else m
      let i := d.get ETH_DMA_TXIDX
      let i := if i + 1 < d.ringSize ETH_TXRING_SIZE then i + 1 else 0
      let s := { s with mem := m, dev := (d.set ETH_DMA_TXIDX i).raise 587 }
      s.txKick

/-- MAC_ENTRY_AGEING (R370). -/
def execMacEntryAgeing (mac : BitVec 48) (s : State) : Out :=
  s.main fun d => { d with eth := { d.eth with macs := d.eth.macs.filter fun e => e.1 ≠ mac.toNat } }

end Sys2Proof.Machine
end

