-- ==== Sys2Proof/Machine/Spim.lean ====
section
/-!
DEFINITION. Machine/Spim.lean: the image flash master SPIM0 (R405 to R407) and the peripheral master SPIM1 (R408, R409).
-/
namespace Sys2Proof.Machine

/-! ## Flash -/

/-- Write one flash byte. -/
def flashW8 (m : List Host.Cell) (a : Nat) (v : BitVec 8) : List Host.Cell := Tab.put flashDefault m a v

/-- An image runs: the start of an accepted image is over (R68). -/
def Dev.imageRuns (d : Dev) : Bool := d.bit SYS_IMGSTAT_IMG_OK

/-- Flash offset `a` lies in the slot of the running image (R60, R68). -/
def Dev.inRunSlot (d : Dev) (a : Nat) : Bool := d.imageRuns && a / 0x2000000 = d.get SYS_IMGSTAT_SLOT

/-- Flash offset `a` lies in the slot that does not run. -/
def Dev.inIdleSlot (d : Dev) (a : Nat) : Bool := d.imageRuns && a / 0x2000000 = 1 - d.get SYS_IMGSTAT_SLOT

/-- Change the SPIM0 record. -/
def Dev.m0Upd (d : Dev) (f : M0 → M0) : Dev := { d with m0 := f d.m0 }

/-- The operation that SPI_M0CMD describes has an opcode of SPI_M0PROT; 0x00 there is unused (R407). -/
def Dev.m0Protected (d : Dev) : Bool :=
  let op := d.get SPI_M0CMD_OPC
  op ≠ 0 && (List.range 8).any fun k => d.get SPI_M0PROT / 2 ^ (8 * k) % 256 = op

/-- GO (R406, R407): the operation starts, behind a host flash command that came first, or is refused as protected while an image
runs; while one runs nothing happens. -/
def Dev.m0Go (d : Dev) : Dev :=
  if d.bit SPI_M0CTL_BUSY then d
  else if d.imageRuns && d.m0Protected && d.get SPI_M0CMD_ADDR_BYTES = 0 then
    (d.set SPI_M0CTL_RESULT 3).count SYS_IMGSTAT_RUNSLOT_WR
  else if d.m0Protected && d.inRunSlot (d.get SPI_M0ADDR % 2 ^ 32) then
    (d.set SPI_M0CTL_RESULT 2).count SYS_IMGSTAT_RUNSLOT_WR
  else Dev.clkEval (((d.set SPI_M0CTL_RESULT 0).set SPI_M0CTL_BUSY 1).m0Upd fun r => { r with behind := d.spih.flash })

/-- M0_GO (R406). -/
def execM0Go (s : State) : Out := s.byReg Dev.m0Go

/-- The flash after an operation that changed the bytes `chg`: an erased byte in the range of a write's data takes its byte of the
SRAM buffer (R406), any other the byte of the flash's answer (log entry 21). -/
def State.m0Flash (s : State) (buf : Nat) (chg : List (BitVec 32 × BitVec 8)) : List Host.Cell :=
  let d := s.dev
  let lo := d.get SPI_M0ADDR % 2 ^ 32
  let out : Bool := !d.bit SPI_M0CMD_DIR && d.get SPI_M0CMD_ADDR_BYTES ≠ 0
  chg.foldl (fun f c =>
    let a := c.1.toNat
    flashW8 f a (if out && lo ≤ a && a < lo + d.get SPI_M0CMD_LEN && flash8 f a = 0xFF then rd8 s.mem (buf + (a - lo)) else c.2))
    s.flash

/-- M0_DONE (R406): the operation ends; one that waits behind a host flash command has not begun. The data of a read goes to the
SRAM buffer and that of a write comes from it, both through the crossbar on PLL A (R26); a buffer outside SRAM ends it with RESULT
5. What an opcode does in the flash is the flash's answer (log entry 21). -/
def execM0Done (e : M0End) (s : State) : Out :=
  s.onClkMem 2 fun s =>
    let d := s.dev
    if !d.bit SPI_M0CTL_BUSY ∨ d.m0.behind then s
    else
      let d := Dev.clkEval (d.set SPI_M0CTL_BUSY 0)
      let len := d.get SPI_M0CMD_LEN
      let buf := d.get SPI_M0BUF / 8 * 8
      match e with
      | .timeout => { s with dev := ((d.set SPI_M0CTL_RESULT 4).count SPI_M0CNT_TIMEOUTS).raise 635 }
      | .done rd chg =>
        if len ≠ 0 ∧ !s.dev.clk 0 then s
        else if len ≠ 0 ∧ !inSram buf len then { s with dev := (d.set SPI_M0CTL_RESULT 5).raise 634 }
        else
          let m := if d.bit SPI_M0CMD_DIR then wrBytes s.mem buf (rd.take len) else s.mem
          let d := if d.bit SPI_M0CMD_DIR then d else d.m0Upd fun r => { r with sent := rdBytes s.mem buf len }
          { s with mem := m, flash := s.m0Flash buf chg, dev := ((d.set SPI_M0CTL_RESULT 1).count SPI_M0CNT_OPS).raise 634 }

/-- The flash is busy: an operation of SPIM0, of firmware or of the host, is running. -/
def Dev.flashBusy (d : Dev) : Bool := d.bit SPI_M0CTL_BUSY || d.spih.flash

/-- FLASH_WINDOW_READ (R406): a read that finds the flash busy and not free within 10 µs ends with a bus error, counted in
WIN_BUSY; the data of one that completes changes nothing here. -/
def execFlashWindowRead (free : Bool) (s : State) : Out :=
  s.onClk 0 fun d => d.when (d.flashBusy && !free) (·.count SPI_M0CNT_WIN_BUSY)

/-! ## SPIM1 -/

/-- The fields of a queued entry: CONT, LONG, the select, the word length. -/
def m1Cont (v : BitVec 64) : Bool := v.toNat.testBit 63

/-- LONG of a queued entry. -/
def m1Long (v : BitVec 64) : Bool := v.toNat.testBit 62

/-- The select of a queued entry. -/
def m1Cs (v : BitVec 64) : Nat := v.toNat / 2 ^ 60 % 4

/-- The word length of a queued entry: BITS + 1, 4 to 32. -/
def m1Bits (v : BitVec 64) : Nat := max 3 (v.toNat / 2 ^ 48 % 32) + 1

/-- The status registers show the queue, the held select and the receive FIFO. -/
def Dev.m1Show (d : Dev) : Dev :=
  let d := (d.set SPI_M1STAT_QLEVEL d.m1.queue.length).setB SPI_M1STAT_BUSY (!d.m1.queue.isEmpty)
  let d := (d.setB SPI_M1STAT_HELD d.m1.held.isSome).set SPI_M1RX_LEVEL d.m1.rx.length
  d.set SPI_M1RX_DATA (d.m1.rx.headD 0).toNat

/-- The entry at the head starts: a select held for another one is released first, which is counted (R408). -/
def Dev.m1Start (d : Dev) : Dev :=
  match d.m1.queue with
  | [] => d
  | v :: _ =>
    let other : Bool := match d.m1.held with | some c => c ≠ m1Cs v | none => false
    if other then Dev.count { d with m1 := { d.m1 with held := none } } SPI_M1STAT_CONT_BREAK else d

/-- A write of SPI_M1TX (R408). -/
def Dev.m1Tx (d : Dev) (v : BitVec 64) : Dev :=
  if 16 ≤ d.m1.queue.length then d.count SPI_M1STAT_Q_FULL
  else
    let idle := d.m1.queue.isEmpty
    let d := { d with m1 := { d.m1 with queue := d.m1.queue ++ [v] } }
    (if idle then d.m1Start else d).m1Show.clkEval

/-- M1_TX_QUEUE (R408). -/
def execM1TxQueue (v : BitVec 64) (s : State) : Out := s.byReg fun d => d.m1Tx v

/-- A received word enters the FIFO of 16, or is dropped and counted (R408). -/
def Dev.m1Received (d : Dev) (w : BitVec 32) : Dev :=
  if 16 ≤ d.m1.rx.length then d.count SPI_M1STAT_RX_OVF
  else Dev.raise { d with m1 := { d.m1 with rx := d.m1.rx ++ [w] } } 637

/-- The received byte `b` replaces the `n` bits of the sent byte that the order puts first (R409). -/
def mixByte (lsb : Bool) (n : Nat) (old b : BitVec 8) : BitVec 8 :=
  if 8 ≤ n then b
  else
    let keep := 2 ^ (8 - n)
    if lsb then BitVec.ofNat 8 (old.toNat / 2 ^ n * 2 ^ n + b.toNat % 2 ^ n)
    else BitVec.ofNat 8 (b.toNat / keep * keep + old.toNat % keep)

/-- The bytes of a LONG buffer after the transfer of `bits` bits that received `l`. -/
def mixBytes (m : List Host.Cell) (lsb : Bool) : Nat → Nat → List (BitVec 8) → List Host.Cell
  | _, _, [] => m
  | a, bits, b :: t =>
    if bits = 0 then m
    else mixBytes (wr8 m a (mixByte lsb bits (rd8 m a) b)) lsb (a + 1) (bits - 8) t

/-- M1_ENTRY_DONE (R408, R409): the running entry ends with the received word `w`, or for a LONG entry the received bytes `l`. -/
def execM1EntryDone (w : BitVec 32) (l : List (BitVec 8)) (s : State) : Out :=
  s.onClkMem 2 fun s =>
    match s.dev.m1.queue with
    | [] => s
    | v :: rest =>
      let d := s.dev
      let bits := max 1 (d.get SPI_M1LONG_BITS)
      let a := d.get SPI_M1LONG_ADDR
      let m := if m1Long v && inSram a ((bits + 7) / 8) then mixBytes s.mem (d.bit (SPI_M1CFG_LSB (m1Cs v))) a bits l else s.mem
      let d := { d with m1 := { d.m1 with queue := rest, held := if m1Cont v then some (m1Cs v) else none } }
      let d := if m1Long v then d else d.m1Received (BitVec.ofNat 32 (w.toNat % 2 ^ m1Bits v))
      let d := if rest.isEmpty then d.raise 636 else d.m1Start
      { s with mem := m, dev := d.m1Show.clkEval }

/-- The head word leaves the receive FIFO. -/
def Dev.m1Pop (d : Dev) : Dev := Dev.m1Show { d with m1 := { d.m1 with rx := d.m1.rx.tail } }

/-- M1_RX_POP (R408). -/
def execM1RxPop (s : State) : Out := s.byReg Dev.m1Pop

end Sys2Proof.Machine
end

