-- ==== Sys2Proof/Machine/Boot.lean ====
section
/-!
DEFINITION. Machine/Boot.lean: the local start: Thimble's boot, the choice of a slot, the checks of an image, activation, READY,
recovery mode and VERIFY (chapter 03; R60 to R77).
-/
namespace Sys2Proof.Machine

/-! ## The image in flash (R60 to R65) -/

/-- The flash offset of slot `n`. -/
def slotBase (n : Nat) : Nat := n * 0x2000000

/-- The header and directory of a slot as R61 and R62 lay them out. -/
structure Header where
  magic : Nat
  fmt : Nat
  flags : Nat
  ordnum : Nat
  rev : Nat
  grade : Nat
  version : Nat
  seq : Nat
  imgLen : Nat
  count : Nat
  keySlot : Nat
  rest : Bool
deriving DecidableEq, Repr

/-- The header at flash offset `a`; `rest` where every byte not listed is 0. -/
def readHeader (m : List Host.Cell) (a : Nat) : Header :=
  let f (o n : Nat) : Nat := flashLE m (a + o) n
  { magic := f 0 4, fmt := f 4 2, flags := f 6 2, ordnum := f 8 4, rev := f 0xC 1, grade := f 0xD 1, version := f 0x10 8,
    seq := f 0x20 4, imgLen := f 0x24 4, count := f 0x28 1, keySlot := f 0x29 1,
    rest := f 0xE 2 = 0 && f 0x2A (0x100 - 0x2A) = 0 }

/-- The header checks (R60, R61, R77): 0 where they pass, else the CAUSE; an IMG_LEN that is no multiple of 4,096 is a bad header,
and one below the header and directory is out of bounds (log entry 78). -/
def Header.cause (h : Header) : Nat :=
  if h.magic ≠ 0x54534142 ∨ h.fmt ≠ 1 ∨ 2 ≤ h.flags ∨ !h.rest ∨ h.count = 0 ∨ 16 < h.count ∨ 3 < h.keySlot
      ∨ h.imgLen % 4096 ≠ 0 then 2
  else if h.ordnum ≠ 0x6612 ∨ h.rev ≠ 0x41 ∨ h.grade ≠ 0x54 then 3
  else if h.imgLen < 0x1000 ∨ 0x2000000 < h.imgLen + 128 then 4
  else 0

/-- The directory entries in use. -/
def readSects (m : List Host.Cell) (a n : Nat) : List Sect :=
  (List.range n).map fun i =>
    let e := a + 0x100 + 32 * i
    { typ := flashLE m e 2, flags := flashLE m (e + 2) 2 + flashLE m (e + 16) 16, off := flashLE m (e + 4) 4,
      len := flashLE m (e + 8) 4, crc := flashLE m (e + 12) 4 }

/-- Two sections overlap. -/
def sectsOverlap (a b : Sect) : Bool := a.off < b.off + b.len && b.off < a.off + a.len

/-- Some two sections of a directory overlap. -/
def anyOverlap : List Sect → Bool
  | [] => false
  | e :: t => t.any (sectsOverlap e) || anyOverlap t

/-- The directory checks (R62, R63, R77): 0 where they pass, else the CAUSE; a section beyond IMG_LEN is out of bounds. -/
def dirCause (imgLen : Nat) (l : List Sect) : Nat :=
  let n (t : Nat) : Nat := (l.filter fun e => e.typ = t).length
  if l.any fun e => e.typ = 0 || 9 < e.typ || e.flags ≠ 0 then 7
  else if [1, 2, 4, 8].any fun t => n t ≠ 1 then 7
  else if [3, 5, 6, 7, 9].any fun t => 1 < n t then 7
  else if l.any fun e => e.off % 4096 ≠ 0 || e.off < 0x1000 then 7
  else if l.any fun e => imgLen < e.off + e.len then 4
  else if anyOverlap l then 7
  else 0

/-- The checks of a slot's header and directory: 0 where they pass. -/
def frontCause (m : List Host.Cell) (slot : Nat) : Nat :=
  let h := readHeader m (slotBase slot)
  if h.cause ≠ 0 then h.cause else dirCause h.imgLen (readSects m (slotBase slot) h.count)

/-- The key and signature checks of an image with digest `dig`, and its content (R63 to R65, R77): 1 where it is accepted. A core
firmware section above 12 MiB is invalid content (R62, log entry 78). -/
def Dev.tailCause (d : Dev) (m : List Host.Cell) (slot dig : Nat) (c : ImgContent) : Nat :=
  let h := readHeader m (slotBase slot)
  let blk := flashBytes m (slotBase slot + h.imgLen) 128
  let key := d.per.keys.find? fun e => e.1 = h.keySlot
  let known := match key with
    | some e => e.2.programmed && !e.2.revoked && !e.2.safety && e.2.digest = sha256 (blk.take 64)
    | none => false
  let sects := readSects m (slotBase slot) h.count
  let fw := sects.all fun e => e.typ ≠ 1 || e.len ≤ 12 * 2 ^ 20
  if !known then 5 else if !sigBlockOk blk dig then 6 else if !(contentFits sects c && fw) then 8 else 1

/-- The SHA-256 digest of the bytes of a slot that the image signature covers (R64). -/
def slotDigest (m : List Host.Cell) (slot : Nat) : Nat :=
  sha256 (flashBytes m (slotBase slot) (readHeader m (slotBase slot)).imgLen)

/-- Record the result of a slot in its CAUSE field (R77). -/
def Dev.setCause (d : Dev) (slot c : Nat) : Dev :=
  d.set (if slot = 0 then SYS_IMGSTAT_A_CAUSE else SYS_IMGSTAT_B_CAUSE) c

/-! ## Thimble's boot (R69, R74) -/

/-- The engine clock runs again: the loop-assist instructions that wait for it go on. -/
def Dev.laResume (d : Dev) : Dev := d.each 4 fun c d => d.when (!(d.portAt c).issue.isEmpty || !(d.portAt c).out.isEmpty) (·.laPump c)

/-- PLL_LOCK (R28); the last of the three begins the start-up calibration (R92). A request that went while the PLL was STARTING
is released now (R27). -/
def execPllLock (p : Fin 3) (s : State) : Out :=
  s.main fun d => if d.get (pllFld p) = 1 then ((d.set (pllFld p) 2).showFrozen.refAtStart.laResume).pllRelease p else d

/-- The journal hardware's search (R442): a torn slot after the newest entry is counted and written again; then the entry of
the local start is queued. -/
def Dev.jnlBoot (d : Dev) (torn : Bool) : Dev :=
  let d := d.set JNL_STAT_NEWEST (d.per.jnlNum + (2 ^ 32 - 1))
  let d := d.when torn fun d => (d.count JNL_CNT_TORN).raise 755
  d.journal 0x42 0xFFFF 0 [d.reg A_SYS_RSTCAUSE, d.reg A_SYS_IMGSTAT]

/-- The application side is released: every PLL is requested (R27, R69). -/
def Dev.bootRelease (d : Dev) : Dev :=
  Dev.each { d with boot := { d.boot with stage := 2 } } 3 fun p d => d.pllReq p

/-- THIMBLE_BOOT_DONE (R69, R74): `ok` the self-test, then the validity of the two copies of the safety set and of the
calibration, and whether a torn journal slot was found. A failed self-test keeps the application side in reset. A supply
loss ends the local start, which goes on nowhere (R33, R444). -/
def execThimbleBootDone (ok safe1 safe2 cal1 cal2 torn : Bool) (s : State) : Out :=
  s.main fun d =>
    if d.boot.stage ≠ 1 ∨ d.boot.heldReset ∨ d.get SYS_PWRSTATE_STATE = 4 then d
    else if !ok then { d with boot := { d.boot with heldReset := true }, thm := { d.thm with fnHold := true } }
    else
      let p := d.per
      let d := { d with per := { p with safe := p.safe.marked (!safe1) (!safe2), cal := p.cal.marked (!cal1) (!cal2) } }
      let d := d.thmChecks
      let d := d.trimLoad.thmShow.thmStart
      ((d.hemHold 4 d.startFault).jnlBoot torn).bootRelease

/-! ## Choosing and checking a slot (R67, R71) -/

/-- Recovery mode: RUN with READY = 0 (R74, R75); a local start that began at a wake raises wake complete (R36). -/
def Dev.recoveryMode (d : Dev) : Dev :=
  let d := { d with boot := { d.boot with stage := 8, recovery := true, staged := {} } }
  let d := d.set SYS_PWRSTATE_STATE 2
  let d := d.when d.pwr.fromWake (·.raise 744)
  Dev.clkEval { d with pwr := { d.pwr with fromWake := false } }

/-- Slot `boot.slot` is refused with `c`: its staged content is cleared and the other slot is tried, once (R67, R71). -/
def Dev.slotRefused (d : Dev) (c : Nat) : Dev :=
  let d := d.setCause d.boot.slot c
  let tried := d.boot.tried ||| 2 ^ d.boot.slot
  let d := { d with boot := { d.boot with tried := tried, staged := {}, slot := 1 - d.boot.slot, stage := 2 } }
  d.when (tried = 3) Dev.recoveryMode

/-- The first slot of this local start: the forced one, else the higher SEQ among those whose header passes (R67). -/
def Dev.firstSlot (d : Dev) (m : List Host.Cell) : Nat :=
  let h (n : Nat) : Header := readHeader m (slotBase n)
  match d.get SYS_IMGCTL_NEXT_SLOT with
  | 1 => 0
  | 2 => 1
  | _ =>
    if (h 1).cause = 0 ∧ ((h 0).cause ≠ 0 ∨ (h 0).seq < (h 1).seq) then 1 else 0

/-- A command of the boot ROM at stage `n` of the local start: it runs on the clocks, once every PLL has locked (R69), and not in a
supply loss, which ends the local start (R33). -/
def State.bootStage (s : State) (n : Nat) (f : State → State) : Out :=
  s.mainMem fun s => if s.dev.boot.stage ≠ n || s.dev.boot.heldReset || s.dev.get SYS_PWRSTATE_STATE = 4 || !s.dev.clks then s else f s

/-- HEADER_CHECK_DONE (R67, R69): `ok` unless the flash is silent; the boot ROM has filled SPI_M0MAP and SPI_M0PROT from the
SFDP tables (R407). -/
def execHeaderCheckDone (ok : Bool) (map prot : BitVec 64) (s : State) : Out :=
  s.bootStage 2 fun s =>
    let d := (s.dev.setReg A_SPI_M0MAP map).setReg A_SPI_M0PROT prot
    let d :=
      if d.boot.tried ≠ 0 then d
      else Dev.set { d with boot := { d.boot with slot := d.firstSlot s.flash } } SYS_IMGCTL_NEXT_SLOT 0
    let n := d.boot.slot
    let c := if ok then frontCause s.flash n else 9
    if c ≠ 0 then { s with dev := d.slotRefused c }
    else
      let h := readHeader s.flash (slotBase n)
      { s with dev := { d with boot := { d.boot with
          stage := 3, imgLen := h.imgLen, version := h.version, seq := h.seq, keySlot := h.keySlot, flags := h.flags,
          sects := readSects s.flash (slotBase n) h.count } } }

/-- IMAGE_STREAM_DONE (R69): the sections are staged and the digest is known; a flash error refuses the slot. -/
def execImageStreamDone (ok : Bool) (c : ImgContent) (s : State) : Out :=
  s.bootStage 3 fun s =>
    if !ok then { s with dev := s.dev.slotRefused 9 }
    else
      { s with dev := { s.dev with boot := { s.dev.boot with
          stage := 4, staged := c, digest := slotDigest s.flash s.dev.boot.slot } } }

/-- SIGNATURE_CHECK_DONE (R63 to R65, R69): the image goes to activation, or the slot is refused. -/
def execSignatureCheckDone (s : State) : Out :=
  s.bootStage 4 fun s =>
    let d := s.dev
    let c := d.tailCause s.flash d.boot.slot d.boot.digest d.boot.staged
    if c ≠ 1 then { s with dev := d.slotRefused c }
    else { s with dev := { d.setCause d.boot.slot 1 with boot := { d.boot with stage := 5 } } }

/-! ## Activation (R66, R71) -/

/-- The bytes of the running image's section of type `t`. -/
def State.sectBytes (s : State) (t : Nat) : List (BitVec 8) :=
  match s.dev.boot.sects.find? fun e => e.typ = t with
  | some e => flashBytes s.flash (slotBase s.dev.boot.slot + e.off) e.len
  | none => []

/-- Thimble compares the digests of sections 2 and 8 with the committed set (R66). -/
def State.setMismatch (s : State) : Bool :=
  match s.dev.safeSet with
  | none => false
  | some c => sha256 (s.sectBytes 2) ≠ c.safeDig || sha256 (s.sectBytes 8) ≠ c.hemDig

/-- Every segment entry holds 12 until the image gives it another value (R174). -/
def Dev.segsDefault (d : Dev) : Dev :=
  { d with regs := Tab.keep (fun a => !((List.range 14).any fun n => a = A_GCH_SEGON n || a = A_GCH_SEGOFF n)) d.regs }

/-- What staged RUN and EN bits begin: carriers, converter sequences, engine slices, CAN controllers and safety connections
(R71); CAR2 runs from activation on (R151). -/
def Dev.stageStart (d : Dev) : Dev :=
  let sel := d.get ADC_REFCFG_SEL
  let d := d.when (sel ≠ 0) fun d => (d.set ADC_REFCFG_SEL 0).refSelect sel
  let d := (d.each 2 fun c d => d.when (d.bit (PWM_CTL_RUN c)) (·.carStart c)).carStart 2
  let d := d.each 8 fun n d => (d.set (ADC_CTL_RUN n) 0).when (d.adcSeqOk n) (·.adcRun n)
  let d := d.each 64 fun n d => d.when (d.bit (CEN_SCFG_RUN n)) fun d => (d.set (CEN_SCFG_RUN n) 0).slRunPut n true
  let d := d.each 4 fun n d => d.when (d.bit (CAN_CTL_RUN n)) fun d => (d.set (CAN_CTL_RUN n) 0).canRunSet n
  d.eachOf d.connList fun k d => d.when (d.bit (SFL_CCFG_EN k)) fun d => d.sflEnable k true

/-- What the image names beside registers. -/
def imgNames (c : ImgContent) : Names :=
  { priv := c.priv.map fun (p, a, n) => (p.val, a.toNat, n.toNat),
    pair := c.pair.map fun (g, w) => (g.val, w.toNat),
    speed := c.speed.map fun (p, w) => (p.val, w.toNat) }

/-- The device's part of activation. -/
def Dev.activate (d : Dev) (mismatch : Bool) : Dev :=
  let c := d.boot.staged
  let d := (d.set SYS_IMGSTAT_IMG_OK 1).set SYS_IMGSTAT_SLOT d.boot.slot
  let d := (d.set SYS_IMGSTAT_DBG_ALLOW d.boot.flags).setReg A_SYS_IMGVER (BitVec.ofNat 64 d.boot.version)
  let d := (d.setB SYS_IMGSTAT_SAFE_MISMATCH mismatch).set SYS_GLINK_UNUSED c.unused.toNat
  let d := { d with
    img := imgNames c,
    boot := { d.boot with stage := 6, runSects := d.boot.sects, staged := {} } }
  let d := (d.segsDefault.eachOf c.regs fun e d => d.stagePut e).tableLoadAll.showUnlock
  (d.stageStart.hemHold 4 d.startFault).foHoldAll.thmEvalAll

/-- ACTIVATION (R69, R71): the firmware goes to SRAM, the configuration takes effect. The start-up calibration, on the internal
reference, has ended before (R69, R72; log entry 113). -/
def execActivation (s : State) : Out :=
  s.bootStage 5 fun s =>
    if s.dev.get ADC_REFSTAT_STATE < 3 then s else
    { s with mem := wrBytes s.mem 0x10000000 (s.sectBytes 1), dev := s.dev.activate s.setMismatch }

/-- READY_SET (R33, R69, R298): READY, RUN, the firmware is entered on both pairs, Hem hold from the start ends, and the domain
protocol may begin. -/
def execReadySet (s : State) : Out :=
  s.bootStage 6 fun s =>
    let d := { s.dev with boot := { s.dev.boot with stage := 7 }, hem := { s.dev.hem with dogAt := s.dev.mono } }
    let d := ((d.set SYS_PWRSTATE_READY 1).set SYS_PWRSTATE_STATE 2).set SYS_BOOTTIME_READY_US (min (d.time / 1000) (2 ^ 32 - 1))
    let d := d.when d.pwr.fromWake (·.raise 744)
    let d := { d with pwr := { d.pwr with fromWake := false } }
    { s with dev := (d.hemHold 2 false).thmEvalAll.domReady.clkEval }

/-! ## VERIFY (R68) -/

/-- VERIFY written 1 (R68): ignored while one runs, in recovery mode, and without a running image. -/
def Dev.verify (d : Dev) : Dev :=
  if d.bit SYS_IMGCTL_VERIFY_BUSY ∨ d.boot.recovery ∨ !d.imageRuns then d else d.set SYS_IMGCTL_VERIFY_BUSY 1

/-- VERIFY (R68). -/
def execVerify (s : State) : Out := s.byReg Dev.verify

/-- VERIFY_DONE (R68): the idle slot is checked as at start, up to but not including activation; `ok` unless the flash failed,
`c` what its sections set. -/
def execVerifyDone (ok : Bool) (c : ImgContent) (s : State) : Out :=
  s.onClk 0 fun d =>
    if !d.bit SYS_IMGCTL_VERIFY_BUSY then d
    else
      let n := 1 - d.get SYS_IMGSTAT_SLOT
      let f := frontCause s.flash n
      let r := if !ok then 9 else if f ≠ 0 then f else d.tailCause s.flash n (slotDigest s.flash n) c
      (d.setCause n r).set SYS_IMGCTL_VERIFY_BUSY 0

end Sys2Proof.Machine
end

