-- ==== Sys2Proof/Machine/Crc.lean ====
section
/-!
DEFINITION. Machine/Crc.lean: the CRC units' algorithms and direct mode (R395, R396). Memory mode, which reads the bus, is in
Machine/CrcMem.lean.
-/
namespace Sys2Proof.Machine

/-- A CRC algorithm of R395; `poly` of a reflected one is written in reflected form. -/
structure CrcAlg where
  width : Nat
  poly : Nat
  init : Nat
  refl : Bool
  xor : Nat
deriving DecidableEq, Repr

/-- The algorithms of R395; 6 and 7 act as 0 (register table of R400). -/
def crcAlg (n : Nat) : CrcAlg :=
  match n with
  | 1 => ⟨16, 0x1021, 0xFFFF, false, 0⟩
  | 2 => ⟨32, 0xEDB88320, 0xFFFFFFFF, true, 0xFFFFFFFF⟩
  | 3 => ⟨32, 0x82F63B78, 0xFFFFFFFF, true, 0xFFFFFFFF⟩
  | 4 => ⟨32, 0xC8DF352F, 0xFFFFFFFF, true, 0xFFFFFFFF⟩
  | 5 => ⟨64, 0x42F0E1EBA9EA3693, 0, false, 0⟩
  | _ => ⟨8, 0x1D, 0xFF, false, 0xFF⟩

/-- `n` steps of a CRC of width `w` that is not reflected. -/
def crcStepsL (w poly : Nat) : Nat → Nat → Nat
  | 0, x => x
  | n + 1, x =>
    crcStepsL w poly n (if x.testBit (w - 1) then ((2 * x) % 2 ^ w) ^^^ poly else 2 * x)

/-- Feed one byte to the raw running register. -/
def CrcAlg.byte (a : CrcAlg) (x : Nat) (b : BitVec 8) : Nat :=
  if a.refl then crcByteR a.poly x b else crcStepsL a.width a.poly 8 (x ^^^ b.toNat * 2 ^ (a.width - 8))

/-- Feed bytes in ascending address order. -/
def CrcAlg.feed (a : CrcAlg) (x : Nat) (l : List (BitVec 8)) : Nat := l.foldl a.byte x

/-- The algorithm of unit `u`. -/
def Dev.crcAlg (d : Dev) (u : Nat) : CrcAlg := Sys2Proof.Machine.crcAlg (d.get (CRC_CFG_ALG u))

/-- The running register of unit `u` becomes `x`; CRC_RES shows it, cut to the algorithm's width, after the final exclusive-or. -/
def Dev.crcPut (d : Dev) (u x : Nat) : Dev :=
  (d.set (CRC_VAL u) x).set (CRC_RES u) ((x % 2 ^ (d.crcAlg u).width) ^^^ (d.crcAlg u).xor)

/-- Feed bytes to unit `u`. -/
def Dev.crcFeed (d : Dev) (u : Nat) (l : List (BitVec 8)) : Dev :=
  d.crcPut u ((d.crcAlg u).feed (d.get (CRC_VAL u) % 2 ^ (d.crcAlg u).width) l)

/-- INIT loads the preset, unless the unit is busy (R395). -/
def Dev.crcInit (d : Dev) (u : Nat) : Dev := if d.bit (CRC_CTL_BUSY u) then d else d.crcPut u (d.crcAlg u).init

/-- GO starts memory mode and clears ERR (R396, R397); with nothing remaining it is done at once. -/
def Dev.crcGo (d : Dev) (u : Nat) : Dev :=
  if d.bit (CRC_CTL_BUSY u) then d
  else
    let d := d.set (CRC_CTL_ERR u) 0
    if d.get (CRC_LEN u) = 0 then d.raise (616 + 2 * u) else d.set (CRC_CTL_BUSY u) 1

/-- A write of CRC_DATA: 8 bytes, or the 4 of a 32-bit half; while busy it is counted in REF (R395, R400). -/
def Dev.crcData (d : Dev) (u : Nat) (half : Bool) (v : Nat) : Dev :=
  if d.bit (CRC_CTL_BUSY u) then d.count (CRC_CTL_REF u) else d.crcFeed u (bytesLE (if half then 4 else 8) v)

/-- CRC_INIT (R395). -/
def execCrcInit (u : Fin 8) (s : State) : Out := s.byReg fun d => d.crcInit u

/-- CRC_GO (R396). -/
def execCrcGo (u : Fin 8) (s : State) : Out := s.byReg fun d => d.crcGo u

/-- CRC_DATA (R395): `half` marks a 32-bit write, whose bytes are the low ones of `v`. -/
def execCrcData (u : Fin 8) (half : Bool) (v : BitVec 64) (s : State) : Out := s.byReg fun d => d.crcData u half v.toNat

end Sys2Proof.Machine
end

