-- ==== Sys2Proof/Machine/Flow.lean ====
section
/-!
DEFINITION. Machine/Flow.lean: the coolant-flow front end (R419 to R422).
-/
namespace Sys2Proof.Machine

/-- FLOW_MEASUREMENT_START (R419). -/
def execFlowMeasurementStart (s : State) : Out := s.onClk 2 fun d => d.when (d.bit FLW_CFG_EN) (·.set FLW_STAT_RUN 1)

/-- Arrival time `t`, in ps after its burst, lies in the window RX_START to RX_END, which ends at most 24 µs after the burst
(R419). -/
def Dev.inWindow (d : Dev) (t : Nat) : Bool :=
  d.get FLW_CFG_RX_START * 100000 ≤ t && t ≤ min 240 (d.get FLW_CFG_RX_END) * 100000

/-- Why a pair is dropped, as LAST_DROP codes it; 0 for a valid pair (R420, R428). -/
def Dev.flowDrop (d : Dev) (peak : Bool) (ad au qd qu : Nat) : Nat :=
  if !peak then 4
  else if min ad au < d.get FLW_LIM_AMP_MIN then 1
  else if d.get FLW_LIM_AMP_MAX < max ad au then 2
  else if min qd qu < d.get FLW_LIM_Q_MIN then 3
  else 0

/-- Q in 0.01 L/min as numerator and denominator (R421): K × A × L × Δt / (2 cos θ × t_down × t_up) with the units of FLW_GEOM and
times in ps. -/
def Dev.flowQ (d : Dev) (td tu dt : Int) : Int × Int :=
  ((d.get FLW_GEOM_K : Int) * d.get FLW_GEOM_AREA * d.get FLW_GEOM_L * dt * 60000, (d.get FLW_GEOM_COS : Int) * td * tu)

/-- The mean of fractions, as a fraction. -/
def fracMean (l : List (Int × Int)) : Int × Int :=
  let s := l.foldl (fun (a : Int × Int) b => (a.1 * b.2 + b.1 * a.2, a.2 * b.2)) (0, 1)
  (s.1, s.2 * l.length)

/-- A valid pair (R421): FLOW, the speed of sound, AGE from 0, and the end of STALE. -/
def Dev.flowValid (d : Dev) (td tu dt : Int) : Dev :=
  let n := 2 ^ min 6 (d.get FLW_CFG_AVG)
  let l := d.flw.q ++ [d.flowQ td tu dt]
  let l := l.drop (l.length - n)
  let d := { d with flw := { validAt := some d.mono, q := l } }
  let m := fracMean l
  let d := (d.setI FLW_RES_FLOW (clampI (-(2 ^ 31)) (2 ^ 31 - 1) (near m.1 m.2))).set FLW_RES_AGE_MS 0
  let c := near ((d.get FLW_GEOM_L : Int) * (td + tu) * 1000000) (2 * td * tu)
  let d := d.set FLW_RES_C (clampI 0 65535 c).toNat
  let d := ((d.setI FLW_DT_DT dt).set FLW_DT_TD td.toNat).count FLW_STAT_PAIRS
  let d := d.raiseIf (d.bit FLW_CFG_EVT) 672
  d.when (d.bit FLW_STAT_STALE) fun d => (d.set FLW_STAT_STALE 0).raise 674

/-- FLOW_PAIR_EVALUATED (R420, R421): amplitudes, qualities (in 1/65,536), arrival times before T_OFF and Δt (in ps) of a burst
pair; `peak` where each window shows a peak, and no peak lies outside its window (R419). -/
def execFlowPairEvaluated (peak : Bool) (ad au qd qu : BitVec 16) (td tu dt : BitVec 32) (s : State) : Out :=
  s.onClk 2 fun d =>
    if !d.bit FLW_STAT_RUN then d
    else
      let d := ((d.set FLW_DIAG_AMP_D ad.toNat).set FLW_DIAG_AMP_U au.toNat).set FLW_DIAG_Q_D qd.toNat
      let d := d.set FLW_DIAG_Q_U qu.toNat
      let why := d.flowDrop (peak && d.inWindow td.toNat && d.inWindow tu.toNat) ad.toNat au.toNat qd.toNat qu.toNat
      if why ≠ 0 then ((d.set FLW_STAT_LAST_DROP why).count FLW_STAT_DROPS).raiseLim 673 0 ms1
      else
        let off : Int := d.get FLW_LIM_T_OFF * 1000
        d.flowValid (td.toNat - off) (tu.toNat - off) dt.toInt

/-- AGE_MS now: the time since the last valid pair, sticking at 65,535 (R422, R428). -/
def Dev.flowAge (d : Dev) : Nat :=
  match d.flw.validAt with
  | none => 65535
  | some t => min 65535 ((d.mono - t) / ms1)

/-- FLOW_STALE (R422): AGE exceeds STALE_MS. -/
def execFlowStale (s : State) : Out :=
  s.main fun d => if d.bit FLW_STAT_STALE then d else (d.set FLW_STAT_STALE 1).raise 674

end Sys2Proof.Machine
end

