-- ==== Sys2Proof/Machine/Lua.lean ====
section
/-!
DEFINITION. Machine/Lua.lean: the UART and LIN ports (R410 to R413).
-/
namespace Sys2Proof.Machine

/-- The mode of port `n`: 0 off, 1 UART, 2 LIN; off while it is not enabled. -/
def Dev.luMode (d : Dev) (n : Nat) : Nat :=
  let m := d.get (LUA_CFG_MODE n)
  if d.bit (LUA_CFG_EN n) ∧ m < 3 then m else 0

/-- Event source `off` of port `n` (R424). -/
def luSrc (n off : Nat) : Nat := 640 + 4 * n + off

/-- LUA_DATA shows the FIFO levels and the head received byte. -/
def Dev.luShow (d : Dev) (n : Nat) : Dev :=
  let r := d.luAt n
  let h := r.rx.headD (0, false, false)
  let d := (d.set (LUA_DATA_TX_LEVEL n) r.tx.length).set (LUA_DATA_RX_LEVEL n) r.rx.length
  ((d.set (LUA_DATA_RX n) h.1.toNat).setB (LUA_DATA_FE n) h.2.1).setB (LUA_DATA_PE n) h.2.2

/-- An ERROR of port `n`, at most once per 1 ms. -/
def Dev.luError (d : Dev) (n : Nat) : Dev := d.raiseLim (luSrc n 2) 0 ms1

/-! ## UART (R410, R411) -/

/-- A byte written to TX: queued, or dropped and counted in OVF. -/
def Dev.luTx (d : Dev) (n : Nat) (b : BitVec 8) : Dev :=
  if 16 ≤ (d.luAt n).tx.length then (d.count (LUA_CNT_OVF n)).luError n
  else (d.luUpd n fun r => { r with tx := r.tx ++ [b] }).luShow n

/-- LU_TX_BYTE (R410). -/
def execLuTxByte (n : Fin 4) (b : BitVec 8) (s : State) : Out := s.byReg fun d => d.luTx n b

/-- LU_BYTE_SENT (R410): the byte on the line is sent; TX_EMPTY as the FIFO runs empty. -/
def execLuByteSent (n : Fin 4) (s : State) : Out :=
  s.onClk 2 fun d =>
    match (d.luAt n).tx with
    | [] => d
    | _ :: t =>
      if d.luMode n ≠ 1 then d
      else
        let d := (d.luUpd n fun r => { r with tx := t }).luShow n
        d.when t.isEmpty (·.raise (luSrc n 1))

/-- The head received byte leaves the FIFO. -/
def Dev.luPop (d : Dev) (n : Nat) : Dev := (d.luUpd n fun r => { r with rx := r.rx.tail }).luShow n

/-- LU_RX_POP (R410). -/
def execLuRxPop (n : Fin 4) (s : State) : Out := s.byReg fun d => d.luPop n

/-- The number of ones of a byte is odd. -/
def oddParity (b : BitVec 8) : Bool := (List.range 8).foldl (fun p k => p != b.toNat.testBit k) false

/-- The stop bit from the majority samples before an accepted start edge: a tie counts as 1, and none is a framing error
(R411). -/
def stopOk (l : List Bool) : Bool :=
  let ones := (l.filter id).length
  !l.isEmpty && l.length ≤ 2 * ones

/-- The majority of the three samples of a bit (R411). -/
def maj3 (x : Bool × Bool × Bool) : Bool := (x.1 && x.2.1) || (x.1 && x.2.2) || (x.2.1 && x.2.2)

/-- The byte of eight data bits, each the majority of its samples (R411). -/
def maj8 (x : BitVec 8 × BitVec 8 × BitVec 8) : BitVec 8 := (x.1 &&& x.2.1) ||| (x.1 &&& x.2.2) ||| (x.2.1 &&& x.2.2)

/-- UART_BYTE_RECEIVED (R411): samples 7, 8 and 9 of the data bits, bit k of each that of data bit k, and of the parity bit; of the
start edge whether the line is still low one clock later, without which no frame begins, and the samples of the stop bit taken
before the next accepted edge. -/
def execUartByteReceived (n : Fin 4) (b : BitVec 8 × BitVec 8 × BitVec 8) (par : Bool × Bool × Bool) (stop : Bool × List Bool)
    (s : State) : Out :=
  s.onClk 2 fun d =>
    if d.luMode n = 0 ∨ !stop.1 then d
    else
      let b := maj8 b
      let par := maj3 par
      let stop := stop.2
      let fe := !stopOk stop
      let p := if d.luMode n = 1 then d.get (LUA_CFG_PAR n) else 0
      let pe := (p = 1 && par != oddParity b) || (p = 2 && par == oddParity b)
      let d := d.when (stop.length < 3) (·.count (LUA_CNT2_EARLY_START n))
      let d := (d.when fe (·.count (LUA_CNT_FRAMING n))).when pe (·.count (LUA_CNT_PARITY n))
      let full : Bool := 16 ≤ (d.luAt n).rx.length
      let d :=
        if full then d.count (LUA_CNT_OVF n)
        else ((d.luUpd n fun r => { r with rx := r.rx ++ [(b, fe, pe)] }).luShow n).raise (luSrc n 0)
      d.when (fe || pe || full) (·.luError n)

/-! ## LIN (R412, R413) -/

/-- The length of a frame: 1 to 8, 0 acts as 1. -/
def linLen (n : Nat) : Nat := clampN 1 8 n

/-- The protected identifier: the identifier with its two parity bits (ISO 17987, log entry 22). -/
def linPid (id : Nat) : Nat :=
  let b (k : Nat) : Bool := id.testBit k
  let p0 := ((b 0 != b 1) != b 2) != b 4
  let p1 := !(((b 1 != b 3) != b 4) != b 5)
  id % 64 + (if p0 then 64 else 0) + (if p1 then 128 else 0)

/-- The checksum: the inverted sum with carry of the data, with the protected identifier if enhanced (ISO 17987, log entry
22). -/
def linSum (enh : Bool) (id : Nat) (data : List (BitVec 8)) : Nat :=
  let s := data.foldl (fun a b => let t := a + b.toNat; if 256 ≤ t then t - 255 else t) (if enh then linPid id else 0)
  255 - s

/-- The bytes of a response (R412, R413): the data, little-endian from byte 0, then the checksum. -/
def linOut (enh : Bool) (id len : Nat) (v : BitVec 64) : List (BitVec 8) :=
  let l := bytesLE len v.toNat
  l ++ [BitVec.ofNat 8 (linSum enh id l)]

/-- The frame of port `n` ends with `r`: an error is counted and raised. -/
def Dev.linEnd (d : Dev) (n r : Nat) : Dev :=
  let d := (d.luUpd n fun x => { x with lin := none, synced := false }).set (LUA_LIN_BUSY n) 0
  let d := d.set (LUA_LIN_RESULT n) r
  d.when (2 ≤ r) fun d => (d.count (LUA_CNT_LIN_ERR n)).luError n

/-- GO of a commander: the frame starts with BRK bits of break, the sync byte and the protected identifier, and with DIR to send
the response follows; while one runs the request is refused with RESULT 6 (R412). -/
def Dev.linGo (d : Dev) (n : Nat) : Dev :=
  if d.luMode n ≠ 2 ∨ !d.bit (LUA_CFG_CMDR n) then d
  else if d.bit (LUA_LIN_BUSY n) then d.set (LUA_LIN_RESULT n) 6
  else
    let dir := d.get (LUA_LIN_DIR n)
    let f : LinFrame :=
      { brk := clampN 13 16 (d.get (LUA_CFG_BRK n))
        out := [0x55, BitVec.ofNat 8 (linPid (d.get (LUA_LIN_ID n)))]
          ++ (if dir = 1 then linOut (d.bit (LUA_LIN_ENH n)) (d.get (LUA_LIN_ID n)) (linLen (d.get (LUA_LIN_LEN n)))
                (d.reg (A_LUA_LDATA n)) else [])
        cmdr := true, send := dir = 1, head := 2 ≤ dir, len := linLen (d.get (LUA_LIN_LEN n)),
        enh := d.bit (LUA_LIN_ENH n), id := d.get (LUA_LIN_ID n) }
    ((d.luUpd n fun r => { r with lin := some f }).set (LUA_LIN_RESULT n) 0).set (LUA_LIN_BUSY n) 1

/-- LIN_GO (R412). -/
def execLinGo (n : Fin 4) (s : State) : Out := s.byReg fun d => d.linGo n

/-- A completed frame `f` of port `n` with the data and checksum of a received response (R412, R413). -/
def Dev.linDone (d : Dev) (n : Nat) (f : LinFrame) (data : List (BitVec 8)) (sum : Nat) : Dev :=
  if f.head ∨ f.send then
    let d := match f.slot with | some k => d.set (LUA_RSP_DONE n k) 1 | none => d
    d.linEnd n 1
  else if data.length ≠ f.len ∨ sum ≠ linSum f.enh f.id data then d.linEnd n 3
  else
    let w := BitVec.ofNat 64 (ofBytesLE data)
    let d := match f.slot with
      | some k => (d.setReg (A_LUA_RSPD n k) w).set (LUA_RSP_DONE n k) 1
      | none => d.setReg (A_LUA_LDATA n) w
    d.linEnd n 1

/-- LIN_FRAME_END (R412). -/
def execLinFrameEnd (n : Fin 4) (e : LinEnd) (s : State) : Out :=
  s.onClk 2 fun d =>
    match (d.luAt n).lin with
    | none => d
    | some f =>
      match e with
      | .done data sum => d.linDone n f data sum.toNat
      | .bitError => d.linEnd n 2

/-- A response is awaited on port `n`: a frame runs that is not header-only (R412). -/
def Dev.linAwaits (d : Dev) (n : Nat) : Bool :=
  match (d.luAt n).lin with
  | some f => !f.head
  | none => false

/-- LIN_RESPONSE_TIMEOUT (R412). -/
def execLinResponseTimeout (n : Fin 4) (s : State) : Out :=
  s.onClk 2 fun d => d.when (d.linAwaits n) (·.linEnd n 4)

/-- The nominal span of the sync field's eight bits, in 80 MHz clocks (R410, R412). -/
def Dev.linNominal (d : Dev) (n : Nat) : Nat := 8 * (16 * max 4 (d.get (LUA_CFG_DIV n)) + d.get (LUA_CFG_FRAC n))

/-- LIN_BREAK (R412): a responder has seen a break, and the sync field spans `span` clocks: outside ±15 % of nominal it is a
sync error; else its eighth is the bit time of the frame. -/
def execLinBreak (n : Fin 4) (span : BitVec 32) (s : State) : Out :=
  s.onClk 2 fun d =>
    if d.luMode n ≠ 2 ∨ d.bit (LUA_CFG_CMDR n) then d
    else
      let d := d.count (LUA_CNT2_BREAK n)
      let nom := d.linNominal n
      if 100 * span.toNat < 85 * nom ∨ 115 * nom < 100 * span.toNat then d.linEnd n 5
      else (d.luUpd n fun r => { r with lin := none, synced := true, span := span.toNat }).set (LUA_LIN_BUSY n) 0

/-- LIN_HEADER (R412, R413): the protected identifier after the sync field. A parity error ends the frame with RESULT 3; an
enabled slot of the identifier serves the header, and without one HEADER is raised and counted. -/
def execLinHeader (n : Fin 4) (pid : BitVec 8) (s : State) : Out :=
  s.onClk 2 fun d =>
    if d.luMode n ≠ 2 ∨ !(d.luAt n).synced then d
    else
      let id := pid.toNat % 64
      let d := d.luUpd n fun r => { r with synced := false }
      if pid.toNat ≠ linPid id then d.linEnd n 3
      else
        match (List.range 4).find? fun k => d.bit (LUA_RSP_EN n k) && d.get (LUA_RSP_ID n k) = id with
        | none => (d.count (LUA_CNT2_HEADERS n)).raise (luSrc n 3)
        | some k =>
          let f : LinFrame :=
            { out := if d.bit (LUA_RSP_SEND n k) then linOut (d.bit (LUA_RSP_ENH n k)) id (linLen (d.get (LUA_RSP_LEN n k)))
                  (d.reg (A_LUA_RSPD n k)) else []
              slot := some k, send := d.bit (LUA_RSP_SEND n k), len := linLen (d.get (LUA_RSP_LEN n k)),
              enh := d.bit (LUA_RSP_ENH n k), id := id }
          ((d.luUpd n fun r => { r with lin := some f }).set (LUA_LIN_RESULT n) 0).set (LUA_LIN_BUSY n) 1

end Sys2Proof.Machine
end

