-- ==== Sys2Proof/Machine/Nfc.lean ====
section
/-!
DEFINITION. Machine/Nfc.lean: the service tag (R414 to R418). The tag is powered by the reader's field, so it answers whether
or not the module has power, and only in that field; its registers count only with the main domain powered.
-/
namespace Sys2Proof.Machine

/-! ## Tag memory -/

/-- The layout header of page 0 as the module is made (R3, R415): layout version 1 alone, ORDNUM, SYS_UID, and IMG_VERSION 0, which
a commit of page 0 changes. -/
def tagHeader : List (BitVec 8) :=
  [1, 1, 1, 0] ++ bytesLE 4 0x6612 ++ bytesLE 8 Config.uid ++ bytesLE 8 0

/-- What a byte of the tag that nothing has written reads as: the capability container, the layout header and its CRC of R415,
else 0 (log entry 4). -/
def tagDefault (a : Nat) : BitVec 8 :=
  if a < 8 then ([0xE2, 0x43, 0, 1, 0, 0, 7, 0xFF] : List (BitVec 8)).getD a 0
  else if a < 32 then tagHeader.getD (a - 8) 0
  else if a < 36 then (bytesLE 4 (crc32c tagHeader)).getD (a - 32) 0
  else 0

/-- The byte of the tag at `a`. -/
def tag8 (m : List Host.Cell) (a : Nat) : BitVec 8 := Tab.find tagDefault m a

/-- `n` bytes of the tag from `a`. -/
def tagBytes (m : List Host.Cell) (a : Nat) : Nat → List (BitVec 8)
  | 0 => []
  | n + 1 => tag8 m a :: tagBytes m (a + 1) n

/-- Write bytes of the tag from `a`. -/
def tagWrite (m : List Host.Cell) (a : Nat) : List (BitVec 8) → List Host.Cell
  | [] => m
  | b :: t => tagWrite (Tab.put tagDefault m a b) (a + 1) t

/-- The tag's UID (R414): 0xE0, the manufacturer code, the low 48 bits of SYS_UID. -/
def tagUid : Nat := 0xE0 * 2 ^ 56 + Config.tagMaker.toNat * 2 ^ 48 + Config.uid % 2 ^ 48

/-- A proposal page (R415). -/
def isProposal (p : Nat) : Bool := 48 ≤ p && p < 56

/-! ## Commands of a reader -/

/-- The tag answers a command so addressed: a quiet tag only by its UID, a selected one also as selected. -/
def Dev.tagHears (d : Dev) (adr : TagTo) : Bool :=
  match adr with
  | .all => d.nfc.proto ≠ 1
  | .uid u => u.toNat = tagUid
  | .selected => d.nfc.proto = 2

/-- The tag answers `l`, its flags byte first; FIELD_CMDS counts answers (R427). -/
def Dev.tagAnswer (d : Dev) (l : List (BitVec 8)) : Dev :=
  let d := { d with nfc := { d.nfc with answer := l } }
  d.when (!d.unpowered) (·.count NFC_CNT_FIELD_CMDS)

/-- The tag answers with error `code`; every 0x10 is counted and raised (R424, R427). -/
def Dev.tagError (d : Dev) (code : BitVec 8) : Dev :=
  let d := d.tagAnswer [1, code]
  d.when (code = 0x10 && !d.unpowered) fun d => (d.count NFC_CNT_BUSY_RESP).raiseLim 668 0 ms1

/-- A command of a reader, which only a field carries to the tag (R414). -/
def State.inField (s : State) (f : State → State) : Out := .next (if s.dev.nfc.field then f s else s)

/-- A command that the tag hears. -/
def State.tagCmd (s : State) (adr : TagTo) (f : State → State) : Out := s.inField fun s => if s.dev.tagHears adr then f s else s

/-- The proposal page `p` is written by a field, or read or committed by the host (R417). -/
def Dev.tagDirty (d : Dev) (p : Nat) (on : Bool) : Dev :=
  let m := if d.nfc.dirty.testBit (p - 48) then d.nfc.dirty - 2 ^ (p - 48) else d.nfc.dirty
  Dev.tagShow { d with nfc := { d.nfc with dirty := if on then m + 2 ^ (p - 48) else m } }

/-- The pointer of a page with a block from `b` to `b + n − 1` is being swapped (R416). -/
def Nfc.swaps (t : Nfc) (b n : Nat) : Bool :=
  t.swap && (match t.commit with | some (p, _) => b / 64 ≤ p && p ≤ (b + n - 1) / 64 | none => false)

/-- The tag reads `n` blocks from block `b`; a block above `last` is not available (ISO/IEC 15693, log entry 23), and one of a page
that is being swapped is busy (R416). -/
def State.tagRead (s : State) (b n last : Nat) : State :=
  if last < b + n - 1 ∨ s.dev.nfc.swaps b n then { s with dev := s.dev.tagError 0x10 }
  else { s with dev := s.dev.tagAnswer (0 :: tagBytes s.tag (4 * b) (4 * n)) }

/-- The tag writes block `b` (R415 to R417): only a proposal page, and not while a commit holds the engine. The write holds the
engine for a free time of at most 5 ms. -/
def State.tagWriteBlock (s : State) (b : Nat) (v : BitVec 32) : State :=
  let p := b / 64
  if !isProposal p then { s with dev := s.dev.tagError 0x12 }
  else if s.dev.nfc.commit.isSome then { s with dev := s.dev.tagError 0x10 }
  else
    let d := s.dev.tagAnswer [0]
    let d := (d.tagDirty p true).when (!d.unpowered) (·.raise 667)
    let d := Dev.drawn { d with nfc := { d.nfc with writeEnd := d.mono + d.freeVal.toNat % 5000001 } }
    { s with tag := tagWrite s.tag (4 * b) (bytesLE 4 v.toNat), dev := d }

/-- INVENTORY (R414): a tag whose UID ends in the mask answers, unless it is quiet. -/
def execTagInventory (len : BitVec 7) (mask : BitVec 64) (s : State) : Out :=
  s.inField fun s =>
    (if s.dev.nfc.proto ≠ 1 ∧ tagUid % 2 ^ len.toNat = mask.toNat % 2 ^ len.toNat then
       { s with dev := s.dev.tagAnswer ([0, 0] ++ bytesLE 8 tagUid) }
     else s)

/-- The protocol state becomes `p`. -/
def Dev.tagProto (d : Dev) (p : Nat) : Dev := { d with nfc := { d.nfc with proto := p } }

/-- STAY_QUIET (R414): the addressed tag falls silent. -/
def execTagStayQuiet (uid : BitVec 64) (s : State) : Out :=
  s.inField fun s => if uid.toNat = tagUid then { s with dev := s.dev.tagProto 1 } else s

/-- SELECT (R414): the addressed tag is selected, and a tag selected before is ready. -/
def execTagSelect (uid : BitVec 64) (s : State) : Out :=
  s.inField fun s =>
    (if uid.toNat = tagUid then { s with dev := (s.dev.tagProto 2).tagAnswer [0] }
     else if s.dev.nfc.proto = 2 then { s with dev := s.dev.tagProto 0 }
     else s)

/-- RESET_TO_READY (R414). -/
def execTagResetToReady (adr : TagTo) (s : State) : Out :=
  s.tagCmd adr fun s => { s with dev := (s.dev.tagProto 0).tagAnswer [0] }

/-- READ_SINGLE_BLOCK (R414). -/
def execTagReadSingleBlock (adr : TagTo) (b : BitVec 8) (s : State) : Out := s.tagCmd adr fun s => s.tagRead b.toNat 1 255

/-- WRITE_SINGLE_BLOCK (R416): blocks 0 to 255 lie outside the proposal pages. -/
def execTagWriteSingleBlock (adr : TagTo) (b : BitVec 8) (v : BitVec 32) (s : State) : Out :=
  s.tagCmd adr fun s => s.tagWriteBlock b.toNat v

/-- READ_MULTIPLE_BLOCKS (R414): block `b` and the `n` after it. -/
def execTagReadMultipleBlocks (adr : TagTo) (b n : BitVec 8) (s : State) : Out :=
  s.tagCmd adr fun s => s.tagRead b.toNat (n.toNat + 1) 255

/-- EXTENDED_READ_SINGLE_BLOCK (R414). -/
def execTagExtendedReadSingleBlock (adr : TagTo) (b : BitVec 16) (s : State) : Out :=
  s.tagCmd adr fun s => s.tagRead b.toNat 1 4095

/-- EXTENDED_WRITE_SINGLE_BLOCK (R416). -/
def execTagExtendedWriteSingleBlock (adr : TagTo) (b : BitVec 16) (v : BitVec 32) (s : State) : Out :=
  s.tagCmd adr fun s =>
    if 4095 < b.toNat then { s with dev := s.dev.tagError 0x10 } else s.tagWriteBlock b.toNat v

/-- EXTENDED_READ_MULTIPLE_BLOCKS (R414). -/
def execTagExtendedReadMultipleBlocks (adr : TagTo) (b n : BitVec 16) (s : State) : Out :=
  s.tagCmd adr fun s => s.tagRead b.toNat (n.toNat + 1) 4095

/-- GET_SYSTEM_INFORMATION (R414): the UID; the rules name no other parameter of it (log entry 23). -/
def execTagGetSystemInformation (adr : TagTo) (s : State) : Out :=
  s.tagCmd adr fun s => { s with dev := s.dev.tagAnswer ([0, 0] ++ bytesLE 8 tagUid) }

/-- EXTENDED_GET_SYSTEM_INFORMATION (R414): the UID and the memory size, 4,096 blocks of 4 bytes (log entry 23). -/
def execTagExtendedGetSystemInformation (adr : TagTo) (s : State) : Out :=
  s.tagCmd adr fun s => { s with dev := s.dev.tagAnswer ([0, 4] ++ bytesLE 8 tagUid ++ [0xFF, 0x0F, 3]) }

/-- UNSUPPORTED_TAG_COMMAND (R414). -/
def execUnsupportedTagCommand (adr : TagTo) (s : State) : Out :=
  s.tagCmd adr fun s => { s with dev := s.dev.tagError 0x01 }

/-! ## The reader's field (R417) -/

/-- NFC_FIELD_DETECTED (R32, R417): the field is present; an enabled wake source acts. -/
def execNfcFieldDetected (s : State) : Out :=
  s.always fun d =>
    if d.nfc.field then d
    else
      let d := Dev.tagShow { d with nfc := { d.nfc with field := true } }
      if d.pwr.off then d
      else
        let d := d.when (!d.unpowered) (·.raise 664)
        if d.bit SYS_WAKECFG_NFC_EN then d.wake SYS_WAKECAUSE_NFC 1 else d

/-- NFC_FIELD_GONE (R417): the field has been absent for GONE_MS; the tag without power is ready again. -/
def execNfcFieldGone (s : State) : Out :=
  s.always fun d =>
    if d.nfc.field then
      (Dev.tagShow { d with nfc := { d.nfc with field := false, proto := 0 } }).when (!d.unpowered) (·.raise 665)
    else d

/-! ## The host's side (R416, R417) -/

/-- The RESULT that refuses the host's operation on page `p`, 0 where none does: busy, a commit to the fault pages, a proposal
page while a field is present. -/
def Dev.nfcRefusal (d : Dev) (p : Nat) (commit : Bool) : Nat :=
  if d.bit NFC_STAT_BUSY then 5
  else if commit ∧ 56 ≤ p then 3
  else if isProposal p && d.nfc.field then 2
  else 0

/-- The page buffer (R427). -/
def nfcBuf : Nat := 0x40E00100

/-- A block write of the field holds the engine (R416). -/
def Dev.nfcWaits (d : Dev) : Bool := d.mono < d.nfc.writeEnd

/-- COMMIT of page `p` (R416): the buffer goes to a spare page; the engine is held until the swap. -/
def State.nfcCommit (s : State) (p : Nat) : State :=
  let r := s.dev.nfcRefusal p true
  if r ≠ 0 then { s with dev := s.dev.set NFC_STAT_RESULT r }
  else
    let d := { s.dev with nfc := { s.dev.nfc with commit := some (p, rdBytes s.mem nfcBuf 256) } }
    { s with dev := ((d.set NFC_STAT_RESULT 0).set NFC_STAT_BUSY 1).clkEval }

/-- The page is read into the buffer. -/
def State.nfcTake (s : State) (p : Nat) : State :=
  let d := (s.dev.set NFC_STAT_RESULT 1).raise 666
  { s with mem := wrBytes s.mem nfcBuf (tagBytes s.tag (256 * p) 256), dev := d.when (isProposal p) (·.tagDirty p false) }

/-- A read of page `p` into the buffer, which waits for a block write of the field (R416, R417). -/
def State.nfcRead (s : State) (p : Nat) : State :=
  let r := s.dev.nfcRefusal p false
  if r ≠ 0 then { s with dev := s.dev.set NFC_STAT_RESULT r }
  else if s.dev.nfcWaits then
    let d := { s.dev with nfc := { s.dev.nfc with readPage := some p } }
    { s with dev := ((d.set NFC_STAT_RESULT 0).set NFC_STAT_BUSY 1).clkEval }
  else s.nfcTake p

/-- NFC_COMMIT (R416). -/
def execNfcCommit (page : BitVec 6) (s : State) : Out :=
  s.byRegMem fun s => ({ s with dev := s.dev.set NFC_CTL_PAGE page.toNat } : State).nfcCommit page.toNat

/-- NFC_READ (R417). -/
def execNfcRead (page : BitVec 6) (s : State) : Out :=
  s.byRegMem fun s => ({ s with dev := s.dev.set NFC_CTL_PAGE page.toNat } : State).nfcRead page.toNat

/-- The host's operation is over: the engine is free. -/
def Dev.nfcFree (d : Dev) : Dev :=
  (Dev.set { d with nfc := { d.nfc with commit := none, swap := false, readPage := none } } NFC_STAT_BUSY 0).clkEval

/-- NFC_COMMIT_DONE (R416): the swap of the page's pointer begins, or the operation is done, the pointer swapped; while a block
write of the field holds the engine neither takes place, and a wait of 6 ms ends the operation with RESULT 4. -/
def execNfcCommitDone (e : TagEnd) (s : State) : Out :=
  s.onClkMem 2 fun s =>
    match e with
    | .timeout =>
      if s.dev.bit NFC_STAT_BUSY && !s.dev.nfc.swap then
        { s with dev := ((s.dev.nfcFree.set NFC_STAT_RESULT 4).count NFC_CNT_WAIT_OVR).raise 666 }
      else s
    | .swap => if s.dev.nfcWaits then s else { s with dev := { s.dev with nfc := { s.dev.nfc with swap := s.dev.nfc.commit.isSome } } }
    | .done =>
      if s.dev.nfcWaits then s
      else
        match s.dev.nfc.commit, s.dev.nfc.readPage with
        | some (p, l), _ =>
          let d := ((s.dev.nfcFree.set NFC_STAT_RESULT 1).count NFC_CNT_COMMITS).raise 666
          { s with tag := tagWrite s.tag (256 * p) l, dev := d.when (isProposal p) (·.tagDirty p false) }
        | none, some p => ({ s with dev := s.dev.nfcFree } : State).nfcTake p
        | none, none => s

/-- FAULT_PAGE_MIRROR (R418): the fault entries not yet mirrored go from the journal into slots NUM mod 32 of the fault pages,
one commit a page, once the tag's engine is free and PLL C clocks it (R26, R416). -/
def execFaultPageMirror (s : State) : Out :=
  s.onClkMem 2 fun s =>
    if s.dev.bit NFC_STAT_BUSY || s.dev.nfcWaits then s
    else
      let l := s.dev.jnl.mirror
      let pages := (List.range 8).filter fun p => l.any fun n => n % 32 / 4 = p
      let t := l.foldl (fun t n =>
        tagWrite t (256 * 56 + 64 * (n % 32)) (rdBytes s.mem (0x20000000 + 64 * (n % 32768)) 64)) s.tag
      let d := { s.dev with jnl := { s.dev.jnl with mirror := [] } }
      { s with tag := t, dev := (d.add NFC_CNT_COMMITS pages.length).clkEval }

end Sys2Proof.Machine
end

