-- ==== Sys2Proof/Machine/Bus.lean ====
section
/-!
DEFINITION. Machine/Bus.lean: accesses to the address map by a core, the host or the debug module (R9 to R12, R23 to R25):
what a read shows, what a write stores, refuses and triggers, field by field; the debug commands (R300, R301).
-/
namespace Sys2Proof.Machine

/-! ## Reading a register -/

/-- The register at `a` as a read shows it: the fields that follow the state beside the registers are formed on the read
(R10: a WO field reads 0, and none is ever stored). -/
def Dev.view (d : Dev) (a : Nat) : BitVec 64 :=
  let v := d.reg a
  let at_ (f : Fld) (n : Nat) : BitVec 64 := fieldSet v f.lo f.w n
  let bit (f : Fld) (b : Bool) (v : BitVec 64) : BitVec 64 := fieldSet v f.lo f.w (if b then 1 else 0)
  if a = A_THM_STAT then
    bit THM_STAT_FAULT_N d.faultN (bit THM_STAT_HOLD_REQ d.holdReq (bit THM_STAT_SLEEP_OK d.sleepOk v))
  else if a = A_THM_GRP 0 then bit (THM_GRP_REL_OK 0) (d.relOk 0) v
  else if a = A_THM_GRP 1 then bit (THM_GRP_REL_OK 1) (d.relOk 1) v
  else if a = A_DTM_TIME then BitVec.ofNat 64 d.time
  else if a = A_CLU_CTL 1 then
    if d.six then bit (CLU_CTL_SIX 1) true (bit (CLU_CTL_EN 1) (d.bit (CLU_CTL_EN 0)) v) else bit (CLU_CTL_SIX 1) false v
  else if a = A_CLU_STAT 1 ∧ d.six then at_ (CLU_STAT_STATE 1) (d.get (CLU_STAT_STATE 0))
  else if a = A_FLW_RES then at_ FLW_RES_AGE_MS d.flowAge
  else if 0x40400000 ≤ a ∧ a < 0x40403000 ∧ a % 0x1000 = 8 then
    at_ (PWM_STAT_COUNT (a / 0x1000 % 0x10)) (d.carCount (a / 0x1000 % 0x10))
  else if 0x40200000 ≤ a ∧ a < 0x40204000 ∧ 0x28 ≤ a % 0x1000 ∧ a % 0x1000 < 0x40 then
    qBits (d.posNow (a / 0x1000 % 4) ((a % 0x1000 - 0x28) / 8))
  else if 0x40014400 ≤ a ∧ a < 0x400144C0 ∧ a % 0x20 = 0 then BitVec.ofNat 64 (d.evrClaim ((a - 0x40014400) / 0x20))
  else if 0x414001A0 ≤ a ∧ a < 0x414001C0 then d.lastat ((a - 0x414001A0) / 8)
  else if 0x40B01000 ≤ a ∧ a < 0x40B03000 ∧ a % 0x20 = 0x10 then
    at_ (SFL_CSTAT_CRC_1S ((a - 0x40B01000) / 0x20)) (min 255 (d.crcRecent ((a - 0x40B01000) / 0x20)).length)
  else v

/-- The bytes of an access of `n` bytes at `a` to a register: a whole register, or a half (R8, R9); reserved space reads 0
(R11). -/
def Dev.regRead (d : Dev) (a n : Nat) : Nat :=
  match regDefAt (a / 8 * 8) with
  | none => 0
  | some _ => (d.view (a / 8 * 8)).toNat / 2 ^ (8 * (a % 8)) % 2 ^ (8 * n)

/-! ## The access itself -/

/-- The contents of the boot ROM, of the calibration area and of the safety-parameter copies have no stated layout, so a read
shows free values (log entry 4). -/
def unstated (a : Nat) : Bool := a < 0x40000 || (0x20240000 ≤ a && a < 0x20290000)

/-- A read of `n` bytes at `a`: the value, or none for a bus error. SFL_TXBUF shows the frame at the head of the transmit queue
(R382). A read of the flash window that finds the flash busy waits up to 10 µs: whether the flash becomes free in that time, and
what it then holds, is free; if not, the read ends with a bus error counted in WIN_BUSY (R406; log entry 21). -/
def State.busRead (s : State) (a n : Nat) : State × Option Nat :=
  match accessErr a n false with
  | some e => ({ s with dev := s.dev.busErr e }, none)
  | none =>
    match regionOf a with
    | .reg | .thm => (s, some (s.dev.regRead a n))
    | .flash =>
      if s.dev.flashBusy then
        if s.dev.freeVal.toNat.testBit 0 then ({ s with dev := s.dev.drawn.drawn }, some (s.dev.drawn.freeVal.toNat % 2 ^ (8 * n)))
        else ({ s with dev := s.dev.drawn.count SPI_M0CNT_WIN_BUSY }, none)
      else (s, some (flashLE s.flash (a - 0x100000000) n))
    | _ =>
      if 0x40B00100 ≤ a ∧ a < 0x40B00200 then
        let f := ((s.dev.sfl.txq.head?).map (·.2)).getD []
        (s, some (ofBytesLE ((List.range n).map fun i => f.getD (a - 0x40B00100 + i) 0)))
      else if unstated a then ({ s with dev := s.dev.drawn }, some (s.dev.freeVal.toNat % 2 ^ (8 * n)))
      else (s, some (rdLE s.mem a n))

/-- A write to a register as the access decodes: who writes, the register, its family and indices, the bits the access covers
and the written value in place. -/
structure RegW where
  o : Origin
  addr : Nat
  base : Nat
  i : Nat
  j : Nat
  cov : BitVec 64
  val : BitVec 64
deriving DecidableEq, Repr

/-- The access covers bit `lo`. -/
def RegW.covers (w : RegW) (lo : Nat) : Bool := w.cov.toNat.testBit lo

/-- 1 is written to bit `lo`. -/
def RegW.one (w : RegW) (lo : Nat) : Bool := w.val.toNat.testBit lo

/-- The field of the written value. -/
def RegW.f (w : RegW) (lo n : Nat) : Nat := fieldGet w.val lo n

/-! ## When a block is idle, and who counts (R12) -/

/-- The idle condition of the register written and the counter of its refused RWI writes. -/
def Dev.rwiRule (d : Dev) (w : RegW) : Bool × Option Fld :=
  let a := w.addr
  let k := a / 0x1000 % 0x10
  if 0x40F00000 ≤ a ∧ a < 0x40F10000 then
    ((List.range 4).all fun x => d.get (FIO_OUTCFG_MODE (4 * w.i + x)) ≠ 3 && d.get (FIO_OUTCFG_MODE (4 * w.i + x)) ≠ 4,
      some FIO_CNT_RWI_REF)
  else if 0x40100000 ≤ a ∧ a < 0x40108000 then (d.adcState k = 0, some (ADC_CNT2_RWI_REF k))
  else if 0x40108000 ≤ a ∧ a < 0x40110000 then (d.adcAllStopped, some ADC_CCNT_RWI_REF)
  else if 0x40110000 ≤ a ∧ a < 0x40120000 then
    let m := if a < 0x40118000 then k else 0
    (!d.bit (AUX_CTL_RUN m) && (d.auxAt m).entry.isNone, some AUX_CNT_RWI_REF)
  else if 0x40200000 ≤ a ∧ a < 0x40208000 then (!d.posOn k, some (POS_CNT_RWI_REF k))
  else if 0x40208000 ≤ a ∧ a < 0x40210000 then (!d.posOn 0 && !d.posOn 1, some (POS_CNT_RWI_REF 0))
  else if 0x40300000 ≤ a ∧ a < 0x40310000 then (d.get (CLU_STAT_STATE w.i) = 0, some (CLU_CNT_RWI_REF w.i))
  else if 0x40400000 ≤ a ∧ a < 0x40408000 then
    (d.get (CLU_STAT_STATE k) = 0 && !d.windOf k, some (PWM_CNT2_RWI_REF k))
  else if 0x40500000 ≤ a ∧ a < 0x4050E000 then
    (!(([2, 3, 5, 7] : List Nat).contains (d.get (GCH_STAT_STATE k))), some (GCH_CNT_RWI_REF k))
  else if 0x4050E000 ≤ a ∧ a < 0x40510000 then
    (d.get (CLU_STAT_STATE 0) = 0 && d.get (CLU_STAT_STATE 1) = 0, some (GCH_CNT_RWI_REF 0))
  else if 0x40700000 ≤ a ∧ a < 0x4070C000 then
    let st := d.get (STP_STAT_STATE k)
    (st = 0 || (st = 1 && (w.base = A_STP_CTL 0 || w.base = A_STP_POS 0)), some (STP_CNT_RWI_REF k))
  else if 0x4070C000 ≤ a ∧ a < 0x40710000 then
    ((List.range 12).all fun n => d.get (STP_STAT_STATE n) = 0, some STP_CCNT_RWI_REF)
  else if 0x40900000 ≤ a ∧ a < 0x40940000 then (d.get (CAN_STAT_STATE w.i) = 0, some (CAN_CNT2_RWI_REF w.i))
  else if 0x40A00000 ≤ a ∧ a < 0x40A10000 then
    (!d.bit ETH_CTL_P0_EN && !d.bit ETH_CTL_P1_EN && !d.bit ETH_CTL_HOST_EN, some ETH_CCNT_RWI_REF)
  else if 0x40B00000 ≤ a ∧ a < 0x40B10000 then (d.domState = 0 || d.domState = 7, some SFL_DOMCNT_RWI_REF)
  else if 0x40C00000 ≤ a ∧ a < 0x40C10000 then (!d.bit (CRC_CTL_BUSY k), some (CRC_CTL_REF k))
  else if 0x40D00000 ≤ a ∧ a < 0x40D10000 then
    (if a < 0x40D00200 then !d.flashBusy else d.m1.queue.isEmpty, some SPI_M0CNT_RWI_REF)
  else if 0x40D10000 ≤ a ∧ a < 0x40D20000 then (!d.bit (LUA_CFG_EN w.i), some (LUA_CNT2_RWI_REF w.i))
  else if 0x40E10000 ≤ a ∧ a < 0x40E20000 then (!d.bit FLW_CFG_EN, some FLW_STAT_RWI_REF)
  else if 0x41000000 ≤ a ∧ a < 0x41400000 then (d.slState w.i = 0, some (CEN_SCNT3_RWI_REF w.i))
  else if 0x41400000 ≤ a ∧ a < 0x41408000 then ((d.members w.i).all fun n => d.slState n = 0, some CEN_CCNT_RWI_REF)
  else if 0x41408000 ≤ a ∧ a < 0x41410000 then
    (d.get SPL_STAT_STATE = 0 || d.get SPL_STAT_STATE = 4, some SPL_CNT_RWI_REF)
  else (true, none)

/-! ## Storing fields (R10 to R12) -/

/-- The fields that `Dev.regAct` writes itself, by register family and lowest bit: a write of them acts in other ways than
storing. -/
def actFields : List (Nat × Nat) :=
  [(A_FIO_OUTCFG 0, 0), (A_FIO_FLT, 0), (A_ADC_CTL 0, 0), (A_ADC_REFCFG, 0), (A_ADC_CALCTL, 8), (A_POS_FLT 0, 12),
   (A_POS_FLT 0, 0), (A_EVR_PEND 0 0, 0), (A_CLU_CTL 0, 0), (A_PWM_FLT 0, 0), (A_STP_CTL 0, 0), (A_STP_POS 0, 0),
   (A_STP_TGT 0, 0), (A_STP_VTGT 0, 0), (A_CEN_SCFG 0, 0), (A_CAN_CTL 0, 0), (A_CAN_TXCTL 0, 4), (A_CAN_TXCTL 0, 0),
   (A_SFL_DOMCFG, 16)] ++ (List.range 9).map fun k => (A_STP_FLT 0, k)

/-- A field that the access code marks writable but that no write reaches: the brake carrier's fields, Thimble's outputs, and
those the instance does not have (R59, R146, R167). -/
def lacks (w : RegW) (lo : Nat) : Bool :=
  (0x40402000 ≤ w.addr && w.addr < 0x40403000) || (w.base = A_FIO_OUTCFG 0 && 14 ≤ w.i) || absent w.base w.i lo

/-- A written value held at the nearer end of its range in the register itself (R59, R146). -/
def heldValue (base n : Nat) : Nat :=
  if base = A_FIO_BANKCFG 0 then clampN 40 10000 n
  else if base = A_CLU_KFW 0 then (if 2 ^ 63 ≤ n then 0 else n)
  else if base = A_CLU_IDFWMIN 0 then (if 2 ^ 63 ≤ n then n else 0)
  else n

/-- The boundaries B1 to B7 do not decrease (R172). -/
def binsOk (n : Nat) : Bool := (List.range 6).all fun k => n / 2 ^ (8 * k) % 256 ≤ n / 2 ^ (8 * k + 8) % 256

/-- The field value `n`, in the register value `v` the write would leave, is refused whatever the block's state: a MODE that
does not exist or has no resolver, an overcurrent threshold not below the short-circuit threshold, decreasing bins, PAIR beside SIX,
thresholds that do not rise (R106, R123, R172, R175, R176, R259, R272). -/
def Dev.valueRefused (d : Dev) (w : RegW) (lo n : Nat) (v : BitVec 64) : Bool :=
  if w.base = A_POS_CFG 0 ∧ lo = 0 then 4 < n || (n = 1 && 2 ≤ w.i)
  else if w.base = A_GCH_SNS 0 ∧ (lo = 16 ∨ lo = 32) then fieldGet v 32 10 ≤ fieldGet v 16 10
  else if w.base = A_GCH_BIN 0 then !binsOk n
  else if w.base = A_GCH_COM then n = 1 && d.six
  else if w.base = A_STP_CTL 0 ∧ lo = 8 then 4 ≤ n
  else if w.base = A_STP_BAND then
    !((List.range 3).all fun k => fieldGet v (16 * k) 16 < fieldGet v (16 * k + 16) 16)
  else false

/-- A write in progress: the device, whether an RWS field was stored, and whether RWS and RWI fields were refused. -/
structure Store where
  d : Dev
  stored : Bool := false
  rws : Bool := false
  rwi : Bool := false
deriving DecidableEq, Repr

/-- The bits of a W1C field whose cause stands, which a 1 does not clear: UV_SEEN and OV_SEEN while VSTP is out of its window
(R269). -/
def Dev.stands (d : Dev) (w : RegW) (lo : Nat) : Nat :=
  if w.base ≠ A_STP_VSTP then 0
  else if lo = 2 then d.get STP_VSTP_UV_NOW
  else d.get STP_VSTP_OV_NOW

/-- One field of the write (R10, R12). -/
def Store.field (w : RegW) (idle : Bool) (x : Store) (f : FDef) : Store :=
  let d := x.d
  let fld : Fld := ⟨w.addr, f.lo, f.w⟩
  let v := (d.reg w.addr &&& ~~~w.cov) ||| w.val
  let n := heldValue w.base (fieldGet v f.lo f.w)
  if actFields.contains (w.base, f.lo) || lacks w f.lo then x
  else
    match f.acc with
    | .ro | .wo => x
    | .rw => { x with d := d.set fld n }
    | .w1c => { x with d := d.clrBits fld (w.f f.lo f.w - (w.f f.lo f.w &&& d.stands w f.lo)) }
    | .w1s => { x with d := d.setBits fld (w.f f.lo f.w) }
    | .rws =>
      if n = d.get fld then x
      else if d.rwsOk w.o && !d.valueRefused w f.lo n v then { x with d := d.set fld n, stored := true }
      else { x with rws := true }
    | .rwi =>
      if n = d.get fld then x
      else if w.base = A_CLU_CTL 0 ∧ f.lo = 6 ∧ d.paired ∧ idle then { x with d := d.count (GCH_CNT_RWI_REF 0) }
      else if idle && !d.valueRefused w f.lo n v then { x with d := d.set fld n }
      else { x with rwi := true }

/-- Store the fields of a write, and count a refusal once in each counter concerned (R12). -/
def Dev.regStore (d : Dev) (w : RegW) (fs : List FDef) : Dev :=
  let rule := d.rwiRule w
  let x := fs.foldl (Store.field w rule.1) { d := d }
  let d := (x.d.when x.stored Dev.rwsStored).when x.rws (·.rwsRefuse w.o)
  match rule.2 with
  | some c => d.when x.rwi (·.count c)
  | none => d

/-! ## What a write triggers -/

/-- Writes to SYS (R27, R28, R33, R72). -/
def Dev.actSys (d : Dev) (w : RegW) (old : BitVec 64) : Dev :=
  if w.addr = A_SYS_PWRCTL then d.when (w.one 0) Dev.sleepReq
  else if w.addr = A_SYS_CLKREQ then
    d.each 3 fun p d =>
      let was := old.toNat.testBit p
      let on := d.bit (pllReqFld p)
      if on != was then d.pllEval p else d
  else if w.addr = A_SYS_IMGCTL then d.when (w.one 4) Dev.verify
  else d

/-- Writes to the converters, the position ports and the field outputs. -/
def Dev.actIo (d : Dev) (w : RegW) : Dev :=
  if w.base = A_FIO_OUTCFG 0 then d.when (w.covers 0) (·.foWrite w.i (w.f 0 3))
  else if w.base = A_FIO_FLT then d.foClearMask (w.f 0 14)
  else if w.base = A_ADC_CTL 0 then
    d.when (w.covers 0) fun d => if w.one 0 then d.adcRun w.i else d.adcStop w.i
  else if w.base = A_ADC_URG 0 then d.when (w.covers 0) (·.urgWrite w.i (w.f 0 4) (w.f 8 8))
  else if w.base = A_ADC_REFCFG then d.when (w.covers 0) (·.refSelect (w.f 0 2))
  else if w.base = A_ADC_CALCTL then
    let d := d.calStart (w.f 0 8)
    d.when (w.one 8) (·.trimWrite w.o)
  else if w.base = A_POS_CFG 0 ∨ w.base = A_POS_ENC 0 then d.posRewrite w.i
  else if w.base = A_POS_FLT 0 then d.posClear w.i (w.f 0 13)
  else if w.base = A_POS_RENT then d.excDrop
  else d

/-- Writes to the event router, domain time and the journal: RATE follows TRIM and MAX_PPM (R436). -/
def Dev.actEvent (d : Dev) (w : RegW) : Dev :=
  if w.base = A_EVR_PEND 0 0 then d.evrClearMask w.i w.j w.val.toNat
  else if w.base = A_EVR_ACK 0 then
    d.when (w.covers 0 && decide (w.f 0 10 < 768)) (·.evrClear w.i (w.f 0 10))
  else if w.base = A_DTM_CFG ∨ w.base = A_DTM_TRIM then d.dtmRate
  else if w.base = A_JNL_FWCMD then d.when (w.covers 0) (·.fwEntry w.o (w.f 0 8))
  else d

/-- Writes to the current-loop units, the carriers and the gate channels. -/
def Dev.actDrive (d : Dev) (w : RegW) (old : BitVec 64) : Dev :=
  if w.base = A_CLU_CTL 0 then
    let d := (d.when (w.i = 0 && d.six && !old.toNat.testBit 6) fun d => d.sixSet.carFollow).showAsc
    d.when (w.covers 0) fun d => if w.one 0 then d.cluEnable w.i else d.cluDisable w.i
  else if w.base = A_PWM_CTL 0 then
    let d := d.carFollow
    let was := old.toNat.testBit 4
    let on := d.bit (PWM_CTL_RUN w.i)
    if on && !was then d.carStart w.i else if was && !on then d.carStop w.i else d
  else if w.base = A_PWM_DT 0 then d.when (d.get (PWM_STAT_MODE w.i) ≠ 0 && decide (w.i < 2)) (·.carDead w.i)
  else if w.base = A_PWM_FLT 0 then d.when (decide (w.i < 2)) (·.fltClear w.i (w.f 0 6))
  else if w.base = A_GCH_COM then d.showAsc
  else if w.base = A_GCH_SEGON 0 ∨ w.base = A_GCH_SEGOFF 0 then d.when (d.gchAt w.i).link (·.tableLoad w.i)
  else d

/-- Writes to the stepper axes (R252 to R256, R265, R266). -/
def Dev.actAxis (d : Dev) (w : RegW) : Dev :=
  let n := w.i
  if w.base = A_STP_CTL 0 then
    let d := d.when (w.covers 0) fun d => if w.one 0 then d.axEnable n else d.axDisable n
    (d.when (w.one 2) (·.axStopWrite n)).when (w.one 3) (·.homeStart n)
  else if w.base = A_STP_POS 0 then d.axPosWrite n w.val
  else if w.base = A_STP_TGT 0 then d.axTgtWrite n w.val
  else if w.base = A_STP_VTGT 0 then d.axVtgtWrite n w.val
  else if w.base = A_STP_CUR 0 then d.when (axLive (d.get (STP_STAT_STATE n))) (·.coilClamp n)
  else if w.base = A_STP_FLT 0 then d.axFltClear n (w.f 0 9)
  else d

/-- Writes to Hem and to the engine. -/
def Dev.actCore (d : Dev) (w : RegW) : Dev :=
  if w.base = A_HEM_PAIRCTL then
    let d := d.when (w.one 1) (·.splitWrite w.o)
    let d := d.when (w.one 2) fun d => match w.o with | .core c => d.rejoin c | _ => d
    (d.when (w.one 3) (·.ownerReq w.o)).when (w.one 4) (·.safeAck w.o)
  else if w.base = A_HEM_WDOG then d.when (w.covers 48) (·.dogWrite w.o (w.f 48 16))
  else if w.base = A_CEN_SCFG 0 then d.when (w.covers 0) (·.slRun w.o w.i (w.one 0))
  else if w.base = A_CEN_TCTL then
    d.when (w.one 5) (·.tune 4 (d.get CEN_TCTL_COUNT) (d.bit CEN_TCTL_RESTART))
  else if w.base = A_SPL_CTL then
    ((d.when (w.one 1) Dev.splStop).when (w.one 0) Dev.splArm).when (w.one 2) Dev.splForce
  else d

/-- Writes to the networks and the CRC units. -/
def Dev.actNet (d : Dev) (w : RegW) (old : BitVec 64) : Dev :=
  if w.base = A_CAN_CTL 0 then
    let d := d.when (w.one 11 || d.bit (CAN_CTL_AUTO_REC w.i)) (·.canRecover w.i)
    d.when (w.covers 0) fun d => if w.one 0 then d.canRunSet w.i else d.canRunClear w.i
  else if w.base = A_CAN_RXF 0 then d.when (w.one 0) (·.canPop w.i)
  else if w.base = A_ETH_CTL then
    let d := d.each 2 fun p d => d.when (old.toNat.testBit p && !d.ethEn p) (·.ethLink p false 0)
    let d := if d.bit ETH_CTL_HOST_EN then d else { d with eth := { d.eth with txRun := false, hostHigh := [], hostLow := [] } }
    d.asSelect
  else if w.base = A_ETH_ASCFG then d.asSelect
  else if w.base = A_SFL_TXCTL then d.when (w.one 0) Dev.sflPop
  else if w.base = A_SFL_CCFG 0 then
    d.when (d.reg w.addr ≠ old) fun d =>
      (d.sflEnable w.i (d.bit (SFL_CCFG_EN w.i))).when (old.getLsbD (SFL_CCFG_CLASS w.i).lo) Dev.thmEvalAll
  else if w.base = A_CRC_CFG 0 ∨ w.base = A_CRC_VAL 0 then
    d.when (d.reg w.addr ≠ old) fun d => d.crcPut w.i (d.get (CRC_VAL w.i))
  else if w.base = A_CRC_CTL 0 then
    let d := (d.when (w.one 0) (·.crcInit w.i)).when (w.one 1) (·.crcGo w.i)
    d.when (w.one 2) (·.set (CRC_CTL_BUSY w.i) 0)
  else if w.base = A_CRC_DATA 0 then
    if w.covers 0 && w.covers 63 then d.crcData w.i false w.val.toNat
    else d.crcData w.i true (w.f (if w.covers 0 then 0 else 32) 32)
  else d

/-- Writes to the local links. A 32-bit write of one half of SPI_M1TX queues an entry whose other half is 0 (DESIGN CHOICE, log
entry 99). -/
def Dev.actLink (d : Dev) (w : RegW) : Dev :=
  if w.base = A_SPI_M0CTL then d.when (w.one 0) Dev.m0Go
  else if w.base = A_SPI_M1TX then d.m1Tx w.val
  else if w.base = A_SPI_M1RX then d.when (w.one 32) Dev.m1Pop
  else if w.base = A_LUA_DATA 0 then
    -- a write with POP removes the head byte and queues none (log entry 26)
    if w.one 16 then d.luPop w.i else d.when (w.covers 0) (·.luTx w.i (BitVec.ofNat 8 (w.f 0 8)))
  else if w.base = A_LUA_LIN 0 then d.when (w.one 56) (·.linGo w.i)
  else if w.base = A_LUA_CFG 0 then d.clkEval
  else if w.base = A_FLW_CFG then Dev.clkEval (if d.bit FLW_CFG_EN then d else d.set FLW_STAT_RUN 0)
  else d

/-- What the write of a register does beside storing its plain fields; `old` is the register before the write. -/
def Dev.regAct (d : Dev) (w : RegW) (old : BitVec 64) : Dev :=
  let a := w.addr
  if a < 0x40010000 then d.actSys w old
  else if a < 0x40100000 then d.actEvent w
  else if a < 0x40300000 ∨ (0x40F00000 ≤ a ∧ a < 0x41000000) then d.actIo w
  else if a < 0x40700000 then d.actDrive w old
  else if a < 0x40800000 then d.actAxis w
  else if a < 0x40900000 ∨ 0x41000000 ≤ a then d.actCore w
  else if a < 0x40D00000 then d.actNet w old
  else d.actLink w

/-- The writes that reach the memories, the application-side reset or Thimble. -/
def State.regActMem (s : State) (w : RegW) : State :=
  if w.addr = A_SYS_RSTCTL then s.rstctl w.o (w.f 48 16) (w.one 0)
  else if w.addr = A_HEM_THMREQ then s.thmreqWrite w.o (w.f 0 8) (w.f 48 16) (w.f 32 8) (w.f 40 8)
  else if w.base = A_CAN_TXCTL 0 then
    let s := if w.f 0 3 = 0 then s else s.canTxreq w.i (w.f 0 3)
    if w.f 4 3 = 0 then s else s.canTxabort w.i (w.f 4 3)
  else if w.base = A_SFL_DOMCFG then
    if w.covers 16 && w.one 16 != s.dev.bit SFL_DOMCFG_EN then
      let s := { s with dev := s.dev.domEnable (w.one 16) }
      s.canWant s.dev.segCan
    else s
  else if w.base = A_ETH_CTL then s.canWant s.dev.segCan
  else if w.base = A_ETH_DMA then if w.one 0 then s.txKick else s
  else if w.base = A_SFL_RXCTL then if w.covers 0 then s.sflSubmit (w.f 0 16) else s
  else if w.base = A_SFL_APPSEND then if w.covers 0 then s.appSend (w.f 0 8) (w.f 8 8) else s
  else if w.base = A_NFC_CTL then
    let p := s.dev.get NFC_CTL_PAGE
    if w.f 0 2 = 1 then s.nfcCommit p else if w.f 0 2 = 2 then s.nfcRead p else s
  else s

/-- A write of `n` bytes, 4 or 8, at `a` inside a register range (R9, R11). -/
def State.regWrite (s : State) (o : Origin) (a n v : Nat) : State :=
  match regDefAt (a / 8 * 8) with
  | none => s
  | some (r, i, j) =>
    let sh := 8 * (a % 8)
    let cov := BitVec.ofNat 64 ((2 ^ (8 * n) - 1) * 2 ^ sh)
    let w : RegW := ⟨o, a / 8 * 8, r.base, i, j, cov, BitVec.ofNat 64 (v * 2 ^ sh) &&& cov⟩
    let d := (s.dev.regStore w r.fields).regAct w (s.dev.reg w.addr)
    ({ s with dev := d } : State).regActMem w

/-- A write of `n` bytes at `a` inside a byte window: the memory of a transmit buffer whose request is pending is not written
(R358); SFL_TXBUF is read only. -/
def State.winWrite (s : State) (a n v : Nat) : State :=
  let c := a / 0x10000 % 4
  let o := a % 0x10000
  let b := (o - 0x1000) / 0x900
  if a < 0x40940000 then
    if 0x1000 ≤ o ∧ o < 0x4000 ∧ s.dev.tb (CAN_TXCTL_TXREQ c) b then { s with dev := s.dev.count (CAN_CNT2_TXWR_REF c) }
    else { s with mem := wrLE s.mem a n v }
  else if 0x40B00100 ≤ a ∧ a < 0x40B00200 then s
  else { s with mem := wrLE s.mem a n v }

/-- A write of `n` bytes at `a` by origin `o` (R23 to R25): whether it ended in a bus error. After the supply-loss event none
begins in persistent memory (R446). -/
def State.busWrite (s : State) (o : Origin) (a n v : Nat) : State × Bool :=
  match accessErr a n true with
  | some e => ({ s with dev := s.dev.busErr e }, true)
  | none =>
    (match regionOf a with
      | .sram => match o with | .pair p => s.pairStore p a n v | _ => { s with mem := wrLE s.mem a n v }
      | .fwArea => if s.dev.persistShut then s else { s with mem := wrLE s.mem a n v }
      | .spool => s.splStore a n v
      | .win => s.winWrite a n v
      | .reg => s.regWrite o a n v
      | _ => s, false)

/-- REGISTER_WRITE (R10, R12): a write access to any address by an origin that runs; a field with a row of its own acts as that
row says. Nothing leaves a pair in RESTART or in RETIRED (R275, R282). -/
def execRegisterWrite (o : Origin) (a : BitVec 40) (w : Width) (v : BitVec 64) (s : State) : Out :=
  s.byOriginMem o fun s => (s.busWrite o a.toNat w.bytes (v.toNat % 2 ^ (8 * w.bytes))).1

/-! ## Debug commands (R300, R301) -/

/-- The command acts without an unlock. -/
def dbgOpen : DbgCmd → Bool
  | .idcode | .bypass | .readStat => true
  | _ => false

/-- A value goes to the debug port's record. -/
def Dev.dbgUpd (d : Dev) (f : Dbg → Dbg) : Dev := { d with dbg := f d.dbg }

/-- The system bus access of the debug module has ended: with a bus error, or with its data in sbdata0 (R300). -/
def State.dbgBus (s : State) (err : Bool) (v : Nat) : State :=
  { s with dev := s.dev.dbgUpd fun g => { g with sberr := err, sbdata0 := if err then g.sbdata0 else BitVec.ofNat 64 v } }

/-- What a debug command does: what it reads goes to the debug port; system-bus accesses have the rights of a split core; a register
is accessed in a halted core only, through data0; a single step leaves the core halted. -/
def State.debugCmd (s : State) : DbgCmd → State
  | .idcode => { s with dev := s.dev.dbgUpd fun g => { g with tap := Config.idcode.setWidth 64 } }
  | .bypass => { s with dev := s.dev.dbgUpd fun g => { g with tap := 0 } }
  | .readStat => { s with dev := s.dev.dbgUpd fun g => { g with tap := s.dev.reg A_DBG_STAT } }
  | .step _ => s
  | .readReg c r =>
    { s with dev := s.dev.when (s.dev.tb DBG_STAT_HALTED c) (·.dbgUpd fun g => { g with data0 := s.dev.coreReg c r.toNat }) }
  | .halt c => { s with dev := s.dev.debugHalt c }
  | .resume c => { s with dev := s.dev.debugResume c }
  | .writeReg c r v => { s with dev := s.dev.when (s.dev.tb DBG_STAT_HALTED c) fun d => (d.coreRegPut c r.toNat v).dbgUpd fun g => { g with data0 := v } }
  | .busRead a w =>
    let x := s.busRead a.toNat w.bytes
    x.1.dbgBus x.2.isNone (x.2.getD 0)
  | .busWrite a w v =>
    let x := s.busWrite .debug a.toNat w.bytes (v.toNat % 2 ^ (8 * w.bytes))
    x.1.dbgBus x.2 v.toNat
  | .trigger c k v => { s with dev := { s.dev with dbgTrig := Tab.put (fun _ => 0) s.dev.dbgTrig (4 * c.val + k.val) v } }

/-- DEBUG_COMMAND (R300): without ACCESS every command but three is refused and counted. -/
def execDebugCommand (cmd : DbgCmd) (s : State) : Out :=
  s.mainMem fun s =>
    if !dbgOpen cmd && !s.dev.bit DBG_STAT_ACCESS then { s with dev := s.dev.count DBG_CNT_REFUSED }
    else s.debugCmd cmd

end Sys2Proof.Machine
end

