-- ==== Sys2Proof/Machine/CrcMem.lean ====
section
/-!
DEFINITION. Machine/CrcMem.lean: the memory mode of the CRC units (R395 to R398).
-/
namespace Sys2Proof.Machine

/-- A read of a CRC unit: a bus error counts in ERRS, not in SYS_BUSERR, which counts cores, host and debugger (R25, R396). -/
def State.crcRead (s : State) (a n : Nat) : State × Option Nat :=
  match accessErr a n false with
  | some _ => (s, none)
  | none => s.busRead a n

/-- Up to `n` cycles of memory mode: 8 bytes each, fewer in the last (R395, R396). A bus error stops the unit. -/
def State.crcCycles (u : Nat) : Nat → State → State
  | 0, s => s
  | n + 1, s =>
    let len := s.dev.get (CRC_LEN u)
    let a := s.dev.get (CRC_ADDR u)
    let k := min 8 len
    if len = 0 ∨ !s.dev.bit (CRC_CTL_BUSY u) then s
    else
      match s.crcRead a k with
      | (s, none) =>
        let d := ((s.dev.set (CRC_CTL_BUSY u) 0).set (CRC_CTL_ERR u) 1).count (CRC_CTL_ERRS u)
        { s with dev := d.raise (617 + 2 * u) }
      | (s, some v) =>
        let d := s.dev.crcFeed u (bytesLE k v)
        crcCycles u n { s with dev := (d.set (CRC_ADDR u) (a + k)).set (CRC_LEN u) (len - k) }

/-- Memory mode is over: BUSY clears, and DONE is raised once LEN is 0 (R396, R398). -/
def Dev.crcEnd (d : Dev) (u : Nat) : Dev :=
  if d.bit (CRC_CTL_BUSY u) then
    let d := d.set (CRC_CTL_BUSY u) 0
    if d.get (CRC_LEN u) = 0 then d.raise (616 + 2 * u) else d
  else d

/-- CRC_STOP (R396): memory mode halts at a cycle boundary, `cyc` cycles after GO. -/
def execCrcStop (u : Fin 8) (cyc : BitVec 40) (s : State) : Out :=
  s.byRegMem fun s =>
    let s := State.crcCycles u (min cyc.toNat ((s.dev.get (CRC_LEN u) + 7) / 8)) s
    { s with dev := s.dev.crcEnd u }

/-- CRC_MEMORY_DONE (R396): memory mode runs to its end, or to a bus error. -/
def execCrcMemoryDone (u : Fin 8) (s : State) : Out :=
  s.onClkMem 0 fun s =>
    let s := State.crcCycles u ((s.dev.get (CRC_LEN u) + 7) / 8) s
    { s with dev := s.dev.crcEnd u }

end Sys2Proof.Machine
end

