-- ==== Sys2Proof/Machine/SpiHost.lean ====
section
/-!
DEFINITION. Machine/SpiHost.lean: the host SPI port and its commands (R401 to R404), with the key store (R65) and the recovery
service (R75).
-/
namespace Sys2Proof.Machine

/-- CRC-16/CCITT of a list of bytes (R395, R402). -/
def crc16 (l : List (BitVec 8)) : Nat := (crcAlg 1).feed 0xFFFF l

/-- HIRQ is asserted: a source pending at target 5 reaches the threshold, or recovery mode asserts it (R74, R431). -/
def Dev.hirq (d : Dev) : Bool := d.evrClaim 5 ≠ 0 || d.boot.recovery

/-- The status byte (R403). -/
def Dev.spiStatus (d : Dev) (valid : Bool) : BitVec 8 :=
  let b (k : Nat) (x : Bool) : Nat := if x then 2 ^ k else 0
  BitVec.ofNat 8 (b 7 (d.bit SYS_PWRSTATE_READY) + b 6 d.boot.recovery + b 5 valid + b 4 d.faultN + b 3 d.hirq)

/-- Change the SPIH record. -/
def Dev.spihUpd (d : Dev) (f : Spih → Spih) : Dev := { d with spih := f d.spih }

/-- SPIH_FRAME_START (R403): the status byte and the waiting reply are latched; a frame that begins while the previous one is
still executing gets VALID = 0 and is discarded. The port requests PLL C, which clocks it (R26, R27). -/
def execSpihFrameStart (s : State) : Out :=
  s.main fun d =>
    if d.spih.low then d
    else if d.spih.req.isSome then Dev.clkEval <|
      (d.spihUpd fun r => { r with low := true, status := d.spiStatus false, given := none, discard := true }).count
        SPI_HCNT_BUSY_DISC
    else
      Dev.clkEval <| d.spihUpd fun r =>
        { r with low := true, status := d.spiStatus r.reply.isSome, given := r.reply, discard := false }

/-- A reply from its byte 1 on: the header, the data and the CRC (R403). -/
def spiReply (cmd tag result : Nat) (data : List (BitVec 8)) : List (BitVec 8) :=
  let l := ([cmd, tag, result, data.length / 8, 0, 0, 0, 0] : List Nat).map (BitVec.ofNat 8) ++ data
  l ++ bytesBE 2 (crc16 l)

/-- The request of a frame, if its CRC holds (R402): RD and FL_RD carry no data; bytes after the CRC are ignored. -/
def spiRequest (l : List (BitVec 8)) : Option SpiReq :=
  let b (i : Nat) : Nat := (l.getD i 0).toNat
  let n := if b 0 = 1 ∨ b 0 = 0x10 then 8 else 8 + 8 * b 2
  if l.length < n + 2 ∨ l.length < 10 then none
  else if ofBytesBE ((l.drop n).take 2) ≠ crc16 (l.take n) then none
  else some { cmd := b 0, tag := b 1, len8 := b 2, addr := ofBytesLE ((l.drop 3).take 5), data := (l.take n).drop 8 }

/-- SPIH_FRAME_END (R402 to R404): a reply not clocked out in full is lost; the reset of APP_RESET follows the collection of its
reply; a request with a good CRC goes to execution, and one without is answered with RESULT 1. The frame is taken once PLL C runs
(R26; log entry 40). -/
def execSpihFrameEnd (l : List (BitVec 8)) (s : State) : Out :=
  s.onClkMem 2 fun s =>
    let r := s.dev.spih
    if !r.low then s
    else if r.discard then { s with dev := (s.dev.spihUpd fun r => { r with low := false, discard := false }).clkEval }
    else
      let full : Bool := match r.given with | some g => g.length < l.length | none => true
      let d := s.dev.when (!full) (·.count SPI_HCNT_TRUNC)
      let d := d.spihUpd fun r => { r with low := false, reply := none, given := none, resetDue := false }
      if r.resetDue && full then ({ s with dev := d } : State).appReset SYS_RSTCAUSE_SOFTWARE
      else
        match spiRequest l with
        | some q => { s with dev := (d.spihUpd fun r => { r with req := some q }).clkEval }
        | none =>
          let d := d.spihUpd fun r =>
            { r with reply := some (spiReply (l.getD 0 0).toNat (l.getD 1 0).toNat 1 []) }
          { s with dev := ((d.count SPI_HCNT_CRC_ERR).raise 633).clkEval }

/-- The request in execution ends with `result` and reply data (R403, R424); a firmware operation that waited behind it begins. -/
def Dev.spiDone (d : Dev) (q : SpiReq) (result : Nat) (data : List (BitVec 8)) : Dev :=
  let d := (d.spihUpd fun r => { r with req := none, reply := some (spiReply q.cmd q.tag result data) }).m0Upd
    fun r => { r with behind := false }
  (d.clkEval.count SPI_HCNT_FRAMES).raise 632

/-- The port executes requests: an image is active, or recovery mode offers its service (R75, R404); before either the request
waits (log entry 40). -/
def Dev.spiServes (d : Dev) : Bool := d.active || d.boot.recovery

/-- The execution of the waiting request when its CMD is `cmd`: refused with RESULT 3 in the mode that does not offer it and
with RESULT 7 for a wrong LEN8, else `f` (R404). -/
def State.spiExec (s : State) (cmd : Nat) (run rec : Bool) (len : Option Nat) (f : State → SpiReq → State) : Out :=
  s.onClkMem 0 fun s =>
    match s.dev.spih.req with
    | none => s
    | some q =>
      if q.cmd ≠ cmd ∨ !s.dev.spiServes then s
      else if !(if s.dev.boot.recovery then rec else run) then { s with dev := s.dev.spiDone q 3 [] }
      else if len.isSome && len ≠ some q.len8 then { s with dev := s.dev.spiDone q 7 [] }
      else f s q

/-- NOP_CMD (R404). -/
def execNopCmd (s : State) : Out :=
  s.spiExec 0x00 true true none fun s q => { s with dev := s.dev.spiDone q 0 [] }

/-- Read `n` words of 8 bytes from `a`; none at the first bus error. -/
def State.spiRead (s : State) (a : Nat) : Nat → State × Option (List (BitVec 8))
  | 0 => (s, some [])
  | n + 1 =>
    match s.busRead a 8 with
    | (s, none) => (s, none)
    | (s, some v) =>
      match spiRead s (a + 8) n with
      | (s, none) => (s, none)
      | (s, some l) => (s, some (bytesLE 8 v ++ l))

/-- RD (R404): a refused access is answered with RESULT 4. -/
def execRd (s : State) : Out :=
  s.spiExec 0x01 true false none fun s q =>
    match s.spiRead q.addr q.len8 with
    | (s, some l) => { s with dev := s.dev.spiDone q 0 l }
    | (s, none) => { s with dev := s.dev.spiDone q 4 [] }

/-- Write data in accesses of 8 bytes with the rights of a split core; whether one ended in a bus error. -/
def State.spiWrite (s : State) (a : Nat) (l : List (BitVec 8)) : Nat → State × Bool
  | 0 => (s, false)
  | n + 1 =>
    match s.busWrite .host a 8 (ofBytesLE (l.take 8)) with
    | (s, true) => (s, true)
    | (s, false) => spiWrite s (a + 8) (l.drop 8) n

/-- WR (R404). -/
def execWr (s : State) : Out :=
  s.spiExec 0x02 true false none fun s q =>
    match s.spiWrite q.addr q.data q.len8 with
    | (s, e) => { s with dev := s.dev.spiDone q (if e then 4 else 0) [] }

/-- A host flash command runs through SPIM0, on PLL C, once no firmware operation that came first does (R404 to R406); one that
the flash failed is answered with RESULT 5. -/
def State.spiFlash (s : State) (cmd : Nat) (ok : Bool) (f : State → SpiReq → State) : Out :=
  s.spiExec cmd true true none fun s q =>
    if (s.dev.bit SPI_M0CTL_BUSY && !s.dev.m0.behind) ∨ !s.dev.clk 2 then s
    else if !ok then { s with dev := s.dev.spiDone q 5 [] }
    else f s q

/-- The image flash holds 256 MiB (R23). -/
def flashSize : Nat := 0x10000000

/-- FL_RD (R404): an offset outside the flash is a flash error. -/
def execFlRd (ok : Bool) (s : State) : Out :=
  s.spiFlash 0x10 ok fun s q =>
    if q.addr + 8 * q.len8 ≤ flashSize then
      { s with dev := s.dev.spiDone q 0 (flashBytes s.flash q.addr (8 * q.len8)) }
    else { s with dev := s.dev.spiDone q 5 [] }

/-- Program bytes: an erased byte takes the value; what programming leaves in a byte that is not erased the spec does not say,
so it is a free value (log entry 25). -/
def State.flashProg (s : State) (a : Nat) : List (BitVec 8) → State
  | [] => s
  | b :: t =>
    if flash8 s.flash a = 0xFF then flashProg { s with flash := flashW8 s.flash a b } (a + 1) t
    else
      flashProg { s with flash := flashW8 s.flash a (BitVec.ofNat 8 s.dev.freeVal.toNat), dev := s.dev.drawn } (a + 1) t

/-- The result that refuses a host's change of `n` bytes of flash from offset `a`: while an image runs only the idle slot is
writable, and an attempt on the running slot is counted (R68, R404). -/
def Dev.flashRefusal (d : Dev) (a n : Nat) : Nat :=
  if flashSize < a + n then 5
  else if d.imageRuns && !(d.inIdleSlot a && d.inIdleSlot (a + n - 1)) then 6
  else 0

/-- Answer a refused change of the flash. -/
def Dev.flashRefuse (d : Dev) (q : SpiReq) (n : Nat) : Dev :=
  let d := d.when (d.inRunSlot q.addr || d.inRunSlot (q.addr + n - 1)) (·.count SYS_IMGSTAT_RUNSLOT_WR)
  d.spiDone q (d.flashRefusal q.addr n) []

/-- FL_PROG (R404). -/
def execFlProg (ok : Bool) (s : State) : Out :=
  s.spiFlash 0x11 ok fun s q =>
    if s.dev.flashRefusal q.addr q.data.length ≠ 0 then { s with dev := s.dev.flashRefuse q q.data.length }
    else
      let s := s.flashProg q.addr q.data
      { s with dev := s.dev.spiDone q 0 [] }

/-- FL_ERASE (R404): the 64 KiB sector that holds the offset. -/
def execFlErase (ok : Bool) (s : State) : Out :=
  s.spiFlash 0x12 ok fun s q =>
    let lo := q.addr / 0x10000 * 0x10000
    if s.dev.flashRefusal q.addr 1 ≠ 0 then { s with dev := s.dev.flashRefuse q 1 }
    else
      { s with flash := Tab.keep (fun a => !(lo ≤ a && a < lo + 0x10000)) s.flash, dev := s.dev.spiDone q 0 [] }

/-- Slot `n` of the key store (R65). -/
def Dev.keySlot (d : Dev) (n : Nat) : KeySlot := Tab.find (fun _ => {}) d.per.keys n

/-- Change slot `n` of the key store. -/
def Dev.keyPut (d : Dev) (n : Nat) (k : KeySlot) : Dev :=
  { d with per := { d.per with keys := Tab.put (fun _ => {}) d.per.keys n k } }

/-- KEY_PROG (R65, R404): each slot is programmed once. -/
def execKeyProg (s : State) : Out :=
  s.spiExec 0x20 false true (some 5) fun s q =>
    let n := (q.data.getD 0 0).toNat
    let role := (q.data.getD 1 0).toNat
    if 4 ≤ n ∨ 2 ≤ role ∨ (s.dev.keySlot n).programmed then { s with dev := s.dev.spiDone q 8 [] }
    else
      let k : KeySlot := { programmed := true, safety := role = 1, digest := ofBytesBE ((q.data.drop 8).take 32) }
      { s with dev := (s.dev.keyPut n k).spiDone q 0 [] }

/-- The bytes a revocation of slot `n` signs: "DZREVOKE", SYS_UID little-endian and the slot byte (R404). -/
def revokeText (n : Nat) : List (BitVec 8) :=
  ([0x44, 0x5A, 0x52, 0x45, 0x56, 0x4F, 0x4B, 0x45] : List (BitVec 8)) ++ bytesLE 8 Config.uid ++ [BitVec.ofNat 8 n]

/-- KEY_REVOKE (R65, R404): signed with the key of another unrevoked slot of the same role. -/
def execKeyRevoke (s : State) : Out :=
  s.spiExec 0x21 false true (some 17) fun s q =>
    let n := (q.data.getD 0 0).toNat
    let m := (q.data.getD 1 0).toNat
    let k := s.dev.keySlot n
    let by_ := s.dev.keySlot m
    let blk := (q.data.drop 8).take 128
    let ok : Bool := n < 4 && m < 4 && n ≠ m && k.programmed && by_.programmed && !by_.revoked && k.safety = by_.safety
      && by_.digest = sha256 (blk.take 64) && sigBlockOk blk (sha256 (revokeText n))
    if ok then { s with dev := (s.dev.keyPut n { k with revoked := true }).spiDone q 0 [] }
    else { s with dev := s.dev.spiDone q 8 [] }

/-- APP_RESET (R404): the reset follows once the reply is collected. -/
def execAppReset (s : State) : Out :=
  s.spiExec 0x30 false true none fun s q =>
    { s with dev := (s.dev.spiDone q 0 []).spihUpd fun r => { r with resetDue := true } }

/-- The commands of R404. -/
def spiCmds : List Nat := [0x00, 0x01, 0x02, 0x10, 0x11, 0x12, 0x20, 0x21, 0x30]

/-- UNKNOWN_COMMAND (R404): RESULT 2. -/
def execUnknownCommand (s : State) : Out :=
  s.onClkMem 0 fun s =>
    match s.dev.spih.req with
    | none => s
    | some q => if spiCmds.contains q.cmd || !s.dev.spiServes then s else { s with dev := s.dev.spiDone q 2 [] }

end Sys2Proof.Machine
end

