-- ==== Sys2Proof/Machine/Dispatch.lean ====
section
/-!
DEFINITION. Machine/Dispatch.lean: one arm per command, each one direct call of its meaning.
-/
namespace Sys2Proof.Machine

/-- The effect of a command on everything but the queue. -/
def exec (i : Instr) (s : State) : Host.Outcome State Fault Refusal :=
  match i with
  | .registerWrite o a w v => Sys2Proof.Machine.execRegisterWrite o a w v s
  | .busErrorAccess o a w wr => Sys2Proof.Machine.execBusErrorAccess o a w wr s
  | .vsupGood => Sys2Proof.Machine.execVsupGood s
  | .vsupDipStart => Sys2Proof.Machine.execVsupDipStart s
  | .vsupSagEnd => Sys2Proof.Machine.execVsupSagEnd s
  | .supplyLossEvent vholdMv => Sys2Proof.Machine.execSupplyLossEvent vholdMv s
  | .vsupRecovery => Sys2Proof.Machine.execVsupRecovery s
  | .vholdBelowMinimum => Sys2Proof.Machine.execVholdBelowMinimum s
  | .vholdExhausted => Sys2Proof.Machine.execVholdExhausted s
  | .vholdGood => Sys2Proof.Machine.execVholdGood s
  | .sleepReq => Sys2Proof.Machine.execSleepReq s
  | .sleepPrepComplete => Sys2Proof.Machine.execSleepPrepComplete s
  | .canWakePattern n => Sys2Proof.Machine.execCanWakePattern n s
  | .wakePinAccepted level => Sys2Proof.Machine.execWakePinAccepted level s
  | .nfcFieldDetected => Sys2Proof.Machine.execNfcFieldDetected s
  | .nfcFieldGone => Sys2Proof.Machine.execNfcFieldGone s
  | .sleepTimerExpiry => Sys2Proof.Machine.execSleepTimerExpiry s
  | .pllRequest p fw => Sys2Proof.Machine.execPllRequest p fw s
  | .pllLock p => Sys2Proof.Machine.execPllLock p s
  | .pllLockTimeout p => Sys2Proof.Machine.execPllLockTimeout p s
  | .pllLastRequestReleased p fw => Sys2Proof.Machine.execPllLastRequestReleased p fw s
  | .pllHoldoffExpire p req => Sys2Proof.Machine.execPllHoldoffExpire p req s
  | .pllLockLost p => Sys2Proof.Machine.execPllLockLost p s
  | .referenceFailure => Sys2Proof.Machine.execReferenceFailure s
  | .thimbleBootDone ok safe1 safe2 cal1 cal2 torn => Sys2Proof.Machine.execThimbleBootDone ok safe1 safe2 cal1 cal2 torn s
  | .headerCheckDone ok map prot => Sys2Proof.Machine.execHeaderCheckDone ok map prot s
  | .imageStreamDone ok c => Sys2Proof.Machine.execImageStreamDone ok c s
  | .signatureCheckDone => Sys2Proof.Machine.execSignatureCheckDone s
  | .activation => Sys2Proof.Machine.execActivation s
  | .gateLinkTrainingDone n => Sys2Proof.Machine.execGateLinkTrainingDone n s
  | .gateLinkTrainingFail n => Sys2Proof.Machine.execGateLinkTrainingFail n s
  | .gateLinkRetry n ok => Sys2Proof.Machine.execGateLinkRetry n ok s
  | .readySet => Sys2Proof.Machine.execReadySet s
  | .appRst o key rst => Sys2Proof.Machine.execAppRst o key rst s
  | .watchdogExpiry => Sys2Proof.Machine.execWatchdogExpiry s
  | .thimbleReset => Sys2Proof.Machine.execThimbleReset s
  | .debugReset => Sys2Proof.Machine.execDebugReset s
  | .verify => Sys2Proof.Machine.execVerify s
  | .verifyDone ok c => Sys2Proof.Machine.execVerifyDone ok c s
  | .foModeWrite n mode => Sys2Proof.Machine.execFoModeWrite n mode s
  | .foCurrentLimitReached n ma => Sys2Proof.Machine.execFoCurrentLimitReached n ma s
  | .foCurrentBelowLimit n ma => Sys2Proof.Machine.execFoCurrentBelowLimit n ma s
  | .foLimitTimerExpire n => Sys2Proof.Machine.execFoLimitTimerExpire n s
  | .foOvertemperature n => Sys2Proof.Machine.execFoOvertemperature n s
  | .foRetryTimerExpire n => Sys2Proof.Machine.execFoRetryTimerExpire n s
  | .foRetryReset n => Sys2Proof.Machine.execFoRetryReset n s
  | .foLatchClear mask => Sys2Proof.Machine.execFoLatchClear mask s
  | .bankSupplyFault b high v => Sys2Proof.Machine.execBankSupplyFault b high v s
  | .bankSupplyRecovered b v => Sys2Proof.Machine.execBankSupplyRecovered b v s
  | .aggOver => Sys2Proof.Machine.execAggOver s
  | .diRawEdge n level => Sys2Proof.Machine.execDiRawEdge n level s
  | .diFilteredEdge n => Sys2Proof.Machine.execDiFilteredEdge n s
  | .adcRunStart n => Sys2Proof.Machine.execAdcRunStart n s
  | .adcRunStop n => Sys2Proof.Machine.execAdcRunStop n s
  | .sampleRecord n v => Sys2Proof.Machine.execSampleRecord n v s
  | .slotTrigger n k => Sys2Proof.Machine.execSlotTrigger n k s
  | .slotFirstAperture n clocks v => Sys2Proof.Machine.execSlotFirstAperture n clocks v s
  | .slotComplete n => Sys2Proof.Machine.execSlotComplete n s
  | .slotResultPublish n => Sys2Proof.Machine.execSlotResultPublish n s
  | .urgentRequest n count input => Sys2Proof.Machine.execUrgentRequest n count input s
  | .urgentSlotComplete n => Sys2Proof.Machine.execUrgentSlotComplete n s
  | .refSelect sel => Sys2Proof.Machine.execRefSelect sel s
  | .referenceSettled mv => Sys2Proof.Machine.execReferenceSettled mv s
  | .referenceOutOfWindow mv => Sys2Proof.Machine.execReferenceOutOfWindow mv s
  | .adcCalStart mask => Sys2Proof.Machine.execAdcCalStart mask s
  | .calibrationEnd n w off gain => Sys2Proof.Machine.execCalibrationEnd n w off gain s
  | .adcTrimStart o => Sys2Proof.Machine.execAdcTrimStart o s
  | .adcTrimDone code => Sys2Proof.Machine.execAdcTrimDone code s
  | .auxScanStart m => Sys2Proof.Machine.execAuxScanStart m s
  | .auxEntryDone m x => Sys2Proof.Machine.execAuxEntryDone m x s
  | .excitationMark pos => Sys2Proof.Machine.execExcitationMark pos s
  | .resolverPairTimeout p => Sys2Proof.Machine.execResolverPairTimeout p s
  | .encoderEdge p a b => Sys2Proof.Machine.execEncoderEdge p a b s
  | .encoderMeasurement p => Sys2Proof.Machine.execEncoderMeasurement p s
  | .index p => Sys2Proof.Machine.execIndex p s
  | .serialFrameStart p => Sys2Proof.Machine.execSerialFrameStart p s
  | .serialFrameComplete p idle ef wf data crc => Sys2Proof.Machine.execSerialFrameComplete p idle ef wf data crc s
  | .sscStartBitTimeout p => Sys2Proof.Machine.execSscStartBitTimeout p s
  | .vencOvercurrent p => Sys2Proof.Machine.execVencOvercurrent p s
  | .posFaultClear p mask => Sys2Proof.Machine.execPosFaultClear p mask s
  | .openToSls p => Sys2Proof.Machine.execOpenToSls p s
  | .openTimeout p => Sys2Proof.Machine.execOpenTimeout p s
  | .slsLowSpeed p => Sys2Proof.Machine.execSlsLowSpeed p s
  | .disagree p => Sys2Proof.Machine.execDisagree p s
  | .standstillCheckEnd p lo hi => Sys2Proof.Machine.execStandstillCheckEnd p lo hi s
  | .satPulseEnd p iu iv iw tEnd => Sys2Proof.Machine.execSatPulseEnd p iu iv iw tEnd s
  | .pulseDecayEnd p => Sys2Proof.Machine.execPulseDecayEnd p s
  | .cluEnable g => Sys2Proof.Machine.execCluEnable g s
  | .cluDisable g => Sys2Proof.Machine.execCluDisable g s
  | .offsetMeasurementEnd g => Sys2Proof.Machine.execOffsetMeasurementEnd g s
  | .currentLoopUpdate g tm bad => Sys2Proof.Machine.execCurrentLoopUpdate g tm bad s
  | .vectorMeasurementRequest g second => Sys2Proof.Machine.execVectorMeasurementRequest g second s
  | .starved g => Sys2Proof.Machine.execStarved g s
  | .carrierMark c slack => Sys2Proof.Machine.execCarrierMark c slack s
  | .switchEdge c x => Sys2Proof.Machine.execSwitchEdge c x s
  | .deadTimeEnd c x => Sys2Proof.Machine.execDeadTimeEnd c x s
  | .onTimeLimit c k => Sys2Proof.Machine.execOnTimeLimit c k s
  | .brakeRequestSet v1 v2 => Sys2Proof.Machine.execBrakeRequestSet v1 v2 s
  | .brakeRequestClear v1 v2 => Sys2Proof.Machine.execBrakeRequestClear v1 v2 s
  | .brakeOnTimeEnd => Sys2Proof.Machine.execBrakeOnTimeEnd s
  | .brakeOffTimeEnd => Sys2Proof.Machine.execBrakeOffTimeEnd s
  | .brakePulseMissing => Sys2Proof.Machine.execBrakePulseMissing s
  | .windingDischargeEngage g => Sys2Proof.Machine.execWindingDischargeEngage g s
  | .coffOnPhaseEnd c => Sys2Proof.Machine.execCoffOnPhaseEnd c s
  | .coffOffTimeEnd c => Sys2Proof.Machine.execCoffOffTimeEnd c s
  | .windingDischargeEnd => Sys2Proof.Machine.execWindingDischargeEnd s
  | .debugHalt c => Sys2Proof.Machine.execDebugHalt c s
  | .debugResume c => Sys2Proof.Machine.execDebugResume c s
  | .debugCommand cmd => Sys2Proof.Machine.execDebugCommand cmd s
  | .gateEdge n => Sys2Proof.Machine.execGateEdge n s
  | .edgeLearn n on ts code vdsOff => Sys2Proof.Machine.execEdgeLearn n on ts code vdsOff s
  | .shortCircuit n => Sys2Proof.Machine.execShortCircuit n s
  | .desat n => Sys2Proof.Machine.execDesat n s
  | .softoffEnd n => Sys2Proof.Machine.execSoftoffEnd n s
  | .overcurrent n => Sys2Proof.Machine.execOvercurrent n s
  | .gateSupplyFault n which vpos vneg => Sys2Proof.Machine.execGateSupplyFault n which vpos vneg s
  | .gateSupplyRecovered n vpos vneg => Sys2Proof.Machine.execGateSupplyRecovered n vpos vneg s
  | .vposLost n => Sys2Proof.Machine.execVposLost n s
  | .mismatch n high => Sys2Proof.Machine.execMismatch n high s
  | .ntcReading n code => Sys2Proof.Machine.execNtcReading n code s
  | .ntcTrip n => Sys2Proof.Machine.execNtcTrip n s
  | .ontHv n => Sys2Proof.Machine.execOntHv n s
  | .linkLoss n => Sys2Proof.Machine.execLinkLoss n s
  | .linkStatusMissing n => Sys2Proof.Machine.execLinkStatusMissing n s
  | .ascCommand g => Sys2Proof.Machine.execAscCommand g s
  | .ascRelease g => Sys2Proof.Machine.execAscRelease g s
  | .gateEnFall => Sys2Proof.Machine.execGateEnFall s
  | .gateEnDisable => Sys2Proof.Machine.execGateEnDisable s
  | .gateEnRise lowNs stuck => Sys2Proof.Machine.execGateEnRise lowNs stuck s
  | .autonomousDischarge => Sys2Proof.Machine.execAutonomousDischarge s
  | .disTmaxElapsed => Sys2Proof.Machine.execDisTmaxElapsed s
  | .groupTrigger g => Sys2Proof.Machine.execGroupTrigger g s
  | .triggerTimeout g => Sys2Proof.Machine.execTriggerTimeout g s
  | .opNop n => Sys2Proof.Machine.execOpNop n s
  | .opMov n => Sys2Proof.Machine.execOpMov n s
  | .opAdd n => Sys2Proof.Machine.execOpAdd n s
  | .opSub n => Sys2Proof.Machine.execOpSub n s
  | .opNeg n => Sys2Proof.Machine.execOpNeg n s
  | .opAbs n => Sys2Proof.Machine.execOpAbs n s
  | .opMin n => Sys2Proof.Machine.execOpMin n s
  | .opMax n => Sys2Proof.Machine.execOpMax n s
  | .opClamp n => Sys2Proof.Machine.execOpClamp n s
  | .opSel n => Sys2Proof.Machine.execOpSel n s
  | .opWrap n => Sys2Proof.Machine.execOpWrap n s
  | .opMul n => Sys2Proof.Machine.execOpMul n s
  | .opMac n => Sys2Proof.Machine.execOpMac n s
  | .opMsu n => Sys2Proof.Machine.execOpMsu n s
  | .opAccld n => Sys2Proof.Machine.execOpAccld n s
  | .opAccrd n => Sys2Proof.Machine.execOpAccrd n s
  | .opTab n => Sys2Proof.Machine.execOpTab n s
  | .opDiv n => Sys2Proof.Machine.execOpDiv n s
  | .opSqrt n => Sys2Proof.Machine.execOpSqrt n s
  | .opSincos n => Sys2Proof.Machine.execOpSincos n s
  | .opAtan2 n => Sys2Proof.Machine.execOpAtan2 n s
  | .opMag n => Sys2Proof.Machine.execOpMag n s
  | .opBiq n => Sys2Proof.Machine.execOpBiq n s
  | .opRamp n => Sys2Proof.Machine.execOpRamp n s
  | .opPi n => Sys2Proof.Machine.execOpPi n s
  | .opIn n => Sys2Proof.Machine.execOpIn n s
  | .opOut n => Sys2Proof.Machine.execOpOut n s
  | .opJge n => Sys2Proof.Machine.execOpJge n s
  | .opEnd n cyc => Sys2Proof.Machine.execOpEnd n cyc s
  | .operationResult n k => Sys2Proof.Machine.execOperationResult n k s
  | .blockAccept => Sys2Proof.Machine.execBlockAccept s
  | .epochDeadline g => Sys2Proof.Machine.execEpochDeadline g s
  | .collectorSwap g => Sys2Proof.Machine.execCollectorSwap g s
  | .sliceRun o n run => Sys2Proof.Machine.execSliceRun o n run s
  | .sliceEccError n => Sys2Proof.Machine.execSliceEccError n s
  | .tuneCommit count restart => Sys2Proof.Machine.execTuneCommit count restart s
  | .laRdw c rd v1 => Sys2Proof.Machine.execLaRdw c rd v1 s
  | .laRdout c rd v1 => Sys2Proof.Machine.execLaRdout c rd v1 s
  | .laRdage c rd v1 => Sys2Proof.Machine.execLaRdage c rd v1 s
  | .laRdseq c rd v1 => Sys2Proof.Machine.execLaRdseq c rd v1 s
  | .laRdsst c rd v1 => Sys2Proof.Machine.execLaRdsst c rd v1 s
  | .laTstat c rd => Sys2Proof.Machine.execLaTstat c rd s
  | .laDiv c rd v1 v2 => Sys2Proof.Machine.execLaDiv c rd v1 v2 s
  | .laSqrt c rd v1 => Sys2Proof.Machine.execLaSqrt c rd v1 s
  | .laSin c rd v1 => Sys2Proof.Machine.execLaSin c rd v1 s
  | .laCos c rd v1 => Sys2Proof.Machine.execLaCos c rd v1 s
  | .laAtan2 c rd v1 v2 => Sys2Proof.Machine.execLaAtan2 c rd v1 v2 s
  | .laMag c rd v1 v2 => Sys2Proof.Machine.execLaMag c rd v1 v2 s
  | .laTset c v1 v2 => Sys2Proof.Machine.execLaTset c v1 v2 s
  | .laTcommit c v1 => Sys2Proof.Machine.execLaTcommit c v1 s
  | .laRun c v1 => Sys2Proof.Machine.execLaRun c v1 s
  | .illegalInstruction c w => Sys2Proof.Machine.execIllegalInstruction c w s
  | .commitBufferSend c => Sys2Proof.Machine.execCommitBufferSend c s
  | .squash c what => Sys2Proof.Machine.execSquash c what s
  | .assistResultReturn c j => Sys2Proof.Machine.execAssistResultReturn c j s
  | .arm => Sys2Proof.Machine.execArm s
  | .stop => Sys2Proof.Machine.execStop s
  | .force => Sys2Proof.Machine.execForce s
  | .spoolRecordWrite => Sys2Proof.Machine.execSpoolRecordWrite s
  | .spoolMemoryWrite a w v => Sys2Proof.Machine.execSpoolMemoryWrite a w v s
  | .axisEnable n => Sys2Proof.Machine.execAxisEnable n s
  | .axisDisable n => Sys2Proof.Machine.execAxisDisable n s
  | .axisStop n => Sys2Proof.Machine.execAxisStop n s
  | .homeGo n => Sys2Proof.Machine.execHomeGo n s
  | .positionTargetWrite n v => Sys2Proof.Machine.execPositionTargetWrite n v s
  | .velocityTargetWrite n v => Sys2Proof.Machine.execVelocityTargetWrite n v s
  | .positionWrite n v => Sys2Proof.Machine.execPositionWrite n v s
  | .motionTick n low => Sys2Proof.Machine.execMotionTick n low s
  | .holdCurrentTimer n => Sys2Proof.Machine.execHoldCurrentTimer n s
  | .stepEdge n dir => Sys2Proof.Machine.execStepEdge n dir s
  | .chopperUpperReached n b ns code => Sys2Proof.Machine.execChopperUpperReached n b ns code s
  | .chopperLowerReached n b ns code low => Sys2Proof.Machine.execChopperLowerReached n b ns code low s
  | .chopperTailEnd n b low => Sys2Proof.Machine.execChopperTailEnd n b low s
  | .onPhaseLimit n b ns => Sys2Proof.Machine.execOnPhaseLimit n b ns s
  | .limitSwitchEdge n pos => Sys2Proof.Machine.execLimitSwitchEdge n pos s
  | .homeSwitchEdge n => Sys2Proof.Machine.execHomeSwitchEdge n s
  | .homeDebounceExpire n => Sys2Proof.Machine.execHomeDebounceExpire n s
  | .coilShort n b => Sys2Proof.Machine.execCoilShort n b s
  | .vstpFault v => Sys2Proof.Machine.execVstpFault v s
  | .vstpRecovered v => Sys2Proof.Machine.execVstpRecovered v s
  | .mismatchDetected p => Sys2Proof.Machine.execMismatchDetected p s
  | .darnRestartComplete p ok us => Sys2Proof.Machine.execDarnRestartComplete p ok us s
  | .checkpoint p => Sys2Proof.Machine.execCheckpoint p s
  | .forced p => Sys2Proof.Machine.execForced p s
  | .privateStore p a w v => Sys2Proof.Machine.execPrivateStore p a w v s
  | .watchdogService o key => Sys2Proof.Machine.execWatchdogService o key s
  | .split o => Sys2Proof.Machine.execSplit o s
  | .splitComplete p => Sys2Proof.Machine.execSplitComplete p s
  | .ownerReq o => Sys2Proof.Machine.execOwnerReq o s
  | .safeAck o => Sys2Proof.Machine.execSafeAck o s
  | .handoverTimeout => Sys2Proof.Machine.execHandoverTimeout s
  | .rejoin c => Sys2Proof.Machine.execRejoin c s
  | .rejoinTimeout p => Sys2Proof.Machine.execRejoinTimeout p s
  | .rejoinComplete p => Sys2Proof.Machine.execRejoinComplete p s
  | .splitCoreParity c => Sys2Proof.Machine.execSplitCoreParity c s
  | .deratingUpdate => Sys2Proof.Machine.execDeratingUpdate s
  | .hemSpeedTrip g => Sys2Proof.Machine.execHemSpeedTrip g s
  | .hemUdcTrip g => Sys2Proof.Machine.execHemUdcTrip g s
  | .hold => Sys2Proof.Machine.execHold s
  | .thimbleCoreFault => Sys2Proof.Machine.execThimbleCoreFault s
  | .thimbleRestartDone => Sys2Proof.Machine.execThimbleRestartDone s
  | .pathTest n p1 p2 => Sys2Proof.Machine.execPathTest n p1 p2 s
  | .speedCheck => Sys2Proof.Machine.execSpeedCheck s
  | .selReleaseTimer g => Sys2Proof.Machine.execSelReleaseTimer g s
  | .ss1Check g ms => Sys2Proof.Machine.execSs1Check g ms s
  | .ss1Deadline g => Sys2Proof.Machine.execSs1Deadline g s
  | .sbcEngageTimer g => Sys2Proof.Machine.execSbcEngageTimer g s
  | .stoAscTimeout g => Sys2Proof.Machine.execStoAscTimeout g s
  | .safeToSto g => Sys2Proof.Machine.execSafeToSto g s
  | .safetyInputChange k a b => Sys2Proof.Machine.execSafetyInputChange k a b s
  | .siDisc k => Sys2Proof.Machine.execSiDisc k s
  | .sbcTestPulse ok => Sys2Proof.Machine.execSbcTestPulse ok s
  | .sbcApplyCheck ma => Sys2Proof.Machine.execSbcApplyCheck ma s
  | .sbcCurrentLow ma => Sys2Proof.Machine.execSbcCurrentLow ma s
  | .tmWindowEnd l iq0 iq1 => Sys2Proof.Machine.execTmWindowEnd l iq0 iq1 s
  | .udcDiv v bad => Sys2Proof.Machine.execUdcDiv v bad s
  | .disSlow v => Sys2Proof.Machine.execDisSlow v s
  | .windingDischargeStop v => Sys2Proof.Machine.execWindingDischargeStop v s
  | .lockoutExpiry => Sys2Proof.Machine.execLockoutExpiry s
  | .lockoutSave => Sys2Proof.Machine.execLockoutSave s
  | .unlockTimeout => Sys2Proof.Machine.execUnlockTimeout s
  | .sto o tag => Sys2Proof.Machine.execSto o tag s
  | .ss1 o tag => Sys2Proof.Machine.execSs1 o tag s
  | .stoRelease o tag => Sys2Proof.Machine.execStoRelease o tag s
  | .brakeRelease o tag => Sys2Proof.Machine.execBrakeRelease o tag s
  | .brakeApply o tag => Sys2Proof.Machine.execBrakeApply o tag s
  | .disStart o tag => Sys2Proof.Machine.execDisStart o tag s
  | .disStop o tag => Sys2Proof.Machine.execDisStop o tag s
  | .windDis o tag => Sys2Proof.Machine.execWindDis o tag s
  | .clear o tag => Sys2Proof.Machine.execClear o tag s
  | .unlockSafety o tag len1 => Sys2Proof.Machine.execUnlockSafety o tag len1 s
  | .unlockDev o tag len1 => Sys2Proof.Machine.execUnlockDev o tag len1 s
  | .close o tag => Sys2Proof.Machine.execClose o tag s
  | .install o tag => Sys2Proof.Machine.execInstall o tag s
  | .setPassword o tag len1 len2 => Sys2Proof.Machine.execSetPassword o tag len1 len2 s
  | .ackLog o tag len1 => Sys2Proof.Machine.execAckLog o tag len1 s
  | .canRunSet n => Sys2Proof.Machine.execCanRunSet n s
  | .canRunClear n => Sys2Proof.Machine.execCanRunClear n s
  | .busIdleDetected n => Sys2Proof.Machine.execBusIdleDetected n s
  | .canFrameReceived n f age => Sys2Proof.Machine.execCanFrameReceived n f age s
  | .refFollowTimeout n => Sys2Proof.Machine.execRefFollowTimeout n s
  | .canProtocolException n => Sys2Proof.Machine.execCanProtocolException n s
  | .canBusError n e lec => Sys2Proof.Machine.execCanBusError n e lec s
  | .txreq n mask => Sys2Proof.Machine.execTxreq n mask s
  | .txabort n mask => Sys2Proof.Machine.execTxabort n mask s
  | .canTxComplete n e => Sys2Proof.Machine.execCanTxComplete n e s
  | .fifoPop n => Sys2Proof.Machine.execFifoPop n s
  | .hpSlotFree n mask => Sys2Proof.Machine.execHpSlotFree n mask s
  | .recover n => Sys2Proof.Machine.execRecover n s
  | .busOn n => Sys2Proof.Machine.execBusOn n s
  | .dominantTimeout n => Sys2Proof.Machine.execDominantTimeout n s
  | .refPeriod n => Sys2Proof.Machine.execRefPeriod n s
  | .ethLinkChange p up sqi => Sys2Proof.Machine.execEthLinkChange p up sqi s
  | .switchFrameReceived p l ok age => Sys2Proof.Machine.execSwitchFrameReceived p l ok age s
  | .syncReceived p t age => Sys2Proof.Machine.execSyncReceived p t age s
  | .pdelayExchange p delay => Sys2Proof.Machine.execPdelayExchange p delay s
  | .announceReceived p a => Sys2Proof.Machine.execAnnounceReceived p a s
  | .syncLost p => Sys2Proof.Machine.execSyncLost p s
  | .txkick => Sys2Proof.Machine.execTxkick s
  | .dtmHoldover => Sys2Proof.Machine.execDtmHoldover s
  | .submit len => Sys2Proof.Machine.execSubmit len s
  | .txPop => Sys2Proof.Machine.execTxPop s
  | .appsend k len => Sys2Proof.Machine.execAppsend k len s
  | .connectionEnable o k en => Sys2Proof.Machine.execConnectionEnable o k en s
  | .connectionCycle k => Sys2Proof.Machine.execConnectionCycle k s
  | .connectionWatchdog k => Sys2Proof.Machine.execConnectionWatchdog k s
  | .domainEn en => Sys2Proof.Machine.execDomainEn en s
  | .formDelayReached => Sys2Proof.Machine.execFormDelayReached s
  | .domainOpen => Sys2Proof.Machine.execDomainOpen s
  | .domainClaim r arg => Sys2Proof.Machine.execDomainClaim r arg s
  | .domainRegister arg uid => Sys2Proof.Machine.execDomainRegister arg uid s
  | .domainTrunk trunk uid => Sys2Proof.Machine.execDomainTrunk trunk uid s
  | .domainLeader uid => Sys2Proof.Machine.execDomainLeader uid s
  | .domoff off => Sys2Proof.Machine.execDomoff off s
  | .segnum num gm => Sys2Proof.Machine.execSegnum num gm s
  | .claimSilence => Sys2Proof.Machine.execClaimSilence s
  | .segmentClose => Sys2Proof.Machine.execSegmentClose s
  | .segReg r => Sys2Proof.Machine.execSegReg r s
  | .directoryClose => Sys2Proof.Machine.execDirectoryClose s
  | .dirAck leader num ver => Sys2Proof.Machine.execDirAck leader num ver s
  | .dirDone => Sys2Proof.Machine.execDirDone s
  | .dirQuery uid => Sys2Proof.Machine.execDirQuery uid s
  | .gatewayServoLocked => Sys2Proof.Machine.execGatewayServoLocked s
  | .connectComplete => Sys2Proof.Machine.execConnectComplete s
  | .leaderRefMissing => Sys2Proof.Machine.execLeaderRefMissing s
  | .gmChange => Sys2Proof.Machine.execGmChange s
  | .crcInit u => Sys2Proof.Machine.execCrcInit u s
  | .crcGo u => Sys2Proof.Machine.execCrcGo u s
  | .crcStop u cyc => Sys2Proof.Machine.execCrcStop u cyc s
  | .crcData u half v => Sys2Proof.Machine.execCrcData u half v s
  | .crcMemoryDone u => Sys2Proof.Machine.execCrcMemoryDone u s
  | .spihFrameStart => Sys2Proof.Machine.execSpihFrameStart s
  | .nopCmd => Sys2Proof.Machine.execNopCmd s
  | .rd => Sys2Proof.Machine.execRd s
  | .wr => Sys2Proof.Machine.execWr s
  | .flRd ok => Sys2Proof.Machine.execFlRd ok s
  | .flProg ok => Sys2Proof.Machine.execFlProg ok s
  | .flErase ok => Sys2Proof.Machine.execFlErase ok s
  | .keyProg => Sys2Proof.Machine.execKeyProg s
  | .keyRevoke => Sys2Proof.Machine.execKeyRevoke s
  | .appReset => Sys2Proof.Machine.execAppReset s
  | .spihFrameEnd l => Sys2Proof.Machine.execSpihFrameEnd l s
  | .m0Go => Sys2Proof.Machine.execM0Go s
  | .m0Done e => Sys2Proof.Machine.execM0Done e s
  | .flashWindowRead free => Sys2Proof.Machine.execFlashWindowRead free s
  | .m1TxQueue v => Sys2Proof.Machine.execM1TxQueue v s
  | .m1EntryDone w l => Sys2Proof.Machine.execM1EntryDone w l s
  | .m1RxPop => Sys2Proof.Machine.execM1RxPop s
  | .luTxByte n b => Sys2Proof.Machine.execLuTxByte n b s
  | .luRxPop n => Sys2Proof.Machine.execLuRxPop n s
  | .uartByteReceived n b par stop => Sys2Proof.Machine.execUartByteReceived n b par stop s
  | .linGo n => Sys2Proof.Machine.execLinGo n s
  | .linFrameEnd n e => Sys2Proof.Machine.execLinFrameEnd n e s
  | .linResponseTimeout n => Sys2Proof.Machine.execLinResponseTimeout n s
  | .linBreak n span => Sys2Proof.Machine.execLinBreak n span s
  | .linHeader n pid => Sys2Proof.Machine.execLinHeader n pid s
  | .tagInventory len mask => Sys2Proof.Machine.execTagInventory len mask s
  | .tagStayQuiet uid => Sys2Proof.Machine.execTagStayQuiet uid s
  | .tagSelect uid => Sys2Proof.Machine.execTagSelect uid s
  | .tagResetToReady adr => Sys2Proof.Machine.execTagResetToReady adr s
  | .tagReadSingleBlock adr b => Sys2Proof.Machine.execTagReadSingleBlock adr b s
  | .tagWriteSingleBlock adr b v => Sys2Proof.Machine.execTagWriteSingleBlock adr b v s
  | .tagReadMultipleBlocks adr b n => Sys2Proof.Machine.execTagReadMultipleBlocks adr b n s
  | .tagExtendedReadSingleBlock adr b => Sys2Proof.Machine.execTagExtendedReadSingleBlock adr b s
  | .tagExtendedWriteSingleBlock adr b v => Sys2Proof.Machine.execTagExtendedWriteSingleBlock adr b v s
  | .tagExtendedReadMultipleBlocks adr b n => Sys2Proof.Machine.execTagExtendedReadMultipleBlocks adr b n s
  | .tagGetSystemInformation adr => Sys2Proof.Machine.execTagGetSystemInformation adr s
  | .tagExtendedGetSystemInformation adr => Sys2Proof.Machine.execTagExtendedGetSystemInformation adr s
  | .unsupportedTagCommand adr => Sys2Proof.Machine.execUnsupportedTagCommand adr s
  | .nfcCommit page => Sys2Proof.Machine.execNfcCommit page s
  | .nfcRead page => Sys2Proof.Machine.execNfcRead page s
  | .nfcCommitDone e => Sys2Proof.Machine.execNfcCommitDone e s
  | .faultPageMirror => Sys2Proof.Machine.execFaultPageMirror s
  | .flowMeasurementStart => Sys2Proof.Machine.execFlowMeasurementStart s
  | .flowPairEvaluated peak ad au qd qu td tu dt => Sys2Proof.Machine.execFlowPairEvaluated peak ad au qd qu td tu dt s
  | .flowStale => Sys2Proof.Machine.execFlowStale s
  | .evrAck t k => Sys2Proof.Machine.execEvrAck t k s
  | .evrPendClear t j mask => Sys2Proof.Machine.execEvrPendClear t j mask s
  | .journalEntryWrite => Sys2Proof.Machine.execJournalEntryWrite s
  | .jnlFwcmd o k => Sys2Proof.Machine.execJnlFwcmd o k s
  | .vsupReturn => Sys2Proof.Machine.execVsupReturn s
  | .vholdLow => Sys2Proof.Machine.execVholdLow s
  | .highVoltageHalfPowerUp n => Sys2Proof.Machine.execHighVoltageHalfPowerUp n s
  | .unknownCommand => Sys2Proof.Machine.execUnknownCommand s
  | .unknownRequest o code tag => Sys2Proof.Machine.execUnknownRequest o code tag s
  | .luByteSent n => Sys2Proof.Machine.execLuByteSent n s
  | .hostFrameSent ok age => Sys2Proof.Machine.execHostFrameSent ok age s
  | .syncTransmit p => Sys2Proof.Machine.execSyncTransmit p s
  | .announceTransmit p => Sys2Proof.Machine.execAnnounceTransmit p s
  | .macEntryAgeing mac => Sys2Proof.Machine.execMacEntryAgeing mac s
  | .splitCoreSelfTestDone c => Sys2Proof.Machine.execSplitCoreSelfTestDone c s

end Sys2Proof.Machine
end

