-- ==== Sys2Proof/Safety.lean ====
section
/-!
DEFINITION. Safety.lean: the terms the statements use: that a command completes, that an event was raised, that a counter
counted, the canonical form of the memories, and what a command leaves unchanged.
-/
namespace Sys2Proof.Machine

/-- Command `c` at state `s` answers a next state, of which `P` holds. -/
def Completes (c : Instr) (s : State) (P : State → Prop) : Prop := ∃ t, exec c s = .next t ∧ P t

/-- The main domain has power. -/
abbrev State.powered (s : State) : Prop := s.dev.unpowered = false

/-- The main domain has power and PLL `p` runs: a command of a block on its clocks has its effect (R26). -/
abbrev State.clocked (s : State) (p : Nat) : Prop := s.powered ∧ s.dev.clk p = true

/-- The main domain has power and every PLL runs (R69). -/
abbrev State.allClocks (s : State) : Prop := s.powered ∧ s.dev.clks = true

/-- An image is active and the fabric has its clock: registers are written (R26, R71). -/
abbrev State.inUse (s : State) : Prop := s.clocked 0 ∧ s.dev.active = true

/-- Origin `o` makes accesses now, and the fabric has its clock (R26, R71, R275, R288). -/
abbrev State.accesses (s : State) (o : Origin) : Prop := s.clocked 0 ∧ s.dev.originRuns o = true

/-- The host port executes requests (R75, R404). -/
abbrev State.serves (s : State) : Prop := s.clocked 0 ∧ s.dev.spiServes = true

/-- The host port executes requests, and SPIM0 has its clock (R404, R405). -/
abbrev State.servesFlash (s : State) : Prop := s.serves ∧ s.dev.clk 2 = true

/-- The formation engine is on, and its controller takes part in the bus of the segment (R386, R391). -/
abbrev State.onSegment (s : State) : Prop := s.clocked 2 ∧ s.dev.domState ≠ 0 ∧ s.dev.segOn = true

/-- From `s` to `t` event source `k` was raised: its stamp is the time of `s` (R429, R430). -/
abbrev Raised (k : Nat) (s t : State) : Prop := t.dev.reg (A_EVR_STAMP k) = BitVec.ofNat 64 s.dev.time

/-- From `s` to `t` counter `f` counted once; it sticks at its maximum (R19). -/
abbrev Counted (f : Fld) (s t : State) : Prop := t.dev.get f = min (s.dev.get f + 1) (2 ^ f.w - 1)

/-- The three memories are in canonical form: addresses strictly rising, and no entry equal to what an unlisted address
reads as. -/
def Memory.wf (s : State) : Bool := Tab.wf memDefault s.mem && Tab.wf flashDefault s.flash && Tab.wf tagDefault s.tag

/-- The register table is in canonical form. -/
def Registers.wf (s : State) : Bool := Tab.wf resetOf s.dev.regs

/-- The invariant of every step: memories and register table in canonical form. -/
def State.inv (s : State) : Prop := Memory.wf s = true ∧ Registers.wf s = true

/-- An urgent request is firmware's, or a current-loop unit's that its input names: for vector 1 or 2, or for the offset of
its return leg (3). -/
def urgentOk (r : Nat × Nat × Nat) : Bool := r.1 = 0 || (r.1 < 4 && r.2.1 < 2)

/-- The numbers that the records hold and that choose a register or a record name one that exists: the group of a winding
discharge, words and slots of the control engine, result slots and requesters of the converters, response slots, pulses
of a saturation-pulse start, scan entries. -/
def State.numbersOk (s : State) : Bool :=
  s.dev.thm.windGrp.all (· < 2) &&
  (s.dev.slc.all fun e => e.2.outs.all (·.1 < 8) && e.2.block.all (·.all (·.1 < 8)) &&
    e.2.flight.all fun f => f.assist.all (·.1 < 4)) &&
  (s.dev.egr.all fun e => e.2.pend.all (·.1 < 512)) &&
  (s.dev.port.all fun e => (e.2.staged.all fun x => x.2.1 < 64 && x.2.2.1 < 256) &&
    e.2.wait.all fun c => c.entries.all fun x => x.1 < 64 && x.2.1 < 256) &&
  (s.dev.adc.all fun e => e.2.pub.all (·.1 < 64) && e.2.queue.all urgentOk && e.2.urg.all urgentOk) &&
  (s.dev.lu.all fun e => e.2.lin.all fun f => f.slot.all (· < 4)) && (s.dev.pos.all fun e => e.2.pulse < 14) &&
  s.dev.aux.all fun e => e.2.entry.all (· < 32)

/-! ## What a command leaves unchanged -/

/-- A part of the state: a register, a byte of a memory, the queue, or a record or other field beside the registers. -/
inductive Part where
  | reg (a : Nat) | mem (a : Nat) | flash (a : Nat) | tag (a : Nat) | queue | time | elapsed | lims | spool (c : Nat) | trig
  | fo (n : Nat)
  | gch (n : Nat)
  | car (n : Nat)
  | clu (n : Nat)
  | pos (n : Nat)
  | pair (n : Nat)
  | tgrp (n : Nat)
  | axis (n : Nat)
  | conn (n : Nat)
  | adc (n : Nat)
  | aux (n : Nat)
  | slc (n : Nat)
  | egr (n : Nat)
  | port (n : Nat)
  | can (n : Nat)
  | lu (n : Nat)
  | free | splTurn | jnl | pwr | boot | per | fio | hem | thm | dtm | img | dom | eth | sfl | spih | m0 | m1 | nfc | flw | refOut | dbg
deriving DecidableEq, Repr

/-- The part is the same in `s` and `t`. -/
def Part.same (s t : State) : Part → Prop
  | .reg a => t.dev.reg a = s.dev.reg a
  | .mem a => rd8 t.mem a = rd8 s.mem a
  | .flash a => flash8 t.flash a = flash8 s.flash a
  | .tag a => Tab.find tagDefault t.tag a = Tab.find tagDefault s.tag a
  | .queue => t.pending = s.pending
  | .time => t.dev.time = s.dev.time ∧ t.dev.frac = s.dev.frac
  | .elapsed => t.dev.mono = s.dev.mono
  | .lims => t.dev.lims = s.dev.lims
  | .spool c => t.dev.sch c = s.dev.sch c
  | .trig => t.dev.dbgTrig = s.dev.dbgTrig
  | .fo n => t.dev.foAt n = s.dev.foAt n
  | .gch n => t.dev.gchAt n = s.dev.gchAt n
  | .car n => t.dev.carAt n = s.dev.carAt n
  | .clu n => t.dev.cluAt n = s.dev.cluAt n
  | .pos n => t.dev.posAt n = s.dev.posAt n
  | .pair n => t.dev.pairAt n = s.dev.pairAt n
  | .tgrp n => t.dev.tgrpAt n = s.dev.tgrpAt n
  | .axis n => t.dev.axisAt n = s.dev.axisAt n
  | .conn n => t.dev.connAt n = s.dev.connAt n
  | .adc n => t.dev.adcAt n = s.dev.adcAt n
  | .aux n => t.dev.auxAt n = s.dev.auxAt n
  | .slc n => t.dev.slcAt n = s.dev.slcAt n
  | .egr n => t.dev.egrAt n = s.dev.egrAt n
  | .port n => t.dev.portAt n = s.dev.portAt n
  | .can n => t.dev.canAt n = s.dev.canAt n
  | .lu n => t.dev.luAt n = s.dev.luAt n
  | .free => t.dev.free = s.dev.free
  | .splTurn => t.dev.splTurn = s.dev.splTurn
  | .jnl => t.dev.jnl = s.dev.jnl
  | .pwr => t.dev.pwr = s.dev.pwr
  | .boot => t.dev.boot = s.dev.boot
  | .per => t.dev.per = s.dev.per
  | .fio => t.dev.fio = s.dev.fio
  | .hem => t.dev.hem = s.dev.hem
  | .thm => t.dev.thm = s.dev.thm
  | .dtm => t.dev.dtm = s.dev.dtm
  | .img => t.dev.img = s.dev.img
  | .dom => t.dev.dom = s.dev.dom
  | .eth => t.dev.eth = s.dev.eth
  | .sfl => t.dev.sfl = s.dev.sfl
  | .spih => t.dev.spih = s.dev.spih
  | .m0 => t.dev.m0 = s.dev.m0
  | .m1 => t.dev.m1 = s.dev.m1
  | .nfc => t.dev.nfc = s.dev.nfc
  | .flw => t.dev.flw = s.dev.flw
  | .refOut => t.dev.refOut = s.dev.refOut
  | .dbg => t.dev.dbg = s.dev.dbg

/-- From `s` to `t` every part outside the lists `ps` is unchanged. -/
def Leaves (ps : List (List Part)) (s t : State) : Prop := ∀ p, p ∉ ps.flatten → p.same s t

/-- Command `c` completes from `s` and changes no part of the state outside the lists `ps`. -/
abbrev Writes (c : Instr) (s : State) (ps : List (List Part)) : Prop := Completes c s (Leaves ps s)

/-- The destination word of the operation at the PC of slice `n` (R201). -/
def State.dest (s : State) (n : Nat) : Nat := (operOf (s.dev.reg (A_CEN_PROG n (s.dev.get (CEN_SSTAT_PC n))))).d % 256

/-- The words of slice `n` that its `k`th operation in flight writes (R200). -/
def State.results (s : State) (n k : Nat) : List Nat :=
  match (s.dev.slcAt n).flight[k]? with
  | none => []
  | some f => f.dsts.map fun e => e.1 % 256

/-- The `n` registers of a family. -/
def regs (f : Nat → Nat) (n : Nat) : List Part := (List.range n).map fun i => .reg (f i)

/-- The `n` × `m` registers of a family of two indices. -/
def regs2 (f : Nat → Nat → Nat) (n m : Nat) : List Part := (List.range n).flatMap fun i => regs (f i) m

/-- The `n` bytes of memory from address `a`. -/
def bytes (a n : Nat) : List Part := (List.range n).map fun i => .mem (a + i)

/-- The bytes of memory in which a frame for the host is stored: its descriptor's second and third word, and the buffer (R372). -/
def State.hostCells (s : State) (l : List (BitVec 8)) : List Part :=
  bytes (s.dev.rxDesc + 8) 16 ++ bytes (rdLE s.mem s.dev.rxDesc 8 % 2 ^ 40 / 8 * 8) l.length

/-- The bytes in which frames for the host are stored, one after the other. -/
def State.hostStores (s : State) : List (Nat × Nat × List (BitVec 8)) → List Part
  | [] => []
  | x :: t => s.hostCells x.2.2 ++ hostStores (s.hostReceive x.1 x.2.1 x.2.2) t

/-- The bytes in which the frames waiting at the host port are stored, the high queue first, while PLL A runs (R370, R372). -/
def State.hostStored (s : State) : List Part :=
  if s.dev.clk 0 then s.hostStores (s.dev.eth.hostHigh ++ s.dev.eth.hostLow) else []

/-- The first `n` records of a kind. -/
def all (k : Nat → Part) (n : Nat) : List Part := (List.range n).map k

/-- The registers of the committed safety parameter set (R66, R338). -/
def setRegs : List Part := (safeRegs ++ hemRegs).map fun e => .reg e.1

/-- What raising events may change (R430, R472, R234, R238, R279, R204): stamps, pending bits and router counters, the Spool
registers and channels, the rate limits, the events kept for a lockstep pair, and the triggers of the groups that name the source.
-/
def raises : List Part :=
  regs A_EVR_STAMP 768 ++ regs2 A_EVR_PEND 6 12 ++ regs A_EVR_CNT 6 ++ [.reg A_SPL_STAT, .reg A_SPL_CNT, .reg A_SPL_TSTAMP] ++
    regs A_SPL_CHST 16 ++ regs A_SPL_CHCNT 16 ++ [.lims] ++ all .spool 16 ++ all .pair 2 ++ all .egr 8

/-- What events and journal entries may change. -/
def journals : List Part := raises ++ [.reg A_JNL_STAT, .reg A_JNL_CNT, .jnl]

/-- What putting groups into their safe state may change (R186, R315, R317): the states of the current loops, carriers,
gate channels, position sources, groups, brake and field outputs, and the clock that nothing drives any more (R27). -/
def safeStates : List Part :=
  regs A_CLU_STAT 2 ++ regs A_PWM_STAT 3 ++ regs A_GCH_STAT 14 ++ [.reg A_GCH_ASC, .reg A_GCH_DIS] ++ regs A_POS_STAT 4 ++
    regs A_POS_STRES 4 ++ regs A_THM_GRP 2 ++ [.reg A_THM_SBCST] ++ regs A_FIO_OSTAT 16 ++ regs A_FIO_OUTCFG 16 ++
    all .car 3 ++ all .gch 14 ++ all .pos 4 ++ all .tgrp 2 ++ [.thm] ++ all .fo 16 ++ [.reg A_SYS_CLKSTAT]

/-- The registers whose write does more than storing fields, by the base of their family. -/
def writeActs : List Nat :=
  [A_SYS_PWRCTL, A_SYS_CLKREQ, A_SYS_IMGCTL, A_SYS_RSTCTL, A_FIO_OUTCFG 0, A_FIO_FLT, A_ADC_CTL 0, A_ADC_URG 0,
   A_ADC_REFCFG, A_ADC_CALCTL, A_POS_CFG 0, A_POS_ENC 0, A_POS_FLT 0, A_POS_RENT, A_EVR_PEND 0 0, A_EVR_ACK 0, A_DTM_CFG,
   A_DTM_TRIM, A_JNL_FWCMD, A_CLU_CTL 0, A_PWM_CTL 0, A_PWM_DT 0, A_PWM_FLT 0, A_GCH_COM, A_GCH_SEGON 0,
   A_GCH_SEGOFF 0, A_STP_CTL 0, A_STP_POS 0,
   A_STP_TGT 0, A_STP_VTGT 0, A_STP_CUR 0, A_STP_FLT 0, A_HEM_PAIRCTL, A_HEM_WDOG, A_HEM_THMREQ, A_CEN_SCFG 0,
   A_CEN_TCTL, A_SPL_CTL, A_CAN_CTL 0, A_CAN_TXCTL 0, A_CAN_RXF 0, A_ETH_CTL, A_ETH_ASCFG, A_ETH_DMA, A_SFL_TXCTL,
   A_SFL_RXCTL, A_SFL_APPSEND, A_SFL_DOMCFG, A_SFL_CCFG 0, A_CRC_CFG 0, A_CRC_VAL 0, A_CRC_CTL 0, A_CRC_DATA 0,
   A_SPI_M0CTL, A_SPI_M1TX, A_SPI_M1RX, A_LUA_CFG 0, A_LUA_DATA 0, A_LUA_LIN 0, A_NFC_CTL, A_FLW_CFG]

/-- A write of the register at `a` only stores fields. -/
def plainAt (a : Nat) : Bool :=
  match regDefAt (a / 8 * 8) with
  | none => true
  | some (r, _, _) => !writeActs.contains r.base

/-- The register at `a` belongs to one of the families with the bases `bs`. -/
def inFamilies (a : Nat) (bs : List Nat) : Bool :=
  match regDefAt (a / 8 * 8) with
  | none => false
  | some (r, _, _) => bs.contains r.base

/-- A write at `a`, be it a bus access of any origin and width, the debug module's or the one word of the host's WR, changes nothing
outside `ps` but the records of the command that carries it. -/
def WriteChanges (s : State) (a : BitVec 40) (ps : List (List Part)) : Prop :=
  (∀ o w v, Writes (.registerWrite o a w v) s ps) ∧
  (∀ w v, Writes (.debugCommand (.busWrite a w v)) s ([.reg A_DBG_CNT, .dbg] :: ps)) ∧
  (∀ q, s.dev.spih.req = some q → q.addr = a.toNat → q.len8 ≤ 1 →
    Writes .wr s ([.reg A_SPI_HCNT, .reg A_SYS_CLKSTAT, .m0, .spih] :: raises :: ps))

/-- The counters of refused register writes (R12), and the count of stored RWS writes (R333). -/
def refusals : List Part :=
  [.reg A_HEM_CNT, .reg A_FIO_CNT, .reg A_ADC_CCNT, .reg A_AUX_CNT, .reg A_STP_CCNT, .reg A_ETH_CCNT, .reg A_SFL_DOMCNT,
   .reg A_SPI_M0CNT, .reg A_FLW_STAT, .reg A_CEN_CCNT, .reg A_SPL_CNT, .thm] ++
    regs A_ADC_CNT2 8 ++ regs A_POS_CNT 4 ++ regs A_CLU_CNT 2 ++ regs A_PWM_CNT2 3 ++ regs A_GCH_CNT 14 ++ regs A_STP_CNT 12 ++
    regs A_CAN_CNT2 4 ++ regs A_CRC_CTL 8 ++ regs A_LUA_CNT2 4 ++ regs A_CEN_SCNT3 64

/-- What evaluating the safety demands may change beyond that (R291, R314, R316). -/
def demands : List Part :=
  safeStates ++ [.reg A_HEM_STAT, .reg A_THM_FLT, .hem] ++ regs A_STP_STAT 12 ++ regs A_STP_VEL 12 ++ all .axis 12

end Sys2Proof.Machine
end

