-- ==== Sys2Proof/Certificates/Slice0/Obligations.lean ====
section
/-!
DEFINITION. Certificates/Slice0/Obligations.lean: the statements for the provers.
-/

open Sys2Proof Sys2Proof.Machine

/-- For every command c and every state s: a step of s with c at the front of its queue is exec of c on s with the queue's
rest. Which commands wait, and in what order, is the module's environment (the model's own queue, log entry 28). -/
def Obligations.StepRunsFrontCommand : Prop :=
  ∀ (s : State) (c : Instr) (rest : List Instr),
    step { s with pending := c :: rest } = exec c { s with pending := rest }

/-- On an empty queue the step answers a next state: the tick is what an idle step does, at which the frames that wait at
the host port go to the SRAM while PLL A runs (log entry 27). While the main domain has power and PLL B is neither
LOCKED nor in HOLDOFF, module time advances by 40 ns, after a stop or a fault as well as before the first lock (log
entry 77); with PLL B locked, rate 0 in the counter, no fraction carried and no step or rate waiting for the next µs,
by 1 ns, as module time before any offset is domain time (log entry 62). With no frame waiting for the host no
register changes. -/
def Obligations.IdleStepPassesOneTick : Prop :=
  (∀ (s : State), s.pending = [] → step s = .next s.idle) ∧
  (∀ (s : State), s.dev.eth.hostHigh = [] → s.dev.eth.hostLow = [] → s.idle.dev.regs = s.dev.idle.regs ∧ s.idle.mem = s.mem) ∧
  (∀ (s : State), s.powered → s.dev.get SYS_CLKSTAT_PLLB_ST ≠ 2 → s.dev.get SYS_CLKSTAT_PLLB_ST ≠ 3 → s.dev.dtm.stepDue = none →
    s.dev.idle.time = s.dev.time + 40 ∧ s.dev.idle.mono = s.dev.mono + 40 ∧ s.dev.idle.regs = s.dev.regs) ∧
  (∀ (s : State), s.powered → s.dev.clk 1 = true → s.dev.dtm.rate = 0 → s.dev.frac = 0 → s.dev.dtm.stepDue = none →
    s.dev.idle.time = s.dev.time + 1 ∧ s.dev.idle.frac = 0 ∧ s.dev.idle.regs = s.dev.regs)

/-- No command is refused and none faults: for every command i, whatever its form and operands, and every state s, exec i
s answers a next state and leaves the queue as it is; so from every state the step answers a next state whose queue is
the old one without its front command. What each command does in that state is said by the statements of its family. -/
def Obligations.EveryStepAnswersNext : Prop :=
  (∀ (i : Instr) (s : State), ∃ t, exec i s = .next t ∧ t.pending = s.pending) ∧
  (∀ (s : State), ∃ t, step s = .next t ∧ t.pending = s.pending.tail)

/-- After reset: the ordering number, the power state and the wake settings; the firmware requests, states and hold-off of
the PLLs; the carriers' half period, minimum pulse and dead times; GCH_GEN, the gate channels' supply, desaturation
and temperature thresholds, strengths and states; every collector word 0 with AGE 255; the Spool channel buffers; the
axes' currents, hold time and chopper settings; the journal's NEWEST; the bit timing, watermark and reference period
of the CAN controllers; the SFL settings and domain state hold the values the register tables give. Time is 0, no
event is pending or stamped, the queue is empty. State.reset holds no invented program. -/
def Obligations.ResetHoldsSpecValues : Prop :=
  (State.reset.dev.get SYS_ID_ORDNUM = 0x6612 ∧ State.reset.dev.get SYS_PWRSTATE_STATE = 1 ∧
   State.reset.dev.get SYS_PWRSTATE_READY = 0 ∧ State.reset.dev.get SYS_WAKECFG_CAN_EN = 15) ∧
  (State.reset.dev.get SYS_CLKREQ_PLLA = 1 ∧ State.reset.dev.get SYS_CLKREQ_PLLB = 0 ∧ State.reset.dev.get SYS_CLKREQ_PLLC = 0 ∧
   State.reset.dev.get SYS_CLKHOLD_HOLD_US = 1000 ∧ ∀ p : Fin 3, State.reset.dev.get (pllFld p) = 0) ∧
  (State.reset.dev.time = 0 ∧ State.reset.pending = [] ∧ State.reset.mem = [] ∧ State.reset.flash = []) ∧
  (∀ (w : Fin 512), State.reset.dev.reg (A_CEN_OUT w) = 0 ∧ State.reset.dev.get (CEN_AGE_AGE (w / 8) (w % 8)) = 255) ∧
  (∀ (t : Fin 6) (j : Fin 12), State.reset.dev.reg (A_EVR_PEND t j) = 0) ∧
  (∀ (k : Fin 768), State.reset.dev.reg (A_EVR_STAMP k) = 0) ∧
  (∀ (c : Fin 3), State.reset.dev.get (PWM_HALF_HALF c) = 10000 ∧ State.reset.dev.get (PWM_DT_MINP c) = 640 ∧
    State.reset.dev.get (PWM_DT_DT_LH c) = 1280 ∧ State.reset.dev.get (PWM_DT_DT_HL c) = 1280) ∧
  (∀ (n : Fin 12), State.reset.dev.get (STP_STAT_STATE n) = 0 ∧ State.reset.dev.get (STP_CUR_I_RUN n) = 0 ∧
    State.reset.dev.get (STP_CUR_I_HOLD n) = 0 ∧ State.reset.dev.get (STP_CUR_HOLD_MS n) = 200 ∧
    State.reset.dev.get (STP_CHOP_HYST n) = 200 ∧ State.reset.dev.get (STP_CHOP_FCH_MIN n) = 10 ∧
    State.reset.dev.get (STP_CHOP_FCH_MAX n) = 50) ∧
  (State.reset.dev.reg A_GCH_GEN = 0 ∧ State.reset.dev.get GCH_DIS_DIS_TMAX = 40) ∧
  (∀ (n : Fin 14), State.reset.dev.get (GCH_STAT_STATE n) = 0 ∧ State.reset.dev.gchFlt n = 0 ∧
    State.reset.dev.get (GCH_SUP_VPOS_UV n) = 110 ∧ State.reset.dev.get (GCH_SUP_VPOS_OV n) = 210 ∧
    State.reset.dev.get (GCH_SUP_VNEG_LO n) = 90 ∧ State.reset.dev.get (GCH_SUP_VNEG_HI n) = 5 ∧
    State.reset.dev.get (GCH_SUP_MIS_NS n) = 1000 ∧ State.reset.dev.get (GCH_SUP_NTC_TRIP n) = 150 ∧
    State.reset.dev.get (GCH_DS_VDS_TH n) = 70 ∧ State.reset.dev.get (GCH_DS_DS_BLANK n) = 1000 ∧
    State.reset.dev.get (GCH_STAT_NTC n) = 255 ∧
    ∀ k : Fin 8, State.reset.dev.get (GCH_SEGON_SEG n k) = 12 ∧ State.reset.dev.get (GCH_SEGOFF_SEG n k) = 12) ∧
  (∀ (c : Fin 16), State.reset.dev.get (SPL_CHBUF_SIZE c) = 64 ∧ State.reset.dev.get (SPL_CHBUF_BASE c) = 64 * c) ∧
  (State.reset.dev.get JNL_STAT_NEWEST = 0xFFFFFFFF ∧ State.reset.dev.get JNL_STAT_QLEVEL = 0) ∧
  (State.reset.dev.get SFL_DOMCFG_FORM_DELAY_MS = 100 ∧ State.reset.dev.get SFL_DOMCFG_GM_PRIO1 = 128 ∧
   State.reset.dev.get SFL_DOMCFG_CRC_MAX = 10 ∧ State.reset.dev.get SFL_DOMCFG_DPP = 27 ∧ State.reset.dev.get SFL_DOMCFG_GW_CAND = 1 ∧
   State.reset.dev.get SFL_DOMCFG_EN = 0 ∧ State.reset.dev.get SFL_DOMSTAT_STATE = 0 ∧ State.reset.dev.get SFL_DOMSTAT_SEG_NUM = 0xFFFF ∧
   ∀ k : Fin 256, State.reset.dev.get (SFL_CCFG_TEXP k) = 160 ∧ State.reset.dev.get (SFL_CCFG_EN k) = 0) ∧
  (∀ (g : Fin 2), State.reset.dev.get (THM_GRP_STATE g) = 0) ∧
  (∀ (n : Fin 4), State.reset.dev.get (CAN_STAT_STATE n) = 0 ∧ State.reset.dev.get (CAN_CTL_AUTO_REC n) = 1 ∧
    State.reset.dev.get (CAN_CTL_TRX_MODE n) = 0 ∧ State.reset.dev.get (CAN_NBT_TRIPLE n) = 1 ∧ State.reset.dev.get (CAN_NBT_NBRP n) = 20 ∧
    State.reset.dev.get (CAN_NBT_NTSEG1 n) = 13 ∧ State.reset.dev.get (CAN_NBT_NTSEG2 n) = 2 ∧ State.reset.dev.get (CAN_NBT_NSJW n) = 2 ∧
    State.reset.dev.get (CAN_RXF_WM n) = 32 ∧ State.reset.dev.get (CAN_TIME_PERIOD_MS n) = 50)

/-- The invariants of StepKeepsCanonicalForm and StepKeepsNumbersInRange hold at State.reset: the memories and the
register table list their keys strictly rising and no entry equal to what an unlisted key reads as, and every number
held in a record names what exists. -/
def Obligations.ResetMeetsInvariant : Prop :=
  State.reset.inv ∧ State.reset.numbersOk = true

/-- For every state whose memories (SRAM, persistent memory and buffers; the image flash; the service tag) and register
table are in canonical form, keys strictly rising and no entry equal to what an unlisted key reads as, the next state
of a step has them in canonical form again; so equal memories and equal registers are equal data. -/
def Obligations.StepKeepsCanonicalForm : Prop :=
  ∀ (s t : State), s.inv → step s = .next t → t.inv

/-- For every state in which the group of a winding discharge, the words and slots of the control engine, the tune
entries, the result slots and requesters of the converters, the LIN response slots, the pulses of a saturation-pulse
start and the scan entries name what exists, they do so in the next state of a step. The frames take this as their
premise. -/
def Obligations.StepKeepsNumbersInRange : Prop :=
  ∀ (s t : State), s.numbersOk = true → step s = .next t → t.numbersOk = true

/-- Each slot of the key store is programmed once: whatever the step, a programmed slot stays programmed with its digest
and its role, and a revoked slot stays revoked. -/
def Obligations.KeySlotsProgrammedOnce : Prop :=
  ∀ (s t : State) (k : Nat), step s = .next t → (s.dev.keySlot k).programmed = true →
    (t.dev.keySlot k).programmed = true ∧ (t.dev.keySlot k).digest = (s.dev.keySlot k).digest ∧
    (t.dev.keySlot k).safety = (s.dev.keySlot k).safety ∧
    ((s.dev.keySlot k).revoked = true → (t.dev.keySlot k).revoked = true)

/-- The committed set is changed only by the password procedure: from every state whose safety unlock is closed, a step
that is not Thimble's boot (whose copy checks are its operands) leaves the set that a read of the two-copy record
gives as it was. -/
def Obligations.CommittedSetChangesOnlyUnlocked : Prop :=
  ∀ (s t : State), s.dev.get THM_STAT_SAFE_UNLOCK = 0 →
    (∀ (a1 a2 a3 a4 a5 a6 : Bool), s.pending.head? ≠ some (.thimbleBootDone a1 a2 a3 a4 a5 a6)) →
    step s = .next t → t.dev.per.safe.cur = s.dev.per.safe.cur

/-- From every state and whatever the command: a gate of GCH0 to GCH12 that is on after a step was on before it, or both
shut-off paths permit the channel. For GCH13 the same holds unless its high-voltage half runs a discharge of its own. -/
def Obligations.GateTurnsOnOnlyPermitted : Prop :=
  (∀ (s t : State) (n : Nat), n < 13 → step s = .next t → (t.dev.gchAt n).gate = true →
    (s.dev.gchAt n).gate = true ∨ t.dev.permits n = true) ∧
  (∀ (s t : State), step s = .next t → (t.dev.gchAt 13).gate = true →
    (s.dev.gchAt 13).gate = true ∨ t.dev.permits 13 = true ∨ (t.dev.gchAt 13).running = true)

/-- SYS_RSTCTL is safety-classed. A write from a core of a split pair, or a write whose KEY is not 0xD2A6, has no effect
and is counted in SYS_BUSERR.KEY: nothing else of the state changes, no event is raised and no bus error is counted.
Constructors that complete (exec answers a next state): appRst, registerWrite. -/
def Obligations.RefusedResetWriteIsCounted : Prop :=
  (∀ (s : State) (o : Origin) (key : BitVec 16) (rst : Bool), s.accesses o → key ≠ 0xD2A6 →
   Completes (.appRst o key rst) s fun t => t = { s with dev := s.dev.count SYS_BUSERR_KEY }) ∧
  (∀ (s : State) (c : Fin 4) (key : BitVec 16) (rst : Bool), s.accesses (.core c) →
   Completes (.appRst (.core c) key rst) s fun t => t = { s with dev := s.dev.count SYS_BUSERR_KEY }) ∧
  (∀ (s : State) (o : Origin) (v : BitVec 64), s.accesses o → (v.toNat / 2 ^ 48 ≠ 0xD2A6 ∨ (∃ c, o = .core c)) →
   Completes (.registerWrite o 0x40000060 .w64 v) s fun t => t = { s with dev := s.dev.count SYS_BUSERR_KEY })

/-- While an image runs, an operation whose opcode appears in SPI_M0PROT is refused with RESULT 2 when its address lies in
the running slot, and with RESULT 3 when it has no address phase; both refusals are counted in RUNSLOT_WR of
SYS_IMGSTAT and start nothing. An opcode that is not protected starts. The header check fills SPI_M0PROT with the
opcodes of the flash's SFDP tables that the boot ROM read, given with the command. Constructors that complete (exec
answers a next state): m0Go, headerCheckDone. -/
def Obligations.FlashOperationsRefused : Prop :=
  (∀ (s : State), s.inUse → s.dev.get SPI_M0CTL_BUSY = 0 → s.dev.imageRuns = true → s.dev.m0Protected = true →
   s.dev.get SPI_M0CMD_ADDR_BYTES ≠ 0 → s.dev.inRunSlot (s.dev.get SPI_M0ADDR % 2 ^ 32) = true →
   Completes (.m0Go) s fun t => t.dev.get SPI_M0CTL_RESULT = 2 ∧ t.dev.get SPI_M0CTL_BUSY = 0 ∧
   Counted SYS_IMGSTAT_RUNSLOT_WR s t) ∧
  (∀ (s : State), s.inUse → s.dev.get SPI_M0CTL_BUSY = 0 → s.dev.imageRuns = true → s.dev.m0Protected = true →
   s.dev.get SPI_M0CMD_ADDR_BYTES = 0 → Completes (.m0Go) s fun t => t.dev.get SPI_M0CTL_RESULT = 3 ∧
   t.dev.get SPI_M0CTL_BUSY = 0 ∧ Counted SYS_IMGSTAT_RUNSLOT_WR s t) ∧
  (∀ (s : State), s.inUse → s.dev.get SPI_M0CTL_BUSY = 0 → s.dev.m0Protected = false →
   Completes (.m0Go) s fun t => t.dev.get SPI_M0CTL_RESULT = 0 ∧ t.dev.get SPI_M0CTL_BUSY = 1 ∧
   t.dev.reg A_SYS_IMGSTAT = s.dev.reg A_SYS_IMGSTAT) ∧
  (∀ (s : State) (map : BitVec 64) (prot : BitVec 64), s.allClocks → s.dev.boot.stage = 2 →
   s.dev.boot.heldReset = false → s.dev.boot.tried = 0 → s.dev.get SYS_IMGCTL_NEXT_SLOT = 1 →
   frontCause s.flash 0 = 0 → Completes (.headerCheckDone true map prot) s fun t => t.dev.reg A_SPI_M0PROT = prot)

/-- A KIND below 0x80 is refused and counted in FW_REF, and changes nothing else. A KIND of 0x80 to 0xFF queues, while
fewer than 24 entries wait, one entry with the instant of the write as its stamp, JNL_FWDATA0 to JNL_FWDATA4 as its
data and the writer as its origin: a lockstep pair, a split core, a host on SPIH or the debug module. It completes
(exec answers a next state): jnlFwcmd. -/
def Obligations.FirmwareJournalEntries : Prop :=
  (∀ (s : State) (o : Origin) (k : BitVec 8), s.accesses o → k.toNat < 0x80 →
   Completes (.jnlFwcmd o k) s fun t => t = { s with dev := s.dev.count JNL_CNT_FW_REF }) ∧
  (∀ (s : State) (o : Origin) (k : BitVec 8), s.accesses o → 0x80 ≤ k.toNat → s.dev.jnl.budget = none →
   s.dev.jnl.queue.length < 24 →
   Completes (.jnlFwcmd o k) s fun t => t.dev.jnl.queue = s.dev.jnl.queue ++ [{ stamp := s.dev.time, tepoch := s.dev.get DTM_STAT_TEPOCH, source := 0xFFFF, kind := k.toNat, origin := originCode o, data := (List.range 5).map fun i => s.dev.reg (A_JNL_FWDATA i), born := s.dev.mono }] ∧
   t.dev.get JNL_STAT_QLEVEL = (s.dev.jnl.queue.length + 1) % 2 ^ JNL_STAT_QLEVEL.w) ∧
  (∀ (p : Fin 2) (c : Fin 4), originCode (.pair p) = 2 + p.val ∧ originCode (.core c) = 4 + c.val ∧
   originCode .host = 8 ∧ originCode .debug = 9)

/-- In band r, r = 256, 64, 16, 4 or 1 microsteps per full step, the step D is 256 / r table entries and the address of
count c is D times the largest whole number not above c / D + 1/2, modulo 1,024; it is always within D / 2 of the
count modulo 1,024. A coil takes as its target the table entry at that address, for coil B the one 256 further on,
times the current in force (Dev.coilTarget, R247). -/
def Obligations.MicrostepTableAddress : Prop :=
  (∀ (b : Nat), b ≤ 4 → bandStep b = 256 / 4 ^ (4 - b)) ∧
  (∀ (b : Nat) (c k : Int), b ≤ 4 → 2 * (bandStep b : Int) * k ≤ 2 * c + bandStep b →
    2 * c + bandStep b < 2 * (bandStep b : Int) * (k + 1) → (bandAddr b c : Int) = (bandStep b : Int) * k % 1024) ∧
  (∀ (b : Nat) (c : Int), b ≤ 4 → ∃ m : Int, bandAddr b c < 1024 ∧
    -(bandStep b : Int) ≤ 2 * ((bandAddr b c : Int) + 1024 * m - c) ∧ 2 * ((bandAddr b c : Int) + 1024 * m - c) ≤ bandStep b) ∧
  (∀ (d : Dev) (n : Fin 12) (r : Nat) (c : Int) (b : Bool), r ≤ 4 →
    (d.set (STP_STAT_ADDR n) (bandAddr r c)).coilTarget n b =
      (d.coilI n : Int) * d.coilTab (bandAddr r c + if b then 256 else 0)) ∧
  (∀ (d : Dev) (n : Fin 12) (b low : Bool), ((d.coilTick n b low).coil n b).tgt = d.coilTarget n b)

/-- A frame that a filter of ACTION 2 takes goes to the lowest-numbered slot whose FULL bit is clear: its bytes stand in
the slot, FULL sets and the controller's own source HP is raised. With all four slots full it is dropped, counted in
HP_OVF and raises HP_OVF, no memory changes and it never goes to the FIFO. A slot is freed by writing 1 to its FULL
bit. It completes (exec answers a next state): hpSlotFree. -/
def Obligations.HighPrioritySlots : Prop :=
  (∀ (s : State) (n : Fin 4) (f : CanFrame) (stamp : Nat) (k : Fin 128), (List.range 128).find? (fun k => s.dev.canMatch n k f) = some k.val →
   s.dev.get (CAN_FLT_ACT n k) = 2 → s.canFilter n f stamp = s.canSlot n f stamp k) ∧
  (∀ (s : State) (n : Fin 4) (f : CanFrame) (stamp : Nat) (flt : Nat) (k : Fin 4), (∀ j, j < k.val →
   s.dev.tb (CAN_HP_FULL n) j = true) → s.dev.tb (CAN_HP_FULL n) k = false →
   s.canSlot n f stamp flt = { s with mem := wrBytes s.mem (canHp n k) (canBytes f stamp flt), dev := (s.dev.setBits (CAN_HP_FULL n) (2 ^ k.val)).raise (canSrc n 3) }) ∧
  (∀ (s : State) (n : Fin 4) (f : CanFrame) (stamp : Nat) (flt : Nat), s.dev.get (CAN_HP_FULL n) = 15 →
   (s.canSlot n f stamp flt).mem = s.mem ∧
   (s.canSlot n f stamp flt).dev.get (CAN_CNT_HP_OVF n) = min (s.dev.get (CAN_CNT_HP_OVF n) + 1) (2 ^ (CAN_CNT_HP_OVF n).w - 1) ∧
   (s.canSlot n f stamp flt).dev.reg (A_CAN_RXF n) = s.dev.reg (A_CAN_RXF n) ∧
   (Tab.find (fun _ => 0) s.dev.lims (canSrc n 4 * 16) = 0 → Raised (canSrc n 4) s (s.canSlot n f stamp flt))) ∧
  (∀ (s : State) (n : Fin 4) (mask : BitVec 4), s.inUse →
   Completes (.hpSlotFree n mask) s fun t => (∀ j : Fin 4, t.dev.tb (CAN_HP_FULL n) j = (s.dev.tb (CAN_HP_FULL n) j && !mask.getLsbD j)))

/-- For a cause raised at most once per T ns: the first occurrence raises the source; after a raise, an occurrence raises
it again only if T has passed since that raise, and one inside the interval changes nothing: no pending bit, no stamp,
no Spool record, no trigger, no COALESCED count. That the limit runs for each source and kind of cause, and that an
occurrence exactly at the end of the interval raises, is the choice of log entry 61. -/
def Obligations.RateLimitedSources : Prop :=
  (∀ (d : Dev) (k : Nat) (c : Nat) (T : Nat), Tab.find (fun _ => 0) d.lims (k * 16 + c) = 0 →
   (d.raiseLim k c T).reg (A_EVR_STAMP k) = BitVec.ofNat 64 d.time ∧
   Tab.find (fun _ => 0) (d.raiseLim k c T).lims (k * 16 + c) = d.time + 1) ∧
  (∀ (d : Dev) (k : Nat) (c : Nat) (T : Nat) (last : Nat), Tab.find (fun _ => 0) d.lims (k * 16 + c) = last + 1 →
   last + T ≤ d.time → (d.raiseLim k c T).reg (A_EVR_STAMP k) = BitVec.ofNat 64 d.time ∧
   Tab.find (fun _ => 0) (d.raiseLim k c T).lims (k * 16 + c) = d.time + 1) ∧
  (∀ (d : Dev) (k : Nat) (c : Nat) (T : Nat) (last : Nat), Tab.find (fun _ => 0) d.lims (k * 16 + c) = last + 1 →
   d.time < last + T → d.raiseLim k c T = d)

/-- From each stage of the local start the command that ends it answers the next stage: Thimble boot releases the
application side, a header that passes its checks is staged, the stream gives the digest, an accepted signature goes
to activation with CAUSE 1, activation sets IMG_OK and names the running image, READY enters RUN, and a VERIFY of a
slot that fails records its CAUSE. Each is said under conditions on the state and the operands alone: power, the clock
of the block, an active image or a running origin where the command needs them, and what its rules ask. Constructors
that complete (exec answers a next state): thimbleBootDone, headerCheckDone, imageStreamDone, signatureCheckDone,
activation, readySet, verify, verifyDone. -/
def Obligations.LocalStartComplete : Prop :=
  (∀ (s : State) (safe1 : Bool) (safe2 : Bool) (cal1 : Bool) (cal2 : Bool) (torn : Bool), s.powered →
   s.dev.boot.stage = 1 → s.dev.boot.heldReset = false →
   Completes (.thimbleBootDone true safe1 safe2 cal1 cal2 torn) s fun t => t.dev.boot.stage = 2 ∧
   t.dev.get SYS_CLKSTAT_PLLA_ST ≠ 0 ∧ t.dev.get SYS_CLKSTAT_PLLB_ST ≠ 0 ∧ t.dev.get SYS_CLKSTAT_PLLC_ST ≠ 0) ∧
  (∀ (s : State) (safe1 : Bool) (safe2 : Bool) (cal1 : Bool) (cal2 : Bool) (torn : Bool), s.powered →
   s.dev.boot.stage = 1 → s.dev.boot.heldReset = false →
   Completes (.thimbleBootDone false safe1 safe2 cal1 cal2 torn) s fun t => t.dev.boot.stage = 1 ∧
   t.dev.boot.heldReset = true ∧ t.dev.thm.fnHold = true ∧ t.dev.regs = s.dev.regs) ∧
  (∀ (s : State) (map : BitVec 64) (prot : BitVec 64), s.allClocks → s.dev.boot.stage = 2 →
   s.dev.boot.heldReset = false → s.dev.boot.tried = 0 → s.dev.get SYS_IMGCTL_NEXT_SLOT = 1 →
   frontCause s.flash 0 = 0 → Completes (.headerCheckDone true map prot) s fun t => t.dev.boot.stage = 3 ∧
   t.dev.boot.slot = 0 ∧ t.dev.boot.imgLen = (readHeader s.flash 0).imgLen ∧ t.dev.get SYS_IMGCTL_NEXT_SLOT = 0 ∧
   t.dev.reg A_SPI_M0MAP = map) ∧
  (∀ (s : State) (c : ImgContent), s.allClocks → s.dev.boot.stage = 3 → s.dev.boot.heldReset = false →
   Completes (.imageStreamDone true c) s fun t => t.dev.boot.stage = 4 ∧ t.dev.boot.staged = c ∧
   t.dev.boot.digest = slotDigest s.flash s.dev.boot.slot) ∧
  (∀ (s : State), s.allClocks → s.dev.boot.stage = 4 → s.dev.boot.heldReset = false → s.dev.boot.slot = 0 →
   s.dev.tailCause s.flash s.dev.boot.slot s.dev.boot.digest s.dev.boot.staged = 1 →
   Completes (.signatureCheckDone) s fun t => t.dev.boot.stage = 5 ∧ t.dev.get SYS_IMGSTAT_A_CAUSE = 1) ∧
  (∀ (s : State), s.allClocks → s.dev.boot.stage = 5 → s.dev.boot.heldReset = false → s.dev.boot.slot ≤ 1 →
   3 ≤ s.dev.get ADC_REFSTAT_STATE → Completes (.activation) s fun t => t.dev.boot.stage = 6 ∧
   t.dev.boot.runSects = s.dev.boot.sects ∧ t.dev.boot.staged = {} ∧ t.dev.img = imgNames s.dev.boot.staged ∧
   t.dev.get SYS_IMGSTAT_IMG_OK = 1 ∧ t.dev.get SYS_IMGSTAT_SLOT = s.dev.boot.slot) ∧
  (∀ (s : State), s.allClocks → s.dev.boot.stage = 6 → s.dev.boot.heldReset = false →
   Completes (.readySet) s fun t => t.dev.get SYS_PWRSTATE_READY = 1 ∧ t.dev.get SYS_PWRSTATE_STATE = 2 ∧
   t.dev.boot.stage = 7) ∧
  (∀ (s : State), s.inUse → s.dev.get SYS_IMGCTL_VERIFY_BUSY = 0 → s.dev.boot.recovery = false →
   s.dev.imageRuns = true → Completes (.verify) s fun t => t.dev.get SYS_IMGCTL_VERIFY_BUSY = 1) ∧
  (∀ (s : State) (c : ImgContent), s.clocked 0 → s.dev.get SYS_IMGCTL_VERIFY_BUSY = 1 →
   s.dev.get SYS_IMGSTAT_SLOT = 0 → frontCause s.flash 1 ≠ 0 →
   Completes (.verifyDone true c) s fun t => t.dev.get SYS_IMGCTL_VERIFY_BUSY = 0 ∧
   t.dev.get SYS_IMGSTAT_B_CAUSE = frontCause s.flash 1) ∧
  (∀ (s : State) (c : ImgContent), s.clocked 0 → s.dev.get SYS_IMGCTL_VERIFY_BUSY = 1 →
   s.dev.get SYS_IMGSTAT_SLOT = 1 → Completes (.verifyDone false c) s fun t => t.dev.get SYS_IMGCTL_VERIFY_BUSY = 0 ∧
   t.dev.get SYS_IMGSTAT_A_CAUSE = 9)

/-- Rows of the field-output table: an allowed MODE drives an OFF output, a limit, its end, its expiry into WAIT with
cause, latch bit and event, the retries and their reset, the latch clear; a bank supply fault and its end, the
aggregate report, and a filtered digital input edge. FO14 and FO15 take these rows as log entry 74 says. Each is said
under conditions on the state and the operands alone: power, the clock of the block, an active image or a running
origin where the command needs them, and what its rules ask. Constructors that complete (exec answers a next state):
foModeWrite, foCurrentLimitReached, foCurrentBelowLimit, foLimitTimerExpire, foOvertemperature, foRetryTimerExpire,
foRetryReset, foLatchClear, bankSupplyFault, bankSupplyRecovered, aggOver, diFilteredEdge, diRawEdge. -/
def Obligations.FieldOutputsComplete : Prop :=
  (∀ (s : State) (n : Fin 14) (m : BitVec 3), s.inUse → s.dev.get (FIO_OSTAT_STATE n) = 0 → 1 ≤ m.toNat →
   m.toNat ≤ 4 → s.dev.tb (HEM_FOALLOW_ALLOW n) (m.toNat - 1) = true → s.dev.foHeld n = false →
   Completes (.foModeWrite ⟨n, by omega⟩ m) s fun t => t.dev.get (FIO_OSTAT_STATE n) = 1 ∧
   (t.dev.foAt n).drive = m.toNat ∧ t.dev.get (FIO_OUTCFG_MODE n) = m.toNat) ∧
  (∀ (s : State) (n : Fin 14), s.inUse → s.dev.get (FIO_OSTAT_STATE n) = 1 →
   Completes (.foModeWrite ⟨n, by omega⟩ 0) s fun t => t.dev.get (FIO_OSTAT_STATE n) = 0 ∧ (t.dev.foAt n).drive = 0 ∧
   t.dev.get (FIO_OUTCFG_MODE n) = 0) ∧
  (∀ (s : State) (n : Fin 16) (ma : BitVec 16), s.powered → s.dev.get (FIO_OSTAT_STATE n) = 1 →
   6000 ≤ ma.toInt.natAbs → Completes (.foCurrentLimitReached n ma) s fun t => t.dev.get (FIO_OSTAT_STATE n) = 2 ∧
   t.dev.get (FIO_OSTAT_LIMIT n) = 1 ∧ t.dev.get (FIO_OSTAT_CURRENT n) = ma.toNat) ∧
  (∀ (s : State) (n : Fin 16) (ma : BitVec 16), s.powered → s.dev.get (FIO_OSTAT_STATE n) = 2 →
   ma.toInt.natAbs < 6000 → Completes (.foCurrentBelowLimit n ma) s fun t => t.dev.get (FIO_OSTAT_STATE n) = 1 ∧
   t.dev.get (FIO_OSTAT_LIMIT n) = 0 ∧ Counted FIO_CNT_LIMIT_EVT s t) ∧
  (∀ (s : State) (n : Fin 14), s.powered → s.dev.get (FIO_OSTAT_STATE n) = 2 → s.dev.get (FIO_OSTAT_RETRIES n) < 3 →
   ((List.range 14).all fun m => decide ((s.dev.foAt m).latchAt = none)) = true →
   Completes (.foLimitTimerExpire ⟨n, by omega⟩) s fun t => t.dev.get (FIO_OSTAT_STATE n) = 3 ∧
   t.dev.get (FIO_OSTAT_CAUSE n) = s.dev.foShort n ∧ t.dev.tb FIO_FLT_LATCH n = true ∧ Raised (712 + n / 4) s t) ∧
  (∀ (s : State) (n : Fin 14) (ma : BitVec 16), s.powered → s.dev.get (FIO_OSTAT_STATE n) = 1 →
   s.dev.get (FIO_OSTAT_RETRIES n) = 3 →
   Completes (.foOvertemperature (⟨n, by omega⟩, ma)) s fun t => t.dev.get (FIO_OSTAT_STATE n) = 4 ∧
   t.dev.get (FIO_OSTAT_CAUSE n) = 4 ∧ t.dev.tb FIO_FLT_LATCH n = true ∧ Raised (712 + n / 4) s t) ∧
  (∀ (s : State) (n : Fin 14), s.powered → s.dev.get (FIO_OSTAT_STATE n) = 3 → s.dev.foMode n ≠ 0 →
   s.dev.get (FIO_OSTAT_RETRIES n) < 3 →
   Completes (.foRetryTimerExpire n) s fun t => t.dev.get (FIO_OSTAT_STATE n) = 1 ∧
   t.dev.get (FIO_OSTAT_RETRIES n) = s.dev.get (FIO_OSTAT_RETRIES n) + 1 ∧ Counted FIO_CNT_RETRY s t ∧
   (t.dev.foAt n).drive = s.dev.foMode n) ∧
  (∀ (s : State) (n : Fin 14), s.powered → s.dev.get (FIO_OSTAT_STATE n) = 1 →
   Completes (.foRetryReset n) s fun t => t.dev.get (FIO_OSTAT_RETRIES n) = 0) ∧
  (∀ (s : State) (n : Fin 14), s.inUse → s.dev.get (FIO_OSTAT_STATE n) = 4 → s.dev.foMode n = 0 →
   s.dev.foHeld n = false →
   Completes (.foLatchClear (BitVec.ofNat 14 (2 ^ n.val))) s fun t => t.dev.get (FIO_OSTAT_STATE n) = 0 ∧
   t.dev.tb FIO_FLT_LATCH n = false ∧ t.dev.get (FIO_OSTAT_RETRIES n) = 0) ∧
  (∀ (s : State) (b : Fin 4) (high : Bool) (v : BitVec 16), s.powered →
   (if high then 3400 < v.toNat else v.toNat < 1600) →
   Completes (.bankSupplyFault b high v) s fun t => t.dev.get (vfFld b) = v.toNat ∧
   t.dev.tb (if high then FIO_FLT_VF_OV else FIO_FLT_VF_UV) b = true ∧ t.dev.fio.bankFault.testBit b = true ∧
   Raised (716 + b) s t) ∧
  (∀ (s : State) (b : Fin 4) (v : BitVec 16), s.powered → 1700 ≤ v.toNat → v.toNat ≤ 3300 →
   Completes (.bankSupplyRecovered b v) s fun t => t.dev.get (vfFld b) = v.toNat ∧
   t.dev.fio.bankFault.testBit b = false) ∧
  (∀ (s : State), s.powered → Completes (.aggOver) s fun t => t.dev.get FIO_FLT_AGG_OVER = 1 ∧ Raised 720 s t) ∧
  (∀ (s : State) (n : Fin 32), s.powered → s.dev.tb FIO_IN_RAW n = true → s.dev.tb FIO_IN_LEVEL n = false →
   s.dev.tb FIO_DIEDGE_RISE_EN n = true → Completes (.diFilteredEdge n) s fun t => t.dev.tb FIO_IN_LEVEL n = true ∧
   Raised (680 + n) s t) ∧
  (∀ (s : State) (n : Fin 32), s.powered → s.dev.tb FIO_IN_RAW n = false → s.dev.tb FIO_IN_LEVEL n = false →
   s.dev.get FIO_DIFILT_FILT / 2 ^ (8 * (n.val / 8)) % 256 ≠ 0 →
   Completes (.diRawEdge n true) s fun t => t.dev.tb FIO_IN_RAW n = true ∧ t.dev.tb FIO_IN_LEVEL n = false ∧
   t.dev.fio.running.testBit n = true)

/-- EVR_ACK clears its pending bit and counts the delivery, 1s written to EVR_PEND clear exactly their bits, the journal
writes the first eligible entry with its number and the 60 bytes of R440 at its place in the ring, a firmware entry of
KIND 0x80 or above is queued, and a missing time source leads to HOLDOVER with event 751. Each is said under
conditions on the state and the operands alone: power, the clock of the block, an active image or a running origin
where the command needs them, and what its rules ask. Constructors that complete (exec answers a next state): evrAck,
evrPendClear, journalEntryWrite, jnlFwcmd, dtmHoldover. -/
def Obligations.EventJournalTimeComplete : Prop :=
  (∀ (s : State) (n : Fin 6) (k : BitVec 10), s.inUse → k.toNat < 768 → s.dev.get (evrBit n k.toNat) = 1 →
   Completes (.evrAck n k) s fun t => t.dev.get (evrBit n k.toNat) = 0 ∧ Counted (EVR_CNT_DELIVERED n) s t) ∧
  (∀ (s : State) (n : Fin 6) (j : Fin 12) (mask : BitVec 64), s.inUse →
   Completes (.evrPendClear n j mask) s fun t => t.dev.reg (A_EVR_PEND n j) = s.dev.reg (A_EVR_PEND n j) &&& ~~~mask) ∧
  (∀ (s : State) (e : JEntry), s.powered → s.dev.jnlNext = some e → s.dev.per.jnlNum < 2 ^ 32 →
   Completes (.journalEntryWrite) s fun t => t.dev.get JNL_STAT_NEWEST = s.dev.per.jnlNum ∧
   rdBytes t.mem (0x20000000 + 64 * (s.dev.per.jnlNum % 32768)) 60 = journalBody e s.dev.per.jnlNum (s.dev.jnlFlags e) ∧
   t.dev.per.jnlNum = s.dev.per.jnlNum + 1) ∧
  (∀ (s : State) (o : Origin) (k : BitVec 8), s.accesses o → 0x80 ≤ k.toNat → s.dev.jnl.budget = none →
   s.dev.jnl.queue.length < 24 →
   Completes (.jnlFwcmd o k) s fun t => t.dev.jnl.queue.length = s.dev.jnl.queue.length + 1 ∧
   (t.dev.jnl.queue.getLast?.map fun e => (e.kind, e.source, e.origin)) = some (k.toNat, 0xFFFF, originCode o) ∧
   t.dev.get JNL_STAT_QLEVEL = s.dev.jnl.queue.length + 1) ∧
  (∀ (s : State), s.powered → (s.dev.get DTM_STAT_STATE = 1 ∨ s.dev.get DTM_STAT_STATE = 2) →
   Completes (.dtmHoldover) s fun t => t.dev.get DTM_STAT_STATE = 3 ∧ Counted DTM_CNT_HOLDOVERS s t ∧ Raised 751 s t)

/-- A counted aperture emits its record, a registered trigger and the first aperture at its delay begin a slot, the last
aperture completes it and the next entry becomes current, the result is published in the entry's register, an urgent
request interrupts a waiting converter and its completion writes the urgent result, and sequences start and stop. Each
is said under conditions on the state and the operands alone: power, the clock of the block, an active image or a
running origin where the command needs them, and what its rules ask. Constructors that complete (exec answers a next
state): sampleRecord, slotTrigger, slotFirstAperture, slotComplete, slotResultPublish, urgentRequest,
urgentSlotComplete, adcRunStart, adcRunStop. -/
def Obligations.ConvertersComplete : Prop :=
  (∀ (s : State) (n : Fin 8) (v : Conv), s.clocked 2 → s.dev.adcState n = 2 → (s.dev.adcAt n).blank = 0 →
   s.dev.get (ADC_STAT_SAMPLE n) < s.dev.adcWant n →
   Completes (.sampleRecord n v) s fun t => t.dev.reg (A_ADC_LAST n) = s.dev.adcRecord n v ∧
   t.dev.get (ADC_STAT_SAMPLE n) = s.dev.get (ADC_STAT_SAMPLE n) + 1) ∧
  (∀ (s : State) (n : Fin 8) (k : Fin 4), s.clocked 2 → s.dev.adcState n = 1 → k.val ≠ 0 →
   s.dev.get (ADC_SEQ_TRIG n (s.dev.get (ADC_STAT_ENTRY n))) = k → (s.dev.adcAt n).restart = false →
   Completes (.slotTrigger n k) s fun t => (t.dev.adcAt n).trig = true ∧ t.dev.regs = s.dev.regs) ∧
  (∀ (s : State) (n : Fin 8) (clocks : BitVec 32) (v : Conv), s.clocked 2 → s.dev.adcState n = 1 →
   (s.dev.adcAt n).blank = 0 → (s.dev.adcAt n).trig = true →
   s.dev.get (ADC_SEQ_DELAY n (s.dev.get (ADC_STAT_ENTRY n))) + 1 = clocks.toNat →
   s.dev.get (ADC_SEQ_COUNT n (s.dev.get (ADC_STAT_ENTRY n))) ≠ 0 →
   Completes (.slotFirstAperture n clocks v) s fun t => t.dev.get (ADC_STAT_STATE n) = 2 ∧
   t.dev.get (ADC_STAT_SAMPLE n) = 1 ∧ t.dev.get (ADC_CNT_TRIG_LATE n) = s.dev.get (ADC_CNT_TRIG_LATE n)) ∧
  (∀ (s : State) (n : Fin 8), s.clocked 2 → s.dev.adcState n = 2 → s.dev.adcWant n ≤ s.dev.get (ADC_STAT_SAMPLE n) →
   (s.dev.adcAt n).queue = [] → s.dev.bit (ADC_SEQ_LAST n (s.dev.get (ADC_STAT_ENTRY n))) = true →
   Completes (.slotComplete n) s fun t => t.dev.get (ADC_STAT_STATE n) = 1 ∧ t.dev.get (ADC_STAT_ENTRY n) = 0 ∧
   Raised (adcSrc n 1) s t ∧
   (t.dev.adcAt n).pub = (s.dev.adcAt n).pub ++ [((s.dev.get (ADC_STAT_ENTRY n)), s.dev.adcResult n (s.dev.get (ADC_SEQ_INPUT n (s.dev.get (ADC_STAT_ENTRY n)))) false)]) ∧
  (∀ (s : State) (n : Fin 8) (k : Fin 64) (r : BitVec 64) (q : List (Nat × BitVec 64)), s.clocked 2 →
   (s.dev.adcAt n).pub = (k.val, r) :: q →
   Completes (.slotResultPublish n) s fun t => t.dev.reg (A_ADC_RES n k) = r ∧ (t.dev.adcAt n).pub = q) ∧
  (∀ (s : State) (n : Fin 8) (count : BitVec 8) (i : BitVec 4), s.inUse → s.dev.adcState n = 1 → count.toNat ≠ 0 →
   adcConn n i.toNat = true → (s.dev.adcAt n).queue = [] → (6 ≤ n.val ∨ s.dev.adcFeeds n = false) →
   s.dev.clk 2 = true → Completes (.urgentRequest n count i) s fun t => t.dev.get (ADC_STAT_STATE n) = 3 ∧
   t.dev.get (ADC_STAT_SAMPLE n) = 0 ∧ (t.dev.adcAt n).urg = some (0, i.toNat, count.toNat)) ∧
  (∀ (s : State) (n : Fin 8) (i : Nat) (c : Nat), s.clocked 2 → (s.dev.adcAt n).urg = some (0, i, c) →
   s.dev.adcState n = 3 → c ≤ s.dev.get (ADC_STAT_SAMPLE n) → (s.dev.adcAt n).queue = [] →
   Completes (.urgentSlotComplete n) s fun t => t.dev.reg (A_ADC_URGRES n) = s.dev.adcResult n i true ∧
   t.dev.get (ADC_STAT_STATE n) = 1 ∧ (t.dev.adcAt n).urg = none ∧ Raised (adcSrc n 2) s t) ∧
  (∀ (s : State) (n : Fin 8), s.inUse → s.dev.get (ADC_CTL_RUN n) = 0 → s.dev.adcSeqOk n = true →
   s.dev.adcState n = 0 → s.dev.refReady = true →
   Completes (.adcRunStart n) s fun t => t.dev.get (ADC_CTL_RUN n) = 1 ∧ t.dev.get (ADC_STAT_STATE n) = 1 ∧
   t.dev.get (ADC_STAT_ENTRY n) = 0) ∧
  (∀ (s : State) (n : Fin 8), s.inUse → s.dev.get (ADC_CTL_RUN n) = 1 →
   (s.dev.adcState n = 1 ∨ s.dev.adcState n = 2) → s.dev.adcFeeds n = false →
   Completes (.adcRunStop n) s fun t => t.dev.get (ADC_CTL_RUN n) = 0 ∧ t.dev.get (ADC_STAT_STATE n) = 0 ∧
   t.dev.get (ADC_STAT_URGQ n) = 0)

/-- A reference change from READY settles again, a settled reference inside its window starts the calibration of all
converters, one outside it in two compares in a row is FAULT (the compare of log entry 110), one outside it once only
shows, a calibration that passes sets VALID and CAL_VALID, the trim starts and stores its result, and an AUX scan
starts and moves on with each entry. Each is said under conditions on the state and the operands alone: power, the
clock of the block, an active image or a running origin where the command needs them, and what its rules ask.
Constructors that complete (exec answers a next state): refSelect, referenceSettled, referenceOutOfWindow,
adcCalStart, calibrationEnd, adcTrimStart, adcTrimDone, auxScanStart, auxEntryDone. -/
def Obligations.ReferenceAndAuxComplete : Prop :=
  (∀ (s : State) (sel : BitVec 2), s.inUse → s.dev.adcAllStopped = true →
   (s.dev.get ADC_REFSTAT_STATE = 3 ∨ s.dev.get ADC_REFSTAT_STATE = 4) →
   Completes (.refSelect sel) s fun t => t.dev.get ADC_REFCFG_SEL = sel.toNat ∧ t.dev.get ADC_REFSTAT_STATE = 1 ∧
   t.dev.get ADC_REFSTAT_REF_SETTLED = 0 ∧ t.dev.get ADC_CALSTAT_VALID = 0 ∧ Raised (adcSrc 0 8) s t) ∧
  (∀ (s : State) (mv : BitVec 16), s.powered → s.dev.get ADC_REFSTAT_STATE = 1 → s.dev.refInside mv.toNat = true →
   Completes (.referenceSettled mv) s fun t => t.dev.get ADC_REFSTAT_STATE = 2 ∧
   t.dev.get ADC_REFSTAT_REF_SETTLED = 1 ∧ t.dev.get ADC_CALSTAT_BUSY = 255 ∧ t.dev.get ADC_REFSTAT_REF_MV = mv.toNat) ∧
  (∀ (s : State) (mv : BitVec 16), s.powered → s.dev.get ADC_REFSTAT_STATE = 3 → s.dev.refOut = true →
   s.dev.refInside mv.toNat = false →
   Completes (.referenceOutOfWindow mv) s fun t => t.dev.get ADC_REFSTAT_STATE = 4 ∧
   t.dev.get ADC_REFSTAT_REF_SETTLED = 0 ∧ Counted ADC_REFSTAT_FAULTS s t ∧ t.dev.get ADC_REFSTAT_REF_MV = mv.toNat) ∧
  (∀ (s : State) (mv : BitVec 16), s.powered → s.dev.refOut = false →
   Completes (.referenceOutOfWindow mv) s fun t => t.dev.get ADC_REFSTAT_REF_MV = mv.toNat ∧
   t.dev.get ADC_REFSTAT_STATE = s.dev.get ADC_REFSTAT_STATE ∧
   t.dev.get ADC_REFSTAT_FAULTS = s.dev.get ADC_REFSTAT_FAULTS) ∧
  (∀ (s : State) (n : Fin 8), s.inUse → s.dev.adcState n = 0 → s.dev.refReady = true →
   Completes (.adcCalStart (BitVec.ofNat 8 (2 ^ n.val))) s fun t => t.dev.get (ADC_STAT_STATE n) = 4 ∧
   t.dev.tb ADC_CALSTAT_BUSY n = true) ∧
  (∀ (s : State) (n : Fin 8) (w : List (BitVec 32)) (off : BitVec 32) (gain : BitVec 32), s.clocked 2 →
   s.dev.tb ADC_CALSTAT_BUSY n = true → calPasses w off gain = true →
   Completes (.calibrationEnd n w off gain) s fun t => t.dev.tb ADC_CALSTAT_BUSY n = false ∧
   t.dev.tb ADC_CALSTAT_VALID n = true ∧ t.dev.tb ADC_CALSTAT_FAIL n = false ∧ t.dev.get (ADC_STAT_CAL_VALID n) = 1 ∧
   t.dev.get (ADC_CALGAIN_GAIN n) = gain.toNat ∧ Raised (adcSrc n 6) s t) ∧
  (∀ (s : State) (o : Origin), s.accesses o → s.dev.rwsOk o = true → s.dev.get ADC_CALCTL_TRIM = 0 →
   2000000 ≤ s.dev.get ADC_TRIMV_UV → s.dev.get ADC_TRIMV_UV ≤ 3000000 → s.dev.adcAllStopped = true →
   Completes (.adcTrimStart o) s fun t => t.dev.get ADC_CALCTL_TRIM = 1) ∧
  (∀ (s : State) (code : BitVec 16), s.clocked 2 → s.dev.get ADC_CALCTL_TRIM = 1 →
   (near (s.dev.get ADC_TRIMV_UV * 32768) (32768 + code.toInt) - 2500000).natAbs ≤ 25000 →
   Completes (.adcTrimDone code) s fun t => t.dev.get ADC_CALCTL_TRIM = 0 ∧ t.dev.get ADC_CALSTAT_TRIM_RES = 1 ∧
   (t.dev.per.cal.cur.map fun c => c.refTrim) = some ((s.dev.per.cal.cur.getD {}).refTrim - (near (s.dev.get ADC_TRIMV_UV * 32768) (32768 + code.toInt) - 2500000))) ∧
  (∀ (s : State) (m : Fin 2), s.powered → s.dev.get (AUX_CTL_RUN m) = 1 → (s.dev.auxAt m).entry = none →
   Completes (.auxScanStart m) s fun t => (t.dev.auxAt m).entry = some 0 ∧ t.dev.regs = s.dev.regs) ∧
  (∀ (s : State) (m : Fin 2) (k : Fin 31) (x : List (BitVec 32)), s.powered → (s.dev.auxAt m).entry = some k.val →
   s.dev.bit (AUX_SCAN_LAST m k) = false →
   Completes (.auxEntryDone m x) s fun t => (t.dev.auxAt m).entry = some (k.val + 1) ∧
   (t.dev.reg (A_AUX_RES m k)).toNat / 2 ^ 16 % 32 = s.dev.get (AUX_SCAN_INPUT m k) % 32)

/-- Excitation marks open a resolver pair, a time-out drops it, quadrature edges count in the direction of log entry 30,
an index and an encoder measurement are taken, serial frames start and end with a reading or its fault cause, VENC
overcurrent is an immediate sensor fault, and clearing faults clears exactly the bits whose cause has gone. OPEN moves
to SLS at its speed with a valid estimate and to LOST at its time-out, SLS is LOST at low speed, a disagreement is
flagged, and the saturation-pulse start checks standstill, takes its pulses and moves on after each decay. Each is
said under conditions on the state and the operands alone: power, the clock of the block, an active image or a running
origin where the command needs them, and what its rules ask. Constructors that complete (exec answers a next state):
posFaultClear, excitationMark, resolverPairTimeout, encoderEdge, encoderMeasurement, index, serialFrameStart,
serialFrameComplete, sscStartBitTimeout, vencOvercurrent, openToSls, openTimeout, slsLowSpeed, disagree,
standstillCheckEnd, satPulseEnd, pulseDecayEnd. -/
def Obligations.PositionCommandsComplete : Prop :=
  (∀ (s : State) (p : Fin 4) (mask : BitVec 13), s.inUse →
   Completes (.posFaultClear p mask) s fun t => ((List.range 12).all fun i => t.dev.tb (POS_FLT_CAUSE p) i == (s.dev.tb (POS_FLT_CAUSE p) i && !(mask.getLsbD i && !(s.dev.posLive p).testBit i))) = true ∧
   (mask.getLsbD 12 = true → t.dev.get (POS_FLT_DISAGREE p) = 0)) ∧
  (∀ (s : State) (p : Fin 2) (pol : Bool), s.clocked 2 → s.dev.get (POS_CFG_MODE p) = 1 →
   Completes (.excitationMark pol) s fun t => (t.dev.posAt p).pairOpen = true ∧
   (t.dev.posAt p).markPol = (if pol then 1 else -1) ∧ (t.dev.posAt p).gotS = none ∧ t.dev.regs = s.dev.regs) ∧
  (∀ (s : State) (p : Fin 2), s.clocked 2 → (s.dev.posAt p).pairOpen = true →
   Completes (.resolverPairTimeout p) s fun t => (t.dev.posAt p).pairOpen = false ∧
   Counted (POS_CNT_DROP_PAIR p) s t ∧ Counted (POS_CNT_BAD_READ p) s t) ∧
  (∀ (s : State) (p : Fin 4) (a : Bool) (b : Bool), s.clocked 2 → s.dev.get (POS_CFG_MODE p) = 2 →
   (s.dev.posAt p).abz ≠ a.toNat + 2 * b.toNat → (s.dev.posAt p).abz + (a.toNat + 2 * b.toNat) ≠ 3 →
   Completes (.encoderEdge p a b) s fun t => (t.dev.posAt p).abz = a.toNat + 2 * b.toNat ∧
   (t.dev.posAt p).count = (s.dev.posAt p).count + quadStep (s.dev.posAt p).abz (a.toNat + 2 * b.toNat) ∧
   t.dev.regs = s.dev.regs) ∧
  (∀ (s : State) (p : Fin 4), s.clocked 2 → s.dev.get (POS_CFG_MODE p) = 2 → (s.dev.posAt p).init = false →
   s.dev.get (POS_STAT_SRC p) ≠ 3 → Completes (.encoderMeasurement p) s fun t => (t.dev.posAt p).init = true ∧
   (t.dev.posAt p).bad = 0 ∧ (t.dev.posAt p).tk = s.dev.mono ∧ t.dev.reg (A_POS_TST p) = BitVec.ofNat 64 s.dev.time) ∧
  (∀ (s : State) (p : Fin 4), s.clocked 2 → s.dev.get (POS_CFG_MODE p) = 2 → (s.dev.posAt p).abz = 3 →
   s.dev.get (POS_STAT_INDEXED p) = 0 → Completes (.index p) s fun t => t.dev.get (POS_STAT_INDEXED p) = 1 ∧
   (t.dev.posAt p).lastIndex = (s.dev.posAt p).count ∧
   ((s.dev.posAt p).count + (t.dev.posAt p).shift) % s.dev.posCpr p = 0 ∧ Raised (posEv p 0) s t) ∧
  (∀ (s : State) (p : Fin 4), s.clocked 2 → (s.dev.get (POS_CFG_MODE p) = 3 ∨ s.dev.get (POS_CFG_MODE p) = 4) →
   (s.dev.posAt p).frameAt = none → s.dev.get (POS_ENC_FRAME_SYNC p) = 0 →
   Completes (.serialFrameStart p) s fun t => (t.dev.posAt p).frameAt = some s.dev.mono ∧ t.dev.regs = s.dev.regs) ∧
  (∀ (s : State) (p : Fin 4), s.clocked 2 → s.dev.get (POS_ENC_FRAME_SYNC p) = 1 →
   Completes (.serialFrameStart p) s fun t => t = s) ∧
  (∀ (s : State) (p : Fin 4) (x : Nat) (ef : Bool) (wf : Bool) (data : BitVec 40) (crc : BitVec 8), s.clocked 2 →
   s.dev.get (POS_CFG_MODE p) = 3 → (s.dev.posAt p).frameAt = some x → (s.dev.posAt p).init = false →
   s.dev.get (POS_ENC_GRAY p) = 0 →
   Completes (.serialFrameComplete p true ef wf data crc) s fun t => (t.dev.posAt p).frameAt = none ∧
   (t.dev.posAt p).init = true ∧
   (t.dev.posAt p).lastRead = some (ratioQ (data.toNat % 2 ^ s.dev.encBits p : Nat) (2 ^ s.dev.encSt p)) ∧
   (t.dev.posAt p).lastReadAt = x) ∧
  (∀ (s : State) (p : Fin 4) (x : Nat) (idle : Bool) (wf : Bool) (data : BitVec 40) (crc : BitVec 8), s.clocked 2 →
   s.dev.get (POS_CFG_MODE p) = 4 → (s.dev.posAt p).frameAt = some x → (s.dev.posAt p).init = false →
   crc8Bits (false :: wf :: bitsDown (s.dev.encBits p) (data.toNat % 2 ^ s.dev.encBits p)) = crc.toNat →
   Completes (.serialFrameComplete p idle false wf data crc) s fun t => (t.dev.posAt p).frameAt = none ∧
   (t.dev.posAt p).init = true ∧ t.dev.bit (POS_STAT_WARN p) = wf) ∧
  (∀ (s : State) (p : Fin 4), s.clocked 2 → s.dev.get (POS_CFG_MODE p) = 4 → (s.dev.posAt p).frameAt.isSome = true →
   Completes (.sscStartBitTimeout p) s fun t => (t.dev.posAt p).frameAt = none ∧
   t.dev.tb (POS_FLT_CAUSE p) 7 = true ∧ Counted (POS_CNT_BAD_READ p) s t) ∧
  (∀ (s : State) (p : Fin 4), s.powered → s.dev.get (POS_CFG_VENC_EN p) = 1 →
   Completes (.vencOvercurrent p) s fun t => t.dev.tb (POS_FLT_CAUSE p) 10 = true ∧ (t.dev.posAt p).fault = true) ∧
  (∀ (s : State) (p : Fin 4), s.powered → s.dev.get (POS_STAT_SRC p) = 2 → s.dev.estValid p = true →
   centi (s.dev.get (POS_SLS_SLS_MIN p)) ≤ 100 * ((s.dev.speedCmd p).natAbs : Int) →
   Completes (.openToSls p) s fun t => t.dev.get (POS_STAT_SRC p) = 3 ∧ Raised (posEv p 7) s t ∧
   (t.dev.posAt p).slsSpeed = s.dev.outQ (2 * s.dev.get (POS_SLS_EST_IDX p) + 1)) ∧
  (∀ (s : State) (p : Fin 4), s.powered → s.dev.get (POS_STAT_SRC p) = 2 →
   Completes (.openTimeout p) s fun t => t.dev.get (POS_STAT_SRC p) = 4 ∧ Raised (posEv p 3) s t) ∧
  (∀ (s : State) (p : Fin 4), s.powered → s.dev.get (POS_STAT_SRC p) = 3 →
   400 * ((s.dev.posAt p).slsSpeed.natAbs : Int) < 3 * centi (s.dev.get (POS_SLS_SLS_MIN p)) →
   Completes (.slsLowSpeed p) s fun t => t.dev.get (POS_STAT_SRC p) = 4 ∧ Raised (posEv p 3) s t) ∧
  (∀ (s : State) (p : Fin 4), s.powered → (s.dev.posAt p).init = true → (s.dev.posAt p).fault = false →
   s.dev.estValid p = true →
   centi (s.dev.get (POS_SLS_SLS_MIN p)) * s.dev.posRpp p ≤ 100 * ((s.dev.posAt p).omega.natAbs : Int) →
   (s.dev.get (POS_SLS_AGREE_TOL p) : Int) * 2 ^ 16 < (wrapQ (fracQ (near (s.dev.posPP p * s.dev.obsAt p s.dev.mono) (s.dev.posRpp p) + (s.dev.reg (A_POS_OFF p)).toInt) - fracQ (s.dev.outQ (2 * s.dev.get (POS_SLS_EST_IDX p))))).natAbs →
   Completes (.disagree p) s fun t => t.dev.get (POS_FLT_DISAGREE p) = 1 ∧ (t.dev.posAt p).disAt = some s.dev.mono ∧
   Raised (posEv p 6) s t) ∧
  (∀ (s : State) (p : Fin 4) (g : Nat) (lo : BitVec 32) (hi : BitVec 32), s.clocked 1 → s.dev.posGroup p = some g →
   s.dev.aligning p = true → (s.dev.posAt p).alignOn = false →
   (50 * ((lo.toNat : Int) * 2 ^ 32 * 2 - (s.dev.cluAt g).udc * 1000)).natAbs ≤ (2 * (s.dev.cluAt g).udc * 1000).natAbs →
   (50 * ((hi.toNat : Int) * 2 ^ 32 * 2 - (s.dev.cluAt g).udc * 1000)).natAbs ≤ (2 * (s.dev.cluAt g).udc * 1000).natAbs →
   Completes (.standstillCheckEnd p lo hi) s fun t => (t.dev.posAt p).alignOn = true ∧ (t.dev.posAt p).pulse = 0 ∧
   t.dev.regs = s.dev.regs) ∧
  (∀ (s : State) (p : Fin 4) (iu : BitVec 32) (iv : BitVec 32) (iw : BitVec 32) (tEnd : BitVec 32), s.clocked 1 →
   s.dev.aligning p = true → (s.dev.posAt p).alignOn = true → (s.dev.posAt p).inDecay = false →
   (s.dev.posAt p).pulse < 12 → tEnd.toNat < (1000 * clampN 1 40 (s.dev.get (POS_START_TP p))) →
   Completes (.satPulseEnd p iu iv iw tEnd) s fun t => (t.dev.posAt p).inDecay = true ∧
   t.dev.getI (POS_PEAK_PEAK p (s.dev.posAt p).pulse) = clampI (-32768) 32767 (near ((s.dev.ipMax p : Int) * (1000 * clampN 1 40 (s.dev.get (POS_START_TP p)))) tEnd.toNat)) ∧
  (∀ (s : State) (p : Fin 4), s.clocked 1 → s.dev.aligning p = true → (s.dev.posAt p).alignOn = true →
   (s.dev.posAt p).inDecay = true → (s.dev.posAt p).pulse ≠ 11 → (s.dev.posAt p).pulse ≠ 13 →
   Completes (.pulseDecayEnd p) s fun t => (t.dev.posAt p).pulse = (s.dev.posAt p).pulse + 1 ∧
   (t.dev.posAt p).inDecay = false ∧ t.dev.regs = s.dev.regs)

/-- An enable whose conditions hold goes to OFFSET with EN and the safe-state record at 1 (log entry 60), a disable to
DISABLED from any other state, a good offset measurement without ALIGN to RUN, a due vector measurement is requested
once, a starved unit is flagged with its event, and an update of a running unit at a peak keeps its currents and
commits the compare set to the carrier while the unit stays in RUN. Each is said under conditions on the state and the
operands alone: power, the clock of the block, an active image or a running origin where the command needs them, and
what its rules ask. Constructors that complete (exec answers a next state): cluEnable, cluDisable,
offsetMeasurementEnd, vectorMeasurementRequest, starved, currentLoopUpdate. -/
def Obligations.CurrentLoopsComplete : Prop :=
  (∀ (s : State) (g : Fin 2), s.inUse → (g.val = 0 ∨ s.dev.six = false) → s.dev.get (CLU_STAT_STATE g) = 0 →
   s.dev.enableWhy g = 0 → Completes (.cluEnable g) s fun t => t.dev.get (CLU_STAT_STATE g) = 1 ∧
   t.dev.get (CLU_CTL_EN g) = 1 ∧ t.dev.get (ascMode g) = 1) ∧
  (∀ (s : State) (g : Fin 2), s.inUse → (g.val = 0 ∨ s.dev.six = false) → s.dev.get (CLU_STAT_STATE g) ≠ 0 →
   Completes (.cluDisable g) s fun t => t.dev.get (CLU_STAT_STATE g) = 0 ∧ t.dev.get (CLU_CTL_EN g) = 0) ∧
  (∀ (s : State) (g : Fin 2), s.clocked 1 → (g.val = 0 ∨ s.dev.six = false) → s.dev.get (CLU_STAT_STATE g) = 1 →
   ((s.dev.groups g).all fun h => (List.range 4).all (s.dev.offsetOk h)) = true →
   ((List.range 4).all fun p => decide (s.dev.get (POS_STAT_SRC p) ≠ 1)) = true →
   Completes (.offsetMeasurementEnd g) s fun t => t.dev.get (CLU_STAT_STATE g) = 3) ∧
  (∀ (s : State) (g : Fin 2), s.clocked 1 → s.dev.get (CLU_CTL_REC_EN g) = 1 → s.dev.get (CLU_STAT_STATE g) = 3 →
   ((s.dev.cluAt g).plan.any fun v => decide (v.vec = 2) && v.ok && !v.asked) = true →
   Completes (.vectorMeasurementRequest g true) s fun t => ((t.dev.cluAt g).plan.any fun v => decide (v.vec = 2) && v.ok && !v.asked) = false ∧
   (t.dev.cluAt g).plan.length = (s.dev.cluAt g).plan.length) ∧
  (∀ (s : State) (g : Fin 2), s.clocked 1 → s.dev.get (CLU_STAT_STATE g) = 3 →
   Completes (.starved g) s fun t => t.dev.get (CLU_FLT_STARVED g) = 1 ∧ Raised (cluSrc g 5) s t) ∧
  (∀ (s : State) (g : Fin 2) (tm : BitVec 64), s.clocked 1 → s.dev.six = false → s.dev.get (CLU_STAT_STATE g) = 3 →
   s.dev.udcStale g = false → s.dev.cluBegun g tm.toNat = true → (s.dev.carAt g).peakNext = true →
   Completes (.currentLoopUpdate g tm 0) s fun t => (t.dev.get (CLU_STAT_STATE g) = 3 →
   (t.dev.cluAt g).iPeak = (t.dev.cluAt g).iNow) ∧ (t.dev.get (CLU_STAT_STATE g) = 3 → (t.dev.cluAt g).cmp ≠ [] →
   (t.dev.carAt g).shadow = some (t.dev.cluAt g).cmp) ∧
   (t.dev.get (CLU_STAT_STATE g) = 3 ∨ t.dev.get (CLU_STAT_STATE g) = 5))

/-- At a mark of a running carrier the direction alternates, a set committed at least 11 clocks before is transferred and
the outputs follow the state of the unit; a compare edge starts the dead time of its leg, its end commands the
complementary switch, and a switch at its on-time limit is forced off with bit, count and event. Each is said under
conditions on the state and the operands alone: power, the clock of the block, an active image or a running origin
where the command needs them, and what its rules ask. Constructors that complete (exec answers a next state):
carrierMark, switchEdge, deadTimeEnd, onTimeLimit. -/
def Obligations.CarriersComplete : Prop :=
  (∀ (s : State) (c : Fin 2) (slack : BitVec 16) (x : List (Nat × Nat)), s.powered →
   s.dev.get (PWM_STAT_MODE c) = 1 → s.dev.bit (PWM_STAT_FROZEN c) = false → (c.val = 0 ∨ s.dev.six = false) →
   (s.dev.carAt c).shadow = some x → 11 ≤ slack.toNat →
   Completes (.carrierMark ⟨c, by omega⟩ slack) s fun t => (t.dev.carAt c).peakNext = !(s.dev.carAt c).peakNext ∧
   t.dev.bit (PWM_STAT_DIR c) = (s.dev.carAt c).peakNext ∧ (t.dev.carAt c).cur = x ∧ (t.dev.carAt c).shadow = none ∧
   (t.dev.carAt c).lastMark = s.dev.mono ∧ t.dev.bit (PWM_STAT_OUT_EN c) = cluDrives (s.dev.get (CLU_STAT_STATE c))) ∧
  (∀ (s : State) (c : Fin 2) (x : Fin 3), s.powered → s.dev.get (PWM_STAT_MODE c) = 1 →
   s.dev.bit (PWM_STAT_FROZEN c) = false → (s.dev.carAt c).todo.testBit x = true →
   (s.dev.carAt c).leg.testBit x = s.dev.bit (PWM_STAT_DIR c) →
   Completes (.switchEdge c x) s fun t => (t.dev.carAt c).todo.testBit x = false ∧
   (t.dev.carAt c).leg.testBit x = !s.dev.bit (PWM_STAT_DIR c) ∧ (t.dev.carAt c).dead.testBit x = true ∧
   (t.dev.carAt c).cmd.testBit (if s.dev.bit (PWM_STAT_DIR c) then 2 * x.val else 2 * x.val + 1) = false) ∧
  (∀ (s : State) (c : Fin 2) (x : Fin 3), s.powered → s.dev.bit (PWM_STAT_FROZEN c) = false →
   (s.dev.carAt c).dead.testBit x = true →
   Completes (.deadTimeEnd c x) s fun t => (t.dev.carAt c).dead.testBit x = false ∧
   (t.dev.carAt c).cmd.testBit (if (s.dev.carAt c).leg.testBit x then 2 * x.val else 2 * x.val + 1) = true) ∧
  (∀ (s : State) (c : Fin 3) (k : Fin 6), s.powered → k.val < carSwitches c → s.dev.pwmClock = true →
   (s.dev.carAt c).sw.testBit k = true →
   Completes (.onTimeLimit c k) s fun t => (t.dev.carAt c).sw.testBit k = false ∧
   (t.dev.carAt c).forced.testBit k = true ∧ t.dev.tb (PWM_FLT_ONTIME c) k = true ∧ Counted (PWM_CNT_ONTIME c) s t ∧
   Raised (pwmSrc c 4) s t)

/-- The brake request forms and ends at its thresholds, its pulses end and start again, a missing pulse moves GCH12 to the
direct path, the constant off-time mode engages, chops and ends, and a debug halt and resume act on the cores named.
Each is said under conditions on the state and the operands alone: power, the clock of the block, an active image or a
running origin where the command needs them, and what its rules ask. Constructors that complete (exec answers a next
state): brakeRequestSet, brakeRequestClear, brakeOnTimeEnd, brakeOffTimeEnd, brakePulseMissing,
windingDischargeEngage, coffOnPhaseEnd, coffOffTimeEnd, windingDischargeEnd, debugHalt, debugResume. -/
def Obligations.BrakeAndDischargeComplete : Prop :=
  (∀ (s : State) (v1 : BitVec 16) (v2 : BitVec 16), s.powered → s.dev.get GCH_BRK_REQ = 0 →
   s.dev.safeSet.isSome = true → 10 * s.dev.get GCH_BRK_BRK_ON ≤ v1.toNat →
   10 * s.dev.get GCH_BRK_BRK_ON ≤ v2.toNat →
   Completes (.brakeRequestSet v1 v2) s fun t => t.dev.get GCH_BRK_REQ = 1 ∧ Counted GCH_BRK_RUNS s t) ∧
  (∀ (s : State) (v1 : BitVec 16) (v2 : BitVec 16), s.powered → s.dev.get GCH_BRK_REQ = 1 →
   v1.toNat ≤ 10 * s.dev.get GCH_BRK_BRK_OFF → v2.toNat ≤ 10 * s.dev.get GCH_BRK_BRK_OFF →
   Completes (.brakeRequestClear v1 v2) s fun t => t.dev.get GCH_BRK_REQ = 0) ∧
  (∀ (s : State), s.powered → (s.dev.carAt 2).onPhase = true → s.dev.brakeLive = true →
   Completes (.brakeOnTimeEnd) s fun t => (t.dev.carAt 2).onPhase = false ∧ (t.dev.carAt 2).offPhase = true ∧
   (t.dev.carAt 2).cmd.testBit 0 = false) ∧
  (∀ (s : State), s.powered → (s.dev.carAt 2).offPhase = true → (s.dev.carAt 2).onPhase = false →
   s.dev.brakeLive = true → s.dev.get GCH_BRK_REQ = 1 →
   Completes (.brakeOffTimeEnd) s fun t => (t.dev.carAt 2).offPhase = false ∧ (t.dev.carAt 2).onPhase = true ∧
   (t.dev.carAt 2).cmd.testBit 0 = true) ∧
  (∀ (s : State), s.powered → (s.dev.carAt 2).offPhase = true → (s.dev.carAt 2).onPhase = false →
   s.dev.brakeLive = true → s.dev.get GCH_BRK_REQ = 0 →
   Completes (.brakeOffTimeEnd) s fun t => (t.dev.carAt 2).offPhase = false ∧ (t.dev.carAt 2).onPhase = false) ∧
  (∀ (s : State), s.powered → s.dev.get GCH_BRK_REQ = 1 → s.dev.get GCH_BRK_PATH = 0 →
   (s.dev.get SYS_CLKSTAT_PLLC_ST ≠ 2 ∨ ((s.dev.carAt 2).onPhase = false ∧
   (s.dev.carAt 2).earliest + s.dev.brakeOffNs + 5000 ≤ s.dev.mono)) →
   Completes (.brakePulseMissing) s fun t => t.dev.get GCH_BRK_PATH = 1 ∧ Raised 103 s t) ∧
  (∀ (s : State) (g : Fin 2), s.powered → s.dev.windOf g = true → s.dev.get (PWM_STAT_MODE g) ≠ 3 →
   (s.dev.get (CLU_STAT_STATE g) = 0 ∨ s.dev.get (CLU_STAT_STATE g) = 5) →
   Completes (.windingDischargeEngage g) s fun t => t.dev.get (PWM_STAT_MODE g) = 3 ∧
   t.dev.get (PWM_STAT_OUT_EN g) = 1 ∧ (t.dev.carAt g).onPhase = true ∧
   ((s.dev.chopped g).all fun k => (t.dev.carAt g).cmd.testBit k) = true) ∧
  (∀ (s : State) (c : Fin 2), s.powered → s.dev.get (PWM_STAT_MODE c) = 3 → (s.dev.carAt c).onPhase = true →
   s.dev.bit (PWM_STAT_FROZEN c) = false → Completes (.coffOnPhaseEnd c) s fun t => (t.dev.carAt c).onPhase = false ∧
   (t.dev.carAt c).offPhase = true ∧ ((s.dev.chopped c).all fun k => !(t.dev.carAt c).cmd.testBit k) = true) ∧
  (∀ (s : State) (c : Fin 2), s.powered → s.dev.get (PWM_STAT_MODE c) = 3 → (s.dev.carAt c).offPhase = true →
   s.dev.bit (PWM_STAT_FROZEN c) = false → Completes (.coffOffTimeEnd c) s fun t => (t.dev.carAt c).onPhase = true ∧
   (t.dev.carAt c).offPhase = false ∧ ((s.dev.chopped c).all fun k => (t.dev.carAt c).cmd.testBit k) = true) ∧
  (∀ (s : State) (g : Fin 2), s.powered → s.dev.thm.windGrp = some g.val → s.dev.six = false →
   Completes (.windingDischargeEnd) s fun t => t.dev.thm.windGrp = none ∧ t.dev.get (PWM_STAT_MODE g) ≠ 3 ∧
   (t.dev.carAt g).onPhase = false ∧
   ((s.dev.chans g).all fun n => !(t.dev.gchAt n).permit1 && !(t.dev.gchAt n).permit2) = true) ∧
  (∀ (s : State) (c : Fin 4), s.powered → s.dev.get DBG_STAT_ACCESS = 1 →
   Completes (.debugHalt c) s fun t => t.dev.tb DBG_STAT_HALTED c = true) ∧
  (∀ (s : State) (c : Fin 4), s.powered → Completes (.debugResume c) s fun t => t.dev.tb DBG_STAT_HALTED c = false)

/-- On an ACTIVE channel whose high-voltage half is powered, linked and synchronised a short circuit or desaturation leads
to SOFTOFF and an overcurrent, a gate supply fault, a gate-voltage mismatch, an NTC trip or the on-time limit to
FAULT, each with its own bit of GCH_FLT and its own event at this instant; the end of the soft turn-off leads to
FAULT. Each is said under conditions on the state and the operands alone: power, the clock of the block, an active
image or a running origin where the command needs them, and what its rules ask. Constructors that complete (exec
answers a next state): shortCircuit, desat, overcurrent, gateSupplyFault, mismatch, ntcTrip, ontHv, softoffEnd. -/
def Obligations.GateFaultsComplete : Prop :=
  (∀ (s : State) (n : Fin 14), s.powered → (s.dev.gchAt n).powered = true → (s.dev.gchAt n).link = true →
   (s.dev.gchAt n).sync = true → s.dev.get (GCH_STAT_STATE n) = 2 →
   Completes (.shortCircuit n) s fun t => t.dev.get (GCH_STAT_STATE n) = 3 ∧ (t.dev.gchFlt n).testBit 0 = true ∧
   Raised (8 * n.val + 0) s t) ∧
  (∀ (s : State) (n : Fin 14), s.powered → (s.dev.gchAt n).powered = true → (s.dev.gchAt n).link = true →
   (s.dev.gchAt n).sync = true → s.dev.get (GCH_STAT_STATE n) = 2 →
   (s.dev.gchAt n).onAt + clampN 100 2000 (s.dev.get (GCH_DS_DS_BLANK n)) ≤ s.dev.mono →
   Completes (.desat n) s fun t => t.dev.get (GCH_STAT_STATE n) = 3 ∧ (t.dev.gchFlt n).testBit 2 = true ∧
   Raised (8 * n.val + 2) s t) ∧
  (∀ (s : State) (n : Fin 14), s.powered → (s.dev.gchAt n).powered = true → (s.dev.gchAt n).link = true →
   (s.dev.gchAt n).sync = true → s.dev.get (GCH_STAT_STATE n) = 2 → (s.dev.gchAt n).running = false →
   (s.dev.gchAt n).blankEnd ≤ s.dev.mono → Completes (.overcurrent n) s fun t => t.dev.get (GCH_STAT_STATE n) = 4 ∧
   (t.dev.gchFlt n).testBit 1 = true ∧ Raised (8 * n.val + 1) s t) ∧
  (∀ (s : State) (n : Fin 14) (x : Fin 3) (vpos : BitVec 8) (vneg : BitVec 8), s.powered →
   (s.dev.gchAt n).powered = true → (s.dev.gchAt n).link = true → (s.dev.gchAt n).sync = true →
   s.dev.get (GCH_STAT_STATE n) = 2 → s.dev.supplyOut n x vpos vneg = true →
   Completes (.gateSupplyFault n x vpos vneg) s fun t => t.dev.get (GCH_STAT_STATE n) = 4 ∧
   (t.dev.gchFlt n).testBit (3 + x.val) = true ∧ Raised (8 * n.val + 3) s t ∧
   t.dev.get (GCH_STAT_VPOS n) = vpos.toNat ∧ t.dev.get (GCH_STAT_VNEG n) = vneg.toNat) ∧
  (∀ (s : State) (n : Fin 14) (high : Bool), s.powered → (s.dev.gchAt n).powered = true →
   (s.dev.gchAt n).link = true → (s.dev.gchAt n).sync = true → s.dev.get (GCH_STAT_STATE n) = 2 →
   (s.dev.gchAt n).running = false → (s.dev.gchAt n).gate = !high →
   (if high then (s.dev.gchAt n).offAt else (s.dev.gchAt n).onAt) + clampN 200 5000 (s.dev.get (GCH_SUP_MIS_NS n)) ≤ s.dev.mono →
   Completes (.mismatch n high) s fun t => t.dev.get (GCH_STAT_STATE n) = 4 ∧
   (t.dev.gchFlt n).testBit (if high then 6 else 7) = true ∧ Raised (8 * n.val + 4) s t) ∧
  (∀ (s : State) (n : Fin 14), s.powered → (s.dev.gchAt n).powered = true → (s.dev.gchAt n).link = true →
   (s.dev.gchAt n).sync = true → s.dev.get (GCH_STAT_STATE n) = 2 → (s.dev.gchAt n).running = false →
   Completes (.ntcTrip n) s fun t => t.dev.get (GCH_STAT_STATE n) = 4 ∧ (t.dev.gchFlt n).testBit 10 = true ∧
   Raised (8 * n.val + 3) s t) ∧
  (∀ (s : State) (n : Fin 14), s.powered → (s.dev.gchAt n).powered = true → (s.dev.gchAt n).link = true →
   (s.dev.gchAt n).sync = true → s.dev.get (GCH_STAT_STATE n) = 2 → (s.dev.gchAt n).running = false →
   (s.dev.gchAt n).gate = true → Completes (.ontHv n) s fun t => t.dev.get (GCH_STAT_STATE n) = 4 ∧
   (t.dev.gchFlt n).testBit 8 = true ∧ Raised (8 * n.val + 5) s t) ∧
  (∀ (s : State) (n : Fin 14), s.powered → s.dev.get (GCH_STAT_STATE n) = 3 →
   Completes (.softoffEnd n) s fun t => t.dev.get (GCH_STAT_STATE n) = 4)

/-- Supply recovery and loss, power-up of the high-voltage half, an NTC reading, an edge command that arrives at an ACTIVE
and permitted channel, a learning step, training, its failure and retry, link loss and a missing status frame each
answer a next state with the effect of their rules. Each is said under conditions on the state and the operands alone:
power, the clock of the block, an active image or a running origin where the command needs them, and what its rules
ask. Constructors that complete (exec answers a next state): gateSupplyRecovered, vposLost, highVoltageHalfPowerUp,
ntcReading, gateEdge, edgeLearn, gateLinkTrainingDone, gateLinkTrainingFail, gateLinkRetry, linkLoss,
linkStatusMissing. -/
def Obligations.GateChannelEventsComplete : Prop :=
  (∀ (s : State) (n : Fin 14) (vpos : BitVec 8) (vneg : BitVec 8), s.powered → (s.dev.gchAt n).powered = true →
   (s.dev.gchAt n).link = true → ((List.range 3).any fun k => s.dev.supplyOut n k vpos vneg) = false →
   Completes (.gateSupplyRecovered n vpos vneg) s fun t => t.dev.get (GCH_STAT_VPOS n) = vpos.toNat ∧
   t.dev.get (GCH_STAT_VNEG n) = vneg.toNat ∧ (t.dev.gchAt n).cause &&& 0x38 = 0) ∧
  (∀ (s : State) (n : Fin 14), s.powered → Completes (.vposLost n) s fun t => t.dev.get (GCH_STAT_STATE n) = 0 ∧
   (t.dev.gchAt n).powered = false ∧ (t.dev.gchAt n).link = false ∧ (t.dev.gchAt n).gate = false) ∧
  (∀ (s : State) (n : Fin 14), Completes (.highVoltageHalfPowerUp n) s fun t => (t.dev.gchAt n).powered = true ∧
   (t.dev.gchAt n).latch = (s.dev.gchAt n).latch ∧ t.dev.regs = s.dev.regs) ∧
  (∀ (s : State) (n : Fin 14) (code : BitVec 8), s.powered → (s.dev.gchAt n).powered = true →
   (s.dev.gchAt n).link = true → Completes (.ntcReading n code) s fun t => t.dev.get (GCH_STAT_NTC n) = code.toNat) ∧
  (∀ (s : State) (n : Fin 14), s.powered → (s.dev.gchAt n).edge = some true → s.dev.get (GCH_STAT_STATE n) = 2 →
   s.dev.permits n = true → Completes (.gateEdge n) s fun t => (t.dev.gchAt n).gate = true ∧
   (t.dev.gchAt n).edge = none) ∧
  (∀ (s : State) (n : Fin 14), s.powered → (s.dev.gchAt n).edge = some false → s.dev.get (GCH_STAT_STATE n) = 2 →
   (s.dev.gchAt n).link = true → Completes (.gateEdge n) s fun t => (t.dev.gchAt n).gate = false ∧
   (t.dev.gchAt n).edge = none) ∧
  (∀ (s : State) (n : Fin 12) (x : BitVec 10) (code : BitVec 10) (v : BitVec 16), s.powered →
   s.dev.bit (GCH_CFG_LEARN n) = true → s.dev.paired = false → s.dev.get (GCH_STAT_STATE n) = 2 →
   s.dev.get (CLU_STAT_STATE (s.dev.groupOf n)) = 3 → s.dev.get (GCH_DS_VDS_MIN n) ≤ v.toNat →
   s.dev.binOf n code.toNat = (s.dev.gchAt n).lastOn →
   s.dev.tb (GCH_CFG_LEARN_BINS n) (s.dev.gchAt n).lastOn = true →
   2 * max 2 (s.dev.get (GCH_CFG_TGT_ON n)) + s.dev.get (GCH_CFG_BAND n) < x.toNat →
   s.dev.segOf n true < clampN 1 24 (s.dev.get (GCH_CFG_SEG_MAX n)) →
   Completes (.edgeLearn ⟨n, by omega⟩ true (some x) code v) s fun t => t.dev.get (GCH_SEGON_SEG n (s.dev.gchAt n).lastOn) = s.dev.segOf n true + 1 ∧
   Counted (GCH_CNT_LEARN_STEP n) s t) ∧
  (∀ (s : State) (n : Fin 14) (on : Bool) (x : BitVec 10) (code : BitVec 10) (v : BitVec 16), s.powered →
   Completes (.edgeLearn n on (some x) code v) s fun t => t.dev.get (if on then GCH_STAT_TS_ON n else GCH_STAT_TS_OFF n) = x.toNat ∧
   t.dev.get (if on then GCH_MEAS_SNS_ON n else GCH_MEAS_SNS_OFF n) = code.toNat ∧
   t.dev.get (if on then GCH_MEAS_BIN_ON n else GCH_MEAS_BIN_OFF n) = s.dev.binOf n code.toNat ∧
   t.dev.get (GCH_MEAS_VDS_OFF n) = v.toNat) ∧
  (∀ (s : State) (n : Fin 14) (vpos : BitVec 8) (vneg : BitVec 8), s.powered → s.dev.canTrain n = true →
   s.dev.tb SYS_GLINK_FAIL n = false →
   Completes (.gateLinkTrainingDone (n, ⟨vpos, vneg⟩)) s fun t => t.dev.tb SYS_GLINK_TRAINED n = true ∧
   t.dev.tb SYS_GLINK_FAIL n = false ∧ (t.dev.gchAt n).link = true ∧ (t.dev.gchAt n).sync = true ∧
   t.dev.get (GCH_STAT_VPOS n) = vpos.toNat ∧ t.dev.get (GCH_STAT_VNEG n) = vneg.toNat) ∧
  (∀ (s : State) (n : Fin 14), s.powered → s.dev.active = true → s.dev.used n = true → s.dev.trained n = false →
   Completes (.gateLinkTrainingFail n) s fun t => t.dev.tb SYS_GLINK_FAIL n = true) ∧
  (∀ (s : State) (n : Fin 14) (vpos : BitVec 8) (vneg : BitVec 8), s.powered → s.dev.canTrain n = true →
   s.dev.tb SYS_GLINK_FAIL n = true → (s.dev.gchAt n).trainFailed = true →
   Completes (.gateLinkRetry n (some ⟨vpos, vneg⟩)) s fun t => t.dev.tb SYS_GLINK_TRAINED n = true ∧
   t.dev.tb SYS_GLINK_FAIL n = false ∧ Counted SYS_GLINK_RETRAIN s t) ∧
  (∀ (s : State) (n : Fin 14), s.powered → (s.dev.gchAt n).powered = true → (s.dev.gchAt n).trainedOnce = true →
   n.val ≠ 13 → s.dev.get (GCH_STAT_STATE n) = 2 →
   Completes (.linkLoss n) s fun t => t.dev.get (GCH_STAT_STATE n) = 4 ∧ (t.dev.gchAt n).link = false ∧
   (t.dev.gchAt n).latch.testBit 9 = true ∧ (t.dev.gchAt n).gate = false ∧ t.dev.gchFlt n = s.dev.gchFlt n) ∧
  (∀ (s : State) (n : Fin 14), s.powered → s.dev.trained n = true →
   Completes (.linkStatusMissing n) s fun t => t.dev.tb SYS_GLINK_TRAINED n = false ∧ (t.dev.gchAt n).link = false)

/-- The safe-state command of a group with pulse-off selected leaves none of its channels ACTIVE or in ASC, active short
circuit is released, GATE_EN falls, disables all trained channels and rises again with its three effects by the low
time, two of which clear, on all fourteen channels, every latched fault whose cause has gone (a gate-voltage mismatch
by whether it persists), and GCH13 fires and ends its run. Each is said under conditions on the state and the operands
alone: power, the clock of the block, an active image or a running origin where the command needs them, and what its
rules ask. Constructors that complete (exec answers a next state): ascCommand, ascRelease, gateEnFall, gateEnDisable,
gateEnRise, autonomousDischarge, disTmaxElapsed. -/
def Obligations.GateEnableAndDischargeComplete : Prop :=
  (∀ (s : State) (g : Fin 2), s.powered → s.dev.six = false → s.dev.selAsc g = false →
   Completes (.ascCommand g) s fun t => t.dev.get (ascMode g) = 1 ∧
   ((s.dev.chans g).all fun n => !(s.dev.gchAt n).link || decide (t.dev.get (GCH_STAT_STATE n) ≠ 2)) = true ∧
   ((s.dev.chans g).all fun n => !(s.dev.gchAt n).link || decide (t.dev.get (GCH_STAT_STATE n) ≠ 5)) = true) ∧
  (∀ (s : State) (g : Fin 2), s.powered → s.dev.six = false → s.dev.selAsc g = false → 2 ≤ s.dev.get (ascMode g) →
   Completes (.ascRelease g) s fun t => t.dev.get (ascMode g) = 1 ∧
   ((s.dev.chans g).all fun n => !(s.dev.gchAt n).link || decide (t.dev.get (GCH_STAT_STATE n) ≠ 5)) = true) ∧
  (∀ (s : State), s.powered → s.dev.get GCH_GEN_LEVEL = 1 →
   Completes (.gateEnFall) s fun t => t.dev.get GCH_GEN_LEVEL = 0 ∧ t.dev.thm.gateFall = s.dev.mono) ∧
  (∀ (s : State), s.powered → s.dev.get GCH_GEN_LEVEL = 0 →
   Completes (.gateEnDisable) s fun t => t.dev.get GCH_GEN_DISABLED = 1 ∧
   ((List.range 14).all fun n => decide (s.dev.get (GCH_STAT_STATE n) = 0 ∨ t.dev.get (GCH_STAT_STATE n) = 6)) = true) ∧
  (∀ (s : State) (low : BitVec 32) (stuck : BitVec 14), s.powered → s.dev.get GCH_GEN_LEVEL = 0 →
   s.dev.get GCH_GEN_DISABLED = 1 → Completes (.gateEnRise low stuck) s fun t => t.dev.get GCH_GEN_LEVEL = 1 ∧
   t.dev.get GCH_GEN_DISABLED = 0 ∧ Counted GCH_GEN_DISABLES s t ∧
   (∀ n : Fin 14, (t.dev.gchAt n).latch = (s.dev.gchAt n).latch &&& (if stuck.getLsbD n then (s.dev.gchAt n).cause else (s.dev.gchAt n).cause - ((s.dev.gchAt n).cause &&& 0xC0))) ∧
   (∀ n : Fin 14, t.dev.gchFlt n = s.dev.gchFlt n &&& (if stuck.getLsbD n then (s.dev.gchAt n).cause else (s.dev.gchAt n).cause - ((s.dev.gchAt n).cause &&& 0xC0))) ∧
   t.dev.get GCH_GEN_LAST_US = min 16383 (low.toNat / 1000)) ∧
  (∀ (s : State) (low : BitVec 32) (stuck : BitVec 14), s.powered → s.dev.get GCH_GEN_LEVEL = 0 →
   s.dev.get GCH_GEN_DISABLED = 0 → 5250 ≤ low.toNat → low.toNat ≤ 39750 →
   Completes (.gateEnRise low stuck) s fun t => t.dev.get GCH_GEN_LEVEL = 1 ∧ Counted GCH_GEN_CLEARS s t ∧
   (∀ n : Fin 14, (t.dev.gchAt n).latch = (s.dev.gchAt n).latch &&& (if stuck.getLsbD n then (s.dev.gchAt n).cause else (s.dev.gchAt n).cause - ((s.dev.gchAt n).cause &&& 0xC0))) ∧
   (∀ n : Fin 14, t.dev.gchFlt n = s.dev.gchFlt n &&& (if stuck.getLsbD n then (s.dev.gchAt n).cause else (s.dev.gchAt n).cause - ((s.dev.gchAt n).cause &&& 0xC0))) ∧
   t.dev.get GCH_GEN_LAST_US = min 16383 (low.toNat / 1000)) ∧
  (∀ (s : State) (low : BitVec 32) (stuck : BitVec 14), s.powered → s.dev.get GCH_GEN_LEVEL = 0 →
   s.dev.get GCH_GEN_DISABLED = 0 → low.toNat < 4750 →
   Completes (.gateEnRise low stuck) s fun t => t.dev.get GCH_GEN_LEVEL = 1 ∧ Counted GCH_GEN_IGNORED s t ∧
   t.dev.gch = s.dev.gch) ∧
  (∀ (s : State), s.powered → (s.dev.gchAt 13).powered = true → (s.dev.gchAt 13).armed = true →
   (s.dev.gchAt 13).running = false → (s.dev.gchAt 13).link = false → s.dev.get (GCH_STAT_STATE 13) = 6 →
   Completes (.autonomousDischarge) s fun t => t.dev.get (GCH_STAT_STATE 13) = 7 ∧ (t.dev.gchAt 13).running = true ∧
   (t.dev.gchAt 13).armed = false ∧ Counted GCH_DIS_RUNS s t ∧ Raised 111 s t) ∧
  (∀ (s : State), s.powered → (s.dev.gchAt 13).running = true →
   Completes (.disTmaxElapsed) s fun t => t.dev.get (GCH_STAT_STATE 13) = 1 ∧ t.dev.get GCH_DIS_LAST_END = 1 ∧
   t.dev.get GCH_DIS_DIS_DONE = 1 ∧ (t.dev.gchAt 13).running = false ∧ Raised 111 s t)

/-- An operation that is next in a running slice, whose words are not pending and whose scoreboard entry is free, is
issued: the destination word takes the result of the operation table held in Q32.32, and the PC moves on by one; JGE
with a not negative value skips AUX[9:0] operations more. NOP, ACCLD, OUT and JGE have no destination word and need no
entry. A pipelined operation that is next in a running slice, whose words are not pending and whose scoreboard entries
are free, is issued: an operation with its destination words and their results joins those in flight, MAC and MSU
change the accumulator, and the PC moves on by one. DIV by zero gives 0 or the end of the range and counts DIV0; RAMP
takes the measured value with START and otherwise moves by at most one step; BIQ and PI put their states and their
output in flight. Each is said under conditions on the state and the operands alone: power, the clock of the block, an
active image or a running origin where the command needs them, and what its rules ask. Constructors that complete
(exec answers a next state): opNop, opMov, opAdd, opSub, opNeg, opAbs, opMin, opMax, opClamp, opSel, opWrap, opAccld,
opAccrd, opOut, opJge, opMul, opMac, opMsu, opTab, opDiv, opSqrt, opSincos, opAtan2, opMag, opBiq, opRamp, opPi, opIn. -/
def Obligations.EngineOperationsComplete : Prop :=
  (∀ (s : State) (n : Fin 64) (o : Oper), s.clocked 1 → s.dev.operNow n 0x00 = some o →
   Completes (.opNop n) s fun t => t.dev.slcAt n = s.dev.slcAt n ∧
   t.dev.get (CEN_SSTAT_PC n) = (s.dev.get (CEN_SSTAT_PC n) + 1) % 1024) ∧
  (∀ (s : State) (n : Fin 64) (o : Oper), s.clocked 1 → s.dev.operNow n 0x01 = some o →
   s.dev.noPending n [o.a, o.d] = true → s.dev.sbUsed n + 1 ≤ 64 →
   Completes (.opMov n) s fun t => t.dev.reg (A_CEN_ST n (o.d % 256)) = qBits (s.dev.stw n o.a) ∧
   t.dev.get (CEN_SSTAT_PC n) = (s.dev.get (CEN_SSTAT_PC n) + 1) % 1024) ∧
  (∀ (s : State) (n : Fin 64) (o : Oper), s.clocked 1 → s.dev.operNow n 0x02 = some o →
   s.dev.noPending n [o.a, o.b, o.d] = true → s.dev.sbUsed n + 1 ≤ 64 →
   Completes (.opAdd n) s fun t => t.dev.reg (A_CEN_ST n (o.d % 256)) = qBits (s.dev.stw n o.a + s.dev.stw n o.b) ∧
   t.dev.get (CEN_SSTAT_PC n) = (s.dev.get (CEN_SSTAT_PC n) + 1) % 1024) ∧
  (∀ (s : State) (n : Fin 64) (o : Oper), s.clocked 1 → s.dev.operNow n 0x03 = some o →
   s.dev.noPending n [o.a, o.b, o.d] = true → s.dev.sbUsed n + 1 ≤ 64 →
   Completes (.opSub n) s fun t => t.dev.reg (A_CEN_ST n (o.d % 256)) = qBits (s.dev.stw n o.a - s.dev.stw n o.b) ∧
   t.dev.get (CEN_SSTAT_PC n) = (s.dev.get (CEN_SSTAT_PC n) + 1) % 1024) ∧
  (∀ (s : State) (n : Fin 64) (o : Oper), s.clocked 1 → s.dev.operNow n 0x04 = some o →
   s.dev.noPending n [o.a, o.d] = true → s.dev.sbUsed n + 1 ≤ 64 →
   Completes (.opNeg n) s fun t => t.dev.reg (A_CEN_ST n (o.d % 256)) = qBits (-s.dev.stw n o.a) ∧
   t.dev.get (CEN_SSTAT_PC n) = (s.dev.get (CEN_SSTAT_PC n) + 1) % 1024) ∧
  (∀ (s : State) (n : Fin 64) (o : Oper), s.clocked 1 → s.dev.operNow n 0x05 = some o →
   s.dev.noPending n [o.a, o.d] = true → s.dev.sbUsed n + 1 ≤ 64 →
   Completes (.opAbs n) s fun t => t.dev.reg (A_CEN_ST n (o.d % 256)) = qBits ((s.dev.stw n o.a).natAbs) ∧
   t.dev.get (CEN_SSTAT_PC n) = (s.dev.get (CEN_SSTAT_PC n) + 1) % 1024) ∧
  (∀ (s : State) (n : Fin 64) (o : Oper), s.clocked 1 → s.dev.operNow n 0x06 = some o →
   s.dev.noPending n [o.a, o.b, o.d] = true → s.dev.sbUsed n + 1 ≤ 64 →
   Completes (.opMin n) s fun t => t.dev.reg (A_CEN_ST n (o.d % 256)) = qBits (min (s.dev.stw n o.a) (s.dev.stw n o.b)) ∧
   t.dev.get (CEN_SSTAT_PC n) = (s.dev.get (CEN_SSTAT_PC n) + 1) % 1024) ∧
  (∀ (s : State) (n : Fin 64) (o : Oper), s.clocked 1 → s.dev.operNow n 0x07 = some o →
   s.dev.noPending n [o.a, o.b, o.d] = true → s.dev.sbUsed n + 1 ≤ 64 →
   Completes (.opMax n) s fun t => t.dev.reg (A_CEN_ST n (o.d % 256)) = qBits (max (s.dev.stw n o.a) (s.dev.stw n o.b)) ∧
   t.dev.get (CEN_SSTAT_PC n) = (s.dev.get (CEN_SSTAT_PC n) + 1) % 1024) ∧
  (∀ (s : State) (n : Fin 64) (o : Oper), s.clocked 1 → s.dev.operNow n 0x08 = some o →
   s.dev.noPending n [o.a, o.b, o.c, o.d] = true → s.dev.sbUsed n + 1 ≤ 64 →
   Completes (.opClamp n) s fun t => t.dev.reg (A_CEN_ST n (o.d % 256)) = qBits (min (max (s.dev.stw n o.a) (s.dev.stw n o.b)) (s.dev.stw n o.c)) ∧
   t.dev.get (CEN_SSTAT_PC n) = (s.dev.get (CEN_SSTAT_PC n) + 1) % 1024) ∧
  (∀ (s : State) (n : Fin 64) (o : Oper), s.clocked 1 → s.dev.operNow n 0x09 = some o →
   s.dev.noPending n [o.a, o.b, o.c, o.d] = true → s.dev.sbUsed n + 1 ≤ 64 →
   Completes (.opSel n) s fun t => t.dev.reg (A_CEN_ST n (o.d % 256)) = qBits (if 0 ≤ s.dev.stw n o.a then s.dev.stw n o.b else s.dev.stw n o.c) ∧
   t.dev.get (CEN_SSTAT_PC n) = (s.dev.get (CEN_SSTAT_PC n) + 1) % 1024) ∧
  (∀ (s : State) (n : Fin 64) (o : Oper), s.clocked 1 → s.dev.operNow n 0x0A = some o →
   s.dev.noPending n [o.a, o.d] = true → s.dev.sbUsed n + 1 ≤ 64 →
   Completes (.opWrap n) s fun t => t.dev.reg (A_CEN_ST n (o.d % 256)) = qBits ((s.dev.stw n o.a + 2 ^ 31) % 2 ^ 32 - 2 ^ 31) ∧
   t.dev.get (CEN_SSTAT_PC n) = (s.dev.get (CEN_SSTAT_PC n) + 1) % 1024) ∧
  (∀ (s : State) (n : Fin 64) (o : Oper), s.clocked 1 → s.dev.operNow n 0x13 = some o →
   s.dev.noPending n [o.a] = true → s.dev.macDone n = true →
   Completes (.opAccld n) s fun t => (t.dev.slcAt n).acc = s.dev.stw n o.a * 2 ^ 32 ∧
   t.dev.get (CEN_SSTAT_PC n) = (s.dev.get (CEN_SSTAT_PC n) + 1) % 1024) ∧
  (∀ (s : State) (n : Fin 64) (o : Oper), s.clocked 1 → s.dev.operNow n 0x14 = some o →
   s.dev.noPending n [o.d] = true → s.dev.sbUsed n + 1 ≤ 64 → s.dev.macDone n = true →
   Completes (.opAccrd n) s fun t => t.dev.reg (A_CEN_ST n (o.d % 256)) = qBits (divRound (s.dev.slcAt n).acc (2 ^ 32)) ∧
   t.dev.get (CEN_SSTAT_PC n) = (s.dev.get (CEN_SSTAT_PC n) + 1) % 1024) ∧
  (∀ (s : State) (n : Fin 64) (o : Oper), s.clocked 1 → s.dev.operNow n 0x31 = some o →
   s.dev.noPending n [o.a] = true →
   Completes (.opOut n) s fun t => (t.dev.slcAt n).outs = Tab.insert (o.aux % 8) (s.dev.reg (A_CEN_ST n o.a)) (s.dev.slcAt n).outs ∧
   t.dev.get (CEN_SSTAT_PC n) = (s.dev.get (CEN_SSTAT_PC n) + 1) % 1024) ∧
  (∀ (s : State) (n : Fin 64) (o : Oper), s.clocked 1 → s.dev.operNow n 0x38 = some o →
   s.dev.noPending n [o.a] = true → 0 ≤ s.dev.stw n o.a →
   Completes (.opJge n) s fun t => t.dev.get (CEN_SSTAT_PC n) = (s.dev.get (CEN_SSTAT_PC n) + o.aux % 1024 + 1) % 1024) ∧
  (∀ (s : State) (n : Fin 64) (o : Oper), s.clocked 1 → s.dev.operNow n 0x10 = some o →
   s.dev.noPending n [o.a, o.b, o.d] = true → s.dev.sbUsed n + 1 ≤ 64 →
   Completes (.opMul n) s fun t => (t.dev.slcAt n).flight = (s.dev.slcAt n).flight ++ [{ dsts := [(o.d % 256, qBits (mulQ (s.dev.stw n o.a) (s.dev.stw n o.b)))] }] ∧
   t.dev.get (CEN_SSTAT_PC n) = (s.dev.get (CEN_SSTAT_PC n) + 1) % 1024) ∧
  (∀ (s : State) (n : Fin 64) (o : Oper), s.clocked 1 → s.dev.operNow n 0x11 = some o →
   s.dev.noPending n [o.a, o.b] = true → s.dev.sbUsed n + 1 ≤ 64 →
   Completes (.opMac n) s fun t => (t.dev.slcAt n).flight = (s.dev.slcAt n).flight ++ [{ mac := true }] ∧
   (t.dev.slcAt n).acc = satAcc ((s.dev.slcAt n).acc + s.dev.stw n o.a * s.dev.stw n o.b) ∧
   t.dev.get (CEN_SSTAT_PC n) = (s.dev.get (CEN_SSTAT_PC n) + 1) % 1024) ∧
  (∀ (s : State) (n : Fin 64) (o : Oper), s.clocked 1 → s.dev.operNow n 0x12 = some o →
   s.dev.noPending n [o.a, o.b] = true → s.dev.sbUsed n + 1 ≤ 64 →
   Completes (.opMsu n) s fun t => (t.dev.slcAt n).flight = (s.dev.slcAt n).flight ++ [{ mac := true }] ∧
   (t.dev.slcAt n).acc = satAcc ((s.dev.slcAt n).acc - s.dev.stw n o.a * s.dev.stw n o.b) ∧
   t.dev.get (CEN_SSTAT_PC n) = (s.dev.get (CEN_SSTAT_PC n) + 1) % 1024) ∧
  (∀ (s : State) (n : Fin 64) (o : Oper), s.clocked 1 → s.dev.operNow n 0x18 = some o →
   s.dev.noPending n (rdTab o ++ [o.d]) = true → s.dev.sbUsed n + 1 ≤ 64 →
   Completes (.opTab n) s fun t => (t.dev.slcAt n).flight = (s.dev.slcAt n).flight ++ [{ dsts := [(o.d % 256, qBits (tabAt (fun i => s.dev.stw n (o.b + i)) (o.aux % 1024) (s.dev.stw n o.a)))] }] ∧
   t.dev.get (CEN_SSTAT_PC n) = (s.dev.get (CEN_SSTAT_PC n) + 1) % 1024) ∧
  (∀ (s : State) (n : Fin 64) (o : Oper), s.clocked 1 → s.dev.operNow n 0x20 = some o →
   s.dev.noPending n [o.a, o.b, o.d] = true → s.dev.sbUsed n + 1 ≤ 64 →
   Completes (.opDiv n) s fun t => (t.dev.slcAt n).flight = (s.dev.slcAt n).flight ++ [{ dsts := [(o.d % 256, qBits (divResult (s.dev.stw n o.a) (s.dev.stw n o.b)))] }] ∧
   t.dev.get (CEN_SSTAT_PC n) = (s.dev.get (CEN_SSTAT_PC n) + 1) % 1024) ∧
  (∀ (s : State) (n : Fin 64) (o : Oper), s.clocked 1 → s.dev.operNow n 0x20 = some o →
   s.dev.noPending n [o.a, o.b, o.d] = true → s.dev.sbUsed n + 1 ≤ 64 → s.dev.stw n o.b = 0 →
   s.dev.bit (CEN_SCFG_EVT_FLT n) = false →
   Completes (.opDiv n) s fun t => (t.dev.slcAt n).flight = (s.dev.slcAt n).flight ++ [{ dsts := [(o.d % 256, qBits (if s.dev.stw n o.a = 0 then 0 else if 0 < s.dev.stw n o.a then 2 ^ 63 - 1 else -(2 ^ 63)))] }] ∧
   t.dev.get (CEN_SSTAT_PC n) = (s.dev.get (CEN_SSTAT_PC n) + 1) % 1024 ∧ Counted (CEN_SCNT2_DIV0 n) s t) ∧
  (∀ (s : State) (n : Fin 64) (o : Oper), s.clocked 1 → s.dev.operNow n 0x21 = some o →
   s.dev.noPending n [o.a, o.d] = true → s.dev.sbUsed n + 1 ≤ 64 →
   Completes (.opSqrt n) s fun t => (t.dev.slcAt n).flight = (s.dev.slcAt n).flight ++ [{ dsts := [(o.d % 256, qBits (sqrtQ (s.dev.stw n o.a)))] }] ∧
   t.dev.get (CEN_SSTAT_PC n) = (s.dev.get (CEN_SSTAT_PC n) + 1) % 1024) ∧
  (∀ (s : State) (n : Fin 64) (o : Oper), s.clocked 1 → s.dev.operNow n 0x24 = some o →
   s.dev.noPending n [o.a, o.d, o.d + 1] = true → s.dev.sbUsed n + 2 ≤ 64 →
   Completes (.opSincos n) s fun t => (t.dev.slcAt n).flight = (s.dev.slcAt n).flight ++ [{ dsts := [(o.d % 256, qBits (cordicSin (s.dev.stw n o.a))), ((o.d + 1) % 256, qBits (cordicCos (s.dev.stw n o.a)))] }] ∧
   t.dev.get (CEN_SSTAT_PC n) = (s.dev.get (CEN_SSTAT_PC n) + 1) % 1024) ∧
  (∀ (s : State) (n : Fin 64) (o : Oper), s.clocked 1 → s.dev.operNow n 0x25 = some o →
   s.dev.noPending n [o.a, o.b, o.d] = true → s.dev.sbUsed n + 1 ≤ 64 →
   Completes (.opAtan2 n) s fun t => (t.dev.slcAt n).flight = (s.dev.slcAt n).flight ++ [{ dsts := [(o.d % 256, qBits (cordicAtan (s.dev.stw n o.a) (s.dev.stw n o.b)))] }] ∧
   t.dev.get (CEN_SSTAT_PC n) = (s.dev.get (CEN_SSTAT_PC n) + 1) % 1024) ∧
  (∀ (s : State) (n : Fin 64) (o : Oper), s.clocked 1 → s.dev.operNow n 0x26 = some o →
   s.dev.noPending n [o.a, o.b, o.d] = true → s.dev.sbUsed n + 1 ≤ 64 →
   Completes (.opMag n) s fun t => (t.dev.slcAt n).flight = (s.dev.slcAt n).flight ++ [{ dsts := [(o.d % 256, qBits (cordicMag (s.dev.stw n o.a) (s.dev.stw n o.b)))] }] ∧
   t.dev.get (CEN_SSTAT_PC n) = (s.dev.get (CEN_SSTAT_PC n) + 1) % 1024) ∧
  (∀ (s : State) (n : Fin 64) (o : Oper) (y : Int) (p : Int) (q : Int), s.clocked 1 → s.dev.operNow n 0x28 = some o →
   s.dev.noPending n (rdBiq o ++ [o.c, o.c + 1, o.d]) = true → s.dev.sbUsed n + 3 ≤ 64 →
   biq (s.dev.slStart n) (s.dev.stw n o.a) (s.dev.stw n o.b) (s.dev.stw n (o.b + 1)) (s.dev.stw n (o.b + 2)) (s.dev.stw n (o.b + 3)) (s.dev.stw n (o.b + 4)) (s.dev.stw n o.c) (s.dev.stw n (o.c + 1)) = (y, p, q) →
   Completes (.opBiq n) s fun t => (t.dev.slcAt n).flight = (s.dev.slcAt n).flight ++ [{ dsts := [(o.c % 256, qBits p), ((o.c + 1) % 256, qBits q), (o.d % 256, qBits y)] }] ∧
   t.dev.get (CEN_SSTAT_PC n) = (s.dev.get (CEN_SSTAT_PC n) + 1) % 1024) ∧
  (∀ (s : State) (n : Fin 64) (o : Oper), s.clocked 1 → s.dev.operNow n 0x29 = some o →
   s.dev.noPending n [o.a, o.b, o.c, o.d] = true → s.dev.sbUsed n + 1 ≤ 64 → s.dev.slStart n = true →
   Completes (.opRamp n) s fun t => (t.dev.slcAt n).flight = (s.dev.slcAt n).flight ++ [{ dsts := [(o.d % 256, qBits (s.dev.stw n o.c))] }] ∧
   t.dev.get (CEN_SSTAT_PC n) = (s.dev.get (CEN_SSTAT_PC n) + 1) % 1024) ∧
  (∀ (s : State) (n : Fin 64) (o : Oper), s.clocked 1 → s.dev.operNow n 0x29 = some o →
   s.dev.noPending n [o.a, o.b, o.c, o.d] = true → s.dev.sbUsed n + 1 ≤ 64 → s.dev.slStart n = false →
   Completes (.opRamp n) s fun t => (t.dev.slcAt n).flight = (s.dev.slcAt n).flight ++ [{ dsts := [(o.d % 256, qBits (s.dev.stw n o.d + clampI (-(s.dev.stw n o.b)) (s.dev.stw n o.b) (s.dev.stw n o.a - s.dev.stw n o.d)))] }] ∧
   t.dev.get (CEN_SSTAT_PC n) = (s.dev.get (CEN_SSTAT_PC n) + 1) % 1024) ∧
  (∀ (s : State) (n : Fin 64) (o : Oper) (y : Int) (i : Int), s.clocked 1 → s.dev.operNow n 0x2A = some o →
   s.dev.noPending n ((o.a :: o.b :: (List.range 7).map (o.c + ·)) ++ [o.c + 2, o.d]) = true →
   s.dev.sbUsed n + 2 ≤ 64 →
   piLaw (s.dev.stw n o.a) (s.dev.stw n o.b) (s.dev.stw n o.c) (s.dev.stw n (o.c + 1)) (s.dev.stw n (o.c + 2)) (s.dev.stw n (o.c + 3)) (s.dev.stw n (o.c + 4)) (s.dev.stw n (o.c + 5)) (s.dev.stw n (o.c + 6)) = (y, i) →
   Completes (.opPi n) s fun t => (t.dev.slcAt n).flight = (s.dev.slcAt n).flight ++ [{ dsts := [((o.c + 2) % 256, qBits i), (o.d % 256, qBits y)] }] ∧
   t.dev.get (CEN_SSTAT_PC n) = (s.dev.get (CEN_SSTAT_PC n) + 1) % 1024) ∧
  (∀ (s : State) (n : Fin 64) (o : Oper), s.clocked 1 → s.dev.operNow n 0x30 = some o →
   s.dev.noPending n [o.d] = true → s.dev.sbUsed n + 1 ≤ 64 →
   Completes (.opIn n) s fun t => (t.dev.slcAt n).flight = (s.dev.slcAt n).flight ++ [{ dsts := [(o.d % 256, qBits (s.dev.inValue n (o.aux / 2 ^ 16) (o.aux % 2 ^ 16)))] }] ∧
   t.dev.get (CEN_SSTAT_PC n) = (s.dev.get (CEN_SSTAT_PC n) + 1) % 1024)

/-- An END of a run on time presents the block and returns the slice to WAIT or IDLE; a result reaches its word; the
collector accepts the one presented block; an open epoch closes at its deadline and turns its running members LATE; a
closed epoch whose blocks are accepted is swapped and stamped; an accepted trigger opens an epoch; a time-out counts
TRIG_MISS; RUN is written; a correctable error is counted in ECC_CORR and changes nothing else; an uncorrectable error
halts the slice with its event; a permitted commit of the register port waits for the next trigger of its group while
a member runs. Each is said under conditions on the state and the operands alone: power, the clock of the block, an
active image or a running origin where the command needs them, and what its rules ask. Constructors that complete
(exec answers a next state): opEnd, operationResult, blockAccept, epochDeadline, collectorSwap, groupTrigger,
triggerTimeout, sliceRun, sliceEccError, tuneCommit. -/
def Obligations.EngineRunsAndEpochsComplete : Prop :=
  (∀ (s : State) (n : Fin 64) (cyc : BitVec 16) (o : Oper), s.clocked 1 → s.dev.operNow n 0x3F = some o →
   (s.dev.slcAt n).flight = [] → s.dev.slState n = 2 →
   Completes (.opEnd n cyc) s fun t => (t.dev.slcAt n).block = some (s.dev.slcAt n).outs ∧
   (t.dev.slcAt n).onTime = true ∧ (t.dev.slcAt n).outs = [] ∧ t.dev.get (CEN_SSTAT_LAST_CYC n) = cyc.toNat ∧
   (t.dev.slState n = if s.dev.bit (CEN_SCFG_RUN n) then 1 else 0)) ∧
  (∀ (s : State) (n : Fin 64) (k : Fin 64) (w : Nat) (v : BitVec 64), s.clocked 1 →
   (s.dev.slcAt n).flight[k]? = some { dsts := [(w, v)] } →
   Completes (.operationResult n k) s fun t => t.dev.reg (A_CEN_ST n (w % 256)) = v ∧
   (t.dev.slcAt n).flight = (s.dev.slcAt n).flight.eraseIdx k) ∧
  (∀ (s : State) (n : Fin 64) (b : List (Nat × BitVec 64)), s.clocked 1 →
   ((List.range 64).filter fun m => (s.dev.slcAt m).block.isSome) = [n.val] → (s.dev.slcAt n).block = some b →
   Completes (.blockAccept) s fun t => (t.dev.slcAt n).block = none ∧
   (t.dev.egrAt (s.dev.slGroup n)).pend = b.foldl (fun p o => Tab.insert (8 * n.val + o.1) o.2 p) (s.dev.egrAt (s.dev.slGroup n)).pend) ∧
  (∀ (s : State) (g : Fin 8), s.clocked 1 → (s.dev.egrAt g).live = true → (s.dev.egrAt g).closed = false →
   Completes (.epochDeadline g) s fun t => (t.dev.egrAt g).closed = true ∧ Counted (CEN_GCNT_DL_CLOSE g) s t ∧
   ((t.dev.members g).all fun n => decide (s.dev.slState n = 2 → t.dev.slState n = 3)) = true) ∧
  (∀ (s : State) (g : Fin 8), s.clocked 1 → (s.dev.egrAt g).live = true → (s.dev.egrAt g).closed = true →
   ((s.dev.members g).all fun n => (s.dev.slcAt n).block.isNone) = true →
   Completes (.collectorSwap g) s fun t => (t.dev.egrAt g).live = false ∧ (t.dev.egrAt g).pend = [] ∧
   t.dev.reg (A_CEN_GSTAMP g) = BitVec.ofNat 64 s.dev.time) ∧
  (∀ (s : State) (g : Fin 8), s.clocked 1 → s.dev.get (CEN_GCFG_PRESC g) ≤ (s.dev.egrAt g).cnt →
   (s.dev.egrAt g).live = false → ((s.dev.egrAt g).last.all fun u => decide (u + 4990 ≤ s.dev.mono)) = true →
   0 < (s.dev.egrAt g).trigs → Completes (.groupTrigger g) s fun t => (t.dev.egrAt g).live = true ∧
   (t.dev.egrAt g).regAt = s.dev.mono ∧ t.dev.get (CEN_GSTAT_SEQ g) = (s.dev.get (CEN_GSTAT_SEQ g) + 1) % 2 ^ 32) ∧
  (∀ (s : State) (g : Fin 8), s.clocked 1 → s.dev.get (CEN_GCFG_TMO_US g) ≠ 0 → (s.dev.egrAt g).last.isSome = true →
   Completes (.triggerTimeout g) s fun t => Counted (CEN_GCNT_TRIG_MISS g) s t) ∧
  (∀ (s : State) (q : Origin) (n : Fin 64) (run : Bool), s.accesses q →
   (s.dev.guardedSlice n = false ∨ s.dev.lockOrigin q = true) →
   Completes (.sliceRun q n run) s fun t => t.dev.bit (CEN_SCFG_RUN n) = run ∧ (run = true →
   s.dev.bit (CEN_SCFG_RUN n) = false → s.dev.slState n = 0 → t.dev.slState n = 1 ∧ t.dev.slStart n = true)) ∧
  (∀ (s : State) (n : Fin 64), s.clocked 1 →
   Completes (.sliceEccError (n, true)) s fun t => t = { s with dev := s.dev.count (CEN_SCNT2_ECC_CORR n) }) ∧
  (∀ (s : State) (n : Fin 64), s.clocked 1 → s.dev.slState n ≠ 4 →
   Completes (.sliceEccError (n, false)) s fun t => t.dev.slState n = 4 ∧ (t.dev.slcAt n).flight = [] ∧
   Raised (273 + 2 * n) s t) ∧
  (∀ (s : State) (k : BitVec 4) (r : Bool), s.inUse →
   ((s.dev.set CEN_TCTL_COUNT k.toNat).setB CEN_TCTL_RESTART r).tuneWhy 4 k.toNat (((s.dev.set CEN_TCTL_COUNT k.toNat).setB CEN_TCTL_RESTART r).tuneEntries 4 k.toNat) = 0 →
   ((s.dev.members (s.dev.slGroup (s.dev.get (CEN_TADR_SLICE 0)))).any fun n => s.dev.bit (CEN_SCFG_RUN n)) = true →
   Completes (.tuneCommit k r) s fun t => t.dev.get CEN_TCTL_BUSY = 1 ∧
   ((t.dev.portAt 4).wait.map fun c => c.entries.length) = some k.toNat ∧
   ((t.dev.portAt 4).wait.map fun c => c.restart) = some r)

/-- On a core that runs, with an empty commit buffer, LA.RDW, LA.RDOUT, LA.RDAGE, LA.RDSEQ, LA.RDSST and LA.TSTAT write
rd, not x0, with the state word, collector word, age, sequence count, status register of the slice or port status they
name; with rd = x0 nothing is written. On a core that runs a compute instruction with no compute outstanding is queued
and issues at once in an assist slice that has room; a write instruction enters a commit buffer that is not full; a
result that is there is written to rd and its request leaves; the oldest write leaves the buffer and a set is staged,
a RUN written; a squash drops what it names and counts, the result of a read that is squashed being taken back out of
rd; a write that finds eight entries waits at issue and is counted once in STALL_CB (log entry 48), waiting in order
until it issues or is squashed (log entry 91); a worked word of the encoding decodes to its instruction; a custom-0
word that is not listed is recorded as an illegal instruction (the record is the model's own, log entry 16). Each is
said under conditions on the state and the operands alone: power, the clock of the block, an active image or a running
origin where the command needs them, and what its rules ask. Constructors that complete (exec answers a next state):
laRdw, laRdout, laRdage, laRdseq, laRdsst, laTstat, laDiv, laSqrt, laSin, laCos, laAtan2, laMag, laTset, laTcommit,
laRun, assistResultReturn, commitBufferSend, squash, illegalInstruction. -/
def Obligations.LoopAssistCommandsComplete : Prop :=
  (∀ (s : State) (c : Fin 4) (rd : BitVec 5) (a : BitVec 64), s.clocked 0 → s.dev.clk 1 = true →
   s.dev.coreRuns c = true → (s.dev.portAt c).issue = [] → (s.dev.portAt c).buf = [] → rd ≠ 0 →
   Completes (.laRdw c rd a) s fun t => Tab.find (fun _ => 0) (t.dev.portAt c).x rd.toNat = s.dev.reg (A_CEN_ST (fieldGet a 8 6) (fieldGet a 0 8))) ∧
  (∀ (s : State) (c : Fin 4) (rd : BitVec 5) (a : BitVec 64), s.clocked 0 → s.dev.clk 1 = true →
   s.dev.coreRuns c = true → (s.dev.portAt c).issue = [] → (s.dev.portAt c).buf = [] → rd ≠ 0 →
   Completes (.laRdout c rd a) s fun t => Tab.find (fun _ => 0) (t.dev.portAt c).x rd.toNat = s.dev.reg (A_CEN_OUT (fieldGet a 0 9))) ∧
  (∀ (s : State) (c : Fin 4) (rd : BitVec 5) (a : BitVec 64), s.clocked 0 → s.dev.clk 1 = true →
   s.dev.coreRuns c = true → (s.dev.portAt c).issue = [] → (s.dev.portAt c).buf = [] → rd ≠ 0 →
   Completes (.laRdage c rd a) s fun t => Tab.find (fun _ => 0) (t.dev.portAt c).x rd.toNat = BitVec.ofNat 64 (s.dev.outAge (fieldGet a 0 9))) ∧
  (∀ (s : State) (c : Fin 4) (rd : BitVec 5) (a : BitVec 64), s.clocked 0 → s.dev.clk 1 = true →
   s.dev.coreRuns c = true → (s.dev.portAt c).issue = [] → (s.dev.portAt c).buf = [] → rd ≠ 0 →
   Completes (.laRdseq c rd a) s fun t => Tab.find (fun _ => 0) (t.dev.portAt c).x rd.toNat = BitVec.ofNat 64 (s.dev.get (CEN_GSTAT_SEQ (fieldGet a 0 3)))) ∧
  (∀ (s : State) (c : Fin 4) (rd : BitVec 5) (a : BitVec 64), s.clocked 0 → s.dev.clk 1 = true →
   s.dev.coreRuns c = true → (s.dev.portAt c).issue = [] → (s.dev.portAt c).buf = [] → rd ≠ 0 →
   Completes (.laRdsst c rd a) s fun t => Tab.find (fun _ => 0) (t.dev.portAt c).x rd.toNat = s.dev.reg (A_CEN_SSTAT (fieldGet a 0 6))) ∧
  (∀ (s : State) (c : Fin 4) (rd : BitVec 5), s.clocked 0 → s.dev.clk 1 = true → s.dev.coreRuns c = true →
   (s.dev.portAt c).issue = [] → (s.dev.portAt c).buf = [] → rd ≠ 0 →
   Completes (.laTstat c rd) s fun t => Tab.find (fun _ => 0) (t.dev.portAt c).x rd.toNat = s.dev.lastat c) ∧
  (∀ (s : State) (c : Fin 4) (a : BitVec 64), s.clocked 0 → s.dev.clk 1 = true → s.dev.coreRuns c = true →
   (s.dev.portAt c).issue = [] → (s.dev.portAt c).buf = [] →
   Completes (.laRdw c 0 a) s fun t => (t.dev.portAt c).x = (s.dev.portAt c).x ∧ (t.dev.portAt c).issue = []) ∧
  (∀ (s : State) (c : Fin 4) (rd : BitVec 5) (a : BitVec 64) (b : BitVec 64), s.clocked 0 → s.dev.clk 1 = true →
   s.dev.coreRuns c = true → (s.dev.portAt c).issue = [] → (s.dev.portAt c).buf = [] → (s.dev.portAt c).out = [] →
   ((List.range 4).all fun p => (s.dev.portAt p).out.isEmpty) = true → s.dev.slState (s.dev.assistSlice c) ≠ 4 →
   s.dev.sbUsed (s.dev.assistSlice c) < 64 → s.dev.assistBusy (s.dev.assistSlice c) < 4 →
   Completes (.laDiv c rd a b) s fun t => (t.dev.portAt c).out = [{ id := (s.dev.portAt c).next, rd := rd.toNat, op := 0, a := a, b := b, issued := true }] ∧
   (t.dev.slcAt (s.dev.assistSlice c)).flight = (s.dev.slcAt (s.dev.assistSlice c)).flight ++ [{ dsts := [(256, (s.dev.assistResult (s.dev.assistSlice c) 0 a.toInt b.toInt).2)], assist := some (c.val, (s.dev.portAt c).next) }]) ∧
  (∀ (s : State) (c : Fin 4) (rd : BitVec 5) (a : BitVec 64), s.clocked 0 → s.dev.clk 1 = true →
   s.dev.coreRuns c = true → (s.dev.portAt c).issue = [] → (s.dev.portAt c).buf = [] → (s.dev.portAt c).out = [] →
   ((List.range 4).all fun p => (s.dev.portAt p).out.isEmpty) = true → s.dev.slState (s.dev.assistSlice c) ≠ 4 →
   s.dev.sbUsed (s.dev.assistSlice c) < 64 → s.dev.assistBusy (s.dev.assistSlice c) < 4 →
   Completes (.laSqrt c rd a) s fun t => (t.dev.portAt c).out = [{ id := (s.dev.portAt c).next, rd := rd.toNat, op := 1, a := a, b := 0, issued := true }] ∧
   (t.dev.slcAt (s.dev.assistSlice c)).flight = (s.dev.slcAt (s.dev.assistSlice c)).flight ++ [{ dsts := [(256, (s.dev.assistResult (s.dev.assistSlice c) 1 a.toInt 0).2)], assist := some (c.val, (s.dev.portAt c).next) }]) ∧
  (∀ (s : State) (c : Fin 4) (rd : BitVec 5) (a : BitVec 64), s.clocked 0 → s.dev.clk 1 = true →
   s.dev.coreRuns c = true → (s.dev.portAt c).issue = [] → (s.dev.portAt c).buf = [] → (s.dev.portAt c).out = [] →
   ((List.range 4).all fun p => (s.dev.portAt p).out.isEmpty) = true → s.dev.slState (s.dev.assistSlice c) ≠ 4 →
   s.dev.sbUsed (s.dev.assistSlice c) < 64 → s.dev.assistBusy (s.dev.assistSlice c) < 4 →
   Completes (.laSin c rd a) s fun t => (t.dev.portAt c).out = [{ id := (s.dev.portAt c).next, rd := rd.toNat, op := 2, a := a, b := 0, issued := true }] ∧
   (t.dev.slcAt (s.dev.assistSlice c)).flight = (s.dev.slcAt (s.dev.assistSlice c)).flight ++ [{ dsts := [(256, (s.dev.assistResult (s.dev.assistSlice c) 2 a.toInt 0).2)], assist := some (c.val, (s.dev.portAt c).next) }]) ∧
  (∀ (s : State) (c : Fin 4) (rd : BitVec 5) (a : BitVec 64), s.clocked 0 → s.dev.clk 1 = true →
   s.dev.coreRuns c = true → (s.dev.portAt c).issue = [] → (s.dev.portAt c).buf = [] → (s.dev.portAt c).out = [] →
   ((List.range 4).all fun p => (s.dev.portAt p).out.isEmpty) = true → s.dev.slState (s.dev.assistSlice c) ≠ 4 →
   s.dev.sbUsed (s.dev.assistSlice c) < 64 → s.dev.assistBusy (s.dev.assistSlice c) < 4 →
   Completes (.laCos c rd a) s fun t => (t.dev.portAt c).out = [{ id := (s.dev.portAt c).next, rd := rd.toNat, op := 3, a := a, b := 0, issued := true }] ∧
   (t.dev.slcAt (s.dev.assistSlice c)).flight = (s.dev.slcAt (s.dev.assistSlice c)).flight ++ [{ dsts := [(256, (s.dev.assistResult (s.dev.assistSlice c) 3 a.toInt 0).2)], assist := some (c.val, (s.dev.portAt c).next) }]) ∧
  (∀ (s : State) (c : Fin 4) (rd : BitVec 5) (a : BitVec 64) (b : BitVec 64), s.clocked 0 → s.dev.clk 1 = true →
   s.dev.coreRuns c = true → (s.dev.portAt c).issue = [] → (s.dev.portAt c).buf = [] → (s.dev.portAt c).out = [] →
   ((List.range 4).all fun p => (s.dev.portAt p).out.isEmpty) = true → s.dev.slState (s.dev.assistSlice c) ≠ 4 →
   s.dev.sbUsed (s.dev.assistSlice c) < 64 → s.dev.assistBusy (s.dev.assistSlice c) < 4 →
   Completes (.laAtan2 c rd a b) s fun t => (t.dev.portAt c).out = [{ id := (s.dev.portAt c).next, rd := rd.toNat, op := 4, a := a, b := b, issued := true }] ∧
   (t.dev.slcAt (s.dev.assistSlice c)).flight = (s.dev.slcAt (s.dev.assistSlice c)).flight ++ [{ dsts := [(256, (s.dev.assistResult (s.dev.assistSlice c) 4 a.toInt b.toInt).2)], assist := some (c.val, (s.dev.portAt c).next) }]) ∧
  (∀ (s : State) (c : Fin 4) (rd : BitVec 5) (a : BitVec 64) (b : BitVec 64), s.clocked 0 → s.dev.clk 1 = true →
   s.dev.coreRuns c = true → (s.dev.portAt c).issue = [] → (s.dev.portAt c).buf = [] → (s.dev.portAt c).out = [] →
   ((List.range 4).all fun p => (s.dev.portAt p).out.isEmpty) = true → s.dev.slState (s.dev.assistSlice c) ≠ 4 →
   s.dev.sbUsed (s.dev.assistSlice c) < 64 → s.dev.assistBusy (s.dev.assistSlice c) < 4 →
   Completes (.laMag c rd a b) s fun t => (t.dev.portAt c).out = [{ id := (s.dev.portAt c).next, rd := rd.toNat, op := 5, a := a, b := b, issued := true }] ∧
   (t.dev.slcAt (s.dev.assistSlice c)).flight = (s.dev.slcAt (s.dev.assistSlice c)).flight ++ [{ dsts := [(256, (s.dev.assistResult (s.dev.assistSlice c) 5 a.toInt b.toInt).2)], assist := some (c.val, (s.dev.portAt c).next) }]) ∧
  (∀ (s : State) (c : Fin 4) (a : BitVec 64) (b : BitVec 64), s.clocked 0 → s.dev.coreRuns c = true →
   (s.dev.portAt c).issue = [] → (s.dev.portAt c).buf.length < 8 →
   Completes (.laTset c a b) s fun t => (t.dev.portAt c).buf = (s.dev.portAt c).buf ++ [.tset a b]) ∧
  (∀ (s : State) (c : Fin 4) (a : BitVec 64), s.clocked 0 → s.dev.coreRuns c = true → (s.dev.portAt c).issue = [] →
   (s.dev.portAt c).buf.length < 8 →
   Completes (.laTcommit c a) s fun t => (t.dev.portAt c).buf = (s.dev.portAt c).buf ++ [.tcommit a]) ∧
  (∀ (s : State) (c : Fin 4) (a : BitVec 64), s.clocked 0 → s.dev.coreRuns c = true → (s.dev.portAt c).issue = [] →
   (s.dev.portAt c).buf.length < 8 →
   Completes (.laRun c a) s fun t => (t.dev.portAt c).buf = (s.dev.portAt c).buf ++ [.run a]) ∧
  (∀ (s : State) (c : Fin 4) (j : Fin 2) (r : LaReq) (v : BitVec 64), s.clocked 1 →
   (s.dev.portAt c).out[j.val]? = some r → r.value = some v → r.rd ≠ 0 →
   Completes (.assistResultReturn c j) s fun t => ((s.dev.portAt c).issue = [] →
   Tab.find (fun _ => 0) (t.dev.portAt c).x r.rd = v) ∧ ((s.dev.portAt c).issue = [] →
   ((t.dev.portAt c).out.map fun q => q.id) = ((s.dev.portAt c).out.eraseIdx j.val).map fun q => q.id)) ∧
  (∀ (s : State) (c : Fin 4) (a : BitVec 64) (b : BitVec 64) (l : List LaWrite), s.clocked 1 →
   (s.dev.portAt c).buf = .tset a b :: l → (s.dev.portAt c).issue = [] →
   Completes (.commitBufferSend c) s fun t => (t.dev.portAt c).buf = l ∧
   (t.dev.portAt c).staged.head? = some (fieldGet a 16 3, fieldGet a 8 6, fieldGet a 0 8, b)) ∧
  (∀ (s : State) (c : Fin 4) (a : BitVec 64) (l : List LaWrite), s.clocked 1 → (s.dev.portAt c).buf = .run a :: l →
   (s.dev.portAt c).issue = [] → (s.dev.guardedSlice (fieldGet a 0 6) = false ∨ s.dev.lockstep (c.val / 2) = true) →
   Completes (.commitBufferSend c) s fun t => (t.dev.portAt c).buf = l ∧
   t.dev.bit (CEN_SCFG_RUN (fieldGet a 0 6)) = decide (fieldGet a 8 1 = 1)) ∧
  (∀ (s : State) (c : Fin 4) (j : Fin 8), s.clocked 0 → s.dev.portAct c = true →
   j.val < (s.dev.portAt c).buf.length → Completes (.squash c (.write j)) s fun t => ((s.dev.portAt c).issue = [] →
   (t.dev.portAt c).buf = (s.dev.portAt c).buf.eraseIdx j.val) ∧ Counted (CEN_LACNT_SQUASH c) s t) ∧
  (∀ (s : State) (c : Fin 4) (rd : Nat) (v : BitVec 64) (l : List (Nat × BitVec 64)), s.clocked 0 →
   s.dev.portAct c = true → (s.dev.portAt c).reads = (rd, v) :: l → rd ≠ 0 →
   Completes (.squash c .read) s fun t => Tab.find (fun _ => 0) (t.dev.portAt c).x rd = v ∧
   (t.dev.portAt c).reads = l ∧ Counted (CEN_LACNT_SQUASH c) s t) ∧
  (∀ (s : State) (c : Fin 4) (i : LaOp), s.clocked 0 → s.dev.portAct c = true →
   (s.dev.portAt c).issue.getLast? = some i →
   Completes (.squash c .waiting) s fun t => (t.dev.portAt c).issue = (s.dev.portAt c).issue.dropLast ∧
   (t.dev.portAt c).buf = (s.dev.portAt c).buf) ∧
  (∀ (s : State) (c : Fin 4) (a : BitVec 64), s.clocked 0 → s.dev.coreRuns c = true →
   8 ≤ (s.dev.portAt c).buf.length → (s.dev.portAt c).issue = [] →
   Completes (.laRun c a) s fun t => (t.dev.portAt c).buf = (s.dev.portAt c).buf ∧
   (t.dev.portAt c).issue = [.write (.run a)] ∧ Counted (CEN_LACNT_STALL_CB c) s t) ∧
  (∀ (c : Fin 4) (v : BitVec 64) (u : BitVec 64), laDecode c 0x00C5950B v u = some (.laDiv c 10 v u) ∧
   laDecode c 0x0203028B v u = some (.laRdout c 5 v)) ∧
  (∀ (s : State) (c : Fin 4) (j : Fin 2), s.clocked 0 → s.dev.portAct c = true →
   j.val < (s.dev.portAt c).out.length → Completes (.squash c (.compute j)) s fun t => ((s.dev.portAt c).issue = [] →
   ((t.dev.portAt c).out.map fun r => r.id) = ((s.dev.portAt c).out.eraseIdx j.val).map fun r => r.id) ∧
   Counted (CEN_LACNT_SQUASH c) s t) ∧
  (∀ (s : State) (c : Fin 4) (w : BitVec 32), s.clocked 0 → w.toNat % 128 = 11 → laListed w = false →
   s.dev.coreRuns c = true → Completes (.illegalInstruction c w) s fun t => (t.dev.portAt c).illegal = some w)

/-- A permitted ARM starts FILL, STOP ends a recording, FORCE fires the trigger, the write port stores the one waiting
sample record at the write pointer and counts it, and a write of a core stores its bytes unless it meets the region of
a recording channel, where it is discarded and counted. Each is said under conditions on the state and the operands
alone: power, the clock of the block, an active image or a running origin where the command needs them, and what its
rules ask. Constructors that complete (exec answers a next state): arm, stop, force, spoolRecordWrite,
spoolMemoryWrite. -/
def Obligations.SpoolCommandsComplete : Prop :=
  (∀ (s : State), s.inUse → (s.dev.get SPL_STAT_STATE = 0 ∨ s.dev.get SPL_STAT_STATE = 4) → s.dev.armWhy = 0 →
   Completes (.arm) s fun t => t.dev.get SPL_STAT_STATE = 1 ∧ t.dev.get SPL_STAT_TRIGGED = 0) ∧
  (∀ (s : State), s.inUse → 1 ≤ s.dev.get SPL_STAT_STATE → s.dev.get SPL_STAT_STATE ≤ 3 →
   Completes (.stop) s fun t => t.dev.get SPL_STAT_STATE = 0) ∧
  (∀ (s : State), s.inUse → (s.dev.get SPL_STAT_STATE = 1 ∨ s.dev.get SPL_STAT_STATE = 2) →
   ((List.range 16).any fun c => decide (s.dev.splType c ≠ 0) && decide (s.dev.get (SPL_CHPP_POST c) ≠ 0)) = true →
   Completes (.force) s fun t => t.dev.get SPL_STAT_STATE = 3 ∧ t.dev.get SPL_STAT_TRIGGED = 1 ∧
   t.dev.reg A_SPL_TSTAMP = BitVec.ofNat 64 s.dev.time) ∧
  (∀ (s : State) (c : Fin 16) (w0 : BitVec 64) (l : List (List (BitVec 64))), s.clocked 0 →
   s.dev.splRecording c = true → s.dev.get SPL_TRIG_KIND ≠ 2 → s.dev.splType c = 1 →
   (s.dev.sch c).queue = [w0] :: l →
   ((List.range 16).all fun k => decide (k = c.val) || (s.dev.sch k).queue.isEmpty) = true →
   Completes (.spoolRecordWrite) s fun t => (t.dev.sch c).queue = l ∧
   rd8 t.mem (0x30000000 + s.dev.get (SPL_CHBUF_BASE c) * 4096 + s.dev.get (SPL_CHST_WPTR c) * 8) = w0.setWidth 8 ∧
   Counted (SPL_CHCNT_RECORDS c) s t) ∧
  (∀ (s : State) (a : BitVec 40) (v : BitVec 64), s.inUse → 0x30000000 ≤ a.toNat → a.toNat + 8 ≤ 0x30400000 →
   s.dev.splMeets a.toNat 8 = false → Completes (.spoolMemoryWrite a .w64 v) s fun t => rdLE t.mem a.toNat 8 = v.toNat) ∧
  (∀ (s : State) (a : BitVec 40) (w : Width) (v : BitVec 64), s.inUse → 0x30000000 ≤ a.toNat →
   a.toNat + w.bytes ≤ 0x30400000 → s.dev.splMeets a.toNat w.bytes = true →
   Completes (.spoolMemoryWrite a w v) s fun t => t.mem = s.mem ∧ Counted SPL_CNT_WR_REF s t)

/-- An axis whose enable conditions hold goes to STANDSTILL with EN and running bridges, a disable to OFF, a stop discards
the targets and a moving axis goes to STOPPING; HOME_GO starts homing; position and velocity targets come into force;
a position write changes the shift only; a tick in STANDSTILL without a target shows the position and one of a moving
axis in velocity mode takes the next velocity of the trapezoid; a step edge moves the follow target by STEP_SCALE; a
limit stops a move towards it; the home switch latches the position and the debounce confirms or discards it. Each is
said under conditions on the state and the operands alone: power, the clock of the block, an active image or a running
origin where the command needs them, and what its rules ask. Constructors that complete (exec answers a next state):
axisEnable, axisDisable, axisStop, homeGo, positionTargetWrite, velocityTargetWrite, positionWrite, holdCurrentTimer,
motionTick, stepEdge, limitSwitchEdge, homeSwitchEdge, homeDebounceExpire. -/
def Obligations.AxisCommandsComplete : Prop :=
  (∀ (s : State) (n : Fin 12), s.inUse → s.dev.get (STP_STAT_STATE n) = 0 → s.dev.get STP_VSTP_UV_NOW = 0 →
   s.dev.get STP_VSTP_OV_NOW = 0 → s.dev.get HEM_STAT_HOLD = 0 → s.dev.partHeld = false →
   s.dev.get STP_HEMLIM_I_COIL_MAX ≠ 0 → s.dev.get (STP_FLT_SHORT_A n) = 0 ∧ s.dev.get (STP_FLT_SHORT_B n) = 0 ∧
   s.dev.get (STP_FLT_OPEN_A n) = 0 ∧ s.dev.get (STP_FLT_OPEN_B n) = 0 ∧ s.dev.get (STP_FLT_STALL n) = 0 →
   Completes (.axisEnable n) s fun t => t.dev.get (STP_STAT_STATE n) = 1 ∧ t.dev.get (STP_CTL_EN n) = 1 ∧
   (t.dev.axisAt n).bridges = true) ∧
  (∀ (s : State) (n : Fin 12), s.inUse → Completes (.axisDisable n) s fun t => t.dev.get (STP_STAT_STATE n) = 0 ∧
   t.dev.get (STP_CTL_EN n) = 0) ∧
  (∀ (s : State) (n : Fin 12), s.inUse → Completes (.axisStop n) s fun t => (t.dev.axisAt n).hasTgt = false ∧
   (t.dev.axisAt n).hasV = false ∧ (s.dev.get (STP_STAT_STATE n) = 2 ∨ s.dev.get (STP_STAT_STATE n) = 3 →
   t.dev.get (STP_STAT_STATE n) = 4)) ∧
  (∀ (s : State) (n : Fin 12), s.inUse → s.dev.get (STP_STAT_STATE n) = 1 → s.dev.get (STP_CTL_MODE n) = 3 →
   Completes (.homeGo n) s fun t => t.dev.get (STP_STAT_STATE n) = 3 ∧ t.dev.get (STP_STAT_HSTATE n) = 1 ∧
   t.dev.get (STP_STAT_HOMED n) = 0) ∧
  (∀ (s : State) (n : Fin 12) (v : BitVec 64), s.inUse → s.dev.get (STP_CTL_TGT_SRC n) = 0 →
   ((if s.dev.limBars n (v.toInt - (s.dev.axisAt n).shift - (s.dev.axisAt n).count) then 1 else 0) : Nat) = 0 →
   Completes (.positionTargetWrite n v) s fun t => t.dev.reg (A_STP_TGT n) = v ∧ (t.dev.axisAt n).hasTgt = true ∧
   (t.dev.axisAt n).tgt = v.toInt - (s.dev.axisAt n).shift) ∧
  (∀ (s : State) (n : Fin 12) (v : BitVec 64), s.inUse → s.dev.get (STP_CTL_TGT_SRC n) = 0 →
   Completes (.velocityTargetWrite n v) s fun t => t.dev.reg (A_STP_VTGT n) = v ∧ (t.dev.axisAt n).hasV = true ∧
   (t.dev.axisAt n).vt = v.toInt) ∧
  (∀ (s : State) (n : Fin 12) (v : BitVec 64), s.inUse → s.dev.get (STP_STAT_STATE n) ≤ 1 →
   Completes (.positionWrite n v) s fun t => (t.dev.axisAt n).shift = v.toInt - (s.dev.axisAt n).count ∧
   (t.dev.axisAt n).count = (s.dev.axisAt n).count ∧ t.dev.reg (A_STP_POS n) = v) ∧
  (∀ (s : State) (n : Fin 12), s.clocked 2 → s.dev.get (STP_STAT_STATE n) = 1 →
   Completes (.holdCurrentTimer n) s fun t => t.dev.get (STP_STAT_HOLDI n) = 1) ∧
  (∀ (s : State) (n : Fin 12) (low : BitVec 2), s.clocked 2 → s.dev.get (STP_STAT_STATE n) = 1 →
   s.dev.axWants n = false → s.dev.get (STP_CTL_MODE n) = 0 →
   Completes (.motionTick n low) s fun t => t.dev.reg (A_STP_POS n) = BitVec.ofInt 64 ((s.dev.axisAt n).count + (s.dev.axisAt n).shift) ∧
   (t.dev.axisAt n).count = (s.dev.axisAt n).count) ∧
  (∀ (s : State) (n : Fin 12) (low : BitVec 2), s.clocked 2 → s.dev.get (STP_STAT_STATE n) = 2 →
   s.dev.get (STP_CTL_MODE n) = 1 → s.dev.get (STP_CTL_PROFILE n) = 0 → s.dev.axVt n ≠ 0 →
   s.dev.get (STP_STALL_STALL_EN n) = 0 →
   Completes (.motionTick n low) s fun t => t.dev.get (STP_VEL n) = unsigned (STP_VEL n).w (trapStep (s.dev.getI (STP_VEL n)) (s.dev.axVt n) (perTick (s.dev.axLim (A_STP_AMAX n))) (perTick (s.dev.axLim (A_STP_DMAX n))))) ∧
  (∀ (s : State) (n : Fin 12) (d : Bool), s.clocked 2 → s.dev.get (STP_CTL_MODE n) = 2 →
   (s.dev.get (STP_STAT_STATE n) = 1 ∨ s.dev.get (STP_STAT_STATE n) = 2) → s.dev.get (STP_FLT_LAG n) = 0 →
   ((s.dev.axisAt n).follow + (if d = s.dev.bit (STP_FOLLOW_DIR_INV n) then s.dev.stepScale n else -(s.dev.stepScale n)) - (s.dev.axisAt n).count).natAbs ≤ s.dev.get (STP_FOLLOW_LAG_MAX n) →
   Completes (.stepEdge n d) s fun t => (t.dev.axisAt n).follow = (s.dev.axisAt n).follow + (if d = s.dev.bit (STP_FOLLOW_DIR_INV n) then s.dev.stepScale n else -(s.dev.stepScale n))) ∧
  (∀ (s : State) (n : Fin 12) (pos : Bool), s.clocked 2 → s.dev.limActive n pos = true →
   s.dev.get (STP_STAT_STATE n) = 2 → (if pos then 0 < s.dev.getI (STP_VEL n) else s.dev.getI (STP_VEL n) < 0) →
   Completes (.limitSwitchEdge n pos) s fun t => t.dev.get (STP_STAT_STATE n) = 4 ∧ (t.dev.axisAt n).eStop = true ∧
   Raised (stpSrc n 5) s t ∧ t.dev.get (if pos then STP_FLT_LIMP n else STP_FLT_LIMN n) = 1) ∧
  (∀ (s : State) (n : Fin 12), s.clocked 2 → s.dev.get (STP_STAT_STATE n) = 3 → s.dev.get (STP_STAT_HSTATE n) = 3 →
   s.dev.homeActive n = true →
   Completes (.homeSwitchEdge n) s fun t => (t.dev.axisAt n).homeLatch = (s.dev.axisAt n).count ∧
   t.dev.reg (A_STP_LATCH n) = BitVec.ofInt 64 ((s.dev.axisAt n).count + (s.dev.axisAt n).shift) ∧
   (t.dev.get (STP_STAT_HSTATE n) = if s.dev.get (STP_SW_DEB_US n) = 0 then 5 else 4)) ∧
  (∀ (s : State) (n : Fin 12), s.clocked 2 → s.dev.get (STP_STAT_STATE n) = 3 → s.dev.get (STP_STAT_HSTATE n) = 4 →
   Completes (.homeDebounceExpire n) s fun t => (t.dev.get (STP_STAT_HSTATE n) = if s.dev.homeActive n then 5 else 3))

/-- An on-phase ends past the blanking (its times counted as in log entry 93) when the magnitude reaches the upper
threshold, an off-phase when it reaches the lower one, with a tail and UNDERSHOOT while TOFF_MIN has not passed; a
tail ends in an on-phase; a phase whose bootstrap is low begins with a recharge instead (phase 3, log entry 92); an
on-phase of full length counts NOT_REACHED; a coil short puts a live axis in FAULT with its event; a VSTP fault is
shown and latched, every live axis that it puts into HOLD is counted, and its recovery clears what is shown. Each is
said under conditions on the state and the operands alone: power, the clock of the block, an active image or a running
origin where the command needs them, and what its rules ask. Constructors that complete (exec answers a next state):
chopperUpperReached, chopperLowerReached, chopperTailEnd, onPhaseLimit, coilShort, vstpFault, vstpRecovered. -/
def Obligations.ChoppersComplete : Prop :=
  (∀ (s : State) (n : Fin 12) (b : Bool) (ns : BitVec 32) (c : BitVec 10) (low : Bool), s.clocked 2 →
   (s.dev.coil n b).phase = 1 → s.dev.chopSees n ns.toNat = true → s.dev.chopThr n b true ≤ c.toNat →
   Completes (.chopperUpperReached n b ns (c, low)) s fun t => ((t.dev.coil n b).phase = if low then 3 else 2) ∧
   (t.dev.coil n b).lastOn = ns.toNat) ∧
  (∀ (s : State) (n : Fin 12) (b : Bool) (ns : BitVec 32) (c : BitVec 10) (low : Bool), s.clocked 2 →
   (s.dev.coil n b).phase = 2 → s.dev.chopSees n ns.toNat = true → (c.toNat : Int) ≤ s.dev.chopThr n b false →
   ns.toNat < s.dev.tOffMin n → Completes (.chopperLowerReached n b ns c low) s fun t => (t.dev.coil n b).phase = 3 ∧
   Counted (STP_CNT_UNDERSHOOT n) s t) ∧
  (∀ (s : State) (n : Fin 12) (b : Bool) (ns : BitVec 32) (c : BitVec 10) (low : Bool), s.clocked 2 →
   (s.dev.coil n b).phase = 2 → s.dev.chopSees n ns.toNat = true → (c.toNat : Int) ≤ s.dev.chopThr n b false →
   s.dev.tOffMin n ≤ ns.toNat → 1000000 ≤ ((s.dev.coil n b).lastOn + ns.toNat) * s.dev.fchMax n →
   s.dev.coilIdle n b = false →
   Completes (.chopperLowerReached n b ns c low) s fun t => ((t.dev.coil n b).phase = if low then 3 else 1) ∧
   (low = false → (t.dev.coil n b).pol = decide ((s.dev.coil n b).tgt < 0))) ∧
  (∀ (s : State) (n : Fin 12) (b : Bool), s.clocked 2 → (s.dev.coil n b).phase = 3 → s.dev.coilIdle n b = false →
   Completes (.chopperTailEnd n b false) s fun t => (t.dev.coil n b).phase = 1) ∧
  (∀ (s : State) (n : Fin 12) (b : Bool), s.clocked 2 → (s.dev.coil n b).phase = 3 → s.dev.coilIdle n b = false →
   Completes (.chopperTailEnd n b true) s fun t => (t.dev.coil n b).phase = 3 ∧ Counted (STP_CNT2_BST_UV n) s t) ∧
  (∀ (s : State) (n : Fin 12) (b : Bool) (ns : BitVec 32) (low : Bool), s.clocked 2 → (s.dev.coil n b).phase = 1 →
   1000000 / s.dev.fchMin n - s.dev.tOffMin n ≤ ns.toNat →
   Completes (.onPhaseLimit n b (ns, low)) s fun t => ((t.dev.coil n b).phase = if low then 3 else 2) ∧
   (t.dev.coil n b).limited = true ∧ Counted (STP_CNT_NOT_REACHED n) s t) ∧
  (∀ (s : State) (n : Fin 12) (b : Bool) (ns : BitVec 32) (mv : BitVec 32), s.powered →
   axLive (s.dev.get (STP_STAT_STATE n)) = true → (s.dev.coil n b).phase ≠ 0 →
   s.dev.chopSees n (ns.toNat - 250) = true → s.dev.dsTh n < mv.toNat →
   Completes (.coilShort n (b, ns, mv)) s fun t => t.dev.get (STP_STAT_STATE n) = 5 ∧
   t.dev.get (if b then STP_FLT_SHORT_B n else STP_FLT_SHORT_A n) = 1 ∧ Raised (stpSrc n 6) s t) ∧
  (∀ (s : State) (v : BitVec 16), s.powered → v.toNat < 25 * s.dev.get STP_VSTP_UV →
   Completes (.vstpFault v) s fun t => t.dev.get STP_VSTP_UV_NOW = 1 ∧ t.dev.get STP_VSTP_UV_SEEN = 1 ∧
   t.dev.get STP_VSTP_FAULTS = min (s.dev.get STP_VSTP_FAULTS + ((List.range 12).filter fun n => axLive (s.dev.get (STP_STAT_STATE n))).length) (2 ^ STP_VSTP_FAULTS.w - 1) ∧
   t.dev.get STP_VSTP_VSTP = v.toNat) ∧
  (∀ (s : State) (v : BitVec 16), s.powered → 25 * s.dev.get STP_VSTP_UV + 50 ≤ v.toNat →
   v.toNat + 50 ≤ 25 * s.dev.get STP_VSTP_OV →
   Completes (.vstpRecovered v) s fun t => t.dev.get STP_VSTP_UV_NOW = 0 ∧ t.dev.get STP_VSTP_OV_NOW = 0 ∧
   t.dev.get STP_VSTP_VSTP = v.toNat)

/-- A checkpoint clears the undo log and saves the registers, the control state and the event acknowledgements of the pair
(the pending words of its target, log entry 94); a private store writes memory and logs the old word first; a mismatch
below the limit puts the pair in RESTART with its stamp, count and event; a completed restart replays the undo log and
resumes lockstep, a failed self-test retires the pair and moves the role; the owner services the watchdog; split,
hand-over, acknowledge, time-outs and rejoin take the states and causes the rules give. Each is said under conditions
on the state and the operands alone: power, the clock of the block, an active image or a running origin where the
command needs them, and what its rules ask. Constructors that complete (exec answers a next state): checkpoint,
forced, privateStore, mismatchDetected, darnRestartComplete, watchdogService, split, splitComplete, ownerReq, safeAck,
handoverTimeout, rejoin, rejoinTimeout, rejoinComplete, splitCoreParity, splitCoreSelfTestDone. -/
def Obligations.CorePairCommandsComplete : Prop :=
  (∀ (s : State) (p : Fin 2), s.clocked 0 → s.dev.pairRuns p = true →
   Completes (.checkpoint p) s fun t => (t.dev.pairAt p).undo = [] ∧
   (t.dev.pairAt p).checkpoint = (s.dev.pairAt p).checkpoint + 1 ∧
   (t.dev.pairAt p).chk = ⟨(s.dev.portAt (2 * p)).x, (s.dev.portAt (2 * p)).sys, (List.range 12).map fun j => s.dev.reg (A_EVR_PEND (2 * p) j)⟩ ∧
   (t.dev.pairAt p).events = []) ∧
  (∀ (s : State) (p : Fin 2), s.clocked 0 → s.dev.pairRuns p = true → 3968 ≤ (s.dev.pairAt p).undo.length →
   Completes (.forced p) s fun t => (t.dev.pairAt p).undo = [] ∧ Counted (HEM_DARN_FORCED p) s t) ∧
  (∀ (s : State) (p : Fin 2) (a : BitVec 40) (v : BitVec 64), s.clocked 0 → s.dev.pairRuns p = true →
   0x10000000 ≤ a.toNat → a.toNat + 8 ≤ 0x11000000 → a.toNat % 8 = 0 → s.dev.isPrivate p a.toNat = true →
   (s.dev.pairAt p).undo.length < 4096 →
   Completes (.privateStore p a .w64 v) s fun t => rdLE t.mem a.toNat 8 = v.toNat ∧
   (t.dev.pairAt p).undo.head? = some (a.toNat, BitVec.ofNat 64 (rdLE s.mem a.toNat 8))) ∧
  (∀ (s : State) (p : Fin 2), s.clocked 0 → s.dev.pairState p = 0 →
   (s.dev.mmRecent p).length < clampN 1 15 (s.dev.get HEM_DARNCFG_MM_MAX) →
   Completes (.mismatchDetected p) s fun t => t.dev.pairState p = 1 ∧
   t.dev.reg (A_HEM_MMSTAMP p) = BitVec.ofNat 64 s.dev.time ∧ Counted (HEM_DARN_MISMATCH p) s t ∧ Raised (728 + p) s t) ∧
  (∀ (s : State) (p : Fin 2) (us : BitVec 12), s.clocked 0 → s.dev.pairState p = 1 →
   Completes (.darnRestartComplete p true us) s fun t => t.dev.pairState p = 0 ∧
   t.mem = undoReplay s.mem (s.dev.pairAt p).undo ∧ (t.dev.pairAt p).undo = [] ∧
   t.dev.get (HEM_DARN_LAST_US p) = us.toNat ∧ Counted (HEM_DARN_RESTARTS p) s t ∧ Raised (730 + p) s t) ∧
  (∀ (s : State) (p : Fin 2) (us : BitVec 12), s.clocked 0 → s.dev.pairState p = 1 →
   s.dev.pairState (otherPair p) = 0 → Completes (.darnRestartComplete p false us) s fun t => t.dev.pairState p = 3 ∧
   t.dev.owner ≠ p.val ∧ Raised 732 s t) ∧
  (∀ (s : State) (o : Origin), s.accesses o → s.dev.isOwner o = true →
   Completes (.watchdogService o 0x6D0F) s fun t => t.dev.hem.dogAt = s.dev.mono ∧ t.dev.regs = s.dev.regs) ∧
  (∀ (s : State) (p : Fin 2), s.accesses (.pair p) → s.dev.lockstep p = true → s.dev.pairState p = 0 →
   (s.dev.pairAt p).splitWanted = false → s.dev.pairState (otherPair p) = 0 →
   (s.dev.pairAt (otherPair p)).splitWanted = false → s.dev.owner = p.val →
   Completes (.split (.pair p)) s fun t => t.dev.pairState p = 4 ∧ (t.dev.pairAt p).splitWanted = true ∧
   Raised 733 s t) ∧
  (∀ (s : State) (p : Fin 2), s.accesses (.pair p) → s.dev.pairState p = 0 → (s.dev.pairAt p).splitWanted = false →
   s.dev.pairState (otherPair p) = 2 → Completes (.split (.pair p)) s fun t => t.dev.get HEM_STAT_REFUSE_WHY = 2 ∧
   t.dev.pairState p = 0 ∧ Raised 742 s t) ∧
  (∀ (s : State) (p : Fin 2), s.clocked 0 → (s.dev.pairAt p).splitWanted = true → s.dev.owner ≠ p.val →
   (s.dev.pairState p = 0 ∨ s.dev.pairState p = 4) → Completes (.splitComplete p) s fun t => t.dev.pairState p = 2 ∧
   (t.dev.pairAt p).undo = [] ∧ Raised 734 s t) ∧
  (∀ (s : State) (o : Origin), s.accesses o → s.dev.isOwner o = true → s.dev.pairState s.dev.owner = 0 →
   s.dev.pairState (otherPair s.dev.owner) = 0 → (s.dev.pairAt (otherPair s.dev.owner)).splitWanted = false →
   Completes (.ownerReq o) s fun t => t.dev.pairState s.dev.owner = 4 ∧ Raised 733 s t) ∧
  (∀ (s : State) (q : Fin 2), s.accesses (.pair q) → s.dev.owner ≠ q.val → s.dev.pairState s.dev.owner = 4 →
   s.dev.lockstep q = true → (s.dev.pairAt s.dev.owner).splitWanted = false →
   Completes (.safeAck (.pair q)) s fun t => t.dev.owner = q.val ∧ t.dev.pairState s.dev.owner = 0) ∧
  (∀ (s : State), s.powered → s.dev.pairState s.dev.owner = 4 →
   Completes (.handoverTimeout) s fun t => t.dev.pairState s.dev.owner = 0 ∧ t.dev.get HEM_STAT_REFUSE_WHY = 3 ∧
   Raised 742 s t) ∧
  (∀ (s : State) (c : Fin 4), s.accesses (.core c) → s.dev.pairState (c / 2) = 2 →
   (s.dev.pairAt (c / 2)).rejoiner = none →
   Completes (.rejoin c) s fun t => (t.dev.pairAt (c.val / 2)).rejoiner = some (c.val % 2)) ∧
  (∀ (s : State) (c : Fin 4) (w : Nat), s.accesses (.core c) → s.dev.pairState (c / 2) = 2 →
   (s.dev.pairAt (c / 2)).rejoiner = some w → w ≠ c.val % 2 →
   Completes (.rejoin c) s fun t => t.dev.pairState (c.val / 2) = 5) ∧
  (∀ (s : State) (p : Fin 2), s.clocked 0 → s.dev.pairState p = 2 → (s.dev.pairAt p).rejoiner ≠ none →
   Completes (.rejoinTimeout p) s fun t => (t.dev.pairAt p).rejoiner = none ∧ t.dev.get HEM_STAT_REFUSE_WHY = 5 ∧
   Raised 742 s t) ∧
  (∀ (s : State) (p : Fin 2), s.clocked 0 → s.dev.pairState p = 5 →
   Completes (.rejoinComplete p) s fun t => t.dev.pairState p = 0 ∧
   (t.dev.pairAt p).checkpoint = (s.dev.pairAt p).checkpoint + 1 ∧ Raised 734 s t) ∧
  (∀ (s : State) (c : Fin 4), s.clocked 0 → s.dev.pairState (c / 2) = 2 →
   Completes (.splitCoreParity c) s fun t => (t.dev.pairAt (c.val / 2)).selfTest.testBit (c.val % 2) = true ∧
   Counted (HEM_DARN_SPLIT_RST (c.val / 2)) s t ∧ (t.dev.portAt c).x = []) ∧
  (∀ (s : State) (c : Fin 4), s.clocked 0 →
   Completes (.splitCoreSelfTestDone c) s fun t => (t.dev.pairAt (c.val / 2)).selfTest.testBit (c.val % 2) = false)

/-- A derating update shows the temperature factor and whether the flow is stale (log entry 51: the limits of PG0 govern a
six-phase drive; a temperature without a source); a speed or UDC trip whose condition holds counts, raises SAFE_CMD
and issues the safe-state command to its group: a running current-loop unit moves to SAFE, and with pulse-off selected
no linked channel of the group is left ACTIVE or in ASC and the safe-state record shows pulse-off (MODE 1); with READY
reached and no other cause the hold ends and HOLD is raised. Each is said under conditions on the state and the
operands alone: power, the clock of the block, an active image or a running origin where the command needs them, and
what its rules ask. Constructors that complete (exec answers a next state): deratingUpdate, hemSpeedTrip, hemUdcTrip,
hold. -/
def Obligations.HemCommandsComplete : Prop :=
  (∀ (s : State), s.powered →
   Completes (.deratingUpdate) s fun t => t.dev.get (HEM_DER_F_TEMP 0) = (near (100 * ((s.dev.tempKeep).fTemp ((s.dev.tempKeep).tempSources 0)).1) ((s.dev.tempKeep).fTemp ((s.dev.tempKeep).tempSources 0)).2).toNat % 2 ^ (HEM_DER_F_TEMP 0).w ∧
   t.dev.get (HEM_DER_FLOW_STALE 1) = s.dev.get FLW_STAT_STALE) ∧
  (∀ (s : State) (g : Fin 2), s.powered →
   (s.dev.get (HEM_GLIM_SPD_MAX (s.dev.limGrp g)) : Int) * (100 + s.dev.get (HEM_GLIM_SPD_MARGIN (s.dev.limGrp g))) * 2 ^ 32 < (s.dev.cluSpeed (s.dev.limGrp g)).natAbs * 10000 →
   Completes (.hemSpeedTrip g) s fun t => Counted (HEM_VIOL_SPD (s.dev.limGrp g)) s t ∧ Raised 738 s t ∧
   ((1 ≤ s.dev.get (CLU_STAT_STATE (s.dev.limGrp g)) ∧ s.dev.get (CLU_STAT_STATE (s.dev.limGrp g)) ≤ 4) →
   t.dev.get (CLU_STAT_STATE (s.dev.limGrp g)) = 5) ∧ (s.dev.selAsc (s.dev.limGrp g) = false →
   t.dev.get (ascMode (s.dev.limGrp g)) = 1 ∧
   ((s.dev.chans (s.dev.limGrp g)).all fun n => !(s.dev.gchAt n).link || decide (t.dev.get (GCH_STAT_STATE n) ≠ 2 ∧
   t.dev.get (GCH_STAT_STATE n) ≠ 5)) = true)) ∧
  (∀ (s : State) (g : Fin 2), s.powered → s.dev.grpOn (s.dev.limGrp g) = true →
   s.dev.udcInRange (s.dev.limGrp g) = false →
   Completes (.hemUdcTrip g) s fun t => Counted (HEM_VIOL_UDC (s.dev.limGrp g)) s t ∧ Raised 738 s t ∧
   ((1 ≤ s.dev.get (CLU_STAT_STATE (s.dev.limGrp g)) ∧ s.dev.get (CLU_STAT_STATE (s.dev.limGrp g)) ≤ 4) →
   t.dev.get (CLU_STAT_STATE (s.dev.limGrp g)) = 5) ∧ (s.dev.selAsc (s.dev.limGrp g) = false →
   t.dev.get (ascMode (s.dev.limGrp g)) = 1 ∧
   ((s.dev.chans (s.dev.limGrp g)).all fun n => !(s.dev.gchAt n).link || decide (t.dev.get (GCH_STAT_STATE n) ≠ 2 ∧
   t.dev.get (GCH_STAT_STATE n) ≠ 5)) = true)) ∧
  (∀ (s : State), s.powered → s.dev.hem.why &&& 2 = 2 → s.dev.get HEM_STAT_HOLD = 1 →
   s.dev.get SYS_PWRSTATE_READY = 1 → s.dev.hem.why = 2 → s.dev.bothRetired = false → s.dev.startFault = false →
   s.dev.holdReq = false → s.dev.inLoss = false → Completes (.hold) s fun t => t.dev.get HEM_STAT_HOLD = 0 ∧
   t.dev.hem.why = 0 ∧ Raised 741 s t)

/-- While Thimble runs: a core fault puts both groups in STO with the brake off, a restart latches CORE and the third
stops Thimble; path, brake, input and discharge tests latch the faults they find; speed and SEL follow; SS1 goes on,
is violated, ends at its deadline or after the brake engaged; STO_ASC and SAFE move to STO; input levels and the DC
link are shown; lockout, unlock and discharge timers end what they time. SBC_TEST_PULSE is the whole pulse (log entry
95); that the end of a lockout also clears the count of wrong passwords rests on log entries 54 and 102. Each is said
under conditions on the state and the operands alone: power, the clock of the block, an active image or a running
origin where the command needs them, and what its rules ask. Constructors that complete (exec answers a next state):
thimbleCoreFault, thimbleRestartDone, pathTest, speedCheck, selReleaseTimer, ss1Check, ss1Deadline, sbcEngageTimer,
stoAscTimeout, safeToSto, safetyInputChange, siDisc, sbcTestPulse, sbcApplyCheck, sbcCurrentLow, tmWindowEnd, udcDiv,
disSlow, windingDischargeStop, lockoutExpiry, lockoutSave, unlockTimeout. -/
def Obligations.ThimbleActsComplete : Prop :=
  (∀ (s : State), s.powered → s.dev.get THM_STAT_STATE < 2 →
   Completes (.thimbleCoreFault) s fun t => t.dev.get THM_STAT_STATE = 2 ∧ t.dev.thmState 0 = 0 ∧
   t.dev.thmState 1 = 0 ∧ t.dev.thm.fo14 = false ∧ t.dev.thm.fo15 = false) ∧
  (∀ (s : State), s.powered → s.dev.get THM_STAT_STATE = 2 → s.dev.get THM_STAT_RESTARTS + 1 < 3 →
   Completes (.thimbleRestartDone) s fun t => t.dev.get THM_STAT_STATE = 1 ∧ Counted THM_STAT_RESTARTS s t ∧
   t.dev.tb THM_FLT_LATCH 0 = true) ∧
  (∀ (s : State), s.powered → s.dev.get THM_STAT_STATE = 2 → 2 ≤ s.dev.get THM_STAT_RESTARTS →
   Completes (.thimbleRestartDone) s fun t => t.dev.get THM_STAT_STATE = 3) ∧
  (∀ (s : State) (n : Fin 14) (p1 : Bool) (p2 : Bool), s.powered → s.dev.thmRuns = true →
   (if n.val < 12 then s.dev.thmState (s.dev.groupOf n) = 0 else s.dev.get (GCH_STAT_STATE n) = 1) →
   (p1 = true ∨ p2 = true) → s.dev.trained n = true →
   Completes (.pathTest n p1 p2) s fun t => t.dev.tb THM_FLT_LATCH 1 = true) ∧
  (∀ (s : State), s.powered → s.dev.thmRuns = true → s.dev.six = false →
   Completes (.speedCheck) s fun t => (t.dev.tgrpAt 1).n = (s.dev.thmSpeed 1).1 ∧
   t.dev.bit (THM_GRP_SPD_VALID 1) = (s.dev.thmSpeed 1).2) ∧
  (∀ (s : State) (g : Fin 2), s.powered → s.dev.thmRuns = true → s.dev.six = false →
   s.dev.bit (THM_GRP_SPD_VALID g) = true → speedAtLeast (s.dev.tgrpAt g).n (s.dev.get (THM_ASC_ASC_OFF g)) = false →
   Completes (.selReleaseTimer g) s fun t => t.dev.bit (THM_GRP_SEL g) = false ∧ t.dev.selAsc g = false) ∧
  (∀ (s : State) (g : Fin 2) (ms : BitVec 16), s.powered → s.dev.thmRuns = true → s.dev.six = false →
   s.dev.thmState g = 2 → (s.dev.tgrpAt g).waitBrake = false → s.dev.bit (THM_GRP_SPD_VALID g) = true →
   s.dev.ss1Inside g ms.toNat = true → speedAtLeast (s.dev.tgrpAt g).n (s.dev.get (THM_SS1_SS1_NSTOP g)) = true →
   Completes (.ss1Check g ms) s fun t => t.dev.thmState g = 2 ∧
   t.dev.get (THM_GRP_SS1_LEFT g) = (s.dev.get (THM_SS1_SS1_TMAX g) - ms.toNat) % 2 ^ (THM_GRP_SS1_LEFT g).w) ∧
  (∀ (s : State) (g : Fin 2) (ms : BitVec 16), s.powered → s.dev.thmRuns = true → s.dev.six = false →
   s.dev.selAsc g = false → s.dev.thmState g = 2 → (s.dev.tgrpAt g).waitBrake = false →
   s.dev.bit (THM_GRP_SPD_VALID g) = false → Completes (.ss1Check g ms) s fun t => t.dev.thmState g = 0 ∧
   t.dev.tb THM_FLT_LATCH 2 = true ∧ Raised 761 s t) ∧
  (∀ (s : State) (g : Fin 2), s.powered → s.dev.thmRuns = true → s.dev.six = false → s.dev.selAsc g = false →
   s.dev.thmState g = 2 → Completes (.ss1Deadline g) s fun t => t.dev.thmState g = 0) ∧
  (∀ (s : State) (g : Fin 2), s.powered → s.dev.thmRuns = true → s.dev.six = false → s.dev.selAsc g = false →
   s.dev.thmState g = 2 → (s.dev.tgrpAt g).waitBrake = true →
   Completes (.sbcEngageTimer g) s fun t => t.dev.thmState g = 0) ∧
  (∀ (s : State) (g : Fin 2), s.powered → s.dev.thmRuns = true → s.dev.thmState g = 4 →
   Completes (.stoAscTimeout g) s fun t => t.dev.thmState g = 0 ∧ Raised 760 s t) ∧
  (∀ (s : State) (g : Fin 2), s.powered → s.dev.thmRuns = true → s.dev.thmState g = 3 →
   s.dev.get (CLU_STAT_STATE g) = 0 → s.dev.selAsc g = false →
   Completes (.safeToSto g) s fun t => t.dev.thmState g = 0 ∧ Raised 760 s t) ∧
  (∀ (s : State) (k : Fin 4) (a : Bool) (b : Bool), s.powered → s.dev.thmRuns = true →
   Completes (.safetyInputChange k a b) s fun t => t.dev.get (THM_SI_LVL k) = (if a then 1 else 0) + (if b then 2 else 0) ∧
   (s.dev.get (THM_SI_STATE k) = 3 → t.dev.siClosed k false = false → t.dev.get (THM_SI_STATE k) = 2)) ∧
  (∀ (s : State) (k : Fin 4), s.powered → s.dev.thmRuns = true →
   (s.dev.get (THM_SI_STATE k) = 1 ∨ s.dev.get (THM_SI_STATE k) = 2) →
   s.dev.siClosed k false ≠ s.dev.siClosed k true → Completes (.siDisc k) s fun t => t.dev.get (THM_SI_STATE k) = 4 ∧
   t.dev.tb THM_FLT_LATCH 6 = true ∧ Raised 764 s t) ∧
  (∀ (s : State), s.powered → s.dev.thmRuns = true → s.dev.brakeOn = true →
   Completes (.sbcTestPulse true) s fun t => Counted THM_CNT_SBC_TEST s t ∧ t.dev.thm = s.dev.thm) ∧
  (∀ (s : State), s.powered → s.dev.thmRuns = true → s.dev.brakeOn = true →
   Completes (.sbcTestPulse false) s fun t => t.dev.tb THM_FLT_LATCH 5 = true ∧ t.dev.thm.fo14 = false ∧
   t.dev.thm.fo15 = false) ∧
  (∀ (s : State) (ma : BitVec 16), s.powered → s.dev.thmRuns = true → s.dev.get THM_SBC_SBC_EN = 1 →
   s.dev.thm.fo14 = false → s.dev.thm.fo15 = false →
   Completes (.sbcApplyCheck ma) s fun t => t.dev.get THM_SBCST_I_BRAKE = ma.toNat ∧
   t.dev.tb THM_FLT_CAUSE 5 = decide (50 ≤ ma.toNat) ∧ (50 ≤ ma.toNat → t.dev.tb THM_FLT_LATCH 5 = true)) ∧
  (∀ (s : State) (ma : BitVec 16), s.powered → s.dev.thmRuns = true → s.dev.brakeOn = true →
   ma.toNat < s.dev.get THM_SBC_I_MIN →
   Completes (.sbcCurrentLow ma) s fun t => t.dev.get THM_SBCST_I_BRAKE = ma.toNat ∧
   t.dev.tb THM_FLT_LATCH 5 = true ∧ t.dev.thm.fo14 = false ∧ t.dev.thm.fo15 = false) ∧
  (∀ (s : State) (l : List (BitVec 12 × BitVec 12)) (x : BitVec 64) (y : BitVec 64), s.powered →
   s.dev.thmRuns = true → s.dev.get THM_TMCFG_TM_EN = 1 → s.dev.tmBlind = false → s.dev.get THM_DC_TM_BLIND = 0 →
   100 * ((s.dev.tmPdc l - s.dev.tmPexp x.toInt y.toInt).natAbs : Int) ≤ s.dev.get THM_TMCFG_TOL_W * 100000000 * 100 + s.dev.get THM_TMCFG_TOL_PCT * (s.dev.tmPexp x.toInt y.toInt).natAbs →
   Completes (.tmWindowEnd l x y) s fun t => t.dev.get THM_DC_TM_FAILS = 0 ∧ t.dev.thm = s.dev.thm) ∧
  (∀ (s : State) (v : BitVec 16), s.powered → s.dev.thmRuns = true →
   (s.dev.enabledGroups.flatMap s.dev.groups).all (fun g => decide (s.dev.udcDiff g v.toNat ≤ 100 * 2 ^ 32)) = true →
   Completes (.udcDiv v false) s fun t => t.dev.tb THM_FLT_CAUSE 4 = false ∧ t.dev.get THM_DC_TUDC = v.toNat ∧
   (t.dev.get THM_DC_DISCHARGED = if v.toNat < 600 then 1 else 0)) ∧
  (∀ (s : State) (v : BitVec 16), s.powered → s.dev.thmRuns = true →
   Completes (.udcDiv v true) s fun t => t.dev.tb THM_FLT_LATCH 4 = true ∧ t.dev.get THM_DC_TUDC = v.toNat) ∧
  (∀ (s : State) (v : BitVec 16), s.powered → s.dev.thmRuns = true → s.dev.thm.disRun = true → 600 ≤ v.toNat →
   Completes (.disSlow v) s fun t => t.dev.tb THM_FLT_LATCH 7 = true ∧ t.dev.get (GCH_STAT_STATE 13) = 1 ∧
   t.dev.get GCH_DIS_LAST_END = 2) ∧
  (∀ (s : State) (v : BitVec 16), s.powered → s.dev.thmRuns = true → s.dev.thm.windGrp.isSome = true →
   v.toNat < 600 → Completes (.windingDischargeStop v) s fun t => t.dev.thm.windGrp = none ∧
   t.dev.get THM_DC_TUDC = v.toNat) ∧
  (∀ (s : State), s.powered → s.dev.thmRuns = true → s.dev.get THM_STAT_LOCKOUT = 1 →
   Completes (.lockoutExpiry) s fun t => t.dev.get THM_STAT_LOCKOUT = 0 ∧ t.dev.get THM_PWD_WRONG = 0 ∧
   t.dev.per.lock.cur = some 0) ∧
  (∀ (s : State), s.powered → s.dev.thmRuns = true → s.dev.get THM_STAT_LOCKOUT = 1 →
   Completes (.lockoutSave) s fun t => t.dev.get THM_STAT_LOCKOUT = 1 ∧
   t.dev.per.lock.cur = some (max 1 (s.dev.get THM_PWD_LOCK_S - 10))) ∧
  (∀ (s : State), s.powered → s.dev.thmRuns = true → s.dev.get THM_STAT_SAFE_UNLOCK = 1 →
   Completes (.unlockTimeout) s fun t => t.dev.get THM_STAT_SAFE_UNLOCK = 0 ∧ t.dev.thm.rwsStored = 0 ∧ Raised 766 s t)

/-- A request that may be taken answers with result 1, its tag and the RESP event: STO and SS1 put a named group in PERMIT
in STO or SS1, STO_RELEASE puts a group whose release conditions hold in PERMIT, the brake is released or applied,
discharge runs start and stop, a winding discharge starts, CLEAR clears the latches whose cause has gone. A request
marked lockstep from another origin only counts CLASS_REF; a code that is not listed answers 8 and is counted. Each is
said under conditions on the state and the operands alone: power, the clock of the block, an active image or a running
origin where the command needs them, and what its rules ask. Constructors that complete (exec answers a next state):
sto, ss1, stoRelease, brakeRelease, brakeApply, disStart, disStop, windDis, clear, unknownRequest. -/
def Obligations.ThimbleDemandRequestsComplete : Prop :=
  (∀ (s : State) (o : Origin) (tag : BitVec 16) (g : Fin 2), s.accesses o → s.dev.thmRuns = true →
   s.dev.get THM_RESP_BUSY = 0 → s.dev.six = false → (s.dev.reg (A_HEM_THMARG 0)).toNat % 4 = 2 ^ g.val →
   s.dev.thmState g = 1 → s.dev.selAsc g = false → Completes (.sto o tag) s fun t => t.dev.get THM_RESP_RESULT = 1 ∧
   t.dev.get THM_RESP_TAG = tag.toNat ∧ Raised 767 s t ∧ (t.dev.tgrpAt g).fwSto = true ∧ t.dev.thmState g = 0) ∧
  (∀ (s : State) (o : Origin) (tag : BitVec 16) (g : Fin 2), s.accesses o → s.dev.thmRuns = true →
   s.dev.get THM_RESP_BUSY = 0 → s.dev.six = false → (s.dev.reg (A_HEM_THMARG 0)).toNat % 4 = 2 ^ g.val →
   s.dev.thmState g = 1 → s.dev.relBase g = true → s.dev.stoDemanded g = false →
   s.dev.bit (THM_GRP_SPD_VALID g) = true → Completes (.ss1 o tag) s fun t => t.dev.get THM_RESP_RESULT = 1 ∧
   t.dev.get THM_RESP_TAG = tag.toNat ∧ Raised 767 s t ∧ (t.dev.tgrpAt g).fwSs1 = true ∧ t.dev.thmState g = 2) ∧
  (∀ (s : State) (o : Origin) (tag : BitVec 16) (g : Fin 2), s.accesses o → s.dev.thmRuns = true →
   s.dev.lockOrigin o = true → s.dev.get THM_RESP_BUSY = 0 → s.dev.six = false →
   (s.dev.reg (A_HEM_THMARG 0)).toNat % 4 = 2 ^ g.val → s.dev.thmState g = 0 → s.dev.relBase g = true →
   s.dev.siDemands g false = false → s.dev.siDemands g true = false → s.dev.connDemands g false = false →
   s.dev.connDemands g true = false → s.dev.sbcDemand g = false → s.dev.get (THM_GRP_DEMAND g) &&& 0x28 = 0 →
   ((List.range 4).all fun k => !(s.dev.siDemand k && s.dev.names (s.dev.get (THM_SICFG_GRP k)) g)) = true →
   Completes (.stoRelease o tag) s fun t => t.dev.get THM_RESP_RESULT = 1 ∧ t.dev.get THM_RESP_TAG = tag.toNat ∧
   Raised 767 s t ∧ t.dev.thmState g = 1 ∧ (t.dev.tgrpAt g).fwSto = false) ∧
  (∀ (s : State) (o : Origin) (tag : BitVec 16), s.accesses o → s.dev.thmRuns = true → s.dev.lockOrigin o = true →
   s.dev.get THM_RESP_BUSY = 0 → s.dev.get THM_SBC_SBC_EN = 1 →
   ((s.dev.allGroups.filter s.dev.brakeGroup).all fun g => decide (s.dev.thmState g = 1) && s.dev.tmRunning g) = true →
   Completes (.brakeRelease o tag) s fun t => t.dev.get THM_RESP_RESULT = 1 ∧ t.dev.get THM_RESP_TAG = tag.toNat ∧
   Raised 767 s t ∧ t.dev.thm.fo14 = true ∧ t.dev.thm.fo15 = true ∧ t.dev.get THM_SBCST_RELEASED = 1) ∧
  (∀ (s : State) (o : Origin) (tag : BitVec 16), s.accesses o → s.dev.thmRuns = true → s.dev.get THM_RESP_BUSY = 0 →
   Completes (.brakeApply o tag) s fun t => t.dev.get THM_RESP_RESULT = 1 ∧ t.dev.get THM_RESP_TAG = tag.toNat ∧
   Raised 767 s t ∧ t.dev.thm.fo14 = false ∧ t.dev.thm.fo15 = false) ∧
  (∀ (s : State) (o : Origin) (tag : BitVec 16), s.accesses o → s.dev.thmRuns = true → s.dev.get THM_RESP_BUSY = 0 →
   s.dev.get (GCH_STAT_STATE 13) = 1 → s.dev.permits 13 = true →
   (s.dev.allGroups.any fun g => decide (s.dev.thmState g = 1) || decide (s.dev.thmState g = 2)) = false →
   Completes (.disStart o tag) s fun t => t.dev.get THM_RESP_RESULT = 1 ∧ t.dev.get THM_RESP_TAG = tag.toNat ∧
   Raised 767 s t ∧ t.dev.thm.disRun = true ∧ t.dev.get (GCH_STAT_STATE 13) = 7) ∧
  (∀ (s : State) (o : Origin) (tag : BitVec 16), s.accesses o → s.dev.thmRuns = true → s.dev.lockOrigin o = true →
   s.dev.get THM_RESP_BUSY = 0 → s.dev.thm.disRun = true →
   Completes (.disStop o tag) s fun t => t.dev.get THM_RESP_RESULT = 1 ∧ t.dev.get THM_RESP_TAG = tag.toNat ∧
   Raised 767 s t ∧ t.dev.thm.disRun = false ∧ t.dev.get (GCH_STAT_STATE 13) = 1) ∧
  (∀ (s : State) (o : Origin) (tag : BitVec 16) (g : Fin 2), s.accesses o → s.dev.thmRuns = true →
   s.dev.lockOrigin o = true → s.dev.get THM_RESP_BUSY = 0 → s.dev.six = false →
   (s.dev.reg (A_HEM_THMARG 0)).toNat % 2 = g.val → s.dev.windOk g = true →
   Completes (.windDis o tag) s fun t => t.dev.get THM_RESP_RESULT = 1 ∧ t.dev.get THM_RESP_TAG = tag.toNat ∧
   Raised 767 s t ∧ t.dev.thm.windGrp = some g.val) ∧
  (∀ (s : State) (o : Origin) (tag : BitVec 16), s.accesses o → s.dev.thmRuns = true → s.dev.lockOrigin o = true →
   s.dev.get THM_RESP_BUSY = 0 → s.dev.get THM_FLT_CAUSE = 0 → s.dev.thmState 0 ≠ 1 → s.dev.thmState 1 ≠ 1 →
   Completes (.clear o tag) s fun t => t.dev.get THM_RESP_RESULT = 1 ∧ t.dev.get THM_RESP_TAG = tag.toNat ∧
   Raised 767 s t ∧ t.dev.get THM_FLT_LATCH = 0) ∧
  (∀ (s : State) (o : Origin) (tag : BitVec 16) (g : Fin 2), s.accesses o → s.dev.thmRuns = true →
   s.dev.get THM_RESP_BUSY = 0 → s.dev.lockOrigin o = false →
   Completes (.stoRelease o tag) s fun t => Counted HEM_CNT_CLASS_REF s t ∧ t.dev.thmState g = s.dev.thmState g) ∧
  (∀ (s : State) (o : Origin) (c : BitVec 8) (tag : BitVec 16), s.accesses o → s.dev.thmRuns = true →
   s.dev.get THM_RESP_BUSY = 0 → reqCodes.contains c.toNat = false →
   Completes (.unknownRequest o c tag) s fun t => t.dev.get THM_RESP_RESULT = 8 ∧
   t.dev.get THM_RESP_TAG = tag.toNat ∧ Raised 767 s t ∧ Counted THM_CNT_REQ_REF s t)

/-- With the password right (salted hash as log entry 7 has it), no lockout and room in the log, UNLOCK_SAFETY and
UNLOCK_DEV open their unlock with a change-log entry; a wrong password answers 2, counts, and the fifth in a row
starts the lockout; CLOSE closes both; SET_PASSWORD stores the hash of the new password with its salt; ACK_LOG with
the digest of the log erases it and leaves the one entry of the acknowledgement; INSTALL of a signed, well laid out
set stores it with the two digests (the bytes each digest runs over: log entry 56). Each is said under conditions on
the state and the operands alone: power, the clock of the block, an active image or a running origin where the command
needs them, and what its rules ask. Constructors that complete (exec answers a next state): unlockSafety, unlockDev,
close, setPassword, ackLog, install. -/
def Obligations.ThimbleLogRequestsComplete : Prop :=
  (∀ (s : State) (o : Origin) (tag : BitVec 16) (n : BitVec 8), s.accesses o → s.dev.thmRuns = true →
   s.dev.lockOrigin o = true → s.dev.get THM_RESP_BUSY = 0 → s.dev.get THM_STAT_LOCKOUT = 0 →
   s.dev.pwd.init = false → lenOk n.toNat = true → s.dev.pwdIs (pwdBytes s.dev.thmArgs 0 n.toNat) = true →
   s.dev.get THM_STAT_SAFE_UNLOCK = 0 → (s.dev.per.fill.cur.getD 0) + 2 + s.dev.unlocks ≤ 4096 →
   Completes (.unlockSafety o tag n) s fun t => t.dev.get THM_RESP_RESULT = 1 ∧ t.dev.get THM_RESP_TAG = tag.toNat ∧
   Raised 767 s t ∧ t.dev.get THM_STAT_SAFE_UNLOCK = 1 ∧ t.dev.get THM_PWD_WRONG = 0 ∧
   t.dev.per.fill.cur = some (s.dev.per.fill.cur.getD 0 + 1)) ∧
  (∀ (s : State) (o : Origin) (tag : BitVec 16) (n : BitVec 8), s.accesses o → s.dev.thmRuns = true →
   s.dev.lockOrigin o = true → s.dev.get THM_RESP_BUSY = 0 → s.dev.get THM_STAT_LOCKOUT = 0 →
   s.dev.pwd.init = false → lenOk n.toNat = true → s.dev.pwdIs (pwdBytes s.dev.thmArgs 0 n.toNat) = true →
   s.dev.get SYS_IMGSTAT_DBG_ALLOW = 1 → s.dev.thmState 0 = 0 → s.dev.thmState 1 = 0 →
   s.dev.get THM_STAT_DEV_UNLOCK = 0 → (s.dev.per.fill.cur.getD 0) + 2 + s.dev.unlocks ≤ 4096 →
   Completes (.unlockDev o tag n) s fun t => t.dev.get THM_RESP_RESULT = 1 ∧ t.dev.get THM_RESP_TAG = tag.toNat ∧
   Raised 767 s t ∧ t.dev.get THM_STAT_DEV_UNLOCK = 1 ∧ t.dev.per.fill.cur = some (s.dev.per.fill.cur.getD 0 + 1)) ∧
  (∀ (s : State) (o : Origin) (tag : BitVec 16) (n : BitVec 8), s.accesses o → s.dev.thmRuns = true →
   s.dev.lockOrigin o = true → s.dev.get THM_RESP_BUSY = 0 → s.dev.get THM_STAT_LOCKOUT = 0 →
   s.dev.pwd.init = false → lenOk n.toNat = true → s.dev.pwdIs (pwdBytes s.dev.thmArgs 0 n.toNat) = false →
   Completes (.unlockSafety o tag n) s fun t => t.dev.get THM_RESP_RESULT = 2 ∧ t.dev.get THM_RESP_TAG = tag.toNat ∧
   Raised 767 s t ∧ t.dev.get THM_STAT_SAFE_UNLOCK = s.dev.get THM_STAT_SAFE_UNLOCK ∧ Counted THM_CNT_PWD_FAIL s t ∧
   (s.dev.get THM_PWD_WRONG = 4 → t.dev.get THM_STAT_LOCKOUT = 1)) ∧
  (∀ (s : State) (o : Origin) (tag : BitVec 16), s.accesses o → s.dev.thmRuns = true → s.dev.lockOrigin o = true →
   s.dev.get THM_RESP_BUSY = 0 → s.dev.unlocks ≠ 0 →
   Completes (.close o tag) s fun t => t.dev.get THM_RESP_RESULT = 1 ∧ t.dev.get THM_RESP_TAG = tag.toNat ∧
   Raised 767 s t ∧ t.dev.get THM_STAT_SAFE_UNLOCK = 0 ∧ t.dev.get THM_STAT_DEV_UNLOCK = 0) ∧
  (∀ (s : State) (o : Origin) (tag : BitVec 16) (n : BitVec 8) (m : BitVec 8), s.accesses o → s.dev.thmRuns = true →
   s.dev.lockOrigin o = true → s.dev.get THM_RESP_BUSY = 0 → s.dev.get THM_STAT_LOCKOUT = 0 → lenOk n.toNat = true →
   lenOk m.toNat = true → s.dev.pwdIs (pwdBytes s.dev.thmArgs 0 n.toNat) = true →
   (s.dev.per.fill.cur.getD 0) + 1 + s.dev.unlocks ≤ 4096 →
   Completes (.setPassword o tag n m) s fun t => t.dev.get THM_RESP_RESULT = 1 ∧ t.dev.get THM_RESP_TAG = tag.toNat ∧
   Raised 767 s t ∧ (t.dev.per.pwd.cur.map fun p => decide (p.init = false ∧
   p.hash = pwdHash p.salt (pwdBytes s.dev.thmArgs 4 m.toNat))) = some true) ∧
  (∀ (s : State) (o : Origin) (tag : BitVec 16) (n : BitVec 8), s.accesses o → s.dev.thmRuns = true →
   s.dev.lockOrigin o = true → s.dev.get THM_RESP_BUSY = 0 → s.dev.get THM_STAT_LOCKOUT = 0 →
   s.dev.pwd.init = false → lenOk n.toNat = true → s.dev.pwdIs (pwdBytes s.dev.thmArgs 0 n.toNat) = true →
   sha256 (rdBytes s.mem 0x20200000 (64 * s.dev.per.fill.cur.getD 0)) = ofBytesBE (pwdBytes s.dev.thmArgs 4 32) →
   Completes (.ackLog o tag n) s fun t => t.dev.get THM_RESP_RESULT = 1 ∧ t.dev.get THM_RESP_TAG = tag.toNat ∧
   Raised 767 s t ∧ t.dev.per.fill.cur = some 1 ∧ t.dev.per.acks = s.dev.per.acks + 1) ∧
  (∀ (s : State) (o : Origin) (tag : BitVec 16) (l2 : List (BitVec 8)) (l8 : List (BitVec 8)), s.accesses o →
   s.dev.thmRuns = true → s.dev.lockOrigin o = true → s.dev.get THM_RESP_BUSY = 0 →
   s.dev.get THM_STAT_SAFE_UNLOCK = 1 → s.dev.thmState 0 = 0 → s.dev.thmState 1 = 0 →
   ((List.range 12).all fun n => decide (s.dev.get (STP_STAT_STATE n) = 0)) = true → s.section_ 2 = some l2 →
   s.section_ 8 = some l8 → s.dev.safetySigned l2 = true → setLayoutOk safeRegs (l2.take (l2.length - 128)) = true →
   setLayoutOk hemRegs l8 = true →
   setBounds (setRecs ((l2.take (l2.length - 128)).length / 16) (l2.take (l2.length - 128)) ++ setRecs (l8.length / 16) l8) = true →
   (s.dev.per.fill.cur.getD 0) + 1 + s.dev.unlocks ≤ 4096 →
   Completes (.install o tag) s fun t => t.dev.get THM_RESP_RESULT = 1 ∧ t.dev.get THM_RESP_TAG = tag.toNat ∧
   Raised 767 s t ∧ (t.dev.per.safe.cur.map fun x => decide (x.present = true ∧ x.safeDig = sha256 l2 ∧
   x.hemDig = sha256 l8)) = some true ∧ t.dev.get SYS_IMGSTAT_SAFE_ABSENT = 0)

/-- RUN of a valid configuration starts the integration and RUN 0 returns to CONFIG with its requests ended; idle,
recovery and bus-on take their states; a transmit request waits or is selected for the next arbitration, an abort is
noted, a sent frame is stamped and reported, a lost one with an abort fails; a master requests REF; a received frame
is stored in the FIFO with its stamp; a held REF without FOLLOW is dropped; errors change the counters, by the steps
of log entry 18, and above 255 the state; FIFO entries and slots are freed. Each is said under conditions on the state
and the operands alone: power, the clock of the block, an active image or a running origin where the command needs
them, and what its rules ask. Constructors that complete (exec answers a next state): canRunSet, canRunClear,
busIdleDetected, recover, busOn, txreq, txabort, canTxComplete, refPeriod, canFrameReceived, refFollowTimeout,
canProtocolException, canBusError, fifoPop, hpSlotFree, dominantTimeout. -/
def Obligations.CanCommandsComplete : Prop :=
  (∀ (s : State) (n : Fin 4), s.inUse → s.dev.get (CAN_STAT_STATE n) = 0 → s.dev.canCfgErr n = 0 →
   Completes (.canRunSet n) s fun t => t.dev.get (CAN_STAT_STATE n) = 1 ∧ t.dev.get (CAN_CTL_RUN n) = 1) ∧
  (∀ (s : State) (n : Fin 4), s.inUse → s.dev.get (CAN_STAT_STATE n) ≠ 0 → (s.dev.canAt n).arb = none →
   Completes (.canRunClear n) s fun t => t.dev.get (CAN_STAT_STATE n) = 0 ∧ t.dev.get (CAN_CTL_RUN n) = 0 ∧
   t.dev.get (CAN_TXCTL_TXREQ n) = 0) ∧
  (∀ (s : State) (n : Fin 4), s.clocked 2 → s.dev.get (CAN_STAT_STATE n) = 1 →
   Completes (.busIdleDetected n) s fun t => t.dev.get (CAN_STAT_STATE n) = 2) ∧
  (∀ (s : State) (n : Fin 4), s.inUse → s.dev.get (CAN_STAT_STATE n) = 4 →
   Completes (.recover n) s fun t => t.dev.get (CAN_STAT_STATE n) = 5) ∧
  (∀ (s : State) (n : Fin 4), s.clocked 2 → s.dev.get (CAN_STAT_STATE n) = 5 →
   Completes (.busOn n) s fun t => t.dev.get (CAN_STAT_STATE n) = 2 ∧ t.dev.get (CAN_STAT_TEC n) = 0 ∧
   t.dev.get (CAN_STAT_REC n) = 0 ∧ Raised (canSrc n 10) s t) ∧
  (∀ (s : State) (n : Fin 4) (m : BitVec 3), s.inUse → (s.dev.canOn n = false ∨ (s.dev.canAt n).arb ≠ none) →
   Completes (.txreq n m) s fun t => t.dev.get (CAN_TXCTL_TXREQ n) = s.dev.get (CAN_TXCTL_TXREQ n) ||| m.toNat) ∧
  (∀ (s : State) (n : Fin 4), s.inUse → s.dev.canOn n = true → (s.dev.canAt n).arb = none →
   (s.dev.canAt n).stopping = false → (s.dev.canAt n).slot = [] → s.dev.get (CAN_CTL_LISTEN n) = 0 →
   s.dev.get (CAN_TXCTL_TXREQ n) = 0 → s.dev.get (CAN_TXCTL_TXABORT n) = 0 → s.canValid n 1 = true →
   Completes (.txreq n 2) s fun t => (t.dev.canAt n).arb = some 1 ∧ t.dev.get (CAN_TXCTL_TXREQ n) = 2) ∧
  (∀ (s : State) (n : Fin 4) (m : BitVec 3), s.inUse → (s.dev.canOn n = false ∨ (s.dev.canAt n).arb ≠ none) →
   Completes (.txabort n m) s fun t => t.dev.get (CAN_TXCTL_TXABORT n) = s.dev.get (CAN_TXCTL_TXABORT n) ||| m.toNat) ∧
  (∀ (s : State) (n : Fin 4) (b : Fin 3) (a : BitVec 32) (w : BitVec 8), s.clocked 2 → s.dev.canXcvr n = true →
   (s.dev.canAt n).domOff = false → (s.dev.canAt n).arb = some b.val →
   Completes (.canTxComplete n (.sent a w)) s fun t => t.dev.tb (CAN_TXCTL_TXDONE n) b = true ∧
   t.dev.tb (CAN_TXCTL_TXREQ n) b = false ∧ Raised (canSrc n 5) s t ∧
   rdLE t.mem (canBuf n b) 8 = (s.dev.time - a.toNat) % 2 ^ 64) ∧
  (∀ (s : State) (n : Fin 4) (b : Fin 3), s.clocked 2 → (s.dev.canAt n).arb = some b.val →
   s.dev.tb (CAN_TXCTL_TXABORT n) b = true →
   Completes (.canTxComplete n .lost) s fun t => t.dev.tb (CAN_TXCTL_TXFAIL n) b = true ∧
   t.dev.tb (CAN_TXCTL_TXREQ n) b = false ∧ Raised (canSrc n 6) s t) ∧
  (∀ (s : State) (n : Fin 4), s.clocked 2 → n.val = s.dev.segCan → s.dev.get (CAN_TIME_ROLE n) = 1 →
   s.dev.canOn n = true → ((s.dev.canAt n).slot.any fun f => (s.dev.refCfg n).isRef f) = false →
   Completes (.refPeriod n) s fun t => (t.dev.canAt n).slot = (s.dev.canAt n).slot ++ [{ ide := s.dev.bit (CAN_TIME_REF_IDE n), id := BitVec.ofNat 29 (s.dev.get (CAN_TIME_REF_ID n)) }] ∧
   (t.dev.canAt n).ref = some (s.dev.refCfg n)) ∧
  (∀ (s : State) (n : Fin 4) (f : CanFrame) (a : BitVec 32) (p : Nat), s.clocked 2 → s.dev.canOn n = true →
   s.dev.canXcvr n = true → (s.dev.canAt n).idleWait = false → s.dev.canEnabled n f = true →
   ((List.range 128).all fun k => !s.dev.canMatch n k f) = true → s.dev.get (CAN_CTL_ACCEPT_ALL n) = 1 →
   (s.dev.canAt n).place (canSize f.data.length) = some p →
   Completes (.canFrameReceived n f a) s fun t => (t.dev.canAt n).entries = (s.dev.canAt n).entries ++ [(p, canSize f.data.length)] ∧
   Raised (canSrc n 0) s t ∧ rdLE t.mem (A_CAN_CTL n + p) 8 = (s.dev.time - a.toNat) % 2 ^ 64) ∧
  (∀ (s : State) (n : Fin 4), s.clocked 2 → (s.dev.canAt n).held.isSome = true →
   Completes (.refFollowTimeout n) s fun t => (t.dev.canAt n).held = none ∧ Counted (CAN_CNT3_REF_DROP n) s t) ∧
  (∀ (s : State) (n : Fin 4), s.clocked 2 → s.dev.canOn n = true → (s.dev.canAt n).stopping = false →
   Completes (.canProtocolException n) s fun t => t.dev.get (CAN_STAT_STATE n) = 1 ∧ t.dev.get (CAN_STAT_LEC n) = 7 ∧
   Counted (CAN_CNT_PROT_EXC n) s t) ∧
  (∀ (s : State) (n : Fin 4) (l : BitVec 3), s.clocked 2 → s.dev.canOn n = true →
   Completes (.canBusError n .tx l) s fun t => t.dev.get (CAN_STAT_TEC n) = min 511 (s.dev.get (CAN_STAT_TEC n) + 8) ∧
   t.dev.get (CAN_STAT_LEC n) = l.toNat ∧ (255 < s.dev.get (CAN_STAT_TEC n) + 8 →
   t.dev.get (CAN_STAT_STATE n) = if (s.dev.canAt n).stopping then 0 else if s.dev.get (CAN_CTL_AUTO_REC n) = 1 then 5 else 4)) ∧
  (∀ (s : State) (n : Fin 4) (l : BitVec 3), s.clocked 2 → s.dev.canOn n = true →
   Completes (.canBusError n .rx l) s fun t => t.dev.get (CAN_STAT_REC n) = min 255 (s.dev.get (CAN_STAT_REC n) + 1) ∧
   t.dev.get (CAN_STAT_LEC n) = l.toNat) ∧
  (∀ (s : State) (n : Fin 4) (e : Nat × Nat) (l : List (Nat × Nat)), s.inUse → (s.dev.canAt n).entries = e :: l →
   Completes (.fifoPop n) s fun t => (t.dev.canAt n).entries = l) ∧
  (∀ (s : State) (n : Fin 4) (m : BitVec 4), s.inUse →
   Completes (.hpSlotFree n m) s fun t => t.dev.get (CAN_HP_FULL n) = s.dev.get (CAN_HP_FULL n) - (s.dev.get (CAN_HP_FULL n) &&& m.toNat)) ∧
  (∀ (s : State) (n : Fin 4), s.clocked 2 → s.dev.canXcvr n = true →
   Completes (.dominantTimeout n) s fun t => Counted (CAN_CNT2_DOM_TO n) s t ∧ (t.dev.canAt n).domOff = true)

/-- A link of an enabled port comes up with its quality and its loss is counted and raised; Announce information is held
and announced with one step more; Sync is sent with the domain time of the module (log entry 103), measured and
missed; Announce follows 802.1AS (log entry 20); the link delay is taken or its failure counted; a port whose
neighbour is not capable takes no part in the selection (log entry 20); a good frame teaches its source address and a
bad one is counted and dropped; a frame for the host waits in the queue of its priority while PLL A is stopped; TXKICK
finds an owned descriptor; a sent frame moves to the next descriptor and returns the ownership; an aged address leaves
the table. Each is said under conditions on the state and the operands alone: power, the clock of the block, an active
image or a running origin where the command needs them, and what its rules ask. Constructors that complete (exec
answers a next state): ethLinkChange, announceReceived, announceTransmit, syncTransmit, syncReceived, pdelayExchange,
syncLost, switchFrameReceived, txkick, hostFrameSent, macEntryAgeing. -/
def Obligations.EthernetCommandsComplete : Prop :=
  (∀ (s : State) (p : Fin 2) (q : BitVec 3), s.powered → s.dev.ethEn p = true →
   Completes (.ethLinkChange p true q) s fun t => t.dev.get (ETH_PHY_LINK p) = 1 ∧ t.dev.get (ETH_PHY_SQI p) = q.toNat) ∧
  (∀ (s : State) (p : Fin 2) (q : BitVec 3), s.powered → s.dev.get (ETH_PHY_LINK p) = 1 →
   Completes (.ethLinkChange p false q) s fun t => t.dev.get (ETH_PHY_LINK p) = 0 ∧
   Counted (ETH_CNT_LINK_DOWN p) s t ∧ Raised (584 + p) s t) ∧
  (∀ (s : State) (p : Fin 2) (a : Announce), s.powered → s.dev.asUp p = true → a.prio1 ≠ 255 → s.dev.eth.ann = [] →
   Completes (.announceReceived p a) s fun t => (a.gm.toNat ≠ Config.uid → t.dev.eth.ann = [(p.val, a)])) ∧
  (∀ (s : State) (p : Fin 2) (a : Announce), s.powered → s.dev.asUp p = true → s.dev.get ETH_ASCFG_PRIO1 = 255 →
   s.dev.eth.ann = [(1 - p.val, a)] → s.dev.asUp (1 - p.val) = true →
   Completes (.announceTransmit p) s fun t => (a.gm.toNat ≠ Config.uid →
   t.dev.eth.sentAnn = (s.dev.eth.sentAnn.filter fun e => e.1 ≠ p.val) ++ [(p.val, .announce { a with steps := a.steps + 1, src := BitVec.ofNat 64 Config.uid })])) ∧
  (∀ (s : State) (p : Fin 2), s.powered → s.dev.get (ETH_ASPORT_AS_ROLE p) = 0 →
   Completes (.syncTransmit p) s fun t => t.dev.eth.sentSync = (s.dev.eth.sentSync.filter fun e => e.1 ≠ p.val) ++ [(p.val, .sync s.dev.time)]) ∧
  (∀ (s : State) (p : Fin 2) (u : BitVec 64) (a : BitVec 32), s.powered → s.dev.get (ETH_ASPORT_AS_ROLE p) = 1 →
   s.dev.get DTM_STAT_SRC = 2 → Completes (.syncReceived p u a) s fun t => Counted DTM_CNT_MEAS s t) ∧
  (∀ (s : State) (p : Fin 2) (d : BitVec 32), s.powered → s.dev.ethUp p = true → s.dev.get ETH_CTL_AS_EN = 1 →
   Completes (.pdelayExchange p (some d)) s fun t => t.dev.get (ETH_ASPORT_PDELAY_NS p) = d.toNat % 2 ^ (ETH_ASPORT_PDELAY_NS p).w ∧
   t.dev.get (ETH_ASPORT_AS_CAPABLE p) = 1) ∧
  (∀ (s : State) (p : Fin 2), s.powered → s.dev.ethUp p = true → s.dev.get ETH_CTL_AS_EN = 1 →
   Completes (.pdelayExchange p none) s fun t => t.dev.get (ETH_ASPORT_AS_CAPABLE p) = 0 ∧
   Counted ETH_CCNT_PDELAY_FAIL s t ∧ Raised 592 s t) ∧
  (∀ (s : State) (p : Fin 2), s.powered → s.dev.get (ETH_ASPORT_AS_ROLE p) = 1 →
   Completes (.syncLost p) s fun t => Counted ETH_CCNT_SYNC_LOST s t ∧ Raised 590 s t) ∧
  (∀ (s : State) (p : Fin 2) (l : List (BitVec 8)) (a : BitVec 32), s.powered → s.dev.ethUp p = true →
   s.dev.get ETH_CTL_AS_EN = 0 → 60 ≤ l.length → l.length ≤ 1518 → macGroup (macSrc l) = false →
   (s.dev.eth.macs.filter fun e => e.1 ≠ macSrc l).length < 256 →
   Completes (.switchFrameReceived p l true a) s fun t => t.dev.eth.macs = (s.dev.eth.macs.filter fun e => e.1 ≠ macSrc l) ++ [(macSrc l, p.val)]) ∧
  (∀ (s : State) (p : Fin 2) (l : List (BitVec 8)) (a : BitVec 32), s.powered → s.dev.ethUp p = true →
   Completes (.switchFrameReceived p l false a) s fun t => Counted (ETH_CNT_CRC_ERR p) s t ∧ t.dev.eth = s.dev.eth ∧
   t.mem = s.mem) ∧
  (∀ (s : State) (p : Fin 2) (l : List (BitVec 8)) (a : BitVec 32), s.powered → s.dev.clk 0 = false →
   s.dev.ethUp p = true → s.dev.get ETH_CTL_AS_EN = 0 → 60 ≤ l.length → l.length ≤ 1518 →
   s.dev.get ETH_CTL_HOST_EN = 1 → macGroup (macDst l) = false → macDst l = s.dev.get ETH_MACADDR_MAC →
   pcpHigh l = true → s.dev.eth.hostHigh.length < 32 →
   Completes (.switchFrameReceived p l true a) s fun t => t.dev.eth.hostHigh = s.dev.eth.hostHigh ++ [(p.val, s.dev.time - a.toNat, l)] ∧
   t.mem = s.mem) ∧
  (∀ (s : State), s.inUse → s.dev.get ETH_CTL_HOST_EN = 1 → s.txOwned = true →
   Completes (.txkick) s fun t => t.dev.eth.txRun = true) ∧
  (∀ (s : State) (a : BitVec 32), s.clocked 0 → s.dev.eth.txRun = true → s.txOwned = true →
   s.dev.get ETH_CTL_HOST_EN = 1 →
   Completes (.hostFrameSent true a) s fun t => t.dev.get ETH_DMA_TXIDX = (if s.dev.get ETH_DMA_TXIDX + 1 < s.dev.ringSize ETH_TXRING_SIZE then s.dev.get ETH_DMA_TXIDX + 1 else 0) % 2 ^ ETH_DMA_TXIDX.w ∧
   Raised 587 s t ∧ (rdLE t.mem (s.dev.txDesc + 8) 8).testBit 63 = false) ∧
  (∀ (s : State) (m : BitVec 48), s.powered →
   Completes (.macEntryAgeing m) s fun t => (t.dev.eth.macs = s.dev.eth.macs.filter fun e => e.1 ≠ m.toNat))

/-- EN starts and ends the protocol, and its end clears the member list (log entry 43); the formation delay or a heard
frame makes a waiting module contend; REGISTER and TRUNK keep the member list; LEADER is recorded; an offset is
measured; SEGNUM, the segment close, the gateway lock and the connect take the states of the domain with their times;
segments register, the directory closes with its numbers, acknowledgements, relays and queries answer; a lost leader
leaves the list and a new grandmaster opens its directory. Each is said under conditions on the state and the operands
alone: power, the clock of the block, an active image or a running origin where the command needs them, and what its
rules ask. Constructors that complete (exec answers a next state): domainEn, formDelayReached, domainOpen,
domainClaim, domainRegister, domainTrunk, domainLeader, domoff, segnum, claimSilence, segmentClose, segReg,
directoryClose, dirAck, dirDone, dirQuery, gatewayServoLocked, connectComplete, leaderRefMissing, gmChange. -/
def Obligations.DomainCommandsComplete : Prop :=
  (∀ (s : State), s.inUse → s.dev.domState = 0 → s.dev.get SYS_PWRSTATE_READY = 1 →
   Completes (.domainEn true) s fun t => t.dev.domState = 1 ∧ t.dev.get SFL_DOMCFG_EN = 1 ∧
   t.dev.get (CAN_TIME_REF_IDE s.dev.segCan) = 1 ∧ Raised 605 s t) ∧
  (∀ (s : State), s.inUse → s.dev.domState ≠ 0 → Completes (.domainEn false) s fun t => t.dev.domState = 0 ∧
   t.dev.get SFL_DOMCFG_EN = 0 ∧ t.dev.dom.members = [] ∧ Raised 605 s t) ∧
  (∀ (s : State), s.powered → s.dev.domState = 1 → s.dev.dom.heard = false →
   s.dev.get SFL_DOMCFG_FORM_DELAY_MS ≤ s.dev.timeMs → Completes (.formDelayReached) s fun t => t.dev.domState = 2 ∧
   t.dev.dom.contending = true ∧
   (t.dev.canAt s.dev.segCan).slot = (s.dev.canAt s.dev.segCan).slot ++ [s.dev.domFrame 0x01 0 []]) ∧
  (∀ (s : State), s.onSegment → s.dev.domState = 1 → Completes (.domainOpen) s fun t => t.dev.domState = 2 ∧
   t.dev.dom.contending = true ∧ t.dev.dom.late = false) ∧
  (∀ (s : State) (r : Fin 4) (a : BitVec 16), s.onSegment → s.dev.domState = 1 →
   Completes (.domainClaim r a) s fun t => t.dev.domState = 2 ∧ t.dev.dom.contending = true) ∧
  (∀ (s : State) (a : BitVec 16) (u : BitVec 64), s.onSegment → s.dev.domState = 2 → s.dev.dom.joined = false →
   s.dev.dom.seen + 1 < 32 → Completes (.domainRegister a u) s fun t => t.dev.dom.seen = s.dev.dom.seen + 1 ∧
   t.dev.dom.members = ((s.dev.dom.members.filter fun (x : Member) => x.uid ≠ u.toNat) ++ [({ uid := u.toNat, trunk := a.getLsbD 7, vmin := a.toNat / 4096 % 16, vmax := a.toNat / 256 % 16 } : Member)]).take 32) ∧
  (∀ (s : State) (b : Bool) (u : BitVec 64), s.onSegment → s.dev.domState ≠ 0 → s.dev.dom.joined = false →
   Completes (.domainTrunk b u) s fun t => (t.dev.dom.members = s.dev.dom.members.map fun m => if m.uid = u.toNat then { m with trunk := b } else m)) ∧
  (∀ (s : State) (u : BitVec 64), s.onSegment → s.dev.domState ≠ 0 → s.dev.domState ≠ 7 →
   Completes (.domainLeader u) s fun t => t.dev.get SFL_LEADERID_UID = u.toNat ∧ (s.dev.domState = 1 →
   t.dev.domState = 2 ∧ t.dev.dom.late = true)) ∧
  (∀ (s : State) (v : BitVec 64), s.onSegment → s.dev.domState ≠ 0 → s.dev.get DTM_STAT_SRC = 3 →
   Completes (.domoff v) s fun t => Counted DTM_CNT_MEAS s t) ∧
  (∀ (s : State) (k : BitVec 16) (g : BitVec 64), s.onSegment → (s.dev.domState = 3 ∨ s.dev.domState = 4) →
   Completes (.segnum k g) s fun t => t.dev.get SFL_DOMSTAT_SEG_NUM = k.toNat ∧ t.dev.domState = 5 ∧
   t.dev.get SFL_FORMT_DIR_MS = s.dev.timeMs) ∧
  (∀ (s : State), s.powered → s.dev.domState = 2 → s.dev.dom.contending = true → s.dev.dom.registered = false →
   Completes (.claimSilence) s fun t => t.dev.dom.out = false) ∧
  (∀ (s : State), s.powered → s.dev.domState = 2 → s.dev.dom.registered = true → s.dev.dom.late = false →
   (s.dev.dom.members.all fun m => decide (m.vmin ≤ 1) && decide (1 ≤ m.vmax)) = true →
   (s.dev.dom.members.any fun m => m.trunk) = false → Completes (.segmentClose) s fun t => t.dev.domState = 5 ∧
   t.dev.dom.joined = true ∧ t.dev.get SFL_DOMSTAT_SEG_NUM = 0 ∧ t.dev.get SFL_FORMT_SEG_MS = s.dev.timeMs) ∧
  (∀ (s : State), s.powered → s.dev.domState = 2 → s.dev.dom.registered = false → 32 ≤ s.dev.dom.seen →
   Completes (.segmentClose) s fun t => t.dev.domState = 7 ∧ Raised 610 s t) ∧
  (∀ (s : State) (r : SegReg), s.powered → s.dev.get SFL_DOMSTAT_GM = 1 →
   (s.dev.dom.segs.any fun x => decide (x.leader = r.leader)) = false → s.dev.dom.closed = false →
   s.dev.get SFL_DOMCFG_EXP_SEGS = 0 → Completes (.segReg r) s fun t => t.dev.dom.segs = s.dev.dom.segs ++ [r]) ∧
  (∀ (s : State), s.powered → s.dev.get SFL_DOMSTAT_GM = 1 → s.dev.dom.closed = false →
   Completes (.directoryClose) s fun t => t.dev.dom.closed = true ∧ t.dev.dom.nums = segNumbers s.dev.dom.segs) ∧
  (∀ (s : State) (l : BitVec 64) (k : BitVec 9) (v : BitVec 4), s.powered → l.toNat = s.dev.get SFL_LEADERID_UID →
   (s.dev.bit SFL_DOMSTAT_LEADER = true ∨ s.dev.bit SFL_DOMSTAT_GW = true) → v ≠ 0 →
   Completes (.dirAck l k v) s fun t => t.dev.dom.ack = k.toNat) ∧
  (∀ (s : State), s.powered → s.dev.dom.joined = true → s.dev.get SFL_DOMSTAT_GW = 1 →
   Completes (.dirDone) s fun t => (t.dev.canAt s.dev.segCan).slot = (s.dev.canAt s.dev.segCan).slot ++ [s.dev.domFrame 0x50 s.dev.dom.ack (bytesLE 8 (s.dev.get ETH_GMID_GMID))]) ∧
  (∀ (s : State) (u : BitVec 64), s.powered → s.dev.get SFL_DOMSTAT_GM = 1 →
   (s.dev.dom.segs.any fun r => r.members.contains u) = false →
   Completes (.dirQuery u) s fun t => t.dev.dom.dirOut = [.answer u.toNat none]) ∧
  (∀ (s : State), s.powered → s.dev.domState = 3 → s.dev.get SFL_DOMSTAT_LEADER = 1 → s.dev.get SFL_DOMSTAT_GM = 0 →
   Completes (.gatewayServoLocked) s fun t => t.dev.domState = 4 ∧ t.dev.get SFL_FORMT_TRUNK_MS = s.dev.timeMs) ∧
  (∀ (s : State), s.powered → s.dev.domState = 5 → Completes (.connectComplete) s fun t => t.dev.domState = 6 ∧
   t.dev.get SFL_FORMT_FORMED_MS = s.dev.timeMs ∧ Raised 605 s t) ∧
  (∀ (s : State), s.powered → s.dev.dom.joined = true → s.dev.get SFL_DOMSTAT_LEADER = 0 →
   Completes (.leaderRefMissing) s fun t => (t.dev.dom.members = s.dev.dom.members.filter fun m => m.uid ≠ s.dev.get SFL_LEADERID_UID)) ∧
  (∀ (s : State), s.powered → s.dev.dom.joined = false → Completes (.gmChange) s fun t => t.dev.dom.segs = [] ∧
   t.dev.dom.nums = [] ∧ t.dev.dom.closed = false)

/-- The head frame leaves the queue; a permitted enable opens a connection; a producer sends OPEN with the low bits of
module time while OPENING, and an APP frame with the next SEQ while OPEN; the watchdog of an OPEN consumer returns it
to OPENING with its count and event; a submitted frame of a wrong length is rejected with result 2, and a DATA frame
that passes every check is accepted with result 1 and its SEQ. Each is said under conditions on the state and the
operands alone: power, the clock of the block, an active image or a running origin where the command needs them, and
what its rules ask. Constructors that complete (exec answers a next state): txPop, connectionEnable, connectionCycle,
connectionWatchdog, appsend, submit. -/
def Obligations.SafetyFrameCommandsComplete : Prop :=
  (∀ (s : State) (e : Nat × List (BitVec 8)) (l : List (Nat × List (BitVec 8))), s.inUse → s.dev.sfl.txq = e :: l →
   Completes (.txPop) s fun t => t.dev.sfl.txq = l) ∧
  (∀ (s : State) (k : Fin 256) (o : Origin), s.accesses o → s.dev.get (SFL_CCFG_EN k) = 0 → s.dev.rwsOk o = true →
   s.dev.get (SFL_CCFG_CONN_ID k) ≠ 0 → s.dev.get (SFL_CSTAT_STATE k) = 0 →
   Completes (.connectionEnable o k true) s fun t => t.dev.get (SFL_CCFG_EN k) = 1 ∧ t.dev.get (SFL_CSTAT_STATE k) = 1) ∧
  (∀ (s : State) (k : Fin 256), s.clocked 0 → s.dev.sflOn k = true → s.dev.get (SFL_CCFG_DIR k) = 1 →
   s.dev.get (SFL_CSTAT_STATE k) = 1 → s.dev.sfl.txq.length < 16 →
   Completes (.connectionCycle k) s fun t => t.dev.get (SFL_CSTAT_SEQ k) = s.dev.time % 65536 ∧
   t.dev.sfl.txq = s.dev.sfl.txq ++ [(k.val, sflFrame Config.uid 0 1 (s.dev.get (SFL_CCFG_CONN_ID k)) (s.dev.time % 65536) (s.dev.sflTexp k) [1, 1])]) ∧
  (∀ (s : State) (k : Fin 256), s.powered → s.dev.sflOn k = true → s.dev.get (SFL_CCFG_DIR k) = 0 →
   s.dev.get (SFL_CSTAT_STATE k) = 2 →
   Completes (.connectionWatchdog k) s fun t => t.dev.get (SFL_CSTAT_STATE k) = 1 ∧ Counted SFL_CNT_TIMEOUT s t ∧
   Raised 603 s t) ∧
  (∀ (s : State) (k : Fin 256) (n : BitVec 8), s.inUse → s.dev.sflOn k = true → s.dev.get (SFL_CCFG_DIR k) = 1 →
   s.dev.get (SFL_CCFG_CLASS k) = 0 → s.dev.get (SFL_CSTAT_STATE k) = 2 → s.dev.sfl.txq.length < 16 →
   Completes (.appsend k n) s fun t => t.dev.get (SFL_CSTAT_SEQ k) = (s.dev.get (SFL_CSTAT_SEQ k) + 1) % 65536 ∧
   t.dev.sfl.txq.length = s.dev.sfl.txq.length + 1) ∧
  (∀ (s : State) (n : BitVec 16), s.inUse →
   (rdBytes s.mem 0x40B00200 (min n.toNat 257)).length ≠ ((rdBytes s.mem 0x40B00200 (min n.toNat 257)).getD 1 0).toNat + 14 →
   Completes (.submit n) s fun t => t.dev.get SFL_RXCTL_RESULT = 2 ∧ Counted SFL_CNT_REJECTED s t ∧ Raised 601 s t) ∧
  (∀ (s : State) (k : Nat) (n : BitVec 16) (f : List (BitVec 8)), s.inUse →
   rdBytes s.mem 0x40B00200 (min n.toNat 257) = f → f.length = (f.getD 1 0).toNat + 14 → f.getD 1 0 ≠ 0 →
   (f.getD 1 0).toNat ≤ 240 → s.dev.sflFind (ofBytesLE ((f.drop 2).take 4)) ((f.getD 0 0).toNat % 16) = some k →
   crcAutosar (bytesLE 8 (s.dev.sflProducer k) ++ f.take ((f.getD 1 0).toNat + 10)) = ofBytesLE (f.drop ((f.getD 1 0).toNat + 10)) →
   (f.getD 0 0).toNat % 16 = 0 → s.dev.get (SFL_CSTAT_STATE k) ≠ 1 →
   s.dev.sflChecks k 0 ((f.getD 0 0).toNat / 16) (ofBytesLE ((f.drop 6).take 2)) (ofBytesLE ((f.drop 8).take 2)) = 1 →
   Completes (.submit n) s fun t => t.dev.get SFL_RXCTL_RESULT = 1 ∧
   t.dev.get (SFL_CSTAT_SEQ k) = ofBytesLE ((f.drop 6).take 2) ∧ Raised 601 s t)

/-- On a unit that is not busy INIT loads the preset of the algorithm, GO starts memory mode and CRC_DATA feeds 8 or 4
bytes; a write of CRC_DATA to a busy unit is only counted; memory mode over 8 bytes of SRAM feeds them, ends with LEN
0 and raises DONE; STOP before the first cycle keeps value and length. Each is said under conditions on the state and
the operands alone: power, the clock of the block, an active image or a running origin where the command needs them,
and what its rules ask. Constructors that complete (exec answers a next state): crcInit, crcGo, crcData,
crcMemoryDone, crcStop. -/
def Obligations.CrcCommandsComplete : Prop :=
  (∀ (s : State) (u : Fin 8), s.inUse → s.dev.get (CRC_CTL_BUSY u) = 0 →
   Completes (.crcInit u) s fun t => t.dev.get (CRC_VAL u) = (s.dev.crcAlg u).init) ∧
  (∀ (s : State) (u : Fin 8), s.inUse → s.dev.get (CRC_CTL_BUSY u) = 0 → s.dev.get (CRC_LEN u) ≠ 0 →
   Completes (.crcGo u) s fun t => t.dev.get (CRC_CTL_BUSY u) = 1 ∧ t.dev.get (CRC_CTL_ERR u) = 0) ∧
  (∀ (s : State) (u : Fin 8) (h : Bool) (v : BitVec 64), s.inUse → s.dev.get (CRC_CTL_BUSY u) = 0 →
   Completes (.crcData u h v) s fun t => t.dev.get (CRC_VAL u) = (s.dev.crcAlg u).feed (s.dev.get (CRC_VAL u) % 2 ^ (s.dev.crcAlg u).width) (bytesLE (if h then 4 else 8) v.toNat) % 2 ^ 64) ∧
  (∀ (s : State) (u : Fin 8) (v : BitVec 64), s.inUse → s.dev.get (CRC_CTL_BUSY u) = 1 →
   Completes (.crcData u false v) s fun t => Counted (CRC_CTL_REF u) s t ∧
   t.dev.get (CRC_VAL u) = s.dev.get (CRC_VAL u)) ∧
  (∀ (s : State) (u : Fin 8) (a : Nat), s.clocked 0 → s.dev.get (CRC_CTL_BUSY u) = 1 → s.dev.get (CRC_ADDR u) = a →
   0x10000000 ≤ a → a + 8 ≤ 0x11000000 → s.dev.get (CRC_LEN u) = 8 →
   Completes (.crcMemoryDone u) s fun t => t.dev.get (CRC_CTL_BUSY u) = 0 ∧ t.dev.get (CRC_LEN u) = 0 ∧
   t.dev.get (CRC_VAL u) = (s.dev.crcAlg u).feed (s.dev.get (CRC_VAL u) % 2 ^ (s.dev.crcAlg u).width) (bytesLE 8 (rdLE s.mem a 8)) % 2 ^ 64 ∧
   Raised (616 + 2 * u) s t) ∧
  (∀ (s : State) (u : Fin 8), s.inUse → s.dev.get (CRC_CTL_BUSY u) = 1 → s.dev.get (CRC_LEN u) ≠ 0 →
   Completes (.crcStop u 0) s fun t => t.dev.get (CRC_CTL_BUSY u) = 0 ∧
   t.dev.get (CRC_LEN u) = s.dev.get (CRC_LEN u) ∧ t.dev.get (CRC_VAL u) = s.dev.get (CRC_VAL u))

/-- A frame start latches status and reply; a frame end takes a request whose CRC holds and answers RESULT 1 to one whose
CRC does not; NOP, RD and WR of an 8-byte word of SRAM, flash read, program and erase, key programming, key
revocation, APP_RESET and an unknown command execute as the command table says and leave their reply with its RESULT,
counted in FRAMES. Each is said under conditions on the state and the operands alone: power, the clock of the block,
an active image or a running origin where the command needs them, and what its rules ask. Constructors that complete
(exec answers a next state): spihFrameStart, spihFrameEnd, nopCmd, rd, wr, flRd, flProg, flErase, keyProg, keyRevoke,
appReset, unknownCommand. -/
def Obligations.HostPortCommandsComplete : Prop :=
  (∀ (s : State), s.powered → s.dev.spih.low = false → s.dev.spih.req = none →
   Completes (.spihFrameStart) s fun t => t.dev.spih.low = true ∧ t.dev.spih.given = s.dev.spih.reply ∧
   t.dev.spih.status = s.dev.spiStatus s.dev.spih.reply.isSome) ∧
  (∀ (s : State) (l : List (BitVec 8)) (q : SpiReq), s.clocked 2 → s.dev.spih.low = true →
   s.dev.spih.discard = false → s.dev.spih.resetDue = false → spiRequest l = some q →
   Completes (.spihFrameEnd l) s fun t => t.dev.spih.req = some q ∧ t.dev.spih.low = false ∧ t.dev.spih.reply = none) ∧
  (∀ (s : State) (l : List (BitVec 8)), s.clocked 2 → s.dev.spih.low = true → s.dev.spih.discard = false →
   s.dev.spih.resetDue = false → spiRequest l = none →
   Completes (.spihFrameEnd l) s fun t => t.dev.spih.reply = some (spiReply (l.getD 0 0).toNat (l.getD 1 0).toNat 1 []) ∧
   Counted SPI_HCNT_CRC_ERR s t ∧ Raised 633 s t) ∧
  (∀ (s : State) (q : SpiReq), s.serves → s.dev.spih.req = some q → q.cmd = 0 →
   Completes (.nopCmd) s fun t => t.dev.spih.req = none ∧ t.dev.spih.reply = some (spiReply q.cmd q.tag 0 []) ∧
   Counted SPI_HCNT_FRAMES s t ∧ Raised 632 s t) ∧
  (∀ (s : State) (q : SpiReq), s.serves → s.dev.spih.req = some q → q.cmd = 1 → s.dev.boot.recovery = false →
   q.len8 = 1 → 0x10000000 ≤ q.addr → q.addr + 8 ≤ 0x11000000 → Completes (.rd) s fun t => t.dev.spih.req = none ∧
   t.dev.spih.reply = some (spiReply q.cmd q.tag 0 (bytesLE 8 (rdLE s.mem q.addr 8))) ∧ Counted SPI_HCNT_FRAMES s t) ∧
  (∀ (s : State) (q : SpiReq), s.serves → s.dev.spih.req = some q → q.cmd = 2 → s.dev.boot.recovery = false →
   q.len8 = 1 → 0x10000000 ≤ q.addr → q.addr + 8 ≤ 0x11000000 → Completes (.wr) s fun t => t.dev.spih.req = none ∧
   t.dev.spih.reply = some (spiReply q.cmd q.tag 0 []) ∧ Counted SPI_HCNT_FRAMES s t ∧
   rdLE t.mem q.addr 8 = ofBytesLE (q.data.take 8) % 2 ^ 64) ∧
  (∀ (s : State) (q : SpiReq), s.servesFlash → s.dev.spih.req = some q → q.cmd = 0x10 →
   (s.dev.get SPI_M0CTL_BUSY = 0 ∨ s.dev.m0.behind = true) → q.addr + 8 * q.len8 ≤ 0x10000000 →
   Completes (.flRd true) s fun t => t.dev.spih.req = none ∧
   t.dev.spih.reply = some (spiReply q.cmd q.tag 0 (flashBytes s.flash q.addr (8 * q.len8))) ∧
   Counted SPI_HCNT_FRAMES s t) ∧
  (∀ (s : State) (q : SpiReq) (b : BitVec 8), s.servesFlash → s.dev.spih.req = some q → q.cmd = 0x11 →
   (s.dev.get SPI_M0CTL_BUSY = 0 ∨ s.dev.m0.behind = true) → s.dev.flashRefusal q.addr 1 = 0 → q.data = [b] →
   flash8 s.flash q.addr = 0xFF → Completes (.flProg true) s fun t => t.dev.spih.req = none ∧
   t.dev.spih.reply = some (spiReply q.cmd q.tag 0 []) ∧ Counted SPI_HCNT_FRAMES s t ∧ flash8 t.flash q.addr = b) ∧
  (∀ (s : State) (q : SpiReq) (i : BitVec 16), s.servesFlash → s.dev.spih.req = some q → q.cmd = 0x12 →
   (s.dev.get SPI_M0CTL_BUSY = 0 ∨ s.dev.m0.behind = true) → s.dev.flashRefusal q.addr 1 = 0 →
   Completes (.flErase true) s fun t => t.dev.spih.req = none ∧ t.dev.spih.reply = some (spiReply q.cmd q.tag 0 []) ∧
   Counted SPI_HCNT_FRAMES s t ∧ flash8 t.flash (q.addr / 0x10000 * 0x10000 + i.toNat) = 0xFF) ∧
  (∀ (s : State) (q : SpiReq), s.serves → s.dev.spih.req = some q → q.cmd = 0x20 → s.dev.boot.recovery = true →
   q.len8 = 5 → (q.data.getD 0 0).toNat < 4 → (q.data.getD 1 0).toNat < 2 →
   (s.dev.keySlot (q.data.getD 0 0).toNat).programmed = false →
   Completes (.keyProg) s fun t => t.dev.spih.req = none ∧ t.dev.spih.reply = some (spiReply q.cmd q.tag 0 []) ∧
   Counted SPI_HCNT_FRAMES s t ∧
   t.dev.keySlot (q.data.getD 0 0).toNat = { programmed := true, safety := decide ((q.data.getD 1 0).toNat = 1), digest := ofBytesBE ((q.data.drop 8).take 32) }) ∧
  (∀ (s : State) (q : SpiReq), s.serves → s.dev.spih.req = some q → q.cmd = 0x21 → s.dev.boot.recovery = true →
   q.len8 = 17 → Completes (.keyRevoke) s fun t => t.dev.spih.req = none ∧
   (t.dev.keySlot (q.data.getD 0 0).toNat = s.dev.keySlot (q.data.getD 0 0).toNat ∨ t.dev.keySlot (q.data.getD 0 0).toNat = { s.dev.keySlot (q.data.getD 0 0).toNat with revoked := true }) ∧
   (((decide ((q.data.getD 0 0).toNat < 4) && decide ((q.data.getD 1 0).toNat < 4) && decide (q.data.getD 0 0 ≠ q.data.getD 1 0) && (s.dev.keySlot (q.data.getD 0 0).toNat).programmed && (s.dev.keySlot (q.data.getD 1 0).toNat).programmed && !(s.dev.keySlot (q.data.getD 1 0).toNat).revoked && decide ((s.dev.keySlot (q.data.getD 0 0).toNat).safety = (s.dev.keySlot (q.data.getD 1 0).toNat).safety) && decide ((s.dev.keySlot (q.data.getD 1 0).toNat).digest = sha256 ((q.data.drop 8).take 64)) && sigBlockOk ((q.data.drop 8).take 128) (sha256 (revokeText (q.data.getD 0 0).toNat))) = true) →
   (t.dev.keySlot (q.data.getD 0 0).toNat).revoked = true ∧ t.dev.spih.reply = some (spiReply q.cmd q.tag 0 []))) ∧
  (∀ (s : State) (q : SpiReq), s.serves → s.dev.spih.req = some q → q.cmd = 0x30 → s.dev.boot.recovery = true →
   Completes (.appReset) s fun t => t.dev.spih.req = none ∧ t.dev.spih.reply = some (spiReply q.cmd q.tag 0 []) ∧
   Counted SPI_HCNT_FRAMES s t ∧ t.dev.spih.resetDue = true) ∧
  (∀ (s : State) (q : SpiReq), s.serves → s.dev.spih.req = some q → spiCmds.contains q.cmd = false →
   Completes (.unknownCommand) s fun t => t.dev.spih.req = none ∧
   t.dev.spih.reply = some (spiReply q.cmd q.tag 2 []) ∧ Counted SPI_HCNT_FRAMES s t)

/-- A permitted GO starts the operation, behind a host flash command that came first; a write programs the erased bytes of
its range with those of the SRAM buffer; its end clears BUSY with RESULT 1, its count and its event, a time-out with
RESULT 4; a flash window read that stays busy is counted; a written word joins the queue of SPIM1, in which the
running entry counts (log entry 105); an entry that is not LONG ends with its received word in the FIFO; the head word
is popped. Each is said under conditions on the state and the operands alone: power, the clock of the block, an active
image or a running origin where the command needs them, and what its rules ask. Constructors that complete (exec
answers a next state): m0Go, m0Done, flashWindowRead, m1TxQueue, m1EntryDone, m1RxPop. -/
def Obligations.SpiMastersComplete : Prop :=
  (∀ (s : State), s.inUse → s.dev.get SPI_M0CTL_BUSY = 0 → (s.dev.imageRuns = false ∨ s.dev.m0Protected = false) →
   Completes (.m0Go) s fun t => t.dev.get SPI_M0CTL_BUSY = 1 ∧ t.dev.m0.behind = s.dev.spih.flash ∧
   t.dev.get SPI_M0CTL_RESULT = 0) ∧
  (∀ (s : State) (l : List (BitVec 8)), s.clocked 2 → s.dev.get SPI_M0CTL_BUSY = 1 → s.dev.m0.behind = false →
   (s.dev.get SPI_M0CMD_LEN = 0 ∨ s.dev.clk 0 = true) →
   (s.dev.get SPI_M0CMD_LEN = 0 ∨ inSram (s.dev.get SPI_M0BUF / 8 * 8) (s.dev.get SPI_M0CMD_LEN) = true) →
   Completes (.m0Done (.done l [])) s fun t => t.dev.get SPI_M0CTL_BUSY = 0 ∧ t.dev.get SPI_M0CTL_RESULT = 1 ∧
   Counted SPI_M0CNT_OPS s t ∧ t.flash = s.flash ∧ Raised 634 s t) ∧
  (∀ (s : State) (a : BitVec 32) (v : BitVec 8), s.clocked 2 → s.dev.get SPI_M0CTL_BUSY = 1 →
   s.dev.m0.behind = false → s.dev.clk 0 = true → s.dev.get SPI_M0CMD_DIR = 0 → s.dev.get SPI_M0CMD_ADDR_BYTES ≠ 0 →
   s.dev.get SPI_M0ADDR % 2 ^ 32 ≤ a.toNat → a.toNat < s.dev.get SPI_M0ADDR % 2 ^ 32 + s.dev.get SPI_M0CMD_LEN →
   flash8 s.flash a.toNat = 0xFF → inSram (s.dev.get SPI_M0BUF / 8 * 8) (s.dev.get SPI_M0CMD_LEN) = true →
   Completes (.m0Done (.done [] [(a, v)])) s fun t => flash8 t.flash a.toNat = rd8 s.mem (s.dev.get SPI_M0BUF / 8 * 8 + (a.toNat - s.dev.get SPI_M0ADDR % 2 ^ 32)) ∧
   t.dev.m0.sent = rdBytes s.mem (s.dev.get SPI_M0BUF / 8 * 8) (s.dev.get SPI_M0CMD_LEN) ∧ t.mem = s.mem ∧
   t.dev.get SPI_M0CTL_RESULT = 1) ∧
  (∀ (s : State), s.clocked 2 → s.dev.get SPI_M0CTL_BUSY = 1 → s.dev.m0.behind = false →
   Completes (.m0Done .timeout) s fun t => t.dev.get SPI_M0CTL_BUSY = 0 ∧ t.dev.get SPI_M0CTL_RESULT = 4 ∧
   Counted SPI_M0CNT_TIMEOUTS s t ∧ Raised 635 s t) ∧
  (∀ (s : State), s.clocked 0 → s.dev.flashBusy = true →
   Completes (.flashWindowRead false) s fun t => Counted SPI_M0CNT_WIN_BUSY s t) ∧
  (∀ (s : State), s.clocked 0 → Completes (.flashWindowRead true) s fun t => t.dev = s.dev) ∧
  (∀ (s : State) (v : BitVec 64), s.inUse → s.dev.m1.queue.length < 16 →
   Completes (.m1TxQueue v) s fun t => t.dev.m1.queue = s.dev.m1.queue ++ [v] ∧
   t.dev.get SPI_M1STAT_QLEVEL = s.dev.m1.queue.length + 1) ∧
  (∀ (s : State) (v : BitVec 64) (r : List (BitVec 64)) (w : BitVec 32) (l : List (BitVec 8)), s.clocked 2 →
   s.dev.m1.queue = v :: r → m1Long v = false → s.dev.m1.rx.length < 16 →
   Completes (.m1EntryDone w l) s fun t => t.dev.m1.queue = r ∧
   t.dev.m1.rx = s.dev.m1.rx ++ [BitVec.ofNat 32 (w.toNat % 2 ^ m1Bits v)] ∧ t.mem = s.mem ∧ Raised 637 s t) ∧
  (∀ (s : State) (w : BitVec 32) (r : List (BitVec 32)), s.inUse → s.dev.m1.rx = w :: r →
   Completes (.m1RxPop) s fun t => t.dev.m1.rx = r)

/-- A written byte joins the transmit FIFO, a sent one leaves it, a received one joins the receive FIFO with its framing
flag and raises RX; a commander's GO starts a frame that ends with its data, with a bit error or with a time-out;
protected identifier and checksum are those of log entry 22 and a responder shows RESULT too (log entry 45); a
responder takes a break inside 15 % of the nominal span, and a header that no slot serves is counted and raised. Each
is said under conditions on the state and the operands alone: power, the clock of the block, an active image or a
running origin where the command needs them, and what its rules ask. Constructors that complete (exec answers a next
state): luTxByte, luByteSent, luRxPop, uartByteReceived, linGo, linFrameEnd, linResponseTimeout, linBreak, linHeader. -/
def Obligations.SerialPortsComplete : Prop :=
  (∀ (s : State) (n : Fin 4) (b : BitVec 8), s.inUse → (s.dev.luAt n).tx.length < 16 →
   Completes (.luTxByte n b) s fun t => (t.dev.luAt n).tx = (s.dev.luAt n).tx ++ [b] ∧
   t.dev.get (LUA_DATA_TX_LEVEL n) = (s.dev.luAt n).tx.length + 1) ∧
  (∀ (s : State) (n : Fin 4) (b : BitVec 8) (l : List (BitVec 8)), s.clocked 2 → s.dev.luMode n = 1 →
   (s.dev.luAt n).tx = b :: l → Completes (.luByteSent n) s fun t => (t.dev.luAt n).tx = l ∧ (l = [] →
   Raised (luSrc n 1) s t)) ∧
  (∀ (s : State) (n : Fin 4) (e : BitVec 8 × Bool × Bool) (l : List (BitVec 8 × Bool × Bool)), s.inUse →
   (s.dev.luAt n).rx = e :: l → Completes (.luRxPop n) s fun t => (t.dev.luAt n).rx = l) ∧
  (∀ (s : State) (n : Fin 4) (b : BitVec 8 × BitVec 8 × BitVec 8) (p : Bool × Bool × Bool) (st : List Bool), s.clocked 2 →
   s.dev.luMode n ≠ 0 → (s.dev.luAt n).rx.length < 16 →
   Completes (.uartByteReceived n b p (true, st)) s fun t => (t.dev.luAt n).rx.length = (s.dev.luAt n).rx.length + 1 ∧
   ((t.dev.luAt n).rx.getLast?.map fun e => (e.1, e.2.1)) = some (maj8 b, !stopOk st) ∧ Raised (luSrc n 0) s t) ∧
  (∀ (s : State) (n : Fin 4), s.inUse → s.dev.luMode n = 2 → s.dev.get (LUA_CFG_CMDR n) = 1 →
   s.dev.get (LUA_LIN_BUSY n) = 0 → Completes (.linGo n) s fun t => t.dev.get (LUA_LIN_BUSY n) = 1 ∧
   t.dev.get (LUA_LIN_RESULT n) = 0 ∧ (t.dev.luAt n).lin.isSome = true) ∧
  (∀ (s : State) (n : Fin 4) (f : LinFrame) (l : List (BitVec 8)) (c : BitVec 8), s.clocked 2 →
   (s.dev.luAt n).lin = some f → f.head = false → f.send = false → f.slot = none → l.length = f.len →
   c.toNat = linSum f.enh f.id l →
   Completes (.linFrameEnd n (.done l c)) s fun t => t.dev.get (LUA_LIN_RESULT n) = 1 ∧
   t.dev.reg (A_LUA_LDATA n) = BitVec.ofNat 64 (ofBytesLE l) ∧ t.dev.get (LUA_LIN_BUSY n) = 0) ∧
  (∀ (s : State) (n : Fin 4) (f : LinFrame), s.clocked 2 → (s.dev.luAt n).lin = some f →
   Completes (.linFrameEnd n .bitError) s fun t => t.dev.get (LUA_LIN_RESULT n) = 2 ∧
   Counted (LUA_CNT_LIN_ERR n) s t ∧ (t.dev.luAt n).lin = none) ∧
  (∀ (s : State) (n : Fin 4), s.clocked 2 → (s.dev.luAt n).lin.isSome = true →
   Completes (.linResponseTimeout n) s fun t => t.dev.get (LUA_LIN_RESULT n) = 4 ∧ Counted (LUA_CNT_LIN_ERR n) s t ∧
   (t.dev.luAt n).lin = none) ∧
  (∀ (s : State) (n : Fin 4) (k : BitVec 32), s.clocked 2 → s.dev.luMode n = 2 → s.dev.get (LUA_CFG_CMDR n) = 0 →
   85 * s.dev.linNominal n ≤ 100 * k.toNat → 100 * k.toNat ≤ 115 * s.dev.linNominal n →
   Completes (.linBreak n k) s fun t => (t.dev.luAt n).synced = true ∧ (t.dev.luAt n).span = k.toNat ∧
   Counted (LUA_CNT2_BREAK n) s t) ∧
  (∀ (s : State) (n : Fin 4) (b : BitVec 8), s.clocked 2 → s.dev.luMode n = 2 → (s.dev.luAt n).synced = true →
   b.toNat = linPid (b.toNat % 64) →
   ((List.range 4).all fun k => !(s.dev.bit (LUA_RSP_EN n k) && decide (s.dev.get (LUA_RSP_ID n k) = b.toNat % 64))) = true →
   Completes (.linHeader n b) s fun t => Counted (LUA_CNT2_HEADERS n) s t ∧ Raised (luSrc n 3) s t ∧
   (t.dev.luAt n).synced = false)

/-- The field is shown and raised as it comes and goes; a tag that hears a command answers it: inventory, quiet, select,
ready, reads of the blocks named, a write of a proposal page, system information, and error 0x12 for a block that is
not writable and 0x01 for an unsupported command (the frames are those of log entry 23); a commit holds the engine,
swaps its page and stores it when done, or ends without effect after its wait; a read of a page that is being swapped
answers 0x10; a host read fills the page buffer, or waits for the block write of the field, which nothing overtakes; a
fault entry is mirrored to its slot and counts as one commit (log entry 105). An enabled measurement runs; a valid
pair is counted, its flow joins the mean, AGE starts anew and STALE ends; a pair without a peak is dropped with cause
4 and leaves the result; a result that is too old becomes STALE with its event. Each is said under conditions on the
state and the operands alone: power, the clock of the block, an active image or a running origin where the command
needs them, and what its rules ask. Constructors that complete (exec answers a next state): nfcFieldDetected,
nfcFieldGone, tagInventory, tagStayQuiet, tagSelect, tagResetToReady, tagReadSingleBlock, tagWriteSingleBlock,
tagReadMultipleBlocks, tagExtendedReadSingleBlock, tagExtendedWriteSingleBlock, tagExtendedReadMultipleBlocks,
tagGetSystemInformation, tagExtendedGetSystemInformation, unsupportedTagCommand, nfcCommit, nfcRead, nfcCommitDone,
faultPageMirror, flowMeasurementStart, flowPairEvaluated, flowStale. -/
def Obligations.TagAndFlowComplete : Prop :=
  (∀ (s : State), s.dev.nfc.field = false → s.dev.get SYS_WAKECFG_NFC_EN = 0 →
   Completes (.nfcFieldDetected) s fun t => t.dev.nfc.field = true ∧ t.dev.nfc.dirty = s.dev.nfc.dirty ∧
   (s.dev.pwr.off = false → s.powered → t.dev.get NFC_STAT_FIELD = 1 ∧ Raised 664 s t)) ∧
  (∀ (s : State), s.dev.nfc.field = false → s.dev.sleeping = true → s.dev.get SYS_WAKECFG_NFC_EN = 1 →
   Completes (.nfcFieldDetected) s fun t => t.dev.pwr.asleep = false ∧ t.dev.get SYS_WAKECAUSE_NFC = 1 ∧
   t.dev.get SYS_RSTCAUSE_WAKE = 1) ∧
  (∀ (s : State), s.dev.nfc.field = true → Completes (.nfcFieldGone) s fun t => t.dev.nfc.field = false ∧
   t.dev.nfc.proto = 0 ∧ (s.powered → t.dev.get NFC_STAT_FIELD = 0 ∧ Raised 665 s t)) ∧
  (∀ (s : State) (m : BitVec 64), s.dev.nfc.field = true → s.dev.nfc.proto ≠ 1 →
   Completes (.tagInventory 0 m) s fun t => t.dev.nfc.answer = [0, 0] ++ bytesLE 8 tagUid) ∧
  (∀ (s : State), s.dev.nfc.field = true →
   Completes (.tagStayQuiet (BitVec.ofNat 64 tagUid)) s fun t => t.dev.nfc.proto = 1) ∧
  (∀ (s : State), s.dev.nfc.field = true →
   Completes (.tagSelect (BitVec.ofNat 64 tagUid)) s fun t => t.dev.nfc.proto = 2 ∧ t.dev.nfc.answer = [0]) ∧
  (∀ (s : State) (a : TagTo), s.dev.nfc.field = true → s.dev.tagHears a = true →
   Completes (.tagResetToReady a) s fun t => t.dev.nfc.proto = 0 ∧ t.dev.nfc.answer = [0]) ∧
  (∀ (s : State) (a : TagTo) (b : BitVec 8), s.dev.nfc.field = true → s.dev.tagHears a = true →
   s.dev.nfc.swaps b.toNat 1 = false →
   Completes (.tagReadSingleBlock a b) s fun t => t.dev.nfc.answer = 0 :: tagBytes s.tag (4 * b.toNat) 4) ∧
  (∀ (s : State) (a : TagTo) (b : BitVec 8) (v : BitVec 32), s.dev.nfc.field = true → s.dev.tagHears a = true →
   Completes (.tagWriteSingleBlock a b v) s fun t => t.dev.nfc.answer = [1, 0x12] ∧ t.tag = s.tag) ∧
  (∀ (s : State) (a : TagTo) (b : BitVec 8) (n : BitVec 8), s.dev.nfc.field = true → s.dev.tagHears a = true →
   b.toNat + n.toNat ≤ 255 → s.dev.nfc.swaps b.toNat (n.toNat + 1) = false →
   Completes (.tagReadMultipleBlocks a b n) s fun t => t.dev.nfc.answer = 0 :: tagBytes s.tag (4 * b.toNat) (4 * (n.toNat + 1))) ∧
  (∀ (s : State) (a : TagTo) (b : BitVec 16), s.dev.nfc.field = true → s.dev.tagHears a = true → b.toNat ≤ 4095 →
   s.dev.nfc.swaps b.toNat 1 = false →
   Completes (.tagExtendedReadSingleBlock a b) s fun t => t.dev.nfc.answer = 0 :: tagBytes s.tag (4 * b.toNat) 4) ∧
  (∀ (s : State) (a : TagTo) (b : BitVec 16) (v : BitVec 32), s.dev.nfc.field = true → s.dev.tagHears a = true →
   48 ≤ b.toNat / 64 → b.toNat / 64 < 56 → s.dev.nfc.commit = none →
   Completes (.tagExtendedWriteSingleBlock a b v) s fun t => t.dev.nfc.answer = [0] ∧
   tagBytes t.tag (4 * b.toNat) 4 = bytesLE 4 v.toNat ∧ (s.powered →
   t.dev.tb NFC_STAT_DIRTY (b.toNat / 64 - 48) = true)) ∧
  (∀ (s : State) (a : TagTo) (b : BitVec 16) (n : BitVec 16), s.dev.nfc.field = true → s.dev.tagHears a = true →
   b.toNat + n.toNat ≤ 4095 → s.dev.nfc.swaps b.toNat (n.toNat + 1) = false →
   Completes (.tagExtendedReadMultipleBlocks a b n) s fun t => t.dev.nfc.answer = 0 :: tagBytes s.tag (4 * b.toNat) (4 * (n.toNat + 1))) ∧
  (∀ (s : State) (a : TagTo) (b : BitVec 16) (l : List (BitVec 8)), s.dev.nfc.field = true →
   s.dev.tagHears a = true → s.dev.nfc.swap = true → s.dev.nfc.commit = some (b.toNat / 64, l) → b.toNat ≤ 4095 →
   Completes (.tagExtendedReadSingleBlock a b) s fun t => t.dev.nfc.answer = [1, 0x10] ∧ (s.powered →
   Counted NFC_CNT_BUSY_RESP s t)) ∧
  (∀ (s : State) (a : TagTo), s.dev.nfc.field = true → s.dev.tagHears a = true →
   Completes (.tagGetSystemInformation a) s fun t => t.dev.nfc.answer = [0, 0] ++ bytesLE 8 tagUid) ∧
  (∀ (s : State) (a : TagTo), s.dev.nfc.field = true → s.dev.tagHears a = true →
   Completes (.tagExtendedGetSystemInformation a) s fun t => t.dev.nfc.answer = [0, 4] ++ bytesLE 8 tagUid ++ [0xFF,
   0x0F, 3]) ∧
  (∀ (s : State) (a : TagTo), s.dev.nfc.field = true → s.dev.tagHears a = true →
   Completes (.unsupportedTagCommand a) s fun t => t.dev.nfc.answer = [1, 1]) ∧
  (∀ (s : State) (p : BitVec 6), s.inUse → s.dev.get NFC_STAT_BUSY = 0 → p.toNat < 56 → s.dev.nfc.field = false →
   Completes (.nfcCommit p) s fun t => t.dev.get NFC_STAT_BUSY = 1 ∧
   t.dev.nfc.commit = some (p.toNat, rdBytes s.mem 0x40E00100 256)) ∧
  (∀ (s : State) (p : BitVec 6), s.inUse → s.dev.get NFC_STAT_BUSY = 0 → s.dev.nfc.field = false →
   s.dev.nfc.writeEnd ≤ s.dev.mono →
   Completes (.nfcRead p) s fun t => rdBytes t.mem 0x40E00100 256 = tagBytes s.tag (256 * p.toNat) 256 ∧
   t.dev.get NFC_STAT_RESULT = 1 ∧ Raised 666 s t) ∧
  (∀ (s : State) (p : Nat) (l : List (BitVec 8)), s.clocked 2 → s.dev.nfc.commit = some (p, l) →
   s.dev.nfc.writeEnd ≤ s.dev.mono → Completes (.nfcCommitDone .done) s fun t => t.dev.nfc.commit = none ∧
   t.dev.get NFC_STAT_RESULT = 1 ∧ tagBytes t.tag (256 * p) l.length = l ∧ Counted NFC_CNT_COMMITS s t) ∧
  (∀ (s : State) (p : Nat) (l : List (BitVec 8)), s.clocked 2 → s.dev.nfc.commit = some (p, l) →
   s.dev.nfc.swap = false → s.dev.get NFC_STAT_BUSY = 1 →
   Completes (.nfcCommitDone .timeout) s fun t => t.dev.nfc.commit = none ∧ t.dev.get NFC_STAT_RESULT = 4 ∧
   t.tag = s.tag ∧ Counted NFC_CNT_WAIT_OVR s t) ∧
  (∀ (s : State) (p : BitVec 6), s.inUse → s.dev.get NFC_STAT_BUSY = 0 → isProposal p.toNat = false →
   s.dev.mono < s.dev.nfc.writeEnd → Completes (.nfcRead p) s fun t => t.dev.get NFC_STAT_BUSY = 1 ∧
   t.dev.nfc.readPage = some p.toNat ∧ t.mem = s.mem) ∧
  (∀ (s : State) (p : Fin 64), s.clocked 2 → s.dev.nfc.commit = none → s.dev.nfc.readPage = some p.val →
   s.dev.nfc.writeEnd ≤ s.dev.mono →
   Completes (.nfcCommitDone .done) s fun t => rdBytes t.mem 0x40E00100 256 = tagBytes s.tag (256 * p.val) 256 ∧
   t.dev.get NFC_STAT_BUSY = 0 ∧ t.dev.nfc.readPage = none ∧ t.dev.get NFC_STAT_RESULT = 1) ∧
  (∀ (s : State) (p : Nat) (l : List (BitVec 8)), s.clocked 2 → s.dev.nfc.commit = some (p, l) →
   s.dev.nfc.writeEnd ≤ s.dev.mono → Completes (.nfcCommitDone .swap) s fun t => t.dev.nfc.swap = true ∧
   t.tag = s.tag ∧ t.dev.regs = s.dev.regs) ∧
  (∀ (s : State) (e : TagEnd), s.clocked 2 → s.dev.mono < s.dev.nfc.writeEnd → e ≠ .timeout →
   Completes (.nfcCommitDone e) s fun t => t = s) ∧
  (∀ (s : State) (k : BitVec 16), s.clocked 2 → s.dev.get NFC_STAT_BUSY = 0 → s.dev.nfc.writeEnd ≤ s.dev.mono →
   s.dev.jnl.mirror = [k.toNat] → Completes (.faultPageMirror) s fun t => t.dev.jnl.mirror = [] ∧
   tagBytes t.tag (0x3800 + 64 * (k.toNat % 32)) 64 = rdBytes s.mem (0x20000000 + 64 * (k.toNat % 32768)) 64 ∧
   Counted NFC_CNT_COMMITS s t) ∧
  (∀ (s : State), s.clocked 2 → s.dev.get FLW_CFG_EN = 1 →
   Completes (.flowMeasurementStart) s fun t => t.dev.get FLW_STAT_RUN = 1) ∧
  (∀ (s : State) (a : BitVec 16) (b : BitVec 16) (p : BitVec 16) (q : BitVec 16) (x : BitVec 32) (y : BitVec 32) (z : BitVec 32), s.clocked 2 →
   s.dev.get FLW_STAT_RUN = 1 → s.dev.inWindow x.toNat = true → s.dev.inWindow y.toNat = true →
   s.dev.flowDrop true a.toNat b.toNat p.toNat q.toNat = 0 → s.dev.get FLW_CFG_AVG = 0 →
   Completes (.flowPairEvaluated true a b p q x y z) s fun t => Counted FLW_STAT_PAIRS s t ∧
   t.dev.flw.validAt = some s.dev.mono ∧
   t.dev.flw.q = [s.dev.flowQ (x.toNat - s.dev.get FLW_LIM_T_OFF * 1000) (y.toNat - s.dev.get FLW_LIM_T_OFF * 1000) z.toInt] ∧
   t.dev.get FLW_STAT_STALE = 0) ∧
  (∀ (s : State) (a : BitVec 16) (b : BitVec 16) (p : BitVec 16) (q : BitVec 16) (x : BitVec 32) (y : BitVec 32) (z : BitVec 32), s.clocked 2 →
   s.dev.get FLW_STAT_RUN = 1 →
   Completes (.flowPairEvaluated false a b p q x y z) s fun t => Counted FLW_STAT_DROPS s t ∧
   t.dev.get FLW_STAT_LAST_DROP = 4 ∧ t.dev.flw = s.dev.flw ∧ t.dev.reg A_FLW_RES = s.dev.reg A_FLW_RES) ∧
  (∀ (s : State), s.powered → s.dev.get FLW_STAT_STALE = 0 →
   Completes (.flowStale) s fun t => t.dev.get FLW_STAT_STALE = 1 ∧ Raised 674 s t)

/-- An access outside the map counts UNMAPPED and raises 749; a write to the firmware area stores its 8 bytes; a write of
an event source register stores its TGT and PRIO; a write to memory that is read only to the bus counts RO_WRITE and
stores nothing; without ACCESS a debug command is refused and counted, with it a trigger is stored, a core is halted
and a register of a halted core is written, in a pair of one instruction stream on both cores (log entry 31). While
its origin makes no accesses (no power, PLL A stopped, no active image, a core that does not run; log entries 6 and
40) an access changes nothing. Each is said under conditions on the state and the operands alone: power, the clock of
the block, an active image or a running origin where the command needs them, and what its rules ask. Constructors that
complete (exec answers a next state): busErrorAccess, registerWrite, debugCommand. -/
def Obligations.BusCommandsComplete : Prop :=
  (∀ (s : State) (o : Origin) (a : BitVec 40) (n : Width) (w : Bool), s.accesses o →
   accessErr a.toNat n.bytes w = some .unmapped →
   Completes (.busErrorAccess o a n w) s fun t => Counted SYS_BUSERR_UNMAPPED s t ∧ Raised 749 s t) ∧
  (∀ (s : State) (o : Origin) (a : BitVec 40) (v : BitVec 64), s.accesses o → 0x20290000 ≤ a.toNat →
   a.toNat + 8 ≤ 0x20800000 → Completes (.registerWrite o a .w64 v) s fun t => rdLE t.mem a.toNat 8 = v.toNat ∧
   t.dev = s.dev) ∧
  (∀ (s : State) (o : Origin) (k : Fin 768) (v : BitVec 64), s.accesses o →
   Completes (.registerWrite o (BitVec.ofNat 40 (A_EVR_SRC k)) .w64 v) s fun t => t.dev.get (EVR_SRC_TGT k) = v.toNat % 64 ∧
   t.dev.get (EVR_SRC_PRIO k) = v.toNat / 512 % 8 ∧ t.mem = s.mem) ∧
  (∀ (s : State) (o : Origin) (a : BitVec 40) (n : Width) (v : BitVec 64), s.accesses o →
   accessErr a.toNat n.bytes true = some .roWrite →
   Completes (.registerWrite o a n v) s fun t => Counted SYS_BUSERR_RO_WRITE s t ∧ Raised 749 s t ∧ t.mem = s.mem) ∧
  (∀ (s : State) (c : DbgCmd), s.powered → dbgOpen c = false → s.dev.get DBG_STAT_ACCESS = 0 →
   Completes (.debugCommand c) s fun t => Counted DBG_CNT_REFUSED s t ∧
   t.dev.get DBG_STAT_HALTED = s.dev.get DBG_STAT_HALTED) ∧
  (∀ (s : State) (c : Fin 4) (k : Fin 4) (v : BitVec 64), s.powered → s.dev.get DBG_STAT_ACCESS = 1 →
   Completes (.debugCommand (.trigger c k v)) s fun t => Tab.find (fun _ => 0) t.dev.dbgTrig (4 * c.val + k.val) = v) ∧
  (∀ (s : State) (c : Fin 4), s.powered → s.dev.get DBG_STAT_ACCESS = 1 →
   Completes (.debugCommand (.halt c)) s fun t => t.dev.tb DBG_STAT_HALTED c = true) ∧
  (∀ (s : State) (c : Fin 4) (r : Fin 31) (v : BitVec 64), s.powered → s.dev.get DBG_STAT_ACCESS = 1 →
   s.dev.tb DBG_STAT_HALTED c = true →
   Completes (.debugCommand (.writeReg c (BitVec.ofNat 16 (0x1001 + r)) v)) s fun t => Tab.find (fun _ => 0) (t.dev.portAt c).x (r + 1) = v) ∧
  (∀ (s : State) (o : Origin) (a : BitVec 40) (w : Width) (v : BitVec 64) (wr : Bool), ¬ s.accesses o →
   exec (.registerWrite o a w v) s = .next s ∧ exec (.busErrorAccess o a w wr) s = .next s)

/-- VSUP good, dip, sag end, loss, return and recovery, VHOLD below minimum, exhausted, good and low each answer a next
state: the power state, the supply flags, the loss sequence (state SUPPLY_LOSS, event 750, Hem hold, PLLs stopped,
flush begun) and the reset causes are as the rules give them. A sleep request whose conditions hold enters SLEEP_PREP
and releases the clock requests, its completion removes the main-domain power, and each wake source that is enabled
begins a local start with its bit in SYS_WAKECAUSE and WAKE in SYS_RSTCAUSE. Each is said under conditions on the
state and the operands alone: power, the clock of the block, an active image or a running origin where the command
needs them, and what its rules ask. Constructors that complete (exec answers a next state): vsupGood, vsupDipStart,
vsupSagEnd, supplyLossEvent, vsupReturn, vsupRecovery, vholdBelowMinimum, vholdExhausted, vholdGood, vholdLow,
sleepReq, sleepPrepComplete, canWakePattern, wakePinAccepted, sleepTimerExpiry. -/
def Obligations.PowerAndSleepComplete : Prop :=
  (∀ (s : State), s.dev.pwr.off = true → Completes (.vsupGood) s fun t => t.dev.pwr.off = false ∧
   t.dev.get SYS_PWRSTATE_STATE = 1 ∧ t.dev.get SYS_RSTCAUSE_POWER_ON = 1 ∧ t.dev.per = s.dev.per) ∧
  (∀ (s : State), s.dev.pwr.off = false → Completes (.vsupDipStart) s fun t => t.dev.pwr.vsupLow = true ∧
   t.dev.pwr.charging = false) ∧
  (∀ (s : State), s.powered → s.dev.inLoss = false → s.dev.pwr.vsupLow = true →
   Completes (.vsupSagEnd) s fun t => t.dev.pwr.vsupLow = false ∧ t.dev.pwr.charging = true ∧
   Counted JNL_PLOSS_SAGS s t) ∧
  (∀ (s : State) (v : BitVec 16), s.powered → s.dev.inLoss = false →
   Completes (.supplyLossEvent v) s fun t => t.dev.get SYS_PWRSTATE_STATE = 4 ∧ Raised 750 s t ∧
   Counted JNL_PLOSS_EVENTS s t ∧ t.dev.get HEM_STAT_HOLD = 1 ∧ t.dev.get SYS_CLKSTAT_PLLA_ST = 0 ∧
   t.dev.get SYS_CLKSTAT_PLLB_ST = 0 ∧ t.dev.get SYS_CLKSTAT_PLLC_ST = 0 ∧ t.dev.get JNL_STAT_FLUSHING = 1 ∧
   t.dev.jnl.budget ≠ none) ∧
  (∀ (s : State), s.dev.inLoss = true → Completes (.vsupReturn) s fun t => t.dev.pwr.vsupLow = false ∧
   t.dev.pwr.charging = true ∧ t.dev.pwr.recovering = true) ∧
  (∀ (s : State), s.dev.inLoss = true → s.dev.pwr.recovering = true → s.dev.pwr.belowMin = false →
   Completes (.vsupRecovery) s fun t => t.dev.get SYS_PWRSTATE_STATE = 1 ∧ t.dev.get SYS_RSTCAUSE_SUPPLY_LOSS = 1 ∧
   t.dev.time = 0 ∧ t.dev.per = s.dev.per) ∧
  (∀ (s : State), s.dev.inLoss = true → s.dev.pwr.recovering = true → s.dev.pwr.belowMin = true →
   Completes (.vsupRecovery) s fun t => t.dev.get SYS_PWRSTATE_STATE = 1 ∧ t.dev.get SYS_RSTCAUSE_POWER_ON = 1 ∧
   t.dev.get SYS_RSTCAUSE_SUPPLY_LOSS = 0 ∧ t.dev.time = 0 ∧ t.dev.per = s.dev.per) ∧
  (∀ (s : State), s.dev.inLoss = true → s.dev.pwr.vsupLow = true →
   Completes (.vholdBelowMinimum) s fun t => t.dev.pwr.belowMin = true ∧ t.dev.jnl.portClosed = true ∧
   t.dev.regs = s.dev.regs) ∧
  (∀ (s : State), s.dev.inLoss = true → s.dev.pwr.vsupLow = true →
   Completes (.vholdExhausted) s fun t => t.dev.pwr.off = true ∧ t.dev.per = s.dev.per) ∧
  (∀ (s : State), s.powered → Completes (.vholdGood) s fun t => t.dev.get SYS_IMGSTAT_VHOLD_LOW = 0) ∧
  (∀ (s : State), s.powered → Completes (.vholdLow) s fun t => t.dev.get SYS_IMGSTAT_VHOLD_LOW = 1) ∧
  (∀ (s : State), s.inUse → s.dev.get SYS_PWRSTATE_STATE = 2 → s.dev.sleepWhy = 0 →
   Completes (.sleepReq) s fun t => t.dev.get SYS_PWRSTATE_STATE = 3 ∧ (∀ p : Fin 3, s.dev.get (pllFld p) = 2 →
   t.dev.get (pllFld p) = 3)) ∧
  (∀ (s : State), s.inUse → s.dev.get SYS_PWRSTATE_STATE = 2 → s.dev.sleepWhy ≠ 0 →
   Completes (.sleepReq) s fun t => t.dev.get SYS_PWRSTATE_STATE = 2 ∧ Counted SYS_PWRCTL_SLP_REFUSED s t ∧
   t.dev.get SYS_PWRCTL_REFUSE_WHY = s.dev.sleepWhy) ∧
  (∀ (s : State), s.powered → s.dev.get SYS_PWRSTATE_STATE = 3 → s.dev.wakePending = false →
   s.dev.sleepPrepDone = true → Completes (.sleepPrepComplete) s fun t => t.dev.pwr.asleep = true ∧
   t.dev.per = s.dev.per ∧ t.dev.get SYS_WAKECFG_CAN_EN = s.dev.get SYS_WAKECFG_CAN_EN) ∧
  (∀ (s : State) (n : Fin 4), s.dev.sleeping = true → s.dev.tb SYS_WAKECFG_CAN_EN n = true →
   Completes (.canWakePattern n) s fun t => t.dev.pwr.asleep = false ∧ t.dev.tb SYS_WAKECAUSE_CAN n = true ∧
   t.dev.get SYS_RSTCAUSE_WAKE = 1 ∧ t.dev.get SYS_PWRSTATE_STATE = 1) ∧
  (∀ (s : State), s.dev.sleeping = true → s.dev.get SYS_WAKECFG_WAKE_MODE = 1 → s.dev.pwr.wakeHigh = false →
   Completes (.wakePinAccepted true) s fun t => t.dev.pwr.asleep = false ∧ t.dev.get SYS_WAKECAUSE_WAKE = 1 ∧
   t.dev.get SYS_RSTCAUSE_WAKE = 1 ∧ t.dev.pwr.wakeHigh = true) ∧
  (∀ (s : State), s.dev.sleeping = true → s.dev.get SYS_WAKECFG_TMR_EN = 1 →
   Completes (.sleepTimerExpiry) s fun t => t.dev.pwr.asleep = false ∧ t.dev.get SYS_WAKECAUSE_TMR = 1 ∧
   t.dev.get SYS_RSTCAUSE_WAKE = 1)

/-- A request starts an OFF PLL and returns one in HOLDOFF to LOCKED, lock, lock time-out, the release of the last
request, the end of the hold-off with and without a request, and a lost lock move a PLL as R28 says, with events 745
to 747; a reference failure sets REFFAIL and raises 748. APP_RST with its key from a pair in lockstep, a watchdog
expiry, the reset by Thimble after a PLL failure and a debug reset with full access restart the local start (stage of
the application release) with their own bit in SYS_RSTCAUSE. Each is said under conditions on the state and the
operands alone: power, the clock of the block, an active image or a running origin where the command needs them, and
what its rules ask. Constructors that complete (exec answers a next state): pllRequest, pllLock, pllLockTimeout,
pllLastRequestReleased, pllHoldoffExpire, pllLockLost, referenceFailure, appRst, watchdogExpiry, thimbleReset,
debugReset. -/
def Obligations.ClockAndResetComplete : Prop :=
  (∀ (s : State) (p : Fin 3) (fw : Bool), s.powered → s.dev.pllAsk fw = true → s.dev.get SYS_PWRSTATE_STATE ≠ 3 →
   s.dev.get SYS_PWRSTATE_STATE ≠ 4 → s.dev.get (pllFld p) = 0 →
   Completes (.pllRequest p fw) s fun t => t.dev.get (pllFld p) = 1) ∧
  (∀ (s : State) (p : Fin 3) (fw : Bool), s.powered → s.dev.pllAsk fw = true → s.dev.get SYS_PWRSTATE_STATE ≠ 3 →
   s.dev.get SYS_PWRSTATE_STATE ≠ 4 → s.dev.get (pllFld p) = 3 →
   Completes (.pllRequest p fw) s fun t => t.dev.get (pllFld p) = 2) ∧
  (∀ (s : State) (p : Fin 3), s.powered → s.dev.get (pllFld p) = 1 → s.dev.bit (pllReqFld p) = true →
   s.dev.get SYS_PWRSTATE_STATE ≠ 3 → s.dev.get SYS_PWRSTATE_STATE ≠ 4 →
   Completes (.pllLock p) s fun t => t.dev.get (pllFld p) = 2) ∧
  (∀ (s : State) (p : Fin 3), s.powered → s.dev.get (pllFld p) = 1 →
   Completes (.pllLockTimeout p) s fun t => t.dev.get (pllFld p) = 4 ∧ Raised (745 + p) s t) ∧
  (∀ (s : State) (p : Fin 3), s.inUse → s.dev.get (pllFld p) = 2 → s.dev.pwr.pllHw.testBit p = false →
   s.dev.hwWants p = false → Completes (.pllLastRequestReleased p true) s fun t => t.dev.get (pllFld p) = 3 ∧
   t.dev.get (pllReqFld p) = 0) ∧
  (∀ (s : State) (p : Fin 3), s.powered → s.dev.get (pllFld p) = 3 → s.dev.pllWanted p = false →
   Completes (.pllHoldoffExpire p false) s fun t => t.dev.get (pllFld p) = 0) ∧
  (∀ (s : State) (p : Fin 3), s.powered → s.dev.get (pllFld p) = 3 → s.dev.get SYS_PWRSTATE_STATE ≠ 3 →
   s.dev.get SYS_PWRSTATE_STATE ≠ 4 → Completes (.pllHoldoffExpire p true) s fun t => t.dev.get (pllFld p) = 2) ∧
  (∀ (s : State) (p : Fin 3), s.powered → (s.dev.get (pllFld p) = 2 ∨ s.dev.get (pllFld p) = 3) →
   Completes (.pllLockLost p) s fun t => t.dev.get (pllFld p) = 4 ∧ Raised (745 + p) s t) ∧
  (∀ (s : State), s.powered → Completes (.referenceFailure) s fun t => t.dev.get SYS_CLKSTAT_REFFAIL = 1 ∧
   Raised 748 s t) ∧
  (∀ (s : State) (o : Origin), s.accesses o → s.dev.get SYS_PWRSTATE_STATE ≠ 4 → s.dev.boot.heldReset = false →
   s.dev.lockOrigin o = true → Completes (.appRst o 0xD2A6 true) s fun t => t.dev.get SYS_RSTCAUSE_SOFTWARE = 1 ∧
   t.dev.boot.stage = 2) ∧
  (∀ (s : State), s.powered → s.dev.get SYS_PWRSTATE_STATE ≠ 4 → s.dev.boot.heldReset = false →
   s.dev.ownerHalted = false → s.dev.bit SYS_PWRSTATE_READY = true →
   Completes (.watchdogExpiry) s fun t => t.dev.get SYS_RSTCAUSE_WATCHDOG = 1 ∧ t.dev.boot.stage = 2) ∧
  (∀ (s : State) (p : Fin 3), s.powered → s.dev.get SYS_PWRSTATE_STATE ≠ 4 → s.dev.boot.heldReset = false →
   s.dev.get (pllFld p) = 4 → s.dev.boot.pllTries < 3 →
   Completes (.thimbleReset) s fun t => t.dev.get SYS_RSTCAUSE_THIMBLE = 1 ∧ t.dev.boot.stage = 2 ∧
   t.dev.boot.pllTries = s.dev.boot.pllTries + 1) ∧
  (∀ (s : State), s.powered → s.dev.get SYS_PWRSTATE_STATE ≠ 4 → s.dev.boot.heldReset = false →
   s.dev.get DBG_STAT_ACCESS = 1 → Completes (.debugReset) s fun t => t.dev.get SYS_RSTCAUSE_DEBUG = 1 ∧
   t.dev.boot.stage = 2 ∧ t.dev.get DBG_CNT_RESETS = 1)

/-- Every command of the supply, clock, start-up, field output and event commands completes from every state, and every
part of the state outside the list given for it is unchanged: each other register, each record beside the registers,
each byte of memory, flash and tag outside the bytes stored, the queue, the time. Where a record chooses a register,
the premise is that it names one that exists (numbersOk). Constructors that complete (exec answers a next state):
busErrorAccess, vsupDipStart, vsupReturn, vsupSagEnd, supplyLossEvent, vholdBelowMinimum, vholdGood, vholdLow,
sleepReq, nfcFieldGone, pllRequest, pllLastRequestReleased, pllLock, pllLockTimeout, pllLockLost, pllHoldoffExpire,
referenceFailure, thimbleBootDone, headerCheckDone, imageStreamDone, signatureCheckDone, gateLinkTrainingDone,
gateLinkTrainingFail, gateLinkRetry, readySet, verify, verifyDone, foModeWrite, foCurrentLimitReached,
foCurrentBelowLimit, foLimitTimerExpire, foOvertemperature, foRetryTimerExpire, foRetryReset, foLatchClear,
bankSupplyFault, bankSupplyRecovered, aggOver, diRawEdge, diFilteredEdge, evrAck, evrPendClear, journalEntryWrite,
jnlFwcmd, highVoltageHalfPowerUp. -/
def Obligations.PowerAndStartFrames : Prop :=
  (∀ (s : State) (o : Origin) (a : BitVec 40) (w : Width) (wr : Bool), Writes (.busErrorAccess o a w wr) s [[.reg A_SYS_BUSERR],
   raises]) ∧
  (∀ (s : State), ∀ i ∈ [Instr.vsupDipStart, Instr.vsupReturn], Writes i s [[.pwr]]) ∧
  (∀ (s : State), Writes .vsupSagEnd s [[.reg A_JNL_PLOSS, .pwr]]) ∧
  (∀ (s : State) (vholdMv : BitVec 16), Writes (.supplyLossEvent vholdMv) s [[.reg A_GCH_BRK, .reg A_JNL_PLOSS,
   .reg A_SYS_PWRSTATE, .fio, .pwr], demands, journals, regs A_POS_TST 4, all .clu 2]) ∧
  (∀ (s : State), Writes .vholdBelowMinimum s [[.reg A_JNL_PLOSS, .reg A_JNL_STAT, .jnl, .pwr]]) ∧
  (∀ (s : State), Writes .vholdGood s [[.reg A_SYS_IMGSTAT]]) ∧
  (∀ (s : State), s.numbersOk = true → Writes .vholdLow s [[.reg A_SYS_IMGSTAT], demands, journals, regs A_POS_TST 4,
   all .clu 2]) ∧
  (∀ (s : State), Writes .sleepReq s [[.reg A_SYS_CLKSTAT, .reg A_SYS_PWRCTL, .reg A_SYS_PWRSTATE]]) ∧
  (∀ (s : State), Writes .nfcFieldGone s [[.reg A_NFC_STAT, .nfc], raises]) ∧
  (∀ (s : State) (p : Fin 3) (fw : Bool), ∀ i ∈ [Instr.pllRequest p fw, Instr.pllLastRequestReleased p fw],
   Writes i s [[.reg A_SYS_CLKREQ, .reg A_SYS_CLKSTAT, .pwr]]) ∧
  (∀ (s : State) (p : Fin 3), Writes (.pllLock p) s [[.reg A_ADC_REFSTAT, .reg A_GCH_BRK, .reg A_SYS_CLKSTAT],
   journals, regs A_CEN_LACNT 4, regs A_CEN_SCNT 64, regs A_CEN_SCNT2 64, regs A_CEN_SSTAT 64, regs A_GCH_STAT 14,
   regs A_PWM_STAT 3, all .car 3, all .gch 14, all .port 5, all .slc 64]) ∧
  (∀ (s : State) (p : Fin 3), ∀ i ∈ [Instr.pllLockTimeout p, Instr.pllLockLost p], Writes i s [[.reg A_GCH_BRK],
   safeStates, journals, regs A_POS_TST 4, regs A_STP_CTL 12, regs A_STP_STAT 12, regs A_STP_VEL 12, all .axis 12,
   all .clu 2]) ∧
  (∀ (s : State) (p : Fin 3) (req : Bool), Writes (.pllHoldoffExpire p req) s [[.reg A_GCH_BRK, .reg A_SYS_CLKREQ,
   .reg A_SYS_CLKSTAT, .pwr], journals, regs A_GCH_STAT 14, regs A_PWM_STAT 3, all .car 3, all .gch 14]) ∧
  (∀ (s : State), Writes .referenceFailure s [safeStates, journals, regs A_POS_TST 4, regs A_STP_CTL 12,
   regs A_STP_STAT 12, regs A_STP_VEL 12, all .axis 12, all .clu 2]) ∧
  (∀ (s : State) (ok : Bool) (safe1 : Bool) (safe2 : Bool) (cal1 : Bool) (cal2 : Bool) (torn : Bool), s.numbersOk = true →
   Writes (.thimbleBootDone ok safe1 safe2 cal1 cal2 torn) s [[.reg A_DTM_OFS, .reg A_DTM_TRIM, .reg A_SYS_IMGSTAT,
   .reg A_THM_CLOG, .reg A_THM_PWD, .reg A_THM_SI, .reg A_THM_STAT, .boot, .dtm, .per], demands, journals, setRegs,
   regs A_POS_TST 4, all .clu 2]) ∧
  (∀ (s : State) (ok : Bool) (map : BitVec 64) (prot : BitVec 64), Writes (.headerCheckDone ok map prot) s [[.reg A_SPI_M0MAP,
   .reg A_SPI_M0PROT, .reg A_SYS_CLKSTAT, .reg A_SYS_IMGCTL, .reg A_SYS_IMGSTAT, .reg A_SYS_PWRSTATE, .boot, .pwr],
   raises]) ∧
  (∀ (s : State) (ok : Bool) (c : ImgContent), Writes (.imageStreamDone ok c) s [[.reg A_SYS_CLKSTAT,
   .reg A_SYS_IMGSTAT, .reg A_SYS_PWRSTATE, .boot, .pwr], raises]) ∧
  (∀ (s : State), Writes .signatureCheckDone s [[.reg A_SYS_CLKSTAT, .reg A_SYS_IMGSTAT, .reg A_SYS_PWRSTATE, .boot,
   .pwr], raises, all .aux 2]) ∧
  (∀ (s : State) (n : Fin 14 × Rails), Writes (.gateLinkTrainingDone n) s [[.reg A_GCH_ASC, .reg A_GCH_DIS, .reg (A_GCH_FLT n.1), .reg (A_GCH_FSTAMP n.1),
   .reg A_SYS_GLINK, .gch n.1], journals, regs A_FIO_OSTAT 16, regs A_GCH_STAT 14, all .fo 16]) ∧
  (∀ (s : State) (n : Fin 14), Writes (.gateLinkTrainingFail n) s [[.reg A_SYS_GLINK, .gch n]]) ∧
  (∀ (s : State) (n : Fin 14) (ok : Option Rails), Writes (.gateLinkRetry n ok) s [[.reg A_GCH_ASC, .reg A_GCH_DIS, .reg (A_GCH_FLT n), .reg (A_GCH_FSTAMP n),
   .reg A_SYS_GLINK, .gch n], journals, regs A_FIO_OSTAT 16, regs A_GCH_STAT 14, all .fo 16]) ∧
  (∀ (s : State), s.numbersOk = true → Writes .readySet s [[.reg A_ETH_ASCFG, .reg A_SFL_DOMSTAT, .reg A_SFL_FORMT,
   .reg A_SYS_BOOTTIME, .reg A_SYS_PWRSTATE, .boot, .dom, .pwr], demands, journals, regs A_CAN_TIME 4,
   regs A_POS_TST 4, all .clu 2]) ∧
  (∀ (s : State), Writes .verify s [[.reg A_SYS_IMGCTL]]) ∧
  (∀ (s : State) (ok : Bool) (c : ImgContent), Writes (.verifyDone ok c) s [[.reg A_SYS_IMGCTL, .reg A_SYS_IMGSTAT],
   all .aux 2]) ∧
  (∀ (s : State) (n : Fin 16) (mode : BitVec 3), Writes (.foModeWrite n mode) s [[.reg (A_FIO_OSTAT n), .reg (A_FIO_OUTCFG n),
   .reg A_HEM_CNT, .fo n], raises]) ∧
  (∀ (s : State) (n : Fin 16) (ma : BitVec 16), Writes (.foCurrentLimitReached n ma) s [[.reg (A_FIO_OSTAT n)]]) ∧
  (∀ (s : State) (n : Fin 16) (ma : BitVec 16), Writes (.foCurrentBelowLimit n ma) s [[.reg A_FIO_CNT, .reg (A_FIO_OSTAT n)]]) ∧
  (∀ (s : State) (n : Fin 16), s.numbersOk = true → Writes (.foLimitTimerExpire n) s [[.reg A_FIO_FLT], demands,
   journals, regs A_POS_TST 4, all .clu 2]) ∧
  (∀ (s : State) (n : Fin 16 × BitVec 16), s.numbersOk = true → Writes (.foOvertemperature n) s [[.reg A_FIO_FLT],
   demands, journals, regs A_POS_TST 4, all .clu 2]) ∧
  (∀ (s : State) (n : Fin 14), Writes (.foRetryTimerExpire n) s [[.reg A_FIO_CNT, .reg (A_FIO_OSTAT n), .fo n]]) ∧
  (∀ (s : State) (n : Fin 14), Writes (.foRetryReset n) s [[.reg (A_FIO_OSTAT n)]]) ∧
  (∀ (s : State) (mask : BitVec 14), Writes (.foLatchClear mask) s [[.reg A_FIO_FLT], regs A_FIO_OSTAT 16, all .fo 16]) ∧
  (∀ (s : State) (b : Fin 4) (high : Bool) (v : BitVec 16), Writes (.bankSupplyFault b high v) s [[.reg A_FIO_FLT,
   .reg A_FIO_VFIELD, .reg A_THM_SBCST, .fio], raises, regs A_FIO_OSTAT 16, regs A_FIO_OUTCFG 16, all .fo 16]) ∧
  (∀ (s : State) (b : Fin 4) (v : BitVec 16), Writes (.bankSupplyRecovered b v) s [[.reg A_FIO_VFIELD,
   .reg A_THM_SBCST, .fio], regs A_FIO_OSTAT 16, regs A_FIO_OUTCFG 16, all .fo 16]) ∧
  (∀ (s : State), Writes .aggOver s [[.reg A_FIO_FLT], raises]) ∧
  (∀ (s : State) (n : Fin 32) (level : Bool), Writes (.diRawEdge n level) s [[.reg A_FIO_CNT, .reg A_FIO_IN, .fio],
   raises]) ∧
  (∀ (s : State) (n : Fin 32), Writes (.diFilteredEdge n) s [[.reg A_FIO_IN, .fio], raises]) ∧
  (∀ (s : State) (t : Fin 6) (k : BitVec 10), Writes (.evrAck t k) s [regs A_EVR_CNT 6, regs2 A_EVR_PEND 6 12]) ∧
  (∀ (s : State) (t : Fin 6) (j : Fin 12) (mask : BitVec 64), Writes (.evrPendClear t j mask) s [[.reg (A_EVR_CNT t)], regs (A_EVR_PEND t) 12]) ∧
  (∀ (s : State), Writes .journalEntryWrite s [[.reg A_JNL_PLOSS, .per], journals, bytes (0x20000000 + 64 * (s.dev.per.jnlNum % 2 ^ 32 % 32768)) 64]) ∧
  (∀ (s : State) (o : Origin) (k : BitVec 8), Writes (.jnlFwcmd o k) s [journals]) ∧
  (∀ (s : State) (n : Fin 14), Writes (.highVoltageHalfPowerUp n) s [[.gch n]])

/-- Every command of the converter and position commands completes from every state, and every part of the state outside
the list given for it is unchanged: each other register, each record beside the registers, each byte of memory, flash
and tag outside the bytes stored, the queue, the time. Where a record chooses a register, the premise is that it names
one that exists (numbersOk). Constructors that complete (exec answers a next state): adcRunStart, adcRunStop,
sampleRecord, slotTrigger, slotFirstAperture, slotComplete, slotResultPublish, urgentRequest, urgentSlotComplete,
refSelect, referenceSettled, referenceOutOfWindow, adcCalStart, calibrationEnd, adcTrimStart, adcTrimDone,
auxScanStart, auxEntryDone, excitationMark, resolverPairTimeout, encoderEdge, encoderMeasurement, sscStartBitTimeout,
index, vencOvercurrent, serialFrameStart, serialFrameComplete, posFaultClear, openToSls, openTimeout, slsLowSpeed,
disagree, standstillCheckEnd, satPulseEnd, pulseDecayEnd. -/
def Obligations.MeasurementFrames : Prop :=
  (∀ (s : State) (n : Fin 8), Writes (.adcRunStart n) s [[.reg (A_ADC_CNT2 n), .reg (A_ADC_CTL n), .reg (A_ADC_STAT n),
   .reg A_SYS_CLKSTAT, .adc n]]) ∧
  (∀ (s : State) (n : Fin 8), Writes (.adcRunStop n) s [[.reg (A_ADC_CNT n), .reg (A_ADC_CNT2 n), .reg (A_ADC_CTL n), .reg (A_ADC_STAT n),
   .reg A_SYS_CLKSTAT, .adc n], raises]) ∧
  (∀ (s : State) (n : Fin 8) (v : Conv), s.numbersOk = true →
   Writes (.sampleRecord n v) s [[.reg (A_ADC_CNT n), .reg (A_ADC_CNT2 n), .reg (A_ADC_LAST n), .reg (A_ADC_STAT n),
   .adc n], raises, regs A_PWM_CNT 3, all .car 3, all .clu 2, all .gch 14]) ∧
  (∀ (s : State) (n : Fin 8) (k : Fin 4), Writes (.slotTrigger n k) s [[.adc n]]) ∧
  (∀ (s : State) (n : Fin 8) (clocks : BitVec 32) (v : Conv), s.numbersOk = true →
   Writes (.slotFirstAperture n clocks v) s [[.reg (A_ADC_CNT n), .reg (A_ADC_CNT2 n), .reg (A_ADC_LAST n), .reg (A_ADC_STAT n),
   .adc n], raises, regs A_PWM_CNT 3, all .car 3, all .clu 2, all .gch 14]) ∧
  (∀ (s : State) (n : Fin 8), Writes (.slotComplete n) s [[.reg (A_ADC_STAT n), .adc n], raises]) ∧
  (∀ (s : State) (n : Fin 8), s.numbersOk = true →
   Writes (.slotResultPublish n) s [[.adc n], safeStates, journals, regs (A_ADC_RES n) 64, regs A_CLU_CNT 2,
   regs A_POS_CNT 4, regs A_POS_ELEC 4, regs A_POS_FLT 4, regs A_POS_POS 4, regs A_POS_SPD 4, regs A_POS_TST 4,
   all .clu 2]) ∧
  (∀ (s : State) (n : Fin 8) (count : BitVec 8) (i : BitVec 4), Writes (.urgentRequest n count i) s [[.reg (A_ADC_CNT n), .reg (A_ADC_STAT n),
   .adc n], raises]) ∧
  (∀ (s : State) (n : Fin 8), s.numbersOk = true →
   Writes (.urgentSlotComplete n) s [[.reg (A_ADC_STAT n), .reg (A_ADC_URGRES n), .adc n], raises, regs A_CLU_CNT 2,
   regs A_CLU_CNT2 2, all .clu 2]) ∧
  (∀ (s : State) (sel : BitVec 2), Writes (.refSelect sel) s [[.reg A_ADC_CALSTAT, .reg A_ADC_CCNT,
   .reg A_ADC_REFCFG, .reg A_ADC_REFSTAT, .refOut], raises, regs A_ADC_STAT 8]) ∧
  (∀ (s : State) (mv : BitVec 16), Writes (.referenceSettled mv) s [[.reg A_ADC_CALSTAT, .reg A_ADC_REFSTAT,
   .reg A_SYS_CLKSTAT, .refOut], raises, regs A_ADC_STAT 8]) ∧
  (∀ (s : State) (mv : BitVec 16), Writes (.referenceOutOfWindow mv) s [[.reg A_ADC_REFSTAT, .refOut], safeStates,
   journals, regs A_POS_TST 4, all .clu 2]) ∧
  (∀ (s : State) (mask : BitVec 8), Writes (.adcCalStart mask) s [[.reg A_ADC_CALSTAT, .reg A_ADC_CCNT,
   .reg A_SYS_CLKSTAT], regs A_ADC_STAT 8]) ∧
  (∀ (s : State) (n : Fin 8) (w : List (BitVec 32)) (off : BitVec 32) (gain : BitVec 32), Writes (.calibrationEnd n w off gain) s [[.reg (A_ADC_CALGAIN n), .reg (A_ADC_CALOFF n), .reg A_ADC_CALSTAT, .reg A_ADC_REFSTAT, .reg A_SYS_IMGSTAT], safeStates, journals, regs (A_ADC_CALW n) 14,
   regs A_ADC_STAT 8, regs A_POS_TST 4, all .adc 8, all .clu 2]) ∧
  (∀ (s : State) (o : Origin), Writes (.adcTrimStart o) s [[.reg A_ADC_CALCTL, .reg A_ADC_CALSTAT, .reg A_HEM_CNT,
   .reg A_SYS_CLKSTAT, .thm]]) ∧
  (∀ (s : State) (code : BitVec 16), s.numbersOk = true → Writes (.adcTrimDone code) s [[.reg A_ADC_CALCTL,
   .reg A_ADC_CALSTAT, .reg A_SYS_IMGSTAT, .per], demands, journals, regs A_POS_TST 4, all .clu 2]) ∧
  (∀ (s : State) (m : Fin 2), Writes (.auxScanStart m) s [[.reg A_AUX_CNT, .aux m]]) ∧
  (∀ (s : State) (m : Fin 2) (x : List (BitVec 32)), s.numbersOk = true →
   Writes (.auxEntryDone m x) s [[.reg A_AUX_CNT, .reg A_SYS_CLKSTAT, .aux m, .hem], journals, regs (A_AUX_RES m) 32,
   regs A_STP_FLT 12, regs A_STP_OFS 12, regs A_STP_STAT 12, regs A_STP_VEL 12, all .axis 12]) ∧
  (∀ (s : State) (pos : Bool), Writes (.excitationMark pos) s [all .adc 8, all .pos 4]) ∧
  (∀ (s : State) (p : Fin 2), Writes (.resolverPairTimeout p) s [[.reg (A_POS_CNT p), .reg (A_POS_FLT p), .reg (A_POS_TST p)],
   safeStates, journals, regs A_POS_ELEC 4, regs A_POS_POS 4, regs A_POS_SPD 4, all .clu 2]) ∧
  (∀ (s : State) (p : Fin 4) (a : Bool) (b : Bool), Writes (.encoderEdge p a b) s [[.reg (A_POS_CNT p), .reg (A_POS_FLT p), .reg (A_POS_TST p)],
   safeStates, journals, regs A_POS_ELEC 4, regs A_POS_POS 4, regs A_POS_SPD 4, all .clu 2]) ∧
  (∀ (s : State) (p : Fin 4), ∀ i ∈ [Instr.encoderMeasurement p, Instr.sscStartBitTimeout p], Writes i s [[.reg (A_POS_CNT p), .reg (A_POS_FLT p), .reg (A_POS_TST p)],
   safeStates, journals, regs A_POS_ELEC 4, regs A_POS_POS 4, regs A_POS_SPD 4, all .clu 2]) ∧
  (∀ (s : State) (p : Fin 4), ∀ i ∈ [Instr.index p, Instr.vencOvercurrent p], Writes i s [[.reg (A_POS_FLT p), .reg (A_POS_TST p)],
   safeStates, journals, regs A_POS_ELEC 4, regs A_POS_POS 4, regs A_POS_SPD 4, all .clu 2]) ∧
  (∀ (s : State) (p : Fin 4), Writes (.serialFrameStart p) s [[.pos p]]) ∧
  (∀ (s : State) (p : Fin 4) (idle : Bool) (ef : Bool) (wf : Bool) (data : BitVec 40) (crc : BitVec 8), Writes (.serialFrameComplete p idle ef wf data crc) s [[.reg (A_POS_CNT p), .reg (A_POS_FLT p), .reg (A_POS_TST p)],
   safeStates, journals, regs A_POS_ELEC 4, regs A_POS_POS 4, regs A_POS_SPD 4, all .clu 2]) ∧
  (∀ (s : State) (p : Fin 4) (mask : BitVec 13), Writes (.posFaultClear p mask) s [[.reg (A_POS_FLT p), .reg (A_POS_STAT p),
   .pos p]]) ∧
  (∀ (s : State) (p : Fin 4), Writes (.openToSls p) s [[.reg (A_POS_ELEC p), .reg (A_POS_POS p), .reg (A_POS_SPD p), .reg (A_POS_STAT p),
   .pos p], raises, regs A_POS_TST 4]) ∧
  (∀ (s : State) (p : Fin 4), ∀ i ∈ [Instr.openTimeout p, Instr.slsLowSpeed p], Writes i s [safeStates, journals,
   regs A_POS_TST 4, all .clu 2]) ∧
  (∀ (s : State) (p : Fin 4), Writes (.disagree p) s [[.reg (A_POS_FLT p), .pos p], raises]) ∧
  (∀ (s : State) (p : Fin 4) (lo : BitVec 32) (hi : BitVec 32), Writes (.standstillCheckEnd p lo hi) s [safeStates,
   journals, regs A_CLU_CNT 2, regs A_POS_TST 4, all .clu 2]) ∧
  (∀ (s : State) (p : Fin 4) (iu : BitVec 32) (iv : BitVec 32) (iw : BitVec 32) (tEnd : BitVec 32), s.numbersOk = true →
   Writes (.satPulseEnd p iu iv iw tEnd) s [[.pos p], regs A_CLU_CNT 2, regs (A_POS_PEAK p) 14, all .car 3]) ∧
  (∀ (s : State) (p : Fin 4), Writes (.pulseDecayEnd p) s [[.m0], safeStates, journals, regs A_CLU_CNT 2,
   regs A_POS_ELEC 4, regs A_POS_POS 4, regs A_POS_SPD 4, regs A_POS_TST 4, all .clu 2])

/-- Every command of the current-loop, carrier and gate-channel commands completes from every state, and every part of the
state outside the list given for it is unchanged: each other register, each record beside the registers, each byte of
memory, flash and tag outside the bytes stored, the queue, the time. Where a record chooses a register, the premise is
that it names one that exists (numbersOk). Constructors that complete (exec answers a next state): cluEnable,
cluDisable, offsetMeasurementEnd, currentLoopUpdate, vectorMeasurementRequest, starved, carrierMark, switchEdge,
deadTimeEnd, onTimeLimit, brakeRequestSet, brakeRequestClear, brakeOnTimeEnd, brakeOffTimeEnd, brakePulseMissing,
windingDischargeEngage, coffOnPhaseEnd, coffOffTimeEnd, windingDischargeEnd, debugHalt, debugResume, gateEdge,
edgeLearn, shortCircuit, desat, overcurrent, ntcTrip, ontHv, softoffEnd, gateSupplyFault, gateSupplyRecovered,
vposLost, mismatch, ntcReading, linkLoss, linkStatusMissing, ascCommand, ascRelease, gateEnFall, gateEnDisable,
gateEnRise, autonomousDischarge, disTmaxElapsed. -/
def Obligations.DriveFrames : Prop :=
  (∀ (s : State) (g : Fin 2), Writes (.cluEnable g) s [safeStates, journals, regs A_ADC_CNT 8, regs A_ADC_STAT 8,
   regs A_CLU_CNT2 2, regs A_CLU_CTL 2, regs A_CLU_IDFW 2, regs A_HEM_VIOL 2, regs A_POS_ELEC 4, regs A_POS_POS 4,
   regs A_POS_SPD 4, regs A_POS_TST 4, all .adc 8, all .clu 2]) ∧
  (∀ (s : State) (g : Fin 2), Writes (.cluDisable g) s [[.reg A_GCH_ASC, .reg A_SYS_CLKSTAT], raises,
   regs A_CLU_CTL 2, regs A_CLU_STAT 2, regs A_GCH_STAT 14, regs A_POS_ELEC 4, regs A_POS_POS 4, regs A_POS_SPD 4,
   regs A_POS_STAT 4, regs A_POS_STRES 4, regs A_POS_TST 4, regs A_PWM_STAT 3, all .car 3, all .clu 2, all .gch 14,
   all .pos 4]) ∧
  (∀ (s : State) (g : Fin 2), Writes (.offsetMeasurementEnd g) s [[.reg A_GCH_ASC, .reg A_SYS_CLKSTAT], raises,
   regs A_CLU_CTL 2, regs A_CLU_FLT 2, regs2 A_CLU_SOFF 2 5, regs A_CLU_STAT 2, regs A_GCH_STAT 14,
   regs A_POS_ELEC 4, regs A_POS_POS 4, regs A_POS_SPD 4, regs A_POS_STAT 4, regs A_POS_STRES 4, regs A_POS_TST 4,
   regs A_PWM_STAT 3, all .car 3, all .clu 2, all .gch 14, all .pos 4]) ∧
  (∀ (s : State) (g : Fin 2) (tm : BitVec 64) (bad : BitVec 2), Writes (.currentLoopUpdate g tm bad) s [safeStates,
   journals, regs A_CLU_CNT 2, regs A_CLU_CNT2 2, regs A_CLU_FLT 2, regs A_CLU_ID 2, regs A_CLU_IDFW 2,
   regs A_CLU_IDREF 2, regs2 A_CLU_IPH 2 3, regs A_CLU_IQ 2, regs A_CLU_IQREF 2, regs2 A_CLU_IREC 2 3,
   regs A_CLU_UDC 2, regs A_CLU_VD 2, regs A_CLU_VQ 2, regs A_HEM_VIOL 2, regs A_POS_TST 4, all .clu 2]) ∧
  (∀ (s : State) (g : Fin 2) (second : Bool), Writes (.vectorMeasurementRequest g second) s [[.clu g], raises,
   regs A_ADC_CNT 8, regs A_ADC_STAT 8, all .adc 8]) ∧
  (∀ (s : State) (g : Fin 2), Writes (.starved g) s [[.reg (A_CLU_FLT g), .clu g], raises]) ∧
  (∀ (s : State) (c : Fin 3) (slack : BitVec 16), Writes (.carrierMark c slack) s [[.reg (A_PWM_CNT c), .reg (A_PWM_CNT2 c), .car c], raises, regs (A_PWM_CMP c) 3,
   regs A_PWM_STAT 3, all .adc 8, all .gch 14, all .pos 4]) ∧
  (∀ (s : State) (c : Fin 2) (x : Fin 3), ∀ i ∈ [Instr.switchEdge c x, Instr.deadTimeEnd c x], Writes i s [[.car c],
   all .gch 14]) ∧
  (∀ (s : State) (c : Fin 3) (k : Fin 6), Writes (.onTimeLimit c k) s [[.reg (A_PWM_CNT c), .reg (A_PWM_FLT c),
   .car c], journals, all .gch 14]) ∧
  (∀ (s : State) (v1 : BitVec 16) (v2 : BitVec 16), Writes (.brakeRequestSet v1 v2) s [[.reg A_GCH_BRK], journals,
   regs A_GCH_STAT 14, regs A_PWM_STAT 3, all .car 3, all .gch 14]) ∧
  (∀ (s : State) (v1 : BitVec 16) (v2 : BitVec 16), Writes (.brakeRequestClear v1 v2) s [[.reg A_GCH_BRK],
   regs A_GCH_STAT 14, all .gch 14]) ∧
  (∀ (s : State), Writes .brakeOnTimeEnd s [regs A_GCH_STAT 14, all .car 3, all .gch 14]) ∧
  (∀ (s : State), Writes .brakeOffTimeEnd s [raises, regs A_GCH_STAT 14, regs A_PWM_STAT 3, all .car 3, all .gch 14]) ∧
  (∀ (s : State), Writes .brakePulseMissing s [[.reg A_GCH_BRK], journals, regs A_GCH_STAT 14, regs A_PWM_STAT 3,
   all .car 3, all .gch 14]) ∧
  (∀ (s : State) (g : Fin 2), Writes (.windingDischargeEngage g) s [[.reg A_SYS_CLKSTAT], regs A_GCH_STAT 14,
   regs A_PWM_STAT 3, all .car 3, all .gch 14]) ∧
  (∀ (s : State) (c : Fin 2), ∀ i ∈ [Instr.coffOnPhaseEnd c, Instr.coffOffTimeEnd c], Writes i s [[.car c],
   all .gch 14]) ∧
  (∀ (s : State), s.numbersOk = true → Writes .windingDischargeEnd s [[.reg A_GCH_DIS, .thm], raises,
   regs A_GCH_STAT 14, regs A_PWM_STAT 3, all .car 3, all .gch 14]) ∧
  (∀ (s : State) (c : Fin 4), Writes (.debugHalt c) s [[.reg A_DBG_STAT, .reg A_GCH_BRK, .reg A_PWM_FRZ], journals,
   regs A_GCH_STAT 14, regs A_PWM_STAT 3, all .car 3, all .gch 14]) ∧
  (∀ (s : State) (c : Fin 4), Writes (.debugResume c) s [[.reg A_DBG_STAT, .reg A_GCH_BRK, .reg A_PWM_FRZ],
   safeStates, journals, regs A_POS_TST 4, all .clu 2]) ∧
  (∀ (s : State) (n : Fin 14), Writes (.gateEdge n) s [regs A_GCH_STAT 14, all .gch 14]) ∧
  (∀ (s : State) (n : Fin 14) (on : Bool) (ts : Option (BitVec 10)) (code : BitVec 10) (vdsOff : BitVec 16), Writes (.edgeLearn n on ts code vdsOff) s [[.reg (A_GCH_CNT n), .reg (A_GCH_MEAS n), .reg (A_GCH_SEGOFF n), .reg (A_GCH_SEGON n), .reg (A_GCH_STAT n),
   .gch n], raises]) ∧
  (∀ (s : State) (n : Fin 14), ∀ i ∈ [Instr.shortCircuit n, Instr.desat n, Instr.overcurrent n, Instr.ntcTrip n,
   Instr.ontHv n], Writes i s [safeStates, journals, regs A_GCH_FLT 14, regs A_GCH_FSTAMP 14, regs A_POS_TST 4,
   all .clu 2]) ∧
  (∀ (s : State) (n : Fin 14), Writes (.softoffEnd n) s [[.reg (A_GCH_STAT n), .gch n]]) ∧
  (∀ (s : State) (n : Fin 14) (which : Fin 3) (vpos : BitVec 8) (vneg : BitVec 8), Writes (.gateSupplyFault n which vpos vneg) s [safeStates,
   journals, regs A_GCH_FLT 14, regs A_GCH_FSTAMP 14, regs A_POS_TST 4, all .clu 2]) ∧
  (∀ (s : State) (n : Fin 14) (vpos : BitVec 8) (vneg : BitVec 8), Writes (.gateSupplyRecovered n vpos vneg) s [[.reg (A_GCH_FLT n), .reg (A_GCH_STAT n),
   .gch n]]) ∧
  (∀ (s : State) (n : Fin 14), Writes (.vposLost n) s [[.reg A_GCH_DIS, .reg (A_GCH_STAT n), .gch n, .thm], raises]) ∧
  (∀ (s : State) (n : Fin 14) (high : Bool), Writes (.mismatch n high) s [safeStates, journals, regs A_GCH_FLT 14,
   regs A_GCH_FSTAMP 14, regs A_POS_TST 4, all .clu 2]) ∧
  (∀ (s : State) (n : Fin 14) (code : BitVec 8), Writes (.ntcReading n code) s [[.reg (A_GCH_DS n), .reg (A_GCH_FLT n), .reg (A_GCH_STAT n),
   .gch n]]) ∧
  (∀ (s : State) (n : Fin 14), Writes (.linkLoss n) s [[.reg A_GCH_ASC, .reg A_GCH_DIS, .thm], journals,
   regs A_GCH_FLT 14, regs A_GCH_FSTAMP 14, regs A_GCH_STAT 14, all .gch 14]) ∧
  (∀ (s : State) (n : Fin 14), s.numbersOk = true → Writes (.linkStatusMissing n) s [[.reg A_SYS_GLINK], demands,
   journals, regs A_POS_TST 4, all .clu 2]) ∧
  (∀ (s : State) (g : Fin 2), Writes (.ascCommand g) s [safeStates, journals, regs A_POS_TST 4, all .clu 2]) ∧
  (∀ (s : State) (g : Fin 2), Writes (.ascRelease g) s [[.reg A_GCH_ASC], regs A_GCH_STAT 14, all .gch 14]) ∧
  (∀ (s : State), Writes .gateEnFall s [[.reg A_GCH_GEN, .thm]]) ∧
  (∀ (s : State), s.numbersOk = true → Writes .gateEnDisable s [[.reg A_GCH_GEN], demands, journals,
   regs A_POS_TST 4, all .clu 2]) ∧
  (∀ (s : State) (lowNs : BitVec 32) (stuck : BitVec 14), s.numbersOk = true →
   Writes (.gateEnRise lowNs stuck) s [[.reg A_GCH_GEN, .free], demands, journals, regs A_GCH_FLT 14,
   regs A_POS_TST 4, all .clu 2]) ∧
  (∀ (s : State), s.numbersOk = true → Writes .autonomousDischarge s [demands, journals, regs A_POS_TST 4, all .clu 2]) ∧
  (∀ (s : State), Writes .disTmaxElapsed s [[.reg A_GCH_DIS, .thm], raises, regs A_GCH_STAT 14, all .gch 14])

/-- Every command of the control engine, loop assist and Spool commands completes from every state, and every part of the
state outside the list given for it is unchanged: each other register, each record beside the registers, each byte of
memory, flash and tag outside the bytes stored, the queue, the time. Where a record chooses a register, the premise is
that it names one that exists (numbersOk). Constructors that complete (exec answers a next state): groupTrigger,
triggerTimeout, opNop, opJge, opMov, opAdd, opSub, opNeg, opAbs, opMin, opMax, opClamp, opSel, opWrap, opAccrd, opMul,
opMac, opMsu, opTab, opSincos, opAtan2, opMag, opBiq, opRamp, opPi, opAccld, opOut, opDiv, opSqrt, opIn, opEnd,
operationResult, blockAccept, epochDeadline, collectorSwap, sliceRun, sliceEccError, tuneCommit, laRdw, laRdout,
laRdage, laRdseq, laRdsst, laSqrt, laSin, laCos, laTstat, laDiv, laAtan2, laMag, laTset, laTcommit, laRun,
illegalInstruction, commitBufferSend, squash, assistResultReturn, arm, stop, force, spoolRecordWrite,
spoolMemoryWrite. -/
def Obligations.EngineFrames : Prop :=
  (∀ (s : State) (g : Fin 8), s.numbersOk = true →
   Writes (.groupTrigger g) s [[.reg (A_CEN_GCNT g), .reg (A_CEN_GSTAT g), .reg A_CEN_TCTL, .reg A_SYS_CLKSTAT],
   raises, regs A_CEN_LACNT 4, regs A_CEN_LASTAT 4, regs A_CEN_SCNT 64, regs A_CEN_SSTAT 64, regs2 A_CEN_ST 64 256,
   all .port 5, all .slc 64]) ∧
  (∀ (s : State) (g : Fin 8), Writes (.triggerTimeout g) s [[.reg A_HEM_CNT, .reg A_HEM_GUARD], safeStates, journals,
   regs A_CEN_AGE 64, regs A_CEN_GCNT 8, regs A_POS_ELEC 4, regs A_POS_POS 4, regs A_POS_SPD 4, regs A_POS_TST 4,
   regs A_STP_STAT 12, regs A_STP_VEL 12, all .axis 12, all .clu 2]) ∧
  (∀ (s : State) (n : Fin 64), ∀ i ∈ [Instr.opNop n, Instr.opJge n], Writes i s [[.reg (A_CEN_SSTAT n)]]) ∧
  (∀ (s : State) (n : Fin 64), ∀ i ∈ [Instr.opMov n, Instr.opAdd n, Instr.opSub n, Instr.opNeg n, Instr.opAbs n, Instr.opMin n, Instr.opMax n, Instr.opClamp n, Instr.opSel n, Instr.opWrap n, Instr.opAccrd n], Writes i s [[.reg (A_CEN_SCNT n), .reg (A_CEN_SSTAT n), .reg (A_CEN_ST n (s.dest n))]]) ∧
  (∀ (s : State) (n : Fin 64), ∀ i ∈ [Instr.opMul n, Instr.opMac n, Instr.opMsu n, Instr.opTab n, Instr.opSincos n, Instr.opAtan2 n, Instr.opMag n, Instr.opBiq n, Instr.opRamp n, Instr.opPi n], Writes i s [[.reg (A_CEN_SCNT n), .reg (A_CEN_SSTAT n),
   .slc n]]) ∧
  (∀ (s : State) (n : Fin 64), ∀ i ∈ [Instr.opAccld n, Instr.opOut n], Writes i s [[.reg (A_CEN_SSTAT n), .slc n]]) ∧
  (∀ (s : State) (n : Fin 64), ∀ i ∈ [Instr.opDiv n, Instr.opSqrt n], Writes i s [[.reg (A_CEN_SCNT n), .reg (A_CEN_SCNT2 n), .reg (A_CEN_SSTAT n),
   .slc n], raises]) ∧
  (∀ (s : State) (n : Fin 64), Writes (.opIn n) s [[.reg (A_CEN_SCNT n), .reg (A_CEN_SSTAT n), .free, .slc n]]) ∧
  (∀ (s : State) (n : Fin 64) (cyc : BitVec 16), Writes (.opEnd n cyc) s [[.reg (A_CEN_SCNT n), .reg (A_CEN_SSTAT n),
   .reg A_SYS_CLKSTAT, .slc n], raises]) ∧
  (∀ (s : State) (n : Fin 64) (k : Fin 64), s.numbersOk = true →
   Writes (.operationResult n k) s [[.reg (A_CEN_SCNT3 n)], raises, regs A_CEN_SCNT 64, regs A_CEN_SCNT2 64, regs A_CEN_SSTAT 64, all .port 5, all .slc 64, (s.results n k).map fun w => .reg (A_CEN_ST n w)]) ∧
  (∀ (s : State), Writes .blockAccept s [all .egr 8, all .slc 64]) ∧
  (∀ (s : State) (g : Fin 8), Writes (.epochDeadline g) s [[.reg (A_CEN_GCNT g), .egr g], regs A_CEN_SSTAT 64]) ∧
  (∀ (s : State) (g : Fin 8), s.numbersOk = true →
   Writes (.collectorSwap g) s [[.reg (A_CEN_GSTAMP g), .reg (A_CEN_GSTAT g), .reg A_HEM_CNT, .reg A_HEM_GUARD],
   safeStates, journals, regs A_CEN_AGE 64, regs A_CEN_GCNT 8, regs A_CEN_OUT 512, regs A_CEN_SCNT 64,
   regs A_POS_ELEC 4, regs A_POS_POS 4, regs A_POS_SPD 4, regs A_POS_TST 4, regs A_STP_CNT2 12, regs A_STP_CTL 12,
   regs A_STP_STAT 12, regs A_STP_VEL 12, all .axis 12, all .clu 2]) ∧
  (∀ (s : State) (o : Origin) (n : Fin 64) (run : Bool), Writes (.sliceRun o n run) s [[.reg (A_CEN_SCFG n), .reg (A_CEN_SSTAT n),
   .reg A_HEM_CNT, .reg A_SYS_CLKSTAT, .slc n]]) ∧
  (∀ (s : State) (n : Fin 64 × Bool), Writes (.sliceEccError n) s [[.reg (A_CEN_SCNT2 n.1), .reg (A_CEN_SSTAT n.1),
   .reg A_SYS_CLKSTAT, .slc n.1], journals]) ∧
  (∀ (s : State) (count : BitVec 4) (restart : Bool), s.numbersOk = true →
   Writes (.tuneCommit count restart) s [[.reg A_CEN_CCNT, .reg A_CEN_TCTL], regs A_CEN_LACNT 4, regs A_CEN_LASTAT 4,
   regs A_CEN_SSTAT 64, regs2 A_CEN_ST 64 256, all .port 5]) ∧
  (∀ (s : State) (c : Fin 4) (rd : BitVec 5) (v1 : BitVec 64), ∀ i ∈ [Instr.laRdw c rd v1, Instr.laRdout c rd v1, Instr.laRdage c rd v1, Instr.laRdseq c rd v1, Instr.laRdsst c rd v1, Instr.laSqrt c rd v1, Instr.laSin c rd v1, Instr.laCos c rd v1], Writes i s [[.reg (A_CEN_LACNT c),
   .reg A_SYS_CLKSTAT], raises, regs A_CEN_SCNT 64, regs A_CEN_SCNT2 64, regs A_CEN_SSTAT 64, all .port 5,
   all .slc 64]) ∧
  (∀ (s : State) (c : Fin 4) (rd : BitVec 5), Writes (.laTstat c rd) s [[.reg (A_CEN_LACNT c), .reg A_SYS_CLKSTAT],
   raises, regs A_CEN_SCNT 64, regs A_CEN_SCNT2 64, regs A_CEN_SSTAT 64, all .port 5, all .slc 64]) ∧
  (∀ (s : State) (c : Fin 4) (rd : BitVec 5) (v1 : BitVec 64) (v2 : BitVec 64), ∀ i ∈ [Instr.laDiv c rd v1 v2, Instr.laAtan2 c rd v1 v2, Instr.laMag c rd v1 v2], Writes i s [[.reg (A_CEN_LACNT c),
   .reg A_SYS_CLKSTAT], raises, regs A_CEN_SCNT 64, regs A_CEN_SCNT2 64, regs A_CEN_SSTAT 64, all .port 5,
   all .slc 64]) ∧
  (∀ (s : State) (c : Fin 4) (v1 : BitVec 64) (v2 : BitVec 64), Writes (.laTset c v1 v2) s [[.reg (A_CEN_LACNT c),
   .reg A_SYS_CLKSTAT], raises, regs A_CEN_SCNT 64, regs A_CEN_SCNT2 64, regs A_CEN_SSTAT 64, all .port 5,
   all .slc 64]) ∧
  (∀ (s : State) (c : Fin 4) (v1 : BitVec 64), ∀ i ∈ [Instr.laTcommit c v1, Instr.laRun c v1], Writes i s [[.reg (A_CEN_LACNT c),
   .reg A_SYS_CLKSTAT], raises, regs A_CEN_SCNT 64, regs A_CEN_SCNT2 64, regs A_CEN_SSTAT 64, all .port 5,
   all .slc 64]) ∧
  (∀ (s : State) (c : Fin 4) (w : BitVec 32), Writes (.illegalInstruction c w) s [[.reg (A_CEN_LACNT c),
   .reg A_SYS_CLKSTAT, .port c], raises, regs A_CEN_SCNT 64, regs A_CEN_SCNT2 64, regs A_CEN_SSTAT 64, all .slc 64]) ∧
  (∀ (s : State) (c : Fin 4), s.numbersOk = true →
   Writes (.commitBufferSend c) s [[.reg A_CEN_CCNT, .reg (A_CEN_LACNT c), .reg (A_CEN_LASTAT c), .reg A_CEN_TCTL,
   .reg A_SYS_CLKSTAT], raises, regs A_CEN_SCFG 64, regs A_CEN_SCNT 64, regs A_CEN_SCNT2 64, regs A_CEN_SSTAT 64,
   regs2 A_CEN_ST 64 256, all .port 5, all .slc 64]) ∧
  (∀ (s : State) (c : Fin 4) (what : Squash), Writes (.squash c what) s [[.reg (A_CEN_LACNT c), .reg A_SYS_CLKSTAT],
   raises, regs A_CEN_SCNT 64, regs A_CEN_SCNT2 64, regs A_CEN_SCNT3 64, regs A_CEN_SSTAT 64, all .port 5,
   all .slc 64]) ∧
  (∀ (s : State) (c : Fin 4) (j : Fin 2), Writes (.assistResultReturn c j) s [[.reg (A_CEN_LACNT c),
   .reg A_SYS_CLKSTAT], raises, regs A_CEN_SCNT 64, regs A_CEN_SCNT2 64, regs A_CEN_SSTAT 64, all .port 5,
   all .slc 64]) ∧
  (∀ (s : State), Writes .arm s [[.reg A_SPL_CNT, .reg A_SPL_STAT, .splTurn], regs A_SPL_CHCNT 16,
   regs A_SPL_CHST 16, all .spool 16]) ∧
  (∀ (s : State), Writes .stop s [[.reg A_SPL_STAT]]) ∧
  (∀ (s : State), Writes .force s [[.reg A_SPL_STAT, .reg A_SPL_TSTAMP], regs A_SPL_CHST 16, all .spool 16]) ∧
  (∀ (s : State), Writes .spoolRecordWrite s [[.reg A_SPL_CNT, .reg A_SPL_STAT, .reg A_SPL_TSTAMP, .splTurn], regs A_SPL_CHCNT 16, regs A_SPL_CHST 16, all .spool 16, (match s.dev.splNext with | none => [] | some c => bytes (s.dev.splAddr c) (8 * ((s.dev.sch c).queue.headD []).length))]) ∧
  (∀ (s : State) (a : BitVec 40) (w : Width) (v : BitVec 64), Writes (.spoolMemoryWrite a w v) s [[.reg A_SPL_CNT],
   bytes a.toNat w.bytes])

/-- Every command of the stepper and Hem commands completes from every state, and every part of the state outside the list
given for it is unchanged: each other register, each record beside the registers, each byte of memory, flash and tag
outside the bytes stored, the queue, the time. Where a record chooses a register, the premise is that it names one
that exists (numbersOk). Constructors that complete (exec answers a next state): axisEnable, axisDisable, axisStop,
homeGo, positionTargetWrite, velocityTargetWrite, positionWrite, motionTick, holdCurrentTimer, stepEdge,
chopperUpperReached, chopperLowerReached, chopperTailEnd, onPhaseLimit, limitSwitchEdge, homeSwitchEdge,
homeDebounceExpire, coilShort, vstpFault, vstpRecovered, mismatchDetected, darnRestartComplete, checkpoint, forced,
privateStore, watchdogService, split, ownerReq, splitComplete, safeAck, handoverTimeout, rejoin, rejoinTimeout,
rejoinComplete, splitCoreParity, splitCoreSelfTestDone, deratingUpdate, hemSpeedTrip, hemUdcTrip, hold. -/
def Obligations.StepperAndHemFrames : Prop :=
  (∀ (s : State) (n : Fin 12), Writes (.axisEnable n) s [[.reg (A_STP_CNT2 n), .reg (A_STP_CTL n), .reg (A_STP_STAT n),
   .reg A_SYS_CLKSTAT, .axis n], raises]) ∧
  (∀ (s : State) (n : Fin 12), Writes (.axisDisable n) s [[.reg (A_STP_CTL n), .reg (A_STP_FLT n), .reg (A_STP_STAT n), .reg (A_STP_VEL n),
   .reg A_SYS_CLKSTAT, .axis n], raises]) ∧
  (∀ (s : State) (n : Fin 12), Writes (.axisStop n) s [[.reg (A_STP_FLT n), .reg (A_STP_STAT n), .reg A_SYS_CLKSTAT,
   .axis n], raises]) ∧
  (∀ (s : State) (n : Fin 12), Writes (.homeGo n) s [[.reg (A_STP_CNT2 n), .reg (A_STP_STAT n), .reg A_SYS_CLKSTAT],
   raises]) ∧
  (∀ (s : State) (n : Fin 12) (v : BitVec 64), Writes (.positionTargetWrite n v) s [[.reg (A_STP_CNT2 n), .reg (A_STP_STAT n), .reg (A_STP_TGT n),
   .reg A_SYS_CLKSTAT, .axis n], raises]) ∧
  (∀ (s : State) (n : Fin 12) (v : BitVec 64), Writes (.velocityTargetWrite n v) s [[.reg (A_STP_CNT2 n), .reg (A_STP_STAT n), .reg (A_STP_VTGT n),
   .reg A_SYS_CLKSTAT, .axis n], raises]) ∧
  (∀ (s : State) (n : Fin 12) (v : BitVec 64), Writes (.positionWrite n v) s [[.reg (A_STP_CNT n), .reg (A_STP_POS n), .reg (A_STP_STAT n), .reg (A_STP_VEL n),
   .axis n]]) ∧
  (∀ (s : State) (n : Fin 12) (low : BitVec 2), Writes (.motionTick n low) s [[.reg (A_STP_CNT2 n), .reg (A_STP_CTL n), .reg (A_STP_EDEC n), .reg (A_STP_FLT n), .reg (A_STP_JMAX n), .reg (A_STP_LOAD n), .reg (A_STP_POS n), .reg (A_STP_STAT n), .reg (A_STP_VEL n),
   .reg A_SYS_CLKSTAT, .axis n, .free], journals]) ∧
  (∀ (s : State) (n : Fin 12), Writes (.holdCurrentTimer n) s [[.reg (A_STP_CNT2 n), .reg (A_STP_STAT n)], raises]) ∧
  (∀ (s : State) (n : Fin 12) (dir : Bool), Writes (.stepEdge n dir) s [[.reg (A_STP_CNT2 n), .reg (A_STP_FLT n), .reg (A_STP_STAT n),
   .reg A_SYS_CLKSTAT, .axis n], raises]) ∧
  (∀ (s : State) (n : Fin 12) (b : Bool) (ns : BitVec 32) (code : BitVec 10 × Bool), Writes (.chopperUpperReached n b ns code) s [[.reg (A_STP_CNT2 n),
   .axis n]]) ∧
  (∀ (s : State) (n : Fin 12) (b : Bool) (ns : BitVec 32) (code : BitVec 10) (low : Bool), Writes (.chopperLowerReached n b ns code low) s [[.reg (A_STP_CNT n), .reg (A_STP_CNT2 n),
   .axis n]]) ∧
  (∀ (s : State) (n : Fin 12) (b : Bool) (low : Bool), Writes (.chopperTailEnd n b low) s [[.reg (A_STP_CNT2 n),
   .axis n]]) ∧
  (∀ (s : State) (n : Fin 12) (b : Bool) (ns : BitVec 32 × Bool), Writes (.onPhaseLimit n b ns) s [[.reg (A_STP_CNT n), .reg (A_STP_CNT2 n),
   .axis n]]) ∧
  (∀ (s : State) (n : Fin 12) (pos : Bool), Writes (.limitSwitchEdge n pos) s [[.reg (A_STP_CTL n), .reg (A_STP_FLT n), .reg (A_STP_STAT n), .reg (A_STP_VEL n),
   .reg A_SYS_CLKSTAT, .axis n], raises]) ∧
  (∀ (s : State) (n : Fin 12), Writes (.homeSwitchEdge n) s [[.reg (A_STP_LATCH n), .reg (A_STP_STAT n), .reg (A_STP_VEL n),
   .axis n]]) ∧
  (∀ (s : State) (n : Fin 12), Writes (.homeDebounceExpire n) s [[.reg (A_STP_CNT n), .reg (A_STP_STAT n), .axis n]]) ∧
  (∀ (s : State) (n : Fin 12) (b : Bool × BitVec 32 × BitVec 32), Writes (.coilShort n b) s [[.reg (A_STP_FLT n), .reg (A_STP_STAT n), .reg (A_STP_VEL n),
   .reg A_SYS_CLKSTAT, .axis n], journals]) ∧
  (∀ (s : State) (v : BitVec 16), Writes (.vstpFault v) s [[.reg A_STP_VSTP, .reg A_SYS_CLKSTAT], raises,
   regs A_STP_STAT 12, regs A_STP_VEL 12, all .axis 12]) ∧
  (∀ (s : State) (v : BitVec 16), Writes (.vstpRecovered v) s [[.reg A_STP_VSTP, .reg A_SYS_CLKSTAT], raises,
   regs A_STP_STAT 12, all .axis 12]) ∧
  (∀ (s : State) (p : Fin 2), Writes (.mismatchDetected p) s [[.reg (A_HEM_MMSTAMP p)], demands, journals,
   regs A_HEM_DARN 2, regs A_POS_TST 4, all .clu 2, all .port 5, all .slc 64]) ∧
  (∀ (s : State) (p : Fin 2) (ok : Bool) (us : BitVec 12), Writes (.darnRestartComplete p ok us) s [demands, journals, regs A_HEM_DARN 2, regs A_POS_TST 4, all .clu 2, all .port 5, all .slc 64, ((s.dev.pairAt p).undo.flatMap fun e => bytes e.1 8)]) ∧
  (∀ (s : State) (p : Fin 2), Writes (.checkpoint p) s [[.pair p]]) ∧
  (∀ (s : State) (p : Fin 2), Writes (.forced p) s [[.reg (A_HEM_DARN p)], raises]) ∧
  (∀ (s : State) (p : Fin 2) (a : BitVec 40) (w : Width) (v : BitVec 64), Writes (.privateStore p a w v) s [[.pair p],
   bytes a.toNat w.bytes]) ∧
  (∀ (s : State) (o : Origin) (key : BitVec 16), Writes (.watchdogService o key) s [[.reg A_HEM_CNT, .hem]]) ∧
  (∀ (s : State) (o : Origin), ∀ i ∈ [Instr.split o, Instr.ownerReq o], Writes i s [[.reg A_HEM_CNT,
   .reg A_HEM_STAT], raises]) ∧
  (∀ (s : State) (p : Fin 2), Writes (.splitComplete p) s [[.reg A_HEM_STAT], raises, all .port 5]) ∧
  (∀ (s : State) (o : Origin), Writes (.safeAck o) s [[.reg A_HEM_STAT]]) ∧
  (∀ (s : State), Writes .handoverTimeout s [[.reg A_HEM_STAT], raises]) ∧
  (∀ (s : State) (c : Fin 4), Writes (.rejoin c) s [[.reg A_HEM_STAT], all .pair 2]) ∧
  (∀ (s : State) (p : Fin 2), Writes (.rejoinTimeout p) s [[.reg A_HEM_STAT], raises]) ∧
  (∀ (s : State) (p : Fin 2), Writes (.rejoinComplete p) s [[.reg A_HEM_STAT], raises, all .port 5, all .slc 64]) ∧
  (∀ (s : State) (c : Fin 4), Writes (.splitCoreParity c) s [regs A_HEM_DARN 2, all .pair 2, all .port 5, all .slc 64]) ∧
  (∀ (s : State) (c : Fin 4), Writes (.splitCoreSelfTestDone c) s [all .pair 2]) ∧
  (∀ (s : State), Writes .deratingUpdate s [[.hem], raises, regs A_HEM_DER 2]) ∧
  (∀ (s : State) (g : Fin 2), ∀ i ∈ [Instr.hemSpeedTrip g, Instr.hemUdcTrip g], Writes i s [safeStates, journals,
   regs A_HEM_VIOL 2, regs A_POS_TST 4, all .clu 2]) ∧
  (∀ (s : State), Writes .hold s [demands, journals, regs A_POS_TST 4, all .clu 2])

/-- Every command of the Thimble commands completes from every state, and every part of the state outside the list given
for it is unchanged: each other register, each record beside the registers, each byte of memory, flash and tag outside
the bytes stored, the queue, the time. Where a record chooses a register, the premise is that it names one that exists
(numbersOk). Constructors that complete (exec answers a next state): thimbleCoreFault, pathTest, speedCheck,
selReleaseTimer, stoAscTimeout, safeToSto, ss1Check, ss1Deadline, sbcEngageTimer, safetyInputChange, siDisc,
sbcTestPulse, sbcApplyCheck, sbcCurrentLow, tmWindowEnd, udcDiv, disSlow, windingDischargeStop, lockoutExpiry,
lockoutSave, unlockTimeout, sto, ss1, windDis, stoRelease, brakeRelease, brakeApply, disStart, disStop, clear,
unlockSafety, unlockDev, close, install, setPassword, ackLog, unknownRequest. -/
def Obligations.ThimbleFrames : Prop :=
  (∀ (s : State), s.numbersOk = true → Writes .thimbleCoreFault s [[.reg A_THM_STAT], safeStates, journals,
   regs A_POS_TST 4, all .clu 2]) ∧
  (∀ (s : State) (n : Fin 14) (p1 : Bool) (p2 : Bool), s.numbersOk = true → Writes (.pathTest n p1 p2) s [demands,
   journals, regs A_POS_TST 4, all .clu 2]) ∧
  (∀ (s : State), Writes .speedCheck s [safeStates, journals, regs A_POS_TST 4, all .clu 2]) ∧
  (∀ (s : State) (g : Fin 2), ∀ i ∈ [Instr.selReleaseTimer g, Instr.stoAscTimeout g, Instr.safeToSto g],
   Writes i s [safeStates, journals, regs A_POS_TST 4, all .clu 2]) ∧
  (∀ (s : State) (g : Fin 2) (ms : BitVec 16), s.numbersOk = true → Writes (.ss1Check g ms) s [[.reg A_THM_FLT],
   safeStates, journals, regs A_POS_TST 4, all .clu 2]) ∧
  (∀ (s : State) (g : Fin 2), s.numbersOk = true → ∀ i ∈ [Instr.ss1Deadline g, Instr.sbcEngageTimer g],
   Writes i s [[.reg A_THM_FLT], safeStates, journals, regs A_POS_TST 4, all .clu 2]) ∧
  (∀ (s : State) (k : Fin 4) (a : Bool) (b : Bool), s.numbersOk = true →
   Writes (.safetyInputChange k a b) s [[.reg A_THM_SI], demands, journals, regs A_POS_TST 4, all .clu 2]) ∧
  (∀ (s : State) (k : Fin 4), s.numbersOk = true → Writes (.siDisc k) s [[.reg A_THM_SI], demands, journals,
   regs A_POS_TST 4, all .clu 2]) ∧
  (∀ (s : State) (ok : Bool), s.numbersOk = true → Writes (.sbcTestPulse ok) s [[.reg A_THM_CNT], demands, journals,
   regs A_POS_TST 4, all .clu 2]) ∧
  (∀ (s : State) (ma : BitVec 16), s.numbersOk = true → ∀ i ∈ [Instr.sbcApplyCheck ma, Instr.sbcCurrentLow ma],
   Writes i s [demands, journals, regs A_POS_TST 4, all .clu 2]) ∧
  (∀ (s : State) (l : List (BitVec 12 × BitVec 12)) (iq0 : BitVec 64) (iq1 : BitVec 64), s.numbersOk = true →
   Writes (.tmWindowEnd l iq0 iq1) s [[.reg A_THM_CNT, .reg A_THM_DC, .reg A_THM_TM], demands, journals,
   regs A_POS_TST 4, all .clu 2]) ∧
  (∀ (s : State) (v : BitVec 16) (bad : Bool), s.numbersOk = true → Writes (.udcDiv v bad) s [[.reg A_THM_DC],
   demands, journals, regs A_POS_TST 4, all .clu 2]) ∧
  (∀ (s : State) (v : BitVec 16), s.numbersOk = true → Writes (.disSlow v) s [[.reg A_THM_DC], demands, journals,
   regs A_POS_TST 4, all .clu 2]) ∧
  (∀ (s : State) (v : BitVec 16), s.numbersOk = true → Writes (.windingDischargeStop v) s [[.reg A_GCH_DIS,
   .reg A_THM_DC, .thm], raises, regs A_GCH_STAT 14, regs A_PWM_STAT 3, all .car 3, all .gch 14]) ∧
  (∀ (s : State), ∀ i ∈ [Instr.lockoutExpiry, Instr.lockoutSave], Writes i s [[.reg A_THM_PWD, .reg A_THM_STAT, .per]]) ∧
  (∀ (s : State), Writes .unlockTimeout s [[.reg A_THM_CLOG, .reg A_THM_STAT, .per, .thm], raises, bytes (0x20200000 + 64 * s.dev.per.fill.cur.getD 0) 64]) ∧
  (∀ (s : State) (o : Origin) (tag : BitVec 16), s.numbersOk = true → ∀ i ∈ [Instr.sto o tag, Instr.ss1 o tag,
   Instr.windDis o tag], Writes i s [[.reg A_HEM_CNT, .reg A_THM_CNT, .reg A_THM_FLT, .reg A_THM_RESP], safeStates,
   journals, regs A_HEM_THMARG 8, regs A_POS_TST 4, all .clu 2]) ∧
  (∀ (s : State) (o : Origin) (tag : BitVec 16), Writes (.stoRelease o tag) s [[.reg A_HEM_CNT, .reg A_THM_CNT,
   .reg A_THM_RESP], journals, regs A_GCH_STAT 14, regs A_HEM_THMARG 8, regs A_THM_GRP 2, all .gch 14, all .tgrp 2]) ∧
  (∀ (s : State) (o : Origin) (tag : BitVec 16), ∀ i ∈ [Instr.brakeRelease o tag, Instr.brakeApply o tag],
   Writes i s [[.reg A_HEM_CNT, .reg A_THM_CNT, .reg A_THM_RESP, .reg A_THM_SBCST, .thm], raises,
   regs A_FIO_OSTAT 16, regs A_FIO_OUTCFG 16, regs A_HEM_THMARG 8, all .fo 16]) ∧
  (∀ (s : State) (o : Origin) (tag : BitVec 16), ∀ i ∈ [Instr.disStart o tag, Instr.disStop o tag],
   Writes i s [[.reg A_GCH_DIS, .reg A_HEM_CNT, .reg A_THM_CNT, .reg A_THM_RESP, .thm], raises, regs A_GCH_STAT 14,
   regs A_HEM_THMARG 8, all .gch 14]) ∧
  (∀ (s : State) (o : Origin) (tag : BitVec 16), s.numbersOk = true → Writes (.clear o tag) s [[.reg A_FIO_FLT,
   .reg A_HEM_CNT, .reg A_THM_CNT, .reg A_THM_RESP], demands, journals, regs A_HEM_THMARG 8, regs A_POS_TST 4,
   all .clu 2]) ∧
  (∀ (s : State) (o : Origin) (tag : BitVec 16) (len1 : BitVec 8), ∀ i ∈ [Instr.unlockSafety o tag len1, Instr.unlockDev o tag len1], Writes i s [[.reg A_DBG_STAT, .reg A_HEM_CNT, .reg A_PWM_FRZ, .reg A_THM_CLOG, .reg A_THM_CNT, .reg A_THM_PWD, .reg A_THM_RESP, .reg A_THM_STAT, .per, .thm], journals, regs A_HEM_THMARG 8, bytes (0x20200000 + 64 * s.dev.per.fill.cur.getD 0) 64]) ∧
  (∀ (s : State) (o : Origin) (tag : BitVec 16), Writes (.close o tag) s [[.reg A_DBG_STAT, .reg A_GCH_BRK, .reg A_HEM_CNT, .reg A_PWM_FRZ, .reg A_THM_CLOG, .reg A_THM_CNT, .reg A_THM_RESP, .reg A_THM_STAT, .per], safeStates, journals, regs A_HEM_THMARG 8, regs A_POS_TST 4, all .clu 2, bytes (0x20200000 + 64 * s.dev.per.fill.cur.getD 0) 128]) ∧
  (∀ (s : State) (o : Origin) (tag : BitVec 16), s.numbersOk = true →
   Writes (.install o tag) s [[.reg A_HEM_CNT, .reg A_SYS_IMGSTAT, .reg A_THM_CLOG, .reg A_THM_CNT, .reg A_THM_RESP, .reg A_THM_SI, .reg A_THM_STAT, .per], demands, journals, setRegs, regs A_HEM_THMARG 8, regs A_POS_TST 4, regs A_PWM_CNT2 3, regs A_STP_CNT2 12, all .clu 2, bytes (0x20200000 + 64 * s.dev.per.fill.cur.getD 0) 64]) ∧
  (∀ (s : State) (o : Origin) (tag : BitVec 16) (len1 : BitVec 8) (len2 : BitVec 8), Writes (.setPassword o tag len1 len2) s [[.reg A_HEM_CNT, .reg A_THM_CLOG, .reg A_THM_CNT, .reg A_THM_PWD, .reg A_THM_RESP, .reg A_THM_STAT, .free, .per], journals, regs A_HEM_THMARG 8, bytes (0x20200000 + 64 * s.dev.per.fill.cur.getD 0) 64]) ∧
  (∀ (s : State) (o : Origin) (tag : BitVec 16) (len1 : BitVec 8), Writes (.ackLog o tag len1) s [[.reg A_HEM_CNT,
   .reg A_THM_CLOG, .reg A_THM_CNT, .reg A_THM_PWD, .reg A_THM_RESP, .reg A_THM_STAT, .per], journals,
   regs A_HEM_THMARG 8, bytes 0x20200000 0x40000]) ∧
  (∀ (s : State) (o : Origin) (code : BitVec 8) (tag : BitVec 16), Writes (.unknownRequest o code tag) s [[.reg A_HEM_CNT,
   .reg A_THM_CNT, .reg A_THM_RESP], raises, regs A_HEM_THMARG 8])

/-- Every command of the CAN, Ethernet, domain and safety-frame commands completes from every state, and every part of the
state outside the list given for it is unchanged: each other register, each record beside the registers, each byte of
memory, flash and tag outside the bytes stored, the queue, the time. Where a record chooses a register, the premise is
that it names one that exists (numbersOk). Constructors that complete (exec answers a next state): canRunSet,
canRunClear, busIdleDetected, canFrameReceived, refFollowTimeout, canProtocolException, canBusError, txreq, txabort,
canTxComplete, fifoPop, hpSlotFree, recover, busOn, dominantTimeout, refPeriod, ethLinkChange, switchFrameReceived,
syncReceived, pdelayExchange, announceReceived, syncLost, txkick, dtmHoldover, hostFrameSent, syncTransmit,
announceTransmit, macEntryAgeing, submit, txPop, appsend, connectionEnable, connectionCycle, connectionWatchdog,
domainEn, formDelayReached, domainOpen, connectComplete, domainClaim, domainRegister, domainTrunk, domainLeader,
domoff, segnum, claimSilence, segmentClose, segReg, directoryClose, gatewayServoLocked, gmChange, dirAck, dirDone,
dirQuery, leaderRefMissing. -/
def Obligations.NetworkFrames : Prop :=
  (∀ (s : State) (n : Fin 4), Writes (.canRunSet n) s [[.reg (A_CAN_CTL n), .reg (A_CAN_STAT n), .reg A_SYS_CLKSTAT]]) ∧
  (∀ (s : State) (n : Fin 4), Writes (.canRunClear n) s [[.reg (A_CAN_CTL n), .reg (A_CAN_STAT n), .reg (A_CAN_TXCTL n),
   .reg A_SYS_CLKSTAT, .can n], raises]) ∧
  (∀ (s : State) (n : Fin 4), Writes (.busIdleDetected n) s [[.reg (A_CAN_STAT n), .reg (A_CAN_TXCTL n), .can n],
   raises]) ∧
  (∀ (s : State) (n : Fin 4) (f : CanFrame) (age : BitVec 32), Writes (.canFrameReceived n f age) s [[.reg (A_CAN_CNT n), .reg (A_CAN_CNT2 n), .reg (A_CAN_CNT3 n), .reg (A_CAN_HP n), .reg (A_CAN_RXF n), .reg (A_CAN_STAT n), .reg (A_CAN_TOFF n), .reg (A_CAN_TREF n), .reg (A_CAN_TXCTL n), .reg A_DTM_CNT, .reg A_DTM_OFS, .reg A_DTM_STAT, .reg A_ETH_ASCFG, .reg A_SFL_DOMCNT, .reg A_SFL_DOMSTAT, .reg A_SFL_FORMT, .reg A_SFL_LEADERID, .reg A_SYS_CLKSTAT, .can n, .dom, .dtm, .free], raises, regs A_CAN_TIME 4, (match (s.dev.canAt n).place (canSize f.data.length) with | none => [] | some p => bytes (A_CAN_CTL n + p) (24 + f.data.length)), (match (List.range 4).find? (fun k => !s.dev.tb (CAN_HP_FULL n) k) with | none => [] | some k => bytes (canHp n k) (24 + f.data.length))]) ∧
  (∀ (s : State) (n : Fin 4), Writes (.refFollowTimeout n) s [[.reg (A_CAN_CNT3 n), .can n]]) ∧
  (∀ (s : State) (n : Fin 4), Writes (.canProtocolException n) s [[.reg (A_CAN_CNT n), .reg (A_CAN_STAT n), .reg (A_CAN_TXCTL n),
   .reg A_SYS_CLKSTAT, .can n], raises]) ∧
  (∀ (s : State) (n : Fin 4) (e : CanErr) (lec : BitVec 3), Writes (.canBusError n e lec) s [[.reg (A_CAN_CNT2 n), .reg (A_CAN_STAT n), .reg (A_CAN_TXCTL n),
   .reg A_SYS_CLKSTAT, .can n], raises]) ∧
  (∀ (s : State) (n : Fin 4) (mask : BitVec 3), ∀ i ∈ [Instr.txreq n mask, Instr.txabort n mask], Writes i s [[.reg (A_CAN_TXCTL n),
   .can n], raises]) ∧
  (∀ (s : State) (n : Fin 4) (e : TxEnd), Writes (.canTxComplete n e) s [[.reg (A_CAN_CNT2 n), .reg (A_CAN_CNT3 n), .reg (A_CAN_STAT n), .reg (A_CAN_TREF n), .reg (A_CAN_TXCTL n), .reg A_DTM_OFS, .reg A_DTM_STAT, .reg A_ETH_ASCFG, .reg A_SFL_DOMCNT, .reg A_SFL_DOMSTAT, .reg A_SFL_FORMT, .reg A_SFL_GWID, .reg A_SFL_LEADERID, .reg A_SYS_CLKSTAT, .can n, .dom, .dtm, .free], raises, regs A_CAN_TIME 4, (match (s.dev.canAt n).arb with | none => [] | some x => if x = 3 then [] else bytes (canBuf n x) 8)]) ∧
  (∀ (s : State) (n : Fin 4), Writes (.fifoPop n) s [[.reg (A_CAN_RXF n), .can n]]) ∧
  (∀ (s : State) (n : Fin 4) (mask : BitVec 4), Writes (.hpSlotFree n mask) s [[.reg (A_CAN_HP n)]]) ∧
  (∀ (s : State) (n : Fin 4), Writes (.recover n) s [[.reg (A_CAN_STAT n)]]) ∧
  (∀ (s : State) (n : Fin 4), Writes (.busOn n) s [[.reg (A_CAN_CNT2 n), .reg (A_CAN_STAT n), .reg (A_CAN_TXCTL n),
   .reg A_SYS_CLKSTAT, .can n], raises]) ∧
  (∀ (s : State) (n : Fin 4), Writes (.dominantTimeout n) s [[.reg (A_CAN_CNT2 n), .can n], raises]) ∧
  (∀ (s : State) (n : Fin 4), Writes (.refPeriod n) s [[.reg (A_CAN_TXCTL n), .can n], raises]) ∧
  (∀ (s : State) (p : Fin 2) (up : Bool) (sqi : BitVec 3), Writes (.ethLinkChange p up sqi) s [[.reg A_DTM_OFS, .reg A_DTM_STAT, .reg (A_ETH_CNT p), .reg A_ETH_GMID, .reg (A_ETH_PHY p),
   .reg A_SFL_DOMSTAT, .dtm, .eth], raises, regs A_CAN_TIME 4, regs A_CAN_TXCTL 4, regs A_ETH_ASPORT 2, all .can 4]) ∧
  (∀ (s : State) (p : Fin 2) (l : List (BitVec 8)) (ok : Bool) (age : BitVec 32), Writes (.switchFrameReceived p l ok age) s [[.reg A_ETH_CCNT, .reg A_ETH_DMA, .eth], raises, regs A_ETH_CNT 2, ({ s with dev := s.dev.switched p l ok age.toNat } : State).hostStored]) ∧
  (∀ (s : State) (p : Fin 2) (t : BitVec 64) (age : BitVec 32), Writes (.syncReceived p t age) s [[.reg A_DTM_CNT,
   .reg A_DTM_OFS, .reg A_DTM_STAT, .dtm, .eth], raises]) ∧
  (∀ (s : State) (p : Fin 2) (delay : Option (BitVec 32)), Writes (.pdelayExchange p delay) s [[.reg A_DTM_OFS,
   .reg A_DTM_STAT, .reg A_ETH_CCNT, .reg A_ETH_GMID, .reg A_SFL_DOMSTAT, .dtm, .eth], raises, regs A_CAN_TIME 4,
   regs A_ETH_ASPORT 2]) ∧
  (∀ (s : State) (p : Fin 2) (a : Announce), Writes (.announceReceived p a) s [[.reg A_DTM_OFS, .reg A_DTM_STAT,
   .reg A_ETH_GMID, .reg A_SFL_DOMSTAT, .dtm, .eth], raises, regs A_CAN_TIME 4, regs A_ETH_ASPORT 2]) ∧
  (∀ (s : State) (p : Fin 2), Writes (.syncLost p) s [[.reg A_ETH_CCNT], raises]) ∧
  (∀ (s : State), Writes .txkick s [[.eth]]) ∧
  (∀ (s : State), Writes .dtmHoldover s [[.reg A_DTM_CNT, .reg A_DTM_STAT], raises]) ∧
  (∀ (s : State) (ok : Bool) (age : BitVec 32), Writes (.hostFrameSent ok age) s [[.reg A_ETH_DMA, .eth], raises, regs A_ETH_CNT 2, bytes (s.dev.txDesc + 8) 16]) ∧
  (∀ (s : State) (p : Fin 2), Writes (.syncTransmit p) s [[.eth]]) ∧
  (∀ (s : State) (p : Fin 2), Writes (.announceTransmit p) s [[.reg A_DTM_OFS, .reg A_DTM_STAT, .reg A_ETH_GMID,
   .reg A_SFL_DOMSTAT, .dtm, .eth], raises, regs A_CAN_TIME 4, regs A_ETH_ASPORT 2]) ∧
  (∀ (s : State) (mac : BitVec 48), Writes (.macEntryAgeing mac) s [[.eth]]) ∧
  (∀ (s : State) (len : BitVec 16), s.numbersOk = true → Writes (.submit len) s [[.reg A_SFL_CNT, .reg A_SFL_DOMCNT,
   .reg A_SFL_RXCTL, .reg A_SFL_TXCTL, .sfl], demands, journals, regs A_POS_TST 4, regs A_SFL_CSTAT 256, all .clu 2,
   all .conn 256]) ∧
  (∀ (s : State), Writes .txPop s [[.reg A_SFL_TXCTL, .sfl]]) ∧
  (∀ (s : State) (k : Fin 256) (len : BitVec 8), Writes (.appsend k len) s [[.reg A_SFL_CNT, .reg (A_SFL_CSTAT k),
   .reg A_SFL_TXCTL, .sfl], raises]) ∧
  (∀ (s : State) (o : Origin) (k : Fin 256) (en : Bool), s.numbersOk = true →
   Writes (.connectionEnable o k en) s [[.reg A_HEM_CNT, .reg (A_SFL_CCFG k), .reg A_SFL_CNT, .reg (A_SFL_CSTAT k),
   .reg A_SFL_TXCTL, .conn k, .sfl], demands, journals, regs A_POS_TST 4, all .clu 2]) ∧
  (∀ (s : State) (k : Fin 256), Writes (.connectionCycle k) s [[.reg A_SFL_CNT, .reg (A_SFL_CSTAT k),
   .reg A_SFL_TXCTL, .sfl], raises]) ∧
  (∀ (s : State) (k : Fin 256), s.numbersOk = true →
   Writes (.connectionWatchdog k) s [[.reg A_SFL_CNT, .reg (A_SFL_CSTAT k), .conn k], demands, journals,
   regs A_POS_TST 4, all .clu 2]) ∧
  (∀ (s : State) (en : Bool), Writes (.domainEn en) s [[.reg A_DTM_OFS, .reg A_DTM_STAT, .reg A_ETH_ASCFG,
   .reg A_SFL_DOMCFG, .reg A_SFL_DOMSTAT, .reg A_SFL_FORMT, .reg A_SFL_GWID, .reg A_SFL_LEADERID, .dom, .dtm],
   raises, regs A_CAN_TIME 4, regs A_CAN_TXCTL 4, all .can 4]) ∧
  (∀ (s : State), ∀ i ∈ [Instr.formDelayReached, Instr.domainOpen, Instr.connectComplete],
   Writes i s [[.reg A_ETH_ASCFG, .reg A_SFL_DOMSTAT, .reg A_SFL_FORMT, .dom], raises, regs A_CAN_TXCTL 4, all .can 4]) ∧
  (∀ (s : State) (r : Fin 4) (arg : BitVec 16), Writes (.domainClaim r arg) s [[.reg A_ETH_ASCFG, .reg A_SFL_DOMSTAT,
   .reg A_SFL_FORMT, .dom], raises, regs A_CAN_TXCTL 4, all .can 4]) ∧
  (∀ (s : State) (arg : BitVec 16) (uid : BitVec 64), Writes (.domainRegister arg uid) s [[.reg A_DTM_OFS,
   .reg A_DTM_STAT, .reg A_ETH_ASCFG, .reg A_SFL_DOMCNT, .reg A_SFL_DOMSTAT, .reg A_SFL_FORMT, .reg A_SFL_GWID,
   .reg A_SFL_LEADERID, .dom, .dtm], raises, regs A_CAN_TIME 4, regs A_CAN_TXCTL 4, all .can 4]) ∧
  (∀ (s : State) (trunk : Bool) (uid : BitVec 64), Writes (.domainTrunk trunk uid) s [[.reg A_DTM_OFS,
   .reg A_DTM_STAT, .reg A_ETH_ASCFG, .reg A_SFL_DOMSTAT, .reg A_SFL_GWID, .dom, .dtm], raises, regs A_CAN_TIME 4,
   regs A_CAN_TXCTL 4, all .can 4]) ∧
  (∀ (s : State) (uid : BitVec 64), Writes (.domainLeader uid) s [[.reg A_DTM_OFS, .reg A_DTM_STAT, .reg A_ETH_ASCFG,
   .reg A_SFL_DOMCNT, .reg A_SFL_DOMSTAT, .reg A_SFL_FORMT, .reg A_SFL_LEADERID, .dom, .dtm], raises,
   regs A_CAN_TIME 4, regs A_CAN_TXCTL 4, all .can 4]) ∧
  (∀ (s : State) (off : BitVec 64), Writes (.domoff off) s [[.reg A_DTM_CNT, .reg A_DTM_OFS, .reg A_DTM_STAT, .dom,
   .dtm], raises, regs A_CAN_TXCTL 4, all .can 4]) ∧
  (∀ (s : State) (num : BitVec 16) (gm : BitVec 64), Writes (.segnum num gm) s [[.reg A_ETH_ASCFG,
   .reg A_SFL_DOMSTAT, .reg A_SFL_FORMT, .dom], raises, regs A_CAN_TXCTL 4, all .can 4]) ∧
  (∀ (s : State), Writes .claimSilence s [[.dom], raises, regs A_CAN_TXCTL 4, all .can 4]) ∧
  (∀ (s : State), Writes .segmentClose s [[.reg A_DTM_OFS, .reg A_DTM_STAT, .reg A_ETH_ASCFG, .reg A_SFL_DOMCNT,
   .reg A_SFL_DOMSTAT, .reg A_SFL_FORMT, .reg A_SFL_GWID, .reg A_SFL_LEADERID, .dom, .dtm], raises,
   regs A_CAN_TIME 4, regs A_CAN_TXCTL 4, all .can 4]) ∧
  (∀ (s : State) (r : SegReg), Writes (.segReg r) s [[.reg A_ETH_ASCFG, .reg A_SFL_DOMCNT, .reg A_SFL_DOMSTAT,
   .reg A_SFL_FORMT, .dom], raises, regs A_CAN_TXCTL 4, all .can 4]) ∧
  (∀ (s : State), ∀ i ∈ [Instr.directoryClose, Instr.gatewayServoLocked, Instr.gmChange],
   Writes i s [[.reg A_ETH_ASCFG, .reg A_SFL_DOMCNT, .reg A_SFL_DOMSTAT, .reg A_SFL_FORMT, .dom], raises,
   regs A_CAN_TXCTL 4, all .can 4]) ∧
  (∀ (s : State) (leader : BitVec 64) (num : BitVec 9) (ver : BitVec 4), Writes (.dirAck leader num ver) s [[.reg A_ETH_ASCFG,
   .reg A_SFL_DOMCNT, .reg A_SFL_DOMSTAT, .reg A_SFL_FORMT, .dom], raises, regs A_CAN_TXCTL 4, all .can 4]) ∧
  (∀ (s : State), Writes .dirDone s [raises, regs A_CAN_TXCTL 4, all .can 4]) ∧
  (∀ (s : State) (uid : BitVec 64), Writes (.dirQuery uid) s [[.dom], raises, regs A_CAN_TXCTL 4, all .can 4]) ∧
  (∀ (s : State), Writes .leaderRefMissing s [[.reg A_DTM_OFS, .reg A_DTM_STAT, .reg A_ETH_ASCFG, .reg A_SFL_DOMCNT,
   .reg A_SFL_DOMSTAT, .reg A_SFL_GWID, .reg A_SFL_LEADERID, .dom, .dtm], raises, regs A_CAN_TIME 4,
   regs A_CAN_TXCTL 4, all .can 4])

/-- Every command of the CRC, SPI, LUA, tag and coolant flow commands completes from every state, and every part of the
state outside the list given for it is unchanged: each other register, each record beside the registers, each byte of
memory, flash and tag outside the bytes stored, the queue, the time. Where a record chooses a register, the premise is
that it names one that exists (numbersOk). Constructors that complete (exec answers a next state): crcInit, crcGo,
crcStop, crcData, crcMemoryDone, spihFrameStart, nopCmd, appReset, unknownCommand, rd, flRd, flProg, flErase, keyProg,
keyRevoke, m0Go, m0Done, flashWindowRead, m1TxQueue, m1EntryDone, m1RxPop, luTxByte, luRxPop, uartByteReceived, linGo,
linFrameEnd, linResponseTimeout, linBreak, linHeader, luByteSent, tagInventory, tagStayQuiet, tagSelect,
tagResetToReady, tagGetSystemInformation, tagExtendedGetSystemInformation, unsupportedTagCommand, tagReadSingleBlock,
tagWriteSingleBlock, tagReadMultipleBlocks, tagExtendedReadSingleBlock, tagExtendedWriteSingleBlock,
tagExtendedReadMultipleBlocks, nfcCommit, nfcRead, nfcCommitDone, faultPageMirror, flowMeasurementStart,
flowPairEvaluated, flowStale. -/
def Obligations.LinkFrames : Prop :=
  (∀ (s : State) (u : Fin 8), Writes (.crcInit u) s [[.reg (A_CRC_RES u), .reg (A_CRC_VAL u)]]) ∧
  (∀ (s : State) (u : Fin 8), Writes (.crcGo u) s [[.reg (A_CRC_CTL u)], raises]) ∧
  (∀ (s : State) (u : Fin 8) (cyc : BitVec 40), Writes (.crcStop u cyc) s [[.reg (A_CRC_ADDR u), .reg (A_CRC_CTL u), .reg (A_CRC_LEN u), .reg (A_CRC_RES u), .reg (A_CRC_VAL u),
   .reg A_SPI_M0CNT, .reg A_SYS_BUSERR, .free], raises]) ∧
  (∀ (s : State) (u : Fin 8) (half : Bool) (v : BitVec 64), Writes (.crcData u half v) s [[.reg (A_CRC_CTL u), .reg (A_CRC_RES u), .reg (A_CRC_VAL u)]]) ∧
  (∀ (s : State) (u : Fin 8), Writes (.crcMemoryDone u) s [[.reg (A_CRC_ADDR u), .reg (A_CRC_CTL u), .reg (A_CRC_LEN u), .reg (A_CRC_RES u), .reg (A_CRC_VAL u),
   .reg A_SPI_M0CNT, .reg A_SYS_BUSERR, .free], raises]) ∧
  (∀ (s : State), Writes .spihFrameStart s [[.reg A_SPI_HCNT, .reg A_SYS_CLKSTAT, .spih]]) ∧
  (∀ (s : State), ∀ i ∈ [Instr.nopCmd, Instr.appReset, Instr.unknownCommand], Writes i s [[.reg A_SPI_HCNT,
   .reg A_SYS_CLKSTAT, .m0, .spih], raises]) ∧
  (∀ (s : State), Writes .rd s [[.reg A_SPI_HCNT, .reg A_SPI_M0CNT, .reg A_SYS_BUSERR, .reg A_SYS_CLKSTAT, .free,
   .m0, .spih], raises]) ∧
  (∀ (s : State) (ok : Bool), Writes (.flRd ok) s [[.reg A_SPI_HCNT, .reg A_SYS_CLKSTAT, .m0, .spih], raises]) ∧
  (∀ (s : State) (ok : Bool), Writes (.flProg ok) s [[.reg A_SPI_HCNT, .reg A_SYS_CLKSTAT, .reg A_SYS_IMGSTAT, .free, .m0, .spih], raises, (match s.dev.spih.req with | none => [] | some q => (List.range q.data.length).map fun i => .flash (q.addr + i))]) ∧
  (∀ (s : State) (ok : Bool), Writes (.flErase ok) s [[.reg A_SPI_HCNT, .reg A_SYS_CLKSTAT, .reg A_SYS_IMGSTAT, .m0, .spih], raises, (match s.dev.spih.req with | none => [] | some q => (List.range 0x10000).map fun i => .flash (q.addr / 0x10000 * 0x10000 + i))]) ∧
  (∀ (s : State), ∀ i ∈ [Instr.keyProg, Instr.keyRevoke], Writes i s [[.reg A_SPI_HCNT, .reg A_SYS_CLKSTAT, .m0,
   .per, .spih], raises]) ∧
  (∀ (s : State), Writes .m0Go s [[.reg A_SPI_M0CTL, .reg A_SYS_CLKSTAT, .reg A_SYS_IMGSTAT, .m0]]) ∧
  (∀ (s : State) (e : M0End), Writes (.m0Done e) s [[.reg A_SPI_M0CNT, .reg A_SPI_M0CTL, .reg A_SYS_CLKSTAT, .m0], raises, bytes (s.dev.get SPI_M0BUF / 8 * 8) (s.dev.get SPI_M0CMD_LEN), (match e with | .timeout => [] | .done _ chg => chg.map fun c => .flash c.1.toNat)]) ∧
  (∀ (s : State) (free : Bool), Writes (.flashWindowRead free) s [[.reg A_SPI_M0CNT]]) ∧
  (∀ (s : State) (v : BitVec 64), Writes (.m1TxQueue v) s [[.reg A_SPI_M1RX, .reg A_SPI_M1STAT, .reg A_SYS_CLKSTAT,
   .m1]]) ∧
  (∀ (s : State) (w : BitVec 32) (l : List (BitVec 8)), Writes (.m1EntryDone w l) s [[.reg A_SPI_M1RX, .reg A_SPI_M1STAT, .reg A_SYS_CLKSTAT, .m1], raises, bytes (s.dev.get SPI_M1LONG_ADDR) l.length]) ∧
  (∀ (s : State), Writes .m1RxPop s [[.reg A_SPI_M1RX, .reg A_SPI_M1STAT, .m1]]) ∧
  (∀ (s : State) (n : Fin 4) (b : BitVec 8), Writes (.luTxByte n b) s [[.reg (A_LUA_CNT n), .reg (A_LUA_DATA n),
   .lu n], raises]) ∧
  (∀ (s : State) (n : Fin 4), Writes (.luRxPop n) s [[.reg (A_LUA_DATA n), .lu n]]) ∧
  (∀ (s : State) (n : Fin 4) (b : BitVec 8 × BitVec 8 × BitVec 8) (par : Bool × Bool × Bool) (stop : Bool × List Bool), Writes (.uartByteReceived n b par stop) s [[.reg (A_LUA_CNT n), .reg (A_LUA_CNT2 n), .reg (A_LUA_DATA n),
   .lu n], raises]) ∧
  (∀ (s : State) (n : Fin 4), Writes (.linGo n) s [[.reg (A_LUA_LIN n), .lu n]]) ∧
  (∀ (s : State) (n : Fin 4) (e : LinEnd), s.numbersOk = true →
   Writes (.linFrameEnd n e) s [[.reg (A_LUA_CNT n), .reg (A_LUA_LDATA n), .reg (A_LUA_LIN n), .lu n], raises, regs (A_LUA_RSP n) 4, regs (A_LUA_RSPD n) 4]) ∧
  (∀ (s : State) (n : Fin 4), Writes (.linResponseTimeout n) s [[.reg (A_LUA_CNT n), .reg (A_LUA_LIN n), .lu n],
   raises]) ∧
  (∀ (s : State) (n : Fin 4) (span : BitVec 32), Writes (.linBreak n span) s [[.reg (A_LUA_CNT n), .reg (A_LUA_CNT2 n), .reg (A_LUA_LIN n),
   .lu n], raises]) ∧
  (∀ (s : State) (n : Fin 4) (pid : BitVec 8), Writes (.linHeader n pid) s [[.reg (A_LUA_CNT n), .reg (A_LUA_CNT2 n), .reg (A_LUA_LIN n),
   .lu n], raises]) ∧
  (∀ (s : State) (n : Fin 4), Writes (.luByteSent n) s [[.reg (A_LUA_DATA n), .lu n], raises]) ∧
  (∀ (s : State) (len : BitVec 7) (mask : BitVec 64), Writes (.tagInventory len mask) s [[.reg A_NFC_CNT, .nfc]]) ∧
  (∀ (s : State) (uid : BitVec 64), Writes (.tagStayQuiet uid) s [[.nfc]]) ∧
  (∀ (s : State) (uid : BitVec 64), Writes (.tagSelect uid) s [[.reg A_NFC_CNT, .nfc]]) ∧
  (∀ (s : State) (adr : TagTo), ∀ i ∈ [Instr.tagResetToReady adr, Instr.tagGetSystemInformation adr,
   Instr.tagExtendedGetSystemInformation adr, Instr.unsupportedTagCommand adr], Writes i s [[.reg A_NFC_CNT, .nfc]]) ∧
  (∀ (s : State) (adr : TagTo) (b : BitVec 8), Writes (.tagReadSingleBlock adr b) s [[.reg A_NFC_CNT, .nfc], raises]) ∧
  (∀ (s : State) (adr : TagTo) (b : BitVec 8) (v : BitVec 32), Writes (.tagWriteSingleBlock adr b v) s [[.reg A_NFC_CNT,
   .nfc]]) ∧
  (∀ (s : State) (adr : TagTo) (b : BitVec 8) (n : BitVec 8), Writes (.tagReadMultipleBlocks adr b n) s [[.reg A_NFC_CNT,
   .nfc], raises]) ∧
  (∀ (s : State) (adr : TagTo) (b : BitVec 16), Writes (.tagExtendedReadSingleBlock adr b) s [[.reg A_NFC_CNT, .nfc],
   raises]) ∧
  (∀ (s : State) (adr : TagTo) (b : BitVec 16) (v : BitVec 32), Writes (.tagExtendedWriteSingleBlock adr b v) s [[.reg A_NFC_CNT, .reg A_NFC_STAT, .free, .nfc], raises, ((List.range 4).map fun i => .tag (4 * b.toNat + i))]) ∧
  (∀ (s : State) (adr : TagTo) (b : BitVec 16) (n : BitVec 16), Writes (.tagExtendedReadMultipleBlocks adr b n) s [[.reg A_NFC_CNT,
   .nfc], raises]) ∧
  (∀ (s : State) (page : BitVec 6), Writes (.nfcCommit page) s [[.reg A_NFC_CTL, .reg A_NFC_STAT, .reg A_SYS_CLKSTAT,
   .nfc]]) ∧
  (∀ (s : State) (page : BitVec 6), Writes (.nfcRead page) s [[.reg A_NFC_CTL, .reg A_NFC_STAT, .reg A_SYS_CLKSTAT,
   .nfc], raises, bytes nfcBuf 256]) ∧
  (∀ (s : State) (e : TagEnd), Writes (.nfcCommitDone e) s [[.reg A_NFC_CNT, .reg A_NFC_STAT, .reg A_SYS_CLKSTAT, .nfc], raises, bytes nfcBuf 256, (match s.dev.nfc.commit with | none => [] | some (p, l) => (List.range l.length).map fun i => .tag (256 * p + i))]) ∧
  (∀ (s : State), Writes .faultPageMirror s [[.reg A_NFC_CNT, .reg A_SYS_CLKSTAT, .jnl], (s.dev.jnl.mirror.flatMap fun k => (List.range 64).map fun i => .tag (256 * 56 + 64 * (k % 32) + i))]) ∧
  (∀ (s : State), Writes .flowMeasurementStart s [[.reg A_FLW_STAT]]) ∧
  (∀ (s : State) (peak : Bool) (ad : BitVec 16) (au : BitVec 16) (qd : BitVec 16) (qu : BitVec 16) (td : BitVec 32) (tu : BitVec 32) (dt : BitVec 32), Writes (.flowPairEvaluated peak ad au qd qu td tu dt) s [[.reg A_FLW_DIAG,
   .reg A_FLW_DT, .reg A_FLW_RES, .reg A_FLW_STAT, .flw], raises]) ∧
  (∀ (s : State), Writes .flowStale s [[.reg A_FLW_STAT], raises])

/-- A write outside the register ranges changes the bytes it stores and at most the error counters; a write of a register,
by a bus access of any origin, by the debug module or by the WR of the host, changes that register and the refusal
counters and, where the write has effects of its own, what is listed for its block; a word of WR outside the registers
changes its bytes; each debug command changes what is listed. Resets, wake-ups and activation keep flash, tag, queue,
model time and every persistent record and byte outside the log entries they write. Constructors that complete (exec
answers a next state): registerWrite, wr, debugCommand, activation, vsupGood, vsupRecovery, vholdExhausted,
sleepPrepComplete, nfcFieldDetected, sleepTimerExpiry, watchdogExpiry, thimbleReset, thimbleRestartDone, debugReset,
canWakePattern, wakePinAccepted, appRst, spihFrameEnd. -/
def Obligations.AccessAndResetFrames : Prop :=
  (∀ (s : State) (o : Origin) (a : BitVec 40) (w : Width) (v : BitVec 64), regionOf a.toNat ≠ .reg →
   Writes (.registerWrite o a w v) s [[.reg A_SYS_BUSERR, .reg A_SPL_CNT], raises, regs A_CAN_CNT2 4,
   bytes a.toNat w.bytes]) ∧
  (∀ (s : State) (a : BitVec 40), regionOf a.toNat = .reg → plainAt a.toNat = true →
   WriteChanges s a [[.reg (a.toNat / 8 * 8), .reg A_SYS_BUSERR], raises, refusals]) ∧
  (∀ (s : State) (a : BitVec 40), regionOf a.toNat = .reg →
   inFamilies a.toNat [A_SYS_PWRCTL, A_SYS_CLKREQ, A_SYS_IMGCTL] = true →
   WriteChanges s a ([[.reg (a.toNat / 8 * 8), .reg A_SYS_BUSERR], raises, refusals] ++ [[.reg A_SYS_CLKSTAT, .reg A_SYS_IMGCTL, .reg A_SYS_PWRCTL, .reg A_SYS_PWRSTATE]])) ∧
  (∀ (s : State) (a : BitVec 40), regionOf a.toNat = .reg → inFamilies a.toNat [A_FIO_OUTCFG 0, A_FIO_FLT] = true →
   WriteChanges s a ([[.reg (a.toNat / 8 * 8), .reg A_SYS_BUSERR], raises, refusals] ++ [[.reg A_FIO_FLT, .reg A_HEM_CNT], raises, regs A_FIO_OSTAT 16, regs A_FIO_OUTCFG 16, all .fo 16])) ∧
  (∀ (s : State) (a : BitVec 40), regionOf a.toNat = .reg →
   inFamilies a.toNat [A_ADC_CTL 0, A_ADC_URG 0, A_ADC_REFCFG, A_ADC_CALCTL] = true →
   WriteChanges s a ([[.reg (a.toNat / 8 * 8), .reg A_SYS_BUSERR], raises, refusals] ++ [[.reg A_ADC_CALCTL, .reg A_ADC_CALSTAT, .reg A_ADC_CCNT, .reg A_ADC_REFCFG, .reg A_ADC_REFSTAT, .reg A_HEM_CNT, .reg A_SYS_CLKSTAT, .refOut, .thm], raises, regs A_ADC_CNT 8, regs A_ADC_CNT2 8, regs A_ADC_CTL 8, regs A_ADC_STAT 8, all .adc 8])) ∧
  (∀ (s : State) (a : BitVec 40), regionOf a.toNat = .reg →
   inFamilies a.toNat [A_POS_CFG 0, A_POS_ENC 0, A_POS_FLT 0, A_POS_RENT] = true →
   WriteChanges s a ([[.reg (a.toNat / 8 * 8), .reg A_SYS_BUSERR], raises, refusals] ++ [[.reg A_SYS_CLKSTAT], regs A_POS_FLT 4, regs A_POS_STAT 4, all .pos 4])) ∧
  (∀ (s : State) (a : BitVec 40), regionOf a.toNat = .reg → inFamilies a.toNat [A_EVR_PEND 0 0, A_EVR_ACK 0] = true →
   WriteChanges s a ([[.reg (a.toNat / 8 * 8), .reg A_SYS_BUSERR], raises, refusals] ++ [regs A_EVR_CNT 6, regs2 A_EVR_PEND 6 12])) ∧
  (∀ (s : State) (a : BitVec 40), regionOf a.toNat = .reg → inFamilies a.toNat [A_DTM_CFG, A_DTM_TRIM] = true →
   WriteChanges s a ([[.reg (a.toNat / 8 * 8), .reg A_SYS_BUSERR], raises, refusals] ++ [[.reg A_DTM_OFS]])) ∧
  (∀ (s : State) (a : BitVec 40), regionOf a.toNat = .reg → inFamilies a.toNat [A_JNL_FWCMD] = true →
   WriteChanges s a ([[.reg (a.toNat / 8 * 8), .reg A_SYS_BUSERR], raises, refusals] ++ [journals])) ∧
  (∀ (s : State) (a : BitVec 40), regionOf a.toNat = .reg → inFamilies a.toNat [A_CLU_CTL 0] = true →
   WriteChanges s a ([[.reg (a.toNat / 8 * 8), .reg A_SYS_BUSERR], raises, refusals] ++ [safeStates, journals, regs A_ADC_CNT 8, regs A_ADC_STAT 8, regs A_CLU_CNT2 2, regs A_CLU_CTL 2, regs A_CLU_IDFW 2, regs A_HEM_VIOL 2, regs A_POS_ELEC 4, regs A_POS_POS 4, regs A_POS_SPD 4, regs A_POS_TST 4, all .adc 8, all .clu 2])) ∧
  (∀ (s : State) (a : BitVec 40), regionOf a.toNat = .reg →
   inFamilies a.toNat [A_PWM_CTL 0, A_PWM_DT 0, A_PWM_FLT 0] = true →
   WriteChanges s a ([[.reg (a.toNat / 8 * 8), .reg A_SYS_BUSERR], raises, refusals] ++ [[.reg A_GCH_BRK, .reg A_SYS_CLKSTAT], journals, regs A_GCH_STAT 14, regs A_PWM_CNT2 3, regs A_PWM_FLT 3, regs A_PWM_STAT 3, all .car 3, all .gch 14])) ∧
  (∀ (s : State) (a : BitVec 40), regionOf a.toNat = .reg →
   inFamilies a.toNat [A_GCH_COM, A_GCH_SEGON 0, A_GCH_SEGOFF 0] = true →
   WriteChanges s a ([[.reg (a.toNat / 8 * 8), .reg A_SYS_BUSERR], raises, refusals] ++ [[.reg A_GCH_ASC], regs A_GCH_STAT 14, all .gch 14])) ∧
  (∀ (s : State) (a : BitVec 40), regionOf a.toNat = .reg →
   inFamilies a.toNat [A_STP_CTL 0, A_STP_POS 0, A_STP_TGT 0, A_STP_VTGT 0, A_STP_CUR 0, A_STP_FLT 0] = true →
   WriteChanges s a ([[.reg (a.toNat / 8 * 8), .reg A_SYS_BUSERR], raises, refusals] ++ [[.reg A_SYS_CLKSTAT], raises, regs A_STP_CNT 12, regs A_STP_CNT2 12, regs A_STP_CTL 12, regs A_STP_FLT 12, regs A_STP_POS 12, regs A_STP_STAT 12, regs A_STP_TGT 12, regs A_STP_VEL 12, regs A_STP_VTGT 12, all .axis 12])) ∧
  (∀ (s : State) (a : BitVec 40), regionOf a.toNat = .reg → inFamilies a.toNat [A_HEM_PAIRCTL, A_HEM_WDOG] = true →
   WriteChanges s a ([[.reg (a.toNat / 8 * 8), .reg A_SYS_BUSERR], raises, refusals] ++ [[.reg A_HEM_CNT, .reg A_HEM_STAT, .hem], raises])) ∧
  (∀ (s : State) (a : BitVec 40), regionOf a.toNat = .reg → inFamilies a.toNat [A_HEM_THMREQ] = true →
   s.numbersOk = true →
   WriteChanges s a ([[.reg (a.toNat / 8 * 8), .reg A_SYS_BUSERR], raises, refusals] ++ [[.reg A_DBG_STAT, .reg A_FIO_FLT, .reg A_HEM_CNT, .reg A_PWM_FRZ, .reg A_SYS_IMGSTAT, .reg A_THM_CLOG, .reg A_THM_CNT, .reg A_THM_PWD, .reg A_THM_RESP, .reg A_THM_SI, .reg A_THM_STAT, .free, .per], demands, journals, setRegs, regs A_HEM_THMARG 8, regs A_POS_TST 4, regs A_PWM_CNT2 3, regs A_STP_CNT2 12, all .clu 2, bytes 0x20200000 0x40000])) ∧
  (∀ (s : State) (a : BitVec 40), regionOf a.toNat = .reg → inFamilies a.toNat [A_CEN_SCFG 0, A_CEN_TCTL] = true →
   WriteChanges s a ([[.reg (a.toNat / 8 * 8), .reg A_SYS_BUSERR], raises, refusals] ++ [[.reg A_CEN_CCNT, .reg A_CEN_TCTL, .reg A_HEM_CNT, .reg A_SYS_CLKSTAT], regs A_CEN_LACNT 4, regs A_CEN_LASTAT 4, regs A_CEN_SCFG 64, regs A_CEN_SSTAT 64, regs2 A_CEN_ST 64 256, all .port 5, all .slc 64])) ∧
  (∀ (s : State) (a : BitVec 40), regionOf a.toNat = .reg → inFamilies a.toNat [A_SPL_CTL] = true →
   WriteChanges s a ([[.reg (a.toNat / 8 * 8), .reg A_SYS_BUSERR], raises, refusals] ++ [[.reg A_SPL_CNT, .reg A_SPL_STAT, .reg A_SPL_TSTAMP, .splTurn], regs A_SPL_CHCNT 16, regs A_SPL_CHST 16, all .spool 16])) ∧
  (∀ (s : State) (a : BitVec 40), regionOf a.toNat = .reg →
   inFamilies a.toNat [A_CAN_CTL 0, A_CAN_TXCTL 0, A_CAN_RXF 0] = true →
   WriteChanges s a ([[.reg (a.toNat / 8 * 8), .reg A_SYS_BUSERR], raises, refusals] ++ [[.reg A_SYS_CLKSTAT], raises, regs A_CAN_CTL 4, regs A_CAN_RXF 4, regs A_CAN_STAT 4, regs A_CAN_TXCTL 4, all .can 4])) ∧
  (∀ (s : State) (a : BitVec 40), regionOf a.toNat = .reg →
   inFamilies a.toNat [A_ETH_CTL, A_ETH_ASCFG, A_ETH_DMA] = true →
   WriteChanges s a ([[.reg (a.toNat / 8 * 8), .reg A_SYS_BUSERR], raises, refusals] ++ [[.reg A_DTM_OFS, .reg A_DTM_STAT, .reg A_ETH_GMID, .reg A_SFL_DOMSTAT, .dtm, .eth], raises, regs A_CAN_TIME 4, regs A_CAN_TXCTL 4, regs A_ETH_ASPORT 2, regs A_ETH_CNT 2, regs A_ETH_PHY 2, all .can 4])) ∧
  (∀ (s : State) (a : BitVec 40), regionOf a.toNat = .reg →
   inFamilies a.toNat [A_SFL_TXCTL, A_SFL_RXCTL, A_SFL_APPSEND, A_SFL_DOMCFG, A_SFL_CCFG 0] = true →
   s.numbersOk = true →
   WriteChanges s a ([[.reg (a.toNat / 8 * 8), .reg A_SYS_BUSERR], raises, refusals] ++ [[.reg A_DTM_OFS, .reg A_DTM_STAT, .reg A_ETH_ASCFG, .reg A_SFL_CNT, .reg A_SFL_DOMCFG, .reg A_SFL_DOMCNT, .reg A_SFL_DOMSTAT, .reg A_SFL_FORMT, .reg A_SFL_GWID, .reg A_SFL_LEADERID, .reg A_SFL_RXCTL, .reg A_SFL_TXCTL, .dom, .dtm, .sfl], demands, journals, regs A_CAN_TIME 4, regs A_CAN_TXCTL 4, regs A_POS_TST 4, regs A_SFL_CCFG 256, regs A_SFL_CSTAT 256, all .can 4, all .clu 2, all .conn 256])) ∧
  (∀ (s : State) (a : BitVec 40), regionOf a.toNat = .reg →
   inFamilies a.toNat [A_CRC_CFG 0, A_CRC_VAL 0, A_CRC_CTL 0, A_CRC_DATA 0] = true →
   WriteChanges s a ([[.reg (a.toNat / 8 * 8), .reg A_SYS_BUSERR], raises, refusals] ++ [raises, regs A_CRC_CTL 8, regs A_CRC_RES 8, regs A_CRC_VAL 8])) ∧
  (∀ (s : State) (a : BitVec 40), regionOf a.toNat = .reg →
   inFamilies a.toNat [A_SPI_M0CTL, A_SPI_M1TX, A_SPI_M1RX] = true →
   WriteChanges s a ([[.reg (a.toNat / 8 * 8), .reg A_SYS_BUSERR], raises, refusals] ++ [[.reg A_SPI_M0CTL, .reg A_SPI_M1RX, .reg A_SPI_M1STAT, .reg A_SYS_CLKSTAT, .reg A_SYS_IMGSTAT, .m0, .m1]])) ∧
  (∀ (s : State) (a : BitVec 40), regionOf a.toNat = .reg →
   inFamilies a.toNat [A_LUA_CFG 0, A_LUA_DATA 0, A_LUA_LIN 0] = true →
   WriteChanges s a ([[.reg (a.toNat / 8 * 8), .reg A_SYS_BUSERR], raises, refusals] ++ [[.reg A_SYS_CLKSTAT], raises, regs A_LUA_CNT 4, regs A_LUA_DATA 4, regs A_LUA_LIN 4, all .lu 4])) ∧
  (∀ (s : State) (a : BitVec 40), regionOf a.toNat = .reg → inFamilies a.toNat [A_NFC_CTL] = true →
   WriteChanges s a ([[.reg (a.toNat / 8 * 8), .reg A_SYS_BUSERR], raises, refusals] ++ [[.reg A_NFC_STAT, .reg A_SYS_CLKSTAT, .nfc], raises, bytes nfcBuf 256])) ∧
  (∀ (s : State) (a : BitVec 40), regionOf a.toNat = .reg → inFamilies a.toNat [A_FLW_CFG] = true →
   WriteChanges s a ([[.reg (a.toNat / 8 * 8), .reg A_SYS_BUSERR], raises, refusals] ++ [[.reg A_FLW_STAT, .reg A_SYS_CLKSTAT]])) ∧
  (∀ (s : State) (o : Origin) (a : BitVec 40) (w : Width) (v : BitVec 64), regionOf a.toNat = .reg →
   inFamilies a.toNat [A_SYS_RSTCTL] = true → Completes (.registerWrite o a w v) s (fun t => t.flash = s.flash ∧
   t.tag = s.tag ∧ t.pending = s.pending ∧ t.dev.mono = s.dev.mono ∧
   t.dev.per = { s.dev.per with fill := t.dev.per.fill } ∧ (∀ a, isPersistent a = true →
   (a < 0x20200000 + 64 * s.dev.per.fill.cur.getD 0 ∨ 0x20200080 + 64 * s.dev.per.fill.cur.getD 0 ≤ a) →
   rd8 t.mem a = rd8 s.mem a)) ∧ Completes (.debugCommand (.busWrite a w v)) s (fun t => t.flash = s.flash ∧
   t.tag = s.tag ∧ t.pending = s.pending ∧ t.dev.mono = s.dev.mono ∧
   t.dev.per = { s.dev.per with fill := t.dev.per.fill } ∧ (∀ a, isPersistent a = true →
   (a < 0x20200000 + 64 * s.dev.per.fill.cur.getD 0 ∨ 0x20200080 + 64 * s.dev.per.fill.cur.getD 0 ≤ a) →
   rd8 t.mem a = rd8 s.mem a))) ∧
  (∀ (s : State) (q : SpiReq), s.dev.spih.req = some q →
   ((List.range q.len8).all fun k => decide (regionOf (q.addr + 8 * k) ≠ .reg)) = true →
   Writes .wr s [[.reg A_SPI_HCNT, .reg A_SYS_CLKSTAT, .reg A_SYS_BUSERR, .reg A_SPL_CNT, .m0, .spih], raises, regs A_CAN_CNT2 4, bytes q.addr (8 * q.len8)]) ∧
  (∀ (s : State) (c : Fin 4) (k : Fin 4) (v : BitVec 64), Writes (.debugCommand (.trigger c k v)) s [[.trig,
   .reg A_DBG_CNT]]) ∧
  (∀ (s : State) (c : Fin 4) (r : BitVec 16) (v : BitVec 64), Writes (.debugCommand (.writeReg c r v)) s [[.reg A_DBG_CNT,
   .dbg], all .port 4]) ∧
  (∀ (s : State) (a : BitVec 40) (w : Width), Writes (.debugCommand (.busRead a w)) s [[.reg A_DBG_CNT, .dbg,
   .reg A_SYS_BUSERR, .reg A_SPI_M0CNT, .free], raises]) ∧
  (∀ (s : State) (a : BitVec 40) (w : Width) (v : BitVec 64), regionOf a.toNat ≠ .reg →
   Writes (.debugCommand (.busWrite a w v)) s [[.reg A_DBG_CNT, .dbg, .reg A_SYS_BUSERR, .reg A_SPL_CNT], raises,
   regs A_CAN_CNT2 4, bytes a.toNat w.bytes]) ∧
  (∀ (s : State) (c : Fin 4), Writes (.debugCommand (.halt c)) s [[.reg A_DBG_CNT, .reg A_DBG_STAT, .reg A_GCH_BRK,
   .reg A_PWM_FRZ], journals, regs A_GCH_STAT 14, regs A_PWM_STAT 3, all .car 3, all .gch 14]) ∧
  (∀ (s : State) (c : Fin 4), Writes (.debugCommand (.resume c)) s [[.reg A_DBG_CNT, .reg A_DBG_STAT, .reg A_GCH_BRK,
   .reg A_PWM_FRZ], safeStates, journals, regs A_POS_TST 4, all .clu 2]) ∧
  (∀ (s : State) (c : Fin 4) (r : BitVec 16), Writes (.debugCommand (.step c)) s [[.reg A_DBG_CNT]] ∧
   ∀ i ∈ [DbgCmd.idcode, .bypass, .readStat, .readReg c r], Writes (.debugCommand i) s [[.reg A_DBG_CNT, .dbg]]) ∧
  (∀ (s : State), Completes (.wr) s fun t => t.flash = s.flash ∧ t.tag = s.tag ∧ t.pending = s.pending ∧
   t.dev.mono = s.dev.mono) ∧
  (∀ (s : State), Completes (.activation) s fun t => t.flash = s.flash ∧ t.tag = s.tag ∧ t.pending = s.pending ∧
   t.dev.mono = s.dev.mono ∧ t.dev.time = s.dev.time ∧ t.dev.per = s.dev.per ∧
   (∀ a, a < 0x10000000 ∨ 0x10000000 + (s.sectBytes 1).length ≤ a → rd8 t.mem a = rd8 s.mem a)) ∧
  (∀ (s : State), Completes (.vsupGood) s fun t => t.flash = s.flash ∧ t.tag = s.tag ∧ t.pending = s.pending ∧
   t.dev.mono = s.dev.mono ∧ t.dev.per = { s.dev.per with fill := t.dev.per.fill } ∧ (∀ a, isPersistent a = true →
   (a < 0x20200000 + 64 * s.dev.per.fill.cur.getD 0 ∨ 0x20200080 + 64 * s.dev.per.fill.cur.getD 0 ≤ a) →
   rd8 t.mem a = rd8 s.mem a)) ∧
  (∀ (s : State), Completes (.vsupRecovery) s fun t => t.flash = s.flash ∧ t.tag = s.tag ∧ t.pending = s.pending ∧
   t.dev.mono = s.dev.mono ∧ t.dev.per = { s.dev.per with fill := t.dev.per.fill } ∧ (∀ a, isPersistent a = true →
   (a < 0x20200000 + 64 * s.dev.per.fill.cur.getD 0 ∨ 0x20200080 + 64 * s.dev.per.fill.cur.getD 0 ≤ a) →
   rd8 t.mem a = rd8 s.mem a)) ∧
  (∀ (s : State), Completes (.vholdExhausted) s fun t => t.flash = s.flash ∧ t.tag = s.tag ∧ t.pending = s.pending ∧
   t.dev.mono = s.dev.mono ∧ t.dev.per = { s.dev.per with fill := t.dev.per.fill } ∧ (∀ a, isPersistent a = true →
   (a < 0x20200000 + 64 * s.dev.per.fill.cur.getD 0 ∨ 0x20200080 + 64 * s.dev.per.fill.cur.getD 0 ≤ a) →
   rd8 t.mem a = rd8 s.mem a)) ∧
  (∀ (s : State), Completes (.sleepPrepComplete) s fun t => t.flash = s.flash ∧ t.tag = s.tag ∧
   t.pending = s.pending ∧ t.dev.mono = s.dev.mono ∧ t.dev.per = { s.dev.per with fill := t.dev.per.fill } ∧
   (∀ a, isPersistent a = true →
   (a < 0x20200000 + 64 * s.dev.per.fill.cur.getD 0 ∨ 0x20200080 + 64 * s.dev.per.fill.cur.getD 0 ≤ a) →
   rd8 t.mem a = rd8 s.mem a)) ∧
  (∀ (s : State), Completes (.nfcFieldDetected) s fun t => t.flash = s.flash ∧ t.tag = s.tag ∧
   t.pending = s.pending ∧ t.dev.mono = s.dev.mono ∧ t.dev.per = { s.dev.per with fill := t.dev.per.fill } ∧
   (∀ a, isPersistent a = true →
   (a < 0x20200000 + 64 * s.dev.per.fill.cur.getD 0 ∨ 0x20200080 + 64 * s.dev.per.fill.cur.getD 0 ≤ a) →
   rd8 t.mem a = rd8 s.mem a)) ∧
  (∀ (s : State), Completes (.sleepTimerExpiry) s fun t => t.flash = s.flash ∧ t.tag = s.tag ∧
   t.pending = s.pending ∧ t.dev.mono = s.dev.mono ∧ t.dev.per = { s.dev.per with fill := t.dev.per.fill } ∧
   (∀ a, isPersistent a = true →
   (a < 0x20200000 + 64 * s.dev.per.fill.cur.getD 0 ∨ 0x20200080 + 64 * s.dev.per.fill.cur.getD 0 ≤ a) →
   rd8 t.mem a = rd8 s.mem a)) ∧
  (∀ (s : State), Completes (.watchdogExpiry) s fun t => t.flash = s.flash ∧ t.tag = s.tag ∧ t.pending = s.pending ∧
   t.dev.mono = s.dev.mono ∧ t.dev.per = { s.dev.per with fill := t.dev.per.fill } ∧ (∀ a, isPersistent a = true →
   (a < 0x20200000 + 64 * s.dev.per.fill.cur.getD 0 ∨ 0x20200080 + 64 * s.dev.per.fill.cur.getD 0 ≤ a) →
   rd8 t.mem a = rd8 s.mem a)) ∧
  (∀ (s : State), Completes (.thimbleReset) s fun t => t.flash = s.flash ∧ t.tag = s.tag ∧ t.pending = s.pending ∧
   t.dev.mono = s.dev.mono ∧ t.dev.per = { s.dev.per with fill := t.dev.per.fill } ∧ (∀ a, isPersistent a = true →
   (a < 0x20200000 + 64 * s.dev.per.fill.cur.getD 0 ∨ 0x20200080 + 64 * s.dev.per.fill.cur.getD 0 ≤ a) →
   rd8 t.mem a = rd8 s.mem a)) ∧
  (∀ (s : State), Completes (.thimbleRestartDone) s fun t => t.flash = s.flash ∧ t.tag = s.tag ∧
   t.pending = s.pending ∧ t.dev.mono = s.dev.mono ∧ t.dev.per = { s.dev.per with fill := t.dev.per.fill } ∧
   (∀ a, isPersistent a = true →
   (a < 0x20200000 + 64 * s.dev.per.fill.cur.getD 0 ∨ 0x20200080 + 64 * s.dev.per.fill.cur.getD 0 ≤ a) →
   rd8 t.mem a = rd8 s.mem a)) ∧
  (∀ (s : State), Completes (.debugReset) s fun t => t.flash = s.flash ∧ t.tag = s.tag ∧ t.pending = s.pending ∧
   t.dev.mono = s.dev.mono ∧ t.dev.per = { s.dev.per with fill := t.dev.per.fill } ∧ (∀ a, isPersistent a = true →
   (a < 0x20200000 + 64 * s.dev.per.fill.cur.getD 0 ∨ 0x20200080 + 64 * s.dev.per.fill.cur.getD 0 ≤ a) →
   rd8 t.mem a = rd8 s.mem a)) ∧
  (∀ (s : State) (n : Fin 4), Completes (.canWakePattern n) s fun t => t.flash = s.flash ∧ t.tag = s.tag ∧
   t.pending = s.pending ∧ t.dev.mono = s.dev.mono ∧ t.dev.per = { s.dev.per with fill := t.dev.per.fill } ∧
   (∀ a, isPersistent a = true →
   (a < 0x20200000 + 64 * s.dev.per.fill.cur.getD 0 ∨ 0x20200080 + 64 * s.dev.per.fill.cur.getD 0 ≤ a) →
   rd8 t.mem a = rd8 s.mem a)) ∧
  (∀ (s : State) (l : Bool), Completes (.wakePinAccepted l) s fun t => t.flash = s.flash ∧ t.tag = s.tag ∧
   t.pending = s.pending ∧ t.dev.mono = s.dev.mono ∧ t.dev.per = { s.dev.per with fill := t.dev.per.fill } ∧
   (∀ a, isPersistent a = true →
   (a < 0x20200000 + 64 * s.dev.per.fill.cur.getD 0 ∨ 0x20200080 + 64 * s.dev.per.fill.cur.getD 0 ≤ a) →
   rd8 t.mem a = rd8 s.mem a)) ∧
  (∀ (s : State) (o : Origin) (k : BitVec 16) (r : Bool), Completes (.appRst o k r) s fun t => t.flash = s.flash ∧
   t.tag = s.tag ∧ t.pending = s.pending ∧ t.dev.mono = s.dev.mono ∧
   t.dev.per = { s.dev.per with fill := t.dev.per.fill } ∧ (∀ a, isPersistent a = true →
   (a < 0x20200000 + 64 * s.dev.per.fill.cur.getD 0 ∨ 0x20200080 + 64 * s.dev.per.fill.cur.getD 0 ≤ a) →
   rd8 t.mem a = rd8 s.mem a)) ∧
  (∀ (s : State) (l : List (BitVec 8)), Completes (.spihFrameEnd l) s fun t => t.flash = s.flash ∧ t.tag = s.tag ∧
   t.pending = s.pending ∧ t.dev.mono = s.dev.mono ∧ t.dev.per = { s.dev.per with fill := t.dev.per.fill } ∧
   (∀ a, isPersistent a = true →
   (a < 0x20200000 + 64 * s.dev.per.fill.cur.getD 0 ∨ 0x20200080 + 64 * s.dev.per.fill.cur.getD 0 ≤ a) →
   rd8 t.mem a = rd8 s.mem a))
end

