-- ==== Sys2Proof/Laws/State.lean ====
section
/-!
SUPPORT. Laws/State.lean: what each update of the device leaves alone: one lemma per field per update, so that no later proof
unfolds a record update.
-/
namespace Sys2Proof.Machine

variable (d : Dev)

/-! ### `Dev.setReg` writes registers only -/

@[simp] theorem Dev.setReg_time (a : Nat) (v : BitVec 64) : (d.setReg a v).time = d.time := rfl
@[simp] theorem Dev.setReg_frac (a : Nat) (v : BitVec 64) : (d.setReg a v).frac = d.frac := rfl
@[simp] theorem Dev.setReg_mono (a : Nat) (v : BitVec 64) : (d.setReg a v).mono = d.mono := rfl
@[simp] theorem Dev.setReg_free (a : Nat) (v : BitVec 64) : (d.setReg a v).free = d.free := rfl
@[simp] theorem Dev.setReg_lims (a : Nat) (v : BitVec 64) : (d.setReg a v).lims = d.lims := rfl
@[simp] theorem Dev.setReg_spool (a : Nat) (v : BitVec 64) : (d.setReg a v).spool = d.spool := rfl
@[simp] theorem Dev.setReg_splTurn (a : Nat) (v : BitVec 64) : (d.setReg a v).splTurn = d.splTurn := rfl
@[simp] theorem Dev.setReg_jnl (a : Nat) (v : BitVec 64) : (d.setReg a v).jnl = d.jnl := rfl
@[simp] theorem Dev.setReg_pwr (a : Nat) (v : BitVec 64) : (d.setReg a v).pwr = d.pwr := rfl
@[simp] theorem Dev.setReg_boot (a : Nat) (v : BitVec 64) : (d.setReg a v).boot = d.boot := rfl
@[simp] theorem Dev.setReg_per (a : Nat) (v : BitVec 64) : (d.setReg a v).per = d.per := rfl
@[simp] theorem Dev.setReg_fo (a : Nat) (v : BitVec 64) : (d.setReg a v).fo = d.fo := rfl
@[simp] theorem Dev.setReg_fio (a : Nat) (v : BitVec 64) : (d.setReg a v).fio = d.fio := rfl
@[simp] theorem Dev.setReg_gch (a : Nat) (v : BitVec 64) : (d.setReg a v).gch = d.gch := rfl
@[simp] theorem Dev.setReg_car (a : Nat) (v : BitVec 64) : (d.setReg a v).car = d.car := rfl
@[simp] theorem Dev.setReg_clu (a : Nat) (v : BitVec 64) : (d.setReg a v).clu = d.clu := rfl
@[simp] theorem Dev.setReg_pos (a : Nat) (v : BitVec 64) : (d.setReg a v).pos = d.pos := rfl
@[simp] theorem Dev.setReg_pair (a : Nat) (v : BitVec 64) : (d.setReg a v).pair = d.pair := rfl
@[simp] theorem Dev.setReg_hem (a : Nat) (v : BitVec 64) : (d.setReg a v).hem = d.hem := rfl
@[simp] theorem Dev.setReg_tgrp (a : Nat) (v : BitVec 64) : (d.setReg a v).tgrp = d.tgrp := rfl
@[simp] theorem Dev.setReg_thm (a : Nat) (v : BitVec 64) : (d.setReg a v).thm = d.thm := rfl
@[simp] theorem Dev.setReg_axis (a : Nat) (v : BitVec 64) : (d.setReg a v).axis = d.axis := rfl
@[simp] theorem Dev.setReg_conn (a : Nat) (v : BitVec 64) : (d.setReg a v).conn = d.conn := rfl
@[simp] theorem Dev.setReg_dtm (a : Nat) (v : BitVec 64) : (d.setReg a v).dtm = d.dtm := rfl
@[simp] theorem Dev.setReg_adc (a : Nat) (v : BitVec 64) : (d.setReg a v).adc = d.adc := rfl
@[simp] theorem Dev.setReg_aux (a : Nat) (v : BitVec 64) : (d.setReg a v).aux = d.aux := rfl
@[simp] theorem Dev.setReg_refOut (a : Nat) (v : BitVec 64) : (d.setReg a v).refOut = d.refOut := rfl
@[simp] theorem Dev.setReg_img (a : Nat) (v : BitVec 64) : (d.setReg a v).img = d.img := rfl
@[simp] theorem Dev.setReg_slc (a : Nat) (v : BitVec 64) : (d.setReg a v).slc = d.slc := rfl
@[simp] theorem Dev.setReg_egr (a : Nat) (v : BitVec 64) : (d.setReg a v).egr = d.egr := rfl
@[simp] theorem Dev.setReg_port (a : Nat) (v : BitVec 64) : (d.setReg a v).port = d.port := rfl
@[simp] theorem Dev.setReg_can (a : Nat) (v : BitVec 64) : (d.setReg a v).can = d.can := rfl
@[simp] theorem Dev.setReg_dom (a : Nat) (v : BitVec 64) : (d.setReg a v).dom = d.dom := rfl
@[simp] theorem Dev.setReg_eth (a : Nat) (v : BitVec 64) : (d.setReg a v).eth = d.eth := rfl
@[simp] theorem Dev.setReg_sfl (a : Nat) (v : BitVec 64) : (d.setReg a v).sfl = d.sfl := rfl
@[simp] theorem Dev.setReg_spih (a : Nat) (v : BitVec 64) : (d.setReg a v).spih = d.spih := rfl
@[simp] theorem Dev.setReg_m0 (a : Nat) (v : BitVec 64) : (d.setReg a v).m0 = d.m0 := rfl
@[simp] theorem Dev.setReg_m1 (a : Nat) (v : BitVec 64) : (d.setReg a v).m1 = d.m1 := rfl
@[simp] theorem Dev.setReg_lu (a : Nat) (v : BitVec 64) : (d.setReg a v).lu = d.lu := rfl
@[simp] theorem Dev.setReg_nfc (a : Nat) (v : BitVec 64) : (d.setReg a v).nfc = d.nfc := rfl
@[simp] theorem Dev.setReg_flw (a : Nat) (v : BitVec 64) : (d.setReg a v).flw = d.flw := rfl
@[simp] theorem Dev.setReg_dbgTrig (a : Nat) (v : BitVec 64) : (d.setReg a v).dbgTrig = d.dbgTrig := rfl
@[simp] theorem Dev.setReg_dbg (a : Nat) (v : BitVec 64) : (d.setReg a v).dbg = d.dbg := rfl
@[simp] theorem Dev.setReg_foAt (a : Nat) (v : BitVec 64) (n : Nat) : (d.setReg a v).foAt n = d.foAt n := rfl
@[simp] theorem Dev.setReg_gchAt (a : Nat) (v : BitVec 64) (n : Nat) : (d.setReg a v).gchAt n = d.gchAt n := rfl
@[simp] theorem Dev.setReg_carAt (a : Nat) (v : BitVec 64) (n : Nat) : (d.setReg a v).carAt n = d.carAt n := rfl
@[simp] theorem Dev.setReg_cluAt (a : Nat) (v : BitVec 64) (n : Nat) : (d.setReg a v).cluAt n = d.cluAt n := rfl
@[simp] theorem Dev.setReg_posAt (a : Nat) (v : BitVec 64) (n : Nat) : (d.setReg a v).posAt n = d.posAt n := rfl
@[simp] theorem Dev.setReg_pairAt (a : Nat) (v : BitVec 64) (n : Nat) : (d.setReg a v).pairAt n = d.pairAt n := rfl
@[simp] theorem Dev.setReg_tgrpAt (a : Nat) (v : BitVec 64) (n : Nat) : (d.setReg a v).tgrpAt n = d.tgrpAt n := rfl
@[simp] theorem Dev.setReg_axisAt (a : Nat) (v : BitVec 64) (n : Nat) : (d.setReg a v).axisAt n = d.axisAt n := rfl
@[simp] theorem Dev.setReg_connAt (a : Nat) (v : BitVec 64) (n : Nat) : (d.setReg a v).connAt n = d.connAt n := rfl
@[simp] theorem Dev.setReg_adcAt (a : Nat) (v : BitVec 64) (n : Nat) : (d.setReg a v).adcAt n = d.adcAt n := rfl
@[simp] theorem Dev.setReg_auxAt (a : Nat) (v : BitVec 64) (n : Nat) : (d.setReg a v).auxAt n = d.auxAt n := rfl
@[simp] theorem Dev.setReg_slcAt (a : Nat) (v : BitVec 64) (n : Nat) : (d.setReg a v).slcAt n = d.slcAt n := rfl
@[simp] theorem Dev.setReg_egrAt (a : Nat) (v : BitVec 64) (n : Nat) : (d.setReg a v).egrAt n = d.egrAt n := rfl
@[simp] theorem Dev.setReg_portAt (a : Nat) (v : BitVec 64) (n : Nat) : (d.setReg a v).portAt n = d.portAt n := rfl
@[simp] theorem Dev.setReg_canAt (a : Nat) (v : BitVec 64) (n : Nat) : (d.setReg a v).canAt n = d.canAt n := rfl
@[simp] theorem Dev.setReg_luAt (a : Nat) (v : BitVec 64) (n : Nat) : (d.setReg a v).luAt n = d.luAt n := rfl
@[simp] theorem Dev.setReg_sch (a : Nat) (v : BitVec 64) (c : Nat) : (d.setReg a v).sch c = d.sch c := rfl

/-! ### `Dev.set` writes registers only -/

@[simp] theorem Dev.set_time (f : Fld) (v : Nat) : (d.set f v).time = d.time := rfl
@[simp] theorem Dev.set_frac (f : Fld) (v : Nat) : (d.set f v).frac = d.frac := rfl
@[simp] theorem Dev.set_mono (f : Fld) (v : Nat) : (d.set f v).mono = d.mono := rfl
@[simp] theorem Dev.set_free (f : Fld) (v : Nat) : (d.set f v).free = d.free := rfl
@[simp] theorem Dev.set_lims (f : Fld) (v : Nat) : (d.set f v).lims = d.lims := rfl
@[simp] theorem Dev.set_spool (f : Fld) (v : Nat) : (d.set f v).spool = d.spool := rfl
@[simp] theorem Dev.set_splTurn (f : Fld) (v : Nat) : (d.set f v).splTurn = d.splTurn := rfl
@[simp] theorem Dev.set_jnl (f : Fld) (v : Nat) : (d.set f v).jnl = d.jnl := rfl
@[simp] theorem Dev.set_pwr (f : Fld) (v : Nat) : (d.set f v).pwr = d.pwr := rfl
@[simp] theorem Dev.set_boot (f : Fld) (v : Nat) : (d.set f v).boot = d.boot := rfl
@[simp] theorem Dev.set_per (f : Fld) (v : Nat) : (d.set f v).per = d.per := rfl
@[simp] theorem Dev.set_fo (f : Fld) (v : Nat) : (d.set f v).fo = d.fo := rfl
@[simp] theorem Dev.set_fio (f : Fld) (v : Nat) : (d.set f v).fio = d.fio := rfl
@[simp] theorem Dev.set_gch (f : Fld) (v : Nat) : (d.set f v).gch = d.gch := rfl
@[simp] theorem Dev.set_car (f : Fld) (v : Nat) : (d.set f v).car = d.car := rfl
@[simp] theorem Dev.set_clu (f : Fld) (v : Nat) : (d.set f v).clu = d.clu := rfl
@[simp] theorem Dev.set_pos (f : Fld) (v : Nat) : (d.set f v).pos = d.pos := rfl
@[simp] theorem Dev.set_pair (f : Fld) (v : Nat) : (d.set f v).pair = d.pair := rfl
@[simp] theorem Dev.set_hem (f : Fld) (v : Nat) : (d.set f v).hem = d.hem := rfl
@[simp] theorem Dev.set_tgrp (f : Fld) (v : Nat) : (d.set f v).tgrp = d.tgrp := rfl
@[simp] theorem Dev.set_thm (f : Fld) (v : Nat) : (d.set f v).thm = d.thm := rfl
@[simp] theorem Dev.set_axis (f : Fld) (v : Nat) : (d.set f v).axis = d.axis := rfl
@[simp] theorem Dev.set_conn (f : Fld) (v : Nat) : (d.set f v).conn = d.conn := rfl
@[simp] theorem Dev.set_dtm (f : Fld) (v : Nat) : (d.set f v).dtm = d.dtm := rfl
@[simp] theorem Dev.set_adc (f : Fld) (v : Nat) : (d.set f v).adc = d.adc := rfl
@[simp] theorem Dev.set_aux (f : Fld) (v : Nat) : (d.set f v).aux = d.aux := rfl
@[simp] theorem Dev.set_refOut (f : Fld) (v : Nat) : (d.set f v).refOut = d.refOut := rfl
@[simp] theorem Dev.set_img (f : Fld) (v : Nat) : (d.set f v).img = d.img := rfl
@[simp] theorem Dev.set_slc (f : Fld) (v : Nat) : (d.set f v).slc = d.slc := rfl
@[simp] theorem Dev.set_egr (f : Fld) (v : Nat) : (d.set f v).egr = d.egr := rfl
@[simp] theorem Dev.set_port (f : Fld) (v : Nat) : (d.set f v).port = d.port := rfl
@[simp] theorem Dev.set_can (f : Fld) (v : Nat) : (d.set f v).can = d.can := rfl
@[simp] theorem Dev.set_dom (f : Fld) (v : Nat) : (d.set f v).dom = d.dom := rfl
@[simp] theorem Dev.set_eth (f : Fld) (v : Nat) : (d.set f v).eth = d.eth := rfl
@[simp] theorem Dev.set_sfl (f : Fld) (v : Nat) : (d.set f v).sfl = d.sfl := rfl
@[simp] theorem Dev.set_spih (f : Fld) (v : Nat) : (d.set f v).spih = d.spih := rfl
@[simp] theorem Dev.set_m0 (f : Fld) (v : Nat) : (d.set f v).m0 = d.m0 := rfl
@[simp] theorem Dev.set_m1 (f : Fld) (v : Nat) : (d.set f v).m1 = d.m1 := rfl
@[simp] theorem Dev.set_lu (f : Fld) (v : Nat) : (d.set f v).lu = d.lu := rfl
@[simp] theorem Dev.set_nfc (f : Fld) (v : Nat) : (d.set f v).nfc = d.nfc := rfl
@[simp] theorem Dev.set_flw (f : Fld) (v : Nat) : (d.set f v).flw = d.flw := rfl
@[simp] theorem Dev.set_dbgTrig (f : Fld) (v : Nat) : (d.set f v).dbgTrig = d.dbgTrig := rfl
@[simp] theorem Dev.set_dbg (f : Fld) (v : Nat) : (d.set f v).dbg = d.dbg := rfl
@[simp] theorem Dev.set_foAt (f : Fld) (v : Nat) (n : Nat) : (d.set f v).foAt n = d.foAt n := rfl
@[simp] theorem Dev.set_gchAt (f : Fld) (v : Nat) (n : Nat) : (d.set f v).gchAt n = d.gchAt n := rfl
@[simp] theorem Dev.set_carAt (f : Fld) (v : Nat) (n : Nat) : (d.set f v).carAt n = d.carAt n := rfl
@[simp] theorem Dev.set_cluAt (f : Fld) (v : Nat) (n : Nat) : (d.set f v).cluAt n = d.cluAt n := rfl
@[simp] theorem Dev.set_posAt (f : Fld) (v : Nat) (n : Nat) : (d.set f v).posAt n = d.posAt n := rfl
@[simp] theorem Dev.set_pairAt (f : Fld) (v : Nat) (n : Nat) : (d.set f v).pairAt n = d.pairAt n := rfl
@[simp] theorem Dev.set_tgrpAt (f : Fld) (v : Nat) (n : Nat) : (d.set f v).tgrpAt n = d.tgrpAt n := rfl
@[simp] theorem Dev.set_axisAt (f : Fld) (v : Nat) (n : Nat) : (d.set f v).axisAt n = d.axisAt n := rfl
@[simp] theorem Dev.set_connAt (f : Fld) (v : Nat) (n : Nat) : (d.set f v).connAt n = d.connAt n := rfl
@[simp] theorem Dev.set_adcAt (f : Fld) (v : Nat) (n : Nat) : (d.set f v).adcAt n = d.adcAt n := rfl
@[simp] theorem Dev.set_auxAt (f : Fld) (v : Nat) (n : Nat) : (d.set f v).auxAt n = d.auxAt n := rfl
@[simp] theorem Dev.set_slcAt (f : Fld) (v : Nat) (n : Nat) : (d.set f v).slcAt n = d.slcAt n := rfl
@[simp] theorem Dev.set_egrAt (f : Fld) (v : Nat) (n : Nat) : (d.set f v).egrAt n = d.egrAt n := rfl
@[simp] theorem Dev.set_portAt (f : Fld) (v : Nat) (n : Nat) : (d.set f v).portAt n = d.portAt n := rfl
@[simp] theorem Dev.set_canAt (f : Fld) (v : Nat) (n : Nat) : (d.set f v).canAt n = d.canAt n := rfl
@[simp] theorem Dev.set_luAt (f : Fld) (v : Nat) (n : Nat) : (d.set f v).luAt n = d.luAt n := rfl
@[simp] theorem Dev.set_sch (f : Fld) (v : Nat) (c : Nat) : (d.set f v).sch c = d.sch c := rfl

/-! ### `Dev.setI` writes registers only -/

@[simp] theorem Dev.setI_time (f : Fld) (v : Int) : (d.setI f v).time = d.time := rfl
@[simp] theorem Dev.setI_frac (f : Fld) (v : Int) : (d.setI f v).frac = d.frac := rfl
@[simp] theorem Dev.setI_mono (f : Fld) (v : Int) : (d.setI f v).mono = d.mono := rfl
@[simp] theorem Dev.setI_free (f : Fld) (v : Int) : (d.setI f v).free = d.free := rfl
@[simp] theorem Dev.setI_lims (f : Fld) (v : Int) : (d.setI f v).lims = d.lims := rfl
@[simp] theorem Dev.setI_spool (f : Fld) (v : Int) : (d.setI f v).spool = d.spool := rfl
@[simp] theorem Dev.setI_splTurn (f : Fld) (v : Int) : (d.setI f v).splTurn = d.splTurn := rfl
@[simp] theorem Dev.setI_jnl (f : Fld) (v : Int) : (d.setI f v).jnl = d.jnl := rfl
@[simp] theorem Dev.setI_pwr (f : Fld) (v : Int) : (d.setI f v).pwr = d.pwr := rfl
@[simp] theorem Dev.setI_boot (f : Fld) (v : Int) : (d.setI f v).boot = d.boot := rfl
@[simp] theorem Dev.setI_per (f : Fld) (v : Int) : (d.setI f v).per = d.per := rfl
@[simp] theorem Dev.setI_fo (f : Fld) (v : Int) : (d.setI f v).fo = d.fo := rfl
@[simp] theorem Dev.setI_fio (f : Fld) (v : Int) : (d.setI f v).fio = d.fio := rfl
@[simp] theorem Dev.setI_gch (f : Fld) (v : Int) : (d.setI f v).gch = d.gch := rfl
@[simp] theorem Dev.setI_car (f : Fld) (v : Int) : (d.setI f v).car = d.car := rfl
@[simp] theorem Dev.setI_clu (f : Fld) (v : Int) : (d.setI f v).clu = d.clu := rfl
@[simp] theorem Dev.setI_pos (f : Fld) (v : Int) : (d.setI f v).pos = d.pos := rfl
@[simp] theorem Dev.setI_pair (f : Fld) (v : Int) : (d.setI f v).pair = d.pair := rfl
@[simp] theorem Dev.setI_hem (f : Fld) (v : Int) : (d.setI f v).hem = d.hem := rfl
@[simp] theorem Dev.setI_tgrp (f : Fld) (v : Int) : (d.setI f v).tgrp = d.tgrp := rfl
@[simp] theorem Dev.setI_thm (f : Fld) (v : Int) : (d.setI f v).thm = d.thm := rfl
@[simp] theorem Dev.setI_axis (f : Fld) (v : Int) : (d.setI f v).axis = d.axis := rfl
@[simp] theorem Dev.setI_conn (f : Fld) (v : Int) : (d.setI f v).conn = d.conn := rfl
@[simp] theorem Dev.setI_dtm (f : Fld) (v : Int) : (d.setI f v).dtm = d.dtm := rfl
@[simp] theorem Dev.setI_adc (f : Fld) (v : Int) : (d.setI f v).adc = d.adc := rfl
@[simp] theorem Dev.setI_aux (f : Fld) (v : Int) : (d.setI f v).aux = d.aux := rfl
@[simp] theorem Dev.setI_refOut (f : Fld) (v : Int) : (d.setI f v).refOut = d.refOut := rfl
@[simp] theorem Dev.setI_img (f : Fld) (v : Int) : (d.setI f v).img = d.img := rfl
@[simp] theorem Dev.setI_slc (f : Fld) (v : Int) : (d.setI f v).slc = d.slc := rfl
@[simp] theorem Dev.setI_egr (f : Fld) (v : Int) : (d.setI f v).egr = d.egr := rfl
@[simp] theorem Dev.setI_port (f : Fld) (v : Int) : (d.setI f v).port = d.port := rfl
@[simp] theorem Dev.setI_can (f : Fld) (v : Int) : (d.setI f v).can = d.can := rfl
@[simp] theorem Dev.setI_dom (f : Fld) (v : Int) : (d.setI f v).dom = d.dom := rfl
@[simp] theorem Dev.setI_eth (f : Fld) (v : Int) : (d.setI f v).eth = d.eth := rfl
@[simp] theorem Dev.setI_sfl (f : Fld) (v : Int) : (d.setI f v).sfl = d.sfl := rfl
@[simp] theorem Dev.setI_spih (f : Fld) (v : Int) : (d.setI f v).spih = d.spih := rfl
@[simp] theorem Dev.setI_m0 (f : Fld) (v : Int) : (d.setI f v).m0 = d.m0 := rfl
@[simp] theorem Dev.setI_m1 (f : Fld) (v : Int) : (d.setI f v).m1 = d.m1 := rfl
@[simp] theorem Dev.setI_lu (f : Fld) (v : Int) : (d.setI f v).lu = d.lu := rfl
@[simp] theorem Dev.setI_nfc (f : Fld) (v : Int) : (d.setI f v).nfc = d.nfc := rfl
@[simp] theorem Dev.setI_flw (f : Fld) (v : Int) : (d.setI f v).flw = d.flw := rfl
@[simp] theorem Dev.setI_dbgTrig (f : Fld) (v : Int) : (d.setI f v).dbgTrig = d.dbgTrig := rfl
@[simp] theorem Dev.setI_dbg (f : Fld) (v : Int) : (d.setI f v).dbg = d.dbg := rfl
@[simp] theorem Dev.setI_foAt (f : Fld) (v : Int) (n : Nat) : (d.setI f v).foAt n = d.foAt n := rfl
@[simp] theorem Dev.setI_gchAt (f : Fld) (v : Int) (n : Nat) : (d.setI f v).gchAt n = d.gchAt n := rfl
@[simp] theorem Dev.setI_carAt (f : Fld) (v : Int) (n : Nat) : (d.setI f v).carAt n = d.carAt n := rfl
@[simp] theorem Dev.setI_cluAt (f : Fld) (v : Int) (n : Nat) : (d.setI f v).cluAt n = d.cluAt n := rfl
@[simp] theorem Dev.setI_posAt (f : Fld) (v : Int) (n : Nat) : (d.setI f v).posAt n = d.posAt n := rfl
@[simp] theorem Dev.setI_pairAt (f : Fld) (v : Int) (n : Nat) : (d.setI f v).pairAt n = d.pairAt n := rfl
@[simp] theorem Dev.setI_tgrpAt (f : Fld) (v : Int) (n : Nat) : (d.setI f v).tgrpAt n = d.tgrpAt n := rfl
@[simp] theorem Dev.setI_axisAt (f : Fld) (v : Int) (n : Nat) : (d.setI f v).axisAt n = d.axisAt n := rfl
@[simp] theorem Dev.setI_connAt (f : Fld) (v : Int) (n : Nat) : (d.setI f v).connAt n = d.connAt n := rfl
@[simp] theorem Dev.setI_adcAt (f : Fld) (v : Int) (n : Nat) : (d.setI f v).adcAt n = d.adcAt n := rfl
@[simp] theorem Dev.setI_auxAt (f : Fld) (v : Int) (n : Nat) : (d.setI f v).auxAt n = d.auxAt n := rfl
@[simp] theorem Dev.setI_slcAt (f : Fld) (v : Int) (n : Nat) : (d.setI f v).slcAt n = d.slcAt n := rfl
@[simp] theorem Dev.setI_egrAt (f : Fld) (v : Int) (n : Nat) : (d.setI f v).egrAt n = d.egrAt n := rfl
@[simp] theorem Dev.setI_portAt (f : Fld) (v : Int) (n : Nat) : (d.setI f v).portAt n = d.portAt n := rfl
@[simp] theorem Dev.setI_canAt (f : Fld) (v : Int) (n : Nat) : (d.setI f v).canAt n = d.canAt n := rfl
@[simp] theorem Dev.setI_luAt (f : Fld) (v : Int) (n : Nat) : (d.setI f v).luAt n = d.luAt n := rfl
@[simp] theorem Dev.setI_sch (f : Fld) (v : Int) (c : Nat) : (d.setI f v).sch c = d.sch c := rfl

/-! ### `Dev.setB` writes registers only -/

@[simp] theorem Dev.setB_time (f : Fld) (b : Bool) : (d.setB f b).time = d.time := rfl
@[simp] theorem Dev.setB_frac (f : Fld) (b : Bool) : (d.setB f b).frac = d.frac := rfl
@[simp] theorem Dev.setB_mono (f : Fld) (b : Bool) : (d.setB f b).mono = d.mono := rfl
@[simp] theorem Dev.setB_free (f : Fld) (b : Bool) : (d.setB f b).free = d.free := rfl
@[simp] theorem Dev.setB_lims (f : Fld) (b : Bool) : (d.setB f b).lims = d.lims := rfl
@[simp] theorem Dev.setB_spool (f : Fld) (b : Bool) : (d.setB f b).spool = d.spool := rfl
@[simp] theorem Dev.setB_splTurn (f : Fld) (b : Bool) : (d.setB f b).splTurn = d.splTurn := rfl
@[simp] theorem Dev.setB_jnl (f : Fld) (b : Bool) : (d.setB f b).jnl = d.jnl := rfl
@[simp] theorem Dev.setB_pwr (f : Fld) (b : Bool) : (d.setB f b).pwr = d.pwr := rfl
@[simp] theorem Dev.setB_boot (f : Fld) (b : Bool) : (d.setB f b).boot = d.boot := rfl
@[simp] theorem Dev.setB_per (f : Fld) (b : Bool) : (d.setB f b).per = d.per := rfl
@[simp] theorem Dev.setB_fo (f : Fld) (b : Bool) : (d.setB f b).fo = d.fo := rfl
@[simp] theorem Dev.setB_fio (f : Fld) (b : Bool) : (d.setB f b).fio = d.fio := rfl
@[simp] theorem Dev.setB_gch (f : Fld) (b : Bool) : (d.setB f b).gch = d.gch := rfl
@[simp] theorem Dev.setB_car (f : Fld) (b : Bool) : (d.setB f b).car = d.car := rfl
@[simp] theorem Dev.setB_clu (f : Fld) (b : Bool) : (d.setB f b).clu = d.clu := rfl
@[simp] theorem Dev.setB_pos (f : Fld) (b : Bool) : (d.setB f b).pos = d.pos := rfl
@[simp] theorem Dev.setB_pair (f : Fld) (b : Bool) : (d.setB f b).pair = d.pair := rfl
@[simp] theorem Dev.setB_hem (f : Fld) (b : Bool) : (d.setB f b).hem = d.hem := rfl
@[simp] theorem Dev.setB_tgrp (f : Fld) (b : Bool) : (d.setB f b).tgrp = d.tgrp := rfl
@[simp] theorem Dev.setB_thm (f : Fld) (b : Bool) : (d.setB f b).thm = d.thm := rfl
@[simp] theorem Dev.setB_axis (f : Fld) (b : Bool) : (d.setB f b).axis = d.axis := rfl
@[simp] theorem Dev.setB_conn (f : Fld) (b : Bool) : (d.setB f b).conn = d.conn := rfl
@[simp] theorem Dev.setB_dtm (f : Fld) (b : Bool) : (d.setB f b).dtm = d.dtm := rfl
@[simp] theorem Dev.setB_adc (f : Fld) (b : Bool) : (d.setB f b).adc = d.adc := rfl
@[simp] theorem Dev.setB_aux (f : Fld) (b : Bool) : (d.setB f b).aux = d.aux := rfl
@[simp] theorem Dev.setB_refOut (f : Fld) (b : Bool) : (d.setB f b).refOut = d.refOut := rfl
@[simp] theorem Dev.setB_img (f : Fld) (b : Bool) : (d.setB f b).img = d.img := rfl
@[simp] theorem Dev.setB_slc (f : Fld) (b : Bool) : (d.setB f b).slc = d.slc := rfl
@[simp] theorem Dev.setB_egr (f : Fld) (b : Bool) : (d.setB f b).egr = d.egr := rfl
@[simp] theorem Dev.setB_port (f : Fld) (b : Bool) : (d.setB f b).port = d.port := rfl
@[simp] theorem Dev.setB_can (f : Fld) (b : Bool) : (d.setB f b).can = d.can := rfl
@[simp] theorem Dev.setB_dom (f : Fld) (b : Bool) : (d.setB f b).dom = d.dom := rfl
@[simp] theorem Dev.setB_eth (f : Fld) (b : Bool) : (d.setB f b).eth = d.eth := rfl
@[simp] theorem Dev.setB_sfl (f : Fld) (b : Bool) : (d.setB f b).sfl = d.sfl := rfl
@[simp] theorem Dev.setB_spih (f : Fld) (b : Bool) : (d.setB f b).spih = d.spih := rfl
@[simp] theorem Dev.setB_m0 (f : Fld) (b : Bool) : (d.setB f b).m0 = d.m0 := rfl
@[simp] theorem Dev.setB_m1 (f : Fld) (b : Bool) : (d.setB f b).m1 = d.m1 := rfl
@[simp] theorem Dev.setB_lu (f : Fld) (b : Bool) : (d.setB f b).lu = d.lu := rfl
@[simp] theorem Dev.setB_nfc (f : Fld) (b : Bool) : (d.setB f b).nfc = d.nfc := rfl
@[simp] theorem Dev.setB_flw (f : Fld) (b : Bool) : (d.setB f b).flw = d.flw := rfl
@[simp] theorem Dev.setB_dbgTrig (f : Fld) (b : Bool) : (d.setB f b).dbgTrig = d.dbgTrig := rfl
@[simp] theorem Dev.setB_dbg (f : Fld) (b : Bool) : (d.setB f b).dbg = d.dbg := rfl
@[simp] theorem Dev.setB_foAt (f : Fld) (b : Bool) (n : Nat) : (d.setB f b).foAt n = d.foAt n := rfl
@[simp] theorem Dev.setB_gchAt (f : Fld) (b : Bool) (n : Nat) : (d.setB f b).gchAt n = d.gchAt n := rfl
@[simp] theorem Dev.setB_carAt (f : Fld) (b : Bool) (n : Nat) : (d.setB f b).carAt n = d.carAt n := rfl
@[simp] theorem Dev.setB_cluAt (f : Fld) (b : Bool) (n : Nat) : (d.setB f b).cluAt n = d.cluAt n := rfl
@[simp] theorem Dev.setB_posAt (f : Fld) (b : Bool) (n : Nat) : (d.setB f b).posAt n = d.posAt n := rfl
@[simp] theorem Dev.setB_pairAt (f : Fld) (b : Bool) (n : Nat) : (d.setB f b).pairAt n = d.pairAt n := rfl
@[simp] theorem Dev.setB_tgrpAt (f : Fld) (b : Bool) (n : Nat) : (d.setB f b).tgrpAt n = d.tgrpAt n := rfl
@[simp] theorem Dev.setB_axisAt (f : Fld) (b : Bool) (n : Nat) : (d.setB f b).axisAt n = d.axisAt n := rfl
@[simp] theorem Dev.setB_connAt (f : Fld) (b : Bool) (n : Nat) : (d.setB f b).connAt n = d.connAt n := rfl
@[simp] theorem Dev.setB_adcAt (f : Fld) (b : Bool) (n : Nat) : (d.setB f b).adcAt n = d.adcAt n := rfl
@[simp] theorem Dev.setB_auxAt (f : Fld) (b : Bool) (n : Nat) : (d.setB f b).auxAt n = d.auxAt n := rfl
@[simp] theorem Dev.setB_slcAt (f : Fld) (b : Bool) (n : Nat) : (d.setB f b).slcAt n = d.slcAt n := rfl
@[simp] theorem Dev.setB_egrAt (f : Fld) (b : Bool) (n : Nat) : (d.setB f b).egrAt n = d.egrAt n := rfl
@[simp] theorem Dev.setB_portAt (f : Fld) (b : Bool) (n : Nat) : (d.setB f b).portAt n = d.portAt n := rfl
@[simp] theorem Dev.setB_canAt (f : Fld) (b : Bool) (n : Nat) : (d.setB f b).canAt n = d.canAt n := rfl
@[simp] theorem Dev.setB_luAt (f : Fld) (b : Bool) (n : Nat) : (d.setB f b).luAt n = d.luAt n := rfl
@[simp] theorem Dev.setB_sch (f : Fld) (b : Bool) (c : Nat) : (d.setB f b).sch c = d.sch c := rfl

/-! ### `Dev.setBits` writes registers only -/

@[simp] theorem Dev.setBits_time (f : Fld) (v : Nat) : (d.setBits f v).time = d.time := rfl
@[simp] theorem Dev.setBits_frac (f : Fld) (v : Nat) : (d.setBits f v).frac = d.frac := rfl
@[simp] theorem Dev.setBits_mono (f : Fld) (v : Nat) : (d.setBits f v).mono = d.mono := rfl
@[simp] theorem Dev.setBits_free (f : Fld) (v : Nat) : (d.setBits f v).free = d.free := rfl
@[simp] theorem Dev.setBits_lims (f : Fld) (v : Nat) : (d.setBits f v).lims = d.lims := rfl
@[simp] theorem Dev.setBits_spool (f : Fld) (v : Nat) : (d.setBits f v).spool = d.spool := rfl
@[simp] theorem Dev.setBits_splTurn (f : Fld) (v : Nat) : (d.setBits f v).splTurn = d.splTurn := rfl
@[simp] theorem Dev.setBits_jnl (f : Fld) (v : Nat) : (d.setBits f v).jnl = d.jnl := rfl
@[simp] theorem Dev.setBits_pwr (f : Fld) (v : Nat) : (d.setBits f v).pwr = d.pwr := rfl
@[simp] theorem Dev.setBits_boot (f : Fld) (v : Nat) : (d.setBits f v).boot = d.boot := rfl
@[simp] theorem Dev.setBits_per (f : Fld) (v : Nat) : (d.setBits f v).per = d.per := rfl
@[simp] theorem Dev.setBits_fo (f : Fld) (v : Nat) : (d.setBits f v).fo = d.fo := rfl
@[simp] theorem Dev.setBits_fio (f : Fld) (v : Nat) : (d.setBits f v).fio = d.fio := rfl
@[simp] theorem Dev.setBits_gch (f : Fld) (v : Nat) : (d.setBits f v).gch = d.gch := rfl
@[simp] theorem Dev.setBits_car (f : Fld) (v : Nat) : (d.setBits f v).car = d.car := rfl
@[simp] theorem Dev.setBits_clu (f : Fld) (v : Nat) : (d.setBits f v).clu = d.clu := rfl
@[simp] theorem Dev.setBits_pos (f : Fld) (v : Nat) : (d.setBits f v).pos = d.pos := rfl
@[simp] theorem Dev.setBits_pair (f : Fld) (v : Nat) : (d.setBits f v).pair = d.pair := rfl
@[simp] theorem Dev.setBits_hem (f : Fld) (v : Nat) : (d.setBits f v).hem = d.hem := rfl
@[simp] theorem Dev.setBits_tgrp (f : Fld) (v : Nat) : (d.setBits f v).tgrp = d.tgrp := rfl
@[simp] theorem Dev.setBits_thm (f : Fld) (v : Nat) : (d.setBits f v).thm = d.thm := rfl
@[simp] theorem Dev.setBits_axis (f : Fld) (v : Nat) : (d.setBits f v).axis = d.axis := rfl
@[simp] theorem Dev.setBits_conn (f : Fld) (v : Nat) : (d.setBits f v).conn = d.conn := rfl
@[simp] theorem Dev.setBits_dtm (f : Fld) (v : Nat) : (d.setBits f v).dtm = d.dtm := rfl
@[simp] theorem Dev.setBits_adc (f : Fld) (v : Nat) : (d.setBits f v).adc = d.adc := rfl
@[simp] theorem Dev.setBits_aux (f : Fld) (v : Nat) : (d.setBits f v).aux = d.aux := rfl
@[simp] theorem Dev.setBits_refOut (f : Fld) (v : Nat) : (d.setBits f v).refOut = d.refOut := rfl
@[simp] theorem Dev.setBits_img (f : Fld) (v : Nat) : (d.setBits f v).img = d.img := rfl
@[simp] theorem Dev.setBits_slc (f : Fld) (v : Nat) : (d.setBits f v).slc = d.slc := rfl
@[simp] theorem Dev.setBits_egr (f : Fld) (v : Nat) : (d.setBits f v).egr = d.egr := rfl
@[simp] theorem Dev.setBits_port (f : Fld) (v : Nat) : (d.setBits f v).port = d.port := rfl
@[simp] theorem Dev.setBits_can (f : Fld) (v : Nat) : (d.setBits f v).can = d.can := rfl
@[simp] theorem Dev.setBits_dom (f : Fld) (v : Nat) : (d.setBits f v).dom = d.dom := rfl
@[simp] theorem Dev.setBits_eth (f : Fld) (v : Nat) : (d.setBits f v).eth = d.eth := rfl
@[simp] theorem Dev.setBits_sfl (f : Fld) (v : Nat) : (d.setBits f v).sfl = d.sfl := rfl
@[simp] theorem Dev.setBits_spih (f : Fld) (v : Nat) : (d.setBits f v).spih = d.spih := rfl
@[simp] theorem Dev.setBits_m0 (f : Fld) (v : Nat) : (d.setBits f v).m0 = d.m0 := rfl
@[simp] theorem Dev.setBits_m1 (f : Fld) (v : Nat) : (d.setBits f v).m1 = d.m1 := rfl
@[simp] theorem Dev.setBits_lu (f : Fld) (v : Nat) : (d.setBits f v).lu = d.lu := rfl
@[simp] theorem Dev.setBits_nfc (f : Fld) (v : Nat) : (d.setBits f v).nfc = d.nfc := rfl
@[simp] theorem Dev.setBits_flw (f : Fld) (v : Nat) : (d.setBits f v).flw = d.flw := rfl
@[simp] theorem Dev.setBits_dbgTrig (f : Fld) (v : Nat) : (d.setBits f v).dbgTrig = d.dbgTrig := rfl
@[simp] theorem Dev.setBits_dbg (f : Fld) (v : Nat) : (d.setBits f v).dbg = d.dbg := rfl
@[simp] theorem Dev.setBits_foAt (f : Fld) (v : Nat) (n : Nat) : (d.setBits f v).foAt n = d.foAt n := rfl
@[simp] theorem Dev.setBits_gchAt (f : Fld) (v : Nat) (n : Nat) : (d.setBits f v).gchAt n = d.gchAt n := rfl
@[simp] theorem Dev.setBits_carAt (f : Fld) (v : Nat) (n : Nat) : (d.setBits f v).carAt n = d.carAt n := rfl
@[simp] theorem Dev.setBits_cluAt (f : Fld) (v : Nat) (n : Nat) : (d.setBits f v).cluAt n = d.cluAt n := rfl
@[simp] theorem Dev.setBits_posAt (f : Fld) (v : Nat) (n : Nat) : (d.setBits f v).posAt n = d.posAt n := rfl
@[simp] theorem Dev.setBits_pairAt (f : Fld) (v : Nat) (n : Nat) : (d.setBits f v).pairAt n = d.pairAt n := rfl
@[simp] theorem Dev.setBits_tgrpAt (f : Fld) (v : Nat) (n : Nat) : (d.setBits f v).tgrpAt n = d.tgrpAt n := rfl
@[simp] theorem Dev.setBits_axisAt (f : Fld) (v : Nat) (n : Nat) : (d.setBits f v).axisAt n = d.axisAt n := rfl
@[simp] theorem Dev.setBits_connAt (f : Fld) (v : Nat) (n : Nat) : (d.setBits f v).connAt n = d.connAt n := rfl
@[simp] theorem Dev.setBits_adcAt (f : Fld) (v : Nat) (n : Nat) : (d.setBits f v).adcAt n = d.adcAt n := rfl
@[simp] theorem Dev.setBits_auxAt (f : Fld) (v : Nat) (n : Nat) : (d.setBits f v).auxAt n = d.auxAt n := rfl
@[simp] theorem Dev.setBits_slcAt (f : Fld) (v : Nat) (n : Nat) : (d.setBits f v).slcAt n = d.slcAt n := rfl
@[simp] theorem Dev.setBits_egrAt (f : Fld) (v : Nat) (n : Nat) : (d.setBits f v).egrAt n = d.egrAt n := rfl
@[simp] theorem Dev.setBits_portAt (f : Fld) (v : Nat) (n : Nat) : (d.setBits f v).portAt n = d.portAt n := rfl
@[simp] theorem Dev.setBits_canAt (f : Fld) (v : Nat) (n : Nat) : (d.setBits f v).canAt n = d.canAt n := rfl
@[simp] theorem Dev.setBits_luAt (f : Fld) (v : Nat) (n : Nat) : (d.setBits f v).luAt n = d.luAt n := rfl
@[simp] theorem Dev.setBits_sch (f : Fld) (v : Nat) (c : Nat) : (d.setBits f v).sch c = d.sch c := rfl

/-! ### `Dev.clrBits` writes registers only -/

@[simp] theorem Dev.clrBits_time (f : Fld) (v : Nat) : (d.clrBits f v).time = d.time := rfl
@[simp] theorem Dev.clrBits_frac (f : Fld) (v : Nat) : (d.clrBits f v).frac = d.frac := rfl
@[simp] theorem Dev.clrBits_mono (f : Fld) (v : Nat) : (d.clrBits f v).mono = d.mono := rfl
@[simp] theorem Dev.clrBits_free (f : Fld) (v : Nat) : (d.clrBits f v).free = d.free := rfl
@[simp] theorem Dev.clrBits_lims (f : Fld) (v : Nat) : (d.clrBits f v).lims = d.lims := rfl
@[simp] theorem Dev.clrBits_spool (f : Fld) (v : Nat) : (d.clrBits f v).spool = d.spool := rfl
@[simp] theorem Dev.clrBits_splTurn (f : Fld) (v : Nat) : (d.clrBits f v).splTurn = d.splTurn := rfl
@[simp] theorem Dev.clrBits_jnl (f : Fld) (v : Nat) : (d.clrBits f v).jnl = d.jnl := rfl
@[simp] theorem Dev.clrBits_pwr (f : Fld) (v : Nat) : (d.clrBits f v).pwr = d.pwr := rfl
@[simp] theorem Dev.clrBits_boot (f : Fld) (v : Nat) : (d.clrBits f v).boot = d.boot := rfl
@[simp] theorem Dev.clrBits_per (f : Fld) (v : Nat) : (d.clrBits f v).per = d.per := rfl
@[simp] theorem Dev.clrBits_fo (f : Fld) (v : Nat) : (d.clrBits f v).fo = d.fo := rfl
@[simp] theorem Dev.clrBits_fio (f : Fld) (v : Nat) : (d.clrBits f v).fio = d.fio := rfl
@[simp] theorem Dev.clrBits_gch (f : Fld) (v : Nat) : (d.clrBits f v).gch = d.gch := rfl
@[simp] theorem Dev.clrBits_car (f : Fld) (v : Nat) : (d.clrBits f v).car = d.car := rfl
@[simp] theorem Dev.clrBits_clu (f : Fld) (v : Nat) : (d.clrBits f v).clu = d.clu := rfl
@[simp] theorem Dev.clrBits_pos (f : Fld) (v : Nat) : (d.clrBits f v).pos = d.pos := rfl
@[simp] theorem Dev.clrBits_pair (f : Fld) (v : Nat) : (d.clrBits f v).pair = d.pair := rfl
@[simp] theorem Dev.clrBits_hem (f : Fld) (v : Nat) : (d.clrBits f v).hem = d.hem := rfl
@[simp] theorem Dev.clrBits_tgrp (f : Fld) (v : Nat) : (d.clrBits f v).tgrp = d.tgrp := rfl
@[simp] theorem Dev.clrBits_thm (f : Fld) (v : Nat) : (d.clrBits f v).thm = d.thm := rfl
@[simp] theorem Dev.clrBits_axis (f : Fld) (v : Nat) : (d.clrBits f v).axis = d.axis := rfl
@[simp] theorem Dev.clrBits_conn (f : Fld) (v : Nat) : (d.clrBits f v).conn = d.conn := rfl
@[simp] theorem Dev.clrBits_dtm (f : Fld) (v : Nat) : (d.clrBits f v).dtm = d.dtm := rfl
@[simp] theorem Dev.clrBits_adc (f : Fld) (v : Nat) : (d.clrBits f v).adc = d.adc := rfl
@[simp] theorem Dev.clrBits_aux (f : Fld) (v : Nat) : (d.clrBits f v).aux = d.aux := rfl
@[simp] theorem Dev.clrBits_refOut (f : Fld) (v : Nat) : (d.clrBits f v).refOut = d.refOut := rfl
@[simp] theorem Dev.clrBits_img (f : Fld) (v : Nat) : (d.clrBits f v).img = d.img := rfl
@[simp] theorem Dev.clrBits_slc (f : Fld) (v : Nat) : (d.clrBits f v).slc = d.slc := rfl
@[simp] theorem Dev.clrBits_egr (f : Fld) (v : Nat) : (d.clrBits f v).egr = d.egr := rfl
@[simp] theorem Dev.clrBits_port (f : Fld) (v : Nat) : (d.clrBits f v).port = d.port := rfl
@[simp] theorem Dev.clrBits_can (f : Fld) (v : Nat) : (d.clrBits f v).can = d.can := rfl
@[simp] theorem Dev.clrBits_dom (f : Fld) (v : Nat) : (d.clrBits f v).dom = d.dom := rfl
@[simp] theorem Dev.clrBits_eth (f : Fld) (v : Nat) : (d.clrBits f v).eth = d.eth := rfl
@[simp] theorem Dev.clrBits_sfl (f : Fld) (v : Nat) : (d.clrBits f v).sfl = d.sfl := rfl
@[simp] theorem Dev.clrBits_spih (f : Fld) (v : Nat) : (d.clrBits f v).spih = d.spih := rfl
@[simp] theorem Dev.clrBits_m0 (f : Fld) (v : Nat) : (d.clrBits f v).m0 = d.m0 := rfl
@[simp] theorem Dev.clrBits_m1 (f : Fld) (v : Nat) : (d.clrBits f v).m1 = d.m1 := rfl
@[simp] theorem Dev.clrBits_lu (f : Fld) (v : Nat) : (d.clrBits f v).lu = d.lu := rfl
@[simp] theorem Dev.clrBits_nfc (f : Fld) (v : Nat) : (d.clrBits f v).nfc = d.nfc := rfl
@[simp] theorem Dev.clrBits_flw (f : Fld) (v : Nat) : (d.clrBits f v).flw = d.flw := rfl
@[simp] theorem Dev.clrBits_dbgTrig (f : Fld) (v : Nat) : (d.clrBits f v).dbgTrig = d.dbgTrig := rfl
@[simp] theorem Dev.clrBits_dbg (f : Fld) (v : Nat) : (d.clrBits f v).dbg = d.dbg := rfl
@[simp] theorem Dev.clrBits_foAt (f : Fld) (v : Nat) (n : Nat) : (d.clrBits f v).foAt n = d.foAt n := rfl
@[simp] theorem Dev.clrBits_gchAt (f : Fld) (v : Nat) (n : Nat) : (d.clrBits f v).gchAt n = d.gchAt n := rfl
@[simp] theorem Dev.clrBits_carAt (f : Fld) (v : Nat) (n : Nat) : (d.clrBits f v).carAt n = d.carAt n := rfl
@[simp] theorem Dev.clrBits_cluAt (f : Fld) (v : Nat) (n : Nat) : (d.clrBits f v).cluAt n = d.cluAt n := rfl
@[simp] theorem Dev.clrBits_posAt (f : Fld) (v : Nat) (n : Nat) : (d.clrBits f v).posAt n = d.posAt n := rfl
@[simp] theorem Dev.clrBits_pairAt (f : Fld) (v : Nat) (n : Nat) : (d.clrBits f v).pairAt n = d.pairAt n := rfl
@[simp] theorem Dev.clrBits_tgrpAt (f : Fld) (v : Nat) (n : Nat) : (d.clrBits f v).tgrpAt n = d.tgrpAt n := rfl
@[simp] theorem Dev.clrBits_axisAt (f : Fld) (v : Nat) (n : Nat) : (d.clrBits f v).axisAt n = d.axisAt n := rfl
@[simp] theorem Dev.clrBits_connAt (f : Fld) (v : Nat) (n : Nat) : (d.clrBits f v).connAt n = d.connAt n := rfl
@[simp] theorem Dev.clrBits_adcAt (f : Fld) (v : Nat) (n : Nat) : (d.clrBits f v).adcAt n = d.adcAt n := rfl
@[simp] theorem Dev.clrBits_auxAt (f : Fld) (v : Nat) (n : Nat) : (d.clrBits f v).auxAt n = d.auxAt n := rfl
@[simp] theorem Dev.clrBits_slcAt (f : Fld) (v : Nat) (n : Nat) : (d.clrBits f v).slcAt n = d.slcAt n := rfl
@[simp] theorem Dev.clrBits_egrAt (f : Fld) (v : Nat) (n : Nat) : (d.clrBits f v).egrAt n = d.egrAt n := rfl
@[simp] theorem Dev.clrBits_portAt (f : Fld) (v : Nat) (n : Nat) : (d.clrBits f v).portAt n = d.portAt n := rfl
@[simp] theorem Dev.clrBits_canAt (f : Fld) (v : Nat) (n : Nat) : (d.clrBits f v).canAt n = d.canAt n := rfl
@[simp] theorem Dev.clrBits_luAt (f : Fld) (v : Nat) (n : Nat) : (d.clrBits f v).luAt n = d.luAt n := rfl
@[simp] theorem Dev.clrBits_sch (f : Fld) (v : Nat) (c : Nat) : (d.clrBits f v).sch c = d.sch c := rfl

/-! ### `Dev.add` writes registers only -/

@[simp] theorem Dev.add_time (f : Fld) (n : Nat) : (d.add f n).time = d.time := rfl
@[simp] theorem Dev.add_frac (f : Fld) (n : Nat) : (d.add f n).frac = d.frac := rfl
@[simp] theorem Dev.add_mono (f : Fld) (n : Nat) : (d.add f n).mono = d.mono := rfl
@[simp] theorem Dev.add_free (f : Fld) (n : Nat) : (d.add f n).free = d.free := rfl
@[simp] theorem Dev.add_lims (f : Fld) (n : Nat) : (d.add f n).lims = d.lims := rfl
@[simp] theorem Dev.add_spool (f : Fld) (n : Nat) : (d.add f n).spool = d.spool := rfl
@[simp] theorem Dev.add_splTurn (f : Fld) (n : Nat) : (d.add f n).splTurn = d.splTurn := rfl
@[simp] theorem Dev.add_jnl (f : Fld) (n : Nat) : (d.add f n).jnl = d.jnl := rfl
@[simp] theorem Dev.add_pwr (f : Fld) (n : Nat) : (d.add f n).pwr = d.pwr := rfl
@[simp] theorem Dev.add_boot (f : Fld) (n : Nat) : (d.add f n).boot = d.boot := rfl
@[simp] theorem Dev.add_per (f : Fld) (n : Nat) : (d.add f n).per = d.per := rfl
@[simp] theorem Dev.add_fo (f : Fld) (n : Nat) : (d.add f n).fo = d.fo := rfl
@[simp] theorem Dev.add_fio (f : Fld) (n : Nat) : (d.add f n).fio = d.fio := rfl
@[simp] theorem Dev.add_gch (f : Fld) (n : Nat) : (d.add f n).gch = d.gch := rfl
@[simp] theorem Dev.add_car (f : Fld) (n : Nat) : (d.add f n).car = d.car := rfl
@[simp] theorem Dev.add_clu (f : Fld) (n : Nat) : (d.add f n).clu = d.clu := rfl
@[simp] theorem Dev.add_pos (f : Fld) (n : Nat) : (d.add f n).pos = d.pos := rfl
@[simp] theorem Dev.add_pair (f : Fld) (n : Nat) : (d.add f n).pair = d.pair := rfl
@[simp] theorem Dev.add_hem (f : Fld) (n : Nat) : (d.add f n).hem = d.hem := rfl
@[simp] theorem Dev.add_tgrp (f : Fld) (n : Nat) : (d.add f n).tgrp = d.tgrp := rfl
@[simp] theorem Dev.add_thm (f : Fld) (n : Nat) : (d.add f n).thm = d.thm := rfl
@[simp] theorem Dev.add_axis (f : Fld) (n : Nat) : (d.add f n).axis = d.axis := rfl
@[simp] theorem Dev.add_conn (f : Fld) (n : Nat) : (d.add f n).conn = d.conn := rfl
@[simp] theorem Dev.add_dtm (f : Fld) (n : Nat) : (d.add f n).dtm = d.dtm := rfl
@[simp] theorem Dev.add_adc (f : Fld) (n : Nat) : (d.add f n).adc = d.adc := rfl
@[simp] theorem Dev.add_aux (f : Fld) (n : Nat) : (d.add f n).aux = d.aux := rfl
@[simp] theorem Dev.add_refOut (f : Fld) (n : Nat) : (d.add f n).refOut = d.refOut := rfl
@[simp] theorem Dev.add_img (f : Fld) (n : Nat) : (d.add f n).img = d.img := rfl
@[simp] theorem Dev.add_slc (f : Fld) (n : Nat) : (d.add f n).slc = d.slc := rfl
@[simp] theorem Dev.add_egr (f : Fld) (n : Nat) : (d.add f n).egr = d.egr := rfl
@[simp] theorem Dev.add_port (f : Fld) (n : Nat) : (d.add f n).port = d.port := rfl
@[simp] theorem Dev.add_can (f : Fld) (n : Nat) : (d.add f n).can = d.can := rfl
@[simp] theorem Dev.add_dom (f : Fld) (n : Nat) : (d.add f n).dom = d.dom := rfl
@[simp] theorem Dev.add_eth (f : Fld) (n : Nat) : (d.add f n).eth = d.eth := rfl
@[simp] theorem Dev.add_sfl (f : Fld) (n : Nat) : (d.add f n).sfl = d.sfl := rfl
@[simp] theorem Dev.add_spih (f : Fld) (n : Nat) : (d.add f n).spih = d.spih := rfl
@[simp] theorem Dev.add_m0 (f : Fld) (n : Nat) : (d.add f n).m0 = d.m0 := rfl
@[simp] theorem Dev.add_m1 (f : Fld) (n : Nat) : (d.add f n).m1 = d.m1 := rfl
@[simp] theorem Dev.add_lu (f : Fld) (n : Nat) : (d.add f n).lu = d.lu := rfl
@[simp] theorem Dev.add_nfc (f : Fld) (n : Nat) : (d.add f n).nfc = d.nfc := rfl
@[simp] theorem Dev.add_flw (f : Fld) (n : Nat) : (d.add f n).flw = d.flw := rfl
@[simp] theorem Dev.add_dbgTrig (f : Fld) (n : Nat) : (d.add f n).dbgTrig = d.dbgTrig := rfl
@[simp] theorem Dev.add_dbg (f : Fld) (n : Nat) : (d.add f n).dbg = d.dbg := rfl
@[simp] theorem Dev.add_foAt (f : Fld) (m : Nat) (n : Nat) : (d.add f m).foAt n = d.foAt n := rfl
@[simp] theorem Dev.add_gchAt (f : Fld) (m : Nat) (n : Nat) : (d.add f m).gchAt n = d.gchAt n := rfl
@[simp] theorem Dev.add_carAt (f : Fld) (m : Nat) (n : Nat) : (d.add f m).carAt n = d.carAt n := rfl
@[simp] theorem Dev.add_cluAt (f : Fld) (m : Nat) (n : Nat) : (d.add f m).cluAt n = d.cluAt n := rfl
@[simp] theorem Dev.add_posAt (f : Fld) (m : Nat) (n : Nat) : (d.add f m).posAt n = d.posAt n := rfl
@[simp] theorem Dev.add_pairAt (f : Fld) (m : Nat) (n : Nat) : (d.add f m).pairAt n = d.pairAt n := rfl
@[simp] theorem Dev.add_tgrpAt (f : Fld) (m : Nat) (n : Nat) : (d.add f m).tgrpAt n = d.tgrpAt n := rfl
@[simp] theorem Dev.add_axisAt (f : Fld) (m : Nat) (n : Nat) : (d.add f m).axisAt n = d.axisAt n := rfl
@[simp] theorem Dev.add_connAt (f : Fld) (m : Nat) (n : Nat) : (d.add f m).connAt n = d.connAt n := rfl
@[simp] theorem Dev.add_adcAt (f : Fld) (m : Nat) (n : Nat) : (d.add f m).adcAt n = d.adcAt n := rfl
@[simp] theorem Dev.add_auxAt (f : Fld) (m : Nat) (n : Nat) : (d.add f m).auxAt n = d.auxAt n := rfl
@[simp] theorem Dev.add_slcAt (f : Fld) (m : Nat) (n : Nat) : (d.add f m).slcAt n = d.slcAt n := rfl
@[simp] theorem Dev.add_egrAt (f : Fld) (m : Nat) (n : Nat) : (d.add f m).egrAt n = d.egrAt n := rfl
@[simp] theorem Dev.add_portAt (f : Fld) (m : Nat) (n : Nat) : (d.add f m).portAt n = d.portAt n := rfl
@[simp] theorem Dev.add_canAt (f : Fld) (m : Nat) (n : Nat) : (d.add f m).canAt n = d.canAt n := rfl
@[simp] theorem Dev.add_luAt (f : Fld) (m : Nat) (n : Nat) : (d.add f m).luAt n = d.luAt n := rfl
@[simp] theorem Dev.add_sch (f : Fld) (m : Nat) (c : Nat) : (d.add f m).sch c = d.sch c := rfl

/-! ### `Dev.count` writes registers only -/

@[simp] theorem Dev.count_time (f : Fld) : (d.count f).time = d.time := rfl
@[simp] theorem Dev.count_frac (f : Fld) : (d.count f).frac = d.frac := rfl
@[simp] theorem Dev.count_mono (f : Fld) : (d.count f).mono = d.mono := rfl
@[simp] theorem Dev.count_free (f : Fld) : (d.count f).free = d.free := rfl
@[simp] theorem Dev.count_lims (f : Fld) : (d.count f).lims = d.lims := rfl
@[simp] theorem Dev.count_spool (f : Fld) : (d.count f).spool = d.spool := rfl
@[simp] theorem Dev.count_splTurn (f : Fld) : (d.count f).splTurn = d.splTurn := rfl
@[simp] theorem Dev.count_jnl (f : Fld) : (d.count f).jnl = d.jnl := rfl
@[simp] theorem Dev.count_pwr (f : Fld) : (d.count f).pwr = d.pwr := rfl
@[simp] theorem Dev.count_boot (f : Fld) : (d.count f).boot = d.boot := rfl
@[simp] theorem Dev.count_per (f : Fld) : (d.count f).per = d.per := rfl
@[simp] theorem Dev.count_fo (f : Fld) : (d.count f).fo = d.fo := rfl
@[simp] theorem Dev.count_fio (f : Fld) : (d.count f).fio = d.fio := rfl
@[simp] theorem Dev.count_gch (f : Fld) : (d.count f).gch = d.gch := rfl
@[simp] theorem Dev.count_car (f : Fld) : (d.count f).car = d.car := rfl
@[simp] theorem Dev.count_clu (f : Fld) : (d.count f).clu = d.clu := rfl
@[simp] theorem Dev.count_pos (f : Fld) : (d.count f).pos = d.pos := rfl
@[simp] theorem Dev.count_pair (f : Fld) : (d.count f).pair = d.pair := rfl
@[simp] theorem Dev.count_hem (f : Fld) : (d.count f).hem = d.hem := rfl
@[simp] theorem Dev.count_tgrp (f : Fld) : (d.count f).tgrp = d.tgrp := rfl
@[simp] theorem Dev.count_thm (f : Fld) : (d.count f).thm = d.thm := rfl
@[simp] theorem Dev.count_axis (f : Fld) : (d.count f).axis = d.axis := rfl
@[simp] theorem Dev.count_conn (f : Fld) : (d.count f).conn = d.conn := rfl
@[simp] theorem Dev.count_dtm (f : Fld) : (d.count f).dtm = d.dtm := rfl
@[simp] theorem Dev.count_adc (f : Fld) : (d.count f).adc = d.adc := rfl
@[simp] theorem Dev.count_aux (f : Fld) : (d.count f).aux = d.aux := rfl
@[simp] theorem Dev.count_refOut (f : Fld) : (d.count f).refOut = d.refOut := rfl
@[simp] theorem Dev.count_img (f : Fld) : (d.count f).img = d.img := rfl
@[simp] theorem Dev.count_slc (f : Fld) : (d.count f).slc = d.slc := rfl
@[simp] theorem Dev.count_egr (f : Fld) : (d.count f).egr = d.egr := rfl
@[simp] theorem Dev.count_port (f : Fld) : (d.count f).port = d.port := rfl
@[simp] theorem Dev.count_can (f : Fld) : (d.count f).can = d.can := rfl
@[simp] theorem Dev.count_dom (f : Fld) : (d.count f).dom = d.dom := rfl
@[simp] theorem Dev.count_eth (f : Fld) : (d.count f).eth = d.eth := rfl
@[simp] theorem Dev.count_sfl (f : Fld) : (d.count f).sfl = d.sfl := rfl
@[simp] theorem Dev.count_spih (f : Fld) : (d.count f).spih = d.spih := rfl
@[simp] theorem Dev.count_m0 (f : Fld) : (d.count f).m0 = d.m0 := rfl
@[simp] theorem Dev.count_m1 (f : Fld) : (d.count f).m1 = d.m1 := rfl
@[simp] theorem Dev.count_lu (f : Fld) : (d.count f).lu = d.lu := rfl
@[simp] theorem Dev.count_nfc (f : Fld) : (d.count f).nfc = d.nfc := rfl
@[simp] theorem Dev.count_flw (f : Fld) : (d.count f).flw = d.flw := rfl
@[simp] theorem Dev.count_dbgTrig (f : Fld) : (d.count f).dbgTrig = d.dbgTrig := rfl
@[simp] theorem Dev.count_dbg (f : Fld) : (d.count f).dbg = d.dbg := rfl
@[simp] theorem Dev.count_foAt (f : Fld) (n : Nat) : (d.count f).foAt n = d.foAt n := rfl
@[simp] theorem Dev.count_gchAt (f : Fld) (n : Nat) : (d.count f).gchAt n = d.gchAt n := rfl
@[simp] theorem Dev.count_carAt (f : Fld) (n : Nat) : (d.count f).carAt n = d.carAt n := rfl
@[simp] theorem Dev.count_cluAt (f : Fld) (n : Nat) : (d.count f).cluAt n = d.cluAt n := rfl
@[simp] theorem Dev.count_posAt (f : Fld) (n : Nat) : (d.count f).posAt n = d.posAt n := rfl
@[simp] theorem Dev.count_pairAt (f : Fld) (n : Nat) : (d.count f).pairAt n = d.pairAt n := rfl
@[simp] theorem Dev.count_tgrpAt (f : Fld) (n : Nat) : (d.count f).tgrpAt n = d.tgrpAt n := rfl
@[simp] theorem Dev.count_axisAt (f : Fld) (n : Nat) : (d.count f).axisAt n = d.axisAt n := rfl
@[simp] theorem Dev.count_connAt (f : Fld) (n : Nat) : (d.count f).connAt n = d.connAt n := rfl
@[simp] theorem Dev.count_adcAt (f : Fld) (n : Nat) : (d.count f).adcAt n = d.adcAt n := rfl
@[simp] theorem Dev.count_auxAt (f : Fld) (n : Nat) : (d.count f).auxAt n = d.auxAt n := rfl
@[simp] theorem Dev.count_slcAt (f : Fld) (n : Nat) : (d.count f).slcAt n = d.slcAt n := rfl
@[simp] theorem Dev.count_egrAt (f : Fld) (n : Nat) : (d.count f).egrAt n = d.egrAt n := rfl
@[simp] theorem Dev.count_portAt (f : Fld) (n : Nat) : (d.count f).portAt n = d.portAt n := rfl
@[simp] theorem Dev.count_canAt (f : Fld) (n : Nat) : (d.count f).canAt n = d.canAt n := rfl
@[simp] theorem Dev.count_luAt (f : Fld) (n : Nat) : (d.count f).luAt n = d.luAt n := rfl
@[simp] theorem Dev.count_sch (f : Fld) (c : Nat) : (d.count f).sch c = d.sch c := rfl

/-! ### `Dev.drawn` advances the counter of free values only -/

@[simp] theorem Dev.drawn_regs : d.drawn.regs = d.regs := rfl
@[simp] theorem Dev.drawn_time : d.drawn.time = d.time := rfl
@[simp] theorem Dev.drawn_frac : d.drawn.frac = d.frac := rfl
@[simp] theorem Dev.drawn_mono : d.drawn.mono = d.mono := rfl
@[simp] theorem Dev.drawn_lims : d.drawn.lims = d.lims := rfl
@[simp] theorem Dev.drawn_spool : d.drawn.spool = d.spool := rfl
@[simp] theorem Dev.drawn_splTurn : d.drawn.splTurn = d.splTurn := rfl
@[simp] theorem Dev.drawn_jnl : d.drawn.jnl = d.jnl := rfl
@[simp] theorem Dev.drawn_pwr : d.drawn.pwr = d.pwr := rfl
@[simp] theorem Dev.drawn_boot : d.drawn.boot = d.boot := rfl
@[simp] theorem Dev.drawn_per : d.drawn.per = d.per := rfl
@[simp] theorem Dev.drawn_fo : d.drawn.fo = d.fo := rfl
@[simp] theorem Dev.drawn_fio : d.drawn.fio = d.fio := rfl
@[simp] theorem Dev.drawn_gch : d.drawn.gch = d.gch := rfl
@[simp] theorem Dev.drawn_car : d.drawn.car = d.car := rfl
@[simp] theorem Dev.drawn_clu : d.drawn.clu = d.clu := rfl
@[simp] theorem Dev.drawn_pos : d.drawn.pos = d.pos := rfl
@[simp] theorem Dev.drawn_pair : d.drawn.pair = d.pair := rfl
@[simp] theorem Dev.drawn_hem : d.drawn.hem = d.hem := rfl
@[simp] theorem Dev.drawn_tgrp : d.drawn.tgrp = d.tgrp := rfl
@[simp] theorem Dev.drawn_thm : d.drawn.thm = d.thm := rfl
@[simp] theorem Dev.drawn_axis : d.drawn.axis = d.axis := rfl
@[simp] theorem Dev.drawn_conn : d.drawn.conn = d.conn := rfl
@[simp] theorem Dev.drawn_dtm : d.drawn.dtm = d.dtm := rfl
@[simp] theorem Dev.drawn_adc : d.drawn.adc = d.adc := rfl
@[simp] theorem Dev.drawn_aux : d.drawn.aux = d.aux := rfl
@[simp] theorem Dev.drawn_refOut : d.drawn.refOut = d.refOut := rfl
@[simp] theorem Dev.drawn_img : d.drawn.img = d.img := rfl
@[simp] theorem Dev.drawn_slc : d.drawn.slc = d.slc := rfl
@[simp] theorem Dev.drawn_egr : d.drawn.egr = d.egr := rfl
@[simp] theorem Dev.drawn_port : d.drawn.port = d.port := rfl
@[simp] theorem Dev.drawn_can : d.drawn.can = d.can := rfl
@[simp] theorem Dev.drawn_dom : d.drawn.dom = d.dom := rfl
@[simp] theorem Dev.drawn_eth : d.drawn.eth = d.eth := rfl
@[simp] theorem Dev.drawn_sfl : d.drawn.sfl = d.sfl := rfl
@[simp] theorem Dev.drawn_spih : d.drawn.spih = d.spih := rfl
@[simp] theorem Dev.drawn_m0 : d.drawn.m0 = d.m0 := rfl
@[simp] theorem Dev.drawn_m1 : d.drawn.m1 = d.m1 := rfl
@[simp] theorem Dev.drawn_lu : d.drawn.lu = d.lu := rfl
@[simp] theorem Dev.drawn_nfc : d.drawn.nfc = d.nfc := rfl
@[simp] theorem Dev.drawn_flw : d.drawn.flw = d.flw := rfl
@[simp] theorem Dev.drawn_dbgTrig : d.drawn.dbgTrig = d.dbgTrig := rfl
@[simp] theorem Dev.drawn_dbg : d.drawn.dbg = d.dbg := rfl
@[simp] theorem Dev.drawn_foAt (n : Nat) : d.drawn.foAt n = d.foAt n := rfl
@[simp] theorem Dev.drawn_gchAt (n : Nat) : d.drawn.gchAt n = d.gchAt n := rfl
@[simp] theorem Dev.drawn_carAt (n : Nat) : d.drawn.carAt n = d.carAt n := rfl
@[simp] theorem Dev.drawn_cluAt (n : Nat) : d.drawn.cluAt n = d.cluAt n := rfl
@[simp] theorem Dev.drawn_posAt (n : Nat) : d.drawn.posAt n = d.posAt n := rfl
@[simp] theorem Dev.drawn_pairAt (n : Nat) : d.drawn.pairAt n = d.pairAt n := rfl
@[simp] theorem Dev.drawn_tgrpAt (n : Nat) : d.drawn.tgrpAt n = d.tgrpAt n := rfl
@[simp] theorem Dev.drawn_axisAt (n : Nat) : d.drawn.axisAt n = d.axisAt n := rfl
@[simp] theorem Dev.drawn_connAt (n : Nat) : d.drawn.connAt n = d.connAt n := rfl
@[simp] theorem Dev.drawn_adcAt (n : Nat) : d.drawn.adcAt n = d.adcAt n := rfl
@[simp] theorem Dev.drawn_auxAt (n : Nat) : d.drawn.auxAt n = d.auxAt n := rfl
@[simp] theorem Dev.drawn_slcAt (n : Nat) : d.drawn.slcAt n = d.slcAt n := rfl
@[simp] theorem Dev.drawn_egrAt (n : Nat) : d.drawn.egrAt n = d.egrAt n := rfl
@[simp] theorem Dev.drawn_portAt (n : Nat) : d.drawn.portAt n = d.portAt n := rfl
@[simp] theorem Dev.drawn_canAt (n : Nat) : d.drawn.canAt n = d.canAt n := rfl
@[simp] theorem Dev.drawn_luAt (n : Nat) : d.drawn.luAt n = d.luAt n := rfl
@[simp] theorem Dev.drawn_reg (a : Nat) : d.drawn.reg a = d.reg a := rfl
@[simp] theorem Dev.drawn_get (f : Fld) : d.drawn.get f = d.get f := rfl
@[simp] theorem Dev.drawn_getI (f : Fld) : d.drawn.getI f = d.getI f := rfl
@[simp] theorem Dev.drawn_bit (f : Fld) : d.drawn.bit f = d.bit f := rfl
@[simp] theorem Dev.drawn_tb (f : Fld) (i : Nat) : d.drawn.tb f i = d.tb f i := rfl
@[simp] theorem Dev.drawn_sch (c : Nat) : d.drawn.sch c = d.sch c := rfl

/-! ### `Dev.setSch` writes one Spool channel only -/

@[simp] theorem Dev.setSch_regs (c : Nat) (v : SpoolCh) : (d.setSch c v).regs = d.regs := rfl
@[simp] theorem Dev.setSch_time (c : Nat) (v : SpoolCh) : (d.setSch c v).time = d.time := rfl
@[simp] theorem Dev.setSch_frac (c : Nat) (v : SpoolCh) : (d.setSch c v).frac = d.frac := rfl
@[simp] theorem Dev.setSch_mono (c : Nat) (v : SpoolCh) : (d.setSch c v).mono = d.mono := rfl
@[simp] theorem Dev.setSch_free (c : Nat) (v : SpoolCh) : (d.setSch c v).free = d.free := rfl
@[simp] theorem Dev.setSch_lims (c : Nat) (v : SpoolCh) : (d.setSch c v).lims = d.lims := rfl
@[simp] theorem Dev.setSch_splTurn (c : Nat) (v : SpoolCh) : (d.setSch c v).splTurn = d.splTurn := rfl
@[simp] theorem Dev.setSch_jnl (c : Nat) (v : SpoolCh) : (d.setSch c v).jnl = d.jnl := rfl
@[simp] theorem Dev.setSch_pwr (c : Nat) (v : SpoolCh) : (d.setSch c v).pwr = d.pwr := rfl
@[simp] theorem Dev.setSch_boot (c : Nat) (v : SpoolCh) : (d.setSch c v).boot = d.boot := rfl
@[simp] theorem Dev.setSch_per (c : Nat) (v : SpoolCh) : (d.setSch c v).per = d.per := rfl
@[simp] theorem Dev.setSch_fo (c : Nat) (v : SpoolCh) : (d.setSch c v).fo = d.fo := rfl
@[simp] theorem Dev.setSch_fio (c : Nat) (v : SpoolCh) : (d.setSch c v).fio = d.fio := rfl
@[simp] theorem Dev.setSch_gch (c : Nat) (v : SpoolCh) : (d.setSch c v).gch = d.gch := rfl
@[simp] theorem Dev.setSch_car (c : Nat) (v : SpoolCh) : (d.setSch c v).car = d.car := rfl
@[simp] theorem Dev.setSch_clu (c : Nat) (v : SpoolCh) : (d.setSch c v).clu = d.clu := rfl
@[simp] theorem Dev.setSch_pos (c : Nat) (v : SpoolCh) : (d.setSch c v).pos = d.pos := rfl
@[simp] theorem Dev.setSch_pair (c : Nat) (v : SpoolCh) : (d.setSch c v).pair = d.pair := rfl
@[simp] theorem Dev.setSch_hem (c : Nat) (v : SpoolCh) : (d.setSch c v).hem = d.hem := rfl
@[simp] theorem Dev.setSch_tgrp (c : Nat) (v : SpoolCh) : (d.setSch c v).tgrp = d.tgrp := rfl
@[simp] theorem Dev.setSch_thm (c : Nat) (v : SpoolCh) : (d.setSch c v).thm = d.thm := rfl
@[simp] theorem Dev.setSch_axis (c : Nat) (v : SpoolCh) : (d.setSch c v).axis = d.axis := rfl
@[simp] theorem Dev.setSch_conn (c : Nat) (v : SpoolCh) : (d.setSch c v).conn = d.conn := rfl
@[simp] theorem Dev.setSch_dtm (c : Nat) (v : SpoolCh) : (d.setSch c v).dtm = d.dtm := rfl
@[simp] theorem Dev.setSch_adc (c : Nat) (v : SpoolCh) : (d.setSch c v).adc = d.adc := rfl
@[simp] theorem Dev.setSch_aux (c : Nat) (v : SpoolCh) : (d.setSch c v).aux = d.aux := rfl
@[simp] theorem Dev.setSch_refOut (c : Nat) (v : SpoolCh) : (d.setSch c v).refOut = d.refOut := rfl
@[simp] theorem Dev.setSch_img (c : Nat) (v : SpoolCh) : (d.setSch c v).img = d.img := rfl
@[simp] theorem Dev.setSch_slc (c : Nat) (v : SpoolCh) : (d.setSch c v).slc = d.slc := rfl
@[simp] theorem Dev.setSch_egr (c : Nat) (v : SpoolCh) : (d.setSch c v).egr = d.egr := rfl
@[simp] theorem Dev.setSch_port (c : Nat) (v : SpoolCh) : (d.setSch c v).port = d.port := rfl
@[simp] theorem Dev.setSch_can (c : Nat) (v : SpoolCh) : (d.setSch c v).can = d.can := rfl
@[simp] theorem Dev.setSch_dom (c : Nat) (v : SpoolCh) : (d.setSch c v).dom = d.dom := rfl
@[simp] theorem Dev.setSch_eth (c : Nat) (v : SpoolCh) : (d.setSch c v).eth = d.eth := rfl
@[simp] theorem Dev.setSch_sfl (c : Nat) (v : SpoolCh) : (d.setSch c v).sfl = d.sfl := rfl
@[simp] theorem Dev.setSch_spih (c : Nat) (v : SpoolCh) : (d.setSch c v).spih = d.spih := rfl
@[simp] theorem Dev.setSch_m0 (c : Nat) (v : SpoolCh) : (d.setSch c v).m0 = d.m0 := rfl
@[simp] theorem Dev.setSch_m1 (c : Nat) (v : SpoolCh) : (d.setSch c v).m1 = d.m1 := rfl
@[simp] theorem Dev.setSch_lu (c : Nat) (v : SpoolCh) : (d.setSch c v).lu = d.lu := rfl
@[simp] theorem Dev.setSch_nfc (c : Nat) (v : SpoolCh) : (d.setSch c v).nfc = d.nfc := rfl
@[simp] theorem Dev.setSch_flw (c : Nat) (v : SpoolCh) : (d.setSch c v).flw = d.flw := rfl
@[simp] theorem Dev.setSch_dbgTrig (c : Nat) (v : SpoolCh) : (d.setSch c v).dbgTrig = d.dbgTrig := rfl
@[simp] theorem Dev.setSch_dbg (c : Nat) (v : SpoolCh) : (d.setSch c v).dbg = d.dbg := rfl
@[simp] theorem Dev.setSch_foAt (c : Nat) (v : SpoolCh) (n : Nat) : (d.setSch c v).foAt n = d.foAt n := rfl
@[simp] theorem Dev.setSch_gchAt (c : Nat) (v : SpoolCh) (n : Nat) : (d.setSch c v).gchAt n = d.gchAt n := rfl
@[simp] theorem Dev.setSch_carAt (c : Nat) (v : SpoolCh) (n : Nat) : (d.setSch c v).carAt n = d.carAt n := rfl
@[simp] theorem Dev.setSch_cluAt (c : Nat) (v : SpoolCh) (n : Nat) : (d.setSch c v).cluAt n = d.cluAt n := rfl
@[simp] theorem Dev.setSch_posAt (c : Nat) (v : SpoolCh) (n : Nat) : (d.setSch c v).posAt n = d.posAt n := rfl
@[simp] theorem Dev.setSch_pairAt (c : Nat) (v : SpoolCh) (n : Nat) : (d.setSch c v).pairAt n = d.pairAt n := rfl
@[simp] theorem Dev.setSch_tgrpAt (c : Nat) (v : SpoolCh) (n : Nat) : (d.setSch c v).tgrpAt n = d.tgrpAt n := rfl
@[simp] theorem Dev.setSch_axisAt (c : Nat) (v : SpoolCh) (n : Nat) : (d.setSch c v).axisAt n = d.axisAt n := rfl
@[simp] theorem Dev.setSch_connAt (c : Nat) (v : SpoolCh) (n : Nat) : (d.setSch c v).connAt n = d.connAt n := rfl
@[simp] theorem Dev.setSch_adcAt (c : Nat) (v : SpoolCh) (n : Nat) : (d.setSch c v).adcAt n = d.adcAt n := rfl
@[simp] theorem Dev.setSch_auxAt (c : Nat) (v : SpoolCh) (n : Nat) : (d.setSch c v).auxAt n = d.auxAt n := rfl
@[simp] theorem Dev.setSch_slcAt (c : Nat) (v : SpoolCh) (n : Nat) : (d.setSch c v).slcAt n = d.slcAt n := rfl
@[simp] theorem Dev.setSch_egrAt (c : Nat) (v : SpoolCh) (n : Nat) : (d.setSch c v).egrAt n = d.egrAt n := rfl
@[simp] theorem Dev.setSch_portAt (c : Nat) (v : SpoolCh) (n : Nat) : (d.setSch c v).portAt n = d.portAt n := rfl
@[simp] theorem Dev.setSch_canAt (c : Nat) (v : SpoolCh) (n : Nat) : (d.setSch c v).canAt n = d.canAt n := rfl
@[simp] theorem Dev.setSch_luAt (c : Nat) (v : SpoolCh) (n : Nat) : (d.setSch c v).luAt n = d.luAt n := rfl
@[simp] theorem Dev.setSch_reg (c : Nat) (v : SpoolCh) (a : Nat) : (d.setSch c v).reg a = d.reg a := rfl
@[simp] theorem Dev.setSch_get (c : Nat) (v : SpoolCh) (f : Fld) : (d.setSch c v).get f = d.get f := rfl
@[simp] theorem Dev.setSch_bit (c : Nat) (v : SpoolCh) (f : Fld) : (d.setSch c v).bit f = d.bit f := rfl

/-! ### `Dev.foUpd` writes the records `fo` only -/

@[simp] theorem Dev.foUpd_regs (m : Nat) (g : Fo → Fo) : (d.foUpd m g).regs = d.regs := rfl
@[simp] theorem Dev.foUpd_time (m : Nat) (g : Fo → Fo) : (d.foUpd m g).time = d.time := rfl
@[simp] theorem Dev.foUpd_frac (m : Nat) (g : Fo → Fo) : (d.foUpd m g).frac = d.frac := rfl
@[simp] theorem Dev.foUpd_mono (m : Nat) (g : Fo → Fo) : (d.foUpd m g).mono = d.mono := rfl
@[simp] theorem Dev.foUpd_free (m : Nat) (g : Fo → Fo) : (d.foUpd m g).free = d.free := rfl
@[simp] theorem Dev.foUpd_lims (m : Nat) (g : Fo → Fo) : (d.foUpd m g).lims = d.lims := rfl
@[simp] theorem Dev.foUpd_spool (m : Nat) (g : Fo → Fo) : (d.foUpd m g).spool = d.spool := rfl
@[simp] theorem Dev.foUpd_splTurn (m : Nat) (g : Fo → Fo) : (d.foUpd m g).splTurn = d.splTurn := rfl
@[simp] theorem Dev.foUpd_jnl (m : Nat) (g : Fo → Fo) : (d.foUpd m g).jnl = d.jnl := rfl
@[simp] theorem Dev.foUpd_pwr (m : Nat) (g : Fo → Fo) : (d.foUpd m g).pwr = d.pwr := rfl
@[simp] theorem Dev.foUpd_boot (m : Nat) (g : Fo → Fo) : (d.foUpd m g).boot = d.boot := rfl
@[simp] theorem Dev.foUpd_per (m : Nat) (g : Fo → Fo) : (d.foUpd m g).per = d.per := rfl
@[simp] theorem Dev.foUpd_fio (m : Nat) (g : Fo → Fo) : (d.foUpd m g).fio = d.fio := rfl
@[simp] theorem Dev.foUpd_gch (m : Nat) (g : Fo → Fo) : (d.foUpd m g).gch = d.gch := rfl
@[simp] theorem Dev.foUpd_car (m : Nat) (g : Fo → Fo) : (d.foUpd m g).car = d.car := rfl
@[simp] theorem Dev.foUpd_clu (m : Nat) (g : Fo → Fo) : (d.foUpd m g).clu = d.clu := rfl
@[simp] theorem Dev.foUpd_pos (m : Nat) (g : Fo → Fo) : (d.foUpd m g).pos = d.pos := rfl
@[simp] theorem Dev.foUpd_pair (m : Nat) (g : Fo → Fo) : (d.foUpd m g).pair = d.pair := rfl
@[simp] theorem Dev.foUpd_hem (m : Nat) (g : Fo → Fo) : (d.foUpd m g).hem = d.hem := rfl
@[simp] theorem Dev.foUpd_tgrp (m : Nat) (g : Fo → Fo) : (d.foUpd m g).tgrp = d.tgrp := rfl
@[simp] theorem Dev.foUpd_thm (m : Nat) (g : Fo → Fo) : (d.foUpd m g).thm = d.thm := rfl
@[simp] theorem Dev.foUpd_axis (m : Nat) (g : Fo → Fo) : (d.foUpd m g).axis = d.axis := rfl
@[simp] theorem Dev.foUpd_conn (m : Nat) (g : Fo → Fo) : (d.foUpd m g).conn = d.conn := rfl
@[simp] theorem Dev.foUpd_dtm (m : Nat) (g : Fo → Fo) : (d.foUpd m g).dtm = d.dtm := rfl
@[simp] theorem Dev.foUpd_adc (m : Nat) (g : Fo → Fo) : (d.foUpd m g).adc = d.adc := rfl
@[simp] theorem Dev.foUpd_aux (m : Nat) (g : Fo → Fo) : (d.foUpd m g).aux = d.aux := rfl
@[simp] theorem Dev.foUpd_refOut (m : Nat) (g : Fo → Fo) : (d.foUpd m g).refOut = d.refOut := rfl
@[simp] theorem Dev.foUpd_img (m : Nat) (g : Fo → Fo) : (d.foUpd m g).img = d.img := rfl
@[simp] theorem Dev.foUpd_slc (m : Nat) (g : Fo → Fo) : (d.foUpd m g).slc = d.slc := rfl
@[simp] theorem Dev.foUpd_egr (m : Nat) (g : Fo → Fo) : (d.foUpd m g).egr = d.egr := rfl
@[simp] theorem Dev.foUpd_port (m : Nat) (g : Fo → Fo) : (d.foUpd m g).port = d.port := rfl
@[simp] theorem Dev.foUpd_can (m : Nat) (g : Fo → Fo) : (d.foUpd m g).can = d.can := rfl
@[simp] theorem Dev.foUpd_dom (m : Nat) (g : Fo → Fo) : (d.foUpd m g).dom = d.dom := rfl
@[simp] theorem Dev.foUpd_eth (m : Nat) (g : Fo → Fo) : (d.foUpd m g).eth = d.eth := rfl
@[simp] theorem Dev.foUpd_sfl (m : Nat) (g : Fo → Fo) : (d.foUpd m g).sfl = d.sfl := rfl
@[simp] theorem Dev.foUpd_spih (m : Nat) (g : Fo → Fo) : (d.foUpd m g).spih = d.spih := rfl
@[simp] theorem Dev.foUpd_m0 (m : Nat) (g : Fo → Fo) : (d.foUpd m g).m0 = d.m0 := rfl
@[simp] theorem Dev.foUpd_m1 (m : Nat) (g : Fo → Fo) : (d.foUpd m g).m1 = d.m1 := rfl
@[simp] theorem Dev.foUpd_lu (m : Nat) (g : Fo → Fo) : (d.foUpd m g).lu = d.lu := rfl
@[simp] theorem Dev.foUpd_nfc (m : Nat) (g : Fo → Fo) : (d.foUpd m g).nfc = d.nfc := rfl
@[simp] theorem Dev.foUpd_flw (m : Nat) (g : Fo → Fo) : (d.foUpd m g).flw = d.flw := rfl
@[simp] theorem Dev.foUpd_dbgTrig (m : Nat) (g : Fo → Fo) : (d.foUpd m g).dbgTrig = d.dbgTrig := rfl
@[simp] theorem Dev.foUpd_dbg (m : Nat) (g : Fo → Fo) : (d.foUpd m g).dbg = d.dbg := rfl
@[simp] theorem Dev.foUpd_gchAt (m : Nat) (g : Fo → Fo) (n : Nat) : (d.foUpd m g).gchAt n = d.gchAt n := rfl
@[simp] theorem Dev.foUpd_carAt (m : Nat) (g : Fo → Fo) (n : Nat) : (d.foUpd m g).carAt n = d.carAt n := rfl
@[simp] theorem Dev.foUpd_cluAt (m : Nat) (g : Fo → Fo) (n : Nat) : (d.foUpd m g).cluAt n = d.cluAt n := rfl
@[simp] theorem Dev.foUpd_posAt (m : Nat) (g : Fo → Fo) (n : Nat) : (d.foUpd m g).posAt n = d.posAt n := rfl
@[simp] theorem Dev.foUpd_pairAt (m : Nat) (g : Fo → Fo) (n : Nat) : (d.foUpd m g).pairAt n = d.pairAt n := rfl
@[simp] theorem Dev.foUpd_tgrpAt (m : Nat) (g : Fo → Fo) (n : Nat) : (d.foUpd m g).tgrpAt n = d.tgrpAt n := rfl
@[simp] theorem Dev.foUpd_axisAt (m : Nat) (g : Fo → Fo) (n : Nat) : (d.foUpd m g).axisAt n = d.axisAt n := rfl
@[simp] theorem Dev.foUpd_connAt (m : Nat) (g : Fo → Fo) (n : Nat) : (d.foUpd m g).connAt n = d.connAt n := rfl
@[simp] theorem Dev.foUpd_adcAt (m : Nat) (g : Fo → Fo) (n : Nat) : (d.foUpd m g).adcAt n = d.adcAt n := rfl
@[simp] theorem Dev.foUpd_auxAt (m : Nat) (g : Fo → Fo) (n : Nat) : (d.foUpd m g).auxAt n = d.auxAt n := rfl
@[simp] theorem Dev.foUpd_slcAt (m : Nat) (g : Fo → Fo) (n : Nat) : (d.foUpd m g).slcAt n = d.slcAt n := rfl
@[simp] theorem Dev.foUpd_egrAt (m : Nat) (g : Fo → Fo) (n : Nat) : (d.foUpd m g).egrAt n = d.egrAt n := rfl
@[simp] theorem Dev.foUpd_portAt (m : Nat) (g : Fo → Fo) (n : Nat) : (d.foUpd m g).portAt n = d.portAt n := rfl
@[simp] theorem Dev.foUpd_canAt (m : Nat) (g : Fo → Fo) (n : Nat) : (d.foUpd m g).canAt n = d.canAt n := rfl
@[simp] theorem Dev.foUpd_luAt (m : Nat) (g : Fo → Fo) (n : Nat) : (d.foUpd m g).luAt n = d.luAt n := rfl
@[simp] theorem Dev.foUpd_reg (m : Nat) (g : Fo → Fo) (a : Nat) : (d.foUpd m g).reg a = d.reg a := rfl
@[simp] theorem Dev.foUpd_get (m : Nat) (g : Fo → Fo) (f : Fld) : (d.foUpd m g).get f = d.get f := rfl
@[simp] theorem Dev.foUpd_getI (m : Nat) (g : Fo → Fo) (f : Fld) : (d.foUpd m g).getI f = d.getI f := rfl
@[simp] theorem Dev.foUpd_bit (m : Nat) (g : Fo → Fo) (f : Fld) : (d.foUpd m g).bit f = d.bit f := rfl
@[simp] theorem Dev.foUpd_tb (m : Nat) (g : Fo → Fo) (f : Fld) (i : Nat) : (d.foUpd m g).tb f i = d.tb f i := rfl
@[simp] theorem Dev.foUpd_sch (m : Nat) (g : Fo → Fo) (c : Nat) : (d.foUpd m g).sch c = d.sch c := rfl

/-! ### `Dev.gchUpd` writes the records `gch` only -/

@[simp] theorem Dev.gchUpd_regs (m : Nat) (g : Gch → Gch) : (d.gchUpd m g).regs = d.regs := rfl
@[simp] theorem Dev.gchUpd_time (m : Nat) (g : Gch → Gch) : (d.gchUpd m g).time = d.time := rfl
@[simp] theorem Dev.gchUpd_frac (m : Nat) (g : Gch → Gch) : (d.gchUpd m g).frac = d.frac := rfl
@[simp] theorem Dev.gchUpd_mono (m : Nat) (g : Gch → Gch) : (d.gchUpd m g).mono = d.mono := rfl
@[simp] theorem Dev.gchUpd_free (m : Nat) (g : Gch → Gch) : (d.gchUpd m g).free = d.free := rfl
@[simp] theorem Dev.gchUpd_lims (m : Nat) (g : Gch → Gch) : (d.gchUpd m g).lims = d.lims := rfl
@[simp] theorem Dev.gchUpd_spool (m : Nat) (g : Gch → Gch) : (d.gchUpd m g).spool = d.spool := rfl
@[simp] theorem Dev.gchUpd_splTurn (m : Nat) (g : Gch → Gch) : (d.gchUpd m g).splTurn = d.splTurn := rfl
@[simp] theorem Dev.gchUpd_jnl (m : Nat) (g : Gch → Gch) : (d.gchUpd m g).jnl = d.jnl := rfl
@[simp] theorem Dev.gchUpd_pwr (m : Nat) (g : Gch → Gch) : (d.gchUpd m g).pwr = d.pwr := rfl
@[simp] theorem Dev.gchUpd_boot (m : Nat) (g : Gch → Gch) : (d.gchUpd m g).boot = d.boot := rfl
@[simp] theorem Dev.gchUpd_per (m : Nat) (g : Gch → Gch) : (d.gchUpd m g).per = d.per := rfl
@[simp] theorem Dev.gchUpd_fo (m : Nat) (g : Gch → Gch) : (d.gchUpd m g).fo = d.fo := rfl
@[simp] theorem Dev.gchUpd_fio (m : Nat) (g : Gch → Gch) : (d.gchUpd m g).fio = d.fio := rfl
@[simp] theorem Dev.gchUpd_car (m : Nat) (g : Gch → Gch) : (d.gchUpd m g).car = d.car := rfl
@[simp] theorem Dev.gchUpd_clu (m : Nat) (g : Gch → Gch) : (d.gchUpd m g).clu = d.clu := rfl
@[simp] theorem Dev.gchUpd_pos (m : Nat) (g : Gch → Gch) : (d.gchUpd m g).pos = d.pos := rfl
@[simp] theorem Dev.gchUpd_pair (m : Nat) (g : Gch → Gch) : (d.gchUpd m g).pair = d.pair := rfl
@[simp] theorem Dev.gchUpd_hem (m : Nat) (g : Gch → Gch) : (d.gchUpd m g).hem = d.hem := rfl
@[simp] theorem Dev.gchUpd_tgrp (m : Nat) (g : Gch → Gch) : (d.gchUpd m g).tgrp = d.tgrp := rfl
@[simp] theorem Dev.gchUpd_thm (m : Nat) (g : Gch → Gch) : (d.gchUpd m g).thm = d.thm := rfl
@[simp] theorem Dev.gchUpd_axis (m : Nat) (g : Gch → Gch) : (d.gchUpd m g).axis = d.axis := rfl
@[simp] theorem Dev.gchUpd_conn (m : Nat) (g : Gch → Gch) : (d.gchUpd m g).conn = d.conn := rfl
@[simp] theorem Dev.gchUpd_dtm (m : Nat) (g : Gch → Gch) : (d.gchUpd m g).dtm = d.dtm := rfl
@[simp] theorem Dev.gchUpd_adc (m : Nat) (g : Gch → Gch) : (d.gchUpd m g).adc = d.adc := rfl
@[simp] theorem Dev.gchUpd_aux (m : Nat) (g : Gch → Gch) : (d.gchUpd m g).aux = d.aux := rfl
@[simp] theorem Dev.gchUpd_refOut (m : Nat) (g : Gch → Gch) : (d.gchUpd m g).refOut = d.refOut := rfl
@[simp] theorem Dev.gchUpd_img (m : Nat) (g : Gch → Gch) : (d.gchUpd m g).img = d.img := rfl
@[simp] theorem Dev.gchUpd_slc (m : Nat) (g : Gch → Gch) : (d.gchUpd m g).slc = d.slc := rfl
@[simp] theorem Dev.gchUpd_egr (m : Nat) (g : Gch → Gch) : (d.gchUpd m g).egr = d.egr := rfl
@[simp] theorem Dev.gchUpd_port (m : Nat) (g : Gch → Gch) : (d.gchUpd m g).port = d.port := rfl
@[simp] theorem Dev.gchUpd_can (m : Nat) (g : Gch → Gch) : (d.gchUpd m g).can = d.can := rfl
@[simp] theorem Dev.gchUpd_dom (m : Nat) (g : Gch → Gch) : (d.gchUpd m g).dom = d.dom := rfl
@[simp] theorem Dev.gchUpd_eth (m : Nat) (g : Gch → Gch) : (d.gchUpd m g).eth = d.eth := rfl
@[simp] theorem Dev.gchUpd_sfl (m : Nat) (g : Gch → Gch) : (d.gchUpd m g).sfl = d.sfl := rfl
@[simp] theorem Dev.gchUpd_spih (m : Nat) (g : Gch → Gch) : (d.gchUpd m g).spih = d.spih := rfl
@[simp] theorem Dev.gchUpd_m0 (m : Nat) (g : Gch → Gch) : (d.gchUpd m g).m0 = d.m0 := rfl
@[simp] theorem Dev.gchUpd_m1 (m : Nat) (g : Gch → Gch) : (d.gchUpd m g).m1 = d.m1 := rfl
@[simp] theorem Dev.gchUpd_lu (m : Nat) (g : Gch → Gch) : (d.gchUpd m g).lu = d.lu := rfl
@[simp] theorem Dev.gchUpd_nfc (m : Nat) (g : Gch → Gch) : (d.gchUpd m g).nfc = d.nfc := rfl
@[simp] theorem Dev.gchUpd_flw (m : Nat) (g : Gch → Gch) : (d.gchUpd m g).flw = d.flw := rfl
@[simp] theorem Dev.gchUpd_dbgTrig (m : Nat) (g : Gch → Gch) : (d.gchUpd m g).dbgTrig = d.dbgTrig := rfl
@[simp] theorem Dev.gchUpd_dbg (m : Nat) (g : Gch → Gch) : (d.gchUpd m g).dbg = d.dbg := rfl
@[simp] theorem Dev.gchUpd_foAt (m : Nat) (g : Gch → Gch) (n : Nat) : (d.gchUpd m g).foAt n = d.foAt n := rfl
@[simp] theorem Dev.gchUpd_carAt (m : Nat) (g : Gch → Gch) (n : Nat) : (d.gchUpd m g).carAt n = d.carAt n := rfl
@[simp] theorem Dev.gchUpd_cluAt (m : Nat) (g : Gch → Gch) (n : Nat) : (d.gchUpd m g).cluAt n = d.cluAt n := rfl
@[simp] theorem Dev.gchUpd_posAt (m : Nat) (g : Gch → Gch) (n : Nat) : (d.gchUpd m g).posAt n = d.posAt n := rfl
@[simp] theorem Dev.gchUpd_pairAt (m : Nat) (g : Gch → Gch) (n : Nat) : (d.gchUpd m g).pairAt n = d.pairAt n := rfl
@[simp] theorem Dev.gchUpd_tgrpAt (m : Nat) (g : Gch → Gch) (n : Nat) : (d.gchUpd m g).tgrpAt n = d.tgrpAt n := rfl
@[simp] theorem Dev.gchUpd_axisAt (m : Nat) (g : Gch → Gch) (n : Nat) : (d.gchUpd m g).axisAt n = d.axisAt n := rfl
@[simp] theorem Dev.gchUpd_connAt (m : Nat) (g : Gch → Gch) (n : Nat) : (d.gchUpd m g).connAt n = d.connAt n := rfl
@[simp] theorem Dev.gchUpd_adcAt (m : Nat) (g : Gch → Gch) (n : Nat) : (d.gchUpd m g).adcAt n = d.adcAt n := rfl
@[simp] theorem Dev.gchUpd_auxAt (m : Nat) (g : Gch → Gch) (n : Nat) : (d.gchUpd m g).auxAt n = d.auxAt n := rfl
@[simp] theorem Dev.gchUpd_slcAt (m : Nat) (g : Gch → Gch) (n : Nat) : (d.gchUpd m g).slcAt n = d.slcAt n := rfl
@[simp] theorem Dev.gchUpd_egrAt (m : Nat) (g : Gch → Gch) (n : Nat) : (d.gchUpd m g).egrAt n = d.egrAt n := rfl
@[simp] theorem Dev.gchUpd_portAt (m : Nat) (g : Gch → Gch) (n : Nat) : (d.gchUpd m g).portAt n = d.portAt n := rfl
@[simp] theorem Dev.gchUpd_canAt (m : Nat) (g : Gch → Gch) (n : Nat) : (d.gchUpd m g).canAt n = d.canAt n := rfl
@[simp] theorem Dev.gchUpd_luAt (m : Nat) (g : Gch → Gch) (n : Nat) : (d.gchUpd m g).luAt n = d.luAt n := rfl
@[simp] theorem Dev.gchUpd_reg (m : Nat) (g : Gch → Gch) (a : Nat) : (d.gchUpd m g).reg a = d.reg a := rfl
@[simp] theorem Dev.gchUpd_get (m : Nat) (g : Gch → Gch) (f : Fld) : (d.gchUpd m g).get f = d.get f := rfl
@[simp] theorem Dev.gchUpd_getI (m : Nat) (g : Gch → Gch) (f : Fld) : (d.gchUpd m g).getI f = d.getI f := rfl
@[simp] theorem Dev.gchUpd_bit (m : Nat) (g : Gch → Gch) (f : Fld) : (d.gchUpd m g).bit f = d.bit f := rfl
@[simp] theorem Dev.gchUpd_tb (m : Nat) (g : Gch → Gch) (f : Fld) (i : Nat) : (d.gchUpd m g).tb f i = d.tb f i := rfl
@[simp] theorem Dev.gchUpd_sch (m : Nat) (g : Gch → Gch) (c : Nat) : (d.gchUpd m g).sch c = d.sch c := rfl

/-! ### `Dev.carUpd` writes the records `car` only -/

@[simp] theorem Dev.carUpd_regs (m : Nat) (g : Car → Car) : (d.carUpd m g).regs = d.regs := rfl
@[simp] theorem Dev.carUpd_time (m : Nat) (g : Car → Car) : (d.carUpd m g).time = d.time := rfl
@[simp] theorem Dev.carUpd_frac (m : Nat) (g : Car → Car) : (d.carUpd m g).frac = d.frac := rfl
@[simp] theorem Dev.carUpd_mono (m : Nat) (g : Car → Car) : (d.carUpd m g).mono = d.mono := rfl
@[simp] theorem Dev.carUpd_free (m : Nat) (g : Car → Car) : (d.carUpd m g).free = d.free := rfl
@[simp] theorem Dev.carUpd_lims (m : Nat) (g : Car → Car) : (d.carUpd m g).lims = d.lims := rfl
@[simp] theorem Dev.carUpd_spool (m : Nat) (g : Car → Car) : (d.carUpd m g).spool = d.spool := rfl
@[simp] theorem Dev.carUpd_splTurn (m : Nat) (g : Car → Car) : (d.carUpd m g).splTurn = d.splTurn := rfl
@[simp] theorem Dev.carUpd_jnl (m : Nat) (g : Car → Car) : (d.carUpd m g).jnl = d.jnl := rfl
@[simp] theorem Dev.carUpd_pwr (m : Nat) (g : Car → Car) : (d.carUpd m g).pwr = d.pwr := rfl
@[simp] theorem Dev.carUpd_boot (m : Nat) (g : Car → Car) : (d.carUpd m g).boot = d.boot := rfl
@[simp] theorem Dev.carUpd_per (m : Nat) (g : Car → Car) : (d.carUpd m g).per = d.per := rfl
@[simp] theorem Dev.carUpd_fo (m : Nat) (g : Car → Car) : (d.carUpd m g).fo = d.fo := rfl
@[simp] theorem Dev.carUpd_fio (m : Nat) (g : Car → Car) : (d.carUpd m g).fio = d.fio := rfl
@[simp] theorem Dev.carUpd_gch (m : Nat) (g : Car → Car) : (d.carUpd m g).gch = d.gch := rfl
@[simp] theorem Dev.carUpd_clu (m : Nat) (g : Car → Car) : (d.carUpd m g).clu = d.clu := rfl
@[simp] theorem Dev.carUpd_pos (m : Nat) (g : Car → Car) : (d.carUpd m g).pos = d.pos := rfl
@[simp] theorem Dev.carUpd_pair (m : Nat) (g : Car → Car) : (d.carUpd m g).pair = d.pair := rfl
@[simp] theorem Dev.carUpd_hem (m : Nat) (g : Car → Car) : (d.carUpd m g).hem = d.hem := rfl
@[simp] theorem Dev.carUpd_tgrp (m : Nat) (g : Car → Car) : (d.carUpd m g).tgrp = d.tgrp := rfl
@[simp] theorem Dev.carUpd_thm (m : Nat) (g : Car → Car) : (d.carUpd m g).thm = d.thm := rfl
@[simp] theorem Dev.carUpd_axis (m : Nat) (g : Car → Car) : (d.carUpd m g).axis = d.axis := rfl
@[simp] theorem Dev.carUpd_conn (m : Nat) (g : Car → Car) : (d.carUpd m g).conn = d.conn := rfl
@[simp] theorem Dev.carUpd_dtm (m : Nat) (g : Car → Car) : (d.carUpd m g).dtm = d.dtm := rfl
@[simp] theorem Dev.carUpd_adc (m : Nat) (g : Car → Car) : (d.carUpd m g).adc = d.adc := rfl
@[simp] theorem Dev.carUpd_aux (m : Nat) (g : Car → Car) : (d.carUpd m g).aux = d.aux := rfl
@[simp] theorem Dev.carUpd_refOut (m : Nat) (g : Car → Car) : (d.carUpd m g).refOut = d.refOut := rfl
@[simp] theorem Dev.carUpd_img (m : Nat) (g : Car → Car) : (d.carUpd m g).img = d.img := rfl
@[simp] theorem Dev.carUpd_slc (m : Nat) (g : Car → Car) : (d.carUpd m g).slc = d.slc := rfl
@[simp] theorem Dev.carUpd_egr (m : Nat) (g : Car → Car) : (d.carUpd m g).egr = d.egr := rfl
@[simp] theorem Dev.carUpd_port (m : Nat) (g : Car → Car) : (d.carUpd m g).port = d.port := rfl
@[simp] theorem Dev.carUpd_can (m : Nat) (g : Car → Car) : (d.carUpd m g).can = d.can := rfl
@[simp] theorem Dev.carUpd_dom (m : Nat) (g : Car → Car) : (d.carUpd m g).dom = d.dom := rfl
@[simp] theorem Dev.carUpd_eth (m : Nat) (g : Car → Car) : (d.carUpd m g).eth = d.eth := rfl
@[simp] theorem Dev.carUpd_sfl (m : Nat) (g : Car → Car) : (d.carUpd m g).sfl = d.sfl := rfl
@[simp] theorem Dev.carUpd_spih (m : Nat) (g : Car → Car) : (d.carUpd m g).spih = d.spih := rfl
@[simp] theorem Dev.carUpd_m0 (m : Nat) (g : Car → Car) : (d.carUpd m g).m0 = d.m0 := rfl
@[simp] theorem Dev.carUpd_m1 (m : Nat) (g : Car → Car) : (d.carUpd m g).m1 = d.m1 := rfl
@[simp] theorem Dev.carUpd_lu (m : Nat) (g : Car → Car) : (d.carUpd m g).lu = d.lu := rfl
@[simp] theorem Dev.carUpd_nfc (m : Nat) (g : Car → Car) : (d.carUpd m g).nfc = d.nfc := rfl
@[simp] theorem Dev.carUpd_flw (m : Nat) (g : Car → Car) : (d.carUpd m g).flw = d.flw := rfl
@[simp] theorem Dev.carUpd_dbgTrig (m : Nat) (g : Car → Car) : (d.carUpd m g).dbgTrig = d.dbgTrig := rfl
@[simp] theorem Dev.carUpd_dbg (m : Nat) (g : Car → Car) : (d.carUpd m g).dbg = d.dbg := rfl
@[simp] theorem Dev.carUpd_foAt (m : Nat) (g : Car → Car) (n : Nat) : (d.carUpd m g).foAt n = d.foAt n := rfl
@[simp] theorem Dev.carUpd_gchAt (m : Nat) (g : Car → Car) (n : Nat) : (d.carUpd m g).gchAt n = d.gchAt n := rfl
@[simp] theorem Dev.carUpd_cluAt (m : Nat) (g : Car → Car) (n : Nat) : (d.carUpd m g).cluAt n = d.cluAt n := rfl
@[simp] theorem Dev.carUpd_posAt (m : Nat) (g : Car → Car) (n : Nat) : (d.carUpd m g).posAt n = d.posAt n := rfl
@[simp] theorem Dev.carUpd_pairAt (m : Nat) (g : Car → Car) (n : Nat) : (d.carUpd m g).pairAt n = d.pairAt n := rfl
@[simp] theorem Dev.carUpd_tgrpAt (m : Nat) (g : Car → Car) (n : Nat) : (d.carUpd m g).tgrpAt n = d.tgrpAt n := rfl
@[simp] theorem Dev.carUpd_axisAt (m : Nat) (g : Car → Car) (n : Nat) : (d.carUpd m g).axisAt n = d.axisAt n := rfl
@[simp] theorem Dev.carUpd_connAt (m : Nat) (g : Car → Car) (n : Nat) : (d.carUpd m g).connAt n = d.connAt n := rfl
@[simp] theorem Dev.carUpd_adcAt (m : Nat) (g : Car → Car) (n : Nat) : (d.carUpd m g).adcAt n = d.adcAt n := rfl
@[simp] theorem Dev.carUpd_auxAt (m : Nat) (g : Car → Car) (n : Nat) : (d.carUpd m g).auxAt n = d.auxAt n := rfl
@[simp] theorem Dev.carUpd_slcAt (m : Nat) (g : Car → Car) (n : Nat) : (d.carUpd m g).slcAt n = d.slcAt n := rfl
@[simp] theorem Dev.carUpd_egrAt (m : Nat) (g : Car → Car) (n : Nat) : (d.carUpd m g).egrAt n = d.egrAt n := rfl
@[simp] theorem Dev.carUpd_portAt (m : Nat) (g : Car → Car) (n : Nat) : (d.carUpd m g).portAt n = d.portAt n := rfl
@[simp] theorem Dev.carUpd_canAt (m : Nat) (g : Car → Car) (n : Nat) : (d.carUpd m g).canAt n = d.canAt n := rfl
@[simp] theorem Dev.carUpd_luAt (m : Nat) (g : Car → Car) (n : Nat) : (d.carUpd m g).luAt n = d.luAt n := rfl
@[simp] theorem Dev.carUpd_reg (m : Nat) (g : Car → Car) (a : Nat) : (d.carUpd m g).reg a = d.reg a := rfl
@[simp] theorem Dev.carUpd_get (m : Nat) (g : Car → Car) (f : Fld) : (d.carUpd m g).get f = d.get f := rfl
@[simp] theorem Dev.carUpd_getI (m : Nat) (g : Car → Car) (f : Fld) : (d.carUpd m g).getI f = d.getI f := rfl
@[simp] theorem Dev.carUpd_bit (m : Nat) (g : Car → Car) (f : Fld) : (d.carUpd m g).bit f = d.bit f := rfl
@[simp] theorem Dev.carUpd_tb (m : Nat) (g : Car → Car) (f : Fld) (i : Nat) : (d.carUpd m g).tb f i = d.tb f i := rfl
@[simp] theorem Dev.carUpd_sch (m : Nat) (g : Car → Car) (c : Nat) : (d.carUpd m g).sch c = d.sch c := rfl

/-! ### `Dev.cluUpd` writes the records `clu` only -/

@[simp] theorem Dev.cluUpd_regs (m : Nat) (g : Clu → Clu) : (d.cluUpd m g).regs = d.regs := rfl
@[simp] theorem Dev.cluUpd_time (m : Nat) (g : Clu → Clu) : (d.cluUpd m g).time = d.time := rfl
@[simp] theorem Dev.cluUpd_frac (m : Nat) (g : Clu → Clu) : (d.cluUpd m g).frac = d.frac := rfl
@[simp] theorem Dev.cluUpd_mono (m : Nat) (g : Clu → Clu) : (d.cluUpd m g).mono = d.mono := rfl
@[simp] theorem Dev.cluUpd_free (m : Nat) (g : Clu → Clu) : (d.cluUpd m g).free = d.free := rfl
@[simp] theorem Dev.cluUpd_lims (m : Nat) (g : Clu → Clu) : (d.cluUpd m g).lims = d.lims := rfl
@[simp] theorem Dev.cluUpd_spool (m : Nat) (g : Clu → Clu) : (d.cluUpd m g).spool = d.spool := rfl
@[simp] theorem Dev.cluUpd_splTurn (m : Nat) (g : Clu → Clu) : (d.cluUpd m g).splTurn = d.splTurn := rfl
@[simp] theorem Dev.cluUpd_jnl (m : Nat) (g : Clu → Clu) : (d.cluUpd m g).jnl = d.jnl := rfl
@[simp] theorem Dev.cluUpd_pwr (m : Nat) (g : Clu → Clu) : (d.cluUpd m g).pwr = d.pwr := rfl
@[simp] theorem Dev.cluUpd_boot (m : Nat) (g : Clu → Clu) : (d.cluUpd m g).boot = d.boot := rfl
@[simp] theorem Dev.cluUpd_per (m : Nat) (g : Clu → Clu) : (d.cluUpd m g).per = d.per := rfl
@[simp] theorem Dev.cluUpd_fo (m : Nat) (g : Clu → Clu) : (d.cluUpd m g).fo = d.fo := rfl
@[simp] theorem Dev.cluUpd_fio (m : Nat) (g : Clu → Clu) : (d.cluUpd m g).fio = d.fio := rfl
@[simp] theorem Dev.cluUpd_gch (m : Nat) (g : Clu → Clu) : (d.cluUpd m g).gch = d.gch := rfl
@[simp] theorem Dev.cluUpd_car (m : Nat) (g : Clu → Clu) : (d.cluUpd m g).car = d.car := rfl
@[simp] theorem Dev.cluUpd_pos (m : Nat) (g : Clu → Clu) : (d.cluUpd m g).pos = d.pos := rfl
@[simp] theorem Dev.cluUpd_pair (m : Nat) (g : Clu → Clu) : (d.cluUpd m g).pair = d.pair := rfl
@[simp] theorem Dev.cluUpd_hem (m : Nat) (g : Clu → Clu) : (d.cluUpd m g).hem = d.hem := rfl
@[simp] theorem Dev.cluUpd_tgrp (m : Nat) (g : Clu → Clu) : (d.cluUpd m g).tgrp = d.tgrp := rfl
@[simp] theorem Dev.cluUpd_thm (m : Nat) (g : Clu → Clu) : (d.cluUpd m g).thm = d.thm := rfl
@[simp] theorem Dev.cluUpd_axis (m : Nat) (g : Clu → Clu) : (d.cluUpd m g).axis = d.axis := rfl
@[simp] theorem Dev.cluUpd_conn (m : Nat) (g : Clu → Clu) : (d.cluUpd m g).conn = d.conn := rfl
@[simp] theorem Dev.cluUpd_dtm (m : Nat) (g : Clu → Clu) : (d.cluUpd m g).dtm = d.dtm := rfl
@[simp] theorem Dev.cluUpd_adc (m : Nat) (g : Clu → Clu) : (d.cluUpd m g).adc = d.adc := rfl
@[simp] theorem Dev.cluUpd_aux (m : Nat) (g : Clu → Clu) : (d.cluUpd m g).aux = d.aux := rfl
@[simp] theorem Dev.cluUpd_refOut (m : Nat) (g : Clu → Clu) : (d.cluUpd m g).refOut = d.refOut := rfl
@[simp] theorem Dev.cluUpd_img (m : Nat) (g : Clu → Clu) : (d.cluUpd m g).img = d.img := rfl
@[simp] theorem Dev.cluUpd_slc (m : Nat) (g : Clu → Clu) : (d.cluUpd m g).slc = d.slc := rfl
@[simp] theorem Dev.cluUpd_egr (m : Nat) (g : Clu → Clu) : (d.cluUpd m g).egr = d.egr := rfl
@[simp] theorem Dev.cluUpd_port (m : Nat) (g : Clu → Clu) : (d.cluUpd m g).port = d.port := rfl
@[simp] theorem Dev.cluUpd_can (m : Nat) (g : Clu → Clu) : (d.cluUpd m g).can = d.can := rfl
@[simp] theorem Dev.cluUpd_dom (m : Nat) (g : Clu → Clu) : (d.cluUpd m g).dom = d.dom := rfl
@[simp] theorem Dev.cluUpd_eth (m : Nat) (g : Clu → Clu) : (d.cluUpd m g).eth = d.eth := rfl
@[simp] theorem Dev.cluUpd_sfl (m : Nat) (g : Clu → Clu) : (d.cluUpd m g).sfl = d.sfl := rfl
@[simp] theorem Dev.cluUpd_spih (m : Nat) (g : Clu → Clu) : (d.cluUpd m g).spih = d.spih := rfl
@[simp] theorem Dev.cluUpd_m0 (m : Nat) (g : Clu → Clu) : (d.cluUpd m g).m0 = d.m0 := rfl
@[simp] theorem Dev.cluUpd_m1 (m : Nat) (g : Clu → Clu) : (d.cluUpd m g).m1 = d.m1 := rfl
@[simp] theorem Dev.cluUpd_lu (m : Nat) (g : Clu → Clu) : (d.cluUpd m g).lu = d.lu := rfl
@[simp] theorem Dev.cluUpd_nfc (m : Nat) (g : Clu → Clu) : (d.cluUpd m g).nfc = d.nfc := rfl
@[simp] theorem Dev.cluUpd_flw (m : Nat) (g : Clu → Clu) : (d.cluUpd m g).flw = d.flw := rfl
@[simp] theorem Dev.cluUpd_dbgTrig (m : Nat) (g : Clu → Clu) : (d.cluUpd m g).dbgTrig = d.dbgTrig := rfl
@[simp] theorem Dev.cluUpd_dbg (m : Nat) (g : Clu → Clu) : (d.cluUpd m g).dbg = d.dbg := rfl
@[simp] theorem Dev.cluUpd_foAt (m : Nat) (g : Clu → Clu) (n : Nat) : (d.cluUpd m g).foAt n = d.foAt n := rfl
@[simp] theorem Dev.cluUpd_gchAt (m : Nat) (g : Clu → Clu) (n : Nat) : (d.cluUpd m g).gchAt n = d.gchAt n := rfl
@[simp] theorem Dev.cluUpd_carAt (m : Nat) (g : Clu → Clu) (n : Nat) : (d.cluUpd m g).carAt n = d.carAt n := rfl
@[simp] theorem Dev.cluUpd_posAt (m : Nat) (g : Clu → Clu) (n : Nat) : (d.cluUpd m g).posAt n = d.posAt n := rfl
@[simp] theorem Dev.cluUpd_pairAt (m : Nat) (g : Clu → Clu) (n : Nat) : (d.cluUpd m g).pairAt n = d.pairAt n := rfl
@[simp] theorem Dev.cluUpd_tgrpAt (m : Nat) (g : Clu → Clu) (n : Nat) : (d.cluUpd m g).tgrpAt n = d.tgrpAt n := rfl
@[simp] theorem Dev.cluUpd_axisAt (m : Nat) (g : Clu → Clu) (n : Nat) : (d.cluUpd m g).axisAt n = d.axisAt n := rfl
@[simp] theorem Dev.cluUpd_connAt (m : Nat) (g : Clu → Clu) (n : Nat) : (d.cluUpd m g).connAt n = d.connAt n := rfl
@[simp] theorem Dev.cluUpd_adcAt (m : Nat) (g : Clu → Clu) (n : Nat) : (d.cluUpd m g).adcAt n = d.adcAt n := rfl
@[simp] theorem Dev.cluUpd_auxAt (m : Nat) (g : Clu → Clu) (n : Nat) : (d.cluUpd m g).auxAt n = d.auxAt n := rfl
@[simp] theorem Dev.cluUpd_slcAt (m : Nat) (g : Clu → Clu) (n : Nat) : (d.cluUpd m g).slcAt n = d.slcAt n := rfl
@[simp] theorem Dev.cluUpd_egrAt (m : Nat) (g : Clu → Clu) (n : Nat) : (d.cluUpd m g).egrAt n = d.egrAt n := rfl
@[simp] theorem Dev.cluUpd_portAt (m : Nat) (g : Clu → Clu) (n : Nat) : (d.cluUpd m g).portAt n = d.portAt n := rfl
@[simp] theorem Dev.cluUpd_canAt (m : Nat) (g : Clu → Clu) (n : Nat) : (d.cluUpd m g).canAt n = d.canAt n := rfl
@[simp] theorem Dev.cluUpd_luAt (m : Nat) (g : Clu → Clu) (n : Nat) : (d.cluUpd m g).luAt n = d.luAt n := rfl
@[simp] theorem Dev.cluUpd_reg (m : Nat) (g : Clu → Clu) (a : Nat) : (d.cluUpd m g).reg a = d.reg a := rfl
@[simp] theorem Dev.cluUpd_get (m : Nat) (g : Clu → Clu) (f : Fld) : (d.cluUpd m g).get f = d.get f := rfl
@[simp] theorem Dev.cluUpd_getI (m : Nat) (g : Clu → Clu) (f : Fld) : (d.cluUpd m g).getI f = d.getI f := rfl
@[simp] theorem Dev.cluUpd_bit (m : Nat) (g : Clu → Clu) (f : Fld) : (d.cluUpd m g).bit f = d.bit f := rfl
@[simp] theorem Dev.cluUpd_tb (m : Nat) (g : Clu → Clu) (f : Fld) (i : Nat) : (d.cluUpd m g).tb f i = d.tb f i := rfl
@[simp] theorem Dev.cluUpd_sch (m : Nat) (g : Clu → Clu) (c : Nat) : (d.cluUpd m g).sch c = d.sch c := rfl

/-! ### `Dev.posUpd` writes the records `pos` only -/

@[simp] theorem Dev.posUpd_regs (m : Nat) (g : Pos → Pos) : (d.posUpd m g).regs = d.regs := rfl
@[simp] theorem Dev.posUpd_time (m : Nat) (g : Pos → Pos) : (d.posUpd m g).time = d.time := rfl
@[simp] theorem Dev.posUpd_frac (m : Nat) (g : Pos → Pos) : (d.posUpd m g).frac = d.frac := rfl
@[simp] theorem Dev.posUpd_mono (m : Nat) (g : Pos → Pos) : (d.posUpd m g).mono = d.mono := rfl
@[simp] theorem Dev.posUpd_free (m : Nat) (g : Pos → Pos) : (d.posUpd m g).free = d.free := rfl
@[simp] theorem Dev.posUpd_lims (m : Nat) (g : Pos → Pos) : (d.posUpd m g).lims = d.lims := rfl
@[simp] theorem Dev.posUpd_spool (m : Nat) (g : Pos → Pos) : (d.posUpd m g).spool = d.spool := rfl
@[simp] theorem Dev.posUpd_splTurn (m : Nat) (g : Pos → Pos) : (d.posUpd m g).splTurn = d.splTurn := rfl
@[simp] theorem Dev.posUpd_jnl (m : Nat) (g : Pos → Pos) : (d.posUpd m g).jnl = d.jnl := rfl
@[simp] theorem Dev.posUpd_pwr (m : Nat) (g : Pos → Pos) : (d.posUpd m g).pwr = d.pwr := rfl
@[simp] theorem Dev.posUpd_boot (m : Nat) (g : Pos → Pos) : (d.posUpd m g).boot = d.boot := rfl
@[simp] theorem Dev.posUpd_per (m : Nat) (g : Pos → Pos) : (d.posUpd m g).per = d.per := rfl
@[simp] theorem Dev.posUpd_fo (m : Nat) (g : Pos → Pos) : (d.posUpd m g).fo = d.fo := rfl
@[simp] theorem Dev.posUpd_fio (m : Nat) (g : Pos → Pos) : (d.posUpd m g).fio = d.fio := rfl
@[simp] theorem Dev.posUpd_gch (m : Nat) (g : Pos → Pos) : (d.posUpd m g).gch = d.gch := rfl
@[simp] theorem Dev.posUpd_car (m : Nat) (g : Pos → Pos) : (d.posUpd m g).car = d.car := rfl
@[simp] theorem Dev.posUpd_clu (m : Nat) (g : Pos → Pos) : (d.posUpd m g).clu = d.clu := rfl
@[simp] theorem Dev.posUpd_pair (m : Nat) (g : Pos → Pos) : (d.posUpd m g).pair = d.pair := rfl
@[simp] theorem Dev.posUpd_hem (m : Nat) (g : Pos → Pos) : (d.posUpd m g).hem = d.hem := rfl
@[simp] theorem Dev.posUpd_tgrp (m : Nat) (g : Pos → Pos) : (d.posUpd m g).tgrp = d.tgrp := rfl
@[simp] theorem Dev.posUpd_thm (m : Nat) (g : Pos → Pos) : (d.posUpd m g).thm = d.thm := rfl
@[simp] theorem Dev.posUpd_axis (m : Nat) (g : Pos → Pos) : (d.posUpd m g).axis = d.axis := rfl
@[simp] theorem Dev.posUpd_conn (m : Nat) (g : Pos → Pos) : (d.posUpd m g).conn = d.conn := rfl
@[simp] theorem Dev.posUpd_dtm (m : Nat) (g : Pos → Pos) : (d.posUpd m g).dtm = d.dtm := rfl
@[simp] theorem Dev.posUpd_adc (m : Nat) (g : Pos → Pos) : (d.posUpd m g).adc = d.adc := rfl
@[simp] theorem Dev.posUpd_aux (m : Nat) (g : Pos → Pos) : (d.posUpd m g).aux = d.aux := rfl
@[simp] theorem Dev.posUpd_refOut (m : Nat) (g : Pos → Pos) : (d.posUpd m g).refOut = d.refOut := rfl
@[simp] theorem Dev.posUpd_img (m : Nat) (g : Pos → Pos) : (d.posUpd m g).img = d.img := rfl
@[simp] theorem Dev.posUpd_slc (m : Nat) (g : Pos → Pos) : (d.posUpd m g).slc = d.slc := rfl
@[simp] theorem Dev.posUpd_egr (m : Nat) (g : Pos → Pos) : (d.posUpd m g).egr = d.egr := rfl
@[simp] theorem Dev.posUpd_port (m : Nat) (g : Pos → Pos) : (d.posUpd m g).port = d.port := rfl
@[simp] theorem Dev.posUpd_can (m : Nat) (g : Pos → Pos) : (d.posUpd m g).can = d.can := rfl
@[simp] theorem Dev.posUpd_dom (m : Nat) (g : Pos → Pos) : (d.posUpd m g).dom = d.dom := rfl
@[simp] theorem Dev.posUpd_eth (m : Nat) (g : Pos → Pos) : (d.posUpd m g).eth = d.eth := rfl
@[simp] theorem Dev.posUpd_sfl (m : Nat) (g : Pos → Pos) : (d.posUpd m g).sfl = d.sfl := rfl
@[simp] theorem Dev.posUpd_spih (m : Nat) (g : Pos → Pos) : (d.posUpd m g).spih = d.spih := rfl
@[simp] theorem Dev.posUpd_m0 (m : Nat) (g : Pos → Pos) : (d.posUpd m g).m0 = d.m0 := rfl
@[simp] theorem Dev.posUpd_m1 (m : Nat) (g : Pos → Pos) : (d.posUpd m g).m1 = d.m1 := rfl
@[simp] theorem Dev.posUpd_lu (m : Nat) (g : Pos → Pos) : (d.posUpd m g).lu = d.lu := rfl
@[simp] theorem Dev.posUpd_nfc (m : Nat) (g : Pos → Pos) : (d.posUpd m g).nfc = d.nfc := rfl
@[simp] theorem Dev.posUpd_flw (m : Nat) (g : Pos → Pos) : (d.posUpd m g).flw = d.flw := rfl
@[simp] theorem Dev.posUpd_dbgTrig (m : Nat) (g : Pos → Pos) : (d.posUpd m g).dbgTrig = d.dbgTrig := rfl
@[simp] theorem Dev.posUpd_dbg (m : Nat) (g : Pos → Pos) : (d.posUpd m g).dbg = d.dbg := rfl
@[simp] theorem Dev.posUpd_foAt (m : Nat) (g : Pos → Pos) (n : Nat) : (d.posUpd m g).foAt n = d.foAt n := rfl
@[simp] theorem Dev.posUpd_gchAt (m : Nat) (g : Pos → Pos) (n : Nat) : (d.posUpd m g).gchAt n = d.gchAt n := rfl
@[simp] theorem Dev.posUpd_carAt (m : Nat) (g : Pos → Pos) (n : Nat) : (d.posUpd m g).carAt n = d.carAt n := rfl
@[simp] theorem Dev.posUpd_cluAt (m : Nat) (g : Pos → Pos) (n : Nat) : (d.posUpd m g).cluAt n = d.cluAt n := rfl
@[simp] theorem Dev.posUpd_pairAt (m : Nat) (g : Pos → Pos) (n : Nat) : (d.posUpd m g).pairAt n = d.pairAt n := rfl
@[simp] theorem Dev.posUpd_tgrpAt (m : Nat) (g : Pos → Pos) (n : Nat) : (d.posUpd m g).tgrpAt n = d.tgrpAt n := rfl
@[simp] theorem Dev.posUpd_axisAt (m : Nat) (g : Pos → Pos) (n : Nat) : (d.posUpd m g).axisAt n = d.axisAt n := rfl
@[simp] theorem Dev.posUpd_connAt (m : Nat) (g : Pos → Pos) (n : Nat) : (d.posUpd m g).connAt n = d.connAt n := rfl
@[simp] theorem Dev.posUpd_adcAt (m : Nat) (g : Pos → Pos) (n : Nat) : (d.posUpd m g).adcAt n = d.adcAt n := rfl
@[simp] theorem Dev.posUpd_auxAt (m : Nat) (g : Pos → Pos) (n : Nat) : (d.posUpd m g).auxAt n = d.auxAt n := rfl
@[simp] theorem Dev.posUpd_slcAt (m : Nat) (g : Pos → Pos) (n : Nat) : (d.posUpd m g).slcAt n = d.slcAt n := rfl
@[simp] theorem Dev.posUpd_egrAt (m : Nat) (g : Pos → Pos) (n : Nat) : (d.posUpd m g).egrAt n = d.egrAt n := rfl
@[simp] theorem Dev.posUpd_portAt (m : Nat) (g : Pos → Pos) (n : Nat) : (d.posUpd m g).portAt n = d.portAt n := rfl
@[simp] theorem Dev.posUpd_canAt (m : Nat) (g : Pos → Pos) (n : Nat) : (d.posUpd m g).canAt n = d.canAt n := rfl
@[simp] theorem Dev.posUpd_luAt (m : Nat) (g : Pos → Pos) (n : Nat) : (d.posUpd m g).luAt n = d.luAt n := rfl
@[simp] theorem Dev.posUpd_reg (m : Nat) (g : Pos → Pos) (a : Nat) : (d.posUpd m g).reg a = d.reg a := rfl
@[simp] theorem Dev.posUpd_get (m : Nat) (g : Pos → Pos) (f : Fld) : (d.posUpd m g).get f = d.get f := rfl
@[simp] theorem Dev.posUpd_getI (m : Nat) (g : Pos → Pos) (f : Fld) : (d.posUpd m g).getI f = d.getI f := rfl
@[simp] theorem Dev.posUpd_bit (m : Nat) (g : Pos → Pos) (f : Fld) : (d.posUpd m g).bit f = d.bit f := rfl
@[simp] theorem Dev.posUpd_tb (m : Nat) (g : Pos → Pos) (f : Fld) (i : Nat) : (d.posUpd m g).tb f i = d.tb f i := rfl
@[simp] theorem Dev.posUpd_sch (m : Nat) (g : Pos → Pos) (c : Nat) : (d.posUpd m g).sch c = d.sch c := rfl

/-! ### `Dev.pairUpd` writes the records `pair` only -/

@[simp] theorem Dev.pairUpd_regs (m : Nat) (g : Pair → Pair) : (d.pairUpd m g).regs = d.regs := rfl
@[simp] theorem Dev.pairUpd_time (m : Nat) (g : Pair → Pair) : (d.pairUpd m g).time = d.time := rfl
@[simp] theorem Dev.pairUpd_frac (m : Nat) (g : Pair → Pair) : (d.pairUpd m g).frac = d.frac := rfl
@[simp] theorem Dev.pairUpd_mono (m : Nat) (g : Pair → Pair) : (d.pairUpd m g).mono = d.mono := rfl
@[simp] theorem Dev.pairUpd_free (m : Nat) (g : Pair → Pair) : (d.pairUpd m g).free = d.free := rfl
@[simp] theorem Dev.pairUpd_lims (m : Nat) (g : Pair → Pair) : (d.pairUpd m g).lims = d.lims := rfl
@[simp] theorem Dev.pairUpd_spool (m : Nat) (g : Pair → Pair) : (d.pairUpd m g).spool = d.spool := rfl
@[simp] theorem Dev.pairUpd_splTurn (m : Nat) (g : Pair → Pair) : (d.pairUpd m g).splTurn = d.splTurn := rfl
@[simp] theorem Dev.pairUpd_jnl (m : Nat) (g : Pair → Pair) : (d.pairUpd m g).jnl = d.jnl := rfl
@[simp] theorem Dev.pairUpd_pwr (m : Nat) (g : Pair → Pair) : (d.pairUpd m g).pwr = d.pwr := rfl
@[simp] theorem Dev.pairUpd_boot (m : Nat) (g : Pair → Pair) : (d.pairUpd m g).boot = d.boot := rfl
@[simp] theorem Dev.pairUpd_per (m : Nat) (g : Pair → Pair) : (d.pairUpd m g).per = d.per := rfl
@[simp] theorem Dev.pairUpd_fo (m : Nat) (g : Pair → Pair) : (d.pairUpd m g).fo = d.fo := rfl
@[simp] theorem Dev.pairUpd_fio (m : Nat) (g : Pair → Pair) : (d.pairUpd m g).fio = d.fio := rfl
@[simp] theorem Dev.pairUpd_gch (m : Nat) (g : Pair → Pair) : (d.pairUpd m g).gch = d.gch := rfl
@[simp] theorem Dev.pairUpd_car (m : Nat) (g : Pair → Pair) : (d.pairUpd m g).car = d.car := rfl
@[simp] theorem Dev.pairUpd_clu (m : Nat) (g : Pair → Pair) : (d.pairUpd m g).clu = d.clu := rfl
@[simp] theorem Dev.pairUpd_pos (m : Nat) (g : Pair → Pair) : (d.pairUpd m g).pos = d.pos := rfl
@[simp] theorem Dev.pairUpd_hem (m : Nat) (g : Pair → Pair) : (d.pairUpd m g).hem = d.hem := rfl
@[simp] theorem Dev.pairUpd_tgrp (m : Nat) (g : Pair → Pair) : (d.pairUpd m g).tgrp = d.tgrp := rfl
@[simp] theorem Dev.pairUpd_thm (m : Nat) (g : Pair → Pair) : (d.pairUpd m g).thm = d.thm := rfl
@[simp] theorem Dev.pairUpd_axis (m : Nat) (g : Pair → Pair) : (d.pairUpd m g).axis = d.axis := rfl
@[simp] theorem Dev.pairUpd_conn (m : Nat) (g : Pair → Pair) : (d.pairUpd m g).conn = d.conn := rfl
@[simp] theorem Dev.pairUpd_dtm (m : Nat) (g : Pair → Pair) : (d.pairUpd m g).dtm = d.dtm := rfl
@[simp] theorem Dev.pairUpd_adc (m : Nat) (g : Pair → Pair) : (d.pairUpd m g).adc = d.adc := rfl
@[simp] theorem Dev.pairUpd_aux (m : Nat) (g : Pair → Pair) : (d.pairUpd m g).aux = d.aux := rfl
@[simp] theorem Dev.pairUpd_refOut (m : Nat) (g : Pair → Pair) : (d.pairUpd m g).refOut = d.refOut := rfl
@[simp] theorem Dev.pairUpd_img (m : Nat) (g : Pair → Pair) : (d.pairUpd m g).img = d.img := rfl
@[simp] theorem Dev.pairUpd_slc (m : Nat) (g : Pair → Pair) : (d.pairUpd m g).slc = d.slc := rfl
@[simp] theorem Dev.pairUpd_egr (m : Nat) (g : Pair → Pair) : (d.pairUpd m g).egr = d.egr := rfl
@[simp] theorem Dev.pairUpd_port (m : Nat) (g : Pair → Pair) : (d.pairUpd m g).port = d.port := rfl
@[simp] theorem Dev.pairUpd_can (m : Nat) (g : Pair → Pair) : (d.pairUpd m g).can = d.can := rfl
@[simp] theorem Dev.pairUpd_dom (m : Nat) (g : Pair → Pair) : (d.pairUpd m g).dom = d.dom := rfl
@[simp] theorem Dev.pairUpd_eth (m : Nat) (g : Pair → Pair) : (d.pairUpd m g).eth = d.eth := rfl
@[simp] theorem Dev.pairUpd_sfl (m : Nat) (g : Pair → Pair) : (d.pairUpd m g).sfl = d.sfl := rfl
@[simp] theorem Dev.pairUpd_spih (m : Nat) (g : Pair → Pair) : (d.pairUpd m g).spih = d.spih := rfl
@[simp] theorem Dev.pairUpd_m0 (m : Nat) (g : Pair → Pair) : (d.pairUpd m g).m0 = d.m0 := rfl
@[simp] theorem Dev.pairUpd_m1 (m : Nat) (g : Pair → Pair) : (d.pairUpd m g).m1 = d.m1 := rfl
@[simp] theorem Dev.pairUpd_lu (m : Nat) (g : Pair → Pair) : (d.pairUpd m g).lu = d.lu := rfl
@[simp] theorem Dev.pairUpd_nfc (m : Nat) (g : Pair → Pair) : (d.pairUpd m g).nfc = d.nfc := rfl
@[simp] theorem Dev.pairUpd_flw (m : Nat) (g : Pair → Pair) : (d.pairUpd m g).flw = d.flw := rfl
@[simp] theorem Dev.pairUpd_dbgTrig (m : Nat) (g : Pair → Pair) : (d.pairUpd m g).dbgTrig = d.dbgTrig := rfl
@[simp] theorem Dev.pairUpd_dbg (m : Nat) (g : Pair → Pair) : (d.pairUpd m g).dbg = d.dbg := rfl
@[simp] theorem Dev.pairUpd_foAt (m : Nat) (g : Pair → Pair) (n : Nat) : (d.pairUpd m g).foAt n = d.foAt n := rfl
@[simp] theorem Dev.pairUpd_gchAt (m : Nat) (g : Pair → Pair) (n : Nat) : (d.pairUpd m g).gchAt n = d.gchAt n := rfl
@[simp] theorem Dev.pairUpd_carAt (m : Nat) (g : Pair → Pair) (n : Nat) : (d.pairUpd m g).carAt n = d.carAt n := rfl
@[simp] theorem Dev.pairUpd_cluAt (m : Nat) (g : Pair → Pair) (n : Nat) : (d.pairUpd m g).cluAt n = d.cluAt n := rfl
@[simp] theorem Dev.pairUpd_posAt (m : Nat) (g : Pair → Pair) (n : Nat) : (d.pairUpd m g).posAt n = d.posAt n := rfl
@[simp] theorem Dev.pairUpd_tgrpAt (m : Nat) (g : Pair → Pair) (n : Nat) : (d.pairUpd m g).tgrpAt n = d.tgrpAt n := rfl
@[simp] theorem Dev.pairUpd_axisAt (m : Nat) (g : Pair → Pair) (n : Nat) : (d.pairUpd m g).axisAt n = d.axisAt n := rfl
@[simp] theorem Dev.pairUpd_connAt (m : Nat) (g : Pair → Pair) (n : Nat) : (d.pairUpd m g).connAt n = d.connAt n := rfl
@[simp] theorem Dev.pairUpd_adcAt (m : Nat) (g : Pair → Pair) (n : Nat) : (d.pairUpd m g).adcAt n = d.adcAt n := rfl
@[simp] theorem Dev.pairUpd_auxAt (m : Nat) (g : Pair → Pair) (n : Nat) : (d.pairUpd m g).auxAt n = d.auxAt n := rfl
@[simp] theorem Dev.pairUpd_slcAt (m : Nat) (g : Pair → Pair) (n : Nat) : (d.pairUpd m g).slcAt n = d.slcAt n := rfl
@[simp] theorem Dev.pairUpd_egrAt (m : Nat) (g : Pair → Pair) (n : Nat) : (d.pairUpd m g).egrAt n = d.egrAt n := rfl
@[simp] theorem Dev.pairUpd_portAt (m : Nat) (g : Pair → Pair) (n : Nat) : (d.pairUpd m g).portAt n = d.portAt n := rfl
@[simp] theorem Dev.pairUpd_canAt (m : Nat) (g : Pair → Pair) (n : Nat) : (d.pairUpd m g).canAt n = d.canAt n := rfl
@[simp] theorem Dev.pairUpd_luAt (m : Nat) (g : Pair → Pair) (n : Nat) : (d.pairUpd m g).luAt n = d.luAt n := rfl
@[simp] theorem Dev.pairUpd_reg (m : Nat) (g : Pair → Pair) (a : Nat) : (d.pairUpd m g).reg a = d.reg a := rfl
@[simp] theorem Dev.pairUpd_get (m : Nat) (g : Pair → Pair) (f : Fld) : (d.pairUpd m g).get f = d.get f := rfl
@[simp] theorem Dev.pairUpd_getI (m : Nat) (g : Pair → Pair) (f : Fld) : (d.pairUpd m g).getI f = d.getI f := rfl
@[simp] theorem Dev.pairUpd_bit (m : Nat) (g : Pair → Pair) (f : Fld) : (d.pairUpd m g).bit f = d.bit f := rfl
@[simp] theorem Dev.pairUpd_tb (m : Nat) (g : Pair → Pair) (f : Fld) (i : Nat) : (d.pairUpd m g).tb f i = d.tb f i := rfl
@[simp] theorem Dev.pairUpd_sch (m : Nat) (g : Pair → Pair) (c : Nat) : (d.pairUpd m g).sch c = d.sch c := rfl

/-! ### `Dev.tgrpUpd` writes the records `tgrp` only -/

@[simp] theorem Dev.tgrpUpd_regs (m : Nat) (g : ThmGrp → ThmGrp) : (d.tgrpUpd m g).regs = d.regs := rfl
@[simp] theorem Dev.tgrpUpd_time (m : Nat) (g : ThmGrp → ThmGrp) : (d.tgrpUpd m g).time = d.time := rfl
@[simp] theorem Dev.tgrpUpd_frac (m : Nat) (g : ThmGrp → ThmGrp) : (d.tgrpUpd m g).frac = d.frac := rfl
@[simp] theorem Dev.tgrpUpd_mono (m : Nat) (g : ThmGrp → ThmGrp) : (d.tgrpUpd m g).mono = d.mono := rfl
@[simp] theorem Dev.tgrpUpd_free (m : Nat) (g : ThmGrp → ThmGrp) : (d.tgrpUpd m g).free = d.free := rfl
@[simp] theorem Dev.tgrpUpd_lims (m : Nat) (g : ThmGrp → ThmGrp) : (d.tgrpUpd m g).lims = d.lims := rfl
@[simp] theorem Dev.tgrpUpd_spool (m : Nat) (g : ThmGrp → ThmGrp) : (d.tgrpUpd m g).spool = d.spool := rfl
@[simp] theorem Dev.tgrpUpd_splTurn (m : Nat) (g : ThmGrp → ThmGrp) : (d.tgrpUpd m g).splTurn = d.splTurn := rfl
@[simp] theorem Dev.tgrpUpd_jnl (m : Nat) (g : ThmGrp → ThmGrp) : (d.tgrpUpd m g).jnl = d.jnl := rfl
@[simp] theorem Dev.tgrpUpd_pwr (m : Nat) (g : ThmGrp → ThmGrp) : (d.tgrpUpd m g).pwr = d.pwr := rfl
@[simp] theorem Dev.tgrpUpd_boot (m : Nat) (g : ThmGrp → ThmGrp) : (d.tgrpUpd m g).boot = d.boot := rfl
@[simp] theorem Dev.tgrpUpd_per (m : Nat) (g : ThmGrp → ThmGrp) : (d.tgrpUpd m g).per = d.per := rfl
@[simp] theorem Dev.tgrpUpd_fo (m : Nat) (g : ThmGrp → ThmGrp) : (d.tgrpUpd m g).fo = d.fo := rfl
@[simp] theorem Dev.tgrpUpd_fio (m : Nat) (g : ThmGrp → ThmGrp) : (d.tgrpUpd m g).fio = d.fio := rfl
@[simp] theorem Dev.tgrpUpd_gch (m : Nat) (g : ThmGrp → ThmGrp) : (d.tgrpUpd m g).gch = d.gch := rfl
@[simp] theorem Dev.tgrpUpd_car (m : Nat) (g : ThmGrp → ThmGrp) : (d.tgrpUpd m g).car = d.car := rfl
@[simp] theorem Dev.tgrpUpd_clu (m : Nat) (g : ThmGrp → ThmGrp) : (d.tgrpUpd m g).clu = d.clu := rfl
@[simp] theorem Dev.tgrpUpd_pos (m : Nat) (g : ThmGrp → ThmGrp) : (d.tgrpUpd m g).pos = d.pos := rfl
@[simp] theorem Dev.tgrpUpd_pair (m : Nat) (g : ThmGrp → ThmGrp) : (d.tgrpUpd m g).pair = d.pair := rfl
@[simp] theorem Dev.tgrpUpd_hem (m : Nat) (g : ThmGrp → ThmGrp) : (d.tgrpUpd m g).hem = d.hem := rfl
@[simp] theorem Dev.tgrpUpd_thm (m : Nat) (g : ThmGrp → ThmGrp) : (d.tgrpUpd m g).thm = d.thm := rfl
@[simp] theorem Dev.tgrpUpd_axis (m : Nat) (g : ThmGrp → ThmGrp) : (d.tgrpUpd m g).axis = d.axis := rfl
@[simp] theorem Dev.tgrpUpd_conn (m : Nat) (g : ThmGrp → ThmGrp) : (d.tgrpUpd m g).conn = d.conn := rfl
@[simp] theorem Dev.tgrpUpd_dtm (m : Nat) (g : ThmGrp → ThmGrp) : (d.tgrpUpd m g).dtm = d.dtm := rfl
@[simp] theorem Dev.tgrpUpd_adc (m : Nat) (g : ThmGrp → ThmGrp) : (d.tgrpUpd m g).adc = d.adc := rfl
@[simp] theorem Dev.tgrpUpd_aux (m : Nat) (g : ThmGrp → ThmGrp) : (d.tgrpUpd m g).aux = d.aux := rfl
@[simp] theorem Dev.tgrpUpd_refOut (m : Nat) (g : ThmGrp → ThmGrp) : (d.tgrpUpd m g).refOut = d.refOut := rfl
@[simp] theorem Dev.tgrpUpd_img (m : Nat) (g : ThmGrp → ThmGrp) : (d.tgrpUpd m g).img = d.img := rfl
@[simp] theorem Dev.tgrpUpd_slc (m : Nat) (g : ThmGrp → ThmGrp) : (d.tgrpUpd m g).slc = d.slc := rfl
@[simp] theorem Dev.tgrpUpd_egr (m : Nat) (g : ThmGrp → ThmGrp) : (d.tgrpUpd m g).egr = d.egr := rfl
@[simp] theorem Dev.tgrpUpd_port (m : Nat) (g : ThmGrp → ThmGrp) : (d.tgrpUpd m g).port = d.port := rfl
@[simp] theorem Dev.tgrpUpd_can (m : Nat) (g : ThmGrp → ThmGrp) : (d.tgrpUpd m g).can = d.can := rfl
@[simp] theorem Dev.tgrpUpd_dom (m : Nat) (g : ThmGrp → ThmGrp) : (d.tgrpUpd m g).dom = d.dom := rfl
@[simp] theorem Dev.tgrpUpd_eth (m : Nat) (g : ThmGrp → ThmGrp) : (d.tgrpUpd m g).eth = d.eth := rfl
@[simp] theorem Dev.tgrpUpd_sfl (m : Nat) (g : ThmGrp → ThmGrp) : (d.tgrpUpd m g).sfl = d.sfl := rfl
@[simp] theorem Dev.tgrpUpd_spih (m : Nat) (g : ThmGrp → ThmGrp) : (d.tgrpUpd m g).spih = d.spih := rfl
@[simp] theorem Dev.tgrpUpd_m0 (m : Nat) (g : ThmGrp → ThmGrp) : (d.tgrpUpd m g).m0 = d.m0 := rfl
@[simp] theorem Dev.tgrpUpd_m1 (m : Nat) (g : ThmGrp → ThmGrp) : (d.tgrpUpd m g).m1 = d.m1 := rfl
@[simp] theorem Dev.tgrpUpd_lu (m : Nat) (g : ThmGrp → ThmGrp) : (d.tgrpUpd m g).lu = d.lu := rfl
@[simp] theorem Dev.tgrpUpd_nfc (m : Nat) (g : ThmGrp → ThmGrp) : (d.tgrpUpd m g).nfc = d.nfc := rfl
@[simp] theorem Dev.tgrpUpd_flw (m : Nat) (g : ThmGrp → ThmGrp) : (d.tgrpUpd m g).flw = d.flw := rfl
@[simp] theorem Dev.tgrpUpd_dbgTrig (m : Nat) (g : ThmGrp → ThmGrp) : (d.tgrpUpd m g).dbgTrig = d.dbgTrig := rfl
@[simp] theorem Dev.tgrpUpd_dbg (m : Nat) (g : ThmGrp → ThmGrp) : (d.tgrpUpd m g).dbg = d.dbg := rfl
@[simp] theorem Dev.tgrpUpd_foAt (m : Nat) (g : ThmGrp → ThmGrp) (n : Nat) : (d.tgrpUpd m g).foAt n = d.foAt n := rfl
@[simp] theorem Dev.tgrpUpd_gchAt (m : Nat) (g : ThmGrp → ThmGrp) (n : Nat) : (d.tgrpUpd m g).gchAt n = d.gchAt n := rfl
@[simp] theorem Dev.tgrpUpd_carAt (m : Nat) (g : ThmGrp → ThmGrp) (n : Nat) : (d.tgrpUpd m g).carAt n = d.carAt n := rfl
@[simp] theorem Dev.tgrpUpd_cluAt (m : Nat) (g : ThmGrp → ThmGrp) (n : Nat) : (d.tgrpUpd m g).cluAt n = d.cluAt n := rfl
@[simp] theorem Dev.tgrpUpd_posAt (m : Nat) (g : ThmGrp → ThmGrp) (n : Nat) : (d.tgrpUpd m g).posAt n = d.posAt n := rfl
@[simp] theorem Dev.tgrpUpd_pairAt (m : Nat) (g : ThmGrp → ThmGrp) (n : Nat) : (d.tgrpUpd m g).pairAt n = d.pairAt n := rfl
@[simp] theorem Dev.tgrpUpd_axisAt (m : Nat) (g : ThmGrp → ThmGrp) (n : Nat) : (d.tgrpUpd m g).axisAt n = d.axisAt n := rfl
@[simp] theorem Dev.tgrpUpd_connAt (m : Nat) (g : ThmGrp → ThmGrp) (n : Nat) : (d.tgrpUpd m g).connAt n = d.connAt n := rfl
@[simp] theorem Dev.tgrpUpd_adcAt (m : Nat) (g : ThmGrp → ThmGrp) (n : Nat) : (d.tgrpUpd m g).adcAt n = d.adcAt n := rfl
@[simp] theorem Dev.tgrpUpd_auxAt (m : Nat) (g : ThmGrp → ThmGrp) (n : Nat) : (d.tgrpUpd m g).auxAt n = d.auxAt n := rfl
@[simp] theorem Dev.tgrpUpd_slcAt (m : Nat) (g : ThmGrp → ThmGrp) (n : Nat) : (d.tgrpUpd m g).slcAt n = d.slcAt n := rfl
@[simp] theorem Dev.tgrpUpd_egrAt (m : Nat) (g : ThmGrp → ThmGrp) (n : Nat) : (d.tgrpUpd m g).egrAt n = d.egrAt n := rfl
@[simp] theorem Dev.tgrpUpd_portAt (m : Nat) (g : ThmGrp → ThmGrp) (n : Nat) : (d.tgrpUpd m g).portAt n = d.portAt n := rfl
@[simp] theorem Dev.tgrpUpd_canAt (m : Nat) (g : ThmGrp → ThmGrp) (n : Nat) : (d.tgrpUpd m g).canAt n = d.canAt n := rfl
@[simp] theorem Dev.tgrpUpd_luAt (m : Nat) (g : ThmGrp → ThmGrp) (n : Nat) : (d.tgrpUpd m g).luAt n = d.luAt n := rfl
@[simp] theorem Dev.tgrpUpd_reg (m : Nat) (g : ThmGrp → ThmGrp) (a : Nat) : (d.tgrpUpd m g).reg a = d.reg a := rfl
@[simp] theorem Dev.tgrpUpd_get (m : Nat) (g : ThmGrp → ThmGrp) (f : Fld) : (d.tgrpUpd m g).get f = d.get f := rfl
@[simp] theorem Dev.tgrpUpd_getI (m : Nat) (g : ThmGrp → ThmGrp) (f : Fld) : (d.tgrpUpd m g).getI f = d.getI f := rfl
@[simp] theorem Dev.tgrpUpd_bit (m : Nat) (g : ThmGrp → ThmGrp) (f : Fld) : (d.tgrpUpd m g).bit f = d.bit f := rfl
@[simp] theorem Dev.tgrpUpd_tb (m : Nat) (g : ThmGrp → ThmGrp) (f : Fld) (i : Nat) : (d.tgrpUpd m g).tb f i = d.tb f i := rfl
@[simp] theorem Dev.tgrpUpd_sch (m : Nat) (g : ThmGrp → ThmGrp) (c : Nat) : (d.tgrpUpd m g).sch c = d.sch c := rfl

/-! ### `Dev.axisUpd` writes the records `axis` only -/

@[simp] theorem Dev.axisUpd_regs (m : Nat) (g : Axis → Axis) : (d.axisUpd m g).regs = d.regs := rfl
@[simp] theorem Dev.axisUpd_time (m : Nat) (g : Axis → Axis) : (d.axisUpd m g).time = d.time := rfl
@[simp] theorem Dev.axisUpd_frac (m : Nat) (g : Axis → Axis) : (d.axisUpd m g).frac = d.frac := rfl
@[simp] theorem Dev.axisUpd_mono (m : Nat) (g : Axis → Axis) : (d.axisUpd m g).mono = d.mono := rfl
@[simp] theorem Dev.axisUpd_free (m : Nat) (g : Axis → Axis) : (d.axisUpd m g).free = d.free := rfl
@[simp] theorem Dev.axisUpd_lims (m : Nat) (g : Axis → Axis) : (d.axisUpd m g).lims = d.lims := rfl
@[simp] theorem Dev.axisUpd_spool (m : Nat) (g : Axis → Axis) : (d.axisUpd m g).spool = d.spool := rfl
@[simp] theorem Dev.axisUpd_splTurn (m : Nat) (g : Axis → Axis) : (d.axisUpd m g).splTurn = d.splTurn := rfl
@[simp] theorem Dev.axisUpd_jnl (m : Nat) (g : Axis → Axis) : (d.axisUpd m g).jnl = d.jnl := rfl
@[simp] theorem Dev.axisUpd_pwr (m : Nat) (g : Axis → Axis) : (d.axisUpd m g).pwr = d.pwr := rfl
@[simp] theorem Dev.axisUpd_boot (m : Nat) (g : Axis → Axis) : (d.axisUpd m g).boot = d.boot := rfl
@[simp] theorem Dev.axisUpd_per (m : Nat) (g : Axis → Axis) : (d.axisUpd m g).per = d.per := rfl
@[simp] theorem Dev.axisUpd_fo (m : Nat) (g : Axis → Axis) : (d.axisUpd m g).fo = d.fo := rfl
@[simp] theorem Dev.axisUpd_fio (m : Nat) (g : Axis → Axis) : (d.axisUpd m g).fio = d.fio := rfl
@[simp] theorem Dev.axisUpd_gch (m : Nat) (g : Axis → Axis) : (d.axisUpd m g).gch = d.gch := rfl
@[simp] theorem Dev.axisUpd_car (m : Nat) (g : Axis → Axis) : (d.axisUpd m g).car = d.car := rfl
@[simp] theorem Dev.axisUpd_clu (m : Nat) (g : Axis → Axis) : (d.axisUpd m g).clu = d.clu := rfl
@[simp] theorem Dev.axisUpd_pos (m : Nat) (g : Axis → Axis) : (d.axisUpd m g).pos = d.pos := rfl
@[simp] theorem Dev.axisUpd_pair (m : Nat) (g : Axis → Axis) : (d.axisUpd m g).pair = d.pair := rfl
@[simp] theorem Dev.axisUpd_hem (m : Nat) (g : Axis → Axis) : (d.axisUpd m g).hem = d.hem := rfl
@[simp] theorem Dev.axisUpd_tgrp (m : Nat) (g : Axis → Axis) : (d.axisUpd m g).tgrp = d.tgrp := rfl
@[simp] theorem Dev.axisUpd_thm (m : Nat) (g : Axis → Axis) : (d.axisUpd m g).thm = d.thm := rfl
@[simp] theorem Dev.axisUpd_conn (m : Nat) (g : Axis → Axis) : (d.axisUpd m g).conn = d.conn := rfl
@[simp] theorem Dev.axisUpd_dtm (m : Nat) (g : Axis → Axis) : (d.axisUpd m g).dtm = d.dtm := rfl
@[simp] theorem Dev.axisUpd_adc (m : Nat) (g : Axis → Axis) : (d.axisUpd m g).adc = d.adc := rfl
@[simp] theorem Dev.axisUpd_aux (m : Nat) (g : Axis → Axis) : (d.axisUpd m g).aux = d.aux := rfl
@[simp] theorem Dev.axisUpd_refOut (m : Nat) (g : Axis → Axis) : (d.axisUpd m g).refOut = d.refOut := rfl
@[simp] theorem Dev.axisUpd_img (m : Nat) (g : Axis → Axis) : (d.axisUpd m g).img = d.img := rfl
@[simp] theorem Dev.axisUpd_slc (m : Nat) (g : Axis → Axis) : (d.axisUpd m g).slc = d.slc := rfl
@[simp] theorem Dev.axisUpd_egr (m : Nat) (g : Axis → Axis) : (d.axisUpd m g).egr = d.egr := rfl
@[simp] theorem Dev.axisUpd_port (m : Nat) (g : Axis → Axis) : (d.axisUpd m g).port = d.port := rfl
@[simp] theorem Dev.axisUpd_can (m : Nat) (g : Axis → Axis) : (d.axisUpd m g).can = d.can := rfl
@[simp] theorem Dev.axisUpd_dom (m : Nat) (g : Axis → Axis) : (d.axisUpd m g).dom = d.dom := rfl
@[simp] theorem Dev.axisUpd_eth (m : Nat) (g : Axis → Axis) : (d.axisUpd m g).eth = d.eth := rfl
@[simp] theorem Dev.axisUpd_sfl (m : Nat) (g : Axis → Axis) : (d.axisUpd m g).sfl = d.sfl := rfl
@[simp] theorem Dev.axisUpd_spih (m : Nat) (g : Axis → Axis) : (d.axisUpd m g).spih = d.spih := rfl
@[simp] theorem Dev.axisUpd_m0 (m : Nat) (g : Axis → Axis) : (d.axisUpd m g).m0 = d.m0 := rfl
@[simp] theorem Dev.axisUpd_m1 (m : Nat) (g : Axis → Axis) : (d.axisUpd m g).m1 = d.m1 := rfl
@[simp] theorem Dev.axisUpd_lu (m : Nat) (g : Axis → Axis) : (d.axisUpd m g).lu = d.lu := rfl
@[simp] theorem Dev.axisUpd_nfc (m : Nat) (g : Axis → Axis) : (d.axisUpd m g).nfc = d.nfc := rfl
@[simp] theorem Dev.axisUpd_flw (m : Nat) (g : Axis → Axis) : (d.axisUpd m g).flw = d.flw := rfl
@[simp] theorem Dev.axisUpd_dbgTrig (m : Nat) (g : Axis → Axis) : (d.axisUpd m g).dbgTrig = d.dbgTrig := rfl
@[simp] theorem Dev.axisUpd_dbg (m : Nat) (g : Axis → Axis) : (d.axisUpd m g).dbg = d.dbg := rfl
@[simp] theorem Dev.axisUpd_foAt (m : Nat) (g : Axis → Axis) (n : Nat) : (d.axisUpd m g).foAt n = d.foAt n := rfl
@[simp] theorem Dev.axisUpd_gchAt (m : Nat) (g : Axis → Axis) (n : Nat) : (d.axisUpd m g).gchAt n = d.gchAt n := rfl
@[simp] theorem Dev.axisUpd_carAt (m : Nat) (g : Axis → Axis) (n : Nat) : (d.axisUpd m g).carAt n = d.carAt n := rfl
@[simp] theorem Dev.axisUpd_cluAt (m : Nat) (g : Axis → Axis) (n : Nat) : (d.axisUpd m g).cluAt n = d.cluAt n := rfl
@[simp] theorem Dev.axisUpd_posAt (m : Nat) (g : Axis → Axis) (n : Nat) : (d.axisUpd m g).posAt n = d.posAt n := rfl
@[simp] theorem Dev.axisUpd_pairAt (m : Nat) (g : Axis → Axis) (n : Nat) : (d.axisUpd m g).pairAt n = d.pairAt n := rfl
@[simp] theorem Dev.axisUpd_tgrpAt (m : Nat) (g : Axis → Axis) (n : Nat) : (d.axisUpd m g).tgrpAt n = d.tgrpAt n := rfl
@[simp] theorem Dev.axisUpd_connAt (m : Nat) (g : Axis → Axis) (n : Nat) : (d.axisUpd m g).connAt n = d.connAt n := rfl
@[simp] theorem Dev.axisUpd_adcAt (m : Nat) (g : Axis → Axis) (n : Nat) : (d.axisUpd m g).adcAt n = d.adcAt n := rfl
@[simp] theorem Dev.axisUpd_auxAt (m : Nat) (g : Axis → Axis) (n : Nat) : (d.axisUpd m g).auxAt n = d.auxAt n := rfl
@[simp] theorem Dev.axisUpd_slcAt (m : Nat) (g : Axis → Axis) (n : Nat) : (d.axisUpd m g).slcAt n = d.slcAt n := rfl
@[simp] theorem Dev.axisUpd_egrAt (m : Nat) (g : Axis → Axis) (n : Nat) : (d.axisUpd m g).egrAt n = d.egrAt n := rfl
@[simp] theorem Dev.axisUpd_portAt (m : Nat) (g : Axis → Axis) (n : Nat) : (d.axisUpd m g).portAt n = d.portAt n := rfl
@[simp] theorem Dev.axisUpd_canAt (m : Nat) (g : Axis → Axis) (n : Nat) : (d.axisUpd m g).canAt n = d.canAt n := rfl
@[simp] theorem Dev.axisUpd_luAt (m : Nat) (g : Axis → Axis) (n : Nat) : (d.axisUpd m g).luAt n = d.luAt n := rfl
@[simp] theorem Dev.axisUpd_reg (m : Nat) (g : Axis → Axis) (a : Nat) : (d.axisUpd m g).reg a = d.reg a := rfl
@[simp] theorem Dev.axisUpd_get (m : Nat) (g : Axis → Axis) (f : Fld) : (d.axisUpd m g).get f = d.get f := rfl
@[simp] theorem Dev.axisUpd_getI (m : Nat) (g : Axis → Axis) (f : Fld) : (d.axisUpd m g).getI f = d.getI f := rfl
@[simp] theorem Dev.axisUpd_bit (m : Nat) (g : Axis → Axis) (f : Fld) : (d.axisUpd m g).bit f = d.bit f := rfl
@[simp] theorem Dev.axisUpd_tb (m : Nat) (g : Axis → Axis) (f : Fld) (i : Nat) : (d.axisUpd m g).tb f i = d.tb f i := rfl
@[simp] theorem Dev.axisUpd_sch (m : Nat) (g : Axis → Axis) (c : Nat) : (d.axisUpd m g).sch c = d.sch c := rfl

/-! ### `Dev.connUpd` writes the records `conn` only -/

@[simp] theorem Dev.connUpd_regs (m : Nat) (g : Conn → Conn) : (d.connUpd m g).regs = d.regs := rfl
@[simp] theorem Dev.connUpd_time (m : Nat) (g : Conn → Conn) : (d.connUpd m g).time = d.time := rfl
@[simp] theorem Dev.connUpd_frac (m : Nat) (g : Conn → Conn) : (d.connUpd m g).frac = d.frac := rfl
@[simp] theorem Dev.connUpd_mono (m : Nat) (g : Conn → Conn) : (d.connUpd m g).mono = d.mono := rfl
@[simp] theorem Dev.connUpd_free (m : Nat) (g : Conn → Conn) : (d.connUpd m g).free = d.free := rfl
@[simp] theorem Dev.connUpd_lims (m : Nat) (g : Conn → Conn) : (d.connUpd m g).lims = d.lims := rfl
@[simp] theorem Dev.connUpd_spool (m : Nat) (g : Conn → Conn) : (d.connUpd m g).spool = d.spool := rfl
@[simp] theorem Dev.connUpd_splTurn (m : Nat) (g : Conn → Conn) : (d.connUpd m g).splTurn = d.splTurn := rfl
@[simp] theorem Dev.connUpd_jnl (m : Nat) (g : Conn → Conn) : (d.connUpd m g).jnl = d.jnl := rfl
@[simp] theorem Dev.connUpd_pwr (m : Nat) (g : Conn → Conn) : (d.connUpd m g).pwr = d.pwr := rfl
@[simp] theorem Dev.connUpd_boot (m : Nat) (g : Conn → Conn) : (d.connUpd m g).boot = d.boot := rfl
@[simp] theorem Dev.connUpd_per (m : Nat) (g : Conn → Conn) : (d.connUpd m g).per = d.per := rfl
@[simp] theorem Dev.connUpd_fo (m : Nat) (g : Conn → Conn) : (d.connUpd m g).fo = d.fo := rfl
@[simp] theorem Dev.connUpd_fio (m : Nat) (g : Conn → Conn) : (d.connUpd m g).fio = d.fio := rfl
@[simp] theorem Dev.connUpd_gch (m : Nat) (g : Conn → Conn) : (d.connUpd m g).gch = d.gch := rfl
@[simp] theorem Dev.connUpd_car (m : Nat) (g : Conn → Conn) : (d.connUpd m g).car = d.car := rfl
@[simp] theorem Dev.connUpd_clu (m : Nat) (g : Conn → Conn) : (d.connUpd m g).clu = d.clu := rfl
@[simp] theorem Dev.connUpd_pos (m : Nat) (g : Conn → Conn) : (d.connUpd m g).pos = d.pos := rfl
@[simp] theorem Dev.connUpd_pair (m : Nat) (g : Conn → Conn) : (d.connUpd m g).pair = d.pair := rfl
@[simp] theorem Dev.connUpd_hem (m : Nat) (g : Conn → Conn) : (d.connUpd m g).hem = d.hem := rfl
@[simp] theorem Dev.connUpd_tgrp (m : Nat) (g : Conn → Conn) : (d.connUpd m g).tgrp = d.tgrp := rfl
@[simp] theorem Dev.connUpd_thm (m : Nat) (g : Conn → Conn) : (d.connUpd m g).thm = d.thm := rfl
@[simp] theorem Dev.connUpd_axis (m : Nat) (g : Conn → Conn) : (d.connUpd m g).axis = d.axis := rfl
@[simp] theorem Dev.connUpd_dtm (m : Nat) (g : Conn → Conn) : (d.connUpd m g).dtm = d.dtm := rfl
@[simp] theorem Dev.connUpd_adc (m : Nat) (g : Conn → Conn) : (d.connUpd m g).adc = d.adc := rfl
@[simp] theorem Dev.connUpd_aux (m : Nat) (g : Conn → Conn) : (d.connUpd m g).aux = d.aux := rfl
@[simp] theorem Dev.connUpd_refOut (m : Nat) (g : Conn → Conn) : (d.connUpd m g).refOut = d.refOut := rfl
@[simp] theorem Dev.connUpd_img (m : Nat) (g : Conn → Conn) : (d.connUpd m g).img = d.img := rfl
@[simp] theorem Dev.connUpd_slc (m : Nat) (g : Conn → Conn) : (d.connUpd m g).slc = d.slc := rfl
@[simp] theorem Dev.connUpd_egr (m : Nat) (g : Conn → Conn) : (d.connUpd m g).egr = d.egr := rfl
@[simp] theorem Dev.connUpd_port (m : Nat) (g : Conn → Conn) : (d.connUpd m g).port = d.port := rfl
@[simp] theorem Dev.connUpd_can (m : Nat) (g : Conn → Conn) : (d.connUpd m g).can = d.can := rfl
@[simp] theorem Dev.connUpd_dom (m : Nat) (g : Conn → Conn) : (d.connUpd m g).dom = d.dom := rfl
@[simp] theorem Dev.connUpd_eth (m : Nat) (g : Conn → Conn) : (d.connUpd m g).eth = d.eth := rfl
@[simp] theorem Dev.connUpd_sfl (m : Nat) (g : Conn → Conn) : (d.connUpd m g).sfl = d.sfl := rfl
@[simp] theorem Dev.connUpd_spih (m : Nat) (g : Conn → Conn) : (d.connUpd m g).spih = d.spih := rfl
@[simp] theorem Dev.connUpd_m0 (m : Nat) (g : Conn → Conn) : (d.connUpd m g).m0 = d.m0 := rfl
@[simp] theorem Dev.connUpd_m1 (m : Nat) (g : Conn → Conn) : (d.connUpd m g).m1 = d.m1 := rfl
@[simp] theorem Dev.connUpd_lu (m : Nat) (g : Conn → Conn) : (d.connUpd m g).lu = d.lu := rfl
@[simp] theorem Dev.connUpd_nfc (m : Nat) (g : Conn → Conn) : (d.connUpd m g).nfc = d.nfc := rfl
@[simp] theorem Dev.connUpd_flw (m : Nat) (g : Conn → Conn) : (d.connUpd m g).flw = d.flw := rfl
@[simp] theorem Dev.connUpd_dbgTrig (m : Nat) (g : Conn → Conn) : (d.connUpd m g).dbgTrig = d.dbgTrig := rfl
@[simp] theorem Dev.connUpd_dbg (m : Nat) (g : Conn → Conn) : (d.connUpd m g).dbg = d.dbg := rfl
@[simp] theorem Dev.connUpd_foAt (m : Nat) (g : Conn → Conn) (n : Nat) : (d.connUpd m g).foAt n = d.foAt n := rfl
@[simp] theorem Dev.connUpd_gchAt (m : Nat) (g : Conn → Conn) (n : Nat) : (d.connUpd m g).gchAt n = d.gchAt n := rfl
@[simp] theorem Dev.connUpd_carAt (m : Nat) (g : Conn → Conn) (n : Nat) : (d.connUpd m g).carAt n = d.carAt n := rfl
@[simp] theorem Dev.connUpd_cluAt (m : Nat) (g : Conn → Conn) (n : Nat) : (d.connUpd m g).cluAt n = d.cluAt n := rfl
@[simp] theorem Dev.connUpd_posAt (m : Nat) (g : Conn → Conn) (n : Nat) : (d.connUpd m g).posAt n = d.posAt n := rfl
@[simp] theorem Dev.connUpd_pairAt (m : Nat) (g : Conn → Conn) (n : Nat) : (d.connUpd m g).pairAt n = d.pairAt n := rfl
@[simp] theorem Dev.connUpd_tgrpAt (m : Nat) (g : Conn → Conn) (n : Nat) : (d.connUpd m g).tgrpAt n = d.tgrpAt n := rfl
@[simp] theorem Dev.connUpd_axisAt (m : Nat) (g : Conn → Conn) (n : Nat) : (d.connUpd m g).axisAt n = d.axisAt n := rfl
@[simp] theorem Dev.connUpd_adcAt (m : Nat) (g : Conn → Conn) (n : Nat) : (d.connUpd m g).adcAt n = d.adcAt n := rfl
@[simp] theorem Dev.connUpd_auxAt (m : Nat) (g : Conn → Conn) (n : Nat) : (d.connUpd m g).auxAt n = d.auxAt n := rfl
@[simp] theorem Dev.connUpd_slcAt (m : Nat) (g : Conn → Conn) (n : Nat) : (d.connUpd m g).slcAt n = d.slcAt n := rfl
@[simp] theorem Dev.connUpd_egrAt (m : Nat) (g : Conn → Conn) (n : Nat) : (d.connUpd m g).egrAt n = d.egrAt n := rfl
@[simp] theorem Dev.connUpd_portAt (m : Nat) (g : Conn → Conn) (n : Nat) : (d.connUpd m g).portAt n = d.portAt n := rfl
@[simp] theorem Dev.connUpd_canAt (m : Nat) (g : Conn → Conn) (n : Nat) : (d.connUpd m g).canAt n = d.canAt n := rfl
@[simp] theorem Dev.connUpd_luAt (m : Nat) (g : Conn → Conn) (n : Nat) : (d.connUpd m g).luAt n = d.luAt n := rfl
@[simp] theorem Dev.connUpd_reg (m : Nat) (g : Conn → Conn) (a : Nat) : (d.connUpd m g).reg a = d.reg a := rfl
@[simp] theorem Dev.connUpd_get (m : Nat) (g : Conn → Conn) (f : Fld) : (d.connUpd m g).get f = d.get f := rfl
@[simp] theorem Dev.connUpd_getI (m : Nat) (g : Conn → Conn) (f : Fld) : (d.connUpd m g).getI f = d.getI f := rfl
@[simp] theorem Dev.connUpd_bit (m : Nat) (g : Conn → Conn) (f : Fld) : (d.connUpd m g).bit f = d.bit f := rfl
@[simp] theorem Dev.connUpd_tb (m : Nat) (g : Conn → Conn) (f : Fld) (i : Nat) : (d.connUpd m g).tb f i = d.tb f i := rfl
@[simp] theorem Dev.connUpd_sch (m : Nat) (g : Conn → Conn) (c : Nat) : (d.connUpd m g).sch c = d.sch c := rfl

/-! ### `Dev.adcUpd` writes the records `adc` only -/

@[simp] theorem Dev.adcUpd_regs (m : Nat) (g : Adc → Adc) : (d.adcUpd m g).regs = d.regs := rfl
@[simp] theorem Dev.adcUpd_time (m : Nat) (g : Adc → Adc) : (d.adcUpd m g).time = d.time := rfl
@[simp] theorem Dev.adcUpd_frac (m : Nat) (g : Adc → Adc) : (d.adcUpd m g).frac = d.frac := rfl
@[simp] theorem Dev.adcUpd_mono (m : Nat) (g : Adc → Adc) : (d.adcUpd m g).mono = d.mono := rfl
@[simp] theorem Dev.adcUpd_free (m : Nat) (g : Adc → Adc) : (d.adcUpd m g).free = d.free := rfl
@[simp] theorem Dev.adcUpd_lims (m : Nat) (g : Adc → Adc) : (d.adcUpd m g).lims = d.lims := rfl
@[simp] theorem Dev.adcUpd_spool (m : Nat) (g : Adc → Adc) : (d.adcUpd m g).spool = d.spool := rfl
@[simp] theorem Dev.adcUpd_splTurn (m : Nat) (g : Adc → Adc) : (d.adcUpd m g).splTurn = d.splTurn := rfl
@[simp] theorem Dev.adcUpd_jnl (m : Nat) (g : Adc → Adc) : (d.adcUpd m g).jnl = d.jnl := rfl
@[simp] theorem Dev.adcUpd_pwr (m : Nat) (g : Adc → Adc) : (d.adcUpd m g).pwr = d.pwr := rfl
@[simp] theorem Dev.adcUpd_boot (m : Nat) (g : Adc → Adc) : (d.adcUpd m g).boot = d.boot := rfl
@[simp] theorem Dev.adcUpd_per (m : Nat) (g : Adc → Adc) : (d.adcUpd m g).per = d.per := rfl
@[simp] theorem Dev.adcUpd_fo (m : Nat) (g : Adc → Adc) : (d.adcUpd m g).fo = d.fo := rfl
@[simp] theorem Dev.adcUpd_fio (m : Nat) (g : Adc → Adc) : (d.adcUpd m g).fio = d.fio := rfl
@[simp] theorem Dev.adcUpd_gch (m : Nat) (g : Adc → Adc) : (d.adcUpd m g).gch = d.gch := rfl
@[simp] theorem Dev.adcUpd_car (m : Nat) (g : Adc → Adc) : (d.adcUpd m g).car = d.car := rfl
@[simp] theorem Dev.adcUpd_clu (m : Nat) (g : Adc → Adc) : (d.adcUpd m g).clu = d.clu := rfl
@[simp] theorem Dev.adcUpd_pos (m : Nat) (g : Adc → Adc) : (d.adcUpd m g).pos = d.pos := rfl
@[simp] theorem Dev.adcUpd_pair (m : Nat) (g : Adc → Adc) : (d.adcUpd m g).pair = d.pair := rfl
@[simp] theorem Dev.adcUpd_hem (m : Nat) (g : Adc → Adc) : (d.adcUpd m g).hem = d.hem := rfl
@[simp] theorem Dev.adcUpd_tgrp (m : Nat) (g : Adc → Adc) : (d.adcUpd m g).tgrp = d.tgrp := rfl
@[simp] theorem Dev.adcUpd_thm (m : Nat) (g : Adc → Adc) : (d.adcUpd m g).thm = d.thm := rfl
@[simp] theorem Dev.adcUpd_axis (m : Nat) (g : Adc → Adc) : (d.adcUpd m g).axis = d.axis := rfl
@[simp] theorem Dev.adcUpd_conn (m : Nat) (g : Adc → Adc) : (d.adcUpd m g).conn = d.conn := rfl
@[simp] theorem Dev.adcUpd_dtm (m : Nat) (g : Adc → Adc) : (d.adcUpd m g).dtm = d.dtm := rfl
@[simp] theorem Dev.adcUpd_aux (m : Nat) (g : Adc → Adc) : (d.adcUpd m g).aux = d.aux := rfl
@[simp] theorem Dev.adcUpd_refOut (m : Nat) (g : Adc → Adc) : (d.adcUpd m g).refOut = d.refOut := rfl
@[simp] theorem Dev.adcUpd_img (m : Nat) (g : Adc → Adc) : (d.adcUpd m g).img = d.img := rfl
@[simp] theorem Dev.adcUpd_slc (m : Nat) (g : Adc → Adc) : (d.adcUpd m g).slc = d.slc := rfl
@[simp] theorem Dev.adcUpd_egr (m : Nat) (g : Adc → Adc) : (d.adcUpd m g).egr = d.egr := rfl
@[simp] theorem Dev.adcUpd_port (m : Nat) (g : Adc → Adc) : (d.adcUpd m g).port = d.port := rfl
@[simp] theorem Dev.adcUpd_can (m : Nat) (g : Adc → Adc) : (d.adcUpd m g).can = d.can := rfl
@[simp] theorem Dev.adcUpd_dom (m : Nat) (g : Adc → Adc) : (d.adcUpd m g).dom = d.dom := rfl
@[simp] theorem Dev.adcUpd_eth (m : Nat) (g : Adc → Adc) : (d.adcUpd m g).eth = d.eth := rfl
@[simp] theorem Dev.adcUpd_sfl (m : Nat) (g : Adc → Adc) : (d.adcUpd m g).sfl = d.sfl := rfl
@[simp] theorem Dev.adcUpd_spih (m : Nat) (g : Adc → Adc) : (d.adcUpd m g).spih = d.spih := rfl
@[simp] theorem Dev.adcUpd_m0 (m : Nat) (g : Adc → Adc) : (d.adcUpd m g).m0 = d.m0 := rfl
@[simp] theorem Dev.adcUpd_m1 (m : Nat) (g : Adc → Adc) : (d.adcUpd m g).m1 = d.m1 := rfl
@[simp] theorem Dev.adcUpd_lu (m : Nat) (g : Adc → Adc) : (d.adcUpd m g).lu = d.lu := rfl
@[simp] theorem Dev.adcUpd_nfc (m : Nat) (g : Adc → Adc) : (d.adcUpd m g).nfc = d.nfc := rfl
@[simp] theorem Dev.adcUpd_flw (m : Nat) (g : Adc → Adc) : (d.adcUpd m g).flw = d.flw := rfl
@[simp] theorem Dev.adcUpd_dbgTrig (m : Nat) (g : Adc → Adc) : (d.adcUpd m g).dbgTrig = d.dbgTrig := rfl
@[simp] theorem Dev.adcUpd_dbg (m : Nat) (g : Adc → Adc) : (d.adcUpd m g).dbg = d.dbg := rfl
@[simp] theorem Dev.adcUpd_foAt (m : Nat) (g : Adc → Adc) (n : Nat) : (d.adcUpd m g).foAt n = d.foAt n := rfl
@[simp] theorem Dev.adcUpd_gchAt (m : Nat) (g : Adc → Adc) (n : Nat) : (d.adcUpd m g).gchAt n = d.gchAt n := rfl
@[simp] theorem Dev.adcUpd_carAt (m : Nat) (g : Adc → Adc) (n : Nat) : (d.adcUpd m g).carAt n = d.carAt n := rfl
@[simp] theorem Dev.adcUpd_cluAt (m : Nat) (g : Adc → Adc) (n : Nat) : (d.adcUpd m g).cluAt n = d.cluAt n := rfl
@[simp] theorem Dev.adcUpd_posAt (m : Nat) (g : Adc → Adc) (n : Nat) : (d.adcUpd m g).posAt n = d.posAt n := rfl
@[simp] theorem Dev.adcUpd_pairAt (m : Nat) (g : Adc → Adc) (n : Nat) : (d.adcUpd m g).pairAt n = d.pairAt n := rfl
@[simp] theorem Dev.adcUpd_tgrpAt (m : Nat) (g : Adc → Adc) (n : Nat) : (d.adcUpd m g).tgrpAt n = d.tgrpAt n := rfl
@[simp] theorem Dev.adcUpd_axisAt (m : Nat) (g : Adc → Adc) (n : Nat) : (d.adcUpd m g).axisAt n = d.axisAt n := rfl
@[simp] theorem Dev.adcUpd_connAt (m : Nat) (g : Adc → Adc) (n : Nat) : (d.adcUpd m g).connAt n = d.connAt n := rfl
@[simp] theorem Dev.adcUpd_auxAt (m : Nat) (g : Adc → Adc) (n : Nat) : (d.adcUpd m g).auxAt n = d.auxAt n := rfl
@[simp] theorem Dev.adcUpd_slcAt (m : Nat) (g : Adc → Adc) (n : Nat) : (d.adcUpd m g).slcAt n = d.slcAt n := rfl
@[simp] theorem Dev.adcUpd_egrAt (m : Nat) (g : Adc → Adc) (n : Nat) : (d.adcUpd m g).egrAt n = d.egrAt n := rfl
@[simp] theorem Dev.adcUpd_portAt (m : Nat) (g : Adc → Adc) (n : Nat) : (d.adcUpd m g).portAt n = d.portAt n := rfl
@[simp] theorem Dev.adcUpd_canAt (m : Nat) (g : Adc → Adc) (n : Nat) : (d.adcUpd m g).canAt n = d.canAt n := rfl
@[simp] theorem Dev.adcUpd_luAt (m : Nat) (g : Adc → Adc) (n : Nat) : (d.adcUpd m g).luAt n = d.luAt n := rfl
@[simp] theorem Dev.adcUpd_reg (m : Nat) (g : Adc → Adc) (a : Nat) : (d.adcUpd m g).reg a = d.reg a := rfl
@[simp] theorem Dev.adcUpd_get (m : Nat) (g : Adc → Adc) (f : Fld) : (d.adcUpd m g).get f = d.get f := rfl
@[simp] theorem Dev.adcUpd_getI (m : Nat) (g : Adc → Adc) (f : Fld) : (d.adcUpd m g).getI f = d.getI f := rfl
@[simp] theorem Dev.adcUpd_bit (m : Nat) (g : Adc → Adc) (f : Fld) : (d.adcUpd m g).bit f = d.bit f := rfl
@[simp] theorem Dev.adcUpd_tb (m : Nat) (g : Adc → Adc) (f : Fld) (i : Nat) : (d.adcUpd m g).tb f i = d.tb f i := rfl
@[simp] theorem Dev.adcUpd_sch (m : Nat) (g : Adc → Adc) (c : Nat) : (d.adcUpd m g).sch c = d.sch c := rfl

/-! ### `Dev.auxUpd` writes the records `aux` only -/

@[simp] theorem Dev.auxUpd_regs (m : Nat) (g : Aux → Aux) : (d.auxUpd m g).regs = d.regs := rfl
@[simp] theorem Dev.auxUpd_time (m : Nat) (g : Aux → Aux) : (d.auxUpd m g).time = d.time := rfl
@[simp] theorem Dev.auxUpd_frac (m : Nat) (g : Aux → Aux) : (d.auxUpd m g).frac = d.frac := rfl
@[simp] theorem Dev.auxUpd_mono (m : Nat) (g : Aux → Aux) : (d.auxUpd m g).mono = d.mono := rfl
@[simp] theorem Dev.auxUpd_free (m : Nat) (g : Aux → Aux) : (d.auxUpd m g).free = d.free := rfl
@[simp] theorem Dev.auxUpd_lims (m : Nat) (g : Aux → Aux) : (d.auxUpd m g).lims = d.lims := rfl
@[simp] theorem Dev.auxUpd_spool (m : Nat) (g : Aux → Aux) : (d.auxUpd m g).spool = d.spool := rfl
@[simp] theorem Dev.auxUpd_splTurn (m : Nat) (g : Aux → Aux) : (d.auxUpd m g).splTurn = d.splTurn := rfl
@[simp] theorem Dev.auxUpd_jnl (m : Nat) (g : Aux → Aux) : (d.auxUpd m g).jnl = d.jnl := rfl
@[simp] theorem Dev.auxUpd_pwr (m : Nat) (g : Aux → Aux) : (d.auxUpd m g).pwr = d.pwr := rfl
@[simp] theorem Dev.auxUpd_boot (m : Nat) (g : Aux → Aux) : (d.auxUpd m g).boot = d.boot := rfl
@[simp] theorem Dev.auxUpd_per (m : Nat) (g : Aux → Aux) : (d.auxUpd m g).per = d.per := rfl
@[simp] theorem Dev.auxUpd_fo (m : Nat) (g : Aux → Aux) : (d.auxUpd m g).fo = d.fo := rfl
@[simp] theorem Dev.auxUpd_fio (m : Nat) (g : Aux → Aux) : (d.auxUpd m g).fio = d.fio := rfl
@[simp] theorem Dev.auxUpd_gch (m : Nat) (g : Aux → Aux) : (d.auxUpd m g).gch = d.gch := rfl
@[simp] theorem Dev.auxUpd_car (m : Nat) (g : Aux → Aux) : (d.auxUpd m g).car = d.car := rfl
@[simp] theorem Dev.auxUpd_clu (m : Nat) (g : Aux → Aux) : (d.auxUpd m g).clu = d.clu := rfl
@[simp] theorem Dev.auxUpd_pos (m : Nat) (g : Aux → Aux) : (d.auxUpd m g).pos = d.pos := rfl
@[simp] theorem Dev.auxUpd_pair (m : Nat) (g : Aux → Aux) : (d.auxUpd m g).pair = d.pair := rfl
@[simp] theorem Dev.auxUpd_hem (m : Nat) (g : Aux → Aux) : (d.auxUpd m g).hem = d.hem := rfl
@[simp] theorem Dev.auxUpd_tgrp (m : Nat) (g : Aux → Aux) : (d.auxUpd m g).tgrp = d.tgrp := rfl
@[simp] theorem Dev.auxUpd_thm (m : Nat) (g : Aux → Aux) : (d.auxUpd m g).thm = d.thm := rfl
@[simp] theorem Dev.auxUpd_axis (m : Nat) (g : Aux → Aux) : (d.auxUpd m g).axis = d.axis := rfl
@[simp] theorem Dev.auxUpd_conn (m : Nat) (g : Aux → Aux) : (d.auxUpd m g).conn = d.conn := rfl
@[simp] theorem Dev.auxUpd_dtm (m : Nat) (g : Aux → Aux) : (d.auxUpd m g).dtm = d.dtm := rfl
@[simp] theorem Dev.auxUpd_adc (m : Nat) (g : Aux → Aux) : (d.auxUpd m g).adc = d.adc := rfl
@[simp] theorem Dev.auxUpd_refOut (m : Nat) (g : Aux → Aux) : (d.auxUpd m g).refOut = d.refOut := rfl
@[simp] theorem Dev.auxUpd_img (m : Nat) (g : Aux → Aux) : (d.auxUpd m g).img = d.img := rfl
@[simp] theorem Dev.auxUpd_slc (m : Nat) (g : Aux → Aux) : (d.auxUpd m g).slc = d.slc := rfl
@[simp] theorem Dev.auxUpd_egr (m : Nat) (g : Aux → Aux) : (d.auxUpd m g).egr = d.egr := rfl
@[simp] theorem Dev.auxUpd_port (m : Nat) (g : Aux → Aux) : (d.auxUpd m g).port = d.port := rfl
@[simp] theorem Dev.auxUpd_can (m : Nat) (g : Aux → Aux) : (d.auxUpd m g).can = d.can := rfl
@[simp] theorem Dev.auxUpd_dom (m : Nat) (g : Aux → Aux) : (d.auxUpd m g).dom = d.dom := rfl
@[simp] theorem Dev.auxUpd_eth (m : Nat) (g : Aux → Aux) : (d.auxUpd m g).eth = d.eth := rfl
@[simp] theorem Dev.auxUpd_sfl (m : Nat) (g : Aux → Aux) : (d.auxUpd m g).sfl = d.sfl := rfl
@[simp] theorem Dev.auxUpd_spih (m : Nat) (g : Aux → Aux) : (d.auxUpd m g).spih = d.spih := rfl
@[simp] theorem Dev.auxUpd_m0 (m : Nat) (g : Aux → Aux) : (d.auxUpd m g).m0 = d.m0 := rfl
@[simp] theorem Dev.auxUpd_m1 (m : Nat) (g : Aux → Aux) : (d.auxUpd m g).m1 = d.m1 := rfl
@[simp] theorem Dev.auxUpd_lu (m : Nat) (g : Aux → Aux) : (d.auxUpd m g).lu = d.lu := rfl
@[simp] theorem Dev.auxUpd_nfc (m : Nat) (g : Aux → Aux) : (d.auxUpd m g).nfc = d.nfc := rfl
@[simp] theorem Dev.auxUpd_flw (m : Nat) (g : Aux → Aux) : (d.auxUpd m g).flw = d.flw := rfl
@[simp] theorem Dev.auxUpd_dbgTrig (m : Nat) (g : Aux → Aux) : (d.auxUpd m g).dbgTrig = d.dbgTrig := rfl
@[simp] theorem Dev.auxUpd_dbg (m : Nat) (g : Aux → Aux) : (d.auxUpd m g).dbg = d.dbg := rfl
@[simp] theorem Dev.auxUpd_foAt (m : Nat) (g : Aux → Aux) (n : Nat) : (d.auxUpd m g).foAt n = d.foAt n := rfl
@[simp] theorem Dev.auxUpd_gchAt (m : Nat) (g : Aux → Aux) (n : Nat) : (d.auxUpd m g).gchAt n = d.gchAt n := rfl
@[simp] theorem Dev.auxUpd_carAt (m : Nat) (g : Aux → Aux) (n : Nat) : (d.auxUpd m g).carAt n = d.carAt n := rfl
@[simp] theorem Dev.auxUpd_cluAt (m : Nat) (g : Aux → Aux) (n : Nat) : (d.auxUpd m g).cluAt n = d.cluAt n := rfl
@[simp] theorem Dev.auxUpd_posAt (m : Nat) (g : Aux → Aux) (n : Nat) : (d.auxUpd m g).posAt n = d.posAt n := rfl
@[simp] theorem Dev.auxUpd_pairAt (m : Nat) (g : Aux → Aux) (n : Nat) : (d.auxUpd m g).pairAt n = d.pairAt n := rfl
@[simp] theorem Dev.auxUpd_tgrpAt (m : Nat) (g : Aux → Aux) (n : Nat) : (d.auxUpd m g).tgrpAt n = d.tgrpAt n := rfl
@[simp] theorem Dev.auxUpd_axisAt (m : Nat) (g : Aux → Aux) (n : Nat) : (d.auxUpd m g).axisAt n = d.axisAt n := rfl
@[simp] theorem Dev.auxUpd_connAt (m : Nat) (g : Aux → Aux) (n : Nat) : (d.auxUpd m g).connAt n = d.connAt n := rfl
@[simp] theorem Dev.auxUpd_adcAt (m : Nat) (g : Aux → Aux) (n : Nat) : (d.auxUpd m g).adcAt n = d.adcAt n := rfl
@[simp] theorem Dev.auxUpd_slcAt (m : Nat) (g : Aux → Aux) (n : Nat) : (d.auxUpd m g).slcAt n = d.slcAt n := rfl
@[simp] theorem Dev.auxUpd_egrAt (m : Nat) (g : Aux → Aux) (n : Nat) : (d.auxUpd m g).egrAt n = d.egrAt n := rfl
@[simp] theorem Dev.auxUpd_portAt (m : Nat) (g : Aux → Aux) (n : Nat) : (d.auxUpd m g).portAt n = d.portAt n := rfl
@[simp] theorem Dev.auxUpd_canAt (m : Nat) (g : Aux → Aux) (n : Nat) : (d.auxUpd m g).canAt n = d.canAt n := rfl
@[simp] theorem Dev.auxUpd_luAt (m : Nat) (g : Aux → Aux) (n : Nat) : (d.auxUpd m g).luAt n = d.luAt n := rfl
@[simp] theorem Dev.auxUpd_reg (m : Nat) (g : Aux → Aux) (a : Nat) : (d.auxUpd m g).reg a = d.reg a := rfl
@[simp] theorem Dev.auxUpd_get (m : Nat) (g : Aux → Aux) (f : Fld) : (d.auxUpd m g).get f = d.get f := rfl
@[simp] theorem Dev.auxUpd_getI (m : Nat) (g : Aux → Aux) (f : Fld) : (d.auxUpd m g).getI f = d.getI f := rfl
@[simp] theorem Dev.auxUpd_bit (m : Nat) (g : Aux → Aux) (f : Fld) : (d.auxUpd m g).bit f = d.bit f := rfl
@[simp] theorem Dev.auxUpd_tb (m : Nat) (g : Aux → Aux) (f : Fld) (i : Nat) : (d.auxUpd m g).tb f i = d.tb f i := rfl
@[simp] theorem Dev.auxUpd_sch (m : Nat) (g : Aux → Aux) (c : Nat) : (d.auxUpd m g).sch c = d.sch c := rfl

/-! ### `Dev.slcUpd` writes the records `slc` only -/

@[simp] theorem Dev.slcUpd_regs (m : Nat) (g : Slice → Slice) : (d.slcUpd m g).regs = d.regs := rfl
@[simp] theorem Dev.slcUpd_time (m : Nat) (g : Slice → Slice) : (d.slcUpd m g).time = d.time := rfl
@[simp] theorem Dev.slcUpd_frac (m : Nat) (g : Slice → Slice) : (d.slcUpd m g).frac = d.frac := rfl
@[simp] theorem Dev.slcUpd_mono (m : Nat) (g : Slice → Slice) : (d.slcUpd m g).mono = d.mono := rfl
@[simp] theorem Dev.slcUpd_free (m : Nat) (g : Slice → Slice) : (d.slcUpd m g).free = d.free := rfl
@[simp] theorem Dev.slcUpd_lims (m : Nat) (g : Slice → Slice) : (d.slcUpd m g).lims = d.lims := rfl
@[simp] theorem Dev.slcUpd_spool (m : Nat) (g : Slice → Slice) : (d.slcUpd m g).spool = d.spool := rfl
@[simp] theorem Dev.slcUpd_splTurn (m : Nat) (g : Slice → Slice) : (d.slcUpd m g).splTurn = d.splTurn := rfl
@[simp] theorem Dev.slcUpd_jnl (m : Nat) (g : Slice → Slice) : (d.slcUpd m g).jnl = d.jnl := rfl
@[simp] theorem Dev.slcUpd_pwr (m : Nat) (g : Slice → Slice) : (d.slcUpd m g).pwr = d.pwr := rfl
@[simp] theorem Dev.slcUpd_boot (m : Nat) (g : Slice → Slice) : (d.slcUpd m g).boot = d.boot := rfl
@[simp] theorem Dev.slcUpd_per (m : Nat) (g : Slice → Slice) : (d.slcUpd m g).per = d.per := rfl
@[simp] theorem Dev.slcUpd_fo (m : Nat) (g : Slice → Slice) : (d.slcUpd m g).fo = d.fo := rfl
@[simp] theorem Dev.slcUpd_fio (m : Nat) (g : Slice → Slice) : (d.slcUpd m g).fio = d.fio := rfl
@[simp] theorem Dev.slcUpd_gch (m : Nat) (g : Slice → Slice) : (d.slcUpd m g).gch = d.gch := rfl
@[simp] theorem Dev.slcUpd_car (m : Nat) (g : Slice → Slice) : (d.slcUpd m g).car = d.car := rfl
@[simp] theorem Dev.slcUpd_clu (m : Nat) (g : Slice → Slice) : (d.slcUpd m g).clu = d.clu := rfl
@[simp] theorem Dev.slcUpd_pos (m : Nat) (g : Slice → Slice) : (d.slcUpd m g).pos = d.pos := rfl
@[simp] theorem Dev.slcUpd_pair (m : Nat) (g : Slice → Slice) : (d.slcUpd m g).pair = d.pair := rfl
@[simp] theorem Dev.slcUpd_hem (m : Nat) (g : Slice → Slice) : (d.slcUpd m g).hem = d.hem := rfl
@[simp] theorem Dev.slcUpd_tgrp (m : Nat) (g : Slice → Slice) : (d.slcUpd m g).tgrp = d.tgrp := rfl
@[simp] theorem Dev.slcUpd_thm (m : Nat) (g : Slice → Slice) : (d.slcUpd m g).thm = d.thm := rfl
@[simp] theorem Dev.slcUpd_axis (m : Nat) (g : Slice → Slice) : (d.slcUpd m g).axis = d.axis := rfl
@[simp] theorem Dev.slcUpd_conn (m : Nat) (g : Slice → Slice) : (d.slcUpd m g).conn = d.conn := rfl
@[simp] theorem Dev.slcUpd_dtm (m : Nat) (g : Slice → Slice) : (d.slcUpd m g).dtm = d.dtm := rfl
@[simp] theorem Dev.slcUpd_adc (m : Nat) (g : Slice → Slice) : (d.slcUpd m g).adc = d.adc := rfl
@[simp] theorem Dev.slcUpd_aux (m : Nat) (g : Slice → Slice) : (d.slcUpd m g).aux = d.aux := rfl
@[simp] theorem Dev.slcUpd_refOut (m : Nat) (g : Slice → Slice) : (d.slcUpd m g).refOut = d.refOut := rfl
@[simp] theorem Dev.slcUpd_img (m : Nat) (g : Slice → Slice) : (d.slcUpd m g).img = d.img := rfl
@[simp] theorem Dev.slcUpd_egr (m : Nat) (g : Slice → Slice) : (d.slcUpd m g).egr = d.egr := rfl
@[simp] theorem Dev.slcUpd_port (m : Nat) (g : Slice → Slice) : (d.slcUpd m g).port = d.port := rfl
@[simp] theorem Dev.slcUpd_can (m : Nat) (g : Slice → Slice) : (d.slcUpd m g).can = d.can := rfl
@[simp] theorem Dev.slcUpd_dom (m : Nat) (g : Slice → Slice) : (d.slcUpd m g).dom = d.dom := rfl
@[simp] theorem Dev.slcUpd_eth (m : Nat) (g : Slice → Slice) : (d.slcUpd m g).eth = d.eth := rfl
@[simp] theorem Dev.slcUpd_sfl (m : Nat) (g : Slice → Slice) : (d.slcUpd m g).sfl = d.sfl := rfl
@[simp] theorem Dev.slcUpd_spih (m : Nat) (g : Slice → Slice) : (d.slcUpd m g).spih = d.spih := rfl
@[simp] theorem Dev.slcUpd_m0 (m : Nat) (g : Slice → Slice) : (d.slcUpd m g).m0 = d.m0 := rfl
@[simp] theorem Dev.slcUpd_m1 (m : Nat) (g : Slice → Slice) : (d.slcUpd m g).m1 = d.m1 := rfl
@[simp] theorem Dev.slcUpd_lu (m : Nat) (g : Slice → Slice) : (d.slcUpd m g).lu = d.lu := rfl
@[simp] theorem Dev.slcUpd_nfc (m : Nat) (g : Slice → Slice) : (d.slcUpd m g).nfc = d.nfc := rfl
@[simp] theorem Dev.slcUpd_flw (m : Nat) (g : Slice → Slice) : (d.slcUpd m g).flw = d.flw := rfl
@[simp] theorem Dev.slcUpd_dbgTrig (m : Nat) (g : Slice → Slice) : (d.slcUpd m g).dbgTrig = d.dbgTrig := rfl
@[simp] theorem Dev.slcUpd_dbg (m : Nat) (g : Slice → Slice) : (d.slcUpd m g).dbg = d.dbg := rfl
@[simp] theorem Dev.slcUpd_foAt (m : Nat) (g : Slice → Slice) (n : Nat) : (d.slcUpd m g).foAt n = d.foAt n := rfl
@[simp] theorem Dev.slcUpd_gchAt (m : Nat) (g : Slice → Slice) (n : Nat) : (d.slcUpd m g).gchAt n = d.gchAt n := rfl
@[simp] theorem Dev.slcUpd_carAt (m : Nat) (g : Slice → Slice) (n : Nat) : (d.slcUpd m g).carAt n = d.carAt n := rfl
@[simp] theorem Dev.slcUpd_cluAt (m : Nat) (g : Slice → Slice) (n : Nat) : (d.slcUpd m g).cluAt n = d.cluAt n := rfl
@[simp] theorem Dev.slcUpd_posAt (m : Nat) (g : Slice → Slice) (n : Nat) : (d.slcUpd m g).posAt n = d.posAt n := rfl
@[simp] theorem Dev.slcUpd_pairAt (m : Nat) (g : Slice → Slice) (n : Nat) : (d.slcUpd m g).pairAt n = d.pairAt n := rfl
@[simp] theorem Dev.slcUpd_tgrpAt (m : Nat) (g : Slice → Slice) (n : Nat) : (d.slcUpd m g).tgrpAt n = d.tgrpAt n := rfl
@[simp] theorem Dev.slcUpd_axisAt (m : Nat) (g : Slice → Slice) (n : Nat) : (d.slcUpd m g).axisAt n = d.axisAt n := rfl
@[simp] theorem Dev.slcUpd_connAt (m : Nat) (g : Slice → Slice) (n : Nat) : (d.slcUpd m g).connAt n = d.connAt n := rfl
@[simp] theorem Dev.slcUpd_adcAt (m : Nat) (g : Slice → Slice) (n : Nat) : (d.slcUpd m g).adcAt n = d.adcAt n := rfl
@[simp] theorem Dev.slcUpd_auxAt (m : Nat) (g : Slice → Slice) (n : Nat) : (d.slcUpd m g).auxAt n = d.auxAt n := rfl
@[simp] theorem Dev.slcUpd_egrAt (m : Nat) (g : Slice → Slice) (n : Nat) : (d.slcUpd m g).egrAt n = d.egrAt n := rfl
@[simp] theorem Dev.slcUpd_portAt (m : Nat) (g : Slice → Slice) (n : Nat) : (d.slcUpd m g).portAt n = d.portAt n := rfl
@[simp] theorem Dev.slcUpd_canAt (m : Nat) (g : Slice → Slice) (n : Nat) : (d.slcUpd m g).canAt n = d.canAt n := rfl
@[simp] theorem Dev.slcUpd_luAt (m : Nat) (g : Slice → Slice) (n : Nat) : (d.slcUpd m g).luAt n = d.luAt n := rfl
@[simp] theorem Dev.slcUpd_reg (m : Nat) (g : Slice → Slice) (a : Nat) : (d.slcUpd m g).reg a = d.reg a := rfl
@[simp] theorem Dev.slcUpd_get (m : Nat) (g : Slice → Slice) (f : Fld) : (d.slcUpd m g).get f = d.get f := rfl
@[simp] theorem Dev.slcUpd_getI (m : Nat) (g : Slice → Slice) (f : Fld) : (d.slcUpd m g).getI f = d.getI f := rfl
@[simp] theorem Dev.slcUpd_bit (m : Nat) (g : Slice → Slice) (f : Fld) : (d.slcUpd m g).bit f = d.bit f := rfl
@[simp] theorem Dev.slcUpd_tb (m : Nat) (g : Slice → Slice) (f : Fld) (i : Nat) : (d.slcUpd m g).tb f i = d.tb f i := rfl
@[simp] theorem Dev.slcUpd_sch (m : Nat) (g : Slice → Slice) (c : Nat) : (d.slcUpd m g).sch c = d.sch c := rfl

/-! ### `Dev.egrUpd` writes the records `egr` only -/

@[simp] theorem Dev.egrUpd_regs (m : Nat) (g : EGrp → EGrp) : (d.egrUpd m g).regs = d.regs := rfl
@[simp] theorem Dev.egrUpd_time (m : Nat) (g : EGrp → EGrp) : (d.egrUpd m g).time = d.time := rfl
@[simp] theorem Dev.egrUpd_frac (m : Nat) (g : EGrp → EGrp) : (d.egrUpd m g).frac = d.frac := rfl
@[simp] theorem Dev.egrUpd_mono (m : Nat) (g : EGrp → EGrp) : (d.egrUpd m g).mono = d.mono := rfl
@[simp] theorem Dev.egrUpd_free (m : Nat) (g : EGrp → EGrp) : (d.egrUpd m g).free = d.free := rfl
@[simp] theorem Dev.egrUpd_lims (m : Nat) (g : EGrp → EGrp) : (d.egrUpd m g).lims = d.lims := rfl
@[simp] theorem Dev.egrUpd_spool (m : Nat) (g : EGrp → EGrp) : (d.egrUpd m g).spool = d.spool := rfl
@[simp] theorem Dev.egrUpd_splTurn (m : Nat) (g : EGrp → EGrp) : (d.egrUpd m g).splTurn = d.splTurn := rfl
@[simp] theorem Dev.egrUpd_jnl (m : Nat) (g : EGrp → EGrp) : (d.egrUpd m g).jnl = d.jnl := rfl
@[simp] theorem Dev.egrUpd_pwr (m : Nat) (g : EGrp → EGrp) : (d.egrUpd m g).pwr = d.pwr := rfl
@[simp] theorem Dev.egrUpd_boot (m : Nat) (g : EGrp → EGrp) : (d.egrUpd m g).boot = d.boot := rfl
@[simp] theorem Dev.egrUpd_per (m : Nat) (g : EGrp → EGrp) : (d.egrUpd m g).per = d.per := rfl
@[simp] theorem Dev.egrUpd_fo (m : Nat) (g : EGrp → EGrp) : (d.egrUpd m g).fo = d.fo := rfl
@[simp] theorem Dev.egrUpd_fio (m : Nat) (g : EGrp → EGrp) : (d.egrUpd m g).fio = d.fio := rfl
@[simp] theorem Dev.egrUpd_gch (m : Nat) (g : EGrp → EGrp) : (d.egrUpd m g).gch = d.gch := rfl
@[simp] theorem Dev.egrUpd_car (m : Nat) (g : EGrp → EGrp) : (d.egrUpd m g).car = d.car := rfl
@[simp] theorem Dev.egrUpd_clu (m : Nat) (g : EGrp → EGrp) : (d.egrUpd m g).clu = d.clu := rfl
@[simp] theorem Dev.egrUpd_pos (m : Nat) (g : EGrp → EGrp) : (d.egrUpd m g).pos = d.pos := rfl
@[simp] theorem Dev.egrUpd_pair (m : Nat) (g : EGrp → EGrp) : (d.egrUpd m g).pair = d.pair := rfl
@[simp] theorem Dev.egrUpd_hem (m : Nat) (g : EGrp → EGrp) : (d.egrUpd m g).hem = d.hem := rfl
@[simp] theorem Dev.egrUpd_tgrp (m : Nat) (g : EGrp → EGrp) : (d.egrUpd m g).tgrp = d.tgrp := rfl
@[simp] theorem Dev.egrUpd_thm (m : Nat) (g : EGrp → EGrp) : (d.egrUpd m g).thm = d.thm := rfl
@[simp] theorem Dev.egrUpd_axis (m : Nat) (g : EGrp → EGrp) : (d.egrUpd m g).axis = d.axis := rfl
@[simp] theorem Dev.egrUpd_conn (m : Nat) (g : EGrp → EGrp) : (d.egrUpd m g).conn = d.conn := rfl
@[simp] theorem Dev.egrUpd_dtm (m : Nat) (g : EGrp → EGrp) : (d.egrUpd m g).dtm = d.dtm := rfl
@[simp] theorem Dev.egrUpd_adc (m : Nat) (g : EGrp → EGrp) : (d.egrUpd m g).adc = d.adc := rfl
@[simp] theorem Dev.egrUpd_aux (m : Nat) (g : EGrp → EGrp) : (d.egrUpd m g).aux = d.aux := rfl
@[simp] theorem Dev.egrUpd_refOut (m : Nat) (g : EGrp → EGrp) : (d.egrUpd m g).refOut = d.refOut := rfl
@[simp] theorem Dev.egrUpd_img (m : Nat) (g : EGrp → EGrp) : (d.egrUpd m g).img = d.img := rfl
@[simp] theorem Dev.egrUpd_slc (m : Nat) (g : EGrp → EGrp) : (d.egrUpd m g).slc = d.slc := rfl
@[simp] theorem Dev.egrUpd_port (m : Nat) (g : EGrp → EGrp) : (d.egrUpd m g).port = d.port := rfl
@[simp] theorem Dev.egrUpd_can (m : Nat) (g : EGrp → EGrp) : (d.egrUpd m g).can = d.can := rfl
@[simp] theorem Dev.egrUpd_dom (m : Nat) (g : EGrp → EGrp) : (d.egrUpd m g).dom = d.dom := rfl
@[simp] theorem Dev.egrUpd_eth (m : Nat) (g : EGrp → EGrp) : (d.egrUpd m g).eth = d.eth := rfl
@[simp] theorem Dev.egrUpd_sfl (m : Nat) (g : EGrp → EGrp) : (d.egrUpd m g).sfl = d.sfl := rfl
@[simp] theorem Dev.egrUpd_spih (m : Nat) (g : EGrp → EGrp) : (d.egrUpd m g).spih = d.spih := rfl
@[simp] theorem Dev.egrUpd_m0 (m : Nat) (g : EGrp → EGrp) : (d.egrUpd m g).m0 = d.m0 := rfl
@[simp] theorem Dev.egrUpd_m1 (m : Nat) (g : EGrp → EGrp) : (d.egrUpd m g).m1 = d.m1 := rfl
@[simp] theorem Dev.egrUpd_lu (m : Nat) (g : EGrp → EGrp) : (d.egrUpd m g).lu = d.lu := rfl
@[simp] theorem Dev.egrUpd_nfc (m : Nat) (g : EGrp → EGrp) : (d.egrUpd m g).nfc = d.nfc := rfl
@[simp] theorem Dev.egrUpd_flw (m : Nat) (g : EGrp → EGrp) : (d.egrUpd m g).flw = d.flw := rfl
@[simp] theorem Dev.egrUpd_dbgTrig (m : Nat) (g : EGrp → EGrp) : (d.egrUpd m g).dbgTrig = d.dbgTrig := rfl
@[simp] theorem Dev.egrUpd_dbg (m : Nat) (g : EGrp → EGrp) : (d.egrUpd m g).dbg = d.dbg := rfl
@[simp] theorem Dev.egrUpd_foAt (m : Nat) (g : EGrp → EGrp) (n : Nat) : (d.egrUpd m g).foAt n = d.foAt n := rfl
@[simp] theorem Dev.egrUpd_gchAt (m : Nat) (g : EGrp → EGrp) (n : Nat) : (d.egrUpd m g).gchAt n = d.gchAt n := rfl
@[simp] theorem Dev.egrUpd_carAt (m : Nat) (g : EGrp → EGrp) (n : Nat) : (d.egrUpd m g).carAt n = d.carAt n := rfl
@[simp] theorem Dev.egrUpd_cluAt (m : Nat) (g : EGrp → EGrp) (n : Nat) : (d.egrUpd m g).cluAt n = d.cluAt n := rfl
@[simp] theorem Dev.egrUpd_posAt (m : Nat) (g : EGrp → EGrp) (n : Nat) : (d.egrUpd m g).posAt n = d.posAt n := rfl
@[simp] theorem Dev.egrUpd_pairAt (m : Nat) (g : EGrp → EGrp) (n : Nat) : (d.egrUpd m g).pairAt n = d.pairAt n := rfl
@[simp] theorem Dev.egrUpd_tgrpAt (m : Nat) (g : EGrp → EGrp) (n : Nat) : (d.egrUpd m g).tgrpAt n = d.tgrpAt n := rfl
@[simp] theorem Dev.egrUpd_axisAt (m : Nat) (g : EGrp → EGrp) (n : Nat) : (d.egrUpd m g).axisAt n = d.axisAt n := rfl
@[simp] theorem Dev.egrUpd_connAt (m : Nat) (g : EGrp → EGrp) (n : Nat) : (d.egrUpd m g).connAt n = d.connAt n := rfl
@[simp] theorem Dev.egrUpd_adcAt (m : Nat) (g : EGrp → EGrp) (n : Nat) : (d.egrUpd m g).adcAt n = d.adcAt n := rfl
@[simp] theorem Dev.egrUpd_auxAt (m : Nat) (g : EGrp → EGrp) (n : Nat) : (d.egrUpd m g).auxAt n = d.auxAt n := rfl
@[simp] theorem Dev.egrUpd_slcAt (m : Nat) (g : EGrp → EGrp) (n : Nat) : (d.egrUpd m g).slcAt n = d.slcAt n := rfl
@[simp] theorem Dev.egrUpd_portAt (m : Nat) (g : EGrp → EGrp) (n : Nat) : (d.egrUpd m g).portAt n = d.portAt n := rfl
@[simp] theorem Dev.egrUpd_canAt (m : Nat) (g : EGrp → EGrp) (n : Nat) : (d.egrUpd m g).canAt n = d.canAt n := rfl
@[simp] theorem Dev.egrUpd_luAt (m : Nat) (g : EGrp → EGrp) (n : Nat) : (d.egrUpd m g).luAt n = d.luAt n := rfl
@[simp] theorem Dev.egrUpd_reg (m : Nat) (g : EGrp → EGrp) (a : Nat) : (d.egrUpd m g).reg a = d.reg a := rfl
@[simp] theorem Dev.egrUpd_get (m : Nat) (g : EGrp → EGrp) (f : Fld) : (d.egrUpd m g).get f = d.get f := rfl
@[simp] theorem Dev.egrUpd_getI (m : Nat) (g : EGrp → EGrp) (f : Fld) : (d.egrUpd m g).getI f = d.getI f := rfl
@[simp] theorem Dev.egrUpd_bit (m : Nat) (g : EGrp → EGrp) (f : Fld) : (d.egrUpd m g).bit f = d.bit f := rfl
@[simp] theorem Dev.egrUpd_tb (m : Nat) (g : EGrp → EGrp) (f : Fld) (i : Nat) : (d.egrUpd m g).tb f i = d.tb f i := rfl
@[simp] theorem Dev.egrUpd_sch (m : Nat) (g : EGrp → EGrp) (c : Nat) : (d.egrUpd m g).sch c = d.sch c := rfl

/-! ### `Dev.portUpd` writes the records `port` only -/

@[simp] theorem Dev.portUpd_regs (m : Nat) (g : Port → Port) : (d.portUpd m g).regs = d.regs := rfl
@[simp] theorem Dev.portUpd_time (m : Nat) (g : Port → Port) : (d.portUpd m g).time = d.time := rfl
@[simp] theorem Dev.portUpd_frac (m : Nat) (g : Port → Port) : (d.portUpd m g).frac = d.frac := rfl
@[simp] theorem Dev.portUpd_mono (m : Nat) (g : Port → Port) : (d.portUpd m g).mono = d.mono := rfl
@[simp] theorem Dev.portUpd_free (m : Nat) (g : Port → Port) : (d.portUpd m g).free = d.free := rfl
@[simp] theorem Dev.portUpd_lims (m : Nat) (g : Port → Port) : (d.portUpd m g).lims = d.lims := rfl
@[simp] theorem Dev.portUpd_spool (m : Nat) (g : Port → Port) : (d.portUpd m g).spool = d.spool := rfl
@[simp] theorem Dev.portUpd_splTurn (m : Nat) (g : Port → Port) : (d.portUpd m g).splTurn = d.splTurn := rfl
@[simp] theorem Dev.portUpd_jnl (m : Nat) (g : Port → Port) : (d.portUpd m g).jnl = d.jnl := rfl
@[simp] theorem Dev.portUpd_pwr (m : Nat) (g : Port → Port) : (d.portUpd m g).pwr = d.pwr := rfl
@[simp] theorem Dev.portUpd_boot (m : Nat) (g : Port → Port) : (d.portUpd m g).boot = d.boot := rfl
@[simp] theorem Dev.portUpd_per (m : Nat) (g : Port → Port) : (d.portUpd m g).per = d.per := rfl
@[simp] theorem Dev.portUpd_fo (m : Nat) (g : Port → Port) : (d.portUpd m g).fo = d.fo := rfl
@[simp] theorem Dev.portUpd_fio (m : Nat) (g : Port → Port) : (d.portUpd m g).fio = d.fio := rfl
@[simp] theorem Dev.portUpd_gch (m : Nat) (g : Port → Port) : (d.portUpd m g).gch = d.gch := rfl
@[simp] theorem Dev.portUpd_car (m : Nat) (g : Port → Port) : (d.portUpd m g).car = d.car := rfl
@[simp] theorem Dev.portUpd_clu (m : Nat) (g : Port → Port) : (d.portUpd m g).clu = d.clu := rfl
@[simp] theorem Dev.portUpd_pos (m : Nat) (g : Port → Port) : (d.portUpd m g).pos = d.pos := rfl
@[simp] theorem Dev.portUpd_pair (m : Nat) (g : Port → Port) : (d.portUpd m g).pair = d.pair := rfl
@[simp] theorem Dev.portUpd_hem (m : Nat) (g : Port → Port) : (d.portUpd m g).hem = d.hem := rfl
@[simp] theorem Dev.portUpd_tgrp (m : Nat) (g : Port → Port) : (d.portUpd m g).tgrp = d.tgrp := rfl
@[simp] theorem Dev.portUpd_thm (m : Nat) (g : Port → Port) : (d.portUpd m g).thm = d.thm := rfl
@[simp] theorem Dev.portUpd_axis (m : Nat) (g : Port → Port) : (d.portUpd m g).axis = d.axis := rfl
@[simp] theorem Dev.portUpd_conn (m : Nat) (g : Port → Port) : (d.portUpd m g).conn = d.conn := rfl
@[simp] theorem Dev.portUpd_dtm (m : Nat) (g : Port → Port) : (d.portUpd m g).dtm = d.dtm := rfl
@[simp] theorem Dev.portUpd_adc (m : Nat) (g : Port → Port) : (d.portUpd m g).adc = d.adc := rfl
@[simp] theorem Dev.portUpd_aux (m : Nat) (g : Port → Port) : (d.portUpd m g).aux = d.aux := rfl
@[simp] theorem Dev.portUpd_refOut (m : Nat) (g : Port → Port) : (d.portUpd m g).refOut = d.refOut := rfl
@[simp] theorem Dev.portUpd_img (m : Nat) (g : Port → Port) : (d.portUpd m g).img = d.img := rfl
@[simp] theorem Dev.portUpd_slc (m : Nat) (g : Port → Port) : (d.portUpd m g).slc = d.slc := rfl
@[simp] theorem Dev.portUpd_egr (m : Nat) (g : Port → Port) : (d.portUpd m g).egr = d.egr := rfl
@[simp] theorem Dev.portUpd_can (m : Nat) (g : Port → Port) : (d.portUpd m g).can = d.can := rfl
@[simp] theorem Dev.portUpd_dom (m : Nat) (g : Port → Port) : (d.portUpd m g).dom = d.dom := rfl
@[simp] theorem Dev.portUpd_eth (m : Nat) (g : Port → Port) : (d.portUpd m g).eth = d.eth := rfl
@[simp] theorem Dev.portUpd_sfl (m : Nat) (g : Port → Port) : (d.portUpd m g).sfl = d.sfl := rfl
@[simp] theorem Dev.portUpd_spih (m : Nat) (g : Port → Port) : (d.portUpd m g).spih = d.spih := rfl
@[simp] theorem Dev.portUpd_m0 (m : Nat) (g : Port → Port) : (d.portUpd m g).m0 = d.m0 := rfl
@[simp] theorem Dev.portUpd_m1 (m : Nat) (g : Port → Port) : (d.portUpd m g).m1 = d.m1 := rfl
@[simp] theorem Dev.portUpd_lu (m : Nat) (g : Port → Port) : (d.portUpd m g).lu = d.lu := rfl
@[simp] theorem Dev.portUpd_nfc (m : Nat) (g : Port → Port) : (d.portUpd m g).nfc = d.nfc := rfl
@[simp] theorem Dev.portUpd_flw (m : Nat) (g : Port → Port) : (d.portUpd m g).flw = d.flw := rfl
@[simp] theorem Dev.portUpd_dbgTrig (m : Nat) (g : Port → Port) : (d.portUpd m g).dbgTrig = d.dbgTrig := rfl
@[simp] theorem Dev.portUpd_dbg (m : Nat) (g : Port → Port) : (d.portUpd m g).dbg = d.dbg := rfl
@[simp] theorem Dev.portUpd_foAt (m : Nat) (g : Port → Port) (n : Nat) : (d.portUpd m g).foAt n = d.foAt n := rfl
@[simp] theorem Dev.portUpd_gchAt (m : Nat) (g : Port → Port) (n : Nat) : (d.portUpd m g).gchAt n = d.gchAt n := rfl
@[simp] theorem Dev.portUpd_carAt (m : Nat) (g : Port → Port) (n : Nat) : (d.portUpd m g).carAt n = d.carAt n := rfl
@[simp] theorem Dev.portUpd_cluAt (m : Nat) (g : Port → Port) (n : Nat) : (d.portUpd m g).cluAt n = d.cluAt n := rfl
@[simp] theorem Dev.portUpd_posAt (m : Nat) (g : Port → Port) (n : Nat) : (d.portUpd m g).posAt n = d.posAt n := rfl
@[simp] theorem Dev.portUpd_pairAt (m : Nat) (g : Port → Port) (n : Nat) : (d.portUpd m g).pairAt n = d.pairAt n := rfl
@[simp] theorem Dev.portUpd_tgrpAt (m : Nat) (g : Port → Port) (n : Nat) : (d.portUpd m g).tgrpAt n = d.tgrpAt n := rfl
@[simp] theorem Dev.portUpd_axisAt (m : Nat) (g : Port → Port) (n : Nat) : (d.portUpd m g).axisAt n = d.axisAt n := rfl
@[simp] theorem Dev.portUpd_connAt (m : Nat) (g : Port → Port) (n : Nat) : (d.portUpd m g).connAt n = d.connAt n := rfl
@[simp] theorem Dev.portUpd_adcAt (m : Nat) (g : Port → Port) (n : Nat) : (d.portUpd m g).adcAt n = d.adcAt n := rfl
@[simp] theorem Dev.portUpd_auxAt (m : Nat) (g : Port → Port) (n : Nat) : (d.portUpd m g).auxAt n = d.auxAt n := rfl
@[simp] theorem Dev.portUpd_slcAt (m : Nat) (g : Port → Port) (n : Nat) : (d.portUpd m g).slcAt n = d.slcAt n := rfl
@[simp] theorem Dev.portUpd_egrAt (m : Nat) (g : Port → Port) (n : Nat) : (d.portUpd m g).egrAt n = d.egrAt n := rfl
@[simp] theorem Dev.portUpd_canAt (m : Nat) (g : Port → Port) (n : Nat) : (d.portUpd m g).canAt n = d.canAt n := rfl
@[simp] theorem Dev.portUpd_luAt (m : Nat) (g : Port → Port) (n : Nat) : (d.portUpd m g).luAt n = d.luAt n := rfl
@[simp] theorem Dev.portUpd_reg (m : Nat) (g : Port → Port) (a : Nat) : (d.portUpd m g).reg a = d.reg a := rfl
@[simp] theorem Dev.portUpd_get (m : Nat) (g : Port → Port) (f : Fld) : (d.portUpd m g).get f = d.get f := rfl
@[simp] theorem Dev.portUpd_getI (m : Nat) (g : Port → Port) (f : Fld) : (d.portUpd m g).getI f = d.getI f := rfl
@[simp] theorem Dev.portUpd_bit (m : Nat) (g : Port → Port) (f : Fld) : (d.portUpd m g).bit f = d.bit f := rfl
@[simp] theorem Dev.portUpd_tb (m : Nat) (g : Port → Port) (f : Fld) (i : Nat) : (d.portUpd m g).tb f i = d.tb f i := rfl
@[simp] theorem Dev.portUpd_sch (m : Nat) (g : Port → Port) (c : Nat) : (d.portUpd m g).sch c = d.sch c := rfl

/-! ### `Dev.canUpd` writes the records `can` only -/

@[simp] theorem Dev.canUpd_regs (m : Nat) (g : Can → Can) : (d.canUpd m g).regs = d.regs := rfl
@[simp] theorem Dev.canUpd_time (m : Nat) (g : Can → Can) : (d.canUpd m g).time = d.time := rfl
@[simp] theorem Dev.canUpd_frac (m : Nat) (g : Can → Can) : (d.canUpd m g).frac = d.frac := rfl
@[simp] theorem Dev.canUpd_mono (m : Nat) (g : Can → Can) : (d.canUpd m g).mono = d.mono := rfl
@[simp] theorem Dev.canUpd_free (m : Nat) (g : Can → Can) : (d.canUpd m g).free = d.free := rfl
@[simp] theorem Dev.canUpd_lims (m : Nat) (g : Can → Can) : (d.canUpd m g).lims = d.lims := rfl
@[simp] theorem Dev.canUpd_spool (m : Nat) (g : Can → Can) : (d.canUpd m g).spool = d.spool := rfl
@[simp] theorem Dev.canUpd_splTurn (m : Nat) (g : Can → Can) : (d.canUpd m g).splTurn = d.splTurn := rfl
@[simp] theorem Dev.canUpd_jnl (m : Nat) (g : Can → Can) : (d.canUpd m g).jnl = d.jnl := rfl
@[simp] theorem Dev.canUpd_pwr (m : Nat) (g : Can → Can) : (d.canUpd m g).pwr = d.pwr := rfl
@[simp] theorem Dev.canUpd_boot (m : Nat) (g : Can → Can) : (d.canUpd m g).boot = d.boot := rfl
@[simp] theorem Dev.canUpd_per (m : Nat) (g : Can → Can) : (d.canUpd m g).per = d.per := rfl
@[simp] theorem Dev.canUpd_fo (m : Nat) (g : Can → Can) : (d.canUpd m g).fo = d.fo := rfl
@[simp] theorem Dev.canUpd_fio (m : Nat) (g : Can → Can) : (d.canUpd m g).fio = d.fio := rfl
@[simp] theorem Dev.canUpd_gch (m : Nat) (g : Can → Can) : (d.canUpd m g).gch = d.gch := rfl
@[simp] theorem Dev.canUpd_car (m : Nat) (g : Can → Can) : (d.canUpd m g).car = d.car := rfl
@[simp] theorem Dev.canUpd_clu (m : Nat) (g : Can → Can) : (d.canUpd m g).clu = d.clu := rfl
@[simp] theorem Dev.canUpd_pos (m : Nat) (g : Can → Can) : (d.canUpd m g).pos = d.pos := rfl
@[simp] theorem Dev.canUpd_pair (m : Nat) (g : Can → Can) : (d.canUpd m g).pair = d.pair := rfl
@[simp] theorem Dev.canUpd_hem (m : Nat) (g : Can → Can) : (d.canUpd m g).hem = d.hem := rfl
@[simp] theorem Dev.canUpd_tgrp (m : Nat) (g : Can → Can) : (d.canUpd m g).tgrp = d.tgrp := rfl
@[simp] theorem Dev.canUpd_thm (m : Nat) (g : Can → Can) : (d.canUpd m g).thm = d.thm := rfl
@[simp] theorem Dev.canUpd_axis (m : Nat) (g : Can → Can) : (d.canUpd m g).axis = d.axis := rfl
@[simp] theorem Dev.canUpd_conn (m : Nat) (g : Can → Can) : (d.canUpd m g).conn = d.conn := rfl
@[simp] theorem Dev.canUpd_dtm (m : Nat) (g : Can → Can) : (d.canUpd m g).dtm = d.dtm := rfl
@[simp] theorem Dev.canUpd_adc (m : Nat) (g : Can → Can) : (d.canUpd m g).adc = d.adc := rfl
@[simp] theorem Dev.canUpd_aux (m : Nat) (g : Can → Can) : (d.canUpd m g).aux = d.aux := rfl
@[simp] theorem Dev.canUpd_refOut (m : Nat) (g : Can → Can) : (d.canUpd m g).refOut = d.refOut := rfl
@[simp] theorem Dev.canUpd_img (m : Nat) (g : Can → Can) : (d.canUpd m g).img = d.img := rfl
@[simp] theorem Dev.canUpd_slc (m : Nat) (g : Can → Can) : (d.canUpd m g).slc = d.slc := rfl
@[simp] theorem Dev.canUpd_egr (m : Nat) (g : Can → Can) : (d.canUpd m g).egr = d.egr := rfl
@[simp] theorem Dev.canUpd_port (m : Nat) (g : Can → Can) : (d.canUpd m g).port = d.port := rfl
@[simp] theorem Dev.canUpd_dom (m : Nat) (g : Can → Can) : (d.canUpd m g).dom = d.dom := rfl
@[simp] theorem Dev.canUpd_eth (m : Nat) (g : Can → Can) : (d.canUpd m g).eth = d.eth := rfl
@[simp] theorem Dev.canUpd_sfl (m : Nat) (g : Can → Can) : (d.canUpd m g).sfl = d.sfl := rfl
@[simp] theorem Dev.canUpd_spih (m : Nat) (g : Can → Can) : (d.canUpd m g).spih = d.spih := rfl
@[simp] theorem Dev.canUpd_m0 (m : Nat) (g : Can → Can) : (d.canUpd m g).m0 = d.m0 := rfl
@[simp] theorem Dev.canUpd_m1 (m : Nat) (g : Can → Can) : (d.canUpd m g).m1 = d.m1 := rfl
@[simp] theorem Dev.canUpd_lu (m : Nat) (g : Can → Can) : (d.canUpd m g).lu = d.lu := rfl
@[simp] theorem Dev.canUpd_nfc (m : Nat) (g : Can → Can) : (d.canUpd m g).nfc = d.nfc := rfl
@[simp] theorem Dev.canUpd_flw (m : Nat) (g : Can → Can) : (d.canUpd m g).flw = d.flw := rfl
@[simp] theorem Dev.canUpd_dbgTrig (m : Nat) (g : Can → Can) : (d.canUpd m g).dbgTrig = d.dbgTrig := rfl
@[simp] theorem Dev.canUpd_dbg (m : Nat) (g : Can → Can) : (d.canUpd m g).dbg = d.dbg := rfl
@[simp] theorem Dev.canUpd_foAt (m : Nat) (g : Can → Can) (n : Nat) : (d.canUpd m g).foAt n = d.foAt n := rfl
@[simp] theorem Dev.canUpd_gchAt (m : Nat) (g : Can → Can) (n : Nat) : (d.canUpd m g).gchAt n = d.gchAt n := rfl
@[simp] theorem Dev.canUpd_carAt (m : Nat) (g : Can → Can) (n : Nat) : (d.canUpd m g).carAt n = d.carAt n := rfl
@[simp] theorem Dev.canUpd_cluAt (m : Nat) (g : Can → Can) (n : Nat) : (d.canUpd m g).cluAt n = d.cluAt n := rfl
@[simp] theorem Dev.canUpd_posAt (m : Nat) (g : Can → Can) (n : Nat) : (d.canUpd m g).posAt n = d.posAt n := rfl
@[simp] theorem Dev.canUpd_pairAt (m : Nat) (g : Can → Can) (n : Nat) : (d.canUpd m g).pairAt n = d.pairAt n := rfl
@[simp] theorem Dev.canUpd_tgrpAt (m : Nat) (g : Can → Can) (n : Nat) : (d.canUpd m g).tgrpAt n = d.tgrpAt n := rfl
@[simp] theorem Dev.canUpd_axisAt (m : Nat) (g : Can → Can) (n : Nat) : (d.canUpd m g).axisAt n = d.axisAt n := rfl
@[simp] theorem Dev.canUpd_connAt (m : Nat) (g : Can → Can) (n : Nat) : (d.canUpd m g).connAt n = d.connAt n := rfl
@[simp] theorem Dev.canUpd_adcAt (m : Nat) (g : Can → Can) (n : Nat) : (d.canUpd m g).adcAt n = d.adcAt n := rfl
@[simp] theorem Dev.canUpd_auxAt (m : Nat) (g : Can → Can) (n : Nat) : (d.canUpd m g).auxAt n = d.auxAt n := rfl
@[simp] theorem Dev.canUpd_slcAt (m : Nat) (g : Can → Can) (n : Nat) : (d.canUpd m g).slcAt n = d.slcAt n := rfl
@[simp] theorem Dev.canUpd_egrAt (m : Nat) (g : Can → Can) (n : Nat) : (d.canUpd m g).egrAt n = d.egrAt n := rfl
@[simp] theorem Dev.canUpd_portAt (m : Nat) (g : Can → Can) (n : Nat) : (d.canUpd m g).portAt n = d.portAt n := rfl
@[simp] theorem Dev.canUpd_luAt (m : Nat) (g : Can → Can) (n : Nat) : (d.canUpd m g).luAt n = d.luAt n := rfl
@[simp] theorem Dev.canUpd_reg (m : Nat) (g : Can → Can) (a : Nat) : (d.canUpd m g).reg a = d.reg a := rfl
@[simp] theorem Dev.canUpd_get (m : Nat) (g : Can → Can) (f : Fld) : (d.canUpd m g).get f = d.get f := rfl
@[simp] theorem Dev.canUpd_getI (m : Nat) (g : Can → Can) (f : Fld) : (d.canUpd m g).getI f = d.getI f := rfl
@[simp] theorem Dev.canUpd_bit (m : Nat) (g : Can → Can) (f : Fld) : (d.canUpd m g).bit f = d.bit f := rfl
@[simp] theorem Dev.canUpd_tb (m : Nat) (g : Can → Can) (f : Fld) (i : Nat) : (d.canUpd m g).tb f i = d.tb f i := rfl
@[simp] theorem Dev.canUpd_sch (m : Nat) (g : Can → Can) (c : Nat) : (d.canUpd m g).sch c = d.sch c := rfl

/-! ### `Dev.luUpd` writes the records `lu` only -/

@[simp] theorem Dev.luUpd_regs (m : Nat) (g : Lu → Lu) : (d.luUpd m g).regs = d.regs := rfl
@[simp] theorem Dev.luUpd_time (m : Nat) (g : Lu → Lu) : (d.luUpd m g).time = d.time := rfl
@[simp] theorem Dev.luUpd_frac (m : Nat) (g : Lu → Lu) : (d.luUpd m g).frac = d.frac := rfl
@[simp] theorem Dev.luUpd_mono (m : Nat) (g : Lu → Lu) : (d.luUpd m g).mono = d.mono := rfl
@[simp] theorem Dev.luUpd_free (m : Nat) (g : Lu → Lu) : (d.luUpd m g).free = d.free := rfl
@[simp] theorem Dev.luUpd_lims (m : Nat) (g : Lu → Lu) : (d.luUpd m g).lims = d.lims := rfl
@[simp] theorem Dev.luUpd_spool (m : Nat) (g : Lu → Lu) : (d.luUpd m g).spool = d.spool := rfl
@[simp] theorem Dev.luUpd_splTurn (m : Nat) (g : Lu → Lu) : (d.luUpd m g).splTurn = d.splTurn := rfl
@[simp] theorem Dev.luUpd_jnl (m : Nat) (g : Lu → Lu) : (d.luUpd m g).jnl = d.jnl := rfl
@[simp] theorem Dev.luUpd_pwr (m : Nat) (g : Lu → Lu) : (d.luUpd m g).pwr = d.pwr := rfl
@[simp] theorem Dev.luUpd_boot (m : Nat) (g : Lu → Lu) : (d.luUpd m g).boot = d.boot := rfl
@[simp] theorem Dev.luUpd_per (m : Nat) (g : Lu → Lu) : (d.luUpd m g).per = d.per := rfl
@[simp] theorem Dev.luUpd_fo (m : Nat) (g : Lu → Lu) : (d.luUpd m g).fo = d.fo := rfl
@[simp] theorem Dev.luUpd_fio (m : Nat) (g : Lu → Lu) : (d.luUpd m g).fio = d.fio := rfl
@[simp] theorem Dev.luUpd_gch (m : Nat) (g : Lu → Lu) : (d.luUpd m g).gch = d.gch := rfl
@[simp] theorem Dev.luUpd_car (m : Nat) (g : Lu → Lu) : (d.luUpd m g).car = d.car := rfl
@[simp] theorem Dev.luUpd_clu (m : Nat) (g : Lu → Lu) : (d.luUpd m g).clu = d.clu := rfl
@[simp] theorem Dev.luUpd_pos (m : Nat) (g : Lu → Lu) : (d.luUpd m g).pos = d.pos := rfl
@[simp] theorem Dev.luUpd_pair (m : Nat) (g : Lu → Lu) : (d.luUpd m g).pair = d.pair := rfl
@[simp] theorem Dev.luUpd_hem (m : Nat) (g : Lu → Lu) : (d.luUpd m g).hem = d.hem := rfl
@[simp] theorem Dev.luUpd_tgrp (m : Nat) (g : Lu → Lu) : (d.luUpd m g).tgrp = d.tgrp := rfl
@[simp] theorem Dev.luUpd_thm (m : Nat) (g : Lu → Lu) : (d.luUpd m g).thm = d.thm := rfl
@[simp] theorem Dev.luUpd_axis (m : Nat) (g : Lu → Lu) : (d.luUpd m g).axis = d.axis := rfl
@[simp] theorem Dev.luUpd_conn (m : Nat) (g : Lu → Lu) : (d.luUpd m g).conn = d.conn := rfl
@[simp] theorem Dev.luUpd_dtm (m : Nat) (g : Lu → Lu) : (d.luUpd m g).dtm = d.dtm := rfl
@[simp] theorem Dev.luUpd_adc (m : Nat) (g : Lu → Lu) : (d.luUpd m g).adc = d.adc := rfl
@[simp] theorem Dev.luUpd_aux (m : Nat) (g : Lu → Lu) : (d.luUpd m g).aux = d.aux := rfl
@[simp] theorem Dev.luUpd_refOut (m : Nat) (g : Lu → Lu) : (d.luUpd m g).refOut = d.refOut := rfl
@[simp] theorem Dev.luUpd_img (m : Nat) (g : Lu → Lu) : (d.luUpd m g).img = d.img := rfl
@[simp] theorem Dev.luUpd_slc (m : Nat) (g : Lu → Lu) : (d.luUpd m g).slc = d.slc := rfl
@[simp] theorem Dev.luUpd_egr (m : Nat) (g : Lu → Lu) : (d.luUpd m g).egr = d.egr := rfl
@[simp] theorem Dev.luUpd_port (m : Nat) (g : Lu → Lu) : (d.luUpd m g).port = d.port := rfl
@[simp] theorem Dev.luUpd_can (m : Nat) (g : Lu → Lu) : (d.luUpd m g).can = d.can := rfl
@[simp] theorem Dev.luUpd_dom (m : Nat) (g : Lu → Lu) : (d.luUpd m g).dom = d.dom := rfl
@[simp] theorem Dev.luUpd_eth (m : Nat) (g : Lu → Lu) : (d.luUpd m g).eth = d.eth := rfl
@[simp] theorem Dev.luUpd_sfl (m : Nat) (g : Lu → Lu) : (d.luUpd m g).sfl = d.sfl := rfl
@[simp] theorem Dev.luUpd_spih (m : Nat) (g : Lu → Lu) : (d.luUpd m g).spih = d.spih := rfl
@[simp] theorem Dev.luUpd_m0 (m : Nat) (g : Lu → Lu) : (d.luUpd m g).m0 = d.m0 := rfl
@[simp] theorem Dev.luUpd_m1 (m : Nat) (g : Lu → Lu) : (d.luUpd m g).m1 = d.m1 := rfl
@[simp] theorem Dev.luUpd_nfc (m : Nat) (g : Lu → Lu) : (d.luUpd m g).nfc = d.nfc := rfl
@[simp] theorem Dev.luUpd_flw (m : Nat) (g : Lu → Lu) : (d.luUpd m g).flw = d.flw := rfl
@[simp] theorem Dev.luUpd_dbgTrig (m : Nat) (g : Lu → Lu) : (d.luUpd m g).dbgTrig = d.dbgTrig := rfl
@[simp] theorem Dev.luUpd_dbg (m : Nat) (g : Lu → Lu) : (d.luUpd m g).dbg = d.dbg := rfl
@[simp] theorem Dev.luUpd_foAt (m : Nat) (g : Lu → Lu) (n : Nat) : (d.luUpd m g).foAt n = d.foAt n := rfl
@[simp] theorem Dev.luUpd_gchAt (m : Nat) (g : Lu → Lu) (n : Nat) : (d.luUpd m g).gchAt n = d.gchAt n := rfl
@[simp] theorem Dev.luUpd_carAt (m : Nat) (g : Lu → Lu) (n : Nat) : (d.luUpd m g).carAt n = d.carAt n := rfl
@[simp] theorem Dev.luUpd_cluAt (m : Nat) (g : Lu → Lu) (n : Nat) : (d.luUpd m g).cluAt n = d.cluAt n := rfl
@[simp] theorem Dev.luUpd_posAt (m : Nat) (g : Lu → Lu) (n : Nat) : (d.luUpd m g).posAt n = d.posAt n := rfl
@[simp] theorem Dev.luUpd_pairAt (m : Nat) (g : Lu → Lu) (n : Nat) : (d.luUpd m g).pairAt n = d.pairAt n := rfl
@[simp] theorem Dev.luUpd_tgrpAt (m : Nat) (g : Lu → Lu) (n : Nat) : (d.luUpd m g).tgrpAt n = d.tgrpAt n := rfl
@[simp] theorem Dev.luUpd_axisAt (m : Nat) (g : Lu → Lu) (n : Nat) : (d.luUpd m g).axisAt n = d.axisAt n := rfl
@[simp] theorem Dev.luUpd_connAt (m : Nat) (g : Lu → Lu) (n : Nat) : (d.luUpd m g).connAt n = d.connAt n := rfl
@[simp] theorem Dev.luUpd_adcAt (m : Nat) (g : Lu → Lu) (n : Nat) : (d.luUpd m g).adcAt n = d.adcAt n := rfl
@[simp] theorem Dev.luUpd_auxAt (m : Nat) (g : Lu → Lu) (n : Nat) : (d.luUpd m g).auxAt n = d.auxAt n := rfl
@[simp] theorem Dev.luUpd_slcAt (m : Nat) (g : Lu → Lu) (n : Nat) : (d.luUpd m g).slcAt n = d.slcAt n := rfl
@[simp] theorem Dev.luUpd_egrAt (m : Nat) (g : Lu → Lu) (n : Nat) : (d.luUpd m g).egrAt n = d.egrAt n := rfl
@[simp] theorem Dev.luUpd_portAt (m : Nat) (g : Lu → Lu) (n : Nat) : (d.luUpd m g).portAt n = d.portAt n := rfl
@[simp] theorem Dev.luUpd_canAt (m : Nat) (g : Lu → Lu) (n : Nat) : (d.luUpd m g).canAt n = d.canAt n := rfl
@[simp] theorem Dev.luUpd_reg (m : Nat) (g : Lu → Lu) (a : Nat) : (d.luUpd m g).reg a = d.reg a := rfl
@[simp] theorem Dev.luUpd_get (m : Nat) (g : Lu → Lu) (f : Fld) : (d.luUpd m g).get f = d.get f := rfl
@[simp] theorem Dev.luUpd_getI (m : Nat) (g : Lu → Lu) (f : Fld) : (d.luUpd m g).getI f = d.getI f := rfl
@[simp] theorem Dev.luUpd_bit (m : Nat) (g : Lu → Lu) (f : Fld) : (d.luUpd m g).bit f = d.bit f := rfl
@[simp] theorem Dev.luUpd_tb (m : Nat) (g : Lu → Lu) (f : Fld) (i : Nat) : (d.luUpd m g).tb f i = d.tb f i := rfl
@[simp] theorem Dev.luUpd_sch (m : Nat) (g : Lu → Lu) (c : Nat) : (d.luUpd m g).sch c = d.sch c := rfl

end Sys2Proof.Machine
end

