-- ==== Sys2Proof/Laws/Tab.lean ====
section
/-!
SUPPORT. Laws/Tab.lean: the laws of the canonical sparse table: read after write, and that writes keep the form.
-/
namespace Sys2Proof.Machine

variable {α : Type}

theorem Tab.find_erase_same (d : Nat → α) (t : List (Nat × α)) (k : Nat) : Tab.find d (Tab.erase t k) k = d k := by
  induction t with
  | nil => rfl
  | cons e t ih =>
    obtain ⟨k', v⟩ := e
    by_cases h : k' = k <;> simp [Tab.erase, Tab.find, h, ih]

theorem Tab.find_erase_ne (d : Nat → α) (t : List (Nat × α)) {k j : Nat} (h : j ≠ k) :
    Tab.find d (Tab.erase t k) j = Tab.find d t j := by
  induction t with
  | nil => rfl
  | cons e t ih =>
    obtain ⟨k', v⟩ := e
    by_cases h' : k' = k
    · subst h'; simp [Tab.erase, Tab.find, ih, Ne.symm h]
    · by_cases h'' : k' = j
      · subst h''; simp [Tab.erase, Tab.find, h']
      · simp [Tab.erase, Tab.find, h', h'', ih]

theorem Tab.find_insert_same (d : Nat → α) (t : List (Nat × α)) (k : Nat) (v : α) :
    Tab.find d (Tab.insert k v t) k = v := by
  induction t with
  | nil => simp [Tab.insert, Tab.find]
  | cons e t ih =>
    obtain ⟨k', v'⟩ := e
    by_cases h : k < k'
    · simp [Tab.insert, Tab.find, h]
    · by_cases h' : k' = k <;> simp [Tab.insert, Tab.find, h, h', ih]

theorem Tab.find_insert_ne (d : Nat → α) (t : List (Nat × α)) {k j : Nat} (v : α) (h : j ≠ k) :
    Tab.find d (Tab.insert k v t) j = Tab.find d t j := by
  induction t with
  | nil => simp [Tab.insert, Tab.find, Ne.symm h]
  | cons e t ih =>
    obtain ⟨k', v'⟩ := e
    by_cases h1 : k < k'
    · simp [Tab.insert, Tab.find, h1, Ne.symm h]
    · by_cases h' : k' = k
      · subst h'; simp [Tab.insert, Tab.find, Ne.symm h]
      · by_cases h'' : k' = j
        · subst h''; simp [Tab.insert, Tab.find, h1, h']
        · simp [Tab.insert, Tab.find, h1, h', h'', ih]

/-- A read of the key just written gives the value written. -/
@[simp] theorem Tab.find_put_same [DecidableEq α] (d : Nat → α) (t : List (Nat × α)) (k : Nat) (v : α) :
    Tab.find d (Tab.put d t k v) k = v := by
  unfold Tab.put
  split
  · next h => rw [Tab.find_erase_same, h]
  · exact Tab.find_insert_same d t k v

/-- A write leaves every other key alone. -/
theorem Tab.find_put_ne [DecidableEq α] (d : Nat → α) (t : List (Nat × α)) {k j : Nat} (v : α) (h : j ≠ k) :
    Tab.find d (Tab.put d t k v) j = Tab.find d t j := by
  unfold Tab.put
  split
  · exact Tab.find_erase_ne d t h
  · exact Tab.find_insert_ne d t v h

theorem Tab.wfFrom_mono [DecidableEq α] (d : Nat → α) {t : List (Nat × α)} {a b : Nat} (hab : b ≤ a)
    (h : Tab.wfFrom d a t = true) : Tab.wfFrom d b t = true := by
  cases t with
  | nil => rfl
  | cons e t =>
    obtain ⟨k, v⟩ := e
    simp only [Tab.wfFrom, Bool.and_eq_true, decide_eq_true_eq] at h ⊢
    exact ⟨⟨le_trans hab h.1.1, h.1.2⟩, h.2⟩

theorem Tab.wfFrom_erase [DecidableEq α] (d : Nat → α) {t : List (Nat × α)} {a : Nat} (k : Nat)
    (h : Tab.wfFrom d a t = true) : Tab.wfFrom d a (Tab.erase t k) = true := by
  induction t generalizing a with
  | nil => exact h
  | cons e t ih =>
    obtain ⟨k', v⟩ := e
    simp only [Tab.wfFrom, Bool.and_eq_true, decide_eq_true_eq] at h
    by_cases h' : k' = k
    · simp only [Tab.erase, h', if_true]
      exact Tab.wfFrom_mono d (by omega) (ih h.2)
    · simp only [Tab.erase, h', if_false, Tab.wfFrom, Bool.and_eq_true, decide_eq_true_eq]
      exact ⟨h.1, ih h.2⟩

theorem Tab.wfFrom_insert [DecidableEq α] (d : Nat → α) {t : List (Nat × α)} {a k : Nat} {v : α} (ha : a ≤ k)
    (hv : v ≠ d k) (h : Tab.wfFrom d a t = true) : Tab.wfFrom d a (Tab.insert k v t) = true := by
  induction t generalizing a with
  | nil => simp [Tab.insert, Tab.wfFrom, ha, hv]
  | cons e t ih =>
    obtain ⟨k', v'⟩ := e
    simp only [Tab.wfFrom, Bool.and_eq_true, decide_eq_true_eq] at h
    by_cases h1 : k < k'
    · simp only [Tab.insert, h1, if_true, Tab.wfFrom, Bool.and_eq_true, decide_eq_true_eq]
      exact ⟨⟨ha, hv⟩, ⟨by omega, h.1.2⟩, h.2⟩
    · by_cases h' : k' = k
      · subst h'
        simp only [Tab.insert, Nat.lt_irrefl, if_false, if_true, Tab.wfFrom, Bool.and_eq_true, decide_eq_true_eq]
        exact ⟨⟨ha, hv⟩, h.2⟩
      · simp only [Tab.insert, h1, if_false, h', Tab.wfFrom, Bool.and_eq_true, decide_eq_true_eq]
        exact ⟨h.1, ih (by omega) h.2⟩

/-- A write keeps the canonical form. -/
theorem Tab.wf_put [DecidableEq α] (d : Nat → α) {t : List (Nat × α)} (k : Nat) (v : α) (h : Tab.wf d t = true) :
    Tab.wf d (Tab.put d t k v) = true := by
  unfold Tab.wf Tab.put at *
  split
  · exact Tab.wfFrom_erase d k h
  · next hv => exact Tab.wfFrom_insert d (Nat.zero_le k) hv h

theorem Tab.wfFrom_keep [DecidableEq α] (d : Nat → α) (p : Nat → Bool) {t : List (Nat × α)} {a : Nat}
    (h : Tab.wfFrom d a t = true) : Tab.wfFrom d a (Tab.keep p t) = true := by
  induction t generalizing a with
  | nil => exact h
  | cons e t ih =>
    obtain ⟨k, v⟩ := e
    simp only [Tab.wfFrom, Bool.and_eq_true, decide_eq_true_eq] at h
    unfold Tab.keep at ih ⊢
    by_cases hp : p k = true
    · simp only [List.filter_cons, hp, if_true, Tab.wfFrom, Bool.and_eq_true, decide_eq_true_eq]
      exact ⟨h.1, ih h.2⟩
    · simp only [List.filter_cons, hp]
      exact Tab.wfFrom_mono d (by omega) (ih h.2)

/-- Dropping entries keeps the canonical form. -/
theorem Tab.wf_keep [DecidableEq α] (d : Nat → α) (p : Nat → Bool) {t : List (Nat × α)} (h : Tab.wf d t = true) :
    Tab.wf d (Tab.keep p t) = true := Tab.wfFrom_keep d p h

end Sys2Proof.Machine
end

