-- ==== Sys2Proof/Laws/Ops.lean ====
section
/-!
SUPPORT. Laws/Ops.lean: what the named operations do: fields of a word, registers and fields after a write, records after a
write, bytes of a memory after a write, that every memory operation keeps the canonical form, and the ways a meaning ends.
-/
set_option Elab.async false

namespace Sys2Proof.Machine

/-! ## Fields of a word -/

theorem testBit_fieldGet (x : BitVec 64) (lo w i : Nat) :
    (fieldGet x lo w).testBit i = (decide (i < w) && x.getLsbD (lo + i)) := by
  simp [fieldGet, Nat.testBit_mod_two_pow, Nat.testBit_div_two_pow, BitVec.getLsbD, Nat.add_comm]

theorem getLsbD_fieldMask (lo w i : Nat) :
    (fieldMask lo w).getLsbD i = (decide (i < 64) && decide (lo ≤ i) && decide (i < lo + w)) := by
  unfold fieldMask
  rw [BitVec.getLsbD_shiftLeft, BitVec.getLsbD_ofNat, Nat.testBit_two_pow_sub_one]
  rw [Bool.eq_iff_iff]
  simp only [Bool.and_eq_true, Bool.not_eq_true', decide_eq_true_eq, decide_eq_false_iff_not]
  omega

theorem getLsbD_fieldSet (x : BitVec 64) (lo w v i : Nat) (hi : i < 64) :
    (fieldSet x lo w v).getLsbD i = if lo ≤ i ∧ i < lo + w then v.testBit (i - lo) else x.getLsbD i := by
  unfold fieldSet
  rw [BitVec.getLsbD_or, BitVec.getLsbD_and, BitVec.getLsbD_not, getLsbD_fieldMask, BitVec.getLsbD_shiftLeft,
    BitVec.getLsbD_ofNat, Nat.testBit_mod_two_pow]
  have h4 : i - lo < 64 := by omega
  by_cases h1 : lo ≤ i
  · have h5 : ¬ i < lo := by omega
    by_cases h2 : i < lo + w
    · have h3 : i - lo < w := by omega
      simp only [hi, h1, h2, h3, h4, h5, decide_true, decide_false, Bool.and_true, Bool.true_and, Bool.not_true,
        Bool.not_false, Bool.and_false, Bool.false_or, and_self, if_true]
    · have h3 : ¬ i - lo < w := by omega
      simp only [hi, h1, h2, h3, h4, h5, decide_true, decide_false, Bool.and_true, Bool.not_false, Bool.and_false,
        Bool.false_and, Bool.or_false, and_false, if_false]
  · have h5 : i < lo := by omega
    simp only [hi, h1, h5, decide_true, decide_false, Bool.and_true, Bool.not_true, Bool.not_false,
      Bool.and_false, Bool.false_and, Bool.or_false, false_and, if_false]

/-- A field just written reads as the low bits of the value. -/
theorem fieldGet_fieldSet_same (x : BitVec 64) {lo w : Nat} (v : Nat) (h : lo + w ≤ 64) :
    fieldGet (fieldSet x lo w v) lo w = v % 2 ^ w := by
  apply Nat.eq_of_testBit_eq
  intro i
  rw [testBit_fieldGet, Nat.testBit_mod_two_pow]
  by_cases hi : i < w
  · have h1 : lo ≤ lo + i ∧ lo + i < lo + w := by omega
    rw [getLsbD_fieldSet x lo w v (lo + i) (by omega), if_pos h1]
    simp [hi]
  · simp [hi]

/-- A write leaves a field of other bits alone. -/
theorem fieldGet_fieldSet_disjoint (x : BitVec 64) {lo w lo' w' : Nat} (v : Nat) (h : lo' + w' ≤ lo ∨ lo + w ≤ lo') :
    fieldGet (fieldSet x lo w v) lo' w' = fieldGet x lo' w' := by
  apply Nat.eq_of_testBit_eq
  intro i
  rw [testBit_fieldGet, testBit_fieldGet]
  by_cases hi : i < w'
  · by_cases h64 : lo' + i < 64
    · rw [getLsbD_fieldSet x lo w v (lo' + i) h64, if_neg (by omega)]
    · rw [BitVec.getLsbD_of_ge _ _ (by omega), BitVec.getLsbD_of_ge _ _ (by omega)]
  · simp [hi]

/-- A field is below 2 to its width. -/
theorem fieldGet_lt (x : BitVec 64) (lo w : Nat) : fieldGet x lo w < 2 ^ w := Nat.mod_lt _ (Nat.two_pow_pos w)

/-- A value held between two ends lies between them. -/
theorem clampN_bounds {lo hi : Nat} (x : Nat) (h : lo ≤ hi) : lo ≤ clampN lo hi x ∧ clampN lo hi x ≤ hi := by
  unfold clampN; omega

/-! ## Registers -/

variable (d : Dev)

@[simp] theorem Dev.reg_setReg_same (a : Nat) (v : BitVec 64) : (d.setReg a v).reg a = v := Tab.find_put_same _ _ _ _

theorem Dev.reg_setReg_ne {a b : Nat} (v : BitVec 64) (h : b ≠ a) : (d.setReg a v).reg b = d.reg b := Tab.find_put_ne _ _ _ h

/-- Writing a field changes its register in that field only. -/
@[simp] theorem Dev.reg_set_same (f : Fld) (v : Nat) : (d.set f v).reg f.addr = fieldSet (d.reg f.addr) f.lo f.w v :=
  Tab.find_put_same _ _ _ _

theorem Dev.reg_set_ne {f : Fld} {a : Nat} (v : Nat) (h : a ≠ f.addr) : (d.set f v).reg a = d.reg a := Tab.find_put_ne _ _ _ h

theorem Dev.reg_setI_ne {f : Fld} {a : Nat} (v : Int) (h : a ≠ f.addr) : (d.setI f v).reg a = d.reg a := Tab.find_put_ne _ _ _ h

theorem Dev.reg_setB_ne {f : Fld} {a : Nat} (b : Bool) (h : a ≠ f.addr) : (d.setB f b).reg a = d.reg a := Tab.find_put_ne _ _ _ h

theorem Dev.reg_setBits_ne {f : Fld} {a : Nat} (v : Nat) (h : a ≠ f.addr) : (d.setBits f v).reg a = d.reg a :=
  Tab.find_put_ne _ _ _ h

theorem Dev.reg_clrBits_ne {f : Fld} {a : Nat} (v : Nat) (h : a ≠ f.addr) : (d.clrBits f v).reg a = d.reg a :=
  Tab.find_put_ne _ _ _ h

theorem Dev.reg_add_ne {f : Fld} {a : Nat} (n : Nat) (h : a ≠ f.addr) : (d.add f n).reg a = d.reg a := Tab.find_put_ne _ _ _ h

theorem Dev.reg_count_ne {f : Fld} {a : Nat} (h : a ≠ f.addr) : (d.count f).reg a = d.reg a := Tab.find_put_ne _ _ _ h

/-- A field just written reads as the low bits of the value. -/
theorem Dev.get_set_same {f : Fld} (v : Nat) (h : f.lo + f.w ≤ 64) : (d.set f v).get f = v % 2 ^ f.w := by
  simp [Dev.get, fieldGet_fieldSet_same _ v h]

/-- A write of another register leaves a field alone. -/
theorem Dev.get_set_addr {f g : Fld} (v : Nat) (h : g.addr ≠ f.addr) : (d.set f v).get g = d.get g := by
  simp [Dev.get, Dev.reg_set_ne d v h]

/-- A write of other bits of the same register leaves a field alone. -/
theorem Dev.get_set_bits {f g : Fld} (v : Nat) (ha : g.addr = f.addr) (h : g.lo + g.w ≤ f.lo ∨ f.lo + f.w ≤ g.lo) :
    (d.set f v).get g = d.get g := by
  unfold Dev.get
  rw [ha, Dev.reg_set_same, fieldGet_fieldSet_disjoint _ v h]

theorem Dev.get_setReg_ne {f : Fld} {a : Nat} (v : BitVec 64) (h : f.addr ≠ a) : (d.setReg a v).get f = d.get f := by
  simp [Dev.get, Dev.reg_setReg_ne d v h]

theorem Dev.get_lt (f : Fld) : d.get f < 2 ^ f.w := fieldGet_lt _ _ _

/-- A counter counts once and sticks at its maximum (R19). -/
theorem Dev.get_count_same {f : Fld} (h : f.lo + f.w ≤ 64) : (d.count f).get f = min (d.get f + 1) (2 ^ f.w - 1) := by
  have hp : 0 < 2 ^ f.w := Nat.two_pow_pos _
  unfold Dev.count Dev.add
  rw [Dev.get_set_same d _ h, Nat.mod_eq_of_lt (by omega)]

theorem Dev.get_setB_same {f : Fld} (b : Bool) (h : f.lo + f.w ≤ 64) (hw : 0 < f.w) :
    (d.setB f b).get f = if b then 1 else 0 := by
  unfold Dev.setB
  have : 1 < 2 ^ f.w := Nat.one_lt_two_pow (by omega)
  rw [Dev.get_set_same d _ h]
  cases b <;> simp [Nat.mod_eq_of_lt this]

/-! ## Control of the updates -/

@[simp] theorem Dev.when_true (f : Dev → Dev) : d.when true f = f d := rfl
@[simp] theorem Dev.when_false (f : Dev → Dev) : d.when false f = d := rfl

/-- What `f` keeps, `when` keeps. -/
theorem Dev.when_keeps {β : Type} (p : Dev → β) {c : Bool} {f : Dev → Dev} (h : p (f d) = p d) : p (d.when c f) = p d := by
  cases c
  · rfl
  · exact h

theorem foldl_keeps {α β γ : Type} (p : β → γ) (f : β → α → β) (h : ∀ b a, p (f b a) = p b) (l : List α) (b : β) :
    p (l.foldl f b) = p b := by
  induction l generalizing b with
  | nil => rfl
  | cons a l ih => rw [List.foldl_cons, ih, h]

/-- What every pass keeps, `each` keeps. -/
theorem Dev.each_keeps {β : Type} (p : Dev → β) (n : Nat) {f : Nat → Dev → Dev} (h : ∀ i e, p (f i e) = p e) :
    p (d.each n f) = p d := foldl_keeps p _ (fun e i => h i e) _ d

theorem foldl_keeps_mem {α β γ : Type} (p : β → γ) (f : β → α → β) (l : List α) (h : ∀ b, ∀ a ∈ l, p (f b a) = p b) (b : β) :
    p (l.foldl f b) = p b := by
  induction l generalizing b with
  | nil => rfl
  | cons a l ih =>
    rw [List.foldl_cons, ih (fun b x hx => h b x (List.mem_cons_of_mem _ hx)), h b a (List.mem_cons_self ..)]

/-- What every pass below `n` keeps, `each` keeps. -/
theorem Dev.each_keeps_lt {β : Type} (p : Dev → β) (n : Nat) {f : Nat → Dev → Dev} (h : ∀ i, i < n → ∀ e, p (f i e) = p e) :
    p (d.each n f) = p d :=
  foldl_keeps_mem p _ _ (fun e i hi => h i (List.mem_range.mp hi) e) d

/-- What each pass establishes from itself, `each` keeps. -/
theorem Dev.each_inv {P : Dev → Prop} (n : Nat) {f : Nat → Dev → Dev} (h : ∀ i e, P e → P (f i e)) (h0 : P d) :
    P (d.each n f) := by
  unfold Dev.each
  generalize List.range n = l
  induction l generalizing d with
  | nil => exact h0
  | cons a l ih => exact ih _ (h a d h0)

/-! ## Memories -/

variable (m : List Host.Cell)

@[simp] theorem rd8_wr8_same (a : Nat) (v : BitVec 8) : rd8 (wr8 m a v) a = v := Tab.find_put_same _ _ _ _

theorem rd8_wr8_ne {a b : Nat} (v : BitVec 8) (h : b ≠ a) : rd8 (wr8 m a v) b = rd8 m b := Tab.find_put_ne _ _ _ h

/-- A store leaves every byte outside the stored ones alone. -/
theorem rd8_wrLE_out (n : Nat) : ∀ (m : List Host.Cell) (a v : Nat) {b : Nat}, (b < a ∨ a + n ≤ b) →
    rd8 (wrLE m a n v) b = rd8 m b := by
  induction n with
  | zero => intro m a v b _; rfl
  | succ n ih =>
    intro m a v b h
    rw [wrLE, ih _ _ _ (by omega), rd8_wr8_ne _ _ (by omega)]

theorem rd8_wrBytes_out (l : List (BitVec 8)) : ∀ (m : List Host.Cell) (a : Nat) {b : Nat}, (b < a ∨ a + l.length ≤ b) →
    rd8 (wrBytes m a l) b = rd8 m b := by
  induction l with
  | nil => intro m a b _; rfl
  | cons x l ih =>
    intro m a b h
    simp only [List.length_cons] at h
    rw [wrBytes, ih _ _ (by omega), rd8_wr8_ne _ _ (by omega)]

/-- A read of the bytes just stored gives the value stored. -/
theorem rdLE_wrLE_same (n : Nat) : ∀ (m : List Host.Cell) (a v : Nat), rdLE (wrLE m a n v) a n = v % 256 ^ n := by
  induction n with
  | zero => intro m a v; simp [rdLE, Nat.mod_one]
  | succ n ih =>
    intro m a v
    have h : rd8 (wrLE m a (n + 1) v) a = BitVec.ofNat 8 v := by
      rw [wrLE, rd8_wrLE_out n _ _ _ (Or.inl (Nat.lt_succ_self a)), rd8_wr8_same]
    rw [rdLE, h, wrLE, ih]
    have h2 : (256 : Nat) ^ (n + 1) = 256 * 256 ^ n := by rw [Nat.pow_succ, Nat.mul_comm]
    rw [h2, Nat.mod_mul, BitVec.toNat_ofNat]

/-- A read outside the stored bytes is unchanged. -/
theorem rdLE_wrLE_out (k : Nat) : ∀ (m : List Host.Cell) (a n v b : Nat), (b + k ≤ a ∨ a + n ≤ b) →
    rdLE (wrLE m a n v) b k = rdLE m b k := by
  induction k with
  | zero => intro m a n v b _; rfl
  | succ k ih =>
    intro m a n v b h
    rw [rdLE, rdLE, rd8_wrLE_out n _ _ _ (by omega), ih _ _ _ _ _ (by omega)]

/-- Every memory operation keeps the canonical form. -/
theorem wf_wr8 {m : List Host.Cell} (a : Nat) (v : BitVec 8) (h : Tab.wf memDefault m = true) :
    Tab.wf memDefault (wr8 m a v) = true := Tab.wf_put _ _ _ h

theorem wf_wrLE (n : Nat) : ∀ {m : List Host.Cell} (a v : Nat), Tab.wf memDefault m = true →
    Tab.wf memDefault (wrLE m a n v) = true := by
  induction n with
  | zero => intro m a v h; exact h
  | succ n ih => intro m a v h; exact ih _ _ (wf_wr8 _ _ h)

theorem wf_wrBytes (l : List (BitVec 8)) : ∀ {m : List Host.Cell} (a : Nat), Tab.wf memDefault m = true →
    Tab.wf memDefault (wrBytes m a l) = true := by
  induction l with
  | nil => intro m a h; exact h
  | cons x l ih => intro m a h; exact ih _ (wf_wr8 _ _ h)

/-! ## The register table keeps the canonical form -/

theorem Dev.wf_setReg {d : Dev} (a : Nat) (v : BitVec 64) (h : Tab.wf resetOf d.regs = true) :
    Tab.wf resetOf (d.setReg a v).regs = true := Tab.wf_put _ _ _ h

theorem Dev.wf_set {d : Dev} (f : Fld) (v : Nat) (h : Tab.wf resetOf d.regs = true) :
    Tab.wf resetOf (d.set f v).regs = true := Tab.wf_put _ _ _ h

theorem Dev.wf_setI {d : Dev} (f : Fld) (v : Int) (h : Tab.wf resetOf d.regs = true) :
    Tab.wf resetOf (d.setI f v).regs = true := Tab.wf_put _ _ _ h

theorem Dev.wf_setB {d : Dev} (f : Fld) (b : Bool) (h : Tab.wf resetOf d.regs = true) :
    Tab.wf resetOf (d.setB f b).regs = true := Tab.wf_put _ _ _ h

theorem Dev.wf_setBits {d : Dev} (f : Fld) (v : Nat) (h : Tab.wf resetOf d.regs = true) :
    Tab.wf resetOf (d.setBits f v).regs = true := Tab.wf_put _ _ _ h

theorem Dev.wf_clrBits {d : Dev} (f : Fld) (v : Nat) (h : Tab.wf resetOf d.regs = true) :
    Tab.wf resetOf (d.clrBits f v).regs = true := Tab.wf_put _ _ _ h

theorem Dev.wf_add {d : Dev} (f : Fld) (n : Nat) (h : Tab.wf resetOf d.regs = true) :
    Tab.wf resetOf (d.add f n).regs = true := Tab.wf_put _ _ _ h

theorem Dev.wf_count {d : Dev} (f : Fld) (h : Tab.wf resetOf d.regs = true) :
    Tab.wf resetOf (d.count f).regs = true := Tab.wf_put _ _ _ h

theorem Dev.wf_when {d : Dev} {c : Bool} {f : Dev → Dev} (hf : Tab.wf resetOf (f d).regs = true)
    (h : Tab.wf resetOf d.regs = true) : Tab.wf resetOf (d.when c f).regs = true := by
  cases c
  · exact h
  · exact hf

theorem Dev.wf_each {d : Dev} (n : Nat) {f : Nat → Dev → Dev}
    (hf : ∀ i e, Tab.wf resetOf e.regs = true → Tab.wf resetOf (f i e).regs = true) (h : Tab.wf resetOf d.regs = true) :
    Tab.wf resetOf (d.each n f).regs = true :=
  Dev.each_inv d (P := fun e => Tab.wf resetOf e.regs = true) n hf h

/-! ## The ways a meaning ends -/

/-- A meaning of the main domain answers a next state: the memories and the queue stay, the device is `f`'s, or stays when
the main domain has no power. -/
theorem State.main_next (s : State) (f : Dev → Dev) :
    s.main f = .next { s with dev := if s.dev.unpowered then s.dev else f s.dev } := rfl

theorem State.main_powered {s : State} (f : Dev → Dev) (h : s.dev.unpowered = false) :
    s.main f = .next { s with dev := f s.dev } := by simp [State.main, h]

theorem State.always_next (s : State) (f : Dev → Dev) : s.always f = .next { s with dev := f s.dev } := rfl

theorem State.mainMem_powered {s : State} (f : State → State) (h : s.dev.unpowered = false) :
    s.mainMem f = .next (f s) := by simp [State.mainMem, h]

theorem State.mainMem_unpowered {s : State} (f : State → State) (h : s.dev.unpowered = true) :
    s.mainMem f = .next s := by simp [State.mainMem, h]

/-! ## Numbered records: read after write -/

@[simp] theorem Dev.foAt_foUpd_same (d : Dev) (n : Nat) (g : Fo → Fo) : (d.foUpd n g).foAt n = g (d.foAt n) :=
  Tab.find_put_same _ _ _ _
theorem Dev.foAt_foUpd_ne (d : Dev) (g : Fo → Fo) {n m : Nat} (h : n ≠ m) : (d.foUpd m g).foAt n = d.foAt n :=
  Tab.find_put_ne _ _ _ h
@[simp] theorem Dev.gchAt_gchUpd_same (d : Dev) (n : Nat) (g : Gch → Gch) : (d.gchUpd n g).gchAt n = g (d.gchAt n) :=
  Tab.find_put_same _ _ _ _
theorem Dev.gchAt_gchUpd_ne (d : Dev) (g : Gch → Gch) {n m : Nat} (h : n ≠ m) : (d.gchUpd m g).gchAt n = d.gchAt n :=
  Tab.find_put_ne _ _ _ h
@[simp] theorem Dev.carAt_carUpd_same (d : Dev) (n : Nat) (g : Car → Car) : (d.carUpd n g).carAt n = g (d.carAt n) :=
  Tab.find_put_same _ _ _ _
theorem Dev.carAt_carUpd_ne (d : Dev) (g : Car → Car) {n m : Nat} (h : n ≠ m) : (d.carUpd m g).carAt n = d.carAt n :=
  Tab.find_put_ne _ _ _ h
@[simp] theorem Dev.cluAt_cluUpd_same (d : Dev) (n : Nat) (g : Clu → Clu) : (d.cluUpd n g).cluAt n = g (d.cluAt n) :=
  Tab.find_put_same _ _ _ _
theorem Dev.cluAt_cluUpd_ne (d : Dev) (g : Clu → Clu) {n m : Nat} (h : n ≠ m) : (d.cluUpd m g).cluAt n = d.cluAt n :=
  Tab.find_put_ne _ _ _ h
@[simp] theorem Dev.posAt_posUpd_same (d : Dev) (n : Nat) (g : Pos → Pos) : (d.posUpd n g).posAt n = g (d.posAt n) :=
  Tab.find_put_same _ _ _ _
theorem Dev.posAt_posUpd_ne (d : Dev) (g : Pos → Pos) {n m : Nat} (h : n ≠ m) : (d.posUpd m g).posAt n = d.posAt n :=
  Tab.find_put_ne _ _ _ h
@[simp] theorem Dev.pairAt_pairUpd_same (d : Dev) (n : Nat) (g : Pair → Pair) : (d.pairUpd n g).pairAt n = g (d.pairAt n) :=
  Tab.find_put_same _ _ _ _
theorem Dev.pairAt_pairUpd_ne (d : Dev) (g : Pair → Pair) {n m : Nat} (h : n ≠ m) : (d.pairUpd m g).pairAt n = d.pairAt n :=
  Tab.find_put_ne _ _ _ h
@[simp] theorem Dev.tgrpAt_tgrpUpd_same (d : Dev) (n : Nat) (g : ThmGrp → ThmGrp) : (d.tgrpUpd n g).tgrpAt n = g (d.tgrpAt n) :=
  Tab.find_put_same _ _ _ _
theorem Dev.tgrpAt_tgrpUpd_ne (d : Dev) (g : ThmGrp → ThmGrp) {n m : Nat} (h : n ≠ m) : (d.tgrpUpd m g).tgrpAt n = d.tgrpAt n :=
  Tab.find_put_ne _ _ _ h
@[simp] theorem Dev.axisAt_axisUpd_same (d : Dev) (n : Nat) (g : Axis → Axis) : (d.axisUpd n g).axisAt n = g (d.axisAt n) :=
  Tab.find_put_same _ _ _ _
theorem Dev.axisAt_axisUpd_ne (d : Dev) (g : Axis → Axis) {n m : Nat} (h : n ≠ m) : (d.axisUpd m g).axisAt n = d.axisAt n :=
  Tab.find_put_ne _ _ _ h
@[simp] theorem Dev.connAt_connUpd_same (d : Dev) (n : Nat) (g : Conn → Conn) : (d.connUpd n g).connAt n = g (d.connAt n) :=
  Tab.find_put_same _ _ _ _
theorem Dev.connAt_connUpd_ne (d : Dev) (g : Conn → Conn) {n m : Nat} (h : n ≠ m) : (d.connUpd m g).connAt n = d.connAt n :=
  Tab.find_put_ne _ _ _ h
@[simp] theorem Dev.adcAt_adcUpd_same (d : Dev) (n : Nat) (g : Adc → Adc) : (d.adcUpd n g).adcAt n = g (d.adcAt n) :=
  Tab.find_put_same _ _ _ _
theorem Dev.adcAt_adcUpd_ne (d : Dev) (g : Adc → Adc) {n m : Nat} (h : n ≠ m) : (d.adcUpd m g).adcAt n = d.adcAt n :=
  Tab.find_put_ne _ _ _ h
@[simp] theorem Dev.auxAt_auxUpd_same (d : Dev) (n : Nat) (g : Aux → Aux) : (d.auxUpd n g).auxAt n = g (d.auxAt n) :=
  Tab.find_put_same _ _ _ _
theorem Dev.auxAt_auxUpd_ne (d : Dev) (g : Aux → Aux) {n m : Nat} (h : n ≠ m) : (d.auxUpd m g).auxAt n = d.auxAt n :=
  Tab.find_put_ne _ _ _ h
@[simp] theorem Dev.slcAt_slcUpd_same (d : Dev) (n : Nat) (g : Slice → Slice) : (d.slcUpd n g).slcAt n = g (d.slcAt n) :=
  Tab.find_put_same _ _ _ _
theorem Dev.slcAt_slcUpd_ne (d : Dev) (g : Slice → Slice) {n m : Nat} (h : n ≠ m) : (d.slcUpd m g).slcAt n = d.slcAt n :=
  Tab.find_put_ne _ _ _ h
@[simp] theorem Dev.egrAt_egrUpd_same (d : Dev) (n : Nat) (g : EGrp → EGrp) : (d.egrUpd n g).egrAt n = g (d.egrAt n) :=
  Tab.find_put_same _ _ _ _
theorem Dev.egrAt_egrUpd_ne (d : Dev) (g : EGrp → EGrp) {n m : Nat} (h : n ≠ m) : (d.egrUpd m g).egrAt n = d.egrAt n :=
  Tab.find_put_ne _ _ _ h
@[simp] theorem Dev.portAt_portUpd_same (d : Dev) (n : Nat) (g : Port → Port) : (d.portUpd n g).portAt n = g (d.portAt n) :=
  Tab.find_put_same _ _ _ _
theorem Dev.portAt_portUpd_ne (d : Dev) (g : Port → Port) {n m : Nat} (h : n ≠ m) : (d.portUpd m g).portAt n = d.portAt n :=
  Tab.find_put_ne _ _ _ h
@[simp] theorem Dev.canAt_canUpd_same (d : Dev) (n : Nat) (g : Can → Can) : (d.canUpd n g).canAt n = g (d.canAt n) :=
  Tab.find_put_same _ _ _ _
theorem Dev.canAt_canUpd_ne (d : Dev) (g : Can → Can) {n m : Nat} (h : n ≠ m) : (d.canUpd m g).canAt n = d.canAt n :=
  Tab.find_put_ne _ _ _ h
@[simp] theorem Dev.luAt_luUpd_same (d : Dev) (n : Nat) (g : Lu → Lu) : (d.luUpd n g).luAt n = g (d.luAt n) :=
  Tab.find_put_same _ _ _ _
theorem Dev.luAt_luUpd_ne (d : Dev) (g : Lu → Lu) {n m : Nat} (h : n ≠ m) : (d.luUpd m g).luAt n = d.luAt n :=
  Tab.find_put_ne _ _ _ h

end Sys2Proof.Machine
end

