-- ==== Sys2Proof/Laws/Events.lean ====
section
/-!
SUPPORT. Laws/Events.lean: everything that raising an event or queueing a journal entry can do. `Dev.rest` is the device
without what a raise writes; `Dev.restJ` also without what a journal entry writes.
-/
set_option Elab.async false

namespace Sys2Proof.Machine

/-- The device without its registers and the Spool channels. -/
def Dev.restS (d : Dev) : Dev := { d with regs := [], spool := [] }

/-- `Dev.restS` without the events kept for a lockstep pair and the triggers of the groups of the control engine. -/
def Dev.rest (d : Dev) : Dev := { d.restS with pair := [], egr := [] }

/-- `Dev.rest` without the rate limits. -/
def Dev.restL (d : Dev) : Dev := { d.rest with lims := [] }

/-- `Dev.restL` without the journal. -/
def Dev.restJ (d : Dev) : Dev := { d.restL with jnl := {} }

variable (d : Dev)

@[simp] theorem Dev.setReg_restS (a : Nat) (v : BitVec 64) : (d.setReg a v).restS = d.restS := rfl
@[simp] theorem Dev.set_restS (f : Fld) (v : Nat) : (d.set f v).restS = d.restS := rfl
@[simp] theorem Dev.setBits_restS (f : Fld) (v : Nat) : (d.setBits f v).restS = d.restS := rfl
@[simp] theorem Dev.add_restS (f : Fld) (n : Nat) : (d.add f n).restS = d.restS := rfl
@[simp] theorem Dev.count_restS (f : Fld) : (d.count f).restS = d.restS := rfl
@[simp] theorem Dev.setSch_restS (c : Nat) (v : SpoolCh) : (d.setSch c v).restS = d.restS := rfl

theorem Dev.splQueue_restS (c : Nat) (r : List (BitVec 64)) : (d.splQueue c r).restS = d.restS := by
  unfold Dev.splQueue; dsimp only; split <;> rfl

theorem Dev.splMade_restS (c : Nat) (r : List (BitVec 64)) : (d.splMade c r).restS = d.restS := by
  unfold Dev.splMade
  dsimp only
  repeat' split
  all_goals first | rfl | simp [Dev.splQueue_restS]

theorem Dev.splFeed_restS (typ : Nat) (sel : Nat → Nat → Bool) (r : List (BitVec 64)) : (d.splFeed typ sel r).restS = d.restS := by
  unfold Dev.splFeed
  split
  · rfl
  · exact d.each_keeps Dev.restS 16 fun c e => e.when_keeps Dev.restS (e.splMade_restS c r)

theorem Dev.splStopDone_restS : d.splStopDone.restS = d.restS := by
  unfold Dev.splStopDone
  split
  · rfl
  · dsimp only
    rw [Dev.when_keeps _ Dev.restS (Dev.set_restS ..)]
    exact d.each_keeps Dev.restS 16 fun c e => e.when_keeps Dev.restS rfl

theorem Dev.splFire_restS : d.splFire.restS = d.restS := by
  unfold Dev.splFire
  dsimp only
  rw [Dev.splStopDone_restS, Dev.each_keeps _ Dev.restS 16 fun c e => e.when_keeps Dev.restS rfl]
  rfl

theorem Dev.splTrigger_restS : d.splTrigger.restS = d.restS := by
  unfold Dev.splTrigger; split
  · exact d.splFire_restS
  · split <;> rfl

theorem Dev.splEvent_restS (k : Nat) : (d.splEvent k).restS = d.restS := by
  unfold Dev.splEvent
  dsimp only
  rw [Dev.when_keeps _ Dev.restS (Dev.splTrigger_restS _), Dev.splFeed_restS]

theorem Dev.rest_of_restS {d e : Dev} (h : d.restS = e.restS) : d.rest = e.rest := by unfold Dev.rest; rw [h]

theorem Dev.evrKeep_rest (t k : Nat) : (d.evrKeep t k).rest = d.rest := by
  unfold Dev.evrKeep; split <;> rfl

theorem Dev.evrPend_rest (t k : Nat) : (d.evrPend t k).rest = d.rest := by
  unfold Dev.evrPend; dsimp only; split <;> exact d.evrKeep_rest t k

/-- Counting the triggers of the groups that name a source writes the groups only. -/
theorem Dev.trigCause_rest (k : Nat) : (d.trigCause k).rest = d.rest := by
  unfold Dev.trigCause
  split
  · refine d.each_keeps Dev.rest 8 fun g e => ?_
    dsimp only
    split <;> rfl
  · rfl

/-- A raise writes registers, the events kept for a pair, the triggers of the groups and the Spool channels, and nothing else. -/
@[simp] theorem Dev.raise_rest (k : Nat) : (d.raise k).rest = d.rest := by
  unfold Dev.raise
  dsimp only
  rw [Dev.trigCause_rest, Dev.rest_of_restS (Dev.splEvent_restS ..), Dev.each_keeps _ Dev.rest 6 fun t e => e.when_keeps Dev.rest (e.evrPend_rest t k)]
  rfl

theorem Dev.restL_of_rest {d e : Dev} (h : d.rest = e.rest) : d.restL = e.restL := by unfold Dev.restL; rw [h]

/-- A rate-limited raise writes the rate limits besides. -/
@[simp] theorem Dev.raiseLim_restL (k c T : Nat) : (d.raiseLim k c T).restL = d.restL := by
  unfold Dev.raiseLim
  dsimp only
  split
  · rfl
  · rw [Dev.restL_of_rest (Dev.raise_rest ..)]; rfl

theorem Dev.restJ_of_restL {d e : Dev} (h : d.restL = e.restL) : d.restJ = e.restJ := by unfold Dev.restJ; rw [h]

/-- A journal entry, admitted or dropped, writes what a raise writes, and the journal. -/
@[simp] theorem Dev.jnlPut_restJ (fw : Bool) (e : JEntry) : (d.jnlPut fw e).restJ = d.restJ := by
  unfold Dev.jnlPut
  dsimp only
  repeat' split
  all_goals first | rfl | (rw [Dev.restJ_of_restL (Dev.raiseLim_restL ..)]; rfl)

@[simp] theorem Dev.raise_restJ (k : Nat) : (d.raise k).restJ = d.restJ := Dev.restJ_of_restL (Dev.restL_of_rest (d.raise_rest k))
@[simp] theorem Dev.raiseLim_restJ (k c T : Nat) : (d.raiseLim k c T).restJ = d.restJ := Dev.restJ_of_restL (d.raiseLim_restL k c T)
@[simp] theorem Dev.journal_restJ (kind src o : Nat) (l : List (BitVec 64)) : (d.journal kind src o l).restJ = d.restJ :=
  Dev.jnlPut_restJ ..
@[simp] theorem Dev.jnlFault_restJ (k a b : Nat) : (d.jnlFault k a b).restJ = d.restJ := Dev.jnlPut_restJ ..
@[simp] theorem Dev.jnlThimble_restJ (k : Nat) : (d.jnlThimble k).restJ = d.restJ := Dev.jnlPut_restJ ..
@[simp] theorem Dev.jnlHem_restJ (k : Nat) : (d.jnlHem k).restJ = d.restJ := Dev.jnlPut_restJ ..

/-! ## Field by field -/

@[simp] theorem Dev.raise_time (k : Nat) : (d.raise k).time = d.time := (congrArg Dev.time (d.raise_rest k) :)
@[simp] theorem Dev.raise_frac (k : Nat) : (d.raise k).frac = d.frac := (congrArg Dev.frac (d.raise_rest k) :)
@[simp] theorem Dev.raise_mono (k : Nat) : (d.raise k).mono = d.mono := (congrArg Dev.mono (d.raise_rest k) :)
@[simp] theorem Dev.raise_free (k : Nat) : (d.raise k).free = d.free := (congrArg Dev.free (d.raise_rest k) :)
@[simp] theorem Dev.raise_lims (k : Nat) : (d.raise k).lims = d.lims := (congrArg Dev.lims (d.raise_rest k) :)
@[simp] theorem Dev.raise_splTurn (k : Nat) : (d.raise k).splTurn = d.splTurn := (congrArg Dev.splTurn (d.raise_rest k) :)
@[simp] theorem Dev.raise_jnl (k : Nat) : (d.raise k).jnl = d.jnl := (congrArg Dev.jnl (d.raise_rest k) :)
@[simp] theorem Dev.raise_pwr (k : Nat) : (d.raise k).pwr = d.pwr := (congrArg Dev.pwr (d.raise_rest k) :)
@[simp] theorem Dev.raise_boot (k : Nat) : (d.raise k).boot = d.boot := (congrArg Dev.boot (d.raise_rest k) :)
@[simp] theorem Dev.raise_per (k : Nat) : (d.raise k).per = d.per := (congrArg Dev.per (d.raise_rest k) :)
@[simp] theorem Dev.raise_fo (k : Nat) : (d.raise k).fo = d.fo := (congrArg Dev.fo (d.raise_rest k) :)
@[simp] theorem Dev.raise_fio (k : Nat) : (d.raise k).fio = d.fio := (congrArg Dev.fio (d.raise_rest k) :)
@[simp] theorem Dev.raise_gch (k : Nat) : (d.raise k).gch = d.gch := (congrArg Dev.gch (d.raise_rest k) :)
@[simp] theorem Dev.raise_car (k : Nat) : (d.raise k).car = d.car := (congrArg Dev.car (d.raise_rest k) :)
@[simp] theorem Dev.raise_clu (k : Nat) : (d.raise k).clu = d.clu := (congrArg Dev.clu (d.raise_rest k) :)
@[simp] theorem Dev.raise_pos (k : Nat) : (d.raise k).pos = d.pos := (congrArg Dev.pos (d.raise_rest k) :)
@[simp] theorem Dev.raise_hem (k : Nat) : (d.raise k).hem = d.hem := (congrArg Dev.hem (d.raise_rest k) :)
@[simp] theorem Dev.raise_tgrp (k : Nat) : (d.raise k).tgrp = d.tgrp := (congrArg Dev.tgrp (d.raise_rest k) :)
@[simp] theorem Dev.raise_thm (k : Nat) : (d.raise k).thm = d.thm := (congrArg Dev.thm (d.raise_rest k) :)
@[simp] theorem Dev.raise_axis (k : Nat) : (d.raise k).axis = d.axis := (congrArg Dev.axis (d.raise_rest k) :)
@[simp] theorem Dev.raise_conn (k : Nat) : (d.raise k).conn = d.conn := (congrArg Dev.conn (d.raise_rest k) :)
@[simp] theorem Dev.raise_dtm (k : Nat) : (d.raise k).dtm = d.dtm := (congrArg Dev.dtm (d.raise_rest k) :)
@[simp] theorem Dev.raise_adc (k : Nat) : (d.raise k).adc = d.adc := (congrArg Dev.adc (d.raise_rest k) :)
@[simp] theorem Dev.raise_aux (k : Nat) : (d.raise k).aux = d.aux := (congrArg Dev.aux (d.raise_rest k) :)
@[simp] theorem Dev.raise_img (k : Nat) : (d.raise k).img = d.img := (congrArg Dev.img (d.raise_rest k) :)
@[simp] theorem Dev.raise_slc (k : Nat) : (d.raise k).slc = d.slc := (congrArg Dev.slc (d.raise_rest k) :)
@[simp] theorem Dev.raise_port (k : Nat) : (d.raise k).port = d.port := (congrArg Dev.port (d.raise_rest k) :)
@[simp] theorem Dev.raise_can (k : Nat) : (d.raise k).can = d.can := (congrArg Dev.can (d.raise_rest k) :)
@[simp] theorem Dev.raise_dom (k : Nat) : (d.raise k).dom = d.dom := (congrArg Dev.dom (d.raise_rest k) :)
@[simp] theorem Dev.raise_eth (k : Nat) : (d.raise k).eth = d.eth := (congrArg Dev.eth (d.raise_rest k) :)
@[simp] theorem Dev.raise_sfl (k : Nat) : (d.raise k).sfl = d.sfl := (congrArg Dev.sfl (d.raise_rest k) :)
@[simp] theorem Dev.raise_spih (k : Nat) : (d.raise k).spih = d.spih := (congrArg Dev.spih (d.raise_rest k) :)
@[simp] theorem Dev.raise_m0 (k : Nat) : (d.raise k).m0 = d.m0 := (congrArg Dev.m0 (d.raise_rest k) :)
@[simp] theorem Dev.raise_refOut (k : Nat) : (d.raise k).refOut = d.refOut := (congrArg Dev.refOut (d.raise_rest k) :)
@[simp] theorem Dev.raise_dbg (k : Nat) : (d.raise k).dbg = d.dbg := (congrArg Dev.dbg (d.raise_rest k) :)
@[simp] theorem Dev.raise_m1 (k : Nat) : (d.raise k).m1 = d.m1 := (congrArg Dev.m1 (d.raise_rest k) :)
@[simp] theorem Dev.raise_lu (k : Nat) : (d.raise k).lu = d.lu := (congrArg Dev.lu (d.raise_rest k) :)
@[simp] theorem Dev.raise_nfc (k : Nat) : (d.raise k).nfc = d.nfc := (congrArg Dev.nfc (d.raise_rest k) :)
@[simp] theorem Dev.raise_flw (k : Nat) : (d.raise k).flw = d.flw := (congrArg Dev.flw (d.raise_rest k) :)
@[simp] theorem Dev.raise_dbgTrig (k : Nat) : (d.raise k).dbgTrig = d.dbgTrig := (congrArg Dev.dbgTrig (d.raise_rest k) :)
@[simp] theorem Dev.raise_foAt (k : Nat) (n : Nat) : (d.raise k).foAt n = d.foAt n := (congrArg (Dev.foAt · n) (d.raise_rest k) :)
@[simp] theorem Dev.raise_gchAt (k : Nat) (n : Nat) : (d.raise k).gchAt n = d.gchAt n := (congrArg (Dev.gchAt · n) (d.raise_rest k) :)
@[simp] theorem Dev.raise_carAt (k : Nat) (n : Nat) : (d.raise k).carAt n = d.carAt n := (congrArg (Dev.carAt · n) (d.raise_rest k) :)
@[simp] theorem Dev.raise_cluAt (k : Nat) (n : Nat) : (d.raise k).cluAt n = d.cluAt n := (congrArg (Dev.cluAt · n) (d.raise_rest k) :)
@[simp] theorem Dev.raise_posAt (k : Nat) (n : Nat) : (d.raise k).posAt n = d.posAt n := (congrArg (Dev.posAt · n) (d.raise_rest k) :)
@[simp] theorem Dev.raise_tgrpAt (k : Nat) (n : Nat) : (d.raise k).tgrpAt n = d.tgrpAt n := (congrArg (Dev.tgrpAt · n) (d.raise_rest k) :)
@[simp] theorem Dev.raise_axisAt (k : Nat) (n : Nat) : (d.raise k).axisAt n = d.axisAt n := (congrArg (Dev.axisAt · n) (d.raise_rest k) :)
@[simp] theorem Dev.raise_connAt (k : Nat) (n : Nat) : (d.raise k).connAt n = d.connAt n := (congrArg (Dev.connAt · n) (d.raise_rest k) :)
@[simp] theorem Dev.raise_adcAt (k : Nat) (n : Nat) : (d.raise k).adcAt n = d.adcAt n := (congrArg (Dev.adcAt · n) (d.raise_rest k) :)
@[simp] theorem Dev.raise_auxAt (k : Nat) (n : Nat) : (d.raise k).auxAt n = d.auxAt n := (congrArg (Dev.auxAt · n) (d.raise_rest k) :)
@[simp] theorem Dev.raise_slcAt (k : Nat) (n : Nat) : (d.raise k).slcAt n = d.slcAt n := (congrArg (Dev.slcAt · n) (d.raise_rest k) :)
@[simp] theorem Dev.raise_portAt (k : Nat) (n : Nat) : (d.raise k).portAt n = d.portAt n := (congrArg (Dev.portAt · n) (d.raise_rest k) :)
@[simp] theorem Dev.raise_canAt (k : Nat) (n : Nat) : (d.raise k).canAt n = d.canAt n := (congrArg (Dev.canAt · n) (d.raise_rest k) :)
@[simp] theorem Dev.raise_luAt (k : Nat) (n : Nat) : (d.raise k).luAt n = d.luAt n := (congrArg (Dev.luAt · n) (d.raise_rest k) :)

@[simp] theorem Dev.raiseLim_time (k c T : Nat) : (d.raiseLim k c T).time = d.time := (congrArg Dev.time (d.raiseLim_restL k c T) :)
@[simp] theorem Dev.raiseLim_frac (k c T : Nat) : (d.raiseLim k c T).frac = d.frac := (congrArg Dev.frac (d.raiseLim_restL k c T) :)
@[simp] theorem Dev.raiseLim_mono (k c T : Nat) : (d.raiseLim k c T).mono = d.mono := (congrArg Dev.mono (d.raiseLim_restL k c T) :)
@[simp] theorem Dev.raiseLim_free (k c T : Nat) : (d.raiseLim k c T).free = d.free := (congrArg Dev.free (d.raiseLim_restL k c T) :)
@[simp] theorem Dev.raiseLim_splTurn (k c T : Nat) : (d.raiseLim k c T).splTurn = d.splTurn := (congrArg Dev.splTurn (d.raiseLim_restL k c T) :)
@[simp] theorem Dev.raiseLim_jnl (k c T : Nat) : (d.raiseLim k c T).jnl = d.jnl := (congrArg Dev.jnl (d.raiseLim_restL k c T) :)
@[simp] theorem Dev.raiseLim_pwr (k c T : Nat) : (d.raiseLim k c T).pwr = d.pwr := (congrArg Dev.pwr (d.raiseLim_restL k c T) :)
@[simp] theorem Dev.raiseLim_boot (k c T : Nat) : (d.raiseLim k c T).boot = d.boot := (congrArg Dev.boot (d.raiseLim_restL k c T) :)
@[simp] theorem Dev.raiseLim_per (k c T : Nat) : (d.raiseLim k c T).per = d.per := (congrArg Dev.per (d.raiseLim_restL k c T) :)
@[simp] theorem Dev.raiseLim_fo (k c T : Nat) : (d.raiseLim k c T).fo = d.fo := (congrArg Dev.fo (d.raiseLim_restL k c T) :)
@[simp] theorem Dev.raiseLim_fio (k c T : Nat) : (d.raiseLim k c T).fio = d.fio := (congrArg Dev.fio (d.raiseLim_restL k c T) :)
@[simp] theorem Dev.raiseLim_gch (k c T : Nat) : (d.raiseLim k c T).gch = d.gch := (congrArg Dev.gch (d.raiseLim_restL k c T) :)
@[simp] theorem Dev.raiseLim_car (k c T : Nat) : (d.raiseLim k c T).car = d.car := (congrArg Dev.car (d.raiseLim_restL k c T) :)
@[simp] theorem Dev.raiseLim_clu (k c T : Nat) : (d.raiseLim k c T).clu = d.clu := (congrArg Dev.clu (d.raiseLim_restL k c T) :)
@[simp] theorem Dev.raiseLim_pos (k c T : Nat) : (d.raiseLim k c T).pos = d.pos := (congrArg Dev.pos (d.raiseLim_restL k c T) :)
@[simp] theorem Dev.raiseLim_hem (k c T : Nat) : (d.raiseLim k c T).hem = d.hem := (congrArg Dev.hem (d.raiseLim_restL k c T) :)
@[simp] theorem Dev.raiseLim_tgrp (k c T : Nat) : (d.raiseLim k c T).tgrp = d.tgrp := (congrArg Dev.tgrp (d.raiseLim_restL k c T) :)
@[simp] theorem Dev.raiseLim_thm (k c T : Nat) : (d.raiseLim k c T).thm = d.thm := (congrArg Dev.thm (d.raiseLim_restL k c T) :)
@[simp] theorem Dev.raiseLim_axis (k c T : Nat) : (d.raiseLim k c T).axis = d.axis := (congrArg Dev.axis (d.raiseLim_restL k c T) :)
@[simp] theorem Dev.raiseLim_conn (k c T : Nat) : (d.raiseLim k c T).conn = d.conn := (congrArg Dev.conn (d.raiseLim_restL k c T) :)
@[simp] theorem Dev.raiseLim_dtm (k c T : Nat) : (d.raiseLim k c T).dtm = d.dtm := (congrArg Dev.dtm (d.raiseLim_restL k c T) :)
@[simp] theorem Dev.raiseLim_adc (k c T : Nat) : (d.raiseLim k c T).adc = d.adc := (congrArg Dev.adc (d.raiseLim_restL k c T) :)
@[simp] theorem Dev.raiseLim_aux (k c T : Nat) : (d.raiseLim k c T).aux = d.aux := (congrArg Dev.aux (d.raiseLim_restL k c T) :)
@[simp] theorem Dev.raiseLim_img (k c T : Nat) : (d.raiseLim k c T).img = d.img := (congrArg Dev.img (d.raiseLim_restL k c T) :)
@[simp] theorem Dev.raiseLim_slc (k c T : Nat) : (d.raiseLim k c T).slc = d.slc := (congrArg Dev.slc (d.raiseLim_restL k c T) :)
@[simp] theorem Dev.raiseLim_port (k c T : Nat) : (d.raiseLim k c T).port = d.port := (congrArg Dev.port (d.raiseLim_restL k c T) :)
@[simp] theorem Dev.raiseLim_can (k c T : Nat) : (d.raiseLim k c T).can = d.can := (congrArg Dev.can (d.raiseLim_restL k c T) :)
@[simp] theorem Dev.raiseLim_dom (k c T : Nat) : (d.raiseLim k c T).dom = d.dom := (congrArg Dev.dom (d.raiseLim_restL k c T) :)
@[simp] theorem Dev.raiseLim_eth (k c T : Nat) : (d.raiseLim k c T).eth = d.eth := (congrArg Dev.eth (d.raiseLim_restL k c T) :)
@[simp] theorem Dev.raiseLim_sfl (k c T : Nat) : (d.raiseLim k c T).sfl = d.sfl := (congrArg Dev.sfl (d.raiseLim_restL k c T) :)
@[simp] theorem Dev.raiseLim_spih (k c T : Nat) : (d.raiseLim k c T).spih = d.spih := (congrArg Dev.spih (d.raiseLim_restL k c T) :)
@[simp] theorem Dev.raiseLim_m1 (k c T : Nat) : (d.raiseLim k c T).m1 = d.m1 := (congrArg Dev.m1 (d.raiseLim_restL k c T) :)
@[simp] theorem Dev.raiseLim_lu (k c T : Nat) : (d.raiseLim k c T).lu = d.lu := (congrArg Dev.lu (d.raiseLim_restL k c T) :)
@[simp] theorem Dev.raiseLim_nfc (k c T : Nat) : (d.raiseLim k c T).nfc = d.nfc := (congrArg Dev.nfc (d.raiseLim_restL k c T) :)
@[simp] theorem Dev.raiseLim_flw (k c T : Nat) : (d.raiseLim k c T).flw = d.flw := (congrArg Dev.flw (d.raiseLim_restL k c T) :)
@[simp] theorem Dev.raiseLim_dbgTrig (k c T : Nat) : (d.raiseLim k c T).dbgTrig = d.dbgTrig := (congrArg Dev.dbgTrig (d.raiseLim_restL k c T) :)
@[simp] theorem Dev.raiseLim_foAt (k c T : Nat) (n : Nat) : (d.raiseLim k c T).foAt n = d.foAt n := (congrArg (Dev.foAt · n) (d.raiseLim_restL k c T) :)
@[simp] theorem Dev.raiseLim_gchAt (k c T : Nat) (n : Nat) : (d.raiseLim k c T).gchAt n = d.gchAt n := (congrArg (Dev.gchAt · n) (d.raiseLim_restL k c T) :)
@[simp] theorem Dev.raiseLim_carAt (k c T : Nat) (n : Nat) : (d.raiseLim k c T).carAt n = d.carAt n := (congrArg (Dev.carAt · n) (d.raiseLim_restL k c T) :)
@[simp] theorem Dev.raiseLim_cluAt (k c T : Nat) (n : Nat) : (d.raiseLim k c T).cluAt n = d.cluAt n := (congrArg (Dev.cluAt · n) (d.raiseLim_restL k c T) :)
@[simp] theorem Dev.raiseLim_posAt (k c T : Nat) (n : Nat) : (d.raiseLim k c T).posAt n = d.posAt n := (congrArg (Dev.posAt · n) (d.raiseLim_restL k c T) :)
@[simp] theorem Dev.raiseLim_tgrpAt (k c T : Nat) (n : Nat) : (d.raiseLim k c T).tgrpAt n = d.tgrpAt n := (congrArg (Dev.tgrpAt · n) (d.raiseLim_restL k c T) :)
@[simp] theorem Dev.raiseLim_axisAt (k c T : Nat) (n : Nat) : (d.raiseLim k c T).axisAt n = d.axisAt n := (congrArg (Dev.axisAt · n) (d.raiseLim_restL k c T) :)
@[simp] theorem Dev.raiseLim_connAt (k c T : Nat) (n : Nat) : (d.raiseLim k c T).connAt n = d.connAt n := (congrArg (Dev.connAt · n) (d.raiseLim_restL k c T) :)
@[simp] theorem Dev.raiseLim_adcAt (k c T : Nat) (n : Nat) : (d.raiseLim k c T).adcAt n = d.adcAt n := (congrArg (Dev.adcAt · n) (d.raiseLim_restL k c T) :)
@[simp] theorem Dev.raiseLim_auxAt (k c T : Nat) (n : Nat) : (d.raiseLim k c T).auxAt n = d.auxAt n := (congrArg (Dev.auxAt · n) (d.raiseLim_restL k c T) :)
@[simp] theorem Dev.raiseLim_slcAt (k c T : Nat) (n : Nat) : (d.raiseLim k c T).slcAt n = d.slcAt n := (congrArg (Dev.slcAt · n) (d.raiseLim_restL k c T) :)
@[simp] theorem Dev.raiseLim_portAt (k c T : Nat) (n : Nat) : (d.raiseLim k c T).portAt n = d.portAt n := (congrArg (Dev.portAt · n) (d.raiseLim_restL k c T) :)
@[simp] theorem Dev.raiseLim_canAt (k c T : Nat) (n : Nat) : (d.raiseLim k c T).canAt n = d.canAt n := (congrArg (Dev.canAt · n) (d.raiseLim_restL k c T) :)
@[simp] theorem Dev.raiseLim_luAt (k c T : Nat) (n : Nat) : (d.raiseLim k c T).luAt n = d.luAt n := (congrArg (Dev.luAt · n) (d.raiseLim_restL k c T) :)

@[simp] theorem Dev.jnlPut_time (fw : Bool) (e : JEntry) : (d.jnlPut fw e).time = d.time := (congrArg Dev.time (d.jnlPut_restJ fw e) :)
@[simp] theorem Dev.jnlPut_frac (fw : Bool) (e : JEntry) : (d.jnlPut fw e).frac = d.frac := (congrArg Dev.frac (d.jnlPut_restJ fw e) :)
@[simp] theorem Dev.jnlPut_mono (fw : Bool) (e : JEntry) : (d.jnlPut fw e).mono = d.mono := (congrArg Dev.mono (d.jnlPut_restJ fw e) :)
@[simp] theorem Dev.jnlPut_free (fw : Bool) (e : JEntry) : (d.jnlPut fw e).free = d.free := (congrArg Dev.free (d.jnlPut_restJ fw e) :)
@[simp] theorem Dev.jnlPut_splTurn (fw : Bool) (e : JEntry) : (d.jnlPut fw e).splTurn = d.splTurn := (congrArg Dev.splTurn (d.jnlPut_restJ fw e) :)
@[simp] theorem Dev.jnlPut_pwr (fw : Bool) (e : JEntry) : (d.jnlPut fw e).pwr = d.pwr := (congrArg Dev.pwr (d.jnlPut_restJ fw e) :)
@[simp] theorem Dev.jnlPut_boot (fw : Bool) (e : JEntry) : (d.jnlPut fw e).boot = d.boot := (congrArg Dev.boot (d.jnlPut_restJ fw e) :)
@[simp] theorem Dev.jnlPut_per (fw : Bool) (e : JEntry) : (d.jnlPut fw e).per = d.per := (congrArg Dev.per (d.jnlPut_restJ fw e) :)
@[simp] theorem Dev.jnlPut_fo (fw : Bool) (e : JEntry) : (d.jnlPut fw e).fo = d.fo := (congrArg Dev.fo (d.jnlPut_restJ fw e) :)
@[simp] theorem Dev.jnlPut_fio (fw : Bool) (e : JEntry) : (d.jnlPut fw e).fio = d.fio := (congrArg Dev.fio (d.jnlPut_restJ fw e) :)
@[simp] theorem Dev.jnlPut_gch (fw : Bool) (e : JEntry) : (d.jnlPut fw e).gch = d.gch := (congrArg Dev.gch (d.jnlPut_restJ fw e) :)
@[simp] theorem Dev.jnlPut_car (fw : Bool) (e : JEntry) : (d.jnlPut fw e).car = d.car := (congrArg Dev.car (d.jnlPut_restJ fw e) :)
@[simp] theorem Dev.jnlPut_clu (fw : Bool) (e : JEntry) : (d.jnlPut fw e).clu = d.clu := (congrArg Dev.clu (d.jnlPut_restJ fw e) :)
@[simp] theorem Dev.jnlPut_pos (fw : Bool) (e : JEntry) : (d.jnlPut fw e).pos = d.pos := (congrArg Dev.pos (d.jnlPut_restJ fw e) :)
@[simp] theorem Dev.jnlPut_hem (fw : Bool) (e : JEntry) : (d.jnlPut fw e).hem = d.hem := (congrArg Dev.hem (d.jnlPut_restJ fw e) :)
@[simp] theorem Dev.jnlPut_tgrp (fw : Bool) (e : JEntry) : (d.jnlPut fw e).tgrp = d.tgrp := (congrArg Dev.tgrp (d.jnlPut_restJ fw e) :)
@[simp] theorem Dev.jnlPut_thm (fw : Bool) (e : JEntry) : (d.jnlPut fw e).thm = d.thm := (congrArg Dev.thm (d.jnlPut_restJ fw e) :)
@[simp] theorem Dev.jnlPut_axis (fw : Bool) (e : JEntry) : (d.jnlPut fw e).axis = d.axis := (congrArg Dev.axis (d.jnlPut_restJ fw e) :)
@[simp] theorem Dev.jnlPut_conn (fw : Bool) (e : JEntry) : (d.jnlPut fw e).conn = d.conn := (congrArg Dev.conn (d.jnlPut_restJ fw e) :)
@[simp] theorem Dev.jnlPut_dtm (fw : Bool) (e : JEntry) : (d.jnlPut fw e).dtm = d.dtm := (congrArg Dev.dtm (d.jnlPut_restJ fw e) :)
@[simp] theorem Dev.jnlPut_adc (fw : Bool) (e : JEntry) : (d.jnlPut fw e).adc = d.adc := (congrArg Dev.adc (d.jnlPut_restJ fw e) :)
@[simp] theorem Dev.jnlPut_aux (fw : Bool) (e : JEntry) : (d.jnlPut fw e).aux = d.aux := (congrArg Dev.aux (d.jnlPut_restJ fw e) :)
@[simp] theorem Dev.jnlPut_img (fw : Bool) (e : JEntry) : (d.jnlPut fw e).img = d.img := (congrArg Dev.img (d.jnlPut_restJ fw e) :)
@[simp] theorem Dev.jnlPut_slc (fw : Bool) (e : JEntry) : (d.jnlPut fw e).slc = d.slc := (congrArg Dev.slc (d.jnlPut_restJ fw e) :)
@[simp] theorem Dev.jnlPut_port (fw : Bool) (e : JEntry) : (d.jnlPut fw e).port = d.port := (congrArg Dev.port (d.jnlPut_restJ fw e) :)
@[simp] theorem Dev.jnlPut_can (fw : Bool) (e : JEntry) : (d.jnlPut fw e).can = d.can := (congrArg Dev.can (d.jnlPut_restJ fw e) :)
@[simp] theorem Dev.jnlPut_dom (fw : Bool) (e : JEntry) : (d.jnlPut fw e).dom = d.dom := (congrArg Dev.dom (d.jnlPut_restJ fw e) :)
@[simp] theorem Dev.jnlPut_eth (fw : Bool) (e : JEntry) : (d.jnlPut fw e).eth = d.eth := (congrArg Dev.eth (d.jnlPut_restJ fw e) :)
@[simp] theorem Dev.jnlPut_sfl (fw : Bool) (e : JEntry) : (d.jnlPut fw e).sfl = d.sfl := (congrArg Dev.sfl (d.jnlPut_restJ fw e) :)
@[simp] theorem Dev.jnlPut_spih (fw : Bool) (e : JEntry) : (d.jnlPut fw e).spih = d.spih := (congrArg Dev.spih (d.jnlPut_restJ fw e) :)
@[simp] theorem Dev.jnlPut_m1 (fw : Bool) (e : JEntry) : (d.jnlPut fw e).m1 = d.m1 := (congrArg Dev.m1 (d.jnlPut_restJ fw e) :)
@[simp] theorem Dev.jnlPut_lu (fw : Bool) (e : JEntry) : (d.jnlPut fw e).lu = d.lu := (congrArg Dev.lu (d.jnlPut_restJ fw e) :)
@[simp] theorem Dev.jnlPut_nfc (fw : Bool) (e : JEntry) : (d.jnlPut fw e).nfc = d.nfc := (congrArg Dev.nfc (d.jnlPut_restJ fw e) :)
@[simp] theorem Dev.jnlPut_flw (fw : Bool) (e : JEntry) : (d.jnlPut fw e).flw = d.flw := (congrArg Dev.flw (d.jnlPut_restJ fw e) :)
@[simp] theorem Dev.jnlPut_dbgTrig (fw : Bool) (e : JEntry) : (d.jnlPut fw e).dbgTrig = d.dbgTrig := (congrArg Dev.dbgTrig (d.jnlPut_restJ fw e) :)
@[simp] theorem Dev.jnlPut_foAt (fw : Bool) (e : JEntry) (n : Nat) : (d.jnlPut fw e).foAt n = d.foAt n := (congrArg (Dev.foAt · n) (d.jnlPut_restJ fw e) :)
@[simp] theorem Dev.jnlPut_gchAt (fw : Bool) (e : JEntry) (n : Nat) : (d.jnlPut fw e).gchAt n = d.gchAt n := (congrArg (Dev.gchAt · n) (d.jnlPut_restJ fw e) :)
@[simp] theorem Dev.jnlPut_carAt (fw : Bool) (e : JEntry) (n : Nat) : (d.jnlPut fw e).carAt n = d.carAt n := (congrArg (Dev.carAt · n) (d.jnlPut_restJ fw e) :)
@[simp] theorem Dev.jnlPut_cluAt (fw : Bool) (e : JEntry) (n : Nat) : (d.jnlPut fw e).cluAt n = d.cluAt n := (congrArg (Dev.cluAt · n) (d.jnlPut_restJ fw e) :)
@[simp] theorem Dev.jnlPut_posAt (fw : Bool) (e : JEntry) (n : Nat) : (d.jnlPut fw e).posAt n = d.posAt n := (congrArg (Dev.posAt · n) (d.jnlPut_restJ fw e) :)
@[simp] theorem Dev.jnlPut_tgrpAt (fw : Bool) (e : JEntry) (n : Nat) : (d.jnlPut fw e).tgrpAt n = d.tgrpAt n := (congrArg (Dev.tgrpAt · n) (d.jnlPut_restJ fw e) :)
@[simp] theorem Dev.jnlPut_axisAt (fw : Bool) (e : JEntry) (n : Nat) : (d.jnlPut fw e).axisAt n = d.axisAt n := (congrArg (Dev.axisAt · n) (d.jnlPut_restJ fw e) :)
@[simp] theorem Dev.jnlPut_connAt (fw : Bool) (e : JEntry) (n : Nat) : (d.jnlPut fw e).connAt n = d.connAt n := (congrArg (Dev.connAt · n) (d.jnlPut_restJ fw e) :)
@[simp] theorem Dev.jnlPut_adcAt (fw : Bool) (e : JEntry) (n : Nat) : (d.jnlPut fw e).adcAt n = d.adcAt n := (congrArg (Dev.adcAt · n) (d.jnlPut_restJ fw e) :)
@[simp] theorem Dev.jnlPut_auxAt (fw : Bool) (e : JEntry) (n : Nat) : (d.jnlPut fw e).auxAt n = d.auxAt n := (congrArg (Dev.auxAt · n) (d.jnlPut_restJ fw e) :)
@[simp] theorem Dev.jnlPut_slcAt (fw : Bool) (e : JEntry) (n : Nat) : (d.jnlPut fw e).slcAt n = d.slcAt n := (congrArg (Dev.slcAt · n) (d.jnlPut_restJ fw e) :)
@[simp] theorem Dev.jnlPut_portAt (fw : Bool) (e : JEntry) (n : Nat) : (d.jnlPut fw e).portAt n = d.portAt n := (congrArg (Dev.portAt · n) (d.jnlPut_restJ fw e) :)
@[simp] theorem Dev.jnlPut_canAt (fw : Bool) (e : JEntry) (n : Nat) : (d.jnlPut fw e).canAt n = d.canAt n := (congrArg (Dev.canAt · n) (d.jnlPut_restJ fw e) :)
@[simp] theorem Dev.jnlPut_luAt (fw : Bool) (e : JEntry) (n : Nat) : (d.jnlPut fw e).luAt n = d.luAt n := (congrArg (Dev.luAt · n) (d.jnlPut_restJ fw e) :)

@[simp] theorem Dev.journal_time (kind src o : Nat) (l : List (BitVec 64)) : (d.journal kind src o l).time = d.time := (congrArg Dev.time (d.journal_restJ kind src o l) :)
@[simp] theorem Dev.journal_frac (kind src o : Nat) (l : List (BitVec 64)) : (d.journal kind src o l).frac = d.frac := (congrArg Dev.frac (d.journal_restJ kind src o l) :)
@[simp] theorem Dev.journal_mono (kind src o : Nat) (l : List (BitVec 64)) : (d.journal kind src o l).mono = d.mono := (congrArg Dev.mono (d.journal_restJ kind src o l) :)
@[simp] theorem Dev.journal_free (kind src o : Nat) (l : List (BitVec 64)) : (d.journal kind src o l).free = d.free := (congrArg Dev.free (d.journal_restJ kind src o l) :)
@[simp] theorem Dev.journal_splTurn (kind src o : Nat) (l : List (BitVec 64)) : (d.journal kind src o l).splTurn = d.splTurn := (congrArg Dev.splTurn (d.journal_restJ kind src o l) :)
@[simp] theorem Dev.journal_pwr (kind src o : Nat) (l : List (BitVec 64)) : (d.journal kind src o l).pwr = d.pwr := (congrArg Dev.pwr (d.journal_restJ kind src o l) :)
@[simp] theorem Dev.journal_boot (kind src o : Nat) (l : List (BitVec 64)) : (d.journal kind src o l).boot = d.boot := (congrArg Dev.boot (d.journal_restJ kind src o l) :)
@[simp] theorem Dev.journal_per (kind src o : Nat) (l : List (BitVec 64)) : (d.journal kind src o l).per = d.per := (congrArg Dev.per (d.journal_restJ kind src o l) :)
@[simp] theorem Dev.journal_fo (kind src o : Nat) (l : List (BitVec 64)) : (d.journal kind src o l).fo = d.fo := (congrArg Dev.fo (d.journal_restJ kind src o l) :)
@[simp] theorem Dev.journal_fio (kind src o : Nat) (l : List (BitVec 64)) : (d.journal kind src o l).fio = d.fio := (congrArg Dev.fio (d.journal_restJ kind src o l) :)
@[simp] theorem Dev.journal_gch (kind src o : Nat) (l : List (BitVec 64)) : (d.journal kind src o l).gch = d.gch := (congrArg Dev.gch (d.journal_restJ kind src o l) :)
@[simp] theorem Dev.journal_car (kind src o : Nat) (l : List (BitVec 64)) : (d.journal kind src o l).car = d.car := (congrArg Dev.car (d.journal_restJ kind src o l) :)
@[simp] theorem Dev.journal_clu (kind src o : Nat) (l : List (BitVec 64)) : (d.journal kind src o l).clu = d.clu := (congrArg Dev.clu (d.journal_restJ kind src o l) :)
@[simp] theorem Dev.journal_pos (kind src o : Nat) (l : List (BitVec 64)) : (d.journal kind src o l).pos = d.pos := (congrArg Dev.pos (d.journal_restJ kind src o l) :)
@[simp] theorem Dev.journal_hem (kind src o : Nat) (l : List (BitVec 64)) : (d.journal kind src o l).hem = d.hem := (congrArg Dev.hem (d.journal_restJ kind src o l) :)
@[simp] theorem Dev.journal_tgrp (kind src o : Nat) (l : List (BitVec 64)) : (d.journal kind src o l).tgrp = d.tgrp := (congrArg Dev.tgrp (d.journal_restJ kind src o l) :)
@[simp] theorem Dev.journal_thm (kind src o : Nat) (l : List (BitVec 64)) : (d.journal kind src o l).thm = d.thm := (congrArg Dev.thm (d.journal_restJ kind src o l) :)
@[simp] theorem Dev.journal_axis (kind src o : Nat) (l : List (BitVec 64)) : (d.journal kind src o l).axis = d.axis := (congrArg Dev.axis (d.journal_restJ kind src o l) :)
@[simp] theorem Dev.journal_conn (kind src o : Nat) (l : List (BitVec 64)) : (d.journal kind src o l).conn = d.conn := (congrArg Dev.conn (d.journal_restJ kind src o l) :)
@[simp] theorem Dev.journal_dtm (kind src o : Nat) (l : List (BitVec 64)) : (d.journal kind src o l).dtm = d.dtm := (congrArg Dev.dtm (d.journal_restJ kind src o l) :)
@[simp] theorem Dev.journal_adc (kind src o : Nat) (l : List (BitVec 64)) : (d.journal kind src o l).adc = d.adc := (congrArg Dev.adc (d.journal_restJ kind src o l) :)
@[simp] theorem Dev.journal_aux (kind src o : Nat) (l : List (BitVec 64)) : (d.journal kind src o l).aux = d.aux := (congrArg Dev.aux (d.journal_restJ kind src o l) :)
@[simp] theorem Dev.journal_img (kind src o : Nat) (l : List (BitVec 64)) : (d.journal kind src o l).img = d.img := (congrArg Dev.img (d.journal_restJ kind src o l) :)
@[simp] theorem Dev.journal_slc (kind src o : Nat) (l : List (BitVec 64)) : (d.journal kind src o l).slc = d.slc := (congrArg Dev.slc (d.journal_restJ kind src o l) :)
@[simp] theorem Dev.journal_port (kind src o : Nat) (l : List (BitVec 64)) : (d.journal kind src o l).port = d.port := (congrArg Dev.port (d.journal_restJ kind src o l) :)
@[simp] theorem Dev.journal_can (kind src o : Nat) (l : List (BitVec 64)) : (d.journal kind src o l).can = d.can := (congrArg Dev.can (d.journal_restJ kind src o l) :)
@[simp] theorem Dev.journal_dom (kind src o : Nat) (l : List (BitVec 64)) : (d.journal kind src o l).dom = d.dom := (congrArg Dev.dom (d.journal_restJ kind src o l) :)
@[simp] theorem Dev.journal_eth (kind src o : Nat) (l : List (BitVec 64)) : (d.journal kind src o l).eth = d.eth := (congrArg Dev.eth (d.journal_restJ kind src o l) :)
@[simp] theorem Dev.journal_sfl (kind src o : Nat) (l : List (BitVec 64)) : (d.journal kind src o l).sfl = d.sfl := (congrArg Dev.sfl (d.journal_restJ kind src o l) :)
@[simp] theorem Dev.journal_spih (kind src o : Nat) (l : List (BitVec 64)) : (d.journal kind src o l).spih = d.spih := (congrArg Dev.spih (d.journal_restJ kind src o l) :)
@[simp] theorem Dev.journal_m1 (kind src o : Nat) (l : List (BitVec 64)) : (d.journal kind src o l).m1 = d.m1 := (congrArg Dev.m1 (d.journal_restJ kind src o l) :)
@[simp] theorem Dev.journal_lu (kind src o : Nat) (l : List (BitVec 64)) : (d.journal kind src o l).lu = d.lu := (congrArg Dev.lu (d.journal_restJ kind src o l) :)
@[simp] theorem Dev.journal_nfc (kind src o : Nat) (l : List (BitVec 64)) : (d.journal kind src o l).nfc = d.nfc := (congrArg Dev.nfc (d.journal_restJ kind src o l) :)
@[simp] theorem Dev.journal_flw (kind src o : Nat) (l : List (BitVec 64)) : (d.journal kind src o l).flw = d.flw := (congrArg Dev.flw (d.journal_restJ kind src o l) :)
@[simp] theorem Dev.journal_dbgTrig (kind src o : Nat) (l : List (BitVec 64)) : (d.journal kind src o l).dbgTrig = d.dbgTrig := (congrArg Dev.dbgTrig (d.journal_restJ kind src o l) :)
@[simp] theorem Dev.journal_foAt (kind src o : Nat) (l : List (BitVec 64)) (n : Nat) : (d.journal kind src o l).foAt n = d.foAt n := (congrArg (Dev.foAt · n) (d.journal_restJ kind src o l) :)
@[simp] theorem Dev.journal_gchAt (kind src o : Nat) (l : List (BitVec 64)) (n : Nat) : (d.journal kind src o l).gchAt n = d.gchAt n := (congrArg (Dev.gchAt · n) (d.journal_restJ kind src o l) :)
@[simp] theorem Dev.journal_carAt (kind src o : Nat) (l : List (BitVec 64)) (n : Nat) : (d.journal kind src o l).carAt n = d.carAt n := (congrArg (Dev.carAt · n) (d.journal_restJ kind src o l) :)
@[simp] theorem Dev.journal_cluAt (kind src o : Nat) (l : List (BitVec 64)) (n : Nat) : (d.journal kind src o l).cluAt n = d.cluAt n := (congrArg (Dev.cluAt · n) (d.journal_restJ kind src o l) :)
@[simp] theorem Dev.journal_posAt (kind src o : Nat) (l : List (BitVec 64)) (n : Nat) : (d.journal kind src o l).posAt n = d.posAt n := (congrArg (Dev.posAt · n) (d.journal_restJ kind src o l) :)
@[simp] theorem Dev.journal_tgrpAt (kind src o : Nat) (l : List (BitVec 64)) (n : Nat) : (d.journal kind src o l).tgrpAt n = d.tgrpAt n := (congrArg (Dev.tgrpAt · n) (d.journal_restJ kind src o l) :)
@[simp] theorem Dev.journal_axisAt (kind src o : Nat) (l : List (BitVec 64)) (n : Nat) : (d.journal kind src o l).axisAt n = d.axisAt n := (congrArg (Dev.axisAt · n) (d.journal_restJ kind src o l) :)
@[simp] theorem Dev.journal_connAt (kind src o : Nat) (l : List (BitVec 64)) (n : Nat) : (d.journal kind src o l).connAt n = d.connAt n := (congrArg (Dev.connAt · n) (d.journal_restJ kind src o l) :)
@[simp] theorem Dev.journal_adcAt (kind src o : Nat) (l : List (BitVec 64)) (n : Nat) : (d.journal kind src o l).adcAt n = d.adcAt n := (congrArg (Dev.adcAt · n) (d.journal_restJ kind src o l) :)
@[simp] theorem Dev.journal_auxAt (kind src o : Nat) (l : List (BitVec 64)) (n : Nat) : (d.journal kind src o l).auxAt n = d.auxAt n := (congrArg (Dev.auxAt · n) (d.journal_restJ kind src o l) :)
@[simp] theorem Dev.journal_slcAt (kind src o : Nat) (l : List (BitVec 64)) (n : Nat) : (d.journal kind src o l).slcAt n = d.slcAt n := (congrArg (Dev.slcAt · n) (d.journal_restJ kind src o l) :)
@[simp] theorem Dev.journal_portAt (kind src o : Nat) (l : List (BitVec 64)) (n : Nat) : (d.journal kind src o l).portAt n = d.portAt n := (congrArg (Dev.portAt · n) (d.journal_restJ kind src o l) :)
@[simp] theorem Dev.journal_canAt (kind src o : Nat) (l : List (BitVec 64)) (n : Nat) : (d.journal kind src o l).canAt n = d.canAt n := (congrArg (Dev.canAt · n) (d.journal_restJ kind src o l) :)
@[simp] theorem Dev.journal_luAt (kind src o : Nat) (l : List (BitVec 64)) (n : Nat) : (d.journal kind src o l).luAt n = d.luAt n := (congrArg (Dev.luAt · n) (d.journal_restJ kind src o l) :)

@[simp] theorem Dev.jnlFault_time (k a b : Nat) : (d.jnlFault k a b).time = d.time := (congrArg Dev.time (d.jnlFault_restJ k a b) :)
@[simp] theorem Dev.jnlFault_frac (k a b : Nat) : (d.jnlFault k a b).frac = d.frac := (congrArg Dev.frac (d.jnlFault_restJ k a b) :)
@[simp] theorem Dev.jnlFault_mono (k a b : Nat) : (d.jnlFault k a b).mono = d.mono := (congrArg Dev.mono (d.jnlFault_restJ k a b) :)
@[simp] theorem Dev.jnlFault_free (k a b : Nat) : (d.jnlFault k a b).free = d.free := (congrArg Dev.free (d.jnlFault_restJ k a b) :)
@[simp] theorem Dev.jnlFault_splTurn (k a b : Nat) : (d.jnlFault k a b).splTurn = d.splTurn := (congrArg Dev.splTurn (d.jnlFault_restJ k a b) :)
@[simp] theorem Dev.jnlFault_pwr (k a b : Nat) : (d.jnlFault k a b).pwr = d.pwr := (congrArg Dev.pwr (d.jnlFault_restJ k a b) :)
@[simp] theorem Dev.jnlFault_boot (k a b : Nat) : (d.jnlFault k a b).boot = d.boot := (congrArg Dev.boot (d.jnlFault_restJ k a b) :)
@[simp] theorem Dev.jnlFault_per (k a b : Nat) : (d.jnlFault k a b).per = d.per := (congrArg Dev.per (d.jnlFault_restJ k a b) :)
@[simp] theorem Dev.jnlFault_fo (k a b : Nat) : (d.jnlFault k a b).fo = d.fo := (congrArg Dev.fo (d.jnlFault_restJ k a b) :)
@[simp] theorem Dev.jnlFault_fio (k a b : Nat) : (d.jnlFault k a b).fio = d.fio := (congrArg Dev.fio (d.jnlFault_restJ k a b) :)
@[simp] theorem Dev.jnlFault_gch (k a b : Nat) : (d.jnlFault k a b).gch = d.gch := (congrArg Dev.gch (d.jnlFault_restJ k a b) :)
@[simp] theorem Dev.jnlFault_car (k a b : Nat) : (d.jnlFault k a b).car = d.car := (congrArg Dev.car (d.jnlFault_restJ k a b) :)
@[simp] theorem Dev.jnlFault_clu (k a b : Nat) : (d.jnlFault k a b).clu = d.clu := (congrArg Dev.clu (d.jnlFault_restJ k a b) :)
@[simp] theorem Dev.jnlFault_pos (k a b : Nat) : (d.jnlFault k a b).pos = d.pos := (congrArg Dev.pos (d.jnlFault_restJ k a b) :)
@[simp] theorem Dev.jnlFault_hem (k a b : Nat) : (d.jnlFault k a b).hem = d.hem := (congrArg Dev.hem (d.jnlFault_restJ k a b) :)
@[simp] theorem Dev.jnlFault_tgrp (k a b : Nat) : (d.jnlFault k a b).tgrp = d.tgrp := (congrArg Dev.tgrp (d.jnlFault_restJ k a b) :)
@[simp] theorem Dev.jnlFault_thm (k a b : Nat) : (d.jnlFault k a b).thm = d.thm := (congrArg Dev.thm (d.jnlFault_restJ k a b) :)
@[simp] theorem Dev.jnlFault_axis (k a b : Nat) : (d.jnlFault k a b).axis = d.axis := (congrArg Dev.axis (d.jnlFault_restJ k a b) :)
@[simp] theorem Dev.jnlFault_conn (k a b : Nat) : (d.jnlFault k a b).conn = d.conn := (congrArg Dev.conn (d.jnlFault_restJ k a b) :)
@[simp] theorem Dev.jnlFault_dtm (k a b : Nat) : (d.jnlFault k a b).dtm = d.dtm := (congrArg Dev.dtm (d.jnlFault_restJ k a b) :)
@[simp] theorem Dev.jnlFault_adc (k a b : Nat) : (d.jnlFault k a b).adc = d.adc := (congrArg Dev.adc (d.jnlFault_restJ k a b) :)
@[simp] theorem Dev.jnlFault_aux (k a b : Nat) : (d.jnlFault k a b).aux = d.aux := (congrArg Dev.aux (d.jnlFault_restJ k a b) :)
@[simp] theorem Dev.jnlFault_img (k a b : Nat) : (d.jnlFault k a b).img = d.img := (congrArg Dev.img (d.jnlFault_restJ k a b) :)
@[simp] theorem Dev.jnlFault_slc (k a b : Nat) : (d.jnlFault k a b).slc = d.slc := (congrArg Dev.slc (d.jnlFault_restJ k a b) :)
@[simp] theorem Dev.jnlFault_port (k a b : Nat) : (d.jnlFault k a b).port = d.port := (congrArg Dev.port (d.jnlFault_restJ k a b) :)
@[simp] theorem Dev.jnlFault_can (k a b : Nat) : (d.jnlFault k a b).can = d.can := (congrArg Dev.can (d.jnlFault_restJ k a b) :)
@[simp] theorem Dev.jnlFault_dom (k a b : Nat) : (d.jnlFault k a b).dom = d.dom := (congrArg Dev.dom (d.jnlFault_restJ k a b) :)
@[simp] theorem Dev.jnlFault_eth (k a b : Nat) : (d.jnlFault k a b).eth = d.eth := (congrArg Dev.eth (d.jnlFault_restJ k a b) :)
@[simp] theorem Dev.jnlFault_sfl (k a b : Nat) : (d.jnlFault k a b).sfl = d.sfl := (congrArg Dev.sfl (d.jnlFault_restJ k a b) :)
@[simp] theorem Dev.jnlFault_spih (k a b : Nat) : (d.jnlFault k a b).spih = d.spih := (congrArg Dev.spih (d.jnlFault_restJ k a b) :)
@[simp] theorem Dev.jnlFault_m1 (k a b : Nat) : (d.jnlFault k a b).m1 = d.m1 := (congrArg Dev.m1 (d.jnlFault_restJ k a b) :)
@[simp] theorem Dev.jnlFault_lu (k a b : Nat) : (d.jnlFault k a b).lu = d.lu := (congrArg Dev.lu (d.jnlFault_restJ k a b) :)
@[simp] theorem Dev.jnlFault_nfc (k a b : Nat) : (d.jnlFault k a b).nfc = d.nfc := (congrArg Dev.nfc (d.jnlFault_restJ k a b) :)
@[simp] theorem Dev.jnlFault_flw (k a b : Nat) : (d.jnlFault k a b).flw = d.flw := (congrArg Dev.flw (d.jnlFault_restJ k a b) :)
@[simp] theorem Dev.jnlFault_dbgTrig (k a b : Nat) : (d.jnlFault k a b).dbgTrig = d.dbgTrig := (congrArg Dev.dbgTrig (d.jnlFault_restJ k a b) :)
@[simp] theorem Dev.jnlFault_foAt (k a b : Nat) (n : Nat) : (d.jnlFault k a b).foAt n = d.foAt n := (congrArg (Dev.foAt · n) (d.jnlFault_restJ k a b) :)
@[simp] theorem Dev.jnlFault_gchAt (k a b : Nat) (n : Nat) : (d.jnlFault k a b).gchAt n = d.gchAt n := (congrArg (Dev.gchAt · n) (d.jnlFault_restJ k a b) :)
@[simp] theorem Dev.jnlFault_carAt (k a b : Nat) (n : Nat) : (d.jnlFault k a b).carAt n = d.carAt n := (congrArg (Dev.carAt · n) (d.jnlFault_restJ k a b) :)
@[simp] theorem Dev.jnlFault_cluAt (k a b : Nat) (n : Nat) : (d.jnlFault k a b).cluAt n = d.cluAt n := (congrArg (Dev.cluAt · n) (d.jnlFault_restJ k a b) :)
@[simp] theorem Dev.jnlFault_posAt (k a b : Nat) (n : Nat) : (d.jnlFault k a b).posAt n = d.posAt n := (congrArg (Dev.posAt · n) (d.jnlFault_restJ k a b) :)
@[simp] theorem Dev.jnlFault_tgrpAt (k a b : Nat) (n : Nat) : (d.jnlFault k a b).tgrpAt n = d.tgrpAt n := (congrArg (Dev.tgrpAt · n) (d.jnlFault_restJ k a b) :)
@[simp] theorem Dev.jnlFault_axisAt (k a b : Nat) (n : Nat) : (d.jnlFault k a b).axisAt n = d.axisAt n := (congrArg (Dev.axisAt · n) (d.jnlFault_restJ k a b) :)
@[simp] theorem Dev.jnlFault_connAt (k a b : Nat) (n : Nat) : (d.jnlFault k a b).connAt n = d.connAt n := (congrArg (Dev.connAt · n) (d.jnlFault_restJ k a b) :)
@[simp] theorem Dev.jnlFault_adcAt (k a b : Nat) (n : Nat) : (d.jnlFault k a b).adcAt n = d.adcAt n := (congrArg (Dev.adcAt · n) (d.jnlFault_restJ k a b) :)
@[simp] theorem Dev.jnlFault_auxAt (k a b : Nat) (n : Nat) : (d.jnlFault k a b).auxAt n = d.auxAt n := (congrArg (Dev.auxAt · n) (d.jnlFault_restJ k a b) :)
@[simp] theorem Dev.jnlFault_slcAt (k a b : Nat) (n : Nat) : (d.jnlFault k a b).slcAt n = d.slcAt n := (congrArg (Dev.slcAt · n) (d.jnlFault_restJ k a b) :)
@[simp] theorem Dev.jnlFault_portAt (k a b : Nat) (n : Nat) : (d.jnlFault k a b).portAt n = d.portAt n := (congrArg (Dev.portAt · n) (d.jnlFault_restJ k a b) :)
@[simp] theorem Dev.jnlFault_canAt (k a b : Nat) (n : Nat) : (d.jnlFault k a b).canAt n = d.canAt n := (congrArg (Dev.canAt · n) (d.jnlFault_restJ k a b) :)
@[simp] theorem Dev.jnlFault_luAt (k a b : Nat) (n : Nat) : (d.jnlFault k a b).luAt n = d.luAt n := (congrArg (Dev.luAt · n) (d.jnlFault_restJ k a b) :)

@[simp] theorem Dev.jnlThimble_time (k : Nat) : (d.jnlThimble k).time = d.time := (congrArg Dev.time (d.jnlThimble_restJ k) :)
@[simp] theorem Dev.jnlThimble_frac (k : Nat) : (d.jnlThimble k).frac = d.frac := (congrArg Dev.frac (d.jnlThimble_restJ k) :)
@[simp] theorem Dev.jnlThimble_mono (k : Nat) : (d.jnlThimble k).mono = d.mono := (congrArg Dev.mono (d.jnlThimble_restJ k) :)
@[simp] theorem Dev.jnlThimble_free (k : Nat) : (d.jnlThimble k).free = d.free := (congrArg Dev.free (d.jnlThimble_restJ k) :)
@[simp] theorem Dev.jnlThimble_splTurn (k : Nat) : (d.jnlThimble k).splTurn = d.splTurn := (congrArg Dev.splTurn (d.jnlThimble_restJ k) :)
@[simp] theorem Dev.jnlThimble_pwr (k : Nat) : (d.jnlThimble k).pwr = d.pwr := (congrArg Dev.pwr (d.jnlThimble_restJ k) :)
@[simp] theorem Dev.jnlThimble_boot (k : Nat) : (d.jnlThimble k).boot = d.boot := (congrArg Dev.boot (d.jnlThimble_restJ k) :)
@[simp] theorem Dev.jnlThimble_per (k : Nat) : (d.jnlThimble k).per = d.per := (congrArg Dev.per (d.jnlThimble_restJ k) :)
@[simp] theorem Dev.jnlThimble_fo (k : Nat) : (d.jnlThimble k).fo = d.fo := (congrArg Dev.fo (d.jnlThimble_restJ k) :)
@[simp] theorem Dev.jnlThimble_fio (k : Nat) : (d.jnlThimble k).fio = d.fio := (congrArg Dev.fio (d.jnlThimble_restJ k) :)
@[simp] theorem Dev.jnlThimble_gch (k : Nat) : (d.jnlThimble k).gch = d.gch := (congrArg Dev.gch (d.jnlThimble_restJ k) :)
@[simp] theorem Dev.jnlThimble_car (k : Nat) : (d.jnlThimble k).car = d.car := (congrArg Dev.car (d.jnlThimble_restJ k) :)
@[simp] theorem Dev.jnlThimble_clu (k : Nat) : (d.jnlThimble k).clu = d.clu := (congrArg Dev.clu (d.jnlThimble_restJ k) :)
@[simp] theorem Dev.jnlThimble_pos (k : Nat) : (d.jnlThimble k).pos = d.pos := (congrArg Dev.pos (d.jnlThimble_restJ k) :)
@[simp] theorem Dev.jnlThimble_hem (k : Nat) : (d.jnlThimble k).hem = d.hem := (congrArg Dev.hem (d.jnlThimble_restJ k) :)
@[simp] theorem Dev.jnlThimble_tgrp (k : Nat) : (d.jnlThimble k).tgrp = d.tgrp := (congrArg Dev.tgrp (d.jnlThimble_restJ k) :)
@[simp] theorem Dev.jnlThimble_thm (k : Nat) : (d.jnlThimble k).thm = d.thm := (congrArg Dev.thm (d.jnlThimble_restJ k) :)
@[simp] theorem Dev.jnlThimble_axis (k : Nat) : (d.jnlThimble k).axis = d.axis := (congrArg Dev.axis (d.jnlThimble_restJ k) :)
@[simp] theorem Dev.jnlThimble_conn (k : Nat) : (d.jnlThimble k).conn = d.conn := (congrArg Dev.conn (d.jnlThimble_restJ k) :)
@[simp] theorem Dev.jnlThimble_dtm (k : Nat) : (d.jnlThimble k).dtm = d.dtm := (congrArg Dev.dtm (d.jnlThimble_restJ k) :)
@[simp] theorem Dev.jnlThimble_adc (k : Nat) : (d.jnlThimble k).adc = d.adc := (congrArg Dev.adc (d.jnlThimble_restJ k) :)
@[simp] theorem Dev.jnlThimble_aux (k : Nat) : (d.jnlThimble k).aux = d.aux := (congrArg Dev.aux (d.jnlThimble_restJ k) :)
@[simp] theorem Dev.jnlThimble_img (k : Nat) : (d.jnlThimble k).img = d.img := (congrArg Dev.img (d.jnlThimble_restJ k) :)
@[simp] theorem Dev.jnlThimble_slc (k : Nat) : (d.jnlThimble k).slc = d.slc := (congrArg Dev.slc (d.jnlThimble_restJ k) :)
@[simp] theorem Dev.jnlThimble_port (k : Nat) : (d.jnlThimble k).port = d.port := (congrArg Dev.port (d.jnlThimble_restJ k) :)
@[simp] theorem Dev.jnlThimble_can (k : Nat) : (d.jnlThimble k).can = d.can := (congrArg Dev.can (d.jnlThimble_restJ k) :)
@[simp] theorem Dev.jnlThimble_dom (k : Nat) : (d.jnlThimble k).dom = d.dom := (congrArg Dev.dom (d.jnlThimble_restJ k) :)
@[simp] theorem Dev.jnlThimble_eth (k : Nat) : (d.jnlThimble k).eth = d.eth := (congrArg Dev.eth (d.jnlThimble_restJ k) :)
@[simp] theorem Dev.jnlThimble_sfl (k : Nat) : (d.jnlThimble k).sfl = d.sfl := (congrArg Dev.sfl (d.jnlThimble_restJ k) :)
@[simp] theorem Dev.jnlThimble_spih (k : Nat) : (d.jnlThimble k).spih = d.spih := (congrArg Dev.spih (d.jnlThimble_restJ k) :)
@[simp] theorem Dev.jnlThimble_m1 (k : Nat) : (d.jnlThimble k).m1 = d.m1 := (congrArg Dev.m1 (d.jnlThimble_restJ k) :)
@[simp] theorem Dev.jnlThimble_lu (k : Nat) : (d.jnlThimble k).lu = d.lu := (congrArg Dev.lu (d.jnlThimble_restJ k) :)
@[simp] theorem Dev.jnlThimble_nfc (k : Nat) : (d.jnlThimble k).nfc = d.nfc := (congrArg Dev.nfc (d.jnlThimble_restJ k) :)
@[simp] theorem Dev.jnlThimble_flw (k : Nat) : (d.jnlThimble k).flw = d.flw := (congrArg Dev.flw (d.jnlThimble_restJ k) :)
@[simp] theorem Dev.jnlThimble_dbgTrig (k : Nat) : (d.jnlThimble k).dbgTrig = d.dbgTrig := (congrArg Dev.dbgTrig (d.jnlThimble_restJ k) :)
@[simp] theorem Dev.jnlThimble_foAt (k : Nat) (n : Nat) : (d.jnlThimble k).foAt n = d.foAt n := (congrArg (Dev.foAt · n) (d.jnlThimble_restJ k) :)
@[simp] theorem Dev.jnlThimble_gchAt (k : Nat) (n : Nat) : (d.jnlThimble k).gchAt n = d.gchAt n := (congrArg (Dev.gchAt · n) (d.jnlThimble_restJ k) :)
@[simp] theorem Dev.jnlThimble_carAt (k : Nat) (n : Nat) : (d.jnlThimble k).carAt n = d.carAt n := (congrArg (Dev.carAt · n) (d.jnlThimble_restJ k) :)
@[simp] theorem Dev.jnlThimble_cluAt (k : Nat) (n : Nat) : (d.jnlThimble k).cluAt n = d.cluAt n := (congrArg (Dev.cluAt · n) (d.jnlThimble_restJ k) :)
@[simp] theorem Dev.jnlThimble_posAt (k : Nat) (n : Nat) : (d.jnlThimble k).posAt n = d.posAt n := (congrArg (Dev.posAt · n) (d.jnlThimble_restJ k) :)
@[simp] theorem Dev.jnlThimble_tgrpAt (k : Nat) (n : Nat) : (d.jnlThimble k).tgrpAt n = d.tgrpAt n := (congrArg (Dev.tgrpAt · n) (d.jnlThimble_restJ k) :)
@[simp] theorem Dev.jnlThimble_axisAt (k : Nat) (n : Nat) : (d.jnlThimble k).axisAt n = d.axisAt n := (congrArg (Dev.axisAt · n) (d.jnlThimble_restJ k) :)
@[simp] theorem Dev.jnlThimble_connAt (k : Nat) (n : Nat) : (d.jnlThimble k).connAt n = d.connAt n := (congrArg (Dev.connAt · n) (d.jnlThimble_restJ k) :)
@[simp] theorem Dev.jnlThimble_adcAt (k : Nat) (n : Nat) : (d.jnlThimble k).adcAt n = d.adcAt n := (congrArg (Dev.adcAt · n) (d.jnlThimble_restJ k) :)
@[simp] theorem Dev.jnlThimble_auxAt (k : Nat) (n : Nat) : (d.jnlThimble k).auxAt n = d.auxAt n := (congrArg (Dev.auxAt · n) (d.jnlThimble_restJ k) :)
@[simp] theorem Dev.jnlThimble_slcAt (k : Nat) (n : Nat) : (d.jnlThimble k).slcAt n = d.slcAt n := (congrArg (Dev.slcAt · n) (d.jnlThimble_restJ k) :)
@[simp] theorem Dev.jnlThimble_portAt (k : Nat) (n : Nat) : (d.jnlThimble k).portAt n = d.portAt n := (congrArg (Dev.portAt · n) (d.jnlThimble_restJ k) :)
@[simp] theorem Dev.jnlThimble_canAt (k : Nat) (n : Nat) : (d.jnlThimble k).canAt n = d.canAt n := (congrArg (Dev.canAt · n) (d.jnlThimble_restJ k) :)
@[simp] theorem Dev.jnlThimble_luAt (k : Nat) (n : Nat) : (d.jnlThimble k).luAt n = d.luAt n := (congrArg (Dev.luAt · n) (d.jnlThimble_restJ k) :)

@[simp] theorem Dev.jnlHem_time (k : Nat) : (d.jnlHem k).time = d.time := (congrArg Dev.time (d.jnlHem_restJ k) :)
@[simp] theorem Dev.jnlHem_frac (k : Nat) : (d.jnlHem k).frac = d.frac := (congrArg Dev.frac (d.jnlHem_restJ k) :)
@[simp] theorem Dev.jnlHem_mono (k : Nat) : (d.jnlHem k).mono = d.mono := (congrArg Dev.mono (d.jnlHem_restJ k) :)
@[simp] theorem Dev.jnlHem_free (k : Nat) : (d.jnlHem k).free = d.free := (congrArg Dev.free (d.jnlHem_restJ k) :)
@[simp] theorem Dev.jnlHem_splTurn (k : Nat) : (d.jnlHem k).splTurn = d.splTurn := (congrArg Dev.splTurn (d.jnlHem_restJ k) :)
@[simp] theorem Dev.jnlHem_pwr (k : Nat) : (d.jnlHem k).pwr = d.pwr := (congrArg Dev.pwr (d.jnlHem_restJ k) :)
@[simp] theorem Dev.jnlHem_boot (k : Nat) : (d.jnlHem k).boot = d.boot := (congrArg Dev.boot (d.jnlHem_restJ k) :)
@[simp] theorem Dev.jnlHem_per (k : Nat) : (d.jnlHem k).per = d.per := (congrArg Dev.per (d.jnlHem_restJ k) :)
@[simp] theorem Dev.jnlHem_fo (k : Nat) : (d.jnlHem k).fo = d.fo := (congrArg Dev.fo (d.jnlHem_restJ k) :)
@[simp] theorem Dev.jnlHem_fio (k : Nat) : (d.jnlHem k).fio = d.fio := (congrArg Dev.fio (d.jnlHem_restJ k) :)
@[simp] theorem Dev.jnlHem_gch (k : Nat) : (d.jnlHem k).gch = d.gch := (congrArg Dev.gch (d.jnlHem_restJ k) :)
@[simp] theorem Dev.jnlHem_car (k : Nat) : (d.jnlHem k).car = d.car := (congrArg Dev.car (d.jnlHem_restJ k) :)
@[simp] theorem Dev.jnlHem_clu (k : Nat) : (d.jnlHem k).clu = d.clu := (congrArg Dev.clu (d.jnlHem_restJ k) :)
@[simp] theorem Dev.jnlHem_pos (k : Nat) : (d.jnlHem k).pos = d.pos := (congrArg Dev.pos (d.jnlHem_restJ k) :)
@[simp] theorem Dev.jnlHem_hem (k : Nat) : (d.jnlHem k).hem = d.hem := (congrArg Dev.hem (d.jnlHem_restJ k) :)
@[simp] theorem Dev.jnlHem_tgrp (k : Nat) : (d.jnlHem k).tgrp = d.tgrp := (congrArg Dev.tgrp (d.jnlHem_restJ k) :)
@[simp] theorem Dev.jnlHem_thm (k : Nat) : (d.jnlHem k).thm = d.thm := (congrArg Dev.thm (d.jnlHem_restJ k) :)
@[simp] theorem Dev.jnlHem_axis (k : Nat) : (d.jnlHem k).axis = d.axis := (congrArg Dev.axis (d.jnlHem_restJ k) :)
@[simp] theorem Dev.jnlHem_conn (k : Nat) : (d.jnlHem k).conn = d.conn := (congrArg Dev.conn (d.jnlHem_restJ k) :)
@[simp] theorem Dev.jnlHem_dtm (k : Nat) : (d.jnlHem k).dtm = d.dtm := (congrArg Dev.dtm (d.jnlHem_restJ k) :)
@[simp] theorem Dev.jnlHem_adc (k : Nat) : (d.jnlHem k).adc = d.adc := (congrArg Dev.adc (d.jnlHem_restJ k) :)
@[simp] theorem Dev.jnlHem_aux (k : Nat) : (d.jnlHem k).aux = d.aux := (congrArg Dev.aux (d.jnlHem_restJ k) :)
@[simp] theorem Dev.jnlHem_img (k : Nat) : (d.jnlHem k).img = d.img := (congrArg Dev.img (d.jnlHem_restJ k) :)
@[simp] theorem Dev.jnlHem_slc (k : Nat) : (d.jnlHem k).slc = d.slc := (congrArg Dev.slc (d.jnlHem_restJ k) :)
@[simp] theorem Dev.jnlHem_port (k : Nat) : (d.jnlHem k).port = d.port := (congrArg Dev.port (d.jnlHem_restJ k) :)
@[simp] theorem Dev.jnlHem_can (k : Nat) : (d.jnlHem k).can = d.can := (congrArg Dev.can (d.jnlHem_restJ k) :)
@[simp] theorem Dev.jnlHem_dom (k : Nat) : (d.jnlHem k).dom = d.dom := (congrArg Dev.dom (d.jnlHem_restJ k) :)
@[simp] theorem Dev.jnlHem_eth (k : Nat) : (d.jnlHem k).eth = d.eth := (congrArg Dev.eth (d.jnlHem_restJ k) :)
@[simp] theorem Dev.jnlHem_sfl (k : Nat) : (d.jnlHem k).sfl = d.sfl := (congrArg Dev.sfl (d.jnlHem_restJ k) :)
@[simp] theorem Dev.jnlHem_spih (k : Nat) : (d.jnlHem k).spih = d.spih := (congrArg Dev.spih (d.jnlHem_restJ k) :)
@[simp] theorem Dev.jnlHem_m1 (k : Nat) : (d.jnlHem k).m1 = d.m1 := (congrArg Dev.m1 (d.jnlHem_restJ k) :)
@[simp] theorem Dev.jnlHem_lu (k : Nat) : (d.jnlHem k).lu = d.lu := (congrArg Dev.lu (d.jnlHem_restJ k) :)
@[simp] theorem Dev.jnlHem_nfc (k : Nat) : (d.jnlHem k).nfc = d.nfc := (congrArg Dev.nfc (d.jnlHem_restJ k) :)
@[simp] theorem Dev.jnlHem_flw (k : Nat) : (d.jnlHem k).flw = d.flw := (congrArg Dev.flw (d.jnlHem_restJ k) :)
@[simp] theorem Dev.jnlHem_dbgTrig (k : Nat) : (d.jnlHem k).dbgTrig = d.dbgTrig := (congrArg Dev.dbgTrig (d.jnlHem_restJ k) :)
@[simp] theorem Dev.jnlHem_foAt (k : Nat) (n : Nat) : (d.jnlHem k).foAt n = d.foAt n := (congrArg (Dev.foAt · n) (d.jnlHem_restJ k) :)
@[simp] theorem Dev.jnlHem_gchAt (k : Nat) (n : Nat) : (d.jnlHem k).gchAt n = d.gchAt n := (congrArg (Dev.gchAt · n) (d.jnlHem_restJ k) :)
@[simp] theorem Dev.jnlHem_carAt (k : Nat) (n : Nat) : (d.jnlHem k).carAt n = d.carAt n := (congrArg (Dev.carAt · n) (d.jnlHem_restJ k) :)
@[simp] theorem Dev.jnlHem_cluAt (k : Nat) (n : Nat) : (d.jnlHem k).cluAt n = d.cluAt n := (congrArg (Dev.cluAt · n) (d.jnlHem_restJ k) :)
@[simp] theorem Dev.jnlHem_posAt (k : Nat) (n : Nat) : (d.jnlHem k).posAt n = d.posAt n := (congrArg (Dev.posAt · n) (d.jnlHem_restJ k) :)
@[simp] theorem Dev.jnlHem_tgrpAt (k : Nat) (n : Nat) : (d.jnlHem k).tgrpAt n = d.tgrpAt n := (congrArg (Dev.tgrpAt · n) (d.jnlHem_restJ k) :)
@[simp] theorem Dev.jnlHem_axisAt (k : Nat) (n : Nat) : (d.jnlHem k).axisAt n = d.axisAt n := (congrArg (Dev.axisAt · n) (d.jnlHem_restJ k) :)
@[simp] theorem Dev.jnlHem_connAt (k : Nat) (n : Nat) : (d.jnlHem k).connAt n = d.connAt n := (congrArg (Dev.connAt · n) (d.jnlHem_restJ k) :)
@[simp] theorem Dev.jnlHem_adcAt (k : Nat) (n : Nat) : (d.jnlHem k).adcAt n = d.adcAt n := (congrArg (Dev.adcAt · n) (d.jnlHem_restJ k) :)
@[simp] theorem Dev.jnlHem_auxAt (k : Nat) (n : Nat) : (d.jnlHem k).auxAt n = d.auxAt n := (congrArg (Dev.auxAt · n) (d.jnlHem_restJ k) :)
@[simp] theorem Dev.jnlHem_slcAt (k : Nat) (n : Nat) : (d.jnlHem k).slcAt n = d.slcAt n := (congrArg (Dev.slcAt · n) (d.jnlHem_restJ k) :)
@[simp] theorem Dev.jnlHem_portAt (k : Nat) (n : Nat) : (d.jnlHem k).portAt n = d.portAt n := (congrArg (Dev.portAt · n) (d.jnlHem_restJ k) :)
@[simp] theorem Dev.jnlHem_canAt (k : Nat) (n : Nat) : (d.jnlHem k).canAt n = d.canAt n := (congrArg (Dev.canAt · n) (d.jnlHem_restJ k) :)
@[simp] theorem Dev.jnlHem_luAt (k : Nat) (n : Nat) : (d.jnlHem k).luAt n = d.luAt n := (congrArg (Dev.luAt · n) (d.jnlHem_restJ k) :)

/-! ## The Spool channels and the pairs a raise writes -/

theorem Dev.sch_setSch_ne {c x : Nat} (v : SpoolCh) (h : x ≠ c) : (d.setSch c v).sch x = d.sch x := Tab.find_put_ne _ _ _ h

theorem Dev.splQueue_sch {c x : Nat} (r : List (BitVec 64)) (h : x ≠ c) : (d.splQueue c r).sch x = d.sch x := by
  unfold Dev.splQueue
  dsimp only
  split
  · rfl
  · exact d.sch_setSch_ne _ h

theorem Dev.splMade_sch {c x : Nat} (r : List (BitVec 64)) (h : x ≠ c) : (d.splMade c r).sch x = d.sch x := by
  unfold Dev.splMade
  dsimp only
  repeat' split
  all_goals first
    | rfl
    | exact Dev.sch_setSch_ne _ _ h
    | (rw [Dev.splQueue_sch _ _ h]; exact Dev.sch_setSch_ne _ _ h)

theorem Dev.splFeed_sch {x : Nat} (typ : Nat) (sel : Nat → Nat → Bool) (r : List (BitVec 64)) (h : 16 ≤ x) :
    (d.splFeed typ sel r).sch x = d.sch x := by
  unfold Dev.splFeed
  split
  · rfl
  · exact d.each_keeps_lt (·.sch x) 16 fun c hc e => e.when_keeps (·.sch x) (e.splMade_sch r (by omega))

theorem Dev.splStopDone_sch (x : Nat) : d.splStopDone.sch x = d.sch x := by
  unfold Dev.splStopDone
  split
  · rfl
  · dsimp only
    rw [Dev.when_keeps _ (·.sch x) (Dev.set_sch ..)]
    exact d.each_keeps (·.sch x) 16 fun c e => e.when_keeps (·.sch x) rfl

theorem Dev.splFire_sch {x : Nat} (h : 16 ≤ x) : d.splFire.sch x = d.sch x := by
  unfold Dev.splFire
  dsimp only
  rw [Dev.splStopDone_sch, Dev.each_keeps_lt _ (·.sch x) 16 fun c hc e => e.when_keeps (·.sch x)
    (by rw [Dev.sch_setSch_ne _ _ (by omega)]; rfl)]
  rfl

theorem Dev.splEvent_sch {x : Nat} (k : Nat) (h : 16 ≤ x) : (d.splEvent k).sch x = d.sch x := by
  unfold Dev.splEvent
  dsimp only
  rw [Dev.when_keeps _ (·.sch x) (?_), Dev.splFeed_sch _ _ _ _ h]
  unfold Dev.splTrigger
  split
  · exact Dev.splFire_sch _ h
  · split <;> rfl

theorem Dev.evrPend_sch (t k x : Nat) : (d.evrPend t k).sch x = d.sch x := by
  unfold Dev.evrPend Dev.evrKeep
  dsimp only
  repeat' split
  all_goals rfl

/-- Counting triggers leaves whatever the groups' records are no part of. -/
theorem Dev.trigCause_keeps {α : Type} (f : Dev → α) (h : ∀ (e : Dev) (x : List (Nat × EGrp)), f { e with egr := x } = f e)
    (k : Nat) : f (d.trigCause k) = f d := by
  unfold Dev.trigCause
  split
  · refine d.each_keeps f 8 fun g e => ?_
    dsimp only
    split
    · exact h ..
    · rfl
  · rfl

/-- It writes no group but the eight. -/
theorem Dev.trigCause_egrAt {n : Nat} (k : Nat) (h : 8 ≤ n) : (d.trigCause k).egrAt n = d.egrAt n := by
  unfold Dev.trigCause
  split
  · refine d.each_keeps_lt (·.egrAt n) 8 fun g hg e => ?_
    dsimp only
    split
    · exact Tab.find_put_ne _ _ _ (by omega)
    · rfl
  · rfl

/-- A raise writes no Spool channel but the sixteen. -/
theorem Dev.raise_sch {x : Nat} (k : Nat) (h : 16 ≤ x) : (d.raise k).sch x = d.sch x := by
  unfold Dev.raise
  dsimp only
  rw [Dev.trigCause_keeps _ (·.sch x) fun _ _ => rfl, Dev.splEvent_sch _ _ h, Dev.each_keeps _ (·.sch x) 6 fun t e => e.when_keeps (·.sch x) (e.evrPend_sch t k x)]
  rfl

theorem Dev.evrPend_pairAt {n : Nat} (t k : Nat) (h : 2 ≤ n) : (d.evrPend t k).pairAt n = d.pairAt n := by
  have hk : (d.evrKeep t k).pairAt n = d.pairAt n := by
    unfold Dev.evrKeep
    split
    · next ht => exact Tab.find_put_ne _ _ _ (by omega)
    · rfl
  unfold Dev.evrPend
  dsimp only
  split <;> exact hk

/-- A raise writes no pair but the two. -/
theorem Dev.raise_pairAt {n : Nat} (k : Nat) (h : 2 ≤ n) : (d.raise k).pairAt n = d.pairAt n := by
  unfold Dev.raise
  dsimp only
  have hs : ∀ e : Dev, (e.splEvent k).pairAt n = e.pairAt n := fun e => (congrArg (Dev.pairAt · n) (e.splEvent_restS k) :)
  rw [Dev.trigCause_keeps _ (·.pairAt n) fun _ _ => rfl, hs, Dev.each_keeps _ (·.pairAt n) 6 fun t e => e.when_keeps (·.pairAt n) (e.evrPend_pairAt t k h)]
  rfl

theorem Dev.evrPend_egrAt (t k n : Nat) : (d.evrPend t k).egrAt n = d.egrAt n := by
  unfold Dev.evrPend Dev.evrKeep
  dsimp only
  repeat' split
  all_goals rfl

/-- A raise writes no group but the eight. -/
theorem Dev.raise_egrAt {n : Nat} (k : Nat) (h : 8 ≤ n) : (d.raise k).egrAt n = d.egrAt n := by
  unfold Dev.raise
  dsimp only
  have hs : ∀ e : Dev, (e.splEvent k).egrAt n = e.egrAt n := fun e => (congrArg (Dev.egrAt · n) (e.splEvent_restS k) :)
  rw [Dev.trigCause_egrAt _ _ h, hs, Dev.each_keeps _ (·.egrAt n) 6 fun t e => e.when_keeps (·.egrAt n) (e.evrPend_egrAt t k n)]
  rfl

/-! ## The registers a raise writes -/

/-- `a` is none of the registers that a raise writes. -/
def raiseFree (a : Nat) : Prop :=
  (∀ k, k < 768 → a ≠ A_EVR_STAMP k) ∧ (∀ t j, t < 6 → j < 12 → a ≠ A_EVR_PEND t j) ∧ (∀ t, t < 6 → a ≠ A_EVR_CNT t) ∧
    (∀ c, c < 16 → a ≠ A_SPL_CHST c ∧ a ≠ A_SPL_CHCNT c) ∧ a ≠ A_SPL_STAT ∧ a ≠ A_SPL_CNT ∧ a ≠ A_SPL_TSTAMP

theorem Dev.splQueue_reg {a c : Nat} (r : List (BitVec 64)) (h : a ≠ A_SPL_CHCNT c) : (d.splQueue c r).reg a = d.reg a := by
  unfold Dev.splQueue
  dsimp only
  split
  · exact d.reg_count_ne h
  · rfl

theorem Dev.splMade_reg {a c : Nat} (r : List (BitVec 64)) (h : a ≠ A_SPL_CHCNT c) : (d.splMade c r).reg a = d.reg a := by
  unfold Dev.splMade
  dsimp only
  repeat' split
  all_goals first | rfl | (rw [Dev.splQueue_reg _ _ h]; rfl)

theorem Dev.splFeed_reg {a : Nat} (typ : Nat) (sel : Nat → Nat → Bool) (r : List (BitVec 64))
    (h : ∀ c, c < 16 → a ≠ A_SPL_CHCNT c) : (d.splFeed typ sel r).reg a = d.reg a := by
  unfold Dev.splFeed
  split
  · rfl
  · exact d.each_keeps_lt (·.reg a) 16 fun c hc e => e.when_keeps (·.reg a) (e.splMade_reg r (h c hc))

theorem Dev.splStopDone_reg {a : Nat} (h : a ≠ A_SPL_STAT) : d.splStopDone.reg a = d.reg a := by
  unfold Dev.splStopDone
  split
  · rfl
  · dsimp only
    rw [Dev.when_keeps _ (·.reg a) (Dev.reg_set_ne _ _ h)]
    exact d.each_keeps (·.reg a) 16 fun c e => e.when_keeps (·.reg a) (Dev.reg_setBits_ne _ _ h)

theorem Dev.splFire_reg {a : Nat} (h : a ≠ A_SPL_STAT) (ht : a ≠ A_SPL_TSTAMP) (hc : ∀ c, c < 16 → a ≠ A_SPL_CHST c) :
    d.splFire.reg a = d.reg a := by
  unfold Dev.splFire
  dsimp only
  rw [Dev.splStopDone_reg _ h, Dev.each_keeps_lt _ (·.reg a) 16 fun c hlt e => e.when_keeps (·.reg a)
      (by rw [Dev.setSch_reg]; exact Dev.reg_set_ne _ _ (hc c hlt)),
    Dev.reg_setReg_ne _ _ ht, Dev.reg_set_ne _ _ h, Dev.reg_set_ne _ _ h, Dev.reg_set_ne _ _ h]

theorem Dev.splEvent_reg {a : Nat} (k : Nat) (h : raiseFree a) : (d.splEvent k).reg a = d.reg a := by
  obtain ⟨-, -, -, hc, hs, hn, ht⟩ := h
  unfold Dev.splEvent
  dsimp only
  rw [Dev.when_keeps _ (·.reg a) (?_), Dev.splFeed_reg _ _ _ _ fun c h => (hc c h).2]
  unfold Dev.splTrigger
  split
  · exact Dev.splFire_reg _ hs ht fun c h => (hc c h).1
  · split
    · exact Dev.reg_count_ne _ hn
    · rfl

theorem Dev.evrKeep_reg (a t k : Nat) : (d.evrKeep t k).reg a = d.reg a := by
  unfold Dev.evrKeep; split <;> rfl

theorem Dev.evrPend_reg {a t k : Nat} (ht : t < 6) (hk : k < 768) (h : raiseFree a) : (d.evrPend t k).reg a = d.reg a := by
  obtain ⟨-, hp, hn, -⟩ := h
  unfold Dev.evrPend
  dsimp only
  split
  · rw [Dev.reg_count_ne _ (hn t ht), Dev.evrKeep_reg]
  · rw [Dev.reg_set_ne _ _ (hp t (k / 64) ht (by omega)), Dev.evrKeep_reg]

/-- A raise leaves every other register alone (R430, R234). -/
theorem Dev.raise_reg {a k : Nat} (hk : k < 768) (h : raiseFree a) : (d.raise k).reg a = d.reg a := by
  unfold Dev.raise
  dsimp only
  rw [Dev.trigCause_keeps _ (·.reg a) fun _ _ => rfl, Dev.splEvent_reg _ _ h, Dev.each_keeps_lt _ (·.reg a) 6 fun t ht e => e.when_keeps (·.reg a) (e.evrPend_reg ht hk h),
    Dev.reg_setReg_ne _ _ (h.1 k hk)]

/-- A raise stamps its source with the time (R429). -/
theorem Dev.raise_stamp {k : Nat} (hk : k < 768) : (d.raise k).reg (A_EVR_STAMP k) = BitVec.ofNat 64 d.time := by
  have hp : ∀ t j, t < 6 → j < 12 → A_EVR_STAMP k ≠ A_EVR_PEND t j := by intro t j ht hj; simp only [A_EVR_STAMP, A_EVR_PEND]; omega
  have hn : ∀ t, t < 6 → A_EVR_STAMP k ≠ A_EVR_CNT t := by intro t ht; simp only [A_EVR_STAMP, A_EVR_CNT]; omega
  have hc : ∀ c, c < 16 → A_EVR_STAMP k ≠ A_SPL_CHST c ∧ A_EVR_STAMP k ≠ A_SPL_CHCNT c := by
    intro c hc; simp only [A_EVR_STAMP, A_SPL_CHST, A_SPL_CHCNT]; omega
  have hs : A_EVR_STAMP k ≠ A_SPL_STAT ∧ A_EVR_STAMP k ≠ A_SPL_CNT ∧ A_EVR_STAMP k ≠ A_SPL_TSTAMP := by
    simp only [A_EVR_STAMP, A_SPL_STAT, A_SPL_CNT, A_SPL_TSTAMP]; omega
  have hpend : ∀ t, t < 6 → ∀ e : Dev, (e.evrPend t k).reg (A_EVR_STAMP k) = e.reg (A_EVR_STAMP k) := by
    intro t ht e
    unfold Dev.evrPend
    dsimp only
    split
    · rw [Dev.reg_count_ne _ (hn t ht), Dev.evrKeep_reg]
    · rw [Dev.reg_set_ne _ _ (hp t (k / 64) ht (by omega)), Dev.evrKeep_reg]
  have hspl : ∀ e : Dev, (e.splEvent k).reg (A_EVR_STAMP k) = e.reg (A_EVR_STAMP k) := by
    intro e
    unfold Dev.splEvent
    dsimp only
    rw [Dev.when_keeps _ (·.reg (A_EVR_STAMP k)) (?_), Dev.splFeed_reg _ _ _ _ fun c h => (hc c h).2]
    unfold Dev.splTrigger
    split
    · exact Dev.splFire_reg _ hs.1 hs.2.2 fun c h => (hc c h).1
    · split
      · exact Dev.reg_count_ne _ hs.2.1
      · rfl
  unfold Dev.raise
  dsimp only
  rw [Dev.trigCause_keeps _ (·.reg (A_EVR_STAMP k)) fun _ _ => rfl, hspl, Dev.each_keeps_lt _ (·.reg (A_EVR_STAMP k)) 6 fun t ht e => e.when_keeps (·.reg (A_EVR_STAMP k)) (hpend t ht e),
    Dev.reg_setReg_same]

end Sys2Proof.Machine
end

