-- ==== Sys2Proof/Laws/Frame.lean ====
section
/-!
SUPPORT. Laws/Frame.lean: `Leaves` composes: nothing changes from a state to itself, two changes one after the other change what
either may, and each named operation changes its own part only.
-/
set_option Elab.async false

namespace Sys2Proof.Machine

theorem Part.same_refl (s : State) (p : Part) : p.same s s := by
  cases p <;> first | exact rfl | exact ⟨rfl, rfl⟩

theorem Part.same_trans {s t u : State} {p : Part} (h : p.same s t) (h' : p.same t u) : p.same s u := by
  cases p <;> first | exact Eq.trans h' h | exact ⟨h'.1.trans h.1, h'.2.trans h.2⟩

theorem Leaves.refl (ps : List (List Part)) (s : State) : Leaves ps s s := fun p _ => p.same_refl s

theorem Leaves.trans {ps : List (List Part)} {s t u : State} (h : Leaves ps s t) (h' : Leaves ps t u) : Leaves ps s u :=
  fun p hp => Part.same_trans (h p hp) (h' p hp)

theorem Leaves.mono {ps qs : List (List Part)} {s t : State} (h : Leaves ps s t) (hq : ∀ p ∈ ps.flatten, p ∈ qs.flatten) :
    Leaves qs s t := fun p hp => h p fun hps => hp (hq p hps)

/-- A write of register `a` changes register `a` only. -/
theorem leaves_setReg {ps : List (List Part)} {s : State} {a : Nat} (v : BitVec 64) (h : Part.reg a ∈ ps.flatten) :
    Leaves ps s { s with dev := s.dev.setReg a v } := by
  intro p hp
  cases p <;> first | exact rfl | exact ⟨rfl, rfl⟩ | skip
  rename_i b
  exact Dev.reg_setReg_ne _ _ fun e => hp (e ▸ h)

/-- A write of a field changes its register only. -/
theorem leaves_set {ps : List (List Part)} {s : State} {f : Fld} (v : Nat) (h : Part.reg f.addr ∈ ps.flatten) :
    Leaves ps s { s with dev := s.dev.set f v } := leaves_setReg _ h

theorem leaves_setI {ps : List (List Part)} {s : State} {f : Fld} (v : Int) (h : Part.reg f.addr ∈ ps.flatten) :
    Leaves ps s { s with dev := s.dev.setI f v } := leaves_setReg _ h

theorem leaves_setB {ps : List (List Part)} {s : State} {f : Fld} (b : Bool) (h : Part.reg f.addr ∈ ps.flatten) :
    Leaves ps s { s with dev := s.dev.setB f b } := leaves_setReg _ h

theorem leaves_setBits {ps : List (List Part)} {s : State} {f : Fld} (v : Nat) (h : Part.reg f.addr ∈ ps.flatten) :
    Leaves ps s { s with dev := s.dev.setBits f v } := leaves_setReg _ h

theorem leaves_clrBits {ps : List (List Part)} {s : State} {f : Fld} (v : Nat) (h : Part.reg f.addr ∈ ps.flatten) :
    Leaves ps s { s with dev := s.dev.clrBits f v } := leaves_setReg _ h

theorem leaves_add {ps : List (List Part)} {s : State} {f : Fld} (n : Nat) (h : Part.reg f.addr ∈ ps.flatten) :
    Leaves ps s { s with dev := s.dev.add f n } := leaves_setReg _ h

theorem leaves_count {ps : List (List Part)} {s : State} {f : Fld} (h : Part.reg f.addr ∈ ps.flatten) :
    Leaves ps s { s with dev := s.dev.count f } := leaves_setReg _ h

theorem leaves_when {ps : List (List Part)} {s : State} {c : Bool} {f : Dev → Dev}
    (h : Leaves ps s { s with dev := f s.dev }) : Leaves ps s { s with dev := s.dev.when c f } := by
  cases c
  · exact Leaves.refl ps s
  · exact h

/-- What every pass may change, `each` may change. -/
theorem leaves_each {ps : List (List Part)} {s : State} {f : Nat → Dev → Dev} (n : Nat)
    (h : ∀ i, i < n → ∀ e, Leaves ps { s with dev := e } { s with dev := f i e }) :
    Leaves ps s { s with dev := s.dev.each n f } := by
  have key : ∀ (l : List Nat), (∀ i ∈ l, i < n) → ∀ e : Dev,
      Leaves ps { s with dev := e } { s with dev := l.foldl (fun e i => f i e) e } := by
    intro l
    induction l with
    | nil => intro _ e; exact Leaves.refl ps _
    | cons i l ih =>
      intro hl e
      exact (h i (hl i (List.mem_cons_self ..)) e).trans (ih (fun j hj => hl j (List.mem_cons_of_mem _ hj)) (f i e))
  exact key (List.range n) (fun i hi => List.mem_range.mp hi) s.dev

/-- A store changes the stored bytes only. -/
theorem leaves_wrLE {ps : List (List Part)} {s : State} (a n v : Nat) (h : ∀ i, i < n → Part.mem (a + i) ∈ ps.flatten) :
    Leaves ps s { s with mem := wrLE s.mem a n v } := by
  intro p hp
  cases p <;> first | exact rfl | exact ⟨rfl, rfl⟩ | skip
  rename_i b
  refine rd8_wrLE_out n _ _ _ ?_
  rcases Nat.lt_or_ge b a with hb | hb
  · exact Or.inl hb
  · refine Or.inr (Nat.le_of_not_lt fun hlt => hp ?_)
    have := h (b - a) (by omega)
    rwa [Nat.add_sub_cancel' hb] at this

theorem leaves_wrBytes {ps : List (List Part)} {s : State} (a : Nat) (l : List (BitVec 8))
    (h : ∀ i, i < l.length → Part.mem (a + i) ∈ ps.flatten) : Leaves ps s { s with mem := wrBytes s.mem a l } := by
  intro p hp
  cases p <;> first | exact rfl | exact ⟨rfl, rfl⟩ | skip
  rename_i b
  refine rd8_wrBytes_out l _ _ ?_
  rcases Nat.lt_or_ge b a with hb | hb
  · exact Or.inl hb
  · refine Or.inr (Nat.le_of_not_lt fun hlt => hp ?_)
    have := h (b - a) (by omega)
    rwa [Nat.add_sub_cancel' hb] at this

/-- Register `a` is among the first `n` of a family. -/
theorem mem_regs {f : Nat → Nat} {n i : Nat} (h : i < n) : Part.reg (f i) ∈ regs f n :=
  List.mem_map.mpr ⟨i, List.mem_range.mpr h, rfl⟩

theorem mem_regs2 {f : Nat → Nat → Nat} {n m i j : Nat} (hi : i < n) (hj : j < m) : Part.reg (f i j) ∈ regs2 f n m :=
  List.mem_flatMap.mpr ⟨i, List.mem_range.mpr hi, mem_regs hj⟩

theorem mem_bytes {a n i : Nat} (h : i < n) : Part.mem (a + i) ∈ bytes a n := List.mem_map.mpr ⟨i, List.mem_range.mpr h, rfl⟩

theorem mem_all {k : Nat → Part} {n i : Nat} (h : i < n) : k i ∈ all k n := List.mem_map.mpr ⟨i, List.mem_range.mpr h, rfl⟩

/-- A register outside `raises` is none of those a raise writes. -/
theorem raiseFree_of_not_mem {a : Nat} (h : Part.reg a ∉ raises) : raiseFree a := by
  simp only [raises, List.mem_append, not_or] at h
  obtain ⟨⟨⟨⟨⟨⟨⟨⟨⟨h1, h2⟩, h3⟩, h4⟩, h5⟩, h6⟩, _⟩, _⟩, _⟩, _⟩ := h
  simp only [List.mem_cons, Part.reg.injEq, List.not_mem_nil, or_false, not_or] at h4
  exact ⟨fun k hk e => h1 (e ▸ mem_regs hk), fun t j ht hj e => h2 (e ▸ mem_regs2 ht hj), fun t ht e => h3 (e ▸ mem_regs ht),
    fun c hc => ⟨fun e => h5 (e ▸ mem_regs hc), fun e => h6 (e ▸ mem_regs hc)⟩, h4.1, h4.2.1, h4.2.2⟩

theorem leaves_foUpd {ps : List (List Part)} {s : State} {n : Nat} (g : Fo → Fo) (h : Part.fo n ∈ ps.flatten) :
    Leaves ps s { s with dev := s.dev.foUpd n g } := by
  intro p hp
  cases p <;> first | exact rfl | exact ⟨rfl, rfl⟩ | skip
  exact Dev.foAt_foUpd_ne _ _ fun e => hp (e ▸ h)

theorem leaves_gchUpd {ps : List (List Part)} {s : State} {n : Nat} (g : Gch → Gch) (h : Part.gch n ∈ ps.flatten) :
    Leaves ps s { s with dev := s.dev.gchUpd n g } := by
  intro p hp
  cases p <;> first | exact rfl | exact ⟨rfl, rfl⟩ | skip
  exact Dev.gchAt_gchUpd_ne _ _ fun e => hp (e ▸ h)

theorem leaves_carUpd {ps : List (List Part)} {s : State} {n : Nat} (g : Car → Car) (h : Part.car n ∈ ps.flatten) :
    Leaves ps s { s with dev := s.dev.carUpd n g } := by
  intro p hp
  cases p <;> first | exact rfl | exact ⟨rfl, rfl⟩ | skip
  exact Dev.carAt_carUpd_ne _ _ fun e => hp (e ▸ h)

theorem leaves_cluUpd {ps : List (List Part)} {s : State} {n : Nat} (g : Clu → Clu) (h : Part.clu n ∈ ps.flatten) :
    Leaves ps s { s with dev := s.dev.cluUpd n g } := by
  intro p hp
  cases p <;> first | exact rfl | exact ⟨rfl, rfl⟩ | skip
  exact Dev.cluAt_cluUpd_ne _ _ fun e => hp (e ▸ h)

theorem leaves_posUpd {ps : List (List Part)} {s : State} {n : Nat} (g : Pos → Pos) (h : Part.pos n ∈ ps.flatten) :
    Leaves ps s { s with dev := s.dev.posUpd n g } := by
  intro p hp
  cases p <;> first | exact rfl | exact ⟨rfl, rfl⟩ | skip
  exact Dev.posAt_posUpd_ne _ _ fun e => hp (e ▸ h)

theorem leaves_pairUpd {ps : List (List Part)} {s : State} {n : Nat} (g : Pair → Pair) (h : Part.pair n ∈ ps.flatten) :
    Leaves ps s { s with dev := s.dev.pairUpd n g } := by
  intro p hp
  cases p <;> first | exact rfl | exact ⟨rfl, rfl⟩ | skip
  exact Dev.pairAt_pairUpd_ne _ _ fun e => hp (e ▸ h)

theorem leaves_tgrpUpd {ps : List (List Part)} {s : State} {n : Nat} (g : ThmGrp → ThmGrp) (h : Part.tgrp n ∈ ps.flatten) :
    Leaves ps s { s with dev := s.dev.tgrpUpd n g } := by
  intro p hp
  cases p <;> first | exact rfl | exact ⟨rfl, rfl⟩ | skip
  exact Dev.tgrpAt_tgrpUpd_ne _ _ fun e => hp (e ▸ h)

theorem leaves_axisUpd {ps : List (List Part)} {s : State} {n : Nat} (g : Axis → Axis) (h : Part.axis n ∈ ps.flatten) :
    Leaves ps s { s with dev := s.dev.axisUpd n g } := by
  intro p hp
  cases p <;> first | exact rfl | exact ⟨rfl, rfl⟩ | skip
  exact Dev.axisAt_axisUpd_ne _ _ fun e => hp (e ▸ h)

theorem leaves_connUpd {ps : List (List Part)} {s : State} {n : Nat} (g : Conn → Conn) (h : Part.conn n ∈ ps.flatten) :
    Leaves ps s { s with dev := s.dev.connUpd n g } := by
  intro p hp
  cases p <;> first | exact rfl | exact ⟨rfl, rfl⟩ | skip
  exact Dev.connAt_connUpd_ne _ _ fun e => hp (e ▸ h)

theorem leaves_adcUpd {ps : List (List Part)} {s : State} {n : Nat} (g : Adc → Adc) (h : Part.adc n ∈ ps.flatten) :
    Leaves ps s { s with dev := s.dev.adcUpd n g } := by
  intro p hp
  cases p <;> first | exact rfl | exact ⟨rfl, rfl⟩ | skip
  exact Dev.adcAt_adcUpd_ne _ _ fun e => hp (e ▸ h)

theorem leaves_auxUpd {ps : List (List Part)} {s : State} {n : Nat} (g : Aux → Aux) (h : Part.aux n ∈ ps.flatten) :
    Leaves ps s { s with dev := s.dev.auxUpd n g } := by
  intro p hp
  cases p <;> first | exact rfl | exact ⟨rfl, rfl⟩ | skip
  exact Dev.auxAt_auxUpd_ne _ _ fun e => hp (e ▸ h)

theorem leaves_slcUpd {ps : List (List Part)} {s : State} {n : Nat} (g : Slice → Slice) (h : Part.slc n ∈ ps.flatten) :
    Leaves ps s { s with dev := s.dev.slcUpd n g } := by
  intro p hp
  cases p <;> first | exact rfl | exact ⟨rfl, rfl⟩ | skip
  exact Dev.slcAt_slcUpd_ne _ _ fun e => hp (e ▸ h)

theorem leaves_egrUpd {ps : List (List Part)} {s : State} {n : Nat} (g : EGrp → EGrp) (h : Part.egr n ∈ ps.flatten) :
    Leaves ps s { s with dev := s.dev.egrUpd n g } := by
  intro p hp
  cases p <;> first | exact rfl | exact ⟨rfl, rfl⟩ | skip
  exact Dev.egrAt_egrUpd_ne _ _ fun e => hp (e ▸ h)

theorem leaves_portUpd {ps : List (List Part)} {s : State} {n : Nat} (g : Port → Port) (h : Part.port n ∈ ps.flatten) :
    Leaves ps s { s with dev := s.dev.portUpd n g } := by
  intro p hp
  cases p <;> first | exact rfl | exact ⟨rfl, rfl⟩ | skip
  exact Dev.portAt_portUpd_ne _ _ fun e => hp (e ▸ h)

theorem leaves_canUpd {ps : List (List Part)} {s : State} {n : Nat} (g : Can → Can) (h : Part.can n ∈ ps.flatten) :
    Leaves ps s { s with dev := s.dev.canUpd n g } := by
  intro p hp
  cases p <;> first | exact rfl | exact ⟨rfl, rfl⟩ | skip
  exact Dev.canAt_canUpd_ne _ _ fun e => hp (e ▸ h)

theorem leaves_luUpd {ps : List (List Part)} {s : State} {n : Nat} (g : Lu → Lu) (h : Part.lu n ∈ ps.flatten) :
    Leaves ps s { s with dev := s.dev.luUpd n g } := by
  intro p hp
  cases p <;> first | exact rfl | exact ⟨rfl, rfl⟩ | skip
  exact Dev.luAt_luUpd_ne _ _ fun e => hp (e ▸ h)

/-- A raise changes what `raises` lists. -/
theorem leaves_raise {ps : List (List Part)} {s : State} {k : Nat} (hk : k < 768) (h : ∀ p ∈ raises, p ∈ ps.flatten) :
    Leaves ps s { s with dev := s.dev.raise k } := by
  intro p hp
  have hr : p ∉ raises := fun e => hp (h p e)
  cases p
  case reg a => exact Dev.raise_reg _ hk (raiseFree_of_not_mem hr)
  case spool c =>
    refine Dev.raise_sch _ _ (Nat.le_of_not_lt fun hc => hr ?_)
    simp only [raises, List.mem_append]
    exact Or.inl (Or.inl (Or.inr (mem_all hc)))
  case pair n =>
    refine Dev.raise_pairAt _ _ (Nat.le_of_not_lt fun hn => hr ?_)
    simp only [raises, List.mem_append]
    exact Or.inl (Or.inr (mem_all hn))
  case egr n =>
    refine Dev.raise_egrAt _ _ (Nat.le_of_not_lt fun hn => hr ?_)
    simp only [raises, List.mem_append]
    exact Or.inr (mem_all hn)
  case time => exact ⟨Dev.raise_time .., Dev.raise_frac ..⟩
  case fo n => exact Dev.raise_foAt ..
  case gch n => exact Dev.raise_gchAt ..
  case car n => exact Dev.raise_carAt ..
  case clu n => exact Dev.raise_cluAt ..
  case pos n => exact Dev.raise_posAt ..
  case tgrp n => exact Dev.raise_tgrpAt ..
  case axis n => exact Dev.raise_axisAt ..
  case conn n => exact Dev.raise_connAt ..
  case adc n => exact Dev.raise_adcAt ..
  case aux n => exact Dev.raise_auxAt ..
  case slc n => exact Dev.raise_slcAt ..
  case port n => exact Dev.raise_portAt ..
  case can n => exact Dev.raise_canAt ..
  case lu n => exact Dev.raise_luAt ..
  all_goals first | exact rfl | exact (congrArg Dev.mono (s.dev.raise_rest k) :) | simp only [Part.same, Dev.raise_lims,
    Dev.raise_dbgTrig, Dev.raise_free, Dev.raise_splTurn, Dev.raise_jnl, Dev.raise_pwr, Dev.raise_boot, Dev.raise_per,
    Dev.raise_fio, Dev.raise_hem, Dev.raise_thm, Dev.raise_dtm, Dev.raise_img, Dev.raise_dom, Dev.raise_eth, Dev.raise_sfl,
    Dev.raise_spih, Dev.raise_m0, Dev.raise_refOut, Dev.raise_dbg, Dev.raise_m1, Dev.raise_nfc, Dev.raise_flw]

end Sys2Proof.Machine
end

