-- ==== Sys2Proof/WellFormed.lean ====
section
/-!
DEFINITION. WellFormed.lean: which commands are well formed: the operands that a type wider than the hardware's own lets
through. A meaning gives an ill-formed command the effect of the nearest well-formed one; nothing depends on the check.
-/
namespace Sys2Proof

/-- A value fits an access of width `w` (R9). -/
def Width.fits (w : Width) (v : BitVec 64) : Bool := v.toNat < 2 ^ (8 * w.bytes)

/-- The data lengths of the three frame formats (R347, R355). -/
def CanFrame.lengthOk (f : CanFrame) : Bool :=
  if f.fmt = 0 then f.data.length ≤ 8
  else if f.fmt = 1 then [0, 1, 2, 3, 4, 5, 6, 7, 8, 12, 16, 20, 24, 32, 48, 64].contains f.data.length
  else 1 ≤ f.data.length && f.data.length ≤ 2048

/-- An 11-bit identifier stands in [28:18] (R355). -/
def CanFrame.idOk (f : CanFrame) : Bool := (f.ide && f.fmt ≠ 2) || f.id.toNat % 2 ^ 18 = 0

/-- The fields of XL frames are 0 in the other formats (R355). -/
def CanFrame.xlOk (f : CanFrame) : Bool := f.fmt = 2 || (f.af = 0 && f.vcid = 0 && f.sdt = 0 && !f.sec)

/-- A frame that its format can carry. -/
def CanFrame.wf (f : CanFrame) : Bool := f.lengthOk && f.idOk && f.xlOk

/-- The 14 decisions of a converter's stages are 0, +1 or −1: no pair of bits is 3 (R94). -/
def decisionsOk (k : BitVec 28) : Bool := (List.range 14).all fun j => k.toNat / 4 ^ j % 4 ≠ 3

/-- The end of a LIN frame carries one to eight data bytes (R412). -/
def LinEnd.wf : LinEnd → Bool
  | .done data _ => 1 ≤ data.length && data.length ≤ 8
  | .bitError => true

/-- A debug write fits its width. -/
def DbgCmd.wf : DbgCmd → Bool
  | .busWrite _ w v => w.fits v
  | _ => true

/-- The command is one that the module's environment can send. -/
def Instr.wf : Instr → Bool
  | .registerWrite _ _ w v => w.fits v
  | .spoolMemoryWrite _ w v => w.fits v
  | .privateStore _ _ w v => w.fits v
  | .debugCommand c => c.wf
  | .sampleRecord _ (.stages k _) => decisionsOk k
  | .slotFirstAperture _ _ (.stages k _) => decisionsOk k
  | .calibrationEnd _ w _ _ => w.length = 14
  | .auxEntryDone _ uv => 1 ≤ uv.length
  | .canFrameReceived _ f _ => f.wf
  | .uartByteReceived _ _ _ st => st.2.length ≤ 3
  | .linFrameEnd _ e => e.wf
  | .illegalInstruction _ w => w.toNat % 128 = 0x0B
  | .tagInventory len mask => len.toNat ≤ 64 && mask.toNat < 2 ^ len.toNat
  | _ => true

end Sys2Proof
end

