-- ==== Sys2Proof/Tests/Slice0.lean ====
section
/-!
SUPPORT. Tests/Slice0.lean: ill-formed commands that the check refuses, single steps checked against the spec's tables and
worked examples, and for every statement with hypotheses a witness that meets them.
-/

set_option Elab.async false
set_option linter.unusedVariables false

namespace Sys2Proof.Machine.Test

/-- A device in which firmware runs and every PLL is LOCKED, else as after reset, with the fields of a list written. -/
def dev (l : List (Fld × Nat)) : Dev :=
  l.foldl (fun d e => d.set e.1 e.2)
    { ((({} : Dev).set SYS_CLKSTAT_PLLA_ST 2).set SYS_CLKSTAT_PLLB_ST 2).set SYS_CLKSTAT_PLLC_ST 2 with boot := { stage := 7 } }

/-- A state with such a device. -/
def st (l : List (Fld × Nat)) : State := { dev := dev l }

/-- One directory entry: a section of type `t` with no bytes at 0x1000 (R62). -/
def sect (t : Nat) : List (BitVec 8) := bytesLE 2 t ++ bytesLE 2 0 ++ bytesLE 4 0x1000 ++ List.replicate 24 0

/-- A header and directory that pass the checks of R60 to R63, image length 0x2000. -/
def imageBytes : List (BitVec 8) :=
  bytesLE 4 0x54534142 ++ bytesLE 2 1 ++ bytesLE 2 0 ++ bytesLE 4 0x6612 ++ [0x41, 0x54, 0, 0] ++ bytesLE 8 3 ++
    List.replicate 8 0 ++ bytesLE 4 1 ++ bytesLE 4 0x2000 ++ [4, 0] ++ List.replicate 214 0 ++
    sect 1 ++ sect 2 ++ sect 4 ++ sect 8

/-- The public key of a test signature. -/
def keyBytes : List (BitVec 8) :=
  bytesBE 32 0x5a70f3c9ddd1c7d7743c709a5df95567565e51f5af5b81f7b38d244659df07b ++
    bytesBE 32 0xa75d3987f6d9c85feb1782471dbdc5991330bfba054efa668ce2e2e5ad176bab

/-- The test image in slot A of the flash: header and directory, and at 0x2000 the signature block over the digest 0. -/
def image : List Host.Cell :=
  ((List.range 384).map fun i => (i, imageBytes.getD i 0)) ++
    ((List.range 128).map fun i => (0x2000 + i, (keyBytes ++ bytesBE 32 5 ++ bytesBE 32 1).getD i 0))

/-- A key store whose slot 0 holds the digest of the test key. -/
def keys : List (Nat × KeySlot) :=
  [(0, { programmed := true, digest := 0x8241e70957cf4162baa5ac663088f503109385dec46669733721cd1b59ec0cc2 })]

/-- A type 2 section that names every committed register once (R338), ASC_ON above ASC_OFF, BRK_ON 50 V above BRK_OFF. -/
def safeBody : List (BitVec 8) :=
  safeRegs.flatMap fun e => bytesLE 8 e.1 ++
    bytesLE 8 (if e.1 = A_THM_ASC 0 ∨ e.1 = A_THM_ASC 1 then 2 ^ 48 else if e.1 = A_GCH_BRK then 850 * 2 ^ 48 + 800 * 2 ^ 32 else 0)

/-- A type 8 section that names every committed register once (R338), FLOW_FMIN 10. -/
def hemBody : List (BitVec 8) := hemRegs.flatMap fun e => bytesLE 8 e.1 ++ bytesLE 8 (if e.1 = A_HEM_DERCFG then 10 * 2 ^ 24 else 0)

/-- The bytes of the type 2 section: its records, and a signature block made outside Lean for a key at hand. -/
def setL2 : List (BitVec 8) :=
  safeBody ++ bytesBE 32 0x8df597c7fa6b455fe455fdb7c3ca0af548e8ac560a36d917cce1ac997d796395 ++
    bytesBE 32 0xde1ddba2a00ef8ceb12d504b0f14a42824a737d344fb116d5ed5a36668e5b2ca ++
    bytesBE 32 0xf13558f70ba7ab9f87d328885ef198874cb14e03fb3dbfc40310a682e31c6080 ++
    bytesBE 32 0xf13558f70ba7ab9f87d328885ef198874cb14e03fb3dbfc40310a682e31c6080

/-- The cells that hold the bytes `l` from address `a` on. -/
def cells (a : Nat) : List (BitVec 8) → List Host.Cell
  | [] => []
  | b :: t => (a, b) :: cells (a + 1) t

/-- A flash whose slot A holds the two sections. -/
def setFlash : List Host.Cell := cells 0x1000 setL2 ++ cells 0x2000 hemBody

/-- The key slot of that set's signer. -/
def setKey : KeySlot :=
  { programmed := true, safety := true, digest := 0xd2a23db0d85730409ce0ffd35adfdca6f6fbc31141a3b47192727187d3a856c6 }

/-- The two directory entries of that set. -/
def setSects : List Sect := [{ typ := 2, off := 0x1000, len := 320 }, { typ := 8, off := 0x2000, len := 144 }]

/-- A device that may install that set: the unlock open and the safety role's key known. -/
def setDev : Dev :=
  { dev [(THM_STAT_STATE, 1), (THM_STAT_SAFE_UNLOCK, 1), (SYS_IMGSTAT_SLOT, 0)] with
    boot := { stage := 7, runSects := setSects }, per := { keys := [(4, setKey)] } }

/-- The state of that device, with the bytes of the two sections. -/
def setState : State := { flash := setFlash, dev := setDev }

theorem cells_lt (a n : Nat) (l : List (BitVec 8)) (h : a + l.length ≤ n) : ∀ e ∈ cells a l, e.1 < n := by
  induction l generalizing a with
  | nil => simp [cells]
  | cons b l ih =>
    simp only [List.length_cons] at h
    simp only [cells, List.mem_cons, forall_eq_or_imp]
    exact ⟨by omega, ih (a + 1) (by omega)⟩

theorem flash8_pre (pre : List Host.Cell) (a : Nat) (b : BitVec 8) (t : List Host.Cell) (h : ∀ e ∈ pre, e.1 < a) :
    flash8 (pre ++ (a, b) :: t) a = b := by
  induction pre with
  | nil => simp [flash8, Tab.find]
  | cons e pre ih =>
    obtain ⟨k, v⟩ := e
    have h1 : k < a := h (k, v) (by simp)
    have := ih (fun e he => h e (by simp [he]))
    simpa [flash8, Tab.find, Nat.ne_of_lt h1] using this

/-- Reading back the bytes that cells hold gives them. -/
theorem flashBytes_cells (pre : List Host.Cell) (a : Nat) (l : List (BitVec 8)) (t : List Host.Cell)
    (h : ∀ e ∈ pre, e.1 < a) : flashBytes (pre ++ (cells a l ++ t)) a l.length = l := by
  induction l generalizing a pre with
  | nil => rfl
  | cons b l ih =>
    have h' : ∀ e ∈ pre ++ [(a, b)], e.1 < a + 1 := by
      intro e he
      rcases List.mem_append.mp he with he | he
      · have := h e he; omega
      · simp only [List.mem_singleton] at he; subst he; exact Nat.lt_succ_self a
    have := ih (pre ++ [(a, b)]) (a + 1) h'
    simp only [cells, List.length_cons, flashBytes, List.cons_append, List.cons.injEq]
    refine ⟨flash8_pre pre a b _ h, ?_⟩
    simpa [List.append_assoc] using this

theorem setL2_length : setL2.length = 320 := by decide +kernel

theorem hemBody_length : hemBody.length = 144 := by decide +kernel

theorem setState_section2 : setState.section_ 2 = some setL2 := by
  have h : setState.section_ 2 = some (flashBytes setFlash 0x1000 320) := rfl
  rw [h, ← setL2_length]
  exact congrArg some (flashBytes_cells [] 0x1000 setL2 _ (by simp))

theorem setState_section8 : setState.section_ 8 = some hemBody := by
  have h : setState.section_ 8 = some (flashBytes setFlash 0x2000 144) := rfl
  rw [h, ← hemBody_length, setFlash]
  have := flashBytes_cells (cells 0x1000 setL2) 0x2000 hemBody []
    (cells_lt 0x1000 0x2000 setL2 (by rw [setL2_length]; decide))
  simpa using congrArg some this

end Sys2Proof.Machine.Test

/-! ## Ill-formed commands -/

namespace Sys2Proof

theorem test_wf_width : (Instr.registerWrite .host 0x40000000 .w8 256).wf = false ∧
    (Instr.registerWrite .host 0x40000000 .w8 255).wf = true := by decide
theorem test_wf_spool_width : (Instr.spoolMemoryWrite 0x30000000 .w32 (2 ^ 32)).wf = false := by decide
theorem test_wf_private_width : (Instr.privateStore 1 0x10000000 .w16 0x10000).wf = false := by decide
theorem test_wf_debug_width : (Instr.debugCommand (.busWrite 0x10000000 .w8 256)).wf = false := by decide
theorem test_wf_sample_decision : (Instr.sampleRecord 7 (.stages 0xC 0)).wf = false := by decide
theorem test_wf_aperture_decision : (Instr.slotFirstAperture 7 1 (.stages 0xC000000 0)).wf = false := by decide
theorem test_wf_weights : (Instr.calibrationEnd 0 (List.replicate 13 0) 0 0).wf = false := by decide
theorem test_wf_aux : (Instr.auxEntryDone 0 []).wf = false := by decide
theorem test_wf_can_length : (Instr.canFrameReceived 0 { data := List.replicate 9 0 } 0).wf = false := by decide
theorem test_wf_can_fd_length : (Instr.canFrameReceived 0 { fmt := 1, data := List.replicate 9 0 } 0).wf = false := by decide
theorem test_wf_can_id : (Instr.canFrameReceived 0 { id := 1 } 0).wf = false := by decide
theorem test_wf_can_xl : (Instr.canFrameReceived 0 { sdt := 1 } 0).wf = false := by decide
theorem test_wf_uart : (Instr.uartByteReceived 0 (0, 0, 0) (false, false, false) (true, [true, true, true, true])).wf = false := by decide
theorem test_wf_lin : (Instr.linFrameEnd 0 (.done [] 0)).wf = false := by decide
theorem test_wf_opcode : (Instr.illegalInstruction 0 0x13).wf = false ∧ (Instr.illegalInstruction 0 0xFE00000B).wf = true := by
  decide
theorem test_wf_inventory : (Instr.tagInventory 3 8).wf = false ∧ (Instr.tagInventory 65 0).wf = false := by decide

end Sys2Proof

namespace Sys2Proof.Machine

/-! ## Single steps -/

/-- The command answers a next state of which `p` holds. -/
def Test.runs (c : Instr) (s : State) (p : State → Bool) : Bool :=
  match exec c s with
  | .next t => p t
  | _ => false

/-- "123456789". -/
def Test.nine : List (BitVec 8) := [0x31, 0x32, 0x33, 0x34, 0x35, 0x36, 0x37, 0x38, 0x39]

/-- The worked example under R26: slice S37, CAN2 and GCH13. -/
theorem test_addresses : A_CEN_SCFG 37 = 0x41250000 ∧ A_CAN_CTL 2 = 0x40920000 ∧ A_GCH_STAT 13 / 0x1000 = 0x4050D := by decide

/-- The check column of the table under R395. -/
theorem test_crc_checks : (List.range 6).map (fun n => (crcAlg n).feed (crcAlg n).init Test.nine ^^^ (crcAlg n).xor) =
    [0x4B, 0x29B1, 0xCBF43926, 0xE3069283, 0x1697D06A, 0x6C40DF5F0B497347] := by decide +kernel

/-- The eight bytes of a direct-mode write go in ascending order (R395): one more byte gives the check value. -/
theorem test_crc_direct : Test.runs (.crcData 7 false 0x3837363534333231) (Test.st [(CRC_CFG_ALG 7, 1), (CRC_VAL 7, 0xFFFF)])
    (fun t => decide ((crcAlg 1).byte (t.dev.get (CRC_VAL 7)) 0x39 = 0x29B1)) = true := by decide +kernel

/-- The header and payload of the worked example under R385. -/
theorem test_frame_bytes : (sflFrame 0x0123456789ABCDEF 1 0 0x00002A31 500 160 [1, 3, 1, 0, 0, 0, 0, 0]).take 18 =
    [0x10, 0x08, 0x31, 0x2A, 0, 0, 0xF4, 0x01, 0xA0, 0, 1, 3, 1, 0, 0, 0, 0, 0] := by decide +kernel

/-- The worked example of the auxiliary converters: 1.385 V gives code 2,269. -/
theorem test_aux_code : auxCode (1385000, 1) = 2269 := by decide

/-- The worked example of the microstep bands. -/
theorem test_band_addresses : [bandAddr 1 10277, bandAddr 2 10277, bandAddr 1 10285, bandAddr 2 10285] = [36, 32, 44, 48] := by
  decide

/-- R471: halves go away from zero. -/
theorem test_near : divRound 5 2 = 3 ∧ divRound (-5) 2 = -3 := by decide

/-- The worked example under R18: 1.5 A and −0.25 turn as words. -/
theorem test_q32 : qBits (3 * 2 ^ 31) = 0x180000000 ∧ qBits (-(2 ^ 30)) = 0xFFFFFFFFC0000000 := by decide

/-- The worked example of edge learning (R173), from its first edge. -/
def Test.learn (lastOn seg4 : Nat) : State :=
  { dev := { Test.dev [(GCH_CFG_LEARN 0, 1), (GCH_CFG_LEARN_BINS 0, 0xFF), (GCH_CFG_TGT_ON 0, 80), (GCH_CFG_BAND 0, 8),
      (GCH_CFG_SEG_MIN 0, 1), (GCH_CFG_SEG_MAX 0, 24), (GCH_BIN_B 0, 0xFFFF3226190C06), (GCH_STAT_STATE 0, 2), (CLU_STAT_STATE 0, 3),
      (GCH_SEGON_SEG 0 4, seg4), (GCH_SEGON_SEG 0 5, 12)] with gch := [(0, { lastOn := lastOn })] } }

theorem test_learn_slow_edge : Test.runs (.edgeLearn 0 true (some 178) 181 600) (Test.learn 4 12)
    (fun t => decide (t.dev.get (GCH_SEGON_SEG 0 4) = 13)) = true := by decide +kernel

theorem test_learn_bin_differs : Test.runs (.edgeLearn 0 true (some 162) 203 600) (Test.learn 4 14)
    (fun t => decide (t.dev.get (GCH_SEGON_SEG 0 4) = 14 ∧ (t.dev.gchAt 0).lastOn = 5 ∧ t.dev.get (GCH_CNT_LEARN_SKIP 0) = 1)) =
      true := by decide +kernel

/-- A register write in 32-bit halves takes its own half only (R9). -/
theorem test_half_write : Test.runs (.registerWrite .host 0x4000002C .w32 7) (Test.st [])
    (fun t => decide ((t.dev.reg 0x40000028).toNat % 2 ^ 32 = 0)) = true := by decide +kernel

/-- An access to an unmapped address is counted and changes no memory (R25). -/
theorem test_unmapped : Test.runs (.registerWrite .host 0x50000000 .w32 7) (Test.st [])
    (fun t => decide (t.mem = [] ∧ t.dev.get SYS_BUSERR_UNMAPPED = 1)) = true := by decide +kernel

/-- Command 01 of the port's worked example: the request's address and width come back as data 0x82 in RUN. -/
theorem test_host_read : Test.runs .rd
    { dev := { Test.dev [(SYS_PWRSTATE_STATE, 2), (SYS_PWRSTATE_READY, 1), (SYS_IMGSTAT_IMG_OK, 1)] with
      spih := { req := some { cmd := 1, tag := 0x5A, len8 := 1, addr := 0x40000010 } } } }
    (fun t => decide ((t.dev.spih.reply.map fun l => l.take 16) =
      some [1, 0x5A, 0, 1, 0, 0, 0, 0, 0x82, 0, 0, 0, 0, 0, 0, 0])) = true := by decide +kernel

/-- The first word after reset in front: the queue keeps the rest. -/
theorem test_step_takes_front : (match step { pending := [.aggOver, .vsupGood] } with
    | .next t => decide (t.pending = [.vsupGood]) | _ => false) = true := by decide +kernel

/-- The microstep walk of an encoder (R113): A before B. -/
theorem test_quadrature : Test.runs (.encoderEdge 3 true true)
    { dev := { Test.dev [(POS_CFG_MODE 3, 2)] with pos := [(3, { abz := 1 })] } }
    (fun t => decide ((t.dev.posAt 3).count = 1)) = true := by decide +kernel

/-- The homing example: the confirmed edge stops the axis, and a bounce sends it back to searching. -/
theorem test_home_bounce : Test.runs (.homeDebounceExpire 5)
    (Test.st [(STP_STAT_STATE 5, 3), (STP_STAT_HSTATE 5, 4), (STP_SW_POL 5, 1)])
    (fun t => decide (t.dev.get (STP_STAT_HSTATE 5) = 3)) = true := by decide +kernel

/-- DIV of the control engine: 7 / 2 = 3.5. -/
theorem test_engine_div : Test.runs (.opDiv 5)
    { dev := { Test.dev [(⟨A_CEN_PROG 5 0, 0, 64⟩, 0x20 * 2 ^ 58 + 2 ^ 48 + 2 * 2 ^ 40 + 3 * 2 ^ 32), (CEN_SSTAT_STATE 5, 2),
      (CEN_SSTAT_START 5, 1), (⟨A_CEN_ST 5 2, 0, 64⟩, 7 * 2 ^ 32), (⟨A_CEN_ST 5 3, 0, 64⟩, 2 * 2 ^ 32)] with slc := [(5, { k := 9 })] } }
    (fun t => decide (t.dev.get (CEN_SSTAT_PC 5) = 1)) = true := by decide +kernel

/-- Thimble answers an unknown request code with result 8 (the code table of HEM_THMREQ). -/
theorem test_unknown_request : Test.runs (.unknownRequest .host 0x7F 9) (Test.st [(THM_STAT_STATE, 1)])
    (fun t => decide (t.dev.get THM_RESP_RESULT = 8)) = true := by decide +kernel

/-! ## Witnesses -/

theorem witness_idleStepPassesOneTick : ({} : State).pending = [] ∧
    (let s : State := Test.st [(SYS_CLKSTAT_PLLB_ST, 0)];
      s.powered ∧ s.dev.get SYS_CLKSTAT_PLLB_ST ≠ 2 ∧ s.dev.get SYS_CLKSTAT_PLLB_ST ≠ 3) ∧
    (let s : State := Test.st [];
      s.powered ∧ s.dev.get SYS_CLKSTAT_PLLB_ST = 2 ∧ s.dev.get DTM_OFS_RATE = 0 ∧ s.dev.frac = 0) := by decide +kernel

/-- A state that meets both invariants and steps. -/
theorem witness_stepKeepsCanonicalForm : let s : State := { pending := [.aggOver] }
    s.inv ∧ (match step s with | .next _ => true | _ => false) = true := ⟨⟨by decide +kernel, by decide +kernel⟩, by decide +kernel⟩

theorem witness_stepKeepsNumbersInRange : let s : State := { pending := [.aggOver] }
    s.numbersOk = true ∧ (match step s with | .next _ => true | _ => false) = true := by decide +kernel

theorem witness_keySlotsProgrammedOnce : let s : State := { dev := { per := { keys := Test.keys } }, pending := [.keyRevoke] }
    (match step s with | .next _ => true | _ => false) = true ∧ (s.dev.keySlot 0).programmed = true := by decide +kernel

theorem witness_committedSetChangesOnlyUnlocked : let s : State := { pending := [.install .host 3] }
    s.dev.get THM_STAT_SAFE_UNLOCK = 0 ∧
    (∀ (a1 a2 a3 a4 a5 a6 : Bool), s.pending.head? ≠ some (.thimbleBootDone a1 a2 a3 a4 a5 a6)) ∧
    (match step s with | .next _ => true | _ => false) = true := by decide +kernel

theorem witness_gateTurnsOnOnlyPermitted : let s : State :=
      { dev := { Test.dev [(GCH_STAT_STATE 4, 2)] with gch := [(4, { permit1 := true, permit2 := true, link := true, edge := some true })] },
        pending := [.gateEdge 4] }
    (match step s with | .next t => (t.dev.gchAt 4).gate | _ => false) = true ∧ (s.dev.gchAt 4).gate = false := by
  decide +kernel

theorem witness_microstepTableAddress : (4 : Nat) ≤ 4 ∧ 2 * (bandStep 4 : Int) * 2 ≤ 2 * 600 + bandStep 4 ∧
    2 * (600 : Int) + bandStep 4 < 2 * (bandStep 4 : Int) * (2 + 1) := by decide


theorem witness_refusedResetWriteIsCounted :
  (let s : State := Test.st []; let o : Origin := .pair 0; let key : BitVec 16 := 0xD2A7; (s.accesses o) ∧
    (key ≠ 0xD2A6)) ∧
  (let s : State := Test.st [(HEM_STAT_PAIRA, 2)]; let c : Fin 4 := 1; (s.accesses (.core c))) ∧
  (let s : State := Test.st [(HEM_STAT_PAIRB, 2)]; let o : Origin := .core 3;
    let v : BitVec 64 := 0xD2A6000000000001; (s.accesses o) ∧ ((v.toNat / 2 ^ 48 ≠ 0xD2A6 ∨ (∃ c, o = .core c)))) := by decide +kernel

theorem witness_flashOperationsRefused :
  (let s : State := Test.st [(SYS_IMGSTAT_IMG_OK, 1), (SYS_IMGSTAT_SLOT, 1), (SPI_M0PROT, 0x2002),
    (SPI_M0CMD_OPC, 0x20), (SPI_M0CMD_ADDR_BYTES, 3), (⟨A_SPI_M0ADDR, 0, 64⟩, 0x2000010)]; (s.inUse) ∧
    (s.dev.get SPI_M0CTL_BUSY = 0) ∧ (s.dev.imageRuns = true) ∧ (s.dev.m0Protected = true) ∧
    (s.dev.get SPI_M0CMD_ADDR_BYTES ≠ 0) ∧ (s.dev.inRunSlot (s.dev.get SPI_M0ADDR % 2 ^ 32) = true)) ∧
  (let s : State := Test.st [(SYS_IMGSTAT_IMG_OK, 1), (SPI_M0PROT, 0xC7), (SPI_M0CMD_OPC, 0xC7)]; (s.inUse) ∧
    (s.dev.get SPI_M0CTL_BUSY = 0) ∧ (s.dev.imageRuns = true) ∧ (s.dev.m0Protected = true) ∧
    (s.dev.get SPI_M0CMD_ADDR_BYTES = 0)) ∧
  (let s : State := Test.st [(SPI_M0CMD_OPC, 0x9F)]; (s.inUse) ∧ (s.dev.get SPI_M0CTL_BUSY = 0) ∧
    (s.dev.m0Protected = false)) ∧
  (let s : State := { dev := { Test.dev [(SYS_IMGCTL_NEXT_SLOT, 1)] with boot := { stage := 2 } }, flash := Test.image };
    (s.allClocks) ∧ (s.dev.boot.stage = 2) ∧ (s.dev.boot.heldReset = false) ∧ (s.dev.boot.tried = 0) ∧
    (s.dev.get SYS_IMGCTL_NEXT_SLOT = 1) ∧ (frontCause s.flash 0 = 0)) := by decide +kernel

theorem witness_firmwareJournalEntries :
  (let s : State := Test.st []; let o : Origin := .host; let k : BitVec 8 := 0x7F; (s.accesses o) ∧
    (k.toNat < 0x80)) ∧
  (let s : State := { dev := { Test.dev [(HEM_STAT_PAIRB, 2), (⟨A_JNL_FWDATA 4, 0, 64⟩, 77)] with time := 5000, jnl := { queue := [{}] } } };
    let o : Origin := .core 2; let k : BitVec 8 := 0x80; (s.accesses o) ∧ (0x80 ≤ k.toNat) ∧
    (s.dev.jnl.budget = none) ∧ (s.dev.jnl.queue.length < 24)) := by decide +kernel

theorem witness_highPrioritySlots :
  (let s : State := Test.st [(CAN_FLT_EN 1 0, 1), (CAN_FLT_ACT 1 0, 2)]; let n : Fin 4 := 1;
    let f : CanFrame := {}; let k : Fin 128 := 0;
    ((List.range 128).find? (fun k => s.dev.canMatch n k f) = some k.val) ∧ (s.dev.get (CAN_FLT_ACT n k) = 2)) ∧
  (let s : State := Test.st [(CAN_HP_FULL 2, 11)]; let n : Fin 4 := 2; let k : Fin 4 := 2; ((∀ j, j < k.val →
    s.dev.tb (CAN_HP_FULL n) j = true)) ∧ (s.dev.tb (CAN_HP_FULL n) k = false)) ∧
  (let s : State := Test.st [(CAN_HP_FULL 2, 15)]; let n : Fin 4 := 2; (s.dev.get (CAN_HP_FULL n) = 15)) ∧
  (let s : State := Test.st [(CAN_HP_FULL 2, 15)]; (s.inUse)) := by decide +kernel

theorem witness_rateLimitedSources :
  (let d : Dev := Test.dev []; let k : Nat := 753; let c : Nat := 0;
    (Tab.find (fun _ => 0) d.lims (k * 16 + c) = 0)) ∧
  (let d : Dev := { lims := [(753 * 16, 6)], time := 1000005 }; let k : Nat := 753; let c : Nat := 0;
    let T : Nat := 1000000; let last : Nat := 5; (Tab.find (fun _ => 0) d.lims (k * 16 + c) = last + 1) ∧
    (last + T ≤ d.time)) ∧
  (let d : Dev := { lims := [(753 * 16, 6)], time := 1000004 }; let k : Nat := 753; let c : Nat := 0;
    let T : Nat := 1000000; let last : Nat := 5; (Tab.find (fun _ => 0) d.lims (k * 16 + c) = last + 1) ∧
    (d.time < last + T)) := by decide +kernel

theorem witness_localStartComplete :
  (let s : State := { dev := {} }; (s.powered) ∧ (s.dev.boot.stage = 1) ∧ (s.dev.boot.heldReset = false)) ∧
  (let s : State := { dev := { Test.dev [(SYS_IMGCTL_NEXT_SLOT, 1)] with boot := { stage := 2 } }, flash := Test.image };
    (s.allClocks) ∧ (s.dev.boot.stage = 2) ∧ (s.dev.boot.heldReset = false) ∧ (s.dev.boot.tried = 0) ∧
    (s.dev.get SYS_IMGCTL_NEXT_SLOT = 1) ∧ (frontCause s.flash 0 = 0)) ∧
  (let s : State := { dev := { Test.dev [] with boot := { stage := 3 } }, flash := Test.image }; (s.allClocks) ∧
    (s.dev.boot.stage = 3) ∧ (s.dev.boot.heldReset = false)) ∧
  (let s : State := { dev := { Test.dev [] with per := { keys := Test.keys }, boot := { stage := 4, slot := 0, digest := 0 } }, flash := Test.image };
    (s.allClocks) ∧ (s.dev.boot.stage = 4) ∧ (s.dev.boot.heldReset = false) ∧ (s.dev.boot.slot = 0) ∧
    (s.dev.tailCause s.flash s.dev.boot.slot s.dev.boot.digest s.dev.boot.staged = 1)) ∧
  (let s : State := { dev := { Test.dev [(ADC_REFSTAT_STATE, 3)] with boot := { stage := 5 } } }; (s.allClocks) ∧
    (s.dev.boot.stage = 5) ∧ (s.dev.boot.heldReset = false) ∧ (s.dev.boot.slot ≤ 1) ∧
    (3 ≤ s.dev.get ADC_REFSTAT_STATE)) ∧
  (let s : State := { dev := { Test.dev [] with boot := { stage := 6 } } }; (s.allClocks) ∧
    (s.dev.boot.stage = 6) ∧ (s.dev.boot.heldReset = false)) ∧
  (let s : State := { dev := { Test.dev [(SYS_IMGSTAT_IMG_OK, 1)] with boot := { stage := 7 } } }; (s.inUse) ∧
    (s.dev.get SYS_IMGCTL_VERIFY_BUSY = 0) ∧ (s.dev.boot.recovery = false) ∧ (s.dev.imageRuns = true)) ∧
  (let s : State := Test.st [(SYS_IMGCTL_VERIFY_BUSY, 1)]; (s.clocked 0) ∧
    (s.dev.get SYS_IMGCTL_VERIFY_BUSY = 1) ∧ (s.dev.get SYS_IMGSTAT_SLOT = 0) ∧ (frontCause s.flash 1 ≠ 0)) ∧
  (let s : State := Test.st [(SYS_IMGCTL_VERIFY_BUSY, 1), (SYS_IMGSTAT_SLOT, 1)]; (s.clocked 0) ∧
    (s.dev.get SYS_IMGCTL_VERIFY_BUSY = 1) ∧ (s.dev.get SYS_IMGSTAT_SLOT = 1)) := by
  refine ⟨?_, ?_, ?_, ?_, ?_, ?_, ?_, ?_, ?_⟩ <;> decide +kernel

theorem witness_fieldOutputsComplete :
  (let s : State := Test.st ([(HEM_FOALLOW_ALLOW 3, 15), (HEM_STAT_HOLD, 0), (SYS_GLINK_UNUSED, 0x3FFF),
    (ADC_REFSTAT_STATE, 3)] ++ (List.range 8).map fun n => (ADC_STAT_CAL_VALID n, 1)); let n : Fin 14 := 3;
    let m : BitVec 3 := 2; (s.inUse) ∧ (s.dev.get (FIO_OSTAT_STATE n) = 0) ∧ (1 ≤ m.toNat) ∧ (m.toNat ≤ 4) ∧
    (s.dev.tb (HEM_FOALLOW_ALLOW n) (m.toNat - 1) = true) ∧ (s.dev.foHeld n = false)) ∧
  (let s : State := Test.st [(FIO_OSTAT_STATE 13, 1)]; let n : Fin 14 := 13; (s.inUse) ∧
    (s.dev.get (FIO_OSTAT_STATE n) = 1)) ∧
  (let s : State := Test.st [(FIO_OSTAT_STATE 0, 1)]; let n : Fin 16 := 0; let ma : BitVec 16 := -6000;
    (s.powered) ∧ (s.dev.get (FIO_OSTAT_STATE n) = 1) ∧ (6000 ≤ ma.toInt.natAbs)) ∧
  (let s : State := Test.st [(FIO_OSTAT_STATE 15, 2)]; let n : Fin 16 := 15; let ma : BitVec 16 := 5999;
    (s.powered) ∧ (s.dev.get (FIO_OSTAT_STATE n) = 2) ∧ (ma.toInt.natAbs < 6000)) ∧
  (let s : State := Test.st [(FIO_OSTAT_STATE 5, 2)]; let n : Fin 14 := 5; (s.powered) ∧
    (s.dev.get (FIO_OSTAT_STATE n) = 2) ∧ (s.dev.get (FIO_OSTAT_RETRIES n) < 3) ∧
    (((List.range 14).all fun m => decide ((s.dev.foAt m).latchAt = none)) = true)) ∧
  (let s : State := Test.st [(FIO_OSTAT_STATE 9, 1), (FIO_OSTAT_RETRIES 9, 3)]; let n : Fin 14 := 9;
    (s.powered) ∧ (s.dev.get (FIO_OSTAT_STATE n) = 1) ∧ (s.dev.get (FIO_OSTAT_RETRIES n) = 3)) ∧
  (let s : State := Test.st [(FIO_OSTAT_STATE 1, 3), (FIO_OUTCFG_MODE 1, 1)]; let n : Fin 14 := 1; (s.powered) ∧
    (s.dev.get (FIO_OSTAT_STATE n) = 3) ∧ (s.dev.foMode n ≠ 0) ∧ (s.dev.get (FIO_OSTAT_RETRIES n) < 3)) ∧
  (let s : State := Test.st [(FIO_OSTAT_STATE 2, 1), (FIO_OSTAT_RETRIES 2, 2)]; let n : Fin 14 := 2;
    (s.powered) ∧ (s.dev.get (FIO_OSTAT_STATE n) = 1)) ∧
  (let s : State := Test.st ([(FIO_OSTAT_STATE 13, 4), (FIO_FLT_LATCH, 0x2000), (HEM_STAT_HOLD, 0),
    (SYS_GLINK_UNUSED, 0x3FFF), (ADC_REFSTAT_STATE, 3)] ++ (List.range 8).map fun n => (ADC_STAT_CAL_VALID n, 1));
    let n : Fin 14 := 13; (s.inUse) ∧ (s.dev.get (FIO_OSTAT_STATE n) = 4) ∧ (s.dev.foMode n = 0) ∧
    (s.dev.foHeld n = false)) ∧
  (let s : State := Test.st []; let high : Bool := true; let v : BitVec 16 := 3700; (s.powered) ∧
    ((if high then 3400 < v.toNat else v.toNat < 1600))) ∧
  (let s : State := { dev := { Test.dev [] with fio := { bankFault := 5 } } }; let v : BitVec 16 := 2400;
    (s.powered) ∧ (1700 ≤ v.toNat) ∧ (v.toNat ≤ 3300)) ∧
  (let s : State := Test.st []; (s.powered)) ∧
  (let s : State := Test.st [(FIO_IN_RAW, 0x80000000), (FIO_IN_LEVEL, 0), (FIO_DIEDGE_RISE_EN, 0x80000000)];
    let n : Fin 32 := 31; (s.powered) ∧ (s.dev.tb FIO_IN_RAW n = true) ∧ (s.dev.tb FIO_IN_LEVEL n = false) ∧
    (s.dev.tb FIO_DIEDGE_RISE_EN n = true)) ∧
  (let s : State := Test.st []; let n : Fin 32 := 4; (s.powered) ∧ (s.dev.tb FIO_IN_RAW n = false) ∧
    (s.dev.tb FIO_IN_LEVEL n = false) ∧ (s.dev.get FIO_DIFILT_FILT / 2 ^ (8 * (n.val / 8)) % 256 ≠ 0)) := by
  refine ⟨?_, ?_, ?_, ?_, ?_, ?_, ?_, ?_, ?_, ?_, ?_, ?_, ?_, ?_⟩ <;> decide +kernel

theorem witness_eventJournalTimeComplete :
  (let s : State := Test.st [(evrBit 5 767, 1)]; let n : Fin 6 := 5; let k : BitVec 10 := 767; (s.inUse) ∧
    (k.toNat < 768) ∧ (s.dev.get (evrBit n k.toNat) = 1)) ∧
  (let s : State := Test.st [(evrBit 2 70, 1)]; (s.inUse)) ∧
  (let s : State := { dev := { Test.dev [] with mono := 5000, jnl := { queue := [{ kind := 0x42, source := 0xFFFF }] } } };
    let e : JEntry := { kind := 0x42, source := 0xFFFF }; (s.powered) ∧ (s.dev.jnlNext = some e) ∧
    (s.dev.per.jnlNum < 2 ^ 32)) ∧
  (let s : State := Test.st []; let o : Origin := .host; let k : BitVec 8 := 0x80; (s.accesses o) ∧
    (0x80 ≤ k.toNat) ∧ (s.dev.jnl.budget = none) ∧ (s.dev.jnl.queue.length < 24)) ∧
  (let s : State := Test.st [(DTM_STAT_STATE, 1)]; (s.powered) ∧
    ((s.dev.get DTM_STAT_STATE = 1 ∨ s.dev.get DTM_STAT_STATE = 2))) := by decide +kernel

theorem witness_convertersComplete :
  (let s : State := { dev := { Test.dev [(ADC_STAT_STATE 7, 2), (ADC_SEQ_COUNT 7 0, 4)] with adc := [(7, { mux := some 0 })] } };
    let n : Fin 8 := 7; (s.clocked 2) ∧ (s.dev.adcState n = 2) ∧ ((s.dev.adcAt n).blank = 0) ∧
    (s.dev.get (ADC_STAT_SAMPLE n) < s.dev.adcWant n)) ∧
  (let s : State := { dev := { Test.dev [(ADC_STAT_STATE 0, 1), (ADC_SEQ_TRIG 0 0, 1)] with adc := [(0, { })] } };
    let n : Fin 8 := 0; let k : Fin 4 := 1; (s.clocked 2) ∧ (s.dev.adcState n = 1) ∧ (k.val ≠ 0) ∧
    (s.dev.get (ADC_SEQ_TRIG n (s.dev.get (ADC_STAT_ENTRY n))) = k) ∧ ((s.dev.adcAt n).restart = false)) ∧
  (let s : State := { dev := { Test.dev [(ADC_STAT_STATE 0, 1), (ADC_SEQ_TRIG 0 0, 1), (ADC_SEQ_COUNT 0 0, 2), (ADC_SEQ_DELAY 0 0, 9)] with adc := [(0, { trig := true })] } };
    let n : Fin 8 := 0; let clocks : BitVec 32 := 10; (s.clocked 2) ∧ (s.dev.adcState n = 1) ∧
    ((s.dev.adcAt n).blank = 0) ∧ ((s.dev.adcAt n).trig = true) ∧
    (s.dev.get (ADC_SEQ_DELAY n (s.dev.get (ADC_STAT_ENTRY n))) + 1 = clocks.toNat) ∧
    (s.dev.get (ADC_SEQ_COUNT n (s.dev.get (ADC_STAT_ENTRY n))) ≠ 0)) ∧
  (let s : State := { dev := { Test.dev [(ADC_STAT_STATE 3, 2), (ADC_STAT_ENTRY 3, 2), (ADC_SEQ_COUNT 3 2, 2), (ADC_STAT_SAMPLE 3, 2), (ADC_SEQ_LAST 3 2, 1)] with adc := [(3, { })] } };
    let n : Fin 8 := 3; (s.clocked 2) ∧ (s.dev.adcState n = 2) ∧
    (s.dev.adcWant n ≤ s.dev.get (ADC_STAT_SAMPLE n)) ∧ ((s.dev.adcAt n).queue = []) ∧
    (s.dev.bit (ADC_SEQ_LAST n (s.dev.get (ADC_STAT_ENTRY n))) = true)) ∧
  (let s : State := { dev := { Test.dev [] with adc := [(6, { pub := [(63, 0x123456789ABCDEF)] })] } };
    let n : Fin 8 := 6; let k : Fin 64 := 63; let r : BitVec 64 := 0x123456789ABCDEF;
    let q : List (Nat × BitVec 64) := []; (s.clocked 2) ∧ ((s.dev.adcAt n).pub = (k.val, r) :: q)) ∧
  (let s : State := { dev := { Test.dev [(ADC_STAT_STATE 6, 1)] with adc := [(6, { })] } }; let n : Fin 8 := 6;
    let count : BitVec 8 := 5; let i : BitVec 4 := 2; (s.inUse) ∧ (s.dev.adcState n = 1) ∧ (count.toNat ≠ 0) ∧
    (adcConn n i.toNat = true) ∧ ((s.dev.adcAt n).queue = []) ∧ ((6 ≤ n.val ∨ s.dev.adcFeeds n = false)) ∧
    (s.dev.clk 2 = true)) ∧
  (let s : State := { dev := { Test.dev [(ADC_STAT_STATE 6, 3), (ADC_STAT_SAMPLE 6, 2)] with adc := [(6, { urg := some (0, 1, 2), sum := 7 })] } };
    let n : Fin 8 := 6; let i : Nat := 1; let c : Nat := 2; (s.clocked 2) ∧ ((s.dev.adcAt n).urg = some (0, i,
    c)) ∧ (s.dev.adcState n = 3) ∧ (c ≤ s.dev.get (ADC_STAT_SAMPLE n)) ∧ ((s.dev.adcAt n).queue = [])) ∧
  (let s : State := Test.st [(ADC_SEQ_COUNT 4 0, 1), (ADC_SEQ_LAST 4 0, 1), (ADC_REFSTAT_STATE, 3)];
    let n : Fin 8 := 4; (s.inUse) ∧ (s.dev.get (ADC_CTL_RUN n) = 0) ∧ (s.dev.adcSeqOk n = true) ∧
    (s.dev.adcState n = 0) ∧ (s.dev.refReady = true)) ∧
  (let s : State := Test.st [(ADC_CTL_RUN 5, 1), (ADC_STAT_STATE 5, 1)]; let n : Fin 8 := 5; (s.inUse) ∧
    (s.dev.get (ADC_CTL_RUN n) = 1) ∧ ((s.dev.adcState n = 1 ∨ s.dev.adcState n = 2)) ∧ (s.dev.adcFeeds n = false)) := by
  refine ⟨?_, ?_, ?_, ?_, ?_, ?_, ?_, ?_, ?_⟩ <;> decide +kernel

theorem witness_referenceAndAuxComplete :
  (let s : State := Test.st [(ADC_REFSTAT_STATE, 3)]; (s.inUse) ∧ (s.dev.adcAllStopped = true) ∧
    ((s.dev.get ADC_REFSTAT_STATE = 3 ∨ s.dev.get ADC_REFSTAT_STATE = 4))) ∧
  (let s : State := Test.st [(ADC_REFSTAT_STATE, 1)]; let mv : BitVec 16 := 2450; (s.powered) ∧
    (s.dev.get ADC_REFSTAT_STATE = 1) ∧ (s.dev.refInside mv.toNat = true)) ∧
  (let s : State := { dev := { Test.dev [(ADC_REFSTAT_STATE, 3)] with refOut := true } };
    let mv : BitVec 16 := 2449; (s.powered) ∧ (s.dev.get ADC_REFSTAT_STATE = 3) ∧ (s.dev.refOut = true) ∧
    (s.dev.refInside mv.toNat = false)) ∧
  (let s : State := Test.st [(ADC_REFSTAT_STATE, 3)]; (s.powered) ∧ (s.dev.refOut = false)) ∧
  (let s : State := Test.st [(ADC_REFSTAT_STATE, 3)]; let n : Fin 8 := 7; (s.inUse) ∧ (s.dev.adcState n = 0) ∧
    (s.dev.refReady = true)) ∧
  (let s : State := Test.st [(ADC_CALSTAT_BUSY, 8)]; let n : Fin 8 := 3;
    let w : List (BitVec 32) := (List.range 14).map fun k => BitVec.ofNat 32 (2 ^ (22 - k));
    let off : BitVec 32 := 0; let gain : BitVec 32 := 0x40000000; (s.clocked 2) ∧
    (s.dev.tb ADC_CALSTAT_BUSY n = true) ∧ (calPasses w off gain = true)) ∧
  (let s : State := Test.st [(THM_STAT_SAFE_UNLOCK, 1), (ADC_TRIMV_UV, 2500000)]; let o : Origin := .pair 0;
    (s.accesses o) ∧ (s.dev.rwsOk o = true) ∧ (s.dev.get ADC_CALCTL_TRIM = 0) ∧
    (2000000 ≤ s.dev.get ADC_TRIMV_UV) ∧ (s.dev.get ADC_TRIMV_UV ≤ 3000000) ∧ (s.dev.adcAllStopped = true)) ∧
  (let s : State := Test.st [(ADC_CALCTL_TRIM, 1), (ADC_TRIMV_UV, 2510000)]; let code : BitVec 16 := 0;
    (s.clocked 2) ∧ (s.dev.get ADC_CALCTL_TRIM = 1) ∧
    ((near (s.dev.get ADC_TRIMV_UV * 32768) (32768 + code.toInt) - 2500000).natAbs ≤ 25000)) ∧
  (let s : State := Test.st [(AUX_CTL_RUN 1, 1)]; let m : Fin 2 := 1; (s.powered) ∧
    (s.dev.get (AUX_CTL_RUN m) = 1) ∧ ((s.dev.auxAt m).entry = none)) ∧
  (let s : State := { dev := { Test.dev [(AUX_SCAN_INPUT 0 30, 9)] with aux := [(0, { entry := some 30 })] } };
    let m : Fin 2 := 0; let k : Fin 31 := 30; (s.powered) ∧ ((s.dev.auxAt m).entry = some k.val) ∧
    (s.dev.bit (AUX_SCAN_LAST m k) = false)) := by
  refine ⟨?_, ?_, ?_, ?_, ?_, ?_, ?_, ?_, ?_, ?_⟩ <;> decide +kernel

theorem witness_positionCommandsComplete :
  (let s : State := { dev := { Test.dev [(POS_FLT_CAUSE 2, 0x405)] with pos := [(2, { })] } }; (s.inUse)) ∧
  (let s : State := { dev := { Test.dev [(POS_CFG_MODE 1, 1)] with pos := [(1, { })] } }; let p : Fin 2 := 1;
    (s.clocked 2) ∧ (s.dev.get (POS_CFG_MODE p) = 1)) ∧
  (let s : State := { dev := { Test.dev [] with pos := [(0, { pairOpen := true })] } }; let p : Fin 2 := 0;
    (s.clocked 2) ∧ ((s.dev.posAt p).pairOpen = true)) ∧
  (let s : State := { dev := { Test.dev [(POS_CFG_MODE 3, 2)] with pos := [(3, { abz := 1 })] } };
    let p : Fin 4 := 3; let a : Bool := true; let b : Bool := true; (s.clocked 2) ∧
    (s.dev.get (POS_CFG_MODE p) = 2) ∧ ((s.dev.posAt p).abz ≠ a.toNat + 2 * b.toNat) ∧
    ((s.dev.posAt p).abz + (a.toNat + 2 * b.toNat) ≠ 3)) ∧
  (let s : State := { dev := { Test.dev [(POS_CFG_MODE 0, 2)] with pos := [(0, { count := 4, bad := 1 })] } };
    let p : Fin 4 := 0; (s.clocked 2) ∧ (s.dev.get (POS_CFG_MODE p) = 2) ∧ ((s.dev.posAt p).init = false) ∧
    (s.dev.get (POS_STAT_SRC p) ≠ 3)) ∧
  (let s : State := { dev := { Test.dev [(POS_CFG_MODE 2, 2)] with pos := [(2, { abz := 3, count := 17 })] } };
    let p : Fin 4 := 2; (s.clocked 2) ∧ (s.dev.get (POS_CFG_MODE p) = 2) ∧ ((s.dev.posAt p).abz = 3) ∧
    (s.dev.get (POS_STAT_INDEXED p) = 0)) ∧
  (let s : State := { dev := { Test.dev [(POS_CFG_MODE 2, 4)] with pos := [(2, { })] } }; let p : Fin 4 := 2;
    (s.clocked 2) ∧ ((s.dev.get (POS_CFG_MODE p) = 3 ∨ s.dev.get (POS_CFG_MODE p) = 4)) ∧
    ((s.dev.posAt p).frameAt = none) ∧ (s.dev.get (POS_ENC_FRAME_SYNC p) = 0)) ∧
  (let s : State := { dev := { Test.dev [(POS_CFG_MODE 2, 4), (POS_ENC_FRAME_SYNC 2, 1)] with pos := [(2, { })] } };
    let p : Fin 4 := 2; (s.clocked 2) ∧ (s.dev.get (POS_ENC_FRAME_SYNC p) = 1)) ∧
  (let s : State := { dev := { Test.dev [(POS_CFG_MODE 2, 3)] with pos := [(2, { frameAt := some 7 })] } };
    let p : Fin 4 := 2; let x : Nat := 7; (s.clocked 2) ∧ (s.dev.get (POS_CFG_MODE p) = 3) ∧
    ((s.dev.posAt p).frameAt = some x) ∧ ((s.dev.posAt p).init = false) ∧ (s.dev.get (POS_ENC_GRAY p) = 0)) ∧
  (let s : State := { dev := { Test.dev [(POS_CFG_MODE 2, 4), (POS_ENC_BITS 2, 8)] with pos := [(2, { frameAt := some 7 })] } };
    let p : Fin 4 := 2; let x : Nat := 7; let wf : Bool := true; let data : BitVec 40 := 0x45;
    let crc : BitVec 8 := BitVec.ofNat 8 (crc8Bits (false :: true :: bitsDown 8 0x45)); (s.clocked 2) ∧
    (s.dev.get (POS_CFG_MODE p) = 4) ∧ ((s.dev.posAt p).frameAt = some x) ∧ ((s.dev.posAt p).init = false) ∧
    (crc8Bits (false :: wf :: bitsDown (s.dev.encBits p) (data.toNat % 2 ^ s.dev.encBits p)) = crc.toNat)) ∧
  (let s : State := { dev := { Test.dev [(POS_CFG_MODE 2, 4)] with pos := [(2, { frameAt := some 7 })] } };
    let p : Fin 4 := 2; (s.clocked 2) ∧ (s.dev.get (POS_CFG_MODE p) = 4) ∧ ((s.dev.posAt p).frameAt.isSome = true)) ∧
  (let s : State := { dev := { Test.dev [(POS_CFG_VENC_EN 2, 1)] with pos := [(2, { })] } }; let p : Fin 4 := 2;
    (s.powered) ∧ (s.dev.get (POS_CFG_VENC_EN p) = 1)) ∧
  (let s : State := { dev := { Test.dev [(POS_STAT_SRC 2, 2), (CEN_AGE_AGE 0 0, 0), (CEN_AGE_AGE 0 1, 0), (⟨A_CEN_OUT 9, 32, 32⟩, 900)] with pos := [(2, { })], img := { speed := [(2, 9)] } } };
    let p : Fin 4 := 2; (s.powered) ∧ (s.dev.get (POS_STAT_SRC p) = 2) ∧ (s.dev.estValid p = true) ∧
    (centi (s.dev.get (POS_SLS_SLS_MIN p)) ≤ 100 * ((s.dev.speedCmd p).natAbs : Int))) ∧
  (let s : State := { dev := { Test.dev [(POS_STAT_SRC 2, 2)] with pos := [(2, { })] } }; let p : Fin 4 := 2;
    (s.powered) ∧ (s.dev.get (POS_STAT_SRC p) = 2)) ∧
  (let s : State := { dev := { Test.dev [(POS_STAT_SRC 2, 3)] with pos := [(2, { })] } }; let p : Fin 4 := 2;
    (s.powered) ∧ (s.dev.get (POS_STAT_SRC p) = 3) ∧
    (400 * ((s.dev.posAt p).slsSpeed.natAbs : Int) < 3 * centi (s.dev.get (POS_SLS_SLS_MIN p)))) ∧
  (let s : State := { dev := { Test.dev [(CEN_AGE_AGE 0 0, 0), (CEN_AGE_AGE 0 1, 0), (⟨A_CEN_OUT 0, 0, 64⟩, 0x80000000)] with pos := [(2, { init := true, omega := 4000 * 2 ^ 32 })] } };
    let p : Fin 4 := 2; (s.powered) ∧ ((s.dev.posAt p).init = true) ∧ ((s.dev.posAt p).fault = false) ∧
    (s.dev.estValid p = true) ∧
    (centi (s.dev.get (POS_SLS_SLS_MIN p)) * s.dev.posRpp p ≤ 100 * ((s.dev.posAt p).omega.natAbs : Int)) ∧
    ((s.dev.get (POS_SLS_AGREE_TOL p) : Int) * 2 ^ 16 < (wrapQ (fracQ (near (s.dev.posPP p * s.dev.obsAt p s.dev.mono) (s.dev.posRpp p) + (s.dev.reg (A_POS_OFF p)).toInt) - fracQ (s.dev.outQ (2 * s.dev.get (POS_SLS_EST_IDX p))))).natAbs)) ∧
  (let s : State := { dev := { Test.dev [(POS_STAT_SRC 2, 1), (POS_CFG_GROUP 2, 1), (CLU_STAT_STATE 0, 2)] with pos := [(2, { })], clu := [(0, { udc := 600 * 2 ^ 32 })] } };
    let p : Fin 4 := 2; let g : Nat := 0; let lo : BitVec 32 := 300000; let hi : BitVec 32 := 306000;
    (s.clocked 1) ∧ (s.dev.posGroup p = some g) ∧ (s.dev.aligning p = true) ∧ ((s.dev.posAt p).alignOn = false) ∧
    ((50 * ((lo.toNat : Int) * 2 ^ 32 * 2 - (s.dev.cluAt g).udc * 1000)).natAbs ≤ (2 * (s.dev.cluAt g).udc * 1000).natAbs) ∧
    ((50 * ((hi.toNat : Int) * 2 ^ 32 * 2 - (s.dev.cluAt g).udc * 1000)).natAbs ≤ (2 * (s.dev.cluAt g).udc * 1000).natAbs)) ∧
  (let s : State := { dev := { Test.dev [(POS_STAT_SRC 2, 1), (POS_CFG_GROUP 2, 1), (CLU_STAT_STATE 0, 2)] with pos := [(2, { alignOn := true })] } };
    let p : Fin 4 := 2; let tEnd : BitVec 32 := 900; (s.clocked 1) ∧ (s.dev.aligning p = true) ∧
    ((s.dev.posAt p).alignOn = true) ∧ ((s.dev.posAt p).inDecay = false) ∧ ((s.dev.posAt p).pulse < 12) ∧
    (tEnd.toNat < (1000 * clampN 1 40 (s.dev.get (POS_START_TP p))))) ∧
  (let s : State := { dev := { Test.dev [(POS_STAT_SRC 2, 1), (POS_CFG_GROUP 2, 1), (CLU_STAT_STATE 0, 2)] with pos := [(2, { alignOn := true, inDecay := true, pulse := 5 })] } };
    let p : Fin 4 := 2; (s.clocked 1) ∧ (s.dev.aligning p = true) ∧ ((s.dev.posAt p).alignOn = true) ∧
    ((s.dev.posAt p).inDecay = true) ∧ ((s.dev.posAt p).pulse ≠ 11) ∧ ((s.dev.posAt p).pulse ≠ 13)) := by
  refine ⟨?_, ?_, ?_, ?_, ?_, ?_, ?_, ?_, ?_, ?_, ?_, ?_, ?_, ?_, ?_, ?_, ?_, ?_, ?_⟩ <;> decide +kernel

theorem witness_currentLoopsComplete :
  (let s : State := { dev := { Test.dev ([(THM_GRP_STATE 0, 1), (HEM_STAT_HOLD, 0), (ADC_REFSTAT_STATE, 3), (SYS_GLINK_UNUSED, 0x3FFF), (HEM_GLIM2_UDC_MAX 0, 1000)] ++ (List.range 8).map fun n => (ADC_STAT_CAL_VALID n, 1)) with clu := [(0, { udc := 600 * 2 ^ 32, udcAt := some 0 })] } };
    let g : Fin 2 := 0; (s.inUse) ∧ ((g.val = 0 ∨ s.dev.six = false)) ∧ (s.dev.get (CLU_STAT_STATE g) = 0) ∧
    (s.dev.enableWhy g = 0)) ∧
  (let s : State := { dev := { Test.dev [(CLU_STAT_STATE 1, 3), (CLU_CTL_EN 1, 1)] with clu := [(1, { })] } };
    let g : Fin 2 := 1; (s.inUse) ∧ ((g.val = 0 ∨ s.dev.six = false)) ∧ (s.dev.get (CLU_STAT_STATE g) ≠ 0)) ∧
  (let s : State := { dev := { Test.dev [(CLU_STAT_STATE 1, 1)] with clu := [(1, { winU := [0x800000], winV := [0x800000], winW := [0x800000], ret := [0x800000] })] } };
    let g : Fin 2 := 1; (s.clocked 1) ∧ ((g.val = 0 ∨ s.dev.six = false)) ∧ (s.dev.get (CLU_STAT_STATE g) = 1) ∧
    (((s.dev.groups g).all fun h => (List.range 4).all (s.dev.offsetOk h)) = true) ∧
    (((List.range 4).all fun p => decide (s.dev.get (POS_STAT_SRC p) ≠ 1)) = true)) ∧
  (let s : State := { dev := { Test.dev [(CLU_CTL_REC_EN 1, 1), (CLU_STAT_STATE 1, 3)] with clu := [(1, { plan := [{ vec := 1, ok := true }, { vec := 2, ok := true }] })] } };
    let g : Fin 2 := 1; (s.clocked 1) ∧ (s.dev.get (CLU_CTL_REC_EN g) = 1) ∧ (s.dev.get (CLU_STAT_STATE g) = 3) ∧
    (((s.dev.cluAt g).plan.any fun v => decide (v.vec = 2) && v.ok && !v.asked) = true)) ∧
  (let s : State := { dev := { Test.dev [(CLU_STAT_STATE 1, 3)] with clu := [(1, { })] } }; let g : Fin 2 := 1;
    (s.clocked 1) ∧ (s.dev.get (CLU_STAT_STATE g) = 3)) ∧
  (let s : State := { dev := { Test.dev [(CLU_STAT_STATE 1, 3)] with clu := [(1, { udcAt := some 0, udc := 600 * 2 ^ 32 })], car := [(1, { peakNext := true })] } };
    let g : Fin 2 := 1; let tm : BitVec 64 := 100000; (s.clocked 1) ∧ (s.dev.six = false) ∧
    (s.dev.get (CLU_STAT_STATE g) = 3) ∧ (s.dev.udcStale g = false) ∧ (s.dev.cluBegun g tm.toNat = true) ∧
    ((s.dev.carAt g).peakNext = true)) := by decide +kernel

theorem witness_carriersComplete :
  (let s : State := { dev := { Test.dev [(PWM_STAT_MODE 0, 1), (CLU_STAT_STATE 0, 3)] with car := [(0, { shadow := some [(100, 200)] })] } };
    let c : Fin 2 := 0; let slack : BitVec 16 := 11; let x : List (Nat × Nat) := [(100, 200)]; (s.powered) ∧
    (s.dev.get (PWM_STAT_MODE c) = 1) ∧ (s.dev.bit (PWM_STAT_FROZEN c) = false) ∧
    ((c.val = 0 ∨ s.dev.six = false)) ∧ ((s.dev.carAt c).shadow = some x) ∧ (11 ≤ slack.toNat)) ∧
  (let s : State := { dev := { Test.dev [(PWM_STAT_MODE 1, 1)] with car := [(1, { todo := 4 })] } };
    let c : Fin 2 := 1; let x : Fin 3 := 2; (s.powered) ∧ (s.dev.get (PWM_STAT_MODE c) = 1) ∧
    (s.dev.bit (PWM_STAT_FROZEN c) = false) ∧ ((s.dev.carAt c).todo.testBit x = true) ∧
    ((s.dev.carAt c).leg.testBit x = s.dev.bit (PWM_STAT_DIR c))) ∧
  (let s : State := { dev := { Test.dev [] with car := [(0, { dead := 1, leg := 1 })] } }; let c : Fin 2 := 0;
    let x : Fin 3 := 0; (s.powered) ∧ (s.dev.bit (PWM_STAT_FROZEN c) = false) ∧
    ((s.dev.carAt c).dead.testBit x = true)) ∧
  (let s : State := { dev := { Test.dev [(SYS_CLKSTAT_PLLC_ST, 2)] with car := [(1, { sw := 32, cmd := 32 })] } };
    let c : Fin 3 := 1; let k : Fin 6 := 5; (s.powered) ∧ (k.val < carSwitches c) ∧ (s.dev.pwmClock = true) ∧
    ((s.dev.carAt c).sw.testBit k = true)) := by decide +kernel

theorem witness_brakeAndDischargeComplete :
  (let s : State := { dev := { Test.dev [(GCH_BRK_BRK_ON, 850)] with per := { safe := { v1 := { present := true }, v2 := { present := true } } } } };
    let v1 : BitVec 16 := 8500; let v2 : BitVec 16 := 8600; (s.powered) ∧ (s.dev.get GCH_BRK_REQ = 0) ∧
    (s.dev.safeSet.isSome = true) ∧ (10 * s.dev.get GCH_BRK_BRK_ON ≤ v1.toNat) ∧
    (10 * s.dev.get GCH_BRK_BRK_ON ≤ v2.toNat)) ∧
  (let s : State := Test.st [(GCH_BRK_REQ, 1), (GCH_BRK_BRK_OFF, 800)]; let v1 : BitVec 16 := 8000;
    let v2 : BitVec 16 := 7900; (s.powered) ∧ (s.dev.get GCH_BRK_REQ = 1) ∧
    (v1.toNat ≤ 10 * s.dev.get GCH_BRK_BRK_OFF) ∧ (v2.toNat ≤ 10 * s.dev.get GCH_BRK_BRK_OFF)) ∧
  (let s : State := { dev := { Test.dev [(GCH_BRK_PATH, 1)] with car := [(2, { onPhase := true, cmd := 1 })] } };
    (s.powered) ∧ ((s.dev.carAt 2).onPhase = true) ∧ (s.dev.brakeLive = true)) ∧
  (let s : State := { dev := { Test.dev [(GCH_BRK_PATH, 1), (GCH_BRK_REQ, 1)] with car := [(2, { offPhase := true })], gch := [(12, { permit1 := true, permit2 := true })] } };
    (s.powered) ∧ ((s.dev.carAt 2).offPhase = true) ∧ ((s.dev.carAt 2).onPhase = false) ∧
    (s.dev.brakeLive = true) ∧ (s.dev.get GCH_BRK_REQ = 1)) ∧
  (let s : State := { dev := { Test.dev [(GCH_BRK_PATH, 1)] with car := [(2, { offPhase := true })] } };
    (s.powered) ∧ ((s.dev.carAt 2).offPhase = true) ∧ ((s.dev.carAt 2).onPhase = false) ∧
    (s.dev.brakeLive = true) ∧ (s.dev.get GCH_BRK_REQ = 0)) ∧
  (let s : State := { dev := { Test.dev [(GCH_BRK_REQ, 1)] with mono := 1005000 } }; (s.powered) ∧
    (s.dev.get GCH_BRK_REQ = 1) ∧ (s.dev.get GCH_BRK_PATH = 0) ∧
    ((s.dev.get SYS_CLKSTAT_PLLC_ST ≠ 2 ∨ ((s.dev.carAt 2).onPhase = false ∧
    (s.dev.carAt 2).earliest + s.dev.brakeOffNs + 5000 ≤ s.dev.mono)))) ∧
  (let s : State := { dev := { Test.dev [(CLU_STAT_STATE 1, 5), (PWM_COFF_PAT 1, 9)] with thm := { windGrp := some 1 } } };
    let g : Fin 2 := 1; (s.powered) ∧ (s.dev.windOf g = true) ∧ (s.dev.get (PWM_STAT_MODE g) ≠ 3) ∧
    ((s.dev.get (CLU_STAT_STATE g) = 0 ∨ s.dev.get (CLU_STAT_STATE g) = 5))) ∧
  (let s : State := { dev := { Test.dev [(PWM_STAT_MODE 0, 3), (PWM_COFF_PAT 0, 1)] with car := [(0, { onPhase := true, cmd := 1 })] } };
    let c : Fin 2 := 0; (s.powered) ∧ (s.dev.get (PWM_STAT_MODE c) = 3) ∧ ((s.dev.carAt c).onPhase = true) ∧
    (s.dev.bit (PWM_STAT_FROZEN c) = false)) ∧
  (let s : State := { dev := { Test.dev [(PWM_STAT_MODE 0, 3), (PWM_COFF_PAT 0, 1)] with car := [(0, { offPhase := true })] } };
    let c : Fin 2 := 0; (s.powered) ∧ (s.dev.get (PWM_STAT_MODE c) = 3) ∧ ((s.dev.carAt c).offPhase = true) ∧
    (s.dev.bit (PWM_STAT_FROZEN c) = false)) ∧
  (let s : State := { dev := { Test.dev [(PWM_STAT_MODE 1, 3)] with thm := { windGrp := some 1 } } };
    let g : Fin 2 := 1; (s.powered) ∧ (s.dev.thm.windGrp = some g.val) ∧ (s.dev.six = false)) ∧
  (let s : State := Test.st [(DBG_STAT_ACCESS, 1)]; (s.powered) ∧ (s.dev.get DBG_STAT_ACCESS = 1)) ∧
  (let s : State := Test.st [(DBG_STAT_HALTED, 15)]; (s.powered)) := by
  refine ⟨?_, ?_, ?_, ?_, ?_, ?_, ?_, ?_, ?_, ?_, ?_, ?_⟩ <;> decide +kernel

theorem witness_gateFaultsComplete :
  (let s : State := { dev := { Test.dev [(GCH_STAT_STATE 3, 2)] with mono := 100000, gch := [(3, { powered := true, link := true, sync := true, gate := true })] } };
    let n : Fin 14 := 3; (s.powered) ∧ ((s.dev.gchAt n).powered = true) ∧ ((s.dev.gchAt n).link = true) ∧
    ((s.dev.gchAt n).sync = true) ∧ (s.dev.get (GCH_STAT_STATE n) = 2)) ∧
  (let s : State := { dev := { Test.dev [(GCH_STAT_STATE 13, 2)] with mono := 100000, gch := [(13, { powered := true, link := true, sync := true, gate := true })] } };
    let n : Fin 14 := 13; (s.powered) ∧ ((s.dev.gchAt n).powered = true) ∧ ((s.dev.gchAt n).link = true) ∧
    ((s.dev.gchAt n).sync = true) ∧ (s.dev.get (GCH_STAT_STATE n) = 2) ∧
    ((s.dev.gchAt n).onAt + clampN 100 2000 (s.dev.get (GCH_DS_DS_BLANK n)) ≤ s.dev.mono)) ∧
  (let s : State := { dev := { Test.dev [(GCH_STAT_STATE 0, 2)] with mono := 100000, gch := [(0, { powered := true, link := true, sync := true, gate := true })] } };
    let n : Fin 14 := 0; (s.powered) ∧ ((s.dev.gchAt n).powered = true) ∧ ((s.dev.gchAt n).link = true) ∧
    ((s.dev.gchAt n).sync = true) ∧ (s.dev.get (GCH_STAT_STATE n) = 2) ∧ ((s.dev.gchAt n).running = false) ∧
    ((s.dev.gchAt n).blankEnd ≤ s.dev.mono)) ∧
  (let s : State := { dev := { Test.dev [(GCH_STAT_STATE 12, 2)] with mono := 100000, gch := [(12, { powered := true, link := true, sync := true, gate := true })] } };
    let n : Fin 14 := 12; let x : Fin 3 := 2; let vpos : BitVec 8 := 150; let vneg : BitVec 8 := 30; (s.powered) ∧
    ((s.dev.gchAt n).powered = true) ∧ ((s.dev.gchAt n).link = true) ∧ ((s.dev.gchAt n).sync = true) ∧
    (s.dev.get (GCH_STAT_STATE n) = 2) ∧ (s.dev.supplyOut n x vpos vneg = true)) ∧
  (let s : State := { dev := { Test.dev [(GCH_STAT_STATE 11, 2)] with mono := 100000, gch := [(11, { powered := true, link := true, sync := true, gate := true })] } };
    let n : Fin 14 := 11; let high : Bool := false; (s.powered) ∧ ((s.dev.gchAt n).powered = true) ∧
    ((s.dev.gchAt n).link = true) ∧ ((s.dev.gchAt n).sync = true) ∧ (s.dev.get (GCH_STAT_STATE n) = 2) ∧
    ((s.dev.gchAt n).running = false) ∧ ((s.dev.gchAt n).gate = !high) ∧
    ((if high then (s.dev.gchAt n).offAt else (s.dev.gchAt n).onAt) + clampN 200 5000 (s.dev.get (GCH_SUP_MIS_NS n)) ≤ s.dev.mono)) ∧
  (let s : State := { dev := { Test.dev [(GCH_STAT_STATE 5, 2)] with mono := 100000, gch := [(5, { powered := true, link := true, sync := true, gate := true })] } };
    let n : Fin 14 := 5; (s.powered) ∧ ((s.dev.gchAt n).powered = true) ∧ ((s.dev.gchAt n).link = true) ∧
    ((s.dev.gchAt n).sync = true) ∧ (s.dev.get (GCH_STAT_STATE n) = 2) ∧ ((s.dev.gchAt n).running = false)) ∧
  (let s : State := { dev := { Test.dev [(GCH_STAT_STATE 7, 2)] with mono := 100000, gch := [(7, { powered := true, link := true, sync := true, gate := true })] } };
    let n : Fin 14 := 7; (s.powered) ∧ ((s.dev.gchAt n).powered = true) ∧ ((s.dev.gchAt n).link = true) ∧
    ((s.dev.gchAt n).sync = true) ∧ (s.dev.get (GCH_STAT_STATE n) = 2) ∧ ((s.dev.gchAt n).running = false) ∧
    ((s.dev.gchAt n).gate = true)) ∧
  (let s : State := { dev := { Test.dev [(GCH_STAT_STATE 3, 3)] with mono := 100000, gch := [(3, { })] } };
    let n : Fin 14 := 3; (s.powered) ∧ (s.dev.get (GCH_STAT_STATE n) = 3)) := by decide +kernel

theorem witness_gateChannelEventsComplete :
  (let s : State := { dev := { Test.dev [] with mono := 100000, gch := [(3, { powered := true, link := true, sync := true, gate := true, cause := 0x18 })] } };
    let n : Fin 14 := 3; let vpos : BitVec 8 := 151; let vneg : BitVec 8 := -50; (s.powered) ∧
    ((s.dev.gchAt n).powered = true) ∧ ((s.dev.gchAt n).link = true) ∧
    (((List.range 3).any fun k => s.dev.supplyOut n k vpos vneg) = false)) ∧
  (let s : State := { dev := { Test.dev [(GCH_STAT_STATE 13, 7)] with mono := 100000, gch := [(13, { powered := true, link := true, sync := true, gate := true })] } };
    (s.powered)) ∧
  (let s : State := { dev := { Test.dev [] with mono := 100000, gch := [(3, { powered := true, link := true, sync := true, gate := true })] } };
    let n : Fin 14 := 3; (s.powered) ∧ ((s.dev.gchAt n).powered = true) ∧ ((s.dev.gchAt n).link = true)) ∧
  (let s : State := { dev := { Test.dev [(GCH_STAT_STATE 4, 2)] with mono := 100000, gch := [(4, { edge := some true, link := true, permit1 := true, permit2 := true })] } };
    let n : Fin 14 := 4; (s.powered) ∧ ((s.dev.gchAt n).edge = some true) ∧ (s.dev.get (GCH_STAT_STATE n) = 2) ∧
    (s.dev.permits n = true)) ∧
  (let s : State := { dev := { Test.dev [(GCH_STAT_STATE 4, 2)] with mono := 100000, gch := [(4, { edge := some false, link := true, gate := true })] } };
    let n : Fin 14 := 4; (s.powered) ∧ ((s.dev.gchAt n).edge = some false) ∧ (s.dev.get (GCH_STAT_STATE n) = 2) ∧
    ((s.dev.gchAt n).link = true)) ∧
  (let s : State := Test.st [(GCH_CFG_LEARN 8, 1), (GCH_STAT_STATE 8, 2), (CLU_STAT_STATE 1, 3),
    (GCH_CFG_LEARN_BINS 8, 1)]; let n : Fin 12 := 8; let x : BitVec 10 := 1000; let code : BitVec 10 := 3;
    let v : BitVec 16 := 2000; (s.powered) ∧ (s.dev.bit (GCH_CFG_LEARN n) = true) ∧ (s.dev.paired = false) ∧
    (s.dev.get (GCH_STAT_STATE n) = 2) ∧ (s.dev.get (CLU_STAT_STATE (s.dev.groupOf n)) = 3) ∧
    (s.dev.get (GCH_DS_VDS_MIN n) ≤ v.toNat) ∧ (s.dev.binOf n code.toNat = (s.dev.gchAt n).lastOn) ∧
    (s.dev.tb (GCH_CFG_LEARN_BINS n) (s.dev.gchAt n).lastOn = true) ∧
    (2 * max 2 (s.dev.get (GCH_CFG_TGT_ON n)) + s.dev.get (GCH_CFG_BAND n) < x.toNat) ∧
    (s.dev.segOf n true < clampN 1 24 (s.dev.get (GCH_CFG_SEG_MAX n)))) ∧
  (let s : State := Test.st []; (s.powered)) ∧
  (let s : State := { dev := { Test.dev [] with mono := 100000, gch := [(13, { powered := true })] } };
    let n : Fin 14 := 13; (s.powered) ∧ (s.dev.canTrain n = true) ∧ (s.dev.tb SYS_GLINK_FAIL n = false)) ∧
  (let s : State := { dev := { Test.dev [] with mono := 100000, gch := [(3, { })] } }; let n : Fin 14 := 3;
    (s.powered) ∧ (s.dev.active = true) ∧ (s.dev.used n = true) ∧ (s.dev.trained n = false)) ∧
  (let s : State := { dev := { Test.dev [(SYS_GLINK_FAIL, 8)] with mono := 100000, gch := [(3, { powered := true, trainFailed := true })] } };
    let n : Fin 14 := 3; (s.powered) ∧ (s.dev.canTrain n = true) ∧ (s.dev.tb SYS_GLINK_FAIL n = true) ∧
    ((s.dev.gchAt n).trainFailed = true)) ∧
  (let s : State := { dev := { Test.dev [(GCH_STAT_STATE 3, 2)] with mono := 100000, gch := [(3, { powered := true, link := true, sync := true, gate := true, trainedOnce := true })] } };
    let n : Fin 14 := 3; (s.powered) ∧ ((s.dev.gchAt n).powered = true) ∧ ((s.dev.gchAt n).trainedOnce = true) ∧
    (n.val ≠ 13) ∧ (s.dev.get (GCH_STAT_STATE n) = 2)) ∧
  (let s : State := { dev := { Test.dev [(SYS_GLINK_TRAINED, 8)] with mono := 100000, gch := [(3, { powered := true, link := true, sync := true, gate := true })] } };
    let n : Fin 14 := 3; (s.powered) ∧ (s.dev.trained n = true)) := by
  refine ⟨?_, ?_, ?_, ?_, ?_, ?_, ?_, ?_, ?_, ?_, ?_, ?_⟩ <;> decide +kernel

theorem witness_gateEnableAndDischargeComplete :
  (let s : State := Test.st [(GCH_STAT_STATE 7, 2), (GCH_STAT_STATE 8, 5), (CLU_STAT_STATE 1, 3)];
    let g : Fin 2 := 1; (s.powered) ∧ (s.dev.six = false) ∧ (s.dev.selAsc g = false)) ∧
  (let s : State := Test.st [(GCH_ASC_MODE0, 3), (GCH_STAT_STATE 2, 5)]; let g : Fin 2 := 0; (s.powered) ∧
    (s.dev.six = false) ∧ (s.dev.selAsc g = false) ∧ (2 ≤ s.dev.get (ascMode g))) ∧
  (let s : State := Test.st [(GCH_GEN_LEVEL, 1)]; (s.powered) ∧ (s.dev.get GCH_GEN_LEVEL = 1)) ∧
  (let s : State := Test.st [(GCH_GEN_LEVEL, 0), (GCH_STAT_STATE 0, 2), (GCH_STAT_STATE 13, 7)]; (s.powered) ∧
    (s.dev.get GCH_GEN_LEVEL = 0)) ∧
  (let s : State := Test.st [(GCH_GEN_LEVEL, 0), (GCH_GEN_DISABLED, 1)]; (s.powered) ∧
    (s.dev.get GCH_GEN_LEVEL = 0) ∧ (s.dev.get GCH_GEN_DISABLED = 1)) ∧
  (let s : State := { dev := { Test.dev [(GCH_GEN_LEVEL, 0), (GCH_STAT_STATE 3, 4)] with gch := [(3, { latch := 9, cause := 8 })] } };
    let low : BitVec 32 := 5250; (s.powered) ∧ (s.dev.get GCH_GEN_LEVEL = 0) ∧ (s.dev.get GCH_GEN_DISABLED = 0) ∧
    (5250 ≤ low.toNat) ∧ (low.toNat ≤ 39750)) ∧
  (let s : State := Test.st [(GCH_GEN_LEVEL, 0)]; let low : BitVec 32 := 4749; (s.powered) ∧
    (s.dev.get GCH_GEN_LEVEL = 0) ∧ (s.dev.get GCH_GEN_DISABLED = 0) ∧ (low.toNat < 4750)) ∧
  (let s : State := { dev := { Test.dev [(GCH_STAT_STATE 13, 6)] with gch := [(13, { powered := true, armed := true })] } };
    (s.powered) ∧ ((s.dev.gchAt 13).powered = true) ∧ ((s.dev.gchAt 13).armed = true) ∧
    ((s.dev.gchAt 13).running = false) ∧ ((s.dev.gchAt 13).link = false) ∧ (s.dev.get (GCH_STAT_STATE 13) = 6)) ∧
  (let s : State := { dev := { Test.dev [(GCH_STAT_STATE 13, 7)] with gch := [(13, { running := true, gate := true })] } };
    (s.powered) ∧ ((s.dev.gchAt 13).running = true)) := by
  refine ⟨?_, ?_, ?_, ?_, ?_, ?_, ?_, ?_, ?_⟩ <;> decide +kernel

theorem witness_engineOperationsComplete :
  (let s : State := { dev := { Test.dev [(⟨A_CEN_PROG 5 0, 0, 64⟩, 283686951976960), (CEN_SSTAT_STATE 5, 2), (CEN_SSTAT_START 5, 1), (⟨A_CEN_ST 5 2, 0, 64⟩, 30064771072), (⟨A_CEN_ST 5 3, 0, 64⟩, 21474836480)] with slc := [(5, { k := 9 })] } };
    let n : Fin 64 := 5; let o : Oper := { d := 1, a := 2, b := 3, c := 4, aux := 0 }; (s.clocked 1) ∧
    (s.dev.operNow n 0x00 = some o)) ∧
  (let s : State := { dev := { Test.dev [(⟨A_CEN_PROG 5 0, 0, 64⟩, 288514063103688704), (CEN_SSTAT_STATE 5, 2), (CEN_SSTAT_START 5, 1), (⟨A_CEN_ST 5 2, 0, 64⟩, 30064771072), (⟨A_CEN_ST 5 3, 0, 64⟩, 21474836480)] with slc := [(5, { k := 9 })] } };
    let n : Fin 64 := 5; let o : Oper := { d := 1, a := 2, b := 3, c := 4, aux := 0 }; (s.clocked 1) ∧
    (s.dev.operNow n 0x01 = some o) ∧ (s.dev.noPending n [o.a, o.d] = true) ∧ (s.dev.sbUsed n + 1 ≤ 64)) ∧
  (let s : State := { dev := { Test.dev [(⟨A_CEN_PROG 5 0, 0, 64⟩, 576744439255400448), (CEN_SSTAT_STATE 5, 2), (CEN_SSTAT_START 5, 1), (⟨A_CEN_ST 5 2, 0, 64⟩, 30064771072), (⟨A_CEN_ST 5 3, 0, 64⟩, 21474836480)] with slc := [(5, { k := 9 })] } };
    let n : Fin 64 := 5; let o : Oper := { d := 1, a := 2, b := 3, c := 4, aux := 0 }; (s.clocked 1) ∧
    (s.dev.operNow n 0x02 = some o) ∧ (s.dev.noPending n [o.a, o.b, o.d] = true) ∧ (s.dev.sbUsed n + 1 ≤ 64)) ∧
  (let s : State := { dev := { Test.dev [(⟨A_CEN_PROG 5 0, 0, 64⟩, 864974815407112192), (CEN_SSTAT_STATE 5, 2), (CEN_SSTAT_START 5, 1), (⟨A_CEN_ST 5 2, 0, 64⟩, 30064771072), (⟨A_CEN_ST 5 3, 0, 64⟩, 21474836480)] with slc := [(5, { k := 9 })] } };
    let n : Fin 64 := 5; let o : Oper := { d := 1, a := 2, b := 3, c := 4, aux := 0 }; (s.clocked 1) ∧
    (s.dev.operNow n 0x03 = some o) ∧ (s.dev.noPending n [o.a, o.b, o.d] = true) ∧ (s.dev.sbUsed n + 1 ≤ 64)) ∧
  (let s : State := { dev := { Test.dev [(⟨A_CEN_PROG 5 0, 0, 64⟩, 1153205191558823936), (CEN_SSTAT_STATE 5, 2), (CEN_SSTAT_START 5, 1), (⟨A_CEN_ST 5 2, 0, 64⟩, 30064771072), (⟨A_CEN_ST 5 3, 0, 64⟩, 21474836480)] with slc := [(5, { k := 9 })] } };
    let n : Fin 64 := 5; let o : Oper := { d := 1, a := 2, b := 3, c := 4, aux := 0 }; (s.clocked 1) ∧
    (s.dev.operNow n 0x04 = some o) ∧ (s.dev.noPending n [o.a, o.d] = true) ∧ (s.dev.sbUsed n + 1 ≤ 64)) ∧
  (let s : State := { dev := { Test.dev [(⟨A_CEN_PROG 5 0, 0, 64⟩, 1441435567710535680), (CEN_SSTAT_STATE 5, 2), (CEN_SSTAT_START 5, 1), (⟨A_CEN_ST 5 2, 0, 64⟩, 30064771072), (⟨A_CEN_ST 5 3, 0, 64⟩, 21474836480)] with slc := [(5, { k := 9 })] } };
    let n : Fin 64 := 5; let o : Oper := { d := 1, a := 2, b := 3, c := 4, aux := 0 }; (s.clocked 1) ∧
    (s.dev.operNow n 0x05 = some o) ∧ (s.dev.noPending n [o.a, o.d] = true) ∧ (s.dev.sbUsed n + 1 ≤ 64)) ∧
  (let s : State := { dev := { Test.dev [(⟨A_CEN_PROG 5 0, 0, 64⟩, 1729665943862247424), (CEN_SSTAT_STATE 5, 2), (CEN_SSTAT_START 5, 1), (⟨A_CEN_ST 5 2, 0, 64⟩, 30064771072), (⟨A_CEN_ST 5 3, 0, 64⟩, 21474836480)] with slc := [(5, { k := 9 })] } };
    let n : Fin 64 := 5; let o : Oper := { d := 1, a := 2, b := 3, c := 4, aux := 0 }; (s.clocked 1) ∧
    (s.dev.operNow n 0x06 = some o) ∧ (s.dev.noPending n [o.a, o.b, o.d] = true) ∧ (s.dev.sbUsed n + 1 ≤ 64)) ∧
  (let s : State := { dev := { Test.dev [(⟨A_CEN_PROG 5 0, 0, 64⟩, 2017896320013959168), (CEN_SSTAT_STATE 5, 2), (CEN_SSTAT_START 5, 1), (⟨A_CEN_ST 5 2, 0, 64⟩, 30064771072), (⟨A_CEN_ST 5 3, 0, 64⟩, 21474836480)] with slc := [(5, { k := 9 })] } };
    let n : Fin 64 := 5; let o : Oper := { d := 1, a := 2, b := 3, c := 4, aux := 0 }; (s.clocked 1) ∧
    (s.dev.operNow n 0x07 = some o) ∧ (s.dev.noPending n [o.a, o.b, o.d] = true) ∧ (s.dev.sbUsed n + 1 ≤ 64)) ∧
  (let s : State := { dev := { Test.dev [(⟨A_CEN_PROG 5 0, 0, 64⟩, 2306126696165670912), (CEN_SSTAT_STATE 5, 2), (CEN_SSTAT_START 5, 1), (⟨A_CEN_ST 5 2, 0, 64⟩, 30064771072), (⟨A_CEN_ST 5 3, 0, 64⟩, 21474836480)] with slc := [(5, { k := 9 })] } };
    let n : Fin 64 := 5; let o : Oper := { d := 1, a := 2, b := 3, c := 4, aux := 0 }; (s.clocked 1) ∧
    (s.dev.operNow n 0x08 = some o) ∧ (s.dev.noPending n [o.a, o.b, o.c, o.d] = true) ∧ (s.dev.sbUsed n + 1 ≤ 64)) ∧
  (let s : State := { dev := { Test.dev [(⟨A_CEN_PROG 5 0, 0, 64⟩, 2594357072317382656), (CEN_SSTAT_STATE 5, 2), (CEN_SSTAT_START 5, 1), (⟨A_CEN_ST 5 2, 0, 64⟩, 30064771072), (⟨A_CEN_ST 5 3, 0, 64⟩, 21474836480)] with slc := [(5, { k := 9 })] } };
    let n : Fin 64 := 5; let o : Oper := { d := 1, a := 2, b := 3, c := 4, aux := 0 }; (s.clocked 1) ∧
    (s.dev.operNow n 0x09 = some o) ∧ (s.dev.noPending n [o.a, o.b, o.c, o.d] = true) ∧ (s.dev.sbUsed n + 1 ≤ 64)) ∧
  (let s : State := { dev := { Test.dev [(⟨A_CEN_PROG 5 0, 0, 64⟩, 2882587448469094400), (CEN_SSTAT_STATE 5, 2), (CEN_SSTAT_START 5, 1), (⟨A_CEN_ST 5 2, 0, 64⟩, 30064771072), (⟨A_CEN_ST 5 3, 0, 64⟩, 21474836480)] with slc := [(5, { k := 9 })] } };
    let n : Fin 64 := 5; let o : Oper := { d := 1, a := 2, b := 3, c := 4, aux := 0 }; (s.clocked 1) ∧
    (s.dev.operNow n 0x0A = some o) ∧ (s.dev.noPending n [o.a, o.d] = true) ∧ (s.dev.sbUsed n + 1 ≤ 64)) ∧
  (let s : State := { dev := { Test.dev [(⟨A_CEN_PROG 5 0, 0, 64⟩, 5476660833834500096), (CEN_SSTAT_STATE 5, 2), (CEN_SSTAT_START 5, 1), (⟨A_CEN_ST 5 2, 0, 64⟩, 30064771072), (⟨A_CEN_ST 5 3, 0, 64⟩, 21474836480)] with slc := [(5, { k := 9 })] } };
    let n : Fin 64 := 5; let o : Oper := { d := 1, a := 2, b := 3, c := 4, aux := 0 }; (s.clocked 1) ∧
    (s.dev.operNow n 0x13 = some o) ∧ (s.dev.noPending n [o.a] = true) ∧ (s.dev.macDone n = true)) ∧
  (let s : State := { dev := { Test.dev [(⟨A_CEN_PROG 5 0, 0, 64⟩, 5764891209986211840), (CEN_SSTAT_STATE 5, 2), (CEN_SSTAT_START 5, 1), (⟨A_CEN_ST 5 2, 0, 64⟩, 30064771072), (⟨A_CEN_ST 5 3, 0, 64⟩, 21474836480)] with slc := [(5, { k := 9 , acc := 3 * 2 ^ 63 })] } };
    let n : Fin 64 := 5; let o : Oper := { d := 1, a := 2, b := 3, c := 4, aux := 0 }; (s.clocked 1) ∧
    (s.dev.operNow n 0x14 = some o) ∧ (s.dev.noPending n [o.d] = true) ∧ (s.dev.sbUsed n + 1 ≤ 64) ∧
    (s.dev.macDone n = true)) ∧
  (let s : State := { dev := { Test.dev [(⟨A_CEN_PROG 5 0, 0, 64⟩, 14123572118385852419), (CEN_SSTAT_STATE 5, 2), (CEN_SSTAT_START 5, 1), (⟨A_CEN_ST 5 2, 0, 64⟩, 30064771072), (⟨A_CEN_ST 5 3, 0, 64⟩, 21474836480)] with slc := [(5, { k := 9 })] } };
    let n : Fin 64 := 5; let o : Oper := { d := 1, a := 2, b := 3, c := 4, aux := 3 }; (s.clocked 1) ∧
    (s.dev.operNow n 0x31 = some o) ∧ (s.dev.noPending n [o.a] = true)) ∧
  (let s : State := { dev := { Test.dev [(⟨A_CEN_PROG 5 0, 0, 64⟩, 16141184751447834627), (CEN_SSTAT_STATE 5, 2), (CEN_SSTAT_START 5, 1), (⟨A_CEN_ST 5 2, 0, 64⟩, 30064771072), (⟨A_CEN_ST 5 3, 0, 64⟩, 21474836480)] with slc := [(5, { k := 9 })] } };
    let n : Fin 64 := 5; let o : Oper := { d := 1, a := 2, b := 3, c := 4, aux := 3 }; (s.clocked 1) ∧
    (s.dev.operNow n 0x38 = some o) ∧ (s.dev.noPending n [o.a] = true) ∧ (0 ≤ s.dev.stw n o.a)) ∧
  (let s : State := { dev := { Test.dev [(⟨A_CEN_PROG 5 0, 0, 64⟩, 4611969705379364864), (CEN_SSTAT_STATE 5, 2), (CEN_SSTAT_START 5, 1), (⟨A_CEN_ST 5 2, 0, 64⟩, 30064771072), (⟨A_CEN_ST 5 3, 0, 64⟩, 21474836480)] with slc := [(5, { k := 9 })] } };
    let n : Fin 64 := 5; let o : Oper := { d := 1, a := 2, b := 3, c := 4, aux := 0 }; (s.clocked 1) ∧
    (s.dev.operNow n 0x10 = some o) ∧ (s.dev.noPending n [o.a, o.b, o.d] = true) ∧ (s.dev.sbUsed n + 1 ≤ 64)) ∧
  (let s : State := { dev := { Test.dev [(⟨A_CEN_PROG 5 0, 0, 64⟩, 4900200081531076608), (CEN_SSTAT_STATE 5, 2), (CEN_SSTAT_START 5, 1), (⟨A_CEN_ST 5 2, 0, 64⟩, 30064771072), (⟨A_CEN_ST 5 3, 0, 64⟩, 21474836480)] with slc := [(5, { k := 9 })] } };
    let n : Fin 64 := 5; let o : Oper := { d := 1, a := 2, b := 3, c := 4, aux := 0 }; (s.clocked 1) ∧
    (s.dev.operNow n 0x11 = some o) ∧ (s.dev.noPending n [o.a, o.b] = true) ∧ (s.dev.sbUsed n + 1 ≤ 64)) ∧
  (let s : State := { dev := { Test.dev [(⟨A_CEN_PROG 5 0, 0, 64⟩, 5188430457682788352), (CEN_SSTAT_STATE 5, 2), (CEN_SSTAT_START 5, 1), (⟨A_CEN_ST 5 2, 0, 64⟩, 30064771072), (⟨A_CEN_ST 5 3, 0, 64⟩, 21474836480)] with slc := [(5, { k := 9 })] } };
    let n : Fin 64 := 5; let o : Oper := { d := 1, a := 2, b := 3, c := 4, aux := 0 }; (s.clocked 1) ∧
    (s.dev.operNow n 0x12 = some o) ∧ (s.dev.noPending n [o.a, o.b] = true) ∧ (s.dev.sbUsed n + 1 ≤ 64)) ∧
  (let s : State := { dev := { Test.dev [(⟨A_CEN_PROG 5 0, 0, 64⟩, 6917812714593058817), (CEN_SSTAT_STATE 5, 2), (CEN_SSTAT_START 5, 1), (⟨A_CEN_ST 5 2, 0, 64⟩, 30064771072), (⟨A_CEN_ST 5 3, 0, 64⟩, 21474836480)] with slc := [(5, { k := 9 })] } };
    let n : Fin 64 := 5; let o : Oper := { d := 1, a := 2, b := 3, c := 4, aux := 1 }; (s.clocked 1) ∧
    (s.dev.operNow n 0x18 = some o) ∧ (s.dev.noPending n (rdTab o ++ [o.d]) = true) ∧ (s.dev.sbUsed n + 1 ≤ 64)) ∧
  (let s : State := { dev := { Test.dev [(⟨A_CEN_PROG 5 0, 0, 64⟩, 9223655723806752768), (CEN_SSTAT_STATE 5, 2), (CEN_SSTAT_START 5, 1), (⟨A_CEN_ST 5 2, 0, 64⟩, 30064771072), (⟨A_CEN_ST 5 3, 0, 64⟩, 21474836480)] with slc := [(5, { k := 9 })] } };
    let n : Fin 64 := 5; let o : Oper := { d := 1, a := 2, b := 3, c := 4, aux := 0 }; (s.clocked 1) ∧
    (s.dev.operNow n 0x20 = some o) ∧ (s.dev.noPending n [o.a, o.b, o.d] = true) ∧ (s.dev.sbUsed n + 1 ≤ 64)) ∧
  (let s : State := { dev := { Test.dev [(⟨A_CEN_PROG 5 0, 0, 64⟩, 9223655723806752768), (CEN_SSTAT_STATE 5, 2), (CEN_SSTAT_START 5, 1), (⟨A_CEN_ST 5 2, 0, 64⟩, 5)] with slc := [(5, { k := 9 })] } };
    let n : Fin 64 := 5; let o : Oper := { d := 1, a := 2, b := 3, c := 4, aux := 0 }; (s.clocked 1) ∧
    (s.dev.operNow n 0x20 = some o) ∧ (s.dev.noPending n [o.a, o.b, o.d] = true) ∧ (s.dev.sbUsed n + 1 ≤ 64) ∧
    (s.dev.stw n o.b = 0) ∧ (s.dev.bit (CEN_SCFG_EVT_FLT n) = false)) ∧
  (let s : State := { dev := { Test.dev [(⟨A_CEN_PROG 5 0, 0, 64⟩, 9511886099958464512), (CEN_SSTAT_STATE 5, 2), (CEN_SSTAT_START 5, 1), (⟨A_CEN_ST 5 2, 0, 64⟩, 30064771072), (⟨A_CEN_ST 5 3, 0, 64⟩, 21474836480)] with slc := [(5, { k := 9 })] } };
    let n : Fin 64 := 5; let o : Oper := { d := 1, a := 2, b := 3, c := 4, aux := 0 }; (s.clocked 1) ∧
    (s.dev.operNow n 0x21 = some o) ∧ (s.dev.noPending n [o.a, o.d] = true) ∧ (s.dev.sbUsed n + 1 ≤ 64)) ∧
  (let s : State := { dev := { Test.dev [(⟨A_CEN_PROG 5 0, 0, 64⟩, 10376577228413599744), (CEN_SSTAT_STATE 5, 2), (CEN_SSTAT_START 5, 1), (⟨A_CEN_ST 5 2, 0, 64⟩, 30064771072), (⟨A_CEN_ST 5 3, 0, 64⟩, 21474836480)] with slc := [(5, { k := 9 })] } };
    let n : Fin 64 := 5; let o : Oper := { d := 1, a := 2, b := 3, c := 4, aux := 0 }; (s.clocked 1) ∧
    (s.dev.operNow n 0x24 = some o) ∧ (s.dev.noPending n [o.a, o.d, o.d + 1] = true) ∧ (s.dev.sbUsed n + 2 ≤ 64)) ∧
  (let s : State := { dev := { Test.dev [(⟨A_CEN_PROG 5 0, 0, 64⟩, 10664807604565311488), (CEN_SSTAT_STATE 5, 2), (CEN_SSTAT_START 5, 1), (⟨A_CEN_ST 5 2, 0, 64⟩, 30064771072), (⟨A_CEN_ST 5 3, 0, 64⟩, 21474836480)] with slc := [(5, { k := 9 })] } };
    let n : Fin 64 := 5; let o : Oper := { d := 1, a := 2, b := 3, c := 4, aux := 0 }; (s.clocked 1) ∧
    (s.dev.operNow n 0x25 = some o) ∧ (s.dev.noPending n [o.a, o.b, o.d] = true) ∧ (s.dev.sbUsed n + 1 ≤ 64)) ∧
  (let s : State := { dev := { Test.dev [(⟨A_CEN_PROG 5 0, 0, 64⟩, 10953037980717023232), (CEN_SSTAT_STATE 5, 2), (CEN_SSTAT_START 5, 1), (⟨A_CEN_ST 5 2, 0, 64⟩, 30064771072), (⟨A_CEN_ST 5 3, 0, 64⟩, 21474836480)] with slc := [(5, { k := 9 })] } };
    let n : Fin 64 := 5; let o : Oper := { d := 1, a := 2, b := 3, c := 4, aux := 0 }; (s.clocked 1) ∧
    (s.dev.operNow n 0x26 = some o) ∧ (s.dev.noPending n [o.a, o.b, o.d] = true) ∧ (s.dev.sbUsed n + 1 ≤ 64)) ∧
  (let s : State := { dev := { Test.dev [(⟨A_CEN_PROG 5 0, 0, 64⟩, 11529498733020446720), (CEN_SSTAT_STATE 5, 2), (CEN_SSTAT_START 5, 1), (⟨A_CEN_ST 5 2, 0, 64⟩, 4294967296), (⟨A_CEN_ST 5 3, 0, 64⟩, 4294967296), (⟨A_CEN_ST 5 4, 0, 64⟩, 0)] with slc := [(5, { k := 9 })] } };
    let n : Fin 64 := 5; let o : Oper := { d := 1, a := 2, b := 3, c := 4, aux := 0 }; let y : Int := 4294967296;
    let p : Int := 0; let q : Int := 0; (s.clocked 1) ∧ (s.dev.operNow n 0x28 = some o) ∧
    (s.dev.noPending n (rdBiq o ++ [o.c, o.c + 1, o.d]) = true) ∧ (s.dev.sbUsed n + 3 ≤ 64) ∧
    (biq (s.dev.slStart n) (s.dev.stw n o.a) (s.dev.stw n o.b) (s.dev.stw n (o.b + 1)) (s.dev.stw n (o.b + 2)) (s.dev.stw n (o.b + 3)) (s.dev.stw n (o.b + 4)) (s.dev.stw n o.c) (s.dev.stw n (o.c + 1)) = (y,
    p, q))) ∧
  (let s : State := { dev := { Test.dev [(⟨A_CEN_PROG 5 0, 0, 64⟩, 11817729109172158464), (CEN_SSTAT_STATE 5, 2), (CEN_SSTAT_START 5, 1), (⟨A_CEN_ST 5 2, 0, 64⟩, 30064771072), (⟨A_CEN_ST 5 3, 0, 64⟩, 21474836480)] with slc := [(5, { k := 9 })] } };
    let n : Fin 64 := 5; let o : Oper := { d := 1, a := 2, b := 3, c := 4, aux := 0 }; (s.clocked 1) ∧
    (s.dev.operNow n 0x29 = some o) ∧ (s.dev.noPending n [o.a, o.b, o.c, o.d] = true) ∧ (s.dev.sbUsed n + 1 ≤ 64) ∧
    (s.dev.slStart n = true)) ∧
  (let s : State := { dev := { Test.dev [(⟨A_CEN_PROG 5 0, 0, 64⟩, 11817729109172158464), (CEN_SSTAT_STATE 5, 2), (⟨A_CEN_ST 5 2, 0, 64⟩, 30064771072), (⟨A_CEN_ST 5 3, 0, 64⟩, 21474836480)] with slc := [(5, { k := 9 })] } };
    let n : Fin 64 := 5; let o : Oper := { d := 1, a := 2, b := 3, c := 4, aux := 0 }; (s.clocked 1) ∧
    (s.dev.operNow n 0x29 = some o) ∧ (s.dev.noPending n [o.a, o.b, o.c, o.d] = true) ∧ (s.dev.sbUsed n + 1 ≤ 64) ∧
    (s.dev.slStart n = false)) ∧
  (let s : State := { dev := { Test.dev [(⟨A_CEN_PROG 5 0, 0, 64⟩, 12105959485323870208), (CEN_SSTAT_STATE 5, 2), (CEN_SSTAT_START 5, 1), (⟨A_CEN_ST 5 2, 0, 64⟩, 4294967296), (⟨A_CEN_ST 5 3, 0, 64⟩, 0), (⟨A_CEN_ST 5 4, 0, 64⟩, 4294967296), (⟨A_CEN_ST 5 8, 0, 64⟩, 17179869184)] with slc := [(5, { k := 9 })] } };
    let n : Fin 64 := 5; let o : Oper := { d := 1, a := 2, b := 3, c := 4, aux := 0 }; let y : Int := 4294967296;
    let i : Int := 0; (s.clocked 1) ∧ (s.dev.operNow n 0x2A = some o) ∧
    (s.dev.noPending n ((o.a :: o.b :: (List.range 7).map (o.c + ·)) ++ [o.c + 2, o.d]) = true) ∧
    (s.dev.sbUsed n + 2 ≤ 64) ∧
    (piLaw (s.dev.stw n o.a) (s.dev.stw n o.b) (s.dev.stw n o.c) (s.dev.stw n (o.c + 1)) (s.dev.stw n (o.c + 2)) (s.dev.stw n (o.c + 3)) (s.dev.stw n (o.c + 4)) (s.dev.stw n (o.c + 5)) (s.dev.stw n (o.c + 6)) = (y,
    i))) ∧
  (let s : State := { dev := { Test.dev [(⟨A_CEN_PROG 5 0, 0, 64⟩, 13835341742234599427), (CEN_SSTAT_STATE 5, 2), (CEN_SSTAT_START 5, 1)] with slc := [(5, { k := 9 })] } };
    let n : Fin 64 := 5; let o : Oper := { d := 1, a := 2, b := 3, c := 4, aux := 458755 }; (s.clocked 1) ∧
    (s.dev.operNow n 0x30 = some o) ∧ (s.dev.noPending n [o.d] = true) ∧ (s.dev.sbUsed n + 1 ≤ 64)) := by
  refine ⟨?_, ?_, ?_, ?_, ?_, ?_, ?_, ?_, ?_, ?_, ?_, ?_, ?_, ?_, ?_, ?_, ?_, ?_, ?_, ?_, ?_, ?_, ?_, ?_, ?_, ?_, ?_, ?_, ?_, ?_⟩ <;> decide +kernel

theorem witness_engineRunsAndEpochsComplete :
  (let s : State := { dev := { Test.dev [(⟨A_CEN_PROG 5 0, 0, 64⟩, 18158797384509816832), (CEN_SSTAT_STATE 5, 2), (CEN_SSTAT_START 5, 1), (⟨A_CEN_ST 5 2, 0, 64⟩, 30064771072), (⟨A_CEN_ST 5 3, 0, 64⟩, 21474836480)] with slc := [(5, { k := 9 , outs := [(3, 7)] })] } };
    let n : Fin 64 := 5; let o : Oper := { d := 1, a := 2, b := 3, c := 4, aux := 0 }; (s.clocked 1) ∧
    (s.dev.operNow n 0x3F = some o) ∧ ((s.dev.slcAt n).flight = []) ∧ (s.dev.slState n = 2)) ∧
  (let s : State := { dev := { Test.dev [] with slc := [(5, { k := 9, flight := [{ mac := true }, { dsts := [(255, 7)] }] })] } };
    let n : Fin 64 := 5; let k : Fin 64 := 1; let w : Nat := 255; let v : BitVec 64 := 7; (s.clocked 1) ∧
    ((s.dev.slcAt n).flight[k]? = some { dsts := [(w, v)] })) ∧
  (let s : State := { dev := { Test.dev [(CEN_SCFG_GROUP 5, 3)] with slc := [(5, { k := 9, block := some [(0, 1), (7, 2)] })] } };
    let n : Fin 64 := 5; let b : List (Nat × BitVec 64) := [(0, 1), (7, 2)]; (s.clocked 1) ∧
    (((List.range 64).filter fun m => (s.dev.slcAt m).block.isSome) = [n.val]) ∧ ((s.dev.slcAt n).block = some b)) ∧
  (let s : State := { dev := { Test.dev [(CEN_SCFG_GROUP 5, 2), (CEN_SSTAT_STATE 5, 2)] with egr := [(2, { gap := 9, live := true })] } };
    let g : Fin 8 := 2; (s.clocked 1) ∧ ((s.dev.egrAt g).live = true) ∧ ((s.dev.egrAt g).closed = false)) ∧
  (let s : State := { dev := { Test.dev [(CEN_SCFG_GROUP 5, 2)] with egr := [(2, { gap := 9, live := true, closed := true, pend := [(40, 7), (41, 8)] })] } };
    let g : Fin 8 := 2; (s.clocked 1) ∧ ((s.dev.egrAt g).live = true) ∧ ((s.dev.egrAt g).closed = true) ∧
    (((s.dev.members g).all fun n => (s.dev.slcAt n).block.isNone) = true)) ∧
  (let s : State := { dev := { Test.dev [(CEN_SCFG_GROUP 5, 2), (CEN_SSTAT_STATE 5, 1), (CEN_SCFG_RUN 5, 1), (CEN_GSTAT_SEQ 2, 4294967295)] with mono := 6000, egr := [(2, { gap := 9, last := some 100, trigs := 1 })] } };
    let g : Fin 8 := 2; (s.clocked 1) ∧ (s.dev.get (CEN_GCFG_PRESC g) ≤ (s.dev.egrAt g).cnt) ∧
    ((s.dev.egrAt g).live = false) ∧ (((s.dev.egrAt g).last.all fun u => decide (u + 4990 ≤ s.dev.mono)) = true) ∧
    (0 < (s.dev.egrAt g).trigs)) ∧
  (let s : State := { dev := { Test.dev [(CEN_GCFG_TMO_US 2, 100)] with egr := [(2, { gap := 9, last := some 100 })] } };
    let g : Fin 8 := 2; (s.clocked 1) ∧ (s.dev.get (CEN_GCFG_TMO_US g) ≠ 0) ∧ ((s.dev.egrAt g).last.isSome = true)) ∧
  (let s : State := Test.st []; let q : Origin := .host; let n : Fin 64 := 9; (s.accesses q) ∧
    ((s.dev.guardedSlice n = false ∨ s.dev.lockOrigin q = true))) ∧
  (let s : State := { dev := { Test.dev [(CEN_SCNT2_ECC_CORR 5, 9)] with slc := [(5, { k := 9 })] } };
    (s.clocked 1)) ∧
  (let s : State := { dev := { Test.dev [(CEN_SSTAT_STATE 5, 2)] with slc := [(5, { k := 9, flight := [{ mac := true }] })] } };
    let n : Fin 64 := 5; (s.clocked 1) ∧ (s.dev.slState n ≠ 4)) ∧
  (let s : State := Test.st [(CEN_SCFG_RUN 5, 1), (CEN_TADR_SLICE 0, 5), (CEN_TADR_WORD 0, 255), (⟨A_CEN_TDAT 0,
    0, 64⟩, 99), (CEN_TMASK_MASK 5 3, 2 ^ 63)]; let k : BitVec 4 := 1; let r : Bool := true; (s.inUse) ∧
    (((s.dev.set CEN_TCTL_COUNT k.toNat).setB CEN_TCTL_RESTART r).tuneWhy 4 k.toNat (((s.dev.set CEN_TCTL_COUNT k.toNat).setB CEN_TCTL_RESTART r).tuneEntries 4 k.toNat) = 0) ∧
    (((s.dev.members (s.dev.slGroup (s.dev.get (CEN_TADR_SLICE 0)))).any fun n => s.dev.bit (CEN_SCFG_RUN n)) = true)) := by
  refine ⟨?_, ?_, ?_, ?_, ?_, ?_, ?_, ?_, ?_, ?_, ?_⟩ <;> decide +kernel

theorem witness_loopAssistCommandsComplete :
  (let s : State := { dev := { Test.dev [(⟨A_CEN_ST 5 255, 0, 64⟩, 9)] with port := [(2, { next := 7 })] } };
    let c : Fin 4 := 2; let rd : BitVec 5 := 31; (s.clocked 0) ∧ (s.dev.clk 1 = true) ∧ (s.dev.coreRuns c = true) ∧
    ((s.dev.portAt c).issue = []) ∧ ((s.dev.portAt c).buf = []) ∧ (rd ≠ 0)) ∧
  (let s : State := { dev := { Test.dev [(⟨A_CEN_OUT 511, 0, 64⟩, 9)] with port := [(2, { next := 7 })] } };
    let c : Fin 4 := 2; let rd : BitVec 5 := 31; (s.clocked 0) ∧ (s.dev.clk 1 = true) ∧ (s.dev.coreRuns c = true) ∧
    ((s.dev.portAt c).issue = []) ∧ ((s.dev.portAt c).buf = []) ∧ (rd ≠ 0)) ∧
  (let s : State := { dev := { Test.dev [] with port := [(2, { next := 7 })] } }; let c : Fin 4 := 2;
    let rd : BitVec 5 := 31; (s.clocked 0) ∧ (s.dev.clk 1 = true) ∧ (s.dev.coreRuns c = true) ∧
    ((s.dev.portAt c).issue = []) ∧ ((s.dev.portAt c).buf = []) ∧ (rd ≠ 0)) ∧
  (let s : State := { dev := { Test.dev [] with port := [(2, { next := 7 })] } }; let c : Fin 4 := 2;
    (s.clocked 0) ∧ (s.dev.clk 1 = true) ∧ (s.dev.coreRuns c = true) ∧ ((s.dev.portAt c).issue = []) ∧
    ((s.dev.portAt c).buf = [])) ∧
  (let s : State := { dev := { Test.dev [(CEN_LACFG_ASSIST_B, 63)] with port := [(2, { next := 7 })] } };
    let c : Fin 4 := 2; (s.clocked 0) ∧ (s.dev.clk 1 = true) ∧ (s.dev.coreRuns c = true) ∧
    ((s.dev.portAt c).issue = []) ∧ ((s.dev.portAt c).buf = []) ∧ ((s.dev.portAt c).out = []) ∧
    (((List.range 4).all fun p => (s.dev.portAt p).out.isEmpty) = true) ∧
    (s.dev.slState (s.dev.assistSlice c) ≠ 4) ∧ (s.dev.sbUsed (s.dev.assistSlice c) < 64) ∧
    (s.dev.assistBusy (s.dev.assistSlice c) < 4)) ∧
  (let s : State := { dev := { Test.dev [] with port := [(2, { next := 7, buf := List.replicate 7 (.run 1) })] } };
    let c : Fin 4 := 2; (s.clocked 0) ∧ (s.dev.coreRuns c = true) ∧ ((s.dev.portAt c).issue = []) ∧
    ((s.dev.portAt c).buf.length < 8)) ∧
  (let s : State := { dev := { Test.dev [] with port := [(2, { next := 7, out := [{}, { id := 3, rd := 9, value := some 77 }] })] } };
    let c : Fin 4 := 2; let j : Fin 2 := 1; let r : LaReq := { id := 3, rd := 9, value := some 77 };
    let v : BitVec 64 := 77; (s.clocked 1) ∧ ((s.dev.portAt c).out[j.val]? = some r) ∧ (r.value = some v) ∧
    (r.rd ≠ 0)) ∧
  (let s : State := { dev := { Test.dev [] with port := [(2, { next := 7, buf := [.tset 0x70000 5, .run 3] })] } };
    let c : Fin 4 := 2; let a : BitVec 64 := 0x70000; let b : BitVec 64 := 5; let l : List LaWrite := [.run 3];
    (s.clocked 1) ∧ ((s.dev.portAt c).buf = .tset a b :: l) ∧ ((s.dev.portAt c).issue = [])) ∧
  (let s : State := { dev := { Test.dev [] with port := [(2, { next := 7, buf := [.run 0x105] })] } };
    let c : Fin 4 := 2; let a : BitVec 64 := 0x105; let l : List LaWrite := []; (s.clocked 1) ∧
    ((s.dev.portAt c).buf = .run a :: l) ∧ ((s.dev.portAt c).issue = []) ∧
    ((s.dev.guardedSlice (fieldGet a 0 6) = false ∨ s.dev.lockstep (c.val / 2) = true))) ∧
  (let s : State := { dev := { Test.dev [] with port := [(2, { next := 7, buf := [.run 1, .run 2] })] } };
    let c : Fin 4 := 2; let j : Fin 8 := 1; (s.clocked 0) ∧ (s.dev.portAct c = true) ∧
    (j.val < (s.dev.portAt c).buf.length)) ∧
  (let s : State := { dev := { Test.dev [] with port := [(2, { next := 7, reads := [(7, 5)], x := [(7, 9)] })] } };
    let c : Fin 4 := 2; let rd : Nat := 7; let v : BitVec 64 := 5; let l : List (Nat × BitVec 64) := [];
    (s.clocked 0) ∧ (s.dev.portAct c = true) ∧ ((s.dev.portAt c).reads = (rd, v) :: l) ∧ (rd ≠ 0)) ∧
  (let s : State := { dev := { Test.dev [] with port := [(2, { next := 7, issue := [.write (.run 3)], buf := List.replicate 8 (.run 1) })] } };
    let c : Fin 4 := 2; let i : LaOp := .write (.run 3); (s.clocked 0) ∧ (s.dev.portAct c = true) ∧
    ((s.dev.portAt c).issue.getLast? = some i)) ∧
  (let s : State := { dev := { Test.dev [] with port := [(2, { next := 7, buf := List.replicate 8 (.run 1) })] } };
    let c : Fin 4 := 2; (s.clocked 0) ∧ (s.dev.coreRuns c = true) ∧ (8 ≤ (s.dev.portAt c).buf.length) ∧
    ((s.dev.portAt c).issue = [])) ∧
  (let s : State := { dev := { Test.dev [] with port := [(2, { next := 7, out := [{}, {}] })] } };
    let c : Fin 4 := 2; let j : Fin 2 := 1; (s.clocked 0) ∧ (s.dev.portAct c = true) ∧
    (j.val < (s.dev.portAt c).out.length)) ∧
  (let s : State := { dev := { Test.dev [] with port := [(2, { next := 7 })] } }; let c : Fin 4 := 2;
    let w : BitVec 32 := 0xFFFFFFFF &&& ~~~ 0x74; (s.clocked 0) ∧ (w.toNat % 128 = 11) ∧ (laListed w = false) ∧
    (s.dev.coreRuns c = true)) := by
  refine ⟨?_, ?_, ?_, ?_, ?_, ?_, ?_, ?_, ?_, ?_, ?_, ?_, ?_, ?_, ?_⟩ <;> decide +kernel

theorem witness_spoolCommandsComplete :
  (let s : State := { dev := { Test.dev [(SPL_CHCFG_TYPE 3, 2), (SPL_CHBUF_BASE 3, 1023), (SPL_CHBUF_SIZE 3, 1)] with spool := [(3, { seen := 9 })] } };
    (s.inUse) ∧ ((s.dev.get SPL_STAT_STATE = 0 ∨ s.dev.get SPL_STAT_STATE = 4)) ∧ (s.dev.armWhy = 0)) ∧
  (let s : State := { dev := { Test.dev [(SPL_STAT_STATE, 3)] with spool := [(3, { seen := 9 })] } }; (s.inUse) ∧
    (1 ≤ s.dev.get SPL_STAT_STATE) ∧ (s.dev.get SPL_STAT_STATE ≤ 3)) ∧
  (let s : State := { dev := { Test.dev [(SPL_STAT_STATE, 1), (SPL_CHCFG_TYPE 15, 1), (SPL_CHPP_POST 15, 5)] with spool := [(3, { seen := 9 })] } };
    (s.inUse) ∧ ((s.dev.get SPL_STAT_STATE = 1 ∨ s.dev.get SPL_STAT_STATE = 2)) ∧
    (((List.range 16).any fun c => decide (s.dev.splType c ≠ 0) && decide (s.dev.get (SPL_CHPP_POST c) ≠ 0)) = true)) ∧
  (let s : State := { dev := { Test.dev [(SPL_STAT_STATE, 1), (SPL_CHCFG_TYPE 15, 1), (SPL_CHBUF_BASE 15, 1023), (SPL_CHST_WPTR 15, 511), (SPL_CHPP_PRE 15, 400), (SPL_CHBUF_SIZE 15, 1)] with spool := [(15, { seen := 9, queue := [[0x1234], [7]] })] } };
    let c : Fin 16 := 15; let w0 : BitVec 64 := 0x1234; let l : List (List (BitVec 64)) := [[7]]; (s.clocked 0) ∧
    (s.dev.splRecording c = true) ∧ (s.dev.get SPL_TRIG_KIND ≠ 2) ∧ (s.dev.splType c = 1) ∧
    ((s.dev.sch c).queue = [w0] :: l) ∧
    (((List.range 16).all fun k => decide (k = c.val) || (s.dev.sch k).queue.isEmpty) = true)) ∧
  (let s : State := Test.st []; let a : BitVec 40 := 0x303FFFF8; (s.inUse) ∧ (0x30000000 ≤ a.toNat) ∧
    (a.toNat + 8 ≤ 0x30400000) ∧ (s.dev.splMeets a.toNat 8 = false)) ∧
  (let s : State := { dev := { Test.dev [(SPL_STAT_STATE, 1), (SPL_CHCFG_TYPE 3, 2), (SPL_CHBUF_BASE 3, 0), (SPL_CHBUF_SIZE 3, 1)] with spool := [(3, { seen := 9 })] } };
    let a : BitVec 40 := 0x30000FFF; let w : Width := .w8; (s.inUse) ∧ (0x30000000 ≤ a.toNat) ∧
    (a.toNat + w.bytes ≤ 0x30400000) ∧ (s.dev.splMeets a.toNat w.bytes = true)) := by decide +kernel

theorem witness_axisCommandsComplete :
  (let s : State := { dev := { Test.dev [(HEM_STAT_HOLD, 0), (SYS_GLINK_UNUSED, 0x3FFF), (STP_HEMLIM_I_COIL_MAX, 1000), (STP_FLT_LIMP 11, 1)] with axis := [(11, { voided := true })] } };
    let n : Fin 12 := 11; (s.inUse) ∧ (s.dev.get (STP_STAT_STATE n) = 0) ∧ (s.dev.get STP_VSTP_UV_NOW = 0) ∧
    (s.dev.get STP_VSTP_OV_NOW = 0) ∧ (s.dev.get HEM_STAT_HOLD = 0) ∧ (s.dev.partHeld = false) ∧
    (s.dev.get STP_HEMLIM_I_COIL_MAX ≠ 0) ∧ (s.dev.get (STP_FLT_SHORT_A n) = 0 ∧
    s.dev.get (STP_FLT_SHORT_B n) = 0 ∧ s.dev.get (STP_FLT_OPEN_A n) = 0 ∧ s.dev.get (STP_FLT_OPEN_B n) = 0 ∧
    s.dev.get (STP_FLT_STALL n) = 0)) ∧
  (let s : State := { dev := { Test.dev [(STP_STAT_STATE 11, 3), (STP_CTL_EN 11, 1)] with axis := [(11, { voided := true })] } };
    (s.inUse)) ∧
  (let s : State := { dev := { Test.dev [(STP_STAT_STATE 11, 2)] with axis := [(11, { voided := true, hasTgt := true })] } };
    (s.inUse)) ∧
  (let s : State := { dev := { Test.dev [(STP_STAT_STATE 11, 1), (STP_CTL_MODE 11, 3), (STP_STAT_HOMED 11, 1)] with axis := [(11, { voided := true })] } };
    let n : Fin 12 := 11; (s.inUse) ∧ (s.dev.get (STP_STAT_STATE n) = 1) ∧ (s.dev.get (STP_CTL_MODE n) = 3)) ∧
  (let s : State := { dev := { Test.dev [(STP_STAT_STATE 11, 1)] with axis := [(11, { voided := true })] } };
    let n : Fin 12 := 11; let v : BitVec 64 := 0xFFFFFFFFFFFFFF00; (s.inUse) ∧
    (s.dev.get (STP_CTL_TGT_SRC n) = 0) ∧
    (((if s.dev.limBars n (v.toInt - (s.dev.axisAt n).shift - (s.dev.axisAt n).count) then 1 else 0) : Nat) = 0)) ∧
  (let s : State := { dev := { Test.dev [(STP_STAT_STATE 11, 1), (STP_CTL_MODE 11, 1)] with axis := [(11, { voided := true })] } };
    let n : Fin 12 := 11; (s.inUse) ∧ (s.dev.get (STP_CTL_TGT_SRC n) = 0)) ∧
  (let s : State := { dev := { Test.dev [] with axis := [(11, { voided := true, count := 77 })] } };
    let n : Fin 12 := 11; (s.inUse) ∧ (s.dev.get (STP_STAT_STATE n) ≤ 1)) ∧
  (let s : State := { dev := { Test.dev [(STP_STAT_STATE 11, 1)] with axis := [(11, { voided := true })] } };
    let n : Fin 12 := 11; (s.clocked 2) ∧ (s.dev.get (STP_STAT_STATE n) = 1)) ∧
  (let s : State := { dev := { Test.dev [(STP_STAT_STATE 11, 1)] with axis := [(11, { voided := true, count := 9, shift := -2 })] } };
    let n : Fin 12 := 11; (s.clocked 2) ∧ (s.dev.get (STP_STAT_STATE n) = 1) ∧ (s.dev.axWants n = false) ∧
    (s.dev.get (STP_CTL_MODE n) = 0)) ∧
  (let s : State := { dev := { Test.dev [(STP_STAT_STATE 11, 2), (STP_CTL_MODE 11, 1), (⟨A_STP_AMAX 11, 0, 64⟩, 2 ^ 60), (⟨A_STP_VMAX 11, 0, 64⟩, 2 ^ 50)] with axis := [(11, { voided := true, hasV := true, vt := 2 ^ 40 })] } };
    let n : Fin 12 := 11; (s.clocked 2) ∧ (s.dev.get (STP_STAT_STATE n) = 2) ∧ (s.dev.get (STP_CTL_MODE n) = 1) ∧
    (s.dev.get (STP_CTL_PROFILE n) = 0) ∧ (s.dev.axVt n ≠ 0) ∧ (s.dev.get (STP_STALL_STALL_EN n) = 0)) ∧
  (let s : State := { dev := { Test.dev [(STP_STAT_STATE 11, 1), (STP_CTL_MODE 11, 2), (STP_FOLLOW_LAG_MAX 11, 256)] with axis := [(11, { voided := true })] } };
    let n : Fin 12 := 11; let d : Bool := false; (s.clocked 2) ∧ (s.dev.get (STP_CTL_MODE n) = 2) ∧
    ((s.dev.get (STP_STAT_STATE n) = 1 ∨ s.dev.get (STP_STAT_STATE n) = 2)) ∧ (s.dev.get (STP_FLT_LAG n) = 0) ∧
    (((s.dev.axisAt n).follow + (if d = s.dev.bit (STP_FOLLOW_DIR_INV n) then s.dev.stepScale n else -(s.dev.stepScale n)) - (s.dev.axisAt n).count).natAbs ≤ s.dev.get (STP_FOLLOW_LAG_MAX n))) ∧
  (let s : State := { dev := { Test.dev [(STP_STAT_STATE 11, 2), (STP_SW_LIMP_EN 11, 1), (STP_SW_LIMP_DI 11, 31), (STP_SW_POL 11, 2), (FIO_IN_RAW, 2 ^ 31), (STP_VEL 11, 5)] with axis := [(11, { voided := true })] } };
    let n : Fin 12 := 11; let pos : Bool := true; (s.clocked 2) ∧ (s.dev.limActive n pos = true) ∧
    (s.dev.get (STP_STAT_STATE n) = 2) ∧ ((if pos then 0 < s.dev.getI (STP_VEL n) else s.dev.getI (STP_VEL n) < 0))) ∧
  (let s : State := { dev := { Test.dev [(STP_STAT_STATE 11, 3), (STP_STAT_HSTATE 11, 3), (STP_SW_POL 11, 0), (FIO_IN_RAW, 0)] with axis := [(11, { voided := true })] } };
    let n : Fin 12 := 11; (s.clocked 2) ∧ (s.dev.get (STP_STAT_STATE n) = 3) ∧
    (s.dev.get (STP_STAT_HSTATE n) = 3) ∧ (s.dev.homeActive n = true)) ∧
  (let s : State := { dev := { Test.dev [(STP_STAT_STATE 11, 3), (STP_STAT_HSTATE 11, 4)] with axis := [(11, { voided := true })] } };
    let n : Fin 12 := 11; (s.clocked 2) ∧ (s.dev.get (STP_STAT_STATE n) = 3) ∧ (s.dev.get (STP_STAT_HSTATE n) = 4)) := by
  refine ⟨?_, ?_, ?_, ?_, ?_, ?_, ?_, ?_, ?_, ?_, ?_, ?_, ?_, ?_⟩ <;> decide +kernel

theorem witness_choppersComplete :
  (let s : State := { dev := { Test.dev [(STP_STAT_STATE 11, 1)] with axis := [(11, { voided := true, coilB := { phase := 1 } })] } };
    let n : Fin 12 := 11; let b : Bool := true; let ns : BitVec 32 := 4000; let c : BitVec 10 := 1023;
    (s.clocked 2) ∧ ((s.dev.coil n b).phase = 1) ∧ (s.dev.chopSees n ns.toNat = true) ∧
    (s.dev.chopThr n b true ≤ c.toNat)) ∧
  (let s : State := { dev := { Test.dev [(STP_STAT_STATE 11, 1), (STP_CHOP_TOFF_MIN 11, 200)] with axis := [(11, { voided := true, coilB := { phase := 2 } })] } };
    let n : Fin 12 := 11; let b : Bool := true; let ns : BitVec 32 := 4000; let c : BitVec 10 := 0; (s.clocked 2) ∧
    ((s.dev.coil n b).phase = 2) ∧ (s.dev.chopSees n ns.toNat = true) ∧
    ((c.toNat : Int) ≤ s.dev.chopThr n b false) ∧ (ns.toNat < s.dev.tOffMin n)) ∧
  (let s : State := { dev := { Test.dev [(STP_STAT_STATE 11, 1)] with axis := [(11, { voided := true, coilB := { phase := 2, tgt := -2047000 } })] } };
    let n : Fin 12 := 11; let b : Bool := true; let ns : BitVec 32 := 40000; let c : BitVec 10 := 0;
    (s.clocked 2) ∧ ((s.dev.coil n b).phase = 2) ∧ (s.dev.chopSees n ns.toNat = true) ∧
    ((c.toNat : Int) ≤ s.dev.chopThr n b false) ∧ (s.dev.tOffMin n ≤ ns.toNat) ∧
    (1000000 ≤ ((s.dev.coil n b).lastOn + ns.toNat) * s.dev.fchMax n) ∧ (s.dev.coilIdle n b = false)) ∧
  (let s : State := { dev := { Test.dev [(STP_STAT_STATE 11, 1)] with axis := [(11, { voided := true, coilB := { phase := 3, tgt := 2047000 } })] } };
    let n : Fin 12 := 11; let b : Bool := true; (s.clocked 2) ∧ ((s.dev.coil n b).phase = 3) ∧
    (s.dev.coilIdle n b = false)) ∧
  (let s : State := { dev := { Test.dev [(STP_STAT_STATE 11, 1)] with axis := [(11, { voided := true, coilB := { phase := 1 } })] } };
    let n : Fin 12 := 11; let b : Bool := true; let ns : BitVec 32 := 200000; (s.clocked 2) ∧
    ((s.dev.coil n b).phase = 1) ∧ (1000000 / s.dev.fchMin n - s.dev.tOffMin n ≤ ns.toNat)) ∧
  (let s : State := { dev := { Test.dev [(STP_STAT_STATE 11, 1)] with axis := [(11, { voided := true, coilB := { phase := 1 } })] } };
    let n : Fin 12 := 11; let b : Bool := true; let ns : BitVec 32 := 4000; let mv : BitVec 32 := 4000;
    (s.powered) ∧ (axLive (s.dev.get (STP_STAT_STATE n)) = true) ∧ ((s.dev.coil n b).phase ≠ 0) ∧
    (s.dev.chopSees n (ns.toNat - 250) = true) ∧ (s.dev.dsTh n < mv.toNat)) ∧
  (let s : State := Test.st [(STP_VSTP_UV, 24), (STP_STAT_STATE 0, 2)]; let v : BitVec 16 := 599; (s.powered) ∧
    (v.toNat < 25 * s.dev.get STP_VSTP_UV)) ∧
  (let s : State := Test.st [(STP_VSTP_UV, 24), (STP_VSTP_OV, 124), (STP_VSTP_UV_NOW, 1)];
    let v : BitVec 16 := 3050; (s.powered) ∧ (25 * s.dev.get STP_VSTP_UV + 50 ≤ v.toNat) ∧
    (v.toNat + 50 ≤ 25 * s.dev.get STP_VSTP_OV)) := by decide +kernel

theorem witness_corePairCommandsComplete :
  (let s : State := { dev := { Test.dev [] with pair := [(1, { checkAt := 3, undo := [(8, 7)] })] } };
    let p : Fin 2 := 1; (s.clocked 0) ∧ (s.dev.pairRuns p = true)) ∧
  (let s : State := { dev := { Test.dev [] with pair := [(1, { checkAt := 3, undo := List.replicate 3968 (8, 7) })] } };
    let p : Fin 2 := 1; (s.clocked 0) ∧ (s.dev.pairRuns p = true) ∧ (3968 ≤ (s.dev.pairAt p).undo.length)) ∧
  (let s : State := { dev := { Test.dev [] with pair := [(1, { checkAt := 3 })], img := { priv := [(1, 0x10FFF000, 0x1000)] } } };
    let p : Fin 2 := 1; let a : BitVec 40 := 0x10FFFFF8; (s.clocked 0) ∧ (s.dev.pairRuns p = true) ∧
    (0x10000000 ≤ a.toNat) ∧ (a.toNat + 8 ≤ 0x11000000) ∧ (a.toNat % 8 = 0) ∧ (s.dev.isPrivate p a.toNat = true) ∧
    ((s.dev.pairAt p).undo.length < 4096)) ∧
  (let s : State := { dev := { Test.dev [(HEM_DARNCFG_MM_MAX, 3)] with pair := [(1, { checkAt := 3 })] } };
    let p : Fin 2 := 1; (s.clocked 0) ∧ (s.dev.pairState p = 0) ∧
    ((s.dev.mmRecent p).length < clampN 1 15 (s.dev.get HEM_DARNCFG_MM_MAX))) ∧
  (let s : State := { dev := { Test.dev [(HEM_STAT_PAIRB, 1)] with pair := [(1, { checkAt := 3, undo := [(8, 7), (16, 3)] })] } };
    let p : Fin 2 := 1; (s.clocked 0) ∧ (s.dev.pairState p = 1)) ∧
  (let s : State := { dev := { Test.dev [(HEM_STAT_PAIRB, 1), (HEM_STAT_SAFE_OWNER, 1)] with pair := [(1, { checkAt := 3 })] } };
    let p : Fin 2 := 1; (s.clocked 0) ∧ (s.dev.pairState p = 1) ∧ (s.dev.pairState (otherPair p) = 0)) ∧
  (let s : State := Test.st []; let o : Origin := .pair 0; (s.accesses o) ∧ (s.dev.isOwner o = true)) ∧
  (let s : State := Test.st []; let p : Fin 2 := 0; (s.accesses (.pair p)) ∧ (s.dev.lockstep p = true) ∧
    (s.dev.pairState p = 0) ∧ ((s.dev.pairAt p).splitWanted = false) ∧ (s.dev.pairState (otherPair p) = 0) ∧
    ((s.dev.pairAt (otherPair p)).splitWanted = false) ∧ (s.dev.owner = p.val)) ∧
  (let s : State := Test.st [(HEM_STAT_PAIRB, 2)]; let p : Fin 2 := 0; (s.accesses (.pair p)) ∧
    (s.dev.pairState p = 0) ∧ ((s.dev.pairAt p).splitWanted = false) ∧ (s.dev.pairState (otherPair p) = 2)) ∧
  (let s : State := { dev := { Test.dev [] with pair := [(1, { checkAt := 3, splitWanted := true })] } };
    let p : Fin 2 := 1; (s.clocked 0) ∧ ((s.dev.pairAt p).splitWanted = true) ∧ (s.dev.owner ≠ p.val) ∧
    ((s.dev.pairState p = 0 ∨ s.dev.pairState p = 4))) ∧
  (let s : State := Test.st []; let o : Origin := .pair 0; (s.accesses o) ∧ (s.dev.isOwner o = true) ∧
    (s.dev.pairState s.dev.owner = 0) ∧ (s.dev.pairState (otherPair s.dev.owner) = 0) ∧
    ((s.dev.pairAt (otherPair s.dev.owner)).splitWanted = false)) ∧
  (let s : State := Test.st [(HEM_STAT_PAIRA, 4)]; let q : Fin 2 := 1; (s.accesses (.pair q)) ∧
    (s.dev.owner ≠ q.val) ∧ (s.dev.pairState s.dev.owner = 4) ∧ (s.dev.lockstep q = true) ∧
    ((s.dev.pairAt s.dev.owner).splitWanted = false)) ∧
  (let s : State := Test.st [(HEM_STAT_PAIRA, 4)]; (s.powered) ∧ (s.dev.pairState s.dev.owner = 4)) ∧
  (let s : State := Test.st [(HEM_STAT_PAIRB, 2)]; let c : Fin 4 := 3; (s.accesses (.core c)) ∧
    (s.dev.pairState (c / 2) = 2) ∧ ((s.dev.pairAt (c / 2)).rejoiner = none)) ∧
  (let s : State := { dev := { Test.dev [(HEM_STAT_PAIRB, 2)] with pair := [(1, { checkAt := 3, rejoiner := some 0 })] } };
    let c : Fin 4 := 3; let w : Nat := 0; (s.accesses (.core c)) ∧ (s.dev.pairState (c / 2) = 2) ∧
    ((s.dev.pairAt (c / 2)).rejoiner = some w) ∧ (w ≠ c.val % 2)) ∧
  (let s : State := { dev := { Test.dev [(HEM_STAT_PAIRB, 2)] with pair := [(1, { checkAt := 3, rejoiner := some 0 })] } };
    let p : Fin 2 := 1; (s.clocked 0) ∧ (s.dev.pairState p = 2) ∧ ((s.dev.pairAt p).rejoiner ≠ none)) ∧
  (let s : State := { dev := { Test.dev [(HEM_STAT_PAIRB, 5)] with pair := [(1, { checkAt := 3 })] } };
    let p : Fin 2 := 1; (s.clocked 0) ∧ (s.dev.pairState p = 5)) ∧
  (let s : State := { dev := { Test.dev [(HEM_STAT_PAIRB, 2)] with pair := [(1, { checkAt := 3 })] } };
    let c : Fin 4 := 3; (s.clocked 0) ∧ (s.dev.pairState (c / 2) = 2)) ∧
  (let s : State := { dev := { Test.dev [] with pair := [(1, { checkAt := 3, selfTest := 3 })] } }; (s.clocked 0)) := by
  refine ⟨?_, ?_, ?_, ?_, ?_, ?_, ?_, ?_, ?_, ?_, ?_, ?_, ?_, ?_, ?_, ?_, ?_, ?_, ?_⟩ <;> decide +kernel

theorem witness_hemCommandsComplete :
  (let s : State := Test.st []; (s.powered)) ∧
  (let s : State := { dev := { Test.dev [(CLU_STAT_STATE 1, 3), (GCH_STAT_STATE 7, 2), (GCH_ASC_SEL1, 0), (POS_CFG_GROUP 0, 2), (POS_STAT_SRC 0, 3)] with pos := [(0, { slsSpeed := -2 ^ 50 })] } };
    let g : Fin 2 := 1; (s.powered) ∧
    ((s.dev.get (HEM_GLIM_SPD_MAX (s.dev.limGrp g)) : Int) * (100 + s.dev.get (HEM_GLIM_SPD_MARGIN (s.dev.limGrp g))) * 2 ^ 32 < (s.dev.cluSpeed (s.dev.limGrp g)).natAbs * 10000)) ∧
  (let s : State := { dev := { Test.dev [(GCH_ASC_SEL1, 0), (CLU_STAT_STATE 1, 3)] with clu := [(1, { udc := 2 ^ 50 })] } };
    let g : Fin 2 := 1; (s.powered) ∧ (s.dev.grpOn (s.dev.limGrp g) = true) ∧
    (s.dev.udcInRange (s.dev.limGrp g) = false)) ∧
  (let s : State := Test.st [(SYS_PWRSTATE_READY, 1), (HEM_STAT_HOLD, 1)]; (s.powered) ∧
    (s.dev.hem.why &&& 2 = 2) ∧ (s.dev.get HEM_STAT_HOLD = 1) ∧ (s.dev.get SYS_PWRSTATE_READY = 1) ∧
    (s.dev.hem.why = 2) ∧ (s.dev.bothRetired = false) ∧ (s.dev.startFault = false) ∧ (s.dev.holdReq = false) ∧
    (s.dev.inLoss = false)) := by decide +kernel

theorem witness_thimbleActsComplete :
  (let s : State := { dev := { Test.dev [(THM_STAT_STATE, 1), (THM_GRP_STATE 0, 1), (THM_GRP_STATE 1, 2)] with thm := { gateFall := 3, fo14 := true, fo15 := true }, tgrp := [(1, { n0 := 3 })] } };
    (s.powered) ∧ (s.dev.get THM_STAT_STATE < 2)) ∧
  (let s : State := Test.st [(THM_STAT_STATE, 2), (THM_STAT_RESTARTS, 1)]; (s.powered) ∧
    (s.dev.get THM_STAT_STATE = 2) ∧ (s.dev.get THM_STAT_RESTARTS + 1 < 3)) ∧
  (let s : State := Test.st [(THM_STAT_STATE, 2), (THM_STAT_RESTARTS, 2)]; (s.powered) ∧
    (s.dev.get THM_STAT_STATE = 2) ∧ (2 ≤ s.dev.get THM_STAT_RESTARTS)) ∧
  (let s : State := { dev := { Test.dev [(THM_STAT_STATE, 1), (GCH_STAT_STATE 13, 1), (SYS_GLINK_TRAINED, 0x2000)] with thm := { gateFall := 3 }, tgrp := [(1, { n0 := 3 })] } };
    let n : Fin 14 := 13; let p1 : Bool := true; let p2 : Bool := false; (s.powered) ∧ (s.dev.thmRuns = true) ∧
    ((if n.val < 12 then s.dev.thmState (s.dev.groupOf n) = 0 else s.dev.get (GCH_STAT_STATE n) = 1)) ∧
    ((p1 = true ∨ p2 = true)) ∧ (s.dev.trained n = true)) ∧
  (let s : State := { dev := { Test.dev [(THM_STAT_STATE, 1), (POS_CFG_GROUP 0, 2), (⟨A_POS_SPD 0, 0, 64⟩, 2 ^ 50)] with thm := { gateFall := 3 }, tgrp := [(1, { n0 := 3 })] } };
    (s.powered) ∧ (s.dev.thmRuns = true) ∧ (s.dev.six = false)) ∧
  (let s : State := { dev := { Test.dev [(THM_STAT_STATE, 1), (THM_GRP_SPD_VALID 1, 1), (THM_ASC_ASC_OFF 1, 50), (THM_GRP_SEL 1, 1), (GCH_ASC_SEL1, 1), (THM_GRP_STATE 1, 4)] with thm := { gateFall := 3 }, tgrp := [(1, { n0 := 3 })] } };
    let g : Fin 2 := 1; (s.powered) ∧ (s.dev.thmRuns = true) ∧ (s.dev.six = false) ∧
    (s.dev.bit (THM_GRP_SPD_VALID g) = true) ∧
    (speedAtLeast (s.dev.tgrpAt g).n (s.dev.get (THM_ASC_ASC_OFF g)) = false)) ∧
  (let s : State := { dev := { Test.dev [(THM_STAT_STATE, 1), (THM_GRP_STATE 1, 2), (THM_GRP_SPD_VALID 1, 1), (THM_SS1_SS1_TMAX 1, 900), (THM_SS1_SS1_NSTOP 1, 5), (THM_SS1_SS1_TOLN 1, 65535)] with thm := { gateFall := 3 }, tgrp := [(1, { n0 := 3, n := 2 ^ 33 })] } };
    let g : Fin 2 := 1; let ms : BitVec 16 := 0; (s.powered) ∧ (s.dev.thmRuns = true) ∧ (s.dev.six = false) ∧
    (s.dev.thmState g = 2) ∧ ((s.dev.tgrpAt g).waitBrake = false) ∧ (s.dev.bit (THM_GRP_SPD_VALID g) = true) ∧
    (s.dev.ss1Inside g ms.toNat = true) ∧
    (speedAtLeast (s.dev.tgrpAt g).n (s.dev.get (THM_SS1_SS1_NSTOP g)) = true)) ∧
  (let s : State := { dev := { Test.dev [(THM_STAT_STATE, 1), (THM_GRP_STATE 1, 2), (GCH_ASC_SEL1, 0)] with thm := { gateFall := 3 }, tgrp := [(1, { n0 := 3 })] } };
    let g : Fin 2 := 1; (s.powered) ∧ (s.dev.thmRuns = true) ∧ (s.dev.six = false) ∧ (s.dev.selAsc g = false) ∧
    (s.dev.thmState g = 2) ∧ ((s.dev.tgrpAt g).waitBrake = false) ∧ (s.dev.bit (THM_GRP_SPD_VALID g) = false)) ∧
  (let s : State := { dev := { Test.dev [(THM_STAT_STATE, 1), (THM_GRP_STATE 1, 2), (GCH_ASC_SEL1, 0)] with thm := { gateFall := 3 }, tgrp := [(1, { n0 := 3 })] } };
    let g : Fin 2 := 1; (s.powered) ∧ (s.dev.thmRuns = true) ∧ (s.dev.six = false) ∧ (s.dev.selAsc g = false) ∧
    (s.dev.thmState g = 2)) ∧
  (let s : State := { dev := { Test.dev [(THM_STAT_STATE, 1), (THM_GRP_STATE 1, 2), (GCH_ASC_SEL1, 0)] with thm := { gateFall := 3 }, tgrp := [(1, { n0 := 3, waitBrake := true })] } };
    let g : Fin 2 := 1; (s.powered) ∧ (s.dev.thmRuns = true) ∧ (s.dev.six = false) ∧ (s.dev.selAsc g = false) ∧
    (s.dev.thmState g = 2) ∧ ((s.dev.tgrpAt g).waitBrake = true)) ∧
  (let s : State := { dev := { Test.dev [(THM_STAT_STATE, 1), (THM_GRP_STATE 1, 4)] with thm := { gateFall := 3 }, tgrp := [(1, { n0 := 3 })] } };
    let g : Fin 2 := 1; (s.powered) ∧ (s.dev.thmRuns = true) ∧ (s.dev.thmState g = 4)) ∧
  (let s : State := { dev := { Test.dev [(THM_STAT_STATE, 1), (THM_GRP_STATE 1, 3), (GCH_ASC_SEL1, 0)] with thm := { gateFall := 3 }, tgrp := [(1, { n0 := 3 })] } };
    let g : Fin 2 := 1; (s.powered) ∧ (s.dev.thmRuns = true) ∧ (s.dev.thmState g = 3) ∧
    (s.dev.get (CLU_STAT_STATE g) = 0) ∧ (s.dev.selAsc g = false)) ∧
  (let s : State := { dev := { Test.dev [(THM_STAT_STATE, 1), (THM_SI_STATE 3, 3), (THM_SI_LVL 3, 3)] with thm := { gateFall := 3 }, tgrp := [(1, { n0 := 3 })] } };
    (s.powered) ∧ (s.dev.thmRuns = true)) ∧
  (let s : State := { dev := { Test.dev [(THM_STAT_STATE, 1), (THM_SI_STATE 3, 2), (THM_SI_LVL 3, 1), (THM_SICFG_ANTI 3, 0)] with thm := { gateFall := 3 }, tgrp := [(1, { n0 := 3 })] } };
    let k : Fin 4 := 3; (s.powered) ∧ (s.dev.thmRuns = true) ∧
    ((s.dev.get (THM_SI_STATE k) = 1 ∨ s.dev.get (THM_SI_STATE k) = 2)) ∧
    (s.dev.siClosed k false ≠ s.dev.siClosed k true)) ∧
  (let s : State := { dev := { Test.dev [(THM_STAT_STATE, 1)] with thm := { gateFall := 3, fo14 := true, fo15 := true }, tgrp := [(1, { n0 := 3 })] } };
    (s.powered) ∧ (s.dev.thmRuns = true) ∧ (s.dev.brakeOn = true)) ∧
  (let s : State := { dev := { Test.dev [(THM_STAT_STATE, 1), (THM_SBC_SBC_EN, 1)] with thm := { gateFall := 3 }, tgrp := [(1, { n0 := 3 })] } };
    (s.powered) ∧ (s.dev.thmRuns = true) ∧ (s.dev.get THM_SBC_SBC_EN = 1) ∧ (s.dev.thm.fo14 = false) ∧
    (s.dev.thm.fo15 = false)) ∧
  (let s : State := { dev := { Test.dev [(THM_STAT_STATE, 1), (THM_SBC_I_MIN, 400)] with thm := { gateFall := 3, fo14 := true, fo15 := true }, tgrp := [(1, { n0 := 3 })] } };
    let ma : BitVec 16 := 399; (s.powered) ∧ (s.dev.thmRuns = true) ∧ (s.dev.brakeOn = true) ∧
    (ma.toNat < s.dev.get THM_SBC_I_MIN)) ∧
  (let s : State := { dev := { Test.dev [(THM_STAT_STATE, 1), (THM_TMCFG_TM_EN, 1), (THM_TMCFG_TOL_W, 10), (CLU_STAT_STATE 1, 3), (THM_GRP_SPD_VALID 1, 1), (THM_TMCFG_TM_NMIN, 0), (THM_DC_TM_FAILS, 2)] with thm := { gateFall := 3 }, tgrp := [(1, { n0 := 3 })] } };
    let l : List (BitVec 12 × BitVec 12) := [(0, 0)]; let x : BitVec 64 := 0; let y : BitVec 64 := 0; (s.powered) ∧
    (s.dev.thmRuns = true) ∧ (s.dev.get THM_TMCFG_TM_EN = 1) ∧ (s.dev.tmBlind = false) ∧
    (s.dev.get THM_DC_TM_BLIND = 0) ∧
    (100 * ((s.dev.tmPdc l - s.dev.tmPexp x.toInt y.toInt).natAbs : Int) ≤ s.dev.get THM_TMCFG_TOL_W * 100000000 * 100 + s.dev.get THM_TMCFG_TOL_PCT * (s.dev.tmPexp x.toInt y.toInt).natAbs)) ∧
  (let s : State := { dev := { Test.dev [(THM_STAT_STATE, 1), (THM_FLT_CAUSE, 16)] with thm := { gateFall := 3 }, tgrp := [(1, { n0 := 3 })] } };
    let v : BitVec 16 := 600; (s.powered) ∧ (s.dev.thmRuns = true) ∧
    ((s.dev.enabledGroups.flatMap s.dev.groups).all (fun g => decide (s.dev.udcDiff g v.toNat ≤ 100 * 2 ^ 32)) = true)) ∧
  (let s : State := { dev := { Test.dev [(THM_STAT_STATE, 1)] with thm := { gateFall := 3 }, tgrp := [(1, { n0 := 3 })] } };
    (s.powered) ∧ (s.dev.thmRuns = true)) ∧
  (let s : State := { dev := { Test.dev [(THM_STAT_STATE, 1), (GCH_STAT_STATE 13, 7)] with thm := { gateFall := 3, disRun := true }, tgrp := [(1, { n0 := 3 })] } };
    let v : BitVec 16 := 600; (s.powered) ∧ (s.dev.thmRuns = true) ∧ (s.dev.thm.disRun = true) ∧ (600 ≤ v.toNat)) ∧
  (let s : State := { dev := { Test.dev [(THM_STAT_STATE, 1)] with thm := { gateFall := 3, windGrp := some 1 }, tgrp := [(1, { n0 := 3 })] } };
    let v : BitVec 16 := 9; (s.powered) ∧ (s.dev.thmRuns = true) ∧ (s.dev.thm.windGrp.isSome = true) ∧
    (v.toNat < 600)) ∧
  (let s : State := { dev := { Test.dev [(THM_STAT_STATE, 1), (THM_STAT_LOCKOUT, 1), (THM_PWD_WRONG, 5)] with thm := { gateFall := 3 }, tgrp := [(1, { n0 := 3 })] } };
    (s.powered) ∧ (s.dev.thmRuns = true) ∧ (s.dev.get THM_STAT_LOCKOUT = 1)) ∧
  (let s : State := { dev := { Test.dev [(THM_STAT_STATE, 1), (THM_STAT_LOCKOUT, 1), (THM_PWD_LOCK_S, 600)] with thm := { gateFall := 3 }, tgrp := [(1, { n0 := 3 })] } };
    (s.powered) ∧ (s.dev.thmRuns = true) ∧ (s.dev.get THM_STAT_LOCKOUT = 1)) ∧
  (let s : State := { dev := { Test.dev [(THM_STAT_STATE, 1), (THM_STAT_SAFE_UNLOCK, 1)] with thm := { gateFall := 3, rwsStored := 3 }, tgrp := [(1, { n0 := 3 })] } };
    (s.powered) ∧ (s.dev.thmRuns = true) ∧ (s.dev.get THM_STAT_SAFE_UNLOCK = 1)) := by
  refine ⟨?_, ?_, ?_, ?_, ?_, ?_, ?_, ?_, ?_, ?_, ?_, ?_, ?_, ?_, ?_, ?_, ?_, ?_, ?_, ?_, ?_, ?_, ?_, ?_, ?_⟩ <;> decide +kernel

theorem witness_thimbleDemandRequestsComplete :
  (let s : State := { dev := { Test.dev [(THM_STAT_STATE, 1), (⟨A_HEM_THMARG 0, 0, 64⟩, 2), (THM_GRP_STATE 1, 1), (GCH_ASC_SEL1, 0)] with thm := { gateFall := 3 }, tgrp := [(1, { n0 := 3 })] } };
    let o : Origin := .pair 0; let g : Fin 2 := 1; (s.accesses o) ∧ (s.dev.thmRuns = true) ∧
    (s.dev.get THM_RESP_BUSY = 0) ∧ (s.dev.six = false) ∧ ((s.dev.reg (A_HEM_THMARG 0)).toNat % 4 = 2 ^ g.val) ∧
    (s.dev.thmState g = 1) ∧ (s.dev.selAsc g = false)) ∧
  (let s : State := { dev := { Test.dev [(THM_STAT_STATE, 1), (⟨A_HEM_THMARG 0, 0, 64⟩, 2), (THM_GRP_STATE 1, 1), (THM_GRP_SPD_VALID 1, 1), (SYS_PWRSTATE_READY, 1), (HEM_STAT_HOLD, 0), (SYS_GLINK_UNUSED, 0x3FFF), (SYS_IMGSTAT_SAFE_ABSENT, 0), (SYS_IMGSTAT_SAFE_MISMATCH, 0), (SYS_IMGSTAT_CAL_BAD, 0), (SYS_IMGSTAT_VHOLD_LOW, 0), (GCH_GEN_DISABLED, 0)] with thm := { gateFall := 3 }, tgrp := [(1, { n0 := 3 })] } };
    let o : Origin := .pair 0; let g : Fin 2 := 1; (s.accesses o) ∧ (s.dev.thmRuns = true) ∧
    (s.dev.get THM_RESP_BUSY = 0) ∧ (s.dev.six = false) ∧ ((s.dev.reg (A_HEM_THMARG 0)).toNat % 4 = 2 ^ g.val) ∧
    (s.dev.thmState g = 1) ∧ (s.dev.relBase g = true) ∧ (s.dev.stoDemanded g = false) ∧
    (s.dev.bit (THM_GRP_SPD_VALID g) = true)) ∧
  (let s : State := { dev := { Test.dev [(THM_STAT_STATE, 1), (⟨A_HEM_THMARG 0, 0, 64⟩, 2), (SYS_PWRSTATE_READY, 1), (HEM_STAT_HOLD, 0), (SYS_GLINK_UNUSED, 0x3FFF), (SYS_IMGSTAT_SAFE_ABSENT, 0), (SYS_IMGSTAT_SAFE_MISMATCH, 0), (SYS_IMGSTAT_CAL_BAD, 0), (SYS_IMGSTAT_VHOLD_LOW, 0), (GCH_GEN_DISABLED, 0)] with thm := { gateFall := 3 }, tgrp := [(1, { n0 := 3, fwSto := true })] } };
    let o : Origin := .pair 0; let g : Fin 2 := 1; (s.accesses o) ∧ (s.dev.thmRuns = true) ∧
    (s.dev.lockOrigin o = true) ∧ (s.dev.get THM_RESP_BUSY = 0) ∧ (s.dev.six = false) ∧
    ((s.dev.reg (A_HEM_THMARG 0)).toNat % 4 = 2 ^ g.val) ∧ (s.dev.thmState g = 0) ∧ (s.dev.relBase g = true) ∧
    (s.dev.siDemands g false = false) ∧ (s.dev.siDemands g true = false) ∧ (s.dev.connDemands g false = false) ∧
    (s.dev.connDemands g true = false) ∧ (s.dev.sbcDemand g = false) ∧
    (s.dev.get (THM_GRP_DEMAND g) &&& 0x28 = 0) ∧
    (((List.range 4).all fun k => !(s.dev.siDemand k && s.dev.names (s.dev.get (THM_SICFG_GRP k)) g)) = true)) ∧
  (let s : State := { dev := { Test.dev [(THM_STAT_STATE, 1), (THM_SBC_SBC_EN, 1), (THM_SBC_SBC_GRP, 2), (THM_GRP_STATE 1, 1), (CLU_STAT_STATE 1, 3)] with thm := { gateFall := 3 }, tgrp := [(1, { n0 := 3 })] } };
    let o : Origin := .pair 0; (s.accesses o) ∧ (s.dev.thmRuns = true) ∧ (s.dev.lockOrigin o = true) ∧
    (s.dev.get THM_RESP_BUSY = 0) ∧ (s.dev.get THM_SBC_SBC_EN = 1) ∧
    (((s.dev.allGroups.filter s.dev.brakeGroup).all fun g => decide (s.dev.thmState g = 1) && s.dev.tmRunning g) = true)) ∧
  (let s : State := { dev := { Test.dev [(THM_STAT_STATE, 1)] with thm := { gateFall := 3, fo14 := true }, tgrp := [(1, { n0 := 3 })] } };
    let o : Origin := .pair 0; (s.accesses o) ∧ (s.dev.thmRuns = true) ∧ (s.dev.get THM_RESP_BUSY = 0)) ∧
  (let s : State := { dev := { Test.dev [(THM_STAT_STATE, 1), (GCH_STAT_STATE 13, 1)] with thm := { gateFall := 3 }, tgrp := [(1, { n0 := 3 })], gch := [(13, { link := true, permit1 := true, permit2 := true })] } };
    let o : Origin := .pair 0; (s.accesses o) ∧ (s.dev.thmRuns = true) ∧ (s.dev.get THM_RESP_BUSY = 0) ∧
    (s.dev.get (GCH_STAT_STATE 13) = 1) ∧ (s.dev.permits 13 = true) ∧
    ((s.dev.allGroups.any fun g => decide (s.dev.thmState g = 1) || decide (s.dev.thmState g = 2)) = false)) ∧
  (let s : State := { dev := { Test.dev [(THM_STAT_STATE, 1), (GCH_STAT_STATE 13, 7)] with thm := { gateFall := 3, disRun := true }, tgrp := [(1, { n0 := 3 })] } };
    let o : Origin := .pair 0; (s.accesses o) ∧ (s.dev.thmRuns = true) ∧ (s.dev.lockOrigin o = true) ∧
    (s.dev.get THM_RESP_BUSY = 0) ∧ (s.dev.thm.disRun = true)) ∧
  (let s : State := { dev := { Test.dev [(THM_STAT_STATE, 1), (⟨A_HEM_THMARG 0, 0, 64⟩, 1), (GCH_ASC_SEL1, 0)] with thm := { gateFall := 3 }, tgrp := [(1, { n0 := 3, restSince := some 0 })], mono := 100000000 } };
    let o : Origin := .pair 0; let g : Fin 2 := 1; (s.accesses o) ∧ (s.dev.thmRuns = true) ∧
    (s.dev.lockOrigin o = true) ∧ (s.dev.get THM_RESP_BUSY = 0) ∧ (s.dev.six = false) ∧
    ((s.dev.reg (A_HEM_THMARG 0)).toNat % 2 = g.val) ∧ (s.dev.windOk g = true)) ∧
  (let s : State := { dev := { Test.dev [(THM_STAT_STATE, 1), (THM_FLT_LATCH, 255)] with thm := { gateFall := 3 }, tgrp := [(1, { n0 := 3, pathFlt := true })] } };
    let o : Origin := .pair 0; (s.accesses o) ∧ (s.dev.thmRuns = true) ∧ (s.dev.lockOrigin o = true) ∧
    (s.dev.get THM_RESP_BUSY = 0) ∧ (s.dev.get THM_FLT_CAUSE = 0) ∧ (s.dev.thmState 0 ≠ 1) ∧ (s.dev.thmState 1 ≠ 1)) ∧
  (let s : State := { dev := { Test.dev [(THM_STAT_STATE, 1), (HEM_STAT_PAIRA, 2)] with thm := { gateFall := 3 }, tgrp := [(1, { n0 := 3 })] } };
    let o : Origin := .core 0; (s.accesses o) ∧ (s.dev.thmRuns = true) ∧ (s.dev.get THM_RESP_BUSY = 0) ∧
    (s.dev.lockOrigin o = false)) ∧
  (let s : State := { dev := { Test.dev [(THM_STAT_STATE, 1)] with thm := { gateFall := 3 }, tgrp := [(1, { n0 := 3 })] } };
    let o : Origin := .pair 0; let c : BitVec 8 := 0x16; (s.accesses o) ∧ (s.dev.thmRuns = true) ∧
    (s.dev.get THM_RESP_BUSY = 0) ∧ (reqCodes.contains c.toNat = false)) := by
  refine ⟨?_, ?_, ?_, ?_, ?_, ?_, ?_, ?_, ?_, ?_, ?_⟩ <;> decide +kernel

theorem witness_thimbleLogRequestsComplete :
  (let s : State := { dev := { Test.dev [(THM_STAT_STATE, 1), (⟨A_HEM_THMARG 0, 0, 64⟩, 0x4847464544434241), (THM_PWD_WRONG, 4)] with thm := { gateFall := 3 }, tgrp := [(1, { n0 := 3 })], per := { pwd := { v1 := { init := false, salt := 0, hash := 0xdba9f9bbeef67132ee78658ba81ef008e359f93f24b6961e79c0c3238734b905 }, v2 := {}, g1 := 1 } } } };
    let o : Origin := .pair 0; let n : BitVec 8 := 8; (s.accesses o) ∧ (s.dev.thmRuns = true) ∧
    (s.dev.lockOrigin o = true) ∧ (s.dev.get THM_RESP_BUSY = 0) ∧ (s.dev.get THM_STAT_LOCKOUT = 0) ∧
    (s.dev.pwd.init = false) ∧ (lenOk n.toNat = true) ∧ (s.dev.pwdIs (pwdBytes s.dev.thmArgs 0 n.toNat) = true) ∧
    (s.dev.get THM_STAT_SAFE_UNLOCK = 0) ∧ ((s.dev.per.fill.cur.getD 0) + 2 + s.dev.unlocks ≤ 4096)) ∧
  (let s : State := { dev := { Test.dev [(THM_STAT_STATE, 1), (⟨A_HEM_THMARG 0, 0, 64⟩, 0x4847464544434241), (SYS_IMGSTAT_DBG_ALLOW, 1)] with thm := { gateFall := 3 }, tgrp := [(1, { n0 := 3 })], per := { pwd := { v1 := { init := false, salt := 0, hash := 0xdba9f9bbeef67132ee78658ba81ef008e359f93f24b6961e79c0c3238734b905 }, v2 := {}, g1 := 1 } } } };
    let o : Origin := .pair 0; let n : BitVec 8 := 8; (s.accesses o) ∧ (s.dev.thmRuns = true) ∧
    (s.dev.lockOrigin o = true) ∧ (s.dev.get THM_RESP_BUSY = 0) ∧ (s.dev.get THM_STAT_LOCKOUT = 0) ∧
    (s.dev.pwd.init = false) ∧ (lenOk n.toNat = true) ∧ (s.dev.pwdIs (pwdBytes s.dev.thmArgs 0 n.toNat) = true) ∧
    (s.dev.get SYS_IMGSTAT_DBG_ALLOW = 1) ∧ (s.dev.thmState 0 = 0) ∧ (s.dev.thmState 1 = 0) ∧
    (s.dev.get THM_STAT_DEV_UNLOCK = 0) ∧ ((s.dev.per.fill.cur.getD 0) + 2 + s.dev.unlocks ≤ 4096)) ∧
  (let s : State := { dev := { Test.dev [(THM_STAT_STATE, 1), (THM_PWD_WRONG, 4)] with thm := { gateFall := 3 }, tgrp := [(1, { n0 := 3 })], per := { pwd := { v1 := { init := false, salt := 0, hash := 0xdba9f9bbeef67132ee78658ba81ef008e359f93f24b6961e79c0c3238734b905 }, v2 := {}, g1 := 1 } } } };
    let o : Origin := .pair 0; let n : BitVec 8 := 8; (s.accesses o) ∧ (s.dev.thmRuns = true) ∧
    (s.dev.lockOrigin o = true) ∧ (s.dev.get THM_RESP_BUSY = 0) ∧ (s.dev.get THM_STAT_LOCKOUT = 0) ∧
    (s.dev.pwd.init = false) ∧ (lenOk n.toNat = true) ∧ (s.dev.pwdIs (pwdBytes s.dev.thmArgs 0 n.toNat) = false)) ∧
  (let s : State := { dev := { Test.dev [(THM_STAT_STATE, 1), (THM_STAT_SAFE_UNLOCK, 1), (THM_STAT_DEV_UNLOCK, 1)] with thm := { gateFall := 3 }, tgrp := [(1, { n0 := 3 })] } };
    let o : Origin := .pair 0; (s.accesses o) ∧ (s.dev.thmRuns = true) ∧ (s.dev.lockOrigin o = true) ∧
    (s.dev.get THM_RESP_BUSY = 0) ∧ (s.dev.unlocks ≠ 0)) ∧
  (let s : State := { dev := { Test.dev [(THM_STAT_STATE, 1), (⟨A_HEM_THMARG 0, 0, 64⟩, 0x4847464544434241)] with thm := { gateFall := 3 }, tgrp := [(1, { n0 := 3 })], per := { pwd := { v1 := { init := false, salt := 0, hash := 0xdba9f9bbeef67132ee78658ba81ef008e359f93f24b6961e79c0c3238734b905 }, v2 := {}, g1 := 1 } } } };
    let o : Origin := .pair 0; let n : BitVec 8 := 8; let m : BitVec 8 := 32; (s.accesses o) ∧
    (s.dev.thmRuns = true) ∧ (s.dev.lockOrigin o = true) ∧ (s.dev.get THM_RESP_BUSY = 0) ∧
    (s.dev.get THM_STAT_LOCKOUT = 0) ∧ (lenOk n.toNat = true) ∧ (lenOk m.toNat = true) ∧
    (s.dev.pwdIs (pwdBytes s.dev.thmArgs 0 n.toNat) = true) ∧
    ((s.dev.per.fill.cur.getD 0) + 1 + s.dev.unlocks ≤ 4096)) ∧
  (let s : State := { dev := { Test.dev [(THM_STAT_STATE, 1), (⟨A_HEM_THMARG 0, 0, 64⟩, 0x4847464544434241), (⟨A_HEM_THMARG 4, 0, 64⟩, 0x141cfc9842c4b0e3), (⟨A_HEM_THMARG 5, 0, 64⟩, 0x24b96f99c8f4fb9a), (⟨A_HEM_THMARG 6, 0, 64⟩, 0x4c939b64e441ae27), (⟨A_HEM_THMARG 7, 0, 64⟩, 0x55b852781b9995a4)] with thm := { gateFall := 3 }, tgrp := [(1, { n0 := 3 })], per := { pwd := { v1 := { init := false, salt := 0, hash := 0xdba9f9bbeef67132ee78658ba81ef008e359f93f24b6961e79c0c3238734b905 }, v2 := {}, g1 := 1 } } } };
    let o : Origin := .pair 0; let n : BitVec 8 := 8; (s.accesses o) ∧ (s.dev.thmRuns = true) ∧
    (s.dev.lockOrigin o = true) ∧ (s.dev.get THM_RESP_BUSY = 0) ∧ (s.dev.get THM_STAT_LOCKOUT = 0) ∧
    (s.dev.pwd.init = false) ∧ (lenOk n.toNat = true) ∧ (s.dev.pwdIs (pwdBytes s.dev.thmArgs 0 n.toNat) = true) ∧
    (sha256 (rdBytes s.mem 0x20200000 (64 * s.dev.per.fill.cur.getD 0)) = ofBytesBE (pwdBytes s.dev.thmArgs 4 32))) ∧
  (let s : State := Test.setState; let o : Origin := .pair 0; let l2 : List (BitVec 8) := Test.setL2;
    let l8 : List (BitVec 8) := Test.hemBody; (s.accesses o) ∧ (s.dev.thmRuns = true) ∧
    (s.dev.lockOrigin o = true) ∧ (s.dev.get THM_RESP_BUSY = 0) ∧ (s.dev.get THM_STAT_SAFE_UNLOCK = 1) ∧
    (s.dev.thmState 0 = 0) ∧ (s.dev.thmState 1 = 0) ∧
    (((List.range 12).all fun n => decide (s.dev.get (STP_STAT_STATE n) = 0)) = true) ∧ (s.section_ 2 = some l2) ∧
    (s.section_ 8 = some l8) ∧ (s.dev.safetySigned l2 = true) ∧
    (setLayoutOk safeRegs (l2.take (l2.length - 128)) = true) ∧ (setLayoutOk hemRegs l8 = true) ∧
    (setBounds (setRecs ((l2.take (l2.length - 128)).length / 16) (l2.take (l2.length - 128)) ++ setRecs (l8.length / 16) l8) = true) ∧
    ((s.dev.per.fill.cur.getD 0) + 1 + s.dev.unlocks ≤ 4096)) := by
  refine ⟨?_, ?_, ?_, ?_, ?_, ?_, ⟨by decide +kernel, by decide +kernel, by decide +kernel, by decide +kernel, by decide +kernel, by decide +kernel, by decide +kernel, by decide +kernel, Test.setState_section2, Test.setState_section8, by decide +kernel, by decide +kernel, by decide +kernel, by decide +kernel, by decide +kernel⟩⟩ <;> decide +kernel

theorem witness_canCommandsComplete :
  (let s : State := { dev := { Test.dev [(CAN_NBT_NBRP 3, 1), (CAN_NBT_NTSEG1 3, 63), (CAN_NBT_NTSEG2 3, 16), (CAN_NBT_NSJW 3, 16), (CAN_DBT_BRP 3, 1), (CAN_DBT_TSEG1 3, 14), (CAN_DBT_TSEG2 3, 5), (CAN_DBT_SJW 3, 5), (CAN_XBT_BRP 3, 1), (CAN_XBT_TSEG1 3, 10), (CAN_XBT_TSEG2 3, 5), (CAN_XBT_SJW 3, 5)] with can := [(3, { held := none })] } };
    let n : Fin 4 := 3; (s.inUse) ∧ (s.dev.get (CAN_STAT_STATE n) = 0) ∧ (s.dev.canCfgErr n = 0)) ∧
  (let s : State := { dev := { Test.dev [(CAN_STAT_STATE 3, 2), (CAN_TXCTL_TXREQ 3, 5)] with can := [(3, { held := none })] } };
    let n : Fin 4 := 3; (s.inUse) ∧ (s.dev.get (CAN_STAT_STATE n) ≠ 0) ∧ ((s.dev.canAt n).arb = none)) ∧
  (let s : State := { dev := { Test.dev [(CAN_STAT_STATE 3, 1)] with can := [(3, { held := none })] } };
    let n : Fin 4 := 3; (s.clocked 2) ∧ (s.dev.get (CAN_STAT_STATE n) = 1)) ∧
  (let s : State := { dev := { Test.dev [(CAN_STAT_STATE 3, 4)] with can := [(3, { held := none })] } };
    let n : Fin 4 := 3; (s.inUse) ∧ (s.dev.get (CAN_STAT_STATE n) = 4)) ∧
  (let s : State := { dev := { Test.dev [(CAN_STAT_STATE 3, 5), (CAN_STAT_TEC 3, 300)] with can := [(3, { held := none })] } };
    let n : Fin 4 := 3; (s.clocked 2) ∧ (s.dev.get (CAN_STAT_STATE n) = 5)) ∧
  (let s : State := { dev := { Test.dev [(CAN_STAT_STATE 3, 2)] with can := [(3, { held := none, arb := some 0 })] } };
    let n : Fin 4 := 3; (s.inUse) ∧ ((s.dev.canOn n = false ∨ (s.dev.canAt n).arb ≠ none))) ∧
  (let s : State := { dev := { Test.dev [(CAN_STAT_STATE 3, 3)] with can := [(3, { held := none })] } };
    let n : Fin 4 := 3; (s.inUse) ∧ (s.dev.canOn n = true) ∧ ((s.dev.canAt n).arb = none) ∧
    ((s.dev.canAt n).stopping = false) ∧ ((s.dev.canAt n).slot = []) ∧ (s.dev.get (CAN_CTL_LISTEN n) = 0) ∧
    (s.dev.get (CAN_TXCTL_TXREQ n) = 0) ∧ (s.dev.get (CAN_TXCTL_TXABORT n) = 0) ∧ (s.canValid n 1 = true)) ∧
  (let s : State := { dev := { Test.dev [(CAN_STAT_STATE 3, 2), (CAN_TXCTL_TXREQ 3, 5)] with can := [(3, { held := none, arb := some 0 })] } };
    let n : Fin 4 := 3; (s.inUse) ∧ ((s.dev.canOn n = false ∨ (s.dev.canAt n).arb ≠ none))) ∧
  (let s : State := { dev := { Test.dev [(CAN_STAT_STATE 3, 2), (CAN_TXCTL_TXREQ 3, 4), (CAN_CTL_TRX_MODE 3, 1)] with can := [(3, { held := none, arb := some 2 })] } };
    let n : Fin 4 := 3; let b : Fin 3 := 2; (s.clocked 2) ∧ (s.dev.canXcvr n = true) ∧
    ((s.dev.canAt n).domOff = false) ∧ ((s.dev.canAt n).arb = some b.val)) ∧
  (let s : State := { dev := { Test.dev [(CAN_STAT_STATE 3, 2), (CAN_TXCTL_TXREQ 3, 4), (CAN_TXCTL_TXABORT 3, 4)] with can := [(3, { held := none, arb := some 2 })] } };
    let n : Fin 4 := 3; let b : Fin 3 := 2; (s.clocked 2) ∧ ((s.dev.canAt n).arb = some b.val) ∧
    (s.dev.tb (CAN_TXCTL_TXABORT n) b = true)) ∧
  (let s : State := { dev := { Test.dev [(CAN_STAT_STATE 3, 2), (SFL_DOMCFG_SEG_CAN, 3), (CAN_TIME_ROLE 3, 1), (CAN_TIME_REF_ID 3, 0x1FFFFFFF)] with can := [(3, { held := none })] } };
    let n : Fin 4 := 3; (s.clocked 2) ∧ (n.val = s.dev.segCan) ∧ (s.dev.get (CAN_TIME_ROLE n) = 1) ∧
    (s.dev.canOn n = true) ∧ (((s.dev.canAt n).slot.any fun f => (s.dev.refCfg n).isRef f) = false)) ∧
  (let s : State := { dev := { Test.dev [(CAN_STAT_STATE 3, 2), (CAN_CTL_ACCEPT_ALL 3, 1), (CAN_CTL_TRX_MODE 3, 1)] with can := [(3, { held := none, tail := 0xFFE8, entries := [(0x9000, 32)] })] } };
    let n : Fin 4 := 3; let f : CanFrame := { data := [1, 2, 3] }; let p : Nat := 0x8000; (s.clocked 2) ∧
    (s.dev.canOn n = true) ∧ (s.dev.canXcvr n = true) ∧ ((s.dev.canAt n).idleWait = false) ∧
    (s.dev.canEnabled n f = true) ∧ (((List.range 128).all fun k => !s.dev.canMatch n k f) = true) ∧
    (s.dev.get (CAN_CTL_ACCEPT_ALL n) = 1) ∧ ((s.dev.canAt n).place (canSize f.data.length) = some p)) ∧
  (let s : State := { dev := { Test.dev [] with can := [(3, { held := some (7, 8) })] } }; let n : Fin 4 := 3;
    (s.clocked 2) ∧ ((s.dev.canAt n).held.isSome = true)) ∧
  (let s : State := { dev := { Test.dev [(CAN_STAT_STATE 3, 3)] with can := [(3, { held := none })] } };
    let n : Fin 4 := 3; (s.clocked 2) ∧ (s.dev.canOn n = true) ∧ ((s.dev.canAt n).stopping = false)) ∧
  (let s : State := { dev := { Test.dev [(CAN_STAT_STATE 3, 3), (CAN_STAT_TEC 3, 248)] with can := [(3, { held := none })] } };
    let n : Fin 4 := 3; (s.clocked 2) ∧ (s.dev.canOn n = true)) ∧
  (let s : State := { dev := { Test.dev [(CAN_STAT_STATE 3, 2), (CAN_STAT_REC 3, 255)] with can := [(3, { held := none })] } };
    let n : Fin 4 := 3; (s.clocked 2) ∧ (s.dev.canOn n = true)) ∧
  (let s : State := { dev := { Test.dev [] with can := [(3, { held := none, entries := [(0x8000, 24), (0x8018, 32)] })] } };
    let n : Fin 4 := 3; let e : Nat × Nat := (0x8000, 24); let l : List (Nat × Nat) := [(0x8018, 32)]; (s.inUse) ∧
    ((s.dev.canAt n).entries = e :: l)) ∧
  (let s : State := { dev := { Test.dev [(CAN_HP_FULL 3, 7)] with can := [(3, { held := none })] } }; (s.inUse)) ∧
  (let s : State := { dev := { Test.dev [(CAN_CTL_TRX_MODE 3, 1)] with can := [(3, { held := none })] } };
    let n : Fin 4 := 3; (s.clocked 2) ∧ (s.dev.canXcvr n = true)) := by
  refine ⟨?_, ?_, ?_, ?_, ?_, ?_, ?_, ?_, ?_, ?_, ?_, ?_, ?_, ?_, ?_, ?_, ?_, ?_, ?_⟩ <;> decide +kernel

theorem witness_ethernetCommandsComplete :
  (let s : State := { dev := { Test.dev [(ETH_CTL_P1_EN, 1)] with eth := { txRun := false } } };
    let p : Fin 2 := 1; (s.powered) ∧ (s.dev.ethEn p = true)) ∧
  (let s : State := { dev := { Test.dev [(ETH_CTL_P1_EN, 1), (ETH_PHY_LINK 1, 1)] with eth := { txRun := false } } };
    let p : Fin 2 := 1; (s.powered) ∧ (s.dev.get (ETH_PHY_LINK p) = 1)) ∧
  (let s : State := { dev := { Test.dev [(ETH_CTL_P1_EN, 1), (ETH_PHY_LINK 1, 1), (ETH_CTL_AS_EN, 1), (ETH_ASPORT_AS_CAPABLE 1, 1)] with eth := { txRun := false } } };
    let p : Fin 2 := 1; let a : Announce := { prio1 := 5, gm := 9 }; (s.powered) ∧ (s.dev.asUp p = true) ∧
    (a.prio1 ≠ 255) ∧ (s.dev.eth.ann = [])) ∧
  (let s : State := { dev := { Test.dev [(ETH_CTL_P1_EN, 1), (ETH_PHY_LINK 1, 1), (ETH_CTL_P0_EN, 1), (ETH_PHY_LINK 0, 1), (ETH_CTL_AS_EN, 1), (ETH_ASCFG_PRIO1, 255), (ETH_ASPORT_AS_CAPABLE 0, 1), (ETH_ASPORT_AS_CAPABLE 1, 1)] with eth := { ann := [(0, { prio1 := 5 })] } } };
    let p : Fin 2 := 1; let a : Announce := { prio1 := 5 }; (s.powered) ∧ (s.dev.asUp p = true) ∧
    (s.dev.get ETH_ASCFG_PRIO1 = 255) ∧ (s.dev.eth.ann = [(1 - p.val, a)]) ∧ (s.dev.asUp (1 - p.val) = true)) ∧
  (let s : State := { dev := { Test.dev [(ETH_ASPORT_AS_ROLE 1, 0)] with eth := { txRun := false } } };
    let p : Fin 2 := 1; (s.powered) ∧ (s.dev.get (ETH_ASPORT_AS_ROLE p) = 0)) ∧
  (let s : State := { dev := { Test.dev [(ETH_ASPORT_AS_ROLE 1, 1), (DTM_STAT_SRC, 2)] with eth := { txRun := false } } };
    let p : Fin 2 := 1; (s.powered) ∧ (s.dev.get (ETH_ASPORT_AS_ROLE p) = 1) ∧ (s.dev.get DTM_STAT_SRC = 2)) ∧
  (let s : State := { dev := { Test.dev [(ETH_CTL_P1_EN, 1), (ETH_PHY_LINK 1, 1), (ETH_CTL_AS_EN, 1)] with eth := { txRun := false } } };
    let p : Fin 2 := 1; (s.powered) ∧ (s.dev.ethUp p = true) ∧ (s.dev.get ETH_CTL_AS_EN = 1)) ∧
  (let s : State := { dev := { Test.dev [(ETH_ASPORT_AS_ROLE 1, 1)] with eth := { txRun := false } } };
    let p : Fin 2 := 1; (s.powered) ∧ (s.dev.get (ETH_ASPORT_AS_ROLE p) = 1)) ∧
  (let s : State := { dev := { Test.dev [(ETH_CTL_P1_EN, 1), (ETH_PHY_LINK 1, 1), (ETH_CTL_AS_EN, 0)] with eth := { txRun := false } } };
    let p : Fin 2 := 1; let l : List (BitVec 8) := (List.replicate 5 0 ++ [9] ++ [2, 0, 0, 0, 0,
    7] ++ List.replicate 48 0); (s.powered) ∧ (s.dev.ethUp p = true) ∧ (s.dev.get ETH_CTL_AS_EN = 0) ∧
    (60 ≤ l.length) ∧ (l.length ≤ 1518) ∧ (macGroup (macSrc l) = false) ∧
    ((s.dev.eth.macs.filter fun e => e.1 ≠ macSrc l).length < 256)) ∧
  (let s : State := { dev := { Test.dev [(ETH_CTL_P1_EN, 1), (ETH_PHY_LINK 1, 1), (ETH_CTL_AS_EN, 0)] with eth := { txRun := false } } };
    let p : Fin 2 := 1; (s.powered) ∧ (s.dev.ethUp p = true)) ∧
  (let s : State := { dev := { Test.dev [(ETH_CTL_P1_EN, 1), (ETH_PHY_LINK 1, 1), (ETH_CTL_AS_EN, 0), (ETH_CTL_HOST_EN, 1), (pllFld 0, 0)] with regs := (Test.dev [(ETH_CTL_P1_EN, 1), (ETH_PHY_LINK 1, 1), (ETH_CTL_AS_EN, 0), (ETH_CTL_HOST_EN, 1), (pllFld 0, 0)]).regs ++ [(A_ETH_MACADDR, 0x020000000009)] } };
    let p : Fin 2 := 1; let l : List (BitVec 8) := ([2, 0, 0, 0, 0, 9] ++ [2, 0, 0, 0, 0, 7] ++ [0x81, 0,
    0x80] ++ List.replicate 50 0); (s.powered) ∧ (s.dev.clk 0 = false) ∧ (s.dev.ethUp p = true) ∧
    (s.dev.get ETH_CTL_AS_EN = 0) ∧ (60 ≤ l.length) ∧ (l.length ≤ 1518) ∧ (s.dev.get ETH_CTL_HOST_EN = 1) ∧
    (macGroup (macDst l) = false) ∧ (macDst l = s.dev.get ETH_MACADDR_MAC) ∧ (pcpHigh l = true) ∧
    (s.dev.eth.hostHigh.length < 32)) ∧
  (let s : State := { dev := { Test.dev [(ETH_CTL_HOST_EN, 1), (ETH_TXRING_BASE, 0x10000000)] with eth := { txRun := false } }, mem := [(0x1000000F, 0x80)] };
    (s.inUse) ∧ (s.dev.get ETH_CTL_HOST_EN = 1) ∧ (s.txOwned = true)) ∧
  (let s : State := { dev := { Test.dev [(ETH_CTL_HOST_EN, 1), (ETH_TXRING_BASE, 0x10000000), (ETH_TXRING_SIZE, 2)] with eth := { txRun := true } }, mem := [(0x1000000F, 0x80)] };
    (s.clocked 0) ∧ (s.dev.eth.txRun = true) ∧ (s.txOwned = true) ∧ (s.dev.get ETH_CTL_HOST_EN = 1)) ∧
  (let s : State := { dev := { Test.dev [] with eth := { macs := [(7, 1), (9, 0)] } } }; (s.powered)) := by
  refine ⟨?_, ?_, ?_, ?_, ?_, ?_, ?_, ?_, ?_, ?_, ?_, ?_, ?_, ?_⟩ <;> decide +kernel

theorem witness_domainCommandsComplete :
  (let s : State := { dev := { Test.dev [(CAN_STAT_STATE 0, 2), (CAN_CTL_TRX_MODE 0, 1), (SYS_PWRSTATE_READY, 1), (SFL_DOMCFG_SEG_CAN, 3)] with dom := { latePairs := 0 } } };
    (s.inUse) ∧ (s.dev.domState = 0) ∧ (s.dev.get SYS_PWRSTATE_READY = 1)) ∧
  (let s : State := { dev := { Test.dev [(CAN_STAT_STATE 0, 2), (CAN_CTL_TRX_MODE 0, 1), (SFL_DOMSTAT_STATE, 5)] with dom := { latePairs := 0, members := [{}] } } };
    (s.inUse) ∧ (s.dev.domState ≠ 0)) ∧
  (let s : State := { dev := { Test.dev [(CAN_STAT_STATE 0, 2), (CAN_CTL_TRX_MODE 0, 1), (SFL_DOMSTAT_STATE, 1), (SFL_DOMCFG_DPP, 3)] with dom := { latePairs := 0 }, time := 3000000000 } };
    (s.powered) ∧ (s.dev.domState = 1) ∧ (s.dev.dom.heard = false) ∧
    (s.dev.get SFL_DOMCFG_FORM_DELAY_MS ≤ s.dev.timeMs)) ∧
  (let s : State := { dev := { Test.dev [(CAN_STAT_STATE 0, 2), (CAN_CTL_TRX_MODE 0, 1), (SFL_DOMSTAT_STATE, 1)] with dom := { latePairs := 0 } } };
    (s.onSegment) ∧ (s.dev.domState = 1)) ∧
  (let s : State := { dev := { Test.dev [(CAN_STAT_STATE 0, 2), (CAN_CTL_TRX_MODE 0, 1), (SFL_DOMSTAT_STATE, 2)] with dom := { latePairs := 0, members := [{ uid := 9 }] } } };
    (s.onSegment) ∧ (s.dev.domState = 2) ∧ (s.dev.dom.joined = false) ∧ (s.dev.dom.seen + 1 < 32)) ∧
  (let s : State := { dev := { Test.dev [(CAN_STAT_STATE 0, 2), (CAN_CTL_TRX_MODE 0, 1), (SFL_DOMSTAT_STATE, 2)] with dom := { latePairs := 0, members := [{ uid := 9 }] } } };
    (s.onSegment) ∧ (s.dev.domState ≠ 0) ∧ (s.dev.dom.joined = false)) ∧
  (let s : State := { dev := { Test.dev [(CAN_STAT_STATE 0, 2), (CAN_CTL_TRX_MODE 0, 1), (SFL_DOMSTAT_STATE, 1)] with dom := { latePairs := 0 } } };
    (s.onSegment) ∧ (s.dev.domState ≠ 0) ∧ (s.dev.domState ≠ 7)) ∧
  (let s : State := { dev := { Test.dev [(CAN_STAT_STATE 0, 2), (CAN_CTL_TRX_MODE 0, 1), (SFL_DOMSTAT_STATE, 6), (DTM_STAT_SRC, 3)] with dom := { latePairs := 0 } } };
    (s.onSegment) ∧ (s.dev.domState ≠ 0) ∧ (s.dev.get DTM_STAT_SRC = 3)) ∧
  (let s : State := { dev := { Test.dev [(CAN_STAT_STATE 0, 2), (CAN_CTL_TRX_MODE 0, 1), (SFL_DOMSTAT_STATE, 3)] with dom := { latePairs := 0 } } };
    (s.onSegment) ∧ ((s.dev.domState = 3 ∨ s.dev.domState = 4))) ∧
  (let s : State := { dev := { Test.dev [(CAN_STAT_STATE 0, 2), (CAN_CTL_TRX_MODE 0, 1), (SFL_DOMSTAT_STATE, 2)] with dom := { latePairs := 0, contending := true, out := true } } };
    (s.powered) ∧ (s.dev.domState = 2) ∧ (s.dev.dom.contending = true) ∧ (s.dev.dom.registered = false)) ∧
  (let s : State := { dev := { Test.dev [(CAN_STAT_STATE 0, 2), (CAN_CTL_TRX_MODE 0, 1), (SFL_DOMSTAT_STATE, 2)] with dom := { latePairs := 0, registered := true, members := [{ uid := 9, vmin := 1, vmax := 1 }] } } };
    (s.powered) ∧ (s.dev.domState = 2) ∧ (s.dev.dom.registered = true) ∧ (s.dev.dom.late = false) ∧
    ((s.dev.dom.members.all fun m => decide (m.vmin ≤ 1) && decide (1 ≤ m.vmax)) = true) ∧
    ((s.dev.dom.members.any fun m => m.trunk) = false)) ∧
  (let s : State := { dev := { Test.dev [(CAN_STAT_STATE 0, 2), (CAN_CTL_TRX_MODE 0, 1), (SFL_DOMSTAT_STATE, 2)] with dom := { latePairs := 0, seen := 32 } } };
    (s.powered) ∧ (s.dev.domState = 2) ∧ (s.dev.dom.registered = false) ∧ (32 ≤ s.dev.dom.seen)) ∧
  (let s : State := { dev := { Test.dev [(CAN_STAT_STATE 0, 2), (CAN_CTL_TRX_MODE 0, 1), (SFL_DOMSTAT_GM, 1)] with dom := { latePairs := 0, segs := [{ leader := 4 }] } } };
    let r : SegReg := { leader := 5 }; (s.powered) ∧ (s.dev.get SFL_DOMSTAT_GM = 1) ∧
    ((s.dev.dom.segs.any fun x => decide (x.leader = r.leader)) = false) ∧ (s.dev.dom.closed = false) ∧
    (s.dev.get SFL_DOMCFG_EXP_SEGS = 0)) ∧
  (let s : State := { dev := { Test.dev [(CAN_STAT_STATE 0, 2), (CAN_CTL_TRX_MODE 0, 1), (SFL_DOMSTAT_GM, 1)] with dom := { latePairs := 0, segs := [{ leader := 4 }] } } };
    (s.powered) ∧ (s.dev.get SFL_DOMSTAT_GM = 1) ∧ (s.dev.dom.closed = false)) ∧
  (let s : State := { dev := { Test.dev [(CAN_STAT_STATE 0, 2), (CAN_CTL_TRX_MODE 0, 1), (SFL_LEADERID_UID, 7), (SFL_DOMSTAT_LEADER, 1)] with dom := { latePairs := 0 } } };
    let l : BitVec 64 := 7; let v : BitVec 4 := 1; (s.powered) ∧ (l.toNat = s.dev.get SFL_LEADERID_UID) ∧
    ((s.dev.bit SFL_DOMSTAT_LEADER = true ∨ s.dev.bit SFL_DOMSTAT_GW = true)) ∧ (v ≠ 0)) ∧
  (let s : State := { dev := { Test.dev [(CAN_STAT_STATE 0, 2), (CAN_CTL_TRX_MODE 0, 1), (SFL_DOMSTAT_GW, 1)] with dom := { latePairs := 0, joined := true, ack := 9 } } };
    (s.powered) ∧ (s.dev.dom.joined = true) ∧ (s.dev.get SFL_DOMSTAT_GW = 1)) ∧
  (let s : State := { dev := { Test.dev [(CAN_STAT_STATE 0, 2), (CAN_CTL_TRX_MODE 0, 1), (SFL_DOMSTAT_GM, 1)] with dom := { latePairs := 0, segs := [{ members := [4] }] } } };
    let u : BitVec 64 := 5; (s.powered) ∧ (s.dev.get SFL_DOMSTAT_GM = 1) ∧
    ((s.dev.dom.segs.any fun r => r.members.contains u) = false)) ∧
  (let s : State := { dev := { Test.dev [(CAN_STAT_STATE 0, 2), (CAN_CTL_TRX_MODE 0, 1), (SFL_DOMSTAT_STATE, 3), (SFL_DOMSTAT_LEADER, 1)] with dom := { latePairs := 0 } } };
    (s.powered) ∧ (s.dev.domState = 3) ∧ (s.dev.get SFL_DOMSTAT_LEADER = 1) ∧ (s.dev.get SFL_DOMSTAT_GM = 0)) ∧
  (let s : State := { dev := { Test.dev [(CAN_STAT_STATE 0, 2), (CAN_CTL_TRX_MODE 0, 1), (SFL_DOMSTAT_STATE, 5)] with dom := { latePairs := 0 } } };
    (s.powered) ∧ (s.dev.domState = 5)) ∧
  (let s : State := { dev := { Test.dev [(CAN_STAT_STATE 0, 2), (CAN_CTL_TRX_MODE 0, 1), (SFL_LEADERID_UID, 4)] with dom := { latePairs := 0, joined := true, members := [{ uid := 4 }, { uid := 9 }] } } };
    (s.powered) ∧ (s.dev.dom.joined = true) ∧ (s.dev.get SFL_DOMSTAT_LEADER = 0)) ∧
  (let s : State := { dev := { Test.dev [(CAN_STAT_STATE 0, 2), (CAN_CTL_TRX_MODE 0, 1)] with dom := { latePairs := 0, segs := [{}], closed := true } } };
    (s.powered) ∧ (s.dev.dom.joined = false)) := by
  refine ⟨?_, ?_, ?_, ?_, ?_, ?_, ?_, ?_, ?_, ?_, ?_, ?_, ?_, ?_, ?_, ?_, ?_, ?_, ?_, ?_, ?_⟩ <;> decide +kernel

theorem witness_safetyFrameCommandsComplete :
  (let s : State := { dev := { Test.dev [] with free := 0, sfl := { txq := [(1, [2]), (3, [4])] } } };
    let e : Nat × List (BitVec 8) := (1, [2]); let l : List (Nat × List (BitVec 8)) := [(3, [4])]; (s.inUse) ∧
    (s.dev.sfl.txq = e :: l)) ∧
  (let s : State := { dev := { Test.dev [(SFL_CCFG_CONN_ID 255, 7), (THM_STAT_SAFE_UNLOCK, 1)] with free := 0 } };
    let k : Fin 256 := 255; let o : Origin := .pair 0; (s.accesses o) ∧ (s.dev.get (SFL_CCFG_EN k) = 0) ∧
    (s.dev.rwsOk o = true) ∧ (s.dev.get (SFL_CCFG_CONN_ID k) ≠ 0) ∧ (s.dev.get (SFL_CSTAT_STATE k) = 0)) ∧
  (let s : State := { dev := { Test.dev [(SFL_CCFG_EN 255, 1), (SFL_CCFG_CONN_ID 255, 7), (SFL_CCFG_DIR 255, 1), (SFL_CSTAT_STATE 255, 1)] with free := 0, time := 70000 } };
    let k : Fin 256 := 255; (s.clocked 0) ∧ (s.dev.sflOn k = true) ∧ (s.dev.get (SFL_CCFG_DIR k) = 1) ∧
    (s.dev.get (SFL_CSTAT_STATE k) = 1) ∧ (s.dev.sfl.txq.length < 16)) ∧
  (let s : State := { dev := { Test.dev [(SFL_CCFG_EN 255, 1), (SFL_CCFG_CONN_ID 255, 7), (SFL_CSTAT_STATE 255, 2)] with free := 0 } };
    let k : Fin 256 := 255; (s.powered) ∧ (s.dev.sflOn k = true) ∧ (s.dev.get (SFL_CCFG_DIR k) = 0) ∧
    (s.dev.get (SFL_CSTAT_STATE k) = 2)) ∧
  (let s : State := { dev := { Test.dev [(SFL_CCFG_EN 255, 1), (SFL_CCFG_CONN_ID 255, 7), (SFL_CCFG_DIR 255, 1), (SFL_CSTAT_STATE 255, 2), (SFL_CSTAT_SEQ 255, 65535)] with free := 0 } };
    let k : Fin 256 := 255; (s.inUse) ∧ (s.dev.sflOn k = true) ∧ (s.dev.get (SFL_CCFG_DIR k) = 1) ∧
    (s.dev.get (SFL_CCFG_CLASS k) = 0) ∧ (s.dev.get (SFL_CSTAT_STATE k) = 2) ∧ (s.dev.sfl.txq.length < 16)) ∧
  (let s : State := { dev := { Test.dev [] with free := 0 } }; let n : BitVec 16 := 5; (s.inUse) ∧
    ((rdBytes s.mem 0x40B00200 (min n.toNat 257)).length ≠ ((rdBytes s.mem 0x40B00200 (min n.toNat 257)).getD 1 0).toNat + 14)) ∧
  (let s : State := { dev := { Test.dev [(SFL_CCFG_EN 2, 1), (SFL_CCFG_CONN_ID 2, 7), (SFL_CSTAT_STATE 2, 2), (SFL_CSTAT_VER 2, 1), (SFL_CCFG_TEXP 2, 10), (SFL_CSTAT_SEQ 2, 65535), (⟨A_SFL_CPEER 2, 0, 64⟩, 9)] with free := 0 }, mem := wrBytes [] 0x40B00200 (sflFrame 9 1 0 7 1 10 [1, 0, 0, 0, 0, 0, 0, 0]) };
    let k : Nat := 2; let n : BitVec 16 := 22; let f : List (BitVec 8) := sflFrame 9 1 0 7 1 10 [1, 0, 0, 0, 0, 0,
    0, 0]; (s.inUse) ∧ (rdBytes s.mem 0x40B00200 (min n.toNat 257) = f) ∧ (f.length = (f.getD 1 0).toNat + 14) ∧
    (f.getD 1 0 ≠ 0) ∧ ((f.getD 1 0).toNat ≤ 240) ∧
    (s.dev.sflFind (ofBytesLE ((f.drop 2).take 4)) ((f.getD 0 0).toNat % 16) = some k) ∧
    (crcAutosar (bytesLE 8 (s.dev.sflProducer k) ++ f.take ((f.getD 1 0).toNat + 10)) = ofBytesLE (f.drop ((f.getD 1 0).toNat + 10))) ∧
    ((f.getD 0 0).toNat % 16 = 0) ∧ (s.dev.get (SFL_CSTAT_STATE k) ≠ 1) ∧
    (s.dev.sflChecks k 0 ((f.getD 0 0).toNat / 16) (ofBytesLE ((f.drop 6).take 2)) (ofBytesLE ((f.drop 8).take 2)) = 1)) := by decide +kernel

theorem witness_crcCommandsComplete :
  (let s : State := { dev := { Test.dev [(CRC_CFG_ALG 7, 3)] with free := 0 } }; let u : Fin 8 := 7; (s.inUse) ∧
    (s.dev.get (CRC_CTL_BUSY u) = 0)) ∧
  (let s : State := { dev := { Test.dev [(CRC_LEN 7, 9), (CRC_CTL_ERR 7, 1)] with free := 0 } };
    let u : Fin 8 := 7; (s.inUse) ∧ (s.dev.get (CRC_CTL_BUSY u) = 0) ∧ (s.dev.get (CRC_LEN u) ≠ 0)) ∧
  (let s : State := { dev := { Test.dev [(CRC_CFG_ALG 7, 5)] with free := 0 } }; let u : Fin 8 := 7; (s.inUse) ∧
    (s.dev.get (CRC_CTL_BUSY u) = 0)) ∧
  (let s : State := { dev := { Test.dev [(CRC_CTL_BUSY 7, 1)] with free := 0 } }; let u : Fin 8 := 7; (s.inUse) ∧
    (s.dev.get (CRC_CTL_BUSY u) = 1)) ∧
  (let s : State := { dev := { Test.dev [(CRC_CTL_BUSY 7, 1), (CRC_LEN 7, 8), (CRC_ADDR 7, 0x10FFFFF8), (CRC_CFG_ALG 7, 2)] with free := 0 } };
    let u : Fin 8 := 7; let a : Nat := 0x10FFFFF8; (s.clocked 0) ∧ (s.dev.get (CRC_CTL_BUSY u) = 1) ∧
    (s.dev.get (CRC_ADDR u) = a) ∧ (0x10000000 ≤ a) ∧ (a + 8 ≤ 0x11000000) ∧ (s.dev.get (CRC_LEN u) = 8)) ∧
  (let s : State := { dev := { Test.dev [(CRC_CTL_BUSY 7, 1), (CRC_LEN 7, 8)] with free := 0 } };
    let u : Fin 8 := 7; (s.inUse) ∧ (s.dev.get (CRC_CTL_BUSY u) = 1) ∧ (s.dev.get (CRC_LEN u) ≠ 0)) := by decide +kernel

theorem witness_hostPortCommandsComplete :
  (let s : State := { dev := { Test.dev [] with free := 0, spih := { reply := some [1] } } }; (s.powered) ∧
    (s.dev.spih.low = false) ∧ (s.dev.spih.req = none)) ∧
  (let s : State := { dev := { Test.dev [] with free := 0, spih := { low := true } } };
    let l : List (BitVec 8) := ([0, 9, 0, 0, 0, 0, 0, 0] : List (BitVec 8)) ++ bytesBE 2 (crc16 [0, 9, 0, 0, 0, 0,
    0, 0]); let q : SpiReq := { tag := 9 }; (s.clocked 2) ∧ (s.dev.spih.low = true) ∧
    (s.dev.spih.discard = false) ∧ (s.dev.spih.resetDue = false) ∧ (spiRequest l = some q)) ∧
  (let s : State := { dev := { Test.dev [] with free := 0, spih := { low := true } } };
    let l : List (BitVec 8) := [1, 2, 3]; (s.clocked 2) ∧ (s.dev.spih.low = true) ∧ (s.dev.spih.discard = false) ∧
    (s.dev.spih.resetDue = false) ∧ (spiRequest l = none)) ∧
  (let s : State := { dev := { Test.dev [] with free := 0, spih := { req := some { cmd := 0, tag := 9, len8 := 0, addr := 0, data := [] } }, boot := { recovery := false, stage := 7 } } };
    let q : SpiReq := { cmd := 0, tag := 9, len8 := 0, addr := 0, data := [] }; (s.serves) ∧
    (s.dev.spih.req = some q) ∧ (q.cmd = 0)) ∧
  (let s : State := { dev := { Test.dev [] with free := 0, spih := { req := some { cmd := 1, tag := 9, len8 := 1, addr := 0x10000100, data := [] } }, boot := { recovery := false, stage := 7 } }, mem := [(0x10000101, 7)] };
    let q : SpiReq := { cmd := 1, tag := 9, len8 := 1, addr := 0x10000100, data := [] }; (s.serves) ∧
    (s.dev.spih.req = some q) ∧ (q.cmd = 1) ∧ (s.dev.boot.recovery = false) ∧ (q.len8 = 1) ∧
    (0x10000000 ≤ q.addr) ∧ (q.addr + 8 ≤ 0x11000000)) ∧
  (let s : State := { dev := { Test.dev [] with free := 0, spih := { req := some { cmd := 2, tag := 9, len8 := 1, addr := 0x10000100, data := [1, 2, 3, 4, 5, 6, 7, 8] } }, boot := { recovery := false, stage := 7 } } };
    let q : SpiReq := { cmd := 2, tag := 9, len8 := 1, addr := 0x10000100, data := [1, 2, 3, 4, 5, 6, 7, 8] };
    (s.serves) ∧ (s.dev.spih.req = some q) ∧ (q.cmd = 2) ∧ (s.dev.boot.recovery = false) ∧ (q.len8 = 1) ∧
    (0x10000000 ≤ q.addr) ∧ (q.addr + 8 ≤ 0x11000000)) ∧
  (let s : State := { dev := { Test.dev [] with free := 0, spih := { req := some { cmd := 16, tag := 9, len8 := 2, addr := 0x0FFFFFF0, data := [] } }, boot := { recovery := false, stage := 7 } } };
    let q : SpiReq := { cmd := 16, tag := 9, len8 := 2, addr := 0x0FFFFFF0, data := [] }; (s.servesFlash) ∧
    (s.dev.spih.req = some q) ∧ (q.cmd = 0x10) ∧ ((s.dev.get SPI_M0CTL_BUSY = 0 ∨ s.dev.m0.behind = true)) ∧
    (q.addr + 8 * q.len8 ≤ 0x10000000)) ∧
  (let s : State := { dev := { Test.dev [] with free := 0, spih := { req := some { cmd := 17, tag := 9, len8 := 0, addr := 0x0FFFFFFF, data := [7] } }, boot := { recovery := false, stage := 7 } } };
    let q : SpiReq := { cmd := 17, tag := 9, len8 := 0, addr := 0x0FFFFFFF, data := [7] }; let b : BitVec 8 := 7;
    (s.servesFlash) ∧ (s.dev.spih.req = some q) ∧ (q.cmd = 0x11) ∧
    ((s.dev.get SPI_M0CTL_BUSY = 0 ∨ s.dev.m0.behind = true)) ∧ (s.dev.flashRefusal q.addr 1 = 0) ∧
    (q.data = [b]) ∧ (flash8 s.flash q.addr = 0xFF)) ∧
  (let s : State := { dev := { Test.dev [] with free := 0, spih := { req := some { cmd := 18, tag := 9, len8 := 0, addr := 0x0FFF1234, data := [] } }, boot := { recovery := false, stage := 7 } }, flash := [(0x0FFFFFFF, 5)] };
    let q : SpiReq := { cmd := 18, tag := 9, len8 := 0, addr := 0x0FFF1234, data := [] }; (s.servesFlash) ∧
    (s.dev.spih.req = some q) ∧ (q.cmd = 0x12) ∧ ((s.dev.get SPI_M0CTL_BUSY = 0 ∨ s.dev.m0.behind = true)) ∧
    (s.dev.flashRefusal q.addr 1 = 0)) ∧
  (let s : State := { dev := { Test.dev [] with free := 0, spih := { req := some { cmd := 32, tag := 9, len8 := 5, addr := 0, data := ([3, 1, 0, 0, 0, 0, 0, 0] : List (BitVec 8)) ++ bytesBE 32 77 } }, boot := { recovery := true, stage := 2 } } };
    let q : SpiReq := { cmd := 32, tag := 9, len8 := 5, addr := 0, data := ([3, 1, 0, 0, 0, 0, 0, 0] : List (BitVec 8)) ++ bytesBE 32 77 };
    (s.serves) ∧ (s.dev.spih.req = some q) ∧ (q.cmd = 0x20) ∧ (s.dev.boot.recovery = true) ∧ (q.len8 = 5) ∧
    ((q.data.getD 0 0).toNat < 4) ∧ ((q.data.getD 1 0).toNat < 2) ∧
    ((s.dev.keySlot (q.data.getD 0 0).toNat).programmed = false)) ∧
  (let s : State := { dev := { Test.dev [] with free := 0, spih := { req := some { cmd := 33, tag := 9, len8 := 17, addr := 0, data := List.replicate 136 0 } }, boot := { recovery := true, stage := 2 } } };
    let q : SpiReq := { cmd := 33, tag := 9, len8 := 17, addr := 0, data := List.replicate 136 0 }; (s.serves) ∧
    (s.dev.spih.req = some q) ∧ (q.cmd = 0x21) ∧ (s.dev.boot.recovery = true) ∧ (q.len8 = 17)) ∧
  (let s : State := { dev := { Test.dev [] with free := 0, spih := { req := some { cmd := 48, tag := 9, len8 := 0, addr := 0, data := [] } }, boot := { recovery := true, stage := 2 } } };
    let q : SpiReq := { cmd := 48, tag := 9, len8 := 0, addr := 0, data := [] }; (s.serves) ∧
    (s.dev.spih.req = some q) ∧ (q.cmd = 0x30) ∧ (s.dev.boot.recovery = true)) ∧
  (let s : State := { dev := { Test.dev [] with free := 0, spih := { req := some { cmd := 49, tag := 9, len8 := 0, addr := 0, data := [] } }, boot := { recovery := false, stage := 7 } } };
    let q : SpiReq := { cmd := 49, tag := 9, len8 := 0, addr := 0, data := [] }; (s.serves) ∧
    (s.dev.spih.req = some q) ∧ (spiCmds.contains q.cmd = false)) := by
  refine ⟨?_, ?_, ?_, ?_, ?_, ?_, ?_, ?_, ?_, ?_, ?_, ?_, ?_⟩ <;> decide +kernel

theorem witness_spiMastersComplete :
  (let s : State := { dev := { Test.dev [(SPI_M0CTL_RESULT, 4)] with free := 0 } }; (s.inUse) ∧
    (s.dev.get SPI_M0CTL_BUSY = 0) ∧ ((s.dev.imageRuns = false ∨ s.dev.m0Protected = false))) ∧
  (let s : State := { dev := { Test.dev [(SPI_M0CTL_BUSY, 1), (SPI_M0CMD_LEN, 4), (SPI_M0BUF, 0x10000000), (SPI_M0CMD_DIR, 1)] with free := 0 } };
    (s.clocked 2) ∧ (s.dev.get SPI_M0CTL_BUSY = 1) ∧ (s.dev.m0.behind = false) ∧
    ((s.dev.get SPI_M0CMD_LEN = 0 ∨ s.dev.clk 0 = true)) ∧
    ((s.dev.get SPI_M0CMD_LEN = 0 ∨ inSram (s.dev.get SPI_M0BUF / 8 * 8) (s.dev.get SPI_M0CMD_LEN) = true))) ∧
  (let s : State := { dev := { Test.dev [(SPI_M0CTL_BUSY, 1), (SPI_M0CMD_LEN, 4), (SPI_M0BUF, 0x10000000), (SPI_M0CMD_ADDR_BYTES, 2), (⟨A_SPI_M0ADDR, 0, 64⟩, 0x100)] with free := 0 } };
    let a : BitVec 32 := 0x103; (s.clocked 2) ∧ (s.dev.get SPI_M0CTL_BUSY = 1) ∧ (s.dev.m0.behind = false) ∧
    (s.dev.clk 0 = true) ∧ (s.dev.get SPI_M0CMD_DIR = 0) ∧ (s.dev.get SPI_M0CMD_ADDR_BYTES ≠ 0) ∧
    (s.dev.get SPI_M0ADDR % 2 ^ 32 ≤ a.toNat) ∧
    (a.toNat < s.dev.get SPI_M0ADDR % 2 ^ 32 + s.dev.get SPI_M0CMD_LEN) ∧ (flash8 s.flash a.toNat = 0xFF) ∧
    (inSram (s.dev.get SPI_M0BUF / 8 * 8) (s.dev.get SPI_M0CMD_LEN) = true)) ∧
  (let s : State := { dev := { Test.dev [(SPI_M0CTL_BUSY, 1)] with free := 0 } }; (s.clocked 2) ∧
    (s.dev.get SPI_M0CTL_BUSY = 1) ∧ (s.dev.m0.behind = false)) ∧
  (let s : State := { dev := { Test.dev [(SPI_M0CTL_BUSY, 1)] with free := 0 } }; (s.clocked 0) ∧
    (s.dev.flashBusy = true)) ∧
  (let s : State := { dev := { Test.dev [] with free := 0 } }; (s.clocked 0)) ∧
  (let s : State := { dev := { Test.dev [] with free := 0, m1 := { queue := List.replicate 15 0 } } };
    (s.inUse) ∧ (s.dev.m1.queue.length < 16)) ∧
  (let s : State := { dev := { Test.dev [] with free := 0, m1 := { queue := [7 <<< 48, 3], rx := List.replicate 15 0 } } };
    let v : BitVec 64 := 7 <<< 48; let r : List (BitVec 64) := [3]; (s.clocked 2) ∧ (s.dev.m1.queue = v :: r) ∧
    (m1Long v = false) ∧ (s.dev.m1.rx.length < 16)) ∧
  (let s : State := { dev := { Test.dev [] with free := 0, m1 := { rx := [1, 2] } } }; let w : BitVec 32 := 1;
    let r : List (BitVec 32) := [2]; (s.inUse) ∧ (s.dev.m1.rx = w :: r)) := by
  refine ⟨?_, ?_, ?_, ?_, ?_, ?_, ?_, ?_, ?_⟩ <;> decide +kernel

theorem witness_serialPortsComplete :
  (let s : State := { dev := { Test.dev [(LUA_CFG_EN 3, 1), (LUA_CFG_MODE 3, 1)] with lu := [(3, { span := 1, tx := List.replicate 15 0 })] } };
    let n : Fin 4 := 3; (s.inUse) ∧ ((s.dev.luAt n).tx.length < 16)) ∧
  (let s : State := { dev := { Test.dev [(LUA_CFG_EN 3, 1), (LUA_CFG_MODE 3, 1)] with lu := [(3, { span := 1, tx := [5] })] } };
    let n : Fin 4 := 3; let b : BitVec 8 := 5; let l : List (BitVec 8) := []; (s.clocked 2) ∧
    (s.dev.luMode n = 1) ∧ ((s.dev.luAt n).tx = b :: l)) ∧
  (let s : State := { dev := { Test.dev [] with lu := [(3, { span := 1, rx := [(5, false, true)] })] } };
    let n : Fin 4 := 3; let e : BitVec 8 × Bool × Bool := (5, false, true);
    let l : List (BitVec 8 × Bool × Bool) := []; (s.inUse) ∧ ((s.dev.luAt n).rx = e :: l)) ∧
  (let s : State := { dev := { Test.dev [(LUA_CFG_EN 3, 1), (LUA_CFG_MODE 3, 1)] with lu := [(3, { span := 1, rx := List.replicate 15 (0, false, false) })] } };
    let n : Fin 4 := 3; (s.clocked 2) ∧ (s.dev.luMode n ≠ 0) ∧ ((s.dev.luAt n).rx.length < 16)) ∧
  (let s : State := { dev := { Test.dev [(LUA_CFG_EN 3, 1), (LUA_CFG_MODE 3, 2), (LUA_CFG_CMDR 3, 1)] with lu := [(3, { span := 1 })] } };
    let n : Fin 4 := 3; (s.inUse) ∧ (s.dev.luMode n = 2) ∧ (s.dev.get (LUA_CFG_CMDR n) = 1) ∧
    (s.dev.get (LUA_LIN_BUSY n) = 0)) ∧
  (let s : State := { dev := { Test.dev [(LUA_CFG_EN 3, 1), (LUA_CFG_MODE 3, 2)] with lu := [(3, { span := 1, lin := some { cmdr := true, len := 2, id := 5 } })] } };
    let n : Fin 4 := 3; let f : LinFrame := { cmdr := true, len := 2, id := 5 }; let l : List (BitVec 8) := [1, 2];
    let c : BitVec 8 := BitVec.ofNat 8 (linSum true 5 [1, 2]); (s.clocked 2) ∧ ((s.dev.luAt n).lin = some f) ∧
    (f.head = false) ∧ (f.send = false) ∧ (f.slot = none) ∧ (l.length = f.len) ∧ (c.toNat = linSum f.enh f.id l)) ∧
  (let s : State := { dev := { Test.dev [(LUA_CFG_EN 3, 1), (LUA_CFG_MODE 3, 2)] with lu := [(3, { span := 1, lin := some {} })] } };
    let n : Fin 4 := 3; let f : LinFrame := {}; (s.clocked 2) ∧ ((s.dev.luAt n).lin = some f)) ∧
  (let s : State := { dev := { Test.dev [(LUA_CFG_EN 3, 1), (LUA_CFG_MODE 3, 2)] with lu := [(3, { span := 1, lin := some {} })] } };
    let n : Fin 4 := 3; (s.clocked 2) ∧ ((s.dev.luAt n).lin.isSome = true)) ∧
  (let s : State := { dev := { Test.dev [(LUA_CFG_EN 3, 1), (LUA_CFG_MODE 3, 2), (LUA_CFG_DIV 3, 260), (LUA_CFG_FRAC 3, 0)] with lu := [(3, { span := 1 })] } };
    let n : Fin 4 := 3; let k : BitVec 32 := 33280; (s.clocked 2) ∧ (s.dev.luMode n = 2) ∧
    (s.dev.get (LUA_CFG_CMDR n) = 0) ∧ (85 * s.dev.linNominal n ≤ 100 * k.toNat) ∧
    (100 * k.toNat ≤ 115 * s.dev.linNominal n)) ∧
  (let s : State := { dev := { Test.dev [(LUA_CFG_EN 3, 1), (LUA_CFG_MODE 3, 2)] with lu := [(3, { span := 1, synced := true })] } };
    let n : Fin 4 := 3; let b : BitVec 8 := BitVec.ofNat 8 (linPid 5); (s.clocked 2) ∧ (s.dev.luMode n = 2) ∧
    ((s.dev.luAt n).synced = true) ∧ (b.toNat = linPid (b.toNat % 64)) ∧
    (((List.range 4).all fun k => !(s.dev.bit (LUA_RSP_EN n k) && decide (s.dev.get (LUA_RSP_ID n k) = b.toNat % 64))) = true)) := by
  refine ⟨?_, ?_, ?_, ?_, ?_, ?_, ?_, ?_, ?_, ?_⟩ <;> decide +kernel

theorem witness_tagAndFlowComplete :
  (let s : State := Test.st []; (s.dev.nfc.field = false) ∧ (s.dev.get SYS_WAKECFG_NFC_EN = 0)) ∧
  (let s : State := { dev := { Test.dev [(SYS_WAKECFG_NFC_EN, 1)] with pwr := { asleep := true } } };
    (s.dev.nfc.field = false) ∧ (s.dev.sleeping = true) ∧ (s.dev.get SYS_WAKECFG_NFC_EN = 1)) ∧
  (let s : State := { dev := { Test.dev [(NFC_STAT_FIELD, 1)] with nfc := { field := true, proto := 1 } } };
    (s.dev.nfc.field = true)) ∧
  (let s : State := { dev := { Test.dev [] with nfc := { field := true } } }; (s.dev.nfc.field = true) ∧
    (s.dev.nfc.proto ≠ 1)) ∧
  (let s : State := { dev := { Test.dev [] with nfc := { field := true } } }; (s.dev.nfc.field = true)) ∧
  (let s : State := { dev := { Test.dev [] with nfc := { field := true, proto := 2 } } };
    let a : TagTo := .selected; (s.dev.nfc.field = true) ∧ (s.dev.tagHears a = true)) ∧
  (let s : State := { dev := { Test.dev [] with nfc := { field := true } } }; let a : TagTo := .all;
    let b : BitVec 8 := 255; (s.dev.nfc.field = true) ∧ (s.dev.tagHears a = true) ∧
    (s.dev.nfc.swaps b.toNat 1 = false)) ∧
  (let s : State := { dev := { Test.dev [] with nfc := { field := true } } }; let a : TagTo := .all;
    (s.dev.nfc.field = true) ∧ (s.dev.tagHears a = true)) ∧
  (let s : State := { dev := { Test.dev [] with nfc := { field := true } } }; let a : TagTo := .all;
    let b : BitVec 8 := 250; let n : BitVec 8 := 5; (s.dev.nfc.field = true) ∧ (s.dev.tagHears a = true) ∧
    (b.toNat + n.toNat ≤ 255) ∧ (s.dev.nfc.swaps b.toNat (n.toNat + 1) = false)) ∧
  (let s : State := { dev := { Test.dev [] with nfc := { field := true } } }; let a : TagTo := .all;
    let b : BitVec 16 := 4095; (s.dev.nfc.field = true) ∧ (s.dev.tagHears a = true) ∧ (b.toNat ≤ 4095) ∧
    (s.dev.nfc.swaps b.toNat 1 = false)) ∧
  (let s : State := { dev := { Test.dev [] with nfc := { field := true } } }; let a : TagTo := .all;
    let b : BitVec 16 := 3583; (s.dev.nfc.field = true) ∧ (s.dev.tagHears a = true) ∧ (48 ≤ b.toNat / 64) ∧
    (b.toNat / 64 < 56) ∧ (s.dev.nfc.commit = none)) ∧
  (let s : State := { dev := { Test.dev [] with nfc := { field := true } } }; let a : TagTo := .all;
    let b : BitVec 16 := 4090; let n : BitVec 16 := 5; (s.dev.nfc.field = true) ∧ (s.dev.tagHears a = true) ∧
    (b.toNat + n.toNat ≤ 4095) ∧ (s.dev.nfc.swaps b.toNat (n.toNat + 1) = false)) ∧
  (let s : State := { dev := { Test.dev [] with nfc := { field := true, swap := true, commit := some (47, []) } } };
    let a : TagTo := .all; let b : BitVec 16 := 3071; let l : List (BitVec 8) := []; (s.dev.nfc.field = true) ∧
    (s.dev.tagHears a = true) ∧ (s.dev.nfc.swap = true) ∧ (s.dev.nfc.commit = some (b.toNat / 64, l)) ∧
    (b.toNat ≤ 4095)) ∧
  (let s : State := { dev := { Test.dev [] with nfc := { field := false } } }; let p : BitVec 6 := 55;
    (s.inUse) ∧ (s.dev.get NFC_STAT_BUSY = 0) ∧ (p.toNat < 56) ∧ (s.dev.nfc.field = false)) ∧
  (let s : State := { dev := { Test.dev [] with nfc := { field := false } } }; (s.inUse) ∧
    (s.dev.get NFC_STAT_BUSY = 0) ∧ (s.dev.nfc.field = false) ∧ (s.dev.nfc.writeEnd ≤ s.dev.mono)) ∧
  (let s : State := { dev := { Test.dev [(NFC_STAT_BUSY, 1)] with nfc := { field := true, commit := some (55, [1, 2, 3]) } } };
    let p : Nat := 55; let l : List (BitVec 8) := [1, 2, 3]; (s.clocked 2) ∧ (s.dev.nfc.commit = some (p, l)) ∧
    (s.dev.nfc.writeEnd ≤ s.dev.mono)) ∧
  (let s : State := { dev := { Test.dev [(NFC_STAT_BUSY, 1)] with nfc := { field := true, commit := some (55, [1, 2, 3]) } } };
    let p : Nat := 55; let l : List (BitVec 8) := [1, 2, 3]; (s.clocked 2) ∧ (s.dev.nfc.commit = some (p, l)) ∧
    (s.dev.nfc.swap = false) ∧ (s.dev.get NFC_STAT_BUSY = 1)) ∧
  (let s : State := { dev := { Test.dev [] with nfc := { field := true, writeEnd := 9 } } };
    let p : BitVec 6 := 63; (s.inUse) ∧ (s.dev.get NFC_STAT_BUSY = 0) ∧ (isProposal p.toNat = false) ∧
    (s.dev.mono < s.dev.nfc.writeEnd)) ∧
  (let s : State := { dev := { Test.dev [(NFC_STAT_BUSY, 1)] with nfc := { field := true, readPage := some 63 } } };
    let p : Fin 64 := 63; (s.clocked 2) ∧ (s.dev.nfc.commit = none) ∧ (s.dev.nfc.readPage = some p.val) ∧
    (s.dev.nfc.writeEnd ≤ s.dev.mono)) ∧
  (let s : State := { dev := { Test.dev [(NFC_STAT_BUSY, 1)] with nfc := { field := true, writeEnd := 9, commit := some (55, [1, 2, 3]) } } };
    let e : TagEnd := .swap; (s.clocked 2) ∧ (s.dev.mono < s.dev.nfc.writeEnd) ∧ (e ≠ .timeout)) ∧
  (let s : State := { dev := { Test.dev [] with jnl := { mirror := [32799] } } }; let k : BitVec 16 := 32799;
    (s.clocked 2) ∧ (s.dev.get NFC_STAT_BUSY = 0) ∧ (s.dev.nfc.writeEnd ≤ s.dev.mono) ∧
    (s.dev.jnl.mirror = [k.toNat])) ∧
  (let s : State := Test.st [(FLW_CFG_EN, 1)]; (s.clocked 2) ∧ (s.dev.get FLW_CFG_EN = 1)) ∧
  (let s : State := Test.st [(FLW_STAT_RUN, 1), (FLW_LIM_AMP_MIN, 5), (FLW_LIM_AMP_MAX, 60000), (FLW_LIM_Q_MIN,
    5), (FLW_STAT_STALE, 1), (FLW_CFG_AVG, 0), (FLW_CFG_RX_START, 0), (FLW_CFG_RX_END, 240)];
    let a : BitVec 16 := 5; let b : BitVec 16 := 60000; let p : BitVec 16 := 5; let q : BitVec 16 := 6;
    let x : BitVec 32 := 30000; let y : BitVec 32 := 30001; (s.clocked 2) ∧ (s.dev.get FLW_STAT_RUN = 1) ∧
    (s.dev.inWindow x.toNat = true) ∧ (s.dev.inWindow y.toNat = true) ∧
    (s.dev.flowDrop true a.toNat b.toNat p.toNat q.toNat = 0) ∧ (s.dev.get FLW_CFG_AVG = 0)) ∧
  (let s : State := Test.st [(FLW_STAT_RUN, 1)]; (s.clocked 2) ∧ (s.dev.get FLW_STAT_RUN = 1)) ∧
  (let s : State := Test.st [(FLW_STAT_STALE, 0)]; (s.powered) ∧ (s.dev.get FLW_STAT_STALE = 0)) := by
  refine ⟨?_, ?_, ?_, ?_, ?_, ?_, ?_, ?_, ?_, ?_, ?_, ?_, ?_, ?_, ?_, ?_, ?_, ?_, ?_, ?_, ?_, ?_, ?_, ?_, ?_⟩ <;> decide +kernel

theorem witness_busCommandsComplete :
  (let s : State := Test.st []; let o : Origin := .host; let a : BitVec 40 := 0x40000; let n : Width := .w8;
    let w : Bool := true; (s.accesses o) ∧ (accessErr a.toNat n.bytes w = some .unmapped)) ∧
  (let s : State := Test.st [(HEM_STAT_PAIRB, 2)]; let o : Origin := .core 2; let a : BitVec 40 := 0x207FFFF8;
    (s.accesses o) ∧ (0x20290000 ≤ a.toNat) ∧ (a.toNat + 8 ≤ 0x20800000)) ∧
  (let s : State := Test.st []; let o : Origin := .host; (s.accesses o)) ∧
  (let s : State := Test.st []; let o : Origin := .host; let a : BitVec 40 := 0x48000000; let n : Width := .w64;
    (s.accesses o) ∧ (accessErr a.toNat n.bytes true = some .roWrite)) ∧
  (let s : State := Test.st []; let c : DbgCmd := .halt 1; (s.powered) ∧ (dbgOpen c = false) ∧
    (s.dev.get DBG_STAT_ACCESS = 0)) ∧
  (let s : State := Test.st [(DBG_STAT_ACCESS, 1)]; (s.powered) ∧ (s.dev.get DBG_STAT_ACCESS = 1)) ∧
  (let s : State := Test.st [(DBG_STAT_ACCESS, 1), (DBG_STAT_HALTED, 8)]; let c : Fin 4 := 3; (s.powered) ∧
    (s.dev.get DBG_STAT_ACCESS = 1) ∧ (s.dev.tb DBG_STAT_HALTED c = true)) ∧
  (let s : State := { dev := { Test.dev [] with boot := { stage := 3 } } }; let o : Origin := .host;
    (¬ s.accesses o)) := by decide +kernel

theorem witness_powerAndSleepComplete :
  (let s : State := { dev := { pwr := { off := true } } }; (s.dev.pwr.off = true)) ∧
  (let s : State := Test.st []; (s.dev.pwr.off = false)) ∧
  (let s : State := { dev := { pwr := { vsupLow := true } } }; (s.powered) ∧ (s.dev.inLoss = false) ∧
    (s.dev.pwr.vsupLow = true)) ∧
  (let s : State := Test.st []; (s.powered) ∧ (s.dev.inLoss = false)) ∧
  (let s : State := Test.st [(SYS_PWRSTATE_STATE, 4)]; (s.dev.inLoss = true)) ∧
  (let s : State := { dev := { Test.dev [(SYS_PWRSTATE_STATE, 4)] with pwr := { recovering := true } } };
    (s.dev.inLoss = true) ∧ (s.dev.pwr.recovering = true) ∧ (s.dev.pwr.belowMin = false)) ∧
  (let s : State := { dev := { Test.dev [(SYS_PWRSTATE_STATE, 4)] with pwr := { belowMin := true, recovering := true } } };
    (s.dev.inLoss = true) ∧ (s.dev.pwr.recovering = true) ∧ (s.dev.pwr.belowMin = true)) ∧
  (let s : State := { dev := { Test.dev [(SYS_PWRSTATE_STATE, 4)] with pwr := { vsupLow := true } } };
    (s.dev.inLoss = true) ∧ (s.dev.pwr.vsupLow = true)) ∧
  (let s : State := Test.st [(SYS_IMGSTAT_VHOLD_LOW, 1)]; (s.powered)) ∧
  (let s : State := Test.st []; (s.powered)) ∧
  (let s : State := Test.st [(SYS_PWRSTATE_STATE, 2)]; (s.inUse) ∧ (s.dev.get SYS_PWRSTATE_STATE = 2) ∧
    (s.dev.sleepWhy = 0)) ∧
  (let s : State := Test.st [(SYS_PWRSTATE_STATE, 2), (GCH_STAT_STATE 3, 2)]; (s.inUse) ∧
    (s.dev.get SYS_PWRSTATE_STATE = 2) ∧ (s.dev.sleepWhy ≠ 0)) ∧
  (let s : State := Test.st [(SYS_PWRSTATE_STATE, 3), (pllFld 0, 0), (pllFld 1, 0), (pllFld 2, 0)]; (s.powered) ∧
    (s.dev.get SYS_PWRSTATE_STATE = 3) ∧ (s.dev.wakePending = false) ∧ (s.dev.sleepPrepDone = true)) ∧
  (let s : State := { dev := { Test.dev [(SYS_WAKECFG_CAN_EN, 15)] with pwr := { asleep := true } } };
    let n : Fin 4 := 2; (s.dev.sleeping = true) ∧ (s.dev.tb SYS_WAKECFG_CAN_EN n = true)) ∧
  (let s : State := { dev := { Test.dev [(SYS_WAKECFG_WAKE_MODE, 1)] with pwr := { asleep := true } } };
    (s.dev.sleeping = true) ∧ (s.dev.get SYS_WAKECFG_WAKE_MODE = 1) ∧ (s.dev.pwr.wakeHigh = false)) ∧
  (let s : State := { dev := { Test.dev [(SYS_WAKECFG_TMR_EN, 1)] with pwr := { asleep := true } } };
    (s.dev.sleeping = true) ∧ (s.dev.get SYS_WAKECFG_TMR_EN = 1)) := by
  refine ⟨?_, ?_, ?_, ?_, ?_, ?_, ?_, ?_, ?_, ?_, ?_, ?_, ?_, ?_, ?_, ?_⟩ <;> decide +kernel

theorem witness_clockAndResetComplete :
  (let s : State := Test.st [(pllFld 1, 0)]; let p : Fin 3 := 1; let fw : Bool := true; (s.powered) ∧
    (s.dev.pllAsk fw = true) ∧ (s.dev.get SYS_PWRSTATE_STATE ≠ 3) ∧ (s.dev.get SYS_PWRSTATE_STATE ≠ 4) ∧
    (s.dev.get (pllFld p) = 0)) ∧
  (let s : State := Test.st [(pllFld 2, 3)]; let p : Fin 3 := 2; let fw : Bool := false; (s.powered) ∧
    (s.dev.pllAsk fw = true) ∧ (s.dev.get SYS_PWRSTATE_STATE ≠ 3) ∧ (s.dev.get SYS_PWRSTATE_STATE ≠ 4) ∧
    (s.dev.get (pllFld p) = 3)) ∧
  (let s : State := Test.st [(pllFld 0, 1), (pllReqFld 0, 1)]; let p : Fin 3 := 0; (s.powered) ∧
    (s.dev.get (pllFld p) = 1) ∧ (s.dev.bit (pllReqFld p) = true) ∧ (s.dev.get SYS_PWRSTATE_STATE ≠ 3) ∧
    (s.dev.get SYS_PWRSTATE_STATE ≠ 4)) ∧
  (let s : State := Test.st [(pllFld 2, 1)]; let p : Fin 3 := 2; (s.powered) ∧ (s.dev.get (pllFld p) = 1)) ∧
  (let s : State := { dev := { Test.dev [(pllFld 1, 2)] with pwr := { pllHw := 0 } } }; let p : Fin 3 := 1;
    (s.inUse) ∧ (s.dev.get (pllFld p) = 2) ∧ (s.dev.pwr.pllHw.testBit p = false) ∧ (s.dev.hwWants p = false)) ∧
  (let s : State := Test.st [(pllFld 2, 3)]; let p : Fin 3 := 2; (s.powered) ∧ (s.dev.get (pllFld p) = 3) ∧
    (s.dev.pllWanted p = false)) ∧
  (let s : State := Test.st [(pllFld 2, 3)]; let p : Fin 3 := 2; (s.powered) ∧ (s.dev.get (pllFld p) = 3) ∧
    (s.dev.get SYS_PWRSTATE_STATE ≠ 3) ∧ (s.dev.get SYS_PWRSTATE_STATE ≠ 4)) ∧
  (let s : State := Test.st [(pllFld 0, 3)]; let p : Fin 3 := 0; (s.powered) ∧
    ((s.dev.get (pllFld p) = 2 ∨ s.dev.get (pllFld p) = 3))) ∧
  (let s : State := Test.st []; (s.powered)) ∧
  (let s : State := Test.st []; let o : Origin := .pair 0; (s.accesses o) ∧ (s.dev.get SYS_PWRSTATE_STATE ≠ 4) ∧
    (s.dev.boot.heldReset = false) ∧ (s.dev.lockOrigin o = true)) ∧
  (let s : State := Test.st [(SYS_PWRSTATE_READY, 1)]; (s.powered) ∧ (s.dev.get SYS_PWRSTATE_STATE ≠ 4) ∧
    (s.dev.boot.heldReset = false) ∧ (s.dev.ownerHalted = false) ∧ (s.dev.bit SYS_PWRSTATE_READY = true)) ∧
  (let s : State := Test.st [(pllFld 1, 4)]; let p : Fin 3 := 1; (s.powered) ∧
    (s.dev.get SYS_PWRSTATE_STATE ≠ 4) ∧ (s.dev.boot.heldReset = false) ∧ (s.dev.get (pllFld p) = 4) ∧
    (s.dev.boot.pllTries < 3)) ∧
  (let s : State := Test.st [(DBG_STAT_ACCESS, 1)]; (s.powered) ∧ (s.dev.get SYS_PWRSTATE_STATE ≠ 4) ∧
    (s.dev.boot.heldReset = false) ∧ (s.dev.get DBG_STAT_ACCESS = 1)) := by
  refine ⟨?_, ?_, ?_, ?_, ?_, ?_, ?_, ?_, ?_, ?_, ?_, ?_, ?_⟩ <;> decide +kernel

theorem witness_powerAndStartFrames :
  let s : State := Test.st []; (s.numbersOk = true) := by decide +kernel

theorem witness_measurementFrames :
  let s : State := Test.st []; (s.numbersOk = true) := by decide +kernel

theorem witness_driveFrames :
  let s : State := Test.st []; (s.numbersOk = true) := by decide +kernel

theorem witness_engineFrames :
  let s : State := Test.st []; (s.numbersOk = true) := by decide +kernel

theorem witness_thimbleFrames :
  let s : State := Test.st []; (s.numbersOk = true) := by decide +kernel

theorem witness_networkFrames :
  let s : State := Test.st []; (s.numbersOk = true) := by decide +kernel

theorem witness_linkFrames :
  let s : State := Test.st []; (s.numbersOk = true) := by decide +kernel

theorem witness_accessAndResetFrames :
  (let s : State := Test.st []; let a : BitVec 40 := 0x10000000; (regionOf a.toNat ≠ .reg)) ∧
  (let s : State := Test.st []; let a : BitVec 40 := 0x40700030; (regionOf a.toNat = .reg) ∧
    (plainAt a.toNat = true)) ∧
  (let s : State := Test.st []; let a : BitVec 40 := 0x40000018; (regionOf a.toNat = .reg) ∧
    (inFamilies a.toNat [A_SYS_PWRCTL, A_SYS_CLKREQ, A_SYS_IMGCTL] = true)) ∧
  (let s : State := Test.st []; let a : BitVec 40 := 0x40F00100; (regionOf a.toNat = .reg) ∧
    (inFamilies a.toNat [A_FIO_OUTCFG 0, A_FIO_FLT] = true)) ∧
  (let s : State := Test.st []; let a : BitVec 40 := 0x40100000; (regionOf a.toNat = .reg) ∧
    (inFamilies a.toNat [A_ADC_CTL 0, A_ADC_URG 0, A_ADC_REFCFG, A_ADC_CALCTL] = true)) ∧
  (let s : State := Test.st []; let a : BitVec 40 := 0x40200000; (regionOf a.toNat = .reg) ∧
    (inFamilies a.toNat [A_POS_CFG 0, A_POS_ENC 0, A_POS_FLT 0, A_POS_RENT] = true)) ∧
  (let s : State := Test.st []; let a : BitVec 40 := 0x40014000; (regionOf a.toNat = .reg) ∧
    (inFamilies a.toNat [A_EVR_PEND 0 0, A_EVR_ACK 0] = true)) ∧
  (let s : State := Test.st []; let a : BitVec 40 := 0x40020008; (regionOf a.toNat = .reg) ∧
    (inFamilies a.toNat [A_DTM_CFG, A_DTM_TRIM] = true)) ∧
  (let s : State := Test.st []; let a : BitVec 40 := 0x40030030; (regionOf a.toNat = .reg) ∧
    (inFamilies a.toNat [A_JNL_FWCMD] = true)) ∧
  (let s : State := Test.st []; let a : BitVec 40 := 0x40300000; (regionOf a.toNat = .reg) ∧
    (inFamilies a.toNat [A_CLU_CTL 0] = true)) ∧
  (let s : State := Test.st []; let a : BitVec 40 := 0x40400000; (regionOf a.toNat = .reg) ∧
    (inFamilies a.toNat [A_PWM_CTL 0, A_PWM_DT 0, A_PWM_FLT 0] = true)) ∧
  (let s : State := Test.st []; let a : BitVec 40 := 0x4050E000; (regionOf a.toNat = .reg) ∧
    (inFamilies a.toNat [A_GCH_COM, A_GCH_SEGON 0, A_GCH_SEGOFF 0] = true)) ∧
  (let s : State := Test.st []; let a : BitVec 40 := 0x40700000; (regionOf a.toNat = .reg) ∧
    (inFamilies a.toNat [A_STP_CTL 0, A_STP_POS 0, A_STP_TGT 0, A_STP_VTGT 0, A_STP_CUR 0, A_STP_FLT 0] = true)) ∧
  (let s : State := Test.st []; let a : BitVec 40 := 0x40800008; (regionOf a.toNat = .reg) ∧
    (inFamilies a.toNat [A_HEM_PAIRCTL, A_HEM_WDOG] = true)) ∧
  (let s : State := Test.st []; let a : BitVec 40 := 0x408000A8; (regionOf a.toNat = .reg) ∧
    (inFamilies a.toNat [A_HEM_THMREQ] = true) ∧ (s.numbersOk = true)) ∧
  (let s : State := Test.st []; let a : BitVec 40 := 0x41000000; (regionOf a.toNat = .reg) ∧
    (inFamilies a.toNat [A_CEN_SCFG 0, A_CEN_TCTL] = true)) ∧
  (let s : State := Test.st []; let a : BitVec 40 := 0x41408000; (regionOf a.toNat = .reg) ∧
    (inFamilies a.toNat [A_SPL_CTL] = true)) ∧
  (let s : State := Test.st []; let a : BitVec 40 := 0x40900000; (regionOf a.toNat = .reg) ∧
    (inFamilies a.toNat [A_CAN_CTL 0, A_CAN_TXCTL 0, A_CAN_RXF 0] = true)) ∧
  (let s : State := Test.st []; let a : BitVec 40 := 0x40A00000; (regionOf a.toNat = .reg) ∧
    (inFamilies a.toNat [A_ETH_CTL, A_ETH_ASCFG, A_ETH_DMA] = true)) ∧
  (let s : State := Test.st []; let a : BitVec 40 := 0x40B00040; (regionOf a.toNat = .reg) ∧
    (inFamilies a.toNat [A_SFL_TXCTL, A_SFL_RXCTL, A_SFL_APPSEND, A_SFL_DOMCFG, A_SFL_CCFG 0] = true) ∧
    (s.numbersOk = true)) ∧
  (let s : State := Test.st []; let a : BitVec 40 := 0x40C00000; (regionOf a.toNat = .reg) ∧
    (inFamilies a.toNat [A_CRC_CFG 0, A_CRC_VAL 0, A_CRC_CTL 0, A_CRC_DATA 0] = true)) ∧
  (let s : State := Test.st []; let a : BitVec 40 := 0x40D00120; (regionOf a.toNat = .reg) ∧
    (inFamilies a.toNat [A_SPI_M0CTL, A_SPI_M1TX, A_SPI_M1RX] = true)) ∧
  (let s : State := Test.st []; let a : BitVec 40 := 0x40D10000; (regionOf a.toNat = .reg) ∧
    (inFamilies a.toNat [A_LUA_CFG 0, A_LUA_DATA 0, A_LUA_LIN 0] = true)) ∧
  (let s : State := Test.st []; let a : BitVec 40 := 0x40E00000; (regionOf a.toNat = .reg) ∧
    (inFamilies a.toNat [A_NFC_CTL] = true)) ∧
  (let s : State := Test.st []; let a : BitVec 40 := 0x40E10000; (regionOf a.toNat = .reg) ∧
    (inFamilies a.toNat [A_FLW_CFG] = true)) ∧
  (let s : State := Test.st []; let a : BitVec 40 := 0x40000060; (regionOf a.toNat = .reg) ∧
    (inFamilies a.toNat [A_SYS_RSTCTL] = true)) ∧
  (let s : State := { dev := { Test.dev [] with spih := { req := some { len8 := 2, addr := 0x10000000 } } } };
    let q : SpiReq := { len8 := 2, addr := 0x10000000 }; (s.dev.spih.req = some q) ∧
    (((List.range q.len8).all fun k => decide (regionOf (q.addr + 8 * k) ≠ .reg)) = true)) := by
  refine ⟨?_, ?_, ?_, ?_, ?_, ?_, ?_, ?_, ?_, ?_, ?_, ?_, ?_, ?_, ?_, ?_, ?_, ?_, ?_, ?_, ?_, ?_, ?_, ?_, ?_, ?_, ?_⟩ <;> decide +kernel

end Sys2Proof.Machine
end

section
/-!
The empty queue: what one tick of module time leaves, and the invariants at reset.
-/
namespace Sys2Proof.Machine

/-! ## A tick of module time -/

theorem Dev.dtmStep_eth (d : Dev) (th : Int) : (d.dtmStep th).eth = d.eth := by simp [Dev.dtmStep]

theorem Dev.dtmBoundary_eth (d : Dev) : d.dtmBoundary.eth = d.eth := by
  unfold Dev.dtmBoundary
  dsimp only
  split
  · exact Dev.dtmStep_eth _ _
  · rfl

theorem Dev.advance_eth (d : Dev) (dt : Nat) : (d.advance dt).eth = d.eth := by
  unfold Dev.advance
  dsimp only
  split
  · rfl
  · exact Dev.dtmBoundary_eth _

/-- A tick leaves the trunk alone. -/
theorem Dev.tick_eth (d : Dev) : d.tick.eth = d.eth := by
  unfold Dev.tick
  dsimp only
  split
  · rfl
  · split <;> exact Dev.advance_eth _ _

/-- With no step waiting the counter advances, and only the rate in force may change besides. -/
theorem Dev.advance_of_stepDue_none {d : Dev} (dt : Nat) (h : d.dtm.stepDue = none) :
    ∃ dtm, d.advance dt = { d with time := d.time + dt, dtm := dtm } := by
  unfold Dev.advance
  dsimp only
  split
  · exact ⟨d.dtm, rfl⟩
  · exact ⟨{ d.dtm with rate := _ }, by simp only [Dev.dtmBoundary, h]; rfl⟩

/-- A frame that leaves a trunk port changes the trunk alone. -/
theorem Dev.ethLeave_eq (d : Dev) (q : Nat) :
    ∃ high low, d.ethLeave q = { d with eth := { d.eth with high := high, low := low } } := by
  unfold Dev.ethLeave
  split
  · exact ⟨d.eth.high, d.eth.low, rfl⟩
  · split
    · exact ⟨_, d.eth.low, rfl⟩
    · exact ⟨d.eth.high, _, rfl⟩

/-- An idle device ticks; besides, frames leave the queues of the trunk ports. -/
theorem Dev.idle_eq (d : Dev) :
    ∃ high low, d.idle = { d.tick with eth := { d.eth with high := high, low := low } } := by
  obtain ⟨h0, l0, e0⟩ := d.tick.ethLeave_eq 0
  obtain ⟨h1, l1, e1⟩ := (d.tick.ethLeave 0).ethLeave_eq 1
  refine ⟨h1, l1, ?_⟩
  rw [Dev.idle, e1, e0, Dev.tick_eth]

/-- Before PLL B locks a tick takes the 40 ns of the reference (R30; log entry 77). -/
theorem Dev.tick_of_unlocked {d : Dev} (hp : d.unpowered = false) (hc : d.clk 1 = false) :
    d.tick = Dev.advance { d with mono := d.mono + 40 } 40 := by
  simp [Dev.tick, hp, hc]

/-- With PLL B locked, rate 0 and no fraction carried, a tick takes 1 ns (R30, R436). -/
theorem Dev.tick_of_locked {d : Dev} (hp : d.unpowered = false) (hc : d.clk 1 = true) (hr : d.dtm.rate = 0)
    (hf : d.frac = 0) : d.tick = Dev.advance { d with mono := d.mono + 1, frac := 0 } 1 := by
  simp [Dev.tick, hp, hc, hr, hf]

/-- With no frame waiting at the host port the DMA takes none. -/
theorem State.hostDrain_of_empty {s : State} (hh : s.dev.eth.hostHigh = []) (hl : s.dev.eth.hostLow = []) :
    s.hostDrain.dev.regs = s.dev.regs ∧ s.hostDrain.mem = s.mem := by
  unfold State.hostDrain
  split
  · exact ⟨rfl, rfl⟩
  · simp [hh, hl]

theorem State.idle_of_empty {s : State} (hh : s.dev.eth.hostHigh = []) (hl : s.dev.eth.hostLow = []) :
    s.idle.dev.regs = s.dev.idle.regs ∧ s.idle.mem = s.mem := by
  obtain ⟨high, low, he⟩ := s.dev.idle_eq
  exact State.hostDrain_of_empty (s := { s with dev := s.dev.idle }) (by simp [he, hh]) (by simp [he, hl])

theorem Dev.clk_one_of_ne {d : Dev} (h2 : d.get SYS_CLKSTAT_PLLB_ST ≠ 2) (h3 : d.get SYS_CLKSTAT_PLLB_ST ≠ 3) :
    d.clk 1 = false := by
  simp [Dev.clk, pllFld, h2, h3]

/-- Settles O2: a tick is `Dev.advance`, which with no step waiting moves the counter alone; a frame that leaves a trunk port
touches no register. -/
theorem idleStepPassesOneTick : Obligations.IdleStepPassesOneTick := by
  unfold Obligations.IdleStepPassesOneTick
  refine ⟨fun s h => ?_, fun s hh hl => State.idle_of_empty hh hl, fun s hp h2 h3 hs => ?_, fun s hp hc hr hf hs => ?_⟩
  · simp only [step, h]
  · obtain ⟨high, low, he⟩ := s.dev.idle_eq
    obtain ⟨dtm, ha⟩ := Dev.advance_of_stepDue_none (d := { s.dev with mono := s.dev.mono + 40 }) 40 hs
    rw [he, Dev.tick_of_unlocked hp (Dev.clk_one_of_ne h2 h3), ha]
    exact ⟨rfl, rfl, rfl⟩
  · obtain ⟨high, low, he⟩ := s.dev.idle_eq
    obtain ⟨dtm, ha⟩ := Dev.advance_of_stepDue_none (d := { s.dev with mono := s.dev.mono + 1, frac := 0 }) 1 hs
    rw [he, Dev.tick_of_locked hp hc hr hf, ha]
    exact ⟨rfl, rfl, rfl⟩

/-- Settles O5: at reset no memory, register or record is listed, and the empty table is in canonical form. -/
theorem resetMeetsInvariant : Obligations.ResetMeetsInvariant := by
  unfold Obligations.ResetMeetsInvariant
  exact ⟨⟨rfl, rfl⟩, rfl⟩

end Sys2Proof.Machine
end

section
/-!
The canonical form of the register table: every operation of the device keeps it. One lemma for each operation, in the order of
the model's files, its proof a term of the operation's own shape.
-/
namespace Sys2Proof.Machine

/-- The register table of the device is in canonical form. -/
def Dev.Canon (d : Dev) : Prop := Tab.wf resetOf d.regs = true

namespace Dev.Canon

variable {d e : Dev}

/-- A change beside the registers keeps the form. -/
theorem beside (h : d.Canon) {time frac mono free lims spool splTurn jnl pwr boot per fo fio gch car clu pos pair hem tgrp
    thm axis conn dtm adc aux refOut img slc egr port can dom eth sfl spih m0 m1 lu nfc flw dbgTrig dbg} :
    Dev.Canon ⟨d.regs, time, frac, mono, free, lims, spool, splTurn, jnl, pwr, boot, per, fo, fio, gch, car, clu, pos,
      pair, hem, tgrp, thm, axis, conn, dtm, adc, aux, refOut, img, slc, egr, port, can, dom, eth, sfl, spih, m0, m1, lu, nfc, flw,
      dbgTrig, dbg⟩ := h

/-- Dropping registers keeps the form. -/
theorem keep (h : d.Canon) {p : Nat → Bool}
    {time frac mono free lims spool splTurn jnl pwr boot per fo fio gch car clu pos pair hem tgrp
    thm axis conn dtm adc aux refOut img slc egr port can dom eth sfl spih m0 m1 lu nfc flw dbgTrig dbg} :
    Dev.Canon ⟨Tab.keep p d.regs, time, frac, mono, free, lims, spool, splTurn, jnl, pwr, boot, per, fo, fio, gch, car, clu, pos,
      pair, hem, tgrp, thm, axis, conn, dtm, adc, aux, refOut, img, slc, egr, port, can, dom, eth, sfl, spih, m0, m1, lu, nfc, flw,
      dbgTrig, dbg⟩ := Tab.wf_keep _ p h

/-- A device with every register at its reset value has the form. -/
theorem blank {time frac mono free lims spool splTurn jnl pwr boot per fo fio gch car clu pos pair hem tgrp
    thm axis conn dtm adc aux refOut img slc egr port can dom eth sfl spih m0 m1 lu nfc flw dbgTrig dbg} :
    Dev.Canon ⟨[], time, frac, mono, free, lims, spool, splTurn, jnl, pwr, boot, per, fo, fio, gch, car, clu, pos,
      pair, hem, tgrp, thm, axis, conn, dtm, adc, aux, refOut, img, slc, egr, port, can, dom, eth, sfl, spih, m0, m1, lu, nfc, flw,
      dbgTrig, dbg⟩ := rfl

theorem setReg (h : d.Canon) {a : Nat} {v : BitVec 64} : (d.setReg a v).Canon := Dev.wf_setReg a v h
theorem set (h : d.Canon) {f : Fld} {v : Nat} : (d.set f v).Canon := Dev.wf_set f v h
theorem setI (h : d.Canon) {f : Fld} {v : Int} : (d.setI f v).Canon := Dev.wf_setI f v h
theorem setB (h : d.Canon) {f : Fld} {b : Bool} : (d.setB f b).Canon := Dev.wf_setB f b h
theorem setBits (h : d.Canon) {f : Fld} {v : Nat} : (d.setBits f v).Canon := Dev.wf_setBits f v h
theorem clrBits (h : d.Canon) {f : Fld} {v : Nat} : (d.clrBits f v).Canon := Dev.wf_clrBits f v h
theorem add (h : d.Canon) {f : Fld} {n : Nat} : (d.add f n).Canon := Dev.wf_add f n h
theorem count (h : d.Canon) {f : Fld} : (d.count f).Canon := Dev.wf_count f h

theorem ite {c : Prop} [Decidable c] (h : d.Canon) (h' : e.Canon) : (if c then d else e).Canon := by
  split <;> assumption

theorem when (h : d.Canon) {c : Bool} {f : Dev → Dev} (hf : ∀ {d}, d.Canon → (f d).Canon) : (d.when c f).Canon :=
  Dev.wf_when (hf h) h

theorem each (h : d.Canon) {n : Nat} {f : Nat → Dev → Dev} (hf : ∀ {i d}, d.Canon → (f i d).Canon) :
    (d.each n f).Canon :=
  Dev.wf_each n (fun _ _ => hf) h

end Dev.Canon

end Sys2Proof.Machine
end

section
/-!
Every operation of the `Dev` layer keeps the register table in canonical form: one rule per operation, in the model's order.
-/
namespace Sys2Proof.Machine
namespace Dev.Canon
variable {d : Dev}

/-! ## Sys2Proof/Machine/Ops.lean -/

theorem drawn (h : d.Canon) : d.drawn.Canon := by
  unfold Dev.drawn
  exact .beside h

theorem setSch (h : d.Canon) {c : Nat} {v : SpoolCh} : (d.setSch c v).Canon := by
  unfold Dev.setSch
  exact .beside h

theorem splQueue (h : d.Canon) {c : Nat} {rec : List (BitVec 64)} : (d.splQueue c rec).Canon := by
  unfold Dev.splQueue
  exact .ite (.count h) (.setSch h)

theorem splMade (h : d.Canon) {c : Nat} {rec : List (BitVec 64)} : (d.splMade c rec).Canon := by
  unfold Dev.splMade
  exact .ite h (.ite (.ite (.splQueue (.setSch h)) (.setSch h)) (.ite (.splQueue (.setSch h)) (.setSch h)))

theorem splFeed (h : d.Canon) {typ : Nat} {sel : Nat → Nat → Bool} {rec : List (BitVec 64)} :
    (d.splFeed typ sel rec).Canon :=
  by
  unfold Dev.splFeed
  exact .ite h (.each h fun h => .when h fun h => .splMade h)

theorem splStopDone (h : d.Canon) : d.splStopDone.Canon := by
  unfold Dev.splStopDone
  exact .ite h (.when (.each h fun h => .when h fun h => .setBits h) fun h => .set h)

theorem splFire (h : d.Canon) : d.splFire.Canon := by
  unfold Dev.splFire
  exact .splStopDone (.each (.setReg (.set (.set (.set h)))) fun h => .when h fun h => .setSch (.set h))

theorem splTrigger (h : d.Canon) : d.splTrigger.Canon := by
  unfold Dev.splTrigger
  exact .ite (.splFire h) (.ite (.count h) h)

theorem splEvent (h : d.Canon) {k : Nat} : (d.splEvent k).Canon := by
  unfold Dev.splEvent
  exact .when (.splFeed h) fun h => .splTrigger h

theorem evrKeep (h : d.Canon) {t k : Nat} : (d.evrKeep t k).Canon := by
  unfold Dev.evrKeep
  exact .ite (.beside h) h

theorem evrPend (h : d.Canon) {t k : Nat} : (d.evrPend t k).Canon := by
  unfold Dev.evrPend
  exact .ite (.count (.evrKeep h)) (.set (.evrKeep h))

theorem trigCause (h : d.Canon) {k : Nat} : (d.trigCause k).Canon := by
  unfold Dev.trigCause
  exact .ite (.each h fun h => .ite (.beside h) h) h

theorem raise (h : d.Canon) {k : Nat} : (d.raise k).Canon := by
  unfold Dev.raise
  exact .trigCause (.splEvent (.each (.setReg h) fun h => .when h fun h => .evrPend h))

theorem raiseIf (h : d.Canon) {on : Bool} {k : Nat} : (d.raiseIf on k).Canon := by
  unfold Dev.raiseIf
  exact .ite (.raise h) (.trigCause h)

theorem raiseLim (h : d.Canon) {k c T : Nat} : (d.raiseLim k c T).Canon := by
  unfold Dev.raiseLim
  exact .ite h (.raise (.beside h))

theorem evrClear (h : d.Canon) {t k : Nat} : (d.evrClear t k).Canon := by
  unfold Dev.evrClear
  exact .ite (.count (.set h)) h

theorem jnlPut (h : d.Canon) {fw : Bool} {e : JEntry} : (d.jnlPut fw e).Canon := by
  unfold Dev.jnlPut
  exact .ite (.raiseLim (.ite (.count (.beside h)) (.count (.beside h)))) (.set (.beside h))

theorem journal (h : d.Canon) {kind src origin : Nat} {data : List (BitVec 64)} : (d.journal kind src origin data).Canon := by
  unfold Dev.journal
  exact .jnlPut h

theorem flushStop (h : d.Canon) : d.flushStop.Canon := by
  unfold Dev.flushStop
  exact .ite (.set (.set h)) h

theorem jnlFault (h : d.Canon) {src fltAddr statAddr : Nat} : (d.jnlFault src fltAddr statAddr).Canon := by
  unfold Dev.jnlFault
  exact .journal h

theorem jnlThimble (h : d.Canon) {src : Nat} : (d.jnlThimble src).Canon := by
  unfold Dev.jnlThimble
  exact .journal h

theorem jnlHem (h : d.Canon) {src : Nat} : (d.jnlHem src).Canon := by
  unfold Dev.jnlHem
  exact .journal h


/-! ## Sys2Proof/Machine/Recs.lean -/

theorem foUpd (h : d.Canon) {n : Nat} {f : Fo → Fo} : (d.foUpd n f).Canon := by
  unfold Dev.foUpd
  exact .beside h

theorem gchUpd (h : d.Canon) {n : Nat} {f : Gch → Gch} : (d.gchUpd n f).Canon := by
  unfold Dev.gchUpd
  exact .beside h

theorem carUpd (h : d.Canon) {n : Nat} {f : Car → Car} : (d.carUpd n f).Canon := by
  unfold Dev.carUpd
  exact .beside h

theorem cluUpd (h : d.Canon) {n : Nat} {f : Clu → Clu} : (d.cluUpd n f).Canon := by
  unfold Dev.cluUpd
  exact .beside h

theorem posUpd (h : d.Canon) {n : Nat} {f : Pos → Pos} : (d.posUpd n f).Canon := by
  unfold Dev.posUpd
  exact .beside h

theorem pairUpd (h : d.Canon) {n : Nat} {f : Pair → Pair} : (d.pairUpd n f).Canon := by
  unfold Dev.pairUpd
  exact .beside h

theorem tgrpUpd (h : d.Canon) {n : Nat} {f : ThmGrp → ThmGrp} : (d.tgrpUpd n f).Canon := by
  unfold Dev.tgrpUpd
  exact .beside h

theorem axisUpd (h : d.Canon) {n : Nat} {f : Axis → Axis} : (d.axisUpd n f).Canon := by
  unfold Dev.axisUpd
  exact .beside h

theorem connUpd (h : d.Canon) {n : Nat} {f : Conn → Conn} : (d.connUpd n f).Canon := by
  unfold Dev.connUpd
  exact .beside h

theorem adcUpd (h : d.Canon) {n : Nat} {f : Adc → Adc} : (d.adcUpd n f).Canon := by
  unfold Dev.adcUpd
  exact .beside h

theorem auxUpd (h : d.Canon) {n : Nat} {f : Aux → Aux} : (d.auxUpd n f).Canon := by
  unfold Dev.auxUpd
  exact .beside h

theorem slcUpd (h : d.Canon) {n : Nat} {f : Slice → Slice} : (d.slcUpd n f).Canon := by
  unfold Dev.slcUpd
  exact .beside h

theorem egrUpd (h : d.Canon) {n : Nat} {f : EGrp → EGrp} : (d.egrUpd n f).Canon := by
  unfold Dev.egrUpd
  exact .beside h

theorem portUpd (h : d.Canon) {n : Nat} {f : Port → Port} : (d.portUpd n f).Canon := by
  unfold Dev.portUpd
  exact .beside h

theorem canUpd (h : d.Canon) {n : Nat} {f : Can → Can} : (d.canUpd n f).Canon := by
  unfold Dev.canUpd
  exact .beside h

theorem luUpd (h : d.Canon) {n : Nat} {f : Lu → Lu} : (d.luUpd n f).Canon := by
  unfold Dev.luUpd
  exact .beside h


/-! ## Sys2Proof/Machine/Map.lean -/

theorem busErr (h : d.Canon) {e : BusErr} : (d.busErr e).Canon := by
  unfold Dev.busErr
  exact .raise (by split <;> exact .count h)


/-! ## Sys2Proof/Machine/Clock.lean -/

theorem pllReq (h : d.Canon) {p : Nat} : (d.pllReq p).Canon := by
  unfold Dev.pllReq
  exact .ite (.set h) (.ite (.set h) h)

theorem pllRelease (h : d.Canon) {p : Nat} : (d.pllRelease p).Canon := by
  unfold Dev.pllRelease
  exact .ite (.set h) h

theorem pllEval (h : d.Canon) {p : Nat} : (d.pllEval p).Canon := by
  unfold Dev.pllEval
  exact .ite (.pllReq h) (.pllRelease h)

theorem clkEval (h : d.Canon) : d.clkEval.Canon := by
  unfold Dev.clkEval
  exact .each h fun h => .pllEval h


/-! ## Sys2Proof/Machine/Safe.lean -/

theorem eachOf {α : Type} (h : d.Canon) {l : List α} {f : α → Dev → Dev} (hf : ∀ {a d}, d.Canon → (f a d).Canon) :
    (d.eachOf l f).Canon := by
  unfold Dev.eachOf
  induction l generalizing d with
  | nil => exact h
  | cons a l ih => exact ih (hf h)

theorem foPut (h : d.Canon) {n st drive : Nat} : (d.foPut n st drive).Canon := by
  unfold Dev.foPut
  exact .foUpd (.setB (.set (.when h fun h => .set h)))

theorem foResume (h : d.Canon) {n : Nat} : (d.foResume n).Canon := by
  unfold Dev.foResume
  exact .ite (.set (.foPut h)) (.foPut h)

theorem foHold (h : d.Canon) {n : Nat} : (d.foHold n).Canon := by
  unfold Dev.foHold
  exact .ite h (.ite (.ite h (.foPut h)) (.ite (.ite (.foPut h) (.foPut h)) h))

theorem foHoldAll (h : d.Canon) : d.foHoldAll.Canon := by
  unfold Dev.foHoldAll
  exact .each h fun h => .foHold h

theorem axPut (h : d.Canon) {n st : Nat} : (d.axPut n st).Canon := by
  unfold Dev.axPut
  exact .ite h (.clkEval (.raise (.set h)))

theorem axBridgesOff (h : d.Canon) {n : Nat} : (d.axBridgesOff n).Canon := by
  unfold Dev.axBridgesOff
  exact .axisUpd h

theorem blindShow (h : d.Canon) {n : Nat} : (d.blindShow n).Canon := by
  unfold Dev.blindShow
  exact .ite (.when h fun h => .axisUpd h) (.raise (.setB (.when h fun h => .axisUpd h)))

theorem axHalt (h : d.Canon) {n : Nat} : (d.axHalt n).Canon := by
  unfold Dev.axHalt
  exact .blindShow (.axisUpd (.set h))

theorem axHold (h : d.Canon) {n why : Nat} : (d.axHold n why).Canon := by
  unfold Dev.axHold
  exact .ite (.axPut (.axBridgesOff (.axHalt (.set (.ite (.set (.axisUpd h)) (.axisUpd h)))))) (.axisUpd h)

theorem axUnhold (h : d.Canon) {n why : Nat} : (d.axUnhold n why).Canon := by
  unfold Dev.axUnhold
  exact .ite (.axPut (.axisUpd (.axisUpd h))) (.axisUpd h)

theorem gateOffBy (h : d.Canon) {n s : Nat} : (d.gateOffBy n s).Canon := by
  unfold Dev.gateOffBy
  exact .ite (.set (.gchUpd h)) h

theorem gateOff (h : d.Canon) {n : Nat} : (d.gateOff n).Canon := by
  unfold Dev.gateOff
  exact .gateOffBy h

theorem gateOnBy (h : d.Canon) {n t s : Nat} : (d.gateOnBy n t s).Canon := by
  unfold Dev.gateOnBy
  exact .ite h (.set (.gchUpd h))

theorem gateOnAt (h : d.Canon) {n t : Nat} : (d.gateOnAt n t).Canon := by
  unfold Dev.gateOnAt
  exact .gateOnBy h

theorem gchPut (h : d.Canon) {n st : Nat} : (d.gchPut n st).Canon := by
  unfold Dev.gchPut
  exact .set h

theorem gchOff (h : d.Canon) {n : Nat} : (d.gchOff n).Canon := by
  unfold Dev.gchOff
  exact .gchPut (.gateOff h)

theorem driveEval (h : d.Canon) {n : Nat} : (d.driveEval n).Canon := by
  unfold Dev.driveEval
  exact .ite (.gchPut h) (.ite (.gchOff h) h)

theorem showAsc (h : d.Canon) : d.showAsc.Canon := by
  unfold Dev.showAsc
  exact .each h fun h => .ite (.setBits (.ite (.setBits (.setB h)) (.clrBits (.setB h)))) (.clrBits (.ite (.setBits (.setB h))
    (.clrBits (.setB h))))

theorem ascSwitch (h : d.Canon) {m n : Nat} : (d.ascSwitch m n).Canon := by
  unfold Dev.ascSwitch
  exact .ite h (.ite (.ite (.gchPut (.gateOnAt h)) h) (.ite (.gchOff h) h))

theorem applySet (h : d.Canon) {g : Nat} : (d.applySet g).Canon := by
  unfold Dev.applySet
  exact .set (.eachOf (.eachOf (.showAsc h) fun h => .ascSwitch h) fun h => .ascSwitch h)

theorem applySafe (h : d.Canon) {g : Nat} : (d.applySafe g).Canon := by
  unfold Dev.applySafe
  exact .eachOf h fun h => .applySet h

theorem carIdle (h : d.Canon) {c : Nat} : (d.carIdle c).Canon := by
  unfold Dev.carIdle
  exact .ite h (.each (.set (.carUpd h)) fun h => .gchUpd h)

theorem cluPut1 (h : d.Canon) {g st : Nat} : (d.cluPut1 g st).Canon := by
  unfold Dev.cluPut1
  extract_lets _ d1 d2
  have h1 : d1.Canon := .raise (.set h)
  have h2 : d2.Canon := .ite (.ite h1 (.set h1)) (.set (.carIdle h1))
  exact .ite h (.clkEval (.eachOf (.ite (.ite (.cluUpd h2) h2) (.set (.cluUpd h2))) fun h => .driveEval h))

theorem cluPut (h : d.Canon) {g st : Nat} : (d.cluPut g st).Canon := by
  unfold Dev.cluPut
  exact .eachOf h fun h => .cluPut1 h

theorem posStamp (h : d.Canon) {p : Nat} : (d.posStamp p).Canon := by
  unfold Dev.posStamp
  exact .setReg h

theorem posSrc (h : d.Canon) {p src off : Nat} : (d.posSrc p src off).Canon := by
  unfold Dev.posSrc
  exact .raise (.posStamp (.set h))

theorem alignAbort (h : d.Canon) {g : Nat} : (d.alignAbort g).Canon := by
  unfold Dev.alignAbort
  exact by split; exacts [h, .ite (.raise (.posSrc (.set (.posUpd h)))) h]

theorem cluSafe (h : d.Canon) {g : Nat} : (d.cluSafe g).Canon := by
  unfold Dev.cluSafe
  exact .ite (.cluPut (.alignAbort h)) h

theorem brakeShow1 (h : d.Canon) {n : Nat} {on : Bool} : (d.brakeShow1 n on).Canon := by
  unfold Dev.brakeShow1
  exact .foPut (.set h)

theorem brakeShow (h : d.Canon) : d.brakeShow.Canon := by
  unfold Dev.brakeShow
  exact .setB (.brakeShow1 (.brakeShow1 h))

theorem brakeApply (h : d.Canon) : d.brakeApply.Canon := by
  unfold Dev.brakeApply
  exact .when (.set (.set (.brakeShow (.beside h)))) fun h => .raise h

theorem brakeFor (h : d.Canon) {g : Nat} : (d.brakeFor g).Canon := by
  unfold Dev.brakeFor
  exact .when h fun h => .brakeApply h

theorem disEnd (h : d.Canon) {why st : Nat} : (d.disEnd why st).Canon := by
  unfold Dev.disEnd
  exact .raise (.beside (.gchUpd (.set (.set (.gchPut (.gateOff h))))))

theorem disBegin (h : d.Canon) : d.disBegin.Canon := by
  unfold Dev.disBegin
  exact .raise (.count (.gchUpd (.set (.gchPut (.gateOnAt h)))))

theorem disCommand (h : d.Canon) : d.disCommand.Canon := by
  unfold Dev.disCommand
  exact .ite (.beside (.disBegin h)) h

theorem setPaths (h : d.Canon) {n : Nat} {p1 p2 : Bool} : (d.setPaths n p1 p2).Canon := by
  unfold Dev.setPaths
  exact .gchUpd h

theorem cutPaths (h : d.Canon) {n : Nat} : (d.cutPaths n).Canon := by
  unfold Dev.cutPaths
  exact .ite (.gchOff (.setPaths h)) (.ite (.disEnd (.setPaths h)) (.setPaths h))

theorem cutGroup (h : d.Canon) {g : Nat} : (d.cutGroup g).Canon := by
  unfold Dev.cutGroup
  exact .eachOf h fun h => .eachOf h fun h => .cutPaths h

theorem carFollow (h : d.Canon) : d.carFollow.Canon := by
  unfold Dev.carFollow
  exact .ite (.carUpd (.setB h)) h

theorem carBegin (h : d.Canon) {c : Nat} : (d.carBegin c).Canon := by
  unfold Dev.carBegin
  exact .carUpd (.set h)

theorem windStop (h : d.Canon) : d.windStop.Canon := by
  unfold Dev.windStop
  extract_lets
  split
  · exact h
  · exact .eachOf (.beside h) fun h => .eachOf (.carIdle (.carUpd (.when h fun h => .carFollow (.carBegin (.set h))))) fun h
    => .cutPaths h

theorem permitGroup (h : d.Canon) {g : Nat} : (d.permitGroup g).Canon := by
  unfold Dev.permitGroup
  exact .eachOf h fun h => .eachOf h fun h => .ite (.driveEval (.setPaths h)) h

theorem thmPut (h : d.Canon) {g st : Nat} : (d.thmPut g st).Canon := by
  unfold Dev.thmPut
  exact .ite h (.jnlThimble (.raise (.eachOf h fun h => .ite (.set h) (.tgrpUpd (.set (.set h))))))

theorem thmSafe (h : d.Canon) {g : Nat} : (d.thmSafe g).Canon := by
  unfold Dev.thmSafe
  exact .ite (.brakeFor (.thmPut h)) h

theorem groupSafe (h : d.Canon) {g : Nat} {cmd : Bool} : (d.groupSafe g cmd).Canon := by
  unfold Dev.groupSafe
  exact .applySafe (.when (.cluSafe h) fun h => .thmSafe h)

theorem thmToSto (h : d.Canon) {g : Nat} : (d.thmToSto g).Canon := by
  unfold Dev.thmToSto
  exact .eachOf (.brakeFor (.thmPut (.applySafe (.cluSafe (.cutGroup h))))) fun h => .clrBits h

theorem thmStoDemand (h : d.Canon) {g : Nat} : (d.thmStoDemand g).Canon := by
  unfold Dev.thmStoDemand
  extract_lets _ d1
  have h1 : d1.Canon := .applySafe (.cluSafe h)
  exact .ite (.ite (.brakeFor (.thmPut (.eachOf h1 fun h => .eachOf h fun h => .ite h (.cutPaths h)))) (.thmToSto h)) h

theorem showDemand (h : d.Canon) {g : Nat} : (d.showDemand g).Canon := by
  unfold Dev.showDemand
  exact .eachOf h fun h => .set h

theorem hemSafe (h : d.Canon) {g : Nat} : (d.hemSafe g).Canon := by
  unfold Dev.hemSafe
  exact .groupSafe (.jnlHem (.raise h))

theorem hemHold (h : d.Canon) {why : Nat} {on : Bool} : (d.hemHold why on).Canon := by
  unfold Dev.hemHold
  extract_lets _ _ d1 _ d2
  have h1 : d1.Canon := .beside h
  have h2 : d2.Canon := .foHoldAll (.raise (.set h1))
  exact .ite (.foHoldAll h1) (.ite (.eachOf (.each h2 fun h => .axHold h) fun h => .hemSafe h) (.each (.foHoldAll (.raise
    (.set h1))) fun h => .axUnhold h))

theorem thmLatch (h : d.Canon) {bit src : Nat} : (d.thmLatch bit src).Canon := by
  unfold Dev.thmLatch
  exact .ite h (.jnlThimble (.setBits h))

theorem ss1Enter (h : d.Canon) {g : Nat} : (d.ss1Enter g).Canon := by
  unfold Dev.ss1Enter
  extract_lets _ d1 d2
  have h1 : d1.Canon := .eachOf (.raise (.thmPut h)) fun h => .set (.tgrpUpd h)
  have h2 : d2.Canon := .eachOf h1 fun h => .tgrpUpd h
  exact .ite h1 (.thmStoDemand (.eachOf (.raise (.thmLatch h2)) fun h => .setBits h))

theorem thmEval (h : d.Canon) {g : Nat} : (d.thmEval g).Canon := by
  unfold Dev.thmEval
  extract_lets _ d1 _ _ _ _ d2
  have h1 : d1.Canon := .showDemand h
  have h2 : d2.Canon := .when (.when h1 fun h => .windStop h) fun h => .eachOf h fun h => .setBits h
  exact .ite (.thmStoDemand h2) (.ite (.ss1Enter h2) h2)

theorem thmEvalAll (h : d.Canon) : d.thmEvalAll.Canon := by
  unfold Dev.thmEvalAll
  exact .eachOf (.hemHold h) fun h => .thmEval h

theorem sbcFault (h : d.Canon) : d.sbcFault.Canon := by
  unfold Dev.sbcFault
  exact .thmEvalAll (.raise (.thmLatch (.brakeApply h)))

theorem demandSto (h : d.Canon) {g bits : Nat} : (d.demandSto g bits).Canon := by
  unfold Dev.demandSto
  exact .thmEval (.eachOf h fun h => .setBits h)


/-! ## Sys2Proof/Machine/Switch.lean -/

theorem carApply (h : d.Canon) {c k : Nat} : (d.carApply c k).Canon := by
  unfold Dev.carApply
  exact .ite h (.ite (.carUpd h) (.gchUpd (.carUpd h)))

theorem carCmd (h : d.Canon) {c k : Nat} {on : Bool} : (d.carCmd c k on).Canon := by
  unfold Dev.carCmd
  exact .carApply (.carUpd h)

theorem carRelease (h : d.Canon) {c : Nat} : (d.carRelease c).Canon := by
  unfold Dev.carRelease
  exact .each h fun h => .ite (.carApply (.carUpd h)) h

theorem brakePulse (h : d.Canon) : d.brakePulse.Canon := by
  unfold Dev.brakePulse
  exact .ite (.raiseIf (.carCmd (.carRelease (.set (.driveEval (.carUpd h)))))) h

theorem brakeDirect (h : d.Canon) : d.brakeDirect.Canon := by
  unfold Dev.brakeDirect
  exact .ite h (.brakePulse (.carUpd (.jnlFault (.raise (.set h)))))

theorem brakeClock (h : d.Canon) : d.brakeClock.Canon := by
  unfold Dev.brakeClock
  exact .when h fun h => .brakeDirect h

theorem showFrozen (h : d.Canon) : d.showFrozen.Canon := by
  unfold Dev.showFrozen
  exact .brakeClock (.carFollow (.each h fun h => .ite h (.ite (.carUpd (.set (.set h))) (.when (.carUpd (.set h)) fun h =>
    .brakePulse h))))

theorem freezeEnd (h : d.Canon) : d.freezeEnd.Canon := by
  unfold Dev.freezeEnd
  exact .ite (.eachOf (.raise (.showFrozen (.set h))) fun h => .when h fun h => .hemSafe h) h

theorem epochRestart (h : d.Canon) {p : Nat} : (d.epochRestart p).Canon := by
  unfold Dev.epochRestart
  exact .pairUpd h

theorem resumeAll (h : d.Canon) : d.resumeAll.Canon := by
  unfold Dev.resumeAll
  exact .freezeEnd (.set (.each h fun h => .when h fun h => .epochRestart h))


/-! ## Sys2Proof/Machine/Persist.lean -/

theorem showRec (h : d.Canon) {e : Nat × BitVec 64} : (d.showRec e).Canon := by
  unfold Dev.showRec
  exact .setReg h

theorem showSet (h : d.Canon) : d.showSet.Canon := by
  unfold Dev.showSet
  exact by split; exacts [(.eachOf h fun h => .showRec h), h]

theorem dtmRate (h : d.Canon) : d.dtmRate.Canon := by
  unfold Dev.dtmRate
  exact .setI h

theorem trimLoad (h : d.Canon) : d.trimLoad.Canon := by
  unfold Dev.trimLoad
  exact .beside (.dtmRate (.setI h))

theorem showLog (h : d.Canon) : d.showLog.Canon := by
  unfold Dev.showLog
  exact .setB (.set (.set h))

theorem showUnlock (h : d.Canon) : d.showUnlock.Canon := by
  unfold Dev.showUnlock
  exact .setB (.setB (.setB (.setB h)))


/-! ## Sys2Proof/Machine/Reset.lean -/

theorem copyFld (h : d.Canon) {f : Fld} : (d.copyFld e f).Canon := by
  unfold Dev.copyFld
  exact .set h

theorem tagShow (h : d.Canon) : d.tagShow.Canon := by
  unfold Dev.tagShow
  exact .set (.setB h)

theorem mainReset (h : d.Canon) : d.mainReset.Canon := by
  unfold Dev.mainReset
  extract_lets _ _ e
  have he : e.Canon := .eachOf (.keep h) fun h => .copyFld h
  exact .each (.tagShow (.ite (.showLog (.showSet (.set he))) he)) fun h => .gchUpd h

theorem powerOn : d.powerOn.Canon := by
  unfold Dev.powerOn
  exact .each (.tagShow .blank) fun h => .gchUpd h

theorem refAtStart (h : d.Canon) : d.refAtStart.Canon := by
  unfold Dev.refAtStart
  exact .ite (.each (.set h) fun h => .raise h) h

theorem appReset (h : d.Canon) {held : Bool} : (d.appReset held).Canon := by
  unfold Dev.appReset
  extract_lets _ d1 _ _ d2 _ d3
  have h1 : d1.Canon := .eachOf (.windStop (.hemHold h)) fun h => .groupSafe h
  have h2 : d2.Canon := .eachOf (.keep h1) fun h => .copyFld h
  have h3 : d3.Canon := .tagShow (.brakeShow (.gateOff (.ite h2 (.copyFld h2))))
  exact .refAtStart (.trimLoad (.showSet (.clkEval (.each h3 fun h => .ite (.set h) h))))

theorem wake (h : d.Canon) {f : Fld} {v : Nat} : (d.wake f v).Canon := by
  unfold Dev.wake
  exact .ite (.beside (.set (.setBits (.mainReset h)))) (.ite (.clkEval (.beside (.set (.setBits (.set h))))) (.ite (.setBits
    h) h))

theorem clockSafe (h : d.Canon) : d.clockSafe.Canon := by
  unfold Dev.clockSafe
  extract_lets _ d1
  have h1 : d1.Canon := .each (.eachOf h fun h => .groupSafe h) fun h => .ite h (.axPut (.axBridgesOff (.axHalt (.set h))))
  exact .brakeApply (.each h1 fun h => .ite h (.foPut (.set h)))

theorem pllFault (h : d.Canon) {p : Nat} : (d.pllFault p).Canon := by
  unfold Dev.pllFault
  exact .clockSafe (.raise (.showFrozen (.set h)))


/-! ## Sys2Proof/Machine/Sequencer.lean -/

theorem adcMux (h : d.Canon) {n i : Nat} : (d.adcMux n i).Canon := by
  unfold Dev.adcMux
  exact .adcUpd h

theorem adcEntry (h : d.Canon) {n k : Nat} : (d.adcEntry n k).Canon := by
  unfold Dev.adcEntry
  exact .adcUpd (.set (.set (.set h)))

theorem adcCurrent (h : d.Canon) {n k : Nat} : (d.adcCurrent n k).Canon := by
  unfold Dev.adcCurrent
  exact .adcMux (.adcEntry h)

theorem adcStart (h : d.Canon) {n : Nat} : (d.adcStart n).Canon := by
  unfold Dev.adcStart
  exact .adcCurrent (.adcUpd h)

theorem adcRun (h : d.Canon) {n : Nat} : (d.adcRun n).Canon := by
  unfold Dev.adcRun
  exact .ite h (.ite (.count h) (.ite (.adcStart (.clkEval (.set h))) (.adcUpd (.clkEval (.set h)))))

theorem adcLost (h : d.Canon) {n : Nat} : (d.adcLost n).Canon := by
  unfold Dev.adcLost
  exact .raise (.count h)

theorem adcStop (h : d.Canon) {n : Nat} : (d.adcStop n).Canon := by
  unfold Dev.adcStop
  extract_lets _ d1
  have h1 : d1.Canon := .each h fun h => .adcLost h
  exact .ite h (.ite (.clkEval (.adcUpd (.set h))) (.ite (.count h) (.clkEval (.adcUpd (.set (.set (.set (.set h1))))))))

theorem adcTrig1 (h : d.Canon) {k n : Nat} : (d.adcTrig1 k n).Canon := by
  unfold Dev.adcTrig1
  exact .ite (.adcUpd h) h

theorem adcTrig (h : d.Canon) {k : Nat} : (d.adcTrig k).Canon := by
  unfold Dev.adcTrig
  exact .each h fun h => .adcTrig1 h

theorem frameStart (h : d.Canon) {p : Nat} : (d.frameStart p).Canon := by
  unfold Dev.frameStart
  exact .ite (.posUpd h) h

theorem posMark (h : d.Canon) {g : Nat} : (d.posMark g).Canon := by
  unfold Dev.posMark
  exact by split; exacts [(.when h fun h => .frameStart h), h]

theorem urgBegin (h : d.Canon) {n who i count : Nat} : (d.urgBegin n who i count).Canon := by
  unfold Dev.urgBegin
  exact .adcMux (.adcUpd (.set (.set h)))

theorem urgShow (h : d.Canon) {n : Nat} : (d.urgShow n).Canon := by
  unfold Dev.urgShow
  exact .set h

theorem urgQueue (h : d.Canon) {n who i count : Nat} : (d.urgQueue n who i count).Canon := by
  unfold Dev.urgQueue
  exact .ite (.urgShow (.adcUpd h)) (.ite (.adcLost h) (.urgShow (.adcUpd (.adcLost h))))

theorem urgRequest (h : d.Canon) {n who i count : Nat} : (d.urgRequest n who i count).Canon := by
  unfold Dev.urgRequest
  exact .ite (.adcLost h) (.ite (.urgQueue h) (.ite (.urgQueue h) (.urgBegin (.when h fun h => .raise (.count (.adcUpd h))))))

theorem urgWrite (h : d.Canon) {n i count : Nat} : (d.urgWrite n i count).Canon := by
  unfold Dev.urgWrite
  exact .ite h (.urgRequest h)


/-! ## Sys2Proof/Machine/Pos.lean -/

theorem posShow (h : d.Canon) {p : Nat} : (d.posShow p).Canon := by
  unfold Dev.posShow
  exact .setReg (.setReg (.setReg h))

theorem posShowValid (h : d.Canon) {p : Nat} : (d.posShowValid p).Canon := by
  unfold Dev.posShowValid
  exact .setB (.setB h)

theorem posLost (h : d.Canon) {p : Nat} : (d.posLost p).Canon := by
  unfold Dev.posLost
  exact by extract_lets; split; exacts [.hemSafe (.posSrc h), .posSrc h]

theorem slsTake (h : d.Canon) {p : Nat} : (d.slsTake p).Canon := by
  unfold Dev.slsTake
  exact .posUpd h

theorem slsEnter (h : d.Canon) {p off : Nat} : (d.slsEnter p off).Canon := by
  unfold Dev.slsEnter
  exact .posShow (.posSrc (.posUpd (.slsTake h)))

theorem posFall (h : d.Canon) {p : Nat} : (d.posFall p).Canon := by
  unfold Dev.posFall
  exact .ite h (.ite (.slsEnter h) (.posLost h))

theorem posUnindex (h : d.Canon) {p : Nat} : (d.posUnindex p).Canon := by
  unfold Dev.posUnindex
  exact .posUpd (.set h)

theorem posSensorFault (h : d.Canon) {p : Nat} : (d.posSensorFault p).Canon := by
  unfold Dev.posSensorFault
  exact .ite h (.posFall (.posShowValid (.posUnindex (.posUpd h))))

theorem posCause (h : d.Canon) {p bits : Nat} : (d.posCause p bits).Canon := by
  unfold Dev.posCause
  exact .when (.posUpd (.setBits h)) fun h => .raise h

theorem posBad (h : d.Canon) {p bits : Nat} : (d.posBad p bits).Canon := by
  unfold Dev.posBad
  exact .when (.posUpd (.posCause (.count h))) fun h => .posSensorFault h

theorem posImmediate (h : d.Canon) {p bits : Nat} : (d.posImmediate p bits).Canon := by
  unfold Dev.posImmediate
  exact .posSensorFault (.posCause h)

theorem posFaultEnd (h : d.Canon) {p : Nat} : (d.posFaultEnd p).Canon := by
  unfold Dev.posFaultEnd
  exact .posShowValid (.when h fun h => .posUpd h)

theorem posClear (h : d.Canon) {p mask : Nat} : (d.posClear p mask).Canon := by
  unfold Dev.posClear
  exact .posFaultEnd (.when (.clrBits h) fun h => .set h)

theorem obsStep (h : d.Canon) {p : Nat} {e : Int} {tau : Nat} : (d.obsStep p e tau).Canon := by
  unfold Dev.obsStep
  exact .posUpd h

theorem posTaken (h : d.Canon) {p : Nat} : (d.posTaken p).Canon := by
  unfold Dev.posTaken
  exact .posShow (.posFaultEnd (.when (.posStamp (.posUpd h)) fun h => .posImmediate h))

theorem posReading (h : d.Canon) {p : Nat} {a : Int} : (d.posReading p a).Canon := by
  unfold Dev.posReading
  exact .ite (.posTaken (.posUpd h)) (.ite (.posBad h) (.posTaken (.obsStep h)))

theorem pairDrop (h : d.Canon) {p : Nat} : (d.pairDrop p).Canon := by
  unfold Dev.pairDrop
  exact .posBad (.count (.posUpd h))

theorem demod (h : d.Canon) {p : Nat} {rs rc : BitVec 64} : (d.demod p rs rc).Canon := by
  unfold Dev.demod
  extract_lets _ _ _ d1
  have h1 : d1.Canon := .posUpd h
  exact .ite (.pairDrop h) (by split; exacts [.ite (.posBad (.set h1)) (.posReading (.set h1)), h1])

theorem posExc (h : d.Canon) {p : Nat} {v : Int} : (d.posExc p v).Canon := by
  unfold Dev.posExc
  exact .posUpd h

theorem excDrop (h : d.Canon) : d.excDrop.Canon := by
  unfold Dev.excDrop
  exact .ite h (.each h fun h => .posUpd h)

theorem posSlot (h : d.Canon) {k : Nat} {rec : BitVec 64} : (d.posSlot k rec).Canon := by
  unfold Dev.posSlot
  refine .ite h (.each h fun h => .ite h ?_)
  extract_lets d1 d2 d3
  have h1 : d1.Canon := .ite (.posExc h) h
  have h2 : d2.Canon := .ite (.posUpd h1) h1
  have h3 : d3.Canon := .ite (.posUpd h2) h2
  exact .ite h1 (by split; exacts [.demod h3, h3])

theorem posFrame (h : d.Canon) {p data at_ : Nat} : (d.posFrame p data at_).Canon := by
  unfold Dev.posFrame
  exact .ite (.posBad h) (.ite (.posBad h) (.posReading (.posUpd h)))

theorem posRewrite (h : d.Canon) {p : Nat} : (d.posRewrite p).Canon := by
  unfold Dev.posRewrite
  exact .clkEval (.posShowValid (.posUnindex (.posUpd h)))

theorem posStart (h : d.Canon) {g : Nat} : (d.posStart g).Canon := by
  unfold Dev.posStart
  exact by split; exacts [h, .ite (.posFall (.posSrc h)) (.posShow (.posSrc h))]

theorem posEnd (h : d.Canon) {g : Nat} : (d.posEnd g).Canon := by
  unfold Dev.posEnd
  exact by split; exacts [h, (.when (.when h fun h => .raise (.set (.posUpd h))) fun h => .posShow (.posSrc h))]

theorem posSwap (h : d.Canon) {p : Nat} {pub : Bool} {cmd0 : Int} : (d.posSwap p pub cmd0).Canon := by
  unfold Dev.posSwap
  extract_lets _ d1 _ _ _ d2
  have h1 : d1.Canon := .posShowValid (.when h fun h => .posUpd h)
  have h2 : d2.Canon := .posUpd h1
  apply Canon.ite (.posShow (.posUpd h1))
  exact .ite (.ite (.posShow (.posStamp (.posUpd (.slsTake h1)))) (.ite h1 (.ite (.posLost h2) h2))) h1


/-! ## Sys2Proof/Machine/Pwm.lean -/

theorem carHalf (h : d.Canon) {c : Nat} : (d.carHalf c).Canon := by
  unfold Dev.carHalf
  exact .when (.carUpd h) fun h => .raiseLim (.raise (.count h))

theorem carDead (h : d.Canon) {c : Nat} : (d.carDead c).Canon := by
  unfold Dev.carDead
  exact .each (.carUpd h) fun h => .raiseLim (.raise (.count h))

theorem carClamps (h : d.Canon) : d.carClamps.Canon := by
  unfold Dev.carClamps
  exact .each h fun h => .carDead h

theorem legEdge (h : d.Canon) {c x : Nat} {high : Bool} : (d.legEdge c x high).Canon := by
  unfold Dev.legEdge
  exact .ite h (.carCmd (.carUpd h))

theorem fltClear (h : d.Canon) {c mask : Nat} : (d.fltClear c mask).Canon := by
  unfold Dev.fltClear
  exact .clrBits h

theorem carCommit (h : d.Canon) {c : Nat} {set : List (Nat × Nat)} : (d.carCommit c set).Canon := by
  unfold Dev.carCommit
  exact .carUpd h

theorem carTransfer (h : d.Canon) {c slack : Nat} : (d.carTransfer c slack).Canon := by
  unfold Dev.carTransfer
  exact by extract_lets; split; exacts [.carUpd h, .ite (.carUpd h) (.raise (.count (.carUpd h)))]

theorem carLeg (h : d.Canon) {c : Nat} {peak : Bool} {x : Nat} : (d.carLeg c peak x).Canon := by
  unfold Dev.carLeg
  extract_lets _ _ _ _ _ _ d1 _ _ _ _ d2 d3
  have h1 : d1.Canon := .set (.set h)
  have h2 : d2.Canon := .carUpd (.when h1 fun h => .raiseLim (.count h))
  have h3 : d3.Canon := .ite (.legEdge h2) h2
  exact .ite h2 (.ite (.carUpd h3) (.ite (.legEdge h3) (.carUpd h3)))

theorem carMarkEvent (h : d.Canon) {c : Nat} {peak : Bool} : (d.carMarkEvent c peak).Canon := by
  unfold Dev.carMarkEvent
  exact .raiseIf (.ite (.when h fun h => .adcTrig h) (.posMark (.when h fun h => .adcTrig h)))

theorem carMark (h : d.Canon) {c : Nat} {peak : Bool} {slack : Nat} : (d.carMark c peak slack).Canon := by
  unfold Dev.carMark
  extract_lets _ d1 _ _ d2 _ _ d3
  have h1 : d1.Canon := .carUpd (.ite (.carUpd h) (.ite h (.carHalf h)))
  have h2 : d2.Canon := .carTransfer (.setB h1)
  have h3 : d3.Canon := .each (.setB h2) fun h => .carLeg h
  exact .carMarkEvent (.carRelease (.when h3 fun h => .each h fun h => .carApply h))

theorem carStart (h : d.Canon) {c : Nat} : (d.carStart c).Canon := by
  unfold Dev.carStart
  extract_lets d1 d2
  have h1 : d1.Canon := .carBegin (.carUpd h)
  have h2 : d2.Canon := .ite (.carDead (.ite h1 (.carHalf h1))) h1
  exact .ite h (.when (.clkEval (.carFollow (.showFrozen (.set h2)))) fun h => .brakePulse h)

theorem carStop (h : d.Canon) {c : Nat} : (d.carStop c).Canon := by
  unfold Dev.carStop
  exact .clkEval (.showFrozen (.setReg (.carUpd (.carIdle h))))

theorem brakeEnd (h : d.Canon) : d.brakeEnd.Canon := by
  unfold Dev.brakeEnd
  exact .driveEval (.carCmd (.carUpd h))

theorem coffOn (h : d.Canon) {c : Nat} : (d.coffOn c).Canon := by
  unfold Dev.coffOn
  exact .eachOf (.carUpd h) fun h => .carCmd h

theorem coffOff (h : d.Canon) {c : Nat} : (d.coffOff c).Canon := by
  unfold Dev.coffOff
  exact .eachOf (.carUpd h) fun h => .carCmd h

theorem coffRecord (h : d.Canon) {c x : Nat} {r : BitVec 64} : (d.coffRecord c x r).Canon := by
  unfold Dev.coffRecord
  exact .ite (.raiseLim (.count (.coffOff h))) h

theorem freezeBegin (h : d.Canon) : d.freezeBegin.Canon := by
  unfold Dev.freezeBegin
  exact .ite (.raise (.showFrozen (.count (.set h)))) h

theorem debugHalt (h : d.Canon) {c : Nat} : (d.debugHalt c).Canon := by
  unfold Dev.debugHalt
  exact .ite h (.when (.freezeBegin (.setBits h)) fun h => .splTrigger h)

theorem debugResume (h : d.Canon) {c : Nat} : (d.debugResume c).Canon := by
  unfold Dev.debugResume
  exact .ite (.freezeEnd (.clrBits (.when h fun h => .epochRestart h))) (.clrBits (.when h fun h => .epochRestart h))


/-! ## Sys2Proof/Machine/Adc.lean -/

theorem cluRecord (h : d.Canon) {n : Nat} {r : BitVec 64} : (d.cluRecord n r).Canon := by
  unfold Dev.cluRecord
  exact .ite (.cluUpd h) (.ite (.cluUpd h) h)

theorem cluSats (h : d.Canon) {g : Nat} {l : List Int} : (d.cluSats g l).Canon := by
  unfold Dev.cluSats
  exact .add h

theorem cluVector (h : d.Canon) {g vec c : Nat} : (d.cluVector g vec c).Canon := by
  unfold Dev.cluVector
  exact .ite (.cluUpd (.cluSats h)) (.when h fun h => .count h)

theorem adcEmit (h : d.Canon) {n : Nat} {r : BitVec 64} : (d.adcEmit n r).Canon := by
  unfold Dev.adcEmit
  extract_lets _ d1 _ d2
  have h1 : d1.Canon := .when (.setReg h) fun h => .count h
  have h2 : d2.Canon := .cluRecord (.when h1 fun h => .count h)
  exact .splFeed (.ite (.coffRecord h2) h2)

theorem adcCount (h : d.Canon) {n : Nat} {r : BitVec 64} : (d.adcCount n r).Canon := by
  unfold Dev.adcCount
  exact .adcUpd (.set h)

theorem adcAperture (h : d.Canon) {n : Nat} {v : Conv} : (d.adcAperture n v).Canon := by
  unfold Dev.adcAperture
  exact .ite h (.ite (.adcUpd (.ite (.adcEmit h) h)) (.ite (.adcCount (.adcEmit h)) (.adcEmit h)))

theorem adcNext (h : d.Canon) {n : Nat} {next : Dev → Dev} (hn : ∀ {d}, d.Canon → (next d).Canon) :
    (d.adcNext n next).Canon := by
  unfold Dev.adcNext
  split; exacts [.urgBegin (.urgShow (.adcUpd h)), hn h]

theorem udcTake (h : d.Canon) {r : BitVec 64} : (d.udcTake r).Canon := by
  unfold Dev.udcTake
  exact .ite (.each h fun h => .cluUpd (.cluSats h)) h

theorem refEvt (h : d.Canon) : d.refEvt.Canon := by
  unfold Dev.refEvt
  exact .each h fun h => .raise h

theorem calInvalid (h : d.Canon) : d.calInvalid.Canon := by
  unfold Dev.calInvalid
  exact .set (.each h fun h => .set h)

theorem refBegin (h : d.Canon) : d.refBegin.Canon := by
  unfold Dev.refBegin
  exact .ite (.refEvt (.set h)) h

theorem refSelect (h : d.Canon) {sel : Nat} : (d.refSelect sel).Canon := by
  unfold Dev.refSelect
  extract_lets d1
  have h1 : d1.Canon := .set (.beside h)
  exact .ite (.ite h (.count h)) (.ite (.refBegin h1) (.ite (.refEvt (.set (.calInvalid (.set h1)))) h1))

theorem calBegin (h : d.Canon) {n : Nat} : (d.calBegin n).Canon := by
  unfold Dev.calBegin
  exact .clkEval (.setBits (.set h))

theorem calStart (h : d.Canon) {mask : Nat} : (d.calStart mask).Canon := by
  unfold Dev.calStart
  exact .each h fun h => .ite h (.ite (.calBegin h) (.count h))

theorem startDeferred (h : d.Canon) : d.startDeferred.Canon := by
  unfold Dev.startDeferred
  exact .each h fun h => .ite (.adcStart h) h

theorem calFailHold (h : d.Canon) {n : Nat} : (d.calFailHold n).Canon := by
  unfold Dev.calFailHold
  exact .eachOf h fun h => .when h fun h => .hemSafe h

theorem trimStart (h : d.Canon) : d.trimStart.Canon := by
  unfold Dev.trimStart
  exact .ite h (.ite (.set h) (.clkEval (.set h)))

theorem rwsRefuse (h : d.Canon) {o : Origin} : (d.rwsRefuse o).Canon := by
  unfold Dev.rwsRefuse
  exact .ite (.count h) (.count h)

theorem rwsStored (h : d.Canon) : d.rwsStored.Canon := by
  unfold Dev.rwsStored
  exact .beside h

theorem trimWrite (h : d.Canon) {o : Origin} : (d.trimWrite o).Canon := by
  unfold Dev.trimWrite
  exact .ite h (.ite (.trimStart (.rwsStored h)) (.rwsRefuse h))


/-! ## Sys2Proof/Machine/Gch.lean -/

theorem gchReport (h : d.Canon) {n bits : Nat} : (d.gchReport n bits).Canon := by
  unfold Dev.gchReport
  exact .each (.gchUpd (.setReg (.ite (.setReg h) h))) fun h => .when h fun h => .jnlFault (.raise h)

theorem gchShowCause (h : d.Canon) {n : Nat} : (d.gchShowCause n).Canon := by
  unfold Dev.gchShowCause
  exact .set h

theorem gchLatch (h : d.Canon) {n bits cause : Nat} : (d.gchLatch n bits cause).Canon := by
  unfold Dev.gchLatch
  exact .ite (.gchUpd h) (.gchShowCause (.gchReport (.gchUpd h)))

theorem gchTrip (h : d.Canon) {n st : Nat} : (d.gchTrip n st).Canon := by
  unfold Dev.gchTrip
  exact .ite (.disEnd (.when h fun h => .gateOffBy h)) (.gchPut (.gateOff (.when h fun h => .gateOffBy h)))

theorem gchFault1 (h : d.Canon) {n bits cause : Nat} {soft : Bool} {from_ : List Nat} : (d.gchFault1 n bits cause soft
  from_).Canon := by
  unfold Dev.gchFault1
  extract_lets _ d1 d2
  have h1 : d1.Canon := .gchLatch h
  have h2 : d2.Canon := .ite (.gchUpd h1) h1
  exact .ite h (.ite (.ite (.gchUpd h2) h2) (.ite (.gchTrip h2) h2))

theorem gchGroupSafe (h : d.Canon) {n : Nat} : (d.gchGroupSafe n).Canon := by
  unfold Dev.gchGroupSafe
  exact .ite h (.ite (.groupSafe h) h)

theorem gchFault (h : d.Canon) {n bits cause : Nat} {soft : Bool} {from_ : List Nat} : (d.gchFault n bits cause soft
  from_).Canon := by
  unfold Dev.gchFault
  exact .gchGroupSafe (.eachOf h fun h => .gchFault1 h)

theorem supplyPut (h : d.Canon) {n : Nat} {vpos vneg : BitVec 8} : (d.supplyPut n vpos vneg).Canon := by
  unfold Dev.supplyPut
  exact .ite (.gchUpd h) (.set (.set (.gchUpd h)))

theorem tableLoad (h : d.Canon) {n : Nat} : (d.tableLoad n).Canon := by
  unfold Dev.tableLoad
  exact .gchUpd h

theorem tableLoadAll (h : d.Canon) : d.tableLoadAll.Canon := by
  unfold Dev.tableLoadAll
  exact .each h fun h => .when h fun h => .tableLoad h

theorem edgeLearn (h : d.Canon) {n : Nat} {on : Bool} {ts : Option Nat} {code vdsOff : Nat} : (d.edgeLearn n on ts code
  vdsOff).Canon := by
  unfold Dev.edgeLearn
  extract_lets _ _ _ _ _ d1 _ _ _ d2 d3
  have h1 : d1.Canon := .gchUpd h
  have h2 : d2.Canon := .gchUpd (.set (.set (.set h1)))
  have h3 : d3.Canon := by unfold d3; split; exacts [.set (.gchUpd h2), .count h2]
  apply Canon.ite h3
  split
  · exact .count h3
  · exact .ite (.count h3) (.ite h3 (.when (.count (.tableLoad (.set h3))) fun h => .raise h))

theorem sidesAgain (h : d.Canon) : d.sidesAgain.Canon := by
  unfold Dev.sidesAgain
  exact .each (.showAsc h) fun h => .ite (.applySet h) h

theorem trainDone (h : d.Canon) {n : Nat} : (d.trainDone n).Canon := by
  unfold Dev.trainDone
  extract_lets d1 _ d2 _ d3 _ _ _ d4 d5
  have h1 : d1.Canon := .gchUpd h
  have h2 : d2.Canon := .set (.set (.tableLoad h1))
  have h3 : d3.Canon := .when (.clrBits (.setBits h2)) fun h => .setB h
  have h4 : d4.Canon := .gchShowCause (.when h3 fun h => .gchReport h)
  have h5 : d5.Canon := .ite (.setPaths h4) h4
  exact .foHoldAll (.sidesAgain (.driveEval (.gchPut (.when h5 fun h => .gateOff h))))

theorem supplyRead (h : d.Canon) {n : Nat} {r : Rails} : (d.supplyRead n r).Canon := by
  unfold Dev.supplyRead
  exact .gchUpd h

theorem trainFail (h : d.Canon) {n : Nat} : (d.trainFail n).Canon := by
  unfold Dev.trainFail
  exact .setBits (.gchUpd h)

theorem ascRelease (h : d.Canon) {g : Nat} : (d.ascRelease g).Canon := by
  unfold Dev.ascRelease
  exact .eachOf h fun h => .ite (.set (.eachOf h fun h => .ite (.gchOff h) h)) h

theorem gateDisable (h : d.Canon) : d.gateDisable.Canon := by
  unfold Dev.gateDisable
  exact .each (.set h) fun h => .ite (.gateOff h) (.gchTrip h)

theorem gateClear (h : d.Canon) {n : Nat} {stuck rising : Bool} : (d.gateClear n stuck rising).Canon := by
  unfold Dev.gateClear
  exact .ite (.gchPut (.gchShowCause (.setReg (.gchUpd h)))) (.gchShowCause (.setReg (.gchUpd h)))

theorem gateClearAll (h : d.Canon) {stuck : Nat} {rising : Bool} : (d.gateClearAll stuck rising).Canon := by
  unfold Dev.gateClearAll
  exact .each (.sidesAgain (.each h fun h => .gateClear h)) fun h => .driveEval h

theorem gateRise (h : d.Canon) {lowNs stuck : Nat} : (d.gateRise lowNs stuck).Canon := by
  unfold Dev.gateRise
  extract_lets d1 _ _ d2
  have h1 : d1.Canon := .set (.set h)
  have h2 : d2.Canon := .ite (.drawn h1) h1
  exact .ite (.count (.gateClearAll (.set (.ite h2 (.thmEvalAll (.gateDisable h2)))))) (.ite (.count (.gateClearAll h2))
    (.count h2))


/-! ## Sys2Proof/Machine/Clu.lean -/

theorem clampActs (h : d.Canon) {g kind : Nat} {f : Fld} {acts : Bool} : (d.clampActs g kind f acts).Canon := by
  unfold Dev.clampActs
  exact .ite h (.ite (.raiseLim (.count (.beside h))) (.beside h))

theorem takePair (h : d.Canon) {g : Nat} : (d.takePair g).Canon := by
  unfold Dev.takePair
  exact by split; exacts [.cluUpd h, .ite (.cluUpd h) h]

theorem cluRefs (h : d.Canon) {g : Nat} : (d.cluRefs g).Canon := by
  unfold Dev.cluRefs
  exact .setReg (.clampActs (.clampActs (.clampActs (.cluSats (.setReg (.takePair h))))))

theorem cluPark (h : d.Canon) {g tm : Nat} : (d.cluPark g tm).Canon := by
  unfold Dev.cluPark
  exact .setReg (.setReg (.cluSats h))

theorem cluTrip (h : d.Canon) {g : Nat} : (d.cluTrip g).Canon := by
  unfold Dev.cluTrip
  exact .groupSafe h

theorem cluMeasure (h : d.Canon) {g tm : Nat} : (d.cluMeasure g tm).Canon := by
  unfold Dev.cluMeasure
  extract_lets _ _ _ _ _ _ _ d1 _ _ _ _ _ _ d2
  have h1 : d1.Canon := .when (.cluUpd (.cluSats h)) fun h => .raise (.add (.set h))
  have h2 : d2.Canon := .cluUpd (.cluSats h1)
  exact .ite (.when (.cluUpd h1) fun h => .cluTrip h) (.cluPark (.each (.when h2 fun h => .raise (.set h)) fun h => .setReg
    h))

theorem showRecon (h : d.Canon) {g : Nat} : (d.showRecon g).Canon := by
  unfold Dev.showRecon
  exact by split; exacts [.set h, (.each (.set (.cluSats h)) fun h => .setReg h)]

theorem disagreeSats (h : d.Canon) {g : Nat} {rec : List Int} : (d.disagreeSats g rec).Canon := by
  unfold Dev.disagreeSats
  exact .cluSats h

theorem cluDecide (h : d.Canon) {g : Nat} : (d.cluDecide g).Canon := by
  unfold Dev.cluDecide
  exact .ite (.jnlFault (.cluPut (.eachOf (.raise (.set (.set h))) fun h => .set h))) (.jnlFault (.cluTrip h))

theorem cluCompare (h : d.Canon) {g : Nat} : (d.cluCompare g).Canon := by
  unfold Dev.cluCompare
  extract_lets
  split
  · exact h
  · extract_lets d1 _ _ d2
    have h1 : d1.Canon := .cluUpd (.disagreeSats h)
    have h2 : d2.Canon := .cluUpd h1
    exact .ite h (.ite (.cluUpd h1) (.when (.raise (.set h2)) fun h => .cluDecide h))

theorem cluFromRecon (h : d.Canon) {g tm : Nat} : (d.cluFromRecon g tm).Canon := by
  unfold Dev.cluFromRecon
  exact by split; exacts [.cluPark (.cluUpd h), .ite (.jnlFault (.cluTrip (.cluUpd h))) (.cluUpd h)]

theorem cluControl (h : d.Canon) {g : Nat} {rec : Bool} {half : Nat} : (d.cluControl g rec half).Canon := by
  unfold Dev.cluControl
  extract_lets d1 _ _ _ _ _ _ _ _ _ _ _ _ _ _ _ _ _ _ _ d2 _ d3
  have h1 : d1.Canon := .cluRefs h
  have h2 : d2.Canon := .cluUpd (.cluSats h1)
  have h3 : d3.Canon := .setB (.setB (.when h2 fun h => .raiseLim h))
  exact .setReg (.setReg (.setReg (.setReg h3)))

theorem cluPlan (h : d.Canon) {g tm : Nat} {fixed : Bool} {order : Nat × Nat × Nat} {rise fall : List Int} : (d.cluPlan g tm
  fixed order rise fall).Canon := by
  unfold Dev.cluPlan
  exact .ite (.cluUpd h) (by split; exact .when (.add (.cluUpd h)) fun h => .count h)

theorem cluRepeat (h : d.Canon) {g tm : Nat} : (d.cluRepeat g tm).Canon := by
  unfold Dev.cluRepeat
  exact .ite (.cluUpd h) (.ite (.cluUpd (.cluPlan h)) (.cluPlan h))

theorem dutySats (h : d.Canon) {g : Nat} {va vb : Int} : (d.dutySats g va vb).Canon := by
  unfold Dev.dutySats
  exact .add h

theorem cluModulate (h : d.Canon) {g tm : Nat} {peak : Bool} : (d.cluModulate g tm peak).Canon := by
  unfold Dev.cluModulate
  exact by split; exact .cluUpd (.ite (.set (.dutySats h)) (.cluPlan (.set (.dutySats h))))

theorem cluSpool (h : d.Canon) {g tm : Nat} : (d.cluSpool g tm).Canon := by
  unfold Dev.cluSpool
  exact .each h fun h => by split; exacts [.splFeed h, h]

theorem cluInput (h : d.Canon) {g tm : Nat} : (d.cluInput g tm).Canon := by
  unfold Dev.cluInput
  extract_lets _ d1 d2 d3
  have h1 : d1.Canon := .ite (.cluMeasure h) h
  have h2 : d2.Canon := .showRecon h1
  have h3 : d3.Canon := .ite (.cluCompare h2) h2
  exact .ite (.cluUpd h1) (.cluUpd (.ite (.cluFromRecon h3) h3))

theorem cluOutput (h : d.Canon) {g tm : Nat} : (d.cluOutput g tm).Canon := by
  unfold Dev.cluOutput
  exact .ite h (.ite (.cluSpool (.cluModulate (.cluControl h))) (.cluSpool (.ite h (.cluRepeat h))))

theorem cluTransfer (h : d.Canon) {g : Nat} {bad : Bool} : (d.cluTransfer g bad).Canon := by
  unfold Dev.cluTransfer
  exact .ite (.cluTrip (.raise (.set h))) (.ite h (.carCommit h))

theorem cluLasting (h : d.Canon) {g : Nat} : (d.cluLasting g).Canon := by
  unfold Dev.cluLasting
  exact .when (.when h fun h => .set h) fun h => .set h

theorem enableRefuse (h : d.Canon) {g why : Nat} : (d.enableRefuse g why).Canon := by
  unfold Dev.enableRefuse
  exact .set (.count (.eachOf (.when h fun h => .raiseLim (.count h)) fun h => .set h))

theorem enableTake (h : d.Canon) {g : Nat} : (d.enableTake g).Canon := by
  unfold Dev.enableTake
  extract_lets d1 _ d2
  have h1 : d1.Canon := .eachOf h fun h => .set (.set (.setReg (.set (.set (.set (.cluUpd h))))))
  have h2 : d2.Canon := .eachOf (.ascRelease h1) fun h => .set h
  exact .posStart (.eachOf (.cluPut h2) fun h => .urgRequest h)

theorem cluEnable (h : d.Canon) {g : Nat} : (d.cluEnable g).Canon := by
  unfold Dev.cluEnable
  exact .ite h (.ite (.enableTake h) (.enableRefuse h))

theorem cluOff (h : d.Canon) {g : Nat} : (d.cluOff g).Canon := by
  unfold Dev.cluOff
  exact .cluPut (.eachOf (.posEnd h) fun h => .set h)

theorem cluDisable (h : d.Canon) {g : Nat} : (d.cluDisable g).Canon := by
  unfold Dev.cluDisable
  exact .ite h (.cluOff h)

theorem sixSet (h : d.Canon) : d.sixSet.Canon := by
  unfold Dev.sixSet
  exact .cluPut1 (.set (.ite h (.posEnd h)))

theorem offsetStore (h : d.Canon) {g : Nat} : (d.offsetStore g).Canon := by
  unfold Dev.offsetStore
  exact .each h fun h => .ite h (.setI h)


/-! ## Sys2Proof/Machine/Align.lean -/

theorem alignFail (h : d.Canon) {p res : Nat} : (d.alignFail p res).Canon := by
  unfold Dev.alignFail
  exact .posLost (.raise (.set (.posUpd h)))

theorem alignDrive (h : d.Canon) {p : Nat} {v a : Int} : (d.alignDrive p v a).Canon := by
  unfold Dev.alignDrive
  exact by split; exacts [h, (.eachOf h fun h => .carCommit (.dutySats h))]

theorem alignPulse (h : d.Canon) {p k : Nat} : (d.alignPulse p k).Canon := by
  unfold Dev.alignPulse
  exact .alignDrive (.posUpd h)

theorem alignEval (h : d.Canon) {p : Nat} : (d.alignEval p).Canon := by
  unfold Dev.alignEval
  exact .ite (.alignFail (.set h)) (.alignPulse (.posUpd (.set h)))

theorem alignMap (h : d.Canon) {p : Nat} {t0 : Int} : (d.alignMap p t0).Canon := by
  unfold Dev.alignMap
  exact .posSrc (.posUpd h)

theorem alignOpen (h : d.Canon) {p : Nat} {t0 : Int} : (d.alignOpen p t0).Canon := by
  unfold Dev.alignOpen
  exact .posSrc (.posUpd h)

theorem testRun (h : d.Canon) {p : Nat} : (d.testRun p).Canon := by
  unfold Dev.testRun
  exact by split; exacts [.ite (.cluPut h) h, h]

theorem alignPass (h : d.Canon) {p : Nat} {t0 : Int} : (d.alignPass p t0).Canon := by
  unfold Dev.alignPass
  extract_lets _ d1 _ d2
  have h1 : d1.Canon := .posUpd (.set (.set h))
  have h2 : d2.Canon := .testRun (.ite (.alignMap h1) (.alignOpen h1))
  exact .ite (.posLost h2) (.posShow h2)

theorem alignPolarity (h : d.Canon) {p : Nat} : (d.alignPolarity p).Canon := by
  unfold Dev.alignPolarity
  exact .ite (.alignFail (.set h)) (.alignPass (.set h))


/-! ## Sys2Proof/Machine/Fio.lean -/

theorem foWrite (h : d.Canon) {n mode : Nat} : (d.foWrite n mode).Canon := by
  unfold Dev.foWrite
  extract_lets
  apply Canon.ite h
  apply Canon.ite (.raiseLim (.count h))
  apply Canon.ite (.ite (.foPut (.set h)) (.set h))
  exact .ite (.ite (.foResume (.set h)) (.foPut (.set h))) (.ite (.ite (.foResume (.set h)) (.foPut (.set h))) (.set h))

theorem foCurrent (h : d.Canon) {n : Nat} {ma : BitVec 16} : (d.foCurrent n ma).Canon := by
  unfold Dev.foCurrent
  exact .when h fun h => .set h

theorem foFights (h : d.Canon) {b : Nat} {l : List Nat} : (d.foFights b l).Canon := by
  unfold Dev.foFights
  exact .eachOf h fun h => .setBits (.set (.foPut h))

theorem foLatch (h : d.Canon) {n cause : Nat} {fight : Bool} : (d.foLatch n cause fight).Canon := by
  unfold Dev.foLatch
  exact .raise (.foFights (.when (.foUpd (.setBits (.set (.foPut h)))) fun h => .setBits h))

theorem foBrakeLatch (h : d.Canon) {n cause : Nat} : (d.foBrakeLatch n cause).Canon := by
  unfold Dev.foBrakeLatch
  exact .raise (.foFights (.sbcFault (.foUpd (.setBits (.set h)))))

theorem foClear (h : d.Canon) {n : Nat} : (d.foClear n).Canon := by
  unfold Dev.foClear
  exact .ite (.foHold (.set (.foResume (.clrBits h)))) (.clrBits h)

theorem foClearMask (h : d.Canon) {mask : Nat} : (d.foClearMask mask).Canon := by
  unfold Dev.foClearMask
  exact .each h fun h => .when h fun h => .foClear h

theorem diFiltered (h : d.Canon) {n : Nat} : (d.diFiltered n).Canon := by
  unfold Dev.diFiltered
  exact .ite (.beside h) (.raiseIf (.ite (.setBits (.beside h)) (.clrBits (.beside h))))

theorem diRaw (h : d.Canon) {n : Nat} {level : Bool} : (d.diRaw n level).Canon := by
  unfold Dev.diRaw
  extract_lets d1
  have h1 : d1.Canon := .ite (.setBits h) (.clrBits h)
  exact .ite h (.ite (.when (.beside h1) fun h => .count h) (.ite (.diFiltered h1) (.beside h1)))


/-! ## Sys2Proof/Machine/Stepper.lean -/

theorem coilClamp (h : d.Canon) {n : Nat} : (d.coilClamp n).Canon := by
  unfold Dev.coilClamp
  exact .when h fun h => .raiseLim (.count h)

theorem coilUpd (h : d.Canon) {n : Nat} {b : Bool} {f : Coil → Coil} : (d.coilUpd n b f).Canon := by
  unfold Dev.coilUpd
  exact .axisUpd h

theorem thrCount (h : d.Canon) {n : Nat} {b up : Bool} : (d.thrCount n b up).Canon := by
  unfold Dev.thrCount
  exact .when h fun h => .count h

theorem chopLow (h : d.Canon) {n : Nat} {b : Bool} : (d.chopLow n b).Canon := by
  unfold Dev.chopLow
  exact .count (.coilUpd h)

theorem chopOn (h : d.Canon) {n : Nat} {b low : Bool} : (d.chopOn n b low).Canon := by
  unfold Dev.chopOn
  exact .ite (.coilUpd h) (.ite (.chopLow h) (.thrCount (.coilUpd h)))

theorem chopOff (h : d.Canon) {n : Nat} {b low : Bool} : (d.chopOff n b low).Canon := by
  unfold Dev.chopOff
  exact .ite (.chopLow h) (.thrCount (.coilUpd h))

theorem chopSum (h : d.Canon) {n : Nat} {b : Bool} {off : Nat} : (d.chopSum n b off).Canon := by
  unfold Dev.chopSum
  exact .coilUpd h

theorem bandTake (h : d.Canon) {n r : Nat} : (d.bandTake n r).Canon := by
  unfold Dev.bandTake
  exact .raise (.set (.set (.set h)))

theorem bandTick (h : d.Canon) {n : Nat} {rest : Bool} : (d.bandTick n rest).Canon := by
  unfold Dev.bandTick
  exact .ite (.set (.set h)) (.ite (.bandTake h) (.ite (.count (.bandTake h)) (.set (.set h))))

theorem homeFail (h : d.Canon) {n why : Nat} : (d.homeFail n why).Canon := by
  unfold Dev.homeFail
  exact .raise (.set (.set (.set h)))

theorem homeAbort (h : d.Canon) {n why : Nat} : (d.homeAbort n why).Canon := by
  unfold Dev.homeAbort
  exact .ite (.homeFail h) h

theorem axStop (h : d.Canon) {n : Nat} {e : Bool} : (d.axStop n e).Canon := by
  unfold Dev.axStop
  exact .axPut (.axisUpd h)

theorem axFault (h : d.Canon) {n off : Nat} : (d.axFault n off).Canon := by
  unfold Dev.axFault
  exact .jnlFault (.axPut (.axBridgesOff (.axHalt h)))

theorem axStall (h : d.Canon) {n : Nat} : (d.axStall n).Canon := by
  unfold Dev.axStall
  extract_lets _ d1 _ _ d2
  have h1 : d1.Canon := .raise (.set (.set h))
  have h2 : d2.Canon := .homeAbort (.axisUpd h1)
  exact .ite (.axFault h2) (.ite (.axStop h2) (.ite (.axStop h2) h2))

theorem loadPublish (h : d.Canon) {n : Nat} {c : Coil} : (d.loadPublish n c).Canon := by
  unfold Dev.loadPublish
  exact .when (.axisUpd (.set (.set (.setI (.setI (.ite (.drawn h) h)))))) fun h => .axStall h

theorem windowEnd (h : d.Canon) {n : Nat} {c : Coil} : (d.windowEnd n c).Canon := by
  unfold Dev.windowEnd
  exact .ite (.blindShow (.axisUpd h)) (.loadPublish (.blindShow (.axisUpd h)))

theorem coilTick (h : d.Canon) {n : Nat} {b low : Bool} : (d.coilTick n b low).Canon := by
  unfold Dev.coilTick
  extract_lets _ _ _ d1 _ _ d2
  have h1 : d1.Canon := .ite h (.coilUpd h)
  have h2 : d2.Canon := .coilUpd (.ite (.coilUpd h1) (.ite (.windowEnd (.coilUpd h1)) h1))
  exact .ite h2 (.ite (.coilUpd h2) (.ite (.chopOn h2) h2))

theorem jerkTake (h : d.Canon) {n : Nat} {s x : Int} {goal : Option Int} : (d.jerkTake n s x goal).Canon := by
  unfold Dev.jerkTake
  exact .axisUpd (.setI h)

theorem axToward (h : d.Canon) {n : Nat} {vt e : Int} {jerk : Bool} : (d.axToward n vt e jerk).Canon := by
  unfold Dev.axToward
  exact .ite (.axisUpd (.setI h)) (.jerkTake h)

theorem axTurn (h : d.Canon) {n : Nat} {s left : Int} : (d.axTurn n s left).Canon := by
  unfold Dev.axTurn
  exact .ite (.axToward h) (.axisUpd (.setI h))

theorem axSeek (h : d.Canon) {n : Nat} {tgt : Int} {vmax : Int} : (d.axSeek n tgt vmax).Canon := by
  unfold Dev.axSeek
  exact .ite (.axTurn h) (.ite (.jerkTake (.drawn h)) (.axisUpd (.setI (.drawn h))))

theorem axMove (h : d.Canon) {n : Nat} {w : Int} : (d.axMove n w).Canon := by
  unfold Dev.axMove
  exact .axisUpd h

theorem axShow (h : d.Canon) {n : Nat} : (d.axShow n).Canon := by
  unfold Dev.axShow
  exact .ite (.setReg h) (.setB (.setReg h))

theorem axGo (h : d.Canon) {n : Nat} : (d.axGo n).Canon := by
  unfold Dev.axGo
  exact .ite (.axPut (.when (.set h) fun h => .coilClamp h)) h

theorem axTarget (h : d.Canon) {n : Nat} {x : Int} : (d.axTarget n x).Canon := by
  unfold Dev.axTarget
  exact .axGo (.axisUpd h)

theorem axSpeed (h : d.Canon) {n : Nat} {x : Int} : (d.axSpeed n x).Canon := by
  unfold Dev.axSpeed
  exact .axGo (.axisUpd h)

theorem axTgtWrite (h : d.Canon) {n : Nat} {v : BitVec 64} : (d.axTgtWrite n v).Canon := by
  unfold Dev.axTgtWrite
  exact .ite (.setReg h) (.axTarget (.setReg h))

theorem axVtgtWrite (h : d.Canon) {n : Nat} {v : BitVec 64} : (d.axVtgtWrite n v).Canon := by
  unfold Dev.axVtgtWrite
  exact .ite (.setReg h) (.axSpeed (.setReg h))

theorem axPosWrite (h : d.Canon) {n : Nat} {v : BitVec 64} : (d.axPosWrite n v).Canon := by
  unfold Dev.axPosWrite
  exact .ite (.axShow (.axisUpd h)) (.ite h (.count h))

theorem axSwap1 (h : d.Canon) {n : Nat} {new : Bool} : (d.axSwap1 n new).Canon := by
  unfold Dev.axSwap1
  exact .ite (.ite (.axUnhold h) h) (.ite (.axTarget (.ite (.axUnhold h) h)) (.axSpeed (.ite (.axUnhold h) h)))

theorem axSwap (h : d.Canon) {own : Nat → Bool} {pub : List Nat} : (d.axSwap own pub).Canon := by
  unfold Dev.axSwap
  exact .each h fun h => .when h fun h => .axSwap1 h

theorem axEnable (h : d.Canon) {n : Nat} : (d.axEnable n).Canon := by
  unfold Dev.axEnable
  exact .ite h (.ite (.count (.set h)) (.axPut (.coilClamp (.set (.axisUpd (.set (.set (.set (.set (.set h))))))))))

theorem axDisable (h : d.Canon) {n : Nat} : (d.axDisable n).Canon := by
  unfold Dev.axDisable
  exact .ite (.set h) (.axPut (.set (.axBridgesOff (.axHalt (.homeAbort h)))))

theorem axStopWrite (h : d.Canon) {n : Nat} : (d.axStopWrite n).Canon := by
  unfold Dev.axStopWrite
  exact .ite (.axStop (.homeAbort h)) (.axisUpd h)

theorem homeStart (h : d.Canon) {n : Nat} : (d.homeStart n).Canon := by
  unfold Dev.homeStart
  exact .ite (.axPut (.when (.set (.set (.set h))) fun h => .coilClamp h)) h

theorem limTrip (h : d.Canon) {n : Nat} : (d.limTrip n).Canon := by
  unfold Dev.limTrip
  exact .ite h (.axStop (.raise (.set (.setI h))))

theorem homeLimit (h : d.Canon) {n : Nat} : (d.homeLimit n).Canon := by
  unfold Dev.homeLimit
  exact .ite h (.axStop (.homeFail (.when (.when h fun h => .raise (.set h)) fun h => .raise (.set h))))

theorem homeConfirm (h : d.Canon) {n : Nat} : (d.homeConfirm n).Canon := by
  unfold Dev.homeConfirm
  exact .set h

theorem axRest (h : d.Canon) {n : Nat} : (d.axRest n).Canon := by
  unfold Dev.axRest
  exact .axPut (.axisUpd (.set h))

theorem axStep (h : d.Canon) {n : Nat} {tgt : Option Int} : (d.axStep n tgt).Canon := by
  unfold Dev.axStep
  exact by extract_lets; split; exacts [.axMove h, .ite (.axisUpd (.set h)) (.axMove h)]

theorem moveTick (h : d.Canon) {n : Nat} : (d.moveTick n).Canon := by
  unfold Dev.moveTick
  extract_lets _ _ d1 _ d2 _ _ d3
  have h1 : d1.Canon := .axStep (.axSeek h)
  have h2 : d2.Canon := .axStep (.axToward h)
  have h3 : d3.Canon := .setI (.axMove h)
  exact by split; exacts [.ite (.raise (.axRest h1)) h1, .ite (.axRest h2) h2, .ite (.axPut h3) h3, .axRest h]

theorem homeMove (h : d.Canon) {n : Nat} {back : Bool} : (d.homeMove n back).Canon := by
  unfold Dev.homeMove
  exact .axStep (.axToward h)

theorem homePhase (h : d.Canon) {n st : Nat} : (d.homePhase n st).Canon := by
  unfold Dev.homePhase
  exact .axisUpd (.set h)

theorem homeDone (h : d.Canon) {n : Nat} : (d.homeDone n).Canon := by
  unfold Dev.homeDone
  exact .axRest (.raise (.set (.set h)))

theorem homeTick (h : d.Canon) {n : Nat} : (d.homeTick n).Canon := by
  unfold Dev.homeTick
  extract_lets d1 d2 d3 d4 _ d5
  have h1 : d1.Canon := .homeMove h
  have h2 : d2.Canon := .homeMove h
  have h3 : d3.Canon := .axStep (.axToward h)
  have h4 : d4.Canon := .axisUpd h3
  have h5 : d5.Canon := .axStep (.axSeek h)
  split
  · exact .homePhase h
  · exact by split; exacts [.ite (.homePhase h1) h1, .ite (.axStop (.homeFail h1)) h1]
  · exact .ite (.axStop (.homeFail h2)) h2
  · exact .homeMove h
  · exact .ite h3 (.ite (.set h4) (.homeDone h4))
  · exact .ite (.homeDone h5) h5
  · exact h

theorem stopTick (h : d.Canon) {n : Nat} : (d.stopTick n).Canon := by
  unfold Dev.stopTick
  exact .ite (.axRest (.axisUpd (.axStep (.axToward h)))) (.axStep (.axToward h))

theorem restTick (h : d.Canon) {n : Nat} : (d.restTick n).Canon := by
  unfold Dev.restTick
  exact .setI h

theorem coilResult (h : d.Canon) {n : Nat} {b : Bool} {stamp mean : Nat} : (d.coilResult n b stamp mean).Canon := by
  unfold Dev.coilResult
  extract_lets _ _ _ d1
  have h1 : d1.Canon := .coilUpd h
  exact .ite h (.ite (.axFault (.raise (.set (.homeAbort h1)))) (.ite h1 (.ite (.coilUpd h1) (.coilUpd (.setI h1)))))

theorem axFltClear (h : d.Canon) {n mask : Nat} : (d.axFltClear n mask).Canon := by
  unfold Dev.axFltClear
  exact .setReg h


/-! ## Sys2Proof/Machine/Engine.lean -/

theorem stwPut (h : d.Canon) {n w : Nat} {v : BitVec 64} : (d.stwPut n w v).Canon := by
  unfold Dev.stwPut
  exact .setReg h

theorem slFlt (h : d.Canon) {n kind : Nat} : (d.slFlt n kind).Canon := by
  unfold Dev.slFlt
  exact .ite (.raiseLim h) (.trigCause h)

theorem flightPut (h : d.Canon) {n : Nat} {l : List Flight} : (d.flightPut n l).Canon := by
  unfold Dev.flightPut
  exact .set (.slcUpd h)

theorem slSats (h : d.Canon) {n : Nat} {l : List Int} : (d.slSats n l).Canon := by
  unfold Dev.slSats
  exact .add h

theorem pcBy (h : d.Canon) {n k : Nat} : (d.pcBy n k).Canon := by
  unfold Dev.pcBy
  exact .set h

theorem issueBy (h : d.Canon) {n opc : Nat} {reads writes : Oper → List Nat} {need : Nat} {f : Oper → Dev → Dev}
    (hf : ∀ {o d}, d.Canon → (f o d).Canon) : (d.issueBy n opc reads writes need f).Canon := by
  unfold Dev.issueBy
  split; exacts [h, .ite (.pcBy (hf h)) h]

theorem issue0 (h : d.Canon) {n opc : Nat} {reads : Oper → List Nat} {f : Oper → Dev → Dev}
    (hf : ∀ {o d}, d.Canon → (f o d).Canon) : (d.issue0 n opc reads f).Canon := by
  unfold Dev.issue0
  exact .issueBy h hf

theorem issueMac (h : d.Canon) {n opc : Nat} {f : Oper → Dev → Dev}
    (hf : ∀ {o d}, d.Canon → (f o d).Canon) : (d.issueMac n opc f).Canon := by
  unfold Dev.issueMac
  exact .issueBy h hf

theorem issue1 (h : d.Canon) {n opc : Nat} {reads : Oper → List Nat} {f : Oper → Dev → Dev}
    (hf : ∀ {o d}, d.Canon → (f o d).Canon) : (d.issue1 n opc reads f).Canon := by
  unfold Dev.issue1
  exact .issueBy h hf

theorem now1 (h : d.Canon) {n w : Nat} {raw : Int} : (d.now1 n w raw).Canon := by
  unfold Dev.now1
  exact .stwPut (.slSats h)

theorem later (h : d.Canon) {n : Nat} {l : List (Nat × Int)} : (d.later n l).Canon := by
  unfold Dev.later
  exact .flightPut (.slSats h)

theorem alu (h : d.Canon) {n opc : Nat} {reads : Oper → List Nat} {f : Int → Int → Int → Int} :
    (d.alu n opc reads f).Canon :=
  by
  unfold Dev.alu
  exact .issue1 h fun h => .now1 h

theorem macPut (h : d.Canon) {n : Nat} {x : Int} : (d.macPut n x).Canon := by
  unfold Dev.macPut
  exact .flightPut (.slcUpd (.when h fun h => .count h))

theorem divCount (h : d.Canon) {n : Nat} {b : Int} : (d.divCount n b).Canon := by
  unfold Dev.divCount
  exact .when h fun h => .slFlt (.count h)

theorem rootCount (h : d.Canon) {n : Nat} {a : Int} : (d.rootCount n a).Canon := by
  unfold Dev.rootCount
  exact .when h fun h => .slFlt (.count h)

theorem closeIf (h : d.Canon) {g : Nat} : (d.closeIf g).Canon := by
  unfold Dev.closeIf
  exact .when h fun h => .egrUpd h

theorem slReturn (h : d.Canon) {n : Nat} : (d.slReturn n).Canon := by
  unfold Dev.slReturn
  exact .clkEval (.set h)

theorem splEnd (h : d.Canon) {n : Nat} : (d.splEnd n).Canon := by
  unfold Dev.splEnd
  exact .each h fun h => .when h fun h => .splMade h

theorem opResult (h : d.Canon) {n k : Nat} : (d.opResult n k).Canon := by
  unfold Dev.opResult
  extract_lets d1
  have h1 : d1.Canon := .flightPut h
  exact by split; exacts [h, (by split; exacts [(.eachOf h1 fun h => .stwPut h), .ite (.count h1) (.portUpd h1)])]

theorem tuneWrite (h : d.Canon) {c : Commit} : (d.tuneWrite c).Canon := by
  unfold Dev.tuneWrite
  exact .eachOf h fun h => .when (.stwPut h) fun h => .set h

theorem tuneApply (h : d.Canon) {g : Nat} : (d.tuneApply g).Canon := by
  unfold Dev.tuneApply
  refine List.foldlRecOn (motive := fun acc : Dev × List Commit => acc.1.Canon) _ _ h fun acc h p _ => ?_
  split
  · exact h
  · split
    · exact h
    · exact .set (.set (.portUpd (.tuneWrite (.when h fun h => .add h))))

theorem slOpen (h : d.Canon) {n : Nat} : (d.slOpen n).Canon := by
  unfold Dev.slOpen
  extract_lets _ _ _ d1
  have h1 : d1.Canon := .slcUpd h
  split
  · exact .ite (.set h1) (.ite (.slcUpd (.set (.set h1))) h1)
  · exact .ite (.slFlt (.count h1)) h1
  · exact h1

theorem grpTrigger (h : d.Canon) {g : Nat} : (d.grpTrigger g).Canon := by
  unfold Dev.grpTrigger
  extract_lets _ d1 _ _ d2
  have h1 : d1.Canon := .egrUpd h
  have h2 : d2.Canon := .egrUpd h1
  exact .ite (.egrUpd h) (.ite (.count h1) (.clkEval (.closeIf (.eachOf (.tuneApply (.set h2)) fun h => .slOpen h))))

theorem accept (h : d.Canon) : d.accept.Canon := by
  unfold Dev.accept
  exact .eachOf h fun h => by split; exacts [h, .slcUpd (.egrUpd h)]

theorem hemGuard (h : d.Canon) {w : Nat} : (d.hemGuard w).Canon := by
  unfold Dev.hemGuard
  exact .each (.eachOf (.jnlHem (.raise (.set (.count h)))) fun h => .hemSafe h) fun h => .when h fun h => .axHold h

theorem ageWord (h : d.Canon) {w : Nat} : (d.ageWord w).Canon := by
  unfold Dev.ageWord
  exact .ite h (.ite (.hemGuard (.raise (.count (.set h)))) (.set h))

theorem posSwaps (h : d.Canon) {g : Nat} {pub : List Nat} {cmds : List Int} : (d.posSwaps g pub cmds).Canon := by
  unfold Dev.posSwaps
  exact .each h fun h => .ite (.posSwap h) h

theorem swap (h : d.Canon) {g : Nat} : (d.swap g).Canon := by
  unfold Dev.swap
  extract_lets _ _ _ d1 _ _ d2 _ d3
  have h1 : d1.Canon := .setReg h
  have h2 : d2.Canon := .egrUpd (.eachOf (.set h1) fun h => .set (.setReg h))
  have h3 : d3.Canon := .each (.eachOf h2 fun h => .ite h (.ite (.raiseIf (.eachOf h fun h => .ageWord h)) (.slFlt (.count
    (.eachOf h fun h => .ageWord h))))) fun h => .when h fun h => .splMade h
  exact .clkEval (.posSwaps (.axSwap h3))

theorem slRunPut (h : d.Canon) {n : Nat} {run : Bool} : (d.slRunPut n run).Canon := by
  unfold Dev.slRunPut
  exact .ite (.when (.slcUpd (.set (.clkEval (.setB h)))) fun h => .set h) (.clkEval (.setB h))

theorem slRun (h : d.Canon) {o : Origin} {n : Nat} {run : Bool} : (d.slRun o n run).Canon := by
  unfold Dev.slRun
  exact .ite (.count h) (.slRunPut h)

theorem tune (h : d.Canon) {p count : Nat} {restart : Bool} : (d.tune p count restart).Canon := by
  unfold Dev.tune
  exact .ite (.count (.set h)) (.ite (.set (.tuneWrite h)) (.set (.portUpd h)))


/-! ## Sys2Proof/Machine/Assist.lean -/

theorem xPut (h : d.Canon) {c rd : Nat} {v : BitVec 64} : (d.xPut c rd v).Canon := by
  unfold Dev.xPut
  exact .ite h (.ite (.portUpd (.portUpd h)) (.portUpd h))

theorem coreRegPut (h : d.Canon) {c r : Nat} {v : BitVec 64} : (d.coreRegPut c r v).Canon := by
  unfold Dev.coreRegPut
  exact .ite (.xPut h) (.ite (.portUpd (.portUpd h)) (.portUpd h))

theorem assistResult (h : d.Canon) {n op : Nat} {a b : Int} : (d.assistResult n op a b).1.Canon := by
  unfold Dev.assistResult
  split
  rename_i e raw he
  refine .slSats ?_
  split at he <;> obtain ⟨rfl, rfl⟩ := Prod.mk.injEq .. ▸ he
  exacts [.divCount h, .rootCount h, h, h, h, h]

theorem assistIssue (h : d.Canon) {c : Nat} {r : LaReq} : (d.assistIssue c r).Canon := by
  unfold Dev.assistIssue
  exact .ite h (.portUpd (.flightPut (.assistResult h)))

theorem assistPump (h : d.Canon) : d.assistPump.Canon := by
  unfold Dev.assistPump
  exact .each h fun h => .eachOf h fun h => .assistIssue h

theorem laDo (h : d.Canon) {c : Nat} {i : LaOp} : (d.laDo c i).Canon := by
  unfold Dev.laDo
  exact by split; exacts [.xPut (.portUpd h), .portUpd h, .portUpd h]

theorem laServe {k : Nat} {new : Bool} (h : d.Canon) {c : Nat} : (Dev.laServe k new d c).Canon := by
  induction k generalizing new d with
  | zero => exact h
  | succ k ih =>
    rw [Dev.laServe.eq_2]
    split
    · exact h
    · exact .ite (ih (.laDo (.portUpd h))) (by split; exacts [.when h fun h => .count h, h])

theorem laPump (h : d.Canon) {c : Nat} : (d.laPump c).Canon := by
  unfold Dev.laPump
  exact .clkEval (.assistPump (.laServe h))

theorem laGo (h : d.Canon) {c : Nat} {i : LaOp} : (d.laGo c i).Canon := by
  unfold Dev.laGo
  exact .ite h (.clkEval (.assistPump (.laServe (.portUpd h))))

theorem laAct (h : d.Canon) {c : Nat} {w : LaWrite} : (d.laAct c w).Canon := by
  unfold Dev.laAct
  exact by split; exacts [.portUpd h, .tune h, .ite (.count h) (.slRunPut h)]

theorem squashReq (h : d.Canon) {c j : Nat} : (d.squashReq c j).Canon := by
  unfold Dev.squashReq
  exact by split; exacts [h, .ite (.count (.portUpd h)) (.slcUpd (.portUpd h))]

theorem squashRet (h : d.Canon) {c j : Nat} : (d.squashRet c j).Canon := by
  unfold Dev.squashRet
  exact by split; exacts [h, (.count (by split; exacts [.count (.xPut (.portUpd h)), .xPut (.portUpd h)]))]

theorem laExec (h : d.Canon) {c : Fin 4} {w : BitVec 32} : (d.laExec c w).Canon := by
  unfold Dev.laExec
  exact by extract_lets; split; exacts [.laGo h, .portUpd h]

theorem splArm (h : d.Canon) : d.splArm.Canon := by
  unfold Dev.splArm
  extract_lets _ d1
  have h1 : d1.Canon := .set (.set (.set h))
  exact .ite h (.ite (.count (.set h)) (.eachOf (.beside h1) fun h => .setSch (.set (.set (.set h)))))

theorem splStop (h : d.Canon) : d.splStop.Canon := by
  unfold Dev.splStop
  exact .ite (.set h) h

theorem splForce (h : d.Canon) : d.splForce.Canon := by
  unfold Dev.splForce
  exact .ite (.splFire h) h

theorem splLevel (h : d.Canon) {c : Nat} {rec : List (BitVec 64)} : (d.splLevel c rec).Canon := by
  unfold Dev.splLevel
  exact .ite h (by split; exacts [h, (.when (.setSch h) fun h => .splTrigger h)])


/-! ## Sys2Proof/Machine/Sys.lean -/

theorem pllStop (h : d.Canon) : d.pllStop.Canon := by
  unfold Dev.pllStop
  exact .showFrozen (.beside (.each h fun h => .set h))

theorem lossSequence (h : d.Canon) {vhold : Nat} : (d.lossSequence vhold).Canon := by
  unfold Dev.lossSequence
  extract_lets _ d1 _ _ _ _ d2 _ d3
  have h1 : d1.Canon := .journal (.count (.raise (.set h)))
  have h2 : d2.Canon := .hemHold (.set (.beside h1))
  have h3 : d3.Canon := .each (.when h2 fun h => .eachOf h fun h => .hemSafe h) fun h => .axHold h
  exact .when (.pllStop (.brakeShow (.brakeApply h3))) fun h => .disCommand h

theorem sleepReq (h : d.Canon) : d.sleepReq.Canon := by
  unfold Dev.sleepReq
  exact .ite (.ite (.clkEval (.set h)) (.set (.count h))) h

theorem pllMark (h : d.Canon) {p : Nat} {fw on : Bool} : (d.pllMark p fw on).Canon := by
  unfold Dev.pllMark
  exact .ite (.setB h) (.beside h)


/-! ## Sys2Proof/Machine/Hem.lean -/

theorem pairRefuse (h : d.Canon) {why : Nat} : (d.pairRefuse why).Canon := by
  unfold Dev.pairRefuse
  exact .raise (.set h)

theorem roleTo (h : d.Canon) {p : Nat} : (d.roleTo p).Canon := by
  unfold Dev.roleTo
  exact .raise (.set h)

theorem roleFromRetired (h : d.Canon) {p : Nat} : (d.roleFromRetired p).Canon := by
  unfold Dev.roleFromRetired
  exact .ite (.roleTo h) h

theorem portDrop (h : d.Canon) {c : Nat} : (d.portDrop c).Canon := by
  unfold Dev.portDrop
  exact .portUpd (.slcUpd h)

theorem checkpoint (h : d.Canon) {p : Nat} : (d.checkpoint p).Canon := by
  unfold Dev.checkpoint
  exact .pairUpd h

theorem bothGone (h : d.Canon) : d.bothGone.Canon := by
  unfold Dev.bothGone
  exact .when (.hemHold (.beside h)) fun h => .eachOf h fun h => .hemSafe h

theorem splitCancel (h : d.Canon) {p : Nat} : (d.splitCancel p).Canon := by
  unfold Dev.splitCancel
  exact .ite (.pairRefuse (.pairUpd h)) h

theorem retire (h : d.Canon) {p : Nat} : (d.retire p).Canon := by
  unfold Dev.retire
  extract_lets _ d1
  have h1 : d1.Canon := .jnlHem (.raise (.portDrop (.set h)))
  exact by split; exacts [.bothGone h1, .ite (.roleTo (.splitCancel h1)) h1, .ite (.pairUpd (.set h1)) h1, h1]

theorem handRefuse (h : d.Canon) {p why : Nat} : (d.handRefuse p why).Canon := by
  unfold Dev.handRefuse
  exact .ite (.pairRefuse (.pairUpd (.set h))) h

theorem chkLoad (h : d.Canon) {p : Nat} : (d.chkLoad p).Canon := by
  unfold Dev.chkLoad
  exact .each (.each h fun h => .portUpd h) fun h => .setReg h

theorem released (h : d.Canon) {p us : Nat} : (d.released p us).Canon := by
  unfold Dev.released
  exact .roleFromRetired (.raise (.set (.count (.set (.eachOf (.chkLoad (.pairUpd h)) fun h => .set h)))))

theorem classRef (h : d.Canon) : d.classRef.Canon := by
  unfold Dev.classRef
  exact .count h

theorem dogWrite (h : d.Canon) {o : Origin} {key : Nat} : (d.dogWrite o key).Canon := by
  unfold Dev.dogWrite
  exact .ite (.classRef h) (.ite (.beside h) h)

theorem handStart (h : d.Canon) {p : Nat} {split : Bool} : (d.handStart p split).Canon := by
  unfold Dev.handStart
  exact .raise (.pairUpd (.set h))

theorem splitWrite (h : d.Canon) {o : Origin} : (d.splitWrite o).Canon := by
  unfold Dev.splitWrite
  apply Canon.ite (.classRef h)
  split
  · exact .classRef h
  · exact .ite h (.ite (.pairRefuse h) (.ite (.pairRefuse h) (.ite (.handStart h) (.pairUpd h))))

theorem ownerReq (h : d.Canon) {o : Origin} : (d.ownerReq o).Canon := by
  unfold Dev.ownerReq
  exact .ite (.classRef h) (.ite h (.ite (.pairRefuse h) (.handStart h)))

theorem safeAck (h : d.Canon) {o : Origin} : (d.safeAck o).Canon := by
  unfold Dev.safeAck
  exact by split; exacts [.ite h (.ite (.set h) (.set (.set h))), h]

theorem rejoin (h : d.Canon) {c : Nat} : (d.rejoin c).Canon := by
  unfold Dev.rejoin
  exact .ite h (by split; exacts [.pairUpd h, .ite h (.pairUpd (.set h))])

theorem tempKeep (h : d.Canon) : d.tempKeep.Canon := by
  unfold Dev.tempKeep
  exact .eachOf h fun h => by split; exacts [.beside h, h]

theorem derateShow (h : d.Canon) {g : Nat} {below : Bool} : (d.derateShow g below).Canon := by
  unfold Dev.derateShow
  exact .ite h (.raise (.beside h))

theorem derateFactors (h : d.Canon) {g : Nat} {ks : List Nat} : (d.derateFactors g ks).Canon := by
  unfold Dev.derateFactors
  exact .set (.setB (.set (.set (.set h))))

theorem derate (h : d.Canon) {g : Nat} : (d.derate g).Canon := by
  unfold Dev.derate
  exact .derateShow (.beside (.set (.derateFactors h)))

theorem holdEval (h : d.Canon) : d.holdEval.Canon := by
  unfold Dev.holdEval
  exact .hemHold (.hemHold (.hemHold (.hemHold (.hemHold h))))


/-! ## Sys2Proof/Machine/AuxAdc.lean -/

theorem auxNext (h : d.Canon) {m k : Nat} : (d.auxNext m k).Canon := by
  unfold Dev.auxNext
  exact .ite (.auxUpd h) (.auxUpd h)

theorem auxCoils (h : d.Canon) {k stamp mean : Nat} : (d.auxCoils k stamp mean).Canon := by
  unfold Dev.auxCoils
  exact .each h fun h => .when (.when h fun h => .coilResult h) fun h => .coilResult h

theorem auxPublish (h : d.Canon) {m k : Nat} {l : List Nat} : (d.auxPublish m k l).Canon := by
  unfold Dev.auxPublish
  extract_lets _ _ _ _ _ _ _ _ _ _ d1
  have h1 : d1.Canon := .when (.when (.setReg h) fun h => .count h) fun h => .count h
  exact .ite (.auxCoils h1) (.ite (.beside h1) h1)


/-! ## Sys2Proof/Machine/Content.lean -/

theorem stagePut (h : d.Canon) {e : BitVec 40 × BitVec 64} : (d.stagePut e).Canon := by
  unfold Dev.stagePut
  exact .setReg h

theorem stagedDev {c : ImgContent} : (stagedDev c).Canon := by
  unfold Machine.stagedDev
  exact .eachOf .blank fun h => .stagePut h


/-! ## Sys2Proof/Machine/Thimble.lean -/

theorem selPut (h : d.Canon) {g : Nat} {asc : Bool} : (d.selPut g asc).Canon := by
  unfold Dev.selPut
  extract_lets _ d1 d2
  have h1 : d1.Canon := .raise (.eachOf h fun h => .setB (.setB h))
  have h2 : d2.Canon := .ascRelease h1
  exact .ite h (.ite h1 (.ite (.thmToSto h2) h2))

theorem thmChecks (h : d.Canon) : d.thmChecks.Canon := by
  unfold Dev.thmChecks
  extract_lets _ _ d1 d2 _ d3
  have h1 : d1.Canon := .when (.when h fun h => .jnlThimble h) fun h => .jnlThimble h
  have h2 : d2.Canon := .ite h1 (.beside h1)
  have h3 : d3.Canon := .when (.setB h2) fun h => .jnlThimble h
  exact .when (.setB h3) fun h => .jnlThimble h

theorem thmShow (h : d.Canon) : d.thmShow.Canon := by
  unfold Dev.thmShow
  exact .set (.setB (.setB (.set (.showLog (.showSet h)))))

theorem siPut (h : d.Canon) {k st : Nat} : (d.siPut k st).Canon := by
  unfold Dev.siPut
  exact .ite h (.raise (.set h))

theorem siCause (h : d.Canon) : d.siCause.Canon := by
  unfold Dev.siCause
  exact .ite (.setBits h) (.clrBits h)

theorem siStep (h : d.Canon) {k : Nat} : (d.siStep k).Canon := by
  unfold Dev.siStep
  exact .siCause (by split; exacts [.ite (.siPut (.set h)) h, .ite (.siPut h) h, .ite h (.siPut h), .ite (.siPut h) h, h])

theorem siStart (h : d.Canon) {k : Nat} : (d.siStart k).Canon := by
  unfold Dev.siStart
  exact .siStep (.siPut (.set h))

theorem thmStart (h : d.Canon) : d.thmStart.Canon := by
  unfold Dev.thmStart
  extract_lets _ d1
  have h1 : d1.Canon := .eachOf (.each (.set h) fun h => .siStart h) fun h => .selPut h
  exact .thmEvalAll (.driveEval (.setPaths (.setPaths h1)))

theorem thmForget (h : d.Canon) : d.thmForget.Canon := by
  unfold Dev.thmForget
  exact .showUnlock (.brakeShow (.set (.set (.each (.keep h) fun h => .set h))))

theorem speedRead (h : d.Canon) {g : Nat} : (d.speedRead g).Canon := by
  unfold Dev.speedRead
  split
  · extract_lets _ d1
    have h1 : d1.Canon := .eachOf h fun h => .tgrpUpd (.setB (.setI h))
    exact .ite (.selPut h1) (.ite (.selPut h1) h1)

theorem ss1Demand (h : d.Canon) {g : Nat} : (d.ss1Demand g).Canon := by
  unfold Dev.ss1Demand
  exact .demandSto h

theorem ss1Violate (h : d.Canon) {g : Nat} : (d.ss1Violate g).Canon := by
  unfold Dev.ss1Violate
  exact .ss1Demand (.raise (.thmLatch (.eachOf h fun h => .tgrpUpd h)))

theorem ss1Complete (h : d.Canon) {g : Nat} : (d.ss1Complete g).Canon := by
  unfold Dev.ss1Complete
  exact .ite (.eachOf (.brakeApply (.raise h)) fun h => .tgrpUpd h) (.ss1Demand (.raise h))

theorem tmJudge (h : d.Canon) {pdc pexp : Int} {wasBlind : Bool} : (d.tmJudge pdc pexp wasBlind).Canon := by
  unfold Dev.tmJudge
  exact .ite (.set h) (.ite (.set h) (.thmEvalAll (.eachOf (.raise (.thmLatch (.set h))) fun h => .groupSafe h)))

theorem tudcShow (h : d.Canon) {v : Nat} : (d.tudcShow v).Canon := by
  unfold Dev.tudcShow
  exact .setB (.set h)

theorem dcShow (h : d.Canon) {l : List (BitVec 12 × BitVec 12)} : (d.dcShow l).Canon := by
  unfold Dev.dcShow
  exact by split; exacts [h, .setI (.tudcShow h)]

theorem lockPut (h : d.Canon) {sec : Nat} : (d.lockPut sec).Canon := by
  unfold Dev.lockPut
  exact .setB (.set (.ite h (.beside h)))

theorem thmAnswer (h : d.Canon) {tag code r : Nat} : (d.thmAnswer tag code r).Canon := by
  unfold Dev.thmAnswer
  exact .raise (.when (.set (.set (.set h))) fun h => .count h)

theorem release (h : d.Canon) {g : Nat} : (d.release g).Canon := by
  unfold Dev.release
  extract_lets _ d1
  have h1 : d1.Canon := .showDemand (.eachOf h fun h => .tgrpUpd h)
  exact .ite (.permitGroup (.thmPut h1)) h1

theorem clearBrakeLatches (h : d.Canon) : d.clearBrakeLatches.Canon := by
  unfold Dev.clearBrakeLatches
  exact .eachOf (.clrBits h) fun h => .when h fun h => .foPut h

theorem pwdWrong (h : d.Canon) : d.pwdWrong.Canon := by
  unfold Dev.pwdWrong
  exact .ite (.count (.add h)) (.raise (.jnlThimble (.lockPut (.count (.add h)))))

theorem setActs (h : d.Canon) : d.setActs.Canon := by
  unfold Dev.setActs
  extract_lets _ d1 _ d2
  have h1 : d1.Canon := .each (.carClamps (.showSet h)) fun h => .coilClamp h
  have h2 : d2.Canon := .eachOf (.each h1 fun h => .ite h (.siStart h)) fun h => .ite h (.selPut h)
  exact .thmEvalAll (.hemHold (.set (.set h2)))


/-! ## Sys2Proof/Machine/Sfl.lean -/

theorem sflShow (h : d.Canon) : d.sflShow.Canon := by
  unfold Dev.sflShow
  exact by split; exact .set (.set (.set h))

theorem sflSend (h : d.Canon) {k ver kind : Nat} {pay : List (BitVec 8)} : (d.sflSend k ver kind pay).Canon := by
  unfold Dev.sflSend
  exact .ite (.count h) (.when (.sflShow (.beside h)) fun h => .raise h)

theorem sflPop (h : d.Canon) : d.sflPop.Canon := by
  unfold Dev.sflPop
  exact .sflShow (.beside h)

theorem sflThm (h : d.Canon) {k : Nat} : (d.sflThm k).Canon := by
  unfold Dev.sflThm
  exact .when h fun h => .thmEvalAll h

theorem sflPut (h : d.Canon) {k st : Nat} : (d.sflPut k st).Canon := by
  unfold Dev.sflPut
  exact .set (.connUpd h)

theorem sflDown (h : d.Canon) {k st : Nat} : (d.sflDown k st).Canon := by
  unfold Dev.sflDown
  exact .raise (.sflPut h)

theorem sflCrcFail (h : d.Canon) {k : Nat} : (d.sflCrcFail k).Canon := by
  unfold Dev.sflCrcFail
  exact .ite (.sflThm (.jnlFault (.sflDown (.set (.count (.connUpd h)))))) (.set (.count (.connUpd h)))

theorem sflEnable (h : d.Canon) {k : Nat} {en : Bool} : (d.sflEnable k en).Canon := by
  unfold Dev.sflEnable
  extract_lets _ _ d1
  have h1 : d1.Canon := .setB (.when h fun h => .sflSend h)
  exact .sflThm (.ite (.when h1 fun h => .sflPut h) (.ite h1 (.connUpd (.sflPut h1))))

theorem sflData (h : d.Canon) {k : Nat} {pay : List (BitVec 8)} : (d.sflData k pay).Canon := by
  unfold Dev.sflData
  exact .sflSend (.set h)

theorem sflResult (h : d.Canon) {k : Option Nat} {r : Nat} : (d.sflResult k r).Canon := by
  unfold Dev.sflResult
  extract_lets _ d1
  have h1 : d1.Canon := by unfold d1; split; exacts [(.when (.set (.set h)) fun h => .set h), (.set h)]
  exact .raise (.when h1 fun h => .raiseLim (.count h))

theorem sflOpened (h : d.Canon) {k seq : Nat} {pay : List (BitVec 8)} : (d.sflOpened k seq pay).Canon := by
  unfold Dev.sflOpened
  exact .ite (.raise (.sflSend (.sflPut (.set (.set h))))) (.raise (.count (.sflSend (.set h))))

theorem sflAccept (h : d.Canon) {k kind seq : Nat} {pay : List (BitVec 8)} : (d.sflAccept k kind seq pay).Canon := by
  unfold Dev.sflAccept
  extract_lets _ _ _ e
  refine .sflThm ?_
  unfold e
  split
  · exact .connUpd (.set (.add h))
  · exact .sflOpened (.when h fun h => .sflDown h)
  · exact .ite (.raise (.count h)) (.raise (.sflPut (.set h)))
  · exact .sflDown h

theorem sflJudge (h : d.Canon) {f : List (BitVec 8)} : (d.sflJudge f).Canon := by
  unfold Dev.sflJudge
  extract_lets
  apply Canon.ite (.sflResult h)
  split
  · exact .sflResult h
  · extract_lets _ d1
    have h1 : d1.Canon := .sflResult h
    exact .ite (.sflCrcFail (.sflResult h)) (.ite (.sflSend (.sflResult h)) (.ite (.sflAccept h1) h1))


/-! ## Sys2Proof/Machine/CanCore.lean -/

theorem canEnd (h : d.Canon) {n b : Nat} : (d.canEnd n b).Canon := by
  unfold Dev.canEnd
  exact .clrBits (.clrBits h)

theorem canFail (h : d.Canon) {n b why : Nat} : (d.canFail n b why).Canon := by
  unfold Dev.canFail
  exact .raise (.set (.setBits (.canEnd h)))

theorem canFailAll (h : d.Canon) {n why : Nat} {keep : Option Nat} : (d.canFailAll n why keep).Canon := by
  unfold Dev.canFailAll
  exact .canUpd (.each h fun h => .when h fun h => .canFail h)

theorem canQueue (h : d.Canon) {n : Nat} {f : CanFrame} : (d.canQueue n f).Canon := by
  unfold Dev.canQueue
  exact .canUpd h

theorem canStopped (h : d.Canon) {n : Nat} : (d.canStopped n).Canon := by
  unfold Dev.canStopped
  exact .ite (.clkEval (.set (.canUpd (.canFailAll h)))) h

theorem canCount (h : d.Canon) {n tec rec : Nat} : (d.canCount n tec rec).Canon := by
  unfold Dev.canCount
  extract_lets _ _ _ d1
  have h1 : d1.Canon := .when (.setB (.set (.set h))) fun h => .raise h
  exact .ite (.canStopped (.when (.raise (.count (.set (.canFailAll h1)))) fun h => .set h)) (.ite (.raise (.set h1)) (.ite
    (.raise (.set h1)) h1))


/-! ## Sys2Proof/Machine/Events.lean -/

theorem evrClearMask (h : d.Canon) {t j mask : Nat} : (d.evrClearMask t j mask).Canon := by
  unfold Dev.evrClearMask
  exact .each h fun h => .when h fun h => .evrClear h

theorem jnlGap (h : d.Canon) : d.jnlGap.Canon := by
  unfold Dev.jnlGap
  exact .ite (.journal (.beside h)) h

theorem jnlFlushEnd (h : d.Canon) : d.jnlFlushEnd.Canon := by
  unfold Dev.jnlFlushEnd
  exact .ite (.ite (.beside (.flushStop h)) (.flushStop h)) h

theorem jnlWritten (h : d.Canon) {e : JEntry} {num fl : Nat} : (d.jnlWritten e num fl).Canon := by
  unfold Dev.jnlWritten
  exact .jnlFlushEnd (.jnlGap (.when (.when (.set (.set (.beside h))) fun h => .count h) fun h => .raiseLim h))

theorem fwEntry (h : d.Canon) {o : Origin} {k : Nat} : (d.fwEntry o k).Canon := by
  unfold Dev.fwEntry
  exact .ite (.count h) (.jnlPut h)

theorem dtmTerm (h : d.Canon) {x : Int} : (d.dtmTerm x).Canon := by
  unfold Dev.dtmTerm
  exact .dtmRate (.beside h)

theorem dtmServo (h : d.Canon) {th : Int} {tau : Nat} : (d.dtmServo th tau).Canon := by
  unfold Dev.dtmServo
  exact .dtmTerm (.beside h)

theorem dtmStep (h : d.Canon) {th : Int} : (d.dtmStep th).Canon := by
  unfold Dev.dtmStep
  exact .raise (.journal (.count (.set (.beside h))))

theorem dtmLock (h : d.Canon) {th : Int} : (d.dtmLock th).Canon := by
  unfold Dev.dtmLock
  exact .ite (.ite (.raise (.set (.beside h))) (.raise (.count (.set (.beside h))))) (.beside h)

theorem dtmMeasure (h : d.Canon) {th : Int} : (d.dtmMeasure th).Canon := by
  unfold Dev.dtmMeasure
  extract_lets _ _ _ _ d1
  have h1 : d1.Canon := .count (.setI (.beside (.ite (.set (.beside h)) h)))
  exact .ite h (.dtmLock (.ite (.beside h1) (.dtmServo h1)))

theorem dtmSource (h : d.Canon) {src : Nat} : (d.dtmSource src).Canon := by
  unfold Dev.dtmSource
  extract_lets _ _ _ d1
  have h1 : d1.Canon := .beside (.set h)
  exact .ite h (.ite (.set (.dtmTerm h1)) (.set (.ite (.beside h1) h1)))

theorem dtmBoundary (h : d.Canon) : d.dtmBoundary.Canon := by
  unfold Dev.dtmBoundary
  exact by extract_lets; split; exacts [.dtmStep (.beside h), .beside h]

theorem advance (h : d.Canon) {dt : Nat} : (d.advance dt).Canon := by
  unfold Dev.advance
  exact .ite (.beside h) (.dtmBoundary (.beside h))

theorem tick (h : d.Canon) : d.tick.Canon := by
  unfold Dev.tick
  exact .ite (.beside h) (.ite (.advance (.beside h)) (.advance (.beside h)))


/-! ## Sys2Proof/Machine/Domain.lean -/

theorem domIntervals (h : d.Canon) : d.domIntervals.Canon := by
  unfold Dev.domIntervals
  exact by extract_lets; split; exacts [.ite (.setI (.setI (.beside h))) h, .ite h (.set (.set (.beside h)))]

theorem domPut (h : d.Canon) {st : Nat} : (d.domPut st).Canon := by
  unfold Dev.domPut
  exact .raise (.domIntervals (.set (.when h fun h => .set h)))

theorem domSend (h : d.Canon) {typ arg : Nat} {data : List (BitVec 8)} : (d.domSend typ arg data).Canon := by
  unfold Dev.domSend
  exact .canQueue h

theorem domDropClaims (h : d.Canon) : d.domDropClaims.Canon := by
  unfold Dev.domDropClaims
  exact .canUpd h

theorem domClaim0 (h : d.Canon) : d.domClaim0.Canon := by
  unfold Dev.domClaim0
  exact .ite (.domSend (.beside (.domDropClaims h))) h

theorem domContend (h : d.Canon) {late : Bool} : (d.domContend late).Canon := by
  unfold Dev.domContend
  exact .ite (.domPut (.beside h)) h

theorem domRoles (h : d.Canon) : d.domRoles.Canon := by
  unfold Dev.domRoles
  exact .dtmSource (.set h)

theorem domMembers (h : d.Canon) {l : List Member} : (d.domMembers l).Canon := by
  unfold Dev.domMembers
  exact .set (.beside h)

theorem domGateway (h : d.Canon) : d.domGateway.Canon := by
  unfold Dev.domGateway
  exact .domRoles (.set (.when (.setB (.set h)) fun h => .raise h))

theorem domLeader (h : d.Canon) {uid : Nat} : (d.domLeader uid).Canon := by
  unfold Dev.domLeader
  exact .domRoles (.when (.when (.setB (.set h)) fun h => .raise h) fun h => .count h)

theorem domTakeLead (h : d.Canon) : d.domTakeLead.Canon := by
  unfold Dev.domTakeLead
  exact .domSend (.domLeader h)

theorem domSay (h : d.Canon) {l : List DirMsg} : (d.domSay l).Canon := by
  unfold Dev.domSay
  exact .beside h

theorem domAlone (h : d.Canon) : d.domAlone.Canon := by
  unfold Dev.domAlone
  exact .when (.set (.raise (.count (.beside h)))) fun h => .domPut h

theorem domDirAck (h : d.Canon) {leader num ver : Nat} : (d.domDirAck leader num ver).Canon := by
  unfold Dev.domDirAck
  exact .ite (.ite (.domAlone h) (.beside h)) h

theorem domDirDone (h : d.Canon) : d.domDirDone.Canon := by
  unfold Dev.domDirDone
  exact .when h fun h => .domSend h

theorem domSegnum (h : d.Canon) {num : Nat} : (d.domSegnum num).Canon := by
  unfold Dev.domSegnum
  exact .ite (.domPut (.set (.set h))) (.ite (.set h) h)

theorem domDirClose (h : d.Canon) : d.domDirClose.Canon := by
  unfold Dev.domDirClose
  exact .ite h (.domDirDone (.eachOf (.domSay (.beside h)) fun h => .domDirAck h))

theorem domRegSeg (h : d.Canon) {r : SegReg} : (d.domRegSeg r).Canon := by
  unfold Dev.domRegSeg
  exact .ite h (.ite (.beside h) (.ite h (.when (.beside h) fun h => .domDirClose h)))

theorem domReport (h : d.Canon) : d.domReport.Canon := by
  unfold Dev.domReport
  exact .domRegSeg (.domSay h)

theorem domLeave (h : d.Canon) {st : Nat} : (d.domLeave st).Canon := by
  unfold Dev.domLeave
  exact .domPut (.domRoles (.set (.set (.eachOf (.beside (.domDropClaims h)) fun h => .set h))))

theorem domRefused (h : d.Canon) : d.domRefused.Canon := by
  unfold Dev.domRefused
  exact .raise (.count (.domLeave h))

theorem domClose (h : d.Canon) : d.domClose.Canon := by
  unfold Dev.domClose
  extract_lets _ _ _ _ _ d1 _ d2
  have h1 : d1.Canon := .set (.set (.beside h))
  have h2 : d2.Canon := .domGateway (.ite (.domTakeLead h1) (.domLeader h1))
  apply Canon.ite h
  exact .ite (.ite (.raise (.domLeave h)) h) (.ite (.domRefused h) (.ite (.domPut h2) (.domPut (.set h2))))

theorem domRegister (h : d.Canon) {arg uid : Nat} : (d.domRegister arg uid).Canon := by
  unfold Dev.domRegister
  extract_lets _ _ _ d1 _ d2
  have h1 : d1.Canon := .beside h
  have h2 : d2.Canon := .when (.domMembers h1) fun h => .set (.beside h)
  exact .ite h (.ite (.when (.domGateway (.raise (.count h2))) fun h => .domReport h) (.ite (.domClose h2) (.domClaim0 h2)))

theorem domTrunk (h : d.Canon) {trunk : Bool} {uid : Nat} : (d.domTrunk trunk uid).Canon := by
  unfold Dev.domTrunk
  exact .when (.beside h) fun h => .domGateway h

theorem domTrunkChanged (h : d.Canon) {before : Bool} : (d.domTrunkChanged before).Canon := by
  unfold Dev.domTrunkChanged
  exact .when h fun h => .domSend h

theorem domSent (h : d.Canon) {f : CanFrame} : (d.domSent f).Canon := by
  unfold Dev.domSent
  extract_lets
  apply Canon.ite h
  apply Canon.ite (.domClaim0 h)
  apply Canon.ite (.domSend h)
  apply Canon.ite (.domSend (.when h fun h => .drawn h))
  exact .ite (.domTrunkChanged (.domRegister h)) (.ite (.domTrunk h) (.ite (.domSegnum h) h))

theorem domHeardRef (h : d.Canon) : d.domHeardRef.Canon := by
  unfold Dev.domHeardRef
  exact .domContend h

theorem domPair (h : d.Canon) {th : Int} : (d.domPair th).Canon := by
  unfold Dev.domPair
  extract_lets _ d1 _ _ d2
  have h1 : d1.Canon := .when (.when h fun h => .dtmMeasure h) fun h => .domSend h
  have h2 : d2.Canon := .beside h1
  exact .ite (.ite h2 (.when (.when (.beside h2) fun h => .drawn h) fun h => .domTakeLead h)) h1

theorem domReady (h : d.Canon) : d.domReady.Canon := by
  unfold Dev.domReady
  exact .ite (.domPut (.set (.set h))) h

theorem domEnable (h : d.Canon) {en : Bool} : (d.domEnable en).Canon := by
  unfold Dev.domEnable
  exact .ite (.domReady (.setB h)) (.ite (.setB h) (.domLeave (.setB h)))


/-! ## Sys2Proof/Machine/Can.lean -/

theorem canRunSet (h : d.Canon) {n : Nat} : (d.canRunSet n).Canon := by
  unfold Dev.canRunSet
  exact .ite h (.ite (.set h) (.clkEval (.set (.set (.set h)))))

theorem canRunClear (h : d.Canon) {n : Nat} : (d.canRunClear n).Canon := by
  unfold Dev.canRunClear
  exact .ite h (.ite (.canUpd (.canFailAll (.set h))) (.canStopped (.canUpd (.canFailAll (.set h)))))

theorem canRecover (h : d.Canon) {n : Nat} : (d.canRecover n).Canon := by
  unfold Dev.canRecover
  exact .when h fun h => .set h

theorem refPeriodBegin (h : d.Canon) {n : Nat} : (d.refPeriodBegin n).Canon := by
  unfold Dev.refPeriodBegin
  exact .canUpd h

theorem refSent (h : d.Canon) {n stamp : Nat} : (d.refSent n stamp).Canon := by
  unfold Dev.refSent
  exact .raise (.count (.set (.canUpd h)))

theorem canTxGood (h : d.Canon) {n : Nat} : (d.canTxGood n).Canon := by
  unfold Dev.canTxGood
  exact .canCount h

theorem canLoop (h : d.Canon) {n : Nat} {f : CanFrame} {loop : Nat} : (d.canLoop n f loop).Canon := by
  unfold Dev.canLoop
  exact .when h fun h => .set h

theorem canLost (h : d.Canon) {n x : Nat} : (d.canLost n x).Canon := by
  unfold Dev.canLost
  exact .ite (by split; exacts [h, (.when h fun h => .canUpd h)]) (.ite (.canFail h) (.ite (.canFail h) h))

theorem canFifoShow (h : d.Canon) {n : Nat} : (d.canFifoShow n).Canon := by
  unfold Dev.canFifoShow
  exact .set (.set h)

theorem refSeen (h : d.Canon) {n : Nat} {f : CanFrame} : (d.refSeen n f).Canon := by
  unfold Dev.refSeen
  exact .when (.when h fun h => .beside h) fun h => .when (.when h fun h => .refPeriodBegin h) fun h => .domHeardRef h

theorem refHeard (h : d.Canon) {n stamp : Nat} : (d.refHeard n stamp).Canon := by
  unfold Dev.refHeard
  exact .ite (.raise (.count h)) (.ite (.canUpd (.when h fun h => .count h)) h)

theorem followHeard (h : d.Canon) {n master : Nat} : (d.followHeard n master).Canon := by
  unfold Dev.followHeard
  extract_lets d1
  have h1 : d1.Canon := .canUpd h
  apply Canon.ite h
  split
  · exact .count h
  · exact .ite (.count (.count h1)) (.when (.raise (.count (.set (.setI h1)))) fun h => .domPair h)

theorem canRxGood (h : d.Canon) {n : Nat} : (d.canRxGood n).Canon := by
  unfold Dev.canRxGood
  exact .ite (.canCount (.drawn h)) (.canCount h)

theorem canException (h : d.Canon) {n : Nat} : (d.canException n).Canon := by
  unfold Dev.canException
  exact .ite (.raiseLim (.set (.count (.when (.canStopped (.canUpd h)) fun h => .set h)))) h

theorem canPop (h : d.Canon) {n : Nat} : (d.canPop n).Canon := by
  unfold Dev.canPop
  exact .ite h (.canFifoShow (.canUpd h))


/-! ## Sys2Proof/Machine/Eth.lean -/

theorem asSelect (h : d.Canon) : d.asSelect.Canon := by
  unfold Dev.asSelect
  exact .when (.when (.when (.setB (.set (.set (.set h)))) fun h => .raise h) fun h => .raise h) fun h => .domRoles h

theorem asForget (h : d.Canon) {p : Nat} : (d.asForget p).Canon := by
  unfold Dev.asForget
  exact .set (.beside h)

theorem ethLink (h : d.Canon) {p : Nat} {up : Bool} {sqi : Nat} : (d.ethLink p up sqi).Canon := by
  unfold Dev.ethLink
  exact .asSelect (.domTrunkChanged (.when (.set (.setB h)) fun h => .raise (.count (.asForget h))))

theorem syncSend (h : d.Canon) {p t : Nat} : (d.syncSend p t).Canon := by
  unfold Dev.syncSend
  exact .beside h

theorem macLearn (h : d.Canon) {a p : Nat} : (d.macLearn a p).Canon := by
  unfold Dev.macLearn
  exact .ite h (.beside h)

theorem ethQueue (h : d.Canon) {q : Nat} {hi : Bool} {l : List (BitVec 8)} : (d.ethQueue q hi l).Canon := by
  unfold Dev.ethQueue
  exact .ite h (.ite (.count h) (.ite (.beside h) (.beside h)))

theorem ethLeave (h : d.Canon) {q : Nat} : (d.ethLeave q).Canon := by
  unfold Dev.ethLeave
  exact .ite h (.ite (.beside h) (.beside h))

theorem hostQueue (h : d.Canon) {p stamp : Nat} {l : List (BitVec 8)} : (d.hostQueue p stamp l).Canon := by
  unfold Dev.hostQueue
  exact .ite h (.ite (.count h) (.ite (.beside h) (.beside h)))

theorem idle (h : d.Canon) : d.idle.Canon := by
  unfold Dev.idle
  exact .ethLeave (.ethLeave (.tick h))

theorem switched (h : d.Canon) {p : Nat} {l : List (BitVec 8)} {ok : Bool} {age : Nat} : (d.switched p l ok age).Canon := by
  unfold Dev.switched
  extract_lets d1
  have h1 : d1.Canon := .macLearn h
  exact .ite h (.ite (.count h) (.ite (.count h) (.ite h (.when (.eachOf h1 fun h => .ethQueue h) fun h => .hostQueue h))))


/-! ## Sys2Proof/Machine/Spim.lean -/

theorem m0Upd (h : d.Canon) {f : M0 → M0} : (d.m0Upd f).Canon := by
  unfold Dev.m0Upd
  exact .beside h

theorem m0Go (h : d.Canon) : d.m0Go.Canon := by
  unfold Dev.m0Go
  exact .ite h (.ite (.count (.set h)) (.ite (.count (.set h)) (.clkEval (.m0Upd (.set (.set h))))))

theorem m1Show (h : d.Canon) : d.m1Show.Canon := by
  unfold Dev.m1Show
  exact .set (.set (.setB (.setB (.set h))))

theorem m1Start (h : d.Canon) : d.m1Start.Canon := by
  unfold Dev.m1Start
  exact by split; exacts [h, .ite (.count (.beside h)) h]

theorem m1Tx (h : d.Canon) {v : BitVec 64} : (d.m1Tx v).Canon := by
  unfold Dev.m1Tx
  exact .ite (.count h) (.clkEval (.m1Show (.ite (.m1Start (.beside h)) (.beside h))))

theorem m1Received (h : d.Canon) {w : BitVec 32} : (d.m1Received w).Canon := by
  unfold Dev.m1Received
  exact .ite (.count h) (.raise (.beside h))

theorem m1Pop (h : d.Canon) : d.m1Pop.Canon := by
  unfold Dev.m1Pop
  exact .m1Show (.beside h)


/-! ## Sys2Proof/Machine/Boot.lean -/

theorem setCause (h : d.Canon) {slot c : Nat} : (d.setCause slot c).Canon := by
  unfold Dev.setCause
  exact .set h

theorem laResume (h : d.Canon) : d.laResume.Canon := by
  unfold Dev.laResume
  exact .each h fun h => .when h fun h => .laPump h

theorem jnlBoot (h : d.Canon) {torn : Bool} : (d.jnlBoot torn).Canon := by
  unfold Dev.jnlBoot
  exact .journal (.when (.set h) fun h => .raise (.count h))

theorem bootRelease (h : d.Canon) : d.bootRelease.Canon := by
  unfold Dev.bootRelease
  exact .each (.beside h) fun h => .pllReq h

theorem recoveryMode (h : d.Canon) : d.recoveryMode.Canon := by
  unfold Dev.recoveryMode
  exact .clkEval (.beside (.when (.set (.beside h)) fun h => .raise h))

theorem slotRefused (h : d.Canon) {c : Nat} : (d.slotRefused c).Canon := by
  unfold Dev.slotRefused
  exact .when (.beside (.setCause h)) fun h => .recoveryMode h

theorem segsDefault (h : d.Canon) : d.segsDefault.Canon := by
  unfold Dev.segsDefault
  exact .keep h

theorem stageStart (h : d.Canon) : d.stageStart.Canon := by
  unfold Dev.stageStart
  extract_lets _ _ d1 _ d2
  have h1 : d1.Canon := .carStart (.each (.when h fun h => .refSelect (.set h)) fun h => .when h fun h => .carStart h)
  have h2 : d2.Canon := .each (.each h1 fun h => .when (.set h) fun h => .adcRun h) fun h => .when h fun h => .slRunPut (.set
    h)
  exact .eachOf (.each h2 fun h => .when h fun h => .canRunSet (.set h)) fun h => .when h fun h => .sflEnable h

theorem activate (h : d.Canon) {mismatch : Bool} : (d.activate mismatch).Canon := by
  unfold Dev.activate
  extract_lets _ _ d1 _ _ d2
  have h1 : d1.Canon := .setReg (.set (.set (.set h)))
  have h2 : d2.Canon := .beside (.set (.setB h1))
  exact .thmEvalAll (.foHoldAll (.hemHold (.stageStart (.showUnlock (.tableLoadAll (.eachOf (.segsDefault h2) fun h =>
    .stagePut h))))))

theorem verify (h : d.Canon) : d.verify.Canon := by
  unfold Dev.verify
  exact .ite h (.set h)


/-! ## Sys2Proof/Machine/Crc.lean -/

theorem crcPut (h : d.Canon) {u x : Nat} : (d.crcPut u x).Canon := by
  unfold Dev.crcPut
  exact .set (.set h)

theorem crcFeed (h : d.Canon) {u : Nat} {l : List (BitVec 8)} : (d.crcFeed u l).Canon := by
  unfold Dev.crcFeed
  exact .crcPut h

theorem crcInit (h : d.Canon) {u : Nat} : (d.crcInit u).Canon := by
  unfold Dev.crcInit
  exact .ite h (.crcPut h)

theorem crcGo (h : d.Canon) {u : Nat} : (d.crcGo u).Canon := by
  unfold Dev.crcGo
  exact .ite h (.ite (.raise (.set h)) (.set (.set h)))

theorem crcData (h : d.Canon) {u : Nat} {half : Bool} {v : Nat} : (d.crcData u half v).Canon := by
  unfold Dev.crcData
  exact .ite (.count h) (.crcFeed h)


/-! ## Sys2Proof/Machine/Flow.lean -/

theorem flowValid (h : d.Canon) {td tu dt : Int} : (d.flowValid td tu dt).Canon := by
  unfold Dev.flowValid
  exact .when (.raiseIf (.count (.set (.setI (.set (.set (.setI (.beside h)))))))) fun h => .raise (.set h)


/-! ## Sys2Proof/Machine/Lua.lean -/

theorem luShow (h : d.Canon) {n : Nat} : (d.luShow n).Canon := by
  unfold Dev.luShow
  exact .setB (.setB (.set (.set (.set h))))

theorem luError (h : d.Canon) {n : Nat} : (d.luError n).Canon := by
  unfold Dev.luError
  exact .raiseLim h

theorem luTx (h : d.Canon) {n : Nat} {b : BitVec 8} : (d.luTx n b).Canon := by
  unfold Dev.luTx
  exact .ite (.luError (.count h)) (.luShow (.luUpd h))

theorem luPop (h : d.Canon) {n : Nat} : (d.luPop n).Canon := by
  unfold Dev.luPop
  exact .luShow (.luUpd h)

theorem linEnd (h : d.Canon) {n r : Nat} : (d.linEnd n r).Canon := by
  unfold Dev.linEnd
  exact .when (.set (.set (.luUpd h))) fun h => .luError (.count h)

theorem linGo (h : d.Canon) {n : Nat} : (d.linGo n).Canon := by
  unfold Dev.linGo
  exact .ite h (.ite (.set h) (.set (.set (.luUpd h))))

theorem linDone (h : d.Canon) {n : Nat} {f : LinFrame} {data : List (BitVec 8)} {sum : Nat} :
    (d.linDone n f data sum).Canon := by
  unfold Dev.linDone
  refine .ite (.linEnd ?_) (.ite (.linEnd h) (.linEnd ?_))
  · split; exacts [.set h, h]
  · split; exacts [.set (.setReg h), .setReg h]


/-! ## Sys2Proof/Machine/Nfc.lean -/

theorem tagAnswer (h : d.Canon) {l : List (BitVec 8)} : (d.tagAnswer l).Canon := by
  unfold Dev.tagAnswer
  exact .when (.beside h) fun h => .count h

theorem tagError (h : d.Canon) {code : BitVec 8} : (d.tagError code).Canon := by
  unfold Dev.tagError
  exact .when (.tagAnswer h) fun h => .raiseLim (.count h)

theorem tagDirty (h : d.Canon) {p : Nat} {on : Bool} : (d.tagDirty p on).Canon := by
  unfold Dev.tagDirty
  exact .tagShow (.beside h)

theorem tagProto (h : d.Canon) {p : Nat} : (d.tagProto p).Canon := by
  unfold Dev.tagProto
  exact .beside h

theorem nfcFree (h : d.Canon) : d.nfcFree.Canon := by
  unfold Dev.nfcFree
  exact .clkEval (.set (.beside h))


/-! ## Sys2Proof/Machine/Bus.lean -/

theorem storeField {w : RegW} {idle : Bool} {x : Store} {f : FDef} (h : x.d.Canon) : (Store.field w idle x f).d.Canon := by
  unfold Store.field
  extract_lets
  split
  · exact h
  · cases f.acc
    case ro | wo => exact h
    case rw => exact .set h
    case w1c => exact .clrBits h
    case w1s => exact .setBits h
    case rws => dsimp only; split <;> [exact h; (split; exacts [.set h, h])]
    case rwi => dsimp only; split <;> [exact h; (split <;> [exact .count h; (split; exacts [.set h, h])])]

theorem regStore (h : d.Canon) {w : RegW} {fs : List FDef} : (d.regStore w fs).Canon := by
  unfold Dev.regStore
  extract_lets _ x d1
  have hx : x.d.Canon := List.foldlRecOn (motive := fun x : Store => x.d.Canon) _ _ h fun _ h _ _ => .storeField h
  have h1 : d1.Canon := .when (.when hx fun h => .rwsStored h) fun h => .rwsRefuse h
  split; exacts [.when h1 fun h => .count h, h1]

theorem actSys (h : d.Canon) {w : RegW} {old : BitVec 64} : (d.actSys w old).Canon := by
  unfold Dev.actSys
  apply Canon.ite (.when h fun h => .sleepReq h)
  exact .ite (.each h fun h => .ite (.pllEval h) h) (.ite (.when h fun h => .verify h) h)

theorem actIo (h : d.Canon) {w : RegW} : (d.actIo w).Canon := by
  unfold Dev.actIo
  extract_lets
  apply Canon.ite (.when h fun h => .foWrite h)
  apply Canon.ite (.foClearMask h)
  apply Canon.ite (.when h fun h => .ite (.adcRun h) (.adcStop h))
  apply Canon.ite (.when h fun h => .urgWrite h)
  apply Canon.ite (.when h fun h => .refSelect h)
  exact .ite (.when (.calStart h) fun h => .trimWrite h) (.ite (.posRewrite h) (.ite (.posClear h) (.ite (.excDrop h) h)))

theorem actEvent (h : d.Canon) {w : RegW} : (d.actEvent w).Canon := by
  unfold Dev.actEvent
  apply Canon.ite (.evrClearMask h)
  exact .ite (.when h fun h => .evrClear h) (.ite (.dtmRate h) (.ite (.when h fun h => .fwEntry h) h))

theorem actDrive (h : d.Canon) {w : RegW} {old : BitVec 64} : (d.actDrive w old).Canon := by
  unfold Dev.actDrive
  extract_lets _ d1
  have h1 : d1.Canon := .carFollow h
  apply Canon.ite (.when (.showAsc (.when h fun h => .carFollow (.sixSet h))) fun h => .ite (.cluEnable h) (.cluDisable h))
  apply Canon.ite (.ite (.carStart h1) (.ite (.carStop h1) h1))
  apply Canon.ite (.when h fun h => .carDead h)
  exact .ite (.when h fun h => .fltClear h) (.ite (.showAsc h) (.ite (.when h fun h => .tableLoad h) h))

theorem actAxis (h : d.Canon) {w : RegW} : (d.actAxis w).Canon := by
  unfold Dev.actAxis
  extract_lets
  apply Canon.ite
  · exact .when (.when (.when h fun h => .ite (.axEnable h) (.axDisable h)) fun h => .axStopWrite h) fun h => .homeStart h
  · apply Canon.ite (.axPosWrite h)
    exact .ite (.axTgtWrite h) (.ite (.axVtgtWrite h) (.ite (.when h fun h => .coilClamp h) (.ite (.axFltClear h) h)))

theorem actCore (h : d.Canon) {w : RegW} : (d.actCore w).Canon := by
  unfold Dev.actCore
  extract_lets d1
  have h1 : d1.Canon := .when h fun h => .splitWrite h
  apply Canon.ite (.when (.when (.when h1 fun h => by split; exacts [.rejoin h, h]) fun h => .ownerReq h) fun h => .safeAck h)
  apply Canon.ite (.when h fun h => .dogWrite h)
  apply Canon.ite (.when h fun h => .slRun h)
  apply Canon.ite (.when h fun h => .tune h)
  exact .ite (.when (.when (.when h fun h => .splStop h) fun h => .splArm h) fun h => .splForce h) h

theorem actNet (h : d.Canon) {w : RegW} {old : BitVec 64} : (d.actNet w old).Canon := by
  unfold Dev.actNet
  extract_lets _ d1
  have h1 : d1.Canon := .each h fun h => .when h fun h => .ethLink h
  apply Canon.ite (.when (.when h fun h => .canRecover h) fun h => .ite (.canRunSet h) (.canRunClear h))
  apply Canon.ite (.when h fun h => .canPop h)
  apply Canon.ite (.asSelect (.ite h1 (.beside h1)))
  apply Canon.ite (.asSelect h)
  apply Canon.ite (.when h fun h => .sflPop h)
  apply Canon.ite
  · exact .when h fun h => .when (.sflEnable h) fun h => .thmEvalAll h
  · apply Canon.ite (.when h fun h => .crcPut h)
    exact .ite (.when (.when (.when h fun h => .crcInit h) fun h => .crcGo h) fun h => .set h) (.ite (.ite (.crcData h)
      (.crcData h)) h)

theorem actLink (h : d.Canon) {w : RegW} : (d.actLink w).Canon := by
  unfold Dev.actLink
  apply Canon.ite (.when h fun h => .m0Go h)
  apply Canon.ite (.m1Tx h)
  apply Canon.ite (.when h fun h => .m1Pop h)
  apply Canon.ite (.ite (.luPop h) (.when h fun h => .luTx h))
  exact .ite (.when h fun h => .linGo h) (.ite (.clkEval h) (.ite (.clkEval (.ite h (.set h))) h))

theorem regAct (h : d.Canon) {w : RegW} {old : BitVec 64} : (d.regAct w old).Canon := by
  unfold Dev.regAct
  extract_lets
  apply Canon.ite (.actSys h)
  apply Canon.ite (.actEvent h)
  exact .ite (.actIo h) (.ite (.actDrive h) (.ite (.actAxis h) (.ite (.actCore h) (.ite (.actNet h) (.actLink h)))))

theorem dbgUpd (h : d.Canon) {f : Dbg → Dbg} : (d.dbgUpd f).Canon := by
  unfold Dev.dbgUpd
  exact .beside h


/-! ## Sys2Proof/Machine/CrcMem.lean -/

theorem crcEnd (h : d.Canon) {u : Nat} : (d.crcEnd u).Canon := by
  unfold Dev.crcEnd
  exact .ite (.ite (.raise (.set h)) (.set h)) h


/-! ## Sys2Proof/Machine/SpiHost.lean -/

theorem spihUpd (h : d.Canon) {f : Spih → Spih} : (d.spihUpd f).Canon := by
  unfold Dev.spihUpd
  exact .beside h

theorem spiDone (h : d.Canon) {q : SpiReq} {result : Nat} {data : List (BitVec 8)} : (d.spiDone q result data).Canon := by
  unfold Dev.spiDone
  exact .raise (.count (.clkEval (.m0Upd (.spihUpd h))))

theorem flashRefuse (h : d.Canon) {q : SpiReq} {n : Nat} : (d.flashRefuse q n).Canon := by
  unfold Dev.flashRefuse
  exact .spiDone (.when h fun h => .count h)

theorem keyPut (h : d.Canon) {n : Nat} {k : KeySlot} : (d.keyPut n k).Canon := by
  unfold Dev.keyPut
  exact .beside h

end Dev.Canon
end Sys2Proof.Machine
end

section
/-!
What every command keeps: `Follows s t` says that the queue of `t` is that of `s` and that each memory and the register table
are in canonical form if those of `s` were. It is built up operation by operation, as `Dev.Canon` is.
-/
namespace Sys2Proof.Machine

namespace Dev.Canon

variable {d : Dev}

/-! ### Operations that answer a device and a result -/

theorem reqDemand (h : d.Canon) {ss1 : Bool} {a : List (BitVec 64)} : (Dev.reqDemand ss1 d a).1.Canon :=
  .eachOf h fun h => .thmEval (.eachOf h fun h => .tgrpUpd h)

theorem reqRelease (h : d.Canon) {a : List (BitVec 64)} : (d.reqRelease a).1.Canon := .eachOf h fun h => .release h

theorem reqBrakeRelease (h : d.Canon) {a : List (BitVec 64)} : (d.reqBrakeRelease a).1.Canon := by
  unfold Dev.reqBrakeRelease
  split; exacts [.raise (.brakeShow (.set (.beside h))), h]

theorem reqBrakeApply (h : d.Canon) {a : List (BitVec 64)} : (d.reqBrakeApply a).1.Canon := .brakeApply h

theorem reqDisStart (h : d.Canon) {a : List (BitVec 64)} : (d.reqDisStart a).1.Canon := by
  unfold Dev.reqDisStart
  split; exacts [h, .disCommand h]

theorem reqDisStop (h : d.Canon) {a : List (BitVec 64)} : (d.reqDisStop a).1.Canon := by
  unfold Dev.reqDisStop
  split; exacts [.disEnd h, h]

theorem reqWind (h : d.Canon) {a : List (BitVec 64)} : (d.reqWind a).1.Canon := by
  unfold Dev.reqWind
  extract_lets
  split; exacts [.eachOf (.beside h) fun h => .thmEval h, h]

theorem reqClear (h : d.Canon) {a : List (BitVec 64)} : (d.reqClear a).1.Canon := by
  unfold Dev.reqClear
  exact .thmEvalAll (.brakeShow (.beside (.each (.set (.when h fun h => .clearBrakeLatches h)) fun h => .tgrpUpd h)))

theorem pwdCheck (h : d.Canon) {a : List (BitVec 64)} {n : Nat} {lens setsIt : Bool} :
    (d.pwdCheck a n lens setsIt).1.Canon := by
  unfold Dev.pwdCheck
  split
  · exact h
  · split
    · exact h
    · split
      · exact h
      · split; exacts [.set h, .pwdWrong h]

theorem of_pwdCheck {e : Dev} {a : List (BitVec 64)} {n : Nat} {lens setsIt : Bool} {r : Option Nat}
    (he : d.pwdCheck a n lens setsIt = (e, r)) (h : d.Canon) : e.Canon := by
  have hp : (d.pwdCheck a n lens setsIt).1.Canon := .pwdCheck h
  rwa [he] at hp

end Dev.Canon

/-! ## Memories -/

theorem wf_tagWrite (l : List (BitVec 8)) {m : List Host.Cell} {a : Nat} (h : Tab.wf tagDefault m = true) :
    Tab.wf tagDefault (tagWrite m a l) = true := by
  induction l generalizing m a with
  | nil => exact h
  | cons b l ih => exact ih (Tab.wf_put _ _ _ h)

theorem wf_flashW8 {m : List Host.Cell} (a : Nat) (v : BitVec 8) (h : Tab.wf flashDefault m = true) :
    Tab.wf flashDefault (flashW8 m a v) = true := Tab.wf_put _ _ _ h

theorem wf_undoReplay {m : List Host.Cell} (l : List (Nat × BitVec 64)) (h : Tab.wf memDefault m = true) :
    Tab.wf memDefault (undoReplay m l) = true :=
  List.foldlRecOn (motive := fun m => Tab.wf memDefault m = true) l _ h fun _ h _ _ => wf_wrLE _ _ _ h

theorem wf_m0Flash {s : State} (buf : Nat) (chg : List (BitVec 32 × BitVec 8)) (h : Tab.wf flashDefault s.flash = true) :
    Tab.wf flashDefault (s.m0Flash buf chg) = true :=
  List.foldlRecOn (motive := fun m => Tab.wf flashDefault m = true) chg _ h fun _ h _ _ => wf_flashW8 _ _ h

theorem wf_ite {m n : List Host.Cell} {dflt : Nat → BitVec 8} {p : Prop} [Decidable p] (hm : Tab.wf dflt m = true)
    (hn : Tab.wf dflt n = true) : Tab.wf dflt (if p then m else n) = true := by
  split; exacts [hm, hn]

theorem wf_mixBytes {lsb : Bool} (l : List (BitVec 8)) {m : List Host.Cell} {a bits : Nat} (h : Tab.wf memDefault m = true) :
    Tab.wf memDefault (mixBytes m lsb a bits l) = true := by
  induction l generalizing m a bits with
  | nil => exact h
  | cons b l ih =>
    rw [mixBytes]
    split; exacts [h, ih (wf_wr8 _ _ h)]

/-! ## States -/

/-- `t` has the queue of `s`, and in canonical form whatever `s` has in canonical form. -/
structure Follows (s t : State) : Prop where
  queue : t.pending = s.pending
  regs : s.dev.Canon → t.dev.Canon
  memWf : Tab.wf memDefault s.mem = true → Tab.wf memDefault t.mem = true
  flashWf : Tab.wf flashDefault s.flash = true → Tab.wf flashDefault t.flash = true
  tagWf : Tab.wf tagDefault s.tag = true → Tab.wf tagDefault t.tag = true

theorem State.inv_iff {s : State} : s.inv ↔ Tab.wf memDefault s.mem = true ∧ Tab.wf flashDefault s.flash = true ∧
    Tab.wf tagDefault s.tag = true ∧ s.dev.Canon := by
  simp only [State.inv, Memory.wf, Registers.wf, Dev.Canon, Bool.and_eq_true, and_assoc]

/-- What follows a state in canonical form is in canonical form. -/
theorem Follows.inv {s t : State} (k : Follows s t) (h : s.inv) : t.inv := by
  rw [State.inv_iff] at h ⊢
  obtain ⟨hm, hf, ht, hr⟩ := h
  exact ⟨k.memWf hm, k.flashWf hf, k.tagWf ht, k.regs hr⟩

namespace Follows

variable {s t u : State}

theorem refl : Follows s s := ⟨rfl, id, id, id, id⟩

/-- The device becomes `e`. -/
theorem dev (k : Follows s t) {e : Dev} (he : t.dev.Canon → e.Canon) : Follows s { t with dev := e } :=
  ⟨k.queue, he ∘ k.regs, k.memWf, k.flashWf, k.tagWf⟩

/-- The device becomes `e`, the memory `m`. -/
theorem devMem (k : Follows s t) {e : Dev} {m : List Host.Cell}
    (hm : Tab.wf memDefault t.mem = true → Tab.wf memDefault m = true)
    (he : t.dev.Canon → e.Canon) : Follows s { t with dev := e, mem := m } :=
  ⟨k.queue, he ∘ k.regs, hm ∘ k.memWf, k.flashWf, k.tagWf⟩

theorem mem (k : Follows s t) {m : List Host.Cell} (hm : Tab.wf memDefault t.mem = true → Tab.wf memDefault m = true) :
    Follows s { t with mem := m } := k.devMem hm id

/-- The device becomes `e`, the tag's memory `m`. -/
theorem devTag (k : Follows s t) {e : Dev} {m : List Host.Cell}
    (hm : Tab.wf tagDefault t.tag = true → Tab.wf tagDefault m = true)
    (he : t.dev.Canon → e.Canon) : Follows s { t with dev := e, tag := m } :=
  ⟨k.queue, he ∘ k.regs, k.memWf, k.flashWf, hm ∘ k.tagWf⟩

/-- The device becomes `e`, the image flash `m`. -/
theorem devFlash (k : Follows s t) {e : Dev} {m : List Host.Cell}
    (hm : Tab.wf flashDefault t.flash = true → Tab.wf flashDefault m = true) (he : t.dev.Canon → e.Canon) :
    Follows s { t with dev := e, flash := m } :=
  ⟨k.queue, he ∘ k.regs, k.memWf, hm ∘ k.flashWf, k.tagWf⟩

theorem ite {c : Prop} [Decidable c] (k : Follows s t) (k' : Follows s u) : Follows s (if c then t else u) := by
  split <;> assumption

/-! ### Log, resets and Spool -/

theorem logEntry (k : Follows s t) {kind origin count digest reason : Nat} :
    Follows s (t.logEntry kind origin count digest reason) := by
  unfold State.logEntry
  exact .ite k (.devMem k (wf_wrBytes _ _) fun h => .showLog (.beside h))

theorem endSafety (k : Follows s t) {origin reason : Nat} : Follows s (t.endSafety origin reason) := by
  unfold State.endSafety
  exact .ite (.dev (.logEntry (.dev k fun h => .set h)) fun h => .raise (.beside h)) k

theorem endDev (k : Follows s t) {origin reason : Nat} : Follows s (t.endDev origin reason) := by
  unfold State.endDev
  exact .ite (.dev (.logEntry (.dev k fun h => .showUnlock (.resumeAll (.set h)))) fun h => .raise h) k

theorem volatileLost (k : Follows s t) : Follows s t.volatileLost := .mem k (Tab.wf_keep _ _)

theorem appResetTo (k : Follows s t) {cause : Fld} {held : Bool} : Follows s (t.appResetTo cause held) := by
  unfold State.appResetTo
  exact .ite k (.dev (.endDev (.endSafety k)) fun h => .set (.appReset h))

theorem appReset (k : Follows s t) {cause : Fld} : Follows s (t.appReset cause) := .appResetTo k

theorem rstctl (k : Follows s t) {o : Origin} {key : Nat} {rst : Bool} : Follows s (t.rstctl o key rst) := by
  unfold State.rstctl
  exact .ite (.dev k fun h => .count h) (.ite (.appReset k) k)

theorem keepReset (k : Follows s t) : Follows s t.keepReset := by
  unfold State.keepReset
  exact .ite k (.dev (.appResetTo k) fun h => .beside h)

theorem splWrite (k : Follows s t) {c : Nat} {rec : List (BitVec 64)} : Follows s (t.splWrite c rec) := by
  unfold State.splWrite
  extract_lets _ _ _ _ d1 d2
  refine .ite k (.devMem k (wf_wrBytes _ _) fun h => ?_)
  have h2 : d2.Canon := .count (.when (.set h) fun h => .set h)
  exact .ite (.set h2) (.ite (.splStopDone (.setSch h2)) h2)

theorem splServe (k : Follows s t) : Follows s t.splServe := by
  unfold State.splServe
  extract_lets
  split
  · exact k
  · split
    · exact k
    · exact .splWrite (.dev k fun h => .splLevel (.setSch (.beside h)))

theorem splStore (k : Follows s t) {a n v : Nat} : Follows s (t.splStore a n v) := by
  unfold State.splStore
  exact .ite (.dev k fun h => .count h) (.mem k (wf_wrLE _ _ _))

theorem pairStore (k : Follows s t) {p a n v : Nat} : Follows s (t.pairStore p a n v) := by
  unfold State.pairStore
  exact .ite k (.devMem k (wf_wrLE _ _ _) fun h => .ite h (.pairUpd h))

/-! ### Thimble's requests -/

theorem onDev (k : Follows s t) {f : Dev → List (BitVec 64) → Dev × Nat} {a : List (BitVec 64)}
    (hf : ∀ {d}, d.Canon → (f d a).1.Canon) : Follows s (onDev f t a).1 := .dev k hf

theorem reqUnlock (k : Follows s t) {dev : Bool} {o : Origin} {len1 : Nat} {a : List (BitVec 64)} :
    Follows s (State.reqUnlock dev o len1 t a).1 := by
  unfold State.reqUnlock
  extract_lets
  split <;> rename_i he <;> have hd := Dev.Canon.of_pwdCheck he
  · exact .dev k hd
  · split
    · exact .dev k hd
    · split
      · exact .dev k hd
      · split
        · exact .dev k hd
        · exact .dev (.logEntry (.dev k hd)) fun h => .raise (.ite (.showUnlock (.set h)) (.beside (.set h)))

theorem reqClose (k : Follows s t) {o : Origin} {a : List (BitVec 64)} : Follows s (State.reqClose o t a).1 := by
  unfold State.reqClose
  split; exacts [k, .endDev (.endSafety k)]

theorem reqInstall (k : Follows s t) {o : Origin} {a : List (BitVec 64)} : Follows s (State.reqInstall o t a).1 := by
  unfold State.reqInstall
  extract_lets
  split
  · exact k
  · split
    · exact k
    · split
      · extract_lets
        split
        · exact k
        · split
          · exact k
          · split
            · exact k
            · exact .dev (.logEntry (.dev k fun h => .setActs (.beside h))) fun h => .raise h
      · exact k

theorem reqPassword (k : Follows s t) {o : Origin} {len1 len2 : Nat} {a : List (BitVec 64)} :
    Follows s (State.reqPassword o len1 len2 t a).1 := by
  unfold State.reqPassword
  split <;> rename_i he <;> have hd := Dev.Canon.of_pwdCheck he
  · exact .dev k hd
  · split
    · exact .dev k hd
    · exact .dev (.logEntry (.dev k fun h => .set (.beside (.drawn (.drawn (hd h)))))) fun h => .raise h

theorem reqAckLog (k : Follows s t) {o : Origin} {len1 : Nat} {a : List (BitVec 64)} :
    Follows s (State.reqAckLog o len1 t a).1 := by
  unfold State.reqAckLog
  split <;> rename_i he <;> have hd := Dev.Canon.of_pwdCheck he
  · exact .dev k hd
  · extract_lets
    split
    · exact .dev k hd
    · exact .dev (.logEntry (.devMem k (Tab.wf_keep _ _) fun h => .set (.beside (hd h)))) fun h => .raise h

theorem reqByCode (k : Follows s t) {o : Origin} {code len1 len2 : Nat} {a : List (BitVec 64)} :
    Follows s (State.reqByCode o code len1 len2 t a).1 := by
  unfold State.reqByCode
  split
  exacts [.onDev k fun h => .reqDemand h, .onDev k fun h => .reqDemand h, .onDev k fun h => .reqRelease h,
    .onDev k fun h => .reqBrakeRelease h, .onDev k fun h => .reqBrakeApply h, .onDev k fun h => .reqDisStart h,
    .onDev k fun h => .reqDisStop h, .onDev k fun h => .reqWind h, .onDev k fun h => .reqClear h, .reqUnlock k, .reqUnlock k,
    .reqClose k, .reqInstall k, .reqPassword k, .reqAckLog k, k]

theorem thmReq (k : Follows s t) {o : Origin} {code tag : Nat} {f : State → List (BitVec 64) → State × Nat}
    (hf : ∀ {t a}, Follows s t → Follows s (f t a).1) : Follows s (t.thmReq o code tag f) := by
  unfold State.thmReq
  exact .ite (.dev k fun h => .classRef h) (.ite (.dev k fun h => .thmAnswer h)
    (.ite k (.dev (hf (.dev k fun h => .each h fun h => .setReg h)) fun h => .thmAnswer h)))

theorem thmreqWrite (k : Follows s t) {o : Origin} {code tag len1 len2 : Nat} :
    Follows s (t.thmreqWrite o code tag len1 len2) := .thmReq k fun k => .reqByCode k

/-! ### Communication -/

theorem appSend (k : Follows s t) {n len : Nat} : Follows s (t.appSend n len) := by
  unfold State.appSend
  exact .ite (.dev k fun h => .sflData h) k

theorem sflSubmit (k : Follows s t) {len : Nat} : Follows s (t.sflSubmit len) := .dev k fun h => .sflJudge h

theorem canArb (k : Follows s t) {n : Nat} : Follows s (t.canArb n) := by
  unfold State.canArb
  exact .ite k (.dev (.dev k fun h => .each h fun h => .ite h (.ite (.canFail h) (.ite (.canFail h) h))) fun h => .canUpd h)

theorem canWant (k : Follows s t) {n : Nat} : Follows s (t.canWant n) := by
  unfold State.canWant
  exact .ite (.canArb k) k

theorem jnlFound (k : Follows s t) : Follows s t.jnlFound := by
  unfold State.jnlFound
  exact .ite k (.dev k fun h => .beside h)

theorem jnlWrite (k : Follows s t) : Follows s t.jnlWrite := by
  unfold State.jnlWrite
  extract_lets
  split; exacts [.dev (.jnlFound k) fun h => .jnlFlushEnd h, .devMem (.jnlFound k) (wf_wrBytes _ _) fun h => .jnlWritten h]

theorem canTxreq (k : Follows s t) {n mask : Nat} : Follows s (t.canTxreq n mask) := .canWant (.dev k fun h => .setBits h)

theorem canTxabort (k : Follows s t) {n mask : Nat} : Follows s (t.canTxabort n mask) := .canWant (.dev k fun h => .setBits h)

theorem canSent (k : Follows s t) {n x stamp loop : Nat} : Follows s (t.canSent n x stamp loop) := by
  unfold State.canSent
  extract_lets u d1
  have ku : Follows s u := .dev k fun h => .canTxGood h
  refine .ite ?_ (.devMem ku (wf_wrLE _ _ _) fun h => .raise (.setBits (.canEnd ?_)))
  · split; exacts [ku, .dev ku fun h => .when (.when (.canUpd h) fun h => .refSent h) fun h => .domSent h]
  · unfold d1
    split; exacts [.canLoop h, h]

theorem canLostAt (k : Follows s t) {n x : Nat} {loop : Option (BitVec 8)} : Follows s (t.canLostAt n x loop) := by
  unfold State.canLostAt
  refine .dev k fun h => .canLost ?_
  split; exacts [.canLoop h, h]

theorem canFifo (k : Follows s t) {n : Nat} {f : CanFrame} {stamp filter : Nat} : Follows s (t.canFifo n f stamp filter) := by
  unfold State.canFifo
  extract_lets
  split
  · exact .dev k fun h => .raiseLim (.count h)
  · exact .devMem k (wf_wrBytes _ _) fun h => .when (.raise (.canFifoShow (.canUpd h))) fun h => .raise h

theorem canSlot (k : Follows s t) {n : Nat} {f : CanFrame} {stamp filter : Nat} : Follows s (t.canSlot n f stamp filter) := by
  unfold State.canSlot
  split
  · exact .dev k fun h => .raiseLim (.count h)
  · exact .devMem k (wf_wrBytes _ _) fun h => .raise (.setBits h)

theorem canFilter (k : Follows s t) {n : Nat} {f : CanFrame} {stamp : Nat} : Follows s (t.canFilter n f stamp) := by
  unfold State.canFilter
  split
  · split; exacts [k, .canSlot k, .canFifo k]
  · exact .ite (.canFifo k) (.dev k fun h => .count h)

theorem hostReceive (k : Follows s t) {p stamp : Nat} {l : List (BitVec 8)} : Follows s (t.hostReceive p stamp l) := by
  unfold State.hostReceive
  refine .ite k (.ite (.dev k fun h => .raise (.count h)) (.devMem k (fun h => wf_wrLE _ _ _ (wf_wrLE _ _ _ ?_))
    fun h => .raise (.set h)))
  split; exacts [wf_wrBytes _ _ h, h]

theorem hostDrain (k : Follows s t) : Follows s t.hostDrain := by
  unfold State.hostDrain
  exact .ite k (List.foldlRecOn (motive := Follows s) _ _ (.dev k fun h => .beside h) fun _ k _ _ => .hostReceive k)

theorem idle (k : Follows s t) : Follows s t.idle := .hostDrain (.dev k fun h => .idle h)

theorem txKick (k : Follows s t) : Follows s t.txKick := .dev k fun h => .beside h

/-! ### The service tag -/

theorem tagRead (k : Follows s t) {b n last : Nat} : Follows s (t.tagRead b n last) := by
  unfold State.tagRead
  exact .ite (.dev k fun h => .tagError h) (.dev k fun h => .tagAnswer h)

theorem tagWriteBlock (k : Follows s t) {b : Nat} {v : BitVec 32} : Follows s (t.tagWriteBlock b v) := by
  unfold State.tagWriteBlock
  exact .ite (.dev k fun h => .tagError h) (.ite (.dev k fun h => .tagError h)
    (.devTag k (wf_tagWrite _) fun h => .drawn (.beside (.when (.tagDirty (.tagAnswer h)) fun h => .raise h))))

theorem nfcCommit (k : Follows s t) {p : Nat} : Follows s (t.nfcCommit p) := by
  unfold State.nfcCommit
  exact .ite (.dev k fun h => .set h) (.dev k fun h => .clkEval (.set (.set (.beside h))))

theorem nfcTake (k : Follows s t) {p : Nat} : Follows s (t.nfcTake p) :=
  .devMem k (wf_wrBytes _ _) fun h => .when (.raise (.set h)) fun h => .tagDirty h

theorem nfcRead (k : Follows s t) {p : Nat} : Follows s (t.nfcRead p) := by
  unfold State.nfcRead
  exact .ite (.dev k fun h => .set h) (.ite (.dev k fun h => .clkEval (.set (.set (.beside h)))) (.nfcTake k))

/-! ### Accesses -/

theorem busRead (k : Follows s t) {a n : Nat} : Follows s (t.busRead a n).1 := by
  unfold State.busRead
  split
  · exact .dev k fun h => .busErr h
  · split
    · exact k
    · exact k
    · split
      · split; exacts [.dev k fun h => .drawn (.drawn h), .dev k fun h => .count (.drawn h)]
      · exact k
    · split
      · exact k
      · split; exacts [.dev k fun h => .drawn h, k]

theorem regActMem (k : Follows s t) {w : RegW} : Follows s (t.regActMem w) := by
  unfold State.regActMem
  extract_lets u p
  have hu : Follows s u := .ite k (.canTxreq k)
  exact .ite (.rstctl k) (.ite (.thmreqWrite k) (.ite (.ite hu (.canTxabort hu))
    (.ite (.ite (.canWant (.dev k fun h => .domEnable h)) k) (.ite (.canWant k) (.ite (.ite (.txKick k) k)
      (.ite (.ite (.sflSubmit k) k) (.ite (.ite (.appSend k) k) (.ite (.ite (.nfcCommit k) (.ite (.nfcRead k) k)) k))))))))

theorem regWrite (k : Follows s t) {o : Origin} {a n v : Nat} : Follows s (t.regWrite o a n v) := by
  unfold State.regWrite
  split; exacts [k, .regActMem (.dev k fun h => .regAct (.regStore h))]

theorem winWrite (k : Follows s t) {a n v : Nat} : Follows s (t.winWrite a n v) := by
  unfold State.winWrite
  exact .ite (.ite (.dev k fun h => .count h) (.mem k (wf_wrLE _ _ _))) (.ite k (.mem k (wf_wrLE _ _ _)))

theorem busWrite (k : Follows s t) {o : Origin} {a n v : Nat} : Follows s (t.busWrite o a n v).1 := by
  unfold State.busWrite
  split
  · exact .dev k fun h => .busErr h
  · dsimp only
    split
    · split; exacts [.pairStore k, .mem k (wf_wrLE _ _ _)]
    · exact .ite k (.mem k (wf_wrLE _ _ _))
    · exact .splStore k
    · exact .winWrite k
    · exact .regWrite k
    · exact k

theorem dbgBus (k : Follows s t) {err : Bool} {v : Nat} : Follows s (t.dbgBus err v) := .dev k fun h => .dbgUpd h

theorem debugCmd (k : Follows s t) {c : DbgCmd} : Follows s (t.debugCmd c) := by
  cases c with
  | idcode | bypass | readStat => exact .dev k fun h => .dbgUpd h
  | readReg c r => exact .dev k fun h => .when h fun h => .dbgUpd h
  | writeReg c r v => exact .dev k fun h => .when h fun h => .dbgUpd (.coreRegPut h)
  | busRead a w => exact .dbgBus (.busRead k)
  | busWrite a w v => exact .dbgBus (.busWrite k)
  | halt c => exact .dev k fun h => .debugHalt h
  | resume c => exact .dev k fun h => .debugResume h
  | step c => exact k
  | trigger c n v => exact .dev k fun h => .beside h

theorem crcRead (k : Follows s t) {a n : Nat} : Follows s (t.crcRead a n).1 := by
  unfold State.crcRead
  split; exacts [k, .busRead k]

theorem crcCycles (k : Follows s t) {u n : Nat} : Follows s (State.crcCycles u n t) := by
  induction n generalizing t with
  | zero => exact k
  | succ n ih =>
    have kr : Follows s (t.crcRead (t.dev.get (CRC_ADDR u)) (min 8 (t.dev.get (CRC_LEN u)))).1 := .crcRead k
    rw [State.crcCycles]
    split
    · exact k
    · split <;> rename_i he <;> rw [he] at kr
      · exact .dev kr fun h => .raise (.count (.set (.set h)))
      · exact ih (.dev kr fun h => .set (.set (.crcFeed h)))

theorem spiRead (k : Follows s t) {a n : Nat} : Follows s (t.spiRead a n).1 := by
  induction n generalizing t a with
  | zero => exact k
  | succ n ih =>
    have kr : Follows s (t.busRead a 8).1 := .busRead k
    rw [State.spiRead]
    split <;> rename_i he <;> rw [he] at kr
    · exact kr
    · have kn := ih kr (a := a + 8)
      split <;> rename_i he <;> rw [he] at kn <;> exact kn

theorem spiWrite (k : Follows s t) {a n : Nat} {l : List (BitVec 8)} : Follows s (t.spiWrite a l n).1 := by
  induction n generalizing t a l with
  | zero => exact k
  | succ n ih =>
    have kw : Follows s (t.busWrite .host a 8 (ofBytesLE (l.take 8))).1 := .busWrite k
    rw [State.spiWrite]
    split <;> rename_i he <;> rw [he] at kw
    · exact kw
    · exact ih kw

theorem flashProg (k : Follows s t) {a : Nat} {l : List (BitVec 8)} : Follows s (t.flashProg a l) := by
  induction l generalizing t a with
  | nil => exact k
  | cons b l ih =>
    rw [State.flashProg]
    exact .ite (ih (.devFlash k (wf_flashW8 _ _) id)) (ih (.devFlash k (wf_flashW8 _ _) fun h => .drawn h))

end Follows

end Sys2Proof.Machine
end

section
/-!
Every command answers a next state that follows the state it starts from: one rule for each way a meaning
ends, then the commands.
-/
namespace Sys2Proof.Machine

/-- The outcome `o` is a next state, which follows `s`. -/
def Answers (s : State) (o : Out) : Prop := ∃ t, o = .next t ∧ Follows s t

namespace Answers

variable {s : State}

theorem next {t : State} (k : Follows s t) : Answers s (.next t) := ⟨t, rfl, k⟩

/-! ### The ways a meaning ends -/

section
variable {f : Dev → Dev} (hf : ∀ {d}, d.Canon → (f d).Canon)
include hf

theorem always : Answers s (s.always f) := .next (.dev .refl fun h => hf h)

theorem main : Answers s (s.main f) := .next (.dev .refl fun h => .ite h (hf h))

theorem onClk {p : Nat} : Answers s (s.onClk p f) := .next (.dev .refl fun h => .ite h (hf h))

theorem byReg : Answers s (s.byReg f) := .onClk fun h => .when h hf

theorem byOrigin {o : Origin} : Answers s (s.byOrigin o f) := .onClk fun h => .when h hf

theorem thimble : Answers s (s.thimble f) := .main fun h => .ite (hf h) h

end

section
variable {f : State → State} (hf : ∀ {t}, Follows s t → Follows s (f t))
include hf

theorem mainMem : Answers s (s.mainMem f) := .next (.ite .refl (hf .refl))

theorem onClkMem {p : Nat} : Answers s (s.onClkMem p f) := .next (.ite .refl (hf .refl))

theorem byRegMem : Answers s (s.byRegMem f) := .onClkMem fun k => .ite (hf k) k

theorem byOriginMem {o : Origin} : Answers s (s.byOriginMem o f) := .onClkMem fun k => .ite (hf k) k

theorem bootStage {n : Nat} : Answers s (s.bootStage n f) := .mainMem fun k => .ite k (hf k)

theorem inField : Answers s (s.inField f) := .next (.ite (hf .refl) .refl)

theorem tagCmd {adr : TagTo} : Answers s (s.tagCmd adr f) := .inField fun k => .ite (hf k) k

end

theorem domain {f : Dev → Dev} (hf : ∀ {d}, d.Canon → (f d).Canon) : Answers s (s.domain f) :=
  .mainMem fun k => .canWant (.dev k fun h => hf h)

theorem domHeard {f : Dev → Dev} (hf : ∀ {d}, d.Canon → (f d).Canon) : Answers s (s.domHeard f) :=
  .onClkMem fun k => .ite k (.canArb (.dev k fun h => .beside (hf h)))

section
variable {f : State → SpiReq → State} (hf : ∀ {t q}, Follows s t → Follows s (f t q))
include hf

theorem spiExec {cmd : Nat} {a b : Bool} {n : Option Nat} : Answers s (s.spiExec cmd a b n f) := by
  refine .onClkMem fun k => ?_
  split
  · exact k
  · exact .ite k (.ite (.dev k fun h => .spiDone h) (.ite (.dev k fun h => .spiDone h) (hf k)))

theorem spiFlash {cmd : Nat} {ok : Bool} : Answers s (s.spiFlash cmd ok f) :=
  .spiExec fun k => .ite k (.ite (.dev k fun h => .spiDone h) (hf k))

end

/-! ### Commands -/

/-! #### Sys2Proof/Machine/Pos.lean -/

theorem posFaultClear {p : Fin 4} {mask : BitVec 13} : Answers s (execPosFaultClear p mask s) := .byReg fun h => .posClear h

theorem excitationMark {pos : Bool} : Answers s (execExcitationMark pos s) :=
  .onClk fun h => .adcTrig (.each h fun h => .ite (.posUpd h) h)

theorem resolverPairTimeout {p : Fin 2} : Answers s (execResolverPairTimeout p s) := .onClk fun h => .ite (.pairDrop h) h

theorem encoderEdge {p : Fin 4} {a b : Bool} : Answers s (execEncoderEdge p a b s) :=
  .onClk fun h => .ite h (.ite (.posBad (.count (.posUpd h))) (.posUpd (.posUpd h)))

theorem encoderMeasurement {p : Fin 4} : Answers s (execEncoderMeasurement p s) := .onClk fun h => .ite (.posReading h) h

theorem index {p : Fin 4} : Answers s (execIndex p s) := by
  unfold execIndex
  exact .onClk fun h => .ite h (.ite (.when (.posUpd (.raise h)) fun h => .posUnindex (.posImmediate h)) (.set (.posUpd
    (.raise h))))

theorem serialFrameStart {p : Fin 4} : Answers s (execSerialFrameStart p s) := .onClk fun h => .ite h (.frameStart h)

theorem serialFrameComplete {p : Fin 4} {idle ef wf : Bool} {data : BitVec 40} {crc : BitVec 8} :
    Answers s (execSerialFrameComplete p idle ef wf data crc s) := by
  unfold execSerialFrameComplete
  exact .onClk fun h => by split; exacts [h, .ite (.ite (.posBad (.posUpd h)) (.posFrame (.posUpd h))) (.ite (.posBad (.posUpd
    h)) (.ite (.posBad (.setB (.posUpd h))) (.posFrame (.setB (.posUpd h)))))]

theorem sscStartBitTimeout {p : Fin 4} : Answers s (execSscStartBitTimeout p s) :=
  .onClk fun h => .ite (.posBad (.posUpd h)) h

theorem vencOvercurrent {p : Fin 4} : Answers s (execVencOvercurrent p s) := .main fun h => .ite (.posImmediate h) h

theorem openToSls {p : Fin 4} : Answers s (execOpenToSls p s) := .main fun h => .ite (.slsEnter h) h

theorem openTimeout {p : Fin 4} : Answers s (execOpenTimeout p s) := .main fun h => .ite (.posLost h) h

theorem slsLowSpeed {p : Fin 4} : Answers s (execSlsLowSpeed p s) := .main fun h => .ite (.posLost h) h

theorem disagree {p : Fin 4} : Answers s (execDisagree p s) := .main fun h => .ite (.raise (.set (.posUpd h))) h

/-! #### Sys2Proof/Machine/Pwm.lean -/

theorem switchEdge {c : Fin 2} {x : Fin 3} : Answers s (execSwitchEdge c x s) := .main fun h => .ite h (.legEdge (.carUpd h))

theorem deadTimeEnd {c : Fin 2} {x : Fin 3} : Answers s (execDeadTimeEnd c x s) := .main fun h => .ite h (.carCmd (.carUpd h))

theorem onTimeLimit {c : Fin 3} {k : Fin 6} : Answers s (execOnTimeLimit c k s) :=
  .main fun h => .ite h (.jnlFault (.raise (.count (.setBits (.carApply (.carUpd h))))))

theorem carrierMark {c : Fin 3} {slack : BitVec 16} : Answers s (execCarrierMark c slack s) :=
  .main fun h => .ite h (.ite (.carMark (.carMark h)) (.carMark h))

theorem brakeRequestSet {v1 v2 : BitVec 16} : Answers s (execBrakeRequestSet v1 v2 s) :=
  .main fun h => .ite h (.brakePulse (.brakeClock (.driveEval (.count (.set (.carUpd h))))))

theorem brakeRequestClear {v1 v2 : BitVec 16} : Answers s (execBrakeRequestClear v1 v2 s) :=
  .main fun h => .ite h (.driveEval (.set h))

theorem brakeOnTimeEnd : Answers s (execBrakeOnTimeEnd s) := .main fun h => .ite (.brakeEnd h) h

theorem brakeOffTimeEnd : Answers s (execBrakeOffTimeEnd s) := .main fun h => .ite (.brakePulse (.carUpd h)) h

theorem brakePulseMissing : Answers s (execBrakePulseMissing s) := .main fun h => .ite (.brakeDirect h) (.brakeClock h)

theorem windingDischargeEngage {g : Fin 2} : Answers s (execWindingDischargeEngage g s) := by
  unfold execWindingDischargeEngage
  exact .main fun h => .ite h (.coffOn (.eachOf (.clkEval (.set (.set (.carUpd h)))) fun h => .ite (.driveEval (.setPaths h))
    h))

theorem coffOnPhaseEnd {c : Fin 2} : Answers s (execCoffOnPhaseEnd c s) := .main fun h => .ite h (.coffOff h)

theorem coffOffTimeEnd {c : Fin 2} : Answers s (execCoffOffTimeEnd c s) := .main fun h => .ite h (.coffOn h)

theorem windingDischargeEnd : Answers s (execWindingDischargeEnd s) := .main fun h => .windStop h

theorem debugHalt {c : Fin 4} : Answers s (execDebugHalt c s) := .main fun h => .debugHalt h

theorem debugResume {c : Fin 4} : Answers s (execDebugResume c s) := .main fun h => .debugResume h

/-! #### Sys2Proof/Machine/Adc.lean -/

theorem sampleRecord {n : Fin 8} {v : Conv} : Answers s (execSampleRecord n v s) := .onClk fun h => .adcAperture h

theorem slotTrigger {n : Fin 8} {k : Fin 4} : Answers s (execSlotTrigger n k s) := .onClk fun h => .ite h (.adcTrig1 h)

theorem slotFirstAperture {n : Fin 8} {clocks : BitVec 32} {v : Conv} : Answers s (execSlotFirstAperture n clocks v s) :=
  .onClk fun h => .ite h (.ite h (.adcAperture (.adcUpd (.set (.set (.when h fun h => .raise (.count h)))))))

theorem slotComplete {n : Fin 8} : Answers s (execSlotComplete n s) :=
  .onClk fun h => .ite h (.adcNext (.adcEntry (.when (.adcUpd h) fun h => .raise h)) fun h => .adcMux h)

theorem slotResultPublish {n : Fin 8} : Answers s (execSlotResultPublish n s) := by
  unfold execSlotResultPublish
  exact .onClk fun h => by split; exacts [h, (.ite (.posSlot (.ite (.udcTake (.raiseIf (.when (.setReg (.adcUpd h)) fun h =>
    .raise h))) (.raiseIf (.when (.setReg (.adcUpd h)) fun h => .raise h)))) (.ite (.udcTake (.raiseIf (.when (.setReg
    (.adcUpd h)) fun h => .raise h))) (.raiseIf (.when (.setReg (.adcUpd h)) fun h => .raise h))))]

theorem urgentRequest {n : Fin 8} {count : BitVec 8} {i : BitVec 4} : Answers s (execUrgentRequest n count i s) :=
  .byReg fun h => .urgWrite h

theorem urgentSlotComplete {n : Fin 8} : Answers s (execUrgentSlotComplete n s) := by
  unfold execUrgentSlotComplete
  exact .onClk fun h => by split; exacts [h, (.ite h (.adcNext (.ite (.cluVector (.adcUpd (.when (.raise (.setReg h)) fun h =>
    .raise h))) (.adcUpd (.when (.raise (.setReg h)) fun h => .raise h))) fun h => .adcMux (.set (.set h))))]

theorem adcRunStart {n : Fin 8} : Answers s (execAdcRunStart n s) := .byReg fun h => .adcRun h

theorem adcRunStop {n : Fin 8} : Answers s (execAdcRunStop n s) := .byReg fun h => .adcStop h

theorem refSelect {sel : BitVec 2} : Answers s (execRefSelect sel s) := .byReg fun h => .refSelect h

theorem referenceSettled {mv : BitVec 16} : Answers s (execReferenceSettled mv s) := by
  unfold execReferenceSettled
  exact .main fun h => .ite h (.ite (.refEvt (.each (.set (.set (.set (.beside h)))) fun h => .calBegin h)) (.refEvt (.count
    (.set (.set (.beside h))))))

theorem referenceOutOfWindow {mv : BitVec 16} : Answers s (execReferenceOutOfWindow mv s) := by
  unfold execReferenceOutOfWindow
  exact .main fun h => .ite (.set (.beside h)) (.eachOf (.jnlFault (.refEvt (.count (.set (.set (.set (.beside h))))))) fun h
    => .when h fun h => .hemSafe h)

theorem adcCalStart {mask : BitVec 8} : Answers s (execAdcCalStart mask s) := .byReg fun h => .calStart h

theorem calibrationEnd {n : Fin 8} {w : List (BitVec 32)} {off gain : BitVec 32} : Answers s (execCalibrationEnd n w off gain
  s) := by
  unfold execCalibrationEnd
  exact .onClk fun h => .ite h (.clkEval (.startDeferred (.ite (.refEvt (.set (.foHoldAll (.when (.raise (.ite (.clrBits
    (.clrBits (.setBits (.adcUpd (.setB (.set (.clrBits (.set (.set (.each h fun h => .set h)))))))))) (.setBits (.setBits
    (.clrBits (.adcUpd (.setB (.set (.clrBits (.set (.set (.each h fun h => .set h)))))))))))) fun h => .calFailHold h))))
    (.foHoldAll (.when (.raise (.ite (.clrBits (.clrBits (.setBits (.adcUpd (.setB (.set (.clrBits (.set (.set (.each h fun h
    => .set h)))))))))) (.setBits (.setBits (.clrBits (.adcUpd (.setB (.set (.clrBits (.set (.set (.each h fun h => .set
    h)))))))))))) fun h => .calFailHold h)))))

theorem adcTrimStart {o : Origin} : Answers s (execAdcTrimStart o s) := .onClk fun h => .when h fun h => .trimWrite h

theorem adcTrimDone {code : BitVec 16} : Answers s (execAdcTrimDone code s) := by
  unfold execAdcTrimDone
  exact .onClk fun h => .ite h (.ite (.set (.clkEval (.set h))) (.thmEvalAll (.hemHold (.set (.set (.beside (.clkEval (.set
    h))))))))

/-! #### Sys2Proof/Machine/Gch.lean -/

theorem shortCircuit {n : Fin 14} : Answers s (execShortCircuit n s) := .always fun h => .ite (.gchFault h) h

theorem desat {n : Fin 14} : Answers s (execDesat n s) := .always fun h => .ite (.gchFault h) h

theorem softoffEnd {n : Fin 14} : Answers s (execSoftoffEnd n s) := .main fun h => .ite (.gchPut (.gchUpd h)) h

theorem overcurrent {n : Fin 14} : Answers s (execOvercurrent n s) := .always fun h => .ite h (.gchFault h)

theorem gateSupplyFault {n : Fin 14} {which : Fin 3} {vpos vneg : BitVec 8} : Answers s (execGateSupplyFault n which vpos vneg
  s) := by
  unfold execGateSupplyFault
  exact .always fun h => .ite h (.ite (.gchFault (.supplyPut h)) (.supplyPut h))

theorem gateSupplyRecovered {n : Fin 14} {vpos vneg : BitVec 8} : Answers s (execGateSupplyRecovered n vpos vneg s) := by
  unfold execGateSupplyRecovered
  exact .always fun h => .ite h (.ite (.supplyPut h) (.ite (.gchUpd (.supplyPut h)) (.gchShowCause (.gchUpd (.supplyPut h)))))

theorem vposLost {n : Fin 14} : Answers s (execVposLost n s) := by
  unfold execVposLost
  exact .always fun h => .ite (.gchUpd (.gateOff (.ite (.disEnd h) h))) (.when (.set (.gchPut (.gchUpd (.gateOff (.ite
    (.disEnd h) h))))) fun h => .set h)

theorem highVoltageHalfPowerUp {n : Fin 14} : Answers s (execHighVoltageHalfPowerUp n s) := .always fun h => .gchUpd h

theorem mismatch {n : Fin 14} {high : Bool} : Answers s (execMismatch n high s) := .always fun h => .ite h (.gchFault h)

theorem ntcReading {n : Fin 14} {code : BitVec 8} : Answers s (execNtcReading n code s) := by
  unfold execNtcReading
  exact .always fun h => .ite h (.ite (.ite (.gchUpd h) h) (.when (.gchShowCause (.set (.ite (.gchUpd h) h))) fun h => .count
    h))

theorem ntcTrip {n : Fin 14} : Answers s (execNtcTrip n s) := .always fun h => .ite h (.gchFault h)

theorem ontHv {n : Fin 14} : Answers s (execOntHv n s) := .always fun h => .ite h (.gchFault h)

theorem gateEdge {n : Fin 14} : Answers s (execGateEdge n s) := by
  unfold execGateEdge
  exact .main fun h => by extract_lets; split; exacts [h, (.eachOf (.gchUpd h) fun h => .ite (.ite (.gateOnBy (.gchUpd h))
    (.gateOffBy (.gchUpd h))) h)]

theorem edgeLearn {n : Fin 14} {on : Bool} {ts : Option (BitVec 10)} {code : BitVec 10} {vdsOff : BitVec 16} :
    Answers s (execEdgeLearn n on ts code vdsOff s) := by
  unfold execEdgeLearn
  exact .main fun h => .edgeLearn h

theorem gateLinkTrainingDone {e : Fin 14 × Rails} : Answers s (execGateLinkTrainingDone e s) :=
  .main fun h => .ite (.trainDone (.supplyRead h)) h

theorem gateLinkTrainingFail {n : Fin 14} : Answers s (execGateLinkTrainingFail n s) := .main fun h => .ite (.trainFail h) h

theorem gateLinkRetry {n : Fin 14} {ok : Option Rails} : Answers s (execGateLinkRetry n ok s) := by
  unfold execGateLinkRetry
  exact .main fun h => .ite h (by split; exacts [.trainFail h, (.when (.trainDone (.supplyRead h)) fun h => .count h)])

theorem linkLoss {n : Fin 14} : Answers s (execLinkLoss n s) := by
  unfold execLinkLoss
  exact .always fun h => .ite h (.ite (.gchUpd h) (.eachOf (.ite (.gchPut (.gateOff (.gchUpd h))) (.gchUpd h)) fun h =>
    .sidesAgain (.gchFault1 h)))

theorem linkStatusMissing {n : Fin 14} : Answers s (execLinkStatusMissing n s) := by
  unfold execLinkStatusMissing
  exact .main fun h => .ite (.thmEvalAll (.foHoldAll (.sidesAgain (.ite (.groupSafe (.when (.gchUpd (.clrBits h)) fun h =>
    .setBits h)) (.when (.gchUpd (.clrBits h)) fun h => .setBits h))))) h

theorem ascCommand {g : Fin 2} : Answers s (execAscCommand g s) := .main fun h => .groupSafe h

theorem ascRelease {g : Fin 2} : Answers s (execAscRelease g s) := .main fun h => .ite h (.ascRelease h)

theorem gateEnFall : Answers s (execGateEnFall s) := .main fun h => .ite (.set (.beside h)) h

theorem gateEnDisable : Answers s (execGateEnDisable s) := .main fun h => .ite h (.thmEvalAll (.gateDisable h))

theorem gateEnRise {lowNs : BitVec 32} {stuck : BitVec 14} : Answers s (execGateEnRise lowNs stuck s) :=
  .main fun h => .ite h (.gateRise h)

theorem autonomousDischarge : Answers s (execAutonomousDischarge s) := by
  unfold execAutonomousDischarge
  exact .always fun h => .ite h (.ite h (.ite (.gchUpd h) (.thmEvalAll (.raise (.count (.set (.set (.set (.gchPut (.gchUpd
    h))))))))))

theorem disTmaxElapsed : Answers s (execDisTmaxElapsed s) := .always fun h => .ite h (.ite (.gchUpd h) (.disEnd h))

/-! #### Sys2Proof/Machine/Clu.lean -/

theorem currentLoopUpdate {g : Fin 2} {tm : BitVec 64} {bad : BitVec 2} : Answers s (execCurrentLoopUpdate g tm bad s) := by
  unfold execCurrentLoopUpdate
  exact .onClk fun h => .ite h (.ite (.cluTrip (.eachOf h fun h => .set h)) (.ite h (.ite (.eachOf h fun h => .cluLasting
    (.cluInput h)) (.eachOf (.eachOf (.eachOf h fun h => .cluLasting (.cluInput h)) fun h => .cluOutput h) fun h => .ite
    (.cluTransfer h) h))))

theorem vectorMeasurementRequest {g : Fin 2} {second : Bool} : Answers s (execVectorMeasurementRequest g second s) :=
  .onClk fun h => .ite h (.urgRequest (.cluUpd h))

theorem starved {g : Fin 2} : Answers s (execStarved g s) := .onClk fun h => .ite (.raise (.set (.cluUpd h))) h

theorem cluEnable {g : Fin 2} : Answers s (execCluEnable g s) := .byReg fun h => .cluEnable h

theorem cluDisable {g : Fin 2} : Answers s (execCluDisable g s) := .byReg fun h => .cluDisable h

theorem offsetMeasurementEnd {g : Fin 2} : Answers s (execOffsetMeasurementEnd g s) := by
  unfold execOffsetMeasurementEnd
  exact .onClk fun h => .ite h (.ite (.cluOff (.eachOf h fun h => .set h)) (.cluPut (.eachOf h fun h => .when h fun h =>
    .offsetStore h)))

/-! #### Sys2Proof/Machine/Align.lean -/

theorem standstillCheckEnd {p : Fin 4} {lo hi : BitVec 32} : Answers s (execStandstillCheckEnd p lo hi s) :=
  .onClk fun h => by split; exacts [h, .ite h (.ite (.alignPulse h) (.alignFail h))]

theorem satPulseEnd {p : Fin 4} {iu iv iw : BitVec 32} {tEnd : BitVec 32} : Answers s (execSatPulseEnd p iu iv iw tEnd s) :=
  .onClk fun h => .ite h (.setI (.alignDrive (.posUpd h)))

theorem pulseDecayEnd {p : Fin 4} : Answers s (execPulseDecayEnd p s) :=
  .onClk fun h => .ite h (.ite (.alignEval h) (.ite (.alignPolarity h) (.alignPulse h)))

/-! #### Sys2Proof/Machine/Fio.lean -/

theorem foModeWrite {n : Fin 16} {mode : BitVec 3} : Answers s (execFoModeWrite n mode s) := .byReg fun h => .foWrite h

theorem foCurrentLimitReached {n : Fin 16} {ma : BitVec 16} : Answers s (execFoCurrentLimitReached n ma s) :=
  .main fun h => .ite (.set (.set (.foCurrent h))) (.foCurrent h)

theorem foCurrentBelowLimit {n : Fin 16} {ma : BitVec 16} : Answers s (execFoCurrentBelowLimit n ma s) :=
  .main fun h => .ite (.count (.set (.set (.foCurrent h)))) (.foCurrent h)

theorem foLimitTimerExpire {n : Fin 16} : Answers s (execFoLimitTimerExpire n s) :=
  .main fun h => .ite h (.ite (.foBrakeLatch h) (.foLatch h))

theorem foOvertemperature {e : Fin 16 × BitVec 16} : Answers s (execFoOvertemperature e s) :=
  .main fun h => .ite h (.ite (.foBrakeLatch (.set h)) (.foLatch (.set h)))

theorem foRetryTimerExpire {n : Fin 14} : Answers s (execFoRetryTimerExpire n s) :=
  .main fun h => .ite h (.ite (.foResume h) (.count (.set (.foPut h))))

theorem foRetryReset {n : Fin 14} : Answers s (execFoRetryReset n s) := .main fun h => .ite (.set h) h

theorem foLatchClear {mask : BitVec 14} : Answers s (execFoLatchClear mask s) := .byReg fun h => .foClearMask h

theorem bankSupplyFault {b : Fin 4} {high : Bool} {v : BitVec 16} : Answers s (execBankSupplyFault b high v s) :=
  .main fun h => .ite (.set h) (.brakeShow (.foHoldAll (.raise (.beside (.setBits (.set h))))))

theorem bankSupplyRecovered {b : Fin 4} {v : BitVec 16} : Answers s (execBankSupplyRecovered b v s) :=
  .main fun h => .ite (.set h) (.brakeShow (.foHoldAll (.beside (.set h))))

theorem aggOver : Answers s (execAggOver s) := .main fun h => .raise (.set h)

theorem diFilteredEdge {n : Fin 32} : Answers s (execDiFilteredEdge n s) := .main fun h => .diFiltered h

/-! #### Sys2Proof/Machine/Stepper.lean -/

theorem chopperUpperReached {n : Fin 12} {b : Bool} {ns : BitVec 32} {m : BitVec 10 × Bool} :
    Answers s (execChopperUpperReached n b ns m s) := by
  unfold execChopperUpperReached
  exact .onClk fun h => .ite h (.chopOff (.coilUpd h))

theorem onPhaseLimit {n : Fin 12} {b : Bool} {e : BitVec 32 × Bool} : Answers s (execOnPhaseLimit n b e s) :=
  .onClk fun h => .ite h (.chopOff (.count (.coilUpd h)))

theorem chopperLowerReached {n : Fin 12} {b : Bool} {ns : BitVec 32} {code : BitVec 10} {low : Bool} :
    Answers s (execChopperLowerReached n b ns code low s) := by
  unfold execChopperLowerReached
  exact .onClk fun h => .ite h (.ite (.count (.coilUpd h)) (.chopOn (.chopSum h)))

theorem chopperTailEnd {n : Fin 12} {b low : Bool} : Answers s (execChopperTailEnd n b low s) :=
  .onClk fun h => .ite (.chopOn h) h

theorem coilShort {n : Fin 12} {e : Bool × BitVec 32 × BitVec 32} : Answers s (execCoilShort n e s) :=
  .main fun h => .ite (.axFault (.raise (.set (.homeAbort h)))) h

theorem positionTargetWrite {n : Fin 12} {v : BitVec 64} : Answers s (execPositionTargetWrite n v s) :=
  .byReg fun h => .axTgtWrite h

theorem velocityTargetWrite {n : Fin 12} {v : BitVec 64} : Answers s (execVelocityTargetWrite n v s) :=
  .byReg fun h => .axVtgtWrite h

theorem positionWrite {n : Fin 12} {v : BitVec 64} : Answers s (execPositionWrite n v s) := .byReg fun h => .axPosWrite h

theorem axisEnable {n : Fin 12} : Answers s (execAxisEnable n s) := .byReg fun h => .axEnable h

theorem axisDisable {n : Fin 12} : Answers s (execAxisDisable n s) := .byReg fun h => .axDisable h

theorem axisStop {n : Fin 12} : Answers s (execAxisStop n s) := .byReg fun h => .axStopWrite h

theorem homeGo {n : Fin 12} : Answers s (execHomeGo n s) := .byReg fun h => .homeStart h

theorem holdCurrentTimer {n : Fin 12} : Answers s (execHoldCurrentTimer n s) := .onClk fun h => .ite (.coilClamp (.set h)) h

theorem diRawEdge {n : Fin 32} {level : Bool} : Answers s (execDiRawEdge n level s) := .main fun h => .diRaw h

theorem limitSwitchEdge {n : Fin 12} {pos : Bool} : Answers s (execLimitSwitchEdge n pos s) :=
  .onClk fun h => .ite (.limTrip (.homeLimit h)) h

theorem homeSwitchEdge {n : Fin 12} : Answers s (execHomeSwitchEdge n s) :=
  .onClk fun h => .ite (.ite (.homeConfirm (.setReg (.set (.axisUpd h)))) (.setReg (.set (.axisUpd h)))) h

theorem homeDebounceExpire {n : Fin 12} : Answers s (execHomeDebounceExpire n s) :=
  .onClk fun h => .ite h (.ite (.ite (.homeConfirm h) (.count (.set h))) (.ite (.axisUpd h) h))

theorem stepEdge {n : Fin 12} {dir : Bool} : Answers s (execStepEdge n dir s) :=
  .onClk fun h => .ite h (.ite (.axStop (.axisUpd (.raise (.set (.axisUpd h))))) (.axGo (.axisUpd h)))

theorem motionTick {n : Fin 12} {low : BitVec 2} : Answers s (execMotionTick n low s) := by
  unfold execMotionTick
  refine .onClk fun h => ?_
  extract_lets d1 d2 d3 d4
  have h2 : d2.Canon := .limTrip (.homeLimit (.axGo (.ite h (.axisUpd h))))
  have h3 : d3.Canon := by
    unfold d3
    split; exacts [.restTick h2, .moveTick h2, .homeTick h2, .stopTick h2, h2]
  have h4 : d4.Canon := .limTrip h3
  exact .ite h4 (.coilTick (.coilTick (.blindShow (.set (.bandTick (.axShow h4))))))

theorem vstpFault {v : BitVec 16} : Answers s (execVstpFault v s) := by
  unfold execVstpFault
  exact .main fun h => .ite (.set h) (.each (.when (.when (.setB (.setB (.set h))) fun h => .set h) fun h => .set h) fun h =>
    .axHold (.when h fun h => .count h))

theorem vstpRecovered {v : BitVec 16} : Answers s (execVstpRecovered v s) :=
  .main fun h => .ite (.set h) (.each (.set (.set (.set h))) fun h => .axUnhold h)

/-! #### Sys2Proof/Machine/Engine.lean -/

theorem opNop {n : Fin 64} : Answers s (execOpNop n s) := .onClk fun h => .issue0 h fun h => h

theorem opMov {n : Fin 64} : Answers s (execOpMov n s) := .onClk fun h => .alu h

theorem opAdd {n : Fin 64} : Answers s (execOpAdd n s) := .onClk fun h => .alu h

theorem opSub {n : Fin 64} : Answers s (execOpSub n s) := .onClk fun h => .alu h

theorem opNeg {n : Fin 64} : Answers s (execOpNeg n s) := .onClk fun h => .alu h

theorem opAbs {n : Fin 64} : Answers s (execOpAbs n s) := .onClk fun h => .alu h

theorem opMin {n : Fin 64} : Answers s (execOpMin n s) := .onClk fun h => .alu h

theorem opMax {n : Fin 64} : Answers s (execOpMax n s) := .onClk fun h => .alu h

theorem opClamp {n : Fin 64} : Answers s (execOpClamp n s) := .onClk fun h => .alu h

theorem opSel {n : Fin 64} : Answers s (execOpSel n s) := .onClk fun h => .alu h

theorem opWrap {n : Fin 64} : Answers s (execOpWrap n s) := .onClk fun h => .alu h

theorem opMul {n : Fin 64} : Answers s (execOpMul n s) := .onClk fun h => .issue1 h fun h => .later h

theorem opMac {n : Fin 64} : Answers s (execOpMac n s) := .onClk fun h => .issueMac h fun h => .macPut h

theorem opMsu {n : Fin 64} : Answers s (execOpMsu n s) := .onClk fun h => .issueMac h fun h => .macPut h

theorem opAccld {n : Fin 64} : Answers s (execOpAccld n s) := .onClk fun h => .ite h (.issue0 h fun h => .slcUpd h)

theorem opAccrd {n : Fin 64} : Answers s (execOpAccrd n s) := .onClk fun h => .ite h (.issue1 h fun h => .now1 h)

theorem opTab {n : Fin 64} : Answers s (execOpTab n s) := .onClk fun h => .issue1 h fun h => .later h

theorem opDiv {n : Fin 64} : Answers s (execOpDiv n s) := .onClk fun h => .issue1 h fun h => .later (.divCount h)

theorem opSqrt {n : Fin 64} : Answers s (execOpSqrt n s) := .onClk fun h => .issue1 h fun h => .later (.rootCount h)

theorem opSincos {n : Fin 64} : Answers s (execOpSincos n s) := .onClk fun h => .issueBy h fun h => .later h

theorem opAtan2 {n : Fin 64} : Answers s (execOpAtan2 n s) := .onClk fun h => .issue1 h fun h => .later h

theorem opMag {n : Fin 64} : Answers s (execOpMag n s) := .onClk fun h => .issue1 h fun h => .later h

theorem opBiq {n : Fin 64} : Answers s (execOpBiq n s) :=
  .onClk fun h => .issueBy h fun h => by extract_lets; split; exact .later h

theorem opRamp {n : Fin 64} : Answers s (execOpRamp n s) := .onClk fun h => .issue1 h fun h => .later h

theorem opPi {n : Fin 64} : Answers s (execOpPi n s) :=
  .onClk fun h => .issueBy h fun h => by extract_lets; split; exact .later h

theorem opIn {n : Fin 64} : Answers s (execOpIn n s) := .onClk fun h => .issue1 h fun h => .later (.drawn h)

theorem opOut {n : Fin 64} : Answers s (execOpOut n s) := .onClk fun h => .issue0 h fun h => .slcUpd h

theorem opJge {n : Fin 64} : Answers s (execOpJge n s) := .onClk fun h => .issue0 h fun h => .ite (.pcBy h) h

theorem opEnd {n : Fin 64} {cyc : BitVec 16} : Answers s (execOpEnd n cyc s) := by
  unfold execOpEnd
  exact .onClk fun h => by split; exacts [h, (.ite h (.ite (.slcUpd (.slFlt (.count (.splEnd (.slReturn (.pcBy (.when (.set
    (.set h)) fun h => .set h))))))) (.closeIf (.slcUpd (.splEnd (.slReturn (.pcBy (.when (.set (.set h)) fun h => .set
    h))))))))]

theorem groupTrigger {g : Fin 8} : Answers s (execGroupTrigger g s) := .onClk fun h => .ite h (.grpTrigger (.egrUpd h))

theorem blockAccept : Answers s (execBlockAccept s) := .onClk fun h => .accept h

theorem epochDeadline {g : Fin 8} : Answers s (execEpochDeadline g s) :=
  .onClk fun h => .ite h (.eachOf (.count (.egrUpd h)) fun h => .when h fun h => .set h)

theorem collectorSwap {g : Fin 8} : Answers s (execCollectorSwap g s) := .onClk fun h => .ite (.swap h) h

theorem triggerTimeout {g : Fin 8} : Answers s (execTriggerTimeout g s) :=
  .onClk fun h => .ite h (.posSwaps (.eachOf (.count h) fun h => .each h fun h => .ageWord h))

theorem sliceRun {o : Origin} {n : Fin 64} {run : Bool} : Answers s (execSliceRun o n run s) := .byOrigin fun h => .slRun h

theorem sliceEccError {e : Fin 64 × Bool} : Answers s (execSliceEccError e s) :=
  .onClk fun h => .ite (.count h) (.ite h (.jnlFault (.raise (.clkEval (.flightPut (.slcUpd (.set h)))))))

theorem tuneCommit {count : BitVec 4} {restart : Bool} : Answers s (execTuneCommit count restart s) :=
  .byReg fun h => .tune (.setB (.set h))

/-! #### Sys2Proof/Machine/Assist.lean -/

theorem laRdw {c : Fin 4} {rd : BitVec 5} {v1 : BitVec 64} : Answers s (execLaRdw c rd v1 s) := .onClk fun h => .laGo h

theorem laRdout {c : Fin 4} {rd : BitVec 5} {v1 : BitVec 64} : Answers s (execLaRdout c rd v1 s) := .onClk fun h => .laGo h

theorem laRdage {c : Fin 4} {rd : BitVec 5} {v1 : BitVec 64} : Answers s (execLaRdage c rd v1 s) := .onClk fun h => .laGo h

theorem laRdseq {c : Fin 4} {rd : BitVec 5} {v1 : BitVec 64} : Answers s (execLaRdseq c rd v1 s) := .onClk fun h => .laGo h

theorem laRdsst {c : Fin 4} {rd : BitVec 5} {v1 : BitVec 64} : Answers s (execLaRdsst c rd v1 s) := .onClk fun h => .laGo h

theorem laTstat {c : Fin 4} {rd : BitVec 5} : Answers s (execLaTstat c rd s) := .onClk fun h => .laGo h

theorem laDiv {c : Fin 4} {rd : BitVec 5} {v1 v2 : BitVec 64} : Answers s (execLaDiv c rd v1 v2 s) := .onClk fun h => .laGo h

theorem laSqrt {c : Fin 4} {rd : BitVec 5} {v1 : BitVec 64} : Answers s (execLaSqrt c rd v1 s) := .onClk fun h => .laGo h

theorem laSin {c : Fin 4} {rd : BitVec 5} {v1 : BitVec 64} : Answers s (execLaSin c rd v1 s) := .onClk fun h => .laGo h

theorem laCos {c : Fin 4} {rd : BitVec 5} {v1 : BitVec 64} : Answers s (execLaCos c rd v1 s) := .onClk fun h => .laGo h

theorem laAtan2 {c : Fin 4} {rd : BitVec 5} {v1 v2 : BitVec 64} : Answers s (execLaAtan2 c rd v1 v2 s) :=
  .onClk fun h => .laGo h

theorem laMag {c : Fin 4} {rd : BitVec 5} {v1 v2 : BitVec 64} : Answers s (execLaMag c rd v1 v2 s) := .onClk fun h => .laGo h

theorem operationResult {n : Fin 64} {k : Fin 64} : Answers s (execOperationResult n k s) :=
  .onClk fun h => .assistPump (.opResult h)

theorem assistResultReturn {c : Fin 4} {j : Fin 2} : Answers s (execAssistResultReturn c j s) := by
  unfold execAssistResultReturn
  refine .onClk fun h => ?_
  split
  · exact h
  · extract_lets
    split
    · exact .laPump (.xPut (.portUpd h))
    · exact .ite (.laPump (.count (.xPut (.portUpd h)))) h

theorem laTset {c : Fin 4} {v1 v2 : BitVec 64} : Answers s (execLaTset c v1 v2 s) := .onClk fun h => .laGo h

theorem laTcommit {c : Fin 4} {v1 : BitVec 64} : Answers s (execLaTcommit c v1 s) := .onClk fun h => .laGo h

theorem laRun {c : Fin 4} {v1 : BitVec 64} : Answers s (execLaRun c v1 s) := .onClk fun h => .laGo h

theorem commitBufferSend {c : Fin 4} : Answers s (execCommitBufferSend c s) :=
  .onClk fun h => by split; exacts [h, .laPump (.laAct (.portUpd h))]

theorem squash {c : Fin 4} {what : Squash} : Answers s (execSquash c what s) := by
  unfold execSquash
  refine .onClk fun h => .ite h ?_
  extract_lets
  split
  · split; exacts [h, .count (.xPut (.portUpd h))]
  · exact .ite (.laPump (.count (.squashReq h))) (.squashRet h)
  · exact .ite (.laPump (.count (.portUpd h))) h
  · split; exacts [h, .portUpd h, .count (.portUpd h)]

theorem illegalInstruction {c : Fin 4} {w : BitVec 32} : Answers s (execIllegalInstruction c w s) :=
  .onClk fun h => .ite (.laExec h) h

theorem arm : Answers s (execArm s) := .byReg fun h => .splArm h

theorem stop : Answers s (execStop s) := .byReg fun h => .splStop h

theorem force : Answers s (execForce s) := .byReg fun h => .splForce h

theorem spoolRecordWrite : Answers s (execSpoolRecordWrite s) := .onClkMem fun k => .splServe k

theorem spoolMemoryWrite {a : BitVec 40} {w : Width} {v : BitVec 64} : Answers s (execSpoolMemoryWrite a w v s) :=
  .byRegMem fun k => .ite (.splStore k) k

/-! #### Sys2Proof/Machine/Sys.lean -/

theorem busErrorAccess {o : Origin} {a : BitVec 40} {w : Width} {wr : Bool} : Answers s (execBusErrorAccess o a w wr s) :=
  .onClk fun h => by split; exacts [(.when h fun h => .busErr h), h]

theorem vsupGood : Answers s (execVsupGood s) := by
  unfold execVsupGood
  exact .next (.ite (.dev (.volatileLost .refl) fun _ => .powerOn) .refl)

theorem vsupDipStart : Answers s (execVsupDipStart s) := .always fun h => .ite h (.beside h)

theorem vsupSagEnd : Answers s (execVsupSagEnd s) := .always fun h => .ite h (.when (.beside h) fun h => .count h)

theorem supplyLossEvent {vholdMv : BitVec 16} : Answers s (execSupplyLossEvent vholdMv s) :=
  .always fun h => .ite h (.ite (.beside (.beside h)) (.lossSequence (.beside h)))

theorem vsupReturn : Answers s (execVsupReturn s) := .always fun h => .ite (.beside h) h

theorem vsupRecovery : Answers s (execVsupRecovery s) := by
  unfold execVsupRecovery
  exact .next (.ite (.ite (.dev (.volatileLost .refl) fun _ => .powerOn)
    (.dev (.volatileLost .refl) fun h => .set (.mainReset h))) .refl)

theorem vholdBelowMinimum : Answers s (execVholdBelowMinimum s) := .always fun h => .ite (.flushStop (.beside h)) h

theorem vholdExhausted : Answers s (execVholdExhausted s) := by
  unfold execVholdExhausted
  exact .next (.ite (.dev (.volatileLost .refl) fun _ => .beside .powerOn) .refl)

theorem vholdGood : Answers s (execVholdGood s) := .main fun h => .set h

theorem vholdLow : Answers s (execVholdLow s) := .main fun h => .thmEvalAll (.set h)

theorem sleepReq : Answers s (execSleepReq s) := .byReg fun h => .sleepReq h

theorem sleepPrepComplete : Answers s (execSleepPrepComplete s) := by
  unfold execSleepPrepComplete
  exact .next (.ite .refl (.ite (.dev .refl fun h => .wake (.ite (.setBits (.ite (.setBits h) h)) (.ite (.setBits h) h)))
    (.ite .refl (.dev (.volatileLost .refl) fun h => .beside (.mainReset h)))))

theorem canWakePattern {n : Fin 4} : Answers s (execCanWakePattern n s) :=
  .always fun h => .ite (.wake h) (.ite (.ite (.wake h) h) (.ite (.raise h) h))

theorem wakePinAccepted {level : Bool} : Answers s (execWakePinAccepted level s) :=
  .always fun h => .ite h (.ite (.wake (.beside h)) (.beside h))

theorem sleepTimerExpiry : Answers s (execSleepTimerExpiry s) := .always fun h => .ite (.wake h) h

theorem pllRequest {p : Fin 3} {fw : Bool} : Answers s (execPllRequest p fw s) :=
  .main fun h => .when h fun h => .pllEval (.pllMark h)

theorem pllLockTimeout {p : Fin 3} : Answers s (execPllLockTimeout p s) := .main fun h => .ite (.pllFault (.beside h)) h

theorem pllLastRequestReleased {p : Fin 3} {fw : Bool} : Answers s (execPllLastRequestReleased p fw s) :=
  .main fun h => .when h fun h => .pllRelease (.pllMark h)

theorem pllHoldoffExpire {p : Fin 3} {req : Bool} : Answers s (execPllHoldoffExpire p req s) := by
  unfold execPllHoldoffExpire
  exact .main fun h => .ite (.ite (.set (.when h fun h => .pllMark h)) (.showFrozen (.set (.when h fun h => .pllMark h)))) h

theorem pllLockLost {p : Fin 3} : Answers s (execPllLockLost p s) := .main fun h => .ite (.pllFault h) h

theorem referenceFailure : Answers s (execReferenceFailure s) := .main fun h => .clockSafe (.raise (.set h))

theorem appRst {o : Origin} {key : BitVec 16} {rst : Bool} : Answers s (execAppRst o key rst s) :=
  .byOriginMem fun k => .rstctl k

theorem watchdogExpiry : Answers s (execWatchdogExpiry s) := .mainMem fun k => .ite k (.appReset k)

theorem thimbleReset : Answers s (execThimbleReset s) := by
  unfold execThimbleReset
  exact .mainMem fun k => .ite k (.ite (.ite (.keepReset k) (.dev (.appReset k) fun h => .beside h)) (.ite (by split; exacts
    [(.ite (.keepReset k) (.appReset (.dev k fun h => .beside h))), (.appReset (.dev k fun h => .beside h))]) k))

theorem debugReset : Answers s (execDebugReset s) :=
  .mainMem fun k => .ite (.ite k (.dev (.appReset k) fun h => .count h)) (.dev k fun h => .count h)

/-! #### Sys2Proof/Machine/Hem.lean -/

theorem checkpoint {p : Fin 2} : Answers s (execCheckpoint p s) := .onClk fun h => .ite (.checkpoint h) h

theorem forced {p : Fin 2} : Answers s (execForced p s) := .onClk fun h => .ite (.raiseLim (.count (.checkpoint h))) h

theorem privateStore {p : Fin 2} {a : BitVec 40} {w : Width} {v : BitVec 64} : Answers s (execPrivateStore p a w v s) :=
  .onClkMem fun k => .ite (.pairStore k) k

theorem mismatchDetected {p : Fin 2} : Answers s (execMismatchDetected p s) := by
  unfold execMismatchDetected
  exact .onClk fun h => .ite h (.ite (.retire (.pairUpd (.handRefuse (.handRefuse (.raise (.count (.setReg h))))))) (.ite
    (.pairUpd (.handRefuse (.handRefuse (.raise (.count (.setReg h)))))) (.portDrop (.set (.pairUpd (.handRefuse (.handRefuse
    (.raise (.count (.setReg h))))))))))

theorem darnRestartComplete {p : Fin 2} {ok : Bool} {us : BitVec 12} : Answers s (execDarnRestartComplete p ok us s) := by
  unfold execDarnRestartComplete
  exact .onClkMem fun k => .ite k (.ite (.devMem k (wf_undoReplay _) fun h => .released h) (.dev k fun h => .retire h))

theorem watchdogService {o : Origin} {key : BitVec 16} : Answers s (execWatchdogService o key s) :=
  .byOrigin fun h => .dogWrite h

theorem split {o : Origin} : Answers s (execSplit o s) := .byOrigin fun h => .splitWrite h

theorem splitComplete {p : Fin 2} : Answers s (execSplitComplete p s) :=
  .onClk fun h => .ite (.raise (.set (.portUpd (.pairUpd h)))) h

theorem ownerReq {o : Origin} : Answers s (execOwnerReq o s) := .byOrigin fun h => .ownerReq h

theorem safeAck {o : Origin} : Answers s (execSafeAck o s) := .byOrigin fun h => .safeAck h

theorem handoverTimeout : Answers s (execHandoverTimeout s) := .main fun h => .handRefuse h

theorem rejoin {c : Fin 4} : Answers s (execRejoin c s) := .byOrigin fun h => .rejoin h

theorem rejoinTimeout {p : Fin 2} : Answers s (execRejoinTimeout p s) := .onClk fun h => .ite (.pairRefuse (.pairUpd h)) h

theorem rejoinComplete {p : Fin 2} : Answers s (execRejoinComplete p s) :=
  .onClk fun h => .ite h (.roleFromRetired (.raise (.checkpoint (.set (.pairUpd (.portUpd (.portDrop h)))))))

theorem splitCoreParity {c : Fin 4} : Answers s (execSplitCoreParity c s) :=
  .onClk fun h => .ite h (.count (.pairUpd (.portUpd (.portDrop h))))

theorem splitCoreSelfTestDone {c : Fin 4} : Answers s (execSplitCoreSelfTestDone c s) := .onClk fun h => .pairUpd h

theorem deratingUpdate : Answers s (execDeratingUpdate s) := .main fun h => .each (.tempKeep h) fun h => .derate h

theorem hemSpeedTrip {g : Fin 2} : Answers s (execHemSpeedTrip g s) := .main fun h => .ite (.hemSafe (.count h)) h

theorem hemUdcTrip {g : Fin 2} : Answers s (execHemUdcTrip g s) := .main fun h => .ite (.hemSafe (.count h)) h

theorem hold : Answers s (execHold s) := .main fun h => .holdEval h

/-! #### Sys2Proof/Machine/AuxAdc.lean -/

theorem auxScanStart {m : Fin 2} : Answers s (execAuxScanStart m s) :=
  .main fun h => .ite h (by split; exacts [.auxUpd h, .count (.auxUpd h)])

theorem auxEntryDone {m : Fin 2} {x : List (BitVec 32)} : Answers s (execAuxEntryDone m x s) :=
  .main fun h => by split; exacts [h, .auxNext (.auxPublish h)]

/-! #### Sys2Proof/Machine/Thimble.lean -/

theorem thimbleCoreFault : Answers s (execThimbleCoreFault s) := by
  unfold execThimbleCoreFault
  exact .main fun h => .ite h (.eachOf (.brakeApply (.each (.windStop (.set h)) fun h => .cutPaths h)) fun h => .ite
    (.applySafe (.cluSafe h)) (.thmToSto h))

theorem thimbleRestartDone : Answers s (execThimbleRestartDone s) := by
  unfold execThimbleRestartDone
  exact .mainMem fun k => .ite k (.ite (.keepReset (.dev (.endDev (.endSafety k)) fun h => .beside (.set (.hemHold (.thmShow
    (.thmChecks (.thmLatch (.thmForget (.count h))))))))) (.dev (.endDev (.endSafety k)) fun h => .thmStart (.hemHold
    (.thmShow (.thmChecks (.thmLatch (.thmForget (.count h))))))))

theorem pathTest {n : Fin 14} {p1 p2 : Bool} : Answers s (execPathTest n p1 p2 s) :=
  .thimble fun h => .ite h (.thmEvalAll (.thmLatch (.ite (.tgrpUpd h) h)))

theorem speedCheck : Answers s (execSpeedCheck s) := .thimble fun h => .eachOf h fun h => .speedRead h

theorem selReleaseTimer {g : Fin 2} : Answers s (execSelReleaseTimer g s) := .thimble fun h => .ite (.selPut h) h

theorem ss1Check {g : Fin 2} {ms : BitVec 16} : Answers s (execSs1Check g ms s) := by
  unfold execSs1Check
  exact .thimble fun h => .ite h (.ite (.eachOf h fun h => .set h) (.ite (.ss1Violate (.eachOf h fun h => .set h)) (.ite
    (.ss1Complete (.eachOf h fun h => .set h)) (.eachOf h fun h => .set h))))

theorem ss1Deadline {g : Fin 2} : Answers s (execSs1Deadline g s) := .thimble fun h => .ite (.ss1Demand h) h

theorem sbcEngageTimer {g : Fin 2} : Answers s (execSbcEngageTimer g s) := .thimble fun h => .ite (.ss1Demand h) h

theorem stoAscTimeout {g : Fin 2} : Answers s (execStoAscTimeout g s) := .thimble fun h => .ite (.thmToSto h) h

theorem safeToSto {g : Fin 2} : Answers s (execSafeToSto g s) := .thimble fun h => .ite (.thmToSto h) h

theorem safetyInputChange {k : Fin 4} {a b : Bool} : Answers s (execSafetyInputChange k a b s) :=
  .main fun h => by extract_lets; split; exact .when (.beside (.set h)) fun h => .thmEvalAll (.siStep h)

theorem siDisc {k : Fin 4} : Answers s (execSiDisc k s) :=
  .thimble fun h => .ite (.thmEvalAll (.thmLatch (.siCause (.siPut (.beside h))))) h

theorem sbcTestPulse {ok : Bool} : Answers s (execSbcTestPulse ok s) :=
  .thimble fun h => .ite h (.ite (.count h) (.sbcFault (.count h)))

theorem sbcApplyCheck {ma : BitVec 16} : Answers s (execSbcApplyCheck ma s) :=
  .thimble fun h => .ite h (.ite (.clrBits (.set h)) (.sbcFault (.setBits (.set h))))

theorem sbcCurrentLow {ma : BitVec 16} : Answers s (execSbcCurrentLow ma s) :=
  .thimble fun h => .ite h (.ite (.sbcFault (.set h)) (.set h))

theorem tmWindowEnd {l : List (BitVec 12 × BitVec 12)} {iq0 iq1 : BitVec 64} : Answers s (execTmWindowEnd l iq0 iq1 s) := by
  unfold execTmWindowEnd
  exact .thimble fun h => .ite (.dcShow h) (.ite (.count (.ite (.setB (.setI (.setI (.dcShow h)))) (.raiseLim (.setB (.setI
    (.setI (.dcShow h))))))) (.tmJudge (.ite (.setB (.setI (.setI (.dcShow h)))) (.raiseLim (.setB (.setI (.setI (.dcShow
    h))))))))

theorem udcDiv {v : BitVec 16} {bad : Bool} : Answers s (execUdcDiv v bad s) := by
  unfold execUdcDiv
  exact .thimble fun h => .ite (.thmEvalAll (.eachOf (.thmLatch (.setBits (.set (.tudcShow h)))) fun h => .groupSafe h))
    (.clrBits (.set (.tudcShow h)))

theorem disSlow {v : BitVec 16} : Answers s (execDisSlow v s) :=
  .thimble fun h => .ite (.tudcShow h) (.thmEvalAll (.thmLatch (.disEnd (.tudcShow h))))

theorem windingDischargeStop {v : BitVec 16} : Answers s (execWindingDischargeStop v s) :=
  .thimble fun h => by split; exacts [h, .ite (.windStop (.tudcShow h)) (.tudcShow h)]

theorem lockoutExpiry : Answers s (execLockoutExpiry s) := .thimble fun h => .ite (.set (.lockPut h)) h

theorem lockoutSave : Answers s (execLockoutSave s) := .thimble fun h => .ite (.lockPut h) h

theorem unlockTimeout : Answers s (execUnlockTimeout s) := .mainMem fun k => .ite (.endSafety k) k

theorem sto {o : Origin} {tag : BitVec 16} : Answers s (execSto o tag s) := .byOriginMem fun k => .thmreqWrite k

theorem ss1 {o : Origin} {tag : BitVec 16} : Answers s (execSs1 o tag s) := .byOriginMem fun k => .thmreqWrite k

theorem stoRelease {o : Origin} {tag : BitVec 16} : Answers s (execStoRelease o tag s) := .byOriginMem fun k => .thmreqWrite k

theorem brakeRelease {o : Origin} {tag : BitVec 16} : Answers s (execBrakeRelease o tag s) :=
  .byOriginMem fun k => .thmreqWrite k

theorem brakeApply {o : Origin} {tag : BitVec 16} : Answers s (execBrakeApply o tag s) := .byOriginMem fun k => .thmreqWrite k

theorem disStart {o : Origin} {tag : BitVec 16} : Answers s (execDisStart o tag s) := .byOriginMem fun k => .thmreqWrite k

theorem disStop {o : Origin} {tag : BitVec 16} : Answers s (execDisStop o tag s) := .byOriginMem fun k => .thmreqWrite k

theorem windDis {o : Origin} {tag : BitVec 16} : Answers s (execWindDis o tag s) := .byOriginMem fun k => .thmreqWrite k

theorem clear {o : Origin} {tag : BitVec 16} : Answers s (execClear o tag s) := .byOriginMem fun k => .thmreqWrite k

theorem unlockSafety {o : Origin} {tag : BitVec 16} {len1 : BitVec 8} : Answers s (execUnlockSafety o tag len1 s) :=
  .byOriginMem fun k => .thmreqWrite k

theorem unlockDev {o : Origin} {tag : BitVec 16} {len1 : BitVec 8} : Answers s (execUnlockDev o tag len1 s) :=
  .byOriginMem fun k => .thmreqWrite k

theorem close {o : Origin} {tag : BitVec 16} : Answers s (execClose o tag s) := .byOriginMem fun k => .thmreqWrite k

theorem install {o : Origin} {tag : BitVec 16} : Answers s (execInstall o tag s) := .byOriginMem fun k => .thmreqWrite k

theorem setPassword {o : Origin} {tag : BitVec 16} {len1 len2 : BitVec 8} : Answers s (execSetPassword o tag len1 len2 s) :=
  .byOriginMem fun k => .thmreqWrite k

theorem ackLog {o : Origin} {tag : BitVec 16} {len1 : BitVec 8} : Answers s (execAckLog o tag len1 s) :=
  .byOriginMem fun k => .thmreqWrite k

theorem unknownRequest {o : Origin} {code : BitVec 8} {tag : BitVec 16} : Answers s (execUnknownRequest o code tag s) :=
  .byOriginMem fun k => .ite k (.thmreqWrite k)

/-! #### Sys2Proof/Machine/Sfl.lean -/

theorem txPop : Answers s (execTxPop s) := .byReg fun h => .sflPop h

theorem connectionEnable {o : Origin} {k : Fin 256} {en : Bool} : Answers s (execConnectionEnable o k en s) :=
  .byOrigin fun h => .ite h (.ite (.sflEnable (.rwsStored h)) (.rwsRefuse h))

theorem connectionCycle {k : Fin 256} : Answers s (execConnectionCycle k s) :=
  .onClk fun h => .ite h (by split; exacts [.sflSend (.set h), (.when h fun h => .sflData h), h])

theorem connectionWatchdog {k : Fin 256} : Answers s (execConnectionWatchdog k s) :=
  .main fun h => .ite (.sflThm (.count (.sflDown h))) h

theorem appsend {k : Fin 256} {len : BitVec 8} : Answers s (execAppsend k len s) := .byRegMem fun k => .appSend k

theorem submit {len : BitVec 16} : Answers s (execSubmit len s) := .byRegMem fun k => .sflSubmit k

/-! #### Sys2Proof/Machine/Events.lean -/

theorem evrAck {t : Fin 6} {k : BitVec 10} : Answers s (execEvrAck t k s) := .byReg fun h => .ite (.evrClear h) h

theorem evrPendClear {t : Fin 6} {j : Fin 12} {mask : BitVec 64} : Answers s (execEvrPendClear t j mask s) :=
  .byReg fun h => .evrClearMask h

theorem journalEntryWrite : Answers s (execJournalEntryWrite s) := .mainMem fun k => .jnlWrite k

theorem jnlFwcmd {o : Origin} {k : BitVec 8} : Answers s (execJnlFwcmd o k s) := .byOrigin fun h => .fwEntry h

theorem dtmHoldover : Answers s (execDtmHoldover s) := .main fun h => .ite (.raise (.count (.set h))) h

/-! #### Sys2Proof/Machine/Domain.lean -/

theorem domainEn {en : Bool} : Answers s (execDomainEn en s) := .byRegMem fun k => .canWant (.dev k fun h => .domEnable h)

theorem formDelayReached : Answers s (execFormDelayReached s) := .domain fun h => .ite (.domSend (.domContend h)) h

theorem domainOpen : Answers s (execDomainOpen s) := .domHeard fun h => .when (.domContend h) fun h => .domClaim0 h

theorem domainClaim {r : Fin 4} {arg : BitVec 16} : Answers s (execDomainClaim r arg s) :=
  .domHeard fun h => .ite (.domContend h) (.ite (.beside (.domDropClaims h)) h)

theorem domainRegister {arg : BitVec 16} {uid : BitVec 64} : Answers s (execDomainRegister arg uid s) :=
  .domHeard fun h => .domRegister h

theorem domainTrunk {trunk : Bool} {uid : BitVec 64} : Answers s (execDomainTrunk trunk uid s) :=
  .domHeard fun h => .domTrunk h

theorem domainLeader {uid : BitVec 64} : Answers s (execDomainLeader uid s) :=
  .domHeard fun h => .ite h (.domLeader (.domHeardRef h))

theorem domoff {off : BitVec 64} : Answers s (execDomoff off s) := .domHeard fun h => .when h fun h => .dtmMeasure h

theorem segnum {num : BitVec 16} {gm : BitVec 64} : Answers s (execSegnum num gm s) := .domHeard fun h => .domSegnum h

theorem claimSilence : Answers s (execClaimSilence s) := .domain fun h => .when h fun h => .domClaim0 h

theorem segmentClose : Answers s (execSegmentClose s) := .domain fun h => .domClose h

theorem segReg {r : SegReg} : Answers s (execSegReg r s) := .domain fun h => .domRegSeg h

theorem directoryClose : Answers s (execDirectoryClose s) := .domain fun h => .domDirClose h

theorem dirAck {leader : BitVec 64} {num : BitVec 9} {ver : BitVec 4} : Answers s (execDirAck leader num ver s) :=
  .domain fun h => .domDirAck h

theorem dirDone : Answers s (execDirDone s) := .domain fun h => .domDirDone h

theorem dirQuery {uid : BitVec 64} : Answers s (execDirQuery uid s) := .domain fun h => .ite h (.domSay h)

theorem gatewayServoLocked : Answers s (execGatewayServoLocked s) := .domain fun h => .ite (.domReport (.domPut h)) h

theorem connectComplete : Answers s (execConnectComplete s) := .domain fun h => .ite (.domPut (.set h)) h

theorem leaderRefMissing : Answers s (execLeaderRefMissing s) :=
  .domain fun h => .ite h (.ite (.domTakeLead (.domGateway (.domMembers h))) (.domGateway (.domMembers h)))

theorem gmChange : Answers s (execGmChange s) := .domain fun h => .when (.beside h) fun h => .domReport h

/-! #### Sys2Proof/Machine/Can.lean -/

theorem canRunSet {n : Fin 4} : Answers s (execCanRunSet n s) := .byReg fun h => .canRunSet h

theorem canRunClear {n : Fin 4} : Answers s (execCanRunClear n s) := .byReg fun h => .canRunClear h

theorem busIdleDetected {n : Fin 4} : Answers s (execBusIdleDetected n s) := by
  unfold execBusIdleDetected
  exact .onClkMem fun k => .ite (.canArb (.dev k fun h => .set h)) (.ite (.canArb (.dev k fun h => .canUpd h)) (.dev k fun h
    => .canUpd h))

theorem recover {n : Fin 4} : Answers s (execRecover n s) := .byReg fun h => .canRecover h

theorem busOn {n : Fin 4} : Answers s (execBusOn n s) :=
  .onClkMem fun k => .ite (.canArb (.dev k fun h => .raise (.canCount (.set h)))) k

theorem txreq {n : Fin 4} {mask : BitVec 3} : Answers s (execTxreq n mask s) := .byRegMem fun k => .canTxreq k

theorem txabort {n : Fin 4} {mask : BitVec 3} : Answers s (execTxabort n mask s) := .byRegMem fun k => .canTxabort k

theorem canTxComplete {n : Fin 4} {e : TxEnd} : Answers s (execCanTxComplete n e s) := by
  unfold execCanTxComplete
  refine .onClkMem fun {t} k => ?_
  split
  · exact k
  · extract_lets _ t1
    have k1 : Follows s t1 := .dev k fun h => .canUpd h
    refine .canArb (.dev (.ite (.canLostAt k1) ?_) fun h => .canStopped h)
    split; exacts [.ite (.canLostAt k1) (.canSent k1), .canLostAt k1, .canLostAt k1]

theorem refPeriod {n : Fin 4} : Answers s (execRefPeriod n s) := by
  unfold execRefPeriod
  exact .onClkMem fun k => .ite (.canWant (.dev k fun h => .canQueue (.refPeriodBegin h))) (.dev k fun h => .refPeriodBegin h)

theorem canFrameReceived {n : Fin 4} {f : CanFrame} {age : BitVec 32} : Answers s (execCanFrameReceived n f age s) := by
  unfold execCanFrameReceived
  exact .onClkMem fun k => .ite k (.ite (.dev k fun h => .canException h) (.canArb (.dev (.canFilter (.dev k fun h =>
    .canRxGood h)) fun h => .canStopped (.when (.when (.refSeen h) fun h => .refHeard h) fun h => .followHeard h))))

theorem refFollowTimeout {n : Fin 4} : Answers s (execRefFollowTimeout n s) :=
  .onClk fun h => .when h fun h => .count (.canUpd h)

theorem canProtocolException {n : Fin 4} : Answers s (execCanProtocolException n s) := .onClk fun h => .canException h

theorem canBusError {n : Fin 4} {e : CanErr} {lec : BitVec 3} : Answers s (execCanBusError n e lec s) := by
  unfold execCanBusError
  refine .onClk fun h => .ite h ?_
  extract_lets
  split
  exacts [.canCount (.set h), .canCount (.set h), .canCount (.set h), .set h, .canCount (.canUpd (.set h))]

theorem fifoPop {n : Fin 4} : Answers s (execFifoPop n s) := .byReg fun h => .canPop h

theorem hpSlotFree {n : Fin 4} {mask : BitVec 4} : Answers s (execHpSlotFree n mask s) := .byReg fun h => .clrBits h

theorem dominantTimeout {n : Fin 4} : Answers s (execDominantTimeout n s) :=
  .onClk fun h => .when h fun h => .raiseLim (.count (.canUpd h))

/-! #### Sys2Proof/Machine/Eth.lean -/

theorem ethLinkChange {p : Fin 2} {up : Bool} {sqi : BitVec 3} : Answers s (execEthLinkChange p up sqi s) :=
  .domain fun h => .ethLink h

theorem announceReceived {p : Fin 2} {a : Announce} : Answers s (execAnnounceReceived p a s) :=
  .main fun h => .ite h (.asSelect (.beside h))

theorem announceTransmit {p : Fin 2} : Answers s (execAnnounceTransmit p s) :=
  .main fun h => by extract_lets; split; exacts [.ite (.beside (.asSelect h)) (.asSelect h), .asSelect h]

theorem syncTransmit {p : Fin 2} : Answers s (execSyncTransmit p s) := .main fun h => .ite (.syncSend h) h

theorem syncReceived {p : Fin 2} {t : BitVec 64} {age : BitVec 32} : Answers s (execSyncReceived p t age s) :=
  .main fun h => .ite h (.when (.when h fun h => .syncSend h) fun h => .dtmMeasure h)

theorem pdelayExchange {p : Fin 2} {delay : Option (BitVec 32)} : Answers s (execPdelayExchange p delay s) := by
  unfold execPdelayExchange
  exact .main fun h => .ite h (by split; exacts [.asSelect (.set (.set h)), .asSelect (.raise (.count (.asForget h)))])

theorem syncLost {p : Fin 2} : Answers s (execSyncLost p s) := .main fun h => .ite (.raise (.count h)) h

theorem switchFrameReceived {p : Fin 2} {l : List (BitVec 8)} {ok : Bool} {age : BitVec 32} :
    Answers s (execSwitchFrameReceived p l ok age s) := by
  unfold execSwitchFrameReceived
  exact .mainMem fun k => .hostDrain (.dev k fun h => .switched h)

theorem txkick : Answers s (execTxkick s) := .byRegMem fun k => .txKick k

theorem hostFrameSent {ok : Bool} {age : BitVec 32} : Answers s (execHostFrameSent ok age s) := by
  unfold execHostFrameSent
  exact .onClkMem fun k => .ite k (.txKick (.devMem k (fun h => wf_ite (wf_wrLE _ _ _ (wf_wrLE _ _ _ h)) (wf_wrLE _ _ _ h))
    fun h => .raise (.set (.ite (.eachOf (.macLearn h) fun h => .ethQueue h) h))))

theorem macEntryAgeing {mac : BitVec 48} : Answers s (execMacEntryAgeing mac s) := .main fun h => .beside h

/-! #### Sys2Proof/Machine/Spim.lean -/

theorem m0Go : Answers s (execM0Go s) := .byReg fun h => .m0Go h

theorem m0Done {e : M0End} : Answers s (execM0Done e s) := by
  unfold execM0Done
  refine .onClkMem fun {t} k => .ite k ?_
  cases e with
  | timeout => exact .dev k fun h => .raise (.count (.set (.clkEval (.set h))))
  | done rd chg =>
    exact .ite k (.ite (.dev k fun h => .raise (.set (.clkEval (.set h)))) (.devFlash
      (.devMem k (fun h => wf_ite (wf_wrBytes _ _ h) h) fun h => .ite (.clkEval (.set h)) (.m0Upd (.clkEval (.set h))))
      (wf_m0Flash (s := t) _ _) fun h => .raise (.count (.set h))))

theorem flashWindowRead {free : Bool} : Answers s (execFlashWindowRead free s) := .onClk fun h => .when h fun h => .count h

theorem m1TxQueue {v : BitVec 64} : Answers s (execM1TxQueue v s) := .byReg fun h => .m1Tx h

theorem m1EntryDone {w : BitVec 32} {l : List (BitVec 8)} : Answers s (execM1EntryDone w l s) := by
  unfold execM1EntryDone
  refine .onClkMem fun k => ?_
  split
  · exact k
  · exact .devMem k (fun h => wf_ite (wf_mixBytes _ h) h) fun h => .clkEval (.m1Show (.ite
      (.raise (.ite (.beside h) (.m1Received (.beside h)))) (.m1Start (.ite (.beside h) (.m1Received (.beside h))))))

theorem m1RxPop : Answers s (execM1RxPop s) := .byReg fun h => .m1Pop h

/-! #### Sys2Proof/Machine/Boot.lean -/

theorem pllLock {p : Fin 3} : Answers s (execPllLock p s) :=
  .main fun h => .ite (.pllRelease (.laResume (.refAtStart (.showFrozen (.set h))))) h

theorem thimbleBootDone {ok safe1 safe2 cal1 cal2 torn : Bool} : Answers s (execThimbleBootDone ok safe1 safe2 cal1 cal2 torn
  s) := by
  unfold execThimbleBootDone
  exact .main fun h => .ite h (.ite (.beside h) (.bootRelease (.jnlBoot (.hemHold (.thmStart (.thmShow (.trimLoad (.thmChecks
    (.beside h)))))))))

theorem headerCheckDone {ok : Bool} {map prot : BitVec 64} : Answers s (execHeaderCheckDone ok map prot s) := by
  unfold execHeaderCheckDone
  exact .bootStage fun k => .ite (.dev k fun h => .slotRefused (.ite (.setReg (.setReg h)) (.set (.beside (.setReg (.setReg
    h)))))) (.dev k fun h => .beside (.ite (.setReg (.setReg h)) (.set (.beside (.setReg (.setReg h))))))

theorem imageStreamDone {ok : Bool} {c : ImgContent} : Answers s (execImageStreamDone ok c s) :=
  .bootStage fun k => .ite (.dev k fun h => .slotRefused h) (.dev k fun h => .beside h)

theorem signatureCheckDone : Answers s (execSignatureCheckDone s) :=
  .bootStage fun k => .ite (.dev k fun h => .slotRefused h) (.dev k fun h => .beside (.setCause h))

theorem activation : Answers s (execActivation s) := by
  unfold execActivation
  exact .bootStage fun k => .ite k (.devMem k (wf_wrBytes _ _) fun h => .activate h)

theorem readySet : Answers s (execReadySet s) := by
  unfold execReadySet
  exact .bootStage fun k => .dev k fun h => .clkEval (.domReady (.thmEvalAll (.hemHold (.beside (.when (.set (.set (.set
    (.beside h)))) fun h => .raise h)))))

theorem verify : Answers s (execVerify s) := .byReg fun h => .verify h

theorem verifyDone {ok : Bool} {c : ImgContent} : Answers s (execVerifyDone ok c s) :=
  .onClk fun h => .ite h (.set (.setCause h))

/-! #### Sys2Proof/Machine/Crc.lean -/

theorem crcInit {u : Fin 8} : Answers s (execCrcInit u s) := .byReg fun h => .crcInit h

theorem crcGo {u : Fin 8} : Answers s (execCrcGo u s) := .byReg fun h => .crcGo h

theorem crcData {u : Fin 8} {half : Bool} {v : BitVec 64} : Answers s (execCrcData u half v s) := .byReg fun h => .crcData h

/-! #### Sys2Proof/Machine/Flow.lean -/

theorem flowMeasurementStart : Answers s (execFlowMeasurementStart s) := .onClk fun h => .when h fun h => .set h

theorem flowPairEvaluated {peak : Bool} {ad au qd qu : BitVec 16} {td tu dt : BitVec 32} : Answers s (execFlowPairEvaluated
  peak ad au qd qu td tu dt s) := by
  unfold execFlowPairEvaluated
  exact .onClk fun h => .ite h (.ite (.raiseLim (.count (.set (.set (.set (.set (.set h))))))) (.flowValid (.set (.set (.set
    (.set h))))))

theorem flowStale : Answers s (execFlowStale s) := .main fun h => .ite h (.raise (.set h))

/-! #### Sys2Proof/Machine/Lua.lean -/

theorem luTxByte {n : Fin 4} {b : BitVec 8} : Answers s (execLuTxByte n b s) := .byReg fun h => .luTx h

theorem luByteSent {n : Fin 4} : Answers s (execLuByteSent n s) :=
  .onClk fun h => by split; exacts [h, (.ite h (.when (.luShow (.luUpd h)) fun h => .raise h))]

theorem luRxPop {n : Fin 4} : Answers s (execLuRxPop n s) := .byReg fun h => .luPop h

theorem uartByteReceived {n : Fin 4} {b : BitVec 8 × BitVec 8 × BitVec 8} {par : Bool × Bool × Bool}
    {stop : Bool × List Bool} : Answers s (execUartByteReceived n b par stop s) := by
  unfold execUartByteReceived
  exact .onClk fun h => .ite h (.when (.ite (.count (.when (.when (.when h fun h => .count h) fun h => .count h) fun h =>
    .count h)) (.raise (.luShow (.luUpd (.when (.when (.when h fun h => .count h) fun h => .count h) fun h => .count h)))))
    fun h => .luError h)

theorem linGo {n : Fin 4} : Answers s (execLinGo n s) := .byReg fun h => .linGo h

theorem linFrameEnd {n : Fin 4} {e : LinEnd} : Answers s (execLinFrameEnd n e s) :=
  .onClk fun h => by split; exacts [h, (by split; exacts [.linDone h, .linEnd h])]

theorem linResponseTimeout {n : Fin 4} : Answers s (execLinResponseTimeout n s) := .onClk fun h => .when h fun h => .linEnd h

theorem linBreak {n : Fin 4} {span : BitVec 32} : Answers s (execLinBreak n span s) :=
  .onClk fun h => .ite h (.ite (.linEnd (.count h)) (.set (.luUpd (.count h))))

theorem linHeader {n : Fin 4} {pid : BitVec 8} : Answers s (execLinHeader n pid s) := by
  unfold execLinHeader
  exact .onClk fun h => .ite h (.ite (.linEnd (.luUpd h)) (by split; exacts [.raise (.count (.luUpd h)), .set (.set (.luUpd
    (.luUpd h)))]))

/-! #### Sys2Proof/Machine/Nfc.lean -/

theorem tagInventory {len : BitVec 7} {mask : BitVec 64} : Answers s (execTagInventory len mask s) :=
  .inField fun k => .ite (.dev k fun h => .tagAnswer h) k

theorem tagStayQuiet {uid : BitVec 64} : Answers s (execTagStayQuiet uid s) :=
  .inField fun k => .ite (.dev k fun h => .tagProto h) k

theorem tagSelect {uid : BitVec 64} : Answers s (execTagSelect uid s) :=
  .inField fun k => .ite (.dev k fun h => .tagAnswer (.tagProto h)) (.ite (.dev k fun h => .tagProto h) k)

theorem tagResetToReady {adr : TagTo} : Answers s (execTagResetToReady adr s) :=
  .tagCmd fun k => .dev k fun h => .tagAnswer (.tagProto h)

theorem tagReadSingleBlock {adr : TagTo} {b : BitVec 8} : Answers s (execTagReadSingleBlock adr b s) :=
  .tagCmd fun k => .tagRead k

theorem tagWriteSingleBlock {adr : TagTo} {b : BitVec 8} {v : BitVec 32} : Answers s (execTagWriteSingleBlock adr b v s) :=
  .tagCmd fun k => .tagWriteBlock k

theorem tagReadMultipleBlocks {adr : TagTo} {b n : BitVec 8} : Answers s (execTagReadMultipleBlocks adr b n s) :=
  .tagCmd fun k => .tagRead k

theorem tagExtendedReadSingleBlock {adr : TagTo} {b : BitVec 16} : Answers s (execTagExtendedReadSingleBlock adr b s) :=
  .tagCmd fun k => .tagRead k

theorem tagExtendedWriteSingleBlock {adr : TagTo} {b : BitVec 16} {v : BitVec 32} : Answers s (execTagExtendedWriteSingleBlock
  adr b v s) := by
  unfold execTagExtendedWriteSingleBlock
  exact .tagCmd fun k => .ite (.dev k fun h => .tagError h) (.tagWriteBlock k)

theorem tagExtendedReadMultipleBlocks {adr : TagTo} {b n : BitVec 16} : Answers s (execTagExtendedReadMultipleBlocks adr b n
  s) := by
  unfold execTagExtendedReadMultipleBlocks
  exact .tagCmd fun k => .tagRead k

theorem tagGetSystemInformation {adr : TagTo} : Answers s (execTagGetSystemInformation adr s) :=
  .tagCmd fun k => .dev k fun h => .tagAnswer h

theorem tagExtendedGetSystemInformation {adr : TagTo} : Answers s (execTagExtendedGetSystemInformation adr s) :=
  .tagCmd fun k => .dev k fun h => .tagAnswer h

theorem unsupportedTagCommand {adr : TagTo} : Answers s (execUnsupportedTagCommand adr s) :=
  .tagCmd fun k => .dev k fun h => .tagError h

theorem nfcFieldDetected : Answers s (execNfcFieldDetected s) := by
  unfold execNfcFieldDetected
  exact .always fun h => .ite h (.ite (.tagShow (.beside h)) (.ite (.wake (.when (.tagShow (.beside h)) fun h => .raise h))
    (.when (.tagShow (.beside h)) fun h => .raise h)))

theorem nfcFieldGone : Answers s (execNfcFieldGone s) :=
  .always fun h => .ite (.when (.tagShow (.beside h)) fun h => .raise h) h

theorem nfcCommit {page : BitVec 6} : Answers s (execNfcCommit page s) :=
  .byRegMem fun k => .nfcCommit (.dev k fun h => .set h)

theorem nfcRead {page : BitVec 6} : Answers s (execNfcRead page s) := .byRegMem fun k => .nfcRead (.dev k fun h => .set h)

theorem nfcCommitDone {e : TagEnd} : Answers s (execNfcCommitDone e s) := by
  unfold execNfcCommitDone
  refine .onClkMem fun k => ?_
  split
  · exact .ite (.dev k fun h => .raise (.count (.set (.nfcFree h)))) k
  · exact .ite k (.dev k fun h => .beside h)
  · refine .ite k ?_
    split
    · exact .devTag k (wf_tagWrite _) fun h => .when (.raise (.count (.set (.nfcFree h)))) fun h => .tagDirty h
    · exact .nfcTake (.dev k fun h => .nfcFree h)
    · exact k

theorem faultPageMirror : Answers s (execFaultPageMirror s) := by
  unfold execFaultPageMirror
  refine .onClkMem fun k => .ite k (.devTag k (fun h => ?_) fun h => .clkEval (.add (.beside h)))
  exact List.foldlRecOn (motive := fun m => Tab.wf tagDefault m = true) _ _ h fun _ h _ _ => wf_tagWrite _ h

/-! #### Sys2Proof/Machine/Bus.lean -/

theorem registerWrite {o : Origin} {a : BitVec 40} {w : Width} {v : BitVec 64} : Answers s (execRegisterWrite o a w v s) := by
  unfold execRegisterWrite
  exact .byOriginMem fun k => .busWrite k

theorem debugCommand {cmd : DbgCmd} : Answers s (execDebugCommand cmd s) :=
  .mainMem fun k => .ite (.dev k fun h => .count h) (.debugCmd k)

/-! #### Sys2Proof/Machine/CrcMem.lean -/

theorem crcStop {u : Fin 8} {cyc : BitVec 40} : Answers s (execCrcStop u cyc s) :=
  .byRegMem fun k => .dev (.crcCycles k) fun h => .crcEnd h

theorem crcMemoryDone {u : Fin 8} : Answers s (execCrcMemoryDone u s) :=
  .onClkMem fun k => .dev (.crcCycles k) fun h => .crcEnd h

/-! #### Sys2Proof/Machine/SpiHost.lean -/

theorem spihFrameStart : Answers s (execSpihFrameStart s) :=
  .main fun h => .ite h (.ite (.clkEval (.count (.spihUpd h))) (.clkEval (.spihUpd h)))

theorem spihFrameEnd {l : List (BitVec 8)} : Answers s (execSpihFrameEnd l s) := by
  unfold execSpihFrameEnd
  exact .onClkMem fun k => .ite k (.ite (.dev k fun h => .clkEval (.spihUpd h)) (.ite (.appReset (.dev k fun h => .spihUpd
    (.when h fun h => .count h))) (by split; exacts [(.dev k fun h => .clkEval (.spihUpd (.spihUpd (.when h fun h => .count
    h)))), (.dev k fun h => .clkEval (.raise (.count (.spihUpd (.spihUpd (.when h fun h => .count h))))))])))

theorem nopCmd : Answers s (execNopCmd s) := .spiExec fun k => .dev k fun h => .spiDone h

theorem rd : Answers s (execRd s) := by
  unfold execRd
  refine .spiExec fun {t q} k => ?_
  have kr : Follows s (t.spiRead q.addr q.len8).1 := .spiRead k
  split <;> rename_i he <;> rw [he] at kr <;> exact .dev kr fun h => .spiDone h

theorem wr : Answers s (execWr s) := by
  unfold execWr
  exact .spiExec fun k => .dev (.spiWrite k) fun h => .spiDone h

theorem flRd {ok : Bool} : Answers s (execFlRd ok s) :=
  .spiFlash fun k => .ite (.dev k fun h => .spiDone h) (.dev k fun h => .spiDone h)

theorem flProg {ok : Bool} : Answers s (execFlProg ok s) :=
  .spiFlash fun k => .ite (.dev k fun h => .flashRefuse h) (.dev (.flashProg k) fun h => .spiDone h)

theorem flErase {ok : Bool} : Answers s (execFlErase ok s) := by
  unfold execFlErase
  exact .spiFlash fun k => .ite (.dev k fun h => .flashRefuse h) (.devFlash k (Tab.wf_keep _ _) fun h => .spiDone h)

theorem keyProg : Answers s (execKeyProg s) :=
  .spiExec fun k => .ite (.dev k fun h => .spiDone h) (.dev k fun h => .spiDone (.keyPut h))

theorem keyRevoke : Answers s (execKeyRevoke s) :=
  .spiExec fun k => .ite (.dev k fun h => .spiDone (.keyPut h)) (.dev k fun h => .spiDone h)

theorem appReset : Answers s (execAppReset s) := .spiExec fun k => .dev k fun h => .spihUpd (.spiDone h)

theorem unknownCommand : Answers s (execUnknownCommand s) :=
  .onClkMem fun k => by split; exacts [k, (.ite k (.dev k fun h => .spiDone h))]

end Answers

/-- Every command answers a next state, which follows the state it starts from. -/
theorem exec_answers (i : Instr) (s : State) : Answers s (exec i s) := by
  cases i
  case segnum num gm => exact .segnum (gm := gm)
  exacts [.registerWrite, .busErrorAccess, .vsupGood, .vsupDipStart, .vsupSagEnd, .supplyLossEvent, .vsupRecovery,
    .vholdBelowMinimum, .vholdExhausted, .vholdGood, .sleepReq, .sleepPrepComplete, .canWakePattern, .wakePinAccepted,
    .nfcFieldDetected, .nfcFieldGone, .sleepTimerExpiry, .pllRequest, .pllLock, .pllLockTimeout, .pllLastRequestReleased,
    .pllHoldoffExpire, .pllLockLost, .referenceFailure, .thimbleBootDone, .headerCheckDone, .imageStreamDone,
    .signatureCheckDone, .activation, .gateLinkTrainingDone, .gateLinkTrainingFail, .gateLinkRetry, .readySet, .appRst,
    .watchdogExpiry, .thimbleReset, .debugReset, .verify, .verifyDone, .foModeWrite, .foCurrentLimitReached,
    .foCurrentBelowLimit, .foLimitTimerExpire, .foOvertemperature, .foRetryTimerExpire, .foRetryReset, .foLatchClear,
    .bankSupplyFault, .bankSupplyRecovered, .aggOver, .diRawEdge, .diFilteredEdge, .adcRunStart, .adcRunStop, .sampleRecord,
    .slotTrigger, .slotFirstAperture, .slotComplete, .slotResultPublish, .urgentRequest, .urgentSlotComplete, .refSelect,
    .referenceSettled, .referenceOutOfWindow, .adcCalStart, .calibrationEnd, .adcTrimStart, .adcTrimDone, .auxScanStart,
    .auxEntryDone, .excitationMark, .resolverPairTimeout, .encoderEdge, .encoderMeasurement, .index, .serialFrameStart,
    .serialFrameComplete, .sscStartBitTimeout, .vencOvercurrent, .posFaultClear, .openToSls, .openTimeout, .slsLowSpeed,
    .disagree, .standstillCheckEnd, .satPulseEnd, .pulseDecayEnd, .cluEnable, .cluDisable, .offsetMeasurementEnd,
    .currentLoopUpdate, .vectorMeasurementRequest, .starved, .carrierMark, .switchEdge, .deadTimeEnd, .onTimeLimit,
    .brakeRequestSet, .brakeRequestClear, .brakeOnTimeEnd, .brakeOffTimeEnd, .brakePulseMissing, .windingDischargeEngage,
    .coffOnPhaseEnd, .coffOffTimeEnd, .windingDischargeEnd, .debugHalt, .debugResume, .debugCommand, .gateEdge, .edgeLearn,
    .shortCircuit, .desat, .softoffEnd, .overcurrent, .gateSupplyFault, .gateSupplyRecovered, .vposLost, .mismatch,
    .ntcReading, .ntcTrip, .ontHv, .linkLoss, .linkStatusMissing, .ascCommand, .ascRelease, .gateEnFall, .gateEnDisable,
    .gateEnRise, .autonomousDischarge, .disTmaxElapsed, .groupTrigger, .triggerTimeout, .opNop, .opMov, .opAdd, .opSub,
    .opNeg, .opAbs, .opMin, .opMax, .opClamp, .opSel, .opWrap, .opMul, .opMac, .opMsu, .opAccld, .opAccrd, .opTab, .opDiv,
    .opSqrt, .opSincos, .opAtan2, .opMag, .opBiq, .opRamp, .opPi, .opIn, .opOut, .opJge, .opEnd, .operationResult,
    .blockAccept, .epochDeadline, .collectorSwap, .sliceRun, .sliceEccError, .tuneCommit, .laRdw, .laRdout, .laRdage,
    .laRdseq, .laRdsst, .laTstat, .laDiv, .laSqrt, .laSin, .laCos, .laAtan2, .laMag, .laTset, .laTcommit, .laRun,
    .illegalInstruction, .commitBufferSend, .squash, .assistResultReturn, .arm, .stop, .force, .spoolRecordWrite,
    .spoolMemoryWrite, .axisEnable, .axisDisable, .axisStop, .homeGo, .positionTargetWrite, .velocityTargetWrite,
    .positionWrite, .motionTick, .holdCurrentTimer, .stepEdge, .chopperUpperReached, .chopperLowerReached, .chopperTailEnd,
    .onPhaseLimit, .limitSwitchEdge, .homeSwitchEdge, .homeDebounceExpire, .coilShort, .vstpFault, .vstpRecovered,
    .mismatchDetected, .darnRestartComplete, .checkpoint, .forced, .privateStore, .watchdogService, .split, .splitComplete,
    .ownerReq, .safeAck, .handoverTimeout, .rejoin, .rejoinTimeout, .rejoinComplete, .splitCoreParity, .deratingUpdate,
    .hemSpeedTrip, .hemUdcTrip, .hold, .thimbleCoreFault, .thimbleRestartDone, .pathTest, .speedCheck, .selReleaseTimer,
    .ss1Check, .ss1Deadline, .sbcEngageTimer, .stoAscTimeout, .safeToSto, .safetyInputChange, .siDisc, .sbcTestPulse,
    .sbcApplyCheck, .sbcCurrentLow, .tmWindowEnd, .udcDiv, .disSlow, .windingDischargeStop, .lockoutExpiry, .lockoutSave,
    .unlockTimeout, .sto, .ss1, .stoRelease, .brakeRelease, .brakeApply, .disStart, .disStop, .windDis, .clear, .unlockSafety,
    .unlockDev, .close, .install, .setPassword, .ackLog, .canRunSet, .canRunClear, .busIdleDetected, .canFrameReceived,
    .refFollowTimeout, .canProtocolException, .canBusError, .txreq, .txabort, .canTxComplete, .fifoPop, .hpSlotFree, .recover,
    .busOn, .dominantTimeout, .refPeriod, .ethLinkChange, .switchFrameReceived, .syncReceived, .pdelayExchange,
    .announceReceived, .syncLost, .txkick, .dtmHoldover, .submit, .txPop, .appsend, .connectionEnable, .connectionCycle,
    .connectionWatchdog, .domainEn, .formDelayReached, .domainOpen, .domainClaim, .domainRegister, .domainTrunk,
    .domainLeader, .domoff, .claimSilence, .segmentClose, .segReg, .directoryClose, .dirAck, .dirDone, .dirQuery,
    .gatewayServoLocked, .connectComplete, .leaderRefMissing, .gmChange, .crcInit, .crcGo, .crcStop, .crcData, .crcMemoryDone,
    .spihFrameStart, .nopCmd, .rd, .wr, .flRd, .flProg, .flErase, .keyProg, .keyRevoke, .appReset, .spihFrameEnd, .m0Go,
    .m0Done, .flashWindowRead, .m1TxQueue, .m1EntryDone, .m1RxPop, .luTxByte, .luRxPop, .uartByteReceived, .linGo,
    .linFrameEnd, .linResponseTimeout, .linBreak, .linHeader, .tagInventory, .tagStayQuiet, .tagSelect, .tagResetToReady,
    .tagReadSingleBlock, .tagWriteSingleBlock, .tagReadMultipleBlocks, .tagExtendedReadSingleBlock,
    .tagExtendedWriteSingleBlock, .tagExtendedReadMultipleBlocks, .tagGetSystemInformation, .tagExtendedGetSystemInformation,
    .unsupportedTagCommand, .nfcCommit, .nfcRead, .nfcCommitDone, .faultPageMirror, .flowMeasurementStart, .flowPairEvaluated,
    .flowStale, .evrAck, .evrPendClear, .journalEntryWrite, .jnlFwcmd, .vsupReturn, .vholdLow, .highVoltageHalfPowerUp,
    .unknownCommand, .unknownRequest, .luByteSent, .hostFrameSent, .syncTransmit, .announceTransmit, .macEntryAgeing,
    .splitCoreSelfTestDone]

/-- Every step answers a next state, which follows the state without the front of its queue. -/
theorem step_answers (s : State) : Answers { s with pending := s.pending.tail } (step s) := by
  rw [step]
  split
  next c rest h => rw [h]; exact exec_answers c _
  next h =>
    rw [show { s with pending := s.pending.tail } = s by cases s; simp_all]
    exact .next (.idle .refl)

/-- Settles O3: every command's meaning ends in a next state, which keeps the queue. -/
theorem everyStepAnswersNext : Obligations.EveryStepAnswersNext := by
  refine ⟨fun i s => ?_, fun s => ?_⟩
  · obtain ⟨t, ht, k⟩ := exec_answers i s
    exact ⟨t, ht, k.queue⟩
  · obtain ⟨t, ht, k⟩ := step_answers s
    exact ⟨t, ht, k.queue⟩

/-- Settles O6: what an operation writes to a memory or to the register table it writes through the table's own
operations, which keep the canonical form. -/
theorem stepKeepsCanonicalForm : Obligations.StepKeepsCanonicalForm := by
  intro s t hs hst
  obtain ⟨u, hu, k⟩ := step_answers s
  obtain rfl : u = t := by injection hu.symm.trans hst
  exact k.inv hs

end Sys2Proof.Machine
end

section
/-!
Bus accesses: a write to the firmware area stores nothing in a supply loss, whoever makes it.
-/
namespace Sys2Proof.Machine

/-- In a supply loss no write of the firmware area begins (R446). -/
theorem State.busWrite_fwArea_of_persistShut {s : State} {o : Origin} {a n v : Nat} (he : accessErr a n true = none)
    (hr : regionOf a = .fwArea) (hs : s.dev.persistShut = true) : s.busWrite o a n v = (s, false) := by
  unfold State.busWrite
  rw [he, hr]
  simp only [hs, if_true]

theorem State.byOriginMem_of_accesses {s : State} {o : Origin} {f : State → State} (h : s.accesses o) :
    s.byOriginMem o f = .next (f s) := by
  obtain ⟨⟨hp, hc⟩, ho⟩ := h
  simp [State.byOriginMem, State.onClkMem, hp, hc, ho]

/-- A module in SUPPLY_LOSS (R33) whose PLL A is still LOCKED and whose image is active: the host makes accesses. -/
def lossState : State :=
  { dev := (({ boot := { stage := 7 } } : Dev).set SYS_CLKSTAT_PLLA_ST 2).set SYS_PWRSTATE_STATE 4 }

theorem lossState_accesses : lossState.accesses .host := by decide

/-- Refutes O49: the clause on the firmware area does not ask that no supply loss runs. In SUPPLY_LOSS a host that still makes
accesses writes 1 at the area's first address, and the area goes on reading 0. -/
theorem not_busCommandsComplete : ¬ Obligations.BusCommandsComplete := by
  unfold Obligations.BusCommandsComplete
  rintro ⟨-, hfw, -⟩
  obtain ⟨t, ht, hread, -⟩ := hfw lossState .host 0x20290000 1 lossState_accesses (by decide) (by decide)
  have hwrite : lossState.busWrite .host 0x20290000 8 1 = (lossState, false) :=
    State.busWrite_fwArea_of_persistShut (by decide) (by decide) (by decide)
  have hexec : exec (.registerWrite .host 0x20290000 .w64 1) lossState = .next lossState := by
    show execRegisterWrite .host 0x20290000 .w64 1 lossState = _
    rw [execRegisterWrite, State.byOriginMem_of_accesses lossState_accesses]
    exact congrArg (fun x => Host.Outcome.next x.1) hwrite
  obtain rfl : lossState = t := by injection hexec.symm.trans ht
  exact absurd hread (by decide)

end Sys2Proof.Machine
end

section
/-!
The change log (R335 to R337): what an entry and an acknowledgement leave of the memory, and an acknowledgement of a log whose
fill count is above its 4,096 places.
-/
namespace Sys2Proof.Machine

/-! ## Bytes -/

theorem bytesLE_ofBytesLE : ∀ l : List (BitVec 8), bytesLE l.length (ofBytesLE l) = l
  | [] => rfl
  | b :: l => by
    have hdiv : (b.toNat + 256 * ofBytesLE l) / 256 = ofBytesLE l := by omega
    rw [List.length_cons, ofBytesLE, bytesLE, hdiv, bytesLE_ofBytesLE l]
    congr 1
    apply BitVec.eq_of_toNat_eq
    have := b.isLt
    rw [BitVec.toNat_ofNat]
    omega

theorem ofBytesLE_lt : ∀ l : List (BitVec 8), ofBytesLE l < 256 ^ l.length
  | [] => by decide
  | b :: l => by
    have hl := ofBytesLE_lt l
    have hb := b.isLt
    rw [List.length_cons, ofBytesLE, Nat.pow_succ]
    omega

theorem ofBytesBE_append_singleton (l : List (BitVec 8)) (b : BitVec 8) : ofBytesBE (l ++ [b]) = 256 * ofBytesBE l + b.toNat := by
  simp [ofBytesBE]

theorem ofBytesBE_bytesBE (n : Nat) : ∀ v : Nat, v < 256 ^ n → ofBytesBE (bytesBE n v) = v := by
  induction n with
  | zero => intro v hv; simp at hv; subst hv; rfl
  | succ n ih =>
    intro v hv
    have hb : bytesBE (n + 1) v = bytesBE n (v / 256) ++ [BitVec.ofNat 8 v] := by simp [bytesBE, bytesLE]
    rw [Nat.pow_succ] at hv
    rw [hb, ofBytesBE_append_singleton, ih _ (by omega), BitVec.toNat_ofNat]
    omega

theorem length_bytesLE (n : Nat) : ∀ v : Nat, (bytesLE n v).length = n := by
  induction n with
  | zero => intro v; rfl
  | succ n ih => intro v; simp [bytesLE, ih]

theorem length_bytesBE (n v : Nat) : (bytesBE n v).length = n := by simp [bytesBE, length_bytesLE]

/-- The word that eight bytes spell, first byte least significant. -/
def wordOf (l : List (BitVec 8)) : BitVec 64 := BitVec.ofNat 64 (ofBytesLE l)

theorem bytesLE_wordOf {l : List (BitVec 8)} (h : l.length = 8) : bytesLE 8 (wordOf l).toNat = l := by
  have hl : ofBytesLE l < 2 ^ 64 := by simpa [h] using ofBytesLE_lt l
  rw [wordOf, BitVec.toNat_ofNat, Nat.mod_eq_of_lt hl]
  have hb := bytesLE_ofBytesLE l
  rwa [h] at hb

/-! ## The digest -/

theorem foldl_words_lt (f : Nat → Nat) (l : List Nat) : ∀ {acc n : Nat}, acc < 2 ^ (32 * n) →
    l.foldl (fun acc i => acc * 2 ^ 32 + f i % 2 ^ 32) acc < 2 ^ (32 * (n + l.length)) := by
  induction l with
  | nil => intro acc n h; exact h
  | cons i l ih =>
    intro acc n h
    have hacc : acc * 2 ^ 32 + f i % 2 ^ 32 < 2 ^ (32 * (n + 1)) := by
      rw [Nat.mul_add, Nat.pow_add]
      omega
    rw [List.foldl_cons, List.length_cons, Nat.add_comm l.length, ← Nat.add_assoc]
    exact ih hacc

theorem chainBlock_lt (h m : Nat) : chainBlock h m < 2 ^ 256 := by
  unfold chainBlock
  generalize rounds 64 0 h m = v
  exact foldl_words_lt (fun i => beWord 8 h i + beWord 8 v i) (List.range 8) (n := 0) Nat.one_pos

theorem chainBlocks_lt (n : Nat) : ∀ (h : Nat) (m : List (BitVec 8)), h < 2 ^ 256 → chainBlocks n h m < 2 ^ 256 := by
  induction n with
  | zero => intro h m hh; exact hh
  | succ n ih => intro h m _; exact ih _ _ (chainBlock_lt _ _)

theorem sha256_lt (m : List (BitVec 8)) : sha256 m < 2 ^ 256 := chainBlocks_lt _ _ _ (by decide)

/-! ## The change log -/

theorem Tab.find_keep_out {α : Type} (d : Nat → α) {p : Nat → Bool} {a : Nat} (h : p a = false) (t : List (Nat × α)) :
    Tab.find d (Tab.keep p t) a = d a := by
  induction t with
  | nil => rfl
  | cons e t ih =>
    obtain ⟨k, v⟩ := e
    unfold Tab.keep at ih ⊢
    rw [List.filter_cons]
    split
    · next hk =>
      have : k ≠ a := by rintro rfl; simp [h] at hk
      rw [Tab.find, if_neg this, ih]
    · exact ih

/-- An erased byte reads 0. -/
theorem rd8_eraseLog {m : List Host.Cell} {n a : Nat} (h : 0x20200000 ≤ a) (hn : a < 0x20200000 + 64 * n) :
    rd8 (eraseLog m n) a = 0 := Tab.find_keep_out _ (by simp [h, hn]) _

/-- A change-log entry writes inside the log's 4,096 places. -/
theorem rd8_logEntry_out (s : State) {a : Nat} (h : 0x20240000 ≤ a) (kind origin count digest reason : Nat) :
    rd8 (s.logEntry kind origin count digest reason).mem a = rd8 s.mem a := by
  unfold State.logEntry
  dsimp only
  split
  · rfl
  · next hn =>
    refine rd8_wrBytes_out _ _ _ (Or.inr ?_)
    simp [logBody, length_bytesLE, length_bytesBE]
    omega

/-- An acknowledgement with the right digest erases the bytes of every entry that the fill count names. -/
theorem State.reqAckLog_mem {s : State} {o : Origin} {len : Nat} {args : List (BitVec 64)} {d : Dev}
    (hp : s.dev.pwdCheck args len (lenOk len) false = (d, none))
    (hd : sha256 (rdBytes s.mem 0x20200000 (64 * d.per.fill.cur.getD 0)) = ofBytesBE (pwdBytes args 4 32)) {a : Nat}
    (ha : 0x20240000 ≤ a) (hn : a < 0x20200000 + 64 * d.per.fill.cur.getD 0) :
    rd8 (s.reqAckLog o len args).1.mem a = 0 := by
  unfold State.reqAckLog
  rw [hp]
  dsimp only
  rw [if_neg (not_not_intro hd)]
  exact (rd8_logEntry_out _ ha ..).trans (rd8_eraseLog (by omega) hn)

end Sys2Proof.Machine
end

section
/-!
The frame of HEM_THMREQ (R337): ACK_LOG erases 64 bytes for each entry that the fill count names, and the count of a state that
no hypothesis restricts can name more than the 4,096 entries that the log has.
-/
namespace Sys2Proof.Machine

/-! ## The request -/

/-- The ACK_LOG request with a first argument of 8 bytes (R330, R337). -/
def ackRequest : BitVec 64 := 0x0000000800000015

/-- The write of `ackRequest` to HEM_THMREQ as the access decodes. -/
def ackWrite (o : Origin) : RegW := ⟨o, A_HEM_THMREQ, A_HEM_THMREQ, 0, 0, BitVec.allOnes 64, ackRequest⟩

/-- The fields of HEM_THMREQ: tag, two lengths, code. -/
def thmreqFields : List FDef := [⟨48, 16, .wo⟩, ⟨40, 8, .wo⟩, ⟨32, 8, .wo⟩, ⟨0, 8, .wo⟩]

theorem regDefAt_thmreq : regDefAt (A_HEM_THMREQ / 8 * 8) = some (⟨A_HEM_THMREQ, 8, 1, 8, 1, true, thmreqFields⟩, 0, 0) := by
  decide

/-- Every field of HEM_THMREQ is write-only: a write stores nothing. -/
theorem Dev.regStore_ackWrite (d : Dev) (o : Origin) : d.regStore (ackWrite o) thmreqFields = d := by rfl

theorem Dev.regAct_ackWrite (d : Dev) (o : Origin) (old : BitVec 64) : d.regAct (ackWrite o) old = d := by rfl

theorem State.regActMem_ackWrite (s : State) (o : Origin) : s.regActMem (ackWrite o) = s.thmreqWrite o 0x15 0 8 0 := by
  have haddr : (ackWrite o).addr = A_HEM_THMREQ := rfl
  have horigin : (ackWrite o).o = o := rfl
  have hcode : (ackWrite o).f 0 8 = 0x15 := show fieldGet ackRequest 0 8 = 0x15 by decide
  have htag : (ackWrite o).f 48 16 = 0 := show fieldGet ackRequest 48 16 = 0 by decide
  have hlen1 : (ackWrite o).f 32 8 = 8 := show fieldGet ackRequest 32 8 = 8 by decide
  have hlen2 : (ackWrite o).f 40 8 = 0 := show fieldGet ackRequest 40 8 = 0 by decide
  rw [State.regActMem, haddr, if_neg (by decide), if_pos rfl, horigin, hcode, htag, hlen1, hlen2]

theorem State.regWrite_ackRequest (s : State) (o : Origin) :
    s.regWrite o A_HEM_THMREQ 8 ackRequest.toNat = s.thmreqWrite o 0x15 0 8 0 := by
  have hwrite : (⟨o, A_HEM_THMREQ / 8 * 8, A_HEM_THMREQ, 0, 0,
      BitVec.ofNat 64 ((2 ^ (8 * 8) - 1) * 2 ^ (8 * (A_HEM_THMREQ % 8))),
      BitVec.ofNat 64 (ackRequest.toNat * 2 ^ (8 * (A_HEM_THMREQ % 8))) &&&
        BitVec.ofNat 64 ((2 ^ (8 * 8) - 1) * 2 ^ (8 * (A_HEM_THMREQ % 8)))⟩ : RegW) = ackWrite o := by rfl
  rw [State.regWrite, regDefAt_thmreq]
  dsimp only
  rw [hwrite, Dev.regStore_ackWrite, Dev.regAct_ackWrite, State.regActMem_ackWrite]

theorem State.busWrite_ackRequest (s : State) (o : Origin) :
    (s.busWrite o A_HEM_THMREQ 8 ackRequest.toNat).1 = s.thmreqWrite o 0x15 0 8 0 := by
  have he : accessErr A_HEM_THMREQ 8 true = none := by decide
  have hr : regionOf A_HEM_THMREQ = .reg := by decide
  unfold State.busWrite
  simp only [he, hr]
  exact s.regWrite_ackRequest o

/-! ## The state -/

/-- One byte of the trace space after the change log's 4,096 places holds 1. -/
def ackMem : List Host.Cell := [(0x20240000, 1)]

/-- The digest of the 4,097 entries that the fill count names, as its 32 bytes. -/
def ackDigest : List (BitVec 8) := bytesBE 32 (sha256 (rdBytes ackMem 0x20200000 (64 * 4097)))

/-- A password record whose password is eight zero bytes. -/
def ackPwd : Pwd := { init := false, hash := pwdHash 0 (List.replicate 8 0) }

/-- Pair 0 runs in lockstep, Thimble runs, the change log's fill count is 4,097, and the arguments hold the password and the
digest of an acknowledgement. -/
def ackState : State :=
  { mem := ackMem,
    dev :=
      { regs := [(A_SYS_CLKSTAT, 2), (A_HEM_THMARG 4, wordOf (ackDigest.take 8)),
          (A_HEM_THMARG 5, wordOf ((ackDigest.drop 8).take 8)), (A_HEM_THMARG 6, wordOf ((ackDigest.drop 16).take 8)),
          (A_HEM_THMARG 7, wordOf (ackDigest.drop 24)), (A_THM_STAT, 1)],
        boot := { stage := 7 },
        per := { fill := { v1 := 4097, v2 := 4097 }, pwd := { v1 := ackPwd, v2 := ackPwd } } } }

/-- `ackState` as the request finds it: the argument registers are cleared. -/
def ackTaken : State := { ackState with dev := ackState.dev.each 8 fun k d => d.setReg (A_HEM_THMARG k) 0 }

theorem ackState_accesses : ackState.accesses (.pair 0) := by decide

theorem ackState_numbersOk : ackState.numbersOk = true := by decide

theorem ackState_thmArgs : ackState.dev.thmArgs = [0, 0, 0, 0, wordOf (ackDigest.take 8), wordOf ((ackDigest.drop 8).take 8),
    wordOf ((ackDigest.drop 16).take 8), wordOf (ackDigest.drop 24)] := by rfl

/-- Eight bytes each, the last four arguments spell the digest. -/
theorem ackState_digest : pwdBytes ackState.dev.thmArgs 4 32 = ackDigest := by
  have hlen : ackDigest.length = 32 := length_bytesBE ..
  rw [ackState_thmArgs, pwdBytes]
  simp only [List.drop_succ_cons, List.drop_zero, List.take_succ_cons, List.take_zero, List.flatMap_cons, List.flatMap_nil]
  rw [bytesLE_wordOf (by simp [hlen]), bytesLE_wordOf (by simp [hlen]), bytesLE_wordOf (by simp [hlen]),
    bytesLE_wordOf (by simp [hlen]), List.append_nil, ← List.drop_drop (i := 8) (j := 16), List.take_append_drop,
    ← List.drop_drop (i := 8) (j := 8), List.take_append_drop, List.take_append_drop, List.take_of_length_le (by simp [hlen])]

theorem ackState_password : pwdBytes ackState.dev.thmArgs 0 8 = List.replicate 8 0 := by
  rw [ackState_thmArgs]; rfl

theorem ackTaken_pwdCheck :
    ackTaken.dev.pwdCheck ackState.dev.thmArgs 8 (lenOk 8) false = (ackTaken.dev.set THM_PWD_WRONG 0, none) := by
  have hlock : ackTaken.dev.bit THM_STAT_LOCKOUT = false := by decide
  have hpwd : ackTaken.dev.pwd = ackPwd := by rfl
  have his : ackTaken.dev.pwdIs (pwdBytes ackState.dev.thmArgs 0 8) = true := by
    rw [ackState_password, Dev.pwdIs, hpwd]
    simp [ackPwd]
  rw [Dev.pwdCheck, hlock, hpwd, his]
  rfl

/-! ## The refutation -/

/-- What a request leaves of the memory is what its function leaves. -/
theorem State.thmReq_mem {s : State} {o : Origin} {code tag : Nat} {f : State → List (BitVec 64) → State × Nat}
    (hlock : s.dev.lockOrigin o = true) (hbusy : s.dev.bit THM_RESP_BUSY = false) (hruns : s.dev.thmRuns = true) :
    (s.thmReq o code tag f).mem =
      (f { s with dev := s.dev.each 8 fun k d => d.setReg (A_HEM_THMARG k) 0 } s.dev.thmArgs).1.mem := by
  simp [State.thmReq, hlock, hbusy, hruns]

theorem State.reqByCode_ackLog (o : Origin) (len1 len2 : Nat) (s : State) (args : List (BitVec 64)) :
    State.reqByCode o 0x15 len1 len2 s args = s.reqAckLog o len1 args := by rfl

/-- The acknowledgement erases the byte after the change log. -/
theorem ackState_erased : rd8 (ackState.thmreqWrite (.pair 0) 0x15 0 8 0).mem 0x20240000 = 0 := by
  have hfill : (ackTaken.dev.set THM_PWD_WRONG 0).per.fill.cur.getD 0 = 4097 := by rfl
  rw [State.thmreqWrite, State.thmReq_mem (by decide) (by decide) (by decide), State.reqByCode_ackLog, ← ackTaken]
  refine State.reqAckLog_mem ackTaken_pwdCheck ?_ (le_refl _) (by rw [hfill]; decide)
  rw [ackState_digest, ackDigest, ofBytesBE_bytesBE 32 _ (by simpa using sha256_lt _), hfill]
  exact congrArg (fun m => sha256 (rdBytes m 0x20200000 (64 * 4097))) (show ackTaken.mem = ackMem from rfl)

theorem mem_not_mem_regs (f : Nat → Nat) (n a : Nat) : Part.mem a ∉ regs f n := by simp [regs]
theorem mem_not_mem_regs2 (f : Nat → Nat → Nat) (n m a : Nat) : Part.mem a ∉ regs2 f n m := by simp [regs2, regs]

theorem mem_mem_bytes_iff {a b n : Nat} : Part.mem b ∈ bytes a n ↔ a ≤ b ∧ b < a + n := by
  simp only [bytes, List.mem_map, List.mem_range, Part.mem.injEq]
  exact ⟨fun ⟨i, hi, h⟩ => by omega, fun h => ⟨b - a, by omega, by omega⟩⟩

/-- Refutes O60: the clause on HEM_THMREQ lists the bytes of the change log's 4,096 places. In `ackState`, whose fill count is
4,097, an acknowledgement with the digest of what the count names erases the byte after them, which held 1. -/
theorem not_accessAndResetFrames : ¬ Obligations.AccessAndResetFrames := by
  unfold Obligations.AccessAndResetFrames
  rintro ⟨-, -, -, -, -, -, -, -, -, -, -, -, -, -, hreq, -⟩
  obtain ⟨hwrite, -, -⟩ := hreq ackState (BitVec.ofNat 40 A_HEM_THMREQ) (by decide) (by decide) ackState_numbersOk
  obtain ⟨t, ht, hleaves⟩ := hwrite (.pair 0) .w64 ackRequest
  have hexec : exec (.registerWrite (.pair 0) (BitVec.ofNat 40 A_HEM_THMREQ) .w64 ackRequest) ackState =
      .next (ackState.thmreqWrite (.pair 0) 0x15 0 8 0) := by
    show execRegisterWrite _ _ _ _ _ = _
    rw [execRegisterWrite, State.byOriginMem_of_accesses ackState_accesses]
    exact congrArg _ (State.busWrite_ackRequest ackState (.pair 0))
  obtain rfl : ackState.thmreqWrite (.pair 0) 0x15 0 8 0 = t := by injection hexec.symm.trans ht
  have hsame : rd8 (ackState.thmreqWrite (.pair 0) 0x15 0 8 0).mem 0x20240000 = rd8 ackMem 0x20240000 :=
    hleaves (.mem 0x20240000) (by
      simp [mem_mem_bytes_iff, mem_not_mem_regs, mem_not_mem_regs2, raises, refusals, demands, safeStates, journals,
        setRegs, all])
  rw [ackState_erased] at hsame
  exact absurd hsame (by decide)

end Sys2Proof.Machine
end

section
/-!
SYS_RSTCTL (R35): what a write of the whole register does, and that one with a wrong key or of a split core is counted only.
-/
namespace Sys2Proof.Machine

/-- A write of all 64 bits of SYS_RSTCTL. -/
def rstctlWrite (o : Origin) (v : BitVec 64) : RegW :=
  ⟨o, A_SYS_RSTCTL, A_SYS_RSTCTL, 0, 0, BitVec.allOnes 64, v &&& BitVec.allOnes 64⟩

/-- The fields of SYS_RSTCTL: KEY and the reset. -/
def rstctlFields : List FDef := [⟨48, 16, .wo⟩, ⟨0, 1, .wo⟩]

theorem regDefAt_rstctl : regDefAt (A_SYS_RSTCTL / 8 * 8) = some (⟨A_SYS_RSTCTL, 8, 1, 8, 1, true, rstctlFields⟩, 0, 0) := by
  decide

theorem Dev.regStore_rstctlWrite (d : Dev) (o : Origin) (v : BitVec 64) : d.regStore (rstctlWrite o v) rstctlFields = d := by
  rfl

theorem Dev.regAct_rstctlWrite (d : Dev) (o : Origin) (v old : BitVec 64) : d.regAct (rstctlWrite o v) old = d := by rfl

theorem State.regActMem_rstctlWrite (s : State) (o : Origin) (v : BitVec 64) :
    s.regActMem (rstctlWrite o v) = s.rstctl o ((rstctlWrite o v).f 48 16) ((rstctlWrite o v).one 0) := by rfl

theorem State.regWrite_rstctl (s : State) (o : Origin) (v : BitVec 64) :
    s.regWrite o A_SYS_RSTCTL 8 v.toNat = s.rstctl o ((rstctlWrite o v).f 48 16) ((rstctlWrite o v).one 0) := by
  have hwrite : (⟨o, A_SYS_RSTCTL / 8 * 8, A_SYS_RSTCTL, 0, 0,
      BitVec.ofNat 64 ((2 ^ (8 * 8) - 1) * 2 ^ (8 * (A_SYS_RSTCTL % 8))),
      BitVec.ofNat 64 (v.toNat * 2 ^ (8 * (A_SYS_RSTCTL % 8))) &&&
        BitVec.ofNat 64 ((2 ^ (8 * 8) - 1) * 2 ^ (8 * (A_SYS_RSTCTL % 8)))⟩ : RegW) = rstctlWrite o v := by
    simp [rstctlWrite, A_SYS_RSTCTL]
  rw [State.regWrite, regDefAt_rstctl]
  dsimp only
  rw [hwrite, Dev.regStore_rstctlWrite, Dev.regAct_rstctlWrite, State.regActMem_rstctlWrite]

theorem State.busWrite_rstctl (s : State) (o : Origin) (v : BitVec 64) :
    (s.busWrite o A_SYS_RSTCTL 8 v.toNat).1 = s.rstctl o ((rstctlWrite o v).f 48 16) ((rstctlWrite o v).one 0) := by
  have he : accessErr A_SYS_RSTCTL 8 true = none := by decide
  have hr : regionOf A_SYS_RSTCTL = .reg := by decide
  unfold State.busWrite
  simp only [he, hr]
  exact s.regWrite_rstctl o v

/-- The key that a write of `v` carries is its upper 16 bits. -/
theorem rstctlWrite_key (o : Origin) (v : BitVec 64) : (rstctlWrite o v).f 48 16 = v.toNat / 2 ^ 48 := by
  have hlt : v.toNat / 2 ^ 48 < 2 ^ 16 := by have := v.isLt; omega
  simp only [RegW.f, fieldGet, rstctlWrite, BitVec.and_allOnes]
  exact Nat.mod_eq_of_lt hlt

theorem exec_rstctl {s : State} {o : Origin} (v : BitVec 64) (h : s.accesses o) :
    exec (.registerWrite o 0x40000060 .w64 v) s =
      .next (s.rstctl o (v.toNat / 2 ^ 48) ((rstctlWrite o v).one 0)) := by
  have hv : v.toNat % 2 ^ (8 * Width.w64.bytes) = v.toNat := Nat.mod_eq_of_lt v.isLt
  show execRegisterWrite _ _ _ _ _ = _
  rw [execRegisterWrite, State.byOriginMem_of_accesses h, hv, ← rstctlWrite_key o v]
  exact congrArg _ (s.busWrite_rstctl o v)

/-- A wrong key, or an origin that is not a pair in lockstep, is counted and does nothing else. -/
theorem State.rstctl_refused {s : State} {o : Origin} {key : Nat} (rst : Bool)
    (h : s.dev.lockOrigin o = false ∨ key ≠ 0xD2A6) :
    s.rstctl o key rst = { s with dev := s.dev.count SYS_BUSERR_KEY } := by
  rw [State.rstctl, if_pos (by simpa using h)]

theorem Dev.lockOrigin_core (d : Dev) (c : Fin 4) : d.lockOrigin (.core c) = false := rfl

theorem exec_appRst {s : State} {o : Origin} (key : BitVec 16) (rst : Bool) (h : s.accesses o) :
    exec (.appRst o key rst) s = .next (s.rstctl o key.toNat rst) := by
  show execAppRst _ _ _ _ = _
  rw [execAppRst, State.byOriginMem_of_accesses h]

/-- Settles O11: each of the three accesses reaches SYS_RSTCTL as a write that its key or its origin refuses. -/
theorem refusedResetWriteIsCounted : Obligations.RefusedResetWriteIsCounted := by
  unfold Obligations.RefusedResetWriteIsCounted
  refine ⟨fun s o key rst ha hkey => ?_, fun s c key rst ha => ?_, fun s o v ha hv => ?_⟩
  · have hne : key.toNat ≠ 0xD2A6 := fun h => hkey (BitVec.eq_of_toNat_eq h)
    exact ⟨_, exec_appRst key rst ha, State.rstctl_refused rst (.inr hne)⟩
  · exact ⟨_, exec_appRst key rst ha, State.rstctl_refused rst (.inl (s.dev.lockOrigin_core c))⟩
  · refine ⟨_, exec_rstctl v ha, State.rstctl_refused _ ?_⟩
    obtain hkey | ⟨c, rfl⟩ := hv
    · exact .inr hkey
    · exact .inl (s.dev.lockOrigin_core c)

end Sys2Proof.Machine
end

section
/-!
The reset values of the registers: how a row of the reset table is read, and what the families hold.
-/
namespace Sys2Proof.Machine

/-- A row gives its value at each of its own addresses. -/
theorem resetRow_hit {base s1 c1 s2 c2 a i j : Nat} (v : Nat → Nat → Nat) (rest : Nat) (hi : i < c1) (hj : j < c2)
    (hs : 0 < s2) (hfit : c2 * s2 ≤ s1) (ha : a = base + i * s1 + j * s2) :
    resetRow base s1 c1 s2 c2 v a rest = v i j := by
  have hlt : j * s2 < s1 := lt_of_lt_of_le (Nat.mul_lt_mul_of_pos_right hj hs) hfit
  have ho : a - base = j * s2 + s1 * i := by rw [Nat.mul_comm s1 i]; omega
  have hdiv : (j * s2 + s1 * i) / s1 = i := by
    rw [Nat.add_mul_div_left _ _ (by omega), Nat.div_eq_of_lt hlt, Nat.zero_add]
  have hmod : (j * s2 + s1 * i) % s1 = j * s2 := by rw [Nat.add_mul_mod_self_left, Nat.mod_eq_of_lt hlt]
  rw [resetRow, if_neg (by omega)]
  simp [ho, hdiv, hmod, hi, hj, hs]

/-- A row says nothing of an address below it. -/
theorem resetRow_below {base s1 c1 s2 c2 a : Nat} (v : Nat → Nat → Nat) (rest : Nat) (h : a < base) :
    resetRow base s1 c1 s2 c2 v a rest = rest := if_pos h

/-- A row says nothing of an address above it. -/
theorem resetRow_above {base s1 c1 s2 c2 a : Nat} (v : Nat → Nat → Nat) (rest : Nat) (hs : 0 < s1) (h : base + c1 * s1 ≤ a) :
    resetRow base s1 c1 s2 c2 v a rest = rest := by
  have hout : ¬ (a - base) / s1 < c1 := by
    rw [Nat.div_lt_iff_lt_mul hs]
    omega
  rw [resetRow, if_neg (by omega)]
  exact if_neg fun h => hout h.1

theorem State.reset_reg (a : Nat) : State.reset.dev.reg a = resetOf a := rfl

/-! ### The register families of the event router, the collector and the SFL connections -/

/-- The registers of the event router reset to 0. -/
theorem resetOf_evr {a : Nat} (h : 0x40010000 ≤ a) (h' : a < 0x40020000) : resetOf a = 0 := by
  simp (disch := omega) only [resetOf, if_neg, if_pos]
  rfl

theorem resetOf_cenc {a : Nat} (h : 0x41400000 ≤ a) (h' : a < 0x41408000) : resetOf a = BitVec.ofNat 64 (resetOfCENC a) := by
  simp (disch := omega) only [resetOf, if_neg, if_pos]

theorem resetOf_sfl {a : Nat} (h : 0x40B00000 ≤ a) (h' : a < 0x40C00000) : resetOf a = BitVec.ofNat 64 (resetOfSFL a) := by
  simp (disch := omega) only [resetOf, if_neg, if_pos]

theorem reset_evrPend {t j : Nat} (ht : t < 6) (hj : j < 12) : State.reset.dev.reg (A_EVR_PEND t j) = 0 := by
  rw [State.reset_reg, resetOf_evr] <;> simp only [A_EVR_PEND] <;> omega

theorem reset_evrStamp {k : Nat} (hk : k < 768) : State.reset.dev.reg (A_EVR_STAMP k) = 0 := by
  rw [State.reset_reg, resetOf_evr] <;> simp only [A_EVR_STAMP] <;> omega

/-- The collector's words lie between its other registers and their ages, and no row names them. -/
theorem reset_cenOut {w : Nat} (hw : w < 512) : State.reset.dev.reg (A_CEN_OUT w) = 0 := by
  rw [State.reset_reg, resetOf_cenc (by simp only [A_CEN_OUT]; omega) (by simp only [A_CEN_OUT]; omega), resetOfCENC,
    resetRow_above _ _ (by decide) (by simp only [A_CEN_OUT]; omega),
    resetRow_above _ _ (by decide) (by simp only [A_CEN_OUT]; omega), resetRow_below _ _ (by simp only [A_CEN_OUT]; omega)]
  rfl

theorem reset_cenAge {j : Nat} (hj : j < 64) : State.reset.dev.reg (A_CEN_AGE j) = BitVec.allOnes 64 := by
  rw [State.reset_reg, resetOf_cenc (by simp only [A_CEN_AGE]; omega) (by simp only [A_CEN_AGE]; omega), resetOfCENC,
    resetRow_above _ _ (by decide) (by simp only [A_CEN_AGE]; omega),
    resetRow_above _ _ (by decide) (by simp only [A_CEN_AGE]; omega),
    resetRow_hit (i := j) (j := 0) _ _ hj (by decide) (by decide) (by decide) (by simp only [A_CEN_AGE]; omega)]
  rfl

/-- Every byte of a register of ones is 255. -/
theorem fieldGet_allOnes_byte : ∀ i : Fin 8, fieldGet (BitVec.allOnes 64) (8 * i + 0) 8 = 255 := by decide

theorem reset_cenAge_age {w : Nat} (hw : w < 512) : State.reset.dev.get (CEN_AGE_AGE (w / 8) (w % 8)) = 255 := by
  show fieldGet (State.reset.dev.reg (A_CEN_AGE (w / 8))) (8 * (w % 8) + 0) 8 = 255
  rw [reset_cenAge (by omega)]
  exact fieldGet_allOnes_byte ⟨w % 8, by omega⟩

theorem reset_sflCcfg {k : Nat} (hk : k < 256) : State.reset.dev.reg (A_SFL_CCFG k) = 0xA000000000 := by
  rw [State.reset_reg, resetOf_sfl (by simp only [A_SFL_CCFG]; omega) (by simp only [A_SFL_CCFG]; omega), resetOfSFL,
    resetRow_above _ _ (by decide) (by simp only [A_SFL_CCFG]; omega),
    resetRow_above _ _ (by decide) (by simp only [A_SFL_CCFG]; omega),
    resetRow_hit (i := k) (j := 0) _ _ hk (by decide) (by decide) (by decide) (by simp only [A_SFL_CCFG]; omega)]
  rfl

theorem reset_sflConn {k : Nat} (hk : k < 256) :
    State.reset.dev.get (SFL_CCFG_TEXP k) = 160 ∧ State.reset.dev.get (SFL_CCFG_EN k) = 0 := by
  show fieldGet (State.reset.dev.reg (A_SFL_CCFG k)) 32 16 = 160 ∧ fieldGet (State.reset.dev.reg (A_SFL_CCFG k)) 63 1 = 0
  rw [reset_sflCcfg hk]
  decide

/-! ### Families of a few members -/

theorem reset_carriers (c : Fin 3) : State.reset.dev.get (PWM_HALF_HALF c) = 10000 ∧
    State.reset.dev.get (PWM_DT_MINP c) = 640 ∧ State.reset.dev.get (PWM_DT_DT_LH c) = 1280 ∧
    State.reset.dev.get (PWM_DT_DT_HL c) = 1280 := by
  revert c
  decide

theorem reset_axes (n : Fin 12) : State.reset.dev.get (STP_STAT_STATE n) = 0 ∧ State.reset.dev.get (STP_CUR_I_RUN n) = 0 ∧
    State.reset.dev.get (STP_CUR_I_HOLD n) = 0 ∧ State.reset.dev.get (STP_CUR_HOLD_MS n) = 200 ∧
    State.reset.dev.get (STP_CHOP_HYST n) = 200 ∧ State.reset.dev.get (STP_CHOP_FCH_MIN n) = 10 ∧
    State.reset.dev.get (STP_CHOP_FCH_MAX n) = 50 := by
  revert n
  decide

theorem reset_gateChannels (n : Fin 14) : State.reset.dev.get (GCH_STAT_STATE n) = 0 ∧ State.reset.dev.gchFlt n = 0 ∧
    State.reset.dev.get (GCH_SUP_VPOS_UV n) = 110 ∧ State.reset.dev.get (GCH_SUP_VPOS_OV n) = 210 ∧
    State.reset.dev.get (GCH_SUP_VNEG_LO n) = 90 ∧ State.reset.dev.get (GCH_SUP_VNEG_HI n) = 5 ∧
    State.reset.dev.get (GCH_SUP_MIS_NS n) = 1000 ∧ State.reset.dev.get (GCH_SUP_NTC_TRIP n) = 150 ∧
    State.reset.dev.get (GCH_DS_VDS_TH n) = 70 ∧ State.reset.dev.get (GCH_DS_DS_BLANK n) = 1000 ∧
    State.reset.dev.get (GCH_STAT_NTC n) = 255 ∧
    ∀ k : Fin 8, State.reset.dev.get (GCH_SEGON_SEG n k) = 12 ∧ State.reset.dev.get (GCH_SEGOFF_SEG n k) = 12 := by
  revert n
  decide

theorem reset_spoolChannels (c : Fin 16) :
    State.reset.dev.get (SPL_CHBUF_SIZE c) = 64 ∧ State.reset.dev.get (SPL_CHBUF_BASE c) = 64 * c := by
  revert c
  decide

theorem reset_canControllers (n : Fin 4) : State.reset.dev.get (CAN_STAT_STATE n) = 0 ∧
    State.reset.dev.get (CAN_CTL_AUTO_REC n) = 1 ∧ State.reset.dev.get (CAN_CTL_TRX_MODE n) = 0 ∧
    State.reset.dev.get (CAN_NBT_TRIPLE n) = 1 ∧ State.reset.dev.get (CAN_NBT_NBRP n) = 20 ∧
    State.reset.dev.get (CAN_NBT_NTSEG1 n) = 13 ∧ State.reset.dev.get (CAN_NBT_NTSEG2 n) = 2 ∧
    State.reset.dev.get (CAN_NBT_NSJW n) = 2 ∧ State.reset.dev.get (CAN_RXF_WM n) = 32 ∧
    State.reset.dev.get (CAN_TIME_PERIOD_MS n) = 50 := by
  revert n
  decide

/-- Settles O4: by the rows of the reset table; the families of hundreds of registers by their addresses, each other one by its few
members. -/
theorem resetHoldsSpecValues : Obligations.ResetHoldsSpecValues := by
  unfold Obligations.ResetHoldsSpecValues
  have hdom : ∀ k : Fin 256, State.reset.dev.get (SFL_CCFG_TEXP k) = 160 ∧ State.reset.dev.get (SFL_CCFG_EN k) = 0 :=
    fun k => reset_sflConn k.isLt
  exact ⟨by decide, by decide, by decide, fun w => ⟨reset_cenOut w.isLt, reset_cenAge_age w.isLt⟩,
    fun t j => reset_evrPend t.isLt j.isLt, fun k => reset_evrStamp k.isLt, reset_carriers, reset_axes, by decide,
    reset_gateChannels, reset_spoolChannels, by decide,
    ⟨by decide, by decide, by decide, by decide, by decide, by decide, by decide, by decide, hdom⟩, by decide,
    reset_canControllers⟩

end Sys2Proof.Machine
end

section
/-!
VHOLD_BELOW_MINIMUM during a flush (R47, R444): the command ends the flush, which shows in JNL_STAT and JNL_PLOSS.
-/
namespace Sys2Proof.Machine

/-- A supply loss whose flush has begun and still runs: FLUSHING is 1. -/
def flushingLoss : State :=
  { dev := (({ pwr := { vsupLow := true } } : Dev).set SYS_PWRSTATE_STATE 4).set JNL_STAT_FLUSHING 1 }

/-- Refutes O50: the clause on VHOLD_BELOW_MINIMUM says that no register changes. In `flushingLoss` the flush runs, and the command
ends it: FLUSHING, which was 1, reads 0. -/
theorem not_powerAndSleepComplete : ¬ Obligations.PowerAndSleepComplete := by
  unfold Obligations.PowerAndSleepComplete
  rintro ⟨-, -, -, -, -, -, -, hminimum, -⟩
  obtain ⟨t, ht, -, -, hregs⟩ := hminimum flushingLoss (by decide) (by decide)
  have hflush : t.dev.get JNL_STAT_FLUSHING = 1 := by
    rw [Dev.get, Dev.reg, hregs]
    rfl
  cases ht
  exact absurd hflush (by decide)

end Sys2Proof.Machine
end

section
/-!
Training of a gate channel under active short circuit (R73, R187): the side rule, applied again, commands other channels.
-/
namespace Sys2Proof.Machine

/-- Three channels of the low side: two with link and paths, the third with power and its paths but not trained. -/
def lowSideGates : List (Nat × Gch) :=
  [(1, { link := true, permit1 := true, permit2 := true }), (3, { link := true, permit1 := true, permit2 := true }),
   (5, { powered := true, permit1 := true, permit2 := true })]

/-- Thimble has selected active short circuit for set 0; while channel 5 is not trained the low side is not usable, so the set is
in pulse-off with its channels in OFF. -/
def lowSideUntrained : State :=
  { dev := ({ boot := { stage := 7 }, gch := lowSideGates } : Dev)
      |>.set SYS_GLINK_TRAINED 0b1010 |>.set (GCH_STAT_STATE 1) 1 |>.set (GCH_STAT_STATE 3) 1
      |>.set GCH_ASC_SEL0 1 |>.set GCH_ASC_MODE0 1 }

/-- The rails that the training of channel 5 reads back. -/
def lowSideRails : Rails := ⟨180, 40⟩

/-- With channel 5 the low side becomes usable, and channel 1 turns on. -/
theorem lowSideUntrained_trainDone_gate :
    (((lowSideUntrained.dev.supplyRead 5 lowSideRails).trainDone 5).gchAt 1).gate = true := by decide +kernel

theorem lowSideUntrained_trains (r : Rails) : exec (.gateLinkTrainingDone (5, r)) lowSideUntrained =
    .next { lowSideUntrained with dev := (lowSideUntrained.dev.supplyRead 5 r).trainDone 5 } := by
  have htrains : (lowSideUntrained.dev.canTrain 5 && !lowSideUntrained.dev.tb SYS_GLINK_FAIL 5) = true := by decide
  have hpowered : lowSideUntrained.dev.unpowered = false := by decide
  refine (State.main_powered _ hpowered).trans ?_
  exact congrArg (fun d => Host.Outcome.next { lowSideUntrained with dev := d }) (if_pos htrains)

theorem gch_not_mem_regs (f : Nat → Nat) (n c : Nat) : Part.gch c ∉ regs f n := by simp [regs]
theorem gch_not_mem_regs2 (f : Nat → Nat → Nat) (n m c : Nat) : Part.gch c ∉ regs2 f n m := by simp [regs2, gch_not_mem_regs]

theorem gch_not_mem_journals (c : Nat) : Part.gch c ∉ journals := by
  simp [journals, raises, gch_not_mem_regs, gch_not_mem_regs2, all]

/-- Refutes O52: the clause on GATE_LINK_TRAINING_DONE lists the record of the trained channel alone. In `lowSideUntrained` the
training of channel 5 makes the low side usable, the side rule is applied again (R187), and the gate of channel 1 turns on. -/
theorem not_powerAndStartFrames : ¬ Obligations.PowerAndStartFrames := by
  unfold Obligations.PowerAndStartFrames
  rintro ⟨-, -, -, -, -, -, -, -, -, -, -, -, -, -, -, -, -, -, htrain, -⟩
  obtain ⟨t, ht, hleaves⟩ := htrain lowSideUntrained (5, lowSideRails)
  have hsame : t.dev.gchAt 1 = lowSideUntrained.dev.gchAt 1 :=
    hleaves (.gch 1) (by simp [gch_not_mem_journals, gch_not_mem_regs, all])
  have hdev : t.dev = (lowSideUntrained.dev.supplyRead 5 lowSideRails).trainDone 5 := by
    injection (lowSideUntrained_trains lowSideRails).symm.trans ht with h
    rw [← h]
  have hon := lowSideUntrained_trainDone_gate
  rw [← hdev, hsame] at hon
  exact absurd hon (by decide)

end Sys2Proof.Machine
end

section
/-!
Properties of the device that the operations of Thimble's safe states keep (R28, R29): one rule per operation, for any property that
looks at the time, the start-up record and the registers of SYS, the event router and the debug module only.
-/
namespace Sys2Proof.Machine

/-! ## Properties that the safe states keep -/

/-- The registers of the blocks, of the time module and of the journal: those outside SYS, the event router and the debug
module. -/
def blockReg (a : Nat) : Prop := (0x40020000 ≤ a ∧ a < 0x40040000) ∨ 0x40100000 ≤ a

/-- `P` looks at the time, the start-up record and registers outside the blocks only, and holds on after any event. -/
structure Quiet (P : Dev → Prop) : Prop where
  /-- Records beside the registers other than the start-up record do not matter. -/
  beside : ∀ {d e : Dev}, P d → e.regs = d.regs → e.time = d.time → e.boot = d.boot → P e
  setReg : ∀ {d : Dev} {a : Nat} {v : BitVec 64}, P d → blockReg a → P (d.setReg a v)
  raise : ∀ {d : Dev} {k : Nat}, P d → k < 768 → P (d.raise k)

/-- The clock controller too keeps `P`, whichever blocks start or stop. -/
structure Steady (P : Dev → Prop) : Prop extends Quiet P where
  pllEval : ∀ {d : Dev} {p : Nat}, P d → p < 3 → P (d.pllEval p)

variable {P : Dev → Prop} {d : Dev}

/-! ### Control -/

theorem kept_when {c : Bool} {f : Dev → Dev} (h : P d) (hf : P d → P (f d)) : P (d.when c f) := by
  cases c
  · exact h
  · exact hf h

theorem kept_eachOf {α : Type} {l : List α} {f : α → Dev → Dev} (h : P d) (hf : ∀ {x e}, x ∈ l → P e → P (f x e)) :
    P (d.eachOf l f) := by
  unfold Dev.eachOf
  induction l generalizing d with
  | nil => exact h
  | cons x l ih => exact ih (hf (List.mem_cons_self ..) h) fun hx => hf (List.mem_cons_of_mem _ hx)

theorem kept_each {n : Nat} {f : Nat → Dev → Dev} (h : P d) (hf : ∀ {i e}, i < n → P e → P (f i e)) : P (d.each n f) :=
  kept_eachOf (l := List.range n) h fun hi => hf (List.mem_range.mp hi)

/-! ### Updates of the registers and records -/

theorem ascMode_addr (g : Nat) : 0x40100000 ≤ (ascMode g).addr := by
  unfold ascMode
  split <;> decide

namespace Quiet

theorem set (hP : Quiet P) {f : Fld} {v : Nat} (h : P d) (hf : 0x40100000 ≤ f.addr := by dsimp only; omega) : P (d.set f v) :=
  hP.setReg h (.inr hf)

theorem setB (hP : Quiet P) {f : Fld} {b : Bool} (h : P d) (hf : 0x40100000 ≤ f.addr := by dsimp only; omega) : P (d.setB f b) :=
  hP.set h hf

theorem setBits (hP : Quiet P) {f : Fld} {v : Nat} (h : P d) (hf : 0x40100000 ≤ f.addr := by dsimp only; omega) :
    P (d.setBits f v) := hP.set h hf

theorem clrBits (hP : Quiet P) {f : Fld} {v : Nat} (h : P d) (hf : 0x40100000 ≤ f.addr := by dsimp only; omega) :
    P (d.clrBits f v) := hP.set h hf

theorem add (hP : Quiet P) {f : Fld} {n : Nat} (h : P d) (hf : 0x40100000 ≤ f.addr := by dsimp only; omega) : P (d.add f n) :=
  hP.set h hf

theorem count (hP : Quiet P) {f : Fld} (h : P d) (hf : 0x40100000 ≤ f.addr := by dsimp only; omega) : P (d.count f) :=
  hP.set h hf

theorem foUpd (hP : Quiet P) {n : Nat} {f : Fo → Fo} (h : P d) : P (d.foUpd n f) := hP.beside h rfl rfl rfl
theorem gchUpd (hP : Quiet P) {n : Nat} {f : Gch → Gch} (h : P d) : P (d.gchUpd n f) := hP.beside h rfl rfl rfl
theorem carUpd (hP : Quiet P) {n : Nat} {f : Car → Car} (h : P d) : P (d.carUpd n f) := hP.beside h rfl rfl rfl
theorem cluUpd (hP : Quiet P) {n : Nat} {f : Clu → Clu} (h : P d) : P (d.cluUpd n f) := hP.beside h rfl rfl rfl
theorem posUpd (hP : Quiet P) {n : Nat} {f : Pos → Pos} (h : P d) : P (d.posUpd n f) := hP.beside h rfl rfl rfl
theorem tgrpUpd (hP : Quiet P) {n : Nat} {f : ThmGrp → ThmGrp} (h : P d) : P (d.tgrpUpd n f) := hP.beside h rfl rfl rfl
theorem axisUpd (hP : Quiet P) {n : Nat} {f : Axis → Axis} (h : P d) : P (d.axisUpd n f) := hP.beside h rfl rfl rfl
theorem portUpd (hP : Quiet P) {n : Nat} {f : Port → Port} (h : P d) : P (d.portUpd n f) := hP.beside h rfl rfl rfl
theorem slcUpd (hP : Quiet P) {n : Nat} {f : Slice → Slice} (h : P d) : P (d.slcUpd n f) := hP.beside h rfl rfl rfl

/-! ### Events and the journal -/

theorem trigCause (hP : Quiet P) {k : Nat} (h : P d) : P (d.trigCause k) := by
  unfold Dev.trigCause
  exact iteInduction (fun _ => kept_each h fun _ h => iteInduction (fun _ => hP.beside h rfl rfl rfl) fun _ => h) fun _ => h

theorem raiseIf (hP : Quiet P) {on : Bool} {k : Nat} (h : P d) (hk : k < 768) : P (d.raiseIf on k) := by
  unfold Dev.raiseIf
  exact iteInduction (fun _ => hP.raise h hk) fun _ => hP.trigCause h

theorem raiseLim (hP : Quiet P) {k c T : Nat} (h : P d) (hk : k < 768) : P (d.raiseLim k c T) := by
  unfold Dev.raiseLim
  exact iteInduction (fun _ => h) fun _ => hP.raise (hP.beside h rfl rfl rfl) hk

/-- The journal's registers hold its counts and its queue level. -/
theorem jnlPut (hP : Quiet P) {fw : Bool} {e : JEntry} (h : P d) : P (d.jnlPut fw e) := by
  have hjnl : ∀ {d : Dev} {f : Fld} {v : Nat}, P d → f.addr = A_JNL_STAT ∨ f.addr = A_JNL_CNT → P (d.set f v) :=
    fun h hf => hP.setReg h (.inl (by obtain hf | hf := hf <;> rw [hf] <;> decide))
  unfold Dev.jnlPut
  refine iteInduction (fun _ => hP.raiseLim (iteInduction (fun _ => ?_) fun _ => ?_) (by decide)) fun _ => ?_
  · exact hjnl (hP.beside h rfl rfl rfl) (.inr rfl)
  · exact hjnl (hP.beside h rfl rfl rfl) (.inr rfl)
  · exact hjnl (hP.beside h rfl rfl rfl) (.inl rfl)

theorem jnlThimble (hP : Quiet P) {src : Nat} (h : P d) : P (d.jnlThimble src) := hP.jnlPut h
theorem jnlFault (hP : Quiet P) {src a b : Nat} (h : P d) : P (d.jnlFault src a b) := hP.jnlPut h

/-! ### Gate channels, carriers and their brake -/

theorem gchPut (hP : Quiet P) {n st : Nat} (h : P d) : P (d.gchPut n st) := hP.set h

theorem gateOff (hP : Quiet P) {n : Nat} (h : P d) : P (d.gateOff n) := by
  unfold Dev.gateOff Dev.gateOffBy
  exact iteInduction (fun _ => hP.set (hP.gchUpd h)) fun _ => h

theorem gateOnAt (hP : Quiet P) {n t : Nat} (h : P d) : P (d.gateOnAt n t) := by
  unfold Dev.gateOnAt Dev.gateOnBy
  exact iteInduction (fun _ => h) fun _ => hP.set (hP.gchUpd h)

theorem gchOff (hP : Quiet P) {n : Nat} (h : P d) : P (d.gchOff n) := hP.gchPut (hP.gateOff h)

theorem driveEval (hP : Quiet P) {n : Nat} (h : P d) : P (d.driveEval n) := by
  unfold Dev.driveEval
  exact iteInduction (fun _ => hP.gchPut h) fun _ => iteInduction (fun _ => hP.gchOff h) fun _ => h

theorem showAsc (hP : Quiet P) (h : P d) : P d.showAsc := by
  unfold Dev.showAsc
  refine kept_each h fun {n _} _ h => ?_
  have hfs : 0x40100000 ≤ (if n < 6 then GCH_ASC_SUSP0 else GCH_ASC_SUSP1).addr := by split <;> decide
  have hfn : 0x40100000 ≤ (if n < 6 then GCH_ASC_NOON0 else GCH_ASC_NOON1).addr := by split <;> decide
  extract_lets b fs fn d1 d2
  have h2 : P d2 := iteInduction (fun _ => hP.setBits (hP.setB h) hfs) fun _ => hP.clrBits (hP.setB h) hfs
  exact iteInduction (fun _ => hP.setBits h2 hfn) fun _ => hP.clrBits h2 hfn

theorem ascSwitch (hP : Quiet P) {m n : Nat} (h : P d) : P (d.ascSwitch m n) := by
  unfold Dev.ascSwitch
  exact iteInduction (fun _ => h) fun _ => iteInduction
    (fun _ => iteInduction (fun _ => hP.gchPut (hP.gateOnAt h)) fun _ => h)
    fun _ => iteInduction (fun _ => hP.gchOff h) fun _ => h

theorem applySet (hP : Quiet P) {g : Nat} (h : P d) : P (d.applySet g) := by
  unfold Dev.applySet
  exact hP.set (kept_eachOf (kept_eachOf (hP.showAsc h) fun _ h => hP.ascSwitch h) fun _ h => hP.ascSwitch h) (ascMode_addr g)

theorem applySafe (hP : Quiet P) {g : Nat} (h : P d) : P (d.applySafe g) := kept_eachOf h fun _ h => hP.applySet h

theorem carIdle (hP : Quiet P) {c : Nat} (h : P d) : P (d.carIdle c) := by
  unfold Dev.carIdle
  exact iteInduction (fun _ => h) fun _ => kept_each (hP.set (hP.carUpd h)) fun _ h => hP.gchUpd h

theorem carFollow (hP : Quiet P) (h : P d) : P d.carFollow := by
  unfold Dev.carFollow
  exact iteInduction (fun _ => hP.carUpd (hP.setB h)) fun _ => h

theorem carApply (hP : Quiet P) {c k : Nat} (h : P d) : P (d.carApply c k) := by
  unfold Dev.carApply
  exact iteInduction (fun _ => h) fun _ => iteInduction (fun _ => hP.carUpd h) fun _ => hP.gchUpd (hP.carUpd h)

theorem carCmd (hP : Quiet P) {c k : Nat} {on : Bool} (h : P d) : P (d.carCmd c k on) := hP.carApply (hP.carUpd h)

theorem carRelease (hP : Quiet P) {c : Nat} (h : P d) : P (d.carRelease c) := by
  unfold Dev.carRelease
  exact kept_each h fun _ h => iteInduction (fun _ => hP.carApply (hP.carUpd h)) fun _ => h

theorem brakePulse (hP : Quiet P) (h : P d) : P d.brakePulse := by
  unfold Dev.brakePulse
  exact iteInduction (fun _ => hP.raiseIf (hP.carCmd (hP.carRelease (hP.set (hP.driveEval (hP.carUpd h))))) (by decide)) fun _ => h

theorem brakeDirect (hP : Quiet P) (h : P d) : P d.brakeDirect := by
  unfold Dev.brakeDirect
  exact iteInduction (fun _ => h) fun _ => hP.brakePulse (hP.carUpd (hP.jnlFault (hP.raise (hP.set h) (by decide))))

theorem showFrozen (hP : Quiet P) (h : P d) : P d.showFrozen := by
  unfold Dev.showFrozen Dev.brakeClock
  refine kept_when (hP.carFollow (kept_each h fun _ h => ?_)) hP.brakeDirect
  exact iteInduction (fun _ => h) fun _ => iteInduction (fun _ => hP.carUpd (hP.set (hP.set h)))
    fun _ => kept_when (hP.carUpd (hP.set h)) hP.brakePulse

/-! ### Field outputs, brake outputs and axes -/

theorem foPut (hP : Quiet P) {n st drive : Nat} (h : P d) : P (d.foPut n st drive) := by
  unfold Dev.foPut
  exact hP.foUpd (hP.setB (hP.set (kept_when h fun h => hP.set h)))

theorem brakeShow1 (hP : Quiet P) {n : Nat} {on : Bool} (h : P d) : P (d.brakeShow1 n on) := hP.foPut (hP.set h)

theorem brakeShow (hP : Quiet P) (h : P d) : P d.brakeShow := hP.setB (hP.brakeShow1 (hP.brakeShow1 h))

theorem brakeApply (hP : Quiet P) (h : P d) : P d.brakeApply := by
  unfold Dev.brakeApply
  extract_lets was _ d1
  have h1 : P d1 := hP.beside h rfl rfl rfl
  exact kept_when (hP.set (hP.set (hP.brakeShow h1))) fun h => hP.raise h (by decide)

theorem blindShow (hP : Quiet P) {n : Nat} (hn : n < 12) (h : P d) : P (d.blindShow n) := by
  unfold Dev.blindShow
  extract_lets blind d1
  have h1 : P d1 := kept_when h fun h => hP.axisUpd h
  exact iteInduction (fun _ => h1) fun _ => hP.raise (hP.setB h1) (by unfold stpSrc; omega)

theorem axHalt (hP : Quiet P) {n : Nat} (hn : n < 12) (h : P d) : P (d.axHalt n) := hP.blindShow hn (hP.axisUpd (hP.set h))

/-! ### Position ports and Thimble's groups -/

theorem posSrc (hP : Quiet P) {p src off : Nat} (hk : 192 + 8 * p + off < 768) (h : P d) : P (d.posSrc p src off) :=
  hP.raise (hP.setReg (hP.set h) (.inr (by simp only [A_POS_TST]; omega))) hk

theorem alignAbort (hP : Quiet P) {g : Nat} (h : P d) : P (d.alignAbort g) := by
  unfold Dev.alignAbort
  split
  · exact h
  · next p hp =>
    have hlt : p < 4 := List.mem_range.mp (List.mem_of_find?_eq_some hp)
    exact iteInduction (fun _ => hP.raise (hP.posSrc (by omega) (hP.set (hP.posUpd h))) (by omega)) fun _ => h

theorem thmPut (hP : Quiet P) {g st : Nat} (h : P d) : P (d.thmPut g st) := by
  unfold Dev.thmPut
  refine iteInduction (fun _ => h) fun _ => hP.jnlThimble (hP.raise (kept_eachOf h fun _ h => ?_) (by decide))
  exact iteInduction (fun _ => hP.set h) fun _ => hP.tgrpUpd (hP.set (hP.set h))

theorem thmSafe (hP : Quiet P) {g : Nat} (h : P d) : P (d.thmSafe g) := by
  unfold Dev.thmSafe
  exact iteInduction (fun _ => kept_when (hP.thmPut h) hP.brakeApply) fun _ => h

/-! ### Loop-assist instructions -/

theorem slFlt (hP : Quiet P) {n kind : Nat} (hn : n < 64) (h : P d) : P (d.slFlt n kind) := by
  unfold Dev.slFlt
  exact iteInduction (fun _ => hP.raiseLim h (by omega)) fun _ => hP.trigCause h

theorem flightPut (hP : Quiet P) {n : Nat} {l : List Flight} (h : P d) : P (d.flightPut n l) := hP.set (hP.slcUpd h)

theorem assistResult (hP : Quiet P) {n op : Nat} {a b : Int} (hn : n < 64) (h : P d) : P (d.assistResult n op a b).1 := by
  unfold Dev.assistResult
  split
  next e raw he =>
    refine hP.add ?_
    split at he <;> obtain ⟨rfl, rfl⟩ := Prod.mk.injEq .. ▸ he
    exacts [kept_when h fun h => hP.slFlt hn (hP.count h), kept_when h fun h => hP.slFlt hn (hP.count h), h, h, h, h]

theorem assistIssue (hP : Quiet P) {c : Nat} {r : LaReq} (h : P d) : P (d.assistIssue c r) := by
  have hn : d.assistSlice c < 64 := by
    unfold Dev.assistSlice
    split <;> exact Dev.get_lt ..
  unfold Dev.assistIssue
  exact iteInduction (fun _ => h) fun _ => hP.portUpd (hP.flightPut (hP.assistResult hn h))

theorem xPut (hP : Quiet P) {c rd : Nat} {v : BitVec 64} (h : P d) : P (d.xPut c rd v) := by
  unfold Dev.xPut
  exact iteInduction (fun _ => h) fun _ => iteInduction (fun _ => hP.portUpd (hP.portUpd h)) fun _ => hP.portUpd h

theorem laDo (hP : Quiet P) {c : Nat} {i : LaOp} (h : P d) : P (d.laDo c i) := by
  unfold Dev.laDo
  cases i with
  | read => exact hP.xPut (hP.portUpd h)
  | compute => exact hP.portUpd h
  | write => exact hP.portUpd h

theorem laServe (hP : Quiet P) {k c : Nat} {new : Bool} (h : P d) : P (Dev.laServe k new d c) := by
  induction k generalizing new d with
  | zero => exact h
  | succ k ih =>
    rw [Dev.laServe.eq_2]
    split
    · exact h
    · refine iteInduction (fun _ => ih (hP.laDo (hP.portUpd h))) fun _ => ?_
      split
      · exact kept_when h fun h => hP.count h
      · exact h

/-! ### The reference -/

theorem refAtStart (hP : Quiet P) (h : P d) : P d.refAtStart := by
  unfold Dev.refAtStart
  exact iteInduction (fun _ => kept_each (hP.set h) fun hi h => hP.raise h (by omega)) fun _ => h

end Quiet

/-! ### The clock controller follows -/

theorem Dev.mem_groups_lt {g x : Nat} (hg : g < 2) (h : x ∈ d.groups g) : x < 2 := by
  unfold Dev.groups at h
  split at h <;> simp at h <;> omega

theorem Dev.mem_allGroups_lt {x : Nat} (h : x ∈ d.allGroups) : x < 2 := by
  unfold Dev.allGroups at h
  split at h <;> simp at h <;> omega

namespace Steady

theorem clkEval (hP : Steady P) (h : P d) : P d.clkEval := kept_each h fun hp h => hP.pllEval h hp

theorem axPut (hP : Steady P) {n st : Nat} (hn : n < 12) (h : P d) : P (d.axPut n st) := by
  unfold Dev.axPut
  exact iteInduction (fun _ => h) fun _ => hP.clkEval (hP.raise (hP.set h) (by unfold stpSrc; omega))

theorem cluPut1 (hP : Steady P) {g st : Nat} (hg : g < 2) (h : P d) : P (d.cluPut1 g st) := by
  unfold Dev.cluPut1
  extract_lets old d1 d2 d3
  have h1 : P d1 := hP.raise (hP.set h) (by omega)
  have h2 : P d2 := iteInduction (fun _ => iteInduction (fun _ => h1) fun _ => hP.set h1 (ascMode_addr g))
    fun _ => hP.set (hP.carIdle h1)
  have h3 : P d3 := iteInduction (fun _ => iteInduction (fun _ => hP.cluUpd h2) fun _ => h2) fun _ => hP.set (hP.cluUpd h2)
  exact iteInduction (fun _ => h) fun _ => hP.clkEval (kept_eachOf h3 fun _ h => hP.driveEval h)

theorem cluSafe (hP : Steady P) {g : Nat} (hg : g < 2) (h : P d) : P (d.cluSafe g) := by
  unfold Dev.cluSafe
  exact iteInduction (fun _ => kept_eachOf (hP.alignAbort h) fun hx h => hP.cluPut1 (Dev.mem_groups_lt hg hx) h) fun _ => h

theorem groupSafe (hP : Steady P) {g : Nat} {cmd : Bool} (hg : g < 2) (h : P d) : P (d.groupSafe g cmd) :=
  hP.applySafe (kept_when (hP.cluSafe hg h) fun h => hP.thmSafe h)

theorem clockSafe (hP : Steady P) (h : P d) : P d.clockSafe := by
  unfold Dev.clockSafe Dev.axBridgesOff
  refine hP.brakeApply (kept_each (kept_each (kept_eachOf h fun hg h => hP.groupSafe (Dev.mem_allGroups_lt hg) h) ?_) ?_)
  · exact fun hn h => iteInduction (fun _ => h) fun _ => hP.axPut hn (hP.axisUpd (hP.axHalt hn (hP.set h)))
  · exact fun _ h => iteInduction (fun _ => h) fun _ => hP.foPut (hP.set h)

theorem laResume (hP : Steady P) (h : P d) : P d.laResume := by
  unfold Dev.laResume Dev.laPump Dev.assistPump
  refine kept_each h fun _ h => kept_when h fun h => hP.clkEval (kept_each (hP.laServe h) fun _ h => ?_)
  exact kept_eachOf h fun _ h => hP.assistIssue h

end Steady

end Sys2Proof.Machine
end

section
/-!
The clock controller (R27, R28): which states it moves, and which requests it sees.
-/
namespace Sys2Proof.Machine

/-! ## The fields of the clock controller -/

section
variable (d : Dev)

theorem pllFld_addr (p : Nat) : (pllFld p).addr = A_SYS_CLKSTAT := by
  unfold pllFld
  split
  · rfl
  · split <;> rfl

theorem pllReqFld_addr (p : Nat) : (pllReqFld p).addr = A_SYS_CLKREQ := by
  unfold pllReqFld
  split
  · rfl
  · split <;> rfl

/-- The states of two PLLs share no bit. -/
theorem pllFld_disjoint {p q : Nat} (hp : p < 3) (hq : q < 3) (hne : p ≠ q) :
    (pllFld q).lo + (pllFld q).w ≤ (pllFld p).lo ∨ (pllFld p).lo + (pllFld p).w ≤ (pllFld q).lo := by
  have hlo : ∀ r : Fin 3, (pllFld r).lo = 4 * r ∧ (pllFld r).w = 4 := by decide
  obtain ⟨hpl, hpw⟩ := hlo ⟨p, hp⟩
  obtain ⟨hql, hqw⟩ := hlo ⟨q, hq⟩
  dsimp only at hpl hpw hql hqw
  omega

theorem Dev.get_set_pllFld (p : Nat) {v : Nat} (hv : v < 16) : (d.set (pllFld p) v).get (pllFld p) = v := by
  have hfits : (pllFld p).lo + (pllFld p).w ≤ 64 ∧ (pllFld p).w = 4 := by
    unfold pllFld
    split
    · decide
    · split <;> decide
  rw [Dev.get_set_same d v hfits.1, hfits.2]
  exact Nat.mod_eq_of_lt hv

/-- A PLL state leaves every other register alone. -/
theorem Dev.get_set_pllFld_addr (p v : Nat) {f : Fld} (hf : f.addr ≠ A_SYS_CLKSTAT) : (d.set (pllFld p) v).get f = d.get f :=
  Dev.get_set_addr d v (by rwa [pllFld_addr])

/-! ### What the clock controller does -/

/-- It leaves a PLL alone or moves one that is OFF or in HOLDOFF, or one that is LOCKED and that nothing requests. -/
theorem Dev.pllEval_cases (q : Nat) : d.pllEval q = d ∨
    ∃ v, d.get (pllFld q) ≠ 4 ∧ (d.get (pllFld q) = 2 → d.pllWanted q = false) ∧ d.pllEval q = d.set (pllFld q) v := by
  unfold Dev.pllEval
  split
  · unfold Dev.pllReq
    split
    · next h => exact .inr ⟨1, by omega, by omega, rfl⟩
    · split
      · next h => exact .inr ⟨2, by omega, by omega, rfl⟩
      · exact .inl rfl
  · next hw =>
    unfold Dev.pllRelease
    split
    · next h => exact .inr ⟨3, by omega, fun _ => by simpa using hw, rfl⟩
    · exact .inl rfl

theorem Dev.pllReq_off {p : Nat} (h : d.get (pllFld p) = 0) : d.pllReq p = d.set (pllFld p) 1 := if_pos h

theorem Dev.pllReq_holdoff {p : Nat} (h : d.get (pllFld p) = 3) : d.pllReq p = d.set (pllFld p) 2 := by
  rw [Dev.pllReq, if_neg (by omega), if_pos h]

theorem Dev.pllRelease_wanted {p : Nat} (h : d.pllWanted p = true) : d.pllRelease p = d := by
  simp [Dev.pllRelease, h]

theorem Dev.pllRelease_last {p : Nat} (hw : d.pllWanted p = false) (h : d.get (pllFld p) = 2) :
    d.pllRelease p = d.set (pllFld p) 3 := by
  simp [Dev.pllRelease, hw, h]

/-! ### Requests -/

/-- The state of the module in which requests are granted. -/
def Dev.grants : Prop := d.get SYS_PWRSTATE_STATE ≠ 3 ∧ d.get SYS_PWRSTATE_STATE ≠ 4

theorem Dev.pllWanted_of_bit {p : Nat} (hg : d.grants) (h : d.bit (pllReqFld p) = true) : d.pllWanted p = true := by
  obtain ⟨h3, h4⟩ := hg
  simp [Dev.pllWanted, h3, h4, h]

theorem Dev.pllMark_get (p : Nat) (fw on : Bool) {f : Fld} (hf : f.addr ≠ A_SYS_CLKREQ) :
    (d.pllMark p fw on).get f = d.get f := by
  cases fw
  · rfl
  · exact Dev.get_set_addr d _ (by rwa [pllReqFld_addr])

theorem Dev.get_setB_pllReqFld (p : Nat) (on : Bool) : (d.setB (pllReqFld p) on).get (pllReqFld p) = if on then 1 else 0 := by
  unfold pllReqFld
  split
  · exact Dev.get_setB_same d on (by decide) (by decide)
  · split <;> exact Dev.get_setB_same d on (by decide) (by decide)

/-- A request of firmware or of hardware is one. -/
theorem Dev.pllWanted_pllMark {p : Nat} (fw : Bool) (hg : d.grants) : (d.pllMark p fw true).pllWanted p = true := by
  obtain ⟨h3, h4⟩ := hg
  cases fw
  · have hbit : (d.pwr.pllHw ||| 2 ^ p).testBit p = true := by simp
    have h3' : (d.pllMark p false true).get SYS_PWRSTATE_STATE ≠ 3 := h3
    have h4' : (d.pllMark p false true).get SYS_PWRSTATE_STATE ≠ 4 := h4
    simp [Dev.pllWanted, h3', h4', show (d.pllMark p false true).pwr.pllHw = d.pwr.pllHw ||| 2 ^ p from rfl]
  · refine Dev.pllWanted_of_bit _ ⟨?_, ?_⟩ ?_
    · rwa [Dev.pllMark_get d p true true (by decide)]
    · rwa [Dev.pllMark_get d p true true (by decide)]
    · simp [Dev.bit, Dev.pllMark, Dev.get_setB_pllReqFld]

/-- Hardware's own requests look at no firmware request. -/
theorem Dev.hwWants_setB_pllReqFld (p q : Nat) (on : Bool) : (d.setB (pllReqFld p) on).hwWants q = d.hwWants q := by
  have hreg : ∀ a, a ≠ A_SYS_CLKREQ → (d.setB (pllReqFld p) on).reg a = d.reg a := fun a ha =>
    Dev.reg_setB_ne d on (by rwa [pllReqFld_addr])
  simp (disch := (simp only [A_SYS_CLKREQ]; omega)) only [Dev.hwWants, Dev.driving, Dev.engBusy, Dev.cvtBusy, Dev.bit,
    Dev.get, hreg] <;> rfl
end

end Sys2Proof.Machine
end

section
/-!
The properties that the commands of the clock controller establish: quiet, and steady where the clock controller keeps them.
-/
namespace Sys2Proof.Machine

variable {P Q : Dev → Prop} {d : Dev}

/-! ## What is quiet and what is steady -/

theorem Quiet.and (hP : Quiet P) (hQ : Quiet Q) : Quiet fun d => P d ∧ Q d where
  beside h hr ht hb := ⟨hP.beside h.1 hr ht hb, hQ.beside h.2 hr ht hb⟩
  setReg h ha := ⟨hP.setReg h.1 ha, hQ.setReg h.2 ha⟩
  raise h hk := ⟨hP.raise h.1 hk, hQ.raise h.2 hk⟩

/-- A register of SYS or of the debug module. -/
theorem quiet_reg {a : Nat} (ha : a < 0x40010000 ∨ (0x40040000 ≤ a ∧ a < 0x40100000)) (R : BitVec 64 → Prop) :
    Quiet fun d => R (d.reg a) where
  beside {d e} h hr _ _ := by
    have he : e.reg a = d.reg a := by rw [Dev.reg, hr, Dev.reg]
    simpa only [he] using h
  setReg {d b v} h hb := by
    have hne : a ≠ b := by unfold blockReg at hb; omega
    simpa only [Dev.reg_setReg_ne d v hne] using h
  raise {d k} h hk := by
    have hfree : raiseFree a := by
      simp only [raiseFree, A_EVR_STAMP, A_EVR_PEND, A_EVR_CNT, A_SPL_CHST, A_SPL_CHCNT, A_SPL_STAT, A_SPL_CNT, A_SPL_TSTAMP]
      exact ⟨by omega, by omega, by omega, by omega, by omega⟩
    simpa only [Dev.raise_reg d hk hfree] using h

/-- A field of SYS. -/
theorem quiet_get {f : Fld} (hf : f.addr < 0x40010000) (R : Nat → Prop) : Quiet fun d => R (d.get f) :=
  quiet_reg (.inl hf) fun x => R (fieldGet x f.lo f.w)

theorem quiet_time (t : Nat) : Quiet fun d => d.time = t where
  beside h _ ht _ := ht.trans h
  setReg h _ := h
  raise h _ := (Dev.raise_time ..).trans h

theorem quiet_stage (n : Nat) : Quiet fun d => d.boot.stage = n where
  beside h _ _ hb := (congrArg Boot.stage hb).trans h
  setReg h _ := h
  raise h _ := (congrArg Boot.stage (Dev.raise_boot ..)).trans h

theorem Dev.evrPend_stamp (d : Dev) {j k t : Nat} (hk : k < 768) (hj : j < 768) (ht : t < 6) :
    (d.evrPend t k).reg (A_EVR_STAMP j) = d.reg (A_EVR_STAMP j) := by
  unfold Dev.evrPend
  dsimp only
  split
  · rw [Dev.reg_count_ne _ (by simp only [A_EVR_STAMP]; omega), Dev.evrKeep_reg]
  · rw [Dev.reg_set_ne _ _ (by simp only [evrBit, A_EVR_STAMP, A_EVR_PEND]; omega), Dev.evrKeep_reg]

theorem Dev.splTrigger_stamp (d : Dev) {j : Nat} (hj : j < 768) : d.splTrigger.reg (A_EVR_STAMP j) = d.reg (A_EVR_STAMP j) := by
  unfold Dev.splTrigger
  split
  · exact Dev.splFire_reg _ (by simp only [A_EVR_STAMP, A_SPL_STAT]; omega) (by simp only [A_EVR_STAMP, A_SPL_TSTAMP]; omega)
      fun c _ => by simp only [A_EVR_STAMP, A_SPL_CHST]; omega
  · split
    · exact Dev.reg_count_ne _ (by simp only [A_EVR_STAMP]; omega)
    · rfl

theorem Dev.splEvent_stamp (d : Dev) {j : Nat} (k : Nat) (hj : j < 768) :
    (d.splEvent k).reg (A_EVR_STAMP j) = d.reg (A_EVR_STAMP j) := by
  unfold Dev.splEvent
  dsimp only
  rw [Dev.when_keeps _ (·.reg (A_EVR_STAMP j)) (Dev.splTrigger_stamp _ hj)]
  exact Dev.splFeed_reg _ _ _ _ fun c _ => by simp only [A_EVR_STAMP, A_SPL_CHCNT]; omega

/-- A raise leaves the stamp of every other source alone. -/
theorem Dev.raise_stamp_ne (d : Dev) {j k : Nat} (hk : k < 768) (hj : j < 768) (hne : j ≠ k) :
    (d.raise k).reg (A_EVR_STAMP j) = d.reg (A_EVR_STAMP j) := by
  unfold Dev.raise
  dsimp only
  rw [Dev.trigCause_keeps _ (·.reg (A_EVR_STAMP j)) fun _ _ => rfl, Dev.splEvent_stamp _ k hj,
    Dev.each_keeps_lt _ (·.reg (A_EVR_STAMP j)) 6 fun t ht e => e.when_keeps (·.reg (A_EVR_STAMP j)) (e.evrPend_stamp hk hj ht),
    Dev.reg_setReg_ne _ _ (by simp only [A_EVR_STAMP]; omega)]

/-- A source has been stamped with the time. -/
def Dev.stamped (k t : Nat) (d : Dev) : Prop := d.time = t ∧ d.reg (A_EVR_STAMP k) = BitVec.ofNat 64 t

theorem Dev.raise_stamped {k t : Nat} (hk : k < 768) (h : d.time = t) : (d.raise k).stamped k t :=
  ⟨(Dev.raise_time ..).trans h, h ▸ Dev.raise_stamp d hk⟩

theorem quiet_stamped {k : Nat} (t : Nat) (hk : k < 768) : Quiet (Dev.stamped k t) where
  beside {d e} h hr ht _ := ⟨ht.trans h.1, by rw [Dev.reg, hr]; exact h.2⟩
  setReg {d a v} h ha := ⟨h.1, by
    have hne : A_EVR_STAMP k ≠ a := by unfold blockReg at ha; simp only [A_EVR_STAMP]; omega
    rw [Dev.reg_setReg_ne d v hne]
    exact h.2⟩
  raise {d j} h hj := by
    by_cases hjk : j = k
    · exact hjk ▸ Dev.raise_stamped hj h.1
    · exact ⟨(Dev.raise_time ..).trans h.1, (d.raise_stamp_ne hj hk (Ne.symm hjk)).trans h.2⟩

/-- What holds whatever a PLL's state becomes is steady. -/
theorem Quiet.steady (hP : Quiet P) (hpll : ∀ {d p v}, P d → P (d.set (pllFld p) v)) : Steady P where
  toQuiet := hP
  pllEval {d q} h _ := by
    obtain heq | ⟨v, -, -, heq⟩ := d.pllEval_cases q
    · rwa [heq]
    · rw [heq]
      exact hpll h

theorem steady_stamped {k : Nat} (t : Nat) (hk : k < 768) : Steady (Dev.stamped k t) :=
  (quiet_stamped t hk).steady fun {d p v} h => ⟨h.1, by
    have hne : A_EVR_STAMP k ≠ (pllFld p).addr := by rw [pllFld_addr]; simp only [A_EVR_STAMP, A_SYS_CLKSTAT]; omega
    rw [Dev.reg_set_ne d v hne]
    exact h.2⟩

/-- REFFAIL shares its register with the PLL states. -/
theorem steady_refFail : Steady fun d => d.get SYS_CLKSTAT_REFFAIL = 1 :=
  (quiet_get (by decide) (· = 1)).steady fun {d p v} h => by
    have hbits : (pllFld p).lo + (pllFld p).w ≤ 12 := by
      unfold pllFld
      split
      · decide
      · split <;> decide
    rw [Dev.get_set_bits d v (by rw [pllFld_addr]) (.inr hbits)]
    exact h

/-- The clock controller leaves a PLL in FAULT alone, and a LOCKED one that is requested. -/
theorem Dev.get_pllEval (d : Dev) {p q : Nat} (hp : p < 3) (hq : q < 3)
    (h : d.get (pllFld p) = 4 ∨ (d.get (pllFld p) = 2 ∧ d.pllWanted p = true)) :
    (d.pllEval q).get (pllFld p) = d.get (pllFld p) := by
  obtain heq | ⟨v, hnot, hfree, heq⟩ := d.pllEval_cases q
  · rw [heq]
  · obtain rfl | hne := eq_or_ne p q
    · obtain h4 | ⟨h2, hw⟩ := h
      · exact absurd h4 hnot
      · exact absurd (hfree h2) (by simp [hw])
    · rw [heq, Dev.get_set_bits d v (by simp only [pllFld_addr]) (pllFld_disjoint hq hp hne.symm)]

/-- FAULT is left by a reset only. -/
theorem steady_fault {p : Nat} (hp : p < 3) : Steady fun d => d.get (pllFld p) = 4 where
  toQuiet := quiet_get (by rw [pllFld_addr]; decide) (· = 4)
  pllEval {d q} h hq := (d.get_pllEval hp hq (.inl h)).trans h

/-- PLL `p` is LOCKED and firmware requests it, while requests are granted. -/
def Dev.lockedFor (p : Nat) (d : Dev) : Prop := d.get (pllFld p) = 2 ∧ d.grants ∧ d.bit (pllReqFld p) = true

theorem Dev.lockedFor_wanted {p : Nat} (h : d.lockedFor p) : d.pllWanted p = true := Dev.pllWanted_of_bit d h.2.1 h.2.2

theorem quiet_lockedFor (p : Nat) : Quiet (Dev.lockedFor p) :=
  (quiet_get (by rw [pllFld_addr]; decide) (· = 2)).and
    ((quiet_get (f := SYS_PWRSTATE_STATE) (by decide) fun x => x ≠ 3 ∧ x ≠ 4).and
      (quiet_get (by rw [pllReqFld_addr]; decide) fun x => decide (x ≠ 0) = true))

theorem Dev.lockedFor_set {p q v : Nat} (h : d.lockedFor p) (h2 : (d.set (pllFld q) v).get (pllFld p) = 2) :
    (d.set (pllFld q) v).lockedFor p := by
  obtain ⟨-, ⟨h3, h4⟩, hreq⟩ := h
  refine ⟨h2, ⟨?_, ?_⟩, ?_⟩
  · rwa [Dev.get_set_pllFld_addr d q v (by decide)]
  · rwa [Dev.get_set_pllFld_addr d q v (by decide)]
  · rwa [Dev.bit, Dev.get_set_pllFld_addr d q v (by rw [pllReqFld_addr]; decide)]

theorem steady_lockedFor {p : Nat} (hp : p < 3) : Steady (Dev.lockedFor p) where
  toQuiet := quiet_lockedFor p
  pllEval {d q} h hq := by
    have hget : (d.pllEval q).get (pllFld p) = 2 := (d.get_pllEval hp hq (.inr ⟨h.1, Dev.lockedFor_wanted h⟩)).trans h.1
    obtain heq | ⟨v, -, -, heq⟩ := d.pllEval_cases q
    · rwa [heq]
    · rw [heq] at hget ⊢
      exact Dev.lockedFor_set h hget

end Sys2Proof.Machine
end

section
/-!
The commands of the clock controller (R28, R29) and the application-side resets (R34, R35, R285, R286, R300): each completes with
the state that its rule names.
-/
namespace Sys2Proof.Machine

/-! ## The commands of the clock controller -/

theorem completes_main {c : Instr} {s : State} {f : Dev → Dev} {R : State → Prop} (hc : exec c s = s.main f)
    (hp : s.powered) (h : R { s with dev := f s.dev }) : Completes c s R :=
  ⟨_, hc.trans (State.main_powered f hp), h⟩

theorem completes_pllRequest {s : State} {p : Fin 3} {fw : Bool} {v : Nat} (hp : s.powered) (hask : s.dev.pllAsk fw = true)
    (hg : s.dev.grants) (hv : v < 16) (hreq : (s.dev.pllMark p fw true).pllReq p = (s.dev.pllMark p fw true).set (pllFld p) v) :
    Completes (.pllRequest p fw) s fun t => t.dev.get (pllFld p) = v := by
  refine completes_main rfl hp ?_
  dsimp only [Dev.when]
  rw [if_pos hask, Dev.pllEval, if_pos (s.dev.pllWanted_pllMark fw hg), hreq]
  exact Dev.get_set_pllFld _ p hv

theorem Dev.get_pllFld_pllMark (d : Dev) (p : Fin 3) (fw on : Bool) : (d.pllMark p fw on).get (pllFld p) = d.get (pllFld p) :=
  d.pllMark_get p fw on (by rw [pllFld_addr]; decide)

theorem pllRequest_starts (s : State) (p : Fin 3) (fw : Bool) (hp : s.powered) (hask : s.dev.pllAsk fw = true)
    (h3 : s.dev.get SYS_PWRSTATE_STATE ≠ 3) (h4 : s.dev.get SYS_PWRSTATE_STATE ≠ 4) (h : s.dev.get (pllFld p) = 0) :
    Completes (.pllRequest p fw) s fun t => t.dev.get (pllFld p) = 1 :=
  completes_pllRequest hp hask ⟨h3, h4⟩ (by decide) (Dev.pllReq_off _ ((s.dev.get_pllFld_pllMark p fw true).trans h))

theorem pllRequest_returns (s : State) (p : Fin 3) (fw : Bool) (hp : s.powered) (hask : s.dev.pllAsk fw = true)
    (h3 : s.dev.get SYS_PWRSTATE_STATE ≠ 3) (h4 : s.dev.get SYS_PWRSTATE_STATE ≠ 4) (h : s.dev.get (pllFld p) = 3) :
    Completes (.pllRequest p fw) s fun t => t.dev.get (pllFld p) = 2 :=
  completes_pllRequest hp hask ⟨h3, h4⟩ (by decide) (Dev.pllReq_holdoff _ ((s.dev.get_pllFld_pllMark p fw true).trans h))

/-- Nothing that follows a lock moves the PLL, which is requested. -/
theorem pllLock_locks (s : State) (p : Fin 3) (hp : s.powered) (h : s.dev.get (pllFld p) = 1)
    (hreq : s.dev.bit (pllReqFld p) = true) (h3 : s.dev.get SYS_PWRSTATE_STATE ≠ 3) (h4 : s.dev.get SYS_PWRSTATE_STATE ≠ 4) :
    Completes (.pllLock p) s fun t => t.dev.get (pllFld p) = 2 := by
  have hP := steady_lockedFor p.isLt
  have hget : (s.dev.set (pllFld p) 2).get (pllFld p) = 2 := s.dev.get_set_pllFld p (by decide)
  have hset : (s.dev.set (pllFld p) 2).lockedFor p := by
    refine ⟨hget, ⟨?_, ?_⟩, ?_⟩
    · rwa [Dev.get_set_pllFld_addr _ p 2 (by decide)]
    · rwa [Dev.get_set_pllFld_addr _ p 2 (by decide)]
    · rwa [Dev.bit, Dev.get_set_pllFld_addr _ p 2 (by rw [pllReqFld_addr]; decide)]
  have hlocked := hP.laResume (hP.refAtStart (hP.showFrozen hset))
  refine completes_main rfl hp ?_
  dsimp only
  rw [if_pos h, Dev.pllRelease_wanted _ (Dev.lockedFor_wanted hlocked)]
  exact hlocked.1

/-- A PLL that enters FAULT stays there, and its event bears the time. -/
theorem Dev.pllFault_spec (d : Dev) (p : Fin 3) :
    (d.pllFault p).get (pllFld p) = 4 ∧ (d.pllFault p).stamped (745 + p) d.time := by
  have hfault := steady_fault p.isLt
  have hframe : (d.set (pllFld p) 4).showFrozen.get (pllFld p) = 4 := hfault.showFrozen (d.get_set_pllFld p (by decide))
  have htime : (d.set (pllFld p) 4).showFrozen.time = d.time := (quiet_time d.time).showFrozen rfl
  have hk : 745 + p.val < 768 := by omega
  exact ⟨hfault.clockSafe (hfault.raise hframe hk), (steady_stamped d.time hk).clockSafe (Dev.raise_stamped hk htime)⟩

theorem pllLockTimeout_faults (s : State) (p : Fin 3) (hp : s.powered) (h : s.dev.get (pllFld p) = 1) :
    Completes (.pllLockTimeout p) s fun t => t.dev.get (pllFld p) = 4 ∧ Raised (745 + p) s t := by
  refine completes_main rfl hp ?_
  dsimp only
  rw [if_pos h]
  exact (Dev.pllFault_spec _ p).imp_right And.right

theorem pllLockLost_faults (s : State) (p : Fin 3) (hp : s.powered)
    (h : s.dev.get (pllFld p) = 2 ∨ s.dev.get (pllFld p) = 3) :
    Completes (.pllLockLost p) s fun t => t.dev.get (pllFld p) = 4 ∧ Raised (745 + p) s t := by
  refine completes_main rfl hp ?_
  dsimp only
  rw [if_pos h]
  exact (s.dev.pllFault_spec p).imp_right And.right

theorem pllLastRequestReleased_holdsOff (s : State) (p : Fin 3) (hu : s.inUse) (h : s.dev.get (pllFld p) = 2)
    (hhw : s.dev.pwr.pllHw.testBit p = false) (hwants : s.dev.hwWants p = false) :
    Completes (.pllLastRequestReleased p true) s fun t => t.dev.get (pllFld p) = 3 ∧ t.dev.get (pllReqFld p) = 0 := by
  obtain ⟨⟨hp, hclk⟩, hactive⟩ := hu
  have hask : s.dev.pllAsk true = true := by simp [Dev.pllAsk, hactive, hclk]
  have hreq : (s.dev.pllMark p true false).get (pllReqFld p) = 0 := s.dev.get_setB_pllReqFld p false
  have hw : (s.dev.pllMark p true false).pllWanted p = false := by
    have hwants' : (s.dev.pllMark p true false).hwWants p = false := (s.dev.hwWants_setB_pllReqFld p p false).trans hwants
    have hhw' : (s.dev.pllMark p true false).pwr.pllHw.testBit p = false := hhw
    simp [Dev.pllWanted, hwants', hhw', Dev.bit, hreq]
  refine completes_main rfl hp ?_
  dsimp only [Dev.when]
  rw [if_pos hask, Dev.pllRelease_last _ hw ((s.dev.get_pllFld_pllMark p true false).trans h)]
  refine ⟨Dev.get_set_pllFld _ p (by decide), ?_⟩
  rwa [Dev.get_set_pllFld_addr _ p 3 (by rw [pllReqFld_addr]; decide)]

theorem pllHoldoffExpire_stops (s : State) (p : Fin 3) (hp : s.powered) (h : s.dev.get (pllFld p) = 3)
    (hw : s.dev.pllWanted p = false) : Completes (.pllHoldoffExpire p false) s fun t => t.dev.get (pllFld p) = 0 := by
  refine completes_main rfl hp ?_
  dsimp only
  rw [if_pos h, Dev.when_false, if_neg (by simp [hw])]
  exact (quiet_get (by rw [pllFld_addr]; decide) (· = 0)).showFrozen (s.dev.get_set_pllFld p (by decide))

theorem pllHoldoffExpire_returns (s : State) (p : Fin 3) (hp : s.powered) (h : s.dev.get (pllFld p) = 3)
    (h3 : s.dev.get SYS_PWRSTATE_STATE ≠ 3) (h4 : s.dev.get SYS_PWRSTATE_STATE ≠ 4) :
    Completes (.pllHoldoffExpire p true) s fun t => t.dev.get (pllFld p) = 2 := by
  refine completes_main rfl hp ?_
  dsimp only
  rw [if_pos h, Dev.when_true, if_pos (s.dev.pllWanted_pllMark false ⟨h3, h4⟩)]
  exact Dev.get_set_pllFld _ p (by decide)

theorem referenceFailure_shows (s : State) (hp : s.powered) :
    Completes .referenceFailure s fun t => t.dev.get SYS_CLKSTAT_REFFAIL = 1 ∧ Raised 748 s t := by
  have hset : (s.dev.set SYS_CLKSTAT_REFFAIL 1).get SYS_CLKSTAT_REFFAIL = 1 := s.dev.get_set_same 1 (by decide)
  have hstamp : ((s.dev.set SYS_CLKSTAT_REFFAIL 1).raise 748).stamped 748 s.dev.time := Dev.raise_stamped (by decide) rfl
  refine completes_main (show exec _ _ = execReferenceFailure s from rfl) hp ⟨?_, ?_⟩
  · exact steady_refFail.clockSafe (steady_refFail.raise hset (by decide))
  · exact ((steady_stamped s.dev.time (by decide)).clockSafe hstamp).2

/-! ## The resets of the application side -/

theorem completes_mainMem {c : Instr} {s : State} {f : State → State} {R : State → Prop} (hc : exec c s = s.mainMem f)
    (hp : s.powered) (h : R (f s)) : Completes c s R :=
  ⟨_, hc.trans (State.mainMem_powered f hp), h⟩

/-- The local start has been restarted: stage of the application release, no debug reset counted yet. -/
def Dev.restarted (d : Dev) : Prop := d.boot.stage = 2 ∧ d.reg A_DBG_CNT = 0

theorem Dev.restarted_setReg {d : Dev} {a : Nat} {v : BitVec 64} (ha : A_DBG_CNT ≠ a) (h : d.restarted) :
    (d.setReg a v).restarted := ⟨h.1, (Dev.reg_setReg_ne d v ha).trans h.2⟩

theorem Dev.restarted_copyFld {d e : Dev} {f : Fld} (hf : A_DBG_CNT ≠ f.addr) (h : d.restarted) : (d.copyFld e f).restarted :=
  Dev.restarted_setReg hf h

theorem Dev.restarted_set {d : Dev} {f : Fld} {v : Nat} (hf : A_DBG_CNT ≠ f.addr) (h : d.restarted) : (d.set f v).restarted :=
  Dev.restarted_setReg hf h

theorem steady_restarted : Steady Dev.restarted :=
  ((quiet_stage 2).and (quiet_reg (a := A_DBG_CNT) (by decide) (· = 0))).steady fun h =>
    Dev.restarted_set (by rw [pllFld_addr]; decide) h

/-- A committed set holds no field of the debug module. -/
theorem setMask_dbgCnt : setMask A_DBG_CNT = 0 := by decide

theorem Dev.restarted_showRec {d : Dev} {e : Nat × BitVec 64} (h : d.restarted) : (d.showRec e).restarted := by
  by_cases he : A_DBG_CNT = e.1
  · refine ⟨h.1, ?_⟩
    have hreg : (d.showRec e).reg e.1 = d.reg e.1 := by
      simp only [Dev.showRec, ← he, setMask_dbgCnt, Dev.reg_setReg_same, BitVec.not_zero,
        BitVec.and_allOnes, BitVec.and_zero, BitVec.or_zero]
    rw [he, hreg, ← he]
    exact h.2
  · exact Dev.restarted_setReg he h

theorem Dev.restarted_showSet {d : Dev} (h : d.restarted) : d.showSet.restarted := by
  unfold Dev.showSet
  split
  · exact kept_eachOf h fun _ h => Dev.restarted_showRec h
  · exact h

theorem Dev.restarted_trimLoad {d : Dev} (h : d.restarted) : d.trimLoad.restarted := by
  unfold Dev.trimLoad Dev.dtmRate
  exact steady_restarted.beside (Dev.restarted_set (by decide) (Dev.restarted_set (by decide) h)) rfl rfl rfl

/-- No field that a reset keeps is one of DBG_CNT. -/
theorem keepFields_addr : ∀ f ∈ keepFields, A_DBG_CNT ≠ f.addr := by decide

/-- DBG_CNT is not kept. -/
theorem keepApp_dbgCnt : keepApp A_DBG_CNT = false := by decide

/-- An application-side reset restarts the local start. -/
theorem Dev.appReset_restarted (d : Dev) : (d.appReset false).restarted := by
  have hP := steady_restarted
  unfold Dev.appReset
  extract_lets d1 d2 _ e1 e2 e3 e4 e5
  have h1 : e1.restarted := ⟨rfl, Tab.find_keep_out _ keepApp_dbgCnt _⟩
  have h2 : e2.restarted := kept_eachOf h1 fun hf h => Dev.restarted_copyFld (keepFields_addr _ hf) h
  have h3 : e3.restarted := iteInduction (fun _ => h2) fun _ => Dev.restarted_copyFld (by decide) h2
  have h4 : e4.restarted := hP.set (hP.setB (hP.brakeShow (hP.gateOff h3)))
  have h5 : e5.restarted := kept_each h4 fun _ h =>
    iteInduction (fun _ => Dev.restarted_set (by rw [pllFld_addr]; decide) h) fun _ => h
  exact hP.refAtStart (Dev.restarted_trimLoad (Dev.restarted_showSet (hP.clkEval h5)))

/-- Where one is made, it shows its cause. -/
theorem State.appReset_dev (s : State) (cause : Fld) (h4 : s.dev.get SYS_PWRSTATE_STATE ≠ 4) (hh : s.dev.boot.heldReset = false) :
    ∃ d : Dev, d.restarted ∧ (s.appReset cause).dev = d.set cause 1 := by
  have hno : s.dev.noReset = false := by simp [Dev.noReset, h4, hh]
  refine ⟨_, Dev.appReset_restarted ((s.endSafety 3 3).endDev 3 3).dev, ?_⟩
  simp [State.appReset, State.appResetTo, hno]

/-- A bit of SYS_RSTCAUSE. -/
def isCause (f : Fld) : Prop := f.addr = A_SYS_RSTCAUSE ∧ f.w = 1 ∧ f.lo < 64

theorem State.appReset_spec (s : State) {cause : Fld} (hc : isCause cause) (h4 : s.dev.get SYS_PWRSTATE_STATE ≠ 4)
    (hh : s.dev.boot.heldReset = false) : (s.appReset cause).dev.get cause = 1 ∧ (s.appReset cause).dev.restarted := by
  obtain ⟨haddr, hw, hlo⟩ := hc
  obtain ⟨d, hd, hdev⟩ := s.appReset_dev cause h4 hh
  rw [hdev]
  refine ⟨?_, Dev.restarted_set (by rw [haddr]; decide) hd⟩
  rw [Dev.get_set_same d 1 (by omega), hw]
  rfl

theorem appRst_restarts (s : State) (o : Origin) (ha : s.accesses o) (h4 : s.dev.get SYS_PWRSTATE_STATE ≠ 4)
    (hh : s.dev.boot.heldReset = false) (hlock : s.dev.lockOrigin o = true) :
    Completes (.appRst o 0xD2A6 true) s fun t => t.dev.get SYS_RSTCAUSE_SOFTWARE = 1 ∧ t.dev.boot.stage = 2 := by
  have hrst : s.rstctl o (0xD2A6 : BitVec 16).toNat true = s.appReset SYS_RSTCAUSE_SOFTWARE := by
    simp [State.rstctl, hlock]
  refine ⟨_, (exec_appRst 0xD2A6 true ha).trans (congrArg _ hrst), ?_⟩
  exact (s.appReset_spec ⟨rfl, rfl, by decide⟩ h4 hh).imp_right And.left

theorem watchdogExpiry_restarts (s : State) (hp : s.powered) (h4 : s.dev.get SYS_PWRSTATE_STATE ≠ 4)
    (hh : s.dev.boot.heldReset = false) (hhalt : s.dev.ownerHalted = false) (hready : s.dev.bit SYS_PWRSTATE_READY = true) :
    Completes .watchdogExpiry s fun t => t.dev.get SYS_RSTCAUSE_WATCHDOG = 1 ∧ t.dev.boot.stage = 2 := by
  refine completes_mainMem (show exec _ _ = execWatchdogExpiry s from rfl) hp ?_
  rw [if_neg (by simp [hhalt, hready])]
  exact (s.appReset_spec ⟨rfl, rfl, by decide⟩ h4 hh).imp_right And.left

theorem thimbleReset_restarts (s : State) (p : Fin 3) (hp : s.powered) (h4 : s.dev.get SYS_PWRSTATE_STATE ≠ 4)
    (hh : s.dev.boot.heldReset = false) (hfault : s.dev.get (pllFld p) = 4) (htries : s.dev.boot.pllTries < 3) :
    Completes .thimbleReset s fun t => t.dev.get SYS_RSTCAUSE_THIMBLE = 1 ∧ t.dev.boot.stage = 2 ∧
      t.dev.boot.pllTries = s.dev.boot.pllTries + 1 := by
  have hno : s.dev.noReset = false := by simp [Dev.noReset, h4, hh]
  have hany : ((List.range 3).any fun p => s.dev.get (pllFld p) = 4) = true :=
    List.any_eq_true.mpr ⟨p, List.mem_range.mpr p.isLt, by simpa using hfault⟩
  obtain ⟨hcause, hstage, -⟩ := s.appReset_spec (cause := SYS_RSTCAUSE_THIMBLE) ⟨rfl, rfl, by decide⟩ h4 hh
  refine completes_mainMem (show exec _ _ = execThimbleReset s from rfl) hp ?_
  dsimp only
  rw [if_neg (by simp [hno]), if_pos hany, if_neg (by omega)]
  exact ⟨hcause, hstage, rfl⟩

theorem debugReset_restarts (s : State) (hp : s.powered) (h4 : s.dev.get SYS_PWRSTATE_STATE ≠ 4)
    (hh : s.dev.boot.heldReset = false) (haccess : s.dev.get DBG_STAT_ACCESS = 1) :
    Completes .debugReset s fun t => t.dev.get SYS_RSTCAUSE_DEBUG = 1 ∧ t.dev.boot.stage = 2 ∧
      t.dev.get DBG_CNT_RESETS = 1 := by
  have hno : s.dev.noReset = false := by simp [Dev.noReset, h4, hh]
  have hbit : s.dev.bit DBG_STAT_ACCESS = true := by simp [Dev.bit, haccess]
  obtain ⟨hcause, hstage, hcnt⟩ := s.appReset_spec (cause := SYS_RSTCAUSE_DEBUG) ⟨rfl, rfl, by decide⟩ h4 hh
  have hzero : (s.appReset SYS_RSTCAUSE_DEBUG).dev.get DBG_CNT_RESETS = 0 := by
    show fieldGet ((s.appReset SYS_RSTCAUSE_DEBUG).dev.reg A_DBG_CNT) _ _ = 0
    rw [hcnt]
    rfl
  refine completes_mainMem (show exec _ _ = execDebugReset s from rfl) hp ?_
  dsimp only
  rw [if_pos hbit, if_neg (by simp [hno])]
  refine ⟨(Dev.get_set_addr _ _ (by decide)).trans hcause, hstage, ?_⟩
  rw [Dev.get_count_same _ (by decide), hzero]
  rfl

/-- Settles O51: what a PLL command or a reset sets is a quiet or steady property, so it holds on after the safe states, the
carriers' freeze and the loop-assist instructions that follow. -/
theorem clockAndResetComplete : Obligations.ClockAndResetComplete := by
  unfold Obligations.ClockAndResetComplete
  exact ⟨pllRequest_starts, pllRequest_returns, pllLock_locks, pllLockTimeout_faults, pllLastRequestReleased_holdsOff,
    pllHoldoffExpire_stops, pllHoldoffExpire_returns, pllLockLost_faults, referenceFailure_shows, appRst_restarts,
    watchdogExpiry_restarts, thimbleReset_restarts, debugReset_restarts⟩

end Sys2Proof.Machine
end

section
/-!
Drive fights with the brake outputs (R51, R53): an output whose limit timer expires in the 10 µs after an opposite latch of its
bank is LATCHED, and FO14 and FO15 belong to the bank of FO12 and FO13.
-/
namespace Sys2Proof.Machine

/-! ## The state of a field output -/

section
variable (d : Dev)

theorem Dev.get_state_foPut {n st : Nat} (drive : Nat) (hst : st < 8) :
    (d.foPut n st drive).get (FIO_OSTAT_STATE n) = st := by
  unfold Dev.foPut
  dsimp only
  rw [Dev.foUpd_get, Dev.setB,
    Dev.get_set_bits (f := FIO_OSTAT_LIMIT n) (g := FIO_OSTAT_STATE n) _ _ rfl (.inl (Nat.le_refl 3)),
    Dev.get_set_same (f := FIO_OSTAT_STATE n) _ _ (show 0 + 3 ≤ 64 by decide)]
  exact Nat.mod_eq_of_lt hst

theorem Dev.reg_foPut_ne {a n : Nat} (st drive : Nat) (h : a ≠ A_FIO_OSTAT n) : (d.foPut n st drive).reg a = d.reg a := by
  unfold Dev.foPut
  dsimp only
  rw [Dev.foUpd_reg, Dev.reg_setB_ne _ _ h, Dev.reg_set_ne _ _ h, Dev.when_keeps d (·.reg a) (d.reg_set_ne _ h)]

/-- A fight writes FIO_FLT and the registers of its own outputs. -/
theorem Dev.reg_foFights {a b : Nat} {l : List Nat} (hflt : a ≠ A_FIO_FLT) (hl : ∀ m ∈ l, a ≠ A_FIO_OSTAT m) :
    (d.foFights b l).reg a = d.reg a := by
  refine foldl_keeps_mem (·.reg a) _ _ (fun e m hm => ?_) d
  have hm' := hl m (List.mem_of_mem_filter hm)
  rw [Dev.reg_setBits_ne _ _ hflt, Dev.reg_set_ne _ _ hm', e.reg_foPut_ne _ _ hm']

theorem raiseFree_fioOstat {n : Nat} (hn : n < 16) : raiseFree (A_FIO_OSTAT n) := by
  simp only [raiseFree, A_FIO_OSTAT, A_EVR_STAMP, A_EVR_PEND, A_EVR_CNT, A_SPL_CHST, A_SPL_CHCNT, A_SPL_STAT, A_SPL_CNT,
    A_SPL_TSTAMP]
  exact ⟨by omega, by omega, by omega, by omega, by omega, by omega, by omega⟩

/-- An output that latches after an opposite latch of its bank is LATCHED whatever its retries. -/
theorem Dev.get_state_foLatch_of_opposed {n m : Nat} (cause : Nat) (hn : n < 16) (hm : m < 16)
    (h : d.foOpposes n m (d.foSources n) = true) : (d.foLatch n cause true).get (FIO_OSTAT_STATE n) = 4 := by
  have hfight : (!((List.range 16).filter fun m => d.foOpposes n m (d.foSources n)).isEmpty) = true := by
    simpa using ⟨m, hm, h⟩
  have hothers : ∀ x ∈ (List.range 16).filter fun m => d.foOpposes n m (d.foSources n), A_FIO_OSTAT n ≠ A_FIO_OSTAT x := by
    intro x hx
    have hne : x ≠ n := by
      rintro rfl
      simp [Dev.foOpposes] at hx
    simp only [A_FIO_OSTAT]
    omega
  have hflt : A_FIO_OSTAT n ≠ A_FIO_FLT := by simp only [A_FIO_OSTAT, A_FIO_FLT]; omega
  unfold Dev.foLatch
  simp only [hfight, Bool.true_and, Bool.not_true, Bool.false_and, if_true, Bool.false_eq_true, if_false, Dev.when_true]
  have hcause := (d.foPut n 4 0).get_set_bits (f := FIO_OSTAT_CAUSE n) (g := FIO_OSTAT_STATE n) 3 rfl
    (.inl (show 0 + 3 ≤ 4 by decide))
  rw [Dev.get, Dev.raise_reg _ (by omega) (raiseFree_fioOstat hn), Dev.reg_foFights _ hflt hothers,
    Dev.reg_setBits_ne _ _ hflt, Dev.foUpd_reg, Dev.reg_setBits_ne _ _ hflt]
  exact hcause.trans (d.get_state_foPut 0 (by decide))
end

/-- The limit timer of an output expires after an opposite latch of its bank: the row of R51 for a drive fight. -/
theorem foLimitTimerExpire_fights {s : State} (n : Fin 14) {m : Fin 16} (hp : s.powered)
    (hlimit : s.dev.get (FIO_OSTAT_STATE n) = 2) (h : s.dev.foOpposes n m (s.dev.foSources n) = true) :
    Completes (.foLimitTimerExpire ⟨n, by omega⟩) s fun t => t.dev.get (FIO_OSTAT_STATE n) = 4 := by
  refine completes_main (show exec _ _ = execFoLimitTimerExpire _ _ from rfl) hp ?_
  rw [if_neg (not_not_intro hlimit), if_neg (show ¬ n.val ≥ 14 by omega)]
  exact s.dev.get_state_foLatch_of_opposed _ (by omega) m.isLt h

/-! ## The refutation -/

/-- FO12 drives LOW in LIMIT. FO14, wired to it, was sourcing and has just latched as a short to ground: no output of Thimble's
pair drives any more, and none of FO0 to FO13 has latched. -/
def brakeFight : State :=
  { dev := (({ fo := [(12, { drive := 1 }), (14, { sourcing := true, latchAt := some 0 })] } : Dev)
      |>.set (FIO_OUTCFG_MODE 12) 1 |>.set (FIO_OSTAT_STATE 12) 2 |>.set (FIO_OSTAT_LIMIT 12) 1
      |>.set (FIO_OSTAT_STATE 14) 4 |>.set (FIO_OSTAT_CAUSE 14) 2 |>.set FIO_FLT_LATCH_SB 1) }

theorem brakeFight_opposes :
    brakeFight.dev.foOpposes (12 : Fin 14) (14 : Fin 16) (brakeFight.dev.foSources (12 : Fin 14)) = true := by decide

/-- Refutes O18: the clause on FO_LIMIT_TIMER_EXPIRE asks that none of FO0 to FO13 has latched, but FO14 and FO15 count for their
bank too. In `brakeFight` FO14 latched with opposite drive, and at the expiry FO12 goes to LATCHED and not to WAIT. -/
theorem not_fieldOutputsComplete : ¬ Obligations.FieldOutputsComplete := by
  unfold Obligations.FieldOutputsComplete
  rintro ⟨-, -, -, -, hexpire, -⟩
  have hp : brakeFight.powered := by decide
  have hlimit : brakeFight.dev.get (FIO_OSTAT_STATE 12) = 2 := by decide
  obtain ⟨t, ht, hwait, -⟩ := hexpire brakeFight 12 hp hlimit (by decide) (by decide)
  obtain ⟨u, hu, hlatched⟩ := foLimitTimerExpire_fights 12 hp hlimit brakeFight_opposes
  obtain rfl : t = u := by injection ht.symm.trans hu
  exact absurd (hwait.symm.trans hlatched) (by decide)

end Sys2Proof.Machine
end

section
/-!
What outlives every reset and every loss of power beside the memories: the key store and the committed set. An operation of the
device keeps each property of the two, unless it commits a set or programs a key slot: one rule for each operation, in the
order of the model's files. Its proof is the hypothesis itself where the operation touches registers and records alone, else a
term of the operation's own shape.
-/
namespace Sys2Proof.Machine

/-- A property of the key store and of the committed set that a read of its two copies gives. -/
abbrev VaultProp := List (Nat × KeySlot) → Option SafeSet → Prop

/-- The key store and the committed set of the device have the property `R`. -/
def Dev.Holds (R : VaultProp) (d : Dev) : Prop := R d.per.keys d.per.safe.cur

/-- A repair leaves the set that a read gives as it was (R74). -/
theorem Twin.cur_repair {α : Type} (t : Twin α) : t.repair.cur = t.cur := by
  obtain ⟨v1, v2, g1, g2, ok1, ok2⟩ := t
  cases ok1 <;> cases ok2 <;> simp [Twin.repair, Twin.cur]

namespace Dev.Holds

variable {R : VaultProp} {d e : Dev}

/-- A change beside the persistent records keeps the property. -/
theorem beside (h : d.Holds R) {regs time frac mono free lims spool splTurn jnl pwr boot fo fio gch car clu pos pair hem tgrp
    thm axis conn dtm adc aux refOut img slc egr port can dom eth sfl spih m0 m1 lu nfc flw dbgTrig dbg} :
    Dev.Holds R ⟨regs, time, frac, mono, free, lims, spool, splTurn, jnl, pwr, boot, d.per, fo, fio, gch, car, clu, pos,
      pair, hem, tgrp, thm, axis, conn, dtm, adc, aux, refOut, img, slc, egr, port, can, dom, eth, sfl, spih, m0, m1, lu, nfc,
      flw, dbgTrig, dbg⟩ := h

/-- So does a change of the persistent records beside the two. -/
theorem records (h : d.Holds R) {cal fill acks lock pwd jnlNum} {j : Jnl} :
    Dev.Holds R { d with per := ⟨d.per.keys, d.per.safe, cal, fill, acks, lock, pwd, jnlNum⟩, jnl := j } := h

/-- So does the repair of the records. -/
theorem repair (h : d.Holds R) {cal fill acks lock pwd jnlNum} :
    Dev.Holds R { e with per := ⟨d.per.keys, d.per.safe.repair, cal, fill, acks, lock, pwd, jnlNum⟩ } := by
  rw [Dev.Holds, Twin.cur_repair]
  exact h

theorem setReg (h : d.Holds R) {a : Nat} {v : BitVec 64} : (d.setReg a v).Holds R := h
theorem set (h : d.Holds R) {f : Fld} {v : Nat} : (d.set f v).Holds R := h
theorem setI (h : d.Holds R) {f : Fld} {v : Int} : (d.setI f v).Holds R := h
theorem setB (h : d.Holds R) {f : Fld} {b : Bool} : (d.setB f b).Holds R := h
theorem setBits (h : d.Holds R) {f : Fld} {v : Nat} : (d.setBits f v).Holds R := h
theorem clrBits (h : d.Holds R) {f : Fld} {v : Nat} : (d.clrBits f v).Holds R := h
theorem add (h : d.Holds R) {f : Fld} {n : Nat} : (d.add f n).Holds R := h
theorem count (h : d.Holds R) {f : Fld} : (d.count f).Holds R := h

theorem ite {c : Prop} [Decidable c] (h : d.Holds R) (h' : e.Holds R) : (if c then d else e).Holds R := by
  split <;> assumption

theorem when (h : d.Holds R) {c : Bool} {f : Dev → Dev} (hf : ∀ {d}, d.Holds R → (f d).Holds R) : (d.when c f).Holds R := by
  unfold Dev.when
  exact .ite (hf h) h

theorem each (h : d.Holds R) {n : Nat} {f : Nat → Dev → Dev} (hf : ∀ {i d}, d.Holds R → (f i d).Holds R) :
    (d.each n f).Holds R :=
  kept_each h fun _ => hf

/-! ## Sys2Proof/Machine/Ops.lean -/

theorem drawn (h : d.Holds R) : d.drawn.Holds R := h

theorem setSch (h : d.Holds R) {c : Nat} {v : SpoolCh} : (d.setSch c v).Holds R := h

theorem splQueue (h : d.Holds R) {c : Nat} {rec : List (BitVec 64)} : (d.splQueue c rec).Holds R := by
  unfold Dev.splQueue
  exact .ite (.count h) (.setSch h)

theorem splMade (h : d.Holds R) {c : Nat} {rec : List (BitVec 64)} : (d.splMade c rec).Holds R := by
  unfold Dev.splMade
  exact .ite h (.ite (.ite (.splQueue (.setSch h)) (.setSch h)) (.ite (.splQueue (.setSch h)) (.setSch h)))

theorem splFeed (h : d.Holds R) {typ : Nat} {sel : Nat → Nat → Bool} {rec : List (BitVec 64)} :
    (d.splFeed typ sel rec).Holds R :=
  by
  unfold Dev.splFeed
  exact .ite h (.each h fun h => .when h fun h => .splMade h)

theorem splStopDone (h : d.Holds R) : d.splStopDone.Holds R := by
  unfold Dev.splStopDone
  exact .ite h (.when (.each h fun h => .when h fun h => .setBits h) fun h => .set h)

theorem splFire (h : d.Holds R) : d.splFire.Holds R := by
  unfold Dev.splFire
  exact .splStopDone (.each (.setReg (.set (.set (.set h)))) fun h => .when h fun h => .setSch (.set h))

theorem splTrigger (h : d.Holds R) : d.splTrigger.Holds R := by
  unfold Dev.splTrigger
  exact .ite (.splFire h) (.ite (.count h) h)

theorem splEvent (h : d.Holds R) {k : Nat} : (d.splEvent k).Holds R := by
  unfold Dev.splEvent
  exact .when (.splFeed h) fun h => .splTrigger h

theorem evrKeep (h : d.Holds R) {t k : Nat} : (d.evrKeep t k).Holds R := by
  unfold Dev.evrKeep
  exact .ite (.beside h) h

theorem evrPend (h : d.Holds R) {t k : Nat} : (d.evrPend t k).Holds R := by
  unfold Dev.evrPend
  exact .ite (.count (.evrKeep h)) (.set (.evrKeep h))

theorem trigCause (h : d.Holds R) {k : Nat} : (d.trigCause k).Holds R := by
  unfold Dev.trigCause
  exact .ite (.each h fun h => .ite (.beside h) h) h

theorem raise (h : d.Holds R) {k : Nat} : (d.raise k).Holds R := by
  unfold Dev.raise
  exact .trigCause (.splEvent (.each (.setReg h) fun h => .when h fun h => .evrPend h))

theorem raiseIf (h : d.Holds R) {on : Bool} {k : Nat} : (d.raiseIf on k).Holds R := by
  unfold Dev.raiseIf
  exact .ite (.raise h) (.trigCause h)

theorem raiseLim (h : d.Holds R) {k c T : Nat} : (d.raiseLim k c T).Holds R := by
  unfold Dev.raiseLim
  exact .ite h (.raise (.beside h))

theorem evrClear (h : d.Holds R) {t k : Nat} : (d.evrClear t k).Holds R := by
  unfold Dev.evrClear
  exact .ite (.count (.set h)) h

theorem jnlPut (h : d.Holds R) {fw : Bool} {e : JEntry} : (d.jnlPut fw e).Holds R := by
  unfold Dev.jnlPut
  exact .ite (.raiseLim (.ite (.count (.beside h)) (.count (.beside h)))) (.set (.beside h))

theorem journal (h : d.Holds R) {kind src origin : Nat} {data : List (BitVec 64)} : (d.journal kind src origin data).Holds R := by
  unfold Dev.journal
  exact .jnlPut h

theorem flushStop (h : d.Holds R) : d.flushStop.Holds R := by
  unfold Dev.flushStop
  exact .ite (.set (.set h)) h

theorem jnlFault (h : d.Holds R) {src fltAddr statAddr : Nat} : (d.jnlFault src fltAddr statAddr).Holds R := by
  unfold Dev.jnlFault
  exact .journal h

theorem jnlThimble (h : d.Holds R) {src : Nat} : (d.jnlThimble src).Holds R := by
  unfold Dev.jnlThimble
  exact .journal h

theorem jnlHem (h : d.Holds R) {src : Nat} : (d.jnlHem src).Holds R := by
  unfold Dev.jnlHem
  exact .journal h

/-! ## Sys2Proof/Machine/Recs.lean -/

theorem foUpd (h : d.Holds R) {n : Nat} {f : Fo → Fo} : (d.foUpd n f).Holds R := h

theorem gchUpd (h : d.Holds R) {n : Nat} {f : Gch → Gch} : (d.gchUpd n f).Holds R := h

theorem carUpd (h : d.Holds R) {n : Nat} {f : Car → Car} : (d.carUpd n f).Holds R := h

theorem cluUpd (h : d.Holds R) {n : Nat} {f : Clu → Clu} : (d.cluUpd n f).Holds R := h

theorem posUpd (h : d.Holds R) {n : Nat} {f : Pos → Pos} : (d.posUpd n f).Holds R := h

theorem pairUpd (h : d.Holds R) {n : Nat} {f : Pair → Pair} : (d.pairUpd n f).Holds R := h

theorem tgrpUpd (h : d.Holds R) {n : Nat} {f : ThmGrp → ThmGrp} : (d.tgrpUpd n f).Holds R := h

theorem axisUpd (h : d.Holds R) {n : Nat} {f : Axis → Axis} : (d.axisUpd n f).Holds R := h

theorem connUpd (h : d.Holds R) {n : Nat} {f : Conn → Conn} : (d.connUpd n f).Holds R := h

theorem adcUpd (h : d.Holds R) {n : Nat} {f : Adc → Adc} : (d.adcUpd n f).Holds R := h

theorem auxUpd (h : d.Holds R) {n : Nat} {f : Aux → Aux} : (d.auxUpd n f).Holds R := h

theorem slcUpd (h : d.Holds R) {n : Nat} {f : Slice → Slice} : (d.slcUpd n f).Holds R := h

theorem egrUpd (h : d.Holds R) {n : Nat} {f : EGrp → EGrp} : (d.egrUpd n f).Holds R := h

theorem portUpd (h : d.Holds R) {n : Nat} {f : Port → Port} : (d.portUpd n f).Holds R := h

theorem canUpd (h : d.Holds R) {n : Nat} {f : Can → Can} : (d.canUpd n f).Holds R := h

theorem luUpd (h : d.Holds R) {n : Nat} {f : Lu → Lu} : (d.luUpd n f).Holds R := h

/-! ## Sys2Proof/Machine/Map.lean -/

theorem busErr (h : d.Holds R) {e : BusErr} : (d.busErr e).Holds R := by
  unfold Dev.busErr
  exact .raise (by split <;> exact .count h)

/-! ## Sys2Proof/Machine/Clock.lean -/

theorem pllReq (h : d.Holds R) {p : Nat} : (d.pllReq p).Holds R := by
  unfold Dev.pllReq
  exact .ite (.set h) (.ite (.set h) h)

theorem pllRelease (h : d.Holds R) {p : Nat} : (d.pllRelease p).Holds R := by
  unfold Dev.pllRelease
  exact .ite (.set h) h

theorem pllEval (h : d.Holds R) {p : Nat} : (d.pllEval p).Holds R := by
  unfold Dev.pllEval
  exact .ite (.pllReq h) (.pllRelease h)

theorem clkEval (h : d.Holds R) : d.clkEval.Holds R := by
  unfold Dev.clkEval
  exact .each h fun h => .pllEval h

/-! ## Sys2Proof/Machine/Safe.lean -/

theorem eachOf {α : Type} (h : d.Holds R) {l : List α} {f : α → Dev → Dev}
    (hf : ∀ {a d}, d.Holds R → (f a d).Holds R) : (d.eachOf l f).Holds R := by
  unfold Dev.eachOf
  induction l generalizing d with
  | nil => exact h
  | cons a l ih => exact ih (hf h)

theorem foPut (h : d.Holds R) {n st drive : Nat} : (d.foPut n st drive).Holds R := by
  unfold Dev.foPut
  exact .foUpd (.setB (.set (.when h fun h => .set h)))

theorem foResume (h : d.Holds R) {n : Nat} : (d.foResume n).Holds R := by
  unfold Dev.foResume
  exact .ite (.set (.foPut h)) (.foPut h)

theorem foHold (h : d.Holds R) {n : Nat} : (d.foHold n).Holds R := by
  unfold Dev.foHold
  exact .ite h (.ite (.ite h (.foPut h)) (.ite (.ite (.foPut h) (.foPut h)) h))

theorem foHoldAll (h : d.Holds R) : d.foHoldAll.Holds R := by
  unfold Dev.foHoldAll
  exact .each h fun h => .foHold h

theorem axPut (h : d.Holds R) {n st : Nat} : (d.axPut n st).Holds R := by
  unfold Dev.axPut
  exact .ite h (.clkEval (.raise (.set h)))

theorem axBridgesOff (h : d.Holds R) {n : Nat} : (d.axBridgesOff n).Holds R := h

theorem blindShow (h : d.Holds R) {n : Nat} : (d.blindShow n).Holds R := by
  unfold Dev.blindShow
  exact .ite (.when h fun h => .axisUpd h) (.raise (.setB (.when h fun h => .axisUpd h)))

theorem axHalt (h : d.Holds R) {n : Nat} : (d.axHalt n).Holds R := by
  unfold Dev.axHalt
  exact .blindShow (.axisUpd (.set h))

theorem axHold (h : d.Holds R) {n why : Nat} : (d.axHold n why).Holds R := by
  unfold Dev.axHold
  exact .ite (.axPut (.axBridgesOff (.axHalt (.set (.ite (.set (.axisUpd h)) (.axisUpd h)))))) (.axisUpd h)

theorem axUnhold (h : d.Holds R) {n why : Nat} : (d.axUnhold n why).Holds R := by
  unfold Dev.axUnhold
  exact .ite (.axPut (.axisUpd (.axisUpd h))) (.axisUpd h)

theorem gateOffBy (h : d.Holds R) {n s : Nat} : (d.gateOffBy n s).Holds R := by
  unfold Dev.gateOffBy
  exact .ite (.set (.gchUpd h)) h

theorem gateOff (h : d.Holds R) {n : Nat} : (d.gateOff n).Holds R := by
  unfold Dev.gateOff
  exact .gateOffBy h

theorem gateOnBy (h : d.Holds R) {n t s : Nat} : (d.gateOnBy n t s).Holds R := by
  unfold Dev.gateOnBy
  exact .ite h (.set (.gchUpd h))

theorem gateOnAt (h : d.Holds R) {n t : Nat} : (d.gateOnAt n t).Holds R := by
  unfold Dev.gateOnAt
  exact .gateOnBy h

theorem gchPut (h : d.Holds R) {n st : Nat} : (d.gchPut n st).Holds R := h

theorem gchOff (h : d.Holds R) {n : Nat} : (d.gchOff n).Holds R := by
  unfold Dev.gchOff
  exact .gchPut (.gateOff h)

theorem driveEval (h : d.Holds R) {n : Nat} : (d.driveEval n).Holds R := by
  unfold Dev.driveEval
  exact .ite (.gchPut h) (.ite (.gchOff h) h)

theorem showAsc (h : d.Holds R) : d.showAsc.Holds R := by
  unfold Dev.showAsc
  exact .each h fun h => .ite (.setBits (.ite (.setBits (.setB h)) (.clrBits (.setB h)))) (.clrBits (.ite (.setBits (.setB h))
    (.clrBits (.setB h))))

theorem ascSwitch (h : d.Holds R) {m n : Nat} : (d.ascSwitch m n).Holds R := by
  unfold Dev.ascSwitch
  exact .ite h (.ite (.ite (.gchPut (.gateOnAt h)) h) (.ite (.gchOff h) h))

theorem applySet (h : d.Holds R) {g : Nat} : (d.applySet g).Holds R := by
  unfold Dev.applySet
  exact .set (.eachOf (.eachOf (.showAsc h) fun h => .ascSwitch h) fun h => .ascSwitch h)

theorem applySafe (h : d.Holds R) {g : Nat} : (d.applySafe g).Holds R := by
  unfold Dev.applySafe
  exact .eachOf h fun h => .applySet h

theorem carIdle (h : d.Holds R) {c : Nat} : (d.carIdle c).Holds R := by
  unfold Dev.carIdle
  exact .ite h (.each (.set (.carUpd h)) fun h => .gchUpd h)

theorem cluPut1 (h : d.Holds R) {g st : Nat} : (d.cluPut1 g st).Holds R := by
  unfold Dev.cluPut1
  extract_lets _ d1 d2
  have h1 : d1.Holds R := .raise (.set h)
  have h2 : d2.Holds R := .ite (.ite h1 (.set h1)) (.set (.carIdle h1))
  exact .ite h (.clkEval (.eachOf (.ite (.ite (.cluUpd h2) h2) (.set (.cluUpd h2))) fun h => .driveEval h))

theorem cluPut (h : d.Holds R) {g st : Nat} : (d.cluPut g st).Holds R := by
  unfold Dev.cluPut
  exact .eachOf h fun h => .cluPut1 h

theorem posStamp (h : d.Holds R) {p : Nat} : (d.posStamp p).Holds R := h

theorem posSrc (h : d.Holds R) {p src off : Nat} : (d.posSrc p src off).Holds R := by
  unfold Dev.posSrc
  exact .raise (.posStamp (.set h))

theorem alignAbort (h : d.Holds R) {g : Nat} : (d.alignAbort g).Holds R := by
  unfold Dev.alignAbort
  split; exacts [h, .ite (.raise (.posSrc (.set (.posUpd h)))) h]

theorem cluSafe (h : d.Holds R) {g : Nat} : (d.cluSafe g).Holds R := by
  unfold Dev.cluSafe
  exact .ite (.cluPut (.alignAbort h)) h

theorem brakeShow1 (h : d.Holds R) {n : Nat} {on : Bool} : (d.brakeShow1 n on).Holds R := by
  unfold Dev.brakeShow1
  exact .foPut (.set h)

theorem brakeShow (h : d.Holds R) : d.brakeShow.Holds R := by
  unfold Dev.brakeShow
  exact .setB (.brakeShow1 (.brakeShow1 h))

theorem brakeApply (h : d.Holds R) : d.brakeApply.Holds R := by
  unfold Dev.brakeApply
  exact .when (.set (.set (.brakeShow (.beside h)))) fun h => .raise h

theorem brakeFor (h : d.Holds R) {g : Nat} : (d.brakeFor g).Holds R := by
  unfold Dev.brakeFor
  exact .when h fun h => .brakeApply h

theorem disEnd (h : d.Holds R) {why st : Nat} : (d.disEnd why st).Holds R := by
  unfold Dev.disEnd
  exact .raise (.beside (.gchUpd (.set (.set (.gchPut (.gateOff h))))))

theorem disBegin (h : d.Holds R) : d.disBegin.Holds R := by
  unfold Dev.disBegin
  exact .raise (.count (.gchUpd (.set (.gchPut (.gateOnAt h)))))

theorem disCommand (h : d.Holds R) : d.disCommand.Holds R := by
  unfold Dev.disCommand
  exact .ite (.beside (.disBegin h)) h

theorem setPaths (h : d.Holds R) {n : Nat} {p1 p2 : Bool} : (d.setPaths n p1 p2).Holds R := h

theorem cutPaths (h : d.Holds R) {n : Nat} : (d.cutPaths n).Holds R := by
  unfold Dev.cutPaths
  exact .ite (.gchOff (.setPaths h)) (.ite (.disEnd (.setPaths h)) (.setPaths h))

theorem cutGroup (h : d.Holds R) {g : Nat} : (d.cutGroup g).Holds R := by
  unfold Dev.cutGroup
  exact .eachOf h fun h => .eachOf h fun h => .cutPaths h

theorem carFollow (h : d.Holds R) : d.carFollow.Holds R := by
  unfold Dev.carFollow
  exact .ite (.carUpd (.setB h)) h

theorem carBegin (h : d.Holds R) {c : Nat} : (d.carBegin c).Holds R := h

theorem windStop (h : d.Holds R) : d.windStop.Holds R := by
  unfold Dev.windStop
  extract_lets
  split
  · exact h
  · exact .eachOf (.beside h) fun h => .eachOf (.carIdle (.carUpd (.when h fun h => .carFollow (.carBegin (.set h))))) fun h
    => .cutPaths h

theorem permitGroup (h : d.Holds R) {g : Nat} : (d.permitGroup g).Holds R := by
  unfold Dev.permitGroup
  exact .eachOf h fun h => .eachOf h fun h => .ite (.driveEval (.setPaths h)) h

theorem thmPut (h : d.Holds R) {g st : Nat} : (d.thmPut g st).Holds R := by
  unfold Dev.thmPut
  exact .ite h (.jnlThimble (.raise (.eachOf h fun h => .ite (.set h) (.tgrpUpd (.set (.set h))))))

theorem thmSafe (h : d.Holds R) {g : Nat} : (d.thmSafe g).Holds R := by
  unfold Dev.thmSafe
  exact .ite (.brakeFor (.thmPut h)) h

theorem groupSafe (h : d.Holds R) {g : Nat} {cmd : Bool} : (d.groupSafe g cmd).Holds R := by
  unfold Dev.groupSafe
  exact .applySafe (.when (.cluSafe h) fun h => .thmSafe h)

theorem thmToSto (h : d.Holds R) {g : Nat} : (d.thmToSto g).Holds R := by
  unfold Dev.thmToSto
  exact .eachOf (.brakeFor (.thmPut (.applySafe (.cluSafe (.cutGroup h))))) fun h => .clrBits h

theorem thmStoDemand (h : d.Holds R) {g : Nat} : (d.thmStoDemand g).Holds R := by
  unfold Dev.thmStoDemand
  extract_lets _ d1
  have h1 : d1.Holds R := .applySafe (.cluSafe h)
  exact .ite (.ite (.brakeFor (.thmPut (.eachOf h1 fun h => .eachOf h fun h => .ite h (.cutPaths h)))) (.thmToSto h)) h

theorem showDemand (h : d.Holds R) {g : Nat} : (d.showDemand g).Holds R := by
  unfold Dev.showDemand
  exact .eachOf h fun h => .set h

theorem hemSafe (h : d.Holds R) {g : Nat} : (d.hemSafe g).Holds R := by
  unfold Dev.hemSafe
  exact .groupSafe (.jnlHem (.raise h))

theorem hemHold (h : d.Holds R) {why : Nat} {on : Bool} : (d.hemHold why on).Holds R := by
  unfold Dev.hemHold
  extract_lets _ _ d1 _ d2
  have h1 : d1.Holds R := .beside h
  have h2 : d2.Holds R := .foHoldAll (.raise (.set h1))
  exact .ite (.foHoldAll h1) (.ite (.eachOf (.each h2 fun h => .axHold h) fun h => .hemSafe h) (.each (.foHoldAll (.raise
    (.set h1))) fun h => .axUnhold h))

theorem thmLatch (h : d.Holds R) {bit src : Nat} : (d.thmLatch bit src).Holds R := by
  unfold Dev.thmLatch
  exact .ite h (.jnlThimble (.setBits h))

theorem ss1Enter (h : d.Holds R) {g : Nat} : (d.ss1Enter g).Holds R := by
  unfold Dev.ss1Enter
  extract_lets _ d1 d2
  have h1 : d1.Holds R := .eachOf (.raise (.thmPut h)) fun h => .set (.tgrpUpd h)
  have h2 : d2.Holds R := .eachOf h1 fun h => .tgrpUpd h
  exact .ite h1 (.thmStoDemand (.eachOf (.raise (.thmLatch h2)) fun h => .setBits h))

theorem thmEval (h : d.Holds R) {g : Nat} : (d.thmEval g).Holds R := by
  unfold Dev.thmEval
  extract_lets _ d1 _ _ _ _ d2
  have h1 : d1.Holds R := .showDemand h
  have h2 : d2.Holds R := .when (.when h1 fun h => .windStop h) fun h => .eachOf h fun h => .setBits h
  exact .ite (.thmStoDemand h2) (.ite (.ss1Enter h2) h2)

theorem thmEvalAll (h : d.Holds R) : d.thmEvalAll.Holds R := by
  unfold Dev.thmEvalAll
  exact .eachOf (.hemHold h) fun h => .thmEval h

theorem sbcFault (h : d.Holds R) : d.sbcFault.Holds R := by
  unfold Dev.sbcFault
  exact .thmEvalAll (.raise (.thmLatch (.brakeApply h)))

theorem demandSto (h : d.Holds R) {g bits : Nat} : (d.demandSto g bits).Holds R := by
  unfold Dev.demandSto
  exact .thmEval (.eachOf h fun h => .setBits h)

/-! ## Sys2Proof/Machine/Switch.lean -/

theorem carApply (h : d.Holds R) {c k : Nat} : (d.carApply c k).Holds R := by
  unfold Dev.carApply
  exact .ite h (.ite (.carUpd h) (.gchUpd (.carUpd h)))

theorem carCmd (h : d.Holds R) {c k : Nat} {on : Bool} : (d.carCmd c k on).Holds R := by
  unfold Dev.carCmd
  exact .carApply (.carUpd h)

theorem carRelease (h : d.Holds R) {c : Nat} : (d.carRelease c).Holds R := by
  unfold Dev.carRelease
  exact .each h fun h => .ite (.carApply (.carUpd h)) h

theorem brakePulse (h : d.Holds R) : d.brakePulse.Holds R := by
  unfold Dev.brakePulse
  exact .ite (.raiseIf (.carCmd (.carRelease (.set (.driveEval (.carUpd h)))))) h

theorem brakeDirect (h : d.Holds R) : d.brakeDirect.Holds R := by
  unfold Dev.brakeDirect
  exact .ite h (.brakePulse (.carUpd (.jnlFault (.raise (.set h)))))

theorem brakeClock (h : d.Holds R) : d.brakeClock.Holds R := by
  unfold Dev.brakeClock
  exact .when h fun h => .brakeDirect h

theorem showFrozen (h : d.Holds R) : d.showFrozen.Holds R := by
  unfold Dev.showFrozen
  exact .brakeClock (.carFollow (.each h fun h => .ite h (.ite (.carUpd (.set (.set h))) (.when (.carUpd (.set h)) fun h =>
    .brakePulse h))))

theorem freezeEnd (h : d.Holds R) : d.freezeEnd.Holds R := by
  unfold Dev.freezeEnd
  exact .ite (.eachOf (.raise (.showFrozen (.set h))) fun h => .when h fun h => .hemSafe h) h

theorem epochRestart (h : d.Holds R) {p : Nat} : (d.epochRestart p).Holds R := h

theorem resumeAll (h : d.Holds R) : d.resumeAll.Holds R := by
  unfold Dev.resumeAll
  exact .freezeEnd (.set (.each h fun h => .when h fun h => .epochRestart h))

/-! ## Sys2Proof/Machine/Persist.lean -/

theorem showRec (h : d.Holds R) {e : Nat × BitVec 64} : (d.showRec e).Holds R := h

theorem showSet (h : d.Holds R) : d.showSet.Holds R := by
  unfold Dev.showSet
  split; exacts [(.eachOf h fun h => .showRec h), h]

theorem dtmRate (h : d.Holds R) : d.dtmRate.Holds R := h

theorem trimLoad (h : d.Holds R) : d.trimLoad.Holds R := h

theorem showLog (h : d.Holds R) : d.showLog.Holds R := h

theorem showUnlock (h : d.Holds R) : d.showUnlock.Holds R := h

/-! ## Sys2Proof/Machine/Reset.lean -/

theorem copyFld (h : d.Holds R) {f : Fld} : (d.copyFld e f).Holds R := h

theorem tagShow (h : d.Holds R) : d.tagShow.Holds R := h

theorem mainReset (h : d.Holds R) : d.mainReset.Holds R := by
  unfold Dev.mainReset
  extract_lets _ _ e
  have he : e.Holds R := .eachOf (.beside h) fun h => .copyFld h
  exact .each (.tagShow (.ite (.showLog (.showSet (.set he))) he)) fun h => .gchUpd h

theorem powerOn (h : d.Holds R) : d.powerOn.Holds R := h

theorem refAtStart (h : d.Holds R) : d.refAtStart.Holds R := by
  unfold Dev.refAtStart
  exact .ite (.each (.set h) fun h => .raise h) h

theorem appReset (h : d.Holds R) {held : Bool} : (d.appReset held).Holds R := by
  unfold Dev.appReset
  extract_lets _ d1 _ _ d2 _ d3
  have h1 : d1.Holds R := .eachOf (.windStop (.hemHold h)) fun h => .groupSafe h
  have h2 : d2.Holds R := .eachOf (.beside h1) fun h => .copyFld h
  have h3 : d3.Holds R := .tagShow (.brakeShow (.gateOff (.ite h2 (.copyFld h2))))
  exact .refAtStart (.trimLoad (.showSet (.clkEval (.each h3 fun h => .ite (.set h) h))))

theorem wake (h : d.Holds R) {f : Fld} {v : Nat} : (d.wake f v).Holds R := by
  unfold Dev.wake
  exact .ite (.beside (.set (.setBits (.mainReset h)))) (.ite (.clkEval (.beside (.set (.setBits (.set h))))) (.ite (.setBits
    h) h))

theorem clockSafe (h : d.Holds R) : d.clockSafe.Holds R := by
  unfold Dev.clockSafe
  extract_lets _ d1
  have h1 : d1.Holds R := .each (.eachOf h fun h => .groupSafe h) fun h => .ite h (.axPut (.axBridgesOff (.axHalt (.set h))))
  exact .brakeApply (.each h1 fun h => .ite h (.foPut (.set h)))

theorem pllFault (h : d.Holds R) {p : Nat} : (d.pllFault p).Holds R := by
  unfold Dev.pllFault
  exact .clockSafe (.raise (.showFrozen (.set h)))

/-! ## Sys2Proof/Machine/Sequencer.lean -/

theorem adcMux (h : d.Holds R) {n i : Nat} : (d.adcMux n i).Holds R := h

theorem adcEntry (h : d.Holds R) {n k : Nat} : (d.adcEntry n k).Holds R := h

theorem adcCurrent (h : d.Holds R) {n k : Nat} : (d.adcCurrent n k).Holds R := h

theorem adcStart (h : d.Holds R) {n : Nat} : (d.adcStart n).Holds R := h

theorem adcRun (h : d.Holds R) {n : Nat} : (d.adcRun n).Holds R := by
  unfold Dev.adcRun
  exact .ite h (.ite (.count h) (.ite (.adcStart (.clkEval (.set h))) (.adcUpd (.clkEval (.set h)))))

theorem adcLost (h : d.Holds R) {n : Nat} : (d.adcLost n).Holds R := by
  unfold Dev.adcLost
  exact .raise (.count h)

theorem adcStop (h : d.Holds R) {n : Nat} : (d.adcStop n).Holds R := by
  unfold Dev.adcStop
  extract_lets _ d1
  have h1 : d1.Holds R := .each h fun h => .adcLost h
  exact .ite h (.ite (.clkEval (.adcUpd (.set h))) (.ite (.count h) (.clkEval (.adcUpd (.set (.set (.set (.set h1))))))))

theorem adcTrig1 (h : d.Holds R) {k n : Nat} : (d.adcTrig1 k n).Holds R := by
  unfold Dev.adcTrig1
  exact .ite (.adcUpd h) h

theorem adcTrig (h : d.Holds R) {k : Nat} : (d.adcTrig k).Holds R := by
  unfold Dev.adcTrig
  exact .each h fun h => .adcTrig1 h

theorem frameStart (h : d.Holds R) {p : Nat} : (d.frameStart p).Holds R := by
  unfold Dev.frameStart
  exact .ite (.posUpd h) h

theorem posMark (h : d.Holds R) {g : Nat} : (d.posMark g).Holds R := by
  unfold Dev.posMark
  split; exacts [(.when h fun h => .frameStart h), h]

theorem urgBegin (h : d.Holds R) {n who i count : Nat} : (d.urgBegin n who i count).Holds R := h

theorem urgShow (h : d.Holds R) {n : Nat} : (d.urgShow n).Holds R := h

theorem urgQueue (h : d.Holds R) {n who i count : Nat} : (d.urgQueue n who i count).Holds R := by
  unfold Dev.urgQueue
  exact .ite (.urgShow (.adcUpd h)) (.ite (.adcLost h) (.urgShow (.adcUpd (.adcLost h))))

theorem urgRequest (h : d.Holds R) {n who i count : Nat} : (d.urgRequest n who i count).Holds R := by
  unfold Dev.urgRequest
  exact .ite (.adcLost h) (.ite (.urgQueue h) (.ite (.urgQueue h) (.urgBegin (.when h fun h => .raise (.count (.adcUpd h))))))

theorem urgWrite (h : d.Holds R) {n i count : Nat} : (d.urgWrite n i count).Holds R := by
  unfold Dev.urgWrite
  exact .ite h (.urgRequest h)

/-! ## Sys2Proof/Machine/Pos.lean -/

theorem posShow (h : d.Holds R) {p : Nat} : (d.posShow p).Holds R := h

theorem posShowValid (h : d.Holds R) {p : Nat} : (d.posShowValid p).Holds R := h

theorem posLost (h : d.Holds R) {p : Nat} : (d.posLost p).Holds R := by
  unfold Dev.posLost
  extract_lets; split; exacts [.hemSafe (.posSrc h), .posSrc h]

theorem slsTake (h : d.Holds R) {p : Nat} : (d.slsTake p).Holds R := h

theorem slsEnter (h : d.Holds R) {p off : Nat} : (d.slsEnter p off).Holds R := by
  unfold Dev.slsEnter
  exact .posShow (.posSrc (.posUpd (.slsTake h)))

theorem posFall (h : d.Holds R) {p : Nat} : (d.posFall p).Holds R := by
  unfold Dev.posFall
  exact .ite h (.ite (.slsEnter h) (.posLost h))

theorem posUnindex (h : d.Holds R) {p : Nat} : (d.posUnindex p).Holds R := h

theorem posSensorFault (h : d.Holds R) {p : Nat} : (d.posSensorFault p).Holds R := by
  unfold Dev.posSensorFault
  exact .ite h (.posFall (.posShowValid (.posUnindex (.posUpd h))))

theorem posCause (h : d.Holds R) {p bits : Nat} : (d.posCause p bits).Holds R := by
  unfold Dev.posCause
  exact .when (.posUpd (.setBits h)) fun h => .raise h

theorem posBad (h : d.Holds R) {p bits : Nat} : (d.posBad p bits).Holds R := by
  unfold Dev.posBad
  exact .when (.posUpd (.posCause (.count h))) fun h => .posSensorFault h

theorem posImmediate (h : d.Holds R) {p bits : Nat} : (d.posImmediate p bits).Holds R := by
  unfold Dev.posImmediate
  exact .posSensorFault (.posCause h)

theorem posFaultEnd (h : d.Holds R) {p : Nat} : (d.posFaultEnd p).Holds R := by
  unfold Dev.posFaultEnd
  exact .posShowValid (.when h fun h => .posUpd h)

theorem posClear (h : d.Holds R) {p mask : Nat} : (d.posClear p mask).Holds R := by
  unfold Dev.posClear
  exact .posFaultEnd (.when (.clrBits h) fun h => .set h)

theorem obsStep (h : d.Holds R) {p : Nat} {e : Int} {tau : Nat} : (d.obsStep p e tau).Holds R := h

theorem posTaken (h : d.Holds R) {p : Nat} : (d.posTaken p).Holds R := by
  unfold Dev.posTaken
  exact .posShow (.posFaultEnd (.when (.posStamp (.posUpd h)) fun h => .posImmediate h))

theorem posReading (h : d.Holds R) {p : Nat} {a : Int} : (d.posReading p a).Holds R := by
  unfold Dev.posReading
  exact .ite (.posTaken (.posUpd h)) (.ite (.posBad h) (.posTaken (.obsStep h)))

theorem pairDrop (h : d.Holds R) {p : Nat} : (d.pairDrop p).Holds R := by
  unfold Dev.pairDrop
  exact .posBad (.count (.posUpd h))

theorem demod (h : d.Holds R) {p : Nat} {rs rc : BitVec 64} : (d.demod p rs rc).Holds R := by
  unfold Dev.demod
  extract_lets _ _ _ d1
  have h1 : d1.Holds R := .posUpd h
  exact .ite (.pairDrop h) (by split; exacts [.ite (.posBad (.set h1)) (.posReading (.set h1)), h1])

theorem posExc (h : d.Holds R) {p : Nat} {v : Int} : (d.posExc p v).Holds R := h

theorem excDrop (h : d.Holds R) : d.excDrop.Holds R := by
  unfold Dev.excDrop
  exact .ite h (.each h fun h => .posUpd h)

theorem posSlot (h : d.Holds R) {k : Nat} {rec : BitVec 64} : (d.posSlot k rec).Holds R := by
  unfold Dev.posSlot
  refine .ite h (.each h fun h => .ite h ?_)
  extract_lets d1 d2 d3
  have h1 : d1.Holds R := .ite (.posExc h) h
  have h2 : d2.Holds R := .ite (.posUpd h1) h1
  have h3 : d3.Holds R := .ite (.posUpd h2) h2
  exact .ite h1 (by split; exacts [.demod h3, h3])

theorem posFrame (h : d.Holds R) {p data at_ : Nat} : (d.posFrame p data at_).Holds R := by
  unfold Dev.posFrame
  exact .ite (.posBad h) (.ite (.posBad h) (.posReading (.posUpd h)))

theorem posRewrite (h : d.Holds R) {p : Nat} : (d.posRewrite p).Holds R := by
  unfold Dev.posRewrite
  exact .clkEval (.posShowValid (.posUnindex (.posUpd h)))

theorem posStart (h : d.Holds R) {g : Nat} : (d.posStart g).Holds R := by
  unfold Dev.posStart
  split; exacts [h, .ite (.posFall (.posSrc h)) (.posShow (.posSrc h))]

theorem posEnd (h : d.Holds R) {g : Nat} : (d.posEnd g).Holds R := by
  unfold Dev.posEnd
  split; exacts [h, (.when (.when h fun h => .raise (.set (.posUpd h))) fun h => .posShow (.posSrc h))]

theorem posSwap (h : d.Holds R) {p : Nat} {pub : Bool} {cmd0 : Int} : (d.posSwap p pub cmd0).Holds R := by
  unfold Dev.posSwap
  extract_lets _ d1 _ _ _ d2
  have h1 : d1.Holds R := .posShowValid (.when h fun h => .posUpd h)
  have h2 : d2.Holds R := .posUpd h1
  apply Holds.ite (.posShow (.posUpd h1))
  exact .ite (.ite (.posShow (.posStamp (.posUpd (.slsTake h1)))) (.ite h1 (.ite (.posLost h2) h2))) h1

/-! ## Sys2Proof/Machine/Pwm.lean -/

theorem carHalf (h : d.Holds R) {c : Nat} : (d.carHalf c).Holds R := by
  unfold Dev.carHalf
  exact .when (.carUpd h) fun h => .raiseLim (.raise (.count h))

theorem carDead (h : d.Holds R) {c : Nat} : (d.carDead c).Holds R := by
  unfold Dev.carDead
  exact .each (.carUpd h) fun h => .raiseLim (.raise (.count h))

theorem carClamps (h : d.Holds R) : d.carClamps.Holds R := by
  unfold Dev.carClamps
  exact .each h fun h => .carDead h

theorem legEdge (h : d.Holds R) {c x : Nat} {high : Bool} : (d.legEdge c x high).Holds R := by
  unfold Dev.legEdge
  exact .ite h (.carCmd (.carUpd h))

theorem fltClear (h : d.Holds R) {c mask : Nat} : (d.fltClear c mask).Holds R := h

theorem carCommit (h : d.Holds R) {c : Nat} {set : List (Nat × Nat)} : (d.carCommit c set).Holds R := h

theorem carTransfer (h : d.Holds R) {c slack : Nat} : (d.carTransfer c slack).Holds R := by
  unfold Dev.carTransfer
  extract_lets; split; exacts [.carUpd h, .ite (.carUpd h) (.raise (.count (.carUpd h)))]

theorem carLeg (h : d.Holds R) {c : Nat} {peak : Bool} {x : Nat} : (d.carLeg c peak x).Holds R := by
  unfold Dev.carLeg
  extract_lets _ _ _ _ _ _ d1 _ _ _ _ d2 d3
  have h1 : d1.Holds R := .set (.set h)
  have h2 : d2.Holds R := .carUpd (.when h1 fun h => .raiseLim (.count h))
  have h3 : d3.Holds R := .ite (.legEdge h2) h2
  exact .ite h2 (.ite (.carUpd h3) (.ite (.legEdge h3) (.carUpd h3)))

theorem carMarkEvent (h : d.Holds R) {c : Nat} {peak : Bool} : (d.carMarkEvent c peak).Holds R := by
  unfold Dev.carMarkEvent
  exact .raiseIf (.ite (.when h fun h => .adcTrig h) (.posMark (.when h fun h => .adcTrig h)))

theorem carMark (h : d.Holds R) {c : Nat} {peak : Bool} {slack : Nat} : (d.carMark c peak slack).Holds R := by
  unfold Dev.carMark
  extract_lets _ d1 _ _ d2 _ _ d3
  have h1 : d1.Holds R := .carUpd (.ite (.carUpd h) (.ite h (.carHalf h)))
  have h2 : d2.Holds R := .carTransfer (.setB h1)
  have h3 : d3.Holds R := .each (.setB h2) fun h => .carLeg h
  exact .carMarkEvent (.carRelease (.when h3 fun h => .each h fun h => .carApply h))

theorem carStart (h : d.Holds R) {c : Nat} : (d.carStart c).Holds R := by
  unfold Dev.carStart
  extract_lets d1 d2
  have h1 : d1.Holds R := .carBegin (.carUpd h)
  have h2 : d2.Holds R := .ite (.carDead (.ite h1 (.carHalf h1))) h1
  exact .ite h (.when (.clkEval (.carFollow (.showFrozen (.set h2)))) fun h => .brakePulse h)

theorem carStop (h : d.Holds R) {c : Nat} : (d.carStop c).Holds R := by
  unfold Dev.carStop
  exact .clkEval (.showFrozen (.setReg (.carUpd (.carIdle h))))

theorem brakeEnd (h : d.Holds R) : d.brakeEnd.Holds R := by
  unfold Dev.brakeEnd
  exact .driveEval (.carCmd (.carUpd h))

theorem coffOn (h : d.Holds R) {c : Nat} : (d.coffOn c).Holds R := by
  unfold Dev.coffOn
  exact .eachOf (.carUpd h) fun h => .carCmd h

theorem coffOff (h : d.Holds R) {c : Nat} : (d.coffOff c).Holds R := by
  unfold Dev.coffOff
  exact .eachOf (.carUpd h) fun h => .carCmd h

theorem coffRecord (h : d.Holds R) {c x : Nat} {r : BitVec 64} : (d.coffRecord c x r).Holds R := by
  unfold Dev.coffRecord
  exact .ite (.raiseLim (.count (.coffOff h))) h

theorem freezeBegin (h : d.Holds R) : d.freezeBegin.Holds R := by
  unfold Dev.freezeBegin
  exact .ite (.raise (.showFrozen (.count (.set h)))) h

theorem debugHalt (h : d.Holds R) {c : Nat} : (d.debugHalt c).Holds R := by
  unfold Dev.debugHalt
  exact .ite h (.when (.freezeBegin (.setBits h)) fun h => .splTrigger h)

theorem debugResume (h : d.Holds R) {c : Nat} : (d.debugResume c).Holds R := by
  unfold Dev.debugResume
  exact .ite (.freezeEnd (.clrBits (.when h fun h => .epochRestart h))) (.clrBits (.when h fun h => .epochRestart h))

/-! ## Sys2Proof/Machine/Adc.lean -/

theorem cluRecord (h : d.Holds R) {n : Nat} {r : BitVec 64} : (d.cluRecord n r).Holds R := by
  unfold Dev.cluRecord
  exact .ite (.cluUpd h) (.ite (.cluUpd h) h)

theorem cluSats (h : d.Holds R) {g : Nat} {l : List Int} : (d.cluSats g l).Holds R := h

theorem cluVector (h : d.Holds R) {g vec c : Nat} : (d.cluVector g vec c).Holds R := by
  unfold Dev.cluVector
  exact .ite (.cluUpd (.cluSats h)) (.when h fun h => .count h)

theorem adcEmit (h : d.Holds R) {n : Nat} {r : BitVec 64} : (d.adcEmit n r).Holds R := by
  unfold Dev.adcEmit
  extract_lets _ d1 _ d2
  have h1 : d1.Holds R := .when (.setReg h) fun h => .count h
  have h2 : d2.Holds R := .cluRecord (.when h1 fun h => .count h)
  exact .splFeed (.ite (.coffRecord h2) h2)

theorem adcCount (h : d.Holds R) {n : Nat} {r : BitVec 64} : (d.adcCount n r).Holds R := h

theorem adcAperture (h : d.Holds R) {n : Nat} {v : Conv} : (d.adcAperture n v).Holds R := by
  unfold Dev.adcAperture
  exact .ite h (.ite (.adcUpd (.ite (.adcEmit h) h)) (.ite (.adcCount (.adcEmit h)) (.adcEmit h)))

theorem adcNext (h : d.Holds R) {n : Nat} {next : Dev → Dev} (hn : ∀ {d}, d.Holds R → (next d).Holds R) :
    (d.adcNext n next).Holds R := by
  unfold Dev.adcNext
  split; exacts [.urgBegin (.urgShow (.adcUpd h)), hn h]

theorem udcTake (h : d.Holds R) {r : BitVec 64} : (d.udcTake r).Holds R := by
  unfold Dev.udcTake
  exact .ite (.each h fun h => .cluUpd (.cluSats h)) h

theorem refEvt (h : d.Holds R) : d.refEvt.Holds R := by
  unfold Dev.refEvt
  exact .each h fun h => .raise h

theorem calInvalid (h : d.Holds R) : d.calInvalid.Holds R := h

theorem refBegin (h : d.Holds R) : d.refBegin.Holds R := by
  unfold Dev.refBegin
  exact .ite (.refEvt (.set h)) h

theorem refSelect (h : d.Holds R) {sel : Nat} : (d.refSelect sel).Holds R := by
  unfold Dev.refSelect
  extract_lets d1
  have h1 : d1.Holds R := .set (.beside h)
  exact .ite (.ite h (.count h)) (.ite (.refBegin h1) (.ite (.refEvt (.set (.calInvalid (.set h1)))) h1))

theorem calBegin (h : d.Holds R) {n : Nat} : (d.calBegin n).Holds R := by
  unfold Dev.calBegin
  exact .clkEval (.setBits (.set h))

theorem calStart (h : d.Holds R) {mask : Nat} : (d.calStart mask).Holds R := by
  unfold Dev.calStart
  exact .each h fun h => .ite h (.ite (.calBegin h) (.count h))

theorem startDeferred (h : d.Holds R) : d.startDeferred.Holds R := by
  unfold Dev.startDeferred
  exact .each h fun h => .ite (.adcStart h) h

theorem calFailHold (h : d.Holds R) {n : Nat} : (d.calFailHold n).Holds R := by
  unfold Dev.calFailHold
  exact .eachOf h fun h => .when h fun h => .hemSafe h

theorem trimStart (h : d.Holds R) : d.trimStart.Holds R := by
  unfold Dev.trimStart
  exact .ite h (.ite (.set h) (.clkEval (.set h)))

theorem rwsRefuse (h : d.Holds R) {o : Origin} : (d.rwsRefuse o).Holds R := by
  unfold Dev.rwsRefuse
  exact .ite (.count h) (.count h)

theorem rwsStored (h : d.Holds R) : d.rwsStored.Holds R := h

theorem trimWrite (h : d.Holds R) {o : Origin} : (d.trimWrite o).Holds R := by
  unfold Dev.trimWrite
  exact .ite h (.ite (.trimStart (.rwsStored h)) (.rwsRefuse h))

/-! ## Sys2Proof/Machine/Gch.lean -/

theorem gchReport (h : d.Holds R) {n bits : Nat} : (d.gchReport n bits).Holds R := by
  unfold Dev.gchReport
  exact .each (.gchUpd (.setReg (.ite (.setReg h) h))) fun h => .when h fun h => .jnlFault (.raise h)

theorem gchShowCause (h : d.Holds R) {n : Nat} : (d.gchShowCause n).Holds R := h

theorem gchLatch (h : d.Holds R) {n bits cause : Nat} : (d.gchLatch n bits cause).Holds R := by
  unfold Dev.gchLatch
  exact .ite (.gchUpd h) (.gchShowCause (.gchReport (.gchUpd h)))

theorem gchTrip (h : d.Holds R) {n st : Nat} : (d.gchTrip n st).Holds R := by
  unfold Dev.gchTrip
  exact .ite (.disEnd (.when h fun h => .gateOffBy h)) (.gchPut (.gateOff (.when h fun h => .gateOffBy h)))

theorem gchFault1 (h : d.Holds R) {n bits cause : Nat} {soft : Bool} {from_ : List Nat} : (d.gchFault1 n bits cause soft
  from_).Holds R := by
  unfold Dev.gchFault1
  extract_lets _ d1 d2
  have h1 : d1.Holds R := .gchLatch h
  have h2 : d2.Holds R := .ite (.gchUpd h1) h1
  exact .ite h (.ite (.ite (.gchUpd h2) h2) (.ite (.gchTrip h2) h2))

theorem gchGroupSafe (h : d.Holds R) {n : Nat} : (d.gchGroupSafe n).Holds R := by
  unfold Dev.gchGroupSafe
  exact .ite h (.ite (.groupSafe h) h)

theorem gchFault (h : d.Holds R) {n bits cause : Nat} {soft : Bool} {from_ : List Nat} : (d.gchFault n bits cause soft
  from_).Holds R := by
  unfold Dev.gchFault
  exact .gchGroupSafe (.eachOf h fun h => .gchFault1 h)

theorem supplyPut (h : d.Holds R) {n : Nat} {vpos vneg : BitVec 8} : (d.supplyPut n vpos vneg).Holds R := by
  unfold Dev.supplyPut
  exact .ite (.gchUpd h) (.set (.set (.gchUpd h)))

theorem tableLoad (h : d.Holds R) {n : Nat} : (d.tableLoad n).Holds R := h

theorem tableLoadAll (h : d.Holds R) : d.tableLoadAll.Holds R := by
  unfold Dev.tableLoadAll
  exact .each h fun h => .when h fun h => .tableLoad h

theorem edgeLearn (h : d.Holds R) {n : Nat} {on : Bool} {ts : Option Nat} {code vdsOff : Nat} : (d.edgeLearn n on ts code
  vdsOff).Holds R := by
  unfold Dev.edgeLearn
  extract_lets _ _ _ _ _ d1 _ _ _ d2 d3
  have h1 : d1.Holds R := .gchUpd h
  have h2 : d2.Holds R := .gchUpd (.set (.set (.set h1)))
  have h3 : d3.Holds R := by unfold d3; split; exacts [.set (.gchUpd h2), .count h2]
  apply Holds.ite h3
  split
  · exact .count h3
  · exact .ite (.count h3) (.ite h3 (.when (.count (.tableLoad (.set h3))) fun h => .raise h))

theorem sidesAgain (h : d.Holds R) : d.sidesAgain.Holds R := by
  unfold Dev.sidesAgain
  exact .each (.showAsc h) fun h => .ite (.applySet h) h

theorem trainDone (h : d.Holds R) {n : Nat} : (d.trainDone n).Holds R := by
  unfold Dev.trainDone
  extract_lets d1 _ d2 _ d3 _ _ _ d4 d5
  have h1 : d1.Holds R := .gchUpd h
  have h2 : d2.Holds R := .set (.set (.tableLoad h1))
  have h3 : d3.Holds R := .when (.clrBits (.setBits h2)) fun h => .setB h
  have h4 : d4.Holds R := .gchShowCause (.when h3 fun h => .gchReport h)
  have h5 : d5.Holds R := .ite (.setPaths h4) h4
  exact .foHoldAll (.sidesAgain (.driveEval (.gchPut (.when h5 fun h => .gateOff h))))

theorem supplyRead (h : d.Holds R) {n : Nat} {r : Rails} : (d.supplyRead n r).Holds R := h

theorem trainFail (h : d.Holds R) {n : Nat} : (d.trainFail n).Holds R := h

theorem ascRelease (h : d.Holds R) {g : Nat} : (d.ascRelease g).Holds R := by
  unfold Dev.ascRelease
  exact .eachOf h fun h => .ite (.set (.eachOf h fun h => .ite (.gchOff h) h)) h

theorem gateDisable (h : d.Holds R) : d.gateDisable.Holds R := by
  unfold Dev.gateDisable
  exact .each (.set h) fun h => .ite (.gateOff h) (.gchTrip h)

theorem gateClear (h : d.Holds R) {n : Nat} {stuck rising : Bool} : (d.gateClear n stuck rising).Holds R := by
  unfold Dev.gateClear
  exact .ite (.gchPut (.gchShowCause (.setReg (.gchUpd h)))) (.gchShowCause (.setReg (.gchUpd h)))

theorem gateClearAll (h : d.Holds R) {stuck : Nat} {rising : Bool} : (d.gateClearAll stuck rising).Holds R := by
  unfold Dev.gateClearAll
  exact .each (.sidesAgain (.each h fun h => .gateClear h)) fun h => .driveEval h

theorem gateRise (h : d.Holds R) {lowNs stuck : Nat} : (d.gateRise lowNs stuck).Holds R := by
  unfold Dev.gateRise
  extract_lets d1 _ _ d2
  have h1 : d1.Holds R := .set (.set h)
  have h2 : d2.Holds R := .ite (.drawn h1) h1
  exact .ite (.count (.gateClearAll (.set (.ite h2 (.thmEvalAll (.gateDisable h2)))))) (.ite (.count (.gateClearAll h2))
    (.count h2))

/-! ## Sys2Proof/Machine/Clu.lean -/

theorem clampActs (h : d.Holds R) {g kind : Nat} {f : Fld} {acts : Bool} : (d.clampActs g kind f acts).Holds R := by
  unfold Dev.clampActs
  exact .ite h (.ite (.raiseLim (.count (.beside h))) (.beside h))

theorem takePair (h : d.Holds R) {g : Nat} : (d.takePair g).Holds R := by
  unfold Dev.takePair
  split; exacts [.cluUpd h, .ite (.cluUpd h) h]

theorem cluRefs (h : d.Holds R) {g : Nat} : (d.cluRefs g).Holds R := by
  unfold Dev.cluRefs
  exact .setReg (.clampActs (.clampActs (.clampActs (.cluSats (.setReg (.takePair h))))))

theorem cluPark (h : d.Holds R) {g tm : Nat} : (d.cluPark g tm).Holds R := h

theorem cluTrip (h : d.Holds R) {g : Nat} : (d.cluTrip g).Holds R := by
  unfold Dev.cluTrip
  exact .groupSafe h

theorem cluMeasure (h : d.Holds R) {g tm : Nat} : (d.cluMeasure g tm).Holds R := by
  unfold Dev.cluMeasure
  extract_lets _ _ _ _ _ _ _ d1 _ _ _ _ _ _ d2
  have h1 : d1.Holds R := .when (.cluUpd (.cluSats h)) fun h => .raise (.add (.set h))
  have h2 : d2.Holds R := .cluUpd (.cluSats h1)
  exact .ite (.when (.cluUpd h1) fun h => .cluTrip h) (.cluPark (.each (.when h2 fun h => .raise (.set h)) fun h => .setReg
    h))

theorem showRecon (h : d.Holds R) {g : Nat} : (d.showRecon g).Holds R := by
  unfold Dev.showRecon
  split; exacts [.set h, (.each (.set (.cluSats h)) fun h => .setReg h)]

theorem disagreeSats (h : d.Holds R) {g : Nat} {rec : List Int} : (d.disagreeSats g rec).Holds R := h

theorem cluDecide (h : d.Holds R) {g : Nat} : (d.cluDecide g).Holds R := by
  unfold Dev.cluDecide
  exact .ite (.jnlFault (.cluPut (.eachOf (.raise (.set (.set h))) fun h => .set h))) (.jnlFault (.cluTrip h))

theorem cluCompare (h : d.Holds R) {g : Nat} : (d.cluCompare g).Holds R := by
  unfold Dev.cluCompare
  extract_lets
  split
  · exact h
  · extract_lets d1 _ _ d2
    have h1 : d1.Holds R := .cluUpd (.disagreeSats h)
    have h2 : d2.Holds R := .cluUpd h1
    exact .ite h (.ite (.cluUpd h1) (.when (.raise (.set h2)) fun h => .cluDecide h))

theorem cluFromRecon (h : d.Holds R) {g tm : Nat} : (d.cluFromRecon g tm).Holds R := by
  unfold Dev.cluFromRecon
  split; exacts [.cluPark (.cluUpd h), .ite (.jnlFault (.cluTrip (.cluUpd h))) (.cluUpd h)]

theorem cluControl (h : d.Holds R) {g : Nat} {rec : Bool} {half : Nat} : (d.cluControl g rec half).Holds R := by
  unfold Dev.cluControl
  extract_lets d1 _ _ _ _ _ _ _ _ _ _ _ _ _ _ _ _ _ _ _ d2 _ d3
  have h1 : d1.Holds R := .cluRefs h
  have h2 : d2.Holds R := .cluUpd (.cluSats h1)
  have h3 : d3.Holds R := .setB (.setB (.when h2 fun h => .raiseLim h))
  exact .setReg (.setReg (.setReg (.setReg h3)))

theorem cluPlan (h : d.Holds R) {g tm : Nat} {fixed : Bool} {order : Nat × Nat × Nat} {rise fall : List Int} : (d.cluPlan g tm
  fixed order rise fall).Holds R := by
  unfold Dev.cluPlan
  exact .ite (.cluUpd h) (by split; exact .when (.add (.cluUpd h)) fun h => .count h)

theorem cluRepeat (h : d.Holds R) {g tm : Nat} : (d.cluRepeat g tm).Holds R := by
  unfold Dev.cluRepeat
  exact .ite (.cluUpd h) (.ite (.cluUpd (.cluPlan h)) (.cluPlan h))

theorem dutySats (h : d.Holds R) {g : Nat} {va vb : Int} : (d.dutySats g va vb).Holds R := h

theorem cluModulate (h : d.Holds R) {g tm : Nat} {peak : Bool} : (d.cluModulate g tm peak).Holds R := by
  unfold Dev.cluModulate
  split; exact .cluUpd (.ite (.set (.dutySats h)) (.cluPlan (.set (.dutySats h))))

theorem cluSpool (h : d.Holds R) {g tm : Nat} : (d.cluSpool g tm).Holds R := by
  unfold Dev.cluSpool
  exact .each h fun h => by split; exacts [.splFeed h, h]

theorem cluInput (h : d.Holds R) {g tm : Nat} : (d.cluInput g tm).Holds R := by
  unfold Dev.cluInput
  extract_lets _ d1 d2 d3
  have h1 : d1.Holds R := .ite (.cluMeasure h) h
  have h2 : d2.Holds R := .showRecon h1
  have h3 : d3.Holds R := .ite (.cluCompare h2) h2
  exact .ite (.cluUpd h1) (.cluUpd (.ite (.cluFromRecon h3) h3))

theorem cluOutput (h : d.Holds R) {g tm : Nat} : (d.cluOutput g tm).Holds R := by
  unfold Dev.cluOutput
  exact .ite h (.ite (.cluSpool (.cluModulate (.cluControl h))) (.cluSpool (.ite h (.cluRepeat h))))

theorem cluTransfer (h : d.Holds R) {g : Nat} {bad : Bool} : (d.cluTransfer g bad).Holds R := by
  unfold Dev.cluTransfer
  exact .ite (.cluTrip (.raise (.set h))) (.ite h (.carCommit h))

theorem cluLasting (h : d.Holds R) {g : Nat} : (d.cluLasting g).Holds R := by
  unfold Dev.cluLasting
  exact .when (.when h fun h => .set h) fun h => .set h

theorem enableRefuse (h : d.Holds R) {g why : Nat} : (d.enableRefuse g why).Holds R := by
  unfold Dev.enableRefuse
  exact .set (.count (.eachOf (.when h fun h => .raiseLim (.count h)) fun h => .set h))

theorem enableTake (h : d.Holds R) {g : Nat} : (d.enableTake g).Holds R := by
  unfold Dev.enableTake
  extract_lets d1 _ d2
  have h1 : d1.Holds R := .eachOf h fun h => .set (.set (.setReg (.set (.set (.set (.cluUpd h))))))
  have h2 : d2.Holds R := .eachOf (.ascRelease h1) fun h => .set h
  exact .posStart (.eachOf (.cluPut h2) fun h => .urgRequest h)

theorem cluEnable (h : d.Holds R) {g : Nat} : (d.cluEnable g).Holds R := by
  unfold Dev.cluEnable
  exact .ite h (.ite (.enableTake h) (.enableRefuse h))

theorem cluOff (h : d.Holds R) {g : Nat} : (d.cluOff g).Holds R := by
  unfold Dev.cluOff
  exact .cluPut (.eachOf (.posEnd h) fun h => .set h)

theorem cluDisable (h : d.Holds R) {g : Nat} : (d.cluDisable g).Holds R := by
  unfold Dev.cluDisable
  exact .ite h (.cluOff h)

theorem sixSet (h : d.Holds R) : d.sixSet.Holds R := by
  unfold Dev.sixSet
  exact .cluPut1 (.set (.ite h (.posEnd h)))

theorem offsetStore (h : d.Holds R) {g : Nat} : (d.offsetStore g).Holds R := by
  unfold Dev.offsetStore
  exact .each h fun h => .ite h (.setI h)

/-! ## Sys2Proof/Machine/Align.lean -/

theorem alignFail (h : d.Holds R) {p res : Nat} : (d.alignFail p res).Holds R := by
  unfold Dev.alignFail
  exact .posLost (.raise (.set (.posUpd h)))

theorem alignDrive (h : d.Holds R) {p : Nat} {v a : Int} : (d.alignDrive p v a).Holds R := by
  unfold Dev.alignDrive
  split; exacts [h, (.eachOf h fun h => .carCommit (.dutySats h))]

theorem alignPulse (h : d.Holds R) {p k : Nat} : (d.alignPulse p k).Holds R := by
  unfold Dev.alignPulse
  exact .alignDrive (.posUpd h)

theorem alignEval (h : d.Holds R) {p : Nat} : (d.alignEval p).Holds R := by
  unfold Dev.alignEval
  exact .ite (.alignFail (.set h)) (.alignPulse (.posUpd (.set h)))

theorem alignMap (h : d.Holds R) {p : Nat} {t0 : Int} : (d.alignMap p t0).Holds R := by
  unfold Dev.alignMap
  exact .posSrc (.posUpd h)

theorem alignOpen (h : d.Holds R) {p : Nat} {t0 : Int} : (d.alignOpen p t0).Holds R := by
  unfold Dev.alignOpen
  exact .posSrc (.posUpd h)

theorem testRun (h : d.Holds R) {p : Nat} : (d.testRun p).Holds R := by
  unfold Dev.testRun
  split; exacts [.ite (.cluPut h) h, h]

theorem alignPass (h : d.Holds R) {p : Nat} {t0 : Int} : (d.alignPass p t0).Holds R := by
  unfold Dev.alignPass
  extract_lets _ d1 _ d2
  have h1 : d1.Holds R := .posUpd (.set (.set h))
  have h2 : d2.Holds R := .testRun (.ite (.alignMap h1) (.alignOpen h1))
  exact .ite (.posLost h2) (.posShow h2)

theorem alignPolarity (h : d.Holds R) {p : Nat} : (d.alignPolarity p).Holds R := by
  unfold Dev.alignPolarity
  exact .ite (.alignFail (.set h)) (.alignPass (.set h))

/-! ## Sys2Proof/Machine/Fio.lean -/

theorem foWrite (h : d.Holds R) {n mode : Nat} : (d.foWrite n mode).Holds R := by
  unfold Dev.foWrite
  extract_lets
  apply Holds.ite h
  apply Holds.ite (.raiseLim (.count h))
  apply Holds.ite (.ite (.foPut (.set h)) (.set h))
  exact .ite (.ite (.foResume (.set h)) (.foPut (.set h))) (.ite (.ite (.foResume (.set h)) (.foPut (.set h))) (.set h))

theorem foCurrent (h : d.Holds R) {n : Nat} {ma : BitVec 16} : (d.foCurrent n ma).Holds R := by
  unfold Dev.foCurrent
  exact .when h fun h => .set h

theorem foFights (h : d.Holds R) {b : Nat} {l : List Nat} : (d.foFights b l).Holds R := by
  unfold Dev.foFights
  exact .eachOf h fun h => .setBits (.set (.foPut h))

theorem foLatch (h : d.Holds R) {n cause : Nat} {fight : Bool} : (d.foLatch n cause fight).Holds R := by
  unfold Dev.foLatch
  exact .raise (.foFights (.when (.foUpd (.setBits (.set (.foPut h)))) fun h => .setBits h))

theorem foBrakeLatch (h : d.Holds R) {n cause : Nat} : (d.foBrakeLatch n cause).Holds R := by
  unfold Dev.foBrakeLatch
  exact .raise (.foFights (.sbcFault (.foUpd (.setBits (.set h)))))

theorem foClear (h : d.Holds R) {n : Nat} : (d.foClear n).Holds R := by
  unfold Dev.foClear
  exact .ite (.foHold (.set (.foResume (.clrBits h)))) (.clrBits h)

theorem foClearMask (h : d.Holds R) {mask : Nat} : (d.foClearMask mask).Holds R := by
  unfold Dev.foClearMask
  exact .each h fun h => .when h fun h => .foClear h

theorem diFiltered (h : d.Holds R) {n : Nat} : (d.diFiltered n).Holds R := by
  unfold Dev.diFiltered
  exact .ite (.beside h) (.raiseIf (.ite (.setBits (.beside h)) (.clrBits (.beside h))))

theorem diRaw (h : d.Holds R) {n : Nat} {level : Bool} : (d.diRaw n level).Holds R := by
  unfold Dev.diRaw
  extract_lets d1
  have h1 : d1.Holds R := .ite (.setBits h) (.clrBits h)
  exact .ite h (.ite (.when (.beside h1) fun h => .count h) (.ite (.diFiltered h1) (.beside h1)))

/-! ## Sys2Proof/Machine/Stepper.lean -/

theorem coilClamp (h : d.Holds R) {n : Nat} : (d.coilClamp n).Holds R := by
  unfold Dev.coilClamp
  exact .when h fun h => .raiseLim (.count h)

theorem coilUpd (h : d.Holds R) {n : Nat} {b : Bool} {f : Coil → Coil} : (d.coilUpd n b f).Holds R := h

theorem thrCount (h : d.Holds R) {n : Nat} {b up : Bool} : (d.thrCount n b up).Holds R := by
  unfold Dev.thrCount
  exact .when h fun h => .count h

theorem chopLow (h : d.Holds R) {n : Nat} {b : Bool} : (d.chopLow n b).Holds R := h

theorem chopOn (h : d.Holds R) {n : Nat} {b low : Bool} : (d.chopOn n b low).Holds R := by
  unfold Dev.chopOn
  exact .ite (.coilUpd h) (.ite (.chopLow h) (.thrCount (.coilUpd h)))

theorem chopOff (h : d.Holds R) {n : Nat} {b low : Bool} : (d.chopOff n b low).Holds R := by
  unfold Dev.chopOff
  exact .ite (.chopLow h) (.thrCount (.coilUpd h))

theorem chopSum (h : d.Holds R) {n : Nat} {b : Bool} {off : Nat} : (d.chopSum n b off).Holds R := h

theorem bandTake (h : d.Holds R) {n r : Nat} : (d.bandTake n r).Holds R := by
  unfold Dev.bandTake
  exact .raise (.set (.set (.set h)))

theorem bandTick (h : d.Holds R) {n : Nat} {rest : Bool} : (d.bandTick n rest).Holds R := by
  unfold Dev.bandTick
  exact .ite (.set (.set h)) (.ite (.bandTake h) (.ite (.count (.bandTake h)) (.set (.set h))))

theorem homeFail (h : d.Holds R) {n why : Nat} : (d.homeFail n why).Holds R := by
  unfold Dev.homeFail
  exact .raise (.set (.set (.set h)))

theorem homeAbort (h : d.Holds R) {n why : Nat} : (d.homeAbort n why).Holds R := by
  unfold Dev.homeAbort
  exact .ite (.homeFail h) h

theorem axStop (h : d.Holds R) {n : Nat} {e : Bool} : (d.axStop n e).Holds R := by
  unfold Dev.axStop
  exact .axPut (.axisUpd h)

theorem axFault (h : d.Holds R) {n off : Nat} : (d.axFault n off).Holds R := by
  unfold Dev.axFault
  exact .jnlFault (.axPut (.axBridgesOff (.axHalt h)))

theorem axStall (h : d.Holds R) {n : Nat} : (d.axStall n).Holds R := by
  unfold Dev.axStall
  extract_lets _ d1 _ _ d2
  have h1 : d1.Holds R := .raise (.set (.set h))
  have h2 : d2.Holds R := .homeAbort (.axisUpd h1)
  exact .ite (.axFault h2) (.ite (.axStop h2) (.ite (.axStop h2) h2))

theorem loadPublish (h : d.Holds R) {n : Nat} {c : Coil} : (d.loadPublish n c).Holds R := by
  unfold Dev.loadPublish
  exact .when (.axisUpd (.set (.set (.setI (.setI (.ite (.drawn h) h)))))) fun h => .axStall h

theorem windowEnd (h : d.Holds R) {n : Nat} {c : Coil} : (d.windowEnd n c).Holds R := by
  unfold Dev.windowEnd
  exact .ite (.blindShow (.axisUpd h)) (.loadPublish (.blindShow (.axisUpd h)))

theorem coilTick (h : d.Holds R) {n : Nat} {b low : Bool} : (d.coilTick n b low).Holds R := by
  unfold Dev.coilTick
  extract_lets _ _ _ d1 _ _ d2
  have h1 : d1.Holds R := .ite h (.coilUpd h)
  have h2 : d2.Holds R := .coilUpd (.ite (.coilUpd h1) (.ite (.windowEnd (.coilUpd h1)) h1))
  exact .ite h2 (.ite (.coilUpd h2) (.ite (.chopOn h2) h2))

theorem jerkTake (h : d.Holds R) {n : Nat} {s x : Int} {goal : Option Int} : (d.jerkTake n s x goal).Holds R := h

theorem axToward (h : d.Holds R) {n : Nat} {vt e : Int} {jerk : Bool} : (d.axToward n vt e jerk).Holds R := by
  unfold Dev.axToward
  exact .ite (.axisUpd (.setI h)) (.jerkTake h)

theorem axTurn (h : d.Holds R) {n : Nat} {s left : Int} : (d.axTurn n s left).Holds R := by
  unfold Dev.axTurn
  exact .ite (.axToward h) (.axisUpd (.setI h))

theorem axSeek (h : d.Holds R) {n : Nat} {tgt : Int} {vmax : Int} : (d.axSeek n tgt vmax).Holds R := by
  unfold Dev.axSeek
  exact .ite (.axTurn h) (.ite (.jerkTake (.drawn h)) (.axisUpd (.setI (.drawn h))))

theorem axMove (h : d.Holds R) {n : Nat} {w : Int} : (d.axMove n w).Holds R := h

theorem axShow (h : d.Holds R) {n : Nat} : (d.axShow n).Holds R := by
  unfold Dev.axShow
  exact .ite (.setReg h) (.setB (.setReg h))

theorem axGo (h : d.Holds R) {n : Nat} : (d.axGo n).Holds R := by
  unfold Dev.axGo
  exact .ite (.axPut (.when (.set h) fun h => .coilClamp h)) h

theorem axTarget (h : d.Holds R) {n : Nat} {x : Int} : (d.axTarget n x).Holds R := by
  unfold Dev.axTarget
  exact .axGo (.axisUpd h)

theorem axSpeed (h : d.Holds R) {n : Nat} {x : Int} : (d.axSpeed n x).Holds R := by
  unfold Dev.axSpeed
  exact .axGo (.axisUpd h)

theorem axTgtWrite (h : d.Holds R) {n : Nat} {v : BitVec 64} : (d.axTgtWrite n v).Holds R := by
  unfold Dev.axTgtWrite
  exact .ite (.setReg h) (.axTarget (.setReg h))

theorem axVtgtWrite (h : d.Holds R) {n : Nat} {v : BitVec 64} : (d.axVtgtWrite n v).Holds R := by
  unfold Dev.axVtgtWrite
  exact .ite (.setReg h) (.axSpeed (.setReg h))

theorem axPosWrite (h : d.Holds R) {n : Nat} {v : BitVec 64} : (d.axPosWrite n v).Holds R := by
  unfold Dev.axPosWrite
  exact .ite (.axShow (.axisUpd h)) (.ite h (.count h))

theorem axSwap1 (h : d.Holds R) {n : Nat} {new : Bool} : (d.axSwap1 n new).Holds R := by
  unfold Dev.axSwap1
  exact .ite (.ite (.axUnhold h) h) (.ite (.axTarget (.ite (.axUnhold h) h)) (.axSpeed (.ite (.axUnhold h) h)))

theorem axSwap (h : d.Holds R) {own : Nat → Bool} {pub : List Nat} : (d.axSwap own pub).Holds R := by
  unfold Dev.axSwap
  exact .each h fun h => .when h fun h => .axSwap1 h

theorem axEnable (h : d.Holds R) {n : Nat} : (d.axEnable n).Holds R := by
  unfold Dev.axEnable
  exact .ite h (.ite (.count (.set h)) (.axPut (.coilClamp (.set (.axisUpd (.set (.set (.set (.set (.set h))))))))))

theorem axDisable (h : d.Holds R) {n : Nat} : (d.axDisable n).Holds R := by
  unfold Dev.axDisable
  exact .ite (.set h) (.axPut (.set (.axBridgesOff (.axHalt (.homeAbort h)))))

theorem axStopWrite (h : d.Holds R) {n : Nat} : (d.axStopWrite n).Holds R := by
  unfold Dev.axStopWrite
  exact .ite (.axStop (.homeAbort h)) (.axisUpd h)

theorem homeStart (h : d.Holds R) {n : Nat} : (d.homeStart n).Holds R := by
  unfold Dev.homeStart
  exact .ite (.axPut (.when (.set (.set (.set h))) fun h => .coilClamp h)) h

theorem limTrip (h : d.Holds R) {n : Nat} : (d.limTrip n).Holds R := by
  unfold Dev.limTrip
  exact .ite h (.axStop (.raise (.set (.setI h))))

theorem homeLimit (h : d.Holds R) {n : Nat} : (d.homeLimit n).Holds R := by
  unfold Dev.homeLimit
  exact .ite h (.axStop (.homeFail (.when (.when h fun h => .raise (.set h)) fun h => .raise (.set h))))

theorem homeConfirm (h : d.Holds R) {n : Nat} : (d.homeConfirm n).Holds R := h

theorem axRest (h : d.Holds R) {n : Nat} : (d.axRest n).Holds R := by
  unfold Dev.axRest
  exact .axPut (.axisUpd (.set h))

theorem axStep (h : d.Holds R) {n : Nat} {tgt : Option Int} : (d.axStep n tgt).Holds R := by
  unfold Dev.axStep
  extract_lets; split; exacts [.axMove h, .ite (.axisUpd (.set h)) (.axMove h)]

theorem moveTick (h : d.Holds R) {n : Nat} : (d.moveTick n).Holds R := by
  unfold Dev.moveTick
  extract_lets _ _ d1 _ d2 _ _ d3
  have h1 : d1.Holds R := .axStep (.axSeek h)
  have h2 : d2.Holds R := .axStep (.axToward h)
  have h3 : d3.Holds R := .setI (.axMove h)
  split; exacts [.ite (.raise (.axRest h1)) h1, .ite (.axRest h2) h2, .ite (.axPut h3) h3, .axRest h]

theorem homeMove (h : d.Holds R) {n : Nat} {back : Bool} : (d.homeMove n back).Holds R := by
  unfold Dev.homeMove
  exact .axStep (.axToward h)

theorem homePhase (h : d.Holds R) {n st : Nat} : (d.homePhase n st).Holds R := h

theorem homeDone (h : d.Holds R) {n : Nat} : (d.homeDone n).Holds R := by
  unfold Dev.homeDone
  exact .axRest (.raise (.set (.set h)))

theorem homeTick (h : d.Holds R) {n : Nat} : (d.homeTick n).Holds R := by
  unfold Dev.homeTick
  extract_lets d1 d2 d3 d4 _ d5
  have h1 : d1.Holds R := .homeMove h
  have h2 : d2.Holds R := .homeMove h
  have h3 : d3.Holds R := .axStep (.axToward h)
  have h4 : d4.Holds R := .axisUpd h3
  have h5 : d5.Holds R := .axStep (.axSeek h)
  split
  · exact .homePhase h
  · split; exacts [.ite (.homePhase h1) h1, .ite (.axStop (.homeFail h1)) h1]
  · exact .ite (.axStop (.homeFail h2)) h2
  · exact .homeMove h
  · exact .ite h3 (.ite (.set h4) (.homeDone h4))
  · exact .ite (.homeDone h5) h5
  · exact h

theorem stopTick (h : d.Holds R) {n : Nat} : (d.stopTick n).Holds R := by
  unfold Dev.stopTick
  exact .ite (.axRest (.axisUpd (.axStep (.axToward h)))) (.axStep (.axToward h))

theorem restTick (h : d.Holds R) {n : Nat} : (d.restTick n).Holds R := h

theorem coilResult (h : d.Holds R) {n : Nat} {b : Bool} {stamp mean : Nat} : (d.coilResult n b stamp mean).Holds R := by
  unfold Dev.coilResult
  extract_lets _ _ _ d1
  have h1 : d1.Holds R := .coilUpd h
  exact .ite h (.ite (.axFault (.raise (.set (.homeAbort h1)))) (.ite h1 (.ite (.coilUpd h1) (.coilUpd (.setI h1)))))

theorem axFltClear (h : d.Holds R) {n mask : Nat} : (d.axFltClear n mask).Holds R := h

/-! ## Sys2Proof/Machine/Engine.lean -/

theorem stwPut (h : d.Holds R) {n w : Nat} {v : BitVec 64} : (d.stwPut n w v).Holds R := h

theorem slFlt (h : d.Holds R) {n kind : Nat} : (d.slFlt n kind).Holds R := by
  unfold Dev.slFlt
  exact .ite (.raiseLim h) (.trigCause h)

theorem flightPut (h : d.Holds R) {n : Nat} {l : List Flight} : (d.flightPut n l).Holds R := h

theorem slSats (h : d.Holds R) {n : Nat} {l : List Int} : (d.slSats n l).Holds R := h

theorem pcBy (h : d.Holds R) {n k : Nat} : (d.pcBy n k).Holds R := h

theorem issueBy (h : d.Holds R) {n opc : Nat} {reads writes : Oper → List Nat} {need : Nat} {f : Oper → Dev → Dev}
    (hf : ∀ {o d}, d.Holds R → (f o d).Holds R) : (d.issueBy n opc reads writes need f).Holds R := by
  unfold Dev.issueBy
  split; exacts [h, .ite (.pcBy (hf h)) h]

theorem issue0 (h : d.Holds R) {n opc : Nat} {reads : Oper → List Nat} {f : Oper → Dev → Dev}
    (hf : ∀ {o d}, d.Holds R → (f o d).Holds R) : (d.issue0 n opc reads f).Holds R := by
  unfold Dev.issue0
  exact .issueBy h hf

theorem issueMac (h : d.Holds R) {n opc : Nat} {f : Oper → Dev → Dev}
    (hf : ∀ {o d}, d.Holds R → (f o d).Holds R) : (d.issueMac n opc f).Holds R := by
  unfold Dev.issueMac
  exact .issueBy h hf

theorem issue1 (h : d.Holds R) {n opc : Nat} {reads : Oper → List Nat} {f : Oper → Dev → Dev}
    (hf : ∀ {o d}, d.Holds R → (f o d).Holds R) : (d.issue1 n opc reads f).Holds R := by
  unfold Dev.issue1
  exact .issueBy h hf

theorem now1 (h : d.Holds R) {n w : Nat} {raw : Int} : (d.now1 n w raw).Holds R := h

theorem later (h : d.Holds R) {n : Nat} {l : List (Nat × Int)} : (d.later n l).Holds R := h

theorem alu (h : d.Holds R) {n opc : Nat} {reads : Oper → List Nat} {f : Int → Int → Int → Int} :
    (d.alu n opc reads f).Holds R :=
  by
  unfold Dev.alu
  exact .issue1 h fun h => .now1 h

theorem macPut (h : d.Holds R) {n : Nat} {x : Int} : (d.macPut n x).Holds R := by
  unfold Dev.macPut
  exact .flightPut (.slcUpd (.when h fun h => .count h))

theorem divCount (h : d.Holds R) {n : Nat} {b : Int} : (d.divCount n b).Holds R := by
  unfold Dev.divCount
  exact .when h fun h => .slFlt (.count h)

theorem rootCount (h : d.Holds R) {n : Nat} {a : Int} : (d.rootCount n a).Holds R := by
  unfold Dev.rootCount
  exact .when h fun h => .slFlt (.count h)

theorem closeIf (h : d.Holds R) {g : Nat} : (d.closeIf g).Holds R := by
  unfold Dev.closeIf
  exact .when h fun h => .egrUpd h

theorem slReturn (h : d.Holds R) {n : Nat} : (d.slReturn n).Holds R := by
  unfold Dev.slReturn
  exact .clkEval (.set h)

theorem splEnd (h : d.Holds R) {n : Nat} : (d.splEnd n).Holds R := by
  unfold Dev.splEnd
  exact .each h fun h => .when h fun h => .splMade h

theorem opResult (h : d.Holds R) {n k : Nat} : (d.opResult n k).Holds R := by
  unfold Dev.opResult
  extract_lets d1
  have h1 : d1.Holds R := .flightPut h
  split; exacts [h, (by split; exacts [(.eachOf h1 fun h => .stwPut h), .ite (.count h1) (.portUpd h1)])]

theorem tuneWrite (h : d.Holds R) {c : Commit} : (d.tuneWrite c).Holds R := by
  unfold Dev.tuneWrite
  exact .eachOf h fun h => .when (.stwPut h) fun h => .set h

theorem tuneApply (h : d.Holds R) {g : Nat} : (d.tuneApply g).Holds R := by
  unfold Dev.tuneApply
  refine List.foldlRecOn (motive := fun acc : Dev × List Commit => acc.1.Holds R) _ _ h fun acc h p _ => ?_
  split
  · exact h
  · split
    · exact h
    · exact .set (.set (.portUpd (.tuneWrite (.when h fun h => .add h))))

theorem slOpen (h : d.Holds R) {n : Nat} : (d.slOpen n).Holds R := by
  unfold Dev.slOpen
  extract_lets _ _ _ d1
  have h1 : d1.Holds R := .slcUpd h
  split
  · exact .ite (.set h1) (.ite (.slcUpd (.set (.set h1))) h1)
  · exact .ite (.slFlt (.count h1)) h1
  · exact h1

theorem grpTrigger (h : d.Holds R) {g : Nat} : (d.grpTrigger g).Holds R := by
  unfold Dev.grpTrigger
  extract_lets _ d1 _ _ d2
  have h1 : d1.Holds R := .egrUpd h
  have h2 : d2.Holds R := .egrUpd h1
  exact .ite (.egrUpd h) (.ite (.count h1) (.clkEval (.closeIf (.eachOf (.tuneApply (.set h2)) fun h => .slOpen h))))

theorem accept (h : d.Holds R) : d.accept.Holds R := by
  unfold Dev.accept
  exact .eachOf h fun h => by split; exacts [h, .slcUpd (.egrUpd h)]

theorem hemGuard (h : d.Holds R) {w : Nat} : (d.hemGuard w).Holds R := by
  unfold Dev.hemGuard
  exact .each (.eachOf (.jnlHem (.raise (.set (.count h)))) fun h => .hemSafe h) fun h => .when h fun h => .axHold h

theorem ageWord (h : d.Holds R) {w : Nat} : (d.ageWord w).Holds R := by
  unfold Dev.ageWord
  exact .ite h (.ite (.hemGuard (.raise (.count (.set h)))) (.set h))

theorem posSwaps (h : d.Holds R) {g : Nat} {pub : List Nat} {cmds : List Int} : (d.posSwaps g pub cmds).Holds R := by
  unfold Dev.posSwaps
  exact .each h fun h => .ite (.posSwap h) h

theorem swap (h : d.Holds R) {g : Nat} : (d.swap g).Holds R := by
  unfold Dev.swap
  extract_lets _ _ _ d1 _ _ d2 _ d3
  have h1 : d1.Holds R := .setReg h
  have h2 : d2.Holds R := .egrUpd (.eachOf (.set h1) fun h => .set (.setReg h))
  have h3 : d3.Holds R := .each (.eachOf h2 fun h => .ite h (.ite (.raiseIf (.eachOf h fun h => .ageWord h)) (.slFlt (.count
    (.eachOf h fun h => .ageWord h))))) fun h => .when h fun h => .splMade h
  exact .clkEval (.posSwaps (.axSwap h3))

theorem slRunPut (h : d.Holds R) {n : Nat} {run : Bool} : (d.slRunPut n run).Holds R := by
  unfold Dev.slRunPut
  exact .ite (.when (.slcUpd (.set (.clkEval (.setB h)))) fun h => .set h) (.clkEval (.setB h))

theorem slRun (h : d.Holds R) {o : Origin} {n : Nat} {run : Bool} : (d.slRun o n run).Holds R := by
  unfold Dev.slRun
  exact .ite (.count h) (.slRunPut h)

theorem tune (h : d.Holds R) {p count : Nat} {restart : Bool} : (d.tune p count restart).Holds R := by
  unfold Dev.tune
  exact .ite (.count (.set h)) (.ite (.set (.tuneWrite h)) (.set (.portUpd h)))

/-! ## Sys2Proof/Machine/Assist.lean -/

theorem xPut (h : d.Holds R) {c rd : Nat} {v : BitVec 64} : (d.xPut c rd v).Holds R := by
  unfold Dev.xPut
  exact .ite h (.ite (.portUpd (.portUpd h)) (.portUpd h))

theorem coreRegPut (h : d.Holds R) {c r : Nat} {v : BitVec 64} : (d.coreRegPut c r v).Holds R := by
  unfold Dev.coreRegPut
  exact .ite (.xPut h) (.ite (.portUpd (.portUpd h)) (.portUpd h))

theorem assistResult (h : d.Holds R) {n op : Nat} {a b : Int} : (d.assistResult n op a b).1.Holds R := by
  unfold Dev.assistResult
  split
  rename_i e raw he
  refine .slSats ?_
  split at he <;> obtain ⟨rfl, rfl⟩ := Prod.mk.injEq .. ▸ he
  exacts [.divCount h, .rootCount h, h, h, h, h]

theorem assistIssue (h : d.Holds R) {c : Nat} {r : LaReq} : (d.assistIssue c r).Holds R := by
  unfold Dev.assistIssue
  exact .ite h (.portUpd (.flightPut (.assistResult h)))

theorem assistPump (h : d.Holds R) : d.assistPump.Holds R := by
  unfold Dev.assistPump
  exact .each h fun h => .eachOf h fun h => .assistIssue h

theorem laDo (h : d.Holds R) {c : Nat} {i : LaOp} : (d.laDo c i).Holds R := by
  unfold Dev.laDo
  split; exacts [.xPut (.portUpd h), .portUpd h, .portUpd h]

theorem laServe {k : Nat} {new : Bool} (h : d.Holds R) {c : Nat} : (Dev.laServe k new d c).Holds R := by
  induction k generalizing new d with
  | zero => exact h
  | succ k ih =>
    rw [Dev.laServe.eq_2]
    split
    · exact h
    · exact .ite (ih (.laDo (.portUpd h))) (by split; exacts [.when h fun h => .count h, h])

theorem laPump (h : d.Holds R) {c : Nat} : (d.laPump c).Holds R := by
  unfold Dev.laPump
  exact .clkEval (.assistPump (.laServe h))

theorem laGo (h : d.Holds R) {c : Nat} {i : LaOp} : (d.laGo c i).Holds R := by
  unfold Dev.laGo
  exact .ite h (.clkEval (.assistPump (.laServe (.portUpd h))))

theorem laAct (h : d.Holds R) {c : Nat} {w : LaWrite} : (d.laAct c w).Holds R := by
  unfold Dev.laAct
  split; exacts [.portUpd h, .tune h, .ite (.count h) (.slRunPut h)]

theorem squashReq (h : d.Holds R) {c j : Nat} : (d.squashReq c j).Holds R := by
  unfold Dev.squashReq
  split; exacts [h, .ite (.count (.portUpd h)) (.slcUpd (.portUpd h))]

theorem squashRet (h : d.Holds R) {c j : Nat} : (d.squashRet c j).Holds R := by
  unfold Dev.squashRet
  split; exacts [h, (.count (by split; exacts [.count (.xPut (.portUpd h)), .xPut (.portUpd h)]))]

theorem laExec (h : d.Holds R) {c : Fin 4} {w : BitVec 32} : (d.laExec c w).Holds R := by
  unfold Dev.laExec
  extract_lets; split; exacts [.laGo h, .portUpd h]

theorem splArm (h : d.Holds R) : d.splArm.Holds R := by
  unfold Dev.splArm
  extract_lets _ d1
  have h1 : d1.Holds R := .set (.set (.set h))
  exact .ite h (.ite (.count (.set h)) (.eachOf (.beside h1) fun h => .setSch (.set (.set (.set h)))))

theorem splStop (h : d.Holds R) : d.splStop.Holds R := by
  unfold Dev.splStop
  exact .ite (.set h) h

theorem splForce (h : d.Holds R) : d.splForce.Holds R := by
  unfold Dev.splForce
  exact .ite (.splFire h) h

theorem splLevel (h : d.Holds R) {c : Nat} {rec : List (BitVec 64)} : (d.splLevel c rec).Holds R := by
  unfold Dev.splLevel
  exact .ite h (by split; exacts [h, (.when (.setSch h) fun h => .splTrigger h)])

/-! ## Sys2Proof/Machine/Sys.lean -/

theorem pllStop (h : d.Holds R) : d.pllStop.Holds R := by
  unfold Dev.pllStop
  exact .showFrozen (.beside (.each h fun h => .set h))

theorem lossSequence (h : d.Holds R) {vhold : Nat} : (d.lossSequence vhold).Holds R := by
  unfold Dev.lossSequence
  extract_lets _ d1 _ _ _ _ d2 _ d3
  have h1 : d1.Holds R := .journal (.count (.raise (.set h)))
  have h2 : d2.Holds R := .hemHold (.set (.beside h1))
  have h3 : d3.Holds R := .each (.when h2 fun h => .eachOf h fun h => .hemSafe h) fun h => .axHold h
  exact .when (.pllStop (.brakeShow (.brakeApply h3))) fun h => .disCommand h

theorem sleepReq (h : d.Holds R) : d.sleepReq.Holds R := by
  unfold Dev.sleepReq
  exact .ite (.ite (.clkEval (.set h)) (.set (.count h))) h

theorem pllMark (h : d.Holds R) {p : Nat} {fw on : Bool} : (d.pllMark p fw on).Holds R := by
  unfold Dev.pllMark
  exact .ite (.setB h) (.beside h)

/-! ## Sys2Proof/Machine/Hem.lean -/

theorem pairRefuse (h : d.Holds R) {why : Nat} : (d.pairRefuse why).Holds R := by
  unfold Dev.pairRefuse
  exact .raise (.set h)

theorem roleTo (h : d.Holds R) {p : Nat} : (d.roleTo p).Holds R := by
  unfold Dev.roleTo
  exact .raise (.set h)

theorem roleFromRetired (h : d.Holds R) {p : Nat} : (d.roleFromRetired p).Holds R := by
  unfold Dev.roleFromRetired
  exact .ite (.roleTo h) h

theorem portDrop (h : d.Holds R) {c : Nat} : (d.portDrop c).Holds R := h

theorem checkpoint (h : d.Holds R) {p : Nat} : (d.checkpoint p).Holds R := h

theorem bothGone (h : d.Holds R) : d.bothGone.Holds R := by
  unfold Dev.bothGone
  exact .when (.hemHold (.beside h)) fun h => .eachOf h fun h => .hemSafe h

theorem splitCancel (h : d.Holds R) {p : Nat} : (d.splitCancel p).Holds R := by
  unfold Dev.splitCancel
  exact .ite (.pairRefuse (.pairUpd h)) h

theorem retire (h : d.Holds R) {p : Nat} : (d.retire p).Holds R := by
  unfold Dev.retire
  extract_lets _ d1
  have h1 : d1.Holds R := .jnlHem (.raise (.portDrop (.set h)))
  split; exacts [.bothGone h1, .ite (.roleTo (.splitCancel h1)) h1, .ite (.pairUpd (.set h1)) h1, h1]

theorem handRefuse (h : d.Holds R) {p why : Nat} : (d.handRefuse p why).Holds R := by
  unfold Dev.handRefuse
  exact .ite (.pairRefuse (.pairUpd (.set h))) h

theorem chkLoad (h : d.Holds R) {p : Nat} : (d.chkLoad p).Holds R := h

theorem released (h : d.Holds R) {p us : Nat} : (d.released p us).Holds R := by
  unfold Dev.released
  exact .roleFromRetired (.raise (.set (.count (.set (.eachOf (.chkLoad (.pairUpd h)) fun h => .set h)))))

theorem classRef (h : d.Holds R) : d.classRef.Holds R := h

theorem dogWrite (h : d.Holds R) {o : Origin} {key : Nat} : (d.dogWrite o key).Holds R := by
  unfold Dev.dogWrite
  exact .ite (.classRef h) (.ite (.beside h) h)

theorem handStart (h : d.Holds R) {p : Nat} {split : Bool} : (d.handStart p split).Holds R := by
  unfold Dev.handStart
  exact .raise (.pairUpd (.set h))

theorem splitWrite (h : d.Holds R) {o : Origin} : (d.splitWrite o).Holds R := by
  unfold Dev.splitWrite
  apply Holds.ite (.classRef h)
  split
  · exact .classRef h
  · exact .ite h (.ite (.pairRefuse h) (.ite (.pairRefuse h) (.ite (.handStart h) (.pairUpd h))))

theorem ownerReq (h : d.Holds R) {o : Origin} : (d.ownerReq o).Holds R := by
  unfold Dev.ownerReq
  exact .ite (.classRef h) (.ite h (.ite (.pairRefuse h) (.handStart h)))

theorem safeAck (h : d.Holds R) {o : Origin} : (d.safeAck o).Holds R := by
  unfold Dev.safeAck
  split; exacts [.ite h (.ite (.set h) (.set (.set h))), h]

theorem rejoin (h : d.Holds R) {c : Nat} : (d.rejoin c).Holds R := by
  unfold Dev.rejoin
  exact .ite h (by split; exacts [.pairUpd h, .ite h (.pairUpd (.set h))])

theorem tempKeep (h : d.Holds R) : d.tempKeep.Holds R := by
  unfold Dev.tempKeep
  exact .eachOf h fun h => by split; exacts [.beside h, h]

theorem derateShow (h : d.Holds R) {g : Nat} {below : Bool} : (d.derateShow g below).Holds R := by
  unfold Dev.derateShow
  exact .ite h (.raise (.beside h))

theorem derateFactors (h : d.Holds R) {g : Nat} {ks : List Nat} : (d.derateFactors g ks).Holds R := h

theorem derate (h : d.Holds R) {g : Nat} : (d.derate g).Holds R := by
  unfold Dev.derate
  exact .derateShow (.beside (.set (.derateFactors h)))

theorem holdEval (h : d.Holds R) : d.holdEval.Holds R := by
  unfold Dev.holdEval
  exact .hemHold (.hemHold (.hemHold (.hemHold (.hemHold h))))

/-! ## Sys2Proof/Machine/AuxAdc.lean -/

theorem auxNext (h : d.Holds R) {m k : Nat} : (d.auxNext m k).Holds R := by
  unfold Dev.auxNext
  exact .ite (.auxUpd h) (.auxUpd h)

theorem auxCoils (h : d.Holds R) {k stamp mean : Nat} : (d.auxCoils k stamp mean).Holds R := by
  unfold Dev.auxCoils
  exact .each h fun h => .when (.when h fun h => .coilResult h) fun h => .coilResult h

theorem auxPublish (h : d.Holds R) {m k : Nat} {l : List Nat} : (d.auxPublish m k l).Holds R := by
  unfold Dev.auxPublish
  extract_lets _ _ _ _ _ _ _ _ _ _ d1
  have h1 : d1.Holds R := .when (.when (.setReg h) fun h => .count h) fun h => .count h
  exact .ite (.auxCoils h1) (.ite (.beside h1) h1)

/-! ## Sys2Proof/Machine/Content.lean -/

theorem stagePut (h : d.Holds R) {e : BitVec 40 × BitVec 64} : (d.stagePut e).Holds R := h

/-! ## Sys2Proof/Machine/Thimble.lean -/

theorem selPut (h : d.Holds R) {g : Nat} {asc : Bool} : (d.selPut g asc).Holds R := by
  unfold Dev.selPut
  extract_lets _ d1 d2
  have h1 : d1.Holds R := .raise (.eachOf h fun h => .setB (.setB h))
  have h2 : d2.Holds R := .ascRelease h1
  exact .ite h (.ite h1 (.ite (.thmToSto h2) h2))

theorem thmChecks (h : d.Holds R) : d.thmChecks.Holds R := by
  unfold Dev.thmChecks
  extract_lets _ _ d1 d2 _ d3
  have h1 : d1.Holds R := .when (.when h fun h => .jnlThimble h) fun h => .jnlThimble h
  have h2 : d2.Holds R := .ite h1 h.repair
  have h3 : d3.Holds R := .when (.setB h2) fun h => .jnlThimble h
  exact .when (.setB h3) fun h => .jnlThimble h

theorem thmShow (h : d.Holds R) : d.thmShow.Holds R := by
  unfold Dev.thmShow
  exact .set (.setB (.setB (.set (.showLog (.showSet h)))))

theorem siPut (h : d.Holds R) {k st : Nat} : (d.siPut k st).Holds R := by
  unfold Dev.siPut
  exact .ite h (.raise (.set h))

theorem siCause (h : d.Holds R) : d.siCause.Holds R := by
  unfold Dev.siCause
  exact .ite (.setBits h) (.clrBits h)

theorem siStep (h : d.Holds R) {k : Nat} : (d.siStep k).Holds R := by
  unfold Dev.siStep
  exact .siCause (by split; exacts [.ite (.siPut (.set h)) h, .ite (.siPut h) h, .ite h (.siPut h), .ite (.siPut h) h, h])

theorem siStart (h : d.Holds R) {k : Nat} : (d.siStart k).Holds R := by
  unfold Dev.siStart
  exact .siStep (.siPut (.set h))

theorem thmStart (h : d.Holds R) : d.thmStart.Holds R := by
  unfold Dev.thmStart
  extract_lets _ d1
  have h1 : d1.Holds R := .eachOf (.each (.set h) fun h => .siStart h) fun h => .selPut h
  exact .thmEvalAll (.driveEval (.setPaths (.setPaths h1)))

theorem thmForget (h : d.Holds R) : d.thmForget.Holds R := by
  unfold Dev.thmForget
  exact .showUnlock (.brakeShow (.set (.set (.each (.beside h) fun h => .set h))))

theorem speedRead (h : d.Holds R) {g : Nat} : (d.speedRead g).Holds R := by
  unfold Dev.speedRead
  split
  · extract_lets _ d1
    have h1 : d1.Holds R := .eachOf h fun h => .tgrpUpd (.setB (.setI h))
    exact .ite (.selPut h1) (.ite (.selPut h1) h1)

theorem ss1Demand (h : d.Holds R) {g : Nat} : (d.ss1Demand g).Holds R := by
  unfold Dev.ss1Demand
  exact .demandSto h

theorem ss1Violate (h : d.Holds R) {g : Nat} : (d.ss1Violate g).Holds R := by
  unfold Dev.ss1Violate
  exact .ss1Demand (.raise (.thmLatch (.eachOf h fun h => .tgrpUpd h)))

theorem ss1Complete (h : d.Holds R) {g : Nat} : (d.ss1Complete g).Holds R := by
  unfold Dev.ss1Complete
  exact .ite (.eachOf (.brakeApply (.raise h)) fun h => .tgrpUpd h) (.ss1Demand (.raise h))

theorem tmJudge (h : d.Holds R) {pdc pexp : Int} {wasBlind : Bool} : (d.tmJudge pdc pexp wasBlind).Holds R := by
  unfold Dev.tmJudge
  exact .ite (.set h) (.ite (.set h) (.thmEvalAll (.eachOf (.raise (.thmLatch (.set h))) fun h => .groupSafe h)))

theorem tudcShow (h : d.Holds R) {v : Nat} : (d.tudcShow v).Holds R := h

theorem dcShow (h : d.Holds R) {l : List (BitVec 12 × BitVec 12)} : (d.dcShow l).Holds R := by
  unfold Dev.dcShow
  split; exacts [h, .setI (.tudcShow h)]

theorem lockPut (h : d.Holds R) {sec : Nat} : (d.lockPut sec).Holds R := by
  unfold Dev.lockPut
  exact .setB (.set (.ite h (.records h)))

theorem thmAnswer (h : d.Holds R) {tag code r : Nat} : (d.thmAnswer tag code r).Holds R := by
  unfold Dev.thmAnswer
  exact .raise (.when (.set (.set (.set h))) fun h => .count h)

theorem release (h : d.Holds R) {g : Nat} : (d.release g).Holds R := by
  unfold Dev.release
  extract_lets _ d1
  have h1 : d1.Holds R := .showDemand (.eachOf h fun h => .tgrpUpd h)
  exact .ite (.permitGroup (.thmPut h1)) h1

theorem clearBrakeLatches (h : d.Holds R) : d.clearBrakeLatches.Holds R := by
  unfold Dev.clearBrakeLatches
  exact .eachOf (.clrBits h) fun h => .when h fun h => .foPut h

theorem pwdWrong (h : d.Holds R) : d.pwdWrong.Holds R := by
  unfold Dev.pwdWrong
  exact .ite (.count (.add h)) (.raise (.jnlThimble (.lockPut (.count (.add h)))))

theorem setActs (h : d.Holds R) : d.setActs.Holds R := by
  unfold Dev.setActs
  extract_lets _ d1 _ d2
  have h1 : d1.Holds R := .each (.carClamps (.showSet h)) fun h => .coilClamp h
  have h2 : d2.Holds R := .eachOf (.each h1 fun h => .ite h (.siStart h)) fun h => .ite h (.selPut h)
  exact .thmEvalAll (.hemHold (.set (.set h2)))

/-! ## Sys2Proof/Machine/Sfl.lean -/

theorem sflShow (h : d.Holds R) : d.sflShow.Holds R := h

theorem sflSend (h : d.Holds R) {k ver kind : Nat} {pay : List (BitVec 8)} : (d.sflSend k ver kind pay).Holds R := by
  unfold Dev.sflSend
  exact .ite (.count h) (.when (.sflShow (.beside h)) fun h => .raise h)

theorem sflPop (h : d.Holds R) : d.sflPop.Holds R := h

theorem sflThm (h : d.Holds R) {k : Nat} : (d.sflThm k).Holds R := by
  unfold Dev.sflThm
  exact .when h fun h => .thmEvalAll h

theorem sflPut (h : d.Holds R) {k st : Nat} : (d.sflPut k st).Holds R := h

theorem sflDown (h : d.Holds R) {k st : Nat} : (d.sflDown k st).Holds R := by
  unfold Dev.sflDown
  exact .raise (.sflPut h)

theorem sflCrcFail (h : d.Holds R) {k : Nat} : (d.sflCrcFail k).Holds R := by
  unfold Dev.sflCrcFail
  exact .ite (.sflThm (.jnlFault (.sflDown (.set (.count (.connUpd h)))))) (.set (.count (.connUpd h)))

theorem sflEnable (h : d.Holds R) {k : Nat} {en : Bool} : (d.sflEnable k en).Holds R := by
  unfold Dev.sflEnable
  extract_lets _ _ d1
  have h1 : d1.Holds R := .setB (.when h fun h => .sflSend h)
  exact .sflThm (.ite (.when h1 fun h => .sflPut h) (.ite h1 (.connUpd (.sflPut h1))))

theorem sflData (h : d.Holds R) {k : Nat} {pay : List (BitVec 8)} : (d.sflData k pay).Holds R := by
  unfold Dev.sflData
  exact .sflSend (.set h)

theorem sflResult (h : d.Holds R) {k : Option Nat} {r : Nat} : (d.sflResult k r).Holds R := by
  unfold Dev.sflResult
  extract_lets _ d1
  have h1 : d1.Holds R := by unfold d1; split; exacts [(.when (.set (.set h)) fun h => .set h), (.set h)]
  exact .raise (.when h1 fun h => .raiseLim (.count h))

theorem sflOpened (h : d.Holds R) {k seq : Nat} {pay : List (BitVec 8)} : (d.sflOpened k seq pay).Holds R := by
  unfold Dev.sflOpened
  exact .ite (.raise (.sflSend (.sflPut (.set (.set h))))) (.raise (.count (.sflSend (.set h))))

theorem sflAccept (h : d.Holds R) {k kind seq : Nat} {pay : List (BitVec 8)} : (d.sflAccept k kind seq pay).Holds R := by
  unfold Dev.sflAccept
  extract_lets _ _ _ e
  refine .sflThm ?_
  unfold e
  split
  · exact .connUpd (.set (.add h))
  · exact .sflOpened (.when h fun h => .sflDown h)
  · exact .ite (.raise (.count h)) (.raise (.sflPut (.set h)))
  · exact .sflDown h

theorem sflJudge (h : d.Holds R) {f : List (BitVec 8)} : (d.sflJudge f).Holds R := by
  unfold Dev.sflJudge
  extract_lets
  apply Holds.ite (.sflResult h)
  split
  · exact .sflResult h
  · extract_lets _ d1
    have h1 : d1.Holds R := .sflResult h
    exact .ite (.sflCrcFail (.sflResult h)) (.ite (.sflSend (.sflResult h)) (.ite (.sflAccept h1) h1))

/-! ## Sys2Proof/Machine/CanCore.lean -/

theorem canEnd (h : d.Holds R) {n b : Nat} : (d.canEnd n b).Holds R := h

theorem canFail (h : d.Holds R) {n b why : Nat} : (d.canFail n b why).Holds R := by
  unfold Dev.canFail
  exact .raise (.set (.setBits (.canEnd h)))

theorem canFailAll (h : d.Holds R) {n why : Nat} {keep : Option Nat} : (d.canFailAll n why keep).Holds R := by
  unfold Dev.canFailAll
  exact .canUpd (.each h fun h => .when h fun h => .canFail h)

theorem canQueue (h : d.Holds R) {n : Nat} {f : CanFrame} : (d.canQueue n f).Holds R := h

theorem canStopped (h : d.Holds R) {n : Nat} : (d.canStopped n).Holds R := by
  unfold Dev.canStopped
  exact .ite (.clkEval (.set (.canUpd (.canFailAll h)))) h

theorem canCount (h : d.Holds R) {n tec rec : Nat} : (d.canCount n tec rec).Holds R := by
  unfold Dev.canCount
  extract_lets _ _ _ d1
  have h1 : d1.Holds R := .when (.setB (.set (.set h))) fun h => .raise h
  exact .ite (.canStopped (.when (.raise (.count (.set (.canFailAll h1)))) fun h => .set h)) (.ite (.raise (.set h1)) (.ite
    (.raise (.set h1)) h1))

/-! ## Sys2Proof/Machine/Events.lean -/

theorem evrClearMask (h : d.Holds R) {t j mask : Nat} : (d.evrClearMask t j mask).Holds R := by
  unfold Dev.evrClearMask
  exact .each h fun h => .when h fun h => .evrClear h

theorem jnlGap (h : d.Holds R) : d.jnlGap.Holds R := by
  unfold Dev.jnlGap
  exact .ite (.journal (.beside h)) h

theorem jnlFlushEnd (h : d.Holds R) : d.jnlFlushEnd.Holds R := by
  unfold Dev.jnlFlushEnd
  exact .ite (.ite (.beside (.flushStop h)) (.flushStop h)) h

theorem jnlWritten (h : d.Holds R) {e : JEntry} {num fl : Nat} : (d.jnlWritten e num fl).Holds R := by
  unfold Dev.jnlWritten
  exact .jnlFlushEnd (.jnlGap (.when (.when (.set (.set (.records h))) fun h => .count h) fun h => .raiseLim h))

theorem fwEntry (h : d.Holds R) {o : Origin} {k : Nat} : (d.fwEntry o k).Holds R := by
  unfold Dev.fwEntry
  exact .ite (.count h) (.jnlPut h)

theorem dtmTerm (h : d.Holds R) {x : Int} : (d.dtmTerm x).Holds R := h

theorem dtmServo (h : d.Holds R) {th : Int} {tau : Nat} : (d.dtmServo th tau).Holds R := h

theorem dtmStep (h : d.Holds R) {th : Int} : (d.dtmStep th).Holds R := by
  unfold Dev.dtmStep
  exact .raise (.journal (.count (.set (.beside h))))

theorem dtmLock (h : d.Holds R) {th : Int} : (d.dtmLock th).Holds R := by
  unfold Dev.dtmLock
  exact .ite (.ite (.raise (.set (.beside h))) (.raise (.count (.set (.beside h))))) (.beside h)

theorem dtmMeasure (h : d.Holds R) {th : Int} : (d.dtmMeasure th).Holds R := by
  unfold Dev.dtmMeasure
  extract_lets _ _ _ _ d1
  have h1 : d1.Holds R := .count (.setI (.beside (.ite (.set (.beside h)) h)))
  exact .ite h (.dtmLock (.ite (.beside h1) (.dtmServo h1)))

theorem dtmSource (h : d.Holds R) {src : Nat} : (d.dtmSource src).Holds R := by
  unfold Dev.dtmSource
  extract_lets _ _ _ d1
  have h1 : d1.Holds R := .beside (.set h)
  exact .ite h (.ite (.set (.dtmTerm h1)) (.set (.ite (.beside h1) h1)))

theorem dtmBoundary (h : d.Holds R) : d.dtmBoundary.Holds R := by
  unfold Dev.dtmBoundary
  extract_lets; split; exacts [.dtmStep (.beside h), .beside h]

theorem advance (h : d.Holds R) {dt : Nat} : (d.advance dt).Holds R := by
  unfold Dev.advance
  exact .ite (.beside h) (.dtmBoundary (.beside h))

theorem tick (h : d.Holds R) : d.tick.Holds R := by
  unfold Dev.tick
  exact .ite (.beside h) (.ite (.advance (.beside h)) (.advance (.beside h)))

/-! ## Sys2Proof/Machine/Domain.lean -/

theorem domIntervals (h : d.Holds R) : d.domIntervals.Holds R := by
  unfold Dev.domIntervals
  extract_lets; split; exacts [.ite (.setI (.setI (.beside h))) h, .ite h (.set (.set (.beside h)))]

theorem domPut (h : d.Holds R) {st : Nat} : (d.domPut st).Holds R := by
  unfold Dev.domPut
  exact .raise (.domIntervals (.set (.when h fun h => .set h)))

theorem domSend (h : d.Holds R) {typ arg : Nat} {data : List (BitVec 8)} : (d.domSend typ arg data).Holds R := h

theorem domDropClaims (h : d.Holds R) : d.domDropClaims.Holds R := h

theorem domClaim0 (h : d.Holds R) : d.domClaim0.Holds R := by
  unfold Dev.domClaim0
  exact .ite (.domSend (.beside (.domDropClaims h))) h

theorem domContend (h : d.Holds R) {late : Bool} : (d.domContend late).Holds R := by
  unfold Dev.domContend
  exact .ite (.domPut (.beside h)) h

theorem domRoles (h : d.Holds R) : d.domRoles.Holds R := by
  unfold Dev.domRoles
  exact .dtmSource (.set h)

theorem domMembers (h : d.Holds R) {l : List Member} : (d.domMembers l).Holds R := h

theorem domGateway (h : d.Holds R) : d.domGateway.Holds R := by
  unfold Dev.domGateway
  exact .domRoles (.set (.when (.setB (.set h)) fun h => .raise h))

theorem domLeader (h : d.Holds R) {uid : Nat} : (d.domLeader uid).Holds R := by
  unfold Dev.domLeader
  exact .domRoles (.when (.when (.setB (.set h)) fun h => .raise h) fun h => .count h)

theorem domTakeLead (h : d.Holds R) : d.domTakeLead.Holds R := by
  unfold Dev.domTakeLead
  exact .domSend (.domLeader h)

theorem domSay (h : d.Holds R) {l : List DirMsg} : (d.domSay l).Holds R := h

theorem domAlone (h : d.Holds R) : d.domAlone.Holds R := by
  unfold Dev.domAlone
  exact .when (.set (.raise (.count (.beside h)))) fun h => .domPut h

theorem domDirAck (h : d.Holds R) {leader num ver : Nat} : (d.domDirAck leader num ver).Holds R := by
  unfold Dev.domDirAck
  exact .ite (.ite (.domAlone h) (.beside h)) h

theorem domDirDone (h : d.Holds R) : d.domDirDone.Holds R := by
  unfold Dev.domDirDone
  exact .when h fun h => .domSend h

theorem domSegnum (h : d.Holds R) {num : Nat} : (d.domSegnum num).Holds R := by
  unfold Dev.domSegnum
  exact .ite (.domPut (.set (.set h))) (.ite (.set h) h)

theorem domDirClose (h : d.Holds R) : d.domDirClose.Holds R := by
  unfold Dev.domDirClose
  exact .ite h (.domDirDone (.eachOf (.domSay (.beside h)) fun h => .domDirAck h))

theorem domRegSeg (h : d.Holds R) {r : SegReg} : (d.domRegSeg r).Holds R := by
  unfold Dev.domRegSeg
  exact .ite h (.ite (.beside h) (.ite h (.when (.beside h) fun h => .domDirClose h)))

theorem domReport (h : d.Holds R) : d.domReport.Holds R := by
  unfold Dev.domReport
  exact .domRegSeg (.domSay h)

theorem domLeave (h : d.Holds R) {st : Nat} : (d.domLeave st).Holds R := by
  unfold Dev.domLeave
  exact .domPut (.domRoles (.set (.set (.eachOf (.beside (.domDropClaims h)) fun h => .set h))))

theorem domRefused (h : d.Holds R) : d.domRefused.Holds R := by
  unfold Dev.domRefused
  exact .raise (.count (.domLeave h))

theorem domClose (h : d.Holds R) : d.domClose.Holds R := by
  unfold Dev.domClose
  extract_lets _ _ _ _ _ d1 _ d2
  have h1 : d1.Holds R := .set (.set (.beside h))
  have h2 : d2.Holds R := .domGateway (.ite (.domTakeLead h1) (.domLeader h1))
  apply Holds.ite h
  exact .ite (.ite (.raise (.domLeave h)) h) (.ite (.domRefused h) (.ite (.domPut h2) (.domPut (.set h2))))

theorem domRegister (h : d.Holds R) {arg uid : Nat} : (d.domRegister arg uid).Holds R := by
  unfold Dev.domRegister
  extract_lets _ _ _ d1 _ d2
  have h1 : d1.Holds R := .beside h
  have h2 : d2.Holds R := .when (.domMembers h1) fun h => .set (.beside h)
  exact .ite h (.ite (.when (.domGateway (.raise (.count h2))) fun h => .domReport h) (.ite (.domClose h2) (.domClaim0 h2)))

theorem domTrunk (h : d.Holds R) {trunk : Bool} {uid : Nat} : (d.domTrunk trunk uid).Holds R := by
  unfold Dev.domTrunk
  exact .when (.beside h) fun h => .domGateway h

theorem domTrunkChanged (h : d.Holds R) {before : Bool} : (d.domTrunkChanged before).Holds R := by
  unfold Dev.domTrunkChanged
  exact .when h fun h => .domSend h

theorem domSent (h : d.Holds R) {f : CanFrame} : (d.domSent f).Holds R := by
  unfold Dev.domSent
  extract_lets
  apply Holds.ite h
  apply Holds.ite (.domClaim0 h)
  apply Holds.ite (.domSend h)
  apply Holds.ite (.domSend (.when h fun h => .drawn h))
  exact .ite (.domTrunkChanged (.domRegister h)) (.ite (.domTrunk h) (.ite (.domSegnum h) h))

theorem domHeardRef (h : d.Holds R) : d.domHeardRef.Holds R := by
  unfold Dev.domHeardRef
  exact .domContend h

theorem domPair (h : d.Holds R) {th : Int} : (d.domPair th).Holds R := by
  unfold Dev.domPair
  extract_lets _ d1 _ _ d2
  have h1 : d1.Holds R := .when (.when h fun h => .dtmMeasure h) fun h => .domSend h
  have h2 : d2.Holds R := .beside h1
  exact .ite (.ite h2 (.when (.when (.beside h2) fun h => .drawn h) fun h => .domTakeLead h)) h1

theorem domReady (h : d.Holds R) : d.domReady.Holds R := by
  unfold Dev.domReady
  exact .ite (.domPut (.set (.set h))) h

theorem domEnable (h : d.Holds R) {en : Bool} : (d.domEnable en).Holds R := by
  unfold Dev.domEnable
  exact .ite (.domReady (.setB h)) (.ite (.setB h) (.domLeave (.setB h)))

/-! ## Sys2Proof/Machine/Can.lean -/

theorem canRunSet (h : d.Holds R) {n : Nat} : (d.canRunSet n).Holds R := by
  unfold Dev.canRunSet
  exact .ite h (.ite (.set h) (.clkEval (.set (.set (.set h)))))

theorem canRunClear (h : d.Holds R) {n : Nat} : (d.canRunClear n).Holds R := by
  unfold Dev.canRunClear
  exact .ite h (.ite (.canUpd (.canFailAll (.set h))) (.canStopped (.canUpd (.canFailAll (.set h)))))

theorem canRecover (h : d.Holds R) {n : Nat} : (d.canRecover n).Holds R := by
  unfold Dev.canRecover
  exact .when h fun h => .set h

theorem refPeriodBegin (h : d.Holds R) {n : Nat} : (d.refPeriodBegin n).Holds R := h

theorem refSent (h : d.Holds R) {n stamp : Nat} : (d.refSent n stamp).Holds R := by
  unfold Dev.refSent
  exact .raise (.count (.set (.canUpd h)))

theorem canTxGood (h : d.Holds R) {n : Nat} : (d.canTxGood n).Holds R := by
  unfold Dev.canTxGood
  exact .canCount h

theorem canLoop (h : d.Holds R) {n : Nat} {f : CanFrame} {loop : Nat} : (d.canLoop n f loop).Holds R := by
  unfold Dev.canLoop
  exact .when h fun h => .set h

theorem canLost (h : d.Holds R) {n x : Nat} : (d.canLost n x).Holds R := by
  unfold Dev.canLost
  exact .ite (by split; exacts [h, (.when h fun h => .canUpd h)]) (.ite (.canFail h) (.ite (.canFail h) h))

theorem canFifoShow (h : d.Holds R) {n : Nat} : (d.canFifoShow n).Holds R := h

theorem refSeen (h : d.Holds R) {n : Nat} {f : CanFrame} : (d.refSeen n f).Holds R := by
  unfold Dev.refSeen
  exact .when (.when h fun h => .beside h) fun h => .when (.when h fun h => .refPeriodBegin h) fun h => .domHeardRef h

theorem refHeard (h : d.Holds R) {n stamp : Nat} : (d.refHeard n stamp).Holds R := by
  unfold Dev.refHeard
  exact .ite (.raise (.count h)) (.ite (.canUpd (.when h fun h => .count h)) h)

theorem followHeard (h : d.Holds R) {n master : Nat} : (d.followHeard n master).Holds R := by
  unfold Dev.followHeard
  extract_lets d1
  have h1 : d1.Holds R := .canUpd h
  apply Holds.ite h
  split
  · exact .count h
  · exact .ite (.count (.count h1)) (.when (.raise (.count (.set (.setI h1)))) fun h => .domPair h)

theorem canRxGood (h : d.Holds R) {n : Nat} : (d.canRxGood n).Holds R := by
  unfold Dev.canRxGood
  exact .ite (.canCount (.drawn h)) (.canCount h)

theorem canException (h : d.Holds R) {n : Nat} : (d.canException n).Holds R := by
  unfold Dev.canException
  exact .ite (.raiseLim (.set (.count (.when (.canStopped (.canUpd h)) fun h => .set h)))) h

theorem canPop (h : d.Holds R) {n : Nat} : (d.canPop n).Holds R := by
  unfold Dev.canPop
  exact .ite h (.canFifoShow (.canUpd h))

/-! ## Sys2Proof/Machine/Eth.lean -/

theorem asSelect (h : d.Holds R) : d.asSelect.Holds R := by
  unfold Dev.asSelect
  exact .when (.when (.when (.setB (.set (.set (.set h)))) fun h => .raise h) fun h => .raise h) fun h => .domRoles h

theorem asForget (h : d.Holds R) {p : Nat} : (d.asForget p).Holds R := h

theorem ethLink (h : d.Holds R) {p : Nat} {up : Bool} {sqi : Nat} : (d.ethLink p up sqi).Holds R := by
  unfold Dev.ethLink
  exact .asSelect (.domTrunkChanged (.when (.set (.setB h)) fun h => .raise (.count (.asForget h))))

theorem syncSend (h : d.Holds R) {p t : Nat} : (d.syncSend p t).Holds R := h

theorem macLearn (h : d.Holds R) {a p : Nat} : (d.macLearn a p).Holds R := by
  unfold Dev.macLearn
  exact .ite h (.beside h)

theorem ethQueue (h : d.Holds R) {q : Nat} {hi : Bool} {l : List (BitVec 8)} : (d.ethQueue q hi l).Holds R := by
  unfold Dev.ethQueue
  exact .ite h (.ite (.count h) (.ite (.beside h) (.beside h)))

theorem ethLeave (h : d.Holds R) {q : Nat} : (d.ethLeave q).Holds R := by
  unfold Dev.ethLeave
  exact .ite h (.ite (.beside h) (.beside h))

theorem hostQueue (h : d.Holds R) {p stamp : Nat} {l : List (BitVec 8)} : (d.hostQueue p stamp l).Holds R := by
  unfold Dev.hostQueue
  exact .ite h (.ite (.count h) (.ite (.beside h) (.beside h)))

theorem idle (h : d.Holds R) : d.idle.Holds R := by
  unfold Dev.idle
  exact .ethLeave (.ethLeave (.tick h))

theorem switched (h : d.Holds R) {p : Nat} {l : List (BitVec 8)} {ok : Bool} {age : Nat} : (d.switched p l ok age).Holds R := by
  unfold Dev.switched
  extract_lets d1
  have h1 : d1.Holds R := .macLearn h
  exact .ite h (.ite (.count h) (.ite (.count h) (.ite h (.when (.eachOf h1 fun h => .ethQueue h) fun h => .hostQueue h))))

/-! ## Sys2Proof/Machine/Spim.lean -/

theorem m0Upd (h : d.Holds R) {f : M0 → M0} : (d.m0Upd f).Holds R := h

theorem m0Go (h : d.Holds R) : d.m0Go.Holds R := by
  unfold Dev.m0Go
  exact .ite h (.ite (.count (.set h)) (.ite (.count (.set h)) (.clkEval (.m0Upd (.set (.set h))))))

theorem m1Show (h : d.Holds R) : d.m1Show.Holds R := h

theorem m1Start (h : d.Holds R) : d.m1Start.Holds R := by
  unfold Dev.m1Start
  split; exacts [h, .ite (.count (.beside h)) h]

theorem m1Tx (h : d.Holds R) {v : BitVec 64} : (d.m1Tx v).Holds R := by
  unfold Dev.m1Tx
  exact .ite (.count h) (.clkEval (.m1Show (.ite (.m1Start (.beside h)) (.beside h))))

theorem m1Received (h : d.Holds R) {w : BitVec 32} : (d.m1Received w).Holds R := by
  unfold Dev.m1Received
  exact .ite (.count h) (.raise (.beside h))

theorem m1Pop (h : d.Holds R) : d.m1Pop.Holds R := h

/-! ## Sys2Proof/Machine/Boot.lean -/

theorem setCause (h : d.Holds R) {slot c : Nat} : (d.setCause slot c).Holds R := h

theorem laResume (h : d.Holds R) : d.laResume.Holds R := by
  unfold Dev.laResume
  exact .each h fun h => .when h fun h => .laPump h

theorem jnlBoot (h : d.Holds R) {torn : Bool} : (d.jnlBoot torn).Holds R := by
  unfold Dev.jnlBoot
  exact .journal (.when (.set h) fun h => .raise (.count h))

theorem bootRelease (h : d.Holds R) : d.bootRelease.Holds R := by
  unfold Dev.bootRelease
  exact .each (.beside h) fun h => .pllReq h

theorem recoveryMode (h : d.Holds R) : d.recoveryMode.Holds R := by
  unfold Dev.recoveryMode
  exact .clkEval (.beside (.when (.set (.beside h)) fun h => .raise h))

theorem slotRefused (h : d.Holds R) {c : Nat} : (d.slotRefused c).Holds R := by
  unfold Dev.slotRefused
  exact .when (.beside (.setCause h)) fun h => .recoveryMode h

theorem segsDefault (h : d.Holds R) : d.segsDefault.Holds R := h

theorem stageStart (h : d.Holds R) : d.stageStart.Holds R := by
  unfold Dev.stageStart
  extract_lets _ _ d1 _ d2
  have h1 : d1.Holds R := .carStart (.each (.when h fun h => .refSelect (.set h)) fun h => .when h fun h => .carStart h)
  have h2 : d2.Holds R := .each (.each h1 fun h => .when (.set h) fun h => .adcRun h) fun h => .when h fun h => .slRunPut (.set
    h)
  exact .eachOf (.each h2 fun h => .when h fun h => .canRunSet (.set h)) fun h => .when h fun h => .sflEnable h

theorem activate (h : d.Holds R) {mismatch : Bool} : (d.activate mismatch).Holds R := by
  unfold Dev.activate
  extract_lets _ _ d1 _ _ d2
  have h1 : d1.Holds R := .setReg (.set (.set (.set h)))
  have h2 : d2.Holds R := .beside (.set (.setB h1))
  exact .thmEvalAll (.foHoldAll (.hemHold (.stageStart (.showUnlock (.tableLoadAll (.eachOf (.segsDefault h2) fun h =>
    .stagePut h))))))

theorem verify (h : d.Holds R) : d.verify.Holds R := by
  unfold Dev.verify
  exact .ite h (.set h)

/-! ## Sys2Proof/Machine/Crc.lean -/

theorem crcPut (h : d.Holds R) {u x : Nat} : (d.crcPut u x).Holds R := h

theorem crcFeed (h : d.Holds R) {u : Nat} {l : List (BitVec 8)} : (d.crcFeed u l).Holds R := h

theorem crcInit (h : d.Holds R) {u : Nat} : (d.crcInit u).Holds R := by
  unfold Dev.crcInit
  exact .ite h (.crcPut h)

theorem crcGo (h : d.Holds R) {u : Nat} : (d.crcGo u).Holds R := by
  unfold Dev.crcGo
  exact .ite h (.ite (.raise (.set h)) (.set (.set h)))

theorem crcData (h : d.Holds R) {u : Nat} {half : Bool} {v : Nat} : (d.crcData u half v).Holds R := by
  unfold Dev.crcData
  exact .ite (.count h) (.crcFeed h)

/-! ## Sys2Proof/Machine/Flow.lean -/

theorem flowValid (h : d.Holds R) {td tu dt : Int} : (d.flowValid td tu dt).Holds R := by
  unfold Dev.flowValid
  exact .when (.raiseIf (.count (.set (.setI (.set (.set (.setI (.beside h)))))))) fun h => .raise (.set h)

/-! ## Sys2Proof/Machine/Lua.lean -/

theorem luShow (h : d.Holds R) {n : Nat} : (d.luShow n).Holds R := h

theorem luError (h : d.Holds R) {n : Nat} : (d.luError n).Holds R := by
  unfold Dev.luError
  exact .raiseLim h

theorem luTx (h : d.Holds R) {n : Nat} {b : BitVec 8} : (d.luTx n b).Holds R := by
  unfold Dev.luTx
  exact .ite (.luError (.count h)) (.luShow (.luUpd h))

theorem luPop (h : d.Holds R) {n : Nat} : (d.luPop n).Holds R := h

theorem linEnd (h : d.Holds R) {n r : Nat} : (d.linEnd n r).Holds R := by
  unfold Dev.linEnd
  exact .when (.set (.set (.luUpd h))) fun h => .luError (.count h)

theorem linGo (h : d.Holds R) {n : Nat} : (d.linGo n).Holds R := by
  unfold Dev.linGo
  exact .ite h (.ite (.set h) (.set (.set (.luUpd h))))

theorem linDone (h : d.Holds R) {n : Nat} {f : LinFrame} {data : List (BitVec 8)} {sum : Nat} :
    (d.linDone n f data sum).Holds R := by
  unfold Dev.linDone
  refine .ite (.linEnd ?_) (.ite (.linEnd h) (.linEnd ?_))
  · split; exacts [.set h, h]
  · split; exacts [.set (.setReg h), .setReg h]

/-! ## Sys2Proof/Machine/Nfc.lean -/

theorem tagAnswer (h : d.Holds R) {l : List (BitVec 8)} : (d.tagAnswer l).Holds R := by
  unfold Dev.tagAnswer
  exact .when (.beside h) fun h => .count h

theorem tagError (h : d.Holds R) {code : BitVec 8} : (d.tagError code).Holds R := by
  unfold Dev.tagError
  exact .when (.tagAnswer h) fun h => .raiseLim (.count h)

theorem tagDirty (h : d.Holds R) {p : Nat} {on : Bool} : (d.tagDirty p on).Holds R := h

theorem tagProto (h : d.Holds R) {p : Nat} : (d.tagProto p).Holds R := h

theorem nfcFree (h : d.Holds R) : d.nfcFree.Holds R := by
  unfold Dev.nfcFree
  exact .clkEval (.set (.beside h))

/-! ## Sys2Proof/Machine/Bus.lean -/

theorem storeField {w : RegW} {idle : Bool} {x : Store} {f : FDef} (h : x.d.Holds R) : (Store.field w idle x f).d.Holds R := by
  unfold Store.field
  extract_lets
  split
  · exact h
  · cases f.acc
    case ro | wo => exact h
    case rw => exact .set h
    case w1c => exact .clrBits h
    case w1s => exact .setBits h
    case rws => dsimp only; split <;> [exact h; (split; exacts [.set h, h])]
    case rwi => dsimp only; split <;> [exact h; (split <;> [exact .count h; (split; exacts [.set h, h])])]

theorem regStore (h : d.Holds R) {w : RegW} {fs : List FDef} : (d.regStore w fs).Holds R := by
  unfold Dev.regStore
  extract_lets _ x d1
  have hx : x.d.Holds R := List.foldlRecOn (motive := fun x : Store => x.d.Holds R) _ _ h fun _ h _ _ => .storeField h
  have h1 : d1.Holds R := .when (.when hx fun h => .rwsStored h) fun h => .rwsRefuse h
  split; exacts [.when h1 fun h => .count h, h1]

theorem actSys (h : d.Holds R) {w : RegW} {old : BitVec 64} : (d.actSys w old).Holds R := by
  unfold Dev.actSys
  apply Holds.ite (.when h fun h => .sleepReq h)
  exact .ite (.each h fun h => .ite (.pllEval h) h) (.ite (.when h fun h => .verify h) h)

theorem actIo (h : d.Holds R) {w : RegW} : (d.actIo w).Holds R := by
  unfold Dev.actIo
  extract_lets
  apply Holds.ite (.when h fun h => .foWrite h)
  apply Holds.ite (.foClearMask h)
  apply Holds.ite (.when h fun h => .ite (.adcRun h) (.adcStop h))
  apply Holds.ite (.when h fun h => .urgWrite h)
  apply Holds.ite (.when h fun h => .refSelect h)
  exact .ite (.when (.calStart h) fun h => .trimWrite h) (.ite (.posRewrite h) (.ite (.posClear h) (.ite (.excDrop h) h)))

theorem actEvent (h : d.Holds R) {w : RegW} : (d.actEvent w).Holds R := by
  unfold Dev.actEvent
  apply Holds.ite (.evrClearMask h)
  exact .ite (.when h fun h => .evrClear h) (.ite (.dtmRate h) (.ite (.when h fun h => .fwEntry h) h))

theorem actDrive (h : d.Holds R) {w : RegW} {old : BitVec 64} : (d.actDrive w old).Holds R := by
  unfold Dev.actDrive
  extract_lets _ d1
  have h1 : d1.Holds R := .carFollow h
  apply Holds.ite (.when (.showAsc (.when h fun h => .carFollow (.sixSet h))) fun h => .ite (.cluEnable h) (.cluDisable h))
  apply Holds.ite (.ite (.carStart h1) (.ite (.carStop h1) h1))
  apply Holds.ite (.when h fun h => .carDead h)
  exact .ite (.when h fun h => .fltClear h) (.ite (.showAsc h) (.ite (.when h fun h => .tableLoad h) h))

theorem actAxis (h : d.Holds R) {w : RegW} : (d.actAxis w).Holds R := by
  unfold Dev.actAxis
  extract_lets
  apply Holds.ite
  · exact .when (.when (.when h fun h => .ite (.axEnable h) (.axDisable h)) fun h => .axStopWrite h) fun h => .homeStart h
  · apply Holds.ite (.axPosWrite h)
    exact .ite (.axTgtWrite h) (.ite (.axVtgtWrite h) (.ite (.when h fun h => .coilClamp h) (.ite (.axFltClear h) h)))

theorem actCore (h : d.Holds R) {w : RegW} : (d.actCore w).Holds R := by
  unfold Dev.actCore
  extract_lets d1
  have h1 : d1.Holds R := .when h fun h => .splitWrite h
  apply Holds.ite (.when (.when (.when h1 fun h => by split; exacts [.rejoin h, h]) fun h => .ownerReq h) fun h => .safeAck h)
  apply Holds.ite (.when h fun h => .dogWrite h)
  apply Holds.ite (.when h fun h => .slRun h)
  apply Holds.ite (.when h fun h => .tune h)
  exact .ite (.when (.when (.when h fun h => .splStop h) fun h => .splArm h) fun h => .splForce h) h

theorem actNet (h : d.Holds R) {w : RegW} {old : BitVec 64} : (d.actNet w old).Holds R := by
  unfold Dev.actNet
  extract_lets _ d1
  have h1 : d1.Holds R := .each h fun h => .when h fun h => .ethLink h
  apply Holds.ite (.when (.when h fun h => .canRecover h) fun h => .ite (.canRunSet h) (.canRunClear h))
  apply Holds.ite (.when h fun h => .canPop h)
  apply Holds.ite (.asSelect (.ite h1 (.beside h1)))
  apply Holds.ite (.asSelect h)
  apply Holds.ite (.when h fun h => .sflPop h)
  apply Holds.ite
  · exact .when h fun h => .when (.sflEnable h) fun h => .thmEvalAll h
  · apply Holds.ite (.when h fun h => .crcPut h)
    exact .ite (.when (.when (.when h fun h => .crcInit h) fun h => .crcGo h) fun h => .set h) (.ite (.ite (.crcData h)
      (.crcData h)) h)

theorem actLink (h : d.Holds R) {w : RegW} : (d.actLink w).Holds R := by
  unfold Dev.actLink
  apply Holds.ite (.when h fun h => .m0Go h)
  apply Holds.ite (.m1Tx h)
  apply Holds.ite (.when h fun h => .m1Pop h)
  apply Holds.ite (.ite (.luPop h) (.when h fun h => .luTx h))
  exact .ite (.when h fun h => .linGo h) (.ite (.clkEval h) (.ite (.clkEval (.ite h (.set h))) h))

theorem regAct (h : d.Holds R) {w : RegW} {old : BitVec 64} : (d.regAct w old).Holds R := by
  unfold Dev.regAct
  extract_lets
  apply Holds.ite (.actSys h)
  apply Holds.ite (.actEvent h)
  exact .ite (.actIo h) (.ite (.actDrive h) (.ite (.actAxis h) (.ite (.actCore h) (.ite (.actNet h) (.actLink h)))))

theorem dbgUpd (h : d.Holds R) {f : Dbg → Dbg} : (d.dbgUpd f).Holds R := h

/-! ## Sys2Proof/Machine/CrcMem.lean -/

theorem crcEnd (h : d.Holds R) {u : Nat} : (d.crcEnd u).Holds R := by
  unfold Dev.crcEnd
  exact .ite (.ite (.raise (.set h)) (.set h)) h

/-! ## Sys2Proof/Machine/SpiHost.lean -/

theorem spihUpd (h : d.Holds R) {f : Spih → Spih} : (d.spihUpd f).Holds R := h

theorem spiDone (h : d.Holds R) {q : SpiReq} {result : Nat} {data : List (BitVec 8)} : (d.spiDone q result data).Holds R := by
  unfold Dev.spiDone
  exact .raise (.count (.clkEval (.m0Upd (.spihUpd h))))

theorem flashRefuse (h : d.Holds R) {q : SpiReq} {n : Nat} : (d.flashRefuse q n).Holds R := by
  unfold Dev.flashRefuse
  exact .spiDone (.when h fun h => .count h)

/-! ### Operations that answer a device and a result -/

theorem reqDemand (h : d.Holds R) {ss1 : Bool} {a : List (BitVec 64)} : (Dev.reqDemand ss1 d a).1.Holds R :=
  .eachOf h fun h => .thmEval (.eachOf h fun h => .tgrpUpd h)

theorem reqRelease (h : d.Holds R) {a : List (BitVec 64)} : (d.reqRelease a).1.Holds R := .eachOf h fun h => .release h

theorem reqBrakeRelease (h : d.Holds R) {a : List (BitVec 64)} : (d.reqBrakeRelease a).1.Holds R := by
  unfold Dev.reqBrakeRelease
  split; exacts [.raise (.brakeShow (.set (.beside h))), h]

theorem reqBrakeApply (h : d.Holds R) {a : List (BitVec 64)} : (d.reqBrakeApply a).1.Holds R := .brakeApply h

theorem reqDisStart (h : d.Holds R) {a : List (BitVec 64)} : (d.reqDisStart a).1.Holds R := by
  unfold Dev.reqDisStart
  split; exacts [h, .disCommand h]

theorem reqDisStop (h : d.Holds R) {a : List (BitVec 64)} : (d.reqDisStop a).1.Holds R := by
  unfold Dev.reqDisStop
  split; exacts [.disEnd h, h]

theorem reqWind (h : d.Holds R) {a : List (BitVec 64)} : (d.reqWind a).1.Holds R := by
  unfold Dev.reqWind
  extract_lets
  split; exacts [.eachOf (.beside h) fun h => .thmEval h, h]

theorem reqClear (h : d.Holds R) {a : List (BitVec 64)} : (d.reqClear a).1.Holds R := by
  unfold Dev.reqClear
  exact .thmEvalAll (.brakeShow (.beside (.each (.set (.when h fun h => .clearBrakeLatches h)) fun h => .tgrpUpd h)))

theorem pwdCheck (h : d.Holds R) {a : List (BitVec 64)} {n : Nat} {lens setsIt : Bool} :
    (d.pwdCheck a n lens setsIt).1.Holds R := by
  unfold Dev.pwdCheck
  split
  · exact h
  · split
    · exact h
    · split
      · exact h
      · split; exacts [.set h, .pwdWrong h]

theorem of_pwdCheck {e : Dev} {a : List (BitVec 64)} {n : Nat} {lens setsIt : Bool} {r : Option Nat}
    (he : d.pwdCheck a n lens setsIt = (e, r)) (h : d.Holds R) : e.Holds R := by
  have hp : (d.pwdCheck a n lens setsIt).1.Holds R := .pwdCheck h
  rwa [he] at hp
end Dev.Holds

end Sys2Proof.Machine
end

section
/-!
The same of the operations of the machine's state: those that act on the memories too, Thimble's requests, and the accesses.
INSTALL alone commits a set, so a request and an access ask that no INSTALL is granted to their origin.
-/
namespace Sys2Proof.Machine

/-- The machine's key store and committed set have the property `R`. -/
def State.Holds (R : VaultProp) (s : State) : Prop := s.dev.Holds R

/-- The property does not ask for the committed set. -/
def VaultProp.OfKeys (R : VaultProp) : Prop := ∀ keys c c', R keys c → R keys c'

/-- The property stays when an unprogrammed slot is programmed, and when a programmed one is revoked. -/
structure VaultProp.Lasts (R : VaultProp) : Prop where
  program : ∀ {keys c} n k, R keys c → (Tab.find (fun _ => {}) keys n).programmed = false →
    R (Tab.put (fun _ => {}) keys n k) c
  revoke : ∀ {keys c} n, R keys c →
    R (Tab.put (fun _ => {}) keys n { Tab.find (fun _ => {}) keys n with revoked := true }) c

/-- No INSTALL that the device takes now touches the property: the safety unlock is closed, or the property does not ask for
the committed set. -/
def Dev.Sealed (R : VaultProp) (d : Dev) : Prop := d.get THM_STAT_SAFE_UNLOCK = 0 ∨ R.OfKeys

/-- A request by `o` leaves the property: `o` may not send INSTALL, or the device is sealed. -/
def State.Safe (R : VaultProp) (o : Origin) (s : State) : Prop := (∀ d : Dev, d.lockOrigin o = false) ∨ s.dev.Sealed R

theorem State.safe_host {R : VaultProp} {s : State} : s.Safe R .host := .inl fun _ => rfl
theorem State.safe_debug {R : VaultProp} {s : State} : s.Safe R .debug := .inl fun _ => rfl

/-- A change of the two copies of the committed set leaves what does not ask for it. -/
theorem Dev.Holds.install {R : VaultProp} {d : Dev} (h : d.Holds R) (hR : R.OfKeys) {safe : Twin SafeSet} {cal : Twin Cal} :
    Dev.Holds R { d with per := { d.per with safe := safe, cal := cal } } := hR _ _ _ h

theorem Dev.Holds.program {R : VaultProp} {d : Dev} (h : d.Holds R) (hR : R.Lasts) {n : Nat} {k : KeySlot}
    (hn : (d.keySlot n).programmed = false) : (d.keyPut n k).Holds R := hR.program n k h hn

theorem Dev.Holds.revoke {R : VaultProp} {d : Dev} (h : d.Holds R) (hR : R.Lasts) {n : Nat} :
    (d.keyPut n { d.keySlot n with revoked := true }).Holds R := hR.revoke n h

/-- The arguments of a request are cleared before it acts, which leaves the safety unlock alone. -/
theorem Dev.get_safeUnlock_clearArgs (d : Dev) :
    (d.each 8 fun k d => d.setReg (A_HEM_THMARG k) 0).get THM_STAT_SAFE_UNLOCK = d.get THM_STAT_SAFE_UNLOCK :=
  kept_each (P := fun e : Dev => e.get THM_STAT_SAFE_UNLOCK = d.get THM_STAT_SAFE_UNLOCK) rfl fun _ h => by
    rw [Dev.get_setReg_ne _ _ (by simp only [A_HEM_THMARG]; omega)]
    exact h

/-- A write of HEM_THMREQ stores nothing: all its fields are write only, and the request alone acts. -/
theorem Dev.regAct_thmreq (d : Dev) (o : Origin) (cov val old : BitVec 64) :
    (d.regStore ⟨o, A_HEM_THMREQ, A_HEM_THMREQ, 0, 0, cov, val⟩ thmreqFields).regAct
      ⟨o, A_HEM_THMREQ, A_HEM_THMREQ, 0, 0, cov, val⟩ old = d := by rfl

namespace State.Holds

variable {R : VaultProp} {s t u : State}

/-- The device becomes `e`. -/
theorem dev (k : t.Holds R) {e : Dev} {mem flash tag : List Host.Cell} {pending : List Instr} (he : t.dev.Holds R → e.Holds R) :
    State.Holds R ⟨e, mem, flash, tag, pending⟩ := he k

/-- The memory becomes `m`. -/
theorem mem (k : t.Holds R) {m : List Host.Cell} : State.Holds R { t with mem := m } := k

theorem ite {c : Prop} [Decidable c] (k : t.Holds R) (k' : u.Holds R) : State.Holds R (if c then t else u) := by
  split <;> assumption

/-! ### Log, resets and Spool -/

theorem logEntry (k : t.Holds R) {kind origin count digest reason : Nat} :
    (t.logEntry kind origin count digest reason).Holds R := by
  unfold State.logEntry
  exact .ite k (.dev k fun h => .showLog (.records h))

theorem endSafety (k : t.Holds R) {origin reason : Nat} : (t.endSafety origin reason).Holds R := by
  unfold State.endSafety
  exact .ite (.dev (.logEntry (.dev k fun h => .set h)) fun h => .raise (.beside h)) k

theorem endDev (k : t.Holds R) {origin reason : Nat} : (t.endDev origin reason).Holds R := by
  unfold State.endDev
  exact .ite (.dev (.logEntry (.dev k fun h => .showUnlock (.resumeAll (.set h)))) fun h => .raise h) k

theorem volatileLost (k : t.Holds R) : t.volatileLost.Holds R := .mem k

theorem appResetTo (k : t.Holds R) {cause : Fld} {held : Bool} : (t.appResetTo cause held).Holds R := by
  unfold State.appResetTo
  exact .ite k (.dev (.endDev (.endSafety k)) fun h => .set (.appReset h))

theorem appReset (k : t.Holds R) {cause : Fld} : (t.appReset cause).Holds R := .appResetTo k

theorem rstctl (k : t.Holds R) {o : Origin} {key : Nat} {rst : Bool} : (t.rstctl o key rst).Holds R := by
  unfold State.rstctl
  exact .ite (.dev k fun h => .count h) (.ite (.appReset k) k)

theorem keepReset (k : t.Holds R) : t.keepReset.Holds R := by
  unfold State.keepReset
  exact .ite k (.dev (.appResetTo k) fun h => .beside h)

theorem splWrite (k : t.Holds R) {c : Nat} {rec : List (BitVec 64)} : (t.splWrite c rec).Holds R := by
  unfold State.splWrite
  extract_lets _ _ _ _ d1 d2
  refine .ite k (.dev k fun h => ?_)
  have h2 : d2.Holds R := .count (.when (.set h) fun h => .set h)
  exact .ite (.set h2) (.ite (.splStopDone (.setSch h2)) h2)

theorem splServe (k : t.Holds R) : t.splServe.Holds R := by
  unfold State.splServe
  extract_lets
  split
  · exact k
  · split
    · exact k
    · exact .splWrite (.dev k fun h => .splLevel (.setSch (.beside h)))

theorem splStore (k : t.Holds R) {a n v : Nat} : (t.splStore a n v).Holds R := by
  unfold State.splStore
  exact .ite (.dev k fun h => .count h) (.mem k)

theorem pairStore (k : t.Holds R) {p a n v : Nat} : (t.pairStore p a n v).Holds R := by
  unfold State.pairStore
  exact .ite k (.dev k fun h => .ite h (.pairUpd h))

/-! ### Thimble's requests -/

theorem onDev (k : t.Holds R) {f : Dev → List (BitVec 64) → Dev × Nat} {a : List (BitVec 64)}
    (hf : ∀ {d}, d.Holds R → (f d a).1.Holds R) : (onDev f t a).1.Holds R := .dev k hf

theorem reqUnlock (k : t.Holds R) {dev : Bool} {o : Origin} {len1 : Nat} {a : List (BitVec 64)} :
    (State.reqUnlock dev o len1 t a).1.Holds R := by
  unfold State.reqUnlock
  extract_lets
  split <;> rename_i he <;> have hd := Dev.Holds.of_pwdCheck (R := R) he
  · exact .dev k hd
  · split
    · exact .dev k hd
    · split
      · exact .dev k hd
      · split
        · exact .dev k hd
        · exact .dev (.logEntry (.dev k hd)) fun h => .raise (.ite (.showUnlock (.set h)) (.beside (.set h)))

theorem reqClose (k : t.Holds R) {o : Origin} {a : List (BitVec 64)} : (State.reqClose o t a).1.Holds R := by
  unfold State.reqClose
  split; exacts [k, .endDev (.endSafety k)]

/-- With the safety unlock closed INSTALL is refused with 4; else it replaces the committed set and leaves the keys (R334). -/
theorem reqInstall (k : t.Holds R) (hs : t.dev.Sealed R) {o : Origin} {a : List (BitVec 64)} :
    (State.reqInstall o t a).1.Holds R := by
  unfold State.reqInstall
  extract_lets d
  split
  · exact k
  next hopen =>
    have hR : R.OfKeys := hs.resolve_left fun h => hopen (by simp [d, Dev.bit, h])
    split
    · exact k
    · split
      · extract_lets
        split
        · exact k
        · split
          · exact k
          · split
            · exact k
            · exact .dev (.logEntry (.dev k fun h => .setActs (h.install hR))) fun h => .raise h
      · exact k

theorem reqPassword (k : t.Holds R) {o : Origin} {len1 len2 : Nat} {a : List (BitVec 64)} :
    (State.reqPassword o len1 len2 t a).1.Holds R := by
  unfold State.reqPassword
  split <;> rename_i he <;> have hd := Dev.Holds.of_pwdCheck (R := R) he
  · exact .dev k hd
  · split
    · exact .dev k hd
    · exact .dev (.logEntry (.dev k fun h => .set (.records (.drawn (.drawn (hd h)))))) fun h => .raise h

theorem reqAckLog (k : t.Holds R) {o : Origin} {len1 : Nat} {a : List (BitVec 64)} :
    (State.reqAckLog o len1 t a).1.Holds R := by
  unfold State.reqAckLog
  split <;> rename_i he <;> have hd := Dev.Holds.of_pwdCheck (R := R) he
  · exact .dev k hd
  · extract_lets
    split
    · exact .dev k hd
    · exact .dev (.logEntry (.dev k fun h => .set (.records (hd h)))) fun h => .raise h

theorem reqByCode (k : t.Holds R) {o : Origin} {code len1 len2 : Nat} {a : List (BitVec 64)}
    (hs : lockReq code = true → t.dev.Sealed R) : (State.reqByCode o code len1 len2 t a).1.Holds R := by
  unfold State.reqByCode
  split
  exacts [.onDev k fun h => .reqDemand h, .onDev k fun h => .reqDemand h, .onDev k fun h => .reqRelease h,
    .onDev k fun h => .reqBrakeRelease h, .onDev k fun h => .reqBrakeApply h, .onDev k fun h => .reqDisStart h,
    .onDev k fun h => .reqDisStop h, .onDev k fun h => .reqWind h, .onDev k fun h => .reqClear h, .reqUnlock k, .reqUnlock k,
    .reqClose k, .reqInstall k (hs rfl), .reqPassword k, .reqAckLog k, k]

/-- INSTALL is a lockstep request, so an origin without lockstep is refused before it acts. -/
theorem thmreqWrite (k : t.Holds R) {o : Origin} (hs : t.Safe R o) {code tag len1 len2 : Nat} :
    (t.thmreqWrite o code tag len1 len2).Holds R := by
  unfold State.thmreqWrite State.thmReq
  split
  · exact .dev k fun h => .classRef h
  next hlock =>
    refine .ite (.dev k fun h => .thmAnswer h) (.ite k (.dev (.reqByCode (.dev k fun h => .each h fun h => .setReg h)
      fun hc => ?_) fun h => .thmAnswer h))
    rcases hs with ho | hs
    · simp [hc, ho] at hlock
    · exact hs.imp_left fun h => (Dev.get_safeUnlock_clearArgs _).trans h

/-! ### Communication -/

theorem appSend (k : t.Holds R) {n len : Nat} : (t.appSend n len).Holds R := by
  unfold State.appSend
  exact .ite (.dev k fun h => .sflData h) k

theorem sflSubmit (k : t.Holds R) {len : Nat} : (t.sflSubmit len).Holds R := .dev k fun h => .sflJudge h

theorem canArb (k : t.Holds R) {n : Nat} : (t.canArb n).Holds R := by
  unfold State.canArb
  exact .ite k (.dev (.dev k fun h => .each h fun h => .ite h (.ite (.canFail h) (.ite (.canFail h) h))) fun h => .canUpd h)

theorem canWant (k : t.Holds R) {n : Nat} : (t.canWant n).Holds R := by
  unfold State.canWant
  exact .ite (.canArb k) k

theorem jnlFound (k : t.Holds R) : t.jnlFound.Holds R := by
  unfold State.jnlFound
  exact .ite k (.dev k fun h => .beside h)

theorem jnlWrite (k : t.Holds R) : t.jnlWrite.Holds R := by
  unfold State.jnlWrite
  extract_lets
  split; exacts [.dev (.jnlFound k) fun h => .jnlFlushEnd h, .dev (.jnlFound k) fun h => .jnlWritten h]

theorem canTxreq (k : t.Holds R) {n mask : Nat} : (t.canTxreq n mask).Holds R := .canWant (.dev k fun h => .setBits h)

theorem canTxabort (k : t.Holds R) {n mask : Nat} : (t.canTxabort n mask).Holds R := .canWant (.dev k fun h => .setBits h)

theorem canSent (k : t.Holds R) {n x stamp loop : Nat} : (t.canSent n x stamp loop).Holds R := by
  unfold State.canSent
  extract_lets u d1
  have ku : u.Holds R := .dev k fun h => .canTxGood h
  refine .ite ?_ (.dev ku fun h => .raise (.setBits (.canEnd ?_)))
  · split; exacts [ku, .dev ku fun h => .when (.when (.canUpd h) fun h => .refSent h) fun h => .domSent h]
  · unfold d1
    split; exacts [.canLoop h, h]

theorem canLostAt (k : t.Holds R) {n x : Nat} {loop : Option (BitVec 8)} : (t.canLostAt n x loop).Holds R := by
  unfold State.canLostAt
  refine .dev k fun h => .canLost ?_
  split; exacts [.canLoop h, h]

theorem canFifo (k : t.Holds R) {n : Nat} {f : CanFrame} {stamp filter : Nat} : (t.canFifo n f stamp filter).Holds R := by
  unfold State.canFifo
  extract_lets
  split
  · exact .dev k fun h => .raiseLim (.count h)
  · exact .dev k fun h => .when (.raise (.canFifoShow (.canUpd h))) fun h => .raise h

theorem canSlot (k : t.Holds R) {n : Nat} {f : CanFrame} {stamp filter : Nat} : (t.canSlot n f stamp filter).Holds R := by
  unfold State.canSlot
  split
  · exact .dev k fun h => .raiseLim (.count h)
  · exact .dev k fun h => .raise (.setBits h)

theorem canFilter (k : t.Holds R) {n : Nat} {f : CanFrame} {stamp : Nat} : (t.canFilter n f stamp).Holds R := by
  unfold State.canFilter
  split
  · split; exacts [k, .canSlot k, .canFifo k]
  · exact .ite (.canFifo k) (.dev k fun h => .count h)

theorem hostReceive (k : t.Holds R) {p stamp : Nat} {l : List (BitVec 8)} : (t.hostReceive p stamp l).Holds R := by
  unfold State.hostReceive
  exact .ite k (.ite (.dev k fun h => .raise (.count h)) (.dev k fun h => .raise (.set h)))

theorem hostDrain (k : t.Holds R) : t.hostDrain.Holds R := by
  unfold State.hostDrain
  exact .ite k (List.foldlRecOn (motive := State.Holds R) _ _ (.dev k fun h => .beside h) fun _ k _ _ => .hostReceive k)

theorem idle (k : t.Holds R) : t.idle.Holds R := .hostDrain (.dev k fun h => .idle h)

theorem txKick (k : t.Holds R) : t.txKick.Holds R := .dev k fun h => .beside h

/-! ### The service tag -/

theorem tagRead (k : t.Holds R) {b n last : Nat} : (t.tagRead b n last).Holds R := by
  unfold State.tagRead
  exact .ite (.dev k fun h => .tagError h) (.dev k fun h => .tagAnswer h)

theorem tagWriteBlock (k : t.Holds R) {b : Nat} {v : BitVec 32} : (t.tagWriteBlock b v).Holds R := by
  unfold State.tagWriteBlock
  exact .ite (.dev k fun h => .tagError h) (.ite (.dev k fun h => .tagError h)
    (.dev k fun h => .drawn (.beside (.when (.tagDirty (.tagAnswer h)) fun h => .raise h))))

theorem nfcCommit (k : t.Holds R) {p : Nat} : (t.nfcCommit p).Holds R := by
  unfold State.nfcCommit
  exact .ite (.dev k fun h => .set h) (.dev k fun h => .clkEval (.set (.set (.beside h))))

theorem nfcTake (k : t.Holds R) {p : Nat} : (t.nfcTake p).Holds R :=
  .dev k fun h => .when (.raise (.set h)) fun h => .tagDirty h

theorem nfcRead (k : t.Holds R) {p : Nat} : (t.nfcRead p).Holds R := by
  unfold State.nfcRead
  exact .ite (.dev k fun h => .set h) (.ite (.dev k fun h => .clkEval (.set (.set (.beside h)))) (.nfcTake k))

/-! ### Accesses -/

theorem busRead (k : t.Holds R) {a n : Nat} : (t.busRead a n).1.Holds R := by
  unfold State.busRead
  split
  · exact .dev k fun h => .busErr h
  · split
    · exact k
    · exact k
    · split
      · split; exacts [.dev k fun h => .drawn (.drawn h), .dev k fun h => .count (.drawn h)]
      · exact k
    · split
      · exact k
      · split; exacts [.dev k fun h => .drawn h, k]

theorem regActMem (k : t.Holds R) {w : RegW} (hs : w.addr = A_HEM_THMREQ → t.Safe R w.o) : (t.regActMem w).Holds R := by
  unfold State.regActMem
  extract_lets u p
  have hu : u.Holds R := .ite k (.canTxreq k)
  refine .ite (.rstctl k) ?_
  split
  next ha => exact .thmreqWrite k (hs ha)
  · exact .ite (.ite hu (.canTxabort hu))
      (.ite (.ite (.canWant (.dev k fun h => .domEnable h)) k) (.ite (.canWant k) (.ite (.ite (.txKick k) k)
        (.ite (.ite (.sflSubmit k) k) (.ite (.ite (.appSend k) k) (.ite (.ite (.nfcCommit k) (.ite (.nfcRead k) k)) k))))))

theorem regWrite (k : t.Holds R) {o : Origin} (hs : t.Safe R o) {a n v : Nat} : (t.regWrite o a n v).Holds R := by
  unfold State.regWrite
  split
  · exact k
  next r i j hr =>
    refine .regActMem (.dev k fun h => .regAct (.regStore h)) fun ha => ?_
    obtain ha : a / 8 * 8 = A_HEM_THMREQ := ha
    rw [ha] at hr
    injection hr.symm.trans regDefAt_thmreq with he
    simp only [Prod.mk.injEq] at he
    obtain ⟨rfl, rfl, rfl⟩ := he
    refine hs.imp_right fun h => ?_
    simp only [ha]
    rwa [Dev.regAct_thmreq]

theorem winWrite (k : t.Holds R) {a n v : Nat} : (t.winWrite a n v).Holds R := by
  unfold State.winWrite
  exact .ite (.ite (.dev k fun h => .count h) (.mem k)) (.ite k (.mem k))

theorem busWrite (k : t.Holds R) {o : Origin} (hs : t.Safe R o) {a n v : Nat} : (t.busWrite o a n v).1.Holds R := by
  unfold State.busWrite
  split
  · exact .dev k fun h => .busErr h
  · dsimp only
    split
    · split; exacts [.pairStore k, .mem k]
    · exact .ite k (.mem k)
    · exact .splStore k
    · exact .winWrite k
    · exact .regWrite k hs
    · exact k

theorem dbgBus (k : t.Holds R) {err : Bool} {v : Nat} : (t.dbgBus err v).Holds R := .dev k fun h => .dbgUpd h

theorem debugCmd (k : t.Holds R) {c : DbgCmd} : (t.debugCmd c).Holds R := by
  cases c with
  | idcode | bypass | readStat => exact .dev k fun h => .dbgUpd h
  | readReg c r => exact .dev k fun h => .when h fun h => .dbgUpd h
  | writeReg c r v => exact .dev k fun h => .when h fun h => .dbgUpd (.coreRegPut h)
  | busRead a w => exact .dbgBus (.busRead k)
  | busWrite a w v => exact .dbgBus (.busWrite k State.safe_debug)
  | halt c => exact .dev k fun h => .debugHalt h
  | resume c => exact .dev k fun h => .debugResume h
  | step c => exact k
  | trigger c n v => exact .dev k fun h => .beside h

theorem crcRead (k : t.Holds R) {a n : Nat} : (t.crcRead a n).1.Holds R := by
  unfold State.crcRead
  split; exacts [k, .busRead k]

theorem crcCycles (k : t.Holds R) {u n : Nat} : (State.crcCycles u n t).Holds R := by
  induction n generalizing t with
  | zero => exact k
  | succ n ih =>
    have kr : (t.crcRead (t.dev.get (CRC_ADDR u)) (min 8 (t.dev.get (CRC_LEN u)))).1.Holds R := .crcRead k
    rw [State.crcCycles]
    split
    · exact k
    · split <;> rename_i he <;> rw [he] at kr
      · exact .dev kr fun h => .raise (.count (.set (.set h)))
      · exact ih (.dev kr fun h => .set (.set (.crcFeed h)))

theorem spiRead (k : t.Holds R) {a n : Nat} : (t.spiRead a n).1.Holds R := by
  induction n generalizing t a with
  | zero => exact k
  | succ n ih =>
    have kr : (t.busRead a 8).1.Holds R := .busRead k
    rw [State.spiRead]
    split <;> rename_i he <;> rw [he] at kr
    · exact kr
    · have kn := ih kr (a := a + 8)
      split <;> rename_i he <;> rw [he] at kn <;> exact kn

theorem spiWrite (k : t.Holds R) {a n : Nat} {l : List (BitVec 8)} : (t.spiWrite a l n).1.Holds R := by
  induction n generalizing t a l with
  | zero => exact k
  | succ n ih =>
    have kw : (t.busWrite .host a 8 (ofBytesLE (l.take 8))).1.Holds R := .busWrite k State.safe_host
    rw [State.spiWrite]
    split <;> rename_i he <;> rw [he] at kw
    · exact kw
    · exact ih kw

theorem flashProg (k : t.Holds R) {a : Nat} {l : List (BitVec 8)} : (t.flashProg a l).Holds R := by
  induction l generalizing t a with
  | nil => exact k
  | cons b l ih =>
    rw [State.flashProg]
    exact .ite (ih (.dev k id)) (ih (.dev k fun h => .drawn h))

end State.Holds
end Sys2Proof.Machine
end

section
/-!
The same of every command: one rule for each way a meaning ends, then the commands.
-/
namespace Sys2Proof.Machine

/-- The outcome `o` is a next state, which has the property `R` if `s` has it. -/
structure Kept (R : VaultProp) (s : State) (o : Out) : Prop where
  ends : s.Holds R → ∃ t, o = .next t ∧ t.Holds R

namespace Kept

variable {R : VaultProp} {s : State}

theorem next {t : State} (k : s.Holds R → t.Holds R) : Kept R s (.next t) := ⟨fun h => ⟨t, rfl, k h⟩⟩

/-! ### The ways a meaning ends -/

section
variable {f : Dev → Dev} (hf : ∀ {d}, d.Holds R → (f d).Holds R)
include hf

theorem always : Kept R s (s.always f) := .next fun k => .dev k fun h => hf h

theorem main : Kept R s (s.main f) := .next fun k => .dev k fun h => .ite h (hf h)

theorem onClk {p : Nat} : Kept R s (s.onClk p f) := .next fun k => .dev k fun h => .ite h (hf h)

theorem byReg : Kept R s (s.byReg f) := .onClk fun h => .when h hf

theorem byOrigin {o : Origin} : Kept R s (s.byOrigin o f) := .onClk fun h => .when h hf

theorem thimble : Kept R s (s.thimble f) := .main fun h => .ite (hf h) h

theorem domain : Kept R s (s.domain f) := .next fun k => .ite k (.canWant (.dev k fun h => hf h))

theorem domHeard : Kept R s (s.domHeard f) :=
  .next fun k => .ite k (.ite k (.canArb (.dev k fun h => .beside (hf h))))

end

section
variable {f : State → State} (hf : ∀ {t}, t.Holds R → (f t).Holds R)
include hf

theorem mainMem : Kept R s (s.mainMem f) := .next fun k => .ite k (hf k)

theorem onClkMem {p : Nat} : Kept R s (s.onClkMem p f) := .next fun k => .ite k (hf k)

theorem byRegMem : Kept R s (s.byRegMem f) := .onClkMem fun k => .ite (hf k) k

theorem byOriginMem {o : Origin} : Kept R s (s.byOriginMem o f) := .onClkMem fun k => .ite (hf k) k

theorem bootStage {n : Nat} : Kept R s (s.bootStage n f) := .mainMem fun k => .ite k (hf k)

theorem inField : Kept R s (s.inField f) := .next fun k => .ite (hf k) k

theorem tagCmd {adr : TagTo} : Kept R s (s.tagCmd adr f) := .inField fun k => .ite (hf k) k

end

/-- What is known of `s` alone serves for its own access. -/
theorem byOriginHere {f : State → State} {o : Origin} (hf : s.Holds R → (f s).Holds R) : Kept R s (s.byOriginMem o f) :=
  .next fun k => .ite k (.ite (hf k) k)

/-- A request of HEM_THMREQ. -/
theorem request {o : Origin} (hs : s.Safe R o) {code tag len1 len2 : Nat} :
    Kept R s (s.byOriginMem o fun s => s.thmreqWrite o code tag len1 len2) := .byOriginHere fun k => .thmreqWrite k hs

section
variable {f : State → SpiReq → State} (hf : ∀ {t q}, t.Holds R → (f t q).Holds R)
include hf

theorem spiExec {cmd : Nat} {a b : Bool} {n : Option Nat} : Kept R s (s.spiExec cmd a b n f) := by
  refine .onClkMem fun k => ?_
  split
  · exact k
  · exact .ite k (.ite (.dev k fun h => .spiDone h) (.ite (.dev k fun h => .spiDone h) (hf k)))

theorem spiFlash {cmd : Nat} {ok : Bool} : Kept R s (s.spiFlash cmd ok f) :=
  .spiExec fun k => .ite k (.ite (.dev k fun h => .spiDone h) (hf k))

end

/-! ### Commands -/

/-! #### Sys2Proof/Machine/Pos.lean -/

theorem posFaultClear {p : Fin 4} {mask : BitVec 13} : Kept R s (execPosFaultClear p mask s) := .byReg fun h => .posClear h

theorem excitationMark {pos : Bool} : Kept R s (execExcitationMark pos s) :=
  .onClk fun h => .adcTrig (.each h fun h => .ite (.posUpd h) h)

theorem resolverPairTimeout {p : Fin 2} : Kept R s (execResolverPairTimeout p s) := .onClk fun h => .ite (.pairDrop h) h

theorem encoderEdge {p : Fin 4} {a b : Bool} : Kept R s (execEncoderEdge p a b s) :=
  .onClk fun h => .ite h (.ite (.posBad (.count (.posUpd h))) (.posUpd (.posUpd h)))

theorem encoderMeasurement {p : Fin 4} : Kept R s (execEncoderMeasurement p s) := .onClk fun h => .ite (.posReading h) h

theorem index {p : Fin 4} : Kept R s (execIndex p s) := by
  unfold execIndex
  exact .onClk fun h => .ite h (.ite (.when (.posUpd (.raise h)) fun h => .posUnindex (.posImmediate h)) (.set (.posUpd
    (.raise h))))

theorem serialFrameStart {p : Fin 4} : Kept R s (execSerialFrameStart p s) := .onClk fun h => .ite h (.frameStart h)

theorem serialFrameComplete {p : Fin 4} {idle ef wf : Bool} {data : BitVec 40} {crc : BitVec 8} :
    Kept R s (execSerialFrameComplete p idle ef wf data crc s) := by
  unfold execSerialFrameComplete
  exact .onClk fun h => by split; exacts [h, .ite (.ite (.posBad (.posUpd h)) (.posFrame (.posUpd h))) (.ite (.posBad (.posUpd
    h)) (.ite (.posBad (.setB (.posUpd h))) (.posFrame (.setB (.posUpd h)))))]

theorem sscStartBitTimeout {p : Fin 4} : Kept R s (execSscStartBitTimeout p s) :=
  .onClk fun h => .ite (.posBad (.posUpd h)) h

theorem vencOvercurrent {p : Fin 4} : Kept R s (execVencOvercurrent p s) := .main fun h => .ite (.posImmediate h) h

theorem openToSls {p : Fin 4} : Kept R s (execOpenToSls p s) := .main fun h => .ite (.slsEnter h) h

theorem openTimeout {p : Fin 4} : Kept R s (execOpenTimeout p s) := .main fun h => .ite (.posLost h) h

theorem slsLowSpeed {p : Fin 4} : Kept R s (execSlsLowSpeed p s) := .main fun h => .ite (.posLost h) h

theorem disagree {p : Fin 4} : Kept R s (execDisagree p s) := .main fun h => .ite (.raise (.set (.posUpd h))) h

/-! #### Sys2Proof/Machine/Pwm.lean -/

theorem switchEdge {c : Fin 2} {x : Fin 3} : Kept R s (execSwitchEdge c x s) := .main fun h => .ite h (.legEdge (.carUpd h))

theorem deadTimeEnd {c : Fin 2} {x : Fin 3} : Kept R s (execDeadTimeEnd c x s) := .main fun h => .ite h (.carCmd (.carUpd h))

theorem onTimeLimit {c : Fin 3} {k : Fin 6} : Kept R s (execOnTimeLimit c k s) :=
  .main fun h => .ite h (.jnlFault (.raise (.count (.setBits (.carApply (.carUpd h))))))

theorem carrierMark {c : Fin 3} {slack : BitVec 16} : Kept R s (execCarrierMark c slack s) :=
  .main fun h => .ite h (.ite (.carMark (.carMark h)) (.carMark h))

theorem brakeRequestSet {v1 v2 : BitVec 16} : Kept R s (execBrakeRequestSet v1 v2 s) :=
  .main fun h => .ite h (.brakePulse (.brakeClock (.driveEval (.count (.set (.carUpd h))))))

theorem brakeRequestClear {v1 v2 : BitVec 16} : Kept R s (execBrakeRequestClear v1 v2 s) :=
  .main fun h => .ite h (.driveEval (.set h))

theorem brakeOnTimeEnd : Kept R s (execBrakeOnTimeEnd s) := .main fun h => .ite (.brakeEnd h) h

theorem brakeOffTimeEnd : Kept R s (execBrakeOffTimeEnd s) := .main fun h => .ite (.brakePulse (.carUpd h)) h

theorem brakePulseMissing : Kept R s (execBrakePulseMissing s) := .main fun h => .ite (.brakeDirect h) (.brakeClock h)

theorem windingDischargeEngage {g : Fin 2} : Kept R s (execWindingDischargeEngage g s) := by
  unfold execWindingDischargeEngage
  exact .main fun h => .ite h (.coffOn (.eachOf (.clkEval (.set (.set (.carUpd h)))) fun h => .ite (.driveEval (.setPaths h))
    h))

theorem coffOnPhaseEnd {c : Fin 2} : Kept R s (execCoffOnPhaseEnd c s) := .main fun h => .ite h (.coffOff h)

theorem coffOffTimeEnd {c : Fin 2} : Kept R s (execCoffOffTimeEnd c s) := .main fun h => .ite h (.coffOn h)

theorem windingDischargeEnd : Kept R s (execWindingDischargeEnd s) := .main fun h => .windStop h

theorem debugHalt {c : Fin 4} : Kept R s (execDebugHalt c s) := .main fun h => .debugHalt h

theorem debugResume {c : Fin 4} : Kept R s (execDebugResume c s) := .main fun h => .debugResume h

/-! #### Sys2Proof/Machine/Adc.lean -/

theorem sampleRecord {n : Fin 8} {v : Conv} : Kept R s (execSampleRecord n v s) := .onClk fun h => .adcAperture h

theorem slotTrigger {n : Fin 8} {k : Fin 4} : Kept R s (execSlotTrigger n k s) := .onClk fun h => .ite h (.adcTrig1 h)

theorem slotFirstAperture {n : Fin 8} {clocks : BitVec 32} {v : Conv} : Kept R s (execSlotFirstAperture n clocks v s) :=
  .onClk fun h => .ite h (.ite h (.adcAperture (.adcUpd (.set (.set (.when h fun h => .raise (.count h)))))))

theorem slotComplete {n : Fin 8} : Kept R s (execSlotComplete n s) :=
  .onClk fun h => .ite h (.adcNext (.adcEntry (.when (.adcUpd h) fun h => .raise h)) fun h => .adcMux h)

theorem slotResultPublish {n : Fin 8} : Kept R s (execSlotResultPublish n s) := by
  unfold execSlotResultPublish
  exact .onClk fun h => by split; exacts [h, (.ite (.posSlot (.ite (.udcTake (.raiseIf (.when (.setReg (.adcUpd h)) fun h =>
    .raise h))) (.raiseIf (.when (.setReg (.adcUpd h)) fun h => .raise h)))) (.ite (.udcTake (.raiseIf (.when (.setReg
    (.adcUpd h)) fun h => .raise h))) (.raiseIf (.when (.setReg (.adcUpd h)) fun h => .raise h))))]

theorem urgentRequest {n : Fin 8} {count : BitVec 8} {i : BitVec 4} : Kept R s (execUrgentRequest n count i s) :=
  .byReg fun h => .urgWrite h

theorem urgentSlotComplete {n : Fin 8} : Kept R s (execUrgentSlotComplete n s) := by
  unfold execUrgentSlotComplete
  exact .onClk fun h => by split; exacts [h, (.ite h (.adcNext (.ite (.cluVector (.adcUpd (.when (.raise (.setReg h)) fun h =>
    .raise h))) (.adcUpd (.when (.raise (.setReg h)) fun h => .raise h))) fun h => .adcMux (.set (.set h))))]

theorem adcRunStart {n : Fin 8} : Kept R s (execAdcRunStart n s) := .byReg fun h => .adcRun h

theorem adcRunStop {n : Fin 8} : Kept R s (execAdcRunStop n s) := .byReg fun h => .adcStop h

theorem refSelect {sel : BitVec 2} : Kept R s (execRefSelect sel s) := .byReg fun h => .refSelect h

theorem referenceSettled {mv : BitVec 16} : Kept R s (execReferenceSettled mv s) := by
  unfold execReferenceSettled
  exact .main fun h => .ite h (.ite (.refEvt (.each (.set (.set (.set (.beside h)))) fun h => .calBegin h)) (.refEvt (.count
    (.set (.set (.beside h))))))

theorem referenceOutOfWindow {mv : BitVec 16} : Kept R s (execReferenceOutOfWindow mv s) := by
  unfold execReferenceOutOfWindow
  exact .main fun h => .ite (.set (.beside h)) (.eachOf (.jnlFault (.refEvt (.count (.set (.set (.set (.beside h))))))) fun h
    => .when h fun h => .hemSafe h)

theorem adcCalStart {mask : BitVec 8} : Kept R s (execAdcCalStart mask s) := .byReg fun h => .calStart h

theorem calibrationEnd {n : Fin 8} {w : List (BitVec 32)} {off gain : BitVec 32} : Kept R s (execCalibrationEnd n w off gain
  s) := by
  unfold execCalibrationEnd
  exact .onClk fun h => .ite h (.clkEval (.startDeferred (.ite (.refEvt (.set (.foHoldAll (.when (.raise (.ite (.clrBits
    (.clrBits (.setBits (.adcUpd (.setB (.set (.clrBits (.set (.set (.each h fun h => .set h)))))))))) (.setBits (.setBits
    (.clrBits (.adcUpd (.setB (.set (.clrBits (.set (.set (.each h fun h => .set h)))))))))))) fun h => .calFailHold h))))
    (.foHoldAll (.when (.raise (.ite (.clrBits (.clrBits (.setBits (.adcUpd (.setB (.set (.clrBits (.set (.set (.each h fun h
    => .set h)))))))))) (.setBits (.setBits (.clrBits (.adcUpd (.setB (.set (.clrBits (.set (.set (.each h fun h => .set
    h)))))))))))) fun h => .calFailHold h)))))

theorem adcTrimStart {o : Origin} : Kept R s (execAdcTrimStart o s) := .onClk fun h => .when h fun h => .trimWrite h

theorem adcTrimDone {code : BitVec 16} : Kept R s (execAdcTrimDone code s) := by
  unfold execAdcTrimDone
  exact .onClk fun h => .ite h (.ite (.set (.clkEval (.set h))) (.thmEvalAll (.hemHold (.set (.set (.records (.clkEval (.set
    h))))))))

/-! #### Sys2Proof/Machine/Gch.lean -/

theorem shortCircuit {n : Fin 14} : Kept R s (execShortCircuit n s) := .always fun h => .ite (.gchFault h) h

theorem desat {n : Fin 14} : Kept R s (execDesat n s) := .always fun h => .ite (.gchFault h) h

theorem softoffEnd {n : Fin 14} : Kept R s (execSoftoffEnd n s) := .main fun h => .ite (.gchPut (.gchUpd h)) h

theorem overcurrent {n : Fin 14} : Kept R s (execOvercurrent n s) := .always fun h => .ite h (.gchFault h)

theorem gateSupplyFault {n : Fin 14} {which : Fin 3} {vpos vneg : BitVec 8} : Kept R s (execGateSupplyFault n which vpos vneg
  s) := by
  unfold execGateSupplyFault
  exact .always fun h => .ite h (.ite (.gchFault (.supplyPut h)) (.supplyPut h))

theorem gateSupplyRecovered {n : Fin 14} {vpos vneg : BitVec 8} : Kept R s (execGateSupplyRecovered n vpos vneg s) := by
  unfold execGateSupplyRecovered
  exact .always fun h => .ite h (.ite (.supplyPut h) (.ite (.gchUpd (.supplyPut h)) (.gchShowCause (.gchUpd (.supplyPut h)))))

theorem vposLost {n : Fin 14} : Kept R s (execVposLost n s) := by
  unfold execVposLost
  exact .always fun h => .ite (.gchUpd (.gateOff (.ite (.disEnd h) h))) (.when (.set (.gchPut (.gchUpd (.gateOff (.ite
    (.disEnd h) h))))) fun h => .set h)

theorem highVoltageHalfPowerUp {n : Fin 14} : Kept R s (execHighVoltageHalfPowerUp n s) := .always fun h => .gchUpd h

theorem mismatch {n : Fin 14} {high : Bool} : Kept R s (execMismatch n high s) := .always fun h => .ite h (.gchFault h)

theorem ntcReading {n : Fin 14} {code : BitVec 8} : Kept R s (execNtcReading n code s) := by
  unfold execNtcReading
  exact .always fun h => .ite h (.ite (.ite (.gchUpd h) h) (.when (.gchShowCause (.set (.ite (.gchUpd h) h))) fun h => .count
    h))

theorem ntcTrip {n : Fin 14} : Kept R s (execNtcTrip n s) := .always fun h => .ite h (.gchFault h)

theorem ontHv {n : Fin 14} : Kept R s (execOntHv n s) := .always fun h => .ite h (.gchFault h)

theorem gateEdge {n : Fin 14} : Kept R s (execGateEdge n s) := by
  unfold execGateEdge
  exact .main fun h => by extract_lets; split; exacts [h, (.eachOf (.gchUpd h) fun h => .ite (.ite (.gateOnBy (.gchUpd h))
    (.gateOffBy (.gchUpd h))) h)]

theorem edgeLearn {n : Fin 14} {on : Bool} {ts : Option (BitVec 10)} {code : BitVec 10} {vdsOff : BitVec 16} :
    Kept R s (execEdgeLearn n on ts code vdsOff s) := by
  unfold execEdgeLearn
  exact .main fun h => .edgeLearn h

theorem gateLinkTrainingDone {e : Fin 14 × Rails} : Kept R s (execGateLinkTrainingDone e s) :=
  .main fun h => .ite (.trainDone (.supplyRead h)) h

theorem gateLinkTrainingFail {n : Fin 14} : Kept R s (execGateLinkTrainingFail n s) := .main fun h => .ite (.trainFail h) h

theorem gateLinkRetry {n : Fin 14} {ok : Option Rails} : Kept R s (execGateLinkRetry n ok s) := by
  unfold execGateLinkRetry
  exact .main fun h => .ite h (by split; exacts [.trainFail h, (.when (.trainDone (.supplyRead h)) fun h => .count h)])

theorem linkLoss {n : Fin 14} : Kept R s (execLinkLoss n s) := by
  unfold execLinkLoss
  exact .always fun h => .ite h (.ite (.gchUpd h) (.eachOf (.ite (.gchPut (.gateOff (.gchUpd h))) (.gchUpd h)) fun h =>
    .sidesAgain (.gchFault1 h)))

theorem linkStatusMissing {n : Fin 14} : Kept R s (execLinkStatusMissing n s) := by
  unfold execLinkStatusMissing
  exact .main fun h => .ite (.thmEvalAll (.foHoldAll (.sidesAgain (.ite (.groupSafe (.when (.gchUpd (.clrBits h)) fun h =>
    .setBits h)) (.when (.gchUpd (.clrBits h)) fun h => .setBits h))))) h

theorem ascCommand {g : Fin 2} : Kept R s (execAscCommand g s) := .main fun h => .groupSafe h

theorem ascRelease {g : Fin 2} : Kept R s (execAscRelease g s) := .main fun h => .ite h (.ascRelease h)

theorem gateEnFall : Kept R s (execGateEnFall s) := .main fun h => .ite (.set (.beside h)) h

theorem gateEnDisable : Kept R s (execGateEnDisable s) := .main fun h => .ite h (.thmEvalAll (.gateDisable h))

theorem gateEnRise {lowNs : BitVec 32} {stuck : BitVec 14} : Kept R s (execGateEnRise lowNs stuck s) :=
  .main fun h => .ite h (.gateRise h)

theorem autonomousDischarge : Kept R s (execAutonomousDischarge s) := by
  unfold execAutonomousDischarge
  exact .always fun h => .ite h (.ite h (.ite (.gchUpd h) (.thmEvalAll (.raise (.count (.set (.set (.set (.gchPut (.gchUpd
    h))))))))))

theorem disTmaxElapsed : Kept R s (execDisTmaxElapsed s) := .always fun h => .ite h (.ite (.gchUpd h) (.disEnd h))

/-! #### Sys2Proof/Machine/Clu.lean -/

theorem currentLoopUpdate {g : Fin 2} {tm : BitVec 64} {bad : BitVec 2} : Kept R s (execCurrentLoopUpdate g tm bad s) := by
  unfold execCurrentLoopUpdate
  exact .onClk fun h => .ite h (.ite (.cluTrip (.eachOf h fun h => .set h)) (.ite h (.ite (.eachOf h fun h => .cluLasting
    (.cluInput h)) (.eachOf (.eachOf (.eachOf h fun h => .cluLasting (.cluInput h)) fun h => .cluOutput h) fun h => .ite
    (.cluTransfer h) h))))

theorem vectorMeasurementRequest {g : Fin 2} {second : Bool} : Kept R s (execVectorMeasurementRequest g second s) :=
  .onClk fun h => .ite h (.urgRequest (.cluUpd h))

theorem starved {g : Fin 2} : Kept R s (execStarved g s) := .onClk fun h => .ite (.raise (.set (.cluUpd h))) h

theorem cluEnable {g : Fin 2} : Kept R s (execCluEnable g s) := .byReg fun h => .cluEnable h

theorem cluDisable {g : Fin 2} : Kept R s (execCluDisable g s) := .byReg fun h => .cluDisable h

theorem offsetMeasurementEnd {g : Fin 2} : Kept R s (execOffsetMeasurementEnd g s) := by
  unfold execOffsetMeasurementEnd
  exact .onClk fun h => .ite h (.ite (.cluOff (.eachOf h fun h => .set h)) (.cluPut (.eachOf h fun h => .when h fun h =>
    .offsetStore h)))

/-! #### Sys2Proof/Machine/Align.lean -/

theorem standstillCheckEnd {p : Fin 4} {lo hi : BitVec 32} : Kept R s (execStandstillCheckEnd p lo hi s) :=
  .onClk fun h => by split; exacts [h, .ite h (.ite (.alignPulse h) (.alignFail h))]

theorem satPulseEnd {p : Fin 4} {iu iv iw : BitVec 32} {tEnd : BitVec 32} : Kept R s (execSatPulseEnd p iu iv iw tEnd s) :=
  .onClk fun h => .ite h (.setI (.alignDrive (.posUpd h)))

theorem pulseDecayEnd {p : Fin 4} : Kept R s (execPulseDecayEnd p s) :=
  .onClk fun h => .ite h (.ite (.alignEval h) (.ite (.alignPolarity h) (.alignPulse h)))

/-! #### Sys2Proof/Machine/Fio.lean -/

theorem foModeWrite {n : Fin 16} {mode : BitVec 3} : Kept R s (execFoModeWrite n mode s) := .byReg fun h => .foWrite h

theorem foCurrentLimitReached {n : Fin 16} {ma : BitVec 16} : Kept R s (execFoCurrentLimitReached n ma s) :=
  .main fun h => .ite (.set (.set (.foCurrent h))) (.foCurrent h)

theorem foCurrentBelowLimit {n : Fin 16} {ma : BitVec 16} : Kept R s (execFoCurrentBelowLimit n ma s) :=
  .main fun h => .ite (.count (.set (.set (.foCurrent h)))) (.foCurrent h)

theorem foLimitTimerExpire {n : Fin 16} : Kept R s (execFoLimitTimerExpire n s) :=
  .main fun h => .ite h (.ite (.foBrakeLatch h) (.foLatch h))

theorem foOvertemperature {e : Fin 16 × BitVec 16} : Kept R s (execFoOvertemperature e s) :=
  .main fun h => .ite h (.ite (.foBrakeLatch (.set h)) (.foLatch (.set h)))

theorem foRetryTimerExpire {n : Fin 14} : Kept R s (execFoRetryTimerExpire n s) :=
  .main fun h => .ite h (.ite (.foResume h) (.count (.set (.foPut h))))

theorem foRetryReset {n : Fin 14} : Kept R s (execFoRetryReset n s) := .main fun h => .ite (.set h) h

theorem foLatchClear {mask : BitVec 14} : Kept R s (execFoLatchClear mask s) := .byReg fun h => .foClearMask h

theorem bankSupplyFault {b : Fin 4} {high : Bool} {v : BitVec 16} : Kept R s (execBankSupplyFault b high v s) :=
  .main fun h => .ite (.set h) (.brakeShow (.foHoldAll (.raise (.beside (.setBits (.set h))))))

theorem bankSupplyRecovered {b : Fin 4} {v : BitVec 16} : Kept R s (execBankSupplyRecovered b v s) :=
  .main fun h => .ite (.set h) (.brakeShow (.foHoldAll (.beside (.set h))))

theorem aggOver : Kept R s (execAggOver s) := .main fun h => .raise (.set h)

theorem diFilteredEdge {n : Fin 32} : Kept R s (execDiFilteredEdge n s) := .main fun h => .diFiltered h

/-! #### Sys2Proof/Machine/Stepper.lean -/

theorem chopperUpperReached {n : Fin 12} {b : Bool} {ns : BitVec 32} {m : BitVec 10 × Bool} :
    Kept R s (execChopperUpperReached n b ns m s) := by
  unfold execChopperUpperReached
  exact .onClk fun h => .ite h (.chopOff (.coilUpd h))

theorem onPhaseLimit {n : Fin 12} {b : Bool} {e : BitVec 32 × Bool} : Kept R s (execOnPhaseLimit n b e s) :=
  .onClk fun h => .ite h (.chopOff (.count (.coilUpd h)))

theorem chopperLowerReached {n : Fin 12} {b : Bool} {ns : BitVec 32} {code : BitVec 10} {low : Bool} :
    Kept R s (execChopperLowerReached n b ns code low s) := by
  unfold execChopperLowerReached
  exact .onClk fun h => .ite h (.ite (.count (.coilUpd h)) (.chopOn (.chopSum h)))

theorem chopperTailEnd {n : Fin 12} {b low : Bool} : Kept R s (execChopperTailEnd n b low s) :=
  .onClk fun h => .ite (.chopOn h) h

theorem coilShort {n : Fin 12} {e : Bool × BitVec 32 × BitVec 32} : Kept R s (execCoilShort n e s) :=
  .main fun h => .ite (.axFault (.raise (.set (.homeAbort h)))) h

theorem positionTargetWrite {n : Fin 12} {v : BitVec 64} : Kept R s (execPositionTargetWrite n v s) :=
  .byReg fun h => .axTgtWrite h

theorem velocityTargetWrite {n : Fin 12} {v : BitVec 64} : Kept R s (execVelocityTargetWrite n v s) :=
  .byReg fun h => .axVtgtWrite h

theorem positionWrite {n : Fin 12} {v : BitVec 64} : Kept R s (execPositionWrite n v s) := .byReg fun h => .axPosWrite h

theorem axisEnable {n : Fin 12} : Kept R s (execAxisEnable n s) := .byReg fun h => .axEnable h

theorem axisDisable {n : Fin 12} : Kept R s (execAxisDisable n s) := .byReg fun h => .axDisable h

theorem axisStop {n : Fin 12} : Kept R s (execAxisStop n s) := .byReg fun h => .axStopWrite h

theorem homeGo {n : Fin 12} : Kept R s (execHomeGo n s) := .byReg fun h => .homeStart h

theorem holdCurrentTimer {n : Fin 12} : Kept R s (execHoldCurrentTimer n s) := .onClk fun h => .ite (.coilClamp (.set h)) h

theorem diRawEdge {n : Fin 32} {level : Bool} : Kept R s (execDiRawEdge n level s) := .main fun h => .diRaw h

theorem limitSwitchEdge {n : Fin 12} {pos : Bool} : Kept R s (execLimitSwitchEdge n pos s) :=
  .onClk fun h => .ite (.limTrip (.homeLimit h)) h

theorem homeSwitchEdge {n : Fin 12} : Kept R s (execHomeSwitchEdge n s) :=
  .onClk fun h => .ite (.ite (.homeConfirm (.setReg (.set (.axisUpd h)))) (.setReg (.set (.axisUpd h)))) h

theorem homeDebounceExpire {n : Fin 12} : Kept R s (execHomeDebounceExpire n s) :=
  .onClk fun h => .ite h (.ite (.ite (.homeConfirm h) (.count (.set h))) (.ite (.axisUpd h) h))

theorem stepEdge {n : Fin 12} {dir : Bool} : Kept R s (execStepEdge n dir s) :=
  .onClk fun h => .ite h (.ite (.axStop (.axisUpd (.raise (.set (.axisUpd h))))) (.axGo (.axisUpd h)))

theorem motionTick {n : Fin 12} {low : BitVec 2} : Kept R s (execMotionTick n low s) := by
  unfold execMotionTick
  refine .onClk fun h => ?_
  extract_lets d1 d2 d3 d4
  have h2 : d2.Holds R := .limTrip (.homeLimit (.axGo (.ite h (.axisUpd h))))
  have h3 : d3.Holds R := by
    unfold d3
    split; exacts [.restTick h2, .moveTick h2, .homeTick h2, .stopTick h2, h2]
  have h4 : d4.Holds R := .limTrip h3
  exact .ite h4 (.coilTick (.coilTick (.blindShow (.set (.bandTick (.axShow h4))))))

theorem vstpFault {v : BitVec 16} : Kept R s (execVstpFault v s) := by
  unfold execVstpFault
  exact .main fun h => .ite (.set h) (.each (.when (.when (.setB (.setB (.set h))) fun h => .set h) fun h => .set h) fun h =>
    .axHold (.when h fun h => .count h))

theorem vstpRecovered {v : BitVec 16} : Kept R s (execVstpRecovered v s) :=
  .main fun h => .ite (.set h) (.each (.set (.set (.set h))) fun h => .axUnhold h)

/-! #### Sys2Proof/Machine/Engine.lean -/

theorem opNop {n : Fin 64} : Kept R s (execOpNop n s) := .onClk fun h => .issue0 h fun h => h

theorem opMov {n : Fin 64} : Kept R s (execOpMov n s) := .onClk fun h => .alu h

theorem opAdd {n : Fin 64} : Kept R s (execOpAdd n s) := .onClk fun h => .alu h

theorem opSub {n : Fin 64} : Kept R s (execOpSub n s) := .onClk fun h => .alu h

theorem opNeg {n : Fin 64} : Kept R s (execOpNeg n s) := .onClk fun h => .alu h

theorem opAbs {n : Fin 64} : Kept R s (execOpAbs n s) := .onClk fun h => .alu h

theorem opMin {n : Fin 64} : Kept R s (execOpMin n s) := .onClk fun h => .alu h

theorem opMax {n : Fin 64} : Kept R s (execOpMax n s) := .onClk fun h => .alu h

theorem opClamp {n : Fin 64} : Kept R s (execOpClamp n s) := .onClk fun h => .alu h

theorem opSel {n : Fin 64} : Kept R s (execOpSel n s) := .onClk fun h => .alu h

theorem opWrap {n : Fin 64} : Kept R s (execOpWrap n s) := .onClk fun h => .alu h

theorem opMul {n : Fin 64} : Kept R s (execOpMul n s) := .onClk fun h => .issue1 h fun h => .later h

theorem opMac {n : Fin 64} : Kept R s (execOpMac n s) := .onClk fun h => .issueMac h fun h => .macPut h

theorem opMsu {n : Fin 64} : Kept R s (execOpMsu n s) := .onClk fun h => .issueMac h fun h => .macPut h

theorem opAccld {n : Fin 64} : Kept R s (execOpAccld n s) := .onClk fun h => .ite h (.issue0 h fun h => .slcUpd h)

theorem opAccrd {n : Fin 64} : Kept R s (execOpAccrd n s) := .onClk fun h => .ite h (.issue1 h fun h => .now1 h)

theorem opTab {n : Fin 64} : Kept R s (execOpTab n s) := .onClk fun h => .issue1 h fun h => .later h

theorem opDiv {n : Fin 64} : Kept R s (execOpDiv n s) := .onClk fun h => .issue1 h fun h => .later (.divCount h)

theorem opSqrt {n : Fin 64} : Kept R s (execOpSqrt n s) := .onClk fun h => .issue1 h fun h => .later (.rootCount h)

theorem opSincos {n : Fin 64} : Kept R s (execOpSincos n s) := .onClk fun h => .issueBy h fun h => .later h

theorem opAtan2 {n : Fin 64} : Kept R s (execOpAtan2 n s) := .onClk fun h => .issue1 h fun h => .later h

theorem opMag {n : Fin 64} : Kept R s (execOpMag n s) := .onClk fun h => .issue1 h fun h => .later h

theorem opBiq {n : Fin 64} : Kept R s (execOpBiq n s) :=
  .onClk fun h => .issueBy h fun h => by extract_lets; split; exact .later h

theorem opRamp {n : Fin 64} : Kept R s (execOpRamp n s) := .onClk fun h => .issue1 h fun h => .later h

theorem opPi {n : Fin 64} : Kept R s (execOpPi n s) :=
  .onClk fun h => .issueBy h fun h => by extract_lets; split; exact .later h

theorem opIn {n : Fin 64} : Kept R s (execOpIn n s) := .onClk fun h => .issue1 h fun h => .later (.drawn h)

theorem opOut {n : Fin 64} : Kept R s (execOpOut n s) := .onClk fun h => .issue0 h fun h => .slcUpd h

theorem opJge {n : Fin 64} : Kept R s (execOpJge n s) := .onClk fun h => .issue0 h fun h => .ite (.pcBy h) h

theorem opEnd {n : Fin 64} {cyc : BitVec 16} : Kept R s (execOpEnd n cyc s) := by
  unfold execOpEnd
  exact .onClk fun h => by split; exacts [h, (.ite h (.ite (.slcUpd (.slFlt (.count (.splEnd (.slReturn (.pcBy (.when (.set
    (.set h)) fun h => .set h))))))) (.closeIf (.slcUpd (.splEnd (.slReturn (.pcBy (.when (.set (.set h)) fun h => .set
    h))))))))]

theorem groupTrigger {g : Fin 8} : Kept R s (execGroupTrigger g s) := .onClk fun h => .ite h (.grpTrigger (.egrUpd h))

theorem blockAccept : Kept R s (execBlockAccept s) := .onClk fun h => .accept h

theorem epochDeadline {g : Fin 8} : Kept R s (execEpochDeadline g s) :=
  .onClk fun h => .ite h (.eachOf (.count (.egrUpd h)) fun h => .when h fun h => .set h)

theorem collectorSwap {g : Fin 8} : Kept R s (execCollectorSwap g s) := .onClk fun h => .ite (.swap h) h

theorem triggerTimeout {g : Fin 8} : Kept R s (execTriggerTimeout g s) :=
  .onClk fun h => .ite h (.posSwaps (.eachOf (.count h) fun h => .each h fun h => .ageWord h))

theorem sliceRun {o : Origin} {n : Fin 64} {run : Bool} : Kept R s (execSliceRun o n run s) := .byOrigin fun h => .slRun h

theorem sliceEccError {e : Fin 64 × Bool} : Kept R s (execSliceEccError e s) :=
  .onClk fun h => .ite (.count h) (.ite h (.jnlFault (.raise (.clkEval (.flightPut (.slcUpd (.set h)))))))

theorem tuneCommit {count : BitVec 4} {restart : Bool} : Kept R s (execTuneCommit count restart s) :=
  .byReg fun h => .tune (.setB (.set h))

/-! #### Sys2Proof/Machine/Assist.lean -/

theorem laRdw {c : Fin 4} {rd : BitVec 5} {v1 : BitVec 64} : Kept R s (execLaRdw c rd v1 s) := .onClk fun h => .laGo h

theorem laRdout {c : Fin 4} {rd : BitVec 5} {v1 : BitVec 64} : Kept R s (execLaRdout c rd v1 s) := .onClk fun h => .laGo h

theorem laRdage {c : Fin 4} {rd : BitVec 5} {v1 : BitVec 64} : Kept R s (execLaRdage c rd v1 s) := .onClk fun h => .laGo h

theorem laRdseq {c : Fin 4} {rd : BitVec 5} {v1 : BitVec 64} : Kept R s (execLaRdseq c rd v1 s) := .onClk fun h => .laGo h

theorem laRdsst {c : Fin 4} {rd : BitVec 5} {v1 : BitVec 64} : Kept R s (execLaRdsst c rd v1 s) := .onClk fun h => .laGo h

theorem laTstat {c : Fin 4} {rd : BitVec 5} : Kept R s (execLaTstat c rd s) := .onClk fun h => .laGo h

theorem laDiv {c : Fin 4} {rd : BitVec 5} {v1 v2 : BitVec 64} : Kept R s (execLaDiv c rd v1 v2 s) := .onClk fun h => .laGo h

theorem laSqrt {c : Fin 4} {rd : BitVec 5} {v1 : BitVec 64} : Kept R s (execLaSqrt c rd v1 s) := .onClk fun h => .laGo h

theorem laSin {c : Fin 4} {rd : BitVec 5} {v1 : BitVec 64} : Kept R s (execLaSin c rd v1 s) := .onClk fun h => .laGo h

theorem laCos {c : Fin 4} {rd : BitVec 5} {v1 : BitVec 64} : Kept R s (execLaCos c rd v1 s) := .onClk fun h => .laGo h

theorem laAtan2 {c : Fin 4} {rd : BitVec 5} {v1 v2 : BitVec 64} : Kept R s (execLaAtan2 c rd v1 v2 s) :=
  .onClk fun h => .laGo h

theorem laMag {c : Fin 4} {rd : BitVec 5} {v1 v2 : BitVec 64} : Kept R s (execLaMag c rd v1 v2 s) := .onClk fun h => .laGo h

theorem operationResult {n : Fin 64} {k : Fin 64} : Kept R s (execOperationResult n k s) :=
  .onClk fun h => .assistPump (.opResult h)

theorem assistResultReturn {c : Fin 4} {j : Fin 2} : Kept R s (execAssistResultReturn c j s) := by
  unfold execAssistResultReturn
  refine .onClk fun h => ?_
  split
  · exact h
  · extract_lets
    split
    · exact .laPump (.xPut (.portUpd h))
    · exact .ite (.laPump (.count (.xPut (.portUpd h)))) h

theorem laTset {c : Fin 4} {v1 v2 : BitVec 64} : Kept R s (execLaTset c v1 v2 s) := .onClk fun h => .laGo h

theorem laTcommit {c : Fin 4} {v1 : BitVec 64} : Kept R s (execLaTcommit c v1 s) := .onClk fun h => .laGo h

theorem laRun {c : Fin 4} {v1 : BitVec 64} : Kept R s (execLaRun c v1 s) := .onClk fun h => .laGo h

theorem commitBufferSend {c : Fin 4} : Kept R s (execCommitBufferSend c s) :=
  .onClk fun h => by split; exacts [h, .laPump (.laAct (.portUpd h))]

theorem squash {c : Fin 4} {what : Squash} : Kept R s (execSquash c what s) := by
  unfold execSquash
  refine .onClk fun h => .ite h ?_
  extract_lets
  split
  · split; exacts [h, .count (.xPut (.portUpd h))]
  · exact .ite (.laPump (.count (.squashReq h))) (.squashRet h)
  · exact .ite (.laPump (.count (.portUpd h))) h
  · split; exacts [h, .portUpd h, .count (.portUpd h)]

theorem illegalInstruction {c : Fin 4} {w : BitVec 32} : Kept R s (execIllegalInstruction c w s) :=
  .onClk fun h => .ite (.laExec h) h

theorem arm : Kept R s (execArm s) := .byReg fun h => .splArm h

theorem stop : Kept R s (execStop s) := .byReg fun h => .splStop h

theorem force : Kept R s (execForce s) := .byReg fun h => .splForce h

theorem spoolRecordWrite : Kept R s (execSpoolRecordWrite s) := .onClkMem fun k => .splServe k

theorem spoolMemoryWrite {a : BitVec 40} {w : Width} {v : BitVec 64} : Kept R s (execSpoolMemoryWrite a w v s) :=
  .byRegMem fun k => .ite (.splStore k) k

/-! #### Sys2Proof/Machine/Sys.lean -/

theorem busErrorAccess {o : Origin} {a : BitVec 40} {w : Width} {wr : Bool} : Kept R s (execBusErrorAccess o a w wr s) :=
  .onClk fun h => by split; exacts [(.when h fun h => .busErr h), h]

theorem vsupGood : Kept R s (execVsupGood s) := by
  unfold execVsupGood
  exact .next fun k => .ite (.dev (.volatileLost k) fun h => .powerOn h) k

theorem vsupDipStart : Kept R s (execVsupDipStart s) := .always fun h => .ite h (.beside h)

theorem vsupSagEnd : Kept R s (execVsupSagEnd s) := .always fun h => .ite h (.when (.beside h) fun h => .count h)

theorem supplyLossEvent {vholdMv : BitVec 16} : Kept R s (execSupplyLossEvent vholdMv s) :=
  .always fun h => .ite h (.ite (.beside (.beside h)) (.lossSequence (.beside h)))

theorem vsupReturn : Kept R s (execVsupReturn s) := .always fun h => .ite (.beside h) h

theorem vsupRecovery : Kept R s (execVsupRecovery s) := by
  unfold execVsupRecovery
  exact .next fun k => .ite (.ite (.dev (.volatileLost k) fun h => .powerOn h)
    (.dev (.volatileLost k) fun h => .set (.mainReset h))) k

theorem vholdBelowMinimum : Kept R s (execVholdBelowMinimum s) := .always fun h => .ite (.flushStop (.beside h)) h

theorem vholdExhausted : Kept R s (execVholdExhausted s) := by
  unfold execVholdExhausted
  exact .next fun k => .ite (.dev (.volatileLost k) fun h => .beside (.powerOn h)) k

theorem vholdGood : Kept R s (execVholdGood s) := .main fun h => .set h

theorem vholdLow : Kept R s (execVholdLow s) := .main fun h => .thmEvalAll (.set h)

theorem sleepReq : Kept R s (execSleepReq s) := .byReg fun h => .sleepReq h

theorem sleepPrepComplete : Kept R s (execSleepPrepComplete s) := by
  unfold execSleepPrepComplete
  exact .next fun k => .ite k (.ite (.dev k fun h => .wake (.ite (.setBits (.ite (.setBits h) h)) (.ite (.setBits h) h)))
    (.ite k (.dev (.volatileLost k) fun h => .beside (.mainReset h))))

theorem canWakePattern {n : Fin 4} : Kept R s (execCanWakePattern n s) :=
  .always fun h => .ite (.wake h) (.ite (.ite (.wake h) h) (.ite (.raise h) h))

theorem wakePinAccepted {level : Bool} : Kept R s (execWakePinAccepted level s) :=
  .always fun h => .ite h (.ite (.wake (.beside h)) (.beside h))

theorem sleepTimerExpiry : Kept R s (execSleepTimerExpiry s) := .always fun h => .ite (.wake h) h

theorem pllRequest {p : Fin 3} {fw : Bool} : Kept R s (execPllRequest p fw s) :=
  .main fun h => .when h fun h => .pllEval (.pllMark h)

theorem pllLockTimeout {p : Fin 3} : Kept R s (execPllLockTimeout p s) := .main fun h => .ite (.pllFault (.beside h)) h

theorem pllLastRequestReleased {p : Fin 3} {fw : Bool} : Kept R s (execPllLastRequestReleased p fw s) :=
  .main fun h => .when h fun h => .pllRelease (.pllMark h)

theorem pllHoldoffExpire {p : Fin 3} {req : Bool} : Kept R s (execPllHoldoffExpire p req s) := by
  unfold execPllHoldoffExpire
  exact .main fun h => .ite (.ite (.set (.when h fun h => .pllMark h)) (.showFrozen (.set (.when h fun h => .pllMark h)))) h

theorem pllLockLost {p : Fin 3} : Kept R s (execPllLockLost p s) := .main fun h => .ite (.pllFault h) h

theorem referenceFailure : Kept R s (execReferenceFailure s) := .main fun h => .clockSafe (.raise (.set h))

theorem appRst {o : Origin} {key : BitVec 16} {rst : Bool} : Kept R s (execAppRst o key rst s) :=
  .byOriginMem fun k => .rstctl k

theorem watchdogExpiry : Kept R s (execWatchdogExpiry s) := .mainMem fun k => .ite k (.appReset k)

theorem thimbleReset : Kept R s (execThimbleReset s) := by
  unfold execThimbleReset
  exact .mainMem fun k => .ite k (.ite (.ite (.keepReset k) (.dev (.appReset k) fun h => .beside h)) (.ite (by split; exacts
    [(.ite (.keepReset k) (.appReset (.dev k fun h => .beside h))), (.appReset (.dev k fun h => .beside h))]) k))

theorem debugReset : Kept R s (execDebugReset s) :=
  .mainMem fun k => .ite (.ite k (.dev (.appReset k) fun h => .count h)) (.dev k fun h => .count h)

/-! #### Sys2Proof/Machine/Hem.lean -/

theorem checkpoint {p : Fin 2} : Kept R s (execCheckpoint p s) := .onClk fun h => .ite (.checkpoint h) h

theorem forced {p : Fin 2} : Kept R s (execForced p s) := .onClk fun h => .ite (.raiseLim (.count (.checkpoint h))) h

theorem privateStore {p : Fin 2} {a : BitVec 40} {w : Width} {v : BitVec 64} : Kept R s (execPrivateStore p a w v s) :=
  .onClkMem fun k => .ite (.pairStore k) k

theorem mismatchDetected {p : Fin 2} : Kept R s (execMismatchDetected p s) := by
  unfold execMismatchDetected
  exact .onClk fun h => .ite h (.ite (.retire (.pairUpd (.handRefuse (.handRefuse (.raise (.count (.setReg h))))))) (.ite
    (.pairUpd (.handRefuse (.handRefuse (.raise (.count (.setReg h)))))) (.portDrop (.set (.pairUpd (.handRefuse (.handRefuse
    (.raise (.count (.setReg h))))))))))

theorem darnRestartComplete {p : Fin 2} {ok : Bool} {us : BitVec 12} : Kept R s (execDarnRestartComplete p ok us s) := by
  unfold execDarnRestartComplete
  exact .onClkMem fun k => .ite k (.ite (.dev k fun h => .released h) (.dev k fun h => .retire h))

theorem watchdogService {o : Origin} {key : BitVec 16} : Kept R s (execWatchdogService o key s) :=
  .byOrigin fun h => .dogWrite h

theorem split {o : Origin} : Kept R s (execSplit o s) := .byOrigin fun h => .splitWrite h

theorem splitComplete {p : Fin 2} : Kept R s (execSplitComplete p s) :=
  .onClk fun h => .ite (.raise (.set (.portUpd (.pairUpd h)))) h

theorem ownerReq {o : Origin} : Kept R s (execOwnerReq o s) := .byOrigin fun h => .ownerReq h

theorem safeAck {o : Origin} : Kept R s (execSafeAck o s) := .byOrigin fun h => .safeAck h

theorem handoverTimeout : Kept R s (execHandoverTimeout s) := .main fun h => .handRefuse h

theorem rejoin {c : Fin 4} : Kept R s (execRejoin c s) := .byOrigin fun h => .rejoin h

theorem rejoinTimeout {p : Fin 2} : Kept R s (execRejoinTimeout p s) := .onClk fun h => .ite (.pairRefuse (.pairUpd h)) h

theorem rejoinComplete {p : Fin 2} : Kept R s (execRejoinComplete p s) :=
  .onClk fun h => .ite h (.roleFromRetired (.raise (.checkpoint (.set (.pairUpd (.portUpd (.portDrop h)))))))

theorem splitCoreParity {c : Fin 4} : Kept R s (execSplitCoreParity c s) :=
  .onClk fun h => .ite h (.count (.pairUpd (.portUpd (.portDrop h))))

theorem splitCoreSelfTestDone {c : Fin 4} : Kept R s (execSplitCoreSelfTestDone c s) := .onClk fun h => .pairUpd h

theorem deratingUpdate : Kept R s (execDeratingUpdate s) := .main fun h => .each (.tempKeep h) fun h => .derate h

theorem hemSpeedTrip {g : Fin 2} : Kept R s (execHemSpeedTrip g s) := .main fun h => .ite (.hemSafe (.count h)) h

theorem hemUdcTrip {g : Fin 2} : Kept R s (execHemUdcTrip g s) := .main fun h => .ite (.hemSafe (.count h)) h

theorem hold : Kept R s (execHold s) := .main fun h => .holdEval h

/-! #### Sys2Proof/Machine/AuxAdc.lean -/

theorem auxScanStart {m : Fin 2} : Kept R s (execAuxScanStart m s) :=
  .main fun h => .ite h (by split; exacts [.auxUpd h, .count (.auxUpd h)])

theorem auxEntryDone {m : Fin 2} {x : List (BitVec 32)} : Kept R s (execAuxEntryDone m x s) :=
  .main fun h => by split; exacts [h, .auxNext (.auxPublish h)]

/-! #### Sys2Proof/Machine/Thimble.lean -/

theorem thimbleCoreFault : Kept R s (execThimbleCoreFault s) := by
  unfold execThimbleCoreFault
  exact .main fun h => .ite h (.eachOf (.brakeApply (.each (.windStop (.set h)) fun h => .cutPaths h)) fun h => .ite
    (.applySafe (.cluSafe h)) (.thmToSto h))

theorem thimbleRestartDone : Kept R s (execThimbleRestartDone s) := by
  unfold execThimbleRestartDone
  exact .mainMem fun k => .ite k (.ite (.keepReset (.dev (.endDev (.endSafety k)) fun h => .beside (.set (.hemHold (.thmShow
    (.thmChecks (.thmLatch (.thmForget (.count h))))))))) (.dev (.endDev (.endSafety k)) fun h => .thmStart (.hemHold
    (.thmShow (.thmChecks (.thmLatch (.thmForget (.count h))))))))

theorem pathTest {n : Fin 14} {p1 p2 : Bool} : Kept R s (execPathTest n p1 p2 s) :=
  .thimble fun h => .ite h (.thmEvalAll (.thmLatch (.ite (.tgrpUpd h) h)))

theorem speedCheck : Kept R s (execSpeedCheck s) := .thimble fun h => .eachOf h fun h => .speedRead h

theorem selReleaseTimer {g : Fin 2} : Kept R s (execSelReleaseTimer g s) := .thimble fun h => .ite (.selPut h) h

theorem ss1Check {g : Fin 2} {ms : BitVec 16} : Kept R s (execSs1Check g ms s) := by
  unfold execSs1Check
  exact .thimble fun h => .ite h (.ite (.eachOf h fun h => .set h) (.ite (.ss1Violate (.eachOf h fun h => .set h)) (.ite
    (.ss1Complete (.eachOf h fun h => .set h)) (.eachOf h fun h => .set h))))

theorem ss1Deadline {g : Fin 2} : Kept R s (execSs1Deadline g s) := .thimble fun h => .ite (.ss1Demand h) h

theorem sbcEngageTimer {g : Fin 2} : Kept R s (execSbcEngageTimer g s) := .thimble fun h => .ite (.ss1Demand h) h

theorem stoAscTimeout {g : Fin 2} : Kept R s (execStoAscTimeout g s) := .thimble fun h => .ite (.thmToSto h) h

theorem safeToSto {g : Fin 2} : Kept R s (execSafeToSto g s) := .thimble fun h => .ite (.thmToSto h) h

theorem safetyInputChange {k : Fin 4} {a b : Bool} : Kept R s (execSafetyInputChange k a b s) :=
  .main fun h => by extract_lets; split; exact .when (.beside (.set h)) fun h => .thmEvalAll (.siStep h)

theorem siDisc {k : Fin 4} : Kept R s (execSiDisc k s) :=
  .thimble fun h => .ite (.thmEvalAll (.thmLatch (.siCause (.siPut (.beside h))))) h

theorem sbcTestPulse {ok : Bool} : Kept R s (execSbcTestPulse ok s) :=
  .thimble fun h => .ite h (.ite (.count h) (.sbcFault (.count h)))

theorem sbcApplyCheck {ma : BitVec 16} : Kept R s (execSbcApplyCheck ma s) :=
  .thimble fun h => .ite h (.ite (.clrBits (.set h)) (.sbcFault (.setBits (.set h))))

theorem sbcCurrentLow {ma : BitVec 16} : Kept R s (execSbcCurrentLow ma s) :=
  .thimble fun h => .ite h (.ite (.sbcFault (.set h)) (.set h))

theorem tmWindowEnd {l : List (BitVec 12 × BitVec 12)} {iq0 iq1 : BitVec 64} : Kept R s (execTmWindowEnd l iq0 iq1 s) := by
  unfold execTmWindowEnd
  exact .thimble fun h => .ite (.dcShow h) (.ite (.count (.ite (.setB (.setI (.setI (.dcShow h)))) (.raiseLim (.setB (.setI
    (.setI (.dcShow h))))))) (.tmJudge (.ite (.setB (.setI (.setI (.dcShow h)))) (.raiseLim (.setB (.setI (.setI (.dcShow
    h))))))))

theorem udcDiv {v : BitVec 16} {bad : Bool} : Kept R s (execUdcDiv v bad s) := by
  unfold execUdcDiv
  exact .thimble fun h => .ite (.thmEvalAll (.eachOf (.thmLatch (.setBits (.set (.tudcShow h)))) fun h => .groupSafe h))
    (.clrBits (.set (.tudcShow h)))

theorem disSlow {v : BitVec 16} : Kept R s (execDisSlow v s) :=
  .thimble fun h => .ite (.tudcShow h) (.thmEvalAll (.thmLatch (.disEnd (.tudcShow h))))

theorem windingDischargeStop {v : BitVec 16} : Kept R s (execWindingDischargeStop v s) :=
  .thimble fun h => by split; exacts [h, .ite (.windStop (.tudcShow h)) (.tudcShow h)]

theorem lockoutExpiry : Kept R s (execLockoutExpiry s) := .thimble fun h => .ite (.set (.lockPut h)) h

theorem lockoutSave : Kept R s (execLockoutSave s) := .thimble fun h => .ite (.lockPut h) h

theorem unlockTimeout : Kept R s (execUnlockTimeout s) := .mainMem fun k => .ite (.endSafety k) k

theorem unknownRequest {o : Origin} (hs : s.Safe R o) {code : BitVec 8} {tag : BitVec 16} :
    Kept R s (execUnknownRequest o code tag s) :=
  .byOriginHere fun k => .ite k (.thmreqWrite k hs)

/-! #### Sys2Proof/Machine/Sfl.lean -/

theorem txPop : Kept R s (execTxPop s) := .byReg fun h => .sflPop h

theorem connectionEnable {o : Origin} {k : Fin 256} {en : Bool} : Kept R s (execConnectionEnable o k en s) :=
  .byOrigin fun h => .ite h (.ite (.sflEnable (.rwsStored h)) (.rwsRefuse h))

theorem connectionCycle {k : Fin 256} : Kept R s (execConnectionCycle k s) :=
  .onClk fun h => .ite h (by split; exacts [.sflSend (.set h), (.when h fun h => .sflData h), h])

theorem connectionWatchdog {k : Fin 256} : Kept R s (execConnectionWatchdog k s) :=
  .main fun h => .ite (.sflThm (.count (.sflDown h))) h

theorem appsend {k : Fin 256} {len : BitVec 8} : Kept R s (execAppsend k len s) := .byRegMem fun k => .appSend k

theorem submit {len : BitVec 16} : Kept R s (execSubmit len s) := .byRegMem fun k => .sflSubmit k

/-! #### Sys2Proof/Machine/Events.lean -/

theorem evrAck {t : Fin 6} {k : BitVec 10} : Kept R s (execEvrAck t k s) := .byReg fun h => .ite (.evrClear h) h

theorem evrPendClear {t : Fin 6} {j : Fin 12} {mask : BitVec 64} : Kept R s (execEvrPendClear t j mask s) :=
  .byReg fun h => .evrClearMask h

theorem journalEntryWrite : Kept R s (execJournalEntryWrite s) := .mainMem fun k => .jnlWrite k

theorem jnlFwcmd {o : Origin} {k : BitVec 8} : Kept R s (execJnlFwcmd o k s) := .byOrigin fun h => .fwEntry h

theorem dtmHoldover : Kept R s (execDtmHoldover s) := .main fun h => .ite (.raise (.count (.set h))) h

/-! #### Sys2Proof/Machine/Domain.lean -/

theorem domainEn {en : Bool} : Kept R s (execDomainEn en s) := .byRegMem fun k => .canWant (.dev k fun h => .domEnable h)

theorem formDelayReached : Kept R s (execFormDelayReached s) := .domain fun h => .ite (.domSend (.domContend h)) h

theorem domainOpen : Kept R s (execDomainOpen s) := .domHeard fun h => .when (.domContend h) fun h => .domClaim0 h

theorem domainClaim {r : Fin 4} {arg : BitVec 16} : Kept R s (execDomainClaim r arg s) :=
  .domHeard fun h => .ite (.domContend h) (.ite (.beside (.domDropClaims h)) h)

theorem domainRegister {arg : BitVec 16} {uid : BitVec 64} : Kept R s (execDomainRegister arg uid s) :=
  .domHeard fun h => .domRegister h

theorem domainTrunk {trunk : Bool} {uid : BitVec 64} : Kept R s (execDomainTrunk trunk uid s) :=
  .domHeard fun h => .domTrunk h

theorem domainLeader {uid : BitVec 64} : Kept R s (execDomainLeader uid s) :=
  .domHeard fun h => .ite h (.domLeader (.domHeardRef h))

theorem domoff {off : BitVec 64} : Kept R s (execDomoff off s) := .domHeard fun h => .when h fun h => .dtmMeasure h

theorem segnum {num : BitVec 16} {gm : BitVec 64} : Kept R s (execSegnum num gm s) := .domHeard fun h => .domSegnum h

theorem claimSilence : Kept R s (execClaimSilence s) := .domain fun h => .when h fun h => .domClaim0 h

theorem segmentClose : Kept R s (execSegmentClose s) := .domain fun h => .domClose h

theorem segReg {r : SegReg} : Kept R s (execSegReg r s) := .domain fun h => .domRegSeg h

theorem directoryClose : Kept R s (execDirectoryClose s) := .domain fun h => .domDirClose h

theorem dirAck {leader : BitVec 64} {num : BitVec 9} {ver : BitVec 4} : Kept R s (execDirAck leader num ver s) :=
  .domain fun h => .domDirAck h

theorem dirDone : Kept R s (execDirDone s) := .domain fun h => .domDirDone h

theorem dirQuery {uid : BitVec 64} : Kept R s (execDirQuery uid s) := .domain fun h => .ite h (.domSay h)

theorem gatewayServoLocked : Kept R s (execGatewayServoLocked s) := .domain fun h => .ite (.domReport (.domPut h)) h

theorem connectComplete : Kept R s (execConnectComplete s) := .domain fun h => .ite (.domPut (.set h)) h

theorem leaderRefMissing : Kept R s (execLeaderRefMissing s) :=
  .domain fun h => .ite h (.ite (.domTakeLead (.domGateway (.domMembers h))) (.domGateway (.domMembers h)))

theorem gmChange : Kept R s (execGmChange s) := .domain fun h => .when (.beside h) fun h => .domReport h

/-! #### Sys2Proof/Machine/Can.lean -/

theorem canRunSet {n : Fin 4} : Kept R s (execCanRunSet n s) := .byReg fun h => .canRunSet h

theorem canRunClear {n : Fin 4} : Kept R s (execCanRunClear n s) := .byReg fun h => .canRunClear h

theorem busIdleDetected {n : Fin 4} : Kept R s (execBusIdleDetected n s) := by
  unfold execBusIdleDetected
  exact .onClkMem fun k => .ite (.canArb (.dev k fun h => .set h)) (.ite (.canArb (.dev k fun h => .canUpd h)) (.dev k fun h
    => .canUpd h))

theorem recover {n : Fin 4} : Kept R s (execRecover n s) := .byReg fun h => .canRecover h

theorem busOn {n : Fin 4} : Kept R s (execBusOn n s) :=
  .onClkMem fun k => .ite (.canArb (.dev k fun h => .raise (.canCount (.set h)))) k

theorem txreq {n : Fin 4} {mask : BitVec 3} : Kept R s (execTxreq n mask s) := .byRegMem fun k => .canTxreq k

theorem txabort {n : Fin 4} {mask : BitVec 3} : Kept R s (execTxabort n mask s) := .byRegMem fun k => .canTxabort k

theorem canTxComplete {n : Fin 4} {e : TxEnd} : Kept R s (execCanTxComplete n e s) := by
  unfold execCanTxComplete
  refine .onClkMem fun k => ?_
  split
  · exact k
  · extract_lets _ t1
    have k1 : t1.Holds R := .dev k fun h => .canUpd h
    refine .canArb (.dev (.ite (.canLostAt k1) ?_) fun h => .canStopped h)
    split; exacts [.ite (.canLostAt k1) (.canSent k1), .canLostAt k1, .canLostAt k1]

theorem refPeriod {n : Fin 4} : Kept R s (execRefPeriod n s) := by
  unfold execRefPeriod
  exact .onClkMem fun k => .ite (.canWant (.dev k fun h => .canQueue (.refPeriodBegin h))) (.dev k fun h => .refPeriodBegin h)

theorem canFrameReceived {n : Fin 4} {f : CanFrame} {age : BitVec 32} : Kept R s (execCanFrameReceived n f age s) := by
  unfold execCanFrameReceived
  exact .onClkMem fun k => .ite k (.ite (.dev k fun h => .canException h) (.canArb (.dev (.canFilter (.dev k fun h =>
    .canRxGood h)) fun h => .canStopped (.when (.when (.refSeen h) fun h => .refHeard h) fun h => .followHeard h))))

theorem refFollowTimeout {n : Fin 4} : Kept R s (execRefFollowTimeout n s) :=
  .onClk fun h => .when h fun h => .count (.canUpd h)

theorem canProtocolException {n : Fin 4} : Kept R s (execCanProtocolException n s) := .onClk fun h => .canException h

theorem canBusError {n : Fin 4} {e : CanErr} {lec : BitVec 3} : Kept R s (execCanBusError n e lec s) := by
  unfold execCanBusError
  refine .onClk fun h => .ite h ?_
  extract_lets
  split
  exacts [.canCount (.set h), .canCount (.set h), .canCount (.set h), .set h, .canCount (.canUpd (.set h))]

theorem fifoPop {n : Fin 4} : Kept R s (execFifoPop n s) := .byReg fun h => .canPop h

theorem hpSlotFree {n : Fin 4} {mask : BitVec 4} : Kept R s (execHpSlotFree n mask s) := .byReg fun h => .clrBits h

theorem dominantTimeout {n : Fin 4} : Kept R s (execDominantTimeout n s) :=
  .onClk fun h => .when h fun h => .raiseLim (.count (.canUpd h))

/-! #### Sys2Proof/Machine/Eth.lean -/

theorem ethLinkChange {p : Fin 2} {up : Bool} {sqi : BitVec 3} : Kept R s (execEthLinkChange p up sqi s) :=
  .domain fun h => .ethLink h

theorem announceReceived {p : Fin 2} {a : Announce} : Kept R s (execAnnounceReceived p a s) :=
  .main fun h => .ite h (.asSelect (.beside h))

theorem announceTransmit {p : Fin 2} : Kept R s (execAnnounceTransmit p s) :=
  .main fun h => by extract_lets; split; exacts [.ite (.beside (.asSelect h)) (.asSelect h), .asSelect h]

theorem syncTransmit {p : Fin 2} : Kept R s (execSyncTransmit p s) := .main fun h => .ite (.syncSend h) h

theorem syncReceived {p : Fin 2} {t : BitVec 64} {age : BitVec 32} : Kept R s (execSyncReceived p t age s) :=
  .main fun h => .ite h (.when (.when h fun h => .syncSend h) fun h => .dtmMeasure h)

theorem pdelayExchange {p : Fin 2} {delay : Option (BitVec 32)} : Kept R s (execPdelayExchange p delay s) := by
  unfold execPdelayExchange
  exact .main fun h => .ite h (by split; exacts [.asSelect (.set (.set h)), .asSelect (.raise (.count (.asForget h)))])

theorem syncLost {p : Fin 2} : Kept R s (execSyncLost p s) := .main fun h => .ite (.raise (.count h)) h

theorem switchFrameReceived {p : Fin 2} {l : List (BitVec 8)} {ok : Bool} {age : BitVec 32} :
    Kept R s (execSwitchFrameReceived p l ok age s) := by
  unfold execSwitchFrameReceived
  exact .mainMem fun k => .hostDrain (.dev k fun h => .switched h)

theorem txkick : Kept R s (execTxkick s) := .byRegMem fun k => .txKick k

theorem hostFrameSent {ok : Bool} {age : BitVec 32} : Kept R s (execHostFrameSent ok age s) := by
  unfold execHostFrameSent
  exact .onClkMem fun k => .ite k (.txKick (.dev k
    fun h => .raise (.set (.ite (.eachOf (.macLearn h) fun h => .ethQueue h) h))))

theorem macEntryAgeing {mac : BitVec 48} : Kept R s (execMacEntryAgeing mac s) := .main fun h => .beside h

/-! #### Sys2Proof/Machine/Spim.lean -/

theorem m0Go : Kept R s (execM0Go s) := .byReg fun h => .m0Go h

theorem m0Done {e : M0End} : Kept R s (execM0Done e s) := by
  unfold execM0Done
  refine .onClkMem fun k => .ite k ?_
  cases e with
  | timeout => exact .dev k fun h => .raise (.count (.set (.clkEval (.set h))))
  | done rd chg =>
    exact .ite k (.ite (.dev k fun h => .raise (.set (.clkEval (.set h)))) (.dev k fun h =>
      .raise (.count (.set (.ite (.clkEval (.set h)) (.m0Upd (.clkEval (.set h))))))))

theorem flashWindowRead {free : Bool} : Kept R s (execFlashWindowRead free s) := .onClk fun h => .when h fun h => .count h

theorem m1TxQueue {v : BitVec 64} : Kept R s (execM1TxQueue v s) := .byReg fun h => .m1Tx h

theorem m1EntryDone {w : BitVec 32} {l : List (BitVec 8)} : Kept R s (execM1EntryDone w l s) := by
  unfold execM1EntryDone
  refine .onClkMem fun k => ?_
  split
  · exact k
  · exact .dev k fun h => .clkEval (.m1Show (.ite
      (.raise (.ite (.beside h) (.m1Received (.beside h)))) (.m1Start (.ite (.beside h) (.m1Received (.beside h))))))

theorem m1RxPop : Kept R s (execM1RxPop s) := .byReg fun h => .m1Pop h

/-! #### Sys2Proof/Machine/Boot.lean -/

theorem pllLock {p : Fin 3} : Kept R s (execPllLock p s) :=
  .main fun h => .ite (.pllRelease (.laResume (.refAtStart (.showFrozen (.set h))))) h

theorem thimbleBootDone (hR : R.OfKeys) {ok safe1 safe2 cal1 cal2 torn : Bool} :
    Kept R s (execThimbleBootDone ok safe1 safe2 cal1 cal2 torn s) := by
  unfold execThimbleBootDone
  exact .main fun h => .ite h (.ite (.beside h) (.bootRelease (.jnlBoot (.hemHold (.thmStart (.thmShow (.trimLoad (.thmChecks
    (.install h hR)))))))))

theorem headerCheckDone {ok : Bool} {map prot : BitVec 64} : Kept R s (execHeaderCheckDone ok map prot s) := by
  unfold execHeaderCheckDone
  exact .bootStage fun k => .ite (.dev k fun h => .slotRefused (.ite (.setReg (.setReg h)) (.set (.beside (.setReg (.setReg
    h)))))) (.dev k fun h => .beside (.ite (.setReg (.setReg h)) (.set (.beside (.setReg (.setReg h))))))

theorem imageStreamDone {ok : Bool} {c : ImgContent} : Kept R s (execImageStreamDone ok c s) :=
  .bootStage fun k => .ite (.dev k fun h => .slotRefused h) (.dev k fun h => .beside h)

theorem signatureCheckDone : Kept R s (execSignatureCheckDone s) :=
  .bootStage fun k => .ite (.dev k fun h => .slotRefused h) (.dev k fun h => .beside (.setCause h))

theorem activation : Kept R s (execActivation s) := by
  unfold execActivation
  exact .bootStage fun k => .ite k (.dev k fun h => .activate h)

theorem readySet : Kept R s (execReadySet s) := by
  unfold execReadySet
  exact .bootStage fun k => .dev k fun h => .clkEval (.domReady (.thmEvalAll (.hemHold (.beside (.when (.set (.set (.set
    (.beside h)))) fun h => .raise h)))))

theorem verify : Kept R s (execVerify s) := .byReg fun h => .verify h

theorem verifyDone {ok : Bool} {c : ImgContent} : Kept R s (execVerifyDone ok c s) :=
  .onClk fun h => .ite h (.set (.setCause h))

/-! #### Sys2Proof/Machine/Crc.lean -/

theorem crcInit {u : Fin 8} : Kept R s (execCrcInit u s) := .byReg fun h => .crcInit h

theorem crcGo {u : Fin 8} : Kept R s (execCrcGo u s) := .byReg fun h => .crcGo h

theorem crcData {u : Fin 8} {half : Bool} {v : BitVec 64} : Kept R s (execCrcData u half v s) := .byReg fun h => .crcData h

/-! #### Sys2Proof/Machine/Flow.lean -/

theorem flowMeasurementStart : Kept R s (execFlowMeasurementStart s) := .onClk fun h => .when h fun h => .set h

theorem flowPairEvaluated {peak : Bool} {ad au qd qu : BitVec 16} {td tu dt : BitVec 32} : Kept R s (execFlowPairEvaluated
  peak ad au qd qu td tu dt s) := by
  unfold execFlowPairEvaluated
  exact .onClk fun h => .ite h (.ite (.raiseLim (.count (.set (.set (.set (.set (.set h))))))) (.flowValid (.set (.set (.set
    (.set h))))))

theorem flowStale : Kept R s (execFlowStale s) := .main fun h => .ite h (.raise (.set h))

/-! #### Sys2Proof/Machine/Lua.lean -/

theorem luTxByte {n : Fin 4} {b : BitVec 8} : Kept R s (execLuTxByte n b s) := .byReg fun h => .luTx h

theorem luByteSent {n : Fin 4} : Kept R s (execLuByteSent n s) :=
  .onClk fun h => by split; exacts [h, (.ite h (.when (.luShow (.luUpd h)) fun h => .raise h))]

theorem luRxPop {n : Fin 4} : Kept R s (execLuRxPop n s) := .byReg fun h => .luPop h

theorem uartByteReceived {n : Fin 4} {b : BitVec 8 × BitVec 8 × BitVec 8} {par : Bool × Bool × Bool}
    {stop : Bool × List Bool} : Kept R s (execUartByteReceived n b par stop s) := by
  unfold execUartByteReceived
  exact .onClk fun h => .ite h (.when (.ite (.count (.when (.when (.when h fun h => .count h) fun h => .count h) fun h =>
    .count h)) (.raise (.luShow (.luUpd (.when (.when (.when h fun h => .count h) fun h => .count h) fun h => .count h)))))
    fun h => .luError h)

theorem linGo {n : Fin 4} : Kept R s (execLinGo n s) := .byReg fun h => .linGo h

theorem linFrameEnd {n : Fin 4} {e : LinEnd} : Kept R s (execLinFrameEnd n e s) :=
  .onClk fun h => by split; exacts [h, (by split; exacts [.linDone h, .linEnd h])]

theorem linResponseTimeout {n : Fin 4} : Kept R s (execLinResponseTimeout n s) := .onClk fun h => .when h fun h => .linEnd h

theorem linBreak {n : Fin 4} {span : BitVec 32} : Kept R s (execLinBreak n span s) :=
  .onClk fun h => .ite h (.ite (.linEnd (.count h)) (.set (.luUpd (.count h))))

theorem linHeader {n : Fin 4} {pid : BitVec 8} : Kept R s (execLinHeader n pid s) := by
  unfold execLinHeader
  exact .onClk fun h => .ite h (.ite (.linEnd (.luUpd h)) (by split; exacts [.raise (.count (.luUpd h)), .set (.set (.luUpd
    (.luUpd h)))]))

/-! #### Sys2Proof/Machine/Nfc.lean -/

theorem tagInventory {len : BitVec 7} {mask : BitVec 64} : Kept R s (execTagInventory len mask s) :=
  .inField fun k => .ite (.dev k fun h => .tagAnswer h) k

theorem tagStayQuiet {uid : BitVec 64} : Kept R s (execTagStayQuiet uid s) :=
  .inField fun k => .ite (.dev k fun h => .tagProto h) k

theorem tagSelect {uid : BitVec 64} : Kept R s (execTagSelect uid s) :=
  .inField fun k => .ite (.dev k fun h => .tagAnswer (.tagProto h)) (.ite (.dev k fun h => .tagProto h) k)

theorem tagResetToReady {adr : TagTo} : Kept R s (execTagResetToReady adr s) :=
  .tagCmd fun k => .dev k fun h => .tagAnswer (.tagProto h)

theorem tagReadSingleBlock {adr : TagTo} {b : BitVec 8} : Kept R s (execTagReadSingleBlock adr b s) :=
  .tagCmd fun k => .tagRead k

theorem tagWriteSingleBlock {adr : TagTo} {b : BitVec 8} {v : BitVec 32} : Kept R s (execTagWriteSingleBlock adr b v s) :=
  .tagCmd fun k => .tagWriteBlock k

theorem tagReadMultipleBlocks {adr : TagTo} {b n : BitVec 8} : Kept R s (execTagReadMultipleBlocks adr b n s) :=
  .tagCmd fun k => .tagRead k

theorem tagExtendedReadSingleBlock {adr : TagTo} {b : BitVec 16} : Kept R s (execTagExtendedReadSingleBlock adr b s) :=
  .tagCmd fun k => .tagRead k

theorem tagExtendedWriteSingleBlock {adr : TagTo} {b : BitVec 16} {v : BitVec 32} : Kept R s (execTagExtendedWriteSingleBlock
  adr b v s) := by
  unfold execTagExtendedWriteSingleBlock
  exact .tagCmd fun k => .ite (.dev k fun h => .tagError h) (.tagWriteBlock k)

theorem tagExtendedReadMultipleBlocks {adr : TagTo} {b n : BitVec 16} : Kept R s (execTagExtendedReadMultipleBlocks adr b n
  s) := by
  unfold execTagExtendedReadMultipleBlocks
  exact .tagCmd fun k => .tagRead k

theorem tagGetSystemInformation {adr : TagTo} : Kept R s (execTagGetSystemInformation adr s) :=
  .tagCmd fun k => .dev k fun h => .tagAnswer h

theorem tagExtendedGetSystemInformation {adr : TagTo} : Kept R s (execTagExtendedGetSystemInformation adr s) :=
  .tagCmd fun k => .dev k fun h => .tagAnswer h

theorem unsupportedTagCommand {adr : TagTo} : Kept R s (execUnsupportedTagCommand adr s) :=
  .tagCmd fun k => .dev k fun h => .tagError h

theorem nfcFieldDetected : Kept R s (execNfcFieldDetected s) := by
  unfold execNfcFieldDetected
  exact .always fun h => .ite h (.ite (.tagShow (.beside h)) (.ite (.wake (.when (.tagShow (.beside h)) fun h => .raise h))
    (.when (.tagShow (.beside h)) fun h => .raise h)))

theorem nfcFieldGone : Kept R s (execNfcFieldGone s) :=
  .always fun h => .ite (.when (.tagShow (.beside h)) fun h => .raise h) h

theorem nfcCommit {page : BitVec 6} : Kept R s (execNfcCommit page s) :=
  .byRegMem fun k => .nfcCommit (.dev k fun h => .set h)

theorem nfcRead {page : BitVec 6} : Kept R s (execNfcRead page s) := .byRegMem fun k => .nfcRead (.dev k fun h => .set h)

theorem nfcCommitDone {e : TagEnd} : Kept R s (execNfcCommitDone e s) := by
  unfold execNfcCommitDone
  refine .onClkMem fun k => ?_
  split
  · exact .ite (.dev k fun h => .raise (.count (.set (.nfcFree h)))) k
  · exact .ite k (.dev k fun h => .beside h)
  · refine .ite k ?_
    split
    · exact .dev k fun h => .when (.raise (.count (.set (.nfcFree h)))) fun h => .tagDirty h
    · exact .nfcTake (.dev k fun h => .nfcFree h)
    · exact k

theorem faultPageMirror : Kept R s (execFaultPageMirror s) := by
  unfold execFaultPageMirror
  exact .onClkMem fun k => .ite k (.dev k fun h => .clkEval (.add (.beside h)))

/-! #### Sys2Proof/Machine/Bus.lean -/

theorem registerWrite {o : Origin} (hs : s.Safe R o) {a : BitVec 40} {w : Width} {v : BitVec 64} :
    Kept R s (execRegisterWrite o a w v s) := by
  unfold execRegisterWrite
  exact .byOriginHere fun k => .busWrite k hs

theorem debugCommand {cmd : DbgCmd} : Kept R s (execDebugCommand cmd s) :=
  .mainMem fun k => .ite (.dev k fun h => .count h) (.debugCmd k)

/-! #### Sys2Proof/Machine/CrcMem.lean -/

theorem crcStop {u : Fin 8} {cyc : BitVec 40} : Kept R s (execCrcStop u cyc s) :=
  .byRegMem fun k => .dev (.crcCycles k) fun h => .crcEnd h

theorem crcMemoryDone {u : Fin 8} : Kept R s (execCrcMemoryDone u s) :=
  .onClkMem fun k => .dev (.crcCycles k) fun h => .crcEnd h

/-! #### Sys2Proof/Machine/SpiHost.lean -/

theorem spihFrameStart : Kept R s (execSpihFrameStart s) :=
  .main fun h => .ite h (.ite (.clkEval (.count (.spihUpd h))) (.clkEval (.spihUpd h)))

theorem spihFrameEnd {l : List (BitVec 8)} : Kept R s (execSpihFrameEnd l s) := by
  unfold execSpihFrameEnd
  exact .onClkMem fun k => .ite k (.ite (.dev k fun h => .clkEval (.spihUpd h)) (.ite (.appReset (.dev k fun h => .spihUpd
    (.when h fun h => .count h))) (by split; exacts [(.dev k fun h => .clkEval (.spihUpd (.spihUpd (.when h fun h => .count
    h)))), (.dev k fun h => .clkEval (.raise (.count (.spihUpd (.spihUpd (.when h fun h => .count h))))))])))

theorem nopCmd : Kept R s (execNopCmd s) := .spiExec fun k => .dev k fun h => .spiDone h

theorem rd : Kept R s (execRd s) := by
  unfold execRd
  refine .spiExec fun {t q} k => ?_
  have kr : (t.spiRead q.addr q.len8).1.Holds R := .spiRead k
  split <;> rename_i he <;> rw [he] at kr <;> exact .dev kr fun h => .spiDone h

theorem wr : Kept R s (execWr s) := by
  unfold execWr
  exact .spiExec fun k => .dev (.spiWrite k) fun h => .spiDone h

theorem flRd {ok : Bool} : Kept R s (execFlRd ok s) :=
  .spiFlash fun k => .ite (.dev k fun h => .spiDone h) (.dev k fun h => .spiDone h)

theorem flProg {ok : Bool} : Kept R s (execFlProg ok s) :=
  .spiFlash fun k => .ite (.dev k fun h => .flashRefuse h) (.dev (.flashProg k) fun h => .spiDone h)

theorem flErase {ok : Bool} : Kept R s (execFlErase ok s) := by
  unfold execFlErase
  exact .spiFlash fun k => .ite (.dev k fun h => .flashRefuse h) (.dev k fun h => .spiDone h)

/-- KEY_PROG programs a slot that was not programmed (R65). -/
theorem keyProg (hR : R.Lasts) : Kept R s (execKeyProg s) := by
  unfold execKeyProg
  refine .spiExec fun k => ?_
  extract_lets
  split
  · exact .dev k fun h => .spiDone h
  next hfree =>
    simp only [not_or, Bool.not_eq_true] at hfree
    exact .dev k fun h => .spiDone (.program h hR hfree.2.2)

/-- KEY_REVOKE revokes a slot and leaves the rest of it (R65). -/
theorem keyRevoke (hR : R.Lasts) : Kept R s (execKeyRevoke s) :=
  .spiExec fun k => .ite (.dev k fun h => .spiDone (.revoke h hR)) (.dev k fun h => .spiDone h)

theorem appReset : Kept R s (execAppReset s) := .spiExec fun k => .dev k fun h => .spihUpd (.spiDone h)

theorem unknownCommand : Kept R s (execUnknownCommand s) :=
  .onClkMem fun k => by split; exacts [k, (.ite k (.dev k fun h => .spiDone h))]

end Kept/-- The command is Thimble's boot, whose copy checks are its operands. -/
def isThimbleBoot : Instr → Bool
  | .thimbleBootDone .. => true
  | _ => false

/-- Every command answers a next state that has the property. -/
theorem exec_kept {R : VaultProp} (hR : R.Lasts) (i : Instr) (s : State) (hs : s.dev.Sealed R)
    (hb : isThimbleBoot i = true → R.OfKeys) : Kept R s (exec i s) := by
  have ho {o : Origin} : s.Safe R o := .inr hs
  cases i
  case segnum num gm => exact .segnum (gm := gm)
  exacts [.registerWrite ho, .busErrorAccess, .vsupGood, .vsupDipStart, .vsupSagEnd, .supplyLossEvent, .vsupRecovery,
    .vholdBelowMinimum, .vholdExhausted, .vholdGood, .sleepReq, .sleepPrepComplete, .canWakePattern, .wakePinAccepted,
    .nfcFieldDetected, .nfcFieldGone, .sleepTimerExpiry, .pllRequest, .pllLock, .pllLockTimeout, .pllLastRequestReleased,
    .pllHoldoffExpire, .pllLockLost, .referenceFailure, .thimbleBootDone (hb rfl), .headerCheckDone, .imageStreamDone,
    .signatureCheckDone, .activation, .gateLinkTrainingDone, .gateLinkTrainingFail, .gateLinkRetry, .readySet, .appRst,
    .watchdogExpiry, .thimbleReset, .debugReset, .verify, .verifyDone, .foModeWrite, .foCurrentLimitReached,
    .foCurrentBelowLimit, .foLimitTimerExpire, .foOvertemperature, .foRetryTimerExpire, .foRetryReset, .foLatchClear,
    .bankSupplyFault, .bankSupplyRecovered, .aggOver, .diRawEdge, .diFilteredEdge, .adcRunStart, .adcRunStop, .sampleRecord,
    .slotTrigger, .slotFirstAperture, .slotComplete, .slotResultPublish, .urgentRequest, .urgentSlotComplete, .refSelect,
    .referenceSettled, .referenceOutOfWindow, .adcCalStart, .calibrationEnd, .adcTrimStart, .adcTrimDone, .auxScanStart,
    .auxEntryDone, .excitationMark, .resolverPairTimeout, .encoderEdge, .encoderMeasurement, .index, .serialFrameStart,
    .serialFrameComplete, .sscStartBitTimeout, .vencOvercurrent, .posFaultClear, .openToSls, .openTimeout, .slsLowSpeed,
    .disagree, .standstillCheckEnd, .satPulseEnd, .pulseDecayEnd, .cluEnable, .cluDisable, .offsetMeasurementEnd,
    .currentLoopUpdate, .vectorMeasurementRequest, .starved, .carrierMark, .switchEdge, .deadTimeEnd, .onTimeLimit,
    .brakeRequestSet, .brakeRequestClear, .brakeOnTimeEnd, .brakeOffTimeEnd, .brakePulseMissing, .windingDischargeEngage,
    .coffOnPhaseEnd, .coffOffTimeEnd, .windingDischargeEnd, .debugHalt, .debugResume, .debugCommand, .gateEdge, .edgeLearn,
    .shortCircuit, .desat, .softoffEnd, .overcurrent, .gateSupplyFault, .gateSupplyRecovered, .vposLost, .mismatch,
    .ntcReading, .ntcTrip, .ontHv, .linkLoss, .linkStatusMissing, .ascCommand, .ascRelease, .gateEnFall, .gateEnDisable,
    .gateEnRise, .autonomousDischarge, .disTmaxElapsed, .groupTrigger, .triggerTimeout, .opNop, .opMov, .opAdd, .opSub,
    .opNeg, .opAbs, .opMin, .opMax, .opClamp, .opSel, .opWrap, .opMul, .opMac, .opMsu, .opAccld, .opAccrd, .opTab, .opDiv,
    .opSqrt, .opSincos, .opAtan2, .opMag, .opBiq, .opRamp, .opPi, .opIn, .opOut, .opJge, .opEnd, .operationResult,
    .blockAccept, .epochDeadline, .collectorSwap, .sliceRun, .sliceEccError, .tuneCommit, .laRdw, .laRdout, .laRdage,
    .laRdseq, .laRdsst, .laTstat, .laDiv, .laSqrt, .laSin, .laCos, .laAtan2, .laMag, .laTset, .laTcommit, .laRun,
    .illegalInstruction, .commitBufferSend, .squash, .assistResultReturn, .arm, .stop, .force, .spoolRecordWrite,
    .spoolMemoryWrite, .axisEnable, .axisDisable, .axisStop, .homeGo, .positionTargetWrite, .velocityTargetWrite,
    .positionWrite, .motionTick, .holdCurrentTimer, .stepEdge, .chopperUpperReached, .chopperLowerReached, .chopperTailEnd,
    .onPhaseLimit, .limitSwitchEdge, .homeSwitchEdge, .homeDebounceExpire, .coilShort, .vstpFault, .vstpRecovered,
    .mismatchDetected, .darnRestartComplete, .checkpoint, .forced, .privateStore, .watchdogService, .split, .splitComplete,
    .ownerReq, .safeAck, .handoverTimeout, .rejoin, .rejoinTimeout, .rejoinComplete, .splitCoreParity, .deratingUpdate,
    .hemSpeedTrip, .hemUdcTrip, .hold, .thimbleCoreFault, .thimbleRestartDone, .pathTest, .speedCheck, .selReleaseTimer,
    .ss1Check, .ss1Deadline, .sbcEngageTimer, .stoAscTimeout, .safeToSto, .safetyInputChange, .siDisc, .sbcTestPulse,
    .sbcApplyCheck, .sbcCurrentLow, .tmWindowEnd, .udcDiv, .disSlow, .windingDischargeStop, .lockoutExpiry, .lockoutSave,
    .unlockTimeout, .request ho, .request ho, .request ho, .request ho, .request ho, .request ho, .request ho, .request ho,
    .request ho, .request ho, .request ho, .request ho, .request ho, .request ho, .request ho, .canRunSet, .canRunClear,
    .busIdleDetected, .canFrameReceived, .refFollowTimeout, .canProtocolException, .canBusError, .txreq, .txabort,
    .canTxComplete, .fifoPop, .hpSlotFree, .recover, .busOn, .dominantTimeout, .refPeriod, .ethLinkChange,
    .switchFrameReceived, .syncReceived, .pdelayExchange, .announceReceived, .syncLost, .txkick, .dtmHoldover, .submit,
    .txPop, .appsend, .connectionEnable, .connectionCycle, .connectionWatchdog, .domainEn, .formDelayReached, .domainOpen,
    .domainClaim, .domainRegister, .domainTrunk, .domainLeader, .domoff, .claimSilence, .segmentClose, .segReg,
    .directoryClose, .dirAck, .dirDone, .dirQuery, .gatewayServoLocked, .connectComplete, .leaderRefMissing, .gmChange,
    .crcInit, .crcGo, .crcStop, .crcData, .crcMemoryDone, .spihFrameStart, .nopCmd, .rd, .wr, .flRd, .flProg, .flErase,
    .keyProg hR, .keyRevoke hR, .appReset, .spihFrameEnd, .m0Go, .m0Done, .flashWindowRead, .m1TxQueue, .m1EntryDone,
    .m1RxPop, .luTxByte, .luRxPop, .uartByteReceived, .linGo, .linFrameEnd, .linResponseTimeout, .linBreak, .linHeader,
    .tagInventory, .tagStayQuiet, .tagSelect, .tagResetToReady, .tagReadSingleBlock, .tagWriteSingleBlock,
    .tagReadMultipleBlocks, .tagExtendedReadSingleBlock, .tagExtendedWriteSingleBlock, .tagExtendedReadMultipleBlocks,
    .tagGetSystemInformation, .tagExtendedGetSystemInformation, .unsupportedTagCommand, .nfcCommit, .nfcRead, .nfcCommitDone,
    .faultPageMirror, .flowMeasurementStart, .flowPairEvaluated, .flowStale, .evrAck, .evrPendClear, .journalEntryWrite,
    .jnlFwcmd, .vsupReturn, .vholdLow, .highVoltageHalfPowerUp, .unknownCommand, .unknownRequest ho, .luByteSent,
    .hostFrameSent, .syncTransmit, .announceTransmit, .macEntryAgeing, .splitCoreSelfTestDone]

theorem exists_of_isThimbleBoot {i : Instr} (h : isThimbleBoot i = true) :
    ∃ ok safe1 safe2 cal1 cal2 torn, i = .thimbleBootDone ok safe1 safe2 cal1 cal2 torn := by
  unfold isThimbleBoot at h
  split at h
  · exact ⟨_, _, _, _, _, _, rfl⟩
  · cases h

/-- Every step answers a next state that has the property. -/
theorem step_kept {R : VaultProp} (hR : R.Lasts) (s : State) (hs : s.dev.Sealed R)
    (hb : ∀ i, s.pending.head? = some i → isThimbleBoot i = true → R.OfKeys) : Kept R s (step s) := by
  rw [step]
  split
  next c rest h => exact ⟨(exec_kept hR c { s with pending := rest } hs (hb c (by rw [h]; rfl))).ends⟩
  · exact .next fun k => .idle k

theorem holds_of_step {R : VaultProp} (hR : R.Lasts) {s t : State} (hs : s.dev.Sealed R)
    (hb : ∀ i, s.pending.head? = some i → isThimbleBoot i = true → R.OfKeys) (h : s.dev.Holds R) (hst : step s = .next t) :
    t.dev.Holds R := by
  obtain ⟨u, hu, hk⟩ := (step_kept hR s hs hb).ends h
  obtain rfl : u = t := by injection hu.symm.trans hst
  exact hk

end Sys2Proof.Machine
end

section
/-!
The key store and the committed set along a step (R65, R66, R307).
-/
namespace Sys2Proof.Machine

/-- Slot `n` of the key store is programmed, with digest and role of `k`, and revoked if `k` is. -/
def keepsSlot (n : Nat) (k : KeySlot) : VaultProp := fun keys _ =>
  (Tab.find (fun _ => {}) keys n).programmed = true ∧ (Tab.find (fun _ => {}) keys n).digest = k.digest ∧
  (Tab.find (fun _ => {}) keys n).safety = k.safety ∧ (k.revoked = true → (Tab.find (fun _ => {}) keys n).revoked = true)

/-- A programmed slot is never programmed again, and a revocation leaves digest and role. -/
theorem keepsSlot_lasts (n : Nat) (k : KeySlot) : (keepsSlot n k).Lasts where
  program {keys c} m v h hm := by
    have hne : n ≠ m := fun he => by simp [← he, h.1] at hm
    simpa only [keepsSlot, Tab.find_put_ne _ _ _ hne] using h
  revoke {keys c} m h := by
    obtain ⟨hprog, hdig, hrole, hrev⟩ := h
    by_cases hne : n = m
    · subst hne
      simp [keepsSlot, hprog, hdig, hrole]
    · simpa only [keepsSlot, Tab.find_put_ne _ _ _ hne] using ⟨hprog, hdig, hrole, hrev⟩

/-- Settles O8: the key store changes by KEY_PROG, which asks for an unprogrammed slot, and by KEY_REVOKE alone. -/
theorem keySlotsProgrammedOnce : Obligations.KeySlotsProgrammedOnce := by
  intro s t n hst hprog
  have hkeys : (keepsSlot n (s.dev.keySlot n)).OfKeys := fun _ _ _ => id
  exact holds_of_step (keepsSlot_lasts n _) (.inr hkeys) (fun _ _ _ => hkeys) ⟨hprog, rfl, rfl, id⟩ hst

/-- The committed set reads as `c`. -/
def keepsSet (c : Option SafeSet) : VaultProp := fun _ c' => c' = c

theorem keepsSet_lasts (c : Option SafeSet) : (keepsSet c).Lasts where
  program _ _ h _ := h
  revoke _ h := h

/-- Settles O9: a set is committed by INSTALL alone, which asks for the open safety unlock, and a repair of the two copies leaves
what a read gives. -/
theorem committedSetChangesOnlyUnlocked : Obligations.CommittedSetChangesOnlyUnlocked := by
  intro s t hclosed hboot hst
  refine holds_of_step (keepsSet_lasts s.dev.per.safe.cur) (.inl hclosed) (fun i hi hib => ?_) rfl hst
  obtain ⟨a1, a2, a3, a4, a5, a6, rfl⟩ := exists_of_isThimbleBoot hib
  exact absurd hi (hboot a1 a2 a3 a4 a5 a6)

end Sys2Proof.Machine
end

section
/-!
The local start in a supply loss (R33, R69): SUPPLY_LOSS ends it, and Thimble's boot no longer releases the application side.
-/
namespace Sys2Proof.Machine

/-- In SUPPLY_LOSS the end of Thimble's boot changes nothing (R33). -/
theorem exec_thimbleBootDone_supplyLoss (ok safe1 safe2 cal1 cal2 torn : Bool) {s : State} (hp : s.powered)
    (hloss : s.dev.get SYS_PWRSTATE_STATE = 4) : exec (.thimbleBootDone ok safe1 safe2 cal1 cal2 torn) s = .next s := by
  refine (show exec _ _ = execThimbleBootDone ok safe1 safe2 cal1 cal2 torn s from rfl).trans ((State.main_powered _ hp).trans ?_)
  rw [if_pos (.inr (.inr hloss))]

/-- Thimble is booting when the supply is lost: the module is still powered from its hold-up, in state SUPPLY_LOSS. -/
def lossInBoot : State := { dev := ({ boot := { stage := 1 } } : Dev).set SYS_PWRSTATE_STATE 4 }

/-- Refutes O17: the clause on Thimble's boot does not ask that the supply is there. In `lossInBoot` SUPPLY_LOSS has ended the
local start, and the command leaves it at stage 1. -/
theorem not_localStartComplete : ¬ Obligations.LocalStartComplete := by
  unfold Obligations.LocalStartComplete
  rintro ⟨hboot, -⟩
  have hp : lossInBoot.powered := by decide
  obtain ⟨t, ht, hstage, -⟩ := hboot lossInBoot true true true true false hp (by decide) (by decide)
  have hloss : lossInBoot.dev.get SYS_PWRSTATE_STATE = 4 := by decide
  have hstays := exec_thimbleBootDone_supplyLoss true true true true true false hp hloss
  obtain rfl : t = lossInBoot := by injection ht.symm.trans hstays
  exact absurd hstage (by decide)

end Sys2Proof.Machine
end

section
/-!
The host SPI port (R401 to R404): what the clock controller leaves of it, how a request ends, and its commands.
-/
namespace Sys2Proof.Machine

/-! ## The clock controller and the port -/

section
variable (d : Dev)

/-- The clock controller writes SYS_CLKSTAT alone. -/
theorem Dev.clkEval_keeps {β : Type} (p : Dev → β) (h : ∀ e v, p (e.setReg A_SYS_CLKSTAT v) = p e) : p d.clkEval = p d := by
  refine Dev.each_keeps d p 3 fun q e => ?_
  obtain hsame | ⟨v, -, -, hset⟩ := e.pllEval_cases q
  · rw [hsame]
  · rw [hset, Dev.set, pllFld_addr, h]

@[simp] theorem Dev.clkEval_spih : d.clkEval.spih = d.spih := d.clkEval_keeps Dev.spih fun _ _ => rfl
@[simp] theorem Dev.clkEval_per : d.clkEval.per = d.per := d.clkEval_keeps Dev.per fun _ _ => rfl
@[simp] theorem Dev.clkEval_time : d.clkEval.time = d.time := d.clkEval_keeps Dev.time fun _ _ => rfl

theorem Dev.clkEval_reg {a : Nat} (ha : a ≠ A_SYS_CLKSTAT) : d.clkEval.reg a = d.reg a :=
  d.clkEval_keeps (·.reg a) fun e v => e.reg_setReg_ne v ha

/-- A raise leaves the port's counters alone. -/
theorem Dev.raise_hcnt {k : Nat} (hk : k < 768) : (d.raise k).reg A_SPI_HCNT = d.reg A_SPI_HCNT := by
  refine d.raise_reg hk ?_
  simp only [raiseFree, A_SPI_HCNT, A_EVR_STAMP, A_EVR_PEND, A_EVR_CNT, A_SPL_CHST, A_SPL_CHCNT, A_SPL_STAT, A_SPL_CNT,
    A_SPL_TSTAMP]
  exact ⟨by omega, by omega, by omega, by omega, by omega, by omega, by omega⟩

end

/-! ## The end of a request -/

/-- From `s` to `t` request `q` has left execution with its result and data as the reply, counted in FRAMES (R403, R404). -/
def Answered (q : SpiReq) (result : Nat) (data : List (BitVec 8)) (s t : State) : Prop :=
  t.dev.spih.req = none ∧ t.dev.spih.reply = some (spiReply q.cmd q.tag result data) ∧ Counted SPI_HCNT_FRAMES s t

section
variable (d : Dev) (q : SpiReq) (result : Nat) (data : List (BitVec 8))

@[simp] theorem Dev.spiDone_spih : (d.spiDone q result data).spih =
    { d.spih with req := none, reply := some (spiReply q.cmd q.tag result data) } := by
  simp only [Dev.spiDone, Dev.raise_spih]
  exact Dev.clkEval_spih _

@[simp] theorem Dev.spiDone_per : (d.spiDone q result data).per = d.per := by
  simp only [Dev.spiDone, Dev.raise_per]
  exact Dev.clkEval_per _

@[simp] theorem Dev.spiDone_keySlot (n : Nat) : (d.spiDone q result data).keySlot n = d.keySlot n := by
  simp only [Dev.keySlot, Dev.spiDone_per]

theorem Dev.spiDone_frames : (d.spiDone q result data).get SPI_HCNT_FRAMES =
    min (d.get SPI_HCNT_FRAMES + 1) (2 ^ SPI_HCNT_FRAMES.w - 1) := by
  unfold Dev.spiDone
  extract_lets d1
  have hclk : d1.clkEval.get SPI_HCNT_FRAMES = d.get SPI_HCNT_FRAMES :=
    congrArg (fieldGet · _ _) (d1.clkEval_reg (a := A_SPI_HCNT) (by decide))
  rw [Dev.get, show SPI_HCNT_FRAMES.addr = A_SPI_HCNT from rfl, Dev.raise_hcnt _ (by decide)]
  exact (Dev.get_count_same _ (by decide)).trans (by rw [hclk])

theorem Dev.spiDone_stamp : (d.spiDone q result data).reg (A_EVR_STAMP 632) = BitVec.ofNat 64 d.time := by
  unfold Dev.spiDone
  extract_lets d1
  have htime : (d1.clkEval.count SPI_HCNT_FRAMES).time = d.time := d1.clkEval_time
  exact (Dev.raise_stamped (by decide) htime).2

end

/-- An effect that leaves the port and its counters alone and then ends the request has answered it. -/
theorem answered_spiDone {s t : State} {d : Dev} (q : SpiReq) (result : Nat) (data : List (BitVec 8))
    (ht : t.dev = d.spiDone q result data) (hd : d.regs = s.dev.regs) : Answered q result data s t := by
  have hget : d.get SPI_HCNT_FRAMES = s.dev.get SPI_HCNT_FRAMES := by simp only [Dev.get, Dev.reg, hd]
  refine ⟨?_, ?_, ?_⟩
  · rw [ht, Dev.spiDone_spih]
  · rw [ht, Dev.spiDone_spih]
  · rw [Counted, ht, Dev.spiDone_frames, hget]

/-! ## The execution of a request -/

section
variable {s : State} {q : SpiReq}

theorem State.onClkMem_clocked {p : Nat} (f : State → State) (h : s.clocked p) : s.onClkMem p f = .next (f s) := by
  obtain ⟨hpower, hclk⟩ := h
  simp [State.onClkMem, hpower, hclk]

/-- The waiting request is executed in a mode that offers its command, if its LEN8 is the one asked for. -/
theorem State.spiExec_runs {cmd : Nat} {run rec : Bool} {len : Option Nat} (f : State → SpiReq → State) (hs : s.serves)
    (hq : s.dev.spih.req = some q) (hcmd : q.cmd = cmd) (hmode : (if s.dev.boot.recovery then rec else run) = true)
    (hlen : ∀ n ∈ len, n = q.len8) : s.spiExec cmd run rec len f = .next (f s q) := by
  obtain ⟨hclk, hserves⟩ := hs
  have hlen' : ¬ (len.isSome && decide (len ≠ some q.len8)) = true := by
    cases len with
    | none => simp
    | some n => simp [hlen n rfl]
  refine (State.onClkMem_clocked _ hclk).trans ?_
  simp only [hq]
  rw [if_neg (by simp [hcmd, hserves]), hmode, if_neg (by simp), if_neg hlen']

/-- A flash command is executed once SPIM0 has its clock and no firmware operation came first. -/
theorem State.spiFlash_runs {cmd : Nat} (f : State → SpiReq → State) (hs : s.servesFlash) (hq : s.dev.spih.req = some q)
    (hcmd : q.cmd = cmd) (hfree : s.dev.get SPI_M0CTL_BUSY = 0 ∨ s.dev.m0.behind = true) :
    s.spiFlash cmd true f = .next (f s q) := by
  obtain ⟨hserves, hclk⟩ := hs
  have hno : (s.dev.bit SPI_M0CTL_BUSY && !s.dev.m0.behind) = false := by
    obtain h | h := hfree <;> simp [Dev.bit, h]
  refine (State.spiExec_runs _ hserves hq hcmd (by simp) (by simp)).trans ?_
  simp [hno, hclk]

end

/-! ## A word of the SRAM -/

section
variable {a : Nat}

theorem regionOf_sram (h : 0x10000000 ≤ a) (h' : a < 0x11000000) : regionOf a = .sram := by
  unfold regionOf
  rw [if_neg (by omega), if_pos ⟨h, h'⟩]

theorem accessErr_sram {n : Nat} (wr : Bool) (hn : 0 < n) (h : 0x10000000 ≤ a) (h' : a + n ≤ 0x11000000) :
    accessErr a n wr = none := by
  have hlast : regionOf (a + n - 1) = .sram := regionOf_sram (by omega) (by omega)
  simp [accessErr, busErrOf, regionOf_sram h (by omega), hlast]

theorem State.busRead_sram (s : State) {n : Nat} (hn : 0 < n) (h : 0x10000000 ≤ a) (h' : a + n ≤ 0x11000000) :
    s.busRead a n = (s, some (rdLE s.mem a n)) := by
  have hstated : unstated a = false := by
    simp only [unstated, Bool.or_eq_false_iff, Bool.and_eq_false_iff, decide_eq_false_iff_not]
    omega
  have hwin : ¬ (0x40B00100 ≤ a ∧ a < 0x40B00200) := by omega
  simp [State.busRead, accessErr_sram false hn h h', regionOf_sram h (by omega), hstated, hwin]

theorem State.busWrite_sram (s : State) {n : Nat} (v : Nat) (hn : 0 < n) (h : 0x10000000 ≤ a) (h' : a + n ≤ 0x11000000) :
    s.busWrite .host a n v = ({ s with mem := wrLE s.mem a n v }, false) := by
  simp [State.busWrite, accessErr_sram true hn h h', regionOf_sram h (by omega)]

end

/-! ## Frames -/

theorem spihFrameStart_latches (s : State) (hp : s.powered) (hlow : s.dev.spih.low = false) (hreq : s.dev.spih.req = none) :
    Completes .spihFrameStart s fun t => t.dev.spih.low = true ∧ t.dev.spih.given = s.dev.spih.reply ∧
      t.dev.spih.status = s.dev.spiStatus s.dev.spih.reply.isSome := by
  refine completes_main (show exec _ _ = execSpihFrameStart s from rfl) hp ?_
  simp only [hlow, hreq, Bool.false_eq_true, if_false, Option.isSome_none, Dev.clkEval_spih]
  exact ⟨rfl, rfl, rfl⟩

/-- A frame end takes the frame that it ends: the port as it is then, with its truncated reply counted. -/
def Dev.frameTaken (d : Dev) (l : List (BitVec 8)) : Dev :=
  Dev.spihUpd (d.when (!(match d.spih.given with | some g => decide (g.length < l.length) | none => true))
    (·.count SPI_HCNT_TRUNC)) fun r => { r with low := false, reply := none, given := none, resetDue := false }

theorem exec_spihFrameEnd_goodCrc {s : State} {l : List (BitVec 8)} {q : SpiReq} (hs : s.clocked 2) (hlow : s.dev.spih.low = true)
    (hdiscard : s.dev.spih.discard = false) (hdue : s.dev.spih.resetDue = false) (hq : spiRequest l = some q) :
    exec (.spihFrameEnd l) s =
      .next { s with dev := ((s.dev.frameTaken l).spihUpd fun r => { r with req := some q }).clkEval } := by
  refine (show exec _ _ = execSpihFrameEnd l s from rfl).trans ((State.onClkMem_clocked _ hs).trans ?_)
  simp only [hlow, hdiscard, hdue, hq, Bool.not_true, Bool.false_eq_true, if_false, Bool.false_and]
  rfl

/-- The reply to a frame whose CRC does not hold, counted (R402). -/
def Dev.crcRefused (d : Dev) (l : List (BitVec 8)) : Dev :=
  ((d.frameTaken l).spihUpd fun r =>
    { r with reply := some (spiReply (l.getD 0 0).toNat (l.getD 1 0).toNat 1 []) }).count SPI_HCNT_CRC_ERR

theorem exec_spihFrameEnd_badCrc {s : State} {l : List (BitVec 8)} (hs : s.clocked 2) (hlow : s.dev.spih.low = true)
    (hdiscard : s.dev.spih.discard = false) (hdue : s.dev.spih.resetDue = false) (hq : spiRequest l = none) :
    exec (.spihFrameEnd l) s = .next { s with dev := ((s.dev.crcRefused l).raise 633).clkEval } := by
  refine (show exec _ _ = execSpihFrameEnd l s from rfl).trans ((State.onClkMem_clocked _ hs).trans ?_)
  simp only [hlow, hdiscard, hdue, hq, Bool.not_true, Bool.false_eq_true, if_false, Bool.false_and]
  rfl

theorem Dev.crcRefused_count (d : Dev) (l : List (BitVec 8)) : (d.crcRefused l).get SPI_HCNT_CRC_ERR =
    min (d.get SPI_HCNT_CRC_ERR + 1) (2 ^ SPI_HCNT_CRC_ERR.w - 1) := by
  have htaken : (d.frameTaken l).get SPI_HCNT_CRC_ERR = d.get SPI_HCNT_CRC_ERR :=
    Dev.when_keeps d (·.get SPI_HCNT_CRC_ERR) (Dev.get_set_bits d _ rfl (by decide))
  rw [← htaken]
  exact Dev.get_count_same _ (by decide)

theorem Dev.crcRefused_time (d : Dev) (l : List (BitVec 8)) : (d.crcRefused l).time = d.time :=
  Dev.when_keeps d Dev.time rfl

theorem spihFrameEnd_takes (s : State) (l : List (BitVec 8)) (q : SpiReq) (hs : s.clocked 2) (hlow : s.dev.spih.low = true)
    (hdiscard : s.dev.spih.discard = false) (hdue : s.dev.spih.resetDue = false) (hq : spiRequest l = some q) :
    Completes (.spihFrameEnd l) s fun t => t.dev.spih.req = some q ∧ t.dev.spih.low = false ∧ t.dev.spih.reply = none := by
  refine ⟨_, exec_spihFrameEnd_goodCrc hs hlow hdiscard hdue hq, ?_⟩
  simp only [Dev.clkEval_spih]
  exact ⟨rfl, rfl, rfl⟩

theorem spihFrameEnd_answersBadCrc (s : State) (l : List (BitVec 8)) (hs : s.clocked 2) (hlow : s.dev.spih.low = true)
    (hdiscard : s.dev.spih.discard = false) (hdue : s.dev.spih.resetDue = false) (hq : spiRequest l = none) :
    Completes (.spihFrameEnd l) s fun t =>
      t.dev.spih.reply = some (spiReply (l.getD 0 0).toNat (l.getD 1 0).toNat 1 []) ∧ Counted SPI_HCNT_CRC_ERR s t ∧
      Raised 633 s t := by
  refine ⟨_, exec_spihFrameEnd_badCrc hs hlow hdiscard hdue hq, ?_, ?_, ?_⟩
  · rw [Dev.clkEval_spih, Dev.raise_spih]
    rfl
  · rw [Counted, ← Dev.crcRefused_count s.dev l, Dev.get, Dev.clkEval_reg _ (by decide),
      show SPI_HCNT_CRC_ERR.addr = A_SPI_HCNT from rfl, Dev.raise_hcnt _ (by decide)]
    rfl
  · rw [Raised, Dev.clkEval_reg _ (by decide)]
    exact (Dev.raise_stamped (by decide) (s.dev.crcRefused_time l)).2

/-! ## Commands -/

theorem nopCmd_answers (s : State) (q : SpiReq) (hs : s.serves) (hq : s.dev.spih.req = some q) (hcmd : q.cmd = 0) :
    Completes .nopCmd s fun t => t.dev.spih.req = none ∧ t.dev.spih.reply = some (spiReply q.cmd q.tag 0 []) ∧
      Counted SPI_HCNT_FRAMES s t ∧ Raised 632 s t := by
  refine ⟨_, (show exec _ _ = execNopCmd s from rfl).trans (State.spiExec_runs _ hs hq hcmd (by simp) (by simp)), ?_⟩
  obtain ⟨hreq, hreply, hcount⟩ := answered_spiDone (s := s) (t := { s with dev := s.dev.spiDone q 0 [] }) q 0 [] rfl rfl
  exact ⟨hreq, hreply, hcount, s.dev.spiDone_stamp q 0 []⟩

theorem rd_answersWord (s : State) (q : SpiReq) (hs : s.serves) (hq : s.dev.spih.req = some q) (hcmd : q.cmd = 1)
    (hrec : s.dev.boot.recovery = false) (hlen : q.len8 = 1) (hlo : 0x10000000 ≤ q.addr) (hhi : q.addr + 8 ≤ 0x11000000) :
    Completes .rd s (Answered q 0 (bytesLE 8 (rdLE s.mem q.addr 8)) s) := by
  refine ⟨_, (show exec _ _ = execRd s from rfl).trans (State.spiExec_runs _ hs hq hcmd (by simp [hrec]) (by simp)), ?_⟩
  simp only [hlen, State.spiRead, State.busRead_sram s (by decide) hlo hhi, List.append_nil]
  exact answered_spiDone q 0 _ rfl rfl

theorem wr_storesWord (s : State) (q : SpiReq) (hs : s.serves) (hq : s.dev.spih.req = some q) (hcmd : q.cmd = 2)
    (hrec : s.dev.boot.recovery = false) (hlen : q.len8 = 1) (hlo : 0x10000000 ≤ q.addr) (hhi : q.addr + 8 ≤ 0x11000000) :
    Completes .wr s fun t => Answered q 0 [] s t ∧ rdLE t.mem q.addr 8 = ofBytesLE (q.data.take 8) % 2 ^ 64 := by
  refine ⟨_, (show exec _ _ = execWr s from rfl).trans (State.spiExec_runs _ hs hq hcmd (by simp [hrec]) (by simp)), ?_⟩
  simp only [hlen, State.spiWrite, State.busWrite_sram s _ (by decide) hlo hhi, Bool.false_eq_true, if_false]
  exact ⟨answered_spiDone q 0 _ rfl rfl, rdLE_wrLE_same 8 _ _ _⟩

theorem flRd_answersBytes (s : State) (q : SpiReq) (hs : s.servesFlash) (hq : s.dev.spih.req = some q) (hcmd : q.cmd = 0x10)
    (hfree : s.dev.get SPI_M0CTL_BUSY = 0 ∨ s.dev.m0.behind = true) (hsize : q.addr + 8 * q.len8 ≤ flashSize) :
    Completes (.flRd true) s (Answered q 0 (flashBytes s.flash q.addr (8 * q.len8)) s) := by
  refine ⟨_, (show exec _ _ = execFlRd true s from rfl).trans (State.spiFlash_runs _ hs hq hcmd hfree), ?_⟩
  rw [if_pos hsize]
  exact answered_spiDone q 0 _ rfl rfl

/-- A byte programmed into an erased one. -/
theorem State.flashProg_erased (s : State) {a : Nat} (b : BitVec 8) (h : flash8 s.flash a = 0xFF) :
    s.flashProg a [b] = { s with flash := flashW8 s.flash a b } := by
  rw [State.flashProg, if_pos h, State.flashProg]

theorem flProg_programsByte (s : State) (q : SpiReq) (b : BitVec 8) (hs : s.servesFlash) (hq : s.dev.spih.req = some q)
    (hcmd : q.cmd = 0x11) (hfree : s.dev.get SPI_M0CTL_BUSY = 0 ∨ s.dev.m0.behind = true)
    (hok : s.dev.flashRefusal q.addr 1 = 0) (hdata : q.data = [b]) (herased : flash8 s.flash q.addr = 0xFF) :
    Completes (.flProg true) s fun t => Answered q 0 [] s t ∧ flash8 t.flash q.addr = b := by
  refine ⟨_, (show exec _ _ = execFlProg true s from rfl).trans (State.spiFlash_runs _ hs hq hcmd hfree), ?_⟩
  simp only [hdata, List.length_singleton, hok, ne_eq, not_true_eq_false, if_false, s.flashProg_erased b herased]
  exact ⟨answered_spiDone q 0 _ rfl rfl, Tab.find_put_same _ _ _ _⟩

theorem flErase_erasesSector (s : State) (q : SpiReq) (i : BitVec 16) (hs : s.servesFlash) (hq : s.dev.spih.req = some q)
    (hcmd : q.cmd = 0x12) (hfree : s.dev.get SPI_M0CTL_BUSY = 0 ∨ s.dev.m0.behind = true)
    (hok : s.dev.flashRefusal q.addr 1 = 0) :
    Completes (.flErase true) s fun t => Answered q 0 [] s t ∧
      flash8 t.flash (q.addr / 0x10000 * 0x10000 + i.toNat) = 0xFF := by
  refine ⟨_, (show exec _ _ = execFlErase true s from rfl).trans (State.spiFlash_runs _ hs hq hcmd hfree), ?_⟩
  have hi : i.toNat < 0x10000 := i.isLt
  simp only [hok, ne_eq, not_true_eq_false, if_false]
  refine ⟨answered_spiDone q 0 _ rfl rfl, Tab.find_keep_out _ ?_ _⟩
  simp only [Bool.not_eq_false', Bool.and_eq_true, decide_eq_true_eq]
  omega

@[simp] theorem Dev.keySlot_keyPut_same (d : Dev) (n : Nat) (k : KeySlot) : (d.keyPut n k).keySlot n = k :=
  Tab.find_put_same _ _ _ _

theorem keyProg_programsSlot (s : State) (q : SpiReq) (hs : s.serves) (hq : s.dev.spih.req = some q) (hcmd : q.cmd = 0x20)
    (hrec : s.dev.boot.recovery = true) (hlen : q.len8 = 5) (hslot : (q.data.getD 0 0).toNat < 4)
    (hrole : (q.data.getD 1 0).toNat < 2) (hempty : (s.dev.keySlot (q.data.getD 0 0).toNat).programmed = false) :
    Completes .keyProg s fun t => Answered q 0 [] s t ∧ t.dev.keySlot (q.data.getD 0 0).toNat =
      { programmed := true, safety := decide ((q.data.getD 1 0).toNat = 1), digest := ofBytesBE ((q.data.drop 8).take 32) } := by
  refine ⟨_, (show exec _ _ = execKeyProg s from rfl).trans
    (State.spiExec_runs _ hs hq hcmd (by simp [hrec]) (by simp [hlen])), ?_⟩
  dsimp only
  rw [if_neg (by simp only [hempty, Bool.false_eq_true, or_false]; omega)]
  exact ⟨answered_spiDone q 0 _ rfl rfl, by rw [Dev.spiDone_keySlot, Dev.keySlot_keyPut_same]⟩

/-- The signature of a revocation of slot `n` by slot `m` holds (R404). -/
def Dev.revokeOk (d : Dev) (q : SpiReq) (n m : BitVec 8) : Bool :=
  decide (n.toNat < 4) && decide (m.toNat < 4) && decide (n ≠ m) && (d.keySlot n.toNat).programmed &&
    (d.keySlot m.toNat).programmed && !(d.keySlot m.toNat).revoked &&
    decide ((d.keySlot n.toNat).safety = (d.keySlot m.toNat).safety) &&
    decide ((d.keySlot m.toNat).digest = sha256 ((q.data.drop 8).take 64)) &&
    sigBlockOk ((q.data.drop 8).take 128) (sha256 (revokeText n.toNat))

/-- What KEY_REVOKE leaves of the device: the slot revoked, or RESULT 8. -/
def Dev.keyRevoked (d : Dev) (q : SpiReq) (n m : BitVec 8) : Dev :=
  if d.revokeOk q n m then (d.keyPut n.toNat { d.keySlot n.toNat with revoked := true }).spiDone q 0 []
  else d.spiDone q 8 []

theorem exec_keyRevoke {s : State} {q : SpiReq} (hs : s.serves) (hq : s.dev.spih.req = some q) (hcmd : q.cmd = 0x21)
    (hrec : s.dev.boot.recovery = true) (hlen : q.len8 = 17) :
    exec .keyRevoke s = .next { s with dev := s.dev.keyRevoked q (q.data.getD 0 0) (q.data.getD 1 0) } := by
  refine (show exec _ _ = execKeyRevoke s from rfl).trans
    ((State.spiExec_runs _ hs hq hcmd (by simp [hrec]) (by simp [hlen])).trans ?_)
  have hblock : ((q.data.drop 8).take 128).take 64 = (q.data.drop 8).take 64 := List.take_take
  simp only [Dev.keyRevoked, Dev.revokeOk, hblock, ne_eq, BitVec.toNat_inj]
  exact congrArg _ (apply_ite (fun d => ({ s with dev := d } : State)) _ _ _).symm

theorem keyRevoke_revokesSigned (s : State) (q : SpiReq) (hs : s.serves) (hq : s.dev.spih.req = some q) (hcmd : q.cmd = 0x21)
    (hrec : s.dev.boot.recovery = true) (hlen : q.len8 = 17) :
    Completes .keyRevoke s fun t => t.dev.spih.req = none ∧
      (t.dev.keySlot (q.data.getD 0 0).toNat = s.dev.keySlot (q.data.getD 0 0).toNat ∨
        t.dev.keySlot (q.data.getD 0 0).toNat = { s.dev.keySlot (q.data.getD 0 0).toNat with revoked := true }) ∧
      (s.dev.revokeOk q (q.data.getD 0 0) (q.data.getD 1 0) = true →
        (t.dev.keySlot (q.data.getD 0 0).toNat).revoked = true ∧ t.dev.spih.reply = some (spiReply q.cmd q.tag 0 [])) := by
  refine ⟨_, exec_keyRevoke hs hq hcmd hrec hlen, ?_⟩
  generalize q.data.getD 0 0 = n
  generalize q.data.getD 1 0 = m
  unfold Dev.keyRevoked
  cases hok : s.dev.revokeOk q n m
  · simp
  · simp

theorem appReset_answers (s : State) (q : SpiReq) (hs : s.serves) (hq : s.dev.spih.req = some q) (hcmd : q.cmd = 0x30)
    (hrec : s.dev.boot.recovery = true) :
    Completes .appReset s fun t => t.dev.spih.req = none ∧ t.dev.spih.reply = some (spiReply q.cmd q.tag 0 []) ∧
      Counted SPI_HCNT_FRAMES s t ∧ t.dev.spih.resetDue = true := by
  refine ⟨_, (show exec _ _ = execAppReset s from rfl).trans (State.spiExec_runs _ hs hq hcmd (by simp [hrec]) (by simp)), ?_⟩
  obtain ⟨hreq, hreply, hcount⟩ := answered_spiDone (s := s) (t := { s with dev := s.dev.spiDone q 0 [] }) q 0 [] rfl rfl
  exact ⟨hreq, hreply, hcount, rfl⟩

theorem unknownCommand_refused (s : State) (q : SpiReq) (hs : s.serves) (hq : s.dev.spih.req = some q)
    (hcmd : spiCmds.contains q.cmd = false) : Completes .unknownCommand s (Answered q 2 [] s) := by
  obtain ⟨hclk, hserves⟩ := hs
  refine ⟨_, (show exec _ _ = execUnknownCommand s from rfl).trans (State.onClkMem_clocked _ hclk), ?_⟩
  simp only [hq, hcmd, hserves, Bool.not_true, Bool.or_false, Bool.false_eq_true, if_false]
  exact answered_spiDone q 2 _ rfl rfl

theorem Completes.mono {c : Instr} {s : State} {P Q : State → Prop} (h : Completes c s P) (hPQ : ∀ t, P t → Q t) :
    Completes c s Q := by
  obtain ⟨t, ht, hp⟩ := h
  exact ⟨t, ht, hPQ t hp⟩

/-- Settles O45: in every command the request runs, its effect leaves the port and its counters alone, and its end answers it. -/
theorem hostPortCommandsComplete : Obligations.HostPortCommandsComplete := by
  unfold Obligations.HostPortCommandsComplete
  have hassoc : ∀ {q r l s t} {R : Prop}, Answered q r l s t ∧ R → t.dev.spih.req = none ∧
      t.dev.spih.reply = some (spiReply q.cmd q.tag r l) ∧ Counted SPI_HCNT_FRAMES s t ∧ R :=
    fun ⟨⟨hreq, hreply, hcount⟩, h⟩ => ⟨hreq, hreply, hcount, h⟩
  exact ⟨spihFrameStart_latches, spihFrameEnd_takes, spihFrameEnd_answersBadCrc, nopCmd_answers, rd_answersWord,
    fun s q hs hq hcmd hrec hlen hlo hhi => (wr_storesWord s q hs hq hcmd hrec hlen hlo hhi).mono fun _ => hassoc,
    flRd_answersBytes,
    fun s q b hs hq hcmd hfree hok hdata he => (flProg_programsByte s q b hs hq hcmd hfree hok hdata he).mono fun _ => hassoc,
    fun s q i hs hq hcmd hfree hok => (flErase_erasesSector s q i hs hq hcmd hfree hok).mono fun _ => hassoc,
    fun s q hs hq hcmd hrec hlen hn hr he => (keyProg_programsSlot s q hs hq hcmd hrec hlen hn hr he).mono fun _ => hassoc,
    keyRevoke_revokesSigned, appReset_answers, unknownCommand_refused⟩

end Sys2Proof.Machine
end

section
/-!
The bits of a field, and the commands of one gate channel that change no other (R168 to R173, R180, R182).
-/
namespace Sys2Proof.Machine

/-! ## Bits set and cleared in a field -/

/-- A number less the bits it shares with a mask has the other bits. -/
theorem testBit_sub_and (i : Nat) : ∀ x y : Nat, (x - (x &&& y)).testBit i = (x.testBit i && !y.testBit i) := by
  induction i with
  | zero =>
    intro x y
    have hle : x &&& y ≤ x := Nat.and_le_left
    have hlow : (x &&& y) % 2 = 1 ↔ x % 2 = 1 ∧ y % 2 = 1 := Nat.and_mod_two_eq_one
    rw [Bool.eq_iff_iff]
    simp only [Nat.testBit_zero, Bool.and_eq_true, Bool.not_eq_true', decide_eq_true_eq, decide_eq_false_iff_not]
    omega
  | succ i ih =>
    intro x y
    have hle : x &&& y ≤ x := Nat.and_le_left
    have hlow : (x &&& y) % 2 = 1 ↔ x % 2 = 1 ∧ y % 2 = 1 := Nat.and_mod_two_eq_one
    have hhigh : (x &&& y) / 2 = x / 2 &&& y / 2 := Nat.and_div_two
    have hsub : (x - (x &&& y)) / 2 = x / 2 - (x / 2 &&& y / 2) := by omega
    rw [Nat.testBit_succ, hsub, ih, ← Nat.testBit_succ, ← Nat.testBit_succ]

/-- What is cleared has no bit of the mask. -/
theorem sub_and_and_eq_zero (x y : Nat) : (x - (x &&& y)) &&& y = 0 := by
  refine Nat.eq_of_testBit_eq fun i => ?_
  rw [Nat.testBit_and, testBit_sub_and]
  cases x.testBit i <;> cases y.testBit i <;> simp

section
variable (d : Dev) {f : Fld} {i : Nat}

theorem Dev.tb_set_same (v : Nat) (hi : i < f.w) (h : f.lo + f.w ≤ 64) : (d.set f v).tb f i = v.testBit i := by
  rw [Dev.tb, Dev.get_set_same d v h, Nat.testBit_mod_two_pow]
  simp [hi]

theorem Dev.tb_setBits_same (hi : i < f.w) (h : f.lo + f.w ≤ 64) : (d.setBits f (2 ^ i)).tb f i = true := by
  rw [Dev.setBits, Dev.tb_set_same d _ hi h]
  simp

theorem Dev.tb_clrBits_same (hi : i < f.w) (h : f.lo + f.w ≤ 64) : (d.clrBits f (2 ^ i)).tb f i = false := by
  rw [Dev.clrBits, Dev.tb_set_same d _ hi h, testBit_sub_and]
  simp

/-- A field of 8 bits takes a byte. -/
theorem Dev.get_set_byte (v : BitVec 8) (hw : f.w = 8) (h : f.lo + f.w ≤ 64) : (d.set f v.toNat).get f = v.toNat := by
  rw [Dev.get_set_same d _ h, hw]
  exact Nat.mod_eq_of_lt v.isLt
end

/-! ## Supplies and temperature -/

theorem completes_always {c : Instr} {s : State} {f : Dev → Dev} {R : State → Prop} (hc : exec c s = s.always f)
    (h : R { s with dev := f s.dev }) : Completes c s R := ⟨_, hc, h⟩

section
variable (d : Dev) (n : Nat) (vpos vneg : BitVec 8)

theorem Dev.reg_supplyPut_ne {a : Nat} (h : a ≠ A_GCH_STAT n) : (d.supplyPut n vpos vneg).reg a = d.reg a := by
  unfold Dev.supplyPut
  dsimp only
  split
  · rfl
  · rw [Dev.reg_set_ne _ _ h, Dev.reg_set_ne _ _ h, Dev.gchUpd_reg]

/-- The windows of the supplies are those of GCH_SUP. -/
theorem Dev.supplyOut_supplyPut (k : Nat) : (d.supplyPut n vpos vneg).supplyOut n k vpos vneg = d.supplyOut n k vpos vneg := by
  have hsup : (d.supplyPut n vpos vneg).reg (A_GCH_SUP n) = d.reg (A_GCH_SUP n) :=
    d.reg_supplyPut_ne n vpos vneg (by simp only [A_GCH_SUP, A_GCH_STAT]; omega)
  unfold Dev.supplyOut Dev.getI Dev.get
  simp only [hsup]

variable {d n}

/-- A linked channel shows the supplies found. -/
theorem Dev.supplyPut_linked (hp : d.unpowered = false) (hl : (d.gchAt n).link = true) : d.supplyPut n vpos vneg =
    ((d.gchUpd n fun h => { h with vpos := vpos.toNat, vneg := vneg.toNat }).set (GCH_STAT_VPOS n) vpos.toNat).set
      (GCH_STAT_VNEG n) vneg.toNat := by
  unfold Dev.supplyPut
  dsimp only
  have hp' : (d.gchUpd n fun h => { h with vpos := vpos.toNat, vneg := vneg.toNat }).unpowered = false := hp
  rw [if_neg (by simp [hl, hp'])]

theorem Dev.get_supplyPut (hp : d.unpowered = false) (hl : (d.gchAt n).link = true) :
    (d.supplyPut n vpos vneg).get (GCH_STAT_VPOS n) = vpos.toNat ∧
      (d.supplyPut n vpos vneg).get (GCH_STAT_VNEG n) = vneg.toNat := by
  rw [Dev.supplyPut_linked vpos vneg hp hl]
  constructor
  · rw [Dev.get_set_bits (f := GCH_STAT_VNEG n) (g := GCH_STAT_VPOS n) _ _ rfl (.inr (show 16 + 8 ≤ 24 by decide))]
    exact Dev.get_set_byte (f := GCH_STAT_VPOS n) _ _ rfl (show 24 + 8 ≤ 64 by decide)
  · exact Dev.get_set_byte (f := GCH_STAT_VNEG n) _ _ rfl (show 16 + 8 ≤ 64 by decide)
end

theorem Dev.get_gchShowCause (d : Dev) {n : Nat} {f : Fld} (hf : f.addr ≠ A_GCH_FLT n) :
    (d.gchShowCause n).get f = d.get f := Dev.get_set_addr (f := GCH_FLT_CAUSE n) d _ hf

theorem gateSupplyRecovered_shows (s : State) (n : Fin 14) (vpos vneg : BitVec 8) (hp : s.powered)
    (hhalf : (s.dev.gchAt n).powered = true) (hl : (s.dev.gchAt n).link = true)
    (hin : ((List.range 3).any fun k => s.dev.supplyOut n k vpos vneg) = false) :
    Completes (.gateSupplyRecovered n vpos vneg) s fun t => t.dev.get (GCH_STAT_VPOS n) = vpos.toNat ∧
      t.dev.get (GCH_STAT_VNEG n) = vneg.toNat ∧ (t.dev.gchAt n).cause &&& 0x38 = 0 := by
  obtain ⟨hvpos, hvneg⟩ := s.dev.get_supplyPut vpos vneg hp hl
  have hpower : (s.dev.supplyPut n vpos vneg).unpowered = false := by rwa [Dev.supplyPut_linked vpos vneg hp hl]
  refine completes_always (show exec _ _ = execGateSupplyRecovered n vpos vneg s from rfl) ?_
  simp only [hhalf, Dev.supplyOut_supplyPut, hin, Bool.not_true, Bool.false_eq_true, if_false]
  rw [if_neg (by rw [Bool.not_eq_true]; exact hpower)]
  have hne : A_GCH_STAT n ≠ A_GCH_FLT n := by simp only [A_GCH_STAT, A_GCH_FLT]; omega
  refine ⟨?_, ?_, ?_⟩
  · exact (Dev.get_gchShowCause (f := GCH_STAT_VPOS n) _ hne).trans hvpos
  · exact (Dev.get_gchShowCause (f := GCH_STAT_VNEG n) _ hne).trans hvneg
  · simp only [Dev.gchShowCause, Dev.set_gchAt, Dev.gchAt_gchUpd_same]
    exact sub_and_and_eq_zero _ _

/-! ## Loss and return of the high-voltage half -/

theorem Dev.unpowered_gateOff (d : Dev) (n : Nat) : (d.gateOff n).unpowered = d.unpowered := by
  unfold Dev.gateOff Dev.gateOffBy
  split <;> rfl

theorem Dev.unpowered_disEnd (d : Dev) (why st : Nat) : (d.disEnd why st).unpowered = d.unpowered := by
  rw [← d.unpowered_gateOff 13, Dev.unpowered, Dev.disEnd, Dev.raise_pwr]
  rfl

theorem vposLost_untrains (s : State) (n : Fin 14) (hp : s.powered) :
    Completes (.vposLost n) s fun t => t.dev.get (GCH_STAT_STATE n) = 0 ∧ (t.dev.gchAt n).powered = false ∧
      (t.dev.gchAt n).link = false ∧ (t.dev.gchAt n).gate = false := by
  refine completes_always (show exec _ _ = execVposLost n s from rfl) ?_
  extract_lets d d' e
  have hpower : d.unpowered = false := by
    unfold d
    split
    · exact (s.dev.unpowered_disEnd 3 0).trans hp
    · exact hp
  have hgone : e.unpowered = false := (d.unpowered_gateOff n).trans hpower
  have hhalf : (e.gchAt n).powered = false ∧ (e.gchAt n).link = false ∧ (e.gchAt n).gate = false := by
    rw [Dev.gchAt_gchUpd_same]
    exact ⟨rfl, rfl, rfl⟩
  rw [if_neg (by simp [hgone])]
  have hshown : ((e.gchPut n 0).set (GCH_STAT_VPOS n) 0).get (GCH_STAT_STATE n) = 0 :=
    (Dev.get_set_bits (f := GCH_STAT_VPOS n) (g := GCH_STAT_STATE n) _ _ rfl (.inl (show 0 + 3 ≤ 24 by decide))).trans
      (Dev.get_set_same (f := GCH_STAT_STATE n) _ _ (show 0 + 3 ≤ 64 by decide))
  have hdis : A_GCH_STAT n ≠ A_GCH_DIS := by simp only [A_GCH_STAT, A_GCH_DIS]; omega
  refine ⟨?_, ?_⟩
  · exact (Dev.when_keeps _ (·.get (GCH_STAT_STATE n))
      (Dev.get_set_addr (f := GCH_DIS_AUTO_ARMED) (g := GCH_STAT_STATE n) _ _ hdis)).trans hshown
  · have hkeep : (((e.gchPut n 0).set (GCH_STAT_VPOS n) 0).when (decide (n.val = 13)) (·.set GCH_DIS_AUTO_ARMED 0)).gchAt n =
        e.gchAt n := Dev.when_keeps _ (·.gchAt n) (Dev.set_gchAt ..)
    rw [hkeep]
    exact hhalf

theorem highVoltageHalfPowerUp_powers (s : State) (n : Fin 14) :
    Completes (.highVoltageHalfPowerUp n) s fun t => (t.dev.gchAt n).powered = true ∧
      (t.dev.gchAt n).latch = (s.dev.gchAt n).latch ∧ t.dev.regs = s.dev.regs := by
  refine completes_always (show exec _ _ = execHighVoltageHalfPowerUp n s from rfl) ?_
  dsimp only
  rw [Dev.gchAt_gchUpd_same]
  exact ⟨rfl, rfl, rfl⟩

theorem ntcReading_shows (s : State) (n : Fin 14) (code : BitVec 8) (hp : s.powered) (hhalf : (s.dev.gchAt n).powered = true)
    (hl : (s.dev.gchAt n).link = true) : Completes (.ntcReading n code) s fun t => t.dev.get (GCH_STAT_NTC n) = code.toNat := by
  refine completes_always (show exec _ _ = execNtcReading n code s from rfl) ?_
  extract_lets trip d
  have hpower : d.unpowered = false ∧ (d.gchAt n).link = true := by
    unfold d
    split
    · rw [Dev.gchAt_gchUpd_same]
      exact ⟨hp, hl⟩
    · exact ⟨hp, hl⟩
  obtain ⟨hpow, hlink⟩ := hpower
  rw [if_neg (by simp [hhalf]), if_neg (by simp [hpow, hlink])]
  have hds : A_GCH_STAT n ≠ A_GCH_DS n := by simp only [A_GCH_STAT, A_GCH_DS]; omega
  have hflt : A_GCH_STAT n ≠ A_GCH_FLT n := by simp only [A_GCH_STAT, A_GCH_FLT]; omega
  exact (Dev.when_keeps _ (·.get (GCH_STAT_NTC n))
      (Dev.get_set_addr (f := GCH_DS_NTC_INV n) (g := GCH_STAT_NTC n) _ _ hds)).trans
    ((Dev.get_gchShowCause (f := GCH_STAT_NTC n) _ hflt).trans
      (Dev.get_set_byte (f := GCH_STAT_NTC n) _ _ rfl (show 8 + 8 ≤ 64 by decide)))

theorem gateLinkTrainingFail_shows (s : State) (n : Fin 14) (hp : s.powered) (ha : s.dev.active = true)
    (hu : s.dev.used n = true) (ht : s.dev.trained n = false) :
    Completes (.gateLinkTrainingFail n) s fun t => t.dev.tb SYS_GLINK_FAIL n = true := by
  refine completes_main (show exec _ _ = execGateLinkTrainingFail n s from rfl) hp ?_
  rw [if_pos (by simp [ha, hu, ht])]
  exact Dev.tb_setBits_same _ n.isLt (by decide)

/-! ## Edges -/

/-- A step for each of a list reaches `G` at the one of `n`: the steps before it keep `I`, and those after it keep `G`. -/
theorem eachOf_reaches {I G : Dev → Prop} {f : Nat → Dev → Dev} {n : Nat} (hI : ∀ m e, m ≠ n → I e → I (f m e))
    (hn : ∀ e, I e → G (f n e)) (hG : ∀ m e, G e → G (f m e)) :
    ∀ {l : List Nat} {d : Dev}, n ∈ l → I d → G (d.eachOf l f) := by
  intro l
  induction l with
  | nil => simp
  | cons m l ih =>
    intro d hmem h
    show G ((f m d).eachOf l f)
    by_cases hm : m = n
    · exact kept_eachOf (hm ▸ hn d h) fun _ => hG _ _
    · exact ih ((List.mem_cons.mp hmem).resolve_left fun e => hm e.symm) (hI m d hm h)

/-- A channel acts as one switch with itself. -/
theorem Dev.mem_switchOf (d : Dev) {n : Nat} (hn : n < 14) : n ∈ d.switchOf n := by
  unfold Dev.switchOf
  split
  · next h =>
    simp only [Bool.and_eq_true, decide_eq_true_eq] at h
    simp only [List.mem_cons, List.not_mem_nil, or_false]
    omega
  · exact List.mem_singleton_self n

/-- The switch `m` takes an edge of strength `k` with a blanking window of `b` ns, if it is ACTIVE and linked, and for an on-edge
both its paths permit. -/
def Dev.edgeStep (d : Dev) (on : Bool) (b k m : Nat) : Dev :=
  if d.get (GCH_STAT_STATE m) = 2 ∧ (d.gchAt m).link ∧ (d.permits m ∨ !on) then
    let d := d.gchUpd m fun q => { q with blankEnd := d.mono + b }
    if on then d.gateOnBy m d.mono k else d.gateOffBy m k
  else d

/-- An edge that arrives at channel `n` is taken off its link. -/
def Dev.edgeTaken (d : Dev) (n : Nat) : Dev := d.gchUpd n fun h => { h with edge := none }

/-- The edge is executed by every channel that acts as one switch with channel `n`. -/
def Dev.edgeRun (d : Dev) (n : Nat) (on : Bool) (b k : Nat) : Dev :=
  (d.edgeTaken n).eachOf ((d.edgeTaken n).switchOf n) fun m d => d.edgeStep on b k m

theorem exec_gateEdge {s : State} {n : Fin 14} {on : Bool} (hp : s.powered) (hedge : (s.dev.gchAt n).edge = some on) :
    exec (.gateEdge n) s =
      .next { s with dev := s.dev.edgeRun n on (s.dev.gchAt n).blankNs ((s.dev.edgeTaken n).segOf n on) } := by
  refine (show exec _ _ = execGateEdge n s from rfl).trans ((State.main_powered _ hp).trans ?_)
  simp only [hedge]
  rfl

section
variable (d : Dev) {n m : Nat} (on : Bool) (b k : Nat)

theorem Dev.gchAt_gateOnBy (t : Nat) : ((d.gateOnBy n t k).gchAt n).gate = true ∧
    ((d.gateOnBy n t k).gchAt n).edge = (d.gchAt n).edge := by
  unfold Dev.gateOnBy
  split
  · next h => exact ⟨h, rfl⟩
  · rw [Dev.set_gchAt, Dev.gchAt_gchUpd_same]
    exact ⟨rfl, rfl⟩

theorem Dev.gchAt_gateOffBy : ((d.gateOffBy n k).gchAt n).gate = false ∧
    ((d.gateOffBy n k).gchAt n).edge = (d.gchAt n).edge := by
  unfold Dev.gateOffBy
  split
  · rw [Dev.set_gchAt, Dev.gchAt_gchUpd_same]
    exact ⟨rfl, rfl⟩
  · next h => exact ⟨by simpa using h, rfl⟩

theorem Dev.gchAt_gateOnBy_ne (t : Nat) (h : n ≠ m) : (d.gateOnBy m t k).gchAt n = d.gchAt n := by
  unfold Dev.gateOnBy
  split
  · rfl
  · rw [Dev.set_gchAt, Dev.gchAt_gchUpd_ne _ _ h]

theorem Dev.gchAt_gateOffBy_ne (h : n ≠ m) : (d.gateOffBy m k).gchAt n = d.gchAt n := by
  unfold Dev.gateOffBy
  split
  · rw [Dev.set_gchAt, Dev.gchAt_gchUpd_ne _ _ h]
  · rfl

/-- A switch that takes the edge follows it. -/
theorem Dev.gchAt_edgeStep (hst : d.get (GCH_STAT_STATE n) = 2) (hl : (d.gchAt n).link = true)
    (hperm : d.permits n = true ∨ (!on) = true) :
    ((d.edgeStep on b k n).gchAt n).gate = on ∧ ((d.edgeStep on b k n).gchAt n).edge = (d.gchAt n).edge := by
  have hedge : ∀ f : Gch → Gch, (∀ h, (f h).edge = h.edge) → ((d.gchUpd n f).gchAt n).edge = (d.gchAt n).edge := by
    intro f hf
    rw [Dev.gchAt_gchUpd_same, hf]
  unfold Dev.edgeStep
  rw [if_pos ⟨hst, hl, hperm⟩]
  cases on with
  | false => exact (Dev.gchAt_gateOffBy _ k).imp_right fun h => h.trans (hedge _ fun _ => rfl)
  | true => exact (Dev.gchAt_gateOnBy _ k _).imp_right fun h => h.trans (hedge _ fun _ => rfl)

/-- An edge of another switch leaves the channel alone. -/
theorem Dev.gchAt_edgeStep_ne (h : n ≠ m) : (d.edgeStep on b k m).gchAt n = d.gchAt n := by
  unfold Dev.edgeStep
  split
  · cases on with
    | false => exact (Dev.gchAt_gateOffBy_ne _ k h).trans (Dev.gchAt_gchUpd_ne _ _ h)
    | true => exact (Dev.gchAt_gateOnBy_ne _ k _ h).trans (Dev.gchAt_gchUpd_ne _ _ h)
  · rfl

/-- A gate write of another channel leaves the channel's state alone. -/
theorem Dev.get_state_setGate_ne (v : Nat) (h : n ≠ m) :
    (d.set (GCH_STAT_GATE m) v).get (GCH_STAT_STATE n) = d.get (GCH_STAT_STATE n) :=
  Dev.get_set_addr (f := GCH_STAT_GATE m) (g := GCH_STAT_STATE n) d v (by dsimp only; omega)

theorem Dev.get_state_gateOnBy_ne (t : Nat) (h : n ≠ m) :
    (d.gateOnBy m t k).get (GCH_STAT_STATE n) = d.get (GCH_STAT_STATE n) := by
  unfold Dev.gateOnBy
  split
  · rfl
  · exact (Dev.get_state_setGate_ne _ 1 h).trans (Dev.gchUpd_get ..)

theorem Dev.get_state_gateOffBy_ne (h : n ≠ m) : (d.gateOffBy m k).get (GCH_STAT_STATE n) = d.get (GCH_STAT_STATE n) := by
  unfold Dev.gateOffBy
  split
  · exact (Dev.get_state_setGate_ne _ 0 h).trans (Dev.gchUpd_get ..)
  · rfl

theorem Dev.get_state_edgeStep_ne (h : n ≠ m) :
    (d.edgeStep on b k m).get (GCH_STAT_STATE n) = d.get (GCH_STAT_STATE n) := by
  unfold Dev.edgeStep
  split
  · cases on with
    | false => exact (Dev.get_state_gateOffBy_ne _ k h).trans (Dev.gchUpd_get ..)
    | true => exact (Dev.get_state_gateOnBy_ne _ k _ h).trans (Dev.gchUpd_get ..)
  · rfl

/-- A switch that has followed the edge stays so. -/
theorem Dev.gchAt_edgeStep_again (hg : (d.gchAt n).gate = on) :
    ((d.edgeStep on b k m).gchAt n).gate = on ∧ ((d.edgeStep on b k m).gchAt n).edge = (d.gchAt n).edge := by
  by_cases hm : n = m
  · subst hm
    by_cases h : d.get (GCH_STAT_STATE n) = 2 ∧ (d.gchAt n).link = true ∧ (d.permits n = true ∨ (!on) = true)
    · exact d.gchAt_edgeStep on b k h.1 h.2.1 h.2.2
    · rw [Dev.edgeStep, if_neg h]
      exact ⟨hg, rfl⟩
  · rw [d.gchAt_edgeStep_ne on b k hm]
    exact ⟨hg, rfl⟩
end

/-- A channel may take the edge `on` that has just come off its link. -/
def Dev.takesEdge (d : Dev) (n : Nat) (on : Bool) : Prop :=
  (d.gchAt n).edge = none ∧ (d.gchAt n).link = true ∧ (d.permits n = true ∨ (!on) = true) ∧ d.get (GCH_STAT_STATE n) = 2

theorem gateEdge_follows (s : State) (n : Fin 14) (on : Bool) (hp : s.powered) (hedge : (s.dev.gchAt n).edge = some on)
    (hst : s.dev.get (GCH_STAT_STATE n) = 2) (hl : (s.dev.gchAt n).link = true)
    (hperm : s.dev.permits n = true ∨ (!on) = true) :
    Completes (.gateEdge n) s fun t => (t.dev.gchAt n).gate = on ∧ (t.dev.gchAt n).edge = none := by
  refine ⟨_, exec_gateEdge hp hedge, ?_⟩
  refine eachOf_reaches (I := fun d => d.takesEdge n on) (G := fun d => (d.gchAt n).gate = on ∧ (d.gchAt n).edge = none)
    (fun m e hm h => ?_) (fun e h => ?_) (fun m e h => ?_) (Dev.mem_switchOf _ n.isLt) ?_
  · have hsame := e.gchAt_edgeStep_ne on (s.dev.gchAt n).blankNs ((s.dev.edgeTaken n).segOf n on) (Ne.symm hm)
    unfold Dev.takesEdge Dev.permits at h ⊢
    rwa [hsame, e.get_state_edgeStep_ne _ _ _ (Ne.symm hm)]
  · obtain ⟨hnone, hlink, hperm, hstate⟩ := h
    exact (e.gchAt_edgeStep on _ _ hstate hlink hperm).imp_right fun h => h.trans hnone
  · exact (e.gchAt_edgeStep_again on _ _ h.1).imp_right fun h' => h'.trans h.2
  · unfold Dev.takesEdge Dev.permits Dev.edgeTaken
    rw [Dev.gchAt_gchUpd_same, Dev.gchUpd_get]
    exact ⟨rfl, hl, hperm, hst⟩

/-! ## Learning -/

theorem Dev.binOf_le (d : Dev) (n c : Nat) : d.binOf n c ≤ 7 := by
  have hfold : ∀ (l : List Nat) (b : Nat), (∀ k ∈ l, k < 7) → b ≤ 7 →
      l.foldl (fun b k => if 4 * ((d.get (GCH_BIN_B n)) / 2 ^ (8 * k) % 256) ≤ c then k + 1 else b) b ≤ 7 := by
    intro l
    induction l with
    | nil => exact fun b _ hb => hb
    | cons k l ih =>
      intro b hl hb
      refine ih _ (fun j hj => hl j (List.mem_cons_of_mem _ hj)) ?_
      have hk := hl k (List.mem_cons_self ..)
      dsimp only
      split <;> omega
  exact hfold _ _ (fun k hk => List.mem_range.mp hk) (Nat.zero_le _)

@[simp] theorem Dev.tableLoad_reg (d : Dev) (n a : Nat) : (d.tableLoad n).reg a = d.reg a := rfl
@[simp] theorem Dev.tableLoad_get (d : Dev) (n : Nat) (f : Fld) : (d.tableLoad n).get f = d.get f := rfl

/-- What the measurement of an edge leaves before anything is learned from it. -/
def Dev.edgeMeasured (d : Dev) (n : Nat) (on : Bool) (t code vdsOff : Nat) : Dev :=
  let b := d.binOf n code
  let d := d.gchUpd n fun h => { h with strength := 24 }
  let d := d.set (GCH_MEAS_VDS_OFF n) vdsOff
  let d := d.set (if on then GCH_MEAS_SNS_ON n else GCH_MEAS_SNS_OFF n) code
  let d := d.set (if on then GCH_MEAS_BIN_ON n else GCH_MEAS_BIN_OFF n) b
  let d := d.gchUpd n fun h => if on then { h with lastOn := b } else { h with lastOff := b }
  (d.gchUpd n fun h => { h with tsT := d.time }).set (if on then GCH_STAT_TS_ON n else GCH_STAT_TS_OFF n) t

section
variable (d : Dev) (n : Nat) (on : Bool) (t code vdsOff : Nat)

/-- A measurement writes GCH_MEAS and GCH_STAT. -/
theorem Dev.reg_edgeMeasured_ne {a : Nat} (hm : a ≠ A_GCH_MEAS n) (hs : a ≠ A_GCH_STAT n) :
    (d.edgeMeasured n on t code vdsOff).reg a = d.reg a := by
  have hvds : a ≠ (GCH_MEAS_VDS_OFF n).addr := hm
  have hsns : a ≠ (if on then GCH_MEAS_SNS_ON n else GCH_MEAS_SNS_OFF n).addr := by split <;> exact hm
  have hbin : a ≠ (if on then GCH_MEAS_BIN_ON n else GCH_MEAS_BIN_OFF n).addr := by split <;> exact hm
  have hts : a ≠ (if on then GCH_STAT_TS_ON n else GCH_STAT_TS_OFF n).addr := by split <;> exact hs
  unfold Dev.edgeMeasured
  dsimp only
  rw [Dev.reg_set_ne _ _ hts, Dev.gchUpd_reg, Dev.gchUpd_reg, Dev.reg_set_ne _ _ hbin, Dev.reg_set_ne _ _ hsns,
    Dev.reg_set_ne _ _ hvds, Dev.gchUpd_reg]

/-- What is learned from a measurement writes the tables and the counts of the channel. -/
theorem Dev.reg_edgeLearn {a : Nat} (hon : a ≠ A_GCH_SEGON n) (hoff : a ≠ A_GCH_SEGOFF n) (hcnt : a ≠ A_GCH_CNT n)
    (hfree : raiseFree a) :
    (d.edgeLearn n on (some t) code vdsOff).reg a = (d.edgeMeasured n on t code vdsOff).reg a := by
  unfold Dev.edgeLearn
  extract_lets h bUse seg s b d1 d2 d3 d4 d5 m g cst run learn
  have hm : m = d.edgeMeasured n on t code vdsOff := rfl
  have hseg : ∀ b, a ≠ (seg b).addr := fun b => by
    unfold seg
    cases on
    · exact hoff
    · exact hon
  clear_value m
  subst hm
  refine iteInduction (motive := fun e : Dev => e.reg a = _) (fun _ => rfl) fun hn => ?_
  dsimp only
  refine iteInduction (motive := fun e : Dev => e.reg a = _) (fun _ => Dev.reg_count_ne _ hcnt) fun _ => ?_
  refine iteInduction (motive := fun e : Dev => e.reg a = _) (fun _ => rfl) fun _ => ?_
  refine (Dev.when_keeps _ (·.reg a) (Dev.raise_reg _ (k := 8 * n + 7) (by omega) hfree)).trans ?_
  rw [Dev.reg_count_ne _ hcnt, Dev.tableLoad_reg, Dev.reg_set_ne _ _ (hseg b)]

theorem Dev.get_edgeMeasured_ne {f : Fld} (hm : f.addr ≠ A_GCH_MEAS n) (hs : f.addr ≠ A_GCH_STAT n) :
    (d.edgeMeasured n on t code vdsOff).get f = d.get f :=
  congrArg (fieldGet · f.lo f.w) (d.reg_edgeMeasured_ne n on t code vdsOff hm hs)

/-- The measured switching time lies beside the channel's state. -/
theorem Dev.get_state_edgeMeasured : (d.edgeMeasured n on t code vdsOff).get (GCH_STAT_STATE n) = d.get (GCH_STAT_STATE n) := by
  have hmeas : (GCH_STAT_STATE n).addr ≠ A_GCH_MEAS n := by dsimp only [A_GCH_MEAS]; omega
  have hvds : (GCH_STAT_STATE n).addr ≠ (GCH_MEAS_VDS_OFF n).addr := hmeas
  have hsns : (GCH_STAT_STATE n).addr ≠ (if on then GCH_MEAS_SNS_ON n else GCH_MEAS_SNS_OFF n).addr := by split <;> exact hmeas
  have hbin : (GCH_STAT_STATE n).addr ≠ (if on then GCH_MEAS_BIN_ON n else GCH_MEAS_BIN_OFF n).addr := by split <;> exact hmeas
  have hts : ∀ e : Dev, (e.set (if on then GCH_STAT_TS_ON n else GCH_STAT_TS_OFF n) t).get (GCH_STAT_STATE n) =
      e.get (GCH_STAT_STATE n) := fun e =>
    Dev.get_set_bits _ _ (by split <;> rfl) (.inl (by split <;> exact Nat.le_of_ble_eq_true rfl))
  unfold Dev.edgeMeasured
  dsimp only
  rw [hts, Dev.gchUpd_get, Dev.gchUpd_get, Dev.get_set_addr _ _ hbin, Dev.get_set_addr _ _ hsns, Dev.get_set_addr _ _ hvds,
    Dev.gchUpd_get]

/-! ### What the measurement shows -/

theorem Dev.get_ts_edgeMeasured : (d.edgeMeasured n on t code vdsOff).get (if on then GCH_STAT_TS_ON n else GCH_STAT_TS_OFF n) =
    t % 2 ^ 16 := by
  unfold Dev.edgeMeasured
  dsimp only
  rw [Dev.get_set_same _ _ (by split <;> exact Nat.le_of_ble_eq_true rfl)]
  split <;> rfl

/-- The fields of GCH_MEAS as the measurement leaves them. -/
theorem Dev.get_edgeMeasured_meas {f : Fld} (hf : f.addr = A_GCH_MEAS n) : (d.edgeMeasured n on t code vdsOff).get f =
    (((d.set (GCH_MEAS_VDS_OFF n) vdsOff).set (if on then GCH_MEAS_SNS_ON n else GCH_MEAS_SNS_OFF n) code).set
      (if on then GCH_MEAS_BIN_ON n else GCH_MEAS_BIN_OFF n) (d.binOf n code)).get f := by
  have hts : f.addr ≠ (if on then GCH_STAT_TS_ON n else GCH_STAT_TS_OFF n).addr := by
    rw [hf]
    split <;> · dsimp only [A_GCH_MEAS]; omega
  unfold Dev.edgeMeasured
  dsimp only
  rw [Dev.get_set_addr _ _ hts]
  rfl

theorem Dev.get_bin_edgeMeasured :
    (d.edgeMeasured n on t code vdsOff).get (if on then GCH_MEAS_BIN_ON n else GCH_MEAS_BIN_OFF n) = d.binOf n code := by
  rw [Dev.get_edgeMeasured_meas _ _ _ _ _ _ (by split <;> rfl),
    Dev.get_set_same _ _ (by split <;> exact Nat.le_of_ble_eq_true rfl)]
  have hb := d.binOf_le n code
  split <;> exact Nat.mod_eq_of_lt (by dsimp only; omega)

theorem Dev.get_sns_edgeMeasured :
    (d.edgeMeasured n on t code vdsOff).get (if on then GCH_MEAS_SNS_ON n else GCH_MEAS_SNS_OFF n) = code % 2 ^ 10 := by
  rw [Dev.get_edgeMeasured_meas _ _ _ _ _ _ (by split <;> rfl), Dev.get_set_bits _ _ (by split <;> rfl)
    (.inr (by split <;> exact Nat.le_of_ble_eq_true rfl)), Dev.get_set_same _ _ (by split <;> exact Nat.le_of_ble_eq_true rfl)]
  split <;> rfl

theorem Dev.get_vdsOff_edgeMeasured : (d.edgeMeasured n on t code vdsOff).get (GCH_MEAS_VDS_OFF n) = vdsOff % 2 ^ 16 := by
  rw [Dev.get_edgeMeasured_meas _ _ _ _ _ _ rfl, Dev.get_set_bits _ _ (by split <;> rfl)
    (.inr (by split <;> exact Nat.le_of_ble_eq_true rfl)), Dev.get_set_bits _ _ (by split <;> rfl)
    (.inr (by split <;> exact Nat.le_of_ble_eq_true rfl))]
  exact Dev.get_set_same (f := GCH_MEAS_VDS_OFF n) _ _ (Nat.le_of_ble_eq_true rfl)

end

/-- No event writes a register of the gate channels. -/
theorem raiseFree_gch {a : Nat} (h : 0x40500000 ≤ a ∧ a < 0x40510000) : raiseFree a := by
  simp only [raiseFree, A_EVR_STAMP, A_EVR_PEND, A_EVR_CNT, A_SPL_CHST, A_SPL_CHCNT, A_SPL_STAT, A_SPL_CNT, A_SPL_TSTAMP]
  exact ⟨by omega, by omega, by omega, by omega, by omega, by omega, by omega⟩

theorem edgeLearn_measures (s : State) (n : Fin 14) (on : Bool) (x code : BitVec 10) (v : BitVec 16) (hp : s.powered) :
    Completes (.edgeLearn n on (some x) code v) s fun t =>
      t.dev.get (if on then GCH_STAT_TS_ON n else GCH_STAT_TS_OFF n) = x.toNat ∧
      t.dev.get (if on then GCH_MEAS_SNS_ON n else GCH_MEAS_SNS_OFF n) = code.toNat ∧
      t.dev.get (if on then GCH_MEAS_BIN_ON n else GCH_MEAS_BIN_OFF n) = s.dev.binOf n code.toNat ∧
      t.dev.get (GCH_MEAS_VDS_OFF n) = v.toNat := by
  have hn : n.val < 14 := n.isLt
  refine completes_main (show exec _ _ = execEdgeLearn n on (some x) code v s from rfl) hp ?_
  dsimp only [Option.map_some]
  have hreg : ∀ f : Fld, f.addr = A_GCH_STAT n ∨ f.addr = A_GCH_MEAS n →
      (s.dev.edgeLearn n on (some x.toNat) code.toNat v.toNat).get f =
        (s.dev.edgeMeasured n on x.toNat code.toNat v.toNat).get f := by
    intro f hf
    simp only [A_GCH_STAT, A_GCH_MEAS] at hf
    refine congrArg (fieldGet · f.lo f.w) (s.dev.reg_edgeLearn n on _ _ _ ?_ ?_ ?_ (raiseFree_gch ?_))
    · simp only [A_GCH_SEGON]; omega
    · simp only [A_GCH_SEGOFF]; omega
    · simp only [A_GCH_CNT]; omega
    · omega
  rw [hreg _ (.inl (by split <;> rfl)), hreg _ (.inr (by split <;> rfl)), hreg _ (.inr (by split <;> rfl)), hreg _ (.inr rfl)]
  rw [Dev.get_ts_edgeMeasured, Dev.get_sns_edgeMeasured, Dev.get_bin_edgeMeasured, Dev.get_vdsOff_edgeMeasured]
  have hx := x.isLt
  exact ⟨Nat.mod_eq_of_lt (by omega), Nat.mod_eq_of_lt code.isLt, rfl, Nat.mod_eq_of_lt v.isLt⟩

/-! ### A step of the table -/

section
variable (d : Dev) (n : Nat) (on : Bool) (t code vdsOff : Nat)

theorem Dev.get_cfg_edgeMeasured {f : Fld} (hf : f.addr = A_GCH_CFG n) : (d.edgeMeasured n on t code vdsOff).get f = d.get f :=
  d.get_edgeMeasured_ne n on t code vdsOff (by rw [hf]; simp only [A_GCH_CFG, A_GCH_MEAS]; omega)
    (by rw [hf]; simp only [A_GCH_CFG, A_GCH_STAT]; omega)

theorem Dev.get_vdsMin_edgeMeasured : (d.edgeMeasured n on t code vdsOff).get (GCH_DS_VDS_MIN n) = d.get (GCH_DS_VDS_MIN n) :=
  d.get_edgeMeasured_ne n on t code vdsOff (by simp only [A_GCH_MEAS]; omega) (by simp only [A_GCH_STAT]; omega)

theorem Dev.paired_edgeMeasured : (d.edgeMeasured n on t code vdsOff).paired = d.paired :=
  congrArg (decide <| · ≠ 0) (d.get_edgeMeasured_ne n on t code vdsOff (f := GCH_COM_PAIR)
    (by simp only [A_GCH_MEAS]; omega) (by simp only [A_GCH_STAT]; omega))

theorem Dev.groupOf_edgeMeasured (m : Nat) : (d.edgeMeasured n on t code vdsOff).groupOf m = d.groupOf m := by
  simp only [Dev.groupOf, Dev.paired_edgeMeasured]

theorem Dev.groupOf_lt (m : Nat) : d.groupOf m < 2 := by
  unfold Dev.groupOf
  split <;> omega

theorem Dev.get_clu_edgeMeasured (m : Nat) : (d.edgeMeasured n on t code vdsOff).get (CLU_STAT_STATE (d.groupOf m)) =
    d.get (CLU_STAT_STATE (d.groupOf m)) := by
  have hg := d.groupOf_lt m
  exact d.get_edgeMeasured_ne n on t code vdsOff (by simp only [A_GCH_MEAS]; omega) (by simp only [A_GCH_STAT]; omega)

end

/-- A transition slower than its target, in a run that learns, moves the segments of its bin up. -/
theorem Dev.edgeLearn_steps (d : Dev) {n : Nat} {t code vdsOff : Nat} (hn : n < 12) (hlearn : d.bit (GCH_CFG_LEARN n) = true)
    (hpair : d.paired = false) (hst : d.get (GCH_STAT_STATE n) = 2) (hrun : d.get (CLU_STAT_STATE (d.groupOf n)) = 3)
    (hvds : d.get (GCH_DS_VDS_MIN n) ≤ vdsOff) (hbin : d.binOf n code = (d.gchAt n).lastOn)
    (hbins : d.tb (GCH_CFG_LEARN_BINS n) (d.gchAt n).lastOn = true)
    (hslow : 2 * max 2 (d.get (GCH_CFG_TGT_ON n)) + d.get (GCH_CFG_BAND n) < t)
    (hmax : d.segOf n true < clampN 1 24 (d.get (GCH_CFG_SEG_MAX n))) :
    ∃ c, d.edgeLearn n true (some t) code vdsOff =
      ((((d.edgeMeasured n true t code vdsOff).set (GCH_SEGON_SEG n (d.gchAt n).lastOn) (d.segOf n true + 1)).tableLoad n).count
        (GCH_CNT_LEARN_STEP n)).when c (·.raise (8 * n + 7)) := by
  have hcfg : ∀ f : Fld, f.addr = A_GCH_CFG n → (d.edgeMeasured n true t code vdsOff).get f = d.get f :=
    fun f => d.get_cfg_edgeMeasured n true t code vdsOff
  have hmin := d.get_vdsMin_edgeMeasured n true t code vdsOff
  have hcom := d.paired_edgeMeasured n true t code vdsOff
  have hgroup := d.groupOf_edgeMeasured n true t code vdsOff n
  have hclu := d.get_clu_edgeMeasured n true t code vdsOff n
  have hstate := d.get_state_edgeMeasured n true t code vdsOff
  unfold Dev.edgeLearn
  extract_lets h bUse seg s b d1 d2 d3 d4 d5 m g cst run learn hi lo tgt band
  change m.get _ = _ at hmin hclu hstate
  change m.paired = _ at hcom
  change g = _ at hgroup
  change ∀ f, _ → m.get f = _ at hcfg
  have hb : b = bUse := hbin
  have hrun' : run = true := by simp [run, cst, hgroup, hstate, hst, hclu, hrun]
  have hlearn' : learn = true := by
    simp only [learn, hcom, hpair, Dev.bit, hcfg (GCH_CFG_LEARN n) rfl]
    simpa [Dev.bit] using hlearn
  have hbins' : m.tb (GCH_CFG_LEARN_BINS n) bUse = true := by rwa [Dev.tb, hcfg _ rfl]
  have hskip : ¬ (!learn || !m.tb (GCH_CFG_LEARN_BINS n) b || !run || decide (vdsOff < m.get (GCH_DS_VDS_MIN n)) ||
      decide (b ≠ bUse)) = true := by
    simp [hlearn', hbins', hrun', hmin, hvds, hb]
  have htgt : tgt = 2 * max 2 (d.get (GCH_CFG_TGT_ON n)) := congrArg (2 * max 2 ·) (hcfg (GCH_CFG_TGT_ON n) rfl)
  have hband : band = d.get (GCH_CFG_BAND n) := hcfg _ rfl
  have hhi : hi = clampN 1 24 (d.get (GCH_CFG_SEG_MAX n)) := congrArg (clampN 1 24) (hcfg _ rfl)
  have hslow' : tgt + band < t := by rwa [htgt, hband]
  have hup : min (s + 1) hi = s + 1 := by rw [hhi]; omega
  rw [if_neg (show ¬ 12 ≤ n by omega)]
  dsimp only
  rw [if_neg hskip, if_pos hslow', hup, if_neg (show ¬ s + 1 = s by omega), hb]
  exact ⟨_, rfl⟩

theorem edgeLearn_stepsUp (s : State) (n : Fin 12) (x code : BitVec 10) (v : BitVec 16) (hp : s.powered)
    (hlearn : s.dev.bit (GCH_CFG_LEARN n) = true) (hpair : s.dev.paired = false) (hst : s.dev.get (GCH_STAT_STATE n) = 2)
    (hrun : s.dev.get (CLU_STAT_STATE (s.dev.groupOf n)) = 3) (hvds : s.dev.get (GCH_DS_VDS_MIN n) ≤ v.toNat)
    (hbin : s.dev.binOf n code.toNat = (s.dev.gchAt n).lastOn)
    (hbins : s.dev.tb (GCH_CFG_LEARN_BINS n) (s.dev.gchAt n).lastOn = true)
    (hslow : 2 * max 2 (s.dev.get (GCH_CFG_TGT_ON n)) + s.dev.get (GCH_CFG_BAND n) < x.toNat)
    (hmax : s.dev.segOf n true < clampN 1 24 (s.dev.get (GCH_CFG_SEG_MAX n))) :
    Completes (.edgeLearn ⟨n, by omega⟩ true (some x) code v) s fun t =>
      t.dev.get (GCH_SEGON_SEG n (s.dev.gchAt n).lastOn) = s.dev.segOf n true + 1 ∧ Counted (GCH_CNT_LEARN_STEP n) s t := by
  have hn : n.val < 12 := n.isLt
  refine completes_main (show exec _ _ = execEdgeLearn ⟨n, by omega⟩ true (some x) code v s from rfl) hp ?_
  obtain ⟨c, hstep⟩ := s.dev.edgeLearn_steps hn hlearn hpair hst hrun hvds hbin hbins hslow hmax
  dsimp only [Option.map_some]
  rw [hstep]
  have hbound : (s.dev.gchAt n).lastOn ≤ 7 := hbin ▸ s.dev.binOf_le n code.toNat
  have hclamp := (clampN_bounds (s.dev.get (GCH_CFG_SEG_MAX n)) (show 1 ≤ 24 by decide)).2
  have hcnt : A_GCH_SEGON n ≠ A_GCH_CNT n := by simp only [A_GCH_SEGON, A_GCH_CNT]; omega
  have hraise : ∀ (e : Dev) {a : Nat}, 0x40500000 ≤ a ∧ a < 0x40510000 →
      (e.when c (·.raise (8 * n.val + 7))).reg a = e.reg a := fun e a ha =>
    Dev.when_keeps e (·.reg a) (Dev.raise_reg _ (by omega) (raiseFree_gch ha))
  constructor
  · rw [Dev.get, hraise _ (by dsimp only; omega), Dev.reg_count_ne _ hcnt, Dev.tableLoad_reg, ← Dev.get]
    refine (Dev.get_set_same (f := GCH_SEGON_SEG n (s.dev.gchAt n).lastOn) _ _ (by dsimp only; omega)).trans ?_
    exact Nat.mod_eq_of_lt (by dsimp only; omega)
  · rw [Counted, Dev.get, hraise _ (by dsimp only; omega)]
    refine (Dev.get_count_same (f := GCH_CNT_LEARN_STEP n) _ (by dsimp only; omega)).trans ?_
    have hsame : ((s.dev.edgeMeasured n true x.toNat code.toNat v.toNat).set (GCH_SEGON_SEG n (s.dev.gchAt n).lastOn)
        (s.dev.segOf n true + 1)).get (GCH_CNT_LEARN_STEP n) = s.dev.get (GCH_CNT_LEARN_STEP n) :=
      (Dev.get_set_addr (g := GCH_CNT_LEARN_STEP n) _ _ hcnt.symm).trans (s.dev.get_edgeMeasured_ne n true _ _ _
        (by simp only [A_GCH_MEAS]; omega) (by simp only [A_GCH_STAT]; omega))
    rw [Dev.tableLoad_get, hsame]

end Sys2Proof.Machine
end

section
/-!
One gate channel beside the others (R184 to R187): what a property of a single channel outlives when the faults of another channel
are reported and the side rule is applied again.
-/
namespace Sys2Proof.Machine

/-- `P` looks at channel `n` and at SYS only, and holds on when the channel is shown as suspected, takes a safe-state command or
an event is raised. -/
structure Own (n : Nat) (P : Dev → Prop) : Prop where
  /-- Other records than the channel's do not matter. -/
  beside : ∀ {d e : Dev}, P d → e.regs = d.regs → e.gchAt n = d.gchAt n → P e
  setReg : ∀ {d : Dev} {a : Nat} {v : BitVec 64}, P d →
    0x40010000 ≤ a → a ≠ A_GCH_STAT n → a ≠ A_GCH_FLT n → P (d.setReg a v)
  suspect : ∀ {d : Dev} {b : Bool}, P d → P (d.setB (GCH_STAT_SUSPECT n) b)
  raise : ∀ {d : Dev} {k : Nat}, P d → k < 768 → P (d.raise k)
  ascSwitch : ∀ {d : Dev} {m : Nat}, P d → P (d.ascSwitch m n)

namespace Own

variable {n m : Nat} {P : Dev → Prop} {d : Dev}

/-! ## Updates -/

theorem set (hP : Own n P) {f : Fld} {v : Nat} (h : P d) (hf : 0x40010000 ≤ f.addr := by dsimp only; omega)
    (hs : f.addr ≠ A_GCH_STAT n := by dsimp only [A_GCH_STAT]; omega)
    (hl : f.addr ≠ A_GCH_FLT n := by dsimp only [A_GCH_FLT]; omega) : P (d.set f v) :=
  hP.setReg h hf hs hl

theorem foUpd (hP : Own n P) {f : Fo → Fo} (h : P d) : P (d.foUpd m f) := hP.beside h rfl rfl

theorem gchUpd (hP : Own n P) {f : Gch → Gch} (hm : m ≠ n) (h : P d) : P (d.gchUpd m f) :=
  hP.beside h rfl (Dev.gchAt_gchUpd_ne _ _ hm.symm)

/-- A register of another channel. -/
theorem setStat (hP : Own n P) {f : Fld} {v : Nat} (hm : m ≠ n) (h : P d) (hf : f.addr = A_GCH_STAT m) : P (d.set f v) :=
  hP.set h (by rw [hf]; dsimp only [A_GCH_STAT]; omega) (by rw [hf]; dsimp only [A_GCH_STAT]; omega)
    (by rw [hf]; dsimp only [A_GCH_STAT, A_GCH_FLT]; omega)

theorem setFlt (hP : Own n P) {v : BitVec 64} (hm : m ≠ n) (h : P d) : P (d.setReg (A_GCH_FLT m) v) :=
  hP.setReg h (by dsimp only [A_GCH_FLT]; omega) (by dsimp only [A_GCH_STAT, A_GCH_FLT]; omega)
    (by simp only [A_GCH_FLT]; omega)

/-! ## Events and the journal -/

theorem raiseLim (hP : Own n P) {k c T : Nat} (h : P d) (hk : k < 768) : P (d.raiseLim k c T) := by
  unfold Dev.raiseLim
  exact iteInduction (fun _ => h) fun _ => hP.raise (hP.beside h rfl rfl) hk

theorem jnlPut (hP : Own n P) {fw : Bool} {e : JEntry} (h : P d) : P (d.jnlPut fw e) := by
  have hjnl : ∀ {j : Jnl}, P { d with jnl := j } := hP.beside h rfl rfl
  unfold Dev.jnlPut
  exact iteInduction (fun _ => hP.raiseLim (iteInduction (fun _ => hP.set hjnl) fun _ => hP.set hjnl) (by decide))
    fun _ => hP.set hjnl

theorem jnlFault (hP : Own n P) {src a b : Nat} (h : P d) : P (d.jnlFault src a b) := hP.jnlPut h

/-- A report of a channel's faults, for a property that its latches and its record's mark do not touch. -/
theorem gchReport_of (hP : Own n P) {bits : Nat} (hm : m < 14)
    (hflt : ∀ {e : Dev} {v : BitVec 64}, P e → P (e.setReg (A_GCH_FLT m) v))
    (hupd : ∀ {e : Dev}, P e → P (e.gchUpd m fun h => { h with reported := h.reported ||| bits })) (h : P d) :
    P (d.gchReport m bits) := by
  unfold Dev.gchReport
  refine kept_each (hupd (hflt (iteInduction (fun _ => hP.setReg h ?_ ?_ ?_) fun _ => h))) fun {b e} hb h =>
    kept_when h fun h => hP.jnlFault (hP.raise h ?_)
  · dsimp only [A_GCH_FSTAMP]; omega
  · dsimp only [A_GCH_FSTAMP, A_GCH_STAT]; omega
  · dsimp only [A_GCH_FSTAMP, A_GCH_FLT]; omega
  · have hoff : gchEvent b ≤ 6 := by unfold gchEvent; split <;> omega
    omega

theorem gchReport (hP : Own n P) {bits : Nat} (hne : m ≠ n) (hm : m < 14) (h : P d) : P (d.gchReport m bits) :=
  hP.gchReport_of hm (hP.setFlt hne) (hP.gchUpd hne) h

/-! ## The gate of another channel -/

theorem gateOff (hP : Own n P) (hne : m ≠ n) (h : P d) : P (d.gateOff m) := by
  unfold Dev.gateOff Dev.gateOffBy
  exact iteInduction (fun _ => hP.setStat hne (hP.gchUpd hne h) rfl) fun _ => h

theorem gchPut (hP : Own n P) {st : Nat} (hne : m ≠ n) (h : P d) : P (d.gchPut m st) := hP.setStat hne h rfl

/-! ## The side rule -/

theorem showAsc (hP : Own n P) (h : P d) : P d.showAsc := by
  unfold Dev.showAsc
  refine kept_each h fun {i e} _ h => ?_
  have hsus : ∀ {b : Bool}, P (e.setB (GCH_STAT_SUSPECT i) b) := by
    by_cases hi : i = n
    · subst hi
      exact hP.suspect h
    · exact hP.setStat hi h rfl
  have hasc : ∀ {f : Fld} {v : Nat} {e : Dev}, f.addr = A_GCH_ASC → P e → P (e.set f v) := fun hf h =>
    hP.set h (by rw [hf]; decide) (by rw [hf]; dsimp only [A_GCH_ASC, A_GCH_STAT]; omega)
      (by rw [hf]; dsimp only [A_GCH_ASC, A_GCH_FLT]; omega)
  have hfs : (if i < 6 then GCH_ASC_SUSP0 else GCH_ASC_SUSP1).addr = A_GCH_ASC := by split <;> rfl
  have hfn : (if i < 6 then GCH_ASC_NOON0 else GCH_ASC_NOON1).addr = A_GCH_ASC := by split <;> rfl
  extract_lets b fs fn d1 d2
  have h2 : P d2 := iteInduction (fun _ => hasc hfs hsus) fun _ => hasc hfs hsus
  exact iteInduction (fun _ => hasc hfn h2) fun _ => hasc hfn h2

theorem setMode (hP : Own n P) {g v : Nat} (h : P d) : P (d.set (ascMode g) v) := by
  unfold ascMode
  split <;> exact hP.set h

theorem ascSwitchAny (hP : Own n P) {k : Nat} (h : P d) : P (d.ascSwitch k m) := by
  by_cases hm : m = n
  · subst hm
    exact hP.ascSwitch h
  · unfold Dev.ascSwitch Dev.gateOnAt Dev.gateOnBy Dev.gchOff
    exact iteInduction (fun _ => h) fun _ => iteInduction
      (fun _ => iteInduction
        (fun _ => hP.gchPut hm (iteInduction (fun _ => h) fun _ => hP.setStat hm (hP.gchUpd hm h) rfl)) fun _ => h)
      fun _ => iteInduction (fun _ => hP.gchPut hm (hP.gateOff hm h)) fun _ => h

theorem applySet (hP : Own n P) {g : Nat} (h : P d) : P (d.applySet g) := by
  unfold Dev.applySet
  exact hP.setMode (kept_eachOf (kept_eachOf (hP.showAsc h) fun _ h => hP.ascSwitchAny h) fun _ h => hP.ascSwitchAny h)

theorem sidesAgain (hP : Own n P) (h : P d) : P d.sidesAgain := by
  unfold Dev.sidesAgain
  exact kept_each (hP.showAsc h) fun _ h => iteInduction (fun _ => hP.applySet h) fun _ => h

/-! ## Field outputs -/

theorem foPut (hP : Own n P) {i st drive : Nat} (hn : n < 14) (h : P d) : P (d.foPut i st drive) := by
  unfold Dev.foPut
  exact hP.foUpd (hP.set (hP.set (kept_when h fun h => hP.set h)))

theorem foHoldAll (hP : Own n P) (hn : n < 14) (h : P d) : P d.foHoldAll := by
  unfold Dev.foHoldAll Dev.foHold
  refine kept_each h fun _ h => iteInduction (fun _ => h) fun _ => iteInduction ?_ fun _ => iteInduction ?_ fun _ => h
  · exact fun _ => iteInduction (fun _ => h) fun _ => hP.foPut hn h
  · exact fun _ => iteInduction (fun _ => hP.foPut hn h) fun _ => hP.foPut hn h

end Own

/-! ## What training shows -/

/-- Channel `n` is linked and synchronised, with supplies `vp` and `vn` shown and `g` in SYS_GLINK. -/
def Dev.Linked (d : Dev) (n : Nat) (g : BitVec 64) (vp vn : Nat) : Prop :=
  d.reg A_SYS_GLINK = g ∧ (d.gchAt n).link = true ∧ (d.gchAt n).sync = true ∧ d.get (GCH_STAT_VPOS n) = vp ∧
    d.get (GCH_STAT_VNEG n) = vn

namespace Dev.Linked

variable {d e : Dev} {n vp vn : Nat} {g : BitVec 64}

theorem beside (h : d.Linked n g vp vn) (hr : e.regs = d.regs) (hl : (e.gchAt n).link = (d.gchAt n).link)
    (hs : (e.gchAt n).sync = (d.gchAt n).sync) : e.Linked n g vp vn := by
  obtain ⟨hg, hlink, hsync, hvp, hvn⟩ := h
  have hreg : ∀ a, e.reg a = d.reg a := fun a => by rw [Dev.reg, hr, Dev.reg]
  exact ⟨(hreg _).trans hg, hl.trans hlink, hs.trans hsync, (congrArg (fieldGet · _ _) (hreg _)).trans hvp,
    (congrArg (fieldGet · _ _) (hreg _)).trans hvn⟩

theorem gchUpd (h : d.Linked n g vp vn) {f : Gch → Gch} (hl : ∀ q, (f q).link = q.link := by exact fun _ => rfl)
    (hs : ∀ q, (f q).sync = q.sync := by exact fun _ => rfl) : (d.gchUpd n f).Linked n g vp vn :=
  h.beside rfl (by rw [Dev.gchAt_gchUpd_same, hl]) (by rw [Dev.gchAt_gchUpd_same, hs])

theorem setReg (h : d.Linked n g vp vn) {a : Nat} {v : BitVec 64} (ha : 0x40010000 ≤ a) (hs : a ≠ A_GCH_STAT n) :
    (d.setReg a v).Linked n g vp vn := by
  obtain ⟨hg, hlink, hsync, hvp, hvn⟩ := h
  exact ⟨(Dev.reg_setReg_ne d v (by dsimp only [A_SYS_GLINK]; omega)).trans hg, hlink, hsync,
    (Dev.get_setReg_ne (f := GCH_STAT_VPOS n) d v hs.symm).trans hvp,
    (Dev.get_setReg_ne (f := GCH_STAT_VNEG n) d v hs.symm).trans hvn⟩

/-- State, gate and suspicion lie below the supplies in GCH_STAT. -/
theorem setLow (h : d.Linked n g vp vn) {f : Fld} {v : Nat} (hf : f.addr = A_GCH_STAT n) (hlow : f.lo + f.w ≤ 8) :
    (d.set f v).Linked n g vp vn := by
  obtain ⟨hg, hlink, hsync, hvp, hvn⟩ := h
  exact ⟨(Dev.reg_set_ne d v (by rw [hf]; dsimp only [A_SYS_GLINK, A_GCH_STAT]; omega)).trans hg, hlink, hsync,
    (Dev.get_set_bits (g := GCH_STAT_VPOS n) d v hf.symm (.inr (by dsimp only; omega))).trans hvp,
    (Dev.get_set_bits (g := GCH_STAT_VNEG n) d v hf.symm (.inr (by dsimp only; omega))).trans hvn⟩

theorem ite {c : Prop} [Decidable c] (h : d.Linked n g vp vn) (h' : e.Linked n g vp vn) :
    (if c then d else e).Linked n g vp vn := by
  split <;> assumption

theorem when (h : d.Linked n g vp vn) {c : Bool} {f : Dev → Dev} (hf : (f d).Linked n g vp vn) :
    (d.when c f).Linked n g vp vn :=
  .ite hf h

theorem gateOff (h : d.Linked n g vp vn) : (d.gateOff n).Linked n g vp vn := by
  unfold Dev.gateOff Dev.gateOffBy
  exact .ite (h.gchUpd.setLow rfl (Nat.le_of_ble_eq_true rfl)) h

theorem gateOnAt (h : d.Linked n g vp vn) {t : Nat} : (d.gateOnAt n t).Linked n g vp vn := by
  unfold Dev.gateOnAt Dev.gateOnBy
  exact .ite h (h.gchUpd.setLow rfl (Nat.le_of_ble_eq_true rfl))

theorem gchPut (h : d.Linked n g vp vn) {st : Nat} : (d.gchPut n st).Linked n g vp vn :=
  h.setLow rfl (Nat.le_of_ble_eq_true rfl)

theorem driveEval (h : d.Linked n g vp vn) : (d.driveEval n).Linked n g vp vn := by
  unfold Dev.driveEval
  exact .ite h.gchPut (.ite h.gateOff.gchPut h)

theorem ascSwitch (h : d.Linked n g vp vn) {m : Nat} : (d.ascSwitch m n).Linked n g vp vn := by
  unfold Dev.ascSwitch
  exact .ite h (.ite (.ite h.gateOnAt.gchPut h) (.ite h.gateOff.gchPut h))

theorem own (hn : n < 14) : Own n fun d => d.Linked n g vp vn where
  beside h hr hg := h.beside hr (by rw [hg]) (by rw [hg])
  setReg h ha hs _ := h.setReg ha hs
  suspect h := h.setLow rfl (Nat.le_of_ble_eq_true rfl)
  raise {d k} h hk := by
    obtain ⟨hg, hlink, hsync, hvp, hvn⟩ := h
    have hstat : (d.raise k).reg (A_GCH_STAT n) = d.reg (A_GCH_STAT n) :=
      Dev.raise_reg d hk (raiseFree_gch (by dsimp only [A_GCH_STAT]; omega))
    refine ⟨(quiet_reg (.inl (by decide)) (· = g)).raise hg hk, ?_, ?_, ?_, ?_⟩
    · rwa [Dev.raise_gchAt]
    · rwa [Dev.raise_gchAt]
    · exact (congrArg (fieldGet · _ _) hstat).trans hvp
    · exact (congrArg (fieldGet · _ _) hstat).trans hvn
  ascSwitch h := h.ascSwitch

end Dev.Linked

/-- What training writes into SYS_GLINK. -/
def Dev.glinkTrained (d : Dev) (n : Nat) : Dev := (d.setBits SYS_GLINK_TRAINED (2 ^ n)).clrBits SYS_GLINK_FAIL (2 ^ n)

/-- It writes no other register, and looks at none. -/
theorem Dev.reg_glinkTrained {d e : Dev} (n : Nat) (h : e.reg A_SYS_GLINK = d.reg A_SYS_GLINK) :
    (e.glinkTrained n).reg A_SYS_GLINK = (d.glinkTrained n).reg A_SYS_GLINK := by
  have hset : ∀ {d e : Dev} {f : Fld} {v w : Nat}, f.addr = A_SYS_GLINK → e.reg A_SYS_GLINK = d.reg A_SYS_GLINK → v = w →
      (e.set f v).reg A_SYS_GLINK = (d.set f w).reg A_SYS_GLINK := by
    rintro d e f v _ hf hr rfl
    rw [← hf, Dev.reg_set_same, Dev.reg_set_same, hf, hr]
  have hget : ∀ {d e : Dev} {f : Fld}, f.addr = A_SYS_GLINK → e.reg A_SYS_GLINK = d.reg A_SYS_GLINK →
      e.get f = d.get f := by
    intro d e f hf hr
    rw [Dev.get, Dev.get, hf, hr]
  have hset1 := hset (f := SYS_GLINK_TRAINED) rfl h (congrArg (· ||| 2 ^ n) (hget (f := SYS_GLINK_TRAINED) rfl h))
  exact hset (f := SYS_GLINK_FAIL) rfl hset1 (congrArg (fun x => x - (x &&& 2 ^ n)) (hget (f := SYS_GLINK_FAIL) rfl hset1))

theorem Dev.get_glinkTrained (d : Dev) (n : Nat) {f : Fld} (hf : f.addr ≠ A_SYS_GLINK) : (d.glinkTrained n).get f = d.get f :=
  (Dev.get_set_addr _ _ hf).trans (Dev.get_set_addr _ _ hf)

/-- The device as a channel has just been found in training, its supplies shown. -/
theorem Dev.Linked.of_supplies {d : Dev} {n vp vn : Nat} (hl : (d.gchAt n).link = true) (hs : (d.gchAt n).sync = true) :
    (((d.set (GCH_STAT_VPOS n) vp).set (GCH_STAT_VNEG n) vn).glinkTrained n).Linked n ((d.glinkTrained n).reg A_SYS_GLINK)
      (vp % 2 ^ 8) (vn % 2 ^ 8) := by
  have hne : ∀ f : Fld, f.addr = A_GCH_STAT n → f.addr ≠ A_SYS_GLINK := fun f hf => by
    rw [hf]
    dsimp only [A_GCH_STAT, A_SYS_GLINK]
    omega
  refine ⟨Dev.reg_glinkTrained n ?_, hl, hs, ?_, ?_⟩
  · rw [Dev.reg_set_ne _ _ (hne (GCH_STAT_VNEG n) rfl).symm, Dev.reg_set_ne _ _ (hne (GCH_STAT_VPOS n) rfl).symm]
  · rw [Dev.get_glinkTrained _ _ (hne _ rfl),
      Dev.get_set_bits (f := GCH_STAT_VNEG n) (g := GCH_STAT_VPOS n) _ _ rfl (.inr (Nat.le_of_ble_eq_true rfl))]
    exact Dev.get_set_same (f := GCH_STAT_VPOS n) _ _ (Nat.le_of_ble_eq_true rfl)
  · rw [Dev.get_glinkTrained _ _ (hne _ rfl)]
    exact Dev.get_set_same (f := GCH_STAT_VNEG n) _ _ (Nat.le_of_ble_eq_true rfl)

/-- After training the channel is linked and shows its supplies. -/
theorem Dev.trainDone_linked (d : Dev) {n : Nat} (hn : n < 14) : (d.trainDone n).Linked n ((d.glinkTrained n).reg A_SYS_GLINK)
    ((d.gchAt n).vpos % 2 ^ 8) ((d.gchAt n).vneg % 2 ^ 8) := by
  have hP := Dev.Linked.own (g := (d.glinkTrained n).reg A_SYS_GLINK) (vp := (d.gchAt n).vpos % 2 ^ 8)
    (vn := (d.gchAt n).vneg % 2 ^ 8) hn
  unfold Dev.trainDone
  extract_lets d1 d2 d3 d4 d5 h new d6 d7 d8 st st' d9
  have h2 : (d2.gchAt n).link = true ∧ (d2.gchAt n).sync = true ∧ (d2.gchAt n).vpos = (d.gchAt n).vpos ∧
      (d2.gchAt n).vneg = (d.gchAt n).vneg := by
    simp only [d2, d1, Dev.tableLoad, Dev.gchAt_gchUpd_same, and_self]
  obtain ⟨hlink, hsync, hvpos, hvneg⟩ := h2
  have h4 : d4.Linked n ((d.glinkTrained n).reg A_SYS_GLINK) ((d.gchAt n).vpos % 2 ^ 8) ((d.gchAt n).vneg % 2 ^ 8) := by
    rw [← hvpos, ← hvneg, ← Dev.reg_glinkTrained (e := d2) n (by simp only [d2, d1, Dev.tableLoad, Dev.gchUpd_reg])]
    exact .of_supplies hlink hsync
  have h5 : d5.Linked n _ _ _ := h4.when (h4.setReg (by decide) (by dsimp only [A_GCH_STAT]; omega))
  have h6 : d6.Linked n _ _ _ := h5.when (hP.gchReport_of hn
    (fun h => h.setReg (by dsimp only [A_GCH_FLT]; omega) (by dsimp only [A_GCH_FLT, A_GCH_STAT]; omega)) (fun h => h.gchUpd) h5)
  have h7 : d7.Linked n _ _ _ := Dev.Linked.setReg h6 (by dsimp only; omega) (by dsimp only [A_GCH_STAT]; omega)
  have h8 : d8.Linked n _ _ _ := .ite h7.gchUpd h7
  have h9 : d9.Linked n _ _ _ := h8.when h8.gateOff
  exact hP.foHoldAll hn (hP.sidesAgain h9.gchPut.driveEval)

section
variable (d : Dev) {n : Nat} (hn : n < 14)
include hn

theorem Dev.glinkTrained_trained : (d.glinkTrained n).tb SYS_GLINK_TRAINED n = true :=
  (congrArg (·.testBit n) (Dev.get_set_bits (f := SYS_GLINK_FAIL) (g := SYS_GLINK_TRAINED) _ _ rfl (by decide))).trans
    (d.tb_setBits_same hn (by decide))

theorem Dev.glinkTrained_fail : (d.glinkTrained n).tb SYS_GLINK_FAIL n = false := Dev.tb_clrBits_same _ hn (by decide)

omit hn in
theorem Dev.glinkTrained_retrain (n : Nat) : (d.glinkTrained n).get SYS_GLINK_RETRAIN = d.get SYS_GLINK_RETRAIN :=
  (Dev.get_set_bits (f := SYS_GLINK_FAIL) (g := SYS_GLINK_RETRAIN) _ _ rfl (by decide)).trans
    (Dev.get_set_bits (f := SYS_GLINK_TRAINED) (g := SYS_GLINK_RETRAIN) _ _ rfl (by decide))

/-- What training leaves in SYS_GLINK. -/
theorem Dev.get_trainDone_glink {f : Fld} (hf : f.addr = A_SYS_GLINK) : (d.trainDone n).get f = (d.glinkTrained n).get f := by
  rw [Dev.get, Dev.get, hf, (d.trainDone_linked hn).1]

theorem Dev.trainDone_trained : (d.trainDone n).tb SYS_GLINK_TRAINED n = true :=
  (congrArg (·.testBit n) (d.get_trainDone_glink hn rfl)).trans (d.glinkTrained_trained hn)

theorem Dev.trainDone_fail : (d.trainDone n).tb SYS_GLINK_FAIL n = false :=
  (congrArg (·.testBit n) (d.get_trainDone_glink hn rfl)).trans (d.glinkTrained_fail hn)

end

theorem gateLinkTrainingDone_links (s : State) (n : Fin 14) (vpos vneg : BitVec 8) (hp : s.powered)
    (hcan : s.dev.canTrain n = true) (hfail : s.dev.tb SYS_GLINK_FAIL n = false) :
    Completes (.gateLinkTrainingDone (n, ⟨vpos, vneg⟩)) s fun t => t.dev.tb SYS_GLINK_TRAINED n = true ∧
      t.dev.tb SYS_GLINK_FAIL n = false ∧ (t.dev.gchAt n).link = true ∧ (t.dev.gchAt n).sync = true ∧
      t.dev.get (GCH_STAT_VPOS n) = vpos.toNat ∧ t.dev.get (GCH_STAT_VNEG n) = vneg.toNat := by
  refine completes_main (show exec _ _ = execGateLinkTrainingDone (n, ⟨vpos, vneg⟩) s from rfl) hp ?_
  dsimp only
  rw [if_pos (by simp [hcan, hfail])]
  obtain ⟨-, hlink, hsync, hvp, hvn⟩ := (s.dev.supplyRead n ⟨vpos, vneg⟩).trainDone_linked n.isLt
  have hread : ((s.dev.supplyRead n ⟨vpos, vneg⟩).gchAt n).vpos = vpos.toNat ∧
      ((s.dev.supplyRead n ⟨vpos, vneg⟩).gchAt n).vneg = vneg.toNat := by
    simp only [Dev.supplyRead, Dev.gchAt_gchUpd_same, and_self]
  refine ⟨Dev.trainDone_trained _ n.isLt, Dev.trainDone_fail _ n.isLt, hlink, hsync, hvp.trans ?_, hvn.trans ?_⟩
  · rw [hread.1]
    exact Nat.mod_eq_of_lt vpos.isLt
  · rw [hread.2]
    exact Nat.mod_eq_of_lt vneg.isLt

theorem gateLinkRetry_links (s : State) (n : Fin 14) (vpos vneg : BitVec 8) (hp : s.powered)
    (hcan : s.dev.canTrain n = true) (hfail : s.dev.tb SYS_GLINK_FAIL n = true) (hfailed : (s.dev.gchAt n).trainFailed = true) :
    Completes (.gateLinkRetry n (some ⟨vpos, vneg⟩)) s fun t => t.dev.tb SYS_GLINK_TRAINED n = true ∧
      t.dev.tb SYS_GLINK_FAIL n = false ∧ Counted SYS_GLINK_RETRAIN s t := by
  refine completes_main (show exec _ _ = execGateLinkRetry n (some ⟨vpos, vneg⟩) s from rfl) hp ?_
  dsimp only
  rw [if_neg (by simp [hcan, hfail]), hfailed, Dev.when_true]
  generalize hd : s.dev.supplyRead n ⟨vpos, vneg⟩ = d
  have hsame : d.get SYS_GLINK_RETRAIN = s.dev.get SYS_GLINK_RETRAIN := by rw [← hd, Dev.supplyRead, Dev.gchUpd_get]
  have hcount : ∀ {f : Fld}, f.addr = A_SYS_GLINK → f.lo + f.w ≤ 48 →
      ((d.trainDone n).count SYS_GLINK_RETRAIN).get f = (d.trainDone n).get f := fun hf hlow =>
    Dev.get_set_bits _ _ hf (.inl hlow)
  refine ⟨?_, ?_, ?_⟩
  · exact (congrArg (·.testBit n.val) (hcount rfl (by decide))).trans (d.trainDone_trained n.isLt)
  · exact (congrArg (·.testBit n.val) (hcount rfl (by decide))).trans (d.trainDone_fail n.isLt)
  · refine (Dev.get_count_same _ (by decide)).trans ?_
    rw [d.get_trainDone_glink n.isLt rfl, d.glinkTrained_retrain n, hsame]

end Sys2Proof.Machine
end

section
/-!
The loss of a link (R184, R185): what the lost channel keeps while the other channel of its pair reports it.
-/
namespace Sys2Proof.Machine

namespace Own

variable {n m : Nat} {P : Dev → Prop} {d : Dev}

/-! ## A fault of another channel -/

theorem gateOffBy (hP : Own n P) {k : Nat} (hne : m ≠ n) (h : P d) : P (d.gateOffBy m k) := by
  unfold Dev.gateOffBy
  exact iteInduction (fun _ => hP.setStat hne (hP.gchUpd hne h) rfl) fun _ => h

theorem gchShowCause (hP : Own n P) (hne : m ≠ n) (h : P d) : P (d.gchShowCause m) := hP.setFlt hne h

theorem gchLatch (hP : Own n P) {bits cause : Nat} (hne : m ≠ n) (hm : m < 14) (h : P d) : P (d.gchLatch m bits cause) := by
  unfold Dev.gchLatch
  exact iteInduction (fun _ => hP.gchUpd hne h) fun _ => hP.gchShowCause hne (hP.gchReport hne hm (hP.gchUpd hne h))

theorem gchTrip (hP : Own n P) {st : Nat} (hne : m ≠ n) (hm : m < 13) (h : P d) : P (d.gchTrip m st) := by
  unfold Dev.gchTrip
  rw [if_neg (by omega)]
  exact hP.gchPut hne (hP.gateOff hne (kept_when h fun h => hP.gateOffBy hne h))

theorem gchFault1 (hP : Own n P) {bits cause : Nat} {soft : Bool} {from_ : List Nat} (hne : m ≠ n) (hm : m < 13) (h : P d) :
    P (d.gchFault1 m bits cause soft from_) := by
  unfold Dev.gchFault1
  extract_lets pOff d1 d2 k
  have h1 : P d1 := hP.gchLatch hne (by omega) h
  have h2 : P d2 := iteInduction (fun _ => hP.gchUpd hne h1) fun _ => h1
  exact iteInduction (fun _ => h) fun _ => iteInduction
    (fun _ => iteInduction (fun _ => hP.gchUpd hne h2) fun _ => h2)
    fun _ => iteInduction (fun _ => hP.gchTrip hne hm h2) fun _ => h2

end Own

/-! ## The lost channel -/

/-- Channel `n` is in FAULT with its link lost, LINK latched in its half and its gate off, and shows the latches `c`. -/
def Dev.Dropped (d : Dev) (n c : Nat) : Prop :=
  (d.gchAt n).link = false ∧ (d.gchAt n).latch.testBit 9 = true ∧ (d.gchAt n).gate = false ∧
    d.get (GCH_STAT_STATE n) = 4 ∧ d.gchFlt n = c

theorem Dev.Dropped.own {n c : Nat} (hn : n < 14) : Own n fun d => d.Dropped n c where
  beside {d e} h hr hg := by
    have hreg : ∀ a, e.reg a = d.reg a := fun a => by rw [Dev.reg, hr, Dev.reg]
    simpa only [Dev.Dropped, hg, Dev.get, Dev.gchFlt, hreg] using h
  setReg {d a v} h _ hs hf := by
    obtain ⟨hl, hlatch, hgate, hst, hflt⟩ := h
    exact ⟨hl, hlatch, hgate, (Dev.get_setReg_ne (f := GCH_STAT_STATE n) d v hs.symm).trans hst,
      (congrArg (fieldGet · 0 11) (Dev.reg_setReg_ne d v hf.symm)).trans hflt⟩
  suspect {d b} h := by
    obtain ⟨hl, hlatch, hgate, hst, hflt⟩ := h
    refine ⟨hl, hlatch, hgate, (Dev.get_set_bits (f := GCH_STAT_SUSPECT n) (g := GCH_STAT_STATE n) d _ rfl
      (.inl (Nat.le_of_ble_eq_true rfl))).trans hst, (congrArg (fieldGet · 0 11) (Dev.reg_setB_ne d b ?_)).trans hflt⟩
    dsimp only [A_GCH_FLT]
    omega
  raise {d k} h hk := by
    obtain ⟨hl, hlatch, hgate, hst, hflt⟩ := h
    have hreg : ∀ {a}, 0x40500000 ≤ a ∧ a < 0x40510000 → (d.raise k).reg a = d.reg a := fun ha =>
      Dev.raise_reg d hk (raiseFree_gch ha)
    refine ⟨?_, ?_, ?_, (congrArg (fieldGet · 0 3) (hreg ?_)).trans hst, (congrArg (fieldGet · 0 11) (hreg ?_)).trans hflt⟩
    · rwa [Dev.raise_gchAt]
    · rwa [Dev.raise_gchAt]
    · rwa [Dev.raise_gchAt]
    · dsimp only; omega
    · dsimp only [A_GCH_FLT]; omega
  ascSwitch {d m} h := by
    rw [Dev.ascSwitch, if_pos (by simp [h.1])]
    exact h

/-- The other switches of a channel are power channels. -/
theorem Dev.switchOf_lt (d : Dev) {n m : Nat} (h : m ∈ d.switchOf n) (hne : m ≠ n) : m < 12 := by
  unfold Dev.switchOf at h
  split at h
  · simp only [List.mem_cons, List.not_mem_nil, or_false] at h
    omega
  · exact absurd (List.mem_singleton.mp h) hne

theorem Dev.gchAt_gateOff (d : Dev) (n : Nat) : ((d.gateOff n).gchAt n).gate = false ∧
    ((d.gateOff n).gchAt n).link = (d.gchAt n).link ∧ ((d.gateOff n).gchAt n).latch = (d.gchAt n).latch := by
  unfold Dev.gateOff Dev.gateOffBy
  split
  · rw [Dev.set_gchAt, Dev.gchAt_gchUpd_same]
    exact ⟨rfl, rfl, rfl⟩
  · next h => exact ⟨by simpa using h, rfl, rfl⟩

theorem Dev.reg_gateOff_ne (d : Dev) {n a : Nat} (h : a ≠ A_GCH_STAT n) : (d.gateOff n).reg a = d.reg a := by
  unfold Dev.gateOff Dev.gateOffBy
  split
  · exact (Dev.reg_set_ne _ _ h).trans (Dev.gchUpd_reg ..)
  · rfl

/-- A channel that has lost its link goes to FAULT with its gate off. -/
theorem Dev.Dropped.of_lost {d : Dev} {n : Nat} (hl : (d.gchAt n).link = false) (hlatch : (d.gchAt n).latch.testBit 9 = true) :
    ((d.gateOff n).gchPut n 4).Dropped n (d.gchFlt n) := by
  obtain ⟨hgate, hlink, hsame⟩ := d.gchAt_gateOff n
  have hflt : A_GCH_FLT n ≠ A_GCH_STAT n := by dsimp only [A_GCH_FLT, A_GCH_STAT]; omega
  refine ⟨hlink.trans hl, (congrArg (·.testBit 9) hsame).trans hlatch, hgate,
    Dev.get_set_same (f := GCH_STAT_STATE n) _ 4 (Nat.le_of_ble_eq_true rfl), ?_⟩
  exact congrArg (fieldGet · 0 11) ((Dev.reg_set_ne _ 4 hflt).trans (d.reg_gateOff_ne hflt))

theorem linkLoss_drops (s : State) (n : Fin 14) (hp : s.powered) (hhalf : (s.dev.gchAt n).powered = true)
    (honce : (s.dev.gchAt n).trainedOnce = true) (hn : n.val ≠ 13) (hst : s.dev.get (GCH_STAT_STATE n) = 2) :
    Completes (.linkLoss n) s fun t => t.dev.get (GCH_STAT_STATE n) = 4 ∧ (t.dev.gchAt n).link = false ∧
      (t.dev.gchAt n).latch.testBit 9 = true ∧ (t.dev.gchAt n).gate = false ∧ t.dev.gchFlt n = s.dev.gchFlt n := by
  refine completes_always (show exec _ _ = execLinkLoss n s from rfl) ?_
  extract_lets d st e
  have hdev : d.unpowered = false := hp
  have hstate : st = 2 := hst
  rw [if_neg (by simp [hhalf, honce]), if_neg (by simp [hdev])]
  have hlost : (d.gchAt n).link = false ∧ (d.gchAt n).latch.testBit 9 = true := by
    simp only [d, Dev.gchAt_gchUpd_same, Nat.testBit_or, Bool.or_eq_true]
    exact ⟨trivial, .inr (by decide)⟩
  have he : e.Dropped n (s.dev.gchFlt n) := by
    rw [show e = (d.gateOff n).gchPut n 4 from if_pos ⟨hn, .inr hstate⟩]
    exact .of_lost hlost.1 hlost.2
  have hP := Dev.Dropped.own (c := s.dev.gchFlt n) n.isLt
  have hpair : (e.eachOf ((e.switchOf n).filter fun m => m ≠ n.val) fun m d =>
      (d.gchFault1 m 0x200 0 false [1, 2]).sidesAgain).Dropped n (s.dev.gchFlt n) := by
    refine kept_eachOf (P := fun d => d.Dropped n (s.dev.gchFlt n)) he fun hm h => hP.sidesAgain (hP.gchFault1 ?_ ?_ h)
    · simpa using (List.mem_filter.mp hm).2
    · obtain ⟨hmem, hne⟩ := List.mem_filter.mp hm
      have hlt := e.switchOf_lt hmem (by simpa using hne)
      omega
  obtain ⟨hl, hlatch, hgate, hstate, hflt⟩ := hpair
  exact ⟨hstate, hl, hlatch, hgate, hflt⟩

end Sys2Proof.Machine
end

section
/-!
A channel that is not linked stays so (R77, R184): whatever Thimble and the side rule do as its group goes to its safe state and
the demands are evaluated, nothing but training links a channel. One rule for each operation.
-/
namespace Sys2Proof.Machine

/-- A raise leaves SYS alone, whatever its source. -/
theorem Dev.raise_reg_sys (d : Dev) {a : Nat} (k : Nat) (ha : a < 0x40010000) : (d.raise k).reg a = d.reg a := by
  have hpend : ∀ (t : Nat) (e : Dev), (e.evrPend t k).reg a = e.reg a := by
    intro t e
    unfold Dev.evrPend
    dsimp only
    split
    · rw [Dev.reg_count_ne _ (by dsimp only; omega), Dev.evrKeep_reg]
    · rw [Dev.reg_set_ne _ _ (by dsimp only [evrBit, A_EVR_PEND]; omega), Dev.evrKeep_reg]
  have hfree : raiseFree a := by
    simp only [raiseFree, A_EVR_STAMP, A_EVR_PEND, A_EVR_CNT, A_SPL_CHST, A_SPL_CHCNT, A_SPL_STAT, A_SPL_CNT, A_SPL_TSTAMP]
    exact ⟨by omega, by omega, by omega, by omega, by omega, by omega, by omega⟩
  unfold Dev.raise
  dsimp only
  rw [Dev.trigCause_keeps _ (·.reg a) fun _ _ => rfl, Dev.splEvent_reg _ _ hfree,
    Dev.each_keeps _ (·.reg a) 6 fun t e => e.when_keeps (·.reg a) (hpend t e),
    Dev.reg_setReg_ne _ _ (by dsimp only [A_EVR_STAMP]; omega)]

/-- Channel `x` is not trained, and its half not linked. -/
def Dev.Cut (d : Dev) (x : Nat) : Prop := d.tb SYS_GLINK_TRAINED x = false ∧ (d.gchAt x).link = false

namespace Dev.Cut

variable {d e : Dev} {x : Nat}

/-! ## Updates -/

theorem of_same (h : d.Cut x) (hr : e.reg A_SYS_GLINK = d.reg A_SYS_GLINK) (hl : (e.gchAt x).link = (d.gchAt x).link) :
    e.Cut x := by
  obtain ⟨htrained, hlink⟩ := h
  refine ⟨?_, hl.trans hlink⟩
  rw [← htrained]
  exact congrArg (fun r => (fieldGet r SYS_GLINK_TRAINED.lo SYS_GLINK_TRAINED.w).testBit x) hr

theorem beside (h : d.Cut x) (hr : e.regs = d.regs) (hg : e.gch = d.gch) : e.Cut x :=
  h.of_same (by rw [Dev.reg, hr, Dev.reg]) (by rw [Dev.gchAt, hg, Dev.gchAt])

theorem setReg (h : d.Cut x) {a : Nat} {v : BitVec 64} (ha : 0x40010000 ≤ a) : (d.setReg a v).Cut x :=
  h.of_same (Dev.reg_setReg_ne d v (by dsimp only [A_SYS_GLINK]; omega)) rfl

/-- A field beyond SYS; the hypothesis is one that `rfl` shows. -/
theorem set (h : d.Cut x) {f : Fld} {v : Nat} (hf : Nat.ble 0x40010000 f.addr = true) : (d.set f v).Cut x :=
  h.setReg (Nat.le_of_ble_eq_true hf)

/-- A field of a numbered register beyond SYS. -/
theorem setAt (h : d.Cut x) {a k lo w v : Nat} (ha : Nat.ble 0x40010000 a = true) : (d.set ⟨a + k, lo, w⟩ v).Cut x :=
  h.setReg (Nat.le_add_right_of_le (Nat.le_of_ble_eq_true ha))

theorem setMode (h : d.Cut x) {g v : Nat} : (d.set (ascMode g) v).Cut x :=
  h.setReg (Nat.le_trans (Nat.le_of_ble_eq_true rfl) (ascMode_addr g))

/-- A failure is marked beside the trained channels. -/
theorem setFail (h : d.Cut x) {v : Nat} : (d.setBits SYS_GLINK_FAIL v).Cut x := by
  have hsame : (d.setBits SYS_GLINK_FAIL v).get SYS_GLINK_TRAINED = d.get SYS_GLINK_TRAINED :=
    Dev.get_set_bits (f := SYS_GLINK_FAIL) (g := SYS_GLINK_TRAINED) d _ rfl (by decide)
  obtain ⟨htrained, hlink⟩ := h
  exact ⟨by rwa [Dev.tb, hsame], hlink⟩

/-- The clock controller writes SYS_CLKSTAT. -/
theorem pllEval (h : d.Cut x) {p : Nat} : (d.pllEval p).Cut x := by
  obtain hsame | ⟨v, -, -, hset⟩ := d.pllEval_cases p
  · rwa [hsame]
  · rw [hset]
    exact h.of_same (Dev.reg_set_ne d v (by rw [pllFld_addr]; decide)) rfl

theorem gchUpd (h : d.Cut x) {n : Nat} {f : Gch → Gch} (hf : ∀ q, (f q).link = q.link) :
    (d.gchUpd n f).Cut x := by
  refine h.of_same rfl ?_
  by_cases hn : x = n
  · rw [hn, Dev.gchAt_gchUpd_same, hf]
  · rw [Dev.gchAt_gchUpd_ne _ _ hn]

theorem foUpd (h : d.Cut x) {n : Nat} {f : Fo → Fo} : (d.foUpd n f).Cut x := h.beside rfl rfl
theorem carUpd (h : d.Cut x) {n : Nat} {f : Car → Car} : (d.carUpd n f).Cut x := h.beside rfl rfl
theorem cluUpd (h : d.Cut x) {n : Nat} {f : Clu → Clu} : (d.cluUpd n f).Cut x := h.beside rfl rfl
theorem posUpd (h : d.Cut x) {n : Nat} {f : Pos → Pos} : (d.posUpd n f).Cut x := h.beside rfl rfl
theorem tgrpUpd (h : d.Cut x) {n : Nat} {f : ThmGrp → ThmGrp} : (d.tgrpUpd n f).Cut x := h.beside rfl rfl
theorem axisUpd (h : d.Cut x) {n : Nat} {f : Axis → Axis} : (d.axisUpd n f).Cut x := h.beside rfl rfl

/-! ## Control -/

theorem ite {c : Prop} [Decidable c] (h : d.Cut x) (h' : e.Cut x) : (if c then d else e).Cut x := by
  split <;> assumption

theorem when (h : d.Cut x) {c : Bool} {f : Dev → Dev} (hf : ∀ {d}, d.Cut x → (f d).Cut x) : (d.when c f).Cut x :=
  .ite (hf h) h

theorem eachOf {α : Type} (h : d.Cut x) {l : List α} {f : α → Dev → Dev} (hf : ∀ {i d}, d.Cut x → (f i d).Cut x) :
    (d.eachOf l f).Cut x :=
  kept_eachOf (P := fun d => d.Cut x) h fun _ => hf

theorem each (h : d.Cut x) {n : Nat} {f : Nat → Dev → Dev} (hf : ∀ {i d}, d.Cut x → (f i d).Cut x) : (d.each n f).Cut x :=
  h.eachOf hf

/-! ## Events and the journal -/

theorem raise (h : d.Cut x) {k : Nat} : (d.raise k).Cut x :=
  h.of_same (d.raise_reg_sys k (by decide)) (congrArg Gch.link (Dev.raise_gchAt ..))

theorem raiseLim (h : d.Cut x) {k c T : Nat} : (d.raiseLim k c T).Cut x := by
  unfold Dev.raiseLim
  exact .ite h (.raise (.beside h (by rfl) (by rfl)))

theorem jnlPut (h : d.Cut x) {fw : Bool} {e : JEntry} : (d.jnlPut fw e).Cut x := by
  unfold Dev.jnlPut
  have hjnl : ∀ {j : Jnl}, Dev.Cut { d with jnl := j } x := .beside h (by rfl) (by rfl)
  exact .ite (.raiseLim (.ite (.set hjnl (by rfl)) (.set hjnl (by rfl)))) (.set hjnl (by rfl))

theorem journal (h : d.Cut x) {kind src origin : Nat} {data : List (BitVec 64)} : (d.journal kind src origin data).Cut x := by
  unfold Dev.journal
  exact .jnlPut h

theorem jnlThimble (h : d.Cut x) {src : Nat} : (d.jnlThimble src).Cut x := by
  unfold Dev.jnlThimble
  exact .journal h

theorem jnlHem (h : d.Cut x) {src : Nat} : (d.jnlHem src).Cut x := by
  unfold Dev.jnlHem
  exact .journal h

/-! ## Field outputs and axes -/

theorem foPut (h : d.Cut x) {n st drive : Nat} : (d.foPut n st drive).Cut x := by
  unfold Dev.foPut
  exact .foUpd (.setAt (.setAt (.when h fun h => .setAt h (by rfl)) (by rfl)) (by rfl))

theorem foHold (h : d.Cut x) {n : Nat} : (d.foHold n).Cut x := by
  unfold Dev.foHold
  exact .ite h (.ite (.ite h (.foPut h)) (.ite (.ite (.foPut h) (.foPut h)) h))

theorem foHoldAll (h : d.Cut x) : d.foHoldAll.Cut x := by
  unfold Dev.foHoldAll
  exact .each h fun h => .foHold h

theorem axBridgesOff (h : d.Cut x) {n : Nat} : (d.axBridgesOff n).Cut x := .axisUpd h

theorem clkEval (h : d.Cut x) : d.clkEval.Cut x := by
  unfold Dev.clkEval
  exact .each h fun h => .pllEval h

theorem axPut (h : d.Cut x) {n st : Nat} : (d.axPut n st).Cut x := by
  unfold Dev.axPut
  exact .ite h (.clkEval (.raise (.setAt h (by rfl))))

theorem blindShow (h : d.Cut x) {n : Nat} : (d.blindShow n).Cut x := by
  unfold Dev.blindShow
  exact .ite (.when h fun h => .axisUpd h) (.raise (.setAt (.when h fun h => .axisUpd h) (by rfl)))

theorem axHalt (h : d.Cut x) {n : Nat} : (d.axHalt n).Cut x := by
  unfold Dev.axHalt
  exact .blindShow (.axisUpd (.setAt h (by rfl)))

theorem axHold (h : d.Cut x) {n why : Nat} : (d.axHold n why).Cut x := by
  unfold Dev.axHold
  exact .ite (.axPut (.axBridgesOff (.axHalt (.setAt (.ite (.setAt (.axisUpd h) (by rfl)) (.axisUpd h)) (by rfl))))) (.axisUpd h)

theorem axUnhold (h : d.Cut x) {n why : Nat} : (d.axUnhold n why).Cut x := by
  unfold Dev.axUnhold
  exact .ite (.axPut (.axisUpd (.axisUpd h))) (.axisUpd h)

/-! ## Gate channels -/

theorem gateOffBy (h : d.Cut x) {n s : Nat} : (d.gateOffBy n s).Cut x := by
  unfold Dev.gateOffBy
  exact .ite (.setAt (.gchUpd h (fun _ => by rfl)) (by rfl)) h

theorem gateOff (h : d.Cut x) {n : Nat} : (d.gateOff n).Cut x := by
  unfold Dev.gateOff
  exact .gateOffBy h

theorem gateOnBy (h : d.Cut x) {n t s : Nat} : (d.gateOnBy n t s).Cut x := by
  unfold Dev.gateOnBy
  exact .ite h (.setAt (.gchUpd h (fun _ => by rfl)) (by rfl))

theorem gateOnAt (h : d.Cut x) {n t : Nat} : (d.gateOnAt n t).Cut x := by
  unfold Dev.gateOnAt
  exact .gateOnBy h

theorem gchPut (h : d.Cut x) {n st : Nat} : (d.gchPut n st).Cut x := .setAt h (by rfl)

theorem gchOff (h : d.Cut x) {n : Nat} : (d.gchOff n).Cut x := by
  unfold Dev.gchOff
  exact .gchPut (.gateOff h)

theorem driveEval (h : d.Cut x) {n : Nat} : (d.driveEval n).Cut x := by
  unfold Dev.driveEval
  exact .ite (.gchPut h) (.ite (.gchOff h) h)

theorem showAsc (h : d.Cut x) : d.showAsc.Cut x := by
  unfold Dev.showAsc
  refine .each h fun {n e} h => ?_
  have hfs : Nat.ble 0x40010000 (if n < 6 then GCH_ASC_SUSP0 else GCH_ASC_SUSP1).addr = true := by split <;> rfl
  have hfn : Nat.ble 0x40010000 (if n < 6 then GCH_ASC_NOON0 else GCH_ASC_NOON1).addr = true := by split <;> rfl
  extract_lets b fs fn d1 d2
  have h2 : d2.Cut x := .ite (.set (.setAt h (by rfl)) hfs) (.set (.setAt h (by rfl)) hfs)
  exact .ite (.set h2 hfn) (.set h2 hfn)

theorem ascSwitch (h : d.Cut x) {m n : Nat} : (d.ascSwitch m n).Cut x := by
  unfold Dev.ascSwitch
  exact .ite h (.ite (.ite (.gchPut (.gateOnAt h)) h) (.ite (.gchOff h) h))

theorem applySet (h : d.Cut x) {g : Nat} : (d.applySet g).Cut x := by
  unfold Dev.applySet
  exact .setMode (.eachOf (.eachOf (.showAsc h) fun h => .ascSwitch h) fun h => .ascSwitch h)

theorem applySafe (h : d.Cut x) {g : Nat} : (d.applySafe g).Cut x := by
  unfold Dev.applySafe
  exact .eachOf h fun h => .applySet h

/-! ## Current-loop units -/

theorem carIdle (h : d.Cut x) {c : Nat} : (d.carIdle c).Cut x := by
  unfold Dev.carIdle
  exact .ite h (.each (.setAt (.carUpd h) (by rfl)) fun h => .gchUpd h (fun _ => by rfl))

theorem cluPut1 (h : d.Cut x) {g st : Nat} : (d.cluPut1 g st).Cut x := by
  unfold Dev.cluPut1
  extract_lets _ d1 d2
  have h1 : d1.Cut x := .raise (.setAt h (by rfl))
  have h2 : d2.Cut x := .ite (.ite h1 (.setMode h1)) (.setAt (.carIdle h1) (by rfl))
  exact .ite h (.clkEval (.eachOf (.ite (.ite (.cluUpd h2) h2) (.setAt (.cluUpd h2) (by rfl))) fun h => .driveEval h))

theorem cluPut (h : d.Cut x) {g st : Nat} : (d.cluPut g st).Cut x := by
  unfold Dev.cluPut
  exact .eachOf h fun h => .cluPut1 h

theorem posStamp (h : d.Cut x) {p : Nat} : (d.posStamp p).Cut x :=
  .setReg h (by dsimp only [A_POS_TST]; omega)

theorem posSrc (h : d.Cut x) {p src off : Nat} : (d.posSrc p src off).Cut x := by
  unfold Dev.posSrc
  exact .raise (.posStamp (.setAt h (by rfl)))

theorem alignAbort (h : d.Cut x) {g : Nat} : (d.alignAbort g).Cut x := by
  unfold Dev.alignAbort
  split; exacts [h, .ite (.raise (.posSrc (.setAt (.posUpd h) (by rfl)))) h]

theorem cluSafe (h : d.Cut x) {g : Nat} : (d.cluSafe g).Cut x := by
  unfold Dev.cluSafe
  exact .ite (.cluPut (.alignAbort h)) h

/-! ## The brake -/

theorem brakeShow1 (h : d.Cut x) {n : Nat} {on : Bool} : (d.brakeShow1 n on).Cut x := by
  unfold Dev.brakeShow1
  exact .foPut (.setAt h (by rfl))

theorem brakeShow (h : d.Cut x) : d.brakeShow.Cut x := by
  unfold Dev.brakeShow
  exact .set (.brakeShow1 (.brakeShow1 h)) (by rfl)

theorem brakeApply (h : d.Cut x) : d.brakeApply.Cut x := by
  unfold Dev.brakeApply
  exact .when (.set (.set (.brakeShow (.beside h (by rfl) (by rfl))) (by rfl)) (by rfl)) fun h => .raise h

theorem brakeFor (h : d.Cut x) {g : Nat} : (d.brakeFor g).Cut x := by
  unfold Dev.brakeFor
  exact .when h fun h => .brakeApply h

/-! ## Thimble -/

theorem disEnd (h : d.Cut x) {why st : Nat} : (d.disEnd why st).Cut x := by
  unfold Dev.disEnd
  extract_lets d1 d2
  have h1 : d1.Cut x := .set (.set (.gchPut (.gateOff h)) (by rfl)) (by rfl)
  have h2 : d2.Cut x := .gchUpd h1 (fun _ => by rfl)
  exact .raise (.beside h2 (by rfl) (by rfl))

theorem setPaths (h : d.Cut x) {n : Nat} {p1 p2 : Bool} : (d.setPaths n p1 p2).Cut x := .gchUpd h (fun _ => by rfl)

theorem cutPaths (h : d.Cut x) {n : Nat} : (d.cutPaths n).Cut x := by
  unfold Dev.cutPaths
  exact .ite (.gchOff (.setPaths h)) (.ite (.disEnd (.setPaths h)) (.setPaths h))

theorem cutGroup (h : d.Cut x) {g : Nat} : (d.cutGroup g).Cut x := by
  unfold Dev.cutGroup
  exact .eachOf h fun h => .eachOf h fun h => .cutPaths h

theorem carFollow (h : d.Cut x) : d.carFollow.Cut x := by
  unfold Dev.carFollow
  exact .ite (.carUpd (.setAt h (by rfl))) h

theorem carBegin (h : d.Cut x) {c : Nat} : (d.carBegin c).Cut x := .carUpd (.setAt h (by rfl))

theorem windStop (h : d.Cut x) : d.windStop.Cut x := by
  unfold Dev.windStop
  extract_lets
  split
  · exact h
  · exact .eachOf (.beside h (by rfl) (by rfl)) fun h =>
      .eachOf (.carIdle (.carUpd (.when h fun h => .carFollow (.carBegin (.setAt h (by rfl)))))) fun h => .cutPaths h

theorem thmPut (h : d.Cut x) {g st : Nat} : (d.thmPut g st).Cut x := by
  unfold Dev.thmPut
  exact .ite h (.jnlThimble (.raise (.eachOf h fun h =>
    .ite (.setAt h (by rfl)) (.tgrpUpd (.setAt (.setAt h (by rfl)) (by rfl))))))

theorem thmSafe (h : d.Cut x) {g : Nat} : (d.thmSafe g).Cut x := by
  unfold Dev.thmSafe
  exact .ite (.brakeFor (.thmPut h)) h

theorem groupSafe (h : d.Cut x) {g : Nat} {cmd : Bool} : (d.groupSafe g cmd).Cut x := by
  unfold Dev.groupSafe
  exact .applySafe (.when (.cluSafe h) fun h => .thmSafe h)

theorem thmToSto (h : d.Cut x) {g : Nat} : (d.thmToSto g).Cut x := by
  unfold Dev.thmToSto
  exact .eachOf (.brakeFor (.thmPut (.applySafe (.cluSafe (.cutGroup h))))) fun h => .setAt h (by rfl)

theorem thmStoDemand (h : d.Cut x) {g : Nat} : (d.thmStoDemand g).Cut x := by
  unfold Dev.thmStoDemand
  extract_lets _ d1
  have h1 : d1.Cut x := .applySafe (.cluSafe h)
  exact .ite (.ite (.brakeFor (.thmPut (.eachOf h1 fun h => .eachOf h fun h => .ite h (.cutPaths h)))) (.thmToSto h)) h

theorem showDemand (h : d.Cut x) {g : Nat} : (d.showDemand g).Cut x := by
  unfold Dev.showDemand
  exact .eachOf h fun h => .setAt h (by rfl)

theorem hemSafe (h : d.Cut x) {g : Nat} : (d.hemSafe g).Cut x := by
  unfold Dev.hemSafe
  exact .groupSafe (.jnlHem (.raise h))

theorem hemHold (h : d.Cut x) {why : Nat} {on : Bool} : (d.hemHold why on).Cut x := by
  unfold Dev.hemHold
  extract_lets _ _ d1 _ d2
  have h1 : d1.Cut x := .beside h (by rfl) (by rfl)
  have h2 : d2.Cut x := .foHoldAll (.raise (.set h1 (by rfl)))
  exact .ite (.foHoldAll h1) (.ite (.eachOf (.each h2 fun h => .axHold h) fun h => .hemSafe h) (.each (.foHoldAll (.raise
    (.set h1 (by rfl)))) fun h => .axUnhold h))

theorem thmLatch (h : d.Cut x) {bit src : Nat} : (d.thmLatch bit src).Cut x := by
  unfold Dev.thmLatch
  exact .ite h (.jnlThimble (.set h (by rfl)))

theorem ss1Enter (h : d.Cut x) {g : Nat} : (d.ss1Enter g).Cut x := by
  unfold Dev.ss1Enter
  extract_lets _ d1 d2
  have h1 : d1.Cut x := .eachOf (.raise (.thmPut h)) fun h => .setAt (.tgrpUpd h) (by rfl)
  have h2 : d2.Cut x := .eachOf h1 fun h => .tgrpUpd h
  exact .ite h1 (.thmStoDemand (.eachOf (.raise (.thmLatch h2)) fun h => .setAt h (by rfl)))

theorem thmEval (h : d.Cut x) {g : Nat} : (d.thmEval g).Cut x := by
  unfold Dev.thmEval
  extract_lets _ d1 _ _ _ _ d2
  have h1 : d1.Cut x := .showDemand h
  have h2 : d2.Cut x := .when (.when h1 fun h => .windStop h) fun h => .eachOf h fun h => .setAt h (by rfl)
  exact .ite (.thmStoDemand h2) (.ite (.ss1Enter h2) h2)

theorem thmEvalAll (h : d.Cut x) : d.thmEvalAll.Cut x := by
  unfold Dev.thmEvalAll
  exact .eachOf (.hemHold h) fun h => .thmEval h

theorem sidesAgain (h : d.Cut x) : d.sidesAgain.Cut x := by
  unfold Dev.sidesAgain
  exact .each (.showAsc h) fun h => .ite (.applySet h) h

end Dev.Cut

theorem linkStatusMissing_cuts (s : State) (n : Fin 14) (hp : s.powered) (ht : s.dev.trained n = true) :
    Completes (.linkStatusMissing n) s fun t => t.dev.tb SYS_GLINK_TRAINED n = false ∧ (t.dev.gchAt n).link = false := by
  refine completes_main (show exec _ _ = execLinkStatusMissing n s from rfl) hp ?_
  rw [if_pos ht]
  extract_lets d1 d2 d3
  have h1 : d1.Cut n := by
    refine ⟨s.dev.tb_clrBits_same n.isLt (by decide), ?_⟩
    rw [Dev.gchAt_gchUpd_same]
  have h2 : d2.Cut n := .when h1 fun h => h.setFail
  have h3 : d3.Cut n := .ite (.groupSafe h2) h2
  exact Dev.Cut.thmEvalAll (.foHoldAll (.sidesAgain h3))

/-- Settles O27: what a command shows of its channel outlives the safe states that follow, which work on other channels, on other
fields or below the channel's link. -/
theorem gateChannelEventsComplete : Obligations.GateChannelEventsComplete := by
  unfold Obligations.GateChannelEventsComplete
  refine ⟨gateSupplyRecovered_shows, vposLost_untrains, highVoltageHalfPowerUp_powers, ntcReading_shows, ?_, ?_,
    edgeLearn_stepsUp, edgeLearn_measures, gateLinkTrainingDone_links, gateLinkTrainingFail_shows, gateLinkRetry_links,
    linkLoss_drops, linkStatusMissing_cuts⟩
  · intro s n hp hedge hst hperm
    have hl : (s.dev.gchAt n).link = true := by
      simp only [Dev.permits, Bool.and_eq_true] at hperm
      exact hperm.1.1
    exact gateEdge_follows s n true hp hedge hst hl (.inl hperm)
  · exact fun s n hp hedge hst hl => gateEdge_follows s n false hp hedge hst hl (.inr rfl)

end Sys2Proof.Machine
end

section
/-!
The numbers that records hold (R89, R98, R119, R206, R219, R329, R413): `Dev.InRange` says of each that it names what exists. The
tables are read entry by entry, so that a record read out of its table is in range, and one put back keeps the table so.
-/
namespace Sys2Proof.Machine

/-! ## Tables -/

/-- Every entry of the table has the property `p`. -/
def Tab.All {α : Type} (p : α → Prop) (t : List (Nat × α)) : Prop := ∀ e ∈ t, p e.2

section
variable {α : Type} {p : α → Prop} {t : List (Nat × α)}

theorem Tab.All.nil : Tab.All p [] := fun _ he => absurd he List.not_mem_nil

theorem Tab.All.find (h : Tab.All p t) {d : Nat → α} {k : Nat} (hd : p (d k)) : p (Tab.find d t k) := by
  induction t with
  | nil => exact hd
  | cons e t ih =>
    rw [Tab.find]
    exact iteInduction (motive := p) (fun _ => h e List.mem_cons_self) fun _ => ih fun x hx => h x (List.mem_cons_of_mem _ hx)

theorem Tab.mem_of_mem_erase {k : Nat} {e : Nat × α} (h : e ∈ Tab.erase t k) : e ∈ t := by
  induction t with
  | nil => exact h
  | cons x t ih =>
    rw [Tab.erase] at h
    split at h
    · exact List.mem_cons_of_mem _ (ih h)
    · rcases List.mem_cons.mp h with rfl | h
      · exact List.mem_cons_self
      · exact List.mem_cons_of_mem _ (ih h)

theorem Tab.mem_of_mem_insert {k : Nat} {v : α} {e : Nat × α} (h : e ∈ Tab.insert k v t) : e = (k, v) ∨ e ∈ t := by
  induction t with
  | nil => exact .inl (List.mem_singleton.mp h)
  | cons x t ih =>
    rw [Tab.insert] at h
    split at h
    · exact List.mem_cons.mp h
    · split at h
      · exact (List.mem_cons.mp h).imp_right (List.mem_cons_of_mem _)
      · rcases List.mem_cons.mp h with rfl | h
        · exact .inr List.mem_cons_self
        · exact (ih h).imp_right (List.mem_cons_of_mem _)

theorem Tab.All.insert (h : Tab.All p t) {k : Nat} {v : α} (hv : p v) : Tab.All p (Tab.insert k v t) := by
  intro e he
  rcases Tab.mem_of_mem_insert he with rfl | he
  · exact hv
  · exact h e he

theorem Tab.All.put [DecidableEq α] (h : Tab.All p t) {d : Nat → α} {k : Nat} {v : α} (hv : p v) :
    Tab.All p (Tab.put d t k v) := by
  unfold Tab.put
  exact iteInduction (motive := Tab.All p) (fun _ e he => h e (Tab.mem_of_mem_erase he)) fun _ => h.insert hv

end

/-! ## Records -/

/-- The pairs of `l` name numbers below `n`. -/
def keysBelow {β : Type} (n : Nat) (l : List (Nat × β)) : Prop := ∀ e ∈ l, e.1 < n

/-- An assist operation serves the port of a core. -/
def Flight.InRange (f : Flight) : Prop := ∀ e, f.assist = some e → e.1 < 4

/-- Output slots are 0 to 7. -/
def Slice.InRange (r : Slice) : Prop :=
  keysBelow 8 r.outs ∧ (∀ b, r.block = some b → keysBelow 8 b) ∧ ∀ f ∈ r.flight, f.InRange

/-- Collector words are 0 to 511. -/
def EGrp.InRange (r : EGrp) : Prop := keysBelow 512 r.pend

/-- A tune entry names a state word of a slice. -/
def tuneInRange (x : Nat × Nat × BitVec 64) : Prop := x.1 < 64 ∧ x.2.1 < 256

def Commit.InRange (c : Commit) : Prop := ∀ x ∈ c.entries, tuneInRange x

def Port.InRange (r : Port) : Prop := (∀ e ∈ r.staged, tuneInRange e.2) ∧ ∀ c, r.wait = some c → c.InRange

/-- Results wait for one of the 64 registers, urgent requests come from whom `urgentOk` admits. -/
def Adc.InRange (r : Adc) : Prop :=
  keysBelow 64 r.pub ∧ (∀ x ∈ r.queue, urgentOk x = true) ∧ ∀ x, r.urg = some x → urgentOk x = true

/-- The response slot that serves a LIN frame is 0 to 3. -/
def Lu.InRange (r : Lu) : Prop := ∀ f, r.lin = some f → ∀ k, f.slot = some k → k < 4

/-- The pulses of a saturation-pulse start are 0 to 13. -/
def Pos.InRange (r : Pos) : Prop := r.pulse < 14

/-- Scan entries are 0 to 31. -/
def Aux.InRange (r : Aux) : Prop := ∀ k, r.entry = some k → k < 32

/-- A winding discharge is that of a group. -/
def Thm.InRange (r : Thm) : Prop := ∀ g, r.windGrp = some g → g < 2

section
variable {β : Type}

theorem keysBelow.nil {n : Nat} : keysBelow n ([] : List (Nat × β)) := fun _ he => absurd he List.not_mem_nil

theorem keysBelow.cons {n : Nat} {l : List (Nat × β)} {e : Nat × β} (h : keysBelow n (e :: l)) : keysBelow n l :=
  fun x hx => h x (List.mem_cons_of_mem _ hx)

theorem keysBelow.append {n : Nat} {l m : List (Nat × β)} (h : keysBelow n l) (h' : keysBelow n m) : keysBelow n (l ++ m) :=
  fun x hx => (List.mem_append.mp hx).elim (h x) (h' x)

theorem keysBelow.insert {n k : Nat} {v : β} {l : List (Nat × β)} (h : keysBelow n l) (hk : k < n) :
    keysBelow n (Tab.insert k v l) := by
  intro e he
  rcases Tab.mem_of_mem_insert he with rfl | he
  · exact hk
  · exact h e he

end

/-! ### Slices and groups -/

theorem Slice.InRange.noOuts {r : Slice} {began : Bool} (k : r.InRange) :
    Slice.InRange { r with outs := [], began := began } := by
  obtain ⟨-, hb, hf⟩ := k
  exact ⟨.nil, hb, hf⟩

theorem Slice.InRange.noBlock {r : Slice} (k : r.InRange) : Slice.InRange { r with block := none } := by
  obtain ⟨ho, -, hf⟩ := k
  exact ⟨ho, nofun, hf⟩

/-- The output slots become the presented block (R210). -/
theorem Slice.InRange.present {r : Slice} (k : r.InRange) :
    Slice.InRange { r with block := some r.outs, outs := [], onTime := true } := by
  obtain ⟨ho, -, hf⟩ := k
  exact ⟨.nil, fun b hb => Option.some.inj hb ▸ ho, hf⟩

theorem Slice.InRange.out {r : Slice} {j : Nat} {v : BitVec 64} (k : r.InRange) (hj : j < 8) :
    Slice.InRange { r with outs := Tab.insert j v r.outs } := by
  obtain ⟨ho, hb, hf⟩ := k
  exact ⟨ho.insert hj, hb, hf⟩

theorem Slice.InRange.flight {r : Slice} {l : List Flight} (k : r.InRange) (hl : ∀ f ∈ l, f.InRange) :
    Slice.InRange { r with flight := l } := by
  obtain ⟨ho, hb, -⟩ := k
  exact ⟨ho, hb, hl⟩

theorem Slice.InRange.snoc {r : Slice} {f : Flight} (k : r.InRange) (hf : f.InRange) : ∀ x ∈ r.flight ++ [f], x.InRange := by
  obtain ⟨-, -, hr⟩ := k
  intro x hx
  rcases List.mem_append.mp hx with hx | hx
  · exact hr x hx
  · exact List.mem_singleton.mp hx ▸ hf

/-- A squash marks operations in flight, which go on for the same request (R229). -/
theorem Slice.InRange.squash {r : Slice} {g : Flight → Flight} (k : r.InRange) (hg : ∀ f, (g f).assist = f.assist) :
    Slice.InRange { r with flight := r.flight.map g } := by
  have hr := k
  obtain ⟨-, -, hf⟩ := hr
  refine k.flight fun f hm e he => ?_
  obtain ⟨f', hf', rfl⟩ := List.mem_map.mp hm
  exact hf f' hf' e (hg f' ▸ he)

/-- The block of a slice becomes the pending copies of its eight words (R210). -/
theorem EGrp.InRange.accepts {r : EGrp} {n : Nat} (k : r.InRange) (hn : n < 64) {b : List (Nat × BitVec 64)}
    (hb : keysBelow 8 b) :
    EGrp.InRange { r with pend := b.foldl (fun p o => Tab.insert (8 * n + o.1) o.2 p) r.pend } :=
  List.foldlRecOn (motive := keysBelow 512) b _ k fun _ h o ho => h.insert (by have := hb o ho; omega)

/-! ### Tune ports -/

theorem Port.InRange.wait {r : Port} {w : Option Commit} (k : r.InRange) (hw : ∀ c, w = some c → c.InRange) :
    Port.InRange { r with wait := w } := by
  obtain ⟨hs, -⟩ := k
  exact ⟨hs, hw⟩

theorem Port.InRange.stage {r : Port} {j : Nat} {x : Nat × Nat × BitVec 64} (k : r.InRange) (hx : tuneInRange x) :
    Port.InRange { r with staged := (j, x) :: r.staged.filter fun e => e.1 ≠ j } := by
  obtain ⟨hs, hw⟩ := k
  refine ⟨fun e he => ?_, hw⟩
  rcases List.mem_cons.mp he with rfl | he
  · exact hx
  · exact hs e (List.mem_of_mem_filter he)

/-! ### Converters -/

theorem Adc.InRange.results {r : Adc} (k : r.InRange) : Adc.InRange { pub := r.pub } := by
  obtain ⟨hp, -, -⟩ := k
  exact ⟨hp, fun _ hx => absurd hx List.not_mem_nil, nofun⟩

theorem Adc.InRange.pub {r : Adc} {l : List (Nat × BitVec 64)} (k : r.InRange) (hl : keysBelow 64 l) :
    Adc.InRange { r with pub := l } := by
  obtain ⟨-, hq, hu⟩ := k
  exact ⟨hl, hq, hu⟩

/-- The result of entry `j` waits behind the others (R87). -/
theorem Adc.InRange.publish {r : Adc} {j : Nat} {v : BitVec 64} (k : r.InRange) (hj : j < 64) :
    Adc.InRange { r with pub := r.pub ++ [(j, v)] } := by
  have hr := k
  obtain ⟨hp, -, -⟩ := hr
  exact k.pub (hp.append fun x hx => List.mem_singleton.mp hx ▸ hj)

theorem Adc.InRange.queue {r : Adc} {q : List (Nat × Nat × Nat)} (k : r.InRange) (hq : ∀ x ∈ q, urgentOk x = true) :
    Adc.InRange { r with queue := q } := by
  obtain ⟨hp, -, hu⟩ := k
  exact ⟨hp, hq, hu⟩

theorem Adc.InRange.urg {r : Adc} {x : Nat × Nat × Nat} (k : r.InRange) (hx : urgentOk x = true) :
    Adc.InRange { r with urg := some x } := by
  obtain ⟨hp, hq, -⟩ := k
  exact ⟨hp, hq, fun y hy => Option.some.inj hy ▸ hx⟩

theorem Adc.InRange.noUrg {r : Adc} (k : r.InRange) : Adc.InRange { r with urg := none } := by
  obtain ⟨hp, hq, -⟩ := k
  exact ⟨hp, hq, nofun⟩

theorem mem_urgInsert {q : List (Nat × Nat × Nat)} {r x : Nat × Nat × Nat} (h : x ∈ urgInsert q r) : x ∈ q ∨ x = r := by
  unfold urgInsert at h
  split at h
  · simpa using h
  · simp only [List.mem_append, List.mem_filter, List.mem_singleton] at h
    tauto

theorem Adc.InRange.insert {r : Adc} {q : List (Nat × Nat × Nat)} {x : Nat × Nat × Nat} (k : r.InRange)
    (hq : ∀ y ∈ q, urgentOk y = true) (hx : urgentOk x = true) : Adc.InRange { r with queue := urgInsert q x } :=
  k.queue fun y hy => (mem_urgInsert hy).elim (hq y) fun he => he ▸ hx

theorem Thm.InRange.idle {r : Thm} (h : r.windGrp = none) : r.InRange := fun g hg => by simp [h] at hg

/-- The numbers that the records of the device hold name what exists. -/
def Dev.InRange (d : Dev) : Prop :=
  d.thm.InRange ∧ Tab.All Slice.InRange d.slc ∧ Tab.All EGrp.InRange d.egr ∧ Tab.All Port.InRange d.port ∧
  Tab.All Adc.InRange d.adc ∧ Tab.All Lu.InRange d.lu ∧ Tab.All Pos.InRange d.pos ∧ Tab.All Aux.InRange d.aux

theorem State.numbersOk_iff {s : State} : s.numbersOk = true ↔ s.dev.InRange := by
  simp only [State.numbersOk, Dev.InRange, Thm.InRange, Slice.InRange, EGrp.InRange, Port.InRange, Adc.InRange, Lu.InRange,
    Pos.InRange, Aux.InRange, Flight.InRange, Commit.InRange, tuneInRange, keysBelow, Tab.All, Bool.and_eq_true, List.all_eq_true,
    Option.all_eq_true, decide_eq_true_eq, and_assoc]

namespace Dev.InRange

variable {d e : Dev}

/-! ## Reading a record -/

theorem thm (h : d.InRange) : d.thm.InRange := by
  obtain ⟨hw, -⟩ := h
  exact hw

theorem slcAt {n : Nat} (h : d.InRange) : (d.slcAt n).InRange := by
  obtain ⟨-, hs, -⟩ := h
  exact hs.find (by simp [Slice.InRange, keysBelow])

theorem egrAt {n : Nat} (h : d.InRange) : (d.egrAt n).InRange := by
  obtain ⟨-, -, he, -⟩ := h
  exact he.find (by simp [EGrp.InRange, keysBelow])

theorem portAt {n : Nat} (h : d.InRange) : (d.portAt n).InRange := by
  obtain ⟨-, -, -, hp, -⟩ := h
  exact hp.find (by simp [Port.InRange])

theorem adcAt {n : Nat} (h : d.InRange) : (d.adcAt n).InRange := by
  obtain ⟨-, -, -, -, ha, -⟩ := h
  exact ha.find (by simp [Adc.InRange, keysBelow])

theorem luAt {n : Nat} (h : d.InRange) : (d.luAt n).InRange := by
  obtain ⟨-, -, -, -, -, hl, -⟩ := h
  exact hl.find (by simp [Lu.InRange])

theorem posAt {n : Nat} (h : d.InRange) : (d.posAt n).InRange := by
  obtain ⟨-, -, -, -, -, -, hp, -⟩ := h
  exact hp.find (by simp [Pos.InRange])

theorem auxAt {n : Nat} (h : d.InRange) : (d.auxAt n).InRange := by
  obtain ⟨-, -, -, -, -, -, -, ha⟩ := h
  exact ha.find (by simp [Aux.InRange])

/-! ## Changing a record -/

theorem slcUpd {n : Nat} {f : Slice → Slice} (h : d.InRange) (hf : ∀ {r}, r.InRange → (f r).InRange) :
    (d.slcUpd n f).InRange := by
  unfold Dev.slcUpd
  have hr := hf (h.slcAt (n := n))
  obtain ⟨hw, hs, ht⟩ := h
  exact ⟨hw, Tab.All.put (d := fun _ => {}) (k := n) hs hr, ht⟩

theorem egrUpd {n : Nat} {f : EGrp → EGrp} (h : d.InRange) (hf : ∀ {r}, r.InRange → (f r).InRange) :
    (d.egrUpd n f).InRange := by
  unfold Dev.egrUpd
  have hr := hf (h.egrAt (n := n))
  obtain ⟨hw, hs, he, ht⟩ := h
  exact ⟨hw, hs, Tab.All.put (d := fun _ => {}) (k := n) he hr, ht⟩

theorem portUpd {n : Nat} {f : Port → Port} (h : d.InRange) (hf : ∀ {r}, r.InRange → (f r).InRange) :
    (d.portUpd n f).InRange := by
  unfold Dev.portUpd
  have hr := hf (h.portAt (n := n))
  obtain ⟨hw, hs, he, hp, ht⟩ := h
  exact ⟨hw, hs, he, Tab.All.put (d := fun _ => {}) (k := n) hp hr, ht⟩

theorem adcUpd {n : Nat} {f : Adc → Adc} (h : d.InRange) (hf : ∀ {r}, r.InRange → (f r).InRange) :
    (d.adcUpd n f).InRange := by
  unfold Dev.adcUpd
  have hr := hf (h.adcAt (n := n))
  obtain ⟨hw, hs, he, hp, ha, ht⟩ := h
  exact ⟨hw, hs, he, hp, Tab.All.put (d := fun _ => {}) (k := n) ha hr, ht⟩

theorem luUpd {n : Nat} {f : Lu → Lu} (h : d.InRange) (hf : ∀ {r}, r.InRange → (f r).InRange) :
    (d.luUpd n f).InRange := by
  unfold Dev.luUpd
  have hr := hf (h.luAt (n := n))
  obtain ⟨hw, hs, he, hp, ha, hl, ht⟩ := h
  exact ⟨hw, hs, he, hp, ha, Tab.All.put (d := fun _ => {}) (k := n) hl hr, ht⟩

theorem posUpd {n : Nat} {f : Pos → Pos} (h : d.InRange) (hf : ∀ {r}, r.InRange → (f r).InRange) :
    (d.posUpd n f).InRange := by
  unfold Dev.posUpd
  have hr := hf (h.posAt (n := n))
  obtain ⟨hw, hs, he, hp, ha, hl, hq, ht⟩ := h
  exact ⟨hw, hs, he, hp, ha, hl, Tab.All.put (d := fun _ => {}) (k := n) hq hr, ht⟩

theorem auxUpd {n : Nat} {f : Aux → Aux} (h : d.InRange) (hf : ∀ {r}, r.InRange → (f r).InRange) :
    (d.auxUpd n f).InRange := by
  unfold Dev.auxUpd
  have hr := hf (h.auxAt (n := n))
  obtain ⟨hw, hs, he, hp, ha, hl, hq, hx⟩ := h
  exact ⟨hw, hs, he, hp, ha, hl, hq, Tab.All.put (d := fun _ => {}) (k := n) hx hr⟩

/-- A change beside the records that hold numbers keeps them in range. -/
theorem beside {regs time frac mono free lims spool splTurn jnl pwr boot per fo fio gch car clu pair hem tgrp
    axis conn dtm refOut img can dom eth sfl spih m0 m1 nfc flw dbgTrig dbg} (h : d.InRange) :
    Dev.InRange ⟨regs, time, frac, mono, free, lims, spool, splTurn, jnl, pwr, boot, per, fo, fio, gch, car, clu, d.pos,
      pair, hem, tgrp, d.thm, axis, conn, dtm, d.adc, d.aux, refOut, img, d.slc, d.egr, d.port, can, dom, eth, sfl, spih, m0, m1,
      d.lu, nfc, flw, dbgTrig, dbg⟩ := h

/-- So does a change of Thimble's record that leaves its winding discharge. -/
theorem withThm {t : Thm} {regs time frac mono free lims spool splTurn jnl pwr boot per fo fio gch car clu pair hem tgrp
    axis conn dtm refOut img can dom eth sfl spih m0 m1 nfc flw dbgTrig dbg} (h : d.InRange) (ht : d.thm.InRange → t.InRange) :
    Dev.InRange ⟨regs, time, frac, mono, free, lims, spool, splTurn, jnl, pwr, boot, per, fo, fio, gch, car, clu, d.pos,
      pair, hem, tgrp, t, axis, conn, dtm, d.adc, d.aux, refOut, img, d.slc, d.egr, d.port, can, dom, eth, sfl, spih, m0, m1,
      d.lu, nfc, flw, dbgTrig, dbg⟩ := by
  obtain ⟨hw, hr⟩ := h
  exact ⟨ht hw, hr⟩

/-- With no record listed no number is held. -/
theorem blank {t : Thm} (ht : t.InRange) {regs time frac mono free lims spool splTurn jnl pwr boot per fo fio gch car clu pair
    hem tgrp axis conn dtm refOut img can dom eth sfl spih m0 m1 nfc flw dbgTrig dbg} :
    Dev.InRange ⟨regs, time, frac, mono, free, lims, spool, splTurn, jnl, pwr, boot, per, fo, fio, gch, car, clu, [],
      pair, hem, tgrp, t, axis, conn, dtm, [], [], refOut, img, [], [], [], can, dom, eth, sfl, spih, m0, m1,
      [], nfc, flw, dbgTrig, dbg⟩ :=
  ⟨ht, .nil, .nil, .nil, .nil, .nil, .nil, .nil⟩

theorem setReg {a : Nat} {v : BitVec 64} (h : d.InRange) : (d.setReg a v).InRange := h
theorem set {f : Fld} {v : Nat} (h : d.InRange) : (d.set f v).InRange := h
theorem setI {f : Fld} {v : Int} (h : d.InRange) : (d.setI f v).InRange := h
theorem setB {f : Fld} {b : Bool} (h : d.InRange) : (d.setB f b).InRange := h
theorem setBits {f : Fld} {v : Nat} (h : d.InRange) : (d.setBits f v).InRange := h
theorem clrBits {f : Fld} {v : Nat} (h : d.InRange) : (d.clrBits f v).InRange := h
theorem add {f : Fld} {n : Nat} (h : d.InRange) : (d.add f n).InRange := h
theorem count {f : Fld} (h : d.InRange) : (d.count f).InRange := h

theorem ite {c : Prop} [Decidable c] (h : d.InRange) (h' : e.InRange) : (if c then d else e).InRange :=
  iteInduction (motive := Dev.InRange) (fun _ => h) fun _ => h'

theorem when {c : Bool} {f : Dev → Dev} (h : d.InRange) (hf : ∀ {d}, d.InRange → (f d).InRange) : (d.when c f).InRange :=
  kept_when h hf

theorem each {n : Nat} {f : Nat → Dev → Dev} (h : d.InRange) (hf : ∀ {i d}, d.InRange → (f i d).InRange) :
    (d.each n f).InRange :=
  kept_each h fun _ => hf

/-! ## Sys2Proof/Machine/Ops.lean -/

theorem drawn (h : d.InRange) : d.drawn.InRange := h

theorem setSch {c : Nat} {v : SpoolCh} (h : d.InRange) : (d.setSch c v).InRange := h

theorem splQueue {c : Nat} {rec : List (BitVec 64)} (h : d.InRange) : (d.splQueue c rec).InRange := by
  unfold Dev.splQueue
  exact .ite (.count h) (.setSch h)

theorem splMade {c : Nat} {rec : List (BitVec 64)} (h : d.InRange) : (d.splMade c rec).InRange := by
  unfold Dev.splMade
  exact .ite h (.ite (.ite (.splQueue (.setSch h)) (.setSch h)) (.ite (.splQueue (.setSch h)) (.setSch h)))

theorem splFeed {typ : Nat} {sel : Nat → Nat → Bool} {rec : List (BitVec 64)} (h : d.InRange) :
    (d.splFeed typ sel rec).InRange := by
  unfold Dev.splFeed
  exact .ite h (.each h fun h => .when h fun h => .splMade h)

theorem splStopDone (h : d.InRange) : d.splStopDone.InRange := by
  unfold Dev.splStopDone
  exact .ite h (.when (.each h fun h => .when h fun h => .setBits h) fun h => .set h)

theorem splFire (h : d.InRange) : d.splFire.InRange := by
  unfold Dev.splFire
  exact .splStopDone (.each (.setReg (.set (.set (.set h)))) fun h => .when h fun h => .setSch (.set h))

theorem splTrigger (h : d.InRange) : d.splTrigger.InRange := by
  unfold Dev.splTrigger
  exact .ite (.splFire h) (.ite (.count h) h)

theorem splEvent {k : Nat} (h : d.InRange) : (d.splEvent k).InRange := by
  unfold Dev.splEvent
  exact .when (.splFeed h) fun h => .splTrigger h

theorem evrKeep {t k : Nat} (h : d.InRange) : (d.evrKeep t k).InRange := by
  unfold Dev.evrKeep
  exact .ite (.beside h) h

theorem evrPend {t k : Nat} (h : d.InRange) : (d.evrPend t k).InRange := by
  unfold Dev.evrPend
  exact .ite (.count (.evrKeep h)) (.set (.evrKeep h))

theorem trigCause {k : Nat} (h : d.InRange) : (d.trigCause k).InRange := by
  unfold Dev.trigCause
  exact .ite (.each h fun h => .ite (.egrUpd (f := fun e => { e with trigs := e.trigs + 1 }) h fun k => k) h) h

theorem raise {k : Nat} (h : d.InRange) : (d.raise k).InRange := by
  unfold Dev.raise
  exact .trigCause (.splEvent (.each (.setReg h) fun h => .when h fun h => .evrPend h))

theorem raiseIf {on : Bool} {k : Nat} (h : d.InRange) : (d.raiseIf on k).InRange := by
  unfold Dev.raiseIf
  exact .ite (.raise h) (.trigCause h)

theorem raiseLim {k c T : Nat} (h : d.InRange) : (d.raiseLim k c T).InRange := by
  unfold Dev.raiseLim
  exact .ite h (.raise (.beside h))

theorem evrClear {t k : Nat} (h : d.InRange) : (d.evrClear t k).InRange := by
  unfold Dev.evrClear
  exact .ite (.count (.set h)) h

theorem jnlPut {fw : Bool} {e : JEntry} (h : d.InRange) : (d.jnlPut fw e).InRange := by
  unfold Dev.jnlPut
  exact .ite (.raiseLim (.ite (.count (.beside h)) (.count (.beside h)))) (.set (.beside h))

theorem journal {kind src origin : Nat} {data : List (BitVec 64)} (h : d.InRange) : (d.journal kind src origin data).InRange := by
  unfold Dev.journal
  exact .jnlPut h

theorem flushStop (h : d.InRange) : d.flushStop.InRange := by
  unfold Dev.flushStop
  exact .ite (.set (.set h)) h

theorem jnlFault {src fltAddr statAddr : Nat} (h : d.InRange) : (d.jnlFault src fltAddr statAddr).InRange := by
  unfold Dev.jnlFault
  exact .journal h

theorem jnlThimble {src : Nat} (h : d.InRange) : (d.jnlThimble src).InRange := by
  unfold Dev.jnlThimble
  exact .journal h

theorem jnlHem {src : Nat} (h : d.InRange) : (d.jnlHem src).InRange := by
  unfold Dev.jnlHem
  exact .journal h

/-! ## Sys2Proof/Machine/Recs.lean -/

theorem foUpd {n : Nat} {f : Fo → Fo} (h : d.InRange) : (d.foUpd n f).InRange := h

theorem gchUpd {n : Nat} {f : Gch → Gch} (h : d.InRange) : (d.gchUpd n f).InRange := h

theorem carUpd {n : Nat} {f : Car → Car} (h : d.InRange) : (d.carUpd n f).InRange := h

theorem cluUpd {n : Nat} {f : Clu → Clu} (h : d.InRange) : (d.cluUpd n f).InRange := h

theorem pairUpd {n : Nat} {f : Pair → Pair} (h : d.InRange) : (d.pairUpd n f).InRange := h

theorem tgrpUpd {n : Nat} {f : ThmGrp → ThmGrp} (h : d.InRange) : (d.tgrpUpd n f).InRange := h

theorem axisUpd {n : Nat} {f : Axis → Axis} (h : d.InRange) : (d.axisUpd n f).InRange := h

theorem connUpd {n : Nat} {f : Conn → Conn} (h : d.InRange) : (d.connUpd n f).InRange := h

theorem canUpd {n : Nat} {f : Can → Can} (h : d.InRange) : (d.canUpd n f).InRange := h

/-! ## Sys2Proof/Machine/Map.lean -/

theorem busErr {e : BusErr} (h : d.InRange) : (d.busErr e).InRange := by
  unfold Dev.busErr
  exact .raise (by split <;> exact .count h)

/-! ## Sys2Proof/Machine/Clock.lean -/

theorem pllReq {p : Nat} (h : d.InRange) : (d.pllReq p).InRange := by
  unfold Dev.pllReq
  exact .ite (.set h) (.ite (.set h) h)

theorem pllRelease {p : Nat} (h : d.InRange) : (d.pllRelease p).InRange := by
  unfold Dev.pllRelease
  exact .ite (.set h) h

theorem pllEval {p : Nat} (h : d.InRange) : (d.pllEval p).InRange := by
  unfold Dev.pllEval
  exact .ite (.pllReq h) (.pllRelease h)

theorem clkEval (h : d.InRange) : d.clkEval.InRange := by
  unfold Dev.clkEval
  exact .each h fun h => .pllEval h

/-! ## Sys2Proof/Machine/Safe.lean -/

theorem eachOf {α : Type} {l : List α} {f : α → Dev → Dev} (h : d.InRange)
    (hf : ∀ {a d}, d.InRange → (f a d).InRange) : (d.eachOf l f).InRange := by
  unfold Dev.eachOf
  induction l generalizing d with
  | nil => exact h
  | cons a l ih => exact ih (hf h)

theorem foPut {n st drive : Nat} (h : d.InRange) : (d.foPut n st drive).InRange := by
  unfold Dev.foPut
  exact .foUpd (.setB (.set (.when h fun h => .set h)))

theorem foResume {n : Nat} (h : d.InRange) : (d.foResume n).InRange := by
  unfold Dev.foResume
  exact .ite (.set (.foPut h)) (.foPut h)

theorem foHold {n : Nat} (h : d.InRange) : (d.foHold n).InRange := by
  unfold Dev.foHold
  exact .ite h (.ite (.ite h (.foPut h)) (.ite (.ite (.foPut h) (.foPut h)) h))

theorem foHoldAll (h : d.InRange) : d.foHoldAll.InRange := by
  unfold Dev.foHoldAll
  exact .each h fun h => .foHold h

theorem axPut {n st : Nat} (h : d.InRange) : (d.axPut n st).InRange := by
  unfold Dev.axPut
  exact .ite h (.clkEval (.raise (.set h)))

theorem axBridgesOff {n : Nat} (h : d.InRange) : (d.axBridgesOff n).InRange := h

theorem blindShow {n : Nat} (h : d.InRange) : (d.blindShow n).InRange := by
  unfold Dev.blindShow
  exact .ite (.when h fun h => .axisUpd h) (.raise (.setB (.when h fun h => .axisUpd h)))

theorem axHalt {n : Nat} (h : d.InRange) : (d.axHalt n).InRange := by
  unfold Dev.axHalt
  exact .blindShow (.axisUpd (.set h))

theorem axHold {n why : Nat} (h : d.InRange) : (d.axHold n why).InRange := by
  unfold Dev.axHold
  exact .ite (.axPut (.axBridgesOff (.axHalt (.set (.ite (.set (.axisUpd h)) (.axisUpd h)))))) (.axisUpd h)

theorem axUnhold {n why : Nat} (h : d.InRange) : (d.axUnhold n why).InRange := by
  unfold Dev.axUnhold
  exact .ite (.axPut (.axisUpd (.axisUpd h))) (.axisUpd h)

theorem gateOffBy {n s : Nat} (h : d.InRange) : (d.gateOffBy n s).InRange := by
  unfold Dev.gateOffBy
  exact .ite (.set (.gchUpd h)) h

theorem gateOff {n : Nat} (h : d.InRange) : (d.gateOff n).InRange := by
  unfold Dev.gateOff
  exact .gateOffBy h

theorem gateOnBy {n t s : Nat} (h : d.InRange) : (d.gateOnBy n t s).InRange := by
  unfold Dev.gateOnBy
  exact .ite h (.set (.gchUpd h))

theorem gateOnAt {n t : Nat} (h : d.InRange) : (d.gateOnAt n t).InRange := by
  unfold Dev.gateOnAt
  exact .gateOnBy h

theorem gchPut {n st : Nat} (h : d.InRange) : (d.gchPut n st).InRange := h

theorem gchOff {n : Nat} (h : d.InRange) : (d.gchOff n).InRange := by
  unfold Dev.gchOff
  exact .gchPut (.gateOff h)

theorem driveEval {n : Nat} (h : d.InRange) : (d.driveEval n).InRange := by
  unfold Dev.driveEval
  exact .ite (.gchPut h) (.ite (.gchOff h) h)

theorem showAsc (h : d.InRange) : d.showAsc.InRange := by
  unfold Dev.showAsc
  exact .each h fun h => .ite (.setBits (.ite (.setBits (.setB h)) (.clrBits (.setB h)))) (.clrBits (.ite (.setBits (.setB h))
    (.clrBits (.setB h))))

theorem ascSwitch {m n : Nat} (h : d.InRange) : (d.ascSwitch m n).InRange := by
  unfold Dev.ascSwitch
  exact .ite h (.ite (.ite (.gchPut (.gateOnAt h)) h) (.ite (.gchOff h) h))

theorem applySet {g : Nat} (h : d.InRange) : (d.applySet g).InRange := by
  unfold Dev.applySet
  exact .set (.eachOf (.eachOf (.showAsc h) fun h => .ascSwitch h) fun h => .ascSwitch h)

theorem applySafe {g : Nat} (h : d.InRange) : (d.applySafe g).InRange := by
  unfold Dev.applySafe
  exact .eachOf h fun h => .applySet h

theorem carIdle {c : Nat} (h : d.InRange) : (d.carIdle c).InRange := by
  unfold Dev.carIdle
  exact .ite h (.each (.set (.carUpd h)) fun h => .gchUpd h)

theorem cluPut1 {g st : Nat} (h : d.InRange) : (d.cluPut1 g st).InRange := by
  unfold Dev.cluPut1
  extract_lets _ d1 d2
  have h1 : d1.InRange := .raise (.set h)
  have h2 : d2.InRange := .ite (.ite h1 (.set h1)) (.set (.carIdle h1))
  exact .ite h (.clkEval (.eachOf (.ite (.ite (.cluUpd h2) h2) (.set (.cluUpd h2))) fun h => .driveEval h))

theorem cluPut {g st : Nat} (h : d.InRange) : (d.cluPut g st).InRange := by
  unfold Dev.cluPut
  exact .eachOf h fun h => .cluPut1 h

theorem posStamp {p : Nat} (h : d.InRange) : (d.posStamp p).InRange := h

theorem posSrc {p src off : Nat} (h : d.InRange) : (d.posSrc p src off).InRange := by
  unfold Dev.posSrc
  exact .raise (.posStamp (.set h))

/-- A saturation-pulse start that ends leaves pulse 0. -/
theorem alignOff {p : Nat} (h : d.InRange) :
    (d.posUpd p fun r => { r with alignOn := false, pulse := 0, inDecay := false }).InRange :=
  .posUpd h fun _ => show (0 : Nat) < 14 by decide

theorem alignAbort {g : Nat} (h : d.InRange) : (d.alignAbort g).InRange := by
  unfold Dev.alignAbort
  split; exacts [h, .ite (.raise (.posSrc (.set (.alignOff h)))) h]

theorem cluSafe {g : Nat} (h : d.InRange) : (d.cluSafe g).InRange := by
  unfold Dev.cluSafe
  exact .ite (.cluPut (.alignAbort h)) h

theorem brakeShow1 {n : Nat} {on : Bool} (h : d.InRange) : (d.brakeShow1 n on).InRange := by
  unfold Dev.brakeShow1
  exact .foPut (.set h)

theorem brakeShow (h : d.InRange) : d.brakeShow.InRange := by
  unfold Dev.brakeShow
  exact .setB (.brakeShow1 (.brakeShow1 h))

theorem brakeApply (h : d.InRange) : d.brakeApply.InRange := by
  unfold Dev.brakeApply
  exact .when (.set (.set (.brakeShow (.withThm h fun k => k)))) fun h => .raise h

theorem brakeFor {g : Nat} (h : d.InRange) : (d.brakeFor g).InRange := by
  unfold Dev.brakeFor
  exact .when h fun h => .brakeApply h

theorem disEnd {why st : Nat} (h : d.InRange) : (d.disEnd why st).InRange := by
  unfold Dev.disEnd
  exact .raise (.withThm (.gchUpd (.set (.set (.gchPut (.gateOff h))))) fun k => k)

theorem disBegin (h : d.InRange) : d.disBegin.InRange := by
  unfold Dev.disBegin
  exact .raise (.count (.gchUpd (.set (.gchPut (.gateOnAt h)))))

theorem disCommand (h : d.InRange) : d.disCommand.InRange := by
  unfold Dev.disCommand
  exact .ite (.beside (.disBegin h)) h

theorem setPaths {n : Nat} {p1 p2 : Bool} (h : d.InRange) : (d.setPaths n p1 p2).InRange := h

theorem cutPaths {n : Nat} (h : d.InRange) : (d.cutPaths n).InRange := by
  unfold Dev.cutPaths
  exact .ite (.gchOff (.setPaths h)) (.ite (.disEnd (.setPaths h)) (.setPaths h))

theorem cutGroup {g : Nat} (h : d.InRange) : (d.cutGroup g).InRange := by
  unfold Dev.cutGroup
  exact .eachOf h fun h => .eachOf h fun h => .cutPaths h

theorem carFollow (h : d.InRange) : d.carFollow.InRange := by
  unfold Dev.carFollow
  exact .ite (.carUpd (.setB h)) h

theorem carBegin {c : Nat} (h : d.InRange) : (d.carBegin c).InRange := h

theorem windStop (h : d.InRange) : d.windStop.InRange := by
  unfold Dev.windStop
  split
  · exact h
  · exact .eachOf (.withThm h fun _ => .idle rfl) fun h => .eachOf (.carIdle (.carUpd (.when h fun h => .carFollow (.carBegin
      (.set h))))) fun h => .cutPaths h

theorem permitGroup {g : Nat} (h : d.InRange) : (d.permitGroup g).InRange := by
  unfold Dev.permitGroup
  exact .eachOf h fun h => .eachOf h fun h => .ite (.driveEval (.setPaths h)) h

theorem thmPut {g st : Nat} (h : d.InRange) : (d.thmPut g st).InRange := by
  unfold Dev.thmPut
  exact .ite h (.jnlThimble (.raise (.eachOf h fun h => .ite (.set h) (.tgrpUpd (.set (.set h))))))

theorem thmSafe {g : Nat} (h : d.InRange) : (d.thmSafe g).InRange := by
  unfold Dev.thmSafe
  exact .ite (.brakeFor (.thmPut h)) h

theorem groupSafe {g : Nat} {cmd : Bool} (h : d.InRange) : (d.groupSafe g cmd).InRange := by
  unfold Dev.groupSafe
  exact .applySafe (.when (.cluSafe h) fun h => .thmSafe h)

theorem thmToSto {g : Nat} (h : d.InRange) : (d.thmToSto g).InRange := by
  unfold Dev.thmToSto
  exact .eachOf (.brakeFor (.thmPut (.applySafe (.cluSafe (.cutGroup h))))) fun h => .clrBits h

theorem thmStoDemand {g : Nat} (h : d.InRange) : (d.thmStoDemand g).InRange := by
  unfold Dev.thmStoDemand
  extract_lets _ d1
  have h1 : d1.InRange := .applySafe (.cluSafe h)
  exact .ite (.ite (.brakeFor (.thmPut (.eachOf h1 fun h => .eachOf h fun h => .ite h (.cutPaths h)))) (.thmToSto h)) h

theorem showDemand {g : Nat} (h : d.InRange) : (d.showDemand g).InRange := by
  unfold Dev.showDemand
  exact .eachOf h fun h => .set h

theorem hemSafe {g : Nat} (h : d.InRange) : (d.hemSafe g).InRange := by
  unfold Dev.hemSafe
  exact .groupSafe (.jnlHem (.raise h))

theorem hemHold {why : Nat} {on : Bool} (h : d.InRange) : (d.hemHold why on).InRange := by
  unfold Dev.hemHold
  extract_lets _ _ d1 _ d2
  have h1 : d1.InRange := .beside h
  have h2 : d2.InRange := .foHoldAll (.raise (.set h1))
  exact .ite (.foHoldAll h1) (.ite (.eachOf (.each h2 fun h => .axHold h) fun h => .hemSafe h) (.each (.foHoldAll (.raise
    (.set h1))) fun h => .axUnhold h))

theorem thmLatch {bit src : Nat} (h : d.InRange) : (d.thmLatch bit src).InRange := by
  unfold Dev.thmLatch
  exact .ite h (.jnlThimble (.setBits h))

theorem ss1Enter {g : Nat} (h : d.InRange) : (d.ss1Enter g).InRange := by
  unfold Dev.ss1Enter
  extract_lets _ d1 d2
  have h1 : d1.InRange := .eachOf (.raise (.thmPut h)) fun h => .set (.tgrpUpd h)
  have h2 : d2.InRange := .eachOf h1 fun h => .tgrpUpd h
  exact .ite h1 (.thmStoDemand (.eachOf (.raise (.thmLatch h2)) fun h => .setBits h))

theorem thmEval {g : Nat} (h : d.InRange) : (d.thmEval g).InRange := by
  unfold Dev.thmEval
  extract_lets _ d1 _ _ _ _ d2
  have h1 : d1.InRange := .showDemand h
  have h2 : d2.InRange := .when (.when h1 fun h => .windStop h) fun h => .eachOf h fun h => .setBits h
  exact .ite (.thmStoDemand h2) (.ite (.ss1Enter h2) h2)

theorem thmEvalAll (h : d.InRange) : d.thmEvalAll.InRange := by
  unfold Dev.thmEvalAll
  exact .eachOf (.hemHold h) fun h => .thmEval h

theorem sbcFault (h : d.InRange) : d.sbcFault.InRange := by
  unfold Dev.sbcFault
  exact .thmEvalAll (.raise (.thmLatch (.brakeApply h)))

theorem demandSto {g bits : Nat} (h : d.InRange) : (d.demandSto g bits).InRange := by
  unfold Dev.demandSto
  exact .thmEval (.eachOf h fun h => .setBits h)

/-! ## Sys2Proof/Machine/Switch.lean -/

theorem carApply {c k : Nat} (h : d.InRange) : (d.carApply c k).InRange := by
  unfold Dev.carApply
  exact .ite h (.ite (.carUpd h) (.gchUpd (.carUpd h)))

theorem carCmd {c k : Nat} {on : Bool} (h : d.InRange) : (d.carCmd c k on).InRange := by
  unfold Dev.carCmd
  exact .carApply (.carUpd h)

theorem carRelease {c : Nat} (h : d.InRange) : (d.carRelease c).InRange := by
  unfold Dev.carRelease
  exact .each h fun h => .ite (.carApply (.carUpd h)) h

theorem brakePulse (h : d.InRange) : d.brakePulse.InRange := by
  unfold Dev.brakePulse
  exact .ite (.raiseIf (.carCmd (.carRelease (.set (.driveEval (.carUpd h)))))) h

theorem brakeDirect (h : d.InRange) : d.brakeDirect.InRange := by
  unfold Dev.brakeDirect
  exact .ite h (.brakePulse (.carUpd (.jnlFault (.raise (.set h)))))

theorem brakeClock (h : d.InRange) : d.brakeClock.InRange := by
  unfold Dev.brakeClock
  exact .when h fun h => .brakeDirect h

theorem showFrozen (h : d.InRange) : d.showFrozen.InRange := by
  unfold Dev.showFrozen
  exact .brakeClock (.carFollow (.each h fun h => .ite h (.ite (.carUpd (.set (.set h))) (.when (.carUpd (.set h)) fun h =>
    .brakePulse h))))

theorem freezeEnd (h : d.InRange) : d.freezeEnd.InRange := by
  unfold Dev.freezeEnd
  exact .ite (.eachOf (.raise (.showFrozen (.set h))) fun h => .when h fun h => .hemSafe h) h

theorem epochRestart {p : Nat} (h : d.InRange) : (d.epochRestart p).InRange := h

theorem resumeAll (h : d.InRange) : d.resumeAll.InRange := by
  unfold Dev.resumeAll
  exact .freezeEnd (.set (.each h fun h => .when h fun h => .epochRestart h))

/-! ## Sys2Proof/Machine/Persist.lean -/

theorem showRec {e : Nat × BitVec 64} (h : d.InRange) : (d.showRec e).InRange := h

theorem showSet (h : d.InRange) : d.showSet.InRange := by
  unfold Dev.showSet
  split; exacts [(.eachOf h fun h => .showRec h), h]

theorem dtmRate (h : d.InRange) : d.dtmRate.InRange := h

theorem trimLoad (h : d.InRange) : d.trimLoad.InRange := h

theorem showLog (h : d.InRange) : d.showLog.InRange := h

theorem showUnlock (h : d.InRange) : d.showUnlock.InRange := h

/-! ## Sys2Proof/Machine/Reset.lean -/

theorem copyFld {f : Fld} (h : d.InRange) : (d.copyFld e f).InRange := h

theorem tagShow (h : d.InRange) : d.tagShow.InRange := h

theorem mainReset : d.mainReset.InRange := by
  unfold Dev.mainReset
  extract_lets _ _ e
  have he : e.InRange := .eachOf (.blank (.idle rfl)) fun h => .copyFld h
  exact .each (.tagShow (.ite (.showLog (.showSet (.set he))) he)) fun h => .gchUpd h

theorem powerOn : d.powerOn.InRange := by
  unfold Dev.powerOn
  exact .each (.tagShow (.blank (.idle rfl))) fun h => .gchUpd h

theorem refAtStart (h : d.InRange) : d.refAtStart.InRange := by
  unfold Dev.refAtStart
  exact .ite (.each (.set h) fun h => .raise h) h

theorem appReset {held : Bool} (h : d.InRange) : (d.appReset held).InRange := by
  unfold Dev.appReset
  extract_lets _ d1 _ _ d2 _ d3
  have h1 : d1.InRange := .eachOf (.windStop (.hemHold h)) fun h => .groupSafe h
  have h2 : d2.InRange := .eachOf (.blank h1.thm) fun h => .copyFld h
  have h3 : d3.InRange := .tagShow (.brakeShow (.gateOff (.ite h2 (.copyFld h2))))
  exact .refAtStart (.trimLoad (.showSet (.clkEval (.each h3 fun h => .ite (.set h) h))))

theorem wake {f : Fld} {v : Nat} (h : d.InRange) : (d.wake f v).InRange := by
  unfold Dev.wake
  exact .ite (.beside (.set (.setBits .mainReset))) (.ite (.clkEval (.beside (.set (.setBits (.set h))))) (.ite (.setBits
    h) h))

theorem clockSafe (h : d.InRange) : d.clockSafe.InRange := by
  unfold Dev.clockSafe
  extract_lets _ d1
  have h1 : d1.InRange := .each (.eachOf h fun h => .groupSafe h) fun h => .ite h (.axPut (.axBridgesOff (.axHalt (.set h))))
  exact .brakeApply (.each h1 fun h => .ite h (.foPut (.set h)))

theorem pllFault {p : Nat} (h : d.InRange) : (d.pllFault p).InRange := by
  unfold Dev.pllFault
  exact .clockSafe (.raise (.showFrozen (.set h)))

/-! ## Sys2Proof/Machine/Sequencer.lean -/

theorem adcMux {n i : Nat} (h : d.InRange) : (d.adcMux n i).InRange := by
  unfold Dev.adcMux
  exact .adcUpd h fun k => iteInduction (fun _ => k) fun _ => k

theorem adcEntry {n k : Nat} (h : d.InRange) : (d.adcEntry n k).InRange := by
  unfold Dev.adcEntry
  exact .adcUpd (.set (.set (.set h))) fun k => k

theorem adcCurrent {n k : Nat} (h : d.InRange) : (d.adcCurrent n k).InRange := by
  unfold Dev.adcCurrent
  exact .adcMux (.adcEntry h)

theorem adcStart {n : Nat} (h : d.InRange) : (d.adcStart n).InRange := by
  unfold Dev.adcStart
  exact .adcCurrent (.adcUpd h fun k => k)

theorem adcRun {n : Nat} (h : d.InRange) : (d.adcRun n).InRange := by
  unfold Dev.adcRun
  exact .ite h (.ite (.count h) (.ite (.adcStart (.clkEval (.set h))) (.adcUpd (.clkEval (.set h)) fun k => k)))

theorem adcLost {n : Nat} (h : d.InRange) : (d.adcLost n).InRange := by
  unfold Dev.adcLost
  exact .raise (.count h)

theorem adcStop {n : Nat} (h : d.InRange) : (d.adcStop n).InRange := by
  unfold Dev.adcStop
  extract_lets _ d1
  have h1 : d1.InRange := .each h fun h => .adcLost h
  exact .ite h (.ite (.clkEval (.adcUpd (.set h) fun k => k)) (.ite (.count h) (.clkEval (.adcUpd (.set (.set (.set (.set h1))))
    .results))))

theorem adcTrig1 {k n : Nat} (h : d.InRange) : (d.adcTrig1 k n).InRange := by
  unfold Dev.adcTrig1
  exact .ite (.adcUpd h fun k => k) h

theorem adcTrig {k : Nat} (h : d.InRange) : (d.adcTrig k).InRange := by
  unfold Dev.adcTrig
  exact .each h fun h => .adcTrig1 h

theorem frameStart {p : Nat} (h : d.InRange) : (d.frameStart p).InRange := by
  unfold Dev.frameStart
  exact .ite (.posUpd h fun k => k) h

theorem posMark {g : Nat} (h : d.InRange) : (d.posMark g).InRange := by
  unfold Dev.posMark
  split; exacts [(.when h fun h => .frameStart h), h]

theorem urgBegin {n who i count : Nat} (h : d.InRange) (hr : urgentOk (who, i, count) = true) :
    (d.urgBegin n who i count).InRange := by
  unfold Dev.urgBegin
  exact .adcMux (.adcUpd (.set (.set h)) fun k => k.urg hr)

theorem urgShow {n : Nat} (h : d.InRange) : (d.urgShow n).InRange := h

theorem urgQueue {n who i count : Nat} (h : d.InRange) (hr : urgentOk (who, i, count) = true) :
    (d.urgQueue n who i count).InRange := by
  obtain ⟨-, hq, -⟩ := h.adcAt (n := n)
  unfold Dev.urgQueue
  exact .ite (.urgShow (.adcUpd h fun k => k.insert hq hr)) (.ite (.adcLost h) (.urgShow (.adcUpd (.adcLost h) fun k =>
    k.insert (fun x hx => hq x (List.mem_of_mem_take hx)) hr)))

theorem urgRequest {n who i count : Nat} (h : d.InRange) (hr : urgentOk (who, i, count) = true) :
    (d.urgRequest n who i count).InRange := by
  unfold Dev.urgRequest
  exact .ite (.adcLost h) (.ite (.urgQueue h hr) (.ite (.urgQueue h hr) (.urgBegin (.when h fun h => .raise (.count
    (.adcUpd h fun k => k))) hr)))

theorem urgWrite {n i count : Nat} (h : d.InRange) : (d.urgWrite n i count).InRange := by
  unfold Dev.urgWrite
  exact .ite h (.urgRequest h rfl)

/-! ## Sys2Proof/Machine/Pos.lean -/

theorem posShow {p : Nat} (h : d.InRange) : (d.posShow p).InRange := h

theorem posShowValid {p : Nat} (h : d.InRange) : (d.posShowValid p).InRange := h

theorem posLost {p : Nat} (h : d.InRange) : (d.posLost p).InRange := by
  unfold Dev.posLost
  extract_lets; split; exacts [.hemSafe (.posSrc h), .posSrc h]

theorem slsTake {p : Nat} (h : d.InRange) : (d.slsTake p).InRange := by
  unfold Dev.slsTake
  exact .posUpd h fun k => k

theorem slsEnter {p off : Nat} (h : d.InRange) : (d.slsEnter p off).InRange := by
  unfold Dev.slsEnter
  exact .posShow (.posSrc (.posUpd (.slsTake h) fun k => k))

theorem posFall {p : Nat} (h : d.InRange) : (d.posFall p).InRange := by
  unfold Dev.posFall
  exact .ite h (.ite (.slsEnter h) (.posLost h))

theorem posUnindex {p : Nat} (h : d.InRange) : (d.posUnindex p).InRange := by
  unfold Dev.posUnindex
  exact .posUpd (.set h) fun k => k

theorem posSensorFault {p : Nat} (h : d.InRange) : (d.posSensorFault p).InRange := by
  unfold Dev.posSensorFault
  exact .ite h (.posFall (.posShowValid (.posUnindex (.posUpd h fun k => k))))

theorem posCause {p bits : Nat} (h : d.InRange) : (d.posCause p bits).InRange := by
  unfold Dev.posCause
  exact .when (.posUpd (.setBits h) fun k => k) fun h => .raise h

theorem posBad {p bits : Nat} (h : d.InRange) : (d.posBad p bits).InRange := by
  unfold Dev.posBad
  exact .when (.posUpd (.posCause (.count h)) fun k => k) fun h => .posSensorFault h

theorem posImmediate {p bits : Nat} (h : d.InRange) : (d.posImmediate p bits).InRange := by
  unfold Dev.posImmediate
  exact .posSensorFault (.posCause h)

theorem posFaultEnd {p : Nat} (h : d.InRange) : (d.posFaultEnd p).InRange := by
  unfold Dev.posFaultEnd
  exact .posShowValid (.when h fun h => .posUpd h fun k => k)

theorem posClear {p mask : Nat} (h : d.InRange) : (d.posClear p mask).InRange := by
  unfold Dev.posClear
  exact .posFaultEnd (.when (.clrBits h) fun h => .set h)

theorem obsStep {p : Nat} {e : Int} {tau : Nat} (h : d.InRange) : (d.obsStep p e tau).InRange := by
  unfold Dev.obsStep
  exact .posUpd h fun k => k

theorem posTaken {p : Nat} (h : d.InRange) : (d.posTaken p).InRange := by
  unfold Dev.posTaken
  exact .posShow (.posFaultEnd (.when (.posStamp (.posUpd h fun k => k)) fun h => .posImmediate h))

theorem posReading {p : Nat} {a : Int} (h : d.InRange) : (d.posReading p a).InRange := by
  unfold Dev.posReading
  exact .ite (.posTaken (.posUpd h fun k => k)) (.ite (.posBad h) (.posTaken (.obsStep h)))

theorem pairDrop {p : Nat} (h : d.InRange) : (d.pairDrop p).InRange := by
  unfold Dev.pairDrop
  exact .posBad (.count (.posUpd h fun k => k))

theorem demod {p : Nat} {rs rc : BitVec 64} (h : d.InRange) : (d.demod p rs rc).InRange := by
  unfold Dev.demod
  extract_lets _ _ _ d1
  have h1 : d1.InRange := .posUpd h fun k => k
  exact .ite (.pairDrop h) (by split; exacts [.ite (.posBad (.set h1)) (.posReading (.set h1)), h1])

theorem posExc {p : Nat} {v : Int} (h : d.InRange) : (d.posExc p v).InRange := by
  unfold Dev.posExc
  exact .posUpd h fun k => k

theorem excDrop (h : d.InRange) : d.excDrop.InRange := by
  unfold Dev.excDrop
  exact .ite h (.each h fun h => .posUpd h fun k => k)

theorem posSlot {k : Nat} {rec : BitVec 64} (h : d.InRange) : (d.posSlot k rec).InRange := by
  unfold Dev.posSlot
  refine .ite h (.each h fun h => .ite h ?_)
  extract_lets d1 d2 d3
  have h1 : d1.InRange := .ite (.posExc h) h
  have h2 : d2.InRange := .ite (.posUpd h1 fun k => k) h1
  have h3 : d3.InRange := .ite (.posUpd h2 fun k => k) h2
  exact .ite h1 (by split; exacts [.demod h3, h3])

theorem posFrame {p data at_ : Nat} (h : d.InRange) : (d.posFrame p data at_).InRange := by
  unfold Dev.posFrame
  exact .ite (.posBad h) (.ite (.posBad h) (.posReading (.posUpd h fun k => k)))

theorem posRewrite {p : Nat} (h : d.InRange) : (d.posRewrite p).InRange := by
  unfold Dev.posRewrite
  exact .clkEval (.posShowValid (.posUnindex (.posUpd h fun k => k)))

theorem posStart {g : Nat} (h : d.InRange) : (d.posStart g).InRange := by
  unfold Dev.posStart
  split; exacts [h, .ite (.posFall (.posSrc h)) (.posShow (.posSrc h))]

theorem posEnd {g : Nat} (h : d.InRange) : (d.posEnd g).InRange := by
  unfold Dev.posEnd
  split; exacts [h, (.when (.when h fun h => .raise (.set (.alignOff h))) fun h => .posShow (.posSrc h))]

theorem posSwap {p : Nat} {pub : Bool} {cmd0 : Int} (h : d.InRange) : (d.posSwap p pub cmd0).InRange := by
  unfold Dev.posSwap
  extract_lets _ d1 _ _ _ d2
  have h1 : d1.InRange := .posShowValid (.when h fun h => .posUpd h fun k => k)
  have h2 : d2.InRange := .posUpd h1 fun k => k
  refine .ite (.posShow (.posUpd h1 fun k => k)) ?_
  exact .ite (.ite (.posShow (.posStamp (.posUpd (.slsTake h1) fun k => k))) (.ite h1 (.ite (.posLost h2) h2))) h1

/-! ## Sys2Proof/Machine/Pwm.lean -/

theorem carHalf {c : Nat} (h : d.InRange) : (d.carHalf c).InRange := by
  unfold Dev.carHalf
  exact .when (.carUpd h) fun h => .raiseLim (.raise (.count h))

theorem carDead {c : Nat} (h : d.InRange) : (d.carDead c).InRange := by
  unfold Dev.carDead
  exact .each (.carUpd h) fun h => .raiseLim (.raise (.count h))

theorem carClamps (h : d.InRange) : d.carClamps.InRange := by
  unfold Dev.carClamps
  exact .each h fun h => .carDead h

theorem legEdge {c x : Nat} {high : Bool} (h : d.InRange) : (d.legEdge c x high).InRange := by
  unfold Dev.legEdge
  exact .ite h (.carCmd (.carUpd h))

theorem fltClear {c mask : Nat} (h : d.InRange) : (d.fltClear c mask).InRange := h

theorem carCommit {c : Nat} {set : List (Nat × Nat)} (h : d.InRange) : (d.carCommit c set).InRange := h

theorem carTransfer {c slack : Nat} (h : d.InRange) : (d.carTransfer c slack).InRange := by
  unfold Dev.carTransfer
  extract_lets; split; exacts [.carUpd h, .ite (.carUpd h) (.raise (.count (.carUpd h)))]

theorem carLeg {c : Nat} {peak : Bool} {x : Nat} (h : d.InRange) : (d.carLeg c peak x).InRange := by
  unfold Dev.carLeg
  extract_lets _ _ _ _ _ _ d1 _ _ _ _ d2 d3
  have h1 : d1.InRange := .set (.set h)
  have h2 : d2.InRange := .carUpd (.when h1 fun h => .raiseLim (.count h))
  have h3 : d3.InRange := .ite (.legEdge h2) h2
  exact .ite h2 (.ite (.carUpd h3) (.ite (.legEdge h3) (.carUpd h3)))

theorem carMarkEvent {c : Nat} {peak : Bool} (h : d.InRange) : (d.carMarkEvent c peak).InRange := by
  unfold Dev.carMarkEvent
  exact .raiseIf (.ite (.when h fun h => .adcTrig h) (.posMark (.when h fun h => .adcTrig h)))

theorem carMark {c : Nat} {peak : Bool} {slack : Nat} (h : d.InRange) : (d.carMark c peak slack).InRange := by
  unfold Dev.carMark
  extract_lets _ d1 _ _ d2 _ _ d3
  have h1 : d1.InRange := .carUpd (.ite (.carUpd h) (.ite h (.carHalf h)))
  have h2 : d2.InRange := .carTransfer (.setB h1)
  have h3 : d3.InRange := .each (.setB h2) fun h => .carLeg h
  exact .carMarkEvent (.carRelease (.when h3 fun h => .each h fun h => .carApply h))

theorem carStart {c : Nat} (h : d.InRange) : (d.carStart c).InRange := by
  unfold Dev.carStart
  extract_lets d1 d2
  have h1 : d1.InRange := .carBegin (.carUpd h)
  have h2 : d2.InRange := .ite (.carDead (.ite h1 (.carHalf h1))) h1
  exact .ite h (.when (.clkEval (.carFollow (.showFrozen (.set h2)))) fun h => .brakePulse h)

theorem carStop {c : Nat} (h : d.InRange) : (d.carStop c).InRange := by
  unfold Dev.carStop
  exact .clkEval (.showFrozen (.setReg (.carUpd (.carIdle h))))

theorem brakeEnd (h : d.InRange) : d.brakeEnd.InRange := by
  unfold Dev.brakeEnd
  exact .driveEval (.carCmd (.carUpd h))

theorem coffOn {c : Nat} (h : d.InRange) : (d.coffOn c).InRange := by
  unfold Dev.coffOn
  exact .eachOf (.carUpd h) fun h => .carCmd h

theorem coffOff {c : Nat} (h : d.InRange) : (d.coffOff c).InRange := by
  unfold Dev.coffOff
  exact .eachOf (.carUpd h) fun h => .carCmd h

theorem coffRecord {c x : Nat} {r : BitVec 64} (h : d.InRange) : (d.coffRecord c x r).InRange := by
  unfold Dev.coffRecord
  exact .ite (.raiseLim (.count (.coffOff h))) h

theorem freezeBegin (h : d.InRange) : d.freezeBegin.InRange := by
  unfold Dev.freezeBegin
  exact .ite (.raise (.showFrozen (.count (.set h)))) h

theorem debugHalt {c : Nat} (h : d.InRange) : (d.debugHalt c).InRange := by
  unfold Dev.debugHalt
  exact .ite h (.when (.freezeBegin (.setBits h)) fun h => .splTrigger h)

theorem debugResume {c : Nat} (h : d.InRange) : (d.debugResume c).InRange := by
  unfold Dev.debugResume
  exact .ite (.freezeEnd (.clrBits (.when h fun h => .epochRestart h))) (.clrBits (.when h fun h => .epochRestart h))

/-! ## Sys2Proof/Machine/Adc.lean -/

theorem cluRecord {n : Nat} {r : BitVec 64} (h : d.InRange) : (d.cluRecord n r).InRange := by
  unfold Dev.cluRecord
  exact .ite (.cluUpd h) (.ite (.cluUpd h) h)

theorem cluSats {g : Nat} {l : List Int} (h : d.InRange) : (d.cluSats g l).InRange := h

theorem cluVector {g vec c : Nat} (h : d.InRange) : (d.cluVector g vec c).InRange := by
  unfold Dev.cluVector
  exact .ite (.cluUpd (.cluSats h)) (.when h fun h => .count h)

theorem adcEmit {n : Nat} {r : BitVec 64} (h : d.InRange) : (d.adcEmit n r).InRange := by
  unfold Dev.adcEmit
  extract_lets _ d1 _ d2
  have h1 : d1.InRange := .when (.setReg h) fun h => .count h
  have h2 : d2.InRange := .cluRecord (.when h1 fun h => .count h)
  exact .splFeed (.ite (.coffRecord h2) h2)

theorem adcCount {n : Nat} {r : BitVec 64} (h : d.InRange) : (d.adcCount n r).InRange := by
  unfold Dev.adcCount
  exact .adcUpd (.set h) fun k => iteInduction (fun _ => k) fun _ => k

theorem adcAperture {n : Nat} {v : Conv} (h : d.InRange) : (d.adcAperture n v).InRange := by
  unfold Dev.adcAperture
  exact .ite h (.ite (.adcUpd (.ite (.adcEmit h) h) fun k => k) (.ite (.adcCount (.adcEmit h)) (.adcEmit h)))

theorem adcNext {n : Nat} {next : Dev → Dev} (h : d.InRange) (hn : ∀ {d}, d.InRange → (next d).InRange) :
    (d.adcNext n next).InRange := by
  unfold Dev.adcNext
  obtain ⟨-, hq, -⟩ := h.adcAt (n := n)
  split
  next who i c q he =>
    rw [he] at hq
    exact .urgBegin (.urgShow (.adcUpd h fun k => k.queue fun x hx => hq x (List.mem_cons_of_mem _ hx)))
      (hq _ List.mem_cons_self)
  · exact hn h

theorem udcTake {r : BitVec 64} (h : d.InRange) : (d.udcTake r).InRange := by
  unfold Dev.udcTake
  exact .ite (.each h fun h => .cluUpd (.cluSats h)) h

theorem refEvt (h : d.InRange) : d.refEvt.InRange := by
  unfold Dev.refEvt
  exact .each h fun h => .raise h

theorem calInvalid (h : d.InRange) : d.calInvalid.InRange := h

theorem refBegin (h : d.InRange) : d.refBegin.InRange := by
  unfold Dev.refBegin
  exact .ite (.refEvt (.set h)) h

theorem refSelect {sel : Nat} (h : d.InRange) : (d.refSelect sel).InRange := by
  unfold Dev.refSelect
  extract_lets d1
  have h1 : d1.InRange := .set (.beside h)
  exact .ite (.ite h (.count h)) (.ite (.refBegin h1) (.ite (.refEvt (.set (.calInvalid (.set h1)))) h1))

theorem calBegin {n : Nat} (h : d.InRange) : (d.calBegin n).InRange := by
  unfold Dev.calBegin
  exact .clkEval (.setBits (.set h))

theorem calStart {mask : Nat} (h : d.InRange) : (d.calStart mask).InRange := by
  unfold Dev.calStart
  exact .each h fun h => .ite h (.ite (.calBegin h) (.count h))

theorem startDeferred (h : d.InRange) : d.startDeferred.InRange := by
  unfold Dev.startDeferred
  exact .each h fun h => .ite (.adcStart h) h

theorem calFailHold {n : Nat} (h : d.InRange) : (d.calFailHold n).InRange := by
  unfold Dev.calFailHold
  exact .eachOf h fun h => .when h fun h => .hemSafe h

theorem trimStart (h : d.InRange) : d.trimStart.InRange := by
  unfold Dev.trimStart
  exact .ite h (.ite (.set h) (.clkEval (.set h)))

theorem rwsRefuse {o : Origin} (h : d.InRange) : (d.rwsRefuse o).InRange := by
  unfold Dev.rwsRefuse
  exact .ite (.count h) (.count h)

theorem rwsStored (h : d.InRange) : d.rwsStored.InRange := h

theorem trimWrite {o : Origin} (h : d.InRange) : (d.trimWrite o).InRange := by
  unfold Dev.trimWrite
  exact .ite h (.ite (.trimStart (.rwsStored h)) (.rwsRefuse h))

/-! ## Sys2Proof/Machine/Gch.lean -/

theorem gchReport {n bits : Nat} (h : d.InRange) : (d.gchReport n bits).InRange := by
  unfold Dev.gchReport
  exact .each (.gchUpd (.setReg (.ite (.setReg h) h))) fun h => .when h fun h => .jnlFault (.raise h)

theorem gchShowCause {n : Nat} (h : d.InRange) : (d.gchShowCause n).InRange := h

theorem gchLatch {n bits cause : Nat} (h : d.InRange) : (d.gchLatch n bits cause).InRange := by
  unfold Dev.gchLatch
  exact .ite (.gchUpd h) (.gchShowCause (.gchReport (.gchUpd h)))

theorem gchTrip {n st : Nat} (h : d.InRange) : (d.gchTrip n st).InRange := by
  unfold Dev.gchTrip
  exact .ite (.disEnd (.when h fun h => .gateOffBy h)) (.gchPut (.gateOff (.when h fun h => .gateOffBy h)))

theorem gchFault1 {n bits cause : Nat} {soft : Bool} {from_ : List Nat} (h : d.InRange) : (d.gchFault1 n bits cause soft
  from_).InRange := by
  unfold Dev.gchFault1
  extract_lets _ d1 d2
  have h1 : d1.InRange := .gchLatch h
  have h2 : d2.InRange := .ite (.gchUpd h1) h1
  exact .ite h (.ite (.ite (.gchUpd h2) h2) (.ite (.gchTrip h2) h2))

theorem gchGroupSafe {n : Nat} (h : d.InRange) : (d.gchGroupSafe n).InRange := by
  unfold Dev.gchGroupSafe
  exact .ite h (.ite (.groupSafe h) h)

theorem gchFault {n bits cause : Nat} {soft : Bool} {from_ : List Nat} (h : d.InRange) : (d.gchFault n bits cause soft
  from_).InRange := by
  unfold Dev.gchFault
  exact .gchGroupSafe (.eachOf h fun h => .gchFault1 h)

theorem supplyPut {n : Nat} {vpos vneg : BitVec 8} (h : d.InRange) : (d.supplyPut n vpos vneg).InRange := by
  unfold Dev.supplyPut
  exact .ite (.gchUpd h) (.set (.set (.gchUpd h)))

theorem tableLoad {n : Nat} (h : d.InRange) : (d.tableLoad n).InRange := h

theorem tableLoadAll (h : d.InRange) : d.tableLoadAll.InRange := by
  unfold Dev.tableLoadAll
  exact .each h fun h => .when h fun h => .tableLoad h

theorem edgeLearn {n : Nat} {on : Bool} {ts : Option Nat} {code vdsOff : Nat} (h : d.InRange) : (d.edgeLearn n on ts code
  vdsOff).InRange := by
  unfold Dev.edgeLearn
  extract_lets _ _ _ _ _ d1 _ _ _ d2 d3
  have h1 : d1.InRange := .gchUpd h
  have h2 : d2.InRange := .gchUpd (.set (.set (.set h1)))
  have h3 : d3.InRange := by unfold d3; split; exacts [.set (.gchUpd h2), .count h2]
  apply InRange.ite h3
  split
  · exact .count h3
  · exact .ite (.count h3) (.ite h3 (.when (.count (.tableLoad (.set h3))) fun h => .raise h))

theorem sidesAgain (h : d.InRange) : d.sidesAgain.InRange := by
  unfold Dev.sidesAgain
  exact .each (.showAsc h) fun h => .ite (.applySet h) h

theorem trainDone {n : Nat} (h : d.InRange) : (d.trainDone n).InRange := by
  unfold Dev.trainDone
  extract_lets d1 _ d2 _ d3 _ _ _ d4 d5
  have h1 : d1.InRange := .gchUpd h
  have h2 : d2.InRange := .set (.set (.tableLoad h1))
  have h3 : d3.InRange := .when (.clrBits (.setBits h2)) fun h => .setB h
  have h4 : d4.InRange := .gchShowCause (.when h3 fun h => .gchReport h)
  have h5 : d5.InRange := .ite (.setPaths h4) h4
  exact .foHoldAll (.sidesAgain (.driveEval (.gchPut (.when h5 fun h => .gateOff h))))

theorem supplyRead {n : Nat} {r : Rails} (h : d.InRange) : (d.supplyRead n r).InRange := h

theorem trainFail {n : Nat} (h : d.InRange) : (d.trainFail n).InRange := h

theorem ascRelease {g : Nat} (h : d.InRange) : (d.ascRelease g).InRange := by
  unfold Dev.ascRelease
  exact .eachOf h fun h => .ite (.set (.eachOf h fun h => .ite (.gchOff h) h)) h

theorem gateDisable (h : d.InRange) : d.gateDisable.InRange := by
  unfold Dev.gateDisable
  exact .each (.set h) fun h => .ite (.gateOff h) (.gchTrip h)

theorem gateClear {n : Nat} {stuck rising : Bool} (h : d.InRange) : (d.gateClear n stuck rising).InRange := by
  unfold Dev.gateClear
  exact .ite (.gchPut (.gchShowCause (.setReg (.gchUpd h)))) (.gchShowCause (.setReg (.gchUpd h)))

theorem gateClearAll {stuck : Nat} {rising : Bool} (h : d.InRange) : (d.gateClearAll stuck rising).InRange := by
  unfold Dev.gateClearAll
  exact .each (.sidesAgain (.each h fun h => .gateClear h)) fun h => .driveEval h

theorem gateRise {lowNs stuck : Nat} (h : d.InRange) : (d.gateRise lowNs stuck).InRange := by
  unfold Dev.gateRise
  extract_lets d1 _ _ d2
  have h1 : d1.InRange := .set (.set h)
  have h2 : d2.InRange := .ite (.drawn h1) h1
  exact .ite (.count (.gateClearAll (.set (.ite h2 (.thmEvalAll (.gateDisable h2)))))) (.ite (.count (.gateClearAll h2))
    (.count h2))

/-! ## Sys2Proof/Machine/Clu.lean -/

theorem clampActs {g kind : Nat} {f : Fld} {acts : Bool} (h : d.InRange) : (d.clampActs g kind f acts).InRange := by
  unfold Dev.clampActs
  exact .ite h (.ite (.raiseLim (.count (.beside h))) (.beside h))

theorem takePair {g : Nat} (h : d.InRange) : (d.takePair g).InRange := by
  unfold Dev.takePair
  split; exacts [.cluUpd h, .ite (.cluUpd h) h]

theorem cluRefs {g : Nat} (h : d.InRange) : (d.cluRefs g).InRange := by
  unfold Dev.cluRefs
  exact .setReg (.clampActs (.clampActs (.clampActs (.cluSats (.setReg (.takePair h))))))

theorem cluPark {g tm : Nat} (h : d.InRange) : (d.cluPark g tm).InRange := h

theorem cluTrip {g : Nat} (h : d.InRange) : (d.cluTrip g).InRange := by
  unfold Dev.cluTrip
  exact .groupSafe h

theorem cluMeasure {g tm : Nat} (h : d.InRange) : (d.cluMeasure g tm).InRange := by
  unfold Dev.cluMeasure
  extract_lets _ _ _ _ _ _ _ d1 _ _ _ _ _ _ d2
  have h1 : d1.InRange := .when (.cluUpd (.cluSats h)) fun h => .raise (.add (.set h))
  have h2 : d2.InRange := .cluUpd (.cluSats h1)
  exact .ite (.when (.cluUpd h1) fun h => .cluTrip h) (.cluPark (.each (.when h2 fun h => .raise (.set h)) fun h => .setReg
    h))

theorem showRecon {g : Nat} (h : d.InRange) : (d.showRecon g).InRange := by
  unfold Dev.showRecon
  split; exacts [.set h, (.each (.set (.cluSats h)) fun h => .setReg h)]

theorem disagreeSats {g : Nat} {rec : List Int} (h : d.InRange) : (d.disagreeSats g rec).InRange := h

theorem cluDecide {g : Nat} (h : d.InRange) : (d.cluDecide g).InRange := by
  unfold Dev.cluDecide
  exact .ite (.jnlFault (.cluPut (.eachOf (.raise (.set (.set h))) fun h => .set h))) (.jnlFault (.cluTrip h))

theorem cluCompare {g : Nat} (h : d.InRange) : (d.cluCompare g).InRange := by
  unfold Dev.cluCompare
  extract_lets
  split
  · exact h
  · extract_lets d1 _ _ d2
    have h1 : d1.InRange := .cluUpd (.disagreeSats h)
    have h2 : d2.InRange := .cluUpd h1
    exact .ite h (.ite (.cluUpd h1) (.when (.raise (.set h2)) fun h => .cluDecide h))

theorem cluFromRecon {g tm : Nat} (h : d.InRange) : (d.cluFromRecon g tm).InRange := by
  unfold Dev.cluFromRecon
  split; exacts [.cluPark (.cluUpd h), .ite (.jnlFault (.cluTrip (.cluUpd h))) (.cluUpd h)]

theorem cluControl {g : Nat} {rec : Bool} {half : Nat} (h : d.InRange) : (d.cluControl g rec half).InRange := by
  unfold Dev.cluControl
  extract_lets d1 _ _ _ _ _ _ _ _ _ _ _ _ _ _ _ _ _ _ _ d2 _ d3
  have h1 : d1.InRange := .cluRefs h
  have h2 : d2.InRange := .cluUpd (.cluSats h1)
  have h3 : d3.InRange := .setB (.setB (.when h2 fun h => .raiseLim h))
  exact .setReg (.setReg (.setReg (.setReg h3)))

theorem cluPlan {g tm : Nat} {fixed : Bool} {order : Nat × Nat × Nat} {rise fall : List Int} (h : d.InRange) : (d.cluPlan g tm
  fixed order rise fall).InRange := by
  unfold Dev.cluPlan
  exact .ite (.cluUpd h) (by split; exact .when (.add (.cluUpd h)) fun h => .count h)

theorem cluRepeat {g tm : Nat} (h : d.InRange) : (d.cluRepeat g tm).InRange := by
  unfold Dev.cluRepeat
  exact .ite (.cluUpd h) (.ite (.cluUpd (.cluPlan h)) (.cluPlan h))

theorem dutySats {g : Nat} {va vb : Int} (h : d.InRange) : (d.dutySats g va vb).InRange := h

theorem cluModulate {g tm : Nat} {peak : Bool} (h : d.InRange) : (d.cluModulate g tm peak).InRange := by
  unfold Dev.cluModulate
  split; exact .cluUpd (.ite (.set (.dutySats h)) (.cluPlan (.set (.dutySats h))))

theorem cluSpool {g tm : Nat} (h : d.InRange) : (d.cluSpool g tm).InRange := by
  unfold Dev.cluSpool
  exact .each h fun h => by split; exacts [.splFeed h, h]

theorem cluInput {g tm : Nat} (h : d.InRange) : (d.cluInput g tm).InRange := by
  unfold Dev.cluInput
  extract_lets _ d1 d2 d3
  have h1 : d1.InRange := .ite (.cluMeasure h) h
  have h2 : d2.InRange := .showRecon h1
  have h3 : d3.InRange := .ite (.cluCompare h2) h2
  exact .ite (.cluUpd h1) (.cluUpd (.ite (.cluFromRecon h3) h3))

theorem cluOutput {g tm : Nat} (h : d.InRange) : (d.cluOutput g tm).InRange := by
  unfold Dev.cluOutput
  exact .ite h (.ite (.cluSpool (.cluModulate (.cluControl h))) (.cluSpool (.ite h (.cluRepeat h))))

theorem cluTransfer {g : Nat} {bad : Bool} (h : d.InRange) : (d.cluTransfer g bad).InRange := by
  unfold Dev.cluTransfer
  exact .ite (.cluTrip (.raise (.set h))) (.ite h (.carCommit h))

theorem cluLasting {g : Nat} (h : d.InRange) : (d.cluLasting g).InRange := by
  unfold Dev.cluLasting
  exact .when (.when h fun h => .set h) fun h => .set h

theorem enableRefuse {g why : Nat} (h : d.InRange) : (d.enableRefuse g why).InRange := by
  unfold Dev.enableRefuse
  exact .set (.count (.eachOf (.when h fun h => .raiseLim (.count h)) fun h => .set h))

theorem enableTake {g : Nat} (h : d.InRange) (hg : g < 2) : (d.enableTake g).InRange := by
  unfold Dev.enableTake
  extract_lets d1 _ d2
  have h1 : d1.InRange := .eachOf h fun h => .set (.set (.setReg (.set (.set (.set (.cluUpd h))))))
  have h2 : d2.InRange := .eachOf (.ascRelease h1) fun h => .set h
  refine .posStart (kept_eachOf (.cluPut h2) fun {x e} hx h => .urgRequest h ?_)
  simp [urgentOk, Dev.mem_groups_lt hg hx]

theorem cluEnable {g : Nat} (h : d.InRange) (hg : g < 2) : (d.cluEnable g).InRange := by
  unfold Dev.cluEnable
  exact .ite h (.ite (.enableTake h hg) (.enableRefuse h))

theorem cluOff {g : Nat} (h : d.InRange) : (d.cluOff g).InRange := by
  unfold Dev.cluOff
  exact .cluPut (.eachOf (.posEnd h) fun h => .set h)

theorem cluDisable {g : Nat} (h : d.InRange) : (d.cluDisable g).InRange := by
  unfold Dev.cluDisable
  exact .ite h (.cluOff h)

theorem sixSet (h : d.InRange) : d.sixSet.InRange := by
  unfold Dev.sixSet
  exact .cluPut1 (.set (.ite h (.posEnd h)))

theorem offsetStore {g : Nat} (h : d.InRange) : (d.offsetStore g).InRange := by
  unfold Dev.offsetStore
  exact .each h fun h => .ite h (.setI h)

/-! ## Sys2Proof/Machine/Align.lean -/

theorem alignFail {p res : Nat} (h : d.InRange) : (d.alignFail p res).InRange := by
  unfold Dev.alignFail
  exact .posLost (.raise (.set (.alignOff h)))

theorem alignDrive {p : Nat} {v a : Int} (h : d.InRange) : (d.alignDrive p v a).InRange := by
  unfold Dev.alignDrive
  split; exacts [h, (.eachOf h fun h => .carCommit (.dutySats h))]

theorem alignPulse {p k : Nat} (h : d.InRange) (hk : k < 14) : (d.alignPulse p k).InRange := by
  unfold Dev.alignPulse
  exact .alignDrive (.posUpd h fun _ => by exact hk)

theorem alignEval {p : Nat} (h : d.InRange) : (d.alignEval p).InRange := by
  unfold Dev.alignEval
  exact .ite (.alignFail (.set h)) (.alignPulse (.posUpd (.set h) fun k => k) (by decide))

theorem alignMap {p : Nat} {t0 : Int} (h : d.InRange) : (d.alignMap p t0).InRange := by
  unfold Dev.alignMap
  exact .posSrc (.posUpd h fun k => k)

theorem alignOpen {p : Nat} {t0 : Int} (h : d.InRange) : (d.alignOpen p t0).InRange := by
  unfold Dev.alignOpen
  exact .posSrc (.posUpd h fun k => k)

theorem testRun {p : Nat} (h : d.InRange) : (d.testRun p).InRange := by
  unfold Dev.testRun
  split; exacts [.ite (.cluPut h) h, h]

theorem alignPass {p : Nat} {t0 : Int} (h : d.InRange) : (d.alignPass p t0).InRange := by
  unfold Dev.alignPass
  extract_lets _ d1 _ d2
  have h1 : d1.InRange := .alignOff (.set (.set h))
  have h2 : d2.InRange := .testRun (.ite (.alignMap h1) (.alignOpen h1))
  exact .ite (.posLost h2) (.posShow h2)

theorem alignPolarity {p : Nat} (h : d.InRange) : (d.alignPolarity p).InRange := by
  unfold Dev.alignPolarity
  exact .ite (.alignFail (.set h)) (.alignPass (.set h))

/-! ## Sys2Proof/Machine/Fio.lean -/

theorem foWrite {n mode : Nat} (h : d.InRange) : (d.foWrite n mode).InRange := by
  unfold Dev.foWrite
  extract_lets
  apply InRange.ite h
  apply InRange.ite (.raiseLim (.count h))
  apply InRange.ite (.ite (.foPut (.set h)) (.set h))
  exact .ite (.ite (.foResume (.set h)) (.foPut (.set h))) (.ite (.ite (.foResume (.set h)) (.foPut (.set h))) (.set h))

theorem foCurrent {n : Nat} {ma : BitVec 16} (h : d.InRange) : (d.foCurrent n ma).InRange := by
  unfold Dev.foCurrent
  exact .when h fun h => .set h

theorem foFights {b : Nat} {l : List Nat} (h : d.InRange) : (d.foFights b l).InRange := by
  unfold Dev.foFights
  exact .eachOf h fun h => .setBits (.set (.foPut h))

theorem foLatch {n cause : Nat} {fight : Bool} (h : d.InRange) : (d.foLatch n cause fight).InRange := by
  unfold Dev.foLatch
  exact .raise (.foFights (.when (.foUpd (.setBits (.set (.foPut h)))) fun h => .setBits h))

theorem foBrakeLatch {n cause : Nat} (h : d.InRange) : (d.foBrakeLatch n cause).InRange := by
  unfold Dev.foBrakeLatch
  exact .raise (.foFights (.sbcFault (.foUpd (.setBits (.set h)))))

theorem foClear {n : Nat} (h : d.InRange) : (d.foClear n).InRange := by
  unfold Dev.foClear
  exact .ite (.foHold (.set (.foResume (.clrBits h)))) (.clrBits h)

theorem foClearMask {mask : Nat} (h : d.InRange) : (d.foClearMask mask).InRange := by
  unfold Dev.foClearMask
  exact .each h fun h => .when h fun h => .foClear h

theorem diFiltered {n : Nat} (h : d.InRange) : (d.diFiltered n).InRange := by
  unfold Dev.diFiltered
  exact .ite (.beside h) (.raiseIf (.ite (.setBits (.beside h)) (.clrBits (.beside h))))

theorem diRaw {n : Nat} {level : Bool} (h : d.InRange) : (d.diRaw n level).InRange := by
  unfold Dev.diRaw
  extract_lets d1
  have h1 : d1.InRange := .ite (.setBits h) (.clrBits h)
  exact .ite h (.ite (.when (.beside h1) fun h => .count h) (.ite (.diFiltered h1) (.beside h1)))

/-! ## Sys2Proof/Machine/Stepper.lean -/

theorem coilClamp {n : Nat} (h : d.InRange) : (d.coilClamp n).InRange := by
  unfold Dev.coilClamp
  exact .when h fun h => .raiseLim (.count h)

theorem coilUpd {n : Nat} {b : Bool} {f : Coil → Coil} (h : d.InRange) : (d.coilUpd n b f).InRange := h

theorem thrCount {n : Nat} {b up : Bool} (h : d.InRange) : (d.thrCount n b up).InRange := by
  unfold Dev.thrCount
  exact .when h fun h => .count h

theorem chopLow {n : Nat} {b : Bool} (h : d.InRange) : (d.chopLow n b).InRange := h

theorem chopOn {n : Nat} {b low : Bool} (h : d.InRange) : (d.chopOn n b low).InRange := by
  unfold Dev.chopOn
  exact .ite (.coilUpd h) (.ite (.chopLow h) (.thrCount (.coilUpd h)))

theorem chopOff {n : Nat} {b low : Bool} (h : d.InRange) : (d.chopOff n b low).InRange := by
  unfold Dev.chopOff
  exact .ite (.chopLow h) (.thrCount (.coilUpd h))

theorem chopSum {n : Nat} {b : Bool} {off : Nat} (h : d.InRange) : (d.chopSum n b off).InRange := h

theorem bandTake {n r : Nat} (h : d.InRange) : (d.bandTake n r).InRange := by
  unfold Dev.bandTake
  exact .raise (.set (.set (.set h)))

theorem bandTick {n : Nat} {rest : Bool} (h : d.InRange) : (d.bandTick n rest).InRange := by
  unfold Dev.bandTick
  exact .ite (.set (.set h)) (.ite (.bandTake h) (.ite (.count (.bandTake h)) (.set (.set h))))

theorem homeFail {n why : Nat} (h : d.InRange) : (d.homeFail n why).InRange := by
  unfold Dev.homeFail
  exact .raise (.set (.set (.set h)))

theorem homeAbort {n why : Nat} (h : d.InRange) : (d.homeAbort n why).InRange := by
  unfold Dev.homeAbort
  exact .ite (.homeFail h) h

theorem axStop {n : Nat} {e : Bool} (h : d.InRange) : (d.axStop n e).InRange := by
  unfold Dev.axStop
  exact .axPut (.axisUpd h)

theorem axFault {n off : Nat} (h : d.InRange) : (d.axFault n off).InRange := by
  unfold Dev.axFault
  exact .jnlFault (.axPut (.axBridgesOff (.axHalt h)))

theorem axStall {n : Nat} (h : d.InRange) : (d.axStall n).InRange := by
  unfold Dev.axStall
  extract_lets _ d1 _ _ d2
  have h1 : d1.InRange := .raise (.set (.set h))
  have h2 : d2.InRange := .homeAbort (.axisUpd h1)
  exact .ite (.axFault h2) (.ite (.axStop h2) (.ite (.axStop h2) h2))

theorem loadPublish {n : Nat} {c : Coil} (h : d.InRange) : (d.loadPublish n c).InRange := by
  unfold Dev.loadPublish
  exact .when (.axisUpd (.set (.set (.setI (.setI (.ite (.drawn h) h)))))) fun h => .axStall h

theorem windowEnd {n : Nat} {c : Coil} (h : d.InRange) : (d.windowEnd n c).InRange := by
  unfold Dev.windowEnd
  exact .ite (.blindShow (.axisUpd h)) (.loadPublish (.blindShow (.axisUpd h)))

theorem coilTick {n : Nat} {b low : Bool} (h : d.InRange) : (d.coilTick n b low).InRange := by
  unfold Dev.coilTick
  extract_lets _ _ _ d1 _ _ d2
  have h1 : d1.InRange := .ite h (.coilUpd h)
  have h2 : d2.InRange := .coilUpd (.ite (.coilUpd h1) (.ite (.windowEnd (.coilUpd h1)) h1))
  exact .ite h2 (.ite (.coilUpd h2) (.ite (.chopOn h2) h2))

theorem jerkTake {n : Nat} {s x : Int} {goal : Option Int} (h : d.InRange) : (d.jerkTake n s x goal).InRange := h

theorem axToward {n : Nat} {vt e : Int} {jerk : Bool} (h : d.InRange) : (d.axToward n vt e jerk).InRange := by
  unfold Dev.axToward
  exact .ite (.axisUpd (.setI h)) (.jerkTake h)

theorem axTurn {n : Nat} {s left : Int} (h : d.InRange) : (d.axTurn n s left).InRange := by
  unfold Dev.axTurn
  exact .ite (.axToward h) (.axisUpd (.setI h))

theorem axSeek {n : Nat} {tgt : Int} {vmax : Int} (h : d.InRange) : (d.axSeek n tgt vmax).InRange := by
  unfold Dev.axSeek
  exact .ite (.axTurn h) (.ite (.jerkTake (.drawn h)) (.axisUpd (.setI (.drawn h))))

theorem axMove {n : Nat} {w : Int} (h : d.InRange) : (d.axMove n w).InRange := h

theorem axShow {n : Nat} (h : d.InRange) : (d.axShow n).InRange := by
  unfold Dev.axShow
  exact .ite (.setReg h) (.setB (.setReg h))

theorem axGo {n : Nat} (h : d.InRange) : (d.axGo n).InRange := by
  unfold Dev.axGo
  exact .ite (.axPut (.when (.set h) fun h => .coilClamp h)) h

theorem axTarget {n : Nat} {x : Int} (h : d.InRange) : (d.axTarget n x).InRange := by
  unfold Dev.axTarget
  exact .axGo (.axisUpd h)

theorem axSpeed {n : Nat} {x : Int} (h : d.InRange) : (d.axSpeed n x).InRange := by
  unfold Dev.axSpeed
  exact .axGo (.axisUpd h)

theorem axTgtWrite {n : Nat} {v : BitVec 64} (h : d.InRange) : (d.axTgtWrite n v).InRange := by
  unfold Dev.axTgtWrite
  exact .ite (.setReg h) (.axTarget (.setReg h))

theorem axVtgtWrite {n : Nat} {v : BitVec 64} (h : d.InRange) : (d.axVtgtWrite n v).InRange := by
  unfold Dev.axVtgtWrite
  exact .ite (.setReg h) (.axSpeed (.setReg h))

theorem axPosWrite {n : Nat} {v : BitVec 64} (h : d.InRange) : (d.axPosWrite n v).InRange := by
  unfold Dev.axPosWrite
  exact .ite (.axShow (.axisUpd h)) (.ite h (.count h))

theorem axSwap1 {n : Nat} {new : Bool} (h : d.InRange) : (d.axSwap1 n new).InRange := by
  unfold Dev.axSwap1
  exact .ite (.ite (.axUnhold h) h) (.ite (.axTarget (.ite (.axUnhold h) h)) (.axSpeed (.ite (.axUnhold h) h)))

theorem axSwap {own : Nat → Bool} {pub : List Nat} (h : d.InRange) : (d.axSwap own pub).InRange := by
  unfold Dev.axSwap
  exact .each h fun h => .when h fun h => .axSwap1 h

theorem axEnable {n : Nat} (h : d.InRange) : (d.axEnable n).InRange := by
  unfold Dev.axEnable
  exact .ite h (.ite (.count (.set h)) (.axPut (.coilClamp (.set (.axisUpd (.set (.set (.set (.set (.set h))))))))))

theorem axDisable {n : Nat} (h : d.InRange) : (d.axDisable n).InRange := by
  unfold Dev.axDisable
  exact .ite (.set h) (.axPut (.set (.axBridgesOff (.axHalt (.homeAbort h)))))

theorem axStopWrite {n : Nat} (h : d.InRange) : (d.axStopWrite n).InRange := by
  unfold Dev.axStopWrite
  exact .ite (.axStop (.homeAbort h)) (.axisUpd h)

theorem homeStart {n : Nat} (h : d.InRange) : (d.homeStart n).InRange := by
  unfold Dev.homeStart
  exact .ite (.axPut (.when (.set (.set (.set h))) fun h => .coilClamp h)) h

theorem limTrip {n : Nat} (h : d.InRange) : (d.limTrip n).InRange := by
  unfold Dev.limTrip
  exact .ite h (.axStop (.raise (.set (.setI h))))

theorem homeLimit {n : Nat} (h : d.InRange) : (d.homeLimit n).InRange := by
  unfold Dev.homeLimit
  exact .ite h (.axStop (.homeFail (.when (.when h fun h => .raise (.set h)) fun h => .raise (.set h))))

theorem homeConfirm {n : Nat} (h : d.InRange) : (d.homeConfirm n).InRange := h

theorem axRest {n : Nat} (h : d.InRange) : (d.axRest n).InRange := by
  unfold Dev.axRest
  exact .axPut (.axisUpd (.set h))

theorem axStep {n : Nat} {tgt : Option Int} (h : d.InRange) : (d.axStep n tgt).InRange := by
  unfold Dev.axStep
  extract_lets; split; exacts [.axMove h, .ite (.axisUpd (.set h)) (.axMove h)]

theorem moveTick {n : Nat} (h : d.InRange) : (d.moveTick n).InRange := by
  unfold Dev.moveTick
  extract_lets _ _ d1 _ d2 _ _ d3
  have h1 : d1.InRange := .axStep (.axSeek h)
  have h2 : d2.InRange := .axStep (.axToward h)
  have h3 : d3.InRange := .setI (.axMove h)
  split; exacts [.ite (.raise (.axRest h1)) h1, .ite (.axRest h2) h2, .ite (.axPut h3) h3, .axRest h]

theorem homeMove {n : Nat} {back : Bool} (h : d.InRange) : (d.homeMove n back).InRange := by
  unfold Dev.homeMove
  exact .axStep (.axToward h)

theorem homePhase {n st : Nat} (h : d.InRange) : (d.homePhase n st).InRange := h

theorem homeDone {n : Nat} (h : d.InRange) : (d.homeDone n).InRange := by
  unfold Dev.homeDone
  exact .axRest (.raise (.set (.set h)))

theorem homeTick {n : Nat} (h : d.InRange) : (d.homeTick n).InRange := by
  unfold Dev.homeTick
  extract_lets d1 d2 d3 d4 _ d5
  have h1 : d1.InRange := .homeMove h
  have h2 : d2.InRange := .homeMove h
  have h3 : d3.InRange := .axStep (.axToward h)
  have h4 : d4.InRange := .axisUpd h3
  have h5 : d5.InRange := .axStep (.axSeek h)
  split
  · exact .homePhase h
  · split; exacts [.ite (.homePhase h1) h1, .ite (.axStop (.homeFail h1)) h1]
  · exact .ite (.axStop (.homeFail h2)) h2
  · exact .homeMove h
  · exact .ite h3 (.ite (.set h4) (.homeDone h4))
  · exact .ite (.homeDone h5) h5
  · exact h

theorem stopTick {n : Nat} (h : d.InRange) : (d.stopTick n).InRange := by
  unfold Dev.stopTick
  exact .ite (.axRest (.axisUpd (.axStep (.axToward h)))) (.axStep (.axToward h))

theorem restTick {n : Nat} (h : d.InRange) : (d.restTick n).InRange := h

theorem coilResult {n : Nat} {b : Bool} {stamp mean : Nat} (h : d.InRange) : (d.coilResult n b stamp mean).InRange := by
  unfold Dev.coilResult
  extract_lets _ _ _ d1
  have h1 : d1.InRange := .coilUpd h
  exact .ite h (.ite (.axFault (.raise (.set (.homeAbort h1)))) (.ite h1 (.ite (.coilUpd h1) (.coilUpd (.setI h1)))))

theorem axFltClear {n mask : Nat} (h : d.InRange) : (d.axFltClear n mask).InRange := h

/-! ## Sys2Proof/Machine/Engine.lean -/

theorem stwPut {n w : Nat} {v : BitVec 64} (h : d.InRange) : (d.stwPut n w v).InRange := h

theorem slFlt {n kind : Nat} (h : d.InRange) : (d.slFlt n kind).InRange := by
  unfold Dev.slFlt
  exact .ite (.raiseLim h) (.trigCause h)

theorem flightPut {n : Nat} {l : List Flight} (h : d.InRange) (hl : ∀ f ∈ l, f.InRange) : (d.flightPut n l).InRange := by
  unfold Dev.flightPut
  exact .set (.slcUpd h fun k => k.flight hl)

theorem slSats {n : Nat} {l : List Int} (h : d.InRange) : (d.slSats n l).InRange := h

theorem pcBy {n k : Nat} (h : d.InRange) : (d.pcBy n k).InRange := h

theorem issueBy {n opc : Nat} {reads writes : Oper → List Nat} {need : Nat} {f : Oper → Dev → Dev} (h : d.InRange)
    (hf : ∀ {o d}, d.InRange → (f o d).InRange) : (d.issueBy n opc reads writes need f).InRange := by
  unfold Dev.issueBy
  split; exacts [h, .ite (.pcBy (hf h)) h]

theorem issue0 {n opc : Nat} {reads : Oper → List Nat} {f : Oper → Dev → Dev} (h : d.InRange)
    (hf : ∀ {o d}, d.InRange → (f o d).InRange) : (d.issue0 n opc reads f).InRange := by
  unfold Dev.issue0
  exact .issueBy h hf

theorem issueMac {n opc : Nat} {f : Oper → Dev → Dev} (h : d.InRange)
    (hf : ∀ {o d}, d.InRange → (f o d).InRange) : (d.issueMac n opc f).InRange := by
  unfold Dev.issueMac
  exact .issueBy h hf

theorem issue1 {n opc : Nat} {reads : Oper → List Nat} {f : Oper → Dev → Dev} (h : d.InRange)
    (hf : ∀ {o d}, d.InRange → (f o d).InRange) : (d.issue1 n opc reads f).InRange := by
  unfold Dev.issue1
  exact .issueBy h hf

theorem now1 {n w : Nat} {raw : Int} (h : d.InRange) : (d.now1 n w raw).InRange := h

theorem later {n : Nat} {l : List (Nat × Int)} (h : d.InRange) : (d.later n l).InRange := by
  unfold Dev.later
  exact .flightPut (.slSats h) (h.slSats.slcAt.snoc nofun)

theorem alu {n opc : Nat} {reads : Oper → List Nat} {f : Int → Int → Int → Int} (h : d.InRange) :
    (d.alu n opc reads f).InRange := by
  unfold Dev.alu
  exact .issue1 h fun h => .now1 h

theorem macPut {n : Nat} {x : Int} (h : d.InRange) : (d.macPut n x).InRange := by
  unfold Dev.macPut
  extract_lets d1 d2
  have h2 : d2.InRange := .slcUpd (.when h fun h => .count h) fun k => k
  exact .flightPut h2 (h2.slcAt.snoc nofun)

theorem divCount {n : Nat} {b : Int} (h : d.InRange) : (d.divCount n b).InRange := by
  unfold Dev.divCount
  exact .when h fun h => .slFlt (.count h)

theorem rootCount {n : Nat} {a : Int} (h : d.InRange) : (d.rootCount n a).InRange := by
  unfold Dev.rootCount
  exact .when h fun h => .slFlt (.count h)

theorem closeIf {g : Nat} (h : d.InRange) : (d.closeIf g).InRange := by
  unfold Dev.closeIf
  exact .when h fun h => .egrUpd h fun k => k

theorem slReturn {n : Nat} (h : d.InRange) : (d.slReturn n).InRange := by
  unfold Dev.slReturn
  exact .clkEval (.set h)

theorem splEnd {n : Nat} (h : d.InRange) : (d.splEnd n).InRange := by
  unfold Dev.splEnd
  exact .each h fun h => .when h fun h => .splMade h

theorem opResult {n k : Nat} (h : d.InRange) : (d.opResult n k).InRange := by
  unfold Dev.opResult
  extract_lets d1
  obtain ⟨-, -, hf⟩ := h.slcAt (n := n)
  have h1 : d1.InRange := .flightPut h fun f hm => hf f (List.mem_of_mem_eraseIdx hm)
  split
  · exact h
  · split; exacts [.eachOf h1 fun h => .stwPut h, .ite (.count h1) (.portUpd h1 fun k => k)]

theorem tuneWrite {c : Commit} (h : d.InRange) : (d.tuneWrite c).InRange := by
  unfold Dev.tuneWrite
  exact .eachOf h fun h => .when (.stwPut h) fun h => .set h

theorem tuneApply {g : Nat} (h : d.InRange) : (d.tuneApply g).InRange := by
  unfold Dev.tuneApply
  refine List.foldlRecOn (motive := fun acc : Dev × List Commit => acc.1.InRange) _ _ h fun acc h p _ => ?_
  split
  · exact h
  · split
    · exact h
    · exact .set (.set (.portUpd (.tuneWrite (.when h fun h => .add h)) fun k => k.wait fun _ hc => by cases hc))

theorem slOpen {n : Nat} (h : d.InRange) : (d.slOpen n).InRange := by
  unfold Dev.slOpen
  extract_lets _ _ _ d1
  have h1 : d1.InRange := .slcUpd h fun k => k
  split
  · exact .ite (.set h1) (.ite (.slcUpd (.set (.set h1)) fun k => k.noOuts) h1)
  · exact .ite (.slFlt (.count h1)) h1
  · exact h1

theorem grpTrigger {g : Nat} (h : d.InRange) : (d.grpTrigger g).InRange := by
  unfold Dev.grpTrigger
  extract_lets _ d1 _ _ d2
  have h1 : d1.InRange := .egrUpd h fun k => k
  have h2 : d2.InRange := .egrUpd h1 fun _ => .nil
  exact .ite (.egrUpd h fun k => k) (.ite (.count h1) (.clkEval (.closeIf (.eachOf (.tuneApply (.set h2)) fun h => .slOpen h))))

theorem accept (h : d.InRange) : d.accept.InRange := by
  unfold Dev.accept
  refine kept_eachOf h fun {n d} hn h => ?_
  obtain ⟨-, hb, -⟩ := h.slcAt (n := n)
  have hn : n < 64 := List.mem_range.mp (List.mem_filter.mp (List.mem_of_mem_take hn)).1
  split
  · exact h
  next b he => exact .slcUpd (.egrUpd h fun k => k.accepts hn (hb b he)) fun k => k.noBlock

theorem hemGuard {w : Nat} (h : d.InRange) : (d.hemGuard w).InRange := by
  unfold Dev.hemGuard
  exact .each (.eachOf (.jnlHem (.raise (.set (.count h)))) fun h => .hemSafe h) fun h => .when h fun h => .axHold h

theorem ageWord {w : Nat} (h : d.InRange) : (d.ageWord w).InRange := by
  unfold Dev.ageWord
  exact .ite h (.ite (.hemGuard (.raise (.count (.set h)))) (.set h))

theorem posSwaps {g : Nat} {pub : List Nat} {cmds : List Int} (h : d.InRange) : (d.posSwaps g pub cmds).InRange := by
  unfold Dev.posSwaps
  exact .each h fun h => .ite (.posSwap h) h

theorem swap {g : Nat} (h : d.InRange) : (d.swap g).InRange := by
  unfold Dev.swap
  extract_lets _ _ _ d1 _ _ d2 _ d3
  have h1 : d1.InRange := .setReg h
  have h2 : d2.InRange := .egrUpd (.eachOf (.set h1) fun h => .set (.setReg h)) fun _ => .nil
  have h3 : d3.InRange := .each (.eachOf h2 fun h => .ite h (.ite (.raiseIf (.eachOf h fun h => .ageWord h)) (.slFlt (.count
    (.eachOf h fun h => .ageWord h))))) fun h => .when h fun h => .splMade h
  exact .clkEval (.posSwaps (.axSwap h3))

theorem slRunPut {n : Nat} {run : Bool} (h : d.InRange) : (d.slRunPut n run).InRange := by
  unfold Dev.slRunPut
  exact .ite (.when (.slcUpd (.set (.clkEval (.setB h))) fun k => k) fun h => .set h) (.clkEval (.setB h))

theorem slRun {o : Origin} {n : Nat} {run : Bool} (h : d.InRange) : (d.slRun o n run).InRange := by
  unfold Dev.slRun
  exact .ite (.count h) (.slRunPut h)

theorem tuneEntries {p count : Nat} (h : d.InRange) : ∀ x ∈ d.tuneEntries p count, tuneInRange x := by
  intro x hx
  obtain ⟨k, -, rfl⟩ := List.mem_map.mp hx
  split
  · exact ⟨Dev.get_lt .., Dev.get_lt ..⟩
  · obtain ⟨hs, -⟩ := h.portAt (n := p)
    split
    next e he => exact hs e (List.mem_of_find?_eq_some he)
    · exact ⟨by decide, by decide⟩

theorem tune {p count : Nat} {restart : Bool} (h : d.InRange) : (d.tune p count restart).InRange := by
  unfold Dev.tune
  exact .ite (.count (.set h)) (.ite (.set (.tuneWrite h)) (.set (.portUpd h fun k => k.wait fun c hc => by
    obtain rfl := Option.some.inj hc
    exact h.tuneEntries)))

/-! ## Sys2Proof/Machine/Assist.lean -/

theorem xPut {c rd : Nat} {v : BitVec 64} (h : d.InRange) : (d.xPut c rd v).InRange := by
  unfold Dev.xPut
  exact .ite h (.ite (.portUpd (.portUpd h fun k => k) fun k => k) (.portUpd h fun k => k))

theorem coreRegPut {c r : Nat} {v : BitVec 64} (h : d.InRange) : (d.coreRegPut c r v).InRange := by
  unfold Dev.coreRegPut
  exact .ite (.xPut h) (.ite (.portUpd (.portUpd h fun k => k) fun k => k) (.portUpd h fun k => k))

theorem assistResult {n op : Nat} {a b : Int} (h : d.InRange) : (d.assistResult n op a b).1.InRange := by
  unfold Dev.assistResult
  split
  rename_i e raw he
  refine .slSats ?_
  split at he <;> obtain ⟨rfl, rfl⟩ := Prod.mk.injEq .. ▸ he
  exacts [.divCount h, .rootCount h, h, h, h, h]

theorem assistIssue {c : Nat} {r : LaReq} (h : d.InRange) (hc : c < 4) : (d.assistIssue c r).InRange := by
  unfold Dev.assistIssue
  exact .ite h (.portUpd (.flightPut (.assistResult h) (h.assistResult.slcAt.snoc fun e he => by
    obtain rfl := Option.some.inj he
    exact hc)) fun k => k)

theorem assistPump (h : d.InRange) : d.assistPump.InRange := by
  unfold Dev.assistPump
  exact kept_each h fun hi h => .eachOf h fun h => .assistIssue h hi

theorem laDo {c : Nat} {i : LaOp} (h : d.InRange) : (d.laDo c i).InRange := by
  unfold Dev.laDo
  split; exacts [.xPut (.portUpd h fun k => k), .portUpd h fun k => k, .portUpd h fun k => k]

theorem laServe {k : Nat} {new : Bool} {c : Nat} (h : d.InRange) : (Dev.laServe k new d c).InRange := by
  induction k generalizing new d with
  | zero => exact h
  | succ k ih =>
    rw [Dev.laServe.eq_2]
    split
    · exact h
    · exact .ite (ih (.laDo (.portUpd h fun k => k))) (by split; exacts [.when h fun h => .count h, h])

theorem laPump {c : Nat} (h : d.InRange) : (d.laPump c).InRange := by
  unfold Dev.laPump
  exact .clkEval (.assistPump (.laServe h))

theorem laGo {c : Nat} {i : LaOp} (h : d.InRange) : (d.laGo c i).InRange := by
  unfold Dev.laGo
  exact .ite h (.clkEval (.assistPump (.laServe (.portUpd h fun k => k))))

theorem laAct {c : Nat} {w : LaWrite} (h : d.InRange) : (d.laAct c w).InRange := by
  unfold Dev.laAct
  split; exacts [.portUpd h fun k => k.stage ⟨fieldGet_lt .., fieldGet_lt ..⟩, .tune h, .ite (.count h) (.slRunPut h)]

theorem squashReq {c j : Nat} (h : d.InRange) : (d.squashReq c j).InRange := by
  unfold Dev.squashReq
  split
  · exact h
  · exact .ite (.count (.portUpd h fun k => k)) (.slcUpd (.portUpd h fun k => k) fun k => k.squash fun f =>
    iteInduction (motive := fun g : Flight => g.assist = f.assist) (fun _ => rfl) fun _ => rfl)

theorem squashRet {c j : Nat} (h : d.InRange) : (d.squashRet c j).InRange := by
  unfold Dev.squashRet
  split; exacts [h, (.count (by split; exacts [.count (.xPut (.portUpd h fun k => k)), .xPut (.portUpd h fun k => k)]))]

theorem laExec {c : Fin 4} {w : BitVec 32} (h : d.InRange) : (d.laExec c w).InRange := by
  unfold Dev.laExec
  extract_lets; split; exacts [.laGo h, .portUpd h fun k => k]

theorem splArm (h : d.InRange) : d.splArm.InRange := by
  unfold Dev.splArm
  extract_lets _ d1
  have h1 : d1.InRange := .set (.set (.set h))
  exact .ite h (.ite (.count (.set h)) (.eachOf (.beside h1) fun h => .setSch (.set (.set (.set h)))))

theorem splStop (h : d.InRange) : d.splStop.InRange := by
  unfold Dev.splStop
  exact .ite (.set h) h

theorem splForce (h : d.InRange) : d.splForce.InRange := by
  unfold Dev.splForce
  exact .ite (.splFire h) h

theorem splLevel {c : Nat} {rec : List (BitVec 64)} (h : d.InRange) : (d.splLevel c rec).InRange := by
  unfold Dev.splLevel
  exact .ite h (by split; exacts [h, (.when (.setSch h) fun h => .splTrigger h)])

/-! ## Sys2Proof/Machine/Sys.lean -/

theorem pllStop (h : d.InRange) : d.pllStop.InRange := by
  unfold Dev.pllStop
  exact .showFrozen (.beside (.each h fun h => .set h))

theorem lossSequence {vhold : Nat} (h : d.InRange) : (d.lossSequence vhold).InRange := by
  unfold Dev.lossSequence
  extract_lets _ d1 _ _ _ _ d2 _ d3
  have h1 : d1.InRange := .journal (.count (.raise (.set h)))
  have h2 : d2.InRange := .hemHold (.set (.beside h1))
  have h3 : d3.InRange := .each (.when h2 fun h => .eachOf h fun h => .hemSafe h) fun h => .axHold h
  exact .when (.pllStop (.brakeShow (.brakeApply h3))) fun h => .disCommand h

theorem sleepReq (h : d.InRange) : d.sleepReq.InRange := by
  unfold Dev.sleepReq
  exact .ite (.ite (.clkEval (.set h)) (.set (.count h))) h

theorem pllMark {p : Nat} {fw on : Bool} (h : d.InRange) : (d.pllMark p fw on).InRange := by
  unfold Dev.pllMark
  exact .ite (.setB h) (.beside h)

/-! ## Sys2Proof/Machine/Hem.lean -/

theorem pairRefuse {why : Nat} (h : d.InRange) : (d.pairRefuse why).InRange := by
  unfold Dev.pairRefuse
  exact .raise (.set h)

theorem roleTo {p : Nat} (h : d.InRange) : (d.roleTo p).InRange := by
  unfold Dev.roleTo
  exact .raise (.set h)

theorem roleFromRetired {p : Nat} (h : d.InRange) : (d.roleFromRetired p).InRange := by
  unfold Dev.roleFromRetired
  exact .ite (.roleTo h) h

theorem portDrop {c : Nat} (h : d.InRange) : (d.portDrop c).InRange := by
  unfold Dev.portDrop
  refine .portUpd (.slcUpd h fun k => k.squash fun f => ?_) fun k => k
  split
  · exact iteInduction (motive := fun g : Flight => g.assist = f.assist) (fun _ => rfl) fun _ => rfl
  · rfl

theorem checkpoint {p : Nat} (h : d.InRange) : (d.checkpoint p).InRange := h

theorem bothGone (h : d.InRange) : d.bothGone.InRange := by
  unfold Dev.bothGone
  exact .when (.hemHold (.beside h)) fun h => .eachOf h fun h => .hemSafe h

theorem splitCancel {p : Nat} (h : d.InRange) : (d.splitCancel p).InRange := by
  unfold Dev.splitCancel
  exact .ite (.pairRefuse (.pairUpd h)) h

theorem retire {p : Nat} (h : d.InRange) : (d.retire p).InRange := by
  unfold Dev.retire
  extract_lets _ d1
  have h1 : d1.InRange := .jnlHem (.raise (.portDrop (.set h)))
  split; exacts [.bothGone h1, .ite (.roleTo (.splitCancel h1)) h1, .ite (.pairUpd (.set h1)) h1, h1]

theorem handRefuse {p why : Nat} (h : d.InRange) : (d.handRefuse p why).InRange := by
  unfold Dev.handRefuse
  exact .ite (.pairRefuse (.pairUpd (.set h))) h

theorem chkLoad {p : Nat} (h : d.InRange) : (d.chkLoad p).InRange := by
  unfold Dev.chkLoad
  exact .each (.each h fun h => .portUpd h fun k => k) fun h => .setReg h

theorem released {p us : Nat} (h : d.InRange) : (d.released p us).InRange := by
  unfold Dev.released
  exact .roleFromRetired (.raise (.set (.count (.set (.eachOf (.chkLoad (.pairUpd h)) fun h => .set h)))))

theorem classRef (h : d.InRange) : d.classRef.InRange := h

theorem dogWrite {o : Origin} {key : Nat} (h : d.InRange) : (d.dogWrite o key).InRange := by
  unfold Dev.dogWrite
  exact .ite (.classRef h) (.ite (.beside h) h)

theorem handStart {p : Nat} {split : Bool} (h : d.InRange) : (d.handStart p split).InRange := by
  unfold Dev.handStart
  exact .raise (.pairUpd (.set h))

theorem splitWrite {o : Origin} (h : d.InRange) : (d.splitWrite o).InRange := by
  unfold Dev.splitWrite
  apply InRange.ite (.classRef h)
  split
  · exact .classRef h
  · exact .ite h (.ite (.pairRefuse h) (.ite (.pairRefuse h) (.ite (.handStart h) (.pairUpd h))))

theorem ownerReq {o : Origin} (h : d.InRange) : (d.ownerReq o).InRange := by
  unfold Dev.ownerReq
  exact .ite (.classRef h) (.ite h (.ite (.pairRefuse h) (.handStart h)))

theorem safeAck {o : Origin} (h : d.InRange) : (d.safeAck o).InRange := by
  unfold Dev.safeAck
  split; exacts [.ite h (.ite (.set h) (.set (.set h))), h]

theorem rejoin {c : Nat} (h : d.InRange) : (d.rejoin c).InRange := by
  unfold Dev.rejoin
  exact .ite h (by split; exacts [.pairUpd h, .ite h (.pairUpd (.set h))])

theorem tempKeep (h : d.InRange) : d.tempKeep.InRange := by
  unfold Dev.tempKeep
  exact .eachOf h fun h => by split; exacts [.beside h, h]

theorem derateShow {g : Nat} {below : Bool} (h : d.InRange) : (d.derateShow g below).InRange := by
  unfold Dev.derateShow
  exact .ite h (.raise (.beside h))

theorem derateFactors {g : Nat} {ks : List Nat} (h : d.InRange) : (d.derateFactors g ks).InRange := h

theorem derate {g : Nat} (h : d.InRange) : (d.derate g).InRange := by
  unfold Dev.derate
  exact .derateShow (.beside (.set (.derateFactors h)))

theorem holdEval (h : d.InRange) : d.holdEval.InRange := by
  unfold Dev.holdEval
  exact .hemHold (.hemHold (.hemHold (.hemHold (.hemHold h))))

/-! ## Sys2Proof/Machine/AuxAdc.lean -/

theorem auxNext {m k : Nat} (h : d.InRange) (hk : k < 32) : (d.auxNext m k).InRange := by
  unfold Dev.auxNext
  split
  · refine .auxUpd h fun _ j hj => ?_
    dsimp only at hj
    split at hj
    · obtain rfl := Option.some.inj hj
      decide
    · cases hj
  next hlast =>
    refine .auxUpd h fun _ j hj => ?_
    obtain rfl := Option.some.inj hj
    omega

theorem auxCoils {k stamp mean : Nat} (h : d.InRange) : (d.auxCoils k stamp mean).InRange := by
  unfold Dev.auxCoils
  exact .each h fun h => .when (.when h fun h => .coilResult h) fun h => .coilResult h

theorem auxPublish {m k : Nat} {l : List Nat} (h : d.InRange) : (d.auxPublish m k l).InRange := by
  unfold Dev.auxPublish
  extract_lets _ _ _ _ _ _ _ _ _ _ d1
  have h1 : d1.InRange := .when (.when (.setReg h) fun h => .count h) fun h => .count h
  exact .ite (.auxCoils h1) (.ite (.beside h1) h1)

/-! ## Sys2Proof/Machine/Content.lean -/

theorem stagePut {e : BitVec 40 × BitVec 64} (h : d.InRange) : (d.stagePut e).InRange := h

/-! ## Sys2Proof/Machine/Thimble.lean -/

theorem selPut {g : Nat} {asc : Bool} (h : d.InRange) : (d.selPut g asc).InRange := by
  unfold Dev.selPut
  extract_lets _ d1 d2
  have h1 : d1.InRange := .raise (.eachOf h fun h => .setB (.setB h))
  have h2 : d2.InRange := .ascRelease h1
  exact .ite h (.ite h1 (.ite (.thmToSto h2) h2))

theorem thmChecks (h : d.InRange) : d.thmChecks.InRange := by
  unfold Dev.thmChecks
  extract_lets _ _ d1 d2 _ d3
  have h1 : d1.InRange := .when (.when h fun h => .jnlThimble h) fun h => .jnlThimble h
  have h2 : d2.InRange := .ite h1 (.beside h1)
  have h3 : d3.InRange := .when (.setB h2) fun h => .jnlThimble h
  exact .when (.setB h3) fun h => .jnlThimble h

theorem thmShow (h : d.InRange) : d.thmShow.InRange := by
  unfold Dev.thmShow
  exact .set (.setB (.setB (.set (.showLog (.showSet h)))))

theorem siPut {k st : Nat} (h : d.InRange) : (d.siPut k st).InRange := by
  unfold Dev.siPut
  exact .ite h (.raise (.set h))

theorem siCause (h : d.InRange) : d.siCause.InRange := by
  unfold Dev.siCause
  exact .ite (.setBits h) (.clrBits h)

theorem siStep {k : Nat} (h : d.InRange) : (d.siStep k).InRange := by
  unfold Dev.siStep
  exact .siCause (by split; exacts [.ite (.siPut (.set h)) h, .ite (.siPut h) h, .ite h (.siPut h), .ite (.siPut h) h, h])

theorem siStart {k : Nat} (h : d.InRange) : (d.siStart k).InRange := by
  unfold Dev.siStart
  exact .siStep (.siPut (.set h))

theorem thmStart (h : d.InRange) : d.thmStart.InRange := by
  unfold Dev.thmStart
  extract_lets _ d1
  have h1 : d1.InRange := .eachOf (.each (.set h) fun h => .siStart h) fun h => .selPut h
  exact .thmEvalAll (.driveEval (.setPaths (.setPaths h1)))

theorem thmForget (h : d.InRange) : d.thmForget.InRange := by
  unfold Dev.thmForget
  exact .showUnlock (.brakeShow (.set (.set (.each (.withThm h fun _ => .idle rfl) fun h => .set h))))

theorem speedRead {g : Nat} (h : d.InRange) : (d.speedRead g).InRange := by
  unfold Dev.speedRead
  split
  · extract_lets _ d1
    have h1 : d1.InRange := .eachOf h fun h => .tgrpUpd (.setB (.setI h))
    exact .ite (.selPut h1) (.ite (.selPut h1) h1)

theorem ss1Demand {g : Nat} (h : d.InRange) : (d.ss1Demand g).InRange := by
  unfold Dev.ss1Demand
  exact .demandSto h

theorem ss1Violate {g : Nat} (h : d.InRange) : (d.ss1Violate g).InRange := by
  unfold Dev.ss1Violate
  exact .ss1Demand (.raise (.thmLatch (.eachOf h fun h => .tgrpUpd h)))

theorem ss1Complete {g : Nat} (h : d.InRange) : (d.ss1Complete g).InRange := by
  unfold Dev.ss1Complete
  exact .ite (.eachOf (.brakeApply (.raise h)) fun h => .tgrpUpd h) (.ss1Demand (.raise h))

theorem tmJudge {pdc pexp : Int} {wasBlind : Bool} (h : d.InRange) : (d.tmJudge pdc pexp wasBlind).InRange := by
  unfold Dev.tmJudge
  exact .ite (.set h) (.ite (.set h) (.thmEvalAll (.eachOf (.raise (.thmLatch (.set h))) fun h => .groupSafe h)))

theorem tudcShow {v : Nat} (h : d.InRange) : (d.tudcShow v).InRange := h

theorem dcShow {l : List (BitVec 12 × BitVec 12)} (h : d.InRange) : (d.dcShow l).InRange := by
  unfold Dev.dcShow
  split; exacts [h, .setI (.tudcShow h)]

theorem lockPut {sec : Nat} (h : d.InRange) : (d.lockPut sec).InRange := by
  unfold Dev.lockPut
  exact .setB (.set (.ite h (.beside h)))

theorem thmAnswer {tag code r : Nat} (h : d.InRange) : (d.thmAnswer tag code r).InRange := by
  unfold Dev.thmAnswer
  exact .raise (.when (.set (.set (.set h))) fun h => .count h)

theorem release {g : Nat} (h : d.InRange) : (d.release g).InRange := by
  unfold Dev.release
  extract_lets _ d1
  have h1 : d1.InRange := .showDemand (.eachOf h fun h => .tgrpUpd h)
  exact .ite (.permitGroup (.thmPut h1)) h1

theorem clearBrakeLatches (h : d.InRange) : d.clearBrakeLatches.InRange := by
  unfold Dev.clearBrakeLatches
  exact .eachOf (.clrBits h) fun h => .when h fun h => .foPut h

theorem pwdWrong (h : d.InRange) : d.pwdWrong.InRange := by
  unfold Dev.pwdWrong
  exact .ite (.count (.add h)) (.raise (.jnlThimble (.lockPut (.count (.add h)))))

theorem setActs (h : d.InRange) : d.setActs.InRange := by
  unfold Dev.setActs
  extract_lets _ d1 _ d2
  have h1 : d1.InRange := .each (.carClamps (.showSet h)) fun h => .coilClamp h
  have h2 : d2.InRange := .eachOf (.each h1 fun h => .ite h (.siStart h)) fun h => .ite h (.selPut h)
  exact .thmEvalAll (.hemHold (.set (.set h2)))

/-! ## Sys2Proof/Machine/Sfl.lean -/

theorem sflShow (h : d.InRange) : d.sflShow.InRange := h

theorem sflSend {k ver kind : Nat} {pay : List (BitVec 8)} (h : d.InRange) : (d.sflSend k ver kind pay).InRange := by
  unfold Dev.sflSend
  exact .ite (.count h) (.when (.sflShow (.beside h)) fun h => .raise h)

theorem sflPop (h : d.InRange) : d.sflPop.InRange := h

theorem sflThm {k : Nat} (h : d.InRange) : (d.sflThm k).InRange := by
  unfold Dev.sflThm
  exact .when h fun h => .thmEvalAll h

theorem sflPut {k st : Nat} (h : d.InRange) : (d.sflPut k st).InRange := h

theorem sflDown {k st : Nat} (h : d.InRange) : (d.sflDown k st).InRange := by
  unfold Dev.sflDown
  exact .raise (.sflPut h)

theorem sflCrcFail {k : Nat} (h : d.InRange) : (d.sflCrcFail k).InRange := by
  unfold Dev.sflCrcFail
  exact .ite (.sflThm (.jnlFault (.sflDown (.set (.count (.connUpd h)))))) (.set (.count (.connUpd h)))

theorem sflEnable {k : Nat} {en : Bool} (h : d.InRange) : (d.sflEnable k en).InRange := by
  unfold Dev.sflEnable
  extract_lets _ _ d1
  have h1 : d1.InRange := .setB (.when h fun h => .sflSend h)
  exact .sflThm (.ite (.when h1 fun h => .sflPut h) (.ite h1 (.connUpd (.sflPut h1))))

theorem sflData {k : Nat} {pay : List (BitVec 8)} (h : d.InRange) : (d.sflData k pay).InRange := by
  unfold Dev.sflData
  exact .sflSend (.set h)

theorem sflResult {k : Option Nat} {r : Nat} (h : d.InRange) : (d.sflResult k r).InRange := by
  unfold Dev.sflResult
  extract_lets _ d1
  have h1 : d1.InRange := by unfold d1; split; exacts [(.when (.set (.set h)) fun h => .set h), (.set h)]
  exact .raise (.when h1 fun h => .raiseLim (.count h))

theorem sflOpened {k seq : Nat} {pay : List (BitVec 8)} (h : d.InRange) : (d.sflOpened k seq pay).InRange := by
  unfold Dev.sflOpened
  exact .ite (.raise (.sflSend (.sflPut (.set (.set h))))) (.raise (.count (.sflSend (.set h))))

theorem sflAccept {k kind seq : Nat} {pay : List (BitVec 8)} (h : d.InRange) : (d.sflAccept k kind seq pay).InRange := by
  unfold Dev.sflAccept
  extract_lets _ _ _ e
  refine .sflThm ?_
  unfold e
  split
  · exact .connUpd (.set (.add h))
  · exact .sflOpened (.when h fun h => .sflDown h)
  · exact .ite (.raise (.count h)) (.raise (.sflPut (.set h)))
  · exact .sflDown h

theorem sflJudge {f : List (BitVec 8)} (h : d.InRange) : (d.sflJudge f).InRange := by
  unfold Dev.sflJudge
  extract_lets
  apply InRange.ite (.sflResult h)
  split
  · exact .sflResult h
  · extract_lets _ d1
    have h1 : d1.InRange := .sflResult h
    exact .ite (.sflCrcFail (.sflResult h)) (.ite (.sflSend (.sflResult h)) (.ite (.sflAccept h1) h1))

/-! ## Sys2Proof/Machine/CanCore.lean -/

theorem canEnd {n b : Nat} (h : d.InRange) : (d.canEnd n b).InRange := h

theorem canFail {n b why : Nat} (h : d.InRange) : (d.canFail n b why).InRange := by
  unfold Dev.canFail
  exact .raise (.set (.setBits (.canEnd h)))

theorem canFailAll {n why : Nat} {keep : Option Nat} (h : d.InRange) : (d.canFailAll n why keep).InRange := by
  unfold Dev.canFailAll
  exact .canUpd (.each h fun h => .when h fun h => .canFail h)

theorem canQueue {n : Nat} {f : CanFrame} (h : d.InRange) : (d.canQueue n f).InRange := h

theorem canStopped {n : Nat} (h : d.InRange) : (d.canStopped n).InRange := by
  unfold Dev.canStopped
  exact .ite (.clkEval (.set (.canUpd (.canFailAll h)))) h

theorem canCount {n tec rec : Nat} (h : d.InRange) : (d.canCount n tec rec).InRange := by
  unfold Dev.canCount
  extract_lets _ _ _ d1
  have h1 : d1.InRange := .when (.setB (.set (.set h))) fun h => .raise h
  exact .ite (.canStopped (.when (.raise (.count (.set (.canFailAll h1)))) fun h => .set h)) (.ite (.raise (.set h1)) (.ite
    (.raise (.set h1)) h1))

/-! ## Sys2Proof/Machine/Events.lean -/

theorem evrClearMask {t j mask : Nat} (h : d.InRange) : (d.evrClearMask t j mask).InRange := by
  unfold Dev.evrClearMask
  exact .each h fun h => .when h fun h => .evrClear h

theorem jnlGap (h : d.InRange) : d.jnlGap.InRange := by
  unfold Dev.jnlGap
  exact .ite (.journal (.beside h)) h

theorem jnlFlushEnd (h : d.InRange) : d.jnlFlushEnd.InRange := by
  unfold Dev.jnlFlushEnd
  exact .ite (.ite (.beside (.flushStop h)) (.flushStop h)) h

theorem jnlWritten {e : JEntry} {num fl : Nat} (h : d.InRange) : (d.jnlWritten e num fl).InRange := by
  unfold Dev.jnlWritten
  exact .jnlFlushEnd (.jnlGap (.when (.when (.set (.set (.beside h))) fun h => .count h) fun h => .raiseLim h))

theorem fwEntry {o : Origin} {k : Nat} (h : d.InRange) : (d.fwEntry o k).InRange := by
  unfold Dev.fwEntry
  exact .ite (.count h) (.jnlPut h)

theorem dtmTerm {x : Int} (h : d.InRange) : (d.dtmTerm x).InRange := h

theorem dtmServo {th : Int} {tau : Nat} (h : d.InRange) : (d.dtmServo th tau).InRange := h

theorem dtmStep {th : Int} (h : d.InRange) : (d.dtmStep th).InRange := by
  unfold Dev.dtmStep
  exact .raise (.journal (.count (.set (.beside h))))

theorem dtmLock {th : Int} (h : d.InRange) : (d.dtmLock th).InRange := by
  unfold Dev.dtmLock
  exact .ite (.ite (.raise (.set (.beside h))) (.raise (.count (.set (.beside h))))) (.beside h)

theorem dtmMeasure {th : Int} (h : d.InRange) : (d.dtmMeasure th).InRange := by
  unfold Dev.dtmMeasure
  extract_lets _ _ _ _ d1
  have h1 : d1.InRange := .count (.setI (.beside (.ite (.set (.beside h)) h)))
  exact .ite h (.dtmLock (.ite (.beside h1) (.dtmServo h1)))

theorem dtmSource {src : Nat} (h : d.InRange) : (d.dtmSource src).InRange := by
  unfold Dev.dtmSource
  extract_lets _ _ _ d1
  have h1 : d1.InRange := .beside (.set h)
  exact .ite h (.ite (.set (.dtmTerm h1)) (.set (.ite (.beside h1) h1)))

theorem dtmBoundary (h : d.InRange) : d.dtmBoundary.InRange := by
  unfold Dev.dtmBoundary
  extract_lets; split; exacts [.dtmStep (.beside h), .beside h]

theorem advance {dt : Nat} (h : d.InRange) : (d.advance dt).InRange := by
  unfold Dev.advance
  exact .ite (.beside h) (.dtmBoundary (.beside h))

theorem tick (h : d.InRange) : d.tick.InRange := by
  unfold Dev.tick
  exact .ite (.beside h) (.ite (.advance (.beside h)) (.advance (.beside h)))

/-! ## Sys2Proof/Machine/Domain.lean -/

theorem domIntervals (h : d.InRange) : d.domIntervals.InRange := by
  unfold Dev.domIntervals
  extract_lets; split; exacts [.ite (.setI (.setI (.beside h))) h, .ite h (.set (.set (.beside h)))]

theorem domPut {st : Nat} (h : d.InRange) : (d.domPut st).InRange := by
  unfold Dev.domPut
  exact .raise (.domIntervals (.set (.when h fun h => .set h)))

theorem domSend {typ arg : Nat} {data : List (BitVec 8)} (h : d.InRange) : (d.domSend typ arg data).InRange := h

theorem domDropClaims (h : d.InRange) : d.domDropClaims.InRange := h

theorem domClaim0 (h : d.InRange) : d.domClaim0.InRange := by
  unfold Dev.domClaim0
  exact .ite (.domSend (.beside (.domDropClaims h))) h

theorem domContend {late : Bool} (h : d.InRange) : (d.domContend late).InRange := by
  unfold Dev.domContend
  exact .ite (.domPut (.beside h)) h

theorem domRoles (h : d.InRange) : d.domRoles.InRange := by
  unfold Dev.domRoles
  exact .dtmSource (.set h)

theorem domMembers {l : List Member} (h : d.InRange) : (d.domMembers l).InRange := h

theorem domGateway (h : d.InRange) : d.domGateway.InRange := by
  unfold Dev.domGateway
  exact .domRoles (.set (.when (.setB (.set h)) fun h => .raise h))

theorem domLeader {uid : Nat} (h : d.InRange) : (d.domLeader uid).InRange := by
  unfold Dev.domLeader
  exact .domRoles (.when (.when (.setB (.set h)) fun h => .raise h) fun h => .count h)

theorem domTakeLead (h : d.InRange) : d.domTakeLead.InRange := by
  unfold Dev.domTakeLead
  exact .domSend (.domLeader h)

theorem domSay {l : List DirMsg} (h : d.InRange) : (d.domSay l).InRange := h

theorem domAlone (h : d.InRange) : d.domAlone.InRange := by
  unfold Dev.domAlone
  exact .when (.set (.raise (.count (.beside h)))) fun h => .domPut h

theorem domDirAck {leader num ver : Nat} (h : d.InRange) : (d.domDirAck leader num ver).InRange := by
  unfold Dev.domDirAck
  exact .ite (.ite (.domAlone h) (.beside h)) h

theorem domDirDone (h : d.InRange) : d.domDirDone.InRange := by
  unfold Dev.domDirDone
  exact .when h fun h => .domSend h

theorem domSegnum {num : Nat} (h : d.InRange) : (d.domSegnum num).InRange := by
  unfold Dev.domSegnum
  exact .ite (.domPut (.set (.set h))) (.ite (.set h) h)

theorem domDirClose (h : d.InRange) : d.domDirClose.InRange := by
  unfold Dev.domDirClose
  exact .ite h (.domDirDone (.eachOf (.domSay (.beside h)) fun h => .domDirAck h))

theorem domRegSeg {r : SegReg} (h : d.InRange) : (d.domRegSeg r).InRange := by
  unfold Dev.domRegSeg
  exact .ite h (.ite (.beside h) (.ite h (.when (.beside h) fun h => .domDirClose h)))

theorem domReport (h : d.InRange) : d.domReport.InRange := by
  unfold Dev.domReport
  exact .domRegSeg (.domSay h)

theorem domLeave {st : Nat} (h : d.InRange) : (d.domLeave st).InRange := by
  unfold Dev.domLeave
  exact .domPut (.domRoles (.set (.set (.eachOf (.beside (.domDropClaims h)) fun h => .set h))))

theorem domRefused (h : d.InRange) : d.domRefused.InRange := by
  unfold Dev.domRefused
  exact .raise (.count (.domLeave h))

theorem domClose (h : d.InRange) : d.domClose.InRange := by
  unfold Dev.domClose
  extract_lets _ _ _ _ _ d1 _ d2
  have h1 : d1.InRange := .set (.set (.beside h))
  have h2 : d2.InRange := .domGateway (.ite (.domTakeLead h1) (.domLeader h1))
  apply InRange.ite h
  exact .ite (.ite (.raise (.domLeave h)) h) (.ite (.domRefused h) (.ite (.domPut h2) (.domPut (.set h2))))

theorem domRegister {arg uid : Nat} (h : d.InRange) : (d.domRegister arg uid).InRange := by
  unfold Dev.domRegister
  extract_lets _ _ _ d1 _ d2
  have h1 : d1.InRange := .beside h
  have h2 : d2.InRange := .when (.domMembers h1) fun h => .set (.beside h)
  exact .ite h (.ite (.when (.domGateway (.raise (.count h2))) fun h => .domReport h) (.ite (.domClose h2) (.domClaim0 h2)))

theorem domTrunk {trunk : Bool} {uid : Nat} (h : d.InRange) : (d.domTrunk trunk uid).InRange := by
  unfold Dev.domTrunk
  exact .when (.beside h) fun h => .domGateway h

theorem domTrunkChanged {before : Bool} (h : d.InRange) : (d.domTrunkChanged before).InRange := by
  unfold Dev.domTrunkChanged
  exact .when h fun h => .domSend h

theorem domSent {f : CanFrame} (h : d.InRange) : (d.domSent f).InRange := by
  unfold Dev.domSent
  extract_lets
  apply InRange.ite h
  apply InRange.ite (.domClaim0 h)
  apply InRange.ite (.domSend h)
  apply InRange.ite (.domSend (.when h fun h => .drawn h))
  exact .ite (.domTrunkChanged (.domRegister h)) (.ite (.domTrunk h) (.ite (.domSegnum h) h))

theorem domHeardRef (h : d.InRange) : d.domHeardRef.InRange := by
  unfold Dev.domHeardRef
  exact .domContend h

theorem domPair {th : Int} (h : d.InRange) : (d.domPair th).InRange := by
  unfold Dev.domPair
  extract_lets _ d1 _ _ d2
  have h1 : d1.InRange := .when (.when h fun h => .dtmMeasure h) fun h => .domSend h
  have h2 : d2.InRange := .beside h1
  exact .ite (.ite h2 (.when (.when (.beside h2) fun h => .drawn h) fun h => .domTakeLead h)) h1

theorem domReady (h : d.InRange) : d.domReady.InRange := by
  unfold Dev.domReady
  exact .ite (.domPut (.set (.set h))) h

theorem domEnable {en : Bool} (h : d.InRange) : (d.domEnable en).InRange := by
  unfold Dev.domEnable
  exact .ite (.domReady (.setB h)) (.ite (.setB h) (.domLeave (.setB h)))

/-! ## Sys2Proof/Machine/Can.lean -/

theorem canRunSet {n : Nat} (h : d.InRange) : (d.canRunSet n).InRange := by
  unfold Dev.canRunSet
  exact .ite h (.ite (.set h) (.clkEval (.set (.set (.set h)))))

theorem canRunClear {n : Nat} (h : d.InRange) : (d.canRunClear n).InRange := by
  unfold Dev.canRunClear
  exact .ite h (.ite (.canUpd (.canFailAll (.set h))) (.canStopped (.canUpd (.canFailAll (.set h)))))

theorem canRecover {n : Nat} (h : d.InRange) : (d.canRecover n).InRange := by
  unfold Dev.canRecover
  exact .when h fun h => .set h

theorem refPeriodBegin {n : Nat} (h : d.InRange) : (d.refPeriodBegin n).InRange := h

theorem refSent {n stamp : Nat} (h : d.InRange) : (d.refSent n stamp).InRange := by
  unfold Dev.refSent
  exact .raise (.count (.set (.canUpd h)))

theorem canTxGood {n : Nat} (h : d.InRange) : (d.canTxGood n).InRange := by
  unfold Dev.canTxGood
  exact .canCount h

theorem canLoop {n : Nat} {f : CanFrame} {loop : Nat} (h : d.InRange) : (d.canLoop n f loop).InRange := by
  unfold Dev.canLoop
  exact .when h fun h => .set h

theorem canLost {n x : Nat} (h : d.InRange) : (d.canLost n x).InRange := by
  unfold Dev.canLost
  exact .ite (by split; exacts [h, (.when h fun h => .canUpd h)]) (.ite (.canFail h) (.ite (.canFail h) h))

theorem canFifoShow {n : Nat} (h : d.InRange) : (d.canFifoShow n).InRange := h

theorem refSeen {n : Nat} {f : CanFrame} (h : d.InRange) : (d.refSeen n f).InRange := by
  unfold Dev.refSeen
  exact .when (.when h fun h => .beside h) fun h => .when (.when h fun h => .refPeriodBegin h) fun h => .domHeardRef h

theorem refHeard {n stamp : Nat} (h : d.InRange) : (d.refHeard n stamp).InRange := by
  unfold Dev.refHeard
  exact .ite (.raise (.count h)) (.ite (.canUpd (.when h fun h => .count h)) h)

theorem followHeard {n master : Nat} (h : d.InRange) : (d.followHeard n master).InRange := by
  unfold Dev.followHeard
  extract_lets d1
  have h1 : d1.InRange := .canUpd h
  apply InRange.ite h
  split
  · exact .count h
  · exact .ite (.count (.count h1)) (.when (.raise (.count (.set (.setI h1)))) fun h => .domPair h)

theorem canRxGood {n : Nat} (h : d.InRange) : (d.canRxGood n).InRange := by
  unfold Dev.canRxGood
  exact .ite (.canCount (.drawn h)) (.canCount h)

theorem canException {n : Nat} (h : d.InRange) : (d.canException n).InRange := by
  unfold Dev.canException
  exact .ite (.raiseLim (.set (.count (.when (.canStopped (.canUpd h)) fun h => .set h)))) h

theorem canPop {n : Nat} (h : d.InRange) : (d.canPop n).InRange := by
  unfold Dev.canPop
  exact .ite h (.canFifoShow (.canUpd h))

/-! ## Sys2Proof/Machine/Eth.lean -/

theorem asSelect (h : d.InRange) : d.asSelect.InRange := by
  unfold Dev.asSelect
  exact .when (.when (.when (.setB (.set (.set (.set h)))) fun h => .raise h) fun h => .raise h) fun h => .domRoles h

theorem asForget {p : Nat} (h : d.InRange) : (d.asForget p).InRange := h

theorem ethLink {p : Nat} {up : Bool} {sqi : Nat} (h : d.InRange) : (d.ethLink p up sqi).InRange := by
  unfold Dev.ethLink
  exact .asSelect (.domTrunkChanged (.when (.set (.setB h)) fun h => .raise (.count (.asForget h))))

theorem syncSend {p t : Nat} (h : d.InRange) : (d.syncSend p t).InRange := h

theorem macLearn {a p : Nat} (h : d.InRange) : (d.macLearn a p).InRange := by
  unfold Dev.macLearn
  exact .ite h (.beside h)

theorem ethQueue {q : Nat} {hi : Bool} {l : List (BitVec 8)} (h : d.InRange) : (d.ethQueue q hi l).InRange := by
  unfold Dev.ethQueue
  exact .ite h (.ite (.count h) (.ite (.beside h) (.beside h)))

theorem ethLeave {q : Nat} (h : d.InRange) : (d.ethLeave q).InRange := by
  unfold Dev.ethLeave
  exact .ite h (.ite (.beside h) (.beside h))

theorem hostQueue {p stamp : Nat} {l : List (BitVec 8)} (h : d.InRange) : (d.hostQueue p stamp l).InRange := by
  unfold Dev.hostQueue
  exact .ite h (.ite (.count h) (.ite (.beside h) (.beside h)))

theorem idle (h : d.InRange) : d.idle.InRange := by
  unfold Dev.idle
  exact .ethLeave (.ethLeave (.tick h))

theorem switched {p : Nat} {l : List (BitVec 8)} {ok : Bool} {age : Nat} (h : d.InRange) : (d.switched p l ok age).InRange := by
  unfold Dev.switched
  extract_lets d1
  have h1 : d1.InRange := .macLearn h
  exact .ite h (.ite (.count h) (.ite (.count h) (.ite h (.when (.eachOf h1 fun h => .ethQueue h) fun h => .hostQueue h))))

/-! ## Sys2Proof/Machine/Spim.lean -/

theorem m0Upd {f : M0 → M0} (h : d.InRange) : (d.m0Upd f).InRange := h

theorem m0Go (h : d.InRange) : d.m0Go.InRange := by
  unfold Dev.m0Go
  exact .ite h (.ite (.count (.set h)) (.ite (.count (.set h)) (.clkEval (.m0Upd (.set (.set h))))))

theorem m1Show (h : d.InRange) : d.m1Show.InRange := h

theorem m1Start (h : d.InRange) : d.m1Start.InRange := by
  unfold Dev.m1Start
  split; exacts [h, .ite (.count (.beside h)) h]

theorem m1Tx {v : BitVec 64} (h : d.InRange) : (d.m1Tx v).InRange := by
  unfold Dev.m1Tx
  exact .ite (.count h) (.clkEval (.m1Show (.ite (.m1Start (.beside h)) (.beside h))))

theorem m1Received {w : BitVec 32} (h : d.InRange) : (d.m1Received w).InRange := by
  unfold Dev.m1Received
  exact .ite (.count h) (.raise (.beside h))

theorem m1Pop (h : d.InRange) : d.m1Pop.InRange := h

/-! ## Sys2Proof/Machine/Boot.lean -/

theorem setCause {slot c : Nat} (h : d.InRange) : (d.setCause slot c).InRange := h

theorem laResume (h : d.InRange) : d.laResume.InRange := by
  unfold Dev.laResume
  exact .each h fun h => .when h fun h => .laPump h

theorem jnlBoot {torn : Bool} (h : d.InRange) : (d.jnlBoot torn).InRange := by
  unfold Dev.jnlBoot
  exact .journal (.when (.set h) fun h => .raise (.count h))

theorem bootRelease (h : d.InRange) : d.bootRelease.InRange := by
  unfold Dev.bootRelease
  exact .each (.beside h) fun h => .pllReq h

theorem recoveryMode (h : d.InRange) : d.recoveryMode.InRange := by
  unfold Dev.recoveryMode
  exact .clkEval (.beside (.when (.set (.beside h)) fun h => .raise h))

theorem slotRefused {c : Nat} (h : d.InRange) : (d.slotRefused c).InRange := by
  unfold Dev.slotRefused
  exact .when (.beside (.setCause h)) fun h => .recoveryMode h

theorem segsDefault (h : d.InRange) : d.segsDefault.InRange := by
  unfold Dev.segsDefault
  exact .beside h

theorem stageStart (h : d.InRange) : d.stageStart.InRange := by
  unfold Dev.stageStart
  extract_lets _ _ d1 _ d2
  have h1 : d1.InRange := .carStart (.each (.when h fun h => .refSelect (.set h)) fun h => .when h fun h => .carStart h)
  have h2 : d2.InRange := .each (.each h1 fun h => .when (.set h) fun h => .adcRun h) fun h => .when h fun h => .slRunPut (.set
    h)
  exact .eachOf (.each h2 fun h => .when h fun h => .canRunSet (.set h)) fun h => .when h fun h => .sflEnable h

theorem activate {mismatch : Bool} (h : d.InRange) : (d.activate mismatch).InRange := by
  unfold Dev.activate
  extract_lets _ _ d1 _ _ d2
  have h1 : d1.InRange := .setReg (.set (.set (.set h)))
  have h2 : d2.InRange := .beside (.set (.setB h1))
  exact .thmEvalAll (.foHoldAll (.hemHold (.stageStart (.showUnlock (.tableLoadAll (.eachOf (.segsDefault h2) fun h =>
    .stagePut h))))))

theorem verify (h : d.InRange) : d.verify.InRange := by
  unfold Dev.verify
  exact .ite h (.set h)

/-! ## Sys2Proof/Machine/Crc.lean -/

theorem crcPut {u x : Nat} (h : d.InRange) : (d.crcPut u x).InRange := h

theorem crcFeed {u : Nat} {l : List (BitVec 8)} (h : d.InRange) : (d.crcFeed u l).InRange := h

theorem crcInit {u : Nat} (h : d.InRange) : (d.crcInit u).InRange := by
  unfold Dev.crcInit
  exact .ite h (.crcPut h)

theorem crcGo {u : Nat} (h : d.InRange) : (d.crcGo u).InRange := by
  unfold Dev.crcGo
  exact .ite h (.ite (.raise (.set h)) (.set (.set h)))

theorem crcData {u : Nat} {half : Bool} {v : Nat} (h : d.InRange) : (d.crcData u half v).InRange := by
  unfold Dev.crcData
  exact .ite (.count h) (.crcFeed h)

/-! ## Sys2Proof/Machine/Flow.lean -/

theorem flowValid {td tu dt : Int} (h : d.InRange) : (d.flowValid td tu dt).InRange := by
  unfold Dev.flowValid
  exact .when (.raiseIf (.count (.set (.setI (.set (.set (.setI (.beside h)))))))) fun h => .raise (.set h)

/-! ## Sys2Proof/Machine/Lua.lean -/

theorem luShow {n : Nat} (h : d.InRange) : (d.luShow n).InRange := h

theorem luError {n : Nat} (h : d.InRange) : (d.luError n).InRange := by
  unfold Dev.luError
  exact .raiseLim h

theorem luTx {n : Nat} {b : BitVec 8} (h : d.InRange) : (d.luTx n b).InRange := by
  unfold Dev.luTx
  exact .ite (.luError (.count h)) (.luShow (.luUpd h fun k => k))

theorem luPop {n : Nat} (h : d.InRange) : (d.luPop n).InRange := by
  unfold Dev.luPop
  exact .luShow (.luUpd h fun k => k)

theorem linEnd {n r : Nat} (h : d.InRange) : (d.linEnd n r).InRange := by
  unfold Dev.linEnd
  exact .when (.set (.set (.luUpd h fun _ _ hf => by cases hf))) fun h => .luError (.count h)

theorem linGo {n : Nat} (h : d.InRange) : (d.linGo n).InRange := by
  unfold Dev.linGo
  exact .ite h (.ite (.set h) (.set (.set (.luUpd h fun _ f hf k hk => by
    obtain rfl := Option.some.inj hf
    cases hk))))

theorem linDone {n : Nat} {f : LinFrame} {data : List (BitVec 8)} {sum : Nat} (h : d.InRange) :
    (d.linDone n f data sum).InRange := by
  unfold Dev.linDone
  refine .ite (.linEnd ?_) (.ite (.linEnd h) (.linEnd ?_))
  · split; exacts [.set h, h]
  · split; exacts [.set (.setReg h), .setReg h]

/-! ## Sys2Proof/Machine/Nfc.lean -/

theorem tagAnswer {l : List (BitVec 8)} (h : d.InRange) : (d.tagAnswer l).InRange := by
  unfold Dev.tagAnswer
  exact .when (.beside h) fun h => .count h

theorem tagError {code : BitVec 8} (h : d.InRange) : (d.tagError code).InRange := by
  unfold Dev.tagError
  exact .when (.tagAnswer h) fun h => .raiseLim (.count h)

theorem tagDirty {p : Nat} {on : Bool} (h : d.InRange) : (d.tagDirty p on).InRange := h

theorem tagProto {p : Nat} (h : d.InRange) : (d.tagProto p).InRange := h

theorem nfcFree (h : d.InRange) : d.nfcFree.InRange := by
  unfold Dev.nfcFree
  exact .clkEval (.set (.beside h))

/-! ## Sys2Proof/Machine/Bus.lean -/

theorem storeField {w : RegW} {idle : Bool} {x : Store} {f : FDef} (h : x.d.InRange) : (Store.field w idle x f).d.InRange := by
  unfold Store.field
  extract_lets
  split
  · exact h
  · cases f.acc
    case ro | wo => exact h
    case rw => exact .set h
    case w1c => exact .clrBits h
    case w1s => exact .setBits h
    case rws => dsimp only; split <;> [exact h; (split; exacts [.set h, h])]
    case rwi => dsimp only; split <;> [exact h; (split <;> [exact .count h; (split; exacts [.set h, h])])]

theorem regStore {w : RegW} {fs : List FDef} (h : d.InRange) : (d.regStore w fs).InRange := by
  unfold Dev.regStore
  extract_lets _ x d1
  have hx : x.d.InRange := List.foldlRecOn (motive := fun x : Store => x.d.InRange) _ _ h fun _ h _ _ => .storeField h
  have h1 : d1.InRange := .when (.when hx fun h => .rwsStored h) fun h => .rwsRefuse h
  split; exacts [.when h1 fun h => .count h, h1]

theorem actSys {w : RegW} {old : BitVec 64} (h : d.InRange) : (d.actSys w old).InRange := by
  unfold Dev.actSys
  apply InRange.ite (.when h fun h => .sleepReq h)
  exact .ite (.each h fun h => .ite (.pllEval h) h) (.ite (.when h fun h => .verify h) h)

theorem actIo {w : RegW} (h : d.InRange) : (d.actIo w).InRange := by
  unfold Dev.actIo
  extract_lets
  apply InRange.ite (.when h fun h => .foWrite h)
  apply InRange.ite (.foClearMask h)
  apply InRange.ite (.when h fun h => .ite (.adcRun h) (.adcStop h))
  apply InRange.ite (.when h fun h => .urgWrite h)
  apply InRange.ite (.when h fun h => .refSelect h)
  exact .ite (.when (.calStart h) fun h => .trimWrite h) (.ite (.posRewrite h) (.ite (.posClear h) (.ite (.excDrop h) h)))

theorem actEvent {w : RegW} (h : d.InRange) : (d.actEvent w).InRange := by
  unfold Dev.actEvent
  apply InRange.ite (.evrClearMask h)
  exact .ite (.when h fun h => .evrClear h) (.ite (.dtmRate h) (.ite (.when h fun h => .fwEntry h) h))

theorem actDrive {w : RegW} (h : d.InRange) (hw : w.base = A_CLU_CTL 0 → w.i < 2) {old : BitVec 64} :
    (d.actDrive w old).InRange := by
  unfold Dev.actDrive
  extract_lets _ d1
  have h1 : d1.InRange := .carFollow h
  refine iteInduction (fun hc => .when (.showAsc (.when h fun h => .carFollow (.sixSet h))) fun h => .ite
    (.cluEnable h (hw hc)) (.cluDisable h)) fun _ => ?_
  apply InRange.ite (.ite (.carStart h1) (.ite (.carStop h1) h1))
  apply InRange.ite (.when h fun h => .carDead h)
  exact .ite (.when h fun h => .fltClear h) (.ite (.showAsc h) (.ite (.when h fun h => .tableLoad h) h))

theorem actAxis {w : RegW} (h : d.InRange) : (d.actAxis w).InRange := by
  unfold Dev.actAxis
  extract_lets
  apply InRange.ite
  · exact .when (.when (.when h fun h => .ite (.axEnable h) (.axDisable h)) fun h => .axStopWrite h) fun h => .homeStart h
  · apply InRange.ite (.axPosWrite h)
    exact .ite (.axTgtWrite h) (.ite (.axVtgtWrite h) (.ite (.when h fun h => .coilClamp h) (.ite (.axFltClear h) h)))

theorem actCore {w : RegW} (h : d.InRange) : (d.actCore w).InRange := by
  unfold Dev.actCore
  extract_lets d1
  have h1 : d1.InRange := .when h fun h => .splitWrite h
  apply InRange.ite (.when (.when (.when h1 fun h => by split; exacts [.rejoin h, h]) fun h => .ownerReq h) fun h => .safeAck h)
  apply InRange.ite (.when h fun h => .dogWrite h)
  apply InRange.ite (.when h fun h => .slRun h)
  apply InRange.ite (.when h fun h => .tune h)
  exact .ite (.when (.when (.when h fun h => .splStop h) fun h => .splArm h) fun h => .splForce h) h

theorem actNet {w : RegW} {old : BitVec 64} (h : d.InRange) : (d.actNet w old).InRange := by
  unfold Dev.actNet
  extract_lets _ d1
  have h1 : d1.InRange := .each h fun h => .when h fun h => .ethLink h
  apply InRange.ite (.when (.when h fun h => .canRecover h) fun h => .ite (.canRunSet h) (.canRunClear h))
  apply InRange.ite (.when h fun h => .canPop h)
  apply InRange.ite (.asSelect (.ite h1 (.beside h1)))
  apply InRange.ite (.asSelect h)
  apply InRange.ite (.when h fun h => .sflPop h)
  apply InRange.ite
  · exact .when h fun h => .when (.sflEnable h) fun h => .thmEvalAll h
  · apply InRange.ite (.when h fun h => .crcPut h)
    exact .ite (.when (.when (.when h fun h => .crcInit h) fun h => .crcGo h) fun h => .set h) (.ite (.ite (.crcData h)
      (.crcData h)) h)

theorem actLink {w : RegW} (h : d.InRange) : (d.actLink w).InRange := by
  unfold Dev.actLink
  apply InRange.ite (.when h fun h => .m0Go h)
  apply InRange.ite (.m1Tx h)
  apply InRange.ite (.when h fun h => .m1Pop h)
  apply InRange.ite (.ite (.luPop h) (.when h fun h => .luTx h))
  exact .ite (.when h fun h => .linGo h) (.ite (.clkEval h) (.ite (.clkEval (.ite h (.set h))) h))

theorem regAct {w : RegW} (h : d.InRange) (hw : w.base = A_CLU_CTL 0 → w.i < 2) {old : BitVec 64} :
    (d.regAct w old).InRange := by
  unfold Dev.regAct
  extract_lets
  apply InRange.ite (.actSys h)
  apply InRange.ite (.actEvent h)
  exact .ite (.actIo h) (.ite (.actDrive h hw) (.ite (.actAxis h) (.ite (.actCore h) (.ite (.actNet h) (.actLink h)))))

theorem dbgUpd {f : Dbg → Dbg} (h : d.InRange) : (d.dbgUpd f).InRange := h

/-! ## Sys2Proof/Machine/CrcMem.lean -/

theorem crcEnd {u : Nat} (h : d.InRange) : (d.crcEnd u).InRange := by
  unfold Dev.crcEnd
  exact .ite (.ite (.raise (.set h)) (.set h)) h

/-! ## Sys2Proof/Machine/SpiHost.lean -/

theorem spihUpd {f : Spih → Spih} (h : d.InRange) : (d.spihUpd f).InRange := h

theorem spiDone {q : SpiReq} {result : Nat} {data : List (BitVec 8)} (h : d.InRange) : (d.spiDone q result data).InRange := by
  unfold Dev.spiDone
  exact .raise (.count (.clkEval (.m0Upd (.spihUpd h))))

theorem flashRefuse {q : SpiReq} {n : Nat} (h : d.InRange) : (d.flashRefuse q n).InRange := by
  unfold Dev.flashRefuse
  exact .spiDone (.when h fun h => .count h)

/-! ### Operations that answer a device and a result -/

theorem reqDemand {ss1 : Bool} {a : List (BitVec 64)} (h : d.InRange) : (Dev.reqDemand ss1 d a).1.InRange :=
  .eachOf h fun h => .thmEval (.eachOf h fun h => .tgrpUpd h)

theorem reqRelease {a : List (BitVec 64)} (h : d.InRange) : (d.reqRelease a).1.InRange := .eachOf h fun h => .release h

theorem reqBrakeRelease {a : List (BitVec 64)} (h : d.InRange) : (d.reqBrakeRelease a).1.InRange := by
  unfold Dev.reqBrakeRelease
  split; exacts [.raise (.brakeShow (.set (.withThm h fun k => k))), h]

theorem reqBrakeApply {a : List (BitVec 64)} (h : d.InRange) : (d.reqBrakeApply a).1.InRange := .brakeApply h

theorem reqDisStart {a : List (BitVec 64)} (h : d.InRange) : (d.reqDisStart a).1.InRange := by
  unfold Dev.reqDisStart
  split; exacts [h, .disCommand h]

theorem reqDisStop {a : List (BitVec 64)} (h : d.InRange) : (d.reqDisStop a).1.InRange := by
  unfold Dev.reqDisStop
  split; exacts [.disEnd h, h]

/-- A winding discharge is that of PG0 or PG1 (R329). -/
theorem reqWind {a : List (BitVec 64)} (h : d.InRange) : (d.reqWind a).1.InRange := by
  have hg : d.limGrp (arg0 a % 2) < 2 := by
    unfold Dev.limGrp
    split <;> omega
  unfold Dev.reqWind
  extract_lets
  split
  · exact .eachOf (.withThm h fun _ g he => by
      obtain rfl := Option.some.inj he
      exact hg) fun h => .thmEval h
  · exact h

theorem reqClear {a : List (BitVec 64)} (h : d.InRange) : (d.reqClear a).1.InRange := by
  unfold Dev.reqClear
  exact .thmEvalAll (.brakeShow (.withThm (.each (.set (.when h fun h => .clearBrakeLatches h)) fun h => .tgrpUpd h) fun k => k))

theorem pwdCheck {a : List (BitVec 64)} {n : Nat} {lens setsIt : Bool} (h : d.InRange) :
    (d.pwdCheck a n lens setsIt).1.InRange := by
  unfold Dev.pwdCheck
  split
  · exact h
  · split
    · exact h
    · split
      · exact h
      · split; exacts [.set h, .pwdWrong h]

theorem of_pwdCheck {e : Dev} {a : List (BitVec 64)} {n : Nat} {lens setsIt : Bool} {r : Option Nat}
    (he : d.pwdCheck a n lens setsIt = (e, r)) (h : d.InRange) : e.InRange := by
  have hp : (d.pwdCheck a n lens setsIt).1.InRange := .pwdCheck h
  rwa [he] at hp

theorem keyPut {n : Nat} {k : KeySlot} (h : d.InRange) : (d.keyPut n k).InRange := h

end Dev.InRange
end Sys2Proof.Machine
end

section
/-!
The same of the operations of the machine's state: those that act on the memories too, Thimble's requests, and the accesses. A
register write asks that the index of a current-loop unit's register is one, which the register map gives.
-/
namespace Sys2Proof.Machine

/-- A register that is found is in the list, with an index below the count of its family. -/
theorem findReg_some {a i j : Nat} {r : RDef} {l : List RDef} (h : findReg a l = some (r, i, j)) : r ∈ l ∧ i < r.c1 := by
  induction l with
  | nil => cases h
  | cons x t ih =>
    rw [findReg] at h
    split at h
    next hx =>
      obtain ⟨-, hi, -⟩ := hx
      simp only [Option.some.injEq, Prod.mk.injEq] at h
      obtain ⟨rfl, rfl, -⟩ := h
      exact ⟨List.mem_cons_self, hi⟩
    · exact (ih h).imp_left (List.mem_cons_of_mem _)

/-- The index is below 2 when what is found at an address is the register CTL of a current-loop unit (`o` is what is found). -/
def CtlIndexLt (o : Option (RDef × Nat × Nat)) : Prop := ∀ r i j, o = some (r, i, j) → r.base = A_CLU_CTL 0 → i < 2

theorem CtlIndexLt.ite {a b : Nat} {l : List RDef} {o : Option (RDef × Nat × Nat)}
    (hl : ∀ r ∈ l, r.base = A_CLU_CTL 0 → r.c1 = 2) (ho : CtlIndexLt o) :
    CtlIndexLt (if a < b then findReg a l else o) := by
  split
  · intro r i j hf hb
    obtain ⟨hr, hi⟩ := findReg_some hf
    exact hl r hr hb ▸ hi
  · exact ho

/-- There are two current-loop units: so the register map says, list by list. -/
theorem cluCtl_index_lt {a i j : Nat} {r : RDef} (h : regDefAt a = some (r, i, j)) (hb : r.base = A_CLU_CTL 0) : i < 2 := by
  refine (?_ : CtlIndexLt (regDefAt a)) r i j h hb
  unfold regDefAt
  refine iteInduction (fun _ => nofun) fun _ => ?_
  iterate 26 refine .ite (by decide) ?_
  exact nofun

/-- The numbers that the records of the machine hold name what exists. -/
def State.InRange (s : State) : Prop := s.dev.InRange

namespace State.InRange

variable {s t u : State}

/-- The device becomes `e`. -/
theorem dev {e : Dev} {mem flash tag : List Host.Cell} {pending : List Instr} (k : t.InRange) (he : t.dev.InRange → e.InRange) :
    State.InRange ⟨e, mem, flash, tag, pending⟩ := he k

/-- The memory becomes `m`. -/
theorem mem {m : List Host.Cell} (k : t.InRange) : State.InRange { t with mem := m } := k

theorem ite {c : Prop} [Decidable c] (k : t.InRange) (k' : u.InRange) : State.InRange (if c then t else u) := by
  split <;> assumption

/-! ### Log, resets and Spool -/

theorem logEntry {kind origin count digest reason : Nat} (k : t.InRange) :
    (t.logEntry kind origin count digest reason).InRange := by
  unfold State.logEntry
  exact .ite k (.dev k fun h => .showLog (.beside h))

theorem endSafety {origin reason : Nat} (k : t.InRange) : (t.endSafety origin reason).InRange := by
  unfold State.endSafety
  exact .ite (.dev (.logEntry (.dev k fun h => .set h)) fun h => .raise (.withThm h fun k => k)) k

theorem endDev {origin reason : Nat} (k : t.InRange) : (t.endDev origin reason).InRange := by
  unfold State.endDev
  exact .ite (.dev (.logEntry (.dev k fun h => .showUnlock (.resumeAll (.set h)))) fun h => .raise h) k

theorem volatileLost (k : t.InRange) : t.volatileLost.InRange := .mem k

theorem appResetTo {cause : Fld} {held : Bool} (k : t.InRange) : (t.appResetTo cause held).InRange := by
  unfold State.appResetTo
  exact .ite k (.dev (.endDev (.endSafety k)) fun h => .set (.appReset h))

theorem appReset {cause : Fld} (k : t.InRange) : (t.appReset cause).InRange := .appResetTo k

theorem rstctl {o : Origin} {key : Nat} {rst : Bool} (k : t.InRange) : (t.rstctl o key rst).InRange := by
  unfold State.rstctl
  exact .ite (.dev k fun h => .count h) (.ite (.appReset k) k)

theorem keepReset (k : t.InRange) : t.keepReset.InRange := by
  unfold State.keepReset
  exact .ite k (.dev (.appResetTo k) fun h => .beside h)

theorem splWrite {c : Nat} {rec : List (BitVec 64)} (k : t.InRange) : (t.splWrite c rec).InRange := by
  unfold State.splWrite
  extract_lets _ _ _ _ d1 d2
  refine .ite k (.dev k fun h => ?_)
  have h2 : d2.InRange := .count (.when (.set h) fun h => .set h)
  exact .ite (.set h2) (.ite (.splStopDone (.setSch h2)) h2)

theorem splServe (k : t.InRange) : t.splServe.InRange := by
  unfold State.splServe
  extract_lets
  split
  · exact k
  · split
    · exact k
    · exact .splWrite (.dev k fun h => .splLevel (.setSch (.beside h)))

theorem splStore {a n v : Nat} (k : t.InRange) : (t.splStore a n v).InRange := by
  unfold State.splStore
  exact .ite (.dev k fun h => .count h) (.mem k)

theorem pairStore {p a n v : Nat} (k : t.InRange) : (t.pairStore p a n v).InRange := by
  unfold State.pairStore
  exact .ite k (.dev k fun h => .ite h (.pairUpd h))

/-! ### Thimble's requests -/

theorem onDev {f : Dev → List (BitVec 64) → Dev × Nat} {a : List (BitVec 64)} (k : t.InRange)
    (hf : ∀ {d}, d.InRange → (f d a).1.InRange) : (onDev f t a).1.InRange := .dev k hf

theorem reqUnlock {dev : Bool} {o : Origin} {len1 : Nat} {a : List (BitVec 64)} (k : t.InRange) :
    (State.reqUnlock dev o len1 t a).1.InRange := by
  unfold State.reqUnlock
  extract_lets
  split <;> rename_i he <;> have hd := Dev.InRange.of_pwdCheck he
  · exact .dev k hd
  · split
    · exact .dev k hd
    · split
      · exact .dev k hd
      · split
        · exact .dev k hd
        · exact .dev (.logEntry (.dev k hd)) fun h => .raise (.ite (.showUnlock (.set h)) (.withThm (.set h) fun k => k))

theorem reqClose {o : Origin} {a : List (BitVec 64)} (k : t.InRange) : (State.reqClose o t a).1.InRange := by
  unfold State.reqClose
  split; exacts [k, .endDev (.endSafety k)]

/-- With the safety unlock closed INSTALL is refused with 4; else it replaces the committed set and leaves the keys (R334). -/
theorem reqInstall {o : Origin} {a : List (BitVec 64)} (k : t.InRange) : (State.reqInstall o t a).1.InRange := by
  unfold State.reqInstall
  extract_lets
  split
  · exact k
  · split
    · exact k
    · split
      · extract_lets
        split
        · exact k
        · split
          · exact k
          · split
            · exact k
            · exact .dev (.logEntry (.dev k fun h => .setActs (.beside h))) fun h => .raise h
      · exact k

theorem reqPassword {o : Origin} {len1 len2 : Nat} {a : List (BitVec 64)} (k : t.InRange) :
    (State.reqPassword o len1 len2 t a).1.InRange := by
  unfold State.reqPassword
  split <;> rename_i he <;> have hd := Dev.InRange.of_pwdCheck he
  · exact .dev k hd
  · split
    · exact .dev k hd
    · exact .dev (.logEntry (.dev k fun h => .set (.beside (.drawn (.drawn (hd h)))))) fun h => .raise h

theorem reqAckLog {o : Origin} {len1 : Nat} {a : List (BitVec 64)} (k : t.InRange) :
    (State.reqAckLog o len1 t a).1.InRange := by
  unfold State.reqAckLog
  split <;> rename_i he <;> have hd := Dev.InRange.of_pwdCheck he
  · exact .dev k hd
  · extract_lets
    split
    · exact .dev k hd
    · exact .dev (.logEntry (.dev k fun h => .set (.beside (hd h)))) fun h => .raise h

theorem reqByCode {o : Origin} {code len1 len2 : Nat} {a : List (BitVec 64)} (k : t.InRange) :
    (State.reqByCode o code len1 len2 t a).1.InRange := by
  unfold State.reqByCode
  split
  exacts [.onDev k fun h => .reqDemand h, .onDev k fun h => .reqDemand h, .onDev k fun h => .reqRelease h,
    .onDev k fun h => .reqBrakeRelease h, .onDev k fun h => .reqBrakeApply h, .onDev k fun h => .reqDisStart h,
    .onDev k fun h => .reqDisStop h, .onDev k fun h => .reqWind h, .onDev k fun h => .reqClear h, .reqUnlock k, .reqUnlock k,
    .reqClose k, .reqInstall k, .reqPassword k, .reqAckLog k, k]

/-- INSTALL is a lockstep request, so an origin without lockstep is refused before it acts. -/
theorem thmreqWrite {o : Origin} {code tag len1 len2 : Nat} (k : t.InRange) :
    (t.thmreqWrite o code tag len1 len2).InRange := by
  unfold State.thmreqWrite State.thmReq
  exact .ite (.dev k fun h => .classRef h) (.ite (.dev k fun h => .thmAnswer h)
    (.ite k (.dev (.reqByCode (.dev k fun h => .each h fun h => .setReg h)) fun h => .thmAnswer h)))

/-! ### Communication -/

theorem appSend {n len : Nat} (k : t.InRange) : (t.appSend n len).InRange := by
  unfold State.appSend
  exact .ite (.dev k fun h => .sflData h) k

theorem sflSubmit {len : Nat} (k : t.InRange) : (t.sflSubmit len).InRange := .dev k fun h => .sflJudge h

theorem canArb {n : Nat} (k : t.InRange) : (t.canArb n).InRange := by
  unfold State.canArb
  exact .ite k (.dev (.dev k fun h => .each h fun h => .ite h (.ite (.canFail h) (.ite (.canFail h) h))) fun h => .canUpd h)

theorem canWant {n : Nat} (k : t.InRange) : (t.canWant n).InRange := by
  unfold State.canWant
  exact .ite (.canArb k) k

theorem jnlFound (k : t.InRange) : t.jnlFound.InRange := by
  unfold State.jnlFound
  exact .ite k (.dev k fun h => .beside h)

theorem jnlWrite (k : t.InRange) : t.jnlWrite.InRange := by
  unfold State.jnlWrite
  extract_lets
  split; exacts [.dev (.jnlFound k) fun h => .jnlFlushEnd h, .dev (.jnlFound k) fun h => .jnlWritten h]

theorem canTxreq {n mask : Nat} (k : t.InRange) : (t.canTxreq n mask).InRange := .canWant (.dev k fun h => .setBits h)

theorem canTxabort {n mask : Nat} (k : t.InRange) : (t.canTxabort n mask).InRange := .canWant (.dev k fun h => .setBits h)

theorem canSent {n x stamp loop : Nat} (k : t.InRange) : (t.canSent n x stamp loop).InRange := by
  unfold State.canSent
  extract_lets u d1
  have ku : u.InRange := .dev k fun h => .canTxGood h
  refine .ite ?_ (.dev ku fun h => .raise (.setBits (.canEnd ?_)))
  · split; exacts [ku, .dev ku fun h => .when (.when (.canUpd h) fun h => .refSent h) fun h => .domSent h]
  · unfold d1
    split; exacts [.canLoop h, h]

theorem canLostAt {n x : Nat} {loop : Option (BitVec 8)} (k : t.InRange) : (t.canLostAt n x loop).InRange := by
  unfold State.canLostAt
  refine .dev k fun h => .canLost ?_
  split; exacts [.canLoop h, h]

theorem canFifo {n : Nat} {f : CanFrame} {stamp filter : Nat} (k : t.InRange) : (t.canFifo n f stamp filter).InRange := by
  unfold State.canFifo
  extract_lets
  split
  · exact .dev k fun h => .raiseLim (.count h)
  · exact .dev k fun h => .when (.raise (.canFifoShow (.canUpd h))) fun h => .raise h

theorem canSlot {n : Nat} {f : CanFrame} {stamp filter : Nat} (k : t.InRange) : (t.canSlot n f stamp filter).InRange := by
  unfold State.canSlot
  split
  · exact .dev k fun h => .raiseLim (.count h)
  · exact .dev k fun h => .raise (.setBits h)

theorem canFilter {n : Nat} {f : CanFrame} {stamp : Nat} (k : t.InRange) : (t.canFilter n f stamp).InRange := by
  unfold State.canFilter
  split
  · split; exacts [k, .canSlot k, .canFifo k]
  · exact .ite (.canFifo k) (.dev k fun h => .count h)

theorem hostReceive {p stamp : Nat} {l : List (BitVec 8)} (k : t.InRange) : (t.hostReceive p stamp l).InRange := by
  unfold State.hostReceive
  exact .ite k (.ite (.dev k fun h => .raise (.count h)) (.dev k fun h => .raise (.set h)))

theorem hostDrain (k : t.InRange) : t.hostDrain.InRange := by
  unfold State.hostDrain
  exact .ite k (List.foldlRecOn (motive := State.InRange) _ _ (.dev k fun h => .beside h) fun _ k _ _ => .hostReceive k)

theorem idle (k : t.InRange) : t.idle.InRange := .hostDrain (.dev k fun h => .idle h)

theorem txKick (k : t.InRange) : t.txKick.InRange := .dev k fun h => .beside h

/-! ### The service tag -/

theorem tagRead {b n last : Nat} (k : t.InRange) : (t.tagRead b n last).InRange := by
  unfold State.tagRead
  exact .ite (.dev k fun h => .tagError h) (.dev k fun h => .tagAnswer h)

theorem tagWriteBlock {b : Nat} {v : BitVec 32} (k : t.InRange) : (t.tagWriteBlock b v).InRange := by
  unfold State.tagWriteBlock
  exact .ite (.dev k fun h => .tagError h) (.ite (.dev k fun h => .tagError h)
    (.dev k fun h => .drawn (.beside (.when (.tagDirty (.tagAnswer h)) fun h => .raise h))))

theorem nfcCommit {p : Nat} (k : t.InRange) : (t.nfcCommit p).InRange := by
  unfold State.nfcCommit
  exact .ite (.dev k fun h => .set h) (.dev k fun h => .clkEval (.set (.set (.beside h))))

theorem nfcTake {p : Nat} (k : t.InRange) : (t.nfcTake p).InRange :=
  .dev k fun h => .when (.raise (.set h)) fun h => .tagDirty h

theorem nfcRead {p : Nat} (k : t.InRange) : (t.nfcRead p).InRange := by
  unfold State.nfcRead
  exact .ite (.dev k fun h => .set h) (.ite (.dev k fun h => .clkEval (.set (.set (.beside h)))) (.nfcTake k))

/-! ### Accesses -/

theorem busRead {a n : Nat} (k : t.InRange) : (t.busRead a n).1.InRange := by
  unfold State.busRead
  split
  · exact .dev k fun h => .busErr h
  · split
    · exact k
    · exact k
    · split
      · split; exacts [.dev k fun h => .drawn (.drawn h), .dev k fun h => .count (.drawn h)]
      · exact k
    · split
      · exact k
      · split; exacts [.dev k fun h => .drawn h, k]

theorem regActMem {w : RegW} (k : t.InRange) : (t.regActMem w).InRange := by
  unfold State.regActMem
  extract_lets u p
  have hu : u.InRange := .ite k (.canTxreq k)
  exact .ite (.rstctl k) (.ite (.thmreqWrite k) (.ite (.ite hu (.canTxabort hu))
    (.ite (.ite (.canWant (.dev k fun h => .domEnable h)) k) (.ite (.canWant k) (.ite (.ite (.txKick k) k)
      (.ite (.ite (.sflSubmit k) k) (.ite (.ite (.appSend k) k) (.ite (.ite (.nfcCommit k) (.ite (.nfcRead k) k)) k))))))))

theorem regWrite {o : Origin} {a n v : Nat} (k : t.InRange) : (t.regWrite o a n v).InRange := by
  unfold State.regWrite
  split
  · exact k
  next r i j hr => exact .regActMem (.dev k fun h => .regAct (.regStore h) (cluCtl_index_lt hr))

theorem winWrite {a n v : Nat} (k : t.InRange) : (t.winWrite a n v).InRange := by
  unfold State.winWrite
  exact .ite (.ite (.dev k fun h => .count h) (.mem k)) (.ite k (.mem k))

theorem busWrite {o : Origin} {a n v : Nat} (k : t.InRange) : (t.busWrite o a n v).1.InRange := by
  unfold State.busWrite
  split
  · exact .dev k fun h => .busErr h
  · dsimp only
    split
    · split; exacts [.pairStore k, .mem k]
    · exact .ite k (.mem k)
    · exact .splStore k
    · exact .winWrite k
    · exact .regWrite k
    · exact k

theorem dbgBus {err : Bool} {v : Nat} (k : t.InRange) : (t.dbgBus err v).InRange := .dev k fun h => .dbgUpd h

theorem debugCmd {c : DbgCmd} (k : t.InRange) : (t.debugCmd c).InRange := by
  cases c with
  | idcode | bypass | readStat => exact .dev k fun h => .dbgUpd h
  | readReg c r => exact .dev k fun h => .when h fun h => .dbgUpd h
  | writeReg c r v => exact .dev k fun h => .when h fun h => .dbgUpd (.coreRegPut h)
  | busRead a w => exact .dbgBus (.busRead k)
  | busWrite a w v => exact .dbgBus (.busWrite k)
  | halt c => exact .dev k fun h => .debugHalt h
  | resume c => exact .dev k fun h => .debugResume h
  | step c => exact k
  | trigger c n v => exact .dev k fun h => .beside h

theorem crcRead {a n : Nat} (k : t.InRange) : (t.crcRead a n).1.InRange := by
  unfold State.crcRead
  split; exacts [k, .busRead k]

theorem crcCycles {u n : Nat} (k : t.InRange) : (State.crcCycles u n t).InRange := by
  induction n generalizing t with
  | zero => exact k
  | succ n ih =>
    have kr : (t.crcRead (t.dev.get (CRC_ADDR u)) (min 8 (t.dev.get (CRC_LEN u)))).1.InRange := .crcRead k
    rw [State.crcCycles]
    split
    · exact k
    · split <;> rename_i he <;> rw [he] at kr
      · exact .dev kr fun h => .raise (.count (.set (.set h)))
      · exact ih (.dev kr fun h => .set (.set (.crcFeed h)))

theorem spiRead {a n : Nat} (k : t.InRange) : (t.spiRead a n).1.InRange := by
  induction n generalizing t a with
  | zero => exact k
  | succ n ih =>
    have kr : (t.busRead a 8).1.InRange := .busRead k
    rw [State.spiRead]
    split <;> rename_i he <;> rw [he] at kr
    · exact kr
    · have kn := ih kr (a := a + 8)
      split <;> rename_i he <;> rw [he] at kn <;> exact kn

theorem spiWrite {a n : Nat} {l : List (BitVec 8)} (k : t.InRange) : (t.spiWrite a l n).1.InRange := by
  induction n generalizing t a l with
  | zero => exact k
  | succ n ih =>
    have kw : (t.busWrite .host a 8 (ofBytesLE (l.take 8))).1.InRange := .busWrite k
    rw [State.spiWrite]
    split <;> rename_i he <;> rw [he] at kw
    · exact kw
    · exact ih kw

theorem flashProg {a : Nat} {l : List (BitVec 8)} (k : t.InRange) : (t.flashProg a l).InRange := by
  induction l generalizing t a with
  | nil => exact k
  | cons b l ih =>
    rw [State.flashProg]
    exact .ite (ih (.dev k id)) (ih (.dev k fun h => .drawn h))

end State.InRange
end Sys2Proof.Machine
end

section
/-!
The same of every command: one rule for each way a meaning ends, then the commands.
-/
namespace Sys2Proof.Machine

/-- The outcome `o` is a next state, whose records hold numbers in range if those of `s` do. -/
structure KeepsRange (s : State) (o : Out) : Prop where
  ends : s.InRange → ∃ t, o = .next t ∧ t.InRange

namespace KeepsRange

variable {s : State}

theorem next {t : State} (k : s.InRange → t.InRange) : KeepsRange s (.next t) := ⟨fun h => ⟨t, rfl, k h⟩⟩

/-! ### The ways a meaning ends -/

section
variable {p : Nat} {o : Origin} {f : Dev → Dev} (hf : ∀ {d}, d.InRange → (f d).InRange)
include hf

theorem always : KeepsRange s (s.always f) := .next fun k => .dev k fun h => hf h

theorem main : KeepsRange s (s.main f) := .next fun k => .dev k fun h => .ite h (hf h)

theorem onClk : KeepsRange s (s.onClk p f) := .next fun k => .dev k fun h => .ite h (hf h)

theorem byReg : KeepsRange s (s.byReg f) := .onClk fun h => .when h hf

theorem byOrigin : KeepsRange s (s.byOrigin o f) := .onClk fun h => .when h hf

theorem thimble : KeepsRange s (s.thimble f) := .main fun h => .ite (hf h) h

theorem domain : KeepsRange s (s.domain f) := .next fun k => .ite k (.canWant (.dev k fun h => hf h))

theorem domHeard : KeepsRange s (s.domHeard f) :=
  .next fun k => .ite k (.ite k (.canArb (.dev k fun h => .beside (hf h))))

end

section
variable {p n : Nat} {o : Origin} {adr : TagTo} {f : State → State} (hf : ∀ {t}, t.InRange → (f t).InRange)
include hf

theorem mainMem : KeepsRange s (s.mainMem f) := .next fun k => .ite k (hf k)

theorem onClkMem : KeepsRange s (s.onClkMem p f) := .next fun k => .ite k (hf k)

theorem byRegMem : KeepsRange s (s.byRegMem f) := .onClkMem fun k => .ite (hf k) k

theorem byOriginMem : KeepsRange s (s.byOriginMem o f) := .onClkMem fun k => .ite (hf k) k

theorem bootStage : KeepsRange s (s.bootStage n f) := .mainMem fun k => .ite k (hf k)

theorem inField : KeepsRange s (s.inField f) := .next fun k => .ite (hf k) k

theorem tagCmd : KeepsRange s (s.tagCmd adr f) := .inField fun k => .ite (hf k) k

end

/-- What is known of `s` alone serves for its own access. -/
theorem byOriginHere {f : State → State} {o : Origin} (hf : s.InRange → (f s).InRange) : KeepsRange s (s.byOriginMem o f) :=
  .next fun k => .ite k (.ite (hf k) k)

/-- A request of HEM_THMREQ. -/
theorem request {o : Origin} {code tag len1 len2 : Nat} :
    KeepsRange s (s.byOriginMem o fun s => s.thmreqWrite o code tag len1 len2) := .byOriginHere fun k => .thmreqWrite k

section
variable {cmd : Nat} {a b ok : Bool} {n : Option Nat} {f : State → SpiReq → State}
  (hf : ∀ {t q}, t.InRange → (f t q).InRange)
include hf

theorem spiExec : KeepsRange s (s.spiExec cmd a b n f) := by
  refine .onClkMem fun k => ?_
  split
  · exact k
  · exact .ite k (.ite (.dev k fun h => .spiDone h) (.ite (.dev k fun h => .spiDone h) (hf k)))

theorem spiFlash : KeepsRange s (s.spiFlash cmd ok f) :=
  .spiExec fun k => .ite k (.ite (.dev k fun h => .spiDone h) (hf k))

end

/-! ### Commands -/

/-! #### Sys2Proof/Machine/Pos.lean -/

theorem posFaultClear {p : Fin 4} {mask : BitVec 13} : KeepsRange s (execPosFaultClear p mask s) := .byReg fun h => .posClear h

theorem excitationMark {pos : Bool} : KeepsRange s (execExcitationMark pos s) :=
  .onClk fun h => .adcTrig (.each h fun h => .ite (.posUpd h fun k => k) h)

theorem resolverPairTimeout {p : Fin 2} : KeepsRange s (execResolverPairTimeout p s) := .onClk fun h => .ite (.pairDrop h) h

theorem encoderEdge {p : Fin 4} {a b : Bool} : KeepsRange s (execEncoderEdge p a b s) :=
  .onClk fun h => .ite h (.ite (.posBad (.count (.posUpd h fun k => k))) (.posUpd (.posUpd h fun k => k) fun k => k))

theorem encoderMeasurement {p : Fin 4} : KeepsRange s (execEncoderMeasurement p s) := .onClk fun h => .ite (.posReading h) h

theorem index {p : Fin 4} : KeepsRange s (execIndex p s) := by
  unfold execIndex
  exact .onClk fun h => .ite h (.ite (.when (.posUpd (.raise h) fun k => k) fun h => .posUnindex (.posImmediate h)) (.set (.posUpd
    (.raise h) fun k => k)))

theorem serialFrameStart {p : Fin 4} : KeepsRange s (execSerialFrameStart p s) := .onClk fun h => .ite h (.frameStart h)

theorem serialFrameComplete {p : Fin 4} {idle ef wf : Bool} {data : BitVec 40} {crc : BitVec 8} :
    KeepsRange s (execSerialFrameComplete p idle ef wf data crc s) := by
  unfold execSerialFrameComplete
  refine .onClk fun h => ?_
  split
  · exact h
  · exact .ite (.ite (.posBad (.posUpd h fun k => k)) (.posFrame (.posUpd h fun k => k))) (.ite (.posBad (.posUpd h fun k => k))
      (.ite (.posBad (.setB (.posUpd h fun k => k))) (.posFrame (.setB (.posUpd h fun k => k)))))

theorem sscStartBitTimeout {p : Fin 4} : KeepsRange s (execSscStartBitTimeout p s) :=
  .onClk fun h => .ite (.posBad (.posUpd h fun k => k)) h

theorem vencOvercurrent {p : Fin 4} : KeepsRange s (execVencOvercurrent p s) := .main fun h => .ite (.posImmediate h) h

theorem openToSls {p : Fin 4} : KeepsRange s (execOpenToSls p s) := .main fun h => .ite (.slsEnter h) h

theorem openTimeout {p : Fin 4} : KeepsRange s (execOpenTimeout p s) := .main fun h => .ite (.posLost h) h

theorem slsLowSpeed {p : Fin 4} : KeepsRange s (execSlsLowSpeed p s) := .main fun h => .ite (.posLost h) h

theorem disagree {p : Fin 4} : KeepsRange s (execDisagree p s) := .main fun h => .ite (.raise (.set (.posUpd h fun k => k))) h

/-! #### Sys2Proof/Machine/Pwm.lean -/

theorem switchEdge {c : Fin 2} {x : Fin 3} : KeepsRange s (execSwitchEdge c x s) := .main fun h => .ite h (.legEdge (.carUpd h))

theorem deadTimeEnd {c : Fin 2} {x : Fin 3} : KeepsRange s (execDeadTimeEnd c x s) := .main fun h => .ite h (.carCmd (.carUpd h))

theorem onTimeLimit {c : Fin 3} {k : Fin 6} : KeepsRange s (execOnTimeLimit c k s) :=
  .main fun h => .ite h (.jnlFault (.raise (.count (.setBits (.carApply (.carUpd h))))))

theorem carrierMark {c : Fin 3} {slack : BitVec 16} : KeepsRange s (execCarrierMark c slack s) :=
  .main fun h => .ite h (.ite (.carMark (.carMark h)) (.carMark h))

theorem brakeRequestSet {v1 v2 : BitVec 16} : KeepsRange s (execBrakeRequestSet v1 v2 s) :=
  .main fun h => .ite h (.brakePulse (.brakeClock (.driveEval (.count (.set (.carUpd h))))))

theorem brakeRequestClear {v1 v2 : BitVec 16} : KeepsRange s (execBrakeRequestClear v1 v2 s) :=
  .main fun h => .ite h (.driveEval (.set h))

theorem brakeOnTimeEnd : KeepsRange s (execBrakeOnTimeEnd s) := .main fun h => .ite (.brakeEnd h) h

theorem brakeOffTimeEnd : KeepsRange s (execBrakeOffTimeEnd s) := .main fun h => .ite (.brakePulse (.carUpd h)) h

theorem brakePulseMissing : KeepsRange s (execBrakePulseMissing s) := .main fun h => .ite (.brakeDirect h) (.brakeClock h)

theorem windingDischargeEngage {g : Fin 2} : KeepsRange s (execWindingDischargeEngage g s) := by
  unfold execWindingDischargeEngage
  exact .main fun h => .ite h (.coffOn (.eachOf (.clkEval (.set (.set (.carUpd h)))) fun h => .ite (.driveEval (.setPaths h))
    h))

theorem coffOnPhaseEnd {c : Fin 2} : KeepsRange s (execCoffOnPhaseEnd c s) := .main fun h => .ite h (.coffOff h)

theorem coffOffTimeEnd {c : Fin 2} : KeepsRange s (execCoffOffTimeEnd c s) := .main fun h => .ite h (.coffOn h)

theorem windingDischargeEnd : KeepsRange s (execWindingDischargeEnd s) := .main fun h => .windStop h

theorem debugHalt {c : Fin 4} : KeepsRange s (execDebugHalt c s) := .main fun h => .debugHalt h

theorem debugResume {c : Fin 4} : KeepsRange s (execDebugResume c s) := .main fun h => .debugResume h

/-! #### Sys2Proof/Machine/Adc.lean -/

theorem sampleRecord {n : Fin 8} {v : Conv} : KeepsRange s (execSampleRecord n v s) := .onClk fun h => .adcAperture h

theorem slotTrigger {n : Fin 8} {k : Fin 4} : KeepsRange s (execSlotTrigger n k s) := .onClk fun h => .ite h (.adcTrig1 h)

theorem slotFirstAperture {n : Fin 8} {clocks : BitVec 32} {v : Conv} : KeepsRange s (execSlotFirstAperture n clocks v s) :=
  .onClk fun h => .ite h (.ite h (.adcAperture (.adcUpd (.set (.set (.when h fun h => .raise (.count h)))) fun k => k)))

/-- The result waits for the register of the entry that has run (R87). -/
theorem slotComplete {n : Fin 8} : KeepsRange s (execSlotComplete n s) :=
  .onClk fun h => .ite h (.adcNext (.adcEntry (.when (.adcUpd h fun k => k.publish (Dev.get_lt ..)) fun h => .raise h))
    fun h => .adcMux h)

theorem slotResultPublish {n : Fin 8} : KeepsRange s (execSlotResultPublish n s) := by
  unfold execSlotResultPublish
  refine .onClk fun {d} h => ?_
  obtain ⟨hp, -, -⟩ := h.adcAt (n := n)
  split
  · exact h
  next k r q he =>
    rw [he] at hp
    extract_lets _ d2 d3 d4
    have h3 : d3.InRange := .raiseIf (.when (.setReg (.adcUpd h fun k => k.pub hp.cons)) fun h => .raise h)
    have h4 : d4.InRange := .ite (.udcTake h3) h3
    exact .ite (.posSlot h4) h4

theorem urgentRequest {n : Fin 8} {count : BitVec 8} {i : BitVec 4} : KeepsRange s (execUrgentRequest n count i s) :=
  .byReg fun h => .urgWrite h

theorem urgentSlotComplete {n : Fin 8} : KeepsRange s (execUrgentSlotComplete n s) := by
  unfold execUrgentSlotComplete
  refine .onClk fun h => ?_
  split
  · exact h
  · extract_lets _ d1 d2 d3
    have h3 : d3.InRange := .adcUpd (.when (.raise (.setReg h)) fun h => .raise h) fun k => k.noUrg
    exact .ite h (.adcNext (.ite (.cluVector h3) h3) fun h => .adcMux (.set (.set h)))

theorem adcRunStart {n : Fin 8} : KeepsRange s (execAdcRunStart n s) := .byReg fun h => .adcRun h

theorem adcRunStop {n : Fin 8} : KeepsRange s (execAdcRunStop n s) := .byReg fun h => .adcStop h

theorem refSelect {sel : BitVec 2} : KeepsRange s (execRefSelect sel s) := .byReg fun h => .refSelect h

theorem referenceSettled {mv : BitVec 16} : KeepsRange s (execReferenceSettled mv s) := by
  unfold execReferenceSettled
  exact .main fun h => .ite h (.ite (.refEvt (.each (.set (.set (.set (.beside h)))) fun h => .calBegin h)) (.refEvt (.count
    (.set (.set (.beside h))))))

theorem referenceOutOfWindow {mv : BitVec 16} : KeepsRange s (execReferenceOutOfWindow mv s) := by
  unfold execReferenceOutOfWindow
  exact .main fun h => .ite (.set (.beside h)) (.eachOf (.jnlFault (.refEvt (.count (.set (.set (.set (.beside h))))))) fun h
    => .when h fun h => .hemSafe h)

theorem adcCalStart {mask : BitVec 8} : KeepsRange s (execAdcCalStart mask s) := .byReg fun h => .calStart h

theorem calibrationEnd {n : Fin 8} {w : List (BitVec 32)} {off gain : BitVec 32} :
    KeepsRange s (execCalibrationEnd n w off gain s) := by
  unfold execCalibrationEnd
  refine .onClk fun {d} h => .ite h ?_
  extract_lets b ok d1 d2 d3 d4 d5 d6 d7 d8
  have h3 : d3.InRange := .setB (.set (.clrBits (.set (.set (.each h fun h => .set h)))))
  have h4 : d4.InRange := .adcUpd h3 fun k => k
  have h5 : d5.InRange := .ite (.clrBits (.clrBits (.setBits h4))) (.setBits (.setBits (.clrBits h4)))
  have h7 : d7.InRange := .foHoldAll (.when (.raise h5) fun h => .calFailHold h)
  exact .clkEval (.startDeferred (.ite (.refEvt (.set h7)) h7))

theorem adcTrimStart {o : Origin} : KeepsRange s (execAdcTrimStart o s) := .onClk fun h => .when h fun h => .trimWrite h

theorem adcTrimDone {code : BitVec 16} : KeepsRange s (execAdcTrimDone code s) := by
  unfold execAdcTrimDone
  exact .onClk fun h => .ite h (.ite (.set (.clkEval (.set h))) (.thmEvalAll (.hemHold (.set (.set (.beside (.clkEval (.set
    h))))))))

/-! #### Sys2Proof/Machine/Gch.lean -/

theorem shortCircuit {n : Fin 14} : KeepsRange s (execShortCircuit n s) := .always fun h => .ite (.gchFault h) h

theorem desat {n : Fin 14} : KeepsRange s (execDesat n s) := .always fun h => .ite (.gchFault h) h

theorem softoffEnd {n : Fin 14} : KeepsRange s (execSoftoffEnd n s) := .main fun h => .ite (.gchPut (.gchUpd h)) h

theorem overcurrent {n : Fin 14} : KeepsRange s (execOvercurrent n s) := .always fun h => .ite h (.gchFault h)

theorem gateSupplyFault {n : Fin 14} {which : Fin 3} {vpos vneg : BitVec 8} : KeepsRange s (execGateSupplyFault n which vpos vneg
  s) := by
  unfold execGateSupplyFault
  exact .always fun h => .ite h (.ite (.gchFault (.supplyPut h)) (.supplyPut h))

theorem gateSupplyRecovered {n : Fin 14} {vpos vneg : BitVec 8} : KeepsRange s (execGateSupplyRecovered n vpos vneg s) := by
  unfold execGateSupplyRecovered
  exact .always fun h => .ite h (.ite (.supplyPut h) (.ite (.gchUpd (.supplyPut h)) (.gchShowCause (.gchUpd (.supplyPut h)))))

theorem vposLost {n : Fin 14} : KeepsRange s (execVposLost n s) := by
  unfold execVposLost
  exact .always fun h => .ite (.gchUpd (.gateOff (.ite (.disEnd h) h))) (.when (.set (.gchPut (.gchUpd (.gateOff (.ite
    (.disEnd h) h))))) fun h => .set h)

theorem highVoltageHalfPowerUp {n : Fin 14} : KeepsRange s (execHighVoltageHalfPowerUp n s) := .always fun h => .gchUpd h

theorem mismatch {n : Fin 14} {high : Bool} : KeepsRange s (execMismatch n high s) := .always fun h => .ite h (.gchFault h)

theorem ntcReading {n : Fin 14} {code : BitVec 8} : KeepsRange s (execNtcReading n code s) := by
  unfold execNtcReading
  exact .always fun h => .ite h (.ite (.ite (.gchUpd h) h) (.when (.gchShowCause (.set (.ite (.gchUpd h) h))) fun h => .count
    h))

theorem ntcTrip {n : Fin 14} : KeepsRange s (execNtcTrip n s) := .always fun h => .ite h (.gchFault h)

theorem ontHv {n : Fin 14} : KeepsRange s (execOntHv n s) := .always fun h => .ite h (.gchFault h)

theorem gateEdge {n : Fin 14} : KeepsRange s (execGateEdge n s) := by
  unfold execGateEdge
  exact .main fun h => by extract_lets; split; exacts [h, (.eachOf (.gchUpd h) fun h => .ite (.ite (.gateOnBy (.gchUpd h))
    (.gateOffBy (.gchUpd h))) h)]

theorem edgeLearn {n : Fin 14} {on : Bool} {ts : Option (BitVec 10)} {code : BitVec 10} {vdsOff : BitVec 16} :
    KeepsRange s (execEdgeLearn n on ts code vdsOff s) := by
  unfold execEdgeLearn
  exact .main fun h => .edgeLearn h

theorem gateLinkTrainingDone {e : Fin 14 × Rails} : KeepsRange s (execGateLinkTrainingDone e s) :=
  .main fun h => .ite (.trainDone (.supplyRead h)) h

theorem gateLinkTrainingFail {n : Fin 14} : KeepsRange s (execGateLinkTrainingFail n s) := .main fun h => .ite (.trainFail h) h

theorem gateLinkRetry {n : Fin 14} {ok : Option Rails} : KeepsRange s (execGateLinkRetry n ok s) := by
  unfold execGateLinkRetry
  exact .main fun h => .ite h (by split; exacts [.trainFail h, (.when (.trainDone (.supplyRead h)) fun h => .count h)])

theorem linkLoss {n : Fin 14} : KeepsRange s (execLinkLoss n s) := by
  unfold execLinkLoss
  exact .always fun h => .ite h (.ite (.gchUpd h) (.eachOf (.ite (.gchPut (.gateOff (.gchUpd h))) (.gchUpd h)) fun h =>
    .sidesAgain (.gchFault1 h)))

theorem linkStatusMissing {n : Fin 14} : KeepsRange s (execLinkStatusMissing n s) := by
  unfold execLinkStatusMissing
  exact .main fun h => .ite (.thmEvalAll (.foHoldAll (.sidesAgain (.ite (.groupSafe (.when (.gchUpd (.clrBits h)) fun h =>
    .setBits h)) (.when (.gchUpd (.clrBits h)) fun h => .setBits h))))) h

theorem ascCommand {g : Fin 2} : KeepsRange s (execAscCommand g s) := .main fun h => .groupSafe h

theorem ascRelease {g : Fin 2} : KeepsRange s (execAscRelease g s) := .main fun h => .ite h (.ascRelease h)

theorem gateEnFall : KeepsRange s (execGateEnFall s) := .main fun h => .ite (.set (.withThm h fun k => k)) h

theorem gateEnDisable : KeepsRange s (execGateEnDisable s) := .main fun h => .ite h (.thmEvalAll (.gateDisable h))

theorem gateEnRise {lowNs : BitVec 32} {stuck : BitVec 14} : KeepsRange s (execGateEnRise lowNs stuck s) :=
  .main fun h => .ite h (.gateRise h)

theorem autonomousDischarge : KeepsRange s (execAutonomousDischarge s) := by
  unfold execAutonomousDischarge
  exact .always fun h => .ite h (.ite h (.ite (.gchUpd h) (.thmEvalAll (.raise (.count (.set (.set (.set (.gchPut (.gchUpd
    h))))))))))

theorem disTmaxElapsed : KeepsRange s (execDisTmaxElapsed s) := .always fun h => .ite h (.ite (.gchUpd h) (.disEnd h))

/-! #### Sys2Proof/Machine/Clu.lean -/

theorem currentLoopUpdate {g : Fin 2} {tm : BitVec 64} {bad : BitVec 2} : KeepsRange s (execCurrentLoopUpdate g tm bad s) := by
  unfold execCurrentLoopUpdate
  exact .onClk fun h => .ite h (.ite (.cluTrip (.eachOf h fun h => .set h)) (.ite h (.ite (.eachOf h fun h => .cluLasting
    (.cluInput h)) (.eachOf (.eachOf (.eachOf h fun h => .cluLasting (.cluInput h)) fun h => .cluOutput h) fun h => .ite
    (.cluTransfer h) h))))

/-- The request is for vector 1 or 2 of the unit's own input (R138). -/
theorem vectorMeasurementRequest {g : Fin 2} {second : Bool} : KeepsRange s (execVectorMeasurementRequest g second s) := by
  unfold execVectorMeasurementRequest
  refine .onClk fun h => .ite h (.urgRequest (.cluUpd h) ?_)
  have hg : g.val < 2 := g.isLt
  cases second <;> simp [urgentOk, hg]

theorem starved {g : Fin 2} : KeepsRange s (execStarved g s) := .onClk fun h => .ite (.raise (.set (.cluUpd h))) h

theorem cluEnable {g : Fin 2} : KeepsRange s (execCluEnable g s) := .byReg fun h => .cluEnable h g.isLt

theorem cluDisable {g : Fin 2} : KeepsRange s (execCluDisable g s) := .byReg fun h => .cluDisable h

theorem offsetMeasurementEnd {g : Fin 2} : KeepsRange s (execOffsetMeasurementEnd g s) := by
  unfold execOffsetMeasurementEnd
  exact .onClk fun h => .ite h (.ite (.cluOff (.eachOf h fun h => .set h)) (.cluPut (.eachOf h fun h => .when h fun h =>
    .offsetStore h)))

/-! #### Sys2Proof/Machine/Align.lean -/

theorem standstillCheckEnd {p : Fin 4} {lo hi : BitVec 32} : KeepsRange s (execStandstillCheckEnd p lo hi s) :=
  .onClk fun h => by split; exacts [h, .ite h (.ite (.alignPulse h (by decide)) (.alignFail h))]

theorem satPulseEnd {p : Fin 4} {iu iv iw : BitVec 32} {tEnd : BitVec 32} : KeepsRange s (execSatPulseEnd p iu iv iw tEnd s) :=
  .onClk fun h => .ite h (.setI (.alignDrive (.posUpd h fun k => k)))

/-- The pulse after one other than the twelfth and the last is one of the fourteen (R119). -/
theorem pulseDecayEnd {p : Fin 4} : KeepsRange s (execPulseDecayEnd p s) := by
  unfold execPulseDecayEnd
  refine .onClk fun {d} h => .ite h (.ite (.alignEval h) ?_)
  split
  · exact .alignPolarity h
  next hlast =>
    have hp : (d.posAt p).pulse < 14 := h.posAt
    exact .alignPulse h (by omega)

/-! #### Sys2Proof/Machine/Fio.lean -/

theorem foModeWrite {n : Fin 16} {mode : BitVec 3} : KeepsRange s (execFoModeWrite n mode s) := .byReg fun h => .foWrite h

theorem foCurrentLimitReached {n : Fin 16} {ma : BitVec 16} : KeepsRange s (execFoCurrentLimitReached n ma s) :=
  .main fun h => .ite (.set (.set (.foCurrent h))) (.foCurrent h)

theorem foCurrentBelowLimit {n : Fin 16} {ma : BitVec 16} : KeepsRange s (execFoCurrentBelowLimit n ma s) :=
  .main fun h => .ite (.count (.set (.set (.foCurrent h)))) (.foCurrent h)

theorem foLimitTimerExpire {n : Fin 16} : KeepsRange s (execFoLimitTimerExpire n s) :=
  .main fun h => .ite h (.ite (.foBrakeLatch h) (.foLatch h))

theorem foOvertemperature {e : Fin 16 × BitVec 16} : KeepsRange s (execFoOvertemperature e s) :=
  .main fun h => .ite h (.ite (.foBrakeLatch (.set h)) (.foLatch (.set h)))

theorem foRetryTimerExpire {n : Fin 14} : KeepsRange s (execFoRetryTimerExpire n s) :=
  .main fun h => .ite h (.ite (.foResume h) (.count (.set (.foPut h))))

theorem foRetryReset {n : Fin 14} : KeepsRange s (execFoRetryReset n s) := .main fun h => .ite (.set h) h

theorem foLatchClear {mask : BitVec 14} : KeepsRange s (execFoLatchClear mask s) := .byReg fun h => .foClearMask h

theorem bankSupplyFault {b : Fin 4} {high : Bool} {v : BitVec 16} : KeepsRange s (execBankSupplyFault b high v s) :=
  .main fun h => .ite (.set h) (.brakeShow (.foHoldAll (.raise (.beside (.setBits (.set h))))))

theorem bankSupplyRecovered {b : Fin 4} {v : BitVec 16} : KeepsRange s (execBankSupplyRecovered b v s) :=
  .main fun h => .ite (.set h) (.brakeShow (.foHoldAll (.beside (.set h))))

theorem aggOver : KeepsRange s (execAggOver s) := .main fun h => .raise (.set h)

theorem diFilteredEdge {n : Fin 32} : KeepsRange s (execDiFilteredEdge n s) := .main fun h => .diFiltered h

/-! #### Sys2Proof/Machine/Stepper.lean -/

theorem chopperUpperReached {n : Fin 12} {b : Bool} {ns : BitVec 32} {m : BitVec 10 × Bool} :
    KeepsRange s (execChopperUpperReached n b ns m s) := by
  unfold execChopperUpperReached
  exact .onClk fun h => .ite h (.chopOff (.coilUpd h))

theorem onPhaseLimit {n : Fin 12} {b : Bool} {e : BitVec 32 × Bool} : KeepsRange s (execOnPhaseLimit n b e s) :=
  .onClk fun h => .ite h (.chopOff (.count (.coilUpd h)))

theorem chopperLowerReached {n : Fin 12} {b : Bool} {ns : BitVec 32} {code : BitVec 10} {low : Bool} :
    KeepsRange s (execChopperLowerReached n b ns code low s) := by
  unfold execChopperLowerReached
  exact .onClk fun h => .ite h (.ite (.count (.coilUpd h)) (.chopOn (.chopSum h)))

theorem chopperTailEnd {n : Fin 12} {b low : Bool} : KeepsRange s (execChopperTailEnd n b low s) :=
  .onClk fun h => .ite (.chopOn h) h

theorem coilShort {n : Fin 12} {e : Bool × BitVec 32 × BitVec 32} : KeepsRange s (execCoilShort n e s) :=
  .main fun h => .ite (.axFault (.raise (.set (.homeAbort h)))) h

theorem positionTargetWrite {n : Fin 12} {v : BitVec 64} : KeepsRange s (execPositionTargetWrite n v s) :=
  .byReg fun h => .axTgtWrite h

theorem velocityTargetWrite {n : Fin 12} {v : BitVec 64} : KeepsRange s (execVelocityTargetWrite n v s) :=
  .byReg fun h => .axVtgtWrite h

theorem positionWrite {n : Fin 12} {v : BitVec 64} : KeepsRange s (execPositionWrite n v s) := .byReg fun h => .axPosWrite h

theorem axisEnable {n : Fin 12} : KeepsRange s (execAxisEnable n s) := .byReg fun h => .axEnable h

theorem axisDisable {n : Fin 12} : KeepsRange s (execAxisDisable n s) := .byReg fun h => .axDisable h

theorem axisStop {n : Fin 12} : KeepsRange s (execAxisStop n s) := .byReg fun h => .axStopWrite h

theorem homeGo {n : Fin 12} : KeepsRange s (execHomeGo n s) := .byReg fun h => .homeStart h

theorem holdCurrentTimer {n : Fin 12} : KeepsRange s (execHoldCurrentTimer n s) := .onClk fun h => .ite (.coilClamp (.set h)) h

theorem diRawEdge {n : Fin 32} {level : Bool} : KeepsRange s (execDiRawEdge n level s) := .main fun h => .diRaw h

theorem limitSwitchEdge {n : Fin 12} {pos : Bool} : KeepsRange s (execLimitSwitchEdge n pos s) :=
  .onClk fun h => .ite (.limTrip (.homeLimit h)) h

theorem homeSwitchEdge {n : Fin 12} : KeepsRange s (execHomeSwitchEdge n s) :=
  .onClk fun h => .ite (.ite (.homeConfirm (.setReg (.set (.axisUpd h)))) (.setReg (.set (.axisUpd h)))) h

theorem homeDebounceExpire {n : Fin 12} : KeepsRange s (execHomeDebounceExpire n s) :=
  .onClk fun h => .ite h (.ite (.ite (.homeConfirm h) (.count (.set h))) (.ite (.axisUpd h) h))

theorem stepEdge {n : Fin 12} {dir : Bool} : KeepsRange s (execStepEdge n dir s) :=
  .onClk fun h => .ite h (.ite (.axStop (.axisUpd (.raise (.set (.axisUpd h))))) (.axGo (.axisUpd h)))

theorem motionTick {n : Fin 12} {low : BitVec 2} : KeepsRange s (execMotionTick n low s) := by
  unfold execMotionTick
  refine .onClk fun h => ?_
  extract_lets d1 d2 d3 d4
  have h2 : d2.InRange := .limTrip (.homeLimit (.axGo (.ite h (.axisUpd h))))
  have h3 : d3.InRange := by
    unfold d3
    split; exacts [.restTick h2, .moveTick h2, .homeTick h2, .stopTick h2, h2]
  have h4 : d4.InRange := .limTrip h3
  exact .ite h4 (.coilTick (.coilTick (.blindShow (.set (.bandTick (.axShow h4))))))

theorem vstpFault {v : BitVec 16} : KeepsRange s (execVstpFault v s) := by
  unfold execVstpFault
  exact .main fun h => .ite (.set h) (.each (.when (.when (.setB (.setB (.set h))) fun h => .set h) fun h => .set h) fun h =>
    .axHold (.when h fun h => .count h))

theorem vstpRecovered {v : BitVec 16} : KeepsRange s (execVstpRecovered v s) :=
  .main fun h => .ite (.set h) (.each (.set (.set (.set h))) fun h => .axUnhold h)

/-! #### Sys2Proof/Machine/Engine.lean -/

theorem opNop {n : Fin 64} : KeepsRange s (execOpNop n s) := .onClk fun h => .issue0 h fun h => h

theorem opMov {n : Fin 64} : KeepsRange s (execOpMov n s) := .onClk fun h => .alu h

theorem opAdd {n : Fin 64} : KeepsRange s (execOpAdd n s) := .onClk fun h => .alu h

theorem opSub {n : Fin 64} : KeepsRange s (execOpSub n s) := .onClk fun h => .alu h

theorem opNeg {n : Fin 64} : KeepsRange s (execOpNeg n s) := .onClk fun h => .alu h

theorem opAbs {n : Fin 64} : KeepsRange s (execOpAbs n s) := .onClk fun h => .alu h

theorem opMin {n : Fin 64} : KeepsRange s (execOpMin n s) := .onClk fun h => .alu h

theorem opMax {n : Fin 64} : KeepsRange s (execOpMax n s) := .onClk fun h => .alu h

theorem opClamp {n : Fin 64} : KeepsRange s (execOpClamp n s) := .onClk fun h => .alu h

theorem opSel {n : Fin 64} : KeepsRange s (execOpSel n s) := .onClk fun h => .alu h

theorem opWrap {n : Fin 64} : KeepsRange s (execOpWrap n s) := .onClk fun h => .alu h

theorem opMul {n : Fin 64} : KeepsRange s (execOpMul n s) := .onClk fun h => .issue1 h fun h => .later h

theorem opMac {n : Fin 64} : KeepsRange s (execOpMac n s) := .onClk fun h => .issueMac h fun h => .macPut h

theorem opMsu {n : Fin 64} : KeepsRange s (execOpMsu n s) := .onClk fun h => .issueMac h fun h => .macPut h

theorem opAccld {n : Fin 64} : KeepsRange s (execOpAccld n s) := .onClk fun h => .ite h (.issue0 h fun h => .slcUpd h fun k => k)

theorem opAccrd {n : Fin 64} : KeepsRange s (execOpAccrd n s) := .onClk fun h => .ite h (.issue1 h fun h => .now1 h)

theorem opTab {n : Fin 64} : KeepsRange s (execOpTab n s) := .onClk fun h => .issue1 h fun h => .later h

theorem opDiv {n : Fin 64} : KeepsRange s (execOpDiv n s) := .onClk fun h => .issue1 h fun h => .later (.divCount h)

theorem opSqrt {n : Fin 64} : KeepsRange s (execOpSqrt n s) := .onClk fun h => .issue1 h fun h => .later (.rootCount h)

theorem opSincos {n : Fin 64} : KeepsRange s (execOpSincos n s) := .onClk fun h => .issueBy h fun h => .later h

theorem opAtan2 {n : Fin 64} : KeepsRange s (execOpAtan2 n s) := .onClk fun h => .issue1 h fun h => .later h

theorem opMag {n : Fin 64} : KeepsRange s (execOpMag n s) := .onClk fun h => .issue1 h fun h => .later h

theorem opBiq {n : Fin 64} : KeepsRange s (execOpBiq n s) :=
  .onClk fun h => .issueBy h fun h => by extract_lets; split; exact .later h

theorem opRamp {n : Fin 64} : KeepsRange s (execOpRamp n s) := .onClk fun h => .issue1 h fun h => .later h

theorem opPi {n : Fin 64} : KeepsRange s (execOpPi n s) :=
  .onClk fun h => .issueBy h fun h => by extract_lets; split; exact .later h

theorem opIn {n : Fin 64} : KeepsRange s (execOpIn n s) := .onClk fun h => .issue1 h fun h => .later (.drawn h)

theorem opOut {n : Fin 64} : KeepsRange s (execOpOut n s) :=
  .onClk fun h => .issue0 h fun h => .slcUpd h fun k => k.out (Nat.mod_lt _ (by decide))

theorem opJge {n : Fin 64} : KeepsRange s (execOpJge n s) := .onClk fun h => .issue0 h fun h => .ite (.pcBy h) h

theorem opEnd {n : Fin 64} {cyc : BitVec 16} : KeepsRange s (execOpEnd n cyc s) := by
  unfold execOpEnd
  refine .onClk fun h => ?_
  split
  · exact h
  · extract_lets _ d1 d2 d3 d4
    have h4 : d4.InRange := .splEnd (.slReturn (.pcBy (.when (.set (.set h)) fun h => .set h)))
    exact .ite h (.ite (.slcUpd (.slFlt (.count h4)) fun k => k.noOuts) (.closeIf (.slcUpd h4 fun k => k.present)))

theorem groupTrigger {g : Fin 8} : KeepsRange s (execGroupTrigger g s) :=
  .onClk fun h => .ite h (.grpTrigger (.egrUpd h fun k => k))

theorem blockAccept : KeepsRange s (execBlockAccept s) := .onClk fun h => .accept h

theorem epochDeadline {g : Fin 8} : KeepsRange s (execEpochDeadline g s) :=
  .onClk fun h => .ite h (.eachOf (.count (.egrUpd h fun k => k)) fun h => .when h fun h => .set h)

theorem collectorSwap {g : Fin 8} : KeepsRange s (execCollectorSwap g s) := .onClk fun h => .ite (.swap h) h

theorem triggerTimeout {g : Fin 8} : KeepsRange s (execTriggerTimeout g s) :=
  .onClk fun h => .ite h (.posSwaps (.eachOf (.count h) fun h => .each h fun h => .ageWord h))

theorem sliceRun {o : Origin} {n : Fin 64} {run : Bool} : KeepsRange s (execSliceRun o n run s) := .byOrigin fun h => .slRun h

theorem sliceEccError {e : Fin 64 × Bool} : KeepsRange s (execSliceEccError e s) :=
  .onClk fun h => .ite (.count h) (.ite h (.jnlFault (.raise (.clkEval (.flightPut (.slcUpd (.set h) fun k => k.noOuts)
    fun _ hf => absurd hf List.not_mem_nil)))))

theorem tuneCommit {count : BitVec 4} {restart : Bool} : KeepsRange s (execTuneCommit count restart s) :=
  .byReg fun h => .tune (.setB (.set h))

/-! #### Sys2Proof/Machine/Assist.lean -/

theorem laRdw {c : Fin 4} {rd : BitVec 5} {v1 : BitVec 64} : KeepsRange s (execLaRdw c rd v1 s) := .onClk fun h => .laGo h

theorem laRdout {c : Fin 4} {rd : BitVec 5} {v1 : BitVec 64} : KeepsRange s (execLaRdout c rd v1 s) := .onClk fun h => .laGo h

theorem laRdage {c : Fin 4} {rd : BitVec 5} {v1 : BitVec 64} : KeepsRange s (execLaRdage c rd v1 s) := .onClk fun h => .laGo h

theorem laRdseq {c : Fin 4} {rd : BitVec 5} {v1 : BitVec 64} : KeepsRange s (execLaRdseq c rd v1 s) := .onClk fun h => .laGo h

theorem laRdsst {c : Fin 4} {rd : BitVec 5} {v1 : BitVec 64} : KeepsRange s (execLaRdsst c rd v1 s) := .onClk fun h => .laGo h

theorem laTstat {c : Fin 4} {rd : BitVec 5} : KeepsRange s (execLaTstat c rd s) := .onClk fun h => .laGo h

theorem laDiv {c : Fin 4} {rd : BitVec 5} {v1 v2 : BitVec 64} : KeepsRange s (execLaDiv c rd v1 v2 s) := .onClk fun h => .laGo h

theorem laSqrt {c : Fin 4} {rd : BitVec 5} {v1 : BitVec 64} : KeepsRange s (execLaSqrt c rd v1 s) := .onClk fun h => .laGo h

theorem laSin {c : Fin 4} {rd : BitVec 5} {v1 : BitVec 64} : KeepsRange s (execLaSin c rd v1 s) := .onClk fun h => .laGo h

theorem laCos {c : Fin 4} {rd : BitVec 5} {v1 : BitVec 64} : KeepsRange s (execLaCos c rd v1 s) := .onClk fun h => .laGo h

theorem laAtan2 {c : Fin 4} {rd : BitVec 5} {v1 v2 : BitVec 64} : KeepsRange s (execLaAtan2 c rd v1 v2 s) :=
  .onClk fun h => .laGo h

theorem laMag {c : Fin 4} {rd : BitVec 5} {v1 v2 : BitVec 64} : KeepsRange s (execLaMag c rd v1 v2 s) := .onClk fun h => .laGo h

theorem operationResult {n : Fin 64} {k : Fin 64} : KeepsRange s (execOperationResult n k s) :=
  .onClk fun h => .assistPump (.opResult h)

theorem assistResultReturn {c : Fin 4} {j : Fin 2} : KeepsRange s (execAssistResultReturn c j s) := by
  unfold execAssistResultReturn
  refine .onClk fun h => ?_
  split
  · exact h
  · extract_lets
    split
    · exact .laPump (.xPut (.portUpd h fun k => k))
    · exact .ite (.laPump (.count (.xPut (.portUpd h fun k => k)))) h

theorem laTset {c : Fin 4} {v1 v2 : BitVec 64} : KeepsRange s (execLaTset c v1 v2 s) := .onClk fun h => .laGo h

theorem laTcommit {c : Fin 4} {v1 : BitVec 64} : KeepsRange s (execLaTcommit c v1 s) := .onClk fun h => .laGo h

theorem laRun {c : Fin 4} {v1 : BitVec 64} : KeepsRange s (execLaRun c v1 s) := .onClk fun h => .laGo h

theorem commitBufferSend {c : Fin 4} : KeepsRange s (execCommitBufferSend c s) :=
  .onClk fun h => by split; exacts [h, .laPump (.laAct (.portUpd h fun k => k))]

theorem squash {c : Fin 4} {what : Squash} : KeepsRange s (execSquash c what s) := by
  unfold execSquash
  refine .onClk fun h => .ite h ?_
  extract_lets
  split
  · split; exacts [h, .count (.xPut (.portUpd h fun k => k))]
  · exact .ite (.laPump (.count (.squashReq h))) (.squashRet h)
  · exact .ite (.laPump (.count (.portUpd h fun k => k))) h
  · split; exacts [h, .portUpd h fun k => k, .count (.portUpd h fun k => k)]

theorem illegalInstruction {c : Fin 4} {w : BitVec 32} : KeepsRange s (execIllegalInstruction c w s) :=
  .onClk fun h => .ite (.laExec h) h

theorem arm : KeepsRange s (execArm s) := .byReg fun h => .splArm h

theorem stop : KeepsRange s (execStop s) := .byReg fun h => .splStop h

theorem force : KeepsRange s (execForce s) := .byReg fun h => .splForce h

theorem spoolRecordWrite : KeepsRange s (execSpoolRecordWrite s) := .onClkMem fun k => .splServe k

theorem spoolMemoryWrite {a : BitVec 40} {w : Width} {v : BitVec 64} : KeepsRange s (execSpoolMemoryWrite a w v s) :=
  .byRegMem fun k => .ite (.splStore k) k

/-! #### Sys2Proof/Machine/Sys.lean -/

theorem busErrorAccess {o : Origin} {a : BitVec 40} {w : Width} {wr : Bool} : KeepsRange s (execBusErrorAccess o a w wr s) :=
  .onClk fun h => by split; exacts [(.when h fun h => .busErr h), h]

theorem vsupGood : KeepsRange s (execVsupGood s) := by
  unfold execVsupGood
  exact .next fun k => .ite (.dev (.volatileLost k) fun _ => .powerOn) k

theorem vsupDipStart : KeepsRange s (execVsupDipStart s) := .always fun h => .ite h (.beside h)

theorem vsupSagEnd : KeepsRange s (execVsupSagEnd s) := .always fun h => .ite h (.when (.beside h) fun h => .count h)

theorem supplyLossEvent {vholdMv : BitVec 16} : KeepsRange s (execSupplyLossEvent vholdMv s) :=
  .always fun h => .ite h (.ite (.beside (.beside h)) (.lossSequence (.beside h)))

theorem vsupReturn : KeepsRange s (execVsupReturn s) := .always fun h => .ite (.beside h) h

theorem vsupRecovery : KeepsRange s (execVsupRecovery s) := by
  unfold execVsupRecovery
  exact .next fun k => .ite (.ite (.dev (.volatileLost k) fun _ => .powerOn)
    (.dev (.volatileLost k) fun _ => .set .mainReset)) k

theorem vholdBelowMinimum : KeepsRange s (execVholdBelowMinimum s) := .always fun h => .ite (.flushStop (.beside h)) h

theorem vholdExhausted : KeepsRange s (execVholdExhausted s) := by
  unfold execVholdExhausted
  exact .next fun k => .ite (.dev (.volatileLost k) fun _ => .beside .powerOn) k

theorem vholdGood : KeepsRange s (execVholdGood s) := .main fun h => .set h

theorem vholdLow : KeepsRange s (execVholdLow s) := .main fun h => .thmEvalAll (.set h)

theorem sleepReq : KeepsRange s (execSleepReq s) := .byReg fun h => .sleepReq h

theorem sleepPrepComplete : KeepsRange s (execSleepPrepComplete s) := by
  unfold execSleepPrepComplete
  exact .next fun k => .ite k (.ite (.dev k fun h => .wake (.ite (.setBits (.ite (.setBits h) h)) (.ite (.setBits h) h)))
    (.ite k (.dev (.volatileLost k) fun _ => .beside .mainReset)))

theorem canWakePattern {n : Fin 4} : KeepsRange s (execCanWakePattern n s) :=
  .always fun h => .ite (.wake h) (.ite (.ite (.wake h) h) (.ite (.raise h) h))

theorem wakePinAccepted {level : Bool} : KeepsRange s (execWakePinAccepted level s) :=
  .always fun h => .ite h (.ite (.wake (.beside h)) (.beside h))

theorem sleepTimerExpiry : KeepsRange s (execSleepTimerExpiry s) := .always fun h => .ite (.wake h) h

theorem pllRequest {p : Fin 3} {fw : Bool} : KeepsRange s (execPllRequest p fw s) :=
  .main fun h => .when h fun h => .pllEval (.pllMark h)

theorem pllLockTimeout {p : Fin 3} : KeepsRange s (execPllLockTimeout p s) :=
  .main fun h => .ite (.pllFault (.withThm h fun k => k)) h

theorem pllLastRequestReleased {p : Fin 3} {fw : Bool} : KeepsRange s (execPllLastRequestReleased p fw s) :=
  .main fun h => .when h fun h => .pllRelease (.pllMark h)

theorem pllHoldoffExpire {p : Fin 3} {req : Bool} : KeepsRange s (execPllHoldoffExpire p req s) := by
  unfold execPllHoldoffExpire
  exact .main fun h => .ite (.ite (.set (.when h fun h => .pllMark h)) (.showFrozen (.set (.when h fun h => .pllMark h)))) h

theorem pllLockLost {p : Fin 3} : KeepsRange s (execPllLockLost p s) := .main fun h => .ite (.pllFault h) h

theorem referenceFailure : KeepsRange s (execReferenceFailure s) := .main fun h => .clockSafe (.raise (.set h))

theorem appRst {o : Origin} {key : BitVec 16} {rst : Bool} : KeepsRange s (execAppRst o key rst s) :=
  .byOriginMem fun k => .rstctl k

theorem watchdogExpiry : KeepsRange s (execWatchdogExpiry s) := .mainMem fun k => .ite k (.appReset k)

theorem thimbleReset : KeepsRange s (execThimbleReset s) := by
  unfold execThimbleReset
  exact .mainMem fun k => .ite k (.ite (.ite (.keepReset k) (.dev (.appReset k) fun h => .beside h)) (.ite (by split; exacts
    [(.ite (.keepReset k) (.appReset (.dev k fun h => .beside h))), (.appReset (.dev k fun h => .beside h))]) k))

theorem debugReset : KeepsRange s (execDebugReset s) :=
  .mainMem fun k => .ite (.ite k (.dev (.appReset k) fun h => .count h)) (.dev k fun h => .count h)

/-! #### Sys2Proof/Machine/Hem.lean -/

theorem checkpoint {p : Fin 2} : KeepsRange s (execCheckpoint p s) := .onClk fun h => .ite (.checkpoint h) h

theorem forced {p : Fin 2} : KeepsRange s (execForced p s) := .onClk fun h => .ite (.raiseLim (.count (.checkpoint h))) h

theorem privateStore {p : Fin 2} {a : BitVec 40} {w : Width} {v : BitVec 64} : KeepsRange s (execPrivateStore p a w v s) :=
  .onClkMem fun k => .ite (.pairStore k) k

theorem mismatchDetected {p : Fin 2} : KeepsRange s (execMismatchDetected p s) := by
  unfold execMismatchDetected
  exact .onClk fun h => .ite h (.ite (.retire (.pairUpd (.handRefuse (.handRefuse (.raise (.count (.setReg h))))))) (.ite
    (.pairUpd (.handRefuse (.handRefuse (.raise (.count (.setReg h)))))) (.portDrop (.set (.pairUpd (.handRefuse (.handRefuse
    (.raise (.count (.setReg h))))))))))

theorem darnRestartComplete {p : Fin 2} {ok : Bool} {us : BitVec 12} : KeepsRange s (execDarnRestartComplete p ok us s) := by
  unfold execDarnRestartComplete
  exact .onClkMem fun k => .ite k (.ite (.dev k fun h => .released h) (.dev k fun h => .retire h))

theorem watchdogService {o : Origin} {key : BitVec 16} : KeepsRange s (execWatchdogService o key s) :=
  .byOrigin fun h => .dogWrite h

theorem split {o : Origin} : KeepsRange s (execSplit o s) := .byOrigin fun h => .splitWrite h

theorem splitComplete {p : Fin 2} : KeepsRange s (execSplitComplete p s) :=
  .onClk fun h => .ite (.raise (.set (.portUpd (.pairUpd h) fun k => k))) h

theorem ownerReq {o : Origin} : KeepsRange s (execOwnerReq o s) := .byOrigin fun h => .ownerReq h

theorem safeAck {o : Origin} : KeepsRange s (execSafeAck o s) := .byOrigin fun h => .safeAck h

theorem handoverTimeout : KeepsRange s (execHandoverTimeout s) := .main fun h => .handRefuse h

theorem rejoin {c : Fin 4} : KeepsRange s (execRejoin c s) := .byOrigin fun h => .rejoin h

theorem rejoinTimeout {p : Fin 2} : KeepsRange s (execRejoinTimeout p s) := .onClk fun h => .ite (.pairRefuse (.pairUpd h)) h

theorem rejoinComplete {p : Fin 2} : KeepsRange s (execRejoinComplete p s) :=
  .onClk fun h => .ite h (.roleFromRetired (.raise (.checkpoint (.set (.pairUpd (.portUpd (.portDrop h) fun k => k))))))

theorem splitCoreParity {c : Fin 4} : KeepsRange s (execSplitCoreParity c s) :=
  .onClk fun h => .ite h (.count (.pairUpd (.portUpd (.portDrop h) fun k => k)))

theorem splitCoreSelfTestDone {c : Fin 4} : KeepsRange s (execSplitCoreSelfTestDone c s) := .onClk fun h => .pairUpd h

theorem deratingUpdate : KeepsRange s (execDeratingUpdate s) := .main fun h => .each (.tempKeep h) fun h => .derate h

theorem hemSpeedTrip {g : Fin 2} : KeepsRange s (execHemSpeedTrip g s) := .main fun h => .ite (.hemSafe (.count h)) h

theorem hemUdcTrip {g : Fin 2} : KeepsRange s (execHemUdcTrip g s) := .main fun h => .ite (.hemSafe (.count h)) h

theorem hold : KeepsRange s (execHold s) := .main fun h => .holdEval h

/-! #### Sys2Proof/Machine/AuxAdc.lean -/

theorem auxScanStart {m : Fin 2} : KeepsRange s (execAuxScanStart m s) := by
  unfold execAuxScanStart
  refine .main fun h => .ite h ?_
  split
  · exact .auxUpd h fun _ k hk => by
      obtain rfl := Option.some.inj hk
      decide
  · exact .count (.auxUpd h fun k => k)

theorem auxEntryDone {m : Fin 2} {x : List (BitVec 32)} : KeepsRange s (execAuxEntryDone m x s) := by
  unfold execAuxEntryDone
  refine .main fun {d} h => ?_
  split
  · exact h
  next k he => exact .auxNext (.auxPublish h) (h.auxAt k he)

/-! #### Sys2Proof/Machine/Thimble.lean -/

theorem thimbleCoreFault : KeepsRange s (execThimbleCoreFault s) := by
  unfold execThimbleCoreFault
  exact .main fun h => .ite h (.eachOf (.brakeApply (.each (.windStop (.set h)) fun h => .cutPaths h)) fun h => .ite
    (.applySafe (.cluSafe h)) (.thmToSto h))

theorem thimbleRestartDone : KeepsRange s (execThimbleRestartDone s) := by
  unfold execThimbleRestartDone
  exact .mainMem fun k => .ite k (.ite (.keepReset (.dev (.endDev (.endSafety k)) fun h => .withThm (.set (.hemHold
    (.thmShow (.thmChecks (.thmLatch (.thmForget (.count h))))))) fun k => k)) (.dev (.endDev (.endSafety k)) fun h =>
    .thmStart (.hemHold (.thmShow (.thmChecks (.thmLatch (.thmForget (.count h))))))))

theorem pathTest {n : Fin 14} {p1 p2 : Bool} : KeepsRange s (execPathTest n p1 p2 s) :=
  .thimble fun h => .ite h (.thmEvalAll (.thmLatch (.ite (.tgrpUpd h) h)))

theorem speedCheck : KeepsRange s (execSpeedCheck s) := .thimble fun h => .eachOf h fun h => .speedRead h

theorem selReleaseTimer {g : Fin 2} : KeepsRange s (execSelReleaseTimer g s) := .thimble fun h => .ite (.selPut h) h

theorem ss1Check {g : Fin 2} {ms : BitVec 16} : KeepsRange s (execSs1Check g ms s) := by
  unfold execSs1Check
  exact .thimble fun h => .ite h (.ite (.eachOf h fun h => .set h) (.ite (.ss1Violate (.eachOf h fun h => .set h)) (.ite
    (.ss1Complete (.eachOf h fun h => .set h)) (.eachOf h fun h => .set h))))

theorem ss1Deadline {g : Fin 2} : KeepsRange s (execSs1Deadline g s) := .thimble fun h => .ite (.ss1Demand h) h

theorem sbcEngageTimer {g : Fin 2} : KeepsRange s (execSbcEngageTimer g s) := .thimble fun h => .ite (.ss1Demand h) h

theorem stoAscTimeout {g : Fin 2} : KeepsRange s (execStoAscTimeout g s) := .thimble fun h => .ite (.thmToSto h) h

theorem safeToSto {g : Fin 2} : KeepsRange s (execSafeToSto g s) := .thimble fun h => .ite (.thmToSto h) h

theorem safetyInputChange {k : Fin 4} {a b : Bool} : KeepsRange s (execSafetyInputChange k a b s) :=
  .main fun h => by extract_lets; split; exact .when (.withThm (.set h) fun k => k) fun h => .thmEvalAll (.siStep h)

theorem siDisc {k : Fin 4} : KeepsRange s (execSiDisc k s) :=
  .thimble fun h => .ite (.thmEvalAll (.thmLatch (.siCause (.siPut (.withThm h fun k => k))))) h

theorem sbcTestPulse {ok : Bool} : KeepsRange s (execSbcTestPulse ok s) :=
  .thimble fun h => .ite h (.ite (.count h) (.sbcFault (.count h)))

theorem sbcApplyCheck {ma : BitVec 16} : KeepsRange s (execSbcApplyCheck ma s) :=
  .thimble fun h => .ite h (.ite (.clrBits (.set h)) (.sbcFault (.setBits (.set h))))

theorem sbcCurrentLow {ma : BitVec 16} : KeepsRange s (execSbcCurrentLow ma s) :=
  .thimble fun h => .ite h (.ite (.sbcFault (.set h)) (.set h))

theorem tmWindowEnd {l : List (BitVec 12 × BitVec 12)} {iq0 iq1 : BitVec 64} : KeepsRange s (execTmWindowEnd l iq0 iq1 s) := by
  unfold execTmWindowEnd
  exact .thimble fun h => .ite (.dcShow h) (.ite (.count (.ite (.setB (.setI (.setI (.dcShow h)))) (.raiseLim (.setB (.setI
    (.setI (.dcShow h))))))) (.tmJudge (.ite (.setB (.setI (.setI (.dcShow h)))) (.raiseLim (.setB (.setI (.setI (.dcShow
    h))))))))

theorem udcDiv {v : BitVec 16} {bad : Bool} : KeepsRange s (execUdcDiv v bad s) := by
  unfold execUdcDiv
  exact .thimble fun h => .ite (.thmEvalAll (.eachOf (.thmLatch (.setBits (.set (.tudcShow h)))) fun h => .groupSafe h))
    (.clrBits (.set (.tudcShow h)))

theorem disSlow {v : BitVec 16} : KeepsRange s (execDisSlow v s) :=
  .thimble fun h => .ite (.tudcShow h) (.thmEvalAll (.thmLatch (.disEnd (.tudcShow h))))

theorem windingDischargeStop {v : BitVec 16} : KeepsRange s (execWindingDischargeStop v s) :=
  .thimble fun h => by split; exacts [h, .ite (.windStop (.tudcShow h)) (.tudcShow h)]

theorem lockoutExpiry : KeepsRange s (execLockoutExpiry s) := .thimble fun h => .ite (.set (.lockPut h)) h

theorem lockoutSave : KeepsRange s (execLockoutSave s) := .thimble fun h => .ite (.lockPut h) h

theorem unlockTimeout : KeepsRange s (execUnlockTimeout s) := .mainMem fun k => .ite (.endSafety k) k

theorem unknownRequest {o : Origin} {code : BitVec 8} {tag : BitVec 16} :
    KeepsRange s (execUnknownRequest o code tag s) :=
  .byOriginHere fun k => .ite k (.thmreqWrite k)

/-! #### Sys2Proof/Machine/Sfl.lean -/

theorem txPop : KeepsRange s (execTxPop s) := .byReg fun h => .sflPop h

theorem connectionEnable {o : Origin} {k : Fin 256} {en : Bool} : KeepsRange s (execConnectionEnable o k en s) :=
  .byOrigin fun h => .ite h (.ite (.sflEnable (.rwsStored h)) (.rwsRefuse h))

theorem connectionCycle {k : Fin 256} : KeepsRange s (execConnectionCycle k s) :=
  .onClk fun h => .ite h (by split; exacts [.sflSend (.set h), (.when h fun h => .sflData h), h])

theorem connectionWatchdog {k : Fin 256} : KeepsRange s (execConnectionWatchdog k s) :=
  .main fun h => .ite (.sflThm (.count (.sflDown h))) h

theorem appsend {k : Fin 256} {len : BitVec 8} : KeepsRange s (execAppsend k len s) := .byRegMem fun k => .appSend k

theorem submit {len : BitVec 16} : KeepsRange s (execSubmit len s) := .byRegMem fun k => .sflSubmit k

/-! #### Sys2Proof/Machine/Events.lean -/

theorem evrAck {t : Fin 6} {k : BitVec 10} : KeepsRange s (execEvrAck t k s) := .byReg fun h => .ite (.evrClear h) h

theorem evrPendClear {t : Fin 6} {j : Fin 12} {mask : BitVec 64} : KeepsRange s (execEvrPendClear t j mask s) :=
  .byReg fun h => .evrClearMask h

theorem journalEntryWrite : KeepsRange s (execJournalEntryWrite s) := .mainMem fun k => .jnlWrite k

theorem jnlFwcmd {o : Origin} {k : BitVec 8} : KeepsRange s (execJnlFwcmd o k s) := .byOrigin fun h => .fwEntry h

theorem dtmHoldover : KeepsRange s (execDtmHoldover s) := .main fun h => .ite (.raise (.count (.set h))) h

/-! #### Sys2Proof/Machine/Domain.lean -/

theorem domainEn {en : Bool} : KeepsRange s (execDomainEn en s) := .byRegMem fun k => .canWant (.dev k fun h => .domEnable h)

theorem formDelayReached : KeepsRange s (execFormDelayReached s) := .domain fun h => .ite (.domSend (.domContend h)) h

theorem domainOpen : KeepsRange s (execDomainOpen s) := .domHeard fun h => .when (.domContend h) fun h => .domClaim0 h

theorem domainClaim {r : Fin 4} {arg : BitVec 16} : KeepsRange s (execDomainClaim r arg s) :=
  .domHeard fun h => .ite (.domContend h) (.ite (.beside (.domDropClaims h)) h)

theorem domainRegister {arg : BitVec 16} {uid : BitVec 64} : KeepsRange s (execDomainRegister arg uid s) :=
  .domHeard fun h => .domRegister h

theorem domainTrunk {trunk : Bool} {uid : BitVec 64} : KeepsRange s (execDomainTrunk trunk uid s) :=
  .domHeard fun h => .domTrunk h

theorem domainLeader {uid : BitVec 64} : KeepsRange s (execDomainLeader uid s) :=
  .domHeard fun h => .ite h (.domLeader (.domHeardRef h))

theorem domoff {off : BitVec 64} : KeepsRange s (execDomoff off s) := .domHeard fun h => .when h fun h => .dtmMeasure h

theorem segnum {num : BitVec 16} {gm : BitVec 64} : KeepsRange s (execSegnum num gm s) := .domHeard fun h => .domSegnum h

theorem claimSilence : KeepsRange s (execClaimSilence s) := .domain fun h => .when h fun h => .domClaim0 h

theorem segmentClose : KeepsRange s (execSegmentClose s) := .domain fun h => .domClose h

theorem segReg {r : SegReg} : KeepsRange s (execSegReg r s) := .domain fun h => .domRegSeg h

theorem directoryClose : KeepsRange s (execDirectoryClose s) := .domain fun h => .domDirClose h

theorem dirAck {leader : BitVec 64} {num : BitVec 9} {ver : BitVec 4} : KeepsRange s (execDirAck leader num ver s) :=
  .domain fun h => .domDirAck h

theorem dirDone : KeepsRange s (execDirDone s) := .domain fun h => .domDirDone h

theorem dirQuery {uid : BitVec 64} : KeepsRange s (execDirQuery uid s) := .domain fun h => .ite h (.domSay h)

theorem gatewayServoLocked : KeepsRange s (execGatewayServoLocked s) := .domain fun h => .ite (.domReport (.domPut h)) h

theorem connectComplete : KeepsRange s (execConnectComplete s) := .domain fun h => .ite (.domPut (.set h)) h

theorem leaderRefMissing : KeepsRange s (execLeaderRefMissing s) :=
  .domain fun h => .ite h (.ite (.domTakeLead (.domGateway (.domMembers h))) (.domGateway (.domMembers h)))

theorem gmChange : KeepsRange s (execGmChange s) := .domain fun h => .when (.beside h) fun h => .domReport h

/-! #### Sys2Proof/Machine/Can.lean -/

theorem canRunSet {n : Fin 4} : KeepsRange s (execCanRunSet n s) := .byReg fun h => .canRunSet h

theorem canRunClear {n : Fin 4} : KeepsRange s (execCanRunClear n s) := .byReg fun h => .canRunClear h

theorem busIdleDetected {n : Fin 4} : KeepsRange s (execBusIdleDetected n s) := by
  unfold execBusIdleDetected
  exact .onClkMem fun k => .ite (.canArb (.dev k fun h => .set h)) (.ite (.canArb (.dev k fun h => .canUpd h)) (.dev k fun h
    => .canUpd h))

theorem recover {n : Fin 4} : KeepsRange s (execRecover n s) := .byReg fun h => .canRecover h

theorem busOn {n : Fin 4} : KeepsRange s (execBusOn n s) :=
  .onClkMem fun k => .ite (.canArb (.dev k fun h => .raise (.canCount (.set h)))) k

theorem txreq {n : Fin 4} {mask : BitVec 3} : KeepsRange s (execTxreq n mask s) := .byRegMem fun k => .canTxreq k

theorem txabort {n : Fin 4} {mask : BitVec 3} : KeepsRange s (execTxabort n mask s) := .byRegMem fun k => .canTxabort k

theorem canTxComplete {n : Fin 4} {e : TxEnd} : KeepsRange s (execCanTxComplete n e s) := by
  unfold execCanTxComplete
  refine .onClkMem fun k => ?_
  split
  · exact k
  · extract_lets _ t1
    have k1 : t1.InRange := .dev k fun h => .canUpd h
    refine .canArb (.dev (.ite (.canLostAt k1) ?_) fun h => .canStopped h)
    split; exacts [.ite (.canLostAt k1) (.canSent k1), .canLostAt k1, .canLostAt k1]

theorem refPeriod {n : Fin 4} : KeepsRange s (execRefPeriod n s) := by
  unfold execRefPeriod
  exact .onClkMem fun k => .ite (.canWant (.dev k fun h => .canQueue (.refPeriodBegin h))) (.dev k fun h => .refPeriodBegin h)

theorem canFrameReceived {n : Fin 4} {f : CanFrame} {age : BitVec 32} : KeepsRange s (execCanFrameReceived n f age s) := by
  unfold execCanFrameReceived
  exact .onClkMem fun k => .ite k (.ite (.dev k fun h => .canException h) (.canArb (.dev (.canFilter (.dev k fun h =>
    .canRxGood h)) fun h => .canStopped (.when (.when (.refSeen h) fun h => .refHeard h) fun h => .followHeard h))))

theorem refFollowTimeout {n : Fin 4} : KeepsRange s (execRefFollowTimeout n s) :=
  .onClk fun h => .when h fun h => .count (.canUpd h)

theorem canProtocolException {n : Fin 4} : KeepsRange s (execCanProtocolException n s) := .onClk fun h => .canException h

theorem canBusError {n : Fin 4} {e : CanErr} {lec : BitVec 3} : KeepsRange s (execCanBusError n e lec s) := by
  unfold execCanBusError
  refine .onClk fun h => .ite h ?_
  extract_lets
  split
  exacts [.canCount (.set h), .canCount (.set h), .canCount (.set h), .set h, .canCount (.canUpd (.set h))]

theorem fifoPop {n : Fin 4} : KeepsRange s (execFifoPop n s) := .byReg fun h => .canPop h

theorem hpSlotFree {n : Fin 4} {mask : BitVec 4} : KeepsRange s (execHpSlotFree n mask s) := .byReg fun h => .clrBits h

theorem dominantTimeout {n : Fin 4} : KeepsRange s (execDominantTimeout n s) :=
  .onClk fun h => .when h fun h => .raiseLim (.count (.canUpd h))

/-! #### Sys2Proof/Machine/Eth.lean -/

theorem ethLinkChange {p : Fin 2} {up : Bool} {sqi : BitVec 3} : KeepsRange s (execEthLinkChange p up sqi s) :=
  .domain fun h => .ethLink h

theorem announceReceived {p : Fin 2} {a : Announce} : KeepsRange s (execAnnounceReceived p a s) :=
  .main fun h => .ite h (.asSelect (.beside h))

theorem announceTransmit {p : Fin 2} : KeepsRange s (execAnnounceTransmit p s) :=
  .main fun h => by extract_lets; split; exacts [.ite (.beside (.asSelect h)) (.asSelect h), .asSelect h]

theorem syncTransmit {p : Fin 2} : KeepsRange s (execSyncTransmit p s) := .main fun h => .ite (.syncSend h) h

theorem syncReceived {p : Fin 2} {t : BitVec 64} {age : BitVec 32} : KeepsRange s (execSyncReceived p t age s) :=
  .main fun h => .ite h (.when (.when h fun h => .syncSend h) fun h => .dtmMeasure h)

theorem pdelayExchange {p : Fin 2} {delay : Option (BitVec 32)} : KeepsRange s (execPdelayExchange p delay s) := by
  unfold execPdelayExchange
  exact .main fun h => .ite h (by split; exacts [.asSelect (.set (.set h)), .asSelect (.raise (.count (.asForget h)))])

theorem syncLost {p : Fin 2} : KeepsRange s (execSyncLost p s) := .main fun h => .ite (.raise (.count h)) h

theorem switchFrameReceived {p : Fin 2} {l : List (BitVec 8)} {ok : Bool} {age : BitVec 32} :
    KeepsRange s (execSwitchFrameReceived p l ok age s) := by
  unfold execSwitchFrameReceived
  exact .mainMem fun k => .hostDrain (.dev k fun h => .switched h)

theorem txkick : KeepsRange s (execTxkick s) := .byRegMem fun k => .txKick k

theorem hostFrameSent {ok : Bool} {age : BitVec 32} : KeepsRange s (execHostFrameSent ok age s) := by
  unfold execHostFrameSent
  exact .onClkMem fun k => .ite k (.txKick (.dev k
    fun h => .raise (.set (.ite (.eachOf (.macLearn h) fun h => .ethQueue h) h))))

theorem macEntryAgeing {mac : BitVec 48} : KeepsRange s (execMacEntryAgeing mac s) := .main fun h => .beside h

/-! #### Sys2Proof/Machine/Spim.lean -/

theorem m0Go : KeepsRange s (execM0Go s) := .byReg fun h => .m0Go h

theorem m0Done {e : M0End} : KeepsRange s (execM0Done e s) := by
  unfold execM0Done
  refine .onClkMem fun k => .ite k ?_
  cases e with
  | timeout => exact .dev k fun h => .raise (.count (.set (.clkEval (.set h))))
  | done rd chg =>
    exact .ite k (.ite (.dev k fun h => .raise (.set (.clkEval (.set h)))) (.dev k fun h =>
      .raise (.count (.set (.ite (.clkEval (.set h)) (.m0Upd (.clkEval (.set h))))))))

theorem flashWindowRead {free : Bool} : KeepsRange s (execFlashWindowRead free s) := .onClk fun h => .when h fun h => .count h

theorem m1TxQueue {v : BitVec 64} : KeepsRange s (execM1TxQueue v s) := .byReg fun h => .m1Tx h

theorem m1EntryDone {w : BitVec 32} {l : List (BitVec 8)} : KeepsRange s (execM1EntryDone w l s) := by
  unfold execM1EntryDone
  refine .onClkMem fun k => ?_
  split
  · exact k
  · exact .dev k fun h => .clkEval (.m1Show (.ite
      (.raise (.ite (.beside h) (.m1Received (.beside h)))) (.m1Start (.ite (.beside h) (.m1Received (.beside h))))))

theorem m1RxPop : KeepsRange s (execM1RxPop s) := .byReg fun h => .m1Pop h

/-! #### Sys2Proof/Machine/Boot.lean -/

theorem pllLock {p : Fin 3} : KeepsRange s (execPllLock p s) :=
  .main fun h => .ite (.pllRelease (.laResume (.refAtStart (.showFrozen (.set h))))) h

theorem thimbleBootDone {ok safe1 safe2 cal1 cal2 torn : Bool} :
    KeepsRange s (execThimbleBootDone ok safe1 safe2 cal1 cal2 torn s) := by
  unfold execThimbleBootDone
  exact .main fun h => .ite h (.ite (.withThm h fun k => k) (.bootRelease (.jnlBoot (.hemHold (.thmStart
    (.thmShow (.trimLoad (.thmChecks (.beside h)))))))))

theorem headerCheckDone {ok : Bool} {map prot : BitVec 64} : KeepsRange s (execHeaderCheckDone ok map prot s) := by
  unfold execHeaderCheckDone
  exact .bootStage fun k => .ite (.dev k fun h => .slotRefused (.ite (.setReg (.setReg h)) (.set (.beside (.setReg (.setReg
    h)))))) (.dev k fun h => .beside (.ite (.setReg (.setReg h)) (.set (.beside (.setReg (.setReg h))))))

theorem imageStreamDone {ok : Bool} {c : ImgContent} : KeepsRange s (execImageStreamDone ok c s) :=
  .bootStage fun k => .ite (.dev k fun h => .slotRefused h) (.dev k fun h => .beside h)

theorem signatureCheckDone : KeepsRange s (execSignatureCheckDone s) :=
  .bootStage fun k => .ite (.dev k fun h => .slotRefused h) (.dev k fun h => .beside (.setCause h))

theorem activation : KeepsRange s (execActivation s) := by
  unfold execActivation
  exact .bootStage fun k => .ite k (.dev k fun h => .activate h)

theorem readySet : KeepsRange s (execReadySet s) := by
  unfold execReadySet
  exact .bootStage fun k => .dev k fun h => .clkEval (.domReady (.thmEvalAll (.hemHold (.beside (.when (.set (.set (.set
    (.beside h)))) fun h => .raise h)))))

theorem verify : KeepsRange s (execVerify s) := .byReg fun h => .verify h

theorem verifyDone {ok : Bool} {c : ImgContent} : KeepsRange s (execVerifyDone ok c s) :=
  .onClk fun h => .ite h (.set (.setCause h))

/-! #### Sys2Proof/Machine/Crc.lean -/

theorem crcInit {u : Fin 8} : KeepsRange s (execCrcInit u s) := .byReg fun h => .crcInit h

theorem crcGo {u : Fin 8} : KeepsRange s (execCrcGo u s) := .byReg fun h => .crcGo h

theorem crcData {u : Fin 8} {half : Bool} {v : BitVec 64} : KeepsRange s (execCrcData u half v s) := .byReg fun h => .crcData h

/-! #### Sys2Proof/Machine/Flow.lean -/

theorem flowMeasurementStart : KeepsRange s (execFlowMeasurementStart s) := .onClk fun h => .when h fun h => .set h

theorem flowPairEvaluated {peak : Bool} {ad au qd qu : BitVec 16} {td tu dt : BitVec 32} : KeepsRange s (execFlowPairEvaluated
  peak ad au qd qu td tu dt s) := by
  unfold execFlowPairEvaluated
  exact .onClk fun h => .ite h (.ite (.raiseLim (.count (.set (.set (.set (.set (.set h))))))) (.flowValid (.set (.set (.set
    (.set h))))))

theorem flowStale : KeepsRange s (execFlowStale s) := .main fun h => .ite h (.raise (.set h))

/-! #### Sys2Proof/Machine/Lua.lean -/

theorem luTxByte {n : Fin 4} {b : BitVec 8} : KeepsRange s (execLuTxByte n b s) := .byReg fun h => .luTx h

theorem luByteSent {n : Fin 4} : KeepsRange s (execLuByteSent n s) :=
  .onClk fun h => by split; exacts [h, (.ite h (.when (.luShow (.luUpd h fun k => k)) fun h => .raise h))]

theorem luRxPop {n : Fin 4} : KeepsRange s (execLuRxPop n s) := .byReg fun h => .luPop h

theorem uartByteReceived {n : Fin 4} {b : BitVec 8 × BitVec 8 × BitVec 8} {par : Bool × Bool × Bool}
    {stop : Bool × List Bool} : KeepsRange s (execUartByteReceived n b par stop s) := by
  unfold execUartByteReceived
  refine .onClk fun {d} h => .ite h ?_
  extract_lets _ _ _ _ _ _ d1 d2
  have h2 : d2.InRange := .when (.when (.when h fun h => .count h) fun h => .count h) fun h => .count h
  exact .when (.ite (.count h2) (.raise (.luShow (.luUpd h2 fun k => k)))) fun h => .luError h

theorem linGo {n : Fin 4} : KeepsRange s (execLinGo n s) := .byReg fun h => .linGo h

theorem linFrameEnd {n : Fin 4} {e : LinEnd} : KeepsRange s (execLinFrameEnd n e s) :=
  .onClk fun h => by split; exacts [h, (by split; exacts [.linDone h, .linEnd h])]

theorem linResponseTimeout {n : Fin 4} : KeepsRange s (execLinResponseTimeout n s) := .onClk fun h => .when h fun h => .linEnd h

theorem linBreak {n : Fin 4} {span : BitVec 32} : KeepsRange s (execLinBreak n span s) :=
  .onClk fun h => .ite h (.ite (.linEnd (.count h)) (.set (.luUpd (.count h) fun _ _ hf => by cases hf)))

/-- The slot that serves a header is one of the four (R413). -/
theorem linHeader {n : Fin 4} {pid : BitVec 8} : KeepsRange s (execLinHeader n pid s) := by
  unfold execLinHeader
  refine .onClk fun {d} h => .ite h (.ite (.linEnd (.luUpd h fun k => k)) ?_)
  split
  · exact .raise (.count (.luUpd h fun k => k))
  next k hk =>
    refine .set (.set (.luUpd (.luUpd h fun k => k) fun _ f hf j hj => ?_))
    obtain rfl := Option.some.inj hf
    obtain rfl := Option.some.inj hj
    exact List.mem_range.mp (List.mem_of_find?_eq_some hk)

/-! #### Sys2Proof/Machine/Nfc.lean -/

theorem tagInventory {len : BitVec 7} {mask : BitVec 64} : KeepsRange s (execTagInventory len mask s) :=
  .inField fun k => .ite (.dev k fun h => .tagAnswer h) k

theorem tagStayQuiet {uid : BitVec 64} : KeepsRange s (execTagStayQuiet uid s) :=
  .inField fun k => .ite (.dev k fun h => .tagProto h) k

theorem tagSelect {uid : BitVec 64} : KeepsRange s (execTagSelect uid s) :=
  .inField fun k => .ite (.dev k fun h => .tagAnswer (.tagProto h)) (.ite (.dev k fun h => .tagProto h) k)

theorem tagResetToReady {adr : TagTo} : KeepsRange s (execTagResetToReady adr s) :=
  .tagCmd fun k => .dev k fun h => .tagAnswer (.tagProto h)

theorem tagReadSingleBlock {adr : TagTo} {b : BitVec 8} : KeepsRange s (execTagReadSingleBlock adr b s) :=
  .tagCmd fun k => .tagRead k

theorem tagWriteSingleBlock {adr : TagTo} {b : BitVec 8} {v : BitVec 32} : KeepsRange s (execTagWriteSingleBlock adr b v s) :=
  .tagCmd fun k => .tagWriteBlock k

theorem tagReadMultipleBlocks {adr : TagTo} {b n : BitVec 8} : KeepsRange s (execTagReadMultipleBlocks adr b n s) :=
  .tagCmd fun k => .tagRead k

theorem tagExtendedReadSingleBlock {adr : TagTo} {b : BitVec 16} : KeepsRange s (execTagExtendedReadSingleBlock adr b s) :=
  .tagCmd fun k => .tagRead k

theorem tagExtendedWriteSingleBlock {adr : TagTo} {b : BitVec 16} {v : BitVec 32} : KeepsRange s (execTagExtendedWriteSingleBlock
  adr b v s) := by
  unfold execTagExtendedWriteSingleBlock
  exact .tagCmd fun k => .ite (.dev k fun h => .tagError h) (.tagWriteBlock k)

theorem tagExtendedReadMultipleBlocks {adr : TagTo} {b n : BitVec 16} : KeepsRange s (execTagExtendedReadMultipleBlocks adr b n
  s) := by
  unfold execTagExtendedReadMultipleBlocks
  exact .tagCmd fun k => .tagRead k

theorem tagGetSystemInformation {adr : TagTo} : KeepsRange s (execTagGetSystemInformation adr s) :=
  .tagCmd fun k => .dev k fun h => .tagAnswer h

theorem tagExtendedGetSystemInformation {adr : TagTo} : KeepsRange s (execTagExtendedGetSystemInformation adr s) :=
  .tagCmd fun k => .dev k fun h => .tagAnswer h

theorem unsupportedTagCommand {adr : TagTo} : KeepsRange s (execUnsupportedTagCommand adr s) :=
  .tagCmd fun k => .dev k fun h => .tagError h

theorem nfcFieldDetected : KeepsRange s (execNfcFieldDetected s) := by
  unfold execNfcFieldDetected
  exact .always fun h => .ite h (.ite (.tagShow (.beside h)) (.ite (.wake (.when (.tagShow (.beside h)) fun h => .raise h))
    (.when (.tagShow (.beside h)) fun h => .raise h)))

theorem nfcFieldGone : KeepsRange s (execNfcFieldGone s) :=
  .always fun h => .ite (.when (.tagShow (.beside h)) fun h => .raise h) h

theorem nfcCommit {page : BitVec 6} : KeepsRange s (execNfcCommit page s) :=
  .byRegMem fun k => .nfcCommit (.dev k fun h => .set h)

theorem nfcRead {page : BitVec 6} : KeepsRange s (execNfcRead page s) := .byRegMem fun k => .nfcRead (.dev k fun h => .set h)

theorem nfcCommitDone {e : TagEnd} : KeepsRange s (execNfcCommitDone e s) := by
  unfold execNfcCommitDone
  refine .onClkMem fun k => ?_
  split
  · exact .ite (.dev k fun h => .raise (.count (.set (.nfcFree h)))) k
  · exact .ite k (.dev k fun h => .beside h)
  · refine .ite k ?_
    split
    · exact .dev k fun h => .when (.raise (.count (.set (.nfcFree h)))) fun h => .tagDirty h
    · exact .nfcTake (.dev k fun h => .nfcFree h)
    · exact k

theorem faultPageMirror : KeepsRange s (execFaultPageMirror s) := by
  unfold execFaultPageMirror
  exact .onClkMem fun k => .ite k (.dev k fun h => .clkEval (.add (.beside h)))

/-! #### Sys2Proof/Machine/Bus.lean -/

theorem registerWrite {o : Origin} {a : BitVec 40} {w : Width} {v : BitVec 64} :
    KeepsRange s (execRegisterWrite o a w v s) := by
  unfold execRegisterWrite
  exact .byOriginHere fun k => .busWrite k

theorem debugCommand {cmd : DbgCmd} : KeepsRange s (execDebugCommand cmd s) :=
  .mainMem fun k => .ite (.dev k fun h => .count h) (.debugCmd k)

/-! #### Sys2Proof/Machine/CrcMem.lean -/

theorem crcStop {u : Fin 8} {cyc : BitVec 40} : KeepsRange s (execCrcStop u cyc s) :=
  .byRegMem fun k => .dev (.crcCycles k) fun h => .crcEnd h

theorem crcMemoryDone {u : Fin 8} : KeepsRange s (execCrcMemoryDone u s) :=
  .onClkMem fun k => .dev (.crcCycles k) fun h => .crcEnd h

/-! #### Sys2Proof/Machine/SpiHost.lean -/

theorem spihFrameStart : KeepsRange s (execSpihFrameStart s) :=
  .main fun h => .ite h (.ite (.clkEval (.count (.spihUpd h))) (.clkEval (.spihUpd h)))

theorem spihFrameEnd {l : List (BitVec 8)} : KeepsRange s (execSpihFrameEnd l s) := by
  unfold execSpihFrameEnd
  exact .onClkMem fun k => .ite k (.ite (.dev k fun h => .clkEval (.spihUpd h)) (.ite (.appReset (.dev k fun h => .spihUpd
    (.when h fun h => .count h))) (by split; exacts [(.dev k fun h => .clkEval (.spihUpd (.spihUpd (.when h fun h => .count
    h)))), (.dev k fun h => .clkEval (.raise (.count (.spihUpd (.spihUpd (.when h fun h => .count h))))))])))

theorem nopCmd : KeepsRange s (execNopCmd s) := .spiExec fun k => .dev k fun h => .spiDone h

theorem rd : KeepsRange s (execRd s) := by
  unfold execRd
  refine .spiExec fun {t q} k => ?_
  have kr : (t.spiRead q.addr q.len8).1.InRange := .spiRead k
  split <;> rename_i he <;> rw [he] at kr <;> exact .dev kr fun h => .spiDone h

theorem wr : KeepsRange s (execWr s) := by
  unfold execWr
  exact .spiExec fun k => .dev (.spiWrite k) fun h => .spiDone h

theorem flRd {ok : Bool} : KeepsRange s (execFlRd ok s) :=
  .spiFlash fun k => .ite (.dev k fun h => .spiDone h) (.dev k fun h => .spiDone h)

theorem flProg {ok : Bool} : KeepsRange s (execFlProg ok s) :=
  .spiFlash fun k => .ite (.dev k fun h => .flashRefuse h) (.dev (.flashProg k) fun h => .spiDone h)

theorem flErase {ok : Bool} : KeepsRange s (execFlErase ok s) := by
  unfold execFlErase
  exact .spiFlash fun k => .ite (.dev k fun h => .flashRefuse h) (.dev k fun h => .spiDone h)

/-- KEY_PROG programs a slot that was not programmed (R65). -/
theorem keyProg : KeepsRange s (execKeyProg s) := by
  unfold execKeyProg
  refine .spiExec fun k => ?_
  extract_lets
  exact .ite (.dev k fun h => .spiDone h) (.dev k fun h => .spiDone (.keyPut h))

/-- KEY_REVOKE revokes a slot and leaves the rest of it (R65). -/
theorem keyRevoke : KeepsRange s (execKeyRevoke s) :=
  .spiExec fun k => .ite (.dev k fun h => .spiDone (.keyPut h)) (.dev k fun h => .spiDone h)

theorem appReset : KeepsRange s (execAppReset s) := .spiExec fun k => .dev k fun h => .spihUpd (.spiDone h)

theorem unknownCommand : KeepsRange s (execUnknownCommand s) :=
  .onClkMem fun k => by split; exacts [k, (.ite k (.dev k fun h => .spiDone h))]

end KeepsRange

/-- Every command answers a next state whose records hold numbers in range if those of `s` do. -/
theorem exec_keepsRange (i : Instr) (s : State) : KeepsRange s (exec i s) := by
  cases i
  case segnum num gm => exact .segnum (gm := gm)
  exacts [.registerWrite, .busErrorAccess, .vsupGood, .vsupDipStart, .vsupSagEnd, .supplyLossEvent, .vsupRecovery,
    .vholdBelowMinimum, .vholdExhausted, .vholdGood, .sleepReq, .sleepPrepComplete, .canWakePattern, .wakePinAccepted,
    .nfcFieldDetected, .nfcFieldGone, .sleepTimerExpiry, .pllRequest, .pllLock, .pllLockTimeout, .pllLastRequestReleased,
    .pllHoldoffExpire, .pllLockLost, .referenceFailure, .thimbleBootDone, .headerCheckDone, .imageStreamDone,
    .signatureCheckDone, .activation, .gateLinkTrainingDone, .gateLinkTrainingFail, .gateLinkRetry, .readySet, .appRst,
    .watchdogExpiry, .thimbleReset, .debugReset, .verify, .verifyDone, .foModeWrite, .foCurrentLimitReached,
    .foCurrentBelowLimit, .foLimitTimerExpire, .foOvertemperature, .foRetryTimerExpire, .foRetryReset, .foLatchClear,
    .bankSupplyFault, .bankSupplyRecovered, .aggOver, .diRawEdge, .diFilteredEdge, .adcRunStart, .adcRunStop, .sampleRecord,
    .slotTrigger, .slotFirstAperture, .slotComplete, .slotResultPublish, .urgentRequest, .urgentSlotComplete, .refSelect,
    .referenceSettled, .referenceOutOfWindow, .adcCalStart, .calibrationEnd, .adcTrimStart, .adcTrimDone, .auxScanStart,
    .auxEntryDone, .excitationMark, .resolverPairTimeout, .encoderEdge, .encoderMeasurement, .index, .serialFrameStart,
    .serialFrameComplete, .sscStartBitTimeout, .vencOvercurrent, .posFaultClear, .openToSls, .openTimeout, .slsLowSpeed,
    .disagree, .standstillCheckEnd, .satPulseEnd, .pulseDecayEnd, .cluEnable, .cluDisable, .offsetMeasurementEnd,
    .currentLoopUpdate, .vectorMeasurementRequest, .starved, .carrierMark, .switchEdge, .deadTimeEnd, .onTimeLimit,
    .brakeRequestSet, .brakeRequestClear, .brakeOnTimeEnd, .brakeOffTimeEnd, .brakePulseMissing, .windingDischargeEngage,
    .coffOnPhaseEnd, .coffOffTimeEnd, .windingDischargeEnd, .debugHalt, .debugResume, .debugCommand, .gateEdge, .edgeLearn,
    .shortCircuit, .desat, .softoffEnd, .overcurrent, .gateSupplyFault, .gateSupplyRecovered, .vposLost, .mismatch,
    .ntcReading, .ntcTrip, .ontHv, .linkLoss, .linkStatusMissing, .ascCommand, .ascRelease, .gateEnFall, .gateEnDisable,
    .gateEnRise, .autonomousDischarge, .disTmaxElapsed, .groupTrigger, .triggerTimeout, .opNop, .opMov, .opAdd, .opSub,
    .opNeg, .opAbs, .opMin, .opMax, .opClamp, .opSel, .opWrap, .opMul, .opMac, .opMsu, .opAccld, .opAccrd, .opTab, .opDiv,
    .opSqrt, .opSincos, .opAtan2, .opMag, .opBiq, .opRamp, .opPi, .opIn, .opOut, .opJge, .opEnd, .operationResult,
    .blockAccept, .epochDeadline, .collectorSwap, .sliceRun, .sliceEccError, .tuneCommit, .laRdw, .laRdout, .laRdage,
    .laRdseq, .laRdsst, .laTstat, .laDiv, .laSqrt, .laSin, .laCos, .laAtan2, .laMag, .laTset, .laTcommit, .laRun,
    .illegalInstruction, .commitBufferSend, .squash, .assistResultReturn, .arm, .stop, .force, .spoolRecordWrite,
    .spoolMemoryWrite, .axisEnable, .axisDisable, .axisStop, .homeGo, .positionTargetWrite, .velocityTargetWrite,
    .positionWrite, .motionTick, .holdCurrentTimer, .stepEdge, .chopperUpperReached, .chopperLowerReached, .chopperTailEnd,
    .onPhaseLimit, .limitSwitchEdge, .homeSwitchEdge, .homeDebounceExpire, .coilShort, .vstpFault, .vstpRecovered,
    .mismatchDetected, .darnRestartComplete, .checkpoint, .forced, .privateStore, .watchdogService, .split, .splitComplete,
    .ownerReq, .safeAck, .handoverTimeout, .rejoin, .rejoinTimeout, .rejoinComplete, .splitCoreParity, .deratingUpdate,
    .hemSpeedTrip, .hemUdcTrip, .hold, .thimbleCoreFault, .thimbleRestartDone, .pathTest, .speedCheck, .selReleaseTimer,
    .ss1Check, .ss1Deadline, .sbcEngageTimer, .stoAscTimeout, .safeToSto, .safetyInputChange, .siDisc, .sbcTestPulse,
    .sbcApplyCheck, .sbcCurrentLow, .tmWindowEnd, .udcDiv, .disSlow, .windingDischargeStop, .lockoutExpiry, .lockoutSave,
    .unlockTimeout, .request, .request, .request, .request, .request, .request, .request, .request,
    .request, .request, .request, .request, .request, .request, .request, .canRunSet, .canRunClear,
    .busIdleDetected, .canFrameReceived, .refFollowTimeout, .canProtocolException, .canBusError, .txreq, .txabort,
    .canTxComplete, .fifoPop, .hpSlotFree, .recover, .busOn, .dominantTimeout, .refPeriod, .ethLinkChange,
    .switchFrameReceived, .syncReceived, .pdelayExchange, .announceReceived, .syncLost, .txkick, .dtmHoldover, .submit,
    .txPop, .appsend, .connectionEnable, .connectionCycle, .connectionWatchdog, .domainEn, .formDelayReached, .domainOpen,
    .domainClaim, .domainRegister, .domainTrunk, .domainLeader, .domoff, .claimSilence, .segmentClose, .segReg,
    .directoryClose, .dirAck, .dirDone, .dirQuery, .gatewayServoLocked, .connectComplete, .leaderRefMissing, .gmChange,
    .crcInit, .crcGo, .crcStop, .crcData, .crcMemoryDone, .spihFrameStart, .nopCmd, .rd, .wr, .flRd, .flProg, .flErase,
    .keyProg, .keyRevoke, .appReset, .spihFrameEnd, .m0Go, .m0Done, .flashWindowRead, .m1TxQueue, .m1EntryDone,
    .m1RxPop, .luTxByte, .luRxPop, .uartByteReceived, .linGo, .linFrameEnd, .linResponseTimeout, .linBreak, .linHeader,
    .tagInventory, .tagStayQuiet, .tagSelect, .tagResetToReady, .tagReadSingleBlock, .tagWriteSingleBlock,
    .tagReadMultipleBlocks, .tagExtendedReadSingleBlock, .tagExtendedWriteSingleBlock, .tagExtendedReadMultipleBlocks,
    .tagGetSystemInformation, .tagExtendedGetSystemInformation, .unsupportedTagCommand, .nfcCommit, .nfcRead, .nfcCommitDone,
    .faultPageMirror, .flowMeasurementStart, .flowPairEvaluated, .flowStale, .evrAck, .evrPendClear, .journalEntryWrite,
    .jnlFwcmd, .vsupReturn, .vholdLow, .highVoltageHalfPowerUp, .unknownCommand, .unknownRequest, .luByteSent,
    .hostFrameSent, .syncTransmit, .announceTransmit, .macEntryAgeing, .splitCoreSelfTestDone]

theorem step_keepsRange (s : State) : KeepsRange s (step s) := by
  rw [step]
  split
  next c rest _ => exact ⟨(exec_keepsRange c { s with pending := rest }).ends⟩
  · exact .next fun k => .idle k

/-- Settles O7: each command keeps the numbers in range, and so does the step of an empty queue. -/
theorem stepKeepsNumbersInRange : Obligations.StepKeepsNumbersInRange := by
  intro s t h hst
  obtain ⟨u, hu, hk⟩ := (step_keepsRange s).ends (State.numbersOk_iff.mp h)
  obtain rfl : u = t := by injection hu.symm.trans hst
  exact State.numbersOk_iff.mpr hk

end Sys2Proof.Machine
end

section
/-!
Two position ports that feed one group (R106): a sensor fault of the one aborts the saturation-pulse start of the other (R116, R121),
whose stamp POS_TST is then that of its sensor again.
-/
namespace Sys2Proof.Machine

/-- PG0 is in TEST. Port 0 feeds it and is in ALIGN, with a stamp of 5; port 1 feeds it too, from its sensor, with VENC on. -/
def sharedGroup : State :=
  { dev := ({} : Dev)
      |>.set (CLU_STAT_STATE 0) 2
      |>.set (POS_CFG_GROUP 0) 1 |>.set (POS_STAT_SRC 0) 1 |>.setReg (A_POS_TST 0) 5
      |>.set (POS_CFG_GROUP 1) 1 |>.set (POS_STAT_SRC 1) 0 |>.set (POS_CFG_VENC_EN 1) 1 }

theorem sharedGroup_overcurrent : exec (.vencOvercurrent 1) sharedGroup =
    .next { sharedGroup with dev := sharedGroup.dev.posImmediate 1 0x400 } := by
  have hpowered : sharedGroup.dev.unpowered = false := by decide
  have hvenc : sharedGroup.dev.vencOn (1 : Fin 4) = true := by decide
  show execVencOvercurrent 1 sharedGroup = _
  rw [execVencOvercurrent, State.main_powered _ hpowered, if_pos hvenc]
  rfl

/-- Port 1 goes LOST, Hem puts PG0 into its safe state, and the start of port 0 is aborted. -/
theorem sharedGroup_overcurrent_stamp : (sharedGroup.dev.posImmediate 1 0x400).reg (A_POS_TST 0) = 0 := by decide +kernel

/-- Refutes O53: the clause on VENC_OVERCURRENT of port `p` lists the stamp of port `p` alone. In `sharedGroup` the overcurrent of
port 1 aborts the start of port 0, which feeds the same group, and the stamp of port 0, which was 5, reads 0. -/
theorem not_measurementFrames : ¬ Obligations.MeasurementFrames := by
  unfold Obligations.MeasurementFrames
  rintro ⟨-, -, -, -, -, -, -, -, -, -, -, -, -, -, -, -, -, -, -, -, -, -, hovercurrent, -⟩
  obtain ⟨t, ht, hleaves⟩ := hovercurrent sharedGroup 1 (.vencOvercurrent 1) (by simp)
  have hdev : t.dev = sharedGroup.dev.posImmediate 1 0x400 := by
    injection sharedGroup_overcurrent.symm.trans ht with h
    rw [← h]
  have hsame : t.dev.reg (A_POS_TST 0) = sharedGroup.dev.reg (A_POS_TST 0) := hleaves (.reg (A_POS_TST 0)) (by decide +kernel)
  rw [hdev, sharedGroup_overcurrent_stamp] at hsame
  exact absurd hsame (by decide)

end Sys2Proof.Machine
end

section
/-!
The reference trim over calibration data of another device (R65, R74, R96): the trim starts from fresh data, and not from the trim
that the stored data hold.
-/
namespace Sys2Proof.Machine

/-- A trim runs at 2.5 V, and the stored calibration data, with a trim of 5, are not bound to this device. -/
def foreignCal : State :=
  { dev := ({ per := { cal := { v1 := { bound := false, refTrim := 5 }, v2 := {}, g1 := 1 } } } : Dev)
      |>.set SYS_CLKSTAT_PLLC_ST 2 |>.set ADC_CALCTL_TRIM 1 |>.set ADC_TRIMV_UV 2500000 }

/-- A code of 0 shows no deviation of the reference, and the trim stored is that of fresh data: 0. -/
theorem foreignCal_refTrim {t : State} (h : exec (.adcTrimDone 0) foreignCal = .next t) :
    t.dev.per.cal.cur.map Cal.refTrim = some 0 := by
  cases h
  decide +kernel

/-- Refutes O21: the clause on ADC_TRIM_DONE takes the deviation off the trim of the current calibration data, bound or not. In
`foreignCal` that trim is 5 and the deviation 0, and the trim stored is 0. -/
theorem not_referenceAndAuxComplete : ¬ Obligations.ReferenceAndAuxComplete := by
  unfold Obligations.ReferenceAndAuxComplete
  rintro ⟨-, -, -, -, -, -, -, htrim, -⟩
  obtain ⟨t, ht, -, -, hcal⟩ := htrim foreignCal 0 (by decide) (by decide) (by decide)
  have hstored : some (0 : Int) = some 5 := (foreignCal_refTrim ht).symm.trans (hcal.trans (by decide))
  exact absurd hstored (by decide)

end Sys2Proof.Machine
end

section
/-!
The converters' registers and records beside what works elsewhere (R80 to R99): `Dev.SameAdc` says that they are those of another
device, and each operation that acts on the other blocks keeps them so.
-/
namespace Sys2Proof.Machine

/-- The registers of the pipeline converters and their records are those of `x`. -/
def Dev.SameAdc (d x : Dev) : Prop := d.adc = x.adc ∧ ∀ a, 0x40100000 ≤ a → a < 0x40110000 → d.reg a = x.reg a

namespace Dev.SameAdc

variable {d e x : Dev}

/-! ## What is the same -/

theorem refl : d.SameAdc d := ⟨rfl, fun _ _ _ => rfl⟩

theorem adcAt (h : d.SameAdc x) (n : Nat) : d.adcAt n = x.adcAt n := by
  obtain ⟨hadc, -⟩ := h
  rw [Dev.adcAt, hadc, Dev.adcAt]

theorem reg (h : d.SameAdc x) {a : Nat} (hlo : 0x40100000 ≤ a) (hhi : a < 0x40110000) : d.reg a = x.reg a := by
  obtain ⟨-, hreg⟩ := h
  exact hreg a hlo hhi

theorem get (h : d.SameAdc x) {f : Fld} (hlo : 0x40100000 ≤ f.addr) (hhi : f.addr < 0x40110000) : d.get f = x.get f :=
  congrArg (fieldGet · f.lo f.w) (h.reg hlo hhi)

/-! ## Updates -/

theorem beside (h : d.SameAdc x) (hr : e.regs = d.regs) (ha : e.adc = d.adc) : e.SameAdc x := by
  obtain ⟨hadc, hreg⟩ := h
  exact ⟨ha.trans hadc, fun a hlo hhi => by rw [Dev.reg, hr]; exact hreg a hlo hhi⟩

theorem setReg {a : Nat} {v : BitVec 64} (h : d.SameAdc x) (ha : a < 0x40100000 ∨ 0x40110000 ≤ a) :
    (d.setReg a v).SameAdc x := by
  obtain ⟨hadc, hreg⟩ := h
  exact ⟨hadc, fun b hlo hhi => (Dev.reg_setReg_ne d v (by omega)).trans (hreg b hlo hhi)⟩

/-- A field of a register above; the hypothesis is one that `rfl` shows. -/
theorem set {f : Fld} {v : Nat} (h : d.SameAdc x) (hf : Nat.ble 0x40110000 f.addr = true) : (d.set f v).SameAdc x :=
  h.setReg (.inr (Nat.le_of_ble_eq_true hf))

/-- A field of a numbered register above. -/
theorem setAt {a k lo w v : Nat} (h : d.SameAdc x) (ha : Nat.ble 0x40110000 a = true) : (d.set ⟨a + k, lo, w⟩ v).SameAdc x :=
  h.setReg (.inr (Nat.le_add_right_of_le (Nat.le_of_ble_eq_true ha)))

/-- A field of a register below. -/
theorem setLow {f : Fld} {v : Nat} (h : d.SameAdc x) (hf : Nat.blt f.addr 0x40100000 = true) : (d.set f v).SameAdc x :=
  h.setReg (.inl (Nat.le_of_ble_eq_true hf))

theorem setMode {g v : Nat} (h : d.SameAdc x) : (d.set (ascMode g) v).SameAdc x := by
  unfold ascMode
  split <;> exact .set h rfl

theorem foUpd {n : Nat} {f : Fo → Fo} (h : d.SameAdc x) : (d.foUpd n f).SameAdc x := h.beside rfl rfl
theorem gchUpd {n : Nat} {f : Gch → Gch} (h : d.SameAdc x) : (d.gchUpd n f).SameAdc x := h.beside rfl rfl
theorem carUpd {n : Nat} {f : Car → Car} (h : d.SameAdc x) : (d.carUpd n f).SameAdc x := h.beside rfl rfl
theorem cluUpd {n : Nat} {f : Clu → Clu} (h : d.SameAdc x) : (d.cluUpd n f).SameAdc x := h.beside rfl rfl
theorem posUpd {n : Nat} {f : Pos → Pos} (h : d.SameAdc x) : (d.posUpd n f).SameAdc x := h.beside rfl rfl
theorem tgrpUpd {n : Nat} {f : ThmGrp → ThmGrp} (h : d.SameAdc x) : (d.tgrpUpd n f).SameAdc x := h.beside rfl rfl

/-! ## Control -/

theorem ite {c : Prop} [Decidable c] (h : d.SameAdc x) (h' : e.SameAdc x) : (if c then d else e).SameAdc x := by
  split <;> assumption

theorem when {c : Bool} {f : Dev → Dev} (h : d.SameAdc x) (hf : ∀ {d}, d.SameAdc x → (f d).SameAdc x) :
    (d.when c f).SameAdc x :=
  .ite (hf h) h

theorem eachOf {α : Type} {l : List α} {f : α → Dev → Dev} (h : d.SameAdc x)
    (hf : ∀ {i d}, i ∈ l → d.SameAdc x → (f i d).SameAdc x) : (d.eachOf l f).SameAdc x :=
  kept_eachOf (P := fun d => d.SameAdc x) h hf

theorem each {n : Nat} {f : Nat → Dev → Dev} (h : d.SameAdc x) (hf : ∀ {i d}, i < n → d.SameAdc x → (f i d).SameAdc x) :
    (d.each n f).SameAdc x :=
  kept_each (P := fun d => d.SameAdc x) h hf

/-! ## The clock controller, events and the journal -/

theorem pllEval {p : Nat} (h : d.SameAdc x) : (d.pllEval p).SameAdc x := by
  obtain hsame | ⟨v, -, -, hset⟩ := d.pllEval_cases p
  · rwa [hsame]
  · rw [hset]
    exact h.setReg (.inl (by rw [pllFld_addr]; decide))

theorem clkEval (h : d.SameAdc x) : d.clkEval.SameAdc x := by
  unfold Dev.clkEval
  exact .each h fun _ h => .pllEval h

/-- No register of the converters is one that a raise writes. -/
theorem raiseFree_adc {a : Nat} (hlo : 0x40100000 ≤ a) (hhi : a < 0x40110000) : raiseFree a :=
  ⟨fun k hk => by simp only [A_EVR_STAMP]; omega, fun t j ht hj => by simp only [A_EVR_PEND]; omega,
    fun t ht => by simp only [A_EVR_CNT]; omega, fun c hc => by simp only [A_SPL_CHST, A_SPL_CHCNT]; omega,
    by simp only [A_SPL_STAT]; omega, by simp only [A_SPL_CNT]; omega, by simp only [A_SPL_TSTAMP]; omega⟩

theorem raise {k : Nat} (h : d.SameAdc x) (hk : k < 768) : (d.raise k).SameAdc x := by
  obtain ⟨hadc, hreg⟩ := h
  exact ⟨(Dev.raise_adc ..).trans hadc, fun a hlo hhi => (Dev.raise_reg _ hk (raiseFree_adc hlo hhi)).trans (hreg a hlo hhi)⟩

theorem trigCause {k : Nat} (h : d.SameAdc x) : (d.trigCause k).SameAdc x := by
  unfold Dev.trigCause
  exact .ite (.each h fun _ h => .ite (h.beside rfl rfl) h) h

theorem raiseIf {on : Bool} {k : Nat} (h : d.SameAdc x) (hk : k < 768) : (d.raiseIf on k).SameAdc x := by
  unfold Dev.raiseIf
  exact .ite (.raise h hk) (.trigCause h)

theorem raiseLim {k c T : Nat} (h : d.SameAdc x) (hk : k < 768) : (d.raiseLim k c T).SameAdc x := by
  unfold Dev.raiseLim
  exact .ite h (.raise (h.beside rfl rfl) hk)

theorem splFeed {typ : Nat} {sel : Nat → Nat → Bool} {r : List (BitVec 64)} (h : d.SameAdc x) :
    (d.splFeed typ sel r).SameAdc x := by
  obtain ⟨hadc, hreg⟩ := h
  refine ⟨(congrArg Dev.adc (d.splFeed_restS typ sel r) :).trans hadc, fun a hlo hhi => ?_⟩
  rw [Dev.splFeed_reg _ _ _ _ fun c hc => by simp only [A_SPL_CHCNT]; omega]
  exact hreg a hlo hhi

theorem jnlPut {fw : Bool} {e : JEntry} (h : d.SameAdc x) : (d.jnlPut fw e).SameAdc x := by
  unfold Dev.jnlPut
  have hjnl : ∀ {j : Jnl}, Dev.SameAdc { d with jnl := j } x := h.beside rfl rfl
  exact .ite (.raiseLim (.ite (.setLow hjnl rfl) (.setLow hjnl rfl)) (by decide)) (.setLow hjnl rfl)

theorem jnlThimble {src : Nat} (h : d.SameAdc x) : (d.jnlThimble src).SameAdc x := by
  unfold Dev.jnlThimble Dev.journal
  exact .jnlPut h

theorem jnlHem {src : Nat} (h : d.SameAdc x) : (d.jnlHem src).SameAdc x := by
  unfold Dev.jnlHem Dev.journal
  exact .jnlPut h

/-! ## Gate channels and carriers -/

theorem gateOff {n : Nat} (h : d.SameAdc x) : (d.gateOff n).SameAdc x := by
  unfold Dev.gateOff Dev.gateOffBy
  exact .ite (.setAt (.gchUpd h) rfl) h

theorem gateOnAt {n t : Nat} (h : d.SameAdc x) : (d.gateOnAt n t).SameAdc x := by
  unfold Dev.gateOnAt Dev.gateOnBy
  exact .ite h (.setAt (.gchUpd h) rfl)

theorem gchPut {n st : Nat} (h : d.SameAdc x) : (d.gchPut n st).SameAdc x := .setAt h rfl

theorem gchOff {n : Nat} (h : d.SameAdc x) : (d.gchOff n).SameAdc x := by
  unfold Dev.gchOff
  exact .gchPut (.gateOff h)

theorem driveEval {n : Nat} (h : d.SameAdc x) : (d.driveEval n).SameAdc x := by
  unfold Dev.driveEval
  exact .ite (.gchPut h) (.ite (.gchOff h) h)

theorem showAsc (h : d.SameAdc x) : d.showAsc.SameAdc x := by
  unfold Dev.showAsc
  refine .each h fun {n e} _ h => ?_
  have hfs : Nat.ble 0x40110000 (if n < 6 then GCH_ASC_SUSP0 else GCH_ASC_SUSP1).addr = true := by split <;> rfl
  have hfn : Nat.ble 0x40110000 (if n < 6 then GCH_ASC_NOON0 else GCH_ASC_NOON1).addr = true := by split <;> rfl
  extract_lets b fs fn d1 d2
  have h2 : d2.SameAdc x := .ite (.set (.setAt h rfl) hfs) (.set (.setAt h rfl) hfs)
  exact .ite (.set h2 hfn) (.set h2 hfn)

theorem ascSwitch {m n : Nat} (h : d.SameAdc x) : (d.ascSwitch m n).SameAdc x := by
  unfold Dev.ascSwitch
  exact .ite h (.ite (.ite (.gchPut (.gateOnAt h)) h) (.ite (.gchOff h) h))

theorem applySafe {g : Nat} (h : d.SameAdc x) : (d.applySafe g).SameAdc x := by
  unfold Dev.applySafe Dev.applySet
  exact .eachOf h fun _ h => .setMode (.eachOf (.eachOf (.showAsc h) fun _ h => .ascSwitch h) fun _ h => .ascSwitch h)

theorem carIdle {c : Nat} (h : d.SameAdc x) : (d.carIdle c).SameAdc x := by
  unfold Dev.carIdle
  exact .ite h (.each (.setAt (.carUpd h) rfl) fun _ h => .gchUpd h)

theorem carCmd {c k : Nat} {on : Bool} (h : d.SameAdc x) : (d.carCmd c k on).SameAdc x := by
  unfold Dev.carCmd Dev.carApply
  exact .ite (.carUpd h) (.ite (.carUpd (.carUpd h)) (.gchUpd (.carUpd (.carUpd h))))

/-! ## The brake, current-loop units and groups -/

theorem foPut {n st drive : Nat} (h : d.SameAdc x) : (d.foPut n st drive).SameAdc x := by
  unfold Dev.foPut
  exact .foUpd (.setAt (.setAt (.when h fun h => .setAt h rfl) rfl) rfl)

theorem brakeShow (h : d.SameAdc x) : d.brakeShow.SameAdc x := by
  unfold Dev.brakeShow Dev.brakeShow1
  exact .set (.foPut (.setAt (.foPut (.setAt h rfl)) rfl)) rfl

theorem brakeFor {g : Nat} (h : d.SameAdc x) : (d.brakeFor g).SameAdc x := by
  unfold Dev.brakeFor Dev.brakeApply
  exact .when h fun h => .when (.set (.set (.brakeShow (h.beside rfl rfl)) rfl) rfl) fun h => .raise h (by decide)

theorem cluPut1 {g st : Nat} (h : d.SameAdc x) (hg : g < 2) : (d.cluPut1 g st).SameAdc x := by
  unfold Dev.cluPut1
  extract_lets _ d1 d2
  have h1 : d1.SameAdc x := .raise (.setAt h rfl) (by omega)
  have h2 : d2.SameAdc x := .ite (.ite h1 (.setMode h1)) (.setAt (.carIdle h1) rfl)
  exact .ite h (.clkEval (.eachOf (.ite (.ite (.cluUpd h2) h2) (.setAt (.cluUpd h2) rfl)) fun _ h => .driveEval h))

theorem posStamp {p : Nat} (h : d.SameAdc x) : (d.posStamp p).SameAdc x :=
  .setReg h (by dsimp only [A_POS_TST]; omega)

theorem posSrc {p src off : Nat} (h : d.SameAdc x) (hk : 192 + 8 * p + off < 768) : (d.posSrc p src off).SameAdc x := by
  unfold Dev.posSrc
  exact .raise (.posStamp (.setAt h rfl)) hk

theorem alignAbort {g : Nat} (h : d.SameAdc x) : (d.alignAbort g).SameAdc x := by
  unfold Dev.alignAbort
  split
  · exact h
  next p hp =>
    have hlt : p < 4 := List.mem_range.mp (List.mem_of_find?_eq_some hp)
    exact .ite (.raise (.posSrc (.setAt (.posUpd h) rfl) (by omega)) (by omega)) h

theorem cluSafe {g : Nat} (h : d.SameAdc x) (hg : g < 2) : (d.cluSafe g).SameAdc x := by
  unfold Dev.cluSafe Dev.cluPut
  exact .ite (.eachOf (.alignAbort h) fun hx h => .cluPut1 h (Dev.mem_groups_lt hg hx)) h

theorem thmPut {g st : Nat} (h : d.SameAdc x) : (d.thmPut g st).SameAdc x := by
  unfold Dev.thmPut
  exact .ite h (.jnlThimble (.raise (.eachOf h fun _ h =>
    .ite (.setAt h rfl) (.tgrpUpd (.setAt (.setAt h rfl) rfl))) (by decide)))

theorem thmSafe {g : Nat} (h : d.SameAdc x) : (d.thmSafe g).SameAdc x := by
  unfold Dev.thmSafe
  exact .ite (.brakeFor (.thmPut h)) h

theorem groupSafe {g : Nat} {cmd : Bool} (h : d.SameAdc x) (hg : g < 2) : (d.groupSafe g cmd).SameAdc x := by
  unfold Dev.groupSafe
  exact .applySafe (.when (.cluSafe h hg) fun h => .thmSafe h)

theorem hemSafe {g : Nat} (h : d.SameAdc x) (hg : g < 2) : (d.hemSafe g).SameAdc x := by
  unfold Dev.hemSafe
  exact .groupSafe (.jnlHem (.raise h (by decide))) hg

/-! ## Position ports -/

/-- A port feeds one of the two groups. -/
theorem posGroup_lt {p g : Nat} (h : d.posGroup p = some g) : g < 2 := by
  unfold Dev.posGroup at h
  split at h <;> cases h <;> decide

theorem posShow {p : Nat} (h : d.SameAdc x) : (d.posShow p).SameAdc x :=
  .setReg (.setReg (.setReg h (by dsimp only [A_POS_POS]; omega)) (by dsimp only [A_POS_SPD]; omega))
    (by dsimp only [A_POS_ELEC]; omega)

theorem posShowValid {p : Nat} (h : d.SameAdc x) : (d.posShowValid p).SameAdc x := .setAt (.setAt h rfl) rfl

variable {p : Nat}

section
variable (hp : p < 4)
include hp

theorem posLost (h : d.SameAdc x) : (d.posLost p).SameAdc x := by
  unfold Dev.posLost
  extract_lets d1
  have h1 : d1.SameAdc x := .posSrc h (by omega)
  split
  next g hg => exact .hemSafe h1 (posGroup_lt hg)
  · exact h1

theorem slsEnter {off : Nat} (h : d.SameAdc x) (ho : off < 8) : (d.slsEnter p off).SameAdc x := by
  unfold Dev.slsEnter Dev.slsTake
  exact .posShow (.posSrc (.posUpd (.posUpd h)) (by omega))

theorem posFall (h : d.SameAdc x) : (d.posFall p).SameAdc x := by
  unfold Dev.posFall
  exact .ite h (.ite (.slsEnter hp h (by decide)) (.posLost hp h))

theorem posSensorFault (h : d.SameAdc x) : (d.posSensorFault p).SameAdc x := by
  unfold Dev.posSensorFault Dev.posUnindex
  exact .ite h (.posFall hp (.posShowValid (.posUpd (.setAt (.posUpd h) rfl))))

theorem posCause {bits : Nat} (h : d.SameAdc x) : (d.posCause p bits).SameAdc x := by
  unfold Dev.posCause
  exact .when (.posUpd (.setAt h rfl)) fun h => .raise h (by unfold posEv; omega)

theorem posBad {bits : Nat} (h : d.SameAdc x) : (d.posBad p bits).SameAdc x := by
  unfold Dev.posBad
  exact .when (.posUpd (.posCause hp (.setAt h rfl))) fun h => .posSensorFault hp h

theorem posTaken (h : d.SameAdc x) : (d.posTaken p).SameAdc x := by
  unfold Dev.posTaken Dev.posFaultEnd Dev.posImmediate
  exact .posShow (.posShowValid (.when (.when (.posStamp (.posUpd h)) fun h => .posSensorFault hp (.posCause hp h))
    fun h => .posUpd h))

theorem posReading {a : Int} (h : d.SameAdc x) : (d.posReading p a).SameAdc x := by
  unfold Dev.posReading Dev.obsStep
  exact .ite (.posTaken hp (.posUpd h)) (.ite (.posBad hp h) (.posTaken hp (.posUpd h)))

theorem pairDrop (h : d.SameAdc x) : (d.pairDrop p).SameAdc x := by
  unfold Dev.pairDrop
  exact .posBad hp (.setAt (.posUpd h) rfl)

theorem demod {rs rc : BitVec 64} (h : d.SameAdc x) : (d.demod p rs rc).SameAdc x := by
  unfold Dev.demod
  extract_lets _ _ _ d1
  have h1 : d1.SameAdc x := .posUpd h
  refine .ite (.pairDrop hp h) ?_
  split
  · exact .ite (.posBad hp (.setAt h1 rfl)) (.posReading hp (.setAt h1 rfl))
  · exact h1

end

theorem posExc {v : Int} (h : d.SameAdc x) : (d.posExc p v).SameAdc x := by
  unfold Dev.posExc
  exact .posUpd h

/-- The result of an ADC7 entry changes nothing of the converters. -/
theorem posSlot {k : Nat} {r : BitVec 64} (h : d.SameAdc x) : (d.posSlot k r).SameAdc x := by
  unfold Dev.posSlot
  refine .ite h (.each h fun {p e} hp h => .ite h ?_)
  extract_lets d1 d2 d3
  have h1 : d1.SameAdc x := .ite (.posExc h) h
  have h3 : d3.SameAdc x := .ite (.posUpd (.ite (.posUpd h1) h1)) (.ite (.posUpd h1) h1)
  refine .ite h1 ?_
  split
  · exact .demod (by omega) h3
  · exact h3

/-! ## Records and their consumers -/

theorem cluRecord {n : Nat} {r : BitVec 64} (h : d.SameAdc x) : (d.cluRecord n r).SameAdc x := by
  unfold Dev.cluRecord
  exact .ite (.cluUpd h) (.ite (.cluUpd h) h)

theorem coffRecord {c k : Nat} {r : BitVec 64} (h : d.SameAdc x) (hc : c < 2) : (d.coffRecord c k r).SameAdc x := by
  unfold Dev.coffRecord Dev.coffOff
  exact .ite (.raiseLim (.setAt (.eachOf (.carUpd h) fun _ h => .carCmd h) rfl) (by unfold pwmSrc; omega)) h

theorem udcTake {r : BitVec 64} (h : d.SameAdc x) : (d.udcTake r).SameAdc x := by
  unfold Dev.udcTake Dev.cluSats
  exact .ite (.each h fun _ h => .cluUpd (.setAt h rfl)) h

end Dev.SameAdc

end Sys2Proof.Machine
end

section
/-!
The sequencers of the pipeline converters (R80 to R90): what each operation shows of the converter it acts on.
-/
namespace Sys2Proof.Machine

theorem completes_onClk {c : Instr} {s : State} {p : Nat} {f : Dev → Dev} {R : State → Prop} (hc : exec c s = s.onClk p f)
    (h : s.clocked p) (hR : R { s with dev := f s.dev }) : Completes c s R := by
  obtain ⟨hpower, hclk⟩ := h
  exact ⟨_, hc.trans (by simp [State.onClk, hpower, hclk]), hR⟩

theorem completes_byReg {c : Instr} {s : State} {f : Dev → Dev} {R : State → Prop} (hc : exec c s = s.byReg f)
    (h : s.inUse) (hR : R { s with dev := f s.dev }) : Completes c s R := by
  obtain ⟨hclk, hact⟩ := h
  refine completes_onClk hc hclk ?_
  rwa [hact]

variable {d : Dev} {n : Nat}

/-! ## Fields of one register -/

theorem Dev.get_set_here {a lo w v : Nat} (h : lo + w ≤ 64) : (d.set ⟨a, lo, w⟩ v).get ⟨a, lo, w⟩ = v % 2 ^ w :=
  Dev.get_set_same d v h

theorem Dev.get_set_apart {a lo w lo' w' v : Nat} (h : lo' + w' ≤ lo ∨ lo + w ≤ lo') :
    (d.set ⟨a, lo, w⟩ v).get ⟨a, lo', w'⟩ = d.get ⟨a, lo', w'⟩ :=
  Dev.get_set_bits d v rfl h

/-! ## Multiplexer and entries -/

@[simp] theorem Dev.adcMux_get (i : Nat) (f : Fld) : (d.adcMux n i).get f = d.get f := rfl
@[simp] theorem Dev.adcMux_reg (i a : Nat) : (d.adcMux n i).reg a = d.reg a := rfl

@[simp] theorem Dev.adcMux_pub (i : Nat) : ((d.adcMux n i).adcAt n).pub = (d.adcAt n).pub := by
  rw [Dev.adcMux, Dev.adcAt_adcUpd_same]
  split <;> rfl

@[simp] theorem Dev.adcMux_urg (i : Nat) : ((d.adcMux n i).adcAt n).urg = (d.adcAt n).urg := by
  rw [Dev.adcMux, Dev.adcAt_adcUpd_same]
  split <;> rfl

@[simp] theorem Dev.adcEntry_adcAt (k : Nat) :
    (d.adcEntry n k).adcAt n = { d.adcAt n with restart := false, trig := false } := by
  rw [Dev.adcEntry, Dev.adcAt_adcUpd_same, Dev.set_adcAt, Dev.set_adcAt, Dev.set_adcAt]

@[simp] theorem Dev.adcEntry_state (k : Nat) : (d.adcEntry n k).get (ADC_STAT_STATE n) = 1 := by
  rw [Dev.adcEntry, Dev.adcUpd_get, Dev.get_set_apart (by decide), Dev.get_set_apart (by decide), Dev.get_set_here (by decide)]
  rfl

theorem Dev.adcEntry_entry {k : Nat} (hk : k < 64) : (d.adcEntry n k).get (ADC_STAT_ENTRY n) = k := by
  rw [Dev.adcEntry, Dev.adcUpd_get, Dev.get_set_apart (by decide), Dev.get_set_here (by decide)]
  exact Nat.mod_eq_of_lt hk

/-- An entry writes STAT of its converter. -/
theorem Dev.adcEntry_reg_ne {k a : Nat} (ha : a ≠ A_ADC_STAT n) : (d.adcEntry n k).reg a = d.reg a := by
  rw [Dev.adcEntry, Dev.adcUpd_reg, Dev.reg_set_ne _ _ ha, Dev.reg_set_ne _ _ ha, Dev.reg_set_ne _ _ ha]

theorem Dev.adcEntry_get_ne {k : Nat} {f : Fld} (hf : f.addr ≠ A_ADC_STAT n) : (d.adcEntry n k).get f = d.get f :=
  congrArg (fieldGet · f.lo f.w) (Dev.adcEntry_reg_ne hf)

/-! ## Apertures -/

/-- The record stands in LAST, and is counted if clipped or blanked. -/
def Dev.adcShown (d : Dev) (n : Nat) (r : BitVec 64) : Dev :=
  ((d.setReg (A_ADC_LAST n) r).when (r.getLsbD 20) (·.count (ADC_CNT_CLIP n))).when (r.getLsbD 22)
    (·.count (ADC_CNT2_BLANKED n))

theorem Dev.adcShown_reg_ne {a : Nat} (r : BitVec 64) (hl : a ≠ A_ADC_LAST n) (hc : a ≠ A_ADC_CNT n)
    (hb : a ≠ A_ADC_CNT2 n) :
    (d.adcShown n r).reg a = d.reg a := by
  unfold Dev.adcShown
  rw [Dev.when_keeps _ (·.reg a) (Dev.reg_count_ne _ hb), Dev.when_keeps _ (·.reg a) (Dev.reg_count_ne _ hc),
    Dev.reg_setReg_ne _ _ hl]

theorem Dev.adcShown_last (r : BitVec 64) : (d.adcShown n r).reg (A_ADC_LAST n) = r := by
  have hc : A_ADC_LAST n ≠ (ADC_CNT_CLIP n).addr := by simp [A_ADC_LAST]
  have hb : A_ADC_LAST n ≠ (ADC_CNT2_BLANKED n).addr := by simp [A_ADC_LAST]
  unfold Dev.adcShown
  rw [Dev.when_keeps _ (·.reg (A_ADC_LAST n)) (Dev.reg_count_ne _ hb),
    Dev.when_keeps _ (·.reg (A_ADC_LAST n)) (Dev.reg_count_ne _ hc), Dev.reg_setReg_same]

theorem Dev.adcShown_trigLate (r : BitVec 64) :
    (d.adcShown n r).get (ADC_CNT_TRIG_LATE n) = d.get (ADC_CNT_TRIG_LATE n) := by
  have hb : (ADC_CNT_TRIG_LATE n).addr ≠ (ADC_CNT2_BLANKED n).addr := by simp
  have hl : (ADC_CNT_TRIG_LATE n).addr ≠ A_ADC_LAST n := by simp [A_ADC_LAST]
  unfold Dev.adcShown
  rw [Dev.when_keeps _ (·.get (ADC_CNT_TRIG_LATE n)) (Dev.get_set_addr _ _ hb),
    Dev.when_keeps _ (·.get (ADC_CNT_TRIG_LATE n)) (Dev.get_set_apart (by simp)), Dev.get_setReg_ne _ _ hl]

/-- The consumers of a record act beside the converters. -/
theorem Dev.adcEmit_sameAdc (hn : n < 8) (r : BitVec 64) : (d.adcEmit n r).SameAdc (d.adcShown n r) := by
  unfold Dev.adcEmit
  refine .splFeed ?_
  split
  next h => exact .coffRecord (.cluRecord .refl) (by omega)
  · exact .cluRecord .refl

theorem Dev.adcEmit_get {a lo w : Nat} (hn : n < 8) (r : BitVec 64) (hlo : 0x40100000 ≤ a) (hhi : a < 0x40110000)
    (hl : a ≠ A_ADC_LAST n) (hc : a ≠ A_ADC_CNT n) (hb : a ≠ A_ADC_CNT2 n) :
    (d.adcEmit n r).get ⟨a, lo, w⟩ = d.get ⟨a, lo, w⟩ :=
  ((Dev.adcEmit_sameAdc hn r).get hlo hhi).trans (congrArg (fieldGet · lo w) (Dev.adcShown_reg_ne r hl hc hb))

theorem Dev.adcEmit_stat (hn : n < 8) (r : BitVec 64) {lo w : Nat} :
    (d.adcEmit n r).get ⟨A_ADC_STAT n, lo, w⟩ = d.get ⟨A_ADC_STAT n, lo, w⟩ := by
  apply Dev.adcEmit_get hn r <;> simp only [A_ADC_STAT, A_ADC_LAST, A_ADC_CNT, A_ADC_CNT2] <;> omega

theorem Dev.adcEmit_seq {k : Nat} (hn : n < 8) (hk : k < 64) (r : BitVec 64) {lo w : Nat} :
    (d.adcEmit n r).get ⟨A_ADC_SEQ n k, lo, w⟩ = d.get ⟨A_ADC_SEQ n k, lo, w⟩ := by
  apply Dev.adcEmit_get hn r <;> simp only [A_ADC_SEQ, A_ADC_LAST, A_ADC_CNT, A_ADC_CNT2] <;> omega

/-- A counted sample writes STAT of its converter. -/
theorem Dev.adcCount_reg_ne {a : Nat} (r : BitVec 64) (ha : a ≠ A_ADC_STAT n) : (d.adcCount n r).reg a = d.reg a :=
  Dev.reg_set_ne _ _ ha

theorem Dev.adcCount_get_ne {f : Fld} (r : BitVec 64) (hf : f.addr ≠ A_ADC_STAT n) : (d.adcCount n r).get f = d.get f :=
  congrArg (fieldGet · f.lo f.w) (Dev.adcCount_reg_ne r hf)

theorem Dev.adcCount_state (r : BitVec 64) : (d.adcCount n r).get (ADC_STAT_STATE n) = d.get (ADC_STAT_STATE n) := by
  rw [Dev.adcCount, Dev.adcUpd_get, Dev.get_set_apart (by decide)]

theorem Dev.adcCount_sample (r : BitVec 64) (h : d.get (ADC_STAT_SAMPLE n) + 1 < 2 ^ 16) :
    (d.adcCount n r).get (ADC_STAT_SAMPLE n) = d.get (ADC_STAT_SAMPLE n) + 1 := by
  rw [Dev.adcCount, Dev.adcUpd_get, Dev.get_set_here (by decide), Nat.mod_eq_of_lt h]

/-- In SAMPLING the current entry says how many samples count. -/
theorem Dev.adcWant_sampling (h : d.adcState n = 2) : d.adcWant n = d.get (ADC_SEQ_COUNT n (d.get (ADC_STAT_ENTRY n))) := by
  rw [Dev.adcWant, if_neg (by rw [h]; decide)]

/-- An aperture of a slot that samples, not blanked and still wanted, counts. -/
theorem Dev.adcAperture_counts (hn : n < 8) (v : Conv) (hst : d.adcState n = 2) (hblank : (d.adcAt n).blank = 0)
    (hwant : d.get (ADC_STAT_SAMPLE n) < d.adcWant n) :
    d.adcAperture n v = (d.adcEmit n (d.adcRecord n v)).adcCount n (d.adcRecord n v) := by
  have hst' (r : BitVec 64) : (d.adcEmit n r).adcState n = 2 := (Dev.adcEmit_stat hn r).trans hst
  have hwant' (r : BitVec 64) : (d.adcEmit n r).adcWant n = d.adcWant n := by
    rw [Dev.adcWant_sampling (hst' r), Dev.adcWant_sampling hst, Dev.adcEmit_stat hn r]
    exact Dev.adcEmit_seq hn (d.get_lt (ADC_STAT_ENTRY n)) r
  unfold Dev.adcAperture
  rw [if_neg (by rw [hst]; decide), if_neg (not_not_intro hblank),
    if_pos ⟨.inl hst, by rw [hwant', Dev.adcEmit_stat hn]; exact hwant⟩]

/-! ## The slot of an entry -/

theorem sampleRecord_counts (s : State) (n : Fin 8) (v : Conv) (hc : s.clocked 2) (hst : s.dev.adcState n = 2)
    (hblank : (s.dev.adcAt n).blank = 0) (hwant : s.dev.get (ADC_STAT_SAMPLE n) < s.dev.adcWant n) :
    Completes (.sampleRecord n v) s fun t => t.dev.reg (A_ADC_LAST n) = s.dev.adcRecord n v ∧
      t.dev.get (ADC_STAT_SAMPLE n) = s.dev.get (ADC_STAT_SAMPLE n) + 1 := by
  have hn := n.isLt
  refine completes_onClk (show exec _ _ = execSampleRecord n v s from rfl) hc ?_
  rw [Dev.adcAperture_counts hn v hst hblank hwant]
  constructor
  · rw [Dev.adcCount_reg_ne _ (by simp [A_ADC_LAST, A_ADC_STAT]),
      (Dev.adcEmit_sameAdc hn _).reg (by dsimp only [A_ADC_LAST]; omega) (by dsimp only [A_ADC_LAST]; omega), Dev.adcShown_last]
  · have hlt : s.dev.get (ADC_STAT_SAMPLE n) + 1 < 2 ^ 16 := by
      have hcount := s.dev.get_lt (ADC_SEQ_COUNT n (s.dev.get (ADC_STAT_ENTRY n)))
      rw [Dev.adcWant_sampling hst] at hwant
      exact Nat.lt_of_le_of_lt hwant hcount
    rw [Dev.adcCount_sample _ (by rwa [Dev.adcEmit_stat hn]), Dev.adcEmit_stat hn]

theorem slotTrigger_registers (s : State) (n : Fin 8) (k : Fin 4) (hc : s.clocked 2) (hst : s.dev.adcState n = 1)
    (hk : k.val ≠ 0) (htrig : s.dev.get (ADC_SEQ_TRIG n (s.dev.get (ADC_STAT_ENTRY n))) = k)
    (hrestart : (s.dev.adcAt n).restart = false) :
    Completes (.slotTrigger n k) s fun t => (t.dev.adcAt n).trig = true ∧ t.dev.regs = s.dev.regs := by
  refine completes_onClk (show exec _ _ = execSlotTrigger n k s from rfl) hc ?_
  rw [if_neg hk, Dev.adcTrig1, if_pos ⟨.inl hst, htrig, by rw [hrestart]; rfl⟩]
  exact ⟨by rw [Dev.adcAt_adcUpd_same], rfl⟩

/-- The waiting slot of converter `n` begins: it samples, with no sample counted yet. -/
def Dev.slotBegin (d : Dev) (n : Nat) : Dev :=
  ((d.set (ADC_STAT_STATE n) 2).set (ADC_STAT_SAMPLE n) 0).adcUpd n fun a => { a with restart := false }

theorem Dev.slotBegin_state : (d.slotBegin n).adcState n = 2 := by
  rw [Dev.adcState, Dev.slotBegin, Dev.adcUpd_get, Dev.get_set_apart (by decide), Dev.get_set_here (by decide)]
  rfl

theorem Dev.slotBegin_sample : (d.slotBegin n).get (ADC_STAT_SAMPLE n) = 0 := by
  rw [Dev.slotBegin, Dev.adcUpd_get, Dev.get_set_here (by decide)]
  rfl

theorem Dev.slotBegin_entry : (d.slotBegin n).get (ADC_STAT_ENTRY n) = d.get (ADC_STAT_ENTRY n) := by
  rw [Dev.slotBegin, Dev.adcUpd_get, Dev.get_set_apart (by decide), Dev.get_set_apart (by decide)]

theorem Dev.slotBegin_get {f : Fld} (hf : f.addr ≠ A_ADC_STAT n) : (d.slotBegin n).get f = d.get f := by
  rw [Dev.slotBegin, Dev.adcUpd_get, Dev.get_set_addr _ _ hf, Dev.get_set_addr _ _ hf]

theorem Dev.slotBegin_blank : ((d.slotBegin n).adcAt n).blank = (d.adcAt n).blank := by
  rw [Dev.slotBegin, Dev.adcAt_adcUpd_same, Dev.set_adcAt, Dev.set_adcAt]

/-- The entry of the slot that begins asks for samples if it did before. -/
theorem Dev.slotBegin_wants (h : d.get (ADC_SEQ_COUNT n (d.get (ADC_STAT_ENTRY n))) ≠ 0) :
    (d.slotBegin n).get (ADC_STAT_SAMPLE n) < (d.slotBegin n).adcWant n := by
  rw [Dev.slotBegin_sample, Dev.adcWant_sampling Dev.slotBegin_state, Dev.slotBegin_entry,
    Dev.slotBegin_get (by dsimp only [A_ADC_STAT]; omega)]
  exact Nat.pos_of_ne_zero h

theorem slotFirstAperture_begins (s : State) (n : Fin 8) (clocks : BitVec 32) (v : Conv) (hc : s.clocked 2)
    (hst : s.dev.adcState n = 1) (hblank : (s.dev.adcAt n).blank = 0) (htrig : (s.dev.adcAt n).trig = true)
    (hdue : s.dev.get (ADC_SEQ_DELAY n (s.dev.get (ADC_STAT_ENTRY n))) + 1 = clocks.toNat)
    (hcount : s.dev.get (ADC_SEQ_COUNT n (s.dev.get (ADC_STAT_ENTRY n))) ≠ 0) :
    Completes (.slotFirstAperture n clocks v) s fun t => t.dev.get (ADC_STAT_STATE n) = 2 ∧
      t.dev.get (ADC_STAT_SAMPLE n) = 1 ∧ t.dev.get (ADC_CNT_TRIG_LATE n) = s.dev.get (ADC_CNT_TRIG_LATE n) := by
  have hn := n.isLt
  have hcounts := Dev.adcAperture_counts hn v Dev.slotBegin_state (Dev.slotBegin_blank.trans hblank) (Dev.slotBegin_wants hcount)
  refine completes_onClk (show exec _ _ = execSlotFirstAperture n clocks v s from rfl) hc ?_
  have htrue : (!(s.dev.adcAt n).restart && decide (s.dev.get (ADC_SEQ_TRIG n (s.dev.get (ADC_STAT_ENTRY n))) ≠ 0) &&
      decide (s.dev.get (ADC_SEQ_DELAY n (s.dev.get (ADC_STAT_ENTRY n))) + 1 < clocks.toNat)) = false := by
    rw [hdue, decide_eq_false (Nat.lt_irrefl _), Bool.and_false]
  rw [if_neg (by rintro (h | h) <;> contradiction), if_neg (by rw [htrig, hdue]; simp), htrue, Dev.when_false]
  show ((s.dev.slotBegin n).adcAperture n v).get _ = _ ∧ ((s.dev.slotBegin n).adcAperture n v).get _ = _ ∧
    ((s.dev.slotBegin n).adcAperture n v).get _ = _
  rw [hcounts]
  refine ⟨?_, ?_, ?_⟩
  · rw [Dev.adcCount_state, Dev.adcEmit_stat hn]
    exact Dev.slotBegin_state
  · rw [Dev.adcCount_sample, Dev.adcEmit_stat hn, Dev.slotBegin_sample]
    rw [Dev.adcEmit_stat hn, Dev.slotBegin_sample]
    decide
  · rw [Dev.adcCount_get_ne _ (by dsimp only [A_ADC_STAT]; omega), (Dev.adcEmit_sameAdc hn _).get (by dsimp only; omega)
      (by dsimp only; omega), Dev.adcShown_trigLate, Dev.slotBegin_get (by dsimp only [A_ADC_STAT]; omega)]

/-! ## Results -/

theorem Quiet.adcUpd {P : Dev → Prop} {f : Adc → Adc} (hP : Quiet P) (h : P d) : P (d.adcUpd n f) := hP.beside h rfl rfl rfl

theorem Quiet.adcEntry {P : Dev → Prop} {k : Nat} (hP : Quiet P) (h : P d) : P (d.adcEntry n k) := by
  unfold Dev.adcEntry
  exact hP.adcUpd (hP.set (hP.set (hP.set h)))

/-- With no request queued, what was to become current does. -/
theorem Dev.adcNext_nil (next : Dev → Dev) (h : (d.adcAt n).queue = []) : d.adcNext n next = next d := by
  rw [Dev.adcNext, h]

theorem slotComplete_moves (s : State) (n : Fin 8) (hc : s.clocked 2) (hst : s.dev.adcState n = 2)
    (hdone : s.dev.adcWant n ≤ s.dev.get (ADC_STAT_SAMPLE n)) (hqueue : (s.dev.adcAt n).queue = [])
    (hlast : s.dev.bit (ADC_SEQ_LAST n (s.dev.get (ADC_STAT_ENTRY n))) = true) :
    Completes (.slotComplete n) s fun t => t.dev.get (ADC_STAT_STATE n) = 1 ∧ t.dev.get (ADC_STAT_ENTRY n) = 0 ∧
      Raised (adcSrc n 1) s t ∧ (t.dev.adcAt n).pub = (s.dev.adcAt n).pub ++
        [(s.dev.get (ADC_STAT_ENTRY n),
          s.dev.adcResult n (s.dev.get (ADC_SEQ_INPUT n (s.dev.get (ADC_STAT_ENTRY n)))) false)] := by
  have hn := n.isLt
  have hk : adcSrc n 1 < 768 := by unfold adcSrc; omega
  have hP := quiet_stamped s.dev.time hk
  refine completes_onClk (show exec _ _ = execSlotComplete n s from rfl) hc ?_
  rw [if_neg (by rintro (h | h) <;> omega)]
  extract_lets k r d1 last d2 d3
  have hlast : last = true := hlast
  have hd2 : d2 = d1.raise (adcSrc n 1) := by rw [show d2 = d1.when last (·.raise (adcSrc n 1)) from rfl, hlast]; rfl
  have hd3 : d3 = d2.adcEntry n 0 := by rw [show d3 = d2.adcEntry n (if last then 0 else k + 1) from rfl, hlast]; rfl
  have hat : d2.adcAt n = { s.dev.adcAt n with pub := (s.dev.adcAt n).pub ++ [(k, r)] } := by
    rw [hd2, Dev.raise_adcAt, Dev.adcAt_adcUpd_same]
  have hstamp : d3.stamped (adcSrc n 1) s.dev.time := by
    rw [hd3, hd2]
    exact hP.adcEntry (Dev.raise_stamped hk rfl)
  obtain ⟨-, hraised⟩ := hstamp
  rw [Dev.adcNext_nil _ (by rw [hd3, Dev.adcEntry_adcAt, hat]; exact hqueue)]
  refine ⟨?_, ?_, (Dev.adcMux_reg ..).trans hraised, ?_⟩
  · rw [Dev.adcMux_get, hd3, Dev.adcEntry_state]
  · rw [Dev.adcMux_get, hd3, Dev.adcEntry_entry (by decide)]
  · rw [Dev.adcMux_pub, hd3, Dev.adcEntry_adcAt, hat]

/-- What shows and consumes the oldest result acts beside the converters. -/
theorem Dev.publish_sameAdc {k : Nat} (hn : n < 8) (r : BitVec 64) :
    let e := d.when (r.getLsbD 20) (·.raise (adcSrc n 5))
    let e := e.raiseIf (e.bit (ADC_SEQ_EVT n k)) (adcSrc n 0)
    let e := if n = 6 ∧ r.toNat / 2 ^ 16 % 16 = 2 then e.udcTake r else e
    (if n = 7 then e.posSlot k r else e).SameAdc d := by
  have hsrc {j : Nat} (hj : j < 10) : adcSrc n j < 768 := by unfold adcSrc; omega
  intro e1 e2 e3
  have h2 : e2.SameAdc d := .raiseIf (.when .refl fun h => .raise h (hsrc (by decide))) (hsrc (by decide))
  have h3 : e3.SameAdc d := .ite (.udcTake h2) h2
  exact .ite (.posSlot h3) h3

theorem slotResultPublish_shows (s : State) (n : Fin 8) (k : Fin 64) (r : BitVec 64) (q : List (Nat × BitVec 64))
    (hc : s.clocked 2) (hpub : (s.dev.adcAt n).pub = (k.val, r) :: q) :
    Completes (.slotResultPublish n) s fun t => t.dev.reg (A_ADC_RES n k) = r ∧ (t.dev.adcAt n).pub = q := by
  have hn := n.isLt
  have hk := k.isLt
  refine completes_onClk (show exec _ _ = execSlotResultPublish n s from rfl) hc ?_
  rw [hpub]
  have hsame := Dev.publish_sameAdc (k := k)
    (d := (s.dev.adcUpd n fun a => { a with pub := q }).setReg (A_ADC_RES n k) r) hn r
  constructor
  · refine (hsame.reg (by simp only [A_ADC_RES]; omega) (by simp only [A_ADC_RES]; omega)).trans ?_
    rw [Dev.reg_setReg_same]
  · refine (congrArg Adc.pub (hsame.adcAt n)).trans ?_
    rw [Dev.setReg_adcAt, Dev.adcAt_adcUpd_same]

/-! ## Urgent slots -/

theorem Dev.urgBegin_state (who i c : Nat) : (d.urgBegin n who i c).get (ADC_STAT_STATE n) = 3 := by
  rw [Dev.urgBegin, Dev.adcMux_get, Dev.adcUpd_get, Dev.get_set_apart (by decide), Dev.get_set_here (by decide)]
  rfl

theorem Dev.urgBegin_sample (who i c : Nat) : (d.urgBegin n who i c).get (ADC_STAT_SAMPLE n) = 0 := by
  rw [Dev.urgBegin, Dev.adcMux_get, Dev.adcUpd_get, Dev.get_set_here (by decide)]
  rfl

theorem Dev.urgBegin_urg (who i c : Nat) : ((d.urgBegin n who i c).adcAt n).urg = some (who, i, c) := by
  rw [Dev.urgBegin, Dev.adcMux_urg, Dev.adcAt_adcUpd_same]

theorem urgentRequest_begins (s : State) (n : Fin 8) (count : BitVec 8) (i : BitVec 4) (hc : s.inUse)
    (hst : s.dev.adcState n = 1) (hcount : count.toNat ≠ 0) (hconn : adcConn n i.toNat = true)
    (hqueue : (s.dev.adcAt n).queue = []) (hfeeds : 6 ≤ n.val ∨ s.dev.adcFeeds n = false) (hclk : s.dev.clk 2 = true) :
    Completes (.urgentRequest n count i) s fun t => t.dev.get (ADC_STAT_STATE n) = 3 ∧
      t.dev.get (ADC_STAT_SAMPLE n) = 0 ∧ (t.dev.adcAt n).urg = some (0, i.toNat, count.toNat) := by
  refine completes_byReg (show exec _ _ = execUrgentRequest n count i s from rfl) hc ?_
  have hbegin : s.dev.urgWrite n i.toNat count.toNat = s.dev.urgBegin n 0 i.toNat count.toNat := by
    rw [Dev.urgWrite, hclk, if_neg (by simp), Dev.urgRequest, hst, hconn, hqueue, if_neg ?_, if_neg (by simp), if_neg (by simp)]
    · rfl
    · rintro (h | h | h | h | ⟨-, hlt, hf⟩)
      · cases h
      · cases h
      · exact hcount h
      · cases h
      · obtain h6 | hno := hfeeds
        · omega
        · rw [hno] at hf
          cases hf
  rw [hbegin]
  exact ⟨Dev.urgBegin_state .., Dev.urgBegin_sample .., Dev.urgBegin_urg ..⟩

/-- The result of an urgent slot of input `i` is written and shown, and the slot is over. -/
def Dev.urgShown (d : Dev) (n i : Nat) : Dev :=
  (((d.setReg (A_ADC_URGRES n) (d.adcResult n i true)).raise (adcSrc n 2)).when ((d.adcResult n i true).getLsbD 20)
    (·.raise (adcSrc n 5))).adcUpd n fun a => { a with urg := none }

theorem Dev.urgShown_adcAt (i : Nat) : (d.urgShown n i).adcAt n = { d.adcAt n with urg := none } := by
  rw [Dev.urgShown, Dev.adcAt_adcUpd_same, Dev.when_keeps _ (·.adcAt n) (Dev.raise_adcAt ..), Dev.raise_adcAt, Dev.setReg_adcAt]

theorem Dev.urgShown_result (hn : n < 8) (i : Nat) : (d.urgShown n i).reg (A_ADC_URGRES n) = d.adcResult n i true := by
  have hsrc {j : Nat} (hj : j < 10) : adcSrc n j < 768 := by unfold adcSrc; omega
  have hfree : raiseFree (A_ADC_URGRES n) :=
    Dev.SameAdc.raiseFree_adc (by dsimp only [A_ADC_URGRES]; omega) (by dsimp only [A_ADC_URGRES]; omega)
  rw [Dev.urgShown, Dev.adcUpd_reg, Dev.when_keeps _ (·.reg (A_ADC_URGRES n)) (Dev.raise_reg _ (hsrc (by decide)) hfree),
    Dev.raise_reg _ (hsrc (by decide)) hfree, Dev.reg_setReg_same]

theorem Dev.urgShown_stamped (hn : n < 8) (i : Nat) : (d.urgShown n i).stamped (adcSrc n 2) d.time := by
  have hsrc {j : Nat} (hj : j < 10) : adcSrc n j < 768 := by unfold adcSrc; omega
  have hP := quiet_stamped d.time (hsrc (j := 2) (by decide))
  have htime : (d.setReg (A_ADC_URGRES n) (d.adcResult n i true)).time = d.time := Dev.setReg_time ..
  rw [Dev.urgShown]
  exact hP.adcUpd (kept_when (P := Dev.stamped (adcSrc n 2) d.time) (Dev.raise_stamped (hsrc (by decide)) htime)
    fun h => hP.raise h (hsrc (by decide)))

/-- The interrupted slot of converter `n` becomes current again. -/
def Dev.urgReturn (d : Dev) (n : Nat) : Dev :=
  let d := (d.set (ADC_STAT_STATE n) 1).set (ADC_STAT_SAMPLE n) 0
  d.adcMux n (d.get (ADC_SEQ_INPUT n (d.get (ADC_STAT_ENTRY n))))

theorem Dev.urgReturn_reg_ne {a : Nat} (ha : a ≠ A_ADC_STAT n) : (d.urgReturn n).reg a = d.reg a := by
  rw [Dev.urgReturn, Dev.adcMux_reg, Dev.reg_set_ne _ _ ha, Dev.reg_set_ne _ _ ha]

theorem Dev.urgReturn_state : (d.urgReturn n).get (ADC_STAT_STATE n) = 1 := by
  rw [Dev.urgReturn, Dev.adcMux_get, Dev.get_set_apart (by decide), Dev.get_set_here (by decide)]
  rfl

theorem Dev.urgReturn_urg : ((d.urgReturn n).adcAt n).urg = (d.adcAt n).urg := by
  rw [Dev.urgReturn, Dev.adcMux_urg, Dev.set_adcAt, Dev.set_adcAt]

theorem urgentSlotComplete_returns (s : State) (n : Fin 8) (i c : Nat) (hc : s.clocked 2)
    (hurg : (s.dev.adcAt n).urg = some (0, i, c)) (hst : s.dev.adcState n = 3) (hdone : c ≤ s.dev.get (ADC_STAT_SAMPLE n))
    (hqueue : (s.dev.adcAt n).queue = []) :
    Completes (.urgentSlotComplete n) s fun t => t.dev.reg (A_ADC_URGRES n) = s.dev.adcResult n i true ∧
      t.dev.get (ADC_STAT_STATE n) = 1 ∧ (t.dev.adcAt n).urg = none ∧ Raised (adcSrc n 2) s t := by
  have hn := n.isLt
  have hnext : (s.dev.urgShown n i).adcNext n (·.urgReturn n) = (s.dev.urgShown n i).urgReturn n :=
    Dev.adcNext_nil _ (by rw [Dev.urgShown_adcAt]; exact hqueue)
  obtain ⟨-, hraised⟩ := Dev.urgShown_stamped hn (d := s.dev) i
  refine completes_onClk (show exec _ _ = execUrgentSlotComplete n s from rfl) hc ?_
  rw [hurg]
  dsimp only
  rw [if_neg (by rintro (h | h) <;> omega), if_neg (by simp)]
  refine Eq.substr (p := fun e : Dev => e.reg (A_ADC_URGRES n) = _ ∧ e.get (ADC_STAT_STATE n) = 1 ∧ (e.adcAt n).urg = none ∧
    e.reg (A_EVR_STAMP (adcSrc n 2)) = _) hnext ⟨?_, Dev.urgReturn_state, ?_, ?_⟩
  · rw [Dev.urgReturn_reg_ne (by simp [A_ADC_URGRES, A_ADC_STAT]), Dev.urgShown_result hn]
  · rw [Dev.urgReturn_urg, Dev.urgShown_adcAt]
  · rw [Dev.urgReturn_reg_ne (by simp only [A_EVR_STAMP, A_ADC_STAT, adcSrc]; omega), hraised]

/-! ## Sequences -/

/-- The clock controller acts beside the converters. -/
theorem Dev.clkEval_sameAdc : d.clkEval.SameAdc d := .clkEval .refl

theorem adcRunStart_starts (s : State) (n : Fin 8) (hc : s.inUse) (hrun : s.dev.get (ADC_CTL_RUN n) = 0)
    (hseq : s.dev.adcSeqOk n = true) (hst : s.dev.adcState n = 0) (href : s.dev.refReady = true) :
    Completes (.adcRunStart n) s fun t => t.dev.get (ADC_CTL_RUN n) = 1 ∧ t.dev.get (ADC_STAT_STATE n) = 1 ∧
      t.dev.get (ADC_STAT_ENTRY n) = 0 := by
  have hn := n.isLt
  have hact : s.dev.active = true := by
    obtain ⟨-, h⟩ := hc
    exact h
  have hsame : ((s.dev.set (ADC_CTL_RUN n) 1).clkEval).SameAdc (s.dev.set (ADC_CTL_RUN n) 1) := Dev.clkEval_sameAdc
  have hst' : ((s.dev.set (ADC_CTL_RUN n) 1).clkEval).adcState n = 0 := by
    rw [Dev.adcState, hsame.get (by dsimp only; omega) (by dsimp only; omega), Dev.get_set_addr _ _ (by simp)]
    exact hst
  have href' : ((s.dev.set (ADC_CTL_RUN n) 1).clkEval).refReady = true := by
    rw [Dev.refReady, hsame.get (by decide) (by decide), Dev.get_set_addr _ _ (by dsimp only; omega)]
    exact href
  have hstart : s.dev.adcRun n = ((s.dev.set (ADC_CTL_RUN n) 1).clkEval).adcStart n := by
    rw [Dev.adcRun, if_neg (by simp [Dev.bit, hrun, hact]), if_neg (by simp [hseq]), if_pos ⟨hst', href'⟩]
  refine completes_byReg (show exec _ _ = execAdcRunStart n s from rfl) hc ?_
  rw [hstart]
  refine ⟨?_, ?_, ?_⟩
  · rw [Dev.adcStart, Dev.adcCurrent, Dev.adcMux_get, Dev.adcEntry_get_ne (by simp [A_ADC_STAT]), Dev.adcUpd_get,
      hsame.get (by dsimp only; omega) (by dsimp only; omega), Dev.get_set_here (by decide)]
    rfl
  · rw [Dev.adcStart, Dev.adcCurrent, Dev.adcMux_get, Dev.adcEntry_state]
  · rw [Dev.adcStart, Dev.adcCurrent, Dev.adcMux_get, Dev.adcEntry_entry (by decide)]

theorem adcRunStop_stops (s : State) (n : Fin 8) (hc : s.inUse) (hrun : s.dev.get (ADC_CTL_RUN n) = 1)
    (hst : s.dev.adcState n = 1 ∨ s.dev.adcState n = 2) (hfeeds : s.dev.adcFeeds n = false) :
    Completes (.adcRunStop n) s fun t => t.dev.get (ADC_CTL_RUN n) = 0 ∧ t.dev.get (ADC_STAT_STATE n) = 0 ∧
      t.dev.get (ADC_STAT_URGQ n) = 0 := by
  have hn := n.isLt
  refine completes_byReg (show exec _ _ = execAdcRunStop n s from rfl) hc ?_
  rw [Dev.adcStop, if_neg (by simp [Dev.bit, hrun]), if_neg (by rcases hst with h | h <;> simp [h]), if_neg (by simp [hfeeds])]
  extract_lets d1 d2
  have hsame := Dev.clkEval_sameAdc (d := (d2.set (ADC_STAT_SAMPLE n) 0).adcUpd n fun a => { pub := a.pub })
  have hstat : A_ADC_STAT n < 0x40110000 := by dsimp only [A_ADC_STAT]; omega
  refine ⟨?_, ?_, ?_⟩
  · rw [hsame.get (by dsimp only; omega) (by dsimp only; omega), Dev.adcUpd_get, Dev.get_set_addr _ _ (by simp),
      Dev.get_set_addr _ _ (by simp), Dev.get_set_addr _ _ (by simp), Dev.get_set_here (by decide)]
    rfl
  · rw [hsame.get (by dsimp only; omega) hstat, Dev.adcUpd_get, Dev.get_set_apart (by decide), Dev.get_set_apart (by decide),
      Dev.get_set_here (by decide)]
    rfl
  · rw [hsame.get (by dsimp only; omega) hstat, Dev.adcUpd_get, Dev.get_set_apart (by decide), Dev.get_set_here (by decide)]
    rfl

/-- Settles O20: an operation of a sequencer shows on its own converter, and what it sets off acts beside the converters. -/
theorem convertersComplete : Obligations.ConvertersComplete := by
  unfold Obligations.ConvertersComplete
  exact ⟨sampleRecord_counts, slotTrigger_registers, slotFirstAperture_begins, slotComplete_moves, slotResultPublish_shows,
    urgentRequest_begins, urgentSlotComplete_returns, adcRunStart_starts, adcRunStop_stops⟩

end Sys2Proof.Machine
end

section
/-!
The disagreement of a port's sensor with its estimate (R118): the estimate compared is that of now, extrapolated from the swap
that published it (R116), and not the angle as it was published.
-/
namespace Sys2Proof.Machine

/-- The electrical angle of port `p`'s sensor now (R113, R114). -/
def Dev.sensedAngle (d : Dev) (p : Nat) : Int :=
  fracQ (near (d.posPP p * d.obsAt p d.mono) (d.posRpp p) + (d.reg (A_POS_OFF p)).toInt)

/-- The electrical angle that the estimate of port `p` gives now: the published one has gone on by the published speed (R116). -/
def Dev.estimatedAngle (d : Dev) (p : Nat) : Int :=
  let w := 2 * d.get (POS_SLS_EST_IDX p)
  fracQ (d.outQ w + near (d.posPP p * d.outQ (w + 1) * ((d.mono : Int) - (d.posAt p).estAt)) 1000000000)

/-- Sensor and estimate of port `p` differ now by no more than AGREE_TOL. -/
abbrev Dev.anglesAgree (d : Dev) (p : Nat) : Prop :=
  ((wrapQ (d.sensedAngle p - d.estimatedAngle p)).natAbs : Int) ≤ (d.get (POS_SLS_AGREE_TOL p) : Int) * 2 ^ 16

theorem disagree_of_anglesAgree {s : State} {p : Fin 4} (h : s.dev.anglesAgree p) : exec (.disagree p) s = .next s := by
  have htol : ¬ (s.dev.get (POS_SLS_AGREE_TOL p) : Int) * 2 ^ 16 <
      (wrapQ (s.dev.sensedAngle p - s.dev.estimatedAngle p)).natAbs := not_lt.mpr h
  simp only [Dev.sensedAngle, Dev.estimatedAngle] at htol
  show execDisagree p s = _
  simp only [execDisagree, State.main, decide_eq_false htol, Bool.and_false, Bool.false_eq_true, if_false, ite_self]

/-- The swap 15.625 µs ago published angle 0 and 500 rev/s for port 0, whose sensor has come from angle 0 at the same speed and
stands at 1/128 turn now. The tolerance is 1/256 turn, and SLS_MIN is 10 rev/s. -/
def turningTogether : State :=
  { dev := ({ mono := 15625 } : Dev)
      |>.set (CEN_AGE_AGE 0 0) 0 |>.set (CEN_AGE_AGE 0 1) 0 |>.setReg (A_CEN_OUT 1) (qBits (500 * 2 ^ 32))
      |>.set (POS_SLS_SLS_MIN 0) 1000 |>.set (POS_SLS_AGREE_TOL 0) 256
      |>.posUpd 0 fun r => { r with init := true, theta := 2 ^ 25, omega := 500 * 2 ^ 32, tk := 15625, estAt := 0 } }

theorem turningTogether_anglesAgree : turningTogether.dev.anglesAgree (0 : Fin 4) := by decide +kernel

theorem turningTogether_disagree : exec (.disagree 0) turningTogether = .next turningTogether :=
  disagree_of_anglesAgree turningTogether_anglesAgree

/-- Refutes O22: the clause on DISAGREE compares the sensor with the angle as it was published. In `turningTogether` these are 1/128
turn apart, twice the tolerance, but sensor and estimate have turned together and agree, and nothing is flagged. -/
theorem not_positionCommandsComplete : ¬ Obligations.PositionCommandsComplete := by
  unfold Obligations.PositionCommandsComplete
  rintro ⟨-, -, -, -, -, -, -, -, -, -, -, -, -, -, -, hdisagree, -⟩
  obtain ⟨t, ht, hflagged, -⟩ := hdisagree turningTogether 0 (by decide +kernel) (by decide +kernel) (by decide +kernel)
    (by decide +kernel) (by decide +kernel) (by decide +kernel)
  have hsame : turningTogether = t := Host.Outcome.next.inj (turningTogether_disagree.symm.trans ht)
  have hunflagged : turningTogether.dev.get (POS_FLT_DISAGREE 0) = 0 := by decide +kernel
  rw [hsame] at hunflagged
  exact absurd (hunflagged.symm.trans hflagged) (by decide)

end Sys2Proof.Machine
end

section
/-!
The update of a current-loop unit whose carrier is frozen (R162): a frozen carrier has no updates, so the currents kept for the
comparison of the period stay those of the update before.
-/
namespace Sys2Proof.Machine

/-- A frozen carrier has no updates (R162). -/
theorem currentLoopUpdate_of_frozen {s : State} {g : Fin 2} (tm : BitVec 64) (bad : BitVec 2)
    (h : s.dev.bit (PWM_STAT_FROZEN g) = true) : exec (.currentLoopUpdate g tm bad) s = .next s := by
  show execCurrentLoopUpdate g tm bad s = _
  simp only [execCurrentLoopUpdate, State.onClk, h, or_true, if_true, ite_self]

/-- CLU0 is in RUN with a fresh UDC and with PLL B locked, and the next mark of CAR0 is a peak. A debug freeze holds CAR0 (R163).
The unit's last update gave phase currents, and it keeps none for the peak. -/
def frozenBeforePeak : State :=
  { dev := ({ car := [(0, { peakNext := true })], clu := [(0, { udcAt := some 0, iNow := [q1, -q1, 0] })] } : Dev)
      |>.set SYS_CLKSTAT_PLLB_ST 2 |>.set (CLU_STAT_STATE 0) 3 |>.set (PWM_STAT_MODE 0) 1
      |>.set PWM_FRZ_FROZEN 1 |>.set (PWM_STAT_FROZEN 0) 1 }

/-- Refutes O23: the clause on CURRENT_LOOP_UPDATE at a peak does not ask that the carrier is not frozen. In `frozenBeforePeak` it is,
the update changes nothing (R162), and the unit in RUN has not kept its currents. -/
theorem not_currentLoopsComplete : ¬ Obligations.CurrentLoopsComplete := by
  unfold Obligations.CurrentLoopsComplete
  rintro ⟨-, -, -, -, -, hupdate⟩
  obtain ⟨t, ht, hkept, -⟩ := hupdate frozenBeforePeak 0 30000 (by decide) (by decide) (by decide) (by decide) (by decide)
    (by decide)
  have hsame : frozenBeforePeak = t :=
    Host.Outcome.next.inj ((currentLoopUpdate_of_frozen 30000 0 (by decide)).symm.trans ht)
  subst hsame
  exact absurd (hkept (by decide)) (by decide)

end Sys2Proof.Machine
end

section
/-!
The marks of a six-phase group (R152): those of CAR1 fall on the same counter clocks as those of CAR0, so that a mark of CAR0 is one
of CAR1.
-/
namespace Sys2Proof.Machine

/-- CAR0 and CAR1 count for a six-phase group, and half a period after their last mark both are at a peak. -/
def sixPhaseAtPeak : State :=
  { dev := ({ mono := 25000, car := [(0, { peakNext := true }), (1, { peakNext := true })] } : Dev)
      |>.set (CLU_CTL_SIX 0) 1 |>.set (PWM_STAT_MODE 0) 1 |>.set (PWM_STAT_MODE 1) 1 }

theorem sixPhaseAtPeak_carrierMark {t : State} (h : exec (.carrierMark 0 0) sixPhaseAtPeak = .next t) :
    (t.dev.carAt 1).lastMark = 25000 := by
  have hpowered : sixPhaseAtPeak.dev.unpowered = false := by decide
  change execCarrierMark 0 0 sixPhaseAtPeak = .next t at h
  rw [execCarrierMark, State.main_powered _ hpowered] at h
  rw [← Host.Outcome.next.inj h]
  decide +kernel

/-- Refutes O54: the clause on CARRIER_MARK of carrier `c` lists the record of carrier `c` alone. In `sixPhaseAtPeak` the mark of CAR0
is CAR1's too (R152), and the instant of CAR1's last mark, which was 0, is that of this mark. -/
theorem not_driveFrames : ¬ Obligations.DriveFrames := by
  unfold Obligations.DriveFrames
  rintro ⟨-, -, -, -, -, -, hmark, -⟩
  obtain ⟨t, ht, hleaves⟩ := hmark sixPhaseAtPeak 0 0
  have hsame : t.dev.carAt 1 = sixPhaseAtPeak.dev.carAt 1 := hleaves (.car 1) (by decide +kernel)
  have hmarked := sixPhaseAtPeak_carrierMark ht
  rw [hsame] at hmarked
  exact absurd hmarked (by decide)

end Sys2Proof.Machine
end

section
/-!
The marks of a carrier that has not begun to count (R151): a CAR1 that waits for its PHASE shows its mode, but its first valley is
still to come, and no mark falls before it.
-/
namespace Sys2Proof.Machine

/-- A carrier whose start lies ahead raises no marks (R151). -/
theorem carrierMark_of_not_started {s : State} {c : Fin 3} (slack : BitVec 16)
    (h : s.dev.mono < (s.dev.carAt c).lastMark) : exec (.carrierMark c slack) s = .next s := by
  show execCarrierMark c slack s = _
  simp only [execCarrierMark, State.main, decide_eq_false (not_le.mpr h), Bool.and_false, Bool.not_false, true_or, or_true,
    if_true, ite_self]

/-- A committed set: every leg is high for the middle 53 % of its period. -/
def middleSet : List (Nat × Nat) := List.replicate 3 (75200, 84800)

/-- Both carriers start now, CAR1 8,000 counter clocks (20 µs) after CAR0's valley, and a set of compare values is committed to
CAR1. -/
def waitingForPhase : State :=
  { dev := (({} : Dev)
      |>.set SYS_CLKSTAT_PLLC_ST 2 |>.set (PWM_HALF_PHASE 1) 8000
      |>.carStart 0 |>.carStart 1 |>.carCommit 1 middleSet) }

theorem waitingForPhase_startsLater : waitingForPhase.dev.mono < (waitingForPhase.dev.carAt (1 : Fin 3)).lastMark := by
  decide +kernel

theorem waitingForPhase_committed : (waitingForPhase.dev.carAt (1 : Fin 2)).shadow = some middleSet := by decide +kernel

/-- Refutes O24: the clause on CARRIER_MARK does not ask that the carrier counts already. In `waitingForPhase` CAR1 shows MODE 1 with
its start 20 µs ahead (R151), so the command changes nothing and the committed set is not transferred. -/
theorem not_carriersComplete : ¬ Obligations.CarriersComplete := by
  unfold Obligations.CarriersComplete
  rintro ⟨hmark, -⟩
  obtain ⟨t, ht, -, -, -, htransferred, -⟩ := hmark waitingForPhase 1 11 middleSet (by decide +kernel) (by decide +kernel)
    (by decide +kernel) (.inr (by decide +kernel)) waitingForPhase_committed (by decide)
  have hsame : waitingForPhase = t :=
    Host.Outcome.next.inj ((carrierMark_of_not_started 11 waitingForPhase_startsLater).symm.trans ht)
  rw [← hsame, waitingForPhase_committed] at htransferred
  exact Option.some_ne_none _ htransferred

end Sys2Proof.Machine
end

section
/-!
The winding discharge and a frozen carrier (R159, R162): a frozen carrier keeps its switches as they are, and takes Thimble's
command only once it goes on.
-/
namespace Sys2Proof.Machine

/-- A frozen carrier does not enter constant off-time mode (R162). -/
theorem windingDischargeEngage_of_frozen {s : State} {g : Fin 2} (h : s.dev.bit (PWM_STAT_FROZEN g) = true) :
    exec (.windingDischargeEngage g) s = .next s := by
  show execWindingDischargeEngage g s = _
  simp only [execWindingDischargeEngage, State.main, h, true_or, or_true, if_true, ite_self]

/-- CAR0 runs while its unit is DISABLED, a debug halt of core 0 freezes the carriers (R163), and Thimble commands the winding
discharge of PG0. -/
def frozenAtDischarge : State :=
  { dev := (({ thm := { windGrp := some 0 } } : Dev)
      |>.set SYS_CLKSTAT_PLLC_ST 2 |>.set DBG_STAT_ACCESS 1 |>.set PWM_FRZ_PERMIT 1 |>.set PWM_FRZ_FRZ_EN 1
      |>.carStart 0 |>.debugHalt 0) }

theorem frozenAtDischarge_frozen : frozenAtDischarge.dev.bit (PWM_STAT_FROZEN (0 : Fin 2)) = true := by decide +kernel

/-- Refutes O25: the clause on WINDING_DISCHARGE_ENGAGE does not ask that the carrier is not frozen. In `frozenAtDischarge` it is, so
the command changes nothing (R162), and CAR0 is not in constant off-time mode. -/
theorem not_brakeAndDischargeComplete : ¬ Obligations.BrakeAndDischargeComplete := by
  unfold Obligations.BrakeAndDischargeComplete
  rintro ⟨-, -, -, -, -, -, hengage, -⟩
  have hcentred : frozenAtDischarge.dev.get (PWM_STAT_MODE (0 : Fin 2)) ≠ 3 := by decide +kernel
  obtain ⟨t, ht, hengaged, -⟩ := hengage frozenAtDischarge 0 (by decide +kernel) (by decide +kernel) hcentred
    (.inl (by decide +kernel))
  have hsame : frozenAtDischarge = t :=
    Host.Outcome.next.inj ((windingDischargeEngage_of_frozen frozenAtDischarge_frozen).symm.trans ht)
  rw [← hsame] at hengaged
  exact hcentred hengaged

end Sys2Proof.Machine
end

section
/-!
Desaturation while the gate is off (R177): the drain-source monitor acts only from the blanking time after an on-edge, and an ACTIVE
channel between two on-edges has its gate off.
-/
namespace Sys2Proof.Machine

/-- The drain-source monitor does not act while the gate is off (R177). -/
theorem desat_of_gate_off {s : State} {n : Fin 14} (h : (s.dev.gchAt n).gate = false) : exec (.desat n) s = .next s := by
  show execDesat n s = _
  simp only [execDesat, Dev.dsActs, h, State.always, Bool.false_and, Bool.false_eq_true, if_false]

/-- GCH0 is ACTIVE, linked and synchronised 1 ms after the start; its gate is off. -/
def activeGateOff : State :=
  { dev := ({ mono := ms1 } : Dev).gchUpd 0 (fun h => { h with powered := true, link := true, sync := true })
      |>.set (GCH_STAT_STATE 0) 2 }

/-- Refutes O26: the clause on DESAT does not ask that the gate is on. In `activeGateOff` it is off, so the drain-source monitor does
not act (R177) and GCH0 stays ACTIVE. -/
theorem not_gateFaultsComplete : ¬ Obligations.GateFaultsComplete := by
  unfold Obligations.GateFaultsComplete
  rintro ⟨-, hdesat, -⟩
  have hactive : activeGateOff.dev.get (GCH_STAT_STATE (0 : Fin 14)) = 2 := by decide +kernel
  obtain ⟨t, ht, hsoftoff, -⟩ := hdesat activeGateOff 0 (by decide +kernel) (by decide +kernel) (by decide +kernel)
    (by decide +kernel) hactive (by decide +kernel)
  have hsame : activeGateOff = t := Host.Outcome.next.inj ((desat_of_gate_off (by decide +kernel)).symm.trans ht)
  rw [← hsame, hactive] at hsoftoff
  exact absurd hsoftoff (by decide)

end Sys2Proof.Machine
end

section
/-!
GCH13's own run and the paths of the power channels (R193, R316): the run that starts costs a group in PERMIT a release condition, so
that both paths of its channels are removed; a power channel that shows a discharge run ends that of GCH13 then.
-/
namespace Sys2Proof.Machine

/-- The armed GCH13 is DISABLED and its link silent, PG0 is in PERMIT, and GCH0 shows a discharge run that Thimble commanded. -/
def strayRun : State :=
  { dev := ({ thm := { disRun := true } } : Dev).gchUpd 13 (fun h => { h with powered := true, armed := true })
      |>.set (GCH_STAT_STATE 13) 6 |>.set (GCH_STAT_STATE 0) 7 |>.set (THM_GRP_STATE 0) 1 }

/-- The command answers a state in which GCH13 is OFF. -/
theorem autonomousDischarge_strayRun {t : State} (h : exec .autonomousDischarge strayRun = .next t) :
    t.dev.get (GCH_STAT_STATE 13) = 1 := by
  obtain rfl := Host.Outcome.next.inj ((show exec _ _ = execAutonomousDischarge strayRun from rfl).symm.trans h)
  decide +kernel

/-- Refutes O28: the clause on AUTONOMOUS_DISCHARGE does not ask that no power channel shows a discharge run. In `strayRun` GCH0 does,
so that GCH13's own run, which takes PG0 out of PERMIT (R316), ends as the paths of GCH0 are removed. -/
theorem not_gateEnableAndDischargeComplete : ¬ Obligations.GateEnableAndDischargeComplete := by
  unfold Obligations.GateEnableAndDischargeComplete
  rintro ⟨-, -, -, -, -, -, -, hfires, -⟩
  obtain ⟨t, ht, hruns, -⟩ := hfires strayRun (by decide +kernel) (by decide +kernel) (by decide +kernel)
    (by decide +kernel) (by decide +kernel) (by decide +kernel)
  exact absurd ((autonomousDischarge_strayRun ht).symm.trans hruns) (by decide)

end Sys2Proof.Machine
end

section
/-!
What the operations of the safe states keep (R144, R186, R294, R315): properties of the gate channels, of Hem's registers and of
the registers that no safe state writes. One rule for each operation, for any such property.
-/
namespace Sys2Proof.Machine

/-- A register outside the blocks of the current loops, of the gate channels and of Hem. -/
def calmReg (a : Nat) : Prop :=
  a < 0x40300000 ∨ (0x40400000 ≤ a ∧ a < 0x40500000) ∨ (0x40510000 ≤ a ∧ a < 0x40800000) ∨ 0x40900000 ≤ a

/-- What GCH_ASC shows of the fault state and of the safe state of both sets. -/
def ascShown : List Fld :=
  [GCH_ASC_SUSP0, GCH_ASC_SUSP1, GCH_ASC_NOON0, GCH_ASC_NOON1, GCH_ASC_MODE0, GCH_ASC_MODE1]

/-- The update leaves what decides whether the channel may conduct. -/
def Gch.sameGate (f : Gch → Gch) : Prop := ∀ h, (f h).gate = h.gate ∧ (f h).link = h.link ∧ (f h).permit1 = h.permit1 ∧
  (f h).permit2 = h.permit2 ∧ (f h).running = h.running

/-- `P` looks at the gate channels and at registers of their block, of the current loops and of Hem, and holds on when a channel
follows its group or takes a safe-state command. -/
structure Calm (P : Dev → Prop) : Prop where
  beside : ∀ {d e : Dev}, P d → e.regs = d.regs → e.gch = d.gch → P e
  setReg : ∀ {d : Dev} {a : Nat} {v : BitVec 64}, P d → calmReg a → P (d.setReg a v)
  asc : ∀ {d : Dev} {f : Fld} {v : Nat}, P d → f ∈ ascShown → P (d.set f v)
  suspect : ∀ {d : Dev} {n : Nat} {b : Bool}, P d → P (d.setB (GCH_STAT_SUSPECT n) b)
  raise : ∀ {d : Dev} {k : Nat}, P d → k < 768 → P (d.raise k)
  gchUpd : ∀ {d : Dev} {n : Nat} {f : Gch → Gch}, P d → Gch.sameGate f → P (d.gchUpd n f)
  driveEval : ∀ {d : Dev} {n : Nat}, P d → P (d.driveEval n)
  ascSwitch : ∀ {d : Dev} {m n : Nat}, P d → P (d.ascSwitch m n)

/-- `P` does not look at the state of a current-loop unit either. -/
structure CalmLoops (P : Dev → Prop) : Prop extends Calm P where
  clu : ∀ {d : Dev} {f : Fld} {v g : Nat}, P d → f.addr = A_CLU_STAT g → P (d.set f v)

/-- `P` holds on as Hem's registers change and the paths of a channel are removed. -/
structure CalmCuts (P : Dev → Prop) : Prop extends CalmLoops P where
  hem : ∀ {d : Dev} {f : Fld} {v : Nat}, P d → f.addr = A_HEM_STAT → P (d.set f v)
  cutPaths : ∀ {d : Dev} {n : Nat}, P d → P (d.cutPaths n)

namespace Calm

variable {P : Dev → Prop} {d : Dev}

/-! ## Updates -/

theorem set (hP : Calm P) {f : Fld} {v : Nat} (h : P d) (hf : calmReg f.addr := by dsimp only [calmReg]; omega) : P (d.set f v) :=
  hP.setReg h hf

theorem foUpd (hP : Calm P) {n : Nat} {f : Fo → Fo} (h : P d) : P (d.foUpd n f) := hP.beside h rfl rfl
theorem carUpd (hP : Calm P) {n : Nat} {f : Car → Car} (h : P d) : P (d.carUpd n f) := hP.beside h rfl rfl
theorem cluUpd (hP : Calm P) {n : Nat} {f : Clu → Clu} (h : P d) : P (d.cluUpd n f) := hP.beside h rfl rfl
theorem posUpd (hP : Calm P) {n : Nat} {f : Pos → Pos} (h : P d) : P (d.posUpd n f) := hP.beside h rfl rfl
theorem tgrpUpd (hP : Calm P) {n : Nat} {f : ThmGrp → ThmGrp} (h : P d) : P (d.tgrpUpd n f) := hP.beside h rfl rfl
theorem axisUpd (hP : Calm P) {n : Nat} {f : Axis → Axis} (h : P d) : P (d.axisUpd n f) := hP.beside h rfl rfl

/-! ## Events and the journal -/

theorem raiseLim (hP : Calm P) {k c T : Nat} (h : P d) (hk : k < 768) : P (d.raiseLim k c T) := by
  unfold Dev.raiseLim
  exact iteInduction (fun _ => h) fun _ => hP.raise (hP.beside h rfl rfl) hk

theorem jnlPut (hP : Calm P) {fw : Bool} {e : JEntry} (h : P d) : P (d.jnlPut fw e) := by
  have hjnl : ∀ {j : Jnl}, P { d with jnl := j } := hP.beside h rfl rfl
  unfold Dev.jnlPut
  exact iteInduction (fun _ => hP.raiseLim (iteInduction (fun _ => hP.set hjnl) fun _ => hP.set hjnl) (by decide))
    fun _ => hP.set hjnl

theorem jnlThimble (hP : Calm P) {src : Nat} (h : P d) : P (d.jnlThimble src) := hP.jnlPut h
theorem jnlHem (hP : Calm P) {src : Nat} (h : P d) : P (d.jnlHem src) := hP.jnlPut h

theorem clkEval (hP : Calm P) (h : P d) : P d.clkEval := by
  unfold Dev.clkEval
  refine kept_each h fun {p e} _ h => ?_
  obtain hsame | ⟨v, -, -, hset⟩ := e.pllEval_cases p
  · rwa [hsame]
  · rw [hset]
    exact hP.set h (.inl (by rw [pllFld_addr]; decide))

/-! ## The side rule -/

theorem setMode (hP : Calm P) {g v : Nat} (h : P d) : P (d.set (ascMode g) v) := by
  unfold ascMode
  split <;> exact hP.asc h (by simp [ascShown])

theorem showAsc (hP : Calm P) (h : P d) : P d.showAsc := by
  unfold Dev.showAsc
  refine kept_each h fun {i e} _ h => ?_
  have hfs : (if i < 6 then GCH_ASC_SUSP0 else GCH_ASC_SUSP1) ∈ ascShown := by split <;> simp [ascShown]
  have hfn : (if i < 6 then GCH_ASC_NOON0 else GCH_ASC_NOON1) ∈ ascShown := by split <;> simp [ascShown]
  extract_lets b fs fn d1 d2
  have h2 : P d2 := iteInduction (fun _ => hP.asc (hP.suspect h) hfs) fun _ => hP.asc (hP.suspect h) hfs
  exact iteInduction (fun _ => hP.asc h2 hfn) fun _ => hP.asc h2 hfn

theorem applySet (hP : Calm P) {g : Nat} (h : P d) : P (d.applySet g) := by
  unfold Dev.applySet
  exact hP.setMode (kept_eachOf (kept_eachOf (hP.showAsc h) fun _ h => hP.ascSwitch h) fun _ h => hP.ascSwitch h)

theorem applySafe (hP : Calm P) {g : Nat} (h : P d) : P (d.applySafe g) := kept_eachOf h fun _ h => hP.applySet h

/-! ## Field outputs and axes -/

theorem foPut (hP : Calm P) {n st drive : Nat} (h : P d) : P (d.foPut n st drive) := by
  unfold Dev.foPut
  exact hP.foUpd (hP.set (hP.set (kept_when h fun h => hP.set h)))

theorem foHoldAll (hP : Calm P) (h : P d) : P d.foHoldAll := by
  unfold Dev.foHoldAll Dev.foHold
  refine kept_each h fun _ h => iteInduction (fun _ => h) fun _ => iteInduction ?_ fun _ => iteInduction ?_ fun _ => h
  · exact fun _ => iteInduction (fun _ => h) fun _ => hP.foPut h
  · exact fun _ => iteInduction (fun _ => hP.foPut h) fun _ => hP.foPut h

theorem blindShow (hP : Calm P) {n : Nat} (hn : n < 12) (h : P d) : P (d.blindShow n) := by
  unfold Dev.blindShow
  extract_lets blind d1
  have h1 : P d1 := kept_when h hP.axisUpd
  exact iteInduction (fun _ => h1) fun _ => hP.raise (hP.set h1) (by unfold stpSrc; omega)

theorem axPut (hP : Calm P) {n st : Nat} (hn : n < 12) (h : P d) : P (d.axPut n st) := by
  unfold Dev.axPut
  exact iteInduction (fun _ => h) fun _ => hP.clkEval (hP.raise (hP.set h) (by unfold stpSrc; omega))

theorem axHold (hP : Calm P) {n why : Nat} (hn : n < 12) (h : P d) : P (d.axHold n why) := by
  unfold Dev.axHold Dev.axHalt Dev.axBridgesOff
  extract_lets st d1 d2
  have h1 : P d1 := hP.axisUpd h
  have h2 : P d2 := iteInduction (fun _ => hP.set h1) fun _ => h1
  exact iteInduction (fun _ => hP.axPut hn (hP.axisUpd (hP.blindShow hn (hP.axisUpd (hP.set (hP.set h2)))))) fun _ => h1

theorem axUnhold (hP : Calm P) {n why : Nat} (hn : n < 12) (h : P d) : P (d.axUnhold n why) := by
  unfold Dev.axUnhold
  exact iteInduction (fun _ => hP.axPut hn (hP.axisUpd (hP.axisUpd h))) fun _ => hP.axisUpd h

/-! ## The brake and Thimble's group states -/

theorem brakeFor (hP : Calm P) {g : Nat} (h : P d) : P (d.brakeFor g) := by
  unfold Dev.brakeFor Dev.brakeApply Dev.brakeShow Dev.brakeShow1
  exact kept_when h fun h => kept_when
    (hP.set (hP.set (hP.set (hP.foPut (hP.set (hP.foPut (hP.set (hP.beside h rfl rfl)))))))) fun h => hP.raise h (by decide)

theorem thmPut (hP : Calm P) {g st : Nat} (h : P d) : P (d.thmPut g st) := by
  unfold Dev.thmPut
  refine iteInduction (fun _ => h) fun _ => hP.jnlThimble (hP.raise (kept_eachOf h fun _ h => ?_) (by decide))
  exact iteInduction (fun _ => hP.set h) fun _ => hP.tgrpUpd (hP.set (hP.set h))

theorem thmSafe (hP : Calm P) {g : Nat} (h : P d) : P (d.thmSafe g) := by
  unfold Dev.thmSafe
  exact iteInduction (fun _ => hP.brakeFor (hP.thmPut h)) fun _ => h

/-! ## Current-loop units -/

theorem carIdle (hP : Calm P) {c : Nat} (hc : c < 2) (h : P d) : P (d.carIdle c) := by
  unfold Dev.carIdle
  exact iteInduction (fun _ => h) fun _ => kept_each (hP.set (hP.carUpd h)) fun _ h =>
    hP.gchUpd h fun _ => ⟨rfl, rfl, rfl, rfl, rfl⟩

/-- A unit that enters a state writes its STATE, its SECTOR and VLIM. -/
theorem cluPut1_of (hP : Calm P) {g st : Nat} (hg : g < 2) (hsec : ∀ {e : Dev} {v : Nat}, P e → P (e.set (CLU_STAT_SECTOR g) v))
    (hlim : ∀ {e : Dev} {v : Nat}, P e → P (e.set (CLU_STAT_VLIM g) v)) (hsame : d.get (CLU_STAT_STATE g) = st → P d)
    (hput : d.get (CLU_STAT_STATE g) ≠ st → P (d.set (CLU_STAT_STATE g) st)) : P (d.cluPut1 g st) := by
  unfold Dev.cluPut1
  refine iteInduction hsame fun hne => ?_
  extract_lets d1 d2 d3
  have h1 : P d1 := hP.raise (hput hne) (by omega)
  have h2 : P d2 := iteInduction (fun _ => iteInduction (fun _ => h1) fun _ => hP.setMode h1) fun _ => hsec (hP.carIdle hg h1)
  have h3 : P d3 := iteInduction (fun _ => iteInduction (fun _ => hP.cluUpd h2) fun _ => h2) fun _ => hlim (hP.cluUpd h2)
  exact hP.clkEval (kept_eachOf h3 fun _ h => hP.driveEval h)

end Calm

namespace CalmLoops

variable {P : Dev → Prop} {d : Dev}

theorem cluPut1 (hP : CalmLoops P) {g st : Nat} (hg : g < 2) (h : P d) : P (d.cluPut1 g st) :=
  hP.cluPut1_of hg (fun h => hP.clu h rfl) (fun h => hP.clu h rfl) (fun _ => h) fun _ => hP.clu h rfl

theorem alignAbort (hP : CalmLoops P) {g : Nat} (h : P d) : P (d.alignAbort g) := by
  unfold Dev.alignAbort Dev.posSrc Dev.posStamp
  split
  · exact h
  · next p hp =>
    have hlt : p < 4 := List.mem_range.mp (List.mem_of_find?_eq_some hp)
    exact iteInduction (fun _ => hP.raise (hP.raise (hP.setReg (hP.set (hP.set (hP.posUpd h)))
      (.inl (by simp only [A_POS_TST]; omega))) (by omega)) (by omega)) fun _ => h

theorem cluSafe (hP : CalmLoops P) {g : Nat} (hg : g < 2) (h : P d) : P (d.cluSafe g) := by
  unfold Dev.cluSafe
  exact iteInduction (fun _ => kept_eachOf (hP.alignAbort h) fun hx h => hP.cluPut1 (Dev.mem_groups_lt hg hx) h) fun _ => h

theorem groupSafe (hP : CalmLoops P) {g : Nat} {cmd : Bool} (hg : g < 2) (h : P d) : P (d.groupSafe g cmd) :=
  hP.applySafe (kept_when (hP.cluSafe hg h) hP.thmSafe)

theorem hemSafe (hP : CalmLoops P) {g : Nat} (hg : g < 2) (h : P d) : P (d.hemSafe g) :=
  hP.groupSafe hg (hP.jnlHem (hP.raise h (by decide)))

end CalmLoops

end Sys2Proof.Machine
end

section
/-!
Hem's trips (R292, R293, R294): the safe-state command of the group, whose effects outlive what follows them.
-/
namespace Sys2Proof.Machine

/-! ## What is calm -/

section
variable (d : Dev) {a n : Nat}

theorem Dev.reg_gchOff_ne (h : a ≠ A_GCH_STAT n) : (d.gchOff n).reg a = d.reg a :=
  (Dev.reg_set_ne _ _ h).trans (d.reg_gateOff_ne h)

theorem Dev.reg_gateOnAt_ne {t : Nat} (h : a ≠ A_GCH_STAT n) : (d.gateOnAt n t).reg a = d.reg a := by
  unfold Dev.gateOnAt Dev.gateOnBy
  split
  · rfl
  · exact (Dev.reg_set_ne _ _ h).trans (Dev.gchUpd_reg ..)

theorem Dev.reg_driveEval_ne (h : a ≠ A_GCH_STAT n) : (d.driveEval n).reg a = d.reg a := by
  unfold Dev.driveEval
  extract_lets st
  split
  · exact Dev.reg_set_ne _ _ h
  · split
    · exact d.reg_gchOff_ne h
    · rfl

theorem Dev.reg_ascSwitch_ne {m : Nat} (h : a ≠ A_GCH_STAT n) : (d.ascSwitch m n).reg a = d.reg a := by
  unfold Dev.ascSwitch
  extract_lets st q
  split
  · rfl
  · split
    · split
      · exact (Dev.reg_set_ne _ _ h).trans (d.reg_gateOnAt_ne h)
      · rfl
    · split
      · exact d.reg_gchOff_ne h
      · rfl

end

section
variable (d : Dev) {n m : Nat}

theorem Dev.gchAt_gchOff_ne (h : n ≠ m) : (d.gchOff m).gchAt n = d.gchAt n := d.gchAt_gateOffBy_ne _ h

theorem Dev.gchAt_driveEval_ne (h : n ≠ m) : (d.driveEval m).gchAt n = d.gchAt n := by
  unfold Dev.driveEval
  extract_lets st
  split
  · rfl
  · split
    · exact d.gchAt_gchOff_ne h
    · rfl

theorem Dev.gchAt_ascSwitch_ne {k : Nat} (h : n ≠ m) : (d.ascSwitch k m).gchAt n = d.gchAt n := by
  unfold Dev.ascSwitch
  extract_lets st q
  split
  · rfl
  · split
    · split
      · exact d.gchAt_gateOnBy_ne _ _ h
      · rfl
    · split
      · exact d.gchAt_gchOff_ne h
      · rfl

/-- What no command of the gate changes: the link, both paths and whether a run of the half's own is on. -/
def Gch.wiring (h : Gch) : Bool × Bool × Bool × Bool := (h.link, h.permit1, h.permit2, h.running)

theorem Dev.wiring_gateOff : ((d.gateOff m).gchAt n).wiring = (d.gchAt n).wiring := by
  by_cases h : n = m
  · subst h
    unfold Dev.gateOff Dev.gateOffBy
    split
    · rw [Dev.set_gchAt, Dev.gchAt_gchUpd_same, Gch.wiring, Gch.wiring]
    · rfl
  · exact congrArg _ (d.gchAt_gateOffBy_ne _ h)

theorem Dev.wiring_gateOnAt {t : Nat} : ((d.gateOnAt m t).gchAt n).wiring = (d.gchAt n).wiring := by
  by_cases h : n = m
  · subst h
    unfold Dev.gateOnAt Dev.gateOnBy
    split
    · rfl
    · rw [Dev.set_gchAt, Dev.gchAt_gchUpd_same, Gch.wiring, Gch.wiring]
  · exact congrArg _ (d.gchAt_gateOnBy_ne _ _ h)

theorem Dev.wiring_driveEval : ((d.driveEval m).gchAt n).wiring = (d.gchAt n).wiring := by
  unfold Dev.driveEval
  extract_lets st
  split
  · rfl
  · split
    · exact d.wiring_gateOff
    · rfl

theorem Dev.wiring_ascSwitch {k : Nat} : ((d.ascSwitch k m).gchAt n).wiring = (d.gchAt n).wiring := by
  unfold Dev.ascSwitch
  extract_lets st q
  split
  · rfl
  · split
    · split
      · exact d.wiring_gateOnAt
      · rfl
    · split
      · exact d.wiring_gateOff
      · rfl

end

theorem raiseFree_of {a : Nat} (h : 0x40020000 ≤ a) (h' : a < 0x41408000) : raiseFree a := by
  simp only [raiseFree, A_EVR_STAMP, A_EVR_PEND, A_EVR_CNT, A_SPL_CHST, A_SPL_CHCNT, A_SPL_STAT, A_SPL_CNT, A_SPL_TSTAMP]
  exact ⟨by omega, by omega, by omega, by omega, by omega, by omega, by omega⟩

/-- A register of the current loops, of the gate channels or of Hem that is no channel's, as far as GCH_ASC shows no other bits
than the property looks at. -/
theorem calm_reg {a : Nat} (R : BitVec 64 → Prop) (ha : ¬ calmReg a) (hstat : ∀ n, a ≠ A_GCH_STAT n)
    (hasc : ∀ {d : Dev} {f : Fld} {v : Nat}, R (d.reg a) → f ∈ ascShown → R ((d.set f v).reg a)) : Calm fun d => R (d.reg a) where
  beside {d e} h hr _ := by
    have he : e.reg a = d.reg a := by rw [Dev.reg, hr, Dev.reg]
    simpa only [he] using h
  setReg {d b v} h hb := by
    simpa only [Dev.reg_setReg_ne d v (fun he : a = b => ha (he ▸ hb))] using h
  asc := hasc
  suspect {d n b} h := by simpa only [Dev.reg_setB_ne (f := GCH_STAT_SUSPECT n) d b (hstat n)] using h
  raise {d k} h hk := by
    have hfree : raiseFree a := by
      unfold calmReg at ha
      exact raiseFree_of (by omega) (by omega)
    simpa only [Dev.raise_reg d hk hfree] using h
  gchUpd h _ := h
  driveEval {d n} h := by simpa only [d.reg_driveEval_ne (hstat n)] using h
  ascSwitch {d m n} h := by simpa only [d.reg_ascSwitch_ne (hstat n)] using h

theorem addr_of_ascShown {f : Fld} (h : f ∈ ascShown) : f.addr = A_GCH_ASC := by
  have hall : ∀ f ∈ ascShown, f.addr = A_GCH_ASC := by decide
  exact hall f h

/-- A register outside GCH_ASC. -/
theorem calm_field {f : Fld} (R : Nat → Prop) (ha : ¬ calmReg f.addr) (hstat : ∀ n, f.addr ≠ A_GCH_STAT n)
    (hne : f.addr ≠ A_GCH_ASC) : Calm fun d => R (d.get f) :=
  calm_reg (fun x => R (fieldGet x f.lo f.w)) ha hstat fun {d f' v} h hf => by
    have hreg : (d.set f' v).reg f.addr = d.reg f.addr := Dev.reg_set_ne d v (by rwa [addr_of_ascShown hf])
    simpa only [hreg] using h

theorem calmLoops_field {f : Fld} (R : Nat → Prop) (ha : ¬ calmReg f.addr) (hstat : ∀ n, f.addr ≠ A_GCH_STAT n)
    (hne : f.addr ≠ A_GCH_ASC) (hclu : ∀ g, f.addr ≠ A_CLU_STAT g) : CalmLoops fun d => R (d.get f) where
  toCalm := calm_field R ha hstat hne
  clu {d f' v g} h hf := by
    simpa only [Dev.get_set_addr (f := f') (g := f) d v (by rw [hf]; exact hclu g)] using h

/-- Thimble's selection. -/
theorem calmLoops_selAsc (g : Nat) (b : Bool) : CalmLoops fun d => d.selAsc g = b := by
  have hsel : ∀ f ∈ [GCH_ASC_SEL0, GCH_ASC_SEL1], f.addr = A_GCH_ASC ∧ ∀ f' ∈ ascShown,
      f.lo + f.w ≤ f'.lo ∨ f'.lo + f'.w ≤ f.lo := by decide
  have hcalm : ∀ f ∈ [GCH_ASC_SEL0, GCH_ASC_SEL1], CalmLoops fun d => d.bit f = b := fun f hf => by
    obtain ⟨haddr, hbits⟩ := hsel f hf
    refine { toCalm := ?_, clu := fun {d f' v g} h hf' => ?_ }
    swap
    · have hget := Dev.get_set_addr (f := f') (g := f) d v (by rw [haddr, hf']; dsimp only [A_GCH_ASC, A_CLU_STAT]; omega)
      rwa [Dev.bit, hget]
    refine calm_reg (fun x => decide (fieldGet x f.lo f.w ≠ 0) = b) (by rw [haddr]; unfold calmReg; decide)
      (fun n => by rw [haddr]; dsimp only [A_GCH_ASC, A_GCH_STAT]; omega) fun {d f' v} h hf' => ?_
    have hget := Dev.get_set_bits (f := f') (g := f) d v (haddr.trans (addr_of_ascShown hf').symm) (hbits f' hf')
    unfold Dev.get at hget
    rwa [hget]
  unfold Dev.selAsc
  split
  · exact hcalm _ (by simp)
  · exact hcalm _ (by simp)

theorem calm_cluState (g v : Nat) (hg : g < 2) : Calm fun d => d.get (CLU_STAT_STATE g) = v :=
  calm_field (f := CLU_STAT_STATE g) (· = v) (by unfold calmReg; dsimp only; omega) (fun n => by dsimp only [A_GCH_STAT]; omega)
    (by dsimp only [A_GCH_ASC]; omega)

theorem calmLoops_six (b : Bool) : CalmLoops fun d => d.six = b :=
  calmLoops_field (f := CLU_CTL_SIX 0) (fun x => decide (x ≠ 0) = b) (by unfold calmReg; decide) (fun n => by dsimp only [A_GCH_STAT]; omega)
    (by decide) fun g => by dsimp only [A_CLU_STAT]; omega

theorem calmLoops_paired (b : Bool) : CalmLoops fun d => d.paired = b :=
  calmLoops_field (f := GCH_COM_PAIR) (fun x => decide (x ≠ 0) = b) (by unfold calmReg; decide) (fun n => by dsimp only [A_GCH_STAT]; omega)
    (by decide) fun g => by dsimp only [A_CLU_STAT]; omega

theorem calmLoops_viol {f : Fld} {g : Nat} (hg : g < 2) (hf : f.addr = A_HEM_VIOL g) (v : Nat) : CalmLoops fun d => d.get f = v :=
  calmLoops_field (· = v) (by rw [hf]; unfold calmReg; dsimp only [A_HEM_VIOL]; omega)
    (fun n => by rw [hf]; dsimp only [A_HEM_VIOL, A_GCH_STAT]; omega) (by rw [hf]; dsimp only [A_HEM_VIOL, A_GCH_ASC]; omega)
    fun g => by rw [hf]; dsimp only [A_HEM_VIOL, A_CLU_STAT]; omega

/-- Nothing but training and the loss of a link changes whether a channel is linked. -/
theorem calmLoops_link (n : Nat) (b : Bool) : CalmLoops fun d => (d.gchAt n).link = b where
  beside h _ hg := by rwa [Dev.gchAt, hg]
  setReg h _ := h
  asc h _ := h
  suspect h := h
  raise h _ := by rwa [Dev.raise_gchAt]
  gchUpd {d m f} h hf := by
    by_cases hm : n = m
    · subst hm
      obtain ⟨-, hlink, -⟩ := hf (d.gchAt n)
      rwa [Dev.gchAt_gchUpd_same, hlink]
    · rwa [Dev.gchAt_gchUpd_ne _ _ hm]
  driveEval {d m} h := (congrArg Prod.fst (d.wiring_driveEval (n := n) (m := m))).trans h
  ascSwitch {d k m} h := (congrArg Prod.fst (d.wiring_ascSwitch (n := n) (m := m) (k := k))).trans h
  clu h _ := h

/-! ## The current-loop unit -/

theorem Dev.mem_groups_self (d : Dev) {g : Nat} (hg : g < 2) : g ∈ d.groups g := by
  unfold Dev.groups
  split
  · simp only [List.mem_cons, List.not_mem_nil, or_false]
    omega
  · exact List.mem_singleton_self g

/-- A unit enters its state, and that of the other group leaves it. -/
theorem Dev.get_cluPut1 (d : Dev) {g h st : Nat} (hg : g < 2) (hh : h < 2) (hst : st < 8)
    (hd : g = h ∨ d.get (CLU_STAT_STATE g) = st) : (d.cluPut1 h st).get (CLU_STAT_STATE g) = st := by
  have hrest : ∀ {e : Dev} {f : Fld} {v : Nat}, f.addr = A_CLU_STAT h → 3 ≤ f.lo → e.get (CLU_STAT_STATE g) = st →
      (e.set f v).get (CLU_STAT_STATE g) = st := fun {e f v} hf hlo he => by
    by_cases hgh : g = h
    · exact (Dev.get_set_bits (g := CLU_STAT_STATE g) e v (by rw [hf, hgh]) (.inl hlo)).trans he
    · exact (Dev.get_set_addr (g := CLU_STAT_STATE g) e v (by rw [hf]; dsimp only [A_CLU_STAT]; omega)).trans he
  refine (calm_cluState g st hg).cluPut1_of hh (hrest rfl (Nat.le_of_ble_eq_true rfl)) (hrest rfl (Nat.le_of_ble_eq_true rfl)) (fun hsame => ?_) fun _ => ?_
  · exact hd.elim (fun he => he ▸ hsame) id
  · by_cases hgh : g = h
    · subst hgh
      exact (Dev.get_set_same (f := CLU_STAT_STATE g) d st (Nat.le_of_ble_eq_true rfl)).trans (Nat.mod_eq_of_lt hst)
    · exact (Dev.get_set_addr (f := CLU_STAT_STATE h) (g := CLU_STAT_STATE g) d st (by dsimp only; omega)).trans
        (hd.resolve_left hgh)

/-- A unit that runs moves to SAFE (R144). -/
theorem Dev.get_cluSafe (d : Dev) {g : Nat} (hg : g < 2) (hst : 1 ≤ d.get (CLU_STAT_STATE g) ∧ d.get (CLU_STAT_STATE g) ≤ 4) :
    (d.cluSafe g).get (CLU_STAT_STATE g) = 5 := by
  unfold Dev.cluSafe Dev.cluPut
  rw [if_pos hst]
  unfold Dev.groups
  split
  · show (((d.alignAbort g).cluPut1 0 5).cluPut1 1 5).get (CLU_STAT_STATE g) = 5
    refine Dev.get_cluPut1 _ hg (by decide) (by decide) ?_
    by_cases h1 : g = 1
    · exact .inl h1
    · exact .inr (Dev.get_cluPut1 _ hg (by decide) (by decide) (.inl (by omega)))
  · exact Dev.get_cluPut1 _ hg hg (by decide) (.inl rfl)

/-- The whole safe-state command keeps it there. -/
theorem Dev.get_hemSafe_cluState (d : Dev) {g : Nat} (hg : g < 2)
    (hst : 1 ≤ d.get (CLU_STAT_STATE g) ∧ d.get (CLU_STAT_STATE g) ≤ 4) : (d.hemSafe g).get (CLU_STAT_STATE g) = 5 := by
  have hcalm := calm_cluState g (d.get (CLU_STAT_STATE g)) hg
  have hrun : ((d.raise 738).jnlHem 738).get (CLU_STAT_STATE g) = d.get (CLU_STAT_STATE g) :=
    hcalm.jnlHem (hcalm.raise rfl (by decide))
  have hsafe := calm_cluState g 5 hg
  exact hsafe.applySafe (kept_when (P := fun d => d.get (CLU_STAT_STATE g) = 5) (Dev.get_cluSafe _ hg (by rwa [hrun]))
    hsafe.thmSafe)

/-! ## Pulse-off -/

/-- Channel `n` is not left ACTIVE or in ASC, if it is linked. -/
def Dev.takenOff (n : Nat) (d : Dev) : Prop :=
  (d.gchAt n).link = false ∨ (d.get (GCH_STAT_STATE n) ≠ 2 ∧ d.get (GCH_STAT_STATE n) ≠ 5)

/-- Pulse-off takes every linked channel off. -/
theorem Dev.ascSwitch_takenOff (d : Dev) (n : Nat) : (d.ascSwitch 1 n).takenOff n := by
  have hside : onSide 1 n = false := by simp [onSide]
  unfold Dev.ascSwitch
  extract_lets st q
  refine iteInduction (fun hl => .inl (by simpa using hl)) fun _ => ?_
  rw [hside]
  refine iteInduction (fun h => absurd h (by simp)) fun _ => iteInduction (fun _ => .inr ?_) fun hst => .inr (by omega)
  have hget : (d.gchOff n).get (GCH_STAT_STATE n) = 1 :=
    Dev.get_set_same (f := GCH_STAT_STATE n) _ 1 (Nat.le_of_ble_eq_true rfl)
  omega

section
variable {d e : Dev} {n : Nat}

theorem Dev.takenOff.of_same (h : d.takenOff n) (hr : e.reg (A_GCH_STAT n) = d.reg (A_GCH_STAT n)) (hg : e.gchAt n = d.gchAt n) :
    e.takenOff n := by
  have hget : e.get (GCH_STAT_STATE n) = d.get (GCH_STAT_STATE n) := congrArg (fieldGet · 0 3) hr
  rwa [Dev.takenOff, hg, hget]

/-- It stays so as other channels take their safe-state commands. -/
theorem Dev.takenOff.ascSwitch {m k : Nat} (h : d.takenOff n) (hne : k ≠ n) : (d.ascSwitch m k).takenOff n := by
  exact h.of_same (d.reg_ascSwitch_ne (by dsimp only [A_GCH_STAT]; omega)) (d.gchAt_ascSwitch_ne hne.symm)

theorem Dev.takenOff.showAsc (h : d.takenOff n) : d.showAsc.takenOff n := by
  unfold Dev.showAsc
  refine kept_each h fun {i e} _ h => ?_
  have hasc : ∀ {e : Dev} {f : Fld} {v : Nat}, f.addr = A_GCH_ASC → e.takenOff n → (e.set f v).takenOff n := fun {e f v} hf h =>
    h.of_same (Dev.reg_set_ne e v (by rw [hf]; dsimp only [A_GCH_STAT, A_GCH_ASC]; omega)) rfl
  have hfs : (if i < 6 then GCH_ASC_SUSP0 else GCH_ASC_SUSP1).addr = A_GCH_ASC := by split <;> rfl
  have hfn : (if i < 6 then GCH_ASC_NOON0 else GCH_ASC_NOON1).addr = A_GCH_ASC := by split <;> rfl
  have hsus : ∀ {b : Bool}, (e.setB (GCH_STAT_SUSPECT i) b).takenOff n := fun {b} => by
    by_cases hi : n = i
    · subst hi
      have hget := Dev.get_set_bits (f := GCH_STAT_SUSPECT n) (g := GCH_STAT_STATE n) e (if b then 1 else 0) rfl
        (.inl (Nat.le_of_ble_eq_true rfl))
      rw [Dev.takenOff] at h ⊢
      rwa [Dev.setB, hget]
    · exact h.of_same (Dev.reg_setB_ne (f := GCH_STAT_SUSPECT i) e b (by dsimp only [A_GCH_STAT]; omega)) rfl
  extract_lets b fs fn d1 d2
  have h2 : d2.takenOff n := iteInduction (motive := fun e : Dev => e.takenOff n) (fun _ => hasc hfs hsus) fun _ => hasc hfs hsus
  exact iteInduction (motive := fun e : Dev => e.takenOff n) (fun _ => hasc hfn h2) fun _ => hasc hfn h2

/-- It stays so as the other set takes its safe-state command. -/
theorem Dev.takenOff.applySet {g : Nat} (h : d.takenOff n) (hn : d.groupOf n ≠ g) : (d.applySet g).takenOff n := by
  have hpaired : d.showAsc.paired = d.paired := (calmLoops_paired d.paired).showAsc rfl
  have hmem : ∀ m ∈ d.showAsc.chans g, m ≠ n := fun m hm he => by
    unfold Dev.chans Dev.groupOf at hm
    unfold Dev.groupOf at hn
    rw [hpaired] at hm
    simp only [List.mem_filter, decide_eq_true_eq] at hm
    exact hn (he ▸ hm.2)
  have hmode : ∀ {e : Dev} {v : Nat}, e.takenOff n → (e.set (ascMode g) v).takenOff n := fun {e v} h =>
    h.of_same (Dev.reg_set_ne e v (by unfold ascMode; split <;> dsimp only [A_GCH_STAT] <;> omega)) rfl
  unfold Dev.applySet
  exact hmode (kept_eachOf (P := Dev.takenOff n) (kept_eachOf (P := Dev.takenOff n) h.showAsc
    fun hx h => h.ascSwitch (hmem _ (List.mem_of_mem_filter hx))) fun hx h => h.ascSwitch (hmem _ (List.mem_of_mem_filter hx)))

end

/-- With pulse-off selected no side is shorted (R187 rule 4). -/
theorem Dev.applySet_pulseOff (d : Dev) {g : Nat} (hsel : d.selAsc g = false) : d.applySet g =
    ((d.showAsc.eachOf ((d.showAsc.chans g).filter fun n => !onSide 1 n) fun n d => d.ascSwitch 1 n).eachOf
      ((d.showAsc.chans g).filter fun n => onSide 1 n) fun n d => d.ascSwitch 1 n).set (ascMode g) 1 := by
  have hrule : d.showAsc.sideRule g = 1 := by simp [Dev.sideRule, (calmLoops_selAsc g false).showAsc hsel]
  unfold Dev.applySet
  dsimp only
  rw [hrule, ite_self]

/-- Then a set takes every linked channel of its own off. -/
theorem Dev.applySet_takenOff (d : Dev) {g n : Nat} (hsel : d.selAsc g = false) (hn : n < 12) (hgroup : d.groupOf n = g) :
    (d.applySet g).takenOff n := by
  have hpaired : d.showAsc.paired = d.paired := (calmLoops_paired d.paired).showAsc rfl
  have hmem : n ∈ (d.showAsc.chans g).filter fun n => !onSide 1 n := by
    unfold Dev.chans Dev.groupOf
    rw [hpaired]
    exact List.mem_filter.mpr ⟨List.mem_filter.mpr ⟨List.mem_range.mpr hn, decide_eq_true hgroup⟩, by simp [onSide]⟩
  have hswitch : ∀ {k : Nat} {d : Dev}, d.takenOff n → (d.ascSwitch 1 k).takenOff n := fun {k d} h => by
    by_cases hk : k = n
    · exact hk ▸ d.ascSwitch_takenOff k
    · exact h.ascSwitch hk
  rw [d.applySet_pulseOff hsel]
  refine Dev.takenOff.of_same (kept_eachOf (P := Dev.takenOff n) (eachOf_reaches (I := fun _ => True) (fun _ _ _ _ => trivial)
    (fun e _ => e.ascSwitch_takenOff n) (fun _ _ => hswitch) hmem trivial) fun _ => hswitch) (Dev.reg_set_ne _ 1 ?_) rfl
  unfold ascMode
  split <;> dsimp only [A_GCH_STAT] <;> omega

/-- And it shows pulse-off. -/
theorem Dev.applySet_mode (d : Dev) {g : Nat} (hsel : d.selAsc g = false) : (d.applySet g).get (ascMode g) = 1 := by
  rw [d.applySet_pulseOff hsel]
  unfold ascMode
  split
  · exact Dev.get_set_same (f := GCH_ASC_MODE0) _ 1 (by decide)
  · exact Dev.get_set_same (f := GCH_ASC_MODE1) _ 1 (by decide)

/-- The mode that one set shows is not touched as the other takes its safe-state command. -/
theorem Dev.get_ascMode_applySet (d : Dev) : (d.applySet 1).get (ascMode 0) = d.get (ascMode 0) := by
  have hasc : ∀ {e : Dev} {f : Fld} {v : Nat}, f.addr = A_GCH_ASC → (f.lo + f.w ≤ 24 ∨ 26 ≤ f.lo) →
      (e.set f v).get (ascMode 0) = e.get (ascMode 0) := fun {e f v} hf hbits =>
    Dev.get_set_bits (g := GCH_ASC_MODE0) e v hf.symm hbits.symm
  have hshow : d.showAsc.get (ascMode 0) = d.get (ascMode 0) := by
    unfold Dev.showAsc
    refine Dev.each_keeps _ (·.get (ascMode 0)) 12 fun i e => ?_
    have hfs : ∀ (k : Nat), (if k < 6 then GCH_ASC_SUSP0 else GCH_ASC_SUSP1).addr = A_GCH_ASC ∧
        ((if k < 6 then GCH_ASC_SUSP0 else GCH_ASC_SUSP1).lo + (if k < 6 then GCH_ASC_SUSP0 else GCH_ASC_SUSP1).w ≤ 24 ∨
          26 ≤ (if k < 6 then GCH_ASC_SUSP0 else GCH_ASC_SUSP1).lo) := fun k => by split <;> decide
    have hfn : ∀ (k : Nat), (if k < 6 then GCH_ASC_NOON0 else GCH_ASC_NOON1).addr = A_GCH_ASC ∧
        ((if k < 6 then GCH_ASC_NOON0 else GCH_ASC_NOON1).lo + (if k < 6 then GCH_ASC_NOON0 else GCH_ASC_NOON1).w ≤ 24 ∨
          26 ≤ (if k < 6 then GCH_ASC_NOON0 else GCH_ASC_NOON1).lo) := fun k => by split <;> decide
    obtain ⟨hfsa, hfsb⟩ := hfs i
    obtain ⟨hfna, hfnb⟩ := hfn i
    have hsus : ∀ {b : Bool}, (e.setB (GCH_STAT_SUSPECT i) b).get (ascMode 0) = e.get (ascMode 0) := fun {b} =>
      Dev.get_set_addr (f := GCH_STAT_SUSPECT i) (g := GCH_ASC_MODE0) e _ (by dsimp only; omega)
    extract_lets b fs fn d1 d2
    have h2 : d2.get (ascMode 0) = e.get (ascMode 0) :=
      iteInduction (motive := fun x : Dev => x.get (ascMode 0) = e.get (ascMode 0))
        (fun _ => (hasc hfsa hfsb).trans hsus) fun _ => (hasc hfsa hfsb).trans hsus
    exact iteInduction (motive := fun x : Dev => x.get (ascMode 0) = e.get (ascMode 0))
      (fun _ => (hasc hfna hfnb).trans h2) fun _ => (hasc hfna hfnb).trans h2
  have hswitch : ∀ {e : Dev} {m k : Nat}, e.get (ascMode 0) = d.get (ascMode 0) →
      (e.ascSwitch m k).get (ascMode 0) = d.get (ascMode 0) := fun {e m k} h =>
    (congrArg (fieldGet · 24 2) (e.reg_ascSwitch_ne (a := A_GCH_ASC) (by dsimp only [A_GCH_ASC, A_GCH_STAT]; omega))).trans h
  unfold Dev.applySet
  refine (hasc rfl (.inr (by decide))).trans ?_
  exact kept_eachOf (P := fun e => e.get (ascMode 0) = d.get (ascMode 0))
    (kept_eachOf (P := fun e => e.get (ascMode 0) = d.get (ascMode 0)) hshow fun _ => hswitch) fun _ => hswitch

theorem Dev.limGrp_lt (d : Dev) (g : Fin 2) : d.limGrp g < 2 := by
  unfold Dev.limGrp
  split <;> omega

/-- With pulse-off selected the safe-state command of a group shows pulse-off and takes every linked channel off (R187). -/
theorem Dev.applySafe_pulseOff (d : Dev) {g : Nat} (hsix : d.six = true → g = 0) (hsel : d.selAsc g = false) :
    (d.applySafe g).get (ascMode g) = 1 ∧ ∀ n < 12, d.groupOf n = g → (d.applySafe g).takenOff n := by
  unfold Dev.applySafe Dev.groups
  split
  · next h =>
    obtain rfl := hsix h
    refine ⟨(Dev.get_ascMode_applySet _).trans (d.applySet_mode hsel), fun n hn hgroup => ?_⟩
    refine (d.applySet_takenOff hsel hn hgroup).applySet ?_
    have hpaired : (d.applySet 0).paired = d.paired := (calmLoops_paired d.paired).applySet rfl
    unfold Dev.groupOf at hgroup ⊢
    rw [hpaired, hgroup]
    decide
  · exact ⟨d.applySet_mode hsel, fun n => d.applySet_takenOff hsel⟩

/-- The safe-state command reaches the gates of a device that is calm beside the one that it is given to. -/
theorem Dev.hemSafe_reaches (d : Dev) {g : Nat} (hg : g < 2) :
    ∃ e : Dev, d.hemSafe g = e.applySafe g ∧ ∀ {P : Dev → Prop}, CalmLoops P → P d → P e :=
  ⟨_, rfl, fun hP h => kept_when (hP.cluSafe hg (hP.jnlHem (hP.raise h (by decide)))) hP.thmSafe⟩

/-- With pulse-off selected Hem's safe-state command takes every linked channel of its group off. -/
theorem Dev.hemSafe_takenOff (d : Dev) {g : Nat} (hg : g < 2) (hsix : d.six = true → g = 0) (hsel : d.selAsc g = false) :
    (d.hemSafe g).get (ascMode g) = 1 ∧ ((d.chans g).all fun n => !(d.gchAt n).link ||
      decide ((d.hemSafe g).get (GCH_STAT_STATE n) ≠ 2 ∧ (d.hemSafe g).get (GCH_STAT_STATE n) ≠ 5)) = true := by
  obtain ⟨e, he, hcalm⟩ := d.hemSafe_reaches hg
  have hsix' : e.six = d.six := hcalm (calmLoops_six d.six) rfl
  have hgroup : ∀ n, e.groupOf n = d.groupOf n := fun n => by
    have hpaired : e.paired = d.paired := hcalm (calmLoops_paired d.paired) rfl
    rw [Dev.groupOf, hpaired, Dev.groupOf]
  obtain ⟨hmode, hall⟩ := e.applySafe_pulseOff (fun h => hsix (hsix' ▸ h)) (hcalm (calmLoops_selAsc g false) hsel)
  refine ⟨he ▸ hmode, List.all_eq_true.mpr fun n hmem => ?_⟩
  obtain ⟨hn, h⟩ := List.mem_filter.mp hmem
  have hoff := hall n (List.mem_range.mp hn) ((hgroup n).trans (of_decide_eq_true h))
  have hlink : ((d.hemSafe g).gchAt n).link = (d.gchAt n).link := (calmLoops_link n _).hemSafe hg rfl
  rw [← he, Dev.takenOff, hlink] at hoff
  simpa using hoff

/-! ## A trip -/

/-- What the clause of a trip of group `g` asks of the state after it, counted in `f`. -/
theorem hemSafe_trips (s : State) {g : Nat} {f : Fld} (hg : g < 2) (hsix : s.dev.six = true → g = 0)
    (hf : f.addr = A_HEM_VIOL g) (hw : f.lo + f.w ≤ 64) :
    Counted f s { s with dev := (s.dev.count f).hemSafe g } ∧ Raised 738 s { s with dev := (s.dev.count f).hemSafe g } ∧
    (1 ≤ s.dev.get (CLU_STAT_STATE g) ∧ s.dev.get (CLU_STAT_STATE g) ≤ 4 →
      ((s.dev.count f).hemSafe g).get (CLU_STAT_STATE g) = 5) ∧
    (s.dev.selAsc g = false → ((s.dev.count f).hemSafe g).get (ascMode g) = 1 ∧
      ((s.dev.chans g).all fun n => !(s.dev.gchAt n).link || decide (((s.dev.count f).hemSafe g).get (GCH_STAT_STATE n) ≠ 2 ∧
        ((s.dev.count f).hemSafe g).get (GCH_STAT_STATE n) ≠ 5)) = true) := by
  have hother : ∀ {k : Fld}, k.addr < 0x40800000 → (s.dev.count f).get k = s.dev.get k := fun {k} hk =>
    Dev.get_set_addr s.dev _ (by rw [hf]; dsimp only [A_HEM_VIOL]; omega)
  refine ⟨?_, ?_, fun hst => ?_, fun hsel => ?_⟩
  · exact ((calmLoops_viol hg hf _).hemSafe hg rfl).trans (Dev.get_count_same _ hw)
  · have hst := steady_stamped s.dev.time (k := 738) (by decide)
    have hcmd : ((s.dev.count f).hemSafe g).stamped 738 s.dev.time := by
      unfold Dev.hemSafe Dev.jnlHem Dev.journal
      exact hst.groupSafe hg (hst.jnlPut (Dev.raise_stamped (by decide) rfl))
    exact hcmd.2
  · have hget : (s.dev.count f).get (CLU_STAT_STATE g) = s.dev.get (CLU_STAT_STATE g) := hother (by dsimp only; omega)
    exact Dev.get_hemSafe_cluState _ hg (by rwa [hget])
  · have hsel' : (s.dev.count f).selAsc g = false := by
      unfold Dev.selAsc Dev.bit at hsel ⊢
      rwa [hother (by split <;> decide)]
    have hsix' : (s.dev.count f).six = s.dev.six := congrArg (fun x => decide (x ≠ 0)) (hother (by decide))
    have hchans : (s.dev.count f).chans g = s.dev.chans g := by
      unfold Dev.chans Dev.groupOf Dev.paired Dev.bit
      rw [hother (by decide)]
    obtain ⟨hmode, hall⟩ := (s.dev.count f).hemSafe_takenOff hg (fun h => hsix (hsix' ▸ h)) hsel'
    exact ⟨hmode, hchans ▸ hall⟩

end Sys2Proof.Machine
end

section
/-!
Derating and Hem's hold (R295, R298), and the settled obligation on Hem's commands.
-/
namespace Sys2Proof.Machine

/-! ## Derating -/

theorem Dev.reg_tempKeep (d : Dev) (a : Nat) : d.tempKeep.reg a = d.reg a := by
  unfold Dev.tempKeep
  refine kept_eachOf (P := fun e => e.reg a = d.reg a) rfl fun {k e} _ h => ?_
  split
  · exact h
  · exact h

section
variable (d : Dev) {g : Nat}

theorem Dev.reg_derateShow {a : Nat} (below : Bool) (ha : raiseFree a) : (d.derateShow g below).reg a = d.reg a := by
  unfold Dev.derateShow
  refine iteInduction (motive := fun e : Dev => e.reg a = d.reg a) (fun _ => rfl) fun _ => ?_
  exact Dev.raise_reg _ (by decide) ha

/-- Derating shows the effective limit beside the factors. -/
theorem Dev.get_derate {f : Fld} (hfree : raiseFree f.addr) (hf : f.addr ≠ A_HEM_DER g ∨ f.lo + f.w ≤ 48) :
    (d.derate g).get f = (d.derateFactors g (d.tempSources g)).get f := by
  have hget : ∀ (e : Dev) (v : Nat), (e.set (HEM_DER_IMAX_EFF g) v).get f = e.get f := fun e v => by
    by_cases ha : f.addr = A_HEM_DER g
    · exact Dev.get_set_bits (f := HEM_DER_IMAX_EFF g) (g := f) e v ha (.inl (hf.resolve_left fun h => h ha))
    · exact Dev.get_set_addr (f := HEM_DER_IMAX_EFF g) (g := f) e v ha
  unfold Dev.derate
  extract_lets ks m imax e d1 _ d2
  have hshow : (d2.derateShow g (decide (e < imax * 65536))).get f = d2.get f := by
    rw [Dev.get, Dev.reg_derateShow _ _ hfree, Dev.get]
  have hbeside : ∀ (e : Dev) (h : Hem), ({ e with hem := h } : Dev).get f = e.get f := fun _ _ => rfl
  rw [hshow]
  exact (hbeside d1 _).trans (hget _ _)

/-- The factors lie in the group's own register. -/
theorem Dev.reg_derateFactors_ne {a : Nat} (ks : List Nat) (ha : a ≠ A_HEM_DER g) : (d.derateFactors g ks).reg a = d.reg a := by
  unfold Dev.derateFactors
  exact (Dev.reg_set_ne (f := HEM_DER_INVALID g) _ _ ha).trans <|
    (Dev.reg_setB_ne (f := HEM_DER_FLOW_STALE g) _ _ ha).trans <|
    (Dev.reg_set_ne (f := HEM_DER_T_HOT g) _ _ ha).trans <| (Dev.reg_set_ne (f := HEM_DER_F_FLOW g) _ _ ha).trans <|
    Dev.reg_set_ne (f := HEM_DER_F_TEMP g) _ _ ha

theorem Dev.get_derateFactors_temp (ks : List Nat) : (d.derateFactors g ks).get (HEM_DER_F_TEMP g) =
    (near (100 * (d.fTemp ks).1) (d.fTemp ks).2).toNat % 2 ^ (HEM_DER_F_TEMP g).w := by
  have hother : ∀ {e : Dev} {f : Fld} {v : Nat}, f.addr = A_HEM_DER g → f.lo + f.w ≤ 40 →
      (e.set f v).get (HEM_DER_F_TEMP g) = e.get (HEM_DER_F_TEMP g) := fun hf hbits =>
    Dev.get_set_bits (g := HEM_DER_F_TEMP g) _ _ hf.symm (.inr hbits)
  unfold Dev.derateFactors
  exact (hother rfl (Nat.le_of_ble_eq_true rfl)).trans <| (hother rfl (Nat.le_of_ble_eq_true rfl)).trans <|
    (hother rfl (Nat.le_of_ble_eq_true rfl)).trans <| (hother rfl (Nat.le_of_ble_eq_true rfl)).trans <|
    Dev.get_set_same (f := HEM_DER_F_TEMP g) d _ (Nat.le_of_ble_eq_true rfl)

theorem Dev.get_derateFactors_stale (ks : List Nat) (hg : g < 2) :
    (d.derateFactors g ks).get (HEM_DER_FLOW_STALE g) = d.get FLW_STAT_STALE := by
  have hbit : ∀ {e : Dev}, e.get FLW_STAT_STALE = d.get FLW_STAT_STALE →
      (if e.bit FLW_STAT_STALE then 1 else 0) = d.get FLW_STAT_STALE := fun {e} he => by
    have hlt : d.get FLW_STAT_STALE < 2 := Dev.get_lt ..
    rw [Dev.bit, he]
    split
    · next h => exact (Nat.le_antisymm (Nat.le_of_lt_succ hlt) (Nat.pos_of_ne_zero (of_decide_eq_true h))).symm
    · next h => exact (by simpa using h : d.get FLW_STAT_STALE = 0).symm
  have hother : ∀ {e : Dev} {f : Fld} {v : Nat}, f.addr = A_HEM_DER g → (e.set f v).get FLW_STAT_STALE = e.get FLW_STAT_STALE :=
    fun {e f v} hf => Dev.get_set_addr e v (by rw [hf]; dsimp only [A_HEM_DER]; omega)
  unfold Dev.derateFactors
  refine (Dev.get_set_bits (f := HEM_DER_INVALID g) (g := HEM_DER_FLOW_STALE g) _ _ rfl
    (.inr (Nat.le_of_ble_eq_true rfl))).trans ?_
  refine (Dev.get_setB_same (f := HEM_DER_FLOW_STALE g) _ _ (Nat.le_of_ble_eq_true rfl) (Nat.le_of_ble_eq_true rfl)).trans ?_
  exact hbit ((hother rfl).trans (hother rfl))

end

theorem deratingUpdate_shows (s : State) (hp : s.powered) :
    Completes (.deratingUpdate) s fun t =>
      t.dev.get (HEM_DER_F_TEMP 0) = (near (100 * ((s.dev.tempKeep).fTemp ((s.dev.tempKeep).tempSources 0)).1)
        ((s.dev.tempKeep).fTemp ((s.dev.tempKeep).tempSources 0)).2).toNat % 2 ^ (HEM_DER_F_TEMP 0).w ∧
      t.dev.get (HEM_DER_FLOW_STALE 1) = s.dev.get FLW_STAT_STALE := by
  refine completes_main (show exec _ _ = execDeratingUpdate s from rfl) hp ?_
  generalize hd : s.dev.tempKeep = d
  have hfree : ∀ {a : Nat}, 0x40800000 ≤ a ∧ a < 0x40E20000 → raiseFree a := fun h => raiseFree_of (by omega) (by omega)
  show ((d.derate 0).derate 1).get (HEM_DER_F_TEMP 0) = _ ∧ ((d.derate 0).derate 1).get (HEM_DER_FLOW_STALE 1) = _
  constructor
  · calc ((d.derate 0).derate 1).get (HEM_DER_F_TEMP 0)
        = ((d.derate 0).derateFactors 1 ((d.derate 0).tempSources 1)).get (HEM_DER_F_TEMP 0) :=
          Dev.get_derate _ (hfree (by decide)) (.inl (by decide))
      _ = (d.derate 0).get (HEM_DER_F_TEMP 0) := congrArg (fieldGet · 40 8) (Dev.reg_derateFactors_ne _ _ (by decide))
      _ = (d.derateFactors 0 (d.tempSources 0)).get (HEM_DER_F_TEMP 0) := d.get_derate (hfree (by decide)) (.inr (by decide))
      _ = _ := d.get_derateFactors_temp _
  · calc ((d.derate 0).derate 1).get (HEM_DER_FLOW_STALE 1)
        = ((d.derate 0).derateFactors 1 ((d.derate 0).tempSources 1)).get (HEM_DER_FLOW_STALE 1) :=
          Dev.get_derate _ (hfree (by decide)) (.inr (by decide))
      _ = (d.derate 0).get FLW_STAT_STALE := Dev.get_derateFactors_stale _ _ (by decide)
      _ = (d.derateFactors 0 (d.tempSources 0)).get FLW_STAT_STALE := d.get_derate (hfree (by decide)) (.inl (by decide))
      _ = d.get FLW_STAT_STALE := congrArg (fieldGet · FLW_STAT_STALE.lo FLW_STAT_STALE.w) (d.reg_derateFactors_ne _ (by decide))
      _ = s.dev.get FLW_STAT_STALE := by rw [← hd, Dev.get, Dev.reg_tempKeep, Dev.get]

/-! ## Hold -/

/-- The registers that tell the causes of Hem's hold beside the retired pairs. -/
def causeRegs : List Nat := [A_SYS_PWRSTATE, A_SYS_IMGSTAT, A_THM_SI, A_THM_SICFG]

/-- With the one that shows the hold. -/
def holdRegs : List Nat := A_HEM_STAT :: causeRegs

/-- They lie in no block of the axes or the field outputs. -/
theorem not_mem_holdRegs {a : Nat} (h : (0x40700000 ≤ a ∧ a < 0x40800000) ∨ (0x40F00000 ≤ a ∧ a < 0x41000000)) : a ∉ holdRegs := by
  intro ha
  have hcase : ∀ a ∈ holdRegs, a < 0x40700000 ∨ (0x40800000 ≤ a ∧ a < 0x40F00000) ∨ 0x41000000 ≤ a := by decide
  have := hcase a ha
  omega

/-- The causes of Hem's hold, and what is shown of it, are those of `x`. -/
def Dev.SameHold (d x : Dev) : Prop := d.hem = x.hem ∧ d.pwr = x.pwr ∧ ∀ a ∈ holdRegs, d.reg a = x.reg a

namespace Dev.SameHold

variable {d e x : Dev}

theorem beside (h : d.SameHold x) (hr : e.regs = d.regs) (hh : e.hem = d.hem) (hp : e.pwr = d.pwr) : e.SameHold x := by
  obtain ⟨hhem, hpwr, hreg⟩ := h
  exact ⟨hh.trans hhem, hp.trans hpwr, fun a ha => by rw [Dev.reg, hr]; exact hreg a ha⟩

theorem set {f : Fld} {v : Nat} (h : d.SameHold x) (hf : f.addr ∉ holdRegs) : (d.set f v).SameHold x := by
  obtain ⟨hhem, hpwr, hreg⟩ := h
  exact ⟨hhem, hpwr, fun a ha => (Dev.reg_set_ne d v fun he => hf (he ▸ ha)).trans (hreg a ha)⟩

theorem raise {k : Nat} (h : d.SameHold x) (hk : k < 768) : (d.raise k).SameHold x := by
  obtain ⟨hhem, hpwr, hreg⟩ := h
  have hfree : ∀ a ∈ holdRegs, (d.raise k).reg a = d.reg a := fun a ha => by
    have hcase : ∀ a ∈ holdRegs, a < 0x40010000 ∨ (0x40020000 ≤ a ∧ a < 0x41408000) ∨ 0x41410000 ≤ a := by decide
    obtain hlow | hmid | hhigh := hcase a ha
    · exact d.raise_reg_sys k hlow
    · exact d.raise_reg hk (raiseFree_of hmid.1 hmid.2)
    · refine d.raise_reg hk ?_
      simp only [raiseFree, A_EVR_STAMP, A_EVR_PEND, A_EVR_CNT, A_SPL_CHST, A_SPL_CHCNT, A_SPL_STAT, A_SPL_CNT, A_SPL_TSTAMP]
      exact ⟨by omega, by omega, by omega, by omega, by omega, by omega, by omega⟩
  exact ⟨(Dev.raise_hem ..).trans hhem, (Dev.raise_pwr ..).trans hpwr, fun a ha => (hfree a ha).trans (hreg a ha)⟩

theorem ite {c : Prop} [Decidable c] (h : d.SameHold x) (h' : e.SameHold x) : (if c then d else e).SameHold x := by
  split <;> assumption

theorem clkEval (h : d.SameHold x) : d.clkEval.SameHold x := by
  unfold Dev.clkEval
  refine kept_each (P := fun d => d.SameHold x) h fun {p e} _ h => ?_
  obtain hsame | ⟨v, -, -, hset⟩ := e.pllEval_cases p
  · rwa [hsame]
  · rw [hset]
    exact h.set (by rw [pllFld_addr]; decide)

theorem foUpd {n : Nat} {f : Fo → Fo} (h : d.SameHold x) : (d.foUpd n f).SameHold x := h.beside rfl rfl rfl

theorem setFo {n lo w v : Nat} (hn : n < 14) (h : d.SameHold x) : (d.set ⟨0x40F00200 + n * 0x8, lo, w⟩ v).SameHold x :=
  h.set (not_mem_holdRegs (.inr (by dsimp only; omega)))

theorem foPut {n st drive : Nat} (hn : n < 14) (h : d.SameHold x) : (d.foPut n st drive).SameHold x := by
  unfold Dev.foPut
  exact .foUpd (.setFo hn (.setFo hn (kept_when (P := fun d => d.SameHold x) h fun h => .setFo hn h)))

theorem foHoldAll (h : d.SameHold x) : d.foHoldAll.SameHold x := by
  unfold Dev.foHoldAll Dev.foHold
  exact kept_each (P := fun d => d.SameHold x) h fun hn h =>
    .ite h (.ite (.ite h (h.foPut hn)) (.ite (.ite (h.foPut hn) (h.foPut hn)) h))

theorem axisUpd {n : Nat} {f : Axis → Axis} (h : d.SameHold x) : (d.axisUpd n f).SameHold x := h.beside rfl rfl rfl

theorem axPut {n st : Nat} (hn : n < 12) (h : d.SameHold x) : (d.axPut n st).SameHold x := by
  have hset : (d.set (STP_STAT_STATE n) st).SameHold x := by
    refine h.set (not_mem_holdRegs (.inl ?_))
    dsimp only
    omega
  unfold Dev.axPut
  exact .ite h (hset.raise (by unfold stpSrc; omega)).clkEval

theorem axUnhold {n why : Nat} (hn : n < 12) (h : d.SameHold x) : (d.axUnhold n why).SameHold x := by
  unfold Dev.axUnhold
  exact .ite (h.axisUpd.axisUpd.axPut hn) h.axisUpd

/-! ### What it decides -/

theorem get (h : d.SameHold x) {f : Fld} (hf : f.addr ∈ holdRegs) : d.get f = x.get f := by
  obtain ⟨-, -, hreg⟩ := h
  exact congrArg (fieldGet · f.lo f.w) (hreg _ hf)

end Dev.SameHold

/-- What Hem shows of its hold is that it has a cause. -/
def Dev.holdShown (d : Dev) : Prop := (d.hem.why ≠ 0) = (d.bit HEM_STAT_HOLD = true)

/-- The causes of the hold beside bit `w`. -/
def Dev.withoutCause (d : Dev) (w : Nat) : Dev := { d with hem := { d.hem with why := d.hem.why - (d.hem.why &&& w) } }

/-- Ending a cause that is not there leaves the hold as it is shown. -/
theorem Dev.hemHold_absent (d : Dev) {w : Nat} (hw : d.hem.why &&& w = 0) (hshow : d.holdShown) :
    d.hemHold w false = d.foHoldAll := by
  have hsame : d.withoutCause w = d := by
    rw [Dev.withoutCause, hw, Nat.sub_zero]
  have hpos : d.hemHold w false = (d.withoutCause w).foHoldAll := if_pos (c := (d.withoutCause w).holdShown) (hsame.symm ▸ hshow)
  rw [hpos, hsame]

/-- No cause of the hold is left, and it is no longer shown. -/
def Dev.freed (d : Dev) : Dev := (d.withoutCause d.hem.why).set HEM_STAT_HOLD 0

theorem Dev.freed_why (d : Dev) : d.freed.hem.why = 0 := by
  show d.hem.why - (d.hem.why &&& d.hem.why) = 0
  rw [Nat.and_self, Nat.sub_self]

theorem Dev.freed_hold (d : Dev) : d.freed.get HEM_STAT_HOLD = 0 := Dev.get_set_same _ _ (by decide)

theorem Dev.freed_pwr (d : Dev) : d.freed.pwr = d.pwr := rfl

theorem Dev.freed_time (d : Dev) : d.freed.time = d.time := rfl

theorem Dev.reg_freed_ne (d : Dev) {a : Nat} (h : a ≠ A_HEM_STAT) : d.freed.reg a = d.reg a :=
  Dev.reg_set_ne (f := HEM_STAT_HOLD) (d.withoutCause d.hem.why) 0 h

/-- The outputs and the axes leave their hold states. -/
def Dev.leaveHold (d : Dev) : Dev := ((d.raise 741).foHoldAll).each 12 fun n d => d.axUnhold n 1

/-- The last cause ends, and with it the hold. -/
theorem Dev.hemHold_last (d : Dev) {w : Nat} (hw : d.hem.why = w) (hshow : d.bit HEM_STAT_HOLD = true) :
    d.hemHold w false = d.freed.leaveHold := by
  subst hw
  have hnone : (d.withoutCause d.hem.why).hem.why = 0 := d.freed_why
  have hhold : (d.withoutCause d.hem.why).bit HEM_STAT_HOLD = true := hshow
  have hnot : ¬ (d.withoutCause d.hem.why).holdShown := by
    rw [Dev.holdShown, hnone, hhold]
    simp
  exact (if_neg hnot).trans (if_neg (not_not.mpr hnone))

/-- So does ending any cause of a hold that has none and is not shown. -/
theorem Dev.hemHold_none {d x : Dev} (h : d.SameHold x) (hwhy : x.hem.why = 0) (hshow : x.bit HEM_STAT_HOLD = false) (w : Nat) :
    d.hemHold w false = d.foHoldAll := by
  have hnone : d.hem.why = 0 := (congrArg Hem.why h.1).trans hwhy
  refine d.hemHold_absent (by rw [hnone, Nat.zero_and]) ?_
  rw [Dev.holdShown, hnone, Dev.bit, h.get (by decide)]
  simpa [Dev.bit] using hshow

namespace Dev.SameHold

variable {d x : Dev}

theorem bothRetired (h : d.SameHold x) : d.bothRetired = x.bothRetired := by
  unfold Dev.bothRetired
  rw [h.get (by decide), h.get (by decide)]

end Dev.SameHold

/-- No start-up fault, no request of Thimble's and no supply loss asks for the hold (R298). -/
def Dev.holdFree (d : Dev) : Prop := d.startFault = false ∧ d.holdReq = false ∧ d.inLoss = false

theorem Dev.holdFree.of_same {d x : Dev} (h : x.holdFree) (hreg : ∀ a ∈ causeRegs, d.reg a = x.reg a) (hpwr : d.pwr = x.pwr) :
    d.holdFree := by
  have hp := hreg A_SYS_PWRSTATE (by decide)
  have hi := hreg A_SYS_IMGSTAT (by decide)
  have hs := hreg A_THM_SI (by decide)
  have hc := hreg A_THM_SICFG (by decide)
  unfold Dev.holdFree Dev.startFault Dev.holdReq Dev.siDemand Dev.inLoss Dev.unpowered Dev.bit Dev.get at h ⊢
  simpa only [hp, hi, hs, hc, hpwr] using h

theorem Dev.SameHold.holdFree {d x : Dev} (h : d.SameHold x) (hx : x.holdFree) : d.holdFree := by
  obtain ⟨-, hpwr, hreg⟩ := h
  exact hx.of_same (fun a ha => hreg a (List.mem_cons_of_mem _ ha)) hpwr

/-! ### The end of the hold -/

theorem Quiet.foHoldAll {P : Dev → Prop} (hP : Quiet P) {d : Dev} (h : P d) : P d.foHoldAll := by
  unfold Dev.foHoldAll Dev.foHold
  exact kept_each h fun _ h => iteInduction (fun _ => h) fun _ => iteInduction
    (fun _ => iteInduction (fun _ => h) fun _ => hP.foPut h)
    fun _ => iteInduction (fun _ => iteInduction (fun _ => hP.foPut h) fun _ => hP.foPut h) fun _ => h

theorem Steady.axUnhold {P : Dev → Prop} (hP : Steady P) {n why : Nat} (hn : n < 12) {d : Dev} (h : P d) : P (d.axUnhold n why) := by
  unfold Dev.axUnhold
  exact iteInduction (fun _ => hP.axPut hn (hP.axisUpd (hP.axisUpd h))) fun _ => hP.axisUpd h

/-- The evaluation of the causes that lie outside Hem. -/
def Dev.holdRest (d : Dev) : Dev :=
  let d := d.hemHold 4 d.startFault
  let d := d.hemHold 8 d.holdReq
  d.hemHold 16 d.inLoss

/-- With no cause of a hold left, it leaves the hold as it is. -/
theorem Dev.holdRest_none {d x : Dev} (h : d.SameHold x) (hwhy : x.hem.why = 0) (hshow : x.bit HEM_STAT_HOLD = false)
    (hfree : x.holdFree) : d.holdRest = d.foHoldAll.foHoldAll.foHoldAll := by
  obtain ⟨hstart, -, -⟩ := h.holdFree hfree
  obtain ⟨-, hreq, -⟩ := h.foHoldAll.holdFree hfree
  obtain ⟨-, -, hloss⟩ := h.foHoldAll.foHoldAll.holdFree hfree
  unfold Dev.holdRest
  dsimp only
  rw [hstart, Dev.hemHold_none h hwhy hshow, hreq, Dev.hemHold_none h.foHoldAll hwhy hshow, hloss,
    Dev.hemHold_none h.foHoldAll.foHoldAll hwhy hshow]

/-- Hem's hold with READY reached and no other cause: the last cause ends (R298). -/
theorem Dev.holdEval_ends (d : Dev) (hwhy : d.hem.why = 2) (hhold : d.bit HEM_STAT_HOLD = true)
    (hready : d.bit SYS_PWRSTATE_READY = true) (hret : d.bothRetired = false) :
    d.holdEval = d.foHoldAll.freed.leaveHold.holdRest := by
  have hsame : d.foHoldAll.SameHold d := Dev.SameHold.foHoldAll ⟨rfl, rfl, fun _ _ => rfl⟩
  have hwhy' : d.foHoldAll.hem.why = 2 := (congrArg Hem.why hsame.1).trans hwhy
  have hbit : ∀ {f : Fld}, f.addr ∈ holdRegs → d.foHoldAll.bit f = d.bit f := fun hf =>
    congrArg (fun x => decide (x ≠ 0)) (hsame.get hf)
  have hfirst : d.hemHold 1 d.bothRetired = d.foHoldAll := by
    rw [hret]
    exact d.hemHold_absent (by rw [hwhy]; decide) (by rw [Dev.holdShown, hwhy, hhold]; simp)
  have hlast : d.foHoldAll.hemHold 2 (!d.foHoldAll.bit SYS_PWRSTATE_READY) = d.foHoldAll.freed.leaveHold := by
    rw [hbit (by decide), hready]
    exact d.foHoldAll.hemHold_last hwhy' ((hbit (by decide)).trans hhold)
  rw [← hlast, ← hfirst]
  rfl

theorem Dev.SameHold.leaveHold {d x : Dev} (h : d.SameHold x) : d.leaveHold.SameHold x :=
  kept_each (P := fun d => d.SameHold x) (h.raise (by decide)).foHoldAll fun hn h => h.axUnhold hn

theorem hold_ends (s : State) (hp : s.powered) (hhold : s.dev.get HEM_STAT_HOLD = 1) (hready : s.dev.get SYS_PWRSTATE_READY = 1)
    (hwhy : s.dev.hem.why = 2) (hret : s.dev.bothRetired = false) (hstart : s.dev.startFault = false)
    (hreq : s.dev.holdReq = false) (hloss : s.dev.inLoss = false) :
    Completes .hold s fun t => t.dev.get HEM_STAT_HOLD = 0 ∧ t.dev.hem.why = 0 ∧ Raised 741 s t := by
  refine completes_main (show exec _ _ = execHold s from rfl) hp ?_
  have hfirst : s.dev.foHoldAll.SameHold s.dev := Dev.SameHold.foHoldAll ⟨rfl, rfl, fun _ _ => rfl⟩
  generalize hx : s.dev.foHoldAll.freed = x
  have hwhyx : x.hem.why = 0 := hx ▸ Dev.freed_why _
  have hholdx : x.get HEM_STAT_HOLD = 0 := hx ▸ Dev.freed_hold _
  have hfree : x.holdFree := by
    rw [← hx]
    have hne : ∀ a ∈ causeRegs, a ≠ A_HEM_STAT := by decide
    exact (hfirst.holdFree ⟨hstart, hreq, hloss⟩).of_same (fun a ha => Dev.reg_freed_ne _ (hne a ha)) (Dev.freed_pwr _)
  have hsame : x.leaveHold.SameHold x := Dev.SameHold.leaveHold ⟨rfl, rfl, fun _ _ => rfl⟩
  have hdev : s.dev.holdEval = x.leaveHold.foHoldAll.foHoldAll.foHoldAll := by
    rw [s.dev.holdEval_ends hwhy (by simp [Dev.bit, hhold]) (by simp [Dev.bit, hready]) hret, hx]
    exact Dev.holdRest_none hsame hwhyx (by simp [Dev.bit, hholdx]) hfree
  have hend := hsame.foHoldAll.foHoldAll.foHoldAll
  have hst := steady_stamped s.dev.time (k := 741) (by decide)
  have htime : x.time = s.dev.time := by
    rw [← hx, Dev.freed_time]
    exact (quiet_time s.dev.time).foHoldAll rfl
  have hleft : x.leaveHold.stamped 741 s.dev.time :=
    kept_each (hst.foHoldAll (Dev.raise_stamped (by decide) htime)) fun hn h => hst.axUnhold hn h
  obtain ⟨-, hstamp⟩ := hst.foHoldAll (hst.foHoldAll (hst.foHoldAll hleft))
  show s.dev.holdEval.get HEM_STAT_HOLD = 0 ∧ s.dev.holdEval.hem.why = 0 ∧
    s.dev.holdEval.reg (A_EVR_STAMP 741) = BitVec.ofNat 64 s.dev.time
  rw [hdev]
  exact ⟨(hend.get (by decide)).trans hholdx, (congrArg Hem.why hend.1).trans hwhyx, hstamp⟩

/-- Settles O36: a trip's effects outlive the safe-state command that follows, and the hold ends with its last cause. -/
theorem hemCommandsComplete : Obligations.HemCommandsComplete := by
  unfold Obligations.HemCommandsComplete
  have hsix : ∀ (s : State) (g : Fin 2), s.dev.six = true → s.dev.limGrp g = 0 := fun s g h => if_pos h
  refine ⟨deratingUpdate_shows, fun s g hp hspeed => ?_, fun s g hp hon hudc => ?_, ?_⟩
  · refine completes_main (show exec _ _ = execHemSpeedTrip g s from rfl) hp ?_
    dsimp only
    rw [if_pos hspeed]
    exact hemSafe_trips s (s.dev.limGrp_lt g) (hsix s g) rfl (Nat.le_of_ble_eq_true rfl)
  · refine completes_main (show exec _ _ = execHemUdcTrip g s from rfl) hp ?_
    dsimp only
    rw [if_pos (by simp [hon, hudc])]
    exact hemSafe_trips s (s.dev.limGrp_lt g) (hsix s g) rfl (Nat.le_of_ble_eq_true rfl)
  · exact fun s hp _ hhold hready hwhy hret hstart hreq hloss => hold_ends s hp hhold hready hwhy hret hstart hreq hloss

end Sys2Proof.Machine
end

section
/-!
What every operation leaves true of a gate channel (R170, R185, R193): its gate is off, or both shut-off paths permit it, or a
discharge of GCH13's own high-voltage half runs. One rule for each operation of the device, in the order of the model's files, but
for those that may remove a path from a channel that conducts. A rule for any `R` serves a step in which no gate has turned on yet
as well; what turns gates on has its rule for `.on`.
-/
namespace Sys2Proof.Machine

/-- A channel, and whether its gate may be on. -/
structure GateRule where
  ch : Nat
  may : Prop

/-- The gate of the channel is off. -/
abbrev GateRule.off (ch : Nat) : GateRule := ⟨ch, False⟩

/-- The gate of the channel may be on. -/
abbrev GateRule.on (ch : Nat) : GateRule := ⟨ch, True⟩

/-- Both shut-off paths permit the high-voltage half. -/
def Gch.permitted (h : Gch) : Bool := h.link && h.permit1 && h.permit2

/-- The gate of the rule's channel is on only if the rule allows it and both paths permit the channel or its own run is on. -/
def Dev.Guarded (R : GateRule) (d : Dev) : Prop :=
  (d.gchAt R.ch).gate = true → R.may ∧ (d.permits R.ch = true ∨ (R.ch = 13 ∧ (d.gchAt R.ch).running = true))

/-- The update turns no gate on, and takes neither a path nor a run from a gate that stays on. -/
def Gch.Tame (f : Gch → Gch) : Prop :=
  ∀ h, (f h).gate = true → h.gate = true ∧ (h.permitted = true → (f h).permitted = true) ∧ (h.running = true → (f h).running = true)

theorem Gch.Tame.ite {c : Prop} [Decidable c] {f g : Gch → Gch} (hf : Gch.Tame f) (hg : Gch.Tame g) :
    Gch.Tame fun h => if c then f h else g h := by
  split <;> assumption

theorem Dev.permits_eq (d : Dev) (n : Nat) : d.permits n = (d.gchAt n).permitted := rfl

namespace Dev.Guarded

variable {R : GateRule} {d e : Dev} {ch : Nat}

/-- A gate that is off may be on. -/
theorem on (h : d.Guarded R) : d.Guarded (.on R.ch) := fun hg => ⟨trivial, (h hg).2⟩

/-- A change beside the gate channels keeps it. -/
theorem beside (h : d.Guarded R) {regs time frac mono free lims spool splTurn jnl pwr boot per fo fio car clu pos pair hem tgrp
    thm axis conn dtm adc aux refOut img slc egr port can dom eth sfl spih m0 m1 lu nfc flw dbgTrig dbg} :
    Dev.Guarded R ⟨regs, time, frac, mono, free, lims, spool, splTurn, jnl, pwr, boot, per, fo, fio, d.gch, car, clu, pos,
      pair, hem, tgrp, thm, axis, conn, dtm, adc, aux, refOut, img, slc, egr, port, can, dom, eth, sfl, spih, m0, m1, lu, nfc,
      flw, dbgTrig, dbg⟩ := h

/-- So does a tame update of a channel. -/
theorem gchUpd (h : d.Guarded R) {n : Nat} {f : Gch → Gch} (hf : Gch.Tame f) :
    (d.gchUpd n f).Guarded R := by
  by_cases hn : R.ch = n
  · rw [Dev.Guarded, Dev.permits_eq, hn, Dev.gchAt_gchUpd_same, ← hn]
    intro hg
    obtain ⟨hgate, hperm, hrun⟩ := hf _ hg
    exact (h hgate).imp_right (.imp hperm (.imp_right hrun))
  · rw [Dev.Guarded, Dev.permits_eq, Dev.gchAt_gchUpd_ne _ _ hn]
    exact h

/-- An update of a channel whose gate is off, and stays so, keeps it. -/
theorem gchUpdIdle (h : d.Guarded R) {n : Nat} {f : Gch → Gch} (hoff : (d.gchAt n).gate = false)
    (hf : ∀ h, (f h).gate = true → h.gate = true) : (d.gchUpd n f).Guarded R := by
  by_cases hn : R.ch = n
  · rw [Dev.Guarded, hn, Dev.gchAt_gchUpd_same]
    exact fun hg => absurd (hf _ hg) (by simp [hoff])
  · rw [Dev.Guarded, Dev.permits_eq, Dev.gchAt_gchUpd_ne _ _ hn]
    exact h

/-- An update that turns no gate on keeps a gate that is off. -/
theorem gchUpdOff (h : d.Guarded (.off ch)) {n : Nat} {f : Gch → Gch} (hf : ∀ h, (f h).gate = true → h.gate = true) :
    (d.gchUpd n f).Guarded (.off ch) := by
  by_cases hn : ch = n
  · subst hn
    rw [Dev.Guarded, Dev.gchAt_gchUpd_same]
    exact fun hg => ((h (hf _ hg)).1).elim
  · rw [Dev.Guarded, Dev.permits_eq, Dev.gchAt_gchUpd_ne _ _ hn]
    exact h

theorem setReg (h : d.Guarded R) {a : Nat} {v : BitVec 64} : (d.setReg a v).Guarded R := h

theorem set (h : d.Guarded R) {f : Fld} {v : Nat} : (d.set f v).Guarded R := h

theorem setI (h : d.Guarded R) {f : Fld} {v : Int} : (d.setI f v).Guarded R := h

theorem setB (h : d.Guarded R) {f : Fld} {b : Bool} : (d.setB f b).Guarded R := h

theorem setBits (h : d.Guarded R) {f : Fld} {v : Nat} : (d.setBits f v).Guarded R := h

theorem clrBits (h : d.Guarded R) {f : Fld} {v : Nat} : (d.clrBits f v).Guarded R := h

theorem add (h : d.Guarded R) {f : Fld} {n : Nat} : (d.add f n).Guarded R := h

theorem count (h : d.Guarded R) {f : Fld} : (d.count f).Guarded R := h

theorem ite {c : Prop} [Decidable c] (h : d.Guarded R) (h' : e.Guarded R) : (if c then d else e).Guarded R := by
  split <;> assumption

theorem when (h : d.Guarded R) {c : Bool} {f : Dev → Dev} (hf : ∀ {d}, d.Guarded R → (f d).Guarded R) : (d.when c f).Guarded R := by
  unfold Dev.when
  exact .ite (hf h) h

theorem each (h : d.Guarded R) {n : Nat} {f : Nat → Dev → Dev} (hf : ∀ {i d}, d.Guarded R → (f i d).Guarded R) :
    (d.each n f).Guarded R :=
  kept_each h fun _ => hf

/-! ## Sys2Proof/Machine/Ops.lean -/

theorem drawn (h : d.Guarded R) : d.drawn.Guarded R := h

theorem setSch (h : d.Guarded R) {c : Nat} {v : SpoolCh} : (d.setSch c v).Guarded R := h

theorem splQueue (h : d.Guarded R) {c : Nat} {rec : List (BitVec 64)} : (d.splQueue c rec).Guarded R := by
  unfold Dev.splQueue
  exact .ite (.count h) (.setSch h)

theorem splMade (h : d.Guarded R) {c : Nat} {rec : List (BitVec 64)} : (d.splMade c rec).Guarded R := by
  unfold Dev.splMade
  exact .ite h (.ite (.ite (.splQueue (.setSch h)) (.setSch h)) (.ite (.splQueue (.setSch h)) (.setSch h)))

theorem splFeed (h : d.Guarded R) {typ : Nat} {sel : Nat → Nat → Bool} {rec : List (BitVec 64)} :
    (d.splFeed typ sel rec).Guarded R :=
  by
  unfold Dev.splFeed
  exact .ite h (.each h fun h => .when h fun h => .splMade h)

theorem splStopDone (h : d.Guarded R) : d.splStopDone.Guarded R := by
  unfold Dev.splStopDone
  exact .ite h (.when (.each h fun h => .when h fun h => .setBits h) fun h => .set h)

theorem splFire (h : d.Guarded R) : d.splFire.Guarded R := by
  unfold Dev.splFire
  exact .splStopDone (.each (.setReg (.set (.set (.set h)))) fun h => .when h fun h => .setSch (.set h))

theorem splTrigger (h : d.Guarded R) : d.splTrigger.Guarded R := by
  unfold Dev.splTrigger
  exact .ite (.splFire h) (.ite (.count h) h)

theorem splEvent (h : d.Guarded R) {k : Nat} : (d.splEvent k).Guarded R := by
  unfold Dev.splEvent
  exact .when (.splFeed h) fun h => .splTrigger h

theorem evrKeep (h : d.Guarded R) {t k : Nat} : (d.evrKeep t k).Guarded R := by
  unfold Dev.evrKeep
  exact .ite (.beside h) h

theorem evrPend (h : d.Guarded R) {t k : Nat} : (d.evrPend t k).Guarded R := by
  unfold Dev.evrPend
  exact .ite (.count (.evrKeep h)) (.set (.evrKeep h))

theorem trigCause (h : d.Guarded R) {k : Nat} : (d.trigCause k).Guarded R := by
  unfold Dev.trigCause
  exact .ite (.each h fun h => .ite (.beside h) h) h

theorem raise (h : d.Guarded R) {k : Nat} : (d.raise k).Guarded R := by
  unfold Dev.raise
  exact .trigCause (.splEvent (.each (.setReg h) fun h => .when h fun h => .evrPend h))

theorem raiseIf (h : d.Guarded R) {on : Bool} {k : Nat} : (d.raiseIf on k).Guarded R := by
  unfold Dev.raiseIf
  exact .ite (.raise h) (.trigCause h)

theorem raiseLim (h : d.Guarded R) {k c T : Nat} : (d.raiseLim k c T).Guarded R := by
  unfold Dev.raiseLim
  exact .ite h (.raise (.beside h))

theorem evrClear (h : d.Guarded R) {t k : Nat} : (d.evrClear t k).Guarded R := by
  unfold Dev.evrClear
  exact .ite (.count (.set h)) h

theorem jnlPut (h : d.Guarded R) {fw : Bool} {e : JEntry} : (d.jnlPut fw e).Guarded R := by
  unfold Dev.jnlPut
  exact .ite (.raiseLim (.ite (.count (.beside h)) (.count (.beside h)))) (.set (.beside h))

theorem journal (h : d.Guarded R) {kind src origin : Nat} {data : List (BitVec 64)} :
    (d.journal kind src origin data).Guarded R := by
  unfold Dev.journal
  exact .jnlPut h

theorem flushStop (h : d.Guarded R) : d.flushStop.Guarded R := by
  unfold Dev.flushStop
  exact .ite (.set (.set h)) h

theorem jnlFault (h : d.Guarded R) {src fltAddr statAddr : Nat} : (d.jnlFault src fltAddr statAddr).Guarded R := by
  unfold Dev.jnlFault
  exact .journal h

theorem jnlThimble (h : d.Guarded R) {src : Nat} : (d.jnlThimble src).Guarded R := by
  unfold Dev.jnlThimble
  exact .journal h

theorem jnlHem (h : d.Guarded R) {src : Nat} : (d.jnlHem src).Guarded R := by
  unfold Dev.jnlHem
  exact .journal h

/-! ## Sys2Proof/Machine/Recs.lean -/

theorem foUpd (h : d.Guarded R) {n : Nat} {f : Fo → Fo} : (d.foUpd n f).Guarded R := h

theorem carUpd (h : d.Guarded R) {n : Nat} {f : Car → Car} : (d.carUpd n f).Guarded R := h

theorem cluUpd (h : d.Guarded R) {n : Nat} {f : Clu → Clu} : (d.cluUpd n f).Guarded R := h

theorem posUpd (h : d.Guarded R) {n : Nat} {f : Pos → Pos} : (d.posUpd n f).Guarded R := h

theorem pairUpd (h : d.Guarded R) {n : Nat} {f : Pair → Pair} : (d.pairUpd n f).Guarded R := h

theorem tgrpUpd (h : d.Guarded R) {n : Nat} {f : ThmGrp → ThmGrp} : (d.tgrpUpd n f).Guarded R := h

theorem axisUpd (h : d.Guarded R) {n : Nat} {f : Axis → Axis} : (d.axisUpd n f).Guarded R := h

theorem connUpd (h : d.Guarded R) {n : Nat} {f : Conn → Conn} : (d.connUpd n f).Guarded R := h

theorem adcUpd (h : d.Guarded R) {n : Nat} {f : Adc → Adc} : (d.adcUpd n f).Guarded R := h

theorem auxUpd (h : d.Guarded R) {n : Nat} {f : Aux → Aux} : (d.auxUpd n f).Guarded R := h

theorem slcUpd (h : d.Guarded R) {n : Nat} {f : Slice → Slice} : (d.slcUpd n f).Guarded R := h

theorem egrUpd (h : d.Guarded R) {n : Nat} {f : EGrp → EGrp} : (d.egrUpd n f).Guarded R := h

theorem portUpd (h : d.Guarded R) {n : Nat} {f : Port → Port} : (d.portUpd n f).Guarded R := h

theorem canUpd (h : d.Guarded R) {n : Nat} {f : Can → Can} : (d.canUpd n f).Guarded R := h

theorem luUpd (h : d.Guarded R) {n : Nat} {f : Lu → Lu} : (d.luUpd n f).Guarded R := h

/-! ## Sys2Proof/Machine/Map.lean -/

theorem busErr (h : d.Guarded R) {e : BusErr} : (d.busErr e).Guarded R := by
  unfold Dev.busErr
  exact .raise (by split <;> exact .count h)

/-! ## Sys2Proof/Machine/Clock.lean -/

theorem pllReq (h : d.Guarded R) {p : Nat} : (d.pllReq p).Guarded R := by
  unfold Dev.pllReq
  exact .ite (.set h) (.ite (.set h) h)

theorem pllRelease (h : d.Guarded R) {p : Nat} : (d.pllRelease p).Guarded R := by
  unfold Dev.pllRelease
  exact .ite (.set h) h

theorem pllEval (h : d.Guarded R) {p : Nat} : (d.pllEval p).Guarded R := by
  unfold Dev.pllEval
  exact .ite (.pllReq h) (.pllRelease h)

theorem clkEval (h : d.Guarded R) : d.clkEval.Guarded R := by
  unfold Dev.clkEval
  exact .each h fun h => .pllEval h

/-! ## Sys2Proof/Machine/Safe.lean -/

theorem eachOf {α : Type} (h : d.Guarded R) {l : List α} {f : α → Dev → Dev}
    (hf : ∀ {a d}, d.Guarded R → (f a d).Guarded R) : (d.eachOf l f).Guarded R := by
  unfold Dev.eachOf
  induction l generalizing d with
  | nil => exact h
  | cons a l ih => exact ih (hf h)

theorem foPut (h : d.Guarded R) {n st drive : Nat} : (d.foPut n st drive).Guarded R := by
  unfold Dev.foPut
  exact .foUpd (.setB (.set (.when h fun h => .set h)))

theorem foResume (h : d.Guarded R) {n : Nat} : (d.foResume n).Guarded R := by
  unfold Dev.foResume
  exact .ite (.set (.foPut h)) (.foPut h)

theorem foHold (h : d.Guarded R) {n : Nat} : (d.foHold n).Guarded R := by
  unfold Dev.foHold
  exact .ite h (.ite (.ite h (.foPut h)) (.ite (.ite (.foPut h) (.foPut h)) h))

theorem foHoldAll (h : d.Guarded R) : d.foHoldAll.Guarded R := by
  unfold Dev.foHoldAll
  exact .each h fun h => .foHold h

theorem axPut (h : d.Guarded R) {n st : Nat} : (d.axPut n st).Guarded R := by
  unfold Dev.axPut
  exact .ite h (.clkEval (.raise (.set h)))

theorem axBridgesOff (h : d.Guarded R) {n : Nat} : (d.axBridgesOff n).Guarded R := h

theorem blindShow (h : d.Guarded R) {n : Nat} : (d.blindShow n).Guarded R := by
  unfold Dev.blindShow
  exact .ite (.when h fun h => .axisUpd h) (.raise (.setB (.when h fun h => .axisUpd h)))

theorem axHalt (h : d.Guarded R) {n : Nat} : (d.axHalt n).Guarded R := by
  unfold Dev.axHalt
  exact .blindShow (.axisUpd (.set h))

theorem axHold (h : d.Guarded R) {n why : Nat} : (d.axHold n why).Guarded R := by
  unfold Dev.axHold
  exact .ite (.axPut (.axBridgesOff (.axHalt (.set (.ite (.set (.axisUpd h)) (.axisUpd h)))))) (.axisUpd h)

theorem axUnhold (h : d.Guarded R) {n why : Nat} : (d.axUnhold n why).Guarded R := by
  unfold Dev.axUnhold
  exact .ite (.axPut (.axisUpd (.axisUpd h))) (.axisUpd h)

theorem gateOffBy (h : d.Guarded R) {n s : Nat} : (d.gateOffBy n s).Guarded R := by
  unfold Dev.gateOffBy
  exact .ite (.set (.gchUpd h fun _ hg => (Bool.false_ne_true hg).elim)) h

theorem gateOff (h : d.Guarded R) {n : Nat} : (d.gateOff n).Guarded R := by
  unfold Dev.gateOff
  exact .gateOffBy h

theorem gateOnBy (h : d.Guarded (.on ch)) {n t s : Nat} (hp : d.permits n = true) : (d.gateOnBy n t s).Guarded (.on ch) := by
  unfold Dev.gateOnBy
  refine .ite h (.set ?_)
  by_cases hn : ch = n
  · subst hn
    rw [Dev.Guarded, Dev.permits_eq, Dev.gchAt_gchUpd_same]
    exact fun _ => ⟨trivial, .inl hp⟩
  · rw [Dev.Guarded, Dev.permits_eq, Dev.gchAt_gchUpd_ne _ _ hn]
    exact h

theorem gateOnAt (h : d.Guarded (.on ch)) {n t : Nat} (hp : d.permits n = true) : (d.gateOnAt n t).Guarded (.on ch) := by
  unfold Dev.gateOnAt
  exact .gateOnBy h hp

theorem gchPut (h : d.Guarded R) {n st : Nat} : (d.gchPut n st).Guarded R := h

theorem gchOff (h : d.Guarded R) {n : Nat} : (d.gchOff n).Guarded R := by
  unfold Dev.gchOff
  exact .gchPut (.gateOff h)

theorem driveEval (h : d.Guarded R) {n : Nat} : (d.driveEval n).Guarded R := by
  unfold Dev.driveEval
  exact .ite (.gchPut h) (.ite (.gchOff h) h)

theorem showAsc (h : d.Guarded R) : d.showAsc.Guarded R := by
  unfold Dev.showAsc
  exact .each h fun h => .ite (.setBits (.ite (.setBits (.setB h)) (.clrBits (.setB h)))) (.clrBits (.ite (.setBits (.setB h))
    (.clrBits (.setB h))))

theorem ascSwitch (h : d.Guarded (.on ch)) {m n : Nat} : (d.ascSwitch m n).Guarded (.on ch) := by
  unfold Dev.ascSwitch
  refine .ite h ?_
  split
  next hc =>
    have hp : d.permits n = true := by
      simp only [Bool.and_eq_true] at hc
      obtain ⟨⟨⟨⟨-, hp⟩, -⟩, -⟩, -⟩ := hc
      exact hp
    exact .ite (.gchPut (.gateOnAt h hp)) h
  · exact .ite (.gchOff h) h

theorem applySet (h : d.Guarded (.on ch)) {g : Nat} : (d.applySet g).Guarded (.on ch) := by
  unfold Dev.applySet
  exact .set (.eachOf (.eachOf (.showAsc h) fun h => .ascSwitch h) fun h => .ascSwitch h)

theorem applySafe (h : d.Guarded (.on ch)) {g : Nat} : (d.applySafe g).Guarded (.on ch) := by
  unfold Dev.applySafe
  exact .eachOf h fun h => .applySet h

theorem carIdle (h : d.Guarded R) {c : Nat} : (d.carIdle c).Guarded R := by
  unfold Dev.carIdle
  exact .ite h (.each (.set (.carUpd h)) fun h => .gchUpd h (by exact fun _ hg => ⟨hg, id, id⟩))

theorem cluPut1 (h : d.Guarded R) {g st : Nat} : (d.cluPut1 g st).Guarded R := by
  unfold Dev.cluPut1
  extract_lets _ d1 d2
  have h1 : d1.Guarded R := .raise (.set h)
  have h2 : d2.Guarded R := .ite (.ite h1 (.set h1)) (.set (.carIdle h1))
  exact .ite h (.clkEval (.eachOf (.ite (.ite (.cluUpd h2) h2) (.set (.cluUpd h2))) fun h => .driveEval h))

theorem cluPut (h : d.Guarded R) {g st : Nat} : (d.cluPut g st).Guarded R := by
  unfold Dev.cluPut
  exact .eachOf h fun h => .cluPut1 h

theorem posStamp (h : d.Guarded R) {p : Nat} : (d.posStamp p).Guarded R := h

theorem posSrc (h : d.Guarded R) {p src off : Nat} : (d.posSrc p src off).Guarded R := by
  unfold Dev.posSrc
  exact .raise (.posStamp (.set h))

theorem alignAbort (h : d.Guarded R) {g : Nat} : (d.alignAbort g).Guarded R := by
  unfold Dev.alignAbort
  split; exacts [h, .ite (.raise (.posSrc (.set (.posUpd h)))) h]

theorem cluSafe (h : d.Guarded R) {g : Nat} : (d.cluSafe g).Guarded R := by
  unfold Dev.cluSafe
  exact .ite (.cluPut (.alignAbort h)) h

theorem brakeShow1 (h : d.Guarded R) {n : Nat} {on : Bool} : (d.brakeShow1 n on).Guarded R := by
  unfold Dev.brakeShow1
  exact .foPut (.set h)

theorem brakeShow (h : d.Guarded R) : d.brakeShow.Guarded R := by
  unfold Dev.brakeShow
  exact .setB (.brakeShow1 (.brakeShow1 h))

theorem brakeApply (h : d.Guarded R) : d.brakeApply.Guarded R := by
  unfold Dev.brakeApply
  exact .when (.set (.set (.brakeShow (.beside h)))) fun h => .raise h

theorem brakeFor (h : d.Guarded R) {g : Nat} : (d.brakeFor g).Guarded R := by
  unfold Dev.brakeFor
  exact .when h fun h => .brakeApply h

theorem disEnd (h : d.Guarded R) {why st : Nat} : (d.disEnd why st).Guarded R := by
  unfold Dev.disEnd
  extract_lets d1 d2
  have h1 : d1.Guarded R := .set (.set (.gchPut (.gateOff h)))
  have h2 : d2.Guarded R := .gchUpdIdle h1 (d.gchAt_gateOff 13).1 fun _ hg => hg
  exact .raise (.beside h2)

theorem disBegin (h : d.Guarded (.on ch)) (hp : d.permits 13 = true) : d.disBegin.Guarded (.on ch) := by
  unfold Dev.disBegin
  extract_lets d1
  have h1 : d1.Guarded (.on ch) := .set (.gchPut (.gateOnAt h hp))
  have h2 : (d1.gchUpd 13 fun h => { h with running := true }).Guarded (.on ch) := .gchUpd h1 fun _ hg => ⟨hg, id, fun _ => rfl⟩
  exact .raise (.count h2)

theorem disCommand (h : d.Guarded (.on ch)) : d.disCommand.Guarded (.on ch) := by
  unfold Dev.disCommand
  split
  next hc => exact .beside (.disBegin h hc.2)
  · exact h

/-- Both paths permit the channel. -/
theorem setPaths (h : d.Guarded R) {n : Nat} : (d.setPaths n true true).Guarded R :=
  .gchUpd h fun _ hg => ⟨hg, fun hp => by simp [Gch.permitted] at hp ⊢; exact hp.1.1, id⟩

theorem carFollow (h : d.Guarded R) : d.carFollow.Guarded R := by
  unfold Dev.carFollow
  exact .ite (.carUpd (.setB h)) h

theorem carBegin (h : d.Guarded R) {c : Nat} : (d.carBegin c).Guarded R := h

theorem permitGroup (h : d.Guarded R) {g : Nat} : (d.permitGroup g).Guarded R := by
  unfold Dev.permitGroup
  exact .eachOf h fun h => .eachOf h fun h => .ite (.driveEval (.setPaths h)) h

theorem thmPut (h : d.Guarded R) {g st : Nat} : (d.thmPut g st).Guarded R := by
  unfold Dev.thmPut
  exact .ite h (.jnlThimble (.raise (.eachOf h fun h => .ite (.set h) (.tgrpUpd (.set (.set h))))))

theorem thmSafe (h : d.Guarded R) {g : Nat} : (d.thmSafe g).Guarded R := by
  unfold Dev.thmSafe
  exact .ite (.brakeFor (.thmPut h)) h

theorem groupSafe (h : d.Guarded (.on ch)) {g : Nat} {cmd : Bool} : (d.groupSafe g cmd).Guarded (.on ch) := by
  unfold Dev.groupSafe
  exact .applySafe (.when (.cluSafe h) fun h => .thmSafe h)

theorem showDemand (h : d.Guarded R) {g : Nat} : (d.showDemand g).Guarded R := by
  unfold Dev.showDemand
  exact .eachOf h fun h => .set h

theorem hemSafe (h : d.Guarded (.on ch)) {g : Nat} : (d.hemSafe g).Guarded (.on ch) := by
  unfold Dev.hemSafe
  exact .groupSafe (.jnlHem (.raise h))

theorem hemHold (h : d.Guarded (.on ch)) {why : Nat} {on : Bool} : (d.hemHold why on).Guarded (.on ch) := by
  unfold Dev.hemHold
  extract_lets _ _ d1 _ d2
  have h1 : d1.Guarded (.on ch) := .beside h
  have h2 : d2.Guarded (.on ch) := .foHoldAll (.raise (.set h1))
  exact .ite (.foHoldAll h1) (.ite (.eachOf (.each h2 fun h => .axHold h) fun h => .hemSafe h) (.each (.foHoldAll (.raise
    (.set h1))) fun h => .axUnhold h))

theorem thmLatch (h : d.Guarded R) {bit src : Nat} : (d.thmLatch bit src).Guarded R := by
  unfold Dev.thmLatch
  exact .ite h (.jnlThimble (.setBits h))

/-! ## Sys2Proof/Machine/Switch.lean -/

theorem carApply (h : d.Guarded R) {c k : Nat} : (d.carApply c k).Guarded R := by
  unfold Dev.carApply
  exact .ite h (.ite (.carUpd h) (.gchUpd (.carUpd h) (by exact fun _ hg => ⟨hg, id, id⟩)))

theorem carCmd (h : d.Guarded R) {c k : Nat} {on : Bool} : (d.carCmd c k on).Guarded R := by
  unfold Dev.carCmd
  exact .carApply (.carUpd h)

theorem carRelease (h : d.Guarded R) {c : Nat} : (d.carRelease c).Guarded R := by
  unfold Dev.carRelease
  exact .each h fun h => .ite (.carApply (.carUpd h)) h

theorem brakePulse (h : d.Guarded R) : d.brakePulse.Guarded R := by
  unfold Dev.brakePulse
  exact .ite (.raiseIf (.carCmd (.carRelease (.set (.driveEval (.carUpd h)))))) h

theorem brakeDirect (h : d.Guarded R) : d.brakeDirect.Guarded R := by
  unfold Dev.brakeDirect
  exact .ite h (.brakePulse (.carUpd (.jnlFault (.raise (.set h)))))

theorem brakeClock (h : d.Guarded R) : d.brakeClock.Guarded R := by
  unfold Dev.brakeClock
  exact .when h fun h => .brakeDirect h

theorem showFrozen (h : d.Guarded R) : d.showFrozen.Guarded R := by
  unfold Dev.showFrozen
  exact .brakeClock (.carFollow (.each h fun h => .ite h (.ite (.carUpd (.set (.set h))) (.when (.carUpd (.set h)) fun h =>
    .brakePulse h))))

theorem freezeEnd (h : d.Guarded (.on ch)) : d.freezeEnd.Guarded (.on ch) := by
  unfold Dev.freezeEnd
  exact .ite (.eachOf (.raise (.showFrozen (.set h))) fun h => .when h fun h => .hemSafe h) h

theorem epochRestart (h : d.Guarded R) {p : Nat} : (d.epochRestart p).Guarded R := h

theorem resumeAll (h : d.Guarded (.on ch)) : d.resumeAll.Guarded (.on ch) := by
  unfold Dev.resumeAll
  exact .freezeEnd (.set (.each h fun h => .when h fun h => .epochRestart h))

/-! ## Sys2Proof/Machine/Persist.lean -/

theorem showRec (h : d.Guarded R) {e : Nat × BitVec 64} : (d.showRec e).Guarded R := h

theorem showSet (h : d.Guarded R) : d.showSet.Guarded R := by
  unfold Dev.showSet
  split; exacts [(.eachOf h fun h => .showRec h), h]

theorem dtmRate (h : d.Guarded R) : d.dtmRate.Guarded R := h

theorem trimLoad (h : d.Guarded R) : d.trimLoad.Guarded R := h

theorem showLog (h : d.Guarded R) : d.showLog.Guarded R := h

theorem showUnlock (h : d.Guarded R) : d.showUnlock.Guarded R := h

/-! ## Sys2Proof/Machine/Reset.lean -/

theorem copyFld (h : d.Guarded R) {f : Fld} : (d.copyFld e f).Guarded R := h

theorem tagShow (h : d.Guarded R) : d.tagShow.Guarded R := h

/-- The half of a channel loses its link, and its gate goes off but for a run of its own. -/
theorem unlinked (h : d.Guarded (.off ch)) {n now k : Nat} : (d.gchUpd n fun h => h.unlinked now k).Guarded (.off ch) :=
  .gchUpdOff h fun _ hg => (Bool.and_eq_true_iff.mp hg).1

theorem mainReset (h : d.Guarded (.off ch)) : d.mainReset.Guarded (.off ch) := by
  unfold Dev.mainReset
  extract_lets _ _ e
  have he : e.Guarded (.off ch) := .eachOf (.beside h) fun h => .copyFld h
  exact .each (.tagShow (.ite (.showLog (.showSet (.set he))) he)) fun h => .unlinked h

theorem powerOn (h : d.Guarded (.off ch)) : d.powerOn.Guarded (.off ch) := by
  unfold Dev.powerOn
  exact .each (.tagShow (.beside h)) fun h => .unlinked h

theorem refAtStart (h : d.Guarded R) : d.refAtStart.Guarded R := by
  unfold Dev.refAtStart
  exact .ite (.each (.set h) fun h => .raise h) h

theorem wake (h : d.Guarded (.off ch)) {f : Fld} {v : Nat} : (d.wake f v).Guarded (.off ch) := by
  unfold Dev.wake
  exact .ite (.beside (.set (.setBits (.mainReset h)))) (.ite (.clkEval (.beside (.set (.setBits (.set h))))) (.ite (.setBits
    h) h))

theorem clockSafe (h : d.Guarded (.on ch)) : d.clockSafe.Guarded (.on ch) := by
  unfold Dev.clockSafe
  extract_lets _ d1
  have h1 : d1.Guarded (.on ch) := .each (.eachOf h fun h => .groupSafe h) fun h => .ite h (.axPut (.axBridgesOff
    (.axHalt (.set h))))
  exact .brakeApply (.each h1 fun h => .ite h (.foPut (.set h)))

theorem pllFault (h : d.Guarded (.on ch)) {p : Nat} : (d.pllFault p).Guarded (.on ch) := by
  unfold Dev.pllFault
  exact .clockSafe (.raise (.showFrozen (.set h)))

/-! ## Sys2Proof/Machine/Sequencer.lean -/

theorem adcMux (h : d.Guarded R) {n i : Nat} : (d.adcMux n i).Guarded R := h

theorem adcEntry (h : d.Guarded R) {n k : Nat} : (d.adcEntry n k).Guarded R := h

theorem adcStart (h : d.Guarded R) {n : Nat} : (d.adcStart n).Guarded R := h

theorem adcRun (h : d.Guarded R) {n : Nat} : (d.adcRun n).Guarded R := by
  unfold Dev.adcRun
  exact .ite h (.ite (.count h) (.ite (.adcStart (.clkEval (.set h))) (.adcUpd (.clkEval (.set h)))))

theorem adcLost (h : d.Guarded R) {n : Nat} : (d.adcLost n).Guarded R := by
  unfold Dev.adcLost
  exact .raise (.count h)

theorem adcStop (h : d.Guarded R) {n : Nat} : (d.adcStop n).Guarded R := by
  unfold Dev.adcStop
  extract_lets _ d1
  have h1 : d1.Guarded R := .each h fun h => .adcLost h
  exact .ite h (.ite (.clkEval (.adcUpd (.set h))) (.ite (.count h) (.clkEval (.adcUpd (.set (.set (.set (.set h1))))))))

theorem adcTrig1 (h : d.Guarded R) {k n : Nat} : (d.adcTrig1 k n).Guarded R := by
  unfold Dev.adcTrig1
  exact .ite (.adcUpd h) h

theorem adcTrig (h : d.Guarded R) {k : Nat} : (d.adcTrig k).Guarded R := by
  unfold Dev.adcTrig
  exact .each h fun h => .adcTrig1 h

theorem frameStart (h : d.Guarded R) {p : Nat} : (d.frameStart p).Guarded R := by
  unfold Dev.frameStart
  exact .ite (.posUpd h) h

theorem posMark (h : d.Guarded R) {g : Nat} : (d.posMark g).Guarded R := by
  unfold Dev.posMark
  split; exacts [(.when h fun h => .frameStart h), h]

theorem urgBegin (h : d.Guarded R) {n who i count : Nat} : (d.urgBegin n who i count).Guarded R := h

theorem urgShow (h : d.Guarded R) {n : Nat} : (d.urgShow n).Guarded R := h

theorem urgQueue (h : d.Guarded R) {n who i count : Nat} : (d.urgQueue n who i count).Guarded R := by
  unfold Dev.urgQueue
  exact .ite (.urgShow (.adcUpd h)) (.ite (.adcLost h) (.urgShow (.adcUpd (.adcLost h))))

theorem urgRequest (h : d.Guarded R) {n who i count : Nat} : (d.urgRequest n who i count).Guarded R := by
  unfold Dev.urgRequest
  exact .ite (.adcLost h) (.ite (.urgQueue h) (.ite (.urgQueue h) (.urgBegin (.when h fun h => .raise (.count (.adcUpd h))))))

theorem urgWrite (h : d.Guarded R) {n i count : Nat} : (d.urgWrite n i count).Guarded R := by
  unfold Dev.urgWrite
  exact .ite h (.urgRequest h)

/-! ## Sys2Proof/Machine/Pos.lean -/

theorem posShow (h : d.Guarded R) {p : Nat} : (d.posShow p).Guarded R := h

theorem posShowValid (h : d.Guarded R) {p : Nat} : (d.posShowValid p).Guarded R := h

theorem posLost (h : d.Guarded (.on ch)) {p : Nat} : (d.posLost p).Guarded (.on ch) := by
  unfold Dev.posLost
  extract_lets; split; exacts [.hemSafe (.posSrc h), .posSrc h]

theorem slsTake (h : d.Guarded R) {p : Nat} : (d.slsTake p).Guarded R := h

theorem slsEnter (h : d.Guarded R) {p off : Nat} : (d.slsEnter p off).Guarded R := by
  unfold Dev.slsEnter
  exact .posShow (.posSrc (.posUpd (.slsTake h)))

theorem posFall (h : d.Guarded (.on ch)) {p : Nat} : (d.posFall p).Guarded (.on ch) := by
  unfold Dev.posFall
  exact .ite h (.ite (.slsEnter h) (.posLost h))

theorem posUnindex (h : d.Guarded R) {p : Nat} : (d.posUnindex p).Guarded R := h

theorem posSensorFault (h : d.Guarded (.on ch)) {p : Nat} : (d.posSensorFault p).Guarded (.on ch) := by
  unfold Dev.posSensorFault
  exact .ite h (.posFall (.posShowValid (.posUnindex (.posUpd h))))

theorem posCause (h : d.Guarded R) {p bits : Nat} : (d.posCause p bits).Guarded R := by
  unfold Dev.posCause
  exact .when (.posUpd (.setBits h)) fun h => .raise h

theorem posBad (h : d.Guarded (.on ch)) {p bits : Nat} : (d.posBad p bits).Guarded (.on ch) := by
  unfold Dev.posBad
  exact .when (.posUpd (.posCause (.count h))) fun h => .posSensorFault h

theorem posImmediate (h : d.Guarded (.on ch)) {p bits : Nat} : (d.posImmediate p bits).Guarded (.on ch) := by
  unfold Dev.posImmediate
  exact .posSensorFault (.posCause h)

theorem posFaultEnd (h : d.Guarded R) {p : Nat} : (d.posFaultEnd p).Guarded R := by
  unfold Dev.posFaultEnd
  exact .posShowValid (.when h fun h => .posUpd h)

theorem posClear (h : d.Guarded R) {p mask : Nat} : (d.posClear p mask).Guarded R := by
  unfold Dev.posClear
  exact .posFaultEnd (.when (.clrBits h) fun h => .set h)

theorem obsStep (h : d.Guarded R) {p : Nat} {e : Int} {tau : Nat} : (d.obsStep p e tau).Guarded R := h

theorem posTaken (h : d.Guarded (.on ch)) {p : Nat} : (d.posTaken p).Guarded (.on ch) := by
  unfold Dev.posTaken
  exact .posShow (.posFaultEnd (.when (.posStamp (.posUpd h)) fun h => .posImmediate h))

theorem posReading (h : d.Guarded (.on ch)) {p : Nat} {a : Int} : (d.posReading p a).Guarded (.on ch) := by
  unfold Dev.posReading
  exact .ite (.posTaken (.posUpd h)) (.ite (.posBad h) (.posTaken (.obsStep h)))

theorem pairDrop (h : d.Guarded (.on ch)) {p : Nat} : (d.pairDrop p).Guarded (.on ch) := by
  unfold Dev.pairDrop
  exact .posBad (.count (.posUpd h))

theorem demod (h : d.Guarded (.on ch)) {p : Nat} {rs rc : BitVec 64} : (d.demod p rs rc).Guarded (.on ch) := by
  unfold Dev.demod
  extract_lets _ _ _ d1
  have h1 : d1.Guarded (.on ch) := .posUpd h
  exact .ite (.pairDrop h) (by split; exacts [.ite (.posBad (.set h1)) (.posReading (.set h1)), h1])

theorem posExc (h : d.Guarded R) {p : Nat} {v : Int} : (d.posExc p v).Guarded R := h

theorem excDrop (h : d.Guarded R) : d.excDrop.Guarded R := by
  unfold Dev.excDrop
  exact .ite h (.each h fun h => .posUpd h)

theorem posSlot (h : d.Guarded (.on ch)) {k : Nat} {rec : BitVec 64} : (d.posSlot k rec).Guarded (.on ch) := by
  unfold Dev.posSlot
  refine .ite h (.each h fun h => .ite h ?_)
  extract_lets d1 d2 d3
  have h1 : d1.Guarded (.on ch) := .ite (.posExc h) h
  have h2 : d2.Guarded (.on ch) := .ite (.posUpd h1) h1
  have h3 : d3.Guarded (.on ch) := .ite (.posUpd h2) h2
  exact .ite h1 (by split; exacts [.demod h3, h3])

theorem posFrame (h : d.Guarded (.on ch)) {p data at_ : Nat} : (d.posFrame p data at_).Guarded (.on ch) := by
  unfold Dev.posFrame
  exact .ite (.posBad h) (.ite (.posBad h) (.posReading (.posUpd h)))

theorem posRewrite (h : d.Guarded R) {p : Nat} : (d.posRewrite p).Guarded R := by
  unfold Dev.posRewrite
  exact .clkEval (.posShowValid (.posUnindex (.posUpd h)))

theorem posStart (h : d.Guarded (.on ch)) {g : Nat} : (d.posStart g).Guarded (.on ch) := by
  unfold Dev.posStart
  split; exacts [h, .ite (.posFall (.posSrc h)) (.posShow (.posSrc h))]

theorem posEnd (h : d.Guarded R) {g : Nat} : (d.posEnd g).Guarded R := by
  unfold Dev.posEnd
  split; exacts [h, (.when (.when h fun h => .raise (.set (.posUpd h))) fun h => .posShow (.posSrc h))]

theorem posSwap (h : d.Guarded (.on ch)) {p : Nat} {pub : Bool} {cmd0 : Int} : (d.posSwap p pub cmd0).Guarded (.on ch) := by
  unfold Dev.posSwap
  extract_lets _ d1 _ _ _ d2
  have h1 : d1.Guarded (.on ch) := .posShowValid (.when h fun h => .posUpd h)
  have h2 : d2.Guarded (.on ch) := .posUpd h1
  apply Guarded.ite (.posShow (.posUpd h1))
  exact .ite (.ite (.posShow (.posStamp (.posUpd (.slsTake h1)))) (.ite h1 (.ite (.posLost h2) h2))) h1

/-! ## Sys2Proof/Machine/Pwm.lean -/

theorem carHalf (h : d.Guarded R) {c : Nat} : (d.carHalf c).Guarded R := by
  unfold Dev.carHalf
  exact .when (.carUpd h) fun h => .raiseLim (.raise (.count h))

theorem carDead (h : d.Guarded R) {c : Nat} : (d.carDead c).Guarded R := by
  unfold Dev.carDead
  exact .each (.carUpd h) fun h => .raiseLim (.raise (.count h))

theorem carClamps (h : d.Guarded R) : d.carClamps.Guarded R := by
  unfold Dev.carClamps
  exact .each h fun h => .carDead h

theorem legEdge (h : d.Guarded R) {c x : Nat} {high : Bool} : (d.legEdge c x high).Guarded R := by
  unfold Dev.legEdge
  exact .ite h (.carCmd (.carUpd h))

theorem fltClear (h : d.Guarded R) {c mask : Nat} : (d.fltClear c mask).Guarded R := h

theorem carCommit (h : d.Guarded R) {c : Nat} {set : List (Nat × Nat)} : (d.carCommit c set).Guarded R := h

theorem carTransfer (h : d.Guarded R) {c slack : Nat} : (d.carTransfer c slack).Guarded R := by
  unfold Dev.carTransfer
  extract_lets; split; exacts [.carUpd h, .ite (.carUpd h) (.raise (.count (.carUpd h)))]

theorem carLeg (h : d.Guarded R) {c : Nat} {peak : Bool} {x : Nat} : (d.carLeg c peak x).Guarded R := by
  unfold Dev.carLeg
  extract_lets _ _ _ _ _ _ d1 _ _ _ _ d2 d3
  have h1 : d1.Guarded R := .set (.set h)
  have h2 : d2.Guarded R := .carUpd (.when h1 fun h => .raiseLim (.count h))
  have h3 : d3.Guarded R := .ite (.legEdge h2) h2
  exact .ite h2 (.ite (.carUpd h3) (.ite (.legEdge h3) (.carUpd h3)))

theorem carMarkEvent (h : d.Guarded R) {c : Nat} {peak : Bool} : (d.carMarkEvent c peak).Guarded R := by
  unfold Dev.carMarkEvent
  exact .raiseIf (.ite (.when h fun h => .adcTrig h) (.posMark (.when h fun h => .adcTrig h)))

theorem carMark (h : d.Guarded R) {c : Nat} {peak : Bool} {slack : Nat} : (d.carMark c peak slack).Guarded R := by
  unfold Dev.carMark
  extract_lets _ d1 _ _ d2 _ _ d3
  have h1 : d1.Guarded R := .carUpd (.ite (.carUpd h) (.ite h (.carHalf h)))
  have h2 : d2.Guarded R := .carTransfer (.setB h1)
  have h3 : d3.Guarded R := .each (.setB h2) fun h => .carLeg h
  exact .carMarkEvent (.carRelease (.when h3 fun h => .each h fun h => .carApply h))

theorem carStart (h : d.Guarded R) {c : Nat} : (d.carStart c).Guarded R := by
  unfold Dev.carStart
  extract_lets d1 d2
  have h1 : d1.Guarded R := .carBegin (.carUpd h)
  have h2 : d2.Guarded R := .ite (.carDead (.ite h1 (.carHalf h1))) h1
  exact .ite h (.when (.clkEval (.carFollow (.showFrozen (.set h2)))) fun h => .brakePulse h)

theorem carStop (h : d.Guarded R) {c : Nat} : (d.carStop c).Guarded R := by
  unfold Dev.carStop
  exact .clkEval (.showFrozen (.setReg (.carUpd (.carIdle h))))

theorem brakeEnd (h : d.Guarded R) : d.brakeEnd.Guarded R := by
  unfold Dev.brakeEnd
  exact .driveEval (.carCmd (.carUpd h))

theorem coffOn (h : d.Guarded R) {c : Nat} : (d.coffOn c).Guarded R := by
  unfold Dev.coffOn
  exact .eachOf (.carUpd h) fun h => .carCmd h

theorem coffOff (h : d.Guarded R) {c : Nat} : (d.coffOff c).Guarded R := by
  unfold Dev.coffOff
  exact .eachOf (.carUpd h) fun h => .carCmd h

theorem coffRecord (h : d.Guarded R) {c x : Nat} {r : BitVec 64} : (d.coffRecord c x r).Guarded R := by
  unfold Dev.coffRecord
  exact .ite (.raiseLim (.count (.coffOff h))) h

theorem freezeBegin (h : d.Guarded R) : d.freezeBegin.Guarded R := by
  unfold Dev.freezeBegin
  exact .ite (.raise (.showFrozen (.count (.set h)))) h

theorem debugHalt (h : d.Guarded R) {c : Nat} : (d.debugHalt c).Guarded R := by
  unfold Dev.debugHalt
  exact .ite h (.when (.freezeBegin (.setBits h)) fun h => .splTrigger h)

theorem debugResume (h : d.Guarded (.on ch)) {c : Nat} : (d.debugResume c).Guarded (.on ch) := by
  unfold Dev.debugResume
  exact .ite (.freezeEnd (.clrBits (.when h fun h => .epochRestart h))) (.clrBits (.when h fun h => .epochRestart h))

/-! ## Sys2Proof/Machine/Adc.lean -/

theorem cluRecord (h : d.Guarded R) {n : Nat} {r : BitVec 64} : (d.cluRecord n r).Guarded R := by
  unfold Dev.cluRecord
  exact .ite (.cluUpd h) (.ite (.cluUpd h) h)

theorem cluSats (h : d.Guarded R) {g : Nat} {l : List Int} : (d.cluSats g l).Guarded R := h

theorem cluVector (h : d.Guarded R) {g vec c : Nat} : (d.cluVector g vec c).Guarded R := by
  unfold Dev.cluVector
  exact .ite (.cluUpd (.cluSats h)) (.when h fun h => .count h)

theorem adcEmit (h : d.Guarded R) {n : Nat} {r : BitVec 64} : (d.adcEmit n r).Guarded R := by
  unfold Dev.adcEmit
  extract_lets _ d1 _ d2
  have h1 : d1.Guarded R := .when (.setReg h) fun h => .count h
  have h2 : d2.Guarded R := .cluRecord (.when h1 fun h => .count h)
  exact .splFeed (.ite (.coffRecord h2) h2)

theorem adcCount (h : d.Guarded R) {n : Nat} {r : BitVec 64} : (d.adcCount n r).Guarded R := h

theorem adcAperture (h : d.Guarded R) {n : Nat} {v : Conv} : (d.adcAperture n v).Guarded R := by
  unfold Dev.adcAperture
  exact .ite h (.ite (.adcUpd (.ite (.adcEmit h) h)) (.ite (.adcCount (.adcEmit h)) (.adcEmit h)))

theorem adcNext (h : d.Guarded R) {n : Nat} {next : Dev → Dev} (hn : ∀ {d}, d.Guarded R → (next d).Guarded R) :
    (d.adcNext n next).Guarded R := by
  unfold Dev.adcNext
  split; exacts [.urgBegin (.urgShow (.adcUpd h)), hn h]

theorem udcTake (h : d.Guarded R) {r : BitVec 64} : (d.udcTake r).Guarded R := by
  unfold Dev.udcTake
  exact .ite (.each h fun h => .cluUpd (.cluSats h)) h

theorem refEvt (h : d.Guarded R) : d.refEvt.Guarded R := by
  unfold Dev.refEvt
  exact .each h fun h => .raise h

theorem calInvalid (h : d.Guarded R) : d.calInvalid.Guarded R := h

theorem refBegin (h : d.Guarded R) : d.refBegin.Guarded R := by
  unfold Dev.refBegin
  exact .ite (.refEvt (.set h)) h

theorem refSelect (h : d.Guarded R) {sel : Nat} : (d.refSelect sel).Guarded R := by
  unfold Dev.refSelect
  extract_lets d1
  have h1 : d1.Guarded R := .set (.beside h)
  exact .ite (.ite h (.count h)) (.ite (.refBegin h1) (.ite (.refEvt (.set (.calInvalid (.set h1)))) h1))

theorem calBegin (h : d.Guarded R) {n : Nat} : (d.calBegin n).Guarded R := by
  unfold Dev.calBegin
  exact .clkEval (.setBits (.set h))

theorem calStart (h : d.Guarded R) {mask : Nat} : (d.calStart mask).Guarded R := by
  unfold Dev.calStart
  exact .each h fun h => .ite h (.ite (.calBegin h) (.count h))

theorem startDeferred (h : d.Guarded R) : d.startDeferred.Guarded R := by
  unfold Dev.startDeferred
  exact .each h fun h => .ite (.adcStart h) h

theorem calFailHold (h : d.Guarded (.on ch)) {n : Nat} : (d.calFailHold n).Guarded (.on ch) := by
  unfold Dev.calFailHold
  exact .eachOf h fun h => .when h fun h => .hemSafe h

theorem trimStart (h : d.Guarded R) : d.trimStart.Guarded R := by
  unfold Dev.trimStart
  exact .ite h (.ite (.set h) (.clkEval (.set h)))

theorem rwsRefuse (h : d.Guarded R) {o : Origin} : (d.rwsRefuse o).Guarded R := by
  unfold Dev.rwsRefuse
  exact .ite (.count h) (.count h)

theorem rwsStored (h : d.Guarded R) : d.rwsStored.Guarded R := h

theorem trimWrite (h : d.Guarded R) {o : Origin} : (d.trimWrite o).Guarded R := by
  unfold Dev.trimWrite
  exact .ite h (.ite (.trimStart (.rwsStored h)) (.rwsRefuse h))

/-! ## Sys2Proof/Machine/Gch.lean -/

theorem gchReport (h : d.Guarded R) {n bits : Nat} : (d.gchReport n bits).Guarded R := by
  unfold Dev.gchReport
  exact .each (.gchUpd (.setReg (.ite (.setReg h) h)) (by exact fun _ hg => ⟨hg, id, id⟩)) fun h => .when h fun h => .jnlFault
    (.raise h)

theorem gchShowCause (h : d.Guarded R) {n : Nat} : (d.gchShowCause n).Guarded R := h

theorem gchLatch (h : d.Guarded R) {n bits cause : Nat} : (d.gchLatch n bits cause).Guarded R := by
  unfold Dev.gchLatch
  exact .ite (.gchUpd h (by exact fun _ hg => ⟨hg, id, id⟩)) (.gchShowCause (.gchReport
    (.gchUpd h (by exact fun _ hg => ⟨hg, id, id⟩))))

theorem gchTrip (h : d.Guarded R) {n st : Nat} : (d.gchTrip n st).Guarded R := by
  unfold Dev.gchTrip
  exact .ite (.disEnd (.when h fun h => .gateOffBy h)) (.gchPut (.gateOff (.when h fun h => .gateOffBy h)))

theorem gchFault1 (h : d.Guarded R) {n bits cause : Nat} {soft : Bool} {from_ : List Nat} : (d.gchFault1 n bits cause soft
  from_).Guarded R := by
  unfold Dev.gchFault1
  extract_lets _ d1 d2
  have h1 : d1.Guarded R := .gchLatch h
  have h2 : d2.Guarded R := .ite (.gchUpd h1 (by exact fun _ hg => ⟨hg, id, id⟩)) h1
  exact .ite h (.ite (.ite (.gchUpd h2 fun _ hg => (Bool.false_ne_true hg).elim) h2) (.ite (.gchTrip h2) h2))

theorem gchGroupSafe (h : d.Guarded (.on ch)) {n : Nat} : (d.gchGroupSafe n).Guarded (.on ch) := by
  unfold Dev.gchGroupSafe
  exact .ite h (.ite (.groupSafe h) h)

theorem gchFault (h : d.Guarded (.on ch)) {n bits cause : Nat} {soft : Bool} {from_ : List Nat} : (d.gchFault n bits cause soft
  from_).Guarded (.on ch) := by
  unfold Dev.gchFault
  exact .gchGroupSafe (.eachOf h fun h => .gchFault1 h)

theorem supplyPut (h : d.Guarded R) {n : Nat} {vpos vneg : BitVec 8} : (d.supplyPut n vpos vneg).Guarded R := by
  unfold Dev.supplyPut
  exact .ite (.gchUpd h (by exact fun _ hg => ⟨hg, id, id⟩)) (.set (.set (.gchUpd h (by exact fun _ hg => ⟨hg, id, id⟩))))

theorem tableLoad (h : d.Guarded R) {n : Nat} : (d.tableLoad n).Guarded R := .gchUpd h (by exact fun _ hg => ⟨hg, id, id⟩)

theorem tableLoadAll (h : d.Guarded R) : d.tableLoadAll.Guarded R := by
  unfold Dev.tableLoadAll
  exact .each h fun h => .when h fun h => .tableLoad h

theorem edgeLearn (h : d.Guarded R) {n : Nat} {on : Bool} {ts : Option Nat} {code vdsOff : Nat} : (d.edgeLearn n on ts code
  vdsOff).Guarded R := by
  unfold Dev.edgeLearn
  extract_lets _ _ _ _ _ d1 _ _ _ d2 d3
  have h1 : d1.Guarded R := .gchUpd h (by exact fun _ hg => ⟨hg, id, id⟩)
  have h2 : d2.Guarded R := .gchUpd (.set (.set (.set h1)))
    (.ite (fun _ hg => ⟨hg, id, id⟩) fun _ hg => ⟨hg, id, id⟩)
  have h3 : d3.Guarded R := by unfold d3; split; exacts [.set (.gchUpd h2 (by exact fun _ hg => ⟨hg, id, id⟩)), .count h2]
  apply Guarded.ite h3
  split
  · exact .count h3
  · exact .ite (.count h3) (.ite h3 (.when (.count (.tableLoad (.set h3))) fun h => .raise h))

theorem sidesAgain (h : d.Guarded (.on ch)) : d.sidesAgain.Guarded (.on ch) := by
  unfold Dev.sidesAgain
  exact .each (.showAsc h) fun h => .ite (.applySet h) h

theorem trainDone (h : d.Guarded (.on ch)) {n : Nat} : (d.trainDone n).Guarded (.on ch) := by
  unfold Dev.trainDone
  extract_lets d1 _ d2 _ d3 _ _ _ d4 d5
  have h1 : d1.Guarded (.on ch) := .gchUpd h fun _ hg => ⟨hg, fun hp => by simp [Gch.permitted] at hp ⊢; exact ⟨hp.1.2, hp.2⟩, id⟩
  have h2 : d2.Guarded (.on ch) := .set (.set (.tableLoad h1))
  have h3 : d3.Guarded (.on ch) := .when (.clrBits (.setBits h2)) fun h => .setB h
  have h4 : d4.Guarded (.on ch) := .gchShowCause (.when h3 fun h => .gchReport h)
  have h5 : d5.Guarded (.on ch) := .ite (.setPaths h4) h4
  exact .foHoldAll (.sidesAgain (.driveEval (.gchPut (.when h5 fun h => .gateOff h))))

theorem supplyRead (h : d.Guarded R) {n : Nat} {r : Rails} : (d.supplyRead n r).Guarded R :=
  .gchUpd h (by exact fun _ hg => ⟨hg, id, id⟩)

theorem trainFail (h : d.Guarded R) {n : Nat} : (d.trainFail n).Guarded R :=
  .setBits (.gchUpd h (by exact fun _ hg => ⟨hg, id, id⟩))

theorem ascRelease (h : d.Guarded R) {g : Nat} : (d.ascRelease g).Guarded R := by
  unfold Dev.ascRelease
  exact .eachOf h fun h => .ite (.set (.eachOf h fun h => .ite (.gchOff h) h)) h

theorem gateDisable (h : d.Guarded R) : d.gateDisable.Guarded R := by
  unfold Dev.gateDisable
  exact .each (.set h) fun h => .ite (.gateOff h) (.gchTrip h)

theorem gateClear (h : d.Guarded R) {n : Nat} {stuck rising : Bool} : (d.gateClear n stuck rising).Guarded R := by
  unfold Dev.gateClear
  exact .ite (.gchPut (.gchShowCause (.setReg (.gchUpd h (by exact fun _ hg => ⟨hg, id, id⟩))))) (.gchShowCause (.setReg
    (.gchUpd h (by exact fun _ hg => ⟨hg, id, id⟩))))

theorem gateClearAll (h : d.Guarded (.on ch)) {stuck : Nat} {rising : Bool} : (d.gateClearAll stuck rising).Guarded (.on ch) := by
  unfold Dev.gateClearAll
  exact .each (.sidesAgain (.each h fun h => .gateClear h)) fun h => .driveEval h

/-! ## Sys2Proof/Machine/Clu.lean -/

theorem clampActs (h : d.Guarded R) {g kind : Nat} {f : Fld} {acts : Bool} : (d.clampActs g kind f acts).Guarded R := by
  unfold Dev.clampActs
  exact .ite h (.ite (.raiseLim (.count (.beside h))) (.beside h))

theorem takePair (h : d.Guarded R) {g : Nat} : (d.takePair g).Guarded R := by
  unfold Dev.takePair
  split; exacts [.cluUpd h, .ite (.cluUpd h) h]

theorem cluRefs (h : d.Guarded R) {g : Nat} : (d.cluRefs g).Guarded R := by
  unfold Dev.cluRefs
  exact .setReg (.clampActs (.clampActs (.clampActs (.cluSats (.setReg (.takePair h))))))

theorem cluPark (h : d.Guarded R) {g tm : Nat} : (d.cluPark g tm).Guarded R := h

theorem cluTrip (h : d.Guarded (.on ch)) {g : Nat} : (d.cluTrip g).Guarded (.on ch) := by
  unfold Dev.cluTrip
  exact .groupSafe h

theorem cluMeasure (h : d.Guarded (.on ch)) {g tm : Nat} : (d.cluMeasure g tm).Guarded (.on ch) := by
  unfold Dev.cluMeasure
  extract_lets _ _ _ _ _ _ _ d1 _ _ _ _ _ _ d2
  have h1 : d1.Guarded (.on ch) := .when (.cluUpd (.cluSats h)) fun h => .raise (.add (.set h))
  have h2 : d2.Guarded (.on ch) := .cluUpd (.cluSats h1)
  exact .ite (.when (.cluUpd h1) fun h => .cluTrip h) (.cluPark (.each (.when h2 fun h => .raise (.set h)) fun h => .setReg
    h))

theorem showRecon (h : d.Guarded R) {g : Nat} : (d.showRecon g).Guarded R := by
  unfold Dev.showRecon
  split; exacts [.set h, (.each (.set (.cluSats h)) fun h => .setReg h)]

theorem disagreeSats (h : d.Guarded R) {g : Nat} {rec : List Int} : (d.disagreeSats g rec).Guarded R := h

theorem cluDecide (h : d.Guarded (.on ch)) {g : Nat} : (d.cluDecide g).Guarded (.on ch) := by
  unfold Dev.cluDecide
  exact .ite (.jnlFault (.cluPut (.eachOf (.raise (.set (.set h))) fun h => .set h))) (.jnlFault (.cluTrip h))

theorem cluCompare (h : d.Guarded (.on ch)) {g : Nat} : (d.cluCompare g).Guarded (.on ch) := by
  unfold Dev.cluCompare
  extract_lets
  split
  · exact h
  · extract_lets d1 _ _ d2
    have h1 : d1.Guarded (.on ch) := .cluUpd (.disagreeSats h)
    have h2 : d2.Guarded (.on ch) := .cluUpd h1
    exact .ite h (.ite (.cluUpd h1) (.when (.raise (.set h2)) fun h => .cluDecide h))

theorem cluFromRecon (h : d.Guarded (.on ch)) {g tm : Nat} : (d.cluFromRecon g tm).Guarded (.on ch) := by
  unfold Dev.cluFromRecon
  split; exacts [.cluPark (.cluUpd h), .ite (.jnlFault (.cluTrip (.cluUpd h))) (.cluUpd h)]

theorem cluControl (h : d.Guarded R) {g : Nat} {rec : Bool} {half : Nat} : (d.cluControl g rec half).Guarded R := by
  unfold Dev.cluControl
  extract_lets d1 _ _ _ _ _ _ _ _ _ _ _ _ _ _ _ _ _ _ _ d2 _ d3
  have h1 : d1.Guarded R := .cluRefs h
  have h2 : d2.Guarded R := .cluUpd (.cluSats h1)
  have h3 : d3.Guarded R := .setB (.setB (.when h2 fun h => .raiseLim h))
  exact .setReg (.setReg (.setReg (.setReg h3)))

theorem cluPlan (h : d.Guarded R) {g tm : Nat} {fixed : Bool} {order : Nat × Nat × Nat} {rise fall : List Int} : (d.cluPlan g tm
  fixed order rise fall).Guarded R := by
  unfold Dev.cluPlan
  exact .ite (.cluUpd h) (by split; exact .when (.add (.cluUpd h)) fun h => .count h)

theorem cluRepeat (h : d.Guarded R) {g tm : Nat} : (d.cluRepeat g tm).Guarded R := by
  unfold Dev.cluRepeat
  exact .ite (.cluUpd h) (.ite (.cluUpd (.cluPlan h)) (.cluPlan h))

theorem dutySats (h : d.Guarded R) {g : Nat} {va vb : Int} : (d.dutySats g va vb).Guarded R := h

theorem cluModulate (h : d.Guarded R) {g tm : Nat} {peak : Bool} : (d.cluModulate g tm peak).Guarded R := by
  unfold Dev.cluModulate
  split; exact .cluUpd (.ite (.set (.dutySats h)) (.cluPlan (.set (.dutySats h))))

theorem cluSpool (h : d.Guarded R) {g tm : Nat} : (d.cluSpool g tm).Guarded R := by
  unfold Dev.cluSpool
  exact .each h fun h => by split; exacts [.splFeed h, h]

theorem cluInput (h : d.Guarded (.on ch)) {g tm : Nat} : (d.cluInput g tm).Guarded (.on ch) := by
  unfold Dev.cluInput
  extract_lets _ d1 d2 d3
  have h1 : d1.Guarded (.on ch) := .ite (.cluMeasure h) h
  have h2 : d2.Guarded (.on ch) := .showRecon h1
  have h3 : d3.Guarded (.on ch) := .ite (.cluCompare h2) h2
  exact .ite (.cluUpd h1) (.cluUpd (.ite (.cluFromRecon h3) h3))

theorem cluOutput (h : d.Guarded R) {g tm : Nat} : (d.cluOutput g tm).Guarded R := by
  unfold Dev.cluOutput
  exact .ite h (.ite (.cluSpool (.cluModulate (.cluControl h))) (.cluSpool (.ite h (.cluRepeat h))))

theorem cluTransfer (h : d.Guarded (.on ch)) {g : Nat} {bad : Bool} : (d.cluTransfer g bad).Guarded (.on ch) := by
  unfold Dev.cluTransfer
  exact .ite (.cluTrip (.raise (.set h))) (.ite h (.carCommit h))

theorem cluLasting (h : d.Guarded R) {g : Nat} : (d.cluLasting g).Guarded R := by
  unfold Dev.cluLasting
  exact .when (.when h fun h => .set h) fun h => .set h

theorem enableRefuse (h : d.Guarded R) {g why : Nat} : (d.enableRefuse g why).Guarded R := by
  unfold Dev.enableRefuse
  exact .set (.count (.eachOf (.when h fun h => .raiseLim (.count h)) fun h => .set h))

theorem enableTake (h : d.Guarded (.on ch)) {g : Nat} : (d.enableTake g).Guarded (.on ch) := by
  unfold Dev.enableTake
  extract_lets d1 _ d2
  have h1 : d1.Guarded (.on ch) := .eachOf h fun h => .set (.set (.setReg (.set (.set (.set (.cluUpd h))))))
  have h2 : d2.Guarded (.on ch) := .eachOf (.ascRelease h1) fun h => .set h
  exact .posStart (.eachOf (.cluPut h2) fun h => .urgRequest h)

theorem cluEnable (h : d.Guarded (.on ch)) {g : Nat} : (d.cluEnable g).Guarded (.on ch) := by
  unfold Dev.cluEnable
  exact .ite h (.ite (.enableTake h) (.enableRefuse h))

theorem cluOff (h : d.Guarded R) {g : Nat} : (d.cluOff g).Guarded R := by
  unfold Dev.cluOff
  exact .cluPut (.eachOf (.posEnd h) fun h => .set h)

theorem cluDisable (h : d.Guarded R) {g : Nat} : (d.cluDisable g).Guarded R := by
  unfold Dev.cluDisable
  exact .ite h (.cluOff h)

theorem sixSet (h : d.Guarded R) : d.sixSet.Guarded R := by
  unfold Dev.sixSet
  exact .cluPut1 (.set (.ite h (.posEnd h)))

theorem offsetStore (h : d.Guarded R) {g : Nat} : (d.offsetStore g).Guarded R := by
  unfold Dev.offsetStore
  exact .each h fun h => .ite h (.setI h)

/-! ## Sys2Proof/Machine/Align.lean -/

theorem alignFail (h : d.Guarded (.on ch)) {p res : Nat} : (d.alignFail p res).Guarded (.on ch) := by
  unfold Dev.alignFail
  exact .posLost (.raise (.set (.posUpd h)))

theorem alignDrive (h : d.Guarded R) {p : Nat} {v a : Int} : (d.alignDrive p v a).Guarded R := by
  unfold Dev.alignDrive
  split; exacts [h, (.eachOf h fun h => .carCommit (.dutySats h))]

theorem alignPulse (h : d.Guarded R) {p k : Nat} : (d.alignPulse p k).Guarded R := by
  unfold Dev.alignPulse
  exact .alignDrive (.posUpd h)

theorem alignEval (h : d.Guarded (.on ch)) {p : Nat} : (d.alignEval p).Guarded (.on ch) := by
  unfold Dev.alignEval
  exact .ite (.alignFail (.set h)) (.alignPulse (.posUpd (.set h)))

theorem alignMap (h : d.Guarded R) {p : Nat} {t0 : Int} : (d.alignMap p t0).Guarded R := by
  unfold Dev.alignMap
  exact .posSrc (.posUpd h)

theorem alignOpen (h : d.Guarded R) {p : Nat} {t0 : Int} : (d.alignOpen p t0).Guarded R := by
  unfold Dev.alignOpen
  exact .posSrc (.posUpd h)

theorem testRun (h : d.Guarded R) {p : Nat} : (d.testRun p).Guarded R := by
  unfold Dev.testRun
  split; exacts [.ite (.cluPut h) h, h]

theorem alignPass (h : d.Guarded (.on ch)) {p : Nat} {t0 : Int} : (d.alignPass p t0).Guarded (.on ch) := by
  unfold Dev.alignPass
  extract_lets _ d1 _ d2
  have h1 : d1.Guarded (.on ch) := .posUpd (.set (.set h))
  have h2 : d2.Guarded (.on ch) := .testRun (.ite (.alignMap h1) (.alignOpen h1))
  exact .ite (.posLost h2) (.posShow h2)

theorem alignPolarity (h : d.Guarded (.on ch)) {p : Nat} : (d.alignPolarity p).Guarded (.on ch) := by
  unfold Dev.alignPolarity
  exact .ite (.alignFail (.set h)) (.alignPass (.set h))

/-! ## Sys2Proof/Machine/Fio.lean -/

theorem foWrite (h : d.Guarded R) {n mode : Nat} : (d.foWrite n mode).Guarded R := by
  unfold Dev.foWrite
  extract_lets
  apply Guarded.ite h
  apply Guarded.ite (.raiseLim (.count h))
  apply Guarded.ite (.ite (.foPut (.set h)) (.set h))
  exact .ite (.ite (.foResume (.set h)) (.foPut (.set h))) (.ite (.ite (.foResume (.set h)) (.foPut (.set h))) (.set h))

theorem foCurrent (h : d.Guarded R) {n : Nat} {ma : BitVec 16} : (d.foCurrent n ma).Guarded R := by
  unfold Dev.foCurrent
  exact .when h fun h => .set h

theorem foFights (h : d.Guarded R) {b : Nat} {l : List Nat} : (d.foFights b l).Guarded R := by
  unfold Dev.foFights
  exact .eachOf h fun h => .setBits (.set (.foPut h))

theorem foLatch (h : d.Guarded R) {n cause : Nat} {fight : Bool} : (d.foLatch n cause fight).Guarded R := by
  unfold Dev.foLatch
  exact .raise (.foFights (.when (.foUpd (.setBits (.set (.foPut h)))) fun h => .setBits h))

theorem foClear (h : d.Guarded R) {n : Nat} : (d.foClear n).Guarded R := by
  unfold Dev.foClear
  exact .ite (.foHold (.set (.foResume (.clrBits h)))) (.clrBits h)

theorem foClearMask (h : d.Guarded R) {mask : Nat} : (d.foClearMask mask).Guarded R := by
  unfold Dev.foClearMask
  exact .each h fun h => .when h fun h => .foClear h

theorem diFiltered (h : d.Guarded R) {n : Nat} : (d.diFiltered n).Guarded R := by
  unfold Dev.diFiltered
  exact .ite (.beside h) (.raiseIf (.ite (.setBits (.beside h)) (.clrBits (.beside h))))

theorem diRaw (h : d.Guarded R) {n : Nat} {level : Bool} : (d.diRaw n level).Guarded R := by
  unfold Dev.diRaw
  extract_lets d1
  have h1 : d1.Guarded R := .ite (.setBits h) (.clrBits h)
  exact .ite h (.ite (.when (.beside h1) fun h => .count h) (.ite (.diFiltered h1) (.beside h1)))

/-! ## Sys2Proof/Machine/Stepper.lean -/

theorem coilClamp (h : d.Guarded R) {n : Nat} : (d.coilClamp n).Guarded R := by
  unfold Dev.coilClamp
  exact .when h fun h => .raiseLim (.count h)

theorem coilUpd (h : d.Guarded R) {n : Nat} {b : Bool} {f : Coil → Coil} : (d.coilUpd n b f).Guarded R := h

theorem thrCount (h : d.Guarded R) {n : Nat} {b up : Bool} : (d.thrCount n b up).Guarded R := by
  unfold Dev.thrCount
  exact .when h fun h => .count h

theorem chopLow (h : d.Guarded R) {n : Nat} {b : Bool} : (d.chopLow n b).Guarded R := h

theorem chopOn (h : d.Guarded R) {n : Nat} {b low : Bool} : (d.chopOn n b low).Guarded R := by
  unfold Dev.chopOn
  exact .ite (.coilUpd h) (.ite (.chopLow h) (.thrCount (.coilUpd h)))

theorem chopOff (h : d.Guarded R) {n : Nat} {b low : Bool} : (d.chopOff n b low).Guarded R := by
  unfold Dev.chopOff
  exact .ite (.chopLow h) (.thrCount (.coilUpd h))

theorem chopSum (h : d.Guarded R) {n : Nat} {b : Bool} {off : Nat} : (d.chopSum n b off).Guarded R := h

theorem bandTake (h : d.Guarded R) {n r : Nat} : (d.bandTake n r).Guarded R := by
  unfold Dev.bandTake
  exact .raise (.set (.set (.set h)))

theorem bandTick (h : d.Guarded R) {n : Nat} {rest : Bool} : (d.bandTick n rest).Guarded R := by
  unfold Dev.bandTick
  exact .ite (.set (.set h)) (.ite (.bandTake h) (.ite (.count (.bandTake h)) (.set (.set h))))

theorem homeFail (h : d.Guarded R) {n why : Nat} : (d.homeFail n why).Guarded R := by
  unfold Dev.homeFail
  exact .raise (.set (.set (.set h)))

theorem homeAbort (h : d.Guarded R) {n why : Nat} : (d.homeAbort n why).Guarded R := by
  unfold Dev.homeAbort
  exact .ite (.homeFail h) h

theorem axStop (h : d.Guarded R) {n : Nat} {e : Bool} : (d.axStop n e).Guarded R := by
  unfold Dev.axStop
  exact .axPut (.axisUpd h)

theorem axFault (h : d.Guarded R) {n off : Nat} : (d.axFault n off).Guarded R := by
  unfold Dev.axFault
  exact .jnlFault (.axPut (.axBridgesOff (.axHalt h)))

theorem axStall (h : d.Guarded R) {n : Nat} : (d.axStall n).Guarded R := by
  unfold Dev.axStall
  extract_lets _ d1 _ _ d2
  have h1 : d1.Guarded R := .raise (.set (.set h))
  have h2 : d2.Guarded R := .homeAbort (.axisUpd h1)
  exact .ite (.axFault h2) (.ite (.axStop h2) (.ite (.axStop h2) h2))

theorem loadPublish (h : d.Guarded R) {n : Nat} {c : Coil} : (d.loadPublish n c).Guarded R := by
  unfold Dev.loadPublish
  exact .when (.axisUpd (.set (.set (.setI (.setI (.ite (.drawn h) h)))))) fun h => .axStall h

theorem windowEnd (h : d.Guarded R) {n : Nat} {c : Coil} : (d.windowEnd n c).Guarded R := by
  unfold Dev.windowEnd
  exact .ite (.blindShow (.axisUpd h)) (.loadPublish (.blindShow (.axisUpd h)))

theorem coilTick (h : d.Guarded R) {n : Nat} {b low : Bool} : (d.coilTick n b low).Guarded R := by
  unfold Dev.coilTick
  extract_lets _ _ _ d1 _ _ d2
  have h1 : d1.Guarded R := .ite h (.coilUpd h)
  have h2 : d2.Guarded R := .coilUpd (.ite (.coilUpd h1) (.ite (.windowEnd (.coilUpd h1)) h1))
  exact .ite h2 (.ite (.coilUpd h2) (.ite (.chopOn h2) h2))

theorem jerkTake (h : d.Guarded R) {n : Nat} {s x : Int} {goal : Option Int} : (d.jerkTake n s x goal).Guarded R := h

theorem axToward (h : d.Guarded R) {n : Nat} {vt e : Int} {jerk : Bool} : (d.axToward n vt e jerk).Guarded R := by
  unfold Dev.axToward
  exact .ite (.axisUpd (.setI h)) (.jerkTake h)

theorem axTurn (h : d.Guarded R) {n : Nat} {s left : Int} : (d.axTurn n s left).Guarded R := by
  unfold Dev.axTurn
  exact .ite (.axToward h) (.axisUpd (.setI h))

theorem axSeek (h : d.Guarded R) {n : Nat} {tgt : Int} {vmax : Int} : (d.axSeek n tgt vmax).Guarded R := by
  unfold Dev.axSeek
  exact .ite (.axTurn h) (.ite (.jerkTake (.drawn h)) (.axisUpd (.setI (.drawn h))))

theorem axMove (h : d.Guarded R) {n : Nat} {w : Int} : (d.axMove n w).Guarded R := h

theorem axShow (h : d.Guarded R) {n : Nat} : (d.axShow n).Guarded R := by
  unfold Dev.axShow
  exact .ite (.setReg h) (.setB (.setReg h))

theorem axGo (h : d.Guarded R) {n : Nat} : (d.axGo n).Guarded R := by
  unfold Dev.axGo
  exact .ite (.axPut (.when (.set h) fun h => .coilClamp h)) h

theorem axTarget (h : d.Guarded R) {n : Nat} {x : Int} : (d.axTarget n x).Guarded R := by
  unfold Dev.axTarget
  exact .axGo (.axisUpd h)

theorem axSpeed (h : d.Guarded R) {n : Nat} {x : Int} : (d.axSpeed n x).Guarded R := by
  unfold Dev.axSpeed
  exact .axGo (.axisUpd h)

theorem axTgtWrite (h : d.Guarded R) {n : Nat} {v : BitVec 64} : (d.axTgtWrite n v).Guarded R := by
  unfold Dev.axTgtWrite
  exact .ite (.setReg h) (.axTarget (.setReg h))

theorem axVtgtWrite (h : d.Guarded R) {n : Nat} {v : BitVec 64} : (d.axVtgtWrite n v).Guarded R := by
  unfold Dev.axVtgtWrite
  exact .ite (.setReg h) (.axSpeed (.setReg h))

theorem axPosWrite (h : d.Guarded R) {n : Nat} {v : BitVec 64} : (d.axPosWrite n v).Guarded R := by
  unfold Dev.axPosWrite
  exact .ite (.axShow (.axisUpd h)) (.ite h (.count h))

theorem axSwap1 (h : d.Guarded R) {n : Nat} {new : Bool} : (d.axSwap1 n new).Guarded R := by
  unfold Dev.axSwap1
  exact .ite (.ite (.axUnhold h) h) (.ite (.axTarget (.ite (.axUnhold h) h)) (.axSpeed (.ite (.axUnhold h) h)))

theorem axSwap (h : d.Guarded R) {own : Nat → Bool} {pub : List Nat} : (d.axSwap own pub).Guarded R := by
  unfold Dev.axSwap
  exact .each h fun h => .when h fun h => .axSwap1 h

theorem axEnable (h : d.Guarded R) {n : Nat} : (d.axEnable n).Guarded R := by
  unfold Dev.axEnable
  exact .ite h (.ite (.count (.set h)) (.axPut (.coilClamp (.set (.axisUpd (.set (.set (.set (.set (.set h))))))))))

theorem axDisable (h : d.Guarded R) {n : Nat} : (d.axDisable n).Guarded R := by
  unfold Dev.axDisable
  exact .ite (.set h) (.axPut (.set (.axBridgesOff (.axHalt (.homeAbort h)))))

theorem axStopWrite (h : d.Guarded R) {n : Nat} : (d.axStopWrite n).Guarded R := by
  unfold Dev.axStopWrite
  exact .ite (.axStop (.homeAbort h)) (.axisUpd h)

theorem homeStart (h : d.Guarded R) {n : Nat} : (d.homeStart n).Guarded R := by
  unfold Dev.homeStart
  exact .ite (.axPut (.when (.set (.set (.set h))) fun h => .coilClamp h)) h

theorem limTrip (h : d.Guarded R) {n : Nat} : (d.limTrip n).Guarded R := by
  unfold Dev.limTrip
  exact .ite h (.axStop (.raise (.set (.setI h))))

theorem homeLimit (h : d.Guarded R) {n : Nat} : (d.homeLimit n).Guarded R := by
  unfold Dev.homeLimit
  exact .ite h (.axStop (.homeFail (.when (.when h fun h => .raise (.set h)) fun h => .raise (.set h))))

theorem homeConfirm (h : d.Guarded R) {n : Nat} : (d.homeConfirm n).Guarded R := h

theorem axRest (h : d.Guarded R) {n : Nat} : (d.axRest n).Guarded R := by
  unfold Dev.axRest
  exact .axPut (.axisUpd (.set h))

theorem axStep (h : d.Guarded R) {n : Nat} {tgt : Option Int} : (d.axStep n tgt).Guarded R := by
  unfold Dev.axStep
  extract_lets; split; exacts [.axMove h, .ite (.axisUpd (.set h)) (.axMove h)]

theorem moveTick (h : d.Guarded R) {n : Nat} : (d.moveTick n).Guarded R := by
  unfold Dev.moveTick
  extract_lets _ _ d1 _ d2 _ _ d3
  have h1 : d1.Guarded R := .axStep (.axSeek h)
  have h2 : d2.Guarded R := .axStep (.axToward h)
  have h3 : d3.Guarded R := .setI (.axMove h)
  split; exacts [.ite (.raise (.axRest h1)) h1, .ite (.axRest h2) h2, .ite (.axPut h3) h3, .axRest h]

theorem homeMove (h : d.Guarded R) {n : Nat} {back : Bool} : (d.homeMove n back).Guarded R := by
  unfold Dev.homeMove
  exact .axStep (.axToward h)

theorem homePhase (h : d.Guarded R) {n st : Nat} : (d.homePhase n st).Guarded R := h

theorem homeDone (h : d.Guarded R) {n : Nat} : (d.homeDone n).Guarded R := by
  unfold Dev.homeDone
  exact .axRest (.raise (.set (.set h)))

theorem homeTick (h : d.Guarded R) {n : Nat} : (d.homeTick n).Guarded R := by
  unfold Dev.homeTick
  extract_lets d1 d2 d3 d4 _ d5
  have h1 : d1.Guarded R := .homeMove h
  have h2 : d2.Guarded R := .homeMove h
  have h3 : d3.Guarded R := .axStep (.axToward h)
  have h4 : d4.Guarded R := .axisUpd h3
  have h5 : d5.Guarded R := .axStep (.axSeek h)
  split
  · exact .homePhase h
  · split; exacts [.ite (.homePhase h1) h1, .ite (.axStop (.homeFail h1)) h1]
  · exact .ite (.axStop (.homeFail h2)) h2
  · exact .homeMove h
  · exact .ite h3 (.ite (.set h4) (.homeDone h4))
  · exact .ite (.homeDone h5) h5
  · exact h

theorem stopTick (h : d.Guarded R) {n : Nat} : (d.stopTick n).Guarded R := by
  unfold Dev.stopTick
  exact .ite (.axRest (.axisUpd (.axStep (.axToward h)))) (.axStep (.axToward h))

theorem restTick (h : d.Guarded R) {n : Nat} : (d.restTick n).Guarded R := h

theorem coilResult (h : d.Guarded R) {n : Nat} {b : Bool} {stamp mean : Nat} : (d.coilResult n b stamp mean).Guarded R := by
  unfold Dev.coilResult
  extract_lets _ _ _ d1
  have h1 : d1.Guarded R := .coilUpd h
  exact .ite h (.ite (.axFault (.raise (.set (.homeAbort h1)))) (.ite h1 (.ite (.coilUpd h1) (.coilUpd (.setI h1)))))

theorem axFltClear (h : d.Guarded R) {n mask : Nat} : (d.axFltClear n mask).Guarded R := h

/-! ## Sys2Proof/Machine/Engine.lean -/

theorem stwPut (h : d.Guarded R) {n w : Nat} {v : BitVec 64} : (d.stwPut n w v).Guarded R := h

theorem slFlt (h : d.Guarded R) {n kind : Nat} : (d.slFlt n kind).Guarded R := by
  unfold Dev.slFlt
  exact .ite (.raiseLim h) (.trigCause h)

theorem flightPut (h : d.Guarded R) {n : Nat} {l : List Flight} : (d.flightPut n l).Guarded R := h

theorem slSats (h : d.Guarded R) {n : Nat} {l : List Int} : (d.slSats n l).Guarded R := h

theorem pcBy (h : d.Guarded R) {n k : Nat} : (d.pcBy n k).Guarded R := h

theorem issueBy (h : d.Guarded R) {n opc : Nat} {reads writes : Oper → List Nat} {need : Nat} {f : Oper → Dev → Dev}
    (hf : ∀ {o d}, d.Guarded R → (f o d).Guarded R) : (d.issueBy n opc reads writes need f).Guarded R := by
  unfold Dev.issueBy
  split; exacts [h, .ite (.pcBy (hf h)) h]

theorem issue0 (h : d.Guarded R) {n opc : Nat} {reads : Oper → List Nat} {f : Oper → Dev → Dev}
    (hf : ∀ {o d}, d.Guarded R → (f o d).Guarded R) : (d.issue0 n opc reads f).Guarded R := by
  unfold Dev.issue0
  exact .issueBy h hf

theorem issueMac (h : d.Guarded R) {n opc : Nat} {f : Oper → Dev → Dev}
    (hf : ∀ {o d}, d.Guarded R → (f o d).Guarded R) : (d.issueMac n opc f).Guarded R := by
  unfold Dev.issueMac
  exact .issueBy h hf

theorem issue1 (h : d.Guarded R) {n opc : Nat} {reads : Oper → List Nat} {f : Oper → Dev → Dev}
    (hf : ∀ {o d}, d.Guarded R → (f o d).Guarded R) : (d.issue1 n opc reads f).Guarded R := by
  unfold Dev.issue1
  exact .issueBy h hf

theorem now1 (h : d.Guarded R) {n w : Nat} {raw : Int} : (d.now1 n w raw).Guarded R := h

theorem later (h : d.Guarded R) {n : Nat} {l : List (Nat × Int)} : (d.later n l).Guarded R := h

theorem alu (h : d.Guarded R) {n opc : Nat} {reads : Oper → List Nat} {f : Int → Int → Int → Int} :
    (d.alu n opc reads f).Guarded R :=
  by
  unfold Dev.alu
  exact .issue1 h fun h => .now1 h

theorem macPut (h : d.Guarded R) {n : Nat} {x : Int} : (d.macPut n x).Guarded R := by
  unfold Dev.macPut
  exact .flightPut (.slcUpd (.when h fun h => .count h))

theorem divCount (h : d.Guarded R) {n : Nat} {b : Int} : (d.divCount n b).Guarded R := by
  unfold Dev.divCount
  exact .when h fun h => .slFlt (.count h)

theorem rootCount (h : d.Guarded R) {n : Nat} {a : Int} : (d.rootCount n a).Guarded R := by
  unfold Dev.rootCount
  exact .when h fun h => .slFlt (.count h)

theorem closeIf (h : d.Guarded R) {g : Nat} : (d.closeIf g).Guarded R := by
  unfold Dev.closeIf
  exact .when h fun h => .egrUpd h

theorem slReturn (h : d.Guarded R) {n : Nat} : (d.slReturn n).Guarded R := by
  unfold Dev.slReturn
  exact .clkEval (.set h)

theorem splEnd (h : d.Guarded R) {n : Nat} : (d.splEnd n).Guarded R := by
  unfold Dev.splEnd
  exact .each h fun h => .when h fun h => .splMade h

theorem opResult (h : d.Guarded R) {n k : Nat} : (d.opResult n k).Guarded R := by
  unfold Dev.opResult
  extract_lets d1
  have h1 : d1.Guarded R := .flightPut h
  split; exacts [h, (by split; exacts [(.eachOf h1 fun h => .stwPut h), .ite (.count h1) (.portUpd h1)])]

theorem tuneWrite (h : d.Guarded R) {c : Commit} : (d.tuneWrite c).Guarded R := by
  unfold Dev.tuneWrite
  exact .eachOf h fun h => .when (.stwPut h) fun h => .set h

theorem tuneApply (h : d.Guarded R) {g : Nat} : (d.tuneApply g).Guarded R := by
  unfold Dev.tuneApply
  refine List.foldlRecOn (motive := fun acc : Dev × List Commit => acc.1.Guarded R) _ _ h fun acc h p _ => ?_
  split
  · exact h
  · split
    · exact h
    · exact .set (.set (.portUpd (.tuneWrite (.when h fun h => .add h))))

theorem slOpen (h : d.Guarded R) {n : Nat} : (d.slOpen n).Guarded R := by
  unfold Dev.slOpen
  extract_lets _ _ _ d1
  have h1 : d1.Guarded R := .slcUpd h
  split
  · exact .ite (.set h1) (.ite (.slcUpd (.set (.set h1))) h1)
  · exact .ite (.slFlt (.count h1)) h1
  · exact h1

theorem grpTrigger (h : d.Guarded R) {g : Nat} : (d.grpTrigger g).Guarded R := by
  unfold Dev.grpTrigger
  extract_lets _ d1 _ _ d2
  have h1 : d1.Guarded R := .egrUpd h
  have h2 : d2.Guarded R := .egrUpd h1
  exact .ite (.egrUpd h) (.ite (.count h1) (.clkEval (.closeIf (.eachOf (.tuneApply (.set h2)) fun h => .slOpen h))))

theorem accept (h : d.Guarded R) : d.accept.Guarded R := by
  unfold Dev.accept
  exact .eachOf h fun h => by split; exacts [h, .slcUpd (.egrUpd h)]

theorem hemGuard (h : d.Guarded (.on ch)) {w : Nat} : (d.hemGuard w).Guarded (.on ch) := by
  unfold Dev.hemGuard
  exact .each (.eachOf (.jnlHem (.raise (.set (.count h)))) fun h => .hemSafe h) fun h => .when h fun h => .axHold h

theorem ageWord (h : d.Guarded (.on ch)) {w : Nat} : (d.ageWord w).Guarded (.on ch) := by
  unfold Dev.ageWord
  exact .ite h (.ite (.hemGuard (.raise (.count (.set h)))) (.set h))

theorem posSwaps (h : d.Guarded (.on ch)) {g : Nat} {pub : List Nat} {cmds : List Int} :
    (d.posSwaps g pub cmds).Guarded (.on ch) := by
  unfold Dev.posSwaps
  exact .each h fun h => .ite (.posSwap h) h

theorem swap (h : d.Guarded (.on ch)) {g : Nat} : (d.swap g).Guarded (.on ch) := by
  unfold Dev.swap
  extract_lets _ _ _ d1 _ _ d2 _ d3
  have h1 : d1.Guarded (.on ch) := .setReg h
  have h2 : d2.Guarded (.on ch) := .egrUpd (.eachOf (.set h1) fun h => .set (.setReg h))
  have h3 : d3.Guarded (.on ch) := .each (.eachOf h2 fun h => .ite h (.ite (.raiseIf (.eachOf h fun h => .ageWord h))
    (.slFlt (.count
    (.eachOf h fun h => .ageWord h))))) fun h => .when h fun h => .splMade h
  exact .clkEval (.posSwaps (.axSwap h3))

theorem slRunPut (h : d.Guarded R) {n : Nat} {run : Bool} : (d.slRunPut n run).Guarded R := by
  unfold Dev.slRunPut
  exact .ite (.when (.slcUpd (.set (.clkEval (.setB h)))) fun h => .set h) (.clkEval (.setB h))

theorem slRun (h : d.Guarded R) {o : Origin} {n : Nat} {run : Bool} : (d.slRun o n run).Guarded R := by
  unfold Dev.slRun
  exact .ite (.count h) (.slRunPut h)

theorem tune (h : d.Guarded R) {p count : Nat} {restart : Bool} : (d.tune p count restart).Guarded R := by
  unfold Dev.tune
  exact .ite (.count (.set h)) (.ite (.set (.tuneWrite h)) (.set (.portUpd h)))

/-! ## Sys2Proof/Machine/Assist.lean -/

theorem xPut (h : d.Guarded R) {c rd : Nat} {v : BitVec 64} : (d.xPut c rd v).Guarded R := by
  unfold Dev.xPut
  exact .ite h (.ite (.portUpd (.portUpd h)) (.portUpd h))

theorem coreRegPut (h : d.Guarded R) {c r : Nat} {v : BitVec 64} : (d.coreRegPut c r v).Guarded R := by
  unfold Dev.coreRegPut
  exact .ite (.xPut h) (.ite (.portUpd (.portUpd h)) (.portUpd h))

theorem assistResult (h : d.Guarded R) {n op : Nat} {a b : Int} : (d.assistResult n op a b).1.Guarded R := by
  unfold Dev.assistResult
  split
  rename_i e raw he
  refine .slSats ?_
  split at he <;> obtain ⟨rfl, rfl⟩ := Prod.mk.injEq .. ▸ he
  exacts [.divCount h, .rootCount h, h, h, h, h]

theorem assistIssue (h : d.Guarded R) {c : Nat} {r : LaReq} : (d.assistIssue c r).Guarded R := by
  unfold Dev.assistIssue
  exact .ite h (.portUpd (.flightPut (.assistResult h)))

theorem assistPump (h : d.Guarded R) : d.assistPump.Guarded R := by
  unfold Dev.assistPump
  exact .each h fun h => .eachOf h fun h => .assistIssue h

theorem laDo (h : d.Guarded R) {c : Nat} {i : LaOp} : (d.laDo c i).Guarded R := by
  unfold Dev.laDo
  split; exacts [.xPut (.portUpd h), .portUpd h, .portUpd h]

theorem laServe {k : Nat} {new : Bool} (h : d.Guarded R) {c : Nat} : (Dev.laServe k new d c).Guarded R := by
  induction k generalizing new d with
  | zero => exact h
  | succ k ih =>
    rw [Dev.laServe.eq_2]
    split
    · exact h
    · exact .ite (ih (.laDo (.portUpd h))) (by split; exacts [.when h fun h => .count h, h])

theorem laPump (h : d.Guarded R) {c : Nat} : (d.laPump c).Guarded R := by
  unfold Dev.laPump
  exact .clkEval (.assistPump (.laServe h))

theorem laGo (h : d.Guarded R) {c : Nat} {i : LaOp} : (d.laGo c i).Guarded R := by
  unfold Dev.laGo
  exact .ite h (.clkEval (.assistPump (.laServe (.portUpd h))))

theorem laAct (h : d.Guarded R) {c : Nat} {w : LaWrite} : (d.laAct c w).Guarded R := by
  unfold Dev.laAct
  split; exacts [.portUpd h, .tune h, .ite (.count h) (.slRunPut h)]

theorem squashReq (h : d.Guarded R) {c j : Nat} : (d.squashReq c j).Guarded R := by
  unfold Dev.squashReq
  split; exacts [h, .ite (.count (.portUpd h)) (.slcUpd (.portUpd h))]

theorem squashRet (h : d.Guarded R) {c j : Nat} : (d.squashRet c j).Guarded R := by
  unfold Dev.squashRet
  split; exacts [h, (.count (by split; exacts [.count (.xPut (.portUpd h)), .xPut (.portUpd h)]))]

theorem laExec (h : d.Guarded R) {c : Fin 4} {w : BitVec 32} : (d.laExec c w).Guarded R := by
  unfold Dev.laExec
  extract_lets; split; exacts [.laGo h, .portUpd h]

theorem splArm (h : d.Guarded R) : d.splArm.Guarded R := by
  unfold Dev.splArm
  extract_lets _ d1
  have h1 : d1.Guarded R := .set (.set (.set h))
  exact .ite h (.ite (.count (.set h)) (.eachOf (.beside h1) fun h => .setSch (.set (.set (.set h)))))

theorem splStop (h : d.Guarded R) : d.splStop.Guarded R := by
  unfold Dev.splStop
  exact .ite (.set h) h

theorem splForce (h : d.Guarded R) : d.splForce.Guarded R := by
  unfold Dev.splForce
  exact .ite (.splFire h) h

theorem splLevel (h : d.Guarded R) {c : Nat} {rec : List (BitVec 64)} : (d.splLevel c rec).Guarded R := by
  unfold Dev.splLevel
  exact .ite h (by split; exacts [h, (.when (.setSch h) fun h => .splTrigger h)])

/-! ## Sys2Proof/Machine/Sys.lean -/

theorem pllStop (h : d.Guarded R) : d.pllStop.Guarded R := by
  unfold Dev.pllStop
  exact .showFrozen (.beside (.each h fun h => .set h))

theorem lossSequence (h : d.Guarded (.on ch)) {vhold : Nat} : (d.lossSequence vhold).Guarded (.on ch) := by
  unfold Dev.lossSequence
  extract_lets _ d1 _ _ _ _ d2 _ d3
  have h1 : d1.Guarded (.on ch) := .journal (.count (.raise (.set h)))
  have h2 : d2.Guarded (.on ch) := .hemHold (.set (.beside h1))
  have h3 : d3.Guarded (.on ch) := .each (.when h2 fun h => .eachOf h fun h => .hemSafe h) fun h => .axHold h
  exact .when (.pllStop (.brakeShow (.brakeApply h3))) fun h => .disCommand h

theorem sleepReq (h : d.Guarded R) : d.sleepReq.Guarded R := by
  unfold Dev.sleepReq
  exact .ite (.ite (.clkEval (.set h)) (.set (.count h))) h

theorem pllMark (h : d.Guarded R) {p : Nat} {fw on : Bool} : (d.pllMark p fw on).Guarded R := by
  unfold Dev.pllMark
  exact .ite (.setB h) (.beside h)

/-! ## Sys2Proof/Machine/Hem.lean -/

theorem pairRefuse (h : d.Guarded R) {why : Nat} : (d.pairRefuse why).Guarded R := by
  unfold Dev.pairRefuse
  exact .raise (.set h)

theorem roleTo (h : d.Guarded R) {p : Nat} : (d.roleTo p).Guarded R := by
  unfold Dev.roleTo
  exact .raise (.set h)

theorem roleFromRetired (h : d.Guarded R) {p : Nat} : (d.roleFromRetired p).Guarded R := by
  unfold Dev.roleFromRetired
  exact .ite (.roleTo h) h

theorem portDrop (h : d.Guarded R) {c : Nat} : (d.portDrop c).Guarded R := h

theorem checkpoint (h : d.Guarded R) {p : Nat} : (d.checkpoint p).Guarded R := h

theorem bothGone (h : d.Guarded (.on ch)) : d.bothGone.Guarded (.on ch) := by
  unfold Dev.bothGone
  exact .when (.hemHold (.beside h)) fun h => .eachOf h fun h => .hemSafe h

theorem splitCancel (h : d.Guarded R) {p : Nat} : (d.splitCancel p).Guarded R := by
  unfold Dev.splitCancel
  exact .ite (.pairRefuse (.pairUpd h)) h

theorem retire (h : d.Guarded (.on ch)) {p : Nat} : (d.retire p).Guarded (.on ch) := by
  unfold Dev.retire
  extract_lets _ d1
  have h1 : d1.Guarded (.on ch) := .jnlHem (.raise (.portDrop (.set h)))
  split; exacts [.bothGone h1, .ite (.roleTo (.splitCancel h1)) h1, .ite (.pairUpd (.set h1)) h1, h1]

theorem handRefuse (h : d.Guarded R) {p why : Nat} : (d.handRefuse p why).Guarded R := by
  unfold Dev.handRefuse
  exact .ite (.pairRefuse (.pairUpd (.set h))) h

theorem chkLoad (h : d.Guarded R) {p : Nat} : (d.chkLoad p).Guarded R := h

theorem released (h : d.Guarded R) {p us : Nat} : (d.released p us).Guarded R := by
  unfold Dev.released
  exact .roleFromRetired (.raise (.set (.count (.set (.eachOf (.chkLoad (.pairUpd h)) fun h => .set h)))))

theorem classRef (h : d.Guarded R) : d.classRef.Guarded R := h

theorem dogWrite (h : d.Guarded R) {o : Origin} {key : Nat} : (d.dogWrite o key).Guarded R := by
  unfold Dev.dogWrite
  exact .ite (.classRef h) (.ite (.beside h) h)

theorem handStart (h : d.Guarded R) {p : Nat} {split : Bool} : (d.handStart p split).Guarded R := by
  unfold Dev.handStart
  exact .raise (.pairUpd (.set h))

theorem splitWrite (h : d.Guarded R) {o : Origin} : (d.splitWrite o).Guarded R := by
  unfold Dev.splitWrite
  apply Guarded.ite (.classRef h)
  split
  · exact .classRef h
  · exact .ite h (.ite (.pairRefuse h) (.ite (.pairRefuse h) (.ite (.handStart h) (.pairUpd h))))

theorem ownerReq (h : d.Guarded R) {o : Origin} : (d.ownerReq o).Guarded R := by
  unfold Dev.ownerReq
  exact .ite (.classRef h) (.ite h (.ite (.pairRefuse h) (.handStart h)))

theorem safeAck (h : d.Guarded R) {o : Origin} : (d.safeAck o).Guarded R := by
  unfold Dev.safeAck
  split; exacts [.ite h (.ite (.set h) (.set (.set h))), h]

theorem rejoin (h : d.Guarded R) {c : Nat} : (d.rejoin c).Guarded R := by
  unfold Dev.rejoin
  exact .ite h (by split; exacts [.pairUpd h, .ite h (.pairUpd (.set h))])

theorem tempKeep (h : d.Guarded R) : d.tempKeep.Guarded R := by
  unfold Dev.tempKeep
  exact .eachOf h fun h => by split; exacts [.beside h, h]

theorem derateShow (h : d.Guarded R) {g : Nat} {below : Bool} : (d.derateShow g below).Guarded R := by
  unfold Dev.derateShow
  exact .ite h (.raise (.beside h))

theorem derateFactors (h : d.Guarded R) {g : Nat} {ks : List Nat} : (d.derateFactors g ks).Guarded R := h

theorem derate (h : d.Guarded R) {g : Nat} : (d.derate g).Guarded R := by
  unfold Dev.derate
  exact .derateShow (.beside (.set (.derateFactors h)))

theorem holdEval (h : d.Guarded (.on ch)) : d.holdEval.Guarded (.on ch) := by
  unfold Dev.holdEval
  exact .hemHold (.hemHold (.hemHold (.hemHold (.hemHold h))))

/-! ## Sys2Proof/Machine/AuxAdc.lean -/

theorem auxNext (h : d.Guarded R) {m k : Nat} : (d.auxNext m k).Guarded R := by
  unfold Dev.auxNext
  exact .ite (.auxUpd h) (.auxUpd h)

theorem auxCoils (h : d.Guarded R) {k stamp mean : Nat} : (d.auxCoils k stamp mean).Guarded R := by
  unfold Dev.auxCoils
  exact .each h fun h => .when (.when h fun h => .coilResult h) fun h => .coilResult h

theorem auxPublish (h : d.Guarded R) {m k : Nat} {l : List Nat} : (d.auxPublish m k l).Guarded R := by
  unfold Dev.auxPublish
  extract_lets _ _ _ _ _ _ _ _ _ _ d1
  have h1 : d1.Guarded R := .when (.when (.setReg h) fun h => .count h) fun h => .count h
  exact .ite (.auxCoils h1) (.ite (.beside h1) h1)

/-! ## Sys2Proof/Machine/Content.lean -/

theorem stagePut (h : d.Guarded R) {e : BitVec 40 × BitVec 64} : (d.stagePut e).Guarded R := h

/-! ## Sys2Proof/Machine/Thimble.lean -/

theorem thmChecks (h : d.Guarded R) : d.thmChecks.Guarded R := by
  unfold Dev.thmChecks
  extract_lets _ _ d1 d2 _ d3
  have h1 : d1.Guarded R := .when (.when h fun h => .jnlThimble h) fun h => .jnlThimble h
  have h2 : d2.Guarded R := .ite h1 (.beside h1)
  have h3 : d3.Guarded R := .when (.setB h2) fun h => .jnlThimble h
  exact .when (.setB h3) fun h => .jnlThimble h

theorem thmShow (h : d.Guarded R) : d.thmShow.Guarded R := by
  unfold Dev.thmShow
  exact .set (.setB (.setB (.set (.showLog (.showSet h)))))

theorem siPut (h : d.Guarded R) {k st : Nat} : (d.siPut k st).Guarded R := by
  unfold Dev.siPut
  exact .ite h (.raise (.set h))

theorem siCause (h : d.Guarded R) : d.siCause.Guarded R := by
  unfold Dev.siCause
  exact .ite (.setBits h) (.clrBits h)

theorem siStep (h : d.Guarded R) {k : Nat} : (d.siStep k).Guarded R := by
  unfold Dev.siStep
  exact .siCause (by split; exacts [.ite (.siPut (.set h)) h, .ite (.siPut h) h, .ite h (.siPut h), .ite (.siPut h) h, h])

theorem siStart (h : d.Guarded R) {k : Nat} : (d.siStart k).Guarded R := by
  unfold Dev.siStart
  exact .siStep (.siPut (.set h))

theorem tudcShow (h : d.Guarded R) {v : Nat} : (d.tudcShow v).Guarded R := h

theorem dcShow (h : d.Guarded R) {l : List (BitVec 12 × BitVec 12)} : (d.dcShow l).Guarded R := by
  unfold Dev.dcShow
  split; exacts [h, .setI (.tudcShow h)]

theorem lockPut (h : d.Guarded R) {sec : Nat} : (d.lockPut sec).Guarded R := by
  unfold Dev.lockPut
  exact .setB (.set (.ite h (.beside h)))

theorem thmAnswer (h : d.Guarded R) {tag code r : Nat} : (d.thmAnswer tag code r).Guarded R := by
  unfold Dev.thmAnswer
  exact .raise (.when (.set (.set (.set h))) fun h => .count h)

theorem release (h : d.Guarded R) {g : Nat} : (d.release g).Guarded R := by
  unfold Dev.release
  extract_lets _ d1
  have h1 : d1.Guarded R := .showDemand (.eachOf h fun h => .tgrpUpd h)
  exact .ite (.permitGroup (.thmPut h1)) h1

theorem clearBrakeLatches (h : d.Guarded R) : d.clearBrakeLatches.Guarded R := by
  unfold Dev.clearBrakeLatches
  exact .eachOf (.clrBits h) fun h => .when h fun h => .foPut h

theorem pwdWrong (h : d.Guarded R) : d.pwdWrong.Guarded R := by
  unfold Dev.pwdWrong
  exact .ite (.count (.add h)) (.raise (.jnlThimble (.lockPut (.count (.add h)))))

/-! ## Sys2Proof/Machine/Sfl.lean -/

theorem sflShow (h : d.Guarded R) : d.sflShow.Guarded R := h

theorem sflSend (h : d.Guarded R) {k ver kind : Nat} {pay : List (BitVec 8)} : (d.sflSend k ver kind pay).Guarded R := by
  unfold Dev.sflSend
  exact .ite (.count h) (.when (.sflShow (.beside h)) fun h => .raise h)

theorem sflPop (h : d.Guarded R) : d.sflPop.Guarded R := h

theorem sflPut (h : d.Guarded R) {k st : Nat} : (d.sflPut k st).Guarded R := h

theorem sflDown (h : d.Guarded R) {k st : Nat} : (d.sflDown k st).Guarded R := by
  unfold Dev.sflDown
  exact .raise (.sflPut h)

theorem sflData (h : d.Guarded R) {k : Nat} {pay : List (BitVec 8)} : (d.sflData k pay).Guarded R := by
  unfold Dev.sflData
  exact .sflSend (.set h)

theorem sflResult (h : d.Guarded R) {k : Option Nat} {r : Nat} : (d.sflResult k r).Guarded R := by
  unfold Dev.sflResult
  extract_lets _ d1
  have h1 : d1.Guarded R := by unfold d1; split; exacts [(.when (.set (.set h)) fun h => .set h), (.set h)]
  exact .raise (.when h1 fun h => .raiseLim (.count h))

theorem sflOpened (h : d.Guarded R) {k seq : Nat} {pay : List (BitVec 8)} : (d.sflOpened k seq pay).Guarded R := by
  unfold Dev.sflOpened
  exact .ite (.raise (.sflSend (.sflPut (.set (.set h))))) (.raise (.count (.sflSend (.set h))))

/-! ## Sys2Proof/Machine/CanCore.lean -/

theorem canEnd (h : d.Guarded R) {n b : Nat} : (d.canEnd n b).Guarded R := h

theorem canFail (h : d.Guarded R) {n b why : Nat} : (d.canFail n b why).Guarded R := by
  unfold Dev.canFail
  exact .raise (.set (.setBits (.canEnd h)))

theorem canFailAll (h : d.Guarded R) {n why : Nat} {keep : Option Nat} : (d.canFailAll n why keep).Guarded R := by
  unfold Dev.canFailAll
  exact .canUpd (.each h fun h => .when h fun h => .canFail h)

theorem canQueue (h : d.Guarded R) {n : Nat} {f : CanFrame} : (d.canQueue n f).Guarded R := h

theorem canStopped (h : d.Guarded R) {n : Nat} : (d.canStopped n).Guarded R := by
  unfold Dev.canStopped
  exact .ite (.clkEval (.set (.canUpd (.canFailAll h)))) h

theorem canCount (h : d.Guarded R) {n tec rec : Nat} : (d.canCount n tec rec).Guarded R := by
  unfold Dev.canCount
  extract_lets _ _ _ d1
  have h1 : d1.Guarded R := .when (.setB (.set (.set h))) fun h => .raise h
  exact .ite (.canStopped (.when (.raise (.count (.set (.canFailAll h1)))) fun h => .set h)) (.ite (.raise (.set h1)) (.ite
    (.raise (.set h1)) h1))

/-! ## Sys2Proof/Machine/Events.lean -/

theorem evrClearMask (h : d.Guarded R) {t j mask : Nat} : (d.evrClearMask t j mask).Guarded R := by
  unfold Dev.evrClearMask
  exact .each h fun h => .when h fun h => .evrClear h

theorem jnlGap (h : d.Guarded R) : d.jnlGap.Guarded R := by
  unfold Dev.jnlGap
  exact .ite (.journal (.beside h)) h

theorem jnlFlushEnd (h : d.Guarded R) : d.jnlFlushEnd.Guarded R := by
  unfold Dev.jnlFlushEnd
  exact .ite (.ite (.beside (.flushStop h)) (.flushStop h)) h

theorem jnlWritten (h : d.Guarded R) {e : JEntry} {num fl : Nat} : (d.jnlWritten e num fl).Guarded R := by
  unfold Dev.jnlWritten
  exact .jnlFlushEnd (.jnlGap (.when (.when (.set (.set (.beside h))) fun h => .count h) fun h => .raiseLim h))

theorem fwEntry (h : d.Guarded R) {o : Origin} {k : Nat} : (d.fwEntry o k).Guarded R := by
  unfold Dev.fwEntry
  exact .ite (.count h) (.jnlPut h)

theorem dtmTerm (h : d.Guarded R) {x : Int} : (d.dtmTerm x).Guarded R := h

theorem dtmServo (h : d.Guarded R) {th : Int} {tau : Nat} : (d.dtmServo th tau).Guarded R := h

theorem dtmStep (h : d.Guarded R) {th : Int} : (d.dtmStep th).Guarded R := by
  unfold Dev.dtmStep
  exact .raise (.journal (.count (.set (.beside h))))

theorem dtmLock (h : d.Guarded R) {th : Int} : (d.dtmLock th).Guarded R := by
  unfold Dev.dtmLock
  exact .ite (.ite (.raise (.set (.beside h))) (.raise (.count (.set (.beside h))))) (.beside h)

theorem dtmMeasure (h : d.Guarded R) {th : Int} : (d.dtmMeasure th).Guarded R := by
  unfold Dev.dtmMeasure
  extract_lets _ _ _ _ d1
  have h1 : d1.Guarded R := .count (.setI (.beside (.ite (.set (.beside h)) h)))
  exact .ite h (.dtmLock (.ite (.beside h1) (.dtmServo h1)))

theorem dtmSource (h : d.Guarded R) {src : Nat} : (d.dtmSource src).Guarded R := by
  unfold Dev.dtmSource
  extract_lets _ _ _ d1
  have h1 : d1.Guarded R := .beside (.set h)
  exact .ite h (.ite (.set (.dtmTerm h1)) (.set (.ite (.beside h1) h1)))

theorem dtmBoundary (h : d.Guarded R) : d.dtmBoundary.Guarded R := by
  unfold Dev.dtmBoundary
  extract_lets; split; exacts [.dtmStep (.beside h), .beside h]

theorem advance (h : d.Guarded R) {dt : Nat} : (d.advance dt).Guarded R := by
  unfold Dev.advance
  exact .ite (.beside h) (.dtmBoundary (.beside h))

theorem tick (h : d.Guarded R) : d.tick.Guarded R := by
  unfold Dev.tick
  exact .ite (.beside h) (.ite (.advance (.beside h)) (.advance (.beside h)))

/-! ## Sys2Proof/Machine/Domain.lean -/

theorem domIntervals (h : d.Guarded R) : d.domIntervals.Guarded R := by
  unfold Dev.domIntervals
  extract_lets; split; exacts [.ite (.setI (.setI (.beside h))) h, .ite h (.set (.set (.beside h)))]

theorem domPut (h : d.Guarded R) {st : Nat} : (d.domPut st).Guarded R := by
  unfold Dev.domPut
  exact .raise (.domIntervals (.set (.when h fun h => .set h)))

theorem domSend (h : d.Guarded R) {typ arg : Nat} {data : List (BitVec 8)} : (d.domSend typ arg data).Guarded R := h

theorem domDropClaims (h : d.Guarded R) : d.domDropClaims.Guarded R := h

theorem domClaim0 (h : d.Guarded R) : d.domClaim0.Guarded R := by
  unfold Dev.domClaim0
  exact .ite (.domSend (.beside (.domDropClaims h))) h

theorem domContend (h : d.Guarded R) {late : Bool} : (d.domContend late).Guarded R := by
  unfold Dev.domContend
  exact .ite (.domPut (.beside h)) h

theorem domRoles (h : d.Guarded R) : d.domRoles.Guarded R := by
  unfold Dev.domRoles
  exact .dtmSource (.set h)

theorem domMembers (h : d.Guarded R) {l : List Member} : (d.domMembers l).Guarded R := h

theorem domGateway (h : d.Guarded R) : d.domGateway.Guarded R := by
  unfold Dev.domGateway
  exact .domRoles (.set (.when (.setB (.set h)) fun h => .raise h))

theorem domLeader (h : d.Guarded R) {uid : Nat} : (d.domLeader uid).Guarded R := by
  unfold Dev.domLeader
  exact .domRoles (.when (.when (.setB (.set h)) fun h => .raise h) fun h => .count h)

theorem domTakeLead (h : d.Guarded R) : d.domTakeLead.Guarded R := by
  unfold Dev.domTakeLead
  exact .domSend (.domLeader h)

theorem domSay (h : d.Guarded R) {l : List DirMsg} : (d.domSay l).Guarded R := h

theorem domAlone (h : d.Guarded R) : d.domAlone.Guarded R := by
  unfold Dev.domAlone
  exact .when (.set (.raise (.count (.beside h)))) fun h => .domPut h

theorem domDirAck (h : d.Guarded R) {leader num ver : Nat} : (d.domDirAck leader num ver).Guarded R := by
  unfold Dev.domDirAck
  exact .ite (.ite (.domAlone h) (.beside h)) h

theorem domDirDone (h : d.Guarded R) : d.domDirDone.Guarded R := by
  unfold Dev.domDirDone
  exact .when h fun h => .domSend h

theorem domSegnum (h : d.Guarded R) {num : Nat} : (d.domSegnum num).Guarded R := by
  unfold Dev.domSegnum
  exact .ite (.domPut (.set (.set h))) (.ite (.set h) h)

theorem domDirClose (h : d.Guarded R) : d.domDirClose.Guarded R := by
  unfold Dev.domDirClose
  exact .ite h (.domDirDone (.eachOf (.domSay (.beside h)) fun h => .domDirAck h))

theorem domRegSeg (h : d.Guarded R) {r : SegReg} : (d.domRegSeg r).Guarded R := by
  unfold Dev.domRegSeg
  exact .ite h (.ite (.beside h) (.ite h (.when (.beside h) fun h => .domDirClose h)))

theorem domReport (h : d.Guarded R) : d.domReport.Guarded R := by
  unfold Dev.domReport
  exact .domRegSeg (.domSay h)

theorem domLeave (h : d.Guarded R) {st : Nat} : (d.domLeave st).Guarded R := by
  unfold Dev.domLeave
  exact .domPut (.domRoles (.set (.set (.eachOf (.beside (.domDropClaims h)) fun h => .set h))))

theorem domRefused (h : d.Guarded R) : d.domRefused.Guarded R := by
  unfold Dev.domRefused
  exact .raise (.count (.domLeave h))

theorem domClose (h : d.Guarded R) : d.domClose.Guarded R := by
  unfold Dev.domClose
  extract_lets _ _ _ _ _ d1 _ d2
  have h1 : d1.Guarded R := .set (.set (.beside h))
  have h2 : d2.Guarded R := .domGateway (.ite (.domTakeLead h1) (.domLeader h1))
  apply Guarded.ite h
  exact .ite (.ite (.raise (.domLeave h)) h) (.ite (.domRefused h) (.ite (.domPut h2) (.domPut (.set h2))))

theorem domRegister (h : d.Guarded R) {arg uid : Nat} : (d.domRegister arg uid).Guarded R := by
  unfold Dev.domRegister
  extract_lets _ _ _ d1 _ d2
  have h1 : d1.Guarded R := .beside h
  have h2 : d2.Guarded R := .when (.domMembers h1) fun h => .set (.beside h)
  exact .ite h (.ite (.when (.domGateway (.raise (.count h2))) fun h => .domReport h) (.ite (.domClose h2) (.domClaim0 h2)))

theorem domTrunk (h : d.Guarded R) {trunk : Bool} {uid : Nat} : (d.domTrunk trunk uid).Guarded R := by
  unfold Dev.domTrunk
  exact .when (.beside h) fun h => .domGateway h

theorem domTrunkChanged (h : d.Guarded R) {before : Bool} : (d.domTrunkChanged before).Guarded R := by
  unfold Dev.domTrunkChanged
  exact .when h fun h => .domSend h

theorem domSent (h : d.Guarded R) {f : CanFrame} : (d.domSent f).Guarded R := by
  unfold Dev.domSent
  extract_lets
  apply Guarded.ite h
  apply Guarded.ite (.domClaim0 h)
  apply Guarded.ite (.domSend h)
  apply Guarded.ite (.domSend (.when h fun h => .drawn h))
  exact .ite (.domTrunkChanged (.domRegister h)) (.ite (.domTrunk h) (.ite (.domSegnum h) h))

theorem domHeardRef (h : d.Guarded R) : d.domHeardRef.Guarded R := by
  unfold Dev.domHeardRef
  exact .domContend h

theorem domPair (h : d.Guarded R) {th : Int} : (d.domPair th).Guarded R := by
  unfold Dev.domPair
  extract_lets _ d1 _ _ d2
  have h1 : d1.Guarded R := .when (.when h fun h => .dtmMeasure h) fun h => .domSend h
  have h2 : d2.Guarded R := .beside h1
  exact .ite (.ite h2 (.when (.when (.beside h2) fun h => .drawn h) fun h => .domTakeLead h)) h1

theorem domReady (h : d.Guarded R) : d.domReady.Guarded R := by
  unfold Dev.domReady
  exact .ite (.domPut (.set (.set h))) h

theorem domEnable (h : d.Guarded R) {en : Bool} : (d.domEnable en).Guarded R := by
  unfold Dev.domEnable
  exact .ite (.domReady (.setB h)) (.ite (.setB h) (.domLeave (.setB h)))

/-! ## Sys2Proof/Machine/Can.lean -/

theorem canRunSet (h : d.Guarded R) {n : Nat} : (d.canRunSet n).Guarded R := by
  unfold Dev.canRunSet
  exact .ite h (.ite (.set h) (.clkEval (.set (.set (.set h)))))

theorem canRunClear (h : d.Guarded R) {n : Nat} : (d.canRunClear n).Guarded R := by
  unfold Dev.canRunClear
  exact .ite h (.ite (.canUpd (.canFailAll (.set h))) (.canStopped (.canUpd (.canFailAll (.set h)))))

theorem canRecover (h : d.Guarded R) {n : Nat} : (d.canRecover n).Guarded R := by
  unfold Dev.canRecover
  exact .when h fun h => .set h

theorem refPeriodBegin (h : d.Guarded R) {n : Nat} : (d.refPeriodBegin n).Guarded R := h

theorem refSent (h : d.Guarded R) {n stamp : Nat} : (d.refSent n stamp).Guarded R := by
  unfold Dev.refSent
  exact .raise (.count (.set (.canUpd h)))

theorem canTxGood (h : d.Guarded R) {n : Nat} : (d.canTxGood n).Guarded R := by
  unfold Dev.canTxGood
  exact .canCount h

theorem canLoop (h : d.Guarded R) {n : Nat} {f : CanFrame} {loop : Nat} : (d.canLoop n f loop).Guarded R := by
  unfold Dev.canLoop
  exact .when h fun h => .set h

theorem canLost (h : d.Guarded R) {n x : Nat} : (d.canLost n x).Guarded R := by
  unfold Dev.canLost
  exact .ite (by split; exacts [h, (.when h fun h => .canUpd h)]) (.ite (.canFail h) (.ite (.canFail h) h))

theorem canFifoShow (h : d.Guarded R) {n : Nat} : (d.canFifoShow n).Guarded R := h

theorem refSeen (h : d.Guarded R) {n : Nat} {f : CanFrame} : (d.refSeen n f).Guarded R := by
  unfold Dev.refSeen
  exact .when (.when h fun h => .beside h) fun h => .when (.when h fun h => .refPeriodBegin h) fun h => .domHeardRef h

theorem refHeard (h : d.Guarded R) {n stamp : Nat} : (d.refHeard n stamp).Guarded R := by
  unfold Dev.refHeard
  exact .ite (.raise (.count h)) (.ite (.canUpd (.when h fun h => .count h)) h)

theorem followHeard (h : d.Guarded R) {n master : Nat} : (d.followHeard n master).Guarded R := by
  unfold Dev.followHeard
  extract_lets d1
  have h1 : d1.Guarded R := .canUpd h
  apply Guarded.ite h
  split
  · exact .count h
  · exact .ite (.count (.count h1)) (.when (.raise (.count (.set (.setI h1)))) fun h => .domPair h)

theorem canRxGood (h : d.Guarded R) {n : Nat} : (d.canRxGood n).Guarded R := by
  unfold Dev.canRxGood
  exact .ite (.canCount (.drawn h)) (.canCount h)

theorem canException (h : d.Guarded R) {n : Nat} : (d.canException n).Guarded R := by
  unfold Dev.canException
  exact .ite (.raiseLim (.set (.count (.when (.canStopped (.canUpd h)) fun h => .set h)))) h

theorem canPop (h : d.Guarded R) {n : Nat} : (d.canPop n).Guarded R := by
  unfold Dev.canPop
  exact .ite h (.canFifoShow (.canUpd h))

/-! ## Sys2Proof/Machine/Eth.lean -/

theorem asSelect (h : d.Guarded R) : d.asSelect.Guarded R := by
  unfold Dev.asSelect
  exact .when (.when (.when (.setB (.set (.set (.set h)))) fun h => .raise h) fun h => .raise h) fun h => .domRoles h

theorem asForget (h : d.Guarded R) {p : Nat} : (d.asForget p).Guarded R := h

theorem ethLink (h : d.Guarded R) {p : Nat} {up : Bool} {sqi : Nat} : (d.ethLink p up sqi).Guarded R := by
  unfold Dev.ethLink
  exact .asSelect (.domTrunkChanged (.when (.set (.setB h)) fun h => .raise (.count (.asForget h))))

theorem syncSend (h : d.Guarded R) {p t : Nat} : (d.syncSend p t).Guarded R := h

theorem macLearn (h : d.Guarded R) {a p : Nat} : (d.macLearn a p).Guarded R := by
  unfold Dev.macLearn
  exact .ite h (.beside h)

theorem ethQueue (h : d.Guarded R) {q : Nat} {hi : Bool} {l : List (BitVec 8)} : (d.ethQueue q hi l).Guarded R := by
  unfold Dev.ethQueue
  exact .ite h (.ite (.count h) (.ite (.beside h) (.beside h)))

theorem ethLeave (h : d.Guarded R) {q : Nat} : (d.ethLeave q).Guarded R := by
  unfold Dev.ethLeave
  exact .ite h (.ite (.beside h) (.beside h))

theorem hostQueue (h : d.Guarded R) {p stamp : Nat} {l : List (BitVec 8)} : (d.hostQueue p stamp l).Guarded R := by
  unfold Dev.hostQueue
  exact .ite h (.ite (.count h) (.ite (.beside h) (.beside h)))

theorem idle (h : d.Guarded R) : d.idle.Guarded R := by
  unfold Dev.idle
  exact .ethLeave (.ethLeave (.tick h))

theorem switched (h : d.Guarded R) {p : Nat} {l : List (BitVec 8)} {ok : Bool} {age : Nat} : (d.switched p l ok age).Guarded R := by
  unfold Dev.switched
  extract_lets d1
  have h1 : d1.Guarded R := .macLearn h
  exact .ite h (.ite (.count h) (.ite (.count h) (.ite h (.when (.eachOf h1 fun h => .ethQueue h) fun h => .hostQueue h))))

/-! ## Sys2Proof/Machine/Spim.lean -/

theorem m0Upd (h : d.Guarded R) {f : M0 → M0} : (d.m0Upd f).Guarded R := h

theorem m0Go (h : d.Guarded R) : d.m0Go.Guarded R := by
  unfold Dev.m0Go
  exact .ite h (.ite (.count (.set h)) (.ite (.count (.set h)) (.clkEval (.m0Upd (.set (.set h))))))

theorem m1Show (h : d.Guarded R) : d.m1Show.Guarded R := h

theorem m1Start (h : d.Guarded R) : d.m1Start.Guarded R := by
  unfold Dev.m1Start
  split; exacts [h, .ite (.count (.beside h)) h]

theorem m1Tx (h : d.Guarded R) {v : BitVec 64} : (d.m1Tx v).Guarded R := by
  unfold Dev.m1Tx
  exact .ite (.count h) (.clkEval (.m1Show (.ite (.m1Start (.beside h)) (.beside h))))

theorem m1Received (h : d.Guarded R) {w : BitVec 32} : (d.m1Received w).Guarded R := by
  unfold Dev.m1Received
  exact .ite (.count h) (.raise (.beside h))

theorem m1Pop (h : d.Guarded R) : d.m1Pop.Guarded R := h

/-! ## Sys2Proof/Machine/Boot.lean -/

theorem setCause (h : d.Guarded R) {slot c : Nat} : (d.setCause slot c).Guarded R := h

theorem laResume (h : d.Guarded R) : d.laResume.Guarded R := by
  unfold Dev.laResume
  exact .each h fun h => .when h fun h => .laPump h

theorem jnlBoot (h : d.Guarded R) {torn : Bool} : (d.jnlBoot torn).Guarded R := by
  unfold Dev.jnlBoot
  exact .journal (.when (.set h) fun h => .raise (.count h))

theorem bootRelease (h : d.Guarded R) : d.bootRelease.Guarded R := by
  unfold Dev.bootRelease
  exact .each (.beside h) fun h => .pllReq h

theorem recoveryMode (h : d.Guarded R) : d.recoveryMode.Guarded R := by
  unfold Dev.recoveryMode
  exact .clkEval (.beside (.when (.set (.beside h)) fun h => .raise h))

theorem slotRefused (h : d.Guarded R) {c : Nat} : (d.slotRefused c).Guarded R := by
  unfold Dev.slotRefused
  exact .when (.beside (.setCause h)) fun h => .recoveryMode h

theorem segsDefault (h : d.Guarded R) : d.segsDefault.Guarded R := h

theorem verify (h : d.Guarded R) : d.verify.Guarded R := by
  unfold Dev.verify
  exact .ite h (.set h)

/-! ## Sys2Proof/Machine/Crc.lean -/

theorem crcPut (h : d.Guarded R) {u x : Nat} : (d.crcPut u x).Guarded R := h

theorem crcFeed (h : d.Guarded R) {u : Nat} {l : List (BitVec 8)} : (d.crcFeed u l).Guarded R := h

theorem crcInit (h : d.Guarded R) {u : Nat} : (d.crcInit u).Guarded R := by
  unfold Dev.crcInit
  exact .ite h (.crcPut h)

theorem crcGo (h : d.Guarded R) {u : Nat} : (d.crcGo u).Guarded R := by
  unfold Dev.crcGo
  exact .ite h (.ite (.raise (.set h)) (.set (.set h)))

theorem crcData (h : d.Guarded R) {u : Nat} {half : Bool} {v : Nat} : (d.crcData u half v).Guarded R := by
  unfold Dev.crcData
  exact .ite (.count h) (.crcFeed h)

/-! ## Sys2Proof/Machine/Flow.lean -/

theorem flowValid (h : d.Guarded R) {td tu dt : Int} : (d.flowValid td tu dt).Guarded R := by
  unfold Dev.flowValid
  exact .when (.raiseIf (.count (.set (.setI (.set (.set (.setI (.beside h)))))))) fun h => .raise (.set h)

/-! ## Sys2Proof/Machine/Lua.lean -/

theorem luShow (h : d.Guarded R) {n : Nat} : (d.luShow n).Guarded R := h

theorem luError (h : d.Guarded R) {n : Nat} : (d.luError n).Guarded R := by
  unfold Dev.luError
  exact .raiseLim h

theorem luTx (h : d.Guarded R) {n : Nat} {b : BitVec 8} : (d.luTx n b).Guarded R := by
  unfold Dev.luTx
  exact .ite (.luError (.count h)) (.luShow (.luUpd h))

theorem luPop (h : d.Guarded R) {n : Nat} : (d.luPop n).Guarded R := h

theorem linEnd (h : d.Guarded R) {n r : Nat} : (d.linEnd n r).Guarded R := by
  unfold Dev.linEnd
  exact .when (.set (.set (.luUpd h))) fun h => .luError (.count h)

theorem linGo (h : d.Guarded R) {n : Nat} : (d.linGo n).Guarded R := by
  unfold Dev.linGo
  exact .ite h (.ite (.set h) (.set (.set (.luUpd h))))

theorem linDone (h : d.Guarded R) {n : Nat} {f : LinFrame} {data : List (BitVec 8)} {sum : Nat} :
    (d.linDone n f data sum).Guarded R := by
  unfold Dev.linDone
  refine .ite (.linEnd ?_) (.ite (.linEnd h) (.linEnd ?_))
  · split; exacts [.set h, h]
  · split; exacts [.set (.setReg h), .setReg h]

/-! ## Sys2Proof/Machine/Nfc.lean -/

theorem tagAnswer (h : d.Guarded R) {l : List (BitVec 8)} : (d.tagAnswer l).Guarded R := by
  unfold Dev.tagAnswer
  exact .when (.beside h) fun h => .count h

theorem tagError (h : d.Guarded R) {code : BitVec 8} : (d.tagError code).Guarded R := by
  unfold Dev.tagError
  exact .when (.tagAnswer h) fun h => .raiseLim (.count h)

theorem tagDirty (h : d.Guarded R) {p : Nat} {on : Bool} : (d.tagDirty p on).Guarded R := h

theorem tagProto (h : d.Guarded R) {p : Nat} : (d.tagProto p).Guarded R := h

theorem nfcFree (h : d.Guarded R) : d.nfcFree.Guarded R := by
  unfold Dev.nfcFree
  exact .clkEval (.set (.beside h))

/-! ## Sys2Proof/Machine/Bus.lean -/

theorem storeField {w : RegW} {idle : Bool} {x : Store} {f : FDef} (h : x.d.Guarded R) : (Store.field w idle x f).d.Guarded R := by
  unfold Store.field
  extract_lets
  split
  · exact h
  · cases f.acc
    case ro | wo => exact h
    case rw => exact .set h
    case w1c => exact .clrBits h
    case w1s => exact .setBits h
    case rws => dsimp only; split <;> [exact h; (split; exacts [.set h, h])]
    case rwi => dsimp only; split <;> [exact h; (split <;> [exact .count h; (split; exacts [.set h, h])])]

theorem regStore (h : d.Guarded R) {w : RegW} {fs : List FDef} : (d.regStore w fs).Guarded R := by
  unfold Dev.regStore
  extract_lets _ x d1
  have hx : x.d.Guarded R := List.foldlRecOn (motive := fun x : Store => x.d.Guarded R) _ _ h fun _ h _ _ => .storeField h
  have h1 : d1.Guarded R := .when (.when hx fun h => .rwsStored h) fun h => .rwsRefuse h
  split; exacts [.when h1 fun h => .count h, h1]

theorem actSys (h : d.Guarded R) {w : RegW} {old : BitVec 64} : (d.actSys w old).Guarded R := by
  unfold Dev.actSys
  apply Guarded.ite (.when h fun h => .sleepReq h)
  exact .ite (.each h fun h => .ite (.pllEval h) h) (.ite (.when h fun h => .verify h) h)

theorem actIo (h : d.Guarded R) {w : RegW} : (d.actIo w).Guarded R := by
  unfold Dev.actIo
  extract_lets
  apply Guarded.ite (.when h fun h => .foWrite h)
  apply Guarded.ite (.foClearMask h)
  apply Guarded.ite (.when h fun h => .ite (.adcRun h) (.adcStop h))
  apply Guarded.ite (.when h fun h => .urgWrite h)
  apply Guarded.ite (.when h fun h => .refSelect h)
  exact .ite (.when (.calStart h) fun h => .trimWrite h) (.ite (.posRewrite h) (.ite (.posClear h) (.ite (.excDrop h) h)))

theorem actEvent (h : d.Guarded R) {w : RegW} : (d.actEvent w).Guarded R := by
  unfold Dev.actEvent
  apply Guarded.ite (.evrClearMask h)
  exact .ite (.when h fun h => .evrClear h) (.ite (.dtmRate h) (.ite (.when h fun h => .fwEntry h) h))

theorem actDrive (h : d.Guarded (.on ch)) {w : RegW} {old : BitVec 64} : (d.actDrive w old).Guarded (.on ch) := by
  unfold Dev.actDrive
  extract_lets _ d1
  have h1 : d1.Guarded (.on ch) := .carFollow h
  apply Guarded.ite (.when (.showAsc (.when h fun h => .carFollow (.sixSet h))) fun h => .ite (.cluEnable h) (.cluDisable h))
  apply Guarded.ite (.ite (.carStart h1) (.ite (.carStop h1) h1))
  apply Guarded.ite (.when h fun h => .carDead h)
  exact .ite (.when h fun h => .fltClear h) (.ite (.showAsc h) (.ite (.when h fun h => .tableLoad h) h))

theorem actAxis (h : d.Guarded R) {w : RegW} : (d.actAxis w).Guarded R := by
  unfold Dev.actAxis
  extract_lets
  apply Guarded.ite
  · exact .when (.when (.when h fun h => .ite (.axEnable h) (.axDisable h)) fun h => .axStopWrite h) fun h => .homeStart h
  · apply Guarded.ite (.axPosWrite h)
    exact .ite (.axTgtWrite h) (.ite (.axVtgtWrite h) (.ite (.when h fun h => .coilClamp h) (.ite (.axFltClear h) h)))

theorem actCore (h : d.Guarded R) {w : RegW} : (d.actCore w).Guarded R := by
  unfold Dev.actCore
  extract_lets d1
  have h1 : d1.Guarded R := .when h fun h => .splitWrite h
  apply Guarded.ite (.when (.when (.when h1 fun h => by split; exacts [.rejoin h, h]) fun h => .ownerReq h) fun h => .safeAck h)
  apply Guarded.ite (.when h fun h => .dogWrite h)
  apply Guarded.ite (.when h fun h => .slRun h)
  apply Guarded.ite (.when h fun h => .tune h)
  exact .ite (.when (.when (.when h fun h => .splStop h) fun h => .splArm h) fun h => .splForce h) h

theorem actLink (h : d.Guarded R) {w : RegW} : (d.actLink w).Guarded R := by
  unfold Dev.actLink
  apply Guarded.ite (.when h fun h => .m0Go h)
  apply Guarded.ite (.m1Tx h)
  apply Guarded.ite (.when h fun h => .m1Pop h)
  apply Guarded.ite (.ite (.luPop h) (.when h fun h => .luTx h))
  exact .ite (.when h fun h => .linGo h) (.ite (.clkEval h) (.ite (.clkEval (.ite h (.set h))) h))

theorem dbgUpd (h : d.Guarded R) {f : Dbg → Dbg} : (d.dbgUpd f).Guarded R := h

/-! ## Sys2Proof/Machine/CrcMem.lean -/

theorem crcEnd (h : d.Guarded R) {u : Nat} : (d.crcEnd u).Guarded R := by
  unfold Dev.crcEnd
  exact .ite (.ite (.raise (.set h)) (.set h)) h

/-! ## Sys2Proof/Machine/SpiHost.lean -/

theorem spihUpd (h : d.Guarded R) {f : Spih → Spih} : (d.spihUpd f).Guarded R := h

theorem spiDone (h : d.Guarded R) {q : SpiReq} {result : Nat} {data : List (BitVec 8)} : (d.spiDone q result data).Guarded R := by
  unfold Dev.spiDone
  exact .raise (.count (.clkEval (.m0Upd (.spihUpd h))))

theorem flashRefuse (h : d.Guarded R) {q : SpiReq} {n : Nat} : (d.flashRefuse q n).Guarded R := by
  unfold Dev.flashRefuse
  exact .spiDone (.when h fun h => .count h)

/-! ### Operations that answer a device and a result -/

theorem reqRelease (h : d.Guarded R) {a : List (BitVec 64)} : (d.reqRelease a).1.Guarded R := .eachOf h fun h => .release h

theorem reqBrakeRelease (h : d.Guarded R) {a : List (BitVec 64)} : (d.reqBrakeRelease a).1.Guarded R := by
  unfold Dev.reqBrakeRelease
  split; exacts [.raise (.brakeShow (.set (.beside h))), h]

theorem reqBrakeApply (h : d.Guarded R) {a : List (BitVec 64)} : (d.reqBrakeApply a).1.Guarded R := .brakeApply h

theorem reqDisStart (h : d.Guarded (.on ch)) {a : List (BitVec 64)} : (d.reqDisStart a).1.Guarded (.on ch) := by
  unfold Dev.reqDisStart
  split; exacts [h, .disCommand h]

theorem reqDisStop (h : d.Guarded R) {a : List (BitVec 64)} : (d.reqDisStop a).1.Guarded R := by
  unfold Dev.reqDisStop
  split; exacts [.disEnd h, h]

theorem pwdCheck (h : d.Guarded R) {a : List (BitVec 64)} {n : Nat} {lens setsIt : Bool} :
    (d.pwdCheck a n lens setsIt).1.Guarded R := by
  unfold Dev.pwdCheck
  split
  · exact h
  · split
    · exact h
    · split
      · exact h
      · split; exacts [.set h, .pwdWrong h]

theorem of_pwdCheck {e : Dev} {a : List (BitVec 64)} {n : Nat} {lens setsIt : Bool} {r : Option Nat}
    (he : d.pwdCheck a n lens setsIt = (e, r)) (h : d.Guarded R) : e.Guarded R := by
  have hp : (d.pwdCheck a n lens setsIt).1.Guarded R := .pwdCheck h
  rwa [he] at hp

end Dev.Guarded
end Sys2Proof.Machine
end

section
/-!
A path is removed with the gate off (R170, R317): what holds between a gate's turning on in ASC and the removal of its paths. One
rule for each operation that may come between the two within one step, and for those that remove paths.
-/
namespace Sys2Proof.Machine

/-- A channel in state `st` is ACTIVE or in ASC, and both paths permit it. -/
structure Gch.Conducts (h : Gch) (st : Nat) : Prop where
  permitted : h.permitted = true
  active : st = 2 ∨ st = 5

/-- A gate of channel `n` that is on has both paths and is ACTIVE or in ASC, or GCH13's own run is on. -/
def Dev.Backed (n : Fin 14) (d : Dev) : Prop := (d.gchAt n).gate = true →
  (d.gchAt n).Conducts (d.get (GCH_STAT_STATE n)) ∨ (n.val = 13 ∧ (d.gchAt n).running = true)

/-- Nothing asks for more of a gate that is off. -/
theorem Dev.backed_of_off {d : Dev} {n : Fin 14} (h : (d.gchAt n).gate = false) : d.Backed n :=
  fun hg => absurd hg (by simp [h])

theorem Dev.Guarded.backed {d : Dev} {n : Fin 14} (h : d.Guarded (.off n)) : d.Backed n := fun hg => ((h hg).1).elim

theorem Gch.permitted_of_wiring {h k : Gch} (hw : h.wiring = k.wiring) : h.permitted = k.permitted ∧ h.running = k.running := by
  simp only [Gch.wiring, Prod.mk.injEq] at hw
  obtain ⟨hlink, hp1, hp2, hrun⟩ := hw
  exact ⟨by rw [Gch.permitted, hlink, hp1, hp2, Gch.permitted], hrun⟩

namespace Dev.Backed

variable {n : Fin 14} {d e : Dev}

theorem guarded (h : d.Backed n) : d.Guarded (.on n) := fun hg => ⟨trivial, (h hg).imp_left Gch.Conducts.permitted⟩

/-- The state, the paths and the run are the same, and no gate has turned on. -/
theorem of_same (h : d.Backed n) (hr : e.reg (A_GCH_STAT n) = d.reg (A_GCH_STAT n))
    (hg : (e.gchAt n).gate = true → (d.gchAt n).gate = true) (hw : (e.gchAt n).wiring = (d.gchAt n).wiring) : e.Backed n := by
  obtain ⟨hperm, hrun⟩ := Gch.permitted_of_wiring hw
  have hget : e.get (GCH_STAT_STATE n) = d.get (GCH_STAT_STATE n) := congrArg (fieldGet · 0 3) hr
  rw [Dev.Backed, hget, hrun]
  exact fun he => (h (hg he)).imp_left fun hc => ⟨hperm.trans hc.permitted, hc.active⟩

theorem of_gchAt (h : d.Backed n) (hr : e.reg (A_GCH_STAT n) = d.reg (A_GCH_STAT n)) (hg : e.gchAt n = d.gchAt n) : e.Backed n :=
  h.of_same hr (fun he => by rwa [hg] at he) (by rw [hg])

theorem setReg (h : d.Backed n) {a : Nat} {v : BitVec 64} (ha : A_GCH_STAT n ≠ a) : (d.setReg a v).Backed n :=
  h.of_gchAt (Dev.reg_setReg_ne d v ha) rfl

theorem set (h : d.Backed n) {f : Fld} {v : Nat} (hf : f.addr < 0x40500038 ∨ 0x4050D038 < f.addr) : (d.set f v).Backed n :=
  h.setReg (by dsimp only [A_GCH_STAT]; omega)

theorem setI (h : d.Backed n) {f : Fld} {v : Int} (hf : f.addr < 0x40500038 ∨ 0x4050D038 < f.addr) : (d.setI f v).Backed n :=
  h.setReg (by dsimp only [A_GCH_STAT]; omega)

theorem setB (h : d.Backed n) {f : Fld} {b : Bool} (hf : f.addr < 0x40500038 ∨ 0x4050D038 < f.addr) : (d.setB f b).Backed n :=
  h.setReg (by dsimp only [A_GCH_STAT]; omega)

theorem setBits (h : d.Backed n) {f : Fld} {v : Nat} (hf : f.addr < 0x40500038 ∨ 0x4050D038 < f.addr) :
    (d.setBits f v).Backed n :=
  h.setReg (by dsimp only [A_GCH_STAT]; omega)

theorem clrBits (h : d.Backed n) {f : Fld} {v : Nat} (hf : f.addr < 0x40500038 ∨ 0x4050D038 < f.addr) :
    (d.clrBits f v).Backed n :=
  h.setReg (by dsimp only [A_GCH_STAT]; omega)

theorem count (h : d.Backed n) {f : Fld} (hf : f.addr < 0x40500038 ∨ 0x4050D038 < f.addr) :
    (d.count f).Backed n := h.setReg (by dsimp only [A_GCH_STAT]; omega)

/-- A change beside the registers and the gate channels keeps it. -/
theorem beside (h : d.Backed n) {time frac mono free lims spool splTurn jnl pwr boot per fo fio car clu pos pair hem tgrp
    thm axis conn dtm adc aux refOut img slc egr port can dom eth sfl spih m0 m1 lu nfc flw dbgTrig dbg} :
    Dev.Backed n ⟨d.regs, time, frac, mono, free, lims, spool, splTurn, jnl, pwr, boot, per, fo, fio, d.gch, car, clu, pos,
      pair, hem, tgrp, thm, axis, conn, dtm, adc, aux, refOut, img, slc, egr, port, can, dom, eth, sfl, spih, m0, m1, lu, nfc,
      flw, dbgTrig, dbg⟩ := h

theorem ite {c : Prop} [Decidable c] (h : d.Backed n) (h' : e.Backed n) : (if c then d else e).Backed n := by
  split <;> assumption

theorem when (h : d.Backed n) {c : Bool} {f : Dev → Dev} (hf : ∀ {d}, d.Backed n → (f d).Backed n) : (d.when c f).Backed n := by
  unfold Dev.when
  exact .ite (hf h) h

theorem each (h : d.Backed n) {m : Nat} {f : Nat → Dev → Dev} (hf : ∀ {i d}, i < m → d.Backed n → (f i d).Backed n) :
    (d.each m f).Backed n := kept_each (P := Dev.Backed n) h hf

theorem eachOf {α : Type} (h : d.Backed n) {l : List α} {f : α → Dev → Dev}
    (hf : ∀ {a d}, a ∈ l → d.Backed n → (f a d).Backed n) : (d.eachOf l f).Backed n := kept_eachOf (P := Dev.Backed n) h hf

/-! ## Gates -/

theorem gateOff (h : d.Backed n) {m : Nat} : (d.gateOff m).Backed n := by
  by_cases hm : n.val = m
  · subst hm
    exact Dev.backed_of_off (d.gchAt_gateOff n).1
  · exact h.of_gchAt (d.reg_gateOff_ne (by dsimp only [A_GCH_STAT]; omega)) (d.gchAt_gateOffBy_ne _ hm)

/-- A channel goes off to another state. -/
theorem gchPut_gateOff (h : d.Backed n) {m st : Nat} : ((d.gateOff m).gchPut m st).Backed n := by
  by_cases hm : n.val = m
  · subst hm
    exact Dev.backed_of_off (d.gchAt_gateOff n).1
  · exact .setReg (.gateOff h) (by dsimp only [A_GCH_STAT]; omega)

theorem gchOff (h : d.Backed n) {m : Nat} : (d.gchOff m).Backed n := h.gchPut_gateOff

theorem driveEval (h : d.Backed n) {m : Nat} : (d.driveEval m).Backed n := by
  unfold Dev.driveEval
  extract_lets st
  split
  next hst =>
    by_cases hm : n.val = m
    · subst hm
      refine fun hg => ?_
      obtain ⟨-, h2 | h5⟩ | hrun := h hg
      · exact absurd (hst.1.symm.trans h2) (by decide)
      · exact absurd (hst.1.symm.trans h5) (by decide)
      · exact .inr hrun
    · exact .setReg h (by dsimp only [A_GCH_STAT]; omega)
  · exact .ite h.gchOff h

theorem ascSwitch (h : d.Backed n) {m k : Nat} : (d.ascSwitch m k).Backed n := by
  by_cases hk : n.val = k
  · subst hk
    unfold Dev.ascSwitch
    extract_lets st q
    refine .ite h ?_
    split
    next hc =>
      simp only [Bool.and_eq_true] at hc
      obtain ⟨⟨⟨⟨-, hp⟩, -⟩, -⟩, -⟩ := hc
      refine .ite (fun _ => .inl ⟨?_, .inr (Dev.get_set_same (f := GCH_STAT_STATE n) _ 5 (Nat.le_of_ble_eq_true rfl))⟩) h
      exact (Gch.permitted_of_wiring d.wiring_gateOnAt).1.trans hp
    · exact .ite h.gchOff h
  · exact h.of_gchAt (d.reg_ascSwitch_ne (by dsimp only [A_GCH_STAT]; omega)) (d.gchAt_ascSwitch_ne hk)

theorem raise (h : d.Backed n) {k : Nat} (hk : k < 768) : (d.raise k).Backed n :=
  h.of_gchAt (d.raise_reg hk (raiseFree_of (by dsimp only [A_GCH_STAT]; omega) (by dsimp only [A_GCH_STAT]; omega)))
    (by rw [Dev.raise_gchAt])

/-- An update of another channel. -/
theorem gchUpd_ne (h : d.Backed n) {m : Nat} {f : Gch → Gch} (hm : n.val ≠ m) : (d.gchUpd m f).Backed n :=
  h.of_gchAt rfl (Dev.gchAt_gchUpd_ne d f hm)

/-- An update of a channel turns no gate on and leaves link, paths and run. -/
theorem gchUpd (h : d.Backed n) {m : Nat} {f : Gch → Gch}
    (hf : ∀ h, ((f h).gate = true → h.gate = true) ∧ (f h).wiring = h.wiring) : (d.gchUpd m f).Backed n := by
  by_cases hm : n.val = m
  · subst hm
    obtain ⟨hgate, hw⟩ := hf (d.gchAt n)
    exact h.of_same rfl (by rwa [Dev.gchAt_gchUpd_same]) (by rwa [Dev.gchAt_gchUpd_same])
  · exact h.gchUpd_ne hm

/-- The end of a run leaves the gate of GCH13 off. -/
theorem disEnd (h : d.Backed n) {why st : Nat} : (d.disEnd why st).Backed n := by
  unfold Dev.disEnd
  extract_lets d1 d2
  have h1 : d1.Backed n := .set (.set h.gchPut_gateOff (by decide)) (by decide)
  have h2 : d2.Backed n := by
    by_cases hm : n.val = 13
    · refine Dev.backed_of_off ?_
      have hat : d1.gchAt 13 = (d.gateOff 13).gchAt 13 := by simp only [d1, Dev.gchPut, Dev.set_gchAt]
      rw [show d2 = d1.gchUpd 13 _ from rfl, hm, Dev.gchAt_gchUpd_same, hat]
      exact (d.gchAt_gateOff 13).1
    · exact h1.gchUpd_ne hm
  exact .raise (.beside h2) (by decide)

/-- Both paths permit a channel. -/
theorem setPaths (h : d.Backed n) {m : Nat} : (d.setPaths m true true).Backed n := by
  by_cases hm : n.val = m
  · subst hm
    unfold Dev.setPaths
    rw [Dev.Backed, Dev.gchAt_gchUpd_same]
    refine fun hg => (h hg).imp_left fun hc => ⟨?_, hc.active⟩
    obtain ⟨⟨hlink, -⟩, -⟩ : (_ ∧ _) ∧ _ := by simpa only [Gch.permitted, Bool.and_eq_true] using hc.permitted
    simp only [Gch.permitted, hlink, Bool.and_self]
  · exact h.gchUpd_ne hm

/-- The paths of a channel that is ACTIVE or in ASC are removed with its gate off. -/
theorem cutPaths (h : d.Backed n) {m : Nat} : (d.cutPaths m).Backed n := by
  unfold Dev.cutPaths
  extract_lets d1 st
  by_cases hm : n.val = m
  · subst hm
    have hgate : (d1.gchAt n).gate = (d.gchAt n).gate := by rw [show d1 = d.gchUpd n _ from rfl, Dev.gchAt_gchUpd_same]
    have hrun : (d1.gchAt n).running = (d.gchAt n).running := by rw [show d1 = d.gchUpd n _ from rfl, Dev.gchAt_gchUpd_same]
    split
    · exact Dev.backed_of_off (d1.gchAt_gateOff n).1
    next hst =>
      have h1 : d1.Backed n := fun hg => by
        rw [hgate] at hg
        rw [hrun]
        exact .inr ((h hg).resolve_left fun hc => hst hc.active)
      exact .ite h1.disEnd h1
  · have h1 : d1.Backed n := h.gchUpd_ne hm
    exact .ite h1.gchOff (.ite h1.disEnd h1)

/-- It is a property of those that the safe states keep. -/
theorem calm (n : Fin 14) : CalmCuts (Dev.Backed n) where
  beside h hr hg := h.of_gchAt (by rw [Dev.reg, hr, Dev.reg]) (by rw [Dev.gchAt, hg, Dev.gchAt])
  setReg h ha := h.setReg (by unfold calmReg at ha; dsimp only [A_GCH_STAT]; omega)
  asc h hf := h.set (by rw [addr_of_ascShown hf]; decide)
  suspect {d m b} h := by
    by_cases hm : n.val = m
    · subst hm
      have hget : (d.setB (GCH_STAT_SUSPECT n) b).get (GCH_STAT_STATE n) = d.get (GCH_STAT_STATE n) :=
        Dev.get_set_bits (f := GCH_STAT_SUSPECT n) (g := GCH_STAT_STATE n) d (if b then 1 else 0) rfl
          (.inl (Nat.le_of_ble_eq_true rfl))
      rw [Dev.Backed, hget]
      exact h
    · exact h.setReg (by dsimp only [A_GCH_STAT]; omega)
  raise h hk := h.raise hk
  gchUpd h hf := h.gchUpd fun x => by
    obtain ⟨hgate, hlink, hp1, hp2, hrun⟩ := hf x
    exact ⟨fun hg => hgate ▸ hg, by rw [Gch.wiring, hlink, hp1, hp2, hrun, Gch.wiring]⟩
  driveEval h := h.driveEval
  ascSwitch h := h.ascSwitch
  clu h hf := h.setReg (by rw [hf]; dsimp only [A_GCH_STAT, A_CLU_STAT]; omega)
  hem h hf := h.set (by rw [hf]; dsimp only [A_HEM_STAT]; omega)
  cutPaths h := h.cutPaths

end Dev.Backed
end Sys2Proof.Machine
end

section
/-!
The operations that remove paths, and those that come between a safe-state command and such a removal in one step: Hem's hold, the
demands of Thimble's groups, the ends of the unlocks, Thimble's start, and SFL's connections.
-/
namespace Sys2Proof.Machine
namespace Dev.Backed

variable {n : Fin 14} {d e : Dev}

/-! ## Hem's hold and the demands -/

theorem sidesAgain (h : d.Backed n) : d.sidesAgain.Backed n := by
  unfold Dev.sidesAgain
  exact .each ((calm n).showAsc h) fun _ h => .ite ((calm n).applySet h) h

theorem foHoldAll (h : d.Backed n) : d.foHoldAll.Backed n := (calm n).foHoldAll h

theorem groupSafe (h : d.Backed n) {g : Nat} {cmd : Bool} (hg : g < 2) : (d.groupSafe g cmd).Backed n := (calm n).groupSafe hg h

theorem hemSafe (h : d.Backed n) {g : Nat} (hg : g < 2) : (d.hemSafe g).Backed n := (calm n).hemSafe hg h

theorem jnlThimble (h : d.Backed n) {src : Nat} : (d.jnlThimble src).Backed n := (calm n).jnlThimble h

theorem jnlFault (h : d.Backed n) {src fltAddr statAddr : Nat} : (d.jnlFault src fltAddr statAddr).Backed n := (calm n).jnlPut h

theorem cutGroup (h : d.Backed n) {g : Nat} : (d.cutGroup g).Backed n := by
  unfold Dev.cutGroup
  exact .eachOf h fun _ h => .eachOf h fun _ h => .cutPaths h

theorem carFollow (h : d.Backed n) : d.carFollow.Backed n := by
  unfold Dev.carFollow
  exact .ite (.beside (.setB h (by decide))) h

theorem carBegin (h : d.Backed n) {c : Nat} : (d.carBegin c).Backed n := .beside (.setReg h (by dsimp only [A_GCH_STAT]; omega))

/-- A winding discharge of a power group ends. -/
theorem windStop (h : d.Backed n) (hw : ∀ g, d.thm.windGrp = some g → ∀ x ∈ d.groups g, x < 2) : d.windStop.Backed n := by
  unfold Dev.windStop
  split
  · exact h
  next g hg =>
    exact .eachOf (.beside h) fun hx h => .eachOf ((calm n).carIdle (hw g hg _ hx) ((calm n).carUpd
      (.when h fun h => .carFollow (.carBegin (.setReg h (by dsimp only [A_GCH_STAT]; omega)))))) fun _ h => .cutPaths h

theorem chans_eq_nil (d : Dev) {g : Nat} (hg : 2 ≤ g) : d.chans g = [] := by
  unfold Dev.chans Dev.groupOf
  refine List.filter_eq_nil_iff.mpr fun m _ => ?_
  have hne : (if (decide (m < 6) || d.paired) = true then 0 else 1) ≠ g := by split <;> omega
  simpa using hne

/-- The end of a winding discharge leaves each gate off or permitted, whatever the group it names: one that has no channels loses
no path. -/
theorem windStop_guarded (h : d.Backed n) : d.windStop.Guarded (.on n) := by
  by_cases hw : ∀ g, d.thm.windGrp = some g → ∀ x ∈ d.groups g, x < 2
  · exact (h.windStop hw).guarded
  · simp only [not_forall] at hw
    obtain ⟨g, hg, x, hx, hlt⟩ := hw
    have hsix : ¬ d.six = true := fun hsix => hlt (by
      simp only [Dev.groups, if_pos hsix, List.mem_cons, List.not_mem_nil, or_false] at hx
      omega)
    have hgroups : d.groups g = [g] := if_neg hsix
    rw [hgroups] at hx
    obtain rfl := List.mem_singleton.mp hx
    unfold Dev.windStop
    rw [hg]
    dsimp only
    rw [show Dev.groups { d with thm := { d.thm with windGrp := none } } x = [x] from hgroups]
    show ((Dev.carIdle _ x).eachOf (Dev.chans _ x) _).Guarded _
    rw [chans_eq_nil _ (Nat.le_of_not_lt hlt)]
    exact .carIdle (.carUpd (.when (.beside h.guarded) fun h => .carFollow (.carBegin (.set h))))

theorem thmToSto (h : d.Backed n) {g : Nat} (hg : g < 2) : (d.thmToSto g).Backed n := by
  unfold Dev.thmToSto
  exact .eachOf ((calm n).brakeFor ((calm n).thmPut ((calm n).applySafe ((calm n).cluSafe hg h.cutGroup))))
    fun _ h => .clrBits h (by dsimp only; omega)

theorem thmStoDemand (h : d.Backed n) {g : Nat} (hg : g < 2) : (d.thmStoDemand g).Backed n := by
  unfold Dev.thmStoDemand
  extract_lets _ d1
  have h1 : d1.Backed n := (calm n).applySafe ((calm n).cluSafe hg h)
  exact .ite (.ite ((calm n).brakeFor ((calm n).thmPut (.eachOf h1 fun _ h => .eachOf h fun _ h => .ite h (.cutPaths h))))
    (.thmToSto h hg)) h

theorem showDemand (h : d.Backed n) {g : Nat} : (d.showDemand g).Backed n := by
  unfold Dev.showDemand
  exact .eachOf h fun _ h => .set h (by dsimp only; omega)

theorem hemHold (h : d.Backed n) {why : Nat} {on : Bool} : (d.hemHold why on).Backed n := by
  unfold Dev.hemHold
  extract_lets _ _ d1 _ d2
  have h1 : d1.Backed n := .beside h
  have h2 : d2.Backed n := .foHoldAll (.raise (.set h1 (by decide)) (by decide))
  exact .ite h1.foHoldAll (.ite (.eachOf (.each h2 fun hi h => (calm n).axHold hi h)
    fun hx h => .hemSafe h (Dev.mem_allGroups_lt hx))
    (.each (.foHoldAll (.raise (.set h1 (by decide)) (by decide))) fun hi h => (calm n).axUnhold hi h))

theorem thmLatch (h : d.Backed n) {bit src : Nat} : (d.thmLatch bit src).Backed n := by
  unfold Dev.thmLatch
  exact .ite h (.jnlThimble (.setBits h (by decide)))

theorem ss1Enter (h : d.Backed n) {g : Nat} (hg : g < 2) : (d.ss1Enter g).Backed n := by
  unfold Dev.ss1Enter
  extract_lets _ d1 d2
  have h1 : d1.Backed n := .eachOf (.raise ((calm n).thmPut h) (by decide)) fun _ h => .set (.beside h) (by dsimp only; omega)
  have h2 : d2.Backed n := .eachOf h1 fun _ h => .beside h
  exact .ite h1 (.thmStoDemand (.eachOf (.raise (.thmLatch h2) (by decide)) fun _ h => .setBits h (by dsimp only; omega)) hg)

theorem thmEval (h : d.Backed n) {g : Nat} (hg : g < 2) : (d.thmEval g).Backed n := by
  unfold Dev.thmEval
  extract_lets _ d1 _ _ d2 _ d3
  have h1 : d1.Backed n := .showDemand h
  have h2 : d2.Backed n := by
    unfold d2 Dev.when
    split
    next hc =>
      refine .windStop h1 fun x hx y hy => Dev.mem_groups_lt ?_ hy
      simp only [Bool.and_eq_true, decide_eq_true_eq] at hc
      injection hx.symm.trans hc.1 with he
      omega
    · exact h1
  have h3 : d3.Backed n := .when h2 fun h => .eachOf h fun _ h => .setBits h (by dsimp only; omega)
  exact .ite (.thmStoDemand h3 hg) (.ite (.ss1Enter h3 hg) h3)

theorem thmEvalAll (h : d.Backed n) : d.thmEvalAll.Backed n := by
  unfold Dev.thmEvalAll
  exact .eachOf (.hemHold h) fun hx h => .thmEval h (Dev.mem_allGroups_lt hx)

/-! ## The carriers as a freeze ends -/

theorem trigCause (h : d.Backed n) {k : Nat} : (d.trigCause k).Backed n :=
  h.of_gchAt (d.trigCause_keeps (·.reg _) (fun _ _ => rfl) k) (d.trigCause_keeps (·.gchAt _) (fun _ _ => rfl) k)

theorem raiseIf (h : d.Backed n) {on : Bool} {k : Nat} (hk : k < 768) : (d.raiseIf on k).Backed n := by
  unfold Dev.raiseIf
  exact .ite (.raise h hk) (.trigCause h)

theorem carApply (h : d.Backed n) {c k : Nat} : (d.carApply c k).Backed n := by
  unfold Dev.carApply
  exact .ite h (.ite (.beside h) (.gchUpd (.beside h) fun _ => ⟨id, rfl⟩))

theorem carCmd (h : d.Backed n) {c k : Nat} {on : Bool} : (d.carCmd c k on).Backed n := by
  unfold Dev.carCmd
  exact .carApply (.beside h)

theorem carRelease (h : d.Backed n) {c : Nat} : (d.carRelease c).Backed n := by
  unfold Dev.carRelease
  exact .each h fun _ h => .ite (.carApply (.beside h)) h

theorem brakePulse (h : d.Backed n) : d.brakePulse.Backed n := by
  unfold Dev.brakePulse
  exact .ite (.raiseIf (.carCmd (.carRelease (.set (.driveEval (.beside h)) (by decide)))) (by decide)) h

theorem brakeDirect (h : d.Backed n) : d.brakeDirect.Backed n := by
  unfold Dev.brakeDirect
  exact .ite h (.brakePulse (.beside (.jnlFault (.raise (.set h (by decide)) (by decide)))))

theorem brakeClock (h : d.Backed n) : d.brakeClock.Backed n := by
  unfold Dev.brakeClock
  exact .when h fun h => .brakeDirect h

theorem showFrozen (h : d.Backed n) : d.showFrozen.Backed n := by
  unfold Dev.showFrozen
  exact .brakeClock (.carFollow (.each h fun _ h => .ite h (.ite (.beside (.set
    (.set h (by dsimp only; omega)) (by dsimp only; omega))) (.when (.beside (.set h (by dsimp only; omega))) fun h =>
    .brakePulse h))))

theorem freezeEnd (h : d.Backed n) : d.freezeEnd.Backed n := by
  unfold Dev.freezeEnd
  exact .ite (.eachOf (.raise (.showFrozen (.set h (by decide))) (by decide)) fun hx h => .when h
    fun h => .hemSafe h (Dev.mem_allGroups_lt hx)) h

theorem resumeAll (h : d.Backed n) : d.resumeAll.Backed n := by
  unfold Dev.resumeAll
  exact .freezeEnd (.set (.each h fun _ h => .when h fun h => .beside h) (by decide))

/-! ## The safety-parameter area -/

theorem showLog (h : d.Backed n) : d.showLog.Backed n := .setB (.set (.set h (by decide)) (by decide)) (by decide)

theorem showUnlock (h : d.Backed n) : d.showUnlock.Backed n :=
  .setB (.setB (.setB (.setB h (by decide)) (by decide)) (by decide)) (by decide)

/-- No committed field lies in a channel's state. -/
theorem setMask_stat (n : Fin 14) : setMask (A_GCH_STAT n) = 0 := by
  revert n
  decide

theorem showRec (h : d.Backed n) {r : Nat × BitVec 64} : (d.showRec r).Backed n := by
  unfold Dev.showRec
  by_cases hr : A_GCH_STAT n = r.1
  · refine h.of_gchAt ?_ rfl
    rw [← hr, setMask_stat]
    dsimp only
    rw [Dev.reg_setReg_same, show ~~~BitVec.ofNat 64 0 = BitVec.allOnes 64 from rfl, BitVec.and_allOnes, BitVec.and_zero,
      BitVec.or_zero]
  · exact .setReg h hr

theorem showSet (h : d.Backed n) : d.showSet.Backed n := by
  unfold Dev.showSet
  split
  · exact .eachOf h fun _ h => .showRec h
  · exact h

theorem thmChecks (h : d.Backed n) : d.thmChecks.Backed n := by
  unfold Dev.thmChecks
  extract_lets _ _ d1 d2 _ d3
  have h1 : d1.Backed n := .when (.when h fun h => .jnlThimble h) fun h => .jnlThimble h
  have h2 : d2.Backed n := .ite h1 (.beside h1)
  have h3 : d3.Backed n := .when (.setB h2 (by decide)) fun h => .jnlThimble h
  exact .when (.setB h3 (by decide)) fun h => .jnlThimble h

theorem thmShow (h : d.Backed n) : d.thmShow.Backed n := by
  unfold Dev.thmShow
  exact .set (.setB (.setB (.set (.showLog (.showSet h)) (by decide)) (by decide)) (by decide)) (by decide)

/-! ## Thimble's start -/

theorem brakeShow (h : d.Backed n) : d.brakeShow.Backed n := by
  unfold Dev.brakeShow Dev.brakeShow1
  exact .setB ((calm n).foPut (.set ((calm n).foPut (.set h (by decide))) (by decide))) (by decide)

theorem siPut (h : d.Backed n) {k st : Nat} : (d.siPut k st).Backed n := by
  unfold Dev.siPut
  exact .ite h (.raise (.set h (by dsimp only; omega)) (by decide))

theorem siCause (h : d.Backed n) : d.siCause.Backed n := by
  unfold Dev.siCause
  exact .ite (.setBits h (by decide)) (.clrBits h (by decide))

theorem siStep (h : d.Backed n) {k : Nat} : (d.siStep k).Backed n := by
  unfold Dev.siStep
  refine .siCause ?_
  split
  exacts [.ite (.siPut (.set h (by dsimp only; omega))) h, .ite (.siPut h) h, .ite h (.siPut h), .ite (.siPut h) h, h]

theorem siStart (h : d.Backed n) {k : Nat} : (d.siStart k).Backed n := by
  unfold Dev.siStart
  exact .siStep (.siPut (.set h (by dsimp only; omega)))

theorem ascRelease (h : d.Backed n) {g : Nat} : (d.ascRelease g).Backed n := by
  unfold Dev.ascRelease
  exact .eachOf h fun _ h => .ite ((calm n).setMode (.eachOf h fun _ h => .ite h.gchOff h)) h

theorem selPut (h : d.Backed n) {g : Nat} {asc : Bool} (hg : g < 2) : (d.selPut g asc).Backed n := by
  unfold Dev.selPut
  extract_lets d1 d2 d3
  have h1 : d1.Backed n := .eachOf h fun {x _} _ h => .setB (.setB h (by dsimp only; omega)) (by split <;> dsimp only <;> omega)
  have h3 : d3.Backed n := .ascRelease (.raise h1 (by decide))
  exact .ite h (.ite (.raise h1 (by decide)) (.ite (.thmToSto h3 hg) h3))

theorem thmStart (h : d.Backed n) : d.thmStart.Backed n := by
  unfold Dev.thmStart
  exact .thmEvalAll (.driveEval (.setPaths (.setPaths (.eachOf (.each (.set h (by decide)) fun _ h => .siStart h) fun hx h =>
    .selPut h (Dev.mem_allGroups_lt hx)))))

theorem speedRead (h : d.Backed n) {g : Nat} (hg : g < 2) : (d.speedRead g).Backed n := by
  unfold Dev.speedRead
  split
  extract_lets rest d1
  have h1 : d1.Backed n := .eachOf h fun _ h => .beside (.setB (.setI h (by dsimp only; omega)) (by dsimp only; omega))
  exact .ite (.selPut h1 hg) (.ite (.selPut h1 hg) h1)

/-! ## Connections -/

theorem sflSend (h : d.Backed n) {k ver kind : Nat} {pay : List (BitVec 8)} : (d.sflSend k ver kind pay).Backed n := by
  unfold Dev.sflSend
  exact .ite (.count h (by decide)) (.when (.set (.set (.set (.beside h) (by decide)) (by decide)) (by decide))
    fun h => .raise h (by decide))

theorem sflThm (h : d.Backed n) {k : Nat} : (d.sflThm k).Backed n := by
  unfold Dev.sflThm
  exact .when h fun h => .thmEvalAll h

theorem sflPut (h : d.Backed n) {k st : Nat} : (d.sflPut k st).Backed n := by
  unfold Dev.sflPut
  exact .set (.beside h) (by dsimp only; omega)

theorem sflEnable (h : d.Backed n) {k : Nat} {en : Bool} : (d.sflEnable k en).Backed n := by
  unfold Dev.sflEnable
  extract_lets _ d1 d2
  have h2 : d2.Backed n := .setB (.when h fun h => .sflSend h) (by dsimp only; omega)
  exact .sflThm (.ite (.when h2 fun h => .sflPut h) (.ite h2 (.beside (.sflPut h2))))

end Dev.Backed
end Sys2Proof.Machine
end

section
/-!
The operations that may remove a path from a channel, from a device whose gate is off: no gate that turns on in one of them loses a
path with its gate on (R170, R317).
-/
namespace Sys2Proof.Machine

theorem Tab.find_keep_in {α : Type} (d : Nat → α) {p : Nat → Bool} {a : Nat} (h : p a = true) (t : List (Nat × α)) :
    Tab.find d (Tab.keep p t) a = Tab.find d t a := by
  induction t with
  | nil => rfl
  | cons e t ih =>
    obtain ⟨k, v⟩ := e
    unfold Tab.keep at ih ⊢
    rw [List.filter_cons]
    by_cases hk : k = a
    · rw [if_pos (by rw [hk, h]), Tab.find, if_pos hk, Tab.find, if_pos hk]
    · have hskip : Tab.find d ((k, v) :: t) a = Tab.find d t a := by rw [Tab.find, if_neg hk]
      split
      · rw [Tab.find, if_neg hk, ih, hskip]
      · rw [ih, hskip]

/-! ## Paths removed while the gate is off -/

namespace Dev.Guarded

variable {ch : Nat} {d : Dev}

theorem cutPaths (h : d.Guarded (.off ch)) {m : Nat} : (d.cutPaths m).Guarded (.off ch) := by
  unfold Dev.cutPaths
  extract_lets d1 st
  have h1 : d1.Guarded (.off ch) := .gchUpdOff h fun _ hg => hg
  exact .ite (.gchOff h1) (.ite (.disEnd h1) h1)

theorem windStop (h : d.Guarded (.off ch)) : d.windStop.Guarded (.off ch) := by
  unfold Dev.windStop
  extract_lets
  split
  · exact h
  · exact .eachOf (.beside h) fun h => .eachOf (.carIdle (.carUpd (.when h fun h => .carFollow (.carBegin (.set h))))) fun h =>
      .cutPaths h

end Dev.Guarded

/-! ## Operations that end with paths removed -/

namespace Dev.Backed

variable {n : Fin 14} {d : Dev}

theorem sbcFault (h : d.Guarded (.off n)) : d.sbcFault.Backed n := by
  unfold Dev.sbcFault
  exact .thmEvalAll (Dev.Guarded.raise (.thmLatch (.brakeApply h))).backed

theorem demandSto (h : d.Guarded (.off n)) {g bits : Nat} (hg : g < 2) : (d.demandSto g bits).Backed n := by
  unfold Dev.demandSto
  exact .thmEval (Dev.Guarded.eachOf h fun h => .setBits h).backed hg

theorem ss1Demand (h : d.Guarded (.off n)) {g : Nat} (hg : g < 2) : (d.ss1Demand g).Backed n := demandSto h hg

theorem ss1Violate (h : d.Guarded (.off n)) {g : Nat} (hg : g < 2) : (d.ss1Violate g).Backed n := by
  unfold Dev.ss1Violate
  exact ss1Demand (.raise (.thmLatch (.eachOf h fun h => .tgrpUpd h))) hg

theorem ss1Complete (h : d.Guarded (.off n)) {g : Nat} (hg : g < 2) : (d.ss1Complete g).Backed n := by
  unfold Dev.ss1Complete
  exact .ite (Dev.Guarded.eachOf (.brakeApply (.raise h)) fun h => .tgrpUpd h).backed (ss1Demand (.raise h) hg)

theorem tmJudge (h : d.Guarded (.off n)) {pdc pexp : Int} {wasBlind : Bool} : (d.tmJudge pdc pexp wasBlind).Backed n := by
  unfold Dev.tmJudge
  exact .ite (Dev.Guarded.set h).backed (.ite (Dev.Guarded.set h).backed
    (.thmEvalAll (.eachOf (Dev.Guarded.raise (.thmLatch (.set h))).backed fun hx h =>
      .groupSafe h (Dev.mem_allGroups_lt (List.mem_of_mem_filter hx)))))

theorem setActs (h : d.Guarded (.off n)) : d.setActs.Backed n := by
  unfold Dev.setActs
  extract_lets d1 d2 d3 d4
  have h2 : d2.Guarded (.off n) := .each (.carClamps (.showSet h)) fun h => .coilClamp h
  have h3 : d3.Guarded (.off n) := .each h2 fun h => .ite h (.siStart h)
  have h4 : d4.Backed n := .eachOf h3.backed fun hx h => .ite h (.selPut h (Dev.mem_allGroups_lt hx))
  exact .thmEvalAll (.hemHold (.set (.set h4 (by decide)) (by decide)))

theorem sflCrcFail (h : d.Guarded (.off n)) {k : Nat} : (d.sflCrcFail k).Backed n := by
  unfold Dev.sflCrcFail
  exact .ite (.sflThm (Dev.Guarded.jnlFault (.sflDown (.set (.count (.connUpd h))))).backed)
    (Dev.Guarded.set (.count (.connUpd h))).backed

theorem sflAccept (h : d.Guarded (.off n)) {k kind seq : Nat} {pay : List (BitVec 8)} : (d.sflAccept k kind seq pay).Backed n := by
  unfold Dev.sflAccept
  extract_lets _ _ _ e
  have he : e.Guarded (.off n) := by
    unfold e
    split
    · exact .connUpd (.set (.add h))
    · exact .sflOpened (.when h fun h => .sflDown h)
    · exact .ite (.raise (.count h)) (.raise (.sflPut (.set h)))
    · exact .sflDown h
  exact .sflThm he.backed

theorem sflJudge (h : d.Guarded (.off n)) {f : List (BitVec 8)} : (d.sflJudge f).Backed n := by
  unfold Dev.sflJudge
  extract_lets
  apply Backed.ite (Dev.Guarded.sflResult h).backed
  split
  · exact (Dev.Guarded.sflResult h).backed
  · extract_lets _ d1
    have h1 : d1.Guarded (.off n) := .sflResult h
    exact .ite (sflCrcFail (.sflResult h)) (.ite (Dev.Guarded.sflSend (.sflResult h)).backed (.ite (sflAccept h1) h1.backed))

theorem stageStart (h : d.Guarded (.off n)) : d.stageStart.Backed n := by
  unfold Dev.stageStart
  extract_lets _ d1 d2 d3 d4 d5
  have h2 : d2.Guarded (.off n) := .carStart (.each (.when h fun h => .refSelect (.set h)) fun h => .when h fun h => .carStart h)
  have h4 : d4.Guarded (.off n) := .each (.each h2 fun h => .when (.set h) fun h => .adcRun h) fun h => .when h fun h =>
    .slRunPut (.set h)
  have h5 : d5.Guarded (.off n) := .each h4 fun h => .when h fun h => .canRunSet (.set h)
  exact .eachOf h5.backed fun _ h => .when h fun h => .sflEnable h

theorem activate (h : d.Guarded (.off n)) {mismatch : Bool} : (d.activate mismatch).Backed n := by
  unfold Dev.activate
  extract_lets _ _ d1 _ _ d2
  have h1 : d1.Guarded (.off n) := .setReg (.set (.set (.set h)))
  have h2 : d2.Guarded (.off n) := .beside (.set (.setB h1))
  exact .thmEvalAll (.foHoldAll (.hemHold (stageStart (.showUnlock (.tableLoadAll (.eachOf (.segsDefault h2) fun h =>
    .stagePut h))))))

/-! ## Requests -/

theorem reqDemand (h : d.Guarded (.off n)) {ss1 : Bool} {a : List (BitVec 64)} : (Dev.reqDemand ss1 d a).1.Backed n :=
  .eachOf h.backed fun hx h =>
    .thmEval (.eachOf h fun _ h => .beside h) (Dev.mem_allGroups_lt (List.mem_of_mem_filter hx))

theorem reqWind (h : d.Guarded (.off n)) {a : List (BitVec 64)} : (d.reqWind a).1.Backed n := by
  unfold Dev.reqWind
  extract_lets
  split
  · exact .eachOf (.beside h.backed) fun hx h => .thmEval h (Dev.mem_allGroups_lt (List.mem_of_mem_filter hx))
  · exact h.backed

theorem reqClear (h : d.Guarded (.off n)) {a : List (BitVec 64)} : (d.reqClear a).1.Backed n := by
  unfold Dev.reqClear
  exact .thmEvalAll (Dev.Guarded.brakeShow (.beside (.each (.set (.when h fun h => .clearBrakeLatches h)) fun h =>
    .tgrpUpd h))).backed

/-! ## Resets and restarts -/

theorem thmForget (h : d.Backed n) : d.thmForget.Backed n := by
  unfold Dev.thmForget
  extract_lets lvl keep gone d1 d2
  have hgone : gone (A_GCH_STAT n) = false := by
    have hlt : ¬ 0x48000000 ≤ A_GCH_STAT n := by dsimp only [A_GCH_STAT]; omega
    simp [gone, hlt]
  have h1 : d1.Backed n := h.of_gchAt (Tab.find_keep_in (p := fun a => !gone a) _ (by simp only [hgone, Bool.not_false]) d.regs) rfl
  have h2 : d2.Backed n := .each h1 fun _ h => .set h (by dsimp only; omega)
  exact .showUnlock (.brakeShow (.set (.set h2 (by decide)) (by decide)))

/-- After the reset no path is removed any more. -/
theorem appReset (h : d.Backed n) {held : Bool} : (d.appReset held).Guarded (.on n) := by
  unfold Dev.appReset
  extract_lets _ d1 _ _ d2 _ d3
  have h1 : d1.Guarded (.on n) := .eachOf h.hemHold.windStop_guarded fun h => .groupSafe h
  have h2 : d2.Guarded (.on n) := .eachOf (.beside h1) fun h => .copyFld h
  have h3 : d3.Guarded (.on n) := .tagShow (.brakeShow (.gateOff (.ite h2 (.copyFld h2))))
  exact .refAtStart (.trimLoad (.showSet (.clkEval (.each h3 fun h => .ite (.set h) h))))

end Dev.Backed

namespace Dev.Guarded

variable {n : Fin 14} {d : Dev}

theorem gateRise (h : d.Guarded (.off n)) {lowNs stuck : Nat} : (d.gateRise lowNs stuck).Guarded (.on n) := by
  unfold Dev.gateRise
  extract_lets d1 _ _ d2 off d3
  have h1 : d1.Guarded (.off n) := .set (.set h)
  have h2 : d2.Guarded (.off n) := .ite (.drawn h1) h1
  have h3 : d3.Guarded (.on n) := .ite h2.on (Dev.Backed.thmEvalAll (Dev.Guarded.gateDisable h2).backed).guarded
  exact .ite (.count (.gateClearAll (.set h3))) (.ite (.count (.gateClearAll h2.on)) (.count h2.on))

theorem foBrakeLatch (h : d.Guarded (.off n)) {m cause : Nat} : (d.foBrakeLatch m cause).Guarded (.on n) := by
  unfold Dev.foBrakeLatch
  extract_lets src opp d1 d2
  have h2 : d2.Guarded (.off n) := .foUpd (.setBits (.set h))
  exact .raise (.foFights (Dev.Backed.sbcFault h2).guarded)

end Dev.Guarded
end Sys2Proof.Machine
end

section
/-!
The same of the operations of the machine's state: those that act on the memories too, Thimble's requests, and the accesses.
-/
namespace Sys2Proof.Machine

/-- The gate of the rule's channel in the machine. -/
def State.Guarded (R : GateRule) (s : State) : Prop := s.dev.Guarded R

namespace State.Guarded

variable {R : GateRule} {s t u : State} {ch : Nat}

/-- The device becomes `e`. -/
theorem dev (k : t.Guarded R) {e : Dev} {mem flash tag : List Host.Cell} {pending : List Instr}
    (he : t.dev.Guarded R → e.Guarded R) :
    State.Guarded R ⟨e, mem, flash, tag, pending⟩ := he k

/-- The memory becomes `m`. -/
theorem mem (k : t.Guarded R) {m : List Host.Cell} : State.Guarded R { t with mem := m } := k

theorem ite {c : Prop} [Decidable c] (k : t.Guarded R) (k' : u.Guarded R) : State.Guarded R (if c then t else u) := by
  split <;> assumption

/-! ### Log, resets and Spool -/

theorem logEntry (k : t.Guarded R) {kind origin count digest reason : Nat} :
    (t.logEntry kind origin count digest reason).Guarded R := by
  unfold State.logEntry
  exact .ite k (.dev k fun h => .showLog (.beside h))

theorem endSafety (k : t.Guarded R) {origin reason : Nat} : (t.endSafety origin reason).Guarded R := by
  unfold State.endSafety
  exact .ite (.dev (.logEntry (.dev k fun h => .set h)) fun h => .raise (.beside h)) k

theorem endDev (k : t.Guarded (.on ch)) {origin reason : Nat} : (t.endDev origin reason).Guarded (.on ch) := by
  unfold State.endDev
  exact .ite (.dev (.logEntry (.dev k fun h => .showUnlock (.resumeAll (.set h)))) fun h => .raise h) k

theorem volatileLost (k : t.Guarded R) : t.volatileLost.Guarded R := .mem k

theorem splWrite (k : t.Guarded R) {c : Nat} {rec : List (BitVec 64)} : (t.splWrite c rec).Guarded R := by
  unfold State.splWrite
  extract_lets _ _ _ _ d1 d2
  refine .ite k (.dev k fun h => ?_)
  have h2 : d2.Guarded R := .count (.when (.set h) fun h => .set h)
  exact .ite (.set h2) (.ite (.splStopDone (.setSch h2)) h2)

theorem splServe (k : t.Guarded R) : t.splServe.Guarded R := by
  unfold State.splServe
  extract_lets
  split
  · exact k
  · split
    · exact k
    · exact .splWrite (.dev k fun h => .splLevel (.setSch (.beside h)))

theorem splStore (k : t.Guarded R) {a n v : Nat} : (t.splStore a n v).Guarded R := by
  unfold State.splStore
  exact .ite (.dev k fun h => .count h) (.mem k)

theorem pairStore (k : t.Guarded R) {p a n v : Nat} : (t.pairStore p a n v).Guarded R := by
  unfold State.pairStore
  exact .ite k (.dev k fun h => .ite h (.pairUpd h))

/-! ### Thimble's requests -/

theorem onDev (k : t.Guarded R) {f : Dev → List (BitVec 64) → Dev × Nat} {a : List (BitVec 64)}
    (hf : ∀ {d}, d.Guarded R → (f d a).1.Guarded R) : (onDev f t a).1.Guarded R := .dev k hf

theorem reqUnlock (k : t.Guarded (.on ch)) {dev : Bool} {o : Origin} {len1 : Nat} {a : List (BitVec 64)} :
    (State.reqUnlock dev o len1 t a).1.Guarded (.on ch) := by
  unfold State.reqUnlock
  extract_lets
  split <;> rename_i he <;> have hd := Dev.Guarded.of_pwdCheck (R := .on ch) he
  · exact .dev k hd
  · split
    · exact .dev k hd
    · split
      · exact .dev k hd
      · split
        · exact .dev k hd
        · exact .dev (.logEntry (.dev k hd)) fun h => .raise (.ite (.showUnlock (.set h)) (.beside (.set h)))

theorem reqClose (k : t.Guarded (.on ch)) {o : Origin} {a : List (BitVec 64)} : (State.reqClose o t a).1.Guarded (.on ch) := by
  unfold State.reqClose
  split; exacts [k, .endDev (.endSafety k)]

theorem reqPassword (k : t.Guarded R) {o : Origin} {len1 len2 : Nat} {a : List (BitVec 64)} :
    (State.reqPassword o len1 len2 t a).1.Guarded R := by
  unfold State.reqPassword
  split <;> rename_i he <;> have hd := Dev.Guarded.of_pwdCheck (R := R) he
  · exact .dev k hd
  · split
    · exact .dev k hd
    · exact .dev (.logEntry (.dev k fun h => .set (.beside (.drawn (.drawn (hd h)))))) fun h => .raise h

theorem reqAckLog (k : t.Guarded R) {o : Origin} {len1 : Nat} {a : List (BitVec 64)} :
    (State.reqAckLog o len1 t a).1.Guarded R := by
  unfold State.reqAckLog
  split <;> rename_i he <;> have hd := Dev.Guarded.of_pwdCheck (R := R) he
  · exact .dev k hd
  · extract_lets
    split
    · exact .dev k hd
    · exact .dev (.logEntry (.dev k fun h => .set (.beside (hd h)))) fun h => .raise h

/-! ### Communication -/

theorem appSend (k : t.Guarded R) {n len : Nat} : (t.appSend n len).Guarded R := by
  unfold State.appSend
  exact .ite (.dev k fun h => .sflData h) k

theorem canArb (k : t.Guarded R) {n : Nat} : (t.canArb n).Guarded R := by
  unfold State.canArb
  exact .ite k (.dev (.dev k fun h => .each h fun h => .ite h (.ite (.canFail h) (.ite (.canFail h) h))) fun h => .canUpd h)

theorem canWant (k : t.Guarded R) {n : Nat} : (t.canWant n).Guarded R := by
  unfold State.canWant
  exact .ite (.canArb k) k

theorem jnlFound (k : t.Guarded R) : t.jnlFound.Guarded R := by
  unfold State.jnlFound
  exact .ite k (.dev k fun h => .beside h)

theorem jnlWrite (k : t.Guarded R) : t.jnlWrite.Guarded R := by
  unfold State.jnlWrite
  extract_lets
  split; exacts [.dev (.jnlFound k) fun h => .jnlFlushEnd h, .dev (.jnlFound k) fun h => .jnlWritten h]

theorem canTxreq (k : t.Guarded R) {n mask : Nat} : (t.canTxreq n mask).Guarded R := .canWant (.dev k fun h => .setBits h)

theorem canTxabort (k : t.Guarded R) {n mask : Nat} : (t.canTxabort n mask).Guarded R := .canWant (.dev k fun h => .setBits h)

theorem canSent (k : t.Guarded R) {n x stamp loop : Nat} : (t.canSent n x stamp loop).Guarded R := by
  unfold State.canSent
  extract_lets u d1
  have ku : u.Guarded R := .dev k fun h => .canTxGood h
  refine .ite ?_ (.dev ku fun h => .raise (.setBits (.canEnd ?_)))
  · split; exacts [ku, .dev ku fun h => .when (.when (.canUpd h) fun h => .refSent h) fun h => .domSent h]
  · unfold d1
    split; exacts [.canLoop h, h]

theorem canLostAt (k : t.Guarded R) {n x : Nat} {loop : Option (BitVec 8)} : (t.canLostAt n x loop).Guarded R := by
  unfold State.canLostAt
  refine .dev k fun h => .canLost ?_
  split; exacts [.canLoop h, h]

theorem canFifo (k : t.Guarded R) {n : Nat} {f : CanFrame} {stamp filter : Nat} : (t.canFifo n f stamp filter).Guarded R := by
  unfold State.canFifo
  extract_lets
  split
  · exact .dev k fun h => .raiseLim (.count h)
  · exact .dev k fun h => .when (.raise (.canFifoShow (.canUpd h))) fun h => .raise h

theorem canSlot (k : t.Guarded R) {n : Nat} {f : CanFrame} {stamp filter : Nat} : (t.canSlot n f stamp filter).Guarded R := by
  unfold State.canSlot
  split
  · exact .dev k fun h => .raiseLim (.count h)
  · exact .dev k fun h => .raise (.setBits h)

theorem canFilter (k : t.Guarded R) {n : Nat} {f : CanFrame} {stamp : Nat} : (t.canFilter n f stamp).Guarded R := by
  unfold State.canFilter
  split
  · split; exacts [k, .canSlot k, .canFifo k]
  · exact .ite (.canFifo k) (.dev k fun h => .count h)

theorem hostReceive (k : t.Guarded R) {p stamp : Nat} {l : List (BitVec 8)} : (t.hostReceive p stamp l).Guarded R := by
  unfold State.hostReceive
  exact .ite k (.ite (.dev k fun h => .raise (.count h)) (.dev k fun h => .raise (.set h)))

theorem hostDrain (k : t.Guarded R) : t.hostDrain.Guarded R := by
  unfold State.hostDrain
  exact .ite k (List.foldlRecOn (motive := State.Guarded R) _ _ (.dev k fun h => .beside h) fun _ k _ _ => .hostReceive k)

theorem idle (k : t.Guarded R) : t.idle.Guarded R := .hostDrain (.dev k fun h => .idle h)

theorem txKick (k : t.Guarded R) : t.txKick.Guarded R := .dev k fun h => .beside h

/-! ### The service tag -/

theorem tagRead (k : t.Guarded R) {b n last : Nat} : (t.tagRead b n last).Guarded R := by
  unfold State.tagRead
  exact .ite (.dev k fun h => .tagError h) (.dev k fun h => .tagAnswer h)

theorem tagWriteBlock (k : t.Guarded R) {b : Nat} {v : BitVec 32} : (t.tagWriteBlock b v).Guarded R := by
  unfold State.tagWriteBlock
  exact .ite (.dev k fun h => .tagError h) (.ite (.dev k fun h => .tagError h)
    (.dev k fun h => .drawn (.beside (.when (.tagDirty (.tagAnswer h)) fun h => .raise h))))

theorem nfcCommit (k : t.Guarded R) {p : Nat} : (t.nfcCommit p).Guarded R := by
  unfold State.nfcCommit
  exact .ite (.dev k fun h => .set h) (.dev k fun h => .clkEval (.set (.set (.beside h))))

theorem nfcTake (k : t.Guarded R) {p : Nat} : (t.nfcTake p).Guarded R :=
  .dev k fun h => .when (.raise (.set h)) fun h => .tagDirty h

theorem nfcRead (k : t.Guarded R) {p : Nat} : (t.nfcRead p).Guarded R := by
  unfold State.nfcRead
  exact .ite (.dev k fun h => .set h) (.ite (.dev k fun h => .clkEval (.set (.set (.beside h)))) (.nfcTake k))

/-! ### Accesses -/

theorem busRead (k : t.Guarded R) {a n : Nat} : (t.busRead a n).1.Guarded R := by
  unfold State.busRead
  split
  · exact .dev k fun h => .busErr h
  · split
    · exact k
    · exact k
    · split
      · split; exacts [.dev k fun h => .drawn (.drawn h), .dev k fun h => .count (.drawn h)]
      · exact k
    · split
      · exact k
      · split; exacts [.dev k fun h => .drawn h, k]

theorem winWrite (k : t.Guarded R) {a n v : Nat} : (t.winWrite a n v).Guarded R := by
  unfold State.winWrite
  exact .ite (.ite (.dev k fun h => .count h) (.mem k)) (.ite k (.mem k))

theorem dbgBus (k : t.Guarded R) {err : Bool} {v : Nat} : (t.dbgBus err v).Guarded R := .dev k fun h => .dbgUpd h

theorem crcRead (k : t.Guarded R) {a n : Nat} : (t.crcRead a n).1.Guarded R := by
  unfold State.crcRead
  split; exacts [k, .busRead k]

theorem crcCycles (k : t.Guarded R) {u n : Nat} : (State.crcCycles u n t).Guarded R := by
  induction n generalizing t with
  | zero => exact k
  | succ n ih =>
    have kr : (t.crcRead (t.dev.get (CRC_ADDR u)) (min 8 (t.dev.get (CRC_LEN u)))).1.Guarded R := .crcRead k
    rw [State.crcCycles]
    split
    · exact k
    · split <;> rename_i he <;> rw [he] at kr
      · exact .dev kr fun h => .raise (.count (.set (.set h)))
      · exact ih (.dev kr fun h => .set (.set (.crcFeed h)))

theorem spiRead (k : t.Guarded R) {a n : Nat} : (t.spiRead a n).1.Guarded R := by
  induction n generalizing t a with
  | zero => exact k
  | succ n ih =>
    have kr : (t.busRead a 8).1.Guarded R := .busRead k
    rw [State.spiRead]
    split <;> rename_i he <;> rw [he] at kr
    · exact kr
    · have kn := ih kr (a := a + 8)
      split <;> rename_i he <;> rw [he] at kn <;> exact kn

theorem flashProg (k : t.Guarded R) {a : Nat} {l : List (BitVec 8)} : (t.flashProg a l).Guarded R := by
  induction l generalizing t a with
  | nil => exact k
  | cons b l ih =>
    rw [State.flashProg]
    exact .ite (ih (.dev k id)) (ih (.dev k fun h => .drawn h))

end State.Guarded
end Sys2Proof.Machine
end

section
/-!
The resets, Thimble's requests and the accesses that may remove a path from a channel (R170, R317).
-/
namespace Sys2Proof.Machine

/-- What holds of channel `n` until its paths are removed. -/
def State.Backed (n : Fin 14) (s : State) : Prop := s.dev.Backed n

namespace State.Backed

variable {n : Fin 14} {t u : State}

theorem guarded (k : t.Backed n) : t.Guarded (.on n) := Dev.Backed.guarded k

/-- The device becomes `e`. -/
theorem dev (k : t.Backed n) {e : Dev} {mem flash tag : List Host.Cell} {pending : List Instr} (he : t.dev.Backed n → e.Backed n) :
    State.Backed n ⟨e, mem, flash, tag, pending⟩ := he k

theorem ite {c : Prop} [Decidable c] (k : t.Backed n) (k' : u.Backed n) : State.Backed n (if c then t else u) := by
  split <;> assumption

/-! ## The ends of the unlocks -/

theorem logEntry (k : t.Backed n) {kind origin count digest reason : Nat} :
    (t.logEntry kind origin count digest reason).Backed n := by
  unfold State.logEntry
  exact .ite k (.dev k fun h => .showLog (.beside h))

theorem endSafety (k : t.Backed n) {origin reason : Nat} : (t.endSafety origin reason).Backed n := by
  unfold State.endSafety
  exact .ite (.dev (.logEntry (.dev k fun h => .set h (by decide))) fun h => .raise (.beside h) (by decide)) k

theorem endDev (k : t.Backed n) {origin reason : Nat} : (t.endDev origin reason).Backed n := by
  unfold State.endDev
  exact .ite (.dev (.logEntry (.dev k fun h => .showUnlock (.resumeAll (.set h (by decide))))) fun h => .raise h (by decide)) k

/-! ## Connections -/

theorem sflSubmit (k : t.Guarded (.off n)) {len : Nat} : (t.sflSubmit len).Backed n := Dev.Backed.sflJudge k

theorem appSend (k : t.Backed n) {c len : Nat} : (t.appSend c len).Backed n := by
  unfold State.appSend
  exact .ite (.dev k fun h => .sflSend (.set h (by dsimp only; omega))) k

end State.Backed

namespace State.Guarded

variable {n : Fin 14} {t : State}

theorem on {R : GateRule} (k : t.Guarded R) : t.Guarded (.on R.ch) := Dev.Guarded.on k

theorem backed (k : t.Guarded (.off n)) : t.Backed n := Dev.Guarded.backed k

/-! ## Resets -/

theorem appResetTo (k : t.Backed n) {cause : Fld} {held : Bool} : (t.appResetTo cause held).Guarded (.on n) := by
  unfold State.appResetTo
  exact .ite k.guarded (Dev.Guarded.set (Dev.Backed.appReset (k.endSafety.endDev)))

theorem appReset (k : t.Backed n) {cause : Fld} : (t.appReset cause).Guarded (.on n) := appResetTo k

theorem rstctl (k : t.Backed n) {o : Origin} {key : Nat} {rst : Bool} : (t.rstctl o key rst).Guarded (.on n) := by
  unfold State.rstctl
  exact .ite (.dev k.guarded fun h => .count h) (.ite (.appReset k) k.guarded)

theorem keepReset (k : t.Backed n) : t.keepReset.Guarded (.on n) := by
  unfold State.keepReset
  exact .ite k.guarded (.dev (.appResetTo k) fun h => .beside h)

/-! ## Thimble's requests -/

theorem reqInstall (k : t.Guarded (.off n)) {o : Origin} {a : List (BitVec 64)} : (State.reqInstall o t a).1.Guarded (.on n) := by
  unfold State.reqInstall
  extract_lets d
  split
  · exact k.on
  · split
    · exact k.on
    · split
      · extract_lets body r set d1 dig s1
        split
        · exact k.on
        · split
          · exact k.on
          · split
            · exact k.on
            · have h1 : d1.Guarded (.off n) := Dev.Guarded.beside k
              exact .dev (.logEntry (.dev k.on fun _ => (Dev.Backed.setActs h1).guarded)) fun h => .raise h
      · exact k.on

/-- The arguments of a request are cleared; it may remove paths, and its answer removes none. -/
theorem reqByCode (k : t.Guarded (.off n)) {o : Origin} {code len1 len2 : Nat} {a : List (BitVec 64)} :
    (State.reqByCode o code len1 len2 t a).1.Guarded (.on n) := by
  have hon : t.Guarded (.on n) := k.on
  unfold State.reqByCode
  split
  exacts [(Dev.Backed.reqDemand k).guarded, (Dev.Backed.reqDemand k).guarded, .onDev hon fun h => .reqRelease h,
    .onDev hon fun h => .reqBrakeRelease h, .onDev hon fun h => .reqBrakeApply h, .onDev hon fun h => .reqDisStart h,
    .onDev hon fun h => .reqDisStop h, (Dev.Backed.reqWind k).guarded,
    show Dev.Guarded _ (t.dev.reqClear a).1 from (Dev.Backed.reqClear k).guarded, .reqUnlock hon,
    .reqUnlock hon, .reqClose hon, .reqInstall k, .reqPassword hon, .reqAckLog hon, hon]

theorem thmreqWrite (k : t.Guarded (.off n)) {o : Origin} {code tag len1 len2 : Nat} :
    (t.thmreqWrite o code tag len1 len2).Guarded (.on n) := by
  have hon : t.Guarded (.on n) := k.on
  unfold State.thmreqWrite State.thmReq
  exact .ite (.dev hon fun h => .classRef h) (.ite (.dev hon fun h => .thmAnswer h) (.ite hon
    (.dev (.reqByCode (.dev k fun h => .each h fun h => .setReg h)) fun h => .thmAnswer h)))

end State.Guarded

end Sys2Proof.Machine
end

section
/-!
Writes of registers (R9, R12, R23, R404). Thimble acts on a write of HEM_THMREQ, of SFL_RXCTL and of a connection's configuration,
and SYS_RSTCTL resets: no other write removes a path from a channel. A WR of the host writes several registers in one step: it ends
at the first address that is not mapped, so that it stays within the range it starts in or never comes to a range of Thimble's.
-/
namespace Sys2Proof.Machine

/-! ## Where the registers lie -/

/-- The registers of SFL lie in the range of SFL, those below the connections' alone, and no other register does. -/
def placedReg (r : RDef) : Bool :=
  0 < r.s1 && (r.base + r.c1 * r.s1 ≤ 0x40B00000 || 0x40B10000 ≤ r.base ||
    (0x40B00000 ≤ r.base && r.base + r.c1 * r.s1 ≤ 0x40B10000 && (0x40B01000 ≤ r.base || r.c1 * r.s1 ≤ 8)))

/-- What is found at address `a` spans it (`o` is what is found). -/
def Spans (a : Nat) (o : Option (RDef × Nat × Nat)) : Prop :=
  ∀ r i j, o = some (r, i, j) → placedReg r = true ∧ r.base ≤ a ∧ (a - r.base) / r.s1 < r.c1

theorem findReg_spans {a : Nat} {l : List RDef} (hl : ∀ r ∈ l, placedReg r = true) : Spans a (findReg a l) := by
  induction l with
  | nil => exact nofun
  | cons x t ih =>
    intro r i j h
    rw [findReg] at h
    split at h
    next hx =>
      obtain ⟨hbase, hi, -⟩ := hx
      simp only [Option.some.injEq, Prod.mk.injEq] at h
      obtain ⟨rfl, -, -⟩ := h
      exact ⟨hl _ List.mem_cons_self, hbase, hi⟩
    · exact ih (fun r hr => hl r (List.mem_cons_of_mem _ hr)) r i j h

theorem Spans.ite {a b : Nat} {l : List RDef} {o : Option (RDef × Nat × Nat)} (hl : ∀ r ∈ l, placedReg r = true) (ho : Spans a o) :
    Spans a (if a < b then findReg a l else o) := by
  split
  · exact findReg_spans hl
  · exact ho

/-- A register that is found begins at or below its address, and lies in the range of SFL as its address does; below the
connections' it is at its base. -/
theorem regDefAt_place {a i j : Nat} {r : RDef} (h : regDefAt a = some (r, i, j)) : r.base ≤ a ∧
    (a < 0x40B00000 ∨ 0x40B10000 ≤ a ∨ 0x40B00000 ≤ r.base) ∧ (0x40B10000 ≤ a → r.base < 0x40B00000 ∨ 0x40B10000 ≤ r.base) ∧
    (0x40B00000 ≤ r.base → r.base < 0x40B01000 → a < r.base + 8) := by
  have hspan : Spans a (regDefAt a) := by
    unfold regDefAt
    refine iteInduction (fun _ => nofun) fun _ => ?_
    iterate 26 refine .ite (by decide) ?_
    exact nofun
  obtain ⟨hplaced, hbase, hlt⟩ := hspan r i j h
  simp only [placedReg, Bool.and_eq_true, Bool.or_eq_true, decide_eq_true_eq] at hplaced
  obtain ⟨hs1, hplace⟩ := hplaced
  have hend : a - r.base < r.c1 * r.s1 := (Nat.div_lt_iff_lt_mul hs1).mp hlt
  generalize r.c1 * r.s1 = len at hplace hend
  omega

/-! ## What a write does -/

namespace Dev.Guarded

variable {R : GateRule} {d : Dev} {ch : Nat} {w : RegW} {old : BitVec 64}

/-- No write in the ranges of the networks but that of a connection's configuration acts on a gate. -/
theorem actNet (h : d.Guarded R) (hw : w.base ≠ A_SFL_CCFG 0) : (d.actNet w old).Guarded R := by
  unfold Dev.actNet
  extract_lets _ d1
  have h1 : d1.Guarded R := .each h fun h => .when h fun h => .ethLink h
  apply Guarded.ite (.when (.when h fun h => .canRecover h) fun h => .ite (.canRunSet h) (.canRunClear h))
  apply Guarded.ite (.when h fun h => .canPop h)
  apply Guarded.ite (.asSelect (.ite h1 (.beside h1)))
  apply Guarded.ite (.asSelect h)
  apply Guarded.ite (.when h fun h => .sflPop h)
  rw [if_neg hw]
  apply Guarded.ite (.when h fun h => .crcPut h)
  exact .ite (.when (.when (.when h fun h => .crcInit h) fun h => .crcGo h) fun h => .set h) (.ite (.ite (.crcData h)
    (.crcData h)) h)

/-- A write beside the drive's registers and the connections' configurations acts on no gate. -/
theorem regAct (h : d.Guarded R) (ha : w.addr < 0x40300000 ∨ 0x40700000 ≤ w.addr) (hw : w.base ≠ A_SFL_CCFG 0) :
    (d.regAct w old).Guarded R := by
  unfold Dev.regAct
  extract_lets a
  apply Guarded.ite (.actSys h)
  apply Guarded.ite (.actEvent h)
  split
  · exact .actIo h
  next hio =>
    rw [if_neg (by omega)]
    exact .ite (.actAxis h) (.ite (.actCore h) (.ite (.actNet h hw) (.actLink h)))

theorem regActOn (h : d.Guarded (.on ch)) (hw : w.base ≠ A_SFL_CCFG 0) : (d.regAct w old).Guarded (.on ch) := by
  unfold Dev.regAct
  extract_lets
  apply Guarded.ite (.actSys h)
  apply Guarded.ite (.actEvent h)
  exact .ite (.actIo h) (.ite (.actDrive h) (.ite (.actAxis h) (.ite (.actCore h) (.ite (.actNet h hw) (.actLink h)))))

end Dev.Guarded

namespace Dev.Backed

variable {n : Fin 14} {d : Dev} {w : RegW} {old : BitVec 64}

theorem storeField {idle : Bool} {x : Store} {f : FDef} (h : x.d.Backed n) (ha : 0x40B00000 ≤ w.addr) :
    (Store.field w idle x f).d.Backed n := by
  unfold Store.field
  extract_lets e fld v m
  have hf : fld.addr < 0x40500038 ∨ 0x4050D038 < fld.addr := .inr (Nat.lt_of_lt_of_le (Nat.le_of_ble_eq_true rfl) ha)
  split
  · exact h
  · cases f.acc
    case ro | wo => exact h
    case rw => exact .set h hf
    case w1c => exact .clrBits h hf
    case w1s => exact .setBits h hf
    case rws =>
      dsimp only
      split
      · exact h
      · split; exacts [.set h hf, h]
    case rwi =>
      dsimp only
      split
      · exact h
      · split
        · exact .setReg h (by dsimp only [A_GCH_STAT]; omega)
        · split; exacts [.set h hf, h]

theorem rwiRule_sfl (d : Dev) (h : 0x40B00000 ≤ w.addr ∧ w.addr < 0x40B10000) : (d.rwiRule w).2 = some SFL_DOMCNT_RWI_REF := by
  unfold Dev.rwiRule
  extract_lets a k
  iterate 14 rw [if_neg (by omega)]
  rw [if_pos h]

theorem regStore (h : d.Backed n) {fs : List FDef} (ha : 0x40B00000 ≤ w.addr ∧ w.addr < 0x40B10000) :
    (d.regStore w fs).Backed n := by
  unfold Dev.regStore
  extract_lets rule x d1
  have hx : x.d.Backed n :=
    List.foldlRecOn (motive := fun x : Store => x.d.Backed n) _ _ h fun _ h _ _ => .storeField h ha.1
  have h1 : d1.Backed n := .when (.when hx fun h => .beside h) fun h => .ite (.count h (by decide)) (.count h (by decide))
  rw [show rule.2 = _ from rwiRule_sfl d ha]
  exact .when h1 fun h => .count h (by decide)

/-- A write in the range of SFL acts on the transmit queue or on a connection. -/
theorem regAct (h : d.Backed n) (ha : 0x40B00000 ≤ w.addr ∧ w.addr < 0x40B10000) (hb : 0x40B00000 ≤ w.base ∧ w.base < 0x40B10000) :
    (d.regAct w old).Backed n := by
  unfold Dev.regAct
  extract_lets a
  iterate 6 rw [if_neg (by omega)]
  rw [if_pos (by omega)]
  unfold Dev.actNet
  extract_lets
  iterate 4 rw [if_neg (by dsimp only [A_CAN_CTL, A_CAN_RXF, A_ETH_CTL, A_ETH_ASCFG]; omega)]
  refine .ite (.when h fun h => ?_) ?_
  · exact .set (.set (.set (.beside h) (by decide)) (by decide)) (by decide)
  refine .ite (.when h fun h => .when (.sflEnable h) fun h => .thmEvalAll h) ?_
  iterate 3 rw [if_neg (by dsimp only [A_CRC_CFG, A_CRC_VAL, A_CRC_CTL, A_CRC_DATA]; omega)]
  exact h

end Dev.Backed

end Sys2Proof.Machine
end

section
/-!
The accesses of the machine: a write of one register from a device whose gate is off, and the writes of one WR of the host.
-/
namespace Sys2Proof.Machine

/-- The write of a register of `r`, found at the aligned address of `a` with its indices `i` and `j`. -/
def regWriteOf (o : Origin) (a m v : Nat) (r : RDef) (i j : Nat) : RegW :=
  let sh := 8 * (a % 8)
  let cov := BitVec.ofNat 64 ((2 ^ (8 * m) - 1) * 2 ^ sh)
  ⟨o, a / 8 * 8, r.base, i, j, cov, BitVec.ofNat 64 (v * 2 ^ sh) &&& cov⟩

/-- The device after the write: its fields are stored, then it acts. -/
def Dev.regWritten (d : Dev) (w : RegW) (r : RDef) : Dev := (d.regStore w r.fields).regAct w (d.reg w.addr)

theorem State.regWrite_eq {s : State} {o : Origin} {a m v i j : Nat} {r : RDef} (h : regDefAt (a / 8 * 8) = some (r, i, j)) :
    s.regWrite o a m v = State.regActMem { s with dev := s.dev.regWritten (regWriteOf o a m v r i j) r }
      (regWriteOf o a m v r i j) := by
  unfold State.regWrite
  rw [h]
  rfl

section
variable {s : State} {w : RegW}

theorem State.regActMem_rstctl (h : w.addr = A_SYS_RSTCTL) : s.regActMem w = s.rstctl w.o (w.f 48 16) (w.one 0) := if_pos h

theorem State.regActMem_thmreq (h : w.addr = A_HEM_THMREQ) :
    s.regActMem w = s.thmreqWrite w.o (w.f 0 8) (w.f 48 16) (w.f 32 8) (w.f 40 8) :=
  (if_neg (by rw [h]; decide)).trans (if_pos h)

theorem State.regActMem_rxctl (hrst : w.addr ≠ A_SYS_RSTCTL) (hreq : w.addr ≠ A_HEM_THMREQ) (h : w.base = A_SFL_RXCTL) :
    s.regActMem w = if w.covers 0 then s.sflSubmit (w.f 0 16) else s := by
  unfold State.regActMem
  rw [if_neg hrst, if_neg hreq, if_neg (by rw [h]; decide), if_neg (by rw [h]; decide), if_neg (by rw [h]; decide),
    if_neg (by rw [h]; decide), if_pos h]

end

namespace State.Guarded

variable {R : GateRule} {n : Fin 14} {t : State} {w : RegW}

/-- A write that reaches neither the reset, nor Thimble, nor the judge of frames. -/
theorem regActMem (k : t.Guarded R) (hrst : w.addr ≠ A_SYS_RSTCTL) (hreq : w.addr ≠ A_HEM_THMREQ) (hrx : w.base ≠ A_SFL_RXCTL) :
    (t.regActMem w).Guarded R := by
  unfold State.regActMem
  extract_lets u p
  have hu : u.Guarded R := .ite k (.canTxreq k)
  rw [if_neg hrst, if_neg hreq, if_neg hrx]
  exact .ite (.ite hu (.canTxabort hu)) (.ite (.ite (.canWant (.dev k fun h => .domEnable h)) k) (.ite (.canWant k)
    (.ite (.ite (.txKick k) k) (.ite (.ite (.appSend k) k) (.ite (.ite (.nfcCommit k) (.ite (.nfcRead k) k)) k)))))

/-- Any write, from a gate that is off. -/
theorem regActMemOff (k : t.Guarded (.off n)) : (t.regActMem w).Guarded (.on n) := by
  by_cases hrst : w.addr = A_SYS_RSTCTL
  · rw [State.regActMem_rstctl hrst]
    exact .rstctl k.backed
  by_cases hreq : w.addr = A_HEM_THMREQ
  · rw [State.regActMem_thmreq hreq]
    exact .thmreqWrite k
  by_cases hrx : w.base = A_SFL_RXCTL
  · rw [State.regActMem_rxctl hrst hreq hrx]
    exact .ite (State.Backed.sflSubmit k).guarded k.on
  · exact k.on.regActMem hrst hreq hrx

/-- A write of a register between the drive's and the judge of frames, but HEM_THMREQ, keeps a gate as it is. -/
theorem regWrite (k : t.Guarded R) {o : Origin} {a m v : Nat} (hlo : 0x40700000 ≤ a / 8 * 8) (hhi : a / 8 * 8 < A_SFL_RXCTL)
    (hreq : a / 8 * 8 ≠ A_HEM_THMREQ) : (t.regWrite o a m v).Guarded R := by
  cases hr : regDefAt (a / 8 * 8) with
  | none =>
    unfold State.regWrite
    rw [hr]
    exact k
  | some x =>
    obtain ⟨r, i, j⟩ := x
    obtain ⟨hbase, -⟩ := regDefAt_place hr
    rw [State.regWrite_eq hr]
    have hne : r.base ≠ A_SFL_CCFG 0 ∧ r.base ≠ A_SFL_RXCTL := by dsimp only [A_SFL_CCFG, A_SFL_RXCTL] at hhi ⊢; omega
    exact .regActMem (.dev k fun h => .regAct (.regStore h) (.inr hlo) hne.1)
      (by dsimp only [A_SYS_RSTCTL, regWriteOf]; omega) hreq hne.2

/-- Any write of a register, from a gate that is off. -/
theorem regWriteOff (k : t.Guarded (.off n)) {o : Origin} {a m v : Nat} : (t.regWrite o a m v).Guarded (.on n) := by
  cases hr : regDefAt (a / 8 * 8) with
  | none =>
    unfold State.regWrite
    rw [hr]
    exact k.on
  | some x =>
    obtain ⟨r, i, j⟩ := x
    obtain ⟨hbase, hin, hout, -⟩ := regDefAt_place hr
    rw [State.regWrite_eq hr]
    by_cases hcfg : r.base = A_SFL_CCFG 0
    · have ha : 0x40B00000 ≤ a / 8 * 8 ∧ a / 8 * 8 < 0x40B10000 := by dsimp only [A_SFL_CCFG] at hcfg; omega
      have hd : (t.dev.regWritten (regWriteOf o a m v r i j) r).Backed n :=
        .regAct (.regStore k.backed ha) ha (by dsimp only [regWriteOf]; rw [hcfg]; decide)
      exact .regActMem (.dev k.on fun _ => hd.guarded) (by dsimp only [A_SYS_RSTCTL, regWriteOf]; omega)
        (by dsimp only [A_HEM_THMREQ, regWriteOf]; omega) (by dsimp only [regWriteOf]; rw [hcfg]; decide)
    by_cases hdrive : a / 8 * 8 < 0x40300000 ∨ 0x40700000 ≤ a / 8 * 8
    · exact .regActMemOff (.dev k fun h => .regAct (.regStore h) hdrive hcfg)
    · exact .regActMem (.dev k.on fun h => .regActOn (.regStore h) hcfg) (by dsimp only [A_SYS_RSTCTL, regWriteOf]; omega)
        (by dsimp only [A_HEM_THMREQ, regWriteOf]; omega) (by dsimp only [A_SFL_RXCTL, regWriteOf]; omega)

/-- A write of the host outside the range of SFL, but of HEM_THMREQ: the reset is not its own. -/
theorem regWriteHost (k : t.Guarded (.on n)) {a m v : Nat} (ha : a / 8 * 8 < 0x40B00000 ∨ 0x40B10000 ≤ a / 8 * 8)
    (hreq : a / 8 * 8 ≠ A_HEM_THMREQ) : (t.regWrite .host a m v).Guarded (.on n) := by
  cases hr : regDefAt (a / 8 * 8) with
  | none =>
    unfold State.regWrite
    rw [hr]
    exact k
  | some x =>
    obtain ⟨r, i, j⟩ := x
    obtain ⟨hbase, -, hout, -⟩ := regDefAt_place hr
    rw [State.regWrite_eq hr]
    have hne : r.base ≠ A_SFL_CCFG 0 ∧ r.base ≠ A_SFL_RXCTL := by dsimp only [A_SFL_CCFG, A_SFL_RXCTL]; omega
    have hd : State.Guarded (.on n) { t with dev := t.dev.regWritten (regWriteOf .host a m v r i j) r } :=
      .dev k fun h => .regActOn (.regStore h) hne.1
    by_cases hrst : a / 8 * 8 = A_SYS_RSTCTL
    · rw [State.regActMem_rstctl hrst, State.rstctl_refused _ (.inl rfl)]
      exact .dev hd fun h => .count h
    · exact .regActMem hd hrst hreq hne.2

end State.Guarded

namespace State.Backed

variable {n : Fin 14} {t : State}

/-- A write in the range of SFL above SFL_RXCTL sends a frame at most. -/
theorem regActMem {w : RegW} (k : t.Backed n) (ha : 0x40B00000 ≤ w.addr) (hb : A_SFL_RXCTL < w.base ∧ w.base < 0x40B10000) :
    (t.regActMem w).Backed n := by
  dsimp only [A_SFL_RXCTL] at hb
  unfold State.regActMem
  iterate 2 rw [if_neg (by dsimp only [A_SYS_RSTCTL, A_HEM_THMREQ]; omega)]
  iterate 5 rw [if_neg (by dsimp only [A_CAN_TXCTL, A_SFL_DOMCFG, A_ETH_CTL, A_ETH_DMA, A_SFL_RXCTL]; omega)]
  refine .ite (.ite (.appSend k) k) ?_
  rw [if_neg (by dsimp only [A_NFC_CTL]; omega)]
  exact k

/-- A write in the range of SFL: at SFL_RXCTL with the gate off, above it in any case. -/
theorem regWrite {o : Origin} {a m v : Nat} (hlo : A_SFL_RXCTL ≤ a / 8 * 8) (hhi : a / 8 * 8 < 0x40B10000)
    (k : t.Backed n) (koff : a / 8 * 8 = A_SFL_RXCTL → t.Guarded (.off n)) : (t.regWrite o a m v).Backed n := by
  cases hr : regDefAt (a / 8 * 8) with
  | none =>
    unfold State.regWrite
    rw [hr]
    exact k
  | some x =>
    obtain ⟨r, i, j⟩ := x
    obtain ⟨hbase, hin, -, hone⟩ := regDefAt_place hr
    dsimp only [A_SFL_RXCTL] at hlo
    have ha : 0x40B00000 ≤ a / 8 * 8 ∧ a / 8 * 8 < 0x40B10000 := by omega
    rw [State.regWrite_eq hr]
    by_cases hrx : a / 8 * 8 = A_SFL_RXCTL
    · have koff : State.Guarded (.off n) { t with dev := t.dev.regWritten (regWriteOf o a m v r i j) r } :=
        .dev (koff hrx) fun h => .regAct (.regStore h) (.inr (by dsimp only [regWriteOf]; omega))
          (by dsimp only [A_SFL_CCFG, A_SFL_RXCTL, regWriteOf] at hrx ⊢; omega)
      by_cases hb : r.base = A_SFL_RXCTL
      · rw [State.regActMem_rxctl (by dsimp only [A_SYS_RSTCTL, regWriteOf]; omega)
          (by dsimp only [A_HEM_THMREQ, regWriteOf]; omega) hb]
        exact .ite (.sflSubmit koff) koff.backed
      · exact (koff.regActMem (by dsimp only [A_SYS_RSTCTL, regWriteOf]; omega)
          (by dsimp only [A_HEM_THMREQ, regWriteOf]; omega) hb).backed
    · have hb : A_SFL_RXCTL < r.base ∧ r.base < 0x40B10000 := by dsimp only [A_SFL_RXCTL] at hrx ⊢; omega
      exact .regActMem (.dev k fun h => .regAct (.regStore h ha) ha (by dsimp only [regWriteOf, A_SFL_RXCTL] at hb ⊢; omega))
        ha.1 hb

end State.Backed

end Sys2Proof.Machine
end

section
/-!
The accesses of the machine, and the writes of one WR of the host (R23, R25, R404).
-/
namespace Sys2Proof.Machine

/-- SFL's range holds registers, then windows. -/
theorem regionOf_sfl {a : Nat} (h : 0x40B00000 ≤ a ∧ a < 0x40B10000) :
    regionOf a = .reg ∨ (A_SFL_RXCTL < a ∧ regionOf a = .win) := by
  unfold regionOf
  iterate 6 rw [if_neg (by omega)]
  split
  · exact .inr ⟨by dsimp only [A_SFL_RXCTL]; omega, rfl⟩
  · iterate 4 rw [if_neg (by omega)]
    rw [show a / 0x10000 = 0x40B0 by omega]
    exact .inl rfl

theorem accessErr_below {a : Nat} (h : (0x407F0000 ≤ a ∧ a < 0x40800000) ∨ (0x40AF0000 ≤ a ∧ a < 0x40B00000)) :
    accessErr a 8 true = some .unmapped := by
  have hun : regionOf a = .unmapped := by
    unfold regionOf
    iterate 11 rw [if_neg (by omega)]
    rw [if_neg]
    obtain h | h := h
    · rw [show a / 0x10000 = 0x407F by omega]
      decide
    · rw [show a / 0x10000 = 0x40AF by omega]
      decide
  rw [accessErr, busErrOf, hun]

/-- A write of a register that ends in no bus error is aligned. -/
theorem aligned_of_accessErr {a : Nat} (hreg : regionOf a = .reg) (h : accessErr a 8 true = none) : a / 8 * 8 = a := by
  by_contra hne
  have hmod : a % 8 ≠ 0 := by omega
  simp [accessErr, busErrOf, hreg, hmod] at h

/-- What an access writes beside registers. -/
def State.memWrite (s : State) (o : Origin) (a m v : Nat) : State :=
  match regionOf a with
  | .sram => match o with | .pair p => s.pairStore p a m v | _ => { s with mem := wrLE s.mem a m v }
  | .fwArea => if s.dev.persistShut then s else { s with mem := wrLE s.mem a m v }
  | .spool => s.splStore a m v
  | .win => s.winWrite a m v
  | _ => s

section
variable {s : State} {o : Origin} {a m v : Nat}

theorem State.busWrite_err {e : BusErr} (h : accessErr a m true = some e) :
    s.busWrite o a m v = ({ s with dev := s.dev.busErr e }, true) := by
  unfold State.busWrite
  rw [h]

theorem State.busWrite_reg (h : accessErr a m true = none) (hreg : regionOf a = .reg) :
    s.busWrite o a m v = (s.regWrite o a m v, false) := by
  unfold State.busWrite
  rw [h, hreg]

theorem State.busWrite_mem (h : accessErr a m true = none) (hreg : regionOf a ≠ .reg) :
    s.busWrite o a m v = (s.memWrite o a m v, false) := by
  unfold State.busWrite State.memWrite
  rw [h]
  cases hr : regionOf a with
  | reg => exact absurd hr hreg
  | _ => rfl

theorem State.Guarded.memWrite {R : GateRule} (k : s.Guarded R) : (s.memWrite o a m v).Guarded R := by
  unfold State.memWrite
  split
  · split; exacts [.pairStore k, .mem k]
  · exact .ite k (.mem k)
  · exact .splStore k
  · exact .winWrite k
  · exact k

/-- An access from a gate that is off. -/
theorem State.Guarded.busWrite {n : Fin 14} (k : s.Guarded (.off n)) : (s.busWrite o a m v).1.Guarded (.on n) := by
  cases he : accessErr a m true with
  | some e =>
    rw [State.busWrite_err he]
    exact .dev k.on fun h => .busErr h
  | none =>
    by_cases hreg : regionOf a = .reg
    · rw [State.busWrite_reg he hreg]
      exact k.regWriteOff
    · rw [State.busWrite_mem he hreg]
      exact k.on.memWrite

theorem State.Guarded.debugCmd {n : Fin 14} (k : s.Guarded (.off n)) {c : DbgCmd} : (s.debugCmd c).Guarded (.on n) := by
  have hon : s.Guarded (.on n) := k.on
  cases c with
  | idcode | bypass | readStat => exact .dev hon fun h => .dbgUpd h
  | readReg c r => exact .dev hon fun h => .when h fun h => .dbgUpd h
  | writeReg c r v => exact .dev hon fun h => .when h fun h => .dbgUpd (.coreRegPut h)
  | busRead a w => exact .dbgBus (.busRead hon)
  | busWrite a w v => exact .dbgBus (.busWrite k)
  | halt c => exact .dev hon fun h => .debugHalt h
  | resume c => exact .dev hon fun h => .debugResume h
  | step c => exact hon
  | trigger c n v => exact .dev hon fun h => .beside h

end

/-! ## The writes of one WR -/

/-- Before a write of the host at `a` in one WR: no gate has turned on in it where the write, or one that follows it, may remove
paths, and above SFL_RXCTL one that has still has its state. -/
structure State.WrReady (n : Fin 14) (a : Nat) (s : State) : Prop where
  on : s.Guarded (.on n)
  hem : 0x40800000 ≤ a → a ≤ A_HEM_THMREQ → s.Guarded (.off n)
  sfl : 0x40B00000 ≤ a → a ≤ A_SFL_RXCTL → s.Guarded (.off n)
  above : A_SFL_RXCTL < a → a < 0x40B10000 → s.Backed n

theorem State.Guarded.wrReady {n : Fin 14} {a : Nat} {s : State} (k : s.Guarded (.off n)) : s.WrReady n a :=
  ⟨k.on, fun _ _ => k, fun _ _ => k, fun _ _ => k.backed⟩

/-- In the range of SFL a write beside the registers goes to a window. -/
theorem State.Backed.memWrite {n : Fin 14} {s : State} {o : Origin} {a m v : Nat} (k : s.Backed n)
    (ha : 0x40B00000 ≤ a ∧ a < 0x40B10000) (hreg : regionOf a ≠ .reg) : (s.memWrite o a m v).Backed n := by
  obtain hr | ⟨-, hr⟩ := regionOf_sfl ha
  · exact absurd hr hreg
  · unfold State.memWrite State.winWrite
    rw [hr]
    dsimp only
    rw [if_neg (by omega)]
    exact .ite k k

/-- A write of a register in one WR. -/
theorem State.WrReady.regWrite {n : Fin 14} {a v : Nat} {s : State} (k : s.WrReady n a) (hal : a / 8 * 8 = a) :
    (s.regWrite .host a 8 v).Guarded (.on n) := by
  obtain ⟨hon, hhem, hsfl, habove⟩ := k
  dsimp only [A_SFL_RXCTL, A_HEM_THMREQ] at hhem hsfl habove
  by_cases hrange : 0x40B00000 ≤ a ∧ a < 0x40B10000
  · by_cases hrx : a ≤ 0x40B00048
    · exact (hsfl hrange.1 hrx).regWriteOff
    · exact (State.Backed.regWrite (by dsimp only [A_SFL_RXCTL]; omega) (by omega) (habove (by omega) hrange.2)
        (by dsimp only [A_SFL_RXCTL]; omega)).guarded
  · by_cases hreq : a = A_HEM_THMREQ
    · exact (hhem (by rw [hreq]; decide) (by rw [hreq])).regWriteOff
    · exact hon.regWriteHost (by omega) (by rwa [hal])

/-- A write leaves what is guarded, and what the write at the next address asks if it does not end in a bus error. -/
theorem State.WrReady.busWrite {n : Fin 14} {a v : Nat} {s : State} (k : s.WrReady n a) :
    (s.busWrite .host a 8 v).1.Guarded (.on n) ∧
    ((s.busWrite .host a 8 v).2 = false → (s.busWrite .host a 8 v).1.WrReady n (a + 8)) := by
  obtain ⟨hon, hhem, hsfl, habove⟩ := k
  cases he : accessErr a 8 true with
  | some e =>
    rw [State.busWrite_err he]
    exact ⟨.dev hon fun h => .busErr h, nofun⟩
  | none =>
    have hmap : ¬ ((0x407F0000 ≤ a ∧ a < 0x40800000) ∨ (0x40AF0000 ≤ a ∧ a < 0x40B00000)) := fun h => by
      rw [accessErr_below h] at he
      cases he
    by_cases hreg : regionOf a = .reg
    · have hal := aligned_of_accessErr hreg he
      rw [State.busWrite_reg he hreg]
      have hnext : (s.regWrite .host a 8 v).Guarded (.on n) := State.WrReady.regWrite ⟨hon, hhem, hsfl, habove⟩ hal
      dsimp only [A_SFL_RXCTL, A_HEM_THMREQ] at hhem hsfl habove
      refine ⟨hnext, fun _ => ⟨hnext, fun hlo hhi => ?_, fun hlo hhi => ?_, fun hlo hhi => ?_⟩⟩
      · dsimp only [A_HEM_THMREQ] at hhi
        exact (hhem (by omega) (by omega)).regWrite (by omega) (by dsimp only [A_SFL_RXCTL]; omega)
          (by dsimp only [A_HEM_THMREQ]; omega)
      · dsimp only [A_SFL_RXCTL] at hhi
        exact (hsfl (by omega) (by omega)).regWrite (by omega) (by dsimp only [A_SFL_RXCTL]; omega)
          (by dsimp only [A_HEM_THMREQ]; omega)
      · dsimp only [A_SFL_RXCTL] at hlo
        by_cases ha : a = 0x40B00048
        · have koff := hsfl (by omega) (by omega)
          exact .regWrite (by dsimp only [A_SFL_RXCTL]; omega) (by omega) koff.backed fun _ => koff
        · exact .regWrite (by dsimp only [A_SFL_RXCTL]; omega) (by omega) (habove (by omega) (by omega))
            (by dsimp only [A_SFL_RXCTL]; omega)
    · rw [State.busWrite_mem he hreg]
      refine ⟨hon.memWrite, fun _ => ⟨hon.memWrite, fun hlo hhi => (hhem (by omega) (by omega)).memWrite,
        fun hlo hhi => (hsfl (by omega) (by omega)).memWrite, fun hlo hhi => ?_⟩⟩
      dsimp only [A_SFL_RXCTL] at hsfl habove hlo
      by_cases ha : a ≤ 0x40B00048
      · exact (hsfl (by omega) ha).memWrite.backed
      · exact (habove (by omega) (by omega)).memWrite ⟨by omega, by omega⟩ hreg

theorem State.WrReady.spiWrite {n : Fin 14} {a m : Nat} {l : List (BitVec 8)} {s : State} (k : s.WrReady n a) :
    (s.spiWrite a l m).1.Guarded (.on n) := by
  induction m generalizing s a l with
  | zero => exact k.on
  | succ m ih =>
    obtain ⟨hon, hnext⟩ := k.busWrite (v := ofBytesLE (l.take 8))
    rw [State.spiWrite]
    split <;> rename_i he <;> rw [he] at hon hnext
    · exact hon
    · exact ih (hnext rfl)

end Sys2Proof.Machine
end

section
/-!
The same of every command: one rule for each way a meaning ends, then the commands. What holds of a gate that is off holds of one
that may be on, so most commands start from the latter; those that may remove a path or take a link away start from the former.
-/
namespace Sys2Proof.Machine

theorem Dev.Guarded.gate_off {d : Dev} {ch : Nat} (h : d.Guarded (.off ch)) : (d.gchAt ch).gate = false :=
  Bool.eq_false_iff.mpr fun hg => (h hg).1

/-- GCH13's half starts a run of its own. -/
theorem Dev.Backed.ownRun {n : Fin 14} {d e : Dev} {f : Gch → Gch} (h : d.Guarded (.off n)) (hf : ∀ q, (f q).running = true)
    (he : e.gch = (d.gchUpd 13 f).gch) : e.Backed n := by
  have hat : e.gchAt n = (d.gchUpd 13 f).gchAt n := by rw [Dev.gchAt, he, Dev.gchAt]
  by_cases hn : n.val = 13
  · exact fun _ => .inr ⟨hn, by rw [hat, hn, Dev.gchAt_gchUpd_same, hf]⟩
  · exact Dev.backed_of_off (by rw [hat, Dev.gchAt_gchUpd_ne _ _ hn, h.gate_off])

/-- With the gate of channel `ch` off in `s`, the outcome `o` is a next state that guards it. -/
structure StaysGuarded (ch : Fin 14) (s : State) (o : Out) : Prop where
  ends : s.Guarded (.off ch) → ∃ t, o = .next t ∧ t.Guarded (.on ch)

namespace StaysGuarded

variable {ch : Fin 14} {s : State}

theorem next {t : State} (k : s.Guarded (.on ch) → t.Guarded (.on ch)) : StaysGuarded ch s (.next t) :=
  ⟨fun h => ⟨t, rfl, k h.on⟩⟩

theorem nextOff {t : State} (k : s.Guarded (.off ch) → t.Guarded (.on ch)) : StaysGuarded ch s (.next t) :=
  ⟨fun h => ⟨t, rfl, k h⟩⟩

/-! ### The ways a meaning ends -/

section
variable {f : Dev → Dev} (hf : ∀ {d}, d.Guarded (.on ch) → (f d).Guarded (.on ch))
include hf

theorem always : StaysGuarded ch s (s.always f) := .next fun k => .dev k fun h => hf h

theorem main : StaysGuarded ch s (s.main f) := .next fun k => .dev k fun h => .ite h (hf h)

theorem onClk {p : Nat} : StaysGuarded ch s (s.onClk p f) := .next fun k => .dev k fun h => .ite h (hf h)

theorem byReg : StaysGuarded ch s (s.byReg f) := .onClk fun h => .when h hf

theorem byOrigin {o : Origin} : StaysGuarded ch s (s.byOrigin o f) := .onClk fun h => .when h hf

theorem thimble : StaysGuarded ch s (s.thimble f) := .main fun h => .ite (hf h) h

theorem domain : StaysGuarded ch s (s.domain f) := .next fun k => .ite k (.canWant (.dev k fun h => hf h))

theorem domHeard : StaysGuarded ch s (s.domHeard f) :=
  .next fun k => .ite k (.ite k (.canArb (.dev k fun h => .beside (hf h))))

end

section
variable {f : Dev → Dev} (hf : ∀ {d}, d.Guarded (.off ch) → (f d).Guarded (.on ch))
include hf

theorem alwaysOff : StaysGuarded ch s (s.always f) := .nextOff hf

theorem mainOff : StaysGuarded ch s (s.main f) := .nextOff fun k => Dev.Guarded.ite (Dev.Guarded.on k) (hf k)

theorem onClkOff {p : Nat} : StaysGuarded ch s (s.onClk p f) := .nextOff fun k => Dev.Guarded.ite (Dev.Guarded.on k) (hf k)

theorem byOriginOff {o : Origin} : StaysGuarded ch s (s.byOrigin o f) := .onClkOff fun h => Dev.Guarded.ite (hf h) h.on

theorem thimbleOff : StaysGuarded ch s (s.thimble f) := .mainOff fun h => .ite (hf h) h.on

end

section
variable {f : State → State} (hf : ∀ {t}, t.Guarded (.on ch) → (f t).Guarded (.on ch))
include hf

theorem mainMem : StaysGuarded ch s (s.mainMem f) := .next fun k => .ite k (hf k)

theorem onClkMem {p : Nat} : StaysGuarded ch s (s.onClkMem p f) := .next fun k => .ite k (hf k)

theorem byRegMem : StaysGuarded ch s (s.byRegMem f) := .onClkMem fun k => .ite (hf k) k

theorem bootStage {n : Nat} : StaysGuarded ch s (s.bootStage n f) := .mainMem fun k => .ite k (hf k)

theorem inField : StaysGuarded ch s (s.inField f) := .next fun k => .ite (hf k) k

theorem tagCmd {adr : TagTo} : StaysGuarded ch s (s.tagCmd adr f) := .inField fun k => .ite (hf k) k

end

section
variable {f : State → State} (hf : ∀ {t}, t.Guarded (.off ch) → (f t).Guarded (.on ch))
include hf

theorem mainMemOff : StaysGuarded ch s (s.mainMem f) := .nextOff fun k => .ite k.on (hf k)

theorem onClkMemOff {p : Nat} : StaysGuarded ch s (s.onClkMem p f) := .nextOff fun k => .ite k.on (hf k)

theorem byRegMemOff : StaysGuarded ch s (s.byRegMem f) := .onClkMemOff fun k => .ite (hf k) k.on

theorem byOriginMemOff {o : Origin} : StaysGuarded ch s (s.byOriginMem o f) := .onClkMemOff fun k => .ite (hf k) k.on

theorem bootStageOff {n : Nat} : StaysGuarded ch s (s.bootStage n f) := .mainMemOff fun k => .ite k.on (hf k)

end

/-- A request of HEM_THMREQ. -/
theorem request {o : Origin} {code tag len1 len2 : Nat} :
    StaysGuarded ch s (s.byOriginMem o fun s => s.thmreqWrite o code tag len1 len2) := .byOriginMemOff fun k => .thmreqWrite k

section
variable {f : State → SpiReq → State} (hf : ∀ {t q}, t.Guarded (.on ch) → (f t q).Guarded (.on ch))
include hf

theorem spiExec {cmd : Nat} {a b : Bool} {n : Option Nat} : StaysGuarded ch s (s.spiExec cmd a b n f) := by
  refine .onClkMem fun k => ?_
  split
  · exact k
  · exact .ite k (.ite (.dev k fun h => .spiDone h) (.ite (.dev k fun h => .spiDone h) (hf k)))

theorem spiFlash {cmd : Nat} {ok : Bool} : StaysGuarded ch s (s.spiFlash cmd ok f) :=
  .spiExec fun k => .ite k (.ite (.dev k fun h => .spiDone h) (hf k))

end

/-- A request of the host from a gate that is off. -/
theorem spiExecOff {f : State → SpiReq → State} (hf : ∀ {t q}, t.Guarded (.off ch) → (f t q).Guarded (.on ch))
    {cmd : Nat} {a b : Bool} {n : Option Nat} : StaysGuarded ch s (s.spiExec cmd a b n f) := by
  refine .onClkMemOff fun k => ?_
  split
  · exact k.on
  · exact .ite k.on (.ite (.dev k.on fun h => .spiDone h) (.ite (.dev k.on fun h => .spiDone h) (hf k)))

/-! ### Commands -/

/-! #### Sys2Proof/Machine/Pos.lean -/

theorem posFaultClear {p : Fin 4} {mask : BitVec 13} : StaysGuarded ch s (execPosFaultClear p mask s) := .byReg fun h => .posClear h

theorem excitationMark {pos : Bool} : StaysGuarded ch s (execExcitationMark pos s) :=
  .onClk fun h => .adcTrig (.each h fun h => .ite (.posUpd h) h)

theorem resolverPairTimeout {p : Fin 2} : StaysGuarded ch s (execResolverPairTimeout p s) := .onClk fun h => .ite (.pairDrop h) h

theorem encoderEdge {p : Fin 4} {a b : Bool} : StaysGuarded ch s (execEncoderEdge p a b s) :=
  .onClk fun h => .ite h (.ite (.posBad (.count (.posUpd h))) (.posUpd (.posUpd h)))

theorem encoderMeasurement {p : Fin 4} : StaysGuarded ch s (execEncoderMeasurement p s) := .onClk fun h => .ite (.posReading h) h

theorem index {p : Fin 4} : StaysGuarded ch s (execIndex p s) := by
  unfold execIndex
  exact .onClk fun h => .ite h (.ite (.when (.posUpd (.raise h)) fun h => .posUnindex (.posImmediate h)) (.set (.posUpd
    (.raise h))))

theorem serialFrameStart {p : Fin 4} : StaysGuarded ch s (execSerialFrameStart p s) := .onClk fun h => .ite h (.frameStart h)

theorem serialFrameComplete {p : Fin 4} {idle ef wf : Bool} {data : BitVec 40} {crc : BitVec 8} :
    StaysGuarded ch s (execSerialFrameComplete p idle ef wf data crc s) := by
  unfold execSerialFrameComplete
  exact .onClk fun h => by split; exacts [h, .ite (.ite (.posBad (.posUpd h)) (.posFrame (.posUpd h))) (.ite (.posBad (.posUpd
    h)) (.ite (.posBad (.setB (.posUpd h))) (.posFrame (.setB (.posUpd h)))))]

theorem sscStartBitTimeout {p : Fin 4} : StaysGuarded ch s (execSscStartBitTimeout p s) :=
  .onClk fun h => .ite (.posBad (.posUpd h)) h

theorem vencOvercurrent {p : Fin 4} : StaysGuarded ch s (execVencOvercurrent p s) := .main fun h => .ite (.posImmediate h) h

theorem openToSls {p : Fin 4} : StaysGuarded ch s (execOpenToSls p s) := .main fun h => .ite (.slsEnter h) h

theorem openTimeout {p : Fin 4} : StaysGuarded ch s (execOpenTimeout p s) := .main fun h => .ite (.posLost h) h

theorem slsLowSpeed {p : Fin 4} : StaysGuarded ch s (execSlsLowSpeed p s) := .main fun h => .ite (.posLost h) h

theorem disagree {p : Fin 4} : StaysGuarded ch s (execDisagree p s) := .main fun h => .ite (.raise (.set (.posUpd h))) h

/-! #### Sys2Proof/Machine/Pwm.lean -/

theorem switchEdge {c : Fin 2} {x : Fin 3} : StaysGuarded ch s (execSwitchEdge c x s) :=
  .main fun h => .ite h (.legEdge (.carUpd h))

theorem deadTimeEnd {c : Fin 2} {x : Fin 3} : StaysGuarded ch s (execDeadTimeEnd c x s) :=
  .main fun h => .ite h (.carCmd (.carUpd h))

theorem onTimeLimit {c : Fin 3} {k : Fin 6} : StaysGuarded ch s (execOnTimeLimit c k s) :=
  .main fun h => .ite h (.jnlFault (.raise (.count (.setBits (.carApply (.carUpd h))))))

theorem carrierMark {c : Fin 3} {slack : BitVec 16} : StaysGuarded ch s (execCarrierMark c slack s) :=
  .main fun h => .ite h (.ite (.carMark (.carMark h)) (.carMark h))

theorem brakeRequestSet {v1 v2 : BitVec 16} : StaysGuarded ch s (execBrakeRequestSet v1 v2 s) :=
  .main fun h => .ite h (.brakePulse (.brakeClock (.driveEval (.count (.set (.carUpd h))))))

theorem brakeRequestClear {v1 v2 : BitVec 16} : StaysGuarded ch s (execBrakeRequestClear v1 v2 s) :=
  .main fun h => .ite h (.driveEval (.set h))

theorem brakeOnTimeEnd : StaysGuarded ch s (execBrakeOnTimeEnd s) := .main fun h => .ite (.brakeEnd h) h

theorem brakeOffTimeEnd : StaysGuarded ch s (execBrakeOffTimeEnd s) := .main fun h => .ite (.brakePulse (.carUpd h)) h

theorem brakePulseMissing : StaysGuarded ch s (execBrakePulseMissing s) := .main fun h => .ite (.brakeDirect h) (.brakeClock h)

theorem windingDischargeEngage {g : Fin 2} : StaysGuarded ch s (execWindingDischargeEngage g s) := by
  unfold execWindingDischargeEngage
  exact .main fun h => .ite h (.coffOn (.eachOf (.clkEval (.set (.set (.carUpd h)))) fun h => .ite (.driveEval (.setPaths h))
    h))

theorem coffOnPhaseEnd {c : Fin 2} : StaysGuarded ch s (execCoffOnPhaseEnd c s) := .main fun h => .ite h (.coffOff h)

theorem coffOffTimeEnd {c : Fin 2} : StaysGuarded ch s (execCoffOffTimeEnd c s) := .main fun h => .ite h (.coffOn h)

theorem windingDischargeEnd : StaysGuarded ch s (execWindingDischargeEnd s) := .mainOff fun h => h.windStop.on

theorem debugHalt {c : Fin 4} : StaysGuarded ch s (execDebugHalt c s) := .main fun h => .debugHalt h

theorem debugResume {c : Fin 4} : StaysGuarded ch s (execDebugResume c s) := .main fun h => .debugResume h

/-! #### Sys2Proof/Machine/Adc.lean -/

theorem sampleRecord {n : Fin 8} {v : Conv} : StaysGuarded ch s (execSampleRecord n v s) := .onClk fun h => .adcAperture h

theorem slotTrigger {n : Fin 8} {k : Fin 4} : StaysGuarded ch s (execSlotTrigger n k s) := .onClk fun h => .ite h (.adcTrig1 h)

theorem slotFirstAperture {n : Fin 8} {clocks : BitVec 32} {v : Conv} : StaysGuarded ch s (execSlotFirstAperture n clocks v s) :=
  .onClk fun h => .ite h (.ite h (.adcAperture (.adcUpd (.set (.set (.when h fun h => .raise (.count h)))))))

theorem slotComplete {n : Fin 8} : StaysGuarded ch s (execSlotComplete n s) :=
  .onClk fun h => .ite h (.adcNext (.adcEntry (.when (.adcUpd h) fun h => .raise h)) fun h => .adcMux h)

theorem slotResultPublish {n : Fin 8} : StaysGuarded ch s (execSlotResultPublish n s) := by
  unfold execSlotResultPublish
  exact .onClk fun h => by split; exacts [h, (.ite (.posSlot (.ite (.udcTake (.raiseIf (.when (.setReg (.adcUpd h)) fun h =>
    .raise h))) (.raiseIf (.when (.setReg (.adcUpd h)) fun h => .raise h)))) (.ite (.udcTake (.raiseIf (.when (.setReg
    (.adcUpd h)) fun h => .raise h))) (.raiseIf (.when (.setReg (.adcUpd h)) fun h => .raise h))))]

theorem urgentRequest {n : Fin 8} {count : BitVec 8} {i : BitVec 4} : StaysGuarded ch s (execUrgentRequest n count i s) :=
  .byReg fun h => .urgWrite h

theorem urgentSlotComplete {n : Fin 8} : StaysGuarded ch s (execUrgentSlotComplete n s) := by
  unfold execUrgentSlotComplete
  exact .onClk fun h => by split; exacts [h, (.ite h (.adcNext (.ite (.cluVector (.adcUpd (.when (.raise (.setReg h)) fun h =>
    .raise h))) (.adcUpd (.when (.raise (.setReg h)) fun h => .raise h))) fun h => .adcMux (.set (.set h))))]

theorem adcRunStart {n : Fin 8} : StaysGuarded ch s (execAdcRunStart n s) := .byReg fun h => .adcRun h

theorem adcRunStop {n : Fin 8} : StaysGuarded ch s (execAdcRunStop n s) := .byReg fun h => .adcStop h

theorem refSelect {sel : BitVec 2} : StaysGuarded ch s (execRefSelect sel s) := .byReg fun h => .refSelect h

theorem referenceSettled {mv : BitVec 16} : StaysGuarded ch s (execReferenceSettled mv s) := by
  unfold execReferenceSettled
  exact .main fun h => .ite h (.ite (.refEvt (.each (.set (.set (.set (.beside h)))) fun h => .calBegin h)) (.refEvt (.count
    (.set (.set (.beside h))))))

theorem referenceOutOfWindow {mv : BitVec 16} : StaysGuarded ch s (execReferenceOutOfWindow mv s) := by
  unfold execReferenceOutOfWindow
  exact .main fun h => .ite (.set (.beside h)) (.eachOf (.jnlFault (.refEvt (.count (.set (.set (.set (.beside h))))))) fun h
    => .when h fun h => .hemSafe h)

theorem adcCalStart {mask : BitVec 8} : StaysGuarded ch s (execAdcCalStart mask s) := .byReg fun h => .calStart h

theorem calibrationEnd {n : Fin 8} {w : List (BitVec 32)} {off gain : BitVec 32} : StaysGuarded ch s
    (execCalibrationEnd n w off gain s) := by
  unfold execCalibrationEnd
  exact .onClk fun h => .ite h (.clkEval (.startDeferred (.ite (.refEvt (.set (.foHoldAll (.when (.raise (.ite (.clrBits
    (.clrBits (.setBits (.adcUpd (.setB (.set (.clrBits (.set (.set (.each h fun h => .set h)))))))))) (.setBits (.setBits
    (.clrBits (.adcUpd (.setB (.set (.clrBits (.set (.set (.each h fun h => .set h)))))))))))) fun h => .calFailHold h))))
    (.foHoldAll (.when (.raise (.ite (.clrBits (.clrBits (.setBits (.adcUpd (.setB (.set (.clrBits (.set (.set (.each h fun h
    => .set h)))))))))) (.setBits (.setBits (.clrBits (.adcUpd (.setB (.set (.clrBits (.set (.set (.each h fun h => .set
    h)))))))))))) fun h => .calFailHold h)))))

theorem adcTrimStart {o : Origin} : StaysGuarded ch s (execAdcTrimStart o s) := .onClk fun h => .when h fun h => .trimWrite h

theorem adcTrimDone {code : BitVec 16} : StaysGuarded ch s (execAdcTrimDone code s) := by
  unfold execAdcTrimDone
  refine .onClkOff fun h => .ite h.on (.ite (Dev.Guarded.on (.set (.clkEval (.set h)))) ?_)
  exact (Dev.Backed.thmEvalAll (.hemHold (Dev.Guarded.set (.set (.beside (.clkEval (.set h))))).backed)).guarded

/-! #### Sys2Proof/Machine/Gch.lean -/

theorem shortCircuit {n : Fin 14} : StaysGuarded ch s (execShortCircuit n s) := .always fun h => .ite (.gchFault h) h

theorem desat {n : Fin 14} : StaysGuarded ch s (execDesat n s) := .always fun h => .ite (.gchFault h) h

theorem softoffEnd {n : Fin 14} : StaysGuarded ch s (execSoftoffEnd n s) :=
  .main fun h => .ite (.gchPut (.gchUpd h (by exact fun _ hg => ⟨hg, id, id⟩))) h

theorem overcurrent {n : Fin 14} : StaysGuarded ch s (execOvercurrent n s) := .always fun h => .ite h (.gchFault h)

theorem gateSupplyFault {n : Fin 14} {which : Fin 3} {vpos vneg : BitVec 8} :
    StaysGuarded ch s (execGateSupplyFault n which vpos vneg s) := by
  unfold execGateSupplyFault
  exact .always fun h => .ite h (.ite (.gchFault (.supplyPut h)) (.supplyPut h))

theorem gateSupplyRecovered {n : Fin 14} {vpos vneg : BitVec 8} : StaysGuarded ch s (execGateSupplyRecovered n vpos vneg s) := by
  unfold execGateSupplyRecovered
  exact .always fun h => .ite h (.ite (.supplyPut h) (.ite (.gchUpd (.supplyPut h) (by exact fun _ hg => ⟨hg, id, id⟩))
    (.gchShowCause (.gchUpd (.supplyPut h) (by exact fun _ hg => ⟨hg, id, id⟩)))))

theorem vposLost {n : Fin 14} : StaysGuarded ch s (execVposLost n s) := by
  unfold execVposLost
  refine .alwaysOff fun {d} h => ?_
  extract_lets d1 d2 d3 d4
  have h3 : d3.Guarded (.off ch) := .gchUpdOff (.gateOff (.ite (.disEnd h) h)) fun _ hg => (Bool.false_ne_true hg).elim
  exact Dev.Guarded.on (.ite h3 (.when (.set (.gchPut h3)) fun h => .set h))

theorem highVoltageHalfPowerUp {n : Fin 14} : StaysGuarded ch s (execHighVoltageHalfPowerUp n s) :=
  .always fun h => .gchUpd h (by exact fun _ hg => ⟨hg, id, id⟩)

theorem mismatch {n : Fin 14} {high : Bool} : StaysGuarded ch s (execMismatch n high s) := .always fun h => .ite h (.gchFault h)

theorem ntcReading {n : Fin 14} {code : BitVec 8} : StaysGuarded ch s (execNtcReading n code s) := by
  unfold execNtcReading
  exact .always fun h => .ite h (.ite (.ite (.gchUpd h (by exact fun _ hg => ⟨hg, id, id⟩)) h) (.when (.gchShowCause (.set (.ite
    (.gchUpd h (by exact fun _ hg => ⟨hg, id, id⟩)) h))) fun h => .count
    h))

theorem ntcTrip {n : Fin 14} : StaysGuarded ch s (execNtcTrip n s) := .always fun h => .ite h (.gchFault h)

theorem ontHv {n : Fin 14} : StaysGuarded ch s (execOntHv n s) := .always fun h => .ite h (.gchFault h)

/-- A path that permits the half permits it still when its blanking time starts. -/
theorem gateEdge {n : Fin 14} : StaysGuarded ch s (execGateEdge n s) := by
  unfold execGateEdge
  refine .main fun h => ?_
  extract_lets
  split
  · exact h
  next on _ =>
    refine .eachOf (.gchUpd h (by exact fun _ hg => ⟨hg, id, id⟩)) fun {m d} h => ?_
    extract_lets d1
    have h1 : d1.Guarded (.on ch) := .gchUpd h (by exact fun _ hg => ⟨hg, id, id⟩)
    split
    next hc =>
      obtain ⟨-, -, hperm⟩ := hc
      split
      next hon =>
        have hp : d1.permits m = true := by
          rw [Dev.permits_eq, show d1 = d.gchUpd m _ from rfl, Dev.gchAt_gchUpd_same]
          exact hperm.resolve_right (by simp [hon])
        exact .gateOnBy h1 hp
      · exact .gateOffBy h1
    · exact h

theorem edgeLearn {n : Fin 14} {on : Bool} {ts : Option (BitVec 10)} {code : BitVec 10} {vdsOff : BitVec 16} :
    StaysGuarded ch s (execEdgeLearn n on ts code vdsOff s) := by
  unfold execEdgeLearn
  exact .main fun h => .edgeLearn h

theorem gateLinkTrainingDone {e : Fin 14 × Rails} : StaysGuarded ch s (execGateLinkTrainingDone e s) :=
  .main fun h => .ite (.trainDone (.supplyRead h)) h

theorem gateLinkTrainingFail {n : Fin 14} : StaysGuarded ch s (execGateLinkTrainingFail n s) := .main fun h => .ite (.trainFail h) h

theorem gateLinkRetry {n : Fin 14} {ok : Option Rails} : StaysGuarded ch s (execGateLinkRetry n ok s) := by
  unfold execGateLinkRetry
  exact .main fun h => .ite h (by split; exacts [.trainFail h, (.when (.trainDone (.supplyRead h)) fun h => .count h)])

theorem linkLoss {n : Fin 14} : StaysGuarded ch s (execLinkLoss n s) := by
  unfold execLinkLoss
  refine .alwaysOff fun h => .ite h.on ?_
  extract_lets d1 st d2
  have h1 : d1.Guarded (.off ch) := .gchUpdOff h fun _ => id
  have h2 : d2.Guarded (.off ch) := .ite (.gchPut (.gateOff h1)) h1
  exact .ite h1.on (.eachOf h2.on fun h => .sidesAgain (.gchFault1 h))

theorem linkStatusMissing {n : Fin 14} : StaysGuarded ch s (execLinkStatusMissing n s) := by
  unfold execLinkStatusMissing
  refine .mainOff fun h => ?_
  split
  · extract_lets d1 d2 d3
    have h1 : d1.Guarded (.off ch) := .gchUpdOff (.clrBits h) fun _ hg => hg
    have h2 : d2.Backed ch := Dev.Guarded.backed (.when h1 fun h => .setBits h)
    have h3 : d3.Backed ch := .ite (.groupSafe h2 (d2.groupOf_lt n)) h2
    exact h3.sidesAgain.foHoldAll.thmEvalAll.guarded
  · exact h.on

theorem ascCommand {g : Fin 2} : StaysGuarded ch s (execAscCommand g s) := .main fun h => .groupSafe h

theorem ascRelease {g : Fin 2} : StaysGuarded ch s (execAscRelease g s) := .main fun h => .ite h (.ascRelease h)

theorem gateEnFall : StaysGuarded ch s (execGateEnFall s) := .main fun h => .ite (.set (.beside h)) h

theorem gateEnDisable : StaysGuarded ch s (execGateEnDisable s) :=
  .mainOff fun h => .ite h.on (Dev.Backed.thmEvalAll (Dev.Guarded.gateDisable h).backed).guarded

theorem gateEnRise {lowNs : BitVec 32} {stuck : BitVec 14} : StaysGuarded ch s (execGateEnRise lowNs stuck s) :=
  .mainOff fun h => .ite h.on (.gateRise h)

theorem autonomousDischarge : StaysGuarded ch s (execAutonomousDischarge s) := by
  unfold execAutonomousDischarge
  refine .alwaysOff fun {d} h => ?_
  extract_lets _ _ k d1
  have h1 : ∀ {e : Dev}, e.gch = d1.gch → e.Backed ch := .ownRun h fun _ => rfl
  refine .ite h.on (.ite h.on (.ite ?_ ?_))
  · exact (h1 (e := d1) rfl).guarded
  · exact Dev.Backed.guarded (.thmEvalAll (.raise (.count (h1 (by simp only [Dev.gchPut, Dev.set_gch])) (by decide)) (by decide)))

theorem disTmaxElapsed : StaysGuarded ch s (execDisTmaxElapsed s) := by
  unfold execDisTmaxElapsed
  exact .alwaysOff fun h => Dev.Guarded.on (.ite h (.ite (.gchUpdOff h fun _ hg => (Bool.false_ne_true hg).elim) (.disEnd h)))

/-! #### Sys2Proof/Machine/Clu.lean -/

theorem currentLoopUpdate {g : Fin 2} {tm : BitVec 64} {bad : BitVec 2} : StaysGuarded ch s (execCurrentLoopUpdate g tm bad s) := by
  unfold execCurrentLoopUpdate
  exact .onClk fun h => .ite h (.ite (.cluTrip (.eachOf h fun h => .set h)) (.ite h (.ite (.eachOf h fun h => .cluLasting
    (.cluInput h)) (.eachOf (.eachOf (.eachOf h fun h => .cluLasting (.cluInput h)) fun h => .cluOutput h) fun h => .ite
    (.cluTransfer h) h))))

theorem vectorMeasurementRequest {g : Fin 2} {second : Bool} : StaysGuarded ch s (execVectorMeasurementRequest g second s) :=
  .onClk fun h => .ite h (.urgRequest (.cluUpd h))

theorem starved {g : Fin 2} : StaysGuarded ch s (execStarved g s) := .onClk fun h => .ite (.raise (.set (.cluUpd h))) h

theorem cluEnable {g : Fin 2} : StaysGuarded ch s (execCluEnable g s) := .byReg fun h => .cluEnable h

theorem cluDisable {g : Fin 2} : StaysGuarded ch s (execCluDisable g s) := .byReg fun h => .cluDisable h

theorem offsetMeasurementEnd {g : Fin 2} : StaysGuarded ch s (execOffsetMeasurementEnd g s) := by
  unfold execOffsetMeasurementEnd
  exact .onClk fun h => .ite h (.ite (.cluOff (.eachOf h fun h => .set h)) (.cluPut (.eachOf h fun h => .when h fun h =>
    .offsetStore h)))

/-! #### Sys2Proof/Machine/Align.lean -/

theorem standstillCheckEnd {p : Fin 4} {lo hi : BitVec 32} : StaysGuarded ch s (execStandstillCheckEnd p lo hi s) :=
  .onClk fun h => by split; exacts [h, .ite h (.ite (.alignPulse h) (.alignFail h))]

theorem satPulseEnd {p : Fin 4} {iu iv iw : BitVec 32} {tEnd : BitVec 32} : StaysGuarded ch s (execSatPulseEnd p iu iv iw tEnd s) :=
  .onClk fun h => .ite h (.setI (.alignDrive (.posUpd h)))

theorem pulseDecayEnd {p : Fin 4} : StaysGuarded ch s (execPulseDecayEnd p s) :=
  .onClk fun h => .ite h (.ite (.alignEval h) (.ite (.alignPolarity h) (.alignPulse h)))

/-! #### Sys2Proof/Machine/Fio.lean -/

theorem foModeWrite {n : Fin 16} {mode : BitVec 3} : StaysGuarded ch s (execFoModeWrite n mode s) := .byReg fun h => .foWrite h

theorem foCurrentLimitReached {n : Fin 16} {ma : BitVec 16} : StaysGuarded ch s (execFoCurrentLimitReached n ma s) :=
  .main fun h => .ite (.set (.set (.foCurrent h))) (.foCurrent h)

theorem foCurrentBelowLimit {n : Fin 16} {ma : BitVec 16} : StaysGuarded ch s (execFoCurrentBelowLimit n ma s) :=
  .main fun h => .ite (.count (.set (.set (.foCurrent h)))) (.foCurrent h)

theorem foLimitTimerExpire {n : Fin 16} : StaysGuarded ch s (execFoLimitTimerExpire n s) :=
  .mainOff fun h => .ite h.on (.ite (.foBrakeLatch h) (.foLatch h.on))

theorem foOvertemperature {e : Fin 16 × BitVec 16} : StaysGuarded ch s (execFoOvertemperature e s) :=
  .mainOff fun h => .ite h.on (.ite (.foBrakeLatch (.set h)) (.foLatch (.set h.on)))

theorem foRetryTimerExpire {n : Fin 14} : StaysGuarded ch s (execFoRetryTimerExpire n s) :=
  .main fun h => .ite h (.ite (.foResume h) (.count (.set (.foPut h))))

theorem foRetryReset {n : Fin 14} : StaysGuarded ch s (execFoRetryReset n s) := .main fun h => .ite (.set h) h

theorem foLatchClear {mask : BitVec 14} : StaysGuarded ch s (execFoLatchClear mask s) := .byReg fun h => .foClearMask h

theorem bankSupplyFault {b : Fin 4} {high : Bool} {v : BitVec 16} : StaysGuarded ch s (execBankSupplyFault b high v s) :=
  .main fun h => .ite (.set h) (.brakeShow (.foHoldAll (.raise (.beside (.setBits (.set h))))))

theorem bankSupplyRecovered {b : Fin 4} {v : BitVec 16} : StaysGuarded ch s (execBankSupplyRecovered b v s) :=
  .main fun h => .ite (.set h) (.brakeShow (.foHoldAll (.beside (.set h))))

theorem aggOver : StaysGuarded ch s (execAggOver s) := .main fun h => .raise (.set h)

theorem diFilteredEdge {n : Fin 32} : StaysGuarded ch s (execDiFilteredEdge n s) := .main fun h => .diFiltered h

/-! #### Sys2Proof/Machine/Stepper.lean -/

theorem chopperUpperReached {n : Fin 12} {b : Bool} {ns : BitVec 32} {m : BitVec 10 × Bool} :
    StaysGuarded ch s (execChopperUpperReached n b ns m s) := by
  unfold execChopperUpperReached
  exact .onClk fun h => .ite h (.chopOff (.coilUpd h))

theorem onPhaseLimit {n : Fin 12} {b : Bool} {e : BitVec 32 × Bool} : StaysGuarded ch s (execOnPhaseLimit n b e s) :=
  .onClk fun h => .ite h (.chopOff (.count (.coilUpd h)))

theorem chopperLowerReached {n : Fin 12} {b : Bool} {ns : BitVec 32} {code : BitVec 10} {low : Bool} :
    StaysGuarded ch s (execChopperLowerReached n b ns code low s) := by
  unfold execChopperLowerReached
  exact .onClk fun h => .ite h (.ite (.count (.coilUpd h)) (.chopOn (.chopSum h)))

theorem chopperTailEnd {n : Fin 12} {b low : Bool} : StaysGuarded ch s (execChopperTailEnd n b low s) :=
  .onClk fun h => .ite (.chopOn h) h

theorem coilShort {n : Fin 12} {e : Bool × BitVec 32 × BitVec 32} : StaysGuarded ch s (execCoilShort n e s) :=
  .main fun h => .ite (.axFault (.raise (.set (.homeAbort h)))) h

theorem positionTargetWrite {n : Fin 12} {v : BitVec 64} : StaysGuarded ch s (execPositionTargetWrite n v s) :=
  .byReg fun h => .axTgtWrite h

theorem velocityTargetWrite {n : Fin 12} {v : BitVec 64} : StaysGuarded ch s (execVelocityTargetWrite n v s) :=
  .byReg fun h => .axVtgtWrite h

theorem positionWrite {n : Fin 12} {v : BitVec 64} : StaysGuarded ch s (execPositionWrite n v s) := .byReg fun h => .axPosWrite h

theorem axisEnable {n : Fin 12} : StaysGuarded ch s (execAxisEnable n s) := .byReg fun h => .axEnable h

theorem axisDisable {n : Fin 12} : StaysGuarded ch s (execAxisDisable n s) := .byReg fun h => .axDisable h

theorem axisStop {n : Fin 12} : StaysGuarded ch s (execAxisStop n s) := .byReg fun h => .axStopWrite h

theorem homeGo {n : Fin 12} : StaysGuarded ch s (execHomeGo n s) := .byReg fun h => .homeStart h

theorem holdCurrentTimer {n : Fin 12} : StaysGuarded ch s (execHoldCurrentTimer n s) := .onClk fun h => .ite (.coilClamp (.set h)) h

theorem diRawEdge {n : Fin 32} {level : Bool} : StaysGuarded ch s (execDiRawEdge n level s) := .main fun h => .diRaw h

theorem limitSwitchEdge {n : Fin 12} {pos : Bool} : StaysGuarded ch s (execLimitSwitchEdge n pos s) :=
  .onClk fun h => .ite (.limTrip (.homeLimit h)) h

theorem homeSwitchEdge {n : Fin 12} : StaysGuarded ch s (execHomeSwitchEdge n s) :=
  .onClk fun h => .ite (.ite (.homeConfirm (.setReg (.set (.axisUpd h)))) (.setReg (.set (.axisUpd h)))) h

theorem homeDebounceExpire {n : Fin 12} : StaysGuarded ch s (execHomeDebounceExpire n s) :=
  .onClk fun h => .ite h (.ite (.ite (.homeConfirm h) (.count (.set h))) (.ite (.axisUpd h) h))

theorem stepEdge {n : Fin 12} {dir : Bool} : StaysGuarded ch s (execStepEdge n dir s) :=
  .onClk fun h => .ite h (.ite (.axStop (.axisUpd (.raise (.set (.axisUpd h))))) (.axGo (.axisUpd h)))

theorem motionTick {n : Fin 12} {low : BitVec 2} : StaysGuarded ch s (execMotionTick n low s) := by
  unfold execMotionTick
  refine .onClk fun h => ?_
  extract_lets d1 d2 d3 d4
  have h2 : d2.Guarded (.on ch) := .limTrip (.homeLimit (.axGo (.ite h (.axisUpd h))))
  have h3 : d3.Guarded (.on ch) := by
    unfold d3
    split; exacts [.restTick h2, .moveTick h2, .homeTick h2, .stopTick h2, h2]
  have h4 : d4.Guarded (.on ch) := .limTrip h3
  exact .ite h4 (.coilTick (.coilTick (.blindShow (.set (.bandTick (.axShow h4))))))

theorem vstpFault {v : BitVec 16} : StaysGuarded ch s (execVstpFault v s) := by
  unfold execVstpFault
  exact .main fun h => .ite (.set h) (.each (.when (.when (.setB (.setB (.set h))) fun h => .set h) fun h => .set h) fun h =>
    .axHold (.when h fun h => .count h))

theorem vstpRecovered {v : BitVec 16} : StaysGuarded ch s (execVstpRecovered v s) :=
  .main fun h => .ite (.set h) (.each (.set (.set (.set h))) fun h => .axUnhold h)

/-! #### Sys2Proof/Machine/Engine.lean -/

theorem opNop {n : Fin 64} : StaysGuarded ch s (execOpNop n s) := .onClk fun h => .issue0 h fun h => h

theorem opMov {n : Fin 64} : StaysGuarded ch s (execOpMov n s) := .onClk fun h => .alu h

theorem opAdd {n : Fin 64} : StaysGuarded ch s (execOpAdd n s) := .onClk fun h => .alu h

theorem opSub {n : Fin 64} : StaysGuarded ch s (execOpSub n s) := .onClk fun h => .alu h

theorem opNeg {n : Fin 64} : StaysGuarded ch s (execOpNeg n s) := .onClk fun h => .alu h

theorem opAbs {n : Fin 64} : StaysGuarded ch s (execOpAbs n s) := .onClk fun h => .alu h

theorem opMin {n : Fin 64} : StaysGuarded ch s (execOpMin n s) := .onClk fun h => .alu h

theorem opMax {n : Fin 64} : StaysGuarded ch s (execOpMax n s) := .onClk fun h => .alu h

theorem opClamp {n : Fin 64} : StaysGuarded ch s (execOpClamp n s) := .onClk fun h => .alu h

theorem opSel {n : Fin 64} : StaysGuarded ch s (execOpSel n s) := .onClk fun h => .alu h

theorem opWrap {n : Fin 64} : StaysGuarded ch s (execOpWrap n s) := .onClk fun h => .alu h

theorem opMul {n : Fin 64} : StaysGuarded ch s (execOpMul n s) := .onClk fun h => .issue1 h fun h => .later h

theorem opMac {n : Fin 64} : StaysGuarded ch s (execOpMac n s) := .onClk fun h => .issueMac h fun h => .macPut h

theorem opMsu {n : Fin 64} : StaysGuarded ch s (execOpMsu n s) := .onClk fun h => .issueMac h fun h => .macPut h

theorem opAccld {n : Fin 64} : StaysGuarded ch s (execOpAccld n s) := .onClk fun h => .ite h (.issue0 h fun h => .slcUpd h)

theorem opAccrd {n : Fin 64} : StaysGuarded ch s (execOpAccrd n s) := .onClk fun h => .ite h (.issue1 h fun h => .now1 h)

theorem opTab {n : Fin 64} : StaysGuarded ch s (execOpTab n s) := .onClk fun h => .issue1 h fun h => .later h

theorem opDiv {n : Fin 64} : StaysGuarded ch s (execOpDiv n s) := .onClk fun h => .issue1 h fun h => .later (.divCount h)

theorem opSqrt {n : Fin 64} : StaysGuarded ch s (execOpSqrt n s) := .onClk fun h => .issue1 h fun h => .later (.rootCount h)

theorem opSincos {n : Fin 64} : StaysGuarded ch s (execOpSincos n s) := .onClk fun h => .issueBy h fun h => .later h

theorem opAtan2 {n : Fin 64} : StaysGuarded ch s (execOpAtan2 n s) := .onClk fun h => .issue1 h fun h => .later h

theorem opMag {n : Fin 64} : StaysGuarded ch s (execOpMag n s) := .onClk fun h => .issue1 h fun h => .later h

theorem opBiq {n : Fin 64} : StaysGuarded ch s (execOpBiq n s) :=
  .onClk fun h => .issueBy h fun h => by extract_lets; split; exact .later h

theorem opRamp {n : Fin 64} : StaysGuarded ch s (execOpRamp n s) := .onClk fun h => .issue1 h fun h => .later h

theorem opPi {n : Fin 64} : StaysGuarded ch s (execOpPi n s) :=
  .onClk fun h => .issueBy h fun h => by extract_lets; split; exact .later h

theorem opIn {n : Fin 64} : StaysGuarded ch s (execOpIn n s) := .onClk fun h => .issue1 h fun h => .later (.drawn h)

theorem opOut {n : Fin 64} : StaysGuarded ch s (execOpOut n s) := .onClk fun h => .issue0 h fun h => .slcUpd h

theorem opJge {n : Fin 64} : StaysGuarded ch s (execOpJge n s) := .onClk fun h => .issue0 h fun h => .ite (.pcBy h) h

theorem opEnd {n : Fin 64} {cyc : BitVec 16} : StaysGuarded ch s (execOpEnd n cyc s) := by
  unfold execOpEnd
  exact .onClk fun h => by split; exacts [h, (.ite h (.ite (.slcUpd (.slFlt (.count (.splEnd (.slReturn (.pcBy (.when (.set
    (.set h)) fun h => .set h))))))) (.closeIf (.slcUpd (.splEnd (.slReturn (.pcBy (.when (.set (.set h)) fun h => .set
    h))))))))]

theorem groupTrigger {g : Fin 8} : StaysGuarded ch s (execGroupTrigger g s) := .onClk fun h => .ite h (.grpTrigger (.egrUpd h))

theorem blockAccept : StaysGuarded ch s (execBlockAccept s) := .onClk fun h => .accept h

theorem epochDeadline {g : Fin 8} : StaysGuarded ch s (execEpochDeadline g s) :=
  .onClk fun h => .ite h (.eachOf (.count (.egrUpd h)) fun h => .when h fun h => .set h)

theorem collectorSwap {g : Fin 8} : StaysGuarded ch s (execCollectorSwap g s) := .onClk fun h => .ite (.swap h) h

theorem triggerTimeout {g : Fin 8} : StaysGuarded ch s (execTriggerTimeout g s) :=
  .onClk fun h => .ite h (.posSwaps (.eachOf (.count h) fun h => .each h fun h => .ageWord h))

theorem sliceRun {o : Origin} {n : Fin 64} {run : Bool} : StaysGuarded ch s (execSliceRun o n run s) := .byOrigin fun h => .slRun h

theorem sliceEccError {e : Fin 64 × Bool} : StaysGuarded ch s (execSliceEccError e s) :=
  .onClk fun h => .ite (.count h) (.ite h (.jnlFault (.raise (.clkEval (.flightPut (.slcUpd (.set h)))))))

theorem tuneCommit {count : BitVec 4} {restart : Bool} : StaysGuarded ch s (execTuneCommit count restart s) :=
  .byReg fun h => .tune (.setB (.set h))

/-! #### Sys2Proof/Machine/Assist.lean -/

theorem laRdw {c : Fin 4} {rd : BitVec 5} {v1 : BitVec 64} : StaysGuarded ch s (execLaRdw c rd v1 s) := .onClk fun h => .laGo h

theorem laRdout {c : Fin 4} {rd : BitVec 5} {v1 : BitVec 64} : StaysGuarded ch s (execLaRdout c rd v1 s) := .onClk fun h => .laGo h

theorem laRdage {c : Fin 4} {rd : BitVec 5} {v1 : BitVec 64} : StaysGuarded ch s (execLaRdage c rd v1 s) := .onClk fun h => .laGo h

theorem laRdseq {c : Fin 4} {rd : BitVec 5} {v1 : BitVec 64} : StaysGuarded ch s (execLaRdseq c rd v1 s) := .onClk fun h => .laGo h

theorem laRdsst {c : Fin 4} {rd : BitVec 5} {v1 : BitVec 64} : StaysGuarded ch s (execLaRdsst c rd v1 s) := .onClk fun h => .laGo h

theorem laTstat {c : Fin 4} {rd : BitVec 5} : StaysGuarded ch s (execLaTstat c rd s) := .onClk fun h => .laGo h

theorem laDiv {c : Fin 4} {rd : BitVec 5} {v1 v2 : BitVec 64} : StaysGuarded ch s (execLaDiv c rd v1 v2 s) :=
  .onClk fun h => .laGo h

theorem laSqrt {c : Fin 4} {rd : BitVec 5} {v1 : BitVec 64} : StaysGuarded ch s (execLaSqrt c rd v1 s) := .onClk fun h => .laGo h

theorem laSin {c : Fin 4} {rd : BitVec 5} {v1 : BitVec 64} : StaysGuarded ch s (execLaSin c rd v1 s) := .onClk fun h => .laGo h

theorem laCos {c : Fin 4} {rd : BitVec 5} {v1 : BitVec 64} : StaysGuarded ch s (execLaCos c rd v1 s) := .onClk fun h => .laGo h

theorem laAtan2 {c : Fin 4} {rd : BitVec 5} {v1 v2 : BitVec 64} : StaysGuarded ch s (execLaAtan2 c rd v1 v2 s) :=
  .onClk fun h => .laGo h

theorem laMag {c : Fin 4} {rd : BitVec 5} {v1 v2 : BitVec 64} : StaysGuarded ch s (execLaMag c rd v1 v2 s) :=
  .onClk fun h => .laGo h

theorem operationResult {n : Fin 64} {k : Fin 64} : StaysGuarded ch s (execOperationResult n k s) :=
  .onClk fun h => .assistPump (.opResult h)

theorem assistResultReturn {c : Fin 4} {j : Fin 2} : StaysGuarded ch s (execAssistResultReturn c j s) := by
  unfold execAssistResultReturn
  refine .onClk fun h => ?_
  split
  · exact h
  · extract_lets
    split
    · exact .laPump (.xPut (.portUpd h))
    · exact .ite (.laPump (.count (.xPut (.portUpd h)))) h

theorem laTset {c : Fin 4} {v1 v2 : BitVec 64} : StaysGuarded ch s (execLaTset c v1 v2 s) := .onClk fun h => .laGo h

theorem laTcommit {c : Fin 4} {v1 : BitVec 64} : StaysGuarded ch s (execLaTcommit c v1 s) := .onClk fun h => .laGo h

theorem laRun {c : Fin 4} {v1 : BitVec 64} : StaysGuarded ch s (execLaRun c v1 s) := .onClk fun h => .laGo h

theorem commitBufferSend {c : Fin 4} : StaysGuarded ch s (execCommitBufferSend c s) :=
  .onClk fun h => by split; exacts [h, .laPump (.laAct (.portUpd h))]

theorem squash {c : Fin 4} {what : Squash} : StaysGuarded ch s (execSquash c what s) := by
  unfold execSquash
  refine .onClk fun h => .ite h ?_
  extract_lets
  split
  · split; exacts [h, .count (.xPut (.portUpd h))]
  · exact .ite (.laPump (.count (.squashReq h))) (.squashRet h)
  · exact .ite (.laPump (.count (.portUpd h))) h
  · split; exacts [h, .portUpd h, .count (.portUpd h)]

theorem illegalInstruction {c : Fin 4} {w : BitVec 32} : StaysGuarded ch s (execIllegalInstruction c w s) :=
  .onClk fun h => .ite (.laExec h) h

theorem arm : StaysGuarded ch s (execArm s) := .byReg fun h => .splArm h

theorem stop : StaysGuarded ch s (execStop s) := .byReg fun h => .splStop h

theorem force : StaysGuarded ch s (execForce s) := .byReg fun h => .splForce h

theorem spoolRecordWrite : StaysGuarded ch s (execSpoolRecordWrite s) := .onClkMem fun k => .splServe k

theorem spoolMemoryWrite {a : BitVec 40} {w : Width} {v : BitVec 64} : StaysGuarded ch s (execSpoolMemoryWrite a w v s) :=
  .byRegMem fun k => .ite (.splStore k) k

/-! #### Sys2Proof/Machine/Sys.lean -/

theorem busErrorAccess {o : Origin} {a : BitVec 40} {w : Width} {wr : Bool} : StaysGuarded ch s (execBusErrorAccess o a w wr s) :=
  .onClk fun h => by split; exacts [(.when h fun h => .busErr h), h]

theorem vsupGood : StaysGuarded ch s (execVsupGood s) := by
  unfold execVsupGood
  exact .nextOff fun k => State.Guarded.on (.ite (.dev (.volatileLost k) fun h => .powerOn h) k)

theorem vsupDipStart : StaysGuarded ch s (execVsupDipStart s) := .always fun h => .ite h (.beside h)

theorem vsupSagEnd : StaysGuarded ch s (execVsupSagEnd s) := .always fun h => .ite h (.when (.beside h) fun h => .count h)

theorem supplyLossEvent {vholdMv : BitVec 16} : StaysGuarded ch s (execSupplyLossEvent vholdMv s) :=
  .always fun h => .ite h (.ite (.beside (.beside h)) (.lossSequence (.beside h)))

theorem vsupReturn : StaysGuarded ch s (execVsupReturn s) := .always fun h => .ite (.beside h) h

theorem vsupRecovery : StaysGuarded ch s (execVsupRecovery s) := by
  unfold execVsupRecovery
  exact .nextOff fun k => State.Guarded.on (.ite (.ite (.dev (.volatileLost k) fun h => .powerOn h)
    (.dev (.volatileLost k) fun h => .set (.mainReset h))) k)

theorem vholdBelowMinimum : StaysGuarded ch s (execVholdBelowMinimum s) := .always fun h => .ite (.flushStop (.beside h)) h

theorem vholdExhausted : StaysGuarded ch s (execVholdExhausted s) := by
  unfold execVholdExhausted
  exact .nextOff fun k => State.Guarded.on (.ite (.dev (.volatileLost k) fun h => .beside (.powerOn h)) k)

theorem vholdGood : StaysGuarded ch s (execVholdGood s) := .main fun h => .set h

theorem vholdLow : StaysGuarded ch s (execVholdLow s) :=
  .mainOff fun h => (Dev.Backed.thmEvalAll (Dev.Guarded.set h).backed).guarded

theorem sleepReq : StaysGuarded ch s (execSleepReq s) := .byReg fun h => .sleepReq h

theorem sleepPrepComplete : StaysGuarded ch s (execSleepPrepComplete s) := by
  unfold execSleepPrepComplete
  exact .nextOff fun k => State.Guarded.on (.ite k (.ite (.dev k fun h => .wake (.ite (.setBits (.ite (.setBits h) h)) (.ite
    (.setBits h) h))) (.ite k (.dev (.volatileLost k) fun h => .beside (.mainReset h)))))

theorem canWakePattern {n : Fin 4} : StaysGuarded ch s (execCanWakePattern n s) :=
  .alwaysOff fun h => Dev.Guarded.on (.ite (.wake h) (.ite (.ite (.wake h) h) (.ite (.raise h) h)))

theorem wakePinAccepted {level : Bool} : StaysGuarded ch s (execWakePinAccepted level s) :=
  .alwaysOff fun h => Dev.Guarded.on (.ite h (.ite (.wake (.beside h)) (.beside h)))

theorem sleepTimerExpiry : StaysGuarded ch s (execSleepTimerExpiry s) :=
  .alwaysOff fun h => Dev.Guarded.on (.ite (.wake h) h)

theorem pllRequest {p : Fin 3} {fw : Bool} : StaysGuarded ch s (execPllRequest p fw s) :=
  .main fun h => .when h fun h => .pllEval (.pllMark h)

theorem pllLockTimeout {p : Fin 3} : StaysGuarded ch s (execPllLockTimeout p s) := .main fun h => .ite (.pllFault (.beside h)) h

theorem pllLastRequestReleased {p : Fin 3} {fw : Bool} : StaysGuarded ch s (execPllLastRequestReleased p fw s) :=
  .main fun h => .when h fun h => .pllRelease (.pllMark h)

theorem pllHoldoffExpire {p : Fin 3} {req : Bool} : StaysGuarded ch s (execPllHoldoffExpire p req s) := by
  unfold execPllHoldoffExpire
  exact .main fun h => .ite (.ite (.set (.when h fun h => .pllMark h)) (.showFrozen (.set (.when h fun h => .pllMark h)))) h

theorem pllLockLost {p : Fin 3} : StaysGuarded ch s (execPllLockLost p s) := .main fun h => .ite (.pllFault h) h

theorem referenceFailure : StaysGuarded ch s (execReferenceFailure s) := .main fun h => .clockSafe (.raise (.set h))

theorem appRst {o : Origin} {key : BitVec 16} {rst : Bool} : StaysGuarded ch s (execAppRst o key rst s) :=
  .byOriginMemOff fun k => .rstctl k.backed

theorem watchdogExpiry : StaysGuarded ch s (execWatchdogExpiry s) := .mainMemOff fun k => .ite k.on (.appReset k.backed)

theorem thimbleReset : StaysGuarded ch s (execThimbleReset s) := by
  unfold execThimbleReset
  refine .mainMemOff fun {t} k => ?_
  extract_lets d s1 _ _ _ s2
  have kn : (s2.appReset SYS_RSTCAUSE_THIMBLE).Guarded (.on ch) := .appReset (.dev k.backed fun h => .beside h)
  refine .ite k.on (.ite (.ite (.keepReset k.backed) (.dev (.appReset k.backed) fun h => .beside h)) (.ite ?_ k.on))
  split
  · exact .ite (.keepReset k.backed) kn
  · exact kn

theorem debugReset : StaysGuarded ch s (execDebugReset s) :=
  .mainMemOff fun k => .ite (.ite k.on (.dev (.appReset k.backed) fun h => .count h)) (.dev k.on fun h => .count h)

/-! #### Sys2Proof/Machine/Hem.lean -/

theorem checkpoint {p : Fin 2} : StaysGuarded ch s (execCheckpoint p s) := .onClk fun h => .ite (.checkpoint h) h

theorem forced {p : Fin 2} : StaysGuarded ch s (execForced p s) := .onClk fun h => .ite (.raiseLim (.count (.checkpoint h))) h

theorem privateStore {p : Fin 2} {a : BitVec 40} {w : Width} {v : BitVec 64} : StaysGuarded ch s (execPrivateStore p a w v s) :=
  .onClkMem fun k => .ite (.pairStore k) k

theorem mismatchDetected {p : Fin 2} : StaysGuarded ch s (execMismatchDetected p s) := by
  unfold execMismatchDetected
  exact .onClk fun h => .ite h (.ite (.retire (.pairUpd (.handRefuse (.handRefuse (.raise (.count (.setReg h))))))) (.ite
    (.pairUpd (.handRefuse (.handRefuse (.raise (.count (.setReg h)))))) (.portDrop (.set (.pairUpd (.handRefuse (.handRefuse
    (.raise (.count (.setReg h))))))))))

theorem darnRestartComplete {p : Fin 2} {ok : Bool} {us : BitVec 12} : StaysGuarded ch s (execDarnRestartComplete p ok us s) := by
  unfold execDarnRestartComplete
  exact .onClkMem fun k => .ite k (.ite (.dev k fun h => .released h) (.dev k fun h => .retire h))

theorem watchdogService {o : Origin} {key : BitVec 16} : StaysGuarded ch s (execWatchdogService o key s) :=
  .byOrigin fun h => .dogWrite h

theorem split {o : Origin} : StaysGuarded ch s (execSplit o s) := .byOrigin fun h => .splitWrite h

theorem splitComplete {p : Fin 2} : StaysGuarded ch s (execSplitComplete p s) :=
  .onClk fun h => .ite (.raise (.set (.portUpd (.pairUpd h)))) h

theorem ownerReq {o : Origin} : StaysGuarded ch s (execOwnerReq o s) := .byOrigin fun h => .ownerReq h

theorem safeAck {o : Origin} : StaysGuarded ch s (execSafeAck o s) := .byOrigin fun h => .safeAck h

theorem handoverTimeout : StaysGuarded ch s (execHandoverTimeout s) := .main fun h => .handRefuse h

theorem rejoin {c : Fin 4} : StaysGuarded ch s (execRejoin c s) := .byOrigin fun h => .rejoin h

theorem rejoinTimeout {p : Fin 2} : StaysGuarded ch s (execRejoinTimeout p s) := .onClk fun h => .ite (.pairRefuse (.pairUpd h)) h

theorem rejoinComplete {p : Fin 2} : StaysGuarded ch s (execRejoinComplete p s) :=
  .onClk fun h => .ite h (.roleFromRetired (.raise (.checkpoint (.set (.pairUpd (.portUpd (.portDrop h)))))))

theorem splitCoreParity {c : Fin 4} : StaysGuarded ch s (execSplitCoreParity c s) :=
  .onClk fun h => .ite h (.count (.pairUpd (.portUpd (.portDrop h))))

theorem splitCoreSelfTestDone {c : Fin 4} : StaysGuarded ch s (execSplitCoreSelfTestDone c s) := .onClk fun h => .pairUpd h

theorem deratingUpdate : StaysGuarded ch s (execDeratingUpdate s) := .main fun h => .each (.tempKeep h) fun h => .derate h

theorem hemSpeedTrip {g : Fin 2} : StaysGuarded ch s (execHemSpeedTrip g s) := .main fun h => .ite (.hemSafe (.count h)) h

theorem hemUdcTrip {g : Fin 2} : StaysGuarded ch s (execHemUdcTrip g s) := .main fun h => .ite (.hemSafe (.count h)) h

theorem hold : StaysGuarded ch s (execHold s) := .main fun h => .holdEval h

/-! #### Sys2Proof/Machine/AuxAdc.lean -/

theorem auxScanStart {m : Fin 2} : StaysGuarded ch s (execAuxScanStart m s) :=
  .main fun h => .ite h (by split; exacts [.auxUpd h, .count (.auxUpd h)])

theorem auxEntryDone {m : Fin 2} {x : List (BitVec 32)} : StaysGuarded ch s (execAuxEntryDone m x s) :=
  .main fun h => by split; exacts [h, .auxNext (.auxPublish h)]

/-! #### Sys2Proof/Machine/Thimble.lean -/

theorem thimbleCoreFault : StaysGuarded ch s (execThimbleCoreFault s) := by
  unfold execThimbleCoreFault
  refine .mainOff fun h => .ite h.on ?_
  extract_lets d1 d2 d3
  have h3 : d3.Guarded (.off ch) := .brakeApply (.each (.windStop (.set h)) fun h => .cutPaths h)
  exact (Dev.Backed.eachOf h3.backed fun hx h => .ite ((Dev.Backed.calm ch).applySafe ((Dev.Backed.calm ch).cluSafe
    (Dev.mem_allGroups_lt hx) h)) (.thmToSto h (Dev.mem_allGroups_lt hx))).guarded

theorem thimbleRestartDone : StaysGuarded ch s (execThimbleRestartDone s) := by
  unfold execThimbleRestartDone
  refine .mainMemOff fun k => .ite k.on ?_
  have ke := (k.backed.endSafety (origin := 3) (reason := 3)).endDev (origin := 3) (reason := 3)
  extract_lets s1 d1 d2 d3
  have h3 : d3.Backed ch := .hemHold (.thmShow (.thmChecks (.thmLatch (.thmForget (.count ke (by decide))))))
  exact .ite (.keepReset (.dev ke fun _ => .beside (.set h3 (by decide)))) (.dev ke.guarded fun _ => h3.thmStart.guarded)

theorem pathTest {n : Fin 14} {p1 p2 : Bool} : StaysGuarded ch s (execPathTest n p1 p2 s) := by
  unfold execPathTest
  exact .thimbleOff fun h => .ite h.on (Dev.Backed.thmEvalAll (Dev.Guarded.thmLatch (.ite (.tgrpUpd h) h)).backed).guarded

theorem speedCheck : StaysGuarded ch s (execSpeedCheck s) :=
  .thimbleOff fun h => (Dev.Backed.eachOf h.backed fun hx h => .speedRead h (Dev.mem_allGroups_lt hx)).guarded

theorem selReleaseTimer {g : Fin 2} : StaysGuarded ch s (execSelReleaseTimer g s) :=
  .thimbleOff fun h => .ite (Dev.Backed.selPut h.backed g.isLt).guarded h.on

theorem ss1Check {g : Fin 2} {ms : BitVec 16} : StaysGuarded ch s (execSs1Check g ms s) := by
  unfold execSs1Check
  refine .thimbleOff fun h => .ite h.on ?_
  extract_lets d1
  have h1 : d1.Guarded (.off ch) := .eachOf h fun h => .set h
  exact .ite h1.on (.ite (Dev.Backed.ss1Violate h1 g.isLt).guarded (.ite (Dev.Backed.ss1Complete h1 g.isLt).guarded h1.on))

theorem ss1Deadline {g : Fin 2} : StaysGuarded ch s (execSs1Deadline g s) :=
  .thimbleOff fun h => .ite (Dev.Backed.ss1Demand h g.isLt).guarded h.on

theorem sbcEngageTimer {g : Fin 2} : StaysGuarded ch s (execSbcEngageTimer g s) :=
  .thimbleOff fun h => .ite (Dev.Backed.ss1Demand h g.isLt).guarded h.on

theorem stoAscTimeout {g : Fin 2} : StaysGuarded ch s (execStoAscTimeout g s) :=
  .thimbleOff fun h => .ite (Dev.Backed.thmToSto h.backed g.isLt).guarded h.on

theorem safeToSto {g : Fin 2} : StaysGuarded ch s (execSafeToSto g s) :=
  .thimbleOff fun h => .ite (Dev.Backed.thmToSto h.backed g.isLt).guarded h.on

theorem safetyInputChange {k : Fin 4} {a b : Bool} : StaysGuarded ch s (execSafetyInputChange k a b s) := by
  unfold execSafetyInputChange
  refine .mainOff fun h => ?_
  extract_lets
  split
  exact (Dev.Backed.when (Dev.Guarded.beside (.set h)).backed fun h => .thmEvalAll (.siStep h)).guarded

theorem siDisc {k : Fin 4} : StaysGuarded ch s (execSiDisc k s) := by
  unfold execSiDisc
  exact .thimbleOff fun h => .ite (Dev.Backed.thmEvalAll (Dev.Guarded.thmLatch (.siCause (.siPut (.beside h)))).backed).guarded
    h.on

theorem sbcTestPulse {ok : Bool} : StaysGuarded ch s (execSbcTestPulse ok s) :=
  .thimbleOff fun h => .ite h.on (.ite (.count h.on) (Dev.Backed.sbcFault (.count h)).guarded)

theorem sbcApplyCheck {ma : BitVec 16} : StaysGuarded ch s (execSbcApplyCheck ma s) :=
  .thimbleOff fun h => .ite h.on (.ite (.clrBits (.set h.on)) (Dev.Backed.sbcFault (.setBits (.set h))).guarded)

theorem sbcCurrentLow {ma : BitVec 16} : StaysGuarded ch s (execSbcCurrentLow ma s) :=
  .thimbleOff fun h => .ite h.on (.ite (Dev.Backed.sbcFault (.set h)).guarded (.set h.on))

theorem tmWindowEnd {l : List (BitVec 12 × BitVec 12)} {iq0 iq1 : BitVec 64} :
    StaysGuarded ch s (execTmWindowEnd l iq0 iq1 s) := by
  unfold execTmWindowEnd
  refine .thimbleOff fun h => ?_
  extract_lets d1 _ _ _ d2 _ _ d3 d4
  have h4 : d4.Guarded (.off ch) := .ite (.setB (.setI (.setI (.dcShow h)))) (.raiseLim (.setB (.setI (.setI (.dcShow h)))))
  exact .ite (Dev.Guarded.dcShow h).on (.ite (.count h4.on) (Dev.Backed.tmJudge h4).guarded)

theorem udcDiv {v : BitVec 16} {bad : Bool} : StaysGuarded ch s (execUdcDiv v bad s) := by
  unfold execUdcDiv
  refine .thimbleOff fun h => .ite ?_ (.clrBits (.set (.tudcShow h.on)))
  exact (Dev.Backed.thmEvalAll (.eachOf (Dev.Guarded.thmLatch (.setBits (.set (.tudcShow h)))).backed fun hx h =>
    .groupSafe h (Dev.mem_allGroups_lt (List.mem_of_mem_filter hx)))).guarded

theorem disSlow {v : BitVec 16} : StaysGuarded ch s (execDisSlow v s) :=
  .thimbleOff fun h => .ite (.tudcShow h.on)
    (Dev.Backed.thmEvalAll (Dev.Guarded.thmLatch (.disEnd (.tudcShow h))).backed).guarded

theorem windingDischargeStop {v : BitVec 16} : StaysGuarded ch s (execWindingDischargeStop v s) :=
  .thimbleOff fun h => by split; exacts [h.on, Dev.Guarded.on (.ite (.windStop (.tudcShow h)) (.tudcShow h))]

theorem lockoutExpiry : StaysGuarded ch s (execLockoutExpiry s) := .thimble fun h => .ite (.set (.lockPut h)) h

theorem lockoutSave : StaysGuarded ch s (execLockoutSave s) := .thimble fun h => .ite (.lockPut h) h

theorem unlockTimeout : StaysGuarded ch s (execUnlockTimeout s) := .mainMem fun k => .ite (.endSafety k) k

theorem unknownRequest {o : Origin} {code : BitVec 8} {tag : BitVec 16} : StaysGuarded ch s (execUnknownRequest o code tag s) :=
  .byOriginMemOff fun k => .ite k.on (.thmreqWrite k)

/-! #### Sys2Proof/Machine/Sfl.lean -/

theorem txPop : StaysGuarded ch s (execTxPop s) := .byReg fun h => .sflPop h

theorem connectionEnable {o : Origin} {k : Fin 256} {en : Bool} : StaysGuarded ch s (execConnectionEnable o k en s) :=
  .byOriginOff fun h => .ite h.on (.ite (Dev.Backed.sflEnable (Dev.Guarded.rwsStored h).backed).guarded (.rwsRefuse h.on))

theorem connectionCycle {k : Fin 256} : StaysGuarded ch s (execConnectionCycle k s) :=
  .onClk fun h => .ite h (by split; exacts [.sflSend (.set h), (.when h fun h => .sflData h), h])

theorem connectionWatchdog {k : Fin 256} : StaysGuarded ch s (execConnectionWatchdog k s) :=
  .mainOff fun h => .ite (Dev.Backed.sflThm (Dev.Guarded.count (.sflDown h)).backed).guarded h.on

theorem appsend {k : Fin 256} {len : BitVec 8} : StaysGuarded ch s (execAppsend k len s) := .byRegMem fun k => .appSend k

theorem submit {len : BitVec 16} : StaysGuarded ch s (execSubmit len s) :=
  .byRegMemOff fun k => (State.Backed.sflSubmit k).guarded

/-! #### Sys2Proof/Machine/Events.lean -/

theorem evrAck {t : Fin 6} {k : BitVec 10} : StaysGuarded ch s (execEvrAck t k s) := .byReg fun h => .ite (.evrClear h) h

theorem evrPendClear {t : Fin 6} {j : Fin 12} {mask : BitVec 64} : StaysGuarded ch s (execEvrPendClear t j mask s) :=
  .byReg fun h => .evrClearMask h

theorem journalEntryWrite : StaysGuarded ch s (execJournalEntryWrite s) := .mainMem fun k => .jnlWrite k

theorem jnlFwcmd {o : Origin} {k : BitVec 8} : StaysGuarded ch s (execJnlFwcmd o k s) := .byOrigin fun h => .fwEntry h

theorem dtmHoldover : StaysGuarded ch s (execDtmHoldover s) := .main fun h => .ite (.raise (.count (.set h))) h

/-! #### Sys2Proof/Machine/Domain.lean -/

theorem domainEn {en : Bool} : StaysGuarded ch s (execDomainEn en s) := .byRegMem fun k => .canWant (.dev k fun h => .domEnable h)

theorem formDelayReached : StaysGuarded ch s (execFormDelayReached s) := .domain fun h => .ite (.domSend (.domContend h)) h

theorem domainOpen : StaysGuarded ch s (execDomainOpen s) := .domHeard fun h => .when (.domContend h) fun h => .domClaim0 h

theorem domainClaim {r : Fin 4} {arg : BitVec 16} : StaysGuarded ch s (execDomainClaim r arg s) :=
  .domHeard fun h => .ite (.domContend h) (.ite (.beside (.domDropClaims h)) h)

theorem domainRegister {arg : BitVec 16} {uid : BitVec 64} : StaysGuarded ch s (execDomainRegister arg uid s) :=
  .domHeard fun h => .domRegister h

theorem domainTrunk {trunk : Bool} {uid : BitVec 64} : StaysGuarded ch s (execDomainTrunk trunk uid s) :=
  .domHeard fun h => .domTrunk h

theorem domainLeader {uid : BitVec 64} : StaysGuarded ch s (execDomainLeader uid s) :=
  .domHeard fun h => .ite h (.domLeader (.domHeardRef h))

theorem domoff {off : BitVec 64} : StaysGuarded ch s (execDomoff off s) := .domHeard fun h => .when h fun h => .dtmMeasure h

theorem segnum {num : BitVec 16} {gm : BitVec 64} : StaysGuarded ch s (execSegnum num gm s) := .domHeard fun h => .domSegnum h

theorem claimSilence : StaysGuarded ch s (execClaimSilence s) := .domain fun h => .when h fun h => .domClaim0 h

theorem segmentClose : StaysGuarded ch s (execSegmentClose s) := .domain fun h => .domClose h

theorem segReg {r : SegReg} : StaysGuarded ch s (execSegReg r s) := .domain fun h => .domRegSeg h

theorem directoryClose : StaysGuarded ch s (execDirectoryClose s) := .domain fun h => .domDirClose h

theorem dirAck {leader : BitVec 64} {num : BitVec 9} {ver : BitVec 4} : StaysGuarded ch s (execDirAck leader num ver s) :=
  .domain fun h => .domDirAck h

theorem dirDone : StaysGuarded ch s (execDirDone s) := .domain fun h => .domDirDone h

theorem dirQuery {uid : BitVec 64} : StaysGuarded ch s (execDirQuery uid s) := .domain fun h => .ite h (.domSay h)

theorem gatewayServoLocked : StaysGuarded ch s (execGatewayServoLocked s) := .domain fun h => .ite (.domReport (.domPut h)) h

theorem connectComplete : StaysGuarded ch s (execConnectComplete s) := .domain fun h => .ite (.domPut (.set h)) h

theorem leaderRefMissing : StaysGuarded ch s (execLeaderRefMissing s) :=
  .domain fun h => .ite h (.ite (.domTakeLead (.domGateway (.domMembers h))) (.domGateway (.domMembers h)))

theorem gmChange : StaysGuarded ch s (execGmChange s) := .domain fun h => .when (.beside h) fun h => .domReport h

/-! #### Sys2Proof/Machine/Can.lean -/

theorem canRunSet {n : Fin 4} : StaysGuarded ch s (execCanRunSet n s) := .byReg fun h => .canRunSet h

theorem canRunClear {n : Fin 4} : StaysGuarded ch s (execCanRunClear n s) := .byReg fun h => .canRunClear h

theorem busIdleDetected {n : Fin 4} : StaysGuarded ch s (execBusIdleDetected n s) := by
  unfold execBusIdleDetected
  exact .onClkMem fun k => .ite (.canArb (.dev k fun h => .set h)) (.ite (.canArb (.dev k fun h => .canUpd h)) (.dev k fun h
    => .canUpd h))

theorem recover {n : Fin 4} : StaysGuarded ch s (execRecover n s) := .byReg fun h => .canRecover h

theorem busOn {n : Fin 4} : StaysGuarded ch s (execBusOn n s) :=
  .onClkMem fun k => .ite (.canArb (.dev k fun h => .raise (.canCount (.set h)))) k

theorem txreq {n : Fin 4} {mask : BitVec 3} : StaysGuarded ch s (execTxreq n mask s) := .byRegMem fun k => .canTxreq k

theorem txabort {n : Fin 4} {mask : BitVec 3} : StaysGuarded ch s (execTxabort n mask s) := .byRegMem fun k => .canTxabort k

theorem canTxComplete {n : Fin 4} {e : TxEnd} : StaysGuarded ch s (execCanTxComplete n e s) := by
  unfold execCanTxComplete
  refine .onClkMem fun k => ?_
  split
  · exact k
  · extract_lets _ t1
    have k1 : t1.Guarded (.on ch) := .dev k fun h => .canUpd h
    refine .canArb (.dev (.ite (.canLostAt k1) ?_) fun h => .canStopped h)
    split; exacts [.ite (.canLostAt k1) (.canSent k1), .canLostAt k1, .canLostAt k1]

theorem refPeriod {n : Fin 4} : StaysGuarded ch s (execRefPeriod n s) := by
  unfold execRefPeriod
  exact .onClkMem fun k => .ite (.canWant (.dev k fun h => .canQueue (.refPeriodBegin h))) (.dev k fun h => .refPeriodBegin h)

theorem canFrameReceived {n : Fin 4} {f : CanFrame} {age : BitVec 32} : StaysGuarded ch s (execCanFrameReceived n f age s) := by
  unfold execCanFrameReceived
  exact .onClkMem fun k => .ite k (.ite (.dev k fun h => .canException h) (.canArb (.dev (.canFilter (.dev k fun h =>
    .canRxGood h)) fun h => .canStopped (.when (.when (.refSeen h) fun h => .refHeard h) fun h => .followHeard h))))

theorem refFollowTimeout {n : Fin 4} : StaysGuarded ch s (execRefFollowTimeout n s) :=
  .onClk fun h => .when h fun h => .count (.canUpd h)

theorem canProtocolException {n : Fin 4} : StaysGuarded ch s (execCanProtocolException n s) := .onClk fun h => .canException h

theorem canBusError {n : Fin 4} {e : CanErr} {lec : BitVec 3} : StaysGuarded ch s (execCanBusError n e lec s) := by
  unfold execCanBusError
  refine .onClk fun h => .ite h ?_
  extract_lets
  split
  exacts [.canCount (.set h), .canCount (.set h), .canCount (.set h), .set h, .canCount (.canUpd (.set h))]

theorem fifoPop {n : Fin 4} : StaysGuarded ch s (execFifoPop n s) := .byReg fun h => .canPop h

theorem hpSlotFree {n : Fin 4} {mask : BitVec 4} : StaysGuarded ch s (execHpSlotFree n mask s) := .byReg fun h => .clrBits h

theorem dominantTimeout {n : Fin 4} : StaysGuarded ch s (execDominantTimeout n s) :=
  .onClk fun h => .when h fun h => .raiseLim (.count (.canUpd h))

/-! #### Sys2Proof/Machine/Eth.lean -/

theorem ethLinkChange {p : Fin 2} {up : Bool} {sqi : BitVec 3} : StaysGuarded ch s (execEthLinkChange p up sqi s) :=
  .domain fun h => .ethLink h

theorem announceReceived {p : Fin 2} {a : Announce} : StaysGuarded ch s (execAnnounceReceived p a s) :=
  .main fun h => .ite h (.asSelect (.beside h))

theorem announceTransmit {p : Fin 2} : StaysGuarded ch s (execAnnounceTransmit p s) :=
  .main fun h => by extract_lets; split; exacts [.ite (.beside (.asSelect h)) (.asSelect h), .asSelect h]

theorem syncTransmit {p : Fin 2} : StaysGuarded ch s (execSyncTransmit p s) := .main fun h => .ite (.syncSend h) h

theorem syncReceived {p : Fin 2} {t : BitVec 64} {age : BitVec 32} : StaysGuarded ch s (execSyncReceived p t age s) :=
  .main fun h => .ite h (.when (.when h fun h => .syncSend h) fun h => .dtmMeasure h)

theorem pdelayExchange {p : Fin 2} {delay : Option (BitVec 32)} : StaysGuarded ch s (execPdelayExchange p delay s) := by
  unfold execPdelayExchange
  exact .main fun h => .ite h (by split; exacts [.asSelect (.set (.set h)), .asSelect (.raise (.count (.asForget h)))])

theorem syncLost {p : Fin 2} : StaysGuarded ch s (execSyncLost p s) := .main fun h => .ite (.raise (.count h)) h

theorem switchFrameReceived {p : Fin 2} {l : List (BitVec 8)} {ok : Bool} {age : BitVec 32} :
    StaysGuarded ch s (execSwitchFrameReceived p l ok age s) := by
  unfold execSwitchFrameReceived
  exact .mainMem fun k => .hostDrain (.dev k fun h => .switched h)

theorem txkick : StaysGuarded ch s (execTxkick s) := .byRegMem fun k => .txKick k

theorem hostFrameSent {ok : Bool} {age : BitVec 32} : StaysGuarded ch s (execHostFrameSent ok age s) := by
  unfold execHostFrameSent
  exact .onClkMem fun k => .ite k (.txKick (.dev k
    fun h => .raise (.set (.ite (.eachOf (.macLearn h) fun h => .ethQueue h) h))))

theorem macEntryAgeing {mac : BitVec 48} : StaysGuarded ch s (execMacEntryAgeing mac s) := .main fun h => .beside h

/-! #### Sys2Proof/Machine/Spim.lean -/

theorem m0Go : StaysGuarded ch s (execM0Go s) := .byReg fun h => .m0Go h

theorem m0Done {e : M0End} : StaysGuarded ch s (execM0Done e s) := by
  unfold execM0Done
  refine .onClkMem fun k => .ite k ?_
  cases e with
  | timeout => exact .dev k fun h => .raise (.count (.set (.clkEval (.set h))))
  | done rd chg =>
    exact .ite k (.ite (.dev k fun h => .raise (.set (.clkEval (.set h)))) (.dev k fun h =>
      .raise (.count (.set (.ite (.clkEval (.set h)) (.m0Upd (.clkEval (.set h))))))))

theorem flashWindowRead {free : Bool} : StaysGuarded ch s (execFlashWindowRead free s) := .onClk fun h => .when h fun h => .count h

theorem m1TxQueue {v : BitVec 64} : StaysGuarded ch s (execM1TxQueue v s) := .byReg fun h => .m1Tx h

theorem m1EntryDone {w : BitVec 32} {l : List (BitVec 8)} : StaysGuarded ch s (execM1EntryDone w l s) := by
  unfold execM1EntryDone
  refine .onClkMem fun k => ?_
  split
  · exact k
  · exact .dev k fun h => .clkEval (.m1Show (.ite
      (.raise (.ite (.beside h) (.m1Received (.beside h)))) (.m1Start (.ite (.beside h) (.m1Received (.beside h))))))

theorem m1RxPop : StaysGuarded ch s (execM1RxPop s) := .byReg fun h => .m1Pop h

/-! #### Sys2Proof/Machine/Boot.lean -/

theorem pllLock {p : Fin 3} : StaysGuarded ch s (execPllLock p s) :=
  .main fun h => .ite (.pllRelease (.laResume (.refAtStart (.showFrozen (.set h))))) h

theorem thimbleBootDone {ok safe1 safe2 cal1 cal2 torn : Bool} :
    StaysGuarded ch s (execThimbleBootDone ok safe1 safe2 cal1 cal2 torn s) := by
  unfold execThimbleBootDone
  refine .mainOff fun h => .ite h.on (.ite (.beside h.on) ?_)
  extract_lets _ d1 d2 d3
  have h3 : d3.Backed ch := .thmStart (Dev.Guarded.thmShow (.trimLoad (.thmChecks (.beside h)))).backed
  exact .bootRelease (.jnlBoot h3.hemHold.guarded)

theorem headerCheckDone {ok : Bool} {map prot : BitVec 64} : StaysGuarded ch s (execHeaderCheckDone ok map prot s) := by
  unfold execHeaderCheckDone
  exact .bootStage fun k => .ite (.dev k fun h => .slotRefused (.ite (.setReg (.setReg h)) (.set (.beside (.setReg (.setReg
    h)))))) (.dev k fun h => .beside (.ite (.setReg (.setReg h)) (.set (.beside (.setReg (.setReg h))))))

theorem imageStreamDone {ok : Bool} {c : ImgContent} : StaysGuarded ch s (execImageStreamDone ok c s) :=
  .bootStage fun k => .ite (.dev k fun h => .slotRefused h) (.dev k fun h => .beside h)

theorem signatureCheckDone : StaysGuarded ch s (execSignatureCheckDone s) :=
  .bootStage fun k => .ite (.dev k fun h => .slotRefused h) (.dev k fun h => .beside (.setCause h))

theorem activation : StaysGuarded ch s (execActivation s) := by
  unfold execActivation
  exact .bootStageOff fun k => .ite k.on (.dev k.on fun _ => (Dev.Backed.activate k).guarded)

theorem readySet : StaysGuarded ch s (execReadySet s) := by
  unfold execReadySet
  refine .bootStageOff fun k => .dev k.on fun _ => .clkEval (.domReady (Dev.Backed.guarded (.thmEvalAll (.hemHold ?_))))
  exact (Dev.Guarded.beside (.when (.set (.set (.set (.beside k)))) fun h => .raise h)).backed

theorem verify : StaysGuarded ch s (execVerify s) := .byReg fun h => .verify h

theorem verifyDone {ok : Bool} {c : ImgContent} : StaysGuarded ch s (execVerifyDone ok c s) :=
  .onClk fun h => .ite h (.set (.setCause h))

/-! #### Sys2Proof/Machine/Crc.lean -/

theorem crcInit {u : Fin 8} : StaysGuarded ch s (execCrcInit u s) := .byReg fun h => .crcInit h

theorem crcGo {u : Fin 8} : StaysGuarded ch s (execCrcGo u s) := .byReg fun h => .crcGo h

theorem crcData {u : Fin 8} {half : Bool} {v : BitVec 64} : StaysGuarded ch s (execCrcData u half v s) := .byReg fun h => .crcData h

/-! #### Sys2Proof/Machine/Flow.lean -/

theorem flowMeasurementStart : StaysGuarded ch s (execFlowMeasurementStart s) := .onClk fun h => .when h fun h => .set h

theorem flowPairEvaluated {peak : Bool} {ad au qd qu : BitVec 16} {td tu dt : BitVec 32} : StaysGuarded ch s (execFlowPairEvaluated
  peak ad au qd qu td tu dt s) := by
  unfold execFlowPairEvaluated
  exact .onClk fun h => .ite h (.ite (.raiseLim (.count (.set (.set (.set (.set (.set h))))))) (.flowValid (.set (.set (.set
    (.set h))))))

theorem flowStale : StaysGuarded ch s (execFlowStale s) := .main fun h => .ite h (.raise (.set h))

/-! #### Sys2Proof/Machine/Lua.lean -/

theorem luTxByte {n : Fin 4} {b : BitVec 8} : StaysGuarded ch s (execLuTxByte n b s) := .byReg fun h => .luTx h

theorem luByteSent {n : Fin 4} : StaysGuarded ch s (execLuByteSent n s) :=
  .onClk fun h => by split; exacts [h, (.ite h (.when (.luShow (.luUpd h)) fun h => .raise h))]

theorem luRxPop {n : Fin 4} : StaysGuarded ch s (execLuRxPop n s) := .byReg fun h => .luPop h

theorem uartByteReceived {n : Fin 4} {b : BitVec 8 × BitVec 8 × BitVec 8} {par : Bool × Bool × Bool}
    {stop : Bool × List Bool} : StaysGuarded ch s (execUartByteReceived n b par stop s) := by
  unfold execUartByteReceived
  exact .onClk fun h => .ite h (.when (.ite (.count (.when (.when (.when h fun h => .count h) fun h => .count h) fun h =>
    .count h)) (.raise (.luShow (.luUpd (.when (.when (.when h fun h => .count h) fun h => .count h) fun h => .count h)))))
    fun h => .luError h)

theorem linGo {n : Fin 4} : StaysGuarded ch s (execLinGo n s) := .byReg fun h => .linGo h

theorem linFrameEnd {n : Fin 4} {e : LinEnd} : StaysGuarded ch s (execLinFrameEnd n e s) :=
  .onClk fun h => by split; exacts [h, (by split; exacts [.linDone h, .linEnd h])]

theorem linResponseTimeout {n : Fin 4} : StaysGuarded ch s (execLinResponseTimeout n s) :=
  .onClk fun h => .when h fun h => .linEnd h

theorem linBreak {n : Fin 4} {span : BitVec 32} : StaysGuarded ch s (execLinBreak n span s) :=
  .onClk fun h => .ite h (.ite (.linEnd (.count h)) (.set (.luUpd (.count h))))

theorem linHeader {n : Fin 4} {pid : BitVec 8} : StaysGuarded ch s (execLinHeader n pid s) := by
  unfold execLinHeader
  exact .onClk fun h => .ite h (.ite (.linEnd (.luUpd h)) (by split; exacts [.raise (.count (.luUpd h)), .set (.set (.luUpd
    (.luUpd h)))]))

/-! #### Sys2Proof/Machine/Nfc.lean -/

theorem tagInventory {len : BitVec 7} {mask : BitVec 64} : StaysGuarded ch s (execTagInventory len mask s) :=
  .inField fun k => .ite (.dev k fun h => .tagAnswer h) k

theorem tagStayQuiet {uid : BitVec 64} : StaysGuarded ch s (execTagStayQuiet uid s) :=
  .inField fun k => .ite (.dev k fun h => .tagProto h) k

theorem tagSelect {uid : BitVec 64} : StaysGuarded ch s (execTagSelect uid s) :=
  .inField fun k => .ite (.dev k fun h => .tagAnswer (.tagProto h)) (.ite (.dev k fun h => .tagProto h) k)

theorem tagResetToReady {adr : TagTo} : StaysGuarded ch s (execTagResetToReady adr s) :=
  .tagCmd fun k => .dev k fun h => .tagAnswer (.tagProto h)

theorem tagReadSingleBlock {adr : TagTo} {b : BitVec 8} : StaysGuarded ch s (execTagReadSingleBlock adr b s) :=
  .tagCmd fun k => .tagRead k

theorem tagWriteSingleBlock {adr : TagTo} {b : BitVec 8} {v : BitVec 32} : StaysGuarded ch s (execTagWriteSingleBlock adr b v s) :=
  .tagCmd fun k => .tagWriteBlock k

theorem tagReadMultipleBlocks {adr : TagTo} {b n : BitVec 8} : StaysGuarded ch s (execTagReadMultipleBlocks adr b n s) :=
  .tagCmd fun k => .tagRead k

theorem tagExtendedReadSingleBlock {adr : TagTo} {b : BitVec 16} : StaysGuarded ch s (execTagExtendedReadSingleBlock adr b s) :=
  .tagCmd fun k => .tagRead k

theorem tagExtendedWriteSingleBlock {adr : TagTo} {b : BitVec 16} {v : BitVec 32} :
    StaysGuarded ch s (execTagExtendedWriteSingleBlock adr b v s) := by
  unfold execTagExtendedWriteSingleBlock
  exact .tagCmd fun k => .ite (.dev k fun h => .tagError h) (.tagWriteBlock k)

theorem tagExtendedReadMultipleBlocks {adr : TagTo} {b n : BitVec 16} : StaysGuarded ch s (execTagExtendedReadMultipleBlocks adr b n
  s) := by
  unfold execTagExtendedReadMultipleBlocks
  exact .tagCmd fun k => .tagRead k

theorem tagGetSystemInformation {adr : TagTo} : StaysGuarded ch s (execTagGetSystemInformation adr s) :=
  .tagCmd fun k => .dev k fun h => .tagAnswer h

theorem tagExtendedGetSystemInformation {adr : TagTo} : StaysGuarded ch s (execTagExtendedGetSystemInformation adr s) :=
  .tagCmd fun k => .dev k fun h => .tagAnswer h

theorem unsupportedTagCommand {adr : TagTo} : StaysGuarded ch s (execUnsupportedTagCommand adr s) :=
  .tagCmd fun k => .dev k fun h => .tagError h

theorem nfcFieldDetected : StaysGuarded ch s (execNfcFieldDetected s) := by
  unfold execNfcFieldDetected
  exact .alwaysOff fun h => Dev.Guarded.on (.ite h (.ite (.tagShow (.beside h)) (.ite (.wake (.when (.tagShow (.beside h))
    fun h => .raise h)) (.when (.tagShow (.beside h)) fun h => .raise h))))

theorem nfcFieldGone : StaysGuarded ch s (execNfcFieldGone s) :=
  .always fun h => .ite (.when (.tagShow (.beside h)) fun h => .raise h) h

theorem nfcCommit {page : BitVec 6} : StaysGuarded ch s (execNfcCommit page s) :=
  .byRegMem fun k => .nfcCommit (.dev k fun h => .set h)

theorem nfcRead {page : BitVec 6} : StaysGuarded ch s (execNfcRead page s) := .byRegMem fun k => .nfcRead (.dev k fun h => .set h)

theorem nfcCommitDone {e : TagEnd} : StaysGuarded ch s (execNfcCommitDone e s) := by
  unfold execNfcCommitDone
  refine .onClkMem fun k => ?_
  split
  · exact .ite (.dev k fun h => .raise (.count (.set (.nfcFree h)))) k
  · exact .ite k (.dev k fun h => .beside h)
  · refine .ite k ?_
    split
    · exact .dev k fun h => .when (.raise (.count (.set (.nfcFree h)))) fun h => .tagDirty h
    · exact .nfcTake (.dev k fun h => .nfcFree h)
    · exact k

theorem faultPageMirror : StaysGuarded ch s (execFaultPageMirror s) := by
  unfold execFaultPageMirror
  exact .onClkMem fun k => .ite k (.dev k fun h => .clkEval (.add (.beside h)))

/-! #### Sys2Proof/Machine/Bus.lean -/

theorem registerWrite {o : Origin} {a : BitVec 40} {w : Width} {v : BitVec 64} :
    StaysGuarded ch s (execRegisterWrite o a w v s) := .byOriginMemOff fun k => k.busWrite

theorem debugCommand {cmd : DbgCmd} : StaysGuarded ch s (execDebugCommand cmd s) :=
  .mainMemOff fun k => .ite (.dev k.on fun h => .count h) (.debugCmd k)

/-! #### Sys2Proof/Machine/CrcMem.lean -/

theorem crcStop {u : Fin 8} {cyc : BitVec 40} : StaysGuarded ch s (execCrcStop u cyc s) :=
  .byRegMem fun k => .dev (.crcCycles k) fun h => .crcEnd h

theorem crcMemoryDone {u : Fin 8} : StaysGuarded ch s (execCrcMemoryDone u s) :=
  .onClkMem fun k => .dev (.crcCycles k) fun h => .crcEnd h

/-! #### Sys2Proof/Machine/SpiHost.lean -/

theorem spihFrameStart : StaysGuarded ch s (execSpihFrameStart s) :=
  .main fun h => .ite h (.ite (.clkEval (.count (.spihUpd h))) (.clkEval (.spihUpd h)))

theorem spihFrameEnd {l : List (BitVec 8)} : StaysGuarded ch s (execSpihFrameEnd l s) := by
  unfold execSpihFrameEnd
  refine .onClkMemOff fun k => .ite k.on (.ite (.dev k.on fun h => .clkEval (.spihUpd h)) ?_)
  extract_lets _ d1 d2
  have h2 : d2.Guarded (.off ch) := .spihUpd (.when k fun h => .count h)
  refine .ite (.appReset (.dev k.backed fun _ => h2.backed)) ?_
  split
  · exact .dev k.on fun _ => .clkEval (.spihUpd h2.on)
  · exact .dev k.on fun _ => .clkEval (.raise (.count (.spihUpd h2.on)))

theorem nopCmd : StaysGuarded ch s (execNopCmd s) := .spiExec fun k => .dev k fun h => .spiDone h

theorem rd : StaysGuarded ch s (execRd s) := by
  unfold execRd
  refine .spiExec fun {t q} k => ?_
  have kr : (t.spiRead q.addr q.len8).1.Guarded (.on ch) := .spiRead k
  split <;> rename_i he <;> rw [he] at kr <;> exact .dev kr fun h => .spiDone h

theorem wr : StaysGuarded ch s (execWr s) := by
  unfold execWr
  exact .spiExecOff fun k => .dev k.wrReady.spiWrite fun h => .spiDone h

theorem flRd {ok : Bool} : StaysGuarded ch s (execFlRd ok s) :=
  .spiFlash fun k => .ite (.dev k fun h => .spiDone h) (.dev k fun h => .spiDone h)

theorem flProg {ok : Bool} : StaysGuarded ch s (execFlProg ok s) :=
  .spiFlash fun k => .ite (.dev k fun h => .flashRefuse h) (.dev (.flashProg k) fun h => .spiDone h)

theorem flErase {ok : Bool} : StaysGuarded ch s (execFlErase ok s) := by
  unfold execFlErase
  exact .spiFlash fun k => .ite (.dev k fun h => .flashRefuse h) (.dev k fun h => .spiDone h)

theorem keyProg : StaysGuarded ch s (execKeyProg s) := by
  unfold execKeyProg
  exact .spiExec fun k => .ite (.dev k fun h => .spiDone h) (.dev k fun h => .spiDone (.beside h))

theorem keyRevoke : StaysGuarded ch s (execKeyRevoke s) :=
  .spiExec fun k => .ite (.dev k fun h => .spiDone (.beside h)) (.dev k fun h => .spiDone h)

theorem appReset : StaysGuarded ch s (execAppReset s) := .spiExec fun k => .dev k fun h => .spihUpd (.spiDone h)

theorem unknownCommand : StaysGuarded ch s (execUnknownCommand s) :=
  .onClkMem fun k => by split; exacts [k, (.ite k (.dev k fun h => .spiDone h))]

end StaysGuarded

/-- Every command answers a next state that guards a gate that is off. -/
theorem exec_staysGuarded (ch : Fin 14) (i : Instr) (s : State) : StaysGuarded ch s (exec i s) := by
  cases i
  case segnum num gm => exact .segnum (gm := gm)
  exacts [.registerWrite, .busErrorAccess, .vsupGood, .vsupDipStart, .vsupSagEnd, .supplyLossEvent, .vsupRecovery,
    .vholdBelowMinimum, .vholdExhausted, .vholdGood, .sleepReq, .sleepPrepComplete, .canWakePattern, .wakePinAccepted,
    .nfcFieldDetected, .nfcFieldGone, .sleepTimerExpiry, .pllRequest, .pllLock, .pllLockTimeout, .pllLastRequestReleased,
    .pllHoldoffExpire, .pllLockLost, .referenceFailure, .thimbleBootDone, .headerCheckDone, .imageStreamDone,
    .signatureCheckDone, .activation, .gateLinkTrainingDone, .gateLinkTrainingFail, .gateLinkRetry, .readySet, .appRst,
    .watchdogExpiry, .thimbleReset, .debugReset, .verify, .verifyDone, .foModeWrite, .foCurrentLimitReached,
    .foCurrentBelowLimit, .foLimitTimerExpire, .foOvertemperature, .foRetryTimerExpire, .foRetryReset, .foLatchClear,
    .bankSupplyFault, .bankSupplyRecovered, .aggOver, .diRawEdge, .diFilteredEdge, .adcRunStart, .adcRunStop, .sampleRecord,
    .slotTrigger, .slotFirstAperture, .slotComplete, .slotResultPublish, .urgentRequest, .urgentSlotComplete, .refSelect,
    .referenceSettled, .referenceOutOfWindow, .adcCalStart, .calibrationEnd, .adcTrimStart, .adcTrimDone, .auxScanStart,
    .auxEntryDone, .excitationMark, .resolverPairTimeout, .encoderEdge, .encoderMeasurement, .index, .serialFrameStart,
    .serialFrameComplete, .sscStartBitTimeout, .vencOvercurrent, .posFaultClear, .openToSls, .openTimeout, .slsLowSpeed,
    .disagree, .standstillCheckEnd, .satPulseEnd, .pulseDecayEnd, .cluEnable, .cluDisable, .offsetMeasurementEnd,
    .currentLoopUpdate, .vectorMeasurementRequest, .starved, .carrierMark, .switchEdge, .deadTimeEnd, .onTimeLimit,
    .brakeRequestSet, .brakeRequestClear, .brakeOnTimeEnd, .brakeOffTimeEnd, .brakePulseMissing, .windingDischargeEngage,
    .coffOnPhaseEnd, .coffOffTimeEnd, .windingDischargeEnd, .debugHalt, .debugResume, .debugCommand, .gateEdge, .edgeLearn,
    .shortCircuit, .desat, .softoffEnd, .overcurrent, .gateSupplyFault, .gateSupplyRecovered, .vposLost, .mismatch,
    .ntcReading, .ntcTrip, .ontHv, .linkLoss, .linkStatusMissing, .ascCommand, .ascRelease, .gateEnFall, .gateEnDisable,
    .gateEnRise, .autonomousDischarge, .disTmaxElapsed, .groupTrigger, .triggerTimeout, .opNop, .opMov, .opAdd, .opSub,
    .opNeg, .opAbs, .opMin, .opMax, .opClamp, .opSel, .opWrap, .opMul, .opMac, .opMsu, .opAccld, .opAccrd, .opTab, .opDiv,
    .opSqrt, .opSincos, .opAtan2, .opMag, .opBiq, .opRamp, .opPi, .opIn, .opOut, .opJge, .opEnd, .operationResult,
    .blockAccept, .epochDeadline, .collectorSwap, .sliceRun, .sliceEccError, .tuneCommit, .laRdw, .laRdout, .laRdage,
    .laRdseq, .laRdsst, .laTstat, .laDiv, .laSqrt, .laSin, .laCos, .laAtan2, .laMag, .laTset, .laTcommit, .laRun,
    .illegalInstruction, .commitBufferSend, .squash, .assistResultReturn, .arm, .stop, .force, .spoolRecordWrite,
    .spoolMemoryWrite, .axisEnable, .axisDisable, .axisStop, .homeGo, .positionTargetWrite, .velocityTargetWrite,
    .positionWrite, .motionTick, .holdCurrentTimer, .stepEdge, .chopperUpperReached, .chopperLowerReached, .chopperTailEnd,
    .onPhaseLimit, .limitSwitchEdge, .homeSwitchEdge, .homeDebounceExpire, .coilShort, .vstpFault, .vstpRecovered,
    .mismatchDetected, .darnRestartComplete, .checkpoint, .forced, .privateStore, .watchdogService, .split, .splitComplete,
    .ownerReq, .safeAck, .handoverTimeout, .rejoin, .rejoinTimeout, .rejoinComplete, .splitCoreParity, .deratingUpdate,
    .hemSpeedTrip, .hemUdcTrip, .hold, .thimbleCoreFault, .thimbleRestartDone, .pathTest, .speedCheck, .selReleaseTimer,
    .ss1Check, .ss1Deadline, .sbcEngageTimer, .stoAscTimeout, .safeToSto, .safetyInputChange, .siDisc, .sbcTestPulse,
    .sbcApplyCheck, .sbcCurrentLow, .tmWindowEnd, .udcDiv, .disSlow, .windingDischargeStop, .lockoutExpiry, .lockoutSave,
    .unlockTimeout, .request, .request, .request, .request, .request, .request, .request, .request,
    .request, .request, .request, .request, .request, .request, .request, .canRunSet, .canRunClear,
    .busIdleDetected, .canFrameReceived, .refFollowTimeout, .canProtocolException, .canBusError, .txreq, .txabort,
    .canTxComplete, .fifoPop, .hpSlotFree, .recover, .busOn, .dominantTimeout, .refPeriod, .ethLinkChange,
    .switchFrameReceived, .syncReceived, .pdelayExchange, .announceReceived, .syncLost, .txkick, .dtmHoldover, .submit,
    .txPop, .appsend, .connectionEnable, .connectionCycle, .connectionWatchdog, .domainEn, .formDelayReached, .domainOpen,
    .domainClaim, .domainRegister, .domainTrunk, .domainLeader, .domoff, .claimSilence, .segmentClose, .segReg,
    .directoryClose, .dirAck, .dirDone, .dirQuery, .gatewayServoLocked, .connectComplete, .leaderRefMissing, .gmChange,
    .crcInit, .crcGo, .crcStop, .crcData, .crcMemoryDone, .spihFrameStart, .nopCmd, .rd, .wr, .flRd, .flProg, .flErase,
    .keyProg, .keyRevoke, .appReset, .spihFrameEnd, .m0Go, .m0Done, .flashWindowRead, .m1TxQueue, .m1EntryDone,
    .m1RxPop, .luTxByte, .luRxPop, .uartByteReceived, .linGo, .linFrameEnd, .linResponseTimeout, .linBreak, .linHeader,
    .tagInventory, .tagStayQuiet, .tagSelect, .tagResetToReady, .tagReadSingleBlock, .tagWriteSingleBlock,
    .tagReadMultipleBlocks, .tagExtendedReadSingleBlock, .tagExtendedWriteSingleBlock, .tagExtendedReadMultipleBlocks,
    .tagGetSystemInformation, .tagExtendedGetSystemInformation, .unsupportedTagCommand, .nfcCommit, .nfcRead, .nfcCommitDone,
    .faultPageMirror, .flowMeasurementStart, .flowPairEvaluated, .flowStale, .evrAck, .evrPendClear, .journalEntryWrite,
    .jnlFwcmd, .vsupReturn, .vholdLow, .highVoltageHalfPowerUp, .unknownCommand, .unknownRequest, .luByteSent,
    .hostFrameSent, .syncTransmit, .announceTransmit, .macEntryAgeing, .splitCoreSelfTestDone]

theorem step_staysGuarded (ch : Fin 14) (s : State) : StaysGuarded ch s (step s) := by
  rw [step]
  split
  next c rest _ => exact ⟨(exec_staysGuarded ch c { s with pending := rest }).ends⟩
  · exact .next fun k => .idle k

/-- A gate that is on after a step was on before it, or is guarded. -/
theorem gate_or_guarded_of_step (n : Fin 14) {s t : State} (hst : step s = .next t) (hg : (t.dev.gchAt n).gate = true) :
    (s.dev.gchAt n).gate = true ∨ t.dev.permits n = true ∨ (n.val = 13 ∧ (t.dev.gchAt n).running = true) := by
  by_cases hoff : (s.dev.gchAt n).gate = true
  · exact .inl hoff
  · obtain ⟨u, hu, hk⟩ := (step_staysGuarded n s).ends fun h => absurd h hoff
    obtain rfl : u = t := by injection hu.symm.trans hst
    exact .inr (hk hg).2

/-- Settles O10: from a gate that is off, every operation that may turn it on asks for both paths or starts a run of GCH13's own
half, and one that removes a path turns the gate off with it. -/
theorem gateTurnsOnOnlyPermitted : Obligations.GateTurnsOnOnlyPermitted := by
  refine ⟨fun s t n hn hst hg => ?_, fun s t hst hg => ?_⟩
  · exact (gate_or_guarded_of_step ⟨n, by omega⟩ hst hg).imp_right (Or.resolve_right · fun h => Nat.ne_of_lt hn h.1)
  · exact (gate_or_guarded_of_step 13 hst hg).imp_right (.imp_right And.right)

end Sys2Proof.Machine
end
